-- ==== Sys2Proof/Word.lean ====
section
/-! DEFINITION. The plain widths of the device (R9, R11): bytes, words and the number of a logical core. -/

namespace Sys2Proof

/-- One byte of device memory, operand cache or a message. -/
abbrev Byte := BitVec 8

/-- A 32-bit register or flag counter. -/
abbrev Word32 := BitVec 32

/-- A 64-bit register, tile handle or half of a command word. -/
abbrev Word64 := BitVec 64

/-- A logical core (R4): the core windows of BAR0 are numbered 0 to 63 in every grade (R5). -/
abbrev CoreId := Fin 64

end Sys2Proof
end

