-- ==== Sys2Proof/Syntax.lean ====
section
/-! DEFINITION. The commands of the block: one constructor per row of spec/opcode_table.json, with the operands that
come from outside it. A row that the sequencer dispatches carries the two halves of the fetched command word (R63). A row
whose outcome only physics or a partner decides (upset bits, sensor readings, received packets) carries it as operand. -/

namespace Sys2Proof

/-- An ECC error found in a word while a command reads it: an 8-byte word of the operand cache by its physical number
(R159), or under `acc` an accumulator word, column c of row r of array a being number (1,024·a + r)·128 + c (R132); and
whether two bits are wrong. -/
structure EccHit where
  word : Nat
  double : Bool
  acc : Bool
  deriving DecidableEq, Repr

/-- What befalls the stored copy of a 64 B line before a command reads it: in HBM symbols in error, as a mask of 72
(R231); in tier-2 memory whether its expander reports the line as poisoned (R233), and how many link replays its port
reports (R242). -/
structure LineHit where
  line : Nat
  syms : Nat
  poison : Bool
  replays : Nat
  deriving DecidableEq, Repr

/-- What disturbs one row of an array (R128 to R132): bits flipped in the tree outputs of the first pass of the row
(columns 0 to 127, 128 for s, 129 for t), bits flipped when it is evaluated again, and ECC errors found in the
accumulator words it reads (column, two bits wrong); `scr` those found by the scratch addition of R114 (row: 0 the
destination, 1 S1, 2 S2; column; two bits wrong). -/
structure RowUpset where
  first : List (Nat × BitVec 48)
  second : List (Nat × BitVec 48)
  ecc : List (Nat × Bool)
  scr : List (Nat × Nat × Bool)
  deriving DecidableEq, Repr

/-- A row that nothing disturbs. -/
def RowUpset.none : RowUpset := ⟨[], [], [], []⟩

/-- The engines of a core (R61). -/
inductive Engine where
  | mxu | vce | tmv | hub
  deriving DecidableEq, Repr

/-- A hub-bound command is dispatched by the sequencer, and later performed by the hub from the head of its queue. -/
inductive HubPhase where
  | dispatch (lo imm : Word64)
  | perform
  deriving DecidableEq, Repr


/-- A host or MSS write to a 64-bit register: all of it, or one half (R12). -/
inductive RegWrite where
  | all (v : Word64)
  | low (v : Word32)
  | high (v : Word32)
  deriving DecidableEq, Repr

/-- A performance counter (R490): fixed or programmable of a core, or of the hub. -/
inductive CtrId where
  | fix (core : CoreId) (n : Fin 2)
  | cnt (core : CoreId) (n : Fin 8)
  | hub (n : Fin 16)
  deriving DecidableEq, Repr

/-- What a submission entry (R395) holds beside its OP: FLAGS, whether a Reserved byte is not 0, JOB_ID, ADDR, COOKIE,
and whether its line arrived poisoned. -/
structure SqEntry where
  flags : Byte
  rsvd : Bool
  jobId : Word32
  addr : Word64
  cookie : Word64
  poisoned : Bool
  deriving DecidableEq, Repr

/-- What triggers a warm reset (R405); a TOP_RESET write carries its value. -/
inductive WarmTrigger where
  | perst | hotReset | linkDisable | flr
  | register (w : Word32)
  deriving DecidableEq, Repr

/-- What a partner sends in IDENT (R254, R255, R263): whether it is a KN-EL9200, its identity, port, SPLIT, usable width and
lane map (the physical lane of each logical lane), the last in-order DATA sequence it has received, and its credit
counters; and, as the lane markers show (R248, R264), the partner's fibre that reaches each fibre of this port, both
counted from the port's first. -/
structure PartnerId where
  el9200 : Bool
  devid : BitVec 14
  pkey : BitVec 16
  port : Fin 16
  split : Bool
  width : BitVec 6
  lanes : List (Fin 36)
  ack : Option (BitVec 13)
  ded : List (BitVec 16)
  pool : BitVec 32
  fibres : List (Fin 4)
  deriving DecidableEq, Repr

/-- The registers of a laser module as read over the laser I3C bus (R252). -/
structure LaserReading where
  cls : BitVec 16
  grid : BitVec 16
  fault : BitVec 16
  temp : BitVec 16
  power : List (BitVec 16)
  deriving DecidableEq, Repr

/-- The two transports that reach the management subsystem (R442, R448). -/
inductive Transport where
  | sideband | mailbox
  deriving DecidableEq, Repr

/-- Instructions of the TAP (R520). -/
inductive TapInstr where
  | bypass | idcode | extest | samplePreload | intest | other
  deriving DecidableEq, Repr

/-- What answers on a tier-2 port when it is enumerated (R237, R238): whether it is a device R237 supports, the link's
width and speed, and its capacity in units of 256 MiB. -/
structure Expander where
  supported : Bool
  width : BitVec 5
  speed : BitVec 2
  capacity : Word32
  deriving DecidableEq, Repr

/-- The commands: one constructor per row of the spec's table of operations and events. -/
inductive Instr where
  /-- NOP (R66): The sequencer dispatches a NOP, which does nothing. -/
  | nop (core : CoreId) (lo imm : Word64)
  /-- TILE (R66): The sequencer pushes the effective immediate to QO as a tile handle. -/
  | tile (core : CoreId) (lo imm : Word64)
  /-- DROP (R66): The sequencer pops one handle from QS0 and discards it. -/
  | drop (core : CoreId) (lo imm : Word64)
  /-- DUP (R66): The sequencer pops one handle from QS0 and pushes a copy to QO and a copy to QR. -/
  | dup (core : CoreId) (lo imm : Word64)
  /-- PSET (R66): PARAM[PIDX] is set to the effective immediate. -/
  | pset (core : CoreId) (lo imm : Word64)
  /-- PADD (R66): The effective immediate is added to PARAM[PIDX] modulo 2^64. -/
  | padd (core : CoreId) (lo imm : Word64)
  /-- PCOPY (R66): PARAM[IMM[7:0]] is copied into PARAM[PIDX]. -/
  | pcopy (core : CoreId) (lo imm : Word64)
  /-- WAIT (R79): A WAIT is dispatched and the sequencer stalls until the flag reaches TARGET. -/
  | wait (core : CoreId) (lo imm : Word64)
  /-- WAIT_COMPLETE (R79): A pending WAIT becomes satisfied, consumes TARGET if CONSUME is set, and completes. -/
  | waitComplete (core : CoreId)
  /-- SIGNAL (R80): A SIGNAL adds INC to a core or hub flag of this device. -/
  | signal (core : CoreId) (lo imm : Word64)
  /-- FENCE (R82): A FENCE stalls dispatch until earlier commands of the named engines complete. -/
  | fence (core : CoreId) (lo imm : Word64)
  /-- CALL (R89): A CALL reads its parameter block and runs a resident routine, including integrator routines. -/
  | call (core : CoreId) (lo imm : Word64)
  /-- REC_BEGIN (R85): Recording into a replay slot starts. -/
  | recBegin (core : CoreId) (lo imm : Word64)
  /-- REC_END (R85): The open recording ends and is pinned in the command buffer. -/
  | recEnd (core : CoreId) (lo imm : Word64)
  /-- REPLAY (R86): The recording of a slot is dispatched COUNT times. -/
  | replay (core : CoreId) (lo imm : Word64)
  /-- REPLAY_PASS (R87): Before each replay pass, after any HOSTSYNC wait, the patch entries are added to their PARAM registers. -/
  | replayPass (core : CoreId)
  /-- PATCH (R87): A patch entry of a replay slot is set. -/
  | patch (core : CoreId) (lo imm : Word64)
  /-- END (R72): The command list ends and handles left in queues are discarded. -/
  | endList (core : CoreId) (lo imm : Word64)
  /-- MXU_LOADW (R101): A punty load of a weight tile into the arrays named in AMASK is dispatched. -/
  | mxuLoadw (core : CoreId) (lo imm : Word64)
  /-- MXU_STREAM (R103): Activation rows are streamed into accumulator rows of one array. -/
  | mxuStream (core : CoreId) (lo imm : Word64)
  /-- MXU_DRAIN (R123): Accumulator rows are converted into an operand-cache output tile, with optional statistics. -/
  | mxuDrain (core : CoreId) (lo imm : Word64)
  /-- MXU_MULTIPASS (R112): An FP32 or complex multi-pass sequence runs on all four arrays. -/
  | mxuMultipass (core : CoreId) (lo imm : Word64)
  /-- MXU_CLEAR (R118): Accumulator rows and their hidden state are set to the cleared values. -/
  | mxuClear (core : CoreId) (lo imm : Word64)
  /-- MXU_START (R107): The MXU starts the head command of its queue once its start conditions hold. -/
  | mxuStart (core : CoreId) (ecc : List EccHit)
  /-- TREE_OUTPUT (R106): A row's adder-tree output is written into its accumulator row and checked at the tree exit. -/
  | treeOutput (core : CoreId) (arr : Fin 4) (upset : RowUpset)
  /-- DRAIN_ROW_READ (R131): A DRAIN reads an accumulator row, checks it against its checksum and converts it. -/
  | drainRowRead (core : CoreId) (arr : Fin 4) (upset : RowUpset)
  /-- VCE_CFG (R150): A chain configuration word is copied into a configuration slot. -/
  | vceCfg (core : CoreId) (lo imm : Word64)
  /-- VCE_RUN (R156): The configured chain runs over the source tile beat by beat. -/
  | vceRun (core : CoreId) (lo imm : Word64)
  /-- VCE_TBLLOAD (R161): A lookup bank is loaded from a source tile, swapping banks unless NOSWAP. -/
  | vceTblload (core : CoreId) (lo imm : Word64)
  /-- VCE_PERM (R163): Lanes are permuted by an INT32 index tile. -/
  | vcePerm (core : CoreId) (lo imm : Word64)
  /-- VCE_REDUCE (R166): A reduction along rows or columns is performed. -/
  | vceReduce (core : CoreId) (lo imm : Word64)
  /-- VCE_SCAN (R168): A prefix scan along each row is performed, with optional carries. -/
  | vceScan (core : CoreId) (lo imm : Word64)
  /-- VCE_START (R154): The VCE starts its head command once the RAW interlock and credit allow, checking the configuration. -/
  | vceStart (core : CoreId) (ecc : List EccHit)
  /-- TMV_COPY (R202): A copy with layout change, transpose or padding is dispatched to the mover. -/
  | tmvCopy (core : CoreId) (lo imm : Word64)
  /-- TMV_GATHER (R209): A gather by index tensor or block list is dispatched. -/
  | tmvGather (core : CoreId) (lo imm : Word64)
  /-- TMV_SCATTER (R213): A scatter with combine mode is dispatched. -/
  | tmvScatter (core : CoreId) (lo imm : Word64)
  /-- TMV_REMOTE (R215): A copy to or from another device over ZF is dispatched. -/
  | tmvRemote (core : CoreId) (lo imm : Word64)
  /-- TMV_CHECK_PHASE (R201): The mover starts a command and reads descriptor, index tile and block list and makes every start check. -/
  | tmvCheckPhase (core : CoreId) (ecc : List EccHit)
  /-- TMV_ACCESS_PHASE (R217): Once no conflicting earlier command remains, the mover issues the transfer's reads and writes. -/
  | tmvAccessPhase (core : CoreId) (which : Fin 4) (ecc : List EccHit) (hits : List LineHit)
  /-- RSIGNAL (R81): A flag increment on another device is dispatched to the hub-bound queue. -/
  | rsignal (core : CoreId) (lo imm : Word64)
  /-- SIGNAL_RELEASE (R81): An RSIGNAL is sent once every earlier TMV_REMOTE to that device has completed there. -/
  | signalRelease (core : CoreId)
  /-- CLE_BUCKET (R285): A gradient piece is accumulated into its bucket's microstep accumulator. -/
  | cleBucket (core : CoreId) (phase : HubPhase)
  /-- CLE_SMALLREDUCE (R306): A low-latency all-reduce among up to 8 devices is performed. -/
  | cleSmallreduce (core : CoreId) (phase : HubPhase)
  /-- COMMAND_COMPLETE (R62): An engine command completes, pushes its handles, fires CSIG and frees its scoreboard entries. -/
  | commandComplete (core : CoreId) (engine : Engine) (which : Nat)
  /-- QUEUE_DEADLOCK (R84): A closed set of cores has waited HUB_WAIT_LIMIT clocks and the job is halted as deadlocked. -/
  | queueDeadlock (waited : Word64)
  /-- CREDIT_LAPSE (R111): An engine's power credit lapses after 1,024 idle clocks. -/
  | creditLapse (core : CoreId) (unit : Fin 5)
  /-- SOFTMAX (R173): The SOFTMAX routine computes a row softmax. -/
  | softmax (core : CoreId)
  /-- LAYERNORM (R190): The LAYERNORM routine normalises each row. -/
  | layernorm (core : CoreId)
  /-- RMSNORM (R193): The RMSNORM routine normalises each row by its RMS. -/
  | rmsnorm (core : CoreId)
  /-- LINSCAN (R173): The LINSCAN routine computes a chunked gated linear recurrence. -/
  | linscan (core : CoreId)
  /-- TOPK (R173): The TOPK routine selects the K largest or smallest values per row. -/
  | topk (core : CoreId)
  /-- SAMPLE (R173): The SAMPLE routine samples one token per row. -/
  | sample (core : CoreId)
  /-- XENT (R173): The XENT routine computes cross-entropy loss and logit gradient. -/
  | xent (core : CoreId)
  /-- CONV1D (R173): The CONV1D routine computes a causal depthwise convolution. -/
  | conv1d (core : CoreId)
  /-- EXCH_START (R284): The EXCH_START routine opens the exchange of a bucket list. -/
  | exchStart (core : CoreId)
  /-- ALLGATHER (R304): The ALLGATHER routine arms the gather of updated shards. -/
  | allgather (core : CoreId)
  /-- UPDATE (R321): The UPDATE routine drives the PUE over owned or shadowed shards, up to a number of blocks of one shard
  (R343; none: as far as it comes). -/
  | update (core : CoreId) (blocks : Option Word32)
  /-- SHARD_FINALS_READY (R321): A waiting UPDATE resumes at a shard whose finals have been written. -/
  | shardFinalsReady (die : Fin 2) (blocks : Option Word32)
  /-- SHARD_IMAGE_COMPLETE (R323): The PUE finishes a shard, writes the digest and reports the image complete, starting its all-gather and DIGEST. -/
  | shardImageComplete (die : Fin 2) (blocks : Option Word32)
  /-- PRECOND (R338): The PRECOND routine computes inverse fourth roots of the statistics every K steps, up to a number of
  tiles (R343). -/
  | precond (core : CoreId) (tiles : Option Word32)
  /-- RESHARD (R374): The RESHARD routine moves data between two mappings or to a buddy. -/
  | reshard (core : CoreId)
  /-- CKPT (R377): The CKPT routine writes one checkpoint generation. -/
  | ckpt (core : CoreId)
  /-- PART (R289): A PART packet arrives and the hop adds its contribution, rescaling if needed, and forwards. -/
  | part
  /-- CLOSE (R291): A CLOSE packet ends a stream; the owner verifies the checksum identity and finalises the shard. -/
  | close
  /-- ACK (R299): An ACK, or ACK DUP, for a stream's first packet arrives at the sender. -/
  | ack
  /-- RETRY (R292): A RETRY from the owner makes the originator run the shard's stream again with ATTEMPT 1. -/
  | retry
  /-- FINAL (R302): The buddy receives final lanes from the owner and writes them. -/
  | final
  /-- FINAL_CLOSE (R302): The buddy receives the census, writes DIV and increments hub flag 2. -/
  | finalClose
  /-- GATHER (R305): A receiver stages an all-gather payload and forwards it. -/
  | gather
  /-- GATHER_FC (R305): A receiver writes the next exchange's forecast entries and forwards them. -/
  | gatherFc
  /-- GATHER_CLOSE (R305): A receiver takes the census, and when all shards are staged increments hub flag 3. -/
  | gatherClose
  /-- SR (R307): A small-reduction payload arrives from a group member. -/
  | sr (differs : Bool)
  /-- HOP_WAIT_EXPIRY (R299): A hop whose bucket is still unsealed after CLE_HOP_WAIT_US forwards the stream unchanged. -/
  | hopWaitExpiry (bucket : BitVec 16) (shard : BitVec 14)
  /-- CLE_HOP_SKIP (R299): No ACK within CLE_HOP_TIMEOUT_US and the stream is sent to the following position. -/
  | cleHopSkip (gather : Bool) (bucket : BitVec 16) (shard : BitVec 14)
  /-- CLE_DEADLINE (R299): The owner's deadline expires and it closes the shard with its own contribution. -/
  | cleDeadline (bucket : BitVec 16) (shard : BitVec 14)
  /-- CLE_SR_TIMEOUT (R307): A member's small-reduction tile fails to arrive in time and the job halts. -/
  | cleSrTimeout (group : Fin 16)
  /-- READY (R352): The device becomes ready for an attempt and votes when it can. -/
  | ready
  /-- STAGE_MISSING (R352): After a LOSS_NOTICE the vote timeout expires with shards still unstaged. -/
  | stageMissing
  /-- DIGEST (R353): The buddy receives the owner's digest and compares it with its own. -/
  | digest
  /-- DIGEST_TIMEOUT (R353): A live owner's DIGEST does not arrive in time and the shard counts as a mismatch. -/
  | digestTimeout (ent : BitVec 20)
  /-- PROBE_TICK (R354): Each probe period a device probes children that have not voted. -/
  | probeTick
  /-- PROBE (R354): A device answers a PROBE with PROBE_ACK. -/
  | probe
  /-- PROBE_ACK (R354): A PROBE_ACK from a child is received. -/
  | probeAck
  /-- LOSS_NOTICE (R355): A LOSS_NOTICE adds the device to the pending-lost set and triggers buddy all-gathers. -/
  | lossNotice
  /-- VOTE (R356): A vote from a child or descendant is accepted and merged. -/
  | vote
  /-- VOTE_ACK (R356): A VOTE_ACK from the parent is received. -/
  | voteAck
  /-- VOTE_TIMEOUT (R356): No VOTE_ACK arrives in time and the vote is sent to the next ancestor. -/
  | voteTimeout
  /-- DECISION_ACK (R358): A child acknowledges a DECISION. -/
  | decisionAck
  /-- CKE_ORPHANED (R358): No DECISION arrives within the timeout and the device halts its job as ORPHANED. -/
  | ckeOrphaned
  /-- COMMIT (R361): The COMMIT decision flips the epoch and advances the committed step. -/
  | commit
  /-- ABORT (R363): The ABORT decision invalidates step k's alternate copies and rewinds or halts the job. -/
  | abortStep
  /-- RETRY_UPDATE (R367): Listed shards are updated and gathered again, then the tree votes with ATTEMPT + 1. -/
  | retryUpdate
  /-- ROLLBACK (R379): Every device restores the checkpoint generation and halts its job. -/
  | rollback
  /-- HALT (R380): Every device halts its job with c unchanged. -/
  | haltAll
  /-- HOST_ABORT (R349): A write of CKE_CTL.ABORT sets HOST_ABORT in the running step's health word. -/
  | hostAbort (w : Word32)
  /-- HOST_LINE_UPDATE (R394): A host store to a ring's host line is seen and new entries and completion room are processed. -/
  | hostLineUpdate (q : Fin 4) (sqTail cqHead : Word32) (poisoned : Bool)
  /-- START (R395): A START entry is read and joins the job queue. -/
  | start (q : Fin 4) (e : SqEntry)
  /-- JOB_START (R392): When no job runs, the next queued START is checked and the job is started. -/
  | jobStart
  /-- JOB_DONE (R397): Every job core has ended and every command completed, and DONE is written. -/
  | jobDone
  /-- SUSPEND (R399): A SUSPEND entry stops dispatch at the next boundary with no sealed bucket. -/
  | suspend (q : Fin 4) (e : SqEntry)
  /-- SUSPENDED (R399): After the last completion the suspend image is written and SUSPENDED is reported. -/
  | suspended
  /-- RESUME (R401): A RESUME entry restores the suspend image and restarts dispatch. -/
  | resume (q : Fin 4) (e : SqEntry)
  /-- TERMINATE (R398): A TERMINATE entry stops dispatch on every job core. -/
  | terminate (q : Fin 4) (e : SqEntry)
  /-- JOB_TERM_FORCED (R398): Commands not complete 10 ms after TERMINATE force a compute-die reset. -/
  | jobTermForced
  /-- RING_NOP (R395): A NOP entry is answered DONE once earlier entries are handled. -/
  | ringNop (q : Fin 4) (op : Byte) (e : SqEntry)
  /-- RING_ENABLE (R393): Writing HUB_RING_CTL_q.EN enables or disables a job ring. -/
  | ringEnable (q : Fin 4) (w : Word32)
  /-- CXL_MEM_READ (R389): The host reads a device-memory line through CXL.mem. -/
  | cxlMemRead (line : BitVec 39) (cache : Bool) (hits : List LineHit)
  /-- CXL_MEM_WRITE (R388): The host writes a device-memory line through CXL.mem. -/
  | cxlMemWrite (line : BitVec 39) (data : List Byte) (mask : Word64) (poison keep : Bool)
  /-- BISNP_RESPONSE (R385): The host answers a back-invalidation snoop and the pending device write proceeds. -/
  | bisnpResponse (line : BitVec 39)
  /-- HOST_BISNP_TIMEOUT (R385): A BISnp unanswered for 10 ms records a class F error. -/
  | hostBisnpTimeout (line : BitVec 39)
  /-- HOST_LINK_DOWN (R407): The host link is lost without a reset trigger. -/
  | hostLinkDown
  /-- MSIX_BIND_ARM (R404): A HUB_MSIX_BIND write with ARM arms a hub-flag binding. -/
  | msixBindArm (n : Fin 48) (w : RegWrite)
  /-- MSIX_MOD_EXPIRY (R403): The vector 2 moderation interval ends and one message covers the records inside it. -/
  | msixModExpiry
  /-- COLD_RESET (R406): A cold reset trains and zeroes HBM, enumerates tier-2 and resets the device; how often the hub
  firmware and the routine component were read with another digest (R457). -/
  | coldReset (w : Option Word32) (badHub badRoutines : Fin 3) (strap : Bool) (e0 e1 : Option Expander)
  /-- WARM_RESET (R406): A warm reset resets the device while keeping HBM contents. -/
  | warmReset (trigger : WarmTrigger) (hdm : Bool)
  /-- HUB_PRESERVING_RESET (R406): A hub-preserving reset resets the cores and ends the job while keeping link and fabric. -/
  | hubPreservingReset (w : Word32)
  /-- RESET_ARM (R405): A TOP_RESET write with ARM 0x5A arms a reset action for 1 ms. -/
  | resetArm (w : Word32)
  /-- RESET_DISARM (R405): A TOP_RESET write with another ARM value disarms it. -/
  | resetDisarm (w : Word32)
  /-- PERST_N_DEASSERT (R406): PERST_N deasserts and the device becomes ready on BAR0 and BAR2. -/
  | perstNDeassert (hdm : Bool)
  /-- INIT_DONE (R236): A die finishes zeroing its HBM and sets INIT_DONE. -/
  | initDone (die : Fin 2)
  /-- SEQ_FLAG_ADD (R96): A host write adds its value to a core flag. -/
  | seqFlagAdd (core : CoreId) (n : Fin 256) (w : Word32)
  /-- HUB_FLAG_ADD (R96): A host write adds its value to a hub flag. -/
  | hubFlagAdd (n : Fin 1024) (w : Word32)
  /-- DLK_STATUS_CLEAR (R96): Clearing HUB_DLK_STATUS bits re-arms deadlock detection. -/
  | dlkStatusClear (w : RegWrite)
  /-- MXU_INJECT (R135): Writing MXU_INJECT with ARM arms one checksum fault injection. -/
  | mxuInject (core : CoreId) (w : Word32)
  /-- MEM_INJECT (R242): Writing MEM_INJECT with ARM corrupts the stored line once. -/
  | memInject (die : Fin 2) (w : RegWrite)
  /-- ERR_INJECT (R489): Writing ERR_INJECT with ARM submits one injected occurrence. -/
  | errInject (w : RegWrite)
  /-- RECORD_ACKNOWLEDGE (R481): Writing 1 to an ERR_VALID bit acknowledges the record and frees its slot. -/
  | recordAcknowledge (w : Word32)
  /-- FATAL_CLEAR (R483): Writing 1 to an ERR_FATAL_STATUS.VALID bit clears a fatal entry. -/
  | fatalClear (w : Word32)
  /-- SNAPSHOT (R497): A GO write or a job flag addition triggers a counter snapshot. -/
  | snapshot (w : Option Word32)
  /-- SNAPSHOT_DONE (R497): A counter image is written and DONE_FLAG is incremented. -/
  | snapshotDone
  /-- FREEZE (R496): Writing PMU_GLOBAL_CTL.FREEZE freezes or unfreezes every counter. -/
  | freeze (w : Word32)
  /-- SKID_SAMPLE (R502): A skid sample is captured 1 to 64 clocks after the carrying event. -/
  | skidSample (core : CoreId) (skid : Fin 64)
  /-- PRECISE_SAMPLE (R503): A precise sample record is written when its access completes. -/
  | preciseSample (core : CoreId) (latency : Word32)
  /-- PMU_SAMPLE_LOST (R505): A sample record that cannot be written, or waits 4 µs, is lost. -/
  | pmuSampleLost (core : CoreId)
  /-- PKG_LIMIT_WRITE (R420): A write of PWR_PKG_LIMIT_W changes the package limit at the next grant period. -/
  | pkgLimitWrite (w : Word32)
  /-- COOLANT_REPORT (R436): A write of PWR_COOLANT sets inlet and flow, clears STALE and may change a cap. -/
  | coolantReport (w : Word32)
  /-- COOLANT_STALE (R436): Ten seconds without a coolant report set STALE. -/
  | coolantStale
  /-- LASER_ENABLE (R250): A write of FAB_LASER_CTL.EN permits or forbids driving LS_EN_m. -/
  | laserEnable (w : Word32)
  /-- LASER_FAULT_CLEAR (R251): Writing 1 to FAB_LASER_STATUS.FAULT_m clears the module's fault. -/
  | laserFaultClear (w : RegWrite)
  /-- QUIESCE (R257): Setting FAB_PORT_CTL_p.QUIESCE stops new packets to the port. -/
  | quiesce (port : Fin 16) (w : Word32)
  /-- PORT_DISABLE (R253): Writing FAB_PORT_CTL_p.EN to 0 quiesces and then disables the port. -/
  | portDisable (port : Fin 16) (w : Word32)
  /-- FULL_TRAIN (R258): Writing FULL_TRAIN forces full training at the next ACQUIRE. -/
  | fullTrain (port : Fin 16) (w : Word32)
  /-- MAILBOX_SEND (R448): Setting MSS_MB_H2M_CTL.OWN hands a message to the MSS. -/
  | mailboxSend (w : Word32)
  /-- M2H_FULL_CLEAR (R448): Clearing MSS_MB_M2H_CTL.FULL frees the outgoing mailbox. -/
  | m2hFullClear (w : Word32)
  /-- REGISTER_WRITE (R16): A host write to a register without a row of its own takes effect by its field kind. -/
  | registerWrite (off : Word32) (value : Word64) (size : BitVec 8)
  /-- POWER_ENTRY_START (R409): VIN reaches 46.0 V with standby present and the power-entry stages start. -/
  | powerEntryStart
  /-- PWR_VIN_RANGE (R409): VIN leaves the normal range without tripping and the excursion is recorded. -/
  | pwrVinRange (mv : BitVec 16)
  /-- PWR_BROWNOUT (R409): VIN below 44.0 V for 10 µs turns every stage off. -/
  | pwrBrownout
  /-- PWR_VIN_OV (R409): VIN above 58.0 V for 10 µs turns every stage off. -/
  | pwrVinOv
  /-- PWR_OCP (R409): Input current above 110 A for 5 µs turns every stage off. -/
  | pwrOcp
  /-- PWR_DIE_LOST (R411): A compute die's stage or regulator fails and the die leaves service. -/
  | pwrDieLost (die : Fin 2)
  /-- PWR_HUB_LOST (R412): The hub's stage or regulator fails and the device goes offline. -/
  | pwrHubLost
  /-- VSTBY_LOSS (R525): VSTBY falls below 3.135 V for 10 µs and the stages turn off. -/
  | vstbyLoss
  /-- GRANT_PERIOD (R415): At each 1 µs boundary the arbiter computes the budget and grants waiting credit requests. -/
  | grantPeriod (vin iin : BitVec 16) (pkg uncred : BitVec 13)
  /-- YIELD (R418): The oldest request has waited AGE_US and holders are marked for yield. -/
  | yield
  /-- BALLAST_RELEASE (R417): The release allowance admits a ballasted credit and it is released. -/
  | ballastRelease (owner : Fin 64) (unit : Fin 6)
  /-- PWR_THROTTLE (R419): Every 10 µs over the limit the throttle step rises by 1. -/
  | pwrThrottle
  /-- THROTTLE_DOWN (R419): Every 1 ms below 97% of the limits the throttle step falls by 1. -/
  | throttleDown
  /-- PWR_THERM_THROTTLE (R437): A junction at the throttle threshold raises the die's throttle step. -/
  | pwrThermThrottle (domain : Fin 3)
  /-- PWR_TJ_CRIT (R437): A junction or stack at its critical limit for 1 ms causes a critical shutdown. -/
  | pwrTjCrit (place : Fin 5)
  /-- PWR_THERMTRIP (R438): Hardware comparators assert THERMTRIP_N and turn off every stage. -/
  | pwrThermtrip
  /-- PWR_LEAK (R439): LEAK_N low for 100 µs turns off every stage. -/
  | pwrLeak
  /-- PWR_STAGE_HOT (R437): A power-entry stage reaches 115 °C and the 90% cap applies. -/
  | pwrStageHot (stage : Fin 3)
  /-- PWR_OE_SHUTDOWN (R437): An optical engine at 85 °C for 1 ms goes dark. -/
  | pwrOeShutdown (engine : Fin 8)
  /-- OE_RELIGHT (R437): A shut-down optical engine falls below 75 °C and relights. -/
  | oeRelight (engine : Fin 8)
  /-- REPLAN (R431): Every 168 h or on REPLAN_NOW the MSS raises VDD and lowers F of domains short of slack. -/
  | replan (short0 short1 shortHub : BitVec 8) (outlier : Bool)
  /-- AO_COMPARE (R429): An always-on comparator fires when the counter reaches its value. -/
  | aoCompare (n : Fin 8)
  /-- AO_RC_FALLBACK (R427): No AO oscillation within 1 s switches to the internal oscillator. -/
  | aoRcFallback
  /-- CORE_CLOCK_STOP (R422): A core's clock stops after 50 µs without a job or host access. -/
  | coreClockStop (core : CoreId)
  /-- SELF_REFRESH (R423): An idle stack enters self-refresh after 10 ms without access. -/
  | selfRefresh (die : Fin 2) (stack : Fin 10)
  /-- SCRUB_READ (R235): The patrol scrubber reads and checks the next line. -/
  | scrubRead (die : Fin 2) (hits : List LineHit)
  /-- MEM_STACK_FAIL (R240): A stack reaches 64 uncorrectable addresses within 1 s and the die's HBM goes offline. -/
  | memStackFail (die : Fin 2) (stack : Fin 10)
  /-- T2_LINK_DOWN (R240): A tier-2 port's link goes down and its memory is taken offline. -/
  | t2LinkDown (port : Fin 2)
  /-- EXPANDER_FATAL (R240): A tier-2 expander reports a fatal error and its memory is taken offline. -/
  | expanderFatal (port : Fin 2)
  /-- LOSS_OF_LIGHT (R256): LOS or loss of lock on an ACTIVE port sends it to RECOVERY. -/
  | lossOfLight (port : Fin 16)
  /-- LIGHT_RETURN (R253): Light returns on every RX fibre and the port enters ACQUIRE. -/
  | lightReturn (port : Fin 16)
  /-- TRAINING_COMPLETE (R258): Acquisition completes on every lane and the port enters IDENT. -/
  | trainingComplete (port : Fin 16) (ns : Word32)
  /-- FAST_TRAIN_FALLBACK (R258): Fast training fails to complete within 20 µs and gives way to full training. -/
  | fastTrainFallback (port : Fin 16)
  /-- IDENTITY_EXCHANGE (R254): Identity control flits are exchanged and the port goes ACTIVE or FAILED. -/
  | identityExchange (port : Fin 16) (id : PartnerId)
  /-- FAB_LINK_DOWN (R256): FAB_SWITCH_HOLD_US expires in RECOVERY and the port goes DARK. -/
  | fabLinkDown (port : Fin 16)
  /-- QUIESCED (R257): A quiescing port's queue is empty and acknowledged and QUIESCED is set. -/
  | quiesced (port : Fin 16)
  /-- LANE_FAIL (R259): A lane loses lock or exceeds its corrected-symbol count and is spared or the port degrades. -/
  | laneFail (engine : Fin 8) (lane : Fin 36) (symbols : Option Word32)
  /-- DATA_FLIT (R265): A DATA flit is received and accepted or discarded by CRC and sequence. -/
  | dataFlit (port : Fin 16) (flit : List Byte)
  /-- CTRL_FLIT (R263): A control flit delivers acknowledgements, credits and link-management messages. -/
  | ctrlFlit (port : Fin 16) (flit : List Byte) (spare : Option (Fin 36)) (unmarked : List (Fin 36))
  /-- FLIT_NAK (R265): An XCTRL with NAK makes the transmitter resend unacknowledged flits. -/
  | flitNak (port : Fin 16) (flit : List Byte)
  /-- PACKET_FORWARD (R275): A packet not addressed to this device is routed to an output port or dropped. -/
  | packetForward
  /-- WR (R270): A WR request is checked against the remote windows and written. -/
  | wr
  /-- WR_PARTIAL (R269): A byte-enabled single-line write request is executed. -/
  | wrPartial
  /-- RD_REQ (R270): A read request is checked and answered with RD_RESP. -/
  | rdReq
  /-- RD_RESP (R269): Read data with poison bits returns to the requester. -/
  | rdResp
  /-- WR_ACK (R269): A write acknowledgement completes a remote put. -/
  | wrAck
  /-- NAK (R270): A NAK answer makes the requester fail the transfer. -/
  | nak
  /-- SIGNAL_PACKET (R274): A SIGNAL packet adds to the target flag once per SSEQ and is acknowledged. -/
  | signalPacket
  /-- SIGNAL_ACK (R269): A SIGNAL_ACK completes a remote flag signal. -/
  | signalAck
  /-- ECHO (R269): An ECHO packet is returned unchanged as ECHO_REPLY. -/
  | echo
  /-- ECHO_REPLY (R269): An ECHO_REPLY arrives. -/
  | echoReply
  /-- E2E_TIMEOUT (R273): A request without response within TIMEOUT_US is retransmitted or fails. -/
  | e2eTimeout (tag : BitVec 18)
  /-- FAB_LASER_FAULT (R251): LS_FAULT_N_m low for 1 µs or a module fault sets FAULT_m and lowers LS_EN_m. -/
  | fabLaserFault (module : Fin 4)
  /-- FEED_POWER_CHECK (R251): 100 ms after LS_EN_m rises, feed power below +11.0 dBm faults the module. -/
  | feedPowerCheck (module : Fin 4) (power : BitVec 16)
  /-- FEED_POWER_LOW (R251): A feed wavelength below +10.0 dBm for 10 ms faults the module. -/
  | feedPowerLow (module : Fin 4) (power : BitVec 16)
  /-- LASER_POLL (R252): Every 10 ms the MSS reads the module registers over the laser I3C bus. -/
  | laserPoll (module : Fin 4) (pin : Bool) (reading : Option LaserReading)
  /-- ERROR_RECORD (R478): An occurrence taken from the queue is merged or written into a ring slot. -/
  | errorRecord
  /-- FATAL_HANDLING_END (R482): Fatal handling completes or reaches 1 ms and OFFLINE is set. -/
  | fatalHandlingEnd
  /-- BOOT (R456): When VSTBY enters range or MSS_HOLD_N releases, the boot loader verifies and loads a slot. -/
  | boot (strap : Option (BitVec 2))
  /-- MSS_WATCHDOG (R447): An unserviced watchdog for 4 s restarts the MSS firmware. -/
  | mssWatchdog
  /-- SENSOR_SAMPLE (R449): A sensor is sampled and threshold crossings produce events. -/
  | sensorSample (sensor : BitVec 7) (value : Word32)
  /-- LOG_FLUSH (R452): At least once per second logged entries are written to both flash devices. -/
  | logFlush (aOk bOk : Bool)
  /-- ALERT_RESPONSE (R443): The controller reads the Alert Response Address and ALERT_N is released. -/
  | alertResponse
  /-- IBI_REPEAT (R443): An unread in-band interrupt is repeated every 10 ms. -/
  | ibiRepeat (read : Bool)
  /-- SETDASA (R442): A SETDASA assigns a dynamic address and switches the MSS to I3C. -/
  | setdasa (static dyn : BitVec 7)
  /-- ENTDAA (R442): ENTDAA assigns a dynamic address and switches the MSS to I3C. -/
  | entdaa (dyn : BitVec 7)
  /-- RSTDAA (R442): RSTDAA returns the MSS to SMBus mode. -/
  | rstdaa
  /-- SET_ENDPOINT_ID (R444): The bus owner assigns the MSS an MCTP EID. -/
  | setEndpointId (eid : Byte)
  /-- GET_ENDPOINT_ID (R444): The MSS returns its MCTP EID. -/
  | getEndpointId (tr : Transport)
  /-- GET_MCTP_VERSION_SUPPORT (R444): The MSS returns its supported MCTP versions. -/
  | getMctpVersionSupport (tr : Transport)
  /-- GET_MESSAGE_TYPE_SUPPORT (R444): The MSS returns its supported message types. -/
  | getMessageTypeSupport (tr : Transport)
  /-- LOG_READ (R445): The MSS returns log entries by SEQ or the fatal store. -/
  | logRead (tr : Transport) (fatal : Bool) (seq : Word32) (count : BitVec 16)
  /-- FW_CONFIRM (R461): The MSS burns FW_SVN, or OWNER_SVN, up to the loaded image's SVN. -/
  | fwConfirm (tr : Transport) (owner : Bool)
  /-- MSS_RESTART (R462): The MSS restarts and, with VIN present, cold-resets the rest of the device. -/
  | mssRestart (tr : Transport) (force : Bool)
  /-- OWNER_KEY_SET (R445): The OWNER_KEY fuses are burnt once with the given digest. -/
  | ownerKeySet (tr : Transport) (digest : BitVec 256)
  /-- ROUTINE_LOAD (R463): A chunk of an integrator routine image is received and checked on the last chunk. -/
  | routineLoad (tr : Transport) (first last : Bool) (offset total : Word32) (bytes : List Byte)
  /-- REQUEST_UPDATE (R459): RequestUpdate takes the update lock for its transport. -/
  | requestUpdate (tr : Transport)
  /-- PASS_COMPONENT_TABLE (R458): PassComponentTable presents the single firmware component. -/
  | passComponentTable (tr : Transport) (cls : BitVec 16)
  /-- UPDATE_COMPONENT (R458): UpdateComponent begins writing the image into the slot not running. -/
  | updateComponent (tr : Transport)
  /-- FIRMWARE_DATA (R458): Image data arrives and is written, and the last part triggers verification. -/
  | firmwareData (tr : Transport) (bytes : List Byte) (last : Bool)
  /-- ACTIVATE_FIRMWARE (R460): ActivateFirmware sets the updated slot PENDING. -/
  | activateFirmware (tr : Transport) (selfContained : Bool)
  /-- CANCEL_UPDATE (R459): CancelUpdate releases the lock and erases the slot's COMPLETE word. -/
  | cancelUpdate (tr : Transport)
  /-- UPDATE_LOCK_TIMEOUT (R459): 120 s without a request from the holder releases the update lock. -/
  | updateLockTimeout
  /-- SET_EVENT_RECEIVER (R449): SetEventReceiver sets the PLDM event receiver. -/
  | setEventReceiver (tr : Transport) (receiver : Byte)
  /-- GET_SENSOR_READING (R449): A numeric sensor reading is returned, or UNAVAILABLE. -/
  | getSensorReading (tr : Transport) (sensor : BitVec 16)
  /-- COOLANT_INLET_EFFECTER (R450): Effecter 1 sets the inlet value and writes PWR_COOLANT if both are recent. -/
  | coolantInletEffecter (tr : Transport) (value : BitVec 12)
  /-- COOLANT_FLOW_EFFECTER (R450): Effecter 2 sets the flow value and writes PWR_COOLANT if both are recent. -/
  | coolantFlowEffecter (tr : Transport) (value : BitVec 12)
  /-- PACKAGE_LIMIT_EFFECTER (R450): Effecter 3 writes PWR_PKG_LIMIT_W. -/
  | packageLimitEffecter (tr : Transport) (w : Word32)
  /-- DEVICE_RESET_EFFECTER (R450): Effecter 4 triggers a cold reset. -/
  | deviceResetEffecter (tr : Transport)
  /-- GET_VERSION (R465): The SPDM responder returns its versions. -/
  | getVersion (tr : Transport)
  /-- GET_CAPABILITIES (R465): The SPDM responder returns its capabilities. -/
  | getCapabilities (tr : Transport)
  /-- NEGOTIATE_ALGORITHMS (R465): SPDM hash and asymmetric algorithms are negotiated. -/
  | negotiateAlgorithms (tr : Transport) (sha3 : Bool)
  /-- GET_DIGESTS (R465): The certificate chain digest of slot 0 is returned. -/
  | getDigests (tr : Transport)
  /-- GET_CERTIFICATE (R464): The certificate chain is returned if its fuse digest matches. -/
  | getCertificate (tr : Transport) (slot : Byte) (offset length : BitVec 16)
  /-- CHALLENGE (R465): A CHALLENGE_AUTH is signed with one XMSS^MT index. -/
  | challenge (tr : Transport) (slot : Byte) (nonce : List Byte) (late : Bool)
  /-- GET_MEASUREMENTS (R466): Measurement blocks are returned, signed if requested. -/
  | getMeasurements (tr : Transport) (index : Byte) (sign : Bool) (nonce : List Byte) (late : Bool)
  /-- CHUNK_SEND (R465): A chunk of a large SPDM request is received. -/
  | chunkSend (tr : Transport) (bytes : List Byte) (last : Bool)
  /-- CHUNK_GET (R465): A chunk of a large SPDM response is returned. -/
  | chunkGet (tr : Transport) (seq : BitVec 16)
  /-- TEST_MODE_HIGH (R513): TEST_MODE reads high and the MSS holds the stages off and drives FAULT_N low. -/
  | testModeHigh (high : Bool)
  /-- HOST_LINK_RETRAIN (R407): The host link comes back up after a loss without a reset trigger, and the completions held under R396 are written. -/
  | hostLinkRetrain
  /-- TOP_RESET_ARM_EXPIRY (R405): 1 ms after an arming write, an unused TOP_RESET arm lapses. -/
  | topResetArmExpiry
  /-- THERMTRIP_N_DEASSERT (R438): VIN has been below 44.0 V for 1 s, with sensors below 70 °C where needed, and the THERMTRIP, leak and hub-lost offline latches release. -/
  | thermtripNDeassert
  /-- THERM_THROTTLE_DOWN (R437): Every 1 ms while all junction sensors of a die are 3 °C below the threshold, its thermal throttle step falls by 1. -/
  | thermThrottleDown (domain : Fin 3)
  /-- DECISION_RESEND (R358): Every CKE_PROBE.US µs a device resends the DECISION to each child that has not returned DECISION_ACK. -/
  | decisionResend
  /-- COUNTER_CARRY (R491): A carry out of bit 47 of a counter in counting mode sets its OVF bit, may add to OVF_FLAG and may set FREEZE. -/
  | counterCarry (ctr : CtrId) (inc : BitVec 13)
  /-- MSS_HOLD_N_ASSERT (R516): MSS_HOLD_N held low for 1 ms puts the MSS in reset, floats its pins and turns the stages off. -/
  | mssHoldNAssert
  /-- TAP_INSTRUCTION (R520): An IEEE 1149.1 instruction is loaded into the TAP, and EXTEST, SAMPLE/PRELOAD and INTEST are accepted only while the stages are off and no laser enable is driven. -/
  | tapInstruction (instr : TapInstr)
  /-- PLDM_BASE_REQUEST (R444): A PLDM type 0 base request is answered, including in RECOVERY. -/
  | pldmBaseRequest (tr : Transport) (cmd : Byte)
  /-- GET_PDR (R449): A PLDM type 2 request for the Numeric Sensor PDRs is answered from the PDR tables. -/
  | getPdr (tr : Transport) (sensor : BitVec 16)
  /-- RESPOND_IF_READY (R465): An SPDM requester asks again after ResponseNotReady and receives the signed response once it is ready. -/
  | respondIfReady (tr : Transport)
  deriving DecidableEq, Repr

end Sys2Proof
end

