-- ==== Sys2Proof/Decode.lean ====
section
/-! DEFINITION. The words of the table: no row of spec/opcode_table.json gives bits, so no word spells a command
(assumption 2). The command words of R63 are operands of the sequencer's rows, and Machine/Operands.lean reads them. -/

namespace Sys2Proof

/-- The command a table word spells: none, since the table gives its rows no bits. -/
def decodeTableWord (_nbits _w : Nat) : Option Instr := none

end Sys2Proof
end

