-- ==== Sys2Proof/Config.lean ====
section
/-! DEFINITION. What the spec leaves open: free values without a body, so that nothing in Lean can evaluate one or prove
a value of one. Each is named in the assumption log. -/

namespace Sys2Proof.Config

/-- A fresh free value: the n-th value the spec leaves unspecified (assumption 3). -/
opaque freeValue : Nat → Nat

/-- R227, R231, R233: the byte a read delivers where the data are lost: in a hole, in a poisoned line and in a line with
an error the controller missed, by the count of free values so far and the address (assumption 55). -/
opaque lostByte : Nat → Nat → Nat

/-- R179, R182: the operand at which the results of a special function step from the lower to the upper of two faithful
candidates, by function, output format (true: BF16), interval of R182 and candidate pair; operands are numbered in
ascending order (assumption 4). -/
opaque sfStep : Nat → Bool → Int → Int → Int

/-- R183: whether the seam clamp changed a result (assumption 4). -/
opaque sfClamped : Nat → Bool → Nat → Bool

/-- R186 to R188: the operand from which on the results of a compatibility-mode function reach a code, by function, the
seam of R188 that ends the stretch of operands (its order number, 0 for the last stretch) and the code; within a stretch
the results only rise (assumption 5). -/
opaque sfCompatStep : Nat → Int → Int → Int

/-- R263, R264: a byte of the lane marker of a lane, by its logical number, fibre, wavelength and place; and the 16 bytes of
a link-management message, by its kind and its numbers: the spec gives neither pattern (assumption 73). -/
opaque laneMarker : Nat → Nat → Nat → Nat → Nat
opaque linkMessage : Nat → List Nat → Nat → Nat

/-- R327, R329: how many units in the last place of W48 a transcendental value of the update engine lies off the
correctly rounded one, by function and operand codes; the model keeps it within R327's bound (assumption 25). -/
opaque pueTransOffset : Nat → Nat → Nat → Int

/-- R465, R466: the signature the responder forms over a message with an XMSS index (assumption 9). -/
opaque xmssSign : Nat → List Byte → List Byte

/-- R171: the ordinal, within its routine call, of the command by which a routine (by ID) draws its random numbers; the
spec does not list the commands a routine dispatches (assumption 13). -/
opaque routineOrd : Nat → Nat

/-- R92: the step number of a routine (by ID) at which its commands raise a fault (by code), and the opcode of the command
that does; the spec gives the steps of no routine (assumption 59). -/
opaque routineStep : Nat → Nat → Nat
opaque routineOpc : Nat → Nat

/-- R90, R91: does an integrator's routine (by ID) accept this parameter block (assumption 15)? -/
opaque integratorPb : Nat → List Byte → Bool

/-- R410: the fused initial VDD of a domain (0 C0, 1 C1, 2 hub) in mV above 660, of which the model takes the remainder by
81 (assumption 28). -/
opaque fusedVdd : Nat → Nat

/-- R455: the SHAKE256 digests of the four firmware public keys in fuses (assumption 9). -/
opaque fuseKeyDigest : Nat → List Byte

/-- R455, R463: does an XMSS signature verify, by public key, message and signature (assumption 9)? -/
opaque xmssVerify : List Byte → List Byte → List Byte → Bool

/-- R464: the certificate chain in the data area (assumption 9). -/
opaque certChain : List Byte

/-- R466: what a measurement block digests where the spec does not give its bytes: by index and the numbers the table
names for it (assumption 9). -/
opaque measured : Nat → List Nat → List Byte

/-- R463: bytes of routine RAM the Kolnebel component of an image version takes (assumption 29). -/
opaque kolnebelBytes : Nat → Nat

/-- R463: the routine IDs an integrator image holds (assumption 29). -/
opaque imageRoutines : List Byte → List Nat

end Sys2Proof.Config
end

