-- ==== Sys2Proof/Machine/Bits.lean ====
section
/-! DEFINITION. Bit fields, sign extension, little-endian bytes and sparse maps: the helpers every other file reads
fields with (R9). -/

namespace Sys2Proof.Machine

/-- The `n` bits of `x` from bit `lo` up, as a number (R9: bit 0 is the least significant). -/
def fld (x lo n : Nat) : Nat := (x >>> lo) % 2 ^ n

/-- Bit `i` of `x`. -/
def bitAt (x i : Nat) : Bool := (x >>> i) % 2 == 1

/-- `x` with its `n` bits from `lo` up replaced by `v`. -/
def setFld (x lo n v : Nat) : Nat := x - (fld x lo n) <<< lo + (v % 2 ^ n) <<< lo

/-- The signed value of the low `n` bits of `x`. -/
def sext (n x : Nat) : Int :=
  let y := x % 2 ^ n
  if 2 * y < 2 ^ n then (y : Int) else (y : Int) - (2 ^ n : Nat)

/-- The `n`-bit two's-complement image of an integer. -/
def wrapInt (n : Nat) (x : Int) : Nat := (x % ((2 ^ n : Nat) : Int)).toNat

/-- One number per Boolean. -/
def b2n (b : Bool) : Nat := if b then 1 else 0

/-- The `n` bytes of `x`, least significant first (R9). -/
def leBytes : Nat → Nat → List Byte
  | 0, _ => []
  | n + 1, x => BitVec.ofNat 8 x :: leBytes n (x >>> 8)

/-- The number whose bytes, least significant first, are given (R9). -/
def ofLE : List Byte → Nat
  | [] => 0
  | b :: bs => b.toNat + 256 * ofLE bs

/-- A sparse map of numbered things in canonical form: numbers strictly rising, no entry equal to the default. -/
abbrev SMap (α : Type) := List (Nat × α)

/-- The entry of number `k`, or the default `d`. -/
def sget {α : Type} (d : α) : SMap α → Nat → α
  | [], _ => d
  | (j, v) :: rest, k => if j = k then v else sget d rest k

/-- Puts entry `k` in its place among rising numbers. -/
def sput {α : Type} : SMap α → Nat → α → SMap α
  | [], k, x => [(k, x)]
  | (j, v) :: rest, k, x =>
    if k < j then (k, x) :: (j, v) :: rest
    else if j = k then (k, x) :: rest
    else (j, v) :: sput rest k x

/-- Writes entry `k`, keeping the canonical form: writing the default removes the entry. -/
def sset {α : Type} [DecidableEq α] (d : α) (m : SMap α) (k : Nat) (x : α) : SMap α :=
  if x = d then m.filter fun p => decide (p.1 ≠ k) else sput m k x

/-- The canonical form of a sparse map above a lower bound for its first number. -/
def swf {α : Type} [DecidableEq α] (d : α) : Nat → SMap α → Bool
  | _, [] => true
  | lo, (j, v) :: rest => decide (lo ≤ j) && decide (v ≠ d) && swf d (j + 1) rest

/-- Writes consecutive numbers from `k`. -/
def ssetList {α : Type} [DecidableEq α] (d : α) (m : SMap α) : Nat → List α → SMap α
  | _, [] => m
  | k, x :: xs => ssetList d (sset d m k x) (k + 1) xs

/-- Reads `n` consecutive numbers from `k`. -/
def sgetList {α : Type} (d : α) (m : SMap α) (k n : Nat) : List α :=
  (List.range n).map fun i => sget d m (k + i)

/-- The largest number at most `hi` (counting down by fuel) that satisfies `p`, if any. -/
def findDown (p : Nat → Bool) : Nat → Option Nat
  | 0 => if p 0 then some 0 else none
  | n + 1 => if p (n + 1) then some (n + 1) else findDown p n

/-- A counter of `n` bits that stops at its largest value (saturating counters of the register tables). -/
def satAdd (n x k : Nat) : Nat := min (2 ^ n - 1) (x + k)

/-- The integer square root by bisection on bits, `fuel` bits of result. -/
def isqrtAux (x : Nat) : Nat → Nat → Nat
  | 0, r => r
  | k + 1, r =>
    let c := r + 2 ^ k
    if c * c ≤ x then isqrtAux x k c else isqrtAux x k r

/-- The integer square root ⌊√x⌋. -/
def isqrt (x : Nat) : Nat := isqrtAux x (Nat.log2 x / 2 + 1) 0

end Sys2Proof.Machine
end

