-- ==== Sys2Proof/Machine/Flags.lean ====
section
/-! DEFINITION. The sticky numeric flags (R52): one bit per event, gathered with `|||` by every operation that forms
a value, and set in NUM_STATUS by the command that ran it. -/

namespace Sys2Proof.Machine

/-- The sticky numeric flags of one operation, laid out as NUM_STATUS (R52). -/
abbrev Fl := BitVec 8

def flInvalid : Fl := 1
def flNanIn : Fl := 2
def flOvf : Fl := 4
def flW48Ovf : Fl := 8
def flSat : Fl := 16
def flIntNan : Fl := 32
def flFtz : Fl := 64
def flBsiSat : Fl := 128

/-- The flags of a list of results together. -/
def flAll {α : Type} (xs : List (α × Fl)) : Fl := xs.foldl (fun a p => a ||| p.2) 0

end Sys2Proof.Machine
end

