-- ==== Sys2Proof/Machine/Num.lean ====
section
/-! DEFINITION. Numbers, formats and rounding (02_numbers_and_precision.md, R26 to R55, R537): exact dyadic values,
the element formats to the bit, conversion under the three rounding modes, and the sticky numeric flags. -/

namespace Sys2Proof.Machine

/-- A value on its way through an engine: NaN, an infinity, or the exact dyadic `(−1)^neg · m · 2^e`. -/
inductive Num where
  | nan
  | inf (neg : Bool)
  | fin (neg : Bool) (m : Nat) (e : Int)
  deriving DecidableEq, Repr

/-- The element formats of R26. -/
inductive Fmt where
  | fp32 | bf16 | fp16 | e4m3 | e5m2 | int8
  | mxE4m3 | mxE5m2 | mxE3m2 | mxE2m3 | mxE2m1
  | w48 | bsi16 | int32
  deriving DecidableEq, Repr

/-- R26: the format a 4-bit FMT code names; 0xE and 0xF are reserved. -/
def fmtOfCode : Nat → Option Fmt
  | 0 => some .fp32 | 1 => some .bf16 | 2 => some .fp16 | 3 => some .e4m3 | 4 => some .e5m2
  | 5 => some .int8 | 6 => some .mxE4m3 | 7 => some .mxE5m2 | 8 => some .mxE3m2 | 9 => some .mxE2m3
  | 10 => some .mxE2m1 | 11 => some .w48 | 12 => some .bsi16 | 13 => some .int32 | _ => none

/-- R26: the FMT code of a format. -/
def Fmt.code : Fmt → Nat
  | .fp32 => 0 | .bf16 => 1 | .fp16 => 2 | .e4m3 => 3 | .e5m2 => 4 | .int8 => 5 | .mxE4m3 => 6
  | .mxE5m2 => 7 | .mxE3m2 => 8 | .mxE2m3 => 9 | .mxE2m1 => 10 | .w48 => 11 | .bsi16 => 12 | .int32 => 13

/-- The five MX formats (R26, R35). -/
def Fmt.isMx : Fmt → Bool
  | .mxE4m3 | .mxE5m2 | .mxE3m2 | .mxE2m3 | .mxE2m1 => true
  | _ => false

/-- Formats held as blocks of 32 elements with a plane byte: MX and BSI16 (R35, R39). -/
def Fmt.isBlock (f : Fmt) : Bool := f.isMx || f == .bsi16

/-- Bits of one element as it stands in a row outside the accumulators (R26, R32, R39). -/
def Fmt.elemBits : Fmt → Nat
  | .fp32 => 32 | .bf16 => 16 | .fp16 => 16 | .e4m3 => 8 | .e5m2 => 8 | .int8 => 8 | .mxE4m3 => 8
  | .mxE5m2 => 8 | .mxE3m2 => 6 | .mxE2m3 => 6 | .mxE2m1 => 4 | .w48 => 64 | .bsi16 => 16 | .int32 => 32

/-- R30: a floating-point element layout: exponent and fraction widths, bias, and the code of the largest finite
magnitude; `infCode` where the format has an infinity, `nanCode` where it has a NaN. -/
structure FloatFmt where
  fbits : Nat
  bias : Nat
  expMask : Nat
  maxCode : Nat
  infCode : Option Nat
  nanCode : Option Nat
  width : Nat
  deriving DecidableEq, Repr

def ffFp32 : FloatFmt := ⟨23, 127, 255, 0x7F7FFFFF, some 0x7F800000, some 0x7FC00000, 32⟩
def ffBf16 : FloatFmt := ⟨7, 127, 255, 0x7F7F, some 0x7F80, some 0x7FC0, 16⟩
def ffFp16 : FloatFmt := ⟨10, 15, 31, 0x7BFF, some 0x7C00, some 0x7E00, 16⟩
def ffE4m3 : FloatFmt := ⟨3, 7, 15, 0x7E, none, some 0x7F, 8⟩
def ffE5m2 : FloatFmt := ⟨2, 15, 31, 0x7B, some 0x7C, some 0x7E, 8⟩
def ffE3m2 : FloatFmt := ⟨2, 3, 7, 0x1F, none, none, 6⟩
def ffE2m3 : FloatFmt := ⟨3, 1, 3, 0x1F, none, none, 6⟩
def ffE2m1 : FloatFmt := ⟨1, 1, 3, 0x7, none, none, 4⟩
def ffW48 : FloatFmt := ⟨37, 511, 1023, 0x7FDFFFFFFFFF, some 0x7FE000000000, some 0x7FF000000000, 48⟩

/-- The floating layout of a format's elements (R30); none for the integer and BSI16 formats. -/
def Fmt.float? : Fmt → Option FloatFmt
  | .fp32 => some ffFp32 | .bf16 => some ffBf16 | .fp16 => some ffFp16
  | .e4m3 | .mxE4m3 => some ffE4m3
  | .e5m2 | .mxE5m2 => some ffE5m2
  | .mxE3m2 => some ffE3m2 | .mxE2m3 => some ffE2m3 | .mxE2m1 => some ffE2m1
  | .w48 => some ffW48
  | .int8 | .int32 | .bsi16 => none

/-- The value an encoding of a floating layout holds (R30). A magnitude above `maxCode` is an infinity where it is
the infinity code and a NaN otherwise (R31, R49: signalling NaNs are treated as quiet). -/
def floatDecode (f : FloatFmt) (x : Nat) : Num :=
  let neg := bitAt x (f.width - 1)
  let c := x % 2 ^ (f.width - 1)
  if f.maxCode < c then (if f.infCode = some c then .inf neg else .nan)
  else
    let ef := c >>> f.fbits
    let fr := c % 2 ^ f.fbits
    if ef = 0 then .fin neg fr (1 - (f.bias : Int) - f.fbits)
    else .fin neg (fr + 2 ^ f.fbits) ((ef : Int) - f.bias - f.fbits)

/-- Rounding modes of R43. -/
inductive Rnd where
  | rne | rtz | sr
  deriving DecidableEq, Repr

/-- R43: the mode a 2-bit RND field names; 0b11 is reserved. -/
def rndOfCode : Nat → Option Rnd
  | 0 => some .rne | 1 => some .rtz | 2 => some .sr | _ => none

/-- The integer nearest `m / 2^sh` under a mode (R43, R45). `r` is the 16-bit random integer of R46, which only
stochastic rounding reads. -/
def roundShift (mode : Rnd) (r m sh : Nat) : Nat :=
  let t := m >>> sh
  let d := m % 2 ^ sh
  match mode with
  | .rtz => t
  | .rne => if 2 * d < 2 ^ sh then t else if 2 ^ sh < 2 * d then t + 1 else t + t % 2
  | .sr => if 2 ^ 16 ≤ (d <<< 16) >>> sh + r then t + 1 else t

/-- `m · 2^e` scaled to units of `2^q` and rounded to an integer. -/
def quantMag (mode : Rnd) (r m : Nat) (e q : Int) : Nat :=
  if q ≤ e then m <<< (e - q).toNat else roundShift mode r m (q - e).toNat

/-- The magnitude code of `m · 2^e` in a floating layout, as if its exponent had no upper end: codes rise with the
magnitude, so a code above `maxCode` is an overflow (R34, R47). -/
def floatCode (f : FloatFmt) (mode : Rnd) (r m : Nat) (e : Int) : Nat :=
  if m = 0 then 0 else
    let q := max ((Nat.log2 m : Int) + e) (1 - (f.bias : Int)) - f.fbits
    let t := quantMag mode r m e q
    (q + f.fbits + f.bias - 1).toNat <<< f.fbits + t

/-- The sign bit of a layout in place. -/
def signBit (f : FloatFmt) (neg : Bool) : Nat := if neg then 2 ^ (f.width - 1) else 0

/-- How a command converts its results: R43 RND, R48 FTZ, R47 E4M3_OVF. -/
structure ConvCtl where
  rnd : Rnd
  ftz : Bool
  e4m3Ovf : Bool
  deriving DecidableEq, Repr

/-- Conversion without any of the command's options: RNE, subnormals honoured. -/
def convPlain : ConvCtl := ⟨.rne, false, false⟩

/-- R47, R48, R49: conversion into FP32, BF16, FP16 or E5M2. -/
def toIeee (f : FloatFmt) (flush : Bool) (c : ConvCtl) (r : Nat) : Num → Nat × Fl
  | .nan => (f.nanCode.getD 0, 0)
  | .inf neg => (f.infCode.getD 0 + signBit f neg, 0)
  | .fin neg m e =>
    let code := floatCode f c.rnd r m e
    if f.maxCode < code then
      (if c.rnd = .rtz then (f.maxCode + signBit f neg, 0) else (f.infCode.getD 0 + signBit f neg, flOvf))
    else if flush && c.ftz && decide (code ≠ 0) && decide (code < 2 ^ f.fbits) then (signBit f neg, flFtz)
    else (code + signBit f neg, 0)

/-- R34, R47: conversion into W48: an overflow is an infinity under every rounding mode. -/
def toW48 (rnd : Rnd) (r : Nat) : Num → Nat × Fl
  | .nan => (0x7FF000000000, 0)
  | .inf neg => (0x7FE000000000 + signBit ffW48 neg, 0)
  | .fin neg m e =>
    let code := floatCode ffW48 rnd r m e
    if ffW48.maxCode < code then (0x7FE000000000 + signBit ffW48 neg, flW48Ovf)
    else (code + signBit ffW48 neg, 0)

/-- R47: conversion into E4M3: an overflow saturates, or is NaN under E4M3_OVF; an infinity is NaN. -/
def toE4m3 (c : ConvCtl) (r : Nat) : Num → Nat × Fl
  | .nan => (0x7F, 0)
  | .inf _ => (0x7F, flInvalid)
  | .fin neg m e =>
    let code := floatCode ffE4m3 c.rnd r m e
    if ffE4m3.maxCode < code then
      (if c.e4m3Ovf then (0x7F, flOvf) else (ffE4m3.maxCode + signBit ffE4m3 neg, flSat))
    else (code + signBit ffE4m3 neg, 0)

/-- R47: conversion into a two's-complement integer of `w` bits: saturating, NaN becomes 0. -/
def toInt (w : Nat) (rnd : Rnd) (r : Nat) : Num → Nat × Fl
  | .nan => (0, flIntNan)
  | .inf neg => (if neg then 2 ^ (w - 1) else 2 ^ (w - 1) - 1, flSat)
  | .fin neg m e =>
    let t := quantMag rnd r m e 0
    if neg then (if 2 ^ (w - 1) < t then (2 ^ (w - 1), flSat) else ((2 ^ w - t) % 2 ^ w, 0))
    else (if 2 ^ (w - 1) ≤ t then (2 ^ (w - 1) - 1, flSat) else (t, 0))

/-- Conversion of one value into one element of a format that is not held in blocks (R47). Block formats are formed
by `mxForm` and `bsiForm`. -/
def toFmt (f : Fmt) (c : ConvCtl) (r : Nat) (x : Num) : Nat × Fl :=
  match f with
  | .fp32 => toIeee ffFp32 true c r x
  | .bf16 => toIeee ffBf16 true c r x
  | .fp16 => toIeee ffFp16 true c r x
  | .e5m2 => toIeee ffE5m2 false c r x
  | .e4m3 => toE4m3 c r x
  | .w48 => toW48 c.rnd r x
  | .int8 => toInt 8 c.rnd r x
  | .int32 => toInt 32 c.rnd r x
  | .mxE4m3 | .mxE5m2 | .mxE3m2 | .mxE2m3 | .mxE2m1 | .bsi16 => (0, 0)

/-- The value of an integer. -/
def numOfInt (x : Int) : Num := .fin (decide (x < 0)) x.natAbs 0

/-- +0. -/
def numZero : Num := .fin false 0 0

/-- 1. -/
def numOne : Num := .fin false 1 0

def Num.isNan : Num → Bool
  | .nan => true
  | _ => false

def Num.isInf : Num → Bool
  | .inf _ => true
  | _ => false

def Num.isFin : Num → Bool
  | .fin _ _ _ => true
  | _ => false

def Num.isZero : Num → Bool
  | .fin _ 0 _ => true
  | _ => false

/-- The sign bit of a value (a NaN has sign 0, R49). -/
def Num.negBit : Num → Bool
  | .nan => false
  | .inf n => n
  | .fin n _ _ => n

/-- The value of one element outside blocks, with FTZ applied to what is read (R48, R50). -/
def ofFmt (f : Fmt) (ftz : Bool) (x : Nat) : Num × Fl :=
  match f with
  | .int8 => (numOfInt (sext 8 x), 0)
  | .int32 => (numOfInt (sext 32 x), 0)
  | .bsi16 => (numZero, 0)
  | _ =>
    match f.float? with
    | none => (numZero, 0)
    | some l =>
      let y := x % 2 ^ l.width
      let v := floatDecode l y
      let sub := decide (y % 2 ^ (l.width - 1) ≠ 0) && decide (y % 2 ^ (l.width - 1) < 2 ^ l.fbits)
      let flushes := f == .fp32 || f == .bf16 || f == .fp16
      if ftz && flushes && sub then (.fin v.negBit 0 0, flFtz)
      else (v, if v.isNan then flNanIn else 0)

/-- Sign flip: exact, and a NaN stays NaN. -/
def Num.negate : Num → Num
  | .nan => .nan
  | .inf n => .inf (!n)
  | .fin n m e => .fin (!n) m e

def Num.abs : Num → Num
  | .nan => .nan
  | .inf _ => .inf false
  | .fin _ m e => .fin false m e

/-- The exact sum (R50, R51: a zero sum of opposite signs is +0). -/
def Num.add : Num → Num → Num
  | .nan, _ => .nan
  | _, .nan => .nan
  | .inf a, .inf b => if a = b then .inf a else .nan
  | .inf a, .fin _ _ _ => .inf a
  | .fin _ _ _, .inf b => .inf b
  | .fin s m e, .fin s' m' e' =>
    let q := min e e'
    let a := m <<< (e - q).toNat
    let b := m' <<< (e' - q).toNat
    if s = s' then .fin s (a + b) q
    else if a = b then .fin false 0 0
    else if b < a then .fin s (a - b) q
    else .fin s' (b - a) q

def Num.sub (x y : Num) : Num := x.add y.negate

/-- The exact product (R50: 0 × ∞ is NaN). -/
def Num.mul : Num → Num → Num
  | .nan, _ => .nan
  | _, .nan => .nan
  | .inf a, .inf b => .inf (a ^^ b)
  | .inf a, .fin b m _ => if m = 0 then .nan else .inf (a ^^ b)
  | .fin a m _, .inf b => if m = 0 then .nan else .inf (a ^^ b)
  | .fin a m e, .fin b m' e' => .fin (a ^^ b) (m * m') (e + e')

/-- Multiplication by a power of two: exact. -/
def Num.scale (k : Int) : Num → Num
  | .fin n m e => if m = 0 then .fin n 0 e else .fin n m (e + k)
  | x => x

/-- Is `x < y`, for values that are not NaN; −0 and +0 are equal. -/
def Num.lt : Num → Num → Bool
  | .nan, _ => false
  | _, .nan => false
  | .inf a, .inf b => a && !b
  | .inf a, .fin _ _ _ => a
  | .fin _ _ _, .inf b => !b
  | .fin s m e, .fin s' m' e' =>
    let q := min e e'
    let a : Int := (m <<< (e - q).toNat : Nat)
    let b : Int := (m' <<< (e' - q).toNat : Nat)
    decide ((if s then -a else a) < (if s' then -b else b))

/-- Equal values (−0 equals +0); a NaN equals nothing (R50). -/
def Num.eqv (x y : Num) : Bool := !x.isNan && !y.isNan && !x.lt y && !y.lt x

/-- `x ≤ y`; false with a NaN (R50). -/
def Num.le (x y : Num) : Bool := !x.isNan && !y.isNan && !y.lt x

/-- IEEE 754-2019 minimum (R50): NaN propagates and −0 orders below +0. -/
def Num.minimum (x y : Num) : Num :=
  if x.isNan || y.isNan then .nan
  else if x.lt y then x else if y.lt x then y else if x.negBit then x else y

/-- IEEE 754-2019 maximum (R50). -/
def Num.maximum (x y : Num) : Num :=
  if x.isNan || y.isNan then .nan
  else if x.lt y then y else if y.lt x then x else if x.negBit then y else x

/-- The quotient, to 96 bits more than either significand with a sticky last bit: enough for every rounding of
R43 into any format of R26. -/
def Num.div : Num → Num → Num
  | .nan, _ => .nan
  | _, .nan => .nan
  | .inf _, .inf _ => .nan
  | .inf a, .fin b _ _ => .inf (a ^^ b)
  | .fin a _ _, .inf b => .fin (a ^^ b) 0 0
  | .fin a m e, .fin b m' e' =>
    if m' = 0 then (if m = 0 then .nan else .inf (a ^^ b))
    else
      let k := Nat.log2 m' + 96
      let n := m <<< k
      let t := n / m'
      .fin (a ^^ b) (2 * t + (if n % m' = 0 then 0 else 1)) (e - e' - k - 1)

/-- The square root, to 96 bits and a sticky last bit; of a negative number NaN, of −0 −0. -/
def Num.sqrt : Num → Num
  | .nan => .nan
  | .inf n => if n then .nan else .inf false
  | .fin n m e =>
    if m = 0 then .fin n 0 0
    else if n then .nan
    else
      let k : Nat := 200 + (if (e % 2) = 0 then 0 else 1)
      let x := m <<< k
      let t := isqrt x
      .fin false (2 * t + (if t * t = x then 0 else 1)) ((e - k) / 2 - 1)

/-- A value rounded to nearest even into a floating layout and read back, with whether it overflowed to infinity. -/
def roundIn (f : FloatFmt) (x : Num) : Num :=
  match x with
  | .fin neg m e =>
    let code := floatCode f .rne 0 m e
    if f.maxCode < code then .inf neg else floatDecode f (code + signBit f neg)
  | y => y

/-- One FP32 operation's result (R44): the exact value rounded to nearest even, with INVALID when a NaN came from
inputs that held none and OVF when a finite value overflowed. -/
def fp32Round (nanIn : Bool) (infIn : Bool) (x : Num) : Num × Fl :=
  let y := roundIn ffFp32 x
  (y, (if y.isNan && !nanIn then flInvalid else 0) ||| (if y.isInf && !infIn && x.isFin then flOvf else 0))

/-- One W48 operation's result (R34, R44). -/
def w48Round (nanIn : Bool) (x : Num) : Num × Fl :=
  let y := roundIn ffW48 x
  (y, (if y.isNan && !nanIn then flInvalid else 0) ||| (if y.isInf && x.isFin then flW48Ovf else 0))

/-- One W48 addition, rounding to nearest even (R31, R44). -/
def w48Add (x y : Num) : Num × Fl := w48Round (x.isNan || y.isNan) (x.add y)

/-- One W48 multiplication. -/
def w48Mul (x y : Num) : Num × Fl := w48Round (x.isNan || y.isNan) (x.mul y)

/-- The 48-bit code of a value that is already a W48 value. -/
def w48Code (x : Num) : BitVec 48 := BitVec.ofNat 48 (toW48 .rne 0 x).1

/-- The value of a 48-bit code. -/
def w48Val (x : BitVec 48) : Num := floatDecode ffW48 x.toNat

/-- One FP32 addition, multiplication and fused multiply-add (R44). -/
def fp32Add (x y : Num) : Num × Fl := fp32Round (x.isNan || y.isNan) (x.isInf || y.isInf) (x.add y)
def fp32Mul (x y : Num) : Num × Fl := fp32Round (x.isNan || y.isNan) (x.isInf || y.isInf) (x.mul y)
def fp32Fma (x y z : Num) : Num × Fl :=
  fp32Round (x.isNan || y.isNan || z.isNan) (x.isInf || y.isInf || z.isInf) ((x.mul y).add z)

/-- The FP32 code of a value that is already an FP32 value. -/
def fp32Code (x : Num) : BitVec 32 := BitVec.ofNat 32 (toIeee ffFp32 false convPlain 0 x).1

/-- The value of an FP32 code. -/
def fp32Val (x : BitVec 32) : Num := floatDecode ffFp32 x.toNat

/-- ⌊log2 |x|⌋ of a finite value that is not zero. -/
def Num.ilog2 : Num → Int
  | .fin _ m e => (Nat.log2 m : Int) + e
  | _ => 0

/-- The magnitude of a list's largest finite member, as a value. -/
def maxMag : List Num → Num
  | [] => numZero
  | x :: xs => (x.abs).maximum (maxMag xs)

/-- R37: the largest exponent of each MX element format. -/
def Fmt.emax : Fmt → Int
  | .mxE4m3 => 8 | .mxE5m2 => 15 | .mxE3m2 => 4 | .mxE2m3 => 2 | .mxE2m1 => 2
  | _ => 0

/-- R37, third case: one element of an MX block at scale `2^X`, saturating. -/
def mxElem (l : FloatFmt) (rnd : Rnd) (r : Nat) : Num → Nat × Fl
  | .fin neg m e =>
    let code := floatCode l rnd r m e
    if l.maxCode < code then (l.maxCode + signBit l neg, flSat) else (code + signBit l neg, 0)
  | _ => (0, 0)

/-- R37: an MX block formed from its values: the scale byte, the element codes and the flags. `rs` are the random
integers of the elements, in order. -/
def mxForm (f : Fmt) (rnd : Rnd) (rs : List Nat) (xs : List Num) : Nat × List Nat × Fl :=
  match f.float? with
  | none => (0, [], 0)
  | some l =>
    if xs.any (fun x => !x.isFin) then (0xFF, xs.map fun _ => 0, 0)
    else if xs.all Num.isZero then (0, xs.map fun x => signBit l x.negBit, 0)
    else
      let X := max (-127) (min 127 ((maxMag xs).ilog2 - f.emax))
      let es := xs.zipIdx.map fun (x, i) => mxElem l rnd (rs.getD i 0) (x.scale (-X))
      ((X + 127).toNat, es.map Prod.fst, es.foldl (fun a p => a ||| p.2) 0)

/-- R38: the value of one MX element under its block's scale byte. -/
def mxValue (f : Fmt) (scale code : Nat) : Num :=
  match f.float? with
  | none => .nan
  | some l => if scale = 0xFF then .nan else (floatDecode l code).scale ((scale : Int) - 127)

/-- R40: one BSI16 mantissa at exponent `E`, saturated at ±32,767, with whether it saturated. -/
def bsiMant (E : Nat) : Num → Int × Bool
  | .fin neg m e =>
    let t := quantMag .rne 0 m e ((E : Int) - 142)
    let c := min t 32767
    (if neg then -(c : Int) else c, decide (32767 < t))
  | _ => (0, false)

/-- R40, R41: a BSI16 block quantised at an agreed exponent: exponent byte, 32 mantissas, saturation. -/
def bsiQuant (E : Nat) (xs : List Num) : Nat × List Int × Bool :=
  if xs.any (fun x => !x.isFin) then (0xFF, xs.map fun _ => 0, false)
  else
    let ms := xs.map (bsiMant E)
    (E, ms.map Prod.fst, ms.any Prod.snd)

/-- The first `E` from a start, within fuel, at which every value fits without saturation (R537). -/
def bsiExpFrom (xs : List Num) : Nat → Nat → Nat
  | 0, E => E
  | k + 1, E => if xs.all (fun x => !(bsiMant E x).2) then E else bsiExpFrom xs k (E + 1)

/-- R537: a BSI16 block as the VCE writes it, choosing the exponent itself. -/
def bsiForm (xs : List Num) : Nat × List Int × Bool :=
  if xs.any (fun x => !x.isFin) then (0xFF, xs.map fun _ => 0, false)
  else if xs.all Num.isZero then (0, xs.map fun _ => 0, false)
  else bsiQuant (bsiExpFrom xs 254 0) xs

/-- R39, R41: the value of a BSI16 element. -/
def bsiValue (E : Nat) (m : Int) : Num :=
  if E = 0xFF then .nan else (numOfInt m).scale ((E : Int) - 142)

end Sys2Proof.Machine
end

