-- ==== Sys2Proof/Machine/StateFab.lean ====
section
/-! DEFINITION. The state of the optical fabric (09_optical_fabric.md): packets, ports, lasers, routes, and the requests
of this device that wait for a response. -/

namespace Sys2Proof.Machine

/-- A packet (R268): its header fields, and its payload bytes. `crcBad` is the ECRC it arrived with, where that is not the
one its bytes have; `held` the receive buffer that still holds it, port and buffer number (R267), while it waits at an
output port (R256). -/
structure Packet where
  ptype : Nat
  hops : Nat
  dst : Nat
  vc : Nat
  src : Nat
  level : Nat
  len : Nat
  tag : Nat
  pkey : Nat
  sseq : Nat
  addr : Nat
  aux : Nat
  payload : List Byte
  crcBad : Option Nat
  held : Option (Nat × Nat)
  deriving DecidableEq, Repr

/-- A port (R247, R253 to R260, R265, R267, R280). `queue` holds packets the router has assigned; `unacked` the DATA
flits sent and not acknowledged (sequence number, body); `rxBytes` the received byte stream of a packet not yet whole;
the credit counters count 64-byte units: spent on and freed of each of the eight dedicated shares and of the pool, and
what this receiver holds and has freed of each. `usable` counts the usable lanes of each fibre of the port. `trained` is set once a full training
completed since cold reset (R258); `wasDev`, `wasPort` are the partner before RECOVERY (R255); `rxGap` is set while the
receiver discards DATA flits, to the sequence number it takes the last one to have had (R265); `rxAny` once a DATA flit
was accepted since the sequence numbers restarted (R263). `txUnit` counts the 8-byte units dealt to lanes, modulo 96;
`pLanes` is the partner's lane map, `rxFibre` the partner's fibre that reaches each fibre of this port (R248, R254). -/
structure Port where
  en : Bool
  quiesce : Bool
  fullTrain : Bool
  state : Nat
  width : Nat
  quiesced : Bool
  fast : Bool
  pDev : Nat
  pPort : Nat
  lastTrain : Nat
  crcErr : Nat
  retries : Nat
  retrains : Nat
  discards : Nat
  queue : List Packet
  txNext : Nat
  unacked : List (Nat × List Byte)
  rxNext : Nat
  rxBytes : List Byte
  nakSeq : Nat
  nakCount : Nat
  dedSpent : List Nat
  dedFreed : List Nat
  poolSpent : Nat
  poolFreed : Nat
  rxDed : List Nat
  rxDedFreed : List Nat
  rxPoolFreed : Nat
  trained : Bool
  wasDev : Nat
  wasPort : Nat
  recovering : Bool
  rxGap : Option Nat
  rxAny : Bool
  txUnit : Nat
  pLanes : List Nat
  rxFibre : List Nat
  deriving DecidableEq, Repr

/-- R280: a port after reset. -/
def Port.reset : Port where
  en := true
  quiesce := false
  fullTrain := false
  state := 0
  width := 0
  quiesced := false
  fast := false
  pDev := 0
  pPort := 0
  lastTrain := 0
  crcErr := 0
  retries := 0
  retrains := 0
  discards := 0
  queue := []
  txNext := 0
  unacked := []
  rxNext := 0
  rxBytes := []
  nakSeq := 0
  nakCount := 0
  dedSpent := List.replicate 8 0
  dedFreed := List.replicate 8 0
  poolSpent := 0
  poolFreed := 0
  rxDed := List.replicate 8 0
  rxDedFreed := List.replicate 8 0
  rxPoolFreed := 0
  trained := false
  wasDev := 0
  wasPort := 0
  recovering := false
  rxGap := none
  rxAny := false
  txUnit := 0
  pLanes := []
  rxFibre := []

/-- What the link-management message of a control flit carries (R263): identity (R254), a sparing request or
acknowledgement for a lane (R259), a width (R260), quiescing (R257). -/
inductive LinkMsg where
  | identity (devid pkey port : Nat) (split : Bool) (width : Nat) (lanes : List Nat)
  | spareRequest (lane : Nat)
  | spareAck (lane : Nat)
  | width (w : Nat)
  | quiesce
  deriving DecidableEq, Repr

/-- An external laser-source module as the device knows it (R249 to R252); `assigned`: it has its dynamic address. -/
structure Laser where
  en : Bool
  driven : Bool
  fault : Bool
  identified : Bool
  faultN : Bool
  cause : Nat
  cls : Nat
  grid : Nat
  faultReg : Nat
  temp : Nat
  power : List Nat
  rearm : Bool
  assigned : Bool
  deriving DecidableEq, Repr

/-- A module nothing is known of: EN and every status 0 (R280). -/
def Laser.reset : Laser := ⟨false, false, false, false, false, 0, 0, 0, 0, 0, [], false, false⟩

/-- Who waits for the response of an end-to-end request (R269, R273): a mover's command (R215), an RSIGNAL (R81), the
puts of a RESHARD or CKPT call (R374, R377), or the reads of a restore (R379): slot and offset. -/
inductive ReqOwner where
  | mover (core cmd : Nat)
  | signal (core cmd : Nat)
  | reshard
  | ckpt
  | restore (slot off : Nat)
  deriving DecidableEq, Repr

/-- An outstanding request: the packet, its owner, and the retransmissions made (R273). -/
structure Request where
  pkt : Packet
  owner : ReqOwner
  tries : Nat
  deriving DecidableEq, Repr

/-- The fabric block. `inbox` holds packets that arrived for this device and wait for their event, with their port;
`applied` the last 64 SSEQ values applied per source (R274), `sseqNext` the next SSEQ per target. `dead` and `spareFree`
are FAB_LANE_STATUS_e; `spareFor` the wavelength that the spare of a fibre serves, 8 for none (engine × 4 + fibre), and
`unmarked` the control intervals in a row that a lane came without its markers (engine × 36 + lane; R264). `streamQ` are
the CLE's streams with packets still to send, the next one first (R288). -/
structure Fab where
  en : Bool
  maxHops : Nat
  devid : Nat
  devidValid : Bool
  pkey : Nat
  timeoutUs : Nat
  retriesMax : Nat
  switchHold : Nat
  spareThresh : Nat
  lasers : List Laser
  split : SMap Bool
  ports : SMap Port
  dead : SMap Nat
  spareFree : SMap Nat
  spareFor : SMap Nat
  unmarked : SMap Nat
  rwinBase : SMap Word64
  rwinLimit : SMap Word64
  dropRoute : Nat
  dropTtl : Nat
  dropEcrc : Nat
  dropOther : Nat
  routes : SMap Word32
  inbox : List (Nat × Packet)
  reqs : List Request
  sseqNext : SMap Nat
  applied : SMap (List Nat)
  streamQ : List (List Packet)
  deriving DecidableEq, Repr

/-- R280: the fabric after cold reset. -/
def Fab.reset : Fab where
  en := false
  maxHops := 32
  devid := 0
  devidValid := false
  pkey := 0
  timeoutUs := 500
  retriesMax := 2
  switchHold := 100
  spareThresh := 0x100
  lasers := List.replicate 4 Laser.reset
  split := []
  ports := []
  dead := []
  spareFree := []
  spareFor := []
  unmarked := []
  rwinBase := []
  rwinLimit := []
  dropRoute := 0
  dropTtl := 0
  dropEcrc := 0
  dropOther := 0
  routes := []
  inbox := []
  reqs := []
  sseqNext := []
  applied := []
  streamQ := []

end Sys2Proof.Machine
end

