-- ==== Sys2Proof/Machine/StateCke.lean ====
section
/-! DEFINITION. The state of the collective engine (10_gradient_exchange.md), of the parameter update engines
(11_parameter_update.md), and of the commit and checkpoint engine (12_step_commit_and_recovery.md). -/

namespace Sys2Proof.Machine

/-! The collective engine -/

/-- A bucket of the open exchange (R282): its entry, its ring table (device, buddy position), and what the CLE keeps:
the cursor in blocks, the running microstep from 0, the samples so far (R285), the seal, the shards that R287 marks
non-finite, and the limit of the deadline timer that started at the seal (R299, R312). -/
structure Bucket where
  acc : Nat
  res0 : Nat
  res1 : Nat
  fc0 : Nat
  fc1 : Nat
  fin : Nat
  finx : Nat
  smp : Nat
  nblk : Nat
  g : Nat
  nmicro : Nat
  comp : Nat
  topk : Nat
  feed : Nat
  ring : List (Nat × Nat)
  cursor : Nat
  micro : Nat
  samples : Nat
  sealed : Bool
  nf : List Nat
  deadlineUs : Nat
  deriving DecidableEq, Repr

/-- How a device treats a stream it receives (R299): held until its bucket is sealed, merged with its own
contribution, or forwarded unchanged. -/
inductive StreamMode where
  | held | adding | late
  deriving DecidableEq, Repr

/-- A block on its way (R289, R293, R296): exponent, integer lanes, the FP32 lanes of BF16 mode, the rescale count. -/
structure WBlk where
  e : Nat
  lanes : List Int
  fp : Option (List Nat)
  cnt : Nat
  deriving DecidableEq, Repr

/-- A stream at this device (R288, R299, R300): its key, the sender it is accepted from (none: it starts here), what
this device adds to the census when CLOSE passes, the blocks merged so far at the owner, the ring position it is sent
to, the packets sent, and whether their receiver has answered; the limits of its hop timers as they started (R299,
R312); and of an all-gather the bytes of image and of forecast entries that have come (R305). -/
structure Stream where
  gather : Bool
  exch : Nat
  bucket : Nat
  shard : Nat
  attempt : Nat
  src : Nat
  mode : StreamMode
  ck : Nat
  dsa : Nat
  nrec : Nat
  nonfinite : Bool
  overrange : Bool
  merged : SMap (Option WBlk)
  ended : Bool
  nxt : Nat
  out : List Packet
  acked : Bool
  waitUs : Nat
  timeoutUs : Nat
  gotImg : Nat
  gotFc : Nat
  deriving DecidableEq, Repr

/-- An entry of a shard map (R373). -/
structure MapEnt where
  loff : Nat
  bytes : Nat
  owner : Nat
  buddy : Option Nat
  ckh : Option Nat
  bucket : Nat
  shard : Nat
  sdesc : Nat
  dst : Nat
  ckaddr : Nat
  deriving DecidableEq, Repr

/-- A shard map (R372). -/
structure ShardMap where
  kind : Nat
  stride : Nat
  ckBytes : Nat
  ckNgen : Nat
  ents : List MapEnt
  deriving DecidableEq, Repr

/-- A small reduction this device executes (R306, R307): the calling core and command, its group, its execution count
modulo 2^16, the tile's bytes, and the limit of its timer as it started (R312). -/
structure SrRun where
  core : Nat
  cmd : Nat
  group : Nat
  count : Nat
  bytes : Nat
  timeoutUs : Nat
  deriving DecidableEq, Repr

/-- A piece of a member's tile that has arrived, and whether the member's shape or format differs from this device's
(R307). -/
structure SrPiece where
  group : Nat
  count : Nat
  src : Nat
  off : Nat
  data : List Byte
  differs : Bool
  deriving DecidableEq, Repr

/-- The collective engine. `accepted` are the streams R300 has taken (with their sender); `closed` the shards this
device closed as owner, `finals` those whose final areas stand here, with their census; `imaged` those whose image the
PUE reported; `finRx` the blocks whose finals this buddy has written (bucket, shard, block); `staged` the shards staged
here; `late` those whose census left this device out (R303), `misses` counts the blocks of the exchange in BF16 mode
(R296). -/
structure Cle where
  deadlineUs : Word32
  hopWaitUs : Word32
  hopTimeoutUs : Word32
  srTimeoutUs : Word32
  sticky : Word32
  forecastMisses : Nat
  rescales : Nat
  lateCount : Nat
  exclCount : Nat
  nfElems : Nat
  srGroup : SMap Word32
  srMem : SMap Word32
  isOpen : Bool
  exch : Nat
  nfpol : Nat
  fcBias : Int
  buckets : List Bucket
  streams : List Stream
  accepted : List (Bool × Nat × Nat × Nat × Nat × Nat)
  closed : List (Nat × Nat)
  finals : List ((Nat × Nat) × List Byte)
  imaged : List (Nat × Nat)
  finRx : List (Nat × Nat × Nat)
  staged : List (Nat × Nat)
  armed : Option ShardMap
  stagedDone : Bool
  late : List (Nat × Nat)
  misses : Nat
  srCount : SMap Nat
  srRuns : List SrRun
  srGot : List SrPiece
  deriving DecidableEq, Repr

/-- R312: the CLE after reset. -/
def Cle.reset : Cle where
  deadlineUs := 2000
  hopWaitUs := 200
  hopTimeoutUs := 50
  srTimeoutUs := 100
  sticky := 0
  forecastMisses := 0
  rescales := 0
  lateCount := 0
  exclCount := 0
  nfElems := 0
  srGroup := []
  srMem := []
  isOpen := false
  exch := 0
  nfpol := 0
  fcBias := 0
  buckets := []
  streams := []
  accepted := []
  closed := []
  finals := []
  imaged := []
  finRx := []
  staged := []
  armed := none
  stagedDone := false
  late := []
  misses := 0
  srCount := []
  srRuns := []
  srGot := []

/-! The parameter update engines -/

/-- A group of the group table (R318), with its knots where its schedule has them. -/
structure Group where
  rule : Nat
  frozen : Bool
  strict : Bool
  dense : Bool
  nesterov : Bool
  sched : Nat
  start : Nat
  beta1 : Num
  beta2 : Num
  eps : Num
  wd : Num
  gscale : Num
  p0 : Num
  p1 : Num
  warm : Nat
  total : Nat
  knots : List (Nat × Num)
  deriving DecidableEq, Repr

/-- A group table as an UPDATE call read it (R317, R320). -/
structure GroupTab where
  groups : List Group
  status : Nat
  steprec0 : Nat
  steprec1 : Nat
  rstatWork : Nat
  rstat0 : Nat
  rstat1 : Nat
  rstatLen : Nat
  deriving DecidableEq, Repr

/-- A shard state descriptor (R316). -/
structure SDesc where
  hdr : List Nat
  mst : List Nat
  m1 : List Nat
  m2 : List Nat
  pre : List Nat
  img : Nat
  fin : Nat
  finx : Nat
  smp : Nat
  nblk : Nat
  momfmt : Nat
  imgfmt : Nat
  digest : Nat
  deriving DecidableEq, Repr

/-- An UPDATE call that drives a PUE (R321): the calling core, the step, the group table, the shards still to do with
their map entries; of the first of them the blocks written, whether it has been written and waits to be reported, the
index of its first block not yet handled and its first non-finite block (R335); and the W48 sums per group (R334). -/
structure PueCall where
  core : Nat
  k : Nat
  table : GroupTab
  todo : List (MapEnt × SDesc)
  written : List (Nat × Nat × Nat)
  imageDue : Bool
  block : Nat
  nonf : Option Nat
  updSq : SMap (BitVec 48)
  mstSq : SMap (BitVec 48)
  deriving DecidableEq, Repr

/-- A PRECOND call that drives a PUE (R338, R343): the calling core, the step, and the tiles still to do, each with its
shard state descriptor. -/
structure PreRun where
  core : Nat
  k : Nat
  todo : List (SDesc × Nat)
  deriving DecidableEq, Repr

/-- A PUE (R345). `call` or `pre` is the call that drives it; with `creditWait` that call waits for a power credit before
it goes on. -/
structure Pue where
  digestEn : Bool
  sticky : Word32
  blocks : Nat
  catchups : Nat
  frozenReqs : Nat
  retries : Nat
  fallbacks : Nat
  creditWait : Bool
  finWait : Bool
  call : Option PueCall
  pre : Option PreRun
  deriving DecidableEq, Repr

/-- R345: a PUE after reset. -/
def Pue.reset : Pue where
  digestEn := true
  sticky := 0
  blocks := 0
  catchups := 0
  frozenReqs := 0
  retries := 0
  fallbacks := 0
  creditWait := false
  finWait := false
  call := none
  pre := none

/-! The commit gate -/

/-- CKE_STATUS.STATE (R383). -/
inductive CkeState where
  | idle | running | ready | voted | applying | retrying | restoring | halted | orphaned
  deriving DecidableEq, Repr

/-- R383: the code of a CKE state. -/
def CkeState.code : CkeState → Nat
  | .idle => 0 | .running => 1 | .ready => 2 | .voted => 3 | .applying => 4 | .retrying => 5 | .restoring => 6
  | .halted => 7 | .orphaned => 8

/-- A vote (R360); entries of MIS are kept as their 64-bit words. -/
structure VoteRec where
  step : Nat
  attempt : Nat
  lostOvf : Bool
  misOvf : Bool
  covered : Nat
  health : Word64
  ckStep : Nat
  ckGen : Nat
  lost : List Nat
  mis : List Nat
  deriving DecidableEq, Repr

/-- A decision (R360). -/
structure DecRec where
  step : Nat
  attempt : Nat
  action : Nat
  allShards : Bool
  discard : Bool
  reason : Word64
  ckStep : Nat
  ckGen : Nat
  lost : List Nat
  mis : List Nat
  deriving DecidableEq, Repr

/-- A RESHARD call in progress (R374): the calling core, the puts not yet sent (device, address, bytes), and the byte
ranges still to arrive, each with the SDESC address of the shard it belongs to (R376), its first and its last address
plus one. -/
structure ReshardRun where
  core : Nat
  todo : List (Nat × Nat × List Byte)
  expect : List (Nat × Nat × Nat)
  deriving DecidableEq, Repr

/-- A CKPT call in progress (R377): the calling core, its committed step and generation, the puts not yet sent, and the
slot headers written last (`last` once they are being sent). -/
structure CkptRun where
  core : Nat
  c : Nat
  gen : Nat
  todo : List (Nat × Nat × List Byte)
  headers : List (Nat × Nat × List Byte)
  last : Bool
  deriving DecidableEq, Repr

/-- A checkpoint slot being read (R379): map entry number, holder, address, length, the next offset to ask for, and the
pieces that have come. -/
structure SlotRead where
  ent : Nat
  dev : Nat
  addr : Nat
  len : Nat
  next : Nat
  got : List (Nat × List Byte)
  deriving DecidableEq, Repr

/-- A restore in progress (R379): the decision, and the slots being read. -/
structure RestoreRun where
  dec : DecRec
  slots : List SlotRead
  deriving DecidableEq, Repr

/-- An attempt of the running step (R351 to R357). `members`, `map` and `base` are read when it begins (R383).
`pendingLost` is R355's set; `declared` are the devices this device declared lost (R354), `probed` the children with an
unanswered probe, `misses` the probes each child has missed in a row. `digOwn` holds this device's digest, count and
CKE_SUSPECT by map entry and `digRx` what came from owners; `compared` the entries compared, `mis` the mismatches as
R360's words. `afterRetry`: the attempt follows a RETRY_UPDATE of the same step. `finalLost` are map entries listed
under R355; `resent` the shards a RETRY_UPDATE sends again (R367). -/
structure Attempt where
  base : Word32
  members : List Nat
  map : Option ShardMap
  exchOpened : Bool
  stageMissed : Bool
  lossSeen : Bool
  pendingLost : List Nat
  declared : List Nat
  probed : List Nat
  misses : SMap Nat
  votes : List (Nat × VoteRec)
  voteTo : Nat
  voteAcked : Bool
  afterRetry : Bool
  digOwn : SMap (List Byte)
  digRx : List (Nat × List Byte)
  compared : List Nat
  mis : List Nat
  finalLost : List Nat
  resent : List (Nat × Nat)
  deriving DecidableEq, Repr

/-- Before any attempt. -/
def Attempt.reset : Attempt where
  base := 0
  members := []
  map := none
  exchOpened := false
  stageMissed := false
  lossSeen := false
  pendingLost := []
  declared := []
  probed := []
  misses := []
  votes := []
  voteTo := 0
  voteAcked := false
  afterRetry := false
  digOwn := []
  digRx := []
  compared := []
  mis := []
  finalLost := []
  resent := []

/-- The commit and checkpoint engine. `decided` is a decision of this device as root that it has not applied yet; `resend` the children that have not acknowledged the last decision, which
`sentDec` holds (R358); `applied` the step and attempt last applied. `ownGen` is this device's newest complete
generation (step, GEN; R378), `table` the group table of the step's UPDATE call (R367), `marks` the FALLBACK_TILES of
groups that PRECOND reached before any table was known (assumption 74), `firstUpdate` whether R324's
records are still to be written, `flipFlags` the hub flags as they stood at the flip (R365), `arrived`
the address ranges other devices have written here since the last RESHARD (R374). -/
structure Cke where
  ctl : Word32
  gateCtl : Word32
  readyTarget : Word32
  mapAddr : Word64
  memberAddr : Word64
  memberCount : Nat
  probe : Word32
  voteTimeout : Word32
  decTimeout : Word32
  bgShare : Word32
  st : CkeState
  c : Nat
  attempt : Nat
  health : Word64
  lastAction : Nat
  lastAttempt : Nat
  lastReason : Nat
  ckptGen : Nat
  ckptStep : Nat
  aborts : Nat
  retryUpdates : Nat
  rollbacks : Nat
  lostCount : Nat
  lost : SMap Bool
  actingRoot : Bool
  att : Attempt
  decided : Option DecRec
  sentDec : Option DecRec
  resend : List Nat
  applied : Option (Nat × Nat)
  ownGen : Option (Nat × Nat)
  table : Option GroupTab
  marks : List (Nat × Nat)
  firstUpdate : Bool
  flipFlags : SMap Word32
  rewinding : Bool
  arrived : List (Nat × Nat)
  reshard : Option ReshardRun
  ckpt : Option CkptRun
  restore : Option RestoreRun
  deriving DecidableEq, Repr

/-- R383: the CKE after cold reset. -/
def Cke.reset : Cke where
  ctl := 0x4004
  gateCtl := 0x4000C40
  readyTarget := 1
  mapAddr := 0
  memberAddr := 0
  memberCount := 0
  probe := 0x40032
  voteTimeout := 100
  decTimeout := 20000
  bgShare := 20
  st := .idle
  c := 0
  attempt := 0
  health := 0
  lastAction := 0
  lastAttempt := 0
  lastReason := 0
  ckptGen := 0
  ckptStep := 2 ^ 56 - 1
  aborts := 0
  retryUpdates := 0
  rollbacks := 0
  lostCount := 0
  lost := []
  actingRoot := false
  att := Attempt.reset
  decided := none
  sentDec := none
  resend := []
  applied := none
  ownGen := none
  table := none
  marks := []
  firstUpdate := true
  flipFlags := []
  rewinding := false
  arrived := []
  reshard := none
  ckpt := none
  restore := none

end Sys2Proof.Machine
end

