-- ==== Sys2Proof/Machine/StateCore.lean ====
section
/-! DEFINITION. The state of one compute core: sequencer, tile queues, scoreboard, matrix unit, vector chain engine,
operand cache, tensor mover and core counters (03 to 07, 17 of the spec). -/

namespace Sys2Proof.Machine

/-- SEQ_STATUS.STATE (R96). -/
inductive SeqState where
  | idle | dispatching | stalled | waiting | haltFault | haltSched | ended
  deriving DecidableEq, Repr

/-- R96: the code SEQ_STATUS shows for a state. -/
def SeqState.code : SeqState → Nat
  | .idle => 0 | .dispatching => 1 | .stalled => 2 | .waiting => 3
  | .haltFault => 4 | .haltSched => 5 | .ended => 6

/-- A handle in a tile queue (R69, R71): the handle and the dispatch number of the command whose completion brings it,
none once it has arrived. -/
structure QEntry where
  handle : Nat
  from? : Option Nat
  deriving DecidableEq, Repr

/-- A region of the scoreboard (R73, R74): half-open range of operand-cache bytes, or of rows of one array. -/
structure Region where
  acc : Bool
  arr : Nat
  lo : Nat
  hi : Nat
  write : Bool
  deriving DecidableEq, Repr

/-- A command that an engine holds from its dispatch to its completion (R61, R73). `id` is its dispatch number on the
core; `opc`, `lo`, `imm` the word with its effective immediate; `idx`, `pass`, `ord` the counters of R60, R88 and R171;
`qs0`, `qs1`, `qd` the handles it pops; `bank` the lookup bank it latched or loads (R160, R161); `ap` the sampled
PARAM[APIDX] (R198); `pol` TMV_IDXPOL and `gen` the table generation as they stood at the dispatch (R16, R160, R223).
The work a routine of the chain dispatches (R89) is one such command with CALL's word: `args` are the handles it pops
with their queues, in the order of its body, and `pb` its parameter block. -/
structure EngCmd where
  id : Nat
  opc : Nat
  lo : Nat
  imm : Nat
  idx : Nat
  pass : Nat
  ord : Nat
  routine : Nat
  qs0 : Option QEntry
  qs1 : Option QEntry
  qd : Option QEntry
  regions : List Region
  bank : Bool
  ap : Nat
  pol : Nat
  gen : Nat
  args : List (Option (Nat × QEntry))
  pb : List Byte
  deriving DecidableEq, Repr

/-- A started MXU command (R107): `pos` counts per array the rows whose work is done; a DRAIN and a CLEAR use the
position of their own array. `returned` is set once the sources have gone to QR. -/
structure MxuRun where
  cmd : EngCmd
  pos : List Nat
  retry : Bool
  deriving DecidableEq, Repr

/-- The weights one array holds (R99 to R102). Element `(n, k)` is entry `512·n + k`; absent entries are +0. -/
structure ArrW where
  valid : Bool
  fmt : Nat
  k : Nat
  n : Nat
  w : SMap Num
  deriving DecidableEq, Repr

/-- No weights (R117, R392). -/
def ArrW.none : ArrW := ⟨false, 0, 0, 0, []⟩

/-- One accumulator row with its hidden state (R117). -/
structure AccRow where
  vals : SMap (BitVec 48)
  cs : BitVec 48
  ct : BitVec 48
  l : Nat
  span : Nat
  checkable : Bool
  written : Bool
  deriving DecidableEq, Repr

/-- R117: a row before a job's first command. -/
def AccRow.init : AccRow := ⟨[], 0, 0, 0, 128, true, false⟩

/-- R118: a row as MXU_CLEAR leaves it. -/
def AccRow.cleared : AccRow := ⟨[], 0, 0, 0, 128, true, true⟩

/-- R120: a row after resume. -/
def AccRow.resumed : AccRow := ⟨[], 0, 0, 0, 128, false, false⟩

/-- An armed MXU injection (R135). -/
structure MxuInj where
  arr : Nat
  col : Nat
  target : Nat
  deriving DecidableEq, Repr

/-- A patch entry of a replay slot (R87). -/
structure PatchEnt where
  en : Bool
  pidx : Nat
  delta : Nat
  deriving DecidableEq, Repr

/-- A recorded command (R85): its word and the index it had. -/
structure RecCmd where
  lo : Nat
  imm : Nat
  idx : Nat
  deriving DecidableEq, Repr

/-- A replay slot (R85 to R88): the recording, the passes since it was recorded, the eight patch entries by number. -/
structure Slot where
  recd : Option (List RecCmd)
  passes : Nat
  patches : SMap PatchEnt
  deriving DecidableEq, Repr

/-- A slot nothing has been recorded in. -/
def Slot.empty : Slot := ⟨none, 0, []⟩

/-- A patch entry nothing has set. -/
def PatchEnt.off : PatchEnt := ⟨false, 0, 0⟩

/-- A REPLAY in progress (R86): slot, COUNT, passes begun, position in the current pass, and the HOSTSYNC wait. -/
structure Replay where
  slot : Nat
  count : Nat
  begun : Nat
  pos : Nat
  hostsync : Bool
  flag : Nat
  v : Word32
  deriving DecidableEq, Repr

/-- A WAIT not yet satisfied (R79), with its index, pass and word. -/
structure WaitInfo where
  flag : Nat
  hub : Bool
  consume : Bool
  target : Word32
  idx : Nat
  pass : Nat
  lo : Nat
  imm : Nat
  deriving DecidableEq, Repr

/-- A FENCE not yet complete (R82): engines named, the dispatch number before which commands count, and its word. -/
structure FenceInfo where
  mask : Nat
  before : Nat
  idx : Nat
  pass : Nat
  lo : Nat
  imm : Nat
  deriving DecidableEq, Repr

/-- A CALL in progress (R89): routine, the parameter block's bytes as read at dispatch, index and pass of the CALL,
its command word (for CSIG), and the routine's position in the work that takes several events. -/
structure CallInfo where
  routine : Nat
  pb : List Byte
  idx : Nat
  pass : Nat
  lo : Nat
  imm : Nat
  step : Nat
  deriving DecidableEq, Repr

/-- A parsed tensor line of a mover descriptor (R200). -/
structure TLine where
  base : Nat
  n : List Nat
  st : List Nat
  o : List Int
  plane : Nat
  deriving DecidableEq, Repr

/-- A parsed mover descriptor with what the check phase read (R199 to R201); `blist` is the block list's address. -/
structure TDesc where
  mode : Nat
  transpose : Bool
  padSkip : Bool
  idxpol : Nat
  combine : Nat
  idim : Nat
  get : Bool
  fmt : Fmt
  devid : Nat
  e : List Nat
  pads : List Nat
  src : Option TLine
  dst : Option TLine
  idx : List Int
  blocks : List (List Int × Nat)
  blist : Nat
  deriving DecidableEq, Repr

/-- A started mover command (R201, R217): the descriptor as its check phase read it; whether the access phase has
begun; for a remote transfer the lines still to be asked for (remote line address, its bytes for a put, and whether a
poisoned line fed it), and for a get the lines that have come with their poison. -/
structure TmvRun where
  cmd : EngCmd
  desc : TDesc
  issued : Bool
  todo : List (Nat × List (Option Byte) × Bool)
  got : List (Nat × List Byte × Bool)
  deriving DecidableEq, Repr

/-- A command the hub works on for a core; `done` once its effect is complete. -/
structure HubRun where
  cmd : EngCmd
  done : Bool
  deriving DecidableEq, Repr

/-- A command as a sample record names it (R504): index, pass, routine ID, opcode. -/
structure SampCmd where
  idx : Nat
  pass : Nat
  routine : Nat
  opc : Nat
  deriving DecidableEq, Repr

/-- A sample that has been taken and waits for its record to be written (R501 to R503): counter, event, and for a
precise one its command, line address, target and time of issue. -/
structure Sample where
  ctr : Nat
  ev : Nat
  precise : Bool
  cmd : SampCmd
  addr : Nat
  target : Nat
  ao : BitVec 64
  step : BitVec 64
  deriving DecidableEq, Repr

/-- The core performance counters (R491, R501 to R509): the registers of the core window at 0x7000, the samples that
wait, and the last completed command of each engine (0 MXU, 1 VCE, 2 TMV; R502). -/
structure PmuCore where
  ctl : Word32
  ovf : Word32
  evsel : SMap Word32
  fix : SMap Nat
  cnt : SMap Nat
  lat : SMap Nat
  period : SMap Word32
  sampBase : Word64
  sampCtl : Word32
  wptr : Word32
  rptr : Word32
  waiting : List Sample
  last : SMap SampCmd
  deriving DecidableEq, Repr

/-- R509: the core counters after reset: EVSEL entries not listed read 0x0002_0000, PERIOD entries 65,536. -/
def PmuCore.reset : PmuCore := ⟨0, 0, [], [], [], [], [], 0, 0xA, 0, 0, [], []⟩

/-- No command. -/
def SampCmd.none : SampCmd := ⟨0, 0, 0, 0⟩

/-- A step-entry snapshot of a core (R365): command index, PARAM registers, core flags, recording and replay state. -/
structure Snap where
  index : Nat
  params : SMap Word64
  flags : SMap Word32
  slots : SMap Slot
  openRec : Option Nat
  replay : Option Replay
  deriving DecidableEq, Repr

/-- The sequencer, its tile queues, engine queues, replay, WAIT, FENCE and CALL state (R59 to R96).
`snapDue`: the next command dispatched is a step's first (R365). `drops` holds the pops of DROP and DUP that wait for
their handle (R70, R71): the queue and the command that brings it; `pbRead` the parameter block a stalled CALL has read,
with its poison (R89). -/
structure SeqC where
  seq : SeqState
  stall : Nat
  callId : Nat
  cmdIndex : Nat
  replaySlot : Nat
  replayPass : Nat
  numStatus : Word32
  params : SMap Word64
  flags : SMap Word32
  listBase : Nat
  nextId : Nat
  lost : List Nat
  tq : SMap (List QEntry)
  drops : List (Nat × Nat)
  pbRead : Option (List Byte × Bool)
  slots : SMap Slot
  openRec : Option Nat
  replay : Option Replay
  wait : Option WaitInfo
  fence : Option FenceInfo
  call : Option CallInfo
  snapDue : Bool
  snap : Option Snap
  deriving DecidableEq, Repr

/-- SeqC after cold reset: every register at its Reset value, every storage zeroed (R406). -/
def SeqC.reset : SeqC where
  seq := .idle
  stall := 0
  callId := 0
  cmdIndex := 0
  replaySlot := 0
  replayPass := 0
  numStatus := 0
  params := []
  flags := []
  listBase := 0
  nextId := 0
  lost := []
  tq := []
  drops := []
  pbRead := none
  slots := []
  openRec := none
  replay := none
  wait := none
  fence := none
  call := none
  snapDue := false
  snap := none

/-- The matrix unit (R99 to R135): queue, started commands, weights and their shadow, accumulators, counters. -/
structure MxuC where
  queue : List EngCmd
  run : List MxuRun
  arr : SMap ArrW
  wShadow : SMap ArrW
  acc : SMap AccRow
  accDefault : AccRow
  wrShadow : SMap Bool
  ctl : Word32
  csumReplays : Nat
  csumUnchecked : Nat
  csumRereads : Nat
  arrayFaults : SMap Nat
  accEccCorr : Nat
  accEccUncorr : Nat
  inj : Option MxuInj
  injHeld : Word32
  deriving DecidableEq, Repr

/-- MxuC after cold reset: every register at its Reset value, every storage zeroed (R406). -/
def MxuC.reset : MxuC where
  queue := []
  run := []
  arr := []
  wShadow := []
  acc := []
  accDefault := AccRow.init
  wrShadow := []
  ctl := 3
  csumReplays := 0
  csumUnchecked := 0
  csumRereads := 0
  arrayFaults := []
  accEccCorr := 0
  accEccUncorr := 0
  inj := none
  injHeld := 0

/-- The vector chain engine and the operand cache (R136 to R196). -/
structure VceC where
  queue : List EngCmd
  run : List EngCmd
  oc : SMap Byte
  ocBad : SMap Bool
  ccw : SMap (Option Nat)
  cfgDispatched : SMap Bool
  lut0 : SMap Word32
  lut1 : SMap Word32
  lutActive : Bool
  lutGen : Nat
  lutNext : Bool
  carry : SMap (BitVec 48)
  seed : Word64
  sticky : Word32
  permOor : Nat
  lutOor : Nat
  ocEccCorr : Nat
  ocEccUncorr : Nat
  sfuClamps : Nat
  sfuCompat : Nat
  sfuFallbacks : Nat
  deriving DecidableEq, Repr

/-- VceC after cold reset: every register at its Reset value, every storage zeroed (R406). -/
def VceC.reset : VceC where
  queue := []
  run := []
  oc := []
  ocBad := []
  ccw := []
  cfgDispatched := []
  lut0 := []
  lut1 := []
  lutActive := false
  lutGen := 0
  lutNext := false
  carry := []
  seed := 0
  sticky := 0
  permOor := 0
  lutOor := 0
  ocEccCorr := 0
  ocEccUncorr := 0
  sfuClamps := 0
  sfuCompat := 0
  sfuFallbacks := 0

/-- The tensor mover and the hub-bound queue (R197 to R223, R61). -/
structure TmvC where
  queue : List EngCmd
  run : List TmvRun
  hubQ : List EngCmd
  hubRun : List HubRun
  ctl : Word32
  idxpolReg : Word32
  sticky : Word32
  idxNeg : Nat
  idxOor : Nat
  coalesced : Nat
  deriving DecidableEq, Repr

/-- TmvC after cold reset: every register at its Reset value, every storage zeroed (R406). -/
def TmvC.reset : TmvC where
  queue := []
  run := []
  hubQ := []
  hubRun := []
  ctl := 1
  idxpolReg := 0
  sticky := 0
  idxNeg := 0
  idxOor := 0
  coalesced := 0

/-- One logical core. -/
structure Core where
  q : SeqC
  m : MxuC
  v : VceC
  t : TmvC
  pmu : PmuCore
  deriving DecidableEq, Repr

/-- R406, R536: a core after cold reset. -/
def Core.reset : Core := ⟨SeqC.reset, MxuC.reset, VceC.reset, TmvC.reset, PmuCore.reset⟩

end Sys2Proof.Machine
end

