-- ==== Sys2Proof/Machine/StateHub.lean ====
section
/-! DEFINITION. The state of the hub: identity, flags, the job scheduler and its rings, interrupts and resets
(03, 13, 19), the error block (16), and device memory with its controllers (08). -/

namespace Sys2Proof.Machine

/-- The ordering codes of R2. -/
inductive Grade where
  | g64 | g56 | g48
  deriving DecidableEq, Repr

/-- What is fused into the package (R2, R4, R533, R534): its grade, the physical cores and stacks behind the logical ones,
its serial number and its revision. -/
structure Ident where
  grade : Grade
  physCores : List Nat
  physStacks : List (List Nat)
  serial : Word64
  rev : Nat
  deriving DecidableEq, Repr

/-- The TOP registers that no other block holds (R405, R408, R533, R535). `coldDue` is set while a cold reset
has been triggered and has not yet come to its end. -/
structure Top where
  present : Word64
  cfgIgnored : Nat
  armed : Bool
  busy : Bool
  coldDue : Bool
  last : Nat
  deriving DecidableEq, Repr

/-- HUB_JOB_STATUS.STATE (R408). -/
inductive JobState where
  | none | starting | running | halted | suspending | suspended | resuming | terminating
  deriving DecidableEq, Repr

/-- R408: the code of a job state. -/
def JobState.code : JobState → Nat
  | .none => 0 | .starting => 1 | .running => 2 | .halted => 3
  | .suspending => 4 | .suspended => 5 | .resuming => 6 | .terminating => 7

/-- What the scheduler keeps of a job: its START entry (ring, number, JOB_ID, COOKIE, IRQ), the descriptor's fields (R390) with
the windows and the manifest as read at start (R392), the step number of R21, whether its START completion has been
written, the halting code, the ring, number, COOKIE and IRQ of a SUSPEND or TERMINATE entry not yet answered, and the
suspend image's address. -/
structure Job where
  ring : Nat
  idx : Nat
  jobId : Nat
  cookie : Nat
  irq : Bool
  descAddr : Nat
  gated : Bool
  coreMask : Nat
  firstStep : Nat
  seed : Word64
  windows : List (Nat × Nat)
  manifest : Option Nat
  manifestCopy : SMap Nat
  step : Nat
  answered : Bool
  haltCode : Option Nat
  suspEntry : Option (Nat × Nat × Nat × Bool)
  termEntry : Option (Nat × Nat × Nat × Bool)
  imageAddr : Nat
  deriving DecidableEq, Repr

/-- A submission entry a START waits with (R395). -/
structure StartEntry where
  ring : Nat
  idx : Nat
  jobId : Nat
  cookie : Nat
  irq : Bool
  addr : Nat
  deriving DecidableEq, Repr

/-- A core as the suspend image holds it (R400). -/
structure CoreImage where
  core : Nat
  ended : Bool
  index : Nat
  listBase : Nat
  params : SMap Word64
  flags : SMap Word32
  tq : SMap (List QEntry)
  slots : SMap Slot
  openRec : Option Nat
  replay : Option Replay
  replayPass : Nat
  call : Option CallInfo
  snap : Option Snap
  snapDue : Bool
  ccw : SMap (Option Nat)
  lut0 : SMap Word32
  lut1 : SMap Word32
  lutActive : Bool
  lutGen : Nat
  deriving DecidableEq, Repr

/-- A suspended job with its suspend image (R400): the cores, hub flags 64 to 1,023, the exchange state of R310 with its
sample entries by address, and the PUE calls of R343. -/
structure Suspended where
  job : Job
  cores : List CoreImage
  hubFlags : SMap Word32
  exchange : Cle
  samples : List (Nat × Nat)
  pue0 : Option PueCall × Option PreRun
  pue1 : Option PueCall × Option PreRun
  deriving DecidableEq, Repr

/-- A completion (R396), with the ring it goes to and the number of its submission entry. -/
structure Completion where
  ring : Nat
  idx : Nat
  jobId : Nat
  op : Nat
  status : Nat
  cookie : Nat
  step : Nat
  faultCode : Nat
  errIndex : Nat
  irq : Bool
  deriving DecidableEq, Repr

/-- A NOP entry not yet answered (R395): its entry number, JOB_ID, COOKIE and IRQ. -/
structure RingNop where
  idx : Nat
  jobId : Nat
  cookie : Nat
  irq : Bool
  deriving DecidableEq, Repr

/-- One job ring (R393 to R396, R408). All counts are free-running modulo 2^32. `sqHead` is as last written to the
device line, `sqRead` the entries read; `unanswered` the numbers of entries neither answered nor, for a START, accepted
or refused. -/
structure Ring where
  en : Bool
  log2n : Nat
  sqBase : Word64
  cqBase : Word64
  ctrl : Word64
  sqHead : Word32
  sqRead : Word32
  sqTail : Word32
  cqTail : Word32
  cqHead : Word32
  overrun : Bool
  unanswered : List Nat
  nops : List RingNop
  deriving DecidableEq, Repr

/-- R408: a ring after reset. -/
def Ring.reset : Ring := ⟨false, 4, 0, 0, 0, 0, 0, 0, 0, 0, false, [], []⟩

/-- A hub-flag binding (R404, R408). -/
structure Bind where
  flag : Nat
  arm : Bool
  target : Word32
  deriving DecidableEq, Repr

/-- A binding after reset. -/
def Bind.reset : Bind := ⟨0, false, 0⟩

/-- The hub's scheduler, flags and interrupts. -/
structure Hub where
  flags : SMap Word32
  waitLimit : Word32
  dlkStatus : Word64
  dlkMember : SMap Word64
  dlkArmed : Bool
  jobState : JobState
  job : Option Job
  startQ : List StartEntry
  susp : Option Suspended
  resetSince : Bool
  rings : SMap Ring
  waitingCq : List Completion
  binds : SMap Bind
  msixMod : Word32
  msixTable : SMap Byte
  pba : Word64
  modOpen : Bool
  modPending : Bool
  -- the host link (R385 to R388, R407)
  linkUp : Bool
  hdmCommitted : Bool
  snoop : List Nat
  bisnp : List Nat
  perstN : Bool
  deriving DecidableEq, Repr

/-- R96, R408: the hub after cold reset. -/
def Hub.reset : Hub where
  flags := []
  waitLimit := 0x00100000
  dlkStatus := 0
  dlkMember := []
  dlkArmed := true
  jobState := .none
  job := none
  startQ := []
  susp := none
  resetSince := false
  rings := []
  waitingCq := []
  binds := []
  msixMod := 100
  msixTable := []
  pba := 0
  modOpen := false
  modPending := false
  linkUp := true
  hdmCommitted := false
  snoop := []
  bisnp := []
  perstN := true

/-- Error classes of R20 in ascending severity. -/
inductive ErrClass where
  | c | k | d | f
  deriving DecidableEq, Repr

/-- The 2-bit code of a class (R475). -/
def ErrClass.code : ErrClass → Nat
  | .c => 0 | .k => 1 | .d => 2 | .f => 3

/-- One step up in severity; F stays F (R479). -/
def ErrClass.raised : ErrClass → ErrClass
  | .c => .k | .k => .d | .d => .f | .f => .f

/-- The class a 2-bit code names. -/
def ErrClass.ofCode : Nat → ErrClass
  | 0 => .c | 1 => .k | 2 => .d | _ => .f

/-- An occurrence (R472) on its way to the ring: code, class, INSTANCE, timestamp pair, JOB_ID, the 32 payload bytes as
one little-endian number, whether injected, whether it is one whose record a HALTED completion names (R486), and the
completion that names its record (R396), written once it has one. -/
structure Occ where
  code : Nat
  cls : ErrClass
  inst : Nat
  ao : Word64
  step : Word64
  jobId : Nat
  payload : Nat
  injected : Bool
  halts : Bool
  answer : Option Completion
  deriving DecidableEq, Repr

/-- A record of the ring (R475). -/
structure ErrRec where
  ao : Word64
  step : Word64
  code : Nat
  lastCode : Nat
  cls : ErrClass
  orig : ErrClass
  escalated : Bool
  injected : Bool
  mixed : Bool
  inst : Nat
  repeats : Nat
  seq : Nat
  jobId : Nat
  payload : Nat
  deriving DecidableEq, Repr

/-- The error block (R473 to R489). `ckWin` counts the class C and K errors since each of the last flips, newest first
(R369). -/
structure Err where
  queue : List Occ
  held : List Occ
  log : SMap (Option ErrRec)
  valid : Word32
  wptr : Nat
  seq : Nat
  ovfFlag : Bool
  escalations : Nat
  countC : Nat
  countK : Nat
  countD : Nat
  countF : Nat
  ckWin : List Nat
  queueCk : Nat
  displaced : Nat
  dropped : Nat
  fatal0 : Option ErrRec
  fatal1 : Option ErrRec
  handling : Bool
  offline : Bool
  more : Nat
  injHeld : Word64
  deriving DecidableEq, Repr

/-- R489: the error block after cold reset, with an empty fatal store. -/
def Err.reset : Err where
  queue := []
  held := []
  log := []
  valid := 0
  wptr := 0
  seq := 0
  ovfFlag := false
  escalations := 0
  countC := 0
  countK := 0
  countD := 0
  countF := 0
  ckWin := [0]
  queueCk := 0
  displaced := 0
  dropped := 0
  fatal0 := none
  fatal1 := none
  handling := false
  offline := false
  more := 0
  injHeld := 0

/-- The HBM controller of one die (R231 to R242). `scrubT` is the line the scrubber reads next; `ueRecent` the distinct
addresses found uncorrectable, with the always-on time of the last such read (R240). -/
structure DieMem where
  ctl : Word32
  failed : Nat
  initDone : Bool
  offline : Bool
  passes : Nat
  ce : SMap Nat
  ue : SMap Nat
  errAddr : Nat
  errStack : Nat
  errValid : Bool
  poisonReads : Nat
  injHeld : Word64
  scrubT : Nat
  ueRecent : List (Nat × Word64)
  deriving DecidableEq, Repr

/-- R242: a die's controller after cold reset before its HBM is zeroed (R236). -/
def DieMem.reset : DieMem where
  ctl := 0x1801
  failed := 0
  initDone := false
  offline := false
  passes := 0
  ce := []
  ue := []
  errAddr := 0
  errStack := 0
  errValid := false
  poisonReads := 0
  injHeld := 0
  scrubT := 0
  ueRecent := []

/-- One tier-2 port (R237, R238, R242). `offered` is the expander's capacity in 256 MiB units. -/
structure T2Port where
  linkUp : Bool
  width : Nat
  speed : Nat
  mapped : Bool
  intlvRefused : Bool
  cause : Nat
  capacity : Nat
  deriving DecidableEq, Repr

/-- R242: a tier-2 port after reset. -/
def T2Port.reset : T2Port := ⟨false, 0, 0, false, false, 0, 0⟩

/-- What is wrong with a stored 64 B line (R231, R242): of its 72 symbols those an injection has inverted and those
otherwise in error, each a mask; `six`: the inverted ones are the six of one injection; `und`: the controller has missed
an error, so the line's data are no longer what was written. -/
structure LineErr where
  inv : Nat
  hit : Nat
  six : Bool
  und : Bool
  deriving DecidableEq, Repr

/-- A line as it was written, and one whose error was missed. -/
def LineErr.none : LineErr := ⟨0, 0, false, false⟩
def LineErr.garbled : LineErr := ⟨0, 0, false, true⟩

/-- R231: symbols of a line in error. -/
def LineErr.symbols (e : LineErr) : Nat := ((List.range 72).filter fun i => bitAt (e.inv ||| e.hit) i).length

/-- Device memory (R224): bytes, poisoned lines (R233), and stored lines with an error not yet read (R231, R242); with
the controllers of both dies and of tier-2 memory. -/
structure Memory where
  bytes : SMap Byte
  poison : SMap Bool
  bad : SMap LineErr
  die0 : DieMem
  die1 : DieMem
  intlv : Bool
  t2 : SMap T2Port
  t2Enumerated : Bool
  poisonRx : Nat
  linkErr : Nat
  deriving DecidableEq, Repr

/-- Memory after cold reset: HBM zeroed (R236), no tier-2 expander mapped. -/
def Memory.reset : Memory where
  bytes := []
  poison := []
  bad := []
  die0 := DieMem.reset
  die1 := DieMem.reset
  intlv := false
  t2 := []
  t2Enumerated := false
  poisonRx := 0
  linkErr := 0

end Sys2Proof.Machine
end

