-- ==== Sys2Proof/Machine/StateMss.lean ====
section
/-! DEFINITION. The state of the management subsystem (15_management_and_trust.md), with its fuses, its flash, its log, and
the test access port (18). -/

namespace Sys2Proof.Machine

/-- MSS_STATUS.STATE (R471). -/
inductive MssState where
  | booting | ready | recovery | restarting
  deriving DecidableEq, Repr

/-- R471: the code of a state. -/
def MssState.code : MssState → Nat
  | .booting => 0 | .ready => 1 | .recovery => 2 | .restarting => 3

/-- A log entry (R451): timestamp pair, SEQ, CODE, CLASS, SOURCE, SUPPRESSED, DATA. -/
structure LogEntry where
  ao : Word64
  step : Word64
  seq : Nat
  code : Nat
  cls : Nat
  source : Nat
  suppressed : Nat
  data : Nat
  deriving DecidableEq, Repr

/-- An image slot (R453, R454): the VERSION, SVN and KEYIDX of the image it was manufactured with, whose bytes the spec
does not give, until an update erases it; the bytes written since; and whether COMPLETE is written. -/
structure FlashSlot where
  factory : Option (Nat × Nat × Nat)
  bytes : SMap Byte
  complete : Bool
  deriving DecidableEq, Repr

/-- An erased slot. -/
def FlashSlot.erased : FlashSlot := ⟨none, [], false⟩

/-- How far an update has come (R458): requested, its component table passed, its component being written, or verified. -/
inductive UpdateStage where
  | requested | table | writing | verified
  deriving DecidableEq, Repr

/-- An update in progress (R458, R459): its holder, its stage and the bytes written so far. -/
structure Update where
  agent : Transport
  stage : UpdateStage
  written : Nat
  deriving DecidableEq, Repr

/-- What a request asked for (R444, R445, R449, R450, R458, R465). -/
inductive ReqKind where
  | setEndpointId | getEndpointId | mctpVersions | messageTypes
  | pldmBase (cmd : Nat) | getPdr | sensorReading | setEventReceiver | effecter (n : Nat)
  | requestUpdate | passComponentTable | updateComponent | firmwareData | verifyComplete | activateFirmware | cancelUpdate
  | logRead | fwConfirm | mssRestart | ownerKeySet | routineLoad
  | version | capabilities | algorithms | digests | certificate | challenge | measurements | chunkSend | chunkGet
  | event | mailboxLength
  deriving DecidableEq, Repr

/-- How a request ends: the completion codes of R445, and the answers R446, R459, R465 and R469 name. -/
inductive ReplyCode where
  | success | error | invalid | unavailable | notPresent | jobState | refused | busy
  | alreadyInUpdateMode | notInUpdateMode | invalidState | unsupported | responseNotReady | largeResponse | unspecified
  deriving DecidableEq, Repr

/-- R445: the completion code of a vendor message. -/
def ReplyCode.vendor : ReplyCode → Nat
  | .success => 0 | .invalid => 2 | .unavailable => 3 | .jobState => 4 | .refused => 5 | .busy => 6
  | .error | .notPresent | .largeResponse | .alreadyInUpdateMode | .notInUpdateMode | .invalidState | .unsupported | .responseNotReady | .unspecified => 1

/-- An answer or event of the MSS: what it answers, how it ends, its numbers and its bytes. -/
structure Reply where
  kind : ReqKind
  code : ReplyCode
  nums : List Nat
  bytes : List Byte
  deriving DecidableEq, Repr

/-- What an SPDM requester has agreed on a transport (R465): the versions and capabilities asked for, the hash chosen
(true: SHA3-384), the chunks of a request so far, a large response and an answer not yet fetched. -/
structure Spdm where
  versioned : Bool
  capable : Bool
  sha3 : Option Bool
  chunkIn : List Byte
  large : List Byte
  late : Option Reply
  deriving DecidableEq, Repr

/-- Nothing agreed yet. -/
def Spdm.reset : Spdm := ⟨false, false, none, [], [], none⟩

/-- An integrator image being received (R445): its length and the bytes so far. -/
structure RoutineXfer where
  total : Nat
  bytes : List Byte
  deriving DecidableEq, Repr

/-- What the MSS burns or reserves for good: the security version fuses (R455, R463), the revocation bits of the firmware
keys, the owner key's digest (R445), and the count of reserved blocks of signing indices (R467). -/
structure Nv where
  fwSvn : Nat
  ownerSvn : Nat
  revoked : Nat
  ownerKey : Option (BitVec 256)
  reserved : Nat
  deriving DecidableEq, Repr

/-- R461, R463, R467: a package in which nothing has been burnt or reserved. -/
def Nv.reset : Nv := ⟨0, 0, 0, none, 0⟩

/-- The management subsystem. `log` holds the newest entries in MSS memory, the last `unflushed` of them not yet in flash;
`flashLog` the records of the flash log, oldest first; `logAt` the time of the last class C or K entry of a code and
`suppressed` those dropped since (R452). `levels` are the threshold levels of the sensors, counted up from 0 above
the normal range and down below it (R449). `signTimes` are the times of the signatures of the last second (R465).
`inletAt`, `flowAt` are the times at which the effecters were last set (R450). -/
structure Mss where
  st : MssState
  held : Bool
  testHigh : Bool
  mgmtAddr : Nat
  dyn : Option Nat
  alert : Bool
  ibi : Bool
  eid : Option Nat
  receiver : Option (Transport × Nat)
  -- firmware
  slotA : FlashSlot
  slotB : FlashSlot
  running : Bool
  active : Bool
  pending : Option (Bool × Nat)
  runVersion : Nat
  runSvn : Nat
  update : Option Update
  routineXfer : Option RoutineXfer
  routineImage : Option (List Byte)
  routineSvn : Nat
  -- flash devices
  failA : Bool
  failB : Bool
  -- log
  logSeq : Nat
  log : List LogEntry
  unflushed : Nat
  flashLog : List (List LogEntry)
  logAt : SMap (Option Word64)
  suppressed : SMap Nat
  -- sensors and effecters
  sensors : SMap (Option Int)
  levels : SMap Int
  inlet : Nat
  flow : Nat
  inletAt : Option Word64
  flowAt : Option Word64
  -- identity key
  nextIndex : Nat
  signReady : Bool
  exhausted : Bool
  stateFail : Bool
  signTimes : List Word64
  certOk : Bool
  spdmSide : Spdm
  spdmMail : Spdm
  -- mailbox
  own : Bool
  h2mLen : Nat
  h2mBuf : SMap Word64
  full : Bool
  m2hLen : Nat
  m2hBuf : SMap Word64
  m2hQueue : List Reply
  tap : TapInstr
  deriving DecidableEq, Repr

/-- R471: the MSS at its Reset column: every register field 0, fuses unburnt, a genuine image in slot A and none in
slot B. -/
def Mss.reset : Mss where
  st := .booting
  held := false
  testHigh := false
  mgmtAddr := 0
  dyn := none
  alert := false
  ibi := false
  eid := none
  receiver := none
  slotA := ⟨some (0, 0, 0), [], true⟩
  slotB := FlashSlot.erased
  running := false
  active := false
  pending := none
  runVersion := 0
  runSvn := 0
  update := none
  routineXfer := none
  routineImage := none
  routineSvn := 0
  failA := false
  failB := false
  logSeq := 0
  log := []
  unflushed := 0
  flashLog := []
  logAt := []
  suppressed := []
  sensors := []
  levels := []
  inlet := 0
  flow := 0
  inletAt := none
  flowAt := none
  nextIndex := 0
  signReady := false
  exhausted := false
  stateFail := false
  signTimes := []
  certOk := true
  spdmSide := Spdm.reset
  spdmMail := Spdm.reset
  own := false
  h2mLen := 0
  h2mBuf := []
  full := false
  m2hLen := 0
  m2hBuf := []
  m2hQueue := []
  tap := .idcode

end Sys2Proof.Machine
end

