-- ==== Sys2Proof/Machine/StatePwr.lean ====
section
/-! DEFINITION. The state of power, clocks, cooling and the always-on domain (14_power_clocks_cooling.md), of the hub's
performance monitor (17), and of the package pins (18). -/

namespace Sys2Proof.Machine

/-- A requester of power credits (R414, R415): an array (0 to 3) or the VCE (4) of a core, a PUE (5) by die, or the four
arrays of a core together, for a MULTIPASS (6). -/
structure PwrUnit where
  owner : Nat
  unit : Nat
  deriving DecidableEq, Repr

/-- A credit held (R414 to R420): its size, the period it was granted in, whether it is ballast, whether it is marked for
yield, whether the mark is for an excess over the budget (R420), and, once its marked holder has tried to start a command,
the request that follows its release: unit and size. -/
structure Credit where
  who : PwrUnit
  size : Nat
  period : Nat
  ballast : Bool
  marked : Bool
  excess : Bool
  want : Option (PwrUnit × Nat)
  deriving DecidableEq, Repr

/-- A waiting request: its size, the period it was made in, and whether it follows a yield (R418). -/
structure CreditReq where
  who : PwrUnit
  size : Nat
  period : Nat
  yielded : Bool
  deriving DecidableEq, Repr

/-- An always-on comparator (R429, R441). -/
structure AoCmp where
  value : Word64
  ctl : Word32
  deriving DecidableEq, Repr

/-- A comparator after VSTBY first comes up. -/
def AoCmp.reset : AoCmp := ⟨0, 0⟩

/-- The power states of R410. -/
inductive PowerState where
  | off | standby | idle | active
  deriving DecidableEq, Repr

/-- Power, clocks and cooling. Watt amounts of credits are in units of 1/128 W (R414). `uncred`, `grantedHist` and
`releasedHist` hold the last ten grant periods, newest first; `stageHot` has a bit per power-entry stage PE_H, PE_0, PE_1 at
or above 115 °C; `vddUpC0` and its like are the mV by which the plan has raised a VDD above its fused initial value; `vinHold`
is set from a loss of VSTBY until VIN has been removed (R525). -/
structure Pwr where
  ctl : Word32
  pkgLimit : Nat
  pkgLimitNext : Nat
  credits : List Credit
  waiting : List CreditReq
  period : Nat
  uncred : List Nat
  grantedHist : List Nat
  releasedHist : List Nat
  yields : Nat
  -- PWR_STATUS
  stageHot : Nat
  throttle : Nat
  thermC0 : Nat
  thermC1 : Nat
  thermHub : Nat
  inEpisode : Bool
  inThermEpisode0 : Bool
  inThermEpisode1 : Bool
  inThermEpisodeHub : Bool
  die0Lost : Bool
  die1Lost : Bool
  hubLost : Bool
  vinLow : Bool
  vinHigh : Bool
  -- telemetry
  vinMv : Nat
  iinMa : Nat
  pkgW : Nat
  uncredW : Nat
  -- planned clocks, in units of 12.5 MHz, and supplies
  fC0 : Nat
  fC1 : Nat
  fHub : Nat
  vddUpC0 : Nat
  vddUpC1 : Nat
  vddUpHub : Nat
  ssc : Bool
  -- thermal sensors
  tjC0 : Int
  tjC1 : Int
  tjHub : Int
  tHbm : Int
  tOe : Int
  tjPeak : Int
  oeDark : Nat
  tjThrottle : Word32
  -- coolant
  inlet : Nat
  flow : Nat
  stale : Bool
  -- aging
  agingCtl : Word32
  poweredHours : Nat
  alarm : Bool
  alarmCause : Nat
  replanning : Bool
  -- always-on domain
  aoTime : Word64
  aoMatch : Nat
  rcFallback : Bool
  cmps : SMap AoCmp
  -- supply
  state : PowerState
  stagesOn : Bool
  vstbyOk : Bool
  thermTrip : Bool
  leakLatch : Bool
  vinHold : Bool
  coreClocks : SMap Bool
  selfRefresh : SMap Bool
  deriving DecidableEq, Repr

/-- R441: power after cold reset: registers at their Reset values, the stages on and the device idle. -/
def Pwr.reset : Pwr where
  ctl := 0x00100208
  pkgLimit := 4200
  pkgLimitNext := 4200
  credits := []
  waiting := []
  period := 0
  uncred := []
  grantedHist := []
  releasedHist := []
  yields := 0
  stageHot := 0
  throttle := 0
  thermC0 := 0
  thermC1 := 0
  thermHub := 0
  inEpisode := false
  inThermEpisode0 := false
  inThermEpisode1 := false
  inThermEpisodeHub := false
  die0Lost := false
  die1Lost := false
  hubLost := false
  vinLow := false
  vinHigh := false
  vinMv := 0
  iinMa := 0
  pkgW := 0
  uncredW := 0
  fC0 := 84
  fC1 := 84
  fHub := 84
  vddUpC0 := 0
  vddUpC1 := 0
  vddUpHub := 0
  ssc := false
  tjC0 := 0
  tjC1 := 0
  tjHub := 0
  tHbm := 0
  tOe := 0
  tjPeak := 0
  oeDark := 0
  tjThrottle := 100
  inlet := 400
  flow := 0
  stale := true
  agingCtl := 0x200
  poweredHours := 0
  alarm := false
  alarmCause := 0
  replanning := false
  aoTime := 0
  aoMatch := 0
  rcFallback := false
  cmps := []
  state := .idle
  stagesOn := true
  vstbyOk := true
  thermTrip := false
  leakLatch := false
  vinHold := false
  coreClocks := []
  selfRefresh := []

/-- A counter image on its way to memory (R497, R498, R500): KIND, whether a job triggered it, its bytes but for SEQ, and
its address, none until its writing begins. -/
structure PmuImage where
  kind : Nat
  job : Bool
  bytes : List Byte
  addr : Option Nat
  deriving DecidableEq, Repr

/-- The hub's performance monitor (R509). EVSEL entries not listed read 0x0002_0000. `images` are being written, the
first now; `waits` holds a trigger that waits (from a job?); `jobTrig` counts additions to the watched flag not yet
taken up; `lostNoted` is set once a lost sample has been recorded in the running job (R505). -/
structure Pmu where
  ctl : Word32
  snapRefused : Nat
  stepLost : Nat
  snapCtl : Word32
  userCtl : Word64
  snapAddr : Word64
  stepAddr : Word64
  stepCtl : Word32
  hubCtl : Word32
  hubOvf : Word32
  latStep : Word64
  evsel : SMap Word32
  cnt : SMap Nat
  lat : SMap Nat
  seq : Nat
  images : List PmuImage
  waits : Option Bool
  jobTrig : Nat
  lostNoted : Bool
  deriving DecidableEq, Repr

/-- R509: the hub's monitor after reset. -/
def Pmu.reset : Pmu where
  ctl := 4
  snapRefused := 0
  stepLost := 0
  snapCtl := 0x100
  userCtl := 0x80
  snapAddr := 0
  stepAddr := 0
  stepCtl := 0xC
  hubCtl := 0
  hubOvf := 0
  latStep := 0
  evsel := []
  cnt := []
  lat := []
  seq := 0
  images := []
  waits := none
  jobTrig := 0
  lostNoted := false

end Sys2Proof.Machine
end

