-- ==== Sys2Proof/Machine/State.lean ====
section
/-! DEFINITION. The state of the whole package, the reasons a step can stop, and the machine right after reset. -/

namespace Sys2Proof.Machine

/-- What the package drives or answers, oldest first. -/
inductive Emit where
  | msix (vector : Nat)
  | hostWrite (addr : Nat) (bytes : List Byte)
  | flit (port : Nat) (lanes : List Nat) (msg : Option LinkMsg) (bytes : List Byte)
  | laserAddress (module static : Nat)
  | memData (line : Nat) (bytes : List Byte) (poison : Bool)
  | bisnp (line : Nat)
  | mss (tr : Transport) (r : Reply)
  | ibi (data : Nat)
  deriving DecidableEq, Repr

/-- The state of the machine. -/
structure State where
  ident : Ident
  nv : Nv
  top : Top
  cores : List Core
  hub : Hub
  err : Err
  mem : Memory
  cle : Cle
  pue0 : Pue
  pue1 : Pue
  cke : Cke
  pwr : Pwr
  fab : Fab
  pmu : Pmu
  mss : Mss
  sent : List Emit
  fresh : Nat
  routineIds : List Nat
  pending : List Instr
  deriving DecidableEq, Repr

/-- A step never stops with a fault. -/
inductive Fault where
  | noFault
  deriving DecidableEq, Repr

/-- Why a command has no meaning. -/
inductive Refusal where
  /-- The arm of `exec` has no meaning yet. -/
  | notModelled (mnemonic : String)
  deriving DecidableEq, Repr

/-- Reset. -/
def State.reset : State where
  ident := ⟨.g64, List.range 64, [List.range 10, List.range 10], 0, 0⟩
  nv := Nv.reset
  top := ⟨BitVec.allOnes 64, 0, false, false, false, 0⟩
  cores := List.replicate 64 Core.reset
  hub := Hub.reset
  err := Err.reset
  mem := Memory.reset
  cle := Cle.reset
  pue0 := Pue.reset
  pue1 := Pue.reset
  cke := Cke.reset
  pwr := Pwr.reset
  fab := Fab.reset
  pmu := Pmu.reset
  mss := Mss.reset
  sent := []
  fresh := 0
  routineIds := []
  pending := []

end Sys2Proof.Machine
end

