-- ==== Sys2Proof/Machine/Ops.lean ====
section
/-! DEFINITION. The named operations every command is written with: cores and grades (R2 to R6), hub and core flags
(R77 to R80), interrupts (R403, R404), occurrences (R472 to R476), the health word (R349), halts (R94, R397), and
device memory with its controllers (R224 to R242). -/

namespace Sys2Proof.Machine

abbrev Answer := Host.Outcome State Fault Refusal

/-! Cores and grades -/

/-- R2: logical cores of a grade. -/
def Grade.cores : Grade → Nat
  | .g64 => 64 | .g56 => 56 | .g48 => 48

/-- R2: HBM stacks per die. -/
def Grade.stacks : Grade → Nat
  | .g48 => 8
  | .g64 | .g56 => 10

/-- R2: optical engines. -/
def Grade.engines : Grade → Nat
  | .g48 => 6
  | .g64 | .g56 => 8

/-- R3: laser-source modules. -/
def Grade.lasers : Grade → Nat
  | .g48 => 3
  | .g64 | .g56 => 4

/-- The state of a core. -/
def State.core (s : State) (c : CoreId) : Core := s.cores.getD c.val Core.reset

/-- The state with a core replaced. -/
def State.setCore (s : State) (c : CoreId) (k : Core) : State := { s with cores := s.cores.set c.val k }

/-- The state with a core changed by a function. -/
def State.modCore (s : State) (c : CoreId) (f : Core → Core) : State := s.setCore c (f (s.core c))

/-- Is logical core `n` present in the grade (R4)? -/
def State.present (s : State) (n : Nat) : Bool := decide (n < s.ident.grade.cores)

/-- R4: the die of a logical core: the lower half of the cores is on C0. -/
def State.dieOfCore (s : State) (n : Nat) : Nat := if n < s.ident.grade.cores / 2 then 0 else 1

/-- R533: is the core present and its die in service? -/
def State.inService (s : State) (n : Nat) : Bool := s.present n && s.top.present.getLsbD n

/-- A fresh free value of the model (Config.freeValue), and the state that has used it. -/
def State.free (s : State) : Nat × State := (Config.freeValue s.fresh, { s with fresh := s.fresh + 1 })

/-- One more output of the package. -/
def State.emit (s : State) (e : Emit) : State := { s with sent := s.sent ++ [e] }

/-! Interrupts -/

/-- The reset value of an MSI-X table byte: the mask bit of every vector is 1 (the PCI Express base specification,
which R403 names; assumption 12). -/
def msixDefault (k : Nat) : Byte := if k % 16 = 12 then 1 else 0

/-- A byte of the MSI-X table. -/
def Hub.msixByte (h : Hub) (k : Nat) : Byte := sget (msixDefault k) h.msixTable k

/-- R403: a message on a vector; while the vector is masked its pending bit is set instead. -/
def State.sendMsix (s : State) (v : Nat) : State :=
  if (s.hub.msixByte (16 * v + 12)).getLsbD 0 then { s with hub.pba := s.hub.pba ||| (1 <<< v) }
  else s.emit (.msix v)

/-- R403: raises a vector; messages on vector 2 are moderated by HUB_MSIX_MOD_US. -/
def State.raiseVec (s : State) (v : Nat) : State :=
  if v = 2 then
    (if s.hub.msixMod.toNat % 65536 = 0 then s.sendMsix 2
     else if s.hub.modOpen then { s with hub.modPending := true }
     else { s.sendMsix 2 with hub.modOpen := true })
  else s.sendMsix v

/-! Flags -/

/-- Is (flag − target), read as a signed 32-bit integer, at least 0 (R79, R86, R404)? -/
def reached (flag target : Word32) : Bool := !(flag - target).msb

/-- A hub flag (R77). -/
def State.hubFlag (s : State) (n : Nat) : Word32 := sget 0 s.hub.flags n

/-- R404: fires one binding if it is armed and its flag has reached the target. -/
def fireBind (s : State) (n : Nat) : State :=
  let b := sget Bind.reset s.hub.binds n
  if b.arm && reached (s.hubFlag b.flag) b.target then
    ({ s with hub.binds := sset Bind.reset s.hub.binds n { b with arm := false } }).raiseVec (16 + n)
  else s

/-- R404: fires every binding whose condition holds, in ascending order. -/
def fireBinds (s : State) : State := (List.range 48).foldl fireBind s

/-- R497: an addition to the hub flag that PMU_USER_CTL watches asks for a snapshot. -/
def Pmu.flagAdded (p : Pmu) (n : Nat) : Pmu :=
  if p.userCtl.getLsbD 0 && fld p.userCtl.toNat 1 10 = n then { p with jobTrig := p.jobTrig + 1 } else p

/-- R80: adds to a hub flag; bindings on it may fire (R404), and an addition to the job's snapshot flag asks the PMU
for a snapshot (R497, R507). -/
def State.addHubFlag (s : State) (n : Nat) (inc : Word32) : State :=
  fireBinds { s with hub.flags := sset 0 s.hub.flags n (s.hubFlag n + inc), pmu := s.pmu.flagAdded n }

/-- A core flag. -/
def Core.flag (k : Core) (n : Nat) : Word32 := sget 0 k.q.flags n

/-- R80: adds to a core flag. -/
def State.addCoreFlag (s : State) (c : CoreId) (n : Nat) (inc : Word32) : State :=
  s.modCore c fun k => { k with q.flags := sset 0 k.q.flags n (k.flag n + inc) }

/-! Performance counters (R490 to R501). Events that are counts of clocks come with COUNTER_CARRY. -/

/-- R496: is the device frozen? -/
def State.frozen (s : State) : Bool := s.pmu.ctl.getLsbD 0

/-- R491, R496: what a carry of a counter with this event select does beyond its OVF bit. -/
def State.cntCarry (s : State) (sel : Nat) : State :=
  let f := fld s.pmu.ctl.toNat 6 10
  let s1 := if bitAt sel 18 then { s with pmu.ctl := s.pmu.ctl ||| 1 } else s
  if bitAt sel 19 && f ≠ 0 then s1.addHubFlag f 1 else s1

/-- R491: adds to one hub counter. -/
def State.bumpHub (s : State) (i n : Nat) : State :=
  let x := sget 0 s.pmu.cnt i + n
  let s1 := { s with pmu.cnt := sset 0 s.pmu.cnt i (x % 2 ^ 48) }
  if x < 2 ^ 48 then s1
  else { s1 with pmu.hubOvf := s1.pmu.hubOvf ||| 1 <<< i }.cntCarry (sget 0x20000 s.pmu.evsel i).toNat

/-- The event select of a hub counter, and its match with an event whose UMASK satisfies `hit`. -/
def selHits (sel ev : Nat) (hit : Nat → Bool) : Bool := sel % 256 = ev && hit (fld sel 8 8)

/-- A UMASK that selects a bit; 0 selects every variant (R493). -/
def maskBit (b u : Nat) : Bool := u = 0 || bitAt u b

/-- R490, R494: counts `n` of a hub event on every enabled counter that selects it. -/
def State.countHub (s : State) (ev : Nat) (hit : Nat → Bool) (n : Nat) : State :=
  if n = 0 || s.frozen || s.pmu.hubCtl = 0 then s
  else (List.range 16).foldl (fun t i =>
    if s.pmu.hubCtl.getLsbD i && selHits (sget 0x20000 s.pmu.evsel i).toNat ev hit then t.bumpHub i n else t) s

/-- The event select of a core counter. -/
def PmuCore.sel (p : PmuCore) (i : Nat) : Nat := (sget 0x20000 p.evsel i).toNat

/-- R493: how an event may be sampled: 0 none, 1 skid, 2 precise. -/
def sampKind (ev : Nat) : Nat :=
  if 1 ≤ ev ∧ ev ≤ 0x0B then 1 else if ev = 0x10 ∨ ev = 0x11 ∨ ev = 0x13 then 2 else 0

/-- R501: PERIOD of a counter. -/
def PmuCore.periodOf (p : PmuCore) (i : Nat) : Nat := max 4096 (sget 65536 p.period i).toNat

/-- R491, R501: adds to one programmable counter of a core; `smp` is the sample should its period be reached. -/
def State.bumpCore (s : State) (c : CoreId) (i n : Nat) (smp : Sample) : State :=
  let p := (s.core c).pmu
  let sel := p.sel i
  let x := sget 0 p.cnt i + n
  if x < 2 ^ 48 then s.modCore c fun k => { k with pmu.cnt := sset 0 k.pmu.cnt i x }
  else if bitAt sel 16 && sampKind (sel % 256) ≠ 0 then
    s.modCore c fun k => { k with
      pmu.cnt := sset 0 k.pmu.cnt i ((2 ^ 48 - p.periodOf i + (x - 2 ^ 48)) % 2 ^ 48)
      pmu.waiting := k.pmu.waiting ++ [{ smp with ctr := i, precise := sampKind (sel % 256) = 2 }] }
  else (s.modCore c fun k => { k with
      pmu.cnt := sset 0 k.pmu.cnt i (x % 2 ^ 48)
      pmu.ovf := k.pmu.ovf ||| 1 <<< (i + 2) }).cntCarry sel

/-- R490, R493: counts `n` of a core event on every enabled programmable counter of the core that selects it. -/
def State.countCore (s : State) (c : CoreId) (ev : Nat) (hit : Nat → Bool) (n : Nat) (smp : Sample) : State :=
  let p := (s.core c).pmu
  if n = 0 || s.frozen || p.ctl = 0 then s
  else (List.range 8).foldl (fun t i =>
    if p.ctl.getLsbD (i + 2) && selHits (p.sel i) ev hit then t.bumpCore c i n smp else t) s

/-- A skid sample of an event: its command is named when it is captured (R502). -/
def skidSample (ev : Nat) : Sample := ⟨0, ev, false, SampCmd.none, 0, 0, 0, 0⟩

/-- R490, R493: a command is dispatched: PMU_FIX_1 and DISPATCH, `b` its UMASK bit. -/
def State.countDispatch (s : State) (c : CoreId) (b : Nat) : State :=
  let p := (s.core c).pmu
  let s1 := if s.frozen || !p.ctl.getLsbD 1 then s
    else
      let x := sget 0 p.fix 1 + 1
      s.modCore c fun k => { k with
        pmu.fix := sset 0 k.pmu.fix 1 (x % 2 ^ 48)
        pmu.ovf := if x < 2 ^ 48 then k.pmu.ovf else k.pmu.ovf ||| 2 }
  s1.countCore c 1 (maskBit b) 1 (skidSample 1)

/-! Occurrences -/

/-- R21: the step number a timestamp holds; all ones outside a job. A gated job runs step c + 1 (R346). -/
def State.stepNow (s : State) : Word64 :=
  match s.hub.job with
  | none => BitVec.allOnes 64
  | some j => if s.hub.jobState = .none then BitVec.allOnes 64
    else if j.gated then BitVec.ofNat 64 (s.cke.c + 1) else BitVec.ofNat 64 j.step

/-- R475, R408: the JOB_ID field: the running, halted or suspended job, 0 while STATE is NONE. -/
def State.jobIdNow (s : State) : Nat :=
  if s.hub.jobState = .none then 0
  else match s.hub.job, s.hub.susp with
    | some j, _ => j.jobId
    | none, some p => p.job.jobId
    | none, none => 0

/-- R489, R369: counts an accepted occurrence of a class. -/
def Err.countClass (e : Err) : ErrClass → Err
  | .c => { e with countC := satAdd 16 e.countC 1, ckWin := (e.ckWin.headD 0 + 1) :: e.ckWin.drop 1 }
  | .k => { e with countK := satAdd 16 e.countK 1, ckWin := (e.ckWin.headD 0 + 1) :: e.ckWin.drop 1 }
  | .d => { e with countD := satAdd 16 e.countD 1 }
  | .f => { e with countF := satAdd 16 e.countF 1 }

/-- R473: an occurrence joins the queue. -/
def Err.enqueue (e : Err) (o : Occ) : Err := { e with queue := e.queue ++ [o] }

/-- R473: offers an occurrence to the queue of 256; a full queue holds class D and F back and drops C and K. What is
accepted counts as ERR_OCCURRENCES (R494). -/
def State.offer (s : State) (o : Occ) : State :=
  if s.err.queue.length < 256 then { s with err := (s.err.countClass o.cls).enqueue o }.countHub 0x0E (maskBit o.cls.code) 1
  else if o.cls = .d || o.cls = .f then { s with err.held := s.err.held ++ [o] }
  else { s with err.queueCk := satAdd 16 s.err.queueCk 1 }

/-- One occurrence of the running device (R472): timestamp, job, payload. -/
def State.raise (s : State) (code : Nat) (cls : ErrClass) (inst payload : Nat) : State :=
  s.offer ⟨code, cls, inst, s.pwr.aoTime, s.stepNow, s.jobIdNow, payload, false, false, none⟩

/-- As `raise`, for an occurrence that halts the running job: its record is the one the HALTED completion names. -/
def State.raiseHalting (s : State) (code : Nat) (cls : ErrClass) (inst payload : Nat) : State :=
  s.offer ⟨code, cls, inst, s.pwr.aoTime, s.stepNow, s.jobIdNow, payload, false, true, none⟩

/-- R476: the COMMAND payload. -/
def cmdPayload (idx pass core opc routine pos detail : Nat) : Nat :=
  idx % 2 ^ 32 + (pass % 2 ^ 32) <<< 32 + core <<< 64 + opc <<< 72 + (routine % 2 ^ 16) <<< 80
    + (pos % 2 ^ 32) <<< 96 + detail <<< 128

/-- R476: the REGISTER payload. -/
def regPayload (off value size agent : Nat) : Nat := off + value <<< 32 + size <<< 96 + agent <<< 104

/-- R476: the ADDRESS payload. -/
def addrPayload (addr agent place : Nat) : Nat := addr + agent <<< 64 + place <<< 72

/-- R476: the DEVICE payload. -/
def devPayload (dev place key : Nat) : Nat := dev + place <<< 16 + key <<< 32

/-- No position (R476). -/
def noPos : Nat := 0xFFFFFFFF

/-- R349: sets a bit of the running step's health word. -/
def State.setHealth (s : State) (bit : Nat) : State := { s with cke.health := s.cke.health ||| (1 <<< bit) }

/-! Where a list stands -/

/-- The next command of a REPLAY: the one at its position, or the recording's first when a pass has yet to begin. -/
def SeqC.replayNext (q : SeqC) (r : Replay) : Option RecCmd :=
  let cmds := ((sget Slot.empty q.slots r.slot).recd).getD []
  match cmds[r.pos]? with
  | some x => if r.begun = 0 then cmds.head? else some x
  | none => cmds.head?

/-- R60, R96: SEQ_STATUS.CMD_INDEX: the index of the next command to dispatch, which in a REPLAY is the index its
command had when it was recorded; for a list that a fault or END has stopped, the index it stopped at. -/
def SeqC.shownIndex (q : SeqC) : Nat :=
  match q.seq, q.replay with
  | .haltFault, _ | .ended, _ | _, none => q.cmdIndex
  | _, some r => ((q.replayNext r).map fun x => x.idx).getD q.cmdIndex

/-- The address of the next command word of a list. -/
def Core.fetchAddr (k : Core) : Nat := k.q.listBase + 16 * k.q.cmdIndex

/-- R96: SEQ_STATUS.REPLAYING: a pass has begun and has commands left to dispatch. -/
def SeqC.inPass (q : SeqC) : Bool :=
  match q.replay with
  | none => false
  | some r => r.begun != 0 && decide (r.pos < (((sget Slot.empty q.slots r.slot).recd).getD []).length)

/-! Register writes -/

/-- R12: the value a register holds after a write to all or half of it. -/
def mergeWrite (old : Word64) : RegWrite → Word64
  | .all v => v
  | .low v => (old &&& 0xFFFFFFFF00000000) ||| v.setWidth 64
  | .high v => (old &&& 0x00000000FFFFFFFF) ||| (v.setWidth 64 <<< 32)

/-- Does the write reach the upper half? -/
def writesHigh : RegWrite → Bool
  | .all _ | .high _ => true
  | .low _ => false

/-- R16, R535: a write to a locked field of a running block is ignored, counted and recorded. -/
def State.cfgIgnored (s : State) (off value size : Nat) : State :=
  { s with top.cfgIgnored := satAdd 32 s.top.cfgIgnored 1 }.raise 0x0102 .c 0 (regPayload off value size 0)

/-- R16: the value of a 32-bit register after a write in which the `locked` bits do not change while the block runs, and
the state that has recorded it. Bits outside `writable` keep their value. -/
def State.lockedWrite (s : State) (running : Bool) (writable locked old new : Word32) (off : Nat) : Word32 × State :=
  let m := if running then writable &&& ~~~locked else writable
  ((old &&& ~~~m) ||| (new &&& m), if running && locked ≠ 0 then s.cfgIgnored off new.toNat 4 else s)

/-- R484: may the host write BAR0 registers other than ERR_VALID, ERR_FATAL_STATUS and TOP_RESET? -/
def State.barOpen (s : State) : Bool := s.pwr.stagesOn && s.hub.linkUp && !s.err.offline

/-- R484: the effect of a BAR0 write, which is ignored while OFFLINE, and does not reach a hub that is off. -/
def State.onBar (s : State) (f : State → State) : Answer := .next (if s.barOpen then f s else s)

/-! Halting a job -/

/-- Cores of a mask as list. -/
def coresOfMask (m : Nat) : List CoreId := (List.finRange 64).filter fun c => bitAt m c.val

/-- R94, R84: a core that still dispatches stops at its next command boundary. -/
def haltCore (k : Core) : Core :=
  match k.q.seq with
  | .dispatching | .stalled | .waiting => { k with q.seq := .haltSched, q.stall := 0, q.pbRead := none }
  | .idle | .haltFault | .haltSched | .ended => k

/-- R94, R397: the running job halts: its other cores stop and its state is HALTED, with the first halting code. -/
def State.haltJob (s : State) (code : Nat) : State :=
  match s.hub.job with
  | none => s
  | some j =>
    let s1 := { s with cores := s.cores.map haltCore }
    match s.hub.jobState with
    | .running | .starting | .suspending =>
      { s1 with hub.jobState := .halted, hub.job := some { j with haltCode := some (j.haltCode.getD code) } }
    | _ => s1

/-- R92: the code-specific detail by which a record names the step of a routine; 0 for a command of the list itself
(assumption 59). -/
def stepDetail (routine code : Nat) : Nat := if routine = 0 then 0 else Config.routineStep routine code % 2 ^ 128

/-- R92, R476: the opcode a record names for a command: its own, or that of the routine's command it stands for. -/
def EngCmd.shownOpc (e : EngCmd) : Nat := if e.opc = 0x0B then Config.routineOpc e.routine % 256 else e.opc

/-- A core's own list halts by a fault (R94, R174, R221), the record names the command, and the job halts. -/
def State.cmdFault (s : State) (c : CoreId) (code : Nat) (idx pass opc routine pos : Nat) : State :=
  let inst := c.val
  let s1 := s.raiseHalting code .d inst (cmdPayload idx pass c.val opc routine pos (stepDetail routine code))
  let s2 := s1.modCore c fun k => { k with q.seq := .haltFault, q.stall := 0, q.pbRead := none, q.cmdIndex := idx }
  s2.haltJob code

/-- An occurrence of a running command that halts nothing (R129 to R133, R159). -/
def State.cmdNote (s : State) (c : CoreId) (code : Nat) (cls : ErrClass) (e : EngCmd) (pos : Nat) : State :=
  s.raise code cls c.val (cmdPayload e.idx e.pass c.val e.shownOpc e.routine pos (stepDetail e.routine code))

/-- R129 to R132: an occurrence of the matrix unit at an accumulator row: the row is the position, the array stands in the
code-specific detail (assumption 63). -/
def State.rowNote (s : State) (c : CoreId) (code : Nat) (cls : ErrClass) (e : EngCmd) (arr row : Nat) : State :=
  s.raise code cls c.val (cmdPayload e.idx e.pass c.val e.opc e.routine row arr)

/-- Sets sticky numeric flags of a core (R52). -/
def Core.numFlags (k : Core) (f : Fl) : Core := { k with q.numStatus := k.q.numStatus ||| f.setWidth 32 }

/-! Device memory -/

/-- R224: bases of the regions. -/
def die1Base : Nat := 0x8000000000
def tier2Base : Nat := 0x100000000000
def aliasBase : Nat := 0x300000000000
def aliasSize : Nat := 0x800000

/-- R2, R224: HBM bytes of one die. -/
def State.hbmBytes (s : State) : Nat := s.ident.grade.stacks * 0x900000000

/-- A die's controller. -/
def Memory.die (m : Memory) (d : Nat) : DieMem := if d = 0 then m.die0 else m.die1

/-- The state with a die's controller replaced. -/
def State.setDie (s : State) (d : Nat) (x : DieMem) : State :=
  if d = 0 then { s with mem.die0 := x } else { s with mem.die1 := x }

/-- A tier-2 port. -/
def Memory.port (m : Memory) (p : Nat) : T2Port := sget T2Port.reset m.t2 p

/-- R238: is tier-2 memory interleaved across two equal ports? Not where enumeration refused the interleave. -/
def Memory.interleaved (m : Memory) : Bool :=
  m.intlv && !(m.port 0).intlvRefused && decide ((m.port 0).capacity ≠ 0)
    && decide ((m.port 0).capacity = (m.port 1).capacity)

/-- R238: the tier-2 port that serves an offset, if it is mapped. -/
def Memory.t2PortOf (m : Memory) (off : Nat) : Option Nat :=
  let c0 := (m.port 0).capacity * 0x10000000
  let c1 := (m.port 1).capacity * 0x10000000
  if m.interleaved then
    (if off < c0 + c1 && (m.port 0).mapped && (m.port 1).mapped then some (off / 4096 % 2) else none)
  else if off < c0 then (if (m.port 0).mapped then some 0 else none)
  else if off < c0 + c1 then (if (m.port 1).mapped then some 1 else none)
  else none

/-- Where an address lies (R224, R225). -/
inductive Place where
  | hbm (die : Nat)
  | tier2 (port : Nat)
  | hole
  deriving DecidableEq, Repr

/-- R224, R225: the place of a device address; an offline region is a hole. -/
def State.place (s : State) (a : Nat) : Place :=
  if a < die1Base then (if a < s.hbmBytes && !s.mem.die0.offline then .hbm 0 else .hole)
  else if a < 2 * die1Base then
    (if a - die1Base < s.hbmBytes && !s.mem.die1.offline then .hbm 1 else .hole)
  else if tier2Base ≤ a ∧ a < tier2Base + 0x40000000000 then
    match s.mem.t2PortOf (a - tier2Base) with
    | some p => .tier2 p
    | none => .hole
  else .hole

/-- R224: populated memory. -/
def State.populated (s : State) (a : Nat) : Bool := s.place a != .hole

/-- Every line of a byte range is populated. -/
def State.rangePop (s : State) (a n : Nat) : Bool :=
  (List.range ((a % 64 + n + 63) / 64)).all fun i => s.populated (a / 64 * 64 + 64 * i)

/-- R391: the windows of the running job; none means all populated memory. -/
def State.windows (s : State) : List (Nat × Nat) :=
  match s.hub.job with
  | some j => j.windows
  | none => []

/-- Do windows cover the bytes from `a` up to `b`, one window taking over where another ends? -/
def coveredBy (ws : List (Nat × Nat)) (b : Nat) : Nat → Nat → Bool
  | 0, a => decide (b ≤ a)
  | n + 1, a => decide (b ≤ a) || match ws.find? fun w => decide (w.1 ≤ a) && decide (a ≤ w.2) with
    | some w => coveredBy ws b n (w.2 + 1)
    | none => false

/-- R391: does every byte of the range lie in a window of the job? -/
def State.inWindows (s : State) (a n : Nat) : Bool :=
  s.windows.isEmpty || coveredBy s.windows (a + n) s.windows.length a

/-- R228: logical stack of an HBM address. -/
def State.stackOf (s : State) (a : Nat) : Nat := (a % die1Base) / 512 % s.ident.grade.stacks

/-- R228: offset of an HBM address in its stack, and the pseudo-channel it lies on. -/
def State.stackOffset (s : State) (a : Nat) : Nat := a % die1Base / 512 / s.ident.grade.stacks * 512 + a % 512
def State.pseudoChannel (s : State) (a : Nat) : Nat := fld (s.stackOffset a) 9 5 ^^^ fld (s.stackOffset a) 14 5

/-- R472: the INSTANCE of memory occurrences at an address. -/
def State.memInst (s : State) (a : Nat) : Nat :=
  match s.place a with
  | .hbm d => d
  | .tier2 p => 2 + p
  | .hole => 0x7F

/-- R476: the stack or port an ADDRESS payload names. -/
def State.memPlaceNo (s : State) (a : Nat) : Nat :=
  match s.place a with
  | .hbm _ => s.stackOf a
  | .tier2 p => p
  | .hole => 0

/-- The byte stored at a device address: what was last written there. -/
def State.byteAt (s : State) (a : Nat) : Byte := sget 0 s.mem.bytes a

/-- Is the line of an address poisoned? -/
def State.poisoned (s : State) (a : Nat) : Bool := sget false s.mem.poison (a / 64)

/-- What is wrong with the stored line of an address (R231). -/
def State.lineErr (s : State) (a : Nat) : LineErr := sget LineErr.none s.mem.bad (a / 64)

/-- R227, R231, R233: are the data of an address lost: in a hole, in a poisoned line, or in a line whose error the
controller has taken for data? -/
def State.lost (s : State) (a : Nat) : Bool := !s.populated a || s.poisoned a || (s.lineErr a).und

/-- The byte a read of a device address delivers; lost data are a free value (assumption 55). -/
def State.seenByte (s : State) (a : Nat) : Byte := if s.lost a then BitVec.ofNat 8 (Config.lostByte s.fresh a) else s.byteAt a

/-- `n` bytes from a device address, as a read delivers them. -/
def State.bytesAt (s : State) (a n : Nat) : List Byte := (List.range n).map fun i => s.seenByte (a + i)

/-- A little-endian number of `n` bytes. -/
def State.numAt (s : State) (a n : Nat) : Nat := ofLE (s.bytesAt a n)

/-- Sets or clears the poison of a line. -/
def State.setPoison (s : State) (a : Nat) (p : Bool) : State :=
  { s with mem.poison := sset false s.mem.poison (a / 64) p }

/-- R227: an access to a hole by an agent other than a mover. -/
def State.noteHole (s : State) (a agent : Nat) : State := s.raise 0x0704 .c 0x7F (addrPayload a agent 0)

/-- R234: does consumption by this agent set HW_ERR: a job's command (a mover) or a hub engine (CLE, PUE, CKE), and no
host, other device, scrubber or MSS? -/
def agentSetsHealth (agent : Nat) : Bool := decide (1 ≤ agent) && decide (agent ≤ 0x83)

/-- R234: an agent consumes a poisoned line. -/
def State.notePoison (s : State) (a agent : Nat) : State :=
  let s1 := s.raise 0x0703 .d (s.memInst a) (addrPayload (a / 64 * 64) agent (s.memPlaceNo a))
  let s2 := match s.place a with
    | .hbm d => s1.setDie d { s1.mem.die d with poisonReads := satAdd 32 (s1.mem.die d).poisonReads 1 }
    | .tier2 _ => { s1 with mem.poisonRx := satAdd 16 s1.mem.poisonRx 1 }
    | .hole => s1
  if agentSetsHealth agent then s2.setHealth 3 else s2

/-- R232: a corrected read. -/
def State.noteCe (s : State) (a agent : Nat) : State :=
  let s1 := s.raise 0x0701 .c (s.memInst a) (addrPayload (a / 64 * 64) agent (s.memPlaceNo a))
  match s.place a with
  | .hbm d =>
    let x := s1.mem.die d
    let n := s.stackOf a
    s1.setDie d { x with ce := sset 0 x.ce n (satAdd 32 (sget 0 x.ce n) 1) }
  | _ => s1

/-- R232, R235, R240: an uncorrectable read; the code is MEM_UE or MEM_SCRUB_UE. The distinct addresses of the last
second are kept for R240. -/
def State.noteUe (s : State) (code a agent : Nat) : State :=
  let s1 := s.raise code .d (s.memInst a) (addrPayload (a / 64 * 64) agent (s.memPlaceNo a))
  match s.place a with
  | .hbm d =>
    let x := s1.mem.die d
    let n := s.stackOf a
    let l := a / 64 * 64
    s1.setDie d { x with
      ue := sset 0 x.ue n (satAdd 32 (sget 0 x.ue n) 1)
      errAddr := l, errStack := n, errValid := true
      ueRecent := (x.ueRecent.filter fun p => p.1 ≠ l) ++ [(l, s.pwr.aoTime)] }
  | _ => s1

/-- R423: an access wakes the stack it reaches from self-refresh. -/
def State.wakeStack (s : State) (a : Nat) : State :=
  if s.pwr.selfRefresh.isEmpty then s
  else match s.place a with
    | .hbm d => { s with pwr.selfRefresh := sset false s.pwr.selfRefresh (16 * d + s.stackOf a) false }
    | _ => s

/-- R494: counts a line read or written by its controller. -/
def State.countLine (s0 : State) (a : Nat) (write : Bool) : State :=
  let s := s0.wakeStack a
  match s.place a with
  | .hbm d => s.countHub (if write then 3 else 2) (maskBit d) 1
  | .tier2 p => s.countHub 4 (maskBit (2 * p + b2n write)) 1
  | .hole => s

/-- R231, R232: what the check of a line finds. -/
inductive Verdict where
  | clean | corrected | uncorrectable | missed | miscorrected
  deriving DecidableEq, Repr

/-- R231: the check of a line: every error in at most 3 symbols is corrected, every error in at most 5 and the six symbols
of one injection are detected, and what is found of a larger error is a free value (assumption 55). -/
def State.verdict (s : State) (e : LineErr) : Verdict :=
  let n := e.symbols
  if n = 0 then .clean
  else if n ≤ 3 then .corrected
  else if n ≤ 5 || (e.six && e.hit = 0) then .uncorrectable
  else match Config.freeValue s.fresh % 3 with
    | 0 => .uncorrectable
    | 1 => .missed
    | _ => .miscorrected

/-- The state with what is wrong with a stored line replaced. -/
def State.setLineErr (s : State) (a : Nat) (e : LineErr) : State := { s with mem.bad := sset LineErr.none s.mem.bad (a / 64) e }

/-- What befalls a stored line: symbols of an HBM line fall into error; an expander reports its line as poisoned, and its
port link replays (R231, R233, R242). -/
def State.hitLine (s : State) (h : LineHit) : State :=
  match s.place (64 * h.line) with
  | .hbm _ => s.setLineErr (64 * h.line) { s.lineErr (64 * h.line) with hit := (s.lineErr (64 * h.line)).hit ||| h.syms }
  | .tier2 _ =>
    let s1 := if h.poison then s.setPoison (64 * h.line) true else s
    { s1 with mem.linkErr := satAdd 16 s1.mem.linkErr h.replays }
  | .hole => s

/-- What befalls stored lines. -/
def State.hitLines (s : State) (hs : List LineHit) : State := hs.foldl State.hitLine s

/-- R231, R232, R235: the controller checks a populated line that is not poisoned as it is read: a correctable line is
written back corrected, an uncorrectable one poisoned, and an error it misses stays as data of the line. -/
def State.checkLine (s : State) (ueCode a agent : Nat) : State :=
  match s.verdict (s.lineErr a) with
  | .clean => s
  | .corrected => (s.noteCe a agent).setLineErr a { LineErr.none with und := (s.lineErr a).und }
  | .uncorrectable => ((s.noteUe ueCode a agent).setLineErr a LineErr.none).setPoison a true
  | .missed => { s.setLineErr a LineErr.garbled with fresh := s.fresh + 1 }
  | .miscorrected => { (s.noteCe a agent).setLineErr a LineErr.garbled with fresh := s.fresh + 1 }

/-- R232 to R235: what reading one line does: whether it is delivered poisoned, and the state after corrections,
write-backs and records; `ueCode` is the code of an uncorrectable line. -/
def State.touchLineAs (s0 : State) (ueCode a agent : Nat) : Bool × State :=
  let s := s0.countLine a false
  if !s.populated a then (true, { s.noteHole a agent with fresh := s.fresh + 1 })
  else if s.poisoned a then (true, { s.notePoison a agent with fresh := s.fresh + 1 })
  else
    let t := s.checkLine ueCode a agent
    if t.poisoned a then (true, { t.notePoison a agent with fresh := t.fresh + 1 }) else (false, t)

/-- A line that a read takes as it stands: populated, neither poisoned nor with a stored error. -/
def State.lineSound (s : State) (a : Nat) : Bool :=
  s.populated a && !s.poisoned a && decide (s.lineErr a = LineErr.none)

/-- R232: a demand read of one line. -/
def State.touchLine (s : State) (a agent : Nat) : Bool × State := s.touchLineAs 0x0702 a agent

/-- R230, R232: the read inside a write with byte enables: errors are handled as on any read, and nobody consumes the
line. -/
def State.touchLineQuiet (s : State) (a agent : Nat) : State :=
  if s.lineSound a || !s.populated a || s.poisoned a then s else s.checkLine 0x0702 a agent

/-- Reads the lines of a range in ascending order: whether any is poisoned. -/
def State.touchRange (s : State) (a n agent : Nat) : Bool × State :=
  (List.range (if n = 0 then 0 else (a % 64 + n + 63) / 64)).foldl (fun p i =>
    let (b, t) := p.2.touchLine (a / 64 * 64 + 64 * i) agent
    (p.1 || b, t)) (false, s)

/-- R227, R232, R234: an engine reads ranges (address, length): every line once, in ascending order. -/
def State.engineReads (s : State) (agent : Nat) (rs : List (Nat × Nat)) : State :=
  ((rs.flatMap fun r => (List.range (if r.2 = 0 then 0 else (r.1 % 64 + r.2 + 63) / 64)).map (r.1 / 64 + ·)).insertionSort (· ≤ ·)).dedup.foldl
    (fun t l => (t.touchLine (64 * l) agent).2) s

/-- The bytes of a write, line by line: address and bytes of each of at most `n` parts. -/
def lineParts : Nat → Nat → List Byte → List (Nat × List Byte)
  | 0, _, _ => []
  | n + 1, a, bs => if bs.isEmpty then [] else (a, bs.take (64 - a % 64)) :: lineParts n (a + (64 - a % 64)) (bs.drop (64 - a % 64))

/-- Stores bytes. -/
def State.storeBytes (s : State) (a : Nat) (bs : List Byte) : State :=
  { s with mem.bytes := bs.zipIdx.foldl (fun m p => sset 0 m (a + p.2) p.1) s.mem.bytes }

/-- R227, R230, R233: a write within one line by an agent: into a hole it is discarded and recorded; a full line loses
its poison and its stored error; any other is read, checked and rewritten. -/
def State.writePart (agent : Nat) (s0 : State) (p : Nat × List Byte) : State :=
  let s := s0.countLine p.1 true
  if !s.populated p.1 then s.noteHole p.1 agent
  else if p.2.length = 64 then ((s.setPoison p.1 false).setLineErr p.1 LineErr.none).storeBytes p.1 p.2
  else (s.touchLineQuiet p.1 agent).storeBytes p.1 p.2

/-- An agent writes bytes from an address, line by line (R227, R230, R233). -/
def State.agentWrite (s : State) (a agent : Nat) (bs : List Byte) : State :=
  (lineParts bs.length a bs).foldl (State.writePart agent) s

/-- R230: the bytes of a write that `mask` enables, each with its address. -/
def maskRuns (a : Nat) (bs : List Byte) (mask : Nat) : List (Nat × Byte) :=
  (List.range 64).filterMap fun i => if bitAt mask i then some (a + i, bs.getD i 0) else none

/-- R227, R230, R233: a write of one line with byte enables by an agent: into a hole it is discarded and recorded once;
otherwise the line is read and checked first, unless all of it is written. -/
def State.writeMasked (s0 : State) (agent a : Nat) (bs : List Byte) (mask : Nat) : State :=
  let s := s0.countLine a true
  if !s.populated a then s.noteHole a agent
  else if mask % 2 ^ 64 = 2 ^ 64 - 1 then
    ((s.setPoison a false).setLineErr a LineErr.none).storeBytes a ((List.range 64).map fun i => bs.getD i 0)
  else (maskRuns a bs mask).foldl (fun t r => t.storeBytes r.1 [r.2]) (s.touchLineQuiet a agent)

/-- Writes a little-endian number of `n` bytes. -/
def State.agentNum (s : State) (a agent n x : Nat) : State := s.agentWrite a agent (leBytes n x)

/-- R385: lines of a write that the host caches, or whose back-invalidation is not yet answered: the write waits. -/
def State.snoopLines (s : State) (a n : Nat) : List Nat :=
  ((List.range ((a % 64 + n + 63) / 64)).map fun i => a / 64 + i).filter
    fun l => s.hub.snoop.contains l || s.hub.bisnp.contains l

/-- R385: sends the back-invalidation of one line the host caches. -/
def State.sendBisnp (s : State) (l : Nat) : State :=
  if s.hub.bisnp.contains l then s
  else { s with hub.snoop := s.hub.snoop.erase l, hub.bisnp := s.hub.bisnp ++ [l] }.emit (.bisnp l)

/-- R385: sends the back-invalidations a write needs; true when it may proceed. -/
def State.bisnp (s : State) (ls : List Nat) : Bool × State := (ls.isEmpty, ls.foldl State.sendBisnp s)

/-- Do two states hold the same in a line of memory? -/
def lineSame (s t : State) (l : Nat) : Bool :=
  ((List.range 64).all fun i => s.byteAt (64 * l + i) == t.byteAt (64 * l + i)) && s.poisoned (64 * l) == t.poisoned (64 * l)

/-- R385: an event of a hub engine that would change lines the host caches sends their back-invalidations instead, and
comes about once they are answered. -/
def afterSnoop (s t : State) : State :=
  let ls := (s.hub.snoop ++ s.hub.bisnp).filter fun l => !lineSame s t l
  if ls.isEmpty then t else (s.bisnp ls).2

/-! Loss of a die -/

/-- R532: is the die powered down (R411, R433)? -/
def State.dieDown (s : State) (d : Nat) : Bool := if d = 0 then s.pwr.die0Lost else s.pwr.die1Lost

/-- R5, R532: is the window of a logical core there: present in the grade, and its die powered? -/
def State.coreWindow (s : State) (n : Nat) : Bool := s.present n && !s.dieDown (s.dieOfCore n)

/-- R421, R422: a host access to a core's window starts the core's clock. -/
def State.wakeCore (s : State) (c : CoreId) : State :=
  { s with
    pwr.coreClocks := sset false s.pwr.coreClocks c.val true
    pwr.state := if s.pwr.state = .idle then .active else s.pwr.state }

/-- R411, R240: has the die left service? -/
def State.dieGone (s : State) (d : Nat) : Bool :=
  s.dieDown d || (s.mem.die d).offline

/-- The PUE of a die. -/
def State.pue (s : State) (d : Nat) : Pue := if d = 0 then s.pue0 else s.pue1

/-- The state with the PUE of a die replaced. -/
def State.setPue (s : State) (d : Nat) (x : Pue) : State := if d = 0 then { s with pue0 := x } else { s with pue1 := x }

/-- R240, R411, R533: a die leaves service: its cores are no longer present, the running job halts with the code whose
record this is, and the health word shows DIE_LOST. -/
def State.loseDie (s : State) (d code inst payload : Nat) : State :=
  let s1 := (s.raiseHalting code .d inst payload).setHealth 13
  let gone := (List.range 64).filter fun n => s.present n && decide (s.dieOfCore n = d)
  let s2 := gone.foldl (fun t n => { t with top.present := t.top.present &&& ~~~((1 : Word64) <<< n) }) s1
  (s2.setPue d { s2.pue d with call := none }).haltJob code

end Sys2Proof.Machine
end

