-- ==== Sys2Proof/Machine/Pmu.lean ====
section
/-! DEFINITION. Performance monitoring (17_performance_monitoring.md): counters, freeze, snapshots, step latches, and
sample records. What counts an event calls the operations of Ops.lean; counts of clocks come with COUNTER_CARRY. -/

namespace Sys2Proof.Machine

/-! Counter images -/

/-- R498: a counter's word: its value and its OVF bit. -/
def ctrWord (x : Nat) (ovf : Bool) : Nat := x + b2n ovf <<< 48

/-- R498: the words of a core: fixed counters, then programmable ones. -/
def Core.ctrWords (k : Core) : List Nat :=
  (List.range 10).map fun i =>
    ctrWord (if i < 2 then sget 0 k.pmu.fix i else sget 0 k.pmu.cnt (i - 2)) (k.pmu.ovf.getLsbD i)

/-- R498: the words of the hub. -/
def Pmu.ctrWords (p : Pmu) : List Nat := (List.range 16).map fun i => ctrWord (sget 0 p.cnt i) (p.hubOvf.getLsbD i)

/-- Words under a mask. -/
def maskWords (m : Nat) (xs : List Nat) : List Nat := xs.zipIdx.map fun (x, i) => if bitAt m i then x else 0

/-- R498, R507: a counter image with SEQ 0. `byte25` and `byte26` are its bytes 25 and 26; a job's snapshot is masked. -/
def State.counterImage (s : State) (kind byte25 byte26 : Nat) (job : Bool) : List Byte :=
  let cm := if job then fld s.pmu.userCtl.toNat 16 10 else 0x3FF
  let hm := if job then fld s.pmu.userCtl.toNat 32 16 else 0xFFFF
  let words := fun (xs : List Nat) => xs.flatMap (leBytes 8)
  leBytes 8 s.pwr.aoTime.toNat ++ leBytes 8 s.stepNow.toNat ++ leBytes 8 s.stepNow.toNat
    ++ leBytes 1 kind ++ leBytes 1 byte25 ++ leBytes 1 byte26 ++ leBytes 1 (b2n s.frozen) ++ leBytes 4 0 ++ leBytes 32 0
    ++ ((List.range 64).flatMap fun n =>
        words (if s.present n then maskWords cm (s.cores.getD n Core.reset).ctrWords else List.replicate 10 0) ++ leBytes 48 0)
    ++ words (maskWords hm s.pmu.ctrWords)

/-- R498: bytes of an image. -/
def imageLen : Nat := 8384

/-- R500: the address of the step ring's slot for an image number. -/
def Pmu.stepSlot (p : Pmu) (seq : Nat) : Nat := p.stepAddr.toNat + seq % 2 ^ fld p.stepCtl.toNat 1 4 * imageLen

/-- R505, R506: refuses a snapshot. -/
def State.snapRefuse (s : State) : State :=
  { s with pmu.snapRefused := satAdd 15 s.pmu.snapRefused 1 }.raise 0x0F01 .c 0x7F 0

/-- R498, R506: begins writing the first image of the queue if its writing has not begun: its area is read now. An
image whose area is not populated is dropped and recorded. -/
def State.startImage (s : State) : State :=
  match s.pmu.images with
  | [] => s
  | i :: rest =>
    if i.addr.isSome then s
    else
      let n := s.pmu.seq + 1
      let a := if i.kind = 0 then s.pmu.snapAddr.toNat else s.pmu.stepSlot n
      if !s.rangePop a imageLen then { s with pmu.images := rest }.raise 0x0F03 .c 0x7F 0
      else if i.job && !s.inWindows a imageLen then { s with pmu.images := rest }.snapRefuse
      else { s with pmu.seq := n, pmu.images := { i with
        bytes := i.bytes.take 28 ++ leBytes 4 n ++ i.bytes.drop 32, addr := some a } :: rest }

/-- Begins images until one is under way or none is left. -/
def State.startImages (s : State) : State := s.pmu.images.foldl (fun t _ => t.startImage) s

/-- R497: takes a snapshot now. -/
def State.snapNow (s : State) (job : Bool) : State :=
  let i : PmuImage := ⟨0, job, s.counterImage 0 (b2n job) 0 job, none⟩
  { s with pmu.images := s.pmu.images ++ [i] }.startImages

/-- R497: a trigger: one waits while an image is being written, a further one is refused. -/
def State.snapTrigger (s : State) (job : Bool) : State :=
  if s.pmu.images.isEmpty then s.snapNow job
  else if s.pmu.waits.isNone then { s with pmu.waits := some job }
  else s.snapRefuse

/-- R509: a write of PMU_SNAP_CTL. -/
def State.snapCtlWrite (s : State) (w : Word32) : State :=
  let f := fld w.toNat 2 10
  let flag := if f < 64 then fld s.pmu.snapCtl.toNat 2 10 else f
  let s1 := { s with pmu.snapCtl := BitVec.ofNat 32 (b2n (w.getLsbD 1) <<< 1 + flag <<< 2) }
  if w.getLsbD 0 then s1.snapTrigger false else s1

/-- SNAPSHOT (R497): a write of PMU_SNAP_CTL, or, without one, an addition to the flag that PMU_USER_CTL watches. -/
def execSnapshot (w : Option Word32) (s : State) : Answer :=
  match w with
  | some v => s.onBar fun t => t.snapCtlWrite v
  | none => if s.pmu.jobTrig = 0 then .next s
    else .next ({ s with pmu.jobTrig := s.pmu.jobTrig - 1 }.snapTrigger true)

/-- SNAPSHOT_DONE (R497, R500): the image being written is whole; a snapshot's DONE_FLAG is incremented; the next image,
or the trigger that waits, begins. -/
def execSnapshotDone (s : State) : Answer :=
  match s.pmu.images with
  | [] => .next s
  | i :: rest =>
    match i.addr with
    | none => .next s.startImages
    | some a =>
      let s1 := { s with pmu.images := rest }.agentWrite a 0 i.bytes
      let s2 := if i.kind = 0 && s1.pmu.snapCtl.getLsbD 1 then s1.addHubFlag (fld s1.pmu.snapCtl.toNat 2 10) 1 else s1
      let s3 := s2.startImages
      match s3.pmu.images.isEmpty, s3.pmu.waits with
      | true, some j => .next (afterSnoop s ({ s3 with pmu.waits := none }.snapNow j))
      | _, _ => .next (afterSnoop s s3)

/-! Freeze -/

/-- R496, R509: a write of PMU_GLOBAL_CTL. -/
def State.globalCtlWrite (s : State) (w : Word32) : State :=
  let f := fld w.toNat 6 10
  let flag := if f = 0 ∨ 64 ≤ f then f else fld s.pmu.ctl.toNat 6 10
  { s with pmu.ctl := (w &&& 7) ||| BitVec.ofNat 32 (flag <<< 6) }

/-- FREEZE (R496). -/
def execFreeze (w : Word32) (s : State) : Answer := s.onBar fun t => t.globalCtlWrite w

/-- COUNTER_CARRY (R490, R491, R496, R501): an enabled counter adds the increment of one clock; a carry out of bit 47
sets OVF, or takes a sample in sampling mode. -/
def execCounterCarry (ctr : CtrId) (inc : BitVec 13) (s : State) : Answer :=
  let n := inc.toNat
  if s.frozen then .next s
  else match ctr with
    | .hub i => .next (if s.pmu.hubCtl.getLsbD i.val then s.bumpHub i.val n else s)
    | .fix c i =>
      if !(s.core c).pmu.ctl.getLsbD i.val then .next s
      else .next (s.modCore c fun k =>
        let x := sget 0 k.pmu.fix i.val + n
        { k with
          pmu.fix := sset 0 k.pmu.fix i.val (x % 2 ^ 48)
          pmu.ovf := if x < 2 ^ 48 then k.pmu.ovf else k.pmu.ovf ||| 1 <<< i.val })
    | .cnt c i =>
      let p := (s.core c).pmu
      if !p.ctl.getLsbD (i.val + 2) then .next s
      else .next (s.bumpCore c i.val n (skidSample (p.sel i.val % 256)))

/-! Latches -/

/-- R499: latches one set of counters: those selected move to the latched copies and start from 0. -/
def latchSet (sel : Nat → Bool) (words : List Nat) (lat : SMap Nat) : SMap Nat :=
  words.zipIdx.foldl (fun m (x, i) => if sel i then sset 0 m i x else m) lat

/-- R499: is counter `i` of a core (0, 1 fixed) latched? -/
def Core.latches (k : Core) (i : Nat) : Bool :=
  decide (i < 2) || (bitAt (k.pmu.sel (i - 2)) 17
    && !(bitAt (k.pmu.sel (i - 2)) 16 && decide (sampKind (k.pmu.sel (i - 2) % 256) ≠ 0)))

/-- R499: a core's latch. -/
def Core.latch (k : Core) : Core :=
  { k with
    pmu.lat := latchSet k.latches k.ctrWords k.pmu.lat
    pmu.fix := []
    pmu.cnt := k.pmu.cnt.filter fun p => !k.latches (p.1 + 2)
    pmu.ovf := BitVec.ofNat 32 (((List.range 10).filter fun i => k.pmu.ovf.getLsbD i && !k.latches i).map (2 ^ ·)).sum }

/-- R499: the hub's latch. -/
def Pmu.latch (p : Pmu) : Pmu :=
  let l := fun i => (sget 0x20000 p.evsel i).getLsbD 17
  { p with
    lat := latchSet l p.ctrWords p.lat
    cnt := p.cnt.filter fun x => !l x.1
    hubOvf := BitVec.ofNat 32 (((List.range 16).filter fun i => p.hubOvf.getLsbD i && !l i).map (2 ^ ·)).sum }

/-- R499, R500: the latch at a COMMIT (1), ABORT (2) or ROLLBACK (4) of a step, with the step image. -/
def State.latchCounters (s : State) (step attempt action : Nat) : State :=
  let img : PmuImage := ⟨1, false, s.counterImage 1 action attempt false, none⟩
  let s1 := { s with
    cores := s.cores.map Core.latch
    pmu := { s.pmu.latch with
      latStep := BitVec.ofNat 64 (action + (attempt % 256) <<< 3 + (step % 2 ^ 53) <<< 11) } }
  if !s.pmu.stepCtl.getLsbD 0 then s1
  else if 2 ≤ (s.pmu.images.filter fun i => i.kind = 1 && i.addr.isNone).length then
    { s1 with pmu.stepLost := satAdd 16 s1.pmu.stepLost 1 }.raise 0x0F04 .c 0x7F 0
  else { s1 with pmu.images := s1.pmu.images ++ [img] }.startImages

/-- R507: CLEAR_ON_JOB: counters, OVF bits and latched copies of a core. -/
def Core.clearCounters (k : Core) : Core := { k with pmu.fix := [], pmu.cnt := [], pmu.lat := [], pmu.ovf := 0 }

/-! Samples -/

/-- R493, R502: the engine of a skid event: 0 MXU, 1 VCE, 4 the sequencer; ENGINE_WAIT by its selected waits. -/
def sampEngine (ev umask : Nat) : Nat :=
  if ev = 1 ∨ ev = 2 then 4
  else if 3 ≤ ev ∧ ev ≤ 6 then 0
  else if 7 ≤ ev ∧ ev ≤ 0x0A then 1
  else if umask ≠ 0 ∧ umask % 2 = 0 ∧ fld umask 1 2 ≠ 0 then 1
  else if umask ≠ 0 ∧ umask % 8 = 0 then 2
  else 0

/-- R502: the opcode of the command that SEQ_STATUS.CMD_INDEX names: in a REPLAY that of the recording, otherwise the one
in the list. -/
def State.namedOpc (s : State) (k : Core) : Nat :=
  match k.q.replay with
  | some r => ((k.q.replayNext r).map fun x => x.lo % 256).getD 0
  | none => (s.byteAt k.fetchAddr).toNat

/-- R502: the command an engine has started and not completed; otherwise the last it completed, with IDLE. -/
def State.sampled (s : State) (k : Core) (eng : Nat) : SampCmd × Bool :=
  let ofCmd := fun (e : EngCmd) => (⟨e.idx, e.pass, e.routine, e.opc⟩ : SampCmd)
  let pick := fun (o : Option EngCmd) => match o with
    | some e => (ofCmd e, false)
    | none => (sget SampCmd.none k.pmu.last eng, true)
  if eng = 0 then pick (k.m.run.head?.map fun r => r.cmd)
  else if eng = 1 then pick k.v.run.head?
  else if eng = 2 then pick (k.t.run.head?.map fun r => r.cmd)
  else (⟨k.q.shownIndex, k.q.replayPass, (k.q.call.map fun c => c.routine).getD 0, s.namedOpc k⟩, false)

/-- R504: a sample record. -/
def sampleRecord (core : Nat) (x : Sample) (cmd : SampCmd) (idle : Bool) (ao step : Word64) (skid latency : Nat) : List Byte :=
  leBytes 8 ao.toNat ++ leBytes 8 step.toNat ++ leBytes 1 x.ev ++ leBytes 1 x.ctr
    ++ leBytes 1 (b2n x.precise + b2n idle <<< 1 + b2n (cmd.routine ≠ 0) <<< 2) ++ leBytes 1 core
    ++ leBytes 4 cmd.idx ++ leBytes 4 cmd.pass ++ leBytes 2 cmd.routine ++ leBytes 1 cmd.opc ++ leBytes 1 skid
    ++ leBytes 8 x.addr ++ leBytes 4 latency ++ leBytes 1 x.target ++ leBytes 19 0

/-- R505: a record is lost; the first of a job is recorded. -/
def State.sampleLost (s : State) (c : CoreId) : State :=
  let n := satAdd 16 (fld (s.core c).pmu.sampCtl.toNat 16 16) 1
  let s1 := s.modCore c fun k => { k with pmu.sampCtl := BitVec.ofNat 32 (setFld k.pmu.sampCtl.toNat 16 16 n) }
  if s.pmu.lostNoted then s1 else { s1 with pmu.lostNoted := true }.raise 0x0F02 .c c.val 0

/-- R505, R506: writes a record to a core's ring. -/
def State.writeSample (s : State) (c : CoreId) (bs : List Byte) : State :=
  let p := (s.core c).pmu
  let size := 2 ^ fld p.sampCtl.toNat 0 5
  if !p.sampCtl.getLsbD 5 && decide ((p.wptr - p.rptr).toNat = size) then s.sampleLost c
  else if !s.rangePop p.sampBase.toNat (64 * size) then s.raise 0x0F03 .c c.val 0
  else (s.agentWrite (p.sampBase.toNat + 64 * (p.wptr.toNat % size)) 0 bs).modCore c fun k => { k with pmu.wptr := k.pmu.wptr + 1 }

/-- Takes the oldest waiting sample of a kind from a core. -/
def State.takeSample (s : State) (c : CoreId) (precise : Bool) : Option (Sample × State) :=
  ((s.core c).pmu.waiting.find? fun x => x.precise == precise).map fun x =>
    (x, s.modCore c fun k => { k with pmu.waiting := k.pmu.waiting.erase x })

/-- SKID_SAMPLE (R502, R504, R505): `skid` + 1 clocks after its event a skid sample is captured and written. -/
def execSkidSample (core : CoreId) (skid : Fin 64) (s : State) : Answer :=
  if s.frozen then .next s
  else match s.takeSample core false with
    | none => .next s
    | some (x, s1) =>
      let k := s.core core
      let (cmd, idle) := s.sampled k (sampEngine x.ev (fld (k.pmu.sel x.ctr) 8 8))
      .next (afterSnoop s (s1.writeSample core (sampleRecord core.val x cmd idle s.pwr.aoTime s.stepNow (skid.val + 1) 0)))

/-- PRECISE_SAMPLE (R503 to R505): the access that completed a period completes and its record is written; LATENCY is
that of a read. -/
def execPreciseSample (core : CoreId) (latency : Word32) (s : State) : Answer :=
  match s.takeSample core true with
  | none => .next s
  | some (x, s1) =>
    .next (afterSnoop s (s1.writeSample core (sampleRecord core.val x x.cmd false x.ao x.step 0
      (if x.ev = 0x10 then latency.toNat else 0))))

/-- PMU_SAMPLE_LOST (R505): a waiting record has waited 4 µs. -/
def execPmuSampleLost (core : CoreId) (s : State) : Answer :=
  let k := s.core core
  match k.pmu.waiting with
  | [] => .next s
  | _ :: rest => .next ((s.setCore core { k with pmu.waiting := rest }).sampleLost core)

end Sys2Proof.Machine
end

