-- ==== Sys2Proof/Machine/Net.lean ====
section
/-! DEFINITION. How packets travel (R247, R261 to R276): their bytes, the queue, window and credits of a port, the
router's choice, drops, and the requests that wait for a response. Every block that sends a packet uses these. -/

namespace Sys2Proof.Machine

/-! Bytes -/

/-- One byte into a CRC-32C (polynomial 0x1EDC6F41, reflected as usual for CRC-32C). -/
def crcByte (c : Nat) (b : Byte) : Nat :=
  (List.range 8).foldl (fun x _ => if x % 2 = 1 then (x >>> 1) ^^^ 0x82F63B78 else x >>> 1) (c ^^^ b.toNat)

/-- CRC-32C of bytes (R261, R268). -/
def crc32c (bs : List Byte) : Nat := (bs.foldl crcByte 0xFFFFFFFF) ^^^ 0xFFFFFFFF

/-- R268: the header with given HOPS and LEVEL. -/
def Packet.header (p : Packet) (hops level : Nat) : List Byte :=
  leBytes 1 p.ptype ++ leBytes 1 hops ++ leBytes 2 (p.dst % 2 ^ 14 + p.vc <<< 14) ++ leBytes 2 (p.src % 2 ^ 14 + level <<< 14)
    ++ leBytes 2 (p.len % 2 ^ 13) ++ leBytes 4 (p.tag % 2 ^ 18) ++ leBytes 2 p.pkey ++ leBytes 2 p.sseq
    ++ leBytes 8 (p.addr % 2 ^ 52) ++ leBytes 8 p.aux

/-- R268: the end-to-end CRC, with HOPS and LEVEL taken as 0. -/
def Packet.ecrc (p : Packet) : Nat := crc32c (p.header 0 0 ++ p.payload)

/-- R268: the packet's bytes. -/
def Packet.bytes (p : Packet) : List Byte := p.header p.hops p.level ++ p.payload ++ leBytes 4 (p.crcBad.getD p.ecrc)

/-- R268, R269: bytes of payload a header announces; a RD_REQ carries none. -/
def payloadLen (ptype len : Nat) : Nat := if ptype = 0x03 then 0 else len

/-- The first whole packet of a received byte stream: the packet, whether its ECRC is good, and the rest. A zero byte
where a header would begin is fill (R262): the caller has dropped it. -/
def takeWire (bs : List Byte) : Option (Packet × Bool × List Byte) :=
  let num := fun o n => ofLE ((bs.drop o).take n)
  let ptype := num 0 1
  let len := num 6 2 % 2 ^ 13
  let n := payloadLen ptype len
  if bs.length < 36 + n then none
  else
    let p : Packet := ⟨ptype, num 1 1, num 2 2 % 2 ^ 14, num 2 2 >>> 14, num 4 2 % 2 ^ 14, num 4 2 >>> 14 % 2, len,
      num 8 4 % 2 ^ 18, num 12 2, num 14 2, num 16 8 % 2 ^ 52, num 24 8, (bs.drop 32).take n, none, none⟩
    let good := decide (num (32 + n) 4 = p.ecrc)
    some (if good then p else { p with crcBad := some (num (32 + n) 4) }, good, bs.drop (36 + n))

/-- R267: credit units a packet consumes. -/
def Packet.units (p : Packet) : Nat := (36 + p.len + 63) / 64

/-- R266: the buffer of a packet among the eight. -/
def Packet.buf (p : Packet) : Nat := 2 * (p.vc % 4) + p.level % 2

/-- R262: a packet's bytes in flit bodies of 250 bytes, the last one filled with zeros (assumption 17: every packet
begins a flit). -/
def flitBodies (bs : List Byte) : List (List Byte) :=
  (List.range ((bs.length + 249) / 250)).map fun i =>
    let b := (bs.drop (250 * i)).take 250
    b ++ List.replicate (250 - b.length) 0

/-! Ports -/

/-- A port. -/
def State.port (s : State) (p : Nat) : Port := sget Port.reset s.fab.ports p

/-- The state with a port replaced. -/
def State.setPort (s : State) (p : Nat) (x : Port) : State := { s with fab.ports := sset Port.reset s.fab.ports p x }

/-- R247: does the port exist: its engine is present, and a half-port's second half only under SPLIT? -/
def State.portPresent (s : State) (p : Nat) : Bool :=
  decide (p / 2 < s.ident.grade.engines) && (p % 2 = 0 || sget false s.fab.split (p / 2))

/-! Lanes -/

/-- R247: the fibres of a port. -/
def State.fibresOf (s : State) (p : Nat) : List Nat :=
  if sget false s.fab.split (p / 2) then [2 * (p % 2), 2 * (p % 2) + 1] else [0, 1, 2, 3]

/-- R247: the port of a fibre of an engine. -/
def State.portOfFibre (s : State) (e f : Nat) : Nat := if sget false s.fab.split e then 2 * e + f / 2 else 2 * e

/-- R243, R245, R259: the physical lane that carries the `i`-th logical lane of a fibre: its own wavelength, or the spare
that took over its stripe. -/
def State.carrier (s : State) (e f i : Nat) : Option Nat :=
  let dead := sget 0 s.fab.dead e
  if !bitAt dead (9 * f + i) then some (9 * f + i)
  else if sget 8 s.fab.spareFor (4 * e + f) = i && !bitAt dead (9 * f + 8) then some (9 * f + 8)
  else none

/-- R245, R259: the logical lanes a fibre can carry, each with its number on the fibre and its physical lane. -/
def State.fibreMap (s : State) (e f : Nat) : List (Nat × Nat) :=
  (List.range 8).filterMap fun i => (s.carrier e f i).map fun n => (i, n)

/-- R245: usable logical lanes of a fibre. -/
def State.fibreLanes (s : State) (e f : Nat) : Nat := (s.fibreMap e f).length

/-- R260: widths in descending order with the lanes used per fibre. -/
def widthTable (split : Bool) : List (Nat × Nat) := if split then [(16, 8), (8, 4)] else [(32, 8), (24, 6), (16, 4), (8, 2)]

/-- R260: the highest width that every fibre of a port can supply; 0 if none. -/
def State.usableWidth (s : State) (p : Nat) : Nat :=
  match (widthTable (sget false s.fab.split (p / 2))).find? fun w =>
      (s.fibresOf p).all fun f => decide (w.2 ≤ s.fibreLanes (p / 2) f) with
  | some w => w.1
  | none => 0

/-- R248, R260: the active logical lanes of a port at a width in ascending order, each with its physical lane; of a fibre
the lowest usable ones are active (assumption 73). -/
def State.laneMap (s : State) (p width : Nat) : List (Nat × Nat) :=
  let fs := s.fibresOf p
  fs.zipIdx.flatMap fun (f, k) => ((s.fibreMap (p / 2) f).take (width / fs.length)).map fun x => (8 * k + x.1, x.2)

/-- R248, R263: the lanes a port deals its units to now: its active ones, and before it is ACTIVE all it can use. -/
def State.lanesNow (s : State) (p : Nat) : List (Nat × Nat) :=
  s.laneMap p (if (s.port p).width = 0 then s.usableWidth p else (s.port p).width)

/-! Flits -/

/-- R261: the 256 bytes of a flit. -/
def flitBytes (ftype seq : Nat) (body : List Byte) : List Byte :=
  let h := leBytes 2 (ftype + seq <<< 3) ++ body
  h ++ leBytes 4 (crc32c h)

/-- R248: the physical lanes that the 32 units of a port's next flit are dealt to. -/
def State.unitLanes (s : State) (p : Nat) : List Nat :=
  let ls := (s.lanesNow p).map Prod.snd
  (List.range 32).map fun i => ls.getD (((s.port p).txUnit + i) % ls.length) 0

/-- R248, R261: a port sends a flit. -/
def State.putFlit (s : State) (p ftype seq : Nat) (msg : Option LinkMsg) (body : List Byte) : State :=
  let x := s.port p
  (s.setPort p { x with txUnit := (x.txUnit + 32) % 96 }).emit (.flit p (s.unitLanes p) msg (flitBytes ftype seq body))

/-- R263: the 16 bytes of a link-management message; none are zeros. -/
def LinkMsg.bytes : Option LinkMsg → List Byte
  | none => List.replicate 16 0
  | some m =>
    let (kind, xs) := match m with
      | .identity d k p s w ls => (1, d :: k :: p :: b2n s :: w :: ls)
      | .spareRequest l => (2, [l])
      | .spareAck l => (3, [l])
      | .width w => (4, [w])
      | .quiesce => (5, [])
    (List.range 16).map fun i => BitVec.ofNat 8 (Config.linkMessage kind xs i)

/-- R263, R264: the lane markers of a control flit, each byte that of the lane it is dealt to. -/
def State.markers (s : State) (p : Nat) : List Byte :=
  let ls := s.lanesNow p
  (List.range 188).map fun i =>
    let (l, n) := ls.getD (((s.port p).txUnit + (64 + i) / 8) % ls.length) (0, 0)
    BitVec.ofNat 8 (Config.laneMarker l (n / 9) (n % 9) (i % 8))

/-- R263, R267: the body of a control flit: acknowledgement, freed credits, message and lane markers. -/
def State.ctrlBody (s : State) (p : Nat) (nak : Bool) (msg : Option LinkMsg) : List Byte :=
  let x := s.port p
  leBytes 2 ((x.rxNext + 8191) % 8192 + b2n x.rxAny <<< 13 + b2n nak <<< 14)
    ++ ((List.range 8).flatMap fun b => leBytes 2 (x.rxDedFreed.getD b 0)) ++ leBytes 4 x.rxPoolFreed
    ++ LinkMsg.bytes msg ++ List.replicate 24 0 ++ s.markers p

/-- R261, R263: a port sends a control flit in a slot no DATA flit takes (assumption 73). -/
def State.putCtrl (s : State) (p : Nat) (nak : Bool) (msg : Option LinkMsg) : State :=
  s.putFlit p 2 0 msg (s.ctrlBody p nak msg)

/-- R267: a packet leaves a receive buffer of its port: its units are freed, as they were taken. -/
def freeRx (x : Port) (b units : Nat) : Port :=
  let d := min units (x.rxDed.getD b 0)
  { x with
    rxDed := x.rxDed.set b (x.rxDed.getD b 0 - d)
    rxDedFreed := x.rxDedFreed.set b ((x.rxDedFreed.getD b 0 + d) % 2 ^ 16)
    rxPoolFreed := (x.rxPoolFreed + (units - d)) % 2 ^ 32 }

/-- R263, R267: frees a packet's units in a receive buffer and reports the counters. -/
def State.freeAt (s : State) (p b units : Nat) : State :=
  let t := s.setPort p (freeRx (s.port p) b units)
  if (s.port p).state = 4 then t.putCtrl p false none else t

/-- R256, R267: the receive buffer that a forwarded packet still holds is freed. -/
def State.freeHeld (s : State) (q : Packet) : State :=
  match q.held with
  | some (p, b) => s.freeAt p b q.units
  | none => s

/-! Ports at work -/

/-- R275: may the router assign packets to the port: ACTIVE and not quiesced? -/
def Port.usable (x : Port) : Bool := x.state = 4 && x.en && !x.quiesce

/-- R267: unspent dedicated and pool credit. -/
def Port.dedFree (x : Port) (b : Nat) : Nat := 512 - (x.dedSpent.getD b 0 + 2 ^ 16 - x.dedFreed.getD b 0) % 2 ^ 16
def Port.poolFree (x : Port) : Nat := 28672 - (x.poolSpent + 2 ^ 32 - x.poolFreed) % 2 ^ 32

/-- R265, R267: may the port send this packet now? -/
def Port.maySend (x : Port) (p : Packet) : Bool :=
  x.state = 4 && decide (p.units ≤ x.dedFree p.buf + x.poolFree)
    && decide (x.unacked.length + (flitBodies p.bytes).length ≤ 4096)

/-- R265, R267: the port after sending a packet, and the flits it sends: dedicated credit is spent first. -/
def Port.send (x : Port) (p : Packet) : Port × List (Nat × List Byte) :=
  let bodies := flitBodies p.bytes
  let fl := bodies.zipIdx.map fun (b, i) => ((x.txNext + i) % 8192, b)
  let d := min p.units (x.dedFree p.buf)
  ({ x with
      txNext := (x.txNext + bodies.length) % 8192
      unacked := x.unacked ++ fl
      dedSpent := x.dedSpent.set p.buf ((x.dedSpent.getD p.buf 0 + d) % 2 ^ 16)
      poolSpent := (x.poolSpent + (p.units - d)) % 2 ^ 32 }, fl)

/-- The next queued packet a port may send: the oldest of its buffer (packets of different buffers never block one
another, R266). -/
def Port.nextSend (x : Port) : Option Packet :=
  x.queue.find? fun q => x.maySend q && decide ((x.queue.find? fun r => r.buf = q.buf) = some q)

/-- R494: a UMASK that selects a port, or all of them. -/
def portBit (p u : Nat) : Bool := bitAt u 4 || fld u 0 4 = p

/-- Sends queued packets of a port while window and credit allow, at most `fuel` of them. -/
def pumpN (p : Nat) : Nat → State → State
  | 0, s => s
  | n + 1, s =>
    let x := s.port p
    match x.nextSend with
    | none => s
    | some q =>
      let (y, fl) := ({ x with queue := x.queue.erase q }).send q
      pumpN p n ((fl.foldl (fun t f => t.putFlit p 0 f.1 none f.2) ((s.setPort p y).countHub 6 (portBit p) fl.length)).freeHeld q)

/-- Sends what the port can send. -/
def State.pump (s : State) (p : Nat) : State := pumpN p (s.port p).queue.length s

/-- A packet assigned to a port joins its queue. -/
def State.assign (s : State) (p : Nat) (q : Packet) : State :=
  (s.setPort p { s.port p with queue := (s.port p).queue ++ [q] }).pump p

/-! Routing -/

/-- The reasons of FAB_DROP_COUNT (R276, R280). -/
inductive DropKind where
  | routeMiss | ttl | ecrc | other
  deriving DecidableEq, Repr

/-- R276: drops a packet: its counter, and FAB_PKT_DROP with SRC, DST and PTYPE. -/
def State.drop (s : State) (k : DropKind) (p : Packet) : State :=
  let s1 := match k with
    | .routeMiss => { s with fab.dropRoute := satAdd 16 s.fab.dropRoute 1 }
    | .ttl => { s with fab.dropTtl := satAdd 16 s.fab.dropTtl 1 }
    | .ecrc => { s with fab.dropEcrc := satAdd 16 s.fab.dropEcrc 1 }
    | .other => { s with fab.dropOther := satAdd 16 s.fab.dropOther 1 }
  s1.raise 0x0808 .c 0x7F (devPayload p.src 0 0 + p.dst <<< 96 + p.ptype <<< 112)

/-- R275: the output a route entry gives: port and whether its dateline bit is set. -/
def State.routeOf (s : State) (dst : Nat) : Option (Nat × Bool) :=
  let e := (sget 0 s.fab.routes dst).toNat
  let pri := fld e 1 4
  let alt := fld e 6 4
  let hasPri := bitAt e 0
  let hasAlt := bitAt e 5
  if hasPri && (s.port pri).usable then some (pri, bitAt e 10)
  else if hasAlt && (s.port alt).usable then some (alt, bitAt e 11)
  else if hasPri && (s.port pri).state = 5 then some (pri, bitAt e 10)
  else if hasAlt && (s.port alt).state = 5 then some (alt, bitAt e 11)
  else none

/-- R275, R266: sends a packet toward its destination, moving it to level 1 at a dateline. -/
def State.routeOut (s : State) (p : Packet) : State :=
  match s.routeOf p.dst with
  | none => (s.freeHeld p).drop .routeMiss p
  | some (o, dl) => s.assign o { p with level := if dl then 1 else p.level }

/-- R276: the initial HOPS. -/
def State.initialHops (s : State) : Nat := if s.fab.maxHops = 0 then 1 else s.fab.maxHops

/-- A packet this device originates (R268, R271, R276); one for this very device is delivered to the hub's agents. -/
def State.sendPacket (s : State) (p : Packet) : State :=
  let q := { p with src := s.fab.devid, pkey := s.fab.pkey, hops := s.initialHops, level := 0, crcBad := none, held := none }
  if q.dst = s.fab.devid then { s with fab.inbox := s.fab.inbox ++ [(0x7F, q)] } else s.routeOut q

/-- R269, R293, R357: the channel of a packet type; none for a type the device does not know. -/
def vcOf (ptype : Nat) : Option Nat :=
  if 0x01 ≤ ptype ∧ ptype ≤ 0x03 then some 0
  else if ptype = 0x07 then some 0
  else if 0x04 ≤ ptype ∧ ptype ≤ 0x06 then some 1
  else if ptype = 0x08 ∨ ptype = 0x31 then some 1
  else if (0x10 ≤ ptype ∧ ptype ≤ 0x19) ∨ (0x20 ≤ ptype ∧ ptype ≤ 0x27) then some 2
  else if ptype = 0x30 then some 3
  else none

/-- A packet of a type with the given fields, ready to send. -/
def mkPacket (ptype dst len tag addr aux : Nat) (payload : List Byte) : Packet :=
  ⟨ptype, 0, dst, (vcOf ptype).getD 0, 0, 0, len, tag, 0, 0, addr, aux, payload, none, none⟩

/-- R268, R269: the answer to a request: it carries the request's TAG, and a SIGNAL_ACK its SSEQ. -/
def State.respond (s : State) (req : Packet) (ptype aux : Nat) (payload : List Byte) : State :=
  s.sendPacket { mkPacket ptype req.src payload.length req.tag req.addr aux payload with
    sseq := if ptype = 0x08 then req.sseq else 0 }

/-! Streams of the CLE -/

/-- R288, R293: the stream of a packet of the CLE: which kind, and its key. -/
def Packet.flow (p : Packet) : Nat × Nat × Nat :=
  if p.ptype ≤ 0x11 then (0, p.addr, fld p.aux 34 1)
  else if p.ptype = 0x14 ∨ p.ptype = 0x15 then (1, p.addr, 0)
  else if 0x16 ≤ p.ptype ∧ p.ptype ≤ 0x18 then (2, p.addr, 0)
  else (3, p.addr, p.dst)

/-- R256, R288: can a packet be handed to its port now: does none of its buffer wait there? -/
def State.portFree (s : State) (p : Packet) : Bool :=
  p.dst = s.fab.devid || match s.routeOf p.dst with
    | none => true
    | some (o, dl) => !(s.port o).queue.any fun r => r.buf = 2 * (p.vc % 4) + b2n dl

/-- The first stream in the rotation whose next packet can be handed over: the packet, and the rotation after it. -/
def nextInTurn (f : Packet → Bool) : List (List Packet) → List (List Packet) → Option (Packet × List (List Packet))
  | _, [] => none
  | before, [] :: rest => nextInTurn f before rest
  | before, (p :: ps) :: rest =>
    if f p then some (p, before ++ rest ++ (if ps.isEmpty then [] else [ps])) else nextInTurn f (before ++ [p :: ps]) rest

/-- R288: one packet of each ready stream in rotation, at most `fuel` of them. -/
def feedN : Nat → State → State
  | 0, s => s
  | n + 1, s => match nextInTurn s.portFree [] s.fab.streamQ with
    | none => s
    | some (p, q) => feedN n ({ s with fab.streamQ := q }.sendPacket p)

/-- R288: the ready streams send what their ports take. -/
def State.feed (s : State) : State := feedN (s.fab.streamQ.flatten.length) s

/-- Packets appended to their streams in a rotation; a new stream comes last. -/
def joinFlow (p : Packet) : List (List Packet) → List (List Packet)
  | [] => [[p]]
  | x :: xs => if x.head?.any fun y => y.flow = p.flow then (x ++ [p]) :: xs else x :: joinFlow p xs

/-- R288: packets of streams are ready to be sent. -/
def State.sendAll (s : State) (ps : List Packet) : State :=
  { s with fab.streamQ := ps.foldl (fun q p => joinFlow p q) s.fab.streamQ }.feed

/-- What a stream has not yet handed over leaves the rotation. -/
def State.dropFlow (s : State) (f : Nat × Nat × Nat) : State :=
  { s with fab.streamQ := s.fab.streamQ.filter fun x => !(x.head?.any fun y => y.flow = f) }

/-! Receiving -/

/-- Takes the oldest arrived packet that satisfies a test out of the inbox. -/
def State.takeInbox (s : State) (f : Packet → Bool) : Option (Packet × State) :=
  match s.fab.inbox.find? fun x => f x.2 with
  | none => none
  | some x =>
    let s1 := { s with fab.inbox := s.fab.inbox.erase x }
    some (x.2, if s.fab.ports.isEmpty || x.1 = 0x7F then s1 else s1.freeAt x.1 x.2.buf x.2.units)

/-- R256, R267, R275: the oldest packet for another device, which holds its receive buffer until it is sent on. -/
def State.takeForward (s : State) : Option (Packet × State) :=
  (s.fab.inbox.find? fun x => x.2.dst ≠ s.fab.devid).map fun x =>
    ({ x.2 with held := if x.1 = 0x7F then none else some (x.1, x.2.buf) }, { s with fab.inbox := s.fab.inbox.erase x })

/-- The oldest packet of a type that arrived for this device. -/
def State.takeType (s : State) (ptype : Nat) : Option (Packet × State) :=
  s.takeInbox fun p => p.ptype = ptype && p.dst = s.fab.devid

/-! Requests -/

/-- Does an agent of the hub, not a core, hold the request's tag (R379)? -/
def Request.ofHub (r : Request) : Bool :=
  match r.owner with
  | .restore _ _ => true
  | .mover _ _ | .signal _ _ | .reshard | .ckpt => false

/-- R219, R273: a tag of a core's partition that no outstanding request of the core holds. What the hub asks for itself
takes none of them. -/
def State.freeTag (s : State) (c : CoreId) : Option Nat :=
  (List.range 4096).find? fun n => !(s.fab.reqs.any fun r => !r.ofHub && r.pkt.tag = c.val * 4096 + n)

/-- R219, R223: tags of a core in use. -/
def State.tagsOf (s : State) (c : Nat) : Nat := (s.fab.reqs.filter fun r => !r.ofHub && r.pkt.tag / 4096 = c).length

/-- The highest tag no outstanding request holds: for what the hub asks for itself (assumption 69). -/
def State.hubTag (s : State) : Option Nat := findDown (fun t => !(s.fab.reqs.any fun r => r.pkt.tag = t)) (2 ^ 18 - 1)

/-- Sends a request and keeps it until its response arrives. -/
def State.request (s : State) (p : Packet) (o : ReqOwner) : State :=
  let t := s.sendPacket p
  { t with fab.reqs := t.fab.reqs ++ [⟨p, o, 0⟩] }

/-- The outstanding request a response answers, and the state without it (R273: a response to none is discarded). -/
def State.takeReq (s : State) (p : Packet) : Option (Request × State) :=
  match s.fab.reqs.find? fun r => r.pkt.tag = p.tag && r.pkt.dst = p.src with
  | none => none
  | some r => some (r, { s with fab.reqs := s.fab.reqs.erase r })

end Sys2Proof.Machine
end

