-- ==== Sys2Proof/Machine/Operands.lean ====
section
/-! DEFINITION. Operand forms: the fields of a command word (R63 to R65), tile handles and their regions (R67, R68,
R74), the operand cache with its swizzle (R157) and ECC marks (R159), tiles read and written element by element (R35,
R36, R138), accumulator tiles (R119), and the counter generator (R171). -/

namespace Sys2Proof.Machine

/-! The command word -/

def wOpc (lo : Nat) : Nat := fld lo 0 8
def wRnd (lo : Nat) : Nat := fld lo 8 2
def wFtz (lo : Nat) : Bool := bitAt lo 10
def wE4m3Ovf (lo : Nat) : Bool := bitAt lo 11
def wCsig (lo : Nat) : Bool := bitAt lo 12
def wCflagIdx (lo : Nat) : Nat := fld lo 13 10
def wCflagHub (lo : Nat) : Bool := bitAt lo 23
def wQs0 (lo : Nat) : Nat := fld lo 24 6
def wQs1 (lo : Nat) : Nat := fld lo 30 6
def wQd (lo : Nat) : Nat := fld lo 36 6
def wQo (lo : Nat) : Nat := fld lo 42 6
def wQr (lo : Nat) : Nat := fld lo 48 6
/-- QEN, in bit order QS0, QS1, QD, QO, QR. -/
def wQen (lo i : Nat) : Bool := bitAt lo (54 + i)
def wPmode (lo : Nat) : Nat := fld lo 59 2
/-- R65: PIDX of opcodes 0x04 to 0x06. -/
def wPidx (lo : Nat) : Nat := fld lo 24 8

/-- The conversion controls a command word names (R43, R47, R48). -/
def wConv (lo : Nat) : ConvCtl := ⟨(rndOfCode (wRnd lo)).getD .rne, wFtz lo, wE4m3Ovf lo⟩

/-! Tile handles -/

/-- R67: the fields of a tile handle, with rows and columns counted from one. -/
structure Tile where
  base : Nat
  acc : Bool
  swz : Nat
  fcode : Nat
  rows : Nat
  cols : Nat
  strideF : Nat
  deriving DecidableEq, Repr

/-- R67: reads a handle. -/
def tileOf (h : Nat) : Tile :=
  ⟨fld h 0 17, bitAt h 17, fld h 18 2, fld h 20 4, fld h 24 14 + 1, fld h 38 14 + 1, fld h 52 12⟩

/-- The tile's element format; a reserved code (refused by R68) reads as FP32. -/
def Tile.fmt (t : Tile) : Fmt := (fmtOfCode t.fcode).getD .fp32

/-- Elements of a tile. -/
def Tile.count (t : Tile) : Nat := t.rows * t.cols

/-- First row of an accumulator tile, and its array (R67). -/
def Tile.accRow (t : Tile) : Nat := t.base % 1024
def Tile.arr (t : Tile) : Nat := fld t.base 10 2

/-- Bytes of a block of 32 elements without its plane byte (R35, R39). -/
def Fmt.blockBytes (f : Fmt) : Nat := 4 * f.elemBits

/-- Bytes of `n` elements along a row (R35, R36: blocks are whole). -/
def rowBytes (f : Fmt) (n : Nat) : Nat :=
  if f.isBlock then (n + 31) / 32 * f.blockBytes else n * (f.elemBits / 8)

/-- R67: the packed stride in lines. -/
def Tile.packed (t : Tile) : Nat := (rowBytes t.fmt t.cols + 63) / 64

/-- The row stride in lines. -/
def Tile.stride (t : Tile) : Nat := if t.strideF = 0 then t.packed else t.strideF

/-- Lines of one row of the scale or exponent plane (R35). -/
def Tile.planeLines (t : Tile) : Nat := ((t.cols + 31) / 32 + 63) / 64

/-- Lines from a cache tile's base to its end, plane included (R68, R74). -/
def Tile.lines (t : Tile) : Nat :=
  if t.fmt.isBlock then t.rows * t.stride + t.rows * t.planeLines
  else (t.rows - 1) * t.stride + t.packed

/-- R68: HANDLE_INVALID. -/
def handleInvalid (h : Nat) : Bool :=
  let t := tileOf h
  (fmtOfCode t.fcode).isNone
  || (t.acc && (t.swz != 0 || t.fcode != 11 || decide (127 < t.cols - 1) || fld t.base 12 5 != 0))
  || (t.strideF != 0 && decide (t.strideF < t.packed))

/-- R68: HANDLE_RANGE, for `planes` copies of the tile one after another (R112: complex tiles have two). -/
def handleRange (h planes : Nat) : Bool :=
  let t := tileOf h
  if t.acc then decide (1024 < t.accRow + t.rows) else decide (131072 < t.base + planes * t.lines)

/-- R74: the scoreboard region of a tile. -/
def regionOf (h planes : Nat) (write : Bool) : Region :=
  let t := tileOf h
  if t.acc then ⟨true, t.arr, t.accRow, t.accRow + t.rows, write⟩
  else
    let lo := t.base * 64
    let hi := (t.base + planes * t.lines) * 64
    if t.swz = 0 then ⟨false, 0, lo, hi, write⟩
    else ⟨false, 0, lo / 4096 * 4096, (hi + 4095) / 4096 * 4096, write⟩

/-- A region of whole lines without swizzle. -/
def lineRegion (line n : Nat) (write : Bool) : Region := ⟨false, 0, line * 64, (line + n) * 64, write⟩

/-- Do two regions overlap? -/
def Region.overlaps (a b : Region) : Bool :=
  a.acc == b.acc && (!a.acc || a.arr == b.arr) && decide (a.lo < b.hi) && decide (b.lo < a.hi)

/-- R75: do two regions conflict: they overlap and one is a write? -/
def Region.conflicts (a b : Region) : Bool := a.overlaps b && (a.write || b.write)

/-! The operand cache -/

/-- R157: the physical byte address of an operand-cache address under a swizzle mode. -/
def swizzle (m a : Nat) : Nat :=
  let z := if m = 0 then 0 else fld a (11 + m) 6
  (a >>> 12) <<< 12 + ((fld a 6 6) ^^^ z) <<< 6 + a % 64

/-- A byte of the cache at a physical address. -/
def Core.ocByte (k : Core) (p : Nat) : Byte := sget 0 k.v.oc p

/-- `n` bytes from a cache address under a swizzle mode. -/
def Core.ocRead (k : Core) (m a n : Nat) : List Byte := (List.range n).map fun i => k.ocByte (swizzle m (a + i))

/-- Does a read of these bytes meet an uncorrectable word (R159)? -/
def Core.ocBadIn (k : Core) (m a n : Nat) : Bool :=
  (List.range n).any fun i => sget false k.v.ocBad (swizzle m (a + i) / 8)

/-- Writes bytes at a cache address under a swizzle mode; a word written whole loses its uncorrectable mark. -/
def Core.ocWrite (k : Core) (m a : Nat) (bs : List Byte) : Core :=
  let n := bs.length
  { k with
    v.oc := bs.zipIdx.foldl (fun mm p => sset 0 mm (swizzle m (a + p.2)) p.1) k.v.oc
    v.ocBad := (List.range n).foldl (fun mm i =>
      if (a + i) % 8 = 0 && decide (i + 8 ≤ n) then sset false mm (swizzle m (a + i) / 8) false else mm) k.v.ocBad }

/-! Reading tiles -/

/-- Cache address of a row. -/
def Tile.rowAddr (t : Tile) (r : Nat) : Nat := (t.base + r * t.stride) * 64

/-- Cache address of a plane byte: block `b` of row `r` (R35). -/
def Tile.planeAddr (t : Tile) (r b : Nat) : Nat := (t.base + t.rows * t.stride + r * t.planeLines) * 64 + b

/-- One accumulator row. -/
def Core.accRow (k : Core) (arr row : Nat) : AccRow := sget k.m.accDefault k.m.acc (arr * 1024 + row)

/-- Replaces an accumulator row. -/
def Core.setAccRow (k : Core) (arr row : Nat) (x : AccRow) : Core :=
  { k with m.acc := sset k.m.accDefault k.m.acc (arr * 1024 + row) x }

/-- R159: an ECC error in a word of the operand cache: a single one is corrected, a double one leaves the word
uncorrectable; both are counted and recorded, and a double one sets HW_ERR. -/
def State.ocEccHit (s : State) (c : CoreId) (e : EngCmd) (h : EccHit) : State :=
  if h.double then
    ((s.modCore c fun k => { k with
        v.ocBad := sset false k.v.ocBad h.word true
        v.ocEccUncorr := satAdd 16 k.v.ocEccUncorr 1 }).cmdNote c 0x0682 .d e noPos).setHealth 3
  else
    (s.modCore c fun k => { k with v.ocEccCorr := satAdd 16 k.v.ocEccCorr 1 }).cmdNote c 0x0681 .c e noPos

/-- R132: an ECC error in an accumulator word that a command of another engine reads: a double one makes the word read as
the canonical NaN until it is written again. -/
def State.accEccHit (s : State) (c : CoreId) (e : EngCmd) (h : EccHit) : State :=
  let n := h.word / 128
  if h.double then
    ((s.modCore c fun k =>
        let r := k.accRow (n / 1024) (n % 1024)
        { k.setAccRow (n / 1024) (n % 1024) { r with vals := sset 0 r.vals (h.word % 128) 0x7FF000000000 } with
          m.accEccUncorr := satAdd 16 k.m.accEccUncorr 1 }).rowNote c 0x0409 .d e (n / 1024) (n % 1024)).setHealth 3
  else
    (s.modCore c fun k => { k with m.accEccCorr := satAdd 16 k.m.accEccCorr 1 }).rowNote c 0x0408 .c e (n / 1024) (n % 1024)

/-- R132, R159: the ECC errors found in words a command reads. -/
def State.ocEcc (s : State) (c : CoreId) (e : EngCmd) (hits : List EccHit) : State :=
  hits.foldl (fun t h => if h.acc then t.accEccHit c e h else t.ocEccHit c e h) s

/-- The raw code of an element, as `elemBits` bits (R35: 4- and 6-bit elements are packed densely). -/
def Core.elemCode (k : Core) (t : Tile) (r c : Nat) : Nat :=
  if t.acc then ((sget (0 : BitVec 48) (k.accRow t.arr (t.accRow + r)).vals c)).toNat
  else
    let w := t.fmt.elemBits
    let bit := c * w
    let x := ofLE (k.ocRead t.swz (t.rowAddr r + bit / 8) ((bit % 8 + w + 7) / 8))
    fld x (bit % 8) w

/-- Does the element touch an uncorrectable word? For a block format the whole block and its plane byte count. -/
def Core.elemBad (k : Core) (t : Tile) (r c : Nat) : Bool :=
  if t.acc then false
  else if t.fmt.isBlock then
    k.ocBadIn t.swz (t.rowAddr r + c / 32 * t.fmt.blockBytes) t.fmt.blockBytes
      || k.ocBadIn t.swz (t.planeAddr r (c / 32)) 1
  else k.ocBadIn t.swz (t.rowAddr r + c * (t.fmt.elemBits / 8)) (t.fmt.elemBits / 8)

/-- The plane byte of an element's block. -/
def Core.planeByte (k : Core) (t : Tile) (r c : Nat) : Nat :=
  (k.ocByte (swizzle t.swz (t.planeAddr r (c / 32)))).toNat

/-- The value of one element as an engine reads it (R38, R39, R48, R49, R159). -/
def Core.elem (k : Core) (t : Tile) (ftz : Bool) (r c : Nat) : Num × Fl :=
  let f := t.fmt
  if k.elemBad t r c then
    (if f = .int8 || f = .int32 then (numZero, flIntNan) else (.nan, flNanIn))
  else
    let x := k.elemCode t r c
    if f.isMx then
      let v := mxValue f (k.planeByte t r c) x
      (v, if v.isNan then flNanIn else 0)
    else if f = .bsi16 then
      let v := bsiValue (k.planeByte t r c) (sext 16 x)
      (v, if v.isNan then flNanIn else 0)
    else ofFmt f ftz x

/-- The values of one row. -/
def Core.rowVals (k : Core) (t : Tile) (ftz : Bool) (r : Nat) : List (Num × Fl) :=
  (List.range t.cols).map (k.elem t ftz r)

/-- The second plane of a complex operand (R112): the same layout after the first one. -/
def Tile.imag (t : Tile) : Tile := { t with base := t.base + t.lines }

/-! Writing tiles -/

/-- R119: writes columns of an accumulator row by VCE or TMV: the row becomes WRITTEN and not CHECKABLE. -/
def Core.accWrite (k : Core) (arr row c0 : Nat) (xs : List (BitVec 48)) : Core :=
  let a := k.accRow arr row
  k.setAccRow arr row { a with vals := ssetList 0 a.vals c0 xs, checkable := false, written := true }

/-- Codes of equal width packed into bytes. -/
def packCodes (w : Nat) (cs : List Nat) : List Byte :=
  leBytes ((cs.length * w + 7) / 8) (cs.foldr (fun c acc => c % 2 ^ w + acc <<< w) 0)

/-- Writes element codes from column `c0` of a row, for the formats that are not held in blocks. -/
def Core.writeCodes (k : Core) (t : Tile) (r c0 : Nat) (cs : List Nat) : Core :=
  if t.acc then k.accWrite t.arr (t.accRow + r) c0 (cs.map (BitVec.ofNat 48))
  else k.ocWrite t.swz (t.rowAddr r + c0 * (t.fmt.elemBits / 8)) (packCodes t.fmt.elemBits cs)

/-- R36: writes one whole block with its plane byte. -/
def Core.writeBlock (k : Core) (t : Tile) (r b : Nat) (plane : Nat) (codes : List Nat) : Core :=
  (k.ocWrite t.swz (t.rowAddr r + b * t.fmt.blockBytes) (packCodes t.fmt.elemBits codes)).ocWrite t.swz
    (t.planeAddr r b) [BitVec.ofNat 8 plane]

/-- 32 values of a block, the missing ones of a partial last block as +0 (R36). -/
def blockVals (xs : List Num) (b : Nat) : List Num :=
  (List.range 32).map fun j => xs.getD (32 * b + j) numZero

/-- One block of a row formed and written (R36, R37, R537). `rnd` gives the random integer of an element's position. -/
def Core.storeBlock (k : Core) (t : Tile) (cv : ConvCtl) (rnd : Nat → Nat) (r b : Nat) (xs : List Num) : Core × Fl :=
  let ys := blockVals xs b
  if t.fmt = .bsi16 then
    let (e, ms, sat) := bsiForm ys
    (k.writeBlock t r b e (ms.map (wrapInt 16)), if sat then flBsiSat else 0)
  else
    let (sc, cs, fl) := mxForm t.fmt cv.rnd ((List.range 32).map fun j => rnd (r * t.cols + 32 * b + j)) ys
    (k.writeBlock t r b sc cs, fl)

/-- Converts a row of values into a tile's format and writes it (R36, R47, R138). -/
def Core.storeRow (k : Core) (t : Tile) (cv : ConvCtl) (rnd : Nat → Nat) (r : Nat) (xs : List Num) : Core × Fl :=
  if t.fmt.isBlock then
    (List.range ((t.cols + 31) / 32)).foldl (fun p b =>
      let (k', f) := p.1.storeBlock t cv rnd r b xs
      (k', p.2 ||| f)) (k, 0)
  else
    let ys := xs.zipIdx.map fun (x, i) => toFmt t.fmt cv (rnd (r * t.cols + i)) x
    (k.writeCodes t r 0 (ys.map Prod.fst), flAll ys)

/-! The counter generator -/

/-- Rotation of a 64-bit number left. -/
def rotl64 (x n : Nat) : Nat := ((x <<< n) ||| (x >>> (64 - n))) % 2 ^ 64

/-- One round of R171. -/
def ctrgRound (p : Nat × Nat) : Nat × Nat :=
  let x := ((p.1 ^^^ (p.1 >>> 31)) * 0xA3B19C4D2E6F0857) % 2 ^ 64
  let y := ((p.2 ^^^ (p.2 >>> 29)) * 0xC5E27F9314AB6D3B) % 2 ^ 64
  let x' := x ^^^ rotl64 y 17
  (x', (y + x') % 2 ^ 64)

/-- R171: CTRG. -/
def ctrg (s c0 c1 : Nat) : Nat :=
  (ctrgRound (ctrgRound (ctrgRound (ctrgRound (c0 ^^^ s, c1 ^^^ rotl64 s 32))))).1

/-- R171: the draw of a command at a position on a stream. -/
def draw (seed stream ord idx pass pos : Nat) : Nat :=
  ctrg seed (pos % 2 ^ 32 + stream <<< 32 + (ord % 2 ^ 16) <<< 40) (idx % 2 ^ 32 + (pass % 2 ^ 32) <<< 32)

/-- R45, R171: the 16-bit stochastic-rounding integer of a command at an output position. -/
def Core.srInt (k : Core) (e : EngCmd) (pos : Nat) : Nat := draw k.v.seed.toNat 0 e.ord e.idx e.pass pos >>> 48

/-- R172: the step seed of a core. -/
def stepSeed (b : Word64) (c k : Nat) : Word64 := BitVec.ofNat 64 (ctrg b.toNat (c + 0xFF <<< 32) k)

end Sys2Proof.Machine
end

