-- ==== Sys2Proof/Machine/CleNum.lean ====
section
/-! DEFINITION. The exchange's block arithmetic and wire formats (10_gradient_exchange.md, R289 to R297): contributions,
exact sums with rescaling, checksums, packets of blocks and census records. -/

namespace Sys2Proof.Machine

/-! Shards of a bucket -/

/-- R283: S, the blocks of a full shard. -/
def Bucket.span (b : Bucket) : Nat := (b.nblk + b.g - 1) / b.g

/-- R283: first block of a shard. -/
def Bucket.first (b : Bucket) (j : Nat) : Nat := j * b.span

/-- R283: blocks of a shard; 0 for an empty one. -/
def Bucket.len (b : Bucket) (j : Nat) : Nat := min ((j + 1) * b.span) b.nblk - b.first j

/-- The shards that hold blocks. -/
def Bucket.shards (b : Bucket) : List Nat := (List.range b.g).filter fun j => decide (0 < b.len j)

/-- Device at a ring position. -/
def Bucket.dev (b : Bucket) (p : Nat) : Nat := (b.ring.getD p (0, 0)).1

/-- Ring position of a device. -/
def Bucket.pos (b : Bucket) (dev : Nat) : Nat := b.ring.findIdx fun r => r.1 = dev

/-! Blocks -/

/-- A value times 2^k rounded half to even to an integer (R289). -/
def rneInt (k : Int) : Num → Int
  | .fin neg m e =>
    let t : Int := quantMag .rne 0 m (e + k) 0
    if neg then -t else t
  | _ => 0

/-- p ÷ 2^k rounded half to even (R290). -/
def rneShift (p : Int) (k : Nat) : Int :=
  let t : Int := roundShift .rne 0 p.natAbs k
  if p < 0 then -t else t

/-- R289: a value's integer at an exponent. -/
def laneOf (E : Nat) (v : Num) : Int := rneInt (142 - E) v

/-- The largest magnitude among lanes. -/
def maxLane (xs : List Int) : Nat := xs.foldl (fun m x => max m x.natAbs) 0

/-- R289: an empty block at an agreed exponent, as its originator starts it. -/
def WBlk.zero (E : Nat) (bf16 : Bool) : WBlk :=
  ⟨E, List.replicate 32 0, if bf16 then some (List.replicate 32 0) else none, 0⟩

/-- R301, R293: a block that is not finite: E = 0xFF and all lanes 0. -/
def WBlk.nonfinite (b : WBlk) : WBlk := ⟨0xFF, List.replicate 32 0, b.fp.map fun _ => List.replicate 32 0, b.cnt⟩

/-- What a hop makes of one block (R289 to R291, R296): the block that leaves, what it adds to CK and DSA, rescale
records, whether the limit of R290 was met, whether an FP32 sum formed NaN from finite inputs, and the dequantised
values for the residuals of R298 (none where the block left non-finite). -/
structure HopOut where
  blk : WBlk
  ck : Int
  dsa : Int
  nrec : Nat
  ovr : Bool
  inval : Bool
  vhat : Option (List Num)
  deriving DecidableEq, Repr

/-- R290: the lanes after a rescale by k. -/
def rescaled (ps : List Int) (vs : List Num) (E k : Nat) : List Int :=
  (ps.zip vs).map fun (p, v) => rneShift p k + laneOf (E + k) v

/-- R290: the smallest rescale that brings every lane within 2^29 − 1, if the limits on the exponent allow one. -/
def rescaleBy (ps : List Int) (vs : List Num) (E E0 : Nat) : Option Nat :=
  (((List.range 65).drop 1).filter fun k => decide (E + k ≤ 0xFE) && decide (E + k ≤ E0 + 64)).find?
    fun k => decide (maxLane (rescaled ps vs E k) ≤ 2 ^ 29 - 1)

/-- R289 to R291, R296: a hop adds its values to a block whose agreed exponent is `E0`. Under `bad` its contribution is
not finite and the policy sends it (R301), or a sum for it overflowed: the block becomes non-finite, and what its lanes
had put into CK is taken out again, since R291 leaves the block out on both sides. -/
def hopBlock (E0 : Nat) (b : WBlk) (vs : List Num) (bad ovr : Bool) : HopOut :=
  let drop := fun (ov : Bool) => (⟨b.nonfinite, -(b.lanes.sum * 2 ^ (b.e - E0)), 0, 0, ov, false, none⟩ : HopOut)
  if b.e = 0xFF then ⟨b, 0, 0, 0, false, false, none⟩
  else if bad || ovr then drop ovr
  else
    let us := if b.fp.isSome then vs.map (roundIn ffBf16) else vs
    if us.any fun v => !v.isFin then drop true
    else
      let sums := b.fp.map fun fs => (fs.zip us).map fun (f, v) => fp32Add (fp32Val (BitVec.ofNat 32 f)) v
      let fp := sums.map fun xs => xs.map fun x => (fp32Code x.1).toNat
      let inval := match sums with
        | some xs => (flAll xs) &&& flInvalid != 0
        | none => false
      let back := fun (E : Nat) (m : Int) (u : Num) => if b.fp.isSome then u else (numOfInt m).scale ((E : Int) - 142)
      let ms := us.map (laneOf b.e)
      let out := (b.lanes.zip ms).map fun (p, m) => p + m
      if maxLane out ≤ 2 ^ 31 - 1 then
        ⟨⟨b.e, out, fp, b.cnt⟩, ms.sum * 2 ^ (b.e - E0), 0, 0, false, inval, some ((ms.zip us).map fun (m, u) => back b.e m u)⟩
      else match rescaleBy b.lanes us b.e E0 with
        | none => drop true
        | some k =>
          let m2 := us.map (laneOf (b.e + k))
          let ds := (b.lanes.map fun p => p - 2 ^ k * rneShift p k).sum
          ⟨⟨b.e + k, rescaled b.lanes us b.e k, fp, min 15 (b.cnt + 1)⟩, m2.sum * 2 ^ (b.e + k - E0), ds * 2 ^ (b.e - E0),
            1, false, inval, some ((m2.zip us).map fun (m, u) => back (b.e + k) m u)⟩

/-- R295: the next exchange's forecast entry of a finished block. -/
def nextForecast (bias : Int) (E0 : Nat) (b : WBlk) : Nat :=
  if b.e = 0xFF then E0
  else
    let p := maxLane b.lanes
    let e : Int := if p = 0 then b.e else b.e + (Nat.log2 p + 1 : Nat) - 27 + bias
    (max 0 (min 0xFE e)).toNat + (if 3 < b.cnt then 256 else 0)

/-- R282, R302: the final attribute entry of a block. -/
def finAttr (b : WBlk) : Nat :=
  let touched := match b.fp with
    | some fs => fs.any fun f => f % 2 ^ 31 != 0
    | none => b.lanes.any (· != 0)
  b.e + b2n touched <<< 8 + b2n b.fp.isSome <<< 9 + b2n (b.e = 0xFF) <<< 10 + (min 15 b.cnt) <<< 11

/-- R282: the final lanes of a block. -/
def finBytes (b : WBlk) : List Byte :=
  match b.fp with
  | some fs => fs.flatMap (leBytes 4)
  | none => b.lanes.flatMap fun x => leBytes 4 (wrapInt 32 x)

/-! Compression -/

/-- R297: does one magnitude come before another? A NaN counts as larger than any value (assumption 71). -/
def magBefore (x y : Num) : Bool := if x.isNan then !y.isNan else !y.isNan && y.abs.lt x.abs

/-- R297: the indices of the `k` largest magnitudes, ties to the lower index. -/
def topIdx (gs : List Num) (k : Nat) : List Nat :=
  (List.range gs.length).filter fun i =>
    let gi := gs.getD i numZero
    decide (((List.range gs.length).filter fun j =>
      let gj := gs.getD j numZero
      magBefore gj gi || (!magBefore gi gj && decide (j < i))).length < k)

/-- R297: the values a block sends under a compression. The mean of SIGN is summed in ascending order in W48. -/
def compress (comp k : Nat) (gs : List Num) : List Num :=
  match comp with
  | 1 =>
    let ix := topIdx gs k
    gs.zipIdx.map fun (g, i) => if ix.contains i then g else numZero
  | 2 =>
    let sum := gs.foldl (fun a g => (w48Add a g.abs).1) numZero
    let a := roundIn ffFp32 ((roundIn ffW48 (sum.scale (-5))))
    gs.map fun g => if g.isZero then numZero else if g.negBit then a.negate else a
  | _ => gs

/-! Packets of blocks -/

/-- R293: does a block fit a width? -/
def fitsWidth (w : Nat) (b : WBlk) : Bool :=
  match w with
  | 0 => b.fp.isNone && decide (maxLane b.lanes ≤ 32767)
  | 1 => b.fp.isNone && b.lanes.all fun x => decide (-(2 ^ 23 : Int) ≤ x ∧ x < 2 ^ 23)
  | 2 => b.fp.isNone
  | _ => b.fp.isSome

/-- R293: the largest number of blocks in a packet of a width. -/
def widthMax : Nat → Nat
  | 0 => 62 | 1 => 41 | 2 => 31 | _ => 15

/-- R293: bytes of a block on the wire. -/
def widthBytes : Nat → Nat
  | 0 => 65 | 1 => 97 | 2 => 129 | _ => 257

/-- R293: a block on the wire. -/
def blkBytes (w : Nat) (b : WBlk) : List Byte :=
  (match w with
    | 0 => b.lanes.flatMap fun x => leBytes 2 (wrapInt 16 x)
    | 1 => b.lanes.flatMap fun x => leBytes 3 (wrapInt 24 x)
    | 2 => b.lanes.flatMap fun x => leBytes 4 (wrapInt 32 x)
    | _ => (b.fp.getD []).flatMap (leBytes 4) ++ b.lanes.flatMap fun x => leBytes 4 (wrapInt 32 x)) ++ leBytes 1 b.e

/-- R293: a block read from the wire. -/
def blkOf (w cnt : Nat) (bs : List Byte) : WBlk :=
  let num := fun o n => ofLE ((bs.drop o).take n)
  let lane := fun (o n : Nat) => (List.range 32).map fun j => sext (8 * n) (num (o + n * j) n)
  match w with
  | 0 => ⟨num 64 1, lane 0 2, none, cnt⟩
  | 1 => ⟨num 96 1, lane 0 3, none, cnt⟩
  | 2 => ⟨num 128 1, lane 0 4, none, cnt⟩
  | _ => ⟨num 256 1, lane 128 4, some ((List.range 32).map fun j => num (4 * j) 4), cnt⟩

/-- The prefix of rescale counts and the blocks of a packet (R293). -/
def partPayload (w : Nat) (bs : List WBlk) : List Byte :=
  leBytes 32 ((bs.map fun b => b.cnt).zipIdx.foldl (fun a x => a + (min 15 x.1) <<< (4 * x.2)) 0) ++ bs.flatMap (blkBytes w)

/-- The blocks of a PART or FINAL packet (R293). -/
def partBlocks (p : Packet) : List WBlk :=
  let w := fld p.aux 32 2
  let n := widthBytes w
  (List.range (fld p.aux 26 6)).map fun i =>
    blkOf w (fld (ofLE (p.payload.take 32)) (4 * i) 4) ((p.payload.drop (32 + n * i)).take n)

/-- The next packet's blocks: as many as the narrowest width that holds them admits, from `least` up (assumption 21);
BF16-mode blocks travel alone. -/
def nextChunk (least : Nat) (bs : List WBlk) : Nat × List WBlk :=
  match bs with
  | [] => (0, [])
  | b :: _ =>
    if b.fp.isSome then (3, (bs.takeWhile fun x => x.fp.isSome).take 15)
    else
      let run := bs.takeWhile fun x => x.fp.isNone
      let pick := ([0, 1, 2].filter (decide <| least ≤ ·)).find? fun w => (run.take (widthMax w)).all (fitsWidth w)
      let chunk := run.take (widthMax (pick.getD 2))
      (([0, 1, 2].filter (decide <| least ≤ ·)).find? fun w => chunk.all (fitsWidth w)).getD 2 |> fun w => (w, chunk)

/-- R293: the packets of a run of blocks, `first` being the first one's number within the shard. -/
def packBlocks (ptype dst addr attempt least : Nat) : Nat → Nat → List WBlk → List Packet
  | 0, _, _ => []
  | fuel + 1, first, bs =>
    let (w, c) := nextChunk least bs
    if c.isEmpty then []
    else
      let pl := partPayload w c
      let aux := first + c.length <<< 26 + w <<< 32 + attempt <<< 34
      mkPacket ptype dst pl.length 0 addr aux pl :: packBlocks ptype dst addr attempt least fuel (first + c.length) (bs.drop c.length)

/-! Census records -/

/-- R294: a census record. -/
structure Census where
  samples : Nat
  ck : Nat
  dsa : Nat
  nrec : Nat
  flags : Nat
  excl : List Nat
  counted : List Nat
  deriving DecidableEq, Repr

/-- A census before the originator's contribution. -/
def Census.empty : Census := ⟨0, 0, 0, 0, 0, [], []⟩

/-- R294: the record's bytes for a ring of `g` positions. -/
def Census.bytes (c : Census) (g : Nat) : List Byte :=
  leBytes 8 c.samples ++ leBytes 16 c.ck ++ leBytes 16 c.dsa ++ leBytes 2 (min 0xFFFF c.nrec) ++ leBytes 2 c.excl.length
    ++ leBytes 4 c.flags
    ++ leBytes 128 (c.excl.zipIdx.foldl (fun a x => a + x.1 <<< (16 * x.2)) 0)
    ++ leBytes ((g + 7) / 8) (c.counted.foldl (fun a p => a ||| 1 <<< p) 0)

/-- R294: a census record read from bytes. -/
def censusOf (bs : List Byte) : Census :=
  let num := fun o n => ofLE ((bs.drop o).take n)
  let n := min 64 (num 42 2)
  let bits := ofLE (bs.drop 176)
  ⟨num 0 8, num 8 16, num 24 16, num 40 2, num 44 4, (List.range n).map fun i => num (48 + 2 * i) 2,
    (List.range (8 * (bs.length - 176))).filter (bitAt bits)⟩

/-- A flag of a census set (R294: 0 NONFINITE, 1 DEADLINE, 2 OVERRANGE). -/
def Census.setFlag (c : Census) (i : Nat) (b : Bool) : Census := { c with flags := if b then c.flags ||| 1 <<< i else c.flags }

/-- R291: the sum of two 128-bit accumulators. -/
def acc128 (x : Nat) (y : Int) : Nat := wrapInt 128 (x + y)

/-- R291: does the owner's identity hold for the final blocks, given each one's agreed exponent? -/
def identityHolds (c : Census) (bs : List (Nat × WBlk)) : Bool :=
  let rhs := bs.foldl (fun a (E0, b) => if b.e = 0xFF then a else a + b.lanes.sum * 2 ^ (b.e - E0)) (0 : Int)
  c.ck % 2 ^ 128 = acc128 c.dsa rhs

end Sys2Proof.Machine
end

