-- ==== Sys2Proof/Machine/Dispatching.lean ====
section
/-! DEFINITION. What the sequencer does with every command before and as it dispatches it (03, R59 to R95): the fields
each opcode uses, the checks of R94 with the lowest code recorded (R95), the stalls of R62, the tile-queue shadow (R69
to R71), the scoreboard (R73 to R75), and the bookkeeping of lists, recordings and replays. -/

namespace Sys2Proof.Machine

/-- What R61, R63, R66 and R538 say of an opcode: its engine, how it uses QS0, QS1, QD, QO and QR (0 must be disabled,
1 must be enabled, 2 may be), the conversion fields it uses (RND, FTZ, E4M3_OVF), whether it has an immediate, and the
immediate bits that must be 0. -/
structure OpSpec where
  opc : Nat
  eng : Option Engine
  qs : List Nat
  rnd : Bool
  ftz : Bool
  ovf : Bool
  pidx : Bool
  imm : Bool
  rsvd : Nat
  deriving DecidableEq, Repr

/-- The bits `lo` to 63. -/
def from64 (lo : Nat) : Nat := 2 ^ 64 - 2 ^ lo

/-- A sequencer opcode. -/
def seqOp (opc : Nat) (qs : List Nat) (imm : Bool) (rsvd : Nat) : OpSpec :=
  ⟨opc, none, qs, false, false, false, false, imm, rsvd⟩

/-- An opcode that names a parameter register (R65). -/
def parOp (opc rsvd : Nat) : OpSpec := ⟨opc, none, [0, 0, 0, 0, 0], false, false, false, true, true, rsvd⟩

/-- An engine opcode. -/
def engOp (opc : Nat) (e : Engine) (qs : List Nat) (cv : Nat) (imm : Bool) (rsvd : Nat) : OpSpec :=
  ⟨opc, some e, qs, bitAt cv 0, bitAt cv 1, bitAt cv 2, false, imm, rsvd⟩

/-- The opcode table of R66 with the immediate layouts of the engine chapters; none for every other value. The last
but one argument of `engOp`'s third digit is 1 RND, 2 FTZ, 4 E4M3_OVF (R538). -/
def opSpec : Nat → Option OpSpec
  | 0x00 => some (seqOp 0x00 [0, 0, 0, 0, 0] false (from64 0))
  | 0x01 => some (seqOp 0x01 [0, 0, 0, 1, 0] true 0)
  | 0x02 => some (seqOp 0x02 [1, 0, 0, 0, 0] false (from64 0))
  | 0x03 => some (seqOp 0x03 [1, 0, 0, 1, 1] false (from64 0))
  | 0x04 => some (parOp 0x04 0)
  | 0x05 => some (parOp 0x05 0)
  | 0x06 => some (parOp 0x06 (from64 8))
  | 0x08 => some (seqOp 0x08 [0, 0, 0, 0, 0] true 0xFFFFF000)
  | 0x09 => some (seqOp 0x09 [0, 0, 0, 0, 0] true 0xFFF80800)
  | 0x0A => some (seqOp 0x0A [0, 0, 0, 0, 0] true (from64 4))
  | 0x0B => some (seqOp 0x0B [0, 0, 0, 0, 0] true (from64 62))
  | 0x0C => some (seqOp 0x0C [0, 0, 0, 0, 0] true (from64 4))
  | 0x0D => some (seqOp 0x0D [0, 0, 0, 0, 0] true (from64 4))
  | 0x0E => some (seqOp 0x0E [0, 0, 0, 0, 0] true (from64 31))
  | 0x0F => some (seqOp 0x0F [0, 0, 0, 0, 0] true 0xFFFE0080)
  | 0x10 => some (seqOp 0x10 [0, 0, 0, 0, 0] false (from64 0))
  | 0x20 => some (engOp 0x20 .mxu [1, 0, 0, 0, 2] 2 true (from64 4))
  | 0x21 => some (engOp 0x21 .mxu [1, 0, 1, 2, 2] 2 true (from64 1))
  | 0x22 => some (engOp 0x22 .mxu [1, 0, 1, 2, 2] 7 true 0xFFE00000)
  | 0x23 => some (engOp 0x23 .mxu [1, 1, 1, 2, 2] 6 true (from64 14 + 8))
  | 0x24 => some (engOp 0x24 .mxu [0, 0, 1, 2, 0] 0 false (from64 0))
  | 0x30 => some (engOp 0x30 .vce [0, 0, 0, 0, 0] 0 true (from64 20))
  | 0x31 => some (engOp 0x31 .vce [1, 2, 1, 2, 2] 7 true (from64 24))
  | 0x32 => some (engOp 0x32 .vce [1, 0, 0, 0, 2] 0 true (from64 15))
  | 0x33 => some (engOp 0x33 .vce [1, 1, 1, 2, 2] 0 true (from64 1))
  | 0x34 => some (engOp 0x34 .vce [1, 0, 1, 2, 2] 7 true (from64 5))
  | 0x35 => some (engOp 0x35 .vce [1, 2, 1, 2, 2] 7 true (from64 8))
  | 0x40 => some (engOp 0x40 .tmv [2, 2, 2, 2, 2] 0 true 0)
  | 0x41 => some (engOp 0x41 .tmv [2, 2, 2, 2, 2] 0 true 0)
  | 0x42 => some (engOp 0x42 .tmv [2, 2, 2, 2, 2] 3 true 0)
  | 0x43 => some (engOp 0x43 .tmv [2, 2, 2, 2, 2] 0 true 0)
  | 0x50 => some (engOp 0x50 .hub [0, 0, 0, 0, 0] 0 true 0x8000)
  | 0x51 => some (engOp 0x51 .hub [1, 0, 0, 0, 2] 2 true 0)
  | 0x52 => some (engOp 0x52 .hub [1, 0, 1, 2, 2] 3 true (from64 4))
  | _ => none

/-- R61: depth of an engine's command queue. -/
def engDepth : Engine → Nat
  | .mxu => 16 | .vce => 16 | .tmv => 32 | .hub => 16

/-- The commands waiting in an engine's queue. -/
def Core.engQueue (k : Core) : Engine → List EngCmd
  | .mxu => k.m.queue | .vce => k.v.queue | .tmv => k.t.queue | .hub => k.t.hubQ

/-- The commands an engine has started and not completed. -/
def Core.engRun (k : Core) : Engine → List EngCmd
  | .mxu => k.m.run.map (·.cmd) | .vce => k.v.run | .tmv => k.t.run.map (·.cmd) | .hub => k.t.hubRun.map (·.cmd)

/-- Every dispatched, incomplete command of a core. -/
def Core.incomplete (k : Core) : List EngCmd :=
  k.m.queue ++ k.v.queue ++ k.t.queue ++ k.t.hubQ
    ++ k.engRun .mxu ++ k.engRun .vce ++ k.engRun .tmv ++ k.engRun .hub

/-- The commands dispatched and not yet started. -/
def Core.notStarted (k : Core) : List EngCmd := k.m.queue ++ k.v.queue ++ k.t.queue ++ k.t.hubQ

/-- The engine that runs a dispatched command: that of its opcode; what a routine of the chain dispatches, which has
CALL's, runs in the VCE (R89, R173). -/
def engOfOpc (opc : Nat) : Option Engine := if opc = 0x0B then some .vce else (opSpec opc).bind (·.eng)

/-- The shadow of a tile queue (R69), oldest first. -/
def Core.shadow (k : Core) (n : Nat) : List QEntry := sget [] k.q.tq n

/-- R71: has the handle a command brings arrived: the command has completed and did not fail? -/
def Core.brought (k : Core) (id : Nat) : Bool := !(k.incomplete.any fun y => y.id = id) && !k.q.lost.contains id

/-- R71: has the handle arrived? -/
def Core.arrived (k : Core) (e : Option QEntry) : Bool :=
  match e.bind (·.from?) with
  | none => true
  | some id => k.brought id

/-- Pops of queue `n` by dispatched commands that have not performed them (R70): those of engine commands not started,
and those of DROP and DUP whose handle has not arrived. -/
def Core.popsOutstanding (k : Core) (n : Nat) : Nat :=
  (k.notStarted.map fun e =>
    (if wQen e.lo 0 && wQs0 e.lo = n then 1 else 0) + (if wQen e.lo 1 && wQs1 e.lo = n then 1 else 0)
      + (if wQen e.lo 2 && wQd e.lo = n then 1 else 0)
      + (e.args.filter fun a => a.any fun p => p.1 = n).length).sum
    + (k.q.drops.filter fun p => p.1 = n && !k.brought p.2).length

/-- R71: the sequencer pops a handle from queue `n`, at once or once it has arrived. -/
def Core.seqPop (k : Core) (n : Nat) (e : QEntry) : Core :=
  match e.from? with
  | none => k
  | some id => { k with
      q.drops := (k.q.drops.filter fun p => !k.brought p.2) ++ if k.brought id then [] else [(n, id)] }

/-- The shadow after one pop. -/
def popShadow (tq : SMap (List QEntry)) (n : Nat) : Option (QEntry × SMap (List QEntry)) :=
  match sget [] tq n with
  | [] => none
  | e :: rest => some (e, sset [] tq n rest)

/-- The shadow after one push. -/
def pushShadow (tq : SMap (List QEntry)) (n : Nat) (e : QEntry) : SMap (List QEntry) :=
  sset [] tq n (sget [] tq n ++ [e])

/-- The handles a command pops, in order QS0, QS1, QD, and the shadow after them; none if a queue runs dry (R69). -/
def popAll (tq : SMap (List QEntry)) (lo : Nat) :
    Option (Option QEntry × Option QEntry × Option QEntry × SMap (List QEntry)) := do
  let (a, t1) ← if wQen lo 0 then (popShadow tq (wQs0 lo)).map fun p => (some p.1, p.2) else some (none, tq)
  let (b, t2) ← if wQen lo 1 then (popShadow t1 (wQs1 lo)).map fun p => (some p.1, p.2) else some (none, t1)
  let (d, t3) ← if wQen lo 2 then (popShadow t2 (wQd lo)).map fun p => (some p.1, p.2) else some (none, t2)
  some (a, b, d, t3)

/-- The handles a command pops, in order QS0, QS1, QD, as far as the queues hold them (R95: a check on one handle is made
whatever becomes of the others). -/
def popEach (tq : SMap (List QEntry)) (lo : Nat) : Option QEntry × Option QEntry × Option QEntry :=
  let pop := fun (t : SMap (List QEntry)) (en : Bool) (n : Nat) => match en, popShadow t n with
    | true, some p => (some p.1, p.2)
    | _, _ => (none, t)
  let (a, t1) := pop tq (wQen lo 0) (wQs0 lo)
  let (b, t2) := pop t1 (wQen lo 1) (wQs1 lo)
  (a, b, (pop t2 (wQen lo 2) (wQd lo)).1)

/-- The queues a command pushes to, in order, one entry per push: QO once; QR once for each source, or the copy of
DUP and TILE. -/
def pushQueues (lo : Nat) : List Nat :=
  let srcs := b2n (wQen lo 0) + b2n (wQen lo 1)
  (if wQen lo 3 then [wQo lo] else [])
    ++ (if wQen lo 4 then List.replicate (max 1 srcs) (wQr lo) else [])

/-- R70: a push would overfill a queue that no dispatched command could make room in. -/
def tqOverrun (k : Core) (lo : Nat) : Bool :=
  (pushQueues lo).any fun n => decide (16 < (k.shadow n).length + (pushQueues lo).count n)

/-- R70: a push must wait for pops of commands that have not started. -/
def tqFull (k : Core) (lo : Nat) : Bool :=
  (pushQueues lo).any fun n =>
    decide (16 < (k.shadow n).length + k.popsOutstanding n + (pushQueues lo).count n)

/-- R64: the effective immediate. -/
def effImm (k : Core) (lo imm : Nat) : Nat :=
  let p := (sget 0 k.q.params (imm % 256)).toNat
  if wPmode lo = 1 then p
  else if wPmode lo = 2 then (imm - imm % 256 + p) % 2 ^ 64
  else imm

/-- A code if a condition holds. -/
def code? (b : Bool) (c : Nat) : List Nat := if b then [c] else []

/-- FIELD_INVALID on the common fields (R63 to R65, R80, R538): reserved and unused fields, PMODE, QEN against R66,
the flag index of CSIG, and the immediate bits that must be 0. -/
def fieldBad (o : OpSpec) (lo imm eff : Nat) : Bool :=
  fld lo 61 3 != 0
  || (!o.rnd && wRnd lo != 0) || (!o.ftz && wFtz lo) || (!o.ovf && wE4m3Ovf lo)
  || (!wCsig lo && fld lo 13 11 != 0) || (wCsig lo && !wCflagHub lo && decide (256 ≤ wCflagIdx lo))
  || wPmode lo = 3 || (wPmode lo = 1 && imm / 256 != 0) || (!o.imm && wPmode lo != 0)
  || (if o.pidx then fld lo 32 27 != 0
      else (List.range 5).any fun i =>
        let en := wQen lo i
        let use := o.qs.getD i 0
        (use = 0 && en) || (use = 1 && !en) || (!en && fld lo (24 + 6 * i) 6 != 0))
  || (eff &&& o.rsvd) != 0

/-- R77: CSIG names a flag reserved to device functions or routines. -/
def csigReserved (lo : Nat) : Bool :=
  wCsig lo && (if wCflagHub lo then decide (wCflagIdx lo < 64) else decide (248 ≤ wCflagIdx lo))

/-- R72: an enabled queue field names TQ56 to TQ63. -/
def tqReserved (o : OpSpec) (lo : Nat) : Bool :=
  !o.pidx && (List.range 5).any fun i => wQen lo i && decide (56 ≤ fld lo (24 + 6 * i) 6)

/-- The checks that hold for every opcode: codes of those that fail. -/
def commonCodes (k : Core) (o : OpSpec) (lo imm eff : Nat) : List Nat :=
  code? (o.rnd && wRnd lo = 3) 0x0302
  ++ code? (fieldBad o lo imm eff) 0x0304
  ++ code? (popAll k.q.tq lo).isNone 0x0305
  ++ code? (tqOverrun k lo) 0x0306
  ++ code? (tqReserved o lo) 0x0307
  ++ code? (csigReserved lo) 0x030A

/-- The command number, index, pass and word a dispatch works on. -/
structure Disp where
  idx : Nat
  pass : Nat
  lo : Nat
  imm : Nat
  eff : Nat
  deriving DecidableEq, Repr

/-- The stored recording of a replay slot. -/
def Core.recd (k : Core) (n : Nat) : List RecCmd := ((sget Slot.empty k.q.slots n).recd).getD []

/-- Commands recorded in all slots (R85). -/
def Core.recordedTotal (k : Core) : Nat := (k.q.slots.map fun p => (p.2.recd.getD []).length).sum

/-- Is the core at a point where it may dispatch the given word: running, no WAIT, FENCE or CALL pending, and in a
replay pass only the next recorded command (R59, R60, R86)? -/
def Core.ready (k : Core) (lo imm : Nat) : Option Disp :=
  if !(k.q.seq = .dispatching || k.q.seq = .stalled) then none
  else if k.q.wait.isSome || k.q.fence.isSome || k.q.call.isSome then none
  else match k.q.replay with
    | none => some ⟨k.q.cmdIndex, 0, lo, imm, effImm k lo imm⟩
    | some r =>
      if r.begun = 0 then none else
        match (k.recd r.slot)[r.pos]? with
        | none => none
        | some c =>
          if c.lo = lo ∧ c.imm = imm then
            some ⟨c.idx, (sget Slot.empty k.q.slots r.slot).passes, lo, imm, effImm k lo imm⟩
          else none

/-- R85: the word joins the open recording. -/
def recordCmd (k : Core) (d : Disp) : Core :=
  match k.q.openRec with
  | none => k
  | some n =>
    let sl := sget Slot.empty k.q.slots n
    { k with q.slots := sset Slot.empty k.q.slots n { sl with recd := some (sl.recd.getD [] ++ [⟨d.lo, d.imm, d.idx⟩]) } }

/-- Moves past a dispatched command: on in the list, or on in the replay pass; the last command of the last pass ends
the replay (R60, R86, R96). -/
def advance (k : Core) : Core :=
  let k := { k with q.seq := .dispatching, q.stall := 0, q.pbRead := none }
  match k.q.replay with
  | none => { k with q.cmdIndex := k.q.cmdIndex + 1 }
  | some r =>
    let pos := r.pos + 1
    if pos < (k.recd r.slot).length then { k with q.replay := some { r with pos := pos } }
    else
      let k := { k with q.replayPass := (sget Slot.empty k.q.slots r.slot).passes % 2 ^ 20 }
      if r.begun < r.count then { k with q.replay := some { r with pos := pos } }
      else { k with q.replay := none }

/-- The recording and the position after a command has dispatched. -/
def dispatched (k : Core) (d : Disp) : Core := advance (if k.q.replay.isSome then k else recordCmd k d)

/-- R63: CSIG of a command that completes at dispatch or later: adds 1 to the flag its word names. -/
def csigFire (s : State) (c : CoreId) (lo : Nat) : State :=
  if wCsig lo then
    (if wCflagHub lo then s.addHubFlag (wCflagIdx lo) 1 else s.addCoreFlag c (wCflagIdx lo) 1)
  else s

/-- R62: the sequencer stalls with a cause. -/
def State.stallOn (s : State) (c : CoreId) (cause : Nat) : State :=
  s.modCore c fun k => { k with q.seq := .stalled, q.stall := cause }

/-- R94, R227, R232: the sequencer reads the line of the next command word: whether it comes poisoned, and the state after
what the read finds. A replayed command comes from the buffer. -/
def fetchWord (s : State) (c : CoreId) (k : Core) : Bool × State :=
  if k.q.replay.isSome || s.lineSound k.fetchAddr then (false, s) else s.touchLine k.fetchAddr (c.val + 1)

/-- R85: a command inside an open recording may not take the total past 2,048. -/
def recOverflow (k : Core) : Bool := k.q.openRec.isSome && k.q.replay.isNone && decide (2048 ≤ k.recordedTotal)

/-- The lowest of the failing codes (R95). -/
def lowest : List Nat → Option Nat
  | [] => none
  | c :: cs => match lowest cs with
    | none => some c
    | some d => some (min c d)

/-- R365: the step-entry snapshot of a core. -/
def takeSnapshot (k : Core) : Core :=
  { k with q.snapDue := false, q.snap := some ⟨k.q.cmdIndex, k.q.params, k.q.flags, k.q.slots, k.q.openRec, k.q.replay⟩ }

/-- Dispatch of one word on a core by the row of opcode `opc`. The word's own opcode decides what it is: a word of
another row's opcode is not this event and changes nothing, an opcode outside R66 is refused with OPC_INVALID. `codes`
gives the codes of the opcode's own checks, `stall` its own stall causes, and `run` its effect. -/
def dispatchWith (s : State) (c : CoreId) (lo imm : Word64) (opc : Nat)
    (codes : Core → Disp → List Nat) (stall : Core → Disp → List Nat) (run : State → Core → Disp → State) : State :=
  let k := s.core c
  match k.ready lo.toNat imm.toNat with
  | none => s
  | some d =>
    let (bad, s) := fetchWord s c k
    if bad then s.cmdFault c 0x0310 d.idx d.pass (wOpc d.lo) 0 noPos
    else match opSpec (wOpc d.lo) with
      | none => s.cmdFault c 0x0303 d.idx d.pass (wOpc d.lo) 0 noPos
      | some o =>
        if o.opc ≠ opc then s
        else match lowest (commonCodes k o d.lo d.imm d.eff ++ code? (opc != 0x0D && recOverflow k) 0x030C ++ codes k d) with
          | some code => s.cmdFault c code d.idx d.pass opc 0 noPos
          | none =>
            match lowest (code? (tqFull k d.lo) 3 ++ stall k d) with
            | some cause => s.stallOn c cause
            | none =>
              let k' := if k.q.snapDue then takeSnapshot k else k
              (run (s.setCore c k') k' d).countDispatch c (match o.eng with
                | some .mxu => 0 | some .vce => 1 | some .tmv => 2 | some .hub => 3 | none => 4)

/-- The shadow after a command's pops and pushes. `from?` names the command whose completion brings the handles. -/
def shadowAfter (tq : SMap (List QEntry)) (lo : Nat) (qs0 qs1 qd : Option QEntry) (from? : Option Nat) :
    SMap (List QEntry) :=
  let t1 := match wQen lo 3, qd with
    | true, some e => pushShadow tq (wQo lo) ⟨e.handle, from?⟩
    | _, _ => tq
  let t2 := match wQen lo 4, qs0 with
    | true, some e => pushShadow t1 (wQr lo) ⟨e.handle, from?⟩
    | _, _ => t1
  match wQen lo 4, qs1 with
    | true, some e => pushShadow t2 (wQr lo) ⟨e.handle, from?⟩
    | _, _ => t2

/-- The handle of an entry a command pops; 0 where the queue is disabled. -/
def hOf (e : Option QEntry) : Nat := match e with
  | some x => x.handle
  | none => 0

/-- Handle checks of R27 and R68 on the entries a command pops: `planes` counts the planes of QS0, QS1. A handle with a
reserved FMT fails both FMT_INVALID and HANDLE_INVALID. -/
def handleCodes (k : Core) (lo planes : Nat) : List Nat :=
  let (a, b, d) := popEach k.q.tq lo
  let hs := (a.toList.map fun e => (e.handle, planes)) ++ (b.toList.map fun e => (e.handle, planes))
    ++ d.toList.map fun e => (e.handle, 1)
  code? (hs.any fun h => (fmtOfCode (tileOf h.1).fcode).isNone) 0x0302
    ++ code? (hs.any fun h => handleInvalid h.1) 0x0308 ++ code? (hs.any fun h => handleRange h.1 h.2) 0x0309

/-- R27, R95: FMT_INVALID where the formats of the tiles a command pops (QS0, QS1, QD) are not what its engine takes: `bad`
judges those that are there, whatever becomes of the others. -/
def fmtCodes (k : Core) (lo : Nat) (bad : Option Tile → Option Tile → Option Tile → Bool) : List Nat :=
  let (a, b, d) := popEach k.q.tq lo
  let t := fun (e : Option QEntry) => e.map fun x => tileOf x.handle
  code? (bad (t a) (t b) (t d)) 0x0302

/-- A relation between two tiles that are both there. -/
def bothTiles (a b : Option Tile) (f : Tile → Tile → Bool) : Bool := a.any fun x => b.any (f x)

/-- Runs a check on the tiles a command pops (QS0, QS1, QD) together, if the pops are possible: a code it gives is above
TQ_UNDERRUN, or needs more than one of them. -/
def onTiles (k : Core) (lo : Nat) (f : Tile → Tile → Tile → List Nat) : List Nat :=
  match popAll k.q.tq lo with
  | none => []
  | some (a, b, d, _) => f (tileOf (hOf a)) (tileOf (hOf b)) (tileOf (hOf d))

/-- Scoreboard entries in use (R73). -/
def Core.sbUsed (k : Core) : Nat := (k.incomplete.map fun e => e.regions.length).sum

/-- Stall causes of an engine command: ENGQ_FULL and SB_FULL (R61, R62, R73). -/
def engStalls (k : Core) (e : Engine) (needed : Nat) : List Nat :=
  code? (decide (engDepth e ≤ (k.engQueue e).length)) 2 ++ code? (decide (512 < k.sbUsed + needed)) 4

/-- The engine command a dispatch makes, with its regions. -/
def mkCmd (k : Core) (d : Disp) (a b q : Option QEntry) (regions : List Region) (bank : Bool) (ap : Nat) : EngCmd :=
  ⟨k.q.nextId, wOpc d.lo, d.lo, d.eff, d.idx, d.pass, 0, 0, a, b, q, regions, bank, ap, k.t.idxpolReg.toNat, k.v.lutGen,
    [], []⟩

/-- Puts a command at the end of an engine's queue. -/
def Core.enqueue (k : Core) (e : Engine) (x : EngCmd) : Core :=
  match e with
  | .mxu => { k with m.queue := k.m.queue ++ [x] }
  | .vce => { k with v.queue := k.v.queue ++ [x] }
  | .tmv => { k with t.queue := k.t.queue ++ [x] }
  | .hub => { k with t.hubQ := k.t.hubQ ++ [x] }

/-- The effect of dispatching an engine command: pops and pushes in the shadow (R69), the command in its queue with
its scoreboard regions (R73), and the position moved on. -/
def engDispatch (e : Engine) (regions : Core → Disp → List Region) (bank : Core → Disp → Bool) (ap : Core → Disp → Nat)
    (post : Core → Disp → Core) (c : CoreId) (s : State) (k : Core) (d : Disp) : State :=
  match popAll k.q.tq d.lo with
  | none => s
  | some (a, b, q, tq) =>
    let x := mkCmd k d a b q (regions k d) (bank k d) (ap k d)
    let k1 := { k with q.tq := shadowAfter tq d.lo a b q (some k.q.nextId), q.nextId := k.q.nextId + 1 }
    s.setCore c (dispatched (post (k1.enqueue e x) d) d)

/-- The tile regions of the handles a command pops (R73): sources read, the destination written. -/
def tileRegions (k : Core) (lo planes : Nat) : List Region :=
  match popAll k.q.tq lo with
  | none => []
  | some (a, b, d, _) =>
    (match a with | some e => [regionOf e.handle planes false] | none => [])
      ++ (match b with | some e => [regionOf e.handle planes false] | none => [])
      ++ (match d with | some e => [regionOf e.handle 1 true] | none => [])

/-- R71: every handle a command pops has arrived. -/
def Core.handlesArrived (k : Core) (e : EngCmd) : Bool :=
  k.arrived e.qs0 && k.arrived e.qs1 && k.arrived e.qd && e.args.all fun a => k.arrived (a.map Prod.snd)

/-- R75: no earlier-dispatched command of another engine has a conflicting region. -/
def Core.noHazard (k : Core) (eng : Engine) (e : EngCmd) : Bool :=
  k.incomplete.all fun f =>
    engOfOpc f.opc = some eng || decide (e.id ≤ f.id) || !(f.regions.any fun r => e.regions.any fun r' => r.conflicts r')

/-- An engine fault while a command starts or runs (R174, R221): recorded, the command leaves its engine and pushes
nothing, and the list and the job halt. -/
def State.engFault (s : State) (c : CoreId) (e : EngCmd) (code pos : Nat) : State :=
  let s1 := s.modCore c fun k => { k with
    m.queue := k.m.queue.filter (·.id ≠ e.id), m.run := k.m.run.filter (·.cmd.id ≠ e.id)
    v.queue := k.v.queue.filter (·.id ≠ e.id), v.run := k.v.run.filter (·.id ≠ e.id)
    t.queue := k.t.queue.filter (·.id ≠ e.id), t.run := k.t.run.filter (·.cmd.id ≠ e.id)
    t.hubQ := k.t.hubQ.filter (·.id ≠ e.id), t.hubRun := k.t.hubRun.filter (·.cmd.id ≠ e.id)
    q.lost := k.q.lost ++ [e.id] }
  s1.cmdFault c code e.idx e.pass e.shownOpc e.routine pos

end Sys2Proof.Machine
end

