-- ==== Sys2Proof/Machine/Seq.lean ====
section
/-! DEFINITION. The sequencer's own commands (03): R66, R77 to R88, and deadlock detection. -/

namespace Sys2Proof.Machine

/-- No checks or stalls of its own. -/
def noCodes (_ : Core) (_ : Disp) : List Nat := []

/-- The effect of a sequencer opcode that completes at dispatch: the core changed, the position moved on, CSIG fired. -/
def seqRun (c : CoreId) (f : Core → Disp → Core) (s : State) (k : Core) (d : Disp) : State :=
  csigFire (s.setCore c (dispatched (f k d) d)) c d.lo

/-- NOP (R66). -/
def execNop (core : CoreId) (lo imm : Word64) (s : State) : Answer :=
  .next (dispatchWith s core lo imm 0x00 noCodes noCodes (seqRun core fun k _ => k))

/-- TILE (R66, R71): the effective immediate is pushed to QO at once. -/
def execTile (core : CoreId) (lo imm : Word64) (s : State) : Answer :=
  .next (dispatchWith s core lo imm 0x01 noCodes noCodes
    (seqRun core fun k d => { k with q.tq := pushShadow k.q.tq (wQo d.lo) ⟨d.eff, none⟩ }))

/-- DROP (R66, R71): one handle leaves QS0. The handle is not read: whether R68 is checked here the spec leaves open, and the
model makes no check (DESIGN CHOICE, log 54). -/
def execDrop (core : CoreId) (lo imm : Word64) (s : State) : Answer :=
  .next (dispatchWith s core lo imm 0x02 noCodes noCodes
    (seqRun core fun k d => match popShadow k.q.tq (wQs0 d.lo) with
      | none => k
      | some (e, tq) => { k.seqPop (wQs0 d.lo) e with q.tq := tq }))

/-- DUP (R66, R71): the handle of QS0 goes to QO and to QR, where both copies arrive at once. The handle is not read, so
no R68 check is made (DESIGN CHOICE, log 54). -/
def execDup (core : CoreId) (lo imm : Word64) (s : State) : Answer :=
  .next (dispatchWith s core lo imm 0x03 noCodes noCodes
    (seqRun core fun k d => match popShadow k.q.tq (wQs0 d.lo) with
      | none => k
      | some (e, tq) =>
        let copy : QEntry := ⟨e.handle, none⟩
        { k.seqPop (wQs0 d.lo) e with q.tq := pushShadow (pushShadow tq (wQo d.lo) copy) (wQr d.lo) copy }))

/-- A parameter register (R65). -/
def Core.param (k : Core) (n : Nat) : Word64 := sget 0 k.q.params n

/-- A parameter register written. -/
def Core.setParam (k : Core) (n : Nat) (x : Word64) : Core := { k with q.params := sset 0 k.q.params n x }

/-- PSET (R66): PARAM[PIDX] takes the effective immediate. -/
def execPset (core : CoreId) (lo imm : Word64) (s : State) : Answer :=
  .next (dispatchWith s core lo imm 0x04 noCodes noCodes
    (seqRun core fun k d => k.setParam (wPidx d.lo) (BitVec.ofNat 64 d.eff)))

/-- PADD (R66): the effective immediate is added modulo 2^64. -/
def execPadd (core : CoreId) (lo imm : Word64) (s : State) : Answer :=
  .next (dispatchWith s core lo imm 0x05 noCodes noCodes
    (seqRun core fun k d => k.setParam (wPidx d.lo) (k.param (wPidx d.lo) + BitVec.ofNat 64 d.eff)))

/-- PCOPY (R66): PARAM[PIDX] takes PARAM[IMM[7:0]]. -/
def execPcopy (core : CoreId) (lo imm : Word64) (s : State) : Answer :=
  .next (dispatchWith s core lo imm 0x06 noCodes noCodes
    (seqRun core fun k d => k.setParam (wPidx d.lo) (k.param (d.eff % 256))))

/-- The codes of a flag operand: FIELD_INVALID for a core flag above 255 (R80). -/
def flagCodes (flag : Nat) (hub : Bool) : List Nat := code? (!hub && decide (256 ≤ flag)) 0x0304

/-- WAIT's checks: R77, R80. -/
def waitCodes (_ : Core) (d : Disp) : List Nat :=
  let flag := fld d.eff 0 10
  let hub := bitAt d.eff 10
  flagCodes flag hub ++
    code? (if hub then bitAt d.eff 11 && decide (flag < 64) else decide (248 ≤ flag ∧ flag < 256)) 0x030A

/-- WAIT (R79): the sequencer stalls until the flag has reached TARGET. -/
def execWait (core : CoreId) (lo imm : Word64) (s : State) : Answer :=
  .next (dispatchWith s core lo imm 0x08 waitCodes noCodes fun s k d =>
    s.setCore core { k with
      q.seq := .waiting, q.stall := 5
      q.wait := some ⟨fld d.eff 0 10, bitAt d.eff 10, bitAt d.eff 11, BitVec.ofNat 32 (fld d.eff 32 32),
        d.idx, d.pass, d.lo, d.imm⟩ })

/-- The flag a WAIT waits on. -/
def waitFlag (s : State) (k : Core) (w : WaitInfo) : Word32 := if w.hub then s.hubFlag w.flag else k.flag w.flag

/-- R79: does a consuming WAIT of a lower logical core on the same hub flag hold too, and so complete first? -/
def waitBehind (s : State) (c : CoreId) (w : WaitInfo) : Bool :=
  w.consume && w.hub && (List.finRange 64).any fun x => decide (x < c) && (s.core x).q.seq = .waiting &&
    match (s.core x).q.wait with
    | some y => y.consume && y.hub && y.flag = w.flag && reached (s.hubFlag y.flag) y.target
    | none => false

/-- WAIT_COMPLETE (R79): a satisfied WAIT takes TARGET from the flag if it consumes, and completes; after the WAIT on
hub flag 0 the core's next command takes its step-entry snapshot (R365). -/
def execWaitComplete (core : CoreId) (s : State) : Answer :=
  let k := s.core core
  match k.q.wait with
  | none => .next s
  | some w =>
    if k.q.seq = .waiting ∧ reached (waitFlag s k w) w.target ∧ waitBehind s core w = false then
      let s1 := if w.consume then
          (if w.hub then { s with hub.flags := sset 0 s.hub.flags w.flag (s.hubFlag w.flag - w.target) }
           else s.modCore core fun k => { k with q.flags := sset 0 k.q.flags w.flag (k.flag w.flag - w.target) })
        else s
      let s2 := s1.modCore core fun k =>
        let k1 := dispatched { k with q.wait := none } ⟨w.idx, w.pass, w.lo, w.imm, w.imm⟩
        if w.hub && w.flag = 0 && s.cke.gateCtl.getLsbD 11 then { k1 with q.snapDue := true } else k1
      .next (csigFire s2 core w.lo)
    else .next s

/-- SIGNAL's checks: R77, R80. With TSEL 0 the TCORE field names no core, so a non-zero one there is FIELD_INVALID and never
ENGINE_ABSENT (DESIGN CHOICE, log 58). -/
def signalCodes (s : State) (_ : Core) (d : Disp) : List Nat :=
  let flag := fld d.eff 0 10
  let hub := bitAt d.eff 10
  let tcore := fld d.eff 12 6
  let tsel := bitAt d.eff 18
  code? (tsel && !s.present tcore) 0x0301
  ++ flagCodes flag hub
  ++ code? (fld d.eff 32 32 = 0 || (hub && tsel) || (!tsel && tcore != 0)) 0x0304
  ++ code? (if hub then decide (flag < 64) else decide (248 ≤ flag ∧ flag < 256)) 0x030A

/-- A number as core, taken modulo 64 (its fields have six bits). -/
def coreNo (n : Nat) : CoreId := ⟨n % 64, Nat.mod_lt _ (by decide)⟩

/-- SIGNAL (R80): adds INC to a core or hub flag of this device. -/
def execSignal (core : CoreId) (lo imm : Word64) (s : State) : Answer :=
  .next (dispatchWith s core lo imm 0x09 (signalCodes s) noCodes fun s k d =>
    let s1 := s.setCore core (dispatched k d)
    let inc := BitVec.ofNat 32 (fld d.eff 32 32)
    let flag := fld d.eff 0 10
    let s2 := if bitAt d.eff 10 then s1.addHubFlag flag inc
      else s1.addCoreFlag (if bitAt d.eff 18 then coreNo (fld d.eff 12 6) else core) flag inc
    csigFire s2 core d.lo)

/-- R82: the mask of engines a FENCE names; 0 means all four. -/
def fenceMask (m : Nat) : Nat := if m % 16 = 0 then 15 else m % 16

/-- R82: is every command dispatched before the FENCE to its engines complete? -/
def fenceDone (k : Core) (mask before : Nat) : Bool :=
  k.incomplete.all fun e =>
    decide (before ≤ e.id) || !(match engOfOpc e.opc with
      | some .mxu => bitAt mask 0
      | some .vce => bitAt mask 1
      | some .tmv => bitAt mask 2
      | some .hub => bitAt mask 3
      | none => false)

/-- R82: completes a pending FENCE whose condition holds. -/
def settleFence (s : State) (c : CoreId) : State :=
  let k := s.core c
  match k.q.fence with
  | none => s
  | some f =>
    if fenceDone k f.mask f.before && k.q.seq = .stalled then
      csigFire (s.setCore c (dispatched { k with q.fence := none } ⟨f.idx, f.pass, f.lo, f.imm, f.imm⟩)) c f.lo
    else s

/-- FENCE (R82): dispatch stalls until every earlier command of the named engines has completed. -/
def execFence (core : CoreId) (lo imm : Word64) (s : State) : Answer :=
  .next (dispatchWith s core lo imm 0x0A noCodes noCodes fun s k d =>
    settleFence (s.setCore core { k with
      q.seq := .stalled, q.stall := 6
      q.fence := some ⟨fenceMask d.eff, k.q.nextId, d.idx, d.pass, d.lo, d.imm⟩ }) core)

/-- R85: REC_BEGIN inside an open recording. -/
def recBeginCodes (k : Core) (_ : Disp) : List Nat := code? k.q.openRec.isSome 0x030B

/-- REC_BEGIN (R85): a new recording of the slot replaces the old one and its pass count is 0. -/
def execRecBegin (core : CoreId) (lo imm : Word64) (s : State) : Answer :=
  .next (dispatchWith s core lo imm 0x0C recBeginCodes noCodes fun s k d =>
    let n := d.eff % 16
    let sl := sget Slot.empty k.q.slots n
    csigFire (s.setCore core (advance { k with
      q.slots := sset Slot.empty k.q.slots n { sl with recd := some [], passes := 0 }, q.openRec := some n })) core d.lo)

/-- R85: REC_END without its open recording. -/
def recEndCodes (k : Core) (d : Disp) : List Nat := code? (k.q.openRec ≠ some (d.eff % 16)) 0x030B

/-- REC_END (R85): the open recording ends. -/
def execRecEnd (core : CoreId) (lo imm : Word64) (s : State) : Answer :=
  .next (dispatchWith s core lo imm 0x0D recEndCodes noCodes fun s k d =>
    csigFire (s.setCore core (advance { k with q.openRec := none })) core d.lo)

/-- R85, R86: REPLAY inside a recording or of an empty slot. With HOSTSYNC 0 the flag field is one the opcode does not use
(R63), and must be 0 (DESIGN CHOICE, log 56). -/
def replayCodes (k : Core) (d : Disp) : List Nat :=
  code? (!bitAt d.eff 20 && fld d.eff 21 10 != 0) 0x0304
  ++ code? k.q.openRec.isSome 0x030B
  ++ code? ((sget Slot.empty k.q.slots (d.eff % 16)).recd.isNone) 0x030D

/-- REPLAY (R86): COUNT passes of the slot follow; under HOSTSYNC the flag's value now is the reference. -/
def execReplay (core : CoreId) (lo imm : Word64) (s : State) : Answer :=
  .next (dispatchWith s core lo imm 0x0E replayCodes noCodes fun s k d =>
    let k1 := advance k
    csigFire (s.setCore core { k1 with
      q.replaySlot := d.eff % 16
      q.replay := some ⟨d.eff % 16, fld d.eff 4 16 + 1, 0, 0, bitAt d.eff 20, fld d.eff 21 10,
        s.hubFlag (fld d.eff 21 10)⟩ }) core d.lo)

/-- R87: applies the enabled patch entries of a slot to the PARAM registers, in ascending order. -/
def applyPatches (k : Core) (sl : Slot) : Core :=
  (List.range 8).foldl (fun k n =>
    let p := sget PatchEnt.off sl.patches n
    if p.en then k.setParam p.pidx (k.param p.pidx + BitVec.ofInt 64 (sext 32 p.delta)) else k) k

/-- REPLAY_PASS (R86, R87): once the last pass has been dispatched and the host flag allows it, the next pass begins
with its patches; otherwise the sequencer stalls with HOSTSYNC. -/
def execReplayPass (core : CoreId) (s : State) : Answer :=
  let k := s.core core
  match k.q.replay with
  | none => .next s
  | some r =>
    let n := (k.recd r.slot).length
    if !(k.q.seq = .dispatching || k.q.seq = .stalled) || k.q.wait.isSome || k.q.fence.isSome || k.q.call.isSome then .next s
    else if r.begun ≠ 0 ∧ r.pos < n then .next s
    else if r.hostsync && !reached (s.hubFlag r.flag) (r.v + BitVec.ofNat 32 (r.begun + 1)) then .next (s.stallOn core 7)
    else
      let sl := sget Slot.empty k.q.slots r.slot
      let k1 := applyPatches k sl
      let k2 := { k1 with
        q.slots := sset Slot.empty k1.q.slots r.slot { sl with passes := sl.passes + 1 }
        q.seq := .dispatching, q.stall := 0
        q.replay := if n = 0 ∧ r.count ≤ r.begun + 1 then none else some { r with begun := r.begun + 1, pos := 0 }
        q.replayPass := if n = 0 then (sl.passes + 1) % 2 ^ 20 else k1.q.replayPass }
      .next (s.setCore core k2)

/-- PATCH (R87): sets one patch entry of a slot. -/
def execPatch (core : CoreId) (lo imm : Word64) (s : State) : Answer :=
  .next (dispatchWith s core lo imm 0x0F noCodes noCodes
    (seqRun core fun k d =>
      let n := d.eff % 16
      let sl := sget Slot.empty k.q.slots n
      let p : PatchEnt := ⟨bitAt d.eff 16, fld d.eff 8 8, fld d.eff 32 32⟩
      { k with q.slots := sset Slot.empty k.q.slots n { sl with patches := sset PatchEnt.off sl.patches (fld d.eff 4 3) p } }))

/-- R85: END inside an open recording. -/
def endCodes (k : Core) (_ : Disp) : List Nat := code? k.q.openRec.isSome 0x030B

/-- END (R72, R85): the list ends; handles left in the queues are discarded and the replay slots end. The core stopped
at the END, so its command index stays the END's (R96, log 50). -/
def execEndList (core : CoreId) (lo imm : Word64) (s : State) : Answer :=
  .next (dispatchWith s core lo imm 0x10 endCodes noCodes fun s k d =>
    csigFire (s.setCore core { k with
      q.seq := .ended, q.stall := 0, q.tq := [], q.drops := [], q.slots := [], q.replay := none }) core d.lo)

/-! Deadlock detection -/

/-- R83: the manifest entry of a flag: SIGMASK and EXT. Without a manifest every core of the job signals every flag;
hub flags 0 to 63 are EXT in every case. -/
def manifestOf (j : Job) (core flag : Nat) (hub : Bool) : Nat × Bool :=
  let n := if hub then 16384 + flag else core * 256 + flag
  match j.manifest with
  | none => (j.coreMask, hub && decide (flag < 64))
  | some _ =>
    let x := sget 0 j.manifestCopy n
    (fld x 0 64, bitAt x 64 || (hub && decide (flag < 64)))

/-- R84: does a dispatched, incomplete command anywhere on the device complete with a signal to this flag? -/
def csigPending (s : State) (core flag : Nat) (hub : Bool) : Bool :=
  (List.finRange 64).any fun c =>
    let k := s.core c
    let hits := fun lo => wCsig lo && wCflagHub lo == hub && wCflagIdx lo = flag && (hub || c.val = core)
    k.incomplete.any (fun e => hits e.lo) || (match k.q.call with | some x => hits x.lo | none => false)

/-- R84, the conditions on one core that do not speak of the set. -/
def dlkCandidate (s : State) (j : Job) (waited : Word64) (c : CoreId) : Bool :=
  bitAt j.coreMask c.val &&
  match (s.core c).q.seq with
  | .haltFault | .ended => true
  | .waiting => match (s.core c).q.wait with
    | none => false
    | some w => waited.getLsbD c.val && !(manifestOf j c.val w.flag w.hub).2 && !csigPending s c.val w.flag w.hub
  | _ => false

/-- R84: one pass that drops the waiting members whose signallers are not all in the set. -/
def dlkShrink (s : State) (j : Job) (set : List CoreId) : List CoreId :=
  set.filter fun c => match (s.core c).q.seq, (s.core c).q.wait with
    | .waiting, some w => (coresOfMask (manifestOf j c.val w.flag w.hub).1).all set.contains
    | .waiting, none => false
    | _, _ => true

/-- R84: the largest deadlocked set: the candidates shrunk until nothing changes (at most 64 times). -/
def dlkSet (s : State) (j : Job) (waited : Word64) : List CoreId :=
  Nat.rec ((List.finRange 64).filter (dlkCandidate s j waited)) (fun _ set => dlkShrink s j set) 64

/-- HUB_DLK_MEMBER_n of a member (R96). -/
def dlkMember (k : Core) : Word64 :=
  match k.q.seq, k.q.wait with
  | .waiting, some w => BitVec.ofNat 64 (w.flag + b2n w.hub <<< 10 + 1 <<< 11 + (w.idx % 2 ^ 32) <<< 32)
  | _, _ => BitVec.ofNat 64 (1 <<< 12 + (k.q.cmdIndex % 2 ^ 32) <<< 32)

/-- QUEUE_DEADLOCK (R84): `waited` marks the cores that have waited for HUB_WAIT_LIMIT clocks. The largest deadlocked
set that holds a waiting core is recorded and the job halts. -/
def execQueueDeadlock (waited : Word64) (s : State) : Answer :=
  match s.hub.job with
  | none => .next s
  | some j =>
    let set := dlkSet s j waited
    if s.hub.waitLimit = 0 || !s.hub.dlkArmed || s.hub.jobState != .running
        || !(set.any fun c => (s.core c).q.seq = .waiting) then .next s
    else
      let mask := (set.map fun c => 2 ^ c.val).sum
      let members := set.foldl (fun m c => sset 0 m c.val (dlkMember (s.core c))) []
      let s1 := s.raiseHalting 0x0201 .d 0 mask
      .next ({ s1 with hub.dlkStatus := BitVec.ofNat 64 mask, hub.dlkMember := members, hub.dlkArmed := false }.haltJob 0x0201)

end Sys2Proof.Machine
end

