-- ==== Sys2Proof/Machine/Gate.lean ====
section
/-! DEFINITION. The beginning of a gate attempt with the tables it reads (R351, R352, R372, R373), and the rewind of a job
after an ABORT (R365), which completes with the last command in flight. -/

namespace Sys2Proof.Machine

/-- R351: the member table as memory holds it. -/
def State.memberTable (s : State) : List Nat :=
  (List.range s.cke.memberCount).map fun i => s.numAt (s.cke.memberAddr.toNat + 2 * i) 2 % 2 ^ 14

/-- R373: an entry. -/
def State.mapEntry (s : State) (a : Nat) : MapEnt :=
  let f := fun o n => s.numAt (a + o) n
  ⟨f 0 8, f 8 8, f 16 2 % 2 ^ 14, if bitAt (f 18 2) 15 then none else some (f 18 2 % 2 ^ 14),
    if bitAt (f 20 2) 15 then none else some (f 20 2 % 2 ^ 14), f 22 2, f 24 2 % 2 ^ 14, f 32 8, f 40 8, f 48 8⟩

/-- R372: a shard map. -/
def State.readMap (s : State) (a : Nat) : ShardMap :=
  let n := s.numAt (a + 4) 4
  ⟨s.numAt (a + 1) 1, s.numAt (a + 8) 8, s.numAt (a + 16) 8, s.numAt (a + 24) 1,
    (List.range n).map fun i => s.mapEntry (a + 64 + 64 * i)⟩

/-- R372, R373: a map is read by an agent: its header, then its entries. -/
def State.readsMap (s : State) (agent a : Nat) : State :=
  if a % 64 ≠ 0 then s
  else
    let s1 := s.engineReads agent [(a, 64)]
    let n := s1.numAt (a + 4) 4
    if n ≤ 2 ^ 20 then s1.engineReads agent [(a + 64, 64 * n)] else s1

/-- R351, R383: the CKE reads the member table and the gate's map. -/
def State.readsGate (s : State) : State :=
  (s.engineReads 0x83 [(s.cke.memberAddr.toNat, 2 * s.cke.memberCount)]).readsMap 0x83 s.cke.mapAddr.toNat

/-- The gate's shard map, read when an attempt begins (R383); none where no map stands. -/
def State.gateMap (s : State) : Option ShardMap :=
  let a := s.cke.mapAddr.toNat
  if s.rangePop a 64 && s.numAt a 1 = 1 && decide (s.numAt (a + 4) 4 ≤ 2 ^ 20) then some (s.readMap a) else none

/-- R352: the hub flag READY_FLAG names. -/
def Cke.readyFlag (k : Cke) : Nat := k.gateCtl.toNat % 1024

/-- R351, R352, R383: an attempt begins: the tables are read, the health word is clear, the base of READY_FLAG is its
value now. -/
def State.beginAttempt (s : State) (attempt : Nat) (retry : Bool) (resent : List (Nat × Nat)) : State :=
  let s1 := { s.countHub 0x0C (fun _ => true) 1 with cke.health := 0 }.readsGate
  { s1 with
    cke.st := if retry then .retrying else .running
    cke.attempt := attempt % 256
    cke.actingRoot := false
    cke.decided := none
    cke.att := { Attempt.reset with
      base := s.hubFlag s.cke.readyFlag
      members := s1.memberTable
      map := s1.gateMap
      afterRetry := retry
      resent := resent } }

/-- Cores of the running job. -/
def State.jobCores (s : State) : List CoreId := match s.hub.job with
  | some j => coresOfMask j.coreMask
  | none => []

/-- Has every dispatched command of a core completed, its CALL included? -/
def Core.quiet (k : Core) : Bool := k.incomplete.isEmpty && k.q.call.isNone

/-- R365: a core back at its step-entry snapshot; one that has not entered the step goes on from its boundary. -/
def Core.rewind (k : Core) : Core :=
  match k.q.snap with
  | some p => { k with
      q.seq := .dispatching, q.stall := 0, q.cmdIndex := p.index, q.params := p.params, q.flags := p.flags
      q.slots := p.slots, q.openRec := p.openRec, q.replay := p.replay
      q.tq := [], q.drops := [], q.wait := none, q.fence := none, q.snapDue := true }
  | none => { k with
      q.seq := if k.q.wait.isSome then .waiting else if k.q.fence.isSome then .stalled else .dispatching
      q.stall := if k.q.wait.isSome then 5 else if k.q.fence.isSome then 6 else 0 }

/-- R365: once every job core has stopped and its commands have completed, the snapshots are restored, hub flags 64 to
1,023 stand as at the flip, and the next attempt of the step begins. A job that is being suspended stays stopped. -/
def State.settleRewind (s : State) : State :=
  if !s.cke.rewinding || !(s.jobCores.all fun c => (s.core c).quiet) then s
  else
    let susp := s.hub.jobState = .suspending
    let s1 := s.jobCores.foldl (fun t c => t.modCore c fun k =>
      if k.q.seq = .haltFault then k
      else
        let k1 := k.rewind
        if susp then haltCore k1 else k1) s
    { s1 with
      hub.flags := (s1.hub.flags.filter fun (p : Nat × Word32) => decide (p.1 < 64)) ++ s.cke.flipFlags
      cke.rewinding := false }.beginAttempt (s.cke.attempt + 1) false []

end Sys2Proof.Machine
end

