-- ==== Sys2Proof/Machine/Sfu.lean ====
section
/-! DEFINITION. The special-function stages (06_special_functions_and_normalisation.md, R176 to R188): the exact
function in fixed point, the two faithful candidates of R179, the special values of R181 and compatibility mode. -/

namespace Sys2Proof.Machine

/-- Fractional bits of the fixed-point values the functions are formed in. -/
def sfBits : Nat := 320

/-- 2^320. -/
def sfOne : Int := (2 ^ 320 : Nat)

/-- ⌊π · 2^640⌋. -/
def piFix640 : Int := 0x3243f6a8885a308d313198a2e03707344a4093822299f31d0082efa98ec4e6c89452821e638d01377be5466cf34e90c6cc0ac29b7c97c50dd3f84d5b5b54709179216d5d98979fb1bd1310ba698dfb5ac

/-- ⌊ln 2 · 2^320⌋. -/
def ln2Fix : Int := 0xb17217f7d1cf79abc9e3b39803f2f6af40f343267298b62d8a0d175b8baafa2be7b876206debac98

/-- Product of two fixed-point numbers. -/
def fxMul (x y : Int) : Int := x * y / sfOne

/-- Quotient of two fixed-point numbers. -/
def fxDiv (x y : Int) : Int := x * sfOne / y

/-- ⌊x · 2^320⌋ of a finite value. -/
def fxOf : Num → Int
  | .fin n m e =>
    let k := e + 320
    let y : Int := if 0 ≤ k then (m <<< k.toNat : Nat) else (m >>> (-k).toNat : Nat)
    if n then -y else y
  | _ => 0

/-- Sum of the series whose term `k` is the previous one times `x / (a k)`. -/
def fxSeries (x : Int) (a : Nat → Nat) : Nat → Nat → Int → Int → Int
  | 0, _, _, acc => acc
  | fuel + 1, k, t, acc =>
    let t' := fxMul t x / (a k : Int)
    fxSeries x a fuel (k + 1) t' (acc + t')

/-- e^y for 0 ≤ y < 1. -/
def fxExp01 (y : Int) : Int := fxSeries y (fun k => k + 1) 80 0 sfOne sfOne

/-- sin and cos of 0 ≤ r < 2. -/
def fxSin (r : Int) : Int := fxSeries (-(fxMul r r)) (fun k => (2 * k + 2) * (2 * k + 3)) 60 0 r r
def fxCos (r : Int) : Int := fxSeries (-(fxMul r r)) (fun k => (2 * k + 1) * (2 * k + 2)) 60 0 sfOne sfOne

/-- Σ z^(2k+1) / (2k+1). -/
def fxAtanhAux (z2 : Int) : Nat → Nat → Int → Int → Int
  | 0, _, _, acc => acc
  | fuel + 1, k, p, acc => fxAtanhAux z2 fuel (k + 2) (fxMul p z2) (acc + p / (k : Int))

/-- ln m for 1 ≤ m < 2. -/
def fxLn (m : Int) : Int :=
  let z := fxDiv (m - sfOne) (m + sfOne)
  2 * fxAtanhAux (fxMul z z) 110 1 z 0

/-- Σ (−1)^n u^(2n+1) / (n! (2n+1)), the integral of e^(−t²) from 0 to u. -/
def fxErfAux (u2 : Int) : Nat → Nat → Int → Int → Int
  | 0, _, _, acc => acc
  | fuel + 1, n, t, acc => fxErfAux u2 fuel (n + 1) (-(fxMul t u2) / ((n : Int) + 1)) (acc + t / (2 * (n : Int) + 1))

/-- erf u for 0 ≤ u < 8: 2/√π times the integral. -/
def fxErf (u : Int) : Int :=
  let rootPi : Int := (isqrt ((piFix640).toNat) : Nat)
  fxDiv (2 * fxErfAux (fxMul u u) 420 0 u 0) rootPi

/-- A fixed-point number as a value scaled by `2^k`; the low bits stand for a non-zero rest, so a last bit is set. -/
def fxNum (x : Int) (k : Int) : Num := .fin (decide (x < 0)) (2 * x.natAbs + 1) (k - 321)

/-- 2^t for a fixed-point `t`: the integer part scales exactly. -/
def fxExp2 (t : Int) : Num :=
  let n := t / sfOne
  let f := t - n * sfOne
  if f = 0 then .fin false 1 n else fxNum (fxExp01 (fxMul f ln2Fix)) n

/-- e^a. -/
def numExp (a : Num) : Num := fxExp2 (fxDiv (fxOf a) ln2Fix)

/-- ln a = e·ln 2 + ln m for a > 0. -/
def fxLnNum : Num → Int
  | .fin _ m e =>
    let L := Nat.log2 m
    ((L : Int) + e) * ln2Fix + fxLn ((m : Int) * sfOne / ((2 ^ L : Nat) : Int))
  | _ => 0

/-- ⌊a ÷ (π/2)⌋ (R178). -/
def quadrant : Num → Int
  | .fin n m e =>
    let x : Int := if 0 ≤ e + 640 then (m <<< (e + 640).toNat : Nat) else (m >>> (-(e + 640)).toNat : Nat)
    (if n then -x else x) / (piFix640 / 2)
  | _ => 0

/-- sin or cos (`shift` 0 or 1 quadrants) after the exact reduction of R178. -/
def numSinCos (shift : Nat) : Num → Num
  | .fin n m e =>
    let a : Int := if 0 ≤ e + 640 then (m <<< (e + 640).toNat : Nat) else (m >>> (-(e + 640)).toNat : Nat)
    let h := piFix640 / 2
    let x := if n then -a else a
    let k := x / h
    let r := (x - k * h) / ((2 ^ 320 : Nat) : Int)
    let q := (k + shift) % 4
    let v := if q = 0 then fxSin r else if q = 1 then fxCos r else if q = 2 then -(fxSin r) else -(fxCos r)
    fxNum v 0
  | _ => .nan

/-- The function codes of R176. -/
inductive SfFunc where
  | exp2 | exp | log2 | ln | rsqrt | sqrt | rcp | tanh | sigmoid | erf | sin | cos
  deriving DecidableEq, Repr

/-- R176: the function a FUNC field selects; 0xC to 0xF are reserved. -/
def sfOfCode : Nat → Option SfFunc
  | 0 => some .exp2 | 1 => some .exp | 2 => some .log2 | 3 => some .ln | 4 => some .rsqrt | 5 => some .sqrt
  | 6 => some .rcp | 7 => some .tanh | 8 => some .sigmoid | 9 => some .erf | 10 => some .sin | 11 => some .cos
  | _ => none

def SfFunc.code : SfFunc → Nat
  | .exp2 => 0 | .exp => 1 | .log2 => 2 | .ln => 3 | .rsqrt => 4 | .sqrt => 5
  | .rcp => 6 | .tanh => 7 | .sigmoid => 8 | .erf => 9 | .sin => 10 | .cos => 11

/-- Is the value above the decimal `p / 10000`? -/
def aboveDec (x : Num) (p : Int) : Bool := Num.lt ((numOfInt p).div (numOfInt 10000)) x

/-- 1 ÷ √a, with a sticky last bit. -/
def numRsqrt (a : Num) : Num := numOne.div a.sqrt

/-- tanh of a magnitude below 9.0109. -/
def numTanh (u : Num) : Num :=
  let x := fxOf ((numExp (u.scale 1).negate))
  fxNum (fxDiv (sfOne - x) (sfOne + x)) 0

/-- σ(a) = 1 ÷ (1 + e^−a). -/
def numSigmoid (a : Num) : Num :=
  if a.negBit then
    let x := numExp a
    x.div (numOne.add x)
  else numOne.div (numOne.add (numExp a.negate))

/-- The special and out-of-domain results of R181 and the exact results of R178 and R179: value and flags. -/
def sfSpecial (f : SfFunc) (a : Num) : Option (Num × Fl) :=
  if a.isNan then some (.nan, flNanIn) else
  match f with
  | .exp2 | .exp =>
    if a.isZero then some (numOne, 0)
    else if a = .inf false then some (.inf false, 0)
    else if a = .inf true then some (numZero, 0)
    else if (match f with
      | .exp2 => Num.le (numOfInt 128) a
      | _ => aboveDec a 887228) then some (.inf false, flOvf)
    else if Num.lt a (numOfInt (-200)) then some (numZero, 0)
    else none
  | .log2 | .ln =>
    if a.isZero then some (.inf true, 0)
    else if a.negBit then some (.nan, flInvalid)
    else if a.isInf then some (.inf false, 0)
    else if a.eqv numOne then some (numZero, 0)
    else match f, a with
      | .log2, .fin _ m e => if m = 2 ^ Nat.log2 m then some (numOfInt ((Nat.log2 m : Int) + e), 0) else none
      | _, _ => none
  | .rsqrt =>
    if a.isZero then some (.inf a.negBit, 0)
    else if a.negBit then some (.nan, flInvalid)
    else if a.isInf then some (numZero, 0) else none
  | .sqrt =>
    if a.isZero then some (a, 0)
    else if a.negBit then some (.nan, flInvalid)
    else if a.isInf then some (.inf false, 0) else none
  | .rcp =>
    match a with
    | .fin n 0 _ => some (.inf n, 0)
    | .inf n => some (.fin n 0 0, 0)
    | _ => none
  | .tanh =>
    if a.isZero then some (a, 0)
    else if a.isInf || !(Num.lt a.abs ((numOfInt 90109).div (numOfInt 10000))) then some (.fin a.negBit 1 0, 0)
    else if Num.le a.abs (.fin false 1 (-12)) then some (a, 0) else none
  | .sigmoid =>
    if a.isZero then some (.fin false 1 (-1), 0)
    else if aboveDec a 173290 then some (numOne, 0)
    else if Num.lt a ((numOfInt (-1039700)).div (numOfInt 10000)) then some (numZero, 0) else none
  | .erf =>
    if a.isZero then some (a, 0)
    else if Num.le (numOfInt 8) a.abs then some (.fin a.negBit 1 0, 0) else none
  | .sin =>
    if a.isZero then some (a, 0)
    else if a.isInf then some (.nan, flInvalid)
    else if Num.le a.abs (.fin false 1 (-12)) then some (a, 0) else none
  | .cos =>
    if a.isZero then some (numOne, 0)
    else if a.isInf then some (.nan, flInvalid) else none

/-- The exact f(a), to far more bits than any output format, for an ordinary operand. -/
def sfExact (f : SfFunc) (a : Num) : Num :=
  match f with
  | .exp2 => fxExp2 (fxOf a)
  | .exp => numExp a
  | .log2 => fxNum (fxDiv (fxLnNum a) ln2Fix) 0
  | .ln => fxNum (fxLnNum a) 0
  | .rsqrt => numRsqrt a
  | .sqrt => a.sqrt
  | .rcp => numOne.div a
  | .tanh => if a.negBit then (numTanh a.abs).negate else numTanh a
  | .sigmoid => numSigmoid a
  | .erf => if a.negBit then (fxNum (fxErf (fxOf a.abs)) 0).negate else fxNum (fxErf (fxOf a)) 0
  | .sin => numSinCos 0 a
  | .cos => numSinCos 1 a

/-- R182: the interval an operand lies in: the sign for RCP, the half turn for SIN and COS, one for the rest. -/
def sfInterval (f : SfFunc) (a : Num) : Int :=
  match f with
  | .rcp => if a.negBit then 1 else 0
  | .sin => (quadrant a + 1) / 2
  | .cos => quadrant a / 2
  | .exp2 | .exp | .log2 | .ln | .rsqrt | .sqrt | .tanh | .sigmoid | .erf => 0

/-- R182: does the function fall on that interval? -/
def sfFalls (f : SfFunc) (a : Num) : Bool :=
  match f with
  | .rsqrt | .rcp => true
  | .sin => sfInterval f a % 2 != 0
  | .cos => sfInterval f a % 2 == 0
  | .exp2 | .exp | .log2 | .ln | .sqrt | .tanh | .sigmoid | .erf => false

/-- R178: `x` rounded down to a multiple of `2^p`, and the next one. -/
def gridAround (x : Num) (p : Int) : Num × Num :=
  match x with
  | .fin n m e =>
    let t : Nat := if p ≤ e then m <<< (e - p).toNat else m >>> (p - e).toNat
    let whole := p ≤ e || m % 2 ^ (p - e).toNat = 0
    let j : Int := if n then (if whole then -(t : Int) else -(t : Int) - 1) else t
    ((numOfInt j).scale p, (numOfInt (j + 1)).scale p)
  | y => (y, y)

/-- f at a seam. -/
def sfAt (f : SfFunc) (x : Num) : Num :=
  match sfSpecial f x with
  | some (y, _) => y
  | none => sfExact f x

/-- R178: the multiple of π/1,024 at or below the reduced argument r of SIN and COS, and the quadrant; 640 fraction bits. -/
def trigSegment (a : Num) : Nat × Int :=
  match a with
  | .fin n m e =>
    let x : Int := if 0 ≤ e + 640 then (m <<< (e + 640).toNat : Nat) else (m >>> (-(e + 640)).toNat : Nat)
    let y := if n then -x else x
    let k := y / (piFix640 / 2)
    (((y - k * (piFix640 / 2)) * 1024 / piFix640).toNat, k)
  | _ => (0, 0)

/-- R178: sin (or cos) of j·π/1,024, for 0 ≤ j ≤ 512. -/
def trigSeam (cosine : Bool) (j : Nat) : Num :=
  let r := piFix640 * j / 1024 / ((2 ^ 320 : Nat) : Int)
  if cosine then (if j = 512 then numZero else fxNum (fxCos r) 0) else (if j = 0 then numZero else fxNum (fxSin r) 0)

/-- R178, R183: f at the two seams of the segment an operand lies in, with the operand's own sign and exponent, and whether
the operand is the first seam. None where no segment stores endpoints (SIGMOID through the EXP path from u = 8 on) and
where the segment holds an extremum: the first of a quadrant in which the result is ±cos r (assumption 4). -/
def sfSeams (f : SfFunc) (a : Num) : Option (Num × Num × Bool) :=
  let around := fun (x : Num) (p : Int) (g : Num → Num) =>
    let s := gridAround x p
    some (sfAt f (g s.1), sfAt f (g s.2), s.1.eqv x)
  let signed := fun (x : Num) => if a.negBit then x.negate else x
  let trig := fun (shift : Int) =>
    let (j, k) := trigSegment a
    let cosine := (k + shift) % 2 != 0
    if cosine && j = 0 then none else some (trigSeam cosine j, trigSeam cosine (j + 1), false)
  match f with
  | .exp2 => around a (-5) id
  | .exp =>
    let j := fxDiv (fxOf a) ln2Fix * 32 / sfOne
    some (fxExp2 (j * sfOne / 32), fxExp2 ((j + 1) * sfOne / 32), false)
  | .rsqrt | .sqrt => around a (a.ilog2 - 5) id
  | .rcp => around a.abs (a.ilog2 - 5) signed
  | .log2 | .ln => around a (a.ilog2 - 5) id
  | .erf => around a.abs (-5) signed
  | .tanh =>
    if Num.lt a.abs (numOfInt 8) then around a.abs (-5) signed
    else some (sfAt .tanh (numOfInt 8), numOne, a.abs.eqv (numOfInt 8))
  | .sigmoid => if Num.lt a.abs (numOfInt 8) then around a.abs (-5) signed else none
  | .sin => trig 0
  | .cos => trig 1

/-- A magnitude rounded to `p` significant bits under RNE, whatever its exponent. -/
def roundPrec (p : Nat) : Num → Num
  | .fin n m e =>
    let d := Nat.log2 m + 1 - p
    let q := m / 2 ^ d
    let r := m % 2 ^ d
    .fin n (if 2 ^ d < 2 * r || (2 ^ d = 2 * r && d ≠ 0 && q % 2 = 1) then q + 1 else q) (e + d)
  | x => x

/-- R183: the magnitude code of f at a seam, correctly rounded before it is scaled. -/
def seamCode (l : FloatFmt) (x : Num) : Nat :=
  match roundPrec (l.fbits + 1) x with
  | .fin _ m e => floatCode l .rne 0 m e
  | _ => l.maxCode + 1

/-- R183: what the segment's endpoint values leave of the candidates `c` and `c + 1`: the one to take, if only one is
left, and whether the clamp is what decides. -/
def sfClampTo (l : FloatFmt) (c : Nat) : Option (Num × Num × Bool) → Option Nat × Bool
  | none => (none, false)
  | some (y0, y1, atSeam) =>
    let e0 := seamCode l y0
    let e1 := seamCode l y1
    if atSeam then (some e0, false)
    else if max e0 e1 < c + 1 then (some c, true)
    else if c < min e0 e1 then (some (c + 1), true)
    else (none, false)

/-- R180: the share of operands, in ten thousandths, whose result need not be the correctly rounded one. -/
def sfMissShare (f : SfFunc) (bf16 : Bool) : Nat :=
  match f with
  | .exp2 | .exp => if bf16 then 1 else 30
  | .log2 | .ln => if bf16 then 1 else 40
  | .rsqrt | .sqrt | .rcp => if bf16 then 1 else 20
  | .tanh | .sigmoid | .erf => if bf16 then 2 else 60
  | .sin | .cos => if bf16 then 2 else 50

/-- R180: the nearer of the candidates `c` and `c + 1` for a magnitude `y`, unless `y` lies so close to their midpoint that
it belongs to the share which may be rounded the other way (assumption 4). -/
def sfNearest (l : FloatFmt) (miss c : Nat) (y : Num) : Option Nat :=
  let v0 := floatDecode l c
  let v1 := floatDecode l (c + 1)
  let d := (y.scale 1).sub (v0.add v1)
  if Num.lt ((v1.sub v0).mul (numOfInt miss)) (d.abs.mul (numOfInt 10000)) then some (if d.negBit then c else c + 1) else none

/-- R179, R180, R182, R183: the result of one evaluation in an output layout, and whether the clamp may have changed it. The
exact value where it is representable; otherwise one of the two that enclose it: the one the segment's endpoint values
leave, else the nearer, else (too close to the midpoint to tell) the lower below an operand the spec does not give and the
upper from it on (Config.sfStep), the other way round where the function falls. -/
def sfRound (f : SfFunc) (bf16 : Bool) (a : Num) (opCode : Nat) (y : Num) : Num × Fl × Bool :=
  let l := if bf16 then ffBf16 else ffFp32
  match y with
  | .fin n m e =>
    let lowC := floatCode l .rtz 0 m e
    let exact := match floatDecode l lowC with
      | .fin _ m' e' => Num.eqv (.fin false m e) (.fin false m' e')
      | _ => false
    let ord : Int := if a.negBit then -(opCode : Int) else opCode
    let cell : Int := if n then -(lowC : Int) - 1 else lowC
    let above := decide (Config.sfStep f.code bf16 (sfInterval f a) cell ≤ ord) != sfFalls f a
    let (must, clamps) := sfClampTo l lowC (sfSeams f a)
    let near := sfNearest l (sfMissShare f bf16) lowC (.fin false m e)
    let (c, cl) := if exact then (lowC, false)
      else if lowC = 0 && (f = .exp2 || f = .exp) then (0, false)
      else if lowC ≥ l.maxCode then ((if f = .rcp then l.maxCode + 1 else l.maxCode), clamps)
      else (must.getD (near.getD (if above != n then lowC + 1 else lowC)), clamps)
    if l.maxCode < c then (.inf n, flOvf, cl) else (floatDecode l (c + signBit l n), 0, cl)
  | z => (z, 0, false)

/-- Does a layout hold a value as a subnormal? -/
def isSubnormalIn (l : FloatFmt) : Num → Bool
  | .fin _ m e => decide (m ≠ 0) && decide ((Nat.log2 m : Int) + e < 1 - (l.bias : Int))
  | _ => false

/-- R177 to R183: one normal-mode evaluation of a stage: result, flags, and whether SFU_CLAMPS counts it. -/
def sfNormal (f : SfFunc) (bf16 ftz : Bool) (a : Num) : Num × Fl × Bool :=
  let l := if bf16 then ffBf16 else ffFp32
  let flushIn := ftz && isSubnormalIn l a
  let a' := if flushIn then .fin a.negBit 0 0 else a
  let code := floatCode l .rtz 0 (match a' with | .fin _ m _ => m | _ => 0) (match a' with | .fin _ _ e => e | _ => 0)
    + signBit l a'.negBit
  match sfSpecial f a' with
  | some (y, fl) =>
    -- an EXP2 or LOG2 result that is exact may still need rounding into BF16
    let (z, fl2) := match y with
      | .fin _ _ _ => (roundIn l y, (0 : Fl))
      | _ => (y, 0)
    (z, fl ||| fl2 ||| (if flushIn then flFtz else 0), false)
  | none =>
    let (y, fl, cl) := sfRound f bf16 a' (code % 2 ^ (l.width - 1)) (sfExact f a')
    let sub := ftz && isSubnormalIn l y
    (if sub then .fin y.negBit 0 0 else y,
     fl ||| (if flushIn || sub then flFtz else 0),
     cl && Config.sfClamped f.code bf16 code)

/-- R186: the functions compatibility mode offers. -/
def sfHasCompat : SfFunc → Bool
  | .exp2 | .exp | .log2 | .ln | .rsqrt | .rcp | .tanh | .sigmoid => true
  | .sqrt | .erf | .sin | .cos => false

/-- R187: the bound on a compatibility-mode result, in units in the last place. -/
def sfCompatUlp : SfFunc → Int
  | .exp2 | .log2 | .rsqrt | .rcp => 2
  | .exp | .ln => 3
  | _ => 4

/-- The FP32 value next to a non-zero one, upwards or downwards. -/
def fp32Next (up : Bool) : Num → Num
  | .fin n m e =>
    let c := floatCode ffFp32 .rtz 0 m e
    floatDecode ffFp32 ((if n != up then c + 1 else c - 1) + signBit ffFp32 n)
  | y => y

/-- R188: the least of some operands that lies above another. -/
def leastAbove (a : Num) (xs : List Num) : Option Num :=
  xs.foldl (fun (m : Option Num) x => if a.lt x && m.all (x.lt ·) then some x else m) none

/-- R188: the next operand above `a` at which compatibility-mode results step backward. EXP, LN and the negative side of
SIGMOID inherit theirs; RCP and TANH are asked of the magnitude. -/
def compatNextSeam (f : SfFunc) (a : Num) : Option Num :=
  let e := a.ilog2
  match f with
  | .exp2 =>
    let n := fxOf a / sfOne
    leastAbove a ([16 * n + 5, 16 * n + 11, 16 * n + 21].map fun j => (numOfInt j).scale (-4))
  | .log2 => leastAbove a [(numOfInt 19).scale (e - 4), (numOfInt 29).scale (e - 4), (numOfInt 19).scale (e - 3)]
  | .rsqrt =>
    let b := e - e % 2
    leastAbove a [(numOfInt 23).scale (b - 4), (numOfInt 42).scale (b - 4), (numOfInt 23).scale (b - 2)]
  | .rcp => leastAbove a [(numOfInt 25).scale (e - 4), (numOfInt 25).scale (e - 3)]
  | .tanh => leastAbove a [(numOfInt 11).scale (-3)]
  | .sigmoid => leastAbove a [(numOfInt 21).scale (-3)]
  | .exp | .ln | .sqrt | .erf | .sin | .cos => none

/-- The order number of an FP32 value: its code, negative for a negative value. -/
def fp32Order : Num → Int
  | .fin n m e => let c : Int := floatCode ffFp32 .rne 0 m e; if n then -c else c
  | _ => 0

/-- R187: the order number of the correctly rounded f(a), turned round for a falling function, so that it rises with a. -/
def compatRank (f : SfFunc) (a : Num) : Int :=
  let c := fp32Order (sfExact f a)
  if f == .rsqrt || f == .rcp then -c else c

/-- The greatest rank from `lo` to `hi` that the free step function of a stretch lets the operand reach. -/
def compatReach (f : SfFunc) (stretch : Int) (a : Num) (lo hi : Int) : Int :=
  (List.range (hi - lo).toNat).foldl (fun r i =>
    let c := lo + 1 + i
    if Config.sfCompatStep f.code stretch c ≤ fp32Order a then c else r) lo

/-- The stretch of operands between seams that an operand lies in, by the seam that ends it. -/
def compatStretch (f : SfFunc) (a : Num) : Int := ((compatNextSeam f a).map fp32Order).getD 0

/-- R187, R188: the rank of the result at a seam: within the bound, and low enough that the operand before it, whose rank is
one more, keeps the bound too where it can. -/
def compatAtSeam (f : SfFunc) (s : Num) : Int :=
  let b := sfCompatUlp f
  let k := compatRank f s
  compatReach f (compatStretch f s) s (k - b) (max (k - b) (min (k + b) (compatRank f (fp32Next false s) + b - 1)))

/-- R187, R188: the rank of the result at an ordinary operand: off the correctly rounded one by what the spec does not give
(the KN-EL7100 polynomials), within the function's bound, rising with the operand but for the step of one unit in the
last place backward at each seam. -/
def compatRankAt (f : SfFunc) (a : Num) : Int :=
  let b := sfCompatUlp f
  let k := compatRank f a
  if (compatNextSeam f (fp32Next false a)).any a.eqv then compatAtSeam f a
  else match compatNextSeam f a with
    | none => compatReach f 0 a (k - b) (k + b)
    | some s =>
      let top := compatAtSeam f s + 1
      if (fp32Next true a).eqv s then top else compatReach f (fp32Order s) a (k - b) (min (k + b) top)

/-- The FP32 result of a rank. -/
def compatOfRank (f : SfFunc) (k : Int) : Num :=
  let c := if f == .rsqrt || f == .rcp then -k else k
  floatDecode ffFp32 (min c.natAbs ffFp32.maxCode + signBit ffFp32 (decide (c < 0)))

/-- R187: a function with a table of its own at an ordinary operand. -/
def compatNear (f : SfFunc) (a : Num) : Num := compatOfRank f (compatRankAt f a)

/-- FP32 with subnormals as zeros. -/
def fp32Flushed (x : Num) : Num :=
  let y := roundIn ffFp32 x
  if isSubnormalIn ffFp32 y then .fin y.negBit 0 0 else y

/-- R187: EXP2 of an FP32 operand inside EXP: the special values hold for it. -/
def compatExp2 (t : Num) : Num :=
  match sfSpecial .exp2 t with
  | some (y, _) => y
  | none => compatNear .exp2 t

/-- R187: one evaluation at an ordinary operand: EXP and LN by their FP32 products, SIGMOID of a negative operand as
FP32(1 − σ(u)), the others by their own tables. -/
def compatStep (f : SfFunc) (a : Num) : Num :=
  match f with
  | .exp => compatExp2 (fp32Flushed (a.mul (floatDecode ffFp32 0x3FB8AA3B)))
  | .ln => roundIn ffFp32 ((if Num.eqv a numOne then numZero else compatNear .log2 a).mul (floatDecode ffFp32 0x3F317218))
  | .sigmoid => if a.negBit then roundIn ffFp32 (numOne.sub (compatNear .sigmoid a.abs)) else compatNear .sigmoid a
  | _ => compatNear f a

/-- R187: the special and out-of-domain results that hold in compatibility mode: those of R181, without normal mode's
exact segments. -/
def compatSpecial (f : SfFunc) (a : Num) : Option (Num × Fl) :=
  if (f == .tanh || f == .log2) && a.isFin && !a.isZero && !(f == .log2 && (a.negBit || a.eqv numOne)) then none
  else sfSpecial f a

/-- R186 to R188: one compatibility-mode evaluation on an FP32 operand. Subnormals read and write as zeros and set no
flag; the special values of R181 hold; TANH is 1 + 2^−23 for u in [7.875, 8). RCP and TANH restore the operand's sign. -/
def sfCompatEval (f : SfFunc) (a : Num) : Num × Fl :=
  let a' := if isSubnormalIn ffFp32 a then .fin a.negBit 0 0 else a
  let big := f == .tanh && Num.le (numOfInt 8) a'.abs
  let overshoot := f == .tanh && Num.le (.fin false 63 (-3)) a'.abs
  let sigHi := f == .sigmoid && Num.le (numOfInt 8) a'
  let sigLo := f == .sigmoid && Num.le a' (numOfInt (-8))
  let (y, fl) :=
    if a'.isNan then (Num.nan, flNanIn)
    else if big then (Num.fin a'.negBit 1 0, (0 : Fl))
    else if overshoot then (Num.fin a'.negBit (2 ^ 23 + 1) (-23), 0)
    else if sigHi then (numOne, 0)
    else if sigLo then (numZero, 0)
    else match compatSpecial f a' with
      | some r => r
      | none =>
        if (f == .rcp || f == .tanh) && a'.negBit then ((compatStep f a'.abs).negate, 0) else (compatStep f a', 0)
  (if isSubnormalIn ffFp32 y then .fin y.negBit 0 0 else y, fl)

end Sys2Proof.Machine
end

