-- ==== Sys2Proof/Machine/Chain.lean ====
section
/-! DEFINITION. The chain of the vector engine (R136 to R149, R176 to R188): the chain configuration word, its check, the
twelve stages, and one element's way through them. -/

namespace Sys2Proof.Machine

/-- R141: a stage word. -/
structure Stage where
  op : Nat
  dst : Nat
  sa : Nat
  sb : Nat
  sc : Nat
  xf : Nat
  deriving DecidableEq, Repr

/-- R140: the stage word of a position. -/
def stageOf (ccw s : Nat) : Stage :=
  let w := fld ccw (192 + 26 * s) 26
  ⟨fld w 0 5, fld w 5 2, fld w 7 3, fld w 10 3, fld w 13 3, fld w 16 10⟩

/-- R140: a constant of the word, as FP32 bits. -/
def ccwK (ccw i : Nat) : Nat := fld ccw (64 + 32 * i) 32

/-- The stage types of R139. -/
inductive StageType where
  | alu | rg | lk | sf | rd | qz
  deriving DecidableEq, Repr

/-- R139: the type of a position. -/
def stageType : Nat → StageType
  | 2 => .rg | 3 => .lk | 5 => .sf | 8 => .sf | 10 => .rd | 11 => .qz
  | _ => .alu

/-- R143: does an ALU operation take operand b? -/
def aluUsesB (op : Nat) : Bool := !(op = 13 || op = 14 || op = 15 || op = 17 || op = 18)

/-- R143: does an ALU operation take operand c? -/
def aluUsesC (op : Nat) : Bool := op = 1 || op = 7 || op = 12

/-- The operand codes a stage uses, a, b, c (R143 to R148). -/
def stageUses (t : StageType) (st : Stage) : Bool × Bool × Bool :=
  match t with
  | .alu => (true, aluUsesB st.op, aluUsesC st.op)
  | .rg => (st.op = 3, false, false)
  | .lk | .sf | .rd | .qz => (true, false, false)

/-- R141, R149: one stage word breaks its rules. `pack` and `hasY` are the command's. -/
def stageBad (t : StageType) (pos : Nat) (st : Stage) (pack hasY : Bool) : Bool :=
  if st.op = 0 && t != .qz then st.dst != 0 || st.sa != 0 || st.sb != 0 || st.sc != 0 || st.xf != 0
  else
    let (ua, ub, uc) := stageUses t st
    let own := match t with
      | .alu => decide (25 < st.op) || (pack && decide (17 ≤ st.op)) || fld st.xf 5 5 != 0
          || (!uc && bitAt st.xf 3)
          || (fld st.xf 0 2 != 0 && !(st.sa = 6 || (ub && st.sb = 6) || (uc && st.sc = 6)))
      | .rg => decide (3 < st.op) || (pack && st.op = 2) || fld st.xf 8 2 != 0
          || fld st.xf 0 8 = 0 || fld st.xf 0 8 = 0xFF
      | .lk => decide (3 < st.op) || fld st.xf 2 8 != 0 || (bitAt st.xf 1 && st.op = 3)
          || (pack && (st.op = 1 || bitAt st.xf 1))
      | .sf =>
        match sfOfCode (fld st.xf 0 4) with
        | none => true
        | some f => decide (1 < st.op) || fld st.xf 6 4 != 0 || (bitAt st.xf 4 && !sfHasCompat f)
            || (pos = 8 && bitAt st.xf 5)
      | .rd => decide (2 < st.op) || st.dst != 0 || st.xf != 0
      | .qz => st.op != 0 || st.dst != 0 || st.xf != 0
    own || (!ua && st.sa != 0) || (!ub && st.sb != 0) || (!uc && st.sc != 0)
      || (!hasY && ((ua && st.sa = 1) || (ub && st.sb = 1) || (uc && st.sc = 1)))

/-- R149: the configuration check of a VCE_RUN. -/
def ccwBad (ccw : Nat) (pack hasY stats : Bool) : Bool :=
  fld ccw 0 8 != 1 || fld ccw 8 56 != 0 || fld ccw 504 8 != 0
  || (List.range 12).any (fun s => stageBad (stageType s) s (stageOf ccw s) pack hasY)
  || (bitAt (stageOf ccw 5).xf 5 && (stageOf ccw 8).op != 0)
  || decide ((stageOf ccw 10).op = 0) == stats

/-- R414: the credit a VCE_RUN asks for. -/
def chainCredit (ccw : Nat) (pack : Bool) : Nat :=
  192 + (if pack then 32 else 0)
    + ((List.range 11).map fun s =>
        let st := stageOf ccw s
        if st.op = 0 then 0
        else match stageType s with
          | .alu => 128
          | .rg => 32
          | .lk => 96
          | .sf => if bitAt st.xf 5 then 256 else 128
          | .rd => 32
          | .qz => 0).sum

/-! One element -/

/-- An operand: its lane pattern, the place of its sign bit, the value a floating operation reads, and the flags that
reading raises (a constant). -/
structure Opd where
  pat : Nat
  top : Nat
  num : Num
  fl : Fl
  deriving DecidableEq, Repr

/-- The working layout of a lane: FP32, or BF16 in each half (R136). -/
def laneFmt (pack : Bool) : FloatFmt := if pack then ffBf16 else ffFp32

/-- The value of a register's pattern. -/
def patNum (pack : Bool) (p : Nat) : Num := floatDecode (laneFmt pack) p

/-- A floating result in the working layout under RNE, flushed under FTZ (R143, R48), with OVF and INVALID. -/
def laneRound (pack ftz nanIn : Bool) (y : Num) : Nat × Fl :=
  let (p, f) := toIeee (laneFmt pack) true ⟨.rne, ftz, false⟩ 0 y
  (p, f ||| (if y.isNan && !nanIn then flInvalid else 0))

/-- One element on its way: source patterns, V0 to V3, flags, counters, and the operand RD takes. -/
structure Lane where
  x : Nat
  y : Nat
  v : List Nat
  fl : Fl
  oor : Nat
  clamps : Nat
  compat : Nat
  rd : Num
  deriving DecidableEq, Repr

/-- R142: the operand a code names. -/
def Lane.opd (l : Lane) (pack ftz : Bool) (kbits code : Nat) : Opd :=
  let p := match code with
    | 0 => l.x
    | 1 => l.y
    | 7 => 0
    | c => l.v.getD (c - 2) 0
  if code = 6 then ⟨kbits, 31, (ofFmt .fp32 ftz kbits).1, (ofFmt .fp32 ftz kbits).2⟩ else ⟨p, (if pack then 15 else 31), patNum pack p, 0⟩

/-- R143: an operand's sign bit changed. -/
def Opd.sign (o : Opd) (f : Bool → Bool) : Opd :=
  ⟨setFld o.pat o.top 1 (b2n (f (bitAt o.pat o.top))), o.top,
    match o.num with
    | .nan => .nan
    | .inf n => .inf (f n)
    | .fin n m e => .fin (f n) m e, o.fl⟩

/-- A value rounded to an integer (R143 RINT, FLOOR, CEIL); a zero keeps the sign. -/
def numRound (op : Nat) : Num → Num
  | .fin n m e =>
    if 0 ≤ e then .fin n m e
    else
      let sh := (-e).toNat
      let t := m >>> sh
      let exact := m % 2 ^ sh = 0
      let r := if op = 13 then roundShift .rne 0 m sh
        else if exact then t
        else if op = 14 then (if n then t + 1 else t)
        else (if n then t else t + 1)
      .fin n r 0
  | z => z

/-- ⌊a⌋ of a finite value. -/
def numFloor : Num → Int
  | .fin n m e =>
    let x : Int := if 0 ≤ e then (m <<< e.toNat : Nat) else ((m >>> (-e).toNat : Nat) : Int)
    let exact := decide (0 ≤ e) || decide (m % 2 ^ (-e).toNat = 0)
    if n then (if exact then -x else -x - 1) else x
  | _ => 0

/-- 1.0 where a condition holds, else +0. -/
def numBool (b : Bool) : Num := if b then numOne else numZero

/-- R143: an ALU operation on patterns and values. -/
def aluOp (op : Nat) (pack ftz : Bool) (a b c : Opd) : Nat × Fl :=
  let nanIn := a.num.isNan || (aluUsesB op && b.num.isNan) || (aluUsesC op && c.num.isNan)
  let fls := a.fl ||| (if aluUsesB op then b.fl else 0) ||| (if aluUsesC op then c.fl else 0)
  let fl := fun y : Num => let (p, f) := laneRound pack ftz nanIn y; (p, f ||| fls)
  let w := fun n : Nat => (n % 2 ^ 32, (0 : Fl))
  match op with
  | 1 => fl ((a.num.mul b.num).add c.num)
  | 2 => fl (a.num.mul b.num)
  | 3 => fl (a.num.add b.num)
  | 4 => fl (a.num.sub b.num)
  | 5 => fl (a.num.minimum b.num)
  | 6 => fl (a.num.maximum b.num)
  | 7 => fl ((a.num.maximum b.num).minimum c.num)
  | 8 => fl (numBool (a.num.lt b.num))
  | 9 => fl (numBool (a.num.le b.num))
  | 10 => fl (numBool (a.num.eqv b.num))
  | 11 => fl (numBool (!a.num.eqv b.num))
  | 12 =>
    let z := if a.num.isZero then c else b
    if pack then fl z.num
    else if ftz && isSubnormalIn ffFp32 (patNum pack z.pat) then (signBit ffFp32 z.num.negBit, fls ||| flFtz)
    else (z.pat, fls)
  | 13 | 14 | 15 => fl (numRound op a.num)
  | 16 => fl (match a.num with
      | .nan => .nan
      | .inf _ => .inf (bitAt b.pat b.top)
      | .fin _ m e => .fin (bitAt b.pat b.top) m e)
  | 17 => let (p, f) := toInt 32 .rne 0 a.num; (p, f ||| fls)
  | 18 => laneRound pack ftz nanIn (numOfInt (sext 32 a.pat))
  | 19 => w (a.pat + b.pat)
  | 20 => w (a.pat * b.pat)
  | 21 => w (a.pat <<< (b.pat % 32))
  | 22 => (wrapInt 32 (sext 32 a.pat >>> (b.pat % 32)), 0)
  | 23 => w (a.pat &&& b.pat)
  | 24 => w (a.pat ||| b.pat)
  | 25 => w (a.pat ^^^ b.pat)
  | _ => (0, 0)

/-- R145: an entry of a lookup bank. -/
def lutEntry (bank : SMap Word32) (i : Nat) : Nat := (sget 0 bank i).toNat

/-- R145: one lookup: the result pattern, its flags, and whether the index was out of range. -/
def lookup (bank : SMap Word32) (st : Stage) (pack ftz : Bool) (a : Opd) : Nat × Fl × Bool :=
  let raw := bitAt st.xf 1
  let entry := fun i : Nat =>
    if raw then (lutEntry bank i, (0 : Fl))
    else
      let (v, f) := ofFmt .fp32 ftz (lutEntry bank i)
      let (p, g) := laneRound pack ftz true v
      (p, f ||| g)
  let out := fun (low : Bool) =>
    let (p, f) := if bitAt st.xf 0 then (0, 0) else entry (if low then 0 else 4095)
    (p, f, true)
  if st.op = 1 then
    let i := sext 32 a.pat
    if i < 0 then out true else if 4095 < i then out false
    else let (p, f) := entry i.toNat; (p, f, false)
  else match a.num with
    | .nan => ((laneFmt pack).nanCode.getD 0, flNanIn ||| a.fl, true)
    | .inf n => out n
    | .fin _ _ _ =>
      let i := numFloor a.num
      if i < 0 then out true
      else if 4095 < i || (st.op = 3 && i = 4095) then out false
      else if st.op = 2 then let (p, f) := entry i.toNat; (p, f ||| a.fl, false)
      else
        let (t0, g0) := ofFmt .fp32 ftz (lutEntry bank i.toNat)
        let (t1, g1) := ofFmt .fp32 ftz (lutEntry bank (i.toNat + 1))
        let (d, f1) := fp32Add t1 t0.negate
        let fr := a.num.sub (numOfInt i)
        let (p, f2) := laneRound pack ftz (t0.isNan || d.isNan) ((fr.mul d).add t0)
        (p, a.fl ||| g0 ||| g1 ||| f1 ||| f2, false)

/-- R144: the 32-bit draw of an element on a stream. -/
def draw32 (k : Core) (e : EngCmd) (stream pos : Nat) : Nat := draw k.v.seed.toNat stream e.ord e.idx e.pass pos >>> 32

/-- A stage's result put into its register. -/
def Lane.put (l : Lane) (dst : Nat) (r : Nat × Fl) : Lane := { l with v := l.v.set dst r.1, fl := l.fl ||| r.2 }

/-- R142 to R147: one stage of the chain on one element at linear source position `pos`. -/
def stageRun (k : Core) (e : EngCmd) (ccw : Nat) (bank : SMap Word32) (pack ftz : Bool) (pos s : Nat) (l : Lane) : Lane :=
  let st := stageOf ccw s
  if st.op = 0 then l
  else
    let k0 := ccwK ccw 0
    match stageType s with
    | .alu =>
      let kb := ccwK ccw (fld st.xf 0 2)
      let a0 := l.opd pack ftz kb st.sa
      let a1 := if bitAt st.xf 4 then a0.sign (fun _ => false) else a0
      let a := if bitAt st.xf 2 then a1.sign not else a1
      let b := l.opd pack ftz kb st.sb
      let c0 := l.opd pack ftz kb st.sc
      let c := if bitAt st.xf 3 then c0.sign not else c0
      l.put st.dst (aluOp st.op pack ftz a b c)
    | .rg =>
      let r := draw32 k e (fld st.xf 0 8) pos
      let u : Num := .fin false (r >>> 8) (-24)
      if st.op = 1 then l.put st.dst (laneRound pack ftz false u)
      else if st.op = 2 then l.put st.dst (r, 0)
      else
        let a := l.opd pack ftz k0 st.sa
        let (p, f) := laneRound pack ftz false (numBool (u.lt a.num))
        l.put st.dst (p, f ||| a.fl)
    | .lk =>
      let (p, f, o) := lookup bank st pack ftz (l.opd pack ftz k0 st.sa)
      { l.put st.dst (p, f) with oor := l.oor + b2n o }
    | .sf =>
      let o := l.opd pack ftz k0 st.sa
      let a := o.num
      match sfOfCode (fld st.xf 0 4) with
      | none => l
      | some fn =>
        if bitAt st.xf 4 then
          let (y, f) := sfCompatEval fn a
          let (p, f2) := toIeee (laneFmt pack) false convPlain 0 y
          { l.put st.dst (p, f ||| f2) with compat := l.compat + 1 }
        else
          let (y, f, cl) := sfNormal fn pack ftz a
          { l.put st.dst ((toIeee (laneFmt pack) false convPlain 0 y).1, f ||| o.fl) with clamps := l.clamps + b2n cl }
    | .rd =>
      let o := l.opd pack ftz k0 st.sa
      { l with rd := o.num, fl := l.fl ||| o.fl }
    | .qz => l

/-- R138 to R147: one element through the chain. -/
def chainRun (k : Core) (e : EngCmd) (ccw : Nat) (bank : SMap Word32) (pack ftz : Bool) (pos x y : Nat) : Lane :=
  (List.range 11).foldl (fun l s => stageRun k e ccw bank pack ftz pos s l) ⟨x, y, [0, 0, 0, 0], 0, 0, 0, 0, numZero⟩

/-- R148: the register QZ reads. -/
def Lane.out (l : Lane) (ccw : Nat) (pack ftz : Bool) : Opd := l.opd pack ftz (ccwK ccw 0) (stageOf ccw 11).sa

/-- R138: a source element as the chain takes it: its lane pattern and flags. -/
def chainIn (k : Core) (t : Tile) (pack ftz : Bool) (r c : Nat) : Nat × Fl :=
  let (v, f) := k.elem t ftz r c
  if t.fmt = .int32 then (if k.elemBad t r c then 0 else k.elemCode t r c, f)
  else
    let (p, g) := toIeee (laneFmt pack) true ⟨.rne, ftz, false⟩ 0 v
    (p, f ||| g)

end Sys2Proof.Machine
end

