-- ==== Sys2Proof/Machine/Credits.lean ====
section
/-! DEFINITION. Power credits (R111, R155, R413 to R420): what is held, asked for and given up, the budget, and the order
in which waiting requests are granted. -/

namespace Sys2Proof.Machine

/-! Limits and scaling -/

/-- R413: VIN in mV as last measured; 46.0 V until a grant period has been measured. -/
def Pwr.vin (p : Pwr) : Nat := if p.vinMv = 0 then 46000 else p.vinMv

/-- R413: does the 4,200 W coolant cap apply; does the 3,000 W one? -/
def Pwr.coolantCap (p : Pwr) : Bool := p.stale || decide (300 < p.inlet)
def Pwr.lowCoolantCap (p : Pwr) : Bool := !p.stale && (decide (400 < p.inlet) || decide (p.flow < 500))

/-- R413: 94 A × VIN in W. -/
def Pwr.currentLimit (p : Pwr) : Nat := 94 * p.vin / 1000

/-- R413, R441: the least of the package limit and the coolant caps. -/
def Pwr.capLimit (p : Pwr) : Nat :=
  min (max 3000 (min 4500 p.pkgLimit)) (if p.lowCoolantCap then 3000 else if p.coolantCap then 4200 else 4500)

/-- R413: L_eff in W. -/
def Pwr.effLimit (p : Pwr) : Nat :=
  let l := min p.capLimit p.currentLimit
  if p.stageHot = 0 then l else l * 90 / 100

/-- R419, R437: the throttle step of a die: the larger of the two asked for. -/
def Pwr.step (p : Pwr) (d : Nat) : Nat := max p.throttle (if d = 0 then p.thermC0 else p.thermC1)

/-- The die of a requester. -/
def State.unitDie (s : State) (w : PwrUnit) : Nat := if w.unit = 5 then w.owner else s.dieOfCore w.owner

/-- R414: a credit as the arbiter evaluates it: scaled by (VDD ÷ fused VDD)² × (effective clock ÷ 1.05 GHz) of the
requester's die, rounded down. -/
def State.scaled (s : State) (w : PwrUnit) (size : Nat) : Nat :=
  let d := s.unitDie w
  let up := if d = 0 then s.pwr.vddUpC0 else s.pwr.vddUpC1
  let f := if d = 0 then s.pwr.fC0 else s.pwr.fC1
  let clk := f * (16 - s.pwr.step d)
  if up = 0 then size * clk / (84 * 16)
  else
    let v := 660 + Config.fusedVdd d % 81
    size * (v + up) ^ 2 * clk / (v ^ 2 * 84 * 16)

/-- R415: H, the credits held, ballast included. -/
def State.creditsHeld (s : State) : Nat := (s.pwr.credits.map fun x => s.scaled x.who x.size).sum

/-- R415: U, the highest uncredited draw of the last ten periods; one not measured counts as 1,480 W. -/
def Pwr.uncredited (p : Pwr) : Nat := (p.uncred.take 10 ++ List.replicate (10 - p.uncred.length) 1480).foldl max 0

/-- R415: GUARD_PCT. -/
def Pwr.guardPct (p : Pwr) : Nat := min 10 (fld p.ctl.toNat 8 4)

/-- R415, R420: the budget for credits, held ones included, in units of 1/128 W. -/
def Pwr.budget (p : Pwr) : Nat := p.effLimit * 128 * (100 - p.guardPct) / 100 - p.uncredited * 128

/-- R415: what the budget leaves free. -/
def State.freeBudget (s : State) : Nat := s.pwr.budget - s.creditsHeld

/-- R416: what may be granted, or released, within 10 grant periods: RAMP_A × VIN in units of 1/128 W. -/
def Pwr.ramp (p : Pwr) : Nat := max 1 (min 8 (p.ctl.toNat % 16)) * p.vin * 128 / 1000

/-- R416: what the last 10 periods, the running one first, leave of a ramp allowance. -/
def Pwr.allow (p : Pwr) (hist : List Nat) : Nat := p.ramp - (hist.take 10).sum

/-- Adds to the running period's entry of a history. -/
def bumpHist (h : List Nat) (x : Nat) : List Nat :=
  match h with
  | [] => [x]
  | y :: ys => (y + x) :: ys

/-! Holding and asking -/

/-- The credit a unit holds, in units of 1/128 W; 0 if none. -/
def State.creditHeld (s : State) (w : PwrUnit) : Nat :=
  match s.pwr.credits.find? (fun x => x.who = w) with
  | some x => x.size
  | none => 0

/-- R418: is the unit's credit marked for yield? -/
def State.creditMarked (s : State) (w : PwrUnit) : Bool := s.pwr.credits.any fun x => decide (x.who = w) && x.marked

/-- Is a request of the unit waiting? -/
def State.creditAsked (s : State) (w : PwrUnit) : Bool := s.pwr.waiting.any fun x => decide (x.who = w)

/-- R415: adds a request, made in the running grant period. -/
def State.askCredit (s : State) (w : PwrUnit) (size : Nat) (yielded : Bool) : State :=
  if s.creditAsked w then s
  else { s with pwr.waiting := s.pwr.waiting ++ [⟨w, size, s.pwr.period, yielded⟩] }

/-! Granting -/

/-- R415: the place of a requester in a period's order: PUE0, PUE1, then cores, within a core MA0 to MA3 and the VCE; a
MULTIPASS stands at MA0's place. -/
def PwrUnit.rank (w : PwrUnit) : Nat :=
  if w.unit = 5 then w.owner else 2 + 8 * w.owner + (if w.unit = 6 then 0 else w.unit)

/-- R415, R418: does one request come before another? -/
def CreditReq.before (a b : CreditReq) : Bool :=
  let key := fun (x : CreditReq) => (x.period * 2 + b2n x.yielded) * 1024 + x.who.rank
  decide (key a < key b)

/-- The oldest waiting request in R415's order. -/
def State.oldestReq (s : State) : Option CreditReq :=
  s.pwr.waiting.foldl (fun (m : Option CreditReq) x => match m with
    | some y => if x.before y then some x else m
    | none => some x) none

/-- Adds to the credit of a unit. -/
def State.addCredit (s : State) (w : PwrUnit) (size : Nat) : State :=
  if s.pwr.credits.any fun x => x.who = w then
    { s with pwr.credits := s.pwr.credits.map fun x => if x.who = w then { x with size := x.size + size, ballast := false } else x }
  else { s with pwr.credits := s.pwr.credits ++ [⟨w, size, s.pwr.period, false, false, false, none⟩] }

/-- R414, R415: grants a request: a MULTIPASS's brings each array to 768 units. -/
def State.grant (s : State) (r : CreditReq) : State :=
  let s1 := { s with pwr.waiting := s.pwr.waiting.erase r }
  if r.who.unit = 6 then
    (List.range 4).foldl (fun t a => t.addCredit ⟨r.who.owner, a⟩ (768 - min 768 (t.creditHeld ⟨r.who.owner, a⟩))) s1
  else s1.addCredit r.who r.size

/-- R415, R416, R419: grants waiting requests in order while each fits the budget and the ramp allowance; none while the
throttle step of its die is 8. -/
def grantN : Nat → State → State
  | 0, s => s
  | n + 1, s =>
    match s.oldestReq with
    | none => s
    | some r =>
      let x := s.scaled r.who r.size
      if x ≤ s.freeBudget ∧ x ≤ s.pwr.allow s.pwr.grantedHist ∧ s.pwr.step (s.unitDie r.who) < 8 then
        grantN n { s.grant r with pwr.grantedHist := bumpHist s.pwr.grantedHist x }
      else s

/-! Giving up -/

/-- The combined request of a MULTIPASS of a core: what the four arrays lack of 768 units each (R414). -/
def State.multiLack (s : State) (core : Nat) : Nat :=
  ((List.range 4).map fun a => 768 - min 768 (s.creditHeld ⟨core, a⟩)).sum

/-- R418: the request that follows a release, made in the period of the release and behind every other of it. -/
def State.askAgain (s : State) (r : PwrUnit × Nat) : State :=
  if r.1.unit = 6 then
    let n := s.multiLack r.1.owner
    if s.creditAsked r.1 then { s with pwr.waiting := s.pwr.waiting.map fun x => if x.who = r.1 then { x with size := n } else x }
    else s.askCredit r.1 n true
  else s.askCredit r.1 r.2 true

/-- A unit's credit is gone. -/
def State.dropCredit (s : State) (w : PwrUnit) : State := { s with pwr.credits := s.pwr.credits.filter fun y => y.who ≠ w }

/-- The request that waits for the release of a credit is made. -/
def State.askWanted (s : State) (x : Credit) : State :=
  match x.want with
  | some r => s.askAgain r
  | none => s

/-- R417: a credit lapses: it is released if the release allowance admits it, and otherwise kept as ballast. -/
def State.lapse (s : State) (w : PwrUnit) : State :=
  match s.pwr.credits.find? (fun x => x.who = w) with
  | none => s
  | some x =>
    let n := s.scaled w x.size
    if n ≤ s.pwr.allow s.pwr.releasedHist then
      ({ s with pwr.releasedHist := bumpHist s.pwr.releasedHist n }.dropCredit w).askWanted x
    else { s with pwr.credits := s.pwr.credits.map fun y => if y.who = w then { y with ballast := true } else y }

/-- R418: a marked holder has tried to start a command: its credit is released in the next period, and `r` asked for. -/
def State.yieldCredit (s : State) (w : PwrUnit) (r : PwrUnit × Nat) : State :=
  { s with pwr.credits := s.pwr.credits.map fun x => if x.who = w then { x with want := some r } else x }

/-- R418: a yield: the holder's credit is released and the oldest waiter granted in the same period; the swap counts
neither as a grant nor as a release. -/
def State.yieldSwap (s : State) (x : Credit) : State :=
  let t := { s with pwr.yields := satAdd 16 s.pwr.yields 1 }.dropCredit x.who
  let t1 := match t.oldestReq with
    | some r => if t.scaled r.who r.size ≤ t.freeBudget ∧ t.pwr.step (t.unitDie r.who) < 8 then t.grant r else t
    | none => t
  t1.askWanted x

/-- R418, R420: the releases of a period: marked holders that tried to start a command in the last one give their credits
up, one marked for an excess over the budget by the release allowance and to no waiter. -/
def State.releases (s : State) : State :=
  s.pwr.credits.foldl (fun t x =>
    if x.want.isNone || x.ballast then t
    else if x.excess then t.lapse x.who else t.yieldSwap x) s

/-- R111, R155, R418: tries to hold `size` for a unit: true if it is held; otherwise the difference is asked for. A
ballasted credit serves new work at once (R417). -/
def State.needCredit (s : State) (w : PwrUnit) (size : Nat) : Bool × State :=
  if s.creditMarked w then (false, s.yieldCredit w (w, size))
  else if size ≤ s.creditHeld w then
    (true, { s with pwr.credits := s.pwr.credits.map fun x => if x.who = w then { x with ballast := false } else x })
  else (false, s.askCredit w (size - s.creditHeld w) false)

/-- R414: the combined request of a MULTIPASS stands as unit 6 of its core. -/
def mpUnit (c : CoreId) : PwrUnit := ⟨c.val, 6⟩

/-- R107, R414: tries to hold 768 units for each of the four arrays. -/
def State.needMultipass (s : State) (c : CoreId) : Bool × State :=
  let units := (List.range 4).map fun a => (⟨c.val, a⟩ : PwrUnit)
  if units.any s.creditMarked then
    (false, units.foldl (fun t w => if t.creditMarked w then t.yieldCredit w (mpUnit c, 0) else t) s)
  else if units.all fun w => decide (768 ≤ s.creditHeld w) then (true, s)
  else (false, s.askCredit (mpUnit c) (s.multiLack c.val) false)

end Sys2Proof.Machine
end

