-- ==== Sys2Proof/Machine/Mxu.lean ====
section
/-! DEFINITION. The matrix unit (04_matrix_arrays.md, R99 to R135, R53 to R55). -/

namespace Sys2Proof.Machine

/-! Formats and dispatch checks -/

/-- R28: formats the arrays take as operands. -/
def mxuOperand : Fmt → Bool
  | .fp32 | .w48 | .bsi16 | .int32 => false
  | _ => true

/-- R28: formats a DRAIN writes. -/
def drainOutput : Fmt → Bool
  | .bsi16 | .int32 => false
  | _ => true

/-- R29: the rate class of an operand format. -/
def rateClass : Fmt → Nat
  | .bf16 | .fp16 => 0
  | .e4m3 | .e5m2 => 1
  | .int8 => 2
  | _ => 3

/-- R99, R113: the depth of an array under a weight format (FP32 parts are BF16). -/
def depthOf : Fmt → Nat
  | .e4m3 | .e5m2 | .int8 | .mxE4m3 | .mxE5m2 => 256
  | .mxE3m2 | .mxE2m3 | .mxE2m1 => 512
  | _ => 128

/-- R101: MXU_LOADW. -/
def loadwCodes (k : Core) (d : Disp) : List Nat :=
  fmtCodes k d.lo (fun a _ _ => a.any fun x => !mxuOperand x.fmt)
  ++ onTiles k d.lo (fun a _ _ => code? (a.acc || decide (128 < a.rows) || decide (depthOf a.fmt < a.cols)) 0x0402)
  ++ handleCodes k d.lo 1

/-- R104: the sequencer's shadow of an array's weights. -/
def Core.wshadow (k : Core) (a : Nat) : ArrW := sget ArrW.none k.m.wShadow a

/-- R29: activations of this format may not meet the weights that the shadow of an array holds. -/
def rateBad (w : ArrW) (a : Tile) : Bool := w.valid && rateClass a.fmt != rateClass ((fmtOfCode w.fmt).getD .fp32)

/-- R104: MXU_STREAM. -/
def streamCodes (k : Core) (d : Disp) : List Nat :=
  fmtCodes k d.lo (fun a _ q => (a.any fun x => !mxuOperand x.fmt) || bothTiles a q fun x y => rateBad (k.wshadow y.arr) x)
  ++ onTiles k d.lo (fun a _ q =>
    let w := k.wshadow q.arr
    code? (a.acc || !q.acc || (w.valid && (a.cols != w.k || q.cols != w.n)) || a.rows != q.rows) 0x0402
    ++ code? (!w.valid) 0x0403)
  ++ handleCodes k d.lo 1

/-- R124, R125: MXU_DRAIN. -/
def drainCodes (k : Core) (d : Disp) : List Nat :=
  let stats := fld d.eff 17 2
  fmtCodes k d.lo (fun _ _ q => q.any fun x => !drainOutput x.fmt)
  ++ onTiles k d.lo (fun a _ q =>
    code? (a.acc && (List.range a.rows).any fun j => !(sget false k.m.wrShadow (a.arr * 1024 + a.accRow + j))) 0x0401
    ++ code? (!a.acc || q.acc || a.rows != q.rows || a.cols != q.cols
        || (stats != 0 && decide (131072 < fld d.eff 0 17 + (8 * a.rows + 63) / 64))) 0x0402)
  ++ code? (stats = 3 || (stats = 0 && fld d.eff 0 17 != 0) || (!bitAt d.eff 20 && fld d.eff 32 32 != 0)) 0x0304
  ++ handleCodes k d.lo 1

/-- R112: rows per array of a MULTIPASS. -/
def mpRows (a : Tile) : Nat := (a.rows + 3) / 4

/-- R112: rows array `q` streams in a MULTIPASS with activation tile `a`. -/
def mpShare (a : Tile) (q : Nat) : Nat := min a.rows ((q + 1) * mpRows a) - min a.rows (q * mpRows a)

/-- Is the sequence complex? -/
def mpComplex (imm : Nat) : Bool := decide (2 ≤ imm % 4)

/-- R113: an operand format a sequence does not take. -/
def mpFmtBad (cx : Bool) (x : Tile) : Bool := if cx then x.fmt = .fp32 || !mxuOperand x.fmt else x.fmt != .fp32

/-- R113: MXU_MULTIPASS. -/
def multipassCodes (k : Core) (d : Disp) : List Nat :=
  let cx := mpComplex d.eff
  let scr := fld d.eff 4 10
  fmtCodes k d.lo (fun w a _ => w.any (mpFmtBad cx) || a.any (mpFmtBad cx)
    || bothTiles w a fun x y => cx && rateClass x.fmt != rateClass y.fmt)
  ++ onTiles k d.lo (fun w a q =>
    let m := mpRows a
    let span := if cx then 2 * m else m
    code? (w.acc || a.acc || !q.acc || q.arr != 0 || decide (128 < w.rows) || decide (depthOf w.fmt < w.cols)
        || a.cols != w.cols || q.cols != w.rows || q.rows != span
        || decide (1024 < q.accRow + span)
        || (d.eff % 4 = 0 && (decide (1024 < scr + 2 * m)
            || (decide (scr < q.accRow + span) && decide (q.accRow < scr + 2 * m))))) 0x0402)
  ++ code? (d.eff % 4 != 0 && scr != 0) 0x0304
  ++ handleCodes k d.lo (if cx then 2 else 1)

/-- R118: MXU_CLEAR. -/
def clearCodes (k : Core) (d : Disp) : List Nat :=
  onTiles k d.lo (fun _ _ q => code? (!q.acc) 0x0402) ++ handleCodes k d.lo 1

/-- Rows of the shadow of R124 that a command will have written. -/
def markRows (k : Core) (arr row n : Nat) : Core :=
  { k with m.wrShadow := (List.range n).foldl (fun m j => sset false m (arr * 1024 + row + j) true) k.m.wrShadow }

/-- The shadow of R124 after a command that writes the accumulator tile of its QD. -/
def markTile (h : Nat) (k : Core) : Core :=
  let t := tileOf h
  if t.acc then markRows k t.arr t.accRow t.rows else k

/-- The last command put in an engine's queue. -/
def lastCmd (q : List EngCmd) : Option EngCmd := q.getLast?

/-- MXU_LOADW (R101): dispatched; the shadow of each array in AMASK takes the tile's format and shape (R104). -/
def execMxuLoadw (core : CoreId) (lo imm : Word64) (s : State) : Answer :=
  .next (dispatchWith s core lo imm 0x20 loadwCodes (fun k _ => engStalls k .mxu 1)
    (engDispatch .mxu (fun k d => tileRegions k d.lo 1) (fun _ _ => false) (fun _ _ => 0)
      (fun k d => match lastCmd k.m.queue with
        | none => k
        | some e =>
          let t := tileOf (hOf e.qs0)
          { k with m.wShadow := (List.range 4).foldl (fun m a =>
              if bitAt d.eff a then sset ArrW.none m a ⟨true, t.fcode, t.cols, t.rows, []⟩ else m) k.m.wShadow }) core))

/-- MXU_STREAM (R103): dispatched. -/
def execMxuStream (core : CoreId) (lo imm : Word64) (s : State) : Answer :=
  .next (dispatchWith s core lo imm 0x21 streamCodes (fun k _ => engStalls k .mxu 2)
    (engDispatch .mxu (fun k d => tileRegions k d.lo 1) (fun _ _ => false) (fun _ _ => 0)
      (fun k _ => match lastCmd k.m.queue with
        | none => k
        | some e => markTile (hOf e.qd) k) core))

/-- R126: the statistics region of a DRAIN. -/
def statsRegion (line rows : Nat) (write : Bool) : Region := lineRegion line ((8 * rows + 63) / 64) write

/-- R73, R125, R126: the regions of a DRAIN: its tiles, the rows it clears, its statistics. -/
def drainRegions (k : Core) (d : Disp) : List Region :=
  let st := fld d.eff 17 2
  tileRegions k d.lo 1 ++
  match popAll k.q.tq d.lo with
  | none => []
  | some (a, _, _, _) =>
    let rows := (tileOf (hOf a)).rows
    (if bitAt d.eff 19 then [regionOf (hOf a) 1 true] else [])
    ++ (if st = 0 then [] else [statsRegion (fld d.eff 0 17) rows true])
    ++ (if st = 2 then [statsRegion (fld d.eff 0 17) rows false] else [])

/-- MXU_DRAIN (R123): dispatched. -/
def execMxuDrain (core : CoreId) (lo imm : Word64) (s : State) : Answer :=
  .next (dispatchWith s core lo imm 0x22 drainCodes (fun k d => engStalls k .mxu (drainRegions k d).length)
    (engDispatch .mxu drainRegions (fun _ _ => false) (fun _ _ => 0) (fun k _ => k) core))

/-- R112 to R114: accumulator rows a MULTIPASS writes in every array. -/
def mpRegions (k : Core) (d : Disp) : List Region :=
  match popAll k.q.tq d.lo with
  | none => []
  | some (w, a, q, _) =>
    let planes := if mpComplex d.eff then 2 else 1
    let m := mpRows (tileOf (hOf a))
    let t := tileOf (hOf q)
    [regionOf (hOf w) planes false, regionOf (hOf a) planes false]
    ++ (List.range 4).map (fun i => (⟨true, i, t.accRow, t.accRow + t.rows, true⟩ : Region))
    ++ (if d.eff % 4 = 0 then (List.range 4).map fun i =>
          (⟨true, i, fld d.eff 4 10, fld d.eff 4 10 + 2 * m, true⟩ : Region) else [])

/-- R124: the rows a MULTIPASS will have written: in each array those that its share of the activation rows reaches, in
the destination's planes and in the scratch rows. -/
def multiMarks (k : Core) (e : EngCmd) : Core :=
  let a := tileOf (hOf e.qs1)
  let b := (tileOf (hOf e.qd)).accRow
  let m := mpRows a
  let at' := fun (k : Core) (q : Nat) (rows : List Nat) => rows.foldl (fun k r => markRows k q r (mpShare a q)) k
  (List.range 4).foldl (fun k q =>
    at' k q (if mpComplex e.imm then [b, b + m] else if e.imm % 4 = 0 then [b, fld e.imm 4 10, fld e.imm 4 10 + m] else [b])) k

/-- MXU_MULTIPASS (R112): dispatched; the weight shadow of every array becomes not valid (R116). -/
def execMxuMultipass (core : CoreId) (lo imm : Word64) (s : State) : Answer :=
  .next (dispatchWith s core lo imm 0x23 multipassCodes (fun k d => engStalls k .mxu (mpRegions k d).length)
    (engDispatch .mxu mpRegions (fun _ _ => false) (fun _ _ => 0)
      (fun k _ => match lastCmd k.m.queue with
        | none => k
        | some e =>
          { multiMarks k e with m.wShadow := [] }) core))

/-- MXU_CLEAR (R118): dispatched. -/
def execMxuClear (core : CoreId) (lo imm : Word64) (s : State) : Answer :=
  .next (dispatchWith s core lo imm 0x24 clearCodes (fun k _ => engStalls k .mxu 1)
    (engDispatch .mxu (fun k d => tileRegions k d.lo 1) (fun _ _ => false) (fun _ _ => 0)
      (fun k _ => match lastCmd k.m.queue with
        | none => k
        | some e => markTile (hOf e.qd) k) core))

/-! Operand parts of the multi-pass sequences -/

/-- A value rounded into BF16 under RNE, an overflow taking the largest finite value instead of infinity (R53). -/
def bf16Part (x : Num) : Num :=
  match roundIn ffBf16 x with
  | .inf n => if x.isFin then floatDecode ffBf16 (ffBf16.maxCode + signBit ffBf16 n) else .inf n
  | y => y

/-- R53: the hi, mid and lo parts of an FP32 operand. -/
def split3 (a : Num) : Num × Num × Num :=
  if a.isFin then
    let hi := bf16Part a
    let r1 := a.sub hi
    let mid := roundIn ffBf16 r1
    let lo := roundIn ffBf16 (r1.sub mid)
    if a.isZero then (a, a, a) else (hi, mid, lo)
  else (a, numZero, numZero)

/-- Which part of an operand a pass uses. -/
inductive Part where
  | whole | hi | mid | lo | re | im | reAddIm | imSubRe
  deriving DecidableEq, Repr

/-- One row of an operand as FP32 or format values, with flags. -/
def rowParts (k : Core) (t : Tile) (ftz : Bool) (r : Nat) : List (Num × Fl) := k.rowVals t ftz r

/-- R55: a CPLX3 pre-sum row formed in FP32 and converted into the pass format under RNE, read back as values. -/
def preSum (f : Fmt) (cv : ConvCtl) (xs ys : List (Num × Fl)) (sub : Bool) : List (Num × Fl) :=
  let sums := (xs.zip ys).map fun ((x, fx), (y, fy)) =>
    let (z, fz) := fp32Add x (if sub then y.negate else y)
    (z, fx ||| fy ||| fz)
  let c : ConvCtl := { cv with rnd := .rne }
  if f.isMx then
    let blocks := (List.range ((sums.length + 31) / 32)).map fun b =>
      let (sc, cs, fl) := mxForm f .rne [] (blockVals (sums.map Prod.fst) b)
      cs.map fun x => (mxValue f sc x, fl)
    (blocks.flatten.zip sums).map fun ((v, fl), (_, f0)) => (v, f0 ||| fl)
  else sums.map fun (z, fl) =>
    let (code, f1) := toFmt f c 0 z
    ((ofFmt f false code).1, fl ||| f1)

/-- R53 to R55: the values of one operand row in a pass. -/
def partRow (k : Core) (t : Tile) (cv : ConvCtl) (p : Part) (r : Nat) : List (Num × Fl) :=
  match p with
  | .whole | .re => rowParts k t cv.ftz r
  | .im => rowParts k t.imag cv.ftz r
  | .hi => (rowParts k t cv.ftz r).map fun x => ((split3 x.1).1, x.2)
  | .mid => (rowParts k t cv.ftz r).map fun x => ((split3 x.1).2.1, x.2)
  | .lo => (rowParts k t cv.ftz r).map fun x => ((split3 x.1).2.2, x.2)
  | .reAddIm => preSum t.fmt cv (rowParts k t cv.ftz r) (rowParts k t.imag cv.ftz r) false
  | .imSubRe => preSum t.fmt cv (rowParts k t.imag cv.ftz r) (rowParts k t cv.ftz r) true

/-- Where a pass puts a row's tree output, as an offset in destination or scratch rows. -/
inductive Target where
  | dest (imag : Bool)
  | both
  | scratch (second : Bool)
  deriving DecidableEq, Repr

/-- One pass of a sequence (R114): weight part, activation part, target, negated, and whether it is the first
contribution to its target (which replaces under ACC = 0; scratch is always replaced). -/
structure Pass where
  w : Part
  a : Part
  tgt : Target
  neg : Bool
  first : Bool
  deriving DecidableEq, Repr

/-- R114: the passes of each sequence in order. -/
def passesOf (seq : Nat) : List Pass :=
  if seq = 0 then
    [⟨.lo, .hi, .dest false, false, true⟩, ⟨.hi, .lo, .dest false, false, false⟩,
     ⟨.hi, .mid, .scratch false, false, true⟩, ⟨.hi, .hi, .scratch true, false, true⟩,
     ⟨.mid, .mid, .dest false, false, false⟩, ⟨.mid, .hi, .dest false, false, false⟩]
  else if seq = 1 then
    [⟨.mid, .hi, .dest false, false, true⟩, ⟨.hi, .mid, .dest false, false, false⟩,
     ⟨.hi, .hi, .dest false, false, false⟩]
  else if seq = 2 then
    [⟨.re, .re, .dest false, false, true⟩, ⟨.re, .im, .dest true, false, true⟩,
     ⟨.im, .im, .dest false, true, false⟩, ⟨.im, .re, .dest true, false, false⟩]
  else
    [⟨.reAddIm, .re, .both, false, true⟩, ⟨.re, .imSubRe, .dest true, false, false⟩,
     ⟨.im, .reAddIm, .dest false, true, false⟩]

/-! One row through an array -/

/-- Adds adjacent pairs; an odd last one passes unchanged (R106). -/
def pairUp : List Num → List Num × Fl
  | x :: y :: rest =>
    let (z, f) := w48Add x y
    let (zs, g) := pairUp rest
    (z :: zs, f ||| g)
  | [x] => ([x], 0)
  | [] => ([], 0)

/-- R106: levels of pairwise addition until one value is left. -/
def treeSum : Nat → List Num → Num × Fl
  | 0, xs => (xs.headD numZero, 0)
  | n + 1, xs =>
    match xs with
    | [] => (numZero, 0)
    | [x] => (x, 0)
    | _ =>
      let (ys, f) := pairUp xs
      let (z, g) := treeSum n ys
      (z, f ||| g)

/-- A W48 sum of a list in ascending order, from its first member. -/
def seqSum : List Num → Num × Fl
  | [] => (numZero, 0)
  | x :: xs => xs.foldl (fun p y => let (z, f) := w48Add p.1 y; (z, p.2 ||| f)) (x, 0)

/-- R110: present cell rows: those of active blocks of 16. -/
def presentRows (K rw : Nat) : Nat := ((K + rw - 1) / rw + 15) / 16 * 16

/-- R106, R110: the tree over the products of depth positions, +0 beyond K. -/
def columnTree (K rw : Nat) (prod : Nat → Num × Fl) : Num × Fl :=
  let cells := (List.range (presentRows K rw)).map fun i =>
    let ps := (List.range rw).map fun j => if rw * i + j < K then prod (rw * i + j) else (numZero, 0)
    let (z, f) := seqSum (ps.map Prod.fst)
    (z, f ||| flAll ps)
  let (z, f) := treeSum 8 (cells.map Prod.fst)
  (z, f ||| flAll cells)

/-- An exact product of two operands (R33), INVALID when it makes a NaN from numbers. -/
def cellProd (x y : Num) : Num × Fl :=
  let z := x.mul y
  (z, if z.isNan && !x.isNan && !y.isNan then flInvalid else 0)

/-- R52, R127: of a checksum's flags only W48_OVF counts. -/
def ovfOnly (f : Fl) : Fl := f &&& flW48Ovf

/-- R127: the sums c_k and d_k of the weights at a depth position, in ascending column order. -/
def csumWeight (w : SMap Num) (n kk : Nat) : (Num × Num) × Fl :=
  let col := (List.range n).map fun j => sget numZero w (512 * j + kk)
  let (c, f) := seqSum col
  let (d, g) := seqSum (col.map Num.abs)
  ((c, d), f ||| g)

/-- What a row gives at the tree exit: the N outputs, the checksum products s and t, and the flags. -/
structure RowOut where
  outs : List Num
  s : Num
  t : Num
  fl : Fl
  deriving DecidableEq, Repr

/-- R100, R106, R127: one activation row through an array's weights. -/
def rowThrough (w : ArrW) (a : List (Num × Fl)) : RowOut :=
  let rw := depthOf ((fmtOfCode w.fmt).getD .fp32) / 128
  let act := fun kk => (a.getD kk (numZero, 0)).1
  let outs := (List.range w.n).map fun n =>
    columnTree w.k rw fun kk => cellProd (act kk) (sget numZero w.w (512 * n + kk))
  let cd := (List.range w.k).map fun kk => csumWeight w.w w.n kk
  let cs := columnTree w.k rw fun kk => w48Mul (act kk) ((cd.getD kk ((numZero, numZero), 0)).1.1)
  let ct := columnTree w.k rw fun kk => w48Mul (act kk).abs ((cd.getD kk ((numZero, numZero), 0)).1.2)
  ⟨outs.map Prod.fst, cs.1, ct.1, flAll outs ||| flAll a ||| ovfOnly (flAll cd) ||| ovfOnly cs.2 ||| ovfOnly ct.2⟩

/-- A value with bits of its W48 code flipped. -/
def flipNum (x : Num) (m : BitVec 48) : Num := if m = 0 then x else w48Val (w48Code x ^^^ m)

/-- The mask for a column among flips. -/
def flipAt (fs : List (Nat × BitVec 48)) (c : Nat) : BitVec 48 :=
  fs.foldl (fun m p => if p.1 = c then m ^^^ p.2 else m) 0

/-- The outputs of a row with an upset applied. -/
def upsetRow (o : RowOut) (fs : List (Nat × BitVec 48)) : RowOut :=
  { o with
    outs := o.outs.zipIdx.map fun (x, i) => flipNum x (flipAt fs i)
    s := flipNum o.s (flipAt fs 128), t := flipNum o.t (flipAt fs 129) }

/-- R128: agreement of (S, C) at reference T and count L, all in W48. -/
def csumAgrees (S C T : Num) (L : Nat) : Bool :=
  let diff := (w48Add S C.negate).1.abs
  let bound := (w48Add (w48Mul (.fin false (L + 64) (-32)) T).1 (.fin false 1 (-530))).1
  diff.le bound

/-- R128, R129: does a row agree at the tree exit, or escape comparison by a non-finite value? -/
def exitAgrees (o : RowOut) : Bool :=
  if o.outs.any (fun x => !x.isFin) || !o.s.isFin || !o.t.isFin then true
  else csumAgrees (seqSum o.outs).1 o.s o.t 1

/-- A column of an accumulator row. -/
def AccRow.val (r : AccRow) (c : Nat) : Num := w48Val (sget 0 r.vals c)

/-- R121: a tree output put into an accumulator row, replacing or adding. `neg` negates the outputs and s. -/
def contribute (r : AccRow) (o : RowOut) (replace neg : Bool) : AccRow × Fl :=
  let sg := fun x : Num => if neg then x.negate else x
  if replace then
    ({ r with vals := ssetList 0 r.vals 0 (o.outs.map fun x => w48Code (sg x))
              cs := w48Code (sg o.s), ct := w48Code o.t, l := 1, span := o.outs.length
              checkable := true, written := true }, 0)
  else
    let ys := o.outs.zipIdx.map fun (x, i) => w48Add (r.val i) (sg x)
    let c := w48Add (w48Val r.cs) (sg o.s)
    let t := w48Add (w48Val r.ct) o.t
    ({ r with vals := ssetList 0 r.vals 0 (ys.map fun y => w48Code y.1)
              cs := w48Code c.1, ct := w48Code t.1, l := min (2 ^ 20) (r.l + 1)
              checkable := r.checkable && decide (o.outs.length ≤ r.span), written := true },
      flAll ys ||| ovfOnly c.2 ||| ovfOnly t.2)

/-- R121: scratch addition under FP32_FULL. -/
def addScratch (r x : AccRow) (n : Nat) : AccRow × Fl :=
  let ys := (List.range n).map fun i => w48Add (r.val i) (x.val i)
  let c := w48Add (w48Val r.cs) (w48Val x.cs)
  let t := w48Add (w48Val r.ct) (w48Val x.ct)
  ({ r with vals := ssetList 0 r.vals 0 (ys.map fun y => w48Code y.1)
            cs := w48Code c.1, ct := w48Code t.1, l := min (2 ^ 20) (r.l + x.l)
            checkable := r.checkable && x.checkable, written := true },
    flAll ys ||| ovfOnly c.2 ||| ovfOnly t.2)

/-! Starting commands -/

/-- The MXU command kind by opcode. -/
def isStream (e : EngCmd) : Bool := e.opc = 0x21
def isDrain (e : EngCmd) : Bool := e.opc = 0x22
def isMulti (e : EngCmd) : Bool := e.opc = 0x23

/-- Tiles of a command. -/
def EngCmd.src (e : EngCmd) : Tile := tileOf (hOf e.qs0)
def EngCmd.src1 (e : EngCmd) : Tile := tileOf (hOf e.qs1)
def EngCmd.dst (e : EngCmd) : Tile := tileOf (hOf e.qd)

/-- The accumulator array a STREAM, DRAIN or CLEAR works on. -/
def EngCmd.array (e : EngCmd) : Nat := if isDrain e then e.src.arr else e.dst.arr

/-- R112: rows array `q` streams in a MULTIPASS. -/
def mpArrayRows (e : EngCmd) (q : Nat) : Nat := mpShare e.src1 q

/-- The row steps a started command makes in array `q`. -/
def workOf (e : EngCmd) (q : Nat) : Nat :=
  if isStream e || e.opc = 0x24 then (if e.array = q then e.dst.rows else 0)
  else if isDrain e then (if e.array = q then e.src.rows else 0)
  else if isMulti e then (passesOf (e.imm % 4)).length * mpArrayRows e q
  else 0

/-- Work left in array `q`. -/
def MxuRun.left (r : MxuRun) (q : Nat) : Nat := workOf r.cmd q - r.pos.getD q 0

/-- Does a started command send rows through the arrays? -/
def enters (r : MxuRun) : Bool := isStream r.cmd || isMulti r.cmd

/-- R102, R107: a started STREAM or MULTIPASS has rows left to enter in array `q`. -/
def rowsLeft (k : Core) (q : Nat) : Bool := k.m.run.any fun r => enters r && decide (0 < r.left q)

/-- R107: a started DRAIN on array `q` is still reading. -/
def drainLeft (k : Core) (q : Nat) : Bool := k.m.run.any fun r => isDrain r.cmd && decide (0 < r.left q)

/-- R101, R107: is a punty load in progress? -/
def puntyActive (k : Core) : Bool := k.m.run.any fun r => r.cmd.opc = 0x20

/-- The accumulator rows a pass of a MULTIPASS writes for row `j` of an array. -/
def passRows (e : EngCmd) (p : Pass) (j : Nat) : List Nat :=
  let b := e.dst.accRow
  let m := mpRows e.src1
  let scr := fld e.imm 4 10
  match p.tgt with
  | .dest false => [b + j]
  | .dest true => [b + m + j]
  | .both => [b + j, b + m + j]
  | .scratch false => [scr + j]
  | .scratch true => [scr + m + j]

/-- R114: the accumulator rows step `pos` of a MULTIPASS writes or reads in array `q`: those of its pass, and in the last
pass of FP32_FULL those of the scratch addition. -/
def multiRows (e : EngCmd) (q pos : Nat) : List Nat :=
  let mq := mpArrayRows e q
  let ps := passesOf (e.imm % 4)
  match ps[pos / mq]? with
  | none => []
  | some p => passRows e p (pos % mq) ++
    if e.imm % 4 = 0 ∧ pos / mq + 1 = ps.length then
      [e.dst.accRow + pos % mq, fld e.imm 4 10 + pos % mq, fld e.imm 4 10 + mpRows e.src1 + pos % mq]
    else []

/-- R108, R123: has a started command work left on a row of array `q`? -/
def touchesRow (r : MxuRun) (q row : Nat) : Bool :=
  let e := r.cmd
  let pos := r.pos.getD q 0
  if isMulti e then (List.range (r.left q)).any fun i => (multiRows e q (pos + i)).contains row
  else
    let b := if isDrain e then e.src.accRow else e.dst.accRow
    decide (0 < r.left q) && decide (b + pos ≤ row) && decide (row < b + pos + r.left q)

/-- R110: active 16 × 16 blocks of loaded weights. -/
def ArrW.blocks (w : ArrW) : Nat :=
  presentRows w.k (depthOf ((fmtOfCode w.fmt).getD .fp32) / 128) / 16 * ((w.n + 15) / 16)

/-- R111, R414: the credit a STREAM needs for its array. -/
def streamCredit (k : Core) (e : EngCmd) : Nat :=
  let w := sget ArrW.none k.m.arr e.array
  let wf := (fmtOfCode w.fmt).getD .fp32
  let fp8 := fun f : Fmt => f == .mxE4m3 || f == .mxE5m2
  let unit := if rateClass wf = 0 then 12
    else if rateClass wf = 3 && !fp8 wf && !fp8 e.src.fmt then 17 else 14
  w.blocks * unit

/-- R101, R127: the weights of a tile as loaded, with the flags of reading them. -/
def loadWeights (k : Core) (e : EngCmd) : ArrW × Fl :=
  let t := e.src
  let xs := (List.range t.rows).map fun n => (List.range t.cols).map fun c => ((512 * n + c, k.elem t (wFtz e.lo) n c))
  let all := xs.flatten
  (⟨true, t.fcode, t.cols, t.rows, all.foldl (fun m p => sset numZero m p.1 p.2.1) []⟩, flAll (all.map Prod.snd))

/-- R108, R118: a started CLEAR clears its next rows, as far as no earlier-started command has work left on them. -/
def clearOn (k : Core) (r : MxuRun) : Core :=
  let q := r.cmd.array
  let row := r.cmd.dst.accRow + r.pos.getD q 0
  let before := k.m.run.takeWhile fun x => x.cmd.id ≠ r.cmd.id
  let n := ((List.range (r.left q)).takeWhile fun i => !(before.any fun x => touchesRow x q (row + i))).length
  let k1 := (List.range n).foldl (fun k j => k.setAccRow q (row + j) AccRow.cleared) k
  { k1 with m.run := k1.m.run.map fun x =>
      if x.cmd.id = r.cmd.id then { x with pos := x.pos.set q (x.pos.getD q 0 + n) } else x }

/-- R118: every started CLEAR goes on as far as it may. -/
def settleClears (k : Core) : Core := (k.m.run.filter fun r => r.cmd.opc = 0x24).foldl clearOn k

/-- The start conditions of R107 that are not credits. -/
def mxuMayStart (k : Core) (e : EngCmd) : Bool :=
  k.handlesArrived e && k.noHazard .mxu e &&
  (if isStream e then !rowsLeft k e.array && !puntyActive k
   else if e.opc = 0x20 then !puntyActive k && (List.range 4).all fun q =>
     !(k.m.run.any fun r => isMulti r.cmd && decide (0 < r.left q)) && (!bitAt e.imm q || !rowsLeft k q)
   else if isDrain e then !drainLeft k e.array
   else if isMulti e then !puntyActive k && (List.range 4).all fun q => !rowsLeft k q
   else (List.range e.dst.rows).all fun j => !(k.m.run.any fun r => isDrain r.cmd && touchesRow r e.array (e.dst.accRow + j)))

/-- The MXU takes its head command: it leaves the queue and counts as started. -/
def mxuTake (k : Core) (e : EngCmd) : Core :=
  { k with m.queue := k.m.queue.drop 1, m.run := k.m.run ++ [⟨e, [0, 0, 0, 0], false⟩] }

/-- R101, R118: what a command does as it starts: a LOADW loads its weights, a CLEAR clears what it may, and a MULTIPASS
empties the arrays, so that WVALID and WFMT read 0 from its start to the next LOADW's (R135; DESIGN CHOICE, log 64). -/
def mxuBegin (k : Core) (e : EngCmd) : Core :=
  if e.opc = 0x20 then
    let (w, fl) := loadWeights k e
    { k with m.arr := (List.range 4).foldl (fun m q => if bitAt e.imm q then sset ArrW.none m q w else m) k.m.arr }.numFlags fl
  else if isMulti e then { k with m.arr := [] }
  else settleClears k

/-- MXU_START (R107): the head command starts once its conditions hold; the rows of a STREAM, MULTIPASS or DRAIN follow as
TREE_OUTPUT and DRAIN_ROW_READ. -/
def execMxuStart (core : CoreId) (ecc : List EccHit) (s : State) : Answer :=
  match (s.core core).m.queue with
  | [] => .next s
  | e :: _ =>
    if !mxuMayStart (s.core core) e then .next s
    else
      let (ok, s1) :=
        if isStream e then s.needCredit ⟨core.val, e.array⟩ (streamCredit (s.core core) e)
        else if isMulti e then s.needMultipass core
        else (true, s)
      if !ok then .next s1
      else
        let s2 := s1.ocEcc core e ecc
        .next (s2.setCore core (mxuBegin (mxuTake (s2.core core) e) e))

/-! Tree outputs -/

/-- R369: ARRAY_LIMIT; 0 disables it. -/
def Cke.arrayLimit (k : Cke) : Nat := fld k.ctl.toNat 12 4

/-- R130, R369: an array's fault is counted; when the count first reaches ARRAY_LIMIT the CKE records
CKE_ARRAY_SUSPECT with the core and the array. -/
def State.countArrayFault (s : State) (c : CoreId) (q : Nat) : State :=
  let n := satAdd 8 (sget 0 (s.core c).m.arrayFaults q) 1
  let s1 := s.modCore c fun k => { k with m.arrayFaults := sset 0 k.m.arrayFaults q n }
  if n = s.cke.arrayLimit && n ≠ sget 0 (s.core c).m.arrayFaults q then s1.raise 0x0B09 .d 0 (devPayload s.fab.devid 0 0 + (c.val + q <<< 8) <<< 96) else s1

/-- R132: ECC errors in accumulator words a command reads: counted and recorded; a double one also sets HW_ERR. -/
def State.accEcc (s : State) (c : CoreId) (e : EngCmd) (q row : Nat) (es : List (Nat × Bool)) : State :=
  es.foldl (fun t p =>
    if p.2 then
      ((t.modCore c fun k => { k with m.accEccUncorr := satAdd 16 k.m.accEccUncorr 1 }).rowNote c 0x0409 .d e q row).setHealth 3
    else (t.modCore c fun k => { k with m.accEccCorr := satAdd 16 k.m.accEccCorr 1 }).rowNote c 0x0408 .c e q row) s

/-- R132: a row as read with the double-bit words as NaN. -/
def eccRow (r : AccRow) (es : List (Nat × Bool)) : AccRow :=
  es.foldl (fun r p =>
    if !p.2 then r
    else if p.1 = 128 then { r with cs := 0x7FF000000000 }
    else if p.1 = 129 then { r with ct := 0x7FF000000000 }
    else { r with vals := sset 0 r.vals p.1 0x7FF000000000 }) r

/-- R135: an armed injection of a target joins the flips of the first evaluation, and is spent; it waits while the row has
no value in its column (`n` columns). -/
def takeInject (k : Core) (q target n : Nat) (fs : List (Nat × BitVec 48)) : List (Nat × BitVec 48) × Core :=
  match k.m.inj with
  | some i => if i.arr = q ∧ i.target = target ∧ i.col < n then (fs ++ [(i.col, (1 : BitVec 48) <<< 36)], { k with m.inj := none }) else (fs, k)
  | none => (fs, k)

/-- A row of NaN of `n` columns in place of a contribution (R130). -/
def nanRow (o : RowOut) : RowOut := { o with outs := o.outs.map fun _ => .nan }

/-- R493: counts `n` rows entered into an array with `blocks` active blocks. -/
def State.countRows (s : State) (c : CoreId) (q blocks n : Nat) : State :=
  (s.countCore c 3 (maskBit q) n (skidSample 3)).countCore c 4 (maskBit q) (n * blocks) (skidSample 4)

/-- R129, R130: the tree-exit check of one row: the outputs to use and the state with replays and faults counted. -/
def exitCheck (s : State) (c : CoreId) (e : EngCmd) (q row blocks : Nat) (o : RowOut) (u : RowUpset) : RowOut × Bool × State :=
  let (fs, k1) := takeInject (s.core c) q 0 o.outs.length u.first
  let s1 := (s.setCore c k1).countRows c q blocks 1
  let o1 := upsetRow o fs
  if !(k1.m.ctl.getLsbD 0) || exitAgrees o1 then (o1, false, s1)
  else
    let s2 := (((s1.modCore c fun k => { k with m.csumReplays := satAdd 32 k.m.csumReplays 1 }).rowNote c 0x0404 .k e q row).countRows
      c q blocks 12).countCore c 6 (maskBit 0) 1 (skidSample 6)
    let o2 := upsetRow o u.second
    if exitAgrees o2 then (o2, false, s2)
    else (nanRow o2, true, ((s2.countArrayFault c q).rowNote c 0x0405 .d e q row).setHealth 3)

/-- Puts one row's outputs into an accumulator row, after the ECC of what is read. A faulted row (R130) is overwritten
with NaN whatever ACC says; its hidden state (CS, CT, L, span, CHECKABLE, WRITTEN) changes as for a contribution (DESIGN
CHOICE, log 65). -/
def putRow (s : State) (c : CoreId) (e : EngCmd) (q row : Nat) (o : RowOut) (replace neg faulted : Bool) (u : RowUpset) : State :=
  let reads := !replace && !faulted
  let s1 := if reads then s.accEcc c e q row u.ecc else s
  let k := s1.core c
  let r0 := k.accRow q row
  let r := if reads then eccRow r0 u.ecc else r0
  let (r2, fl) :=
    if faulted then
      let (x, f) := contribute r o replace neg
      ({ x with vals := ssetList 0 r.vals 0 (o.outs.map fun _ => 0x7FF000000000) }, f &&& flW48Ovf)
    else contribute r o replace neg
  s1.setCore c ((k.setAccRow q row r2).numFlags (fl ||| o.fl))

/-- R114: the weights a pass of a MULTIPASS uses: the named part of the weight tile. -/
def partWeights (k : Core) (e : EngCmd) (p : Part) : ArrW × Fl :=
  let t := e.src
  let rows := (List.range t.rows).map fun n => partRow k t (wConv e.lo) p n
  let w := rows.zipIdx.foldl (fun m (r, n) => r.zipIdx.foldl (fun m (x, c) => sset numZero m (512 * n + c) x.1) m) []
  let code := if t.fmt = .fp32 then Fmt.bf16.code else t.fcode
  (⟨true, code, t.cols, t.rows, w⟩, flAll (rows.map fun r => ((), flAll r)))

/-- R114, R132: the scratch additions of one destination row, with the ECC errors found in the three rows they read. -/
def scratchStep (s : State) (c : CoreId) (e : EngCmd) (q j n : Nat) (u : RowUpset) : State :=
  let b := e.dst.accRow + j
  let rows := [b, fld e.imm 4 10 + j, fld e.imm 4 10 + mpRows e.src1 + j]
  let hits := fun i => (u.scr.filter fun h => h.1 = i).map Prod.snd
  let s1 := rows.zipIdx.foldl (fun t p => t.accEcc c e q p.1 (hits p.2)) s
  let k := s1.core c
  let row := fun i => eccRow (k.accRow q (rows.getD i 0)) (hits i)
  let (r1, f1) := addScratch (row 0) (row 1) n
  let (r2, f2) := addScratch r1 (row 2) n
  s1.setCore c ((k.setAccRow q b r2).numFlags (f1 ||| f2))

/-- One step of a MULTIPASS in array `q`: pass and row by the position, then the scratch additions after the last pass
of FP32_FULL (R114). -/
def multiStep (s : State) (c : CoreId) (e : EngCmd) (q pos : Nat) (u : RowUpset) : State :=
  let mq := mpArrayRows e q
  let ps := passesOf (e.imm % 4)
  match ps[pos / mq]? with
  | none => s
  | some p =>
    let j := pos % mq
    let k := s.core c
    let (w, fw) := partWeights k e p.w
    let a := partRow k e.src1 (wConv e.lo) p.a (q * mpRows e.src1 + j)
    let o := rowThrough w a
    let o := { o with fl := o.fl ||| fw }
    let row0 := (passRows e p j).headD 0
    let (o1, bad, s1) := exitCheck s c e q row0 w.blocks o u
    let isScr := match p.tgt with
      | .scratch _ => true
      | _ => false
    let replace := p.first && (isScr || !bitAt e.imm 2)
    let s2 := (passRows e p j).foldl (fun t row => putRow t c e q row o1 replace p.neg bad u) s1
    if e.imm % 4 = 0 ∧ pos / mq + 1 = ps.length then scratchStep s2 c e q j w.n u else s2

/-- One step of a STREAM: the next activation row of the tile (R103). -/
def streamStep (s : State) (c : CoreId) (e : EngCmd) (q j : Nat) (u : RowUpset) : State :=
  let k := s.core c
  let o := rowThrough (sget ArrW.none k.m.arr q) (k.rowVals e.src (wFtz e.lo) j)
  let row := e.dst.accRow + j
  let (o1, bad, s1) := exitCheck s c e q row (sget ArrW.none k.m.arr q).blocks o u
  putRow s1 c e q row o1 (!bitAt e.imm 0) false bad u

/-- The position of a started command moved on by one in an array. -/
def bumpRun (k : Core) (id q : Nat) : Core :=
  { k with m.run := k.m.run.map fun r => if r.cmd.id = id then { r with pos := r.pos.set q (r.pos.getD q 0 + 1) } else r }

/-- Rows the next step of a started STREAM or MULTIPASS would change (R108). -/
def nextRows (r : MxuRun) (q : Nat) : List Nat :=
  if isStream r.cmd then [r.cmd.dst.accRow + r.pos.getD q 0] else multiRows r.cmd q (r.pos.getD q 0)

/-- R108: a row is held while an earlier-started DRAIN has still to read an accumulator row it would change, or an
earlier-started CLEAR still to clear one. -/
def heldByDrain (runs : List MxuRun) (r : MxuRun) (q : Nat) : Bool :=
  (runs.takeWhile fun x => x.cmd.id ≠ r.cmd.id).any fun x =>
    (isDrain x.cmd || x.cmd.opc = 0x24) && (nextRows r q).any (touchesRow x q)

/-- R111: an array whose credit has lapsed while its rows were held asks for one again before it admits the next row:
whether it may admit it, and the state that has asked. -/
def rowCredit (s : State) (c : CoreId) (e : EngCmd) (q : Nat) : Bool × State :=
  if s.pwr.credits.any fun x => decide (x.who = ⟨c.val, q⟩) && !x.ballast then (true, s)
  else s.needCredit ⟨c.val, q⟩ (if isMulti e then 768 else streamCredit (s.core c) e)

/-- TREE_OUTPUT (R106): the next row of the array's running STREAM or MULTIPASS enters and leaves the adder tree, is
checked at the tree exit (R129, R130) and goes into its accumulator row. No row enters while a punty load is in progress
(R101, R102), while the row is held (R108), or without a power credit (R111). -/
def execTreeOutput (core : CoreId) (arr : Fin 4) (upset : RowUpset) (s : State) : Answer :=
  let q := arr.val
  let k := s.core core
  match k.m.run.find? (fun r => enters r && decide (0 < r.left q)) with
  | none => .next s
  | some r =>
    if puntyActive k || heldByDrain k.m.run r q then .next s
    else
      let (ok, s0) := rowCredit s core r.cmd q
      if !ok then .next s0
      else
        let pos := r.pos.getD q 0
        let s1 := if isStream r.cmd then streamStep s0 core r.cmd q pos upset else multiStep s0 core r.cmd q pos upset
        .next (s1.modCore core fun k => settleClears (bumpRun k r.cmd.id q))

/-! Draining -/

/-- R128, R131: may a row be compared at a DRAIN that reads `n` columns? -/
def drainComparable (k : Core) (r : AccRow) (n : Nat) : Bool :=
  k.m.ctl.getLsbD 1 && r.checkable && decide (r.span ≤ n) && (w48Val r.cs).isFin && (w48Val r.ct).isFin
    && (List.range r.span).all fun c => (r.val c).isFin

/-- R128: agreement of a row's stored values, as read with flips, with its checksum words. A value that the read makes
non-finite counts as a disagreement, since R131 asks what the row holds and not what a read of it gave; the sum S and the
bound set no W48_OVF, which R127 keeps for the checksum words (DESIGN CHOICE, log 66). -/
def drainAgrees (r : AccRow) (fs : List (Nat × BitVec 48)) : Bool :=
  let vs := (List.range r.span).map fun c => flipNum (r.val c) (flipAt fs c)
  if vs.any fun x => !x.isFin then false
  else csumAgrees (seqSum vs).1 (flipNum (w48Val r.cs) (flipAt fs 128)) (flipNum (w48Val r.ct) (flipAt fs 129)) r.l

/-- R131: the values a DRAIN uses for a row, whether the row failed, and the state with the counters and records. -/
def drainRead (s : State) (c : CoreId) (e : EngCmd) (q row n : Nat) (u : RowUpset) : List Num × Bool × State :=
  -- target 2 of MXU_INJECT alters the stored word
  let k0 := s.core c
  let (stored, k1) := takeInject k0 q 2 128 []
  let r0 := k1.accRow q row
  let k2 := if stored.isEmpty then k1 else
    k1.setAccRow q row { r0 with vals := stored.foldl (fun m p => sset 0 m p.1 ((sget 0 m p.1) ^^^ p.2)) r0.vals }
  let (fs, k3) := takeInject k2 q 1 n u.first
  let s1 := (s.setCore c k3).accEcc c e q row u.ecc
  let r := eccRow (k3.accRow q row) u.ecc
  let vals := fun g => (List.range n).map fun i => flipNum (r.val i) (flipAt g i)
  if !drainComparable k3 r n then
    (vals fs, false, s1.modCore c fun k => { k with m.csumUnchecked := satAdd 32 k.m.csumUnchecked 1 })
  else if drainAgrees r fs then (vals fs, false, s1)
  else if drainAgrees r u.second then
    (vals u.second, false,
      ((s1.modCore c fun k => { k with m.csumRereads := satAdd 32 k.m.csumRereads 1 }).rowNote c 0x0406 .k e q row).countCore
        c 6 (maskBit 1) 1 (skidSample 6))
  else ((List.range n).map fun _ => .nan, true, (s1.rowNote c 0x0407 .d e q row).setHealth 3)

/-- FP32 of a W48 value under RNE and the command's FTZ, with OVF (R48, R126). -/
def toFp32 (ftz : Bool) (x : Num) : Nat × Fl := toIeee ffFp32 true ⟨.rne, ftz, false⟩ 0 x

/-- R48, R52, R159: an FP32 word of the cache in swizzle mode 0 as a command reads it. -/
def Core.fp32Word (k : Core) (ftz : Bool) (a : Nat) : Num × Fl :=
  if k.ocBadIn 0 a 4 then (.nan, flNanIn) else ofFmt .fp32 ftz (ofLE (k.ocRead 0 a 4))

/-- R126, R147: the pair of one row written at its place: maximum and sum, combined with the pair there if asked. -/
def statsPair (k : Core) (ftz : Bool) (line row : Nat) (combine : Bool) (mx sm : Num) : Core × Fl :=
  let a := line * 64 + 8 * row
  let (oldM, fm) := k.fp32Word ftz a
  let (oldS, fs) := k.fp32Word ftz (a + 4)
  let mx2 := if combine then oldM.maximum mx else mx
  let (sm2, f) := if combine then (let (y, g) := w48Add oldS sm; (y, fm ||| fs ||| g)) else (sm, 0)
  let (cm, f1) := toFp32 ftz mx2
  let (cs, f2) := toFp32 ftz sm2
  (k.ocWrite 0 a (leBytes 4 cm ++ leBytes 4 cs), f ||| f1 ||| f2)

/-- The largest of a row under R50, and its W48 sum in ascending column order (R126). -/
def rowMax : List Num → Num
  | [] => .inf true
  | x :: xs => xs.foldl Num.maximum x

/-- DRAIN_ROW_READ (R131): the array's running DRAIN reads its next row, once no earlier-started contribution to it is
outstanding (R123); the row is checked, scaled, converted, written with its statistics (R125, R126) and, under CLR,
cleared. -/
def execDrainRowRead (core : CoreId) (arr : Fin 4) (upset : RowUpset) (s : State) : Answer :=
  let q := arr.val
  let k := s.core core
  match k.m.run.find? (fun r => isDrain r.cmd && decide (0 < r.left q)) with
  | none => .next s
  | some r =>
    let e := r.cmd
    let j := r.pos.getD q 0
    let row := e.src.accRow + j
    if (k.m.run.takeWhile fun x => x.cmd.id ≠ e.id).any (fun x => !isDrain x.cmd && touchesRow x q row) then .next s
    else
      let n := e.src.cols
      let ftz := wFtz e.lo
      let (vs, failed, s1) := drainRead s core e q row n upset
      let k1 := s1.core core
      let fin := if !failed && vs.any Num.isNan then flNanIn else 0
      let (sc, fsc) := if bitAt e.imm 20 then ofFmt .fp32 ftz (fld e.imm 32 32) else (numOne, 0)
      let scaled := vs.map fun v => if bitAt e.imm 20 then w48Mul v sc else (v, 0)
      let xs := scaled.map Prod.fst
      let (k2, f2) := k1.storeRow e.dst (wConv e.lo) (k1.srInt e) j xs
      let st := fld e.imm 17 2
      let (sm, fs) := if st = 0 then (numZero, 0) else seqSum xs
      let (k3, f3) := if st = 0 then (k2, 0) else statsPair k2 ftz (fld e.imm 0 17) j (st = 2) (rowMax xs) sm
      let k4 := if bitAt e.imm 19 then k3.setAccRow q row AccRow.cleared else k3
      .next (s1.setCore core (settleClears (bumpRun (k4.numFlags (fin ||| fsc ||| flAll scaled ||| f2 ||| fs ||| f3)) e.id q)))

end Sys2Proof.Machine
end

