-- ==== Sys2Proof/Machine/Vce.lean ====
section
/-! DEFINITION. The vector chain engine's commands (R150 to R170, R174): dispatch checks, start, and what each does. A
command performs its whole effect as it starts; the interlocks of R75 and R154 keep everyone from seeing the difference. -/

namespace Sys2Proof.Machine

/-! Dispatch -/

/-- R28: formats the VCE reads. -/
def vceReads (f : Fmt) : Bool := f != .bsi16

/-- R28, R152: formats and places the VCE writes. -/
def vceWrites (t : Tile) : Bool := t.fmt != .w48 || t.acc

/-- Do any two regions of a write list and a read list overlap? -/
def anyOverlap (ws rs : List Region) : Bool := ws.any fun w => rs.any w.overlaps

/-- R153: VCE_SELF_OVERLAP. `inPlace` is the exception for VCE_RUN and VCE_SCAN: the destination's handle equals the
source's. The statistics region, which counts as read and written, is not compared with itself. -/
def selfOverlap (k : Core) (lo : Nat) (inPlace : Bool) (stats : List Region) : Bool :=
  match popAll k.q.tq lo with
  | none => false
  | some (a, b, d, _) =>
    let srcs := (match a with | some e => [e] | none => []) ++ (match b with | some e => [e] | none => [])
    let dst := match d with | some e => [regionOf e.handle 1 true] | none => []
    srcs.any (fun x => anyOverlap stats [regionOf x.handle 1 false]
        || (anyOverlap dst [regionOf x.handle 1 false] && !(inPlace && x.handle = hOf d)))
      || anyOverlap dst stats

/-- The statistics region of a VCE_RUN. -/
def runStats (k : Core) (d : Disp) : List Region :=
  match bitAt d.eff 6, popAll k.q.tq d.lo with
  | true, some (a, _, _, _) => [statsRegion (fld d.eff 7 17) (tileOf (hOf a)).rows true]
  | _, _ => []

/-- R152: the shape of QS1 under YMODE. -/
def yShape (x : Tile) (mode : Nat) : Nat × Nat :=
  match mode with
  | 0 => (x.rows, x.cols)
  | 1 => (x.rows, 1)
  | 2 => (1, x.cols)
  | _ => (1, 1)

/-- R28: a source or destination of a VCE command has a format it does not take. -/
def vceFmtBad (a b q : Option Tile) : Bool :=
  (a.any fun t => !vceReads t.fmt) || (b.any fun t => !vceReads t.fmt) || q.any fun t => !vceWrites t

/-- R150, R152, R153: VCE_RUN. -/
def runCodes (k : Core) (d : Disp) : List Nat :=
  let hasY := wQen d.lo 1
  let stats := bitAt d.eff 6
  let ym := fld d.eff 4 2
  fmtCodes k d.lo (fun a b q => vceFmtBad a b q
    || (bitAt d.eff 3 && [a, b, q].any fun o => o.any fun t => t.fmt != .bf16))
  ++ onTiles k d.lo (fun a b q =>
    code? (decide (16384 < a.count) || q.rows != a.rows || q.cols != a.cols
        || (!hasY && ym != 0) || (hasY && (b.rows, b.cols) != yShape a ym)
        || (stats && decide (131072 < fld d.eff 7 17 + (8 * a.rows + 63) / 64))) 0x0501)
  ++ code? (!stats && fld d.eff 7 17 != 0) 0x0304
  ++ code? (selfOverlap k d.lo true (runStats k d)) 0x0502
  ++ code? (!sget false k.v.cfgDispatched (d.eff % 8)) 0x0503
  ++ handleCodes k d.lo 1

/-- R161: VCE_TBLLOAD. -/
def tblCodes (k : Core) (d : Disp) : List Nat :=
  let target := fld d.eff 0 2
  fmtCodes k d.lo (fun a _ _ => a.any fun t => t.fmt != .fp32 && t.fmt != .int32)
  ++ onTiles k d.lo (fun a _ _ => code? (decide (4096 < fld d.eff 3 12 + a.count)) 0x0501)
  ++ code? (target = 3 || (bitAt d.eff 2 && target != 0)) 0x0304
  ++ code? (target = 1 + b2n k.v.lutNext) 0x0504
  ++ handleCodes k d.lo 1

/-- R163: formats a permutation copies. -/
def permFmt : Fmt → Bool
  | .fp32 | .bf16 | .fp16 | .e4m3 | .e5m2 | .int8 | .int32 => true
  | _ => false

/-- R163: VCE_PERM. -/
def permCodes (k : Core) (d : Disp) : List Nat :=
  fmtCodes k d.lo (fun a b q => (a.any fun t => !permFmt t.fmt) || (b.any fun t => t.fmt != .int32)
    || (q.any fun t => !permFmt t.fmt) || bothTiles a q fun x y => y.fmt != x.fmt)
  ++ onTiles k d.lo (fun a b q =>
    code? (q.rows != b.rows || q.cols != b.cols || decide (16384 < a.count) || decide (16384 < b.count)) 0x0501)
  ++ code? (selfOverlap k d.lo false []) 0x0502
  ++ handleCodes k d.lo 1

/-- R166: the result shape of a reduction. -/
def reduceShape (a : Tile) (imm : Nat) : Nat × Nat :=
  let m := if fld imm 1 3 = 2 then 2 else 1
  if bitAt imm 0 then (m, a.cols) else (a.rows, m)

/-- R166: VCE_REDUCE. -/
def reduceCodes (k : Core) (d : Disp) : List Nat :=
  let op := fld d.eff 1 3
  fmtCodes k d.lo (fun a b q => vceFmtBad a b q
    || q.any fun t => ((op = 5 || op = 6) && t.fmt != .int32) || (t.fmt = .w48 && !bitAt d.eff 4))
  ++ onTiles k d.lo (fun a _ q =>
    code? (decide (16384 < a.count) || (q.rows, q.cols) != reduceShape a d.eff) 0x0501)
  ++ code? (op = 7) 0x0304
  ++ code? (selfOverlap k d.lo false []) 0x0502
  ++ handleCodes k d.lo 1

/-- R168, R169: VCE_SCAN. -/
def scanCodes (k : Core) (d : Disp) : List Nat :=
  let op := fld d.eff 0 3
  let hasY := wQen d.lo 1
  fmtCodes k d.lo (fun a b q => vceFmtBad a b q || q.any fun t => t.fmt = .w48 && !bitAt d.eff 5)
  ++ onTiles k d.lo (fun a b q =>
    code? (decide (16384 < a.count) || q.rows != a.rows || q.cols != a.cols
        || hasY != decide (op = 3) || (hasY && (b.rows != a.rows || b.cols != a.cols))
        || (fld d.eff 6 2 != 0 && decide (1024 < a.rows))) 0x0501)
  ++ code? (decide (6 ≤ op)) 0x0304
  ++ code? (selfOverlap k d.lo true []) 0x0502
  ++ handleCodes k d.lo 1

/-- The shadow of R124 after a VCE command that writes an accumulator tile. -/
def markDst (k : Core) (_ : Disp) : Core :=
  match lastCmd k.v.queue with
  | none => k
  | some e => if wQen e.lo 2 then markTile (hOf e.qd) k else k

/-- VCE_CFG (R150): dispatched; the slot counts as configured from now on. -/
def execVceCfg (core : CoreId) (lo imm : Word64) (s : State) : Answer :=
  .next (dispatchWith s core lo imm 0x30 (fun _ _ => []) (fun k _ => engStalls k .vce 1)
    (engDispatch .vce (fun _ d => [lineRegion (fld d.eff 0 17) 1 false]) (fun _ _ => false) (fun _ _ => 0)
      (fun k d => { k with v.cfgDispatched := sset false k.v.cfgDispatched (fld d.eff 17 3) true }) core))

/-- The regions of a VCE_RUN. -/
def runRegions (k : Core) (d : Disp) : List Region :=
  tileRegions k d.lo 1 ++ runStats k d ++ (runStats k d).map fun r => { r with write := false }

/-- VCE_RUN (R151): dispatched; it latches the lookup bank that is active now (R160). -/
def execVceRun (core : CoreId) (lo imm : Word64) (s : State) : Answer :=
  .next (dispatchWith s core lo imm 0x31 runCodes (fun k d => engStalls k .vce (runRegions k d).length)
    (engDispatch .vce runRegions (fun k _ => k.v.lutActive) (fun _ _ => 0) markDst core))

/-- R161: the bank a VCE_TBLLOAD writes. -/
def tblBank (k : Core) (d : Disp) : Bool :=
  match fld d.eff 0 2 with
  | 0 => !k.v.lutNext
  | 1 => false
  | _ => true

/-- R161: does a load swap banks as it completes? -/
def tblSwaps (imm : Nat) : Bool := fld imm 0 2 = 0 && !bitAt imm 2

/-- VCE_TBLLOAD (R161): dispatched; a swapping load decides which bank later loads find inactive. -/
def execVceTblload (core : CoreId) (lo imm : Word64) (s : State) : Answer :=
  .next (dispatchWith s core lo imm 0x32 tblCodes (fun k _ => engStalls k .vce 1)
    (engDispatch .vce (fun k d => tileRegions k d.lo 1) tblBank (fun _ _ => 0)
      (fun k d => if tblSwaps d.eff then { k with v.lutNext := !k.v.lutNext } else k) core))

/-- VCE_PERM (R163): dispatched. -/
def execVcePerm (core : CoreId) (lo imm : Word64) (s : State) : Answer :=
  .next (dispatchWith s core lo imm 0x33 permCodes (fun k _ => engStalls k .vce 3)
    (engDispatch .vce (fun k d => tileRegions k d.lo 1) (fun _ _ => false) (fun _ _ => 0) (fun k _ => k) core))

/-- VCE_REDUCE (R166): dispatched. -/
def execVceReduce (core : CoreId) (lo imm : Word64) (s : State) : Answer :=
  .next (dispatchWith s core lo imm 0x34 reduceCodes (fun k _ => engStalls k .vce 2)
    (engDispatch .vce (fun k d => tileRegions k d.lo 1) (fun _ _ => false) (fun _ _ => 0) markDst core))

/-- VCE_SCAN (R168): dispatched. -/
def execVceScan (core : CoreId) (lo imm : Word64) (s : State) : Answer :=
  .next (dispatchWith s core lo imm 0x35 scanCodes (fun k d => engStalls k .vce (tileRegions k d.lo 1).length)
    (engDispatch .vce (fun k d => tileRegions k d.lo 1) (fun _ _ => false) (fun _ _ => 0) markDst core))

/-! What the commands do -/

/-- A lookup bank. -/
def Core.lut (k : Core) (bank : Bool) : SMap Word32 := if bank then k.v.lut1 else k.v.lut0

/-- R145, R146, R177, R186: the counters of a command's elements. -/
def countLanes (k : Core) (ls : List Lane) : Core :=
  let oor := (ls.map (·.oor)).sum
  { k with
    v.lutOor := satAdd 32 k.v.lutOor oor
    v.sticky := if 0 < oor then k.v.sticky ||| 2 else k.v.sticky
    v.sfuClamps := satAdd 32 k.v.sfuClamps (ls.map (·.clamps)).sum
    v.sfuCompat := satAdd 32 k.v.sfuCompat (ls.map (·.compat)).sum }

/-- R151: the position in QS1 of an element's Y. -/
def yAt (mode r c : Nat) : Nat × Nat :=
  match mode with
  | 0 => (r, c)
  | 1 => (r, 0)
  | 2 => (0, c)
  | _ => (0, 0)

/-- R138 to R148: the lanes of one row of a VCE_RUN, with the flags of reading it. -/
def runRow (k : Core) (e : EngCmd) (ccw r : Nat) : List (Lane × Fl) :=
  let t := e.src
  let pack := bitAt e.imm 3
  let ftz := wFtz e.lo
  let bank := k.lut e.bank
  (List.range t.cols).map fun c =>
    let (x, fx) := chainIn k t pack ftz r c
    let (y, fy) := if wQen e.lo 1 then
        (let p := yAt (fld e.imm 4 2) r c
         chainIn k e.src1 pack ftz p.1 p.2)
      else (0, 0)
    (chainRun k e ccw bank pack ftz (r * t.cols + c) x y, fx ||| fy)

/-- R138, R148: writes one row of chain outputs. -/
def writeRunRow (k : Core) (e : EngCmd) (ccw r : Nat) (ls : List Lane) : Core × Fl :=
  let pack := bitAt e.imm 3
  let outs := ls.map fun l => l.out ccw pack (wFtz e.lo)
  if e.dst.fmt = .int32 then (k.writeCodes e.dst r 0 (outs.map (·.pat)), 0)
  else
    let (k', f) := k.storeRow e.dst (wConv e.lo) (k.srInt e) r (outs.map (·.num))
    (k', outs.foldl (fun a o => a ||| o.fl) f)

/-- R147: writes the statistics of one row. -/
def writeRunStats (k : Core) (e : EngCmd) (ccw r : Nat) (ls : List Lane) : Core × Fl :=
  let op := (stageOf ccw 10).op
  if op = 0 then (k, 0)
  else
    let (sm, f) := seqSum (ls.map (·.rd))
    let (k', g) := statsPair k (wFtz e.lo) (fld e.imm 7 17) r (op = 2) (rowMax (ls.map (·.rd))) sm
    (k', f ||| g)

/-- R156: a VCE_RUN: every element is read before any is written (R153). -/
def runChain (k : Core) (e : EngCmd) (ccw : Nat) : Core :=
  let rows := (List.range e.src.rows).map (runRow k e ccw)
  let fin := rows.zipIdx.foldl (fun (p : Core × Fl) (x : List (Lane × Fl) × Nat) =>
    let ls := x.1.map Prod.fst
    let (k1, f1) := writeRunRow p.1 e ccw x.2 ls
    let (k2, f2) := writeRunStats k1 e ccw x.2 ls
    (k2, p.2 ||| f1 ||| f2 ||| flAll x.1 ||| ls.foldl (fun a l => a ||| l.fl) 0)) (k, 0)
  (countLanes fin.1 (rows.flatten.map Prod.fst)).numFlags fin.2

/-- R159: a code as an engine that copies bits takes it: an uncorrectable element is the canonical NaN, or 0. -/
def rawCode (k : Core) (t : Tile) (r c : Nat) : Nat × Fl :=
  if k.elemBad t r c then
    (match t.fmt.float? with
     | some l => (l.nanCode.getD 0, 0)
     | none => (0, flIntNan))
  else (k.elemCode t r c, 0)

/-- R161, R162: loads a lookup bank. -/
def loadTable (k : Core) (e : EngCmd) : Core :=
  let t := e.src
  let xs := (List.range t.count).map fun i => BitVec.ofNat 32 (k.elemCode t (i / t.cols) (i % t.cols))
  let m := ssetList 0 (k.lut e.bank) (fld e.imm 3 12) xs
  if e.bank then { k with v.lut1 := m } else { k with v.lut0 := m }

/-- Does the source of a VCE_TBLLOAD hold an uncorrectable entry (R159)? -/
def tableBad (k : Core) (t : Tile) : Bool := (List.range t.count).any fun i => k.elemBad t (i / t.cols) (i % t.cols)

/-- One output of a permutation: the element's code, or none out of range (R164). -/
def permOut (data : List (Nat × Fl)) (idx : Int) : Option (Nat × Fl) := if idx < 0 then none else data[idx.toNat]?

/-- R163, R164: a permutation. The result is the core and, under PERM_STRICT, the first position out of range. -/
def permute (k : Core) (e : EngCmd) : Core × Option Nat :=
  let x := e.src
  let y := e.src1
  let d := e.dst
  let data := (List.range x.count).map fun i => rawCode k x (i / x.cols) (i % x.cols)
  let idx := (List.range y.count).map fun j => rawCode k y (j / y.cols) (j % y.cols)
  let outs := idx.map fun i => permOut data (sext 32 i.1)
  let strict := bitAt e.imm 0
  let stop := if strict then outs.findIdx? Option.isNone else none
  let n := stop.getD outs.length
  let oor := if strict then 0 else (outs.filter Option.isNone).length
  let k1 := ((outs.take n).zipIdx).foldl (fun k p =>
    k.writeCodes d (p.2 / d.cols) (p.2 % d.cols) [(p.1.map Prod.fst).getD 0]) k
  let fl := flAll idx ||| flAll ((outs.take n).map fun o => ((), (o.map Prod.snd).getD 0))
  (({ k1 with
      v.permOor := satAdd 32 k1.v.permOor oor
      v.sticky := if 0 < oor then k1.v.sticky ||| 1 else k1.v.sticky }).numFlags fl, stop)

/-- One addition, or one rounding, in the working format of a reduction or scan (R166, R168). -/
def workRound (w48 : Bool) (nanIn infIn : Bool) (x : Num) : Num × Fl :=
  if w48 then w48Round nanIn x else fp32Round nanIn infIn x

/-- R166: a source element of a reduction or scan: INT32 by its signed value, W48 into FP32 where that is the working
format; `exact` leaves integers unrounded, for comparisons and selections. -/
def workIn (k : Core) (t : Tile) (ftz w48 exact : Bool) (r c : Nat) : Num × Fl :=
  let (v, f) := k.elem t ftz r c
  if t.fmt = .int32 then
    (if exact || w48 then (v, f)
     else let (y, g) := fp32Round false false v; (y, f ||| g))
  else if t.fmt = .w48 && !w48 then
    (let (p, g) := toIeee ffFp32 true ⟨.rne, ftz, false⟩ 0 v
     (floatDecode ffFp32 p, f ||| g))
  else (v, f)

/-- A working-format sum of two. -/
def workAdd (w48 : Bool) (x y : Num) : Num × Fl :=
  workRound w48 (x.isNan || y.isNan) (x.isInf || y.isInf) (x.add y)

/-- R166: one level of pairwise addition in the working format. -/
def workPairs (w48 : Bool) : List Num → List Num × Fl
  | x :: y :: rest =>
    let (z, f) := workAdd w48 x y
    let (zs, g) := workPairs w48 rest
    (z :: zs, f ||| g)
  | [x] => ([x], 0)
  | [] => ([], 0)

/-- R166: a pairwise tree over a group. -/
def workTree (w48 : Bool) : Nat → List Num → Num × Fl
  | 0, xs => (xs.headD numZero, 0)
  | n + 1, xs =>
    match xs with
    | [] => (numZero, 0)
    | [x] => (x, 0)
    | _ =>
      let (ys, f) := workPairs w48 xs
      let (z, g) := workTree w48 n ys
      (z, f ||| g)

/-- A working-format sum in ascending order. -/
def workSeq (w48 : Bool) : List Num → Num × Fl
  | [] => (numZero, 0)
  | x :: xs => xs.foldl (fun p y => let (z, f) := workAdd w48 p.1 y; (z, p.2 ||| f)) (x, 0)

/-- R166: the sum along a line: groups of 32 by trees and then in order under AXIS 0, in order under AXIS 1. -/
def workSum (w48 tree : Bool) (xs : List Num) : Num × Fl :=
  let gs := if tree then (List.range ((xs.length + 31) / 32)).map fun g => workTree w48 5 ((xs.drop (32 * g)).take 32)
    else xs.map fun x => (x, 0)
  let (z, f) := workSeq w48 (gs.map Prod.fst)
  let (y, g) := workRound w48 z.isNan z.isInf z
  (y, flAll gs ||| f ||| g)

/-- R166: the index of the maximum or minimum: the first NaN if there is one, else the lowest on ties. -/
def argBest (max : Bool) (xs : List Num) : Nat :=
  match xs.findIdx? Num.isNan with
  | some i => i
  | none => (xs.zipIdx.foldl (fun (b : Option (Num × Nat)) p =>
      match b with
      | none => some p
      | some q => if (if max then q.1.lt p.1 else p.1.lt q.1) then some p else some q) none).elim 0 Prod.snd

/-- R166: the results of one line. -/
def reduceLine (imm : Nat) (xs : List Num) : List Num × Fl :=
  let op := fld imm 1 3
  let w := bitAt imm 4
  let tree := !bitAt imm 0
  let sum := workSum w tree xs
  let sq := workSum w tree (xs.map fun x => x.mul x)
  match op with
  | 0 => ([sum.1], sum.2)
  | 1 => ([sq.1], sq.2)
  | 2 => ([sum.1, sq.1], sum.2 ||| sq.2)
  | 3 => ([rowMax xs], 0)
  | 4 => ([match xs with | [] => .inf false | x :: r => r.foldl Num.minimum x], 0)
  | 5 => ([numOfInt (argBest true xs)], 0)
  | _ => ([numOfInt (argBest false xs)], 0)

/-- R166: a reduction. -/
def reduce (k : Core) (e : EngCmd) : Core :=
  let t := e.src
  let col := bitAt e.imm 0
  let elt := workIn k t (wFtz e.lo) (bitAt e.imm 4) (decide (3 ≤ fld e.imm 1 3))
  let lines := if col then (List.range t.cols).map fun c => (List.range t.rows).map fun r => elt r c
    else (List.range t.rows).map fun r => (List.range t.cols).map fun c => elt r c
  let res := lines.map fun l => reduceLine e.imm (l.map Prod.fst)
  let fl := flAll (lines.map fun l => ((), flAll l)) ||| flAll res
  let rows := if col then (List.range e.dst.rows).map fun i => res.map fun x => x.1.getD i numZero
    else res.map Prod.fst
  let fin := rows.zipIdx.foldl (fun (p : Core × Fl) x =>
    let (k', f) := p.1.storeRow e.dst (wConv e.lo) (k.srInt e) x.2 x.1
    (k', p.2 ||| f)) (k, 0)
  fin.1.numFlags (fl ||| fin.2)

/-- R168: the identity of a scan. -/
def scanIdent (op : Nat) : Num :=
  match op with
  | 1 => .inf true
  | 2 => .inf false
  | 5 => numOne
  | _ => numZero

/-- R168: one update of a scan. -/
def scanStep (op : Nat) (w : Bool) (h x b : Num) : Num × Fl :=
  match op with
  | 0 => workAdd w h x
  | 1 => (h.maximum x, 0)
  | 2 => (h.minimum x, 0)
  | 3 => workRound w (h.isNan || x.isNan || b.isNan) (h.isInf || x.isInf || b.isInf) ((x.mul h).add b)
  | 4 => (x, 0)
  | _ => workRound w (h.isNan || x.isNan) (h.isInf || x.isInf) (h.mul x)

/-- R168: one row scanned in visiting order: what is written at each column, the last h, the flags. -/
def scanRow (op : Nat) (w excl : Bool) (h0 : Num) (xs bs : List Num) : List Num × Num × Fl :=
  xs.zipIdx.foldl (fun (p : List Num × Num × Fl) x =>
    let (h, f) := scanStep op w p.2.1 x.1 (bs.getD x.2 numZero)
    (p.1 ++ [if excl then p.2.1 else h], h, p.2.2 ||| f)) ([], h0, 0)

/-- R168, R169: a scan. -/
def scan (k : Core) (e : EngCmd) : Core :=
  let t := e.src
  let op := fld e.imm 0 3
  let w := bitAt e.imm 5
  let ftz := wFtz e.lo
  let exact := op = 1 || op = 2 || op = 4
  let dir := fun xs : List Num => if bitAt e.imm 3 then xs.reverse else xs
  let fin := (List.range t.rows).foldl (fun (p : Core × Fl) r =>
    let xs := (List.range t.cols).map (workIn k t ftz w exact r)
    let bs := if wQen e.lo 1 then (List.range t.cols).map (workIn k e.src1 ftz w false r) else []
    let c := w48Val (sget 0 k.v.carry r)
    let h0 := if bitAt e.imm 6 then (if w then c else roundIn ffFp32 c) else scanIdent op
    let (ys, h, f) := scanRow op w (bitAt e.imm 4) h0 (dir (xs.map Prod.fst)) (dir (bs.map Prod.fst))
    let (k1, g) := p.1.storeRow e.dst (wConv e.lo) (k.srInt e) r (dir ys)
    let k2 := if bitAt e.imm 7 then { k1 with v.carry := sset 0 k1.v.carry r (w48Code h) } else k1
    (k2, p.2 ||| flAll xs ||| flAll bs ||| f ||| g)) (k, 0)
  fin.1.numFlags fin.2

/-! Start -/

/-- R155, R414: the credit a VCE command needs. -/
def vceCredit (k : Core) (e : EngCmd) : Nat :=
  if e.opc = 0x31 then chainCredit ((sget none k.v.ccw (e.imm % 8)).getD 0) (bitAt e.imm 3)
  else if e.opc = 0x34 || e.opc = 0x35 then 320
  else 192

/-- R154: an earlier-started command still to complete writes what the command reads. -/
def rawBlocked (k : Core) (e : EngCmd) : Bool :=
  k.v.run.any fun f => f.regions.any fun w => w.write && e.regions.any fun r => !r.write && w.overlaps r

/-- R162: a load waits for the commands that latched its bank. -/
def tblBlocked (k : Core) (e : EngCmd) : Bool :=
  e.opc = 0x32 && k.v.run.any fun f => f.opc = 0x31 && f.bank == e.bank

/-- The VCE takes its head command. -/
def vceTake (k : Core) (e : EngCmd) : Core :=
  { k with v.queue := k.v.queue.drop 1, v.run := k.v.run ++ [e] }

/-- R150: the word of a VCE_CFG. -/
def cfgWord (k : Core) (e : EngCmd) : Nat := ofLE (k.ocRead 0 (fld e.imm 0 17 * 64) 64)

/-- What a started VCE command does. -/
def vceRunCmd (s : State) (c : CoreId) (e : EngCmd) : State :=
  let k := s.core c
  if e.opc = 0x30 then
    (if k.ocBadIn 0 (fld e.imm 0 17 * 64) 64 then s.engFault c e 0x0505 noPos
     else s.setCore c { k with v.ccw := sset none k.v.ccw (fld e.imm 17 3) (some (cfgWord k e)) })
  else if e.opc = 0x31 then
    match sget none k.v.ccw (e.imm % 8) with
    | none => s.engFault c e 0x0505 noPos
    | some w =>
      if ccwBad w (bitAt e.imm 3) (wQen e.lo 1) (bitAt e.imm 6) then s.engFault c e 0x0505 noPos
      else s.setCore c (runChain k e w)
  else if e.opc = 0x32 then
    (if tableBad k e.src then s.engFault c e 0x0505 noPos else s.setCore c (loadTable k e))
  else if e.opc = 0x33 then
    (let (k', stop) := permute k e
     match stop with
     | none => s.setCore c k'
     | some j => (s.setCore c k').engFault c e 0x0506 j)
  else if e.opc = 0x34 then s.setCore c (reduce k e)
  else s.setCore c (scan k e)

/-- R493: VCE_ELEMS and VCE_SF of a command: its source elements, and of a chain those its SF stages compute. -/
def State.countVce (s : State) (c : CoreId) (e : EngCmd) : State :=
  let n := if e.opc = 0x30 || e.opc = 0x32 then 0 else e.src.count
  let w := (sget none (s.core c).v.ccw (e.imm % 8)).getD 0
  let sf := if e.opc = 0x31 then ((List.range 11).filter fun i => stageType i == .sf && (stageOf w i).op ≠ 0).length * n else 0
  (s.countCore c 7 (fun u => u = 0 || (bitAt u 0 && e.opc = 0x31)) n (skidSample 7)).countCore c 0x0A (fun _ => true) sf (skidSample 0x0A)

/-- VCE_START (R154, R155; a routine's work starts by its own event): the VCE starts the head command of its queue once its handles have arrived, no earlier
command of another engine or of the VCE itself holds what it needs, and its credit is held. -/
def execVceStart (core : CoreId) (ecc : List EccHit) (s : State) : Answer :=
  let k := s.core core
  match k.v.queue with
  | [] => .next s
  | e :: _ =>
    if e.opc = 0x0B || !(k.handlesArrived e && k.noHazard .vce e) then .next s
    else if rawBlocked k e || tblBlocked k e then .next s
    else
      let (ok, s1) := s.needCredit ⟨core.val, 4⟩ (vceCredit k e)
      if !ok then .next s1
      else
        let s2 := s1.ocEcc core e ecc
        let s3 := s2.countVce core e
        .next (vceRunCmd (s3.modCore core fun k => vceTake k e) core e)

end Sys2Proof.Machine
end

