-- ==== Sys2Proof/Machine/Routines.lean ====
section
/-! DEFINITION. CALL (R89 to R93) and the routines the chain serves: 0x0001 and 0x0004 to 0x0008 (R173), LAYERNORM and
RMSNORM (R189 to R194). What such a routine dispatches is one command of the VCE's queue, which starts by the routine's own
event and completes by COMMAND_COMPLETE. -/

namespace Sys2Proof.Machine

/-! Parameter blocks -/

/-- A little-endian field of a parameter block (R93: offsets in bytes from the block's start). -/
def pbNum (pb : List Byte) (off n : Nat) : Nat := ofLE ((pb.drop off).take n)

/-- R93: bytes a routine's version-1 body needs, header included; none for an ID no ROM routine has (R90). The width of
RESHARD's bandwidth share is not given: one byte (DESIGN CHOICE, log 62). -/
def romBody : Nat → Option Nat
  | 0x01 => some 0x1C | 0x02 => some 0x1C | 0x03 => some 0x1C | 0x04 => some 0x18 | 0x05 => some 0x17
  | 0x06 => some 0x20 | 0x07 => some 0x1C | 0x08 => some 0x15
  | 0x10 => some 0x20 | 0x11 => some 0x19
  | 0x20 => some 0x20 | 0x21 => some 0x20
  | 0x30 => some 0x21 | 0x31 => some 0x1A
  | _ => none

/-- R173: an optional queue field: 0xFF marks it unused. -/
def optQ (x : Nat) : Option Nat := if x = 0xFF then none else some x

/-- R93: the queues a routine pops from, in the order of its body; the optional ones may be absent. -/
def rtQueues (id : Nat) (pb : List Byte) : List (Option Nat) :=
  let q := fun o => pbNum pb o 1
  match id with
  | 1 => [some (q 0x10), some (q 0x11), if q 0x13 = 2 then some (q 0x12) else none]
  | 2 => [some (q 0x10), some (q 0x11), some (q 0x12), some (q 0x13)]
  | 3 => [some (q 0x10), some (q 0x11), some (q 0x12)]
  | 4 => [some (q 0x10), some (q 0x11), optQ (q 0x12), some (q 0x13)]
  | 5 => [some (q 0x10), optQ (q 0x11), optQ (q 0x12)]
  | 6 => [some (q 0x10), some (q 0x11)]
  | 7 => [some (q 0x10), some (q 0x11), optQ (q 0x12), optQ (q 0x13)]
  | 8 => [some (q 0x10), some (q 0x11), optQ (q 0x12), some (q 0x13)]
  | _ => []

/-- Which of those handles go back to their queue: outputs and state tiles (assumption 14). -/
def rtBack : Nat → List Bool
  | 1 => [false, true, false]
  | 2 => [false, true, false, false]
  | 3 => [false, true, false]
  | 4 => [false, false, true, true]
  | 5 => [false, true, true]
  | 6 => [false, true]
  | 7 => [false, false, true, true]
  | 8 => [false, false, true, true]
  | _ => []

/-- R91: the header and the fields that need no tile. A reserved FMT or RND code is a field out of range, PB_INVALID and not
FMT_INVALID, since no handle names it (DESIGN CHOICE, log 61). -/
def pbBad (id : Nat) (pb : List Byte) : Bool :=
  let num := pbNum pb
  num 0 2 != id || num 2 1 != 1 || num 3 1 != 0 || num 6 10 != 0
  || decide (num 4 2 < (romBody id).getD 0)
  || (rtQueues id pb).any (fun q => match q with | some x => decide (56 ≤ x) | none => false)
  || match id with
    | 1 => decide (2 < num 0x13 1) || (fmtOfCode (num 0x14 1)).isNone || (rndOfCode (num 0x15 1)).isNone
    | 2 | 3 =>
      let eps := floatDecode ffFp32 (num 0x18 4)
      (fmtOfCode (num 0x14 1)).isNone || (rndOfCode (num 0x15 1)).isNone || !eps.isFin
        || (eps.negBit && !eps.isZero) || (id = 3 && num 0x13 1 != 0) || decide (1 < num 0x16 1)
    | 4 => decide (1 < num 0x14 1) || num 0x16 2 = 0 || decide (1024 < num 0x16 2)
    | 5 => num 0x14 2 = 0 || decide (1024 < num 0x14 2) || decide (1 < num 0x16 1)
    | 7 => (fmtOfCode (num 0x14 1)).isNone
    | 8 => decide (num 0x14 1 < 2) || decide (16 < num 0x14 1)
    | 0x10 => num 0x18 4 = 0 || decide (65536 < num 0x18 4) || num 0x10 8 % 64 != 0 || num 0x1C 4 % 4 = 3
        || fld (num 0x1C 4) 2 2 != 0 || num 0x1C 4 >>> 8 != 0
    | 0x11 => fmtOfCode (num 0x18 1) != some .fp32 && fmtOfCode (num 0x18 1) != some .bf16
    | 0x20 => num 0x10 8 % 64 != 0 || num 0x18 8 % 64 != 0
    | 0x30 => num 0x10 8 % 64 != 0 || num 0x18 8 % 64 != 0 || decide (100 < num 0x20 1)
    | 0x31 => num 0x10 8 % 64 != 0 || decide (1 < num 0x18 1)
    | _ => false

/-- R91: is the block of an integrator's routine (R90) refused? Its header is checked like any other; the versions, the
length and the fields it takes are the routine's own. -/
def integratorPbBad (id : Nat) (pb : List Byte) : Bool :=
  pbNum pb 0 2 != id || pbNum pb 3 1 != 0 || pbNum pb 6 10 != 0 || decide (pbNum pb 4 2 < 16) || !Config.integratorPb id pb

/-- Pops one handle from each queue in turn, as the routine's commands will. -/
def popSeq (tq : SMap (List QEntry)) : List (Option Nat) → Option (List (Option QEntry) × SMap (List QEntry))
  | [] => some ([], tq)
  | none :: rest => (popSeq tq rest).map fun p => (none :: p.1, p.2)
  | some q :: rest => (popShadow tq q).bind fun (e, t) => (popSeq t rest).map fun p => (some e :: p.1, p.2)

/-- A tile with its element format named by a parameter block. -/
def Tile.withFmt (t : Tile) (f : Nat) : Tile := { t with fcode := f }

/-- R173, R189: PB_INVALID for what a routine finds in its tiles: K above COLS, and for the normalisations a shape or a
format that R189 names. -/
def rtPbBad (id : Nat) (pb : List Byte) (ts : List (Option Tile)) : Bool :=
  let t := fun i => ((ts[i]?).join).getD (tileOf 0)
  let x := t 0
  let o := (t 1).withFmt (pbNum pb 0x14 1)
  let g := fun i => (t i).rows = 1 && (t i).cols = x.cols && ((t i).fmt = .fp32 || (t i).fmt = .bf16)
  match id with
  | 2 | 3 => decide (16384 < x.count) || !(x.rows = (t 1).rows && x.cols = (t 1).cols) || !g 2 || (id = 2 && !g 3)
      || !vceWrites o
  | 5 => decide (x.cols < pbNum pb 0x14 2)
  | _ => false

/-- R28, R152, R173: the codes by which the commands of a routine would be refused for the tiles they find: format and
shape. -/
def rtCodes (id : Nat) (pb : List Byte) (ts : List (Option Tile)) : List Nat :=
  let t := fun i => ((ts[i]?).join).getD (tileOf 0)
  let has := fun i => ((ts[i]?).join).isSome
  let x := t 0
  let same := fun (a b : Tile) => a.rows = b.rows && a.cols = b.cols
  let shape := fun i r c => !has i || ((t i).rows = r && (t i).cols = c)
  let big := decide (16384 < x.count)
  match id with
  | 1 =>
    let o := (t 1).withFmt (pbNum pb 0x14 1)
    code? (!vceReads x.fmt || !vceWrites o) 0x0302
      ++ code? (big || !same x (t 1) || (has 2 && !same x (t 2))) 0x0501
  | 2 | 3 => code? (!vceReads x.fmt) 0x0302
  | 4 => code? (!vceReads x.fmt || !vceReads (t 1).fmt || !vceWrites (t 3)) 0x0302
      ++ code? (big || !same x (t 1) || !same x (t 3) || !shape 2 x.rows 1) 0x0501
  | 5 =>
    let kk := pbNum pb 0x14 2
    code? (!vceReads x.fmt || (has 2 && (t 2).fmt != .int32)) 0x0302
      ++ code? (big || !shape 1 x.rows kk || !shape 2 x.rows kk) 0x0501
  | 6 => code? (!vceReads x.fmt || (t 1).fmt != .int32) 0x0302 ++ code? (big || !shape 1 x.rows 1) 0x0501
  | 7 => code? (!vceReads x.fmt || (t 1).fmt != .int32
        || (has 3 && !vceWrites ((t 3).withFmt (pbNum pb 0x14 1)))) 0x0302
      ++ code? (big || !shape 1 x.rows 1 || !shape 2 x.rows 1 || !shape 3 x.rows x.cols) 0x0501
  | 8 =>
    let w := pbNum pb 0x14 1
    code? (!vceReads x.fmt || !vceReads (t 1).fmt || !vceWrites (t 3)) 0x0302
      ++ code? (big || !same x (t 3) || !shape 1 x.rows w || !shape 2 x.rows (w - 1)) 0x0501
  | _ => []

/-- R68, R69, R92: the codes by which a command of the routine is refused, handles included: the record names the
routine. -/
def rtFaults (id : Nat) (pb : List Byte) (tq : SMap (List QEntry)) : List Nat :=
  match popSeq tq (rtQueues id pb) with
  | none => [0x0305]
  | some (es, _) =>
    let hs := es.filterMap fun e => e
    code? (hs.any fun e => (fmtOfCode (tileOf e.handle).fcode).isNone) 0x0302
      ++ code? (hs.any fun e => handleInvalid e.handle) 0x0308
      ++ code? (hs.any fun e => handleRange e.handle 1) 0x0309
      ++ rtCodes id pb (es.map fun e => e.map fun x => tileOf x.handle)

/-! CALL -/

/-- R89: the parameter block's address. -/
def pbAddr (eff : Nat) : Nat := fld eff 16 46 * 64

/-- R90: is a routine present? ROM routines are, and the integrator routines of the loaded image. -/
def State.routinePresent (s : State) (id : Nat) : Bool := (romBody id).isSome || s.routineIds.contains id

/-- The tiles a routine would find, in the order of its body; none where a queue runs dry. -/
def rtTiles (id : Nat) (pb : List Byte) (tq : SMap (List QEntry)) : Option (List (Option Tile)) :=
  (popSeq tq (rtQueues id pb)).map fun p => p.1.map fun e => e.map fun x => tileOf x.handle

/-- R90, R91, R94: CALL's own checks. Those of the block are made once it has been read (R89). -/
def callCodes (s : State) (k : Core) (d : Disp) : List Nat :=
  let id := d.eff % 65536
  if !s.routinePresent id then [0x030E]
  else match k.q.pbRead with
    | none => []
    | some (_, true) => [0x0310]
    | some (pb, false) => code? (if (romBody id).isNone then integratorPbBad id pb
        else pbBad id pb || (rtTiles id pb k.q.tq).any (rtPbBad id pb)) 0x030F

/-- The tile regions a routine uses: every handle's is read, those that go back to their queue are written. -/
def rtRegions (id : Nat) (es : List (Option QEntry)) : List Region :=
  (es.zip (rtBack id)).flatMap fun p => p.1.toList.flatMap fun x =>
    regionOf x.handle 1 false :: if p.2 then [regionOf x.handle 1 true] else []

/-- Is this one of the routines of the chain, 0x0001 to 0x0008? -/
def isTileRoutine (id : Nat) : Bool := decide (1 ≤ id) && decide (id ≤ 8)

/-- R62, R89: CALL stalls with PB_FETCH until its block has been read; then what a routine of the chain dispatches must
find room in the VCE's queue and on the scoreboard (assumption 48). -/
def callStalls (k : Core) (d : Disp) : List Nat :=
  match k.q.pbRead with
  | none => [8]
  | some (pb, _) =>
    let id := d.eff % 65536
    match isTileRoutine id, popSeq k.q.tq (rtQueues id pb) with
    | true, some (es, _) => engStalls k .vce (rtRegions id es).length
    | _, _ => []

/-- R92: PARAM240 to PARAM255 hold unspecified values after a CALL: 16 fresh free values. -/
def State.clobberParams (s : State) (c : CoreId) : State :=
  let vals := (List.range 16).map fun i => BitVec.ofNat 64 (Config.freeValue (s.fresh + i))
  { s.modCore c fun k => { k with q.params := ssetList 0 k.q.params 240 vals } with fresh := s.fresh + 16 }

/-- R89: the open call ends: the list goes on behind it, unless it has been halted, and its CSIG fires. -/
def State.finishCall (s : State) (c : CoreId) : State :=
  match (s.core c).q.call with
  | none => s
  | some ci =>
    let seq := (s.core c).q.seq
    let s1 := (s.clobberParams c).modCore c fun k =>
      let k1 := dispatched { k with q.call := none } ⟨ci.idx, ci.pass, ci.lo, ci.imm, ci.imm⟩
      if seq = .haltSched || seq = .haltFault then { k1 with q.seq := seq } else k1
    (csigFire s1 c ci.lo).settleRewind

/-- R69, R71, R89: what a routine of the chain dispatches: the handles leave their queues, those that go back will come
with its completion, and the list goes on behind the CALL. -/
def rtDispatch (s : State) (c : CoreId) (k : Core) (d : Disp) (pb : List Byte) : State :=
  let id := d.eff % 65536
  match popSeq k.q.tq (rtQueues id pb) with
  | none => s
  | some (es, tq) =>
    let args := ((rtQueues id pb).zip es).map fun (p : Option Nat × Option QEntry) => p.1.bind fun q => p.2.map fun e => (q, e)
    let x : EngCmd := { mkCmd k d none none none (rtRegions id es) k.v.lutActive 0 with routine := id, args := args, pb := pb }
    let back : List (Nat × QEntry) := (args.zip (rtBack id)).filterMap fun p => if p.2 then p.1 else none
    let k1 := { k with
      q.tq := back.foldl (fun t (p : Nat × QEntry) => pushShadow t p.1 ⟨p.2.handle, some k.q.nextId⟩) tq
      q.nextId := k.q.nextId + 1 }
    (s.setCore c (dispatched (k1.enqueue .vce x) d)).clobberParams c

/-- R89 to R92: a CALL whose block has been read begins: a routine of the chain dispatches its work, unless one of its
commands is refused; the others run until their own event ends them. The commands of an integrator routine (R90) are
not in the spec: its call ends at once with the unspecified PARAM values of R92 (assumption 15). -/
def callBegin (core : CoreId) (s : State) (k0 : Core) (d : Disp) : State :=
  let id := d.eff % 65536
  let pb := (k0.q.pbRead.map Prod.fst).getD []
  let k := { k0 with q.seq := .dispatching, q.stall := 0, q.callId := id, q.pbRead := none }
  if isTileRoutine id then
    match lowest (rtFaults id pb k.q.tq) with
    | some code => (s.setCore core k).cmdFault core code d.idx d.pass (Config.routineOpc id % 256) id noPos
    | none => rtDispatch s core k d pb
  else
    let s1 := s.setCore core { k with q.call := some ⟨id, pb, d.idx, d.pass, d.lo, d.imm, 0⟩ }
    if (romBody id).isNone then s1.finishCall core else s1

/-- Does a core stand at a CALL whose block it has not read? -/
def Core.awaitsBlock (k : Core) : Bool := k.q.seq = .stalled && k.q.stall = 8 && k.q.pbRead.isNone

/-- R89, R232: a sequencer that stalls with PB_FETCH reads the parameter block: its bytes, and whether it came poisoned. -/
def readBlock (s : State) (c : CoreId) (lo imm : Nat) : State :=
  match (s.core c).ready lo imm with
  | none => s
  | some d =>
    if (s.core c).awaitsBlock then
      let r := s.touchLine (pbAddr d.eff) (c.val + 1)
      r.2.modCore c fun k => { k with q.pbRead := some (s.bytesAt (pbAddr d.eff) 64, r.1) }
    else s

/-- CALL (R89): the first event stalls the sequencer and reads the parameter block, the second dispatches the CALL. -/
def execCall (core : CoreId) (lo imm : Word64) (s : State) : Answer :=
  .next (readBlock (dispatchWith s core lo imm 0x0B (callCodes s) callStalls (callBegin core)) core lo.toNat imm.toNat)

/-! Running a routine on tiles -/

/-- A value of a source tile as FP32 (R138). -/
def rtVal (k : Core) (t : Tile) (r c : Nat) : Num × Fl :=
  let (p, f) := chainIn k t false false r c
  (floatDecode ffFp32 p, f)

/-- A row of a source tile. -/
def rtRow (k : Core) (t : Tile) (r : Nat) : List (Num × Fl) := (List.range t.cols).map (rtVal k t r)

/-- The random integers of a routine's output (R46, R193): the CALL's index and pass, the element's position. -/
def rtRnd (k : Core) (ci : CallInfo) (pos : Nat) : Nat :=
  draw k.v.seed.toNat 0 (Config.routineOrd ci.routine) ci.idx ci.pass pos >>> 48

/-- Writes one row of a routine's output. -/
def rtStore (k : Core) (ci : CallInfo) (t : Tile) (rnd : Nat) (r : Nat) (xs : List Num) : Core × Fl :=
  k.storeRow t ⟨(rndOfCode rnd).getD .rne, false, false⟩ (rtRnd k ci) r xs

/-- A normal-mode special function in FP32 inside a routine. -/
def rtSf (f : SfFunc) (x : Num) : Num × Fl × Nat :=
  let (y, fl, c) := sfNormal f false false x
  (y, fl, b2n c)

/-- e^(z − m) of a list, with flags and clamp counts. -/
def rtExps (m : Num) (zs : List Num) : List Num × Fl × Nat :=
  let es := zs.map fun z =>
    let (d, f) := fp32Add z m.negate
    let (y, g, c) := rtSf .exp d
    (y, f ||| g, c)
  (es.map Prod.fst, es.foldl (fun a p => a ||| p.2.1) 0, (es.map fun p => p.2.2).sum)

/-- What a routine leaves: the core, the flags, the clamps and the fallbacks, whether a loss was not finite, and how many
free values it used. -/
structure RtOut where
  core : Core
  fl : Fl
  clamps : Nat
  fallbacks : Nat
  nfLoss : Bool
  used : Nat
  deriving DecidableEq, Repr

/-- A result that only changes the core. -/
def RtOut.of (k : Core) : RtOut := ⟨k, 0, 0, 0, false, 0⟩

/-- Folds a routine over the rows of its input tile; every row is read from the core as it was (R153's rule that reads
come before writes). -/
def rtRows (k : Core) (n : Nat) (f : RtOut → Nat → RtOut) : RtOut := (List.range n).foldl f (RtOut.of k)

/-- Is a value −∞? -/
def isNegInf : Num → Bool
  | .inf true => true
  | _ => false

/-- R173 SOFTMAX: the values of one row before the final rounding. -/
def softmaxRow (zs : List Num) : List Num × Fl × Nat :=
  if zs.any Num.isNan then (zs.map fun _ => .nan, 0, 0)
  else if zs.all isNegInf then (zs.map fun _ => numZero, 0, 0)
  else
    let (es, f, c) := rtExps (rowMax zs) zs
    let (sm, g) := seqSum es
    (es.map fun x => x.div sm, f ||| g, c)

/-- R173 SOFTMAX. -/
def softmax (k : Core) (ci : CallInfo) (ts : List (Option Tile)) : RtOut :=
  let t := fun i => ((ts[i]?).join).getD (tileOf 0)
  let mask := pbNum ci.pb 0x13 1
  let scale := floatDecode ffFp32 (pbNum ci.pb 0x18 4)
  rtRows k (t 0).rows fun o r =>
    let xs := rtRow k (t 0) r
    let zs := xs.zipIdx.map fun (x, j) =>
      if mask = 1 && decide (r < j) then ((Num.inf true : Num), (0 : Fl))
      else
        let (z, f) := fp32Mul scale x.1
        if mask = 2 then
          (let (b, fb) := rtVal k (t 2) r j
           let (y, g) := fp32Add z b
           (y, x.2 ||| f ||| fb ||| g))
        else (z, x.2 ||| f)
    let (ys, f, c) := softmaxRow (zs.map Prod.fst)
    let (k', g) := rtStore o.core ci ((t 1).withFmt (pbNum ci.pb 0x14 1)) (pbNum ci.pb 0x15 1) r ys
    { o with core := k', fl := o.fl ||| flAll zs ||| f ||| g, clamps := o.clamps + c }

/-- A W48 quotient. -/
def w48Div (x y : Num) : Num × Fl := w48Round (x.isNan || y.isNan) (x.div y)

/-- A W48 difference. -/
def w48Sub (x y : Num) : Num × Fl := w48Add x y.negate

/-- FP32 of a W48 value under RNE. -/
def asFp32 (x : Num) : Num × Fl :=
  let (p, f) := toIeee ffFp32 false convPlain 0 x
  (floatDecode ffFp32 p, f)

/-- R192: one row's Welford pass: mean and variance. -/
def welford (xs : List Num) : Num × Num × Fl :=
  let p := xs.zipIdx.foldl (fun (p : Num × Num × Fl) (x : Num × Nat) =>
    let (d, f1) := w48Sub x.1 p.1
    let (q, f2) := w48Div d (numOfInt (x.2 + 1))
    let (mu, f3) := w48Add p.1 q
    let (e, f4) := w48Sub x.1 mu
    let (g, f5) := w48Mul d e
    let (m2, f6) := w48Add p.2.1 g
    (mu, m2, p.2.2 ||| f1 ||| f2 ||| f3 ||| f4 ||| f5 ||| f6)) (numZero, numZero, 0)
  let (v, f) := w48Div p.2.1 (numOfInt xs.length)
  (p.1, v, p.2.2 ||| f)

/-- R190: S and Q of a row in W48, by the order of VCE_REDUCE. -/
def rowSums (xs : List Num) : Num × Num × Fl :=
  let (a, f) := workSum true true xs
  let (b, g) := workSum true true (xs.map fun x => x.mul x)
  (a, b, f ||| g)

/-- R190 to R192: mean, variance, whether the row took the fallback, flags. -/
def rowMoments (stable : Bool) (xs : List Num) : Num × Num × Bool × Fl :=
  let n := numOfInt xs.length
  let (sm, q, f) := rowSums xs
  let (mu, f1) := w48Div sm n
  let (sq, f2) := w48Mul sm mu
  let (d, f3) := w48Sub q sq
  let pos := numZero.lt q
  let falls := !q.isZero && (stable || (pos && d.le numZero) || (pos && (d.scale 24).lt sq))
  if falls then
    let (m, v, g) := welford xs
    (m, v, true, f ||| f1 ||| f2 ||| f3 ||| g)
  else
    let (v, f4) := w48Div d n
    (mu, v, false, f ||| f1 ||| f2 ||| f3 ||| f4)

/-- R193: a LAYERNORM row. -/
def layernormRow (stable : Bool) (eps : Num) (xs gs bs : List Num) : List Num × Fl × Nat × Bool :=
  let (mu, v, fb, f) := rowMoments stable xs
  let (mf, f1) := asFp32 mu
  let (vf, f2) := asFp32 v
  let (ve, f3) := fp32Add vf eps
  let (r, f4, c) := rtSf .rsqrt ve
  let ys := xs.zipIdx.map fun (x, i) =>
    let (d, g1) := fp32Add x mf.negate
    let (t, g2) := fp32Mul d r
    let (y, g3) := fp32Fma t (gs.getD i numZero) (bs.getD i numZero)
    (y, g1 ||| g2 ||| g3)
  (ys.map Prod.fst, f ||| f1 ||| f2 ||| f3 ||| f4 ||| flAll ys, c, fb)

/-- R193: an RMSNORM row. -/
def rmsnormRow (eps : Num) (xs gs : List Num) : List Num × Fl × Nat × Bool :=
  let (_, q, f) := rowSums xs
  let (m, f1) := w48Div q (numOfInt xs.length)
  let (mf, f2) := asFp32 m
  let (me, f3) := fp32Add mf eps
  let (r, f4, c) := rtSf .rsqrt me
  let ys := xs.zipIdx.map fun (x, i) =>
    let (t, g1) := fp32Mul x r
    let (y, g2) := fp32Mul t (gs.getD i numZero)
    (y, g1 ||| g2)
  (ys.map Prod.fst, f ||| f1 ||| f2 ||| f3 ||| f4 ||| flAll ys, c, false)

/-- R190 to R194: LAYERNORM and RMSNORM. A row with a NaN or an infinity writes NaN in every element. -/
def normalise (rms : Bool) (k : Core) (ci : CallInfo) (ts : List (Option Tile)) : RtOut :=
  let t := fun i => ((ts[i]?).join).getD (tileOf 0)
  let eps := floatDecode ffFp32 (pbNum ci.pb 0x18 4)
  let gs := rtRow k (t 2) 0
  let bs := if rms then [] else rtRow k (t 3) 0
  let stable := pbNum ci.pb 0x16 1 % 2 = 1
  rtRows k (t 0).rows fun o r =>
    let xs := rtRow k (t 0) r
    let vals := xs.map Prod.fst
    let (ys, f, c, fb) := if rms then rmsnormRow eps vals (gs.map Prod.fst)
      else layernormRow stable eps vals (gs.map Prod.fst) (bs.map Prod.fst)
    let zs := if vals.all Num.isFin then ys else ys.map fun _ => .nan
    let (k', g) := rtStore o.core ci ((t 1).withFmt (pbNum ci.pb 0x14 1)) (pbNum ci.pb 0x15 1) r zs
    { o with
      core := k'
      fl := o.fl ||| flAll xs ||| flAll gs ||| flAll bs ||| f ||| g
      clamps := o.clamps + c
      fallbacks := o.fallbacks + b2n fb }

/-- R173 LINSCAN: a chunk scanned from +0: local h and prefix products at each column, W48. -/
def chunkScan (as bs : List Num) : List (Num × Num) × Fl :=
  let p := (as.zip bs).foldl (fun (p : List (Num × Num) × (Num × Num) × Fl) ab =>
    let (h, f) := scanStep 3 true p.2.1.1 ab.1 ab.2
    let (g, f2) := scanStep 5 true p.2.1.2 ab.1 numZero
    (p.1 ++ [(h, g)], (h, g), p.2.2 ||| f ||| f2)) ([], (numZero, numOne), 0)
  (p.1, p.2.2)

/-- R173 LINSCAN: one row in chunks: outputs, final h. The last sum of an output is left exact, to be rounded once. -/
def linscanChunks (chunk : Nat) (h0 : Num) (as bs : List Num) : List Num × Num × Fl :=
  (List.range ((as.length + chunk - 1) / chunk)).foldl (fun (p : List Num × Num × Fl) j =>
    let (xs, f) := chunkScan ((as.drop (j * chunk)).take chunk) ((bs.drop (j * chunk)).take chunk)
    let outs := xs.map fun x => (x.2.mul p.2.1).add x.1
    let last := (xs.getLast?).getD (numZero, numOne)
    let (h, g) := scanStep 3 true p.2.1 last.2 last.1
    (p.1 ++ outs, h, p.2.2 ||| f ||| g)) ([], h0, 0)

/-- R173 LINSCAN. CHUNK ≥ COLS is the plain sequential scan of R168. -/
def linscan (k : Core) (ci : CallInfo) (ts : List (Option Tile)) : RtOut :=
  let t := fun i => ((ts[i]?).join).getD (tileOf 0)
  let chunk := pbNum ci.pb 0x16 2
  let dir := fun xs : List Num => if pbNum ci.pb 0x14 1 = 1 then xs.reverse else xs
  rtRows k (t 0).rows fun o r =>
    let as := rtRow k (t 0) r
    let bs := rtRow k (t 1) r
    let h0 := match (ts[2]?).join with
      | some th => rtVal k th r 0
      | none => (numZero, 0)
    let (ys, h, f) := if (t 0).cols ≤ chunk
      then scanRow 3 true false h0.1 (dir (as.map Prod.fst)) (dir (bs.map Prod.fst))
      else linscanChunks chunk h0.1 (dir (as.map Prod.fst)) (dir (bs.map Prod.fst))
    let (k1, g) := rtStore o.core ci (t 3) 0 r (dir ys)
    let (k2, g2) := match (ts[2]?).join with
      | some th => rtStore k1 ci th 0 r [h]
      | none => (k1, 0)
    { o with core := k2, fl := o.fl ||| flAll as ||| flAll bs ||| h0.2 ||| f ||| g ||| g2 }

/-- R173 TOPK: does x come before y in the wanted order? A NaN orders above +∞. -/
def topBefore (largest : Bool) (x y : Num × Nat) : Bool :=
  let lt := fun a b : Num => !a.isNan && (b.isNan || a.lt b)
  let (a, b) := if largest then (y.1, x.1) else (x.1, y.1)
  lt a b || (!lt b a && decide (x.2 < y.2))

/-- Insertion into a sorted list. -/
def topInsert (largest : Bool) (x : Num × Nat) : List (Num × Nat) → List (Num × Nat)
  | [] => [x]
  | y :: ys => if topBefore largest x y then x :: y :: ys else y :: topInsert largest x ys

/-- The values of a row with their columns, in order. -/
def topSort (largest : Bool) (xs : List Num) : List (Num × Nat) :=
  xs.zipIdx.foldr (fun x acc => topInsert largest x acc) []

/-- R173 TOPK. -/
def topk (k : Core) (ci : CallInfo) (ts : List (Option Tile)) : RtOut :=
  let t := fun i => ((ts[i]?).join).getD (tileOf 0)
  let n := pbNum ci.pb 0x14 2
  rtRows k (t 0).rows fun o r =>
    let xs := rtRow k (t 0) r
    let best := (topSort (pbNum ci.pb 0x16 1 = 1) (xs.map Prod.fst)).take n
    let (k1, f) := match (ts[1]?).join with
      | some tv => rtStore o.core ci tv 0 r (best.map Prod.fst)
      | none => (o.core, 0)
    let (k2, g) := match (ts[2]?).join with
      | some ti => rtStore k1 ci ti 0 r (best.map fun x => numOfInt x.2)
      | none => (k1, 0)
    { o with core := k2, fl := o.fl ||| flAll xs ||| f ||| g }

/-- Running sums of a list. -/
def cumSums (xs : List Num) : List Num × Fl :=
  let p := xs.foldl (fun (p : List Num × Num × Fl) x =>
    let (z, f) := w48Add p.2.1 x
    (p.1 ++ [z], z, p.2.2 ||| f)) ([], numZero, 0)
  (p.1, p.2.2)

/-- R173 SAMPLE: the token of a row of finite or −∞ logits, some finite. -/
def sampleRow (kk : Nat) (temp topp u : Num) (xs : List Num) : Int × Fl × Nat :=
  if temp.isZero then (((topSort true xs).head?.map fun p => (p.2 : Int)).getD (-1), 0, 0)
  else
    let zs := xs.map fun x => fp32Round (x.isNan || temp.isNan) (x.isInf || temp.isInf) (x.div temp)
    let order := topSort true (zs.map Prod.fst)
    let top := if kk = 0 then order else order.take kk
    let (es, f, c) := rtExps (rowMax (top.map Prod.fst)) (top.map Prod.fst)
    let byCol := (top.zip es).foldr (fun x acc => topInsert false (numOfInt x.1.2, x.1.2) acc) []
    let (mass, f2) := seqSum (byCol.map fun p => ((top.zip es).find? fun y => y.1.2 = p.2).elim numZero Prod.snd)
    let (cum, f3) := cumSums es
    let (goal, f4) := w48Mul topp mass
    let n := ((cum.findIdx? fun x => goal.le x).getD (cum.length - 1)) + 1
    let total := (cum.take n).getLast?.getD numZero
    let (mark, f5) := w48Mul u total
    let i := ((cum.take n).findIdx? fun x => mark.le x).getD (n - 1)
    ((top[i]?.map fun p => (p.2 : Int)).getD (-1), flAll zs ||| f ||| f2 ||| f3 ||| f4 ||| f5, c)

/-- R173 SAMPLE. A row with a NaN or +∞ beside finite logits has no stated token: it is a free value (assumption 3). -/
def sample (fresh : Nat) (k : Core) (ci : CallInfo) (ts : List (Option Tile)) : RtOut :=
  let t := fun i => ((ts[i]?).join).getD (tileOf 0)
  let temp := floatDecode ffFp32 (pbNum ci.pb 0x18 4)
  let topp := floatDecode ffFp32 (pbNum ci.pb 0x1C 4)
  rtRows k (t 0).rows fun o r =>
    let xs := rtRow k (t 0) r
    let vs := xs.map Prod.fst
    let r32 := draw k.v.seed.toNat 1 (Config.routineOrd ci.routine) ci.idx ci.pass r >>> 32
    let u : Num := .fin false (r32 >>> 8) (-24)
    let stated := vs.all fun x => x.isFin || isNegInf x
    let (tok, f, c) :=
      if !(vs.any Num.isFin) then ((-1 : Int), (0 : Fl), 0)
      else if stated then sampleRow (pbNum ci.pb 0x14 2) temp topp u vs
      else (sext 32 (Config.freeValue (fresh + o.used)), 0, 0)
    let used := if vs.any Num.isFin && !stated then o.used + 1 else o.used
    let k' := o.core.writeCodes (t 1) r 0 [wrapInt 32 tok]
    { o with core := k', fl := o.fl ||| flAll xs ||| f, clamps := o.clamps + c, used := used }

/-- R173 XENT: loss and gradient of one row under smoothing `eps`: the target of column j is (1 − eps)·[j = label] + eps ÷ n
(assumption 16). -/
def xentRow (eps : Num) (label : Nat) (xs : List Num) : Num × List Num × Fl × Nat :=
  let n := numOfInt xs.length
  let m := rowMax xs
  let (es, f, c) := rtExps m xs
  let (sm, f1) := seqSum es
  let (sf, f2) := asFp32 sm
  let (ln, f3, c2) := rtSf .ln sf
  let (lse, f4) := fp32Add m ln
  let (keep, f5) := fp32Add numOne eps.negate
  let (share, f6) := fp32Round eps.isNan eps.isInf (eps.div n)
  let target := fun j => if j = label then fp32Add keep share else (share, 0)
  let dots := xs.zipIdx.map fun (x, j) => let (q, g) := target j; let (z, g2) := w48Mul q x; (z, g ||| g2)
  let (dot, f7) := seqSum (dots.map Prod.fst)
  let (loss, f8) := w48Sub lse dot
  let grads := es.zipIdx.map fun (e, j) =>
    let (p, g) := fp32Round e.isNan e.isInf (e.div sm)
    let (q, g2) := target j
    let (y, g3) := fp32Add p q.negate
    (y, g ||| g2 ||| g3)
  (loss, grads.map Prod.fst,
    f ||| f1 ||| f2 ||| f3 ||| f4 ||| f5 ||| f6 ||| f7 ||| f8 ||| flAll dots ||| flAll grads, c + c2)

/-- R173 XENT: label −1 ignores the row; a label outside the row has no stated result: free values (assumption 3). -/
def xent (fresh : Nat) (k : Core) (ci : CallInfo) (ts : List (Option Tile)) : RtOut :=
  let t := fun i => ((ts[i]?).join).getD (tileOf 0)
  let eps := floatDecode ffFp32 (pbNum ci.pb 0x18 4)
  rtRows k (t 0).rows fun o r =>
    let xs := rtRow k (t 0) r
    let n := (t 0).cols
    let (code, fl) := rawCode k (t 1) r 0
    let lab := sext 32 code
    let inside := decide (0 ≤ lab) && decide (lab < n)
    let free := fun i => floatDecode ffFp32 (Config.freeValue (fresh + o.used + i) % 2 ^ 32)
    let (loss, gs, f, c) :=
      if lab = -1 then (numZero, xs.map fun _ => numZero, (0 : Fl), 0)
      else if inside then xentRow eps lab.toNat (xs.map Prod.fst)
      else (free 0, (List.range n).map fun i => free (i + 1), 0, 0)
    let used := if lab = -1 || inside then o.used else o.used + n + 1
    let (k1, g1) := match (ts[2]?).join with
      | some tl => rtStore o.core ci tl 0 r [loss]
      | none => (o.core, 0)
    let (k2, g2) := match (ts[3]?).join with
      | some tg => rtStore k1 ci (tg.withFmt (pbNum ci.pb 0x14 1)) 0 r gs
      | none => (k1, 0)
    { o with
      core := k2, fl := o.fl ||| flAll xs ||| fl ||| f ||| g1 ||| g2, clamps := o.clamps + c
      nfLoss := o.nfLoss || !loss.isFin, used := used }

/-- R173 CONV1D: y_t as a chain of FP32 FMAs over the weights, inputs before the tile from the state. -/
def conv1dRow (ws prev xs : List Num) : List Num × Fl :=
  let all := prev ++ xs
  let ys := (List.range xs.length).map fun t =>
    ws.zipIdx.foldl (fun (p : Num × Fl) (w : Num × Nat) =>
      let (y, f) := fp32Fma w.1 (all.getD (prev.length + t - w.2) numZero) p.1
      (y, p.2 ||| f)) (numZero, 0)
  (ys.map Prod.fst, flAll ys)

/-- R173 CONV1D. -/
def conv1d (k : Core) (ci : CallInfo) (ts : List (Option Tile)) : RtOut :=
  let t := fun i => ((ts[i]?).join).getD (tileOf 0)
  let w := pbNum ci.pb 0x14 1
  rtRows k (t 0).rows fun o r =>
    let xs := rtRow k (t 0) r
    let ws := rtRow k (t 1) r
    let prev := match (ts[2]?).join with
      | some ts => rtRow k ts r
      | none => List.replicate (w - 1) (numZero, 0)
    let (ys, f) := conv1dRow (ws.map Prod.fst) (prev.map Prod.fst) (xs.map Prod.fst)
    let (k1, g) := rtStore o.core ci (t 3) 0 r ys
    let all := (prev ++ xs).map Prod.fst
    let (k2, g2) := match (ts[2]?).join with
      | some ts => rtStore k1 ci ts 0 r (all.drop (all.length - (w - 1)))
      | none => (k1, 0)
    { o with core := k2, fl := o.fl ||| flAll xs ||| flAll ws ||| flAll prev ||| f ||| g ||| g2 }

/-- R71, R75, R154: may the work of a routine start: its handles have arrived, and no earlier command of another engine,
or of the VCE itself, holds what it needs? -/
def rtMayRun (k : Core) (e : EngCmd) : Bool := k.handlesArrived e && k.noHazard .vce e && !rawBlocked k e

/-- One routine of the chain: starts the work at the head of the VCE's queue if it is of this routine. -/
def runRoutine (s : State) (c : CoreId) (id : Nat)
    (f : Core → CallInfo → List (Option Tile) → RtOut) : State :=
  let k := s.core c
  match k.v.queue with
  | [] => s
  | e :: _ =>
    if e.opc ≠ 0x0B ∨ e.routine ≠ id ∨ !rtMayRun k e then s
    else
      let o := f (vceTake k e) ⟨id, e.pb, e.idx, e.pass, e.lo, e.imm, 0⟩ (e.args.map fun a => a.map fun p => tileOf p.2.handle)
      let marked := (e.args.zip (rtBack id)).foldl (fun k p => match p with
        | (some x, true) => markTile x.2.handle k
        | _ => k) o.core
      let k1 := { marked with
        v.sfuClamps := satAdd 32 k.v.sfuClamps o.clamps
        v.sfuFallbacks := satAdd 32 k.v.sfuFallbacks o.fallbacks }.numFlags o.fl
      let s1 := { s.setCore c k1 with fresh := s.fresh + o.used }
      if o.nfLoss then s1.setHealth 0 else s1

/-- SOFTMAX (R173). -/
def execSoftmax (core : CoreId) (s : State) : Answer := .next (runRoutine s core 1 softmax)

/-- LAYERNORM (R190). -/
def execLayernorm (core : CoreId) (s : State) : Answer := .next (runRoutine s core 2 (normalise false))

/-- RMSNORM (R193). -/
def execRmsnorm (core : CoreId) (s : State) : Answer := .next (runRoutine s core 3 (normalise true))

/-- LINSCAN (R173). -/
def execLinscan (core : CoreId) (s : State) : Answer := .next (runRoutine s core 4 linscan)

/-- TOPK (R173). -/
def execTopk (core : CoreId) (s : State) : Answer := .next (runRoutine s core 5 topk)

/-- SAMPLE (R173). -/
def execSample (core : CoreId) (s : State) : Answer := .next (runRoutine s core 6 (sample s.fresh))

/-- XENT (R173): a loss that is not finite sets NF_LOSS of the health word. -/
def execXent (core : CoreId) (s : State) : Answer := .next (runRoutine s core 7 (xent s.fresh))

/-- CONV1D (R173). -/
def execConv1d (core : CoreId) (s : State) : Answer := .next (runRoutine s core 8 conv1d)

end Sys2Proof.Machine
end

