-- ==== Sys2Proof/Machine/Tmv.lean ====
section
/-! DEFINITION. The tensor mover (07_tensor_mover.md, R197 to R222): dispatch, the check phase that reads and checks a
descriptor, and the access phase that moves the elements, here or with another device. -/

namespace Sys2Proof.Machine

/-! Dispatch -/

def tmvSrcTile (imm : Nat) : Bool := bitAt imm 62
def tmvDstTile (imm : Nat) : Bool := bitAt imm 63
def tmvDloc (imm : Nat) : Bool := bitAt imm 52
def tmvDaddr (imm : Nat) : Nat := fld imm 0 52

/-- R198: FIELD_INVALID of a mover command. -/
def tmvFieldBad (opc lo imm : Nat) : Bool :=
  let st := tmvSrcTile imm
  let dt := tmvDstTile imm
  (wQen lo 0 != st) || (wQen lo 2 != dt) || (wQen lo 3 && !dt) || (wQen lo 4 && !wQen lo 0 && !wQen lo 1)
  || (wQen lo 1 && (opc = 0x40 || opc = 0x43))
  || (opc = 0x41 && st) || (opc = 0x42 && dt) || (opc = 0x43 && st && dt)
  || (!tmvDloc imm && (fld imm 17 35 != 0 || decide (131069 < fld imm 0 17)))
  || (!bitAt imm 53 && fld imm 54 8 != 0)

/-- The checks of a mover command at dispatch. -/
def tmvCodes (opc : Nat) (k : Core) (d : Disp) : List Nat :=
  code? (tmvFieldBad opc d.lo d.eff) 0x0304 ++ handleCodes k d.lo 1

/-- R198, R73: the regions of a mover command: its tiles, and a descriptor that lies in the operand cache. -/
def tmvRegions (k : Core) (d : Disp) : List Region :=
  tileRegions k d.lo 1 ++ (if tmvDloc d.eff then [] else [lineRegion (fld d.eff 0 17) 3 false])

/-- R198: PARAM[APIDX] at dispatch. -/
def tmvAp (k : Core) (d : Disp) : Nat := if bitAt d.eff 53 then (sget 0 k.q.params (fld d.eff 54 8)).toNat else 0

/-- The shadow of R124 after a mover command that writes an accumulator tile. -/
def tmvMark (k : Core) (_ : Disp) : Core :=
  match lastCmd k.t.queue with
  | none => k
  | some e => if wQen e.lo 2 then markTile (hOf e.qd) k else k

/-- Dispatch of one mover opcode. -/
def tmvDispatch (opc : Nat) (core : CoreId) (lo imm : Word64) (s : State) : State :=
  dispatchWith s core lo imm opc (tmvCodes opc) (fun k d => engStalls k .tmv (tmvRegions k d).length)
    (engDispatch .tmv tmvRegions (fun _ _ => false) tmvAp tmvMark core)

/-- TMV_COPY (R202): dispatched. -/
def execTmvCopy (core : CoreId) (lo imm : Word64) (s : State) : Answer := .next (tmvDispatch 0x40 core lo imm s)

/-- TMV_GATHER (R209): dispatched. -/
def execTmvGather (core : CoreId) (lo imm : Word64) (s : State) : Answer := .next (tmvDispatch 0x41 core lo imm s)

/-- TMV_SCATTER (R213): dispatched. -/
def execTmvScatter (core : CoreId) (lo imm : Word64) (s : State) : Answer := .next (tmvDispatch 0x42 core lo imm s)

/-- TMV_REMOTE (R215): dispatched. -/
def execTmvRemote (core : CoreId) (lo imm : Word64) (s : State) : Answer := .next (tmvDispatch 0x43 core lo imm s)

/-! Memory as a mover sees it -/

/-- R226: is an address in the core-local alias? -/
def inAlias (a : Nat) : Bool := decide (aliasBase ≤ a) && decide (a < aliasBase + aliasSize)

/-- R206, R226, R391: is a byte range populated for a core's mover? -/
def State.moverPop (s : State) (a n : Nat) : Bool :=
  if inAlias a then decide (a + n ≤ aliasBase + aliasSize) else s.rangePop a n && s.inWindows a n

/-- A byte as the mover of a core reads it. -/
def State.moverByte (s : State) (c : CoreId) (a : Nat) : Byte :=
  if inAlias a then (s.core c).ocByte (a - aliasBase) else s.seenByte a

/-- R222, R240: is a line that a mover reads delivered poisoned: its mark, or memory that is no longer there? -/
def State.moverBad (s : State) (l : Nat) : Bool := !inAlias (64 * l) && (s.poisoned (64 * l) || !s.populated (64 * l))

/-- Bytes of memory or the alias. -/
def State.moverBytes (s : State) (c : CoreId) (a n : Nat) : List Byte := (List.range n).map fun i => s.moverByte c (a + i)

/-! Descriptors -/

/-- Bytes of an element, or of a block of 32 (R204). -/
def unitBytes (f : Fmt) : Nat := if f.isBlock then f.blockBytes else f.elemBits / 8

/-- Elements along dimension 0 as units: blocks for the formats held in blocks. -/
def unitExt (f : Fmt) (n : Nat) : Nat := if f.isBlock then (n + 31) / 32 else n

/-- R199: lines of a descriptor. -/
def descLen (imm : Nat) : Nat := 64 * (1 + b2n (!tmvSrcTile imm) + b2n (!tmvDstTile imm))

/-- A little-endian field of bytes. -/
def numOf (bs : List Byte) (o n : Nat) : Nat := ofLE ((bs.drop o).take n)

/-- R200: a tensor line at offset `o`, its plane base, and what APEN adds. -/
def lineOf (bs : List Byte) (o plane ap : Nat) : TLine :=
  ⟨(numOf bs o 8 + ap) % 2 ^ 52, (List.range 4).map fun i => numOf bs (o + 8 + 4 * i) 4,
    0 :: (List.range 3).map fun i => numOf bs (o + 24 + 8 * i) 8,
    (List.range 4).map fun i => sext 32 (numOf bs (o + 48 + 4 * i) 4), (plane + ap) % 2 ^ 52⟩

/-- R199, R200: a descriptor's fields. The index list and the block list are filled in by the check phase. -/
def descOf (e : EngCmd) (bs : List Byte) : TDesc :=
  let h := numOf bs 0 8
  let st := tmvSrcTile e.imm
  let dt := tmvDstTile e.imm
  let ap := fun bit => if bitAt e.imm 53 && bitAt h bit then e.ap else 0
  let ext := if st && dt then [e.src.cols, e.src.rows, 1, 1] else (List.range 4).map fun i => numOf bs (8 + 4 * i) 4
  ⟨fld h 8 4, bitAt h 12, bitAt h 13, fld h 14 2, fld h 16 2, fld h 18 2, bitAt h 20,
    (fmtOfCode (fld h 24 4)).getD .fp32, fld h 32 14, ext, (List.range 4).map fun i => numOf bs (24 + 2 * i) 2,
    if st then none else some (lineOf bs 64 (numOf bs 48 8) (ap 21)),
    if dt then none else some (lineOf bs (if st then 64 else 128) (numOf bs (if st then 48 else 56) 8) (ap 22)),
    [], [], fld (numOf bs 32 8) 0 52⟩

/-- INDEX and BLOCK_INDEX read an index tile (R199). -/
def TDesc.usesIdx (d : TDesc) : Bool := d.mode = 1 || d.mode = 3

/-- BLOCK and BLOCK_INDEX read a block list. -/
def TDesc.usesBlocks (d : TDesc) : Bool := d.mode = 2 || d.mode = 3

/-- A member of a list of naturals. -/
def at4 (xs : List Nat) (i : Nat) : Nat := xs.getD i 0

/-- Elements of a box. -/
def TDesc.boxCount (d : TDesc) : Nat := at4 d.e 0 * at4 d.e 1 * at4 d.e 2 * at4 d.e 3

/-- R213: formats ADD, MAX and MIN accept. -/
def combineFmt (mode : Nat) : Fmt → Bool
  | .fp32 | .bf16 | .fp16 | .w48 => true
  | .int32 => decide (2 ≤ mode)
  | _ => false

/-- R199, R201, R207, R209, R213, R215: TMV_DESC_INVALID of the descriptor alone. `own` is this device's ID, `t2` says
that the destination reaches into tier-2 memory. A reserved FMT code is such a value (DESIGN CHOICE, assumption 67). In the
block modes the indexed line's origins are unused: the entries give them (R210). -/
def descBad (e : EngCmd) (bs : List Byte) (own : Nat) (t2 : Bool) : Bool :=
  let d := descOf e bs
  let h := numOf bs 0 8
  let st := tmvSrcTile e.imm
  let dt := tmvDstTile e.imm
  let remote := e.opc = 0x43
  let scatter := e.opc = 0x42
  let gs := e.opc = 0x41 || scatter
  let modeOk := if gs then decide (1 ≤ d.mode ∧ d.mode ≤ 3) else d.mode = 0
  let blk := d.fmt.isBlock
  let exts := (List.range 4).map fun i => numOf bs (8 + 4 * i) 4
  let ixOff := if e.opc = 0x41 || st then 64 else 128
  let lineBad := fun (o : Nat) => numOf bs o 8 >>> 52 != 0
    || (d.usesBlocks && o = ixOff && numOf bs (o + 48) 16 != 0) || (List.range 4).any fun i => numOf bs (o + 8 + 4 * i) 4 = 0
  let pl := d.pads
  fld h 0 8 != 1 || bitAt h 23 || fld h 28 4 != 0 || fld h 46 18 != 0 || numOf bs 44 4 != 0
  || !modeOk || (fmtOfCode (fld h 24 4)).isNone
  || (!remote && (bitAt h 20 || d.devid != 0)) || (remote && d.devid = own)
  || (d.usesIdx && d.idxpol = 3) || (!d.usesIdx && (d.idxpol != 0 || d.idim != 0))
  || (!scatter && d.combine != 0)
  || (scatter && (if d.combine = 0 then wRnd e.lo != 0 || wFtz e.lo
      else !combineFmt d.combine d.fmt || t2 || (d.combine != 1 && wRnd e.lo != 0)))
  || (!(bitAt e.imm 53 && !st) && bitAt h 21) || (!(bitAt e.imm 53 && !dt) && bitAt h 22)
  || (if st && dt then exts.any (· != 0) || pl.any (· != 0) || d.padSkip
      else exts.any (· = 0) || decide (2 ^ 32 < d.boxCount))
  || (dt && pl.any (· != 0))
  || (let e0 := if d.transpose && !st then at4 d.e 1 else at4 d.e 0
      let e1 := if d.transpose && !st then at4 d.e 0 else at4 d.e 1
      !dt && (decide (e0 < at4 pl 0 + at4 pl 1) || decide (e1 < at4 pl 2 + at4 pl 3)))
  || (!d.usesBlocks && (numOf bs 32 8 != 0 || numOf bs 40 4 != 0))
  || (d.usesBlocks && (numOf bs 32 8 >>> 52 != 0 || numOf bs 40 4 = 0 || decide (65536 < numOf bs 40 4)
      || decide (128 < at4 d.e 0) || decide (128 < at4 d.e 1) || at4 d.e 2 != 1 || at4 d.e 3 != 1))
  || (d.mode = 3 && decide (1 < d.idim))
  || (d.usesIdx && !wQen e.lo 1) || (d.mode = 2 && wQen e.lo 1)
  || (!st && lineBad 64) || (!dt && lineBad (if st then 64 else 128))
  || numOf bs 48 8 >>> 52 != 0 || numOf bs 56 8 >>> 52 != 0
  || (!(blk && !(st && dt)) && numOf bs 48 8 != 0) || (!(blk && !st && !dt) && numOf bs 56 8 != 0)

/-- The tensor lines of a descriptor. -/
def TDesc.lines (d : TDesc) : List TLine := (match d.src with | some l => [l] | none => []) ++ (match d.dst with | some l => [l] | none => [])

/-- Is the source the indexed side (a gather), or the destination (a scatter)? -/
def indexedLine (e : EngCmd) (d : TDesc) : Option TLine := if e.opc = 0x41 then d.src else d.dst

/-- R205: the extent along dimension 0 is in whole blocks, or reaches the tensor's edge from an origin. -/
def wholeBlocks (d : TDesc) (l : TLine) (o : Int) : Bool :=
  at4 d.e 0 % 32 = 0 || decide (o + (at4 d.e 0 : Int) = (at4 l.n 0 : Int))

/-- R205: ALIGN but for what the block list's entries give. In the block modes those give the indexed line's origins. -/
def alignBad (e : EngCmd) (bs : List Byte) (d : TDesc) : Bool :=
  let blk := d.fmt.isBlock
  let fixed := if d.usesBlocks then (if e.opc = 0x41 then d.dst.toList else d.src.toList) else d.lines
  (tmvDloc e.imm && tmvDaddr e.imm % 64 != 0)
  || d.lines.any (fun l => l.base % 64 != 0 || l.st.any (fun x => x % 64 != 0) || (blk && l.plane % 64 != 0))
  || (d.usesBlocks && numOf bs 32 8 % 64 != 0)
  || (blk && (fixed.any (fun l => l.o.headD 0 % 32 != 0 || !wholeBlocks d l (l.o.headD 0))
      || at4 d.pads 0 % 32 != 0 || at4 d.pads 1 % 32 != 0))

/-- R205: ALIGN of a block-list entry, whose O0 is the origin. -/
def entryMisaligned (e : EngCmd) (d : TDesc) (b : List Int × Nat) : Bool :=
  d.fmt.isBlock && (b.1.headD 0 % 32 != 0 || (indexedLine e d).any fun l => !wholeBlocks d l (b.1.headD 0))

/-- R210: the block list: origins and IOFF of each entry. -/
def blocksOf (bs : List Byte) (n : Nat) : List (List Int × Nat) :=
  (List.range n).map fun b => ((List.range 4).map fun i => sext 32 (numOf bs (32 * b + 4 * i) 4), numOf bs (32 * b + 16) 4)

/-- R210: TMV_DESC_INVALID of block-list entry `b`: reserved bytes, an unused IOFF, or indices beyond the `m` there are. -/
def entryBad (bs : List Byte) (d : TDesc) (m b : Nat) : Bool :=
  numOf bs (32 * b + 20) 12 != 0 || (d.mode != 3 && numOf bs (32 * b + 16) 4 != 0)
    || (d.mode = 3 && decide (m < numOf bs (32 * b + 16) 4 + at4 d.e d.idim))

/-- R202, R209, R210: rows of a tile side for one block. -/
def blockRows (d : TDesc) : Nat := if d.transpose then at4 d.e 0 * at4 d.e 2 * at4 d.e 3 else at4 d.e 1 * at4 d.e 2 * at4 d.e 3

/-- Number of boxes a command moves. -/
def TDesc.boxes (d : TDesc) : Nat := if d.usesBlocks then d.blocks.length else 1

/-- R202: the shape a tile side must have. -/
def tileShape (d : TDesc) : Nat × Nat := (blockRows d * d.boxes, if d.transpose then at4 d.e 1 else at4 d.e 0)

/-- R202, R209: TMV_SHAPE. -/
def shapeBad (e : EngCmd) (d : TDesc) : Bool :=
  let st := tmvSrcTile e.imm
  let dt := tmvDstTile e.imm
  let tile := fun (t : Tile) => (t.rows, t.cols) != tileShape d
  (if st && dt then (e.dst.rows, e.dst.cols) != (if d.transpose then (e.src.cols, e.src.rows) else (e.src.rows, e.src.cols))
   else (st && tile e.src) || (dt && tile e.dst))
  || (d.mode = 1 && e.src1.count != at4 d.e d.idim)

/-- R203: TMV_FORMAT. -/
def formatBad (e : EngCmd) (d : TDesc) : Bool :=
  (tmvSrcTile e.imm && e.src.fmt != d.fmt) || (tmvDstTile e.imm && e.dst.fmt != d.fmt)
  || (d.transpose && d.fmt.isBlock) || (wQen e.lo 1 && e.src1.fmt != .int32)
  || (d.usesIdx && d.idim = 0 && d.fmt.isBlock)

/-! Indices -/

/-- R211, R223: the policy in force: that of TMV_IDXPOL as it stood at the dispatch, if it overrides. -/
def idxPolicy (e : EngCmd) (d : TDesc) : Nat := if bitAt e.pol 0 then fld e.pol 1 2 else d.idxpol

/-- R211: the coordinate of an index value under a policy; none if it is dropped. -/
def resolveIdx (pol n : Nat) (i : Int) : Option Nat :=
  if 0 ≤ i ∧ i < n then some i.toNat
  else if pol = 1 then some (i % (n : Int)).toNat
  else none

/-- R211: the index positions a command uses, one per occurrence. -/
def idxUses (d : TDesc) : List Nat :=
  if d.mode = 1 then List.range d.idx.length
  else if d.mode = 3 then (d.blocks.map fun b => (List.range (at4 d.e d.idim)).map fun j => b.2 + j).flatten
  else []

/-- R211: how many uses are negative, how many too large, and the first that is either. -/
def idxCounts (d : TDesc) (n : Nat) : Nat × Nat × Option Nat :=
  let us := idxUses d
  let v := fun i => d.idx.getD i 0
  ((us.filter fun i => decide (v i < 0)).length, (us.filter fun i => decide ((n : Int) ≤ v i)).length,
    us.find? fun i => decide (v i < 0) || decide ((n : Int) ≤ v i))

/-! Addresses -/

/-- The address of a unit and of its plane byte (R204); the coordinate along dimension 0 counts units. -/
def unitAddr (f : Fmt) (l : TLine) (x : List Nat) : Nat :=
  l.base + at4 x 0 * unitBytes f + at4 x 1 * at4 l.st 1 + at4 x 2 * at4 l.st 2 + at4 x 3 * at4 l.st 3

def planeStride (l : TLine) : Nat := ((at4 l.n 0 + 31) / 32 + 63) / 64 * 64

def unitPlane (l : TLine) (x : List Nat) : Nat :=
  l.plane + (at4 x 1 + at4 l.n 1 * (at4 x 2 + at4 l.n 2 * at4 x 3)) * planeStride l + at4 x 0

/-- The position of number `i` in box order (R202), over extents in units. -/
def boxPos (e : List Nat) (i : Nat) : List Nat :=
  [i % at4 e 0, i / at4 e 0 % at4 e 1, i / (at4 e 0 * at4 e 1) % at4 e 2, i / (at4 e 0 * at4 e 1 * at4 e 2) % at4 e 3]

/-- Exchange of the two innermost coordinates. -/
def swap01 (p : List Nat) : List Nat := [at4 p 1, at4 p 0, at4 p 2, at4 p 3]

/-- Extents in units. -/
def TDesc.unitExts (d : TDesc) : List Nat := d.e.set 0 (unitExt d.fmt (at4 d.e 0))

/-- R202, R207, R209, R210: the coordinates of a side at box position `p` of block `b`, where `q` is the position on that
side; none out of bounds or for a dropped index. -/
def sideCoord (d : TDesc) (l : TLine) (indexed : Bool) (pol b : Nat) (p q : List Nat) : Option (List Nat) :=
  let o := if indexed && d.usesBlocks then (d.blocks.getD b ([], 0)).1 else l.o
  let ioff := if d.mode = 3 then (d.blocks.getD b ([], 0)).2 else 0
  let u := fun i x : Int => if i = 0 ∧ d.fmt.isBlock then x / 32 else x
  let n := fun i => if i = 0 then unitExt d.fmt (at4 l.n 0) else at4 l.n i
  (List.range 4).mapM fun i =>
    if indexed && d.usesIdx && i = d.idim then
      resolveIdx pol (at4 l.n i) (d.idx.getD (ioff + at4 p i) 0)
    else
      let x := u i (o.getD i 0) + (at4 q i : Int)
      if 0 ≤ x ∧ x < n i then some x.toNat else none

/-- R202: the tile element that holds a position. -/
def tileEl (d : TDesc) (tr : Bool) (b : Nat) (p : List Nat) : Nat × Nat :=
  if tr then (at4 p 0 + at4 d.e 0 * (at4 p 2 + at4 d.e 2 * at4 p 3) + b * blockRows d, at4 p 1)
  else (at4 p 1 + at4 d.e 1 * (at4 p 2 + at4 d.e 2 * at4 p 3) + b * blockRows d, at4 p 0)

/-- R207: is a destination position marked padding? Extents and position are of the destination box. -/
def markedPad (d : TDesc) (swapped : Bool) (q : List Nat) : Bool :=
  let e0 := if swapped then at4 d.e 1 else at4 d.e 0
  let e1 := if swapped then at4 d.e 0 else at4 d.e 1
  let q0 := if d.fmt.isBlock then 32 * at4 q 0 else at4 q 0
  decide (q0 < at4 d.pads 0) || decide (e0 ≤ q0 + at4 d.pads 1)
    || decide (at4 q 1 < at4 d.pads 2) || decide (e1 ≤ at4 q 1 + at4 d.pads 3)

/-- Where a unit comes from or goes to. -/
inductive Loc where
  | tile (r c : Nat)
  | mem (addr plane : Nat)
  deriving DecidableEq, Repr

/-- One write of a command: destination, source (none: all-zero bits), and its linear position in the box. -/
structure Move where
  dst : Loc
  src : Option Loc
  pos : Nat
  deriving DecidableEq, Repr

/-- R202 to R210: the writes of a command in box order, block by block. -/
def movesOf (e : EngCmd) (d : TDesc) (pol : Nat) : List Move :=
  let st := tmvSrcTile e.imm
  let dt := tmvDstTile e.imm
  let memMem := !st && !dt
  let ue := d.unitExts
  let n := at4 ue 0 * at4 ue 1 * at4 ue 2 * at4 ue 3
  ((List.range d.boxes).map fun b => (List.range n).filterMap fun i =>
    let p := boxPos ue i
    let q := if memMem && d.transpose then swap01 p else p
    let mem := fun (l : TLine) (indexed : Bool) (pp : List Nat) =>
      (sideCoord d l indexed pol b p pp).map fun x => Loc.mem (unitAddr d.fmt l x) (unitPlane l x)
    let src : Option Loc := match d.src with
      | none => some (let rc := tileEl d (d.transpose && !dt) b p; .tile rc.1 rc.2)
      | some l => mem l (e.opc = 0x41) p
    let dst : Option Loc := match d.dst with
      | none => some (let rc := tileEl d d.transpose b p; .tile rc.1 rc.2)
      | some l => mem l (e.opc = 0x42) q
    let pad := src.isNone || (!dt && markedPad d (memMem && d.transpose) q)
    match dst with
    | none => none
    | some x => if pad && d.padSkip then none else some ⟨x, src, b * n + i⟩).flatten

/-! Ranges and hazards -/

/-- R217: a range of memory, here or on another device. -/
structure MRange where
  dev : Option Nat
  lo : Nat
  hi : Nat
  write : Bool
  deriving DecidableEq, Repr

def MRange.conflicts (a b : MRange) : Bool :=
  decide (a.dev = b.dev) && decide (a.lo < b.hi) && decide (b.lo < a.hi) && (a.write || b.write)

/-- R206, R217: lowest and highest in-bounds coordinates of a box side in units; none if the box misses the tensor. -/
def boxBounds (d : TDesc) (l : TLine) (swapped : Bool) : Option (List Nat × List Nat) :=
  let ue := if swapped then swap01 d.unitExts else d.unitExts
  let o := fun i => if i = 0 ∧ d.fmt.isBlock then l.o.getD i 0 / 32 else l.o.getD i 0
  let n := fun i => if i = 0 then unitExt d.fmt (at4 l.n 0) else at4 l.n i
  let lo := (List.range 4).map fun i => (max 0 (o i)).toNat
  let hi := (List.range 4).map fun i => min (n i : Int) (o i + at4 ue i)
  if (List.range 4).all fun i => decide ((at4 lo i : Int) < hi.getD i 0) then some (lo, hi.map fun x => (x - 1).toNat) else none

/-- R217: a side's range of bytes with its plane, rounded out to lines. `whole` takes the whole tensor. -/
def sideRanges (d : TDesc) (l : TLine) (whole swapped write : Bool) (dev : Option Nat) : List MRange :=
  let top := [unitExt d.fmt (at4 l.n 0) - 1, at4 l.n 1 - 1, at4 l.n 2 - 1, at4 l.n 3 - 1]
  match (if whole then some ([0, 0, 0, 0], top) else boxBounds d l swapped) with
  | none => []
  | some (lo, hi) =>
    let r := fun a b => (⟨dev, a / 64 * 64, (b + 63) / 64 * 64, write⟩ : MRange)
    [r (unitAddr d.fmt l lo) (unitAddr d.fmt l hi + unitBytes d.fmt)]
      ++ (if d.fmt.isBlock then [r (unitPlane l lo) (unitPlane l hi + 1)] else [])

/-- R217: all memory ranges of a command. -/
def memRanges (e : EngCmd) (d : TDesc) : List MRange :=
  let memMem := d.src.isSome && d.dst.isSome
  let whole := fun op => e.opc = op && d.mode != 0
  let rem := fun (g : Bool) => if e.opc = 0x43 && d.get == g then some d.devid else none
  (match d.src with | some l => sideRanges d l (whole 0x41) false false (rem true) | none => [])
  ++ (match d.dst with | some l => sideRanges d l (whole 0x42) (memMem && d.transpose) true (rem false) | none => [])

/-- R226: memory ranges in the alias are the operand-cache lines they cover. -/
def splitAlias (rs : List MRange) : List Region × List MRange :=
  (rs.filterMap fun r => if r.dev.isNone && inAlias r.lo then some ⟨false, 0, r.lo - aliasBase, r.hi - aliasBase, r.write⟩ else none,
   rs.filter fun r => !(r.dev.isNone && inAlias r.lo))

/-- Do two sets of regions and ranges conflict? -/
def rangesConflict (a b : List Region × List MRange) : Bool :=
  a.1.any (fun x => b.1.any x.conflicts) || a.2.any (fun x => b.2.any x.conflicts)

/-- R217: the descriptor in memory and the block list, both read. -/
def listRanges (e : EngCmd) (list : Option (Nat × Nat)) : List MRange :=
  let a := tmvDaddr e.imm
  (if tmvDloc e.imm then [⟨none, a / 64 * 64, a + 192, false⟩] else [])
    ++ (match list with | some (x, n) => [⟨none, x, x + n, false⟩] | none => [])

/-- R217: what a command with its descriptor accesses. -/
def tmvRanges (e : EngCmd) (d : TDesc) : List Region × List MRange :=
  let m := splitAlias (memRanges e d ++ listRanges e (if d.usesBlocks then some (d.blist, 32 * d.blocks.length) else none))
  (e.regions ++ m.1, m.2)

/-- R217: what the check phase reads: the descriptor, the index tile, and the block list. -/
def checkRanges (e : EngCmd) (list : Option (Nat × Nat)) : List Region × List MRange :=
  let m := splitAlias (listRanges e list)
  ((if tmvDloc e.imm then [] else [lineRegion (fld e.imm 0 17) 3 false])
    ++ (if wQen e.lo 1 then [regionOf (hOf e.qs1) 1 false] else []) ++ m.1, m.2)

/-- R206: the rows along dimension 0 of a side's in-bounds elements, or of the whole tensor: address and units of each, and
the address of its plane bytes. -/
def sideRows (d : TDesc) (l : TLine) (whole swapped : Bool) : List (Nat × Nat × Nat) :=
  let top := [unitExt d.fmt (at4 l.n 0) - 1, at4 l.n 1 - 1, at4 l.n 2 - 1, at4 l.n 3 - 1]
  match (if whole then some ([0, 0, 0, 0], top) else boxBounds d l swapped) with
  | none => []
  | some (lo, hi) =>
    let span := fun i => (List.range (at4 hi i + 1 - at4 lo i)).map (at4 lo i + ·)
    (span 3).flatMap fun x3 => (span 2).flatMap fun x2 => (span 1).map fun x1 =>
      let x := [at4 lo 0, x1, x2, x3]
      (unitAddr d.fmt l x, at4 hi 0 + 1 - at4 lo 0, unitPlane l x)

/-- R206: TMV_ADDR: an in-bounds element of a local memory side, its plane, or under an index or block mode the whole
tensor, is not populated. -/
def addrBad (s : State) (e : EngCmd) (d : TDesc) : Bool :=
  let memMem := d.src.isSome && d.dst.isSome
  let sideBad := fun (l : TLine) (whole swapped : Bool) => (sideRows d l whole swapped).any fun r =>
    !s.moverPop r.1 (r.2.1 * unitBytes d.fmt) || (d.fmt.isBlock && !s.moverPop r.2.2 r.2.1)
  let remoteSrc := e.opc = 0x43 && d.get
  let remoteDst := e.opc = 0x43 && !d.get
  (match d.src with | some l => !remoteSrc && sideBad l (e.opc = 0x41) false | none => false)
  || (match d.dst with | some l => !remoteDst && sideBad l (e.opc = 0x42) (memMem && d.transpose) | none => false)

/-- R213, R239: does the destination of a scatter reach into tier-2 memory? -/
def dstInTier2 (s : State) (d : TDesc) : Bool :=
  match d.dst with
  | none => false
  | some l => (sideRows d l true false).any fun r =>
      [r.1, r.1 + r.2.1 * unitBytes d.fmt - 1].any fun a => match s.place a with
        | .tier2 _ => true
        | .hbm _ | .hole => false

/-! Check phase -/

/-- Reads bytes for the check phase: the bytes, whether a line was poisoned, the state after the read. -/
def checkRead (s : State) (c : CoreId) (a n : Nat) : List Byte × Bool × State :=
  if inAlias a then (s.moverBytes c a n, false, s)
  else
    let (b, t) := s.touchRange a n (c.val + 1)
    (t.bytesAt a n, b, t)

/-- The index tile's values (R209); an uncorrectable one reads as 0 (R159). -/
def idxTile (k : Core) (t : Tile) : List Int :=
  (List.range t.count).map fun j => if k.elemBad t (j / t.cols) (j % t.cols) then 0 else sext 32 (k.elemCode t (j / t.cols) (j % t.cols))

/-- R222: a poisoned line the mover reads: sticky bit and health. -/
def State.poisonMark (s : State) (c : CoreId) : State :=
  (s.modCore c fun k => { k with t.sticky := k.t.sticky ||| 4 }).setHealth 3

/-- R222: a command that used a poisoned line faults. -/
def State.tmvPoison (s : State) (c : CoreId) (e : EngCmd) : State := (s.poisonMark c).engFault c e 0x0608 noPos

/-- R201, R209, R211, R225: the last part of the check phase: index counters, index policy, addresses; the command then
goes on to its access phase. -/
def checkIndex (s : State) (c : CoreId) (e : EngCmd) (d : TDesc) : State :=
  let n := match indexedLine e d with
    | some l => at4 l.n d.idim
    | none => 0
  let (neg, oor, first) := if d.usesIdx then idxCounts d n else (0, 0, none)
  let s1 := s.modCore c fun k => { k with
    t.idxNeg := satAdd 32 k.t.idxNeg neg
    t.idxOor := satAdd 32 k.t.idxOor oor
    t.sticky := k.t.sticky ||| (if 0 < neg then 1 else 0) ||| (if 0 < oor then 2 else 0) }
  match first, idxPolicy e d with
  | some p, 2 => s1.engFault c e 0x0605 p
  | _, _ =>
    if addrBad s e d then s1.engFault c e 0x0606 noPos
    else s1.modCore c fun k => { k with
      t.queue := k.t.queue.drop 1
      t.run := k.t.run ++ [⟨e, { d with idxpol := idxPolicy e d }, false, [], []⟩] }

/-- Blocks of a descriptor that uses a block list (R210). -/
def blockCount (e : EngCmd) (bs : List Byte) : Nat := if (descOf e bs).usesBlocks then numOf bs 40 4 else 0

/-- The descriptor with the index tile and block list it names (R199 to R201). -/
def fullDesc (k : Core) (e : EngCmd) (bs lst : List Byte) : TDesc :=
  { descOf e bs with
    idx := if wQen e.lo 1 then idxTile k e.src1 else []
    blocks := blocksOf lst (blockCount e bs) }

/-- R221: the fault to record: the lowest code, with the position that came first beside it. -/
def lowestAt (xs : List (Nat × Nat)) : Option (Nat × Nat) :=
  xs.foldl (fun m x => match m with
    | none => some x
    | some y => if x.1 < y.1 then some x else some y) none

/-- A fault with its position, if the condition holds. -/
def fault? (b : Bool) (code pos : Nat) : List (Nat × Nat) := if b then [(code, pos)] else []

/-- R221: the faults the check phase's checks find in the descriptor itself and, where the block list has been `seen`, in
its entries, each with its position: an entry's number, or none. -/
def descFaults (s : State) (e : EngCmd) (bs lst : List Byte) (seen : Bool) (d : TDesc) : List (Nat × Nat) :=
  let bad := descBad e bs s.fab.devid (d.combine != 0 && e.opc = 0x42 && dstInTier2 s d)
  let first := fun (p : Nat → Bool) => if seen then (List.range d.blocks.length).find? p else none
  let misal := first fun b => entryMisaligned e d (d.blocks.getD b ([], 0))
  let wrong := first fun b => entryBad lst d d.idx.length b
  fault? (alignBad e bs d) 0x0601 noPos ++ fault? misal.isSome 0x0601 (misal.getD 0)
    ++ fault? bad 0x0602 noPos ++ fault? wrong.isSome 0x0602 (wrong.getD 0)
    ++ (if bad || wrong.isSome then [] else fault? (shapeBad e d) 0x0603 noPos ++ fault? (formatBad e d) 0x0604 noPos)

/-- The tail of the check phase once descriptor, index tile and block list have been read: every check, the lowest code of
these and of what the reading itself found (`extra`), the index counters, and the command on its way to its access
phase. -/
def checkTail (s : State) (c : CoreId) (e : EngCmd) (bs lst : List Byte) (seen : Bool) (extra : List (Nat × Nat)) : State :=
  let d := fullDesc (s.core c) e bs lst
  match lowestAt (descFaults s e bs lst seen d ++ extra) with
  | some (code, pos) => s.engFault c e code pos
  | none => checkIndex s c e d

/-- Earlier-started commands a check or an access must not overtake (R217). -/
def tmvHazard (runs : List TmvRun) (rs : List Region × List MRange) : Bool :=
  runs.any fun r => rangesConflict (tmvRanges r.cmd r.desc) rs

/-- R217: does the started command number `i` wait for an earlier one? -/
def runWaits (runs : List TmvRun) (i : Nat) : Bool :=
  match runs[i]? with
  | none => false
  | some r => !r.issued && tmvHazard (runs.take i) (tmvRanges r.cmd r.desc)

/-- R217: a waiting command delays every later one: does one of the first `n` started commands wait? -/
def earlierWaits (runs : List TmvRun) (n : Nat) : Bool := (List.range n).any (runWaits runs)

/-- The descriptor's bytes as its mover would read them. -/
def State.descBytes (s : State) (c : CoreId) (e : EngCmd) : List Byte :=
  if tmvDloc e.imm then s.moverBytes c (tmvDaddr e.imm) (descLen e.imm)
  else (s.core c).ocRead 0 (fld e.imm 0 17 * 64) (descLen e.imm)

/-- R210: the block list a descriptor names: address and bytes. -/
def blockList (e : EngCmd) (bs : List Byte) : Option (Nat × Nat) :=
  if (descOf e bs).usesBlocks then some (fld (numOf bs 32 8) 0 52, 32 * min 65536 (numOf bs 40 4)) else none

/-- R206: does the descriptor lie in memory that is there? -/
def State.descPop (s : State) (e : EngCmd) : Bool := !tmvDloc e.imm || s.moverPop (tmvDaddr e.imm) (descLen e.imm)

/-- R217: must the head command wait with its check phase for an earlier-started one? -/
def State.headHazard (s : State) (c : CoreId) (e : EngCmd) : Bool :=
  tmvHazard (s.core c).t.run (checkRanges e (if s.descPop e then blockList e (s.descBytes c e) else none))

/-- May the mover start the command at the head of its queue (R61, R68, R75, R217)? -/
def tmvMayStart (k : Core) (e : EngCmd) : Bool :=
  decide (k.t.run.length < 4) && k.handlesArrived e && k.noHazard .tmv e && !earlierWaits k.t.run k.t.run.length

/-- R217, R223: HAZ_WAIT: a command waits for an earlier-started one. -/
def State.tmvHazWait (s : State) (c : CoreId) : Bool :=
  let k := s.core c
  earlierWaits k.t.run k.t.run.length
    || (match k.t.queue with
        | e :: _ => tmvMayStart k e && s.headHazard c e
        | [] => false)

/-- The check phase of a command once nothing hinders it: the descriptor is read, then the block list. A part that lies in
a hole or is poisoned leaves the checks on what has been read (R221, R222). -/
def checkPhase (s1 : State) (c : CoreId) (e : EngCmd) : State :=
  let misal := fault? (tmvDloc e.imm && tmvDaddr e.imm % 64 != 0) 0x0601 noPos
  let stop := fun (t : State) (code : Nat) => match lowestAt (misal ++ [(code, noPos)]) with
    | some (x, p) => t.engFault c e x p
    | none => t
  if !s1.descPop e then stop s1 0x0606
  else
    let (bs, bad, s2) := if tmvDloc e.imm then checkRead s1 c (tmvDaddr e.imm) (descLen e.imm)
      else (s1.descBytes c e, false, s1)
    if bad then stop (s2.poisonMark c) 0x0608
    else match blockList e bs with
      | none => checkTail s2 c e bs [] true []
      | some (x, n) =>
        if !s2.moverPop x n then checkTail s2 c e bs [] false [(0x0606, noPos)]
        else
          let (lst, bad2, s3) := checkRead s2 c x n
          if bad2 then checkTail (s3.poisonMark c) c e bs [] false [(0x0608, noPos)] else checkTail s3 c e bs lst true []

/-- TMV_CHECK_PHASE (R201): the mover starts its head command, reads its descriptor, index tile and block list, and makes
every check of a command's start. -/
def execTmvCheckPhase (core : CoreId) (ecc : List EccHit) (s : State) : Answer :=
  match (s.core core).t.queue with
  | [] => .next s
  | e :: _ =>
    if !tmvMayStart (s.core core) e || s.headHazard core e then .next s
    else .next (checkPhase (s.ocEcc core e ecc) core e)

/-! Access phase -/

/-- R159, R222: a unit that touches a poisoned line or an uncorrectable word, as a tile takes it. -/
def badUnit (f : Fmt) : List Byte × Byte × Fl :=
  if f.isBlock then (List.replicate f.blockBytes 0, 0xFF, 0)
  else match f.float? with
    | some l => (leBytes (unitBytes f) (l.nanCode.getD 0), 0, 0)
    | none => (leBytes (unitBytes f) 0, 0, flIntNan)

/-- A unit read from a tile: its bytes, plane byte, flags. -/
def readTileUnit (k : Core) (t : Tile) (r c : Nat) : List Byte × Byte × Fl :=
  let ub := unitBytes t.fmt
  let el := if t.fmt.isBlock then 32 * c else c
  if t.acc then (leBytes 8 (k.elemCode t r c), 0, 0)
  else if k.elemBad t r el then badUnit t.fmt
  else
    let bs := k.ocRead t.swz (t.rowAddr r + c * ub) ub
    (if t.fmt = .w48 then bs.take 6 ++ [0, 0] else bs,
     if t.fmt.isBlock then k.ocByte (swizzle t.swz (t.planeAddr r c)) else 0, 0)

/-- A unit written to a tile (R119 for accumulators). -/
def writeTileUnit (k : Core) (t : Tile) (r c : Nat) (bs : List Byte) (plane : Byte) : Core :=
  if t.acc then k.accWrite t.arr (t.accRow + r) c [BitVec.ofNat 48 (ofLE (bs.take 6))]
  else
    let k1 := k.ocWrite t.swz (t.rowAddr r + c * unitBytes t.fmt) bs
    if t.fmt.isBlock then k1.ocWrite t.swz (t.planeAddr r c) [plane] else k1

/-- What a mover gathers as it moves: the core, the bytes to write to memory by address, the destination lines it fed
from poisoned lines, whether any line it used was poisoned, and the flags. -/
structure Moving where
  k : Core
  mem : SMap (Option Byte)
  fed : List Nat
  poison : Bool
  fl : Fl
  deriving DecidableEq, Repr

/-- Puts bytes at an address of the memory image. -/
def Moving.put (m : Moving) (a : Nat) (bs : List Byte) : Moving :=
  { m with mem := bs.zipIdx.foldl (fun x p => sset none x (a + p.2) (some p.1)) m.mem }

/-- One unit as its source gives it: bytes, plane byte, poisoned data, poisoned plane, flags. -/
def readUnit (e : EngCmd) (d : TDesc) (k : Core) (rd : Nat → Byte) (bad : Nat → Bool) :
    Option Loc → List Byte × Byte × Bool × Bool × Fl
  | none => (leBytes (unitBytes d.fmt) 0, 0, false, false, 0)
  | some (.tile r c) => let (bs, p, f) := readTileUnit k e.src r c; (bs.take (unitBytes d.fmt), p, false, false, f)
  | some (.mem a pl) =>
    let ub := unitBytes d.fmt
    let bs := (List.range ub).map fun i => rd (a + i)
    let isBad := (List.range ((a % 64 + ub + 63) / 64)).any fun i => bad (a / 64 + i)
    (if d.fmt = .w48 then bs.take 6 ++ [0, 0] else bs, if d.fmt.isBlock then rd pl else 0,
     isBad, d.fmt.isBlock && bad (pl / 64), 0)

/-- One move (R203, R207, R222). -/
def moveUnit (e : EngCmd) (d : TDesc) (k0 : Core) (rd : Nat → Byte) (bad : Nat → Bool) (m : Moving) (x : Move) : Moving :=
  let (bs, pl, b1, b2, f) := readUnit e d k0 rd bad x.src
  let m1 := { m with poison := m.poison || b1 || b2, fl := m.fl ||| f }
  match x.dst with
  | .tile r c =>
    let (bs', pl', f') := if b1 || b2 then badUnit d.fmt else (bs, pl, 0)
    { m1 with k := writeTileUnit m1.k e.dst r c bs' pl', fl := m1.fl ||| f' }
  | .mem a p =>
    let ub := unitBytes d.fmt
    let m2 := m1.put a bs
    let m3 := if d.fmt.isBlock then m2.put p [pl] else m2
    { m3 with fed := m3.fed
        ++ (if b1 then (List.range ((a % 64 + ub + 63) / 64)).map (a / 64 + ·) else [])
        ++ (if b2 then [p / 64] else []) }

/-- A contribution list to one destination element: first position in the box, values in box order. -/
abbrev Contribs := Option (Nat × List Num)

/-- R213: the combined bytes of a destination element. -/
def combineElem (k : Core) (e : EngCmd) (d : TDesc) (prior : Nat) (x : Nat × List Num) : List Byte × Fl :=
  let cv := wConv e.lo
  let (p, f0) := ofFmt d.fmt cv.ftz prior
  let (v, f1) := if d.combine = 1 then
      x.2.foldl (fun (a : Num × Fl) y => let (z, f) := w48Add a.1 y; (z, a.2 ||| f)) (p, 0)
    else (x.2.foldl (if d.combine = 2 then Num.maximum else Num.minimum) p, 0)
  let (code, f2) := toFmt d.fmt (if d.combine = 1 then cv else { cv with rnd := .rne }) (k.srInt e x.1) v
  (leBytes (unitBytes d.fmt) code, f0 ||| f1 ||| f2)

/-- R213, R214: one more contribution of a combining scatter, under its destination address; a poisoned one feeds the
destination line (R222). -/
def addContrib (e : EngCmd) (d : TDesc) (k0 : Core) (rd : Nat → Byte) (bad : Nat → Bool) (g : SMap Contribs × Moving)
    (x : Move) : SMap Contribs × Moving :=
  let (bs, _, b1, _, f) := readUnit e d k0 rd bad x.src
  match x.dst with
  | .tile _ _ => g
  | .mem a _ =>
    let (v, f2) := ofFmt d.fmt (wFtz e.lo) (ofLE bs)
    let v' := if b1 then (if d.fmt = .int32 then numZero else .nan) else v
    let new : Contribs := match sget none g.1 a with
      | none => some (x.pos, [v'])
      | some (p, l) => some (p, l ++ [v'])
    (sset none g.1 a new, { g.2 with
      poison := g.2.poison || b1, fl := g.2.fl ||| f ||| f2
      fed := if b1 then g.2.fed ++ [a / 64] else g.2.fed })

/-- R213: the contributions to one element, combined into it. -/
def putContrib (e : EngCmd) (d : TDesc) (k0 : Core) (rd : Nat → Byte) (bad : Nat → Bool) (m : Moving) (p : Nat × Contribs) :
    Moving :=
  match p.2 with
  | none => m
  | some c =>
    let prior := ofLE ((List.range (unitBytes d.fmt)).map fun i => rd (p.1 + i))
    let (bs, f) := combineElem k0 e d prior c
    let m1 := m.put p.1 bs
    { m1 with fl := m1.fl ||| f, poison := m1.poison || bad (p.1 / 64)
              fed := if bad (p.1 / 64) then m1.fed ++ [p.1 / 64] else m1.fed }

/-- R213, R214: a combining scatter: contributions by destination address, then one combine of each element. -/
def moveCombine (e : EngCmd) (d : TDesc) (k0 : Core) (rd : Nat → Byte) (bad : Nat → Bool) (m0 : Moving) (xs : List Move) : Moving :=
  let g := xs.foldl (addContrib e d k0 rd bad) ([], m0)
  g.1.foldl (putContrib e d k0 rd bad) g.2

/-- All moves of a command. -/
def moveAll (k : Core) (e : EngCmd) (d : TDesc) (rd : Nat → Byte) (bad : Nat → Bool) : Moving :=
  let m0 : Moving := ⟨k, [], [], false, 0⟩
  let xs := movesOf e d d.idxpol
  if d.combine = 0 then xs.foldl (moveUnit e d k rd bad) m0 else moveCombine e d k rd bad m0 xs

/-- Lines of a list of moves on the source side or the destination side, rising and without repeats. -/
def moveLines (d : TDesc) (locs : List (Option Loc)) : List Nat :=
  ((locs.filterMap fun l => match l with
    | some (.mem a p) => some ((List.range ((a % 64 + unitBytes d.fmt + 63) / 64)).map (a / 64 + ·)
        ++ (if d.fmt.isBlock then [p / 64] else []))
    | _ => none).flatten.insertionSort (· ≤ ·)).dedup

/-- The bytes of one line of a memory image. -/
def lineImage (m : SMap (Option Byte)) (l : Nat) : List (Option Byte) := (List.range 64).map fun i => sget none m (64 * l + i)

/-- Writes one line of the image with its byte enables (R205, R230, R233); in the alias to the core's operand cache
(R226). -/
def writeLine (c : CoreId) (s : State) (l : Nat) (img : List (Option Byte)) : State :=
  if inAlias (64 * l) then
    s.modCore c fun k => img.zipIdx.foldl (fun k p => match p.1 with
      | some b => k.ocWrite 0 (64 * l + p.2 - aliasBase) [b]
      | none => k) k
  else s.writeMasked (c.val + 1) (64 * l) (img.map fun b => b.getD 0) ((img.zipIdx.map fun b => if b.1.isSome then 2 ^ b.2 else 0).sum)

/-- R493: the UMASK bit of a mover's line access: own-die HBM, other-die HBM, tier-2, the alias. -/
def State.lineTarget (s : State) (c : CoreId) (a : Nat) : Nat :=
  if inAlias a then 4
  else match s.place a with
    | .hbm d => if d = s.dieOfCore c.val then 0 else 1
    | _ => 2

/-- R493, R503: counts a mover's line access and names it for a precise sample. -/
def State.countMover (s : State) (c : CoreId) (e : EngCmd) (ev a target : Nat) : State :=
  s.countCore c ev (maskBit target) 1
    ⟨0, ev, true, ⟨e.idx, e.pass, e.routine, e.opc⟩, a / 64 * 64, target, s.pwr.aoTime, s.stepNow⟩

/-- A mover reads a line: counted, and touched in memory (R232, R234). -/
def State.moverRead (s : State) (c : CoreId) (e : EngCmd) (l : Nat) : State :=
  let s1 := s.countMover c e 0x10 (64 * l) (s.lineTarget c (64 * l))
  if inAlias (64 * l) then s1 else (s1.touchLine (64 * l) (c.val + 1)).2

/-- Stores what was gathered: the core, the memory lines, and the poison of the lines fed by poison. -/
def storeMoving (s : State) (c : CoreId) (e : EngCmd) (m : Moving) : State :=
  let ls := (m.mem.map fun p => p.1 / 64).dedup
  let s1 := ls.foldl (fun t l => (writeLine c t l (lineImage m.mem l)).countMover c e 0x11 (64 * l) (t.lineTarget c (64 * l))) (s.setCore c (m.k.numFlags m.fl))
  (m.fed.dedup.filter fun l => !inAlias (64 * l)).foldl (fun t l => t.setPoison (64 * l) true) s1

/-- Marks a command's access phase as issued, with what is left to ask another device for. -/
def setIssued (k : Core) (id : Nat) (todo : List (Nat × List (Option Byte) × Bool)) : Core :=
  { k with t.run := k.t.run.map fun r => if r.cmd.id = id then { r with issued := true, todo := todo } else r }

/-- R212: the line reads of a command in box order, its planes' last: neighbouring positions in one line make one read,
and what comes back to a line reads it again. -/
def readSeq (d : TDesc) (locs : List (Option Loc)) : List Nat :=
  ((locs.filterMap fun l => match l with
    | some (.mem a _) => some ((List.range ((a % 64 + unitBytes d.fmt + 63) / 64)).map (a / 64 + ·))
    | _ => none).flatten.destutter (· ≠ ·))
  ++ (if d.fmt.isBlock then (locs.filterMap fun l => match l with
    | some (.mem _ p) => some (p / 64)
    | _ => none).destutter (· ≠ ·) else [])

/-- R212: the lines a command reads beyond the first time. -/
def repeatedReads (d : TDesc) (locs : List (Option Loc)) : List Nat := (readSeq d locs).diff (moveLines d locs)

/-- R212: under COALESCE_EN a repeated line read is served from an outstanding read of the same command and makes no access;
how many are depends on timing that the spec does not give, so the count is a free value within the possible
(assumption 3). The accesses made, and the state that has counted the others. -/
def State.coalesce (s : State) (c : CoreId) (e : EngCmd) (rep : List Nat) : List Nat × State :=
  if (s.core c).t.ctl.getLsbD 0 && !rep.isEmpty then
    let (v, s1) := s.free
    let n := v % (rep.length + 1)
    (rep.drop n, (s1.modCore c fun k => { k with t.coalesced := satAdd 32 k.t.coalesced n }).countCore c 0x13
      (fun _ => true) n ⟨0, 0x13, true, ⟨e.idx, e.pass, e.routine, e.opc⟩, 0, 0, s.pwr.aoTime, s.stepNow⟩)
  else (rep, s)

/-- The lines a local transfer reads: those of its sources, and those it combines into (R213). -/
def localReads (d : TDesc) (xs : List Move) : List Nat :=
  moveLines d (xs.map (fun x => x.src) ++ (if d.combine = 0 then [] else xs.map fun x => some x.dst))

/-- The local part of a transfer: every line it reads is touched (R232, R234), the elements move, and poison faults the
command (R222). -/
def localAccess (s : State) (c : CoreId) (e : EngCmd) (d : TDesc) : State :=
  let xs := movesOf e d d.idxpol
  let (again, s0) := s.coalesce c e (repeatedReads d (xs.map fun x => x.src))
  let s2 := (localReads d xs ++ again).foldl (fun t l => t.moverRead c e l) s0
  let m := moveAll (s2.core c) e d (s2.moverByte c) s2.moverBad
  let s3 := (storeMoving s2 c e m).modCore c fun k => setIssued k e.id []
  if m.poison then s3.tmvPoison c e else s3

/-- R215: sends requests for the lines still to be asked for, as long as tags are free (R219). A line that poison fed goes
out as a WR whose AUX bit 0 marks it poisoned (R222; DESIGN CHOICE, assumption 68). -/
def issueN (c : CoreId) (e : EngCmd) (d : TDesc) : Nat → State → State
  | 0, s => s
  | n + 1, s =>
    match (s.core c).t.run.find? (fun r => r.cmd.id = e.id) with
    | none => s
    | some r => match r.todo, s.freeTag c with
      | (l, img, fed) :: rest, some t =>
        let tag := c.val * 4096 + t
        let p := if d.get then mkPacket 0x03 d.devid 64 tag (64 * l) 0 []
          else if fed || img.all Option.isSome then mkPacket 0x01 d.devid 64 tag (64 * l) (b2n fed) (img.map fun b => b.getD 0)
          else mkPacket 0x02 d.devid 64 tag (64 * l) ((img.zipIdx.map fun b => if b.1.isSome then 2 ^ b.2 else 0).sum)
            (img.map fun b => b.getD 0)
        let s0 := s.countMover c e (if d.get then 0x10 else 0x11) (64 * l) 3
        issueN c e d n ((s0.request p (.mover c.val e.id)).modCore c fun k => { k with
          t.run := k.t.run.map fun x => if x.cmd.id = e.id then { x with todo := rest } else x })
      | _, _ => s

/-- Issues what can be issued. -/
def issueRemote (s : State) (c : CoreId) (e : EngCmd) (d : TDesc) : State :=
  let n := ((s.core c).t.run.find? (fun r => r.cmd.id = e.id)).elim 0 fun r => r.todo.length
  issueN c e d n s

/-- R219, R223: TAG_WAIT: a command has lines left to ask for and its mover no tag. -/
def State.tmvTagWait (s : State) (c : CoreId) : Bool :=
  ((s.core c).t.run.any fun r => !r.todo.isEmpty) && (s.freeTag c).isNone

/-- The lines of a get that have come, as a byte reader and a poison test. -/
def gotByte (g : List (Nat × List Byte × Bool)) (a : Nat) : Byte :=
  match g.find? fun x => x.1 = a / 64 with
  | some x => x.2.1.getD (a % 64) 0
  | none => 0
def gotBad (g : List (Nat × List Byte × Bool)) (l : Nat) : Bool := g.any fun x => x.1 = l && x.2.2

/-- R215: a get with all its lines writes its elements locally. -/
def finishGet (s : State) (c : CoreId) (r : TmvRun) : State :=
  let m := moveAll (s.core c) r.cmd r.desc (gotByte r.got) (gotBad r.got)
  let s1 := storeMoving s c r.cmd m
  if m.poison then s1.tmvPoison c r.cmd else s1

/-- R215: the access phase of a TMV_REMOTE: a put sends its lines, a get asks for its lines. -/
def remoteAccess (s : State) (c : CoreId) (e : EngCmd) (d : TDesc) : State :=
  let xs := movesOf e d d.idxpol
  let srcs := xs.map fun x => x.src
  let (again, s0) := s.coalesce c e (repeatedReads d srcs)
  let reads := moveLines d srcs ++ again
  if d.get then
    let s1 := s0.modCore c fun k => setIssued k e.id (reads.map fun l => (l, [], false))
    if reads.isEmpty then finishGet s1 c ⟨e, d, true, [], []⟩ else issueRemote s1 c e d
  else
    let s1 := reads.foldl (fun t l => t.moverRead c e l) s0
    let m := moveAll (s1.core c) e d (s1.moverByte c) s1.moverBad
    let ls := (m.mem.map fun p => p.1 / 64).dedup
    let s2 := s1.modCore c fun k => setIssued (k.numFlags m.fl) e.id (ls.map fun l => (l, lineImage m.mem l, m.fed.contains l))
    let s3 := issueRemote s2 c e d
    if m.poison then s3.tmvPoison c e else s3

/-- R385: the local lines a command writes that the host caches. -/
def writeSnoops (s : State) (e : EngCmd) (d : TDesc) : List Nat :=
  if e.opc = 0x43 && !d.get then []
  else (moveLines d ((movesOf e d d.idxpol).map fun x => some x.dst)).filter fun l => !inAlias (64 * l) && (s.hub.snoop.contains l || s.hub.bisnp.contains l)

/-- TMV_ACCESS_PHASE (R217): a started command whose ranges no earlier-started one conflicts with moves its data. A write
to lines the host caches first invalidates them there (R385). -/
def execTmvAccessPhase (core : CoreId) (which : Fin 4) (ecc : List EccHit) (hits : List LineHit) (s : State) : Answer :=
  let k := s.core core
  match k.t.run[which.val]? with
  | none => .next s
  | some r =>
    let e := r.cmd
    if r.issued then .next (issueRemote s core e r.desc)
    else if earlierWaits k.t.run (which.val + 1) then .next s
    else
      let (go, s1) := s.bisnp (writeSnoops s e r.desc)
      if !go then .next s1
      else
        let s2 := (s1.ocEcc core e ecc).hitLines hits
        .next (if e.opc = 0x43 then remoteAccess s2 core e r.desc else localAccess s2 core e r.desc)

/-- R202, R207: every place of the destination box that exists: in a tile, or in bounds of the tensor, padding or not. -/
def boxDsts (e : EngCmd) (d : TDesc) (pol : Nat) : List Loc :=
  (movesOf e { d with padSkip := false } pol).map fun x => x.dst

/-- A unit of a place filled with free values from number `f` on. -/
def freeUnit (e : EngCmd) (d : TDesc) (m : Moving) (x : Loc × Nat) : Moving :=
  let v := fun i => BitVec.ofNat 8 (Config.freeValue (x.2 + i))
  let bs := (List.range (unitBytes d.fmt)).map v
  match x.1 with
  | .tile r c => { m with k := writeTileUnit m.k e.dst r c bs (v (unitBytes d.fmt)) }
  | .mem a p =>
    let m1 := m.put a bs
    if d.fmt.isBlock then m1.put p [v (unitBytes d.fmt)] else m1

/-- R216: a remote transfer fails: the destination box of a get is unspecified, a free value at each of its elements,
padding too (assumption 3), and the command faults. -/
def State.remoteFail (s : State) (c : CoreId) (r : TmvRun) : State :=
  let e := r.cmd
  let s0 := { s with fab.reqs := s.fab.reqs.filter fun q => q.owner ≠ .mover c.val e.id }
  if r.desc.get then
    let n := unitBytes r.desc.fmt + 1
    let xs := boxDsts e r.desc r.desc.idxpol
    let m := (xs.zipIdx.map fun x => (x.1, s.fresh + n * x.2)).foldl (freeUnit e r.desc) ⟨s0.core c, [], [], false, 0⟩
    ({ storeMoving s0 c e m with fresh := s.fresh + n * xs.length }).engFault c e 0x0607 noPos
  else s0.engFault c e 0x0607 noPos

/-! Remote signals -/

/-- R81: RSIGNAL's own checks. -/
def rsignalCodes (_ : Core) (d : Disp) : List Nat :=
  let hub := bitAt d.eff 14
  code? (fld d.eff 32 32 = 0 || (hub && fld d.eff 16 6 != 0) || (!hub && decide (256 ≤ fld d.eff 22 10))) 0x0304

/-- RSIGNAL (R81): dispatched to the hub-bound queue. -/
def execRsignal (core : CoreId) (lo imm : Word64) (s : State) : Answer :=
  .next (dispatchWith s core lo imm 0x50 rsignalCodes (fun k _ => engStalls k .hub 0)
    (engDispatch .hub (fun _ _ => []) (fun _ _ => false) (fun _ _ => 0) (fun k _ => k) core))

/-- R81: must an RSIGNAL still wait for an earlier TMV_REMOTE of its core to its device? One whose descriptor has not
been read might be to that device. -/
def signalBlocked (k : Core) (e : EngCmd) : Bool :=
  k.t.queue.any (fun f => f.opc = 0x43 && decide (f.id < e.id))
  || k.t.run.any (fun r => r.cmd.opc = 0x43 && decide (r.cmd.id < e.id) && r.desc.devid = fld e.imm 0 14)

/-- R274: unacknowledged SIGNAL packets to a device. -/
def State.signalsTo (s : State) (dev : Nat) : Nat := (s.fab.reqs.filter fun r => r.pkt.ptype = 0x07 && r.pkt.dst = dev).length

/-- SIGNAL_RELEASE (R81): the RSIGNAL at the head of the hub-bound queue is sent. -/
def execSignalRelease (core : CoreId) (s : State) : Answer :=
  let k := s.core core
  match k.t.hubQ with
  | [] => .next s
  | e :: rest =>
    let dev := fld e.imm 0 14
    if e.opc ≠ 0x50 || signalBlocked k e || decide (64 ≤ s.signalsTo dev) then .next s
    else match s.freeTag core with
      | none => .next s
      | some t =>
        let n := sget 0 s.fab.sseqNext dev
        let p := { mkPacket 0x07 dev 0 (core.val * 4096 + t) 0 (e.imm % 2 ^ 64) [] with sseq := n }
        let s1 := s.setCore core { k with t.hubQ := rest, t.hubRun := k.t.hubRun ++ [⟨e, false⟩] }
        .next ({ s1 with fab.sseqNext := sset 0 s1.fab.sseqNext dev ((n + 1) % 65536) }.request p (.signal core.val e.id))

/-- R81: an RSIGNAL is complete once it is acknowledged. -/
def hubDone (k : Core) (id : Nat) : Core :=
  { k with t.hubRun := k.t.hubRun.map fun r => if r.cmd.id = id then { r with done := true } else r }

end Sys2Proof.Machine
end

