-- ==== Sys2Proof/Machine/Cle.lean ====
section
/-! DEFINITION. The collective engine (10_gradient_exchange.md): opening an exchange, microstep accumulation and sealing,
streams and hops, closing a shard, finals at the buddy, the all-gather, roll-over, and small reductions. -/

namespace Sys2Proof.Machine

/-! Routines that drive hub engines -/

/-- The call in progress on a core if it is of the given routine. -/
def State.callOf (s : State) (c : CoreId) (id : Nat) : Option CallInfo :=
  (s.core c).q.call.bind fun ci => if ci.routine = id then some ci else none

/-- R92: an occurrence of a routine names its CALL. -/
def State.callNote (s : State) (c : CoreId) (ci : CallInfo) (code : Nat) (cls : ErrClass) (inst pos detail : Nat) : State :=
  s.raise code cls inst (cmdPayload ci.idx ci.pass c.val 0x0B ci.routine pos detail)

/-- R94, R174: a call that faults, with the code-specific detail of its record: its list and the job halt. -/
def State.callFaultAt (s : State) (c : CoreId) (ci : CallInfo) (code inst pos detail : Nat) : State :=
  let s1 := s.raiseHalting code .d inst (cmdPayload ci.idx ci.pass c.val 0x0B ci.routine pos detail)
  (s1.modCore c fun k => { k with q.seq := .haltFault, q.cmdIndex := ci.idx, q.call := none }).haltJob code

/-- R92, R94: a call that is refused with PB_INVALID, or that a step of its routine faults. -/
def State.callFault (s : State) (c : CoreId) (ci : CallInfo) (code inst pos : Nat) : State :=
  s.callFaultAt c ci code inst pos (if code = 0x030F then 0 else stepDetail ci.routine code)

/-- R91, R391: may a routine read this range: populated, inside the job's windows, not poisoned? -/
def State.readable (s : State) (a n : Nat) : Bool :=
  s.rangePop a n && s.inWindows a n && !((List.range ((a % 64 + n + 63) / 64)).any fun i => s.poisoned (a + 64 * i))

/-- A little-endian field of a byte list. -/
def lenum (bs : List Byte) (o n : Nat) : Nat := ofLE ((bs.drop o).take n)

/-! The CLE at memory (R227, R230, R232, R233) -/

/-- The CLE writes bytes. -/
def State.cleWrite (s : State) (a : Nat) (bs : List Byte) : State := s.agentWrite a 0x80 bs

/-- The CLE writes a little-endian number of `n` bytes. -/
def State.cleNum (s : State) (a n x : Nat) : State := s.agentNum a 0x80 n x

/-- The CLE reads ranges (address, length). -/
def State.cleReads (s : State) (rs : List (Nat × Nat)) : State := s.engineReads 0x80 rs

/-! Opening an exchange -/

/-- R282: a bucket as its entry and ring table give it. -/
def State.readBucket (s : State) (a : Nat) : Bucket :=
  let f := fun o n => s.numAt (a + o) n
  let g := f 76 2
  ⟨f 0 8, f 8 8, f 16 8, f 24 8, f 32 8, f 40 8, f 48 8, f 56 8, f 72 4, g, f 78 1, f 79 1, f 80 1, f 81 1,
    (List.range g).map fun i => (s.numAt (f 64 8 + 8 * i) 8 % 2 ^ 14, fld (s.numAt (f 64 8 + 8 * i) 8) 16 14),
    0, 0, 0, false, [], 0⟩

/-- R282, R284: the list of `n` entries is read, and the ring tables it names. -/
def State.readBuckets (s : State) (a n : Nat) : State :=
  let s1 := s.cleReads [(a, 128 * n)]
  s1.cleReads ((List.range n).filterMap fun i =>
    let g := s1.numAt (a + 128 * i + 76) 2
    if 0 < g ∧ g ≤ 16384 then some (s1.numAt (a + 128 * i + 64) 8, 8 * g) else none)

/-- R282, R284: is a bucket entry or its ring table to be refused? A ring of one member has no buddy (assumption 22). -/
def State.bucketBad (s : State) (a : Nat) : Bool :=
  let b := s.readBucket a
  let ring := s.numAt (a + 64) 8
  [b.acc, b.res0, b.res1, b.fc0, b.fc1, b.fin, b.finx, b.smp, ring].any (fun x => x % 64 != 0)
  || b.nblk = 0 || decide (2 ^ 26 < b.nblk) || b.g = 0 || decide (16384 < b.g)
  || b.nmicro = 0 || decide (64 < b.nmicro) || decide (2 < b.comp)
  || (b.comp = 0 && (b.res0 != 0 || b.res1 != 0))
  || (if b.comp = 1 then b.topk = 0 || decide (31 < b.topk) else b.topk != 0)
  || !s.present b.feed || s.numAt (a + 82) 46 != 0
  || !s.readable ring (8 * b.g)
  || (List.range b.g).any (fun i =>
      let x := s.numAt (ring + 8 * i) 8
      fld x 14 2 != 0 || x >>> 30 != 0
        || (decide (1 < b.g) && (fld x 16 14 = i || decide (b.g ≤ fld x 16 14))))
  || decide (¬ (b.ring.map Prod.fst).Nodup) || !((b.ring.map Prod.fst).contains s.fab.devid)

/-- EXCH_START (R284): checks the list and opens the exchange of the running step. -/
def execExchStart (core : CoreId) (s0 : State) : Answer :=
  match s0.callOf core 0x10 with
  | none => .next s0
  | some ci =>
    let a := pbNum ci.pb 0x10 8
    let n := pbNum ci.pb 0x18 4
    let pol := pbNum ci.pb 0x1C 4
    let s := if n ≤ 65536 ∧ a % 64 = 0 then s0.readBuckets a n else s0
    if n = 0 ∨ 65536 < n ∨ a % 64 ≠ 0 ∨ !s.readable a (128 * n) ∨ pol % 4 = 3 ∨ fld pol 2 2 ≠ 0 ∨ pol >>> 8 ≠ 0
        ∨ (List.range n).any (fun i => s.bucketBad (a + 128 * i)) then
      .next (s.callFault core ci 0x030F core.val noPos)
    else if s.cle.isOpen then .next ((s.callNote core ci 0x0901 .d 0 noPos (stepDetail 0x10 0x0901)).finishCall core)
    else
      let s1 := { s with
        cle.isOpen := true
        cle.exch := s.stepNow.toNat % 65536
        cle.nfpol := pol % 4
        cle.fcBias := sext 4 (fld pol 4 4)
        cle.buckets := (List.range n).map fun i => s.readBucket (a + 128 * i)
        cle.closed := []
        cle.finals := []
        cle.imaged := []
        cle.finRx := []
        cle.staged := []
        cle.armed := none
        cle.stagedDone := false
        cle.late := []
        cle.misses := 0
        cke.att.exchOpened := true }
      .next (s1.finishCall core)

/-! Planes of a bucket -/

/-- R346: the epoch slot of the committed step. -/
def State.slot (s : State) : Nat := s.cke.c % 2

/-- R346: the current and the alternate plane of two. -/
def State.curPlane (s : State) (p0 p1 : Nat) : Nat := if s.slot = 0 then p0 else p1
def State.altPlane (s : State) (p0 p1 : Nat) : Nat := if s.slot = 0 then p1 else p0

/-- R282, R295: the agreed exponent and BF16 mode of a block of a bucket. -/
def State.agreed (s : State) (b : Bucket) (blk : Nat) : Nat × Bool :=
  let x := s.numAt (s.curPlane b.fc0 b.fc1 + 2 * blk) 2
  (x % 256, bitAt x 8)

/-- R282: a sample entry. -/
def State.smp (s : State) (b : Bucket) (j : Nat) : Nat := s.numAt (b.smp + 16 * j) 16

/-- Replaces a sample entry. -/
def State.setSmp (s : State) (b : Bucket) (j x : Nat) : State := s.cleNum (b.smp + 16 * j) 16 x

/-- Reads a sample entry, changes it and writes it. -/
def State.modSmp (s : State) (b : Bucket) (j : Nat) (f : Nat → Nat) : State :=
  let t := s.cleReads [(b.smp + 16 * j, 16)]
  t.setSmp b j (f (t.smp b j))

/-- R295: the forecast entries of `n` blocks of a bucket are read. -/
def State.readAgreed (s : State) (b : Bucket) (blk n : Nat) : State := s.cleReads [(s.curPlane b.fc0 b.fc1 + 2 * blk, 2 * n)]

/-- R285: ZERO_NEXT of a shard; R287: its TOTAL. -/
def State.zeroNext (s : State) (b : Bucket) (j : Nat) : Bool := bitAt (s.smp b j) 63
def State.total (s : State) (b : Bucket) (j : Nat) : Nat := fld (s.smp b j) 32 30

/-- The FP32 values of a block's 128 bytes. -/
def State.fpBlock (s : State) (a : Nat) : List Num :=
  (List.range 32).map fun i => fp32Val (BitVec.ofNat 32 (s.numAt (a + 4 * i) 4))

/-- Replaces a bucket of the open exchange. -/
def State.setBucket (s : State) (i : Nat) (b : Bucket) : State := { s with cle.buckets := s.cle.buckets.set i b }

/-! Contributions -/

/-- A device's contribution to a block (R289, R297, R301): the values, what they came from, whether it is non-finite
and sent so, whether a sum for it overflowed, and the substitutions made. -/
structure Contrib where
  vs : List Num
  gs : List Num
  bad : Bool
  ovr : Bool
  subst : Nat
  deriving DecidableEq, Repr

/-- R289, R297, R301: this device's contribution to block `blk` of a bucket. -/
def State.contrib (s : State) (b : Bucket) (j blk : Nat) : Contrib :=
  let acc := s.fpBlock (b.acc + 128 * blk)
  let res := if b.comp = 0 then [] else s.fpBlock (s.curPlane b.res0 b.res1 + 128 * blk)
  let gs := if b.comp = 0 then acc else (acc.zip res).map fun (x, r) => (fp32Add x r).1
  let ovr := b.comp ≠ 0 && (acc.zip (res.zip gs)).any fun (x, r, g) => x.isFin && r.isFin && !g.isFin
  let vs0 := if b.comp = 0 || (s.agreed b blk).2 then gs else compress b.comp b.topk gs
  let zeroing := b.nf.contains j && s.cle.nfpol = 1
  let vs := if zeroing then vs0.map fun v => if v.isFin then v else numZero else vs0
  ⟨vs, gs, vs.any fun v => !v.isFin, ovr, if zeroing then (vs0.filter fun v => !v.isFin).length else 0⟩

/-- R301: does this device leave the shard out under EXCLUDE? -/
def State.excludes (s : State) (b : Bucket) (j : Nat) : Bool := b.nf.contains j && s.cle.nfpol = 0

/-- A run of blocks on its way through this device: state, blocks that leave, additions to CK and DSA, rescale records,
non-finite and over-range marks. -/
structure HopAcc where
  st : State
  out : List WBlk
  ck : Int
  dsa : Int
  nrec : Nat
  nonf : Bool
  ovr : Bool

/-- R302, R476: the key of a shard as an ADDR field (R293). -/
def cleKey (exch bi j : Nat) : Nat := exch % 65536 + bi <<< 16 + j <<< 32

/-- R289, R298: this device's part in one block of a shard, `i` being the block's number within the shard. -/
def hopStep (bi j : Nat) (b : Bucket) (a : HopAcc) (x : Nat × WBlk) : HopAcc :=
  let s := a.st
  let blk := b.first j + x.1
  let c := s.contrib b j blk
  let h := hopBlock (s.agreed b blk).1 x.2 c.vs c.bad c.ovr
  let s1 := match h.vhat with
    | some vh => if b.comp = 0 then s
      else s.cleWrite (s.altPlane b.res0 b.res1 + 128 * blk)
        ((c.gs.zip vh).flatMap fun (x : Num × Num) => leBytes 4 (fp32Code (roundIn ffFp32 (x.1.sub x.2))).toNat)
    | none => s
  let s2 := { s1.countHub 0x0A (fun _ => true) h.nrec with
    cle.rescales := satAdd 32 s1.cle.rescales h.nrec
    cle.nfElems := satAdd 32 s1.cle.nfElems c.subst
    cle.sticky := s1.cle.sticky ||| (if h.nrec = 0 then 0 else 1) ||| (if c.bad || c.subst ≠ 0 then 2 else 0)
      ||| (if h.inval then 32 else 0) }
  let s3 := if h.ovr then s2.raise 0x0909 .d 0 (devPayload s.fab.devid (b.pos s.fab.devid) (cleKey s.cle.exch bi j)) else s2
  ⟨s3, a.out ++ [h.blk], a.ck + h.ck, a.dsa + h.dsa, a.nrec + h.nrec, a.nonf || (h.blk.e = 0xFF && x.2.e ≠ 0xFF),
    a.ovr || h.ovr⟩

/-- This device's part in a run of blocks of a shard, whose contributions are read; under EXCLUDE nothing is added
(R301). -/
def State.hopRun (s : State) (bi j : Nat) (b : Bucket) (xs : List (Nat × WBlk)) : HopAcc :=
  if s.excludes b j then
    ⟨{ s with cle.sticky := s.cle.sticky ||| 2 }, xs.map Prod.snd, 0, 0, 0, false, false⟩
  else
    let lines : Nat → List (Nat × Nat) := fun plane => xs.map fun x => (plane + 128 * (b.first j + x.1), 128)
    let s0 := s.cleReads (lines b.acc ++ if b.comp = 0 then [] else lines (s.curPlane b.res0 b.res1))
    xs.foldl (hopStep bi j b) ⟨s0, [], 0, 0, 0, false, false⟩

/-! Who is next -/

/-- Is a device in the lost set (R370)? -/
def State.isLost (s : State) (dev : Nat) : Bool := sget false s.cke.lost dev

/-- R370: the device that acts as owner of a shard: its owner, or the buddy once the owner is lost. -/
def Bucket.ownerPos (b : Bucket) (j : Nat) (gone : Nat → Bool) : Nat :=
  if gone (b.dev j) then (b.ring.getD j (0, 0)).2 else j

/-- R283, R370: the positions a shard's stream visits, the acting owner last; lost devices are passed over. -/
def State.chain (s : State) (b : Bucket) (j : Nat) : List Nat :=
  let o := b.ownerPos j s.isLost
  (((List.range (b.g - 1)).map fun i => (j + 1 + i) % b.g).filter fun p => !s.isLost (b.dev p) && p ≠ o) ++ [o]

/-- R304, R355: devices the all-gather does not visit. -/
def State.goneNow (s : State) (dev : Nat) : Bool := s.isLost dev || s.cke.att.pendingLost.contains dev

/-- R304: the positions a shard's all-gather visits. -/
def State.gatherChain (s : State) (b : Bucket) (j : Nat) : List Nat :=
  let o := b.ownerPos j s.goneNow
  ((List.range (b.g - 1)).map fun i => (j + 1 + i) % b.g).filter fun p => !s.goneNow (b.dev p) && p ≠ o

/-- The element after a position. -/
def after (xs : List Nat) (p : Nat) : Option Nat := xs[xs.findIdx (· = p) + 1]?

/-- Packets addressed to another device. -/
def retarget (dev : Nat) (ps : List Packet) : List Packet := ps.map fun p => { p with dst := dev }

/-! Learning a census -/

/-- R298, R303, R305: what the device learns of its own contribution from the census of a shard. -/
def State.learnCensus (s : State) (bi : Nat) (b : Bucket) (j : Nat) (c : Census) : State :=
  let p := b.pos s.fab.devid
  let n := 128 * b.len j
  let cur := s.curPlane b.res0 b.res1 + 128 * b.first j
  let alt := s.altPlane b.res0 b.res1 + 128 * b.first j
  if c.excl.contains p then
    let s1 := s.modSmp b j (· ||| 1 <<< 62)
    if b.comp = 0 then s1 else s1.cleWrite alt (List.replicate n 0)
  else if c.counted.contains p then s.modSmp b j (· ||| 1 <<< 62)
  else
    let s1 := { s with
      cle.late := if s.cle.late.contains (bi, j) then s.cle.late else s.cle.late ++ [(bi, j)]
      cle.sticky := s.cle.sticky ||| 4 }
    if b.comp = 0 then s1
    else
      let s2 := s1.cleReads [(cur, n)]
      s2.cleWrite alt (s2.bytesAt cur n)

/-! Closing a shard -/

/-- R282, R302, R295: one block of a shard's final areas and its next forecast entry. -/
def State.writeFinal (s : State) (b : Bucket) (blk : Nat) (x : WBlk) (nonf : Bool) : State :=
  let attr := finAttr x ||| (if nonf then 1 <<< 10 else 0)
  let e0 := (s.agreed b blk).1
  let fc := if nonf then e0 else nextForecast s.cle.fcBias e0 x
  ((s.cleWrite (b.fin + 128 * blk) (finBytes x)).cleNum (b.finx + 2 * blk) 2 attr).cleNum
    (s.altPlane b.fc0 b.fc1 + 2 * blk) 2 fc

/-- R302: the final areas of a whole shard. -/
def State.writeFinals (s : State) (b : Bucket) (j : Nat) (xs : List WBlk) (nonf : Bool) : State :=
  xs.zipIdx.foldl (fun t p => t.writeFinal b (b.first j + p.2) p.1 nonf) s

/-- R350: MIN_COUNTED_PCT, values above 100 acting as 100. -/
def Cke.minCounted (k : Cke) : Nat := min 100 (fld k.ctl.toNat 4 7)

/-- R302: the divisor of a shard written into its sample entry. -/
def State.setDiv (s : State) (b : Bucket) (j x : Nat) : State := s.modSmp b j fun y => setFld y 64 64 x

/-- R302: a shard's finals stand at this device: hub flag 2. -/
def State.finalsHere (s : State) (bi j : Nat) (census : List Byte) : State :=
  { s with cle.finals := s.cle.finals ++ [((bi, j), census)] }.addHubFlag 2 1

/-- R301: has a 65th exclusion been handled as PROPAGATE in this stream? Its blocks have passed before the census tells, so
every block of the shard counts as NONFINITE (assumption 72). -/
def Census.overfull (c : Census) : Bool := c.excl.length = 64 && bitAt c.flags 0

/-- R292, R295, R301, R302, R350: the owner closes a shard with its final blocks and census; `allNonf` marks every block
NONFINITE (R292). -/
def State.closeShard (s : State) (bi j : Nat) (b : Bucket) (xs : List WBlk) (c : Census) (allNonf : Bool) : State :=
  let nonf := allNonf || c.overfull
  let key := cleKey s.cle.exch bi j
  let s1 := (s.writeFinals b j xs nonf).countHub 9 (maskBit 2) xs.length
  let s2 := s1.setDiv b j c.samples
  let s3 := c.excl.foldl (fun t p => { t.raise 0x0908 .c 0 (devPayload (b.dev p) p key) with
    cle.exclCount := satAdd 32 t.cle.exclCount 1 }) s2
  let s4 := if nonf || xs.any (fun x => x.e = 0xFF) || bitAt c.flags 0 || bitAt c.flags 2 then s3.setHealth 1 else s3
  let s5 := if c.counted.length < (s.cke.minCounted * b.g + 99) / 100 ∧ s.cke.minCounted ≠ 0 then s4.setHealth 5 else s4
  let s6 := ({ s5 with cle.closed := s5.cle.closed ++ [(bi, j)] }.finalsHere bi j (c.bytes b.g)).learnCensus bi b j c
  let bud := (b.ring.getD j (0, 0)).2
  let dev := b.dev bud
  if b.g = 1 || s.isLost dev || dev = s.fab.devid || s.isLost (b.dev j) then s6
  else
    let wire := xs.map fun x => if nonf then x.nonfinite else x
    s6.sendAll (packBlocks 0x14 dev key 0 2 (xs.length + 1) 0 wire ++ [mkPacket 0x15 dev (176 + (b.g + 7) / 8) 0 key 0 (c.bytes b.g)])

/-- The agreed exponents of a shard's blocks beside the blocks. -/
def State.withAgreed (s : State) (b : Bucket) (j : Nat) (xs : List WBlk) : List (Nat × WBlk) :=
  xs.zipIdx.map fun (x, i) => ((s.agreed b (b.first j + i)).1, x)

/-- Blocks of a shard as its originator starts them (R289). -/
def State.zeroBlocks (s : State) (b : Bucket) (j : Nat) : List (Nat × WBlk) :=
  (List.range (b.len j)).map fun i =>
    let (e, m) := s.agreed b (b.first j + i)
    (i, WBlk.zero e m)

/-- R291, R294, R301: the census after this device's part in a shard: a 65th exclusion is handled as PROPAGATE: the
contribution is counted, and the sum is not finite. -/
def State.addToCensus (s : State) (b : Bucket) (j : Nat) (ck dsa nrec : Nat) (nonf ovr : Bool) (c : Census) : Census :=
  let p := b.pos s.fab.devid
  if s.excludes b j && decide (c.excl.length < 64) then { c with excl := c.excl ++ [p] }
  else
    (({ c with
        samples := (c.samples + s.total b j) % 2 ^ 64
        ck := (c.ck + ck) % 2 ^ 128
        dsa := (c.dsa + dsa) % 2 ^ 128
        nrec := min 0xFFFF (c.nrec + nrec)
        counted := c.counted ++ [p] }).setFlag 0 (nonf || s.excludes b j)).setFlag 2 ovr

/-- R299 item 3, R283 (a ring of one): the owner closes a shard with its own contribution alone. -/
def State.closeAlone (s0 : State) (bi j : Nat) (b : Bucket) (deadline : Bool) : State :=
  let s := s0.readAgreed b (b.first j) (b.len j)
  let h := s.hopRun bi j b (s.zeroBlocks b j)
  let c := (h.st.addToCensus b j (wrapInt 128 h.ck) (wrapInt 128 h.dsa) h.nrec h.nonf h.ovr Census.empty).setFlag 1 deadline
  h.st.closeShard bi j b h.out c false

/-- R288: this device originates a shard's stream. -/
def State.originate (s0 : State) (bi j attempt : Nat) (b : Bucket) : State :=
  let ch := s0.chain b j
  match after ch (b.pos s0.fab.devid) with
  | none => s0
  | some nx =>
    let s := s0.readAgreed b (b.first j) (b.len j)
    let key := cleKey s.cle.exch bi j
    let h := s.hopRun bi j b (s.zeroBlocks b j)
    let c := h.st.addToCensus b j (wrapInt 128 h.ck) (wrapInt 128 h.dsa) h.nrec h.nonf h.ovr Census.empty
    let dev := b.dev nx
    let ps := packBlocks 0x10 dev key attempt 0 (h.out.length + 1) 0 h.out
      ++ [mkPacket 0x11 dev (176 + (b.g + 7) / 8) 0 key (attempt <<< 34) (c.bytes b.g)]
    let st : Stream := ⟨false, s.cle.exch, bi, j, attempt, s.fab.devid, .adding, 0, 0, 0, false, false, [], true, nx, ps, false,
      0, s.cle.hopTimeoutUs.toNat, 0, 0⟩
    ({ h.st.countHub 9 (maskBit 0) h.out.length with cle.streams := h.st.cle.streams ++ [st] }).sendAll ps

/-- R287: a bucket is sealed: totals, hub flag 1, the streams that start here, and the deadline timer. Blocks in BF16 mode
are counted (R296). -/
def State.sealBucket (s : State) (bi : Nat) (b : Bucket) : State :=
  let s1 := (b.shards.foldl (fun t j => t.modSmp b j fun x => setFld x 32 30 (min (2 ^ 30 - 1) (x % 2 ^ 32 + b.samples))) s).readAgreed
    b 0 b.nblk
  let b1 := { b with sealed := true, deadlineUs := s.cle.deadlineUs.toNat }
  let m := ((List.range b.nblk).filter fun k => (s1.agreed b k).2).length
  let s2 := ({ s1.setBucket bi b1 with
    cle.misses := s1.cle.misses + m, cle.forecastMisses := satAdd 32 s1.cle.forecastMisses m }).addHubFlag 1 1
  let me := b.pos s.fab.devid
  b1.shards.foldl (fun t j =>
    let ch := t.chain b1 j
    if ch = [me] then t.closeAlone bi j b1 false
    else if ch.head? = some me then t.originate bi j 0 b1 else t) s2

/-! CLE_BUCKET -/

/-- CLE_BUCKET's checks at dispatch (R27, R68): an FP32 or BF16 tile. -/
def cleBucketCodes (k : Core) (d : Disp) : List Nat :=
  handleCodes k d.lo 1 ++ fmtCodes k d.lo (fun a _ _ => a.any fun x => !(x.fmt = .fp32 || x.fmt = .bf16))

/-- R286: is a piece to be refused? -/
def pieceBad (s : State) (c : CoreId) (imm : Nat) (t : Tile) : Bool :=
  let bi := imm % 65536
  match s.cle.buckets[bi]? with
  | none => true
  | some b =>
    let off := fld imm 16 26
    !s.cle.isOpen || b.feed != c.val || fld imm 42 6 != b.micro || b.sealed || off != b.cursor
      || t.count % 32 != 0 || decide (b.nblk < off + t.count / 32) || (off != 0 && fld imm 48 16 != 0)

/-- R285: one element of a piece added to its accumulator element. -/
def accAdd (ftz fresh : Bool) (old : Nat) (x : Num) : Nat :=
  let a := (ofFmt .fp32 ftz old).1
  (toFmt .fp32 ⟨.rne, ftz, false⟩ 0 (if fresh then x else (fp32Add a x).1)).1

/-- R285, R287: a piece is accumulated, the cursor advances, every ZERO_NEXT of the bucket is cleared when a microstep is
complete, and the last one seals the bucket; in it, values that are not finite mark their shards. -/
def addPiece (s : State) (c : CoreId) (e : EngCmd) (t : Tile) (b : Bucket) : State :=
  let imm := e.imm
  let bi := imm % 65536
  let off := fld imm 16 26
  let n := t.count / 32
  let ftz := wFtz e.lo
  let k := s.core c
  let base := b.acc + 128 * off
  let shard := fun (i : Nat) => (off + i) / b.span
  let s0 := if b.micro ≠ 0 then s else s.cleReads ((((List.range n).map shard).dedup).map fun j => (b.smp + 16 * j, 16))
  let fresh := fun (i : Nat) => b.micro = 0 && s0.zeroNext b (shard i)
  let s1 := s0.cleReads ((List.range n).filterMap fun i => if fresh i then none else some (base + 128 * i, 128))
  let codes := (List.range t.count).map fun i =>
    accAdd ftz (fresh (i / 32)) (s1.numAt (base + 4 * i) 4) (k.elem t ftz (i / t.cols) (i % t.cols)).1
  let bad := (codes.zipIdx.filterMap fun (x, i) => if (fp32Val (BitVec.ofNat 32 x)).isFin then none else some (shard (i / 32))).dedup
  let s2 := s1.cleWrite base (codes.flatMap (leBytes 4))
  let b1 := { b with
    cursor := off + n, samples := b.samples + fld imm 48 16
    nf := if b.micro + 1 = b.nmicro then (b.nf ++ bad).dedup else b.nf }
  if b1.cursor < b.nblk then s2.setBucket bi b1
  else
    let s3 := s2.cleReads [(b.smp, 16 * b.g)]
    let s4 := (List.range b.g).foldl (fun u j => if u.zeroNext b j then u.setSmp b j (setFld (u.smp b j) 63 1 0) else u) s3
    let b2 := { b1 with cursor := 0, micro := b.micro + 1 }
    let s5 := s4.setBucket bi b2
    if b2.micro = b.nmicro then s5.sealBucket bi b2 else s5

/-- A hub-bound command starts once its handles have arrived and nothing conflicts (R71, R75): it leaves the queue. -/
def startHub (s : State) (c : CoreId) (opc : Nat) : Option (EngCmd × State) :=
  let k := s.core c
  match k.t.hubQ with
  | [] => none
  | e :: rest =>
    if e.opc = opc && k.handlesArrived e && k.noHazard .hub e then
      some (e, s.setCore c { k with t.hubQ := rest, t.hubRun := k.t.hubRun ++ [⟨e, false⟩] })
    else none

/-- The handle of an optional entry. -/
def hTile (e : Option QEntry) : Tile := tileOf (hOf e)

/-- CLE_BUCKET (R285 to R287): dispatched to the hub-bound queue; at its head the piece is checked and accumulated. -/
def execCleBucket (core : CoreId) (phase : HubPhase) (s : State) : Answer :=
  match phase with
  | .dispatch lo imm =>
    .next (dispatchWith s core lo imm 0x51 cleBucketCodes (fun k d => engStalls k .hub (tileRegions k d.lo 1).length)
      (engDispatch .hub (fun k d => tileRegions k d.lo 1) (fun _ _ => false) (fun _ _ => 0) (fun k _ => k) core))
  | .perform =>
    match startHub s core 0x51 with
    | none => .next s
    | some (e, s1) =>
      let t := hTile e.qs0
      if pieceBad s1 core e.imm t then .next (s1.engFault core e 0x0902 noPos)
      else match s1.cle.buckets[e.imm % 65536]? with
        | none => .next s1
        | some b =>
          let s2 := addPiece s1 core e t b
          .next (afterSnoop s (s2.modCore core fun k => hubDone k e.id))

/-! Receiving streams -/

/-- The attempt a packet's stream belongs to; gathers have one. -/
def pktAttempt (gather : Bool) (p : Packet) : Nat := if gather then 0 else fld p.aux 34 1

/-- Is this the stream of a packet? -/
def Stream.matches (x : Stream) (gather : Bool) (p : Packet) : Bool :=
  x.gather == gather && x.exch = fld p.addr 0 16 && x.bucket = fld p.addr 16 16 && x.shard = fld p.addr 32 14
    && x.attempt = pktAttempt gather p && x.src = p.src

/-- R300: the sender whose stream for the packet's key and attempt has been accepted. -/
def State.acceptedFrom (s : State) (gather : Bool) (p : Packet) : Option Nat :=
  (s.cle.accepted.find? fun a => a.1 == gather && a.2.1 = fld p.addr 0 16 && a.2.2.1 = fld p.addr 16 16
    && a.2.2.2.1 = fld p.addr 32 14 && a.2.2.2.2.1 = pktAttempt gather p).map fun a => a.2.2.2.2.2

/-- Does a packet's exchange number name the open exchange, or one this device has yet to open? -/
def State.exchNow (s : State) (p : Packet) : Bool := s.cle.isOpen && fld p.addr 0 16 = s.cle.exch
def State.exchSoon (s : State) (p : Packet) : Bool :=
  !s.exchNow p && (fld p.addr 0 16 = (s.cke.c + 1) % 65536 || fld p.addr 0 16 = (s.cke.c + 2) % 65536)

/-- The bucket a packet names, if its shard holds blocks. -/
def State.pktBucket (s : State) (p : Packet) : Option Bucket :=
  (s.cle.buckets[fld p.addr 16 16]?).bind fun b =>
    if fld p.addr 32 14 < b.g ∧ 0 < b.len (fld p.addr 32 14) then some b else none

/-- The stream of a packet at this device. -/
def State.streamOf (s : State) (gather : Bool) (p : Packet) : Option Stream := s.cle.streams.find? fun x => x.matches gather p

/-- R299: must a packet of an accepted stream still wait: for its exchange to open; for the bucket's seal, unless the
wait has run out; for the all-gather to be armed; a CLOSE behind its PARTs, and a GATHER_CLOSE behind all of its image and
forecast entries (R305)? -/
def State.pktWaits (s : State) (gather : Bool) (p : Packet) : Bool :=
  if s.exchSoon p then true
  else match s.pktBucket p, s.streamOf gather p with
    | some b, some x =>
      if gather then
        (match s.cle.armed with
         | none => true
         | some m => p.ptype = 0x18
            && (decide (x.gotImg < ((m.ents.find? fun e => e.bucket = x.bucket && e.shard = x.shard).map fun e => e.bytes).getD 0)
              || decide (x.gotFc < 2 * b.len x.shard)))
      else (!b.sealed && x.mode ≠ .late)
        || (p.ptype = 0x11 && s.fab.inbox.any fun y => y.2.ptype = 0x10 && x.matches false y.2)
    | _, _ => false

/-- R355, R370: is the sender lost, or pending-lost? -/
def State.fromLost (s : State) (p : Packet) : Bool := s.goneNow p.src

/-- What becomes of a packet of a stream (R299, R300): refused for good, answered as a duplicate, newly accepted, or
belonging to an accepted stream. -/
inductive PktVerdict where
  | discard | dup | fresh | known
  deriving DecidableEq, Repr

/-- R300, R355: judges a packet. -/
def State.judge (s : State) (gather : Bool) (p : Packet) : PktVerdict :=
  if s.fromLost p || !(s.exchNow p || s.exchSoon p) then .discard
  else if s.exchNow p && (s.pktBucket p).isNone then .discard
  else match s.acceptedFrom gather p with
    | none => if !gather && s.cle.closed.contains (fld p.addr 16 16, fld p.addr 32 14) then .dup else .fresh
    | some src => if src ≠ p.src then .dup
      else if !gather && s.cle.closed.contains (fld p.addr 16 16, fld p.addr 32 14) then .discard else .known

/-- Takes the oldest packet of a type that does not have to wait. -/
def State.takeStream (s : State) (gather : Bool) (ptype : Nat) : Option (Packet × State) :=
  s.takeInbox fun p => p.ptype = ptype && p.dst = s.fab.devid && !(s.judge gather p = .known && s.pktWaits gather p)

/-- Is this the first packet of its stream? -/
def firstOfStream (p : Packet) : Bool :=
  if p.ptype = 0x10 then p.aux % 2 ^ 26 = 0 else if p.ptype = 0x16 then p.aux = 0 else false

/-- R299: answers the first packet of a stream. -/
def State.ackStream (s : State) (p : Packet) (dup : Bool) : State :=
  s.sendPacket (mkPacket 0x12 p.src 0 0 p.addr (b2n dup) [])

/-- R299, R300: accepts a stream and answers it. -/
def State.acceptStream (s : State) (gather : Bool) (p : Packet) : State :=
  let x : Stream := ⟨gather, fld p.addr 0 16, fld p.addr 16 16, fld p.addr 32 14, pktAttempt gather p, p.src, .held, 0, 0, 0,
    false, false, [], false, 0, [], false, s.cle.hopWaitUs.toNat, s.cle.hopTimeoutUs.toNat, 0, 0⟩
  { s with
    cle.accepted := s.cle.accepted ++ [(gather, x.exch, x.bucket, x.shard, x.attempt, x.src)]
    cle.streams := s.cle.streams ++ [x] }.ackStream p false

/-- Changes a stream. -/
def State.modStream (s : State) (gather : Bool) (p : Packet) (f : Stream → Stream) : State :=
  { s with cle.streams := s.cle.streams.map fun x => if x.matches gather p then f x else x }

/-- Streams that have ended here and been answered by their receiver leave. -/
def State.reapStreams (s : State) : State :=
  { s with cle.streams := s.cle.streams.filter fun x => !(x.ended && x.acked) }

/-- Runs a handler on the next packet of a type, after the rules every stream obeys (R299, R300). A packet of a stream
only now accepted that must wait stays where it is. -/
def onStream (s : State) (gather : Bool) (ptype : Nat) (f : State → Packet → Bucket → Stream → State) : State :=
  match s.takeStream gather ptype with
  | none => s
  | some (p, s1) =>
    match s1.judge gather p with
    | .discard => s1
    | .dup => if firstOfStream p then s1.ackStream p true else s1
    | .fresh =>
      let s2 := s1.acceptStream gather p
      if s2.pktWaits gather p then s.acceptStream gather p
      else match s2.pktBucket p, s2.streamOf gather p with
        | some b, some x => (f s2 p b x).reapStreams
        | _, _ => s2
    | .known =>
      match s1.pktBucket p, s1.streamOf gather p with
      | some b, some x => (f s1 p b x).reapStreams
      | _, _ => s1

/-- R289, R299: a PART packet at this device: at the acting owner its blocks are merged and kept; at a hop they go on,
with this device's contribution unless it is late. -/
def partAt (s0 : State) (p : Packet) (b : Bucket) (x : Stream) : State :=
  let bi := x.bucket
  let j := x.shard
  let s := s0.readAgreed b (b.first j + p.aux % 2 ^ 26) (fld p.aux 26 6)
  let me := b.pos s.fab.devid
  let blocks := (partBlocks p).zipIdx.map fun (y, i) => (p.aux % 2 ^ 26 + i, y)
  let ch := s.chain b j
  let h := if x.mode = .late then (⟨s, blocks.map Prod.snd, 0, 0, 0, false, false⟩ : HopAcc) else s.hopRun bi j b blocks
  let mode := if x.mode = .late then StreamMode.late else .adding
  let upd := fun (y : Stream) => { y with
    mode := mode
    ck := (y.ck + wrapInt 128 h.ck) % 2 ^ 128
    dsa := (y.dsa + wrapInt 128 h.dsa) % 2 ^ 128
    nrec := y.nrec + h.nrec
    nonfinite := y.nonfinite || h.nonf
    overrange := y.overrange || h.ovr }
  match after ch me with
  | none =>
    h.st.modStream false p fun y => { upd y with
      merged := ((blocks.map Prod.fst).zip h.out).foldl (fun m q => sset none m q.1 (some q.2)) y.merged }
  | some nx0 =>
    let nx := if x.out.isEmpty then nx0 else x.nxt
    let ps := packBlocks 0x10 (b.dev nx) p.addr x.attempt 0 (h.out.length + 1) (p.aux % 2 ^ 26) h.out
    let limit := if x.out.isEmpty then s.cle.hopTimeoutUs.toNat else x.timeoutUs
    ((h.st.countHub 9 (maskBit 1) h.out.length).modStream false p fun y =>
      { upd y with nxt := nx, out := y.out ++ ps, timeoutUs := limit }).sendAll ps

/-- PART (R288 to R291, R299, R300). -/
def execPart (s : State) : Answer := .next (afterSnoop s (onStream s false 0x10 partAt))

/-- R291, R292: the owner judges a finished stream: the identity holds, or a second attempt is asked for, or every block
is marked NONFINITE. -/
def ownerClose (s : State) (p : Packet) (b : Bucket) (x : Stream) (c : Census) : State :=
  let bi := x.bucket
  let j := x.shard
  let blocks := (List.range (b.len j)).map fun i => sget none x.merged i
  let whole := blocks.all Option.isSome
  let xs := blocks.map fun y => y.getD (WBlk.zero 0 false)
  let done := fun (t : State) => t.modStream false p fun y => { y with ended := true, acked := true }
  let pay := devPayload s.fab.devid (b.pos s.fab.devid) p.addr
  if whole && identityHolds c (s.withAgreed b j xs) then done (s.closeShard bi j b xs c false)
  else
    let s1 := { s with cle.sticky := s.cle.sticky ||| 16 }
    if x.attempt = 0 then
      let s2 := done (s1.raise 0x0903 .k 0 pay)
      match (s.chain b j).head? with
      | some o => s2.sendPacket (mkPacket 0x13 (b.dev o) 0 0 p.addr (1 <<< 34) [])
      | none => s2
    else done ((((s1.raise 0x0904 .d 0 pay).setHealth 4).setHealth 1).closeShard bi j b xs c true)

/-- R291, R294: a CLOSE packet at this device: the census goes on with this device's part in it, or the owner judges. -/
def closeAt (s : State) (p : Packet) (b : Bucket) (x : Stream) : State :=
  let c0 := censusOf p.payload
  let c := if x.mode = .late then c0 else s.addToCensus b x.shard x.ck x.dsa x.nrec x.nonfinite x.overrange c0
  match after (s.chain b x.shard) (b.pos s.fab.devid) with
  | none => ownerClose s p b x c
  | some nx0 =>
    let nx := if x.out.isEmpty then nx0 else x.nxt
    let q := mkPacket 0x11 (b.dev nx) p.payload.length 0 p.addr p.aux (c.bytes b.g)
    (s.modStream false p fun y => { y with ended := true, nxt := nx, out := y.out ++ [q] }).sendAll [q]

/-- CLOSE (R291, R292, R294, R302). -/
def execClose (s : State) : Answer := .next (afterSnoop s (onStream s false 0x11 closeAt))

/-- ACK (R299, R300): the receiver has answered the first packet of a stream this device sends; DUP or not, it need not
be sent again. -/
def execAck (s : State) : Answer :=
  match s.takeType 0x12 with
  | none => .next s
  | some (p, s1) =>
    if s1.fromLost p then .next s1
    else
    let hit := fun (x : Stream) => !x.acked && !x.out.isEmpty && cleKey x.exch x.bucket x.shard = p.addr
      && (s.cle.buckets[x.bucket]?).any fun b => b.dev x.nxt = p.src
    match s1.cle.streams.find? hit with
    | none => .next s1
    | some x => .next { s1 with
        cle.streams := s1.cle.streams.map fun y => if y = x then { y with acked := true } else y }.reapStreams

/-- RETRY (R292): the originator runs the shard's stream again with ATTEMPT 1. -/
def execRetry (s : State) : Answer :=
  match s.takeType 0x13 with
  | none => .next s
  | some (p, s1) =>
    if s1.fromLost p || !s1.exchNow p then .next s1
    else match s1.pktBucket p with
      | none => .next s1
      | some b =>
        let j := fld p.addr 32 14
        if b.sealed && (s1.chain b j).head? = some (b.pos s1.fab.devid)
            && p.src = b.dev (b.ownerPos j s1.isLost) then
          .next (afterSnoop s (s1.originate (fld p.addr 16 16) j 1 b))
        else .next s1

/-! Finals at the buddy -/

/-- Is this device the buddy of the shard a packet names, and the packet from its owner? -/
def State.buddyOf (s : State) (p : Packet) (b : Bucket) : Bool :=
  let j := fld p.addr 32 14
  b.dev (b.ring.getD j (0, 0)).2 = s.fab.devid && b.dev j = p.src

/-- R302: does a FINAL_CLOSE still wait for finals of its shard? -/
def State.finalsDue (s : State) (p : Packet) : Bool :=
  p.ptype = 0x15 && match s.pktBucket p with
    | some b => s.exchNow p && s.buddyOf p b && decide ((s.cle.finRx.filter fun x =>
        x.1 = fld p.addr 16 16 && x.2.1 = fld p.addr 32 14).length < b.len (fld p.addr 32 14))
    | none => false

/-- Runs a handler on a packet of the open exchange for a shard this device shadows. -/
def onFinal (s : State) (ptype : Nat) (f : State → Packet → Bucket → State) : State :=
  match s.takeInbox fun p => p.ptype = ptype && p.dst = s.fab.devid && !((s.exchSoon p || s.finalsDue p) && !s.fromLost p) with
  | none => s
  | some (p, s1) =>
    if s1.fromLost p || !s1.exchNow p then s1
    else match s1.pktBucket p with
      | none => s1
      | some b => if s1.buddyOf p b then f s1 p b else s1

/-- R295: the finals of a FINAL packet are written. -/
def finalAt (t : State) (p : Packet) (b : Bucket) : State :=
  let j := fld p.addr 32 14
  let f := p.aux % 2 ^ 26
  let xs := partBlocks p
  let s1 := if xs.any fun x => x.e = 0xFF then t.readAgreed b (b.first j + f) xs.length else t
  let s2 := xs.zipIdx.foldl (fun u y => u.writeFinal b (b.first j + f + y.2) y.1 (y.1.e = 0xFF)) s1
  { s2 with cle.finRx := (s2.cle.finRx ++ (List.range xs.length).map fun i => (fld p.addr 16 16, j, f + i)).dedup }

/-- FINAL (R302): the buddy writes the final areas of the blocks that came, and their next forecast entries, which it
sends on should the owner be lost (R305). -/
def execFinal (s : State) : Answer :=
  .next (afterSnoop s (onFinal s 0x14 finalAt))

/-- FINAL_CLOSE (R302): once the buddy has written every block it writes DIV and increments hub flag 2. -/
def execFinalClose (s : State) : Answer :=
  .next (afterSnoop s (onFinal s 0x15 fun t p b =>
    let j := fld p.addr 32 14
    (t.setDiv b j (censusOf p.payload).samples).finalsHere (fld p.addr 16 16) j p.payload))

/-! The all-gather -/

/-- The map entry of a shard in an armed map. -/
def ShardMap.entryOf (m : ShardMap) (bi j : Nat) : Option MapEnt := m.ents.find? fun e => e.bucket = bi && e.shard = j

/-- R373: the staging address of an entry for the running step k = c + 1. -/
def State.stageAddr (s : State) (m : ShardMap) (e : MapEnt) : Nat := e.dst + (s.cke.c + 1) % 2 * m.stride

/-- R305: hub flag 3, once every non-empty shard of every bucket is staged here. -/
def State.settleStaged (s : State) : State :=
  let all := s.cle.buckets.zipIdx.flatMap fun (b, i) => b.shards.map fun j => (i, j)
  if s.cle.isOpen && !s.cle.stagedDone && s.cle.armed.isSome && all.all s.cle.staged.contains then
    { s with cle.stagedDone := true }.addHubFlag 3 1
  else s

/-- Marks a shard staged here. -/
def State.markStaged (s : State) (bi j : Nat) : State :=
  (if s.cle.staged.contains (bi, j) then s else { s with cle.staged := s.cle.staged ++ [(bi, j)] }).settleStaged

/-- Bytes cut into pieces of at most `n`. -/
def piecesOf (n : Nat) (bs : List Byte) : List (Nat × List Byte) :=
  (List.range ((bs.length + n - 1) / n)).map fun i => (n * i, (bs.drop (n * i)).take n)

/-- R304, R305: this device sends a shard's all-gather: image, next forecast entries, census; its own staging buffer
takes the image too (assumption 23). -/
def State.sendGather (s : State) (bi j img bytes : Nat) (census : List Byte) : State :=
  match s.cle.buckets[bi]?, s.cle.armed with
  | some b, some m =>
    let key := cleKey s.cle.exch bi j
    let fca := s.altPlane b.fc0 b.fc1 + 2 * b.first j
    let sr := s.cleReads [(img, bytes), (fca, 2 * b.len j)]
    let image := sr.bytesAt img bytes
    let fcs := sr.bytesAt fca (2 * b.len j)
    let s0 := match m.entryOf bi j with
      | some e => sr.cleWrite (s.stageAddr m e) image
      | none => sr
    let s1 := s0.markStaged bi j
    match (s.gatherChain b j).head? with
    | none => s1
    | some nx =>
      let dev := b.dev nx
      let ps := (piecesOf 4096 image).map (fun x => mkPacket 0x16 dev x.2.length 0 key x.1 x.2)
        ++ (piecesOf 4096 fcs).map (fun x => mkPacket 0x17 dev x.2.length 0 key (x.1 / 2) x.2)
        ++ [mkPacket 0x18 dev census.length 0 key 0 census]
      let st : Stream := ⟨true, s.cle.exch, bi, j, 0, s.fab.devid, .adding, 0, 0, 0, false, false, [], true, nx, ps, false,
        0, s.cle.hopTimeoutUs.toNat, 0, 0⟩
      ({ s1 with cle.streams := s1.cle.streams ++ [st] }).sendAll ps
  | _, _ => s

/-- The census this device holds of a shard whose finals stand here. -/
def State.censusBytes (s : State) (bi j : Nat) : List Byte :=
  match s.cle.finals.find? fun x => x.1 = (bi, j) with
  | some x => x.2
  | none => []

/-- Does this device send a shard's all-gather: it acts as its owner, lost and pending-lost devices counted (R305)? -/
def State.gathers (s : State) (b : Bucket) (j : Nat) : Bool := b.dev (b.ownerPos j s.goneNow) = s.fab.devid

/-- R304: sends the all-gather of a shard whose image is complete, once the gather is armed. -/
def State.gatherShard (s : State) (bi j : Nat) : State :=
  match s.cle.buckets[bi]?, s.cle.armed with
  | some b, some m =>
    match m.entryOf bi j with
    | some e =>
      if s.gathers b j && s.cle.imaged.contains (bi, j) then
        let t := s.cleReads [(e.sdesc + 80, 8)]
        t.sendGather bi j (t.numAt (e.sdesc + 80) 8) e.bytes (t.censusBytes bi j)
      else s
    | none => s
  | _, _ => s

/-- One packet of an all-gather on to the next position, after its own effect. -/
def forwardGather (s : State) (p : Packet) (b : Bucket) (x : Stream) (last : Bool) : State :=
  match after (s.gatherChain b x.shard) (b.pos s.fab.devid) with
  | none => s.modStream true p fun y => if last then { y with ended := true, acked := true } else y
  | some nx0 =>
    let nx := if x.out.isEmpty then nx0 else x.nxt
    let q := { p with dst := b.dev nx }
    let limit := if x.out.isEmpty then s.cle.hopTimeoutUs.toNat else x.timeoutUs
    (s.modStream true p fun y => { y with nxt := nx, out := y.out ++ [q], ended := last, timeoutUs := limit }).sendAll [q]

/-- R304: the bytes of a GATHER packet go to the staging address of their shard, and the packet on. -/
def gatherAt (t : State) (p : Packet) (b : Bucket) (x : Stream) : State :=
  let t1 := match t.cle.armed.bind fun m => (m.entryOf x.bucket x.shard).map fun e => t.stageAddr m e with
    | some a => t.cleWrite (a + p.aux) p.payload
    | none => t
  forwardGather (t1.modStream true p fun y => { y with gotImg := y.gotImg + p.payload.length }) p b x false

/-- GATHER (R305): the payload goes to this device's staging destination, and on. -/
def execGather (s : State) : Answer :=
  .next (afterSnoop s (onStream s true 0x16 gatherAt))

/-- GATHER_FC (R305): the next exchange's forecast entries go to the alternate plane, and on. -/
def execGatherFc (s : State) : Answer :=
  .next (afterSnoop s (onStream s true 0x17 fun t p b x =>
    forwardGather ((t.cleWrite (t.altPlane b.fc0 b.fc1 + 2 * (b.first x.shard + p.aux)) p.payload).modStream true p fun y =>
      { y with gotFc := y.gotFc + p.payload.length }) p b x false))

/-- GATHER_CLOSE (R298, R303, R305): the census is taken, the shard is staged, and the packet goes on. -/
def execGatherClose (s : State) : Answer :=
  .next (afterSnoop s (onStream s true 0x18 fun t p b x =>
    let t1 := (forwardGather t p b x true).learnCensus x.bucket b x.shard (censusOf p.payload)
    t1.markStaged x.bucket x.shard))

/-! Time limits -/

/-- HOP_WAIT_EXPIRY (R299, R312): a stream held for CLE_HOP_WAIT_US, as it was at its first packet, goes on unchanged; the owner never forwards. -/
def execHopWaitExpiry (bucket : BitVec 16) (shard : BitVec 14) (s : State) : Answer :=
  match s.cle.buckets[bucket.toNat]? with
  | none => .next s
  | some b =>
    let me := b.pos s.fab.devid
    if b.sealed ∨ (after (s.chain b shard.toNat) me).isNone then .next s
    else .next { s with cle.streams := s.cle.streams.map fun x =>
      if !x.gather && x.bucket = bucket.toNat && x.shard = shard.toNat && x.mode = .held && x.exch = s.cle.exch
          && x.waitUs ≠ 0 then
        { x with mode := .late } else x }

/-- R299: what is left of a stream's packets is taken out of the queues. -/
def State.dropStream (s : State) (x : Stream) : State :=
  match x.out with
  | p :: _ => s.dropFlow p.flow
  | [] => s

/-- CLE_HOP_SKIP (R299): a stream's receiver has not answered within CLE_HOP_TIMEOUT_US: the stream goes from its start
to the following position; the owner is never skipped, and its stream is discarded. -/
def execCleHopSkip (gather : Bool) (bucket : BitVec 16) (shard : BitVec 14) (s : State) : Answer :=
  match s.cle.buckets[bucket.toNat]?, s.cle.streams.find? (fun x =>
      x.gather == gather && x.bucket = bucket.toNat && x.shard = shard.toNat && x.exch = s.cle.exch && !x.acked
        && !x.out.isEmpty) with
  | some b, some x =>
    if x.timeoutUs = 0 then .next s
    else
      let ch := if gather then s.gatherChain b x.shard else s.chain b x.shard
      let cut := s.dropStream x
      let gone := { cut with cle.streams := s.cle.streams.erase x }
      match after ch x.nxt with
      | none => if gather then
          .next { gone.raise 0x0906 .c 0 (devPayload (b.dev x.nxt) x.nxt (cleKey x.exch x.bucket x.shard)) with
            cle.sticky := s.cle.sticky ||| 8 }
        else .next gone
      | some nx =>
        let ps := retarget (b.dev nx) x.out
        let s1 := (cut.raise 0x0906 .c 0 (devPayload (b.dev x.nxt) x.nxt (cleKey x.exch x.bucket x.shard)))
        .next ({ s1 with
          cle.sticky := s1.cle.sticky ||| 8
          cle.streams := s1.cle.streams.map fun y =>
            if y = x then { y with nxt := nx, out := ps, timeoutUs := s.cle.hopTimeoutUs.toNat } else y }.sendAll ps)
  | _, _ => .next s

/-- CLE_DEADLINE (R299): the CLOSE of a shard of a sealed bucket has not come within CLE_DEADLINE_US: the owner closes
the shard with its own contribution alone. -/
def execCleDeadline (bucket : BitVec 16) (shard : BitVec 14) (s : State) : Answer :=
  let bi := bucket.toNat
  let j := shard.toNat
  match s.cle.buckets[bi]? with
  | none => .next s
  | some b =>
    if b.deadlineUs = 0 ∨ !s.cle.isOpen ∨ !b.sealed ∨ s.cle.closed.contains (bi, j) ∨ b.len j = 0
        ∨ b.dev (b.ownerPos j s.isLost) ≠ s.fab.devid then .next s
    else
      let s1 := s.raise 0x0907 .c 0 (devPayload s.fab.devid (b.pos s.fab.devid) (cleKey s.cle.exch bi j))
      let s2 := { s1 with cle.streams := s1.cle.streams.filter fun x => x.gather || x.bucket ≠ bi || x.shard ≠ j }
      .next (afterSnoop s (s2.closeAlone bi j b true))

/-! Closing an exchange -/

/-- R303: what the end of an exchange does to one sample entry: `flip` at a commit, else an abort that keeps or
discards the accumulators. -/
def rollEntry (flip keep : Bool) (x : Nat) : Nat :=
  let total := fld x 32 30
  let counted := bitAt x 62
  let y := if (if flip then counted else !keep) then setFld (setFld x 0 32 0) 63 1 1 else setFld x 0 32 total
  setFld y 62 1 0

/-- R303, R296: closes the open exchange: roll-over of every sample entry, CLE_LATE and CLE_FORECAST_MISS once each. -/
def State.closeExchange (s : State) (flip keep : Bool) : State :=
  if !s.cle.isOpen then s
  else
    let s1 := s.cle.buckets.foldl (fun t b => (List.range b.g).foldl (fun u j => u.modSmp b j (rollEntry flip keep)) t) s
    let n := s1.cle.late.length
    let s2 := if n = 0 then s1
      else { s1.raise 0x090A .c 0 (n <<< 96) with cle.lateCount := satAdd 32 s1.cle.lateCount n }
    let s3 := if s2.cle.misses = 0 then s2 else s2.raise 0x0905 .c 0 (s2.cle.misses <<< 96)
    { s3 with
      cle.isOpen := false
      cle.buckets := []
      cle.streams := s3.cle.streams.filter fun x => x.exch ≠ s3.cle.exch
      cle.accepted := s3.cle.accepted.filter fun a => a.2.1 ≠ s3.cle.exch
      cle.closed := []
      cle.finals := []
      cle.imaged := []
      cle.finRx := []
      cle.staged := []
      cle.armed := none
      cle.stagedDone := false
      cle.late := []
      cle.misses := 0 }

/-! Small reductions -/

/-- CLE_SMALLREDUCE's checks at dispatch: FP32 or BF16 tiles of one shape, at most 16,384 elements and 64 KiB (R306). -/
def cleSrCodes (k : Core) (d : Disp) : List Nat :=
  let okF := fun (t : Tile) => t.fmt = .fp32 || t.fmt = .bf16
  handleCodes k d.lo 1 ++ fmtCodes k d.lo (fun a _ q => (a.any fun x => !okF x) || q.any fun x => !okF x) ++ onTiles k d.lo fun a _ q =>
    code? (decide (16384 < a.count) || a.rows != q.rows || a.cols != q.cols) 0x0304

/-- R312: the members of a group. -/
def Cle.members (c : Cle) (g : Nat) : List Nat :=
  (List.range 8).filterMap fun i =>
    let x := (sget 0 c.srMem (8 * g + i)).toNat
    if bitAt x 31 then some (x % 2 ^ 14) else none

/-- The element codes of a tile in row-major order, as bytes; those of an uncorrectable word are NaN or 0 (R159). -/
def tileBytes (k : Core) (t : Tile) : List Byte :=
  packCodes t.fmt.elemBits ((List.range t.count).map fun i => (rawCode k t (i / t.cols) (i % t.cols)).1)

/-- The bytes of a member's tile that have arrived, in order. -/
def Cle.srBytes (c : Cle) (r : SrRun) (src : Nat) : SMap (Option Byte) :=
  (c.srGot.filter fun x => x.group = r.group && x.count = r.count && x.src = src).foldl
    (fun m x => x.data.zipIdx.foldl (fun n y => sset none n (x.off + y.2) (some y.1)) m) []

/-- Has a member's whole tile arrived? -/
def Cle.srWhole (c : Cle) (r : SrRun) (src : Nat) : Bool := decide ((c.srBytes r src).length = r.bytes)

/-- R306: the sum of all members' tiles written to QD; INVALID when NaN came from finite inputs. -/
def finishSr (s : State) (r : SrRun) (e : EngCmd) : State :=
  let c := coreNo r.core
  let k := s.core c
  let a := hTile e.qs0
  let q := hTile e.qd
  let devs := (s.cle.members r.group).insertionSort (· ≤ ·)
  let w := a.fmt.elemBits / 8
  let tiles := devs.map fun d =>
    if d = s.fab.devid then (List.range a.count).map fun i => (k.elem a (wFtz e.lo) (i / a.cols) (i % a.cols)).1
    else
      let m := s.cle.srBytes r d
      (List.range a.count).map fun i =>
        (ofFmt a.fmt (wFtz e.lo) (ofLE ((List.range w).map fun b => (sget none m (w * i + b)).getD 0))).1
  let sums := (List.range a.count).map fun i => tiles.foldl (fun (x : Num × Fl) t =>
    let (y, f) := fp32Add x.1 (t.getD i numZero)
    (y, x.2 ||| f)) (numZero, 0)
  let k1 := (List.range q.rows).foldl (fun (x : Core) row =>
    (x.storeRow q (wConv e.lo) (k.srInt e) row ((sums.drop (row * q.cols)).take q.cols |>.map Prod.fst)).1) k
  let inval := sums.any fun x => x.2 &&& flInvalid != 0
  { s.setCore c (hubDone k1 e.id) with
    cle.sticky := if inval then s.cle.sticky ||| 32 else s.cle.sticky
    cle.srRuns := s.cle.srRuns.erase r
    cle.srGot := s.cle.srGot.filter fun x => !(x.group = r.group && x.count = r.count) }

/-- The command of a small reduction in progress. -/
def srCmd (s : State) (r : SrRun) : Option EngCmd :=
  (((s.core (coreNo r.core)).t.hubRun).find? fun x => x.cmd.id = r.cmd).map fun x => x.cmd

/-- Completes one small reduction if its members' tiles are all there. -/
def settleSrOne (t : State) (r : SrRun) : State :=
  if (t.cle.members r.group).all fun d => d = t.fab.devid || t.cle.srWhole r d then
    match srCmd t r with
    | some e => finishSr t r e
    | none => { t with cle.srRuns := t.cle.srRuns.erase r }
  else t

/-- Completes every small reduction whose members' tiles are all there. -/
def settleSr (s : State) : State :=
  s.cle.srRuns.foldl settleSrOne s

/-- R307: QD is unspecified after a fault of a small reduction: a free value in each element (assumption 3). -/
def State.scrambleTile (s : State) (c : CoreId) (t : Tile) : State :=
  let codes := fun (r : Nat) => (List.range t.cols).map fun i => Config.freeValue (s.fresh + r * t.cols + i) % 2 ^ t.fmt.elemBits
  { s.modCore c fun k => (List.range t.rows).foldl (fun x r => x.writeCodes t r 0 (codes r)) k with
    fresh := s.fresh + t.count }

/-- R307: a fault of a small reduction. -/
def srFault (s : State) (c : CoreId) (e : EngCmd) (code : Nat) : State :=
  let s1 := { s with cle.srRuns := s.cle.srRuns.filter fun r => !(r.core = c.val && r.cmd = e.id) }
  (s1.scrambleTile c (hTile e.qd)).engFault c e code noPos

/-- R307: is the group refused for this core? -/
def srGroupBad (s : State) (c : CoreId) (g : Nat) : Bool :=
  let r := sget 0 s.cle.srGroup g
  let ms := s.cle.members g
  !r.getLsbD 6 || r.toNat % 64 != c.val || !ms.contains s.fab.devid || decide (ms.length < 2)

/-- R307: do the pieces of a member's tile that are here show another shape or format than a tile of `bytes` bytes: marked so,
reaching beyond it, or ending short of it? -/
def Cle.srDiffers (c : Cle) (g n bytes : Nat) : Bool :=
  (c.srGot.filter fun x => x.group = g && x.count = n).any fun x =>
    x.differs || decide (bytes < x.off + x.data.length) || (decide (x.data.length < 4096) && decide (x.off + x.data.length ≠ bytes))

/-- CLE_SMALLREDUCE (R306, R307): dispatched to the hub-bound queue; at its head the group is checked and the tile goes
to every other member. -/
def execCleSmallreduce (core : CoreId) (phase : HubPhase) (s : State) : Answer :=
  match phase with
  | .dispatch lo imm =>
    .next (dispatchWith s core lo imm 0x52 cleSrCodes (fun k d => engStalls k .hub (tileRegions k d.lo 1).length)
      (engDispatch .hub (fun k d => tileRegions k d.lo 1) (fun _ _ => false) (fun _ _ => 0)
        (fun k _ => k) core))
  | .perform =>
    match startHub s core 0x52 with
    | none => .next s
    | some (e, s1) =>
      let g := e.imm % 16
      if srGroupBad s1 core g then .next (srFault s1 core e 0x090B)
      else
        let n := sget 0 s1.cle.srCount g
        let bytes := tileBytes (s1.core core) (hTile e.qs0)
        let s2 := { s1 with
          cle.srCount := sset 0 s1.cle.srCount g (n + 1)
          cle.srRuns := s1.cle.srRuns ++ [⟨core.val, e.id, g, n % 65536, bytes.length, s1.cle.srTimeoutUs.toNat⟩] }
        let s3 := ((s1.cle.members g).filter (· ≠ s1.fab.devid)).foldl (fun t d =>
          t.sendAll ((piecesOf 4096 bytes).map fun x => mkPacket 0x19 d x.2.length 0 (g + (n % 65536) <<< 4) x.1 x.2)) s2
        .next (if s1.cle.srDiffers g (n % 65536) bytes.length then srFault s3 core e 0x090C else settleSr s3)

/-- SR (R307): a piece of a member's tile arrives; `differs`: it belongs to a tile of another shape or format, which the
packet's fields do not tell unless the sizes differ (assumption 24). -/
def execSr (differs : Bool) (s : State) : Answer :=
  match s.takeType 0x19 with
  | none => .next s
  | some (p, s1) =>
    if s1.fromLost p then .next s1
    else
      let g := p.addr % 16
      let n := fld p.addr 4 16
      let s2 := { s1 with cle.srGot := s1.cle.srGot ++ [⟨g, n, p.src, p.aux, p.payload, differs⟩] }
      match s1.cle.srRuns.find? fun r => r.group = g && r.count = n with
      | some r =>
        if s2.cle.srDiffers g n r.bytes then
          (match srCmd s2 r with
           | some e => .next (srFault s2 (coreNo r.core) e 0x090C)
           | none => .next s2)
        else .next (settleSr s2)
      | none => .next s2

/-- CLE_SR_TIMEOUT (R307): a member's tile has not come within CLE_SR_TIMEOUT_US. -/
def execCleSrTimeout (group : Fin 16) (s : State) : Answer :=
  match s.cle.srRuns.find? fun r => r.group = group.val with
  | none => .next s
  | some r =>
    match srCmd s r with
    | some e => if r.timeoutUs = 0 then .next s else .next (srFault s (coreNo r.core) e 0x090D)
    | none => .next s

end Sys2Proof.Machine
end

