-- ==== Sys2Proof/Machine/Hash.lean ====
section
/-! DEFINITION. The hash functions the spec names: SHAKE256 (R341, R455), SHA-384 (R465) and SHA3-384 (R465), as their public
standards define them (assumption 9). -/

namespace Sys2Proof.Machine

/-! Keccak -/

/-- The round constants of Keccak-f[1600]. -/
def keccakRc : List Nat :=
  [0x1, 0x8082, 0x800000000000808a, 0x8000000080008000,
   0x808b, 0x80000001, 0x8000000080008081, 0x8000000000008009,
   0x8a, 0x88, 0x80008009, 0x8000000a,
   0x8000808b, 0x800000000000008b, 0x8000000000008089, 0x8000000000008003,
   0x8000000000008002, 0x8000000000000080, 0x800a, 0x800000008000000a,
   0x8000000080008081, 0x8000000000008080, 0x80000001, 0x8000000080008008]

/-- How far a lane is rotated; lane x + 5·y. -/
def keccakRot : List Nat := [0, 1, 62, 28, 27, 36, 44, 6, 55, 20, 3, 10, 43, 25, 39, 41, 45, 15, 21, 8, 18, 2, 61, 56, 14]

/-- A lane of the state. -/
def lane (a : List Word64) (x y : Nat) : Word64 := a.getD (x % 5 + 5 * (y % 5)) 0

/-- The state from its lanes. -/
def lanes (f : Nat → Nat → Word64) : List Word64 := (List.range 25).map fun i => f (i % 5) (i / 5)

/-- One round: the column parities, the rotations with the permutation of lanes, the rows, the round constant. -/
def keccakRound (a : List Word64) (rc : Nat) : List Word64 :=
  let par := (List.range 5).map fun x => lane a x 0 ^^^ lane a x 1 ^^^ lane a x 2 ^^^ lane a x 3 ^^^ lane a x 4
  let mix := fun x => par.getD ((x + 4) % 5) 0 ^^^ (par.getD ((x + 1) % 5) 0).rotateLeft 1
  let b := lanes fun x y =>
    let i := (x + 3 * y) % 5
    (lane a i x ^^^ mix i).rotateLeft (keccakRot.getD (i + 5 * x) 0)
  let c := lanes fun x y => lane b x y ^^^ (~~~(lane b (x + 1) y) &&& lane b (x + 2) y)
  c.modify 0 (· ^^^ BitVec.ofNat 64 rc)

/-- The permutation. -/
def keccakF (a : List Word64) : List Word64 := keccakRc.foldl keccakRound a

/-- A message with its domain bits and padding, as whole blocks of `rate` bytes. -/
def spongePad (rate dom : Nat) (m : List Byte) : List Byte :=
  let n := rate - m.length % rate
  m ++ (List.range n).map fun i => BitVec.ofNat 8 ((if i = 0 then dom else 0) + (if i = n - 1 then 0x80 else 0))

/-- A block of bytes as lanes. -/
def blockLanes (rate : Nat) (bs : List Byte) : List Word64 :=
  (List.range 25).map fun i => if 8 * i < rate then
    BitVec.ofNat 64 (((bs.drop (8 * i)).take 8).foldr (fun b n => b.toNat + 256 * n) 0) else 0

/-- Takes in the blocks of a padded message. -/
def absorb (rate : Nat) : Nat → List Byte → List Word64 → List Word64
  | 0, _, a => a
  | n + 1, bs, a => absorb rate n (bs.drop rate) (keccakF ((a.zip (blockLanes rate (bs.take rate))).map fun (x, y) => x ^^^ y))

/-- The first bytes of a state. -/
def stateBytes (n : Nat) (a : List Word64) : List Byte :=
  (List.range n).map fun i => ((a.getD (i / 8) 0) >>> (8 * (i % 8))).setWidth 8

/-- A sponge whose output fits one block. -/
def sponge (rate dom out : Nat) (m : List Byte) : List Byte :=
  let p := spongePad rate dom m
  stateBytes out (absorb rate (p.length / rate) p (List.replicate 25 0))

/-- SHAKE256 with an output of at most 136 bytes. -/
def shake256 (m : List Byte) (out : Nat) : List Byte := sponge 136 0x1F out m

/-- SHA3-384. -/
def sha3x384 (m : List Byte) : List Byte := sponge 104 0x06 48 m

/-! SHA-384 -/

/-- The round constants of SHA-512. -/
def sha512K : List Nat :=
  [0x428a2f98d728ae22, 0x7137449123ef65cd, 0xb5c0fbcfec4d3b2f, 0xe9b5dba58189dbbc,
   0x3956c25bf348b538, 0x59f111f1b605d019, 0x923f82a4af194f9b, 0xab1c5ed5da6d8118,
   0xd807aa98a3030242, 0x12835b0145706fbe, 0x243185be4ee4b28c, 0x550c7dc3d5ffb4e2,
   0x72be5d74f27b896f, 0x80deb1fe3b1696b1, 0x9bdc06a725c71235, 0xc19bf174cf692694,
   0xe49b69c19ef14ad2, 0xefbe4786384f25e3, 0xfc19dc68b8cd5b5, 0x240ca1cc77ac9c65,
   0x2de92c6f592b0275, 0x4a7484aa6ea6e483, 0x5cb0a9dcbd41fbd4, 0x76f988da831153b5,
   0x983e5152ee66dfab, 0xa831c66d2db43210, 0xb00327c898fb213f, 0xbf597fc7beef0ee4,
   0xc6e00bf33da88fc2, 0xd5a79147930aa725, 0x6ca6351e003826f, 0x142929670a0e6e70,
   0x27b70a8546d22ffc, 0x2e1b21385c26c926, 0x4d2c6dfc5ac42aed, 0x53380d139d95b3df,
   0x650a73548baf63de, 0x766a0abb3c77b2a8, 0x81c2c92e47edaee6, 0x92722c851482353b] ++
  [0xa2bfe8a14cf10364, 0xa81a664bbc423001, 0xc24b8b70d0f89791, 0xc76c51a30654be30,
   0xd192e819d6ef5218, 0xd69906245565a910, 0xf40e35855771202a, 0x106aa07032bbd1b8,
   0x19a4c116b8d2d0c8, 0x1e376c085141ab53, 0x2748774cdf8eeb99, 0x34b0bcb5e19b48a8,
   0x391c0cb3c5c95a63, 0x4ed8aa4ae3418acb, 0x5b9cca4f7763e373, 0x682e6ff3d6b2b8a3,
   0x748f82ee5defb2fc, 0x78a5636f43172f60, 0x84c87814a1f0ab72, 0x8cc702081a6439ec,
   0x90befffa23631e28, 0xa4506cebde82bde9, 0xbef9a3f7b2c67915, 0xc67178f2e372532b,
   0xca273eceea26619c, 0xd186b8c721c0c207, 0xeada7dd6cde0eb1e, 0xf57d4f7fee6ed178,
   0x6f067aa72176fba, 0xa637dc5a2c898a6, 0x113f9804bef90dae, 0x1b710b35131c471b,
   0x28db77f523047d84, 0x32caab7b40c72493, 0x3c9ebe0a15c9bebc, 0x431d67c49c100d4c,
   0x4cc5d4becb3e42b6, 0x597f299cfc657e2a, 0x5fcb6fab3ad6faec, 0x6c44198c4a475817]

/-- The initial value of SHA-384. -/
def sha384Init : List Word64 :=
  [0xcbbb9d5dc1059ed8, 0x629a292a367cd507, 0x9159015a3070dd17, 0x152fecd8f70e5939,
   0x67332667ffc00b31, 0x8eb44a8768581511, 0xdb0c2e0d64f98fa7, 0x47b5481dbefa4fa4]

/-- The message schedule: each further word from four earlier ones; newest first. -/
def schedule : Nat → List Word64 → List Word64
  | 0, ws => ws
  | n + 1, ws =>
    let g := fun i => ws.getD i 0
    let s0 := (g 14).rotateRight 1 ^^^ (g 14).rotateRight 8 ^^^ ((g 14) >>> 7)
    let s1 := (g 1).rotateRight 19 ^^^ (g 1).rotateRight 61 ^^^ ((g 1) >>> 6)
    schedule n ((s1 + g 6 + s0 + g 15) :: ws)

/-- One round on the eight working words. -/
def shaRound (h : List Word64) (x : Nat × Word64) : List Word64 :=
  let g := fun i => h.getD i 0
  let s1 := (g 4).rotateRight 14 ^^^ (g 4).rotateRight 18 ^^^ (g 4).rotateRight 41
  let ch := (g 4 &&& g 5) ^^^ (~~~(g 4) &&& g 6)
  let t1 := g 7 + s1 + ch + BitVec.ofNat 64 x.1 + x.2
  let s0 := (g 0).rotateRight 28 ^^^ (g 0).rotateRight 34 ^^^ (g 0).rotateRight 39
  let maj := (g 0 &&& g 1) ^^^ (g 0 &&& g 2) ^^^ (g 1 &&& g 2)
  [t1 + (s0 + maj), g 0, g 1, g 2, g 3 + t1, g 4, g 5, g 6]

/-- A big-endian word of bytes. -/
def beWord (bs : List Byte) : Word64 := BitVec.ofNat 64 (bs.foldl (fun n b => 256 * n + b.toNat) 0)

/-- Takes in the 128-byte blocks of a padded message. -/
def shaBlocks : Nat → List Byte → List Word64 → List Word64
  | 0, _, h => h
  | n + 1, bs, h =>
    let ws := (List.range 16).map fun i => beWord ((bs.drop (8 * i)).take 8)
    let r := (sha512K.zip (schedule 64 ws.reverse).reverse).foldl shaRound h
    shaBlocks n (bs.drop 128) ((h.zip r).map fun (x, y) => x + y)

/-- A message with its padding: a 1 bit, zeros, and the length in bits. -/
def shaPad (m : List Byte) : List Byte :=
  let z := (239 - m.length % 128) % 128
  m ++ [0x80] ++ List.replicate z 0 ++ (List.range 16).map fun i => BitVec.ofNat 8 (8 * m.length / 256 ^ (15 - i))

/-- SHA-384. -/
def sha384 (m : List Byte) : List Byte :=
  let p := shaPad m
  ((shaBlocks (p.length / 128) p sha384Init).take 6).flatMap fun w =>
    (List.range 8).map fun i => BitVec.ofNat 8 (w.toNat >>> (8 * (7 - i)))

end Sys2Proof.Machine
end

