-- ==== Sys2Proof/Machine/PueNum.lean ====
section
/-! DEFINITION. The arithmetic of the parameter update engine (11_parameter_update.md, R325 to R331, R339, R340): W48
operations, transcendental factors within R327's bound, schedules and decay sums, the update rules, and inverse fourth
roots. -/

namespace Sys2Proof.Machine

/-! W48 -/

/-- One W48 operation under RNE (R329). -/
def w (x : Num) : Num := roundIn ffW48 x
def wAdd (x y : Num) : Num := w (x.add y)
def wSub (x y : Num) : Num := w (x.sub y)
def wMul (x y : Num) : Num := w (x.mul y)
def wDiv (x y : Num) : Num := w (x.div y)
def wSqrt (x : Num) : Num := w x.sqrt

/-- A natural number in W48. -/
def wNat (n : Nat) : Num := w (numOfInt n)

/-- One unit in the last place of a finite W48 value. -/
def w48Ulp (x : Num) : Num := .fin false 1 (max x.ilog2 (-510) - 37)

/-- R327: a transcendental value of the engine: within 2^-36 of the exact one, relatively, at an unspecified place
(assumption 25). -/
def trans (fn a b : Nat) (exact : Num) : Num :=
  let r := w exact
  let y := w (r.add ((numOfInt (Config.pueTransOffset fn a b)).mul (w48Ulp r)))
  if !exact.isFin || exact.isZero then r
  else if ((y.sub exact).abs).le (exact.abs.scale (-36)) then y else r

/-- e^x for a W48 value. -/
def transExp (x : Num) : Num :=
  match x with
  | .fin _ m _ => if m = 0 then numOne else trans 0 (w48Code x).toNat 0 (numExp x)
  | .inf neg => if neg then numZero else x
  | .nan => .nan

/-- b^n for b in [0, 1] and a natural number n. -/
def transPow (b : Num) (n : Nat) : Num :=
  if n = 0 then numOne
  else if b.isZero then numZero
  else if b.eqv numOne then numOne
  else trans 1 (w48Code b).toNat n (fxExp2 (fxDiv ((n : Int) * fxLnNum b) ln2Fix))

/-- π·p ÷ q as a fixed-point angle below 2π (p ≤ 2q). -/
def fxPi (p q : Nat) : Int := piFix640 * p / (q : Int) / ((2 ^ 320 : Nat) : Int)

/-- cos(π·p ÷ q) and sin(π·p ÷ q), exact where they are 0 or ±1. -/
def numCosPi (p q : Nat) : Num :=
  let r := p % (2 * q)
  if r = 0 then numOne
  else if r = q then numOne.negate
  else if 2 * r = q ∨ 2 * r = 3 * q then numZero
  else if q < r then fxNum (-(fxCos (fxPi (r - q) q))) 0 else fxNum (fxCos (fxPi r q)) 0
def numSinPi (p q : Nat) : Num :=
  let r := p % (2 * q)
  if r = 0 ∨ r = q then numZero
  else if 2 * r = q then numOne
  else if 2 * r = 3 * q then numOne.negate
  else if q < r then fxNum (-(fxSin (fxPi (r - q) q))) 0 else fxNum (fxSin (fxPi r q)) 0

/-- cos and sin of a rational multiple of π, within R327's bound. -/
def transCos (p q : Nat) : Num := trans 2 p q (numCosPi p q)
def transSin (p q : Nat) : Num := trans 3 p q (numSinPi p q)

/-! Schedules -/

/-- R326: KNOTS: the segment a group step lies in. -/
def knotEta : List (Nat × Num) → Nat → Num
  | [], _ => numZero
  | [p], _ => p.2
  | p :: q :: rest, t =>
    if t ≤ p.1 then p.2
    else if t < q.1 then wAdd p.2 (wDiv (wMul (wSub q.2 p.2) (wNat (t - p.1))) (wNat (q.1 - p.1)))
    else knotEta (q :: rest) t

/-- R326: the learning rate of a group at group step t. -/
def Group.eta (g : Group) (t : Nat) : Num :=
  match g.sched with
  | 0 => knotEta g.knots t
  | 1 =>
    if g.warm ≠ 0 ∧ t ≤ g.warm then wDiv (wMul g.p0 (wNat t)) (wNat g.warm)
    else if t ≤ g.total then
      let c := transCos (t - g.warm) (g.total - g.warm)
      wAdd g.p1 (wDiv (wMul (wSub g.p0 g.p1) (wAdd numOne c)) (wNat 2))
    else g.p1
  | _ => wMul g.p0 (transPow g.p1 (t - 1))

/-- The sum of an arithmetic series of n terms from its first and last. -/
def arith (n : Nat) (a b : Num) : Num := wDiv (wMul (wNat n) (wAdd a b)) (wNat 2)

/-- R327: KNOTS: the sum of η over the group steps from `lo` to t, segment by segment. -/
def knotSum (g : Group) : List (Nat × Num) → Nat → Nat → Num
  | [], lo, t => if t < lo then numZero else wMul (wNat (t + 1 - lo)) (g.eta t)
  | p :: rest, lo, t =>
    if t < lo then numZero
    else
      let hi := min t p.1
      let here := if hi < lo then numZero else arith (hi + 1 - lo) (g.eta lo) (g.eta hi)
      wAdd here (knotSum g rest (max lo (p.1 + 1)) t)

/-- R327: C(t), the sum of η(1) to η(t), by its closed forms in W48 (assumption 26). -/
def Group.decaySum (g : Group) (t : Nat) : Num :=
  if t = 0 then numZero
  else match g.sched with
    | 0 => knotSum g g.knots 1 t
    | 1 =>
      let nw := min t g.warm
      let warm := if nw = 0 then numZero else arith nw (g.eta 1) (g.eta nw)
      let n := min t g.total - g.warm
      let half := wDiv (wSub g.p0 g.p1) (wNat 2)
      let q := g.total - g.warm
      let series := if n = 0 then numZero
        else wDiv (wMul (transSin n (2 * q)) (transCos (n + 1) (2 * q))) (transSin 1 (2 * q))
      let mid := if n = 0 then numZero
        else wAdd (wMul (wNat n) (wAdd g.p1 half)) (wMul half series)
      let tail := if t ≤ g.total then numZero else wMul (wNat (t - g.total)) g.p1
      wAdd (wAdd warm mid) tail
    | _ =>
      if g.p1.eqv numOne then wMul g.p0 (wNat t)
      else wDiv (wMul g.p0 (wSub numOne (transPow g.p1 t))) (wSub numOne g.p1)

/-! The rules -/

/-- One element's state in W48: master, first and second moment. -/
structure PElem where
  th : Num
  m : Num
  v : Num
  deriving DecidableEq, Repr

/-- R331: what a group needs to catch a block up over n skipped steps, and R328's group-wide factors. -/
structure PFactors where
  eta : Num
  decay : Num
  catchDecay : Num
  catchB1 : Num
  catchB2 : Num
  b1t : Num
  b2t : Num
  deriving DecidableEq, Repr

/-- R328, R329, R331: the factors at group step t for a block last written at group step `tu`, `n` steps skipped. -/
def Group.factors (g : Group) (t tu n : Nat) : PFactors :=
  let eta := g.eta t
  ⟨eta, transExp (wMul g.wd eta).negate, transExp (wMul g.wd (wSub (g.decaySum (t - 1)) (g.decaySum tu))).negate,
    transPow g.beta1 n, transPow g.beta2 n, transPow g.beta1 t, transPow g.beta2 t⟩

/-- R331: catch-up of one element. -/
def catchUp (g : Group) (f : PFactors) (x : PElem) : PElem :=
  let th := wMul x.th f.catchDecay
  match g.rule with
  | 1 => ⟨th, wMul f.catchB1 x.m, wMul f.catchB2 x.v⟩
  | 2 => ⟨th, wMul f.catchB2 x.m, x.v⟩
  | _ => ⟨th, wMul f.catchB1 x.m, x.v⟩

/-- R328: sign(x), with sign(±0) = 0. -/
def numSign (x : Num) : Num := if x.isNan then .nan else if x.isZero then numZero else if x.negBit then numOne.negate else numOne

/-- R328, R329: the update of one element by SGDM, ADAMW or LION. -/
def applyRule (g : Group) (f : PFactors) (x : PElem) (gr : Num) : PElem :=
  let dec := wMul x.th f.decay
  let c1 := wSub numOne g.beta1
  let c2 := wSub numOne g.beta2
  match g.rule with
  | 0 =>
    let m := wAdd (wMul g.beta1 x.m) gr
    let d := if g.nesterov then wAdd gr (wMul g.beta1 m) else m
    ⟨wSub dec (wMul f.eta d), m, x.v⟩
  | 1 =>
    let m := wAdd (wMul g.beta1 x.m) (wMul c1 gr)
    let v := wAdd (wMul g.beta2 x.v) (wMul c2 (wMul gr gr))
    let mh := wDiv m (wSub numOne f.b1t)
    let vh := wDiv v (wSub numOne f.b2t)
    ⟨wSub dec (wDiv (wMul f.eta mh) (wAdd (wSqrt vh) g.eps)), m, v⟩
  | _ =>
    let u := numSign (wAdd (wMul g.beta1 x.m) (wMul c1 gr))
    ⟨wSub dec (wMul f.eta u), wAdd (wMul g.beta2 x.m) (wMul c2 gr), x.v⟩

/-! Tiles -/

/-- A square matrix by rows. -/
abbrev Mat := List (List Num)

/-- An element of a matrix. -/
def Mat.at (a : Mat) (i j : Nat) : Num := (a.getD i []).getD j numZero

/-- A matrix of `n` rows and columns from its elements. -/
def matOf (n : Nat) (f : Nat → Nat → Num) : Mat := (List.range n).map fun i => (List.range n).map (f i)

/-- The transpose. -/
def Mat.tr (n : Nat) (a : Mat) : Mat := matOf n fun i j => a.at j i

/-- R53: the hi, mid and lo parts of the FP32 roundings of a row. -/
structure RowSplit where
  hi : List Num
  mid : List Num
  lo : List Num

/-- R53: a row's parts. -/
def rowSplit (r : List Num) : RowSplit :=
  let ps := r.map fun x => split3 (roundIn ffFp32 x)
  ⟨ps.map fun p => p.1, ps.map fun p => p.2.1, ps.map fun p => p.2.2⟩

/-- R106: one pass for one element: the tree over `n` exact products of an activation row and a weight row. -/
def passDot (n : Nat) (a w : List Num) : Num :=
  (columnTree n 1 fun k => cellProd (a.getD k numZero) (w.getD k numZero)).1

/-- R54, R114: one element of an FP32_FULL product: the passes lo·hi, hi·lo, mid·mid, mid·hi, hi·mid and hi·hi (weight part
first), added in W48 in this order. -/
def fullDot (n : Nat) (a w : RowSplit) : Num :=
  [passDot n a.lo w.hi, passDot n a.mid w.mid, passDot n a.hi w.mid, passDot n a.mid w.hi, passDot n a.hi w.hi].foldl wAdd
    (passDot n a.hi w.lo)

/-- R339: a product formed by MXU_MULTIPASS FP32_FULL from the FP32 roundings of its factors: the left factor's rows are
the activations, the right one's columns the weights (assumption 27). -/
def Mat.mul (n : Nat) (a b : Mat) : Mat :=
  let ws := (Mat.tr n b).map rowSplit
  (a.map rowSplit).map fun x => ws.map (fullDot n x)

/-- The identity, scaled. -/
def Mat.eye (n : Nat) (x : Num) : Mat := matOf n fun i j => if i = j then x else numZero

/-- Element by element. -/
def Mat.map2 (f : Num → Num → Num) (a b : Mat) : Mat := (a.zip b).map fun (r, s) => (r.zip s).map fun (x, y) => f x y
def Mat.map1 (f : Num → Num) (a : Mat) : Mat := a.map fun r => r.map f

/-- The trace, summed in W48 in ascending order. -/
def Mat.trace (n : Nat) (a : Mat) : Num := (List.range n).foldl (fun s i => wAdd s (a.at i i)) numZero

/-- R340: the Frobenius norm in W48. -/
def Mat.frob (a : Mat) : Num := wSqrt (a.foldl (fun s r => r.foldl (fun t x => wAdd t (wMul x x)) s) numZero)

/-- Is every element finite? -/
def Mat.finite (a : Mat) : Bool := a.all fun r => r.all Num.isFin

/-- R339 item 3: the pivots of an LDLᵀ factorisation in W48, column by column: d_j = a_jj − Σ l_jk²·d_k and
l_ij = (a_ij − Σ l_ik·l_jk·d_k) ÷ d_j. -/
def ldlPivots (n : Nat) (a : Mat) : List Num :=
  ((List.range n).foldl (fun (acc : List Num × Mat) j =>
    let (ds, cols) := acc
    let l := fun (k i : Nat) => (cols.getD k []).getD i numZero
    let d := (List.range j).foldl (fun s k => wSub s (wMul (wMul (l k j) (l k j)) (ds.getD k numZero))) (a.at j j)
    let col := (List.range n).map fun i =>
      if i ≤ j then numZero
      else wDiv ((List.range j).foldl (fun s k => wSub s (wMul (wMul (l k i) (l k j)) (ds.getD k numZero))) (a.at i j)) d
    (ds ++ [d], cols ++ [col])) ([], [])).1

/-- R339 item 4: one coupled Newton step: T = (5I − M) ÷ 4, X·T and T⁴·M, with T⁴ = (T·T)·(T·T). -/
def newtonStep (n : Nat) (p : Mat × Mat) : Mat × Mat :=
  let t := Mat.map2 (fun i m => wDiv (wSub i m) (wNat 4)) (Mat.eye n (wNat 5)) p.2
  let t2 := Mat.mul n t t
  (Mat.mul n p.1 t, Mat.mul n (Mat.mul n t2 t2) p.2)

/-- Has M come within 2^-30 of I in every element? -/
def newtonDone (n : Nat) (m : Mat) : Bool :=
  (Mat.map2 (fun x y => (x.sub y).abs) m (Mat.eye n numOne)).all fun r => r.all fun d => d.le (.fin false 1 (-30))

/-- R339 item 4: at most 24 iterations. -/
def newton (n : Nat) : Nat → Mat × Mat → Option Mat
  | 0, p => if newtonDone n p.2 then some p.1 else none
  | k + 1, p => if newtonDone n p.2 then some p.1 else newton n k (newtonStep n p)

/-- R339: one attempt at the inverse fourth root. -/
def rootAttempt (n : Nat) (a : Mat) (tau : Num) (k : Nat) : Option Mat :=
  let eps : Num := if k = 0 then numZero else wMul (.fin false 1 (-30 + 4 * ((k : Int) - 1))) tau
  let aa := Mat.map2 wAdd a (Mat.eye n eps)
  let ds := ldlPivots n aa
  if ds.any fun d => d.isNan || d.lt (wMul (.fin false 1 (-40)) tau) then none
  else
    let c := wSqrt (wSqrt tau)
    newton n 24 (Mat.eye n (wDiv numOne c), Mat.map1 (fun x => wDiv x tau) aa)

/-- How a root came about (R339): the identity of a zero matrix, NaN, an attempt's number, or the fallback. -/
inductive RootKind where
  | zero | nan | ok (attempt : Nat) | fallback
  deriving DecidableEq, Repr

/-- R339: the inverse fourth root of a statistics matrix, rounded to FP32. -/
def invRoot4 (n : Nat) (a : Mat) : Mat × RootKind :=
  let tau := Mat.trace n a
  if tau.isZero then (Mat.eye n numOne, .zero)
  else if !tau.isFin || !a.finite then (matOf n fun _ _ => .nan, .nan)
  else match (List.range 4).findSome? fun k => (rootAttempt n a tau k).map fun x => (x, k) with
    | some (x, k) => (Mat.map1 (roundIn ffFp32) x, .ok k)
    | none => (Mat.eye n numOne, .fallback)

end Sys2Proof.Machine
end

