-- ==== Sys2Proof/Machine/Pue.lean ====
section
/-! DEFINITION. The parameter update engines (11_parameter_update.md) and the shard maps they are driven by (R372, R373):
UPDATE block by block, the finished shard with its digest, and PRECOND. -/

namespace Sys2Proof.Machine

/-! Shard maps -/

/-- R373: is an entry's encoding to be refused? -/
def State.entBad (s : State) (a kind : Nat) (members : List Nat) : Bool :=
  let f := fun o n => s.numAt (a + o) n
  let e := s.mapEntry a
  let named := [e.owner] ++ e.buddy.toList ++ e.ckh.toList
  fld (f 16 2) 14 2 != 0 || bitAt (f 18 2) 14 || bitAt (f 20 2) 14 || fld (f 24 2) 14 2 != 0
  || f 26 6 != 0 || f 56 8 != 0
  || [e.sdesc, e.dst, e.ckaddr].any (fun x => x % 64 != 0)
  || named.any (fun d => !members.contains d)
  || (kind = 0 && (e.buddy = some e.owner || e.ckh = some e.owner || (e.ckh.isSome && e.ckh = e.buddy)))
  || (kind = 1 && (e.buddy.isSome || e.ckh.isSome || e.bucket != 0 || e.shard != 0 || e.sdesc != 0 || e.ckaddr != 0))

/-- Do two entries overlap in logical range? -/
def MapEnt.overlaps (a b : MapEnt) : Bool := decide (a.loff < b.loff + b.bytes) && decide (b.loff < a.loff + a.bytes)

/-- R372, R373: is a map to be refused? -/
def State.mapBad (s : State) (a : Nat) : Bool :=
  let n := s.numAt (a + 4) 4
  let m := s.readMap a
  a % 64 != 0 || !s.readable a 64 || s.numAt a 1 != 1 || decide (1 < m.kind) || s.numAt (a + 2) 2 != 0
  || n = 0 || decide (2 ^ 20 < n) || m.stride % 64 != 0 || m.ckNgen = 0 || decide (4 < m.ckNgen)
  || s.numAt (a + 25) 39 != 0 || !s.readable (a + 64) (64 * n)
  || (List.range n).any (fun i => s.entBad (a + 64 + 64 * i) m.kind s.memberTable)
  || (m.kind = 0 && m.ents.zipIdx.any fun (x, i) => (m.ents.drop (i + 1)).any x.overlaps)

/-- R370: the device that acts as owner of a map entry. -/
def State.actOwner (s : State) (e : MapEnt) : Option Nat := if s.isLost e.owner then e.buddy else some e.owner

/-- R370: does this device hold a role for the entry, and is it the acting owner? -/
def State.ownsEnt (s : State) (e : MapEnt) : Bool := s.actOwner e = some s.fab.devid
def State.holdsEnt (s : State) (e : MapEnt) : Bool := e.owner = s.fab.devid || e.buddy = some s.fab.devid

/-! Descriptors and tables -/

/-- R316: a shard state descriptor. -/
def State.readSDesc (s : State) (a : Nat) : SDesc :=
  let f := fun o n => s.numAt (a + o) n
  ⟨[f 0 8, f 8 8], [f 16 8, f 24 8], [f 32 8, f 40 8], [f 48 8, f 56 8], [f 64 8, f 72 8], f 80 8, f 88 8, f 96 8,
    f 104 8, f 112 4, f 116 1, f 117 1, f 120 8⟩

/-- R316, R320: is a descriptor to be refused? -/
def State.sdescBad (s : State) (a : Nat) : Bool :=
  let d := s.readSDesc a
  (a :: d.hdr ++ d.mst ++ d.m1 ++ d.m2 ++ d.pre ++ [d.img, d.fin, d.finx, d.smp, d.digest]).any (fun x => x % 64 != 0)
  || d.nblk = 0 || decide (2 ^ 26 < d.nblk) || decide (3 < d.momfmt) || decide (1 < d.imgfmt) || s.numAt (a + 118) 2 != 0
  || !s.rangePop a 128

/-- An FP32 field. -/
def State.fp32At (s : State) (a : Nat) : Num := fp32Val (BitVec.ofNat 32 (s.numAt a 4))

/-- R318: a group entry with its knots. -/
def State.readGroup (s : State) (a : Nat) : Group :=
  let f := s.numAt a 4
  let sched := fld f 8 2
  let nk := s.numAt (a + 48) 2
  let kb := s.numAt (a + 40) 8
  ⟨fld f 0 4, bitAt f 4, bitAt f 5, bitAt f 6, bitAt f 7, sched, s.numAt (a + 8) 8, s.fp32At (a + 16), s.fp32At (a + 20),
    s.fp32At (a + 24), s.fp32At (a + 28), s.fp32At (a + 32), s.fp32At (a + 40), s.fp32At (a + 44),
    if sched = 1 then s.numAt (a + 48) 4 else 0, if sched = 1 then s.numAt (a + 52) 4 else 0,
    if sched = 0 then (List.range nk).map fun i => (s.numAt (kb + 8 * i) 4, s.fp32At (kb + 8 * i + 4)) else []⟩

/-- Is a value in [0, 1)? -/
def inUnit (x : Num) : Bool := x.isFin && (!x.negBit || x.isZero) && x.lt numOne

/-- R318: is a finite value at least 0? -/
def atLeast0 (x : Num) : Bool := x.isFin && (!x.negBit || x.isZero)

/-- R318: is a group entry, with its knots, to be refused? -/
def State.groupBad (s : State) (a : Nat) : Bool :=
  let g := s.readGroup a
  let f := s.numAt a 4
  let nk := s.numAt (a + 48) 2
  decide (3 < g.rule) || decide (2 < g.sched) || f >>> 10 != 0 || s.numAt (a + 4) 4 != 0 || s.numAt (a + 36) 4 != 0
  || s.numAt (a + 56) 72 != 0
  || !inUnit g.beta1 || !inUnit g.beta2 || !atLeast0 g.eps || !atLeast0 g.wd || !g.gscale.isFin || g.gscale.isZero
  || (g.nesterov && g.rule != 0) || (g.rule = 3 && !g.dense)
  || (match g.sched with
    | 0 => nk = 0 || decide (64 < nk) || s.numAt (a + 50) 6 != 0 || !s.rangePop (s.numAt (a + 40) 8) (8 * nk)
        || g.knots.any (fun k => !atLeast0 k.2)
        || !((g.knots.zip (g.knots.drop 1)).all fun (x, y) => decide (x.1 < y.1))
    | 1 => !atLeast0 g.p0 || !atLeast0 g.p1 || decide (g.total ≤ g.warm)
    | _ => !atLeast0 g.p0 || !g.p1.isFin || g.p1.negBit || g.p1.isZero || numOne.lt g.p1 || s.numAt (a + 48) 8 != 0)

/-- R317: a group table. -/
def State.readTable (s : State) (a : Nat) : GroupTab :=
  let n := s.numAt a 2
  ⟨(List.range n).map fun g => s.readGroup (a + 128 * (g + 1)), s.numAt (a + 8) 8, s.numAt (a + 16) 8, s.numAt (a + 24) 8,
    s.numAt (a + 32) 8, s.numAt (a + 40) 8, s.numAt (a + 48) 8, s.numAt (a + 56) 4⟩

/-- R317, R320: is a group table to be refused? -/
def State.tableBad (s : State) (a : Nat) : Bool :=
  let n := s.numAt a 2
  let t := s.readTable a
  a % 64 != 0 || !s.readable a 128 || n = 0 || decide (4096 < n) || s.numAt (a + 2) 6 != 0 || s.numAt (a + 60) 68 != 0
  || [t.status, t.steprec0, t.steprec1, t.rstatWork, t.rstat0, t.rstat1, t.rstatLen].any (fun x => x % 64 != 0)
  || !s.readable (a + 128) (128 * n) || (List.range n).any fun g => s.groupBad (a + 128 * (g + 1))

/-! Copies of a block -/

/-- R313: WSTEP that marks a copy invalid. -/
def wstepInvalid : Nat := 2 ^ 64 - 1

/-- A copy's plane among two. -/
def pl (xs : List Nat) (i : Nat) : Nat := xs.getD i 0

/-- R313: WSTEP and GROUP of a block's copy. -/
def State.wstep (s : State) (d : SDesc) (i b : Nat) : Nat := s.numAt (pl d.hdr i + 16 * b) 8
def State.blkGroup (s : State) (d : SDesc) (i b : Nat) : Nat := s.numAt (pl d.hdr i + 16 * b + 8) 2 % 4096

/-- R313: the current one of two copies, given their WSTEPs and the committed step. -/
def pickCopy (w0 w1 c : Nat) : Option Nat :=
  let ok := fun x => x ≠ wstepInvalid && decide (x ≤ c)
  if ok w0 && ok w1 then some (if w0 < w1 then 1 else 0)
  else if ok w0 then some 0
  else if ok w1 then some 1
  else none

/-- R313: the current copy of a block. -/
def State.curCopy (s : State) (d : SDesc) (b : Nat) : Option Nat := pickCopy (s.wstep d 0 b) (s.wstep d 1 b) s.cke.c

/-- R316: bytes of a moment block. -/
def momBytes : Nat → Nat
  | 0 => 128 | 1 => 64 | 2 => 64 | _ => 33

/-- R316: the values of a stored moment block. -/
def momVals (fmt : Nat) (bs : List Byte) : List Num :=
  match fmt with
  | 0 => (List.range 32).map fun i => fp32Val (BitVec.ofNat 32 (lenum bs (4 * i) 4))
  | 1 | 2 => (List.range 32).map fun i => floatDecode ffBf16 (lenum bs (2 * i) 2)
  | _ => (List.range 32).map fun i => mxValue .mxE4m3 (lenum bs 32 1) (lenum bs i 1)

/-- R316: the values of a moment block in memory. -/
def State.readMom (s : State) (d : SDesc) (plane b : Nat) : List Num :=
  let n := momBytes d.momfmt
  momVals d.momfmt (s.bytesAt (plane + n * b) n)

/-- R330: the random integer of a moment element: `sel` 2 for m, 3 for v. -/
def momRnd (seed : Word64) (k sel idx : Nat) : Nat := ctrg seed.toNat (idx % 2 ^ 32 + sel <<< 32) k >>> 48

/-- R316, R330: a moment block as stored. -/
def momStore (fmt : Nat) (seed : Word64) (k sel b : Nat) (xs : List Num) : List Byte :=
  match fmt with
  | 0 => xs.flatMap fun x => leBytes 4 (fp32Code (roundIn ffFp32 x)).toNat
  | 1 => xs.flatMap fun x => leBytes 2 (toIeee ffBf16 false convPlain 0 x).1
  | 2 => xs.zipIdx.flatMap fun (x, i) => leBytes 2 (toIeee ffBf16 false ⟨.sr, false, false⟩ (momRnd seed k sel (32 * b + i)) x).1
  | _ =>
    let (sc, cs, _) := mxForm .mxE4m3 .rne [] xs
    cs.flatMap (leBytes 1) ++ leBytes 1 sc

/-- R323: a block's image. -/
def imgStore (fmt : Nat) (th : List Num) : List Byte :=
  if fmt = 0 then th.flatMap fun x => leBytes 4 (fp32Code (roundIn ffFp32 x)).toNat
  else th.flatMap fun x => leBytes 2 (toIeee ffBf16 false convPlain 0 x).1

/-- Bytes of a block's image. -/
def imgBytes (fmt : Nat) : Nat := if fmt = 0 then 128 else 64

/-! The PUE at memory (R227, R230, R232, R233) -/

/-- R483: the agent number of a die's PUE. -/
def pueAgent (die : Nat) : Nat := 0x81 + die

/-- A PUE writes bytes. -/
def State.pueWrite (s : State) (die a : Nat) (bs : List Byte) : State := s.agentWrite a (pueAgent die) bs

/-- A PUE writes a little-endian number of `n` bytes. -/
def State.pueNum (s : State) (die a n x : Nat) : State := s.agentNum a (pueAgent die) n x

/-- A PUE reads ranges (address, length). -/
def State.pueReads (s : State) (die : Nat) (rs : List (Nat × Nat)) : State := s.engineReads (pueAgent die) rs

/-- R313: both headers of a block are read. -/
def State.readHeaders (s : State) (die : Nat) (d : SDesc) (b : Nat) : State :=
  s.pueReads die [(pl d.hdr 0 + 16 * b, 16), (pl d.hdr 1 + 16 * b, 16)]

/-- R316: the ranges of one copy of a block: its master, its first moment and, under ADAMW, its second. -/
def SDesc.copyRanges (d : SDesc) (i b : Nat) (adamw : Bool) : List (Nat × Nat) :=
  let n := momBytes d.momfmt
  [(pl d.mst i + 128 * b, 128), (pl d.m1 i + n * b, n)] ++ if adamw then [(pl d.m2 i + n * b, n)] else []

/-- R325: the ranges of a block's final attribute and divisor, and of its final lanes. -/
def SDesc.finalRanges (d : SDesc) (b : Nat) : List (Nat × Nat) := [(d.finx + 2 * b, 2), (d.smp + 8, 8)]
def SDesc.laneRange (d : SDesc) (b : Nat) : Nat × Nat := (d.fin + 128 * b, 128)

/-! A call in progress -/

/-- R334: the status entry of a group is read, and the first write in step k clears its per-step fields. -/
def State.openStatus (s0 : State) (die : Nat) (t : GroupTab) (g k : Nat) : State :=
  let a := t.status + 64 * g
  let s := s0.pueReads die [(a, 64)]
  if s.numAt (a + 16) 8 = k then s
  else (((s.pueNum die (a + 16) 8 k).pueNum die a 4 0).pueNum die (a + 24) 8 0).pueNum die (a + 32) 4
    (s.numAt (a + 32) 4 &&& 0xFFFFFFF9)

/-- Adds 1 to a saturating 32-bit field of a status entry. -/
def State.bump32 (s : State) (die a : Nat) : State := s.pueNum die a 4 (satAdd 32 (s.numAt a 4) 1)

/-- Sets a flag of a group's status entry (R334: 0 FALLBACK, 1 NONFINITE, 2 FROZEN_HIT). -/
def State.statusFlag (s : State) (die : Nat) (t : GroupTab) (g k bit : Nat) : State :=
  let s1 := s.openStatus die t g k
  s1.pueNum die (t.status + 64 * g + 32) 4 (s1.numAt (t.status + 64 * g + 32) 4 ||| 1 <<< bit)

/-- R321: is a block touched: its final attribute says so and the divisor is not 0? -/
def State.touched (s : State) (d : SDesc) (b : Nat) : Bool :=
  bitAt (s.numAt (d.finx + 2 * b) 2) 8 && s.numAt (d.smp + 8) 8 != 0

/-- R325: a touched block's gradient in W48; the division rounds once. -/
def State.gradient (s : State) (d : SDesc) (g : Group) (b : Nat) : List Num :=
  let attr := s.numAt (d.finx + 2 * b) 2
  let div := numOfInt (s.numAt (d.smp + 8) 8)
  (List.range 32).map fun i =>
    if bitAt attr 10 then .nan
    else
      let raw := s.numAt (d.fin + 128 * b + 4 * i) 4
      let l := if bitAt attr 9 then fp32Val (BitVec.ofNat 32 raw) else (numOfInt (sext 32 raw)).scale ((attr % 256 : Nat) - 142)
      wMul (roundIn ffFp32 (wDiv (w l) div)) g.gscale

/-- R321, R325: the gradient of a block, +0 if it is not touched. -/
def State.blockGrad (s : State) (d : SDesc) (g : Group) (b : Nat) : List Num :=
  if s.touched d b then s.gradient d g b else List.replicate 32 numZero

/-- What handling one block can come to (R314, R333; `frozenTouch` names the group). -/
inductive BlockEnd where
  | go | stateInvalid | frozenTouch (grp : Nat)
  deriving DecidableEq, Repr

/-- A PUE at work on a shard: the state, the call, and how the last block ended. -/
structure PueAcc where
  st : State
  call : PueCall
  fin : BlockEnd

/-- Adds a value to a group's W48 sum. -/
def addSum (m : SMap (BitVec 48)) (g : Nat) (x : Num) : SMap (BitVec 48) :=
  sset 0 m g (w48Code (wAdd (w48Val (sget 0 m g)) x))

/-- What a block's alternate copy gets (R321, R323): masters, first and second moments as stored, and the image; `bad`
says whether a value as formed or as stored is not finite (R313, R335). -/
structure BlockOut where
  th : List Byte
  m : List Byte
  v : Option (List Byte)
  img : List Byte
  bad : Bool

/-- R316, R323, R329, R330, R335: the stored form of a block's new values. -/
def blockOut (d : SDesc) (seed : Word64) (k b : Nat) (adamw : Bool) (xs : List PElem) : BlockOut :=
  let th := xs.map fun x => roundIn ffFp32 x.th
  let m := momStore d.momfmt seed k 2 b (xs.map fun x => x.m)
  let v := if adamw then some (momStore d.momfmt seed k 3 b (xs.map fun x => x.v)) else none
  let inf := fun (ys : List Num) => ys.any fun y => !y.isFin
  ⟨imgStore 0 th, m, v, imgStore d.imgfmt th,
    xs.any (fun x => !x.th.isFin || !x.m.isFin || (adamw && !x.v.isFin)) || inf th || inf (momVals d.momfmt m)
      || (match v with
        | some y => inf (momVals d.momfmt y)
        | none => false)⟩

/-- R315, R321, R323: writes a block's alternate copy, its data before its header, then its image. -/
def State.writeBlock (s : State) (die : Nat) (d : SDesc) (k alt b grp : Nat) (o : BlockOut) : State :=
  let n := momBytes d.momfmt
  let s1 := (s.pueWrite die (pl d.mst alt + 128 * b) o.th).pueWrite die (pl d.m1 alt + n * b) o.m
  let s2 := match o.v with
    | some y => s1.pueWrite die (pl d.m2 alt + n * b) y
    | none => s1
  (s2.pueNum die (pl d.hdr alt + 16 * b) 16 (k + grp <<< 64 + b2n o.bad <<< 76)).pueWrite die (d.img + imgBytes d.imgfmt * b) o.img

/-- R321, R328 to R335: after the new values of a block are formed: copies, image, counters, group status. -/
def finishBlock (die : Nat) (d : SDesc) (a : PueAcc) (seed : Word64) (cur b grp : Nat) (g : Group) (caught : Bool)
    (old new : List PElem) : PueAcc :=
  let call := a.call
  let k := call.k
  let o := blockOut d seed k b (g.rule = 1) new
  let s1 := a.st.writeBlock die d k (1 - cur) b grp o
  let th := new.map fun x => roundIn ffFp32 x.th
  let s2 := (s1.countHub 0x0B (maskBit die) 32).openStatus die call.table grp k
  let sa := call.table.status + 64 * grp
  let s3 := s2.pueNum die sa 4 ((s2.numAt sa 4 + 1) % 2 ^ 32)
  let s4 := if caught then s3.bump32 die (sa + 4) else s3
  let p := s4.pue die
  let s5 := s4.setPue die { p with
    blocks := satAdd 32 p.blocks 1
    catchups := satAdd 32 p.catchups (b2n caught)
    sticky := if o.bad then p.sticky ||| 1 else p.sticky }
  let s6 := if o.bad then (s5.statusFlag die call.table grp k 1).setHealth 2 else s5
  let sq := fun (x : Num) => wMul x x
  let upd := (th.zip (old.map fun x => x.th)).foldl (fun m (n, o) => addSum m grp (sq (wSub n o))) call.updSq
  let mst := th.foldl (fun m n => addSum m grp (sq n)) call.mstSq
  ⟨s6, { call with
      written := call.written ++ [(b, 1 - cur, grp)], updSq := upd, mstSq := mst
      nonf := if o.bad then some (call.nonf.getD b) else call.nonf }, .go⟩

/-- R313, R316: the elements of a block's copy. -/
def State.readBlock (s : State) (d : SDesc) (i b : Nat) (adamw : Bool) : List PElem :=
  let th := s.fpBlock (pl d.mst i + 128 * b)
  let m := s.readMom d (pl d.m1 i) b
  let v := if adamw then s.readMom d (pl d.m2 i) b else List.replicate 32 numZero
  th.zipIdx.map fun (x, j) => ⟨x, m.getD j numZero, v.getD j numZero⟩

/-- R321, R331: the steps a block was not written, its group-wide factors in step k, and its values caught up. -/
def State.caughtUp (s : State) (d : SDesc) (g : Group) (k cur b : Nat) (xs : List PElem) : Nat × PFactors × List PElem :=
  let ws := s.wstep d cur b
  let n := k - 1 - ws
  let f := g.factors (k - g.start + 1) (ws + 1 - g.start) n
  (n, f, if 0 < n then xs.map (catchUp g f) else xs)

/-- R332, R333: a block of a frozen group. -/
def frozenBlock (die : Nat) (a : PueAcc) (grp : Nat) (g : Group) (touched : Bool) : PueAcc :=
  if !touched then a
  else if g.strict then { a with fin := .frozenTouch grp }
  else
    let call := a.call
    let s1 := (a.st.openStatus die call.table grp call.k).bump32 die (call.table.status + 64 * grp + 8)
    let p := s1.pue die
    let s2 := s1.setPue die { p with frozenReqs := satAdd 32 p.frozenReqs 1, sticky := p.sticky ||| 2 }
    { a with st := s2.statusFlag die call.table grp call.k 2 }

/-- R314, R321, R344: the current copy of a block, its group's number and its entry. -/
def State.blockEntry (s : State) (t : GroupTab) (d : SDesc) (b : Nat) : Option (Nat × Nat × Group) :=
  (s.curCopy d b).bind fun cur =>
    let grp := s.blkGroup d cur b
    t.groups[grp]?.map fun g => (cur, grp, g)

/-- R321: one block of a shard in step k. A block of a ROOT4 group is written with its tile. -/
def pueBlock (die : Nat) (d : SDesc) (seed : Word64) (a : PueAcc) (b : Nat) : PueAcc :=
  let k := a.call.k
  let s0 := (a.st.readHeaders die d b).pueReads die (d.finalRanges b)
  match s0.blockEntry a.call.table d b with
  | none => { a with st := s0, fin := .stateInvalid }
  | some (cur, grp, g) =>
    let touched := s0.touched d b
    if k < g.start then { a with st := s0 }
    else if g.frozen then frozenBlock die { a with st := s0 } grp g touched
    else if (!touched && !g.dense) || g.rule = 3 then { a with st := s0 }
    else
      let adamw := g.rule = 1
      let s := s0.pueReads die (d.copyRanges cur b adamw ++ if touched then [d.laneRange b] else [])
      let old := s.readBlock d cur b adamw
      let (n, f, base) := s.caughtUp d g k cur b old
      let new := (base.zip (s.blockGrad d g b)).map fun (x, y) => applyRule g f x y
      finishBlock die d { a with st := s } seed cur b grp g (decide (0 < n)) old new

/-! ROOT4 tiles -/

/-- R337: bytes of a tile's state, and its parts. -/
def tileSize : Nat := 266240
def State.tileMat (s : State) (a i : Nat) : Mat :=
  matOf 128 fun r c => s.fp32At (a + 4096 + 65536 * i + 512 * r + 4 * c)
def matBytes (m : Mat) : List Byte := m.flatMap fun r => r.flatMap fun x => leBytes 4 (fp32Code (roundIn ffFp32 x)).toNat

/-- R337: the state address of a tile's copy. -/
def tileAddr (d : SDesc) (i t : Nat) : Nat := pl d.pre i + tileSize * t

/-- R313, R337: the current copy of a tile's state. -/
def State.curTile (s : State) (d : SDesc) (t : Nat) : Option Nat :=
  pickCopy (s.numAt (tileAddr d 0 t) 8) (s.numAt (tileAddr d 1 t) 8) s.cke.c

/-- R337: the headers of both copies of a tile's state are read. -/
def State.readTileHeaders (s : State) (die : Nat) (d : SDesc) (t : Nat) : State :=
  s.pueReads die [(tileAddr d 0 t, 64), (tileAddr d 1 t, 64)]

/-- R337: a tile header. -/
def tileHeader (wstep rootstep flags : Nat) : List Byte :=
  leBytes 8 wstep ++ leBytes 8 rootstep ++ leBytes 1 (flags % 8) ++ List.replicate 47 0

/-- R340: what a tile's step forms from its caught-up momentum, its gradient, its statistics and the roots. -/
structure TileStep where
  m : Mat
  l : Mat
  r : Mat
  d : Mat

/-- R340: the equations of a tile, with FP32_FULL products. -/
def tileStep (g : Group) (m0 gm l0 r0 lr rr : Mat) : TileStep :=
  let c1 := wSub numOne g.beta1
  let m := Mat.map2 (fun x y => wAdd (wMul g.beta1 x) (wMul c1 y)) m0 gm
  let stat := Mat.map2 fun x y => wAdd (wMul g.beta2 x) y
  let p := Mat.mul 128 (Mat.mul 128 lr m) rr
  let fp := Mat.frob p
  ⟨m, stat l0 (Mat.mul 128 gm (Mat.tr 128 gm)), stat r0 (Mat.mul 128 (Mat.tr 128 gm) gm),
    if fp.isZero then matOf 128 fun _ _ => numZero
    else let q := wDiv (Mat.frob m) fp
         Mat.map1 (fun x => wMul x q) p⟩

/-- R336: the element of row `r` and column `c` of a tile given by blocks. -/
def ofBlocks {α : Type} (z : α) (xs : List (List α)) (r c : Nat) : α := (xs.getD (4 * r + c / 32) []).getD (c % 32) z

/-- R340: one tile of a ROOT4 group in step k: blocks 512t to 512t + 511, each from its own current copy. -/
def pueTile (die : Nat) (d : SDesc) (seed : Word64) (a : PueAcc) (t grp : Nat) (g : Group) : PueAcc :=
  let k := a.call.k
  let b0 := 512 * t
  let s0 := (a.st.pueReads die ((List.range 512).flatMap fun i =>
      [(pl d.hdr 0 + 16 * (b0 + i), 16), (pl d.hdr 1 + 16 * (b0 + i), 16)] ++ d.finalRanges (b0 + i))).readTileHeaders die d t
  match (List.range 512).find? (fun i => (s0.curCopy d (b0 + i)).isNone), s0.curTile d t with
  | none, some tc =>
    let cur := fun i => (s0.curCopy d (b0 + i)).getD 0
    let ca := tileAddr d tc t
    let aa := tileAddr d (1 - tc) t
    let rooted := s0.numAt (aa + 8) 8 = k
    let ra := if rooted then aa else ca
    let s := s0.pueReads die (((List.range 512).flatMap fun i => d.copyRanges (cur i) (b0 + i) false
      ++ if s0.touched d (b0 + i) then [d.laneRange (b0 + i)] else []) ++ [(ca + 4096, 131072), (ra + 135168, 131072)])
    let olds := (List.range 512).map fun i => s.readBlock d (cur i) (b0 + i) false
    let caught := olds.zipIdx.map fun (xs, i) => s.caughtUp d g k (cur i) (b0 + i) xs
    let base := caught.map fun x => x.2.2
    let gm := matOf 128 (ofBlocks numZero ((List.range 512).map fun i => s.blockGrad d g (b0 + i)))
    let o := tileStep g (matOf 128 (ofBlocks numZero (base.map fun xs => xs.map fun x => x.m))) gm (s.tileMat ca 0) (s.tileMat ca 1)
      (s.tileMat ra 2) (s.tileMat ra 3)
    let new := fun (x : Nat × PFactors × List PElem) (i : Nat) => x.2.2.zipIdx.map fun (y, j) =>
      let c := 32 * (i % 4) + j
      (⟨wSub (wMul y.th x.2.1.decay) (wMul x.2.1.eta (o.d.at (i / 4) c)), o.m.at (i / 4) c, numZero⟩ : PElem)
    let a1 := (caught.zip olds).zipIdx.foldl (fun acc (x, i) =>
      finishBlock die d acc seed (cur i) (b0 + i) grp g (decide (0 < x.1.1)) x.2 (new x.1 i)) { a with st := s }
    let roots := if rooted then [] else s.bytesAt (ca + 135168) 131072
    let s1 := a1.st.pueWrite die (aa + 4096) (matBytes o.l ++ matBytes o.r ++ roots)
    { a1 with st := s1.pueWrite die aa (tileHeader k (s.numAt (ra + 8) 8) (s.numAt (ra + 16) 1)) }
  | some i, _ => { a with st := s0, call := { a.call with block := b0 + i }, fin := .stateInvalid }
  | none, none => { a with st := s0, fin := .stateInvalid }

/-- R321, R336, R340: is a tile of a ROOT4 group that the step updates due at a block: its group and entry? -/
def State.tileDue (s : State) (c : PueCall) (d : SDesc) : Option (Nat × Group) :=
  if c.block % 512 ≠ 0 then none
  else match s.blockEntry c.table d c.block with
    | some (_, grp, g) => if g.rule = 3 && decide (g.start ≤ c.k) && !g.frozen then some (grp, g) else none
    | none => none

/-- R321: the PUE handles the next block of its shard, or the tile that begins there, unless a fault has stopped it. -/
def pueStep (die : Nat) (d : SDesc) (seed : Word64) (a : PueAcc) : PueAcc :=
  if a.fin ≠ .go ∨ d.nblk ≤ a.call.block then a
  else
    let b := a.call.block
    let (x, n) := match a.st.tileDue a.call d with
      | some (grp, g) => (pueTile die d seed a (b / 512) grp g, 512)
      | none => (pueBlock die d seed a b, 1)
    if x.fin = .go then { x with call := { x.call with block := b + n } } else x

/-- R321: at most `n` such steps. -/
def runBlocks (die : Nat) (d : SDesc) (seed : Word64) : Nat → PueAcc → PueAcc
  | 0, a => a
  | n + 1, a => runBlocks die d seed n (pueStep die d seed a)

/-! Driving a PUE -/

/-- R373: does the shard of an entry lie on a die? -/
def State.onDie (s : State) (d : SDesc) (die : Nat) : Bool := s.place (pl d.mst 0) = .hbm die

/-- R321, R355, R376, R377: may the PUE go through a shard: its finals stand here, no copy or checkpoint of it is still
under way? -/
def State.shardReady (s : State) (e : MapEnt) (k : Nat) : Bool :=
  (s.cle.finals.any fun x => x.1 = (e.bucket, e.shard))
    && !(match s.cke.reshard with | some r => r.expect.any (fun x => x.1 = e.sdesc) | none => false)
    && !(match s.cke.ckpt with | some r => decide (k = r.c + 2) | none => false)

/-- R355: must UPDATE skip the shard: its owner is pending-lost and this buddy does not hold its finals? -/
def State.shardSkipped (s : State) (e : MapEnt) : Bool :=
  s.cke.att.pendingLost.contains e.owner && e.buddy = some s.fab.devid
    && !(s.cle.finals.any fun x => x.1 = (e.bucket, e.shard))

/-- R324: the step record and the running statistics, written by the first UPDATE of a step. -/
def State.writeStepRec (s0 : State) (die : Nat) (t : GroupTab) (k : Nat) (seed : Word64) : State :=
  if !s0.cke.firstUpdate then s0
  else
    let s := s0.pueReads die [(t.steprec0, 8), (t.steprec1, 8), (t.rstatWork, t.rstatLen)]
    let cur := (pickCopy (s.numAt t.steprec0 8) (s.numAt t.steprec1 8) s.cke.c).getD 1
    let a := if cur = 0 then t.steprec1 else t.steprec0
    let r := if cur = 0 then t.rstat1 else t.rstat0
    let s1 := s.pueWrite die a (leBytes 8 k ++ leBytes 8 seed.toNat ++ List.replicate 48 0)
    { s1.pueWrite die r (s.bytesAt t.rstatWork t.rstatLen) with cke.firstUpdate := false }

/-- R172: the running job's base seed B. -/
def State.baseSeed (s : State) : Word64 := match s.hub.job with
  | some j => j.seed
  | none => 0

/-- R321: goes on through the blocks of a shard, `limit` steps at most. -/
def State.runShard (s : State) (die : Nat) (call : PueCall) (d : SDesc) (limit : Nat) : PueAcc :=
  runBlocks die d s.baseSeed (min limit d.nblk) ⟨s, call, .go⟩

/-- R334: at a call's end the W48 sums go to the group status, rounded to FP32. -/
def State.flushSums (s : State) (die : Nat) (c : PueCall) : State :=
  let put := fun (t : State) (p : Nat × BitVec 48) (o : Nat) =>
    t.pueNum die (c.table.status + 64 * p.1 + o) 4 (fp32Code (roundIn ffFp32 (w48Val p.2))).toNat
  c.mstSq.foldl (fun t p => put t p 28) (c.updSq.foldl (fun t p => put t p 24) s)

/-- R333, R344: the code and the detail of the record of a block at which UPDATE stops; PUE_FROZEN_TOUCH has the group in
its low bits. -/
def BlockEnd.fault : BlockEnd → Nat × Nat
  | .frozenTouch grp => (0x0A02, grp + stepDetail 0x20 0x0A02 <<< 32)
  | _ => (0x0A01, stepDetail 0x20 0x0A01)

/-- R344, R333: an UPDATE that stops: its list and the job halt. -/
def stopUpdate (s : State) (die : Nat) (c : PueCall) (e : BlockEnd) : State :=
  let core := coreNo c.core
  let s1 := (s.flushSums die c).setPue die { s.pue die with call := none, finWait := false }
  let s2 := s1.lapse ⟨die, 5⟩
  match s2.callOf core 0x20 with
  | some ci => s2.callFaultAt core ci e.fault.1 die c.block e.fault.2
  | none => s2

/-- R321: the call ends when no shard is left. -/
def endUpdate (s : State) (die : Nat) (c : PueCall) : State :=
  let s1 := s.flushSums die c
  ((s1.setPue die { s1.pue die with call := none, finWait := false }).lapse ⟨die, 5⟩).finishCall (coreNo c.core)

/-- R335: a written shard's record of non-finite results, naming the shard and its first such block. -/
def State.noteNonfinite (s : State) (die : Nat) (c : PueCall) (shard : Nat) : State :=
  match c.nonf with
  | some b => s.raise 0x0A03 .d die
      (cmdPayload (((s.callOf (coreNo c.core) 0x20).map (fun (ci : CallInfo) => ci.idx)).getD 0) 0 c.core 0x0B 0x20 b
        (shard + stepDetail 0x20 0x0A03 <<< 32))
  | none => s

/-- R321, R355: goes on with the first shard still to do: waits for its finals, skips it, or handles at most `limit` of
its blocks; a finished shard waits to be reported. -/
def advancePue (die limit : Nat) : Nat → State → PueCall → State
  | 0, s, c => s.setPue die { s.pue die with call := some c }
  | n + 1, s, c =>
    match c.todo with
    | [] => endUpdate s die c
    | (e, d) :: rest =>
      if s.shardSkipped e then
        let ix := (s.cke.att.map.map fun m => m.ents.findIdx fun x => x.sdesc = e.sdesc).getD 0
        advancePue die limit n { s.setHealth 6 with cke.att.finalLost := s.cke.att.finalLost ++ [ix] } { c with todo := rest }
      else if !s.shardReady e c.k then s.setPue die { s.pue die with call := some c, finWait := true }
      else
        let a := s.runShard die c d limit
        if a.fin ≠ .go then stopUpdate a.st die a.call a.fin
        else if a.call.block < d.nblk then a.st.setPue die { a.st.pue die with call := some a.call, finWait := false }
        else
          let s1 := a.st.noteNonfinite die a.call e.shard
          s1.setPue die { s1.pue die with call := some { a.call with imageDue := true }, finWait := false }

/-- R343: does the PUE stand still: the job is being suspended, or is? -/
def State.pueHeld (s : State) : Bool := s.hub.jobState = .suspending || s.hub.jobState = .suspended

/-- R342, R415: the call of a PUE asks for its power credit, and goes on as `f` says once it holds it. -/
def State.withCredit (s : State) (die : Nat) (f : State → State) : State :=
  if !(s.pue die).creditWait then f s
  else
    let (got, s0) := s.needCredit ⟨die, 5⟩ 2560
    if got then f (s0.setPue die { s0.pue die with creditWait := false }) else s0

/-- R321: an UPDATE call in progress goes on, unless a written shard has still to be reported. -/
def State.continueUpdate (s : State) (die limit : Nat) (c : PueCall) : State :=
  if c.imageDue || s.pueHeld then s
  else s.withCredit die fun t =>
    advancePue die limit (c.todo.length + 1) (t.writeStepRec die c.table c.k t.baseSeed) c

/-- How many blocks an event of the PUE handles at most: all that are left where nothing is named. -/
def stepLimit (blocks : Option Word32) : Nat := match blocks with
  | some n => n.toNat
  | none => 2 ^ 26

/-- R320: the shards of a map that a call on this die does, with their descriptors. -/
def State.callShards (s : State) (m : ShardMap) (die : Nat) : List (MapEnt × SDesc) :=
  (m.ents.filter fun e => s.holdsEnt e).filterMap fun e =>
    let d := s.readSDesc e.sdesc
    if s.onDie d die then some (e, d) else none

/-- R334: the sums a call starts from: what stands there if the entry is of this step. -/
def State.startSums (s : State) (t : GroupTab) (k o : Nat) : SMap (BitVec 48) :=
  (List.range t.groups.length).foldl (fun m g =>
    let a := t.status + 64 * g
    if s.numAt (a + 16) 8 = k then sset 0 m g (w48Code (s.fp32At (a + o))) else m) []

/-- R316, R318, R336: does a shard's own shape break a rule of its groups: ROOT4 needs FP32 moments, whole tiles and tile
planes, ADAMW second moments; the planes of neither are named where no group uses them? -/
def State.shapeBad (s : State) (t : GroupTab) (d : SDesc) : Bool :=
  let rules := ((List.range d.nblk).filterMap fun b => (s.blockEntry t d b).map fun x => x.2.2.rule).dedup
  let used := fun (xs : List Nat) => xs.any fun x => x != 0
  (rules.contains 3 && (d.momfmt != 0 || d.nblk % 512 != 0)) || (!rules.contains 3 && used d.pre)
    || (!rules.contains 1 && used d.m2)

/-- R317, R318, R320: a group table is read with its knots. -/
def State.readsTable (s : State) (die a : Nat) : State :=
  if a % 64 ≠ 0 then s
  else
    let s1 := s.pueReads die [(a, 128)]
    let n := s1.numAt a 2
    if 4096 < n then s1
    else
      let s2 := s1.pueReads die [(a + 128, 128 * n)]
      s2.pueReads die ((List.range n).filterMap fun g =>
        let e := a + 128 * (g + 1)
        if fld (s2.numAt e 4) 8 2 = 0 ∧ s2.numAt (e + 48) 2 ≤ 64 then some (s2.numAt (e + 40) 8, 8 * s2.numAt (e + 48) 2) else none)

/-- R320, R355: the descriptors of the entries this device holds are read by an agent. -/
def State.readsDescs (s : State) (agent : Nat) (es : List MapEnt) : State :=
  s.engineReads agent (es.map fun e => (e.sdesc, 128))

/-- R319, R320: the headers of a shard are read. -/
def State.readsHeaders (s : State) (die : Nat) (d : SDesc) : State :=
  if d.nblk ≤ 2 ^ 26 then s.pueReads die [(pl d.hdr 0, 16 * d.nblk), (pl d.hdr 1, 16 * d.nblk)] else s

/-- R338: FALLBACK and FALLBACK_TILES of a group. -/
def State.setFallback (s : State) (die : Nat) (t : GroupTab) (x : Nat × Nat) : State :=
  let a := t.status + 64 * x.1
  let s1 := s.pueReads die [(a, 64)]
  (s1.pueNum die (a + 12) 4 x.2).pueNum die (a + 32) 4 ((s1.numAt (a + 32) 4 &&& 0xFFFFFFFE) ||| b2n (x.2 != 0))

/-- R334, R338: a call takes the table it has read; what PRECOND counted before any was known is written (assumption 74). -/
def State.takeTable (s : State) (die : Nat) (t : GroupTab) : State :=
  let s1 := (s.cke.marks.filter fun x => decide (x.1 < t.groups.length)).foldl (fun u x => u.setFallback die t x) s
  { s1 with cke.table := some t, cke.marks := [] }

/-- May a core's call have the PUE of its die? -/
def State.pueFree (s : State) (die : Nat) : Bool := (s.pue die).call.isNone && (s.pue die).pre.isNone

/-- R320, R344: a call of a PUE routine that is refused. -/
def State.pueRefuse (s : State) (core : CoreId) (ci : CallInfo) : State := s.callFault core ci 0x030F core.val noPos

/-- R320: UPDATE reads the map, the table and the descriptors, checks them, and takes the PUE. -/
def startUpdate (core : CoreId) (die : Nat) (ci : CallInfo) (limit : Nat) (s0 : State) : State :=
  let ma := pbNum ci.pb 0x10 8
  let ta := pbNum ci.pb 0x18 8
  let s := (s0.readsMap (pueAgent die) ma).readsTable die ta
  if s.mapBad ma || (s.readMap ma).kind ≠ 0 || s.tableBad ta then s.pueRefuse core ci
  else
    let m := s.readMap ma
    let t := s.readTable ta
    let s1 := s.readsDescs (pueAgent die) (m.ents.filter s.holdsEnt)
    let todo := s1.callShards m die
    let s2 := todo.foldl (fun u x => u.readsHeaders die x.2) s1
    if (m.ents.filter s.holdsEnt).any (fun e => !s2.rangePop e.sdesc 128) || todo.any (fun x => s2.sdescBad x.1.sdesc)
        || todo.any (fun x => s2.shapeBad t x.2) then s2.pueRefuse core ci
    else
      let k := s2.stepNow.toNat
      let s3 := (s2.pueReads die [(t.status, 64 * t.groups.length)]).takeTable die t
      let c : PueCall := ⟨core.val, k, t, todo, [], false, 0, none, s3.startSums t k 24, s3.startSums t k 28⟩
      (s3.setPue die { s3.pue die with call := some c, creditWait := true }).continueUpdate die limit c

/-- UPDATE (R320 to R324, R342): a call begins, or goes on where it stopped between blocks or for want of a credit. -/
def execUpdate (core : CoreId) (blocks : Option Word32) (s : State) : Answer :=
  match s.callOf core 0x20 with
  | none => .next s
  | some ci =>
    let die := s.dieOfCore core.val
    match (s.pue die).call with
    | some c => if c.core = core.val then .next (afterSnoop s (s.continueUpdate die (stepLimit blocks) c)) else .next s
    | none => if s.pueFree die && !s.pueHeld then .next (afterSnoop s (startUpdate core die ci (stepLimit blocks) s)) else .next s

/-- SHARD_FINALS_READY (R321): a PUE that waits at a shard goes on once it may. -/
def execShardFinalsReady (die : Fin 2) (blocks : Option Word32) (s : State) : Answer :=
  match (s.pue die.val).call with
  | none => .next s
  | some c => .next (afterSnoop s (s.continueUpdate die.val (stepLimit blocks) c))

/-- R341: the ranges of a written block that its digest covers: the header, the master and the moments of the written
copy, and behind a ROOT4 tile's last block its new state. -/
def State.digestRanges (s : State) (t : GroupTab) (d : SDesc) (x : Nat × Nat × Nat) : List (Nat × Nat) :=
  let (b, i, grp) := x
  let rule := (t.groups[grp]?.map fun g => g.rule).getD 0
  let a0 := tileAddr d 0 (b / 512)
  (pl d.hdr i + 16 * b, 16) :: d.copyRanges i b (rule = 1)
    ++ (if rule = 3 && b % 512 = 511 then
          [(if s.numAt a0 8 = s.numAt (pl d.hdr i + 16 * b) 8 then a0 else tileAddr d 1 (b / 512), tileSize)]
        else [])

/-- R341: digest and count of a finished shard. -/
def State.shardDigest (s : State) (c : PueCall) (d : SDesc) : List Byte :=
  let blocks := (c.written.insertionSort fun x y => x.1 ≤ y.1).flatMap fun x =>
    leBytes 4 x.1 ++ (s.digestRanges c.table d x).flatMap fun r => s.bytesAt r.1 r.2
  shake256 (blocks ++ leBytes 8 c.written.length) 32 ++ leBytes 8 c.written.length

/-- R369: does an array stand at or above ARRAY_LIMIT? -/
def State.arrayHot (s : State) : Bool :=
  s.cke.arrayLimit ≠ 0 && s.cores.any fun k => k.m.arrayFaults.any fun p => decide (s.cke.arrayLimit ≤ p.2)

/-- R369: CKE_SUSPECT. -/
def State.suspect (s : State) : Nat :=
  min (2 ^ 31 - 1) (s.err.ckWin.sum) + (if s.pwr.alarm || s.arrayHot then 2 ^ 31 else 0)

/-- R353: does this device compare digests? Whether one is formed is up to the PUE of the shard's die. -/
def State.compares (s : State) : Bool := s.cke.ctl.getLsbD 2

/-- R359: ADDR of a CKE packet. -/
def State.ckeAddr (s : State) (ent : Nat) : Nat := (s.cke.c + 1) % 65536 + (s.cke.attempt % 256) <<< 16 + ent <<< 24

/-- The gate's map entry of a shard. -/
def State.gateEntry (s : State) (e : MapEnt) : Nat :=
  (s.cke.att.map.map fun m => m.ents.findIdx fun x => x.bucket = e.bucket && x.shard = e.shard).getD 0

/-- R360: an entry of MIS: map entry, suspect device, SECOND. -/
def misWord (ent suspect : Nat) (second : Bool) : Nat := ent % 2 ^ 20 + (suspect % 2 ^ 14) <<< 20 + b2n second <<< 34

/-- R353, R368: a shard whose digests differ, or whose owner sent none: it is listed with the device of the higher
CKE_SUSPECT, this buddy if they are equal; in a retried attempt it is marked SECOND and the vote sets SUSPECT. -/
def State.mismatch (s : State) (ent owner ownerSuspect : Nat) : State :=
  let second := s.cke.att.afterRetry
  let who := if s.suspect < ownerSuspect then owner else s.fab.devid
  let s1 := s.setHealth 9
  let s2 := if second then s1.setHealth 12 else s1
  { s2 with
    cke.att.compared := s2.cke.att.compared ++ [ent]
    cke.att.mis := s2.cke.att.mis ++ [misWord ent who second] }

/-- R353: compares an owner's digest and count with this buddy's, once both are there. -/
def State.settleDigest (s : State) (ent : Nat) : State :=
  let own := sget [] s.cke.att.digOwn ent
  match (s.cke.att.map.bind fun m => m.ents[ent]?), s.cke.att.digRx.find? fun x => x.1 = ent with
  | some e, some (_, rx) =>
    if own.isEmpty || s.cke.att.compared.contains ent || !s.compares || e.buddy ≠ some s.fab.devid || s.isLost e.owner then s
    else if own = rx.take 40 then { s with cke.att.compared := s.cke.att.compared ++ [ent] }
    else s.mismatch ent e.owner (lenum rx 40 4)
  | _, _ => s

/-- R323, R341, R353: a finished shard: digest and count are written, its all-gather may start, and the acting owner
sends its DIGEST to the buddy. -/
def finishShard (s : State) (die : Nat) (c : PueCall) (e : MapEnt) (d : SDesc) : State :=
  let dg := s.shardDigest c d
  let en := (s.pue die).digestEn
  let s1 := if en then s.pueWrite die d.digest dg else s
  let ent := s.gateEntry e
  let s2 := { s1 with
    cle.imaged := if s1.cle.imaged.contains (e.bucket, e.shard) then s1.cle.imaged else s1.cle.imaged ++ [(e.bucket, e.shard)]
    cke.att.digOwn := if en then sset [] s1.cke.att.digOwn ent dg else s1.cke.att.digOwn }
  let s3 := (s2.gatherShard e.bucket e.shard).settleDigest ent
  match e.buddy with
  | some b =>
    if s3.compares && en && e.owner = s3.fab.devid && !s3.isLost b then
      s3.sendPacket (mkPacket 0x20 b 44 0 (s3.ckeAddr ent) 0 (dg ++ leBytes 4 s3.suspect))
    else s3
  | none => s3

/-- SHARD_IMAGE_COMPLETE (R323, R341): the shard just written is reported, and the PUE goes on to the next. -/
def execShardImageComplete (die : Fin 2) (blocks : Option Word32) (s : State) : Answer :=
  match (s.pue die.val).call with
  | none => .next s
  | some c =>
    match c.imageDue, c.todo with
    | true, (e, d) :: rest =>
      if s.pueHeld then .next s
      else
        let s1 := finishShard s die.val c e d
        let c1 := { c with todo := rest, written := [], imageDue := false, block := 0, nonf := none }
        .next (afterSnoop s ((s1.setPue die.val { s1.pue die.val with call := some c1 }).continueUpdate die.val (stepLimit blocks) c1))
    | _, _ => .next s

/-! PRECOND -/

/-- R338, R339: one root of a tile: what is written, and what the tile's header, the counters and the records get. -/
def precondRoot (die : Nat) (core : CoreId) (ci : CallInfo) (a : Mat) (s : State) (pos : Nat) : Mat × Nat × Bool × State :=
  let (x, kind) := invRoot4 128 a
  let note := fun (t : State) (code : Nat) => t.callNote core ci code .c die pos (stepDetail 0x21 code)
  let p := s.pue die
  match kind with
  | .zero | .nan | .ok 0 => (x, 0, false, s)
  | .ok n => (x, n, false, note (s.setPue die { p with retries := satAdd 32 p.retries 1, sticky := p.sticky ||| 4 }) 0x0A04)
  | .fallback => (x, 0, true, note (s.setPue die { p with fallbacks := satAdd 32 p.fallbacks 1, sticky := p.sticky ||| 8 }) 0x0A05)

/-- R338: the FALLBACK_TILES of a group that PRECOND has reached, where no table is known yet (assumption 74). -/
def State.mark (s : State) (g : Nat) (f : Nat → Nat) : State :=
  let n := ((s.cke.marks.find? fun x => x.1 = g).map Prod.snd).getD 0
  { s with cke.marks := (s.cke.marks.filter fun x => x.1 ≠ g) ++ [(g, f n)] }

/-- R338, R339: the FALLBACK_TILES of a group change by `f`, and FALLBACK with them. -/
def State.countFallback (s : State) (die : Nat) (f : Nat → Nat) (g : Nat) : State :=
  match s.cke.table with
  | some t => if g < t.groups.length then s.setFallback die t (g, f (s.numAt (t.status + 64 * g + 12) 4)) else s
  | none => s.mark g f

/-- R338: the group of a tile, by its first block. -/
def State.tileGroup (s : State) (x : SDesc × Nat) : Option Nat :=
  (s.curCopy x.1 (512 * x.2)).map fun i => s.blkGroup x.1 i (512 * x.2)

/-- R338, R339: the roots of tile x, whose current copy is `cur`, formed and written to the other copy; a fallback is
counted in the tile's group. -/
def rootTile (die : Nat) (core : CoreId) (ci : CallInfo) (k : Nat) (sh : State) (x : SDesc × Nat) (cur : Nat) : State :=
  let aa := tileAddr x.1 (1 - cur) x.2
  let s := (sh.pueReads die [(tileAddr x.1 cur x.2 + 4096, 131072)]).readHeaders die x.1 (512 * x.2)
  let l := precondRoot die core ci (s.tileMat (tileAddr x.1 cur x.2) 0) s x.2
  let r := precondRoot die core ci (s.tileMat (tileAddr x.1 cur x.2) 1) l.2.2.2 x.2
  let back := l.2.2.1 || r.2.2.1
  let s3 := (r.2.2.2.pueWrite die (aa + 135168) (matBytes l.1 ++ matBytes r.1)).pueWrite die aa
    (tileHeader (s.numAt aa 8) k (b2n back + (max l.2.1 r.2.1) <<< 1))
  match back, s.tileGroup x with
  | true, some g => s3.countFallback die (fun n => satAdd 32 n 1) g
  | _, _ => s3

/-- R338: one tile of a PRECOND call in an acting step; none where the tile has no current copy (R344). -/
def precondTile (die : Nat) (core : CoreId) (ci : CallInfo) (k : Nat) (s0 : State) (x : SDesc × Nat) : Option State :=
  let sh := s0.readTileHeaders die x.1 x.2
  (sh.curTile x.1 x.2).map (rootTile die core ci k sh x)

/-- R338, R343: a PRECOND call does its next tile, or ends when none is left; a tile without a current copy halts the list
and the job (R344). -/
def preStep (die : Nat) (core : CoreId) (ci : CallInfo) (s : State) : State :=
  let done := fun (t : State) => (t.setPue die { t.pue die with pre := none }).lapse ⟨die, 5⟩
  match (s.pue die).pre with
  | none => s
  | some r => match r.todo with
    | [] => (done s).finishCall core
    | x :: rest => match precondTile die core ci r.k s x with
      | some t => t.setPue die { t.pue die with pre := some { r with todo := rest } }
      | none => (done s).callFault core ci 0x0A01 die x.2

/-- R343: at most `n` such steps. -/
def runTiles (die : Nat) (core : CoreId) (ci : CallInfo) : Nat → State → State
  | 0, s => s
  | n + 1, s => runTiles die core ci n (preStep die core ci s)

/-- R343: a PRECOND call in progress goes on. -/
def State.continuePrecond (s : State) (die : Nat) (core : CoreId) (ci : CallInfo) (limit : Nat) (r : PreRun) : State :=
  if s.pueHeld then s else s.withCredit die (runTiles die core ci (min limit (r.todo.length + 1)))

/-- R338: in an acting step PRECOND reads its block list and the descriptors it names, checks them, and clears the FALLBACK
marks of the groups it reaches. -/
def startPrecond (core : CoreId) (die : Nat) (ci : CallInfo) (limit : Nat) (s0 : State) : State :=
  let a := pbNum ci.pb 0x10 8
  let n := pbNum ci.pb 0x18 4
  let kk := pbNum ci.pb 0x1C 4
  let k := s0.stepNow.toNat
  if kk = 0 ∨ 2 ^ 20 < kk ∨ a % 64 ≠ 0 then s0.pueRefuse core ci
  else if k % kk ≠ 0 then s0.finishCall core
  else
    let s := s0.pueReads die [(a, 16 * n)]
    let ents := (List.range n).map fun i => (s.numAt (a + 16 * i) 8, s.numAt (a + 16 * i + 8) 4)
    let s1 := s.pueReads die (ents.map fun x => (x.1, 128))
    let todo := ents.map fun x => (s1.readSDesc x.1, x.2)
    if !s1.readable a (16 * n) ∨ ents.any (fun x => s1.sdescBad x.1) ∨ todo.any (fun x => decide (x.1.nblk < 512 * (x.2 + 1))) then
      s1.pueRefuse core ci
    else
      let s2 := todo.foldl (fun u x => u.readHeaders die x.1 (512 * x.2)) s1
      let s3 := (todo.filterMap s2.tileGroup).dedup.foldl (State.countFallback (die := die) (f := fun _ => 0)) s2
      let r : PreRun := ⟨core.val, k, todo⟩
      (s3.setPue die { s3.pue die with pre := some r, creditWait := true }).continuePrecond die core ci limit r

/-- PRECOND (R338, R339, R343): in steps with k mod K = 0 the inverse fourth roots of every listed tile, at most `tiles` of
them in this event. The group status area is that of the device's last UPDATE call (assumption 74). -/
def execPrecond (core : CoreId) (tiles : Option Word32) (s : State) : Answer :=
  match s.callOf core 0x21 with
  | none => .next s
  | some ci =>
    let die := s.dieOfCore core.val
    match (s.pue die).pre with
    | some r => if r.core = core.val then .next (afterSnoop s (s.continuePrecond die core ci (stepLimit tiles) r)) else .next s
    | none => if s.pueFree die && !s.pueHeld then .next (afterSnoop s (startPrecond core die ci (stepLimit tiles) s)) else .next s

/-! ALLGATHER -/

/-- ALLGATHER (R304): arms the gather of the open exchange with a shard map; shards whose image is already complete
are sent at once. -/
def execAllgather (core : CoreId) (s0 : State) : Answer :=
  match s0.callOf core 0x11 with
  | none => .next s0
  | some ci =>
    let a := pbNum ci.pb 0x10 8
    let s := s0.readsMap 0x80 a
    if 1 < pbNum ci.pb 0x18 1 ∨ s.mapBad a ∨ (s.readMap a).kind ≠ 0 then .next (s.callFault core ci 0x030F core.val noPos)
    else if !s.cle.isOpen then .next (s.finishCall core)
    else
      let s1 := { s with cle.armed := some (s.readMap a) }
      let s2 := s1.cle.imaged.foldl (fun t x => t.gatherShard x.1 x.2) s1
      .next (afterSnoop s0 (s2.settleStaged.finishCall core))

end Sys2Proof.Machine
end

