-- ==== Sys2Proof/Machine/CkeVote.lean ====
section
/-! DEFINITION. The commit gate up to a decision (12, R346 to R360): the vote tree, readiness, digests, probes, losses,
votes, and the root's decision. -/

namespace Sys2Proof.Machine

/-! The tree -/

/-- R351: the live list. -/
def State.live (s : State) : List Nat := s.cke.att.members.filter fun d => !s.isLost d

/-- R351: FANOUT: below 2 as 2, above 16 as 16. -/
def Cke.fanout (k : Cke) : Nat := max 2 (min 16 (fld k.gateCtl.toNat 22 5))

/-- This device's position in the live list. -/
def State.livePos (s : State) : Nat := s.live.findIdx (· = s.fab.devid)

/-- The device at a live position; this one where there is none. -/
def State.liveDev (s : State) (q : Nat) : Nat := s.live.getD q s.fab.devid

/-- R351: the positions below a position. -/
def State.below (s : State) (q : Nat) : List Nat :=
  (List.range s.cke.fanout).filterMap fun i =>
    let p := q * s.cke.fanout + 1 + i
    if p < s.live.length then some p else none

/-- R354: positions with those this device has declared lost replaced by the ones below them, `n` levels deep. -/
def State.adopt (s : State) : Nat → List Nat → List Nat
  | 0, ps => ps
  | n + 1, ps => ps.flatMap fun p => if s.cke.att.declared.contains (s.liveDev p) then s.adopt n (s.below p) else [p]

/-- R354: the devices this one probes and takes votes from: its children and the adopted ones. Position 1 as acting root
has those of the root as well. -/
def State.wards (s : State) : List Nat :=
  let q := s.livePos
  let own := s.below q ++ (if s.cke.actingRoot then (s.below 0).filter (· ≠ q) else [])
  (s.adopt 15 own).map s.liveDev

/-- R351, R354: is this device root or acting root? -/
def State.isRoot (s : State) : Bool := s.cke.att.members.contains s.fab.devid && (s.livePos = 0 || s.cke.actingRoot)

/-- R351: the positions above a position, nearest first, `n` at most. -/
def State.above (s : State) : Nat → Nat → List Nat
  | 0, _ => []
  | n + 1, q => if q = 0 then [] else ((q - 1) / s.cke.fanout) :: s.above n ((q - 1) / s.cke.fanout)

/-- R351: the root of the tree. -/
def State.rootDev (s : State) : Nat := s.liveDev 0

/-- R354, R355: does live position 1 act as root: has the root been declared lost? -/
def State.rootGone (s : State) : Bool := s.cke.att.pendingLost.contains s.rootDev

/-- R354: the device this one reports losses to: the root, or the acting root. -/
def State.actRoot (s : State) : Nat := if s.rootGone then s.liveDev 1 else s.rootDev

/-- R354, R356: the devices a vote may go to, the parent first; the acting root takes the place of a lost root. -/
def State.ancestors (s : State) : List Nat :=
  let up := (s.above 15 s.livePos).map s.liveDev
  if s.rootGone then
    let xs := up.filter fun d => d ≠ s.rootDev
    if s.livePos ≤ 1 || xs.contains (s.liveDev 1) then xs else xs ++ [s.liveDev 1]
  else up

/-- Sends a CKE packet (R359). -/
def State.sendCke (s : State) (ptype dst : Nat) (payload : List Byte) : State :=
  s.sendPacket (mkPacket ptype dst payload.length 0 (s.ckeAddr 0) 0 payload)

/-- Sends a CKE packet to several devices. -/
def State.sendCkeAll (s : State) (ptype : Nat) (dsts : List Nat) (payload : List Byte) : State :=
  dsts.foldl (fun t d => t.sendCke ptype d payload) s

/-- R359: does a packet belong to the running step and attempt? -/
def State.ckeNow (s : State) (p : Packet) : Bool :=
  fld p.addr 0 16 = (s.cke.c + 1) % 65536 && fld p.addr 16 8 = s.cke.attempt % 256

/-- The oldest CKE packet of a type; one from a lost or pending-lost device is dropped (R355). -/
def State.takeCke (s : State) (ptype : Nat) : Option (Packet × Bool × State) :=
  (s.takeType ptype).map fun x => (x.1, s.fromLost x.1, x.2)

/-! Records -/

/-- Numbers of `n` bytes each, filled up to `len` bytes. -/
def numList (n len : Nat) (xs : List Nat) : List Byte :=
  let bs := xs.flatMap (leBytes n)
  bs ++ List.replicate (len - bs.length) 0

/-- R360: a vote as its 368 bytes. -/
def VoteRec.bytes (v : VoteRec) : List Byte :=
  leBytes 8 v.step ++ leBytes 1 v.attempt ++ leBytes 1 (b2n v.lostOvf + b2n v.misOvf <<< 1)
    ++ leBytes 2 v.lost.length ++ leBytes 2 v.mis.length ++ leBytes 2 0 ++ leBytes 4 v.covered ++ leBytes 4 0
    ++ leBytes 8 v.health.toNat ++ leBytes 8 v.ckStep ++ leBytes 8 v.ckGen ++ numList 2 64 v.lost ++ numList 8 256 v.mis

/-- R360: the lists of a record. -/
def recLost (bs : List Byte) : List Nat := (List.range (min 32 (lenum bs 10 2))).map fun i => lenum bs (48 + 2 * i) 2
def recMis (bs : List Byte) : List Nat := (List.range (min 32 (lenum bs 12 2))).map fun i => lenum bs (112 + 8 * i) 8

/-- R360: a vote from its bytes. -/
def voteOf (bs : List Byte) : VoteRec :=
  ⟨lenum bs 0 8, lenum bs 8 1, bitAt (lenum bs 9 1) 0, bitAt (lenum bs 9 1) 1, lenum bs 16 4,
    BitVec.ofNat 64 (lenum bs 24 8), lenum bs 32 8, lenum bs 40 1, recLost bs, recMis bs⟩

/-- R360: a decision as its 368 bytes. -/
def DecRec.bytes (d : DecRec) : List Byte :=
  leBytes 8 d.step ++ leBytes 1 d.attempt ++ leBytes 1 d.action ++ leBytes 2 d.lost.length ++ leBytes 2 d.mis.length
    ++ leBytes 1 (b2n d.allShards + b2n d.discard <<< 1) ++ leBytes 1 0 ++ leBytes 8 0
    ++ leBytes 8 d.reason.toNat ++ leBytes 8 d.ckStep ++ leBytes 8 d.ckGen ++ numList 2 64 d.lost ++ numList 8 256 d.mis

/-- R360: a decision from its bytes. -/
def decOf (bs : List Byte) : DecRec :=
  ⟨lenum bs 0 8, lenum bs 8 1, lenum bs 9 1, bitAt (lenum bs 14 1) 0, bitAt (lenum bs 14 1) 1,
    BitVec.ofNat 64 (lenum bs 24 8), lenum bs 32 8, lenum bs 40 1, recLost bs, recMis bs⟩

/-- R378: the CKSTEP of no complete generation. -/
def noCkStep : Nat := 2 ^ 64 - 1

/-- R378: the lower of two newest complete generations. -/
def lowerCk (a b : Nat × Nat) : Nat × Nat := if b.1 < a.1 then b else a

/-! Votes -/

/-- R356, R371: this device's vote, merged with those it holds. -/
def State.myVote (s : State) : VoteRec :=
  let a := s.cke.att
  let vs := a.votes.map Prod.snd
  let self := if s.cke.health.getLsbD 13 then [s.fab.devid] else []
  let lost := (a.declared ++ self ++ vs.flatMap fun v => v.lost).dedup
  let mis := (a.mis ++ (a.finalLost.map fun e => misWord e 0 false) ++ vs.flatMap fun v => v.mis).dedup
  let ck := vs.foldl (fun x v => lowerCk x (v.ckStep, v.ckGen)) (s.cke.ownGen.getD (noCkStep, 0))
  ⟨s.cke.c + 1, s.cke.attempt, decide (32 < lost.length) || vs.any (fun v => v.lostOvf),
    decide (32 < mis.length) || vs.any (fun v => v.misOvf), 1 + (vs.map fun v => v.covered).sum,
    vs.foldl (fun h v => h ||| v.health) s.cke.health, ck.1, ck.2, lost.take 32, mis.take 32⟩

/-- R356: are the votes of all wards here? -/
def State.votesIn (s : State) : Bool := s.wards.all fun d => s.cke.att.votes.any fun v => v.1 = d

/-- R349: the bits of the Abort class. -/
def abortMask : Nat := 0x21FF

/-- R357: is a map entry lost with its owner and its buddy? -/
def entLost (gone : Nat → Bool) (e : MapEnt) : Bool :=
  gone e.owner && (match e.buddy with
    | some b => gone b
    | none => true)

/-- R349, R357: is some map entry lost, by what this root knows and what the votes list? -/
def State.shardLost (s : State) (v : VoteRec) : Bool :=
  (s.cke.att.map.map fun m => m.ents.any (entLost fun d => s.goneNow d || v.lost.contains d)).getD false

/-- R366: does an ABORT for these reasons keep the accumulators? -/
def State.keepAccum (s : State) (reason : Nat) : Bool := s.cke.gateCtl.getLsbD 12 && reason &&& 0x1F = 0

/-- R357, R366: the decision on a merged vote. -/
def State.decisionOn (s : State) (v : VoteRec) : DecRec :=
  let h := v.health.toNat
  let roll := bitAt h 11 || bitAt h 12 || v.lostOvf || (v.misOvf && s.cke.att.afterRetry)
  let act := if roll then (if s.cke.ckptStep ≠ 2 ^ 56 - 1 then 4 else 5)
    else if h &&& abortMask ≠ 0 then 2
    else if bitAt h 9 then 3
    else 1
  let suspects := if bitAt h 12 then (v.mis.filter fun m => bitAt m 34).map fun m => fld m 20 14 else []
  let ck := if act = 4 then (s.cke.ckptStep, s.cke.ckptGen) else (v.ckStep, v.ckGen)
  ⟨v.step, v.attempt, act, act = 3 && v.misOvf, act = 2 && !s.keepAccum h, BitVec.ofNat 64 h, ck.1, ck.2,
    (v.lost ++ suspects).dedup.take 32, v.mis⟩

/-- R357: the root decides once its votes and the lost devices cover the live list and more than half of it voted; it
first sets SHARD_LOST (R349). What it has decided stands. -/
def State.tryDecide (s : State) : State :=
  let v := s.myVote
  let lost := (s.live.filter v.lost.contains).length
  if s.cke.decided.isNone ∧ s.live.length ≤ v.covered + lost ∧ s.live.length < 2 * v.covered then
    let t := if s.shardLost v then s.setHealth 11 else s
    { t with cke.decided := some (t.decisionOn t.myVote) }
  else s

/-- R356: sends this device's vote to the ancestor whose turn it is. -/
def State.sendVote (s : State) : State :=
  match s.ancestors[s.cke.att.voteTo]? with
  | some d => s.sendCke 0x21 d s.myVote.bytes
  | none => s

/-- R356, R357, R400: a ready device whose wards have voted sends its vote, or decides as root; a suspended job casts
none. -/
def State.tryVote (s : State) : State :=
  if s.cke.st ≠ .ready || !s.votesIn || s.hub.jobState = .suspended then s
  else if s.isRoot then s.tryDecide
  else { s with cke.st := .voted, cke.att.voteTo := 0, cke.att.voteAcked := false }.sendVote

/-! Readiness -/

/-- R352: the signed target of READY_FLAG; a retried attempt reruns nothing of the cores (R367). -/
def State.flagReady (s : State) : Bool :=
  s.cke.att.afterRetry || reached (s.hubFlag s.cke.readyFlag - s.cke.att.base) s.cke.readyTarget

/-- R352, R367: is what the exchange owes staged? -/
def State.stageReady (s : State) : Bool :=
  if s.cke.att.afterRetry then s.cke.att.resent.all s.cle.staged.contains
  else !s.cke.gateCtl.getLsbD 10 || (s.cke.att.exchOpened && s.cle.stagedDone) || s.cke.att.stageMissed

/-- R352, R353: has every digest this buddy awaits come, or is its owner lost? -/
def State.digestsIn (s : State) : Bool :=
  !s.compares || (s.cke.att.digOwn.all fun x =>
    match s.cke.att.map.bind fun m => m.ents[x.1]? with
    | some e => e.buddy ≠ some s.fab.devid || s.goneNow e.owner || s.cke.att.compared.contains x.1
    | none => true)

/-- READY (R352): the device becomes ready, takes READY_TARGET from its flag, and votes when it can. -/
def execReady (s : State) : Answer :=
  if !(s.cke.st = .running || s.cke.st = .retrying) || s.cke.rewinding || !(s.flagReady && s.stageReady && s.digestsIn) then .next s
  else
    let f := s.cke.readyFlag
    let s1 := if s.cke.att.afterRetry then s
      else { s with hub.flags := sset 0 s.hub.flags f (s.hubFlag f - s.cke.readyTarget) }
    .next { s1 with cke.st := .ready }.tryVote

/-- STAGE_MISSING (R352): CKE_VOTE_TIMEOUT_US after a LOSS_NOTICE shards are still unstaged. -/
def execStageMissing (s : State) : Answer :=
  if s.cke.st ≠ .running || !s.cke.att.lossSeen || s.stageReady || s.cke.voteTimeout = 0 then .next s
  else .next { s.setHealth 7 with cke.att.stageMissed := true }

/-- DIGEST (R353): an owner's digest arrives at the buddy. -/
def execDigest (s : State) : Answer :=
  match s.takeCke 0x20 with
  | none => .next s
  | some (p, gone, s1) =>
    let ent := fld p.addr 24 20
    match s1.cke.att.map.bind fun m => m.ents[ent]? with
    | none => .next s1
    | some e =>
      if gone || !s1.ckeNow p || e.owner ≠ p.src || e.buddy ≠ some s1.fab.devid then .next s1
      else .next ({ s1 with cke.att.digRx := s1.cke.att.digRx ++ [(ent, p.payload)] }.settleDigest ent)

/-- DIGEST_TIMEOUT (R353): a live owner has sent no DIGEST within CKE_VOTE_TIMEOUT_US. -/
def execDigestTimeout (ent : BitVec 20) (s : State) : Answer :=
  match s.cke.att.map.bind fun m => m.ents[ent.toNat]? with
  | none => .next s
  | some e =>
    if s.cke.voteTimeout = 0 || !s.compares || e.buddy ≠ some s.fab.devid || s.goneNow e.owner
        || (sget [] s.cke.att.digOwn ent.toNat).isEmpty || s.cke.att.compared.contains ent.toNat then .next s
    else .next (s.mismatch ent.toNat e.owner 0)

/-! Probes and losses -/

/-- R354: is an attempt open? -/
def State.attemptOpen (s : State) : Bool :=
  match s.cke.st with
  | .running | .ready | .voted | .retrying => true
  | _ => false

/-- R355: a device learns of a loss. The shards it shadows for that owner are gathered from here if their image is
complete; streams accepted from the lost device may come again from its buddy. -/
def State.learnLoss (s : State) (dev : Nat) : State :=
  if s.cke.att.pendingLost.contains dev then s
  else
    let s1 := { s with
      cke.att.pendingLost := s.cke.att.pendingLost ++ [dev]
      cke.att.lossSeen := true
      cle.accepted := s.cle.accepted.filter fun a => !(a.1 && a.2.2.2.2.2 = dev)
      cle.streams := s.cle.streams.filter fun x => !(x.gather && x.src = dev) }
    ((s1.cke.att.map.map fun m => m.ents).getD []).foldl (fun t e =>
      if e.owner = dev && e.buddy = some t.fab.devid then t.gatherShard e.bucket e.shard else t) s1

/-- R355: the root sends a LOSS_NOTICE down the tree, a parent on to its children. -/
def State.spreadLoss (s : State) (dev : Nat) : State := (s.sendCkeAll 0x26 s.wards (leBytes 2 dev)).learnLoss dev

/-- R354: a child is declared lost; the root learns of it; a lost root makes position 1 acting root. -/
def State.declareLost (s : State) (dev : Nat) : State :=
  let s1 := { s.setHealth 10 with
    cke.att.declared := s.cke.att.declared ++ [dev]
    cke.actingRoot := s.cke.actingRoot || decide (dev = s.rootDev) }
  if s1.isRoot then s1.spreadLoss dev else s1.sendCke 0x26 s1.actRoot (leBytes 2 dev)

/-- R354: the devices this one probes now: wards that have not voted, and the root from live position 1. -/
def State.probes (s : State) : List Nat :=
  (s.wards.filter fun d => !(s.cke.att.votes.any fun v => v.1 = d))
    ++ (if s.livePos = 1 && !s.cke.actingRoot then [s.rootDev] else [])

/-- R354: one device is probed again, or declared lost when it has missed MISSES probes in a row. -/
def State.probeOne (s : State) (dev : Nat) : State :=
  let missed := s.cke.att.probed.contains dev
  let n := sget 0 s.cke.att.misses dev + b2n missed
  if missed && max 1 (fld s.cke.probe.toNat 16 4) ≤ n then s.declareLost dev
  else { s with
    cke.att.misses := sset 0 s.cke.att.misses dev n
    cke.att.probed := if missed then s.cke.att.probed else s.cke.att.probed ++ [dev] }.sendCke 0x24 dev []

/-- PROBE_TICK (R354): a probe period passes; a loss may complete the votes (R356). -/
def execProbeTick (s : State) : Answer :=
  if !s.attemptOpen then .next s else .next (s.probes.foldl State.probeOne s).tryVote

/-- PROBE (R354): answered in every state, unless its sender is lost (R355). -/
def execProbe (s : State) : Answer :=
  match s.takeCke 0x24 with
  | none => .next s
  | some (p, gone, s1) => .next (if gone then s1 else s1.sendPacket (mkPacket 0x25 p.src 0 0 p.addr 0 []))

/-- PROBE_ACK (R354). -/
def execProbeAck (s : State) : Answer :=
  match s.takeCke 0x25 with
  | none => .next s
  | some (p, gone, s1) => .next (if gone then s1 else { s1 with
      cke.att.probed := s1.cke.att.probed.erase p.src
      cke.att.misses := sset 0 s1.cke.att.misses p.src 0 })

/-- LOSS_NOTICE (R355). -/
def execLossNotice (s : State) : Answer :=
  match s.takeCke 0x26 with
  | none => .next s
  | some (p, gone, s1) =>
    if gone || !s1.attemptOpen || s1.cke.att.pendingLost.contains (lenum p.payload 0 2) then .next s1
    else .next (afterSnoop s ((s1.spreadLoss (lenum p.payload 0 2)).tryVote))

/-! Votes between devices -/

/-- VOTE (R356): a vote of a ward is merged and acknowledged; any other is answered with nothing. -/
def execVote (s : State) : Answer :=
  match s.takeCke 0x21 with
  | none => .next s
  | some (p, gone, s1) =>
    if gone || !s1.attemptOpen || !s1.ckeNow p || !s1.wards.contains p.src then .next s1
    else
      let s2 := { s1 with cke.att.votes := (s1.cke.att.votes.filter fun (v : Nat × VoteRec) => v.1 ≠ p.src) ++ [(p.src, voteOf p.payload)] }
      .next (s2.sendCke 0x22 p.src []).tryVote

/-- VOTE_ACK (R356). -/
def execVoteAck (s : State) : Answer :=
  match s.takeCke 0x22 with
  | none => .next s
  | some (p, gone, s1) =>
    if gone || !s1.ckeNow p || s1.ancestors[s1.cke.att.voteTo]? ≠ some p.src then .next s1
    else .next { s1 with cke.att.voteAcked := true }

/-- VOTE_TIMEOUT (R356): the vote goes to the next ancestor, up to the root. -/
def execVoteTimeout (s : State) : Answer :=
  if s.cke.st ≠ .voted || s.cke.att.voteAcked || s.cke.voteTimeout = 0 then .next s
  else
    let n := if s.cke.att.voteTo + 1 < s.ancestors.length then s.cke.att.voteTo + 1 else s.cke.att.voteTo
    .next ({ s with cke.att.voteTo := n }.sendVote)

/-- CKE_ORPHANED (R358): a device that has voted gets no DECISION within CKE_DECISION_TIMEOUT_US. -/
def execCkeOrphaned (s : State) : Answer :=
  if s.cke.st ≠ .voted || s.cke.decTimeout = 0 then .next s
  else .next (({ s with cke.st := .orphaned }.raiseHalting 0x0B08 .d 0 (devPayload s.fab.devid 0 0)).haltJob 0x0B08)

end Sys2Proof.Machine
end

