-- ==== Sys2Proof/Machine/Cke.lean ====
section
/-! DEFINITION. The commit gate from a decision on (12, R358, R361 to R371, R379, R380), HOST_ABORT, re-sharding (R374 to
R376) and checkpoints (R377 to R379). -/

namespace Sys2Proof.Machine

/-! Taking a decision -/

/-- R360: the decision of an action to apply now: this root's own, or one that has arrived; with the sender of the
latter; the root reads ABORT_KEEP_ACCUM now (R366). A packet for another step or attempt, or from a lost device, is dropped; one already applied is only
acknowledged. -/
def State.takeDecision (s : State) (action : Nat) : Option (DecRec × Option Nat) × State :=
  match s.cke.decided with
  | some d =>
    if d.action = action then
      (some ({ d with discard := action = 2 && !s.keepAccum d.reason.toNat }, none), { s with cke.decided := none })
    else (none, s)
  | none =>
    match s.takeInbox fun p => p.ptype = 0x23 && p.dst = s.fab.devid && (decOf p.payload).action = action with
    | none => (none, s)
    | some (p, s1) =>
      let d := decOf p.payload
      if s1.fromLost p then (none, s1)
      else if s1.cke.applied = some (d.step, d.attempt) then (none, s1.sendCke 0x27 p.src [])
      else if !s1.attemptOpen || d.step ≠ s1.cke.c + 1 || d.attempt ≠ s1.cke.attempt then (none, s1)
      else (some (d, some p.src), s1)

/-- R370: a device joins the lost set. -/
def State.addLost (s : State) (dev : Nat) : State :=
  if s.isLost dev then s
  else { s with
    cke.lost := sset false s.cke.lost dev true
    cke.lostCount := satAdd 32 s.cke.lostCount 1 }.raise 0x0B03 .d 0 (devPayload dev 0 0)

/-- Halts the job with a record of the gate. -/
def State.gateHalt (s : State) (code payload : Nat) (st : CkeState) : State :=
  ({ s with cke.st := st }.raiseHalting code .d 0 payload).haltJob code

/-- R399: a suspend that waited for the exchange takes effect at the flip or abort. -/
def State.suspendNow (s : State) : State :=
  if s.hub.jobState = .suspending then s.jobCores.foldl (fun t c => t.modCore c haltCore) s else s

/-- R358, R371, R403: a decision is forwarded to the wards, acknowledged to its sender, and applied by `f`, unless this
device is itself in its LOST list; vector 8 is raised. -/
def applyDecision (action : Nat) (f : State → DecRec → State) (s : State) : State :=
  match s.takeDecision action with
  | (none, s1) => s1
  | (some (d, src), s1) =>
    let s2 := { s1.sendCkeAll 0x23 s1.wards d.bytes with cke.sentDec := some d, cke.resend := s1.wards }
    let s3 := match src with
      | some x => s2.sendCke 0x27 x []
      | none => s2
    let s4 := { s3 with
      cke.applied := some (d.step, d.attempt)
      cke.lastAction := action
      cke.lastAttempt := d.attempt
      cke.lastReason := d.reason.toNat % 2 ^ 14 }
    let s5 := if d.lost.contains s4.fab.devid then
        let ent := ((d.mis.find? fun m => fld m 20 14 = s4.fab.devid).map fun m => m % 2 ^ 20).getD 0
        s4.gateHalt 0x0B04 (devPayload s4.fab.devid 0 ent) .halted
      else f s4 d
    s5.raiseVec 8

/-- DECISION_ACK (R358). -/
def execDecisionAck (s : State) : Answer :=
  match s.takeCke 0x27 with
  | none => .next s
  | some (p, gone, s1) => .next (if gone then s1 else { s1 with cke.resend := s1.cke.resend.erase p.src })

/-- DECISION_RESEND (R358): the decision goes again to each child that has not acknowledged it. -/
def execDecisionResend (s : State) : Answer :=
  match s.cke.sentDec with
  | none => .next s
  | some d => .next (s.cke.resend.foldl (fun t x =>
      t.sendPacket (mkPacket 0x23 x 368 0 (d.step % 65536 + d.attempt <<< 16) 0 d.bytes)) s)

/-! COMMIT -/

/-- R172: the step seed of a core. -/
def State.stepSeed (s : State) (core k : Nat) : Word64 :=
  BitVec.ofNat 64 (ctrg s.baseSeed.toNat (core + 0xFF <<< 32) k)

/-- R172: loads the seeds of a step. -/
def State.loadSeeds (s : State) (k : Nat) : State :=
  s.jobCores.foldl (fun t c => t.modCore c fun x => { x with v.seed := t.stepSeed c.val k }) s

/-- R365: hub flags 64 to 1,023 as they stand. -/
def State.upperFlags (s : State) : SMap Word32 := s.hub.flags.filter fun p => decide (64 ≤ p.1)

/-- R361: what COMMIT does for step k, in its order; then the next step's first attempt begins. -/
def commitStep (s : State) (d : DecRec) : State :=
  let k := s.cke.c + 1
  let s1 := d.lost.foldl State.addLost s
  let s2 := { s1 with cke.c := k }.closeExchange true false
  let stride := (s.cke.att.map.map fun m => m.stride).getD 0
  let n := fld s.cke.gateCtl.toNat 14 8
  let s3 := if s.cke.gateCtl.getLsbD 13 then
      s2.jobCores.foldl (fun t c => t.modCore c fun x => x.setParam n (BitVec.ofNat 64 (k % 2 * stride))) s2
    else s2
  let s4 := (s3.loadSeeds (k + 1)).latchCounters k d.attempt 1
  let s5 := { s4 with
    cke.ckptStep := d.ckStep % 2 ^ 56
    cke.ckptGen := d.ckGen }.addHubFlag 0 1
  let s6 := { s5 with
    cores := s5.cores.map fun (x : Core) => { x with q.snap := none }
    cke.flipFlags := s5.upperFlags
    cke.firstUpdate := true
    err.ckWin := (0 :: s5.err.ckWin).take 2049 }
  (s6.beginAttempt 0 false []).suspendNow

/-- COMMIT (R361). -/
def execCommit (s : State) : Answer := .next (afterSnoop s (applyDecision 1 commitStep s))

/-! ABORT -/

/-- R363: one block of a shard: copies of step k become invalid, and its image is rewritten from the current copy. -/
def undoBlock (die : Nat) (d : SDesc) (k : Nat) (s0 : State) (b : Nat) : State :=
  let s := s0.readHeaders die d b
  let hit := fun i => s.wstep d i b = k
  let mark := fun (t : State) i => if hit i then t.pueNum die (pl d.hdr i + 16 * b) 8 wstepInvalid else t
  let s1 := mark (mark s 0) 1
  if !(hit 0 || hit 1) then s
  else match s1.curCopy d b with
    | none => s1
    | some cur =>
      let s2 := s1.pueReads die [(pl d.mst cur + 128 * b, 128)]
      s2.pueWrite die (d.img + imgBytes d.imgfmt * b) (imgStore d.imgfmt (s2.fpBlock (pl d.mst cur + 128 * b)))

/-- R373: the die whose PUE serves a shard. -/
def State.dieOf (s : State) (d : SDesc) : Nat := if s.onDie d 0 then 0 else 1

/-- R363: every shard of the gate's map that this device owns or shadows. -/
def State.undoStep (s : State) (k : Nat) : State :=
  (((s.cke.att.map.map fun m => m.ents).getD []).filter s.holdsEnt).foldl (fun t0 e =>
    let t := t0.readsDescs 0x83 [e]
    let d := t.readSDesc e.sdesc
    (List.range d.nblk).foldl (undoBlock (t.dieOf d) d k) t) s

/-- R363 to R366: what ABORT does for step k, in its order. -/
def abortStep (s : State) (d : DecRec) : State :=
  let k := s.cke.c + 1
  let s1 := (d.lost.foldl State.addLost s).undoStep k
  let s2 := s1.closeExchange false (!d.discard)
  let s3 := ((s2.loadSeeds k).latchCounters k d.attempt 2).addHubFlag 16 1
  let s4 := { s3 with cke.aborts := satAdd 32 s3.cke.aborts 1, cke.firstUpdate := true }
  let pay := devPayload s.fab.devid 0 0 + d.reason.toNat <<< 96
  if s4.cke.gateCtl.getLsbD 11 then
    let s5 := { s4.raise 0x0B01 .d 0 pay with cke.st := .applying, cke.rewinding := true }
    (s5.jobCores.foldl (fun t c => t.modCore c haltCore) s5).settleRewind
  else s4.gateHalt 0x0B01 pay .halted

/-- ABORT (R363). -/
def execAbortStep (s : State) : Answer := .next (afterSnoop s (applyDecision 2 abortStep s))

/-! RETRY_UPDATE -/

/-- R367: the map entries a RETRY_UPDATE lists. -/
def State.listed (s : State) (d : DecRec) : List Nat :=
  let n := (s.cke.att.map.map fun m => m.ents.length).getD 0
  if d.allShards then List.range n else (d.mis.map fun m => m % 2 ^ 20).dedup.filter fun i => decide (i < n)

/-- R367: a PUE goes over one shard again, for the owner or the buddy, and reports it. -/
def rerunShard (s0 : State) (e : MapEnt) : State :=
  match s0.cke.table with
  | none => s0
  | some t =>
    let s1 := s0.readsDescs 0x83 [e]
    let d := s1.readSDesc e.sdesc
    let die := s1.dieOf d
    let s := s1.pueReads die [(t.status, 64 * t.groups.length)]
    let k := s.cke.c + 1
    let core := (s.jobCores.head?.map fun c => c.val).getD 0
    let a := s.runShard die ⟨core, k, t, [], [], false, 0, none, s.startSums t k 24, s.startSums t k 28⟩ d d.nblk
    if a.fin = .go then finishShard ((a.st.noteNonfinite die a.call e.shard).flushSums die a.call) die a.call e d
    else (a.st.raiseHalting a.fin.fault.1 .d die (cmdPayload 0 0 core 0x0B 0x20 a.call.block a.fin.fault.2)).haltJob a.fin.fault.1

/-- R367: what RETRY_UPDATE does. -/
def retryStep (s : State) (d : DecRec) : State :=
  let ix := s.listed d
  let ents := ix.filterMap fun i => s.cke.att.map.bind fun m => m.ents[i]?
  let keys := ents.map fun e => (e.bucket, e.shard)
  let m0 := d.mis.headD 0
  let s1 := ((d.lost.foldl State.addLost s).addHubFlag 17 1).raise 0x0B02 .k 0
    (devPayload (if d.allShards then 0 else fld m0 20 14) 0 (if d.allShards then 0 else m0 % 2 ^ 20))
  let s2 := { s1 with
    cke.retryUpdates := satAdd 32 s1.cke.retryUpdates 1
    cle.staged := s1.cle.staged.filter fun x => !keys.contains x
    cle.accepted := s1.cle.accepted.filter fun a => !(a.1 && keys.contains (a.2.2.1, a.2.2.2.1))
    cle.streams := s1.cle.streams.filter fun x => !(x.gather && keys.contains (x.bucket, x.shard)) }
  let s3 := s2.beginAttempt (d.attempt + 1) true (keys.filter fun k =>
    (s2.cle.buckets[k.1]?).any fun b => decide (0 < b.len k.2))
  (ents.filter s3.holdsEnt).foldl rerunShard s3

/-- RETRY_UPDATE (R367). -/
def execRetryUpdate (s : State) : Answer := .next (afterSnoop s (applyDecision 3 retryStep s))

/-! HALT and HOST_ABORT -/

/-- HALT (R380). -/
def execHaltAll (s : State) : Answer :=
  .next (applyDecision 5 (fun t d =>
    (d.lost.foldl State.addLost t).gateHalt 0x0B07 (devPayload t.fab.devid 0 0) .halted) s)

/-- R383: a write of CKE_CTL; ABORT sets HOST_ABORT in the running step's health word. -/
def State.ckeCtlWrite (s : State) (w : Word32) : State :=
  let (v, s1) := s.lockedWrite (s.cke.st ≠ .idle) 0xF7F5 0x07F5 s.cke.ctl w 0x600000
  let s2 := { s1 with cke.ctl := v }
  if w.getLsbD 1 then s2.setHealth 8 else s2

/-- HOST_ABORT (R349). -/
def execHostAbort (w : Word32) (s : State) : Answer := s.onBar fun t => t.ckeCtlWrite w

/-! Puts of the hub's routines -/

/-- R269: bytes cut into pieces that each fill one WR of at most 4,096 bytes, or lie within one line. -/
def cutPut : Nat → Nat → List Byte → List (Nat × List Byte)
  | 0, _, _ => []
  | n + 1, a, bs =>
    if bs.isEmpty then []
    else
      let len := if a % 64 ≠ 0 || bs.length < 64 then min bs.length (64 - a % 64) else min 4096 (bs.length / 64 * 64)
      (a, bs.take len) :: cutPut n (a + len) (bs.drop len)

/-- Bytes for a device at an address, as pieces. -/
def putsOf (dev a : Nat) (bs : List Byte) : List (Nat × Nat × List Byte) :=
  (cutPut (bs.length + 1) a bs).map fun x => (dev, x.1, x.2)

/-- The request of a piece. -/
def putPacket (dev tag a : Nat) (bs : List Byte) : Packet :=
  if a % 64 = 0 ∧ bs.length % 64 = 0 then mkPacket 0x01 dev bs.length tag a 0 bs
  else mkPacket 0x02 dev 64 tag (a / 64 * 64) (((2 ^ bs.length) - 1) <<< (a % 64))
    (List.replicate (a % 64) 0 ++ bs ++ List.replicate (64 - a % 64 - bs.length) 0)

/-- R219: sends one piece if the calling core has a free tag, else it is left over. -/
def putPiece (core : CoreId) (o : ReqOwner) (acc : List (Nat × Nat × List Byte) × State) (x : Nat × Nat × List Byte) :
    List (Nat × Nat × List Byte) × State :=
  match acc.2.freeTag core with
  | none => (acc.1 ++ [x], acc.2)
  | some t => (acc.1, acc.2.request (putPacket x.1 (core.val * 4096 + t) x.2.1 x.2.2) o)

/-- R219: sends pieces while the calling core has free tags: what is left, and the state. -/
def issuePuts (core : CoreId) (o : ReqOwner) (todo : List (Nat × Nat × List Byte)) (s : State) :
    List (Nat × Nat × List Byte) × State :=
  todo.foldl (putPiece core o) ([], s)

/-- Are requests of an owner outstanding? -/
def State.owes (s : State) (o : ReqOwner) : Bool := s.fab.reqs.any fun r => r.owner = o

/-! RESHARD -/

/-- A byte range less another one. -/
def rangeLess (r x : Nat × Nat) : List (Nat × Nat) :=
  [(r.1, min r.2 x.1), (max r.1 x.2, r.2)].filter fun y => decide (y.1 < y.2)

/-- What has still to arrive of the expected ranges. -/
def stillDue (due : List (Nat × Nat × Nat)) (arrived : List (Nat × Nat)) : List (Nat × Nat × Nat) :=
  arrived.foldl (fun d x => d.flatMap fun (e, lo, hi) => (rangeLess (lo, hi) x).map fun y => (e, y.1, y.2)) due

/-- R374: sends what can be sent; the call ends when its puts are acknowledged and everything has arrived. -/
def State.settleReshard (s : State) : State :=
  match s.cke.reshard with
  | none => s
  | some r =>
    let (todo, s1) := issuePuts (coreNo r.core) .reshard r.todo s
    let due := stillDue r.expect s1.cke.arrived
    if todo.isEmpty && due.isEmpty && !s1.owes .reshard then
      ({ s1 with cke.reshard := none, cke.arrived := [] }.addHubFlag 18 1).finishCall (coreNo r.core)
    else { s1 with cke.reshard := some { r with todo := todo, expect := due } }

/-- R375: the cut points of a destination entry by the source entries. -/
def cutPoints (src : List MapEnt) (e : MapEnt) : List Nat :=
  let hi := e.loff + e.bytes
  let xs := (src.flatMap fun x => [x.loff, x.loff + x.bytes]).filter fun y => decide (e.loff < y) && decide (y < hi)
  ((e.loff :: xs ++ [hi]).insertionSort (· ≤ ·)).dedup

/-- R375: the moves of a placement: sender, its address, receiver, its address, length. -/
def State.placeMoves (s : State) (src dst : List MapEnt) : List (Nat × Nat × Nat × Nat × Nat) :=
  dst.flatMap fun e =>
    let cs := cutPoints src e
    (cs.zip (cs.drop 1)).filterMap fun (lo, hi) =>
      (src.find? fun x => decide (x.loff ≤ lo) && decide (hi ≤ x.loff + x.bytes) && !s.isLost x.owner).map fun x =>
        (x.owner, x.dst + (lo - x.loff), e.owner, e.dst + (lo - e.loff), hi - lo)

/-- R375: is every byte of every destination entry in some source entry? -/
def placeCovered (src dst : List MapEnt) : Bool :=
  dst.all fun e =>
    let cs := cutPoints src e
    (cs.zip (cs.drop 1)).all fun (lo, hi) => src.any fun x => decide (x.loff ≤ lo) && decide (hi ≤ x.loff + x.bytes)

/-- R376: the byte ranges of a shard's state: both header copies, every plane of both copies, the tile states, the
image. -/
def SDesc.ranges (d : SDesc) : List (Nat × Nat) :=
  let both := fun (xs : List Nat) (n : Nat) => if pl xs 0 = 0 && pl xs 1 = 0 then [] else [(pl xs 0, n), (pl xs 1, n)]
  [(pl d.hdr 0, 16 * d.nblk), (pl d.hdr 1, 16 * d.nblk), (pl d.mst 0, 128 * d.nblk), (pl d.mst 1, 128 * d.nblk)]
    ++ both d.m1 (momBytes d.momfmt * d.nblk) ++ both d.m2 (momBytes d.momfmt * d.nblk)
    ++ both d.pre (tileSize * (d.nblk / 512)) ++ [(d.img, imgBytes d.imgfmt * d.nblk)]

/-- R376: the moves of shards to new role holders: the entry's SDESC, sender, receiver, address, length. -/
def State.shardMoves (s : State) (src dst : List MapEnt) : List (Nat × Nat × Nat × Nat × Nat) :=
  dst.flatMap fun e =>
    match src.find? fun x => x.bucket = e.bucket && x.shard = e.shard with
    | none => []
    | some x =>
      let sender := if s.isLost x.owner then x.buddy else some x.owner
      let roles := ([e.owner] ++ e.buddy.toList).filter fun d => d ≠ x.owner && x.buddy ≠ some d && !s.isLost d
      match sender with
      | none => []
      | some y => if s.isLost y then []
        else roles.flatMap fun d => (s.readSDesc e.sdesc).ranges.map fun r => (e.sdesc, y, d, r.1, r.2)

/-- RESHARD (R374 to R376). -/
def execReshard (core : CoreId) (s0 : State) : Answer :=
  match s0.callOf core 0x30 with
  | none => .next s0
  | some ci =>
    if s0.cke.reshard.isSome then .next s0
    else
      let a := pbNum ci.pb 0x10 8
      let b := pbNum ci.pb 0x18 8
      let share := pbNum ci.pb 0x20 1
      let sm := (s0.readsMap 0x83 a).readsMap 0x83 b
      let s := if (sm.readMap b).kind = 0 then sm.readsDescs 0x83 (sm.readMap b).ents else sm
      let ma := s.readMap a
      let mb := s.readMap b
      if s.mapBad a || s.mapBad b || ma.kind ≠ mb.kind || decide (100 < share)
          || (ma.kind = 1 && !placeCovered ma.ents mb.ents) then .next (s.callFault core ci 0x030F core.val noPos)
      else
        let me := s.fab.devid
        let moves : List (Nat × Nat × Nat × Nat × Nat × Nat) :=
          if ma.kind = 1 then (s.placeMoves ma.ents mb.ents).map fun (x, xa, y, ya, n) => (0, x, xa, y, ya, n)
          else (s.shardMoves ma.ents mb.ents).map fun (e, x, y, ad, n) => (e, x, ad, y, ad, n)
        let live := moves.filter fun (_, x, _, y, _, _) => !s.isLost x && !s.isLost y
        let out := live.filter fun (_, x, _, y, _, _) => x = me && y ≠ me
        let here := live.filter fun (_, x, _, y, _, _) => x = me && y = me
        let inn := live.filter fun (_, x, _, y, _, _) => x ≠ me && y = me
        let sr := s.engineReads 0x83 ((out ++ here).map fun (_, _, xa, _, _, n) => (xa, n))
        let s1 := here.foldl (fun (t : State) (_, _, xa, _, ya, n) => t.agentWrite ya 0x83 (sr.bytesAt xa n)) sr
        let r : ReshardRun := ⟨core.val, out.flatMap fun (_, _, xa, y, ya, n) => putsOf y ya (sr.bytesAt xa n),
          inn.map fun (e, _, _, _, ya, n) => (e, ya, ya + n)⟩
        .next (afterSnoop s0 ({ s1 with cke.reshard := some r }.settleReshard))

/-! CKPT -/

/-- R377: the ranges a checkpoint slot holds behind its header: the copy of each block that is current, plane by plane, the
current tile states, and for the first entry (`last`) the running statistics and the step record. -/
def State.slotRanges (s : State) (d : SDesc) (last : Bool) : List (Nat × Nat) :=
  let used := fun (xs : List Nat) => pl xs 0 != 0 || pl xs 1 != 0
  let plane := fun (xs : List Nat) (n : Nat) =>
    if used xs then (List.range d.nblk).map fun b => (pl xs ((s.curCopy d b).getD 0) + n * b, n) else []
  let tiles := if used d.pre then (List.range (d.nblk / 512)).map fun t => (tileAddr d ((s.curTile d t).getD 0) t, tileSize) else []
  let stat := match last, s.cke.table with
    | true, some t =>
      let j := (pickCopy (s.numAt t.steprec0 8) (s.numAt t.steprec1 8) s.cke.c).getD 0
      [(if j = 0 then t.rstat0 else t.rstat1, t.rstatLen), (if j = 0 then t.steprec0 else t.steprec1, 64)]
    | _, _ => []
  plane d.hdr 16 ++ plane d.mst 128 ++ plane d.m1 (momBytes d.momfmt) ++ plane d.m2 (momBytes d.momfmt) ++ tiles ++ stat

/-- R377: the bytes of a checkpoint slot from its header on, COMPLETE as given. -/
def State.slotBytes (s : State) (d : SDesc) (step gen : Nat) (complete last : Bool) : List Byte :=
  leBytes 8 step ++ leBytes 1 gen ++ leBytes 1 (b2n complete) ++ leBytes 2 0 ++ leBytes 4 d.nblk ++ leBytes 48 0
    ++ (s.slotRanges d last).flatMap fun r => s.bytesAt r.1 r.2

/-- R377: the bytes a slot of a shard holds. -/
def State.slotLen (s : State) (d : SDesc) (last : Bool) : Nat :=
  let opt := fun (xs : List Nat) (n : Nat) => if pl xs 0 = 0 && pl xs 1 = 0 then 0 else n
  64 + 144 * d.nblk + opt d.m1 (momBytes d.momfmt * d.nblk) + opt d.m2 (momBytes d.momfmt * d.nblk)
    + opt d.pre (tileSize * (d.nblk / 512))
    + (match last, s.cke.table with
      | true, some t => t.rstatLen + 64
      | _, _ => 0)

/-- R377: the CKE reads what the slots of entries hold: what tells the current copies, then the copies. -/
def State.readsSlots (s : State) (es : List MapEnt) : State :=
  let ds := es.map fun e => s.readSDesc e.sdesc
  let s1 := s.engineReads 0x83 ((ds.flatMap fun d =>
      [(pl d.hdr 0, 16 * d.nblk), (pl d.hdr 1, 16 * d.nblk)]
        ++ if pl d.pre 0 = 0 ∧ pl d.pre 1 = 0 then []
          else (List.range (d.nblk / 512)).flatMap fun t => [(tileAddr d 0 t, 8), (tileAddr d 1 t, 8)])
    ++ match s.cke.table with
      | some t => [(t.steprec0, 8), (t.steprec1, 8)]
      | none => [])
  s1.engineReads 0x83 (ds.zipIdx.flatMap fun x => s1.slotRanges x.1 (x.2 = 0))

/-- R377: the address of a generation's slot. -/
def ShardMap.slotAddr (m : ShardMap) (e : MapEnt) (gen : Nat) : Nat := e.ckaddr + gen % max 1 m.ckNgen * m.ckBytes

/-- R377: sends what can be sent; the slot headers with COMPLETE follow once the rest is acknowledged; then the call
ends and the generation is this device's newest complete one. -/
def State.settleCkpt (s : State) : State :=
  match s.cke.ckpt with
  | none => s
  | some r =>
    let core := coreNo r.core
    let (todo, s1) := issuePuts core .ckpt r.todo s
    if !todo.isEmpty || s1.owes .ckpt then { s1 with cke.ckpt := some { r with todo := todo } }
    else if !r.last && !r.headers.isEmpty then
      let (rest, s2) := issuePuts core .ckpt r.headers s1
      { s2 with cke.ckpt := some { r with todo := rest, headers := [], last := true } }
    else
      let s2 := { s1 with cke.ckpt := none, cke.ownGen := some (r.c, r.gen) }
      (s2.addHubFlag 19 1).finishCall core

/-- CKPT (R377): the slots of every entry this device owns are read as they stand at the committed step and written. -/
def execCkpt (core : CoreId) (s0 : State) : Answer :=
  match s0.callOf core 0x31 with
  | none => .next s0
  | some ci =>
    if s0.cke.ckpt.isSome then .next s0
    else
      let a := pbNum ci.pb 0x10 8
      let target := pbNum ci.pb 0x18 1
      let gen := pbNum ci.pb 0x19 1
      let sm := s0.readsMap 0x83 a
      let m := sm.readMap a
      let own := m.ents.filter sm.ownsEnt
      let sd := if m.kind = 0 then sm.readsDescs 0x83 own else sm
      let lens := own.zipIdx.map fun (e, i) => sd.slotLen (sd.readSDesc e.sdesc) (i = 0)
      if sd.mapBad a || m.kind ≠ 0 || decide (1 < target) || own.any (fun e => sd.sdescBad e.sdesc || e.ckh.isNone
          || (decide (tier2Base ≤ e.ckaddr) != (target = 1))) || lens.any (fun n => decide (m.ckBytes < n)) then
        .next (sd.callFault core ci 0x030F core.val noPos)
      else
        let s := sd.readsSlots own
        let slots := own.zipIdx.map fun (e, i) => (e, s.slotBytes (s.readSDesc e.sdesc) s.cke.c gen false (i = 0))
        let r : CkptRun := ⟨core.val, s.cke.c, gen,
          slots.flatMap fun x => putsOf (x.1.ckh.getD 0) (m.slotAddr x.1 gen) x.2,
          slots.flatMap fun x => putsOf (x.1.ckh.getD 0) (m.slotAddr x.1 gen)
            (x.2.take 9 ++ leBytes 1 1 ++ (x.2.drop 10).take 54), false⟩
        .next ({ s with cke.ckpt := some r }.settleCkpt)

/-! ROLLBACK -/

/-- R379: CKE_RESTORE_FAIL: the job halts with c unchanged. -/
def State.restoreFail (s : State) : State :=
  { s with cke.restore := none }.gateHalt 0x0B06 (devPayload s.fab.devid 0 0) .halted

/-- Asks for the next pieces of the slots, while tags are free. -/
def askSlots : Nat → State → State
  | 0, s => s
  | n + 1, s =>
    match s.cke.restore with
    | none => s
    | some r =>
      match r.slots.findIdx? fun x => decide (x.next < x.len), s.hubTag with
      | some i, some t =>
        match r.slots[i]? with
        | none => s
        | some x =>
          let len := min 4096 ((x.len - x.next + 63) / 64 * 64)
          let slots := r.slots.set i { x with next := x.next + len }
          askSlots n ({ s with cke.restore := some { r with slots := slots } }.request
            (mkPacket 0x03 x.dev len t (x.addr + x.next) 0 []) (.restore i x.next))
      | _, _ => s

/-- R379: writes a slot's block copies into copy 0, marks copy 1 invalid, and rebuilds the image; the tile states go to
copy 0 too. -/
def restoreSlot (s : State) (d : SDesc) (bs : List Byte) : State :=
  let n := d.nblk
  let mb := momBytes d.momfmt
  let put := fun (t : State) (a : Nat) (xs : List Byte) => t.agentWrite a 0x83 xs
  let has := fun (xs : List Nat) => !(pl xs 0 = 0 && pl xs 1 = 0)
  let o1 := 64 + 16 * n
  let o2 := o1 + 128 * n
  let o3 := o2 + (if has d.m1 then mb * n else 0)
  let o4 := o3 + (if has d.m2 then mb * n else 0)
  let part := fun o k => (bs.drop o).take k
  let s1 := put (put s (pl d.hdr 0) (part 64 (16 * n))) (pl d.mst 0) (part o1 (128 * n))
  let s2 := if has d.m1 then put s1 (pl d.m1 0) (part o2 (mb * n)) else s1
  let s3 := if has d.m2 then put s2 (pl d.m2 0) (part o3 (mb * n)) else s2
  let s4 := if has d.pre then
      (List.range (n / 512)).foldl (fun t i =>
        put (put t (tileAddr d 0 i) (part (o4 + tileSize * i) tileSize)) (tileAddr d 1 i) (leBytes 8 wstepInvalid)) s3
    else s3
  (List.range n).foldl (fun t b =>
    put (put t (pl d.hdr 1 + 16 * b) (leBytes 8 wstepInvalid)) (d.img + imgBytes d.imgfmt * b)
      (imgStore d.imgfmt (t.fpBlock (pl d.mst 0 + 128 * b)))) s4

/-- R379: a restored shard's sample entry: ZERO_NEXT 1, CARRY 0. -/
def clearSample (s0 : State) (d : SDesc) : State :=
  let s := s0.engineReads 0x83 [(d.smp, 16)]
  s.agentNum d.smp 0x83 16 (setFld (setFld (s.numAt d.smp 16) 0 32 0) 63 1 1)

/-- R379: the running statistics and the step record of a restored generation. -/
def restoreStat (s : State) (bs : List Byte) : State :=
  match s.cke.table with
  | none => s
  | some t =>
    let rs := bs.take t.rstatLen
    (((s.agentWrite t.rstatWork 0x83 rs).agentWrite t.rstat0 0x83 rs).agentWrite t.steprec0 0x83
      ((bs.drop t.rstatLen).take 64)).agentNum t.steprec1 0x83 8 wstepInvalid

/-- R379: what one slot of a generation restores; the first one may carry the running statistics. -/
def restoreOne (t : State) (ent : Option MapEnt) (bs : List Byte) (first : Bool) : State :=
  match ent with
  | none => t
  | some e =>
    let d := t.readSDesc e.sdesc
    let n := t.slotLen d false
    let t1 := clearSample (restoreSlot t d bs) d
    if first && decide (n < bs.length) then restoreStat t1 (bs.drop n) else t1

/-- R379: every slot is here: the blocks, the images, the running statistics and the step record are restored, the
sample entries of the open exchange get ZERO_NEXT 1 and CARRY 0, and c becomes the generation's STEP. -/
def State.finishRestore (s : State) (r : RestoreRun) : State :=
  let m := s.cke.att.map
  let ent := fun (x : SlotRead) => m.bind fun y => y.ents[x.ent]?
  let bytes := fun (x : SlotRead) => (x.got.insertionSort fun p q => p.1 ≤ q.1).flatMap Prod.snd
  let good := r.slots.all fun x =>
    let bs := bytes x
    lenum bs 9 1 = 1 && lenum bs 8 1 = r.dec.ckGen && lenum bs 0 8 % 2 ^ 56 = r.dec.ckStep % 2 ^ 56
  if !good then s.restoreFail
  else
    let s1 := r.slots.zipIdx.foldl (fun t x => restoreOne t (ent x.1) (bytes x.1) (x.2 = 0)) s
    let s2 := (s1.closeExchange false false).addHubFlag 20 1
    { s2 with cke.c := r.dec.ckStep, cke.restore := none }.gateHalt 0x0B05 (devPayload s.fab.devid 0 0) .halted

/-- R379: finishes once every slot is whole. -/
def State.settleRestore (s : State) : State :=
  match s.cke.restore with
  | none => s
  | some r =>
    if r.slots.all fun x => decide (x.len ≤ (x.got.map fun p => p.2.length).sum) then s.finishRestore r
    else askSlots 4096 s

/-- R379: a piece of a slot arrives; poisoned or refused data cannot restore. -/
def State.restorePiece (s : State) (slot off : Nat) (bs : List Byte) (bad : Bool) : State :=
  match s.cke.restore with
  | none => s
  | some r =>
    if bad then s.restoreFail
    else
      let slots := r.slots.zipIdx.map fun (x, i) => if i = slot then { x with got := x.got ++ [(off, bs)] } else x
      { s with cke.restore := some { r with slots := slots } }.settleRestore

/-- R379: what ROLLBACK does: the generation's slots of every entry this device owns or shadows after promotion are
read from their holders. -/
def rollbackStep (s : State) (d : DecRec) : State :=
  let k := s.cke.c + 1
  let s1 := (d.lost.foldl State.addLost s).latchCounters k d.attempt 4
  let s2 := { s1 with cke.rollbacks := satAdd 32 s1.cke.rollbacks 1, cke.st := .restoring }
  match s2.cke.att.map with
  | none => s2.restoreFail
  | some m =>
    let mine := m.ents.zipIdx.filter fun x => s2.holdsEnt x.1
    let first := (m.ents.zipIdx.find? fun x => s2.ownsEnt x.1).map Prod.snd
    if mine.any (fun x => match x.1.ckh with
        | some h => s2.isLost h
        | none => true) then s2.restoreFail
    else
      let slots := (mine.insertionSort fun (x y : MapEnt × Nat) => some x.2 = first ∨ (some y.2 ≠ first ∧ x.2 ≤ y.2)).map fun (e, i) =>
        (⟨i, e.ckh.getD 0, m.slotAddr e d.ckGen, s2.slotLen (s2.readSDesc e.sdesc) (some i = first), 0, []⟩ : SlotRead)
      { s2 with cke.restore := some ⟨d, slots⟩ }.settleRestore

/-- ROLLBACK (R379). -/
def execRollback (s : State) : Answer := .next (afterSnoop s (applyDecision 4 rollbackStep s))

end Sys2Proof.Machine
end

