-- ==== Sys2Proof/Machine/Complete.lean ====
section
/-! DEFINITION. Completion of engine commands (R62, R71, R73, R162). -/

namespace Sys2Proof.Machine

/-- R62: has a started MXU command written its last row? -/
def mxuFinished (r : MxuRun) : Bool := (List.range 4).all fun q => r.left q = 0

/-- R62, R215: has a started mover command made its last access visible: issued, nothing left to ask for, and every
request answered? -/
def tmvFinished (s : State) (c : CoreId) (r : TmvRun) : Bool :=
  r.issued && r.todo.isEmpty && !(s.fab.reqs.any fun q => decide (q.owner = .mover c.val r.cmd.id))

/-- The command number `which` among those an engine has started, if it may complete. -/
def completable (s : State) (c : CoreId) (e : Engine) (which : Nat) : Option EngCmd :=
  let k := s.core c
  match e with
  | .mxu => (k.m.run[which]?).bind fun r => if mxuFinished r then some r.cmd else none
  | .vce => k.v.run[which]?
  | .tmv => (k.t.run[which]?).bind fun r => if tmvFinished s c r then some r.cmd else none
  | .hub => (k.t.hubRun[which]?).bind fun r => if r.done then some r.cmd else none

/-- R162: a lookup bank becomes active as its load completes. -/
def swapBank (k : Core) (x : EngCmd) : Core :=
  if x.opc = 0x32 && tblSwaps x.imm then { k with v.lutActive := x.bank, v.lutGen := (k.v.lutGen + 1) % 16 } else k

/-- A command leaves its engine. -/
def leaveEngine (k : Core) (e : Engine) (id : Nat) : Core :=
  match e with
  | .mxu => { k with m.run := k.m.run.filter (·.cmd.id ≠ id) }
  | .vce => { k with v.run := k.v.run.filter (·.id ≠ id) }
  | .tmv => { k with t.run := k.t.run.filter (·.cmd.id ≠ id) }
  | .hub => { k with t.hubRun := k.t.hubRun.filter (·.cmd.id ≠ id) }

/-- R502: the engine's last completed command. -/
def noteLast (k : Core) (e : Engine) (x : EngCmd) : Core :=
  let n := match e with
    | .mxu => 0 | .vce => 1 | .tmv => 2 | .hub => 3
  { k with pmu.last := sset SampCmd.none k.pmu.last n ⟨x.idx, x.pass, x.routine, x.shownOpc⟩ }

/-- R62: the command number `which` of those the engine has started completes: its scoreboard entries
are freed (R73), its handles have arrived (R71), its CSIG fires (R63), a finished table load swaps banks (R162), and a
FENCE that waited for it may complete (R82). -/
def commandComplete (core : CoreId) (engine : Engine) (which : Nat) (s : State) : State :=
  match completable s core engine which with
  | none => s
  | some x =>
    let s1 := s.modCore core fun k => noteLast (swapBank (leaveEngine k engine x.id) x) engine x
    settleFence (csigFire s1 core x.lo) core

end Sys2Proof.Machine
end

