-- ==== Sys2Proof/Machine/Mem.lean ====
section
/-! DEFINITION. Device memory and the host's access to it (08_memory_and_tier2.md; R385 to R389 of 13). -/

namespace Sys2Proof.Machine

/-- R228: the device address of line offset `t` of a logical stack. -/
def stackAddr (ns d n t : Nat) : Nat := die1Base * d + 512 * (ns * (t / 512) + n) + t % 512

/-- R235: the scrubber's next line offset; past the last line of a stack a pass is complete. -/
def DieMem.scrubNext (y : DieMem) : DieMem :=
  if y.scrubT + 64 < 0x900000000 then { y with scrubT := y.scrubT + 64 }
  else { y with scrubT := 0, passes := satAdd 32 y.passes 1 }

/-- R235: the scrubber reads the line at an offset of one stack. -/
def scrubLine (ns d x : Nat) (t : State) (n : Nat) : State := (t.touchLineAs 0x0707 (stackAddr ns d n x) 0x85).2

/-- SCRUB_READ (R235): with SCRUB_EN the die's scrubber reads the line at its next offset of every stack and handles it
under R232; past the last line a pass is complete (assumption 20). -/
def execScrubRead (die : Fin 2) (hits : List LineHit) (s0 : State) : Answer :=
  let s := s0.hitLines hits
  let x := s.mem.die die.val
  if x.ctl.getLsbD 0 && x.initDone && !x.offline then
    let s1 := (List.range s.ident.grade.stacks).foldl (scrubLine s.ident.grade.stacks die.val x.scrubT) s
    .next (s1.setDie die.val (s1.mem.die die.val).scrubNext)
  else .next s

/-- R240: distinct uncorrectable addresses of a stack within the last second (32,768 always-on counts). -/
def State.recentUe (s : State) (d n : Nat) : Nat :=
  ((s.mem.die d).ueRecent.filter fun p =>
    decide (s.stackOf p.1 = n) && decide ((s.pwr.aoTime - p.2).toNat < 32768)).length

/-- R240: a stack fails: the die's whole HBM goes offline and the die leaves service. -/
def State.failStack (s : State) (d n : Nat) : State :=
  let x := s.mem.die d
  let s1 := s.setDie d { x with failed := x.failed ||| 1 <<< n, offline := true }
  s1.loseDie d 0x0705 d (addrPayload 0 0 n)

/-- MEM_STACK_FAIL (R240): a present stack fails the training of a cold reset, or has returned uncorrectable reads at 64
distinct addresses within 1 s. -/
def execMemStackFail (die : Fin 2) (stack : Fin 10) (s : State) : Answer :=
  if stack.val < s.ident.grade.stacks ∧ (s.mem.die die.val).offline = false ∧ s.pwr.stagesOn
      ∧ ((s.mem.die die.val).initDone = false ∨ 64 ≤ s.recentUe die.val stack.val) then
    .next (s.failStack die.val stack.val)
  else .next s

/-- R240: the memory of a tier-2 port goes offline, and under INTLV the whole tier-2 region. -/
def State.t2Offline (s : State) (p cause : Nat) (link : Bool) : State :=
  let both := s.mem.interleaved
  let off := fun (t : SMap T2Port) (q : Nat) (c : Nat) (l : Bool) =>
    let x := sget T2Port.reset t q
    sset T2Port.reset t q { x with mapped := false, cause := c, linkUp := x.linkUp && l }
  let t1 := off s.mem.t2 p cause link
  let t2 := if both then
      (let y := sget T2Port.reset t1 (1 - p)
       sset T2Port.reset t1 (1 - p) { y with mapped := false })
    else t1
  ({ s with mem.t2 := t2 }).raise 0x0706 .d (2 + p) (addrPayload 0 0 p)

/-- T2_LINK_DOWN (R240): the link of a tier-2 port that was up goes down. -/
def execT2LinkDown (port : Fin 2) (s : State) : Answer :=
  if (s.mem.port port.val).linkUp then .next (s.t2Offline port.val 3 false) else .next s

/-- EXPANDER_FATAL (R240): a mapped expander reports a fatal device error. -/
def execExpanderFatal (port : Fin 2) (s : State) : Answer :=
  if (s.mem.port port.val).mapped then .next (s.t2Offline port.val 4 true) else .next s

/-- `n` of the numbers of a list, which ones a free value each says (assumption 55). -/
def pickFree (fresh : Nat) : Nat → List Nat → List Nat
  | 0, _ => []
  | n + 1, xs =>
    let i := Config.freeValue (fresh + n) % xs.length
    xs.getD i 0 :: pickFree fresh n (xs.eraseIdx i)

/-- R242: a line after one injection: one data symbol inverted, or six; a symbol inverted twice is as it was written. -/
def LineErr.inject (e : LineErr) (syms : List Nat) : LineErr :=
  { e with inv := syms.foldl (fun m i => m ^^^ 1 <<< i) e.inv, six := decide (syms.length = 6) && e.inv = 0 }

/-- R242: MEM_INJECT: with ARM the stored line named by both halves is damaged once, if it lies in this die's populated
HBM. -/
def State.memInject (s : State) (d : Nat) (w : RegWrite) : State :=
  if s.dieDown d then s
  else
  let x := s.mem.die d
  let v := mergeWrite x.injHeld w
  let s1 := s.setDie d { x with injHeld := v }
  let a := fld v.toNat 6 46 * 64
  if writesHigh w && v.getLsbD 53 && decide (s.place a = .hbm d) then
    let n := if v.getLsbD 52 then 6 else 1
    { s1.setLineErr a ((s.lineErr a).inject (pickFree s.fresh n (List.range 64))) with fresh := s.fresh + n }
  else s1

/-- MEM_INJECT (R242). -/
def execMemInject (die : Fin 2) (w : RegWrite) (s : State) : Answer := s.onBar fun t => t.memInject die.val w

/-! The host's accesses -/

/-- R236, R387: do both dies show INIT_DONE? -/
def State.memReady (s : State) : Bool := s.mem.die0.initDone && s.mem.die1.initDone

/-- The answer to a host read that gives no data: a poisoned line. -/
def State.answerPoison (s : State) (line : Nat) : State := s.emit (.memData line (List.replicate 64 0) true)

/-- R387: an access before INIT_DONE. -/
def State.noteNotReady (s : State) (a : Nat) : State := s.raise 0x0C03 .c 0 (addrPayload a 0 0)

/-- R385: the host holds a line it has read: the snoop filter lists it, and when the filter is full the entry that has
been resident longest is back-invalidated. -/
def State.fillSnoop (s : State) (line : Nat) : State :=
  if s.hub.snoop.contains line then s
  else
    let s1 := if s.hub.snoop.length < 262144 then s else match s.hub.snoop with
      | [] => s
      | l :: _ => s.sendBisnp l
    { s1 with hub.snoop := s1.hub.snoop ++ [line] }

/-- CXL_MEM_READ (R386, R387, R389, R484): the host reads a line of BAR2's range, keeping a copy if `cache`. Before the
HDM decoder commits, before INIT_DONE and while OFFLINE the answer is poisoned; a hole answers poisoned (R227); a
poisoned or uncorrectable line follows R232 and R234 with agent host. -/
def execCxlMemRead (line : BitVec 39) (cache : Bool) (hits : List LineHit) (s00 : State) : Answer :=
  let l := line.toNat
  let s := s00.hitLines hits
  if !s.hub.linkUp then .next s
  else
  let s := s.countHub 5 (maskBit 0) 1
  if !s.hub.hdmCommitted || s.err.offline then .next (s.answerPoison l)
  else if !s.memReady then .next ((s.noteNotReady (64 * l)).answerPoison l)
  else
    let (bad, s1) := s.touchLine (64 * l) 0
    let s2 := s1.emit (.memData l (s1.bytesAt (64 * l) 64) bad)
    .next (if cache && s.populated (64 * l) then s2.fillSnoop l else s2)

/-- CXL_MEM_WRITE (R227, R230, R233, R386 to R389): the host writes the bytes `mask` names; a full write without poison
clears the line's poison, one with poison leaves it poisoned. `keep`: the host still holds a copy afterwards. -/
def execCxlMemWrite (line : BitVec 39) (data : List Byte) (mask : Word64) (poison keep : Bool) (s : State) : Answer :=
  let l := line.toNat
  let a := 64 * l
  if !s.hub.linkUp then .next s
  else
  let s := s.countHub 5 (maskBit 1) 1
  if !s.hub.hdmCommitted || s.err.offline then .next s
  else if !s.memReady then .next (s.noteNotReady a)
  else
    let s2 := s.writeMasked 0 a data mask.toNat
    let s3 := if poison && s.populated a then s2.setPoison a true else s2
    .next (if keep || !s.populated a then s3 else { s3 with hub.snoop := s3.hub.snoop.erase l })

/-- BISNP_RESPONSE (R385): the host answers a back-invalidation; a write that waited for it may now come about. -/
def execBisnpResponse (line : BitVec 39) (s : State) : Answer :=
  .next { s with hub.bisnp := s.hub.bisnp.erase line.toNat }

/-- HOST_BISNP_TIMEOUT (R385): 10 ms pass without an answer. -/
def execHostBisnpTimeout (line : BitVec 39) (s : State) : Answer :=
  if s.hub.bisnp.contains line.toNat then .next (s.raise 0x0C04 .f 0 0) else .next s

end Sys2Proof.Machine
end

