-- ==== Sys2Proof/Machine/Jobs.lean ====
section
/-! DEFINITION. Job rings and completions (R393 to R396), the life of a job (R390 to R401), interrupt bindings (R404) and
the flags' registers (R96). -/

namespace Sys2Proof.Machine

/-! Completions -/

/-- A ring. -/
def State.ring (s : State) (q : Nat) : Ring := sget Ring.reset s.hub.rings q

/-- The state with a ring replaced. -/
def State.setRing (s : State) (q : Nat) (r : Ring) : State := { s with hub.rings := sset Ring.reset s.hub.rings q r }

/-- R393: the device line of a ring is written to host memory. -/
def State.writeDeviceLine (s : State) (q : Nat) : State :=
  let r := s.ring q
  (s.emit (.hostWrite (r.ctrl.toNat + 64) (leBytes 4 r.sqHead.toNat ++ leBytes 4 r.cqTail.toNat))).countHub 5 (maskBit 2) 1

/-- R396: may a completion be written to a ring now? -/
def State.cqRoom (s : State) (q : Nat) : Bool :=
  let r := s.ring q
  s.hub.linkUp && r.en && decide ((r.cqTail - r.cqHead).toNat < 2 ^ r.log2n)

/-- R396: writes a completion entry, then CQ_TAIL; with IRQ the ring's vector is raised (R403). -/
def State.writeCompletion (s : State) (x : Completion) : State :=
  let r := s.ring x.ring
  let n := r.cqTail.toNat
  let bs := leBytes 4 x.jobId ++ leBytes 1 x.op ++ leBytes 1 x.status ++ leBytes 1 (n / 2 ^ r.log2n % 2) ++ leBytes 1 0
    ++ leBytes 8 x.cookie ++ leBytes 8 x.step ++ leBytes 2 x.faultCode ++ leBytes 2 x.errIndex ++ leBytes 4 0
  let s1 := (s.emit (.hostWrite (r.cqBase.toNat + 32 * (n % 2 ^ r.log2n)) bs)).countHub 5 (maskBit 2) 1
  let s2 := (s1.setRing x.ring { r with cqTail := r.cqTail + 1 }).writeDeviceLine x.ring
  if x.irq then s2.raiseVec (4 + x.ring) else s2

/-- R396: a completion is written, or waits behind those of its ring. -/
def State.sendCompletion (s : State) (x : Completion) : State :=
  if s.cqRoom x.ring && !(s.hub.waitingCq.any fun y => y.ring = x.ring) then s.writeCompletion x
  else { s with hub.waitingCq := s.hub.waitingCq ++ [x] }

/-- R396: writes what the rings have room for, oldest first. -/
def State.flushCq (s : State) : State :=
  s.hub.waitingCq.foldl State.sendCompletion { s with hub.waitingCq := [] }

/-- R395: a NOP whose earlier entries are all handled is answered DONE. -/
def settleNops (q : Nat) : Nat → State → State
  | 0, s => s
  | n + 1, s =>
    let r := s.ring q
    match r.nops with
    | [] => s
    | x :: rest =>
      if r.unanswered.any fun i => decide (i < x.idx) then s
      else settleNops q n ((s.setRing q { r with nops := rest, unanswered := r.unanswered.erase x.idx }).sendCompletion
        ⟨q, x.idx, x.jobId, 5, 0, x.cookie, 0, 0, 0xFFFF, x.irq⟩)

/-- An entry of a ring is answered, accepted or refused (R395). -/
def State.entryDone (s : State) (q idx : Nat) : State :=
  let r := s.ring q
  settleNops q r.nops.length (s.setRing q { r with unanswered := r.unanswered.erase idx })

/-- An entry is answered with a completion. -/
def State.answerEntry (s : State) (x : Completion) : State := (s.sendCompletion x).entryDone x.ring x.idx

/-- R395, R396: an occurrence of class C whose record the completion names; a full queue leaves it without one. -/
def State.raiseAnswer (s : State) (code payload : Nat) (x : Completion) : State :=
  if s.err.queue.length < 256 then
    s.offer ⟨code, .c, 0, s.pwr.aoTime, s.stepNow, s.jobIdNow, payload, false, false, some x⟩
  else { s with err.queueCk := satAdd 16 s.err.queueCk 1 }.answerEntry x

/-- R396: STEP of a completion. -/
def State.compStep (s : State) (j : Job) : Nat := if j.gated then s.cke.c else j.step

/-! Reading a ring -/

/-- HOST_LINE_UPDATE (R389, R394, R396): the host line of an enabled ring is read again. A tail too far ahead disables
the ring. -/
def execHostLineUpdate (q : Fin 4) (sqTail cqHead : Word32) (poisoned : Bool) (s : State) : Answer :=
  let r := s.ring q.val
  if !r.en || !s.hub.linkUp || s.err.offline then .next s
  else
    let s0 := s.countHub 5 (maskBit 2) 1
    if poisoned then .next (s0.raise 0x0C02 .c 0 (addrPayload r.ctrl.toNat 0 0))
    else if 2 ^ r.log2n < (sqTail - r.sqHead).toNat then
      .next (((s0.setRing q.val { r with en := false, overrun := true }).raise 0x0203 .c 0 0).raiseVec (4 + q.val))
    else .next (s0.setRing q.val { r with sqTail := sqTail, cqHead := cqHead }).flushCq

/-- R394: may the next entry of a ring be read: the ring holds one, and no lower ring does (R395)? -/
def State.entryDue (s : State) (q : Nat) : Bool :=
  s.hub.linkUp && !s.err.offline && ((List.range (q + 1)).all fun i =>
    let r := s.ring i
    (r.en && r.sqRead ≠ r.sqTail) == (i = q))

/-- R395: is an entry to be refused? SUSPEND and RESUME need a 4 KiB aligned ADDR in HBM (R399). -/
def State.entryBad (s : State) (op : Nat) (e : SqEntry) : Bool :=
  e.rsvd || e.poisoned || decide (1 < e.flags.toNat) || e.jobId = 0 || op = 0 || decide (5 < op)
  || ((op = 4 || op = 5) && e.addr ≠ 0)
  || ((op = 2 || op = 3) && (e.addr.toNat % 4096 ≠ 0 || (match s.place e.addr.toNat with
      | .hbm d => s.place (e.addr.toNat + 0x8FFFFF) ≠ .hbm d
      | _ => true)))

/-- R394: the next entry is read: its number, and the state that has read it; SQ_HEAD is written after the last. -/
def State.readEntry (s : State) (q : Nat) : Nat × State :=
  let r := s.ring q
  let n := r.sqRead.toNat
  let r1 := { r with sqRead := r.sqRead + 1, unanswered := r.unanswered ++ [n] }
  let s0 := s.countHub 5 (maskBit 2) 1
  if r1.sqRead = r.sqTail then (n, (s0.setRing q { r1 with sqHead := r1.sqRead }).writeDeviceLine q)
  else (n, s0.setRing q r1)

/-- The completion an entry is answered with. -/
def answerTo (q idx op : Nat) (e : SqEntry) (status step code : Nat) : Completion :=
  ⟨q, idx, e.jobId.toNat, op, status, e.cookie.toNat, step, code, 0xFFFF, e.flags.getLsbD 0⟩

/-- R395: reads an entry and refuses a bad one with RING_ENTRY_INVALID; `f` handles a good one, given its number. -/
def onEntry (s : State) (q : Fin 4) (op : Nat) (e : SqEntry) (f : State → Nat → State) : Answer :=
  if !s.entryDue q.val then .next s
  else
    let (n, s1) := s.readEntry q.val
    if s.entryBad op e then
      let s2 := if e.poisoned then s1.raise 0x0C02 .c 0 (addrPayload ((s.ring q.val).sqBase.toNat
        + 64 * (n % 2 ^ (s.ring q.val).log2n)) 0 0) else s1
      .next (s2.raiseAnswer 0x0203 0 (answerTo q.val n op e 5 s.stepNow.toNat 0x0203))
    else .next (f s1 n)

/-- R395: an OP that does not fit the job's state is REFUSED with JOB_STATE. -/
def State.refuseState (s : State) (q idx op : Nat) (e : SqEntry) : State :=
  s.raiseAnswer 0x0205 0 (answerTo q idx op e 5 s.stepNow.toNat 0x0205)

/-- START (R395): joins the queue of STARTs. -/
def execStart (q : Fin 4) (e : SqEntry) (s : State) : Answer :=
  onEntry s q 1 e fun t n => { t with hub.startQ := t.hub.startQ
    ++ [⟨q.val, n, e.jobId.toNat, e.cookie.toNat, e.flags.getLsbD 0, e.addr.toNat⟩] }

/-- RING_NOP (R395): answered once the earlier entries of its ring are; an entry of a Reserved OP is refused. -/
def execRingNop (q : Fin 4) (op : Byte) (e : SqEntry) (s : State) : Answer :=
  if 1 ≤ op.toNat ∧ op.toNat ≤ 4 then .next s
  else onEntry s q op.toNat e fun t n =>
    let r := t.ring q.val
    settleNops q.val (r.nops.length + 1) (t.setRing q.val { r with
      nops := r.nops ++ [⟨n, e.jobId.toNat, e.cookie.toNat, e.flags.getLsbD 0⟩] })

/-! Starting a job -/

/-- R390: the windows a descriptor names. -/
def State.descWindows (s : State) (a : Nat) : List (Nat × Nat) :=
  (List.range (s.numAt (a + 2) 2)).map fun i =>
    (s.numAt (s.numAt (a + 56) 8 + 16 * i) 8, s.numAt (s.numAt (a + 56) 8 + 16 * i + 8) 8)

/-- R224, R238: the first address beyond the populated region an address lies in. -/
def State.regionEnd (s : State) (a : Nat) : Nat :=
  let c := fun p => (s.mem.port p).capacity * 0x10000000
  match s.place a with
  | .hbm d => d * die1Base + s.hbmBytes
  | .tier2 p =>
    if p = 1 || s.mem.interleaved || (s.mem.port 1).mapped then tier2Base + c 0 + c 1 else tier2Base + c 0
  | .hole => 0

/-- R391: is a window refused? -/
def State.windowBad (s : State) (w : Nat × Nat) : Bool :=
  w.1 % 64 != 0 || decide (w.2 < w.1) || !decide (w.2 < s.regionEnd w.1)

/-- The lines of a range hold data that can be read: populated and not poisoned. -/
def State.tableOk (s : State) (a n : Nat) : Bool :=
  s.rangePop a n && !((List.range ((a % 64 + n + 63) / 64)).any fun i => s.poisoned (a + 64 * i))

/-- Bytes of a flag manifest (R83). -/
def manifestLen : Nat := 278528

/-- R391: what the scheduler reads of a descriptor: its line, and once that can be read the tables it names. -/
def State.descTables (s : State) (a : Nat) : List (Nat × Nat) :=
  let f := fun o n => s.numAt (a + o) n
  let cores := (List.range 64).filter (bitAt (f 8 8))
  (if f 32 8 = 0 then [] else [(f 32 8, manifestLen)])
    ++ cores.flatMap (fun c => [(f 40 8 + 2048 * c, 2048), (f 48 8 + 8 * c, 8)])
    ++ (if f 2 2 = 0 then [] else [(f 56 8, 16 * min 8 (f 2 2))])

/-- R227, R232, R234: the scheduler reads a descriptor (agent 0, assumption 70). -/
def State.readDesc (s : State) (a : Nat) : State :=
  if a % 64 != 0 then s
  else
    let s1 := s.engineReads 0 [(a, 64)]
    if s1.tableOk a 64 then s1.engineReads 0 (s1.descTables a) else s1

/-- R391: is a job descriptor refused? -/
def State.descBad (s : State) (a : Nat) : Bool :=
  let f := fun o n => s.numAt (a + o) n
  let mask := f 8 8
  let nwin := f 2 2
  let cores := (List.range 64).filter (bitAt mask)
  a % 64 != 0 || !s.tableOk a 64 || f 0 1 != 1 || decide (1 < f 1 1) || decide (8 < nwin) || f 4 4 != 0
  || mask = 0 || cores.any (fun c => !s.inService c) || f 16 8 = 0
  || [f 32 8, f 40 8, f 48 8, f 56 8].any (fun x => x % 64 != 0)
  || (f 32 8 != 0 && !s.tableOk (f 32 8) manifestLen)
  || cores.any (fun c => !s.tableOk (f 40 8 + 2048 * c) 2048 || !s.tableOk (f 48 8 + 8 * c) 8
      || s.numAt (f 48 8 + 8 * c) 8 % 16 != 0)
  || (nwin != 0 && (!s.tableOk (f 56 8) (16 * nwin) || (s.descWindows a).any s.windowBad))
  || (bitAt (f 1 1) 0 && (match s.hub.susp with
      | some p => p.job.gated
      | none => false))

/-- R392: the job a START entry and its descriptor make. -/
def State.readJob (s : State) (e : StartEntry) : Job :=
  let f := fun o n => s.numAt (e.addr + o) n
  let m := f 32 8
  ⟨e.ring, e.idx, e.jobId, e.cookie, e.irq, e.addr, bitAt (f 1 1) 0, f 8 8, f 16 8, BitVec.ofNat 64 (f 24 8),
    s.descWindows e.addr, if m = 0 then none else some m,
    if m = 0 then [] else (List.range 17408).foldl (fun x i => sset 0 x i (s.numAt (m + 16 * i) 16)) [],
    f 16 8 - 1, false, none, none, none, 0⟩

/-- R78, R117, R392: a core as a job finds it; its registers are kept. -/
def Core.forJob (k : Core) : Core :=
  { k with
    q.seq := .idle, q.stall := 0, q.cmdIndex := 0, q.replaySlot := 0, q.replayPass := 0, q.callId := 0
    q.params := [], q.flags := [], q.lost := [], q.tq := [], q.slots := [], q.openRec := none, q.replay := none
    q.drops := [], q.pbRead := none
    q.wait := none, q.fence := none, q.call := none, q.snapDue := false, q.snap := none
    m.arr := [], m.wShadow := [], m.acc := [], m.accDefault := AccRow.init, m.wrShadow := []
    v.oc := [], v.ocBad := [], v.ccw := [], v.cfgDispatched := [], v.lut0 := [], v.lut1 := [], v.lutActive := false
    v.lutGen := 0, v.lutNext := false, v.carry := [] }

/-- R392: one core starts: PARAM registers, list, seed, and a gated step's snapshot (R365). Its sequencer stalls with FETCH
until the first command has come (R62; assumption 60). -/
def startCore (j : Job) (pb lb : Nat) (t : State) (c : CoreId) : State :=
  let ps := (List.range 256).map fun n => BitVec.ofNat 64 (t.numAt (pb + 2048 * c.val + 8 * n) 8)
  let base := t.numAt (lb + 8 * c.val) 8
  let clear := t.pmu.ctl.getLsbD 2
  let snap := j.gated && t.cke.gateCtl.getLsbD 11
  let seed := t.stepSeed c.val (if j.gated then j.firstStep else j.step)
  t.modCore c fun k =>
    let k0 := if clear then k.clearCounters else k
    { k0.forJob with
      q.seq := .stalled, q.stall := 1, q.listBase := base, q.params := ssetList 0 [] 0 ps, q.snapDue := snap, v.seed := seed }

/-- R347, R352, R383, R392: what the gate does at the start of a gated job. -/
def State.startGate (s : State) (j : Job) : State :=
  { s with
    cke.c := j.firstStep - 1
    cke.lost := []
    cke.applied := none
    cke.sentDec := none
    cke.resend := []
    cke.firstUpdate := true
    cke.rewinding := false
    cke.flipFlags := [] }.beginAttempt 0 false []

/-- R392: what starts with a job but for its cores. -/
def State.beginJob (s : State) (j : Job) : State :=
  let s1 := { s with
    hub.job := some j
    hub.jobState := .running
    hub.flags := s.hub.flags.filter fun p => decide (p.1 < 64)
    hub.dlkArmed := true
    cle.srCount := []
    pmu.lostNoted := false
    pwr.coreClocks := (coresOfMask j.coreMask).foldl (fun m c => sset false m c.val true) s.pwr.coreClocks
    pwr.state := .active }
  if j.gated then s1.startGate j else s1

/-- R392: the job starts, with its cores at their lists. -/
def State.startJob (s : State) (e : StartEntry) : State :=
  let j := s.readJob e
  ((coresOfMask j.coreMask).foldl (startCore j (s.numAt (e.addr + 40) 8) (s.numAt (e.addr + 48) 8)) (s.beginJob j)).entryDone
    e.ring e.idx

/-- JOB_START (R391, R392, R397): with no job running and room for its completions, the oldest START is checked and its
job started, or refused. -/
def execJobStart (s : State) : Answer :=
  match s.hub.startQ with
  | [] => .next s
  | e :: rest =>
    if s.hub.job.isSome || decide (64 < s.hub.waitingCq.length) || !s.memReady then .next s
    else
      let s0 := s.readDesc e.addr
      let s1 := { s0 with hub.startQ := rest }
      if s0.descBad e.addr then
        .next (s1.raiseAnswer 0x0204 0 ⟨e.ring, e.idx, e.jobId, 1, 5, e.cookie, s.stepNow.toNat, 0x0204, 0xFFFF, e.irq⟩)
      else .next (s1.startJob e)

/-! Ending a job -/

/-- A completion for the START of a job. -/
def State.startAnswer (s : State) (j : Job) (status code slot : Nat) : State :=
  s.sendCompletion ⟨j.ring, j.idx, j.jobId, 1, status, j.cookie, s.compStep j, code, slot, j.irq⟩

/-- R417: the credits of the job's engines lapse, and what they asked for is no longer wanted. -/
def State.lapseJob (s : State) : State :=
  let t : State := { s with pwr.waiting := [], pwr.credits := s.pwr.credits.map fun x => { x with want := none } }
  t.pwr.credits.foldl (fun t x => if x.ballast then t else t.lapse x.who) t

/-- The scheduler holds no running job any more; a gated one leaves the gate IDLE. -/
def State.dropJob (s : State) : State :=
  let gated := match s.hub.job with
    | some j => j.gated
    | none => false
  let s1 := { s with
    hub.job := none
    hub.jobState := if s.hub.susp.isSome then .suspended else .none }
  let s2 := if gated then { s1 with
      cke.st := .idle, cke.rewinding := false, cke.restore := none, cke.decided := none, cke.reshard := none, cke.ckpt := none }
    else s1
  s2.lapseJob

/-- R398: a terminating job whose commands have all completed ends with its TERMINATED completions; an open exchange is
closed without a flip. -/
def State.endTerminated (s : State) : State :=
  match s.hub.job with
  | none => s
  | some j =>
    let s1 := match j.termEntry with
      | some (q, n, cookie, irq) => s.answerEntry ⟨q, n, j.jobId, 4, 2, cookie, s.compStep j, 0, 0xFFFF, irq⟩
      | none => s
    let s2 := if j.answered then s1 else s1.startAnswer j 2 0 0xFFFF
    (s2.closeExchange false true).dropJob

/-- R398: ends a terminating job once its commands have completed. -/
def State.settleTerminate (s : State) : State :=
  if s.hub.jobState = .terminating && s.jobCores.all fun c => (s.core c).quiet then s.endTerminated else s

/-- JOB_DONE (R397): every job core has reached END and every command has completed; or a TERMINATE's last command has. -/
def execJobDone (s : State) : Answer :=
  match s.hub.job, s.hub.jobState with
  | some j, .running =>
    if s.jobCores.all fun c => (s.core c).quiet && (s.core c).q.seq = .ended then .next (s.startAnswer j 0 0 0xFFFF).dropJob
    else .next s
  | _, _ => .next (afterSnoop s s.settleTerminate)

/-- R398: what COMMAND_COMPLETE does for a job that is being terminated or rewound (R365). -/
def State.settleJob (s : State) : State := (s.settleRewind).settleTerminate

/-- COMMAND_COMPLETE (R62, R365, R398). -/
def execCommandComplete (core : CoreId) (engine : Engine) (which : Nat) (s : State) : Answer :=
  .next (afterSnoop s (commandComplete core engine which s).settleJob)

/-- Does a job carry this JOB_ID? -/
def jobIs (o : Option Job) (e : SqEntry) : Bool := match o with
  | some j => j.jobId = e.jobId.toNat
  | none => false

/-- TERMINATE (R395, R398). -/
def execTerminate (q : Fin 4) (e : SqEntry) (s : State) : Answer :=
  onEntry s q 4 e fun t n =>
    if jobIs t.hub.job e && (t.hub.jobState = .running || t.hub.jobState = .halted) then
      match t.hub.job with
      | some j =>
        let t1 := { t with
          cores := t.cores.map haltCore
          hub.jobState := .terminating
          hub.job := some { j with termEntry := some (q.val, n, e.cookie.toNat, e.flags.getLsbD 0) }
          cke.rewinding := false }
        afterSnoop t t1.settleTerminate
      | none => t
    else match t.hub.susp with
      | some p =>
        if p.job.jobId = e.jobId.toNat then
          let t1 := t.answerEntry ⟨q.val, n, p.job.jobId, 4, 2, e.cookie.toNat, t.compStep p.job, 0, 0xFFFF, e.flags.getLsbD 0⟩
          let t2 := if p.job.answered then t1 else t1.startAnswer p.job 2 0 0xFFFF
          { t2 with
            hub.susp := none
            hub.jobState := if t2.hub.jobState = .suspended then .none else t2.hub.jobState
            cke.st := if p.job.gated then .idle else t2.cke.st }
        else t.refuseState q.val n 4 e
      | none => t.refuseState q.val n 4 e

/-- R406, R482: CLE and PUE idle. -/
def State.stopEngines (s : State) : State :=
  { s with
    pue0 := { s.pue0 with call := none, pre := none, creditWait := false, finWait := false }
    pue1 := { s.pue1 with call := none, pre := none, creditWait := false, finWait := false }
    cle := { s.cle with
      isOpen := false, buckets := [], streams := [], accepted := [], closed := [], finals := [], imaged := [], finRx := []
      staged := [], armed := none, stagedDone := false, late := [], misses := 0, srCount := [], srRuns := [], srGot := [] } }

/-- R398, R406: the compute dies are reset: cores with their registers, CLE and PUE idle; array fault counts stay. -/
def State.resetDies (s : State) : State :=
  let t : State := { s.stopEngines with
    cores := s.cores.map fun k => { Core.reset with m.arrayFaults := k.m.arrayFaults }
    fab.reqs := [] }
  t.lapseJob

/-- JOB_TERM_FORCED (R398): commands have not completed 10 ms after TERMINATE. -/
def execJobTermForced (s : State) : Answer :=
  if s.hub.jobState ≠ .terminating then .next s
  else .next (afterSnoop s ((s.raise 0x0206 .c 0 0).closeExchange false true).resetDies.endTerminated)

/-! Suspend and resume -/

/-- R399: is a bucket of the open exchange sealed? -/
def State.exchangeSealed (s : State) : Bool := s.cle.isOpen && s.cle.buckets.any fun b => b.sealed

/-- SUSPEND (R395, R399): dispatch stops at the next boundary at which no bucket is sealed. -/
def execSuspend (q : Fin 4) (e : SqEntry) (s : State) : Answer :=
  onEntry s q 2 e fun t n =>
    if jobIs t.hub.job e && t.hub.susp.isNone && (t.hub.jobState = .running || t.hub.jobState = .halted) then
      match t.hub.job with
      | some j =>
        let t1 := { t with
          hub.jobState := .suspending
          hub.job := some { j with
            suspEntry := some (q.val, n, e.cookie.toNat, e.flags.getLsbD 0), imageAddr := e.addr.toNat } }
        if t1.exchangeSealed then t1 else t1.suspendNow
      | none => t
    else t.refuseState q.val n 2 e

/-- R399: has a core stopped, with its commands complete? An UPDATE or PRECOND stops between blocks (R343). -/
def Core.suspended (k : Core) : Bool :=
  k.incomplete.isEmpty
  && (match k.q.seq with
    | .dispatching | .stalled | .waiting => false
    | .idle | .haltFault | .haltSched | .ended => true)
  && (match k.q.call with
    | some c => c.routine = 0x20 || c.routine = 0x21
    | none => true)

/-- R400: what the image keeps of a core. -/
def coreImage (n : Nat) (k : Core) : CoreImage :=
  ⟨n, k.q.seq = .ended, k.q.cmdIndex, k.q.listBase, k.q.params, k.q.flags, k.q.tq, k.q.slots, k.q.openRec, k.q.replay,
    k.q.replayPass, k.q.call, k.q.snap, k.q.snapDue, k.v.ccw, k.v.lut0, k.v.lut1, k.v.lutActive, k.v.lutGen⟩

/-- R310: the addresses of the sample entries of the open exchange. -/
def State.sampleAddrs (s : State) : List Nat := s.cle.buckets.flatMap fun b => (List.range b.g).map fun j => b.smp + 16 * j

/-- R343, R399: a PUE whose call the image has taken. -/
def Pue.suspended (p : Pue) : Pue := { p with call := none, pre := none, creditWait := false, finWait := false }

/-- R343: a PUE whose call goes on after a resume; the credit it held lapsed with the suspend (R417), so it asks again. -/
def Pue.resumed (p : Pue) (x : Option PueCall × Option PreRun) : Pue :=
  { p with call := x.1, pre := x.2, creditWait := x.1.isSome || x.2.isSome }

/-- R310: the exchange state of an image goes back; what has come for the exchange since then stays, and so do the
registers and counters. -/
def Cle.resumed (c : Cle) (x : Cle) : Cle :=
  { c with isOpen := x.isOpen, exch := x.exch, nfpol := x.nfpol, fcBias := x.fcBias, buckets := x.buckets, srCount := x.srCount }

/-- R400: bytes of a suspend image. -/
def imageBytes : Nat := 0x900000

/-- SUSPENDED (R399, R400): after the last completion the image is written. Its byte layout is not given: each byte of
the area is a free value (assumption 3), and what the image holds is kept as data. -/
def execSuspended (s : State) : Answer :=
  match s.hub.job, s.hub.jobState with
  | some j, .suspending =>
    if !(s.jobCores.all fun c => (s.core c).suspended) then .next s
    else
      let s0 := s.cleReads (s.sampleAddrs.map fun a => (a, 16))
      let p : Suspended := ⟨j, s.jobCores.map fun c => coreImage c.val (s.core c), s.upperFlags, s.cle,
        s.sampleAddrs.map fun a => (a, s0.numAt a 16), (s.pue0.call, s.pue0.pre), (s.pue1.call, s.pue1.pre)⟩
      let area := (List.range imageBytes).map fun i => BitVec.ofNat 8 (Config.freeValue (s0.fresh + i))
      let s1 := { s0.agentWrite j.imageAddr 0 area with
        fresh := s0.fresh + imageBytes
        hub.job := none
        hub.susp := some p
        hub.jobState := .suspended
        hub.resetSince := false
        pue0 := s.pue0.suspended
        pue1 := s.pue1.suspended }
      let s2 := match j.suspEntry with
        | some (q, n, cookie, irq) => s1.answerEntry ⟨q, n, j.jobId, 2, 3, cookie, s.compStep j, 0, 0xFFFF, irq⟩
        | none => s1
      .next (afterSnoop s s2.lapseJob)
  | _, _ => .next s

/-- R400: a core after resume: what the image holds, the rest as at job start, no weight shadow, and accumulator rows
as R120 says. -/
def resumeCore (s : State) (p : CoreImage) : State :=
  s.modCore (coreNo p.core) fun k => { k.forJob with
    q.seq := if p.ended then .ended else .stalled
    q.stall := if p.ended then 0 else 1
    q.cmdIndex := p.index, q.listBase := p.listBase, q.params := p.params, q.flags := p.flags, q.tq := p.tq
    q.slots := p.slots, q.openRec := p.openRec, q.replay := p.replay, q.replayPass := p.replayPass, q.call := p.call
    q.callId := (p.call.map fun c => c.routine).getD 0
    q.snap := p.snap, q.snapDue := p.snapDue
    m.accDefault := AccRow.resumed
    v.ccw := p.ccw, v.cfgDispatched := p.ccw.foldl (fun m x => sset false m x.1 true) []
    v.lut0 := p.lut0, v.lut1 := p.lut1, v.lutActive := p.lutActive, v.lutNext := p.lutActive, v.lutGen := p.lutGen }

/-- R400, R401: the suspended job goes on. -/
def State.resumeJob (s : State) (p : Suspended) : State :=
  let s0 := p.samples.foldl (fun t x => t.cleNum x.1 16 x.2) s
  let s1 := { s0 with
    hub.job := some { p.job with suspEntry := none }
    hub.jobState := .running
    hub.susp := none
    hub.flags := (s.hub.flags.filter fun x => decide (x.1 < 64)) ++ p.hubFlags
    pue0 := s.pue0.resumed p.pue0
    pue1 := s.pue1.resumed p.pue1
    cle := s.cle.resumed p.exchange
    pwr.coreClocks := (coresOfMask p.job.coreMask).foldl (fun m c => sset false m c.val true) s.pwr.coreClocks
    pwr.state := .active }
  let s2 := p.cores.foldl resumeCore s1
  let k := if p.job.gated then s.cke.c + 1 else p.job.step
  s2.loadSeeds k

/-- RESUME (R395, R401): refused with JOB_STATE unless the job is suspended, not halted, from this very image, no other
job is running or halted, and no reset has occurred since. -/
def execResume (q : Fin 4) (e : SqEntry) (s : State) : Answer :=
  onEntry s q 3 e fun t n =>
    match t.hub.susp with
    | some p =>
      if p.job.jobId = e.jobId.toNat && t.hub.job.isNone && !t.hub.resetSince && p.job.haltCode.isNone
          && p.job.imageAddr = e.addr.toNat then
        ((t.resumeJob p).answerEntry ⟨q.val, n, p.job.jobId, 3, 4, e.cookie.toNat, t.compStep p.job, 0, 0xFFFF,
          e.flags.getLsbD 0⟩).tryVote
      else t.refuseState q.val n 3 e
    | none => t.refuseState q.val n 3 e

/-! Rings, interrupts, flags -/

/-- R408: a write of HUB_RING_CTL_q: enabling starts both counts of the device line at 0. -/
def State.ringCtlWrite (s : State) (q : Nat) (w : Word32) : State :=
  let r := s.ring q
  let n := fld w.toNat 1 5
  let s0 := if r.en then s.cfgIgnored (0x100100 + 64 * q) w.toNat 4 else s
  let log := if r.en || n < 4 || 16 < n then r.log2n else n
  let en := w.getLsbD 0
  if en && !r.en then
    ((s0.setRing q { r with
      en := true, log2n := log, sqHead := 0, sqRead := 0, sqTail := 0, cqTail := 0, cqHead := 0
      unanswered := [], nops := [] }).writeDeviceLine q).flushCq
  else s0.setRing q { r with en := en, log2n := log }

/-- RING_ENABLE (R393, R408). -/
def execRingEnable (q : Fin 4) (w : Word32) (s : State) : Answer := s.onBar fun t => t.ringCtlWrite q.val w

/-- R408: a write of HUB_MSIX_BIND_n; a binding whose condition holds when it is armed fires at once (R404). -/
def State.bindWrite (s : State) (n : Nat) (w : RegWrite) : State :=
  let b := sget Bind.reset s.hub.binds n
  let old := BitVec.ofNat 64 (b.flag + b2n b.arm <<< 10 + b.target.toNat <<< 32)
  let v := (mergeWrite old w).toNat
  fireBind { s with hub.binds := sset Bind.reset s.hub.binds n ⟨v % 1024, bitAt v 10, BitVec.ofNat 32 (v >>> 32)⟩ } n

/-- MSIX_BIND_ARM (R404). -/
def execMsixBindArm (n : Fin 48) (w : RegWrite) (s : State) : Answer := s.onBar fun t => t.bindWrite n.val w

/-- MSIX_MOD_EXPIRY (R403): the moderation interval of vector 2 ends: one message covers the records inside it. -/
def execMsixModExpiry (s : State) : Answer :=
  if !s.hub.modOpen then .next s
  else if s.hub.modPending then .next { s.sendMsix 2 with hub.modPending := false }
  else .next { s with hub.modOpen := false }

/-- SEQ_FLAG_ADD (R5, R80, R96, R532). -/
def execSeqFlagAdd (core : CoreId) (n : Fin 256) (w : Word32) (s : State) : Answer :=
  s.onBar fun t => if t.coreWindow core.val then (t.wakeCore core).addCoreFlag core n.val w else t

/-- R96: a write of HUB_FLAG_ADD_n. -/
def State.hubFlagAddWrite (s : State) (n : Nat) (w : Word32) : State :=
  if n < 64 then s.raise 0x0202 .c 0 (regPayload (0x109000 + 4 * n) w.toNat 4 0) else s.addHubFlag n w

/-- HUB_FLAG_ADD (R80, R96). -/
def execHubFlagAdd (n : Fin 1024) (w : Word32) (s : State) : Answer := s.onBar fun t => t.hubFlagAddWrite n.val w

/-- R96: a write of HUB_DLK_STATUS clears bits; the detector is armed again once all are clear. -/
def State.dlkClear (s : State) (w : RegWrite) : State :=
  let m := mergeWrite 0 w
  let v := s.hub.dlkStatus &&& ~~~m
  { s with hub.dlkStatus := v, hub.dlkArmed := s.hub.dlkArmed || v = 0 }

/-- DLK_STATUS_CLEAR (R96). -/
def execDlkStatusClear (w : RegWrite) (s : State) : Answer := s.onBar fun t => t.dlkClear w

/-- R135: a write of MXU_INJECT; TARGET 3 is ignored. -/
def State.mxuInject (s : State) (c : CoreId) (w : Word32) : State :=
  let v := w.toNat
  if fld v 9 2 = 3 then s
  else s.modCore c fun k => { k with
    m.injHeld := w &&& 0xFFF
    m.inj := if bitAt v 11 then some ⟨v % 4, fld v 2 7, fld v 9 2⟩ else k.m.inj }

/-- MXU_INJECT (R5, R135, R532). -/
def execMxuInject (core : CoreId) (w : Word32) (s : State) : Answer :=
  s.onBar fun t => if t.coreWindow core.val then (t.wakeCore core).mxuInject core w else t

end Sys2Proof.Machine
end

