-- ==== Sys2Proof/Machine/Light.lean ====
section
/-! DEFINITION. Lasers, light and the states of a port (R243 to R260, R275): what lights an engine, what takes a port
down, and the routes lost with it. -/

namespace Sys2Proof.Machine

/-! Routes lost -/

/-- R275: a route entry that names a port and has no usable port left. -/
def State.entryLost (s : State) (p n : Nat) (e : Word32) : Bool :=
  let x := e.toNat
  decide (n ≠ s.fab.devid) && ((bitAt x 0 && fld x 1 4 = p) || (bitAt x 5 && fld x 6 4 = p)) && (s.routeOf n).isNone

/-- R275: a port has left ACTIVE for good: one record holds the port and the number of entries lost. -/
def State.routesLost (s : State) (p : Nat) : State :=
  let n := (s.fab.routes.filter fun (x : Nat × Word32) => s.entryLost p x.1 x.2).length
  if n = 0 then s else s.raise 0x0805 .d p (devPayload s.fab.devid p 0 + n <<< 96)

/-! Leaving ACTIVE -/

/-- R255: discards the retry buffer and every queued packet, counted in DISCARDS. -/
def Port.discard (x : Port) : Port :=
  { x with
    discards := satAdd 16 x.discards (x.unacked.length + x.queue.length)
    unacked := [], queue := [], rxBytes := [] }

/-- R256: an ACTIVE port enters RECOVERY and keeps its retry buffer. -/
def State.recover (s : State) (p : Nat) : State :=
  let x := s.port p
  s.setPort p { x with
    state := 5, retrains := satAdd 16 x.retrains 1, recovering := true, wasDev := x.pDev, wasPort := x.pPort, nakCount := 0 }

/-- A port goes to DISABLED, DARK or FAILED with nothing kept; if it was ACTIVE, or recovering from it, routes may be
lost with it. -/
def State.takeDown (s : State) (p st : Nat) (quiet : Bool) : State :=
  let x := s.port p
  let s1 := x.queue.foldl State.freeHeld
    (s.setPort p { x.discard with state := st, width := 0, recovering := false, rxGap := none, quiesced := false })
  if (x.state = 4 || x.recovering) && !quiet then s1.routesLost p else s1

/-! Lasers -/

/-- R250, R437: is an engine lit: its module driven, and not in thermal shutdown? -/
def State.engineLit (s : State) (e : Nat) : Bool :=
  (s.fab.lasers.getD (e / 2) Laser.reset).driven && !bitAt s.pwr.oeDark e

/-- R253: what holds every port DISABLED, and fatal handling (R482). -/
def State.portsHeld (s : State) : Bool := !s.fab.en || !s.fab.devidValid || s.err.handling || s.err.offline

/-- R253, R256: brings a port in line with its enables and its light. -/
def State.settlePort (s : State) (p : Nat) : State :=
  let x := s.port p
  let held := s.portsHeld || !s.portPresent p
  let lit := s.engineLit (p / 2)
  if x.state = 0 then (if !held && x.en && lit then s.setPort p { x with state := 1 } else s)
  else if held then s.takeDown p 0 false
  else if !x.en && x.state ≠ 4 then s.takeDown p 0 false
  else if !lit then
    (if x.state = 4 then (if x.quiesced then s.takeDown p 0 true else s.recover p)
     else if x.state = 5 then s
     else s.takeDown p 0 false)
  else s

/-- Brings all ports in line. -/
def State.settlePorts (s : State) : State := (List.range 16).foldl State.settlePort s

/-- R250: may the device drive a module's enable high? `rearm` waits for EN to go from 0 to 1 after a fault (R251). -/
def State.mayLight (s : State) (m : Nat) (l : Laser) : Bool :=
  decide (m < s.ident.grade.lasers) && l.en && s.pwr.stagesOn && !s.top.coldDue && s.pwr.vstbyOk && !s.pwr.vinLow && !s.pwr.vinHigh
    && l.identified && l.faultN && !l.fault && !l.rearm && !s.pwr.thermTrip && !s.pwr.leakLatch
    && !bitAt s.pwr.oeDark (2 * m) && !bitAt s.pwr.oeDark (2 * m + 1)

/-- R250, R251: drives each module's enable as its conditions stand, and lets the ports follow. -/
def State.settleLight (s : State) : State :=
  { s with fab.lasers := s.fab.lasers.zipIdx.map fun ((l, m) : Laser × Nat) => { l with driven := s.mayLight m l } }.settlePorts

/-- R251: a module faults: FAULT and CAUSE are set, its enable is lowered, and the record written. -/
def State.laserFault (s : State) (m cause : Nat) : State :=
  let s1 := { s with fab.lasers := s.fab.lasers.modify m fun l => { l with fault := true, cause := cause, rearm := true } }
  (s1.raise 0x0806 .d (16 + m) (devPayload s.fab.devid m 0)).settleLight

/-- Is a module's enable high? -/
def State.lightOn (s : State) (m : Nat) : Bool := (s.fab.lasers.getD m Laser.reset).driven

/-- R250, R280: a write of FAB_LASER_CTL; an EN bit going from 0 to 1 with FAULT clear ends the wait after a fault. -/
def State.laserCtlWrite (s : State) (w : Word32) : State :=
  { s with fab.lasers := s.fab.lasers.zipIdx.map fun ((l, m) : Laser × Nat) =>
      let e := w.getLsbD m
      { l with en := e, rearm := l.rearm && !(e && !l.en && !l.fault) } }.settleLight

/-- LASER_ENABLE (R250). -/
def execLaserEnable (w : Word32) (s : State) : Answer := s.onBar fun t => t.laserCtlWrite w

/-- R251, R280: a write of FAB_LASER_STATUS: writing 1 to FAULT_m clears it. -/
def State.laserStatusWrite (s : State) (v : Word64) : State :=
  { s with fab.lasers := s.fab.lasers.zipIdx.map fun ((l, m) : Laser × Nat) =>
      if v.getLsbD (4 + m) then { l with fault := false } else l }.settleLight

/-- LASER_FAULT_CLEAR (R251): a write of FAB_LASER_STATUS. -/
def execLaserFaultClear (w : RegWrite) (s : State) : Answer := s.onBar fun t => t.laserStatusWrite (mergeWrite 0 w)

/-- FAB_LASER_FAULT (R251): LS_FAULT_N_m is low for 1 µs while LS_EN_m is high. -/
def execFabLaserFault (module : Fin 4) (s : State) : Answer :=
  if s.lightOn module.val then
    .next ({ s with fab.lasers := s.fab.lasers.modify module.val fun l => { l with faultN := false } }.laserFault module.val 1)
  else .next s

/-- R251: is a feed power, signed in units of 0.01 dBm, below a bound? -/
def powerBelow (power : BitVec 16) (bound : Int) : Bool := decide (power.toInt < bound)

/-- FEED_POWER_CHECK (R251): within 100 ms of LS_EN_m rising the weakest feed wavelength is below +11.0 dBm. -/
def execFeedPowerCheck (module : Fin 4) (power : BitVec 16) (s : State) : Answer :=
  if s.lightOn module.val && powerBelow power 1100 then .next (s.laserFault module.val 2) else .next s

/-- FEED_POWER_LOW (R251): a feed wavelength stays below +10.0 dBm for 10 ms. -/
def execFeedPowerLow (module : Fin 4) (power : BitVec 16) (s : State) : Answer :=
  if s.lightOn module.val && powerBelow power 1000 then .next (s.laserFault module.val 3) else .next s

/-- R252: what the MSS knows of a module after reading it; one that answers has its dynamic address. -/
def Laser.polled (l : Laser) (pin : Bool) : Option LaserReading → Laser
  | none => { l with identified := false, faultN := pin }
  | some r => { l with
      identified := r.cls = 0x5A31 && r.grid = 0x0904
      faultN := pin
      assigned := true
      cls := r.cls.toNat, grid := r.grid.toNat, faultReg := r.fault.toNat, temp := r.temp.toNat
      power := r.power.map BitVec.toNat }

/-- R252: SETDASA gives a module without one its dynamic address, from its static address 0x30 + m. -/
def State.assignLaser (s : State) (m : Nat) : State :=
  if (s.fab.lasers.getD m Laser.reset).assigned then s else s.emit (.laserAddress m (0x30 + m))

/-- LASER_POLL (R252, R251): the MSS reads a module, which answers or not, and sees the level of LS_FAULT_N_m; a fault bit
of a lit module faults it. -/
def execLaserPoll (module : Fin 4) (pin : Bool) (reading : Option LaserReading) (s : State) : Answer :=
  let m := module.val
  if !s.pwr.vstbyOk || s.mss.held || decide (s.ident.grade.lasers ≤ m) then .next s
  else
    let was := s.lightOn m
    let s0 := s.assignLaser m
    let s1 := { s0 with fab.lasers := s0.fab.lasers.modify m fun l => l.polled pin reading }
    let l := s1.fab.lasers.getD m Laser.reset
    if was && !pin then .next (s1.laserFault m 1)
    else if was && l.identified && l.faultReg % 8 ≠ 0 then .next (s1.laserFault m 4) else .next s1.settleLight

end Sys2Proof.Machine
end

