-- ==== Sys2Proof/Machine/Log.lean ====
section
/-! DEFINITION. What the MSS writes down and sends: the event log (R451, R452), error records as bytes (R475), platform
events and answers on its two transports (R443, R445, R448, R488). -/

namespace Sys2Proof.Machine

/-! The log -/

/-- R452, R453: log entries not yet in flash are written to both devices in records of up to 63 entries; the flash log
keeps the newest 1,024 records. -/
def Mss.flush (m : Mss) : Mss :=
  let new := m.log.drop (m.log.length - m.unflushed)
  let recs := (List.range ((new.length + 62) / 63)).map fun i => (new.drop (63 * i)).take 63
  let all := m.flashLog ++ recs
  if m.failA && m.failB then m
  else { m with flashLog := all.drop (all.length - 1024), unflushed := 0 }

/-- R452: one more entry in MSS memory, which holds the newest 4,096. -/
def State.logEntry (s : State) (ao step : Word64) (code cls source data : Nat) : State :=
  let m := s.mss
  let e : LogEntry := ⟨ao, step, (m.logSeq + 1) % 2 ^ 32, code, cls, source, sget 0 m.suppressed code, data⟩
  let l := m.log ++ [e]
  { s with mss := { m with
      logSeq := (m.logSeq + 1) % 2 ^ 32, log := l.drop (l.length - 4096), unflushed := min 4096 (m.unflushed + 1)
      suppressed := sset 0 m.suppressed code 0 } }

/-- R470: an event of class information, from the MSS. -/
def State.logInfo (s : State) (code data : Nat) : State := s.logEntry s.pwr.aoTime s.stepNow code 4 3 data

/-- R452: a reset is logged; the spec gives its entry no CODE and no DATA: free values (assumption 3). -/
def State.logReset (s : State) : State :=
  { (s.logEntry s.pwr.aoTime s.stepNow (Config.freeValue s.fresh % 2 ^ 16) 4 3 (Config.freeValue (s.fresh + 1) % 2 ^ 256)) with
    fresh := s.fresh + 2 }

/-- R451: SOURCE of an error. -/
def State.logSource (s : State) (code inst : Nat) : Nat :=
  let cc := code / 256
  if (3 ≤ cc && cc ≤ 6) || cc = 0x0F then (if inst < 64 then 1 + s.dieOfCore inst else 0)
  else if (cc = 7 || cc = 0x0A || cc = 0x0D) && inst < 2 then 1 + inst
  else if cc = 0x0E then 3
  else 0

/-- R452: logs an error: class D and F and every PWR_REPLAN always, F written to flash at once; of class C and K at most one per code
and second. -/
def State.logError (s : State) (o : Occ) : State :=
  let src := s.logSource o.code o.inst
  if o.cls = .d then s.logEntry o.ao o.step o.code 2 src o.payload
  else if o.cls = .f then
    (let t := s.logEntry o.ao o.step o.code 3 src o.payload
     { t with mss := t.mss.flush })
  else
    let recent := o.code ≠ 0x0D06 && match sget none s.mss.logAt o.code with
      | some t => decide ((o.ao - t).toNat < 32768)
      | none => false
    if recent then { s with mss.suppressed := sset 0 s.mss.suppressed o.code (sget 0 s.mss.suppressed o.code + 1) }
    else { s with mss.logAt := sset none s.mss.logAt o.code (some o.ao) }.logEntry o.ao o.step o.code o.cls.code src o.payload

/-- R451: an entry as bytes. -/
def LogEntry.bytes (e : LogEntry) : List Byte :=
  let b := leBytes 8 e.ao.toNat ++ leBytes 8 e.step.toNat ++ leBytes 4 e.seq ++ leBytes 2 e.code ++ leBytes 1 e.cls
    ++ leBytes 1 e.source ++ leBytes 4 e.suppressed ++ leBytes 32 e.data
  b ++ leBytes 4 (crc32c b)

/-! Answers and events -/

/-- R443: the MSS has something unsent on the side-band: ALERT_N in SMBus mode, an in-band interrupt in I3C mode. -/
def State.nudge (s : State) : State :=
  if s.mss.dyn.isSome then { s with mss.ibi := true }.emit (.ibi 0xAE) else { s with mss.alert := true }

/-- R445: the bytes of a vendor answer; an answer of another type has a layout that the DMTF standards give, not the spec:
none here. -/
def Reply.vendorBytes (r : Reply) : Option (List Byte) :=
  let out := fun cmd : Nat => some (leBytes 1 0x7E ++ leBytes 1 0x1F ++ leBytes 1 0x4B ++ leBytes 1 cmd ++ leBytes 1 r.code.vendor
    ++ leBytes 2 0 ++ r.bytes)
  match r.kind with
  | .logRead => out 1
  | .fwConfirm => out 2
  | .mssRestart => out 3
  | .ownerKeySet => out 4
  | .routineLoad => out 5
  | _ => none

/-- R448: the oldest waiting answer goes into the outgoing mailbox while FULL is 0, and raises vector 3. The bytes of an
answer whose layout the spec does not give are free values (assumption 3). -/
def State.fillM2h (s : State) : State :=
  match s.mss.m2hQueue with
  | [] => s
  | r :: rest =>
    if s.mss.full then s
    else
      let s1 := match r.vendorBytes with
        | some bs => { s with
            mss.m2hLen := bs.length % 8192
            mss.m2hBuf := ssetList 0 s.mss.m2hBuf 0 ((List.range ((bs.length + 7) / 8)).map fun i =>
              BitVec.ofNat 64 (ofLE ((bs.drop (8 * i)).take 8))) }
        | none => { s with
            mss.m2hLen := 1 + Config.freeValue s.fresh % 4096
            mss.m2hBuf := ssetList 0 s.mss.m2hBuf 0 ((List.range 512).map fun i =>
              BitVec.ofNat 64 (Config.freeValue (s.fresh + 1 + i)))
            fresh := s.fresh + 513 }
      { s1 with mss.full := true, mss.m2hQueue := rest }.raiseVec 3

/-- An answer or event leaves on its transport. -/
def State.mssReply (s : State) (tr : Transport) (r : Reply) : State :=
  match tr with
  | .sideband => (s.emit (.mss .sideband r)).nudge
  | .mailbox => ({ s with mss.m2hQueue := s.mss.m2hQueue ++ [r] }.emit (.mss .mailbox r)).fillM2h

/-- R449, R488: a PLDM event to the event receiver, if one is set. -/
def State.mssEvent (s : State) (nums : List Nat) (bytes : List Byte) : State :=
  if s.mss.held then s
  else match s.mss.receiver with
    | some (tr, _) => s.mssReply tr ⟨.event, .success, nums, bytes⟩
    | none => s

/-- R475: a record as bytes. -/
def ErrRec.bytes (r : ErrRec) : List Byte :=
  leBytes 8 r.ao.toNat ++ leBytes 8 r.step.toNat ++ leBytes 2 r.code ++ leBytes 2 r.lastCode
    ++ leBytes 1 (r.cls.code + r.orig.code <<< 2 + b2n r.escalated <<< 4 + b2n r.injected <<< 5 + b2n r.mixed <<< 6)
    ++ leBytes 1 r.inst ++ leBytes 2 r.repeats ++ leBytes 4 r.seq ++ leBytes 4 r.jobId ++ leBytes 32 r.payload

end Sys2Proof.Machine
end

