-- ==== Sys2Proof/Machine/Errors.lean ====
section
/-! DEFINITION. The error block (16_error_handling.md): how an occurrence becomes a record, what a full ring does, fatal
handling, and the registers that acknowledge, clear and inject. -/

namespace Sys2Proof.Machine

/-! The ring -/

/-- The record of a slot, if it is unacknowledged. -/
def Err.live (e : Err) (n : Nat) : Option ErrRec := if e.valid.getLsbD n then sget none e.log n else none

/-- The unacknowledged records with their slots. -/
def Err.lives (e : Err) : List (Nat × ErrRec) := (List.range 32).filterMap fun n => (e.live n).map fun r => (n, r)

/-- R477: the slot an occurrence merges into: of the records of its unit and class the one with the highest SEQ. -/
def Err.mergeSlot (e : Err) (o : Occ) : Option Nat :=
  if o.cls = .f then none
  else ((e.lives.filter fun x => x.2.code / 256 = o.code / 256 && x.2.inst = o.inst && x.2.orig = o.cls).foldl
    (fun (m : Option (Nat × Nat)) x => match m with
      | some y => if y.2 < x.2.seq then some (x.1, x.2.seq) else m
      | none => some (x.1, x.2.seq)) none).map Prod.fst

/-- R477: a record after a merge. -/
def ErrRec.merge (r : ErrRec) (o : Occ) : ErrRec :=
  { r with repeats := satAdd 16 r.repeats 1, lastCode := o.code, mixed := r.mixed || decide (o.code ≠ r.code) }

/-- The oldest of some records, by SEQ. -/
def oldest (xs : List (Nat × ErrRec)) : Option Nat :=
  (xs.foldl (fun (m : Option (Nat × ErrRec)) x => match m with
    | some y => if x.2.seq < y.2.seq then some x else m
    | none => some x) none).map Prod.fst

/-- R479: the slot of the record an escalated occurrence displaces. -/
def Err.displaceSlot (e : Err) (cls : ErrClass) : Option Nat :=
  match oldest (e.lives.filter fun x => x.2.cls.code < cls.code) with
  | some n => some n
  | none => if cls = .f then oldest (e.lives.filter fun x => x.2.cls = .f) else none

/-- R478: the first slot from WPTR on without an unacknowledged record. -/
def Err.freeSlot (e : Err) : Option Nat :=
  ((List.range 32).map fun i => (e.wptr + i) % 32).find? fun n => !e.valid.getLsbD n

/-- R475: the record of an occurrence. -/
def newRec (o : Occ) (cls : ErrClass) (seq : Nat) : ErrRec :=
  ⟨o.ao, o.step, o.code, o.code, cls, o.cls, decide (cls ≠ o.cls), o.injected, false, o.inst, 0, seq, o.jobId, o.payload⟩

/-- Writes a record into a slot. -/
def Err.store (e : Err) (n : Nat) (r : ErrRec) : Err :=
  { e with log := sset none e.log n (some r), valid := e.valid ||| 1 <<< n }

/-- R477 to R479: records an occurrence: the error block after it, the slot that names it if any, and the new record
with the slot it was stored in, for one that did not merge. -/
def Err.record (e : Err) (o : Occ) : Err × Option Nat × Option ErrRec :=
  match e.mergeSlot o with
  | some n => ({ e with log := sset none e.log n ((sget none e.log n).map fun r => r.merge o) }, some n, none)
  | none =>
    let seq := (e.seq + 1) % 2 ^ 32
    match e.freeSlot with
    | some n =>
      let r := newRec o o.cls seq
      ({ (e.store n r) with seq := seq, wptr := (n + 1) % 32 }, some n, some r)
    | none =>
      let cls := o.cls.raised
      let r := newRec o cls seq
      let e1 := { e with seq := seq, ovfFlag := true, escalations := satAdd 16 e.escalations 1 }
      match e.displaceSlot cls with
      | some n => ({ (e1.store n r) with displaced := satAdd 16 e1.displaced 1 }, some n, some r)
      | none => ({ e1 with dropped := satAdd 16 e1.dropped 1 }, none, some r)

/-! Fatal handling -/

/-- R483: latches a class F record in the always-on domain. -/
def Err.latch (e : Err) (r : ErrRec) : Err :=
  match e.fatal0, e.fatal1 with
  | none, _ => { e with fatal0 := some r }
  | some _, none => { e with fatal1 := some r }
  | some _, some _ => { e with more := satAdd 16 e.more 1 }

/-- R482: a job core stops at once and its commands are abandoned. -/
def Core.abandon (k : Core) : Core :=
  { haltCore k with
    q.wait := none, q.fence := none, q.call := none, q.pbRead := none, q.drops := [], q.snapDue := false
    m.queue := [], m.run := [], v.queue := [], v.run := []
    t.queue := [], t.run := [], t.hubQ := [], t.hubRun := [] }

/-- R482: the memory lines the movers' commands in progress were writing. -/
def abandonedLines (s : State) : List Nat :=
  (s.jobCores.flatMap fun c => (s.core c).t.run.flatMap fun r =>
    if r.cmd.opc = 0x43 && !r.desc.get then []
    else moveLines r.desc ((movesOf r.cmd r.desc r.desc.idxpol).map fun x => some x.dst)).filter fun l => !inAlias (64 * l)

/-- R482: lines whose contents are unspecified: free values (assumption 3). -/
def State.scramble (s : State) (ls : List Nat) : State :=
  ls.foldl (fun t l =>
    if !t.populated (64 * l) then t
    else { ((t.setPoison (64 * l) false).setLineErr (64 * l) LineErr.none).storeBytes (64 * l)
        ((List.range 64).map fun i => BitVec.ofNat 8 (Config.freeValue (t.fresh + i))) with fresh := t.fresh + 64 }) s

/-- R482: what stops: job cores, ports, CLE, PUE and CKE; the job is over. -/
def State.stopAll (s : State) : State :=
  let s1 := s.scramble (abandonedLines s)
  let s2 := s.jobCores.foldl (fun t c => t.modCore c Core.abandon) s1
  { s2.stopEngines.dropJob with fab.reqs := [], fab.inbox := [] }.settlePorts

/-- R482, R486: fatal handling starts: the HALTED completion of the running job is written if it has none yet. -/
def State.startFatal (s : State) (code : Nat) (slot : Option Nat) : State :=
  let s1 := { s with err.handling := true }
  let s2 := match s1.hub.job with
    | some j => if j.answered then s1 else s1.startAnswer j 1 code (slot.getD 0xFFFF)
    | none => s1
  s2.stopAll

/-- R482, R483: what a class F record does, stored in the ring or not. -/
def State.fatalRecord (s : State) (r : ErrRec) (slot : Option Nat) : State :=
  let s1 := { s with err := s.err.latch r }
  if s1.err.handling || s1.err.offline then s1 else s1.startFatal r.code slot

/-- FATAL_HANDLING_END (R482). -/
def execFatalHandlingEnd (s : State) : Answer :=
  if s.err.handling then .next { s with err.handling := false, err.offline := true } else .next s

/-! Recording -/

/-- R486: completions that wait lose the index of a record that has been displaced. -/
def forgetSlot (old new : Err) (cq : List Completion) : List Completion :=
  if old.displaced = new.displaced && old.dropped = new.dropped then cq
  else cq.map fun x => match sget none old.log x.errIndex, sget none new.log x.errIndex with
    | some a, some b => if a.seq = b.seq then x else { x with errIndex := 0xFFFF }
    | _, _ => x

/-- R486: the HALTED completion of the running job names the record that halted it first. -/
def State.answerHalt (s : State) (o : Occ) (slot : Option Nat) : State :=
  match s.hub.job with
  | some j =>
    if o.halts && !j.answered && j.jobId = o.jobId && j.haltCode.isSome then
      { s.startAnswer j 1 o.code (slot.getD 0xFFFF) with hub.job := some { j with answered := true } }
    else s
  | none => s

/-- R396: the completion whose record this is names its slot. -/
def State.answerOcc (s : State) (o : Occ) (slot : Option Nat) : State :=
  match o.answer with
  | some x => s.answerEntry { x with errIndex := slot.getD 0xFFFF }
  | none => s

/-- R487, R496: a stored record raises the vector of its class, and freezes the counters under FREEZE_ON_ERR. -/
def State.notify (s : State) (r : ErrRec) : State :=
  let s1 := match r.cls with
    | .f => s.raiseVec 0
    | .d => s.raiseVec 1
    | .c | .k => s.raiseVec 2
  if (r.cls = .d || r.cls = .f) && s1.pmu.ctl.getLsbD 1 then { s1 with pmu.ctl := s1.pmu.ctl ||| 1 } else s1

/-- The rank by which held occurrences enter the queue (R474). -/
def Occ.before (a b : Occ) : Bool :=
  decide (b.cls.code < a.cls.code) || (a.cls = b.cls && (decide (a.code / 256 < b.code / 256)
    || (a.code / 256 = b.code / 256 && decide (a.inst < b.inst))))

/-- R473, R474: a held occurrence enters the queue when it has room. -/
def State.acceptHeld (s : State) : State :=
  match s.err.held.foldl (fun (m : Option Occ) o => match m with
      | some x => if o.before x then some o else m
      | none => some o) none with
  | none => s
  | some o => if s.err.queue.length < 256 then { s with err.held := s.err.held.erase o }.offer o else s

/-- R473 to R488: one occurrence of the queue becomes a record. -/
def State.recordOcc (s : State) (o : Occ) : State :=
  let (e, slot, rec) := s.err.record o
  let s1 := ({ s with err := e, hub.waitingCq := forgetSlot s.err e s.hub.waitingCq }.logError o)
  let s2 := (s1.answerHalt o slot).answerOcc o slot
  match rec with
  | none => s2
  | some r =>
    let s3 := if slot.isSome then s2.notify r else s2
    let s4 := if r.cls = .d || r.cls = .f then s3.mssEvent [0xF0] r.bytes else s3
    if r.cls = .f then s4.fatalRecord r slot else s4

/-- ERROR_RECORD (R473 to R480, R485 to R488): the oldest occurrence of the queue is recorded. -/
def execErrorRecord (s : State) : Answer :=
  match s.err.queue with
  | [] => .next s
  | o :: rest => .next (afterSnoop s ({ s with err.queue := rest }.acceptHeld.recordOcc o))

/-! Registers -/

/-- R481, R489: a write of ERR_VALID. -/
def State.errValidWrite (s : State) (w : Word32) : State := { s with err.valid := s.err.valid &&& ~~~w }

/-- RECORD_ACKNOWLEDGE (R481, R484): open while OFFLINE too. -/
def execRecordAcknowledge (w : Word32) (s : State) : Answer :=
  .next (if s.pwr.stagesOn && s.hub.linkUp then s.errValidWrite w else s)

/-- R483, R489: a write of ERR_FATAL_STATUS; MORE clears when both entries are clear. -/
def State.fatalStatusWrite (s : State) (w : Word32) : State :=
  let f0 := if w.getLsbD 0 then none else s.err.fatal0
  let f1 := if w.getLsbD 1 then none else s.err.fatal1
  { s with err := { s.err with fatal0 := f0, fatal1 := f1, more := if f0.isNone && f1.isNone then 0 else s.err.more } }

/-- FATAL_CLEAR (R483): by the host or through the MSS. -/
def execFatalClear (w : Word32) (s : State) : Answer := .next (s.fatalStatusWrite w)

/-- Does the write reach the lower half? -/
def writesLow : RegWrite → Bool
  | .all _ | .low _ => true
  | .high _ => false

/-- R489: a write of ERR_INJECT: ARM submits one occurrence with INJECTED set and a payload of 0. -/
def State.errInject (s : State) (w : RegWrite) : State :=
  let h := mergeWrite s.err.injHeld w
  let v := h.toNat
  let s1 := { s with err.injHeld := h }
  if writesLow w && bitAt v 25 && v % 256 ≠ 0 then
    s1.offer ⟨v % 65536, ErrClass.ofCode (fld v 16 2), fld v 18 7, s.pwr.aoTime, s.stepNow, s.jobIdNow, 0, true, false, none⟩
  else s1

/-- ERR_INJECT (R489). -/
def execErrInject (w : RegWrite) (s : State) : Answer := s.onBar fun t => t.errInject w

end Sys2Proof.Machine
end

