-- ==== Sys2Proof/Machine/Resets.lean ====
section
/-! DEFINITION. The three resets (R405, R406), the loss of supplies that wipes everything but the always-on domain and the
MSS (R409, R421), and the host link's coming and going (R407). -/

namespace Sys2Proof.Machine

/-! What each reset leaves -/

/-- R406, R427, R432, R438: power management after a cold reset: the always-on domain, its latches and the plan stay. -/
def Pwr.cold (p : Pwr) : Pwr :=
  { Pwr.reset with
    aoTime := p.aoTime, aoMatch := p.aoMatch, rcFallback := p.rcFallback, cmps := p.cmps
    thermTrip := p.thermTrip, leakLatch := p.leakLatch, vinHold := p.vinHold, hubLost := p.hubLost, vstbyOk := p.vstbyOk
    vinLow := p.vinLow, vinHigh := p.vinHigh
    fC0 := p.fC0, fC1 := p.fC1, fHub := p.fHub, vddUpC0 := p.vddUpC0, vddUpC1 := p.vddUpC1, vddUpHub := p.vddUpHub
    poweredHours := p.poweredHours }

/-- R252: what the MSS knows of a module. -/
def Laser.known (l : Laser) : Laser :=
  { Laser.reset with
    identified := l.identified, faultN := l.faultN, cls := l.cls, grid := l.grid, faultReg := l.faultReg, temp := l.temp
    power := l.power, assigned := l.assigned }

/-- R252, R406, R463, R489: everything at its reset value but what a cold reset keeps, and what the MSS knows. -/
def State.wiped (s : State) : State :=
  { State.reset with
    ident := s.ident
    nv := s.nv
    top := { State.reset.top with present := BitVec.ofNat 64 (2 ^ s.ident.grade.cores - 1) }
    err := { Err.reset with fatal0 := s.err.fatal0, fatal1 := s.err.fatal1, more := s.err.more }
    pwr := s.pwr.cold
    mss := { s.mss with routineImage := none, routineXfer := none }
    hub.perstN := s.hub.perstN
    fab.lasers := s.fab.lasers.map Laser.known
    sent := s.sent
    fresh := s.fresh
    pending := s.pending }

/-- R405, R452: a cold reset is triggered: the device is reset, and training, zeroing and enumeration are still to come. -/
def State.triggerCold (s : State) : State := { s.logReset.wiped with top.coldDue := true, hub.linkUp := false }

/-- R238: a port as enumeration finds it. -/
def enumPort : Option Expander → T2Port
  | none => { T2Port.reset with cause := 1 }
  | some e =>
    if e.supported && (e.width = 8 || e.width = 16) && (e.speed = 1 || e.speed = 2) then
      ⟨true, e.width.toNat, e.speed.toNat, true, false, 0, e.capacity.toNat⟩
    else { T2Port.reset with cause := 2 }

/-- R238: both ports enumerated: at most 4 TiB is mapped, and an interleave of unequal ports is refused. -/
def State.enumerate (s : State) (intlv : Bool) (e0 e1 : Option Expander) : State :=
  let p0 := enumPort e0
  let p1 := enumPort e1
  let refused := intlv && decide (p0.capacity ≠ p1.capacity)
  let c0 := min p0.capacity (if intlv && !refused then 8192 else 16384)
  let c1 := min p1.capacity (if intlv && !refused then 8192 else 16384 - c0)
  { s with
    mem.intlv := intlv
    mem.t2 := ssetList T2Port.reset [] 0 [{ p0 with capacity := c0, mapped := p0.mapped && decide (0 < c0), intlvRefused := refused },
      { p1 with capacity := c1, mapped := p1.mapped && decide (0 < c1), intlvRefused := refused }]
    mem.t2Enumerated := true }

/-- R409, R421, R438: the power-entry stages turn off: everything but the always-on domain and the MSS is lost. -/
def State.stagesOff (s : State) : State :=
  let t := s.wiped
  { t with pwr := { t.pwr with stagesOn := false, state := .standby }, hub.linkUp := false }

/-- R236, R423: the `ns` stacks of both dies in self-refresh. -/
def selfRefreshAll (ns : Nat) : SMap Bool := (List.range ns).map (fun n => (n, true)) ++ (List.range ns).map fun n => (16 + n, true)

/-- Power management after a warm or hub-preserving reset: its registers at their reset values, its measurements, its
latches and the device's planned clocks as they stand (R406, R417), the stacks in self-refresh (R236). -/
def Pwr.warm (p : Pwr) (ns : Nat) : Pwr :=
  { p with
    ctl := Pwr.reset.ctl, pkgLimit := Pwr.reset.pkgLimit, pkgLimitNext := Pwr.reset.pkgLimitNext
    selfRefresh := selfRefreshAll ns
    tjThrottle := Pwr.reset.tjThrottle, inlet := Pwr.reset.inlet, flow := Pwr.reset.flow, stale := true
    agingCtl := Pwr.reset.agingCtl, waiting := [] }

/-- R406: a die's controller after a warm or hub-preserving reset: counters and contents stay. -/
def DieMem.warm (x : DieMem) : DieMem :=
  { x with ctl := DieMem.reset.ctl, errAddr := 0, errStack := 0, errValid := false, injHeld := 0 }

/-- R258, R274, R406: the fabric after a warm reset: the laser registers stay, and what counts from cold reset. -/
def Fab.warm (f : Fab) : Fab :=
  { Fab.reset with
    lasers := f.lasers
    applied := f.applied
    sseqNext := f.sseqNext
    ports := f.ports.foldl (fun m x => sset Port.reset m x.1 { Port.reset with trained := x.2.trained }) [] }

/-- R406: what warm and hub-preserving resets do alike. -/
def State.softReset (s : State) (last : Nat) : State :=
  let t := (s.lapseJob).stopEngines
  { t with
    top.armed := false
    top.last := last
    cores := t.cores.map fun k => { Core.reset with m.arrayFaults := k.m.arrayFaults }
    hub := { Hub.reset with
      flags := t.hub.flags.filter fun p => decide (p.1 < 64)
      linkUp := t.hub.linkUp, hdmCommitted := t.hub.hdmCommitted, perstN := t.hub.perstN
      msixTable := t.hub.msixTable, pba := t.hub.pba, snoop := t.hub.snoop, bisnp := t.hub.bisnp, resetSince := true }
    err.injHeld := 0
    err.ckWin := [0]
    mem.die0 := t.mem.die0.warm
    mem.die1 := t.mem.die1.warm
    cle := Cle.reset
    pue0 := Pue.reset
    pue1 := Pue.reset
    cke := { Cke.reset with c := t.cke.c, lost := t.cke.lost, lostCount := t.cke.lostCount }
    pwr := t.pwr.warm t.ident.grade.stacks
    fab.reqs := [] }

/-- R406, R498: a warm reset. The link is retrained with a fresh configuration; under Function Level Reset it stays up. The
images written are counted on from cold reset. -/
def State.warmReset (s : State) (keepLink hdm : Bool) : State :=
  let t := s.logReset.softReset 1
  { t with
    hub.msixTable := []
    hub.pba := 0
    hub.linkUp := keepLink
    hub.hdmCommitted := hdm
    hub.snoop := []
    hub.bisnp := []
    pmu := { Pmu.reset with seq := t.pmu.seq }
    fab := t.fab.warm
    mss.routineImage := none
    mss.routineXfer := none
    routineIds := [] }

/-- R397, R406: a hub-preserving reset: a job ends with RESET, and fabric, link, configuration and the hub's monitor
stay. -/
def State.hubReset (s : State) : State :=
  let s1 := match s.hub.job with
    | some j => if j.answered then s else s.startAnswer j 6 0 0xFFFF
    | none => s
  let s2 := match s1.hub.susp with
    | some p => if p.job.answered then s1 else s1.startAnswer p.job 6 0 0xFFFF
    | none => s1
  s2.logReset.softReset 2

/-! TOP_RESET -/

/-- R405: a write of TOP_RESET. -/
def State.topResetWrite (s : State) (w : Word32) (hdm : Bool) : State :=
  let v := w.toNat
  if v % 256 = 0x5A then { s with top.armed := true }
  else if v % 256 ≠ 0 then { s with top.armed := false }
  else if !s.top.armed || fld v 8 3 = 0 then s
  else if bitAt v 8 then s.triggerCold
  else if bitAt v 9 then s.warmReset true hdm
  else s.hubReset

/-- May the host write TOP_RESET (R484)? -/
def State.resetOpen (s : State) : Bool := s.pwr.stagesOn && s.hub.linkUp

/-- A write of TOP_RESET by the host. -/
def State.hostReset (s : State) (w : Word32) (hdm : Bool) : State := if s.resetOpen then s.topResetWrite w hdm else s

/-- RESET_ARM (R405). -/
def execResetArm (w : Word32) (s : State) : Answer := .next (s.hostReset w s.hub.hdmCommitted)

/-- RESET_DISARM (R405). -/
def execResetDisarm (w : Word32) (s : State) : Answer := .next (s.hostReset w s.hub.hdmCommitted)

/-- TOP_RESET_ARM_EXPIRY (R405): 1 ms after an arming write. -/
def execTopResetArmExpiry (s : State) : Answer := .next { s with top.armed := false }

/-- HUB_PRESERVING_RESET (R405, R406): a write of TOP_RESET. -/
def execHubPreservingReset (w : Word32) (s : State) : Answer := .next (s.hostReset w s.hub.hdmCommitted)

/-- WARM_RESET (R405, R406); `hdm` tells whether the host commits the HDM decoder again (R386). PERST_N leaves the link
down until it deasserts. -/
def execWarmReset (trigger : WarmTrigger) (hdm : Bool) (s : State) : Answer :=
  if !s.pwr.stagesOn then .next s
  else match trigger with
    | .register w => .next (s.hostReset w hdm)
    | .perst => .next { s.warmReset false false with hub.perstN := false }
    | .hotReset => .next (s.warmReset true hdm)
    | .linkDisable => .next (s.warmReset true hdm)
    | .flr => .next (s.warmReset true hdm)

/-- PERST_N_DEASSERT (R406, R456): the link trains, unless the MSS is in RECOVERY, and the host configures it. -/
def execPerstNDeassert (hdm : Bool) (s : State) : Answer :=
  let s1 := { s with hub.perstN := true }
  .next (if s.pwr.stagesOn && s.mss.st ≠ .recovery && !s.pwr.hubLost then
    { s1 with hub.linkUp := true, hub.hdmCommitted := hdm } else s1)

/-! The host link -/

/-- HOST_LINK_DOWN (R407): the link is lost without a reset trigger. -/
def execHostLinkDown (s : State) : Answer :=
  if s.hub.linkUp then .next ({ s with hub.linkUp := false }.raise 0x0C05 .d 0 0) else .next s

/-- HOST_LINK_RETRAIN (R396, R407): the link is back, and the completions held are written. -/
def execHostLinkRetrain (s : State) : Answer :=
  if !s.hub.linkUp && s.hub.perstN && s.pwr.stagesOn && !s.pwr.hubLost then
    .next { s with hub.linkUp := true }.flushCq
  else .next s

end Sys2Proof.Machine
end

