-- ==== Sys2Proof/Machine/Power.lean ====
section
/-! DEFINITION. Power, clocks, aging and cooling (14_power_clocks_cooling.md): the 52 V input, the loss of dies and hub, the
arbiter's periods, throttling, thermal protection, re-planning, and the always-on domain. -/

namespace Sys2Proof.Machine

/-! Events of the always-on domain's own -/

/-- R483, R488: a class F record of a device whose hub loses power: the always-on domain latches it, and the MSS logs it
at once. -/
def State.latchFatal (s : State) (code inst : Nat) : State :=
  let o : Occ := ⟨code, .f, inst, s.pwr.aoTime, s.stepNow, s.jobIdNow, 0, false, false, none⟩
  { s with err := (s.err.latch (newRec o .f ((s.err.seq + 1) % 2 ^ 32))) }.logError o

/-- R409, R421: a supply fault turns every stage off. -/
def State.supplyFault (s : State) (code : Nat) : Answer :=
  if s.pwr.stagesOn then .next (s.latchFatal code 0x7F).stagesOff else .next s

/-! The 52 V input -/

/-- R520: what the TAP executes once the stages are on. -/
def tapRunning : TapInstr → TapInstr
  | .idcode => .idcode
  | .bypass | .extest | .samplePreload | .intest | .other => .bypass

/-- POWER_ENTRY_START (R409, R456, R513, R516, R520, R523): VIN is in range with standby present and nothing holds the
stages off: they start, and cold reset proceeds. -/
def execPowerEntryStart (s : State) : Answer :=
  let p := s.pwr
  if p.stagesOn || !p.vstbyOk || p.thermTrip || p.leakLatch || p.hubLost || p.vinHold || s.mss.held || s.mss.testHigh
      || s.mss.tap = .extest || s.mss.st ≠ .ready then .next s
  else .next ({ s with
    pwr.stagesOn := true, pwr.state := .idle, pwr.vinLow := false, pwr.vinHigh := false
    mss.tap := tapRunning s.mss.tap }.triggerCold)

/-- PWR_VIN_RANGE (R409, R250, R525): VIN stands at `mv` without tripping: an excursion is recorded once, the lasers go dark, and
a return to the normal range ends it. -/
def execPwrVinRange (mv : BitVec 16) (s : State) : Answer :=
  let v := mv.toNat
  let low := decide (44000 ≤ v) && decide (v < 46000)
  let high := decide (56000 < v) && decide (v ≤ 58000)
  let ok := decide (46000 ≤ v) && decide (v ≤ 56000)
  if !s.pwr.stagesOn then .next (if v < 44000 then { s with pwr.vinHold := false } else s)
  else if !(low || high || ok) then .next s
  else
    let s1 := if (low && !s.pwr.vinLow) || (high && !s.pwr.vinHigh) then s.raise 0x0D03 .c 0x7F 0 else s
    .next { s1 with pwr.vinLow := low, pwr.vinHigh := high }.settleLight

/-- PWR_BROWNOUT (R409). -/
def execPwrBrownout (s : State) : Answer := s.supplyFault 0x0D0C

/-- PWR_VIN_OV (R409). -/
def execPwrVinOv (s : State) : Answer := s.supplyFault 0x0D0D

/-- PWR_OCP (R409). -/
def execPwrOcp (s : State) : Answer := s.supplyFault 0x0D0E

/-- R411, R433: a die goes: its cores' commands are abandoned, its credits fall at once (R417), its HBM is a hole, its
windows read 0, and the job halts. -/
def State.powerDownDie (s : State) (d : Nat) : State :=
  let mine := fun n : Nat => s.present n && decide (s.dieOfCore n = d)
  let s1 := (List.finRange 64).foldl (fun t c => if mine c.val then t.modCore c Core.abandon else t) s
  let s2 := s1.setDie d { s1.mem.die d with offline := true }
  let s3 := { s2 with
    pwr.die0Lost := s2.pwr.die0Lost || d = 0
    pwr.die1Lost := s2.pwr.die1Lost || d = 1
    pwr.credits := s2.pwr.credits.filter fun x => !(if x.who.unit = 5 then x.who.owner = d else mine x.who.owner)
    pwr.waiting := s2.pwr.waiting.filter fun x => !(if x.who.unit = 5 then x.who.owner = d else mine x.who.owner) }
  s3.loseDie d 0x0D08 d 0

/-- PWR_DIE_LOST (R411). -/
def execPwrDieLost (die : Fin 2) (s : State) : Answer :=
  if s.pwr.stagesOn && !s.dieDown die.val then .next (s.powerDownDie die.val) else .next s

/-- R412, R433: the hub is lost: the device is off until THERMTRIP_N_DEASSERT's condition. -/
def State.loseHub (s : State) : State := { (s.latchFatal 0x0D0F 2).stagesOff with pwr.hubLost := true }

/-- PWR_HUB_LOST (R412). -/
def execPwrHubLost (s : State) : Answer := if s.pwr.stagesOn then .next s.loseHub else .next s

/-! The arbiter -/

/-- R418, R420: marks non-PUE holders in ascending order of grant time until the marked credits cover `need`; a credit
marked before counts, and passes to no waiter if the need is an excess over the budget. -/
def markCredits (s : State) (excess : Bool) : Nat → List Credit → List Credit
  | _, [] => []
  | need, x :: xs =>
    let n := s.scaled x.who x.size
    if x.who.unit = 5 then x :: markCredits s excess need xs
    else if x.marked then { x with excess := x.excess || (excess && decide (0 < need)) } :: markCredits s excess (need - n) xs
    else if need = 0 then x :: markCredits s excess 0 xs
    else { x with marked := true, excess := excess } :: markCredits s excess (need - n) xs

/-- GRANT_PERIOD (R413 to R416, R418, R420): a new 1 µs period with what was measured in the last one: VIN in mV, input current
in units of 10 mA, package power and uncredited draw in W. -/
def execGrantPeriod (vin iin : BitVec 16) (pkg uncred : BitVec 13) (s : State) : Answer :=
  if !s.pwr.stagesOn then .next s
  else
    let p := s.pwr
    let s1 := { s with pwr := { p with
      period := p.period + 1
      pkgLimit := p.pkgLimitNext
      vinMv := vin.toNat, iinMa := iin.toNat, pkgW := pkg.toNat, uncredW := uncred.toNat
      uncred := (uncred.toNat :: p.uncred).take 10
      grantedHist := (0 :: p.grantedHist).take 10
      releasedHist := (0 :: p.releasedHist).take 10 } }
    if s1.pwr.budget < s1.creditsHeld then
      .next { s1 with pwr.credits := markCredits s1 true (s1.creditsHeld - s1.pwr.budget) s1.pwr.credits }.releases
    else
      let s2 := s1.releases
      .next (grantN s2.pwr.waiting.length s2)

/-- R418: AGE_US; 0 disables yields. -/
def Pwr.ageUs (p : Pwr) : Nat :=
  let a := fld p.ctl.toNat 12 12
  if a = 0 then 0 else max 16 a

/-- YIELD (R418): the oldest waiting request has waited AGE_US: holders are marked as needed for it. -/
def execYield (s : State) : Answer :=
  match s.oldestReq with
  | none => .next s
  | some r =>
    if s.pwr.ageUs = 0 || s.pwr.period < r.period + s.pwr.ageUs then .next s
    else .next { s with pwr.credits := markCredits s false (s.scaled r.who r.size - s.freeBudget) s.pwr.credits }

/-- BALLAST_RELEASE (R416, R417): the release allowance admits a ballasted credit. -/
def execBallastRelease (owner : Fin 64) (unit : Fin 6) (s : State) : Answer :=
  let w : PwrUnit := ⟨owner.val, unit.val⟩
  if s.pwr.credits.any fun x => decide (x.who = w) && x.ballast then .next (s.lapse w) else .next s

/-- CREDIT_LAPSE (R111, R155, R417): a unit has been idle for 1,024 clocks. -/
def execCreditLapse (core : CoreId) (unit : Fin 5) (s : State) : Answer := .next (s.lapse ⟨core.val, unit.val⟩)

/-! Throttling -/

/-- PWR_THROTTLE (R419): the package has been over its limits for 10 µs: the step of both dies rises; one record per
episode. -/
def execPwrThrottle (s : State) : Answer :=
  if !s.pwr.stagesOn then .next s
  else
    let s1 := { s with pwr.throttle := min 8 (s.pwr.throttle + 1), pwr.inEpisode := true }
    .next (if s.pwr.inEpisode then s1 else s1.raise 0x0D01 .c 0x7F 0)

/-- THROTTLE_DOWN (R419): both have stayed below 97% for 1 ms. -/
def execThrottleDown (s : State) : Answer :=
  let n := s.pwr.throttle - 1
  .next { s with pwr.throttle := n, pwr.inEpisode := s.pwr.inEpisode && n ≠ 0 }

/-- R437: sets a domain's thermal step (0 C0, 1 C1, 2 hub) and whether its episode goes on. -/
def Pwr.setTherm (p : Pwr) (d n : Nat) (ep : Bool) : Pwr :=
  if d = 0 then { p with thermC0 := n, inThermEpisode0 := ep }
  else if d = 1 then { p with thermC1 := n, inThermEpisode1 := ep }
  else { p with thermHub := n, inThermEpisodeHub := ep }

/-- A domain's thermal step and episode. -/
def Pwr.therm (p : Pwr) (d : Nat) : Nat × Bool :=
  if d = 0 then (p.thermC0, p.inThermEpisode0) else if d = 1 then (p.thermC1, p.inThermEpisode1) else (p.thermHub, p.inThermEpisodeHub)

/-- PWR_THERM_THROTTLE (R437): a junction of a domain has stood at the threshold for 10 µs. -/
def execPwrThermThrottle (domain : Fin 3) (s : State) : Answer :=
  if !s.pwr.stagesOn then .next s
  else
    let (n, ep) := s.pwr.therm domain.val
    let s1 := { s with pwr := s.pwr.setTherm domain.val (min 8 (n + 1)) true }
    .next (if ep then s1 else s1.raise 0x0D02 .c domain.val 0)

/-- THERM_THROTTLE_DOWN (R437): every sensor of a domain has been 3 °C below the threshold for 1 ms. -/
def execThermThrottleDown (domain : Fin 3) (s : State) : Answer :=
  let (n, ep) := s.pwr.therm domain.val
  .next { s with pwr := s.pwr.setTherm domain.val (n - 1) (ep && n - 1 ≠ 0) }

/-! Thermal and coolant protection -/

/-- PWR_TJ_CRIT (R437): a junction of C0, C1 or the hub (0 to 2), or a stack of a die (3, 4), at its critical limit for
1 ms: the critical shutdown. -/
def execPwrTjCrit (place : Fin 5) (s : State) : Answer :=
  if s.pwr.stagesOn then .next (s.latchFatal 0x0D09 (if place.val < 3 then place.val else place.val - 3)).stagesOff
  else .next s

/-- PWR_THERMTRIP (R438): the comparators assert THERMTRIP_N and turn off every stage. -/
def execPwrThermtrip (s : State) : Answer :=
  if s.pwr.thermTrip || !s.pwr.vstbyOk then .next s
  else .next { (s.latchFatal 0x0D0A 0x7F).stagesOff with pwr.thermTrip := true }

/-- PWR_LEAK (R439): LEAK_N has been low for 100 µs. -/
def execPwrLeak (s : State) : Answer :=
  if s.pwr.leakLatch || !s.pwr.vstbyOk then .next s
  else .next { (s.latchFatal 0x0D0B 0x7F).stagesOff with pwr.leakLatch := true }

/-- THERMTRIP_N_DEASSERT (R412, R438, R439): VIN has been below 44.0 V for 1 s, with the sensors cool and LEAK_N high. -/
def execThermtripNDeassert (s : State) : Answer :=
  if s.pwr.stagesOn then .next s
  else .next { s with pwr.thermTrip := false, pwr.leakLatch := false, pwr.hubLost := false, pwr.vinHold := false }

/-- R472: the INSTANCE of a power-entry stage PE_H, PE_0, PE_1. -/
def stageInst (n : Nat) : Nat := if n = 0 then 2 else n - 1

/-- PWR_STAGE_HOT (R413, R437): a power-entry stage reaches 115 °C. -/
def execPwrStageHot (stage : Fin 3) (s : State) : Answer :=
  if !s.pwr.stagesOn || bitAt s.pwr.stageHot stage.val then .next s
  else .next ({ s with pwr.stageHot := s.pwr.stageHot ||| 1 <<< stage.val }.raise 0x0D10 .c (stageInst stage.val) 0)

/-- PWR_OE_SHUTDOWN (R437): an optical engine has been at 85 °C for 1 ms. -/
def execPwrOeShutdown (engine : Fin 8) (s : State) : Answer :=
  if !s.pwr.stagesOn || bitAt s.pwr.oeDark engine.val || decide (s.ident.grade.engines ≤ engine.val) then .next s
  else .next (({ s with pwr.oeDark := s.pwr.oeDark ||| 1 <<< engine.val }.raise 0x0D05 .d 0x7F engine.val).settleLight)

/-- OE_RELIGHT (R437): a dark engine has fallen below 75 °C. -/
def execOeRelight (engine : Fin 8) (s : State) : Answer :=
  .next { s with pwr.oeDark := setFld s.pwr.oeDark engine.val 1 0 }.settleLight

/-- R413, R436: sets the reported coolant; a report that changes a cap is recorded and raises vector 9. -/
def State.coolantSet (s : State) (inlet flow : Nat) : State :=
  let s1 := { s with pwr.inlet := inlet, pwr.flow := flow, pwr.stale := false }
  if s.pwr.coolantCap = s1.pwr.coolantCap && s.pwr.lowCoolantCap = s1.pwr.lowCoolantCap then s1
  else (s1.raise 0x0D04 .c 0x7F 0).raiseVec 9

/-- R441: a write of PWR_COOLANT. -/
def State.coolantWrite (s : State) (w : Word32) : State := s.coolantSet (fld w.toNat 0 12) (fld w.toNat 12 12)

/-- COOLANT_REPORT (R436). -/
def execCoolantReport (w : Word32) (s : State) : Answer := s.onBar fun t => t.coolantWrite w

/-- COOLANT_STALE (R436): ten seconds have passed without a report. -/
def execCoolantStale (s : State) : Answer := .next { s with pwr.stale := true }

/-- R420, R441: a write of PWR_PKG_LIMIT_W takes effect at the next grant period. -/
def State.pkgLimitWrite (s : State) (w : Word32) : State := { s with pwr.pkgLimitNext := w.toNat % 8192 }

/-- PKG_LIMIT_WRITE (R420). -/
def execPkgLimitWrite (w : Word32) (s : State) : Answer := s.onBar fun t => t.pkgLimitWrite w

/-! Aging -/

/-- The plan of a domain (0 C0, 1 C1, 2 hub): mV above the fused VDD, and F in units of 12.5 MHz. -/
def Pwr.plan (p : Pwr) (d : Nat) : Nat × Nat :=
  if d = 0 then (p.vddUpC0, p.fC0) else if d = 1 then (p.vddUpC1, p.fC1) else (p.vddUpHub, p.fHub)

/-- Replaces the plan of a domain. -/
def Pwr.setPlan (p : Pwr) (d up f : Nat) : Pwr :=
  if d = 0 then { p with vddUpC0 := up, fC0 := f } else if d = 1 then { p with vddUpC1 := up, fC1 := f }
  else { p with vddUpHub := up, fHub := f }

/-- R410: a domain's VDD in mV. -/
def Pwr.vdd (p : Pwr) (d : Nat) : Nat := 660 + Config.fusedVdd d % 81 + (p.plan d).1

/-- R431: a change of the plan is recorded with the domain and the old and new values, and raises vector 9. -/
def State.replanned (s : State) (d old new : Nat) : State :=
  (s.raise 0x0D06 .c d (d + old <<< 32 + new <<< 64)).raiseVec 9

/-- R431: re-plans a domain whose slack is found short `n` times in a row: VDD first, in steps of 5 mV up to its ceiling,
then the clock, down to 750 MHz; true if the domain fails. -/
def replanN (d : Nat) : Nat → State → Bool × State
  | 0, s => (false, s)
  | n + 1, s =>
    let (up, f) := s.pwr.plan d
    if s.pwr.vdd d + 5 ≤ 820 then
      replanN d n ({ s with pwr := s.pwr.setPlan d (up + 5) f }.replanned d (s.pwr.vdd d) (s.pwr.vdd d + 5))
    else if 61 ≤ f then replanN d n ({ s with pwr := s.pwr.setPlan d up (f - 1) }.replanned d f (f - 1))
    else (true, s)

/-- R434: the causes of the aging alarm after a re-plan that began at `p0`. -/
def alarmCauses (p0 p : Pwr) (outlier : Bool) : Nat :=
  let steps := fld p.agingCtl.toNat 8 8
  let slow := steps ≠ 0 && ([0, 1, 2].any fun d => decide ((p.plan d).2 + steps ≤ 84))
  let jump := [0, 1, 2].any fun d => decide ((p0.plan d).1 + 25 < (p.plan d).1)
  b2n slow + b2n jump <<< 1 + b2n outlier <<< 2

/-- REPLAN (R430 to R434): the domains' slacks are measured and found short so many times in a row; `outlier` tells whether
some core lies more than 20 units below the median of its die. -/
def execReplan (short0 short1 shortHub : BitVec 8) (outlier : Bool) (s : State) : Answer :=
  if !s.pwr.stagesOn then .next s
  else
    let (bad0, s1) := replanN 0 short0.toNat s
    let (bad1, s2) := replanN 1 short1.toNat s1
    let (badH, s3) := replanN 2 shortHub.toNat s2
    let cause := alarmCauses s.pwr s3.pwr outlier
    let s4 := { s3 with pwr.alarm := cause ≠ 0, pwr.alarmCause := cause, pwr.replanning := false }
    let s5 := if cause ≠ 0 && !s.pwr.alarm then (s4.raise 0x0D07 .c 0x7F 0).raiseVec 9 else s4
    let s6 := if bad0 && !s5.dieDown 0 then s5.powerDownDie 0 else s5
    let s7 := if bad1 && !s6.dieDown 1 then s6.powerDownDie 1 else s6
    .next (if badH then s7.loseHub else s7)

/-! The always-on domain, and clocks -/

/-- R427: one count of the always-on counter, which runs from standby power. -/
def State.aoTick (s : State) : State := if s.pwr.vstbyOk then { s with pwr.aoTime := s.pwr.aoTime + 1 } else s

/-- AO_COMPARE (R429): an enabled comparator whose value the counter has reached fires. -/
def execAoCompare (n : Fin 8) (s : State) : Answer :=
  let x := sget AoCmp.reset s.pwr.cmps n.val
  if !x.ctl.getLsbD 0 || decide (s.pwr.aoTime.toNat < x.value.toNat) then .next s
  else
    let step := max 1 (fld x.ctl.toNat 4 28)
    let y := if x.ctl.getLsbD 1 then { x with value := x.value + BitVec.ofNat 64 step }
      else { x with ctl := x.ctl &&& ~~~(1 : Word32) }
    let s1 := { s with pwr.cmps := sset AoCmp.reset s.pwr.cmps n.val y, pwr.aoMatch := s.pwr.aoMatch ||| 1 <<< n.val }
    let s2 := if x.ctl.getLsbD 2 && s.pwr.stagesOn && s.hub.linkUp then s1.raiseVec 9 else s1
    .next (if x.ctl.getLsbD 3 then s2.mssEvent [n.val] [] else s2)

/-- AO_RC_FALLBACK (R427): no oscillation within 1 s of VSTBY coming up. -/
def execAoRcFallback (s : State) : Answer := .next { s with pwr.rcFallback := true }

/-- R422: does a core's job keep its clock running? -/
def State.clockHeld (s : State) (c : CoreId) : Bool :=
  s.jobCores.contains c && (match s.hub.jobState with
    | .running | .starting | .suspending | .terminating => true
    | .none | .halted | .suspended | .resuming => false)

/-- CORE_CLOCK_STOP (R421, R422): 50 µs without a job or a host access. -/
def execCoreClockStop (core : CoreId) (s : State) : Answer :=
  if s.clockHeld core then .next s
  else
    let m := sset false s.pwr.coreClocks core.val false
    .next { s with pwr.coreClocks := m, pwr.state := if m.isEmpty && s.pwr.state = .active then .idle else s.pwr.state }

/-- SELF_REFRESH (R423): no job is running, halted or suspended, and a present stack has seen no access for 10 ms. -/
def execSelfRefresh (die : Fin 2) (stack : Fin 10) (s : State) : Answer :=
  if s.hub.jobState = .none && s.pwr.stagesOn && decide (stack.val < s.ident.grade.stacks) then
    .next { s with pwr.selfRefresh := sset false s.pwr.selfRefresh (16 * die.val + stack.val) true }
  else .next s

end Sys2Proof.Machine
end

