-- ==== Sys2Proof/Machine/Firmware.lean ====
section
/-! DEFINITION. The firmware of the management subsystem (15_management_and_trust.md, R453 to R463, R467 to R469): image slots,
verified boot, index reservation, restarts, updates, and the end of a cold reset. -/

namespace Sys2Proof.Machine

/-! Serving -/

/-- What a request belongs to (R444): MCTP control, PLDM base, PLDM firmware update, or anything else. -/
inductive ReqClass where
  | control | base | update | other
  deriving DecidableEq, Repr

/-- R442, R446, R448, R456, R513, R516: does the MSS serve a request of a class on a transport now? A mailbox request is
one the host has handed over. -/
def State.mssServes (s : State) (tr : Transport) (c : ReqClass) : Bool :=
  !s.mss.held && s.pwr.vstbyOk
  && (!s.mss.testHigh || (c = .control && tr = .sideband))
  && (match s.mss.st with
    | .ready => true
    | .recovery => tr = .sideband && c ≠ .other
    | .booting | .restarting => false)
  && (tr = .sideband || (s.pwr.stagesOn && s.mss.own))

/-- R448: the MSS takes a message of the mailbox. -/
def State.mssTake (s : State) : Transport → State
  | .sideband => s
  | .mailbox => { s with mss.own := false }

/-- A request served by `f`, or not served at all. -/
def State.mssReq (s : State) (tr : Transport) (c : ReqClass) (f : State → State) : Answer :=
  .next (if s.mssServes tr c then f (s.mssTake tr) else s)

/-- A request with an answer. -/
def State.answerReq (s : State) (tr : Transport) (k : ReqKind) (code : ReplyCode) (nums : List Nat) (bytes : List Byte) : State :=
  s.mssReply tr ⟨k, code, nums, bytes⟩

/-- R488: an occurrence of the MSS: recorded while the hub has power; otherwise only logged, and latched if of class F. -/
def State.mssRaise (s : State) (code : Nat) (cls : ErrClass) (payload : Nat) : State :=
  if s.pwr.stagesOn then s.raise code cls 0 payload
  else
    let o : Occ := ⟨code, cls, 0, s.pwr.aoTime, s.stepNow, s.jobIdNow, payload, false, false, none⟩
    let t := s.logError o
    if cls = .f then { t with err := t.err.latch (newRec o .f ((t.err.seq + 1) % 2 ^ 32)) } else t

/-- R448: a message of no legal length that the MSS would take is refused. -/
def State.refuseLength (s : State) : State :=
  if s.mssServes .mailbox .control && (s.mss.h2mLen = 0 || decide (4096 < s.mss.h2mLen)) then
    (s.mssTake .mailbox).answerReq .mailbox .mailboxLength .error [] []
  else s

/-! Images -/

/-- A number in an image. -/
def imgNum (g : Nat → Byte) (o n : Nat) : Nat := ofLE ((List.range n).map fun i => g (o + i))

/-- Bytes of an image. -/
def imgBytesAt (g : Nat → Byte) (o n : Nat) : List Byte := (List.range n).map fun i => g (o + i)

/-- R454: the components of an image: type, offset, length, digest. -/
def imgComps (g : Nat → Byte) : List (Nat × Nat × Nat × List Byte) :=
  (List.range (min 8 (imgNum g 14 2))).map fun i =>
    let o := 16 + 64 * i
    (imgNum g o 2, imgNum g (o + 8) 8, imgNum g (o + 16) 8, imgBytesAt g (o + 32) 32)

/-- R454, R455, R463: what every image must satisfy: MAGIC, components with these types in any order before one of type 6,
each inside `room` and with its digest, a public key of type 6 with the digest given, and a signature under it. -/
def imgSound (g : Nat → Byte) (types : List Nat) (room : Nat) (keyDigest : List Byte) : Bool :=
  let cs := imgComps g
  let key := match cs.getLast? with
    | some (_, o, n, _) => imgBytesAt g o n
    | none => []
  decide (imgBytesAt g 0 8 = [0x45, 0x4C, 0x4F, 0x41, 0x4C, 0x41, 0x53, 0x31])
  && decide (imgNum g 14 2 = types.length + 1)
  && decide ((cs.map fun c => c.1).dropLast.insertionSort (· ≤ ·) = types)
  && decide ((cs.map fun c => c.1).getLast? = some 6)
  && cs.all (fun c => decide (c.2.1 + c.2.2.1 ≤ room) && decide (shake256 (imgBytesAt g c.2.1 c.2.2.1) 32 = c.2.2.2))
  && decide (key.length = 68) && decide (shake256 key 32 = keyDigest)
  && Config.xmssVerify key (shake256 (imgBytesAt g 0 0x1000) 32) (imgBytesAt g 0x1000 2820)

/-- A byte of a slot's flash: erased flash reads 0xFF. -/
def FlashSlot.byte (x : FlashSlot) (a : Nat) : Byte := sget 0xFF x.bytes a

/-- R454: VERSION and SVN of the image in a slot. -/
def FlashSlot.version (x : FlashSlot) : Nat := match x.factory with
  | some f => f.1
  | none => imgNum x.byte 8 4
def FlashSlot.svn (x : FlashSlot) : Nat := match x.factory with
  | some f => f.2.1
  | none => imgNum x.byte 12 1

/-- R455: is a slot valid? The image of manufacture is genuine, so its key and its SVN decide. -/
def Nv.slotValid (m : Nv) (x : FlashSlot) : Bool :=
  x.complete && decide (m.fwSvn ≤ x.svn) && (match x.factory with
    | some f => !bitAt m.revoked f.2.2
    | none =>
      let k := imgNum x.byte 13 1
      decide (k < 4) && !bitAt m.revoked k && imgSound x.byte [1, 2, 3, 4] 0x2000000 (Config.fuseKeyDigest k))

/-- A slot: false is A. -/
def Mss.slot (m : Mss) (b : Bool) : FlashSlot := if b then m.slotB else m.slotA

/-- Replaces a slot. -/
def Mss.setSlot (m : Mss) (b : Bool) (x : FlashSlot) : Mss := if b then { m with slotB := x } else { m with slotA := x }

/-! Index reservation -/

/-- R467 to R469: reserves one more block of signing indices in flash. -/
def State.reserveBlock (s : State) : State :=
  let m := s.mss
  if 2 ^ 30 ≤ s.nv.reserved then s
  else if m.failA && m.failB then ({ s with mss.stateFail := true }.mssRaise 0x0E05 .d 0)
  else ({ s with nv.reserved := s.nv.reserved + 1, mss.stateFail := false }.logInfo 0x0E84 (s.nv.reserved + 1))

/-- R468: after a boot or restart signing goes on from a new block. -/
def State.freshBlock (s : State) : State :=
  let r := s.nv.reserved
  let s1 := s.reserveBlock
  if r < s1.nv.reserved then { s1 with mss.nextIndex := 1024 * r, mss.signReady := true }
  else { s1 with mss.signReady := false, mss.exhausted := s1.mss.exhausted || decide (2 ^ 30 ≤ r) }

/-- R468, R469: takes one index, reserving the next block when 64 or fewer are left. -/
def State.takeIndex (s : State) : Option (Nat × State) :=
  let m := s.mss
  if !m.signReady || m.exhausted || m.stateFail then none
  else
    let i := m.nextIndex
    let s1 := { s with mss.nextIndex := i + 1, mss.exhausted := decide (i + 1 = 2 ^ 40) }
    some (i, if 1024 * s.nv.reserved ≤ i + 1 + 64 then s1.reserveBlock else s1)

/-! Boot -/

/-- R456: one slot is tried unless one has been found or it is the one to skip; a rejected slot is recorded. -/
def trySlot (skip : Option Bool) (x : Option Bool × State) (b : Bool) : Option Bool × State :=
  if x.1.isSome || skip = some b then x
  else if x.2.nv.slotValid (x.2.mss.slot b) then (some b, x.2)
  else (none, x.2.mssRaise 0x0E01 .c (b2n b))

/-- R456, R460: the slot a boot loads: each slot it rejects is recorded, and a PENDING slot that fails for the third time
is dropped. -/
def State.selectSlot (s : State) : Option Bool × State :=
  let m := s.mss
  let rest := fun (t : State) (skip : Option Bool) => [t.mss.active, !t.mss.active].foldl (trySlot skip) (none, t)
  match m.pending with
  | none => rest s none
  | some (b, n) =>
    if 3 ≤ n then rest ({ s with mss.pending := none }.mssRaise 0x0E03 .d (b2n b)) (some b)
    else
      let s1 := { s with mss.pending := some (b, n + 1) }
      if s.nv.slotValid (m.slot b) then (some b, s1)
      else
        let s2 := s1.mssRaise 0x0E01 .c (b2n b)
        rest (if n + 1 = 3 then { s2 with mss.pending := none }.mssRaise 0x0E03 .d (b2n b) else s2) (some b)

/-- R460: the running slot becomes ACTIVE. -/
def State.promote (s : State) : State :=
  match s.mss.pending with
  | some (b, _) =>
    if b = s.mss.running then ({ s with mss.active := b, mss.pending := none }.logInfo 0x0E82 (b2n b)) else s
  | none => s

/-- R452, R473, R488: the occurrences `t` raised since `s` are logged: with the stages on, a cold reset or the loss of the
stages wipes the error block at the end of a boot. -/
def State.logRaised (s t : State) : State := (t.err.queue.drop s.err.queue.length).foldl State.logError t

/-- R456: the MSS, begun to boot from `s0`, runs its firmware from slot `b`. -/
def State.bootSlot (s : State) (s0 : State) (b : Bool) : State :=
  let x := s.mss.slot b
  let s2 := { s with mss.st := .ready, mss.running := b, mss.runVersion := x.version, mss.runSvn := x.svn }
  let s3 := (s2.logInfo 0x0E80 (b2n b + x.version <<< 32)).freshBlock
  (State.logRaised s0 (if s3.pwr.stagesOn then s3 else s3.promote)).refuseLength

/-- R456: the MSS, begun to boot from `s0`, finds no slot: RECOVERY. -/
def State.bootRecovery (s : State) (s0 : State) : State :=
  let s2 := (State.logRaised s0 { s with mss.st := .recovery }).latchFatal 0x0E02 0
  if s2.pwr.stagesOn then s2.stagesOff else s2

/-- R456, R460, R468: the boot loader loads a slot, or the MSS enters RECOVERY with the stages off. The firmware starts with
nothing agreed with any requester. -/
def State.bootMss (s : State) : State :=
  let s0 := { s with
    mss.st := .booting, mss.update := none, mss.routineXfer := none, mss.spdmSide := Spdm.reset, mss.spdmMail := Spdm.reset
    mss.m2hQueue := [] }
  let r := s0.selectSlot
  match r.1 with
  | some b => r.2.bootSlot s0 b
  | none => r.2.bootRecovery s0

/-- R462: an MSS restart: it boots again, and with VIN present the rest of the device is cold-reset. -/
def State.restartMss (s : State) (trigger : Nat) : State :=
  let s1 := (s.logInfo 0x0E86 trigger).bootMss
  if s1.pwr.stagesOn then s1.triggerCold else s1

/-- BOOT (R442, R456, R462, R516): VSTBY enters range with the MGMT_ADDR straps sampled, or MSS_HOLD_N is released. -/
def execBoot (strap : Option (BitVec 2)) (s : State) : Answer :=
  match strap with
  | some v => .next ({ s with
      pwr.vstbyOk := true
      mss.mgmtAddr := v.toNat, mss.held := false, mss.dyn := none, mss.alert := false, mss.ibi := false }.restartMss 1)
  | none => if s.mss.held then .next ({ s with mss.held := false }.restartMss 2) else .next s

/-- R457: the MSS streams the hub firmware and the routine component into the hub, each read again once if its digest is
not the one verified at boot. A second mismatch latches MSS_BOOT_FAIL and leaves the device in STANDBY. -/
def State.streamFails (s : State) : State := (s.latchFatal 0x0E02 0).stagesOff

/-- COLD_RESET (R236, R238, R405, R406, R457): triggered by a write of TOP_RESET, or earlier by power-on or the MSS.
`badHub` and `badRoutines` tell how many reads of a component had another digest. The T2_INTLV strap is sampled and both
tier-2 ports are enumerated; HBM is zero, with INIT_DONE still to come. -/
def execColdReset (w : Option Word32) (badHub badRoutines : Fin 3) (strap : Bool) (e0 e1 : Option Expander) (s : State) : Answer :=
  let s1 := match w with
    | some v => s.hostReset v s.hub.hdmCommitted
    | none => s
  if s1.top.coldDue && s1.pwr.stagesOn then
    if badHub = 2 ∨ badRoutines = 2 then .next s1.streamFails
    else .next { s1.enumerate strap e0 e1 with top.coldDue := false, hub.linkUp := s1.hub.perstN }
  else .next s1

/-- MSS_WATCHDOG (R447, R468): the firmware restarts from its verified copy and signs from a new block. -/
def execMssWatchdog (s : State) : Answer :=
  if s.mss.st = .ready && !s.mss.held then .next ((s.mssRaise 0x0E06 .c 0).freshBlock) else .next s

/-- MSS_RESTART (R445, R462): refused during a job unless FORCE; the answer goes out first. -/
def execMssRestart (tr : Transport) (force : Bool) (s : State) : Answer :=
  s.mssReq tr .other fun t =>
    let busy := match t.hub.jobState with
      | .running | .halted | .suspended => true
      | .none | .starting | .suspending | .resuming | .terminating => false
    if busy && !force then t.answerReq tr .mssRestart .jobState [] []
    else (t.answerReq tr .mssRestart .success [] []).restartMss 0

/-- R236: every line of a die's HBM holds zeros and valid check bytes. -/
def State.zeroDie (s : State) (d : Nat) : State :=
  { s with
    mem.bytes := s.mem.bytes.filter fun p => p.1 / die1Base != d
    mem.poison := s.mem.poison.filter fun p => 64 * p.1 / die1Base != d
    mem.bad := s.mem.bad.filter fun p => 64 * p.1 / die1Base != d }

/-- INIT_DONE (R236, R460): a die has finished zeroing its HBM; with both done a PENDING slot that runs becomes ACTIVE. -/
def execInitDone (die : Fin 2) (s : State) : Answer :=
  let x := s.mem.die die.val
  if !s.pwr.stagesOn || s.top.coldDue || x.initDone || x.offline then .next s
  else
    let s1 := (s.zeroDie die.val).setDie die.val { x with initDone := true }
    .next (if s1.memReady && s1.mss.st = .ready then s1.promote else s1)

/-- LOG_FLUSH (R452, R453): entries not yet in flash are written to both devices; a device that fails is left aside, and
that is recorded once. -/
def execLogFlush (aOk bOk : Bool) (s : State) : Answer :=
  if s.mss.held || !s.pwr.vstbyOk then .next s
  else
    let new := (!aOk && !s.mss.failA) || (!bOk && !s.mss.failB)
    let s1 := { s with mss.failA := s.mss.failA || !aOk, mss.failB := s.mss.failB || !bOk }
    let s2 := if new then s1.mssRaise 0x0E04 .d 0 else s1
    .next { s2 with mss := s2.mss.flush }

/-! Updates -/

/-- R452, R470: logs a step of an update. -/
def State.logUpdate (s : State) (step : Nat) : State := s.logInfo 0x0E81 (step + b2n (!s.mss.running) <<< 32)

/-- REQUEST_UPDATE (R459): takes the update lock for its transport. -/
def execRequestUpdate (tr : Transport) (s : State) : Answer :=
  s.mssReq tr .update fun t => match t.mss.update with
    | some _ => t.answerReq tr .requestUpdate .alreadyInUpdateMode [] []
    | none => ({ t with mss.update := some ⟨tr, .requested, 0⟩ }.logUpdate 0).answerReq tr .requestUpdate .success [] []

/-- A request of the update's holder at one of some stages (R458). -/
def State.onUpdate (s : State) (tr : Transport) (k : ReqKind) (stages : List UpdateStage) (f : State → Update → State) : Answer :=
  s.mssReq tr .update fun t => match t.mss.update with
    | some u =>
      if u.agent ≠ tr then t.answerReq tr k .notInUpdateMode [] []
      else if stages.contains u.stage then f t u
      else t.answerReq tr k .invalidState [] []
    | none => t.answerReq tr k .notInUpdateMode [] []

/-- PASS_COMPONENT_TABLE (R458): the one component is of classification 0x000A. -/
def execPassComponentTable (tr : Transport) (cls : BitVec 16) (s : State) : Answer :=
  s.onUpdate tr .passComponentTable [.requested] fun t u =>
    if cls ≠ 0x000A then t.answerReq tr .passComponentTable .unsupported [] []
    else ({ t with mss.update := some { u with stage := .table } }.logUpdate 1).answerReq tr .passComponentTable .success [] []

/-- UPDATE_COMPONENT (R458): the slot not running is erased for the image. -/
def execUpdateComponent (tr : Transport) (s : State) : Answer :=
  s.onUpdate tr .updateComponent [.table] fun t u =>
    ({ t with
        mss := { t.mss.setSlot (!t.mss.running) FlashSlot.erased with update := some { u with stage := .writing, written := 0 } } }.logUpdate
      2).answerReq tr .updateComponent .success [] []

/-- FIRMWARE_DATA (R455, R458): data is written behind what came before; after the last, COMPLETE is written and the slot
verified. -/
def execFirmwareData (tr : Transport) (bytes : List Byte) (last : Bool) (s : State) : Answer :=
  s.onUpdate tr .firmwareData [.writing] fun t u =>
    let b := !t.mss.running
    let x := t.mss.slot b
    if (if b then t.mss.failB else t.mss.failA) || decide (0x2000000 < u.written + bytes.length) then
      t.answerReq tr .firmwareData .error [] []
    else
      let y := { x with bytes := ssetList 0xFF x.bytes u.written bytes, complete := last }
      let v := t.nv.slotValid y
      let t1 := { t with mss := { t.mss.setSlot b y with
        update := some { u with written := u.written + bytes.length, stage := if last && v then .verified else u.stage } } }
      if last then (t1.logUpdate 3).answerReq tr .verifyComplete (if v then .success else .error) [] []
      else t1.answerReq tr .firmwareData .success [] []

/-- R459: the lock is released; without activation the slot's COMPLETE word is erased. -/
def State.releaseUpdate (s : State) : State :=
  let b := !s.mss.running
  { s with mss := { s.mss.setSlot b { s.mss.slot b with complete := false } with update := none } }

/-- ACTIVATE_FIRMWARE (R458, R460): the updated slot is PENDING; self-contained activation is not supported. -/
def execActivateFirmware (tr : Transport) (selfContained : Bool) (s : State) : Answer :=
  s.onUpdate tr .activateFirmware [.verified] fun t _ =>
    if selfContained then t.answerReq tr .activateFirmware .unsupported [] []
    else ({ t with mss.pending := some (!t.mss.running, 0), mss.update := none }.logUpdate 4).answerReq tr
      .activateFirmware .success [] []

/-- CANCEL_UPDATE (R459). -/
def execCancelUpdate (tr : Transport) (s : State) : Answer :=
  s.onUpdate tr .cancelUpdate [.requested, .table, .writing, .verified] fun t _ =>
    (t.releaseUpdate.logUpdate 5).answerReq tr .cancelUpdate .success [] []

/-- UPDATE_LOCK_TIMEOUT (R459): 120 s without a request from the holder. -/
def execUpdateLockTimeout (s : State) : Answer := .next (if s.mss.update.isSome then s.releaseUpdate.logUpdate 6 else s)

/-! Vendor messages -/

/-- R484, R489: ERR_FATAL_STATUS as read. -/
def State.fatalStatus (s : State) : Nat :=
  b2n s.err.fatal0.isSome + b2n s.err.fatal1.isSome <<< 1 + b2n s.err.handling <<< 2 + b2n s.err.offline <<< 3 + s.err.more <<< 16

/-- The bytes of a fatal entry; zeros while it is empty. -/
def recBytes : Option ErrRec → List Byte
  | some r => r.bytes
  | none => List.replicate 64 0

/-- R445: the log entries held, in flash or memory, in ascending SEQ and each once. -/
def Mss.held? (m : Mss) : List LogEntry :=
  let flash := m.flashLog.flatten
  flash ++ m.log.filter fun e => !(flash.any fun f => f.seq = e.seq)

/-- LOG_READ (R445, R483): entries by SEQ, or the fatal store. -/
def execLogRead (tr : Transport) (fatal : Bool) (seq : Word32) (count : BitVec 16) (s : State) : Answer :=
  s.mssReq tr .other fun t =>
    if fatal then t.answerReq tr .logRead .success []
      (leBytes 4 t.fatalStatus ++ leBytes 4 0 ++ recBytes t.err.fatal0 ++ recBytes t.err.fatal1)
    else if count = 0 || decide (63 < count.toNat) then t.answerReq tr .logRead .invalid [] []
    else
      let es := ((t.mss.held?.filter fun e => decide (seq.toNat ≤ e.seq)).insertionSort fun a b => a.seq ≤ b.seq).take count.toNat
      t.answerReq tr .logRead .success [] (leBytes 2 es.length ++ leBytes 2 0 ++ es.flatMap LogEntry.bytes)

/-- FW_CONFIRM (R445, R461): FW_SVN is burnt up to the SVN of the running ACTIVE slot, or OWNER_SVN up to that of the
integrator image. -/
def execFwConfirm (tr : Transport) (owner : Bool) (s : State) : Answer :=
  s.mssReq tr .other fun t =>
    let m := t.mss
    if owner then
      if m.routineImage.isNone then t.answerReq tr .fwConfirm .refused [] []
      else
        let n := max t.nv.ownerSvn (min 63 m.routineSvn)
        ({ t with nv.ownerSvn := n }.logInfo 0x0E83 (t.nv.ownerSvn + n <<< 64)).answerReq tr .fwConfirm .success [] (leBytes 1 n)
    else if m.running ≠ m.active then t.answerReq tr .fwConfirm .refused [] []
    else
      let n := max t.nv.fwSvn (min 127 m.runSvn)
      ({ t with nv.fwSvn := n }.logInfo 0x0E83 (t.nv.fwSvn + n <<< 64)).answerReq tr .fwConfirm .success [] (leBytes 1 n)

/-- OWNER_KEY_SET (R445): the OWNER_KEY fuses are burnt once. -/
def execOwnerKeySet (tr : Transport) (digest : BitVec 256) (s : State) : Answer :=
  s.mssReq tr .other fun t => match t.nv.ownerKey with
    | some _ => t.answerReq tr .ownerKeySet .refused [] []
    | none => ({ t with nv.ownerKey := some digest }.logInfo 0x0E83 0).answerReq tr .ownerKeySet .success [] []

/-- R463: may an integrator image be taken? It must pass the owner key's checks and fit the RAM left. -/
def State.routineOk (s : State) (img : List Byte) : Bool :=
  let g := fun i => img.getD i 0
  match s.nv.ownerKey with
  | none => false
  | some k =>
    imgSound g [5] img.length (leBytes 32 k.toNat)
    && decide ((imgComps g).map (fun c => c.1) = [5, 6]) && decide (imgNum g 13 1 = 0) && decide (s.nv.ownerSvn ≤ imgNum g 12 1)
    && decide (img.length + Config.kolnebelBytes s.mss.runVersion ≤ 0x100000)

/-- R463: the whole image is here: it is checked, and taken in place of the last one, or refused. -/
def State.routineImageHere (s : State) (tr : Transport) (img : List Byte) : State :=
  if s.routineOk img then
    { s with
      mss.routineImage := some img
      mss.routineSvn := imgNum (fun i => img.getD i 0) 12 1
      routineIds := (Config.imageRoutines img).filter fun n => decide (0x4000 ≤ n) && decide (n ≤ 0x7FFF) }.answerReq tr
        .routineLoad .success [] []
  else (s.mssRaise 0x0E07 .c 0).answerReq tr .routineLoad .refused [] []

/-- ROUTINE_LOAD (R445, R463): a chunk of an integrator image, through the mailbox and only while no job is held. -/
def execRoutineLoad (tr : Transport) (first last : Bool) (offset total : Word32) (bytes : List Byte) (s : State) : Answer :=
  s.mssReq tr .other fun t =>
    let bad := fun (u : State) => { u with mss.routineXfer := none }.answerReq tr .routineLoad .invalid [] []
    if tr = .sideband then t.answerReq tr .routineLoad .invalid [] []
    else if t.hub.jobState ≠ .none then (t.raise 0x0205 .c 0 0).answerReq tr .routineLoad .jobState [] []
    else
      let have_ := if first then [] else match t.mss.routineXfer with
        | some x => x.bytes
        | none => []
      let known := first || t.mss.routineXfer.isSome
      let len := offset.toNat + bytes.length
      if !known || offset.toNat ≠ have_.length || 4080 < bytes.length || total.toNat < len || (last && len ≠ total.toNat) then bad t
      else if last then { t with mss.routineXfer := none }.routineImageHere tr (have_ ++ bytes)
      else { t with mss.routineXfer := some ⟨total.toNat, have_ ++ bytes⟩ }.answerReq tr .routineLoad .success [] []

end Sys2Proof.Machine
end

