-- ==== Sys2Proof/Machine/Link.lean ====
section
/-! DEFINITION. The link of a port (R253 to R268): light and training, identity, quiescing, lane failures, and the flits
that carry packets, acknowledgements and credits. -/

namespace Sys2Proof.Machine

/-! Port control -/

/-- R257, R258, R280: a write of FAB_PORT_CTL_p; EN = 0 quiesces an ACTIVE port before it is DISABLED, and clearing
QUIESCE clears QUIESCED. -/
def State.portCtlWrite (s : State) (p : Nat) (w : Word32) : State :=
  if !s.portPresent p then s
  else
    let x := s.port p
    let s1 := s.setPort p { x with
      en := w.getLsbD 0
      quiesce := w.getLsbD 1
      quiesced := x.quiesced && (w.getLsbD 1 || !w.getLsbD 0)
      fullTrain := x.fullTrain || w.getLsbD 2 }
    (if x.state = 4 && !x.quiesce && w.getLsbD 1 then s1.putCtrl p false (some .quiesce) else s1).settlePort p

/-- QUIESCE (R257): a write of FAB_PORT_CTL_p. -/
def execQuiesce (port : Fin 16) (w : Word32) (s : State) : Answer := s.onBar fun t => t.portCtlWrite port.val w

/-- PORT_DISABLE (R253): a write of FAB_PORT_CTL_p. -/
def execPortDisable (port : Fin 16) (w : Word32) (s : State) : Answer := s.onBar fun t => t.portCtlWrite port.val w

/-- FULL_TRAIN (R258): a write of FAB_PORT_CTL_p. -/
def execFullTrain (port : Fin 16) (w : Word32) (s : State) : Answer := s.onBar fun t => t.portCtlWrite port.val w

/-- QUIESCED (R257, R253): a quiescing ACTIVE port has sent and been acknowledged everything; one with EN = 0 is then
DISABLED by way of DARK. -/
def execQuiesced (port : Fin 16) (s : State) : Answer :=
  let x := s.port port.val
  if x.state = 4 && (x.quiesce || !x.en) && x.queue.isEmpty && x.unacked.isEmpty then
    .next (if x.en then s.setPort port.val { x with quiesced := true } else s.takeDown port.val 0 false)
  else .next s

/-! Light and training -/

/-- LOSS_OF_LIGHT (R253, R256, R257): an ACTIVE port enters RECOVERY unless it is quiesced; one that trains, or has failed,
goes DARK. -/
def execLossOfLight (port : Fin 16) (s : State) : Answer :=
  let p := port.val
  let x := s.port p
  if x.state = 4 then .next (if x.quiesced then s.takeDown p 1 true else s.recover p)
  else if x.state = 2 || x.state = 3 then .next (s.setPort p { x with state := 1 })
  else if x.state = 6 then .next (s.setPort p { x with state := 1 })
  else .next s

/-- LIGHT_RETURN (R253, R256, R258): a DARK or recovering port enters ACQUIRE, by fast training once it has completed a full
one; where the partner or the light does not allow it, FAST_TRAIN_FALLBACK follows. -/
def execLightReturn (port : Fin 16) (s : State) : Answer :=
  let p := port.val
  let x := s.port p
  if (x.state = 1 || x.state = 5) && s.engineLit (p / 2) then
    .next (s.setPort p { x with
      state := 2, fast := x.trained && !x.fullTrain, fullTrain := false })
  else .next s

/-- FAST_TRAIN_FALLBACK (R258): fast training gives way to full training. -/
def execFastTrainFallback (port : Fin 16) (s : State) : Answer :=
  let x := s.port port.val
  if x.state = 2 && x.fast then .next (s.setPort port.val { x with fast := false }) else .next s

/-- R245, R259: a full training returns the dead wavelengths of a port's fibres to service, with their spares. -/
def State.reviveLanes (s : State) (p : Nat) : State :=
  let e := p / 2
  let fs := s.fibresOf p
  { s with
    fab.dead := sset 0 s.fab.dead e (fs.foldl (fun d f => setFld d (9 * f) 9 0) (sget 0 s.fab.dead e))
    fab.spareFree := sset 0 s.fab.spareFree e (fs.foldl (fun d f => setFld d f 1 1) (sget 0 s.fab.spareFree e))
    fab.spareFor := fs.foldl (fun m f => sset 8 m (4 * e + f) 8) s.fab.spareFor }

/-- R255, R267: the receiver's credit counters restart; what it still holds of the old link is freed for nobody. -/
def Port.restartRx (x : Port) : Port :=
  { x with rxDed := List.replicate 8 0, rxDedFreed := List.replicate 8 0, rxPoolFreed := 0, rxGap := none }

/-- Packets that hold receive units of a port's old link hold none any more. -/
def State.forgetRx (s : State) (p : Nat) : State :=
  { s with
    fab.inbox := s.fab.inbox.map fun (q : Nat × Packet) => if q.1 = p then (0x7F, q.2) else q
    fab.ports := s.fab.ports.map fun (x : Nat × Port) => (x.1, { x.2 with
      queue := x.2.queue.map fun q => if q.held.any fun h => h.1 = p then { q with held := none } else q }) }

/-- R254, R263: what a port tells of itself in IDENT. -/
def State.identityMsg (s : State) (p : Nat) : LinkMsg :=
  .identity s.fab.devid s.fab.pkey p (sget false s.fab.split (p / 2)) (s.usableWidth p)
    ((s.laneMap p (s.usableWidth p)).map Prod.snd)

/-- TRAINING_COMPLETE (R253, R254, R258, R280): acquisition is complete on every lane after `ns` nanoseconds; the port sends
its identity. -/
def execTrainingComplete (port : Fin 16) (ns : Word32) (s : State) : Answer :=
  let p := port.val
  let x := s.port p
  if x.state = 2 then
    let s1 := if x.fast then s else s.reviveLanes p
    let s2 := s1.forgetRx p
    let y := { (s2.port p).restartRx with state := 3, trained := x.trained || !x.fast, lastTrain := min 65535 (ns.toNat / 32) }
    .next ((s2.setPort p y).putCtrl p false (some (s2.identityMsg p)))
  else .next s

/-- Sends DATA flits again. -/
def State.sendFlits (s : State) (p : Nat) (fl : List (Nat × List Byte)) : State :=
  fl.foldl (fun t f => t.putFlit p 0 f.1 none f.2) s

/-- R265: flits up to an acknowledged sequence leave the retry buffer. -/
def ackUpTo (un : List (Nat × List Byte)) (a : Nat) : List (Nat × List Byte) :=
  match un.findIdx? fun f => f.1 = a with
  | some i => un.drop (i + 1)
  | none => un

/-- R255, R267: the transmitter's credit counters restart from those of the partner's identity flits: nothing is spent that
they do not show as freed. -/
def Port.restartTx (x : Port) (id : PartnerId) : Port :=
  let ded := (List.range 8).map fun b => (id.ded.getD b 0).toNat
  { x with
    dedSpent := ded, dedFreed := ded, poolSpent := id.pool.toNat, poolFreed := id.pool.toNat, nakSeq := 0, nakCount := 0
    rxGap := none }

/-- R255: a port becomes ACTIVE with a partner. With the one it had before RECOVERY the retry buffer is replayed from
the partner's acknowledged sequence; with another, everything is discarded; sequence numbers restart at 0 unless the link
goes on. -/
def State.activate (s : State) (p width : Nat) (id : PartnerId) : State :=
  let x := s.port p
  let same := decide (x.wasDev = id.devid.toNat) && decide (x.wasPort = id.port.val)
  let y := { x.restartTx id with
    state := 4, width := width, pDev := id.devid.toNat, pPort := id.port.val, recovering := false
    pLanes := id.lanes.map Fin.val, rxFibre := id.fibres.map Fin.val }
  if x.recovering && same then
    let un := match id.ack with
      | some a => ackUpTo y.unacked a.toNat
      | none => y.unacked
    (((s.setPort p { y with unacked := un }).sendFlits p un).pump p).feed
  else
    let z := { y with txNext := 0, rxNext := 0, rxBytes := [], rxAny := false }
    if x.recovering then
      ((x.queue.foldl State.freeHeld (s.setPort p z.discard)).raise 0x080B .c p (devPayload id.devid.toNat p 0)).feed
    else ((s.setPort p z).pump p).feed

/-- IDENTITY_EXCHANGE (R254, R255, R260): the partner is refused, or the port becomes ACTIVE with the lower of the two
usable widths; after fast training it is no wider than before. -/
def execIdentityExchange (port : Fin 16) (id : PartnerId) (s : State) : Answer :=
  let p := port.val
  let x := s.port p
  if x.state ≠ 3 then .next s
  else if id.devid.toNat = s.fab.devid ∨ id.split ≠ sget false s.fab.split (p / 2) ∨ id.el9200 = false then
    .next ((s.raise 0x0807 .c p (devPayload id.devid.toNat p 0)).takeDown p 6 false)
  else
    let cap := if x.recovering && x.fast && x.width ≠ 0 then x.width else 32
    let w := min cap (min (s.usableWidth p) id.width.toNat)
    .next (if w < 8 then s.takeDown p 6 false else s.activate p w id)

/-- FAB_LINK_DOWN (R256, R275): FAB_SWITCH_HOLD_US expires in RECOVERY. -/
def execFabLinkDown (port : Fin 16) (s : State) : Answer :=
  let p := port.val
  let x := s.port p
  if x.state = 5 then
    .next (((s.raise 0x0804 .c p (devPayload x.wasDev p 0)).takeDown p 1 false).settlePort p)
  else .next s

/-! Lanes -/

/-- R259: a lane is dead; its stripe moves onto its fibre's spare where that is free. -/
def State.spareLane (s : State) (e lane : Nat) : State :=
  let f := lane / 9
  let takes := bitAt (sget 0 s.fab.spareFree e) f && lane % 9 ≠ 8
  { s with
    fab.dead := sset 0 s.fab.dead e (sget 0 s.fab.dead e ||| 1 <<< lane)
    fab.spareFor := if takes then sset 8 s.fab.spareFor (4 * e + f) (lane % 9) else s.fab.spareFor
    fab.spareFree := sset 0 s.fab.spareFree e (setFld (sget 0 s.fab.spareFree e) f 1 0) }

/-- R259, R260: a lane of a port that is not down fails: its spare takes its place, which the two ends agree in control
flits (the agreement is part of this event, assumption 73), and otherwise the port retrains at the highest width left,
or fails. -/
def State.laneFail (s : State) (e lane : Nat) : State :=
  let p := s.portOfFibre e (lane / 9)
  let x := s.port p
  if !(2 ≤ x.state && x.state ≤ 5) || bitAt (sget 0 s.fab.dead e) lane then s
  else
    let spare := bitAt (sget 0 s.fab.spareFree e) (lane / 9)
    let s1 := s.spareLane e lane
    if spare then
      (if lane % 9 = 8 then s1
       else ((if x.state = 4 then s.putCtrl p false (some (.spareRequest lane)) else s).spareLane e lane).raise 0x0802 .c p
         (devPayload s.fab.devid p 0))
    else
      let s2 := s1.raise 0x0803 .c p (devPayload s.fab.devid p 0)
      if s2.usableWidth p = 0 then s2.takeDown p 6 false
      else if x.state = 4 then (s2.putCtrl p false (some (.width (s2.usableWidth p)))).recover p
      else s2

/-- LANE_FAIL (R259, R260): a lane loses lock, or has so many symbols corrected in a window of 2^24 that it fails if the
threshold is not 0 and is exceeded. -/
def execLaneFail (engine : Fin 8) (lane : Fin 36) (symbols : Option Word32) (s : State) : Answer :=
  .next (match symbols with
    | some n => if s.fab.spareThresh ≠ 0 ∧ s.fab.spareThresh < n.toNat then s.laneFail engine.val lane.val else s
    | none => s.laneFail engine.val lane.val)

/-! Flits -/

/-- R267: a packet that arrives takes its buffer's dedicated units first. -/
def takeRx (x : Port) (p : Packet) : Port :=
  let held := x.rxDed.getD p.buf 0
  { x with rxDed := x.rxDed.set p.buf (held + min p.units (512 - held)) }

/-- R268 to R271, R276: a whole packet has arrived: a bad PTYPE or channel is dropped wherever it arrives, a bad ECRC and a
PKEY mismatch on VC2 at the destination. The rest waits for its event. -/
def State.arrive (s : State) (p : Nat) (q : Packet) (good : Bool) : State :=
  let s1 := s.setPort p (takeRx (s.port p) q)
  let refuse := fun k => (s1.drop k q).freeAt p q.buf q.units
  if vcOf q.ptype ≠ some q.vc then refuse .other
  else if q.dst = s.fab.devid && !good then refuse .ecrc
  else if q.dst = s.fab.devid && q.vc = 2 && q.pkey ≠ s.fab.pkey then refuse .other
  else { s1 with fab.inbox := s1.fab.inbox ++ [(p, q)] }

/-- R262: whole packets leave the received byte stream; a zero byte where a header would begin ends the flit body. -/
def unpackN (p : Nat) : Nat → State → State
  | 0, s => s
  | n + 1, s =>
    let x := s.port p
    match x.rxBytes with
    | [] => s
    | b :: _ =>
      if b = 0 then s.setPort p { x with rxBytes := [] }
      else match takeWire x.rxBytes with
        | none => s
        | some (q, good, rest) => unpackN p n ((s.setPort p { x with rxBytes := rest }).arrive p q good)

/-- R261: a flit's type, its sequence number, and whether its CRC is good. -/
def flitType (fl : List Byte) : Nat := fld (ofLE (fl.take 2)) 0 3
def flitSeq (fl : List Byte) : Nat := fld (ofLE (fl.take 2)) 3 13
def flitGood (fl : List Byte) : Bool := decide (fl.length = 256) && decide (crc32c (fl.take 252) = ofLE (fl.drop 252))

/-- R262, R263, R265: a DATA flit accepted in sequence, and acknowledged. -/
def State.acceptFlit (s : State) (p : Nat) (fl : List Byte) : State :=
  let x := s.port p
  let y := { x with
    rxNext := (x.rxNext + 1) % 8192, rxAny := true, rxGap := none, rxBytes := x.rxBytes ++ (fl.drop 2).take 250 }
  (unpackN p (x.rxBytes.length + 251) ((s.setPort p y).countHub 7 (portBit p) 1)).putCtrl p false none

/-- R265: a DATA flit discarded; a NAK with the last good sequence goes out when the gap opens, and when the flits
show that a resend has begun again. -/
def State.discardFlit (s : State) (p : Nat) (seq : Option Nat) : State :=
  let x := s.port p
  match x.rxGap, seq with
  | some g, none => s.setPort p { x with rxGap := some ((g + 1) % 8192) }
  | some g, some q =>
    let s1 := s.setPort p { x with rxGap := some q }
    if q = (g + 1) % 8192 then s1 else s1.putCtrl p true none
  | none, q => (s.setPort p { x with rxGap := some (q.getD x.rxNext) }).putCtrl p true none

/-- A flit that fails its CRC, or has a reserved FTYPE, is counted (R261, R280). -/
def State.countCrc (s : State) (p : Nat) : State :=
  let x := s.port p
  s.setPort p { x with crcErr := satAdd 16 x.crcErr 1 }

/-- R265: resends every unacknowledged flit after a NAK; after 8 NAKs for one sequence the port recovers instead. -/
def State.takeNak (s : State) (p ack : Nat) : State :=
  let x := s.port p
  let n := if x.nakSeq = ack then x.nakCount + 1 else 1
  let s1 := s.setPort p { x with nakSeq := ack, nakCount := n }
  if 8 ≤ n then s1.recover p
  else
    let s2 := s1.setPort p { s1.port p with retries := satAdd 16 x.retries 1 }
    ((s2.raise 0x0801 .c p (devPayload x.pDev p 0)).countHub 8 (portBit p) x.unacked.length).sendFlits p x.unacked

/-- R263, R265, R267: a control flit acknowledges, credits, and may ask for a resend or agree on a spare lane. -/
def State.control (s : State) (p : Nat) (fl : List Byte) (spare : Option (Fin 36)) : State :=
  let num := fun o n => ofLE ((fl.drop (2 + o)).take n)
  let x := s.port p
  let ack := num 0 2 % 8192
  let un := if bitAt (num 0 2) 13 then ackUpTo x.unacked ack else x.unacked
  let s1 := s.setPort p { x with
    unacked := un, dedFreed := (List.range 8).map fun b => num (2 + 2 * b) 2, poolFreed := num 18 4 }
  let s2 := match spare with
    | some l => if bitAt (sget 0 s1.fab.spareFree (p / 2)) (l.val / 9) && !bitAt (sget 0 s1.fab.dead (p / 2)) l.val
          && (s1.fibresOf p).contains (l.val / 9) then
        ((s1.putCtrl p false (some (.spareAck l.val))).spareLane (p / 2) l.val).raise 0x0802 .c p (devPayload s.fab.devid p 0)
      else s1
    | none => s1
  let s3 := if bitAt (num 0 2) 14 then s2.takeNak p ack else s2
  (s3.pump p).feed

/-- A flit reaches an ACTIVE port; `data` tells whether one whose CRC fails stood in a DATA slot. -/
def State.receiveFlit (s : State) (p : Nat) (fl : List Byte) (data : Bool) (spare : Option (Fin 36)) : State :=
  let x := s.port p
  if x.state ≠ 4 then s
  else if !flitGood fl then (let t := s.countCrc p; if data then t.discardFlit p none else t)
  else if flitType fl = 0 then
    (if flitSeq fl = x.rxNext then s.acceptFlit p fl else s.discardFlit p (some (flitSeq fl)))
  else if flitType fl ≤ 2 then s.control p fl spare
  else s.countCrc p

/-- DATA_FLIT (R261, R262, R265, R268 to R271): a DATA flit as received, 256 bytes. -/
def execDataFlit (port : Fin 16) (flit : List Byte) (s : State) : Answer := .next (s.receiveFlit port.val flit true none)

/-- R264: a control interval of a port: the lanes that came without their markers, and of them those that now lack them for
the fourth time in a row, which have lost lock. -/
def State.markInterval (s : State) (p : Nat) (unmarked : List Nat) : State :=
  let e := p / 2
  let mine := (List.range 36).filter fun l => (s.fibresOf p).contains (l / 9)
  let n := fun l => if unmarked.contains l then sget 0 s.fab.unmarked (36 * e + l) + 1 else 0
  let s1 := { s with fab.unmarked := mine.foldl (fun m l => sset 0 m (36 * e + l) (if n l = 4 then 0 else n l)) s.fab.unmarked }
  (mine.filter fun l => n l = 4).foldl (fun t l => t.laneFail e l) s1

/-- CTRL_FLIT (R263, R264): a scheduled control flit as received; `spare` is the lane its link-management message spares
(R259), `unmarked` the lanes whose markers its interval lacks (assumption 73). -/
def execCtrlFlit (port : Fin 16) (flit : List Byte) (spare : Option (Fin 36)) (unmarked : List (Fin 36)) (s : State) : Answer :=
  let t := s.receiveFlit port.val flit false spare
  .next (if (s.port port.val).state = 4 then t.markInterval port.val (unmarked.map Fin.val) else t)

/-- FLIT_NAK (R265): an XCTRL flit with NAK as received. -/
def execFlitNak (port : Fin 16) (flit : List Byte) (s : State) : Answer := .next (s.receiveFlit port.val flit false none)

end Sys2Proof.Machine
end

