-- ==== Sys2Proof/Machine/Mss.lean ====
section
/-! DEFINITION. The management subsystem's side-band, mailbox, sensors and effecters (15_management_and_trust.md, R442 to
R450). -/

namespace Sys2Proof.Machine

/-! The side-band bus -/

/-- R442, R514, R516: does the MSS drive and hear the side-band pins? -/
def State.mssAwake (s : State) : Bool :=
  !s.mss.held && s.pwr.vstbyOk && (s.mss.st = .ready || s.mss.st = .recovery)

/-- R442, R443: the MSS has a dynamic address: it is an I3C target, ALERT_N is released, and what is unsent is announced in
band. -/
def State.assignAddr (s : State) (dyn : Nat) : State :=
  let t := { s with mss.dyn := some dyn, mss.alert := false }
  if s.mss.alert then t.nudge else t

/-- SETDASA (R442): addressed to the static address 0x4C + MGMT_ADDR. -/
def execSetdasa (static dyn : BitVec 7) (s : State) : Answer :=
  .next (if s.mssAwake && s.mss.dyn.isNone && decide (static.toNat = 0x4C + s.mss.mgmtAddr) then s.assignAddr dyn.toNat else s)

/-- ENTDAA (R442). -/
def execEntdaa (dyn : BitVec 7) (s : State) : Answer :=
  .next (if s.mssAwake && s.mss.dyn.isNone then s.assignAddr dyn.toNat else s)

/-- RSTDAA (R442, R443): SMBus mode again. -/
def execRstdaa (s : State) : Answer :=
  .next (if s.mssAwake then { s with mss.dyn := none, mss.ibi := false, mss.alert := s.mss.alert || s.mss.ibi } else s)

/-- ALERT_RESPONSE (R443): the controller reads the Alert Response Address. -/
def execAlertResponse (s : State) : Answer :=
  .next (if s.mssAwake && s.mss.dyn.isNone then { s with mss.alert := false } else s)

/-- IBI_REPEAT (R443): the controller has read, or 10 ms have passed and the interrupt is raised again. -/
def execIbiRepeat (read : Bool) (s : State) : Answer :=
  .next (if s.mssAwake && s.mss.ibi then (if read then { s with mss.ibi := false } else s.emit (.ibi 0xAE)) else s)

/-! MCTP control and PLDM base -/

/-- SET_ENDPOINT_ID (R444): the bus owner assigns the side-band EID. The EIDs 0 and 255 name no endpoint. -/
def execSetEndpointId (eid : Byte) (s : State) : Answer :=
  s.mssReq .sideband .control fun t =>
    if eid = 0 || eid = 255 then t.answerReq .sideband .setEndpointId .invalid [] []
    else { t with mss.eid := some eid.toNat }.answerReq .sideband .setEndpointId .success [eid.toNat] []

/-- GET_ENDPOINT_ID (R444, R448): the mailbox endpoint has no EID. -/
def execGetEndpointId (tr : Transport) (s : State) : Answer :=
  s.mssReq tr .control fun t =>
    t.answerReq tr .getEndpointId .success [if tr = .sideband then t.mss.eid.getD 0 else 0] []

/-- GET_MCTP_VERSION_SUPPORT (R444): MCTP 1.3. -/
def execGetMctpVersionSupport (tr : Transport) (s : State) : Answer :=
  s.mssReq tr .control fun t => t.answerReq tr .mctpVersions .success [1, 3] []

/-- GET_MESSAGE_TYPE_SUPPORT (R444). -/
def execGetMessageTypeSupport (tr : Transport) (s : State) : Answer :=
  s.mssReq tr .control fun t => t.answerReq tr .messageTypes .success [0x00, 0x01, 0x05, 0x7E] []

/-- PLDM_BASE_REQUEST (R444): answered with the PLDM types supported. -/
def execPldmBaseRequest (tr : Transport) (cmd : Byte) (s : State) : Answer :=
  s.mssReq tr .base fun t => t.answerReq tr (.pldmBase cmd.toNat) .success [0, 2, 5] []

/-! The mailbox -/

/-- R16, R448, R471: a write of MSS_MB_H2M_CTL: while OWN is 1, LEN is locked. -/
def State.h2mCtlWrite (s : State) (w : Word32) : State :=
  if s.mss.own then s.cfgIgnored 0x500010 w.toNat 4
  else { s with mss.h2mLen := w.toNat % 8192, mss.own := w.getLsbD 31 }.refuseLength

/-- MAILBOX_SEND (R448): a write of MSS_MB_H2M_CTL. -/
def execMailboxSend (w : Word32) (s : State) : Answer := s.onBar fun t => t.h2mCtlWrite w

/-- R448, R471: a write of MSS_MB_M2H_CTL: clearing FULL lets the next message in. -/
def State.m2hCtlWrite (s : State) (w : Word32) : State :=
  if w.getLsbD 31 && s.mss.full then
    (let t := { s with mss.full := false }
     if s.mssAwake then t.fillM2h else t)
  else s

/-- M2H_FULL_CLEAR (R448): a write of MSS_MB_M2H_CTL. -/
def execM2hFullClear (w : Word32) (s : State) : Answer := s.onBar fun t => t.m2hCtlWrite w

/-! Sensors -/

/-- R449: is a sensor's engine, stack or module present in the grade? -/
def State.sensorPresent (s : State) (id : Nat) : Bool :=
  if 7 ≤ id && id ≤ 26 then decide ((id - 7) % 10 < s.ident.grade.stacks)
  else if 27 ≤ id && id ≤ 34 then decide (id - 27 < s.ident.grade.engines)
  else if 38 ≤ id && id ≤ 41 then decide (id - 38 < s.ident.grade.lasers)
  else if 42 ≤ id && id ≤ 77 then decide ((id - 42) / 9 < s.ident.grade.lasers)
  else true

/-- R449: the laser module a sensor belongs to. -/
def sensorModule (id : Nat) : Option Nat :=
  if 38 ≤ id && id ≤ 41 then some (id - 38) else if 42 ≤ id && id ≤ 77 then some ((id - 42) / 9) else none

/-- R449: can a present sensor be read: 4 to 37 not in STANDBY, those of a module only while it is identified? -/
def State.sensorUp (s : State) (id : Nat) : Bool :=
  if 4 ≤ id && id ≤ 37 then s.pwr.stagesOn
  else match sensorModule id with
    | some m => (s.fab.lasers.getD m Laser.reset).identified
    | none => true

/-- R449: what a sensor shows when `v` is measured: a laser module's registers (R252), PWR_COOLANT as last written, or the
measurement. -/
def State.sensorValue (s : State) (id : Nat) (v : Int) : Int :=
  match sensorModule id with
  | some m =>
    let l := s.fab.lasers.getD m Laser.reset
    (BitVec.ofNat 16 (if id ≤ 41 then l.temp else l.power.getD ((id - 42) % 9) 0)).toInt
  | none => if id = 80 then s.pwr.inlet else if id = 81 then s.pwr.flow else v

/-- R437, R441: the throttle threshold in °C. -/
def Pwr.tjLimit (p : Pwr) : Nat := max 85 (min 103 (p.tjThrottle.toNat % 128))

/-- R449: the values above which a sensor is over its warning, critical and fatal thresholds, those below which it is under
them, and its hysteresis. -/
def State.sensorLimits (s : State) (id : Nat) : List Int × List Int × Int :=
  if id = 1 then ([5600, 5800], [4600, 4400], 50)
  else if id = 2 then ([9000, 9400, 11000], [], 0)
  else if id = 3 then ([(s.pwr.effLimit : Int)], [], s.pwr.effLimit - s.pwr.effLimit * 99 / 100)
  else if id ≤ 6 then ([(s.pwr.tjLimit : Int) - 1, 107, 114], [], 2)
  else if id ≤ 26 then ([84, 94, 104], [], 2)
  else if id ≤ 34 then ([79, 84, 94], [], 2)
  else if id ≤ 37 then ([104, 114, 124], [], 2)
  else if id ≤ 41 then ([], [], 32)
  else if id ≤ 77 then ([], [1100, 1000], 0)
  else if id = 78 then ([343, 346], [317, 314], 0)
  else if id = 80 then ([300, 400], [], 20)
  else if id = 81 then ([], [550, 500], 0)
  else ([], [], 0)

/-- The highest threshold passed, from 1; 0 if none. Those up to `cur` are left only with the hysteresis `h`. -/
def passed (cur h v : Int) (ts : List Int) : Int :=
  ts.zipIdx.foldl (fun (n : Int) p =>
    let k : Int := p.2 + 1
    if (if k ≤ cur then p.1 - h < v else p.1 < v) then k else n) 0

/-- R449: the level of a sensor: 1 to 3 above its upper warning, critical and fatal thresholds, −1 and −2 below its lower
ones. A module's temperature is judged by its over-temperature bit. -/
def State.sensorLevel (s : State) (id : Nat) (cur v : Int) : Int :=
  if 38 ≤ id && id ≤ 41 then b2n (bitAt (s.fab.lasers.getD (id - 38) Laser.reset).faultReg 0)
  else
    let (up, lo, h) := s.sensorLimits id
    let u := passed cur h v up
    if 0 < u then u else -passed (-cur) h (-v) (lo.map fun x => -x)

/-- R449: the levels passed on the way from one to another, each one a crossing. -/
def crossings (a b : Int) : List Int :=
  if a < b then (List.range (b - a).toNat).map fun (i : Nat) => a + 1 + i
  else (List.range (a - b).toNat).map fun (i : Nat) => a - 1 - i

/-- R449, R452: one crossing is logged and reported. -/
def State.crossed (s : State) (id : Nat) (v level : Int) : State :=
  let x := (v % 2 ^ 32).toNat
  let l := (level % 256).toNat
  (s.logInfo 0x0E85 (id + l <<< 8 + x <<< 32)).mssEvent [id, l, x] []

/-- The highest of the readings held of some sensors. -/
def Mss.hottest (m : Mss) (lo n : Nat) : Int :=
  ((List.range n).filterMap fun i => sget none m.sensors (lo + i)).foldl max (-128)

/-- R413, R441: what a reading shows in the power registers. -/
def State.sensorShow (s : State) (id : Nat) (v : Int) : State :=
  if 4 ≤ id && id ≤ 6 then
    let p := s.pwr
    let q := if id = 4 then { p with tjC0 := v } else if id = 5 then { p with tjC1 := v } else { p with tjHub := v }
    { s with pwr := { q with tjPeak := max p.tjPeak v } }
  else if 7 ≤ id && id ≤ 26 then { s with pwr.tHbm := s.mss.hottest 7 20 }
  else if 27 ≤ id && id ≤ 34 then { s with pwr.tOe := s.mss.hottest 27 8 }
  else if 35 ≤ id && id ≤ 37 then
    (if v < 115 then { s with pwr.stageHot := setFld s.pwr.stageHot (id - 35) 1 0 } else s)
  else if id = 79 then { s with pwr.poweredHours := v.toNat % 2 ^ 24 }
  else s

/-- SENSOR_SAMPLE (R447, R449, R452): a sensor is sampled; `value` is what it measures, signed, in the sensor's unit. -/
def execSensorSample (sensor : BitVec 7) (value : Word32) (s : State) : Answer :=
  let id := sensor.toNat
  if s.mss.st ≠ .ready || !s.mssAwake || id = 0 || decide (81 < id) || !s.sensorPresent id || !s.sensorUp id then .next s
  else
    let v := s.sensorValue id value.toInt
    let cur := sget 0 s.mss.levels id
    let new := s.sensorLevel id cur v
    let s1 := { s with mss.sensors := sset none s.mss.sensors id (some v), mss.levels := sset 0 s.mss.levels id new }
    .next ((crossings cur new).foldl (fun t l => t.crossed id v l) (s1.sensorShow id v))

/-- GET_SENSOR_READING (R446, R449): a reading, or UNAVAILABLE, or not present. -/
def execGetSensorReading (tr : Transport) (sensor : BitVec 16) (s : State) : Answer :=
  s.mssReq tr .other fun t =>
    let id := sensor.toNat
    let say := fun c n => t.answerReq tr .sensorReading c n []
    if id = 0 || 81 < id then say .invalid []
    else if !t.sensorPresent id then say .notPresent [id]
    else if !t.sensorUp id then say .unavailable [id]
    else match sget none t.mss.sensors id with
      | none => say .unavailable [id]
      | some v => say .success [id, (v % 2 ^ 32).toNat, (sget 0 t.mss.levels id % 256).toNat]

/-- GET_PDR (R449): the Numeric Sensor PDR of a sensor: its hysteresis and its thresholds. -/
def execGetPdr (tr : Transport) (sensor : BitVec 16) (s : State) : Answer :=
  s.mssReq tr .other fun t =>
    let id := sensor.toNat
    if id = 0 || 81 < id then t.answerReq tr .getPdr .invalid [] []
    else
      let (up, lo, h) := t.sensorLimits id
      t.answerReq tr .getPdr .success ([id, h.toNat, up.length] ++ up.map Int.toNat ++ lo.map Int.toNat) []

/-- SET_EVENT_RECEIVER (R449). -/
def execSetEventReceiver (tr : Transport) (receiver : Byte) (s : State) : Answer :=
  s.mssReq tr .other fun t =>
    { t with mss.receiver := some (tr, receiver.toNat) }.answerReq tr .setEventReceiver .success [] []

/-! Effecters -/

/-- R450: was an effecter set within the last 10 s of always-on time? -/
def State.recent (s : State) (at_ : Option Word64) : Bool :=
  match at_ with
  | some t => decide ((s.pwr.aoTime - t).toNat ≤ 327680)
  | none => false

/-- R450: PWR_COOLANT is written with both values if both are recent. -/
def State.coolantFromMss (s : State) : State :=
  if s.pwr.stagesOn && s.recent s.mss.inletAt && s.recent s.mss.flowAt then s.coolantSet s.mss.inlet s.mss.flow else s

/-- COOLANT_INLET_EFFECTER (R450). -/
def execCoolantInletEffecter (tr : Transport) (value : BitVec 12) (s : State) : Answer :=
  s.mssReq tr .other fun t =>
    { t with mss.inlet := value.toNat, mss.inletAt := some t.pwr.aoTime }.coolantFromMss.answerReq tr (.effecter 1) .success [] []

/-- COOLANT_FLOW_EFFECTER (R450). -/
def execCoolantFlowEffecter (tr : Transport) (value : BitVec 12) (s : State) : Answer :=
  s.mssReq tr .other fun t =>
    { t with mss.flow := value.toNat, mss.flowAt := some t.pwr.aoTime }.coolantFromMss.answerReq tr (.effecter 2) .success [] []

/-- PACKAGE_LIMIT_EFFECTER (R446, R450): refused in STANDBY. -/
def execPackageLimitEffecter (tr : Transport) (w : Word32) (s : State) : Answer :=
  s.mssReq tr .other fun t =>
    if t.pwr.stagesOn then (t.pkgLimitWrite w).answerReq tr (.effecter 3) .success [] []
    else t.answerReq tr (.effecter 3) .unavailable [] []

/-- DEVICE_RESET_EFFECTER (R405, R450): the answer goes out first. -/
def execDeviceResetEffecter (tr : Transport) (s : State) : Answer :=
  s.mssReq tr .other fun t =>
    let u := t.answerReq tr (.effecter 4) .success [] []
    if u.pwr.stagesOn then u.triggerCold else u

end Sys2Proof.Machine
end

