-- ==== Sys2Proof/Machine/Pins.lean ====
section
/-! DEFINITION. Pins, straps, the test access port and the loss of standby power (18_package_pins_board.md). -/

namespace Sys2Proof.Machine

/-- R409, R516: the stages turn off without a record. -/
def State.dropStages (s : State) : State := if s.pwr.stagesOn then s.stagesOff else s

/-- TEST_MODE_HIGH (R513): the level TEST_MODE has had for 10 ms; high holds the stages off. -/
def execTestModeHigh (high : Bool) (s : State) : Answer :=
  let t := { s with mss.testHigh := high }
  .next (if high then t.dropStages else t)

/-- R516: the MSS in reset: what its firmware held is gone, its log memory, fuses and flash are not. -/
def Mss.inReset (m : Mss) : Mss :=
  { m with
    held := true, st := .booting, dyn := none, alert := false, ibi := false, eid := none, receiver := none, update := none
    routineXfer := none, inletAt := none, flowAt := none, signReady := false, m2hQueue := [] }

/-- MSS_HOLD_N_ASSERT (R516): no record is written, because the MSS is in reset. -/
def execMssHoldNAssert (s : State) : Answer :=
  if s.mss.held then .next s
  else
    let t := s.dropStages
    .next { t with mss := t.mss.inReset }

/-- TAP_INSTRUCTION (R520): everything but BYPASS and IDCODE needs the stages off and no laser enable driven. -/
def execTapInstruction (i : TapInstr) (s : State) : Answer :=
  if !s.pwr.vstbyOk then .next s
  else
    let free := !s.pwr.stagesOn && !(s.fab.lasers.any fun l => l.driven)
    .next { s with mss.tap := match i with
      | .idcode => .idcode
      | .bypass | .other => .bypass
      | .extest | .samplePreload | .intest => if free then i else .bypass }

/-- R452, R453, R467, R525: the management subsystem without standby power: its fuses, its straps' pins and what is in flash
are left. SEQ goes on from the newest entry in flash. -/
def Mss.powerLost (m : Mss) : Mss :=
  { Mss.reset with
    held := m.held, testHigh := m.testHigh
    slotA := m.slotA, slotB := m.slotB, active := m.active, pending := m.pending, certOk := m.certOk
    flashLog := m.flashLog
    logSeq := match m.flashLog.flatten.getLast? with
      | some e => e.seq
      | none => 0 }

/-- R427, R483, R525: the always-on domain without standby power. -/
def Pwr.powerLost (p : Pwr) : Pwr :=
  { p with
    vstbyOk := false, state := .off, vinHold := true
    aoTime := 0, aoMatch := 0, rcFallback := false, cmps := [] }

/-- VSTBY_LOSS (R525): every stage turns off, every output floats, and no record is written. The latched fatal records, fuses
and flash stay (R483, R453). -/
def execVstbyLoss (s : State) : Answer :=
  let t := s.stagesOff
  .next { t with pwr := t.pwr.powerLost, mss := t.mss.powerLost, fab.lasers := Fab.reset.lasers }

/-! Pins as they stand (R514). `none` is high impedance; true is the high level. -/

/-- MSS_STATUS.STATE is neither READY nor RECOVERY. -/
def State.mssBooting (s : State) : Bool := s.mss.st ≠ .ready && s.mss.st ≠ .recovery

/-- R412: is PWR_HUB_LOST latched? -/
def State.hubLostLatched (s : State) : Bool :=
  (s.err.fatal0.any fun r => r.code = 0x0D0F) || (s.err.fatal1.any fun r => r.code = 0x0D0F)

/-- FAULT_N. -/
def State.pinFaultN (s : State) : Option Bool :=
  if !s.pwr.vstbyOk || s.mss.held then none
  else some (!s.mssBooting && s.mss.st ≠ .recovery && !s.mss.testHigh
    && !(s.pwr.stagesOn && (s.err.offline || s.hubLostLatched)))

/-- LS_EN_m. -/
def State.pinLsEn (s : State) (m : Nat) : Option Bool :=
  if !s.pwr.vstbyOk || !s.pwr.stagesOn || s.top.coldDue || decide (s.ident.grade.lasers ≤ m) || s.mss.tap = .extest then none
  else some (s.lightOn m)

/-- T2_PERST_N_p: low from the start of cold reset until the ports are enumerated. -/
def State.pinT2PerstN (s : State) : Option Bool :=
  if !s.pwr.vstbyOk || !s.pwr.stagesOn then none else some (!s.top.coldDue)

/-- THERMTRIP_N, open-drain: asserted, or released. -/
def State.pinThermtripN (s : State) : Option Bool := if s.pwr.vstbyOk && !s.mss.held && s.pwr.thermTrip then some false else none

/-- ALERT_N, open-drain (R443). -/
def State.pinAlertN (s : State) : Option Bool :=
  if s.pwr.vstbyOk && !s.mss.held && !s.mssBooting && s.mss.alert && s.mss.dyn.isNone then some false else none

/-- LS_I3C_SCL and LS_I3C_SDA between transfers. -/
def State.pinLsI3c (s : State) : Option Bool :=
  if !s.pwr.vstbyOk || s.mss.held || s.mssBooting then none else some true

/-- FLASHA_CS_N and FLASHB_CS_N, and FLASHA_SCK and FLASHB_SCK, between transfers. -/
def State.pinFlashCsN (s : State) : Option Bool := if !s.pwr.vstbyOk || s.mss.held then none else some true
def State.pinFlashSck (s : State) : Option Bool := if !s.pwr.vstbyOk || s.mss.held then none else some false

/-- MGMT_SDA, FLASHA_IO0 to 3, FLASHB_IO0 to 3 and TDO between transfers. -/
def State.pinQuiet (_ : State) : Option Bool := none

/-- The TAP's IDCODE (R520). -/
def tapIdcode : Word32 := 0x0920056F

end Sys2Proof.Machine
end

