-- ==== Sys2Proof/Machine/Spdm.lean ====
section
/-! DEFINITION. Attestation (15_management_and_trust.md, R464 to R466): the SPDM responder on each transport. -/

namespace Sys2Proof.Machine

/-- What is agreed on a transport. -/
def Mss.spdm (m : Mss) : Transport → Spdm
  | .sideband => m.spdmSide
  | .mailbox => m.spdmMail

/-- Replaces what is agreed on a transport. -/
def State.setSpdm (s : State) (tr : Transport) (x : Spdm) : State :=
  match tr with
  | .sideband => { s with mss.spdmSide := x }
  | .mailbox => { s with mss.spdmMail := x }

/-- Exactly `n` bytes of a list. -/
def takeBytes (n : Nat) (l : List Byte) : List Byte := (List.range n).map fun i => l.getD i 0

/-- R465: the hash agreed, of 48 bytes. -/
def spdmHash (sha3 : Bool) (l : List Byte) : List Byte := takeBytes 48 (if sha3 then sha3x384 l else sha384 l)

/-- R465: an answer leaves; one beyond the DataTransferSize of 4,096 B is held and fetched in chunks. -/
def State.spdmAnswer (s : State) (tr : Transport) (r : Reply) : State :=
  if r.bytes.length ≤ 4096 then s.mssReply tr r
  else (s.setSpdm tr { s.mss.spdm tr with large := r.bytes }).mssReply tr ⟨r.kind, .largeResponse, r.nums, []⟩

/-- A request that needs the algorithms agreed. -/
def State.spdmReq (s : State) (tr : Transport) (k : ReqKind) (f : Bool → State → State) : Answer :=
  s.mssReq tr .other fun t => match (t.mss.spdm tr).sha3 with
    | some h => f h t
    | none => t.answerReq tr k .error [] []

/-- GET_VERSION (R465): SPDM 1.2 and 1.3; what was agreed before is dropped. -/
def execGetVersion (tr : Transport) (s : State) : Answer :=
  s.mssReq tr .other fun t =>
    (t.setSpdm tr { Spdm.reset with versioned := true }).answerReq tr .version .success [0x12, 0x13] []

/-- GET_CAPABILITIES (R465): DataTransferSize, MaxSPDMmsgSize, and CERT_CAP, CHAL_CAP, MEAS_CAP with signatures (2),
CHUNK_CAP. -/
def execGetCapabilities (tr : Transport) (s : State) : Answer :=
  s.mssReq tr .other fun t =>
    let x := t.mss.spdm tr
    if x.versioned then
      (t.setSpdm tr { x with capable := true }).answerReq tr .capabilities .success [4096, 16384, 1, 1, 2, 1] []
    else t.answerReq tr .capabilities .error [] []

/-- NEGOTIATE_ALGORITHMS (R465): the hash as the requester prefers; 1 stands for SHA3-384. -/
def execNegotiateAlgorithms (tr : Transport) (sha3 : Bool) (s : State) : Answer :=
  s.mssReq tr .other fun t =>
    let x := t.mss.spdm tr
    if x.capable then (t.setSpdm tr { x with sha3 := some sha3 }).answerReq tr .algorithms .success [b2n sha3] []
    else t.answerReq tr .algorithms .error [] []

/-- GET_DIGESTS (R464, R465): slot 0 only, and only while the chain matches its fuses. -/
def execGetDigests (tr : Transport) (s : State) : Answer :=
  s.spdmReq tr .digests fun h t =>
    if t.mss.certOk then t.spdmAnswer tr ⟨.digests, .success, [1], spdmHash h Config.certChain⟩
    else t.answerReq tr .digests .unspecified [] []

/-- GET_CERTIFICATE (R464, R465): a portion of the chain, and how much remains. -/
def execGetCertificate (tr : Transport) (slot : Byte) (offset length : BitVec 16) (s : State) : Answer :=
  s.spdmReq tr .certificate fun _ t =>
    let n := Config.certChain.length
    if slot ≠ 0 || n ≤ offset.toNat then t.answerReq tr .certificate .invalid [] []
    else if !t.mss.certOk then t.answerReq tr .certificate .unspecified [] []
    else
      let part := (Config.certChain.drop offset.toNat).take (min length.toNat 16376)
      t.spdmAnswer tr ⟨.certificate, .success, [part.length, n - offset.toNat - part.length], part⟩

/-! Signing -/

/-- R465, R467 to R469: signs a message with the next index, or says why not: at most 50 signatures a second. -/
def State.sign (s : State) (msg : List Byte) : Except ReplyCode (List Byte × State) :=
  let recent := s.mss.signTimes.filter fun t => decide ((s.pwr.aoTime - t).toNat < 32768)
  if 50 ≤ recent.length then .error .busy
  else match s.takeIndex with
    | none => .error .unspecified
    | some (i, t) => .ok (takeBytes 9893 (Config.xmssSign i msg), { t with mss.signTimes := recent ++ [s.pwr.aoTime] })

/-- R465: a signed answer: sent, or kept for RESPOND_IF_READY if it takes longer than 20 ms. -/
def State.signedAnswer (s : State) (tr : Transport) (k : ReqKind) (nums : List Nat) (body msg : List Byte) (late : Bool) : State :=
  match s.sign msg with
  | .error e => s.answerReq tr k e [] []
  | .ok (sig, t) =>
    let r : Reply := ⟨k, .success, nums, body ++ sig⟩
    if late then (t.setSpdm tr { t.mss.spdm tr with late := some r }).answerReq tr k .responseNotReady [] []
    else t.spdmAnswer tr r

/-- CHALLENGE (R465): slot 0; the answer is signed over the requester's nonce and the chain's digest. -/
def execChallenge (tr : Transport) (slot : Byte) (nonce : List Byte) (late : Bool) (s : State) : Answer :=
  s.spdmReq tr .challenge fun h t =>
    if slot ≠ 0 then t.answerReq tr .challenge .invalid [] []
    else
      let body := spdmHash h Config.certChain
      t.signedAnswer tr .challenge [] body (nonce ++ body) late

/-! Measurements -/

/-- R454: the bytes of a component of the running image; of the image of manufacture the spec does not give them. -/
def Mss.component (m : Mss) (typ : Nat) : List Byte :=
  let x := m.slot m.running
  match x.factory with
  | some f => Config.measured (1 + typ) [f.1, f.2.1, f.2.2]
  | none => match (imgComps x.byte).find? fun c => c.1 = typ with
    | some (_, o, n, _) => imgBytesAt x.byte o n
    | none => []

/-- R2: the code of a grade. -/
def Grade.code : Grade → Nat
  | .g64 => 0 | .g56 => 1 | .g48 => 2

/-- R466: the value of a block, 1 to 7. -/
def State.blockValue (s : State) (h : Bool) (i : Nat) : List Byte :=
  let m := s.mss
  if i = 1 then spdmHash h (Config.measured 1 [])
  else if i ≤ 4 then spdmHash h (m.component (i - 1))
  else if i = 5 then (match m.routineImage with
    | some img => spdmHash h img
    | none => List.replicate 48 0)
  else if i = 6 then spdmHash h (Config.measured 6
    [s.ident.grade.code, s.nv.fwSvn, s.nv.ownerSvn, s.nv.revoked, b2n s.nv.ownerKey.isSome, (s.nv.ownerKey.getD 0).toNat])
  else
    let (p, b, n) := match m.pending with
      | some (b, n) => (1, b2n b, n)
      | none => (0, 0, 0)
    spdmHash h (Config.measured 7 [b2n m.running, b2n m.active, p, b, n, m.slotA.version, m.slotB.version])

/-- R466: the value of the manifest, block 0xFD. -/
def State.manifestValue (s : State) (h : Bool) : List Byte :=
  spdmHash h ((List.range 7).flatMap fun i => s.blockValue h (i + 1))

/-- GET_MEASUREMENTS (R465, R466): the number of blocks (index 0), one block, or all of them (index 0xFF). -/
def execGetMeasurements (tr : Transport) (index : Byte) (sign : Bool) (nonce : List Byte) (late : Bool) (s : State) : Answer :=
  s.spdmReq tr .measurements fun h t =>
    let i := index.toNat
    let all := ((List.range 7).flatMap fun k => t.blockValue h (k + 1)) ++ t.manifestValue h
    let body : Option (List Nat × List Byte) :=
      if i = 0 then some ([8], [])
      else if i ≤ 7 then some ([i], t.blockValue h i)
      else if i = 0xFD then some ([i], t.manifestValue h)
      else if i = 0xFF then some ([1, 2, 3, 4, 5, 6, 7, 0xFD], all)
      else none
    match body with
    | none => t.answerReq tr .measurements .invalid [] []
    | some (nums, bytes) =>
      if sign then t.signedAnswer tr .measurements nums bytes (nonce ++ bytes) late
      else t.spdmAnswer tr ⟨.measurements, .success, nums, bytes⟩

/-- RESPOND_IF_READY (R465): the answer kept is sent. -/
def execRespondIfReady (tr : Transport) (s : State) : Answer :=
  s.mssReq tr .other fun t =>
    let x := t.mss.spdm tr
    match x.late with
    | some r => (t.setSpdm tr { x with late := none }).spdmAnswer tr r
    | none => t.answerReq tr .challenge .error [] []

/-! Chunks -/

/-- CHUNK_SEND (R465): one more chunk of a request of up to 16,384 B; the whole request is then served as a command of its
own. -/
def execChunkSend (tr : Transport) (bytes : List Byte) (last : Bool) (s : State) : Answer :=
  s.mssReq tr .other fun t =>
    let x := t.mss.spdm tr
    let all := x.chunkIn ++ bytes
    if bytes.length > 4096 || all.length > 16384 then
      (t.setSpdm tr { x with chunkIn := [] }).answerReq tr .chunkSend .invalid [] []
    else (t.setSpdm tr { x with chunkIn := if last then [] else all }).answerReq tr .chunkSend .success [all.length] []

/-- CHUNK_GET (R465): chunk `seq` of the answer held, of 4,080 B; the last one ends it. -/
def execChunkGet (tr : Transport) (seq : BitVec 16) (s : State) : Answer :=
  s.mssReq tr .other fun t =>
    let x := t.mss.spdm tr
    let o := 4080 * seq.toNat
    if x.large.length ≤ o then t.answerReq tr .chunkGet .invalid [] []
    else
      let part := (x.large.drop o).take 4080
      let done := decide (x.large.length ≤ o + 4080)
      (if done then t.setSpdm tr { x with large := [] } else t).answerReq tr .chunkGet .success [seq.toNat, b2n done] part

end Sys2Proof.Machine
end

