-- ==== Sys2Proof/Machine/View.lean ====
section
/-! DEFINITION. What the registers of BAR0 read (R5, R11 to R15, R529 to R536, and the field tables the index names): every
register of the index, by its offset. A field of access WO, a reserved bit and an offset that holds no register read 0. -/

namespace Sys2Proof.Machine

/-! Where registers are (R529, R536) -/

/-- Is `o` one of `n` offsets from `b` in steps of `st`? -/
def inArr (o b st n : Nat) : Bool := decide (b ≤ o) && (o - b) % st = 0 && decide ((o - b) / st < n)

/-- R536: does a 64-bit register start at this offset of a core window? -/
def isWide64Core (o : Nat) : Bool :=
  [0x0, 0x4008, 0x5000, 0x5018, 0x6008, 0x7180].contains o || inArr o 0x1000 8 256 || inArr o 0x7040 8 2
  || inArr o 0x7080 8 8 || inArr o 0x7100 8 10

/-- R536: does a 64-bit register start at this offset of a die window? -/
def isWide64Die (o : Nat) : Bool := [0x8, 0x180, 0x190, 0x1008].contains o

/-- R536: does a 64-bit register start at this offset of BAR0? -/
def isWide64 (off : Nat) : Bool :=
  if off < 0x100000 then [0x10, 0x20, 0x30, 0x10800].contains off || inArr off 0x100 8 8 || inArr off 0x140 8 2
  else if off < 0x200000 then
    (let o := off - 0x100000
     [0x0, 0xA008].contains o || inArr o 0x108 64 4 || inArr o 0x110 64 4 || inArr o 0x118 64 4 || inArr o 0x120 64 4
     || inArr o 0x400 8 48 || inArr o 0xA100 8 64 || inArr o 0x10008 8 2)
  else if off < 0x300000 then
    (let o := off - 0x200000
     [0x0, 0x10, 0x18, 0x28].contains o || inArr o 0x100 8 16 || inArr o 0x1000 8 256)
  else if off < 0x400000 then
    (let o := off - 0x300000
     [0xC, 0x18, 0x20, 0x38].contains o || inArr o 0x200 8 16 || inArr o 0x300 8 16)
  else if off < 0x500000 then
    (let o := off - 0x400000
     [0x8, 0x10, 0x18, 0x20, 0x28, 0x40, 0x100].contains o || inArr o 0x200 16 8)
  else if off < 0x600000 then
    (let o := off - 0x500000
     [0x0, 0x20, 0x28].contains o || inArr o 0x1000 8 512 || inArr o 0x2000 8 512)
  else if off < 0x800000 then [0x8, 0x10, 0x20, 0x28, 0x48, 0x50, 0x58].contains (off - 0x600000)
  else if off < 0xC00000 then
    (let o := off - 0x800000
     [0x28, 0x700].contains o || inArr o 0x300 8 16 || inArr o 0x400 8 16 || inArr o 0x500 8 8 || inArr o 0x600 8 16)
  else if off < 0x1000000 then off = 0xC00000
  else if off < 0x2000000 then isWide64Die ((off - 0x1000000) % 0x800000)
  else if off < 0x3000000 then isWide64Core ((off - 0x2000000) % 0x40000)
  else false

/-! Fields -/

/-- Fields packed into a number: value, lowest bit, width. -/
def pack (fs : List (Nat × Nat × Nat)) : Nat := (fs.map fun f => (f.1 % 2 ^ f.2.2) <<< f.2.1).sum

/-- Flags packed by number. -/
def packBits (n : Nat) (f : Nat → Bool) : Nat := ((List.range n).map fun i => b2n (f i) <<< i).sum

/-- A number as a signed byte. -/
def sbyte (v : Int) : Nat := (v % 256).toNat

/-! TOP (R408, R533, R535, R403) -/

/-- R533: TOP_CORE_MAP_n. -/
def State.coreMap (s : State) (n : Nat) : Nat :=
  ((List.range 8).map fun j =>
    (if s.present (8 * n + j) then s.ident.physCores.getD (8 * n + j) 0 % 64 + 128 else 0) <<< (8 * j)).sum

/-- R533: TOP_STACK_MAP_d. -/
def State.stackMap (s : State) (d : Nat) : Nat :=
  ((List.range s.ident.grade.stacks).map fun i => ((s.ident.physStacks.getD d []).getD i 0 % 16) <<< (4 * i)).sum
    + (2 ^ s.ident.grade.stacks - 1) <<< 40

/-- Registers of TOP. -/
def State.readTop (s : State) (o : Nat) : Nat :=
  let g := s.ident.grade
  if o = 0x0 then 0x92001F4B
  else if o = 0x4 then s.ident.rev % 512 + g.code <<< 12
  else if o = 0x10 then
    pack [(g.cores, 0, 7), (g.cores / 2, 8, 6), (g.cores / 2, 16, 6), (g.stacks, 24, 4), (g.stacks, 28, 4),
      (2 ^ g.engines - 1, 32, 8), (2 ^ g.lasers - 1, 40, 4), (2 * g.engines, 44, 5), (1, 56, 8)]
  else if o = 0x20 then s.ident.serial.toNat
  else if o = 0x28 then 0x02B703A6
  else if o = 0x30 then s.top.present.toNat % 2 ^ g.cores
  else if inArr o 0x100 8 8 then s.coreMap ((o - 0x100) / 8)
  else if inArr o 0x140 8 2 then s.stackMap ((o - 0x140) / 8)
  else if o = 0x208 then b2n s.top.busy + (s.top.last % 4) <<< 1
  else if o = 0x300 then s.top.cfgIgnored
  else if inArr o 0x10000 4 256 then ofLE ((List.range 4).map fun i => s.hub.msixByte (o - 0x10000 + i))
  else if o = 0x10800 then s.hub.pba.toNat
  else 0

/-! HUB (R96, R242, R408) -/

/-- R408: JOB_ID of the running, halted or suspended job. -/
def Hub.shownJob (h : Hub) : Nat :=
  match h.job, h.susp with
  | some j, _ => j.jobId
  | none, some p => p.job.jobId
  | none, none => 0

/-- R242: T2_STATUS_p. -/
def T2Port.status (x : T2Port) : Nat :=
  pack [(b2n x.linkUp, 0, 1), (x.width, 1, 5), (x.speed, 6, 2), (b2n x.mapped, 8, 1), (b2n x.intlvRefused, 9, 1),
    (x.cause, 10, 3), (x.capacity, 16, 32)]

/-- Registers of the hub. -/
def State.readHub (s : State) (o : Nat) : Nat :=
  let h := s.hub
  if o = 0x0 then
    pack [(h.jobState.code, 0, 3), (b2n (match h.susp with | some p => p.job.gated | none => false), 3, 1),
      (min 4095 h.startQ.length, 4, 12), (h.shownJob, 32, 32)]
  else if o = 0x8 then h.msixMod.toNat % 65536
  else if inArr o 0x100 64 4 then
    (let r := s.ring ((o - 0x100) / 64)
     b2n r.en + (r.log2n % 32) <<< 1)
  else if inArr o 0x108 64 4 then
    (let q := (o - 0x108) / 64
     let r := s.ring q
     pack [(r.sqHead.toNat, 0, 32), (b2n (h.waitingCq.any fun c => decide (c.ring = q)), 32, 1), (b2n r.overrun, 33, 1)])
  else if inArr o 0x110 64 4 then (s.ring ((o - 0x110) / 64)).sqBase.toNat
  else if inArr o 0x118 64 4 then (s.ring ((o - 0x118) / 64)).cqBase.toNat
  else if inArr o 0x120 64 4 then (s.ring ((o - 0x120) / 64)).ctrl.toNat
  else if inArr o 0x400 8 48 then
    (let b := sget Bind.reset h.binds ((o - 0x400) / 8)
     pack [(b.flag, 0, 10), (b2n b.arm, 10, 1), (b.target.toNat, 32, 32)])
  else if inArr o 0x8000 4 1024 then (s.hubFlag ((o - 0x8000) / 4)).toNat
  else if o = 0xA000 then h.waitLimit.toNat
  else if o = 0xA008 then h.dlkStatus.toNat
  else if inArr o 0xA100 8 64 then (sget 0 h.dlkMember ((o - 0xA100) / 8)).toNat
  else if o = 0x10000 then b2n s.mem.intlv
  else if inArr o 0x10008 8 2 then (s.mem.port ((o - 0x10008) / 8)).status
  else if o = 0x10018 then pack [(s.mem.poisonRx, 0, 16), (s.mem.linkErr, 16, 16)]
  else 0

/-! ERR (R489) -/

/-- Registers of the error block. -/
def State.readErr (s : State) (o : Nat) : Nat :=
  let e := s.err
  let used := packBits 32 (fun i => e.valid.getLsbD i)
  let n := ((List.range 32).filter fun i => e.valid.getLsbD i).length
  if o = 0x0 then pack [(e.wptr, 0, 5), (b2n (decide (n = 32)), 5, 1), (n, 6, 6), (e.seq, 32, 32)]
  else if o = 0x8 then used
  else if o = 0xC then b2n e.ovfFlag + min 65535 e.escalations <<< 16
  else if o = 0x10 then pack [(e.countC, 0, 16), (e.countK, 16, 16), (e.countD, 32, 16), (e.countF, 48, 16)]
  else if o = 0x18 then pack [(e.queueCk, 0, 16), (e.displaced, 16, 16), (e.dropped, 32, 16)]
  else if o = 0x20 then s.fatalStatus
  else if inArr o 0x100 8 16 then
    ofLE (((recBytes (if o < 0x140 then e.fatal0 else e.fatal1)).drop ((o - 0x100) % 64)).take 8)
  else if inArr o 0x1000 8 256 then
    ofLE (((recBytes (sget none e.log ((o - 0x1000) / 64))).drop ((o - 0x1000) % 64)).take 8)
  else 0

/-! PMU (R509) -/

/-- Registers of the hub's monitor. -/
def State.readPmu (s : State) (o : Nat) : Nat :=
  let p := s.pmu
  if o = 0x0 then p.ctl.toNat
  else if o = 0x4 then pack [(b2n !p.images.isEmpty, 0, 1), (p.snapRefused, 1, 15), (p.stepLost, 16, 16)]
  else if o = 0x8 then p.snapCtl.toNat
  else if o = 0xC then p.userCtl.toNat
  else if o = 0x18 then p.snapAddr.toNat
  else if o = 0x20 then p.stepAddr.toNat
  else if o = 0x28 then p.stepCtl.toNat
  else if o = 0x2C then p.hubCtl.toNat
  else if o = 0x30 then p.hubOvf.toNat
  else if o = 0x38 then p.latStep.toNat
  else if inArr o 0x100 4 16 then (sget 0x20000 p.evsel ((o - 0x100) / 4)).toNat
  else if inArr o 0x200 8 16 then sget 0 p.cnt ((o - 0x200) / 8)
  else if inArr o 0x300 8 16 then sget 0 p.lat ((o - 0x300) / 8)
  else 0

/-! PWR (R441) -/

/-- R441: PWR_STATUS. -/
def State.pwrStatus (s : State) : Nat :=
  let p := s.pwr
  pack [(p.effLimit, 0, 13), (b2n p.coolantCap, 13, 1), (b2n p.lowCoolantCap, 14, 1),
    (b2n (decide (p.currentLimit < p.capLimit)), 15, 1), (b2n (decide (p.stageHot ≠ 0)), 16, 1),
    (b2n (decide (p.throttle ≠ 0)), 17, 1), (b2n (decide (p.thermC0 + p.thermC1 + p.thermHub ≠ 0)), 18, 1),
    (b2n (p.credits.any fun x => x.ballast), 19, 1), (b2n p.die0Lost, 20, 1), (b2n p.die1Lost, 21, 1),
    (b2n p.vinLow, 22, 1), (b2n p.vinHigh, 23, 1)]

/-- Registers of power management. -/
def State.readPwr (s : State) (o : Nat) : Nat :=
  let p := s.pwr
  if o = 0x0 then p.ctl.toNat
  else if o = 0x4 then p.pkgLimitNext
  else if o = 0x8 then s.pwrStatus
  else if o = 0x10 then pack [(p.vinMv, 0, 16), (p.iinMa, 16, 16), (p.pkgW, 32, 13), (p.uncredW, 45, 13)]
  else if o = 0x18 then
    pack [(s.creditsHeld, 0, 19), ((p.waiting.map fun r => r.size).sum, 19, 19), (p.waiting.length, 38, 9), (p.yields, 48, 16)]
  else if o = 0x20 then
    pack [(p.fC0, 0, 7), (p.fC1, 7, 7), (p.fHub, 14, 7), (p.step 0, 21, 4), (p.step 1, 25, 4), (p.thermHub, 29, 4),
      (b2n p.ssc, 33, 1), (b2n p.rcFallback, 34, 1)]
  else if o = 0x28 then
    pack [(sbyte p.tjC0, 0, 8), (sbyte p.tjC1, 8, 8), (sbyte p.tjHub, 16, 8), (sbyte p.tHbm, 24, 8), (sbyte p.tOe, 32, 8),
      (sbyte p.tjPeak, 40, 8), (p.oeDark, 48, 8)]
  else if o = 0x30 then p.tjThrottle.toNat
  else if o = 0x34 then pack [(p.inlet, 0, 12), (p.flow, 12, 12), (b2n p.stale, 24, 1)]
  else if o = 0x38 then p.agingCtl.toNat
  else if o = 0x40 then
    pack [(p.vdd 0, 0, 10), (p.vdd 1, 10, 10), (p.vdd 2, 20, 10), (b2n p.replanning, 30, 1), (p.poweredHours, 32, 24),
      (b2n p.alarm, 56, 1), (p.alarmCause, 57, 3)]
  else if o = 0x100 then p.aoTime.toNat
  else if o = 0x108 then p.aoMatch % 256 + b2n p.rcFallback <<< 8
  else if inArr o 0x200 16 8 then (sget AoCmp.reset p.cmps ((o - 0x200) / 16)).value.toNat
  else if inArr o 0x208 16 8 then (sget AoCmp.reset p.cmps ((o - 0x208) / 16)).ctl.toNat
  else 0

/-! MSS (R471) -/

/-- Registers of the management subsystem. -/
def State.readMss (s : State) (o : Nat) : Nat :=
  let m := s.mss
  if o = 0x0 then
    pack [(m.st.code, 0, 2), (b2n m.dyn.isSome, 2, 1), (b2n m.eid.isSome, 3, 1), (m.eid.getD 0, 4, 8),
      (b2n m.update.isSome, 12, 1),
      ((match m.update with | some u => (if u.agent = .sideband then 1 else 2) | none => 0), 13, 2), (m.logSeq, 32, 32)]
  else if o = 0x10 then m.h2mLen % 8192 + b2n m.own <<< 31
  else if o = 0x14 then m.m2hLen % 8192 + b2n m.full <<< 31
  else if o = 0x20 then
    pack [(b2n m.running, 0, 1), (b2n m.active, 1, 1), (b2n m.pending.isSome, 2, 1),
      ((match m.pending with | some x => x.2 | none => 0), 3, 2), (b2n (s.nv.slotValid (m.slot !m.running)), 5, 1),
      (b2n (m.failA || m.failB), 6, 1), (b2n s.nv.ownerKey.isSome, 7, 1), (s.nv.fwSvn, 8, 7), (s.nv.ownerSvn, 15, 6),
      (m.runVersion, 32, 32)]
  else if o = 0x28 then
    pack [(m.nextIndex, 0, 40), (b2n m.signReady, 40, 1), (b2n m.exhausted, 41, 1), (b2n m.stateFail, 42, 1)]
  else if inArr o 0x1000 8 512 then (sget 0 m.h2mBuf ((o - 0x1000) / 8)).toNat
  else if inArr o 0x2000 8 512 then (sget 0 m.m2hBuf ((o - 0x2000) / 8)).toNat
  else 0

/-! CKE (R383) -/

/-- Registers of the commit and checkpoint engine. -/
def State.readCke (s : State) (o : Nat) : Nat :=
  let c := s.cke
  if o = 0x0 then c.ctl.toNat
  else if o = 0x8 then
    pack [(c.st.code, 0, 4), (c.c % 2, 4, 1), (b2n s.isRoot, 5, 1), (c.attempt, 6, 8),
      (min (2 ^ 32 - 1) ((c.att.votes.map fun v => v.2.covered).sum), 32, 32)]
  else if o = 0x10 then c.c % 2 ^ 64
  else if o = 0x18 then c.gateCtl.toNat
  else if o = 0x1C then c.readyTarget.toNat
  else if o = 0x20 then c.mapAddr.toNat
  else if o = 0x28 then c.memberAddr.toNat
  else if o = 0x30 then c.memberCount % 32768
  else if o = 0x34 then c.probe.toNat
  else if o = 0x38 then c.voteTimeout.toNat
  else if o = 0x3C then c.decTimeout.toNat
  else if o = 0x40 then c.bgShare.toNat
  else if o = 0x48 then c.health.toNat
  else if o = 0x50 then pack [(c.lastAction, 0, 3), (c.lastAttempt, 3, 8), (c.lastReason, 16, 14)]
  else if o = 0x58 then pack [(c.ckptGen, 0, 8), (c.ckptStep, 8, 56)]
  else if o = 0x60 then s.suspect
  else if o = 0x64 then c.aborts
  else if o = 0x68 then c.retryUpdates
  else if o = 0x6C then c.rollbacks
  else if o = 0x70 then c.lostCount
  else if inArr o 0x1000 4 512 then packBits 32 fun i => sget false c.lost (32 * ((o - 0x1000) / 4) + i)
  else 0

/-! FAB (R280) -/

/-- R280: FAB_LASER_STATUS. -/
def State.laserStatus (s : State) : Nat :=
  let l := fun m => s.fab.lasers.getD m Laser.reset
  packBits 4 (fun m => (l m).driven) + packBits 4 (fun m => (l m).fault) <<< 4 + packBits 4 (fun m => (l m).identified) <<< 8
    + packBits 4 (fun m => (l m).faultN) <<< 12 + ((List.range 4).map fun m => ((l m).cause % 16) <<< (16 + 4 * m)).sum

/-- R280: FAB_LANE_STATUS_e of a present engine. -/
def State.laneStatus (s : State) (e : Nat) : Nat :=
  sget 0 s.fab.dead e % 2 ^ 36 + (sget 0 s.fab.spareFree e % 16) <<< 36

/-- Registers of the fabric. -/
def State.readFab (s : State) (o : Nat) : Nat :=
  let f := s.fab
  if o = 0x0 then b2n f.en + (f.maxHops % 256) <<< 8
  else if o = 0x4 then f.devid % 2 ^ 14 + b2n f.devidValid <<< 31
  else if o = 0x8 then f.pkey % 65536
  else if o = 0xC then f.timeoutUs % 65536 + (f.retriesMax % 16) <<< 16
  else if o = 0x10 then f.switchHold % 65536
  else if o = 0x14 then f.spareThresh % 2 ^ 24
  else if o = 0x20 then packBits 4 fun m => (f.lasers.getD m Laser.reset).en
  else if o = 0x28 then s.laserStatus
  else if inArr o 0x100 4 s.ident.grade.engines then b2n (sget false f.split ((o - 0x100) / 4))
  else if inArr o 0x200 8 16 && s.portPresent ((o - 0x200) / 8) then
    (let x := s.port ((o - 0x200) / 8)
     b2n x.en + b2n x.quiesce <<< 1)
  else if inArr o 0x300 8 16 && s.portPresent ((o - 0x300) / 8) then
    (let x := s.port ((o - 0x300) / 8)
     pack [(x.state, 0, 3), (x.width, 3, 6), (b2n x.quiesced, 9, 1), (b2n x.fast, 10, 1), (x.pDev, 11, 14), (x.pPort, 25, 4),
       (x.lastTrain, 32, 16)])
  else if inArr o 0x400 8 16 && s.portPresent ((o - 0x400) / 8) then
    (let x := s.port ((o - 0x400) / 8)
     pack [(x.crcErr, 0, 16), (x.retries, 16, 16), (x.retrains, 32, 16), (x.discards, 48, 16)])
  else if inArr o 0x500 8 s.ident.grade.engines then s.laneStatus ((o - 0x500) / 8)
  else if inArr o 0x600 16 8 then (sget 0 f.rwinBase ((o - 0x600) / 16)).toNat
  else if inArr o 0x608 16 8 then (sget 0 f.rwinLimit ((o - 0x608) / 16)).toNat
  else if o = 0x700 then pack [(f.dropRoute, 0, 16), (f.dropTtl, 16, 16), (f.dropEcrc, 32, 16), (f.dropOther, 48, 16)]
  else if inArr o 0x10000 4 16384 then (sget 0 f.routes ((o - 0x10000) / 4)).toNat
  else 0

/-! CLE (R312) -/

/-- Registers of the collective engine. -/
def State.readCle (s : State) (o : Nat) : Nat :=
  let c := s.cle
  if o = 0x0 then
    pack [(b2n c.isOpen, 0, 1), (c.exch, 16, 16), (min 65535 (c.buckets.filter fun b => b.sealed).length, 32, 16),
      (min 65535 c.streams.length, 48, 16)]
  else if o = 0x8 then c.deadlineUs.toNat
  else if o = 0xC then c.hopWaitUs.toNat
  else if o = 0x10 then c.hopTimeoutUs.toNat
  else if o = 0x14 then c.srTimeoutUs.toNat
  else if o = 0x18 then c.sticky.toNat
  else if o = 0x20 then c.forecastMisses
  else if o = 0x24 then c.rescales
  else if o = 0x28 then c.lateCount
  else if o = 0x2C then c.exclCount
  else if o = 0x30 then c.nfElems
  else if inArr o 0x100 4 16 then (sget 0 c.srGroup ((o - 0x100) / 4)).toNat
  else if inArr o 0x200 4 128 then (sget 0 c.srMem ((o - 0x200) / 4)).toNat
  else 0

/-! DIE0 and DIE1 (R242, R345) -/

/-- R345: does a call drive the PUE? -/
def Pue.busy (p : Pue) : Bool := p.call.isSome || p.pre.isSome

/-- R345: PUE_STATUS. -/
def Pue.status (p : Pue) : Nat :=
  let c := match p.call, p.pre with
    | some c, _ => (c.core, c.block)
    | none, some r => (r.core, 0)
    | none, none => (0, 0)
  pack [(b2n p.busy, 0, 1), (b2n p.pre.isSome, 1, 1), (b2n p.creditWait, 2, 1), (b2n p.finWait, 3, 1), (c.1, 4, 6), (c.2, 32, 26)]

/-- Registers of a die. -/
def State.readDie (s : State) (d o : Nat) : Nat :=
  let x := s.mem.die d
  let p := s.pue d
  let n := s.ident.grade.stacks
  if s.dieDown d then 0
  else if o = 0x0 then x.ctl.toNat
  else if o = 0x8 then
    pack [(2 ^ n - 1, 0, 10), (x.failed, 10, 10), (b2n x.initDone, 20, 1), (b2n x.offline, 21, 1), (min (2 ^ 32 - 1) x.passes, 32, 32)]
  else if inArr o 0x100 4 n then sget 0 x.ce ((o - 0x100) / 4)
  else if inArr o 0x140 4 n then sget 0 x.ue ((o - 0x140) / 4)
  else if o = 0x180 then pack [(x.errAddr, 0, 52), (x.errStack, 52, 4), (b2n x.errValid, 63, 1)]
  else if o = 0x188 then x.poisonReads
  else if o = 0x1000 then b2n p.digestEn
  else if o = 0x1008 then p.status
  else if o = 0x1010 then p.sticky.toNat
  else if o = 0x1014 then p.blocks
  else if o = 0x1018 then p.catchups
  else if o = 0x101C then p.frozenReqs
  else if o = 0x1020 then p.retries
  else if o = 0x1024 then p.fallbacks
  else 0

/-! CORE n (R52, R96, R135, R175, R196, R223, R509) -/

/-- The opcode at the head of a queue; 0 if it is empty. -/
def headOpc (q : List EngCmd) : Nat := (q.head?.map fun e => e.shownOpc).getD 0

/-- R96: SEQ_STATUS. -/
def SeqC.status (q : SeqC) : Nat :=
  pack [(q.seq.code, 0, 3), (q.stall, 3, 5), (b2n q.call.isSome, 8, 1), (b2n q.openRec.isSome, 9, 1),
    (b2n q.inPass, 10, 1), (q.callId, 16, 16), (q.shownIndex, 32, 32)]

/-- R111, R135: does a command of the matrix unit wait for a power credit: the head of its queue, or a started one whose
credit has lapsed? -/
def State.mxuCreditWait (s : State) (c : CoreId) : Bool :=
  let k := s.core c
  (k.m.queue.head?.any fun e => (isStream e && s.creditAsked ⟨c.val, e.array⟩) || (isMulti e && s.creditAsked (mpUnit c)))
    || (List.range 4).any fun q => rowsLeft k q && s.creditAsked ⟨c.val, q⟩

/-- R135: MXU_STATUS. -/
def State.mxuStatus (s : State) (c : CoreId) : Nat :=
  let k := s.core c
  let a := fun i => sget ArrW.none k.m.arr i
  packBits 4 (fun i => (a i).valid) + ((List.range 4).map fun i => ((a i).fmt % 16) <<< (4 * i + 4)).sum
    + packBits 4 (fun i => rowsLeft k i) <<< 20
    + packBits 4 (fun i => k.m.run.any fun r => isDrain r.cmd && decide (0 < r.left i)) <<< 24
    + b2n (k.m.run.any fun r => decide (r.cmd.opc = 0x20)) <<< 28 + b2n (k.m.run.any fun r => isMulti r.cmd) <<< 29
    + b2n (s.mxuCreditWait c) <<< 30

/-- Registers of a core's performance counters. -/
def PmuCore.read (p : PmuCore) (o : Nat) : Nat :=
  if o = 0x7000 then p.ctl.toNat
  else if o = 0x7004 then p.ovf.toNat
  else if inArr o 0x7010 4 8 then (sget 0x20000 p.evsel ((o - 0x7010) / 4)).toNat
  else if inArr o 0x7040 8 2 then sget 0 p.fix ((o - 0x7040) / 8)
  else if inArr o 0x7080 8 8 then sget 0 p.cnt ((o - 0x7080) / 8)
  else if inArr o 0x7100 8 10 then sget 0 p.lat ((o - 0x7100) / 8)
  else if inArr o 0x7160 4 8 then (sget 0x10000 p.period ((o - 0x7160) / 4)).toNat
  else if o = 0x7180 then p.sampBase.toNat
  else if o = 0x7188 then p.sampCtl.toNat
  else if o = 0x718C then p.wptr.toNat
  else if o = 0x7190 then p.rptr.toNat
  else 0

/-- R223: TMV_STATUS. CHECK reads 0: a check phase is one event. -/
def State.tmvStatus (s : State) (c : CoreId) : Nat :=
  let t := (s.core c).t
  pack [(t.run.length, 0, 3), (b2n (s.tmvHazWait c), 3, 1), (b2n (s.tmvTagWait c), 4, 1), (s.tagsOf c.val, 16, 13),
    (headOpc t.queue, 32, 8), (t.queue.length, 40, 6)]

/-- R154, R155, R175: VCE_STATUS. -/
def State.vceStatus (s : State) (c : CoreId) : Nat :=
  let k := s.core c
  pack [(b2n !k.v.run.isEmpty, 0, 1), (b2n (!k.v.queue.isEmpty && s.creditAsked ⟨c.val, 4⟩), 1, 1),
    (b2n (k.v.queue.head?.any fun e => rawBlocked k e), 2, 1),
    (packBits 8 fun i => (sget none k.v.ccw i).isSome, 3, 8), (headOpc k.v.queue, 16, 8), (k.v.queue.length, 24, 5)]

/-- Registers of a core's window. -/
def State.readCore (s : State) (c : CoreId) (o : Nat) : Nat :=
  let k := s.core c
  if o = 0x0 then k.q.status
  else if o = 0x8 then pack [(k.q.replaySlot, 0, 4), (k.q.replayPass, 4, 20)]
  else if o = 0x10 then k.q.numStatus.toNat
  else if inArr o 0x1000 8 256 then (sget 0 k.q.params ((o - 0x1000) / 8)).toNat
  else if inArr o 0x2000 4 256 then (k.flag ((o - 0x2000) / 4)).toNat
  else if o = 0x4000 then k.m.ctl.toNat
  else if o = 0x4008 then s.mxuStatus c
  else if o = 0x4010 then k.m.csumReplays
  else if o = 0x4014 then k.m.csumUnchecked
  else if o = 0x4018 then k.m.csumRereads
  else if o = 0x401C then ((List.range 4).map fun i => (sget 0 k.m.arrayFaults i % 256) <<< (8 * i)).sum
  else if o = 0x4020 then pack [(k.m.accEccCorr, 0, 16), (k.m.accEccUncorr, 16, 16)]
  else if o = 0x5000 then s.vceStatus c
  else if o = 0x5008 then
    pack [(b2n k.v.lutActive, 0, 1), (k.v.lutGen, 1, 4), (b2n (k.v.run.any fun e => decide (e.opc = 0x32)), 5, 1)]
  else if o = 0x500C then k.v.sticky.toNat
  else if o = 0x5010 then k.v.permOor
  else if o = 0x5014 then k.v.lutOor
  else if o = 0x5018 then k.v.seed.toNat
  else if o = 0x5020 then pack [(k.v.ocEccCorr, 0, 16), (k.v.ocEccUncorr, 16, 16)]
  else if o = 0x5040 then k.v.sfuClamps
  else if o = 0x5044 then k.v.sfuCompat
  else if o = 0x5048 then k.v.sfuFallbacks
  else if o = 0x6000 then k.t.ctl.toNat
  else if o = 0x6008 then s.tmvStatus c
  else if o = 0x6010 then k.t.idxpolReg.toNat
  else if o = 0x6014 then k.t.sticky.toNat
  else if o = 0x6018 then k.t.idxNeg
  else if o = 0x601C then k.t.idxOor
  else if o = 0x6020 then k.t.coalesced
  else if 0x7000 ≤ o then k.pmu.read o
  else 0

/-! BAR0 -/

/-- What the register that starts at an offset reads. -/
def State.regRead (s : State) (off : Nat) : Nat :=
  if off < 0x100000 then s.readTop off
  else if off < 0x200000 then s.readHub (off - 0x100000)
  else if off < 0x300000 then s.readErr (off - 0x200000)
  else if off < 0x400000 then s.readPmu (off - 0x300000)
  else if off < 0x500000 then s.readPwr (off - 0x400000)
  else if off < 0x600000 then s.readMss (off - 0x500000)
  else if off < 0x800000 then s.readCke (off - 0x600000)
  else if off < 0xC00000 then s.readFab (off - 0x800000)
  else if off < 0x1000000 then s.readCle (off - 0xC00000)
  else if off < 0x2000000 then s.readDie ((off - 0x1000000) / 0x800000) ((off - 0x1000000) % 0x800000)
  else if off < 0x3000000 then
    (let n := (off - 0x2000000) / 0x40000
     if s.coreWindow n then s.readCore (coreNo n) ((off - 0x2000000) % 0x40000) else 0)
  else 0

/-- R12: a 4-byte read. -/
def State.read4 (s : State) (off : Nat) : Nat :=
  if isWide64 off then s.regRead off % 2 ^ 32
  else if 4 ≤ off && isWide64 (off - 4) then s.regRead (off - 4) / 2 ^ 32 % 2 ^ 32
  else s.regRead off % 2 ^ 32

/-- R11, R12, R531: what an access of `size` bytes at an offset of BAR0 reads. -/
def State.barRead (s : State) (off size : Nat) : Nat :=
  if size = 4 && off % 4 = 0 then s.read4 off
  else if size = 8 && off % 8 = 0 then
    (if isWide64 off then s.regRead off % 2 ^ 64 else s.read4 off + s.read4 (off + 4) <<< 32)
  else 0xFFFFFFFF

/-- R11: an access that BAR0 does not take: a size other than 4 or 8 bytes, or one not aligned to its size. -/
def accessBad (off size : Nat) : Bool := !((size = 4 && off % 4 = 0) || (size = 8 && off % 8 = 0))

/-- R11, R421: a host read of BAR0: what it gives, and the state after it: a bad access is recorded, and a read of a core's
window starts the core's clock. The table has no row for a read, so no command comes here (assumption 52). -/
def State.hostRead (s : State) (off size : Nat) : Nat × State :=
  (s.barRead off size,
    if accessBad off size then s.raise 0x0C01 .c 0 (regPayload off 0 size 0)
    else
      let n := (off - 0x2000000) / 0x40000
      if 0x2000000 ≤ off ∧ off < 0x3000000 ∧ s.coreWindow n then s.wakeCore (coreNo n) else s)

end Sys2Proof.Machine
end

