-- ==== Sys2Proof/Machine/Regs.lean ====
section
/-! DEFINITION. Host writes of BAR0 (R5, R11 to R16, R484, R529 to R536): every register of the index by its offset, those
that have a row of their own through the operation that row uses. -/

namespace Sys2Proof.Machine

/-! Parts of writes -/

/-- R13, R14: the writable bits of a register take the value written. -/
def under (mask old new : Word32) : Word32 := (old &&& ~~~mask) ||| (new &&& mask)

/-- R12: the value of a 64-bit register that reads `old` after a write. -/
def merged (old : Nat) (w : RegWrite) : Nat := (mergeWrite (BitVec.ofNat 64 old) w).toNat

/-- The value and the size of a write as R476's REGISTER payload names them, with the offset it reaches. -/
def RegWrite.report (off : Nat) : RegWrite → Nat × Nat × Nat
  | .all v => (off, v.toNat, 8)
  | .low v => (off, v.toNat, 4)
  | .high v => (off + 4, v.toNat, 4)

/-- R16: a 64-bit register of locked fields. -/
def State.locked64 (s : State) (running : Bool) (off : Nat) (w : RegWrite) (f : State → State) : State :=
  if running then
    (let r := RegWrite.report off w
     s.cfgIgnored r.1 r.2.1 r.2.2)
  else f s

/-- R16: a 32-bit register of locked fields. -/
def State.locked32 (s : State) (running : Bool) (off : Nat) (w : Word32) (f : State → State) : State :=
  if running then s.cfgIgnored off w.toNat 4 else f s

/-- Bits [51:6] of a register that holds a device address. -/
def addrBits (v : Nat) : Word64 := BitVec.ofNat 64 (fld v 6 46 * 64)

/-! TOP -/

/-- R403: a 4-byte write of the MSI-X table; a vector that is unmasked with its message pending sends it. -/
def State.msixWrite (s : State) (k : Nat) (w : Word32) : State :=
  let v := k / 16
  let t := { s with hub.msixTable := (List.range 4).foldl (fun m i =>
    sset (msixDefault (k + i)) m (k + i) (BitVec.ofNat 8 (w.toNat >>> (8 * i)))) s.hub.msixTable }
  if s.hub.pba.getLsbD v && !(t.hub.msixByte (16 * v + 12)).getLsbD 0 then
    { t with hub.pba := t.hub.pba &&& ~~~((1 : Word64) <<< v) }.emit (.msix v)
  else t

/-- 32-bit registers of TOP. -/
def State.writeTop (s : State) (o : Nat) (w : Word32) : State :=
  if o = 0x200 then s.topResetWrite w s.hub.hdmCommitted
  else if o = 0x300 then { s with top.cfgIgnored := w.toNat }
  else if inArr o 0x10000 4 256 then s.msixWrite (o - 0x10000) w
  else s

/-! HUB -/

/-- 32-bit registers of the hub. -/
def State.writeHub (s : State) (o : Nat) (w : Word32) : State :=
  if o = 0x8 then { s with hub.msixMod := w &&& 0xFFFF }
  else if inArr o 0x100 64 4 then s.ringCtlWrite ((o - 0x100) / 64) w
  else if inArr o 0x9000 4 1024 then s.hubFlagAddWrite ((o - 0x9000) / 4) w
  else if o = 0xA000 then { s with hub.waitLimit := w }
  else if o = 0x10000 then s.locked32 s.mem.t2Enumerated 0x110000 w fun t => { t with mem.intlv := w.getLsbD 0 }
  else if o = 0x10018 then { s with mem.poisonRx := fld w.toNat 0 16, mem.linkErr := fld w.toNat 16 16 }
  else s

/-- 64-bit registers of the hub. -/
def State.writeHub64 (s : State) (o : Nat) (w : RegWrite) : State :=
  let v := merged (s.readHub o) w &&& (2 ^ 64 - 64)
  let base := fun (b : Nat) (f : Ring → Word64 → Ring) =>
    let q := (o - b) / 64
    s.locked64 (s.ring q).en (0x100000 + o) w fun t => t.setRing q (f (t.ring q) (BitVec.ofNat 64 v))
  if inArr o 0x108 64 4 then
    (let q := (o - 0x108) / 64
     if bitAt (merged 0 w) 33 then s.setRing q { s.ring q with overrun := false } else s)
  else if inArr o 0x110 64 4 then base 0x110 fun r a => { r with sqBase := a }
  else if inArr o 0x118 64 4 then base 0x118 fun r a => { r with cqBase := a }
  else if inArr o 0x120 64 4 then base 0x120 fun r a => { r with ctrl := a }
  else if inArr o 0x400 8 48 then s.bindWrite ((o - 0x400) / 8) w
  else if o = 0xA008 then s.dlkClear w
  else s

/-! ERR -/

/-- 32-bit registers of the error block. -/
def State.writeErr (s : State) (o : Nat) (w : Word32) : State :=
  if o = 0x8 then s.errValidWrite w
  else if o = 0xC then { s with err.ovfFlag := s.err.ovfFlag && !w.getLsbD 0 }
  else if o = 0x20 then s.fatalStatusWrite w
  else s

/-- 64-bit registers of the error block. -/
def State.writeErr64 (s : State) (o : Nat) (w : RegWrite) : State :=
  let v := merged (s.readErr o) w
  if o = 0x10 then
    { s with err.countC := fld v 0 16, err.countK := fld v 16 16, err.countD := fld v 32 16, err.countF := fld v 48 16 }
  else if o = 0x18 then { s with err.queueCk := fld v 0 16, err.displaced := fld v 16 16, err.dropped := fld v 32 16 }
  else if o = 0x28 then s.errInject w
  else s

/-! PMU -/

/-- R509: PMU_USER_CTL after a write; an SNAP_FLAG below 64 leaves the field unchanged. -/
def userCtlAfter (old v : Nat) : Nat :=
  let f := fld v 1 10
  pack [(v % 2, 0, 1), (if f < 64 then fld old 1 10 else f, 1, 10), (fld v 16 10, 16, 10), (fld v 32 16, 32, 16)]

/-- 32-bit registers of the hub's monitor. -/
def State.writePmu (s : State) (o : Nat) (w : Word32) : State :=
  let v := w.toNat
  if o = 0x0 then s.globalCtlWrite w
  else if o = 0x4 then { s with pmu.snapRefused := fld v 1 15, pmu.stepLost := fld v 16 16 }
  else if o = 0x8 then s.snapCtlWrite w
  else if o = 0x28 then
    (let n := if 12 < fld v 1 4 then fld s.pmu.stepCtl.toNat 1 4 else fld v 1 4
     { s with pmu.stepCtl := BitVec.ofNat 32 (v % 2 + n <<< 1) })
  else if o = 0x2C then { s with pmu.hubCtl := w &&& 0xFFFF }
  else if o = 0x30 then { s with pmu.hubOvf := s.pmu.hubOvf &&& ~~~w }
  else if inArr o 0x100 4 16 then
    (let n := (o - 0x100) / 4
     let (x, t) := s.lockedWrite (s.pmu.hubCtl.getLsbD n) 0xEFFFF 0xFFFF (sget 0x20000 s.pmu.evsel n) w (0x300000 + o)
     { t with pmu.evsel := sset 0x20000 t.pmu.evsel n x })
  else s

/-- 64-bit registers of the hub's monitor. -/
def State.writePmu64 (s : State) (o : Nat) (w : RegWrite) : State :=
  let v := merged (s.readPmu o) w
  if o = 0xC then { s with pmu.userCtl := BitVec.ofNat 64 (userCtlAfter s.pmu.userCtl.toNat v) }
  else if o = 0x18 then { s with pmu.snapAddr := addrBits v }
  else if o = 0x20 then { s with pmu.stepAddr := addrBits v }
  else if inArr o 0x200 8 16 then { s with pmu.cnt := sset 0 s.pmu.cnt ((o - 0x200) / 8) (v % 2 ^ 48) }
  else s

/-! PWR -/

/-- R431, R441: a write of PWR_AGING_CTL. -/
def State.agingCtlWrite (s : State) (w : Word32) : State :=
  { s with pwr.agingCtl := w &&& 0xFF00, pwr.replanning := s.pwr.replanning || w.getLsbD 0 }

/-- 32-bit registers of power management. -/
def State.writePwr (s : State) (o : Nat) (w : Word32) : State :=
  if o = 0x0 then { s with pwr.ctl := w &&& 0xFFFF0F }
  else if o = 0x4 then s.pkgLimitWrite w
  else if o = 0x30 then { s with pwr.tjThrottle := w &&& 0x7F }
  else if o = 0x34 then s.coolantWrite w
  else if o = 0x38 then s.agingCtlWrite w
  else if o = 0x108 then
    { s with pwr.aoMatch := packBits 8 fun i => bitAt s.pwr.aoMatch i && !w.getLsbD i }
  else if inArr o 0x208 16 8 then
    (let n := (o - 0x208) / 16
     { s with pwr.cmps := sset AoCmp.reset s.pwr.cmps n { sget AoCmp.reset s.pwr.cmps n with ctl := w } })
  else s

/-- 64-bit registers of power management. -/
def State.writePwr64 (s : State) (o : Nat) (w : RegWrite) : State :=
  if inArr o 0x200 16 8 then
    (let n := (o - 0x200) / 16
     let x := sget AoCmp.reset s.pwr.cmps n
     { s with pwr.cmps := sset AoCmp.reset s.pwr.cmps n { x with value := mergeWrite x.value w } })
  else s

/-! MSS -/

/-- 32-bit registers of the management subsystem. -/
def State.writeMss (s : State) (o : Nat) (w : Word32) : State :=
  if o = 0x10 then s.h2mCtlWrite w
  else if o = 0x14 then s.m2hCtlWrite w
  else s

/-- 64-bit registers of the management subsystem. -/
def State.writeMss64 (s : State) (o : Nat) (w : RegWrite) : State :=
  if inArr o 0x1000 8 512 then
    s.locked64 s.mss.own (0x500000 + o) w fun t =>
      let n := (o - 0x1000) / 8
      { t with mss.h2mBuf := sset 0 t.mss.h2mBuf n (mergeWrite (sget 0 t.mss.h2mBuf n) w) }
  else s

/-! CKE -/

/-- R383: CKE_GATE_CTL after a write while the CKE is idle, and while it is running, when only ABORT_KEEP_ACCUM changes. -/
def State.gateCtlWrite (s : State) (w : Word32) : State :=
  let old := s.cke.gateCtl.toNat
  let v := w.toNat
  let flag := if fld v 0 10 < 64 then fld old 0 10 else fld v 0 10
  let prm := if 239 < fld v 14 8 then fld old 14 8 else fld v 14 8
  let idle := pack [(flag, 0, 10), (fld v 10 4, 10, 4), (prm, 14, 8), (fld v 22 5, 22, 5)]
  if s.cke.st = .idle then { s with cke.gateCtl := BitVec.ofNat 32 idle }
  else { s with cke.gateCtl := under 0x1000 s.cke.gateCtl w }.cfgIgnored 0x600018 v 4

/-- 32-bit registers of the commit and checkpoint engine. -/
def State.writeCke (s : State) (o : Nat) (w : Word32) : State :=
  if o = 0x0 then s.ckeCtlWrite w
  else if o = 0x18 then s.gateCtlWrite w
  else if o = 0x1C then { s with cke.readyTarget := w }
  else if o = 0x30 then s.locked32 (s.cke.st ≠ .idle) 0x600030 w fun t => { t with cke.memberCount := w.toNat % 32768 }
  else if o = 0x34 then { s with cke.probe := w &&& 0xFFFFF }
  else if o = 0x38 then { s with cke.voteTimeout := w }
  else if o = 0x3C then { s with cke.decTimeout := w }
  else if o = 0x40 then { s with cke.bgShare := w }
  else if o = 0x64 then { s with cke.aborts := w.toNat }
  else if o = 0x68 then { s with cke.retryUpdates := w.toNat }
  else if o = 0x6C then { s with cke.rollbacks := w.toNat }
  else if o = 0x70 then { s with cke.lostCount := w.toNat }
  else s

/-- 64-bit registers of the commit and checkpoint engine. -/
def State.writeCke64 (s : State) (o : Nat) (w : RegWrite) : State :=
  let v := merged (s.readCke o) w
  if o = 0x20 then { s with cke.mapAddr := addrBits v }
  else if o = 0x28 then { s with cke.memberAddr := addrBits v }
  else s

/-! FAB -/

/-- R280: the fabric is running while any port is not DISABLED. -/
def State.fabRunning (s : State) : Bool := (List.range 16).any fun p => decide ((s.port p).state ≠ 0)

/-- R280: an engine is running while either of its ports is not DISABLED. -/
def State.engineRunning (s : State) (e : Nat) : Bool :=
  decide ((s.port (2 * e)).state ≠ 0) || decide ((s.port (2 * e + 1)).state ≠ 0)

/-- 32-bit registers of the fabric. -/
def State.writeFab (s : State) (o : Nat) (w : Word32) : State :=
  let v := w.toNat
  if o = 0x0 then { s with fab.en := w.getLsbD 0, fab.maxHops := fld v 8 8 }.settlePorts
  else if o = 0x4 then
    s.locked32 s.fabRunning 0x800004 w fun t => { t with fab.devid := v % 2 ^ 14, fab.devidValid := w.getLsbD 31 }.settlePorts
  else if o = 0x8 then s.locked32 s.fabRunning 0x800008 w fun t => { t with fab.pkey := v % 65536 }
  else if o = 0xC then { s with fab.timeoutUs := v % 65536, fab.retriesMax := fld v 16 4 }
  else if o = 0x10 then { s with fab.switchHold := v % 65536 }
  else if o = 0x14 then { s with fab.spareThresh := v % 2 ^ 24 }
  else if o = 0x20 then s.laserCtlWrite w
  else if inArr o 0x100 4 s.ident.grade.engines then
    (let e := (o - 0x100) / 4
     s.locked32 (s.engineRunning e) (0x800000 + o) w fun t =>
      { t with fab.split := sset false t.fab.split e (w.getLsbD 0) }.settlePorts)
  else if inArr o 0x200 8 16 then s.portCtlWrite ((o - 0x200) / 8) w
  else if inArr o 0x10000 4 16384 then { s with fab.routes := sset 0 s.fab.routes ((o - 0x10000) / 4) (w &&& 0xFFF) }
  else s

/-- 64-bit registers of the fabric. -/
def State.writeFab64 (s : State) (o : Nat) (w : RegWrite) : State :=
  let v := merged (s.readFab o) w
  if o = 0x28 then s.laserStatusWrite (mergeWrite 0 w)
  else if inArr o 0x400 8 16 && s.portPresent ((o - 0x400) / 8) then
    (let p := (o - 0x400) / 8
     s.setPort p { s.port p with
      crcErr := fld v 0 16, retries := fld v 16 16, retrains := fld v 32 16, discards := fld v 48 16 })
  else if inArr o 0x600 16 8 then
    { s with fab.rwinBase := sset 0 s.fab.rwinBase ((o - 0x600) / 16) (addrBits v ||| BitVec.ofNat 64 (v % 8)) }
  else if inArr o 0x608 16 8 then { s with fab.rwinLimit := sset 0 s.fab.rwinLimit ((o - 0x608) / 16) (addrBits v) }
  else if o = 0x700 then
    { s with fab.dropRoute := fld v 0 16, fab.dropTtl := fld v 16 16, fab.dropEcrc := fld v 32 16, fab.dropOther := fld v 48 16 }
  else s

/-! CLE -/

/-- R312: a CLE_SMALLREDUCE of the group is incomplete: dispatched by some core and not completed. -/
def State.groupRunning (s : State) (g : Nat) : Bool := s.cores.any fun k =>
  (k.t.hubQ ++ k.t.hubRun.map fun r => r.cmd).any fun e => e.opc = 0x52 && decide (e.imm % 16 = g)

/-- 32-bit registers of the collective engine. -/
def State.writeCle (s : State) (o : Nat) (w : Word32) : State :=
  let v := w.toNat
  if o = 0x8 then { s with cle.deadlineUs := w }
  else if o = 0xC then { s with cle.hopWaitUs := w }
  else if o = 0x10 then { s with cle.hopTimeoutUs := w }
  else if o = 0x14 then { s with cle.srTimeoutUs := w }
  else if o = 0x18 then { s with cle.sticky := s.cle.sticky &&& ~~~w }
  else if o = 0x20 then { s with cle.forecastMisses := v }
  else if o = 0x24 then { s with cle.rescales := v }
  else if o = 0x28 then { s with cle.lateCount := v }
  else if o = 0x2C then { s with cle.exclCount := v }
  else if o = 0x30 then { s with cle.nfElems := v }
  else if inArr o 0x100 4 16 then
    (let g := (o - 0x100) / 4
     s.locked32 (s.groupRunning g) (0xC00000 + o) w fun t => { t with cle.srGroup := sset 0 t.cle.srGroup g (w &&& 0x7F) })
  else if inArr o 0x200 4 128 then
    (let n := (o - 0x200) / 4
     s.locked32 (s.groupRunning (n / 8)) (0xC00000 + o) w fun t =>
      { t with cle.srMem := sset 0 t.cle.srMem n (w &&& 0x80003FFF) })
  else s

/-! DIE0 and DIE1 -/

/-- 32-bit registers of a die. -/
def State.writeDie (s : State) (d o : Nat) (w : Word32) : State :=
  let x := s.mem.die d
  let p := s.pue d
  let n := s.ident.grade.stacks
  let v := w.toNat
  if s.dieDown d then s
  else if o = 0x0 then s.setDie d { x with ctl := w &&& 0xFF01 }
  else if inArr o 0x100 4 n then s.setDie d { x with ce := sset 0 x.ce ((o - 0x100) / 4) v }
  else if inArr o 0x140 4 n then s.setDie d { x with ue := sset 0 x.ue ((o - 0x140) / 4) v }
  else if o = 0x188 then s.setDie d { x with poisonReads := v }
  else if o = 0x1000 then
    s.locked32 p.busy (0x1000000 + d * 0x800000 + o) w fun t => t.setPue d { t.pue d with digestEn := w.getLsbD 0 }
  else if o = 0x1010 then s.setPue d { p with sticky := p.sticky &&& ~~~w }
  else if o = 0x1014 then s.setPue d { p with blocks := v }
  else if o = 0x1018 then s.setPue d { p with catchups := v }
  else if o = 0x101C then s.setPue d { p with frozenReqs := v }
  else if o = 0x1020 then s.setPue d { p with retries := v }
  else if o = 0x1024 then s.setPue d { p with fallbacks := v }
  else s

/-- 64-bit registers of a die. -/
def State.writeDie64 (s : State) (d o : Nat) (w : RegWrite) : State :=
  if s.dieDown d then s
  else if o = 0x180 then
    (if bitAt (merged 0 w) 63 then s.setDie d { s.mem.die d with errValid := false } else s)
  else if o = 0x190 then s.memInject d w
  else s

/-! CORE n -/

/-- R509: is a counter of the core enabled with SAMPLE at 1? -/
def PmuCore.sampling (p : PmuCore) : Bool := (List.range 8).any fun i => p.ctl.getLsbD (i + 2) && bitAt (p.sel i) 16

/-- R509: PMU_SAMP_CTL after a write, with its locked fields writable or not. -/
def sampCtlAfter (running : Bool) (old v : Nat) : Nat :=
  let n := if fld v 0 5 < 6 || 20 < fld v 0 5 then fld old 0 5 else fld v 0 5
  if running then old % 64 + fld v 16 16 <<< 16 else pack [(n, 0, 5), (fld v 5 1, 5, 1), (fld v 16 16, 16, 16)]

/-- 32-bit performance registers of a core, but for those with locked fields. -/
def PmuCore.write (p : PmuCore) (o : Nat) (w : Word32) : PmuCore :=
  if o = 0x7000 then { p with ctl := w &&& 0x3FF }
  else if o = 0x7004 then { p with ovf := p.ovf &&& ~~~w }
  else if inArr o 0x7160 4 8 then { p with period := sset 0x10000 p.period ((o - 0x7160) / 4) w }
  else if o = 0x7190 then { p with rptr := w }
  else p

/-- 32-bit registers of a core that hold what is written, or clear bits. -/
def Core.write (k : Core) (o : Nat) (w : Word32) : Core :=
  let v := w.toNat
  if o = 0x10 then { k with q.numStatus := k.q.numStatus &&& ~~~w }
  else if o = 0x4010 then { k with m.csumReplays := v }
  else if o = 0x4014 then { k with m.csumUnchecked := v }
  else if o = 0x4018 then { k with m.csumRereads := v }
  else if o = 0x4020 then { k with m.accEccCorr := fld v 0 16, m.accEccUncorr := fld v 16 16 }
  else if o = 0x500C then { k with v.sticky := k.v.sticky &&& ~~~w }
  else if o = 0x5010 then { k with v.permOor := v }
  else if o = 0x5014 then { k with v.lutOor := v }
  else if o = 0x5020 then { k with v.ocEccCorr := fld v 0 16, v.ocEccUncorr := fld v 16 16 }
  else if o = 0x5040 then { k with v.sfuClamps := v }
  else if o = 0x5044 then { k with v.sfuCompat := v }
  else if o = 0x5048 then { k with v.sfuFallbacks := v }
  else if o = 0x6010 then
    { k with t.idxpolReg := if fld v 1 2 = 3 then under 1 k.t.idxpolReg w else w &&& 7 }
  else if o = 0x6014 then { k with t.sticky := k.t.sticky &&& ~~~w }
  else if o = 0x6018 then { k with t.idxNeg := v }
  else if o = 0x601C then { k with t.idxOor := v }
  else if o = 0x6020 then { k with t.coalesced := v }
  else { k with pmu := k.pmu.write o w }

/-- 32-bit registers of a core's window; `o` is the offset in the window. -/
def State.writeCore (s : State) (c : CoreId) (o : Nat) (w : Word32) : State :=
  let k := s.core c
  let off := 0x2000000 + c.val * 0x40000 + o
  if inArr o 0x2400 4 256 then s.addCoreFlag c ((o - 0x2400) / 4) w
  else if o = 0x4000 then
    s.locked32 (!k.m.queue.isEmpty || !k.m.run.isEmpty) off w fun t => t.modCore c fun k => { k with m.ctl := w &&& 3 }
  else if o = 0x4028 then s.mxuInject c w
  else if o = 0x6000 then
    s.locked32 (!k.t.queue.isEmpty || !k.t.run.isEmpty) off w fun t => t.modCore c fun k => { k with t.ctl := w &&& 1 }
  else if inArr o 0x7010 4 8 then
    (let n := (o - 0x7010) / 4
     let (x, t) := s.lockedWrite (k.pmu.ctl.getLsbD (n + 2)) 0xFFFFF 0x1FFFF (sget 0x20000 k.pmu.evsel n) w off
     t.modCore c fun k => { k with pmu.evsel := sset 0x20000 k.pmu.evsel n x })
  else if o = 0x7188 then
    (let t := if k.pmu.sampling then s.cfgIgnored off w.toNat 4 else s
     t.modCore c fun k => { k with pmu.sampCtl := BitVec.ofNat 32 (sampCtlAfter k.pmu.sampling k.pmu.sampCtl.toNat w.toNat) })
  else s.modCore c fun k => k.write o w

/-- 64-bit registers of a core's window. -/
def State.writeCore64 (s : State) (c : CoreId) (o : Nat) (w : RegWrite) : State :=
  let v := merged (s.readCore c o) w
  if inArr o 0x1000 8 256 then
    s.modCore c fun k => { k with q.params := sset 0 k.q.params ((o - 0x1000) / 8) (BitVec.ofNat 64 v) }
  else if inArr o 0x7040 8 2 then
    s.modCore c fun k => { k with pmu.fix := sset 0 k.pmu.fix ((o - 0x7040) / 8) (v % 2 ^ 48) }
  else if inArr o 0x7080 8 8 then
    s.modCore c fun k => { k with pmu.cnt := sset 0 k.pmu.cnt ((o - 0x7080) / 8) (v % 2 ^ 48) }
  else if o = 0x7180 then
    s.locked64 (s.core c).pmu.sampling (0x2000000 + c.val * 0x40000 + o) w fun t =>
      t.modCore c fun k => { k with pmu.sampBase := addrBits v }
  else s

/-! BAR0 -/

/-- R529: the core window an offset lies in, if it is there (R5, R532). -/
def State.windowCore (s : State) (off : Nat) : Option CoreId :=
  if h : (off - 0x2000000) / 0x40000 < 64 then
    (if 0x2000000 ≤ off && s.coreWindow ((off - 0x2000000) / 0x40000) then some ⟨(off - 0x2000000) / 0x40000, h⟩ else none)
  else none

/-- A write that reaches a 32-bit register, or a hole (R530). -/
def State.regWrite32 (s : State) (off : Nat) (w : Word32) : State :=
  if off < 0x100000 then s.writeTop off w
  else if off < 0x200000 then s.writeHub (off - 0x100000) w
  else if off < 0x300000 then s.writeErr (off - 0x200000) w
  else if off < 0x400000 then s.writePmu (off - 0x300000) w
  else if off < 0x500000 then s.writePwr (off - 0x400000) w
  else if off < 0x600000 then s.writeMss (off - 0x500000) w
  else if off < 0x800000 then s.writeCke (off - 0x600000) w
  else if off < 0xC00000 then s.writeFab (off - 0x800000) w
  else if off < 0x1000000 then s.writeCle (off - 0xC00000) w
  else if off < 0x2000000 then s.writeDie ((off - 0x1000000) / 0x800000) ((off - 0x1000000) % 0x800000) w
  else match s.windowCore off with
    | some c => (s.wakeCore c).writeCore c ((off - 0x2000000) % 0x40000) w
    | none => s

/-- A write that reaches a 64-bit register, all or half of it. -/
def State.regWrite64 (s : State) (off : Nat) (w : RegWrite) : State :=
  if off < 0x100000 then s
  else if off < 0x200000 then s.writeHub64 (off - 0x100000) w
  else if off < 0x300000 then s.writeErr64 (off - 0x200000) w
  else if off < 0x400000 then s.writePmu64 (off - 0x300000) w
  else if off < 0x500000 then s.writePwr64 (off - 0x400000) w
  else if off < 0x600000 then s.writeMss64 (off - 0x500000) w
  else if off < 0x800000 then s.writeCke64 (off - 0x600000) w
  else if off < 0xC00000 then s.writeFab64 (off - 0x800000) w
  else if off < 0x1000000 then s
  else if off < 0x2000000 then s.writeDie64 ((off - 0x1000000) / 0x800000) ((off - 0x1000000) % 0x800000) w
  else match s.windowCore off with
    | some c => (s.wakeCore c).writeCore64 c ((off - 0x2000000) % 0x40000) w
    | none => s

/-- R484: offsets open to the host while OFFLINE: TOP_RESET, ERR_VALID, ERR_FATAL_STATUS. -/
def openOffline (off : Nat) : Bool := [0x200, 0x200008, 0x200020].contains off

/-- R12, R484: a 4-byte write. -/
def State.write4 (s : State) (off : Nat) (w : Word32) : State :=
  if s.err.offline && !openOffline off then s
  else if isWide64 off then s.regWrite64 off (.low w)
  else if 4 ≤ off && isWide64 (off - 4) then s.regWrite64 (off - 4) (.high w)
  else s.regWrite32 off w

/-- REGISTER_WRITE (R5, R11, R12, R16, R484, R530 to R532): a host write of `size` bytes at an offset of BAR0. -/
def execRegisterWrite (off : Word32) (value : Word64) (size : BitVec 8) (s : State) : Answer :=
  let o := off.toNat
  let lo : Word32 := value.setWidth 32
  let hi : Word32 := (value >>> 32).setWidth 32
  if !s.pwr.stagesOn || !s.hub.linkUp || decide (0x4000000 ≤ o) then .next s
  else if size = 4 && o % 4 = 0 then .next (s.write4 o lo)
  else if size = 8 && o % 8 = 0 then
    .next (if isWide64 o then (if s.err.offline then s else s.regWrite64 o (.all value)) else (s.write4 o lo).write4 (o + 4) hi)
  else if s.err.offline then .next s
  else .next (s.raise 0x0C01 .c 0 (regPayload o value.toNat size.toNat 0))

end Sys2Proof.Machine
end

