-- ==== Sys2Proof/Machine/Remote.lean ====
section
/-! DEFINITION. The packets that reach the hub's agents (R81, R215, R216, R269 to R276): forwarding, remote accesses, remote
signals, echoes, and the responses and timeouts of this device's own requests. -/

namespace Sys2Proof.Machine

/-- PACKET_FORWARD (R275, R276): the oldest packet for another device goes out with one hop less, or is dropped. -/
def execPacketForward (s : State) : Answer :=
  match s.takeForward with
  | none => .next s
  | some (p, s1) => .next (if p.hops = 0 then (s1.freeHeld p).drop .ttl p else s1.routeOut { p with hops := p.hops - 1 })

/-! Requests of other devices -/

/-- R270: is the range inside one valid window that permits the operation? A request must be of whole lines (R269). -/
def State.windowOk (s : State) (a n : Nat) (write : Bool) : Bool :=
  a % 64 = 0 && n % 64 = 0 && 64 ≤ n && n ≤ 4096 && (List.range 8).any fun i =>
    let b := (sget 0 s.fab.rwinBase i).toNat
    let l := (sget 0 s.fab.rwinLimit i).toNat
    bitAt b 0 && bitAt b (if write then 2 else 1) && decide (fld b 6 46 * 64 ≤ a) && decide (a + n ≤ fld l 6 46 * 64 + 64)

/-- R270: answers NAK WINDOW and records the refusal. -/
def State.refuseWindow (s : State) (p : Packet) : State :=
  (s.raise 0x0809 .c 0x7F (devPayload p.src 0 0 + p.addr <<< 96)).respond p 0x06 1 []

/-- R271: answers NAK PKEY. -/
def State.refusePkey (s : State) (p : Packet) : State := s.respond p 0x06 2 []

/-- A request on VC0: its partition key (R271), then what it asks for; what it writes waits for lines that the host
caches (R385). -/
def serveRequest (s : State) (ptype : Nat) (f : Packet → State → State) : Answer :=
  match s.takeType ptype with
  | none => .next s
  | some (p, s1) => .next (if p.pkey ≠ s1.fab.pkey then s1.refusePkey p else afterSnoop s (f p s1))

/-- R227, R270: a remote write of one line; a hole discards it. -/
def State.remoteLine (s : State) (a : Nat) (bs : List Byte) : State := s.agentWrite a 0x84 bs

/-- R270: a WR inside the windows: the lines are written, those its AUX marks as poisoned (R222; assumption 68), and
acknowledged; a RESHARD may have waited for them (R374). -/
def serveWr (p : Packet) (s : State) : State :=
  if !s.windowOk p.addr p.len true then s.refuseWindow p
  else
    let s1 := (List.range (p.len / 64)).foldl (fun t i =>
      let a := p.addr + 64 * i
      let u := t.remoteLine a ((p.payload.drop (64 * i)).take 64)
      if bitAt p.aux i && u.populated a then u.setPoison a true else u) s
    ({ s1 with cke.arrived := s1.cke.arrived ++ [(p.addr, p.addr + p.len)] }.settleReshard).respond p 0x05 0 []

/-- WR (R270). -/
def execWr (s : State) : Answer := serveRequest s 0x01 serveWr

/-- R230, R233, R269: a WR_PARTIAL inside the windows: the enabled bytes are written. -/
def serveWrPartial (p : Packet) (s : State) : State :=
  if p.len ≠ 64 || !s.windowOk p.addr 64 true then s.refuseWindow p
  else
    let on := (List.range 64).filter (bitAt p.aux)
    let s1 := s.writeMasked 0x84 p.addr p.payload p.aux
    ({ s1 with cke.arrived := s1.cke.arrived ++ on.map fun i => (p.addr + i, p.addr + i + 1) }.settleReshard).respond p 0x05 0 []

/-- WR_PARTIAL (R269, R270). -/
def execWrPartial (s : State) : Answer := serveRequest s 0x02 serveWrPartial

/-- R227, R232, R270: a RD_REQ inside the windows: each line is read, and the answer tells which are poisoned. -/
def serveRd (p : Packet) (s : State) : State :=
  if !s.windowOk p.addr p.len false then s.refuseWindow p
  else
    let (aux, s1) := (List.range (p.len / 64)).foldl (fun (x : Nat × State) i =>
      let (bad, t) := x.2.touchLine (p.addr + 64 * i) 0x84
      (x.1 + b2n bad <<< i, t)) (0, s)
    s1.respond p 0x04 aux (s1.bytesAt p.addr p.len)

/-- RD_REQ (R270). -/
def execRdReq (s : State) : Answer := serveRequest s 0x03 serveRd

/-- R81: why a signal is dropped at its target: no such core, or a flag that is reserved here (R77); the code and instance
of its record are the model's choice (DESIGN CHOICE, assumption 57). -/
def State.signalDrop (s : State) (p : Packet) : Option (Nat × Nat) :=
  let flag := fld p.aux 22 10
  let core := fld p.aux 16 6
  if bitAt p.aux 14 then (if flag < 64 then some (0x030A, 0x7F) else none)
  else if !s.inService core then some (0x0301, core)
  else if 248 ≤ flag then some (0x030A, core)
  else none

/-- R81, R274: a SIGNAL adds to its flag once per SSEQ and is acknowledged; a dropped one is recorded. -/
def serveSignal (p : Packet) (s : State) : State :=
  let seen := sget [] s.fab.applied p.src
  let flag := fld p.aux 22 10
  let inc : Word32 := BitVec.ofNat 32 (fld p.aux 32 32)
  if seen.contains p.sseq then s.respond p 0x08 0 []
  else match s.signalDrop p with
    | some (code, inst) => (s.raise code .c inst 0).respond p 0x08 1 []
    | none =>
      let s1 := { s with fab.applied := sset [] s.fab.applied p.src ((p.sseq :: seen).take 64) }
      (if bitAt p.aux 14 then s1.addHubFlag flag inc
       else s1.addCoreFlag (coreNo (fld p.aux 16 6)) flag inc).respond p 0x08 0 []

/-- SIGNAL_PACKET (R274). -/
def execSignalPacket (s : State) : Answer := serveRequest s 0x07 serveSignal

/-- ECHO (R269): the payload returns unchanged. -/
def execEcho (s : State) : Answer :=
  match s.takeType 0x30 with
  | none => .next s
  | some (p, s1) => .next (s1.respond p 0x31 p.aux p.payload)

/-- ECHO_REPLY (R269): the device has sent no ECHO that waits for it. -/
def execEchoReply (s : State) : Answer :=
  match s.takeType 0x31 with
  | none => .next s
  | some (_, s1) => .next s1

/-! Responses to this device's requests -/

/-- The started command a request belongs to. -/
def State.ownerRun (s : State) (c cmd : Nat) : Option TmvRun := (s.core (coreNo c)).t.run.find? fun r => r.cmd.id = cmd

/-- R215: lines of a get arrive; with all of them its elements are written. -/
def State.getArrives (s : State) (c cmd : Nat) (q : Packet) (p : Packet) : State :=
  let core := coreNo c
  let ls := (List.range (q.len / 64)).map fun i => (q.addr / 64 + i, (p.payload.drop (64 * i)).take 64, bitAt p.aux i)
  let s1 := s.modCore core fun k => { k with
    t.run := k.t.run.map fun r => if r.cmd.id = cmd then { r with got := r.got ++ ls } else r }
  match s1.ownerRun c cmd with
  | none => s1
  | some r =>
    if r.todo.isEmpty && !(s1.owes (.mover c cmd)) then finishGet s1 core r else issueRemote s1 core r.cmd r.desc

/-- RD_RESP (R215, R222, R269, R379): read data for a mover's get or a restore; one that answers nothing is discarded
(R273). -/
def execRdResp (s : State) : Answer :=
  match s.takeType 0x04 with
  | none => .next s
  | some (p, s1) => match s1.takeReq p with
    | none => .next s1
    | some (r, s2) => match r.owner with
      | .mover c cmd => .next (afterSnoop s (s2.getArrives c cmd r.pkt p))
      | .restore slot off => .next (afterSnoop s (s2.restorePiece slot off p.payload (p.aux ≠ 0)))
      | .signal _ _ | .reshard | .ckpt => .next s2

/-- What an acknowledged put lets its owner go on with. -/
def State.putDone (s : State) : ReqOwner → State
  | .mover c cmd => match s.ownerRun c cmd with
    | some r => issueRemote s (coreNo c) r.cmd r.desc
    | none => s
  | .reshard => s.settleReshard
  | .ckpt => s.settleCkpt
  | .signal _ _ | .restore _ _ => s

/-- WR_ACK (R215, R269, R374, R377). -/
def execWrAck (s : State) : Answer :=
  match s.takeType 0x05 with
  | none => .next s
  | some (p, s1) => match s1.takeReq p with
    | none => .next s1
    | some (r, s2) => .next (s2.putDone r.owner)

/-- SIGNAL_ACK (R81, R269): the RSIGNAL is complete, dropped or not. -/
def execSignalAck (s : State) : Answer :=
  match s.takeType 0x08 with
  | none => .next s
  | some (p, s1) => match s1.takeReq p with
    | none => .next s1
    | some (r, s2) => match r.owner with
      | .signal c cmd => .next (s2.modCore (coreNo c) fun k => hubDone k cmd)
      | .mover _ _ | .reshard | .ckpt | .restore _ _ => .next s2

/-- R273: an RSIGNAL fails for good: the record names its command, and its list and job halt. -/
def State.signalFail (s : State) (c cmd : Nat) : State :=
  let core := coreNo c
  match (s.core core).t.hubRun.find? fun r => r.cmd.id = cmd with
  | none => s
  | some r =>
    let e := r.cmd
    let s1 := s.raiseHalting 0x080A .d 0x7F (cmdPayload e.idx e.pass c e.opc e.routine noPos 0)
    (s1.modCore core fun k => { k with
      t.hubRun := k.t.hubRun.filter (·.cmd.id ≠ cmd)
      q.seq := .haltFault, q.cmdIndex := e.idx, q.lost := k.q.lost ++ [cmd] }).haltJob 0x080A

/-- A call of the CKE whose transfers fail ends its list as a mover's command would (R216). -/
def State.callPutFail (s : State) (c id : Nat) : State :=
  match s.callOf (coreNo c) id with
  | some ci => s.callFault (coreNo c) ci 0x0607 c noPos
  | none => s

/-- R216, R273: what the failure of a request does to its owner. -/
def State.requestFails (s : State) : ReqOwner → State
  | .mover c cmd => match s.ownerRun c cmd with
    | some r => s.remoteFail (coreNo c) r
    | none => s
  | .signal c cmd => s.signalFail c cmd
  | .reshard => match s.cke.reshard with
    | some r => ({ s with cke.reshard := none, fab.reqs := s.fab.reqs.filter fun (q : Request) => q.owner ≠ ReqOwner.reshard }).callPutFail r.core 0x30
    | none => s
  | .ckpt => match s.cke.ckpt with
    | some r => ({ s with cke.ckpt := none, fab.reqs := s.fab.reqs.filter fun (q : Request) => q.owner ≠ ReqOwner.ckpt }).callPutFail r.core 0x31
    | none => s
  | .restore _ _ => if s.cke.restore.isSome then s.restoreFail else s

/-- NAK (R216, R270, R271): the target refuses a request. -/
def execNak (s : State) : Answer :=
  match s.takeType 0x06 with
  | none => .next s
  | some (p, s1) => match s1.takeReq p with
    | none => .next s1
    | some (r, s2) => .next (afterSnoop s (s2.requestFails r.owner))

/-- E2E_TIMEOUT (R273): a request has had no response within TIMEOUT_US: it is sent again with the same TAG and SSEQ, or
fails after the last retry. -/
def execE2eTimeout (tag : BitVec 18) (s : State) : Answer :=
  match s.fab.reqs.find? fun r => r.pkt.tag = tag.toNat with
  | none => .next s
  | some r =>
    if r.tries < s.fab.retriesMax then
      let s1 := { s with fab.reqs := s.fab.reqs.map fun (q : Request) => if q = r then { q with tries := q.tries + 1 } else q }
      .next (s1.sendPacket r.pkt)
    else .next (afterSnoop s ({ s with fab.reqs := s.fab.reqs.filter fun (q : Request) => q ≠ r }.requestFails r.owner))

end Sys2Proof.Machine
end

