-- ==== Sys2Proof/Machine/Dispatch.lean ====
section
/-! DEFINITION. One arm per command of the table: the command's effect on everything but the queue. -/

namespace Sys2Proof.Machine

def exec (i : Instr) (s : State) : Host.Outcome State Fault Refusal :=
  match i with
  | .nop core lo imm => Sys2Proof.Machine.execNop core lo imm s
  | .tile core lo imm => Sys2Proof.Machine.execTile core lo imm s
  | .drop core lo imm => Sys2Proof.Machine.execDrop core lo imm s
  | .dup core lo imm => Sys2Proof.Machine.execDup core lo imm s
  | .pset core lo imm => Sys2Proof.Machine.execPset core lo imm s
  | .padd core lo imm => Sys2Proof.Machine.execPadd core lo imm s
  | .pcopy core lo imm => Sys2Proof.Machine.execPcopy core lo imm s
  | .wait core lo imm => Sys2Proof.Machine.execWait core lo imm s
  | .waitComplete core => Sys2Proof.Machine.execWaitComplete core s
  | .signal core lo imm => Sys2Proof.Machine.execSignal core lo imm s
  | .fence core lo imm => Sys2Proof.Machine.execFence core lo imm s
  | .call core lo imm => Sys2Proof.Machine.execCall core lo imm s
  | .recBegin core lo imm => Sys2Proof.Machine.execRecBegin core lo imm s
  | .recEnd core lo imm => Sys2Proof.Machine.execRecEnd core lo imm s
  | .replay core lo imm => Sys2Proof.Machine.execReplay core lo imm s
  | .replayPass core => Sys2Proof.Machine.execReplayPass core s
  | .patch core lo imm => Sys2Proof.Machine.execPatch core lo imm s
  | .endList core lo imm => Sys2Proof.Machine.execEndList core lo imm s
  | .mxuLoadw core lo imm => Sys2Proof.Machine.execMxuLoadw core lo imm s
  | .mxuStream core lo imm => Sys2Proof.Machine.execMxuStream core lo imm s
  | .mxuDrain core lo imm => Sys2Proof.Machine.execMxuDrain core lo imm s
  | .mxuMultipass core lo imm => Sys2Proof.Machine.execMxuMultipass core lo imm s
  | .mxuClear core lo imm => Sys2Proof.Machine.execMxuClear core lo imm s
  | .mxuStart core ecc => Sys2Proof.Machine.execMxuStart core ecc s
  | .treeOutput core arr upset => Sys2Proof.Machine.execTreeOutput core arr upset s
  | .drainRowRead core arr upset => Sys2Proof.Machine.execDrainRowRead core arr upset s
  | .vceCfg core lo imm => Sys2Proof.Machine.execVceCfg core lo imm s
  | .vceRun core lo imm => Sys2Proof.Machine.execVceRun core lo imm s
  | .vceTblload core lo imm => Sys2Proof.Machine.execVceTblload core lo imm s
  | .vcePerm core lo imm => Sys2Proof.Machine.execVcePerm core lo imm s
  | .vceReduce core lo imm => Sys2Proof.Machine.execVceReduce core lo imm s
  | .vceScan core lo imm => Sys2Proof.Machine.execVceScan core lo imm s
  | .vceStart core ecc => Sys2Proof.Machine.execVceStart core ecc s
  | .tmvCopy core lo imm => Sys2Proof.Machine.execTmvCopy core lo imm s
  | .tmvGather core lo imm => Sys2Proof.Machine.execTmvGather core lo imm s
  | .tmvScatter core lo imm => Sys2Proof.Machine.execTmvScatter core lo imm s
  | .tmvRemote core lo imm => Sys2Proof.Machine.execTmvRemote core lo imm s
  | .tmvCheckPhase core ecc => Sys2Proof.Machine.execTmvCheckPhase core ecc s
  | .tmvAccessPhase core which ecc hits => Sys2Proof.Machine.execTmvAccessPhase core which ecc hits s
  | .rsignal core lo imm => Sys2Proof.Machine.execRsignal core lo imm s
  | .signalRelease core => Sys2Proof.Machine.execSignalRelease core s
  | .cleBucket core phase => Sys2Proof.Machine.execCleBucket core phase s
  | .cleSmallreduce core phase => Sys2Proof.Machine.execCleSmallreduce core phase s
  | .commandComplete core engine which => Sys2Proof.Machine.execCommandComplete core engine which s
  | .queueDeadlock waited => Sys2Proof.Machine.execQueueDeadlock waited s
  | .creditLapse core unit => Sys2Proof.Machine.execCreditLapse core unit s
  | .softmax core => Sys2Proof.Machine.execSoftmax core s
  | .layernorm core => Sys2Proof.Machine.execLayernorm core s
  | .rmsnorm core => Sys2Proof.Machine.execRmsnorm core s
  | .linscan core => Sys2Proof.Machine.execLinscan core s
  | .topk core => Sys2Proof.Machine.execTopk core s
  | .sample core => Sys2Proof.Machine.execSample core s
  | .xent core => Sys2Proof.Machine.execXent core s
  | .conv1d core => Sys2Proof.Machine.execConv1d core s
  | .exchStart core => Sys2Proof.Machine.execExchStart core s
  | .allgather core => Sys2Proof.Machine.execAllgather core s
  | .update core blocks => Sys2Proof.Machine.execUpdate core blocks s
  | .shardFinalsReady die blocks => Sys2Proof.Machine.execShardFinalsReady die blocks s
  | .shardImageComplete die blocks => Sys2Proof.Machine.execShardImageComplete die blocks s
  | .precond core tiles => Sys2Proof.Machine.execPrecond core tiles s
  | .reshard core => Sys2Proof.Machine.execReshard core s
  | .ckpt core => Sys2Proof.Machine.execCkpt core s
  | .part => Sys2Proof.Machine.execPart s
  | .close => Sys2Proof.Machine.execClose s
  | .ack => Sys2Proof.Machine.execAck s
  | .retry => Sys2Proof.Machine.execRetry s
  | .final => Sys2Proof.Machine.execFinal s
  | .finalClose => Sys2Proof.Machine.execFinalClose s
  | .gather => Sys2Proof.Machine.execGather s
  | .gatherFc => Sys2Proof.Machine.execGatherFc s
  | .gatherClose => Sys2Proof.Machine.execGatherClose s
  | .sr differs => Sys2Proof.Machine.execSr differs s
  | .hopWaitExpiry bucket shard => Sys2Proof.Machine.execHopWaitExpiry bucket shard s
  | .cleHopSkip gather bucket shard => Sys2Proof.Machine.execCleHopSkip gather bucket shard s
  | .cleDeadline bucket shard => Sys2Proof.Machine.execCleDeadline bucket shard s
  | .cleSrTimeout group => Sys2Proof.Machine.execCleSrTimeout group s
  | .ready => Sys2Proof.Machine.execReady s
  | .stageMissing => Sys2Proof.Machine.execStageMissing s
  | .digest => Sys2Proof.Machine.execDigest s
  | .digestTimeout ent => Sys2Proof.Machine.execDigestTimeout ent s
  | .probeTick => Sys2Proof.Machine.execProbeTick s
  | .probe => Sys2Proof.Machine.execProbe s
  | .probeAck => Sys2Proof.Machine.execProbeAck s
  | .lossNotice => Sys2Proof.Machine.execLossNotice s
  | .vote => Sys2Proof.Machine.execVote s
  | .voteAck => Sys2Proof.Machine.execVoteAck s
  | .voteTimeout => Sys2Proof.Machine.execVoteTimeout s
  | .decisionAck => Sys2Proof.Machine.execDecisionAck s
  | .ckeOrphaned => Sys2Proof.Machine.execCkeOrphaned s
  | .commit => Sys2Proof.Machine.execCommit s
  | .abortStep => Sys2Proof.Machine.execAbortStep s
  | .retryUpdate => Sys2Proof.Machine.execRetryUpdate s
  | .rollback => Sys2Proof.Machine.execRollback s
  | .haltAll => Sys2Proof.Machine.execHaltAll s
  | .hostAbort w => Sys2Proof.Machine.execHostAbort w s
  | .hostLineUpdate q sqTail cqHead poisoned => Sys2Proof.Machine.execHostLineUpdate q sqTail cqHead poisoned s
  | .start q e => Sys2Proof.Machine.execStart q e s
  | .jobStart => Sys2Proof.Machine.execJobStart s
  | .jobDone => Sys2Proof.Machine.execJobDone s
  | .suspend q e => Sys2Proof.Machine.execSuspend q e s
  | .suspended => Sys2Proof.Machine.execSuspended s
  | .resume q e => Sys2Proof.Machine.execResume q e s
  | .terminate q e => Sys2Proof.Machine.execTerminate q e s
  | .jobTermForced => Sys2Proof.Machine.execJobTermForced s
  | .ringNop q op e => Sys2Proof.Machine.execRingNop q op e s
  | .ringEnable q w => Sys2Proof.Machine.execRingEnable q w s
  | .cxlMemRead line cache hits => Sys2Proof.Machine.execCxlMemRead line cache hits s
  | .cxlMemWrite line data mask poison keep => Sys2Proof.Machine.execCxlMemWrite line data mask poison keep s
  | .bisnpResponse line => Sys2Proof.Machine.execBisnpResponse line s
  | .hostBisnpTimeout line => Sys2Proof.Machine.execHostBisnpTimeout line s
  | .hostLinkDown => Sys2Proof.Machine.execHostLinkDown s
  | .msixBindArm n w => Sys2Proof.Machine.execMsixBindArm n w s
  | .msixModExpiry => Sys2Proof.Machine.execMsixModExpiry s
  | .coldReset w badHub badRoutines strap e0 e1 => Sys2Proof.Machine.execColdReset w badHub badRoutines strap e0 e1 s
  | .warmReset trigger hdm => Sys2Proof.Machine.execWarmReset trigger hdm s
  | .hubPreservingReset w => Sys2Proof.Machine.execHubPreservingReset w s
  | .resetArm w => Sys2Proof.Machine.execResetArm w s
  | .resetDisarm w => Sys2Proof.Machine.execResetDisarm w s
  | .perstNDeassert hdm => Sys2Proof.Machine.execPerstNDeassert hdm s
  | .initDone die => Sys2Proof.Machine.execInitDone die s
  | .seqFlagAdd core n w => Sys2Proof.Machine.execSeqFlagAdd core n w s
  | .hubFlagAdd n w => Sys2Proof.Machine.execHubFlagAdd n w s
  | .dlkStatusClear w => Sys2Proof.Machine.execDlkStatusClear w s
  | .mxuInject core w => Sys2Proof.Machine.execMxuInject core w s
  | .memInject die w => Sys2Proof.Machine.execMemInject die w s
  | .errInject w => Sys2Proof.Machine.execErrInject w s
  | .recordAcknowledge w => Sys2Proof.Machine.execRecordAcknowledge w s
  | .fatalClear w => Sys2Proof.Machine.execFatalClear w s
  | .snapshot w => Sys2Proof.Machine.execSnapshot w s
  | .snapshotDone => Sys2Proof.Machine.execSnapshotDone s
  | .freeze w => Sys2Proof.Machine.execFreeze w s
  | .skidSample core skid => Sys2Proof.Machine.execSkidSample core skid s
  | .preciseSample core latency => Sys2Proof.Machine.execPreciseSample core latency s
  | .pmuSampleLost core => Sys2Proof.Machine.execPmuSampleLost core s
  | .pkgLimitWrite w => Sys2Proof.Machine.execPkgLimitWrite w s
  | .coolantReport w => Sys2Proof.Machine.execCoolantReport w s
  | .coolantStale => Sys2Proof.Machine.execCoolantStale s
  | .laserEnable w => Sys2Proof.Machine.execLaserEnable w s
  | .laserFaultClear w => Sys2Proof.Machine.execLaserFaultClear w s
  | .quiesce port w => Sys2Proof.Machine.execQuiesce port w s
  | .portDisable port w => Sys2Proof.Machine.execPortDisable port w s
  | .fullTrain port w => Sys2Proof.Machine.execFullTrain port w s
  | .mailboxSend w => Sys2Proof.Machine.execMailboxSend w s
  | .m2hFullClear w => Sys2Proof.Machine.execM2hFullClear w s
  | .registerWrite off value size => Sys2Proof.Machine.execRegisterWrite off value size s
  | .powerEntryStart => Sys2Proof.Machine.execPowerEntryStart s
  | .pwrVinRange mv => Sys2Proof.Machine.execPwrVinRange mv s
  | .pwrBrownout => Sys2Proof.Machine.execPwrBrownout s
  | .pwrVinOv => Sys2Proof.Machine.execPwrVinOv s
  | .pwrOcp => Sys2Proof.Machine.execPwrOcp s
  | .pwrDieLost die => Sys2Proof.Machine.execPwrDieLost die s
  | .pwrHubLost => Sys2Proof.Machine.execPwrHubLost s
  | .vstbyLoss => Sys2Proof.Machine.execVstbyLoss s
  | .grantPeriod vin iin pkg uncred => Sys2Proof.Machine.execGrantPeriod vin iin pkg uncred s
  | .yield => Sys2Proof.Machine.execYield s
  | .ballastRelease owner unit => Sys2Proof.Machine.execBallastRelease owner unit s
  | .pwrThrottle => Sys2Proof.Machine.execPwrThrottle s
  | .throttleDown => Sys2Proof.Machine.execThrottleDown s
  | .pwrThermThrottle domain => Sys2Proof.Machine.execPwrThermThrottle domain s
  | .pwrTjCrit place => Sys2Proof.Machine.execPwrTjCrit place s
  | .pwrThermtrip => Sys2Proof.Machine.execPwrThermtrip s
  | .pwrLeak => Sys2Proof.Machine.execPwrLeak s
  | .pwrStageHot stage => Sys2Proof.Machine.execPwrStageHot stage s
  | .pwrOeShutdown engine => Sys2Proof.Machine.execPwrOeShutdown engine s
  | .oeRelight engine => Sys2Proof.Machine.execOeRelight engine s
  | .replan short0 short1 shortHub outlier => Sys2Proof.Machine.execReplan short0 short1 shortHub outlier s
  | .aoCompare n => Sys2Proof.Machine.execAoCompare n s
  | .aoRcFallback => Sys2Proof.Machine.execAoRcFallback s
  | .coreClockStop core => Sys2Proof.Machine.execCoreClockStop core s
  | .selfRefresh die stack => Sys2Proof.Machine.execSelfRefresh die stack s
  | .scrubRead die hits => Sys2Proof.Machine.execScrubRead die hits s
  | .memStackFail die stack => Sys2Proof.Machine.execMemStackFail die stack s
  | .t2LinkDown port => Sys2Proof.Machine.execT2LinkDown port s
  | .expanderFatal port => Sys2Proof.Machine.execExpanderFatal port s
  | .lossOfLight port => Sys2Proof.Machine.execLossOfLight port s
  | .lightReturn port => Sys2Proof.Machine.execLightReturn port s
  | .trainingComplete port ns => Sys2Proof.Machine.execTrainingComplete port ns s
  | .fastTrainFallback port => Sys2Proof.Machine.execFastTrainFallback port s
  | .identityExchange port id => Sys2Proof.Machine.execIdentityExchange port id s
  | .fabLinkDown port => Sys2Proof.Machine.execFabLinkDown port s
  | .quiesced port => Sys2Proof.Machine.execQuiesced port s
  | .laneFail engine lane symbols => Sys2Proof.Machine.execLaneFail engine lane symbols s
  | .dataFlit port flit => Sys2Proof.Machine.execDataFlit port flit s
  | .ctrlFlit port flit spare unmarked => Sys2Proof.Machine.execCtrlFlit port flit spare unmarked s
  | .flitNak port flit => Sys2Proof.Machine.execFlitNak port flit s
  | .packetForward => Sys2Proof.Machine.execPacketForward s
  | .wr => Sys2Proof.Machine.execWr s
  | .wrPartial => Sys2Proof.Machine.execWrPartial s
  | .rdReq => Sys2Proof.Machine.execRdReq s
  | .rdResp => Sys2Proof.Machine.execRdResp s
  | .wrAck => Sys2Proof.Machine.execWrAck s
  | .nak => Sys2Proof.Machine.execNak s
  | .signalPacket => Sys2Proof.Machine.execSignalPacket s
  | .signalAck => Sys2Proof.Machine.execSignalAck s
  | .echo => Sys2Proof.Machine.execEcho s
  | .echoReply => Sys2Proof.Machine.execEchoReply s
  | .e2eTimeout tag => Sys2Proof.Machine.execE2eTimeout tag s
  | .fabLaserFault module => Sys2Proof.Machine.execFabLaserFault module s
  | .feedPowerCheck module power => Sys2Proof.Machine.execFeedPowerCheck module power s
  | .feedPowerLow module power => Sys2Proof.Machine.execFeedPowerLow module power s
  | .laserPoll module pin reading => Sys2Proof.Machine.execLaserPoll module pin reading s
  | .errorRecord => Sys2Proof.Machine.execErrorRecord s
  | .fatalHandlingEnd => Sys2Proof.Machine.execFatalHandlingEnd s
  | .boot strap => Sys2Proof.Machine.execBoot strap s
  | .mssWatchdog => Sys2Proof.Machine.execMssWatchdog s
  | .sensorSample sensor value => Sys2Proof.Machine.execSensorSample sensor value s
  | .logFlush aOk bOk => Sys2Proof.Machine.execLogFlush aOk bOk s
  | .alertResponse => Sys2Proof.Machine.execAlertResponse s
  | .ibiRepeat read => Sys2Proof.Machine.execIbiRepeat read s
  | .setdasa static dyn => Sys2Proof.Machine.execSetdasa static dyn s
  | .entdaa dyn => Sys2Proof.Machine.execEntdaa dyn s
  | .rstdaa => Sys2Proof.Machine.execRstdaa s
  | .setEndpointId eid => Sys2Proof.Machine.execSetEndpointId eid s
  | .getEndpointId tr => Sys2Proof.Machine.execGetEndpointId tr s
  | .getMctpVersionSupport tr => Sys2Proof.Machine.execGetMctpVersionSupport tr s
  | .getMessageTypeSupport tr => Sys2Proof.Machine.execGetMessageTypeSupport tr s
  | .logRead tr fatal seq count => Sys2Proof.Machine.execLogRead tr fatal seq count s
  | .fwConfirm tr owner => Sys2Proof.Machine.execFwConfirm tr owner s
  | .mssRestart tr force => Sys2Proof.Machine.execMssRestart tr force s
  | .ownerKeySet tr digest => Sys2Proof.Machine.execOwnerKeySet tr digest s
  | .routineLoad tr first last offset total bytes => Sys2Proof.Machine.execRoutineLoad tr first last offset total bytes s
  | .requestUpdate tr => Sys2Proof.Machine.execRequestUpdate tr s
  | .passComponentTable tr cls => Sys2Proof.Machine.execPassComponentTable tr cls s
  | .updateComponent tr => Sys2Proof.Machine.execUpdateComponent tr s
  | .firmwareData tr bytes last => Sys2Proof.Machine.execFirmwareData tr bytes last s
  | .activateFirmware tr selfContained => Sys2Proof.Machine.execActivateFirmware tr selfContained s
  | .cancelUpdate tr => Sys2Proof.Machine.execCancelUpdate tr s
  | .updateLockTimeout => Sys2Proof.Machine.execUpdateLockTimeout s
  | .setEventReceiver tr receiver => Sys2Proof.Machine.execSetEventReceiver tr receiver s
  | .getSensorReading tr sensor => Sys2Proof.Machine.execGetSensorReading tr sensor s
  | .coolantInletEffecter tr value => Sys2Proof.Machine.execCoolantInletEffecter tr value s
  | .coolantFlowEffecter tr value => Sys2Proof.Machine.execCoolantFlowEffecter tr value s
  | .packageLimitEffecter tr w => Sys2Proof.Machine.execPackageLimitEffecter tr w s
  | .deviceResetEffecter tr => Sys2Proof.Machine.execDeviceResetEffecter tr s
  | .getVersion tr => Sys2Proof.Machine.execGetVersion tr s
  | .getCapabilities tr => Sys2Proof.Machine.execGetCapabilities tr s
  | .negotiateAlgorithms tr sha3 => Sys2Proof.Machine.execNegotiateAlgorithms tr sha3 s
  | .getDigests tr => Sys2Proof.Machine.execGetDigests tr s
  | .getCertificate tr slot offset length => Sys2Proof.Machine.execGetCertificate tr slot offset length s
  | .challenge tr slot nonce late => Sys2Proof.Machine.execChallenge tr slot nonce late s
  | .getMeasurements tr index sign nonce late => Sys2Proof.Machine.execGetMeasurements tr index sign nonce late s
  | .chunkSend tr bytes last => Sys2Proof.Machine.execChunkSend tr bytes last s
  | .chunkGet tr seq => Sys2Proof.Machine.execChunkGet tr seq s
  | .testModeHigh high => Sys2Proof.Machine.execTestModeHigh high s
  | .hostLinkRetrain => Sys2Proof.Machine.execHostLinkRetrain s
  | .topResetArmExpiry => Sys2Proof.Machine.execTopResetArmExpiry s
  | .thermtripNDeassert => Sys2Proof.Machine.execThermtripNDeassert s
  | .thermThrottleDown domain => Sys2Proof.Machine.execThermThrottleDown domain s
  | .decisionResend => Sys2Proof.Machine.execDecisionResend s
  | .counterCarry ctr inc => Sys2Proof.Machine.execCounterCarry ctr inc s
  | .mssHoldNAssert => Sys2Proof.Machine.execMssHoldNAssert s
  | .tapInstruction instr => Sys2Proof.Machine.execTapInstruction instr s
  | .pldmBaseRequest tr cmd => Sys2Proof.Machine.execPldmBaseRequest tr cmd s
  | .getPdr tr sensor => Sys2Proof.Machine.execGetPdr tr sensor s
  | .respondIfReady tr => Sys2Proof.Machine.execRespondIfReady tr s

end Sys2Proof.Machine
end

