-- ==== Sys2Proof/Machine/Step.lean ====
section
/-! DEFINITION. One step: the command at the front of the queue, or one count of the always-on counter when no command
waits (assumption 1). -/

namespace Sys2Proof.Machine

/-- Takes the oldest waiting command and runs it; with none waiting the always-on counter advances (R428). -/
def step (s : State) : Host.Outcome State Fault Refusal :=
  match s.pending with
  | [] => .next s.aoTick
  | c :: rest => exec c { s with pending := rest }

/-- The table gives its rows no bits, so no word spells a command: the state is unchanged (assumption 2). -/
def State.withFetchWord (s : State) (nbits w : Nat) : State :=
  match Sys2Proof.decodeTableWord nbits w with
  | some c => { s with pending := c :: s.pending }
  | none => s

end Sys2Proof.Machine
end

