-- ==== Sys2Proof/Safety.lean ====
section
/-! DEFINITION. The properties of states that claims speak of: the canonical form of memory, the invariants, what a
command leaves alone, and when the sequencer dispatches a word. -/

namespace Sys2Proof.Machine

/-- Device memory is in its canonical form: addresses strictly rising, no entry equal to what an unlisted address reads
as. -/
def Memory.wf (m : Memory) : Bool := swf 0 0 m.bytes && swf false 0 m.poison && swf LineErr.none 0 m.bad

/-- The state a command leaves: its next state, or the state before it should it stop. -/
def resultOf (s : State) : Answer → State
  | .next t => t
  | .fault _ => s
  | .refused _ => s

/-- The parts of the state. -/
inductive StatePart where
  | ident | nv | top | cores | hub | err | mem | cle | pue0 | pue1 | cke | pwr | fab | pmu | mss | sent | fresh
  | routineIds | pending
  deriving DecidableEq, Repr

/-- Two states hold the same in a part. -/
def StatePart.same (s t : State) : StatePart → Prop
  | .ident => t.ident = s.ident
  | .nv => t.nv = s.nv
  | .top => t.top = s.top
  | .cores => t.cores = s.cores
  | .hub => t.hub = s.hub
  | .err => t.err = s.err
  | .mem => t.mem = s.mem
  | .cle => t.cle = s.cle
  | .pue0 => t.pue0 = s.pue0
  | .pue1 => t.pue1 = s.pue1
  | .cke => t.cke = s.cke
  | .pwr => t.pwr = s.pwr
  | .fab => t.fab = s.fab
  | .pmu => t.pmu = s.pmu
  | .mss => t.mss = s.mss
  | .sent => t.sent = s.sent
  | .fresh => t.fresh = s.fresh
  | .routineIds => t.routineIds = s.routineIds
  | .pending => t.pending = s.pending

/-- The frame of a command: every part not named holds what it held. -/
def SameOutside (ps : List StatePart) (s t : State) : Prop := ∀ p, p ∉ ps → p.same s t

/-- Each of the 64 core windows of BAR0 (R5) has its core. -/
def State.has64 (s : State) : Prop := s.cores.length = 64

/-- What every step keeps: device memory in its canonical form, the 64 cores of R5, at most 256 occurrences in the error
queue (R473), a throttle step of at most 8 (R419), security version fuses within their lengths (R455, R463), and at most
2^30 reserved blocks of signing indices (R469). -/
def State.Inv (s : State) : Prop :=
  s.mem.wf = true ∧ s.has64 ∧ s.err.queue.length ≤ 256 ∧ s.pwr.throttle ≤ 8 ∧ s.nv.fwSvn ≤ 127 ∧ s.nv.ownerSvn ≤ 63 ∧
    s.nv.reserved ≤ 2 ^ 30

/-- R473, R475: one occurrence of an error is reported: it joins the queue behind the others, with the time, step and job
of `s`, when the queue has room. -/
def Raised (s t : State) (code : Nat) (cls : ErrClass) (inst payload : Nat) : Prop :=
  s.err.queue.length < 256 → t.err.queue = s.err.queue
    ++ [⟨code, cls, inst, s.pwr.aoTime, s.stepNow, s.jobIdNow, payload, false, false, none⟩]

/-- R473, R475, R94: one occurrence of an error that halts its command list is reported. -/
def RaisedHalting (s t : State) (code : Nat) (cls : ErrClass) (inst payload : Nat) : Prop :=
  s.err.queue.length < 256 → t.err.queue = s.err.queue
    ++ [⟨code, cls, inst, s.pwr.aoTime, s.stepNow, s.jobIdNow, payload, false, true, none⟩]

/-- Two states hold the same in every core but one. -/
def OtherCores (c : CoreId) (s t : State) : Prop := ∀ x, x ≠ c → t.core x = s.core x

/-- A port but for the traffic on it: what it queues, has sent and has received, and its credits. -/
def Port.besidesTraffic (x : Port) : Port :=
  { x with
    queue := [], txNext := 0, unacked := [], txUnit := 0, dedSpent := [], poolSpent := 0, rxDed := [], rxDedFreed := []
    rxPoolFreed := 0 }

/-- What an event at a port does to the other ports: nothing but to their traffic, and to that only where a packet queued
here holds a receive buffer there (R256, R267) or a stream goes on (R288). -/
def OtherPorts (p : Nat) (s t : State) : Prop :=
  (∀ q, q ≠ p → (t.port q).besidesTraffic = (s.port q).besidesTraffic) ∧
  (s.fab.streamQ = [] → (∀ y ∈ (s.port p).queue, y.held = none) → ∀ q, q ≠ p → t.port q = s.port q)

/-- DATA flits with these sequence numbers and bodies were sent on a port (R261). -/
def FlitsSent (p : Nat) (es : List Emit) (fl : List (Nat × List Byte)) : Prop :=
  List.Forall₂ (fun e f => ∃ lanes, e = Emit.flit p lanes none (flitBytes 0 f.1 f.2)) es fl

/-- R342, R415, R417: does the call of a PUE hold its power credit, or can it have it now: 2,560 units held and not marked
to be given up? -/
def State.pueCredit (s : State) (die : Nat) : Prop :=
  (s.pue die).creditWait = true → s.creditMarked ⟨die, 5⟩ = false ∧ 2560 ≤ s.creditHeld ⟨die, 5⟩

/-- The state in which a PUE goes on with its call once it holds its credit. -/
def State.pueGranted (s : State) (die : Nat) : State :=
  if (s.pue die).creditWait then
    (let u := (s.needCredit ⟨die, 5⟩ 2560).2
     u.setPue die { u.pue die with creditWait := false })
  else s

/-- R342: a PUE whose call lacks its credit waits with nothing done. -/
def PueWaits (die : Nat) (s t : State) : Prop :=
  (t.pue die).creditWait = true ∧ (t.pue die).call = (s.pue die).call ∧ (t.pue die).pre = (s.pue die).pre ∧ t.mem = s.mem ∧
    t.cores = s.cores ∧ t.cke = s.cke

/-- R321, R343, R344, R355: the PUE of a die goes on from `w` with an UPDATE call. It ends with its last shard; at a shard
whose finals are not here it waits; otherwise at most `limit` of the shard's blocks are handled, and the call is ready to
report the shard once all are. A block that faults stops the call, its list and the job. -/
def PueRuns (die limit : Nat) (w : State) (c : PueCall) (t : State) : Prop :=
  let core := coreNo c.core
  (c.todo = [] → (t.pue die).call = none ∧ (t.pue die).finWait = false ∧ (t.core core).q.call = none) ∧
  (∀ x rest, c.todo = x :: rest →
    (w.shardSkipped x.1 = true → rest = [] → (t.pue die).call = none ∧ (t.core core).q.call = none) ∧
    (w.shardSkipped x.1 = false →
      (w.shardReady x.1 c.k = false → t = w.setPue die { w.pue die with call := some c, finWait := true }) ∧
      (w.shardReady x.1 c.k = true →
        (let a := w.runShard die c x.2 limit
         (a.fin ≠ .go → (t.pue die).call = none ∧
           ∀ ci, w.callOf core 0x20 = some ci → (t.core core).q.seq = .haltFault ∧ (t.core core).q.cmdIndex = ci.idx) ∧
         (a.fin = .go → t.mem = a.st.mem ∧ (t.pue die).finWait = false ∧
           ∃ q, (t.pue die).call = some q ∧ q.todo = c.todo ∧ q.block = a.call.block ∧
             q.imageDue = decide (x.2.nblk ≤ a.call.block))))))

/-- R321, R324, R342: an UPDATE call goes on from `s`: it waits for its credit, or the first call of a step writes the step
record and the call runs. -/
def UpdateGoesOn (die limit : Nat) (s : State) (c : PueCall) (t : State) : Prop :=
  (¬s.pueCredit die → PueWaits die s t) ∧
  (s.pueCredit die → t.cke.firstUpdate = false ∧
    PueRuns die limit ((s.pueGranted die).writeStepRec die c.table c.k s.baseSeed) c t)

/-- R338, R342, R343: a PRECOND call goes on from `s`: it waits for its credit, or does its next tiles, at most `limit`, one
after the other, and ends behind the last. -/
def PrecondGoesOn (die : Nat) (core : CoreId) (ci : CallInfo) (limit : Nat) (s : State) (r : PreRun) (t : State) : Prop :=
  (¬s.pueCredit die → PueWaits die s t) ∧
  (s.pueCredit die → t = runTiles die core ci (min limit (r.todo.length + 1)) (s.pueGranted die))

/-- R442, R446, R448, R456, R513, R516: the MSS serves a request of class `c` on `tr`: it is out of reset with VSTBY in
range, READY, or in RECOVERY for the side-band classes R456 lists; with TEST_MODE high only MCTP control of the side-band is
served; a request of the mailbox is one the host has handed over. -/
def Served (s : State) (tr : Transport) (c : ReqClass) : Prop :=
  s.mss.held = false ∧ s.pwr.vstbyOk = true ∧ (s.mss.testHigh = true → c = .control ∧ tr = .sideband) ∧
  (s.mss.st = .ready ∨ (s.mss.st = .recovery ∧ tr = .sideband ∧ c ≠ .other)) ∧
  (tr = .mailbox → s.pwr.stagesOn = true ∧ s.mss.own = true)

/-- The MSS but for its mailbox, what announces an unsent message, and its log memory. -/
def Mss.besides (m : Mss) : Mss :=
  { m with
    own := false, full := false, m2hLen := 0, m2hBuf := [], m2hQueue := [], alert := false, ibi := false
    logSeq := 0, log := [], unflushed := 0, suppressed := [] }

/-- R451, R452: the log of the MSS is as it was, or its newest entry is the event `note` names. -/
def Noted (s t : State) (note : Option (Nat × Nat)) : Prop :=
  match note with
  | none => t.mss.log = s.mss.log
  | some (code, data) => t.mss.log.getLast? = some ⟨s.pwr.aoTime, s.stepNow, (s.mss.logSeq + 1) % 2 ^ 32, code, 4, 3,
      sget 0 s.mss.suppressed code, data⟩

/-- R443, R448: a request on `tr` is answered by `r`, and the MSS then holds `m` but for its mailbox, announcements and log.
On the side-band the answer is announced and the mailbox left alone; in the mailbox OWN is cleared and a message waits, `r`
behind those before it while the host has not read the last one. -/
def Answers (s t : State) (tr : Transport) (m : Mss) (note : Option (Nat × Nat)) (r : Reply) : Prop :=
  t.mss.besides = m.besides ∧ Noted s t note ∧ (∃ a b, t.sent = s.sent ++ a ++ Emit.mss tr r :: b) ∧
  (tr = .sideband → t.mss.own = s.mss.own ∧ t.mss.full = s.mss.full ∧ t.mss.m2hBuf = s.mss.m2hBuf ∧
    t.mss.m2hQueue = s.mss.m2hQueue ∧ (if s.mss.dyn.isSome then t.mss.ibi = true else t.mss.alert = true)) ∧
  (tr = .mailbox → t.mss.own = false ∧ t.mss.full = true ∧ t.mss.alert = s.mss.alert ∧ t.mss.ibi = s.mss.ibi ∧
    (s.mss.full = true → t.mss.m2hBuf = s.mss.m2hBuf ∧ t.mss.m2hQueue = s.mss.m2hQueue ++ [r]))

/-- The word is the next one of a core that may dispatch, its line is not poisoned, its opcode is `opc`, and no check
of R94 fails and no stall of R62 holds: the command `d` is dispatched. -/
def Dispatches (s : State) (c : CoreId) (lo imm : Word64) (opc : Nat) (codes stall : Core → Disp → List Nat) (d : Disp) : Prop :=
  (s.core c).ready lo.toNat imm.toNat = some d ∧ fetchWord s c (s.core c) = (false, s) ∧
    ∃ o, opSpec (wOpc d.lo) = some o ∧ o.opc = opc ∧
      lowest (commonCodes (s.core c) o d.lo d.imm d.eff
        ++ code? (opc != 0x0D && recOverflow (s.core c)) 0x030C ++ codes (s.core c) d) = none ∧
      lowest (code? (tqFull (s.core c) d.lo) 3 ++ stall (s.core c) d) = none

/-- A command that completes as it is dispatched (R60, R63): its core goes on dispatching behind it, CSIG adds 1 to the
core flag it names and to no other, the engines of the core and every other core are left alone. -/
def SeqDone (c : CoreId) (lo : Word64) (s t : State) : Prop :=
  (t.core c).q.seq = .dispatching ∧
  ((s.core c).q.replay = none → (t.core c).q.cmdIndex = (s.core c).q.cmdIndex + 1) ∧
  (∀ n, (t.core c).flag n = (s.core c).flag n
    + (if wCsig lo.toNat && !wCflagHub lo.toNat && wCflagIdx lo.toNat = n then 1 else 0)) ∧
  (t.core c).m = (s.core c).m ∧ (t.core c).v = (s.core c).v ∧ (t.core c).t = (s.core c).t ∧
  OtherCores c s t

/-- A command that joins the queue of an engine as `x` (R61 to R63, R69): the handles it pops have left the tile queues
and those it will bring have joined them, the sequencer goes on behind it, and no flag, parameter, other queue, started
command, operand-cache byte, accumulator row or other core changes. -/
def EngineQueued (c : CoreId) (e : Engine) (d : Disp) (x : EngCmd) (s t : State) : Prop :=
  (t.core c).engQueue e = (s.core c).engQueue e ++ [x] ∧
  (x.id = (s.core c).q.nextId ∧ x.opc = wOpc d.lo ∧ x.lo = d.lo ∧ x.imm = d.eff ∧ x.idx = d.idx ∧ x.pass = d.pass) ∧
  (∃ tq, popAll (s.core c).q.tq d.lo = some (x.qs0, x.qs1, x.qd, tq) ∧
    (t.core c).q.tq = shadowAfter tq d.lo x.qs0 x.qs1 x.qd (some x.id)) ∧
  (∀ f, f ≠ e → (t.core c).engQueue f = (s.core c).engQueue f) ∧ (∀ f, (t.core c).engRun f = (s.core c).engRun f) ∧
  (t.core c).q.nextId = (s.core c).q.nextId + 1 ∧ (t.core c).q.seq = .dispatching ∧
  ((s.core c).q.replay = none → (t.core c).q.cmdIndex = (s.core c).q.cmdIndex + 1) ∧
  (t.core c).q.flags = (s.core c).q.flags ∧ (t.core c).q.params = (s.core c).q.params ∧
  (t.core c).v.oc = (s.core c).v.oc ∧ (t.core c).m.acc = (s.core c).m.acc ∧ OtherCores c s t

end Sys2Proof.Machine
end

