-- ==== Sys2Proof/Certificates/Slice0/Obligations.lean ====
section
/-! DEFINITION. The statements for the provers. Each command stands in a statement whose conclusion is that it answers a
next state with the effect the spec gives it, and with what it leaves alone. -/

open Sys2Proof Sys2Proof.Machine

/-! The sequencer (03) -/

/-- R66, R69, R71: what NOP, TILE, DROP and DUP do to the tile queues. -/
def Obligations.TileQueueCommandsComplete : Prop :=
  ∀ (c : CoreId) (lo imm : Word64) (s : State) (d : Disp), s.has64 →
    (Dispatches s c lo imm 0x00 noCodes noCodes d →
      ∃ t, exec (.nop c lo imm) s = .next t ∧ SeqDone c lo s t ∧ (t.core c).q.params = (s.core c).q.params ∧
        (∀ n, (t.core c).shadow n = (s.core c).shadow n) ∧ SameOutside [.cores, .hub, .pmu, .sent] s t) ∧
    (Dispatches s c lo imm 0x01 noCodes noCodes d →
      ∃ t, exec (.tile c lo imm) s = .next t ∧ SeqDone c lo s t ∧ (t.core c).q.params = (s.core c).q.params ∧
        (∀ n, (t.core c).shadow n = (s.core c).shadow n ++ (if n = wQo lo.toNat then [⟨d.eff, none⟩] else [])) ∧
        SameOutside [.cores, .hub, .pmu, .sent] s t) ∧
    (Dispatches s c lo imm 0x02 noCodes noCodes d →
      ∃ t, exec (.drop c lo imm) s = .next t ∧ SeqDone c lo s t ∧ (t.core c).q.params = (s.core c).q.params ∧
        (s.core c).shadow (wQs0 lo.toNat) ≠ [] ∧
        (∀ n, (t.core c).shadow n = if n = wQs0 lo.toNat then ((s.core c).shadow n).tail else (s.core c).shadow n) ∧
        SameOutside [.cores, .hub, .pmu, .sent] s t) ∧
    (Dispatches s c lo imm 0x03 noCodes noCodes d →
      ∃ t e rest, exec (.dup c lo imm) s = .next t ∧ SeqDone c lo s t ∧ (t.core c).q.params = (s.core c).q.params ∧
        (s.core c).shadow (wQs0 lo.toNat) = e :: rest ∧
        (∀ n, (t.core c).shadow n = (if n = wQs0 lo.toNat then rest else (s.core c).shadow n)
          ++ (if n = wQo lo.toNat then [⟨e.handle, none⟩] else []) ++ (if n = wQr lo.toNat then [⟨e.handle, none⟩] else [])) ∧
        SameOutside [.cores, .hub, .pmu, .sent] s t)

/-- R66: PSET, PADD and PCOPY write the parameter register PIDX and no other. -/
def Obligations.ParameterCommandsComplete : Prop :=
  ∀ (c : CoreId) (lo imm : Word64) (s : State) (d : Disp), s.has64 →
    (Dispatches s c lo imm 0x04 noCodes noCodes d →
      ∃ t, exec (.pset c lo imm) s = .next t ∧ SeqDone c lo s t ∧ (t.core c).q.tq = (s.core c).q.tq ∧
        (∀ n, (t.core c).param n = if n = wPidx lo.toNat then BitVec.ofNat 64 d.eff else (s.core c).param n) ∧
        SameOutside [.cores, .hub, .pmu, .sent] s t) ∧
    (Dispatches s c lo imm 0x05 noCodes noCodes d →
      ∃ t, exec (.padd c lo imm) s = .next t ∧ SeqDone c lo s t ∧ (t.core c).q.tq = (s.core c).q.tq ∧
        (∀ n, (t.core c).param n = (s.core c).param n + (if n = wPidx lo.toNat then BitVec.ofNat 64 d.eff else 0)) ∧
        SameOutside [.cores, .hub, .pmu, .sent] s t) ∧
    (Dispatches s c lo imm 0x06 noCodes noCodes d →
      ∃ t, exec (.pcopy c lo imm) s = .next t ∧ SeqDone c lo s t ∧ (t.core c).q.tq = (s.core c).q.tq ∧
        (∀ n, (t.core c).param n = if n = wPidx lo.toNat then (s.core c).param (d.eff % 256) else (s.core c).param n) ∧
        SameOutside [.cores, .hub, .pmu, .sent] s t)

/-- R79: a WAIT stops its core behind the flag it names, and WAIT_COMPLETE lets it go on once (flag − TARGET) is not
negative, taking TARGET from the flag if the WAIT consumes; until then nothing changes. Of several consuming WAITs that one
hub flag satisfies, that of the lowest logical core completes first. -/
def Obligations.WaitHoldsUntilItsFlagIsReached : Prop :=
  ∀ (c : CoreId) (lo imm : Word64) (s : State) (d : Disp) (w : WaitInfo), s.has64 →
    (Dispatches s c lo imm 0x08 waitCodes noCodes d →
      ∃ t, exec (.wait c lo imm) s = .next t ∧ (t.core c).q.seq = .waiting ∧ (t.core c).q.stall = 5 ∧
        (t.core c).q.wait = some ⟨fld d.eff 0 10, bitAt d.eff 10, bitAt d.eff 11, BitVec.ofNat 32 (fld d.eff 32 32),
          d.idx, d.pass, d.lo, d.imm⟩ ∧
        (t.core c).q.flags = (s.core c).q.flags ∧ (t.core c).q.cmdIndex = (s.core c).q.cmdIndex ∧
        OtherCores c s t ∧ SameOutside [.cores, .hub, .pmu, .sent] s t) ∧
    ((s.core c).q.wait = some w → (s.core c).q.seq = .waiting →
      (let later := w.consume = true ∧ w.hub = true ∧ ∃ x : CoreId, x < c ∧ (s.core x).q.seq = .waiting ∧
          ∃ y n, (s.core x).q.wait = some y ∧ y.consume = true ∧ y.hub = true ∧ y.flag = w.flag ∧ n < 2 ^ 31 ∧
            s.hubFlag w.flag = y.target + BitVec.ofNat 32 n
      (later → exec (.waitComplete c) s = .next s) ∧
      ((∃ n : Nat, n < 2 ^ 31 ∧ waitFlag s (s.core c) w = w.target + BitVec.ofNat 32 n) → ¬later →
        ∃ t, exec (.waitComplete c) s = .next t ∧ (t.core c).q.wait = none ∧ (t.core c).q.seq = .dispatching ∧
          (∀ n, (t.core c).flag n = (s.core c).flag n
            - (if w.consume && !w.hub && w.flag = n then w.target else 0)
            + (if wCsig w.lo && !wCflagHub w.lo && wCflagIdx w.lo = n then 1 else 0)) ∧
          (∀ n, t.hubFlag n = s.hubFlag n - (if w.consume && w.hub && w.flag = n then w.target else 0)
            + (if wCsig w.lo && wCflagHub w.lo && wCflagIdx w.lo = n then 1 else 0)) ∧
          OtherCores c s t ∧ SameOutside [.cores, .hub, .pmu, .sent] s t)) ∧
      ((∀ n : Nat, n < 2 ^ 31 → waitFlag s (s.core c) w ≠ w.target + BitVec.ofNat 32 n) →
        exec (.waitComplete c) s = .next s))

/-- R80: SIGNAL adds INC to the core or hub flag it names and CSIG adds 1 to its own; no other flag changes but the one
an overflowing performance counter adds to (R496). -/
def Obligations.SignalAddsToOneFlag : Prop :=
  ∀ (c : CoreId) (lo imm : Word64) (s : State) (d : Disp), s.has64 →
    Dispatches s c lo imm 0x09 (signalCodes s) noCodes d →
      ∃ t, exec (.signal c lo imm) s = .next t ∧ (t.core c).q.seq = .dispatching ∧
        (∀ x n, (t.core x).flag n = (s.core x).flag n
          + (if !bitAt d.eff 10 && fld d.eff 0 10 = n && x = (if bitAt d.eff 18 then coreNo (fld d.eff 12 6) else c)
              then BitVec.ofNat 32 (fld d.eff 32 32) else 0)
          + (if x = c && wCsig lo.toNat && !wCflagHub lo.toNat && wCflagIdx lo.toNat = n then 1 else 0)) ∧
        (∀ n, n ≠ fld s.pmu.ctl.toNat 6 10 → t.hubFlag n = s.hubFlag n
          + (if bitAt d.eff 10 && fld d.eff 0 10 = n then BitVec.ofNat 32 (fld d.eff 32 32) else 0)
          + (if wCsig lo.toNat && wCflagHub lo.toNat && wCflagIdx lo.toNat = n then 1 else 0)) ∧
        (∀ x, (t.core x).m = (s.core x).m ∧ (t.core x).v = (s.core x).v ∧ (t.core x).t = (s.core x).t) ∧
        SameOutside [.cores, .hub, .pmu, .sent] s t

/-- R82: a FENCE completes when every command dispatched earlier to the engines it names, all four if it names none, has
completed: at once, or with the completion of the last of them. Until then the sequencer stalls on it with cause 6. -/
def Obligations.FenceWaitsForItsEngines : Prop :=
  let waits := fun (k : Core) (mask before : Nat) => ∃ x ∈ k.incomplete, x.id < before ∧
    ∃ n e, (n, e) ∈ [(0, Engine.mxu), (1, .vce), (2, .tmv), (3, .hub)] ∧ engOfOpc x.opc = some e ∧ bitAt mask n = true
  (∀ (c : CoreId) (lo imm : Word64) (s : State) (d : Disp), s.has64 → Dispatches s c lo imm 0x0A noCodes noCodes d →
    (let mask := if d.eff % 16 = 0 then 15 else d.eff % 16
     let next := (s.core c).q.nextId
     ∃ t, exec (.fence c lo imm) s = .next t ∧ SameOutside [.cores, .hub, .pmu, .sent] s t ∧
      (¬waits (s.core c) mask next → SeqDone c lo s t ∧ (t.core c).q.fence = none) ∧
      (waits (s.core c) mask next → (t.core c).q.seq = .stalled ∧ (t.core c).q.stall = 6 ∧
        (t.core c).q.cmdIndex = (s.core c).q.cmdIndex ∧
        (t.core c).q.fence = some ⟨mask, next, d.idx, d.pass, d.lo, d.imm⟩ ∧
        (t.core c).q.flags = (s.core c).q.flags ∧ OtherCores c s t))) ∧
  (∀ (c : CoreId) (eng : Engine) (which : Nat) (s : State) (x : EngCmd) (f : FenceInfo), s.has64 →
    completable s c eng which = some x → s.cke.rewinding = false → s.hub.jobState ≠ .terminating →
    (s.core c).q.fence = some f → (s.core c).q.seq = .stalled →
      ∃ t, exec (.commandComplete c eng which) s = .next t ∧
        (t.core c).engRun eng = ((s.core c).engRun eng).filter (·.id ≠ x.id) ∧
        (¬waits (t.core c) f.mask f.before → (t.core c).q.fence = none ∧ (t.core c).q.seq = .dispatching) ∧
        (waits (t.core c) f.mask f.before → (t.core c).q.fence = some f ∧ (t.core c).q.seq = .stalled) ∧
        OtherCores c s t ∧ SameOutside [.cores, .hub, .pmu, .sent] s t)

/-- R85, R86: REC_BEGIN opens an empty recording, REC_END closes it, REPLAY asks for COUNT passes of a slot. -/
def Obligations.RecordingCommandsComplete : Prop :=
  ∀ (c : CoreId) (lo imm : Word64) (s : State) (d : Disp), s.has64 →
    (Dispatches s c lo imm 0x0C recBeginCodes noCodes d →
      ∃ t, exec (.recBegin c lo imm) s = .next t ∧ SeqDone c lo s t ∧ (t.core c).q.openRec = some (d.eff % 16) ∧
        (∀ n, sget Slot.empty (t.core c).q.slots n = if n = d.eff % 16
          then { sget Slot.empty (s.core c).q.slots n with recd := some [], passes := 0 }
          else sget Slot.empty (s.core c).q.slots n) ∧
        (t.core c).q.tq = (s.core c).q.tq ∧ (t.core c).q.params = (s.core c).q.params ∧
        SameOutside [.cores, .hub, .pmu, .sent] s t) ∧
    (Dispatches s c lo imm 0x0D recEndCodes noCodes d →
      ∃ t, exec (.recEnd c lo imm) s = .next t ∧ SeqDone c lo s t ∧ (t.core c).q.openRec = none ∧
        (t.core c).q.slots = (s.core c).q.slots ∧
        (t.core c).q.tq = (s.core c).q.tq ∧ (t.core c).q.params = (s.core c).q.params ∧
        SameOutside [.cores, .hub, .pmu, .sent] s t) ∧
    (Dispatches s c lo imm 0x0E replayCodes noCodes d →
      ∃ t, exec (.replay c lo imm) s = .next t ∧ SeqDone c lo s t ∧
        (t.core c).q.replay = some ⟨d.eff % 16, fld d.eff 4 16 + 1, 0, 0, bitAt d.eff 20, fld d.eff 21 10,
          s.hubFlag (fld d.eff 21 10)⟩ ∧
        (t.core c).q.slots = (s.core c).q.slots ∧
        (t.core c).q.tq = (s.core c).q.tq ∧ (t.core c).q.params = (s.core c).q.params ∧
        SameOutside [.cores, .hub, .pmu, .sent] s t)

/-- R87: PATCH sets one entry of its slot. Before each replay pass, when the previous pass's last command has been dispatched,
the sequencer adds the sign-extended DELTA of every enabled entry of the slot to its parameter register and counts one more
pass of the slot; a pass that HOSTSYNC holds back stalls with cause 7 and adds nothing. -/
def Obligations.ReplayPassAppliesPatches : Prop :=
  (∀ (c : CoreId) (lo imm : Word64) (s : State) (d : Disp), s.has64 →
    Dispatches s c lo imm 0x0F noCodes noCodes d →
      ∃ t, exec (.patch c lo imm) s = .next t ∧ SeqDone c lo s t ∧
        (∀ n, (sget Slot.empty (t.core c).q.slots n).patches =
          let old := (sget Slot.empty (s.core c).q.slots n).patches
          if n = d.eff % 16 then
            sset PatchEnt.off old (fld d.eff 4 3) ⟨bitAt d.eff 16, fld d.eff 8 8, fld d.eff 32 32⟩ else old) ∧
        (∀ n, (s.core c).q.openRec ≠ some n →
          (sget Slot.empty (t.core c).q.slots n).recd = (sget Slot.empty (s.core c).q.slots n).recd) ∧
        (t.core c).q.tq = (s.core c).q.tq ∧ (t.core c).q.params = (s.core c).q.params ∧
        SameOutside [.cores, .hub, .pmu, .sent] s t) ∧
  ∀ (c : CoreId) (s : State) (r : Replay), s.has64 → (s.core c).q.replay = some r →
    ((s.core c).q.seq = .dispatching ∨ (s.core c).q.seq = .stalled) → (s.core c).q.wait = none →
    (s.core c).q.fence = none → (s.core c).q.call = none →
    (r.begun ≠ 0 → r.pos < ((s.core c).recd r.slot).length → exec (.replayPass c) s = .next s) ∧
    ((r.begun = 0 ∨ ((s.core c).recd r.slot).length ≤ r.pos) →
    ((r.hostsync = true → reached (s.hubFlag r.flag) (r.v + BitVec.ofNat 32 (r.begun + 1)) = true) →
      ∃ t, exec (.replayPass c) s = .next t ∧ (t.core c).q.seq = .dispatching ∧
        (sget Slot.empty (t.core c).q.slots r.slot).passes = (sget Slot.empty (s.core c).q.slots r.slot).passes + 1 ∧
        (∀ n, (t.core c).param n = (s.core c).param n + BitVec.ofInt 64
          (((List.range 8).map fun i =>
            let p := sget PatchEnt.off (sget Slot.empty (s.core c).q.slots r.slot).patches i
            if p.en ∧ p.pidx = n then sext 32 p.delta else 0).sum)) ∧
        OtherCores c s t ∧ SameOutside [.cores] s t) ∧
    (r.hostsync = true → reached (s.hubFlag r.flag) (r.v + BitVec.ofNat 32 (r.begun + 1)) = false →
      ∃ t, exec (.replayPass c) s = .next t ∧ (t.core c).q.seq = .stalled ∧ (t.core c).q.stall = 7 ∧
        (t.core c).q.params = (s.core c).q.params ∧ (t.core c).q.replay = some r ∧ OtherCores c s t ∧
        SameOutside [.cores] s t))

/-- R72, R85: END ends the list; every handle left in a tile queue is discarded and every replay slot ends. -/
def Obligations.EndDiscardsHandlesAndSlots : Prop :=
  ∀ (c : CoreId) (lo imm : Word64) (s : State) (d : Disp), s.has64 → Dispatches s c lo imm 0x10 endCodes noCodes d →
    ∃ t, exec (.endList c lo imm) s = .next t ∧ (t.core c).q.seq = .ended ∧ (∀ n, (t.core c).shadow n = []) ∧
      (∀ n, sget Slot.empty (t.core c).q.slots n = Slot.empty) ∧ (t.core c).q.replay = none ∧
      (t.core c).q.params = (s.core c).q.params ∧
      (∀ n, (t.core c).flag n = (s.core c).flag n
        + (if wCsig lo.toNat && !wCflagHub lo.toNat && wCflagIdx lo.toNat = n then 1 else 0)) ∧
      (t.core c).m = (s.core c).m ∧ (t.core c).v = (s.core c).v ∧ (t.core c).t = (s.core c).t ∧
      OtherCores c s t ∧ SameOutside [.cores, .hub, .pmu, .sent] s t

/-! Dispatch to the engines (03) -/

/-- R61, R63, R69, R99: LOADW, STREAM, DRAIN, MULTIPASS and CLEAR, once dispatched, wait in the MXU queue; a MULTIPASS
leaves no weight shadow valid (R116). -/
def Obligations.MatrixCommandsJoinTheirQueue : Prop :=
  ∀ (c : CoreId) (lo imm : Word64) (s : State) (d : Disp), s.has64 →
    (Dispatches s c lo imm 0x20 loadwCodes (fun k _ => engStalls k .mxu 1) d →
      ∃ t x, exec (.mxuLoadw c lo imm) s = .next t ∧ EngineQueued c .mxu d x s t ∧
        SameOutside [.cores, .hub, .pmu, .sent] s t) ∧
    (Dispatches s c lo imm 0x21 streamCodes (fun k _ => engStalls k .mxu 2) d →
      ∃ t x, exec (.mxuStream c lo imm) s = .next t ∧ EngineQueued c .mxu d x s t ∧
        SameOutside [.cores, .hub, .pmu, .sent] s t) ∧
    (Dispatches s c lo imm 0x22 drainCodes (fun k d => engStalls k .mxu (drainRegions k d).length) d →
      ∃ t x, exec (.mxuDrain c lo imm) s = .next t ∧ EngineQueued c .mxu d x s t ∧ x.regions = drainRegions (s.core c) d ∧
        SameOutside [.cores, .hub, .pmu, .sent] s t) ∧
    (Dispatches s c lo imm 0x23 multipassCodes (fun k d => engStalls k .mxu (mpRegions k d).length) d →
      ∃ t x, exec (.mxuMultipass c lo imm) s = .next t ∧ EngineQueued c .mxu d x s t ∧ (t.core c).m.wShadow = [] ∧
        SameOutside [.cores, .hub, .pmu, .sent] s t) ∧
    (Dispatches s c lo imm 0x24 clearCodes (fun k _ => engStalls k .mxu 1) d →
      ∃ t x, exec (.mxuClear c lo imm) s = .next t ∧ EngineQueued c .mxu d x s t ∧
        SameOutside [.cores, .hub, .pmu, .sent] s t)

/-- R61, R63, R69: the VCE commands, once dispatched, wait in the VCE queue; a VCE_RUN keeps the lookup bank active at its
dispatch and the generation of its table (R160), a swapping VCE_TBLLOAD changes the bank later ones load (R161). -/
def Obligations.VectorCommandsJoinTheirQueue : Prop :=
  ∀ (c : CoreId) (lo imm : Word64) (s : State) (d : Disp), s.has64 →
    (Dispatches s c lo imm 0x30 (fun _ _ => []) (fun k _ => engStalls k .vce 1) d →
      ∃ t x, exec (.vceCfg c lo imm) s = .next t ∧ EngineQueued c .vce d x s t ∧
        SameOutside [.cores, .hub, .pmu, .sent] s t) ∧
    (Dispatches s c lo imm 0x31 runCodes (fun k d => engStalls k .vce (runRegions k d).length) d →
      ∃ t x, exec (.vceRun c lo imm) s = .next t ∧ EngineQueued c .vce d x s t ∧
        x.bank = (s.core c).v.lutActive ∧ x.gen = (s.core c).v.lutGen ∧ SameOutside [.cores, .hub, .pmu, .sent] s t) ∧
    (Dispatches s c lo imm 0x32 tblCodes (fun k _ => engStalls k .vce 1) d →
      ∃ t x, exec (.vceTblload c lo imm) s = .next t ∧ EngineQueued c .vce d x s t ∧
        (t.core c).v.lutNext = (if tblSwaps d.eff then !(s.core c).v.lutNext else (s.core c).v.lutNext) ∧
        SameOutside [.cores, .hub, .pmu, .sent] s t) ∧
    (Dispatches s c lo imm 0x33 permCodes (fun k _ => engStalls k .vce 3) d →
      ∃ t x, exec (.vcePerm c lo imm) s = .next t ∧ EngineQueued c .vce d x s t ∧
        SameOutside [.cores, .hub, .pmu, .sent] s t) ∧
    (Dispatches s c lo imm 0x34 reduceCodes (fun k _ => engStalls k .vce 2) d →
      ∃ t x, exec (.vceReduce c lo imm) s = .next t ∧ EngineQueued c .vce d x s t ∧
        SameOutside [.cores, .hub, .pmu, .sent] s t) ∧
    (Dispatches s c lo imm 0x35 scanCodes (fun k d => engStalls k .vce (tileRegions k d.lo 1).length) d →
      ∃ t x, exec (.vceScan c lo imm) s = .next t ∧ EngineQueued c .vce d x s t ∧
        SameOutside [.cores, .hub, .pmu, .sent] s t)

/-- R61, R63, R69: the mover's commands, once dispatched, wait in its queue with the regions of R73 and the index policy that
TMV_IDXPOL holds at the dispatch (R16, R223). -/
def Obligations.MoverCommandsJoinTheirQueue : Prop :=
  ∀ (c : CoreId) (lo imm : Word64) (s : State) (d : Disp), s.has64 →
    (Dispatches s c lo imm 0x40 (tmvCodes 0x40) (fun k d => engStalls k .tmv (tmvRegions k d).length) d →
      ∃ t x, exec (.tmvCopy c lo imm) s = .next t ∧ EngineQueued c .tmv d x s t ∧ x.regions = tmvRegions (s.core c) d ∧
        x.pol = (s.core c).t.idxpolReg.toNat ∧
        SameOutside [.cores, .hub, .pmu, .sent] s t) ∧
    (Dispatches s c lo imm 0x41 (tmvCodes 0x41) (fun k d => engStalls k .tmv (tmvRegions k d).length) d →
      ∃ t x, exec (.tmvGather c lo imm) s = .next t ∧ EngineQueued c .tmv d x s t ∧ x.regions = tmvRegions (s.core c) d ∧
        x.pol = (s.core c).t.idxpolReg.toNat ∧
        SameOutside [.cores, .hub, .pmu, .sent] s t) ∧
    (Dispatches s c lo imm 0x42 (tmvCodes 0x42) (fun k d => engStalls k .tmv (tmvRegions k d).length) d →
      ∃ t x, exec (.tmvScatter c lo imm) s = .next t ∧ EngineQueued c .tmv d x s t ∧ x.regions = tmvRegions (s.core c) d ∧
        x.pol = (s.core c).t.idxpolReg.toNat ∧
        SameOutside [.cores, .hub, .pmu, .sent] s t) ∧
    (Dispatches s c lo imm 0x43 (tmvCodes 0x43) (fun k d => engStalls k .tmv (tmvRegions k d).length) d →
      ∃ t x, exec (.tmvRemote c lo imm) s = .next t ∧ EngineQueued c .tmv d x s t ∧ x.regions = tmvRegions (s.core c) d ∧
        x.pol = (s.core c).t.idxpolReg.toNat ∧
        SameOutside [.cores, .hub, .pmu, .sent] s t)

/-- R61, R63, R69, R81: RSIGNAL, CLE_BUCKET and CLE_SMALLREDUCE, once dispatched, wait in the hub-bound queue. -/
def Obligations.HubBoundCommandsJoinTheirQueue : Prop :=
  ∀ (c : CoreId) (lo imm : Word64) (s : State) (d : Disp), s.has64 →
    (Dispatches s c lo imm 0x50 rsignalCodes (fun k _ => engStalls k .hub 0) d →
      ∃ t x, exec (.rsignal c lo imm) s = .next t ∧ EngineQueued c .hub d x s t ∧
        SameOutside [.cores, .hub, .pmu, .sent] s t) ∧
    (Dispatches s c lo imm 0x51 cleBucketCodes (fun k d => engStalls k .hub (tileRegions k d.lo 1).length) d →
      ∃ t x, exec (.cleBucket c (.dispatch lo imm)) s = .next t ∧ EngineQueued c .hub d x s t ∧
        SameOutside [.cores, .hub, .pmu, .sent] s t) ∧
    (Dispatches s c lo imm 0x52 cleSrCodes (fun k d => engStalls k .hub (tileRegions k d.lo 1).length) d →
      ∃ t x, exec (.cleSmallreduce c (.dispatch lo imm)) s = .next t ∧ EngineQueued c .hub d x s t ∧
        SameOutside [.cores, .hub, .pmu, .sent] s t)

/-! The engines (04, 05, 06) -/

/-- R107, R111, R118: the head command of the MXU queue starts once its start conditions hold and its power credit is held
and not marked for a yield. A LOADW gives the arrays of AMASK its weights, a CLEAR clears its rows as far as no
earlier-started command has work left on one; without the credit the command waits and the credit is asked for, and without
its conditions nothing changes. -/
def Obligations.MatrixUnitStartsItsHeadCommand : Prop :=
  ∀ (c : CoreId) (ecc : List EccHit) (s : State) (e : EngCmd) (rest : List EngCmd), s.has64 →
    (s.core c).m.queue = e :: rest →
    (mxuMayStart (s.core c) e = false → exec (.mxuStart c ecc) s = .next s) ∧
    (mxuMayStart (s.core c) e = true →
      (isStream e = true → s.creditMarked ⟨c.val, e.array⟩ = false ∧
        streamCredit (s.core c) e ≤ s.creditHeld ⟨c.val, e.array⟩) →
      (isMulti e = true → ∀ a < 4, s.creditMarked ⟨c.val, a⟩ = false ∧ 768 ≤ s.creditHeld ⟨c.val, a⟩) →
      (let clears := e.opc = 0x24 ∨ ∃ x ∈ (s.core c).m.run, x.cmd.opc = 0x24
       let held := fun n => (s.core c).m.run.any fun x => touchesRow x e.array n
       ∃ t, exec (.mxuStart c ecc) s = .next t ∧ (t.core c).m.queue = rest ∧
        (t.core c).m.run.map (·.cmd) = (s.core c).m.run.map (·.cmd) ++ [e] ∧
        (e.opc = 0x20 ∨ isMulti e = true ∨ ¬clears → (t.core c).m.run = (s.core c).m.run ++ [⟨e, [0, 0, 0, 0], false⟩] ∧
          (t.core c).m.acc = (s.core c).m.acc) ∧
        (e.opc = 0x20 → ∃ w, ∀ n, sget ArrW.none (t.core c).m.arr n
          = if n < 4 ∧ bitAt e.imm n = true then w else sget ArrW.none (s.core c).m.arr n) ∧
        (e.opc = 0x24 → (∀ x ∈ (s.core c).m.run, x.cmd.opc ≠ 0x24 ∧ x.cmd.id ≠ e.id) →
          ∀ n, ((∃ j < e.dst.rows, n = e.array * 1024 + (e.dst.accRow + j) ∧ ∀ i ≤ j, held (e.dst.accRow + i) = false) →
              sget (s.core c).m.accDefault (t.core c).m.acc n = AccRow.cleared) ∧
            (¬(∃ j < e.dst.rows, n = e.array * 1024 + (e.dst.accRow + j) ∧ ∀ i ≤ j, held (e.dst.accRow + i) = false) →
              sget (s.core c).m.accDefault (t.core c).m.acc n = sget (s.core c).m.accDefault (s.core c).m.acc n)) ∧
        (e.opc ≠ 0x20 → isMulti e = false → (t.core c).m.arr = (s.core c).m.arr) ∧
        (t.core c).q.flags = (s.core c).q.flags ∧ (t.core c).q.tq = (s.core c).q.tq ∧
        (t.core c).v.oc = (s.core c).v.oc ∧ OtherCores c s t ∧
        SameOutside [.cores, .hub, .err, .cke, .pwr, .pmu, .sent] s t)) ∧
    (mxuMayStart (s.core c) e = true → isStream e = true →
      (s.creditMarked ⟨c.val, e.array⟩ = true ∨ s.creditHeld ⟨c.val, e.array⟩ < streamCredit (s.core c) e) →
      ∃ t, exec (.mxuStart c ecc) s = .next t ∧
        (s.creditMarked ⟨c.val, e.array⟩ = false → t.creditAsked ⟨c.val, e.array⟩ = true) ∧ SameOutside [.pwr] s t)

/-- R101, R103, R106, R107, R111: no row enters an array while a punty load is in progress. A row of a running STREAM that
nothing disturbs and whose array holds its credit leaves the adder tree, and the accumulator row it is meant for becomes the
sum of R106; with no CLEAR under way no other row changes. -/
def Obligations.StreamRowsReachTheirAccumulator : Prop :=
  (∀ (c : CoreId) (q : Fin 4) (u : RowUpset) (s : State), puntyActive (s.core c) = true →
    exec (.treeOutput c q u) s = .next s) ∧
  ∀ (c : CoreId) (q : Fin 4) (s : State) (r : MxuRun), s.has64 → puntyActive (s.core c) = false →
    (s.core c).m.run.find? (fun r => enters r && decide (0 < r.left q.val)) = some r → isStream r.cmd = true →
    heldByDrain (s.core c).m.run r q.val = false → (s.core c).m.inj = none →
    (∃ x ∈ s.pwr.credits, x.who = ⟨c.val, q.val⟩ ∧ x.ballast = false) →
    (∀ x ∈ (s.core c).m.run, x.cmd.opc ≠ 0x24) →
    (let o := rowThrough (sget ArrW.none (s.core c).m.arr q.val)
        ((s.core c).rowVals r.cmd.src (wFtz r.cmd.lo) (r.pos.getD q.val 0))
     let row := r.cmd.dst.accRow + r.pos.getD q.val 0
     exitAgrees o = true →
      ∃ t, exec (.treeOutput c q RowUpset.none) s = .next t ∧
        (t.core c).m.run = (s.core c).m.run.map (fun x => if x.cmd.id = r.cmd.id
          then { x with pos := x.pos.set q.val (x.pos.getD q.val 0 + 1) } else x) ∧
        (t.core c).accRow q.val row = (contribute ((s.core c).accRow q.val row) o (!bitAt r.cmd.imm 0) false).1 ∧
        (∀ n, n ≠ q.val * 1024 + row →
          sget (s.core c).m.accDefault (t.core c).m.acc n = sget (s.core c).m.accDefault (s.core c).m.acc n) ∧
        (t.core c).m.queue = (s.core c).m.queue ∧ (t.core c).m.arr = (s.core c).m.arr ∧
        (t.core c).v = (s.core c).v ∧ (t.core c).q.flags = (s.core c).q.flags ∧ OtherCores c s t ∧
        SameOutside [.cores, .hub, .err, .cke, .pmu, .sent] s t)

/-- R123, R124: a running DRAIN reads its next row once no earlier contribution to it is outstanding; under CLR the row
becomes cleared, otherwise it keeps its value, and with no CLEAR under way no other accumulator row changes. Its
destination is a tile of the operand cache: R94's check refuses another. -/
def Obligations.DrainReadsRowByRow : Prop :=
  ∀ (c : CoreId) (q : Fin 4) (u : RowUpset) (s : State) (r : MxuRun), s.has64 →
    (s.core c).m.run.find? (fun r => isDrain r.cmd && decide (0 < r.left q.val)) = some r → (s.core c).m.inj = none →
    r.cmd.dst.acc = false →
    (let row := r.cmd.src.accRow + r.pos.getD q.val 0
     let early := ((s.core c).m.run.takeWhile fun x => x.cmd.id ≠ r.cmd.id).any
        (fun x => !isDrain x.cmd && touchesRow x q.val row)
     (early = true → exec (.drainRowRead c q u) s = .next s) ∧
     (early = false → u.ecc = [] → (∀ x ∈ (s.core c).m.run, x.cmd.opc ≠ 0x24) →
      ∃ t, exec (.drainRowRead c q u) s = .next t ∧
        (t.core c).m.run = (s.core c).m.run.map (fun x => if x.cmd.id = r.cmd.id
          then { x with pos := x.pos.set q.val (x.pos.getD q.val 0 + 1) } else x) ∧
        (t.core c).accRow q.val row = (if bitAt r.cmd.imm 19 then AccRow.cleared else (s.core c).accRow q.val row) ∧
        (∀ n, n ≠ q.val * 1024 + row →
          sget (s.core c).m.accDefault (t.core c).m.acc n = sget (s.core c).m.accDefault (s.core c).m.acc n) ∧
        (t.core c).m.queue = (s.core c).m.queue ∧ (t.core c).m.arr = (s.core c).m.arr ∧
        (t.core c).q.flags = (s.core c).q.flags ∧ (t.core c).q.tq = (s.core c).q.tq ∧ OtherCores c s t ∧
        SameOutside [.cores, .hub, .err, .cke, .pmu, .sent] s t))

/-- R154, R155: the head command of the VCE, unless it is the work of a routine, starts once its handles have arrived,
nothing it needs is held, and its credit is held and not marked for a yield: it leaves the queue, and either runs or stops
its core with a fault. A VCE_CFG sets its slot. -/
def Obligations.VectorEngineStartsItsHeadCommand : Prop :=
  (∀ (c : CoreId) (ecc : List EccHit) (s : State) (e : EngCmd) (rest : List EngCmd),
    (s.core c).v.queue = e :: rest →
    (e.opc = 0x0B ∨ (s.core c).handlesArrived e = false ∨ (s.core c).noHazard .vce e = false ∨
      rawBlocked (s.core c) e = true ∨ tblBlocked (s.core c) e = true) → exec (.vceStart c ecc) s = .next s) ∧
  ∀ (c : CoreId) (ecc : List EccHit) (s : State) (e : EngCmd) (rest : List EngCmd), s.has64 →
    (s.core c).v.queue = e :: rest → e.opc ≠ 0x0B → (s.core c).handlesArrived e = true →
    (s.core c).noHazard .vce e = true → rawBlocked (s.core c) e = false → tblBlocked (s.core c) e = false →
    s.creditMarked ⟨c.val, 4⟩ = false → vceCredit (s.core c) e ≤ s.creditHeld ⟨c.val, 4⟩ →
      ∃ t, exec (.vceStart c ecc) s = .next t ∧
        (((t.core c).v.queue = rest ∧ (t.core c).v.run = (s.core c).v.run ++ [e]) ∨
          ((t.core c).q.seq = .haltFault ∧ (t.core c).v.queue = rest.filter (·.id ≠ e.id))) ∧
        (e.opc = 0x30 → ecc = [] → (s.core c).ocBadIn 0 (fld e.imm 0 17 * 64) 64 = false →
          (t.core c).v.run = (s.core c).v.run ++ [e] ∧
          ∀ n, sget none (t.core c).v.ccw n
            = if n = fld e.imm 17 3 then some (cfgWord (s.core c) e) else sget none (s.core c).v.ccw n) ∧
        (t.core c).q.flags = (s.core c).q.flags ∧ (t.core c).q.tq = (s.core c).q.tq ∧ (t.core c).m.arr = (s.core c).m.arr ∧
        SameOutside [.cores, .hub, .err, .cke, .pwr, .pmu, .sent] s t

/-- R199 to R203, R206, R217, R221, R225: the mover starts its head command once its handles have arrived, nothing it needs
is held, fewer than four commands run, none of them waits and no earlier one conflicts; with its descriptor in the operand
cache and no block list to read, the lowest failed check of R225 stops its core, and without one the command goes on to its
access phase. -/
def Obligations.MoverChecksItsHeadCommand : Prop :=
  ∀ (c : CoreId) (s : State) (e : EngCmd) (rest : List EngCmd), s.has64 → (s.core c).t.queue = e :: rest →
    (∀ ecc, (4 ≤ (s.core c).t.run.length ∨ (s.core c).handlesArrived e = false ∨ (s.core c).noHazard .tmv e = false ∨
        earlierWaits (s.core c).t.run (s.core c).t.run.length = true ∨ s.headHazard c e = true) →
      exec (.tmvCheckPhase c ecc) s = .next s) ∧
    ((s.core c).t.run.length < 4 → (s.core c).handlesArrived e = true → (s.core c).noHazard .tmv e = true →
      earlierWaits (s.core c).t.run (s.core c).t.run.length = false → s.headHazard c e = false → tmvDloc e.imm = false →
      (let bs := (s.core c).ocRead 0 (fld e.imm 0 17 * 64) (descLen e.imm)
       let d := fullDesc (s.core c) e bs []
       let faults := descFaults s e bs [] true d
       (descOf e bs).usesBlocks = false →
        ∃ t, exec (.tmvCheckPhase c []) s = .next t ∧
          (faults ≠ [] → (t.core c).q.seq = .haltFault ∧ (t.core c).t.queue = rest.filter (·.id ≠ e.id) ∧
            ∀ code pos, lowestAt faults = some (code, pos) → RaisedHalting s t code .d c.val
              (cmdPayload e.idx e.pass c.val e.shownOpc e.routine pos (stepDetail e.routine code))) ∧
          (faults = [] → d.usesIdx = false → addrBad s e d = false → (t.core c).t.queue = rest ∧
            (t.core c).t.run = (s.core c).t.run ++ [⟨e, { d with idxpol := idxPolicy e d }, false, [], []⟩] ∧
            (t.core c).q = (s.core c).q ∧ OtherCores c s t) ∧
          (t.core c).m.acc = (s.core c).m.acc ∧ (t.core c).v.oc = (s.core c).v.oc ∧
          SameOutside [.cores, .hub, .err, .cke, .pwr, .pmu, .sent] s t))

/-- R202, R207, R217: the access phase of a local transfer that no earlier command and no snooped line holds up runs: the
command has then made its accesses or has stopped its core. In a copy between memory and memory of a scalar format each
element whose destination no other element shares arrives as its source was before the command. Memory changes only where
R202 to R210 put an element or a plane byte of the destination. -/
def Obligations.MoverAccessesMemory : Prop :=
  ∀ (c : CoreId) (which : Fin 4) (s : State) (r : TmvRun), s.has64 → (s.core c).t.run[which.val]? = some r →
    r.issued = false → r.cmd.opc ≠ 0x43 → earlierWaits (s.core c).t.run (which.val + 1) = false →
    writeSnoops s r.cmd r.desc = [] →
    (let xs := movesOf r.cmd r.desc r.desc.idxpol
     let ub := unitBytes r.desc.fmt
     ∃ t, exec (.tmvAccessPhase c which [] []) s = .next t ∧
      ((t.core c).q.seq = .haltFault ∨ ∀ r' ∈ (t.core c).t.run, r'.cmd.id = r.cmd.id → r'.issued = true) ∧
      (r.desc.combine = 0 → r.desc.fmt.isBlock = false → r.desc.fmt ≠ .w48 →
        (∀ l ∈ moveLines r.desc (xs.map fun x => x.src), s.populated (64 * l) = true ∧ s.poisoned (64 * l) = false ∧
          s.lineErr (64 * l) = LineErr.none) →
        ∀ x ∈ xs, ∀ a p b q i, x.src = some (.mem a p) → x.dst = .mem b q → i < ub →
          inAlias (a + i) = false → inAlias (b + i / 64 * 64) = false → inAlias (64 * ((b + i) / 64)) = false →
          s.populated (64 * ((b + i) / 64)) = true →
          (∀ y ∈ xs, y ≠ x → ∀ b' q', y.dst = .mem b' q' → b + i < b' ∨ b' + ub ≤ b + i) →
          t.byteAt (b + i) = s.byteAt (a + i)) ∧
      (∀ n, (∀ x ∈ xs, ∀ b q, x.dst = .mem b q → (n < b ∨ b + ub ≤ n) ∧ ¬(r.desc.fmt.isBlock = true ∧ n = q)) →
        t.byteAt n = s.byteAt n) ∧
      SameOutside [.cores, .hub, .err, .mem, .cke, .pwr, .pmu, .sent, .fresh] s t)

/-- R79 to R81, R284: the head of the hub-bound queue acts once nothing holds it. An RSIGNAL sends its SIGNAL packet under
a free tag with the next sequence number to that device. A bucket's piece that breaks R296's rules stops the core; one that
does not complete its bucket is added to the accumulation region and to nothing else. A small reduction of a group its core
owns takes the group's next sequence number. -/
def Obligations.HubBoundCommandsAct : Prop :=
  ∀ (c : CoreId) (s : State) (e : EngCmd) (rest : List EngCmd), s.has64 → (s.core c).t.hubQ = e :: rest →
    (e.opc = 0x50 → (signalBlocked (s.core c) e = true ∨ 64 ≤ s.signalsTo (fld e.imm 0 14) ∨ s.freeTag c = none) →
      exec (.signalRelease c) s = .next s) ∧
    (∀ n, e.opc = 0x50 → signalBlocked (s.core c) e = false → s.signalsTo (fld e.imm 0 14) < 64 → s.freeTag c = some n →
      ∃ t, exec (.signalRelease c) s = .next t ∧ (t.core c).t.hubQ = rest ∧
        (t.core c).t.hubRun = (s.core c).t.hubRun ++ [⟨e, false⟩] ∧
        (∃ p, t.fab.reqs = s.fab.reqs ++ [⟨p, .signal c.val e.id, 0⟩] ∧ p.ptype = 0x07 ∧ p.dst = fld e.imm 0 14 ∧
          p.tag = c.val * 4096 + n ∧ p.sseq = sget 0 s.fab.sseqNext (fld e.imm 0 14) ∧ p.aux = e.imm % 2 ^ 64) ∧
        sget 0 t.fab.sseqNext (fld e.imm 0 14) = (sget 0 s.fab.sseqNext (fld e.imm 0 14) + 1) % 65536 ∧ OtherCores c s t ∧
        SameOutside [.cores, .hub, .err, .fab, .pmu, .sent] s t) ∧
    ((e.opc ≠ 0x51 ∨ (s.core c).handlesArrived e = false ∨ (s.core c).noHazard .hub e = false) →
      exec (.cleBucket c .perform) s = .next s) ∧
    (∀ b, e.opc = 0x51 → (s.core c).handlesArrived e = true → (s.core c).noHazard .hub e = true →
      s.cle.buckets[e.imm % 65536]? = some b → s.hub.snoop = [] → s.hub.bisnp = [] →
      (pieceBad s c e.imm (hTile e.qs0) = true → ∃ t, exec (.cleBucket c .perform) s = .next t ∧
        (t.core c).q.seq = .haltFault ∧ t.cle = s.cle ∧ t.mem = s.mem ∧
        SameOutside [.cores, .hub, .err, .cke, .pmu, .sent] s t) ∧
      (pieceBad s c e.imm (hTile e.qs0) = false → fld e.imm 16 26 + (hTile e.qs0).count / 32 < b.nblk →
        ∃ t, exec (.cleBucket c .perform) s = .next t ∧
          (∃ nf, t.cle.buckets = s.cle.buckets.set (e.imm % 65536) { b with
            cursor := fld e.imm 16 26 + (hTile e.qs0).count / 32, samples := b.samples + fld e.imm 48 16, nf := nf } ∧
            (b.micro + 1 ≠ b.nmicro → nf = b.nf)) ∧
          (∀ a, (a < b.acc + 128 * fld e.imm 16 26 ∨ b.acc + 128 * fld e.imm 16 26 + 4 * (hTile e.qs0).count ≤ a) →
            t.byteAt a = s.byteAt a) ∧ (t.core c).t.hubQ = rest ∧ (t.core c).q = (s.core c).q ∧ OtherCores c s t ∧
          SameOutside [.cores, .hub, .err, .mem, .cle, .cke, .pwr, .fab, .pmu, .sent, .fresh] s t)) ∧
    ((e.opc ≠ 0x52 ∨ (s.core c).handlesArrived e = false ∨ (s.core c).noHazard .hub e = false) →
      exec (.cleSmallreduce c .perform) s = .next s) ∧
    (e.opc = 0x52 → (s.core c).handlesArrived e = true → (s.core c).noHazard .hub e = true →
      srGroupBad s c (e.imm % 16) = false → ∃ t, exec (.cleSmallreduce c .perform) s = .next t ∧
        sget 0 t.cle.srCount (e.imm % 16) = sget 0 s.cle.srCount (e.imm % 16) + 1 ∧ t.cle.buckets = s.cle.buckets ∧
        SameOutside [.cores, .hub, .err, .mem, .cle, .cke, .fab, .pmu, .sent, .fresh] s t)

/-- R62, R63, R73, R84, R162, R414, R415, R417: a started command whose last access is visible completes: it leaves its engine,
its CSIG fires, a swapping table load makes its bank active. A deadlock of the job's waiting cores halts the job. A lapsing
credit is released under the ramp, or kept as ballast. -/
def Obligations.CommandsCompleteAndJobsDeadlock : Prop :=
  (∀ (c : CoreId) (eng : Engine) (which : Nat) (s : State) (x : EngCmd), s.has64 →
    completable s c eng which = some x → s.cke.rewinding = false → s.hub.jobState ≠ .terminating →
      ∃ t, exec (.commandComplete c eng which) s = .next t ∧
        (t.core c).engRun eng = ((s.core c).engRun eng).filter (·.id ≠ x.id) ∧
        (∀ f, f ≠ eng → (t.core c).engRun f = (s.core c).engRun f) ∧
        (∀ f, (t.core c).engQueue f = (s.core c).engQueue f) ∧
        (t.core c).v.lutActive = (if x.opc = 0x32 ∧ tblSwaps x.imm = true then x.bank else (s.core c).v.lutActive) ∧
        ((s.core c).q.fence = none → ∀ n, (t.core c).flag n = (s.core c).flag n
          + (if wCsig x.lo && !wCflagHub x.lo && wCflagIdx x.lo = n then 1 else 0)) ∧
        (t.core c).v.oc = (s.core c).v.oc ∧ (t.core c).m.acc = (s.core c).m.acc ∧ OtherCores c s t ∧
        SameOutside [.cores, .hub, .pmu, .sent] s t) ∧
  (∀ (waited : Word64) (s : State) (j : Job), s.has64 → s.hub.job = some j → s.hub.waitLimit ≠ 0 →
    s.hub.dlkArmed = true → s.hub.jobState = .running →
    ((dlkSet s j waited).any fun c => (s.core c).q.seq = .waiting) = true →
      ∃ t, exec (.queueDeadlock waited) s = .next t ∧ t.hub.dlkArmed = false ∧
        t.hub.dlkStatus = BitVec.ofNat 64 ((dlkSet s j waited).map fun c => 2 ^ c.val).sum ∧ t.hub.jobState = .halted ∧
        (∀ c, (t.core c).q.seq = (haltCore (s.core c)).q.seq ∧ (t.core c).q.flags = (s.core c).q.flags) ∧
        SameOutside [.cores, .hub, .err, .pmu, .sent] s t) ∧
  (∀ (c : CoreId) (u : Fin 5) (s : State) (x : Credit), s.pwr.credits.find? (fun y => y.who = ⟨c.val, u.val⟩) = some x →
    ∃ t, exec (.creditLapse c u) s = .next t ∧
      (s.scaled ⟨c.val, u.val⟩ x.size ≤ s.pwr.allow s.pwr.releasedHist →
        t.pwr.credits = s.pwr.credits.filter (fun y => y.who ≠ ⟨c.val, u.val⟩)) ∧
      (s.pwr.allow s.pwr.releasedHist < s.scaled ⟨c.val, u.val⟩ x.size → t.pwr.releasedHist = s.pwr.releasedHist ∧
        (∀ y ∈ t.pwr.credits, y.who = ⟨c.val, u.val⟩ → y.ballast = true)) ∧ SameOutside [.pwr] s t)

/-- R62, R88 to R92, R173, R189: a CALL whose block has not been read stalls its core with PB_FETCH and reads the block.
Then a ROM routine of the exchange, the update or the recovery becomes the one its core runs, an integrator's routine ends
at once, and a routine of the chain joins the queue of the VCE, or a refused command of it stops the core. What a routine
of the chain dispatched starts by the routine's own event when it is at the head of that queue, its tiles have arrived and
they are free; another routine's event changes nothing. -/
def Obligations.CallsRunTheirRoutines : Prop :=
  (∀ (c : CoreId) (lo imm : Word64) (s : State) (d : Disp), s.has64 →
    (let id := d.eff % 65536
     (Dispatches s c lo imm 0x0B (callCodes s) noCodes d → (s.core c).q.pbRead = none →
      ∃ t b, exec (.call c lo imm) s = .next t ∧ (t.core c).q.seq = .stalled ∧ (t.core c).q.stall = 8 ∧
        (t.core c).q.pbRead = some (s.bytesAt (pbAddr d.eff) 64, b) ∧ (s.lineSound (pbAddr d.eff) = true → b = false) ∧
        (s.poisoned (pbAddr d.eff) = true → b = true) ∧ (t.core c).q.call = (s.core c).q.call ∧
        (t.core c).q.params = (s.core c).q.params ∧ (t.core c).q.flags = (s.core c).q.flags ∧
        (t.core c).q.cmdIndex = (s.core c).q.cmdIndex ∧ OtherCores c s t ∧
        SameOutside [.cores, .hub, .err, .mem, .cke, .pwr, .pmu, .sent, .fresh] s t) ∧
     ∀ pb, (s.core c).q.pbRead = some (pb, false) → Dispatches s c lo imm 0x0B (callCodes s) callStalls d →
      s.cke.rewinding = false →
      ((romBody id).isSome = true → isTileRoutine id = false →
        ∃ t, exec (.call c lo imm) s = .next t ∧ (t.core c).q.call = some ⟨id, pb, d.idx, d.pass, d.lo, d.imm, 0⟩ ∧
          (t.core c).q.callId = id ∧ (t.core c).q.seq = .dispatching ∧ (t.core c).q.params = (s.core c).q.params ∧
          (t.core c).q.flags = (s.core c).q.flags ∧ OtherCores c s t ∧ SameOutside [.cores, .hub, .pmu, .sent] s t) ∧
      ((romBody id).isNone = true → isTileRoutine id = false →
        ∃ t, exec (.call c lo imm) s = .next t ∧ SeqDone c lo s t ∧ (t.core c).q.call = none ∧
          (t.core c).q.callId = id ∧ (∀ n < 240, (t.core c).param n = (s.core c).param n) ∧
          SameOutside [.cores, .hub, .cke, .pmu, .sent, .fresh] s t) ∧
      (isTileRoutine id = true → lowest (rtFaults id pb (s.core c).q.tq) = none →
        ∃ t x, exec (.call c lo imm) s = .next t ∧ (t.core c).v.queue = (s.core c).v.queue ++ [x] ∧ x.opc = 0x0B ∧
          x.routine = id ∧ x.pb = pb ∧ x.lo = d.lo ∧ x.idx = d.idx ∧ x.pass = d.pass ∧ x.id = (s.core c).q.nextId ∧
          (t.core c).q.nextId = (s.core c).q.nextId + 1 ∧ (t.core c).q.call = none ∧ (t.core c).q.seq = .dispatching ∧
          (∀ n < 240, (t.core c).param n = (s.core c).param n) ∧ (t.core c).q.flags = (s.core c).q.flags ∧
          (t.core c).v.run = (s.core c).v.run ∧ OtherCores c s t ∧
          SameOutside [.cores, .hub, .pmu, .sent, .fresh] s t) ∧
      (∀ code, isTileRoutine id = true → lowest (rtFaults id pb (s.core c).q.tq) = some code →
        ∃ t, exec (.call c lo imm) s = .next t ∧ (t.core c).q.seq = .haltFault ∧ (t.core c).q.cmdIndex = d.idx ∧
          (t.core c).v.queue = (s.core c).v.queue ∧ SameOutside [.cores, .hub, .err, .pmu, .sent] s t))) ∧
  ∀ (c : CoreId) (s : State), s.has64 →
    ∀ p ∈ [(Instr.softmax c, 1), (.layernorm c, 2), (.rmsnorm c, 3), (.linscan c, 4), (.topk c, 5), (.sample c, 6),
        (.xent c, 7), (.conv1d c, 8)],
      ((∀ e rest, (s.core c).v.queue = e :: rest → e.opc ≠ 0x0B ∨ e.routine ≠ p.2 ∨ rtMayRun (s.core c) e = false) →
        exec p.1 s = .next s) ∧
      (∀ e rest, (s.core c).v.queue = e :: rest → e.opc = 0x0B → e.routine = p.2 → rtMayRun (s.core c) e = true →
          ∃ t, exec p.1 s = .next t ∧ (t.core c).v.queue = rest ∧ (t.core c).v.run = (s.core c).v.run ++ [e] ∧
            (t.core c).q.flags = (s.core c).q.flags ∧ (t.core c).q.tq = (s.core c).q.tq ∧
            (t.core c).q.params = (s.core c).q.params ∧ (t.core c).m.queue = (s.core c).m.queue ∧
            (t.core c).t = (s.core c).t ∧ OtherCores c s t ∧ SameOutside [.cores, .cke, .fresh] s t)

/-! Gradient exchange (10) -/

/-- R284, R305: EXCH_START opens the exchange of the running step once its list passes the checks; a list that fails one
stops its core, and the exchange of a step that is already open is an error. ALLGATHER arms a shard map that passes its
checks while an exchange is open. Neither does anything on a core that has not called it. -/
def Obligations.ExchangeRoutinesOpenAndArm : Prop :=
  ∀ (c : CoreId) (s : State), s.has64 →
    (s.callOf c 0x10 = none → exec (.exchStart c) s = .next s) ∧
    (∀ ci, s.callOf c 0x10 = some ci → s.cke.rewinding = false →
      (let a := pbNum ci.pb 0x10 8
       let n := pbNum ci.pb 0x18 4
       let pol := pbNum ci.pb 0x1C 4
       let r := if n ≤ 65536 ∧ a % 64 = 0 then s.readBuckets a n else s
       let refused := n = 0 ∨ 65536 < n ∨ a % 64 ≠ 0 ∨ r.readable a (128 * n) = false ∨ pol % 4 = 3 ∨ fld pol 2 2 ≠ 0
         ∨ pol >>> 8 ≠ 0 ∨ (List.range n).any (fun i => r.bucketBad (a + 128 * i)) = true
       ∃ t, exec (.exchStart c) s = .next t ∧ (t.core c).q.call = none ∧
        (refused → (t.core c).q.seq = .haltFault ∧ (t.core c).q.cmdIndex = ci.idx ∧ t.cle = s.cle) ∧
        (¬refused → s.cle.isOpen = true → t.cle = s.cle) ∧
        (¬refused → s.cle.isOpen = false → t.cle.isOpen = true ∧ t.cle.exch = s.stepNow.toNat % 65536 ∧
          t.cle.nfpol = pol % 4 ∧ t.cle.fcBias = sext 4 (fld pol 4 4) ∧
          t.cle.buckets = (List.range n).map (fun i => r.readBucket (a + 128 * i)) ∧ t.cle.closed = [] ∧
          t.cle.staged = [] ∧ t.cle.armed = none ∧ t.cle.streams = s.cle.streams) ∧ (∀ x, t.byteAt x = s.byteAt x) ∧
        SameOutside [.cores, .hub, .err, .mem, .cle, .cke, .pwr, .pmu, .sent, .fresh] s t)) ∧
    (s.callOf c 0x11 = none → exec (.allgather c) s = .next s) ∧
    (∀ ci, s.callOf c 0x11 = some ci → s.cke.rewinding = false → s.hub.snoop = [] → s.hub.bisnp = [] →
      (let a := pbNum ci.pb 0x10 8
       let r := s.readsMap 0x80 a
       let refused := 1 < pbNum ci.pb 0x18 1 ∨ r.mapBad a = true ∨ (r.readMap a).kind ≠ 0
       ∃ t, exec (.allgather c) s = .next t ∧ (t.core c).q.call = none ∧
        (refused → (t.core c).q.seq = .haltFault ∧ t.cle = s.cle ∧ t.mem = r.mem) ∧
        (¬refused → s.cle.isOpen = false → t.cle = s.cle ∧ t.mem = r.mem) ∧
        (¬refused → s.cle.isOpen = true → s.cle.imaged = [] → t.cle.armed = some (r.readMap a) ∧ t.mem = r.mem) ∧
        (∀ x, r.byteAt x = s.byteAt x) ∧
        SameOutside [.cores, .hub, .err, .mem, .cle, .cke, .pwr, .fab, .pmu, .sent, .fresh] s t))

/-- R299, R300, R355: the packets of streams. With none that may be taken nothing happens; one from a lost device, or of
no open or coming exchange, is discarded; one of a shard already accepted from another sender is answered as a duplicate
when it is its stream's first; a new stream of an exchange yet to open is accepted, answered, and waits. -/
def Obligations.StreamPacketsObeyTheirRules : Prop :=
  ∀ (s : State), s.hub.snoop = [] → s.hub.bisnp = [] →
    ∀ x ∈ [(Instr.part, false, 0x10), (.close, false, 0x11), (.gather, true, 0x16), (.gatherFc, true, 0x17),
        (.gatherClose, true, 0x18)],
      (s.takeStream x.2.1 x.2.2 = none → exec x.1 s = .next s) ∧
      (∀ p u, s.takeStream x.2.1 x.2.2 = some (p, u) →
        (u.judge x.2.1 p = .discard → exec x.1 s = .next u ∧ SameOutside [.fab, .sent] s u) ∧
        (u.judge x.2.1 p = .dup → ∃ t, exec x.1 s = .next t ∧ t.cle = s.cle ∧
          (firstOfStream p = true → t = u.sendPacket (mkPacket 0x12 p.src 0 0 p.addr 1 [])) ∧
          (firstOfStream p = false → t = u) ∧ SameOutside [.hub, .err, .fab, .pmu, .sent] s t) ∧
        (u.judge x.2.1 p = .fresh → s.exchSoon p = true → ∃ t, exec x.1 s = .next t ∧
          t.cle.streams = s.cle.streams ++ [⟨x.2.1, fld p.addr 0 16, fld p.addr 16 16, fld p.addr 32 14,
            pktAttempt x.2.1 p, p.src, .held, 0, 0, 0, false, false, [], false, 0, [], false, s.cle.hopWaitUs.toNat,
            s.cle.hopTimeoutUs.toNat, 0, 0⟩] ∧
          t.cle.accepted = s.cle.accepted ++ [(x.2.1, fld p.addr 0 16, fld p.addr 16 16, fld p.addr 32 14,
            pktAttempt x.2.1 p, p.src)] ∧
          t.cle.buckets = s.cle.buckets ∧ SameOutside [.hub, .err, .cle, .fab, .pmu, .sent] s t))

/-- R289, R291, R299, R304, R305: a packet of an accepted stream of the open exchange takes effect. A PART that ends at
this device, the acting owner, leaves its blocks with the stream; a CLOSE passes on to the next position. A GATHER writes
its bytes to the staging address of its shard and a GATHER_FC its entries to the alternate forecast plane, and nothing
else; a GATHER_CLOSE stages the shard. -/
def Obligations.StreamPacketsTakeEffect : Prop :=
  ∀ (s u : State) (p : Packet) (b : Bucket) (x : Stream), s.hub.snoop = [] → s.hub.bisnp = [] →
    u.pktBucket p = some b → x ∈ u.cle.streams →
    (s.takeStream false 0x10 = some (p, u) → u.judge false p = .known → u.streamOf false p = some x →
      (let blocks := (partBlocks p).zipIdx.map fun y => (p.aux % 2 ^ 26 + y.2, y.1)
       let r := u.readAgreed b (b.first x.shard + p.aux % 2 ^ 26) (fld p.aux 26 6)
       let out := if x.mode = .late then blocks.map Prod.snd else (r.hopRun x.bucket x.shard b blocks).out
       ∃ t, exec .part s = .next t ∧
        (after (u.chain b x.shard) (b.pos u.fab.devid) = none → x.ended = false →
          ∃ y ∈ t.cle.streams, y.shard = x.shard ∧ y.src = x.src ∧
            y.merged = ((blocks.map Prod.fst).zip out).foldl (fun m q => sset none m q.1 (some q.2)) x.merged) ∧
        SameOutside [.hub, .err, .mem, .cle, .cke, .pwr, .fab, .pmu, .sent, .fresh] s t)) ∧
    (s.takeStream false 0x11 = some (p, u) → u.judge false p = .known → u.streamOf false p = some x →
      ∃ t, exec .close s = .next t ∧
        (∀ nx, after (u.chain b x.shard) (b.pos u.fab.devid) = some nx → x.acked = false →
          t.mem = s.mem ∧ ∃ y ∈ t.cle.streams, y.ended = true ∧ y.shard = x.shard ∧ y.src = x.src) ∧
        SameOutside [.hub, .err, .mem, .cle, .cke, .pwr, .fab, .pmu, .sent, .fresh] s t) ∧
    (∀ m e, s.takeStream true 0x16 = some (p, u) → u.judge true p = .known → u.streamOf true p = some x →
      u.cle.armed = some m → m.entryOf x.bucket x.shard = some e →
      ∃ t, exec .gather s = .next t ∧
        (∀ i, i < p.payload.length →
          (∀ a, a / 64 = (s.stageAddr m e + p.aux + i) / 64 → s.populated a = true) →
          t.byteAt (s.stageAddr m e + p.aux + i) = p.payload.getD i 0) ∧
        (∀ a, (a < s.stageAddr m e + p.aux ∨ s.stageAddr m e + p.aux + p.payload.length ≤ a) → t.byteAt a = s.byteAt a) ∧
        SameOutside [.hub, .err, .mem, .cle, .pwr, .fab, .pmu, .sent, .fresh] s t) ∧
    (s.takeStream true 0x17 = some (p, u) → u.judge true p = .known → u.streamOf true p = some x →
      (let d := s.altPlane b.fc0 b.fc1 + 2 * (b.first x.shard + p.aux)
       ∃ t, exec .gatherFc s = .next t ∧
        (∀ i, i < p.payload.length → (∀ a, a / 64 = (d + i) / 64 → s.populated a = true) →
          t.byteAt (d + i) = p.payload.getD i 0) ∧
        (∀ a, (a < d ∨ d + p.payload.length ≤ a) → t.byteAt a = s.byteAt a) ∧
        SameOutside [.hub, .err, .mem, .cle, .pwr, .fab, .pmu, .sent, .fresh] s t)) ∧
    (s.takeStream true 0x18 = some (p, u) → u.judge true p = .known → u.streamOf true p = some x →
      ∃ t, exec .gatherClose s = .next t ∧ t.cle.staged.contains (x.bucket, x.shard) = true ∧
        SameOutside [.hub, .err, .mem, .cle, .cke, .pwr, .fab, .pmu, .sent, .fresh] s t)

/-- R302: FINAL and FINAL_CLOSE at the buddy of their shard. A FINAL writes the blocks' final areas and next forecast
entries and marks these blocks as received; a FINAL_CLOSE, once all blocks of its shard have been, writes the divisor into
the sample entry, keeps the census, and adds 1 to hub flag 2 (a performance counter that overflows meanwhile may add to a
flag too). A packet from a lost device or of another shard's owner leaves no trace. -/
def Obligations.FinalsReachTheBuddy : Prop :=
  ∀ (s : State), s.hub.snoop = [] → s.hub.bisnp = [] →
    (let may := fun (n : Nat) (p : Packet) =>
        p.ptype = n && p.dst = s.fab.devid && !((s.exchSoon p || s.finalsDue p) && !s.fromLost p)
     (s.takeInbox (may 0x14) = none → exec .final s = .next s) ∧
     (s.takeInbox (may 0x15) = none → exec .finalClose s = .next s) ∧
     (∀ p u, s.takeInbox (may 0x14) = some (p, u) →
        ((u.fromLost p = true ∨ u.exchNow p = false ∨ u.pktBucket p = none) → exec .final s = .next u ∧
          SameOutside [.fab, .sent] s u) ∧
        (∀ b, u.fromLost p = false → u.exchNow p = true → u.pktBucket p = some b →
          (u.buddyOf p b = false → exec .final s = .next u ∧ SameOutside [.fab, .sent] s u) ∧
          (u.buddyOf p b = true → ∃ t, exec .final s = .next t ∧ t.cle = { s.cle with finRx := t.cle.finRx } ∧
            (∀ y ∈ s.cle.finRx, y ∈ t.cle.finRx) ∧
            (∀ k, k < (partBlocks p).length → (fld p.addr 16 16, fld p.addr 32 14, p.aux % 2 ^ 26 + k) ∈ t.cle.finRx) ∧
            (∀ a, (∀ k, k < (partBlocks p).length → (let n := b.first (fld p.addr 32 14) + p.aux % 2 ^ 26 + k
                (a < b.fin + 128 * n ∨ b.fin + 128 * n + 128 ≤ a) ∧ (a < b.finx + 2 * n ∨ b.finx + 2 * n + 2 ≤ a) ∧
                (a < s.altPlane b.fc0 b.fc1 + 2 * n ∨ s.altPlane b.fc0 b.fc1 + 2 * n + 2 ≤ a))) →
              t.byteAt a = s.byteAt a) ∧ SameOutside [.hub, .err, .mem, .cle, .cke, .pwr, .fab, .pmu, .sent, .fresh] s t))) ∧
     (∀ p u, s.takeInbox (may 0x15) = some (p, u) →
        ((u.fromLost p = true ∨ u.exchNow p = false ∨ u.pktBucket p = none) → exec .finalClose s = .next u ∧
          SameOutside [.fab, .sent] s u) ∧
        (∀ b, u.fromLost p = false → u.exchNow p = true → u.pktBucket p = some b →
          (u.buddyOf p b = false → exec .finalClose s = .next u ∧ SameOutside [.fab, .sent] s u) ∧
          (u.buddyOf p b = true → ∃ t, exec .finalClose s = .next t ∧
            t.cle = { s.cle with finals := s.cle.finals ++ [((fld p.addr 16 16, fld p.addr 32 14), p.payload)] } ∧
            (s.pmu.hubCtl = 0 → t.hubFlag 2 = s.hubFlag 2 + 1) ∧
            (∀ a, (a < b.smp + 16 * fld p.addr 32 14 ∨ b.smp + 16 * fld p.addr 32 14 + 16 ≤ a) →
              t.byteAt a = s.byteAt a) ∧
            SameOutside [.hub, .err, .mem, .cle, .cke, .pwr, .fab, .pmu, .sent, .fresh] s t))))

/-- R292, R299, R302, R312, R355: the answers and time limits of streams, which run by the limits in force when they
started. Nothing is taken from a lost device. An ACK marks the stream it answers; a RETRY runs the stream
of a shard this device originates again, with ATTEMPT 1; a stream held too long at a hop goes on without this device; one
whose receiver does not answer goes to the next position, or ends; at the deadline the owner closes the shard alone. -/
def Obligations.StreamAnswersAndLimits : Prop :=
  ∀ (s : State), s.hub.snoop = [] → s.hub.bisnp = [] →
    (s.takeType 0x12 = none → exec .ack s = .next s) ∧
    (∀ p u, s.takeType 0x12 = some (p, u) → u.fromLost p = true → exec .ack s = .next u ∧ SameOutside [.fab, .sent] s u) ∧
    (∀ p u x, s.takeType 0x12 = some (p, u) → u.fromLost p = false → u.cle.streams.find? (fun x => !x.acked && !x.out.isEmpty &&
        cleKey x.exch x.bucket x.shard = p.addr && (s.cle.buckets[x.bucket]?).any fun b => b.dev x.nxt = p.src) = some x →
      ∃ t, exec .ack s = .next t ∧ t.cle = { s.cle with
        streams := (s.cle.streams.map fun y => if y = x then { y with acked := true } else y).filter
          fun y => !(y.ended && y.acked) } ∧ SameOutside [.cle, .fab, .sent] s t) ∧
    (s.takeType 0x13 = none → exec .retry s = .next s) ∧
    (∀ p u, s.takeType 0x13 = some (p, u) → (u.fromLost p = true ∨ u.exchNow p = false) → exec .retry s = .next u) ∧
    (∀ p u b nx, s.takeType 0x13 = some (p, u) → u.fromLost p = false → u.exchNow p = true → u.pktBucket p = some b →
      b.sealed = true → (u.chain b (fld p.addr 32 14)).head? = some (b.pos u.fab.devid) →
      p.src = b.dev (b.ownerPos (fld p.addr 32 14) u.isLost) →
      after (u.chain b (fld p.addr 32 14)) (b.pos u.fab.devid) = some nx →
        ∃ t y, exec .retry s = .next t ∧ t.cle.streams = s.cle.streams ++ [y] ∧ y.attempt = 1 ∧
          y.bucket = fld p.addr 16 16 ∧ y.shard = fld p.addr 32 14 ∧ y.nxt = nx ∧ y.gather = false ∧
          SameOutside [.hub, .err, .mem, .cle, .cke, .pwr, .fab, .pmu, .sent, .fresh] s t) ∧
    (∀ (bi : BitVec 16) (j : BitVec 14) b, s.cle.buckets[bi.toNat]? = some b →
      (let open_ := fun (x : Stream) => x.bucket = bi.toNat ∧ x.shard = j.toNat ∧ x.exch = s.cle.exch
       (b.sealed = false → (after (s.chain b j.toNat) (b.pos s.fab.devid)).isSome = true →
        ∃ t, exec (.hopWaitExpiry bi j) s = .next t ∧ t.cle.streams = s.cle.streams.map (fun x =>
          if x.gather = false ∧ open_ x ∧ x.mode = .held ∧ x.waitUs ≠ 0 then { x with mode := .late } else x) ∧
          SameOutside [.cle] s t) ∧
       ((b.sealed = true ∨ (after (s.chain b j.toNat) (b.pos s.fab.devid)).isNone = true) →
        exec (.hopWaitExpiry bi j) s = .next s) ∧
       (∀ g x, s.cle.streams.find? (fun x => x.gather == g && x.bucket = bi.toNat && x.shard = j.toNat &&
          x.exch = s.cle.exch && !x.acked && !x.out.isEmpty) = some x →
        (x.timeoutUs = 0 → exec (.cleHopSkip g bi j) s = .next s) ∧
        (x.timeoutUs ≠ 0 → ∃ t, exec (.cleHopSkip g bi j) s = .next t ∧
          (∀ nx, after (if g then s.gatherChain b x.shard else s.chain b x.shard) x.nxt = some nx →
            t.cle.sticky = s.cle.sticky ||| 8 ∧ t.cle.streams = s.cle.streams.map (fun y =>
              if y = x then { y with
                nxt := nx, out := retarget (b.dev nx) x.out, timeoutUs := s.cle.hopTimeoutUs.toNat } else y)) ∧
          (after (if g then s.gatherChain b x.shard else s.chain b x.shard) x.nxt = none →
            t.cle.streams = s.cle.streams.erase x ∧ t.fab = { s.fab with streamQ := t.fab.streamQ } ∧
            (g = false → t.cle.sticky = s.cle.sticky)) ∧
          SameOutside [.hub, .err, .cle, .fab, .pmu, .sent] s t)) ∧
       (b.deadlineUs ≠ 0 → s.cle.isOpen = true → b.sealed = true → s.cle.closed.contains (bi.toNat, j.toNat) = false →
        b.len j.toNat ≠ 0 → b.dev (b.ownerPos j.toNat s.isLost) = s.fab.devid →
        ∃ t, exec (.cleDeadline bi j) s = .next t ∧ t.cle.closed = s.cle.closed ++ [(bi.toNat, j.toNat)] ∧
          t.cle.streams = s.cle.streams.filter (fun x => x.gather || x.bucket ≠ bi.toNat || x.shard ≠ j.toNat) ∧
          SameOutside [.hub, .err, .mem, .cle, .cke, .pwr, .fab, .pmu, .sent, .fresh] s t)))

/-- R307: a piece of a member's tile is kept; one that shows another shape or format than the running reduction's own tile
(marked so, beyond it, or a last piece short of its end), or a tile that does not come in time, stops the core that runs the
reduction, and the reduction is over. -/
def Obligations.SmallReductionsEnd : Prop :=
  ∀ (s : State), s.has64 →
    (∀ d, s.takeType 0x19 = none → exec (.sr d) s = .next s) ∧
    (∀ d p u, s.takeType 0x19 = some (p, u) →
      (let mine := u.cle.srRuns.find? fun r => r.group = p.addr % 16 && r.count = fld p.addr 4 16
       let pieces := s.cle.srGot ++ [⟨p.addr % 16, fld p.addr 4 16, p.src, p.aux, p.payload, d⟩]
       let bad := fun (r : SrRun) => ∃ z ∈ pieces, z.group = p.addr % 16 ∧ z.count = fld p.addr 4 16 ∧
         (z.differs = true ∨ r.bytes < z.off + z.data.length ∨ (z.data.length < 4096 ∧ z.off + z.data.length ≠ r.bytes))
       (u.fromLost p = true → exec (.sr d) s = .next u) ∧
       (u.fromLost p = false → mine = none → ∃ t, exec (.sr d) s = .next t ∧ t.cle = { s.cle with srGot := pieces } ∧
          SameOutside [.cle, .fab, .sent] s t) ∧
       (∀ r e, u.fromLost p = false → mine = some r → srCmd u r = some e → bad r →
          ∃ t, exec (.sr d) s = .next t ∧ (t.core (coreNo r.core)).q.seq = .haltFault ∧
            t.cle.srRuns = s.cle.srRuns.filter (fun y => !(y.core = (coreNo r.core).val && y.cmd = e.id)) ∧
            SameOutside [.cores, .hub, .err, .cle, .fab, .pmu, .sent, .fresh] s t) ∧
       (∀ r, u.fromLost p = false → mine = some r → ¬bad r →
          ∃ t, exec (.sr d) s = .next t ∧ t.cle.srCount = s.cle.srCount ∧ t.cle.buckets = s.cle.buckets ∧
            SameOutside [.cores, .cle, .fab, .sent] s t))) ∧
    (∀ (g : Fin 16) r e, s.cle.srRuns.find? (fun r => r.group = g.val) = some r → srCmd s r = some e →
      (r.timeoutUs = 0 → exec (.cleSrTimeout g) s = .next s) ∧
      (r.timeoutUs ≠ 0 → ∃ t, exec (.cleSrTimeout g) s = .next t ∧
        (t.core (coreNo r.core)).q.seq = .haltFault ∧
        t.cle.srRuns = s.cle.srRuns.filter (fun y => !(y.core = (coreNo r.core).val && y.cmd = e.id)) ∧
        SameOutside [.cores, .hub, .err, .cle, .pmu, .sent, .fresh] s t)) ∧
    (∀ (g : Fin 16), s.cle.srRuns.find? (fun r => r.group = g.val) = none → exec (.cleSrTimeout g) s = .next s)

/-! Parameter update (11) -/

/-- R320, R321, R324, R342, R343: an UPDATE call. One refused for its map, its table or a descriptor stops its core with
nothing written. Any other takes its group table and goes on as `UpdateGoesOn` says: it waits for its power credit, or
the step record is written and the shards follow. A call in progress goes on in the same way, on its own core, unless the
job is being suspended or a written shard has still to be reported. -/
def Obligations.UpdateCallsRun : Prop :=
  ∀ (c : CoreId) (blocks : Option Word32) (s : State), s.has64 → s.hub.snoop = [] → s.hub.bisnp = [] →
    s.cke.rewinding = false →
    (s.callOf c 0x20 = none → exec (.update c blocks) s = .next s) ∧
    (∀ ci, s.callOf c 0x20 = some ci →
      (let die := s.dieOfCore c.val
       (∀ pc, (s.pue die).call = some pc →
         (pc.core ≠ c.val ∨ pc.imageDue = true ∨ s.pueHeld = true → exec (.update c blocks) s = .next s) ∧
         (pc.core = c.val → pc.imageDue = false → s.pueHeld = false → ∃ t, exec (.update c blocks) s = .next t ∧
           UpdateGoesOn die (stepLimit blocks) s pc t ∧
           SameOutside [.cores, .hub, .err, .mem, .pue0, .pue1, .cke, .pwr, .pmu, .sent, .fresh] s t)) ∧
       ((s.pue die).call = none → s.pueFree die = false ∨ s.pueHeld = true → exec (.update c blocks) s = .next s) ∧
       ((s.pue die).call = none → s.pueFree die = true → s.pueHeld = false →
         (let ma := pbNum ci.pb 0x10 8
          let ta := pbNum ci.pb 0x18 8
          let u := (s.readsMap (pueAgent die) ma).readsTable die ta
          let held := (u.readMap ma).ents.filter u.holdsEnt
          let d1 := u.readsDescs (pueAgent die) held
          let todo := d1.callShards (u.readMap ma) die
          let d2 := todo.foldl (fun v x => v.readsHeaders die x.2) d1
          let tab := u.readTable ta
          let refused := u.mapBad ma = true ∨ (u.readMap ma).kind ≠ 0 ∨ u.tableBad ta = true ∨
            (∃ e ∈ held, d2.rangePop e.sdesc 128 = false) ∨
            ∃ x ∈ todo, d2.sdescBad x.1.sdesc = true ∨ d2.shapeBad tab x.2 = true
          ∃ t, exec (.update c blocks) s = .next t ∧
            (refused → (t.core c).q.seq = .haltFault ∧ (t.core c).q.cmdIndex = ci.idx ∧ (t.core c).q.call = none ∧
              (∀ a, t.byteAt a = s.byteAt a) ∧ t.pue0 = s.pue0 ∧ t.pue1 = s.pue1 ∧ t.cke.table = s.cke.table) ∧
            (¬refused → t.cke.table = some tab ∧
              (let b := (d2.pueReads die [(tab.status, 64 * tab.groups.length)]).takeTable die tab
               let pc : PueCall := ⟨c.val, s.stepNow.toNat, tab, todo, [], false, 0, none,
                 b.startSums tab s.stepNow.toNat 24, b.startSums tab s.stepNow.toNat 28⟩
               UpdateGoesOn die (stepLimit blocks) (b.setPue die { s.pue die with call := some pc, creditWait := true }) pc t)) ∧
            SameOutside [.cores, .hub, .err, .mem, .pue0, .pue1, .cke, .pwr, .pmu, .sent, .fresh] s t))))

/-- R321, R323, R341, R343, R353, R355: the shards of an UPDATE call, one after the other. A PUE that waits goes on once
the finals of its shard are here; a shard that is written is reported complete, with its digest where the PUE forms one,
and the next follows, or the call ends. -/
def Obligations.UpdateGoesShardByShard : Prop :=
  ∀ (die : Fin 2) (blocks : Option Word32) (s : State), s.has64 → s.hub.snoop = [] → s.hub.bisnp = [] →
    s.cke.rewinding = false →
    ((s.pue die.val).call = none ∨ s.pueHeld = true →
      exec (.shardFinalsReady die blocks) s = .next s ∧ exec (.shardImageComplete die blocks) s = .next s) ∧
    (∀ pc, (s.pue die.val).call = some pc → s.pueHeld = false →
      (pc.imageDue = true → exec (.shardFinalsReady die blocks) s = .next s) ∧
      (pc.imageDue = false → ∃ t, exec (.shardFinalsReady die blocks) s = .next t ∧
        UpdateGoesOn die.val (stepLimit blocks) s pc t ∧
        SameOutside [.cores, .hub, .err, .mem, .pue0, .pue1, .cke, .pwr, .pmu, .sent, .fresh] s t) ∧
      ((pc.imageDue = false ∨ pc.todo = []) → exec (.shardImageComplete die blocks) s = .next s) ∧
      (∀ x rest, pc.imageDue = true → pc.todo = x :: rest →
        (let u := finishShard s die.val pc x.1 x.2
         let nc := { pc with todo := rest, written := [], imageDue := false, block := 0, nonf := none }
         (x.1.bucket, x.1.shard) ∈ u.cle.imaged ∧
         ((s.pue die.val).digestEn = true → s.cle.armed = none → x.2.digest % 64 = 0 →
           ∀ i, i < 40 → s.populated x.2.digest = true →
             u.byteAt (x.2.digest + i) = (s.shardDigest pc x.2).getD i 0) ∧
         ((s.pue die.val).digestEn = false → s.cle.armed = none → u.mem = s.mem) ∧
         ∃ t, exec (.shardImageComplete die blocks) s = .next t ∧
           UpdateGoesOn die.val (stepLimit blocks) (u.setPue die.val { u.pue die.val with call := some nc }) nc t ∧
           SameOutside [.cores, .hub, .err, .mem, .cle, .pue0, .pue1, .cke, .pwr, .fab, .pmu, .sent, .fresh] s t)))

/-- R313, R321, R322, R323, R332, R333: one block of a shard in a step. A block whose group has not started, or that
neither is touched nor belongs to a dense group, keeps its bytes; a frozen block that is touched ends the call when its
group is strict, naming the group; any other block is written into the copy that is not current, header with WSTEP k, and
into the image: no byte outside that copy, the image and its group's status entry changes, so the current copy stands. -/
def Obligations.UpdateWritesTheOtherCopy : Prop :=
  ∀ (die : Nat) (d : SDesc) (seed : Word64) (a : PueAcc) (b cur grp : Nat) (g : Group), a.fin = .go →
    (let s := (a.st.readHeaders die d b).pueReads die (d.finalRanges b)
     let k := a.call.k
     let sa := a.call.table.status + 64 * grp
     let in_ := fun (x base n : Nat) => base ≤ x ∧ x < base + n
     let hdr := pl d.hdr (1 - cur) + 16 * b
     ∀ r : PueAcc, r = pueBlock die d seed a b → s.blockEntry a.call.table d b = some (cur, grp, g) →
      (∀ x, s.byteAt x = a.st.byteAt x) ∧
      (k < g.start → r = { a with st := s }) ∧
      (g.start ≤ k → g.frozen = true → s.touched d b = true → g.strict = true →
        r.fin = .frozenTouch grp ∧ r.st = s ∧ r.call = a.call) ∧
      (g.start ≤ k → g.frozen = true → s.touched d b = false → r = { a with st := s }) ∧
      (g.start ≤ k → g.frozen = false → s.touched d b = false → g.dense = false → r = { a with st := s }) ∧
      (g.start ≤ k → g.frozen = false → (s.touched d b = true ∨ g.dense = true) → g.rule ≠ 3 →
        r.fin = .go ∧ r.call.written = a.call.written ++ [(b, 1 - cur, grp)] ∧
        (∀ x, ¬in_ x (pl d.mst (1 - cur) + 128 * b) 128 →
          ¬in_ x (pl d.m1 (1 - cur) + momBytes d.momfmt * b) (momBytes d.momfmt) →
          ¬in_ x (pl d.m2 (1 - cur) + momBytes d.momfmt * b) (momBytes d.momfmt) →
          ¬in_ x hdr 16 → ¬in_ x (d.img + imgBytes d.imgfmt * b) (imgBytes d.imgfmt) →
          ¬in_ x sa 64 → r.st.byteAt x = a.st.byteAt x) ∧
        (pl d.hdr (1 - cur) % 64 = 0 → a.st.populated hdr = true → ∀ i, i < 8 →
          ¬in_ (hdr + i) (d.img + imgBytes d.imgfmt * b) (imgBytes d.imgfmt) → ¬in_ (hdr + i) sa 64 →
            r.st.byteAt (hdr + i) = (leBytes 8 k).getD i 0)))

/-- R338, R339, R342, R343: a PRECOND call. One refused for its table or a tile stops its core with nothing written; in a
step that its interval does not name it ends at once with nothing written; else it clears the FALLBACK marks of the groups
it reaches, waits for its power credit and does the listed tiles in order (`PrecondGoesOn`). A call in progress goes on in
the same way, on its own core, unless the job is being suspended. -/
def Obligations.PrecondCallsRun : Prop :=
  ∀ (c : CoreId) (tiles : Option Word32) (s : State), s.has64 → s.hub.snoop = [] → s.hub.bisnp = [] →
    s.cke.rewinding = false →
    (s.callOf c 0x21 = none → exec (.precond c tiles) s = .next s) ∧
    (∀ ci, s.callOf c 0x21 = some ci →
      (let die := s.dieOfCore c.val
       (∀ r, (s.pue die).pre = some r →
         (r.core ≠ c.val ∨ s.pueHeld = true → exec (.precond c tiles) s = .next s) ∧
         (r.core = c.val → s.pueHeld = false → ∃ t, exec (.precond c tiles) s = .next t ∧
           PrecondGoesOn die c ci (stepLimit tiles) s r t ∧
           SameOutside [.cores, .hub, .err, .mem, .pue0, .pue1, .cke, .pwr, .pmu, .sent, .fresh] s t)) ∧
       ((s.pue die).pre = none → s.pueFree die = false ∨ s.pueHeld = true → exec (.precond c tiles) s = .next s) ∧
       ((s.pue die).pre = none → s.pueFree die = true → s.pueHeld = false →
         (let a := pbNum ci.pb 0x10 8
          let n := pbNum ci.pb 0x18 4
          let kk := pbNum ci.pb 0x1C 4
          let u := s.pueReads die [(a, 16 * n)]
          let ents := (List.range n).map fun i => (u.numAt (a + 16 * i) 8, u.numAt (a + 16 * i + 8) 4)
          let d := u.pueReads die (ents.map fun x => (x.1, 128))
          let todo := ents.map fun x => (d.readSDesc x.1, x.2)
          let h := todo.foldl (fun v x => v.readHeaders die x.1 (512 * x.2)) d
          let b := (todo.filterMap h.tileGroup).dedup.foldl (State.countFallback (die := die) (f := fun _ => 0)) h
          let r : PreRun := ⟨c.val, s.stepNow.toNat, todo⟩
          let misfit := kk = 0 ∨ 2 ^ 20 < kk ∨ a % 64 ≠ 0
          let refused := d.readable a (16 * n) = false ∨ (∃ x ∈ ents, d.sdescBad x.1 = true) ∨
            ∃ x ∈ todo, x.1.nblk < 512 * (x.2 + 1)
          ∃ t, exec (.precond c tiles) s = .next t ∧
            (misfit ∨ (s.stepNow.toNat % kk = 0 ∧ refused) → (t.core c).q.seq = .haltFault ∧ (t.core c).q.call = none ∧
              (∀ x, t.byteAt x = s.byteAt x) ∧ t.pue0 = s.pue0 ∧ t.pue1 = s.pue1) ∧
            (¬misfit → s.stepNow.toNat % kk ≠ 0 → (t.core c).q.call = none ∧ t.mem = s.mem ∧ t.pue0 = s.pue0 ∧
              t.pue1 = s.pue1) ∧
            (¬misfit → s.stepNow.toNat % kk = 0 → ¬refused →
              PrecondGoesOn die c ci (stepLimit tiles) (b.setPue die { s.pue die with pre := some r, creditWait := true }) r t) ∧
            SameOutside [.cores, .hub, .err, .mem, .pue0, .pue1, .cke, .pwr, .pmu, .sent, .fresh] s t))))

/-- R338, R339, R343, R344: the tiles of PRECOND, one after the other. A tile with no current copy stops the call, its list
and the job; of any other the inverse fourth roots of the two matrices of its current copy stand in the copy that is not
current, and no other byte changes but that copy's header and, when a root fell back, its group's status entry. -/
def Obligations.PrecondWritesTheInverseRoots : Prop :=
  (∀ (die : Nat) (c : CoreId) (ci : CallInfo) (s : State) (r : PreRun), s.has64 → die < 2 → (s.pue die).pre = some r →
    (r.todo = [] → ((preStep die c ci s).pue die).pre = none ∧ (preStep die c ci s).mem = s.mem) ∧
    (∀ x rest, r.todo = x :: rest →
      (precondTile die c ci r.k s x = none → ((preStep die c ci s).pue die).pre = none ∧
        ((preStep die c ci s).core c).q.seq = .haltFault ∧ (preStep die c ci s).mem = s.mem) ∧
      (∀ t, precondTile die c ci r.k s x = some t →
        preStep die c ci s = t.setPue die { t.pue die with pre := some { r with todo := rest } }))) ∧
  (∀ (die : Nat) (c : CoreId) (ci : CallInfo) (k : Nat) (s : State) (x : SDesc × Nat),
    (let sh := s.readTileHeaders die x.1 x.2
     (sh.curTile x.1 x.2 = none → precondTile die c ci k s x = none) ∧
     (∀ cur, sh.curTile x.1 x.2 = some cur → ∃ r, precondTile die c ci k s x = some r ∧
       (let ca := tileAddr x.1 cur x.2
        let aa := tileAddr x.1 (1 - cur) x.2
        let u := (sh.pueReads die [(ca + 4096, 131072)]).readHeaders die x.1 (512 * x.2)
        let out := matBytes (invRoot4 128 (u.tileMat ca 0)).1 ++ matBytes (invRoot4 128 (u.tileMat ca 1)).1
        (∀ n, ¬(aa ≤ n ∧ n < aa + 64) → ¬(aa + 135168 ≤ n ∧ n < aa + 135168 + out.length) →
          (∀ tab g, s.cke.table = some tab → u.tileGroup x = some g →
            ¬(tab.status + 64 * g ≤ n ∧ n < tab.status + 64 * g + 64)) → r.byteAt n = s.byteAt n) ∧
        (s.cke.table = none → aa % 64 = 0 → ∀ i, i < out.length → s.populated ((aa + 135168 + i) / 64 * 64) = true →
          r.byteAt (aa + 135168 + i) = out.getD i 0)))))

/-! The commit gate (12) -/

/-- R352, R356: readiness and votes. A running or retrying device becomes ready once its flag has reached READY_TARGET,
its exchange is staged and its digests are in, and the flag starts over below the target; else nothing happens. A vote of
a ward in the running step and attempt takes the place of an earlier one and is acknowledged; any other is dropped. An
acknowledgement from the ancestor whose turn it is is noted; without one the vote goes to the next ancestor. -/
def Obligations.VotesGatherTowardsTheRoot : Prop :=
  ∀ (s : State),
    (let able := (s.cke.st = .running ∨ s.cke.st = .retrying) ∧ s.cke.rewinding = false ∧ s.flagReady = true ∧
       s.stageReady = true ∧ s.digestsIn = true
     (¬able → exec .ready s = .next s) ∧
     (able → ∃ t, exec .ready s = .next t ∧ t.cke.c = s.cke.c ∧ t.cke.attempt = s.cke.attempt ∧
        (s.votesIn = false → t.cke.st = .ready) ∧
        (s.cke.att.afterRetry = false → s.votesIn = false →
          t.hubFlag s.cke.readyFlag = s.hubFlag s.cke.readyFlag - s.cke.readyTarget ∧
          ∀ n, n ≠ s.cke.readyFlag → t.hubFlag n = s.hubFlag n) ∧
        (s.votesIn = true → s.hub.jobState ≠ .suspended → s.isRoot = false → t.cke.st = .voted ∧ t.cke.att.voteTo = 0 ∧
          t.cke.att.voteAcked = false) ∧
        SameOutside [.hub, .err, .cke, .fab, .pmu, .sent] s t)) ∧
    (s.takeCke 0x21 = none → exec .vote s = .next s) ∧
    (∀ p gone u, s.takeCke 0x21 = some (p, gone, u) →
      (let taken := gone = false ∧ u.attemptOpen = true ∧ u.ckeNow p = true ∧ p.src ∈ u.wards
       (¬taken → exec .vote s = .next u ∧ SameOutside [.fab, .sent] s u) ∧
       (taken → ∃ t, exec .vote s = .next t ∧
          t.cke.att.votes = (s.cke.att.votes.filter fun v => v.1 ≠ p.src) ++ [(p.src, voteOf p.payload)] ∧
          SameOutside [.hub, .err, .cke, .fab, .pmu, .sent] s t))) ∧
    (s.takeCke 0x22 = none → exec .voteAck s = .next s) ∧
    (∀ p gone u, s.takeCke 0x22 = some (p, gone, u) →
      (let fits := gone = false ∧ u.ckeNow p = true ∧ u.ancestors[u.cke.att.voteTo]? = some p.src
       (fits → exec .voteAck s = .next { u with cke.att.voteAcked := true }) ∧
       (¬fits → exec .voteAck s = .next u) ∧ SameOutside [.fab, .sent] s u)) ∧
    (let late := s.cke.st = .voted ∧ s.cke.att.voteAcked = false ∧ s.cke.voteTimeout ≠ 0
     (¬late → exec .voteTimeout s = .next s) ∧
     (late → ∃ t, exec .voteTimeout s = .next t ∧
        t.cke = { s.cke with att.voteTo :=
          if s.cke.att.voteTo + 1 < s.ancestors.length then s.cke.att.voteTo + 1 else s.cke.att.voteTo } ∧
        SameOutside [.hub, .err, .cke, .fab, .pmu, .sent] s t))

/-- R352, R353, R354, R358: what keeps a device from a clean vote. Shards unstaged long after a loss set STAGE_MISSING; a
digest of a shard this device shadows is kept, and an equal one marks the shard compared while a different or a missing
one sets DIGEST and lists the shard; a device that voted and hears no decision is orphaned and its job halts. -/
def Obligations.DigestsAndTimeoutsCount : Prop :=
  ∀ (s : State),
    (let missing := s.cke.st = .running ∧ s.cke.att.lossSeen = true ∧ s.stageReady = false ∧ s.cke.voteTimeout ≠ 0
     (missing → exec .stageMissing s = .next { s with cke.health := s.cke.health ||| 128, cke.att.stageMissed := true }) ∧
     (¬missing → exec .stageMissing s = .next s)) ∧
    (s.takeCke 0x20 = none → exec .digest s = .next s) ∧
    (∀ p gone u, s.takeCke 0x20 = some (p, gone, u) →
      (let n := fld p.addr 24 20
       let ent := s.cke.att.map.bind fun m => m.ents[n]?
       let mine := fun (e : MapEnt) => gone = false ∧ u.ckeNow p = true ∧ e.owner = p.src ∧ e.buddy = some s.fab.devid
       ((∀ e, ent = some e → ¬mine e) → exec .digest s = .next u ∧ SameOutside [.fab, .sent] s u) ∧
       (∀ e, ent = some e → mine e → s.cke.att.digRx = [] → ∃ t, exec .digest s = .next t ∧
          t.cke.att.digRx = [(n, p.payload)] ∧
          (let own := sget [] s.cke.att.digOwn n
           let judged := own ≠ [] ∧ n ∉ s.cke.att.compared ∧ s.compares = true ∧ s.isLost e.owner = false
           (¬judged → t.cke.att.compared = s.cke.att.compared ∧ t.cke.health = s.cke.health ∧ t.cke.att.mis = s.cke.att.mis) ∧
           (judged → t.cke.att.compared = s.cke.att.compared ++ [n] ∧
             (own = p.payload.take 40 → t.cke.health = s.cke.health ∧ t.cke.att.mis = s.cke.att.mis) ∧
             (own ≠ p.payload.take 40 → t.cke.health.getLsbD 9 = true ∧ t.cke.att.mis = s.cke.att.mis ++ [misWord n
                (if s.suspect < lenum p.payload 40 4 then e.owner else s.fab.devid) s.cke.att.afterRetry]))) ∧
          SameOutside [.cke, .fab, .sent] s t))) ∧
    (∀ (i : BitVec 20),
      (let ent := s.cke.att.map.bind fun m => m.ents[i.toNat]?
       let due := fun (e : MapEnt) => s.cke.voteTimeout ≠ 0 ∧ s.compares = true ∧ e.buddy = some s.fab.devid ∧
         s.goneNow e.owner = false ∧ sget [] s.cke.att.digOwn i.toNat ≠ [] ∧ i.toNat ∉ s.cke.att.compared
       ((∀ e, ent = some e → ¬due e) → exec (.digestTimeout i) s = .next s) ∧
       (∀ e, ent = some e → due e → ∃ t, exec (.digestTimeout i) s = .next t ∧ t.cke.health.getLsbD 9 = true ∧
          t.cke.health.getLsbD 12 = (s.cke.health.getLsbD 12 || s.cke.att.afterRetry) ∧
          t.cke.att.compared = s.cke.att.compared ++ [i.toNat] ∧ t.cke.att.mis = s.cke.att.mis ++ [misWord i.toNat
            s.fab.devid s.cke.att.afterRetry] ∧ SameOutside [.cke] s t))) ∧
    (let left := s.cke.st = .voted ∧ s.cke.decTimeout ≠ 0
     (¬left → exec .ckeOrphaned s = .next s) ∧
     (left → ∃ t, exec .ckeOrphaned s = .next t ∧ t.cke = { s.cke with st := .orphaned } ∧
        (∀ j, s.hub.job = some j → s.hub.jobState = .running → t.hub.jobState = .halted) ∧
        SameOutside [.cores, .hub, .err, .cke, .pmu, .sent] s t))

/-- R349, R354, R355: probes and losses. In an open attempt a ward that has not voted and answers no probe is counted and
probed, or declared lost at its last missed probe; a probe is answered in every state, and an answer clears the count,
unless its sender is lost. A notice of a loss joins the pending losses once, is passed on, and lets the streams of the
lost device be sent again; one that repeats, or of a device already lost, is dropped. CKE_CTL.ABORT sets HOST_ABORT in the
health word. -/
def Obligations.ProbesFindLostDevices : Prop :=
  ∀ (s : State), s.hub.snoop = [] → s.hub.bisnp = [] →
    (s.attemptOpen = false → exec .probeTick s = .next s) ∧
    (s.attemptOpen = true → s.cke.st ≠ .ready → s.probes = [] → exec .probeTick s = .next s) ∧
    (∀ d, s.attemptOpen = true → s.votesIn = false → s.probes = [d] →
      (let missed := d ∈ s.cke.att.probed
       let n := sget 0 s.cke.att.misses d + (if missed then 1 else 0)
       let lost := missed ∧ max 1 (fld s.cke.probe.toNat 16 4) ≤ n
       ∃ t, exec .probeTick s = .next t ∧
        (¬lost → t.cke.att.misses = sset 0 s.cke.att.misses d n ∧ d ∈ t.cke.att.probed ∧ t.cke.st = s.cke.st ∧
          t.cke.health = s.cke.health ∧ t.cke.att.declared = s.cke.att.declared) ∧
        (lost → s.isRoot = false → d ≠ s.rootDev → t.cke.att.declared = s.cke.att.declared ++ [d] ∧
          t.cke.health.getLsbD 10 = true) ∧
        SameOutside [.hub, .err, .mem, .cle, .cke, .pwr, .fab, .pmu, .sent] s t)) ∧
    (s.takeCke 0x24 = none → exec .probe s = .next s) ∧
    (∀ p gone u, s.takeCke 0x24 = some (p, gone, u) → ∃ t, exec .probe s = .next t ∧
      t = (if gone then u else u.sendPacket (mkPacket 0x25 p.src 0 0 p.addr 0 [])) ∧
      SameOutside [.hub, .err, .fab, .pmu, .sent] s t) ∧
    (s.takeCke 0x25 = none → exec .probeAck s = .next s) ∧
    (∀ p gone u, s.takeCke 0x25 = some (p, gone, u) → ∃ t, exec .probeAck s = .next t ∧
      (gone = true → t.cke = s.cke) ∧
      (gone = false → t.cke = { s.cke with
        att.probed := s.cke.att.probed.erase p.src, att.misses := sset 0 s.cke.att.misses p.src 0 }) ∧
      SameOutside [.cke, .fab, .sent] s t) ∧
    (s.takeCke 0x26 = none → exec .lossNotice s = .next s) ∧
    (∀ p gone u, s.takeCke 0x26 = some (p, gone, u) →
      (let d := lenum p.payload 0 2
       let known := gone = true ∨ s.attemptOpen = false ∨ d ∈ s.cke.att.pendingLost
       (known → exec .lossNotice s = .next u ∧ SameOutside [.fab, .sent] s u) ∧
       (¬known → ∃ t, exec .lossNotice s = .next t ∧ t.cke.att.pendingLost = s.cke.att.pendingLost ++ [d] ∧
          t.cke.att.lossSeen = true ∧
          (s.cke.att.map = none → t.cle.accepted = s.cle.accepted.filter (fun a => !(a.1 && a.2.2.2.2.2 = d)) ∧
            t.cle.streams = s.cle.streams.filter (fun x => !(x.gather && x.src = d)) ∧ t.mem = s.mem) ∧
          SameOutside [.hub, .err, .mem, .cle, .cke, .pwr, .fab, .pmu, .sent] s t))) ∧
    (∀ (w : Word32), ∃ t, exec (.hostAbort w) s = .next t ∧ (s.barOpen = false → t = s) ∧
      (s.barOpen = true → t.cke.health = (if w.getLsbD 1 then s.cke.health ||| 256 else s.cke.health) ∧
        (s.cke.st = .idle → t.cke.ctl = s.cke.ctl &&& ~~~0xF7F5 ||| w &&& 0xF7F5) ∧
        (s.cke.st ≠ .idle → t.cke.ctl = s.cke.ctl &&& ~~~0xF000 ||| w &&& 0xF000)) ∧
      SameOutside [.top, .hub, .err, .cke, .pmu, .sent] s t)

/-- R358, R361, R363, R366, R367, R379, R380: a decision is applied once, by the device it reaches in the running step
and attempt. COMMIT makes the step the committed one, closes the exchange and begins the next step's first attempt; ABORT
keeps the committed step, closes the exchange and rewinds or halts; RETRY_UPDATE runs the listed shards again in the next
attempt; ROLLBACK reads the generation back; HALT halts. A device that the decision lists as lost halts instead. With no
decision of the kind to take nothing is applied; an acknowledgement of a device that is not lost ends the resending to
it. -/
def Obligations.DecisionsAreAppliedOnce : Prop :=
  ∀ (s : State), s.hub.snoop = [] → s.hub.bisnp = [] →
    (∀ x ∈ [(Instr.commit, 1), (.abortStep, 2), (.retryUpdate, 3), (.rollback, 4), (.haltAll, 5)],
      (∀ u, s.takeDecision x.2 = (none, u) → exec x.1 s = .next u ∧ SameOutside [.hub, .err, .cke, .fab, .pmu, .sent] s u ∧
        u.cke.c = s.cke.c ∧ u.cke.st = s.cke.st ∧ u.cke.applied = s.cke.applied) ∧
      (∀ d src u, s.takeDecision x.2 = (some (d, src), u) → ∃ t, exec x.1 s = .next t ∧
        t.cke.applied = some (d.step, d.attempt) ∧ t.cke.lastAction = x.2 ∧ t.cke.lastReason = d.reason.toNat % 2 ^ 14 ∧
        t.cke.sentDec = some d ∧
        (s.fab.devid ∈ d.lost → t.cke.st = .halted ∧ t.cke.c = s.cke.c ∧ t.mem = s.mem ∧ t.cle = s.cle) ∧
        SameOutside [.cores, .hub, .err, .mem, .cle, .pue0, .pue1, .cke, .pwr, .fab, .pmu, .sent] s t)) ∧
    (∀ d src u, s.takeDecision 1 = (some (d, src), u) → s.fab.devid ∉ d.lost → ∃ t, exec .commit s = .next t ∧
      t.cke.c = s.cke.c + 1 ∧ t.cke.attempt = 0 ∧ t.cke.st = .running ∧ (t.cke.health = 0 ∨ t.cke.health = 8) ∧
      t.cke.firstUpdate = true ∧ t.cke.ckptStep = d.ckStep % 2 ^ 56 ∧ t.cke.ckptGen = d.ckGen ∧ t.cle.isOpen = false ∧
      t.cke.att.votes = [] ∧ t.pue0 = s.pue0 ∧ t.pue1 = s.pue1) ∧
    (∀ d src u, s.takeDecision 2 = (some (d, src), u) → s.fab.devid ∉ d.lost → ∃ t, exec .abortStep s = .next t ∧
      t.cke.c = s.cke.c ∧ t.cke.aborts = satAdd 32 s.cke.aborts 1 ∧ t.cke.firstUpdate = true ∧ t.cle.isOpen = false ∧
      (s.cke.gateCtl.getLsbD 11 = false → t.cke.st = .halted) ∧
      (s.cke.gateCtl.getLsbD 11 = true → t.cke.st = .applying ∧ t.cke.rewinding = true ∨
        t.cke.st = .running ∧ t.cke.rewinding = false ∧ t.cke.attempt = (s.cke.attempt + 1) % 256)) ∧
    (∀ d src u, s.takeDecision 3 = (some (d, src), u) → s.fab.devid ∉ d.lost → ∃ t, exec .retryUpdate s = .next t ∧
      t.cke.c = s.cke.c ∧ t.cke.retryUpdates = satAdd 32 s.cke.retryUpdates 1 ∧ t.cke.st = .retrying ∧
      t.cke.attempt = (d.attempt + 1) % 256 ∧ t.cke.att.afterRetry = true) ∧
    (∀ d src u, s.takeDecision 4 = (some (d, src), u) → s.fab.devid ∉ d.lost → ∃ t, exec .rollback s = .next t ∧
      t.cke.rollbacks = satAdd 32 s.cke.rollbacks 1 ∧
      (s.cke.att.map = none → t.cke.st = .halted ∧ t.cke.c = s.cke.c ∧ t.cke.restore = none ∧ t.mem = s.mem)) ∧
    (∀ d src u, s.takeDecision 5 = (some (d, src), u) → s.fab.devid ∉ d.lost → ∃ t, exec .haltAll s = .next t ∧
      t.cke.st = .halted ∧ t.cke.c = s.cke.c ∧ t.mem = s.mem ∧ t.cle = s.cle) ∧
    (s.takeCke 0x27 = none → exec .decisionAck s = .next s) ∧
    (∀ p gone u, s.takeCke 0x27 = some (p, gone, u) → SameOutside [.fab, .sent] s u ∧
      (gone = true → exec .decisionAck s = .next u) ∧
      (gone = false → exec .decisionAck s = .next { u with cke.resend := s.cke.resend.erase p.src })) ∧
    ((s.cke.sentDec = none ∨ s.cke.resend = []) → exec .decisionResend s = .next s) ∧
    (∀ d, s.cke.sentDec = some d → ∃ t, exec .decisionResend s = .next t ∧ t = s.cke.resend.foldl (fun t x =>
        t.sendPacket (mkPacket 0x23 x 368 0 (d.step % 65536 + d.attempt <<< 16) 0 d.bytes)) s ∧
      SameOutside [.hub, .err, .fab, .pmu, .sent] s t)

/-- R373 to R378: RESHARD and CKPT. Either is refused with PB_INVALID for a map or a value the spec does not allow, and
nothing is moved; a second call of its kind waits while one is in progress. A RESHARD with nothing to send or receive ends
at once; one that has ranges to receive goes on until they have come, and remembers them. A CKPT of a device that owns no
entry ends at once with the generation as its newest; one that has slots to write goes on with the committed step and the
generation it took, and its headers are marked complete only at its end. -/
def Obligations.ReshardAndCheckpointCalls : Prop :=
  ∀ (c : CoreId) (s : State), s.has64 → s.hub.snoop = [] → s.hub.bisnp = [] → s.cke.rewinding = false →
    (s.callOf c 0x30 = none → exec (.reshard c) s = .next s) ∧
    (s.cke.reshard.isSome = true → exec (.reshard c) s = .next s) ∧
    (∀ ci, s.callOf c 0x30 = some ci → s.cke.reshard = none →
      (let a := pbNum ci.pb 0x10 8
       let b := pbNum ci.pb 0x18 8
       let maps := (s.readsMap 0x83 a).readsMap 0x83 b
       let r := if (maps.readMap b).kind = 0 then maps.readsDescs 0x83 (maps.readMap b).ents else maps
       let ma := r.readMap a
       let mb := r.readMap b
       let refused := r.mapBad a = true ∨ r.mapBad b = true ∨ ma.kind ≠ mb.kind ∨ 100 < pbNum ci.pb 0x20 1 ∨
         ma.kind = 1 ∧ placeCovered ma.ents mb.ents = false
       let moves := (if ma.kind = 1 then r.placeMoves ma.ents mb.ents
           else (r.shardMoves ma.ents mb.ents).map fun (_, x, y, a, n) => (x, a, y, a, n)).filter fun (x, _, y, _, _) =>
         !s.isLost x && !s.isLost y
       let me := s.fab.devid
       ∃ t, exec (.reshard c) s = .next t ∧
        (refused → (t.core c).q.seq = .haltFault ∧ (t.core c).q.cmdIndex = ci.idx ∧ (t.core c).q.call = none ∧
          t.cke = r.cke ∧ t.mem = r.mem ∧ t.fab = s.fab) ∧
        (¬refused → (∀ m ∈ moves, m.1 ≠ me ∧ m.2.2.1 ≠ me) → s.owes .reshard = false → t.cke.reshard = none ∧
          t.cke.arrived = [] ∧ (t.core c).q.call = none ∧ t.mem = r.mem) ∧
        (¬refused → (∀ m ∈ moves, m.1 ≠ me) → (∃ m ∈ moves, m.2.2.1 = me) → s.cke.arrived = [] →
          (t.cke.reshard.map fun q => (q.core, q.todo, q.expect.map Prod.snd)) = some (c.val, [],
            (moves.filter fun m => m.2.2.1 = me).map fun m => (m.2.2.2.1, m.2.2.2.1 + m.2.2.2.2)) ∧
          t.cores = s.cores ∧ t.mem = r.mem ∧ t.fab = s.fab) ∧
        (∀ x, r.byteAt x = s.byteAt x) ∧
        SameOutside [.cores, .hub, .err, .mem, .cke, .pwr, .fab, .pmu, .sent, .fresh] s t)) ∧
    (s.callOf c 0x31 = none → exec (.ckpt c) s = .next s) ∧
    (s.cke.ckpt.isSome = true → exec (.ckpt c) s = .next s) ∧
    (∀ ci, s.callOf c 0x31 = some ci → s.cke.ckpt = none →
      (let a := pbNum ci.pb 0x10 8
       let target := pbNum ci.pb 0x18 1
       let gen := pbNum ci.pb 0x19 1
       let maps := s.readsMap 0x83 a
       let m := maps.readMap a
       let own := m.ents.filter maps.ownsEnt
       let r := if m.kind = 0 then maps.readsDescs 0x83 own else maps
       let full := r.readsSlots own
       let slot := fun (x : MapEnt × Nat) => full.slotBytes (full.readSDesc x.1.sdesc) s.cke.c gen false (x.2 = 0)
       let refused := r.mapBad a = true ∨ m.kind ≠ 0 ∨ 1 < target ∨
         (∃ e ∈ own, r.sdescBad e.sdesc = true ∨ e.ckh = none ∨ ¬(tier2Base ≤ e.ckaddr ↔ target = 1)) ∨
         ∃ x ∈ own.zipIdx, m.ckBytes < r.slotLen (r.readSDesc x.1.sdesc) (x.2 = 0)
       ∃ t, exec (.ckpt c) s = .next t ∧ (∀ x, t.byteAt x = s.byteAt x) ∧
        (refused → (t.core c).q.seq = .haltFault ∧ (t.core c).q.call = none ∧ t.cke = r.cke ∧ t.fab = s.fab) ∧
        (¬refused → own = [] → s.owes .ckpt = false → t.cke.ckpt = none ∧ t.cke.ownGen = some (s.cke.c, gen) ∧
          (t.core c).q.call = none ∧ t.fab = s.fab) ∧
        (¬refused → own ≠ [] → t.cores = s.cores ∧ t.cke.ownGen = s.cke.ownGen ∧
          ∃ q, t.cke.ckpt = some q ∧ q.core = c.val ∧ q.c = s.cke.c ∧ q.gen = gen ∧ q.last = false ∧
            q.headers = own.zipIdx.flatMap fun x => putsOf (x.1.ckh.getD 0) (m.slotAddr x.1 gen)
              ((slot x).take 9 ++ [1] ++ ((slot x).drop 10).take 54)) ∧
        SameOutside [.cores, .hub, .err, .mem, .cke, .pwr, .fab, .pmu, .sent, .fresh] s t))

/-! Jobs (13) -/

/-- R393 to R396, R398, R399, R401: ring entries. An entry is taken only while its ring holds one and no lower ring does;
a bad one is refused and changes no job. A good START joins the queue of STARTs; a NOP is answered once the entries before
it are; SUSPEND stops the job at its next boundary, RESUME lets the very job go on that this image holds, and TERMINATE
halts the running job or drops the suspended one; each that does not fit the job's state is refused and changes no job. -/
def Obligations.RingEntriesAreHandled : Prop :=
  ∀ (q : Fin 4) (e : SqEntry) (s : State), s.hub.snoop = [] → s.hub.bisnp = [] →
    (let n := (s.ring q.val).sqRead.toNat
     let kept := fun (t : State) => t.hub.job = s.hub.job ∧ t.hub.jobState = s.hub.jobState ∧ t.hub.susp = s.hub.susp ∧
       t.cores = s.cores ∧ t.cke = s.cke
     (∀ x ∈ [(Instr.start q e, 1), (.ringNop q 5 e, 5), (.suspend q e, 2), (.resume q e, 3), (.terminate q e, 4)],
       (s.entryDue q.val = false → exec x.1 s = .next s) ∧
       (s.entryDue q.val = true → ∃ t, exec x.1 s = .next t ∧ (t.ring q.val).sqRead = (s.ring q.val).sqRead + 1 ∧
          (s.entryBad x.2 e = true → kept t ∧ t.hub.startQ = s.hub.startQ) ∧
          SameOutside [.cores, .hub, .err, .mem, .cle, .pue0, .pue1, .cke, .pwr, .fab, .pmu, .sent, .fresh] s t)) ∧
     (s.entryDue q.val = true → s.entryBad 1 e = false → ∃ t, exec (.start q e) s = .next t ∧ kept t ∧
       t.hub.startQ = s.hub.startQ ++ [⟨q.val, n, e.jobId.toNat, e.cookie.toNat, e.flags.getLsbD 0, e.addr.toNat⟩]) ∧
     (s.entryDue q.val = true → s.entryBad 5 e = false → ∃ t, exec (.ringNop q 5 e) s = .next t ∧
       kept t ∧ t.hub.startQ = s.hub.startQ ∧
       ((s.ring q.val).nops = [] → (s.ring q.val).unanswered = [] → (t.ring q.val).nops = [] ∧
         (t.ring q.val).unanswered = [])) ∧
     (∀ op : Byte, 1 ≤ op.toNat → op.toNat ≤ 4 → exec (.ringNop q op e) s = .next s) ∧
     (s.entryDue q.val = true → s.entryBad 2 e = false → ∃ t, exec (.suspend q e) s = .next t ∧
       (∀ j, s.hub.job = some j → j.jobId = e.jobId.toNat → s.hub.susp = none →
         (s.hub.jobState = .running ∨ s.hub.jobState = .halted) → t.hub.jobState = .suspending ∧
         t.hub.job = some { j with suspEntry := some (q.val, n, e.cookie.toNat, e.flags.getLsbD 0),
                                   imageAddr := e.addr.toNat } ∧
         (s.exchangeSealed = true → t.cores = s.cores) ∧
         (s.exchangeSealed = false → s.has64 → ∀ c, t.core c =
           if c ∈ coresOfMask j.coreMask then haltCore (s.core c) else s.core c)) ∧
       (¬(jobIs s.hub.job e = true ∧ s.hub.susp = none ∧ (s.hub.jobState = .running ∨ s.hub.jobState = .halted)) → kept t)) ∧
     (s.entryDue q.val = true → s.entryBad 3 e = false → ∃ t, exec (.resume q e) s = .next t ∧
       (let fits := fun (p : Suspended) => p.job.jobId = e.jobId.toNat ∧ s.hub.job = none ∧ s.hub.resetSince = false ∧
          p.job.haltCode = none ∧ p.job.imageAddr = e.addr.toNat
        (∀ p, s.hub.susp = some p → fits p → t.hub.jobState = .running ∧ t.hub.susp = none ∧
          t.hub.job = some { p.job with suspEntry := none } ∧ (t.pue0.call, t.pue0.pre) = p.pue0 ∧
          (t.pue1.call, t.pue1.pre) = p.pue1 ∧ t.cle = s.cle.resumed p.exchange ∧ (p.samples = [] → t.mem = s.mem)) ∧
        ((∀ p, s.hub.susp = some p → ¬fits p) → kept t))) ∧
     (s.entryDue q.val = true → s.entryBad 4 e = false → ∃ t, exec (.terminate q e) s = .next t ∧
       (∀ j, s.hub.job = some j → j.jobId = e.jobId.toNat → (s.hub.jobState = .running ∨ s.hub.jobState = .halted) →
         t.cores = s.cores.map haltCore ∧ t.cke.rewinding = false ∧
         ((∃ c ∈ coresOfMask j.coreMask, (State.core { s with cores := s.cores.map haltCore } c).quiet = false) →
           t.hub.jobState = .terminating) ∧
         ((∀ c ∈ coresOfMask j.coreMask, (State.core { s with cores := s.cores.map haltCore } c).quiet = true) →
           t.hub.job = none ∧ t.hub.jobState = (if s.hub.susp.isSome then .suspended else .none))) ∧
       (jobIs s.hub.job e = false → (∀ p, s.hub.susp = some p → p.job.jobId = e.jobId.toNat → t.hub.susp = none ∧
         t.hub.job = s.hub.job ∧ t.cores = s.cores) ∧
         ((∀ p, s.hub.susp = some p → p.job.jobId ≠ e.jobId.toNat) → kept t))))

/-- R391, R392, R397, R398: JOB_START takes the oldest START when no job runs; a refused descriptor changes no job, a good
one starts its job: every core of its mask stalls for the first line of its list with no open slots, tables or flags, and
its PARAM registers loaded; the others stay as they are. JOB_DONE ends a running job once each of its cores is at END with
its commands complete; 10 ms after TERMINATE JOB_TERM_FORCED resets the cores and ends the job. -/
def Obligations.JobsStartAndEnd : Prop :=
  ∀ (s : State), s.hub.snoop = [] → s.hub.bisnp = [] → s.has64 →
    ((s.hub.startQ = [] ∨ s.hub.job.isSome ∨ 64 < s.hub.waitingCq.length ∨ s.memReady = false) →
      exec .jobStart s = .next s) ∧
    (∀ e rest, s.hub.startQ = e :: rest → s.hub.job = none → s.hub.waitingCq.length ≤ 64 → s.memReady = true →
      (let r := s.readDesc e.addr
       let j := r.readJob e
       let b := State.beginJob { r with hub.startQ := rest } j
       ∃ t, exec .jobStart s = .next t ∧ t.hub.startQ = rest ∧ (∀ x, t.byteAt x = s.byteAt x) ∧
        (r.descBad e.addr = true → t.hub.job = none ∧ t.hub.jobState = s.hub.jobState ∧ t.cores = s.cores ∧ t.cke = r.cke) ∧
        (r.descBad e.addr = false → t.hub.job = some j ∧ t.hub.jobState = .running ∧
          (∀ c ∈ coresOfMask j.coreMask, (t.core c).q.seq = .stalled ∧ (t.core c).q.stall = 1 ∧ (t.core c).q.cmdIndex = 0 ∧
            (t.core c).q.listBase = b.numAt (r.numAt (e.addr + 48) 8 + 8 * c.val) 8 ∧ (t.core c).q.flags = [] ∧
            (t.core c).q.tq = [] ∧ (t.core c).q.slots = [] ∧
            (∀ n : Fin 256, sget 0 (t.core c).q.params n.val =
              BitVec.ofNat 64 (b.numAt (r.numAt (e.addr + 40) 8 + 2048 * c.val + 8 * n.val) 8))) ∧
          (∀ c, c ∉ coresOfMask j.coreMask → t.core c = s.core c)) ∧
        SameOutside [.cores, .hub, .err, .mem, .cle, .cke, .pwr, .pmu, .sent, .fresh] s t)) ∧
    (∀ j, s.hub.job = some j → s.hub.jobState = .running →
      (let all := (coresOfMask j.coreMask).all fun c => (s.core c).quiet && (s.core c).q.seq = .ended
       (all = false → exec .jobDone s = .next s) ∧
       (all = true → ∃ t, exec .jobDone s = .next t ∧ t.hub.job = none ∧
         t.hub.jobState = (if s.hub.susp.isSome then .suspended else .none) ∧ t.cores = s.cores ∧
         (s.cqRoom j.ring = false → t.hub.waitingCq = s.hub.waitingCq ++
           [⟨j.ring, j.idx, j.jobId, 1, 0, j.cookie, if j.gated then s.cke.c else j.step, 0, 0xFFFF, j.irq⟩]) ∧
         (s.cqRoom j.ring = true → s.hub.waitingCq = [] → t.hub.waitingCq = [] ∧
           (t.ring j.ring).cqTail = (s.ring j.ring).cqTail + 1) ∧
         SameOutside [.hub, .cke, .pwr, .pmu, .sent] s t))) ∧
    (s.hub.jobState ≠ .running → s.hub.jobState ≠ .terminating → exec .jobDone s = .next s) ∧
    (s.hub.jobState ≠ .terminating → exec .jobTermForced s = .next s) ∧
    (∀ j, s.hub.job = some j → s.hub.jobState = .terminating → ∃ t, exec .jobTermForced s = .next t ∧ t.hub.job = none ∧
      t.hub.jobState = (if s.hub.susp.isSome then .suspended else .none) ∧
      (∀ c, t.core c = { Core.reset with m.arrayFaults := (s.core c).m.arrayFaults }) ∧
      (∀ x ∈ t.pwr.credits, x.ballast = true) ∧ t.pwr.waiting = [] ∧ t.cle.isOpen = false ∧ t.pue0.call = none ∧
      t.pue1.call = none ∧ t.fab.reqs = [] ∧
      SameOutside [.cores, .hub, .err, .mem, .cle, .pue0, .pue1, .cke, .pwr, .fab, .pmu, .sent, .fresh] s t)

/-- R399, R400: once every core of a suspending job has stopped, SUSPENDED writes the image, and no byte outside it, keeps
what the image holds, and leaves no job running. -/
def Obligations.SuspendedWritesTheImage : Prop :=
  ∀ (s : State), s.hub.snoop = [] → s.hub.bisnp = [] →
    (s.hub.jobState ≠ .suspending → exec .suspended s = .next s) ∧
    (∀ j, s.hub.job = some j → s.hub.jobState = .suspending →
      ((∃ c ∈ coresOfMask j.coreMask, (s.core c).suspended = false) → exec .suspended s = .next s) ∧
      ((∀ c ∈ coresOfMask j.coreMask, (s.core c).suspended = true) → ∃ t, exec .suspended s = .next t ∧
        t.hub.job = none ∧ t.hub.jobState = .suspended ∧ t.hub.resetSince = false ∧ t.cores = s.cores ∧
        t.pue0 = s.pue0.suspended ∧ t.pue1 = s.pue1.suspended ∧
        (∃ p, t.hub.susp = some p ∧ p.job = j ∧ p.exchange = s.cle ∧ p.samples.map Prod.fst = s.sampleAddrs ∧
          p.pue0 = (s.pue0.call, s.pue0.pre) ∧ p.pue1 = (s.pue1.call, s.pue1.pre) ∧
          p.cores = (coresOfMask j.coreMask).map fun c => coreImage c.val (s.core c)) ∧
        (∀ a, a < j.imageAddr ∨ j.imageAddr + 0x900000 ≤ a → t.byteAt a = s.byteAt a) ∧
        SameOutside [.hub, .err, .mem, .pue0, .pue1, .cke, .pwr, .pmu, .sent, .fresh] s t))

/-! The host's side of the hub (13) -/

/-- R227, R230, R385 to R389: the host's accesses to device memory. A read changes no byte and is answered with the line;
before the decoder is committed the answer is poisoned. A write changes the bytes its mask names, in that line and
nowhere else; one not accepted changes none. -/
def Obligations.HostAccessesDeviceMemory : Prop :=
  ∀ (l : BitVec 39) (b : Bool) (hits : List LineHit) (data : List Byte) (mask : Word64) (poison : Bool) (s : State),
    (let a := 64 * l.toNat
     let u := s.hitLines hits
     (s.hub.linkUp = false → exec (.cxlMemRead l b hits) s = .next u ∧ exec (.cxlMemWrite l data mask poison b) s = .next s) ∧
     (s.hub.linkUp = true →
      (∃ t, exec (.cxlMemRead l b hits) s = .next t ∧ (∀ x, t.byteAt x = s.byteAt x) ∧
        ((s.hub.hdmCommitted = false ∨ s.err.offline = true) → s.pmu.hubCtl = 0 →
          t.sent = s.sent ++ [.memData l.toNat (List.replicate 64 0) true] ∧ t.mem = u.mem) ∧
        (s.hub.hdmCommitted = true → s.err.offline = false → s.memReady = true → u.populated a = true →
          u.poisoned a = false → u.lineErr a = LineErr.none → s.pmu.hubCtl = 0 →
          t.mem = u.mem ∧ t.err = s.err ∧
          (b = false → t.sent = s.sent ++ [.memData l.toNat ((List.range 64).map fun i => s.byteAt (a + i)) false] ∧
            t.hub = s.hub) ∧
          (b = true → t.hub.snoop.contains l.toNat = true)) ∧
        (s.hub.hdmCommitted = true → s.err.offline = false → s.memReady = true →
          (u.populated a = false ∨ u.poisoned a = true) → s.pmu.hubCtl = 0 → b = false →
          ∃ bs, bs.length = 64 ∧ t.sent = s.sent ++ [.memData l.toNat bs true]) ∧
        SameOutside [.hub, .err, .mem, .cke, .pwr, .pmu, .sent, .fresh] s t) ∧
      (∃ t, exec (.cxlMemWrite l data mask poison b) s = .next t ∧
        (∀ x, x < a ∨ a + 64 ≤ x → t.byteAt x = s.byteAt x) ∧
        ((s.hub.hdmCommitted = false ∨ s.err.offline = true ∨ s.memReady = false ∨ s.populated a = false) → t.mem = s.mem) ∧
        (s.hub.hdmCommitted = true → s.err.offline = false → s.memReady = true → (∀ i < 64, s.populated (a + i) = true) →
          (∀ i < 64, t.byteAt (a + i) = if mask.getLsbD i then data.getD i 0 else s.byteAt (a + i)) ∧
          (mask = BitVec.allOnes 64 → t.poisoned a = poison) ∧
          (b = false → s.hub.snoop.Nodup → t.hub.snoop.contains l.toNat = false)) ∧
        SameOutside [.hub, .err, .mem, .pwr, .pmu, .sent, .fresh] s t)))

/-- R80, R96, R385, R389, R393 to R396, R403, R404: what else the host does to the hub. -/
def Obligations.HostEventsChangeTheHub : Prop :=
  ∀ (s : State),
    (∀ l : BitVec 39, ∃ t, exec (.bisnpResponse l) s = .next t ∧ t.hub = { s.hub with bisnp := s.hub.bisnp.erase l.toNat } ∧
      SameOutside [.hub] s t) ∧
    (∀ l : BitVec 39, (s.hub.bisnp.contains l.toNat = false → exec (.hostBisnpTimeout l) s = .next s) ∧
      (s.hub.bisnp.contains l.toNat = true → ∃ t, exec (.hostBisnpTimeout l) s = .next t ∧ Raised s t 0x0C04 .f 0 0 ∧
        SameOutside [.hub, .err, .pmu, .sent] s t)) ∧
    (s.hub.linkUp = false → exec .hostLinkDown s = .next s) ∧
    (s.hub.linkUp = true → ∃ t, exec .hostLinkDown s = .next t ∧ t.hub.linkUp = false ∧ t.hub.rings = s.hub.rings ∧
      t.hub.job = s.hub.job ∧ Raised s t 0x0C05 .d 0 0 ∧ SameOutside [.hub, .err, .pmu, .sent] s t) ∧
    (s.hub.linkUp = false → s.hub.perstN = true → s.pwr.stagesOn = true → s.pwr.hubLost = false →
      ∃ t, exec .hostLinkRetrain s = .next t ∧ t.hub.linkUp = true ∧ t.hub.job = s.hub.job ∧
        (s.hub.waitingCq = [] → t.hub = { s.hub with linkUp := true }) ∧ SameOutside [.hub, .pmu, .sent] s t) ∧
    ((s.hub.linkUp = true ∨ s.hub.perstN = false ∨ s.pwr.stagesOn = false ∨ s.pwr.hubLost = true) →
      exec .hostLinkRetrain s = .next s) ∧
    (s.barOpen = false → ∀ q n n' c f w w32, ∀ i ∈ [Instr.msixBindArm n w, .dlkStatusClear w, .seqFlagAdd c f w32,
      .hubFlagAdd n' w32, .ringEnable q w32], exec i s = .next s) ∧
    (s.barOpen = true → ∀ (n : Fin 48) (rw : RegWrite), (let b := sget Bind.reset s.hub.binds n.val
      let v := mergeWrite (BitVec.ofNat 64 (b.flag + b2n b.arm <<< 10 + b.target.toNat <<< 32)) rw
      ∃ t, exec (.msixBindArm n rw) s = .next t ∧
      (∀ x : Fin 48, sget Bind.reset t.hub.binds x.val = if x = n
        then ⟨v.toNat % 1024, v.getLsbD 10 && !reached (s.hubFlag (v.toNat % 1024)) (BitVec.ofNat 32 (v.toNat >>> 32)),
          BitVec.ofNat 32 (v.toNat >>> 32)⟩
        else sget Bind.reset s.hub.binds x.val) ∧
      t.hub.flags = s.hub.flags ∧ SameOutside [.hub, .sent] s t)) ∧
    (s.hub.modOpen = false → exec .msixModExpiry s = .next s) ∧
    (s.hub.modOpen = true → ∃ t, exec .msixModExpiry s = .next t ∧ t.hub.modPending = false ∧
      t.hub.modOpen = s.hub.modPending ∧ t.hub.flags = s.hub.flags ∧ (s.hub.modPending = false → t.sent = s.sent) ∧
      SameOutside [.hub, .sent] s t) ∧
    (s.barOpen = true → ∀ rw : RegWrite, ∃ t, exec (.dlkStatusClear rw) s = .next t ∧
      t.hub = { s.hub with
        dlkStatus := s.hub.dlkStatus &&& ~~~(mergeWrite 0 rw)
        dlkArmed := s.hub.dlkArmed || s.hub.dlkStatus &&& ~~~(mergeWrite 0 rw) = 0 } ∧
      SameOutside [.hub] s t) ∧
    (s.barOpen = true → s.has64 → ∀ (c : CoreId) (n : Fin 256) (w : Word32),
      (s.coreWindow c.val = false → exec (.seqFlagAdd c n w) s = .next s) ∧
      (s.coreWindow c.val = true → ∃ t, exec (.seqFlagAdd c n w) s = .next t ∧
        (∀ x, (t.core c).flag x = (s.core c).flag x + if x = n.val then w else 0) ∧
        (t.core c).m = (s.core c).m ∧ (t.core c).v = (s.core c).v ∧ (t.core c).t = (s.core c).t ∧
        (t.core c).q.seq = (s.core c).q.seq ∧ OtherCores c s t ∧ SameOutside [.cores, .pwr] s t)) ∧
    (s.barOpen = true → ∀ (n : Fin 1024) (w : Word32), ∃ t, exec (.hubFlagAdd n w) s = .next t ∧
      (n.val < 64 → s.pmu.hubCtl = 0 → t.hub = s.hub) ∧
      (n.val < 64 → Raised s t 0x0202 .c 0 (regPayload (0x109000 + 4 * n.val) w.toNat 4 0)) ∧
      (64 ≤ n.val → (∀ x, t.hubFlag x = s.hubFlag x + if x = n.val then w else 0) ∧ t.hub.job = s.hub.job ∧
        t.hub.rings = s.hub.rings ∧ t.err = s.err) ∧
      SameOutside [.hub, .err, .pmu, .sent] s t)

/-- R389, R393, R394, R396: the lines of a job ring. The host line of an enabled ring gives its tail and the host's head; a
poisoned line changes neither, a tail too far ahead disables the ring. Enabling a disabled ring starts its counts at 0. -/
def Obligations.RingLinesAreRead : Prop :=
  ∀ (q : Fin 4) (tail head : Word32) (poisoned : Bool) (w : Word32) (s : State),
    (let r := s.ring q.val
     ((r.en = false ∨ s.hub.linkUp = false ∨ s.err.offline = true) → exec (.hostLineUpdate q tail head poisoned) s = .next s) ∧
     (r.en = true → s.hub.linkUp = true → s.err.offline = false →
       ∃ t, exec (.hostLineUpdate q tail head poisoned) s = .next t ∧ t.hub.job = s.hub.job ∧
         (∀ x : Fin 4, x ≠ q → (t.ring x.val).sqTail = (s.ring x.val).sqTail ∧ (t.ring x.val).cqHead = (s.ring x.val).cqHead ∧
           (t.ring x.val).sqHead = (s.ring x.val).sqHead ∧ (t.ring x.val).en = (s.ring x.val).en) ∧
         (poisoned = true → t.ring q.val = r ∧ t.hub.waitingCq = s.hub.waitingCq) ∧
         (poisoned = false → (tail - r.sqHead).toNat ≤ 2 ^ r.log2n → (t.ring q.val).sqTail = tail ∧
           (t.ring q.val).cqHead = head ∧ (t.ring q.val).sqRead = r.sqRead ∧ (t.ring q.val).en = true) ∧
         (poisoned = false → 2 ^ r.log2n < (tail - r.sqHead).toNat → t.ring q.val = { r with en := false, overrun := true }) ∧
         SameOutside [.hub, .err, .pmu, .sent] s t) ∧
     (s.barOpen = true → r.en = false → ∃ t, exec (.ringEnable q w) s = .next t ∧ (t.ring q.val).en = w.getLsbD 0 ∧
       (t.ring q.val).log2n = (if fld w.toNat 1 5 < 4 ∨ 16 < fld w.toNat 1 5 then r.log2n else fld w.toNat 1 5) ∧
       (w.getLsbD 0 = true → (t.ring q.val).sqHead = 0 ∧ (t.ring q.val).sqTail = 0 ∧ (t.ring q.val).sqRead = 0 ∧
         (t.ring q.val).cqHead = 0 ∧ (s.hub.waitingCq = [] → (t.ring q.val).cqTail = 0)) ∧
       (w.getLsbD 0 = false → (t.ring q.val).sqTail = r.sqTail ∧ (t.ring q.val).cqTail = r.cqTail) ∧
       (∀ x : Fin 4, x ≠ q → (t.ring x.val).sqTail = (s.ring x.val).sqTail ∧ (t.ring x.val).en = (s.ring x.val).en) ∧
       SameOutside [.top, .hub, .err, .pmu, .sent] s t) ∧
     (s.barOpen = true → r.en = true → ∃ t, exec (.ringEnable q w) s = .next t ∧
       t.ring q.val = { r with en := w.getLsbD 0 } ∧ t.top.cfgIgnored = satAdd 32 s.top.cfgIgnored 1 ∧
       SameOutside [.top, .hub, .err, .pmu, .sent] s t))

/-! Resets (13, 15) -/

/-- R236, R405, R406, R407, R456, R457: TOP_RESET arms, disarms and resets; what each reset keeps and what it returns to its
reset value. An unarmed write, or one with the host link down, does nothing. A cold reset whose components have another
digest at both reads leaves the device in STANDBY. PERST_N deasserts; a die has zeroed its memory and shows INIT_DONE. -/
def Obligations.ResetsKeepWhatTheSpecKeeps : Prop :=
  ∀ (w : Word32) (hdm : Bool) (s : State),
    (let low := w.toNat % 256
     let clean := fun (t : State) => t.hub.job = none ∧ t.hub.jobState = .none ∧ t.hub.susp = none ∧ t.hub.startQ = [] ∧
       (∀ c, s.has64 → t.core c = { Core.reset with m.arrayFaults := (s.core c).m.arrayFaults }) ∧
       t.cle = Cle.reset ∧ t.pue0 = Pue.reset ∧ t.pue1 = Pue.reset ∧ t.cke.st = .idle ∧ t.cke.c = s.cke.c ∧
       t.mem.bytes = s.mem.bytes ∧ t.mem.poison = s.mem.poison ∧ t.mem.t2 = s.mem.t2 ∧ t.top.armed = false ∧
       t.fab.lasers = s.fab.lasers ∧ t.fab.reqs = [] ∧
       (s.pmu.hubCtl = 0 → ∀ n, t.hubFlag n = if n < 64 then s.hubFlag n else 0)
     (∀ i ∈ [Instr.resetArm w, .resetDisarm w, .hubPreservingReset w, .warmReset (.register w) hdm],
       ((s.resetOpen = false ∨ (low = 0 ∧ (s.top.armed = false ∨ fld w.toNat 8 3 = 0))) → exec i s = .next s) ∧
       (s.resetOpen = true → low = 0x5A → exec i s = .next { s with top.armed := true }) ∧
       (s.resetOpen = true → low ≠ 0 → low ≠ 0x5A → exec i s = .next { s with top.armed := false })) ∧
     exec .topResetArmExpiry s = .next { s with top.armed := false } ∧
     (s.resetOpen = true → s.top.armed = true → low = 0 → w.getLsbD 8 = false → w.getLsbD 9 = false →
       w.getLsbD 10 = true → ∃ t, exec (.hubPreservingReset w) s = .next t ∧ clean t ∧ t.top.last = 2 ∧
         t.hub.linkUp = s.hub.linkUp ∧ t.hub.hdmCommitted = s.hub.hdmCommitted ∧ t.hub.snoop = s.hub.snoop ∧
         t.hub.msixTable = s.hub.msixTable ∧ t.fab.ports = s.fab.ports ∧ t.err.log = s.err.log ∧
         (s.pmu.hubCtl = 0 → t.pmu = s.pmu) ∧
         SameOutside [.top, .cores, .hub, .err, .mem, .cle, .pue0, .pue1, .cke, .pwr, .fab, .pmu, .mss, .sent, .fresh] s t) ∧
     (s.resetOpen = true → s.top.armed = true → low = 0 → w.getLsbD 8 = false → w.getLsbD 9 = true →
       exec (.warmReset (.register w) hdm) s = .next (s.warmReset true hdm)) ∧
     (s.pwr.stagesOn = false → ∀ x ∈ [WarmTrigger.register w, .perst, .hotReset, .linkDisable, .flr],
       exec (.warmReset x hdm) s = .next s) ∧
     (s.pwr.stagesOn = true → ∀ x ∈ [(WarmTrigger.perst, false), (.hotReset, true), (.linkDisable, true), (.flr, true)],
       ∃ t, exec (.warmReset x.1 hdm) s = .next t ∧ clean t ∧ t.top.last = 1 ∧ t.hub.linkUp = x.2 ∧
         t.hub.hdmCommitted = (x.2 && hdm) ∧ t.hub.perstN = (x.2 && s.hub.perstN) ∧ t.hub.msixTable = [] ∧
         t.hub.snoop = [] ∧ t.pmu = { Pmu.reset with seq := s.pmu.seq } ∧ t.err.log = s.err.log ∧
         (∀ p, t.port p = { Port.reset with trained := (t.port p).trained }) ∧
         SameOutside [.top, .cores, .hub, .err, .mem, .cle, .pue0, .pue1, .cke, .pwr, .fab, .pmu, .mss, .fresh, .routineIds] s t) ∧
     (∀ badHub badRoutines strap e0 e1,
       (s.top.coldDue = false → exec (.coldReset none badHub badRoutines strap e0 e1) s = .next s) ∧
       (s.resetOpen = true → s.top.armed = true → low = 0 → w.getLsbD 8 = true → badHub ≠ 2 → badRoutines ≠ 2 → ∃ t,
         exec (.coldReset (some w) badHub badRoutines strap e0 e1) s = .next t ∧ t.mem.bytes = [] ∧ t.mem.poison = [] ∧
         t.mem.die0.initDone = false ∧ t.mem.die1.initDone = false ∧ t.mem.t2Enumerated = true ∧ t.top.coldDue = false ∧
         t.cores = State.reset.cores ∧ t.cle = Cle.reset ∧ t.pmu = Pmu.reset ∧ t.hub.flags = [] ∧
         t.hub.linkUp = s.hub.perstN ∧ t.err.fatal0 = s.err.fatal0 ∧ t.err.fatal1 = s.err.fatal1 ∧ t.err.log = [] ∧
         t.pwr.aoTime = s.pwr.aoTime ∧
         SameOutside [.top, .cores, .hub, .err, .mem, .cle, .pue0, .pue1, .cke, .pwr, .fab, .pmu, .mss, .fresh,
           .routineIds] s t) ∧
       (s.resetOpen = true → s.top.armed = true → low = 0 → w.getLsbD 8 = true → badHub = 2 ∨ badRoutines = 2 → ∃ t,
         exec (.coldReset (some w) badHub badRoutines strap e0 e1) s = .next t ∧ t.pwr.stagesOn = false ∧
         t.pwr.state = .standby ∧ t.hub.linkUp = false ∧ t.mem.bytes = [] ∧ t.cores = State.reset.cores ∧
         (s.err.fatal0 = none → ∃ r, t.err.fatal0 = some r ∧ r.code = 0x0E02) ∧
         SameOutside [.top, .cores, .hub, .err, .mem, .cle, .pue0, .pue1, .cke, .pwr, .fab, .pmu, .mss, .sent, .fresh,
           .routineIds] s t)) ∧
     (∃ t, exec (.perstNDeassert hdm) s = .next t ∧ t.hub.perstN = true ∧ t.hub.job = s.hub.job ∧
       t.hub.linkUp = (s.hub.linkUp || (s.pwr.stagesOn && s.mss.st ≠ .recovery && !s.pwr.hubLost)) ∧
       SameOutside [.hub] s t) ∧
     (∀ die : Fin 2, ((s.pwr.stagesOn = false ∨ s.top.coldDue = true ∨ (s.mem.die die.val).initDone = true ∨
         (s.mem.die die.val).offline = true) → exec (.initDone die) s = .next s) ∧
       (s.pwr.stagesOn = true → s.top.coldDue = false → (s.mem.die die.val).initDone = false →
         (s.mem.die die.val).offline = false → ∃ t, exec (.initDone die) s = .next t ∧
         (∀ a, t.byteAt a = (if a / die1Base = die.val then 0 else s.byteAt a) ∧
           (a % 64 = 0 → a / die1Base = die.val → t.poisoned a = false ∧ t.lineErr a = LineErr.none)) ∧
         t.mem.die die.val = { s.mem.die die.val with initDone := true } ∧
         t.mem.die (1 - die.val) = s.mem.die (1 - die.val) ∧ SameOutside [.mem, .mss] s t)) ∧
     exec (.testModeHigh false) s = .next { s with mss.testHigh := false } ∧
     (∃ t, exec (.testModeHigh true) s = .next t ∧ t.mss.testHigh = true ∧ t.pwr.stagesOn = false ∧
       (s.pwr.stagesOn = true → t.hub.linkUp = false ∧ t.mem.bytes = [] ∧ t.cores = State.reset.cores ∧
         t.err.fatal0 = s.err.fatal0 ∧ t.pwr.aoTime = s.pwr.aoTime) ∧
       SameOutside [.top, .cores, .hub, .err, .mem, .cle, .pue0, .pue1, .cke, .pwr, .fab, .pmu, .mss, .routineIds] s t))

/-! Errors (16) and the memory's failures (08) -/

/-- R473, R475, R477 to R479, R482, R483, R487: the oldest occurrence becomes a record. It merges with the newest record of
its unit and class; or it takes the next free slot; or, with the ring full, it is raised one class and displaces the
oldest record of a lower one, or is dropped. A class F record is latched, starts fatal handling, ends the job and stops its
cores. -/
def Obligations.ErrorsBecomeRecords : Prop :=
  ∀ (s : State), s.hub.snoop = [] → s.hub.bisnp = [] →
    (s.err.queue = [] → exec .errorRecord s = .next s) ∧
    (∀ o rest, s.err.queue = o :: rest → s.err.held = [] →
      (let seq := (s.err.seq + 1) % 2 ^ 32
       let stored := fun (n : Nat) (r : ErrRec) => { s.err with
         queue := rest, seq := seq, log := sset none s.err.log n (some r), valid := s.err.valid ||| 1 <<< n }
       let up := o.cls.raised
       ∃ t, exec .errorRecord s = .next t ∧
        (∀ n, s.err.mergeSlot o = some n → t.err = { s.err with
          queue := rest, log := sset none s.err.log n ((sget none s.err.log n).map fun r => r.merge o) }) ∧
        (∀ n, s.err.mergeSlot o = none → s.err.freeSlot = some n → o.cls ≠ .f →
          t.err = { stored n (newRec o o.cls seq) with wptr := (n + 1) % 32 } ∧
          (o.cls = .d → t.hub.pba.getLsbD 1 = true ∨ Emit.msix 1 ∈ t.sent)) ∧
        (s.err.mergeSlot o = none → s.err.freeSlot = none → up ≠ .f →
          (∀ n, s.err.displaceSlot up = some n → t.err = { stored n (newRec o up seq) with
            ovfFlag := true, escalations := satAdd 16 s.err.escalations 1, displaced := satAdd 16 s.err.displaced 1 }) ∧
          (s.err.displaceSlot up = none → t.err = { s.err with
            queue := rest, seq := seq, ovfFlag := true, escalations := satAdd 16 s.err.escalations 1
            dropped := satAdd 16 s.err.dropped 1 })) ∧
        (∀ n, o.cls = .f → s.err.freeSlot = some n → s.err.fatal0 = none → s.err.handling = false → s.err.offline = false →
          sget none t.err.log n = some (newRec o .f seq) ∧ t.err.fatal0 = some (newRec o .f seq) ∧ t.err.handling = true ∧
          t.err.offline = false ∧ t.hub.job = none ∧ t.cle.isOpen = false ∧ t.pue0.call = none ∧ t.pue1.call = none ∧
          t.fab.inbox = [] ∧ (s.has64 → ∀ j, s.hub.job = some j → ∀ c ∈ coresOfMask j.coreMask,
            (t.core c).m.queue = [] ∧ (t.core c).m.run = [] ∧ (t.core c).v.queue = [] ∧ (t.core c).v.run = [] ∧
            (t.core c).t.queue = [] ∧ (t.core c).t.run = [] ∧ (t.core c).q.call = none ∧ (t.core c).q.seq ≠ .dispatching)) ∧
        SameOutside [.cores, .hub, .err, .mem, .cle, .pue0, .pue1, .cke, .pwr, .fab, .pmu, .mss, .sent, .fresh] s t))

/-- R135, R242, R481 to R484, R489: the error registers. Writing 1 acknowledges a record, or clears a latched fatal one;
an armed injection submits one occurrence with INJECTED set, damages a stored line, or arms an upset of the array. -/
def Obligations.ErrorRegistersAct : Prop :=
  ∀ (w : Word32) (rw : RegWrite) (s : State),
    ((s.pwr.stagesOn && s.hub.linkUp) = false → exec (.recordAcknowledge w) s = .next s) ∧
    ((s.pwr.stagesOn && s.hub.linkUp) = true → exec (.recordAcknowledge w) s =
      .next { s with err.valid := s.err.valid &&& ~~~w }) ∧
    (∃ t, exec (.fatalClear w) s = .next t ∧
      t.err = { s.err with
        fatal0 := if w.getLsbD 0 then none else s.err.fatal0
        fatal1 := if w.getLsbD 1 then none else s.err.fatal1
        more := t.err.more } ∧
      (t.err.more = if t.err.fatal0 = none ∧ t.err.fatal1 = none then 0 else s.err.more) ∧ SameOutside [.err] s t) ∧
    (s.err.handling = false → exec .fatalHandlingEnd s = .next s) ∧
    (s.err.handling = true → exec .fatalHandlingEnd s =
      .next { s with err := { s.err with handling := false, offline := true } }) ∧
    (s.barOpen = false → ∀ c d, ∀ i ∈ [Instr.errInject rw, .mxuInject c w, .memInject d rw],
      exec i s = .next s) ∧
    (s.barOpen = true →
      (let v := mergeWrite s.err.injHeld rw
       let arms := writesLow rw = true ∧ v.getLsbD 25 = true ∧ v.toNat % 256 ≠ 0
       ∃ t, exec (.errInject rw) s = .next t ∧ t.err.injHeld = v ∧ (¬arms → t = { s with err.injHeld := v }) ∧
        (arms → s.err.queue.length < 256 → t.err.queue = s.err.queue
          ++ [⟨v.toNat % 65536, ErrClass.ofCode (fld v.toNat 16 2), fld v.toNat 18 7, s.pwr.aoTime, s.stepNow, s.jobIdNow,
            0, true, false, none⟩]) ∧
        SameOutside [.hub, .err, .pmu, .sent] s t) ∧
      (∀ c : CoreId, (s.coreWindow c.val = false → exec (.mxuInject c w) s = .next s) ∧
        (s.coreWindow c.val = true → s.has64 → ∃ t, exec (.mxuInject c w) s = .next t ∧ OtherCores c s t ∧
          (t.core c).q = (s.core c).q ∧ (t.core c).v = (s.core c).v ∧ (t.core c).t = (s.core c).t ∧
          (t.core c).m = (if fld w.toNat 9 2 = 3 then (s.core c).m else { (s.core c).m with
            injHeld := w &&& 0xFFF
            inj := if w.getLsbD 11 then some ⟨w.toNat % 4, fld w.toNat 2 7, fld w.toNat 9 2⟩ else (s.core c).m.inj }) ∧
          SameOutside [.cores, .pwr] s t)) ∧
      (∀ d : Fin 2, (let v := mergeWrite (s.mem.die d.val).injHeld rw
        ∃ t, exec (.memInject d rw) s = .next t ∧ t.mem.bytes = s.mem.bytes ∧ t.mem.poison = s.mem.poison ∧
        (s.dieDown d.val = true → t = s) ∧
        (s.dieDown d.val = false → t.mem.die d.val = { s.mem.die d.val with injHeld := v } ∧
          t.mem.die (1 - d.val) = s.mem.die (1 - d.val) ∧
          (let l := fld v.toNat 6 46
           let hit := writesHigh rw = true ∧ v.getLsbD 53 = true ∧ s.place (64 * l) = .hbm d.val
           (∀ x, x / 64 ≠ l → t.lineErr x = s.lineErr x) ∧ (¬hit → t.lineErr (64 * l) = s.lineErr (64 * l)) ∧
           (hit → ∃ syms : List Nat, syms.length = (if v.getLsbD 52 then 6 else 1) ∧ syms.Nodup ∧ (∀ x ∈ syms, x < 64) ∧
             t.lineErr (64 * l) = (s.lineErr (64 * l)).inject syms))) ∧
        SameOutside [.mem, .fresh] s t)))

/-- R231, R232, R235, R238, R240: the scrubber reads the line at its next offset of every stack, repairs an error in at
most 3 symbols there and poisons a line with an error in 4 or 5, changing no byte; a failed stack takes its die's memory
offline, and a tier-2 port that fails is unmapped, both ports where they are interleaved. Where the condition does not
hold nothing happens. -/
def Obligations.MemoryIsScrubbedAndFails : Prop :=
  ∀ (s : State),
    (∀ (d : Fin 2) (hits : List LineHit), (let x := s.mem.die d.val
      let u := s.hitLines hits
      (((x.ctl.getLsbD 0 && x.initDone && !x.offline) = false) → exec (.scrubRead d hits) s = .next u) ∧
      ((x.ctl.getLsbD 0 && x.initDone && !x.offline) = true → ∃ t, exec (.scrubRead d hits) s = .next t ∧
        (∀ a, t.byteAt a = s.byteAt a) ∧
        (t.mem.die d.val).scrubT = (if x.scrubT + 64 < 0x900000000 then x.scrubT + 64 else 0) ∧
        (t.mem.die d.val).passes = (if x.scrubT + 64 < 0x900000000 then x.passes else satAdd 32 x.passes 1) ∧
        (∀ n < s.ident.grade.stacks, (let a := stackAddr s.ident.grade.stacks d.val n x.scrubT
          u.populated a = true → u.poisoned a = false →
            ((u.lineErr a).symbols ≤ 3 → (t.lineErr a).symbols = 0 ∧ t.poisoned a = false) ∧
            (3 < (u.lineErr a).symbols → (u.lineErr a).symbols ≤ 5 → t.poisoned a = true))) ∧
        SameOutside [.hub, .err, .mem, .cke, .pwr, .pmu, .sent, .fresh] s t))) ∧
    (∀ (d : Fin 2) (n : Fin 10), (let x := s.mem.die d.val
      let fails := n.val < s.ident.grade.stacks ∧ x.offline = false ∧ s.pwr.stagesOn = true ∧
        (x.initDone = false ∨ 64 ≤ s.recentUe d.val n.val)
      (¬fails → exec (.memStackFail d n) s = .next s) ∧
      (fails → ∃ t, exec (.memStackFail d n) s = .next t ∧ (t.mem.die d.val).offline = true ∧
        (t.mem.die d.val).failed = x.failed ||| 1 <<< n.val ∧ t.mem.die (1 - d.val) = s.mem.die (1 - d.val) ∧
        t.mem.bytes = s.mem.bytes ∧ t.cke.health.getLsbD 13 = true ∧ (t.pue d.val).call = none ∧
        (∀ c : CoreId, s.present c.val = true →
          t.top.present.getLsbD c.val = (s.top.present.getLsbD c.val && s.dieOfCore c.val ≠ d.val)) ∧
        (∀ j, s.hub.job = some j → s.hub.jobState = .running → t.hub.jobState = .halted) ∧
        SameOutside [.top, .cores, .hub, .err, .mem, .pue0, .pue1, .cke, .pmu, .sent] s t))) ∧
    (∀ p : Fin 2, (s.mem.port p.val).linkUp = false → exec (.t2LinkDown p) s = .next s) ∧
    (∀ p : Fin 2, (s.mem.port p.val).mapped = false → exec (.expanderFatal p) s = .next s) ∧
    (∀ p : Fin 2, ∀ x ∈ [(Instr.t2LinkDown p, (s.mem.port p.val).linkUp, 3, false),
        (.expanderFatal p, (s.mem.port p.val).mapped, 4, (s.mem.port p.val).linkUp)], x.2.1 = true →
      ∃ t, exec x.1 s = .next t ∧ t.mem.bytes = s.mem.bytes ∧ (t.mem.port p.val).mapped = false ∧
        (t.mem.port p.val).cause = x.2.2.1 ∧ (t.mem.port p.val).linkUp = x.2.2.2 ∧
        (s.mem.interleaved = true → (t.mem.port (1 - p.val)).mapped = false) ∧
        (s.mem.interleaved = false → t.mem.port (1 - p.val) = s.mem.port (1 - p.val)) ∧
        Raised s t 0x0706 .d (2 + p.val) (addrPayload 0 0 p.val) ∧ SameOutside [.hub, .err, .mem, .pmu, .sent] s t)

/-! Performance monitoring (17) and registers (18, 19) -/

/-- R490, R491, R496, R497, R501 to R505, R509: counters, snapshots and samples. A frozen or disabled counter does not
count; a snapshot is refused while one is written and another waits; its image is written to its area and nowhere else, and
so is a sample's record, to the next slot of the core's ring. -/
def Obligations.CountersSnapshotsAndSamples : Prop :=
  ∀ (w : Word32) (s : State), s.hub.snoop = [] → s.hub.bisnp = [] → s.has64 →
    (s.barOpen = false → exec (.freeze w) s = .next s ∧ exec (.snapshot (some w)) s = .next s) ∧
    (s.barOpen = true → ∃ t, exec (.freeze w) s = .next t ∧ (∀ i < 3, t.pmu.ctl.getLsbD i = w.getLsbD i) ∧
      fld t.pmu.ctl.toNat 6 10 = (if fld w.toNat 6 10 = 0 ∨ 64 ≤ fld w.toNat 6 10 then fld w.toNat 6 10
        else fld s.pmu.ctl.toNat 6 10) ∧ SameOutside [.pmu] s t) ∧
    -- snapshots
    (s.pmu.jobTrig = 0 → exec (.snapshot none) s = .next s) ∧
    (∀ x ∈ [(some w, s.barOpen && w.getLsbD 0, false), (none, decide (0 < s.pmu.jobTrig), true)], x.2.1 = true →
      ∃ t, exec (.snapshot x.1) s = .next t ∧
        (s.pmu.images ≠ [] → s.pmu.waits = none → t.pmu.waits = some x.2.2 ∧ t.pmu.images = s.pmu.images) ∧
        (s.pmu.images ≠ [] → s.pmu.waits ≠ none → t.pmu.snapRefused = satAdd 15 s.pmu.snapRefused 1 ∧
          t.pmu.images = s.pmu.images) ∧
        (s.pmu.images = [] → s.rangePop s.pmu.snapAddr.toNat imageLen = true → x.2.2 = false → t.pmu.seq = s.pmu.seq + 1 ∧
          ∃ bs, t.pmu.images = [⟨0, false, bs, some s.pmu.snapAddr.toNat⟩]) ∧
        SameOutside [.hub, .err, .pmu, .sent] s t) ∧
    (s.pmu.images = [] → exec .snapshotDone s = .next s) ∧
    (∀ i a, s.pmu.images = [i] → i.addr = some a → s.pmu.waits = none → ∃ t, exec .snapshotDone s = .next t ∧
      t.pmu.images = [] ∧ (∀ x, x < a ∨ a + i.bytes.length ≤ x → t.byteAt x = s.byteAt x) ∧
      (s.rangePop a i.bytes.length = true → a % 64 = 0 → ∀ j < i.bytes.length, t.byteAt (a + j) = i.bytes.getD j 0) ∧
      SameOutside [.hub, .err, .mem, .pwr, .pmu, .sent, .fresh] s t) ∧
    -- counters
    (s.frozen = true → ∀ x inc, exec (.counterCarry x inc) s = .next s) ∧
    (s.frozen = false → ∀ (i : Fin 16) (inc : BitVec 13),
      (s.pmu.hubCtl.getLsbD i.val = false → exec (.counterCarry (.hub i) inc) s = .next s) ∧
      (s.pmu.hubCtl.getLsbD i.val = true → ∃ t, exec (.counterCarry (.hub i) inc) s = .next t ∧ t.cores = s.cores ∧
        (∀ x, sget 0 t.pmu.cnt x = if x = i.val then (sget 0 s.pmu.cnt i.val + inc.toNat) % 2 ^ 48 else sget 0 s.pmu.cnt x) ∧
        (2 ^ 48 ≤ sget 0 s.pmu.cnt i.val + inc.toNat → t.pmu.hubOvf = s.pmu.hubOvf ||| 1 <<< i.val) ∧
        SameOutside [.cores, .hub, .pmu, .sent] s t)) ∧
    (s.frozen = false → ∀ (c : CoreId) (i : Fin 2) (inc : BitVec 13),
      ((s.core c).pmu.ctl.getLsbD i.val = false → exec (.counterCarry (.fix c i) inc) s = .next s) ∧
      ((s.core c).pmu.ctl.getLsbD i.val = true → ∃ t, exec (.counterCarry (.fix c i) inc) s = .next t ∧ OtherCores c s t ∧
        (t.core c).q = (s.core c).q ∧
        sget 0 (t.core c).pmu.fix i.val = (sget 0 (s.core c).pmu.fix i.val + inc.toNat) % 2 ^ 48 ∧
        (t.core c).pmu.ovf = (if sget 0 (s.core c).pmu.fix i.val + inc.toNat < 2 ^ 48 then (s.core c).pmu.ovf
          else (s.core c).pmu.ovf ||| 1 <<< i.val) ∧ SameOutside [.cores] s t)) ∧
    (s.frozen = false → ∀ (c : CoreId) (i : Fin 8) (inc : BitVec 13),
      ((s.core c).pmu.ctl.getLsbD (i.val + 2) = false → exec (.counterCarry (.cnt c i) inc) s = .next s) ∧
      ((s.core c).pmu.ctl.getLsbD (i.val + 2) = true → ∃ t, exec (.counterCarry (.cnt c i) inc) s = .next t ∧
        OtherCores c s t ∧ (t.core c).q = (s.core c).q ∧
        (sget 0 (s.core c).pmu.cnt i.val + inc.toNat < 2 ^ 48 → (t.core c).pmu.ovf = (s.core c).pmu.ovf ∧
          sget 0 (t.core c).pmu.cnt i.val = sget 0 (s.core c).pmu.cnt i.val + inc.toNat) ∧
        SameOutside [.cores, .hub, .pmu, .sent] s t)) ∧
    -- samples
    (∀ (c : CoreId) (skid : Fin 64) (lat : Word32) (precise : Bool),
      (let k := s.core c
       let i := if precise then Instr.preciseSample c lat else .skidSample c skid
       let size := 2 ^ fld k.pmu.sampCtl.toNat 0 5
       ((k.pmu.waiting.find? fun x => x.precise == precise) = none → exec i s = .next s) ∧
       (precise = false → s.frozen = true → exec i s = .next s) ∧
       (∀ x, (k.pmu.waiting.find? fun x => x.precise == precise) = some x → (precise = true ∨ s.frozen = false) →
         ∃ t, exec i s = .next t ∧ OtherCores c s t ∧ (t.core c).q = k.q ∧ (t.core c).pmu.waiting = k.pmu.waiting.erase x ∧
          (k.pmu.sampCtl.getLsbD 5 = false → (k.pmu.wptr - k.pmu.rptr).toNat = size → (t.core c).pmu.wptr = k.pmu.wptr ∧
            t.mem = s.mem) ∧
          ((k.pmu.sampCtl.getLsbD 5 = true ∨ (k.pmu.wptr - k.pmu.rptr).toNat ≠ size) →
            s.rangePop k.pmu.sampBase.toNat (64 * size) = true → (t.core c).pmu.wptr = k.pmu.wptr + 1 ∧
            (∀ a, a < k.pmu.sampBase.toNat + 64 * (k.pmu.wptr.toNat % size) ∨
              k.pmu.sampBase.toNat + 64 * (k.pmu.wptr.toNat % size) + 64 ≤ a → t.byteAt a = s.byteAt a)) ∧
          SameOutside [.cores, .hub, .err, .mem, .pwr, .pmu, .sent, .fresh] s t))) ∧
    (∀ c : CoreId, ((s.core c).pmu.waiting = [] → exec (.pmuSampleLost c) s = .next s) ∧
      (∀ x rest, (s.core c).pmu.waiting = x :: rest → ∃ t, exec (.pmuSampleLost c) s = .next t ∧ OtherCores c s t ∧
        (t.core c).pmu.waiting = rest ∧ (t.core c).q = (s.core c).q ∧
        fld (t.core c).pmu.sampCtl.toNat 16 16 = satAdd 16 (fld (s.core c).pmu.sampCtl.toNat 16 16) 1 ∧
        t.pmu.lostNoted = true ∧ SameOutside [.cores, .hub, .err, .pmu, .sent] s t))

/-- R5, R11, R16, R420, R436, R448: register writes. The coolant report, the package limit and the two mailbox controls
change their own fields; a write of the wrong size, of an absent core's window or to a device that is offline reaches no
register; an access of the wrong size is recorded, and as a read gives all ones; a latched and a live field take the value
written, a locked one does so while nothing runs. -/
def Obligations.RegisterWritesReachTheirRegisters : Prop :=
  ∀ (w : Word32) (s : State), s.has64 →
    (s.barOpen = false → ∀ i ∈ [Instr.mailboxSend w, .m2hFullClear w, .pkgLimitWrite w, .coolantReport w], exec i s = .next s) ∧
    (∃ t, exec .coolantStale s = .next t ∧ t.pwr = { s.pwr with stale := true } ∧ SameOutside [.pwr] s t) ∧
    (s.barOpen = true →
      (∃ t, exec (.pkgLimitWrite w) s = .next t ∧ t.pwr = { s.pwr with pkgLimitNext := fld w.toNat 0 13 } ∧
        SameOutside [.pwr] s t) ∧
      (∃ t, exec (.coolantReport w) s = .next t ∧
        t.pwr = { s.pwr with inlet := fld w.toNat 0 12, flow := fld w.toNat 12 12, stale := false } ∧
        (if t.pwr.coolantCap = s.pwr.coolantCap ∧ t.pwr.lowCoolantCap = s.pwr.lowCoolantCap then t.err = s.err
          else Raised s t 0x0D04 .c 0x7F 0) ∧ SameOutside [.hub, .err, .pwr, .pmu, .sent] s t) ∧
      (s.mss.own = true → ∃ t, exec (.mailboxSend w) s = .next t ∧ t.top.cfgIgnored = satAdd 32 s.top.cfgIgnored 1 ∧
        Raised s t 0x0102 .c 0 (0x500010 + w.toNat <<< 32 + 4 <<< 96) ∧ SameOutside [.top, .hub, .err, .pmu, .sent] s t) ∧
      (s.mss.own = false → w.getLsbD 31 = false ∨ 1 ≤ fld w.toNat 0 13 ∧ fld w.toNat 0 13 ≤ 4096 →
        ∃ t, exec (.mailboxSend w) s = .next t ∧ t.mss = { s.mss with h2mLen := fld w.toNat 0 13, own := w.getLsbD 31 } ∧
          SameOutside [.mss] s t) ∧
      (w.getLsbD 31 = false ∨ s.mss.full = false → exec (.m2hFullClear w) s = .next s) ∧
      (w.getLsbD 31 = true → s.mss.full = true →
        (s.mss.m2hQueue = [] ∨ s.mssAwake = false → ∃ t, exec (.m2hFullClear w) s = .next t ∧
          t.mss = { s.mss with full := false } ∧ SameOutside [.mss] s t) ∧
        (∀ r rest, s.mss.m2hQueue = r :: rest → s.mssAwake = true → ∃ t, exec (.m2hFullClear w) s = .next t ∧
          t.mss.full = true ∧ t.mss.m2hQueue = rest ∧ SameOutside [.hub, .mss, .sent, .fresh] s t))) ∧
    -- the sizes and places an access may have
    (∀ off size : Nat, (accessBad off size = true → (s.hostRead off size).1 = 0xFFFFFFFF ∧
        Raised s (s.hostRead off size).2 0x0C01 .c 0 (off + size <<< 96) ∧
        SameOutside [.hub, .err, .pmu, .sent] s (s.hostRead off size).2) ∧
      (accessBad off size = false → SameOutside [.pwr] s (s.hostRead off size).2)) ∧
    (∀ (off : Word32) (v : Word64) (size : BitVec 8),
      (s.pwr.stagesOn = false ∨ s.hub.linkUp = false ∨ 0x4000000 ≤ off.toNat → exec (.registerWrite off v size) s = .next s) ∧
      (s.barOpen = true → off.toNat < 0x4000000 → ¬ (size = 4 ∧ off.toNat % 4 = 0) → ¬ (size = 8 ∧ off.toNat % 8 = 0) →
        ∃ t, exec (.registerWrite off v size) s = .next t ∧
          Raised s t 0x0C01 .c 0 (off.toNat + v.toNat <<< 32 + size.toNat <<< 96) ∧
          SameOutside [.hub, .err, .pmu, .sent] s t) ∧
      (s.err.offline = true → off.toNat % 4 = 0 → off.toNat ≠ 0x200 → off.toNat ≠ 0x200008 → off.toNat ≠ 0x200020 →
        exec (.registerWrite off v 4) s = .next s)) ∧
    -- one register of each kind
    (s.barOpen = true → ∀ v : Word64,
      (∀ (c : CoreId) (n : Fin 256) (off : Word32), off.toNat = 0x2000000 + 0x40000 * c.val + 0x1000 + 8 * n.val →
        (s.coreWindow c.val = false → exec (.registerWrite off v 8) s = .next s) ∧
        (s.coreWindow c.val = true → ∃ t, exec (.registerWrite off v 8) s = .next t ∧
          (∀ m, (t.core c).param m = if m = n.val then v else (s.core c).param m) ∧
          (t.core c).q.tq = (s.core c).q.tq ∧ (t.core c).q.flags = (s.core c).q.flags ∧ OtherCores c s t ∧
          SameOutside [.cores, .pwr] s t)) ∧
      (∀ (n : Fin 16384) (off : Word32), off.toNat = 0x810000 + 4 * n.val →
        ∃ t, exec (.registerWrite off v 4) s = .next t ∧
          (∀ m, sget 0 t.fab.routes m = if m = n.val then v.setWidth 32 &&& 0xFFF else sget 0 s.fab.routes m) ∧
          t.fab.ports = s.fab.ports ∧ SameOutside [.fab] s t) ∧
      (∃ t, exec (.registerWrite 0xC00008 v 4) s = .next t ∧ t.cle = { s.cle with deadlineUs := v.setWidth 32 } ∧
        SameOutside [.cle] s t) ∧
      (s.fabRunning = false → ∃ t, exec (.registerWrite 0x800008 v 4) s = .next t ∧
        t.fab = { s.fab with pkey := v.toNat % 65536 } ∧ SameOutside [.fab] s t) ∧
      (s.fabRunning = true → ∃ t, exec (.registerWrite 0x800008 v 4) s = .next t ∧
        t.top.cfgIgnored = satAdd 32 s.top.cfgIgnored 1 ∧
        Raised s t 0x0102 .c 0 (0x800008 + (v.toNat % 2 ^ 32) <<< 32 + 4 <<< 96) ∧
        SameOutside [.top, .hub, .err, .pmu, .sent] s t))

/-! Power, clocks and cooling (14) -/

/-- R409, R411, R412, R421, R427, R437 to R439, R523, R525: the 52 V input, the loss of a die, of the hub and of standby
power, and the shutdowns. A supply fault, a critical junction, THERMTRIP and a leak turn the stages off and latch one class
F record; an excursion of VIN that trips nothing is recorded once and darkens the lasers; a die lost takes its cores, its
HBM and its credits with it; the latches fall only once VIN has been removed. -/
def Obligations.PowerFaultsTurnTheStagesOff : Prop :=
  ∀ (s : State),
    (let off := fun (t : State) => t.pwr.stagesOn = false ∧ t.hub.linkUp = false ∧ t.hub.job = none ∧
       t.hub.jobState = .none ∧ t.cores = State.reset.cores ∧ t.mem.bytes = [] ∧ t.pwr.credits = [] ∧ t.ident = s.ident ∧
       t.nv = s.nv ∧ t.sent = s.sent
     let latched := fun (t : State) (code inst : Nat) => t.pwr.aoTime = s.pwr.aoTime ∧ t.pwr.state = .standby ∧
       (∀ r, s.err.fatal0 = some r → t.err.fatal0 = some r) ∧
       (s.err.fatal0 = none → ∃ r, t.err.fatal0 = some r ∧ r.code = code ∧ r.cls = .f ∧ r.inst = inst ∧
         r.ao = s.pwr.aoTime ∧ r.jobId = s.jobIdNow)
     -- supply faults and the critical shutdown
     (s.pwr.stagesOn = false → exec .pwrBrownout s = .next s ∧ exec .pwrVinOv s = .next s ∧ exec .pwrOcp s = .next s ∧
       exec .pwrHubLost s = .next s ∧ (∀ p, exec (.pwrTjCrit p) s = .next s) ∧ (∀ d, exec (.pwrDieLost d) s = .next s) ∧
       (∀ n, exec (.pwrStageHot n) s = .next s) ∧ (∀ n, exec (.pwrOeShutdown n) s = .next s)) ∧
     (s.pwr.stagesOn = true → ∀ x ∈ [(Instr.pwrBrownout, 0x0D0C, 0x7F), (.pwrVinOv, 0x0D0D, 0x7F), (.pwrOcp, 0x0D0E, 0x7F),
         (.pwrTjCrit 0, 0x0D09, 0), (.pwrTjCrit 1, 0x0D09, 1), (.pwrTjCrit 2, 0x0D09, 2), (.pwrTjCrit 3, 0x0D09, 0),
         (.pwrTjCrit 4, 0x0D09, 1), (.pwrHubLost, 0x0D0F, 2)],
       ∃ t, exec x.1 s = .next t ∧ off t ∧ latched t x.2.1 x.2.2 ∧ t.pwr.hubLost = (s.pwr.hubLost || x.2.1 = 0x0D0F) ∧
         t.pwr.thermTrip = s.pwr.thermTrip ∧ t.pwr.leakLatch = s.pwr.leakLatch) ∧
     -- THERMTRIP and the leak
     (s.pwr.thermTrip = true ∨ s.pwr.vstbyOk = false → exec .pwrThermtrip s = .next s) ∧
     (s.pwr.leakLatch = true ∨ s.pwr.vstbyOk = false → exec .pwrLeak s = .next s) ∧
     (s.pwr.vstbyOk = true → s.pwr.thermTrip = false → ∃ t, exec .pwrThermtrip s = .next t ∧ off t ∧ latched t 0x0D0A 0x7F ∧
       t.pwr.thermTrip = true) ∧
     (s.pwr.vstbyOk = true → s.pwr.leakLatch = false → ∃ t, exec .pwrLeak s = .next t ∧ off t ∧ latched t 0x0D0B 0x7F ∧
       t.pwr.leakLatch = true ∧
       t.pwr.thermTrip = s.pwr.thermTrip) ∧
     (s.pwr.stagesOn = true → exec .thermtripNDeassert s = .next s) ∧
     (s.pwr.stagesOn = false → ∃ t, exec .thermtripNDeassert s = .next t ∧
       t.pwr = { s.pwr with thermTrip := false, leakLatch := false, hubLost := false, vinHold := false } ∧
       SameOutside [.pwr] s t) ∧
     -- standby power
     (∃ t, exec .vstbyLoss s = .next t ∧ off t ∧ t.pwr.state = .off ∧ t.pwr.vstbyOk = false ∧ t.pwr.aoTime = 0 ∧
       t.pwr.vinHold = true ∧ t.err.fatal0 = s.err.fatal0 ∧ t.mss.slotA = s.mss.slotA ∧ t.mss.slotB = s.mss.slotB ∧
       t.mss.flashLog = s.mss.flashLog) ∧
     -- power entry
     (let p := s.pwr
      let starts := !p.stagesOn && p.vstbyOk && !p.thermTrip && !p.leakLatch && !p.hubLost && !p.vinHold && !s.mss.held &&
        !s.mss.testHigh && s.mss.tap ≠ .extest && s.mss.st = .ready
      (starts = false → exec .powerEntryStart s = .next s) ∧
      (starts = true → ∃ t, exec .powerEntryStart s = .next t ∧ t.pwr.stagesOn = true ∧ t.pwr.state = .idle ∧
        t.top.coldDue = true ∧ t.hub.linkUp = false ∧ t.pwr.aoTime = s.pwr.aoTime ∧ t.err.fatal0 = s.err.fatal0)) ∧
     -- VIN
     (∀ mv : BitVec 16, (let v := mv.toNat
       let low := decide (44000 ≤ v) && decide (v < 46000)
       let high := decide (56000 < v) && decide (v ≤ 58000)
       (s.pwr.stagesOn = false → exec (.pwrVinRange mv) s = .next (if v < 44000 then { s with pwr.vinHold := false } else s)) ∧
       (s.pwr.stagesOn = true → (v < 44000 ∨ 58000 < v) → exec (.pwrVinRange mv) s = .next s) ∧
       (s.pwr.stagesOn = true → 44000 ≤ v → v ≤ 58000 → ∃ t, exec (.pwrVinRange mv) s = .next t ∧
         t.pwr = { s.pwr with vinLow := low, vinHigh := high } ∧
         ((low && !s.pwr.vinLow || high && !s.pwr.vinHigh) = true →
           ∃ u, Raised s u 0x0D03 .c 0x7F 0 ∧ u.err.queue <+: t.err.queue) ∧
         ((low || high) = true → ∀ l ∈ t.fab.lasers, l.driven = false) ∧
         SameOutside [.hub, .err, .pwr, .fab, .pmu, .sent] s t))) ∧
     -- optical engines and power-entry stages
     (∀ e : Fin 8, (bitAt s.pwr.oeDark e.val = true ∨ s.ident.grade.engines ≤ e.val → exec (.pwrOeShutdown e) s = .next s) ∧
       (s.pwr.stagesOn = true → bitAt s.pwr.oeDark e.val = false → e.val < s.ident.grade.engines →
         ∃ t, exec (.pwrOeShutdown e) s = .next t ∧ t.pwr = { s.pwr with oeDark := s.pwr.oeDark ||| 1 <<< e.val } ∧
           (∃ u, Raised s u 0x0D05 .d 0x7F e.val ∧ u.err.queue <+: t.err.queue) ∧
           (∀ l, t.fab.lasers[e.val / 2]? = some l → l.driven = false) ∧
           SameOutside [.hub, .err, .pwr, .fab, .pmu, .sent] s t) ∧
       (∃ t, exec (.oeRelight e) s = .next t ∧ t.pwr = { s.pwr with oeDark := setFld s.pwr.oeDark e.val 1 0 } ∧
         SameOutside [.hub, .err, .pwr, .fab, .pmu, .sent] s t)) ∧
     (∀ n : Fin 3, (bitAt s.pwr.stageHot n.val = true → exec (.pwrStageHot n) s = .next s) ∧
       (s.pwr.stagesOn = true → bitAt s.pwr.stageHot n.val = false → ∃ t, exec (.pwrStageHot n) s = .next t ∧
         t.pwr = { s.pwr with stageHot := s.pwr.stageHot ||| 1 <<< n.val } ∧
         Raised s t 0x0D10 .c (if n = 0 then 2 else n.val - 1) 0 ∧ SameOutside [.hub, .err, .pwr, .pmu, .sent] s t)) ∧
     -- the loss of a die
     (∀ d : Fin 2, (s.dieDown d.val = true → exec (.pwrDieLost d) s = .next s) ∧
       (s.pwr.stagesOn = true → s.dieDown d.val = false → s.has64 → ∃ t, exec (.pwrDieLost d) s = .next t ∧
         t.dieDown d.val = true ∧ t.dieDown (1 - d.val) = s.dieDown (1 - d.val) ∧
         (t.mem.die d.val).offline = true ∧ t.mem.die (1 - d.val) = s.mem.die (1 - d.val) ∧ t.mem.bytes = s.mem.bytes ∧
         t.cke.health.getLsbD 13 = true ∧ (t.pue d.val).call = none ∧
         (∀ x ∈ t.pwr.credits, x ∈ s.pwr.credits ∧ ¬(x.who.unit = 5 ∧ x.who.owner = d.val) ∧
           ¬(x.who.unit ≠ 5 ∧ s.present x.who.owner = true ∧ s.dieOfCore x.who.owner = d.val)) ∧
         (∀ c : CoreId, s.present c.val = true →
           t.top.present.getLsbD c.val = (s.top.present.getLsbD c.val && s.dieOfCore c.val ≠ d.val)) ∧
         (∀ j, s.hub.job = some j → s.hub.jobState = .running → t.hub.jobState = .halted) ∧
         SameOutside [.top, .cores, .hub, .err, .mem, .pue0, .pue1, .cke, .pwr, .pmu, .sent] s t)))

/-- R415, R416, R418 to R420: the arbiter's grant period, the oldest waiter's yield, and the release of ballast. The grants
of ten periods stay within the ramp allowance, nothing is granted at throttle step 8, while a credit is over the budget or
while the oldest request does not fit; marks cover what is needed or every holder that may be marked is; a marked holder
that has tried to start a command gives its credit up in the next period, and the oldest waiter has it. R419, R437: the
throttle steps, one record an episode. -/
def Obligations.ArbiterGrantsAndThrottles : Prop :=
  ∀ (s : State),
    (let measured := fun (vin iin : BitVec 16) (pkg uncred : BitVec 13) => { s with pwr := { s.pwr with
       period := s.pwr.period + 1, pkgLimit := s.pwr.pkgLimitNext
       vinMv := vin.toNat, iinMa := iin.toNat, pkgW := pkg.toNat, uncredW := uncred.toNat
       uncred := (uncred.toNat :: s.pwr.uncred).take 10
       grantedHist := (0 :: s.pwr.grantedHist).take 10, releasedHist := (0 :: s.pwr.releasedHist).take 10 } }
     let covers := fun (t : State) (need : Nat) => t.pwr.credits.map (fun x => (x.who, x.size, x.period, x.ballast))
         = s.pwr.credits.map (fun x => (x.who, x.size, x.period, x.ballast)) ∧
       (∀ x ∈ t.pwr.credits, x.who.unit = 5 → x ∈ s.pwr.credits) ∧
       (need ≤ ((t.pwr.credits.filter fun x => x.who.unit ≠ 5 ∧ x.marked).map fun x => s.scaled x.who x.size).sum ∨
         ∀ x ∈ t.pwr.credits, x.who.unit ≠ 5 → x.marked = true)
     (s.pwr.stagesOn = false → (∀ a b c d, exec (.grantPeriod a b c d) s = .next s) ∧ exec .pwrThrottle s = .next s ∧
       ∀ d, exec (.pwrThermThrottle d) s = .next s) ∧
     (s.pwr.stagesOn = true → ∀ vin iin pkg uncred, (let m := measured vin iin pkg uncred
       ∃ t, exec (.grantPeriod vin iin pkg uncred) s = .next t ∧ SameOutside [.pwr] s t ∧
         t.pwr.period = s.pwr.period + 1 ∧ t.pwr.pkgLimit = s.pwr.pkgLimitNext ∧ t.pwr.vinMv = vin.toNat ∧
         t.pwr.iinMa = iin.toNat ∧ t.pwr.pkgW = pkg.toNat ∧ t.pwr.uncredW = uncred.toNat ∧
         t.pwr.uncred = (uncred.toNat :: s.pwr.uncred).take 10 ∧
         (t.pwr.grantedHist.take 10).sum ≤ max m.pwr.ramp (s.pwr.grantedHist.take 9).sum ∧
         -- no holder gives its credit up: none, marked, has tried to start a command
         ((∀ x ∈ s.pwr.credits, x.want = none ∨ x.ballast = true) →
           (∀ r ∈ t.pwr.waiting, r ∈ s.pwr.waiting) ∧
           (m.pwr.budget < m.creditsHeld → t.pwr.waiting = s.pwr.waiting ∧ covers t (m.creditsHeld - m.pwr.budget)) ∧
           (s.pwr.throttle = 8 → m.creditsHeld ≤ m.pwr.budget → t.pwr.credits = s.pwr.credits ∧
             t.pwr.waiting = s.pwr.waiting) ∧
           (∀ r, m.creditsHeld ≤ m.pwr.budget → m.oldestReq = some r → m.freeBudget < m.scaled r.who r.size →
             t.pwr.credits = s.pwr.credits ∧ t.pwr.waiting = s.pwr.waiting) ∧
           (∀ r, s.pwr.waiting = [r] → r.who.unit ≠ 6 → m.creditsHeld ≤ m.pwr.budget →
             s.pwr.step (s.unitDie r.who) < 8 →
             m.scaled r.who r.size ≤ m.freeBudget → m.scaled r.who r.size ≤ m.pwr.allow m.pwr.grantedHist →
             t.pwr.waiting = [] ∧ t.creditHeld r.who = s.creditHeld r.who + r.size)) ∧
         -- a holder yields: its credit is gone, the waiter has its own, and the swap counts as a yield
         (∀ x w q, s.pwr.credits = [x] → x.want = some w → x.ballast = false → x.excess = false →
           s.pwr.waiting = [q] → q.who.unit ≠ 6 → q.who ≠ x.who → m.creditsHeld ≤ m.pwr.budget →
           m.scaled q.who q.size ≤ (m.dropCredit x.who).freeBudget → s.pwr.step (s.unitDie q.who) < 8 →
           t.pwr.yields = satAdd 16 s.pwr.yields 1 ∧ q.size ≤ t.creditHeld q.who))) ∧
     -- yields and ballast
     (s.oldestReq = none ∨ s.pwr.ageUs = 0 → exec .yield s = .next s) ∧
     (∀ r, s.oldestReq = some r → s.pwr.period < r.period + s.pwr.ageUs → exec .yield s = .next s) ∧
     (∀ r, s.oldestReq = some r → s.pwr.ageUs ≠ 0 → r.period + s.pwr.ageUs ≤ s.pwr.period → ∃ t, exec .yield s = .next t ∧
       t.pwr.waiting = s.pwr.waiting ∧ covers t (s.scaled r.who r.size - s.freeBudget) ∧ SameOutside [.pwr] s t) ∧
     (∀ (o : Fin 64) (u : Fin 6), (let w : PwrUnit := ⟨o.val, u.val⟩
       ((∀ x ∈ s.pwr.credits, x.who = w → x.ballast = false) → exec (.ballastRelease o u) s = .next s) ∧
       (∀ x, s.pwr.credits.find? (fun x => x.who = w) = some x → x.ballast = true →
         (s.scaled w x.size ≤ s.pwr.allow s.pwr.releasedHist → ∃ t, exec (.ballastRelease o u) s = .next t ∧
           t.pwr.credits = s.pwr.credits.filter (fun y => y.who ≠ w) ∧
           (t.pwr.releasedHist.take 10).sum = (s.pwr.releasedHist.take 10).sum + s.scaled w x.size ∧
           SameOutside [.pwr] s t) ∧
         (s.pwr.allow s.pwr.releasedHist < s.scaled w x.size → ∃ t, exec (.ballastRelease o u) s = .next t ∧
           t.creditHeld w = s.creditHeld w ∧ t.pwr.releasedHist = s.pwr.releasedHist ∧ SameOutside [.pwr] s t)))) ∧
     -- throttling
     (s.pwr.stagesOn = true → ∃ t, exec .pwrThrottle s = .next t ∧
       t.pwr = { s.pwr with throttle := min 8 (s.pwr.throttle + 1), inEpisode := true } ∧
       (s.pwr.inEpisode = true → t.err = s.err) ∧ (s.pwr.inEpisode = false → Raised s t 0x0D01 .c 0x7F 0) ∧
       SameOutside [.hub, .err, .pwr, .pmu, .sent] s t) ∧
     (∃ t, exec .throttleDown s = .next t ∧ t.pwr = { s.pwr with
       throttle := s.pwr.throttle - 1, inEpisode := s.pwr.inEpisode && decide (1 < s.pwr.throttle) } ∧
       SameOutside [.pwr] s t) ∧
     (∀ d : Fin 3, (s.pwr.stagesOn = true → ∃ t, exec (.pwrThermThrottle d) s = .next t ∧
         (∀ e : Fin 3, t.pwr.therm e.val = if e = d then (min 8 ((s.pwr.therm d.val).1 + 1), true) else s.pwr.therm e.val) ∧
         ((s.pwr.therm d.val).2 = true → t.err = s.err) ∧
         ((s.pwr.therm d.val).2 = false → Raised s t 0x0D02 .c d.val 0) ∧
         SameOutside [.hub, .err, .pwr, .pmu, .sent] s t) ∧
       (∃ t, exec (.thermThrottleDown d) s = .next t ∧ SameOutside [.pwr] s t ∧
         ∀ e : Fin 3, t.pwr.therm e.val = if e = d
           then ((s.pwr.therm d.val).1 - 1, (s.pwr.therm d.val).2 && decide (1 < (s.pwr.therm d.val).1))
           else s.pwr.therm e.val)))

/-- R422, R423, R427, R429 to R433: a re-plan raises VDD in steps of 5 mV up to 0.82 V and then lowers F in steps of 12.5 MHz
to no less than 750 MHz, and never the reverse; a comparator whose value the counter has reached sets its MATCH bit, is
rearmed or disabled, and raises vector 9 if it asks for it; idle clocks stop, idle stacks refresh themselves. -/
def Obligations.PlansComparatorsAndClocks : Prop :=
  ∀ (s : State),
    (∀ a b c o, s.pwr.stagesOn = false → exec (.replan a b c o) s = .next s) ∧
    (s.pwr.stagesOn = true → ∀ a b c o, ∃ t, exec (.replan a b c o) s = .next t ∧
      (∀ d : Fin 3, (s.pwr.plan d.val).1 ≤ (t.pwr.plan d.val).1 ∧ (t.pwr.plan d.val).2 ≤ (s.pwr.plan d.val).2 ∧
        (t.pwr.vdd d.val ≤ 820 ∨ t.pwr.plan d.val = ((s.pwr.plan d.val).1, (t.pwr.plan d.val).2)) ∧
        (60 ≤ (t.pwr.plan d.val).2 ∨ (t.pwr.plan d.val).2 = (s.pwr.plan d.val).2)) ∧
      (a = 0 → b = 0 → c = 0 → (∀ d : Fin 3, t.pwr.plan d.val = s.pwr.plan d.val) ∧
        (let steps := fld s.pwr.agingCtl.toNat 8 8
         t.pwr.alarm = (o || decide (steps ≠ 0 ∧ ∃ d : Fin 3, (s.pwr.plan d.val).2 + steps ≤ 84))) ∧
        (s.pwr.alarm = false → t.pwr.alarm = true → Raised s t 0x0D07 .c 0x7F 0) ∧
        SameOutside [.hub, .err, .pwr, .pmu, .sent] s t) ∧
      (a = 1 → b = 0 → c = 0 → s.pwr.vdd 0 ≤ 815 → t.pwr.plan 0 = ((s.pwr.plan 0).1 + 5, (s.pwr.plan 0).2) ∧
        ∃ u, Raised s u 0x0D06 .c 0 (s.pwr.vdd 0 <<< 32 + (s.pwr.vdd 0 + 5) <<< 64) ∧ u.err.queue <+: t.err.queue) ∧
      (a = 0 → b = 1 → c = 0 → 815 < s.pwr.vdd 1 → 61 ≤ (s.pwr.plan 1).2 →
        t.pwr.plan 1 = ((s.pwr.plan 1).1, (s.pwr.plan 1).2 - 1))) ∧
    -- the always-on domain
    (∃ t, exec .aoRcFallback s = .next t ∧ t.pwr = { s.pwr with rcFallback := true } ∧ SameOutside [.pwr] s t) ∧
    (∀ n : Fin 8, (let x := sget AoCmp.reset s.pwr.cmps n.val
      (x.ctl.getLsbD 0 = false ∨ s.pwr.aoTime.toNat < x.value.toNat → exec (.aoCompare n) s = .next s) ∧
      (x.ctl.getLsbD 0 = true → x.value.toNat ≤ s.pwr.aoTime.toNat → ∃ t, exec (.aoCompare n) s = .next t ∧
        (∀ m, sget AoCmp.reset t.pwr.cmps m = if m = n.val then
          (if x.ctl.getLsbD 1 then ⟨x.value + BitVec.ofNat 64 (max 1 (fld x.ctl.toNat 4 28)), x.ctl⟩
            else ⟨x.value, x.ctl &&& ~~~(1 : Word32)⟩)
          else sget AoCmp.reset s.pwr.cmps m) ∧
        t.pwr.aoMatch = s.pwr.aoMatch ||| 1 <<< n.val ∧ t.pwr.aoTime = s.pwr.aoTime ∧
        (x.ctl.getLsbD 2 = true → s.pwr.stagesOn = true → s.hub.linkUp = true →
          t.hub.pba.getLsbD 9 = true ∨ Emit.msix 9 ∈ t.sent) ∧
        SameOutside [.hub, .pwr, .mss, .sent, .fresh] s t))) ∧
    -- clocks and self-refresh
    (∀ c : CoreId, (s.clockHeld c = true → exec (.coreClockStop c) s = .next s) ∧
      (s.clockHeld c = false → ∃ t, exec (.coreClockStop c) s = .next t ∧
        (∀ n, sget false t.pwr.coreClocks n = (sget false s.pwr.coreClocks n && decide (n ≠ c.val))) ∧
        t.pwr.credits = s.pwr.credits ∧ SameOutside [.pwr] s t)) ∧
    (∀ (d : Fin 2) (n : Fin 10), (let sleeps := s.hub.jobState = .none ∧ s.pwr.stagesOn = true ∧ n.val < s.ident.grade.stacks
      (¬sleeps → exec (.selfRefresh d n) s = .next s) ∧
      (sleeps → ∃ t, exec (.selfRefresh d n) s = .next t ∧
        (∀ k, sget false t.pwr.selfRefresh k = (decide (k = 16 * d.val + n.val) || sget false s.pwr.selfRefresh k)) ∧
        SameOutside [.pwr] s t)))

/-! The optical fabric (09): light, links and packets -/

/-- R250 to R253, R256 to R258, R275: light. A module is driven exactly while the conditions of R250 hold; a fault sets
FAULT with its cause and darkens it until software clears it and enables it anew. Each event on a port takes the port, and
no other, to the state of R253. -/
def Obligations.LightAndPortsFollowTheirStates : Prop :=
  ∀ (s : State),
    (let may := fun (m : Nat) (l : Laser) => decide (m < s.ident.grade.lasers) && l.en && s.pwr.stagesOn && !s.top.coldDue &&
       s.pwr.vstbyOk && !s.pwr.vinLow && !s.pwr.vinHigh && l.identified && l.faultN && !l.fault && !l.rearm &&
       !s.pwr.thermTrip && !s.pwr.leakLatch && !bitAt s.pwr.oeDark (2 * m) && !bitAt s.pwr.oeDark (2 * m + 1)
     let led := fun (t : State) (f : Nat → Laser → Laser) => t.fab.lasers.length = s.fab.lasers.length ∧
       ∀ m l, s.fab.lasers[m]? = some l → t.fab.lasers[m]? = some { f m l with driven := may m (f m l) }
     let faulted := fun (t : State) (m cause : Nat) (g : Laser → Laser) =>
       led t (fun n l => if n = m then { g l with fault := true, cause := cause, rearm := true } else l) ∧
       ∃ u, Raised s u 0x0806 .d (16 + m) (devPayload s.fab.devid m 0) ∧ u.err.queue <+: t.err.queue
     let others := fun (p : Fin 16) (t : State) => OtherPorts p.val s t
     -- lasers
     (s.barOpen = false → ∀ w v p, exec (.laserEnable w) s = .next s ∧ exec (.laserFaultClear v) s = .next s ∧
       exec (.quiesce p w) s = .next s ∧ exec (.portDisable p w) s = .next s ∧ exec (.fullTrain p w) s = .next s) ∧
     (s.barOpen = true → ∀ w v,
       (∃ t, exec (.laserEnable w) s = .next t ∧ SameOutside [.hub, .err, .fab, .pmu, .sent] s t ∧
         led t fun m l => { l with en := w.getLsbD m, rearm := l.rearm && !(w.getLsbD m && !l.en && !l.fault) }) ∧
       (∃ t, exec (.laserFaultClear v) s = .next t ∧ SameOutside [.hub, .err, .fab, .pmu, .sent] s t ∧
         led t fun m l => { l with fault := l.fault && !(mergeWrite 0 v).getLsbD (4 + m) })) ∧
     (∀ (m : Fin 4) (power : BitVec 16), (let on := (s.fab.lasers.getD m.val Laser.reset).driven
       (∀ x ∈ [(Instr.fabLaserFault m, true, 1), (.feedPowerCheck m power, decide (power.toInt < 1100), 2),
           (.feedPowerLow m power, decide (power.toInt < 1000), 3)],
         ((on && x.2.1) = false → exec x.1 s = .next s) ∧
         ((on && x.2.1) = true → ∃ t, exec x.1 s = .next t ∧ SameOutside [.hub, .err, .fab, .pmu, .sent] s t ∧
           faulted t m.val x.2.2 fun l => if x.2.2 = 1 then { l with faultN := false } else l)) ∧
       (∀ (pin : Bool) (r : Option LaserReading),
         (s.pwr.vstbyOk = false ∨ s.mss.held = true ∨ s.ident.grade.lasers ≤ m.val → exec (.laserPoll m pin r) s = .next s) ∧
         (s.pwr.vstbyOk = true → s.mss.held = false → m.val < s.ident.grade.lasers →
           (let known := fun (l : Laser) => match r with
              | none => { l with identified := false, faultN := pin }
              | some r => { l with
                  identified := decide (r.cls = 0x5A31 ∧ r.grid = 0x0904), faultN := pin, assigned := true
                  cls := r.cls.toNat, grid := r.grid.toNat, faultReg := r.fault.toNat, temp := r.temp.toNat
                  power := r.power.map BitVec.toNat }
            let l := known (s.fab.lasers.getD m.val Laser.reset)
            ∃ t, exec (.laserPoll m pin r) s = .next t ∧ SameOutside [.hub, .err, .fab, .pmu, .sent] s t ∧
              ((s.fab.lasers.getD m.val Laser.reset).assigned = false →
                ∃ b, t.sent = s.sent ++ Emit.laserAddress m.val (0x30 + m.val) :: b) ∧
              (on = true → pin = false → faulted t m.val 1 known) ∧
              (on = true → pin = true → l.identified = true → l.faultReg % 8 ≠ 0 → faulted t m.val 4 known) ∧
              (on = false ∨ (pin = true ∧ (l.identified = false ∨ l.faultReg % 8 = 0)) →
                led t fun n x => if n = m.val then known x else x)))))) ∧
     -- port control
     (s.barOpen = true → ∀ (p : Fin 16) (w : Word32), ∀ i ∈ [Instr.quiesce p w, .portDisable p w, .fullTrain p w],
       (s.portPresent p.val = false → exec i s = .next s) ∧
       (s.portPresent p.val = true → ∃ t, exec i s = .next t ∧ (t.port p.val).en = w.getLsbD 0 ∧
         (t.port p.val).quiesce = w.getLsbD 1 ∧ (t.port p.val).fullTrain = ((s.port p.val).fullTrain || w.getLsbD 2) ∧
         (s.portsHeld = false → s.engineLit (p.val / 2) = true → (s.port p.val).state = 4 → (t.port p.val).state = 4 ∧
           (t.port p.val).queue = (s.port p.val).queue ∧ (t.port p.val).unacked = (s.port p.val).unacked ∧
           ((s.port p.val).quiesce = false → w.getLsbD 1 = true →
             ∃ ls fl, t.sent = s.sent ++ [Emit.flit p.val ls (some .quiesce) fl])) ∧
         ((s.port p.val).state ≠ 0 → (s.port p.val).state ≠ 4 → w.getLsbD 0 = false → (t.port p.val).state = 0) ∧
         others p t ∧ SameOutside [.hub, .err, .fab, .pmu, .sent] s t)) ∧
     -- light and training
     (∀ p : Fin 16, (let x := s.port p.val
       (x.state = 0 ∨ x.state = 1 ∨ x.state = 5 ∨ 7 ≤ x.state → exec (.lossOfLight p) s = .next s) ∧
       (x.state = 2 ∨ x.state = 3 ∨ x.state = 4 ∨ x.state = 6 → ∃ t, exec (.lossOfLight p) s = .next t ∧
         (t.port p.val).state = (if x.state = 4 ∧ x.quiesced = false then 5 else 1) ∧
         (x.state = 4 → x.quiesced = false → (t.port p.val).unacked = x.unacked ∧ (t.port p.val).queue = x.queue ∧
           (t.port p.val).retrains = satAdd 16 x.retrains 1 ∧ (t.port p.val).wasDev = x.pDev ∧
           (t.port p.val).wasPort = x.pPort) ∧
         t.err = s.err ∧ others p t ∧ SameOutside [.hub, .err, .fab, .pmu, .sent] s t) ∧
       ((x.state ≠ 1 ∧ x.state ≠ 5) ∨ s.engineLit (p.val / 2) = false → exec (.lightReturn p) s = .next s) ∧
       (x.state = 1 ∨ x.state = 5 → s.engineLit (p.val / 2) = true → ∃ t, exec (.lightReturn p) s = .next t ∧
         t.port p.val = { x with
           state := 2, fast := x.trained && !x.fullTrain, fullTrain := false } ∧
         others p t ∧ SameOutside [.fab] s t) ∧
       (x.state ≠ 2 ∨ x.fast = false → exec (.fastTrainFallback p) s = .next s) ∧
       (x.state = 2 → x.fast = true → ∃ t, exec (.fastTrainFallback p) s = .next t ∧
         t.port p.val = { x with fast := false } ∧ others p t ∧ SameOutside [.fab] s t) ∧
       (∀ ns : Word32, (x.state ≠ 2 → exec (.trainingComplete p ns) s = .next s) ∧
         (x.state = 2 → ∃ t, exec (.trainingComplete p ns) s = .next t ∧
           (let kept := fun (ps : List Packet) => ps.map fun y =>
              if y.held.any fun h => h.1 = p.val then { y with held := none } else y
            t.port p.val = { x with
              state := 3, trained := x.trained || !x.fast, lastTrain := min 65535 (ns.toNat / 32), queue := kept x.queue
              rxDed := List.replicate 8 0, rxDedFreed := List.replicate 8 0, rxPoolFreed := 0, rxGap := none
              txUnit := (x.txUnit + 32) % 96 } ∧
            ∀ q, q ≠ p.val → t.port q = { s.port q with queue := kept (s.port q).queue }) ∧
           (x.fast = true → t.fab.dead = s.fab.dead) ∧
           (x.fast = false → ∀ f ∈ s.fibresOf p.val, fld (sget 0 t.fab.dead (p.val / 2)) (9 * f) 9 = 0 ∧
             bitAt (sget 0 t.fab.spareFree (p.val / 2)) f = true) ∧
           (∃ ls fl, t.sent = s.sent ++ [Emit.flit p.val ls (some (.identity s.fab.devid s.fab.pkey p.val
             (sget false s.fab.split (p.val / 2)) (t.usableWidth p.val)
             ((t.laneMap p.val (t.usableWidth p.val)).map Prod.snd))) fl]) ∧
           SameOutside [.fab, .sent] s t)) ∧
       (x.state ≠ 5 → exec (.fabLinkDown p) s = .next s) ∧
       (x.state = 5 → ∃ t, exec (.fabLinkDown p) s = .next t ∧
         (t.port p.val).state = (if s.portsHeld = false ∧ s.portPresent p.val = true ∧ x.en = true ∧
           s.engineLit (p.val / 2) = true then 1 else 0) ∧
         (t.port p.val).unacked = [] ∧ (t.port p.val).queue = [] ∧
         (t.port p.val).discards = satAdd 16 x.discards (x.unacked.length + x.queue.length) ∧
         (∃ u, Raised s u 0x0804 .c p.val (devPayload x.wasDev p.val 0) ∧ u.err.queue <+: t.err.queue) ∧
         others p t ∧ SameOutside [.hub, .err, .fab, .pmu, .sent] s t) ∧
       (let done := x.state = 4 ∧ (x.quiesce = true ∨ x.en = false) ∧ x.queue = [] ∧ x.unacked = []
        (¬done → exec (.quiesced p) s = .next s) ∧
        (done → ∃ t, exec (.quiesced p) s = .next t ∧ others p t ∧
          (x.en = true → t.port p.val = { x with quiesced := true } ∧ t.err = s.err) ∧
          (x.en = false → (t.port p.val).state = 0) ∧ SameOutside [.hub, .err, .fab, .pmu, .sent] s t)))))

/-- R254, R255, R259 to R261, R263 to R265, R267: what a partner's identity, a failing lane and a received flit do to a link.
A partner with the same number, another split or of another kind is refused; the port becomes ACTIVE at the lower width,
replays what the old partner has not acknowledged, and discards it for another. A lane that loses lock, or exceeds a
threshold that is not 0, is dead. A DATA flit counts only in sequence, the first out of it is answered by a NAK; a control
flit acknowledges and frees credit, a NAK resends what is left, and a lane without its markers four times has failed. -/
def Obligations.LinksCarryFlits : Prop :=
  ∀ (s : State),
    (let others := fun (p : Nat) (t : State) => OtherPorts p s t
     (∀ (p : Fin 16) (id : PartnerId), (let x := s.port p.val
       let refused := id.devid.toNat = s.fab.devid ∨ id.split ≠ sget false s.fab.split (p.val / 2) ∨ id.el9200 = false
       let w := min (if x.recovering && x.fast && x.width ≠ 0 then x.width else 32) (min (s.usableWidth p.val) id.width.toNat)
       let same := x.wasDev = id.devid.toNat ∧ x.wasPort = id.port.val
       let rest := match id.ack with
         | some a => ackUpTo x.unacked a.toNat
         | none => x.unacked
       (x.state ≠ 3 → exec (.identityExchange p id) s = .next s) ∧
       (x.state = 3 → refused → ∃ t, exec (.identityExchange p id) s = .next t ∧ (t.port p.val).state = 6 ∧
         (∃ u, Raised s u 0x0807 .c p.val (devPayload id.devid.toNat p.val 0) ∧ u.err.queue <+: t.err.queue) ∧
         others p.val t ∧ SameOutside [.hub, .err, .fab, .pmu, .sent] s t) ∧
       (x.state = 3 → ¬refused → w < 8 → ∃ t, exec (.identityExchange p id) s = .next t ∧ (t.port p.val).state = 6 ∧
         others p.val t ∧ SameOutside [.hub, .err, .fab, .pmu, .sent] s t) ∧
       (x.state = 3 → ¬refused → 8 ≤ w → ∃ t, exec (.identityExchange p id) s = .next t ∧ (t.port p.val).state = 4 ∧
         (t.port p.val).width = w ∧ (t.port p.val).pDev = id.devid.toNat ∧ (t.port p.val).pPort = id.port.val ∧
         (t.port p.val).recovering = false ∧ (t.port p.val).pLanes = id.lanes.map Fin.val ∧
         (t.port p.val).rxFibre = id.fibres.map Fin.val ∧
         (t.port p.val).dedFreed = (List.range 8).map (fun b => (id.ded.getD b 0).toNat) ∧
         (t.port p.val).poolFreed = id.pool.toNat ∧
         (x.recovering = true → same → (t.port p.val).rxNext = x.rxNext ∧ (t.port p.val).discards = x.discards ∧
           ∃ a b, t.sent = s.sent ++ a ++ b ∧ FlitsSent p.val a rest) ∧
         (x.recovering = true → ¬same →
           (s.fab.streamQ = [] → (t.port p.val).unacked = [] ∧ (t.port p.val).queue = [] ∧ (t.port p.val).txNext = 0) ∧
           (t.port p.val).discards = satAdd 16 x.discards (x.unacked.length + x.queue.length) ∧ (t.port p.val).rxNext = 0 ∧
           ∃ u, Raised s u 0x080B .c p.val (devPayload id.devid.toNat p.val 0) ∧ u.err.queue <+: t.err.queue) ∧
         (x.recovering = false → (t.port p.val).rxNext = 0) ∧
         others p.val t ∧ SameOutside [.hub, .err, .fab, .pmu, .sent] s t))) ∧
     -- lanes
     (∀ (e : Fin 8) (lane : Fin 36) (sy : Option Word32), (let f := lane.val / 9
       let p := if sget false s.fab.split e.val then 2 * e.val + f / 2 else 2 * e.val
       let x := s.port p
       let fails := match sy with
         | none => True
         | some n => s.fab.spareThresh ≠ 0 ∧ s.fab.spareThresh < n.toNat
       let down := ¬(2 ≤ x.state ∧ x.state ≤ 5) ∨ bitAt (sget 0 s.fab.dead e.val) lane.val = true
       let spare := bitAt (sget 0 s.fab.spareFree e.val) f
       (¬fails ∨ down → exec (.laneFail e lane sy) s = .next s) ∧
       (fails → ¬down → ∃ t, exec (.laneFail e lane sy) s = .next t ∧
         (∀ n, sget 0 t.fab.dead n = if n = e.val then sget 0 s.fab.dead n ||| 1 <<< lane.val else sget 0 s.fab.dead n) ∧
         (∀ n, sget 0 t.fab.spareFree n = if n = e.val then setFld (sget 0 s.fab.spareFree n) f 1 0
           else sget 0 s.fab.spareFree n) ∧
         (spare = true → lane.val % 9 = 8 → t.port p = x ∧ t.err = s.err ∧ t.sent = s.sent) ∧
         (spare = true → lane.val % 9 ≠ 8 → Raised s t 0x0802 .c p (devPayload s.fab.devid p 0) ∧
           sget 8 t.fab.spareFor (4 * e.val + f) = lane.val % 9 ∧
           (x.state ≠ 4 → t.port p = x ∧ t.sent = s.sent) ∧
           (x.state = 4 → t.port p = { x with txUnit := (x.txUnit + 32) % 96 } ∧
             ∃ ls fl, t.sent = s.sent ++ [Emit.flit p ls (some (.spareRequest lane.val)) fl])) ∧
         (spare = false → (t.port p).state = (if t.usableWidth p = 0 then 6 else if x.state = 4 then 5 else x.state) ∧
           ∃ u, Raised s u 0x0803 .c p (devPayload s.fab.devid p 0) ∧ u.err.queue <+: t.err.queue) ∧
         others p t ∧ SameOutside [.hub, .err, .fab, .pmu, .sent] s t))) ∧
     -- flits
     (∀ (p : Fin 16) (fl : List Byte), (let x := s.port p.val
       let good := fl.length = 256 ∧ crc32c (fl.take 252) = ofLE (fl.drop 252)
       let ty := fld (ofLE (fl.take 2)) 0 3
       let seq := fld (ofLE (fl.take 2)) 3 13
       let alone := fun (t : State) => ∀ q, q ≠ p.val → t.port q = s.port q
       let naks := fun (t : State) => ∃ ls body, t.sent = s.sent ++ [Emit.flit p.val ls none (flitBytes 2 0 body)] ∧
         body.take 2 = leBytes 2 ((x.rxNext + 8191) % 8192 + b2n x.rxAny <<< 13 + 1 <<< 14)
       (x.state ≠ 4 → exec (.dataFlit p fl) s = .next s ∧ exec (.flitNak p fl) s = .next s ∧
         ∀ sp um, exec (.ctrlFlit p fl sp um) s = .next s) ∧
       (x.state = 4 → ∀ i, (i = Instr.flitNak p fl ∧ (¬good ∨ 2 < ty)) ∨ (i = Instr.dataFlit p fl ∧ good ∧ 2 < ty) →
         ∃ t, exec i s = .next t ∧ t.port p.val = { x with crcErr := satAdd 16 x.crcErr 1 } ∧ alone t ∧ SameOutside [.fab] s t) ∧
       (x.state = 4 → ¬good → ∃ t, exec (.dataFlit p fl) s = .next t ∧ alone t ∧ SameOutside [.fab, .sent] s t ∧
         (x.rxGap = none → naks t ∧ t.port p.val = { x with
           crcErr := satAdd 16 x.crcErr 1, rxGap := some x.rxNext, txUnit := (x.txUnit + 32) % 96 }) ∧
         (∀ g, x.rxGap = some g → t.sent = s.sent ∧ t.port p.val = { x with
           crcErr := satAdd 16 x.crcErr 1, rxGap := some ((g + 1) % 8192) })) ∧
       (x.state = 4 → good → ty = 0 → seq = x.rxNext → ∃ t, exec (.dataFlit p fl) s = .next t ∧
         (t.port p.val).rxNext = (x.rxNext + 1) % 8192 ∧ (t.port p.val).rxAny = true ∧ (t.port p.val).rxGap = none ∧
         (t.port p.val).crcErr = x.crcErr ∧ (t.port p.val).unacked = x.unacked ∧ s.fab.inbox <+: t.fab.inbox ∧
         alone t ∧ SameOutside [.hub, .err, .fab, .pmu, .sent] s t) ∧
       (x.state = 4 → good → ty = 0 → seq ≠ x.rxNext → ∃ t, exec (.dataFlit p fl) s = .next t ∧
         (let again := match x.rxGap with
            | some g => decide (seq = (g + 1) % 8192)
            | none => false
          (again = true → t.sent = s.sent ∧ t.port p.val = { x with rxGap := some seq }) ∧
          (again = false → naks t ∧ t.port p.val = { x with rxGap := some seq, txUnit := (x.txUnit + 32) % 96 })) ∧
         t.fab.inbox = s.fab.inbox ∧ alone t ∧ SameOutside [.fab, .sent] s t) ∧
       (let num := fun o n => ofLE ((fl.drop (2 + o)).take n)
        let ack := num 0 2 % 8192
        let un := if bitAt (num 0 2) 13 then ackUpTo x.unacked ack else x.unacked
        let n := if x.nakSeq = ack then x.nakCount + 1 else 1
        x.state = 4 → good → ty = 1 ∨ ty = 2 → ∀ i ∈ [Instr.ctrlFlit p fl none [], .flitNak p fl], ∃ t, exec i s = .next t ∧
          (t.port p.val).dedFreed = (List.range 8).map (fun b => num (2 + 2 * b) 2) ∧
          (t.port p.val).poolFreed = num 18 4 ∧ (t.port p.val).rxNext = x.rxNext ∧
          (bitAt (num 0 2) 14 = false → x.queue = [] → s.fab.streamQ = [] →
            (t.port p.val).unacked = un ∧ t.sent = s.sent ∧ t.err = s.err) ∧
          (bitAt (num 0 2) 14 = true → n < 8 → (t.port p.val).state = 4 ∧ (t.port p.val).retries = satAdd 16 x.retries 1 ∧
            (∃ u, Raised s u 0x0801 .c p.val (devPayload x.pDev p.val 0) ∧ u.err.queue <+: t.err.queue) ∧
            ∃ a b c, t.sent = s.sent ++ a ++ b ++ c ∧ FlitsSent p.val b un) ∧
          (bitAt (num 0 2) 14 = true → 8 ≤ n → (t.port p.val).state = 5 ∧ (t.port p.val).unacked = un) ∧
          others p.val t ∧ SameOutside [.hub, .err, .fab, .pmu, .sent] s t) ∧
       -- the spare lane a control flit names, and the lanes without their markers
       (∀ (l : Fin 36) (um : List (Fin 36)), (let e := p.val / 2
         let takes := good ∧ (ty = 1 ∨ ty = 2) ∧ bitAt (sget 0 s.fab.spareFree e) (l.val / 9) = true ∧
           l.val / 9 ∈ s.fibresOf p.val ∧ bitAt (sget 0 s.fab.dead e) l.val = false
         (¬takes → exec (.ctrlFlit p fl (some l) um) s = exec (.ctrlFlit p fl none um) s) ∧
         (x.state = 4 → takes → ∃ t, exec (.ctrlFlit p fl (some l) []) s = .next t ∧
           sget 0 t.fab.dead e = sget 0 s.fab.dead e ||| 1 <<< l.val ∧
           (∃ ls b, Emit.flit p.val ls (some (.spareAck l.val)) b ∈ t.sent) ∧
           (∃ u, Raised s u 0x0802 .c p.val (devPayload s.fab.devid p.val 0) ∧ u.err.queue <+: t.err.queue) ∧
           others p.val t ∧ SameOutside [.hub, .err, .fab, .pmu, .sent] s t))) ∧
       (∀ um : List (Fin 36), s.portPresent p.val = true → x.state = 4 → (let e := p.val / 2
         let count := fun (l : Fin 36) => if l ∈ um then sget 0 s.fab.unmarked (36 * e + l.val) + 1 else 0
         let mine := fun (l : Fin 36) => l.val / 9 ∈ s.fibresOf p.val
         ∃ u t, exec (.flitNak p fl) s = .next u ∧ exec (.ctrlFlit p fl none um) s = .next t ∧
           (∀ l, mine l → sget 0 t.fab.unmarked (36 * e + l.val) = if count l = 4 then 0 else count l) ∧
           ((∀ l, mine l → count l ≠ 4) → t.fab.ports = u.fab.ports ∧ t.fab.dead = u.fab.dead ∧ SameOutside [.fab] u t) ∧
           (∀ l, mine l → (∀ k, mine k → (count k = 4 ↔ k = l)) → bitAt (sget 0 t.fab.dead e) l.val = true) ∧
           others p.val t ∧ SameOutside [.hub, .err, .fab, .pmu, .sent] s t)))))

/-- R81, R216, R269 to R276: the packets that have arrived for this device take effect, the oldest of a type first. A write
reaches memory and a read leaves it as it was, inside the windows alone; a signal adds to its flag once per SSEQ; a packet
for another device goes out with one hop less or is dropped; a response completes the request that waits for it and one that
answers none is discarded; a request without an answer is sent again, and fails after the last retry. -/
def Obligations.PacketsReachTheHub : Prop :=
  ∀ (s : State), s.hub.snoop = [] → s.hub.bisnp = [] → s.has64 →
    (let got := fun (ty : Nat) => s.fab.inbox.find? fun x => x.2.ptype = ty && x.2.dst = s.fab.devid
     let free := fun (t : State) (x : Nat × Packet) => x.2.src ≠ s.fab.devid → t.fab.inbox = s.fab.inbox.erase x
     (∀ x ∈ [(Instr.wr, 0x01), (.wrPartial, 0x02), (.rdReq, 0x03), (.rdResp, 0x04), (.wrAck, 0x05), (.nak, 0x06),
         (.signalPacket, 0x07), (.signalAck, 0x08), (.echo, 0x30), (.echoReply, 0x31)],
       got x.2 = none → exec x.1 s = .next s) ∧
     -- forwarding
     ((s.fab.inbox.find? fun x => x.2.dst ≠ s.fab.devid) = none → exec .packetForward s = .next s) ∧
     (∀ x, (s.fab.inbox.find? fun x => x.2.dst ≠ s.fab.devid) = some x → (let p := x.2
       ∃ t, exec .packetForward s = .next t ∧ t.fab.inbox = s.fab.inbox.erase x ∧
         (p.hops = 0 → t.fab.dropTtl = satAdd 16 s.fab.dropTtl 1 ∧
           Raised s t 0x0808 .c 0x7F (devPayload p.src 0 0 + p.dst <<< 96 + p.ptype <<< 112)) ∧
         (p.hops ≠ 0 → s.routeOf p.dst = none → t.fab.dropRoute = satAdd 16 s.fab.dropRoute 1 ∧
           Raised s t 0x0808 .c 0x7F (devPayload p.src 0 0 + p.dst <<< 96 + p.ptype <<< 112)) ∧
         (∀ o dl, p.hops ≠ 0 → s.routeOf p.dst = some (o, dl) → (s.port o).state = 5 → (t.port o).queue =
           (s.port o).queue ++ [{ p with
             hops := p.hops - 1, level := if dl then 1 else p.level
             held := if x.1 = 0x7F then none else some (x.1, p.buf) }]) ∧
         SameOutside [.hub, .err, .fab, .pmu, .sent] s t)) ∧
     -- remote accesses
     (∀ i ∈ [(Instr.wr, 0x01), (.wrPartial, 0x02), (.rdReq, 0x03), (.signalPacket, 0x07)], ∀ x, got i.2 = some x →
       x.2.pkey ≠ s.fab.pkey → ∃ t u : State, exec i.1 s = .next t ∧ t = u.respond x.2 0x06 2 [] ∧ free t x ∧
         SameOutside [.fab, .sent] s u ∧ SameOutside [.hub, .err, .fab, .pmu, .sent] s t) ∧
     (∀ i ∈ [(Instr.wr, 0x01, true), (.wrPartial, 0x02, true), (.rdReq, 0x03, false)], ∀ x, got i.2.1 = some x →
       x.2.pkey = s.fab.pkey → s.windowOk x.2.addr x.2.len i.2.2 = false ∨ (i.2.1 = 0x02 ∧ x.2.len ≠ 64) →
       ∃ t u : State, exec i.1 s = .next t ∧ t = u.respond x.2 0x06 1 [] ∧
         free t x ∧ Raised s u 0x0809 .c 0x7F (devPayload x.2.src 0 0 + x.2.addr <<< 96) ∧
         SameOutside [.hub, .err, .fab, .pmu, .sent] s t) ∧
     (∀ x, got 0x01 = some x → (let p := x.2
       p.pkey = s.fab.pkey → s.windowOk p.addr p.len true = true → p.payload.length = p.len →
       (∀ a, p.addr ≤ a → a < p.addr + p.len → s.populated a = true) →
       ∃ t u : State, exec .wr s = .next t ∧ t = u.respond p 0x05 0 [] ∧ t.mem = u.mem ∧
         (∀ a, a < p.addr ∨ p.addr + p.len ≤ a → t.byteAt a = s.byteAt a) ∧
         (∀ i < p.len, t.byteAt (p.addr + i) = p.payload.getD i 0) ∧
         (∀ i < p.len / 64, t.poisoned (p.addr + 64 * i) = bitAt p.aux i) ∧
         SameOutside [.cores, .hub, .err, .mem, .cke, .pwr, .fab, .pmu, .sent, .fresh] s t)) ∧
     (∀ x, got 0x02 = some x → (let p := x.2
       p.pkey = s.fab.pkey → p.len = 64 → s.windowOk p.addr 64 true = true → p.payload.length = 64 →
       (∀ i < 64, s.populated (p.addr + i) = true) →
       ∃ t u : State, exec .wrPartial s = .next t ∧ t = u.respond p 0x05 0 [] ∧ t.mem = u.mem ∧
         (∀ a, a < p.addr ∨ p.addr + 64 ≤ a → t.byteAt a = s.byteAt a) ∧
         (∀ i < 64, t.byteAt (p.addr + i) = if bitAt p.aux i then p.payload.getD i 0 else s.byteAt (p.addr + i)) ∧
         SameOutside [.cores, .hub, .err, .mem, .cke, .pwr, .fab, .pmu, .sent, .fresh] s t)) ∧
     (∀ x, got 0x03 = some x → (let p := x.2
       p.pkey = s.fab.pkey → s.windowOk p.addr p.len false = true → ∃ (t u : State) (aux : Nat), exec .rdReq s = .next t ∧
         t = u.respond p 0x04 aux (u.bytesAt p.addr p.len) ∧ (∀ a, t.byteAt a = s.byteAt a) ∧ free t x ∧
         ((∀ i < p.len / 64, s.lineSound (p.addr + 64 * i) = true) →
           aux = 0 ∧ u.bytesAt p.addr p.len = (List.range p.len).map fun i => s.byteAt (p.addr + i)) ∧
         SameOutside [.hub, .err, .mem, .cke, .pwr, .fab, .pmu, .sent, .fresh] s t)) ∧
     -- signals and echoes
     (∀ x, got 0x07 = some x → (let p := x.2
       let seen := (sget [] s.fab.applied p.src).contains p.sseq
       let flag := fld p.aux 22 10
       let hub := bitAt p.aux 14
       let c := coreNo (fld p.aux 16 6)
       let drop := if hub then decide (flag < 64) else !s.inService (fld p.aux 16 6) || decide (248 ≤ flag)
       p.pkey = s.fab.pkey → s.pmu.hubCtl = 0 → ∃ t u : State, exec .signalPacket s = .next t ∧
         t = u.respond p 0x08 (if !seen && drop then 1 else 0) [] ∧ free t x ∧
         (∀ k n, (t.core k).flag n = (s.core k).flag n
           + (if !seen && !drop && !hub && k = c && n = flag then BitVec.ofNat 32 (fld p.aux 32 32) else 0)) ∧
         (∀ n, t.hubFlag n = s.hubFlag n
           + (if !seen && !drop && hub && n = flag then BitVec.ofNat 32 (fld p.aux 32 32) else 0)) ∧
         (seen = false → drop = true → Raised s u (if !hub && !s.inService (fld p.aux 16 6) then 0x0301 else 0x030A) .c
           (if hub then 0x7F else fld p.aux 16 6) 0) ∧
         SameOutside [.cores, .hub, .err, .fab, .pmu, .sent] s t)) ∧
     (∀ x, got 0x30 = some x → ∃ t u : State, exec .echo s = .next t ∧ t = u.respond x.2 0x31 x.2.aux x.2.payload ∧ free t x ∧
       SameOutside [.fab, .sent] s u ∧ SameOutside [.hub, .err, .fab, .pmu, .sent] s t) ∧
     (∀ x, got 0x31 = some x → ∃ t, exec .echoReply s = .next t ∧ t.fab.inbox = s.fab.inbox.erase x ∧
       t.fab.reqs = s.fab.reqs ∧ SameOutside [.fab, .sent] s t) ∧
     -- responses
     (let asks := fun (p : Packet) => s.fab.reqs.find? fun r => r.pkt.tag = p.tag && r.pkt.dst = p.src
      (∀ i ∈ [(Instr.rdResp, 0x04), (.wrAck, 0x05), (.nak, 0x06), (.signalAck, 0x08)], ∀ x, got i.2 = some x →
        asks x.2 = none → ∃ t, exec i.1 s = .next t ∧ t.fab.inbox = s.fab.inbox.erase x ∧ t.fab.reqs = s.fab.reqs ∧
          SameOutside [.fab, .sent] s t) ∧
      (∀ x r c cmd, got 0x08 = some x → asks x.2 = some r → r.owner = .signal c cmd → ∃ t, exec .signalAck s = .next t ∧
        t.fab.reqs = s.fab.reqs.erase r ∧ t.core (coreNo c) = hubDone (s.core (coreNo c)) cmd ∧
        OtherCores (coreNo c) s t ∧ SameOutside [.cores, .fab, .sent] s t) ∧
      (∀ x r c cmd run, got 0x05 = some x → asks x.2 = some r → r.owner = .mover c cmd → s.ownerRun c cmd = some run →
        run.todo = [] → ∃ t, exec .wrAck s = .next t ∧ t.fab.reqs = s.fab.reqs.erase r ∧
          (x.1 = 0x7F → t.sent = s.sent) ∧ OtherCores (coreNo c) s t ∧
          SameOutside [.cores, .hub, .err, .cke, .fab, .pmu, .sent, .fresh] s t) ∧
      (∀ x r c cmd run, got 0x04 = some x → asks x.2 = some r → r.owner = .mover c cmd → s.ownerRun c cmd = some run →
        run.todo = [] → (∃ q ∈ s.fab.reqs.erase r, q.owner = r.owner) → ∃ t, exec .rdResp s = .next t ∧
          t.fab.reqs = s.fab.reqs.erase r ∧ t.mem = s.mem ∧ (t.core (coreNo c)).t.run = (s.core (coreNo c)).t.run.map
            (fun y => if y.cmd.id = cmd then { y with got := y.got ++ (List.range (r.pkt.len / 64)).map fun i =>
              (r.pkt.addr / 64 + i, (x.2.payload.drop (64 * i)).take 64, bitAt x.2.aux i) } else y) ∧
          OtherCores (coreNo c) s t ∧
          SameOutside [.cores, .fab, .sent] s t) ∧
      (∀ x r c cmd run, got 0x06 = some x → asks x.2 = some r → r.owner = .signal c cmd →
        ((s.core (coreNo c)).t.hubRun.find? fun y => y.cmd.id = cmd) = some run → ∃ t, exec .nak s = .next t ∧
          t.fab.reqs = s.fab.reqs.erase r ∧ (t.core (coreNo c)).q.seq = .haltFault ∧
          (∀ j, s.hub.job = some j → s.hub.jobState = .running → t.hub.jobState = .halted) ∧
          SameOutside [.cores, .hub, .err, .mem, .cke, .pwr, .fab, .pmu, .sent, .fresh] s t)) ∧
     -- timeouts
     (∀ tag : BitVec 18, ((s.fab.reqs.find? fun r => r.pkt.tag = tag.toNat) = none → exec (.e2eTimeout tag) s = .next s) ∧
       (∀ r, (s.fab.reqs.find? fun r => r.pkt.tag = tag.toNat) = some r →
         (r.tries < s.fab.retriesMax → ∃ t u : State, exec (.e2eTimeout tag) s = .next t ∧ t = u.sendPacket r.pkt ∧
           t.fab.reqs = s.fab.reqs.map (fun q => if q = r then { q with tries := q.tries + 1 } else q) ∧
           SameOutside [.fab] s u ∧ SameOutside [.hub, .err, .fab, .pmu, .sent] s t) ∧
         (s.fab.retriesMax ≤ r.tries → ∀ c cmd run, r.owner = .signal c cmd →
           ((s.core (coreNo c)).t.hubRun.find? fun y => y.cmd.id = cmd) = some run → ∃ t, exec (.e2eTimeout tag) s = .next t ∧
             t.fab.reqs = s.fab.reqs.filter (fun q => q ≠ r) ∧ (t.core (coreNo c)).q.seq = .haltFault ∧
             (∀ j, s.hub.job = some j → s.hub.jobState = .running → t.hub.jobState = .halted) ∧
             SameOutside [.cores, .hub, .err, .mem, .cke, .pwr, .fab, .pmu, .sent, .fresh] s t))))

/-! The management subsystem (15): the side-band, sensors, effecters and attestation -/

/-- R442 to R444, R446, R448 to R450, R464 to R466, R469, R520: the side-band addresses and alerts, what the MSS answers
to MCTP control, PLDM base and PLDM monitoring, what a sample of a sensor does, and the SPDM responder. A signed answer
takes one index; a request the MSS does not serve changes nothing. -/
def Obligations.TheManagementSubsystemAnswers : Prop :=
  ∀ (s : State),
    (let awake := s.mss.held = false ∧ s.pwr.vstbyOk = true ∧ (s.mss.st = .ready ∨ s.mss.st = .recovery)
     let ends := fun (i : Instr) (tr : Transport) (m : Mss) (r : Reply) =>
       ∃ t, exec i s = .next t ∧ Answers s t tr m none r ∧ SameOutside [.hub, .mss, .sent, .fresh] s t
     -- addresses and alerts of the side-band
     (¬awake → ∀ st dy read, ∀ i ∈ [Instr.setdasa st dy, .entdaa dy, .rstdaa, .alertResponse, .ibiRepeat read],
       exec i s = .next s) ∧
     (awake → ∀ (st dy : BitVec 7),
       (∀ i ∈ [Instr.setdasa st dy, .entdaa dy, .alertResponse], s.mss.dyn ≠ none → exec i s = .next s) ∧
       (st.toNat ≠ 0x4C + s.mss.mgmtAddr → exec (.setdasa st dy) s = .next s) ∧
       (∀ i ∈ [Instr.setdasa st dy, .entdaa dy], s.mss.dyn = none → (i = .setdasa st dy → st.toNat = 0x4C + s.mss.mgmtAddr) →
         ∃ t, exec i s = .next t ∧ t.mss = { s.mss with
             dyn := some dy.toNat, alert := false, ibi := s.mss.alert || s.mss.ibi } ∧
           t.sent = s.sent ++ (if s.mss.alert then [Emit.ibi 0xAE] else []) ∧ SameOutside [.mss, .sent] s t) ∧
       (∃ t, exec .rstdaa s = .next t ∧ t.mss = { s.mss with
           dyn := none, ibi := false, alert := s.mss.alert || s.mss.ibi } ∧ SameOutside [.mss] s t) ∧
       (s.mss.dyn = none → ∃ t, exec .alertResponse s = .next t ∧ t.mss = { s.mss with alert := false } ∧
         SameOutside [.mss] s t) ∧
       (s.mss.ibi = false → ∀ read, exec (.ibiRepeat read) s = .next s) ∧
       (s.mss.ibi = true → (∃ t, exec (.ibiRepeat true) s = .next t ∧ t.mss = { s.mss with ibi := false } ∧
           SameOutside [.mss] s t) ∧
         ∃ t, exec (.ibiRepeat false) s = .next t ∧ t.sent = s.sent ++ [Emit.ibi 0xAE] ∧ SameOutside [.sent] s t)) ∧
     -- the test access port
     (∀ i, (s.pwr.vstbyOk = false → exec (.tapInstruction i) s = .next s) ∧
       (s.pwr.vstbyOk = true → ∃ t, exec (.tapInstruction i) s = .next t ∧ SameOutside [.mss] s t ∧
         t.mss = { s.mss with tap := if i = .idcode then .idcode else if i = .bypass ∨ i = .other then .bypass
           else if s.pwr.stagesOn = false ∧ (∀ l ∈ s.fab.lasers, l.driven = false) then i else .bypass })) ∧
     -- requests that are not served
     (∀ (tr : Transport) (eid slot index : Byte) (id off len seq : BitVec 16) (v : BitVec 12) (w : Word32) (n : List Byte)
         (x y : Bool),
       (¬Served s tr .control → (tr = .sideband → exec (.setEndpointId eid) s = .next s) ∧
         ∀ i ∈ [Instr.getEndpointId tr, .getMctpVersionSupport tr, .getMessageTypeSupport tr], exec i s = .next s) ∧
       (¬Served s tr .base → exec (.pldmBaseRequest tr eid) s = .next s) ∧
       (¬Served s tr .other → ∀ i ∈ [Instr.getPdr tr id, .getSensorReading tr id, .setEventReceiver tr eid,
           .coolantInletEffecter tr v, .coolantFlowEffecter tr v, .packageLimitEffecter tr w, .deviceResetEffecter tr,
           .getVersion tr, .getCapabilities tr, .negotiateAlgorithms tr x, .getDigests tr, .getCertificate tr slot off len,
           .challenge tr slot n x, .getMeasurements tr index x n y, .respondIfReady tr, .chunkSend tr n x, .chunkGet tr seq],
         exec i s = .next s)) ∧
     -- MCTP control and PLDM base
     (Served s .sideband .control → ∀ eid : Byte,
       (eid = 0 ∨ eid = 255 → ends (.setEndpointId eid) .sideband s.mss ⟨.setEndpointId, .invalid, [], []⟩) ∧
       (eid ≠ 0 → eid ≠ 255 → ends (.setEndpointId eid) .sideband { s.mss with eid := some eid.toNat }
         ⟨.setEndpointId, .success, [eid.toNat], []⟩)) ∧
     (∀ tr, Served s tr .control →
       ends (.getEndpointId tr) tr s.mss ⟨.getEndpointId, .success, [if tr = .sideband then s.mss.eid.getD 0 else 0], []⟩ ∧
       ends (.getMctpVersionSupport tr) tr s.mss ⟨.mctpVersions, .success, [1, 3], []⟩ ∧
       ends (.getMessageTypeSupport tr) tr s.mss ⟨.messageTypes, .success, [0x00, 0x01, 0x05, 0x7E], []⟩) ∧
     (∀ tr (c : Byte), Served s tr .base →
       ends (.pldmBaseRequest tr c) tr s.mss ⟨.pldmBase c.toNat, .success, [0, 2, 5], []⟩) ∧
     -- sensors
     (∀ tr, Served s tr .other → ∀ id : BitVec 16,
       (let say := fun c n => ends (.getSensorReading tr id) tr s.mss ⟨.sensorReading, c, n, []⟩
        let m := id.toNat
        let range := m ≠ 0 ∧ m ≤ 81
        (¬range → say .invalid [] ∧ ends (.getPdr tr id) tr s.mss ⟨.getPdr, .invalid, [], []⟩) ∧
        (range → ∃ l, ends (.getPdr tr id) tr s.mss ⟨.getPdr, .success, m :: l, []⟩) ∧
        (range → s.sensorPresent m = false → say .notPresent [m]) ∧
        (range → s.sensorPresent m = true → s.sensorUp m = false ∨ sget none s.mss.sensors m = none → say .unavailable [m]) ∧
        (∀ v, range → s.sensorPresent m = true → s.sensorUp m = true → sget none s.mss.sensors m = some v →
          say .success [m, (v % 2 ^ 32).toNat, (sget 0 s.mss.levels m % 256).toNat]) ∧
        (4 ≤ m → m ≤ 37 → s.pwr.stagesOn = false → s.sensorUp m = false) ∧
        (38 ≤ m → m ≤ 41 → s.sensorUp m = (s.fab.lasers.getD (m - 38) Laser.reset).identified) ∧
        (42 ≤ m → m ≤ 77 → s.sensorUp m = (s.fab.lasers.getD ((m - 42) / 9) Laser.reset).identified)) ∧
       ∀ e : Byte, ends (.setEventReceiver tr e) tr { s.mss with receiver := some (tr, e.toNat) }
         ⟨.setEventReceiver, .success, [], []⟩) ∧
     (∀ (id : BitVec 7) (w : Word32),
       (let m := id.toNat
        let on := awake ∧ s.mss.st = .ready ∧ m ≠ 0 ∧ m ≤ 81 ∧ s.sensorPresent m = true ∧ s.sensorUp m = true
        let v := s.sensorValue m w.toInt
        let cur := sget 0 s.mss.levels m
        let above := fun (l : List Int) => ((l.filter fun x => decide (x ≤ v)).length : Int)
        (¬on → exec (.sensorSample id w) s = .next s) ∧
        (on → ∃ t, exec (.sensorSample id w) s = .next t ∧ sget none t.mss.sensors m = some v ∧
          (let new := sget 0 t.mss.levels m
           (∀ k, k ≠ m → sget none t.mss.sensors k = sget none s.mss.sensors k ∧ sget 0 t.mss.levels k = sget 0 s.mss.levels k) ∧
           (new = cur → t.mss.log = s.mss.log ∧ t.sent = s.sent) ∧
           (new ≠ cur → (∃ e, t.mss.log.getLast? = some e ∧ e.code = 0x0E85 ∧ e.cls = 4 ∧ e.source = 3 ∧
               e.data = m + (new % 256).toNat <<< 8 + (v % 2 ^ 32).toNat <<< 32) ∧
             ∀ tr e, s.mss.receiver = some (tr, e) → ∃ a b, t.sent = s.sent ++ a ++
               Emit.mss tr ⟨.event, .success, [m, (new % 256).toNat, (v % 2 ^ 32).toNat], []⟩ :: b) ∧
           (cur = 0 →
             (7 ≤ m → m ≤ 26 → v = w.toInt ∧ new = above [85, 95, 105]) ∧
             (27 ≤ m → m ≤ 34 → v = w.toInt ∧ new = above [80, 85, 95]) ∧
             (35 ≤ m → m ≤ 37 → v = w.toInt ∧ new = above [105, 115, 125]) ∧
             (m = 1 → v = w.toInt ∧ new = if 5800 < v then 2 else if 5600 < v then 1 else if v < 4400 then -2
               else if v < 4600 then -1 else 0)) ∧
           (7 ≤ m → m ≤ 26 → cur = 1 → v = 84 ∨ v = 83 → new = 1) ∧ (7 ≤ m → m ≤ 26 → cur = 1 → v = 82 → new = 0)) ∧
          (m = 4 → t.pwr = { s.pwr with tjC0 := v, tjPeak := max s.pwr.tjPeak v }) ∧
          (m ≤ 3 → t.pwr = s.pwr) ∧ SameOutside [.hub, .pwr, .mss, .sent, .fresh] s t))) ∧
     -- effecters
     (∀ tr, Served s tr .other → ∀ (v : BitVec 12) (w : Word32),
       (let recent := fun (o : Option Word64) => ∃ x, o = some x ∧ (s.pwr.aoTime - x).toNat ≤ 327680
        let now := some s.pwr.aoTime
        (∀ x ∈ [(Instr.coolantInletEffecter tr v, 1, { s.mss with inlet := v.toNat, inletAt := now }, s.mss.flowAt),
            (.coolantFlowEffecter tr v, 2, { s.mss with flow := v.toNat, flowAt := now }, s.mss.inletAt)],
          ∃ t, exec x.1 s = .next t ∧ Answers s t tr x.2.2.1 none ⟨.effecter x.2.1, .success, [], []⟩ ∧
            (s.pwr.stagesOn = true → recent x.2.2.2 →
              t.pwr = { s.pwr with inlet := x.2.2.1.inlet, flow := x.2.2.1.flow, stale := false }) ∧
            (s.pwr.stagesOn = false ∨ ¬recent x.2.2.2 → t.pwr = s.pwr ∧ t.err = s.err) ∧
            SameOutside [.hub, .err, .pwr, .pmu, .mss, .sent, .fresh] s t) ∧
        (s.pwr.stagesOn = true → ∃ t, exec (.packageLimitEffecter tr w) s = .next t ∧
          Answers s t tr s.mss none ⟨.effecter 3, .success, [], []⟩ ∧
          t.pwr = { s.pwr with pkgLimitNext := w.toNat % 8192 } ∧ SameOutside [.hub, .pwr, .mss, .sent, .fresh] s t) ∧
        (s.pwr.stagesOn = false → ends (.packageLimitEffecter tr w) tr s.mss ⟨.effecter 3, .unavailable, [], []⟩ ∧
          ends (.deviceResetEffecter tr) tr s.mss ⟨.effecter 4, .success, [], []⟩) ∧
        (s.pwr.stagesOn = true → ∃ t, exec (.deviceResetEffecter tr) s = .next t ∧ t.top.coldDue = true ∧
          t.hub.linkUp = false ∧ t.nv = s.nv ∧ t.ident = s.ident ∧ t.pending = s.pending ∧
          ∃ b, t.sent = s.sent ++ Emit.mss tr ⟨.effecter 4, .success, [], []⟩ :: b))) ∧
     -- attestation
     (∀ tr, Served s tr .other →
       (let x := s.mss.spdm tr
        let with_ := fun (m : Mss) (y : Spdm) => match tr with
          | .sideband => { m with spdmSide := y }
          | .mailbox => { m with spdmMail := y }
        let out := fun (i : Instr) (r : Reply) =>     -- an answer beyond 4,096 B is kept for CHUNK_GET
          (r.bytes.length ≤ 4096 → ends i tr s.mss r) ∧
          (4096 < r.bytes.length → ends i tr (with_ s.mss { x with large := r.bytes }) ⟨r.kind, .largeResponse, r.nums, []⟩)
        let hash := fun (h : Bool) (l : List Byte) => takeBytes 48 (if h then sha3x384 l else sha384 l)
        let recent := s.mss.signTimes.filter fun t => decide ((s.pwr.aoTime - t).toNat < 32768)
        let able := s.mss.signReady = true ∧ s.mss.exhausted = false ∧ s.mss.stateFail = false
        let k := s.mss.nextIndex
        let signed := fun (i : Instr) (late : Bool) (kind : ReqKind) (nums : List Nat) (body msg : List Byte) =>
          (50 ≤ recent.length → ends i tr s.mss ⟨kind, .busy, [], []⟩) ∧
          (recent.length < 50 → ¬able → ends i tr s.mss ⟨kind, .unspecified, [], []⟩) ∧
          (recent.length < 50 → able → (let m := { s.mss with
              nextIndex := k + 1, exhausted := decide (k + 1 = 2 ^ 40), signTimes := recent ++ [s.pwr.aoTime] }
            let bytes := body ++ takeBytes 9893 (Config.xmssSign k msg)
            let held := if late then with_ m { x with late := some ⟨kind, .success, nums, bytes⟩ }
              else with_ m { x with large := bytes }
            let r : Reply := if late then ⟨kind, .responseNotReady, [], []⟩ else ⟨kind, .largeResponse, nums, []⟩
            let near := 1024 * s.nv.reserved ≤ k + 65 ∧ s.nv.reserved < 2 ^ 30
            (¬near → ends i tr held r) ∧
            (near → s.mss.failA = false ∨ s.mss.failB = false → ∃ t, exec i s = .next t ∧
              Answers s t tr held (some (0x0E84, s.nv.reserved + 1)) r ∧
              t.nv = { s.nv with reserved := s.nv.reserved + 1 } ∧ SameOutside [.nv, .hub, .mss, .sent, .fresh] s t) ∧
            (near → s.mss.failA = true → s.mss.failB = true → ∃ t, exec i s = .next t ∧ t.nv = s.nv ∧
              t.mss.stateFail = true ∧ t.mss.nextIndex = k + 1 ∧
              (s.pwr.stagesOn = true → Raised s t 0x0E05 .d 0 0) ∧ SameOutside [.hub, .err, .pmu, .mss, .sent, .fresh] s t)))
        ends (.getVersion tr) tr (with_ s.mss { Spdm.reset with versioned := true }) ⟨.version, .success, [0x12, 0x13], []⟩ ∧
        (x.versioned = true → ends (.getCapabilities tr) tr (with_ s.mss { x with capable := true })
          ⟨.capabilities, .success, [4096, 16384, 1, 1, 2, 1], []⟩) ∧
        (x.versioned = false → ends (.getCapabilities tr) tr s.mss ⟨.capabilities, .error, [], []⟩) ∧
        (∀ h, (x.capable = true → ends (.negotiateAlgorithms tr h) tr (with_ s.mss { x with sha3 := some h })
            ⟨.algorithms, .success, [if h then 1 else 0], []⟩) ∧
          (x.capable = false → ends (.negotiateAlgorithms tr h) tr s.mss ⟨.algorithms, .error, [], []⟩)) ∧
        (∀ (slot index : Byte) (off len : BitVec 16) (nonce : List Byte) (sign late : Bool),
          (x.sha3 = none → ∀ y ∈ [(Instr.getDigests tr, ReqKind.digests), (.getCertificate tr slot off len, .certificate),
              (.challenge tr slot nonce late, .challenge), (.getMeasurements tr index sign nonce late, .measurements)],
            ends y.1 tr s.mss ⟨y.2, .error, [], []⟩) ∧
          (∀ h, x.sha3 = some h →
            (let n := Config.certChain.length
             let part := (Config.certChain.drop off.toNat).take (min len.toNat 16376)
             (s.mss.certOk = true → ends (.getDigests tr) tr s.mss ⟨.digests, .success, [1], hash h Config.certChain⟩) ∧
             (s.mss.certOk = false → ends (.getDigests tr) tr s.mss ⟨.digests, .unspecified, [], []⟩) ∧
             (slot ≠ 0 ∨ n ≤ off.toNat → ends (.getCertificate tr slot off len) tr s.mss ⟨.certificate, .invalid, [], []⟩) ∧
             (slot = 0 → off.toNat < n → s.mss.certOk = false →
               ends (.getCertificate tr slot off len) tr s.mss ⟨.certificate, .unspecified, [], []⟩) ∧
             (slot = 0 → off.toNat < n → s.mss.certOk = true → out (.getCertificate tr slot off len)
               ⟨.certificate, .success, [part.length, n - off.toNat - part.length], part⟩) ∧
             (slot ≠ 0 → ends (.challenge tr slot nonce late) tr s.mss ⟨.challenge, .invalid, [], []⟩) ∧
             (slot = 0 → signed (.challenge tr slot nonce late) late .challenge [] (hash h Config.certChain)
               (nonce ++ hash h Config.certChain)) ∧
             (let block := fun j => if j = 5 ∧ s.mss.routineImage = none then List.replicate 48 0 else s.blockValue h j
              let seven := (List.range 7).flatMap fun j => block (j + 1)
              ∀ (nums : List Nat) (body : List Byte),
                (index = 0 ∧ nums = [8] ∧ body = []) ∨
                (1 ≤ index.toNat ∧ index.toNat ≤ 7 ∧ nums = [index.toNat] ∧ body = block index.toNat) ∨
                (index = 0xFD ∧ nums = [0xFD] ∧ body = hash h seven) ∨
                (index = 0xFF ∧ nums = [1, 2, 3, 4, 5, 6, 7, 0xFD] ∧ body = seven ++ hash h seven) →
                (sign = false → ends (.getMeasurements tr index sign nonce late) tr s.mss ⟨.measurements, .success, nums, body⟩) ∧
                (sign = true → signed (.getMeasurements tr index sign nonce late) late .measurements nums body
                  (nonce ++ body))) ∧
             (8 ≤ index.toNat → index ≠ 0xFD → index ≠ 0xFF →
               ends (.getMeasurements tr index sign nonce late) tr s.mss ⟨.measurements, .invalid, [], []⟩)))) ∧
        (x.late = none → ends (.respondIfReady tr) tr s.mss ⟨.challenge, .error, [], []⟩) ∧
        (∀ r, x.late = some r → r.bytes.length ≤ 4096 → ends (.respondIfReady tr) tr (with_ s.mss { x with late := none }) r) ∧
        (∀ r, x.late = some r → 4096 < r.bytes.length → ends (.respondIfReady tr) tr
          (with_ s.mss { x with late := none, large := r.bytes }) ⟨r.kind, .largeResponse, r.nums, []⟩) ∧
        (∀ (b : List Byte) (last : Bool), (let all := x.chunkIn ++ b
          (4096 < b.length ∨ 16384 < all.length →
            ends (.chunkSend tr b last) tr (with_ s.mss { x with chunkIn := [] }) ⟨.chunkSend, .invalid, [], []⟩) ∧
          (b.length ≤ 4096 → all.length ≤ 16384 → ends (.chunkSend tr b last) tr
            (with_ s.mss { x with chunkIn := if last then [] else all }) ⟨.chunkSend, .success, [all.length], []⟩))) ∧
        (∀ seq : BitVec 16, (let o := 4080 * seq.toNat
          let part := (x.large.drop o).take 4080
          (x.large.length ≤ o → ends (.chunkGet tr seq) tr s.mss ⟨.chunkGet, .invalid, [], []⟩) ∧
          (o < x.large.length → x.large.length ≤ o + 4080 → ends (.chunkGet tr seq) tr (with_ s.mss { x with large := [] })
            ⟨.chunkGet, .success, [seq.toNat, 1], part⟩) ∧
          (o + 4080 < x.large.length → ends (.chunkGet tr seq) tr s.mss ⟨.chunkGet, .success, [seq.toNat, 0], part⟩))))))

/-! The management subsystem (15): its firmware, its log and its fuses -/

/-- R445, R447, R452, R456, R458 to R463, R468, R516: what the MSS answers to the vendor messages and to an update, which slot
a boot loads and which block of signing indices it takes, and what a watchdog restart, a flash write and MSS_HOLD_N do. -/
def Obligations.FirmwareBootsAndUpdates : Prop :=
  ∀ (s : State),
    (let ends := fun (i : Instr) (tr : Transport) (m : Mss) (note : Option (Nat × Nat)) (r : Reply) =>
       ∃ t, exec i s = .next t ∧ Answers s t tr m note r ∧ SameOutside [.hub, .mss, .sent, .fresh] s t
     let burns := fun (i : Instr) (tr : Transport) (n : Nv) (data : Nat) (r : Reply) =>
       ∃ t, exec i s = .next t ∧ Answers s t tr s.mss (some (0x0E83, data)) r ∧ t.nv = n ∧
         SameOutside [.nv, .hub, .mss, .sent, .fresh] s t
     -- requests that are not served
     (∀ (tr : Transport) (a b : Bool) (w v : Word32) (n c : BitVec 16) (k : BitVec 256) (bs : List Byte),
       (¬Served s tr .update → ∀ i ∈ [Instr.requestUpdate tr, .passComponentTable tr c, .updateComponent tr,
         .firmwareData tr bs a, .activateFirmware tr a, .cancelUpdate tr], exec i s = .next s) ∧
       (¬Served s tr .other → ∀ i ∈ [Instr.logRead tr a w n, .fwConfirm tr a, .mssRestart tr a, .ownerKeySet tr k,
         .routineLoad tr a b w v bs], exec i s = .next s)) ∧
     -- the log and the fatal store
     (∀ tr, Served s tr .other → ∀ (seq : Word32) (n : BitVec 16),
       (let bit := fun (b : Bool) => if b then 1 else 0
        let status := bit s.err.fatal0.isSome + 2 * bit s.err.fatal1.isSome + 4 * bit s.err.handling
          + 8 * bit s.err.offline + 65536 * s.err.more
        let entry := fun (o : Option ErrRec) => match o with
          | some r => r.bytes
          | none => List.replicate 64 0
        let held := fun (e : LogEntry) => e ∈ s.mss.flashLog.flatten ∨
          (e ∈ s.mss.log ∧ ∀ f ∈ s.mss.flashLog.flatten, f.seq ≠ e.seq)
        ends (.logRead tr true seq n) tr s.mss none ⟨.logRead, .success, [],
          leBytes 4 status ++ leBytes 4 0 ++ entry s.err.fatal0 ++ entry s.err.fatal1⟩ ∧
        (n = 0 ∨ 63 < n.toNat → ends (.logRead tr false seq n) tr s.mss none ⟨.logRead, .invalid, [], []⟩) ∧
        (n ≠ 0 → n.toNat ≤ 63 → ∃ es : List LogEntry,
          ends (.logRead tr false seq n) tr s.mss none
            ⟨.logRead, .success, [], leBytes 2 es.length ++ [0, 0] ++ es.flatMap LogEntry.bytes⟩ ∧
          es.Pairwise (fun x y => x.seq ≤ y.seq) ∧ es.length ≤ n.toNat ∧ (∀ e ∈ es, held e ∧ seq.toNat ≤ e.seq) ∧
          ∀ e, held e → seq.toNat ≤ e.seq → e ∈ es ∨ (es.length = n.toNat ∧ ∀ x ∈ es, x.seq ≤ e.seq)))) ∧
     -- fuses
     (∀ tr, Served s tr .other →
       (s.mss.running ≠ s.mss.active → ends (.fwConfirm tr false) tr s.mss none ⟨.fwConfirm, .refused, [], []⟩) ∧
       (s.mss.running = s.mss.active → (let n := max s.nv.fwSvn (min 127 s.mss.runSvn)
         burns (.fwConfirm tr false) tr { s.nv with fwSvn := n } (s.nv.fwSvn + n * 2 ^ 64)
           ⟨.fwConfirm, .success, [], leBytes 1 n⟩)) ∧
       (s.mss.routineImage = none → ends (.fwConfirm tr true) tr s.mss none ⟨.fwConfirm, .refused, [], []⟩) ∧
       (s.mss.routineImage ≠ none → (let n := max s.nv.ownerSvn (min 63 s.mss.routineSvn)
         burns (.fwConfirm tr true) tr { s.nv with ownerSvn := n } (s.nv.ownerSvn + n * 2 ^ 64)
           ⟨.fwConfirm, .success, [], leBytes 1 n⟩)) ∧
       ∀ k : BitVec 256,
         (s.nv.ownerKey ≠ none → ends (.ownerKeySet tr k) tr s.mss none ⟨.ownerKeySet, .refused, [], []⟩) ∧
         (s.nv.ownerKey = none → burns (.ownerKeySet tr k) tr { s.nv with ownerKey := some k } 0
           ⟨.ownerKeySet, .success, [], []⟩)) ∧
     -- an update
     (let slot := if s.mss.running then 0 else 2 ^ 32
      let into := fun (m : Mss) (x : FlashSlot) => if m.running then { m with slotA := x } else { m with slotB := x }
      let old := if s.mss.running then s.mss.slotA else s.mss.slotB
      let dead := if s.mss.running then s.mss.failA else s.mss.failB
      let released := into { s.mss with update := none } { old with complete := false }
      (∀ tr, Served s tr .update →
        (s.mss.update = none → ends (.requestUpdate tr) tr { s.mss with update := some ⟨tr, .requested, 0⟩ }
          (some (0x0E81, slot)) ⟨.requestUpdate, .success, [], []⟩) ∧
        (s.mss.update ≠ none → ends (.requestUpdate tr) tr s.mss none ⟨.requestUpdate, .alreadyInUpdateMode, [], []⟩) ∧
        (∀ (cls : BitVec 16) (bs : List Byte) (last own : Bool),
          (∀ x ∈ [(Instr.passComponentTable tr cls, ReqKind.passComponentTable, [UpdateStage.requested]),
              (.updateComponent tr, .updateComponent, [.table]), (.firmwareData tr bs last, .firmwareData, [.writing]),
              (.activateFirmware tr own, .activateFirmware, [.verified]),
              (.cancelUpdate tr, .cancelUpdate, [.requested, .table, .writing, .verified])],
            ((∀ u, s.mss.update = some u → u.agent ≠ tr) → ends x.1 tr s.mss none ⟨x.2.1, .notInUpdateMode, [], []⟩) ∧
            (∀ u, s.mss.update = some u → u.agent = tr → u.stage ∉ x.2.2 →
              ends x.1 tr s.mss none ⟨x.2.1, .invalidState, [], []⟩)) ∧
          ∀ u, s.mss.update = some u → u.agent = tr →
            (u.stage = .requested → cls ≠ 0x000A →
              ends (.passComponentTable tr cls) tr s.mss none ⟨.passComponentTable, .unsupported, [], []⟩) ∧
            (u.stage = .requested → ends (.passComponentTable tr 0x000A) tr
              { s.mss with update := some { u with stage := .table } } (some (0x0E81, 1 + slot))
              ⟨.passComponentTable, .success, [], []⟩) ∧
            (u.stage = .table → ends (.updateComponent tr) tr
              (into { s.mss with update := some { u with stage := .writing, written := 0 } } ⟨none, [], false⟩)
              (some (0x0E81, 2 + slot)) ⟨.updateComponent, .success, [], []⟩) ∧
            (u.stage = .writing → dead = true ∨ 2 ^ 25 < u.written + bs.length →
              ends (.firmwareData tr bs last) tr s.mss none ⟨.firmwareData, .error, [], []⟩) ∧
            (u.stage = .writing → dead = false → u.written + bs.length ≤ 2 ^ 25 →
              (let x : FlashSlot := { old with bytes := ssetList 0xFF old.bytes u.written bs, complete := last }
               let w := u.written + bs.length
               (last = false → ends (.firmwareData tr bs last) tr (into { s.mss with update := some { u with written := w } } x)
                 none ⟨.firmwareData, .success, [], []⟩) ∧
               (last = true → s.nv.slotValid x = true → ends (.firmwareData tr bs last) tr
                 (into { s.mss with update := some { u with stage := .verified, written := w } } x)
                 (some (0x0E81, 3 + slot)) ⟨.verifyComplete, .success, [], []⟩) ∧
               (last = true → s.nv.slotValid x = false → ends (.firmwareData tr bs last) tr
                 (into { s.mss with update := some { u with written := w } } x)
                 (some (0x0E81, 3 + slot)) ⟨.verifyComplete, .error, [], []⟩))) ∧
            (u.stage = .verified → ends (.activateFirmware tr true) tr s.mss none ⟨.activateFirmware, .unsupported, [], []⟩) ∧
            (u.stage = .verified → ends (.activateFirmware tr false) tr
              { s.mss with pending := some (!s.mss.running, 0), update := none } (some (0x0E81, 4 + slot))
              ⟨.activateFirmware, .success, [], []⟩) ∧
            ends (.cancelUpdate tr) tr released (some (0x0E81, 5 + slot)) ⟨.cancelUpdate, .success, [], []⟩)) ∧
      (s.mss.update = none → exec .updateLockTimeout s = .next s) ∧
      (s.mss.update ≠ none → ∃ t, exec .updateLockTimeout s = .next t ∧ t.mss.besides = released.besides ∧
        Noted s t (some (0x0E81, 6 + slot)) ∧ SameOutside [.mss] s t)) ∧
     -- integrator images
     (∀ (first last : Bool) (off total : Word32) (bs : List Byte),
       (Served s .sideband .other → ends (.routineLoad .sideband first last off total bs) .sideband s.mss none
         ⟨.routineLoad, .invalid, [], []⟩) ∧
       (Served s .mailbox .other → s.hub.jobState ≠ .none → ∃ t,
         exec (.routineLoad .mailbox first last off total bs) s = .next t ∧
         Answers s t .mailbox s.mss none ⟨.routineLoad, .jobState, [], []⟩ ∧ Raised s t 0x0205 .c 0 0 ∧
         SameOutside [.hub, .err, .pmu, .mss, .sent, .fresh] s t) ∧
       (Served s .mailbox .other → s.hub.jobState = .none →
         (let got := if first then some [] else s.mss.routineXfer.map (fun x => x.bytes)
          let fits := fun (l : List Byte) => off.toNat = l.length ∧ bs.length ≤ 4080 ∧ l.length + bs.length ≤ total.toNat ∧
            (last = true → l.length + bs.length = total.toNat)
          ((∀ l, got = some l → ¬fits l) → ends (.routineLoad .mailbox first last off total bs) .mailbox
            { s.mss with routineXfer := none } none ⟨.routineLoad, .invalid, [], []⟩) ∧
          ∀ l, got = some l → fits l →
            (last = false → ends (.routineLoad .mailbox first last off total bs) .mailbox
              { s.mss with routineXfer := some ⟨total.toNat, l ++ bs⟩ } none ⟨.routineLoad, .success, [], []⟩) ∧
            (last = true → s.routineOk (l ++ bs) = true → ∃ t,
              exec (.routineLoad .mailbox first last off total bs) s = .next t ∧
              Answers s t .mailbox { s.mss with
                routineXfer := none, routineImage := some (l ++ bs), routineSvn := ((l ++ bs).getD 12 0).toNat } none
                ⟨.routineLoad, .success, [], []⟩ ∧
              t.routineIds = (Config.imageRoutines (l ++ bs)).filter (fun n => decide (0x4000 ≤ n) && decide (n ≤ 0x7FFF)) ∧
              SameOutside [.hub, .mss, .sent, .fresh, .routineIds] s t) ∧
            (last = true → s.routineOk (l ++ bs) = false → ∃ t,
              exec (.routineLoad .mailbox first last off total bs) s = .next t ∧
              Answers s t .mailbox { s.mss with routineXfer := none } none ⟨.routineLoad, .refused, [], []⟩ ∧
              Raised s t 0x0E07 .c 0 0 ∧ SameOutside [.hub, .err, .pmu, .mss, .sent, .fresh] s t))) ∧
       (s.nv.ownerKey = none → ∀ img, s.routineOk img = false)) ∧
     -- boots and restarts
     (let busy := s.hub.jobState = .running ∨ s.hub.jobState = .halted ∨ s.hub.jobState = .suspended
      let tries := match s.mss.pending with
        | none => [s.mss.active, !s.mss.active]
        | some (b, n) => if n < 3 then [b, !b] else [!b]
      let good := fun (b : Bool) => s.nv.slotValid (if b then s.mss.slotB else s.mss.slotA)
      let kept := fun (t : State) => t.ident = s.ident ∧ t.pending = s.pending ∧
        t.nv = { s.nv with reserved := t.nv.reserved } ∧ t.mss.slotA = s.mss.slotA ∧ t.mss.slotB = s.mss.slotB ∧
        t.pwr.aoTime = s.pwr.aoTime ∧ t.mss.update = none ∧ t.mss.spdmSide = Spdm.reset ∧ t.mss.spdmMail = Spdm.reset
      let booted := fun (i : Instr) =>
        (∀ b, tries.find? good = some b → ∃ t, exec i s = .next t ∧ kept t ∧ t.mss.st = .ready ∧ t.mss.held = false ∧
          t.mss.running = b ∧
          t.mss.runVersion = (if b then s.mss.slotB else s.mss.slotA).version ∧
          t.mss.runSvn = (if b then s.mss.slotB else s.mss.slotA).svn ∧
          (s.nv.reserved < 2 ^ 30 → s.mss.failA = false ∨ s.mss.failB = false →
            t.nv.reserved = s.nv.reserved + 1 ∧ t.mss.nextIndex = 1024 * s.nv.reserved ∧ t.mss.signReady = true) ∧
          (2 ^ 30 ≤ s.nv.reserved ∨ (s.mss.failA = true ∧ s.mss.failB = true) →
            t.nv.reserved = s.nv.reserved ∧ t.mss.signReady = false) ∧
          t.pwr.stagesOn = s.pwr.stagesOn ∧ (s.pwr.stagesOn = true → t.top.coldDue = true ∧ t.hub.linkUp = false) ∧
          (s.pwr.stagesOn = false → (t.mss.active, t.mss.pending) = (match s.mss.pending with
            | some (p, n) => if p = b then (b, none)
              else (s.mss.active, if 2 ≤ n then none else some (p, n + 1))
            | none => (s.mss.active, none)))) ∧
        (tries.find? good = none → ∃ t, exec i s = .next t ∧ kept t ∧ t.mss.st = .recovery ∧ t.mss.held = false ∧
          t.nv = s.nv ∧ t.pwr.stagesOn = false ∧ (s.err.fatal0 = none → ∃ r, t.err.fatal0 = some r ∧ r.code = 0x0E02))
      (∀ v, booted (.boot (some v)) ∧ ∃ t, exec (.boot (some v)) s = .next t ∧ t.mss.mgmtAddr = v.toNat ∧
        t.pwr.vstbyOk = true) ∧
      (s.mss.held = true → booted (.boot none)) ∧
      (s.mss.held = false → exec (.boot none) s = .next s) ∧
      (∀ tr force, Served s tr .other →
        (busy → force = false → ends (.mssRestart tr force) tr s.mss none ⟨.mssRestart, .jobState, [], []⟩) ∧
        (¬busy ∨ force = true → booted (.mssRestart tr force) ∧ ∃ t a b, exec (.mssRestart tr force) s = .next t ∧
          t.sent = s.sent ++ a ++ Emit.mss tr ⟨.mssRestart, .success, [], []⟩ :: b)) ∧
      -- the watchdog, MSS_HOLD_N
      (s.mss.st ≠ .ready ∨ s.mss.held = true → exec .mssWatchdog s = .next s) ∧
      (s.mss.st = .ready → s.mss.held = false → ∃ t, exec .mssWatchdog s = .next t ∧ t.mss.st = .ready ∧
        t.mss.running = s.mss.running ∧ t.mss.update = s.mss.update ∧ t.mss.routineImage = s.mss.routineImage ∧
        (s.pwr.stagesOn = true → 2 ^ 30 ≤ s.nv.reserved ∨ s.mss.failA = false ∨ s.mss.failB = false →
          Raised s t 0x0E06 .c 0 0) ∧
        (s.nv.reserved < 2 ^ 30 → s.mss.failA = false ∨ s.mss.failB = false →
          t.nv = { s.nv with reserved := s.nv.reserved + 1 } ∧ t.mss.nextIndex = 1024 * s.nv.reserved ∧
          t.mss.signReady = true) ∧
        (2 ^ 30 ≤ s.nv.reserved ∨ (s.mss.failA = true ∧ s.mss.failB = true) → t.nv = s.nv ∧ t.mss.signReady = false) ∧
        SameOutside [.nv, .hub, .err, .pmu, .mss, .sent] s t) ∧
      (s.mss.held = true → exec .mssHoldNAssert s = .next s) ∧
      (s.mss.held = false → ∃ t, exec .mssHoldNAssert s = .next t ∧ t.nv = s.nv ∧ t.ident = s.ident ∧ t.pending = s.pending ∧
        t.sent = s.sent ∧ t.pwr.stagesOn = false ∧ t.mss.held = true ∧ t.mss.st = .booting ∧ t.mss.dyn = none ∧
        t.mss.update = none ∧ t.mss.signReady = false ∧ t.mss.log = s.mss.log ∧ t.mss.flashLog = s.mss.flashLog ∧
        t.mss.slotA = s.mss.slotA ∧ t.mss.slotB = s.mss.slotB ∧ t.mss.active = s.mss.active ∧
        t.mss.pending = s.mss.pending ∧ (s.pwr.stagesOn = false → SameOutside [.mss] s t))) ∧
     -- the flash log
     (∀ a b : Bool,
       (s.mss.held = true ∨ s.pwr.vstbyOk = false → exec (.logFlush a b) s = .next s) ∧
       (let failA := s.mss.failA || !a
        let failB := s.mss.failB || !b
        let new := (failA, failB) ≠ (s.mss.failA, s.mss.failB)
        let waits := s.mss.log.drop (s.mss.log.length - s.mss.unflushed)
        s.mss.held = false → s.pwr.vstbyOk = true → ∃ t, exec (.logFlush a b) s = .next t ∧
          t.mss.failA = failA ∧ t.mss.failB = failB ∧
          (new → s.pwr.stagesOn = true → Raised s t 0x0E04 .d 0 0) ∧
          (¬new → t.mss.log = s.mss.log ∧ SameOutside [.mss] s t) ∧
          (failA = true → failB = true → t.mss.flashLog = s.mss.flashLog) ∧
          (failA = false ∨ failB = false → t.mss.unflushed = 0 ∧
            ∃ recs : List (List LogEntry), (∀ r ∈ recs, r.length ≤ 63) ∧
              (¬new ∨ s.pwr.stagesOn = true → recs.flatten = waits) ∧
              (s.mss.log.length < 4096 → ∃ more, recs.flatten = waits ++ more) ∧
              t.mss.flashLog = (s.mss.flashLog ++ recs).drop ((s.mss.flashLog ++ recs).length - 1024)) ∧
          SameOutside [.hub, .err, .pmu, .mss, .sent] s t)))

/-! Reset, the queue, and what every step keeps -/

/-- R536: what the registers of BAR0 read right after reset, each by its name, first offset, step, count, bytes and value:
those of the device, with the ports of unsplit engines, of each die and of each core. No command waits, and the invariant of
`EveryStepKeepsTheInvariant` holds. -/
def Obligations.ResetValuesOfTheRegisters : Prop :=
  let shows := fun (o : Nat) (rows : List (String × Nat × Nat × Nat × Nat × Nat)) => ∀ r ∈ rows, ∀ i < r.2.2.2.1,
    State.reset.barRead (o + r.2.1 + r.2.2.1 * i) r.2.2.2.2.1 = r.2.2.2.2.2
  shows 0 [
      ("TOP_ID", 0x0, 0, 1, 4, 0x92001F4B), ("TOP_MFR", 0x28, 0, 1, 4, 0x2B703A6), ("TOP_RESET", 0x200, 0, 1, 4, 0x0),
      ("TOP_RESET_STATUS", 0x208, 0, 1, 4, 0x0), ("TOP_CFG_WRITE_IGNORED", 0x300, 0, 1, 4, 0x0)] ∧
  shows 0 [
      ("HUB_JOB_STATUS", 0x100000, 0, 1, 8, 0x0), ("HUB_MSIX_MOD_US", 0x100008, 0, 1, 4, 0x64),
      ("HUB_RING_CTL_q", 0x100100, 64, 4, 4, 0x8), ("HUB_RING_STATUS_q", 0x100108, 64, 4, 8, 0x0),
      ("HUB_RING_SQ_BASE_q", 0x100110, 64, 4, 8, 0x0), ("HUB_RING_CQ_BASE_q", 0x100118, 64, 4, 8, 0x0),
      ("HUB_RING_CTRL_q", 0x100120, 64, 4, 8, 0x0), ("HUB_MSIX_BIND_n", 0x100400, 8, 48, 8, 0x0),
      ("HUB_FLAG_ADD_n", 0x109000, 4, 1024, 4, 0x0), ("HUB_WAIT_LIMIT", 0x10A000, 0, 1, 4, 0x100000),
      ("HUB_DLK_STATUS", 0x10A008, 0, 1, 8, 0x0), ("HUB_DLK_MEMBER_n", 0x10A100, 8, 64, 8, 0x0),
      ("T2_STATUS_p", 0x110008, 8, 2, 8, 0x0), ("T2_ERR_COUNT", 0x110018, 0, 1, 4, 0x0)] ∧
  shows 0 [
      ("ERR_STATUS", 0x200000, 0, 1, 8, 0x0), ("ERR_VALID", 0x200008, 0, 1, 4, 0x0), ("ERR_OVERFLOW", 0x20000C, 0, 1, 4, 0x0),
      ("ERR_CLASS_COUNT", 0x200010, 0, 1, 8, 0x0), ("ERR_LOST", 0x200018, 0, 1, 8, 0x0),
      ("ERR_INJECT", 0x200028, 0, 1, 8, 0x0), ("ERR_LOG_n", 0x201000, 8, 256, 8, 0x0)] ∧
  shows 0 [
      ("PMU_GLOBAL_CTL", 0x300000, 0, 1, 4, 0x4), ("PMU_GLOBAL_STATUS", 0x300004, 0, 1, 4, 0x0),
      ("PMU_SNAP_CTL", 0x300008, 0, 1, 4, 0x100), ("PMU_USER_CTL", 0x30000C, 0, 1, 4, 0x80),
      ("PMU_SNAP_ADDR", 0x300018, 0, 1, 8, 0x0), ("PMU_STEP_ADDR", 0x300020, 0, 1, 8, 0x0),
      ("PMU_STEP_CTL", 0x300028, 0, 1, 4, 0xC), ("PMU_HUB_CTL", 0x30002C, 0, 1, 4, 0x0),
      ("PMU_HUB_OVF", 0x300030, 0, 1, 4, 0x0), ("PMU_LAT_STEP", 0x300038, 0, 1, 8, 0x0),
      ("PMU_HUB_EVSEL_n", 0x300100, 4, 16, 4, 0x20000), ("PMU_HUB_CNT_n", 0x300200, 8, 16, 8, 0x0),
      ("PMU_HUB_LAT_n", 0x300300, 8, 16, 8, 0x0)] ∧
  shows 0 [
      ("PWR_CTL", 0x400000, 0, 1, 4, 0x100208), ("PWR_PKG_LIMIT_W", 0x400004, 0, 1, 4, 0x1068),
      ("PWR_STATUS", 0x400008, 0, 1, 8, 0x3068), ("PWR_TELEM", 0x400010, 0, 1, 8, 0x0),
      ("PWR_CREDIT", 0x400018, 0, 1, 8, 0x0), ("PWR_CLK", 0x400020, 0, 1, 8, 0x152A54), ("PWR_THERM", 0x400028, 0, 1, 8, 0x0),
      ("PWR_TJ_THROTTLE", 0x400030, 0, 1, 4, 0x64), ("PWR_COOLANT", 0x400034, 0, 1, 4, 0x1000190),
      ("PWR_AGING_CTL", 0x400038, 0, 1, 4, 0x200), ("PWR_AO_TIME", 0x400100, 0, 1, 8, 0x0),
      ("PWR_AO_STATUS", 0x400108, 0, 1, 4, 0x0), ("PWR_AO_CMP_n", 0x400200, 16, 8, 8, 0x0),
      ("PWR_AO_CMP_CTL_n", 0x400208, 16, 8, 4, 0x0)] ∧
  shows 0 [
      ("MSS_STATUS", 0x500000, 0, 1, 8, 0x0), ("MSS_MB_H2M_CTL", 0x500010, 0, 1, 4, 0x0),
      ("MSS_MB_M2H_CTL", 0x500014, 0, 1, 4, 0x0), ("MSS_XMSS_STATUS", 0x500028, 0, 1, 8, 0x0),
      ("MSS_MB_H2M_BUF_n", 0x501000, 8, 512, 8, 0x0), ("MSS_MB_M2H_BUF_n", 0x502000, 8, 512, 8, 0x0)] ∧
  shows 0 [
      ("CKE_CTL", 0x600000, 0, 1, 4, 0x4004), ("CKE_STATUS", 0x600008, 0, 1, 8, 0x0), ("CKE_EPOCH", 0x600010, 0, 1, 8, 0x0),
      ("CKE_GATE_CTL", 0x600018, 0, 1, 4, 0x4000C40), ("CKE_READY_TARGET", 0x60001C, 0, 1, 4, 0x1),
      ("CKE_MAP_ADDR", 0x600020, 0, 1, 8, 0x0), ("CKE_MEMBER_ADDR", 0x600028, 0, 1, 8, 0x0),
      ("CKE_MEMBERS", 0x600030, 0, 1, 4, 0x0), ("CKE_PROBE", 0x600034, 0, 1, 4, 0x40032),
      ("CKE_VOTE_TIMEOUT_US", 0x600038, 0, 1, 4, 0x64), ("CKE_DECISION_TIMEOUT_US", 0x60003C, 0, 1, 4, 0x4E20),
      ("CKE_BG_SHARE", 0x600040, 0, 1, 4, 0x14), ("CKE_HEALTH", 0x600048, 0, 1, 8, 0x0),
      ("CKE_LAST_DECISION", 0x600050, 0, 1, 8, 0x0), ("CKE_CKPT_LAST", 0x600058, 0, 1, 8, 0xFFFFFFFFFFFFFF00),
      ("CKE_SUSPECT", 0x600060, 0, 1, 4, 0x0), ("CKE_ABORTS", 0x600064, 0, 1, 4, 0x0),
      ("CKE_RETRY_UPDATES", 0x600068, 0, 1, 4, 0x0), ("CKE_ROLLBACKS", 0x60006C, 0, 1, 4, 0x0),
      ("CKE_LOST_COUNT", 0x600070, 0, 1, 4, 0x0), ("CKE_LOST_n", 0x601000, 4, 512, 4, 0x0)] ∧
  shows 0 [
      ("FAB_CTL", 0x800000, 0, 1, 4, 0x2000), ("FAB_DEVID", 0x800004, 0, 1, 4, 0x0), ("FAB_PKEY", 0x800008, 0, 1, 4, 0x0),
      ("FAB_E2E_CTL", 0x80000C, 0, 1, 4, 0x201F4), ("FAB_SWITCH_HOLD_US", 0x800010, 0, 1, 4, 0x64),
      ("FAB_SPARE_THRESH", 0x800014, 0, 1, 4, 0x100), ("FAB_LASER_CTL", 0x800020, 0, 1, 4, 0x0),
      ("FAB_LASER_STATUS", 0x800028, 0, 1, 8, 0x0), ("FAB_OE_CTL_e", 0x800100, 4, 8, 4, 0x0),
      ("FAB_PORT_CTL_p", 0x800200, 16, 8, 4, 0x1), ("FAB_PORT_STATUS_p", 0x800300, 8, 16, 8, 0x0),
      ("FAB_PORT_ERR_p", 0x800400, 8, 16, 8, 0x0), ("FAB_LANE_STATUS_e", 0x800500, 8, 8, 8, 0x0),
      ("FAB_RWIN_BASE_n", 0x800600, 16, 8, 8, 0x0), ("FAB_RWIN_LIMIT_n", 0x800608, 16, 8, 8, 0x0),
      ("FAB_DROP_COUNT", 0x800700, 0, 1, 8, 0x0)] ∧
  shows 0 [
      ("CLE_STATUS", 0xC00000, 0, 1, 8, 0x0), ("CLE_DEADLINE_US", 0xC00008, 0, 1, 4, 0x7D0),
      ("CLE_HOP_WAIT_US", 0xC0000C, 0, 1, 4, 0xC8), ("CLE_HOP_TIMEOUT_US", 0xC00010, 0, 1, 4, 0x32),
      ("CLE_SR_TIMEOUT_US", 0xC00014, 0, 1, 4, 0x64), ("CLE_STICKY", 0xC00018, 0, 1, 4, 0x0),
      ("CLE_FORECAST_MISSES", 0xC00020, 0, 1, 4, 0x0), ("CLE_RESCALES", 0xC00024, 0, 1, 4, 0x0),
      ("CLE_LATE_COUNT", 0xC00028, 0, 1, 4, 0x0), ("CLE_EXCL_COUNT", 0xC0002C, 0, 1, 4, 0x0),
      ("CLE_NF_ELEMS", 0xC00030, 0, 1, 4, 0x0), ("CLE_SRGROUP_g", 0xC00100, 4, 16, 4, 0x0),
      ("CLE_SRMEM_n", 0xC00200, 4, 128, 4, 0x0)] ∧
  (∀ d < 2, shows (0x1000000 + 0x800000 * d) [
      ("MEM_CTL", 0x0, 0, 1, 4, 0x1801), ("MEM_CE_COUNT_n", 0x100, 4, 10, 4, 0x0), ("MEM_UE_COUNT_n", 0x140, 4, 10, 4, 0x0),
      ("MEM_ERR_ADDR", 0x180, 0, 1, 8, 0x0), ("MEM_POISON_READS", 0x188, 0, 1, 4, 0x0), ("MEM_INJECT", 0x190, 0, 1, 8, 0x0),
      ("PUE_CTL", 0x1000, 0, 1, 4, 0x1), ("PUE_STATUS", 0x1008, 0, 1, 8, 0x0), ("PUE_STICKY", 0x1010, 0, 1, 4, 0x0),
      ("PUE_BLOCKS_UPDATED", 0x1014, 0, 1, 4, 0x0), ("PUE_CATCHUPS", 0x1018, 0, 1, 4, 0x0),
      ("PUE_FROZEN_REQS", 0x101C, 0, 1, 4, 0x0), ("PUE_PRECOND_RETRIES", 0x1020, 0, 1, 4, 0x0),
      ("PUE_PRECOND_FALLBACKS", 0x1024, 0, 1, 4, 0x0)]) ∧
  (∀ c < 64, shows (0x2000000 + 0x40000 * c) [
      ("SEQ_STATUS", 0x0, 0, 1, 8, 0x0), ("SEQ_REPLAY_POS", 0x8, 0, 1, 4, 0x0), ("NUM_STATUS", 0x10, 0, 1, 4, 0x0),
      ("MXU_CTL", 0x4000, 0, 1, 4, 0x3), ("MXU_STATUS", 0x4008, 0, 1, 8, 0x0), ("MXU_CSUM_REPLAYS", 0x4010, 0, 1, 4, 0x0),
      ("MXU_CSUM_UNCHECKED", 0x4014, 0, 1, 4, 0x0), ("MXU_CSUM_REREADS", 0x4018, 0, 1, 4, 0x0),
      ("MXU_ARRAY_FAULTS", 0x401C, 0, 1, 4, 0x0), ("MXU_ACC_ECC", 0x4020, 0, 1, 4, 0x0), ("MXU_INJECT", 0x4028, 0, 1, 4, 0x0),
      ("VCE_STATUS", 0x5000, 0, 1, 8, 0x0), ("VCE_TBLGEN", 0x5008, 0, 1, 4, 0x0), ("VCE_STICKY", 0x500C, 0, 1, 4, 0x0),
      ("VCE_PERM_OOR_COUNT", 0x5010, 0, 1, 4, 0x0), ("VCE_LUT_OOR_COUNT", 0x5014, 0, 1, 4, 0x0),
      ("VCE_RNG_SEED", 0x5018, 0, 1, 8, 0x0), ("OC_ECC_COUNT", 0x5020, 0, 1, 4, 0x0), ("SFU_CLAMPS", 0x5040, 0, 1, 4, 0x0),
      ("SFU_COMPAT_EVALS", 0x5044, 0, 1, 4, 0x0), ("SFU_NORM_FALLBACKS", 0x5048, 0, 1, 4, 0x0),
      ("TMV_CTL", 0x6000, 0, 1, 4, 0x1), ("TMV_STATUS", 0x6008, 0, 1, 8, 0x0), ("TMV_IDXPOL", 0x6010, 0, 1, 4, 0x0),
      ("TMV_STICKY", 0x6014, 0, 1, 4, 0x0), ("TMV_IDX_NEG_COUNT", 0x6018, 0, 1, 4, 0x0),
      ("TMV_IDX_OOR_COUNT", 0x601C, 0, 1, 4, 0x0), ("TMV_COALESCED", 0x6020, 0, 1, 4, 0x0),
      ("PMU_CORE_CTL", 0x7000, 0, 1, 4, 0x0), ("PMU_OVF", 0x7004, 0, 1, 4, 0x0), ("PMU_EVSEL_n", 0x7010, 4, 8, 4, 0x20000),
      ("PMU_FIX_n", 0x7040, 8, 2, 8, 0x0), ("PMU_CNT_n", 0x7080, 8, 8, 8, 0x0), ("PMU_LAT_n", 0x7100, 8, 10, 8, 0x0),
      ("PMU_PERIOD_n", 0x7160, 4, 8, 4, 0x10000), ("PMU_SAMP_BASE", 0x7180, 0, 1, 8, 0x0),
      ("PMU_SAMP_CTL", 0x7188, 0, 1, 4, 0xA), ("PMU_SAMP_WPTR", 0x718C, 0, 1, 4, 0x0), ("PMU_SAMP_RPTR", 0x7190, 0, 1, 4, 0x0)]) ∧
  (∀ n, State.reset.hubFlag n = 0) ∧ (∀ n, sget 0 State.reset.fab.routes n = 0) ∧
  (∀ c n, (State.reset.core c).param n = 0 ∧ (State.reset.core c).flag n = 0) ∧ State.reset.pending = [] ∧
  State.reset.Inv

/-- One command after another: a step runs the command at the front of the queue on the state with the queue's rest. With none
waiting the always-on counter counts once while standby power is in range (the model's choice, assumption 1). -/
def Obligations.StepRunsTheFrontCommand : Prop :=
  (∀ (c : Instr) (rest : List Instr) (s : State), s.pending = c :: rest → step s = exec c { s with pending := rest }) ∧
  (∀ s : State, s.pending = [] →
    (s.pwr.vstbyOk = true → step s = .next { s with pwr.aoTime := s.pwr.aoTime + 1 }) ∧
    (s.pwr.vstbyOk = false → step s = .next s))

/-- What every command keeps: device memory in its canonical form, the 64 cores of R5, the bounds of R419, R455, R463, R469
and R473. Fuses never go back (R445, R461, R463, R467), the grade stays, and FW_SVN changes only by FW_CONFIRM (R461). -/
def Obligations.EveryStepKeepsTheInvariant : Prop :=
  ∀ s t : State, s.Inv → step s = .next t →
    t.Inv ∧ t.ident = s.ident ∧ s.nv.fwSvn ≤ t.nv.fwSvn ∧ s.nv.ownerSvn ≤ t.nv.ownerSvn ∧ s.nv.reserved ≤ t.nv.reserved ∧
    t.nv.revoked = s.nv.revoked ∧ (s.nv.ownerKey ≠ none → t.nv.ownerKey = s.nv.ownerKey) ∧
    (t.nv.fwSvn ≠ s.nv.fwSvn → ∃ tr rest, s.pending = .fwConfirm tr false :: rest ∧ s.mss.running = s.mss.active)
end

