-- ==== Sys2Proof/Laws/Frame.lean ====
section
/-! SUPPORT. What the shared operations leave alone: for each, the parts of the state it never changes. Lemmas named
`f_frame` are conjunctions over the parts; those with a hypothesis speak of operations that answer an optional state. -/

set_option maxRecDepth 20000
set_option linter.all false

namespace Sys2Proof.Machine

@[simp] theorem ite_ident (c : Prop) [Decidable c] (a b : State) : (ite c a b).ident = ite c a.ident b.ident := apply_ite _ _ _ _
@[simp] theorem foldl_two_ident {α β : Type} (l : List α) (f : β × State → α → β × State) (h : ∀ t x, (f t x).2.ident = t.2.ident) (s : β × State) : (l.foldl f s).2.ident = s.2.ident := by
  induction l generalizing s with
  | nil => rfl
  | cons a l ih => simp [ih, h]
@[simp] theorem foldl_hop_ident {α : Type} (l : List α) (f : HopAcc → α → HopAcc) (h : ∀ t x, (f t x).st.ident = t.st.ident) (s : HopAcc) : (l.foldl f s).st.ident = s.st.ident := by
  induction l generalizing s with
  | nil => rfl
  | cons a l ih => simp [ih, h]
@[simp] theorem foldl_pue_ident {α : Type} (l : List α) (f : PueAcc → α → PueAcc) (h : ∀ t x, (f t x).st.ident = t.st.ident) (s : PueAcc) : (l.foldl f s).st.ident = s.st.ident := by
  induction l generalizing s with
  | nil => rfl
  | cons a l ih => simp [ih, h]
@[simp] theorem foldl_ident {α : Type} (l : List α) (f : State → α → State) (h : ∀ t x, (f t x).ident = t.ident) (s : State) : (l.foldl f s).ident = s.ident := by
  induction l generalizing s with
  | nil => rfl
  | cons a l ih => simp [ih, h]
@[simp] theorem ite_nv (c : Prop) [Decidable c] (a b : State) : (ite c a b).nv = ite c a.nv b.nv := apply_ite _ _ _ _
@[simp] theorem foldl_two_nv {α β : Type} (l : List α) (f : β × State → α → β × State) (h : ∀ t x, (f t x).2.nv = t.2.nv) (s : β × State) : (l.foldl f s).2.nv = s.2.nv := by
  induction l generalizing s with
  | nil => rfl
  | cons a l ih => simp [ih, h]
@[simp] theorem foldl_hop_nv {α : Type} (l : List α) (f : HopAcc → α → HopAcc) (h : ∀ t x, (f t x).st.nv = t.st.nv) (s : HopAcc) : (l.foldl f s).st.nv = s.st.nv := by
  induction l generalizing s with
  | nil => rfl
  | cons a l ih => simp [ih, h]
@[simp] theorem foldl_pue_nv {α : Type} (l : List α) (f : PueAcc → α → PueAcc) (h : ∀ t x, (f t x).st.nv = t.st.nv) (s : PueAcc) : (l.foldl f s).st.nv = s.st.nv := by
  induction l generalizing s with
  | nil => rfl
  | cons a l ih => simp [ih, h]
@[simp] theorem foldl_nv {α : Type} (l : List α) (f : State → α → State) (h : ∀ t x, (f t x).nv = t.nv) (s : State) : (l.foldl f s).nv = s.nv := by
  induction l generalizing s with
  | nil => rfl
  | cons a l ih => simp [ih, h]
@[simp] theorem ite_top (c : Prop) [Decidable c] (a b : State) : (ite c a b).top = ite c a.top b.top := apply_ite _ _ _ _
@[simp] theorem foldl_two_top {α β : Type} (l : List α) (f : β × State → α → β × State) (h : ∀ t x, (f t x).2.top = t.2.top) (s : β × State) : (l.foldl f s).2.top = s.2.top := by
  induction l generalizing s with
  | nil => rfl
  | cons a l ih => simp [ih, h]
@[simp] theorem foldl_hop_top {α : Type} (l : List α) (f : HopAcc → α → HopAcc) (h : ∀ t x, (f t x).st.top = t.st.top) (s : HopAcc) : (l.foldl f s).st.top = s.st.top := by
  induction l generalizing s with
  | nil => rfl
  | cons a l ih => simp [ih, h]
@[simp] theorem foldl_pue_top {α : Type} (l : List α) (f : PueAcc → α → PueAcc) (h : ∀ t x, (f t x).st.top = t.st.top) (s : PueAcc) : (l.foldl f s).st.top = s.st.top := by
  induction l generalizing s with
  | nil => rfl
  | cons a l ih => simp [ih, h]
@[simp] theorem foldl_top {α : Type} (l : List α) (f : State → α → State) (h : ∀ t x, (f t x).top = t.top) (s : State) : (l.foldl f s).top = s.top := by
  induction l generalizing s with
  | nil => rfl
  | cons a l ih => simp [ih, h]
@[simp] theorem ite_cores (c : Prop) [Decidable c] (a b : State) : (ite c a b).cores = ite c a.cores b.cores := apply_ite _ _ _ _
@[simp] theorem foldl_two_cores {α β : Type} (l : List α) (f : β × State → α → β × State) (h : ∀ t x, (f t x).2.cores = t.2.cores) (s : β × State) : (l.foldl f s).2.cores = s.2.cores := by
  induction l generalizing s with
  | nil => rfl
  | cons a l ih => simp [ih, h]
@[simp] theorem foldl_hop_cores {α : Type} (l : List α) (f : HopAcc → α → HopAcc) (h : ∀ t x, (f t x).st.cores = t.st.cores) (s : HopAcc) : (l.foldl f s).st.cores = s.st.cores := by
  induction l generalizing s with
  | nil => rfl
  | cons a l ih => simp [ih, h]
@[simp] theorem foldl_pue_cores {α : Type} (l : List α) (f : PueAcc → α → PueAcc) (h : ∀ t x, (f t x).st.cores = t.st.cores) (s : PueAcc) : (l.foldl f s).st.cores = s.st.cores := by
  induction l generalizing s with
  | nil => rfl
  | cons a l ih => simp [ih, h]
@[simp] theorem foldl_cores {α : Type} (l : List α) (f : State → α → State) (h : ∀ t x, (f t x).cores = t.cores) (s : State) : (l.foldl f s).cores = s.cores := by
  induction l generalizing s with
  | nil => rfl
  | cons a l ih => simp [ih, h]
@[simp] theorem ite_hub (c : Prop) [Decidable c] (a b : State) : (ite c a b).hub = ite c a.hub b.hub := apply_ite _ _ _ _
@[simp] theorem foldl_two_hub {α β : Type} (l : List α) (f : β × State → α → β × State) (h : ∀ t x, (f t x).2.hub = t.2.hub) (s : β × State) : (l.foldl f s).2.hub = s.2.hub := by
  induction l generalizing s with
  | nil => rfl
  | cons a l ih => simp [ih, h]
@[simp] theorem foldl_hop_hub {α : Type} (l : List α) (f : HopAcc → α → HopAcc) (h : ∀ t x, (f t x).st.hub = t.st.hub) (s : HopAcc) : (l.foldl f s).st.hub = s.st.hub := by
  induction l generalizing s with
  | nil => rfl
  | cons a l ih => simp [ih, h]
@[simp] theorem foldl_pue_hub {α : Type} (l : List α) (f : PueAcc → α → PueAcc) (h : ∀ t x, (f t x).st.hub = t.st.hub) (s : PueAcc) : (l.foldl f s).st.hub = s.st.hub := by
  induction l generalizing s with
  | nil => rfl
  | cons a l ih => simp [ih, h]
@[simp] theorem foldl_hub {α : Type} (l : List α) (f : State → α → State) (h : ∀ t x, (f t x).hub = t.hub) (s : State) : (l.foldl f s).hub = s.hub := by
  induction l generalizing s with
  | nil => rfl
  | cons a l ih => simp [ih, h]
@[simp] theorem ite_err (c : Prop) [Decidable c] (a b : State) : (ite c a b).err = ite c a.err b.err := apply_ite _ _ _ _
@[simp] theorem foldl_two_err {α β : Type} (l : List α) (f : β × State → α → β × State) (h : ∀ t x, (f t x).2.err = t.2.err) (s : β × State) : (l.foldl f s).2.err = s.2.err := by
  induction l generalizing s with
  | nil => rfl
  | cons a l ih => simp [ih, h]
@[simp] theorem foldl_hop_err {α : Type} (l : List α) (f : HopAcc → α → HopAcc) (h : ∀ t x, (f t x).st.err = t.st.err) (s : HopAcc) : (l.foldl f s).st.err = s.st.err := by
  induction l generalizing s with
  | nil => rfl
  | cons a l ih => simp [ih, h]
@[simp] theorem foldl_pue_err {α : Type} (l : List α) (f : PueAcc → α → PueAcc) (h : ∀ t x, (f t x).st.err = t.st.err) (s : PueAcc) : (l.foldl f s).st.err = s.st.err := by
  induction l generalizing s with
  | nil => rfl
  | cons a l ih => simp [ih, h]
@[simp] theorem foldl_err {α : Type} (l : List α) (f : State → α → State) (h : ∀ t x, (f t x).err = t.err) (s : State) : (l.foldl f s).err = s.err := by
  induction l generalizing s with
  | nil => rfl
  | cons a l ih => simp [ih, h]
@[simp] theorem ite_mem (c : Prop) [Decidable c] (a b : State) : (ite c a b).mem = ite c a.mem b.mem := apply_ite _ _ _ _
@[simp] theorem foldl_two_mem {α β : Type} (l : List α) (f : β × State → α → β × State) (h : ∀ t x, (f t x).2.mem = t.2.mem) (s : β × State) : (l.foldl f s).2.mem = s.2.mem := by
  induction l generalizing s with
  | nil => rfl
  | cons a l ih => simp [ih, h]
@[simp] theorem foldl_hop_mem {α : Type} (l : List α) (f : HopAcc → α → HopAcc) (h : ∀ t x, (f t x).st.mem = t.st.mem) (s : HopAcc) : (l.foldl f s).st.mem = s.st.mem := by
  induction l generalizing s with
  | nil => rfl
  | cons a l ih => simp [ih, h]
@[simp] theorem foldl_pue_mem {α : Type} (l : List α) (f : PueAcc → α → PueAcc) (h : ∀ t x, (f t x).st.mem = t.st.mem) (s : PueAcc) : (l.foldl f s).st.mem = s.st.mem := by
  induction l generalizing s with
  | nil => rfl
  | cons a l ih => simp [ih, h]
@[simp] theorem foldl_mem {α : Type} (l : List α) (f : State → α → State) (h : ∀ t x, (f t x).mem = t.mem) (s : State) : (l.foldl f s).mem = s.mem := by
  induction l generalizing s with
  | nil => rfl
  | cons a l ih => simp [ih, h]
@[simp] theorem ite_cle (c : Prop) [Decidable c] (a b : State) : (ite c a b).cle = ite c a.cle b.cle := apply_ite _ _ _ _
@[simp] theorem foldl_two_cle {α β : Type} (l : List α) (f : β × State → α → β × State) (h : ∀ t x, (f t x).2.cle = t.2.cle) (s : β × State) : (l.foldl f s).2.cle = s.2.cle := by
  induction l generalizing s with
  | nil => rfl
  | cons a l ih => simp [ih, h]
@[simp] theorem foldl_hop_cle {α : Type} (l : List α) (f : HopAcc → α → HopAcc) (h : ∀ t x, (f t x).st.cle = t.st.cle) (s : HopAcc) : (l.foldl f s).st.cle = s.st.cle := by
  induction l generalizing s with
  | nil => rfl
  | cons a l ih => simp [ih, h]
@[simp] theorem foldl_pue_cle {α : Type} (l : List α) (f : PueAcc → α → PueAcc) (h : ∀ t x, (f t x).st.cle = t.st.cle) (s : PueAcc) : (l.foldl f s).st.cle = s.st.cle := by
  induction l generalizing s with
  | nil => rfl
  | cons a l ih => simp [ih, h]
@[simp] theorem foldl_cle {α : Type} (l : List α) (f : State → α → State) (h : ∀ t x, (f t x).cle = t.cle) (s : State) : (l.foldl f s).cle = s.cle := by
  induction l generalizing s with
  | nil => rfl
  | cons a l ih => simp [ih, h]
@[simp] theorem ite_pue0 (c : Prop) [Decidable c] (a b : State) : (ite c a b).pue0 = ite c a.pue0 b.pue0 := apply_ite _ _ _ _
@[simp] theorem foldl_two_pue0 {α β : Type} (l : List α) (f : β × State → α → β × State) (h : ∀ t x, (f t x).2.pue0 = t.2.pue0) (s : β × State) : (l.foldl f s).2.pue0 = s.2.pue0 := by
  induction l generalizing s with
  | nil => rfl
  | cons a l ih => simp [ih, h]
@[simp] theorem foldl_hop_pue0 {α : Type} (l : List α) (f : HopAcc → α → HopAcc) (h : ∀ t x, (f t x).st.pue0 = t.st.pue0) (s : HopAcc) : (l.foldl f s).st.pue0 = s.st.pue0 := by
  induction l generalizing s with
  | nil => rfl
  | cons a l ih => simp [ih, h]
@[simp] theorem foldl_pue_pue0 {α : Type} (l : List α) (f : PueAcc → α → PueAcc) (h : ∀ t x, (f t x).st.pue0 = t.st.pue0) (s : PueAcc) : (l.foldl f s).st.pue0 = s.st.pue0 := by
  induction l generalizing s with
  | nil => rfl
  | cons a l ih => simp [ih, h]
@[simp] theorem foldl_pue0 {α : Type} (l : List α) (f : State → α → State) (h : ∀ t x, (f t x).pue0 = t.pue0) (s : State) : (l.foldl f s).pue0 = s.pue0 := by
  induction l generalizing s with
  | nil => rfl
  | cons a l ih => simp [ih, h]
@[simp] theorem ite_pue1 (c : Prop) [Decidable c] (a b : State) : (ite c a b).pue1 = ite c a.pue1 b.pue1 := apply_ite _ _ _ _
@[simp] theorem foldl_two_pue1 {α β : Type} (l : List α) (f : β × State → α → β × State) (h : ∀ t x, (f t x).2.pue1 = t.2.pue1) (s : β × State) : (l.foldl f s).2.pue1 = s.2.pue1 := by
  induction l generalizing s with
  | nil => rfl
  | cons a l ih => simp [ih, h]
@[simp] theorem foldl_hop_pue1 {α : Type} (l : List α) (f : HopAcc → α → HopAcc) (h : ∀ t x, (f t x).st.pue1 = t.st.pue1) (s : HopAcc) : (l.foldl f s).st.pue1 = s.st.pue1 := by
  induction l generalizing s with
  | nil => rfl
  | cons a l ih => simp [ih, h]
@[simp] theorem foldl_pue_pue1 {α : Type} (l : List α) (f : PueAcc → α → PueAcc) (h : ∀ t x, (f t x).st.pue1 = t.st.pue1) (s : PueAcc) : (l.foldl f s).st.pue1 = s.st.pue1 := by
  induction l generalizing s with
  | nil => rfl
  | cons a l ih => simp [ih, h]
@[simp] theorem foldl_pue1 {α : Type} (l : List α) (f : State → α → State) (h : ∀ t x, (f t x).pue1 = t.pue1) (s : State) : (l.foldl f s).pue1 = s.pue1 := by
  induction l generalizing s with
  | nil => rfl
  | cons a l ih => simp [ih, h]
@[simp] theorem ite_cke (c : Prop) [Decidable c] (a b : State) : (ite c a b).cke = ite c a.cke b.cke := apply_ite _ _ _ _
@[simp] theorem foldl_two_cke {α β : Type} (l : List α) (f : β × State → α → β × State) (h : ∀ t x, (f t x).2.cke = t.2.cke) (s : β × State) : (l.foldl f s).2.cke = s.2.cke := by
  induction l generalizing s with
  | nil => rfl
  | cons a l ih => simp [ih, h]
@[simp] theorem foldl_hop_cke {α : Type} (l : List α) (f : HopAcc → α → HopAcc) (h : ∀ t x, (f t x).st.cke = t.st.cke) (s : HopAcc) : (l.foldl f s).st.cke = s.st.cke := by
  induction l generalizing s with
  | nil => rfl
  | cons a l ih => simp [ih, h]
@[simp] theorem foldl_pue_cke {α : Type} (l : List α) (f : PueAcc → α → PueAcc) (h : ∀ t x, (f t x).st.cke = t.st.cke) (s : PueAcc) : (l.foldl f s).st.cke = s.st.cke := by
  induction l generalizing s with
  | nil => rfl
  | cons a l ih => simp [ih, h]
@[simp] theorem foldl_cke {α : Type} (l : List α) (f : State → α → State) (h : ∀ t x, (f t x).cke = t.cke) (s : State) : (l.foldl f s).cke = s.cke := by
  induction l generalizing s with
  | nil => rfl
  | cons a l ih => simp [ih, h]
@[simp] theorem ite_pwr (c : Prop) [Decidable c] (a b : State) : (ite c a b).pwr = ite c a.pwr b.pwr := apply_ite _ _ _ _
@[simp] theorem foldl_two_pwr {α β : Type} (l : List α) (f : β × State → α → β × State) (h : ∀ t x, (f t x).2.pwr = t.2.pwr) (s : β × State) : (l.foldl f s).2.pwr = s.2.pwr := by
  induction l generalizing s with
  | nil => rfl
  | cons a l ih => simp [ih, h]
@[simp] theorem foldl_hop_pwr {α : Type} (l : List α) (f : HopAcc → α → HopAcc) (h : ∀ t x, (f t x).st.pwr = t.st.pwr) (s : HopAcc) : (l.foldl f s).st.pwr = s.st.pwr := by
  induction l generalizing s with
  | nil => rfl
  | cons a l ih => simp [ih, h]
@[simp] theorem foldl_pue_pwr {α : Type} (l : List α) (f : PueAcc → α → PueAcc) (h : ∀ t x, (f t x).st.pwr = t.st.pwr) (s : PueAcc) : (l.foldl f s).st.pwr = s.st.pwr := by
  induction l generalizing s with
  | nil => rfl
  | cons a l ih => simp [ih, h]
@[simp] theorem foldl_pwr {α : Type} (l : List α) (f : State → α → State) (h : ∀ t x, (f t x).pwr = t.pwr) (s : State) : (l.foldl f s).pwr = s.pwr := by
  induction l generalizing s with
  | nil => rfl
  | cons a l ih => simp [ih, h]
@[simp] theorem ite_fab (c : Prop) [Decidable c] (a b : State) : (ite c a b).fab = ite c a.fab b.fab := apply_ite _ _ _ _
@[simp] theorem foldl_two_fab {α β : Type} (l : List α) (f : β × State → α → β × State) (h : ∀ t x, (f t x).2.fab = t.2.fab) (s : β × State) : (l.foldl f s).2.fab = s.2.fab := by
  induction l generalizing s with
  | nil => rfl
  | cons a l ih => simp [ih, h]
@[simp] theorem foldl_hop_fab {α : Type} (l : List α) (f : HopAcc → α → HopAcc) (h : ∀ t x, (f t x).st.fab = t.st.fab) (s : HopAcc) : (l.foldl f s).st.fab = s.st.fab := by
  induction l generalizing s with
  | nil => rfl
  | cons a l ih => simp [ih, h]
@[simp] theorem foldl_pue_fab {α : Type} (l : List α) (f : PueAcc → α → PueAcc) (h : ∀ t x, (f t x).st.fab = t.st.fab) (s : PueAcc) : (l.foldl f s).st.fab = s.st.fab := by
  induction l generalizing s with
  | nil => rfl
  | cons a l ih => simp [ih, h]
@[simp] theorem foldl_fab {α : Type} (l : List α) (f : State → α → State) (h : ∀ t x, (f t x).fab = t.fab) (s : State) : (l.foldl f s).fab = s.fab := by
  induction l generalizing s with
  | nil => rfl
  | cons a l ih => simp [ih, h]
@[simp] theorem ite_pmu (c : Prop) [Decidable c] (a b : State) : (ite c a b).pmu = ite c a.pmu b.pmu := apply_ite _ _ _ _
@[simp] theorem foldl_two_pmu {α β : Type} (l : List α) (f : β × State → α → β × State) (h : ∀ t x, (f t x).2.pmu = t.2.pmu) (s : β × State) : (l.foldl f s).2.pmu = s.2.pmu := by
  induction l generalizing s with
  | nil => rfl
  | cons a l ih => simp [ih, h]
@[simp] theorem foldl_hop_pmu {α : Type} (l : List α) (f : HopAcc → α → HopAcc) (h : ∀ t x, (f t x).st.pmu = t.st.pmu) (s : HopAcc) : (l.foldl f s).st.pmu = s.st.pmu := by
  induction l generalizing s with
  | nil => rfl
  | cons a l ih => simp [ih, h]
@[simp] theorem foldl_pue_pmu {α : Type} (l : List α) (f : PueAcc → α → PueAcc) (h : ∀ t x, (f t x).st.pmu = t.st.pmu) (s : PueAcc) : (l.foldl f s).st.pmu = s.st.pmu := by
  induction l generalizing s with
  | nil => rfl
  | cons a l ih => simp [ih, h]
@[simp] theorem foldl_pmu {α : Type} (l : List α) (f : State → α → State) (h : ∀ t x, (f t x).pmu = t.pmu) (s : State) : (l.foldl f s).pmu = s.pmu := by
  induction l generalizing s with
  | nil => rfl
  | cons a l ih => simp [ih, h]
@[simp] theorem ite_mss (c : Prop) [Decidable c] (a b : State) : (ite c a b).mss = ite c a.mss b.mss := apply_ite _ _ _ _
@[simp] theorem foldl_two_mss {α β : Type} (l : List α) (f : β × State → α → β × State) (h : ∀ t x, (f t x).2.mss = t.2.mss) (s : β × State) : (l.foldl f s).2.mss = s.2.mss := by
  induction l generalizing s with
  | nil => rfl
  | cons a l ih => simp [ih, h]
@[simp] theorem foldl_hop_mss {α : Type} (l : List α) (f : HopAcc → α → HopAcc) (h : ∀ t x, (f t x).st.mss = t.st.mss) (s : HopAcc) : (l.foldl f s).st.mss = s.st.mss := by
  induction l generalizing s with
  | nil => rfl
  | cons a l ih => simp [ih, h]
@[simp] theorem foldl_pue_mss {α : Type} (l : List α) (f : PueAcc → α → PueAcc) (h : ∀ t x, (f t x).st.mss = t.st.mss) (s : PueAcc) : (l.foldl f s).st.mss = s.st.mss := by
  induction l generalizing s with
  | nil => rfl
  | cons a l ih => simp [ih, h]
@[simp] theorem foldl_mss {α : Type} (l : List α) (f : State → α → State) (h : ∀ t x, (f t x).mss = t.mss) (s : State) : (l.foldl f s).mss = s.mss := by
  induction l generalizing s with
  | nil => rfl
  | cons a l ih => simp [ih, h]
@[simp] theorem ite_sent (c : Prop) [Decidable c] (a b : State) : (ite c a b).sent = ite c a.sent b.sent := apply_ite _ _ _ _
@[simp] theorem foldl_two_sent {α β : Type} (l : List α) (f : β × State → α → β × State) (h : ∀ t x, (f t x).2.sent = t.2.sent) (s : β × State) : (l.foldl f s).2.sent = s.2.sent := by
  induction l generalizing s with
  | nil => rfl
  | cons a l ih => simp [ih, h]
@[simp] theorem foldl_hop_sent {α : Type} (l : List α) (f : HopAcc → α → HopAcc) (h : ∀ t x, (f t x).st.sent = t.st.sent) (s : HopAcc) : (l.foldl f s).st.sent = s.st.sent := by
  induction l generalizing s with
  | nil => rfl
  | cons a l ih => simp [ih, h]
@[simp] theorem foldl_pue_sent {α : Type} (l : List α) (f : PueAcc → α → PueAcc) (h : ∀ t x, (f t x).st.sent = t.st.sent) (s : PueAcc) : (l.foldl f s).st.sent = s.st.sent := by
  induction l generalizing s with
  | nil => rfl
  | cons a l ih => simp [ih, h]
@[simp] theorem foldl_sent {α : Type} (l : List α) (f : State → α → State) (h : ∀ t x, (f t x).sent = t.sent) (s : State) : (l.foldl f s).sent = s.sent := by
  induction l generalizing s with
  | nil => rfl
  | cons a l ih => simp [ih, h]
@[simp] theorem ite_fresh (c : Prop) [Decidable c] (a b : State) : (ite c a b).fresh = ite c a.fresh b.fresh := apply_ite _ _ _ _
@[simp] theorem foldl_two_fresh {α β : Type} (l : List α) (f : β × State → α → β × State) (h : ∀ t x, (f t x).2.fresh = t.2.fresh) (s : β × State) : (l.foldl f s).2.fresh = s.2.fresh := by
  induction l generalizing s with
  | nil => rfl
  | cons a l ih => simp [ih, h]
@[simp] theorem foldl_hop_fresh {α : Type} (l : List α) (f : HopAcc → α → HopAcc) (h : ∀ t x, (f t x).st.fresh = t.st.fresh) (s : HopAcc) : (l.foldl f s).st.fresh = s.st.fresh := by
  induction l generalizing s with
  | nil => rfl
  | cons a l ih => simp [ih, h]
@[simp] theorem foldl_pue_fresh {α : Type} (l : List α) (f : PueAcc → α → PueAcc) (h : ∀ t x, (f t x).st.fresh = t.st.fresh) (s : PueAcc) : (l.foldl f s).st.fresh = s.st.fresh := by
  induction l generalizing s with
  | nil => rfl
  | cons a l ih => simp [ih, h]
@[simp] theorem foldl_fresh {α : Type} (l : List α) (f : State → α → State) (h : ∀ t x, (f t x).fresh = t.fresh) (s : State) : (l.foldl f s).fresh = s.fresh := by
  induction l generalizing s with
  | nil => rfl
  | cons a l ih => simp [ih, h]
@[simp] theorem ite_routineIds (c : Prop) [Decidable c] (a b : State) : (ite c a b).routineIds = ite c a.routineIds b.routineIds := apply_ite _ _ _ _
@[simp] theorem foldl_two_routineIds {α β : Type} (l : List α) (f : β × State → α → β × State) (h : ∀ t x, (f t x).2.routineIds = t.2.routineIds) (s : β × State) : (l.foldl f s).2.routineIds = s.2.routineIds := by
  induction l generalizing s with
  | nil => rfl
  | cons a l ih => simp [ih, h]
@[simp] theorem foldl_hop_routineIds {α : Type} (l : List α) (f : HopAcc → α → HopAcc) (h : ∀ t x, (f t x).st.routineIds = t.st.routineIds) (s : HopAcc) : (l.foldl f s).st.routineIds = s.st.routineIds := by
  induction l generalizing s with
  | nil => rfl
  | cons a l ih => simp [ih, h]
@[simp] theorem foldl_pue_routineIds {α : Type} (l : List α) (f : PueAcc → α → PueAcc) (h : ∀ t x, (f t x).st.routineIds = t.st.routineIds) (s : PueAcc) : (l.foldl f s).st.routineIds = s.st.routineIds := by
  induction l generalizing s with
  | nil => rfl
  | cons a l ih => simp [ih, h]
@[simp] theorem foldl_routineIds {α : Type} (l : List α) (f : State → α → State) (h : ∀ t x, (f t x).routineIds = t.routineIds) (s : State) : (l.foldl f s).routineIds = s.routineIds := by
  induction l generalizing s with
  | nil => rfl
  | cons a l ih => simp [ih, h]
@[simp] theorem ite_pending (c : Prop) [Decidable c] (a b : State) : (ite c a b).pending = ite c a.pending b.pending := apply_ite _ _ _ _
@[simp] theorem foldl_two_pending {α β : Type} (l : List α) (f : β × State → α → β × State) (h : ∀ t x, (f t x).2.pending = t.2.pending) (s : β × State) : (l.foldl f s).2.pending = s.2.pending := by
  induction l generalizing s with
  | nil => rfl
  | cons a l ih => simp [ih, h]
@[simp] theorem foldl_hop_pending {α : Type} (l : List α) (f : HopAcc → α → HopAcc) (h : ∀ t x, (f t x).st.pending = t.st.pending) (s : HopAcc) : (l.foldl f s).st.pending = s.st.pending := by
  induction l generalizing s with
  | nil => rfl
  | cons a l ih => simp [ih, h]
@[simp] theorem foldl_pue_pending {α : Type} (l : List α) (f : PueAcc → α → PueAcc) (h : ∀ t x, (f t x).st.pending = t.st.pending) (s : PueAcc) : (l.foldl f s).st.pending = s.st.pending := by
  induction l generalizing s with
  | nil => rfl
  | cons a l ih => simp [ih, h]
@[simp] theorem foldl_pending {α : Type} (l : List α) (f : State → α → State) (h : ∀ t x, (f t x).pending = t.pending) (s : State) : (l.foldl f s).pending = s.pending := by
  induction l generalizing s with
  | nil => rfl
  | cons a l ih => simp [ih, h]
@[simp] theorem State.setCore_frame (a1 : State) (a2) (a3) : (State.setCore a1 a2 a3).ident = a1.ident ∧ (State.setCore a1 a2 a3).nv = a1.nv ∧ (State.setCore a1 a2 a3).top = a1.top ∧ (State.setCore a1 a2 a3).hub = a1.hub ∧ (State.setCore a1 a2 a3).err = a1.err ∧ (State.setCore a1 a2 a3).mem = a1.mem ∧ (State.setCore a1 a2 a3).cle = a1.cle ∧ (State.setCore a1 a2 a3).pue0 = a1.pue0 ∧ (State.setCore a1 a2 a3).pue1 = a1.pue1 ∧ (State.setCore a1 a2 a3).cke = a1.cke ∧ (State.setCore a1 a2 a3).pwr = a1.pwr ∧ (State.setCore a1 a2 a3).fab = a1.fab ∧ (State.setCore a1 a2 a3).pmu = a1.pmu ∧ (State.setCore a1 a2 a3).mss = a1.mss ∧ (State.setCore a1 a2 a3).sent = a1.sent ∧ (State.setCore a1 a2 a3).fresh = a1.fresh ∧ (State.setCore a1 a2 a3).routineIds = a1.routineIds ∧ (State.setCore a1 a2 a3).pending = a1.pending := by
  simp [State.setCore]
@[simp] theorem State.modCore_frame (a1 : State) (a2) (a3) : (State.modCore a1 a2 a3).ident = a1.ident ∧ (State.modCore a1 a2 a3).nv = a1.nv ∧ (State.modCore a1 a2 a3).top = a1.top ∧ (State.modCore a1 a2 a3).hub = a1.hub ∧ (State.modCore a1 a2 a3).err = a1.err ∧ (State.modCore a1 a2 a3).mem = a1.mem ∧ (State.modCore a1 a2 a3).cle = a1.cle ∧ (State.modCore a1 a2 a3).pue0 = a1.pue0 ∧ (State.modCore a1 a2 a3).pue1 = a1.pue1 ∧ (State.modCore a1 a2 a3).cke = a1.cke ∧ (State.modCore a1 a2 a3).pwr = a1.pwr ∧ (State.modCore a1 a2 a3).fab = a1.fab ∧ (State.modCore a1 a2 a3).pmu = a1.pmu ∧ (State.modCore a1 a2 a3).mss = a1.mss ∧ (State.modCore a1 a2 a3).sent = a1.sent ∧ (State.modCore a1 a2 a3).fresh = a1.fresh ∧ (State.modCore a1 a2 a3).routineIds = a1.routineIds ∧ (State.modCore a1 a2 a3).pending = a1.pending := by
  simp [State.modCore]
@[simp] theorem State.free_frame (a1 : State) : (State.free a1).2.ident = a1.ident ∧ (State.free a1).2.nv = a1.nv ∧ (State.free a1).2.top = a1.top ∧ (State.free a1).2.cores = a1.cores ∧ (State.free a1).2.hub = a1.hub ∧ (State.free a1).2.err = a1.err ∧ (State.free a1).2.mem = a1.mem ∧ (State.free a1).2.cle = a1.cle ∧ (State.free a1).2.pue0 = a1.pue0 ∧ (State.free a1).2.pue1 = a1.pue1 ∧ (State.free a1).2.cke = a1.cke ∧ (State.free a1).2.pwr = a1.pwr ∧ (State.free a1).2.fab = a1.fab ∧ (State.free a1).2.pmu = a1.pmu ∧ (State.free a1).2.mss = a1.mss ∧ (State.free a1).2.sent = a1.sent ∧ (State.free a1).2.routineIds = a1.routineIds ∧ (State.free a1).2.pending = a1.pending := by
  simp [State.free]
@[simp] theorem State.emit_frame (a1 : State) (a2) : (State.emit a1 a2).ident = a1.ident ∧ (State.emit a1 a2).nv = a1.nv ∧ (State.emit a1 a2).top = a1.top ∧ (State.emit a1 a2).cores = a1.cores ∧ (State.emit a1 a2).hub = a1.hub ∧ (State.emit a1 a2).err = a1.err ∧ (State.emit a1 a2).mem = a1.mem ∧ (State.emit a1 a2).cle = a1.cle ∧ (State.emit a1 a2).pue0 = a1.pue0 ∧ (State.emit a1 a2).pue1 = a1.pue1 ∧ (State.emit a1 a2).cke = a1.cke ∧ (State.emit a1 a2).pwr = a1.pwr ∧ (State.emit a1 a2).fab = a1.fab ∧ (State.emit a1 a2).pmu = a1.pmu ∧ (State.emit a1 a2).mss = a1.mss ∧ (State.emit a1 a2).fresh = a1.fresh ∧ (State.emit a1 a2).routineIds = a1.routineIds ∧ (State.emit a1 a2).pending = a1.pending := by
  simp [State.emit]
@[simp] theorem State.sendMsix_frame (a1 : State) (a2) : (State.sendMsix a1 a2).ident = a1.ident ∧ (State.sendMsix a1 a2).nv = a1.nv ∧ (State.sendMsix a1 a2).top = a1.top ∧ (State.sendMsix a1 a2).cores = a1.cores ∧ (State.sendMsix a1 a2).err = a1.err ∧ (State.sendMsix a1 a2).mem = a1.mem ∧ (State.sendMsix a1 a2).cle = a1.cle ∧ (State.sendMsix a1 a2).pue0 = a1.pue0 ∧ (State.sendMsix a1 a2).pue1 = a1.pue1 ∧ (State.sendMsix a1 a2).cke = a1.cke ∧ (State.sendMsix a1 a2).pwr = a1.pwr ∧ (State.sendMsix a1 a2).fab = a1.fab ∧ (State.sendMsix a1 a2).pmu = a1.pmu ∧ (State.sendMsix a1 a2).mss = a1.mss ∧ (State.sendMsix a1 a2).fresh = a1.fresh ∧ (State.sendMsix a1 a2).routineIds = a1.routineIds ∧ (State.sendMsix a1 a2).pending = a1.pending := by
  simp [State.sendMsix]
@[simp] theorem State.raiseVec_frame (a1 : State) (a2) : (State.raiseVec a1 a2).ident = a1.ident ∧ (State.raiseVec a1 a2).nv = a1.nv ∧ (State.raiseVec a1 a2).top = a1.top ∧ (State.raiseVec a1 a2).cores = a1.cores ∧ (State.raiseVec a1 a2).err = a1.err ∧ (State.raiseVec a1 a2).mem = a1.mem ∧ (State.raiseVec a1 a2).cle = a1.cle ∧ (State.raiseVec a1 a2).pue0 = a1.pue0 ∧ (State.raiseVec a1 a2).pue1 = a1.pue1 ∧ (State.raiseVec a1 a2).cke = a1.cke ∧ (State.raiseVec a1 a2).pwr = a1.pwr ∧ (State.raiseVec a1 a2).fab = a1.fab ∧ (State.raiseVec a1 a2).pmu = a1.pmu ∧ (State.raiseVec a1 a2).mss = a1.mss ∧ (State.raiseVec a1 a2).fresh = a1.fresh ∧ (State.raiseVec a1 a2).routineIds = a1.routineIds ∧ (State.raiseVec a1 a2).pending = a1.pending := by
  simp [State.raiseVec]
@[simp] theorem fireBind_frame (a1 : State) (a2) : (fireBind a1 a2).ident = a1.ident ∧ (fireBind a1 a2).nv = a1.nv ∧ (fireBind a1 a2).top = a1.top ∧ (fireBind a1 a2).cores = a1.cores ∧ (fireBind a1 a2).err = a1.err ∧ (fireBind a1 a2).mem = a1.mem ∧ (fireBind a1 a2).cle = a1.cle ∧ (fireBind a1 a2).pue0 = a1.pue0 ∧ (fireBind a1 a2).pue1 = a1.pue1 ∧ (fireBind a1 a2).cke = a1.cke ∧ (fireBind a1 a2).pwr = a1.pwr ∧ (fireBind a1 a2).fab = a1.fab ∧ (fireBind a1 a2).pmu = a1.pmu ∧ (fireBind a1 a2).mss = a1.mss ∧ (fireBind a1 a2).fresh = a1.fresh ∧ (fireBind a1 a2).routineIds = a1.routineIds ∧ (fireBind a1 a2).pending = a1.pending := by
  simp [fireBind]
@[simp] theorem fireBinds_frame (a1 : State) : (fireBinds a1).ident = a1.ident ∧ (fireBinds a1).nv = a1.nv ∧ (fireBinds a1).top = a1.top ∧ (fireBinds a1).cores = a1.cores ∧ (fireBinds a1).err = a1.err ∧ (fireBinds a1).mem = a1.mem ∧ (fireBinds a1).cle = a1.cle ∧ (fireBinds a1).pue0 = a1.pue0 ∧ (fireBinds a1).pue1 = a1.pue1 ∧ (fireBinds a1).cke = a1.cke ∧ (fireBinds a1).pwr = a1.pwr ∧ (fireBinds a1).fab = a1.fab ∧ (fireBinds a1).pmu = a1.pmu ∧ (fireBinds a1).mss = a1.mss ∧ (fireBinds a1).fresh = a1.fresh ∧ (fireBinds a1).routineIds = a1.routineIds ∧ (fireBinds a1).pending = a1.pending := by
  simp [fireBinds]
@[simp] theorem State.addHubFlag_frame (a1 : State) (a2) (a3) : (State.addHubFlag a1 a2 a3).ident = a1.ident ∧ (State.addHubFlag a1 a2 a3).nv = a1.nv ∧ (State.addHubFlag a1 a2 a3).top = a1.top ∧ (State.addHubFlag a1 a2 a3).cores = a1.cores ∧ (State.addHubFlag a1 a2 a3).err = a1.err ∧ (State.addHubFlag a1 a2 a3).mem = a1.mem ∧ (State.addHubFlag a1 a2 a3).cle = a1.cle ∧ (State.addHubFlag a1 a2 a3).pue0 = a1.pue0 ∧ (State.addHubFlag a1 a2 a3).pue1 = a1.pue1 ∧ (State.addHubFlag a1 a2 a3).cke = a1.cke ∧ (State.addHubFlag a1 a2 a3).pwr = a1.pwr ∧ (State.addHubFlag a1 a2 a3).fab = a1.fab ∧ (State.addHubFlag a1 a2 a3).mss = a1.mss ∧ (State.addHubFlag a1 a2 a3).fresh = a1.fresh ∧ (State.addHubFlag a1 a2 a3).routineIds = a1.routineIds ∧ (State.addHubFlag a1 a2 a3).pending = a1.pending := by
  simp [State.addHubFlag]
@[simp] theorem State.addCoreFlag_frame (a1 : State) (a2) (a3) (a4) : (State.addCoreFlag a1 a2 a3 a4).ident = a1.ident ∧ (State.addCoreFlag a1 a2 a3 a4).nv = a1.nv ∧ (State.addCoreFlag a1 a2 a3 a4).top = a1.top ∧ (State.addCoreFlag a1 a2 a3 a4).hub = a1.hub ∧ (State.addCoreFlag a1 a2 a3 a4).err = a1.err ∧ (State.addCoreFlag a1 a2 a3 a4).mem = a1.mem ∧ (State.addCoreFlag a1 a2 a3 a4).cle = a1.cle ∧ (State.addCoreFlag a1 a2 a3 a4).pue0 = a1.pue0 ∧ (State.addCoreFlag a1 a2 a3 a4).pue1 = a1.pue1 ∧ (State.addCoreFlag a1 a2 a3 a4).cke = a1.cke ∧ (State.addCoreFlag a1 a2 a3 a4).pwr = a1.pwr ∧ (State.addCoreFlag a1 a2 a3 a4).fab = a1.fab ∧ (State.addCoreFlag a1 a2 a3 a4).pmu = a1.pmu ∧ (State.addCoreFlag a1 a2 a3 a4).mss = a1.mss ∧ (State.addCoreFlag a1 a2 a3 a4).sent = a1.sent ∧ (State.addCoreFlag a1 a2 a3 a4).fresh = a1.fresh ∧ (State.addCoreFlag a1 a2 a3 a4).routineIds = a1.routineIds ∧ (State.addCoreFlag a1 a2 a3 a4).pending = a1.pending := by
  simp [State.addCoreFlag]
@[simp] theorem State.cntCarry_frame (a1 : State) (a2) : (State.cntCarry a1 a2).ident = a1.ident ∧ (State.cntCarry a1 a2).nv = a1.nv ∧ (State.cntCarry a1 a2).top = a1.top ∧ (State.cntCarry a1 a2).cores = a1.cores ∧ (State.cntCarry a1 a2).err = a1.err ∧ (State.cntCarry a1 a2).mem = a1.mem ∧ (State.cntCarry a1 a2).cle = a1.cle ∧ (State.cntCarry a1 a2).pue0 = a1.pue0 ∧ (State.cntCarry a1 a2).pue1 = a1.pue1 ∧ (State.cntCarry a1 a2).cke = a1.cke ∧ (State.cntCarry a1 a2).pwr = a1.pwr ∧ (State.cntCarry a1 a2).fab = a1.fab ∧ (State.cntCarry a1 a2).mss = a1.mss ∧ (State.cntCarry a1 a2).fresh = a1.fresh ∧ (State.cntCarry a1 a2).routineIds = a1.routineIds ∧ (State.cntCarry a1 a2).pending = a1.pending := by
  simp [State.cntCarry]
@[simp] theorem State.bumpHub_frame (a1 : State) (a2) (a3) : (State.bumpHub a1 a2 a3).ident = a1.ident ∧ (State.bumpHub a1 a2 a3).nv = a1.nv ∧ (State.bumpHub a1 a2 a3).top = a1.top ∧ (State.bumpHub a1 a2 a3).cores = a1.cores ∧ (State.bumpHub a1 a2 a3).err = a1.err ∧ (State.bumpHub a1 a2 a3).mem = a1.mem ∧ (State.bumpHub a1 a2 a3).cle = a1.cle ∧ (State.bumpHub a1 a2 a3).pue0 = a1.pue0 ∧ (State.bumpHub a1 a2 a3).pue1 = a1.pue1 ∧ (State.bumpHub a1 a2 a3).cke = a1.cke ∧ (State.bumpHub a1 a2 a3).pwr = a1.pwr ∧ (State.bumpHub a1 a2 a3).fab = a1.fab ∧ (State.bumpHub a1 a2 a3).mss = a1.mss ∧ (State.bumpHub a1 a2 a3).fresh = a1.fresh ∧ (State.bumpHub a1 a2 a3).routineIds = a1.routineIds ∧ (State.bumpHub a1 a2 a3).pending = a1.pending := by
  simp [State.bumpHub]
@[simp] theorem State.countHub_frame (a1 : State) (a2) (a3) (a4) : (State.countHub a1 a2 a3 a4).ident = a1.ident ∧ (State.countHub a1 a2 a3 a4).nv = a1.nv ∧ (State.countHub a1 a2 a3 a4).top = a1.top ∧ (State.countHub a1 a2 a3 a4).cores = a1.cores ∧ (State.countHub a1 a2 a3 a4).err = a1.err ∧ (State.countHub a1 a2 a3 a4).mem = a1.mem ∧ (State.countHub a1 a2 a3 a4).cle = a1.cle ∧ (State.countHub a1 a2 a3 a4).pue0 = a1.pue0 ∧ (State.countHub a1 a2 a3 a4).pue1 = a1.pue1 ∧ (State.countHub a1 a2 a3 a4).cke = a1.cke ∧ (State.countHub a1 a2 a3 a4).pwr = a1.pwr ∧ (State.countHub a1 a2 a3 a4).fab = a1.fab ∧ (State.countHub a1 a2 a3 a4).mss = a1.mss ∧ (State.countHub a1 a2 a3 a4).fresh = a1.fresh ∧ (State.countHub a1 a2 a3 a4).routineIds = a1.routineIds ∧ (State.countHub a1 a2 a3 a4).pending = a1.pending := by
  simp [State.countHub]
@[simp] theorem State.bumpCore_frame (a1 : State) (a2) (a3) (a4) (a5) : (State.bumpCore a1 a2 a3 a4 a5).ident = a1.ident ∧ (State.bumpCore a1 a2 a3 a4 a5).nv = a1.nv ∧ (State.bumpCore a1 a2 a3 a4 a5).top = a1.top ∧ (State.bumpCore a1 a2 a3 a4 a5).err = a1.err ∧ (State.bumpCore a1 a2 a3 a4 a5).mem = a1.mem ∧ (State.bumpCore a1 a2 a3 a4 a5).cle = a1.cle ∧ (State.bumpCore a1 a2 a3 a4 a5).pue0 = a1.pue0 ∧ (State.bumpCore a1 a2 a3 a4 a5).pue1 = a1.pue1 ∧ (State.bumpCore a1 a2 a3 a4 a5).cke = a1.cke ∧ (State.bumpCore a1 a2 a3 a4 a5).pwr = a1.pwr ∧ (State.bumpCore a1 a2 a3 a4 a5).fab = a1.fab ∧ (State.bumpCore a1 a2 a3 a4 a5).mss = a1.mss ∧ (State.bumpCore a1 a2 a3 a4 a5).fresh = a1.fresh ∧ (State.bumpCore a1 a2 a3 a4 a5).routineIds = a1.routineIds ∧ (State.bumpCore a1 a2 a3 a4 a5).pending = a1.pending := by
  simp [State.bumpCore]
@[simp] theorem State.countCore_frame (a1 : State) (a2) (a3) (a4) (a5) (a6) : (State.countCore a1 a2 a3 a4 a5 a6).ident = a1.ident ∧ (State.countCore a1 a2 a3 a4 a5 a6).nv = a1.nv ∧ (State.countCore a1 a2 a3 a4 a5 a6).top = a1.top ∧ (State.countCore a1 a2 a3 a4 a5 a6).err = a1.err ∧ (State.countCore a1 a2 a3 a4 a5 a6).mem = a1.mem ∧ (State.countCore a1 a2 a3 a4 a5 a6).cle = a1.cle ∧ (State.countCore a1 a2 a3 a4 a5 a6).pue0 = a1.pue0 ∧ (State.countCore a1 a2 a3 a4 a5 a6).pue1 = a1.pue1 ∧ (State.countCore a1 a2 a3 a4 a5 a6).cke = a1.cke ∧ (State.countCore a1 a2 a3 a4 a5 a6).pwr = a1.pwr ∧ (State.countCore a1 a2 a3 a4 a5 a6).fab = a1.fab ∧ (State.countCore a1 a2 a3 a4 a5 a6).mss = a1.mss ∧ (State.countCore a1 a2 a3 a4 a5 a6).fresh = a1.fresh ∧ (State.countCore a1 a2 a3 a4 a5 a6).routineIds = a1.routineIds ∧ (State.countCore a1 a2 a3 a4 a5 a6).pending = a1.pending := by
  simp [State.countCore]
@[simp] theorem State.countDispatch_frame (a1 : State) (a2) (a3) : (State.countDispatch a1 a2 a3).ident = a1.ident ∧ (State.countDispatch a1 a2 a3).nv = a1.nv ∧ (State.countDispatch a1 a2 a3).top = a1.top ∧ (State.countDispatch a1 a2 a3).err = a1.err ∧ (State.countDispatch a1 a2 a3).mem = a1.mem ∧ (State.countDispatch a1 a2 a3).cle = a1.cle ∧ (State.countDispatch a1 a2 a3).pue0 = a1.pue0 ∧ (State.countDispatch a1 a2 a3).pue1 = a1.pue1 ∧ (State.countDispatch a1 a2 a3).cke = a1.cke ∧ (State.countDispatch a1 a2 a3).pwr = a1.pwr ∧ (State.countDispatch a1 a2 a3).fab = a1.fab ∧ (State.countDispatch a1 a2 a3).mss = a1.mss ∧ (State.countDispatch a1 a2 a3).fresh = a1.fresh ∧ (State.countDispatch a1 a2 a3).routineIds = a1.routineIds ∧ (State.countDispatch a1 a2 a3).pending = a1.pending := by
  simp [State.countDispatch]
@[simp] theorem State.offer_frame (a1 : State) (a2) : (State.offer a1 a2).ident = a1.ident ∧ (State.offer a1 a2).nv = a1.nv ∧ (State.offer a1 a2).top = a1.top ∧ (State.offer a1 a2).cores = a1.cores ∧ (State.offer a1 a2).mem = a1.mem ∧ (State.offer a1 a2).cle = a1.cle ∧ (State.offer a1 a2).pue0 = a1.pue0 ∧ (State.offer a1 a2).pue1 = a1.pue1 ∧ (State.offer a1 a2).cke = a1.cke ∧ (State.offer a1 a2).pwr = a1.pwr ∧ (State.offer a1 a2).fab = a1.fab ∧ (State.offer a1 a2).mss = a1.mss ∧ (State.offer a1 a2).fresh = a1.fresh ∧ (State.offer a1 a2).routineIds = a1.routineIds ∧ (State.offer a1 a2).pending = a1.pending := by
  simp [State.offer]
@[simp] theorem State.raise_frame (a1 : State) (a2) (a3) (a4) (a5) : (State.raise a1 a2 a3 a4 a5).ident = a1.ident ∧ (State.raise a1 a2 a3 a4 a5).nv = a1.nv ∧ (State.raise a1 a2 a3 a4 a5).top = a1.top ∧ (State.raise a1 a2 a3 a4 a5).cores = a1.cores ∧ (State.raise a1 a2 a3 a4 a5).mem = a1.mem ∧ (State.raise a1 a2 a3 a4 a5).cle = a1.cle ∧ (State.raise a1 a2 a3 a4 a5).pue0 = a1.pue0 ∧ (State.raise a1 a2 a3 a4 a5).pue1 = a1.pue1 ∧ (State.raise a1 a2 a3 a4 a5).cke = a1.cke ∧ (State.raise a1 a2 a3 a4 a5).pwr = a1.pwr ∧ (State.raise a1 a2 a3 a4 a5).fab = a1.fab ∧ (State.raise a1 a2 a3 a4 a5).mss = a1.mss ∧ (State.raise a1 a2 a3 a4 a5).fresh = a1.fresh ∧ (State.raise a1 a2 a3 a4 a5).routineIds = a1.routineIds ∧ (State.raise a1 a2 a3 a4 a5).pending = a1.pending := by
  simp [State.raise]
@[simp] theorem State.raiseHalting_frame (a1 : State) (a2) (a3) (a4) (a5) : (State.raiseHalting a1 a2 a3 a4 a5).ident = a1.ident ∧ (State.raiseHalting a1 a2 a3 a4 a5).nv = a1.nv ∧ (State.raiseHalting a1 a2 a3 a4 a5).top = a1.top ∧ (State.raiseHalting a1 a2 a3 a4 a5).cores = a1.cores ∧ (State.raiseHalting a1 a2 a3 a4 a5).mem = a1.mem ∧ (State.raiseHalting a1 a2 a3 a4 a5).cle = a1.cle ∧ (State.raiseHalting a1 a2 a3 a4 a5).pue0 = a1.pue0 ∧ (State.raiseHalting a1 a2 a3 a4 a5).pue1 = a1.pue1 ∧ (State.raiseHalting a1 a2 a3 a4 a5).cke = a1.cke ∧ (State.raiseHalting a1 a2 a3 a4 a5).pwr = a1.pwr ∧ (State.raiseHalting a1 a2 a3 a4 a5).fab = a1.fab ∧ (State.raiseHalting a1 a2 a3 a4 a5).mss = a1.mss ∧ (State.raiseHalting a1 a2 a3 a4 a5).fresh = a1.fresh ∧ (State.raiseHalting a1 a2 a3 a4 a5).routineIds = a1.routineIds ∧ (State.raiseHalting a1 a2 a3 a4 a5).pending = a1.pending := by
  simp [State.raiseHalting]
@[simp] theorem State.setHealth_frame (a1 : State) (a2) : (State.setHealth a1 a2).ident = a1.ident ∧ (State.setHealth a1 a2).nv = a1.nv ∧ (State.setHealth a1 a2).top = a1.top ∧ (State.setHealth a1 a2).cores = a1.cores ∧ (State.setHealth a1 a2).hub = a1.hub ∧ (State.setHealth a1 a2).err = a1.err ∧ (State.setHealth a1 a2).mem = a1.mem ∧ (State.setHealth a1 a2).cle = a1.cle ∧ (State.setHealth a1 a2).pue0 = a1.pue0 ∧ (State.setHealth a1 a2).pue1 = a1.pue1 ∧ (State.setHealth a1 a2).pwr = a1.pwr ∧ (State.setHealth a1 a2).fab = a1.fab ∧ (State.setHealth a1 a2).pmu = a1.pmu ∧ (State.setHealth a1 a2).mss = a1.mss ∧ (State.setHealth a1 a2).sent = a1.sent ∧ (State.setHealth a1 a2).fresh = a1.fresh ∧ (State.setHealth a1 a2).routineIds = a1.routineIds ∧ (State.setHealth a1 a2).pending = a1.pending := by
  simp [State.setHealth]
@[simp] theorem State.cfgIgnored_frame (a1 : State) (a2) (a3) (a4) : (State.cfgIgnored a1 a2 a3 a4).ident = a1.ident ∧ (State.cfgIgnored a1 a2 a3 a4).nv = a1.nv ∧ (State.cfgIgnored a1 a2 a3 a4).cores = a1.cores ∧ (State.cfgIgnored a1 a2 a3 a4).mem = a1.mem ∧ (State.cfgIgnored a1 a2 a3 a4).cle = a1.cle ∧ (State.cfgIgnored a1 a2 a3 a4).pue0 = a1.pue0 ∧ (State.cfgIgnored a1 a2 a3 a4).pue1 = a1.pue1 ∧ (State.cfgIgnored a1 a2 a3 a4).cke = a1.cke ∧ (State.cfgIgnored a1 a2 a3 a4).pwr = a1.pwr ∧ (State.cfgIgnored a1 a2 a3 a4).fab = a1.fab ∧ (State.cfgIgnored a1 a2 a3 a4).mss = a1.mss ∧ (State.cfgIgnored a1 a2 a3 a4).fresh = a1.fresh ∧ (State.cfgIgnored a1 a2 a3 a4).routineIds = a1.routineIds ∧ (State.cfgIgnored a1 a2 a3 a4).pending = a1.pending := by
  simp [State.cfgIgnored]
@[simp] theorem State.lockedWrite_frame (a1 : State) (a2) (a3) (a4) (a5) (a6) (a7) : (State.lockedWrite a1 a2 a3 a4 a5 a6 a7).2.ident = a1.ident ∧ (State.lockedWrite a1 a2 a3 a4 a5 a6 a7).2.nv = a1.nv ∧ (State.lockedWrite a1 a2 a3 a4 a5 a6 a7).2.cores = a1.cores ∧ (State.lockedWrite a1 a2 a3 a4 a5 a6 a7).2.mem = a1.mem ∧ (State.lockedWrite a1 a2 a3 a4 a5 a6 a7).2.cle = a1.cle ∧ (State.lockedWrite a1 a2 a3 a4 a5 a6 a7).2.pue0 = a1.pue0 ∧ (State.lockedWrite a1 a2 a3 a4 a5 a6 a7).2.pue1 = a1.pue1 ∧ (State.lockedWrite a1 a2 a3 a4 a5 a6 a7).2.cke = a1.cke ∧ (State.lockedWrite a1 a2 a3 a4 a5 a6 a7).2.pwr = a1.pwr ∧ (State.lockedWrite a1 a2 a3 a4 a5 a6 a7).2.fab = a1.fab ∧ (State.lockedWrite a1 a2 a3 a4 a5 a6 a7).2.mss = a1.mss ∧ (State.lockedWrite a1 a2 a3 a4 a5 a6 a7).2.fresh = a1.fresh ∧ (State.lockedWrite a1 a2 a3 a4 a5 a6 a7).2.routineIds = a1.routineIds ∧ (State.lockedWrite a1 a2 a3 a4 a5 a6 a7).2.pending = a1.pending := by
  simp [State.lockedWrite]
@[simp] theorem State.haltJob_frame (a1 : State) (a2) : (State.haltJob a1 a2).ident = a1.ident ∧ (State.haltJob a1 a2).nv = a1.nv ∧ (State.haltJob a1 a2).top = a1.top ∧ (State.haltJob a1 a2).err = a1.err ∧ (State.haltJob a1 a2).mem = a1.mem ∧ (State.haltJob a1 a2).cle = a1.cle ∧ (State.haltJob a1 a2).pue0 = a1.pue0 ∧ (State.haltJob a1 a2).pue1 = a1.pue1 ∧ (State.haltJob a1 a2).cke = a1.cke ∧ (State.haltJob a1 a2).pwr = a1.pwr ∧ (State.haltJob a1 a2).fab = a1.fab ∧ (State.haltJob a1 a2).pmu = a1.pmu ∧ (State.haltJob a1 a2).mss = a1.mss ∧ (State.haltJob a1 a2).sent = a1.sent ∧ (State.haltJob a1 a2).fresh = a1.fresh ∧ (State.haltJob a1 a2).routineIds = a1.routineIds ∧ (State.haltJob a1 a2).pending = a1.pending := by
  simp only [State.haltJob]
  repeat' split
  all_goals simp
@[simp] theorem State.cmdFault_frame (a1 : State) (a2) (a3) (a4) (a5) (a6) (a7) (a8) : (State.cmdFault a1 a2 a3 a4 a5 a6 a7 a8).ident = a1.ident ∧ (State.cmdFault a1 a2 a3 a4 a5 a6 a7 a8).nv = a1.nv ∧ (State.cmdFault a1 a2 a3 a4 a5 a6 a7 a8).top = a1.top ∧ (State.cmdFault a1 a2 a3 a4 a5 a6 a7 a8).mem = a1.mem ∧ (State.cmdFault a1 a2 a3 a4 a5 a6 a7 a8).cle = a1.cle ∧ (State.cmdFault a1 a2 a3 a4 a5 a6 a7 a8).pue0 = a1.pue0 ∧ (State.cmdFault a1 a2 a3 a4 a5 a6 a7 a8).pue1 = a1.pue1 ∧ (State.cmdFault a1 a2 a3 a4 a5 a6 a7 a8).cke = a1.cke ∧ (State.cmdFault a1 a2 a3 a4 a5 a6 a7 a8).pwr = a1.pwr ∧ (State.cmdFault a1 a2 a3 a4 a5 a6 a7 a8).fab = a1.fab ∧ (State.cmdFault a1 a2 a3 a4 a5 a6 a7 a8).mss = a1.mss ∧ (State.cmdFault a1 a2 a3 a4 a5 a6 a7 a8).fresh = a1.fresh ∧ (State.cmdFault a1 a2 a3 a4 a5 a6 a7 a8).routineIds = a1.routineIds ∧ (State.cmdFault a1 a2 a3 a4 a5 a6 a7 a8).pending = a1.pending := by
  simp [State.cmdFault]
@[simp] theorem State.cmdNote_frame (a1 : State) (a2) (a3) (a4) (a5) (a6) : (State.cmdNote a1 a2 a3 a4 a5 a6).ident = a1.ident ∧ (State.cmdNote a1 a2 a3 a4 a5 a6).nv = a1.nv ∧ (State.cmdNote a1 a2 a3 a4 a5 a6).top = a1.top ∧ (State.cmdNote a1 a2 a3 a4 a5 a6).cores = a1.cores ∧ (State.cmdNote a1 a2 a3 a4 a5 a6).mem = a1.mem ∧ (State.cmdNote a1 a2 a3 a4 a5 a6).cle = a1.cle ∧ (State.cmdNote a1 a2 a3 a4 a5 a6).pue0 = a1.pue0 ∧ (State.cmdNote a1 a2 a3 a4 a5 a6).pue1 = a1.pue1 ∧ (State.cmdNote a1 a2 a3 a4 a5 a6).cke = a1.cke ∧ (State.cmdNote a1 a2 a3 a4 a5 a6).pwr = a1.pwr ∧ (State.cmdNote a1 a2 a3 a4 a5 a6).fab = a1.fab ∧ (State.cmdNote a1 a2 a3 a4 a5 a6).mss = a1.mss ∧ (State.cmdNote a1 a2 a3 a4 a5 a6).fresh = a1.fresh ∧ (State.cmdNote a1 a2 a3 a4 a5 a6).routineIds = a1.routineIds ∧ (State.cmdNote a1 a2 a3 a4 a5 a6).pending = a1.pending := by
  simp [State.cmdNote]
@[simp] theorem State.rowNote_frame (a1 : State) (a2) (a3) (a4) (a5) (a6) (a7) : (State.rowNote a1 a2 a3 a4 a5 a6 a7).ident = a1.ident ∧ (State.rowNote a1 a2 a3 a4 a5 a6 a7).nv = a1.nv ∧ (State.rowNote a1 a2 a3 a4 a5 a6 a7).top = a1.top ∧ (State.rowNote a1 a2 a3 a4 a5 a6 a7).cores = a1.cores ∧ (State.rowNote a1 a2 a3 a4 a5 a6 a7).mem = a1.mem ∧ (State.rowNote a1 a2 a3 a4 a5 a6 a7).cle = a1.cle ∧ (State.rowNote a1 a2 a3 a4 a5 a6 a7).pue0 = a1.pue0 ∧ (State.rowNote a1 a2 a3 a4 a5 a6 a7).pue1 = a1.pue1 ∧ (State.rowNote a1 a2 a3 a4 a5 a6 a7).cke = a1.cke ∧ (State.rowNote a1 a2 a3 a4 a5 a6 a7).pwr = a1.pwr ∧ (State.rowNote a1 a2 a3 a4 a5 a6 a7).fab = a1.fab ∧ (State.rowNote a1 a2 a3 a4 a5 a6 a7).mss = a1.mss ∧ (State.rowNote a1 a2 a3 a4 a5 a6 a7).fresh = a1.fresh ∧ (State.rowNote a1 a2 a3 a4 a5 a6 a7).routineIds = a1.routineIds ∧ (State.rowNote a1 a2 a3 a4 a5 a6 a7).pending = a1.pending := by
  simp [State.rowNote]
@[simp] theorem State.setDie_frame (a1 : State) (a2) (a3) : (State.setDie a1 a2 a3).ident = a1.ident ∧ (State.setDie a1 a2 a3).nv = a1.nv ∧ (State.setDie a1 a2 a3).top = a1.top ∧ (State.setDie a1 a2 a3).cores = a1.cores ∧ (State.setDie a1 a2 a3).hub = a1.hub ∧ (State.setDie a1 a2 a3).err = a1.err ∧ (State.setDie a1 a2 a3).cle = a1.cle ∧ (State.setDie a1 a2 a3).pue0 = a1.pue0 ∧ (State.setDie a1 a2 a3).pue1 = a1.pue1 ∧ (State.setDie a1 a2 a3).cke = a1.cke ∧ (State.setDie a1 a2 a3).pwr = a1.pwr ∧ (State.setDie a1 a2 a3).fab = a1.fab ∧ (State.setDie a1 a2 a3).pmu = a1.pmu ∧ (State.setDie a1 a2 a3).mss = a1.mss ∧ (State.setDie a1 a2 a3).sent = a1.sent ∧ (State.setDie a1 a2 a3).fresh = a1.fresh ∧ (State.setDie a1 a2 a3).routineIds = a1.routineIds ∧ (State.setDie a1 a2 a3).pending = a1.pending := by
  simp [State.setDie]
@[simp] theorem State.setPoison_frame (a1 : State) (a2) (a3) : (State.setPoison a1 a2 a3).ident = a1.ident ∧ (State.setPoison a1 a2 a3).nv = a1.nv ∧ (State.setPoison a1 a2 a3).top = a1.top ∧ (State.setPoison a1 a2 a3).cores = a1.cores ∧ (State.setPoison a1 a2 a3).hub = a1.hub ∧ (State.setPoison a1 a2 a3).err = a1.err ∧ (State.setPoison a1 a2 a3).cle = a1.cle ∧ (State.setPoison a1 a2 a3).pue0 = a1.pue0 ∧ (State.setPoison a1 a2 a3).pue1 = a1.pue1 ∧ (State.setPoison a1 a2 a3).cke = a1.cke ∧ (State.setPoison a1 a2 a3).pwr = a1.pwr ∧ (State.setPoison a1 a2 a3).fab = a1.fab ∧ (State.setPoison a1 a2 a3).pmu = a1.pmu ∧ (State.setPoison a1 a2 a3).mss = a1.mss ∧ (State.setPoison a1 a2 a3).sent = a1.sent ∧ (State.setPoison a1 a2 a3).fresh = a1.fresh ∧ (State.setPoison a1 a2 a3).routineIds = a1.routineIds ∧ (State.setPoison a1 a2 a3).pending = a1.pending := by
  simp [State.setPoison]
@[simp] theorem State.noteHole_frame (a1 : State) (a2) (a3) : (State.noteHole a1 a2 a3).ident = a1.ident ∧ (State.noteHole a1 a2 a3).nv = a1.nv ∧ (State.noteHole a1 a2 a3).top = a1.top ∧ (State.noteHole a1 a2 a3).cores = a1.cores ∧ (State.noteHole a1 a2 a3).mem = a1.mem ∧ (State.noteHole a1 a2 a3).cle = a1.cle ∧ (State.noteHole a1 a2 a3).pue0 = a1.pue0 ∧ (State.noteHole a1 a2 a3).pue1 = a1.pue1 ∧ (State.noteHole a1 a2 a3).cke = a1.cke ∧ (State.noteHole a1 a2 a3).pwr = a1.pwr ∧ (State.noteHole a1 a2 a3).fab = a1.fab ∧ (State.noteHole a1 a2 a3).mss = a1.mss ∧ (State.noteHole a1 a2 a3).fresh = a1.fresh ∧ (State.noteHole a1 a2 a3).routineIds = a1.routineIds ∧ (State.noteHole a1 a2 a3).pending = a1.pending := by
  simp [State.noteHole]
@[simp] theorem State.notePoison_frame (a1 : State) (a2) (a3) : (State.notePoison a1 a2 a3).ident = a1.ident ∧ (State.notePoison a1 a2 a3).nv = a1.nv ∧ (State.notePoison a1 a2 a3).top = a1.top ∧ (State.notePoison a1 a2 a3).cores = a1.cores ∧ (State.notePoison a1 a2 a3).cle = a1.cle ∧ (State.notePoison a1 a2 a3).pue0 = a1.pue0 ∧ (State.notePoison a1 a2 a3).pue1 = a1.pue1 ∧ (State.notePoison a1 a2 a3).pwr = a1.pwr ∧ (State.notePoison a1 a2 a3).fab = a1.fab ∧ (State.notePoison a1 a2 a3).mss = a1.mss ∧ (State.notePoison a1 a2 a3).fresh = a1.fresh ∧ (State.notePoison a1 a2 a3).routineIds = a1.routineIds ∧ (State.notePoison a1 a2 a3).pending = a1.pending := by
  simp only [State.notePoison]
  repeat' split
  all_goals simp
@[simp] theorem State.noteCe_frame (a1 : State) (a2) (a3) : (State.noteCe a1 a2 a3).ident = a1.ident ∧ (State.noteCe a1 a2 a3).nv = a1.nv ∧ (State.noteCe a1 a2 a3).top = a1.top ∧ (State.noteCe a1 a2 a3).cores = a1.cores ∧ (State.noteCe a1 a2 a3).cle = a1.cle ∧ (State.noteCe a1 a2 a3).pue0 = a1.pue0 ∧ (State.noteCe a1 a2 a3).pue1 = a1.pue1 ∧ (State.noteCe a1 a2 a3).cke = a1.cke ∧ (State.noteCe a1 a2 a3).pwr = a1.pwr ∧ (State.noteCe a1 a2 a3).fab = a1.fab ∧ (State.noteCe a1 a2 a3).mss = a1.mss ∧ (State.noteCe a1 a2 a3).fresh = a1.fresh ∧ (State.noteCe a1 a2 a3).routineIds = a1.routineIds ∧ (State.noteCe a1 a2 a3).pending = a1.pending := by
  simp only [State.noteCe]
  repeat' split
  all_goals simp
@[simp] theorem State.noteUe_frame (a1 : State) (a2) (a3) (a4) : (State.noteUe a1 a2 a3 a4).ident = a1.ident ∧ (State.noteUe a1 a2 a3 a4).nv = a1.nv ∧ (State.noteUe a1 a2 a3 a4).top = a1.top ∧ (State.noteUe a1 a2 a3 a4).cores = a1.cores ∧ (State.noteUe a1 a2 a3 a4).cle = a1.cle ∧ (State.noteUe a1 a2 a3 a4).pue0 = a1.pue0 ∧ (State.noteUe a1 a2 a3 a4).pue1 = a1.pue1 ∧ (State.noteUe a1 a2 a3 a4).cke = a1.cke ∧ (State.noteUe a1 a2 a3 a4).pwr = a1.pwr ∧ (State.noteUe a1 a2 a3 a4).fab = a1.fab ∧ (State.noteUe a1 a2 a3 a4).mss = a1.mss ∧ (State.noteUe a1 a2 a3 a4).fresh = a1.fresh ∧ (State.noteUe a1 a2 a3 a4).routineIds = a1.routineIds ∧ (State.noteUe a1 a2 a3 a4).pending = a1.pending := by
  simp only [State.noteUe]
  repeat' split
  all_goals simp
@[simp] theorem State.wakeStack_frame (a1 : State) (a2) : (State.wakeStack a1 a2).ident = a1.ident ∧ (State.wakeStack a1 a2).nv = a1.nv ∧ (State.wakeStack a1 a2).top = a1.top ∧ (State.wakeStack a1 a2).cores = a1.cores ∧ (State.wakeStack a1 a2).hub = a1.hub ∧ (State.wakeStack a1 a2).err = a1.err ∧ (State.wakeStack a1 a2).mem = a1.mem ∧ (State.wakeStack a1 a2).cle = a1.cle ∧ (State.wakeStack a1 a2).pue0 = a1.pue0 ∧ (State.wakeStack a1 a2).pue1 = a1.pue1 ∧ (State.wakeStack a1 a2).cke = a1.cke ∧ (State.wakeStack a1 a2).fab = a1.fab ∧ (State.wakeStack a1 a2).pmu = a1.pmu ∧ (State.wakeStack a1 a2).mss = a1.mss ∧ (State.wakeStack a1 a2).sent = a1.sent ∧ (State.wakeStack a1 a2).fresh = a1.fresh ∧ (State.wakeStack a1 a2).routineIds = a1.routineIds ∧ (State.wakeStack a1 a2).pending = a1.pending := by
  simp only [State.wakeStack]
  repeat' split
  all_goals simp
@[simp] theorem State.countLine_frame (a1 : State) (a2) (a3) : (State.countLine a1 a2 a3).ident = a1.ident ∧ (State.countLine a1 a2 a3).nv = a1.nv ∧ (State.countLine a1 a2 a3).top = a1.top ∧ (State.countLine a1 a2 a3).cores = a1.cores ∧ (State.countLine a1 a2 a3).err = a1.err ∧ (State.countLine a1 a2 a3).mem = a1.mem ∧ (State.countLine a1 a2 a3).cle = a1.cle ∧ (State.countLine a1 a2 a3).pue0 = a1.pue0 ∧ (State.countLine a1 a2 a3).pue1 = a1.pue1 ∧ (State.countLine a1 a2 a3).cke = a1.cke ∧ (State.countLine a1 a2 a3).fab = a1.fab ∧ (State.countLine a1 a2 a3).mss = a1.mss ∧ (State.countLine a1 a2 a3).fresh = a1.fresh ∧ (State.countLine a1 a2 a3).routineIds = a1.routineIds ∧ (State.countLine a1 a2 a3).pending = a1.pending := by
  simp only [State.countLine]
  repeat' split
  all_goals simp
@[simp] theorem State.setLineErr_frame (a1 : State) (a2) (a3) : (State.setLineErr a1 a2 a3).ident = a1.ident ∧ (State.setLineErr a1 a2 a3).nv = a1.nv ∧ (State.setLineErr a1 a2 a3).top = a1.top ∧ (State.setLineErr a1 a2 a3).cores = a1.cores ∧ (State.setLineErr a1 a2 a3).hub = a1.hub ∧ (State.setLineErr a1 a2 a3).err = a1.err ∧ (State.setLineErr a1 a2 a3).cle = a1.cle ∧ (State.setLineErr a1 a2 a3).pue0 = a1.pue0 ∧ (State.setLineErr a1 a2 a3).pue1 = a1.pue1 ∧ (State.setLineErr a1 a2 a3).cke = a1.cke ∧ (State.setLineErr a1 a2 a3).pwr = a1.pwr ∧ (State.setLineErr a1 a2 a3).fab = a1.fab ∧ (State.setLineErr a1 a2 a3).pmu = a1.pmu ∧ (State.setLineErr a1 a2 a3).mss = a1.mss ∧ (State.setLineErr a1 a2 a3).sent = a1.sent ∧ (State.setLineErr a1 a2 a3).fresh = a1.fresh ∧ (State.setLineErr a1 a2 a3).routineIds = a1.routineIds ∧ (State.setLineErr a1 a2 a3).pending = a1.pending := by
  simp [State.setLineErr]
@[simp] theorem State.hitLine_frame (a1 : State) (a2) : (State.hitLine a1 a2).ident = a1.ident ∧ (State.hitLine a1 a2).nv = a1.nv ∧ (State.hitLine a1 a2).top = a1.top ∧ (State.hitLine a1 a2).cores = a1.cores ∧ (State.hitLine a1 a2).hub = a1.hub ∧ (State.hitLine a1 a2).err = a1.err ∧ (State.hitLine a1 a2).cle = a1.cle ∧ (State.hitLine a1 a2).pue0 = a1.pue0 ∧ (State.hitLine a1 a2).pue1 = a1.pue1 ∧ (State.hitLine a1 a2).cke = a1.cke ∧ (State.hitLine a1 a2).pwr = a1.pwr ∧ (State.hitLine a1 a2).fab = a1.fab ∧ (State.hitLine a1 a2).pmu = a1.pmu ∧ (State.hitLine a1 a2).mss = a1.mss ∧ (State.hitLine a1 a2).sent = a1.sent ∧ (State.hitLine a1 a2).fresh = a1.fresh ∧ (State.hitLine a1 a2).routineIds = a1.routineIds ∧ (State.hitLine a1 a2).pending = a1.pending := by
  simp only [State.hitLine]
  repeat' split
  all_goals simp
@[simp] theorem State.hitLines_frame (a1 : State) (a2) : (State.hitLines a1 a2).ident = a1.ident ∧ (State.hitLines a1 a2).nv = a1.nv ∧ (State.hitLines a1 a2).top = a1.top ∧ (State.hitLines a1 a2).cores = a1.cores ∧ (State.hitLines a1 a2).hub = a1.hub ∧ (State.hitLines a1 a2).err = a1.err ∧ (State.hitLines a1 a2).cle = a1.cle ∧ (State.hitLines a1 a2).pue0 = a1.pue0 ∧ (State.hitLines a1 a2).pue1 = a1.pue1 ∧ (State.hitLines a1 a2).cke = a1.cke ∧ (State.hitLines a1 a2).pwr = a1.pwr ∧ (State.hitLines a1 a2).fab = a1.fab ∧ (State.hitLines a1 a2).pmu = a1.pmu ∧ (State.hitLines a1 a2).mss = a1.mss ∧ (State.hitLines a1 a2).sent = a1.sent ∧ (State.hitLines a1 a2).fresh = a1.fresh ∧ (State.hitLines a1 a2).routineIds = a1.routineIds ∧ (State.hitLines a1 a2).pending = a1.pending := by
  simp [State.hitLines]
@[simp] theorem State.checkLine_frame (a1 : State) (a2) (a3) (a4) : (State.checkLine a1 a2 a3 a4).ident = a1.ident ∧ (State.checkLine a1 a2 a3 a4).nv = a1.nv ∧ (State.checkLine a1 a2 a3 a4).top = a1.top ∧ (State.checkLine a1 a2 a3 a4).cores = a1.cores ∧ (State.checkLine a1 a2 a3 a4).cle = a1.cle ∧ (State.checkLine a1 a2 a3 a4).pue0 = a1.pue0 ∧ (State.checkLine a1 a2 a3 a4).pue1 = a1.pue1 ∧ (State.checkLine a1 a2 a3 a4).cke = a1.cke ∧ (State.checkLine a1 a2 a3 a4).pwr = a1.pwr ∧ (State.checkLine a1 a2 a3 a4).fab = a1.fab ∧ (State.checkLine a1 a2 a3 a4).mss = a1.mss ∧ (State.checkLine a1 a2 a3 a4).routineIds = a1.routineIds ∧ (State.checkLine a1 a2 a3 a4).pending = a1.pending := by
  simp only [State.checkLine]
  repeat' split
  all_goals simp
@[simp] theorem State.touchLineAs_frame (a1 : State) (a2) (a3) (a4) : (State.touchLineAs a1 a2 a3 a4).2.ident = a1.ident ∧ (State.touchLineAs a1 a2 a3 a4).2.nv = a1.nv ∧ (State.touchLineAs a1 a2 a3 a4).2.top = a1.top ∧ (State.touchLineAs a1 a2 a3 a4).2.cores = a1.cores ∧ (State.touchLineAs a1 a2 a3 a4).2.cle = a1.cle ∧ (State.touchLineAs a1 a2 a3 a4).2.pue0 = a1.pue0 ∧ (State.touchLineAs a1 a2 a3 a4).2.pue1 = a1.pue1 ∧ (State.touchLineAs a1 a2 a3 a4).2.fab = a1.fab ∧ (State.touchLineAs a1 a2 a3 a4).2.mss = a1.mss ∧ (State.touchLineAs a1 a2 a3 a4).2.routineIds = a1.routineIds ∧ (State.touchLineAs a1 a2 a3 a4).2.pending = a1.pending := by
  simp only [State.touchLineAs]
  repeat' split
  all_goals simp
@[simp] theorem State.touchLine_frame (a1 : State) (a2) (a3) : (State.touchLine a1 a2 a3).2.ident = a1.ident ∧ (State.touchLine a1 a2 a3).2.nv = a1.nv ∧ (State.touchLine a1 a2 a3).2.top = a1.top ∧ (State.touchLine a1 a2 a3).2.cores = a1.cores ∧ (State.touchLine a1 a2 a3).2.cle = a1.cle ∧ (State.touchLine a1 a2 a3).2.pue0 = a1.pue0 ∧ (State.touchLine a1 a2 a3).2.pue1 = a1.pue1 ∧ (State.touchLine a1 a2 a3).2.fab = a1.fab ∧ (State.touchLine a1 a2 a3).2.mss = a1.mss ∧ (State.touchLine a1 a2 a3).2.routineIds = a1.routineIds ∧ (State.touchLine a1 a2 a3).2.pending = a1.pending := by
  simp [State.touchLine]
@[simp] theorem State.touchLineQuiet_frame (a1 : State) (a2) (a3) : (State.touchLineQuiet a1 a2 a3).ident = a1.ident ∧ (State.touchLineQuiet a1 a2 a3).nv = a1.nv ∧ (State.touchLineQuiet a1 a2 a3).top = a1.top ∧ (State.touchLineQuiet a1 a2 a3).cores = a1.cores ∧ (State.touchLineQuiet a1 a2 a3).cle = a1.cle ∧ (State.touchLineQuiet a1 a2 a3).pue0 = a1.pue0 ∧ (State.touchLineQuiet a1 a2 a3).pue1 = a1.pue1 ∧ (State.touchLineQuiet a1 a2 a3).cke = a1.cke ∧ (State.touchLineQuiet a1 a2 a3).pwr = a1.pwr ∧ (State.touchLineQuiet a1 a2 a3).fab = a1.fab ∧ (State.touchLineQuiet a1 a2 a3).mss = a1.mss ∧ (State.touchLineQuiet a1 a2 a3).routineIds = a1.routineIds ∧ (State.touchLineQuiet a1 a2 a3).pending = a1.pending := by
  simp [State.touchLineQuiet]
@[simp] theorem State.touchRange_frame (a1 : State) (a2) (a3) (a4) : (State.touchRange a1 a2 a3 a4).2.ident = a1.ident ∧ (State.touchRange a1 a2 a3 a4).2.nv = a1.nv ∧ (State.touchRange a1 a2 a3 a4).2.top = a1.top ∧ (State.touchRange a1 a2 a3 a4).2.cores = a1.cores ∧ (State.touchRange a1 a2 a3 a4).2.cle = a1.cle ∧ (State.touchRange a1 a2 a3 a4).2.pue0 = a1.pue0 ∧ (State.touchRange a1 a2 a3 a4).2.pue1 = a1.pue1 ∧ (State.touchRange a1 a2 a3 a4).2.fab = a1.fab ∧ (State.touchRange a1 a2 a3 a4).2.mss = a1.mss ∧ (State.touchRange a1 a2 a3 a4).2.routineIds = a1.routineIds ∧ (State.touchRange a1 a2 a3 a4).2.pending = a1.pending := by
  simp [State.touchRange]
@[simp] theorem State.engineReads_frame (a1 : State) (a2) (a3) : (State.engineReads a1 a2 a3).ident = a1.ident ∧ (State.engineReads a1 a2 a3).nv = a1.nv ∧ (State.engineReads a1 a2 a3).top = a1.top ∧ (State.engineReads a1 a2 a3).cores = a1.cores ∧ (State.engineReads a1 a2 a3).cle = a1.cle ∧ (State.engineReads a1 a2 a3).pue0 = a1.pue0 ∧ (State.engineReads a1 a2 a3).pue1 = a1.pue1 ∧ (State.engineReads a1 a2 a3).fab = a1.fab ∧ (State.engineReads a1 a2 a3).mss = a1.mss ∧ (State.engineReads a1 a2 a3).routineIds = a1.routineIds ∧ (State.engineReads a1 a2 a3).pending = a1.pending := by
  simp [State.engineReads]
@[simp] theorem State.storeBytes_frame (a1 : State) (a2) (a3) : (State.storeBytes a1 a2 a3).ident = a1.ident ∧ (State.storeBytes a1 a2 a3).nv = a1.nv ∧ (State.storeBytes a1 a2 a3).top = a1.top ∧ (State.storeBytes a1 a2 a3).cores = a1.cores ∧ (State.storeBytes a1 a2 a3).hub = a1.hub ∧ (State.storeBytes a1 a2 a3).err = a1.err ∧ (State.storeBytes a1 a2 a3).cle = a1.cle ∧ (State.storeBytes a1 a2 a3).pue0 = a1.pue0 ∧ (State.storeBytes a1 a2 a3).pue1 = a1.pue1 ∧ (State.storeBytes a1 a2 a3).cke = a1.cke ∧ (State.storeBytes a1 a2 a3).pwr = a1.pwr ∧ (State.storeBytes a1 a2 a3).fab = a1.fab ∧ (State.storeBytes a1 a2 a3).pmu = a1.pmu ∧ (State.storeBytes a1 a2 a3).mss = a1.mss ∧ (State.storeBytes a1 a2 a3).sent = a1.sent ∧ (State.storeBytes a1 a2 a3).fresh = a1.fresh ∧ (State.storeBytes a1 a2 a3).routineIds = a1.routineIds ∧ (State.storeBytes a1 a2 a3).pending = a1.pending := by
  simp [State.storeBytes]
@[simp] theorem State.writePart_frame (a1) (a2 : State) (a3) : (State.writePart a1 a2 a3).ident = a2.ident ∧ (State.writePart a1 a2 a3).nv = a2.nv ∧ (State.writePart a1 a2 a3).top = a2.top ∧ (State.writePart a1 a2 a3).cores = a2.cores ∧ (State.writePart a1 a2 a3).cle = a2.cle ∧ (State.writePart a1 a2 a3).pue0 = a2.pue0 ∧ (State.writePart a1 a2 a3).pue1 = a2.pue1 ∧ (State.writePart a1 a2 a3).cke = a2.cke ∧ (State.writePart a1 a2 a3).fab = a2.fab ∧ (State.writePart a1 a2 a3).mss = a2.mss ∧ (State.writePart a1 a2 a3).routineIds = a2.routineIds ∧ (State.writePart a1 a2 a3).pending = a2.pending := by
  simp [State.writePart]
@[simp] theorem State.agentWrite_frame (a1 : State) (a2) (a3) (a4) : (State.agentWrite a1 a2 a3 a4).ident = a1.ident ∧ (State.agentWrite a1 a2 a3 a4).nv = a1.nv ∧ (State.agentWrite a1 a2 a3 a4).top = a1.top ∧ (State.agentWrite a1 a2 a3 a4).cores = a1.cores ∧ (State.agentWrite a1 a2 a3 a4).cle = a1.cle ∧ (State.agentWrite a1 a2 a3 a4).pue0 = a1.pue0 ∧ (State.agentWrite a1 a2 a3 a4).pue1 = a1.pue1 ∧ (State.agentWrite a1 a2 a3 a4).cke = a1.cke ∧ (State.agentWrite a1 a2 a3 a4).fab = a1.fab ∧ (State.agentWrite a1 a2 a3 a4).mss = a1.mss ∧ (State.agentWrite a1 a2 a3 a4).routineIds = a1.routineIds ∧ (State.agentWrite a1 a2 a3 a4).pending = a1.pending := by
  simp [State.agentWrite]
@[simp] theorem State.writeMasked_frame (a1 : State) (a2) (a3) (a4) (a5) : (State.writeMasked a1 a2 a3 a4 a5).ident = a1.ident ∧ (State.writeMasked a1 a2 a3 a4 a5).nv = a1.nv ∧ (State.writeMasked a1 a2 a3 a4 a5).top = a1.top ∧ (State.writeMasked a1 a2 a3 a4 a5).cores = a1.cores ∧ (State.writeMasked a1 a2 a3 a4 a5).cle = a1.cle ∧ (State.writeMasked a1 a2 a3 a4 a5).pue0 = a1.pue0 ∧ (State.writeMasked a1 a2 a3 a4 a5).pue1 = a1.pue1 ∧ (State.writeMasked a1 a2 a3 a4 a5).cke = a1.cke ∧ (State.writeMasked a1 a2 a3 a4 a5).fab = a1.fab ∧ (State.writeMasked a1 a2 a3 a4 a5).mss = a1.mss ∧ (State.writeMasked a1 a2 a3 a4 a5).routineIds = a1.routineIds ∧ (State.writeMasked a1 a2 a3 a4 a5).pending = a1.pending := by
  simp [State.writeMasked]
@[simp] theorem State.agentNum_frame (a1 : State) (a2) (a3) (a4) (a5) : (State.agentNum a1 a2 a3 a4 a5).ident = a1.ident ∧ (State.agentNum a1 a2 a3 a4 a5).nv = a1.nv ∧ (State.agentNum a1 a2 a3 a4 a5).top = a1.top ∧ (State.agentNum a1 a2 a3 a4 a5).cores = a1.cores ∧ (State.agentNum a1 a2 a3 a4 a5).cle = a1.cle ∧ (State.agentNum a1 a2 a3 a4 a5).pue0 = a1.pue0 ∧ (State.agentNum a1 a2 a3 a4 a5).pue1 = a1.pue1 ∧ (State.agentNum a1 a2 a3 a4 a5).cke = a1.cke ∧ (State.agentNum a1 a2 a3 a4 a5).fab = a1.fab ∧ (State.agentNum a1 a2 a3 a4 a5).mss = a1.mss ∧ (State.agentNum a1 a2 a3 a4 a5).routineIds = a1.routineIds ∧ (State.agentNum a1 a2 a3 a4 a5).pending = a1.pending := by
  simp [State.agentNum]
@[simp] theorem State.sendBisnp_frame (a1 : State) (a2) : (State.sendBisnp a1 a2).ident = a1.ident ∧ (State.sendBisnp a1 a2).nv = a1.nv ∧ (State.sendBisnp a1 a2).top = a1.top ∧ (State.sendBisnp a1 a2).cores = a1.cores ∧ (State.sendBisnp a1 a2).err = a1.err ∧ (State.sendBisnp a1 a2).mem = a1.mem ∧ (State.sendBisnp a1 a2).cle = a1.cle ∧ (State.sendBisnp a1 a2).pue0 = a1.pue0 ∧ (State.sendBisnp a1 a2).pue1 = a1.pue1 ∧ (State.sendBisnp a1 a2).cke = a1.cke ∧ (State.sendBisnp a1 a2).pwr = a1.pwr ∧ (State.sendBisnp a1 a2).fab = a1.fab ∧ (State.sendBisnp a1 a2).pmu = a1.pmu ∧ (State.sendBisnp a1 a2).mss = a1.mss ∧ (State.sendBisnp a1 a2).fresh = a1.fresh ∧ (State.sendBisnp a1 a2).routineIds = a1.routineIds ∧ (State.sendBisnp a1 a2).pending = a1.pending := by
  simp [State.sendBisnp]
@[simp] theorem State.bisnp_frame (a1 : State) (a2) : (State.bisnp a1 a2).2.ident = a1.ident ∧ (State.bisnp a1 a2).2.nv = a1.nv ∧ (State.bisnp a1 a2).2.top = a1.top ∧ (State.bisnp a1 a2).2.cores = a1.cores ∧ (State.bisnp a1 a2).2.err = a1.err ∧ (State.bisnp a1 a2).2.mem = a1.mem ∧ (State.bisnp a1 a2).2.cle = a1.cle ∧ (State.bisnp a1 a2).2.pue0 = a1.pue0 ∧ (State.bisnp a1 a2).2.pue1 = a1.pue1 ∧ (State.bisnp a1 a2).2.cke = a1.cke ∧ (State.bisnp a1 a2).2.pwr = a1.pwr ∧ (State.bisnp a1 a2).2.fab = a1.fab ∧ (State.bisnp a1 a2).2.pmu = a1.pmu ∧ (State.bisnp a1 a2).2.mss = a1.mss ∧ (State.bisnp a1 a2).2.fresh = a1.fresh ∧ (State.bisnp a1 a2).2.routineIds = a1.routineIds ∧ (State.bisnp a1 a2).2.pending = a1.pending := by
  simp [State.bisnp]
@[simp] theorem afterSnoop_ident (s t : State) (h : t.ident = s.ident) : (afterSnoop s t).ident = s.ident := by
  unfold afterSnoop
  dsimp only
  split <;> simp_all
@[simp] theorem afterSnoop_nv (s t : State) (h : t.nv = s.nv) : (afterSnoop s t).nv = s.nv := by
  unfold afterSnoop
  dsimp only
  split <;> simp_all
@[simp] theorem afterSnoop_top (s t : State) (h : t.top = s.top) : (afterSnoop s t).top = s.top := by
  unfold afterSnoop
  dsimp only
  split <;> simp_all
@[simp] theorem afterSnoop_cores (s t : State) (h : t.cores = s.cores) : (afterSnoop s t).cores = s.cores := by
  unfold afterSnoop
  dsimp only
  split <;> simp_all
@[simp] theorem afterSnoop_err (s t : State) (h : t.err = s.err) : (afterSnoop s t).err = s.err := by
  unfold afterSnoop
  dsimp only
  split <;> simp_all
@[simp] theorem afterSnoop_mem (s t : State) (h : t.mem = s.mem) : (afterSnoop s t).mem = s.mem := by
  unfold afterSnoop
  dsimp only
  split <;> simp_all
@[simp] theorem afterSnoop_cle (s t : State) (h : t.cle = s.cle) : (afterSnoop s t).cle = s.cle := by
  unfold afterSnoop
  dsimp only
  split <;> simp_all
@[simp] theorem afterSnoop_pue0 (s t : State) (h : t.pue0 = s.pue0) : (afterSnoop s t).pue0 = s.pue0 := by
  unfold afterSnoop
  dsimp only
  split <;> simp_all
@[simp] theorem afterSnoop_pue1 (s t : State) (h : t.pue1 = s.pue1) : (afterSnoop s t).pue1 = s.pue1 := by
  unfold afterSnoop
  dsimp only
  split <;> simp_all
@[simp] theorem afterSnoop_cke (s t : State) (h : t.cke = s.cke) : (afterSnoop s t).cke = s.cke := by
  unfold afterSnoop
  dsimp only
  split <;> simp_all
@[simp] theorem afterSnoop_pwr (s t : State) (h : t.pwr = s.pwr) : (afterSnoop s t).pwr = s.pwr := by
  unfold afterSnoop
  dsimp only
  split <;> simp_all
@[simp] theorem afterSnoop_fab (s t : State) (h : t.fab = s.fab) : (afterSnoop s t).fab = s.fab := by
  unfold afterSnoop
  dsimp only
  split <;> simp_all
@[simp] theorem afterSnoop_pmu (s t : State) (h : t.pmu = s.pmu) : (afterSnoop s t).pmu = s.pmu := by
  unfold afterSnoop
  dsimp only
  split <;> simp_all
@[simp] theorem afterSnoop_mss (s t : State) (h : t.mss = s.mss) : (afterSnoop s t).mss = s.mss := by
  unfold afterSnoop
  dsimp only
  split <;> simp_all
@[simp] theorem afterSnoop_fresh (s t : State) (h : t.fresh = s.fresh) : (afterSnoop s t).fresh = s.fresh := by
  unfold afterSnoop
  dsimp only
  split <;> simp_all
@[simp] theorem afterSnoop_routineIds (s t : State) (h : t.routineIds = s.routineIds) : (afterSnoop s t).routineIds = s.routineIds := by
  unfold afterSnoop
  dsimp only
  split <;> simp_all
@[simp] theorem afterSnoop_pending (s t : State) (h : t.pending = s.pending) : (afterSnoop s t).pending = s.pending := by
  unfold afterSnoop
  dsimp only
  split <;> simp_all
@[simp] theorem State.wakeCore_frame (a1 : State) (a2) : (State.wakeCore a1 a2).ident = a1.ident ∧ (State.wakeCore a1 a2).nv = a1.nv ∧ (State.wakeCore a1 a2).top = a1.top ∧ (State.wakeCore a1 a2).cores = a1.cores ∧ (State.wakeCore a1 a2).hub = a1.hub ∧ (State.wakeCore a1 a2).err = a1.err ∧ (State.wakeCore a1 a2).mem = a1.mem ∧ (State.wakeCore a1 a2).cle = a1.cle ∧ (State.wakeCore a1 a2).pue0 = a1.pue0 ∧ (State.wakeCore a1 a2).pue1 = a1.pue1 ∧ (State.wakeCore a1 a2).cke = a1.cke ∧ (State.wakeCore a1 a2).fab = a1.fab ∧ (State.wakeCore a1 a2).pmu = a1.pmu ∧ (State.wakeCore a1 a2).mss = a1.mss ∧ (State.wakeCore a1 a2).sent = a1.sent ∧ (State.wakeCore a1 a2).fresh = a1.fresh ∧ (State.wakeCore a1 a2).routineIds = a1.routineIds ∧ (State.wakeCore a1 a2).pending = a1.pending := by
  simp [State.wakeCore]
@[simp] theorem State.setPue_frame (a1 : State) (a2) (a3) : (State.setPue a1 a2 a3).ident = a1.ident ∧ (State.setPue a1 a2 a3).nv = a1.nv ∧ (State.setPue a1 a2 a3).top = a1.top ∧ (State.setPue a1 a2 a3).cores = a1.cores ∧ (State.setPue a1 a2 a3).hub = a1.hub ∧ (State.setPue a1 a2 a3).err = a1.err ∧ (State.setPue a1 a2 a3).mem = a1.mem ∧ (State.setPue a1 a2 a3).cle = a1.cle ∧ (State.setPue a1 a2 a3).cke = a1.cke ∧ (State.setPue a1 a2 a3).pwr = a1.pwr ∧ (State.setPue a1 a2 a3).fab = a1.fab ∧ (State.setPue a1 a2 a3).pmu = a1.pmu ∧ (State.setPue a1 a2 a3).mss = a1.mss ∧ (State.setPue a1 a2 a3).sent = a1.sent ∧ (State.setPue a1 a2 a3).fresh = a1.fresh ∧ (State.setPue a1 a2 a3).routineIds = a1.routineIds ∧ (State.setPue a1 a2 a3).pending = a1.pending := by
  simp [State.setPue]
@[simp] theorem State.loseDie_frame (a1 : State) (a2) (a3) (a4) (a5) : (State.loseDie a1 a2 a3 a4 a5).ident = a1.ident ∧ (State.loseDie a1 a2 a3 a4 a5).nv = a1.nv ∧ (State.loseDie a1 a2 a3 a4 a5).mem = a1.mem ∧ (State.loseDie a1 a2 a3 a4 a5).cle = a1.cle ∧ (State.loseDie a1 a2 a3 a4 a5).pwr = a1.pwr ∧ (State.loseDie a1 a2 a3 a4 a5).fab = a1.fab ∧ (State.loseDie a1 a2 a3 a4 a5).mss = a1.mss ∧ (State.loseDie a1 a2 a3 a4 a5).fresh = a1.fresh ∧ (State.loseDie a1 a2 a3 a4 a5).routineIds = a1.routineIds ∧ (State.loseDie a1 a2 a3 a4 a5).pending = a1.pending := by
  simp [State.loseDie]
@[simp] theorem State.ocEccHit_frame (a1 : State) (a2) (a3) (a4) : (State.ocEccHit a1 a2 a3 a4).ident = a1.ident ∧ (State.ocEccHit a1 a2 a3 a4).nv = a1.nv ∧ (State.ocEccHit a1 a2 a3 a4).top = a1.top ∧ (State.ocEccHit a1 a2 a3 a4).mem = a1.mem ∧ (State.ocEccHit a1 a2 a3 a4).cle = a1.cle ∧ (State.ocEccHit a1 a2 a3 a4).pue0 = a1.pue0 ∧ (State.ocEccHit a1 a2 a3 a4).pue1 = a1.pue1 ∧ (State.ocEccHit a1 a2 a3 a4).pwr = a1.pwr ∧ (State.ocEccHit a1 a2 a3 a4).fab = a1.fab ∧ (State.ocEccHit a1 a2 a3 a4).mss = a1.mss ∧ (State.ocEccHit a1 a2 a3 a4).fresh = a1.fresh ∧ (State.ocEccHit a1 a2 a3 a4).routineIds = a1.routineIds ∧ (State.ocEccHit a1 a2 a3 a4).pending = a1.pending := by
  simp [State.ocEccHit]
@[simp] theorem State.accEccHit_frame (a1 : State) (a2) (a3) (a4) : (State.accEccHit a1 a2 a3 a4).ident = a1.ident ∧ (State.accEccHit a1 a2 a3 a4).nv = a1.nv ∧ (State.accEccHit a1 a2 a3 a4).top = a1.top ∧ (State.accEccHit a1 a2 a3 a4).mem = a1.mem ∧ (State.accEccHit a1 a2 a3 a4).cle = a1.cle ∧ (State.accEccHit a1 a2 a3 a4).pue0 = a1.pue0 ∧ (State.accEccHit a1 a2 a3 a4).pue1 = a1.pue1 ∧ (State.accEccHit a1 a2 a3 a4).pwr = a1.pwr ∧ (State.accEccHit a1 a2 a3 a4).fab = a1.fab ∧ (State.accEccHit a1 a2 a3 a4).mss = a1.mss ∧ (State.accEccHit a1 a2 a3 a4).fresh = a1.fresh ∧ (State.accEccHit a1 a2 a3 a4).routineIds = a1.routineIds ∧ (State.accEccHit a1 a2 a3 a4).pending = a1.pending := by
  simp [State.accEccHit]
@[simp] theorem State.ocEcc_frame (a1 : State) (a2) (a3) (a4) : (State.ocEcc a1 a2 a3 a4).ident = a1.ident ∧ (State.ocEcc a1 a2 a3 a4).nv = a1.nv ∧ (State.ocEcc a1 a2 a3 a4).top = a1.top ∧ (State.ocEcc a1 a2 a3 a4).mem = a1.mem ∧ (State.ocEcc a1 a2 a3 a4).cle = a1.cle ∧ (State.ocEcc a1 a2 a3 a4).pue0 = a1.pue0 ∧ (State.ocEcc a1 a2 a3 a4).pue1 = a1.pue1 ∧ (State.ocEcc a1 a2 a3 a4).pwr = a1.pwr ∧ (State.ocEcc a1 a2 a3 a4).fab = a1.fab ∧ (State.ocEcc a1 a2 a3 a4).mss = a1.mss ∧ (State.ocEcc a1 a2 a3 a4).fresh = a1.fresh ∧ (State.ocEcc a1 a2 a3 a4).routineIds = a1.routineIds ∧ (State.ocEcc a1 a2 a3 a4).pending = a1.pending := by
  simp [State.ocEcc]
@[simp] theorem csigFire_frame (a1 : State) (a2) (a3) : (csigFire a1 a2 a3).ident = a1.ident ∧ (csigFire a1 a2 a3).nv = a1.nv ∧ (csigFire a1 a2 a3).top = a1.top ∧ (csigFire a1 a2 a3).err = a1.err ∧ (csigFire a1 a2 a3).mem = a1.mem ∧ (csigFire a1 a2 a3).cle = a1.cle ∧ (csigFire a1 a2 a3).pue0 = a1.pue0 ∧ (csigFire a1 a2 a3).pue1 = a1.pue1 ∧ (csigFire a1 a2 a3).cke = a1.cke ∧ (csigFire a1 a2 a3).pwr = a1.pwr ∧ (csigFire a1 a2 a3).fab = a1.fab ∧ (csigFire a1 a2 a3).mss = a1.mss ∧ (csigFire a1 a2 a3).fresh = a1.fresh ∧ (csigFire a1 a2 a3).routineIds = a1.routineIds ∧ (csigFire a1 a2 a3).pending = a1.pending := by
  simp [csigFire]
@[simp] theorem State.stallOn_frame (a1 : State) (a2) (a3) : (State.stallOn a1 a2 a3).ident = a1.ident ∧ (State.stallOn a1 a2 a3).nv = a1.nv ∧ (State.stallOn a1 a2 a3).top = a1.top ∧ (State.stallOn a1 a2 a3).hub = a1.hub ∧ (State.stallOn a1 a2 a3).err = a1.err ∧ (State.stallOn a1 a2 a3).mem = a1.mem ∧ (State.stallOn a1 a2 a3).cle = a1.cle ∧ (State.stallOn a1 a2 a3).pue0 = a1.pue0 ∧ (State.stallOn a1 a2 a3).pue1 = a1.pue1 ∧ (State.stallOn a1 a2 a3).cke = a1.cke ∧ (State.stallOn a1 a2 a3).pwr = a1.pwr ∧ (State.stallOn a1 a2 a3).fab = a1.fab ∧ (State.stallOn a1 a2 a3).pmu = a1.pmu ∧ (State.stallOn a1 a2 a3).mss = a1.mss ∧ (State.stallOn a1 a2 a3).sent = a1.sent ∧ (State.stallOn a1 a2 a3).fresh = a1.fresh ∧ (State.stallOn a1 a2 a3).routineIds = a1.routineIds ∧ (State.stallOn a1 a2 a3).pending = a1.pending := by
  simp [State.stallOn]
@[simp] theorem fetchWord_frame (a1 : State) (a2) (a3) : (fetchWord a1 a2 a3).2.ident = a1.ident ∧ (fetchWord a1 a2 a3).2.nv = a1.nv ∧ (fetchWord a1 a2 a3).2.top = a1.top ∧ (fetchWord a1 a2 a3).2.cores = a1.cores ∧ (fetchWord a1 a2 a3).2.cle = a1.cle ∧ (fetchWord a1 a2 a3).2.pue0 = a1.pue0 ∧ (fetchWord a1 a2 a3).2.pue1 = a1.pue1 ∧ (fetchWord a1 a2 a3).2.fab = a1.fab ∧ (fetchWord a1 a2 a3).2.mss = a1.mss ∧ (fetchWord a1 a2 a3).2.routineIds = a1.routineIds ∧ (fetchWord a1 a2 a3).2.pending = a1.pending := by
  simp only [fetchWord]
  repeat' split
  all_goals simp
@[simp] theorem dispatchWith_ident (a1 : State) (a2) (a3) (a4) (a5) (a6) (a7) (a8) (ha8 : ∀ y0 y1 y2, (a8 y0 y1 y2).ident = y0.ident) : (dispatchWith a1 a2 a3 a4 a5 a6 a7 a8).ident = a1.ident := by
  unfold dispatchWith
  try dsimp only
  repeat' split
  all_goals simp_all
@[simp] theorem dispatchWith_nv (a1 : State) (a2) (a3) (a4) (a5) (a6) (a7) (a8) (ha8 : ∀ y0 y1 y2, (a8 y0 y1 y2).nv = y0.nv) : (dispatchWith a1 a2 a3 a4 a5 a6 a7 a8).nv = a1.nv := by
  unfold dispatchWith
  try dsimp only
  repeat' split
  all_goals simp_all
@[simp] theorem dispatchWith_top (a1 : State) (a2) (a3) (a4) (a5) (a6) (a7) (a8) (ha8 : ∀ y0 y1 y2, (a8 y0 y1 y2).top = y0.top) : (dispatchWith a1 a2 a3 a4 a5 a6 a7 a8).top = a1.top := by
  unfold dispatchWith
  try dsimp only
  repeat' split
  all_goals simp_all
@[simp] theorem dispatchWith_cle (a1 : State) (a2) (a3) (a4) (a5) (a6) (a7) (a8) (ha8 : ∀ y0 y1 y2, (a8 y0 y1 y2).cle = y0.cle) : (dispatchWith a1 a2 a3 a4 a5 a6 a7 a8).cle = a1.cle := by
  unfold dispatchWith
  try dsimp only
  repeat' split
  all_goals simp_all
@[simp] theorem dispatchWith_pue0 (a1 : State) (a2) (a3) (a4) (a5) (a6) (a7) (a8) (ha8 : ∀ y0 y1 y2, (a8 y0 y1 y2).pue0 = y0.pue0) : (dispatchWith a1 a2 a3 a4 a5 a6 a7 a8).pue0 = a1.pue0 := by
  unfold dispatchWith
  try dsimp only
  repeat' split
  all_goals simp_all
@[simp] theorem dispatchWith_pue1 (a1 : State) (a2) (a3) (a4) (a5) (a6) (a7) (a8) (ha8 : ∀ y0 y1 y2, (a8 y0 y1 y2).pue1 = y0.pue1) : (dispatchWith a1 a2 a3 a4 a5 a6 a7 a8).pue1 = a1.pue1 := by
  unfold dispatchWith
  try dsimp only
  repeat' split
  all_goals simp_all
@[simp] theorem dispatchWith_fab (a1 : State) (a2) (a3) (a4) (a5) (a6) (a7) (a8) (ha8 : ∀ y0 y1 y2, (a8 y0 y1 y2).fab = y0.fab) : (dispatchWith a1 a2 a3 a4 a5 a6 a7 a8).fab = a1.fab := by
  unfold dispatchWith
  try dsimp only
  repeat' split
  all_goals simp_all
@[simp] theorem dispatchWith_mss (a1 : State) (a2) (a3) (a4) (a5) (a6) (a7) (a8) (ha8 : ∀ y0 y1 y2, (a8 y0 y1 y2).mss = y0.mss) : (dispatchWith a1 a2 a3 a4 a5 a6 a7 a8).mss = a1.mss := by
  unfold dispatchWith
  try dsimp only
  repeat' split
  all_goals simp_all
@[simp] theorem dispatchWith_routineIds (a1 : State) (a2) (a3) (a4) (a5) (a6) (a7) (a8) (ha8 : ∀ y0 y1 y2, (a8 y0 y1 y2).routineIds = y0.routineIds) : (dispatchWith a1 a2 a3 a4 a5 a6 a7 a8).routineIds = a1.routineIds := by
  unfold dispatchWith
  try dsimp only
  repeat' split
  all_goals simp_all
@[simp] theorem dispatchWith_pending (a1 : State) (a2) (a3) (a4) (a5) (a6) (a7) (a8) (ha8 : ∀ y0 y1 y2, (a8 y0 y1 y2).pending = y0.pending) : (dispatchWith a1 a2 a3 a4 a5 a6 a7 a8).pending = a1.pending := by
  unfold dispatchWith
  try dsimp only
  repeat' split
  all_goals simp_all
@[simp] theorem engDispatch_frame (a1) (a2) (a3) (a4) (a5) (a6) (a7 : State) (a8) (a9) : (engDispatch a1 a2 a3 a4 a5 a6 a7 a8 a9).ident = a7.ident ∧ (engDispatch a1 a2 a3 a4 a5 a6 a7 a8 a9).nv = a7.nv ∧ (engDispatch a1 a2 a3 a4 a5 a6 a7 a8 a9).top = a7.top ∧ (engDispatch a1 a2 a3 a4 a5 a6 a7 a8 a9).hub = a7.hub ∧ (engDispatch a1 a2 a3 a4 a5 a6 a7 a8 a9).err = a7.err ∧ (engDispatch a1 a2 a3 a4 a5 a6 a7 a8 a9).mem = a7.mem ∧ (engDispatch a1 a2 a3 a4 a5 a6 a7 a8 a9).cle = a7.cle ∧ (engDispatch a1 a2 a3 a4 a5 a6 a7 a8 a9).pue0 = a7.pue0 ∧ (engDispatch a1 a2 a3 a4 a5 a6 a7 a8 a9).pue1 = a7.pue1 ∧ (engDispatch a1 a2 a3 a4 a5 a6 a7 a8 a9).cke = a7.cke ∧ (engDispatch a1 a2 a3 a4 a5 a6 a7 a8 a9).pwr = a7.pwr ∧ (engDispatch a1 a2 a3 a4 a5 a6 a7 a8 a9).fab = a7.fab ∧ (engDispatch a1 a2 a3 a4 a5 a6 a7 a8 a9).pmu = a7.pmu ∧ (engDispatch a1 a2 a3 a4 a5 a6 a7 a8 a9).mss = a7.mss ∧ (engDispatch a1 a2 a3 a4 a5 a6 a7 a8 a9).sent = a7.sent ∧ (engDispatch a1 a2 a3 a4 a5 a6 a7 a8 a9).fresh = a7.fresh ∧ (engDispatch a1 a2 a3 a4 a5 a6 a7 a8 a9).routineIds = a7.routineIds ∧ (engDispatch a1 a2 a3 a4 a5 a6 a7 a8 a9).pending = a7.pending := by
  simp only [engDispatch]
  repeat' split
  all_goals simp
@[simp] theorem State.engFault_frame (a1 : State) (a2) (a3) (a4) (a5) : (State.engFault a1 a2 a3 a4 a5).ident = a1.ident ∧ (State.engFault a1 a2 a3 a4 a5).nv = a1.nv ∧ (State.engFault a1 a2 a3 a4 a5).top = a1.top ∧ (State.engFault a1 a2 a3 a4 a5).mem = a1.mem ∧ (State.engFault a1 a2 a3 a4 a5).cle = a1.cle ∧ (State.engFault a1 a2 a3 a4 a5).pue0 = a1.pue0 ∧ (State.engFault a1 a2 a3 a4 a5).pue1 = a1.pue1 ∧ (State.engFault a1 a2 a3 a4 a5).cke = a1.cke ∧ (State.engFault a1 a2 a3 a4 a5).pwr = a1.pwr ∧ (State.engFault a1 a2 a3 a4 a5).fab = a1.fab ∧ (State.engFault a1 a2 a3 a4 a5).mss = a1.mss ∧ (State.engFault a1 a2 a3 a4 a5).fresh = a1.fresh ∧ (State.engFault a1 a2 a3 a4 a5).routineIds = a1.routineIds ∧ (State.engFault a1 a2 a3 a4 a5).pending = a1.pending := by
  simp [State.engFault]
@[simp] theorem State.askCredit_frame (a1 : State) (a2) (a3) (a4) : (State.askCredit a1 a2 a3 a4).ident = a1.ident ∧ (State.askCredit a1 a2 a3 a4).nv = a1.nv ∧ (State.askCredit a1 a2 a3 a4).top = a1.top ∧ (State.askCredit a1 a2 a3 a4).cores = a1.cores ∧ (State.askCredit a1 a2 a3 a4).hub = a1.hub ∧ (State.askCredit a1 a2 a3 a4).err = a1.err ∧ (State.askCredit a1 a2 a3 a4).mem = a1.mem ∧ (State.askCredit a1 a2 a3 a4).cle = a1.cle ∧ (State.askCredit a1 a2 a3 a4).pue0 = a1.pue0 ∧ (State.askCredit a1 a2 a3 a4).pue1 = a1.pue1 ∧ (State.askCredit a1 a2 a3 a4).cke = a1.cke ∧ (State.askCredit a1 a2 a3 a4).fab = a1.fab ∧ (State.askCredit a1 a2 a3 a4).pmu = a1.pmu ∧ (State.askCredit a1 a2 a3 a4).mss = a1.mss ∧ (State.askCredit a1 a2 a3 a4).sent = a1.sent ∧ (State.askCredit a1 a2 a3 a4).fresh = a1.fresh ∧ (State.askCredit a1 a2 a3 a4).routineIds = a1.routineIds ∧ (State.askCredit a1 a2 a3 a4).pending = a1.pending := by
  simp [State.askCredit]
@[simp] theorem State.addCredit_frame (a1 : State) (a2) (a3) : (State.addCredit a1 a2 a3).ident = a1.ident ∧ (State.addCredit a1 a2 a3).nv = a1.nv ∧ (State.addCredit a1 a2 a3).top = a1.top ∧ (State.addCredit a1 a2 a3).cores = a1.cores ∧ (State.addCredit a1 a2 a3).hub = a1.hub ∧ (State.addCredit a1 a2 a3).err = a1.err ∧ (State.addCredit a1 a2 a3).mem = a1.mem ∧ (State.addCredit a1 a2 a3).cle = a1.cle ∧ (State.addCredit a1 a2 a3).pue0 = a1.pue0 ∧ (State.addCredit a1 a2 a3).pue1 = a1.pue1 ∧ (State.addCredit a1 a2 a3).cke = a1.cke ∧ (State.addCredit a1 a2 a3).fab = a1.fab ∧ (State.addCredit a1 a2 a3).pmu = a1.pmu ∧ (State.addCredit a1 a2 a3).mss = a1.mss ∧ (State.addCredit a1 a2 a3).sent = a1.sent ∧ (State.addCredit a1 a2 a3).fresh = a1.fresh ∧ (State.addCredit a1 a2 a3).routineIds = a1.routineIds ∧ (State.addCredit a1 a2 a3).pending = a1.pending := by
  simp [State.addCredit]
@[simp] theorem State.grant_frame (a1 : State) (a2) : (State.grant a1 a2).ident = a1.ident ∧ (State.grant a1 a2).nv = a1.nv ∧ (State.grant a1 a2).top = a1.top ∧ (State.grant a1 a2).cores = a1.cores ∧ (State.grant a1 a2).hub = a1.hub ∧ (State.grant a1 a2).err = a1.err ∧ (State.grant a1 a2).mem = a1.mem ∧ (State.grant a1 a2).cle = a1.cle ∧ (State.grant a1 a2).pue0 = a1.pue0 ∧ (State.grant a1 a2).pue1 = a1.pue1 ∧ (State.grant a1 a2).cke = a1.cke ∧ (State.grant a1 a2).fab = a1.fab ∧ (State.grant a1 a2).pmu = a1.pmu ∧ (State.grant a1 a2).mss = a1.mss ∧ (State.grant a1 a2).sent = a1.sent ∧ (State.grant a1 a2).fresh = a1.fresh ∧ (State.grant a1 a2).routineIds = a1.routineIds ∧ (State.grant a1 a2).pending = a1.pending := by
  simp [State.grant]
@[simp] theorem grantN_frame (a1) (a2 : State) : (grantN a1 a2).ident = a2.ident ∧ (grantN a1 a2).nv = a2.nv ∧ (grantN a1 a2).top = a2.top ∧ (grantN a1 a2).cores = a2.cores ∧ (grantN a1 a2).hub = a2.hub ∧ (grantN a1 a2).err = a2.err ∧ (grantN a1 a2).mem = a2.mem ∧ (grantN a1 a2).cle = a2.cle ∧ (grantN a1 a2).pue0 = a2.pue0 ∧ (grantN a1 a2).pue1 = a2.pue1 ∧ (grantN a1 a2).cke = a2.cke ∧ (grantN a1 a2).fab = a2.fab ∧ (grantN a1 a2).pmu = a2.pmu ∧ (grantN a1 a2).mss = a2.mss ∧ (grantN a1 a2).sent = a2.sent ∧ (grantN a1 a2).fresh = a2.fresh ∧ (grantN a1 a2).routineIds = a2.routineIds ∧ (grantN a1 a2).pending = a2.pending := by
  induction a1 generalizing a2 with
  | zero => simp [grantN]
  | succ n ih =>
    unfold grantN
    try dsimp only
    repeat' split
    all_goals simp_all
@[simp] theorem State.askAgain_frame (a1 : State) (a2) : (State.askAgain a1 a2).ident = a1.ident ∧ (State.askAgain a1 a2).nv = a1.nv ∧ (State.askAgain a1 a2).top = a1.top ∧ (State.askAgain a1 a2).cores = a1.cores ∧ (State.askAgain a1 a2).hub = a1.hub ∧ (State.askAgain a1 a2).err = a1.err ∧ (State.askAgain a1 a2).mem = a1.mem ∧ (State.askAgain a1 a2).cle = a1.cle ∧ (State.askAgain a1 a2).pue0 = a1.pue0 ∧ (State.askAgain a1 a2).pue1 = a1.pue1 ∧ (State.askAgain a1 a2).cke = a1.cke ∧ (State.askAgain a1 a2).fab = a1.fab ∧ (State.askAgain a1 a2).pmu = a1.pmu ∧ (State.askAgain a1 a2).mss = a1.mss ∧ (State.askAgain a1 a2).sent = a1.sent ∧ (State.askAgain a1 a2).fresh = a1.fresh ∧ (State.askAgain a1 a2).routineIds = a1.routineIds ∧ (State.askAgain a1 a2).pending = a1.pending := by
  simp [State.askAgain]
@[simp] theorem State.dropCredit_frame (a1 : State) (a2) : (State.dropCredit a1 a2).ident = a1.ident ∧ (State.dropCredit a1 a2).nv = a1.nv ∧ (State.dropCredit a1 a2).top = a1.top ∧ (State.dropCredit a1 a2).cores = a1.cores ∧ (State.dropCredit a1 a2).hub = a1.hub ∧ (State.dropCredit a1 a2).err = a1.err ∧ (State.dropCredit a1 a2).mem = a1.mem ∧ (State.dropCredit a1 a2).cle = a1.cle ∧ (State.dropCredit a1 a2).pue0 = a1.pue0 ∧ (State.dropCredit a1 a2).pue1 = a1.pue1 ∧ (State.dropCredit a1 a2).cke = a1.cke ∧ (State.dropCredit a1 a2).fab = a1.fab ∧ (State.dropCredit a1 a2).pmu = a1.pmu ∧ (State.dropCredit a1 a2).mss = a1.mss ∧ (State.dropCredit a1 a2).sent = a1.sent ∧ (State.dropCredit a1 a2).fresh = a1.fresh ∧ (State.dropCredit a1 a2).routineIds = a1.routineIds ∧ (State.dropCredit a1 a2).pending = a1.pending := by
  simp [State.dropCredit]
@[simp] theorem State.askWanted_frame (a1 : State) (a2) : (State.askWanted a1 a2).ident = a1.ident ∧ (State.askWanted a1 a2).nv = a1.nv ∧ (State.askWanted a1 a2).top = a1.top ∧ (State.askWanted a1 a2).cores = a1.cores ∧ (State.askWanted a1 a2).hub = a1.hub ∧ (State.askWanted a1 a2).err = a1.err ∧ (State.askWanted a1 a2).mem = a1.mem ∧ (State.askWanted a1 a2).cle = a1.cle ∧ (State.askWanted a1 a2).pue0 = a1.pue0 ∧ (State.askWanted a1 a2).pue1 = a1.pue1 ∧ (State.askWanted a1 a2).cke = a1.cke ∧ (State.askWanted a1 a2).fab = a1.fab ∧ (State.askWanted a1 a2).pmu = a1.pmu ∧ (State.askWanted a1 a2).mss = a1.mss ∧ (State.askWanted a1 a2).sent = a1.sent ∧ (State.askWanted a1 a2).fresh = a1.fresh ∧ (State.askWanted a1 a2).routineIds = a1.routineIds ∧ (State.askWanted a1 a2).pending = a1.pending := by
  simp only [State.askWanted]
  repeat' split
  all_goals simp
@[simp] theorem State.lapse_frame (a1 : State) (a2) : (State.lapse a1 a2).ident = a1.ident ∧ (State.lapse a1 a2).nv = a1.nv ∧ (State.lapse a1 a2).top = a1.top ∧ (State.lapse a1 a2).cores = a1.cores ∧ (State.lapse a1 a2).hub = a1.hub ∧ (State.lapse a1 a2).err = a1.err ∧ (State.lapse a1 a2).mem = a1.mem ∧ (State.lapse a1 a2).cle = a1.cle ∧ (State.lapse a1 a2).pue0 = a1.pue0 ∧ (State.lapse a1 a2).pue1 = a1.pue1 ∧ (State.lapse a1 a2).cke = a1.cke ∧ (State.lapse a1 a2).fab = a1.fab ∧ (State.lapse a1 a2).pmu = a1.pmu ∧ (State.lapse a1 a2).mss = a1.mss ∧ (State.lapse a1 a2).sent = a1.sent ∧ (State.lapse a1 a2).fresh = a1.fresh ∧ (State.lapse a1 a2).routineIds = a1.routineIds ∧ (State.lapse a1 a2).pending = a1.pending := by
  simp only [State.lapse]
  repeat' split
  all_goals simp
@[simp] theorem State.yieldCredit_frame (a1 : State) (a2) (a3) : (State.yieldCredit a1 a2 a3).ident = a1.ident ∧ (State.yieldCredit a1 a2 a3).nv = a1.nv ∧ (State.yieldCredit a1 a2 a3).top = a1.top ∧ (State.yieldCredit a1 a2 a3).cores = a1.cores ∧ (State.yieldCredit a1 a2 a3).hub = a1.hub ∧ (State.yieldCredit a1 a2 a3).err = a1.err ∧ (State.yieldCredit a1 a2 a3).mem = a1.mem ∧ (State.yieldCredit a1 a2 a3).cle = a1.cle ∧ (State.yieldCredit a1 a2 a3).pue0 = a1.pue0 ∧ (State.yieldCredit a1 a2 a3).pue1 = a1.pue1 ∧ (State.yieldCredit a1 a2 a3).cke = a1.cke ∧ (State.yieldCredit a1 a2 a3).fab = a1.fab ∧ (State.yieldCredit a1 a2 a3).pmu = a1.pmu ∧ (State.yieldCredit a1 a2 a3).mss = a1.mss ∧ (State.yieldCredit a1 a2 a3).sent = a1.sent ∧ (State.yieldCredit a1 a2 a3).fresh = a1.fresh ∧ (State.yieldCredit a1 a2 a3).routineIds = a1.routineIds ∧ (State.yieldCredit a1 a2 a3).pending = a1.pending := by
  simp [State.yieldCredit]
@[simp] theorem State.yieldSwap_frame (a1 : State) (a2) : (State.yieldSwap a1 a2).ident = a1.ident ∧ (State.yieldSwap a1 a2).nv = a1.nv ∧ (State.yieldSwap a1 a2).top = a1.top ∧ (State.yieldSwap a1 a2).cores = a1.cores ∧ (State.yieldSwap a1 a2).hub = a1.hub ∧ (State.yieldSwap a1 a2).err = a1.err ∧ (State.yieldSwap a1 a2).mem = a1.mem ∧ (State.yieldSwap a1 a2).cle = a1.cle ∧ (State.yieldSwap a1 a2).pue0 = a1.pue0 ∧ (State.yieldSwap a1 a2).pue1 = a1.pue1 ∧ (State.yieldSwap a1 a2).cke = a1.cke ∧ (State.yieldSwap a1 a2).fab = a1.fab ∧ (State.yieldSwap a1 a2).pmu = a1.pmu ∧ (State.yieldSwap a1 a2).mss = a1.mss ∧ (State.yieldSwap a1 a2).sent = a1.sent ∧ (State.yieldSwap a1 a2).fresh = a1.fresh ∧ (State.yieldSwap a1 a2).routineIds = a1.routineIds ∧ (State.yieldSwap a1 a2).pending = a1.pending := by
  simp only [State.yieldSwap]
  repeat' split
  all_goals simp
@[simp] theorem State.releases_frame (a1 : State) : (State.releases a1).ident = a1.ident ∧ (State.releases a1).nv = a1.nv ∧ (State.releases a1).top = a1.top ∧ (State.releases a1).cores = a1.cores ∧ (State.releases a1).hub = a1.hub ∧ (State.releases a1).err = a1.err ∧ (State.releases a1).mem = a1.mem ∧ (State.releases a1).cle = a1.cle ∧ (State.releases a1).pue0 = a1.pue0 ∧ (State.releases a1).pue1 = a1.pue1 ∧ (State.releases a1).cke = a1.cke ∧ (State.releases a1).fab = a1.fab ∧ (State.releases a1).pmu = a1.pmu ∧ (State.releases a1).mss = a1.mss ∧ (State.releases a1).sent = a1.sent ∧ (State.releases a1).fresh = a1.fresh ∧ (State.releases a1).routineIds = a1.routineIds ∧ (State.releases a1).pending = a1.pending := by
  simp [State.releases]
@[simp] theorem State.needCredit_frame (a1 : State) (a2) (a3) : (State.needCredit a1 a2 a3).2.ident = a1.ident ∧ (State.needCredit a1 a2 a3).2.nv = a1.nv ∧ (State.needCredit a1 a2 a3).2.top = a1.top ∧ (State.needCredit a1 a2 a3).2.cores = a1.cores ∧ (State.needCredit a1 a2 a3).2.hub = a1.hub ∧ (State.needCredit a1 a2 a3).2.err = a1.err ∧ (State.needCredit a1 a2 a3).2.mem = a1.mem ∧ (State.needCredit a1 a2 a3).2.cle = a1.cle ∧ (State.needCredit a1 a2 a3).2.pue0 = a1.pue0 ∧ (State.needCredit a1 a2 a3).2.pue1 = a1.pue1 ∧ (State.needCredit a1 a2 a3).2.cke = a1.cke ∧ (State.needCredit a1 a2 a3).2.fab = a1.fab ∧ (State.needCredit a1 a2 a3).2.pmu = a1.pmu ∧ (State.needCredit a1 a2 a3).2.mss = a1.mss ∧ (State.needCredit a1 a2 a3).2.sent = a1.sent ∧ (State.needCredit a1 a2 a3).2.fresh = a1.fresh ∧ (State.needCredit a1 a2 a3).2.routineIds = a1.routineIds ∧ (State.needCredit a1 a2 a3).2.pending = a1.pending := by
  simp only [State.needCredit]
  repeat' split
  all_goals simp
@[simp] theorem State.needMultipass_frame (a1 : State) (a2) : (State.needMultipass a1 a2).2.ident = a1.ident ∧ (State.needMultipass a1 a2).2.nv = a1.nv ∧ (State.needMultipass a1 a2).2.top = a1.top ∧ (State.needMultipass a1 a2).2.cores = a1.cores ∧ (State.needMultipass a1 a2).2.hub = a1.hub ∧ (State.needMultipass a1 a2).2.err = a1.err ∧ (State.needMultipass a1 a2).2.mem = a1.mem ∧ (State.needMultipass a1 a2).2.cle = a1.cle ∧ (State.needMultipass a1 a2).2.pue0 = a1.pue0 ∧ (State.needMultipass a1 a2).2.pue1 = a1.pue1 ∧ (State.needMultipass a1 a2).2.cke = a1.cke ∧ (State.needMultipass a1 a2).2.fab = a1.fab ∧ (State.needMultipass a1 a2).2.pmu = a1.pmu ∧ (State.needMultipass a1 a2).2.mss = a1.mss ∧ (State.needMultipass a1 a2).2.sent = a1.sent ∧ (State.needMultipass a1 a2).2.fresh = a1.fresh ∧ (State.needMultipass a1 a2).2.routineIds = a1.routineIds ∧ (State.needMultipass a1 a2).2.pending = a1.pending := by
  simp only [State.needMultipass]
  repeat' split
  all_goals simp
@[simp] theorem State.countArrayFault_frame (a1 : State) (a2) (a3) : (State.countArrayFault a1 a2 a3).ident = a1.ident ∧ (State.countArrayFault a1 a2 a3).nv = a1.nv ∧ (State.countArrayFault a1 a2 a3).top = a1.top ∧ (State.countArrayFault a1 a2 a3).mem = a1.mem ∧ (State.countArrayFault a1 a2 a3).cle = a1.cle ∧ (State.countArrayFault a1 a2 a3).pue0 = a1.pue0 ∧ (State.countArrayFault a1 a2 a3).pue1 = a1.pue1 ∧ (State.countArrayFault a1 a2 a3).cke = a1.cke ∧ (State.countArrayFault a1 a2 a3).pwr = a1.pwr ∧ (State.countArrayFault a1 a2 a3).fab = a1.fab ∧ (State.countArrayFault a1 a2 a3).mss = a1.mss ∧ (State.countArrayFault a1 a2 a3).fresh = a1.fresh ∧ (State.countArrayFault a1 a2 a3).routineIds = a1.routineIds ∧ (State.countArrayFault a1 a2 a3).pending = a1.pending := by
  simp [State.countArrayFault]
@[simp] theorem State.accEcc_frame (a1 : State) (a2) (a3) (a4) (a5) (a6) : (State.accEcc a1 a2 a3 a4 a5 a6).ident = a1.ident ∧ (State.accEcc a1 a2 a3 a4 a5 a6).nv = a1.nv ∧ (State.accEcc a1 a2 a3 a4 a5 a6).top = a1.top ∧ (State.accEcc a1 a2 a3 a4 a5 a6).mem = a1.mem ∧ (State.accEcc a1 a2 a3 a4 a5 a6).cle = a1.cle ∧ (State.accEcc a1 a2 a3 a4 a5 a6).pue0 = a1.pue0 ∧ (State.accEcc a1 a2 a3 a4 a5 a6).pue1 = a1.pue1 ∧ (State.accEcc a1 a2 a3 a4 a5 a6).pwr = a1.pwr ∧ (State.accEcc a1 a2 a3 a4 a5 a6).fab = a1.fab ∧ (State.accEcc a1 a2 a3 a4 a5 a6).mss = a1.mss ∧ (State.accEcc a1 a2 a3 a4 a5 a6).fresh = a1.fresh ∧ (State.accEcc a1 a2 a3 a4 a5 a6).routineIds = a1.routineIds ∧ (State.accEcc a1 a2 a3 a4 a5 a6).pending = a1.pending := by
  simp [State.accEcc]
@[simp] theorem State.countRows_frame (a1 : State) (a2) (a3) (a4) (a5) : (State.countRows a1 a2 a3 a4 a5).ident = a1.ident ∧ (State.countRows a1 a2 a3 a4 a5).nv = a1.nv ∧ (State.countRows a1 a2 a3 a4 a5).top = a1.top ∧ (State.countRows a1 a2 a3 a4 a5).err = a1.err ∧ (State.countRows a1 a2 a3 a4 a5).mem = a1.mem ∧ (State.countRows a1 a2 a3 a4 a5).cle = a1.cle ∧ (State.countRows a1 a2 a3 a4 a5).pue0 = a1.pue0 ∧ (State.countRows a1 a2 a3 a4 a5).pue1 = a1.pue1 ∧ (State.countRows a1 a2 a3 a4 a5).cke = a1.cke ∧ (State.countRows a1 a2 a3 a4 a5).pwr = a1.pwr ∧ (State.countRows a1 a2 a3 a4 a5).fab = a1.fab ∧ (State.countRows a1 a2 a3 a4 a5).mss = a1.mss ∧ (State.countRows a1 a2 a3 a4 a5).fresh = a1.fresh ∧ (State.countRows a1 a2 a3 a4 a5).routineIds = a1.routineIds ∧ (State.countRows a1 a2 a3 a4 a5).pending = a1.pending := by
  simp [State.countRows]
@[simp] theorem exitCheck_frame (a1 : State) (a2) (a3) (a4) (a5) (a6) (a7) (a8) : (exitCheck a1 a2 a3 a4 a5 a6 a7 a8).2.2.ident = a1.ident ∧ (exitCheck a1 a2 a3 a4 a5 a6 a7 a8).2.2.nv = a1.nv ∧ (exitCheck a1 a2 a3 a4 a5 a6 a7 a8).2.2.top = a1.top ∧ (exitCheck a1 a2 a3 a4 a5 a6 a7 a8).2.2.mem = a1.mem ∧ (exitCheck a1 a2 a3 a4 a5 a6 a7 a8).2.2.cle = a1.cle ∧ (exitCheck a1 a2 a3 a4 a5 a6 a7 a8).2.2.pue0 = a1.pue0 ∧ (exitCheck a1 a2 a3 a4 a5 a6 a7 a8).2.2.pue1 = a1.pue1 ∧ (exitCheck a1 a2 a3 a4 a5 a6 a7 a8).2.2.pwr = a1.pwr ∧ (exitCheck a1 a2 a3 a4 a5 a6 a7 a8).2.2.fab = a1.fab ∧ (exitCheck a1 a2 a3 a4 a5 a6 a7 a8).2.2.mss = a1.mss ∧ (exitCheck a1 a2 a3 a4 a5 a6 a7 a8).2.2.fresh = a1.fresh ∧ (exitCheck a1 a2 a3 a4 a5 a6 a7 a8).2.2.routineIds = a1.routineIds ∧ (exitCheck a1 a2 a3 a4 a5 a6 a7 a8).2.2.pending = a1.pending := by
  simp only [exitCheck]
  repeat' split
  all_goals simp
@[simp] theorem putRow_frame (a1 : State) (a2) (a3) (a4) (a5) (a6) (a7) (a8) (a9) (a10) : (putRow a1 a2 a3 a4 a5 a6 a7 a8 a9 a10).ident = a1.ident ∧ (putRow a1 a2 a3 a4 a5 a6 a7 a8 a9 a10).nv = a1.nv ∧ (putRow a1 a2 a3 a4 a5 a6 a7 a8 a9 a10).top = a1.top ∧ (putRow a1 a2 a3 a4 a5 a6 a7 a8 a9 a10).mem = a1.mem ∧ (putRow a1 a2 a3 a4 a5 a6 a7 a8 a9 a10).cle = a1.cle ∧ (putRow a1 a2 a3 a4 a5 a6 a7 a8 a9 a10).pue0 = a1.pue0 ∧ (putRow a1 a2 a3 a4 a5 a6 a7 a8 a9 a10).pue1 = a1.pue1 ∧ (putRow a1 a2 a3 a4 a5 a6 a7 a8 a9 a10).pwr = a1.pwr ∧ (putRow a1 a2 a3 a4 a5 a6 a7 a8 a9 a10).fab = a1.fab ∧ (putRow a1 a2 a3 a4 a5 a6 a7 a8 a9 a10).mss = a1.mss ∧ (putRow a1 a2 a3 a4 a5 a6 a7 a8 a9 a10).fresh = a1.fresh ∧ (putRow a1 a2 a3 a4 a5 a6 a7 a8 a9 a10).routineIds = a1.routineIds ∧ (putRow a1 a2 a3 a4 a5 a6 a7 a8 a9 a10).pending = a1.pending := by
  simp [putRow]
@[simp] theorem scratchStep_frame (a1 : State) (a2) (a3) (a4) (a5) (a6) (a7) : (scratchStep a1 a2 a3 a4 a5 a6 a7).ident = a1.ident ∧ (scratchStep a1 a2 a3 a4 a5 a6 a7).nv = a1.nv ∧ (scratchStep a1 a2 a3 a4 a5 a6 a7).top = a1.top ∧ (scratchStep a1 a2 a3 a4 a5 a6 a7).mem = a1.mem ∧ (scratchStep a1 a2 a3 a4 a5 a6 a7).cle = a1.cle ∧ (scratchStep a1 a2 a3 a4 a5 a6 a7).pue0 = a1.pue0 ∧ (scratchStep a1 a2 a3 a4 a5 a6 a7).pue1 = a1.pue1 ∧ (scratchStep a1 a2 a3 a4 a5 a6 a7).pwr = a1.pwr ∧ (scratchStep a1 a2 a3 a4 a5 a6 a7).fab = a1.fab ∧ (scratchStep a1 a2 a3 a4 a5 a6 a7).mss = a1.mss ∧ (scratchStep a1 a2 a3 a4 a5 a6 a7).fresh = a1.fresh ∧ (scratchStep a1 a2 a3 a4 a5 a6 a7).routineIds = a1.routineIds ∧ (scratchStep a1 a2 a3 a4 a5 a6 a7).pending = a1.pending := by
  simp [scratchStep]
@[simp] theorem multiStep_frame (a1 : State) (a2) (a3) (a4) (a5) (a6) : (multiStep a1 a2 a3 a4 a5 a6).ident = a1.ident ∧ (multiStep a1 a2 a3 a4 a5 a6).nv = a1.nv ∧ (multiStep a1 a2 a3 a4 a5 a6).top = a1.top ∧ (multiStep a1 a2 a3 a4 a5 a6).mem = a1.mem ∧ (multiStep a1 a2 a3 a4 a5 a6).cle = a1.cle ∧ (multiStep a1 a2 a3 a4 a5 a6).pue0 = a1.pue0 ∧ (multiStep a1 a2 a3 a4 a5 a6).pue1 = a1.pue1 ∧ (multiStep a1 a2 a3 a4 a5 a6).pwr = a1.pwr ∧ (multiStep a1 a2 a3 a4 a5 a6).fab = a1.fab ∧ (multiStep a1 a2 a3 a4 a5 a6).mss = a1.mss ∧ (multiStep a1 a2 a3 a4 a5 a6).fresh = a1.fresh ∧ (multiStep a1 a2 a3 a4 a5 a6).routineIds = a1.routineIds ∧ (multiStep a1 a2 a3 a4 a5 a6).pending = a1.pending := by
  simp only [multiStep]
  repeat' split
  all_goals simp
@[simp] theorem streamStep_frame (a1 : State) (a2) (a3) (a4) (a5) (a6) : (streamStep a1 a2 a3 a4 a5 a6).ident = a1.ident ∧ (streamStep a1 a2 a3 a4 a5 a6).nv = a1.nv ∧ (streamStep a1 a2 a3 a4 a5 a6).top = a1.top ∧ (streamStep a1 a2 a3 a4 a5 a6).mem = a1.mem ∧ (streamStep a1 a2 a3 a4 a5 a6).cle = a1.cle ∧ (streamStep a1 a2 a3 a4 a5 a6).pue0 = a1.pue0 ∧ (streamStep a1 a2 a3 a4 a5 a6).pue1 = a1.pue1 ∧ (streamStep a1 a2 a3 a4 a5 a6).pwr = a1.pwr ∧ (streamStep a1 a2 a3 a4 a5 a6).fab = a1.fab ∧ (streamStep a1 a2 a3 a4 a5 a6).mss = a1.mss ∧ (streamStep a1 a2 a3 a4 a5 a6).fresh = a1.fresh ∧ (streamStep a1 a2 a3 a4 a5 a6).routineIds = a1.routineIds ∧ (streamStep a1 a2 a3 a4 a5 a6).pending = a1.pending := by
  simp [streamStep]
@[simp] theorem rowCredit_frame (a1 : State) (a2) (a3) (a4) : (rowCredit a1 a2 a3 a4).2.ident = a1.ident ∧ (rowCredit a1 a2 a3 a4).2.nv = a1.nv ∧ (rowCredit a1 a2 a3 a4).2.top = a1.top ∧ (rowCredit a1 a2 a3 a4).2.cores = a1.cores ∧ (rowCredit a1 a2 a3 a4).2.hub = a1.hub ∧ (rowCredit a1 a2 a3 a4).2.err = a1.err ∧ (rowCredit a1 a2 a3 a4).2.mem = a1.mem ∧ (rowCredit a1 a2 a3 a4).2.cle = a1.cle ∧ (rowCredit a1 a2 a3 a4).2.pue0 = a1.pue0 ∧ (rowCredit a1 a2 a3 a4).2.pue1 = a1.pue1 ∧ (rowCredit a1 a2 a3 a4).2.cke = a1.cke ∧ (rowCredit a1 a2 a3 a4).2.fab = a1.fab ∧ (rowCredit a1 a2 a3 a4).2.pmu = a1.pmu ∧ (rowCredit a1 a2 a3 a4).2.mss = a1.mss ∧ (rowCredit a1 a2 a3 a4).2.sent = a1.sent ∧ (rowCredit a1 a2 a3 a4).2.fresh = a1.fresh ∧ (rowCredit a1 a2 a3 a4).2.routineIds = a1.routineIds ∧ (rowCredit a1 a2 a3 a4).2.pending = a1.pending := by
  simp only [rowCredit]
  repeat' split
  all_goals simp
@[simp] theorem drainRead_frame (a1 : State) (a2) (a3) (a4) (a5) (a6) (a7) : (drainRead a1 a2 a3 a4 a5 a6 a7).2.2.ident = a1.ident ∧ (drainRead a1 a2 a3 a4 a5 a6 a7).2.2.nv = a1.nv ∧ (drainRead a1 a2 a3 a4 a5 a6 a7).2.2.top = a1.top ∧ (drainRead a1 a2 a3 a4 a5 a6 a7).2.2.mem = a1.mem ∧ (drainRead a1 a2 a3 a4 a5 a6 a7).2.2.cle = a1.cle ∧ (drainRead a1 a2 a3 a4 a5 a6 a7).2.2.pue0 = a1.pue0 ∧ (drainRead a1 a2 a3 a4 a5 a6 a7).2.2.pue1 = a1.pue1 ∧ (drainRead a1 a2 a3 a4 a5 a6 a7).2.2.pwr = a1.pwr ∧ (drainRead a1 a2 a3 a4 a5 a6 a7).2.2.fab = a1.fab ∧ (drainRead a1 a2 a3 a4 a5 a6 a7).2.2.mss = a1.mss ∧ (drainRead a1 a2 a3 a4 a5 a6 a7).2.2.fresh = a1.fresh ∧ (drainRead a1 a2 a3 a4 a5 a6 a7).2.2.routineIds = a1.routineIds ∧ (drainRead a1 a2 a3 a4 a5 a6 a7).2.2.pending = a1.pending := by
  simp only [drainRead]
  repeat' split
  all_goals simp
@[simp] theorem State.setPort_frame (a1 : State) (a2) (a3) : (State.setPort a1 a2 a3).ident = a1.ident ∧ (State.setPort a1 a2 a3).nv = a1.nv ∧ (State.setPort a1 a2 a3).top = a1.top ∧ (State.setPort a1 a2 a3).cores = a1.cores ∧ (State.setPort a1 a2 a3).hub = a1.hub ∧ (State.setPort a1 a2 a3).err = a1.err ∧ (State.setPort a1 a2 a3).mem = a1.mem ∧ (State.setPort a1 a2 a3).cle = a1.cle ∧ (State.setPort a1 a2 a3).pue0 = a1.pue0 ∧ (State.setPort a1 a2 a3).pue1 = a1.pue1 ∧ (State.setPort a1 a2 a3).cke = a1.cke ∧ (State.setPort a1 a2 a3).pwr = a1.pwr ∧ (State.setPort a1 a2 a3).pmu = a1.pmu ∧ (State.setPort a1 a2 a3).mss = a1.mss ∧ (State.setPort a1 a2 a3).sent = a1.sent ∧ (State.setPort a1 a2 a3).fresh = a1.fresh ∧ (State.setPort a1 a2 a3).routineIds = a1.routineIds ∧ (State.setPort a1 a2 a3).pending = a1.pending := by
  simp [State.setPort]
@[simp] theorem State.putFlit_frame (a1 : State) (a2) (a3) (a4) (a5) (a6) : (State.putFlit a1 a2 a3 a4 a5 a6).ident = a1.ident ∧ (State.putFlit a1 a2 a3 a4 a5 a6).nv = a1.nv ∧ (State.putFlit a1 a2 a3 a4 a5 a6).top = a1.top ∧ (State.putFlit a1 a2 a3 a4 a5 a6).cores = a1.cores ∧ (State.putFlit a1 a2 a3 a4 a5 a6).hub = a1.hub ∧ (State.putFlit a1 a2 a3 a4 a5 a6).err = a1.err ∧ (State.putFlit a1 a2 a3 a4 a5 a6).mem = a1.mem ∧ (State.putFlit a1 a2 a3 a4 a5 a6).cle = a1.cle ∧ (State.putFlit a1 a2 a3 a4 a5 a6).pue0 = a1.pue0 ∧ (State.putFlit a1 a2 a3 a4 a5 a6).pue1 = a1.pue1 ∧ (State.putFlit a1 a2 a3 a4 a5 a6).cke = a1.cke ∧ (State.putFlit a1 a2 a3 a4 a5 a6).pwr = a1.pwr ∧ (State.putFlit a1 a2 a3 a4 a5 a6).pmu = a1.pmu ∧ (State.putFlit a1 a2 a3 a4 a5 a6).mss = a1.mss ∧ (State.putFlit a1 a2 a3 a4 a5 a6).fresh = a1.fresh ∧ (State.putFlit a1 a2 a3 a4 a5 a6).routineIds = a1.routineIds ∧ (State.putFlit a1 a2 a3 a4 a5 a6).pending = a1.pending := by
  simp [State.putFlit]
@[simp] theorem State.putCtrl_frame (a1 : State) (a2) (a3) (a4) : (State.putCtrl a1 a2 a3 a4).ident = a1.ident ∧ (State.putCtrl a1 a2 a3 a4).nv = a1.nv ∧ (State.putCtrl a1 a2 a3 a4).top = a1.top ∧ (State.putCtrl a1 a2 a3 a4).cores = a1.cores ∧ (State.putCtrl a1 a2 a3 a4).hub = a1.hub ∧ (State.putCtrl a1 a2 a3 a4).err = a1.err ∧ (State.putCtrl a1 a2 a3 a4).mem = a1.mem ∧ (State.putCtrl a1 a2 a3 a4).cle = a1.cle ∧ (State.putCtrl a1 a2 a3 a4).pue0 = a1.pue0 ∧ (State.putCtrl a1 a2 a3 a4).pue1 = a1.pue1 ∧ (State.putCtrl a1 a2 a3 a4).cke = a1.cke ∧ (State.putCtrl a1 a2 a3 a4).pwr = a1.pwr ∧ (State.putCtrl a1 a2 a3 a4).pmu = a1.pmu ∧ (State.putCtrl a1 a2 a3 a4).mss = a1.mss ∧ (State.putCtrl a1 a2 a3 a4).fresh = a1.fresh ∧ (State.putCtrl a1 a2 a3 a4).routineIds = a1.routineIds ∧ (State.putCtrl a1 a2 a3 a4).pending = a1.pending := by
  simp [State.putCtrl]
@[simp] theorem State.freeAt_frame (a1 : State) (a2) (a3) (a4) : (State.freeAt a1 a2 a3 a4).ident = a1.ident ∧ (State.freeAt a1 a2 a3 a4).nv = a1.nv ∧ (State.freeAt a1 a2 a3 a4).top = a1.top ∧ (State.freeAt a1 a2 a3 a4).cores = a1.cores ∧ (State.freeAt a1 a2 a3 a4).hub = a1.hub ∧ (State.freeAt a1 a2 a3 a4).err = a1.err ∧ (State.freeAt a1 a2 a3 a4).mem = a1.mem ∧ (State.freeAt a1 a2 a3 a4).cle = a1.cle ∧ (State.freeAt a1 a2 a3 a4).pue0 = a1.pue0 ∧ (State.freeAt a1 a2 a3 a4).pue1 = a1.pue1 ∧ (State.freeAt a1 a2 a3 a4).cke = a1.cke ∧ (State.freeAt a1 a2 a3 a4).pwr = a1.pwr ∧ (State.freeAt a1 a2 a3 a4).pmu = a1.pmu ∧ (State.freeAt a1 a2 a3 a4).mss = a1.mss ∧ (State.freeAt a1 a2 a3 a4).fresh = a1.fresh ∧ (State.freeAt a1 a2 a3 a4).routineIds = a1.routineIds ∧ (State.freeAt a1 a2 a3 a4).pending = a1.pending := by
  simp [State.freeAt]
@[simp] theorem State.freeHeld_frame (a1 : State) (a2) : (State.freeHeld a1 a2).ident = a1.ident ∧ (State.freeHeld a1 a2).nv = a1.nv ∧ (State.freeHeld a1 a2).top = a1.top ∧ (State.freeHeld a1 a2).cores = a1.cores ∧ (State.freeHeld a1 a2).hub = a1.hub ∧ (State.freeHeld a1 a2).err = a1.err ∧ (State.freeHeld a1 a2).mem = a1.mem ∧ (State.freeHeld a1 a2).cle = a1.cle ∧ (State.freeHeld a1 a2).pue0 = a1.pue0 ∧ (State.freeHeld a1 a2).pue1 = a1.pue1 ∧ (State.freeHeld a1 a2).cke = a1.cke ∧ (State.freeHeld a1 a2).pwr = a1.pwr ∧ (State.freeHeld a1 a2).pmu = a1.pmu ∧ (State.freeHeld a1 a2).mss = a1.mss ∧ (State.freeHeld a1 a2).fresh = a1.fresh ∧ (State.freeHeld a1 a2).routineIds = a1.routineIds ∧ (State.freeHeld a1 a2).pending = a1.pending := by
  simp only [State.freeHeld]
  repeat' split
  all_goals simp
@[simp] theorem pumpN_frame (a1) (a2) (a3 : State) : (pumpN a1 a2 a3).ident = a3.ident ∧ (pumpN a1 a2 a3).nv = a3.nv ∧ (pumpN a1 a2 a3).top = a3.top ∧ (pumpN a1 a2 a3).cores = a3.cores ∧ (pumpN a1 a2 a3).err = a3.err ∧ (pumpN a1 a2 a3).mem = a3.mem ∧ (pumpN a1 a2 a3).cle = a3.cle ∧ (pumpN a1 a2 a3).pue0 = a3.pue0 ∧ (pumpN a1 a2 a3).pue1 = a3.pue1 ∧ (pumpN a1 a2 a3).cke = a3.cke ∧ (pumpN a1 a2 a3).pwr = a3.pwr ∧ (pumpN a1 a2 a3).mss = a3.mss ∧ (pumpN a1 a2 a3).fresh = a3.fresh ∧ (pumpN a1 a2 a3).routineIds = a3.routineIds ∧ (pumpN a1 a2 a3).pending = a3.pending := by
  induction a2 generalizing a3 with
  | zero => simp [pumpN]
  | succ n ih =>
    unfold pumpN
    try dsimp only
    repeat' split
    all_goals simp_all
@[simp] theorem State.pump_frame (a1 : State) (a2) : (State.pump a1 a2).ident = a1.ident ∧ (State.pump a1 a2).nv = a1.nv ∧ (State.pump a1 a2).top = a1.top ∧ (State.pump a1 a2).cores = a1.cores ∧ (State.pump a1 a2).err = a1.err ∧ (State.pump a1 a2).mem = a1.mem ∧ (State.pump a1 a2).cle = a1.cle ∧ (State.pump a1 a2).pue0 = a1.pue0 ∧ (State.pump a1 a2).pue1 = a1.pue1 ∧ (State.pump a1 a2).cke = a1.cke ∧ (State.pump a1 a2).pwr = a1.pwr ∧ (State.pump a1 a2).mss = a1.mss ∧ (State.pump a1 a2).fresh = a1.fresh ∧ (State.pump a1 a2).routineIds = a1.routineIds ∧ (State.pump a1 a2).pending = a1.pending := by
  simp [State.pump]
@[simp] theorem State.assign_frame (a1 : State) (a2) (a3) : (State.assign a1 a2 a3).ident = a1.ident ∧ (State.assign a1 a2 a3).nv = a1.nv ∧ (State.assign a1 a2 a3).top = a1.top ∧ (State.assign a1 a2 a3).cores = a1.cores ∧ (State.assign a1 a2 a3).err = a1.err ∧ (State.assign a1 a2 a3).mem = a1.mem ∧ (State.assign a1 a2 a3).cle = a1.cle ∧ (State.assign a1 a2 a3).pue0 = a1.pue0 ∧ (State.assign a1 a2 a3).pue1 = a1.pue1 ∧ (State.assign a1 a2 a3).cke = a1.cke ∧ (State.assign a1 a2 a3).pwr = a1.pwr ∧ (State.assign a1 a2 a3).mss = a1.mss ∧ (State.assign a1 a2 a3).fresh = a1.fresh ∧ (State.assign a1 a2 a3).routineIds = a1.routineIds ∧ (State.assign a1 a2 a3).pending = a1.pending := by
  simp [State.assign]
@[simp] theorem State.drop_frame (a1 : State) (a2) (a3) : (State.drop a1 a2 a3).ident = a1.ident ∧ (State.drop a1 a2 a3).nv = a1.nv ∧ (State.drop a1 a2 a3).top = a1.top ∧ (State.drop a1 a2 a3).cores = a1.cores ∧ (State.drop a1 a2 a3).mem = a1.mem ∧ (State.drop a1 a2 a3).cle = a1.cle ∧ (State.drop a1 a2 a3).pue0 = a1.pue0 ∧ (State.drop a1 a2 a3).pue1 = a1.pue1 ∧ (State.drop a1 a2 a3).cke = a1.cke ∧ (State.drop a1 a2 a3).pwr = a1.pwr ∧ (State.drop a1 a2 a3).mss = a1.mss ∧ (State.drop a1 a2 a3).fresh = a1.fresh ∧ (State.drop a1 a2 a3).routineIds = a1.routineIds ∧ (State.drop a1 a2 a3).pending = a1.pending := by
  simp only [State.drop]
  repeat' split
  all_goals simp
@[simp] theorem State.routeOut_frame (a1 : State) (a2) : (State.routeOut a1 a2).ident = a1.ident ∧ (State.routeOut a1 a2).nv = a1.nv ∧ (State.routeOut a1 a2).top = a1.top ∧ (State.routeOut a1 a2).cores = a1.cores ∧ (State.routeOut a1 a2).mem = a1.mem ∧ (State.routeOut a1 a2).cle = a1.cle ∧ (State.routeOut a1 a2).pue0 = a1.pue0 ∧ (State.routeOut a1 a2).pue1 = a1.pue1 ∧ (State.routeOut a1 a2).cke = a1.cke ∧ (State.routeOut a1 a2).pwr = a1.pwr ∧ (State.routeOut a1 a2).mss = a1.mss ∧ (State.routeOut a1 a2).fresh = a1.fresh ∧ (State.routeOut a1 a2).routineIds = a1.routineIds ∧ (State.routeOut a1 a2).pending = a1.pending := by
  simp only [State.routeOut]
  repeat' split
  all_goals simp
@[simp] theorem State.sendPacket_frame (a1 : State) (a2) : (State.sendPacket a1 a2).ident = a1.ident ∧ (State.sendPacket a1 a2).nv = a1.nv ∧ (State.sendPacket a1 a2).top = a1.top ∧ (State.sendPacket a1 a2).cores = a1.cores ∧ (State.sendPacket a1 a2).mem = a1.mem ∧ (State.sendPacket a1 a2).cle = a1.cle ∧ (State.sendPacket a1 a2).pue0 = a1.pue0 ∧ (State.sendPacket a1 a2).pue1 = a1.pue1 ∧ (State.sendPacket a1 a2).cke = a1.cke ∧ (State.sendPacket a1 a2).pwr = a1.pwr ∧ (State.sendPacket a1 a2).mss = a1.mss ∧ (State.sendPacket a1 a2).fresh = a1.fresh ∧ (State.sendPacket a1 a2).routineIds = a1.routineIds ∧ (State.sendPacket a1 a2).pending = a1.pending := by
  simp [State.sendPacket]
@[simp] theorem State.respond_frame (a1 : State) (a2) (a3) (a4) (a5) : (State.respond a1 a2 a3 a4 a5).ident = a1.ident ∧ (State.respond a1 a2 a3 a4 a5).nv = a1.nv ∧ (State.respond a1 a2 a3 a4 a5).top = a1.top ∧ (State.respond a1 a2 a3 a4 a5).cores = a1.cores ∧ (State.respond a1 a2 a3 a4 a5).mem = a1.mem ∧ (State.respond a1 a2 a3 a4 a5).cle = a1.cle ∧ (State.respond a1 a2 a3 a4 a5).pue0 = a1.pue0 ∧ (State.respond a1 a2 a3 a4 a5).pue1 = a1.pue1 ∧ (State.respond a1 a2 a3 a4 a5).cke = a1.cke ∧ (State.respond a1 a2 a3 a4 a5).pwr = a1.pwr ∧ (State.respond a1 a2 a3 a4 a5).mss = a1.mss ∧ (State.respond a1 a2 a3 a4 a5).fresh = a1.fresh ∧ (State.respond a1 a2 a3 a4 a5).routineIds = a1.routineIds ∧ (State.respond a1 a2 a3 a4 a5).pending = a1.pending := by
  simp [State.respond]
@[simp] theorem feedN_frame (a1) (a2 : State) : (feedN a1 a2).ident = a2.ident ∧ (feedN a1 a2).nv = a2.nv ∧ (feedN a1 a2).top = a2.top ∧ (feedN a1 a2).cores = a2.cores ∧ (feedN a1 a2).mem = a2.mem ∧ (feedN a1 a2).cle = a2.cle ∧ (feedN a1 a2).pue0 = a2.pue0 ∧ (feedN a1 a2).pue1 = a2.pue1 ∧ (feedN a1 a2).cke = a2.cke ∧ (feedN a1 a2).pwr = a2.pwr ∧ (feedN a1 a2).mss = a2.mss ∧ (feedN a1 a2).fresh = a2.fresh ∧ (feedN a1 a2).routineIds = a2.routineIds ∧ (feedN a1 a2).pending = a2.pending := by
  induction a1 generalizing a2 with
  | zero => simp [feedN]
  | succ n ih =>
    unfold feedN
    try dsimp only
    repeat' split
    all_goals simp_all
@[simp] theorem State.feed_frame (a1 : State) : (State.feed a1).ident = a1.ident ∧ (State.feed a1).nv = a1.nv ∧ (State.feed a1).top = a1.top ∧ (State.feed a1).cores = a1.cores ∧ (State.feed a1).mem = a1.mem ∧ (State.feed a1).cle = a1.cle ∧ (State.feed a1).pue0 = a1.pue0 ∧ (State.feed a1).pue1 = a1.pue1 ∧ (State.feed a1).cke = a1.cke ∧ (State.feed a1).pwr = a1.pwr ∧ (State.feed a1).mss = a1.mss ∧ (State.feed a1).fresh = a1.fresh ∧ (State.feed a1).routineIds = a1.routineIds ∧ (State.feed a1).pending = a1.pending := by
  simp [State.feed]
@[simp] theorem State.sendAll_frame (a1 : State) (a2) : (State.sendAll a1 a2).ident = a1.ident ∧ (State.sendAll a1 a2).nv = a1.nv ∧ (State.sendAll a1 a2).top = a1.top ∧ (State.sendAll a1 a2).cores = a1.cores ∧ (State.sendAll a1 a2).mem = a1.mem ∧ (State.sendAll a1 a2).cle = a1.cle ∧ (State.sendAll a1 a2).pue0 = a1.pue0 ∧ (State.sendAll a1 a2).pue1 = a1.pue1 ∧ (State.sendAll a1 a2).cke = a1.cke ∧ (State.sendAll a1 a2).pwr = a1.pwr ∧ (State.sendAll a1 a2).mss = a1.mss ∧ (State.sendAll a1 a2).fresh = a1.fresh ∧ (State.sendAll a1 a2).routineIds = a1.routineIds ∧ (State.sendAll a1 a2).pending = a1.pending := by
  simp [State.sendAll]
@[simp] theorem State.dropFlow_frame (a1 : State) (a2) : (State.dropFlow a1 a2).ident = a1.ident ∧ (State.dropFlow a1 a2).nv = a1.nv ∧ (State.dropFlow a1 a2).top = a1.top ∧ (State.dropFlow a1 a2).cores = a1.cores ∧ (State.dropFlow a1 a2).hub = a1.hub ∧ (State.dropFlow a1 a2).err = a1.err ∧ (State.dropFlow a1 a2).mem = a1.mem ∧ (State.dropFlow a1 a2).cle = a1.cle ∧ (State.dropFlow a1 a2).pue0 = a1.pue0 ∧ (State.dropFlow a1 a2).pue1 = a1.pue1 ∧ (State.dropFlow a1 a2).cke = a1.cke ∧ (State.dropFlow a1 a2).pwr = a1.pwr ∧ (State.dropFlow a1 a2).pmu = a1.pmu ∧ (State.dropFlow a1 a2).mss = a1.mss ∧ (State.dropFlow a1 a2).sent = a1.sent ∧ (State.dropFlow a1 a2).fresh = a1.fresh ∧ (State.dropFlow a1 a2).routineIds = a1.routineIds ∧ (State.dropFlow a1 a2).pending = a1.pending := by
  simp [State.dropFlow]
theorem State.takeInbox_frame {a1 : State} {a2} {p0} {t : State} (h : (State.takeInbox a1 a2) = some (p0, t)) : t.ident = a1.ident ∧ t.nv = a1.nv ∧ t.top = a1.top ∧ t.cores = a1.cores ∧ t.hub = a1.hub ∧ t.err = a1.err ∧ t.mem = a1.mem ∧ t.cle = a1.cle ∧ t.pue0 = a1.pue0 ∧ t.pue1 = a1.pue1 ∧ t.cke = a1.cke ∧ t.pwr = a1.pwr ∧ t.pmu = a1.pmu ∧ t.mss = a1.mss ∧ t.fresh = a1.fresh ∧ t.routineIds = a1.routineIds ∧ t.pending = a1.pending := by
  unfold State.takeInbox at h
  try dsimp only at h
  (repeat' split at h) <;> first | (cases h; done) | (cases h; simp) | (cases h; (repeat' split) <;> simp)
theorem State.takeForward_frame {a1 : State} {p0} {t : State} (h : (State.takeForward a1) = some (p0, t)) : t.ident = a1.ident ∧ t.nv = a1.nv ∧ t.top = a1.top ∧ t.cores = a1.cores ∧ t.hub = a1.hub ∧ t.err = a1.err ∧ t.mem = a1.mem ∧ t.cle = a1.cle ∧ t.pue0 = a1.pue0 ∧ t.pue1 = a1.pue1 ∧ t.cke = a1.cke ∧ t.pwr = a1.pwr ∧ t.pmu = a1.pmu ∧ t.mss = a1.mss ∧ t.sent = a1.sent ∧ t.fresh = a1.fresh ∧ t.routineIds = a1.routineIds ∧ t.pending = a1.pending := by
  simp only [State.takeForward, Option.map_eq_some_iff] at h
  obtain ⟨q, h1, h2⟩ := h
  cases h2
  simp
theorem State.takeType_frame {a1 : State} {a2} {p0} {t : State} (h : (State.takeType a1 a2) = some (p0, t)) : t.ident = a1.ident ∧ t.nv = a1.nv ∧ t.top = a1.top ∧ t.cores = a1.cores ∧ t.hub = a1.hub ∧ t.err = a1.err ∧ t.mem = a1.mem ∧ t.cle = a1.cle ∧ t.pue0 = a1.pue0 ∧ t.pue1 = a1.pue1 ∧ t.cke = a1.cke ∧ t.pwr = a1.pwr ∧ t.pmu = a1.pmu ∧ t.mss = a1.mss ∧ t.fresh = a1.fresh ∧ t.routineIds = a1.routineIds ∧ t.pending = a1.pending := by
  exact State.takeInbox_frame h
@[simp] theorem State.request_frame (a1 : State) (a2) (a3) : (State.request a1 a2 a3).ident = a1.ident ∧ (State.request a1 a2 a3).nv = a1.nv ∧ (State.request a1 a2 a3).top = a1.top ∧ (State.request a1 a2 a3).cores = a1.cores ∧ (State.request a1 a2 a3).mem = a1.mem ∧ (State.request a1 a2 a3).cle = a1.cle ∧ (State.request a1 a2 a3).pue0 = a1.pue0 ∧ (State.request a1 a2 a3).pue1 = a1.pue1 ∧ (State.request a1 a2 a3).cke = a1.cke ∧ (State.request a1 a2 a3).pwr = a1.pwr ∧ (State.request a1 a2 a3).mss = a1.mss ∧ (State.request a1 a2 a3).fresh = a1.fresh ∧ (State.request a1 a2 a3).routineIds = a1.routineIds ∧ (State.request a1 a2 a3).pending = a1.pending := by
  simp [State.request]
theorem State.takeReq_frame {a1 : State} {a2} {p0} {t : State} (h : (State.takeReq a1 a2) = some (p0, t)) : t.ident = a1.ident ∧ t.nv = a1.nv ∧ t.top = a1.top ∧ t.cores = a1.cores ∧ t.hub = a1.hub ∧ t.err = a1.err ∧ t.mem = a1.mem ∧ t.cle = a1.cle ∧ t.pue0 = a1.pue0 ∧ t.pue1 = a1.pue1 ∧ t.cke = a1.cke ∧ t.pwr = a1.pwr ∧ t.pmu = a1.pmu ∧ t.mss = a1.mss ∧ t.sent = a1.sent ∧ t.fresh = a1.fresh ∧ t.routineIds = a1.routineIds ∧ t.pending = a1.pending := by
  unfold State.takeReq at h
  try dsimp only at h
  (repeat' split at h) <;> first | (cases h; done) | (cases h; simp) | (cases h; (repeat' split) <;> simp)
@[simp] theorem vceRunCmd_frame (a1 : State) (a2) (a3) : (vceRunCmd a1 a2 a3).ident = a1.ident ∧ (vceRunCmd a1 a2 a3).nv = a1.nv ∧ (vceRunCmd a1 a2 a3).top = a1.top ∧ (vceRunCmd a1 a2 a3).mem = a1.mem ∧ (vceRunCmd a1 a2 a3).cle = a1.cle ∧ (vceRunCmd a1 a2 a3).pue0 = a1.pue0 ∧ (vceRunCmd a1 a2 a3).pue1 = a1.pue1 ∧ (vceRunCmd a1 a2 a3).cke = a1.cke ∧ (vceRunCmd a1 a2 a3).pwr = a1.pwr ∧ (vceRunCmd a1 a2 a3).fab = a1.fab ∧ (vceRunCmd a1 a2 a3).mss = a1.mss ∧ (vceRunCmd a1 a2 a3).fresh = a1.fresh ∧ (vceRunCmd a1 a2 a3).routineIds = a1.routineIds ∧ (vceRunCmd a1 a2 a3).pending = a1.pending := by
  simp only [vceRunCmd]
  repeat' split
  all_goals simp
@[simp] theorem State.countVce_frame (a1 : State) (a2) (a3) : (State.countVce a1 a2 a3).ident = a1.ident ∧ (State.countVce a1 a2 a3).nv = a1.nv ∧ (State.countVce a1 a2 a3).top = a1.top ∧ (State.countVce a1 a2 a3).err = a1.err ∧ (State.countVce a1 a2 a3).mem = a1.mem ∧ (State.countVce a1 a2 a3).cle = a1.cle ∧ (State.countVce a1 a2 a3).pue0 = a1.pue0 ∧ (State.countVce a1 a2 a3).pue1 = a1.pue1 ∧ (State.countVce a1 a2 a3).cke = a1.cke ∧ (State.countVce a1 a2 a3).pwr = a1.pwr ∧ (State.countVce a1 a2 a3).fab = a1.fab ∧ (State.countVce a1 a2 a3).mss = a1.mss ∧ (State.countVce a1 a2 a3).fresh = a1.fresh ∧ (State.countVce a1 a2 a3).routineIds = a1.routineIds ∧ (State.countVce a1 a2 a3).pending = a1.pending := by
  simp [State.countVce]
@[simp] theorem seqRun_frame (a1) (a2) (a3 : State) (a4) (a5) : (seqRun a1 a2 a3 a4 a5).ident = a3.ident ∧ (seqRun a1 a2 a3 a4 a5).nv = a3.nv ∧ (seqRun a1 a2 a3 a4 a5).top = a3.top ∧ (seqRun a1 a2 a3 a4 a5).err = a3.err ∧ (seqRun a1 a2 a3 a4 a5).mem = a3.mem ∧ (seqRun a1 a2 a3 a4 a5).cle = a3.cle ∧ (seqRun a1 a2 a3 a4 a5).pue0 = a3.pue0 ∧ (seqRun a1 a2 a3 a4 a5).pue1 = a3.pue1 ∧ (seqRun a1 a2 a3 a4 a5).cke = a3.cke ∧ (seqRun a1 a2 a3 a4 a5).pwr = a3.pwr ∧ (seqRun a1 a2 a3 a4 a5).fab = a3.fab ∧ (seqRun a1 a2 a3 a4 a5).mss = a3.mss ∧ (seqRun a1 a2 a3 a4 a5).fresh = a3.fresh ∧ (seqRun a1 a2 a3 a4 a5).routineIds = a3.routineIds ∧ (seqRun a1 a2 a3 a4 a5).pending = a3.pending := by
  simp [seqRun]
@[simp] theorem settleFence_frame (a1 : State) (a2) : (settleFence a1 a2).ident = a1.ident ∧ (settleFence a1 a2).nv = a1.nv ∧ (settleFence a1 a2).top = a1.top ∧ (settleFence a1 a2).err = a1.err ∧ (settleFence a1 a2).mem = a1.mem ∧ (settleFence a1 a2).cle = a1.cle ∧ (settleFence a1 a2).pue0 = a1.pue0 ∧ (settleFence a1 a2).pue1 = a1.pue1 ∧ (settleFence a1 a2).cke = a1.cke ∧ (settleFence a1 a2).pwr = a1.pwr ∧ (settleFence a1 a2).fab = a1.fab ∧ (settleFence a1 a2).mss = a1.mss ∧ (settleFence a1 a2).fresh = a1.fresh ∧ (settleFence a1 a2).routineIds = a1.routineIds ∧ (settleFence a1 a2).pending = a1.pending := by
  simp only [settleFence]
  repeat' split
  all_goals simp
@[simp] theorem State.readsMap_frame (a1 : State) (a2) (a3) : (State.readsMap a1 a2 a3).ident = a1.ident ∧ (State.readsMap a1 a2 a3).nv = a1.nv ∧ (State.readsMap a1 a2 a3).top = a1.top ∧ (State.readsMap a1 a2 a3).cores = a1.cores ∧ (State.readsMap a1 a2 a3).cle = a1.cle ∧ (State.readsMap a1 a2 a3).pue0 = a1.pue0 ∧ (State.readsMap a1 a2 a3).pue1 = a1.pue1 ∧ (State.readsMap a1 a2 a3).fab = a1.fab ∧ (State.readsMap a1 a2 a3).mss = a1.mss ∧ (State.readsMap a1 a2 a3).routineIds = a1.routineIds ∧ (State.readsMap a1 a2 a3).pending = a1.pending := by
  simp [State.readsMap]
@[simp] theorem State.readsGate_frame (a1 : State) : (State.readsGate a1).ident = a1.ident ∧ (State.readsGate a1).nv = a1.nv ∧ (State.readsGate a1).top = a1.top ∧ (State.readsGate a1).cores = a1.cores ∧ (State.readsGate a1).cle = a1.cle ∧ (State.readsGate a1).pue0 = a1.pue0 ∧ (State.readsGate a1).pue1 = a1.pue1 ∧ (State.readsGate a1).fab = a1.fab ∧ (State.readsGate a1).mss = a1.mss ∧ (State.readsGate a1).routineIds = a1.routineIds ∧ (State.readsGate a1).pending = a1.pending := by
  simp [State.readsGate]
@[simp] theorem State.beginAttempt_frame (a1 : State) (a2) (a3) (a4) : (State.beginAttempt a1 a2 a3 a4).ident = a1.ident ∧ (State.beginAttempt a1 a2 a3 a4).nv = a1.nv ∧ (State.beginAttempt a1 a2 a3 a4).top = a1.top ∧ (State.beginAttempt a1 a2 a3 a4).cores = a1.cores ∧ (State.beginAttempt a1 a2 a3 a4).cle = a1.cle ∧ (State.beginAttempt a1 a2 a3 a4).pue0 = a1.pue0 ∧ (State.beginAttempt a1 a2 a3 a4).pue1 = a1.pue1 ∧ (State.beginAttempt a1 a2 a3 a4).fab = a1.fab ∧ (State.beginAttempt a1 a2 a3 a4).mss = a1.mss ∧ (State.beginAttempt a1 a2 a3 a4).routineIds = a1.routineIds ∧ (State.beginAttempt a1 a2 a3 a4).pending = a1.pending := by
  simp [State.beginAttempt]
@[simp] theorem State.settleRewind_frame (a1 : State) : (State.settleRewind a1).ident = a1.ident ∧ (State.settleRewind a1).nv = a1.nv ∧ (State.settleRewind a1).top = a1.top ∧ (State.settleRewind a1).cle = a1.cle ∧ (State.settleRewind a1).pue0 = a1.pue0 ∧ (State.settleRewind a1).pue1 = a1.pue1 ∧ (State.settleRewind a1).fab = a1.fab ∧ (State.settleRewind a1).mss = a1.mss ∧ (State.settleRewind a1).routineIds = a1.routineIds ∧ (State.settleRewind a1).pending = a1.pending := by
  simp [State.settleRewind]
@[simp] theorem State.clobberParams_frame (a1 : State) (a2) : (State.clobberParams a1 a2).ident = a1.ident ∧ (State.clobberParams a1 a2).nv = a1.nv ∧ (State.clobberParams a1 a2).top = a1.top ∧ (State.clobberParams a1 a2).hub = a1.hub ∧ (State.clobberParams a1 a2).err = a1.err ∧ (State.clobberParams a1 a2).mem = a1.mem ∧ (State.clobberParams a1 a2).cle = a1.cle ∧ (State.clobberParams a1 a2).pue0 = a1.pue0 ∧ (State.clobberParams a1 a2).pue1 = a1.pue1 ∧ (State.clobberParams a1 a2).cke = a1.cke ∧ (State.clobberParams a1 a2).pwr = a1.pwr ∧ (State.clobberParams a1 a2).fab = a1.fab ∧ (State.clobberParams a1 a2).pmu = a1.pmu ∧ (State.clobberParams a1 a2).mss = a1.mss ∧ (State.clobberParams a1 a2).sent = a1.sent ∧ (State.clobberParams a1 a2).routineIds = a1.routineIds ∧ (State.clobberParams a1 a2).pending = a1.pending := by
  simp [State.clobberParams]
@[simp] theorem State.finishCall_frame (a1 : State) (a2) : (State.finishCall a1 a2).ident = a1.ident ∧ (State.finishCall a1 a2).nv = a1.nv ∧ (State.finishCall a1 a2).top = a1.top ∧ (State.finishCall a1 a2).cle = a1.cle ∧ (State.finishCall a1 a2).pue0 = a1.pue0 ∧ (State.finishCall a1 a2).pue1 = a1.pue1 ∧ (State.finishCall a1 a2).fab = a1.fab ∧ (State.finishCall a1 a2).mss = a1.mss ∧ (State.finishCall a1 a2).routineIds = a1.routineIds ∧ (State.finishCall a1 a2).pending = a1.pending := by
  simp only [State.finishCall]
  repeat' split
  all_goals simp
@[simp] theorem rtDispatch_frame (a1 : State) (a2) (a3) (a4) (a5) : (rtDispatch a1 a2 a3 a4 a5).ident = a1.ident ∧ (rtDispatch a1 a2 a3 a4 a5).nv = a1.nv ∧ (rtDispatch a1 a2 a3 a4 a5).top = a1.top ∧ (rtDispatch a1 a2 a3 a4 a5).hub = a1.hub ∧ (rtDispatch a1 a2 a3 a4 a5).err = a1.err ∧ (rtDispatch a1 a2 a3 a4 a5).mem = a1.mem ∧ (rtDispatch a1 a2 a3 a4 a5).cle = a1.cle ∧ (rtDispatch a1 a2 a3 a4 a5).pue0 = a1.pue0 ∧ (rtDispatch a1 a2 a3 a4 a5).pue1 = a1.pue1 ∧ (rtDispatch a1 a2 a3 a4 a5).cke = a1.cke ∧ (rtDispatch a1 a2 a3 a4 a5).pwr = a1.pwr ∧ (rtDispatch a1 a2 a3 a4 a5).fab = a1.fab ∧ (rtDispatch a1 a2 a3 a4 a5).pmu = a1.pmu ∧ (rtDispatch a1 a2 a3 a4 a5).mss = a1.mss ∧ (rtDispatch a1 a2 a3 a4 a5).sent = a1.sent ∧ (rtDispatch a1 a2 a3 a4 a5).routineIds = a1.routineIds ∧ (rtDispatch a1 a2 a3 a4 a5).pending = a1.pending := by
  simp only [rtDispatch]
  repeat' split
  all_goals simp
@[simp] theorem callBegin_frame (a1) (a2 : State) (a3) (a4) : (callBegin a1 a2 a3 a4).ident = a2.ident ∧ (callBegin a1 a2 a3 a4).nv = a2.nv ∧ (callBegin a1 a2 a3 a4).top = a2.top ∧ (callBegin a1 a2 a3 a4).cle = a2.cle ∧ (callBegin a1 a2 a3 a4).pue0 = a2.pue0 ∧ (callBegin a1 a2 a3 a4).pue1 = a2.pue1 ∧ (callBegin a1 a2 a3 a4).fab = a2.fab ∧ (callBegin a1 a2 a3 a4).mss = a2.mss ∧ (callBegin a1 a2 a3 a4).routineIds = a2.routineIds ∧ (callBegin a1 a2 a3 a4).pending = a2.pending := by
  simp only [callBegin]
  repeat' split
  all_goals simp
@[simp] theorem readBlock_frame (a1 : State) (a2) (a3) (a4) : (readBlock a1 a2 a3 a4).ident = a1.ident ∧ (readBlock a1 a2 a3 a4).nv = a1.nv ∧ (readBlock a1 a2 a3 a4).top = a1.top ∧ (readBlock a1 a2 a3 a4).cle = a1.cle ∧ (readBlock a1 a2 a3 a4).pue0 = a1.pue0 ∧ (readBlock a1 a2 a3 a4).pue1 = a1.pue1 ∧ (readBlock a1 a2 a3 a4).fab = a1.fab ∧ (readBlock a1 a2 a3 a4).mss = a1.mss ∧ (readBlock a1 a2 a3 a4).routineIds = a1.routineIds ∧ (readBlock a1 a2 a3 a4).pending = a1.pending := by
  simp only [readBlock]
  repeat' split
  all_goals simp
@[simp] theorem runRoutine_frame (a1 : State) (a2) (a3) (a4) : (runRoutine a1 a2 a3 a4).ident = a1.ident ∧ (runRoutine a1 a2 a3 a4).nv = a1.nv ∧ (runRoutine a1 a2 a3 a4).top = a1.top ∧ (runRoutine a1 a2 a3 a4).hub = a1.hub ∧ (runRoutine a1 a2 a3 a4).err = a1.err ∧ (runRoutine a1 a2 a3 a4).mem = a1.mem ∧ (runRoutine a1 a2 a3 a4).cle = a1.cle ∧ (runRoutine a1 a2 a3 a4).pue0 = a1.pue0 ∧ (runRoutine a1 a2 a3 a4).pue1 = a1.pue1 ∧ (runRoutine a1 a2 a3 a4).pwr = a1.pwr ∧ (runRoutine a1 a2 a3 a4).fab = a1.fab ∧ (runRoutine a1 a2 a3 a4).pmu = a1.pmu ∧ (runRoutine a1 a2 a3 a4).mss = a1.mss ∧ (runRoutine a1 a2 a3 a4).sent = a1.sent ∧ (runRoutine a1 a2 a3 a4).routineIds = a1.routineIds ∧ (runRoutine a1 a2 a3 a4).pending = a1.pending := by
  simp only [runRoutine]
  repeat' split
  all_goals simp
@[simp] theorem tmvDispatch_frame (a1) (a2) (a3) (a4) (a5 : State) : (tmvDispatch a1 a2 a3 a4 a5).ident = a5.ident ∧ (tmvDispatch a1 a2 a3 a4 a5).nv = a5.nv ∧ (tmvDispatch a1 a2 a3 a4 a5).top = a5.top ∧ (tmvDispatch a1 a2 a3 a4 a5).cle = a5.cle ∧ (tmvDispatch a1 a2 a3 a4 a5).pue0 = a5.pue0 ∧ (tmvDispatch a1 a2 a3 a4 a5).pue1 = a5.pue1 ∧ (tmvDispatch a1 a2 a3 a4 a5).fab = a5.fab ∧ (tmvDispatch a1 a2 a3 a4 a5).mss = a5.mss ∧ (tmvDispatch a1 a2 a3 a4 a5).routineIds = a5.routineIds ∧ (tmvDispatch a1 a2 a3 a4 a5).pending = a5.pending := by
  simp [tmvDispatch]
@[simp] theorem checkRead_frame (a1 : State) (a2) (a3) (a4) : (checkRead a1 a2 a3 a4).2.2.ident = a1.ident ∧ (checkRead a1 a2 a3 a4).2.2.nv = a1.nv ∧ (checkRead a1 a2 a3 a4).2.2.top = a1.top ∧ (checkRead a1 a2 a3 a4).2.2.cores = a1.cores ∧ (checkRead a1 a2 a3 a4).2.2.cle = a1.cle ∧ (checkRead a1 a2 a3 a4).2.2.pue0 = a1.pue0 ∧ (checkRead a1 a2 a3 a4).2.2.pue1 = a1.pue1 ∧ (checkRead a1 a2 a3 a4).2.2.fab = a1.fab ∧ (checkRead a1 a2 a3 a4).2.2.mss = a1.mss ∧ (checkRead a1 a2 a3 a4).2.2.routineIds = a1.routineIds ∧ (checkRead a1 a2 a3 a4).2.2.pending = a1.pending := by
  simp only [checkRead]
  repeat' split
  all_goals simp
@[simp] theorem State.poisonMark_frame (a1 : State) (a2) : (State.poisonMark a1 a2).ident = a1.ident ∧ (State.poisonMark a1 a2).nv = a1.nv ∧ (State.poisonMark a1 a2).top = a1.top ∧ (State.poisonMark a1 a2).hub = a1.hub ∧ (State.poisonMark a1 a2).err = a1.err ∧ (State.poisonMark a1 a2).mem = a1.mem ∧ (State.poisonMark a1 a2).cle = a1.cle ∧ (State.poisonMark a1 a2).pue0 = a1.pue0 ∧ (State.poisonMark a1 a2).pue1 = a1.pue1 ∧ (State.poisonMark a1 a2).pwr = a1.pwr ∧ (State.poisonMark a1 a2).fab = a1.fab ∧ (State.poisonMark a1 a2).pmu = a1.pmu ∧ (State.poisonMark a1 a2).mss = a1.mss ∧ (State.poisonMark a1 a2).sent = a1.sent ∧ (State.poisonMark a1 a2).fresh = a1.fresh ∧ (State.poisonMark a1 a2).routineIds = a1.routineIds ∧ (State.poisonMark a1 a2).pending = a1.pending := by
  simp [State.poisonMark]
@[simp] theorem State.tmvPoison_frame (a1 : State) (a2) (a3) : (State.tmvPoison a1 a2 a3).ident = a1.ident ∧ (State.tmvPoison a1 a2 a3).nv = a1.nv ∧ (State.tmvPoison a1 a2 a3).top = a1.top ∧ (State.tmvPoison a1 a2 a3).mem = a1.mem ∧ (State.tmvPoison a1 a2 a3).cle = a1.cle ∧ (State.tmvPoison a1 a2 a3).pue0 = a1.pue0 ∧ (State.tmvPoison a1 a2 a3).pue1 = a1.pue1 ∧ (State.tmvPoison a1 a2 a3).pwr = a1.pwr ∧ (State.tmvPoison a1 a2 a3).fab = a1.fab ∧ (State.tmvPoison a1 a2 a3).mss = a1.mss ∧ (State.tmvPoison a1 a2 a3).fresh = a1.fresh ∧ (State.tmvPoison a1 a2 a3).routineIds = a1.routineIds ∧ (State.tmvPoison a1 a2 a3).pending = a1.pending := by
  simp [State.tmvPoison]
@[simp] theorem checkIndex_frame (a1 : State) (a2) (a3) (a4) : (checkIndex a1 a2 a3 a4).ident = a1.ident ∧ (checkIndex a1 a2 a3 a4).nv = a1.nv ∧ (checkIndex a1 a2 a3 a4).top = a1.top ∧ (checkIndex a1 a2 a3 a4).mem = a1.mem ∧ (checkIndex a1 a2 a3 a4).cle = a1.cle ∧ (checkIndex a1 a2 a3 a4).pue0 = a1.pue0 ∧ (checkIndex a1 a2 a3 a4).pue1 = a1.pue1 ∧ (checkIndex a1 a2 a3 a4).cke = a1.cke ∧ (checkIndex a1 a2 a3 a4).pwr = a1.pwr ∧ (checkIndex a1 a2 a3 a4).fab = a1.fab ∧ (checkIndex a1 a2 a3 a4).mss = a1.mss ∧ (checkIndex a1 a2 a3 a4).fresh = a1.fresh ∧ (checkIndex a1 a2 a3 a4).routineIds = a1.routineIds ∧ (checkIndex a1 a2 a3 a4).pending = a1.pending := by
  simp only [checkIndex]
  repeat' split
  all_goals simp
@[simp] theorem checkTail_frame (a1 : State) (a2) (a3) (a4) (a5) (a6) (a7) : (checkTail a1 a2 a3 a4 a5 a6 a7).ident = a1.ident ∧ (checkTail a1 a2 a3 a4 a5 a6 a7).nv = a1.nv ∧ (checkTail a1 a2 a3 a4 a5 a6 a7).top = a1.top ∧ (checkTail a1 a2 a3 a4 a5 a6 a7).mem = a1.mem ∧ (checkTail a1 a2 a3 a4 a5 a6 a7).cle = a1.cle ∧ (checkTail a1 a2 a3 a4 a5 a6 a7).pue0 = a1.pue0 ∧ (checkTail a1 a2 a3 a4 a5 a6 a7).pue1 = a1.pue1 ∧ (checkTail a1 a2 a3 a4 a5 a6 a7).cke = a1.cke ∧ (checkTail a1 a2 a3 a4 a5 a6 a7).pwr = a1.pwr ∧ (checkTail a1 a2 a3 a4 a5 a6 a7).fab = a1.fab ∧ (checkTail a1 a2 a3 a4 a5 a6 a7).mss = a1.mss ∧ (checkTail a1 a2 a3 a4 a5 a6 a7).fresh = a1.fresh ∧ (checkTail a1 a2 a3 a4 a5 a6 a7).routineIds = a1.routineIds ∧ (checkTail a1 a2 a3 a4 a5 a6 a7).pending = a1.pending := by
  simp only [checkTail]
  repeat' split
  all_goals simp
@[simp] theorem checkPhase_frame (a1 : State) (a2) (a3) : (checkPhase a1 a2 a3).ident = a1.ident ∧ (checkPhase a1 a2 a3).nv = a1.nv ∧ (checkPhase a1 a2 a3).top = a1.top ∧ (checkPhase a1 a2 a3).cle = a1.cle ∧ (checkPhase a1 a2 a3).pue0 = a1.pue0 ∧ (checkPhase a1 a2 a3).pue1 = a1.pue1 ∧ (checkPhase a1 a2 a3).fab = a1.fab ∧ (checkPhase a1 a2 a3).mss = a1.mss ∧ (checkPhase a1 a2 a3).routineIds = a1.routineIds ∧ (checkPhase a1 a2 a3).pending = a1.pending := by
  simp only [checkPhase]
  repeat' split
  all_goals simp
@[simp] theorem writeLine_frame (a1) (a2 : State) (a3) (a4) : (writeLine a1 a2 a3 a4).ident = a2.ident ∧ (writeLine a1 a2 a3 a4).nv = a2.nv ∧ (writeLine a1 a2 a3 a4).top = a2.top ∧ (writeLine a1 a2 a3 a4).cle = a2.cle ∧ (writeLine a1 a2 a3 a4).pue0 = a2.pue0 ∧ (writeLine a1 a2 a3 a4).pue1 = a2.pue1 ∧ (writeLine a1 a2 a3 a4).cke = a2.cke ∧ (writeLine a1 a2 a3 a4).fab = a2.fab ∧ (writeLine a1 a2 a3 a4).mss = a2.mss ∧ (writeLine a1 a2 a3 a4).routineIds = a2.routineIds ∧ (writeLine a1 a2 a3 a4).pending = a2.pending := by
  simp [writeLine]
@[simp] theorem State.countMover_frame (a1 : State) (a2) (a3) (a4) (a5) (a6) : (State.countMover a1 a2 a3 a4 a5 a6).ident = a1.ident ∧ (State.countMover a1 a2 a3 a4 a5 a6).nv = a1.nv ∧ (State.countMover a1 a2 a3 a4 a5 a6).top = a1.top ∧ (State.countMover a1 a2 a3 a4 a5 a6).err = a1.err ∧ (State.countMover a1 a2 a3 a4 a5 a6).mem = a1.mem ∧ (State.countMover a1 a2 a3 a4 a5 a6).cle = a1.cle ∧ (State.countMover a1 a2 a3 a4 a5 a6).pue0 = a1.pue0 ∧ (State.countMover a1 a2 a3 a4 a5 a6).pue1 = a1.pue1 ∧ (State.countMover a1 a2 a3 a4 a5 a6).cke = a1.cke ∧ (State.countMover a1 a2 a3 a4 a5 a6).pwr = a1.pwr ∧ (State.countMover a1 a2 a3 a4 a5 a6).fab = a1.fab ∧ (State.countMover a1 a2 a3 a4 a5 a6).mss = a1.mss ∧ (State.countMover a1 a2 a3 a4 a5 a6).fresh = a1.fresh ∧ (State.countMover a1 a2 a3 a4 a5 a6).routineIds = a1.routineIds ∧ (State.countMover a1 a2 a3 a4 a5 a6).pending = a1.pending := by
  simp [State.countMover]
@[simp] theorem State.moverRead_frame (a1 : State) (a2) (a3) (a4) : (State.moverRead a1 a2 a3 a4).ident = a1.ident ∧ (State.moverRead a1 a2 a3 a4).nv = a1.nv ∧ (State.moverRead a1 a2 a3 a4).top = a1.top ∧ (State.moverRead a1 a2 a3 a4).cle = a1.cle ∧ (State.moverRead a1 a2 a3 a4).pue0 = a1.pue0 ∧ (State.moverRead a1 a2 a3 a4).pue1 = a1.pue1 ∧ (State.moverRead a1 a2 a3 a4).fab = a1.fab ∧ (State.moverRead a1 a2 a3 a4).mss = a1.mss ∧ (State.moverRead a1 a2 a3 a4).routineIds = a1.routineIds ∧ (State.moverRead a1 a2 a3 a4).pending = a1.pending := by
  simp [State.moverRead]
@[simp] theorem storeMoving_frame (a1 : State) (a2) (a3) (a4) : (storeMoving a1 a2 a3 a4).ident = a1.ident ∧ (storeMoving a1 a2 a3 a4).nv = a1.nv ∧ (storeMoving a1 a2 a3 a4).top = a1.top ∧ (storeMoving a1 a2 a3 a4).cle = a1.cle ∧ (storeMoving a1 a2 a3 a4).pue0 = a1.pue0 ∧ (storeMoving a1 a2 a3 a4).pue1 = a1.pue1 ∧ (storeMoving a1 a2 a3 a4).cke = a1.cke ∧ (storeMoving a1 a2 a3 a4).fab = a1.fab ∧ (storeMoving a1 a2 a3 a4).mss = a1.mss ∧ (storeMoving a1 a2 a3 a4).routineIds = a1.routineIds ∧ (storeMoving a1 a2 a3 a4).pending = a1.pending := by
  simp [storeMoving]
@[simp] theorem State.coalesce_frame (a1 : State) (a2) (a3) (a4) : (State.coalesce a1 a2 a3 a4).2.ident = a1.ident ∧ (State.coalesce a1 a2 a3 a4).2.nv = a1.nv ∧ (State.coalesce a1 a2 a3 a4).2.top = a1.top ∧ (State.coalesce a1 a2 a3 a4).2.err = a1.err ∧ (State.coalesce a1 a2 a3 a4).2.mem = a1.mem ∧ (State.coalesce a1 a2 a3 a4).2.cle = a1.cle ∧ (State.coalesce a1 a2 a3 a4).2.pue0 = a1.pue0 ∧ (State.coalesce a1 a2 a3 a4).2.pue1 = a1.pue1 ∧ (State.coalesce a1 a2 a3 a4).2.cke = a1.cke ∧ (State.coalesce a1 a2 a3 a4).2.pwr = a1.pwr ∧ (State.coalesce a1 a2 a3 a4).2.fab = a1.fab ∧ (State.coalesce a1 a2 a3 a4).2.mss = a1.mss ∧ (State.coalesce a1 a2 a3 a4).2.routineIds = a1.routineIds ∧ (State.coalesce a1 a2 a3 a4).2.pending = a1.pending := by
  simp only [State.coalesce]
  repeat' split
  all_goals simp
@[simp] theorem localAccess_frame (a1 : State) (a2) (a3) (a4) : (localAccess a1 a2 a3 a4).ident = a1.ident ∧ (localAccess a1 a2 a3 a4).nv = a1.nv ∧ (localAccess a1 a2 a3 a4).top = a1.top ∧ (localAccess a1 a2 a3 a4).cle = a1.cle ∧ (localAccess a1 a2 a3 a4).pue0 = a1.pue0 ∧ (localAccess a1 a2 a3 a4).pue1 = a1.pue1 ∧ (localAccess a1 a2 a3 a4).fab = a1.fab ∧ (localAccess a1 a2 a3 a4).mss = a1.mss ∧ (localAccess a1 a2 a3 a4).routineIds = a1.routineIds ∧ (localAccess a1 a2 a3 a4).pending = a1.pending := by
  simp [localAccess]
@[simp] theorem issueN_frame (a1) (a2) (a3) (a4) (a5 : State) : (issueN a1 a2 a3 a4 a5).ident = a5.ident ∧ (issueN a1 a2 a3 a4 a5).nv = a5.nv ∧ (issueN a1 a2 a3 a4 a5).top = a5.top ∧ (issueN a1 a2 a3 a4 a5).mem = a5.mem ∧ (issueN a1 a2 a3 a4 a5).cle = a5.cle ∧ (issueN a1 a2 a3 a4 a5).pue0 = a5.pue0 ∧ (issueN a1 a2 a3 a4 a5).pue1 = a5.pue1 ∧ (issueN a1 a2 a3 a4 a5).cke = a5.cke ∧ (issueN a1 a2 a3 a4 a5).pwr = a5.pwr ∧ (issueN a1 a2 a3 a4 a5).mss = a5.mss ∧ (issueN a1 a2 a3 a4 a5).fresh = a5.fresh ∧ (issueN a1 a2 a3 a4 a5).routineIds = a5.routineIds ∧ (issueN a1 a2 a3 a4 a5).pending = a5.pending := by
  induction a4 generalizing a5 with
  | zero => simp [issueN]
  | succ n ih =>
    unfold issueN
    try dsimp only
    repeat' split
    all_goals simp_all
@[simp] theorem issueRemote_frame (a1 : State) (a2) (a3) (a4) : (issueRemote a1 a2 a3 a4).ident = a1.ident ∧ (issueRemote a1 a2 a3 a4).nv = a1.nv ∧ (issueRemote a1 a2 a3 a4).top = a1.top ∧ (issueRemote a1 a2 a3 a4).mem = a1.mem ∧ (issueRemote a1 a2 a3 a4).cle = a1.cle ∧ (issueRemote a1 a2 a3 a4).pue0 = a1.pue0 ∧ (issueRemote a1 a2 a3 a4).pue1 = a1.pue1 ∧ (issueRemote a1 a2 a3 a4).cke = a1.cke ∧ (issueRemote a1 a2 a3 a4).pwr = a1.pwr ∧ (issueRemote a1 a2 a3 a4).mss = a1.mss ∧ (issueRemote a1 a2 a3 a4).fresh = a1.fresh ∧ (issueRemote a1 a2 a3 a4).routineIds = a1.routineIds ∧ (issueRemote a1 a2 a3 a4).pending = a1.pending := by
  simp [issueRemote]
@[simp] theorem finishGet_frame (a1 : State) (a2) (a3) : (finishGet a1 a2 a3).ident = a1.ident ∧ (finishGet a1 a2 a3).nv = a1.nv ∧ (finishGet a1 a2 a3).top = a1.top ∧ (finishGet a1 a2 a3).cle = a1.cle ∧ (finishGet a1 a2 a3).pue0 = a1.pue0 ∧ (finishGet a1 a2 a3).pue1 = a1.pue1 ∧ (finishGet a1 a2 a3).fab = a1.fab ∧ (finishGet a1 a2 a3).mss = a1.mss ∧ (finishGet a1 a2 a3).routineIds = a1.routineIds ∧ (finishGet a1 a2 a3).pending = a1.pending := by
  simp [finishGet]
@[simp] theorem remoteAccess_frame (a1 : State) (a2) (a3) (a4) : (remoteAccess a1 a2 a3 a4).ident = a1.ident ∧ (remoteAccess a1 a2 a3 a4).nv = a1.nv ∧ (remoteAccess a1 a2 a3 a4).top = a1.top ∧ (remoteAccess a1 a2 a3 a4).cle = a1.cle ∧ (remoteAccess a1 a2 a3 a4).pue0 = a1.pue0 ∧ (remoteAccess a1 a2 a3 a4).pue1 = a1.pue1 ∧ (remoteAccess a1 a2 a3 a4).mss = a1.mss ∧ (remoteAccess a1 a2 a3 a4).routineIds = a1.routineIds ∧ (remoteAccess a1 a2 a3 a4).pending = a1.pending := by
  simp [remoteAccess]
@[simp] theorem State.remoteFail_frame (a1 : State) (a2) (a3) : (State.remoteFail a1 a2 a3).ident = a1.ident ∧ (State.remoteFail a1 a2 a3).nv = a1.nv ∧ (State.remoteFail a1 a2 a3).top = a1.top ∧ (State.remoteFail a1 a2 a3).cle = a1.cle ∧ (State.remoteFail a1 a2 a3).pue0 = a1.pue0 ∧ (State.remoteFail a1 a2 a3).pue1 = a1.pue1 ∧ (State.remoteFail a1 a2 a3).cke = a1.cke ∧ (State.remoteFail a1 a2 a3).mss = a1.mss ∧ (State.remoteFail a1 a2 a3).routineIds = a1.routineIds ∧ (State.remoteFail a1 a2 a3).pending = a1.pending := by
  simp [State.remoteFail]
@[simp] theorem State.callNote_frame (a1 : State) (a2) (a3) (a4) (a5) (a6) (a7) (a8) : (State.callNote a1 a2 a3 a4 a5 a6 a7 a8).ident = a1.ident ∧ (State.callNote a1 a2 a3 a4 a5 a6 a7 a8).nv = a1.nv ∧ (State.callNote a1 a2 a3 a4 a5 a6 a7 a8).top = a1.top ∧ (State.callNote a1 a2 a3 a4 a5 a6 a7 a8).cores = a1.cores ∧ (State.callNote a1 a2 a3 a4 a5 a6 a7 a8).mem = a1.mem ∧ (State.callNote a1 a2 a3 a4 a5 a6 a7 a8).cle = a1.cle ∧ (State.callNote a1 a2 a3 a4 a5 a6 a7 a8).pue0 = a1.pue0 ∧ (State.callNote a1 a2 a3 a4 a5 a6 a7 a8).pue1 = a1.pue1 ∧ (State.callNote a1 a2 a3 a4 a5 a6 a7 a8).cke = a1.cke ∧ (State.callNote a1 a2 a3 a4 a5 a6 a7 a8).pwr = a1.pwr ∧ (State.callNote a1 a2 a3 a4 a5 a6 a7 a8).fab = a1.fab ∧ (State.callNote a1 a2 a3 a4 a5 a6 a7 a8).mss = a1.mss ∧ (State.callNote a1 a2 a3 a4 a5 a6 a7 a8).fresh = a1.fresh ∧ (State.callNote a1 a2 a3 a4 a5 a6 a7 a8).routineIds = a1.routineIds ∧ (State.callNote a1 a2 a3 a4 a5 a6 a7 a8).pending = a1.pending := by
  simp [State.callNote]
@[simp] theorem State.callFaultAt_frame (a1 : State) (a2) (a3) (a4) (a5) (a6) (a7) : (State.callFaultAt a1 a2 a3 a4 a5 a6 a7).ident = a1.ident ∧ (State.callFaultAt a1 a2 a3 a4 a5 a6 a7).nv = a1.nv ∧ (State.callFaultAt a1 a2 a3 a4 a5 a6 a7).top = a1.top ∧ (State.callFaultAt a1 a2 a3 a4 a5 a6 a7).mem = a1.mem ∧ (State.callFaultAt a1 a2 a3 a4 a5 a6 a7).cle = a1.cle ∧ (State.callFaultAt a1 a2 a3 a4 a5 a6 a7).pue0 = a1.pue0 ∧ (State.callFaultAt a1 a2 a3 a4 a5 a6 a7).pue1 = a1.pue1 ∧ (State.callFaultAt a1 a2 a3 a4 a5 a6 a7).cke = a1.cke ∧ (State.callFaultAt a1 a2 a3 a4 a5 a6 a7).pwr = a1.pwr ∧ (State.callFaultAt a1 a2 a3 a4 a5 a6 a7).fab = a1.fab ∧ (State.callFaultAt a1 a2 a3 a4 a5 a6 a7).mss = a1.mss ∧ (State.callFaultAt a1 a2 a3 a4 a5 a6 a7).fresh = a1.fresh ∧ (State.callFaultAt a1 a2 a3 a4 a5 a6 a7).routineIds = a1.routineIds ∧ (State.callFaultAt a1 a2 a3 a4 a5 a6 a7).pending = a1.pending := by
  simp [State.callFaultAt]
@[simp] theorem State.callFault_frame (a1 : State) (a2) (a3) (a4) (a5) (a6) : (State.callFault a1 a2 a3 a4 a5 a6).ident = a1.ident ∧ (State.callFault a1 a2 a3 a4 a5 a6).nv = a1.nv ∧ (State.callFault a1 a2 a3 a4 a5 a6).top = a1.top ∧ (State.callFault a1 a2 a3 a4 a5 a6).mem = a1.mem ∧ (State.callFault a1 a2 a3 a4 a5 a6).cle = a1.cle ∧ (State.callFault a1 a2 a3 a4 a5 a6).pue0 = a1.pue0 ∧ (State.callFault a1 a2 a3 a4 a5 a6).pue1 = a1.pue1 ∧ (State.callFault a1 a2 a3 a4 a5 a6).cke = a1.cke ∧ (State.callFault a1 a2 a3 a4 a5 a6).pwr = a1.pwr ∧ (State.callFault a1 a2 a3 a4 a5 a6).fab = a1.fab ∧ (State.callFault a1 a2 a3 a4 a5 a6).mss = a1.mss ∧ (State.callFault a1 a2 a3 a4 a5 a6).fresh = a1.fresh ∧ (State.callFault a1 a2 a3 a4 a5 a6).routineIds = a1.routineIds ∧ (State.callFault a1 a2 a3 a4 a5 a6).pending = a1.pending := by
  simp [State.callFault]
@[simp] theorem State.cleWrite_frame (a1 : State) (a2) (a3) : (State.cleWrite a1 a2 a3).ident = a1.ident ∧ (State.cleWrite a1 a2 a3).nv = a1.nv ∧ (State.cleWrite a1 a2 a3).top = a1.top ∧ (State.cleWrite a1 a2 a3).cores = a1.cores ∧ (State.cleWrite a1 a2 a3).cle = a1.cle ∧ (State.cleWrite a1 a2 a3).pue0 = a1.pue0 ∧ (State.cleWrite a1 a2 a3).pue1 = a1.pue1 ∧ (State.cleWrite a1 a2 a3).cke = a1.cke ∧ (State.cleWrite a1 a2 a3).fab = a1.fab ∧ (State.cleWrite a1 a2 a3).mss = a1.mss ∧ (State.cleWrite a1 a2 a3).routineIds = a1.routineIds ∧ (State.cleWrite a1 a2 a3).pending = a1.pending := by
  simp [State.cleWrite]
@[simp] theorem State.cleNum_frame (a1 : State) (a2) (a3) (a4) : (State.cleNum a1 a2 a3 a4).ident = a1.ident ∧ (State.cleNum a1 a2 a3 a4).nv = a1.nv ∧ (State.cleNum a1 a2 a3 a4).top = a1.top ∧ (State.cleNum a1 a2 a3 a4).cores = a1.cores ∧ (State.cleNum a1 a2 a3 a4).cle = a1.cle ∧ (State.cleNum a1 a2 a3 a4).pue0 = a1.pue0 ∧ (State.cleNum a1 a2 a3 a4).pue1 = a1.pue1 ∧ (State.cleNum a1 a2 a3 a4).cke = a1.cke ∧ (State.cleNum a1 a2 a3 a4).fab = a1.fab ∧ (State.cleNum a1 a2 a3 a4).mss = a1.mss ∧ (State.cleNum a1 a2 a3 a4).routineIds = a1.routineIds ∧ (State.cleNum a1 a2 a3 a4).pending = a1.pending := by
  simp [State.cleNum]
@[simp] theorem State.cleReads_frame (a1 : State) (a2) : (State.cleReads a1 a2).ident = a1.ident ∧ (State.cleReads a1 a2).nv = a1.nv ∧ (State.cleReads a1 a2).top = a1.top ∧ (State.cleReads a1 a2).cores = a1.cores ∧ (State.cleReads a1 a2).cle = a1.cle ∧ (State.cleReads a1 a2).pue0 = a1.pue0 ∧ (State.cleReads a1 a2).pue1 = a1.pue1 ∧ (State.cleReads a1 a2).fab = a1.fab ∧ (State.cleReads a1 a2).mss = a1.mss ∧ (State.cleReads a1 a2).routineIds = a1.routineIds ∧ (State.cleReads a1 a2).pending = a1.pending := by
  simp [State.cleReads]
@[simp] theorem State.readBuckets_frame (a1 : State) (a2) (a3) : (State.readBuckets a1 a2 a3).ident = a1.ident ∧ (State.readBuckets a1 a2 a3).nv = a1.nv ∧ (State.readBuckets a1 a2 a3).top = a1.top ∧ (State.readBuckets a1 a2 a3).cores = a1.cores ∧ (State.readBuckets a1 a2 a3).cle = a1.cle ∧ (State.readBuckets a1 a2 a3).pue0 = a1.pue0 ∧ (State.readBuckets a1 a2 a3).pue1 = a1.pue1 ∧ (State.readBuckets a1 a2 a3).fab = a1.fab ∧ (State.readBuckets a1 a2 a3).mss = a1.mss ∧ (State.readBuckets a1 a2 a3).routineIds = a1.routineIds ∧ (State.readBuckets a1 a2 a3).pending = a1.pending := by
  simp [State.readBuckets]
@[simp] theorem State.setSmp_frame (a1 : State) (a2) (a3) (a4) : (State.setSmp a1 a2 a3 a4).ident = a1.ident ∧ (State.setSmp a1 a2 a3 a4).nv = a1.nv ∧ (State.setSmp a1 a2 a3 a4).top = a1.top ∧ (State.setSmp a1 a2 a3 a4).cores = a1.cores ∧ (State.setSmp a1 a2 a3 a4).cle = a1.cle ∧ (State.setSmp a1 a2 a3 a4).pue0 = a1.pue0 ∧ (State.setSmp a1 a2 a3 a4).pue1 = a1.pue1 ∧ (State.setSmp a1 a2 a3 a4).cke = a1.cke ∧ (State.setSmp a1 a2 a3 a4).fab = a1.fab ∧ (State.setSmp a1 a2 a3 a4).mss = a1.mss ∧ (State.setSmp a1 a2 a3 a4).routineIds = a1.routineIds ∧ (State.setSmp a1 a2 a3 a4).pending = a1.pending := by
  simp [State.setSmp]
@[simp] theorem State.modSmp_frame (a1 : State) (a2) (a3) (a4) : (State.modSmp a1 a2 a3 a4).ident = a1.ident ∧ (State.modSmp a1 a2 a3 a4).nv = a1.nv ∧ (State.modSmp a1 a2 a3 a4).top = a1.top ∧ (State.modSmp a1 a2 a3 a4).cores = a1.cores ∧ (State.modSmp a1 a2 a3 a4).cle = a1.cle ∧ (State.modSmp a1 a2 a3 a4).pue0 = a1.pue0 ∧ (State.modSmp a1 a2 a3 a4).pue1 = a1.pue1 ∧ (State.modSmp a1 a2 a3 a4).fab = a1.fab ∧ (State.modSmp a1 a2 a3 a4).mss = a1.mss ∧ (State.modSmp a1 a2 a3 a4).routineIds = a1.routineIds ∧ (State.modSmp a1 a2 a3 a4).pending = a1.pending := by
  simp [State.modSmp]
@[simp] theorem State.readAgreed_frame (a1 : State) (a2) (a3) (a4) : (State.readAgreed a1 a2 a3 a4).ident = a1.ident ∧ (State.readAgreed a1 a2 a3 a4).nv = a1.nv ∧ (State.readAgreed a1 a2 a3 a4).top = a1.top ∧ (State.readAgreed a1 a2 a3 a4).cores = a1.cores ∧ (State.readAgreed a1 a2 a3 a4).cle = a1.cle ∧ (State.readAgreed a1 a2 a3 a4).pue0 = a1.pue0 ∧ (State.readAgreed a1 a2 a3 a4).pue1 = a1.pue1 ∧ (State.readAgreed a1 a2 a3 a4).fab = a1.fab ∧ (State.readAgreed a1 a2 a3 a4).mss = a1.mss ∧ (State.readAgreed a1 a2 a3 a4).routineIds = a1.routineIds ∧ (State.readAgreed a1 a2 a3 a4).pending = a1.pending := by
  simp [State.readAgreed]
@[simp] theorem State.setBucket_frame (a1 : State) (a2) (a3) : (State.setBucket a1 a2 a3).ident = a1.ident ∧ (State.setBucket a1 a2 a3).nv = a1.nv ∧ (State.setBucket a1 a2 a3).top = a1.top ∧ (State.setBucket a1 a2 a3).cores = a1.cores ∧ (State.setBucket a1 a2 a3).hub = a1.hub ∧ (State.setBucket a1 a2 a3).err = a1.err ∧ (State.setBucket a1 a2 a3).mem = a1.mem ∧ (State.setBucket a1 a2 a3).pue0 = a1.pue0 ∧ (State.setBucket a1 a2 a3).pue1 = a1.pue1 ∧ (State.setBucket a1 a2 a3).cke = a1.cke ∧ (State.setBucket a1 a2 a3).pwr = a1.pwr ∧ (State.setBucket a1 a2 a3).fab = a1.fab ∧ (State.setBucket a1 a2 a3).pmu = a1.pmu ∧ (State.setBucket a1 a2 a3).mss = a1.mss ∧ (State.setBucket a1 a2 a3).sent = a1.sent ∧ (State.setBucket a1 a2 a3).fresh = a1.fresh ∧ (State.setBucket a1 a2 a3).routineIds = a1.routineIds ∧ (State.setBucket a1 a2 a3).pending = a1.pending := by
  simp [State.setBucket]
@[simp] theorem HopAcc.st_frame (a1) : (HopAcc.st a1).ident = a1.st.ident ∧ (HopAcc.st a1).nv = a1.st.nv ∧ (HopAcc.st a1).top = a1.st.top ∧ (HopAcc.st a1).cores = a1.st.cores ∧ (HopAcc.st a1).hub = a1.st.hub ∧ (HopAcc.st a1).err = a1.st.err ∧ (HopAcc.st a1).mem = a1.st.mem ∧ (HopAcc.st a1).cle = a1.st.cle ∧ (HopAcc.st a1).pue0 = a1.st.pue0 ∧ (HopAcc.st a1).pue1 = a1.st.pue1 ∧ (HopAcc.st a1).cke = a1.st.cke ∧ (HopAcc.st a1).pwr = a1.st.pwr ∧ (HopAcc.st a1).fab = a1.st.fab ∧ (HopAcc.st a1).pmu = a1.st.pmu ∧ (HopAcc.st a1).mss = a1.st.mss ∧ (HopAcc.st a1).sent = a1.st.sent ∧ (HopAcc.st a1).fresh = a1.st.fresh ∧ (HopAcc.st a1).routineIds = a1.st.routineIds ∧ (HopAcc.st a1).pending = a1.st.pending := by
  simp [HopAcc.st]
@[simp] theorem hopStep_frame (a1) (a2) (a3) (a4) (a5) : (hopStep a1 a2 a3 a4 a5).st.ident = a4.st.ident ∧ (hopStep a1 a2 a3 a4 a5).st.nv = a4.st.nv ∧ (hopStep a1 a2 a3 a4 a5).st.top = a4.st.top ∧ (hopStep a1 a2 a3 a4 a5).st.cores = a4.st.cores ∧ (hopStep a1 a2 a3 a4 a5).st.pue0 = a4.st.pue0 ∧ (hopStep a1 a2 a3 a4 a5).st.pue1 = a4.st.pue1 ∧ (hopStep a1 a2 a3 a4 a5).st.cke = a4.st.cke ∧ (hopStep a1 a2 a3 a4 a5).st.fab = a4.st.fab ∧ (hopStep a1 a2 a3 a4 a5).st.mss = a4.st.mss ∧ (hopStep a1 a2 a3 a4 a5).st.routineIds = a4.st.routineIds ∧ (hopStep a1 a2 a3 a4 a5).st.pending = a4.st.pending := by
  simp only [hopStep]
  repeat' split
  all_goals simp
@[simp] theorem State.hopRun_frame (a1 : State) (a2) (a3) (a4) (a5) : (State.hopRun a1 a2 a3 a4 a5).st.ident = a1.ident ∧ (State.hopRun a1 a2 a3 a4 a5).st.nv = a1.nv ∧ (State.hopRun a1 a2 a3 a4 a5).st.top = a1.top ∧ (State.hopRun a1 a2 a3 a4 a5).st.cores = a1.cores ∧ (State.hopRun a1 a2 a3 a4 a5).st.pue0 = a1.pue0 ∧ (State.hopRun a1 a2 a3 a4 a5).st.pue1 = a1.pue1 ∧ (State.hopRun a1 a2 a3 a4 a5).st.fab = a1.fab ∧ (State.hopRun a1 a2 a3 a4 a5).st.mss = a1.mss ∧ (State.hopRun a1 a2 a3 a4 a5).st.routineIds = a1.routineIds ∧ (State.hopRun a1 a2 a3 a4 a5).st.pending = a1.pending := by
  simp only [State.hopRun]
  repeat' split
  all_goals simp
@[simp] theorem State.learnCensus_frame (a1 : State) (a2) (a3) (a4) (a5) : (State.learnCensus a1 a2 a3 a4 a5).ident = a1.ident ∧ (State.learnCensus a1 a2 a3 a4 a5).nv = a1.nv ∧ (State.learnCensus a1 a2 a3 a4 a5).top = a1.top ∧ (State.learnCensus a1 a2 a3 a4 a5).cores = a1.cores ∧ (State.learnCensus a1 a2 a3 a4 a5).pue0 = a1.pue0 ∧ (State.learnCensus a1 a2 a3 a4 a5).pue1 = a1.pue1 ∧ (State.learnCensus a1 a2 a3 a4 a5).fab = a1.fab ∧ (State.learnCensus a1 a2 a3 a4 a5).mss = a1.mss ∧ (State.learnCensus a1 a2 a3 a4 a5).routineIds = a1.routineIds ∧ (State.learnCensus a1 a2 a3 a4 a5).pending = a1.pending := by
  simp [State.learnCensus]
@[simp] theorem State.writeFinal_frame (a1 : State) (a2) (a3) (a4) (a5) : (State.writeFinal a1 a2 a3 a4 a5).ident = a1.ident ∧ (State.writeFinal a1 a2 a3 a4 a5).nv = a1.nv ∧ (State.writeFinal a1 a2 a3 a4 a5).top = a1.top ∧ (State.writeFinal a1 a2 a3 a4 a5).cores = a1.cores ∧ (State.writeFinal a1 a2 a3 a4 a5).cle = a1.cle ∧ (State.writeFinal a1 a2 a3 a4 a5).pue0 = a1.pue0 ∧ (State.writeFinal a1 a2 a3 a4 a5).pue1 = a1.pue1 ∧ (State.writeFinal a1 a2 a3 a4 a5).cke = a1.cke ∧ (State.writeFinal a1 a2 a3 a4 a5).fab = a1.fab ∧ (State.writeFinal a1 a2 a3 a4 a5).mss = a1.mss ∧ (State.writeFinal a1 a2 a3 a4 a5).routineIds = a1.routineIds ∧ (State.writeFinal a1 a2 a3 a4 a5).pending = a1.pending := by
  simp [State.writeFinal]
@[simp] theorem State.writeFinals_frame (a1 : State) (a2) (a3) (a4) (a5) : (State.writeFinals a1 a2 a3 a4 a5).ident = a1.ident ∧ (State.writeFinals a1 a2 a3 a4 a5).nv = a1.nv ∧ (State.writeFinals a1 a2 a3 a4 a5).top = a1.top ∧ (State.writeFinals a1 a2 a3 a4 a5).cores = a1.cores ∧ (State.writeFinals a1 a2 a3 a4 a5).cle = a1.cle ∧ (State.writeFinals a1 a2 a3 a4 a5).pue0 = a1.pue0 ∧ (State.writeFinals a1 a2 a3 a4 a5).pue1 = a1.pue1 ∧ (State.writeFinals a1 a2 a3 a4 a5).cke = a1.cke ∧ (State.writeFinals a1 a2 a3 a4 a5).fab = a1.fab ∧ (State.writeFinals a1 a2 a3 a4 a5).mss = a1.mss ∧ (State.writeFinals a1 a2 a3 a4 a5).routineIds = a1.routineIds ∧ (State.writeFinals a1 a2 a3 a4 a5).pending = a1.pending := by
  simp [State.writeFinals]
@[simp] theorem State.setDiv_frame (a1 : State) (a2) (a3) (a4) : (State.setDiv a1 a2 a3 a4).ident = a1.ident ∧ (State.setDiv a1 a2 a3 a4).nv = a1.nv ∧ (State.setDiv a1 a2 a3 a4).top = a1.top ∧ (State.setDiv a1 a2 a3 a4).cores = a1.cores ∧ (State.setDiv a1 a2 a3 a4).cle = a1.cle ∧ (State.setDiv a1 a2 a3 a4).pue0 = a1.pue0 ∧ (State.setDiv a1 a2 a3 a4).pue1 = a1.pue1 ∧ (State.setDiv a1 a2 a3 a4).fab = a1.fab ∧ (State.setDiv a1 a2 a3 a4).mss = a1.mss ∧ (State.setDiv a1 a2 a3 a4).routineIds = a1.routineIds ∧ (State.setDiv a1 a2 a3 a4).pending = a1.pending := by
  simp [State.setDiv]
@[simp] theorem State.finalsHere_frame (a1 : State) (a2) (a3) (a4) : (State.finalsHere a1 a2 a3 a4).ident = a1.ident ∧ (State.finalsHere a1 a2 a3 a4).nv = a1.nv ∧ (State.finalsHere a1 a2 a3 a4).top = a1.top ∧ (State.finalsHere a1 a2 a3 a4).cores = a1.cores ∧ (State.finalsHere a1 a2 a3 a4).err = a1.err ∧ (State.finalsHere a1 a2 a3 a4).mem = a1.mem ∧ (State.finalsHere a1 a2 a3 a4).pue0 = a1.pue0 ∧ (State.finalsHere a1 a2 a3 a4).pue1 = a1.pue1 ∧ (State.finalsHere a1 a2 a3 a4).cke = a1.cke ∧ (State.finalsHere a1 a2 a3 a4).pwr = a1.pwr ∧ (State.finalsHere a1 a2 a3 a4).fab = a1.fab ∧ (State.finalsHere a1 a2 a3 a4).mss = a1.mss ∧ (State.finalsHere a1 a2 a3 a4).fresh = a1.fresh ∧ (State.finalsHere a1 a2 a3 a4).routineIds = a1.routineIds ∧ (State.finalsHere a1 a2 a3 a4).pending = a1.pending := by
  simp [State.finalsHere]
@[simp] theorem State.closeShard_frame (a1 : State) (a2) (a3) (a4) (a5) (a6) (a7) : (State.closeShard a1 a2 a3 a4 a5 a6 a7).ident = a1.ident ∧ (State.closeShard a1 a2 a3 a4 a5 a6 a7).nv = a1.nv ∧ (State.closeShard a1 a2 a3 a4 a5 a6 a7).top = a1.top ∧ (State.closeShard a1 a2 a3 a4 a5 a6 a7).cores = a1.cores ∧ (State.closeShard a1 a2 a3 a4 a5 a6 a7).pue0 = a1.pue0 ∧ (State.closeShard a1 a2 a3 a4 a5 a6 a7).pue1 = a1.pue1 ∧ (State.closeShard a1 a2 a3 a4 a5 a6 a7).mss = a1.mss ∧ (State.closeShard a1 a2 a3 a4 a5 a6 a7).routineIds = a1.routineIds ∧ (State.closeShard a1 a2 a3 a4 a5 a6 a7).pending = a1.pending := by
  simp [State.closeShard]
@[simp] theorem State.closeAlone_frame (a1 : State) (a2) (a3) (a4) (a5) : (State.closeAlone a1 a2 a3 a4 a5).ident = a1.ident ∧ (State.closeAlone a1 a2 a3 a4 a5).nv = a1.nv ∧ (State.closeAlone a1 a2 a3 a4 a5).top = a1.top ∧ (State.closeAlone a1 a2 a3 a4 a5).cores = a1.cores ∧ (State.closeAlone a1 a2 a3 a4 a5).pue0 = a1.pue0 ∧ (State.closeAlone a1 a2 a3 a4 a5).pue1 = a1.pue1 ∧ (State.closeAlone a1 a2 a3 a4 a5).mss = a1.mss ∧ (State.closeAlone a1 a2 a3 a4 a5).routineIds = a1.routineIds ∧ (State.closeAlone a1 a2 a3 a4 a5).pending = a1.pending := by
  simp [State.closeAlone]
@[simp] theorem State.originate_frame (a1 : State) (a2) (a3) (a4) (a5) : (State.originate a1 a2 a3 a4 a5).ident = a1.ident ∧ (State.originate a1 a2 a3 a4 a5).nv = a1.nv ∧ (State.originate a1 a2 a3 a4 a5).top = a1.top ∧ (State.originate a1 a2 a3 a4 a5).cores = a1.cores ∧ (State.originate a1 a2 a3 a4 a5).pue0 = a1.pue0 ∧ (State.originate a1 a2 a3 a4 a5).pue1 = a1.pue1 ∧ (State.originate a1 a2 a3 a4 a5).mss = a1.mss ∧ (State.originate a1 a2 a3 a4 a5).routineIds = a1.routineIds ∧ (State.originate a1 a2 a3 a4 a5).pending = a1.pending := by
  simp only [State.originate]
  repeat' split
  all_goals simp
@[simp] theorem State.sealBucket_frame (a1 : State) (a2) (a3) : (State.sealBucket a1 a2 a3).ident = a1.ident ∧ (State.sealBucket a1 a2 a3).nv = a1.nv ∧ (State.sealBucket a1 a2 a3).top = a1.top ∧ (State.sealBucket a1 a2 a3).cores = a1.cores ∧ (State.sealBucket a1 a2 a3).pue0 = a1.pue0 ∧ (State.sealBucket a1 a2 a3).pue1 = a1.pue1 ∧ (State.sealBucket a1 a2 a3).mss = a1.mss ∧ (State.sealBucket a1 a2 a3).routineIds = a1.routineIds ∧ (State.sealBucket a1 a2 a3).pending = a1.pending := by
  simp [State.sealBucket]
@[simp] theorem addPiece_frame (a1 : State) (a2) (a3) (a4) (a5) : (addPiece a1 a2 a3 a4 a5).ident = a1.ident ∧ (addPiece a1 a2 a3 a4 a5).nv = a1.nv ∧ (addPiece a1 a2 a3 a4 a5).top = a1.top ∧ (addPiece a1 a2 a3 a4 a5).cores = a1.cores ∧ (addPiece a1 a2 a3 a4 a5).pue0 = a1.pue0 ∧ (addPiece a1 a2 a3 a4 a5).pue1 = a1.pue1 ∧ (addPiece a1 a2 a3 a4 a5).mss = a1.mss ∧ (addPiece a1 a2 a3 a4 a5).routineIds = a1.routineIds ∧ (addPiece a1 a2 a3 a4 a5).pending = a1.pending := by
  simp [addPiece]
theorem startHub_frame {a1 : State} {a2} {a3} {p0} {t : State} (h : (startHub a1 a2 a3) = some (p0, t)) : t.ident = a1.ident ∧ t.nv = a1.nv ∧ t.top = a1.top ∧ t.hub = a1.hub ∧ t.err = a1.err ∧ t.mem = a1.mem ∧ t.cle = a1.cle ∧ t.pue0 = a1.pue0 ∧ t.pue1 = a1.pue1 ∧ t.cke = a1.cke ∧ t.pwr = a1.pwr ∧ t.fab = a1.fab ∧ t.pmu = a1.pmu ∧ t.mss = a1.mss ∧ t.sent = a1.sent ∧ t.fresh = a1.fresh ∧ t.routineIds = a1.routineIds ∧ t.pending = a1.pending := by
  unfold startHub at h
  try dsimp only at h
  (repeat' split at h) <;> first | (cases h; done) | (cases h; simp) | (cases h; (repeat' split) <;> simp)
theorem State.takeStream_frame {a1 : State} {a2} {a3} {p0} {t : State} (h : (State.takeStream a1 a2 a3) = some (p0, t)) : t.ident = a1.ident ∧ t.nv = a1.nv ∧ t.top = a1.top ∧ t.cores = a1.cores ∧ t.hub = a1.hub ∧ t.err = a1.err ∧ t.mem = a1.mem ∧ t.cle = a1.cle ∧ t.pue0 = a1.pue0 ∧ t.pue1 = a1.pue1 ∧ t.cke = a1.cke ∧ t.pwr = a1.pwr ∧ t.pmu = a1.pmu ∧ t.mss = a1.mss ∧ t.fresh = a1.fresh ∧ t.routineIds = a1.routineIds ∧ t.pending = a1.pending := by
  exact State.takeInbox_frame h
@[simp] theorem State.ackStream_frame (a1 : State) (a2) (a3) : (State.ackStream a1 a2 a3).ident = a1.ident ∧ (State.ackStream a1 a2 a3).nv = a1.nv ∧ (State.ackStream a1 a2 a3).top = a1.top ∧ (State.ackStream a1 a2 a3).cores = a1.cores ∧ (State.ackStream a1 a2 a3).mem = a1.mem ∧ (State.ackStream a1 a2 a3).cle = a1.cle ∧ (State.ackStream a1 a2 a3).pue0 = a1.pue0 ∧ (State.ackStream a1 a2 a3).pue1 = a1.pue1 ∧ (State.ackStream a1 a2 a3).cke = a1.cke ∧ (State.ackStream a1 a2 a3).pwr = a1.pwr ∧ (State.ackStream a1 a2 a3).mss = a1.mss ∧ (State.ackStream a1 a2 a3).fresh = a1.fresh ∧ (State.ackStream a1 a2 a3).routineIds = a1.routineIds ∧ (State.ackStream a1 a2 a3).pending = a1.pending := by
  simp [State.ackStream]
@[simp] theorem State.acceptStream_frame (a1 : State) (a2) (a3) : (State.acceptStream a1 a2 a3).ident = a1.ident ∧ (State.acceptStream a1 a2 a3).nv = a1.nv ∧ (State.acceptStream a1 a2 a3).top = a1.top ∧ (State.acceptStream a1 a2 a3).cores = a1.cores ∧ (State.acceptStream a1 a2 a3).mem = a1.mem ∧ (State.acceptStream a1 a2 a3).pue0 = a1.pue0 ∧ (State.acceptStream a1 a2 a3).pue1 = a1.pue1 ∧ (State.acceptStream a1 a2 a3).cke = a1.cke ∧ (State.acceptStream a1 a2 a3).pwr = a1.pwr ∧ (State.acceptStream a1 a2 a3).mss = a1.mss ∧ (State.acceptStream a1 a2 a3).fresh = a1.fresh ∧ (State.acceptStream a1 a2 a3).routineIds = a1.routineIds ∧ (State.acceptStream a1 a2 a3).pending = a1.pending := by
  simp [State.acceptStream]
@[simp] theorem State.modStream_frame (a1 : State) (a2) (a3) (a4) : (State.modStream a1 a2 a3 a4).ident = a1.ident ∧ (State.modStream a1 a2 a3 a4).nv = a1.nv ∧ (State.modStream a1 a2 a3 a4).top = a1.top ∧ (State.modStream a1 a2 a3 a4).cores = a1.cores ∧ (State.modStream a1 a2 a3 a4).hub = a1.hub ∧ (State.modStream a1 a2 a3 a4).err = a1.err ∧ (State.modStream a1 a2 a3 a4).mem = a1.mem ∧ (State.modStream a1 a2 a3 a4).pue0 = a1.pue0 ∧ (State.modStream a1 a2 a3 a4).pue1 = a1.pue1 ∧ (State.modStream a1 a2 a3 a4).cke = a1.cke ∧ (State.modStream a1 a2 a3 a4).pwr = a1.pwr ∧ (State.modStream a1 a2 a3 a4).fab = a1.fab ∧ (State.modStream a1 a2 a3 a4).pmu = a1.pmu ∧ (State.modStream a1 a2 a3 a4).mss = a1.mss ∧ (State.modStream a1 a2 a3 a4).sent = a1.sent ∧ (State.modStream a1 a2 a3 a4).fresh = a1.fresh ∧ (State.modStream a1 a2 a3 a4).routineIds = a1.routineIds ∧ (State.modStream a1 a2 a3 a4).pending = a1.pending := by
  simp [State.modStream]
@[simp] theorem State.reapStreams_frame (a1 : State) : (State.reapStreams a1).ident = a1.ident ∧ (State.reapStreams a1).nv = a1.nv ∧ (State.reapStreams a1).top = a1.top ∧ (State.reapStreams a1).cores = a1.cores ∧ (State.reapStreams a1).hub = a1.hub ∧ (State.reapStreams a1).err = a1.err ∧ (State.reapStreams a1).mem = a1.mem ∧ (State.reapStreams a1).pue0 = a1.pue0 ∧ (State.reapStreams a1).pue1 = a1.pue1 ∧ (State.reapStreams a1).cke = a1.cke ∧ (State.reapStreams a1).pwr = a1.pwr ∧ (State.reapStreams a1).fab = a1.fab ∧ (State.reapStreams a1).pmu = a1.pmu ∧ (State.reapStreams a1).mss = a1.mss ∧ (State.reapStreams a1).sent = a1.sent ∧ (State.reapStreams a1).fresh = a1.fresh ∧ (State.reapStreams a1).routineIds = a1.routineIds ∧ (State.reapStreams a1).pending = a1.pending := by
  simp [State.reapStreams]
@[simp] theorem onStream_ident (a1 : State) (a2) (a3) (a4) (ha4 : ∀ y0 y1 y2 y3, (a4 y0 y1 y2 y3).ident = y0.ident) : (onStream a1 a2 a3 a4).ident = a1.ident := by
  unfold onStream
  try dsimp only
  (repeat' split) <;> first | rfl | (simp_all; done) | (have hh := State.takeInbox_frame ‹State.takeInbox _ _ = _›; simp_all; done) | (have hh := State.takeInbox_frame ‹State.takeInbox _ _ = _›; simp [hh]; done) | (have hh := State.takeForward_frame ‹State.takeForward _ = _›; simp_all; done) | (have hh := State.takeForward_frame ‹State.takeForward _ = _›; simp [hh]; done) | (have hh := State.takeType_frame ‹State.takeType _ _ = _›; simp_all; done) | (have hh := State.takeType_frame ‹State.takeType _ _ = _›; simp [hh]; done) | (have hh := State.takeReq_frame ‹State.takeReq _ _ = _›; simp_all; done) | (have hh := State.takeReq_frame ‹State.takeReq _ _ = _›; simp [hh]; done) | (have hh := startHub_frame ‹startHub _ _ _ = _›; simp_all; done) | (have hh := startHub_frame ‹startHub _ _ _ = _›; simp [hh]; done) | (have hh := State.takeStream_frame ‹State.takeStream _ _ _ = _›; simp_all; done) | (have hh := State.takeStream_frame ‹State.takeStream _ _ _ = _›; simp [hh]; done)
@[simp] theorem onStream_nv (a1 : State) (a2) (a3) (a4) (ha4 : ∀ y0 y1 y2 y3, (a4 y0 y1 y2 y3).nv = y0.nv) : (onStream a1 a2 a3 a4).nv = a1.nv := by
  unfold onStream
  try dsimp only
  (repeat' split) <;> first | rfl | (simp_all; done) | (have hh := State.takeInbox_frame ‹State.takeInbox _ _ = _›; simp_all; done) | (have hh := State.takeInbox_frame ‹State.takeInbox _ _ = _›; simp [hh]; done) | (have hh := State.takeForward_frame ‹State.takeForward _ = _›; simp_all; done) | (have hh := State.takeForward_frame ‹State.takeForward _ = _›; simp [hh]; done) | (have hh := State.takeType_frame ‹State.takeType _ _ = _›; simp_all; done) | (have hh := State.takeType_frame ‹State.takeType _ _ = _›; simp [hh]; done) | (have hh := State.takeReq_frame ‹State.takeReq _ _ = _›; simp_all; done) | (have hh := State.takeReq_frame ‹State.takeReq _ _ = _›; simp [hh]; done) | (have hh := startHub_frame ‹startHub _ _ _ = _›; simp_all; done) | (have hh := startHub_frame ‹startHub _ _ _ = _›; simp [hh]; done) | (have hh := State.takeStream_frame ‹State.takeStream _ _ _ = _›; simp_all; done) | (have hh := State.takeStream_frame ‹State.takeStream _ _ _ = _›; simp [hh]; done)
@[simp] theorem onStream_top (a1 : State) (a2) (a3) (a4) (ha4 : ∀ y0 y1 y2 y3, (a4 y0 y1 y2 y3).top = y0.top) : (onStream a1 a2 a3 a4).top = a1.top := by
  unfold onStream
  try dsimp only
  (repeat' split) <;> first | rfl | (simp_all; done) | (have hh := State.takeInbox_frame ‹State.takeInbox _ _ = _›; simp_all; done) | (have hh := State.takeInbox_frame ‹State.takeInbox _ _ = _›; simp [hh]; done) | (have hh := State.takeForward_frame ‹State.takeForward _ = _›; simp_all; done) | (have hh := State.takeForward_frame ‹State.takeForward _ = _›; simp [hh]; done) | (have hh := State.takeType_frame ‹State.takeType _ _ = _›; simp_all; done) | (have hh := State.takeType_frame ‹State.takeType _ _ = _›; simp [hh]; done) | (have hh := State.takeReq_frame ‹State.takeReq _ _ = _›; simp_all; done) | (have hh := State.takeReq_frame ‹State.takeReq _ _ = _›; simp [hh]; done) | (have hh := startHub_frame ‹startHub _ _ _ = _›; simp_all; done) | (have hh := startHub_frame ‹startHub _ _ _ = _›; simp [hh]; done) | (have hh := State.takeStream_frame ‹State.takeStream _ _ _ = _›; simp_all; done) | (have hh := State.takeStream_frame ‹State.takeStream _ _ _ = _›; simp [hh]; done)
@[simp] theorem onStream_cores (a1 : State) (a2) (a3) (a4) (ha4 : ∀ y0 y1 y2 y3, (a4 y0 y1 y2 y3).cores = y0.cores) : (onStream a1 a2 a3 a4).cores = a1.cores := by
  unfold onStream
  try dsimp only
  (repeat' split) <;> first | rfl | (simp_all; done) | (have hh := State.takeInbox_frame ‹State.takeInbox _ _ = _›; simp_all; done) | (have hh := State.takeInbox_frame ‹State.takeInbox _ _ = _›; simp [hh]; done) | (have hh := State.takeForward_frame ‹State.takeForward _ = _›; simp_all; done) | (have hh := State.takeForward_frame ‹State.takeForward _ = _›; simp [hh]; done) | (have hh := State.takeType_frame ‹State.takeType _ _ = _›; simp_all; done) | (have hh := State.takeType_frame ‹State.takeType _ _ = _›; simp [hh]; done) | (have hh := State.takeReq_frame ‹State.takeReq _ _ = _›; simp_all; done) | (have hh := State.takeReq_frame ‹State.takeReq _ _ = _›; simp [hh]; done) | (have hh := startHub_frame ‹startHub _ _ _ = _›; simp_all; done) | (have hh := startHub_frame ‹startHub _ _ _ = _›; simp [hh]; done) | (have hh := State.takeStream_frame ‹State.takeStream _ _ _ = _›; simp_all; done) | (have hh := State.takeStream_frame ‹State.takeStream _ _ _ = _›; simp [hh]; done)
@[simp] theorem onStream_mem (a1 : State) (a2) (a3) (a4) (ha4 : ∀ y0 y1 y2 y3, (a4 y0 y1 y2 y3).mem = y0.mem) : (onStream a1 a2 a3 a4).mem = a1.mem := by
  unfold onStream
  try dsimp only
  (repeat' split) <;> first | rfl | (simp_all; done) | (have hh := State.takeInbox_frame ‹State.takeInbox _ _ = _›; simp_all; done) | (have hh := State.takeInbox_frame ‹State.takeInbox _ _ = _›; simp [hh]; done) | (have hh := State.takeForward_frame ‹State.takeForward _ = _›; simp_all; done) | (have hh := State.takeForward_frame ‹State.takeForward _ = _›; simp [hh]; done) | (have hh := State.takeType_frame ‹State.takeType _ _ = _›; simp_all; done) | (have hh := State.takeType_frame ‹State.takeType _ _ = _›; simp [hh]; done) | (have hh := State.takeReq_frame ‹State.takeReq _ _ = _›; simp_all; done) | (have hh := State.takeReq_frame ‹State.takeReq _ _ = _›; simp [hh]; done) | (have hh := startHub_frame ‹startHub _ _ _ = _›; simp_all; done) | (have hh := startHub_frame ‹startHub _ _ _ = _›; simp [hh]; done) | (have hh := State.takeStream_frame ‹State.takeStream _ _ _ = _›; simp_all; done) | (have hh := State.takeStream_frame ‹State.takeStream _ _ _ = _›; simp [hh]; done)
@[simp] theorem onStream_pue0 (a1 : State) (a2) (a3) (a4) (ha4 : ∀ y0 y1 y2 y3, (a4 y0 y1 y2 y3).pue0 = y0.pue0) : (onStream a1 a2 a3 a4).pue0 = a1.pue0 := by
  unfold onStream
  try dsimp only
  (repeat' split) <;> first | rfl | (simp_all; done) | (have hh := State.takeInbox_frame ‹State.takeInbox _ _ = _›; simp_all; done) | (have hh := State.takeInbox_frame ‹State.takeInbox _ _ = _›; simp [hh]; done) | (have hh := State.takeForward_frame ‹State.takeForward _ = _›; simp_all; done) | (have hh := State.takeForward_frame ‹State.takeForward _ = _›; simp [hh]; done) | (have hh := State.takeType_frame ‹State.takeType _ _ = _›; simp_all; done) | (have hh := State.takeType_frame ‹State.takeType _ _ = _›; simp [hh]; done) | (have hh := State.takeReq_frame ‹State.takeReq _ _ = _›; simp_all; done) | (have hh := State.takeReq_frame ‹State.takeReq _ _ = _›; simp [hh]; done) | (have hh := startHub_frame ‹startHub _ _ _ = _›; simp_all; done) | (have hh := startHub_frame ‹startHub _ _ _ = _›; simp [hh]; done) | (have hh := State.takeStream_frame ‹State.takeStream _ _ _ = _›; simp_all; done) | (have hh := State.takeStream_frame ‹State.takeStream _ _ _ = _›; simp [hh]; done)
@[simp] theorem onStream_pue1 (a1 : State) (a2) (a3) (a4) (ha4 : ∀ y0 y1 y2 y3, (a4 y0 y1 y2 y3).pue1 = y0.pue1) : (onStream a1 a2 a3 a4).pue1 = a1.pue1 := by
  unfold onStream
  try dsimp only
  (repeat' split) <;> first | rfl | (simp_all; done) | (have hh := State.takeInbox_frame ‹State.takeInbox _ _ = _›; simp_all; done) | (have hh := State.takeInbox_frame ‹State.takeInbox _ _ = _›; simp [hh]; done) | (have hh := State.takeForward_frame ‹State.takeForward _ = _›; simp_all; done) | (have hh := State.takeForward_frame ‹State.takeForward _ = _›; simp [hh]; done) | (have hh := State.takeType_frame ‹State.takeType _ _ = _›; simp_all; done) | (have hh := State.takeType_frame ‹State.takeType _ _ = _›; simp [hh]; done) | (have hh := State.takeReq_frame ‹State.takeReq _ _ = _›; simp_all; done) | (have hh := State.takeReq_frame ‹State.takeReq _ _ = _›; simp [hh]; done) | (have hh := startHub_frame ‹startHub _ _ _ = _›; simp_all; done) | (have hh := startHub_frame ‹startHub _ _ _ = _›; simp [hh]; done) | (have hh := State.takeStream_frame ‹State.takeStream _ _ _ = _›; simp_all; done) | (have hh := State.takeStream_frame ‹State.takeStream _ _ _ = _›; simp [hh]; done)
@[simp] theorem onStream_cke (a1 : State) (a2) (a3) (a4) (ha4 : ∀ y0 y1 y2 y3, (a4 y0 y1 y2 y3).cke = y0.cke) : (onStream a1 a2 a3 a4).cke = a1.cke := by
  unfold onStream
  try dsimp only
  (repeat' split) <;> first | rfl | (simp_all; done) | (have hh := State.takeInbox_frame ‹State.takeInbox _ _ = _›; simp_all; done) | (have hh := State.takeInbox_frame ‹State.takeInbox _ _ = _›; simp [hh]; done) | (have hh := State.takeForward_frame ‹State.takeForward _ = _›; simp_all; done) | (have hh := State.takeForward_frame ‹State.takeForward _ = _›; simp [hh]; done) | (have hh := State.takeType_frame ‹State.takeType _ _ = _›; simp_all; done) | (have hh := State.takeType_frame ‹State.takeType _ _ = _›; simp [hh]; done) | (have hh := State.takeReq_frame ‹State.takeReq _ _ = _›; simp_all; done) | (have hh := State.takeReq_frame ‹State.takeReq _ _ = _›; simp [hh]; done) | (have hh := startHub_frame ‹startHub _ _ _ = _›; simp_all; done) | (have hh := startHub_frame ‹startHub _ _ _ = _›; simp [hh]; done) | (have hh := State.takeStream_frame ‹State.takeStream _ _ _ = _›; simp_all; done) | (have hh := State.takeStream_frame ‹State.takeStream _ _ _ = _›; simp [hh]; done)
@[simp] theorem onStream_pwr (a1 : State) (a2) (a3) (a4) (ha4 : ∀ y0 y1 y2 y3, (a4 y0 y1 y2 y3).pwr = y0.pwr) : (onStream a1 a2 a3 a4).pwr = a1.pwr := by
  unfold onStream
  try dsimp only
  (repeat' split) <;> first | rfl | (simp_all; done) | (have hh := State.takeInbox_frame ‹State.takeInbox _ _ = _›; simp_all; done) | (have hh := State.takeInbox_frame ‹State.takeInbox _ _ = _›; simp [hh]; done) | (have hh := State.takeForward_frame ‹State.takeForward _ = _›; simp_all; done) | (have hh := State.takeForward_frame ‹State.takeForward _ = _›; simp [hh]; done) | (have hh := State.takeType_frame ‹State.takeType _ _ = _›; simp_all; done) | (have hh := State.takeType_frame ‹State.takeType _ _ = _›; simp [hh]; done) | (have hh := State.takeReq_frame ‹State.takeReq _ _ = _›; simp_all; done) | (have hh := State.takeReq_frame ‹State.takeReq _ _ = _›; simp [hh]; done) | (have hh := startHub_frame ‹startHub _ _ _ = _›; simp_all; done) | (have hh := startHub_frame ‹startHub _ _ _ = _›; simp [hh]; done) | (have hh := State.takeStream_frame ‹State.takeStream _ _ _ = _›; simp_all; done) | (have hh := State.takeStream_frame ‹State.takeStream _ _ _ = _›; simp [hh]; done)
@[simp] theorem onStream_mss (a1 : State) (a2) (a3) (a4) (ha4 : ∀ y0 y1 y2 y3, (a4 y0 y1 y2 y3).mss = y0.mss) : (onStream a1 a2 a3 a4).mss = a1.mss := by
  unfold onStream
  try dsimp only
  (repeat' split) <;> first | rfl | (simp_all; done) | (have hh := State.takeInbox_frame ‹State.takeInbox _ _ = _›; simp_all; done) | (have hh := State.takeInbox_frame ‹State.takeInbox _ _ = _›; simp [hh]; done) | (have hh := State.takeForward_frame ‹State.takeForward _ = _›; simp_all; done) | (have hh := State.takeForward_frame ‹State.takeForward _ = _›; simp [hh]; done) | (have hh := State.takeType_frame ‹State.takeType _ _ = _›; simp_all; done) | (have hh := State.takeType_frame ‹State.takeType _ _ = _›; simp [hh]; done) | (have hh := State.takeReq_frame ‹State.takeReq _ _ = _›; simp_all; done) | (have hh := State.takeReq_frame ‹State.takeReq _ _ = _›; simp [hh]; done) | (have hh := startHub_frame ‹startHub _ _ _ = _›; simp_all; done) | (have hh := startHub_frame ‹startHub _ _ _ = _›; simp [hh]; done) | (have hh := State.takeStream_frame ‹State.takeStream _ _ _ = _›; simp_all; done) | (have hh := State.takeStream_frame ‹State.takeStream _ _ _ = _›; simp [hh]; done)
@[simp] theorem onStream_fresh (a1 : State) (a2) (a3) (a4) (ha4 : ∀ y0 y1 y2 y3, (a4 y0 y1 y2 y3).fresh = y0.fresh) : (onStream a1 a2 a3 a4).fresh = a1.fresh := by
  unfold onStream
  try dsimp only
  (repeat' split) <;> first | rfl | (simp_all; done) | (have hh := State.takeInbox_frame ‹State.takeInbox _ _ = _›; simp_all; done) | (have hh := State.takeInbox_frame ‹State.takeInbox _ _ = _›; simp [hh]; done) | (have hh := State.takeForward_frame ‹State.takeForward _ = _›; simp_all; done) | (have hh := State.takeForward_frame ‹State.takeForward _ = _›; simp [hh]; done) | (have hh := State.takeType_frame ‹State.takeType _ _ = _›; simp_all; done) | (have hh := State.takeType_frame ‹State.takeType _ _ = _›; simp [hh]; done) | (have hh := State.takeReq_frame ‹State.takeReq _ _ = _›; simp_all; done) | (have hh := State.takeReq_frame ‹State.takeReq _ _ = _›; simp [hh]; done) | (have hh := startHub_frame ‹startHub _ _ _ = _›; simp_all; done) | (have hh := startHub_frame ‹startHub _ _ _ = _›; simp [hh]; done) | (have hh := State.takeStream_frame ‹State.takeStream _ _ _ = _›; simp_all; done) | (have hh := State.takeStream_frame ‹State.takeStream _ _ _ = _›; simp [hh]; done)
@[simp] theorem onStream_routineIds (a1 : State) (a2) (a3) (a4) (ha4 : ∀ y0 y1 y2 y3, (a4 y0 y1 y2 y3).routineIds = y0.routineIds) : (onStream a1 a2 a3 a4).routineIds = a1.routineIds := by
  unfold onStream
  try dsimp only
  (repeat' split) <;> first | rfl | (simp_all; done) | (have hh := State.takeInbox_frame ‹State.takeInbox _ _ = _›; simp_all; done) | (have hh := State.takeInbox_frame ‹State.takeInbox _ _ = _›; simp [hh]; done) | (have hh := State.takeForward_frame ‹State.takeForward _ = _›; simp_all; done) | (have hh := State.takeForward_frame ‹State.takeForward _ = _›; simp [hh]; done) | (have hh := State.takeType_frame ‹State.takeType _ _ = _›; simp_all; done) | (have hh := State.takeType_frame ‹State.takeType _ _ = _›; simp [hh]; done) | (have hh := State.takeReq_frame ‹State.takeReq _ _ = _›; simp_all; done) | (have hh := State.takeReq_frame ‹State.takeReq _ _ = _›; simp [hh]; done) | (have hh := startHub_frame ‹startHub _ _ _ = _›; simp_all; done) | (have hh := startHub_frame ‹startHub _ _ _ = _›; simp [hh]; done) | (have hh := State.takeStream_frame ‹State.takeStream _ _ _ = _›; simp_all; done) | (have hh := State.takeStream_frame ‹State.takeStream _ _ _ = _›; simp [hh]; done)
@[simp] theorem onStream_pending (a1 : State) (a2) (a3) (a4) (ha4 : ∀ y0 y1 y2 y3, (a4 y0 y1 y2 y3).pending = y0.pending) : (onStream a1 a2 a3 a4).pending = a1.pending := by
  unfold onStream
  try dsimp only
  (repeat' split) <;> first | rfl | (simp_all; done) | (have hh := State.takeInbox_frame ‹State.takeInbox _ _ = _›; simp_all; done) | (have hh := State.takeInbox_frame ‹State.takeInbox _ _ = _›; simp [hh]; done) | (have hh := State.takeForward_frame ‹State.takeForward _ = _›; simp_all; done) | (have hh := State.takeForward_frame ‹State.takeForward _ = _›; simp [hh]; done) | (have hh := State.takeType_frame ‹State.takeType _ _ = _›; simp_all; done) | (have hh := State.takeType_frame ‹State.takeType _ _ = _›; simp [hh]; done) | (have hh := State.takeReq_frame ‹State.takeReq _ _ = _›; simp_all; done) | (have hh := State.takeReq_frame ‹State.takeReq _ _ = _›; simp [hh]; done) | (have hh := startHub_frame ‹startHub _ _ _ = _›; simp_all; done) | (have hh := startHub_frame ‹startHub _ _ _ = _›; simp [hh]; done) | (have hh := State.takeStream_frame ‹State.takeStream _ _ _ = _›; simp_all; done) | (have hh := State.takeStream_frame ‹State.takeStream _ _ _ = _›; simp [hh]; done)
@[simp] theorem partAt_frame (a1 : State) (a2) (a3) (a4) : (partAt a1 a2 a3 a4).ident = a1.ident ∧ (partAt a1 a2 a3 a4).nv = a1.nv ∧ (partAt a1 a2 a3 a4).top = a1.top ∧ (partAt a1 a2 a3 a4).cores = a1.cores ∧ (partAt a1 a2 a3 a4).pue0 = a1.pue0 ∧ (partAt a1 a2 a3 a4).pue1 = a1.pue1 ∧ (partAt a1 a2 a3 a4).mss = a1.mss ∧ (partAt a1 a2 a3 a4).routineIds = a1.routineIds ∧ (partAt a1 a2 a3 a4).pending = a1.pending := by
  simp only [partAt]
  repeat' split
  all_goals simp
@[simp] theorem ownerClose_frame (a1 : State) (a2) (a3) (a4) (a5) : (ownerClose a1 a2 a3 a4 a5).ident = a1.ident ∧ (ownerClose a1 a2 a3 a4 a5).nv = a1.nv ∧ (ownerClose a1 a2 a3 a4 a5).top = a1.top ∧ (ownerClose a1 a2 a3 a4 a5).cores = a1.cores ∧ (ownerClose a1 a2 a3 a4 a5).pue0 = a1.pue0 ∧ (ownerClose a1 a2 a3 a4 a5).pue1 = a1.pue1 ∧ (ownerClose a1 a2 a3 a4 a5).mss = a1.mss ∧ (ownerClose a1 a2 a3 a4 a5).routineIds = a1.routineIds ∧ (ownerClose a1 a2 a3 a4 a5).pending = a1.pending := by
  simp only [ownerClose]
  repeat' split
  all_goals simp
@[simp] theorem closeAt_frame (a1 : State) (a2) (a3) (a4) : (closeAt a1 a2 a3 a4).ident = a1.ident ∧ (closeAt a1 a2 a3 a4).nv = a1.nv ∧ (closeAt a1 a2 a3 a4).top = a1.top ∧ (closeAt a1 a2 a3 a4).cores = a1.cores ∧ (closeAt a1 a2 a3 a4).pue0 = a1.pue0 ∧ (closeAt a1 a2 a3 a4).pue1 = a1.pue1 ∧ (closeAt a1 a2 a3 a4).mss = a1.mss ∧ (closeAt a1 a2 a3 a4).routineIds = a1.routineIds ∧ (closeAt a1 a2 a3 a4).pending = a1.pending := by
  simp only [closeAt]
  repeat' split
  all_goals simp
@[simp] theorem onFinal_ident (a1 : State) (a2) (a3) (ha3 : ∀ y0 y1 y2, (a3 y0 y1 y2).ident = y0.ident) : (onFinal a1 a2 a3).ident = a1.ident := by
  unfold onFinal
  try dsimp only
  (repeat' split) <;> first | rfl | (simp_all; done) | (have hh := State.takeInbox_frame ‹State.takeInbox _ _ = _›; simp_all; done) | (have hh := State.takeInbox_frame ‹State.takeInbox _ _ = _›; simp [hh]; done) | (have hh := State.takeForward_frame ‹State.takeForward _ = _›; simp_all; done) | (have hh := State.takeForward_frame ‹State.takeForward _ = _›; simp [hh]; done) | (have hh := State.takeType_frame ‹State.takeType _ _ = _›; simp_all; done) | (have hh := State.takeType_frame ‹State.takeType _ _ = _›; simp [hh]; done) | (have hh := State.takeReq_frame ‹State.takeReq _ _ = _›; simp_all; done) | (have hh := State.takeReq_frame ‹State.takeReq _ _ = _›; simp [hh]; done) | (have hh := startHub_frame ‹startHub _ _ _ = _›; simp_all; done) | (have hh := startHub_frame ‹startHub _ _ _ = _›; simp [hh]; done) | (have hh := State.takeStream_frame ‹State.takeStream _ _ _ = _›; simp_all; done) | (have hh := State.takeStream_frame ‹State.takeStream _ _ _ = _›; simp [hh]; done)
@[simp] theorem onFinal_nv (a1 : State) (a2) (a3) (ha3 : ∀ y0 y1 y2, (a3 y0 y1 y2).nv = y0.nv) : (onFinal a1 a2 a3).nv = a1.nv := by
  unfold onFinal
  try dsimp only
  (repeat' split) <;> first | rfl | (simp_all; done) | (have hh := State.takeInbox_frame ‹State.takeInbox _ _ = _›; simp_all; done) | (have hh := State.takeInbox_frame ‹State.takeInbox _ _ = _›; simp [hh]; done) | (have hh := State.takeForward_frame ‹State.takeForward _ = _›; simp_all; done) | (have hh := State.takeForward_frame ‹State.takeForward _ = _›; simp [hh]; done) | (have hh := State.takeType_frame ‹State.takeType _ _ = _›; simp_all; done) | (have hh := State.takeType_frame ‹State.takeType _ _ = _›; simp [hh]; done) | (have hh := State.takeReq_frame ‹State.takeReq _ _ = _›; simp_all; done) | (have hh := State.takeReq_frame ‹State.takeReq _ _ = _›; simp [hh]; done) | (have hh := startHub_frame ‹startHub _ _ _ = _›; simp_all; done) | (have hh := startHub_frame ‹startHub _ _ _ = _›; simp [hh]; done) | (have hh := State.takeStream_frame ‹State.takeStream _ _ _ = _›; simp_all; done) | (have hh := State.takeStream_frame ‹State.takeStream _ _ _ = _›; simp [hh]; done)
@[simp] theorem onFinal_top (a1 : State) (a2) (a3) (ha3 : ∀ y0 y1 y2, (a3 y0 y1 y2).top = y0.top) : (onFinal a1 a2 a3).top = a1.top := by
  unfold onFinal
  try dsimp only
  (repeat' split) <;> first | rfl | (simp_all; done) | (have hh := State.takeInbox_frame ‹State.takeInbox _ _ = _›; simp_all; done) | (have hh := State.takeInbox_frame ‹State.takeInbox _ _ = _›; simp [hh]; done) | (have hh := State.takeForward_frame ‹State.takeForward _ = _›; simp_all; done) | (have hh := State.takeForward_frame ‹State.takeForward _ = _›; simp [hh]; done) | (have hh := State.takeType_frame ‹State.takeType _ _ = _›; simp_all; done) | (have hh := State.takeType_frame ‹State.takeType _ _ = _›; simp [hh]; done) | (have hh := State.takeReq_frame ‹State.takeReq _ _ = _›; simp_all; done) | (have hh := State.takeReq_frame ‹State.takeReq _ _ = _›; simp [hh]; done) | (have hh := startHub_frame ‹startHub _ _ _ = _›; simp_all; done) | (have hh := startHub_frame ‹startHub _ _ _ = _›; simp [hh]; done) | (have hh := State.takeStream_frame ‹State.takeStream _ _ _ = _›; simp_all; done) | (have hh := State.takeStream_frame ‹State.takeStream _ _ _ = _›; simp [hh]; done)
@[simp] theorem onFinal_cores (a1 : State) (a2) (a3) (ha3 : ∀ y0 y1 y2, (a3 y0 y1 y2).cores = y0.cores) : (onFinal a1 a2 a3).cores = a1.cores := by
  unfold onFinal
  try dsimp only
  (repeat' split) <;> first | rfl | (simp_all; done) | (have hh := State.takeInbox_frame ‹State.takeInbox _ _ = _›; simp_all; done) | (have hh := State.takeInbox_frame ‹State.takeInbox _ _ = _›; simp [hh]; done) | (have hh := State.takeForward_frame ‹State.takeForward _ = _›; simp_all; done) | (have hh := State.takeForward_frame ‹State.takeForward _ = _›; simp [hh]; done) | (have hh := State.takeType_frame ‹State.takeType _ _ = _›; simp_all; done) | (have hh := State.takeType_frame ‹State.takeType _ _ = _›; simp [hh]; done) | (have hh := State.takeReq_frame ‹State.takeReq _ _ = _›; simp_all; done) | (have hh := State.takeReq_frame ‹State.takeReq _ _ = _›; simp [hh]; done) | (have hh := startHub_frame ‹startHub _ _ _ = _›; simp_all; done) | (have hh := startHub_frame ‹startHub _ _ _ = _›; simp [hh]; done) | (have hh := State.takeStream_frame ‹State.takeStream _ _ _ = _›; simp_all; done) | (have hh := State.takeStream_frame ‹State.takeStream _ _ _ = _›; simp [hh]; done)
@[simp] theorem onFinal_hub (a1 : State) (a2) (a3) (ha3 : ∀ y0 y1 y2, (a3 y0 y1 y2).hub = y0.hub) : (onFinal a1 a2 a3).hub = a1.hub := by
  unfold onFinal
  try dsimp only
  (repeat' split) <;> first | rfl | (simp_all; done) | (have hh := State.takeInbox_frame ‹State.takeInbox _ _ = _›; simp_all; done) | (have hh := State.takeInbox_frame ‹State.takeInbox _ _ = _›; simp [hh]; done) | (have hh := State.takeForward_frame ‹State.takeForward _ = _›; simp_all; done) | (have hh := State.takeForward_frame ‹State.takeForward _ = _›; simp [hh]; done) | (have hh := State.takeType_frame ‹State.takeType _ _ = _›; simp_all; done) | (have hh := State.takeType_frame ‹State.takeType _ _ = _›; simp [hh]; done) | (have hh := State.takeReq_frame ‹State.takeReq _ _ = _›; simp_all; done) | (have hh := State.takeReq_frame ‹State.takeReq _ _ = _›; simp [hh]; done) | (have hh := startHub_frame ‹startHub _ _ _ = _›; simp_all; done) | (have hh := startHub_frame ‹startHub _ _ _ = _›; simp [hh]; done) | (have hh := State.takeStream_frame ‹State.takeStream _ _ _ = _›; simp_all; done) | (have hh := State.takeStream_frame ‹State.takeStream _ _ _ = _›; simp [hh]; done)
@[simp] theorem onFinal_err (a1 : State) (a2) (a3) (ha3 : ∀ y0 y1 y2, (a3 y0 y1 y2).err = y0.err) : (onFinal a1 a2 a3).err = a1.err := by
  unfold onFinal
  try dsimp only
  (repeat' split) <;> first | rfl | (simp_all; done) | (have hh := State.takeInbox_frame ‹State.takeInbox _ _ = _›; simp_all; done) | (have hh := State.takeInbox_frame ‹State.takeInbox _ _ = _›; simp [hh]; done) | (have hh := State.takeForward_frame ‹State.takeForward _ = _›; simp_all; done) | (have hh := State.takeForward_frame ‹State.takeForward _ = _›; simp [hh]; done) | (have hh := State.takeType_frame ‹State.takeType _ _ = _›; simp_all; done) | (have hh := State.takeType_frame ‹State.takeType _ _ = _›; simp [hh]; done) | (have hh := State.takeReq_frame ‹State.takeReq _ _ = _›; simp_all; done) | (have hh := State.takeReq_frame ‹State.takeReq _ _ = _›; simp [hh]; done) | (have hh := startHub_frame ‹startHub _ _ _ = _›; simp_all; done) | (have hh := startHub_frame ‹startHub _ _ _ = _›; simp [hh]; done) | (have hh := State.takeStream_frame ‹State.takeStream _ _ _ = _›; simp_all; done) | (have hh := State.takeStream_frame ‹State.takeStream _ _ _ = _›; simp [hh]; done)
@[simp] theorem onFinal_mem (a1 : State) (a2) (a3) (ha3 : ∀ y0 y1 y2, (a3 y0 y1 y2).mem = y0.mem) : (onFinal a1 a2 a3).mem = a1.mem := by
  unfold onFinal
  try dsimp only
  (repeat' split) <;> first | rfl | (simp_all; done) | (have hh := State.takeInbox_frame ‹State.takeInbox _ _ = _›; simp_all; done) | (have hh := State.takeInbox_frame ‹State.takeInbox _ _ = _›; simp [hh]; done) | (have hh := State.takeForward_frame ‹State.takeForward _ = _›; simp_all; done) | (have hh := State.takeForward_frame ‹State.takeForward _ = _›; simp [hh]; done) | (have hh := State.takeType_frame ‹State.takeType _ _ = _›; simp_all; done) | (have hh := State.takeType_frame ‹State.takeType _ _ = _›; simp [hh]; done) | (have hh := State.takeReq_frame ‹State.takeReq _ _ = _›; simp_all; done) | (have hh := State.takeReq_frame ‹State.takeReq _ _ = _›; simp [hh]; done) | (have hh := startHub_frame ‹startHub _ _ _ = _›; simp_all; done) | (have hh := startHub_frame ‹startHub _ _ _ = _›; simp [hh]; done) | (have hh := State.takeStream_frame ‹State.takeStream _ _ _ = _›; simp_all; done) | (have hh := State.takeStream_frame ‹State.takeStream _ _ _ = _›; simp [hh]; done)
@[simp] theorem onFinal_cle (a1 : State) (a2) (a3) (ha3 : ∀ y0 y1 y2, (a3 y0 y1 y2).cle = y0.cle) : (onFinal a1 a2 a3).cle = a1.cle := by
  unfold onFinal
  try dsimp only
  (repeat' split) <;> first | rfl | (simp_all; done) | (have hh := State.takeInbox_frame ‹State.takeInbox _ _ = _›; simp_all; done) | (have hh := State.takeInbox_frame ‹State.takeInbox _ _ = _›; simp [hh]; done) | (have hh := State.takeForward_frame ‹State.takeForward _ = _›; simp_all; done) | (have hh := State.takeForward_frame ‹State.takeForward _ = _›; simp [hh]; done) | (have hh := State.takeType_frame ‹State.takeType _ _ = _›; simp_all; done) | (have hh := State.takeType_frame ‹State.takeType _ _ = _›; simp [hh]; done) | (have hh := State.takeReq_frame ‹State.takeReq _ _ = _›; simp_all; done) | (have hh := State.takeReq_frame ‹State.takeReq _ _ = _›; simp [hh]; done) | (have hh := startHub_frame ‹startHub _ _ _ = _›; simp_all; done) | (have hh := startHub_frame ‹startHub _ _ _ = _›; simp [hh]; done) | (have hh := State.takeStream_frame ‹State.takeStream _ _ _ = _›; simp_all; done) | (have hh := State.takeStream_frame ‹State.takeStream _ _ _ = _›; simp [hh]; done)
@[simp] theorem onFinal_pue0 (a1 : State) (a2) (a3) (ha3 : ∀ y0 y1 y2, (a3 y0 y1 y2).pue0 = y0.pue0) : (onFinal a1 a2 a3).pue0 = a1.pue0 := by
  unfold onFinal
  try dsimp only
  (repeat' split) <;> first | rfl | (simp_all; done) | (have hh := State.takeInbox_frame ‹State.takeInbox _ _ = _›; simp_all; done) | (have hh := State.takeInbox_frame ‹State.takeInbox _ _ = _›; simp [hh]; done) | (have hh := State.takeForward_frame ‹State.takeForward _ = _›; simp_all; done) | (have hh := State.takeForward_frame ‹State.takeForward _ = _›; simp [hh]; done) | (have hh := State.takeType_frame ‹State.takeType _ _ = _›; simp_all; done) | (have hh := State.takeType_frame ‹State.takeType _ _ = _›; simp [hh]; done) | (have hh := State.takeReq_frame ‹State.takeReq _ _ = _›; simp_all; done) | (have hh := State.takeReq_frame ‹State.takeReq _ _ = _›; simp [hh]; done) | (have hh := startHub_frame ‹startHub _ _ _ = _›; simp_all; done) | (have hh := startHub_frame ‹startHub _ _ _ = _›; simp [hh]; done) | (have hh := State.takeStream_frame ‹State.takeStream _ _ _ = _›; simp_all; done) | (have hh := State.takeStream_frame ‹State.takeStream _ _ _ = _›; simp [hh]; done)
@[simp] theorem onFinal_pue1 (a1 : State) (a2) (a3) (ha3 : ∀ y0 y1 y2, (a3 y0 y1 y2).pue1 = y0.pue1) : (onFinal a1 a2 a3).pue1 = a1.pue1 := by
  unfold onFinal
  try dsimp only
  (repeat' split) <;> first | rfl | (simp_all; done) | (have hh := State.takeInbox_frame ‹State.takeInbox _ _ = _›; simp_all; done) | (have hh := State.takeInbox_frame ‹State.takeInbox _ _ = _›; simp [hh]; done) | (have hh := State.takeForward_frame ‹State.takeForward _ = _›; simp_all; done) | (have hh := State.takeForward_frame ‹State.takeForward _ = _›; simp [hh]; done) | (have hh := State.takeType_frame ‹State.takeType _ _ = _›; simp_all; done) | (have hh := State.takeType_frame ‹State.takeType _ _ = _›; simp [hh]; done) | (have hh := State.takeReq_frame ‹State.takeReq _ _ = _›; simp_all; done) | (have hh := State.takeReq_frame ‹State.takeReq _ _ = _›; simp [hh]; done) | (have hh := startHub_frame ‹startHub _ _ _ = _›; simp_all; done) | (have hh := startHub_frame ‹startHub _ _ _ = _›; simp [hh]; done) | (have hh := State.takeStream_frame ‹State.takeStream _ _ _ = _›; simp_all; done) | (have hh := State.takeStream_frame ‹State.takeStream _ _ _ = _›; simp [hh]; done)
@[simp] theorem onFinal_cke (a1 : State) (a2) (a3) (ha3 : ∀ y0 y1 y2, (a3 y0 y1 y2).cke = y0.cke) : (onFinal a1 a2 a3).cke = a1.cke := by
  unfold onFinal
  try dsimp only
  (repeat' split) <;> first | rfl | (simp_all; done) | (have hh := State.takeInbox_frame ‹State.takeInbox _ _ = _›; simp_all; done) | (have hh := State.takeInbox_frame ‹State.takeInbox _ _ = _›; simp [hh]; done) | (have hh := State.takeForward_frame ‹State.takeForward _ = _›; simp_all; done) | (have hh := State.takeForward_frame ‹State.takeForward _ = _›; simp [hh]; done) | (have hh := State.takeType_frame ‹State.takeType _ _ = _›; simp_all; done) | (have hh := State.takeType_frame ‹State.takeType _ _ = _›; simp [hh]; done) | (have hh := State.takeReq_frame ‹State.takeReq _ _ = _›; simp_all; done) | (have hh := State.takeReq_frame ‹State.takeReq _ _ = _›; simp [hh]; done) | (have hh := startHub_frame ‹startHub _ _ _ = _›; simp_all; done) | (have hh := startHub_frame ‹startHub _ _ _ = _›; simp [hh]; done) | (have hh := State.takeStream_frame ‹State.takeStream _ _ _ = _›; simp_all; done) | (have hh := State.takeStream_frame ‹State.takeStream _ _ _ = _›; simp [hh]; done)
@[simp] theorem onFinal_pwr (a1 : State) (a2) (a3) (ha3 : ∀ y0 y1 y2, (a3 y0 y1 y2).pwr = y0.pwr) : (onFinal a1 a2 a3).pwr = a1.pwr := by
  unfold onFinal
  try dsimp only
  (repeat' split) <;> first | rfl | (simp_all; done) | (have hh := State.takeInbox_frame ‹State.takeInbox _ _ = _›; simp_all; done) | (have hh := State.takeInbox_frame ‹State.takeInbox _ _ = _›; simp [hh]; done) | (have hh := State.takeForward_frame ‹State.takeForward _ = _›; simp_all; done) | (have hh := State.takeForward_frame ‹State.takeForward _ = _›; simp [hh]; done) | (have hh := State.takeType_frame ‹State.takeType _ _ = _›; simp_all; done) | (have hh := State.takeType_frame ‹State.takeType _ _ = _›; simp [hh]; done) | (have hh := State.takeReq_frame ‹State.takeReq _ _ = _›; simp_all; done) | (have hh := State.takeReq_frame ‹State.takeReq _ _ = _›; simp [hh]; done) | (have hh := startHub_frame ‹startHub _ _ _ = _›; simp_all; done) | (have hh := startHub_frame ‹startHub _ _ _ = _›; simp [hh]; done) | (have hh := State.takeStream_frame ‹State.takeStream _ _ _ = _›; simp_all; done) | (have hh := State.takeStream_frame ‹State.takeStream _ _ _ = _›; simp [hh]; done)
@[simp] theorem onFinal_pmu (a1 : State) (a2) (a3) (ha3 : ∀ y0 y1 y2, (a3 y0 y1 y2).pmu = y0.pmu) : (onFinal a1 a2 a3).pmu = a1.pmu := by
  unfold onFinal
  try dsimp only
  (repeat' split) <;> first | rfl | (simp_all; done) | (have hh := State.takeInbox_frame ‹State.takeInbox _ _ = _›; simp_all; done) | (have hh := State.takeInbox_frame ‹State.takeInbox _ _ = _›; simp [hh]; done) | (have hh := State.takeForward_frame ‹State.takeForward _ = _›; simp_all; done) | (have hh := State.takeForward_frame ‹State.takeForward _ = _›; simp [hh]; done) | (have hh := State.takeType_frame ‹State.takeType _ _ = _›; simp_all; done) | (have hh := State.takeType_frame ‹State.takeType _ _ = _›; simp [hh]; done) | (have hh := State.takeReq_frame ‹State.takeReq _ _ = _›; simp_all; done) | (have hh := State.takeReq_frame ‹State.takeReq _ _ = _›; simp [hh]; done) | (have hh := startHub_frame ‹startHub _ _ _ = _›; simp_all; done) | (have hh := startHub_frame ‹startHub _ _ _ = _›; simp [hh]; done) | (have hh := State.takeStream_frame ‹State.takeStream _ _ _ = _›; simp_all; done) | (have hh := State.takeStream_frame ‹State.takeStream _ _ _ = _›; simp [hh]; done)
@[simp] theorem onFinal_mss (a1 : State) (a2) (a3) (ha3 : ∀ y0 y1 y2, (a3 y0 y1 y2).mss = y0.mss) : (onFinal a1 a2 a3).mss = a1.mss := by
  unfold onFinal
  try dsimp only
  (repeat' split) <;> first | rfl | (simp_all; done) | (have hh := State.takeInbox_frame ‹State.takeInbox _ _ = _›; simp_all; done) | (have hh := State.takeInbox_frame ‹State.takeInbox _ _ = _›; simp [hh]; done) | (have hh := State.takeForward_frame ‹State.takeForward _ = _›; simp_all; done) | (have hh := State.takeForward_frame ‹State.takeForward _ = _›; simp [hh]; done) | (have hh := State.takeType_frame ‹State.takeType _ _ = _›; simp_all; done) | (have hh := State.takeType_frame ‹State.takeType _ _ = _›; simp [hh]; done) | (have hh := State.takeReq_frame ‹State.takeReq _ _ = _›; simp_all; done) | (have hh := State.takeReq_frame ‹State.takeReq _ _ = _›; simp [hh]; done) | (have hh := startHub_frame ‹startHub _ _ _ = _›; simp_all; done) | (have hh := startHub_frame ‹startHub _ _ _ = _›; simp [hh]; done) | (have hh := State.takeStream_frame ‹State.takeStream _ _ _ = _›; simp_all; done) | (have hh := State.takeStream_frame ‹State.takeStream _ _ _ = _›; simp [hh]; done)
@[simp] theorem onFinal_fresh (a1 : State) (a2) (a3) (ha3 : ∀ y0 y1 y2, (a3 y0 y1 y2).fresh = y0.fresh) : (onFinal a1 a2 a3).fresh = a1.fresh := by
  unfold onFinal
  try dsimp only
  (repeat' split) <;> first | rfl | (simp_all; done) | (have hh := State.takeInbox_frame ‹State.takeInbox _ _ = _›; simp_all; done) | (have hh := State.takeInbox_frame ‹State.takeInbox _ _ = _›; simp [hh]; done) | (have hh := State.takeForward_frame ‹State.takeForward _ = _›; simp_all; done) | (have hh := State.takeForward_frame ‹State.takeForward _ = _›; simp [hh]; done) | (have hh := State.takeType_frame ‹State.takeType _ _ = _›; simp_all; done) | (have hh := State.takeType_frame ‹State.takeType _ _ = _›; simp [hh]; done) | (have hh := State.takeReq_frame ‹State.takeReq _ _ = _›; simp_all; done) | (have hh := State.takeReq_frame ‹State.takeReq _ _ = _›; simp [hh]; done) | (have hh := startHub_frame ‹startHub _ _ _ = _›; simp_all; done) | (have hh := startHub_frame ‹startHub _ _ _ = _›; simp [hh]; done) | (have hh := State.takeStream_frame ‹State.takeStream _ _ _ = _›; simp_all; done) | (have hh := State.takeStream_frame ‹State.takeStream _ _ _ = _›; simp [hh]; done)
@[simp] theorem onFinal_routineIds (a1 : State) (a2) (a3) (ha3 : ∀ y0 y1 y2, (a3 y0 y1 y2).routineIds = y0.routineIds) : (onFinal a1 a2 a3).routineIds = a1.routineIds := by
  unfold onFinal
  try dsimp only
  (repeat' split) <;> first | rfl | (simp_all; done) | (have hh := State.takeInbox_frame ‹State.takeInbox _ _ = _›; simp_all; done) | (have hh := State.takeInbox_frame ‹State.takeInbox _ _ = _›; simp [hh]; done) | (have hh := State.takeForward_frame ‹State.takeForward _ = _›; simp_all; done) | (have hh := State.takeForward_frame ‹State.takeForward _ = _›; simp [hh]; done) | (have hh := State.takeType_frame ‹State.takeType _ _ = _›; simp_all; done) | (have hh := State.takeType_frame ‹State.takeType _ _ = _›; simp [hh]; done) | (have hh := State.takeReq_frame ‹State.takeReq _ _ = _›; simp_all; done) | (have hh := State.takeReq_frame ‹State.takeReq _ _ = _›; simp [hh]; done) | (have hh := startHub_frame ‹startHub _ _ _ = _›; simp_all; done) | (have hh := startHub_frame ‹startHub _ _ _ = _›; simp [hh]; done) | (have hh := State.takeStream_frame ‹State.takeStream _ _ _ = _›; simp_all; done) | (have hh := State.takeStream_frame ‹State.takeStream _ _ _ = _›; simp [hh]; done)
@[simp] theorem onFinal_pending (a1 : State) (a2) (a3) (ha3 : ∀ y0 y1 y2, (a3 y0 y1 y2).pending = y0.pending) : (onFinal a1 a2 a3).pending = a1.pending := by
  unfold onFinal
  try dsimp only
  (repeat' split) <;> first | rfl | (simp_all; done) | (have hh := State.takeInbox_frame ‹State.takeInbox _ _ = _›; simp_all; done) | (have hh := State.takeInbox_frame ‹State.takeInbox _ _ = _›; simp [hh]; done) | (have hh := State.takeForward_frame ‹State.takeForward _ = _›; simp_all; done) | (have hh := State.takeForward_frame ‹State.takeForward _ = _›; simp [hh]; done) | (have hh := State.takeType_frame ‹State.takeType _ _ = _›; simp_all; done) | (have hh := State.takeType_frame ‹State.takeType _ _ = _›; simp [hh]; done) | (have hh := State.takeReq_frame ‹State.takeReq _ _ = _›; simp_all; done) | (have hh := State.takeReq_frame ‹State.takeReq _ _ = _›; simp [hh]; done) | (have hh := startHub_frame ‹startHub _ _ _ = _›; simp_all; done) | (have hh := startHub_frame ‹startHub _ _ _ = _›; simp [hh]; done) | (have hh := State.takeStream_frame ‹State.takeStream _ _ _ = _›; simp_all; done) | (have hh := State.takeStream_frame ‹State.takeStream _ _ _ = _›; simp [hh]; done)
@[simp] theorem finalAt_frame (a1 : State) (a2) (a3) : (finalAt a1 a2 a3).ident = a1.ident ∧ (finalAt a1 a2 a3).nv = a1.nv ∧ (finalAt a1 a2 a3).top = a1.top ∧ (finalAt a1 a2 a3).cores = a1.cores ∧ (finalAt a1 a2 a3).pue0 = a1.pue0 ∧ (finalAt a1 a2 a3).pue1 = a1.pue1 ∧ (finalAt a1 a2 a3).fab = a1.fab ∧ (finalAt a1 a2 a3).mss = a1.mss ∧ (finalAt a1 a2 a3).routineIds = a1.routineIds ∧ (finalAt a1 a2 a3).pending = a1.pending := by
  simp [finalAt]
@[simp] theorem State.settleStaged_frame (a1 : State) : (State.settleStaged a1).ident = a1.ident ∧ (State.settleStaged a1).nv = a1.nv ∧ (State.settleStaged a1).top = a1.top ∧ (State.settleStaged a1).cores = a1.cores ∧ (State.settleStaged a1).err = a1.err ∧ (State.settleStaged a1).mem = a1.mem ∧ (State.settleStaged a1).pue0 = a1.pue0 ∧ (State.settleStaged a1).pue1 = a1.pue1 ∧ (State.settleStaged a1).cke = a1.cke ∧ (State.settleStaged a1).pwr = a1.pwr ∧ (State.settleStaged a1).fab = a1.fab ∧ (State.settleStaged a1).mss = a1.mss ∧ (State.settleStaged a1).fresh = a1.fresh ∧ (State.settleStaged a1).routineIds = a1.routineIds ∧ (State.settleStaged a1).pending = a1.pending := by
  simp [State.settleStaged]
@[simp] theorem State.markStaged_frame (a1 : State) (a2) (a3) : (State.markStaged a1 a2 a3).ident = a1.ident ∧ (State.markStaged a1 a2 a3).nv = a1.nv ∧ (State.markStaged a1 a2 a3).top = a1.top ∧ (State.markStaged a1 a2 a3).cores = a1.cores ∧ (State.markStaged a1 a2 a3).err = a1.err ∧ (State.markStaged a1 a2 a3).mem = a1.mem ∧ (State.markStaged a1 a2 a3).pue0 = a1.pue0 ∧ (State.markStaged a1 a2 a3).pue1 = a1.pue1 ∧ (State.markStaged a1 a2 a3).cke = a1.cke ∧ (State.markStaged a1 a2 a3).pwr = a1.pwr ∧ (State.markStaged a1 a2 a3).fab = a1.fab ∧ (State.markStaged a1 a2 a3).mss = a1.mss ∧ (State.markStaged a1 a2 a3).fresh = a1.fresh ∧ (State.markStaged a1 a2 a3).routineIds = a1.routineIds ∧ (State.markStaged a1 a2 a3).pending = a1.pending := by
  simp [State.markStaged]
@[simp] theorem State.sendGather_frame (a1 : State) (a2) (a3) (a4) (a5) (a6) : (State.sendGather a1 a2 a3 a4 a5 a6).ident = a1.ident ∧ (State.sendGather a1 a2 a3 a4 a5 a6).nv = a1.nv ∧ (State.sendGather a1 a2 a3 a4 a5 a6).top = a1.top ∧ (State.sendGather a1 a2 a3 a4 a5 a6).cores = a1.cores ∧ (State.sendGather a1 a2 a3 a4 a5 a6).pue0 = a1.pue0 ∧ (State.sendGather a1 a2 a3 a4 a5 a6).pue1 = a1.pue1 ∧ (State.sendGather a1 a2 a3 a4 a5 a6).mss = a1.mss ∧ (State.sendGather a1 a2 a3 a4 a5 a6).routineIds = a1.routineIds ∧ (State.sendGather a1 a2 a3 a4 a5 a6).pending = a1.pending := by
  simp only [State.sendGather]
  repeat' split
  all_goals simp
@[simp] theorem State.gatherShard_frame (a1 : State) (a2) (a3) : (State.gatherShard a1 a2 a3).ident = a1.ident ∧ (State.gatherShard a1 a2 a3).nv = a1.nv ∧ (State.gatherShard a1 a2 a3).top = a1.top ∧ (State.gatherShard a1 a2 a3).cores = a1.cores ∧ (State.gatherShard a1 a2 a3).pue0 = a1.pue0 ∧ (State.gatherShard a1 a2 a3).pue1 = a1.pue1 ∧ (State.gatherShard a1 a2 a3).mss = a1.mss ∧ (State.gatherShard a1 a2 a3).routineIds = a1.routineIds ∧ (State.gatherShard a1 a2 a3).pending = a1.pending := by
  simp only [State.gatherShard]
  repeat' split
  all_goals simp
@[simp] theorem forwardGather_frame (a1 : State) (a2) (a3) (a4) (a5) : (forwardGather a1 a2 a3 a4 a5).ident = a1.ident ∧ (forwardGather a1 a2 a3 a4 a5).nv = a1.nv ∧ (forwardGather a1 a2 a3 a4 a5).top = a1.top ∧ (forwardGather a1 a2 a3 a4 a5).cores = a1.cores ∧ (forwardGather a1 a2 a3 a4 a5).mem = a1.mem ∧ (forwardGather a1 a2 a3 a4 a5).pue0 = a1.pue0 ∧ (forwardGather a1 a2 a3 a4 a5).pue1 = a1.pue1 ∧ (forwardGather a1 a2 a3 a4 a5).cke = a1.cke ∧ (forwardGather a1 a2 a3 a4 a5).pwr = a1.pwr ∧ (forwardGather a1 a2 a3 a4 a5).mss = a1.mss ∧ (forwardGather a1 a2 a3 a4 a5).fresh = a1.fresh ∧ (forwardGather a1 a2 a3 a4 a5).routineIds = a1.routineIds ∧ (forwardGather a1 a2 a3 a4 a5).pending = a1.pending := by
  simp only [forwardGather]
  repeat' split
  all_goals simp
@[simp] theorem gatherAt_frame (a1 : State) (a2) (a3) (a4) : (gatherAt a1 a2 a3 a4).ident = a1.ident ∧ (gatherAt a1 a2 a3 a4).nv = a1.nv ∧ (gatherAt a1 a2 a3 a4).top = a1.top ∧ (gatherAt a1 a2 a3 a4).cores = a1.cores ∧ (gatherAt a1 a2 a3 a4).pue0 = a1.pue0 ∧ (gatherAt a1 a2 a3 a4).pue1 = a1.pue1 ∧ (gatherAt a1 a2 a3 a4).cke = a1.cke ∧ (gatherAt a1 a2 a3 a4).mss = a1.mss ∧ (gatherAt a1 a2 a3 a4).routineIds = a1.routineIds ∧ (gatherAt a1 a2 a3 a4).pending = a1.pending := by
  simp only [gatherAt]
  repeat' split
  all_goals simp
@[simp] theorem State.dropStream_frame (a1 : State) (a2) : (State.dropStream a1 a2).ident = a1.ident ∧ (State.dropStream a1 a2).nv = a1.nv ∧ (State.dropStream a1 a2).top = a1.top ∧ (State.dropStream a1 a2).cores = a1.cores ∧ (State.dropStream a1 a2).hub = a1.hub ∧ (State.dropStream a1 a2).err = a1.err ∧ (State.dropStream a1 a2).mem = a1.mem ∧ (State.dropStream a1 a2).cle = a1.cle ∧ (State.dropStream a1 a2).pue0 = a1.pue0 ∧ (State.dropStream a1 a2).pue1 = a1.pue1 ∧ (State.dropStream a1 a2).cke = a1.cke ∧ (State.dropStream a1 a2).pwr = a1.pwr ∧ (State.dropStream a1 a2).pmu = a1.pmu ∧ (State.dropStream a1 a2).mss = a1.mss ∧ (State.dropStream a1 a2).sent = a1.sent ∧ (State.dropStream a1 a2).fresh = a1.fresh ∧ (State.dropStream a1 a2).routineIds = a1.routineIds ∧ (State.dropStream a1 a2).pending = a1.pending := by
  simp only [State.dropStream]
  repeat' split
  all_goals simp
@[simp] theorem State.closeExchange_frame (a1 : State) (a2) (a3) : (State.closeExchange a1 a2 a3).ident = a1.ident ∧ (State.closeExchange a1 a2 a3).nv = a1.nv ∧ (State.closeExchange a1 a2 a3).top = a1.top ∧ (State.closeExchange a1 a2 a3).cores = a1.cores ∧ (State.closeExchange a1 a2 a3).pue0 = a1.pue0 ∧ (State.closeExchange a1 a2 a3).pue1 = a1.pue1 ∧ (State.closeExchange a1 a2 a3).fab = a1.fab ∧ (State.closeExchange a1 a2 a3).mss = a1.mss ∧ (State.closeExchange a1 a2 a3).routineIds = a1.routineIds ∧ (State.closeExchange a1 a2 a3).pending = a1.pending := by
  simp [State.closeExchange]
@[simp] theorem finishSr_frame (a1 : State) (a2) (a3) : (finishSr a1 a2 a3).ident = a1.ident ∧ (finishSr a1 a2 a3).nv = a1.nv ∧ (finishSr a1 a2 a3).top = a1.top ∧ (finishSr a1 a2 a3).hub = a1.hub ∧ (finishSr a1 a2 a3).err = a1.err ∧ (finishSr a1 a2 a3).mem = a1.mem ∧ (finishSr a1 a2 a3).pue0 = a1.pue0 ∧ (finishSr a1 a2 a3).pue1 = a1.pue1 ∧ (finishSr a1 a2 a3).cke = a1.cke ∧ (finishSr a1 a2 a3).pwr = a1.pwr ∧ (finishSr a1 a2 a3).fab = a1.fab ∧ (finishSr a1 a2 a3).pmu = a1.pmu ∧ (finishSr a1 a2 a3).mss = a1.mss ∧ (finishSr a1 a2 a3).sent = a1.sent ∧ (finishSr a1 a2 a3).fresh = a1.fresh ∧ (finishSr a1 a2 a3).routineIds = a1.routineIds ∧ (finishSr a1 a2 a3).pending = a1.pending := by
  simp [finishSr]
@[simp] theorem settleSrOne_frame (a1 : State) (a2) : (settleSrOne a1 a2).ident = a1.ident ∧ (settleSrOne a1 a2).nv = a1.nv ∧ (settleSrOne a1 a2).top = a1.top ∧ (settleSrOne a1 a2).hub = a1.hub ∧ (settleSrOne a1 a2).err = a1.err ∧ (settleSrOne a1 a2).mem = a1.mem ∧ (settleSrOne a1 a2).pue0 = a1.pue0 ∧ (settleSrOne a1 a2).pue1 = a1.pue1 ∧ (settleSrOne a1 a2).cke = a1.cke ∧ (settleSrOne a1 a2).pwr = a1.pwr ∧ (settleSrOne a1 a2).fab = a1.fab ∧ (settleSrOne a1 a2).pmu = a1.pmu ∧ (settleSrOne a1 a2).mss = a1.mss ∧ (settleSrOne a1 a2).sent = a1.sent ∧ (settleSrOne a1 a2).fresh = a1.fresh ∧ (settleSrOne a1 a2).routineIds = a1.routineIds ∧ (settleSrOne a1 a2).pending = a1.pending := by
  simp only [settleSrOne]
  repeat' split
  all_goals simp
@[simp] theorem settleSr_frame (a1 : State) : (settleSr a1).ident = a1.ident ∧ (settleSr a1).nv = a1.nv ∧ (settleSr a1).top = a1.top ∧ (settleSr a1).hub = a1.hub ∧ (settleSr a1).err = a1.err ∧ (settleSr a1).mem = a1.mem ∧ (settleSr a1).pue0 = a1.pue0 ∧ (settleSr a1).pue1 = a1.pue1 ∧ (settleSr a1).cke = a1.cke ∧ (settleSr a1).pwr = a1.pwr ∧ (settleSr a1).fab = a1.fab ∧ (settleSr a1).pmu = a1.pmu ∧ (settleSr a1).mss = a1.mss ∧ (settleSr a1).sent = a1.sent ∧ (settleSr a1).fresh = a1.fresh ∧ (settleSr a1).routineIds = a1.routineIds ∧ (settleSr a1).pending = a1.pending := by
  simp [settleSr]
@[simp] theorem State.scrambleTile_frame (a1 : State) (a2) (a3) : (State.scrambleTile a1 a2 a3).ident = a1.ident ∧ (State.scrambleTile a1 a2 a3).nv = a1.nv ∧ (State.scrambleTile a1 a2 a3).top = a1.top ∧ (State.scrambleTile a1 a2 a3).hub = a1.hub ∧ (State.scrambleTile a1 a2 a3).err = a1.err ∧ (State.scrambleTile a1 a2 a3).mem = a1.mem ∧ (State.scrambleTile a1 a2 a3).cle = a1.cle ∧ (State.scrambleTile a1 a2 a3).pue0 = a1.pue0 ∧ (State.scrambleTile a1 a2 a3).pue1 = a1.pue1 ∧ (State.scrambleTile a1 a2 a3).cke = a1.cke ∧ (State.scrambleTile a1 a2 a3).pwr = a1.pwr ∧ (State.scrambleTile a1 a2 a3).fab = a1.fab ∧ (State.scrambleTile a1 a2 a3).pmu = a1.pmu ∧ (State.scrambleTile a1 a2 a3).mss = a1.mss ∧ (State.scrambleTile a1 a2 a3).sent = a1.sent ∧ (State.scrambleTile a1 a2 a3).routineIds = a1.routineIds ∧ (State.scrambleTile a1 a2 a3).pending = a1.pending := by
  simp [State.scrambleTile]
@[simp] theorem srFault_frame (a1 : State) (a2) (a3) (a4) : (srFault a1 a2 a3 a4).ident = a1.ident ∧ (srFault a1 a2 a3 a4).nv = a1.nv ∧ (srFault a1 a2 a3 a4).top = a1.top ∧ (srFault a1 a2 a3 a4).mem = a1.mem ∧ (srFault a1 a2 a3 a4).pue0 = a1.pue0 ∧ (srFault a1 a2 a3 a4).pue1 = a1.pue1 ∧ (srFault a1 a2 a3 a4).cke = a1.cke ∧ (srFault a1 a2 a3 a4).pwr = a1.pwr ∧ (srFault a1 a2 a3 a4).fab = a1.fab ∧ (srFault a1 a2 a3 a4).mss = a1.mss ∧ (srFault a1 a2 a3 a4).routineIds = a1.routineIds ∧ (srFault a1 a2 a3 a4).pending = a1.pending := by
  simp [srFault]
@[simp] theorem State.pueWrite_frame (a1 : State) (a2) (a3) (a4) : (State.pueWrite a1 a2 a3 a4).ident = a1.ident ∧ (State.pueWrite a1 a2 a3 a4).nv = a1.nv ∧ (State.pueWrite a1 a2 a3 a4).top = a1.top ∧ (State.pueWrite a1 a2 a3 a4).cores = a1.cores ∧ (State.pueWrite a1 a2 a3 a4).cle = a1.cle ∧ (State.pueWrite a1 a2 a3 a4).pue0 = a1.pue0 ∧ (State.pueWrite a1 a2 a3 a4).pue1 = a1.pue1 ∧ (State.pueWrite a1 a2 a3 a4).cke = a1.cke ∧ (State.pueWrite a1 a2 a3 a4).fab = a1.fab ∧ (State.pueWrite a1 a2 a3 a4).mss = a1.mss ∧ (State.pueWrite a1 a2 a3 a4).routineIds = a1.routineIds ∧ (State.pueWrite a1 a2 a3 a4).pending = a1.pending := by
  simp [State.pueWrite]
@[simp] theorem State.pueNum_frame (a1 : State) (a2) (a3) (a4) (a5) : (State.pueNum a1 a2 a3 a4 a5).ident = a1.ident ∧ (State.pueNum a1 a2 a3 a4 a5).nv = a1.nv ∧ (State.pueNum a1 a2 a3 a4 a5).top = a1.top ∧ (State.pueNum a1 a2 a3 a4 a5).cores = a1.cores ∧ (State.pueNum a1 a2 a3 a4 a5).cle = a1.cle ∧ (State.pueNum a1 a2 a3 a4 a5).pue0 = a1.pue0 ∧ (State.pueNum a1 a2 a3 a4 a5).pue1 = a1.pue1 ∧ (State.pueNum a1 a2 a3 a4 a5).cke = a1.cke ∧ (State.pueNum a1 a2 a3 a4 a5).fab = a1.fab ∧ (State.pueNum a1 a2 a3 a4 a5).mss = a1.mss ∧ (State.pueNum a1 a2 a3 a4 a5).routineIds = a1.routineIds ∧ (State.pueNum a1 a2 a3 a4 a5).pending = a1.pending := by
  simp [State.pueNum]
@[simp] theorem State.pueReads_frame (a1 : State) (a2) (a3) : (State.pueReads a1 a2 a3).ident = a1.ident ∧ (State.pueReads a1 a2 a3).nv = a1.nv ∧ (State.pueReads a1 a2 a3).top = a1.top ∧ (State.pueReads a1 a2 a3).cores = a1.cores ∧ (State.pueReads a1 a2 a3).cle = a1.cle ∧ (State.pueReads a1 a2 a3).pue0 = a1.pue0 ∧ (State.pueReads a1 a2 a3).pue1 = a1.pue1 ∧ (State.pueReads a1 a2 a3).fab = a1.fab ∧ (State.pueReads a1 a2 a3).mss = a1.mss ∧ (State.pueReads a1 a2 a3).routineIds = a1.routineIds ∧ (State.pueReads a1 a2 a3).pending = a1.pending := by
  simp [State.pueReads]
@[simp] theorem State.readHeaders_frame (a1 : State) (a2) (a3) (a4) : (State.readHeaders a1 a2 a3 a4).ident = a1.ident ∧ (State.readHeaders a1 a2 a3 a4).nv = a1.nv ∧ (State.readHeaders a1 a2 a3 a4).top = a1.top ∧ (State.readHeaders a1 a2 a3 a4).cores = a1.cores ∧ (State.readHeaders a1 a2 a3 a4).cle = a1.cle ∧ (State.readHeaders a1 a2 a3 a4).pue0 = a1.pue0 ∧ (State.readHeaders a1 a2 a3 a4).pue1 = a1.pue1 ∧ (State.readHeaders a1 a2 a3 a4).fab = a1.fab ∧ (State.readHeaders a1 a2 a3 a4).mss = a1.mss ∧ (State.readHeaders a1 a2 a3 a4).routineIds = a1.routineIds ∧ (State.readHeaders a1 a2 a3 a4).pending = a1.pending := by
  simp [State.readHeaders]
@[simp] theorem State.openStatus_frame (a1 : State) (a2) (a3) (a4) (a5) : (State.openStatus a1 a2 a3 a4 a5).ident = a1.ident ∧ (State.openStatus a1 a2 a3 a4 a5).nv = a1.nv ∧ (State.openStatus a1 a2 a3 a4 a5).top = a1.top ∧ (State.openStatus a1 a2 a3 a4 a5).cores = a1.cores ∧ (State.openStatus a1 a2 a3 a4 a5).cle = a1.cle ∧ (State.openStatus a1 a2 a3 a4 a5).pue0 = a1.pue0 ∧ (State.openStatus a1 a2 a3 a4 a5).pue1 = a1.pue1 ∧ (State.openStatus a1 a2 a3 a4 a5).fab = a1.fab ∧ (State.openStatus a1 a2 a3 a4 a5).mss = a1.mss ∧ (State.openStatus a1 a2 a3 a4 a5).routineIds = a1.routineIds ∧ (State.openStatus a1 a2 a3 a4 a5).pending = a1.pending := by
  simp [State.openStatus]
@[simp] theorem State.bump32_frame (a1 : State) (a2) (a3) : (State.bump32 a1 a2 a3).ident = a1.ident ∧ (State.bump32 a1 a2 a3).nv = a1.nv ∧ (State.bump32 a1 a2 a3).top = a1.top ∧ (State.bump32 a1 a2 a3).cores = a1.cores ∧ (State.bump32 a1 a2 a3).cle = a1.cle ∧ (State.bump32 a1 a2 a3).pue0 = a1.pue0 ∧ (State.bump32 a1 a2 a3).pue1 = a1.pue1 ∧ (State.bump32 a1 a2 a3).cke = a1.cke ∧ (State.bump32 a1 a2 a3).fab = a1.fab ∧ (State.bump32 a1 a2 a3).mss = a1.mss ∧ (State.bump32 a1 a2 a3).routineIds = a1.routineIds ∧ (State.bump32 a1 a2 a3).pending = a1.pending := by
  simp [State.bump32]
@[simp] theorem State.statusFlag_frame (a1 : State) (a2) (a3) (a4) (a5) (a6) : (State.statusFlag a1 a2 a3 a4 a5 a6).ident = a1.ident ∧ (State.statusFlag a1 a2 a3 a4 a5 a6).nv = a1.nv ∧ (State.statusFlag a1 a2 a3 a4 a5 a6).top = a1.top ∧ (State.statusFlag a1 a2 a3 a4 a5 a6).cores = a1.cores ∧ (State.statusFlag a1 a2 a3 a4 a5 a6).cle = a1.cle ∧ (State.statusFlag a1 a2 a3 a4 a5 a6).pue0 = a1.pue0 ∧ (State.statusFlag a1 a2 a3 a4 a5 a6).pue1 = a1.pue1 ∧ (State.statusFlag a1 a2 a3 a4 a5 a6).fab = a1.fab ∧ (State.statusFlag a1 a2 a3 a4 a5 a6).mss = a1.mss ∧ (State.statusFlag a1 a2 a3 a4 a5 a6).routineIds = a1.routineIds ∧ (State.statusFlag a1 a2 a3 a4 a5 a6).pending = a1.pending := by
  simp [State.statusFlag]
@[simp] theorem PueAcc.st_frame (a1) : (PueAcc.st a1).ident = a1.st.ident ∧ (PueAcc.st a1).nv = a1.st.nv ∧ (PueAcc.st a1).top = a1.st.top ∧ (PueAcc.st a1).cores = a1.st.cores ∧ (PueAcc.st a1).hub = a1.st.hub ∧ (PueAcc.st a1).err = a1.st.err ∧ (PueAcc.st a1).mem = a1.st.mem ∧ (PueAcc.st a1).cle = a1.st.cle ∧ (PueAcc.st a1).pue0 = a1.st.pue0 ∧ (PueAcc.st a1).pue1 = a1.st.pue1 ∧ (PueAcc.st a1).cke = a1.st.cke ∧ (PueAcc.st a1).pwr = a1.st.pwr ∧ (PueAcc.st a1).fab = a1.st.fab ∧ (PueAcc.st a1).pmu = a1.st.pmu ∧ (PueAcc.st a1).mss = a1.st.mss ∧ (PueAcc.st a1).sent = a1.st.sent ∧ (PueAcc.st a1).fresh = a1.st.fresh ∧ (PueAcc.st a1).routineIds = a1.st.routineIds ∧ (PueAcc.st a1).pending = a1.st.pending := by
  simp [PueAcc.st]
@[simp] theorem State.writeBlock_frame (a1 : State) (a2) (a3) (a4) (a5) (a6) (a7) (a8) : (State.writeBlock a1 a2 a3 a4 a5 a6 a7 a8).ident = a1.ident ∧ (State.writeBlock a1 a2 a3 a4 a5 a6 a7 a8).nv = a1.nv ∧ (State.writeBlock a1 a2 a3 a4 a5 a6 a7 a8).top = a1.top ∧ (State.writeBlock a1 a2 a3 a4 a5 a6 a7 a8).cores = a1.cores ∧ (State.writeBlock a1 a2 a3 a4 a5 a6 a7 a8).cle = a1.cle ∧ (State.writeBlock a1 a2 a3 a4 a5 a6 a7 a8).pue0 = a1.pue0 ∧ (State.writeBlock a1 a2 a3 a4 a5 a6 a7 a8).pue1 = a1.pue1 ∧ (State.writeBlock a1 a2 a3 a4 a5 a6 a7 a8).cke = a1.cke ∧ (State.writeBlock a1 a2 a3 a4 a5 a6 a7 a8).fab = a1.fab ∧ (State.writeBlock a1 a2 a3 a4 a5 a6 a7 a8).mss = a1.mss ∧ (State.writeBlock a1 a2 a3 a4 a5 a6 a7 a8).routineIds = a1.routineIds ∧ (State.writeBlock a1 a2 a3 a4 a5 a6 a7 a8).pending = a1.pending := by
  simp only [State.writeBlock]
  repeat' split
  all_goals simp
@[simp] theorem finishBlock_frame (a1) (a2) (a3) (a4) (a5) (a6) (a7) (a8) (a9) (a10) (a11) : (finishBlock a1 a2 a3 a4 a5 a6 a7 a8 a9 a10 a11).st.ident = a3.st.ident ∧ (finishBlock a1 a2 a3 a4 a5 a6 a7 a8 a9 a10 a11).st.nv = a3.st.nv ∧ (finishBlock a1 a2 a3 a4 a5 a6 a7 a8 a9 a10 a11).st.top = a3.st.top ∧ (finishBlock a1 a2 a3 a4 a5 a6 a7 a8 a9 a10 a11).st.cores = a3.st.cores ∧ (finishBlock a1 a2 a3 a4 a5 a6 a7 a8 a9 a10 a11).st.cle = a3.st.cle ∧ (finishBlock a1 a2 a3 a4 a5 a6 a7 a8 a9 a10 a11).st.fab = a3.st.fab ∧ (finishBlock a1 a2 a3 a4 a5 a6 a7 a8 a9 a10 a11).st.mss = a3.st.mss ∧ (finishBlock a1 a2 a3 a4 a5 a6 a7 a8 a9 a10 a11).st.routineIds = a3.st.routineIds ∧ (finishBlock a1 a2 a3 a4 a5 a6 a7 a8 a9 a10 a11).st.pending = a3.st.pending := by
  simp [finishBlock]
@[simp] theorem frozenBlock_frame (a1) (a2) (a3) (a4) (a5) : (frozenBlock a1 a2 a3 a4 a5).st.ident = a2.st.ident ∧ (frozenBlock a1 a2 a3 a4 a5).st.nv = a2.st.nv ∧ (frozenBlock a1 a2 a3 a4 a5).st.top = a2.st.top ∧ (frozenBlock a1 a2 a3 a4 a5).st.cores = a2.st.cores ∧ (frozenBlock a1 a2 a3 a4 a5).st.cle = a2.st.cle ∧ (frozenBlock a1 a2 a3 a4 a5).st.fab = a2.st.fab ∧ (frozenBlock a1 a2 a3 a4 a5).st.mss = a2.st.mss ∧ (frozenBlock a1 a2 a3 a4 a5).st.routineIds = a2.st.routineIds ∧ (frozenBlock a1 a2 a3 a4 a5).st.pending = a2.st.pending := by
  simp only [frozenBlock]
  repeat' split
  all_goals simp
@[simp] theorem pueBlock_frame (a1) (a2) (a3) (a4) (a5) : (pueBlock a1 a2 a3 a4 a5).st.ident = a4.st.ident ∧ (pueBlock a1 a2 a3 a4 a5).st.nv = a4.st.nv ∧ (pueBlock a1 a2 a3 a4 a5).st.top = a4.st.top ∧ (pueBlock a1 a2 a3 a4 a5).st.cores = a4.st.cores ∧ (pueBlock a1 a2 a3 a4 a5).st.cle = a4.st.cle ∧ (pueBlock a1 a2 a3 a4 a5).st.fab = a4.st.fab ∧ (pueBlock a1 a2 a3 a4 a5).st.mss = a4.st.mss ∧ (pueBlock a1 a2 a3 a4 a5).st.routineIds = a4.st.routineIds ∧ (pueBlock a1 a2 a3 a4 a5).st.pending = a4.st.pending := by
  unfold pueBlock
  try dsimp only
  repeat' split
  all_goals simp_all
@[simp] theorem State.readTileHeaders_frame (a1 : State) (a2) (a3) (a4) : (State.readTileHeaders a1 a2 a3 a4).ident = a1.ident ∧ (State.readTileHeaders a1 a2 a3 a4).nv = a1.nv ∧ (State.readTileHeaders a1 a2 a3 a4).top = a1.top ∧ (State.readTileHeaders a1 a2 a3 a4).cores = a1.cores ∧ (State.readTileHeaders a1 a2 a3 a4).cle = a1.cle ∧ (State.readTileHeaders a1 a2 a3 a4).pue0 = a1.pue0 ∧ (State.readTileHeaders a1 a2 a3 a4).pue1 = a1.pue1 ∧ (State.readTileHeaders a1 a2 a3 a4).fab = a1.fab ∧ (State.readTileHeaders a1 a2 a3 a4).mss = a1.mss ∧ (State.readTileHeaders a1 a2 a3 a4).routineIds = a1.routineIds ∧ (State.readTileHeaders a1 a2 a3 a4).pending = a1.pending := by
  simp [State.readTileHeaders]
@[simp] theorem pueTile_frame (a1) (a2) (a3) (a4) (a5) (a6) (a7) : (pueTile a1 a2 a3 a4 a5 a6 a7).st.ident = a4.st.ident ∧ (pueTile a1 a2 a3 a4 a5 a6 a7).st.nv = a4.st.nv ∧ (pueTile a1 a2 a3 a4 a5 a6 a7).st.top = a4.st.top ∧ (pueTile a1 a2 a3 a4 a5 a6 a7).st.cores = a4.st.cores ∧ (pueTile a1 a2 a3 a4 a5 a6 a7).st.cle = a4.st.cle ∧ (pueTile a1 a2 a3 a4 a5 a6 a7).st.fab = a4.st.fab ∧ (pueTile a1 a2 a3 a4 a5 a6 a7).st.mss = a4.st.mss ∧ (pueTile a1 a2 a3 a4 a5 a6 a7).st.routineIds = a4.st.routineIds ∧ (pueTile a1 a2 a3 a4 a5 a6 a7).st.pending = a4.st.pending := by
  unfold pueTile
  try dsimp only
  repeat' split
  all_goals simp_all
@[simp] theorem pueStep_frame (a1) (a2) (a3) (a4) : (pueStep a1 a2 a3 a4).st.ident = a4.st.ident ∧ (pueStep a1 a2 a3 a4).st.nv = a4.st.nv ∧ (pueStep a1 a2 a3 a4).st.top = a4.st.top ∧ (pueStep a1 a2 a3 a4).st.cores = a4.st.cores ∧ (pueStep a1 a2 a3 a4).st.cle = a4.st.cle ∧ (pueStep a1 a2 a3 a4).st.fab = a4.st.fab ∧ (pueStep a1 a2 a3 a4).st.mss = a4.st.mss ∧ (pueStep a1 a2 a3 a4).st.routineIds = a4.st.routineIds ∧ (pueStep a1 a2 a3 a4).st.pending = a4.st.pending := by
  simp only [pueStep]
  repeat' split
  all_goals simp
@[simp] theorem runBlocks_frame (a1) (a2) (a3) (a4) (a5) : (runBlocks a1 a2 a3 a4 a5).st.ident = a5.st.ident ∧ (runBlocks a1 a2 a3 a4 a5).st.nv = a5.st.nv ∧ (runBlocks a1 a2 a3 a4 a5).st.top = a5.st.top ∧ (runBlocks a1 a2 a3 a4 a5).st.cores = a5.st.cores ∧ (runBlocks a1 a2 a3 a4 a5).st.cle = a5.st.cle ∧ (runBlocks a1 a2 a3 a4 a5).st.fab = a5.st.fab ∧ (runBlocks a1 a2 a3 a4 a5).st.mss = a5.st.mss ∧ (runBlocks a1 a2 a3 a4 a5).st.routineIds = a5.st.routineIds ∧ (runBlocks a1 a2 a3 a4 a5).st.pending = a5.st.pending := by
  induction a4 generalizing a5 with
  | zero => simp [runBlocks]
  | succ n ih =>
    unfold runBlocks
    try dsimp only
    repeat' split
    all_goals simp_all
@[simp] theorem State.writeStepRec_frame (a1 : State) (a2) (a3) (a4) (a5) : (State.writeStepRec a1 a2 a3 a4 a5).ident = a1.ident ∧ (State.writeStepRec a1 a2 a3 a4 a5).nv = a1.nv ∧ (State.writeStepRec a1 a2 a3 a4 a5).top = a1.top ∧ (State.writeStepRec a1 a2 a3 a4 a5).cores = a1.cores ∧ (State.writeStepRec a1 a2 a3 a4 a5).cle = a1.cle ∧ (State.writeStepRec a1 a2 a3 a4 a5).pue0 = a1.pue0 ∧ (State.writeStepRec a1 a2 a3 a4 a5).pue1 = a1.pue1 ∧ (State.writeStepRec a1 a2 a3 a4 a5).fab = a1.fab ∧ (State.writeStepRec a1 a2 a3 a4 a5).mss = a1.mss ∧ (State.writeStepRec a1 a2 a3 a4 a5).routineIds = a1.routineIds ∧ (State.writeStepRec a1 a2 a3 a4 a5).pending = a1.pending := by
  simp [State.writeStepRec]
@[simp] theorem State.runShard_frame (a1 : State) (a2) (a3) (a4) (a5) : (State.runShard a1 a2 a3 a4 a5).st.ident = a1.ident ∧ (State.runShard a1 a2 a3 a4 a5).st.nv = a1.nv ∧ (State.runShard a1 a2 a3 a4 a5).st.top = a1.top ∧ (State.runShard a1 a2 a3 a4 a5).st.cores = a1.cores ∧ (State.runShard a1 a2 a3 a4 a5).st.cle = a1.cle ∧ (State.runShard a1 a2 a3 a4 a5).st.fab = a1.fab ∧ (State.runShard a1 a2 a3 a4 a5).st.mss = a1.mss ∧ (State.runShard a1 a2 a3 a4 a5).st.routineIds = a1.routineIds ∧ (State.runShard a1 a2 a3 a4 a5).st.pending = a1.pending := by
  simp [State.runShard]
@[simp] theorem State.flushSums_frame (a1 : State) (a2) (a3) : (State.flushSums a1 a2 a3).ident = a1.ident ∧ (State.flushSums a1 a2 a3).nv = a1.nv ∧ (State.flushSums a1 a2 a3).top = a1.top ∧ (State.flushSums a1 a2 a3).cores = a1.cores ∧ (State.flushSums a1 a2 a3).cle = a1.cle ∧ (State.flushSums a1 a2 a3).pue0 = a1.pue0 ∧ (State.flushSums a1 a2 a3).pue1 = a1.pue1 ∧ (State.flushSums a1 a2 a3).cke = a1.cke ∧ (State.flushSums a1 a2 a3).fab = a1.fab ∧ (State.flushSums a1 a2 a3).mss = a1.mss ∧ (State.flushSums a1 a2 a3).routineIds = a1.routineIds ∧ (State.flushSums a1 a2 a3).pending = a1.pending := by
  simp [State.flushSums]
@[simp] theorem stopUpdate_frame (a1 : State) (a2) (a3) (a4) : (stopUpdate a1 a2 a3 a4).ident = a1.ident ∧ (stopUpdate a1 a2 a3 a4).nv = a1.nv ∧ (stopUpdate a1 a2 a3 a4).top = a1.top ∧ (stopUpdate a1 a2 a3 a4).cle = a1.cle ∧ (stopUpdate a1 a2 a3 a4).cke = a1.cke ∧ (stopUpdate a1 a2 a3 a4).fab = a1.fab ∧ (stopUpdate a1 a2 a3 a4).mss = a1.mss ∧ (stopUpdate a1 a2 a3 a4).routineIds = a1.routineIds ∧ (stopUpdate a1 a2 a3 a4).pending = a1.pending := by
  simp only [stopUpdate]
  repeat' split
  all_goals simp
@[simp] theorem endUpdate_frame (a1 : State) (a2) (a3) : (endUpdate a1 a2 a3).ident = a1.ident ∧ (endUpdate a1 a2 a3).nv = a1.nv ∧ (endUpdate a1 a2 a3).top = a1.top ∧ (endUpdate a1 a2 a3).cle = a1.cle ∧ (endUpdate a1 a2 a3).fab = a1.fab ∧ (endUpdate a1 a2 a3).mss = a1.mss ∧ (endUpdate a1 a2 a3).routineIds = a1.routineIds ∧ (endUpdate a1 a2 a3).pending = a1.pending := by
  simp [endUpdate]
@[simp] theorem State.noteNonfinite_frame (a1 : State) (a2) (a3) (a4) : (State.noteNonfinite a1 a2 a3 a4).ident = a1.ident ∧ (State.noteNonfinite a1 a2 a3 a4).nv = a1.nv ∧ (State.noteNonfinite a1 a2 a3 a4).top = a1.top ∧ (State.noteNonfinite a1 a2 a3 a4).cores = a1.cores ∧ (State.noteNonfinite a1 a2 a3 a4).mem = a1.mem ∧ (State.noteNonfinite a1 a2 a3 a4).cle = a1.cle ∧ (State.noteNonfinite a1 a2 a3 a4).pue0 = a1.pue0 ∧ (State.noteNonfinite a1 a2 a3 a4).pue1 = a1.pue1 ∧ (State.noteNonfinite a1 a2 a3 a4).cke = a1.cke ∧ (State.noteNonfinite a1 a2 a3 a4).pwr = a1.pwr ∧ (State.noteNonfinite a1 a2 a3 a4).fab = a1.fab ∧ (State.noteNonfinite a1 a2 a3 a4).mss = a1.mss ∧ (State.noteNonfinite a1 a2 a3 a4).fresh = a1.fresh ∧ (State.noteNonfinite a1 a2 a3 a4).routineIds = a1.routineIds ∧ (State.noteNonfinite a1 a2 a3 a4).pending = a1.pending := by
  simp only [State.noteNonfinite]
  repeat' split
  all_goals simp
@[simp] theorem advancePue_frame (a1) (a2) (a3) (a4 : State) (a5) : (advancePue a1 a2 a3 a4 a5).ident = a4.ident ∧ (advancePue a1 a2 a3 a4 a5).nv = a4.nv ∧ (advancePue a1 a2 a3 a4 a5).top = a4.top ∧ (advancePue a1 a2 a3 a4 a5).cle = a4.cle ∧ (advancePue a1 a2 a3 a4 a5).fab = a4.fab ∧ (advancePue a1 a2 a3 a4 a5).mss = a4.mss ∧ (advancePue a1 a2 a3 a4 a5).routineIds = a4.routineIds ∧ (advancePue a1 a2 a3 a4 a5).pending = a4.pending := by
  induction a3 generalizing a1 a2 a4 a5 with
  | zero => simp [advancePue]
  | succ n ih =>
    unfold advancePue
    try dsimp only
    repeat' split
    all_goals simp_all
@[simp] theorem State.withCredit_ident (a1 : State) (a2) (a3) (ha3 : ∀ y0, (a3 y0).ident = y0.ident) : (State.withCredit a1 a2 a3).ident = a1.ident := by
  simp [State.withCredit, ha3]
@[simp] theorem State.withCredit_nv (a1 : State) (a2) (a3) (ha3 : ∀ y0, (a3 y0).nv = y0.nv) : (State.withCredit a1 a2 a3).nv = a1.nv := by
  simp [State.withCredit, ha3]
@[simp] theorem State.withCredit_top (a1 : State) (a2) (a3) (ha3 : ∀ y0, (a3 y0).top = y0.top) : (State.withCredit a1 a2 a3).top = a1.top := by
  simp [State.withCredit, ha3]
@[simp] theorem State.withCredit_cores (a1 : State) (a2) (a3) (ha3 : ∀ y0, (a3 y0).cores = y0.cores) : (State.withCredit a1 a2 a3).cores = a1.cores := by
  simp [State.withCredit, ha3]
@[simp] theorem State.withCredit_hub (a1 : State) (a2) (a3) (ha3 : ∀ y0, (a3 y0).hub = y0.hub) : (State.withCredit a1 a2 a3).hub = a1.hub := by
  simp [State.withCredit, ha3]
@[simp] theorem State.withCredit_err (a1 : State) (a2) (a3) (ha3 : ∀ y0, (a3 y0).err = y0.err) : (State.withCredit a1 a2 a3).err = a1.err := by
  simp [State.withCredit, ha3]
@[simp] theorem State.withCredit_mem (a1 : State) (a2) (a3) (ha3 : ∀ y0, (a3 y0).mem = y0.mem) : (State.withCredit a1 a2 a3).mem = a1.mem := by
  simp [State.withCredit, ha3]
@[simp] theorem State.withCredit_cle (a1 : State) (a2) (a3) (ha3 : ∀ y0, (a3 y0).cle = y0.cle) : (State.withCredit a1 a2 a3).cle = a1.cle := by
  simp [State.withCredit, ha3]
@[simp] theorem State.withCredit_cke (a1 : State) (a2) (a3) (ha3 : ∀ y0, (a3 y0).cke = y0.cke) : (State.withCredit a1 a2 a3).cke = a1.cke := by
  simp [State.withCredit, ha3]
@[simp] theorem State.withCredit_fab (a1 : State) (a2) (a3) (ha3 : ∀ y0, (a3 y0).fab = y0.fab) : (State.withCredit a1 a2 a3).fab = a1.fab := by
  simp [State.withCredit, ha3]
@[simp] theorem State.withCredit_pmu (a1 : State) (a2) (a3) (ha3 : ∀ y0, (a3 y0).pmu = y0.pmu) : (State.withCredit a1 a2 a3).pmu = a1.pmu := by
  simp [State.withCredit, ha3]
@[simp] theorem State.withCredit_mss (a1 : State) (a2) (a3) (ha3 : ∀ y0, (a3 y0).mss = y0.mss) : (State.withCredit a1 a2 a3).mss = a1.mss := by
  simp [State.withCredit, ha3]
@[simp] theorem State.withCredit_sent (a1 : State) (a2) (a3) (ha3 : ∀ y0, (a3 y0).sent = y0.sent) : (State.withCredit a1 a2 a3).sent = a1.sent := by
  simp [State.withCredit, ha3]
@[simp] theorem State.withCredit_fresh (a1 : State) (a2) (a3) (ha3 : ∀ y0, (a3 y0).fresh = y0.fresh) : (State.withCredit a1 a2 a3).fresh = a1.fresh := by
  simp [State.withCredit, ha3]
@[simp] theorem State.withCredit_routineIds (a1 : State) (a2) (a3) (ha3 : ∀ y0, (a3 y0).routineIds = y0.routineIds) : (State.withCredit a1 a2 a3).routineIds = a1.routineIds := by
  simp [State.withCredit, ha3]
@[simp] theorem State.withCredit_pending (a1 : State) (a2) (a3) (ha3 : ∀ y0, (a3 y0).pending = y0.pending) : (State.withCredit a1 a2 a3).pending = a1.pending := by
  simp [State.withCredit, ha3]
@[simp] theorem State.continueUpdate_frame (a1 : State) (a2) (a3) (a4) : (State.continueUpdate a1 a2 a3 a4).ident = a1.ident ∧ (State.continueUpdate a1 a2 a3 a4).nv = a1.nv ∧ (State.continueUpdate a1 a2 a3 a4).top = a1.top ∧ (State.continueUpdate a1 a2 a3 a4).cle = a1.cle ∧ (State.continueUpdate a1 a2 a3 a4).fab = a1.fab ∧ (State.continueUpdate a1 a2 a3 a4).mss = a1.mss ∧ (State.continueUpdate a1 a2 a3 a4).routineIds = a1.routineIds ∧ (State.continueUpdate a1 a2 a3 a4).pending = a1.pending := by
  simp [State.continueUpdate]
@[simp] theorem State.readsTable_frame (a1 : State) (a2) (a3) : (State.readsTable a1 a2 a3).ident = a1.ident ∧ (State.readsTable a1 a2 a3).nv = a1.nv ∧ (State.readsTable a1 a2 a3).top = a1.top ∧ (State.readsTable a1 a2 a3).cores = a1.cores ∧ (State.readsTable a1 a2 a3).cle = a1.cle ∧ (State.readsTable a1 a2 a3).pue0 = a1.pue0 ∧ (State.readsTable a1 a2 a3).pue1 = a1.pue1 ∧ (State.readsTable a1 a2 a3).fab = a1.fab ∧ (State.readsTable a1 a2 a3).mss = a1.mss ∧ (State.readsTable a1 a2 a3).routineIds = a1.routineIds ∧ (State.readsTable a1 a2 a3).pending = a1.pending := by
  simp [State.readsTable]
@[simp] theorem State.readsDescs_frame (a1 : State) (a2) (a3) : (State.readsDescs a1 a2 a3).ident = a1.ident ∧ (State.readsDescs a1 a2 a3).nv = a1.nv ∧ (State.readsDescs a1 a2 a3).top = a1.top ∧ (State.readsDescs a1 a2 a3).cores = a1.cores ∧ (State.readsDescs a1 a2 a3).cle = a1.cle ∧ (State.readsDescs a1 a2 a3).pue0 = a1.pue0 ∧ (State.readsDescs a1 a2 a3).pue1 = a1.pue1 ∧ (State.readsDescs a1 a2 a3).fab = a1.fab ∧ (State.readsDescs a1 a2 a3).mss = a1.mss ∧ (State.readsDescs a1 a2 a3).routineIds = a1.routineIds ∧ (State.readsDescs a1 a2 a3).pending = a1.pending := by
  simp [State.readsDescs]
@[simp] theorem State.readsHeaders_frame (a1 : State) (a2) (a3) : (State.readsHeaders a1 a2 a3).ident = a1.ident ∧ (State.readsHeaders a1 a2 a3).nv = a1.nv ∧ (State.readsHeaders a1 a2 a3).top = a1.top ∧ (State.readsHeaders a1 a2 a3).cores = a1.cores ∧ (State.readsHeaders a1 a2 a3).cle = a1.cle ∧ (State.readsHeaders a1 a2 a3).pue0 = a1.pue0 ∧ (State.readsHeaders a1 a2 a3).pue1 = a1.pue1 ∧ (State.readsHeaders a1 a2 a3).fab = a1.fab ∧ (State.readsHeaders a1 a2 a3).mss = a1.mss ∧ (State.readsHeaders a1 a2 a3).routineIds = a1.routineIds ∧ (State.readsHeaders a1 a2 a3).pending = a1.pending := by
  simp [State.readsHeaders]
@[simp] theorem State.setFallback_frame (a1 : State) (a2) (a3) (a4) : (State.setFallback a1 a2 a3 a4).ident = a1.ident ∧ (State.setFallback a1 a2 a3 a4).nv = a1.nv ∧ (State.setFallback a1 a2 a3 a4).top = a1.top ∧ (State.setFallback a1 a2 a3 a4).cores = a1.cores ∧ (State.setFallback a1 a2 a3 a4).cle = a1.cle ∧ (State.setFallback a1 a2 a3 a4).pue0 = a1.pue0 ∧ (State.setFallback a1 a2 a3 a4).pue1 = a1.pue1 ∧ (State.setFallback a1 a2 a3 a4).fab = a1.fab ∧ (State.setFallback a1 a2 a3 a4).mss = a1.mss ∧ (State.setFallback a1 a2 a3 a4).routineIds = a1.routineIds ∧ (State.setFallback a1 a2 a3 a4).pending = a1.pending := by
  simp [State.setFallback]
@[simp] theorem State.takeTable_frame (a1 : State) (a2) (a3) : (State.takeTable a1 a2 a3).ident = a1.ident ∧ (State.takeTable a1 a2 a3).nv = a1.nv ∧ (State.takeTable a1 a2 a3).top = a1.top ∧ (State.takeTable a1 a2 a3).cores = a1.cores ∧ (State.takeTable a1 a2 a3).cle = a1.cle ∧ (State.takeTable a1 a2 a3).pue0 = a1.pue0 ∧ (State.takeTable a1 a2 a3).pue1 = a1.pue1 ∧ (State.takeTable a1 a2 a3).fab = a1.fab ∧ (State.takeTable a1 a2 a3).mss = a1.mss ∧ (State.takeTable a1 a2 a3).routineIds = a1.routineIds ∧ (State.takeTable a1 a2 a3).pending = a1.pending := by
  simp [State.takeTable]
@[simp] theorem State.pueRefuse_frame (a1 : State) (a2) (a3) : (State.pueRefuse a1 a2 a3).ident = a1.ident ∧ (State.pueRefuse a1 a2 a3).nv = a1.nv ∧ (State.pueRefuse a1 a2 a3).top = a1.top ∧ (State.pueRefuse a1 a2 a3).mem = a1.mem ∧ (State.pueRefuse a1 a2 a3).cle = a1.cle ∧ (State.pueRefuse a1 a2 a3).pue0 = a1.pue0 ∧ (State.pueRefuse a1 a2 a3).pue1 = a1.pue1 ∧ (State.pueRefuse a1 a2 a3).cke = a1.cke ∧ (State.pueRefuse a1 a2 a3).pwr = a1.pwr ∧ (State.pueRefuse a1 a2 a3).fab = a1.fab ∧ (State.pueRefuse a1 a2 a3).mss = a1.mss ∧ (State.pueRefuse a1 a2 a3).fresh = a1.fresh ∧ (State.pueRefuse a1 a2 a3).routineIds = a1.routineIds ∧ (State.pueRefuse a1 a2 a3).pending = a1.pending := by
  simp [State.pueRefuse]
@[simp] theorem startUpdate_frame (a1) (a2) (a3) (a4) (a5 : State) : (startUpdate a1 a2 a3 a4 a5).ident = a5.ident ∧ (startUpdate a1 a2 a3 a4 a5).nv = a5.nv ∧ (startUpdate a1 a2 a3 a4 a5).top = a5.top ∧ (startUpdate a1 a2 a3 a4 a5).cle = a5.cle ∧ (startUpdate a1 a2 a3 a4 a5).fab = a5.fab ∧ (startUpdate a1 a2 a3 a4 a5).mss = a5.mss ∧ (startUpdate a1 a2 a3 a4 a5).routineIds = a5.routineIds ∧ (startUpdate a1 a2 a3 a4 a5).pending = a5.pending := by
  simp [startUpdate]
@[simp] theorem State.mismatch_frame (a1 : State) (a2) (a3) (a4) : (State.mismatch a1 a2 a3 a4).ident = a1.ident ∧ (State.mismatch a1 a2 a3 a4).nv = a1.nv ∧ (State.mismatch a1 a2 a3 a4).top = a1.top ∧ (State.mismatch a1 a2 a3 a4).cores = a1.cores ∧ (State.mismatch a1 a2 a3 a4).hub = a1.hub ∧ (State.mismatch a1 a2 a3 a4).err = a1.err ∧ (State.mismatch a1 a2 a3 a4).mem = a1.mem ∧ (State.mismatch a1 a2 a3 a4).cle = a1.cle ∧ (State.mismatch a1 a2 a3 a4).pue0 = a1.pue0 ∧ (State.mismatch a1 a2 a3 a4).pue1 = a1.pue1 ∧ (State.mismatch a1 a2 a3 a4).pwr = a1.pwr ∧ (State.mismatch a1 a2 a3 a4).fab = a1.fab ∧ (State.mismatch a1 a2 a3 a4).pmu = a1.pmu ∧ (State.mismatch a1 a2 a3 a4).mss = a1.mss ∧ (State.mismatch a1 a2 a3 a4).sent = a1.sent ∧ (State.mismatch a1 a2 a3 a4).fresh = a1.fresh ∧ (State.mismatch a1 a2 a3 a4).routineIds = a1.routineIds ∧ (State.mismatch a1 a2 a3 a4).pending = a1.pending := by
  simp [State.mismatch]
@[simp] theorem State.settleDigest_frame (a1 : State) (a2) : (State.settleDigest a1 a2).ident = a1.ident ∧ (State.settleDigest a1 a2).nv = a1.nv ∧ (State.settleDigest a1 a2).top = a1.top ∧ (State.settleDigest a1 a2).cores = a1.cores ∧ (State.settleDigest a1 a2).hub = a1.hub ∧ (State.settleDigest a1 a2).err = a1.err ∧ (State.settleDigest a1 a2).mem = a1.mem ∧ (State.settleDigest a1 a2).cle = a1.cle ∧ (State.settleDigest a1 a2).pue0 = a1.pue0 ∧ (State.settleDigest a1 a2).pue1 = a1.pue1 ∧ (State.settleDigest a1 a2).pwr = a1.pwr ∧ (State.settleDigest a1 a2).fab = a1.fab ∧ (State.settleDigest a1 a2).pmu = a1.pmu ∧ (State.settleDigest a1 a2).mss = a1.mss ∧ (State.settleDigest a1 a2).sent = a1.sent ∧ (State.settleDigest a1 a2).fresh = a1.fresh ∧ (State.settleDigest a1 a2).routineIds = a1.routineIds ∧ (State.settleDigest a1 a2).pending = a1.pending := by
  simp only [State.settleDigest]
  repeat' split
  all_goals simp
@[simp] theorem finishShard_frame (a1 : State) (a2) (a3) (a4) (a5) : (finishShard a1 a2 a3 a4 a5).ident = a1.ident ∧ (finishShard a1 a2 a3 a4 a5).nv = a1.nv ∧ (finishShard a1 a2 a3 a4 a5).top = a1.top ∧ (finishShard a1 a2 a3 a4 a5).cores = a1.cores ∧ (finishShard a1 a2 a3 a4 a5).pue0 = a1.pue0 ∧ (finishShard a1 a2 a3 a4 a5).pue1 = a1.pue1 ∧ (finishShard a1 a2 a3 a4 a5).mss = a1.mss ∧ (finishShard a1 a2 a3 a4 a5).routineIds = a1.routineIds ∧ (finishShard a1 a2 a3 a4 a5).pending = a1.pending := by
  simp only [finishShard]
  repeat' split
  all_goals simp
@[simp] theorem precondRoot_frame (a1) (a2) (a3) (a4) (a5 : State) (a6) : (precondRoot a1 a2 a3 a4 a5 a6).2.2.2.ident = a5.ident ∧ (precondRoot a1 a2 a3 a4 a5 a6).2.2.2.nv = a5.nv ∧ (precondRoot a1 a2 a3 a4 a5 a6).2.2.2.top = a5.top ∧ (precondRoot a1 a2 a3 a4 a5 a6).2.2.2.cores = a5.cores ∧ (precondRoot a1 a2 a3 a4 a5 a6).2.2.2.mem = a5.mem ∧ (precondRoot a1 a2 a3 a4 a5 a6).2.2.2.cle = a5.cle ∧ (precondRoot a1 a2 a3 a4 a5 a6).2.2.2.cke = a5.cke ∧ (precondRoot a1 a2 a3 a4 a5 a6).2.2.2.pwr = a5.pwr ∧ (precondRoot a1 a2 a3 a4 a5 a6).2.2.2.fab = a5.fab ∧ (precondRoot a1 a2 a3 a4 a5 a6).2.2.2.mss = a5.mss ∧ (precondRoot a1 a2 a3 a4 a5 a6).2.2.2.fresh = a5.fresh ∧ (precondRoot a1 a2 a3 a4 a5 a6).2.2.2.routineIds = a5.routineIds ∧ (precondRoot a1 a2 a3 a4 a5 a6).2.2.2.pending = a5.pending := by
  unfold precondRoot
  try dsimp only
  repeat' split
  all_goals simp_all
@[simp] theorem State.mark_frame (a1 : State) (a2) (a3) : (State.mark a1 a2 a3).ident = a1.ident ∧ (State.mark a1 a2 a3).nv = a1.nv ∧ (State.mark a1 a2 a3).top = a1.top ∧ (State.mark a1 a2 a3).cores = a1.cores ∧ (State.mark a1 a2 a3).hub = a1.hub ∧ (State.mark a1 a2 a3).err = a1.err ∧ (State.mark a1 a2 a3).mem = a1.mem ∧ (State.mark a1 a2 a3).cle = a1.cle ∧ (State.mark a1 a2 a3).pue0 = a1.pue0 ∧ (State.mark a1 a2 a3).pue1 = a1.pue1 ∧ (State.mark a1 a2 a3).pwr = a1.pwr ∧ (State.mark a1 a2 a3).fab = a1.fab ∧ (State.mark a1 a2 a3).pmu = a1.pmu ∧ (State.mark a1 a2 a3).mss = a1.mss ∧ (State.mark a1 a2 a3).sent = a1.sent ∧ (State.mark a1 a2 a3).fresh = a1.fresh ∧ (State.mark a1 a2 a3).routineIds = a1.routineIds ∧ (State.mark a1 a2 a3).pending = a1.pending := by
  simp [State.mark]
@[simp] theorem State.countFallback_frame (a1 : State) (a2) (a3) (a4) : (State.countFallback a1 a2 a3 a4).ident = a1.ident ∧ (State.countFallback a1 a2 a3 a4).nv = a1.nv ∧ (State.countFallback a1 a2 a3 a4).top = a1.top ∧ (State.countFallback a1 a2 a3 a4).cores = a1.cores ∧ (State.countFallback a1 a2 a3 a4).cle = a1.cle ∧ (State.countFallback a1 a2 a3 a4).pue0 = a1.pue0 ∧ (State.countFallback a1 a2 a3 a4).pue1 = a1.pue1 ∧ (State.countFallback a1 a2 a3 a4).fab = a1.fab ∧ (State.countFallback a1 a2 a3 a4).mss = a1.mss ∧ (State.countFallback a1 a2 a3 a4).routineIds = a1.routineIds ∧ (State.countFallback a1 a2 a3 a4).pending = a1.pending := by
  simp only [State.countFallback]
  repeat' split
  all_goals simp
@[simp] theorem rootTile_frame (a1) (a2) (a3) (a4) (a5 : State) (a6) (a7) : (rootTile a1 a2 a3 a4 a5 a6 a7).ident = a5.ident ∧ (rootTile a1 a2 a3 a4 a5 a6 a7).nv = a5.nv ∧ (rootTile a1 a2 a3 a4 a5 a6 a7).top = a5.top ∧ (rootTile a1 a2 a3 a4 a5 a6 a7).cores = a5.cores ∧ (rootTile a1 a2 a3 a4 a5 a6 a7).cle = a5.cle ∧ (rootTile a1 a2 a3 a4 a5 a6 a7).fab = a5.fab ∧ (rootTile a1 a2 a3 a4 a5 a6 a7).mss = a5.mss ∧ (rootTile a1 a2 a3 a4 a5 a6 a7).routineIds = a5.routineIds ∧ (rootTile a1 a2 a3 a4 a5 a6 a7).pending = a5.pending := by
  unfold rootTile
  try dsimp only
  repeat' split
  all_goals simp_all
theorem precondTile_frame {a1} {a2} {a3} {a4} {a5 : State} {a6} {t : State} (h : (precondTile a1 a2 a3 a4 a5 a6) = some t) : t.ident = a5.ident ∧ t.nv = a5.nv ∧ t.top = a5.top ∧ t.cores = a5.cores ∧ t.cle = a5.cle ∧ t.fab = a5.fab ∧ t.mss = a5.mss ∧ t.routineIds = a5.routineIds ∧ t.pending = a5.pending := by
  simp only [precondTile, Option.map_eq_some_iff] at h
  obtain ⟨q, h1, h2⟩ := h
  cases h2
  simp
@[simp] theorem preStep_frame (a1) (a2) (a3) (a4 : State) : (preStep a1 a2 a3 a4).ident = a4.ident ∧ (preStep a1 a2 a3 a4).nv = a4.nv ∧ (preStep a1 a2 a3 a4).top = a4.top ∧ (preStep a1 a2 a3 a4).cle = a4.cle ∧ (preStep a1 a2 a3 a4).fab = a4.fab ∧ (preStep a1 a2 a3 a4).mss = a4.mss ∧ (preStep a1 a2 a3 a4).routineIds = a4.routineIds ∧ (preStep a1 a2 a3 a4).pending = a4.pending := by
  unfold preStep
  try dsimp only
  (repeat' split) <;> first | rfl | (simp; done) | (have hh0 := precondTile_frame ‹precondTile _ _ _ _ _ _ = _›; simp [hh0]; done) | (have hh0 := precondTile_frame ‹precondTile _ _ _ _ _ _ = _›; simp_all; done)
@[simp] theorem runTiles_frame (a1) (a2) (a3) (a4) (a5 : State) : (runTiles a1 a2 a3 a4 a5).ident = a5.ident ∧ (runTiles a1 a2 a3 a4 a5).nv = a5.nv ∧ (runTiles a1 a2 a3 a4 a5).top = a5.top ∧ (runTiles a1 a2 a3 a4 a5).cle = a5.cle ∧ (runTiles a1 a2 a3 a4 a5).fab = a5.fab ∧ (runTiles a1 a2 a3 a4 a5).mss = a5.mss ∧ (runTiles a1 a2 a3 a4 a5).routineIds = a5.routineIds ∧ (runTiles a1 a2 a3 a4 a5).pending = a5.pending := by
  induction a4 generalizing a5 with
  | zero => simp [runTiles]
  | succ n ih =>
    unfold runTiles
    try dsimp only
    repeat' split
    all_goals simp_all
@[simp] theorem State.continuePrecond_frame (a1 : State) (a2) (a3) (a4) (a5) (a6) : (State.continuePrecond a1 a2 a3 a4 a5 a6).ident = a1.ident ∧ (State.continuePrecond a1 a2 a3 a4 a5 a6).nv = a1.nv ∧ (State.continuePrecond a1 a2 a3 a4 a5 a6).top = a1.top ∧ (State.continuePrecond a1 a2 a3 a4 a5 a6).cle = a1.cle ∧ (State.continuePrecond a1 a2 a3 a4 a5 a6).fab = a1.fab ∧ (State.continuePrecond a1 a2 a3 a4 a5 a6).mss = a1.mss ∧ (State.continuePrecond a1 a2 a3 a4 a5 a6).routineIds = a1.routineIds ∧ (State.continuePrecond a1 a2 a3 a4 a5 a6).pending = a1.pending := by
  unfold State.continuePrecond
  try dsimp only
  (repeat' split) <;> first | (simp; done) | exact ⟨State.withCredit_ident _ _ _ (by intros; (try dsimp only); (repeat' split) <;> first | simp), State.withCredit_nv _ _ _ (by intros; (try dsimp only); (repeat' split) <;> first | simp), State.withCredit_top _ _ _ (by intros; (try dsimp only); (repeat' split) <;> first | simp), State.withCredit_cle _ _ _ (by intros; (try dsimp only); (repeat' split) <;> first | simp), State.withCredit_fab _ _ _ (by intros; (try dsimp only); (repeat' split) <;> first | simp), State.withCredit_mss _ _ _ (by intros; (try dsimp only); (repeat' split) <;> first | simp), State.withCredit_routineIds _ _ _ (by intros; (try dsimp only); (repeat' split) <;> first | simp), State.withCredit_pending _ _ _ (by intros; (try dsimp only); (repeat' split) <;> first | simp)⟩
@[simp] theorem startPrecond_frame (a1) (a2) (a3) (a4) (a5 : State) : (startPrecond a1 a2 a3 a4 a5).ident = a5.ident ∧ (startPrecond a1 a2 a3 a4 a5).nv = a5.nv ∧ (startPrecond a1 a2 a3 a4 a5).top = a5.top ∧ (startPrecond a1 a2 a3 a4 a5).cle = a5.cle ∧ (startPrecond a1 a2 a3 a4 a5).fab = a5.fab ∧ (startPrecond a1 a2 a3 a4 a5).mss = a5.mss ∧ (startPrecond a1 a2 a3 a4 a5).routineIds = a5.routineIds ∧ (startPrecond a1 a2 a3 a4 a5).pending = a5.pending := by
  simp [startPrecond]
@[simp] theorem State.snapRefuse_frame (a1 : State) : (State.snapRefuse a1).ident = a1.ident ∧ (State.snapRefuse a1).nv = a1.nv ∧ (State.snapRefuse a1).top = a1.top ∧ (State.snapRefuse a1).cores = a1.cores ∧ (State.snapRefuse a1).mem = a1.mem ∧ (State.snapRefuse a1).cle = a1.cle ∧ (State.snapRefuse a1).pue0 = a1.pue0 ∧ (State.snapRefuse a1).pue1 = a1.pue1 ∧ (State.snapRefuse a1).cke = a1.cke ∧ (State.snapRefuse a1).pwr = a1.pwr ∧ (State.snapRefuse a1).fab = a1.fab ∧ (State.snapRefuse a1).mss = a1.mss ∧ (State.snapRefuse a1).fresh = a1.fresh ∧ (State.snapRefuse a1).routineIds = a1.routineIds ∧ (State.snapRefuse a1).pending = a1.pending := by
  simp [State.snapRefuse]
@[simp] theorem State.startImage_frame (a1 : State) : (State.startImage a1).ident = a1.ident ∧ (State.startImage a1).nv = a1.nv ∧ (State.startImage a1).top = a1.top ∧ (State.startImage a1).cores = a1.cores ∧ (State.startImage a1).mem = a1.mem ∧ (State.startImage a1).cle = a1.cle ∧ (State.startImage a1).pue0 = a1.pue0 ∧ (State.startImage a1).pue1 = a1.pue1 ∧ (State.startImage a1).cke = a1.cke ∧ (State.startImage a1).pwr = a1.pwr ∧ (State.startImage a1).fab = a1.fab ∧ (State.startImage a1).mss = a1.mss ∧ (State.startImage a1).fresh = a1.fresh ∧ (State.startImage a1).routineIds = a1.routineIds ∧ (State.startImage a1).pending = a1.pending := by
  simp only [State.startImage]
  repeat' split
  all_goals simp
@[simp] theorem State.startImages_frame (a1 : State) : (State.startImages a1).ident = a1.ident ∧ (State.startImages a1).nv = a1.nv ∧ (State.startImages a1).top = a1.top ∧ (State.startImages a1).cores = a1.cores ∧ (State.startImages a1).mem = a1.mem ∧ (State.startImages a1).cle = a1.cle ∧ (State.startImages a1).pue0 = a1.pue0 ∧ (State.startImages a1).pue1 = a1.pue1 ∧ (State.startImages a1).cke = a1.cke ∧ (State.startImages a1).pwr = a1.pwr ∧ (State.startImages a1).fab = a1.fab ∧ (State.startImages a1).mss = a1.mss ∧ (State.startImages a1).fresh = a1.fresh ∧ (State.startImages a1).routineIds = a1.routineIds ∧ (State.startImages a1).pending = a1.pending := by
  simp [State.startImages]
@[simp] theorem State.snapNow_frame (a1 : State) (a2) : (State.snapNow a1 a2).ident = a1.ident ∧ (State.snapNow a1 a2).nv = a1.nv ∧ (State.snapNow a1 a2).top = a1.top ∧ (State.snapNow a1 a2).cores = a1.cores ∧ (State.snapNow a1 a2).mem = a1.mem ∧ (State.snapNow a1 a2).cle = a1.cle ∧ (State.snapNow a1 a2).pue0 = a1.pue0 ∧ (State.snapNow a1 a2).pue1 = a1.pue1 ∧ (State.snapNow a1 a2).cke = a1.cke ∧ (State.snapNow a1 a2).pwr = a1.pwr ∧ (State.snapNow a1 a2).fab = a1.fab ∧ (State.snapNow a1 a2).mss = a1.mss ∧ (State.snapNow a1 a2).fresh = a1.fresh ∧ (State.snapNow a1 a2).routineIds = a1.routineIds ∧ (State.snapNow a1 a2).pending = a1.pending := by
  simp [State.snapNow]
@[simp] theorem State.snapTrigger_frame (a1 : State) (a2) : (State.snapTrigger a1 a2).ident = a1.ident ∧ (State.snapTrigger a1 a2).nv = a1.nv ∧ (State.snapTrigger a1 a2).top = a1.top ∧ (State.snapTrigger a1 a2).cores = a1.cores ∧ (State.snapTrigger a1 a2).mem = a1.mem ∧ (State.snapTrigger a1 a2).cle = a1.cle ∧ (State.snapTrigger a1 a2).pue0 = a1.pue0 ∧ (State.snapTrigger a1 a2).pue1 = a1.pue1 ∧ (State.snapTrigger a1 a2).cke = a1.cke ∧ (State.snapTrigger a1 a2).pwr = a1.pwr ∧ (State.snapTrigger a1 a2).fab = a1.fab ∧ (State.snapTrigger a1 a2).mss = a1.mss ∧ (State.snapTrigger a1 a2).fresh = a1.fresh ∧ (State.snapTrigger a1 a2).routineIds = a1.routineIds ∧ (State.snapTrigger a1 a2).pending = a1.pending := by
  simp [State.snapTrigger]
@[simp] theorem State.snapCtlWrite_frame (a1 : State) (a2) : (State.snapCtlWrite a1 a2).ident = a1.ident ∧ (State.snapCtlWrite a1 a2).nv = a1.nv ∧ (State.snapCtlWrite a1 a2).top = a1.top ∧ (State.snapCtlWrite a1 a2).cores = a1.cores ∧ (State.snapCtlWrite a1 a2).mem = a1.mem ∧ (State.snapCtlWrite a1 a2).cle = a1.cle ∧ (State.snapCtlWrite a1 a2).pue0 = a1.pue0 ∧ (State.snapCtlWrite a1 a2).pue1 = a1.pue1 ∧ (State.snapCtlWrite a1 a2).cke = a1.cke ∧ (State.snapCtlWrite a1 a2).pwr = a1.pwr ∧ (State.snapCtlWrite a1 a2).fab = a1.fab ∧ (State.snapCtlWrite a1 a2).mss = a1.mss ∧ (State.snapCtlWrite a1 a2).fresh = a1.fresh ∧ (State.snapCtlWrite a1 a2).routineIds = a1.routineIds ∧ (State.snapCtlWrite a1 a2).pending = a1.pending := by
  simp [State.snapCtlWrite]
@[simp] theorem State.globalCtlWrite_frame (a1 : State) (a2) : (State.globalCtlWrite a1 a2).ident = a1.ident ∧ (State.globalCtlWrite a1 a2).nv = a1.nv ∧ (State.globalCtlWrite a1 a2).top = a1.top ∧ (State.globalCtlWrite a1 a2).cores = a1.cores ∧ (State.globalCtlWrite a1 a2).hub = a1.hub ∧ (State.globalCtlWrite a1 a2).err = a1.err ∧ (State.globalCtlWrite a1 a2).mem = a1.mem ∧ (State.globalCtlWrite a1 a2).cle = a1.cle ∧ (State.globalCtlWrite a1 a2).pue0 = a1.pue0 ∧ (State.globalCtlWrite a1 a2).pue1 = a1.pue1 ∧ (State.globalCtlWrite a1 a2).cke = a1.cke ∧ (State.globalCtlWrite a1 a2).pwr = a1.pwr ∧ (State.globalCtlWrite a1 a2).fab = a1.fab ∧ (State.globalCtlWrite a1 a2).mss = a1.mss ∧ (State.globalCtlWrite a1 a2).sent = a1.sent ∧ (State.globalCtlWrite a1 a2).fresh = a1.fresh ∧ (State.globalCtlWrite a1 a2).routineIds = a1.routineIds ∧ (State.globalCtlWrite a1 a2).pending = a1.pending := by
  simp [State.globalCtlWrite]
@[simp] theorem State.latchCounters_frame (a1 : State) (a2) (a3) (a4) : (State.latchCounters a1 a2 a3 a4).ident = a1.ident ∧ (State.latchCounters a1 a2 a3 a4).nv = a1.nv ∧ (State.latchCounters a1 a2 a3 a4).top = a1.top ∧ (State.latchCounters a1 a2 a3 a4).mem = a1.mem ∧ (State.latchCounters a1 a2 a3 a4).cle = a1.cle ∧ (State.latchCounters a1 a2 a3 a4).pue0 = a1.pue0 ∧ (State.latchCounters a1 a2 a3 a4).pue1 = a1.pue1 ∧ (State.latchCounters a1 a2 a3 a4).cke = a1.cke ∧ (State.latchCounters a1 a2 a3 a4).pwr = a1.pwr ∧ (State.latchCounters a1 a2 a3 a4).fab = a1.fab ∧ (State.latchCounters a1 a2 a3 a4).mss = a1.mss ∧ (State.latchCounters a1 a2 a3 a4).fresh = a1.fresh ∧ (State.latchCounters a1 a2 a3 a4).routineIds = a1.routineIds ∧ (State.latchCounters a1 a2 a3 a4).pending = a1.pending := by
  simp [State.latchCounters]
@[simp] theorem State.sampleLost_frame (a1 : State) (a2) : (State.sampleLost a1 a2).ident = a1.ident ∧ (State.sampleLost a1 a2).nv = a1.nv ∧ (State.sampleLost a1 a2).top = a1.top ∧ (State.sampleLost a1 a2).mem = a1.mem ∧ (State.sampleLost a1 a2).cle = a1.cle ∧ (State.sampleLost a1 a2).pue0 = a1.pue0 ∧ (State.sampleLost a1 a2).pue1 = a1.pue1 ∧ (State.sampleLost a1 a2).cke = a1.cke ∧ (State.sampleLost a1 a2).pwr = a1.pwr ∧ (State.sampleLost a1 a2).fab = a1.fab ∧ (State.sampleLost a1 a2).mss = a1.mss ∧ (State.sampleLost a1 a2).fresh = a1.fresh ∧ (State.sampleLost a1 a2).routineIds = a1.routineIds ∧ (State.sampleLost a1 a2).pending = a1.pending := by
  simp [State.sampleLost]
@[simp] theorem State.writeSample_frame (a1 : State) (a2) (a3) : (State.writeSample a1 a2 a3).ident = a1.ident ∧ (State.writeSample a1 a2 a3).nv = a1.nv ∧ (State.writeSample a1 a2 a3).top = a1.top ∧ (State.writeSample a1 a2 a3).cle = a1.cle ∧ (State.writeSample a1 a2 a3).pue0 = a1.pue0 ∧ (State.writeSample a1 a2 a3).pue1 = a1.pue1 ∧ (State.writeSample a1 a2 a3).cke = a1.cke ∧ (State.writeSample a1 a2 a3).fab = a1.fab ∧ (State.writeSample a1 a2 a3).mss = a1.mss ∧ (State.writeSample a1 a2 a3).routineIds = a1.routineIds ∧ (State.writeSample a1 a2 a3).pending = a1.pending := by
  simp [State.writeSample]
theorem State.takeSample_frame {a1 : State} {a2} {a3} {p0} {t : State} (h : (State.takeSample a1 a2 a3) = some (p0, t)) : t.ident = a1.ident ∧ t.nv = a1.nv ∧ t.top = a1.top ∧ t.hub = a1.hub ∧ t.err = a1.err ∧ t.mem = a1.mem ∧ t.cle = a1.cle ∧ t.pue0 = a1.pue0 ∧ t.pue1 = a1.pue1 ∧ t.cke = a1.cke ∧ t.pwr = a1.pwr ∧ t.fab = a1.fab ∧ t.pmu = a1.pmu ∧ t.mss = a1.mss ∧ t.sent = a1.sent ∧ t.fresh = a1.fresh ∧ t.routineIds = a1.routineIds ∧ t.pending = a1.pending := by
  simp only [State.takeSample, Option.map_eq_some_iff] at h
  obtain ⟨q, h1, h2⟩ := h
  cases h2
  simp
@[simp] theorem State.sendCke_frame (a1 : State) (a2) (a3) (a4) : (State.sendCke a1 a2 a3 a4).ident = a1.ident ∧ (State.sendCke a1 a2 a3 a4).nv = a1.nv ∧ (State.sendCke a1 a2 a3 a4).top = a1.top ∧ (State.sendCke a1 a2 a3 a4).cores = a1.cores ∧ (State.sendCke a1 a2 a3 a4).mem = a1.mem ∧ (State.sendCke a1 a2 a3 a4).cle = a1.cle ∧ (State.sendCke a1 a2 a3 a4).pue0 = a1.pue0 ∧ (State.sendCke a1 a2 a3 a4).pue1 = a1.pue1 ∧ (State.sendCke a1 a2 a3 a4).cke = a1.cke ∧ (State.sendCke a1 a2 a3 a4).pwr = a1.pwr ∧ (State.sendCke a1 a2 a3 a4).mss = a1.mss ∧ (State.sendCke a1 a2 a3 a4).fresh = a1.fresh ∧ (State.sendCke a1 a2 a3 a4).routineIds = a1.routineIds ∧ (State.sendCke a1 a2 a3 a4).pending = a1.pending := by
  simp [State.sendCke]
@[simp] theorem State.sendCkeAll_frame (a1 : State) (a2) (a3) (a4) : (State.sendCkeAll a1 a2 a3 a4).ident = a1.ident ∧ (State.sendCkeAll a1 a2 a3 a4).nv = a1.nv ∧ (State.sendCkeAll a1 a2 a3 a4).top = a1.top ∧ (State.sendCkeAll a1 a2 a3 a4).cores = a1.cores ∧ (State.sendCkeAll a1 a2 a3 a4).mem = a1.mem ∧ (State.sendCkeAll a1 a2 a3 a4).cle = a1.cle ∧ (State.sendCkeAll a1 a2 a3 a4).pue0 = a1.pue0 ∧ (State.sendCkeAll a1 a2 a3 a4).pue1 = a1.pue1 ∧ (State.sendCkeAll a1 a2 a3 a4).cke = a1.cke ∧ (State.sendCkeAll a1 a2 a3 a4).pwr = a1.pwr ∧ (State.sendCkeAll a1 a2 a3 a4).mss = a1.mss ∧ (State.sendCkeAll a1 a2 a3 a4).fresh = a1.fresh ∧ (State.sendCkeAll a1 a2 a3 a4).routineIds = a1.routineIds ∧ (State.sendCkeAll a1 a2 a3 a4).pending = a1.pending := by
  simp [State.sendCkeAll]
theorem State.takeCke_frame {a1 : State} {a2} {p0 p1} {t : State} (h : (State.takeCke a1 a2) = some (p0, p1, t)) : t.ident = a1.ident ∧ t.nv = a1.nv ∧ t.top = a1.top ∧ t.cores = a1.cores ∧ t.hub = a1.hub ∧ t.err = a1.err ∧ t.mem = a1.mem ∧ t.cle = a1.cle ∧ t.pue0 = a1.pue0 ∧ t.pue1 = a1.pue1 ∧ t.cke = a1.cke ∧ t.pwr = a1.pwr ∧ t.pmu = a1.pmu ∧ t.mss = a1.mss ∧ t.fresh = a1.fresh ∧ t.routineIds = a1.routineIds ∧ t.pending = a1.pending := by
  simp only [State.takeCke, Option.map_eq_some_iff] at h
  obtain ⟨⟨q, u⟩, h1, h2⟩ := h
  cases h2
  exact State.takeInbox_frame h1
@[simp] theorem State.tryDecide_frame (a1 : State) : (State.tryDecide a1).ident = a1.ident ∧ (State.tryDecide a1).nv = a1.nv ∧ (State.tryDecide a1).top = a1.top ∧ (State.tryDecide a1).cores = a1.cores ∧ (State.tryDecide a1).hub = a1.hub ∧ (State.tryDecide a1).err = a1.err ∧ (State.tryDecide a1).mem = a1.mem ∧ (State.tryDecide a1).cle = a1.cle ∧ (State.tryDecide a1).pue0 = a1.pue0 ∧ (State.tryDecide a1).pue1 = a1.pue1 ∧ (State.tryDecide a1).pwr = a1.pwr ∧ (State.tryDecide a1).fab = a1.fab ∧ (State.tryDecide a1).pmu = a1.pmu ∧ (State.tryDecide a1).mss = a1.mss ∧ (State.tryDecide a1).sent = a1.sent ∧ (State.tryDecide a1).fresh = a1.fresh ∧ (State.tryDecide a1).routineIds = a1.routineIds ∧ (State.tryDecide a1).pending = a1.pending := by
  simp [State.tryDecide]
@[simp] theorem State.sendVote_frame (a1 : State) : (State.sendVote a1).ident = a1.ident ∧ (State.sendVote a1).nv = a1.nv ∧ (State.sendVote a1).top = a1.top ∧ (State.sendVote a1).cores = a1.cores ∧ (State.sendVote a1).mem = a1.mem ∧ (State.sendVote a1).cle = a1.cle ∧ (State.sendVote a1).pue0 = a1.pue0 ∧ (State.sendVote a1).pue1 = a1.pue1 ∧ (State.sendVote a1).cke = a1.cke ∧ (State.sendVote a1).pwr = a1.pwr ∧ (State.sendVote a1).mss = a1.mss ∧ (State.sendVote a1).fresh = a1.fresh ∧ (State.sendVote a1).routineIds = a1.routineIds ∧ (State.sendVote a1).pending = a1.pending := by
  simp only [State.sendVote]
  repeat' split
  all_goals simp
@[simp] theorem State.tryVote_frame (a1 : State) : (State.tryVote a1).ident = a1.ident ∧ (State.tryVote a1).nv = a1.nv ∧ (State.tryVote a1).top = a1.top ∧ (State.tryVote a1).cores = a1.cores ∧ (State.tryVote a1).mem = a1.mem ∧ (State.tryVote a1).cle = a1.cle ∧ (State.tryVote a1).pue0 = a1.pue0 ∧ (State.tryVote a1).pue1 = a1.pue1 ∧ (State.tryVote a1).pwr = a1.pwr ∧ (State.tryVote a1).mss = a1.mss ∧ (State.tryVote a1).fresh = a1.fresh ∧ (State.tryVote a1).routineIds = a1.routineIds ∧ (State.tryVote a1).pending = a1.pending := by
  simp [State.tryVote]
@[simp] theorem State.learnLoss_frame (a1 : State) (a2) : (State.learnLoss a1 a2).ident = a1.ident ∧ (State.learnLoss a1 a2).nv = a1.nv ∧ (State.learnLoss a1 a2).top = a1.top ∧ (State.learnLoss a1 a2).cores = a1.cores ∧ (State.learnLoss a1 a2).pue0 = a1.pue0 ∧ (State.learnLoss a1 a2).pue1 = a1.pue1 ∧ (State.learnLoss a1 a2).mss = a1.mss ∧ (State.learnLoss a1 a2).routineIds = a1.routineIds ∧ (State.learnLoss a1 a2).pending = a1.pending := by
  simp [State.learnLoss]
@[simp] theorem State.spreadLoss_frame (a1 : State) (a2) : (State.spreadLoss a1 a2).ident = a1.ident ∧ (State.spreadLoss a1 a2).nv = a1.nv ∧ (State.spreadLoss a1 a2).top = a1.top ∧ (State.spreadLoss a1 a2).cores = a1.cores ∧ (State.spreadLoss a1 a2).pue0 = a1.pue0 ∧ (State.spreadLoss a1 a2).pue1 = a1.pue1 ∧ (State.spreadLoss a1 a2).mss = a1.mss ∧ (State.spreadLoss a1 a2).routineIds = a1.routineIds ∧ (State.spreadLoss a1 a2).pending = a1.pending := by
  simp [State.spreadLoss]
@[simp] theorem State.declareLost_frame (a1 : State) (a2) : (State.declareLost a1 a2).ident = a1.ident ∧ (State.declareLost a1 a2).nv = a1.nv ∧ (State.declareLost a1 a2).top = a1.top ∧ (State.declareLost a1 a2).cores = a1.cores ∧ (State.declareLost a1 a2).pue0 = a1.pue0 ∧ (State.declareLost a1 a2).pue1 = a1.pue1 ∧ (State.declareLost a1 a2).mss = a1.mss ∧ (State.declareLost a1 a2).routineIds = a1.routineIds ∧ (State.declareLost a1 a2).pending = a1.pending := by
  simp [State.declareLost]
@[simp] theorem State.probeOne_frame (a1 : State) (a2) : (State.probeOne a1 a2).ident = a1.ident ∧ (State.probeOne a1 a2).nv = a1.nv ∧ (State.probeOne a1 a2).top = a1.top ∧ (State.probeOne a1 a2).cores = a1.cores ∧ (State.probeOne a1 a2).pue0 = a1.pue0 ∧ (State.probeOne a1 a2).pue1 = a1.pue1 ∧ (State.probeOne a1 a2).mss = a1.mss ∧ (State.probeOne a1 a2).routineIds = a1.routineIds ∧ (State.probeOne a1 a2).pending = a1.pending := by
  simp [State.probeOne]
@[simp] theorem State.takeDecision_frame (a1 : State) (a2) : (State.takeDecision a1 a2).2.ident = a1.ident ∧ (State.takeDecision a1 a2).2.nv = a1.nv ∧ (State.takeDecision a1 a2).2.top = a1.top ∧ (State.takeDecision a1 a2).2.cores = a1.cores ∧ (State.takeDecision a1 a2).2.mem = a1.mem ∧ (State.takeDecision a1 a2).2.cle = a1.cle ∧ (State.takeDecision a1 a2).2.pue0 = a1.pue0 ∧ (State.takeDecision a1 a2).2.pue1 = a1.pue1 ∧ (State.takeDecision a1 a2).2.pwr = a1.pwr ∧ (State.takeDecision a1 a2).2.mss = a1.mss ∧ (State.takeDecision a1 a2).2.fresh = a1.fresh ∧ (State.takeDecision a1 a2).2.routineIds = a1.routineIds ∧ (State.takeDecision a1 a2).2.pending = a1.pending := by
  unfold State.takeDecision
  try dsimp only
  (repeat' split) <;> first | rfl | (simp_all; done) | (have hh := State.takeInbox_frame ‹State.takeInbox _ _ = _›; simp_all; done) | (have hh := State.takeInbox_frame ‹State.takeInbox _ _ = _›; simp [hh]; done) | (have hh := State.takeForward_frame ‹State.takeForward _ = _›; simp_all; done) | (have hh := State.takeForward_frame ‹State.takeForward _ = _›; simp [hh]; done) | (have hh := State.takeType_frame ‹State.takeType _ _ = _›; simp_all; done) | (have hh := State.takeType_frame ‹State.takeType _ _ = _›; simp [hh]; done) | (have hh := State.takeReq_frame ‹State.takeReq _ _ = _›; simp_all; done) | (have hh := State.takeReq_frame ‹State.takeReq _ _ = _›; simp [hh]; done) | (have hh := startHub_frame ‹startHub _ _ _ = _›; simp_all; done) | (have hh := startHub_frame ‹startHub _ _ _ = _›; simp [hh]; done) | (have hh := State.takeStream_frame ‹State.takeStream _ _ _ = _›; simp_all; done) | (have hh := State.takeStream_frame ‹State.takeStream _ _ _ = _›; simp [hh]; done) | (have hh := precondTile_frame ‹precondTile _ _ _ _ _ _ = _›; simp_all; done) | (have hh := precondTile_frame ‹precondTile _ _ _ _ _ _ = _›; simp [hh]; done) | (have hh := State.takeSample_frame ‹State.takeSample _ _ _ = _›; simp_all; done) | (have hh := State.takeSample_frame ‹State.takeSample _ _ _ = _›; simp [hh]; done) | (have hh := State.takeCke_frame ‹State.takeCke _ _ = _›; simp_all; done) | (have hh := State.takeCke_frame ‹State.takeCke _ _ = _›; simp [hh]; done)
@[simp] theorem State.addLost_frame (a1 : State) (a2) : (State.addLost a1 a2).ident = a1.ident ∧ (State.addLost a1 a2).nv = a1.nv ∧ (State.addLost a1 a2).top = a1.top ∧ (State.addLost a1 a2).cores = a1.cores ∧ (State.addLost a1 a2).mem = a1.mem ∧ (State.addLost a1 a2).cle = a1.cle ∧ (State.addLost a1 a2).pue0 = a1.pue0 ∧ (State.addLost a1 a2).pue1 = a1.pue1 ∧ (State.addLost a1 a2).pwr = a1.pwr ∧ (State.addLost a1 a2).fab = a1.fab ∧ (State.addLost a1 a2).mss = a1.mss ∧ (State.addLost a1 a2).fresh = a1.fresh ∧ (State.addLost a1 a2).routineIds = a1.routineIds ∧ (State.addLost a1 a2).pending = a1.pending := by
  simp [State.addLost]
@[simp] theorem State.gateHalt_frame (a1 : State) (a2) (a3) (a4) : (State.gateHalt a1 a2 a3 a4).ident = a1.ident ∧ (State.gateHalt a1 a2 a3 a4).nv = a1.nv ∧ (State.gateHalt a1 a2 a3 a4).top = a1.top ∧ (State.gateHalt a1 a2 a3 a4).mem = a1.mem ∧ (State.gateHalt a1 a2 a3 a4).cle = a1.cle ∧ (State.gateHalt a1 a2 a3 a4).pue0 = a1.pue0 ∧ (State.gateHalt a1 a2 a3 a4).pue1 = a1.pue1 ∧ (State.gateHalt a1 a2 a3 a4).pwr = a1.pwr ∧ (State.gateHalt a1 a2 a3 a4).fab = a1.fab ∧ (State.gateHalt a1 a2 a3 a4).mss = a1.mss ∧ (State.gateHalt a1 a2 a3 a4).fresh = a1.fresh ∧ (State.gateHalt a1 a2 a3 a4).routineIds = a1.routineIds ∧ (State.gateHalt a1 a2 a3 a4).pending = a1.pending := by
  simp [State.gateHalt]
@[simp] theorem State.suspendNow_frame (a1 : State) : (State.suspendNow a1).ident = a1.ident ∧ (State.suspendNow a1).nv = a1.nv ∧ (State.suspendNow a1).top = a1.top ∧ (State.suspendNow a1).hub = a1.hub ∧ (State.suspendNow a1).err = a1.err ∧ (State.suspendNow a1).mem = a1.mem ∧ (State.suspendNow a1).cle = a1.cle ∧ (State.suspendNow a1).pue0 = a1.pue0 ∧ (State.suspendNow a1).pue1 = a1.pue1 ∧ (State.suspendNow a1).cke = a1.cke ∧ (State.suspendNow a1).pwr = a1.pwr ∧ (State.suspendNow a1).fab = a1.fab ∧ (State.suspendNow a1).pmu = a1.pmu ∧ (State.suspendNow a1).mss = a1.mss ∧ (State.suspendNow a1).sent = a1.sent ∧ (State.suspendNow a1).fresh = a1.fresh ∧ (State.suspendNow a1).routineIds = a1.routineIds ∧ (State.suspendNow a1).pending = a1.pending := by
  simp [State.suspendNow]
@[simp] theorem applyDecision_ident (a1) (a2) (a3 : State) (ha2 : ∀ y0 y1, (a2 y0 y1).ident = y0.ident) : (applyDecision a1 a2 a3).ident = a3.ident := by
  have hh := State.takeDecision_frame a3 a1
  unfold applyDecision
  (repeat' split) <;> simp_all
@[simp] theorem applyDecision_nv (a1) (a2) (a3 : State) (ha2 : ∀ y0 y1, (a2 y0 y1).nv = y0.nv) : (applyDecision a1 a2 a3).nv = a3.nv := by
  have hh := State.takeDecision_frame a3 a1
  unfold applyDecision
  (repeat' split) <;> simp_all
@[simp] theorem applyDecision_top (a1) (a2) (a3 : State) (ha2 : ∀ y0 y1, (a2 y0 y1).top = y0.top) : (applyDecision a1 a2 a3).top = a3.top := by
  have hh := State.takeDecision_frame a3 a1
  unfold applyDecision
  (repeat' split) <;> simp_all
@[simp] theorem applyDecision_mem (a1) (a2) (a3 : State) (ha2 : ∀ y0 y1, (a2 y0 y1).mem = y0.mem) : (applyDecision a1 a2 a3).mem = a3.mem := by
  have hh := State.takeDecision_frame a3 a1
  unfold applyDecision
  (repeat' split) <;> simp_all
@[simp] theorem applyDecision_cle (a1) (a2) (a3 : State) (ha2 : ∀ y0 y1, (a2 y0 y1).cle = y0.cle) : (applyDecision a1 a2 a3).cle = a3.cle := by
  have hh := State.takeDecision_frame a3 a1
  unfold applyDecision
  (repeat' split) <;> simp_all
@[simp] theorem applyDecision_pue0 (a1) (a2) (a3 : State) (ha2 : ∀ y0 y1, (a2 y0 y1).pue0 = y0.pue0) : (applyDecision a1 a2 a3).pue0 = a3.pue0 := by
  have hh := State.takeDecision_frame a3 a1
  unfold applyDecision
  (repeat' split) <;> simp_all
@[simp] theorem applyDecision_pue1 (a1) (a2) (a3 : State) (ha2 : ∀ y0 y1, (a2 y0 y1).pue1 = y0.pue1) : (applyDecision a1 a2 a3).pue1 = a3.pue1 := by
  have hh := State.takeDecision_frame a3 a1
  unfold applyDecision
  (repeat' split) <;> simp_all
@[simp] theorem applyDecision_pwr (a1) (a2) (a3 : State) (ha2 : ∀ y0 y1, (a2 y0 y1).pwr = y0.pwr) : (applyDecision a1 a2 a3).pwr = a3.pwr := by
  have hh := State.takeDecision_frame a3 a1
  unfold applyDecision
  (repeat' split) <;> simp_all
@[simp] theorem applyDecision_mss (a1) (a2) (a3 : State) (ha2 : ∀ y0 y1, (a2 y0 y1).mss = y0.mss) : (applyDecision a1 a2 a3).mss = a3.mss := by
  have hh := State.takeDecision_frame a3 a1
  unfold applyDecision
  (repeat' split) <;> simp_all
@[simp] theorem applyDecision_fresh (a1) (a2) (a3 : State) (ha2 : ∀ y0 y1, (a2 y0 y1).fresh = y0.fresh) : (applyDecision a1 a2 a3).fresh = a3.fresh := by
  have hh := State.takeDecision_frame a3 a1
  unfold applyDecision
  (repeat' split) <;> simp_all
@[simp] theorem applyDecision_routineIds (a1) (a2) (a3 : State) (ha2 : ∀ y0 y1, (a2 y0 y1).routineIds = y0.routineIds) : (applyDecision a1 a2 a3).routineIds = a3.routineIds := by
  have hh := State.takeDecision_frame a3 a1
  unfold applyDecision
  (repeat' split) <;> simp_all
@[simp] theorem applyDecision_pending (a1) (a2) (a3 : State) (ha2 : ∀ y0 y1, (a2 y0 y1).pending = y0.pending) : (applyDecision a1 a2 a3).pending = a3.pending := by
  have hh := State.takeDecision_frame a3 a1
  unfold applyDecision
  (repeat' split) <;> simp_all
@[simp] theorem State.loadSeeds_frame (a1 : State) (a2) : (State.loadSeeds a1 a2).ident = a1.ident ∧ (State.loadSeeds a1 a2).nv = a1.nv ∧ (State.loadSeeds a1 a2).top = a1.top ∧ (State.loadSeeds a1 a2).hub = a1.hub ∧ (State.loadSeeds a1 a2).err = a1.err ∧ (State.loadSeeds a1 a2).mem = a1.mem ∧ (State.loadSeeds a1 a2).cle = a1.cle ∧ (State.loadSeeds a1 a2).pue0 = a1.pue0 ∧ (State.loadSeeds a1 a2).pue1 = a1.pue1 ∧ (State.loadSeeds a1 a2).cke = a1.cke ∧ (State.loadSeeds a1 a2).pwr = a1.pwr ∧ (State.loadSeeds a1 a2).fab = a1.fab ∧ (State.loadSeeds a1 a2).pmu = a1.pmu ∧ (State.loadSeeds a1 a2).mss = a1.mss ∧ (State.loadSeeds a1 a2).sent = a1.sent ∧ (State.loadSeeds a1 a2).fresh = a1.fresh ∧ (State.loadSeeds a1 a2).routineIds = a1.routineIds ∧ (State.loadSeeds a1 a2).pending = a1.pending := by
  simp [State.loadSeeds]
@[simp] theorem commitStep_frame (a1 : State) (a2) : (commitStep a1 a2).ident = a1.ident ∧ (commitStep a1 a2).nv = a1.nv ∧ (commitStep a1 a2).top = a1.top ∧ (commitStep a1 a2).pue0 = a1.pue0 ∧ (commitStep a1 a2).pue1 = a1.pue1 ∧ (commitStep a1 a2).fab = a1.fab ∧ (commitStep a1 a2).mss = a1.mss ∧ (commitStep a1 a2).routineIds = a1.routineIds ∧ (commitStep a1 a2).pending = a1.pending := by
  simp [commitStep]
@[simp] theorem undoBlock_frame (a1) (a2) (a3) (a4 : State) (a5) : (undoBlock a1 a2 a3 a4 a5).ident = a4.ident ∧ (undoBlock a1 a2 a3 a4 a5).nv = a4.nv ∧ (undoBlock a1 a2 a3 a4 a5).top = a4.top ∧ (undoBlock a1 a2 a3 a4 a5).cores = a4.cores ∧ (undoBlock a1 a2 a3 a4 a5).cle = a4.cle ∧ (undoBlock a1 a2 a3 a4 a5).pue0 = a4.pue0 ∧ (undoBlock a1 a2 a3 a4 a5).pue1 = a4.pue1 ∧ (undoBlock a1 a2 a3 a4 a5).fab = a4.fab ∧ (undoBlock a1 a2 a3 a4 a5).mss = a4.mss ∧ (undoBlock a1 a2 a3 a4 a5).routineIds = a4.routineIds ∧ (undoBlock a1 a2 a3 a4 a5).pending = a4.pending := by
  simp only [undoBlock]
  repeat' split
  all_goals simp
@[simp] theorem State.undoStep_frame (a1 : State) (a2) : (State.undoStep a1 a2).ident = a1.ident ∧ (State.undoStep a1 a2).nv = a1.nv ∧ (State.undoStep a1 a2).top = a1.top ∧ (State.undoStep a1 a2).cores = a1.cores ∧ (State.undoStep a1 a2).cle = a1.cle ∧ (State.undoStep a1 a2).pue0 = a1.pue0 ∧ (State.undoStep a1 a2).pue1 = a1.pue1 ∧ (State.undoStep a1 a2).fab = a1.fab ∧ (State.undoStep a1 a2).mss = a1.mss ∧ (State.undoStep a1 a2).routineIds = a1.routineIds ∧ (State.undoStep a1 a2).pending = a1.pending := by
  simp [State.undoStep]
@[simp] theorem abortStep_frame (a1 : State) (a2) : (abortStep a1 a2).ident = a1.ident ∧ (abortStep a1 a2).nv = a1.nv ∧ (abortStep a1 a2).top = a1.top ∧ (abortStep a1 a2).pue0 = a1.pue0 ∧ (abortStep a1 a2).pue1 = a1.pue1 ∧ (abortStep a1 a2).fab = a1.fab ∧ (abortStep a1 a2).mss = a1.mss ∧ (abortStep a1 a2).routineIds = a1.routineIds ∧ (abortStep a1 a2).pending = a1.pending := by
  simp [abortStep]
@[simp] theorem rerunShard_frame (a1 : State) (a2) : (rerunShard a1 a2).ident = a1.ident ∧ (rerunShard a1 a2).nv = a1.nv ∧ (rerunShard a1 a2).top = a1.top ∧ (rerunShard a1 a2).mss = a1.mss ∧ (rerunShard a1 a2).routineIds = a1.routineIds ∧ (rerunShard a1 a2).pending = a1.pending := by
  simp only [rerunShard]
  repeat' split
  all_goals simp
@[simp] theorem retryStep_frame (a1 : State) (a2) : (retryStep a1 a2).ident = a1.ident ∧ (retryStep a1 a2).nv = a1.nv ∧ (retryStep a1 a2).top = a1.top ∧ (retryStep a1 a2).mss = a1.mss ∧ (retryStep a1 a2).routineIds = a1.routineIds ∧ (retryStep a1 a2).pending = a1.pending := by
  simp [retryStep]
@[simp] theorem State.ckeCtlWrite_frame (a1 : State) (a2) : (State.ckeCtlWrite a1 a2).ident = a1.ident ∧ (State.ckeCtlWrite a1 a2).nv = a1.nv ∧ (State.ckeCtlWrite a1 a2).cores = a1.cores ∧ (State.ckeCtlWrite a1 a2).mem = a1.mem ∧ (State.ckeCtlWrite a1 a2).cle = a1.cle ∧ (State.ckeCtlWrite a1 a2).pue0 = a1.pue0 ∧ (State.ckeCtlWrite a1 a2).pue1 = a1.pue1 ∧ (State.ckeCtlWrite a1 a2).pwr = a1.pwr ∧ (State.ckeCtlWrite a1 a2).fab = a1.fab ∧ (State.ckeCtlWrite a1 a2).mss = a1.mss ∧ (State.ckeCtlWrite a1 a2).fresh = a1.fresh ∧ (State.ckeCtlWrite a1 a2).routineIds = a1.routineIds ∧ (State.ckeCtlWrite a1 a2).pending = a1.pending := by
  simp [State.ckeCtlWrite]
@[simp] theorem putPiece_frame (a1) (a2) (a3) (a4) : (putPiece a1 a2 a3 a4).2.ident = a3.2.ident ∧ (putPiece a1 a2 a3 a4).2.nv = a3.2.nv ∧ (putPiece a1 a2 a3 a4).2.top = a3.2.top ∧ (putPiece a1 a2 a3 a4).2.cores = a3.2.cores ∧ (putPiece a1 a2 a3 a4).2.mem = a3.2.mem ∧ (putPiece a1 a2 a3 a4).2.cle = a3.2.cle ∧ (putPiece a1 a2 a3 a4).2.pue0 = a3.2.pue0 ∧ (putPiece a1 a2 a3 a4).2.pue1 = a3.2.pue1 ∧ (putPiece a1 a2 a3 a4).2.cke = a3.2.cke ∧ (putPiece a1 a2 a3 a4).2.pwr = a3.2.pwr ∧ (putPiece a1 a2 a3 a4).2.mss = a3.2.mss ∧ (putPiece a1 a2 a3 a4).2.fresh = a3.2.fresh ∧ (putPiece a1 a2 a3 a4).2.routineIds = a3.2.routineIds ∧ (putPiece a1 a2 a3 a4).2.pending = a3.2.pending := by
  unfold putPiece
  try dsimp only
  repeat' split
  all_goals simp_all
@[simp] theorem issuePuts_frame (a1) (a2) (a3) (a4 : State) : (issuePuts a1 a2 a3 a4).2.ident = a4.ident ∧ (issuePuts a1 a2 a3 a4).2.nv = a4.nv ∧ (issuePuts a1 a2 a3 a4).2.top = a4.top ∧ (issuePuts a1 a2 a3 a4).2.cores = a4.cores ∧ (issuePuts a1 a2 a3 a4).2.mem = a4.mem ∧ (issuePuts a1 a2 a3 a4).2.cle = a4.cle ∧ (issuePuts a1 a2 a3 a4).2.pue0 = a4.pue0 ∧ (issuePuts a1 a2 a3 a4).2.pue1 = a4.pue1 ∧ (issuePuts a1 a2 a3 a4).2.cke = a4.cke ∧ (issuePuts a1 a2 a3 a4).2.pwr = a4.pwr ∧ (issuePuts a1 a2 a3 a4).2.mss = a4.mss ∧ (issuePuts a1 a2 a3 a4).2.fresh = a4.fresh ∧ (issuePuts a1 a2 a3 a4).2.routineIds = a4.routineIds ∧ (issuePuts a1 a2 a3 a4).2.pending = a4.pending := by
  simp [issuePuts]
@[simp] theorem State.settleReshard_frame (a1 : State) : (State.settleReshard a1).ident = a1.ident ∧ (State.settleReshard a1).nv = a1.nv ∧ (State.settleReshard a1).top = a1.top ∧ (State.settleReshard a1).cle = a1.cle ∧ (State.settleReshard a1).pue0 = a1.pue0 ∧ (State.settleReshard a1).pue1 = a1.pue1 ∧ (State.settleReshard a1).mss = a1.mss ∧ (State.settleReshard a1).routineIds = a1.routineIds ∧ (State.settleReshard a1).pending = a1.pending := by
  simp only [State.settleReshard]
  repeat' split
  all_goals simp
@[simp] theorem State.readsSlots_frame (a1 : State) (a2) : (State.readsSlots a1 a2).ident = a1.ident ∧ (State.readsSlots a1 a2).nv = a1.nv ∧ (State.readsSlots a1 a2).top = a1.top ∧ (State.readsSlots a1 a2).cores = a1.cores ∧ (State.readsSlots a1 a2).cle = a1.cle ∧ (State.readsSlots a1 a2).pue0 = a1.pue0 ∧ (State.readsSlots a1 a2).pue1 = a1.pue1 ∧ (State.readsSlots a1 a2).fab = a1.fab ∧ (State.readsSlots a1 a2).mss = a1.mss ∧ (State.readsSlots a1 a2).routineIds = a1.routineIds ∧ (State.readsSlots a1 a2).pending = a1.pending := by
  simp [State.readsSlots]
@[simp] theorem State.settleCkpt_frame (a1 : State) : (State.settleCkpt a1).ident = a1.ident ∧ (State.settleCkpt a1).nv = a1.nv ∧ (State.settleCkpt a1).top = a1.top ∧ (State.settleCkpt a1).cle = a1.cle ∧ (State.settleCkpt a1).pue0 = a1.pue0 ∧ (State.settleCkpt a1).pue1 = a1.pue1 ∧ (State.settleCkpt a1).mss = a1.mss ∧ (State.settleCkpt a1).routineIds = a1.routineIds ∧ (State.settleCkpt a1).pending = a1.pending := by
  simp only [State.settleCkpt]
  repeat' split
  all_goals simp
@[simp] theorem State.restoreFail_frame (a1 : State) : (State.restoreFail a1).ident = a1.ident ∧ (State.restoreFail a1).nv = a1.nv ∧ (State.restoreFail a1).top = a1.top ∧ (State.restoreFail a1).mem = a1.mem ∧ (State.restoreFail a1).cle = a1.cle ∧ (State.restoreFail a1).pue0 = a1.pue0 ∧ (State.restoreFail a1).pue1 = a1.pue1 ∧ (State.restoreFail a1).pwr = a1.pwr ∧ (State.restoreFail a1).fab = a1.fab ∧ (State.restoreFail a1).mss = a1.mss ∧ (State.restoreFail a1).fresh = a1.fresh ∧ (State.restoreFail a1).routineIds = a1.routineIds ∧ (State.restoreFail a1).pending = a1.pending := by
  simp [State.restoreFail]
@[simp] theorem askSlots_frame (a1) (a2 : State) : (askSlots a1 a2).ident = a2.ident ∧ (askSlots a1 a2).nv = a2.nv ∧ (askSlots a1 a2).top = a2.top ∧ (askSlots a1 a2).cores = a2.cores ∧ (askSlots a1 a2).mem = a2.mem ∧ (askSlots a1 a2).cle = a2.cle ∧ (askSlots a1 a2).pue0 = a2.pue0 ∧ (askSlots a1 a2).pue1 = a2.pue1 ∧ (askSlots a1 a2).pwr = a2.pwr ∧ (askSlots a1 a2).mss = a2.mss ∧ (askSlots a1 a2).fresh = a2.fresh ∧ (askSlots a1 a2).routineIds = a2.routineIds ∧ (askSlots a1 a2).pending = a2.pending := by
  induction a1 generalizing a2 with
  | zero => simp [askSlots]
  | succ n ih =>
    unfold askSlots
    try dsimp only
    repeat' split
    all_goals simp_all
@[simp] theorem restoreSlot_frame (a1 : State) (a2) (a3) : (restoreSlot a1 a2 a3).ident = a1.ident ∧ (restoreSlot a1 a2 a3).nv = a1.nv ∧ (restoreSlot a1 a2 a3).top = a1.top ∧ (restoreSlot a1 a2 a3).cores = a1.cores ∧ (restoreSlot a1 a2 a3).cle = a1.cle ∧ (restoreSlot a1 a2 a3).pue0 = a1.pue0 ∧ (restoreSlot a1 a2 a3).pue1 = a1.pue1 ∧ (restoreSlot a1 a2 a3).cke = a1.cke ∧ (restoreSlot a1 a2 a3).fab = a1.fab ∧ (restoreSlot a1 a2 a3).mss = a1.mss ∧ (restoreSlot a1 a2 a3).routineIds = a1.routineIds ∧ (restoreSlot a1 a2 a3).pending = a1.pending := by
  simp [restoreSlot]
@[simp] theorem clearSample_frame (a1 : State) (a2) : (clearSample a1 a2).ident = a1.ident ∧ (clearSample a1 a2).nv = a1.nv ∧ (clearSample a1 a2).top = a1.top ∧ (clearSample a1 a2).cores = a1.cores ∧ (clearSample a1 a2).cle = a1.cle ∧ (clearSample a1 a2).pue0 = a1.pue0 ∧ (clearSample a1 a2).pue1 = a1.pue1 ∧ (clearSample a1 a2).fab = a1.fab ∧ (clearSample a1 a2).mss = a1.mss ∧ (clearSample a1 a2).routineIds = a1.routineIds ∧ (clearSample a1 a2).pending = a1.pending := by
  simp [clearSample]
@[simp] theorem restoreStat_frame (a1 : State) (a2) : (restoreStat a1 a2).ident = a1.ident ∧ (restoreStat a1 a2).nv = a1.nv ∧ (restoreStat a1 a2).top = a1.top ∧ (restoreStat a1 a2).cores = a1.cores ∧ (restoreStat a1 a2).cle = a1.cle ∧ (restoreStat a1 a2).pue0 = a1.pue0 ∧ (restoreStat a1 a2).pue1 = a1.pue1 ∧ (restoreStat a1 a2).cke = a1.cke ∧ (restoreStat a1 a2).fab = a1.fab ∧ (restoreStat a1 a2).mss = a1.mss ∧ (restoreStat a1 a2).routineIds = a1.routineIds ∧ (restoreStat a1 a2).pending = a1.pending := by
  simp only [restoreStat]
  repeat' split
  all_goals simp
@[simp] theorem restoreOne_frame (a1 : State) (a2) (a3) (a4) : (restoreOne a1 a2 a3 a4).ident = a1.ident ∧ (restoreOne a1 a2 a3 a4).nv = a1.nv ∧ (restoreOne a1 a2 a3 a4).top = a1.top ∧ (restoreOne a1 a2 a3 a4).cores = a1.cores ∧ (restoreOne a1 a2 a3 a4).cle = a1.cle ∧ (restoreOne a1 a2 a3 a4).pue0 = a1.pue0 ∧ (restoreOne a1 a2 a3 a4).pue1 = a1.pue1 ∧ (restoreOne a1 a2 a3 a4).fab = a1.fab ∧ (restoreOne a1 a2 a3 a4).mss = a1.mss ∧ (restoreOne a1 a2 a3 a4).routineIds = a1.routineIds ∧ (restoreOne a1 a2 a3 a4).pending = a1.pending := by
  simp only [restoreOne]
  repeat' split
  all_goals simp
@[simp] theorem State.finishRestore_frame (a1 : State) (a2) : (State.finishRestore a1 a2).ident = a1.ident ∧ (State.finishRestore a1 a2).nv = a1.nv ∧ (State.finishRestore a1 a2).top = a1.top ∧ (State.finishRestore a1 a2).pue0 = a1.pue0 ∧ (State.finishRestore a1 a2).pue1 = a1.pue1 ∧ (State.finishRestore a1 a2).fab = a1.fab ∧ (State.finishRestore a1 a2).mss = a1.mss ∧ (State.finishRestore a1 a2).routineIds = a1.routineIds ∧ (State.finishRestore a1 a2).pending = a1.pending := by
  simp [State.finishRestore]
@[simp] theorem State.settleRestore_frame (a1 : State) : (State.settleRestore a1).ident = a1.ident ∧ (State.settleRestore a1).nv = a1.nv ∧ (State.settleRestore a1).top = a1.top ∧ (State.settleRestore a1).pue0 = a1.pue0 ∧ (State.settleRestore a1).pue1 = a1.pue1 ∧ (State.settleRestore a1).mss = a1.mss ∧ (State.settleRestore a1).routineIds = a1.routineIds ∧ (State.settleRestore a1).pending = a1.pending := by
  simp only [State.settleRestore]
  repeat' split
  all_goals simp
@[simp] theorem State.restorePiece_frame (a1 : State) (a2) (a3) (a4) (a5) : (State.restorePiece a1 a2 a3 a4 a5).ident = a1.ident ∧ (State.restorePiece a1 a2 a3 a4 a5).nv = a1.nv ∧ (State.restorePiece a1 a2 a3 a4 a5).top = a1.top ∧ (State.restorePiece a1 a2 a3 a4 a5).pue0 = a1.pue0 ∧ (State.restorePiece a1 a2 a3 a4 a5).pue1 = a1.pue1 ∧ (State.restorePiece a1 a2 a3 a4 a5).mss = a1.mss ∧ (State.restorePiece a1 a2 a3 a4 a5).routineIds = a1.routineIds ∧ (State.restorePiece a1 a2 a3 a4 a5).pending = a1.pending := by
  simp only [State.restorePiece]
  repeat' split
  all_goals simp
@[simp] theorem rollbackStep_frame (a1 : State) (a2) : (rollbackStep a1 a2).ident = a1.ident ∧ (rollbackStep a1 a2).nv = a1.nv ∧ (rollbackStep a1 a2).top = a1.top ∧ (rollbackStep a1 a2).pue0 = a1.pue0 ∧ (rollbackStep a1 a2).pue1 = a1.pue1 ∧ (rollbackStep a1 a2).mss = a1.mss ∧ (rollbackStep a1 a2).routineIds = a1.routineIds ∧ (rollbackStep a1 a2).pending = a1.pending := by
  simp only [rollbackStep]
  repeat' split
  all_goals simp
@[simp] theorem commandComplete_frame (a1) (a2) (a3) (a4 : State) : (commandComplete a1 a2 a3 a4).ident = a4.ident ∧ (commandComplete a1 a2 a3 a4).nv = a4.nv ∧ (commandComplete a1 a2 a3 a4).top = a4.top ∧ (commandComplete a1 a2 a3 a4).err = a4.err ∧ (commandComplete a1 a2 a3 a4).mem = a4.mem ∧ (commandComplete a1 a2 a3 a4).cle = a4.cle ∧ (commandComplete a1 a2 a3 a4).pue0 = a4.pue0 ∧ (commandComplete a1 a2 a3 a4).pue1 = a4.pue1 ∧ (commandComplete a1 a2 a3 a4).cke = a4.cke ∧ (commandComplete a1 a2 a3 a4).pwr = a4.pwr ∧ (commandComplete a1 a2 a3 a4).fab = a4.fab ∧ (commandComplete a1 a2 a3 a4).mss = a4.mss ∧ (commandComplete a1 a2 a3 a4).fresh = a4.fresh ∧ (commandComplete a1 a2 a3 a4).routineIds = a4.routineIds ∧ (commandComplete a1 a2 a3 a4).pending = a4.pending := by
  simp only [commandComplete]
  repeat' split
  all_goals simp
@[simp] theorem scrubLine_frame (a1) (a2) (a3) (a4 : State) (a5) : (scrubLine a1 a2 a3 a4 a5).ident = a4.ident ∧ (scrubLine a1 a2 a3 a4 a5).nv = a4.nv ∧ (scrubLine a1 a2 a3 a4 a5).top = a4.top ∧ (scrubLine a1 a2 a3 a4 a5).cores = a4.cores ∧ (scrubLine a1 a2 a3 a4 a5).cle = a4.cle ∧ (scrubLine a1 a2 a3 a4 a5).pue0 = a4.pue0 ∧ (scrubLine a1 a2 a3 a4 a5).pue1 = a4.pue1 ∧ (scrubLine a1 a2 a3 a4 a5).fab = a4.fab ∧ (scrubLine a1 a2 a3 a4 a5).mss = a4.mss ∧ (scrubLine a1 a2 a3 a4 a5).routineIds = a4.routineIds ∧ (scrubLine a1 a2 a3 a4 a5).pending = a4.pending := by
  simp [scrubLine]
@[simp] theorem State.failStack_frame (a1 : State) (a2) (a3) : (State.failStack a1 a2 a3).ident = a1.ident ∧ (State.failStack a1 a2 a3).nv = a1.nv ∧ (State.failStack a1 a2 a3).cle = a1.cle ∧ (State.failStack a1 a2 a3).pwr = a1.pwr ∧ (State.failStack a1 a2 a3).fab = a1.fab ∧ (State.failStack a1 a2 a3).mss = a1.mss ∧ (State.failStack a1 a2 a3).fresh = a1.fresh ∧ (State.failStack a1 a2 a3).routineIds = a1.routineIds ∧ (State.failStack a1 a2 a3).pending = a1.pending := by
  simp [State.failStack]
@[simp] theorem State.t2Offline_frame (a1 : State) (a2) (a3) (a4) : (State.t2Offline a1 a2 a3 a4).ident = a1.ident ∧ (State.t2Offline a1 a2 a3 a4).nv = a1.nv ∧ (State.t2Offline a1 a2 a3 a4).top = a1.top ∧ (State.t2Offline a1 a2 a3 a4).cores = a1.cores ∧ (State.t2Offline a1 a2 a3 a4).cle = a1.cle ∧ (State.t2Offline a1 a2 a3 a4).pue0 = a1.pue0 ∧ (State.t2Offline a1 a2 a3 a4).pue1 = a1.pue1 ∧ (State.t2Offline a1 a2 a3 a4).cke = a1.cke ∧ (State.t2Offline a1 a2 a3 a4).pwr = a1.pwr ∧ (State.t2Offline a1 a2 a3 a4).fab = a1.fab ∧ (State.t2Offline a1 a2 a3 a4).mss = a1.mss ∧ (State.t2Offline a1 a2 a3 a4).fresh = a1.fresh ∧ (State.t2Offline a1 a2 a3 a4).routineIds = a1.routineIds ∧ (State.t2Offline a1 a2 a3 a4).pending = a1.pending := by
  simp [State.t2Offline]
@[simp] theorem State.memInject_frame (a1 : State) (a2) (a3) : (State.memInject a1 a2 a3).ident = a1.ident ∧ (State.memInject a1 a2 a3).nv = a1.nv ∧ (State.memInject a1 a2 a3).top = a1.top ∧ (State.memInject a1 a2 a3).cores = a1.cores ∧ (State.memInject a1 a2 a3).hub = a1.hub ∧ (State.memInject a1 a2 a3).err = a1.err ∧ (State.memInject a1 a2 a3).cle = a1.cle ∧ (State.memInject a1 a2 a3).pue0 = a1.pue0 ∧ (State.memInject a1 a2 a3).pue1 = a1.pue1 ∧ (State.memInject a1 a2 a3).cke = a1.cke ∧ (State.memInject a1 a2 a3).pwr = a1.pwr ∧ (State.memInject a1 a2 a3).fab = a1.fab ∧ (State.memInject a1 a2 a3).pmu = a1.pmu ∧ (State.memInject a1 a2 a3).mss = a1.mss ∧ (State.memInject a1 a2 a3).sent = a1.sent ∧ (State.memInject a1 a2 a3).routineIds = a1.routineIds ∧ (State.memInject a1 a2 a3).pending = a1.pending := by
  simp [State.memInject]
@[simp] theorem State.answerPoison_frame (a1 : State) (a2) : (State.answerPoison a1 a2).ident = a1.ident ∧ (State.answerPoison a1 a2).nv = a1.nv ∧ (State.answerPoison a1 a2).top = a1.top ∧ (State.answerPoison a1 a2).cores = a1.cores ∧ (State.answerPoison a1 a2).hub = a1.hub ∧ (State.answerPoison a1 a2).err = a1.err ∧ (State.answerPoison a1 a2).mem = a1.mem ∧ (State.answerPoison a1 a2).cle = a1.cle ∧ (State.answerPoison a1 a2).pue0 = a1.pue0 ∧ (State.answerPoison a1 a2).pue1 = a1.pue1 ∧ (State.answerPoison a1 a2).cke = a1.cke ∧ (State.answerPoison a1 a2).pwr = a1.pwr ∧ (State.answerPoison a1 a2).fab = a1.fab ∧ (State.answerPoison a1 a2).pmu = a1.pmu ∧ (State.answerPoison a1 a2).mss = a1.mss ∧ (State.answerPoison a1 a2).fresh = a1.fresh ∧ (State.answerPoison a1 a2).routineIds = a1.routineIds ∧ (State.answerPoison a1 a2).pending = a1.pending := by
  simp [State.answerPoison]
@[simp] theorem State.noteNotReady_frame (a1 : State) (a2) : (State.noteNotReady a1 a2).ident = a1.ident ∧ (State.noteNotReady a1 a2).nv = a1.nv ∧ (State.noteNotReady a1 a2).top = a1.top ∧ (State.noteNotReady a1 a2).cores = a1.cores ∧ (State.noteNotReady a1 a2).mem = a1.mem ∧ (State.noteNotReady a1 a2).cle = a1.cle ∧ (State.noteNotReady a1 a2).pue0 = a1.pue0 ∧ (State.noteNotReady a1 a2).pue1 = a1.pue1 ∧ (State.noteNotReady a1 a2).cke = a1.cke ∧ (State.noteNotReady a1 a2).pwr = a1.pwr ∧ (State.noteNotReady a1 a2).fab = a1.fab ∧ (State.noteNotReady a1 a2).mss = a1.mss ∧ (State.noteNotReady a1 a2).fresh = a1.fresh ∧ (State.noteNotReady a1 a2).routineIds = a1.routineIds ∧ (State.noteNotReady a1 a2).pending = a1.pending := by
  simp [State.noteNotReady]
@[simp] theorem State.fillSnoop_frame (a1 : State) (a2) : (State.fillSnoop a1 a2).ident = a1.ident ∧ (State.fillSnoop a1 a2).nv = a1.nv ∧ (State.fillSnoop a1 a2).top = a1.top ∧ (State.fillSnoop a1 a2).cores = a1.cores ∧ (State.fillSnoop a1 a2).err = a1.err ∧ (State.fillSnoop a1 a2).mem = a1.mem ∧ (State.fillSnoop a1 a2).cle = a1.cle ∧ (State.fillSnoop a1 a2).pue0 = a1.pue0 ∧ (State.fillSnoop a1 a2).pue1 = a1.pue1 ∧ (State.fillSnoop a1 a2).cke = a1.cke ∧ (State.fillSnoop a1 a2).pwr = a1.pwr ∧ (State.fillSnoop a1 a2).fab = a1.fab ∧ (State.fillSnoop a1 a2).pmu = a1.pmu ∧ (State.fillSnoop a1 a2).mss = a1.mss ∧ (State.fillSnoop a1 a2).fresh = a1.fresh ∧ (State.fillSnoop a1 a2).routineIds = a1.routineIds ∧ (State.fillSnoop a1 a2).pending = a1.pending := by
  simp only [State.fillSnoop]
  repeat' split
  all_goals simp
@[simp] theorem State.setRing_frame (a1 : State) (a2) (a3) : (State.setRing a1 a2 a3).ident = a1.ident ∧ (State.setRing a1 a2 a3).nv = a1.nv ∧ (State.setRing a1 a2 a3).top = a1.top ∧ (State.setRing a1 a2 a3).cores = a1.cores ∧ (State.setRing a1 a2 a3).err = a1.err ∧ (State.setRing a1 a2 a3).mem = a1.mem ∧ (State.setRing a1 a2 a3).cle = a1.cle ∧ (State.setRing a1 a2 a3).pue0 = a1.pue0 ∧ (State.setRing a1 a2 a3).pue1 = a1.pue1 ∧ (State.setRing a1 a2 a3).cke = a1.cke ∧ (State.setRing a1 a2 a3).pwr = a1.pwr ∧ (State.setRing a1 a2 a3).fab = a1.fab ∧ (State.setRing a1 a2 a3).pmu = a1.pmu ∧ (State.setRing a1 a2 a3).mss = a1.mss ∧ (State.setRing a1 a2 a3).sent = a1.sent ∧ (State.setRing a1 a2 a3).fresh = a1.fresh ∧ (State.setRing a1 a2 a3).routineIds = a1.routineIds ∧ (State.setRing a1 a2 a3).pending = a1.pending := by
  simp [State.setRing]
@[simp] theorem State.writeDeviceLine_frame (a1 : State) (a2) : (State.writeDeviceLine a1 a2).ident = a1.ident ∧ (State.writeDeviceLine a1 a2).nv = a1.nv ∧ (State.writeDeviceLine a1 a2).top = a1.top ∧ (State.writeDeviceLine a1 a2).cores = a1.cores ∧ (State.writeDeviceLine a1 a2).err = a1.err ∧ (State.writeDeviceLine a1 a2).mem = a1.mem ∧ (State.writeDeviceLine a1 a2).cle = a1.cle ∧ (State.writeDeviceLine a1 a2).pue0 = a1.pue0 ∧ (State.writeDeviceLine a1 a2).pue1 = a1.pue1 ∧ (State.writeDeviceLine a1 a2).cke = a1.cke ∧ (State.writeDeviceLine a1 a2).pwr = a1.pwr ∧ (State.writeDeviceLine a1 a2).fab = a1.fab ∧ (State.writeDeviceLine a1 a2).mss = a1.mss ∧ (State.writeDeviceLine a1 a2).fresh = a1.fresh ∧ (State.writeDeviceLine a1 a2).routineIds = a1.routineIds ∧ (State.writeDeviceLine a1 a2).pending = a1.pending := by
  simp [State.writeDeviceLine]
@[simp] theorem State.writeCompletion_frame (a1 : State) (a2) : (State.writeCompletion a1 a2).ident = a1.ident ∧ (State.writeCompletion a1 a2).nv = a1.nv ∧ (State.writeCompletion a1 a2).top = a1.top ∧ (State.writeCompletion a1 a2).cores = a1.cores ∧ (State.writeCompletion a1 a2).err = a1.err ∧ (State.writeCompletion a1 a2).mem = a1.mem ∧ (State.writeCompletion a1 a2).cle = a1.cle ∧ (State.writeCompletion a1 a2).pue0 = a1.pue0 ∧ (State.writeCompletion a1 a2).pue1 = a1.pue1 ∧ (State.writeCompletion a1 a2).cke = a1.cke ∧ (State.writeCompletion a1 a2).pwr = a1.pwr ∧ (State.writeCompletion a1 a2).fab = a1.fab ∧ (State.writeCompletion a1 a2).mss = a1.mss ∧ (State.writeCompletion a1 a2).fresh = a1.fresh ∧ (State.writeCompletion a1 a2).routineIds = a1.routineIds ∧ (State.writeCompletion a1 a2).pending = a1.pending := by
  simp [State.writeCompletion]
@[simp] theorem State.sendCompletion_frame (a1 : State) (a2) : (State.sendCompletion a1 a2).ident = a1.ident ∧ (State.sendCompletion a1 a2).nv = a1.nv ∧ (State.sendCompletion a1 a2).top = a1.top ∧ (State.sendCompletion a1 a2).cores = a1.cores ∧ (State.sendCompletion a1 a2).err = a1.err ∧ (State.sendCompletion a1 a2).mem = a1.mem ∧ (State.sendCompletion a1 a2).cle = a1.cle ∧ (State.sendCompletion a1 a2).pue0 = a1.pue0 ∧ (State.sendCompletion a1 a2).pue1 = a1.pue1 ∧ (State.sendCompletion a1 a2).cke = a1.cke ∧ (State.sendCompletion a1 a2).pwr = a1.pwr ∧ (State.sendCompletion a1 a2).fab = a1.fab ∧ (State.sendCompletion a1 a2).mss = a1.mss ∧ (State.sendCompletion a1 a2).fresh = a1.fresh ∧ (State.sendCompletion a1 a2).routineIds = a1.routineIds ∧ (State.sendCompletion a1 a2).pending = a1.pending := by
  simp [State.sendCompletion]
@[simp] theorem State.flushCq_frame (a1 : State) : (State.flushCq a1).ident = a1.ident ∧ (State.flushCq a1).nv = a1.nv ∧ (State.flushCq a1).top = a1.top ∧ (State.flushCq a1).cores = a1.cores ∧ (State.flushCq a1).err = a1.err ∧ (State.flushCq a1).mem = a1.mem ∧ (State.flushCq a1).cle = a1.cle ∧ (State.flushCq a1).pue0 = a1.pue0 ∧ (State.flushCq a1).pue1 = a1.pue1 ∧ (State.flushCq a1).cke = a1.cke ∧ (State.flushCq a1).pwr = a1.pwr ∧ (State.flushCq a1).fab = a1.fab ∧ (State.flushCq a1).mss = a1.mss ∧ (State.flushCq a1).fresh = a1.fresh ∧ (State.flushCq a1).routineIds = a1.routineIds ∧ (State.flushCq a1).pending = a1.pending := by
  simp [State.flushCq]
@[simp] theorem settleNops_frame (a1) (a2) (a3 : State) : (settleNops a1 a2 a3).ident = a3.ident ∧ (settleNops a1 a2 a3).nv = a3.nv ∧ (settleNops a1 a2 a3).top = a3.top ∧ (settleNops a1 a2 a3).cores = a3.cores ∧ (settleNops a1 a2 a3).err = a3.err ∧ (settleNops a1 a2 a3).mem = a3.mem ∧ (settleNops a1 a2 a3).cle = a3.cle ∧ (settleNops a1 a2 a3).pue0 = a3.pue0 ∧ (settleNops a1 a2 a3).pue1 = a3.pue1 ∧ (settleNops a1 a2 a3).cke = a3.cke ∧ (settleNops a1 a2 a3).pwr = a3.pwr ∧ (settleNops a1 a2 a3).fab = a3.fab ∧ (settleNops a1 a2 a3).mss = a3.mss ∧ (settleNops a1 a2 a3).fresh = a3.fresh ∧ (settleNops a1 a2 a3).routineIds = a3.routineIds ∧ (settleNops a1 a2 a3).pending = a3.pending := by
  induction a2 generalizing a3 with
  | zero => simp [settleNops]
  | succ n ih =>
    unfold settleNops
    try dsimp only
    repeat' split
    all_goals simp_all
@[simp] theorem State.entryDone_frame (a1 : State) (a2) (a3) : (State.entryDone a1 a2 a3).ident = a1.ident ∧ (State.entryDone a1 a2 a3).nv = a1.nv ∧ (State.entryDone a1 a2 a3).top = a1.top ∧ (State.entryDone a1 a2 a3).cores = a1.cores ∧ (State.entryDone a1 a2 a3).err = a1.err ∧ (State.entryDone a1 a2 a3).mem = a1.mem ∧ (State.entryDone a1 a2 a3).cle = a1.cle ∧ (State.entryDone a1 a2 a3).pue0 = a1.pue0 ∧ (State.entryDone a1 a2 a3).pue1 = a1.pue1 ∧ (State.entryDone a1 a2 a3).cke = a1.cke ∧ (State.entryDone a1 a2 a3).pwr = a1.pwr ∧ (State.entryDone a1 a2 a3).fab = a1.fab ∧ (State.entryDone a1 a2 a3).mss = a1.mss ∧ (State.entryDone a1 a2 a3).fresh = a1.fresh ∧ (State.entryDone a1 a2 a3).routineIds = a1.routineIds ∧ (State.entryDone a1 a2 a3).pending = a1.pending := by
  simp [State.entryDone]
@[simp] theorem State.answerEntry_frame (a1 : State) (a2) : (State.answerEntry a1 a2).ident = a1.ident ∧ (State.answerEntry a1 a2).nv = a1.nv ∧ (State.answerEntry a1 a2).top = a1.top ∧ (State.answerEntry a1 a2).cores = a1.cores ∧ (State.answerEntry a1 a2).err = a1.err ∧ (State.answerEntry a1 a2).mem = a1.mem ∧ (State.answerEntry a1 a2).cle = a1.cle ∧ (State.answerEntry a1 a2).pue0 = a1.pue0 ∧ (State.answerEntry a1 a2).pue1 = a1.pue1 ∧ (State.answerEntry a1 a2).cke = a1.cke ∧ (State.answerEntry a1 a2).pwr = a1.pwr ∧ (State.answerEntry a1 a2).fab = a1.fab ∧ (State.answerEntry a1 a2).mss = a1.mss ∧ (State.answerEntry a1 a2).fresh = a1.fresh ∧ (State.answerEntry a1 a2).routineIds = a1.routineIds ∧ (State.answerEntry a1 a2).pending = a1.pending := by
  simp [State.answerEntry]
@[simp] theorem State.raiseAnswer_frame (a1 : State) (a2) (a3) (a4) : (State.raiseAnswer a1 a2 a3 a4).ident = a1.ident ∧ (State.raiseAnswer a1 a2 a3 a4).nv = a1.nv ∧ (State.raiseAnswer a1 a2 a3 a4).top = a1.top ∧ (State.raiseAnswer a1 a2 a3 a4).cores = a1.cores ∧ (State.raiseAnswer a1 a2 a3 a4).mem = a1.mem ∧ (State.raiseAnswer a1 a2 a3 a4).cle = a1.cle ∧ (State.raiseAnswer a1 a2 a3 a4).pue0 = a1.pue0 ∧ (State.raiseAnswer a1 a2 a3 a4).pue1 = a1.pue1 ∧ (State.raiseAnswer a1 a2 a3 a4).cke = a1.cke ∧ (State.raiseAnswer a1 a2 a3 a4).pwr = a1.pwr ∧ (State.raiseAnswer a1 a2 a3 a4).fab = a1.fab ∧ (State.raiseAnswer a1 a2 a3 a4).mss = a1.mss ∧ (State.raiseAnswer a1 a2 a3 a4).fresh = a1.fresh ∧ (State.raiseAnswer a1 a2 a3 a4).routineIds = a1.routineIds ∧ (State.raiseAnswer a1 a2 a3 a4).pending = a1.pending := by
  simp [State.raiseAnswer]
@[simp] theorem State.readEntry_frame (a1 : State) (a2) : (State.readEntry a1 a2).2.ident = a1.ident ∧ (State.readEntry a1 a2).2.nv = a1.nv ∧ (State.readEntry a1 a2).2.top = a1.top ∧ (State.readEntry a1 a2).2.cores = a1.cores ∧ (State.readEntry a1 a2).2.err = a1.err ∧ (State.readEntry a1 a2).2.mem = a1.mem ∧ (State.readEntry a1 a2).2.cle = a1.cle ∧ (State.readEntry a1 a2).2.pue0 = a1.pue0 ∧ (State.readEntry a1 a2).2.pue1 = a1.pue1 ∧ (State.readEntry a1 a2).2.cke = a1.cke ∧ (State.readEntry a1 a2).2.pwr = a1.pwr ∧ (State.readEntry a1 a2).2.fab = a1.fab ∧ (State.readEntry a1 a2).2.mss = a1.mss ∧ (State.readEntry a1 a2).2.fresh = a1.fresh ∧ (State.readEntry a1 a2).2.routineIds = a1.routineIds ∧ (State.readEntry a1 a2).2.pending = a1.pending := by
  simp only [State.readEntry]
  repeat' split
  all_goals simp
@[simp] theorem State.refuseState_frame (a1 : State) (a2) (a3) (a4) (a5) : (State.refuseState a1 a2 a3 a4 a5).ident = a1.ident ∧ (State.refuseState a1 a2 a3 a4 a5).nv = a1.nv ∧ (State.refuseState a1 a2 a3 a4 a5).top = a1.top ∧ (State.refuseState a1 a2 a3 a4 a5).cores = a1.cores ∧ (State.refuseState a1 a2 a3 a4 a5).mem = a1.mem ∧ (State.refuseState a1 a2 a3 a4 a5).cle = a1.cle ∧ (State.refuseState a1 a2 a3 a4 a5).pue0 = a1.pue0 ∧ (State.refuseState a1 a2 a3 a4 a5).pue1 = a1.pue1 ∧ (State.refuseState a1 a2 a3 a4 a5).cke = a1.cke ∧ (State.refuseState a1 a2 a3 a4 a5).pwr = a1.pwr ∧ (State.refuseState a1 a2 a3 a4 a5).fab = a1.fab ∧ (State.refuseState a1 a2 a3 a4 a5).mss = a1.mss ∧ (State.refuseState a1 a2 a3 a4 a5).fresh = a1.fresh ∧ (State.refuseState a1 a2 a3 a4 a5).routineIds = a1.routineIds ∧ (State.refuseState a1 a2 a3 a4 a5).pending = a1.pending := by
  simp [State.refuseState]
@[simp] theorem State.readDesc_frame (a1 : State) (a2) : (State.readDesc a1 a2).ident = a1.ident ∧ (State.readDesc a1 a2).nv = a1.nv ∧ (State.readDesc a1 a2).top = a1.top ∧ (State.readDesc a1 a2).cores = a1.cores ∧ (State.readDesc a1 a2).cle = a1.cle ∧ (State.readDesc a1 a2).pue0 = a1.pue0 ∧ (State.readDesc a1 a2).pue1 = a1.pue1 ∧ (State.readDesc a1 a2).fab = a1.fab ∧ (State.readDesc a1 a2).mss = a1.mss ∧ (State.readDesc a1 a2).routineIds = a1.routineIds ∧ (State.readDesc a1 a2).pending = a1.pending := by
  simp [State.readDesc]
@[simp] theorem startCore_frame (a1) (a2) (a3) (a4 : State) (a5) : (startCore a1 a2 a3 a4 a5).ident = a4.ident ∧ (startCore a1 a2 a3 a4 a5).nv = a4.nv ∧ (startCore a1 a2 a3 a4 a5).top = a4.top ∧ (startCore a1 a2 a3 a4 a5).hub = a4.hub ∧ (startCore a1 a2 a3 a4 a5).err = a4.err ∧ (startCore a1 a2 a3 a4 a5).mem = a4.mem ∧ (startCore a1 a2 a3 a4 a5).cle = a4.cle ∧ (startCore a1 a2 a3 a4 a5).pue0 = a4.pue0 ∧ (startCore a1 a2 a3 a4 a5).pue1 = a4.pue1 ∧ (startCore a1 a2 a3 a4 a5).cke = a4.cke ∧ (startCore a1 a2 a3 a4 a5).pwr = a4.pwr ∧ (startCore a1 a2 a3 a4 a5).fab = a4.fab ∧ (startCore a1 a2 a3 a4 a5).pmu = a4.pmu ∧ (startCore a1 a2 a3 a4 a5).mss = a4.mss ∧ (startCore a1 a2 a3 a4 a5).sent = a4.sent ∧ (startCore a1 a2 a3 a4 a5).fresh = a4.fresh ∧ (startCore a1 a2 a3 a4 a5).routineIds = a4.routineIds ∧ (startCore a1 a2 a3 a4 a5).pending = a4.pending := by
  simp [startCore]
@[simp] theorem State.startGate_frame (a1 : State) (a2) : (State.startGate a1 a2).ident = a1.ident ∧ (State.startGate a1 a2).nv = a1.nv ∧ (State.startGate a1 a2).top = a1.top ∧ (State.startGate a1 a2).cores = a1.cores ∧ (State.startGate a1 a2).cle = a1.cle ∧ (State.startGate a1 a2).pue0 = a1.pue0 ∧ (State.startGate a1 a2).pue1 = a1.pue1 ∧ (State.startGate a1 a2).fab = a1.fab ∧ (State.startGate a1 a2).mss = a1.mss ∧ (State.startGate a1 a2).routineIds = a1.routineIds ∧ (State.startGate a1 a2).pending = a1.pending := by
  simp [State.startGate]
@[simp] theorem State.beginJob_frame (a1 : State) (a2) : (State.beginJob a1 a2).ident = a1.ident ∧ (State.beginJob a1 a2).nv = a1.nv ∧ (State.beginJob a1 a2).top = a1.top ∧ (State.beginJob a1 a2).cores = a1.cores ∧ (State.beginJob a1 a2).pue0 = a1.pue0 ∧ (State.beginJob a1 a2).pue1 = a1.pue1 ∧ (State.beginJob a1 a2).fab = a1.fab ∧ (State.beginJob a1 a2).mss = a1.mss ∧ (State.beginJob a1 a2).routineIds = a1.routineIds ∧ (State.beginJob a1 a2).pending = a1.pending := by
  simp [State.beginJob]
@[simp] theorem State.startJob_frame (a1 : State) (a2) : (State.startJob a1 a2).ident = a1.ident ∧ (State.startJob a1 a2).nv = a1.nv ∧ (State.startJob a1 a2).top = a1.top ∧ (State.startJob a1 a2).pue0 = a1.pue0 ∧ (State.startJob a1 a2).pue1 = a1.pue1 ∧ (State.startJob a1 a2).fab = a1.fab ∧ (State.startJob a1 a2).mss = a1.mss ∧ (State.startJob a1 a2).routineIds = a1.routineIds ∧ (State.startJob a1 a2).pending = a1.pending := by
  simp [State.startJob]
@[simp] theorem State.startAnswer_frame (a1 : State) (a2) (a3) (a4) (a5) : (State.startAnswer a1 a2 a3 a4 a5).ident = a1.ident ∧ (State.startAnswer a1 a2 a3 a4 a5).nv = a1.nv ∧ (State.startAnswer a1 a2 a3 a4 a5).top = a1.top ∧ (State.startAnswer a1 a2 a3 a4 a5).cores = a1.cores ∧ (State.startAnswer a1 a2 a3 a4 a5).err = a1.err ∧ (State.startAnswer a1 a2 a3 a4 a5).mem = a1.mem ∧ (State.startAnswer a1 a2 a3 a4 a5).cle = a1.cle ∧ (State.startAnswer a1 a2 a3 a4 a5).pue0 = a1.pue0 ∧ (State.startAnswer a1 a2 a3 a4 a5).pue1 = a1.pue1 ∧ (State.startAnswer a1 a2 a3 a4 a5).cke = a1.cke ∧ (State.startAnswer a1 a2 a3 a4 a5).pwr = a1.pwr ∧ (State.startAnswer a1 a2 a3 a4 a5).fab = a1.fab ∧ (State.startAnswer a1 a2 a3 a4 a5).mss = a1.mss ∧ (State.startAnswer a1 a2 a3 a4 a5).fresh = a1.fresh ∧ (State.startAnswer a1 a2 a3 a4 a5).routineIds = a1.routineIds ∧ (State.startAnswer a1 a2 a3 a4 a5).pending = a1.pending := by
  simp [State.startAnswer]
@[simp] theorem State.lapseJob_frame (a1 : State) : (State.lapseJob a1).ident = a1.ident ∧ (State.lapseJob a1).nv = a1.nv ∧ (State.lapseJob a1).top = a1.top ∧ (State.lapseJob a1).cores = a1.cores ∧ (State.lapseJob a1).hub = a1.hub ∧ (State.lapseJob a1).err = a1.err ∧ (State.lapseJob a1).mem = a1.mem ∧ (State.lapseJob a1).cle = a1.cle ∧ (State.lapseJob a1).pue0 = a1.pue0 ∧ (State.lapseJob a1).pue1 = a1.pue1 ∧ (State.lapseJob a1).cke = a1.cke ∧ (State.lapseJob a1).fab = a1.fab ∧ (State.lapseJob a1).pmu = a1.pmu ∧ (State.lapseJob a1).mss = a1.mss ∧ (State.lapseJob a1).sent = a1.sent ∧ (State.lapseJob a1).fresh = a1.fresh ∧ (State.lapseJob a1).routineIds = a1.routineIds ∧ (State.lapseJob a1).pending = a1.pending := by
  simp [State.lapseJob]
@[simp] theorem State.dropJob_frame (a1 : State) : (State.dropJob a1).ident = a1.ident ∧ (State.dropJob a1).nv = a1.nv ∧ (State.dropJob a1).top = a1.top ∧ (State.dropJob a1).cores = a1.cores ∧ (State.dropJob a1).err = a1.err ∧ (State.dropJob a1).mem = a1.mem ∧ (State.dropJob a1).cle = a1.cle ∧ (State.dropJob a1).pue0 = a1.pue0 ∧ (State.dropJob a1).pue1 = a1.pue1 ∧ (State.dropJob a1).fab = a1.fab ∧ (State.dropJob a1).pmu = a1.pmu ∧ (State.dropJob a1).mss = a1.mss ∧ (State.dropJob a1).sent = a1.sent ∧ (State.dropJob a1).fresh = a1.fresh ∧ (State.dropJob a1).routineIds = a1.routineIds ∧ (State.dropJob a1).pending = a1.pending := by
  simp [State.dropJob]
@[simp] theorem State.endTerminated_frame (a1 : State) : (State.endTerminated a1).ident = a1.ident ∧ (State.endTerminated a1).nv = a1.nv ∧ (State.endTerminated a1).top = a1.top ∧ (State.endTerminated a1).cores = a1.cores ∧ (State.endTerminated a1).pue0 = a1.pue0 ∧ (State.endTerminated a1).pue1 = a1.pue1 ∧ (State.endTerminated a1).fab = a1.fab ∧ (State.endTerminated a1).mss = a1.mss ∧ (State.endTerminated a1).routineIds = a1.routineIds ∧ (State.endTerminated a1).pending = a1.pending := by
  simp only [State.endTerminated]
  repeat' split
  all_goals simp
@[simp] theorem State.settleTerminate_frame (a1 : State) : (State.settleTerminate a1).ident = a1.ident ∧ (State.settleTerminate a1).nv = a1.nv ∧ (State.settleTerminate a1).top = a1.top ∧ (State.settleTerminate a1).cores = a1.cores ∧ (State.settleTerminate a1).pue0 = a1.pue0 ∧ (State.settleTerminate a1).pue1 = a1.pue1 ∧ (State.settleTerminate a1).fab = a1.fab ∧ (State.settleTerminate a1).mss = a1.mss ∧ (State.settleTerminate a1).routineIds = a1.routineIds ∧ (State.settleTerminate a1).pending = a1.pending := by
  simp [State.settleTerminate]
@[simp] theorem State.settleJob_frame (a1 : State) : (State.settleJob a1).ident = a1.ident ∧ (State.settleJob a1).nv = a1.nv ∧ (State.settleJob a1).top = a1.top ∧ (State.settleJob a1).pue0 = a1.pue0 ∧ (State.settleJob a1).pue1 = a1.pue1 ∧ (State.settleJob a1).fab = a1.fab ∧ (State.settleJob a1).mss = a1.mss ∧ (State.settleJob a1).routineIds = a1.routineIds ∧ (State.settleJob a1).pending = a1.pending := by
  simp [State.settleJob]
@[simp] theorem State.stopEngines_frame (a1 : State) : (State.stopEngines a1).ident = a1.ident ∧ (State.stopEngines a1).nv = a1.nv ∧ (State.stopEngines a1).top = a1.top ∧ (State.stopEngines a1).cores = a1.cores ∧ (State.stopEngines a1).hub = a1.hub ∧ (State.stopEngines a1).err = a1.err ∧ (State.stopEngines a1).mem = a1.mem ∧ (State.stopEngines a1).cke = a1.cke ∧ (State.stopEngines a1).pwr = a1.pwr ∧ (State.stopEngines a1).fab = a1.fab ∧ (State.stopEngines a1).pmu = a1.pmu ∧ (State.stopEngines a1).mss = a1.mss ∧ (State.stopEngines a1).sent = a1.sent ∧ (State.stopEngines a1).fresh = a1.fresh ∧ (State.stopEngines a1).routineIds = a1.routineIds ∧ (State.stopEngines a1).pending = a1.pending := by
  simp [State.stopEngines]
@[simp] theorem State.resetDies_frame (a1 : State) : (State.resetDies a1).ident = a1.ident ∧ (State.resetDies a1).nv = a1.nv ∧ (State.resetDies a1).top = a1.top ∧ (State.resetDies a1).hub = a1.hub ∧ (State.resetDies a1).err = a1.err ∧ (State.resetDies a1).mem = a1.mem ∧ (State.resetDies a1).cke = a1.cke ∧ (State.resetDies a1).pmu = a1.pmu ∧ (State.resetDies a1).mss = a1.mss ∧ (State.resetDies a1).sent = a1.sent ∧ (State.resetDies a1).fresh = a1.fresh ∧ (State.resetDies a1).routineIds = a1.routineIds ∧ (State.resetDies a1).pending = a1.pending := by
  simp [State.resetDies]
@[simp] theorem resumeCore_frame (a1 : State) (a2) : (resumeCore a1 a2).ident = a1.ident ∧ (resumeCore a1 a2).nv = a1.nv ∧ (resumeCore a1 a2).top = a1.top ∧ (resumeCore a1 a2).hub = a1.hub ∧ (resumeCore a1 a2).err = a1.err ∧ (resumeCore a1 a2).mem = a1.mem ∧ (resumeCore a1 a2).cle = a1.cle ∧ (resumeCore a1 a2).pue0 = a1.pue0 ∧ (resumeCore a1 a2).pue1 = a1.pue1 ∧ (resumeCore a1 a2).cke = a1.cke ∧ (resumeCore a1 a2).pwr = a1.pwr ∧ (resumeCore a1 a2).fab = a1.fab ∧ (resumeCore a1 a2).pmu = a1.pmu ∧ (resumeCore a1 a2).mss = a1.mss ∧ (resumeCore a1 a2).sent = a1.sent ∧ (resumeCore a1 a2).fresh = a1.fresh ∧ (resumeCore a1 a2).routineIds = a1.routineIds ∧ (resumeCore a1 a2).pending = a1.pending := by
  simp [resumeCore]
@[simp] theorem State.resumeJob_frame (a1 : State) (a2) : (State.resumeJob a1 a2).ident = a1.ident ∧ (State.resumeJob a1 a2).nv = a1.nv ∧ (State.resumeJob a1 a2).top = a1.top ∧ (State.resumeJob a1 a2).cke = a1.cke ∧ (State.resumeJob a1 a2).fab = a1.fab ∧ (State.resumeJob a1 a2).mss = a1.mss ∧ (State.resumeJob a1 a2).routineIds = a1.routineIds ∧ (State.resumeJob a1 a2).pending = a1.pending := by
  simp [State.resumeJob]
@[simp] theorem State.ringCtlWrite_frame (a1 : State) (a2) (a3) : (State.ringCtlWrite a1 a2 a3).ident = a1.ident ∧ (State.ringCtlWrite a1 a2 a3).nv = a1.nv ∧ (State.ringCtlWrite a1 a2 a3).cores = a1.cores ∧ (State.ringCtlWrite a1 a2 a3).mem = a1.mem ∧ (State.ringCtlWrite a1 a2 a3).cle = a1.cle ∧ (State.ringCtlWrite a1 a2 a3).pue0 = a1.pue0 ∧ (State.ringCtlWrite a1 a2 a3).pue1 = a1.pue1 ∧ (State.ringCtlWrite a1 a2 a3).cke = a1.cke ∧ (State.ringCtlWrite a1 a2 a3).pwr = a1.pwr ∧ (State.ringCtlWrite a1 a2 a3).fab = a1.fab ∧ (State.ringCtlWrite a1 a2 a3).mss = a1.mss ∧ (State.ringCtlWrite a1 a2 a3).fresh = a1.fresh ∧ (State.ringCtlWrite a1 a2 a3).routineIds = a1.routineIds ∧ (State.ringCtlWrite a1 a2 a3).pending = a1.pending := by
  simp [State.ringCtlWrite]
@[simp] theorem State.bindWrite_frame (a1 : State) (a2) (a3) : (State.bindWrite a1 a2 a3).ident = a1.ident ∧ (State.bindWrite a1 a2 a3).nv = a1.nv ∧ (State.bindWrite a1 a2 a3).top = a1.top ∧ (State.bindWrite a1 a2 a3).cores = a1.cores ∧ (State.bindWrite a1 a2 a3).err = a1.err ∧ (State.bindWrite a1 a2 a3).mem = a1.mem ∧ (State.bindWrite a1 a2 a3).cle = a1.cle ∧ (State.bindWrite a1 a2 a3).pue0 = a1.pue0 ∧ (State.bindWrite a1 a2 a3).pue1 = a1.pue1 ∧ (State.bindWrite a1 a2 a3).cke = a1.cke ∧ (State.bindWrite a1 a2 a3).pwr = a1.pwr ∧ (State.bindWrite a1 a2 a3).fab = a1.fab ∧ (State.bindWrite a1 a2 a3).pmu = a1.pmu ∧ (State.bindWrite a1 a2 a3).mss = a1.mss ∧ (State.bindWrite a1 a2 a3).fresh = a1.fresh ∧ (State.bindWrite a1 a2 a3).routineIds = a1.routineIds ∧ (State.bindWrite a1 a2 a3).pending = a1.pending := by
  simp [State.bindWrite]
@[simp] theorem State.hubFlagAddWrite_frame (a1 : State) (a2) (a3) : (State.hubFlagAddWrite a1 a2 a3).ident = a1.ident ∧ (State.hubFlagAddWrite a1 a2 a3).nv = a1.nv ∧ (State.hubFlagAddWrite a1 a2 a3).top = a1.top ∧ (State.hubFlagAddWrite a1 a2 a3).cores = a1.cores ∧ (State.hubFlagAddWrite a1 a2 a3).mem = a1.mem ∧ (State.hubFlagAddWrite a1 a2 a3).cle = a1.cle ∧ (State.hubFlagAddWrite a1 a2 a3).pue0 = a1.pue0 ∧ (State.hubFlagAddWrite a1 a2 a3).pue1 = a1.pue1 ∧ (State.hubFlagAddWrite a1 a2 a3).cke = a1.cke ∧ (State.hubFlagAddWrite a1 a2 a3).pwr = a1.pwr ∧ (State.hubFlagAddWrite a1 a2 a3).fab = a1.fab ∧ (State.hubFlagAddWrite a1 a2 a3).mss = a1.mss ∧ (State.hubFlagAddWrite a1 a2 a3).fresh = a1.fresh ∧ (State.hubFlagAddWrite a1 a2 a3).routineIds = a1.routineIds ∧ (State.hubFlagAddWrite a1 a2 a3).pending = a1.pending := by
  simp [State.hubFlagAddWrite]
@[simp] theorem State.dlkClear_frame (a1 : State) (a2) : (State.dlkClear a1 a2).ident = a1.ident ∧ (State.dlkClear a1 a2).nv = a1.nv ∧ (State.dlkClear a1 a2).top = a1.top ∧ (State.dlkClear a1 a2).cores = a1.cores ∧ (State.dlkClear a1 a2).err = a1.err ∧ (State.dlkClear a1 a2).mem = a1.mem ∧ (State.dlkClear a1 a2).cle = a1.cle ∧ (State.dlkClear a1 a2).pue0 = a1.pue0 ∧ (State.dlkClear a1 a2).pue1 = a1.pue1 ∧ (State.dlkClear a1 a2).cke = a1.cke ∧ (State.dlkClear a1 a2).pwr = a1.pwr ∧ (State.dlkClear a1 a2).fab = a1.fab ∧ (State.dlkClear a1 a2).pmu = a1.pmu ∧ (State.dlkClear a1 a2).mss = a1.mss ∧ (State.dlkClear a1 a2).sent = a1.sent ∧ (State.dlkClear a1 a2).fresh = a1.fresh ∧ (State.dlkClear a1 a2).routineIds = a1.routineIds ∧ (State.dlkClear a1 a2).pending = a1.pending := by
  simp [State.dlkClear]
@[simp] theorem State.mxuInject_frame (a1 : State) (a2) (a3) : (State.mxuInject a1 a2 a3).ident = a1.ident ∧ (State.mxuInject a1 a2 a3).nv = a1.nv ∧ (State.mxuInject a1 a2 a3).top = a1.top ∧ (State.mxuInject a1 a2 a3).hub = a1.hub ∧ (State.mxuInject a1 a2 a3).err = a1.err ∧ (State.mxuInject a1 a2 a3).mem = a1.mem ∧ (State.mxuInject a1 a2 a3).cle = a1.cle ∧ (State.mxuInject a1 a2 a3).pue0 = a1.pue0 ∧ (State.mxuInject a1 a2 a3).pue1 = a1.pue1 ∧ (State.mxuInject a1 a2 a3).cke = a1.cke ∧ (State.mxuInject a1 a2 a3).pwr = a1.pwr ∧ (State.mxuInject a1 a2 a3).fab = a1.fab ∧ (State.mxuInject a1 a2 a3).pmu = a1.pmu ∧ (State.mxuInject a1 a2 a3).mss = a1.mss ∧ (State.mxuInject a1 a2 a3).sent = a1.sent ∧ (State.mxuInject a1 a2 a3).fresh = a1.fresh ∧ (State.mxuInject a1 a2 a3).routineIds = a1.routineIds ∧ (State.mxuInject a1 a2 a3).pending = a1.pending := by
  simp [State.mxuInject]
@[simp] theorem State.routesLost_frame (a1 : State) (a2) : (State.routesLost a1 a2).ident = a1.ident ∧ (State.routesLost a1 a2).nv = a1.nv ∧ (State.routesLost a1 a2).top = a1.top ∧ (State.routesLost a1 a2).cores = a1.cores ∧ (State.routesLost a1 a2).mem = a1.mem ∧ (State.routesLost a1 a2).cle = a1.cle ∧ (State.routesLost a1 a2).pue0 = a1.pue0 ∧ (State.routesLost a1 a2).pue1 = a1.pue1 ∧ (State.routesLost a1 a2).cke = a1.cke ∧ (State.routesLost a1 a2).pwr = a1.pwr ∧ (State.routesLost a1 a2).fab = a1.fab ∧ (State.routesLost a1 a2).mss = a1.mss ∧ (State.routesLost a1 a2).fresh = a1.fresh ∧ (State.routesLost a1 a2).routineIds = a1.routineIds ∧ (State.routesLost a1 a2).pending = a1.pending := by
  simp [State.routesLost]
@[simp] theorem State.recover_frame (a1 : State) (a2) : (State.recover a1 a2).ident = a1.ident ∧ (State.recover a1 a2).nv = a1.nv ∧ (State.recover a1 a2).top = a1.top ∧ (State.recover a1 a2).cores = a1.cores ∧ (State.recover a1 a2).hub = a1.hub ∧ (State.recover a1 a2).err = a1.err ∧ (State.recover a1 a2).mem = a1.mem ∧ (State.recover a1 a2).cle = a1.cle ∧ (State.recover a1 a2).pue0 = a1.pue0 ∧ (State.recover a1 a2).pue1 = a1.pue1 ∧ (State.recover a1 a2).cke = a1.cke ∧ (State.recover a1 a2).pwr = a1.pwr ∧ (State.recover a1 a2).pmu = a1.pmu ∧ (State.recover a1 a2).mss = a1.mss ∧ (State.recover a1 a2).sent = a1.sent ∧ (State.recover a1 a2).fresh = a1.fresh ∧ (State.recover a1 a2).routineIds = a1.routineIds ∧ (State.recover a1 a2).pending = a1.pending := by
  simp [State.recover]
@[simp] theorem State.takeDown_frame (a1 : State) (a2) (a3) (a4) : (State.takeDown a1 a2 a3 a4).ident = a1.ident ∧ (State.takeDown a1 a2 a3 a4).nv = a1.nv ∧ (State.takeDown a1 a2 a3 a4).top = a1.top ∧ (State.takeDown a1 a2 a3 a4).cores = a1.cores ∧ (State.takeDown a1 a2 a3 a4).mem = a1.mem ∧ (State.takeDown a1 a2 a3 a4).cle = a1.cle ∧ (State.takeDown a1 a2 a3 a4).pue0 = a1.pue0 ∧ (State.takeDown a1 a2 a3 a4).pue1 = a1.pue1 ∧ (State.takeDown a1 a2 a3 a4).cke = a1.cke ∧ (State.takeDown a1 a2 a3 a4).pwr = a1.pwr ∧ (State.takeDown a1 a2 a3 a4).mss = a1.mss ∧ (State.takeDown a1 a2 a3 a4).fresh = a1.fresh ∧ (State.takeDown a1 a2 a3 a4).routineIds = a1.routineIds ∧ (State.takeDown a1 a2 a3 a4).pending = a1.pending := by
  simp [State.takeDown]
@[simp] theorem State.settlePort_frame (a1 : State) (a2) : (State.settlePort a1 a2).ident = a1.ident ∧ (State.settlePort a1 a2).nv = a1.nv ∧ (State.settlePort a1 a2).top = a1.top ∧ (State.settlePort a1 a2).cores = a1.cores ∧ (State.settlePort a1 a2).mem = a1.mem ∧ (State.settlePort a1 a2).cle = a1.cle ∧ (State.settlePort a1 a2).pue0 = a1.pue0 ∧ (State.settlePort a1 a2).pue1 = a1.pue1 ∧ (State.settlePort a1 a2).cke = a1.cke ∧ (State.settlePort a1 a2).pwr = a1.pwr ∧ (State.settlePort a1 a2).mss = a1.mss ∧ (State.settlePort a1 a2).fresh = a1.fresh ∧ (State.settlePort a1 a2).routineIds = a1.routineIds ∧ (State.settlePort a1 a2).pending = a1.pending := by
  simp [State.settlePort]
@[simp] theorem State.settlePorts_frame (a1 : State) : (State.settlePorts a1).ident = a1.ident ∧ (State.settlePorts a1).nv = a1.nv ∧ (State.settlePorts a1).top = a1.top ∧ (State.settlePorts a1).cores = a1.cores ∧ (State.settlePorts a1).mem = a1.mem ∧ (State.settlePorts a1).cle = a1.cle ∧ (State.settlePorts a1).pue0 = a1.pue0 ∧ (State.settlePorts a1).pue1 = a1.pue1 ∧ (State.settlePorts a1).cke = a1.cke ∧ (State.settlePorts a1).pwr = a1.pwr ∧ (State.settlePorts a1).mss = a1.mss ∧ (State.settlePorts a1).fresh = a1.fresh ∧ (State.settlePorts a1).routineIds = a1.routineIds ∧ (State.settlePorts a1).pending = a1.pending := by
  simp [State.settlePorts]
@[simp] theorem State.settleLight_frame (a1 : State) : (State.settleLight a1).ident = a1.ident ∧ (State.settleLight a1).nv = a1.nv ∧ (State.settleLight a1).top = a1.top ∧ (State.settleLight a1).cores = a1.cores ∧ (State.settleLight a1).mem = a1.mem ∧ (State.settleLight a1).cle = a1.cle ∧ (State.settleLight a1).pue0 = a1.pue0 ∧ (State.settleLight a1).pue1 = a1.pue1 ∧ (State.settleLight a1).cke = a1.cke ∧ (State.settleLight a1).pwr = a1.pwr ∧ (State.settleLight a1).mss = a1.mss ∧ (State.settleLight a1).fresh = a1.fresh ∧ (State.settleLight a1).routineIds = a1.routineIds ∧ (State.settleLight a1).pending = a1.pending := by
  simp [State.settleLight]
@[simp] theorem State.laserFault_frame (a1 : State) (a2) (a3) : (State.laserFault a1 a2 a3).ident = a1.ident ∧ (State.laserFault a1 a2 a3).nv = a1.nv ∧ (State.laserFault a1 a2 a3).top = a1.top ∧ (State.laserFault a1 a2 a3).cores = a1.cores ∧ (State.laserFault a1 a2 a3).mem = a1.mem ∧ (State.laserFault a1 a2 a3).cle = a1.cle ∧ (State.laserFault a1 a2 a3).pue0 = a1.pue0 ∧ (State.laserFault a1 a2 a3).pue1 = a1.pue1 ∧ (State.laserFault a1 a2 a3).cke = a1.cke ∧ (State.laserFault a1 a2 a3).pwr = a1.pwr ∧ (State.laserFault a1 a2 a3).mss = a1.mss ∧ (State.laserFault a1 a2 a3).fresh = a1.fresh ∧ (State.laserFault a1 a2 a3).routineIds = a1.routineIds ∧ (State.laserFault a1 a2 a3).pending = a1.pending := by
  simp [State.laserFault]
@[simp] theorem State.laserCtlWrite_frame (a1 : State) (a2) : (State.laserCtlWrite a1 a2).ident = a1.ident ∧ (State.laserCtlWrite a1 a2).nv = a1.nv ∧ (State.laserCtlWrite a1 a2).top = a1.top ∧ (State.laserCtlWrite a1 a2).cores = a1.cores ∧ (State.laserCtlWrite a1 a2).mem = a1.mem ∧ (State.laserCtlWrite a1 a2).cle = a1.cle ∧ (State.laserCtlWrite a1 a2).pue0 = a1.pue0 ∧ (State.laserCtlWrite a1 a2).pue1 = a1.pue1 ∧ (State.laserCtlWrite a1 a2).cke = a1.cke ∧ (State.laserCtlWrite a1 a2).pwr = a1.pwr ∧ (State.laserCtlWrite a1 a2).mss = a1.mss ∧ (State.laserCtlWrite a1 a2).fresh = a1.fresh ∧ (State.laserCtlWrite a1 a2).routineIds = a1.routineIds ∧ (State.laserCtlWrite a1 a2).pending = a1.pending := by
  simp [State.laserCtlWrite]
@[simp] theorem State.laserStatusWrite_frame (a1 : State) (a2) : (State.laserStatusWrite a1 a2).ident = a1.ident ∧ (State.laserStatusWrite a1 a2).nv = a1.nv ∧ (State.laserStatusWrite a1 a2).top = a1.top ∧ (State.laserStatusWrite a1 a2).cores = a1.cores ∧ (State.laserStatusWrite a1 a2).mem = a1.mem ∧ (State.laserStatusWrite a1 a2).cle = a1.cle ∧ (State.laserStatusWrite a1 a2).pue0 = a1.pue0 ∧ (State.laserStatusWrite a1 a2).pue1 = a1.pue1 ∧ (State.laserStatusWrite a1 a2).cke = a1.cke ∧ (State.laserStatusWrite a1 a2).pwr = a1.pwr ∧ (State.laserStatusWrite a1 a2).mss = a1.mss ∧ (State.laserStatusWrite a1 a2).fresh = a1.fresh ∧ (State.laserStatusWrite a1 a2).routineIds = a1.routineIds ∧ (State.laserStatusWrite a1 a2).pending = a1.pending := by
  simp [State.laserStatusWrite]
@[simp] theorem State.assignLaser_frame (a1 : State) (a2) : (State.assignLaser a1 a2).ident = a1.ident ∧ (State.assignLaser a1 a2).nv = a1.nv ∧ (State.assignLaser a1 a2).top = a1.top ∧ (State.assignLaser a1 a2).cores = a1.cores ∧ (State.assignLaser a1 a2).hub = a1.hub ∧ (State.assignLaser a1 a2).err = a1.err ∧ (State.assignLaser a1 a2).mem = a1.mem ∧ (State.assignLaser a1 a2).cle = a1.cle ∧ (State.assignLaser a1 a2).pue0 = a1.pue0 ∧ (State.assignLaser a1 a2).pue1 = a1.pue1 ∧ (State.assignLaser a1 a2).cke = a1.cke ∧ (State.assignLaser a1 a2).pwr = a1.pwr ∧ (State.assignLaser a1 a2).fab = a1.fab ∧ (State.assignLaser a1 a2).pmu = a1.pmu ∧ (State.assignLaser a1 a2).mss = a1.mss ∧ (State.assignLaser a1 a2).fresh = a1.fresh ∧ (State.assignLaser a1 a2).routineIds = a1.routineIds ∧ (State.assignLaser a1 a2).pending = a1.pending := by
  simp [State.assignLaser]
@[simp] theorem State.logEntry_frame (a1 : State) (a2) (a3) (a4) (a5) (a6) (a7) : (State.logEntry a1 a2 a3 a4 a5 a6 a7).ident = a1.ident ∧ (State.logEntry a1 a2 a3 a4 a5 a6 a7).nv = a1.nv ∧ (State.logEntry a1 a2 a3 a4 a5 a6 a7).top = a1.top ∧ (State.logEntry a1 a2 a3 a4 a5 a6 a7).cores = a1.cores ∧ (State.logEntry a1 a2 a3 a4 a5 a6 a7).hub = a1.hub ∧ (State.logEntry a1 a2 a3 a4 a5 a6 a7).err = a1.err ∧ (State.logEntry a1 a2 a3 a4 a5 a6 a7).mem = a1.mem ∧ (State.logEntry a1 a2 a3 a4 a5 a6 a7).cle = a1.cle ∧ (State.logEntry a1 a2 a3 a4 a5 a6 a7).pue0 = a1.pue0 ∧ (State.logEntry a1 a2 a3 a4 a5 a6 a7).pue1 = a1.pue1 ∧ (State.logEntry a1 a2 a3 a4 a5 a6 a7).cke = a1.cke ∧ (State.logEntry a1 a2 a3 a4 a5 a6 a7).pwr = a1.pwr ∧ (State.logEntry a1 a2 a3 a4 a5 a6 a7).fab = a1.fab ∧ (State.logEntry a1 a2 a3 a4 a5 a6 a7).pmu = a1.pmu ∧ (State.logEntry a1 a2 a3 a4 a5 a6 a7).sent = a1.sent ∧ (State.logEntry a1 a2 a3 a4 a5 a6 a7).fresh = a1.fresh ∧ (State.logEntry a1 a2 a3 a4 a5 a6 a7).routineIds = a1.routineIds ∧ (State.logEntry a1 a2 a3 a4 a5 a6 a7).pending = a1.pending := by
  simp [State.logEntry]
@[simp] theorem State.logInfo_frame (a1 : State) (a2) (a3) : (State.logInfo a1 a2 a3).ident = a1.ident ∧ (State.logInfo a1 a2 a3).nv = a1.nv ∧ (State.logInfo a1 a2 a3).top = a1.top ∧ (State.logInfo a1 a2 a3).cores = a1.cores ∧ (State.logInfo a1 a2 a3).hub = a1.hub ∧ (State.logInfo a1 a2 a3).err = a1.err ∧ (State.logInfo a1 a2 a3).mem = a1.mem ∧ (State.logInfo a1 a2 a3).cle = a1.cle ∧ (State.logInfo a1 a2 a3).pue0 = a1.pue0 ∧ (State.logInfo a1 a2 a3).pue1 = a1.pue1 ∧ (State.logInfo a1 a2 a3).cke = a1.cke ∧ (State.logInfo a1 a2 a3).pwr = a1.pwr ∧ (State.logInfo a1 a2 a3).fab = a1.fab ∧ (State.logInfo a1 a2 a3).pmu = a1.pmu ∧ (State.logInfo a1 a2 a3).sent = a1.sent ∧ (State.logInfo a1 a2 a3).fresh = a1.fresh ∧ (State.logInfo a1 a2 a3).routineIds = a1.routineIds ∧ (State.logInfo a1 a2 a3).pending = a1.pending := by
  simp [State.logInfo]
@[simp] theorem State.logReset_frame (a1 : State) : (State.logReset a1).ident = a1.ident ∧ (State.logReset a1).nv = a1.nv ∧ (State.logReset a1).top = a1.top ∧ (State.logReset a1).cores = a1.cores ∧ (State.logReset a1).hub = a1.hub ∧ (State.logReset a1).err = a1.err ∧ (State.logReset a1).mem = a1.mem ∧ (State.logReset a1).cle = a1.cle ∧ (State.logReset a1).pue0 = a1.pue0 ∧ (State.logReset a1).pue1 = a1.pue1 ∧ (State.logReset a1).cke = a1.cke ∧ (State.logReset a1).pwr = a1.pwr ∧ (State.logReset a1).fab = a1.fab ∧ (State.logReset a1).pmu = a1.pmu ∧ (State.logReset a1).sent = a1.sent ∧ (State.logReset a1).routineIds = a1.routineIds ∧ (State.logReset a1).pending = a1.pending := by
  simp [State.logReset]
@[simp] theorem State.logError_frame (a1 : State) (a2) : (State.logError a1 a2).ident = a1.ident ∧ (State.logError a1 a2).nv = a1.nv ∧ (State.logError a1 a2).top = a1.top ∧ (State.logError a1 a2).cores = a1.cores ∧ (State.logError a1 a2).hub = a1.hub ∧ (State.logError a1 a2).err = a1.err ∧ (State.logError a1 a2).mem = a1.mem ∧ (State.logError a1 a2).cle = a1.cle ∧ (State.logError a1 a2).pue0 = a1.pue0 ∧ (State.logError a1 a2).pue1 = a1.pue1 ∧ (State.logError a1 a2).cke = a1.cke ∧ (State.logError a1 a2).pwr = a1.pwr ∧ (State.logError a1 a2).fab = a1.fab ∧ (State.logError a1 a2).pmu = a1.pmu ∧ (State.logError a1 a2).sent = a1.sent ∧ (State.logError a1 a2).fresh = a1.fresh ∧ (State.logError a1 a2).routineIds = a1.routineIds ∧ (State.logError a1 a2).pending = a1.pending := by
  simp [State.logError]
@[simp] theorem State.nudge_frame (a1 : State) : (State.nudge a1).ident = a1.ident ∧ (State.nudge a1).nv = a1.nv ∧ (State.nudge a1).top = a1.top ∧ (State.nudge a1).cores = a1.cores ∧ (State.nudge a1).hub = a1.hub ∧ (State.nudge a1).err = a1.err ∧ (State.nudge a1).mem = a1.mem ∧ (State.nudge a1).cle = a1.cle ∧ (State.nudge a1).pue0 = a1.pue0 ∧ (State.nudge a1).pue1 = a1.pue1 ∧ (State.nudge a1).cke = a1.cke ∧ (State.nudge a1).pwr = a1.pwr ∧ (State.nudge a1).fab = a1.fab ∧ (State.nudge a1).pmu = a1.pmu ∧ (State.nudge a1).fresh = a1.fresh ∧ (State.nudge a1).routineIds = a1.routineIds ∧ (State.nudge a1).pending = a1.pending := by
  simp [State.nudge]
@[simp] theorem State.fillM2h_frame (a1 : State) : (State.fillM2h a1).ident = a1.ident ∧ (State.fillM2h a1).nv = a1.nv ∧ (State.fillM2h a1).top = a1.top ∧ (State.fillM2h a1).cores = a1.cores ∧ (State.fillM2h a1).err = a1.err ∧ (State.fillM2h a1).mem = a1.mem ∧ (State.fillM2h a1).cle = a1.cle ∧ (State.fillM2h a1).pue0 = a1.pue0 ∧ (State.fillM2h a1).pue1 = a1.pue1 ∧ (State.fillM2h a1).cke = a1.cke ∧ (State.fillM2h a1).pwr = a1.pwr ∧ (State.fillM2h a1).fab = a1.fab ∧ (State.fillM2h a1).pmu = a1.pmu ∧ (State.fillM2h a1).routineIds = a1.routineIds ∧ (State.fillM2h a1).pending = a1.pending := by
  simp only [State.fillM2h]
  repeat' split
  all_goals simp
@[simp] theorem State.mssReply_frame (a1 : State) (a2) (a3) : (State.mssReply a1 a2 a3).ident = a1.ident ∧ (State.mssReply a1 a2 a3).nv = a1.nv ∧ (State.mssReply a1 a2 a3).top = a1.top ∧ (State.mssReply a1 a2 a3).cores = a1.cores ∧ (State.mssReply a1 a2 a3).err = a1.err ∧ (State.mssReply a1 a2 a3).mem = a1.mem ∧ (State.mssReply a1 a2 a3).cle = a1.cle ∧ (State.mssReply a1 a2 a3).pue0 = a1.pue0 ∧ (State.mssReply a1 a2 a3).pue1 = a1.pue1 ∧ (State.mssReply a1 a2 a3).cke = a1.cke ∧ (State.mssReply a1 a2 a3).pwr = a1.pwr ∧ (State.mssReply a1 a2 a3).fab = a1.fab ∧ (State.mssReply a1 a2 a3).pmu = a1.pmu ∧ (State.mssReply a1 a2 a3).routineIds = a1.routineIds ∧ (State.mssReply a1 a2 a3).pending = a1.pending := by
  simp only [State.mssReply]
  repeat' split
  all_goals simp
@[simp] theorem State.mssEvent_frame (a1 : State) (a2) (a3) : (State.mssEvent a1 a2 a3).ident = a1.ident ∧ (State.mssEvent a1 a2 a3).nv = a1.nv ∧ (State.mssEvent a1 a2 a3).top = a1.top ∧ (State.mssEvent a1 a2 a3).cores = a1.cores ∧ (State.mssEvent a1 a2 a3).err = a1.err ∧ (State.mssEvent a1 a2 a3).mem = a1.mem ∧ (State.mssEvent a1 a2 a3).cle = a1.cle ∧ (State.mssEvent a1 a2 a3).pue0 = a1.pue0 ∧ (State.mssEvent a1 a2 a3).pue1 = a1.pue1 ∧ (State.mssEvent a1 a2 a3).cke = a1.cke ∧ (State.mssEvent a1 a2 a3).pwr = a1.pwr ∧ (State.mssEvent a1 a2 a3).fab = a1.fab ∧ (State.mssEvent a1 a2 a3).pmu = a1.pmu ∧ (State.mssEvent a1 a2 a3).routineIds = a1.routineIds ∧ (State.mssEvent a1 a2 a3).pending = a1.pending := by
  simp only [State.mssEvent]
  repeat' split
  all_goals simp
@[simp] theorem State.scramble_frame (a1 : State) (a2) : (State.scramble a1 a2).ident = a1.ident ∧ (State.scramble a1 a2).nv = a1.nv ∧ (State.scramble a1 a2).top = a1.top ∧ (State.scramble a1 a2).cores = a1.cores ∧ (State.scramble a1 a2).hub = a1.hub ∧ (State.scramble a1 a2).err = a1.err ∧ (State.scramble a1 a2).cle = a1.cle ∧ (State.scramble a1 a2).pue0 = a1.pue0 ∧ (State.scramble a1 a2).pue1 = a1.pue1 ∧ (State.scramble a1 a2).cke = a1.cke ∧ (State.scramble a1 a2).pwr = a1.pwr ∧ (State.scramble a1 a2).fab = a1.fab ∧ (State.scramble a1 a2).pmu = a1.pmu ∧ (State.scramble a1 a2).mss = a1.mss ∧ (State.scramble a1 a2).sent = a1.sent ∧ (State.scramble a1 a2).routineIds = a1.routineIds ∧ (State.scramble a1 a2).pending = a1.pending := by
  simp [State.scramble]
@[simp] theorem State.stopAll_frame (a1 : State) : (State.stopAll a1).ident = a1.ident ∧ (State.stopAll a1).nv = a1.nv ∧ (State.stopAll a1).top = a1.top ∧ (State.stopAll a1).mss = a1.mss ∧ (State.stopAll a1).routineIds = a1.routineIds ∧ (State.stopAll a1).pending = a1.pending := by
  simp [State.stopAll]
@[simp] theorem State.startFatal_frame (a1 : State) (a2) (a3) : (State.startFatal a1 a2 a3).ident = a1.ident ∧ (State.startFatal a1 a2 a3).nv = a1.nv ∧ (State.startFatal a1 a2 a3).top = a1.top ∧ (State.startFatal a1 a2 a3).mss = a1.mss ∧ (State.startFatal a1 a2 a3).routineIds = a1.routineIds ∧ (State.startFatal a1 a2 a3).pending = a1.pending := by
  simp only [State.startFatal]
  repeat' split
  all_goals simp
@[simp] theorem State.fatalRecord_frame (a1 : State) (a2) (a3) : (State.fatalRecord a1 a2 a3).ident = a1.ident ∧ (State.fatalRecord a1 a2 a3).nv = a1.nv ∧ (State.fatalRecord a1 a2 a3).top = a1.top ∧ (State.fatalRecord a1 a2 a3).mss = a1.mss ∧ (State.fatalRecord a1 a2 a3).routineIds = a1.routineIds ∧ (State.fatalRecord a1 a2 a3).pending = a1.pending := by
  simp [State.fatalRecord]
@[simp] theorem State.answerHalt_frame (a1 : State) (a2) (a3) : (State.answerHalt a1 a2 a3).ident = a1.ident ∧ (State.answerHalt a1 a2 a3).nv = a1.nv ∧ (State.answerHalt a1 a2 a3).top = a1.top ∧ (State.answerHalt a1 a2 a3).cores = a1.cores ∧ (State.answerHalt a1 a2 a3).err = a1.err ∧ (State.answerHalt a1 a2 a3).mem = a1.mem ∧ (State.answerHalt a1 a2 a3).cle = a1.cle ∧ (State.answerHalt a1 a2 a3).pue0 = a1.pue0 ∧ (State.answerHalt a1 a2 a3).pue1 = a1.pue1 ∧ (State.answerHalt a1 a2 a3).cke = a1.cke ∧ (State.answerHalt a1 a2 a3).pwr = a1.pwr ∧ (State.answerHalt a1 a2 a3).fab = a1.fab ∧ (State.answerHalt a1 a2 a3).mss = a1.mss ∧ (State.answerHalt a1 a2 a3).fresh = a1.fresh ∧ (State.answerHalt a1 a2 a3).routineIds = a1.routineIds ∧ (State.answerHalt a1 a2 a3).pending = a1.pending := by
  simp only [State.answerHalt]
  repeat' split
  all_goals simp
@[simp] theorem State.answerOcc_frame (a1 : State) (a2) (a3) : (State.answerOcc a1 a2 a3).ident = a1.ident ∧ (State.answerOcc a1 a2 a3).nv = a1.nv ∧ (State.answerOcc a1 a2 a3).top = a1.top ∧ (State.answerOcc a1 a2 a3).cores = a1.cores ∧ (State.answerOcc a1 a2 a3).err = a1.err ∧ (State.answerOcc a1 a2 a3).mem = a1.mem ∧ (State.answerOcc a1 a2 a3).cle = a1.cle ∧ (State.answerOcc a1 a2 a3).pue0 = a1.pue0 ∧ (State.answerOcc a1 a2 a3).pue1 = a1.pue1 ∧ (State.answerOcc a1 a2 a3).cke = a1.cke ∧ (State.answerOcc a1 a2 a3).pwr = a1.pwr ∧ (State.answerOcc a1 a2 a3).fab = a1.fab ∧ (State.answerOcc a1 a2 a3).mss = a1.mss ∧ (State.answerOcc a1 a2 a3).fresh = a1.fresh ∧ (State.answerOcc a1 a2 a3).routineIds = a1.routineIds ∧ (State.answerOcc a1 a2 a3).pending = a1.pending := by
  simp only [State.answerOcc]
  repeat' split
  all_goals simp
@[simp] theorem State.notify_frame (a1 : State) (a2) : (State.notify a1 a2).ident = a1.ident ∧ (State.notify a1 a2).nv = a1.nv ∧ (State.notify a1 a2).top = a1.top ∧ (State.notify a1 a2).cores = a1.cores ∧ (State.notify a1 a2).err = a1.err ∧ (State.notify a1 a2).mem = a1.mem ∧ (State.notify a1 a2).cle = a1.cle ∧ (State.notify a1 a2).pue0 = a1.pue0 ∧ (State.notify a1 a2).pue1 = a1.pue1 ∧ (State.notify a1 a2).cke = a1.cke ∧ (State.notify a1 a2).pwr = a1.pwr ∧ (State.notify a1 a2).fab = a1.fab ∧ (State.notify a1 a2).mss = a1.mss ∧ (State.notify a1 a2).fresh = a1.fresh ∧ (State.notify a1 a2).routineIds = a1.routineIds ∧ (State.notify a1 a2).pending = a1.pending := by
  simp only [State.notify]
  repeat' split
  all_goals simp
@[simp] theorem State.acceptHeld_frame (a1 : State) : (State.acceptHeld a1).ident = a1.ident ∧ (State.acceptHeld a1).nv = a1.nv ∧ (State.acceptHeld a1).top = a1.top ∧ (State.acceptHeld a1).cores = a1.cores ∧ (State.acceptHeld a1).mem = a1.mem ∧ (State.acceptHeld a1).cle = a1.cle ∧ (State.acceptHeld a1).pue0 = a1.pue0 ∧ (State.acceptHeld a1).pue1 = a1.pue1 ∧ (State.acceptHeld a1).cke = a1.cke ∧ (State.acceptHeld a1).pwr = a1.pwr ∧ (State.acceptHeld a1).fab = a1.fab ∧ (State.acceptHeld a1).mss = a1.mss ∧ (State.acceptHeld a1).fresh = a1.fresh ∧ (State.acceptHeld a1).routineIds = a1.routineIds ∧ (State.acceptHeld a1).pending = a1.pending := by
  simp only [State.acceptHeld]
  repeat' split
  all_goals simp
@[simp] theorem State.recordOcc_frame (a1 : State) (a2) : (State.recordOcc a1 a2).ident = a1.ident ∧ (State.recordOcc a1 a2).nv = a1.nv ∧ (State.recordOcc a1 a2).top = a1.top ∧ (State.recordOcc a1 a2).routineIds = a1.routineIds ∧ (State.recordOcc a1 a2).pending = a1.pending := by
  simp only [State.recordOcc]
  repeat' split
  all_goals simp
@[simp] theorem State.errValidWrite_frame (a1 : State) (a2) : (State.errValidWrite a1 a2).ident = a1.ident ∧ (State.errValidWrite a1 a2).nv = a1.nv ∧ (State.errValidWrite a1 a2).top = a1.top ∧ (State.errValidWrite a1 a2).cores = a1.cores ∧ (State.errValidWrite a1 a2).hub = a1.hub ∧ (State.errValidWrite a1 a2).mem = a1.mem ∧ (State.errValidWrite a1 a2).cle = a1.cle ∧ (State.errValidWrite a1 a2).pue0 = a1.pue0 ∧ (State.errValidWrite a1 a2).pue1 = a1.pue1 ∧ (State.errValidWrite a1 a2).cke = a1.cke ∧ (State.errValidWrite a1 a2).pwr = a1.pwr ∧ (State.errValidWrite a1 a2).fab = a1.fab ∧ (State.errValidWrite a1 a2).pmu = a1.pmu ∧ (State.errValidWrite a1 a2).mss = a1.mss ∧ (State.errValidWrite a1 a2).sent = a1.sent ∧ (State.errValidWrite a1 a2).fresh = a1.fresh ∧ (State.errValidWrite a1 a2).routineIds = a1.routineIds ∧ (State.errValidWrite a1 a2).pending = a1.pending := by
  simp [State.errValidWrite]
@[simp] theorem State.fatalStatusWrite_frame (a1 : State) (a2) : (State.fatalStatusWrite a1 a2).ident = a1.ident ∧ (State.fatalStatusWrite a1 a2).nv = a1.nv ∧ (State.fatalStatusWrite a1 a2).top = a1.top ∧ (State.fatalStatusWrite a1 a2).cores = a1.cores ∧ (State.fatalStatusWrite a1 a2).hub = a1.hub ∧ (State.fatalStatusWrite a1 a2).mem = a1.mem ∧ (State.fatalStatusWrite a1 a2).cle = a1.cle ∧ (State.fatalStatusWrite a1 a2).pue0 = a1.pue0 ∧ (State.fatalStatusWrite a1 a2).pue1 = a1.pue1 ∧ (State.fatalStatusWrite a1 a2).cke = a1.cke ∧ (State.fatalStatusWrite a1 a2).pwr = a1.pwr ∧ (State.fatalStatusWrite a1 a2).fab = a1.fab ∧ (State.fatalStatusWrite a1 a2).pmu = a1.pmu ∧ (State.fatalStatusWrite a1 a2).mss = a1.mss ∧ (State.fatalStatusWrite a1 a2).sent = a1.sent ∧ (State.fatalStatusWrite a1 a2).fresh = a1.fresh ∧ (State.fatalStatusWrite a1 a2).routineIds = a1.routineIds ∧ (State.fatalStatusWrite a1 a2).pending = a1.pending := by
  simp [State.fatalStatusWrite]
@[simp] theorem State.errInject_frame (a1 : State) (a2) : (State.errInject a1 a2).ident = a1.ident ∧ (State.errInject a1 a2).nv = a1.nv ∧ (State.errInject a1 a2).top = a1.top ∧ (State.errInject a1 a2).cores = a1.cores ∧ (State.errInject a1 a2).mem = a1.mem ∧ (State.errInject a1 a2).cle = a1.cle ∧ (State.errInject a1 a2).pue0 = a1.pue0 ∧ (State.errInject a1 a2).pue1 = a1.pue1 ∧ (State.errInject a1 a2).cke = a1.cke ∧ (State.errInject a1 a2).pwr = a1.pwr ∧ (State.errInject a1 a2).fab = a1.fab ∧ (State.errInject a1 a2).mss = a1.mss ∧ (State.errInject a1 a2).fresh = a1.fresh ∧ (State.errInject a1 a2).routineIds = a1.routineIds ∧ (State.errInject a1 a2).pending = a1.pending := by
  simp [State.errInject]
@[simp] theorem State.wiped_frame (a1 : State) : (State.wiped a1).ident = a1.ident ∧ (State.wiped a1).nv = a1.nv ∧ (State.wiped a1).sent = a1.sent ∧ (State.wiped a1).fresh = a1.fresh ∧ (State.wiped a1).pending = a1.pending := by
  simp [State.wiped]
@[simp] theorem State.triggerCold_frame (a1 : State) : (State.triggerCold a1).ident = a1.ident ∧ (State.triggerCold a1).nv = a1.nv ∧ (State.triggerCold a1).sent = a1.sent ∧ (State.triggerCold a1).pending = a1.pending := by
  simp [State.triggerCold]
@[simp] theorem State.enumerate_frame (a1 : State) (a2) (a3) (a4) : (State.enumerate a1 a2 a3 a4).ident = a1.ident ∧ (State.enumerate a1 a2 a3 a4).nv = a1.nv ∧ (State.enumerate a1 a2 a3 a4).top = a1.top ∧ (State.enumerate a1 a2 a3 a4).cores = a1.cores ∧ (State.enumerate a1 a2 a3 a4).hub = a1.hub ∧ (State.enumerate a1 a2 a3 a4).err = a1.err ∧ (State.enumerate a1 a2 a3 a4).cle = a1.cle ∧ (State.enumerate a1 a2 a3 a4).pue0 = a1.pue0 ∧ (State.enumerate a1 a2 a3 a4).pue1 = a1.pue1 ∧ (State.enumerate a1 a2 a3 a4).cke = a1.cke ∧ (State.enumerate a1 a2 a3 a4).pwr = a1.pwr ∧ (State.enumerate a1 a2 a3 a4).fab = a1.fab ∧ (State.enumerate a1 a2 a3 a4).pmu = a1.pmu ∧ (State.enumerate a1 a2 a3 a4).mss = a1.mss ∧ (State.enumerate a1 a2 a3 a4).sent = a1.sent ∧ (State.enumerate a1 a2 a3 a4).fresh = a1.fresh ∧ (State.enumerate a1 a2 a3 a4).routineIds = a1.routineIds ∧ (State.enumerate a1 a2 a3 a4).pending = a1.pending := by
  simp [State.enumerate]
@[simp] theorem State.stagesOff_frame (a1 : State) : (State.stagesOff a1).ident = a1.ident ∧ (State.stagesOff a1).nv = a1.nv ∧ (State.stagesOff a1).sent = a1.sent ∧ (State.stagesOff a1).fresh = a1.fresh ∧ (State.stagesOff a1).pending = a1.pending := by
  simp [State.stagesOff]
@[simp] theorem State.softReset_frame (a1 : State) (a2) : (State.softReset a1 a2).ident = a1.ident ∧ (State.softReset a1 a2).nv = a1.nv ∧ (State.softReset a1 a2).pmu = a1.pmu ∧ (State.softReset a1 a2).mss = a1.mss ∧ (State.softReset a1 a2).sent = a1.sent ∧ (State.softReset a1 a2).fresh = a1.fresh ∧ (State.softReset a1 a2).routineIds = a1.routineIds ∧ (State.softReset a1 a2).pending = a1.pending := by
  simp [State.softReset]
@[simp] theorem State.warmReset_frame (a1 : State) (a2) (a3) : (State.warmReset a1 a2 a3).ident = a1.ident ∧ (State.warmReset a1 a2 a3).nv = a1.nv ∧ (State.warmReset a1 a2 a3).sent = a1.sent ∧ (State.warmReset a1 a2 a3).pending = a1.pending := by
  simp [State.warmReset]
@[simp] theorem State.hubReset_frame (a1 : State) : (State.hubReset a1).ident = a1.ident ∧ (State.hubReset a1).nv = a1.nv ∧ (State.hubReset a1).routineIds = a1.routineIds ∧ (State.hubReset a1).pending = a1.pending := by
  simp only [State.hubReset]
  repeat' split
  all_goals simp
@[simp] theorem State.topResetWrite_frame (a1 : State) (a2) (a3) : (State.topResetWrite a1 a2 a3).ident = a1.ident ∧ (State.topResetWrite a1 a2 a3).nv = a1.nv ∧ (State.topResetWrite a1 a2 a3).pending = a1.pending := by
  simp [State.topResetWrite]
@[simp] theorem State.hostReset_frame (a1 : State) (a2) (a3) : (State.hostReset a1 a2 a3).ident = a1.ident ∧ (State.hostReset a1 a2 a3).nv = a1.nv ∧ (State.hostReset a1 a2 a3).pending = a1.pending := by
  simp [State.hostReset]
@[simp] theorem State.latchFatal_frame (a1 : State) (a2) (a3) : (State.latchFatal a1 a2 a3).ident = a1.ident ∧ (State.latchFatal a1 a2 a3).nv = a1.nv ∧ (State.latchFatal a1 a2 a3).top = a1.top ∧ (State.latchFatal a1 a2 a3).cores = a1.cores ∧ (State.latchFatal a1 a2 a3).hub = a1.hub ∧ (State.latchFatal a1 a2 a3).mem = a1.mem ∧ (State.latchFatal a1 a2 a3).cle = a1.cle ∧ (State.latchFatal a1 a2 a3).pue0 = a1.pue0 ∧ (State.latchFatal a1 a2 a3).pue1 = a1.pue1 ∧ (State.latchFatal a1 a2 a3).cke = a1.cke ∧ (State.latchFatal a1 a2 a3).pwr = a1.pwr ∧ (State.latchFatal a1 a2 a3).fab = a1.fab ∧ (State.latchFatal a1 a2 a3).pmu = a1.pmu ∧ (State.latchFatal a1 a2 a3).sent = a1.sent ∧ (State.latchFatal a1 a2 a3).fresh = a1.fresh ∧ (State.latchFatal a1 a2 a3).routineIds = a1.routineIds ∧ (State.latchFatal a1 a2 a3).pending = a1.pending := by
  simp [State.latchFatal]
@[simp] theorem State.powerDownDie_frame (a1 : State) (a2) : (State.powerDownDie a1 a2).ident = a1.ident ∧ (State.powerDownDie a1 a2).nv = a1.nv ∧ (State.powerDownDie a1 a2).cle = a1.cle ∧ (State.powerDownDie a1 a2).fab = a1.fab ∧ (State.powerDownDie a1 a2).mss = a1.mss ∧ (State.powerDownDie a1 a2).fresh = a1.fresh ∧ (State.powerDownDie a1 a2).routineIds = a1.routineIds ∧ (State.powerDownDie a1 a2).pending = a1.pending := by
  simp [State.powerDownDie]
@[simp] theorem State.loseHub_frame (a1 : State) : (State.loseHub a1).ident = a1.ident ∧ (State.loseHub a1).nv = a1.nv ∧ (State.loseHub a1).sent = a1.sent ∧ (State.loseHub a1).fresh = a1.fresh ∧ (State.loseHub a1).pending = a1.pending := by
  simp [State.loseHub]
@[simp] theorem State.coolantSet_frame (a1 : State) (a2) (a3) : (State.coolantSet a1 a2 a3).ident = a1.ident ∧ (State.coolantSet a1 a2 a3).nv = a1.nv ∧ (State.coolantSet a1 a2 a3).top = a1.top ∧ (State.coolantSet a1 a2 a3).cores = a1.cores ∧ (State.coolantSet a1 a2 a3).mem = a1.mem ∧ (State.coolantSet a1 a2 a3).cle = a1.cle ∧ (State.coolantSet a1 a2 a3).pue0 = a1.pue0 ∧ (State.coolantSet a1 a2 a3).pue1 = a1.pue1 ∧ (State.coolantSet a1 a2 a3).cke = a1.cke ∧ (State.coolantSet a1 a2 a3).fab = a1.fab ∧ (State.coolantSet a1 a2 a3).mss = a1.mss ∧ (State.coolantSet a1 a2 a3).fresh = a1.fresh ∧ (State.coolantSet a1 a2 a3).routineIds = a1.routineIds ∧ (State.coolantSet a1 a2 a3).pending = a1.pending := by
  simp [State.coolantSet]
@[simp] theorem State.coolantWrite_frame (a1 : State) (a2) : (State.coolantWrite a1 a2).ident = a1.ident ∧ (State.coolantWrite a1 a2).nv = a1.nv ∧ (State.coolantWrite a1 a2).top = a1.top ∧ (State.coolantWrite a1 a2).cores = a1.cores ∧ (State.coolantWrite a1 a2).mem = a1.mem ∧ (State.coolantWrite a1 a2).cle = a1.cle ∧ (State.coolantWrite a1 a2).pue0 = a1.pue0 ∧ (State.coolantWrite a1 a2).pue1 = a1.pue1 ∧ (State.coolantWrite a1 a2).cke = a1.cke ∧ (State.coolantWrite a1 a2).fab = a1.fab ∧ (State.coolantWrite a1 a2).mss = a1.mss ∧ (State.coolantWrite a1 a2).fresh = a1.fresh ∧ (State.coolantWrite a1 a2).routineIds = a1.routineIds ∧ (State.coolantWrite a1 a2).pending = a1.pending := by
  simp [State.coolantWrite]
@[simp] theorem State.pkgLimitWrite_frame (a1 : State) (a2) : (State.pkgLimitWrite a1 a2).ident = a1.ident ∧ (State.pkgLimitWrite a1 a2).nv = a1.nv ∧ (State.pkgLimitWrite a1 a2).top = a1.top ∧ (State.pkgLimitWrite a1 a2).cores = a1.cores ∧ (State.pkgLimitWrite a1 a2).hub = a1.hub ∧ (State.pkgLimitWrite a1 a2).err = a1.err ∧ (State.pkgLimitWrite a1 a2).mem = a1.mem ∧ (State.pkgLimitWrite a1 a2).cle = a1.cle ∧ (State.pkgLimitWrite a1 a2).pue0 = a1.pue0 ∧ (State.pkgLimitWrite a1 a2).pue1 = a1.pue1 ∧ (State.pkgLimitWrite a1 a2).cke = a1.cke ∧ (State.pkgLimitWrite a1 a2).fab = a1.fab ∧ (State.pkgLimitWrite a1 a2).pmu = a1.pmu ∧ (State.pkgLimitWrite a1 a2).mss = a1.mss ∧ (State.pkgLimitWrite a1 a2).sent = a1.sent ∧ (State.pkgLimitWrite a1 a2).fresh = a1.fresh ∧ (State.pkgLimitWrite a1 a2).routineIds = a1.routineIds ∧ (State.pkgLimitWrite a1 a2).pending = a1.pending := by
  simp [State.pkgLimitWrite]
@[simp] theorem State.replanned_frame (a1 : State) (a2) (a3) (a4) : (State.replanned a1 a2 a3 a4).ident = a1.ident ∧ (State.replanned a1 a2 a3 a4).nv = a1.nv ∧ (State.replanned a1 a2 a3 a4).top = a1.top ∧ (State.replanned a1 a2 a3 a4).cores = a1.cores ∧ (State.replanned a1 a2 a3 a4).mem = a1.mem ∧ (State.replanned a1 a2 a3 a4).cle = a1.cle ∧ (State.replanned a1 a2 a3 a4).pue0 = a1.pue0 ∧ (State.replanned a1 a2 a3 a4).pue1 = a1.pue1 ∧ (State.replanned a1 a2 a3 a4).cke = a1.cke ∧ (State.replanned a1 a2 a3 a4).pwr = a1.pwr ∧ (State.replanned a1 a2 a3 a4).fab = a1.fab ∧ (State.replanned a1 a2 a3 a4).mss = a1.mss ∧ (State.replanned a1 a2 a3 a4).fresh = a1.fresh ∧ (State.replanned a1 a2 a3 a4).routineIds = a1.routineIds ∧ (State.replanned a1 a2 a3 a4).pending = a1.pending := by
  simp [State.replanned]
@[simp] theorem replanN_frame (a1) (a2) (a3 : State) : (replanN a1 a2 a3).2.ident = a3.ident ∧ (replanN a1 a2 a3).2.nv = a3.nv ∧ (replanN a1 a2 a3).2.top = a3.top ∧ (replanN a1 a2 a3).2.cores = a3.cores ∧ (replanN a1 a2 a3).2.mem = a3.mem ∧ (replanN a1 a2 a3).2.cle = a3.cle ∧ (replanN a1 a2 a3).2.pue0 = a3.pue0 ∧ (replanN a1 a2 a3).2.pue1 = a3.pue1 ∧ (replanN a1 a2 a3).2.cke = a3.cke ∧ (replanN a1 a2 a3).2.fab = a3.fab ∧ (replanN a1 a2 a3).2.mss = a3.mss ∧ (replanN a1 a2 a3).2.fresh = a3.fresh ∧ (replanN a1 a2 a3).2.routineIds = a3.routineIds ∧ (replanN a1 a2 a3).2.pending = a3.pending := by
  induction a2 generalizing a3 with
  | zero => simp [replanN]
  | succ n ih =>
    unfold replanN
    try dsimp only
    repeat' split
    all_goals simp_all
@[simp] theorem State.aoTick_frame (a1 : State) : (State.aoTick a1).ident = a1.ident ∧ (State.aoTick a1).nv = a1.nv ∧ (State.aoTick a1).top = a1.top ∧ (State.aoTick a1).cores = a1.cores ∧ (State.aoTick a1).hub = a1.hub ∧ (State.aoTick a1).err = a1.err ∧ (State.aoTick a1).mem = a1.mem ∧ (State.aoTick a1).cle = a1.cle ∧ (State.aoTick a1).pue0 = a1.pue0 ∧ (State.aoTick a1).pue1 = a1.pue1 ∧ (State.aoTick a1).cke = a1.cke ∧ (State.aoTick a1).fab = a1.fab ∧ (State.aoTick a1).pmu = a1.pmu ∧ (State.aoTick a1).mss = a1.mss ∧ (State.aoTick a1).sent = a1.sent ∧ (State.aoTick a1).fresh = a1.fresh ∧ (State.aoTick a1).routineIds = a1.routineIds ∧ (State.aoTick a1).pending = a1.pending := by
  simp [State.aoTick]
@[simp] theorem State.mssTake_frame (a1 : State) (a2) : (State.mssTake a1 a2).ident = a1.ident ∧ (State.mssTake a1 a2).nv = a1.nv ∧ (State.mssTake a1 a2).top = a1.top ∧ (State.mssTake a1 a2).cores = a1.cores ∧ (State.mssTake a1 a2).hub = a1.hub ∧ (State.mssTake a1 a2).err = a1.err ∧ (State.mssTake a1 a2).mem = a1.mem ∧ (State.mssTake a1 a2).cle = a1.cle ∧ (State.mssTake a1 a2).pue0 = a1.pue0 ∧ (State.mssTake a1 a2).pue1 = a1.pue1 ∧ (State.mssTake a1 a2).cke = a1.cke ∧ (State.mssTake a1 a2).pwr = a1.pwr ∧ (State.mssTake a1 a2).fab = a1.fab ∧ (State.mssTake a1 a2).pmu = a1.pmu ∧ (State.mssTake a1 a2).sent = a1.sent ∧ (State.mssTake a1 a2).fresh = a1.fresh ∧ (State.mssTake a1 a2).routineIds = a1.routineIds ∧ (State.mssTake a1 a2).pending = a1.pending := by
  simp only [State.mssTake]
  repeat' split
  all_goals simp
@[simp] theorem State.answerReq_frame (a1 : State) (a2) (a3) (a4) (a5) (a6) : (State.answerReq a1 a2 a3 a4 a5 a6).ident = a1.ident ∧ (State.answerReq a1 a2 a3 a4 a5 a6).nv = a1.nv ∧ (State.answerReq a1 a2 a3 a4 a5 a6).top = a1.top ∧ (State.answerReq a1 a2 a3 a4 a5 a6).cores = a1.cores ∧ (State.answerReq a1 a2 a3 a4 a5 a6).err = a1.err ∧ (State.answerReq a1 a2 a3 a4 a5 a6).mem = a1.mem ∧ (State.answerReq a1 a2 a3 a4 a5 a6).cle = a1.cle ∧ (State.answerReq a1 a2 a3 a4 a5 a6).pue0 = a1.pue0 ∧ (State.answerReq a1 a2 a3 a4 a5 a6).pue1 = a1.pue1 ∧ (State.answerReq a1 a2 a3 a4 a5 a6).cke = a1.cke ∧ (State.answerReq a1 a2 a3 a4 a5 a6).pwr = a1.pwr ∧ (State.answerReq a1 a2 a3 a4 a5 a6).fab = a1.fab ∧ (State.answerReq a1 a2 a3 a4 a5 a6).pmu = a1.pmu ∧ (State.answerReq a1 a2 a3 a4 a5 a6).routineIds = a1.routineIds ∧ (State.answerReq a1 a2 a3 a4 a5 a6).pending = a1.pending := by
  simp [State.answerReq]
@[simp] theorem State.mssRaise_frame (a1 : State) (a2) (a3) (a4) : (State.mssRaise a1 a2 a3 a4).ident = a1.ident ∧ (State.mssRaise a1 a2 a3 a4).nv = a1.nv ∧ (State.mssRaise a1 a2 a3 a4).top = a1.top ∧ (State.mssRaise a1 a2 a3 a4).cores = a1.cores ∧ (State.mssRaise a1 a2 a3 a4).mem = a1.mem ∧ (State.mssRaise a1 a2 a3 a4).cle = a1.cle ∧ (State.mssRaise a1 a2 a3 a4).pue0 = a1.pue0 ∧ (State.mssRaise a1 a2 a3 a4).pue1 = a1.pue1 ∧ (State.mssRaise a1 a2 a3 a4).cke = a1.cke ∧ (State.mssRaise a1 a2 a3 a4).pwr = a1.pwr ∧ (State.mssRaise a1 a2 a3 a4).fab = a1.fab ∧ (State.mssRaise a1 a2 a3 a4).fresh = a1.fresh ∧ (State.mssRaise a1 a2 a3 a4).routineIds = a1.routineIds ∧ (State.mssRaise a1 a2 a3 a4).pending = a1.pending := by
  simp [State.mssRaise]
@[simp] theorem State.refuseLength_frame (a1 : State) : (State.refuseLength a1).ident = a1.ident ∧ (State.refuseLength a1).nv = a1.nv ∧ (State.refuseLength a1).top = a1.top ∧ (State.refuseLength a1).cores = a1.cores ∧ (State.refuseLength a1).err = a1.err ∧ (State.refuseLength a1).mem = a1.mem ∧ (State.refuseLength a1).cle = a1.cle ∧ (State.refuseLength a1).pue0 = a1.pue0 ∧ (State.refuseLength a1).pue1 = a1.pue1 ∧ (State.refuseLength a1).cke = a1.cke ∧ (State.refuseLength a1).pwr = a1.pwr ∧ (State.refuseLength a1).fab = a1.fab ∧ (State.refuseLength a1).pmu = a1.pmu ∧ (State.refuseLength a1).routineIds = a1.routineIds ∧ (State.refuseLength a1).pending = a1.pending := by
  simp [State.refuseLength]
@[simp] theorem State.reserveBlock_frame (a1 : State) : (State.reserveBlock a1).ident = a1.ident ∧ (State.reserveBlock a1).top = a1.top ∧ (State.reserveBlock a1).cores = a1.cores ∧ (State.reserveBlock a1).mem = a1.mem ∧ (State.reserveBlock a1).cle = a1.cle ∧ (State.reserveBlock a1).pue0 = a1.pue0 ∧ (State.reserveBlock a1).pue1 = a1.pue1 ∧ (State.reserveBlock a1).cke = a1.cke ∧ (State.reserveBlock a1).pwr = a1.pwr ∧ (State.reserveBlock a1).fab = a1.fab ∧ (State.reserveBlock a1).fresh = a1.fresh ∧ (State.reserveBlock a1).routineIds = a1.routineIds ∧ (State.reserveBlock a1).pending = a1.pending := by
  simp [State.reserveBlock]
@[simp] theorem State.freshBlock_frame (a1 : State) : (State.freshBlock a1).ident = a1.ident ∧ (State.freshBlock a1).top = a1.top ∧ (State.freshBlock a1).cores = a1.cores ∧ (State.freshBlock a1).mem = a1.mem ∧ (State.freshBlock a1).cle = a1.cle ∧ (State.freshBlock a1).pue0 = a1.pue0 ∧ (State.freshBlock a1).pue1 = a1.pue1 ∧ (State.freshBlock a1).cke = a1.cke ∧ (State.freshBlock a1).pwr = a1.pwr ∧ (State.freshBlock a1).fab = a1.fab ∧ (State.freshBlock a1).fresh = a1.fresh ∧ (State.freshBlock a1).routineIds = a1.routineIds ∧ (State.freshBlock a1).pending = a1.pending := by
  simp [State.freshBlock]
theorem State.takeIndex_frame {a1 : State} {p0} {t : State} (h : (State.takeIndex a1) = some (p0, t)) : t.ident = a1.ident ∧ t.top = a1.top ∧ t.cores = a1.cores ∧ t.mem = a1.mem ∧ t.cle = a1.cle ∧ t.pue0 = a1.pue0 ∧ t.pue1 = a1.pue1 ∧ t.cke = a1.cke ∧ t.pwr = a1.pwr ∧ t.fab = a1.fab ∧ t.fresh = a1.fresh ∧ t.routineIds = a1.routineIds ∧ t.pending = a1.pending := by
  unfold State.takeIndex at h
  try dsimp only at h
  (repeat' split at h) <;> first | (cases h; done) | (cases h; simp) | (cases h; (repeat' split) <;> simp)
@[simp] theorem trySlot_frame (a1) (a2) (a3) : (trySlot a1 a2 a3).2.ident = a2.2.ident ∧ (trySlot a1 a2 a3).2.nv = a2.2.nv ∧ (trySlot a1 a2 a3).2.top = a2.2.top ∧ (trySlot a1 a2 a3).2.cores = a2.2.cores ∧ (trySlot a1 a2 a3).2.mem = a2.2.mem ∧ (trySlot a1 a2 a3).2.cle = a2.2.cle ∧ (trySlot a1 a2 a3).2.pue0 = a2.2.pue0 ∧ (trySlot a1 a2 a3).2.pue1 = a2.2.pue1 ∧ (trySlot a1 a2 a3).2.cke = a2.2.cke ∧ (trySlot a1 a2 a3).2.pwr = a2.2.pwr ∧ (trySlot a1 a2 a3).2.fab = a2.2.fab ∧ (trySlot a1 a2 a3).2.fresh = a2.2.fresh ∧ (trySlot a1 a2 a3).2.routineIds = a2.2.routineIds ∧ (trySlot a1 a2 a3).2.pending = a2.2.pending := by
  simp only [trySlot]
  repeat' split
  all_goals simp
@[simp] theorem State.selectSlot_frame (a1 : State) : (State.selectSlot a1).2.ident = a1.ident ∧ (State.selectSlot a1).2.nv = a1.nv ∧ (State.selectSlot a1).2.top = a1.top ∧ (State.selectSlot a1).2.cores = a1.cores ∧ (State.selectSlot a1).2.mem = a1.mem ∧ (State.selectSlot a1).2.cle = a1.cle ∧ (State.selectSlot a1).2.pue0 = a1.pue0 ∧ (State.selectSlot a1).2.pue1 = a1.pue1 ∧ (State.selectSlot a1).2.cke = a1.cke ∧ (State.selectSlot a1).2.pwr = a1.pwr ∧ (State.selectSlot a1).2.fab = a1.fab ∧ (State.selectSlot a1).2.fresh = a1.fresh ∧ (State.selectSlot a1).2.routineIds = a1.routineIds ∧ (State.selectSlot a1).2.pending = a1.pending := by
  simp only [State.selectSlot]
  repeat' split
  all_goals simp
@[simp] theorem State.promote_frame (a1 : State) : (State.promote a1).ident = a1.ident ∧ (State.promote a1).nv = a1.nv ∧ (State.promote a1).top = a1.top ∧ (State.promote a1).cores = a1.cores ∧ (State.promote a1).hub = a1.hub ∧ (State.promote a1).err = a1.err ∧ (State.promote a1).mem = a1.mem ∧ (State.promote a1).cle = a1.cle ∧ (State.promote a1).pue0 = a1.pue0 ∧ (State.promote a1).pue1 = a1.pue1 ∧ (State.promote a1).cke = a1.cke ∧ (State.promote a1).pwr = a1.pwr ∧ (State.promote a1).fab = a1.fab ∧ (State.promote a1).pmu = a1.pmu ∧ (State.promote a1).sent = a1.sent ∧ (State.promote a1).fresh = a1.fresh ∧ (State.promote a1).routineIds = a1.routineIds ∧ (State.promote a1).pending = a1.pending := by
  simp only [State.promote]
  repeat' split
  all_goals simp
@[simp] theorem State.logRaised_frame (a1 : State) (a2 : State) : (State.logRaised a1 a2).ident = a2.ident ∧ (State.logRaised a1 a2).nv = a2.nv ∧ (State.logRaised a1 a2).top = a2.top ∧ (State.logRaised a1 a2).cores = a2.cores ∧ (State.logRaised a1 a2).hub = a2.hub ∧ (State.logRaised a1 a2).err = a2.err ∧ (State.logRaised a1 a2).mem = a2.mem ∧ (State.logRaised a1 a2).cle = a2.cle ∧ (State.logRaised a1 a2).pue0 = a2.pue0 ∧ (State.logRaised a1 a2).pue1 = a2.pue1 ∧ (State.logRaised a1 a2).cke = a2.cke ∧ (State.logRaised a1 a2).pwr = a2.pwr ∧ (State.logRaised a1 a2).fab = a2.fab ∧ (State.logRaised a1 a2).pmu = a2.pmu ∧ (State.logRaised a1 a2).sent = a2.sent ∧ (State.logRaised a1 a2).fresh = a2.fresh ∧ (State.logRaised a1 a2).routineIds = a2.routineIds ∧ (State.logRaised a1 a2).pending = a2.pending := by
  simp [State.logRaised]
@[simp] theorem State.bootSlot_frame (a1 : State) (a2 : State) (a3) : (State.bootSlot a1 a2 a3).ident = a1.ident ∧ (State.bootSlot a1 a2 a3).top = a1.top ∧ (State.bootSlot a1 a2 a3).cores = a1.cores ∧ (State.bootSlot a1 a2 a3).mem = a1.mem ∧ (State.bootSlot a1 a2 a3).cle = a1.cle ∧ (State.bootSlot a1 a2 a3).pue0 = a1.pue0 ∧ (State.bootSlot a1 a2 a3).pue1 = a1.pue1 ∧ (State.bootSlot a1 a2 a3).cke = a1.cke ∧ (State.bootSlot a1 a2 a3).pwr = a1.pwr ∧ (State.bootSlot a1 a2 a3).fab = a1.fab ∧ (State.bootSlot a1 a2 a3).routineIds = a1.routineIds ∧ (State.bootSlot a1 a2 a3).pending = a1.pending := by
  simp [State.bootSlot]
@[simp] theorem State.bootRecovery_frame (a1 : State) (a2 : State) : (State.bootRecovery a1 a2).ident = a1.ident ∧ (State.bootRecovery a1 a2).nv = a1.nv ∧ (State.bootRecovery a1 a2).sent = a1.sent ∧ (State.bootRecovery a1 a2).fresh = a1.fresh ∧ (State.bootRecovery a1 a2).pending = a1.pending := by
  simp [State.bootRecovery]
@[simp] theorem State.bootMss_frame (a1 : State) : (State.bootMss a1).ident = a1.ident ∧ (State.bootMss a1).pending = a1.pending := by
  simp only [State.bootMss]
  repeat' split
  all_goals simp
@[simp] theorem State.restartMss_frame (a1 : State) (a2) : (State.restartMss a1 a2).ident = a1.ident ∧ (State.restartMss a1 a2).pending = a1.pending := by
  simp [State.restartMss]
@[simp] theorem State.streamFails_frame (a1 : State) : (State.streamFails a1).ident = a1.ident ∧ (State.streamFails a1).nv = a1.nv ∧ (State.streamFails a1).sent = a1.sent ∧ (State.streamFails a1).fresh = a1.fresh ∧ (State.streamFails a1).pending = a1.pending := by
  simp [State.streamFails]
@[simp] theorem State.zeroDie_frame (a1 : State) (a2) : (State.zeroDie a1 a2).ident = a1.ident ∧ (State.zeroDie a1 a2).nv = a1.nv ∧ (State.zeroDie a1 a2).top = a1.top ∧ (State.zeroDie a1 a2).cores = a1.cores ∧ (State.zeroDie a1 a2).hub = a1.hub ∧ (State.zeroDie a1 a2).err = a1.err ∧ (State.zeroDie a1 a2).cle = a1.cle ∧ (State.zeroDie a1 a2).pue0 = a1.pue0 ∧ (State.zeroDie a1 a2).pue1 = a1.pue1 ∧ (State.zeroDie a1 a2).cke = a1.cke ∧ (State.zeroDie a1 a2).pwr = a1.pwr ∧ (State.zeroDie a1 a2).fab = a1.fab ∧ (State.zeroDie a1 a2).pmu = a1.pmu ∧ (State.zeroDie a1 a2).mss = a1.mss ∧ (State.zeroDie a1 a2).sent = a1.sent ∧ (State.zeroDie a1 a2).fresh = a1.fresh ∧ (State.zeroDie a1 a2).routineIds = a1.routineIds ∧ (State.zeroDie a1 a2).pending = a1.pending := by
  simp [State.zeroDie]
@[simp] theorem State.logUpdate_frame (a1 : State) (a2) : (State.logUpdate a1 a2).ident = a1.ident ∧ (State.logUpdate a1 a2).nv = a1.nv ∧ (State.logUpdate a1 a2).top = a1.top ∧ (State.logUpdate a1 a2).cores = a1.cores ∧ (State.logUpdate a1 a2).hub = a1.hub ∧ (State.logUpdate a1 a2).err = a1.err ∧ (State.logUpdate a1 a2).mem = a1.mem ∧ (State.logUpdate a1 a2).cle = a1.cle ∧ (State.logUpdate a1 a2).pue0 = a1.pue0 ∧ (State.logUpdate a1 a2).pue1 = a1.pue1 ∧ (State.logUpdate a1 a2).cke = a1.cke ∧ (State.logUpdate a1 a2).pwr = a1.pwr ∧ (State.logUpdate a1 a2).fab = a1.fab ∧ (State.logUpdate a1 a2).pmu = a1.pmu ∧ (State.logUpdate a1 a2).sent = a1.sent ∧ (State.logUpdate a1 a2).fresh = a1.fresh ∧ (State.logUpdate a1 a2).routineIds = a1.routineIds ∧ (State.logUpdate a1 a2).pending = a1.pending := by
  simp [State.logUpdate]
@[simp] theorem State.releaseUpdate_frame (a1 : State) : (State.releaseUpdate a1).ident = a1.ident ∧ (State.releaseUpdate a1).nv = a1.nv ∧ (State.releaseUpdate a1).top = a1.top ∧ (State.releaseUpdate a1).cores = a1.cores ∧ (State.releaseUpdate a1).hub = a1.hub ∧ (State.releaseUpdate a1).err = a1.err ∧ (State.releaseUpdate a1).mem = a1.mem ∧ (State.releaseUpdate a1).cle = a1.cle ∧ (State.releaseUpdate a1).pue0 = a1.pue0 ∧ (State.releaseUpdate a1).pue1 = a1.pue1 ∧ (State.releaseUpdate a1).cke = a1.cke ∧ (State.releaseUpdate a1).pwr = a1.pwr ∧ (State.releaseUpdate a1).fab = a1.fab ∧ (State.releaseUpdate a1).pmu = a1.pmu ∧ (State.releaseUpdate a1).sent = a1.sent ∧ (State.releaseUpdate a1).fresh = a1.fresh ∧ (State.releaseUpdate a1).routineIds = a1.routineIds ∧ (State.releaseUpdate a1).pending = a1.pending := by
  simp [State.releaseUpdate]
@[simp] theorem State.routineImageHere_frame (a1 : State) (a2) (a3) : (State.routineImageHere a1 a2 a3).ident = a1.ident ∧ (State.routineImageHere a1 a2 a3).nv = a1.nv ∧ (State.routineImageHere a1 a2 a3).top = a1.top ∧ (State.routineImageHere a1 a2 a3).cores = a1.cores ∧ (State.routineImageHere a1 a2 a3).mem = a1.mem ∧ (State.routineImageHere a1 a2 a3).cle = a1.cle ∧ (State.routineImageHere a1 a2 a3).pue0 = a1.pue0 ∧ (State.routineImageHere a1 a2 a3).pue1 = a1.pue1 ∧ (State.routineImageHere a1 a2 a3).cke = a1.cke ∧ (State.routineImageHere a1 a2 a3).pwr = a1.pwr ∧ (State.routineImageHere a1 a2 a3).fab = a1.fab ∧ (State.routineImageHere a1 a2 a3).pending = a1.pending := by
  simp [State.routineImageHere]
@[simp] theorem State.portCtlWrite_frame (a1 : State) (a2) (a3) : (State.portCtlWrite a1 a2 a3).ident = a1.ident ∧ (State.portCtlWrite a1 a2 a3).nv = a1.nv ∧ (State.portCtlWrite a1 a2 a3).top = a1.top ∧ (State.portCtlWrite a1 a2 a3).cores = a1.cores ∧ (State.portCtlWrite a1 a2 a3).mem = a1.mem ∧ (State.portCtlWrite a1 a2 a3).cle = a1.cle ∧ (State.portCtlWrite a1 a2 a3).pue0 = a1.pue0 ∧ (State.portCtlWrite a1 a2 a3).pue1 = a1.pue1 ∧ (State.portCtlWrite a1 a2 a3).cke = a1.cke ∧ (State.portCtlWrite a1 a2 a3).pwr = a1.pwr ∧ (State.portCtlWrite a1 a2 a3).mss = a1.mss ∧ (State.portCtlWrite a1 a2 a3).fresh = a1.fresh ∧ (State.portCtlWrite a1 a2 a3).routineIds = a1.routineIds ∧ (State.portCtlWrite a1 a2 a3).pending = a1.pending := by
  simp [State.portCtlWrite]
@[simp] theorem State.reviveLanes_frame (a1 : State) (a2) : (State.reviveLanes a1 a2).ident = a1.ident ∧ (State.reviveLanes a1 a2).nv = a1.nv ∧ (State.reviveLanes a1 a2).top = a1.top ∧ (State.reviveLanes a1 a2).cores = a1.cores ∧ (State.reviveLanes a1 a2).hub = a1.hub ∧ (State.reviveLanes a1 a2).err = a1.err ∧ (State.reviveLanes a1 a2).mem = a1.mem ∧ (State.reviveLanes a1 a2).cle = a1.cle ∧ (State.reviveLanes a1 a2).pue0 = a1.pue0 ∧ (State.reviveLanes a1 a2).pue1 = a1.pue1 ∧ (State.reviveLanes a1 a2).cke = a1.cke ∧ (State.reviveLanes a1 a2).pwr = a1.pwr ∧ (State.reviveLanes a1 a2).pmu = a1.pmu ∧ (State.reviveLanes a1 a2).mss = a1.mss ∧ (State.reviveLanes a1 a2).sent = a1.sent ∧ (State.reviveLanes a1 a2).fresh = a1.fresh ∧ (State.reviveLanes a1 a2).routineIds = a1.routineIds ∧ (State.reviveLanes a1 a2).pending = a1.pending := by
  simp [State.reviveLanes]
@[simp] theorem State.forgetRx_frame (a1 : State) (a2) : (State.forgetRx a1 a2).ident = a1.ident ∧ (State.forgetRx a1 a2).nv = a1.nv ∧ (State.forgetRx a1 a2).top = a1.top ∧ (State.forgetRx a1 a2).cores = a1.cores ∧ (State.forgetRx a1 a2).hub = a1.hub ∧ (State.forgetRx a1 a2).err = a1.err ∧ (State.forgetRx a1 a2).mem = a1.mem ∧ (State.forgetRx a1 a2).cle = a1.cle ∧ (State.forgetRx a1 a2).pue0 = a1.pue0 ∧ (State.forgetRx a1 a2).pue1 = a1.pue1 ∧ (State.forgetRx a1 a2).cke = a1.cke ∧ (State.forgetRx a1 a2).pwr = a1.pwr ∧ (State.forgetRx a1 a2).pmu = a1.pmu ∧ (State.forgetRx a1 a2).mss = a1.mss ∧ (State.forgetRx a1 a2).sent = a1.sent ∧ (State.forgetRx a1 a2).fresh = a1.fresh ∧ (State.forgetRx a1 a2).routineIds = a1.routineIds ∧ (State.forgetRx a1 a2).pending = a1.pending := by
  simp [State.forgetRx]
@[simp] theorem State.sendFlits_frame (a1 : State) (a2) (a3) : (State.sendFlits a1 a2 a3).ident = a1.ident ∧ (State.sendFlits a1 a2 a3).nv = a1.nv ∧ (State.sendFlits a1 a2 a3).top = a1.top ∧ (State.sendFlits a1 a2 a3).cores = a1.cores ∧ (State.sendFlits a1 a2 a3).hub = a1.hub ∧ (State.sendFlits a1 a2 a3).err = a1.err ∧ (State.sendFlits a1 a2 a3).mem = a1.mem ∧ (State.sendFlits a1 a2 a3).cle = a1.cle ∧ (State.sendFlits a1 a2 a3).pue0 = a1.pue0 ∧ (State.sendFlits a1 a2 a3).pue1 = a1.pue1 ∧ (State.sendFlits a1 a2 a3).cke = a1.cke ∧ (State.sendFlits a1 a2 a3).pwr = a1.pwr ∧ (State.sendFlits a1 a2 a3).pmu = a1.pmu ∧ (State.sendFlits a1 a2 a3).mss = a1.mss ∧ (State.sendFlits a1 a2 a3).fresh = a1.fresh ∧ (State.sendFlits a1 a2 a3).routineIds = a1.routineIds ∧ (State.sendFlits a1 a2 a3).pending = a1.pending := by
  simp [State.sendFlits]
@[simp] theorem State.activate_frame (a1 : State) (a2) (a3) (a4) : (State.activate a1 a2 a3 a4).ident = a1.ident ∧ (State.activate a1 a2 a3 a4).nv = a1.nv ∧ (State.activate a1 a2 a3 a4).top = a1.top ∧ (State.activate a1 a2 a3 a4).cores = a1.cores ∧ (State.activate a1 a2 a3 a4).mem = a1.mem ∧ (State.activate a1 a2 a3 a4).cle = a1.cle ∧ (State.activate a1 a2 a3 a4).pue0 = a1.pue0 ∧ (State.activate a1 a2 a3 a4).pue1 = a1.pue1 ∧ (State.activate a1 a2 a3 a4).cke = a1.cke ∧ (State.activate a1 a2 a3 a4).pwr = a1.pwr ∧ (State.activate a1 a2 a3 a4).mss = a1.mss ∧ (State.activate a1 a2 a3 a4).fresh = a1.fresh ∧ (State.activate a1 a2 a3 a4).routineIds = a1.routineIds ∧ (State.activate a1 a2 a3 a4).pending = a1.pending := by
  simp [State.activate]
@[simp] theorem State.spareLane_frame (a1 : State) (a2) (a3) : (State.spareLane a1 a2 a3).ident = a1.ident ∧ (State.spareLane a1 a2 a3).nv = a1.nv ∧ (State.spareLane a1 a2 a3).top = a1.top ∧ (State.spareLane a1 a2 a3).cores = a1.cores ∧ (State.spareLane a1 a2 a3).hub = a1.hub ∧ (State.spareLane a1 a2 a3).err = a1.err ∧ (State.spareLane a1 a2 a3).mem = a1.mem ∧ (State.spareLane a1 a2 a3).cle = a1.cle ∧ (State.spareLane a1 a2 a3).pue0 = a1.pue0 ∧ (State.spareLane a1 a2 a3).pue1 = a1.pue1 ∧ (State.spareLane a1 a2 a3).cke = a1.cke ∧ (State.spareLane a1 a2 a3).pwr = a1.pwr ∧ (State.spareLane a1 a2 a3).pmu = a1.pmu ∧ (State.spareLane a1 a2 a3).mss = a1.mss ∧ (State.spareLane a1 a2 a3).sent = a1.sent ∧ (State.spareLane a1 a2 a3).fresh = a1.fresh ∧ (State.spareLane a1 a2 a3).routineIds = a1.routineIds ∧ (State.spareLane a1 a2 a3).pending = a1.pending := by
  simp [State.spareLane]
@[simp] theorem State.laneFail_frame (a1 : State) (a2) (a3) : (State.laneFail a1 a2 a3).ident = a1.ident ∧ (State.laneFail a1 a2 a3).nv = a1.nv ∧ (State.laneFail a1 a2 a3).top = a1.top ∧ (State.laneFail a1 a2 a3).cores = a1.cores ∧ (State.laneFail a1 a2 a3).mem = a1.mem ∧ (State.laneFail a1 a2 a3).cle = a1.cle ∧ (State.laneFail a1 a2 a3).pue0 = a1.pue0 ∧ (State.laneFail a1 a2 a3).pue1 = a1.pue1 ∧ (State.laneFail a1 a2 a3).cke = a1.cke ∧ (State.laneFail a1 a2 a3).pwr = a1.pwr ∧ (State.laneFail a1 a2 a3).mss = a1.mss ∧ (State.laneFail a1 a2 a3).fresh = a1.fresh ∧ (State.laneFail a1 a2 a3).routineIds = a1.routineIds ∧ (State.laneFail a1 a2 a3).pending = a1.pending := by
  simp [State.laneFail]
@[simp] theorem State.arrive_frame (a1 : State) (a2) (a3) (a4) : (State.arrive a1 a2 a3 a4).ident = a1.ident ∧ (State.arrive a1 a2 a3 a4).nv = a1.nv ∧ (State.arrive a1 a2 a3 a4).top = a1.top ∧ (State.arrive a1 a2 a3 a4).cores = a1.cores ∧ (State.arrive a1 a2 a3 a4).mem = a1.mem ∧ (State.arrive a1 a2 a3 a4).cle = a1.cle ∧ (State.arrive a1 a2 a3 a4).pue0 = a1.pue0 ∧ (State.arrive a1 a2 a3 a4).pue1 = a1.pue1 ∧ (State.arrive a1 a2 a3 a4).cke = a1.cke ∧ (State.arrive a1 a2 a3 a4).pwr = a1.pwr ∧ (State.arrive a1 a2 a3 a4).mss = a1.mss ∧ (State.arrive a1 a2 a3 a4).fresh = a1.fresh ∧ (State.arrive a1 a2 a3 a4).routineIds = a1.routineIds ∧ (State.arrive a1 a2 a3 a4).pending = a1.pending := by
  simp [State.arrive]
@[simp] theorem unpackN_frame (a1) (a2) (a3 : State) : (unpackN a1 a2 a3).ident = a3.ident ∧ (unpackN a1 a2 a3).nv = a3.nv ∧ (unpackN a1 a2 a3).top = a3.top ∧ (unpackN a1 a2 a3).cores = a3.cores ∧ (unpackN a1 a2 a3).mem = a3.mem ∧ (unpackN a1 a2 a3).cle = a3.cle ∧ (unpackN a1 a2 a3).pue0 = a3.pue0 ∧ (unpackN a1 a2 a3).pue1 = a3.pue1 ∧ (unpackN a1 a2 a3).cke = a3.cke ∧ (unpackN a1 a2 a3).pwr = a3.pwr ∧ (unpackN a1 a2 a3).mss = a3.mss ∧ (unpackN a1 a2 a3).fresh = a3.fresh ∧ (unpackN a1 a2 a3).routineIds = a3.routineIds ∧ (unpackN a1 a2 a3).pending = a3.pending := by
  induction a2 generalizing a3 with
  | zero => simp [unpackN]
  | succ n ih =>
    unfold unpackN
    try dsimp only
    repeat' split
    all_goals simp_all
@[simp] theorem State.acceptFlit_frame (a1 : State) (a2) (a3) : (State.acceptFlit a1 a2 a3).ident = a1.ident ∧ (State.acceptFlit a1 a2 a3).nv = a1.nv ∧ (State.acceptFlit a1 a2 a3).top = a1.top ∧ (State.acceptFlit a1 a2 a3).cores = a1.cores ∧ (State.acceptFlit a1 a2 a3).mem = a1.mem ∧ (State.acceptFlit a1 a2 a3).cle = a1.cle ∧ (State.acceptFlit a1 a2 a3).pue0 = a1.pue0 ∧ (State.acceptFlit a1 a2 a3).pue1 = a1.pue1 ∧ (State.acceptFlit a1 a2 a3).cke = a1.cke ∧ (State.acceptFlit a1 a2 a3).pwr = a1.pwr ∧ (State.acceptFlit a1 a2 a3).mss = a1.mss ∧ (State.acceptFlit a1 a2 a3).fresh = a1.fresh ∧ (State.acceptFlit a1 a2 a3).routineIds = a1.routineIds ∧ (State.acceptFlit a1 a2 a3).pending = a1.pending := by
  simp [State.acceptFlit]
@[simp] theorem State.discardFlit_frame (a1 : State) (a2) (a3) : (State.discardFlit a1 a2 a3).ident = a1.ident ∧ (State.discardFlit a1 a2 a3).nv = a1.nv ∧ (State.discardFlit a1 a2 a3).top = a1.top ∧ (State.discardFlit a1 a2 a3).cores = a1.cores ∧ (State.discardFlit a1 a2 a3).hub = a1.hub ∧ (State.discardFlit a1 a2 a3).err = a1.err ∧ (State.discardFlit a1 a2 a3).mem = a1.mem ∧ (State.discardFlit a1 a2 a3).cle = a1.cle ∧ (State.discardFlit a1 a2 a3).pue0 = a1.pue0 ∧ (State.discardFlit a1 a2 a3).pue1 = a1.pue1 ∧ (State.discardFlit a1 a2 a3).cke = a1.cke ∧ (State.discardFlit a1 a2 a3).pwr = a1.pwr ∧ (State.discardFlit a1 a2 a3).pmu = a1.pmu ∧ (State.discardFlit a1 a2 a3).mss = a1.mss ∧ (State.discardFlit a1 a2 a3).fresh = a1.fresh ∧ (State.discardFlit a1 a2 a3).routineIds = a1.routineIds ∧ (State.discardFlit a1 a2 a3).pending = a1.pending := by
  simp only [State.discardFlit]
  repeat' split
  all_goals simp
@[simp] theorem State.countCrc_frame (a1 : State) (a2) : (State.countCrc a1 a2).ident = a1.ident ∧ (State.countCrc a1 a2).nv = a1.nv ∧ (State.countCrc a1 a2).top = a1.top ∧ (State.countCrc a1 a2).cores = a1.cores ∧ (State.countCrc a1 a2).hub = a1.hub ∧ (State.countCrc a1 a2).err = a1.err ∧ (State.countCrc a1 a2).mem = a1.mem ∧ (State.countCrc a1 a2).cle = a1.cle ∧ (State.countCrc a1 a2).pue0 = a1.pue0 ∧ (State.countCrc a1 a2).pue1 = a1.pue1 ∧ (State.countCrc a1 a2).cke = a1.cke ∧ (State.countCrc a1 a2).pwr = a1.pwr ∧ (State.countCrc a1 a2).pmu = a1.pmu ∧ (State.countCrc a1 a2).mss = a1.mss ∧ (State.countCrc a1 a2).sent = a1.sent ∧ (State.countCrc a1 a2).fresh = a1.fresh ∧ (State.countCrc a1 a2).routineIds = a1.routineIds ∧ (State.countCrc a1 a2).pending = a1.pending := by
  simp [State.countCrc]
@[simp] theorem State.takeNak_frame (a1 : State) (a2) (a3) : (State.takeNak a1 a2 a3).ident = a1.ident ∧ (State.takeNak a1 a2 a3).nv = a1.nv ∧ (State.takeNak a1 a2 a3).top = a1.top ∧ (State.takeNak a1 a2 a3).cores = a1.cores ∧ (State.takeNak a1 a2 a3).mem = a1.mem ∧ (State.takeNak a1 a2 a3).cle = a1.cle ∧ (State.takeNak a1 a2 a3).pue0 = a1.pue0 ∧ (State.takeNak a1 a2 a3).pue1 = a1.pue1 ∧ (State.takeNak a1 a2 a3).cke = a1.cke ∧ (State.takeNak a1 a2 a3).pwr = a1.pwr ∧ (State.takeNak a1 a2 a3).mss = a1.mss ∧ (State.takeNak a1 a2 a3).fresh = a1.fresh ∧ (State.takeNak a1 a2 a3).routineIds = a1.routineIds ∧ (State.takeNak a1 a2 a3).pending = a1.pending := by
  simp [State.takeNak]
@[simp] theorem State.control_frame (a1 : State) (a2) (a3) (a4) : (State.control a1 a2 a3 a4).ident = a1.ident ∧ (State.control a1 a2 a3 a4).nv = a1.nv ∧ (State.control a1 a2 a3 a4).top = a1.top ∧ (State.control a1 a2 a3 a4).cores = a1.cores ∧ (State.control a1 a2 a3 a4).mem = a1.mem ∧ (State.control a1 a2 a3 a4).cle = a1.cle ∧ (State.control a1 a2 a3 a4).pue0 = a1.pue0 ∧ (State.control a1 a2 a3 a4).pue1 = a1.pue1 ∧ (State.control a1 a2 a3 a4).cke = a1.cke ∧ (State.control a1 a2 a3 a4).pwr = a1.pwr ∧ (State.control a1 a2 a3 a4).mss = a1.mss ∧ (State.control a1 a2 a3 a4).fresh = a1.fresh ∧ (State.control a1 a2 a3 a4).routineIds = a1.routineIds ∧ (State.control a1 a2 a3 a4).pending = a1.pending := by
  simp only [State.control]
  repeat' split
  all_goals simp
@[simp] theorem State.receiveFlit_frame (a1 : State) (a2) (a3) (a4) (a5) : (State.receiveFlit a1 a2 a3 a4 a5).ident = a1.ident ∧ (State.receiveFlit a1 a2 a3 a4 a5).nv = a1.nv ∧ (State.receiveFlit a1 a2 a3 a4 a5).top = a1.top ∧ (State.receiveFlit a1 a2 a3 a4 a5).cores = a1.cores ∧ (State.receiveFlit a1 a2 a3 a4 a5).mem = a1.mem ∧ (State.receiveFlit a1 a2 a3 a4 a5).cle = a1.cle ∧ (State.receiveFlit a1 a2 a3 a4 a5).pue0 = a1.pue0 ∧ (State.receiveFlit a1 a2 a3 a4 a5).pue1 = a1.pue1 ∧ (State.receiveFlit a1 a2 a3 a4 a5).cke = a1.cke ∧ (State.receiveFlit a1 a2 a3 a4 a5).pwr = a1.pwr ∧ (State.receiveFlit a1 a2 a3 a4 a5).mss = a1.mss ∧ (State.receiveFlit a1 a2 a3 a4 a5).fresh = a1.fresh ∧ (State.receiveFlit a1 a2 a3 a4 a5).routineIds = a1.routineIds ∧ (State.receiveFlit a1 a2 a3 a4 a5).pending = a1.pending := by
  simp [State.receiveFlit]
@[simp] theorem State.markInterval_frame (a1 : State) (a2) (a3) : (State.markInterval a1 a2 a3).ident = a1.ident ∧ (State.markInterval a1 a2 a3).nv = a1.nv ∧ (State.markInterval a1 a2 a3).top = a1.top ∧ (State.markInterval a1 a2 a3).cores = a1.cores ∧ (State.markInterval a1 a2 a3).mem = a1.mem ∧ (State.markInterval a1 a2 a3).cle = a1.cle ∧ (State.markInterval a1 a2 a3).pue0 = a1.pue0 ∧ (State.markInterval a1 a2 a3).pue1 = a1.pue1 ∧ (State.markInterval a1 a2 a3).cke = a1.cke ∧ (State.markInterval a1 a2 a3).pwr = a1.pwr ∧ (State.markInterval a1 a2 a3).mss = a1.mss ∧ (State.markInterval a1 a2 a3).fresh = a1.fresh ∧ (State.markInterval a1 a2 a3).routineIds = a1.routineIds ∧ (State.markInterval a1 a2 a3).pending = a1.pending := by
  simp [State.markInterval]
@[simp] theorem State.assignAddr_frame (a1 : State) (a2) : (State.assignAddr a1 a2).ident = a1.ident ∧ (State.assignAddr a1 a2).nv = a1.nv ∧ (State.assignAddr a1 a2).top = a1.top ∧ (State.assignAddr a1 a2).cores = a1.cores ∧ (State.assignAddr a1 a2).hub = a1.hub ∧ (State.assignAddr a1 a2).err = a1.err ∧ (State.assignAddr a1 a2).mem = a1.mem ∧ (State.assignAddr a1 a2).cle = a1.cle ∧ (State.assignAddr a1 a2).pue0 = a1.pue0 ∧ (State.assignAddr a1 a2).pue1 = a1.pue1 ∧ (State.assignAddr a1 a2).cke = a1.cke ∧ (State.assignAddr a1 a2).pwr = a1.pwr ∧ (State.assignAddr a1 a2).fab = a1.fab ∧ (State.assignAddr a1 a2).pmu = a1.pmu ∧ (State.assignAddr a1 a2).fresh = a1.fresh ∧ (State.assignAddr a1 a2).routineIds = a1.routineIds ∧ (State.assignAddr a1 a2).pending = a1.pending := by
  simp [State.assignAddr]
@[simp] theorem State.h2mCtlWrite_frame (a1 : State) (a2) : (State.h2mCtlWrite a1 a2).ident = a1.ident ∧ (State.h2mCtlWrite a1 a2).nv = a1.nv ∧ (State.h2mCtlWrite a1 a2).cores = a1.cores ∧ (State.h2mCtlWrite a1 a2).mem = a1.mem ∧ (State.h2mCtlWrite a1 a2).cle = a1.cle ∧ (State.h2mCtlWrite a1 a2).pue0 = a1.pue0 ∧ (State.h2mCtlWrite a1 a2).pue1 = a1.pue1 ∧ (State.h2mCtlWrite a1 a2).cke = a1.cke ∧ (State.h2mCtlWrite a1 a2).pwr = a1.pwr ∧ (State.h2mCtlWrite a1 a2).fab = a1.fab ∧ (State.h2mCtlWrite a1 a2).routineIds = a1.routineIds ∧ (State.h2mCtlWrite a1 a2).pending = a1.pending := by
  simp [State.h2mCtlWrite]
@[simp] theorem State.m2hCtlWrite_frame (a1 : State) (a2) : (State.m2hCtlWrite a1 a2).ident = a1.ident ∧ (State.m2hCtlWrite a1 a2).nv = a1.nv ∧ (State.m2hCtlWrite a1 a2).top = a1.top ∧ (State.m2hCtlWrite a1 a2).cores = a1.cores ∧ (State.m2hCtlWrite a1 a2).err = a1.err ∧ (State.m2hCtlWrite a1 a2).mem = a1.mem ∧ (State.m2hCtlWrite a1 a2).cle = a1.cle ∧ (State.m2hCtlWrite a1 a2).pue0 = a1.pue0 ∧ (State.m2hCtlWrite a1 a2).pue1 = a1.pue1 ∧ (State.m2hCtlWrite a1 a2).cke = a1.cke ∧ (State.m2hCtlWrite a1 a2).pwr = a1.pwr ∧ (State.m2hCtlWrite a1 a2).fab = a1.fab ∧ (State.m2hCtlWrite a1 a2).pmu = a1.pmu ∧ (State.m2hCtlWrite a1 a2).routineIds = a1.routineIds ∧ (State.m2hCtlWrite a1 a2).pending = a1.pending := by
  simp [State.m2hCtlWrite]
@[simp] theorem State.crossed_frame (a1 : State) (a2) (a3) (a4) : (State.crossed a1 a2 a3 a4).ident = a1.ident ∧ (State.crossed a1 a2 a3 a4).nv = a1.nv ∧ (State.crossed a1 a2 a3 a4).top = a1.top ∧ (State.crossed a1 a2 a3 a4).cores = a1.cores ∧ (State.crossed a1 a2 a3 a4).err = a1.err ∧ (State.crossed a1 a2 a3 a4).mem = a1.mem ∧ (State.crossed a1 a2 a3 a4).cle = a1.cle ∧ (State.crossed a1 a2 a3 a4).pue0 = a1.pue0 ∧ (State.crossed a1 a2 a3 a4).pue1 = a1.pue1 ∧ (State.crossed a1 a2 a3 a4).cke = a1.cke ∧ (State.crossed a1 a2 a3 a4).pwr = a1.pwr ∧ (State.crossed a1 a2 a3 a4).fab = a1.fab ∧ (State.crossed a1 a2 a3 a4).pmu = a1.pmu ∧ (State.crossed a1 a2 a3 a4).routineIds = a1.routineIds ∧ (State.crossed a1 a2 a3 a4).pending = a1.pending := by
  simp [State.crossed]
@[simp] theorem State.sensorShow_frame (a1 : State) (a2) (a3) : (State.sensorShow a1 a2 a3).ident = a1.ident ∧ (State.sensorShow a1 a2 a3).nv = a1.nv ∧ (State.sensorShow a1 a2 a3).top = a1.top ∧ (State.sensorShow a1 a2 a3).cores = a1.cores ∧ (State.sensorShow a1 a2 a3).hub = a1.hub ∧ (State.sensorShow a1 a2 a3).err = a1.err ∧ (State.sensorShow a1 a2 a3).mem = a1.mem ∧ (State.sensorShow a1 a2 a3).cle = a1.cle ∧ (State.sensorShow a1 a2 a3).pue0 = a1.pue0 ∧ (State.sensorShow a1 a2 a3).pue1 = a1.pue1 ∧ (State.sensorShow a1 a2 a3).cke = a1.cke ∧ (State.sensorShow a1 a2 a3).fab = a1.fab ∧ (State.sensorShow a1 a2 a3).pmu = a1.pmu ∧ (State.sensorShow a1 a2 a3).mss = a1.mss ∧ (State.sensorShow a1 a2 a3).sent = a1.sent ∧ (State.sensorShow a1 a2 a3).fresh = a1.fresh ∧ (State.sensorShow a1 a2 a3).routineIds = a1.routineIds ∧ (State.sensorShow a1 a2 a3).pending = a1.pending := by
  simp [State.sensorShow]
@[simp] theorem State.coolantFromMss_frame (a1 : State) : (State.coolantFromMss a1).ident = a1.ident ∧ (State.coolantFromMss a1).nv = a1.nv ∧ (State.coolantFromMss a1).top = a1.top ∧ (State.coolantFromMss a1).cores = a1.cores ∧ (State.coolantFromMss a1).mem = a1.mem ∧ (State.coolantFromMss a1).cle = a1.cle ∧ (State.coolantFromMss a1).pue0 = a1.pue0 ∧ (State.coolantFromMss a1).pue1 = a1.pue1 ∧ (State.coolantFromMss a1).cke = a1.cke ∧ (State.coolantFromMss a1).fab = a1.fab ∧ (State.coolantFromMss a1).mss = a1.mss ∧ (State.coolantFromMss a1).fresh = a1.fresh ∧ (State.coolantFromMss a1).routineIds = a1.routineIds ∧ (State.coolantFromMss a1).pending = a1.pending := by
  simp [State.coolantFromMss]
@[simp] theorem State.dropStages_frame (a1 : State) : (State.dropStages a1).ident = a1.ident ∧ (State.dropStages a1).nv = a1.nv ∧ (State.dropStages a1).sent = a1.sent ∧ (State.dropStages a1).fresh = a1.fresh ∧ (State.dropStages a1).pending = a1.pending := by
  simp [State.dropStages]
@[simp] theorem State.setSpdm_frame (a1 : State) (a2) (a3) : (State.setSpdm a1 a2 a3).ident = a1.ident ∧ (State.setSpdm a1 a2 a3).nv = a1.nv ∧ (State.setSpdm a1 a2 a3).top = a1.top ∧ (State.setSpdm a1 a2 a3).cores = a1.cores ∧ (State.setSpdm a1 a2 a3).hub = a1.hub ∧ (State.setSpdm a1 a2 a3).err = a1.err ∧ (State.setSpdm a1 a2 a3).mem = a1.mem ∧ (State.setSpdm a1 a2 a3).cle = a1.cle ∧ (State.setSpdm a1 a2 a3).pue0 = a1.pue0 ∧ (State.setSpdm a1 a2 a3).pue1 = a1.pue1 ∧ (State.setSpdm a1 a2 a3).cke = a1.cke ∧ (State.setSpdm a1 a2 a3).pwr = a1.pwr ∧ (State.setSpdm a1 a2 a3).fab = a1.fab ∧ (State.setSpdm a1 a2 a3).pmu = a1.pmu ∧ (State.setSpdm a1 a2 a3).sent = a1.sent ∧ (State.setSpdm a1 a2 a3).fresh = a1.fresh ∧ (State.setSpdm a1 a2 a3).routineIds = a1.routineIds ∧ (State.setSpdm a1 a2 a3).pending = a1.pending := by
  simp only [State.setSpdm]
  repeat' split
  all_goals simp
@[simp] theorem State.spdmAnswer_frame (a1 : State) (a2) (a3) : (State.spdmAnswer a1 a2 a3).ident = a1.ident ∧ (State.spdmAnswer a1 a2 a3).nv = a1.nv ∧ (State.spdmAnswer a1 a2 a3).top = a1.top ∧ (State.spdmAnswer a1 a2 a3).cores = a1.cores ∧ (State.spdmAnswer a1 a2 a3).err = a1.err ∧ (State.spdmAnswer a1 a2 a3).mem = a1.mem ∧ (State.spdmAnswer a1 a2 a3).cle = a1.cle ∧ (State.spdmAnswer a1 a2 a3).pue0 = a1.pue0 ∧ (State.spdmAnswer a1 a2 a3).pue1 = a1.pue1 ∧ (State.spdmAnswer a1 a2 a3).cke = a1.cke ∧ (State.spdmAnswer a1 a2 a3).pwr = a1.pwr ∧ (State.spdmAnswer a1 a2 a3).fab = a1.fab ∧ (State.spdmAnswer a1 a2 a3).pmu = a1.pmu ∧ (State.spdmAnswer a1 a2 a3).routineIds = a1.routineIds ∧ (State.spdmAnswer a1 a2 a3).pending = a1.pending := by
  simp [State.spdmAnswer]
theorem State.sign_frame {a1 : State} {a2} {p0} {t : State} (h : (State.sign a1 a2) = Except.ok (p0, t)) : t.ident = a1.ident ∧ t.top = a1.top ∧ t.cores = a1.cores ∧ t.mem = a1.mem ∧ t.cle = a1.cle ∧ t.pue0 = a1.pue0 ∧ t.pue1 = a1.pue1 ∧ t.cke = a1.cke ∧ t.pwr = a1.pwr ∧ t.fab = a1.fab ∧ t.fresh = a1.fresh ∧ t.routineIds = a1.routineIds ∧ t.pending = a1.pending := by
  unfold State.sign at h
  try dsimp only at h
  (repeat' split at h) <;> first | (cases h; done) | (have hh := State.takeIndex_frame ‹State.takeIndex _ = _›; cases h; simp_all)
@[simp] theorem State.signedAnswer_frame (a1 : State) (a2) (a3) (a4) (a5) (a6) (a7) : (State.signedAnswer a1 a2 a3 a4 a5 a6 a7).ident = a1.ident ∧ (State.signedAnswer a1 a2 a3 a4 a5 a6 a7).top = a1.top ∧ (State.signedAnswer a1 a2 a3 a4 a5 a6 a7).cores = a1.cores ∧ (State.signedAnswer a1 a2 a3 a4 a5 a6 a7).mem = a1.mem ∧ (State.signedAnswer a1 a2 a3 a4 a5 a6 a7).cle = a1.cle ∧ (State.signedAnswer a1 a2 a3 a4 a5 a6 a7).pue0 = a1.pue0 ∧ (State.signedAnswer a1 a2 a3 a4 a5 a6 a7).pue1 = a1.pue1 ∧ (State.signedAnswer a1 a2 a3 a4 a5 a6 a7).cke = a1.cke ∧ (State.signedAnswer a1 a2 a3 a4 a5 a6 a7).pwr = a1.pwr ∧ (State.signedAnswer a1 a2 a3 a4 a5 a6 a7).fab = a1.fab ∧ (State.signedAnswer a1 a2 a3 a4 a5 a6 a7).routineIds = a1.routineIds ∧ (State.signedAnswer a1 a2 a3 a4 a5 a6 a7).pending = a1.pending := by
  unfold State.signedAnswer
  split
  · simp
  · have hh := State.sign_frame ‹State.sign _ _ = _›
    dsimp only
    split <;> simp_all
@[simp] theorem State.hostRead_frame (a1 : State) (a2) (a3) : (State.hostRead a1 a2 a3).2.ident = a1.ident ∧ (State.hostRead a1 a2 a3).2.nv = a1.nv ∧ (State.hostRead a1 a2 a3).2.top = a1.top ∧ (State.hostRead a1 a2 a3).2.cores = a1.cores ∧ (State.hostRead a1 a2 a3).2.mem = a1.mem ∧ (State.hostRead a1 a2 a3).2.cle = a1.cle ∧ (State.hostRead a1 a2 a3).2.pue0 = a1.pue0 ∧ (State.hostRead a1 a2 a3).2.pue1 = a1.pue1 ∧ (State.hostRead a1 a2 a3).2.cke = a1.cke ∧ (State.hostRead a1 a2 a3).2.fab = a1.fab ∧ (State.hostRead a1 a2 a3).2.mss = a1.mss ∧ (State.hostRead a1 a2 a3).2.fresh = a1.fresh ∧ (State.hostRead a1 a2 a3).2.routineIds = a1.routineIds ∧ (State.hostRead a1 a2 a3).2.pending = a1.pending := by
  simp [State.hostRead]
@[simp] theorem State.locked64_ident (a1 : State) (a2) (a3) (a4) (a5) (ha5 : ∀ y0, (a5 y0).ident = y0.ident) : (State.locked64 a1 a2 a3 a4 a5).ident = a1.ident := by
  simp [State.locked64, ha5]
@[simp] theorem State.locked64_nv (a1 : State) (a2) (a3) (a4) (a5) (ha5 : ∀ y0, (a5 y0).nv = y0.nv) : (State.locked64 a1 a2 a3 a4 a5).nv = a1.nv := by
  simp [State.locked64, ha5]
@[simp] theorem State.locked64_cores (a1 : State) (a2) (a3) (a4) (a5) (ha5 : ∀ y0, (a5 y0).cores = y0.cores) : (State.locked64 a1 a2 a3 a4 a5).cores = a1.cores := by
  simp [State.locked64, ha5]
@[simp] theorem State.locked64_mem (a1 : State) (a2) (a3) (a4) (a5) (ha5 : ∀ y0, (a5 y0).mem = y0.mem) : (State.locked64 a1 a2 a3 a4 a5).mem = a1.mem := by
  simp [State.locked64, ha5]
@[simp] theorem State.locked64_cle (a1 : State) (a2) (a3) (a4) (a5) (ha5 : ∀ y0, (a5 y0).cle = y0.cle) : (State.locked64 a1 a2 a3 a4 a5).cle = a1.cle := by
  simp [State.locked64, ha5]
@[simp] theorem State.locked64_pue0 (a1 : State) (a2) (a3) (a4) (a5) (ha5 : ∀ y0, (a5 y0).pue0 = y0.pue0) : (State.locked64 a1 a2 a3 a4 a5).pue0 = a1.pue0 := by
  simp [State.locked64, ha5]
@[simp] theorem State.locked64_pue1 (a1 : State) (a2) (a3) (a4) (a5) (ha5 : ∀ y0, (a5 y0).pue1 = y0.pue1) : (State.locked64 a1 a2 a3 a4 a5).pue1 = a1.pue1 := by
  simp [State.locked64, ha5]
@[simp] theorem State.locked64_cke (a1 : State) (a2) (a3) (a4) (a5) (ha5 : ∀ y0, (a5 y0).cke = y0.cke) : (State.locked64 a1 a2 a3 a4 a5).cke = a1.cke := by
  simp [State.locked64, ha5]
@[simp] theorem State.locked64_pwr (a1 : State) (a2) (a3) (a4) (a5) (ha5 : ∀ y0, (a5 y0).pwr = y0.pwr) : (State.locked64 a1 a2 a3 a4 a5).pwr = a1.pwr := by
  simp [State.locked64, ha5]
@[simp] theorem State.locked64_fab (a1 : State) (a2) (a3) (a4) (a5) (ha5 : ∀ y0, (a5 y0).fab = y0.fab) : (State.locked64 a1 a2 a3 a4 a5).fab = a1.fab := by
  simp [State.locked64, ha5]
@[simp] theorem State.locked64_mss (a1 : State) (a2) (a3) (a4) (a5) (ha5 : ∀ y0, (a5 y0).mss = y0.mss) : (State.locked64 a1 a2 a3 a4 a5).mss = a1.mss := by
  simp [State.locked64, ha5]
@[simp] theorem State.locked64_fresh (a1 : State) (a2) (a3) (a4) (a5) (ha5 : ∀ y0, (a5 y0).fresh = y0.fresh) : (State.locked64 a1 a2 a3 a4 a5).fresh = a1.fresh := by
  simp [State.locked64, ha5]
@[simp] theorem State.locked64_routineIds (a1 : State) (a2) (a3) (a4) (a5) (ha5 : ∀ y0, (a5 y0).routineIds = y0.routineIds) : (State.locked64 a1 a2 a3 a4 a5).routineIds = a1.routineIds := by
  simp [State.locked64, ha5]
@[simp] theorem State.locked64_pending (a1 : State) (a2) (a3) (a4) (a5) (ha5 : ∀ y0, (a5 y0).pending = y0.pending) : (State.locked64 a1 a2 a3 a4 a5).pending = a1.pending := by
  simp [State.locked64, ha5]
@[simp] theorem State.locked32_ident (a1 : State) (a2) (a3) (a4) (a5) (ha5 : ∀ y0, (a5 y0).ident = y0.ident) : (State.locked32 a1 a2 a3 a4 a5).ident = a1.ident := by
  simp [State.locked32, ha5]
@[simp] theorem State.locked32_nv (a1 : State) (a2) (a3) (a4) (a5) (ha5 : ∀ y0, (a5 y0).nv = y0.nv) : (State.locked32 a1 a2 a3 a4 a5).nv = a1.nv := by
  simp [State.locked32, ha5]
@[simp] theorem State.locked32_cores (a1 : State) (a2) (a3) (a4) (a5) (ha5 : ∀ y0, (a5 y0).cores = y0.cores) : (State.locked32 a1 a2 a3 a4 a5).cores = a1.cores := by
  simp [State.locked32, ha5]
@[simp] theorem State.locked32_mem (a1 : State) (a2) (a3) (a4) (a5) (ha5 : ∀ y0, (a5 y0).mem = y0.mem) : (State.locked32 a1 a2 a3 a4 a5).mem = a1.mem := by
  simp [State.locked32, ha5]
@[simp] theorem State.locked32_cle (a1 : State) (a2) (a3) (a4) (a5) (ha5 : ∀ y0, (a5 y0).cle = y0.cle) : (State.locked32 a1 a2 a3 a4 a5).cle = a1.cle := by
  simp [State.locked32, ha5]
@[simp] theorem State.locked32_pue0 (a1 : State) (a2) (a3) (a4) (a5) (ha5 : ∀ y0, (a5 y0).pue0 = y0.pue0) : (State.locked32 a1 a2 a3 a4 a5).pue0 = a1.pue0 := by
  simp [State.locked32, ha5]
@[simp] theorem State.locked32_pue1 (a1 : State) (a2) (a3) (a4) (a5) (ha5 : ∀ y0, (a5 y0).pue1 = y0.pue1) : (State.locked32 a1 a2 a3 a4 a5).pue1 = a1.pue1 := by
  simp [State.locked32, ha5]
@[simp] theorem State.locked32_cke (a1 : State) (a2) (a3) (a4) (a5) (ha5 : ∀ y0, (a5 y0).cke = y0.cke) : (State.locked32 a1 a2 a3 a4 a5).cke = a1.cke := by
  simp [State.locked32, ha5]
@[simp] theorem State.locked32_pwr (a1 : State) (a2) (a3) (a4) (a5) (ha5 : ∀ y0, (a5 y0).pwr = y0.pwr) : (State.locked32 a1 a2 a3 a4 a5).pwr = a1.pwr := by
  simp [State.locked32, ha5]
@[simp] theorem State.locked32_fab (a1 : State) (a2) (a3) (a4) (a5) (ha5 : ∀ y0, (a5 y0).fab = y0.fab) : (State.locked32 a1 a2 a3 a4 a5).fab = a1.fab := by
  simp [State.locked32, ha5]
@[simp] theorem State.locked32_mss (a1 : State) (a2) (a3) (a4) (a5) (ha5 : ∀ y0, (a5 y0).mss = y0.mss) : (State.locked32 a1 a2 a3 a4 a5).mss = a1.mss := by
  simp [State.locked32, ha5]
@[simp] theorem State.locked32_fresh (a1 : State) (a2) (a3) (a4) (a5) (ha5 : ∀ y0, (a5 y0).fresh = y0.fresh) : (State.locked32 a1 a2 a3 a4 a5).fresh = a1.fresh := by
  simp [State.locked32, ha5]
@[simp] theorem State.locked32_routineIds (a1 : State) (a2) (a3) (a4) (a5) (ha5 : ∀ y0, (a5 y0).routineIds = y0.routineIds) : (State.locked32 a1 a2 a3 a4 a5).routineIds = a1.routineIds := by
  simp [State.locked32, ha5]
@[simp] theorem State.locked32_pending (a1 : State) (a2) (a3) (a4) (a5) (ha5 : ∀ y0, (a5 y0).pending = y0.pending) : (State.locked32 a1 a2 a3 a4 a5).pending = a1.pending := by
  simp [State.locked32, ha5]
@[simp] theorem State.msixWrite_frame (a1 : State) (a2) (a3) : (State.msixWrite a1 a2 a3).ident = a1.ident ∧ (State.msixWrite a1 a2 a3).nv = a1.nv ∧ (State.msixWrite a1 a2 a3).top = a1.top ∧ (State.msixWrite a1 a2 a3).cores = a1.cores ∧ (State.msixWrite a1 a2 a3).err = a1.err ∧ (State.msixWrite a1 a2 a3).mem = a1.mem ∧ (State.msixWrite a1 a2 a3).cle = a1.cle ∧ (State.msixWrite a1 a2 a3).pue0 = a1.pue0 ∧ (State.msixWrite a1 a2 a3).pue1 = a1.pue1 ∧ (State.msixWrite a1 a2 a3).cke = a1.cke ∧ (State.msixWrite a1 a2 a3).pwr = a1.pwr ∧ (State.msixWrite a1 a2 a3).fab = a1.fab ∧ (State.msixWrite a1 a2 a3).pmu = a1.pmu ∧ (State.msixWrite a1 a2 a3).mss = a1.mss ∧ (State.msixWrite a1 a2 a3).fresh = a1.fresh ∧ (State.msixWrite a1 a2 a3).routineIds = a1.routineIds ∧ (State.msixWrite a1 a2 a3).pending = a1.pending := by
  simp [State.msixWrite]
@[simp] theorem State.writeTop_frame (a1 : State) (a2) (a3) : (State.writeTop a1 a2 a3).ident = a1.ident ∧ (State.writeTop a1 a2 a3).nv = a1.nv ∧ (State.writeTop a1 a2 a3).pending = a1.pending := by
  simp [State.writeTop]
@[simp] theorem State.writeHub_frame (a1 : State) (a2) (a3) : (State.writeHub a1 a2 a3).ident = a1.ident ∧ (State.writeHub a1 a2 a3).nv = a1.nv ∧ (State.writeHub a1 a2 a3).cores = a1.cores ∧ (State.writeHub a1 a2 a3).cle = a1.cle ∧ (State.writeHub a1 a2 a3).pue0 = a1.pue0 ∧ (State.writeHub a1 a2 a3).pue1 = a1.pue1 ∧ (State.writeHub a1 a2 a3).cke = a1.cke ∧ (State.writeHub a1 a2 a3).pwr = a1.pwr ∧ (State.writeHub a1 a2 a3).fab = a1.fab ∧ (State.writeHub a1 a2 a3).mss = a1.mss ∧ (State.writeHub a1 a2 a3).fresh = a1.fresh ∧ (State.writeHub a1 a2 a3).routineIds = a1.routineIds ∧ (State.writeHub a1 a2 a3).pending = a1.pending := by
  simp [State.writeHub]
@[simp] theorem State.writeHub64_frame (a1 : State) (a2) (a3) : (State.writeHub64 a1 a2 a3).ident = a1.ident ∧ (State.writeHub64 a1 a2 a3).nv = a1.nv ∧ (State.writeHub64 a1 a2 a3).cores = a1.cores ∧ (State.writeHub64 a1 a2 a3).mem = a1.mem ∧ (State.writeHub64 a1 a2 a3).cle = a1.cle ∧ (State.writeHub64 a1 a2 a3).pue0 = a1.pue0 ∧ (State.writeHub64 a1 a2 a3).pue1 = a1.pue1 ∧ (State.writeHub64 a1 a2 a3).cke = a1.cke ∧ (State.writeHub64 a1 a2 a3).pwr = a1.pwr ∧ (State.writeHub64 a1 a2 a3).fab = a1.fab ∧ (State.writeHub64 a1 a2 a3).mss = a1.mss ∧ (State.writeHub64 a1 a2 a3).fresh = a1.fresh ∧ (State.writeHub64 a1 a2 a3).routineIds = a1.routineIds ∧ (State.writeHub64 a1 a2 a3).pending = a1.pending := by
  simp [State.writeHub64]
@[simp] theorem State.writeErr_frame (a1 : State) (a2) (a3) : (State.writeErr a1 a2 a3).ident = a1.ident ∧ (State.writeErr a1 a2 a3).nv = a1.nv ∧ (State.writeErr a1 a2 a3).top = a1.top ∧ (State.writeErr a1 a2 a3).cores = a1.cores ∧ (State.writeErr a1 a2 a3).hub = a1.hub ∧ (State.writeErr a1 a2 a3).mem = a1.mem ∧ (State.writeErr a1 a2 a3).cle = a1.cle ∧ (State.writeErr a1 a2 a3).pue0 = a1.pue0 ∧ (State.writeErr a1 a2 a3).pue1 = a1.pue1 ∧ (State.writeErr a1 a2 a3).cke = a1.cke ∧ (State.writeErr a1 a2 a3).pwr = a1.pwr ∧ (State.writeErr a1 a2 a3).fab = a1.fab ∧ (State.writeErr a1 a2 a3).pmu = a1.pmu ∧ (State.writeErr a1 a2 a3).mss = a1.mss ∧ (State.writeErr a1 a2 a3).sent = a1.sent ∧ (State.writeErr a1 a2 a3).fresh = a1.fresh ∧ (State.writeErr a1 a2 a3).routineIds = a1.routineIds ∧ (State.writeErr a1 a2 a3).pending = a1.pending := by
  simp [State.writeErr]
@[simp] theorem State.writeErr64_frame (a1 : State) (a2) (a3) : (State.writeErr64 a1 a2 a3).ident = a1.ident ∧ (State.writeErr64 a1 a2 a3).nv = a1.nv ∧ (State.writeErr64 a1 a2 a3).top = a1.top ∧ (State.writeErr64 a1 a2 a3).cores = a1.cores ∧ (State.writeErr64 a1 a2 a3).mem = a1.mem ∧ (State.writeErr64 a1 a2 a3).cle = a1.cle ∧ (State.writeErr64 a1 a2 a3).pue0 = a1.pue0 ∧ (State.writeErr64 a1 a2 a3).pue1 = a1.pue1 ∧ (State.writeErr64 a1 a2 a3).cke = a1.cke ∧ (State.writeErr64 a1 a2 a3).pwr = a1.pwr ∧ (State.writeErr64 a1 a2 a3).fab = a1.fab ∧ (State.writeErr64 a1 a2 a3).mss = a1.mss ∧ (State.writeErr64 a1 a2 a3).fresh = a1.fresh ∧ (State.writeErr64 a1 a2 a3).routineIds = a1.routineIds ∧ (State.writeErr64 a1 a2 a3).pending = a1.pending := by
  simp [State.writeErr64]
@[simp] theorem State.writePmu_frame (a1 : State) (a2) (a3) : (State.writePmu a1 a2 a3).ident = a1.ident ∧ (State.writePmu a1 a2 a3).nv = a1.nv ∧ (State.writePmu a1 a2 a3).cores = a1.cores ∧ (State.writePmu a1 a2 a3).mem = a1.mem ∧ (State.writePmu a1 a2 a3).cle = a1.cle ∧ (State.writePmu a1 a2 a3).pue0 = a1.pue0 ∧ (State.writePmu a1 a2 a3).pue1 = a1.pue1 ∧ (State.writePmu a1 a2 a3).cke = a1.cke ∧ (State.writePmu a1 a2 a3).pwr = a1.pwr ∧ (State.writePmu a1 a2 a3).fab = a1.fab ∧ (State.writePmu a1 a2 a3).mss = a1.mss ∧ (State.writePmu a1 a2 a3).fresh = a1.fresh ∧ (State.writePmu a1 a2 a3).routineIds = a1.routineIds ∧ (State.writePmu a1 a2 a3).pending = a1.pending := by
  simp [State.writePmu]
@[simp] theorem State.writePmu64_frame (a1 : State) (a2) (a3) : (State.writePmu64 a1 a2 a3).ident = a1.ident ∧ (State.writePmu64 a1 a2 a3).nv = a1.nv ∧ (State.writePmu64 a1 a2 a3).top = a1.top ∧ (State.writePmu64 a1 a2 a3).cores = a1.cores ∧ (State.writePmu64 a1 a2 a3).hub = a1.hub ∧ (State.writePmu64 a1 a2 a3).err = a1.err ∧ (State.writePmu64 a1 a2 a3).mem = a1.mem ∧ (State.writePmu64 a1 a2 a3).cle = a1.cle ∧ (State.writePmu64 a1 a2 a3).pue0 = a1.pue0 ∧ (State.writePmu64 a1 a2 a3).pue1 = a1.pue1 ∧ (State.writePmu64 a1 a2 a3).cke = a1.cke ∧ (State.writePmu64 a1 a2 a3).pwr = a1.pwr ∧ (State.writePmu64 a1 a2 a3).fab = a1.fab ∧ (State.writePmu64 a1 a2 a3).mss = a1.mss ∧ (State.writePmu64 a1 a2 a3).sent = a1.sent ∧ (State.writePmu64 a1 a2 a3).fresh = a1.fresh ∧ (State.writePmu64 a1 a2 a3).routineIds = a1.routineIds ∧ (State.writePmu64 a1 a2 a3).pending = a1.pending := by
  simp [State.writePmu64]
@[simp] theorem State.agingCtlWrite_frame (a1 : State) (a2) : (State.agingCtlWrite a1 a2).ident = a1.ident ∧ (State.agingCtlWrite a1 a2).nv = a1.nv ∧ (State.agingCtlWrite a1 a2).top = a1.top ∧ (State.agingCtlWrite a1 a2).cores = a1.cores ∧ (State.agingCtlWrite a1 a2).hub = a1.hub ∧ (State.agingCtlWrite a1 a2).err = a1.err ∧ (State.agingCtlWrite a1 a2).mem = a1.mem ∧ (State.agingCtlWrite a1 a2).cle = a1.cle ∧ (State.agingCtlWrite a1 a2).pue0 = a1.pue0 ∧ (State.agingCtlWrite a1 a2).pue1 = a1.pue1 ∧ (State.agingCtlWrite a1 a2).cke = a1.cke ∧ (State.agingCtlWrite a1 a2).fab = a1.fab ∧ (State.agingCtlWrite a1 a2).pmu = a1.pmu ∧ (State.agingCtlWrite a1 a2).mss = a1.mss ∧ (State.agingCtlWrite a1 a2).sent = a1.sent ∧ (State.agingCtlWrite a1 a2).fresh = a1.fresh ∧ (State.agingCtlWrite a1 a2).routineIds = a1.routineIds ∧ (State.agingCtlWrite a1 a2).pending = a1.pending := by
  simp [State.agingCtlWrite]
@[simp] theorem State.writePwr_frame (a1 : State) (a2) (a3) : (State.writePwr a1 a2 a3).ident = a1.ident ∧ (State.writePwr a1 a2 a3).nv = a1.nv ∧ (State.writePwr a1 a2 a3).top = a1.top ∧ (State.writePwr a1 a2 a3).cores = a1.cores ∧ (State.writePwr a1 a2 a3).mem = a1.mem ∧ (State.writePwr a1 a2 a3).cle = a1.cle ∧ (State.writePwr a1 a2 a3).pue0 = a1.pue0 ∧ (State.writePwr a1 a2 a3).pue1 = a1.pue1 ∧ (State.writePwr a1 a2 a3).cke = a1.cke ∧ (State.writePwr a1 a2 a3).fab = a1.fab ∧ (State.writePwr a1 a2 a3).mss = a1.mss ∧ (State.writePwr a1 a2 a3).fresh = a1.fresh ∧ (State.writePwr a1 a2 a3).routineIds = a1.routineIds ∧ (State.writePwr a1 a2 a3).pending = a1.pending := by
  simp [State.writePwr]
@[simp] theorem State.writePwr64_frame (a1 : State) (a2) (a3) : (State.writePwr64 a1 a2 a3).ident = a1.ident ∧ (State.writePwr64 a1 a2 a3).nv = a1.nv ∧ (State.writePwr64 a1 a2 a3).top = a1.top ∧ (State.writePwr64 a1 a2 a3).cores = a1.cores ∧ (State.writePwr64 a1 a2 a3).hub = a1.hub ∧ (State.writePwr64 a1 a2 a3).err = a1.err ∧ (State.writePwr64 a1 a2 a3).mem = a1.mem ∧ (State.writePwr64 a1 a2 a3).cle = a1.cle ∧ (State.writePwr64 a1 a2 a3).pue0 = a1.pue0 ∧ (State.writePwr64 a1 a2 a3).pue1 = a1.pue1 ∧ (State.writePwr64 a1 a2 a3).cke = a1.cke ∧ (State.writePwr64 a1 a2 a3).fab = a1.fab ∧ (State.writePwr64 a1 a2 a3).pmu = a1.pmu ∧ (State.writePwr64 a1 a2 a3).mss = a1.mss ∧ (State.writePwr64 a1 a2 a3).sent = a1.sent ∧ (State.writePwr64 a1 a2 a3).fresh = a1.fresh ∧ (State.writePwr64 a1 a2 a3).routineIds = a1.routineIds ∧ (State.writePwr64 a1 a2 a3).pending = a1.pending := by
  simp [State.writePwr64]
@[simp] theorem State.writeMss_frame (a1 : State) (a2) (a3) : (State.writeMss a1 a2 a3).ident = a1.ident ∧ (State.writeMss a1 a2 a3).nv = a1.nv ∧ (State.writeMss a1 a2 a3).cores = a1.cores ∧ (State.writeMss a1 a2 a3).mem = a1.mem ∧ (State.writeMss a1 a2 a3).cle = a1.cle ∧ (State.writeMss a1 a2 a3).pue0 = a1.pue0 ∧ (State.writeMss a1 a2 a3).pue1 = a1.pue1 ∧ (State.writeMss a1 a2 a3).cke = a1.cke ∧ (State.writeMss a1 a2 a3).pwr = a1.pwr ∧ (State.writeMss a1 a2 a3).fab = a1.fab ∧ (State.writeMss a1 a2 a3).routineIds = a1.routineIds ∧ (State.writeMss a1 a2 a3).pending = a1.pending := by
  simp [State.writeMss]
@[simp] theorem State.writeMss64_frame (a1 : State) (a2) (a3) : (State.writeMss64 a1 a2 a3).ident = a1.ident ∧ (State.writeMss64 a1 a2 a3).nv = a1.nv ∧ (State.writeMss64 a1 a2 a3).cores = a1.cores ∧ (State.writeMss64 a1 a2 a3).mem = a1.mem ∧ (State.writeMss64 a1 a2 a3).cle = a1.cle ∧ (State.writeMss64 a1 a2 a3).pue0 = a1.pue0 ∧ (State.writeMss64 a1 a2 a3).pue1 = a1.pue1 ∧ (State.writeMss64 a1 a2 a3).cke = a1.cke ∧ (State.writeMss64 a1 a2 a3).pwr = a1.pwr ∧ (State.writeMss64 a1 a2 a3).fab = a1.fab ∧ (State.writeMss64 a1 a2 a3).fresh = a1.fresh ∧ (State.writeMss64 a1 a2 a3).routineIds = a1.routineIds ∧ (State.writeMss64 a1 a2 a3).pending = a1.pending := by
  simp [State.writeMss64]
@[simp] theorem State.gateCtlWrite_frame (a1 : State) (a2) : (State.gateCtlWrite a1 a2).ident = a1.ident ∧ (State.gateCtlWrite a1 a2).nv = a1.nv ∧ (State.gateCtlWrite a1 a2).cores = a1.cores ∧ (State.gateCtlWrite a1 a2).mem = a1.mem ∧ (State.gateCtlWrite a1 a2).cle = a1.cle ∧ (State.gateCtlWrite a1 a2).pue0 = a1.pue0 ∧ (State.gateCtlWrite a1 a2).pue1 = a1.pue1 ∧ (State.gateCtlWrite a1 a2).pwr = a1.pwr ∧ (State.gateCtlWrite a1 a2).fab = a1.fab ∧ (State.gateCtlWrite a1 a2).mss = a1.mss ∧ (State.gateCtlWrite a1 a2).fresh = a1.fresh ∧ (State.gateCtlWrite a1 a2).routineIds = a1.routineIds ∧ (State.gateCtlWrite a1 a2).pending = a1.pending := by
  simp [State.gateCtlWrite]
@[simp] theorem State.writeCke_frame (a1 : State) (a2) (a3) : (State.writeCke a1 a2 a3).ident = a1.ident ∧ (State.writeCke a1 a2 a3).nv = a1.nv ∧ (State.writeCke a1 a2 a3).cores = a1.cores ∧ (State.writeCke a1 a2 a3).mem = a1.mem ∧ (State.writeCke a1 a2 a3).cle = a1.cle ∧ (State.writeCke a1 a2 a3).pue0 = a1.pue0 ∧ (State.writeCke a1 a2 a3).pue1 = a1.pue1 ∧ (State.writeCke a1 a2 a3).pwr = a1.pwr ∧ (State.writeCke a1 a2 a3).fab = a1.fab ∧ (State.writeCke a1 a2 a3).mss = a1.mss ∧ (State.writeCke a1 a2 a3).fresh = a1.fresh ∧ (State.writeCke a1 a2 a3).routineIds = a1.routineIds ∧ (State.writeCke a1 a2 a3).pending = a1.pending := by
  simp [State.writeCke]
@[simp] theorem State.writeCke64_frame (a1 : State) (a2) (a3) : (State.writeCke64 a1 a2 a3).ident = a1.ident ∧ (State.writeCke64 a1 a2 a3).nv = a1.nv ∧ (State.writeCke64 a1 a2 a3).top = a1.top ∧ (State.writeCke64 a1 a2 a3).cores = a1.cores ∧ (State.writeCke64 a1 a2 a3).hub = a1.hub ∧ (State.writeCke64 a1 a2 a3).err = a1.err ∧ (State.writeCke64 a1 a2 a3).mem = a1.mem ∧ (State.writeCke64 a1 a2 a3).cle = a1.cle ∧ (State.writeCke64 a1 a2 a3).pue0 = a1.pue0 ∧ (State.writeCke64 a1 a2 a3).pue1 = a1.pue1 ∧ (State.writeCke64 a1 a2 a3).pwr = a1.pwr ∧ (State.writeCke64 a1 a2 a3).fab = a1.fab ∧ (State.writeCke64 a1 a2 a3).pmu = a1.pmu ∧ (State.writeCke64 a1 a2 a3).mss = a1.mss ∧ (State.writeCke64 a1 a2 a3).sent = a1.sent ∧ (State.writeCke64 a1 a2 a3).fresh = a1.fresh ∧ (State.writeCke64 a1 a2 a3).routineIds = a1.routineIds ∧ (State.writeCke64 a1 a2 a3).pending = a1.pending := by
  simp [State.writeCke64]
@[simp] theorem State.writeFab_frame (a1 : State) (a2) (a3) : (State.writeFab a1 a2 a3).ident = a1.ident ∧ (State.writeFab a1 a2 a3).nv = a1.nv ∧ (State.writeFab a1 a2 a3).cores = a1.cores ∧ (State.writeFab a1 a2 a3).mem = a1.mem ∧ (State.writeFab a1 a2 a3).cle = a1.cle ∧ (State.writeFab a1 a2 a3).pue0 = a1.pue0 ∧ (State.writeFab a1 a2 a3).pue1 = a1.pue1 ∧ (State.writeFab a1 a2 a3).cke = a1.cke ∧ (State.writeFab a1 a2 a3).pwr = a1.pwr ∧ (State.writeFab a1 a2 a3).mss = a1.mss ∧ (State.writeFab a1 a2 a3).fresh = a1.fresh ∧ (State.writeFab a1 a2 a3).routineIds = a1.routineIds ∧ (State.writeFab a1 a2 a3).pending = a1.pending := by
  simp [State.writeFab]
@[simp] theorem State.writeFab64_frame (a1 : State) (a2) (a3) : (State.writeFab64 a1 a2 a3).ident = a1.ident ∧ (State.writeFab64 a1 a2 a3).nv = a1.nv ∧ (State.writeFab64 a1 a2 a3).top = a1.top ∧ (State.writeFab64 a1 a2 a3).cores = a1.cores ∧ (State.writeFab64 a1 a2 a3).mem = a1.mem ∧ (State.writeFab64 a1 a2 a3).cle = a1.cle ∧ (State.writeFab64 a1 a2 a3).pue0 = a1.pue0 ∧ (State.writeFab64 a1 a2 a3).pue1 = a1.pue1 ∧ (State.writeFab64 a1 a2 a3).cke = a1.cke ∧ (State.writeFab64 a1 a2 a3).pwr = a1.pwr ∧ (State.writeFab64 a1 a2 a3).mss = a1.mss ∧ (State.writeFab64 a1 a2 a3).fresh = a1.fresh ∧ (State.writeFab64 a1 a2 a3).routineIds = a1.routineIds ∧ (State.writeFab64 a1 a2 a3).pending = a1.pending := by
  simp [State.writeFab64]
@[simp] theorem State.writeCle_frame (a1 : State) (a2) (a3) : (State.writeCle a1 a2 a3).ident = a1.ident ∧ (State.writeCle a1 a2 a3).nv = a1.nv ∧ (State.writeCle a1 a2 a3).cores = a1.cores ∧ (State.writeCle a1 a2 a3).mem = a1.mem ∧ (State.writeCle a1 a2 a3).pue0 = a1.pue0 ∧ (State.writeCle a1 a2 a3).pue1 = a1.pue1 ∧ (State.writeCle a1 a2 a3).cke = a1.cke ∧ (State.writeCle a1 a2 a3).pwr = a1.pwr ∧ (State.writeCle a1 a2 a3).fab = a1.fab ∧ (State.writeCle a1 a2 a3).mss = a1.mss ∧ (State.writeCle a1 a2 a3).fresh = a1.fresh ∧ (State.writeCle a1 a2 a3).routineIds = a1.routineIds ∧ (State.writeCle a1 a2 a3).pending = a1.pending := by
  simp [State.writeCle]
@[simp] theorem State.writeDie_frame (a1 : State) (a2) (a3) (a4) : (State.writeDie a1 a2 a3 a4).ident = a1.ident ∧ (State.writeDie a1 a2 a3 a4).nv = a1.nv ∧ (State.writeDie a1 a2 a3 a4).cores = a1.cores ∧ (State.writeDie a1 a2 a3 a4).cle = a1.cle ∧ (State.writeDie a1 a2 a3 a4).cke = a1.cke ∧ (State.writeDie a1 a2 a3 a4).pwr = a1.pwr ∧ (State.writeDie a1 a2 a3 a4).fab = a1.fab ∧ (State.writeDie a1 a2 a3 a4).mss = a1.mss ∧ (State.writeDie a1 a2 a3 a4).fresh = a1.fresh ∧ (State.writeDie a1 a2 a3 a4).routineIds = a1.routineIds ∧ (State.writeDie a1 a2 a3 a4).pending = a1.pending := by
  simp [State.writeDie]
@[simp] theorem State.writeDie64_frame (a1 : State) (a2) (a3) (a4) : (State.writeDie64 a1 a2 a3 a4).ident = a1.ident ∧ (State.writeDie64 a1 a2 a3 a4).nv = a1.nv ∧ (State.writeDie64 a1 a2 a3 a4).top = a1.top ∧ (State.writeDie64 a1 a2 a3 a4).cores = a1.cores ∧ (State.writeDie64 a1 a2 a3 a4).hub = a1.hub ∧ (State.writeDie64 a1 a2 a3 a4).err = a1.err ∧ (State.writeDie64 a1 a2 a3 a4).cle = a1.cle ∧ (State.writeDie64 a1 a2 a3 a4).pue0 = a1.pue0 ∧ (State.writeDie64 a1 a2 a3 a4).pue1 = a1.pue1 ∧ (State.writeDie64 a1 a2 a3 a4).cke = a1.cke ∧ (State.writeDie64 a1 a2 a3 a4).pwr = a1.pwr ∧ (State.writeDie64 a1 a2 a3 a4).fab = a1.fab ∧ (State.writeDie64 a1 a2 a3 a4).pmu = a1.pmu ∧ (State.writeDie64 a1 a2 a3 a4).mss = a1.mss ∧ (State.writeDie64 a1 a2 a3 a4).sent = a1.sent ∧ (State.writeDie64 a1 a2 a3 a4).routineIds = a1.routineIds ∧ (State.writeDie64 a1 a2 a3 a4).pending = a1.pending := by
  simp [State.writeDie64]
@[simp] theorem State.writeCore_frame (a1 : State) (a2) (a3) (a4) : (State.writeCore a1 a2 a3 a4).ident = a1.ident ∧ (State.writeCore a1 a2 a3 a4).nv = a1.nv ∧ (State.writeCore a1 a2 a3 a4).mem = a1.mem ∧ (State.writeCore a1 a2 a3 a4).cle = a1.cle ∧ (State.writeCore a1 a2 a3 a4).pue0 = a1.pue0 ∧ (State.writeCore a1 a2 a3 a4).pue1 = a1.pue1 ∧ (State.writeCore a1 a2 a3 a4).cke = a1.cke ∧ (State.writeCore a1 a2 a3 a4).pwr = a1.pwr ∧ (State.writeCore a1 a2 a3 a4).fab = a1.fab ∧ (State.writeCore a1 a2 a3 a4).mss = a1.mss ∧ (State.writeCore a1 a2 a3 a4).fresh = a1.fresh ∧ (State.writeCore a1 a2 a3 a4).routineIds = a1.routineIds ∧ (State.writeCore a1 a2 a3 a4).pending = a1.pending := by
  simp [State.writeCore]
@[simp] theorem State.writeCore64_frame (a1 : State) (a2) (a3) (a4) : (State.writeCore64 a1 a2 a3 a4).ident = a1.ident ∧ (State.writeCore64 a1 a2 a3 a4).nv = a1.nv ∧ (State.writeCore64 a1 a2 a3 a4).mem = a1.mem ∧ (State.writeCore64 a1 a2 a3 a4).cle = a1.cle ∧ (State.writeCore64 a1 a2 a3 a4).pue0 = a1.pue0 ∧ (State.writeCore64 a1 a2 a3 a4).pue1 = a1.pue1 ∧ (State.writeCore64 a1 a2 a3 a4).cke = a1.cke ∧ (State.writeCore64 a1 a2 a3 a4).pwr = a1.pwr ∧ (State.writeCore64 a1 a2 a3 a4).fab = a1.fab ∧ (State.writeCore64 a1 a2 a3 a4).mss = a1.mss ∧ (State.writeCore64 a1 a2 a3 a4).fresh = a1.fresh ∧ (State.writeCore64 a1 a2 a3 a4).routineIds = a1.routineIds ∧ (State.writeCore64 a1 a2 a3 a4).pending = a1.pending := by
  simp [State.writeCore64]
@[simp] theorem State.regWrite32_frame (a1 : State) (a2) (a3) : (State.regWrite32 a1 a2 a3).ident = a1.ident ∧ (State.regWrite32 a1 a2 a3).nv = a1.nv ∧ (State.regWrite32 a1 a2 a3).pending = a1.pending := by
  simp only [State.regWrite32]
  repeat' split
  all_goals simp
@[simp] theorem State.regWrite64_frame (a1 : State) (a2) (a3) : (State.regWrite64 a1 a2 a3).ident = a1.ident ∧ (State.regWrite64 a1 a2 a3).nv = a1.nv ∧ (State.regWrite64 a1 a2 a3).cle = a1.cle ∧ (State.regWrite64 a1 a2 a3).pue0 = a1.pue0 ∧ (State.regWrite64 a1 a2 a3).pue1 = a1.pue1 ∧ (State.regWrite64 a1 a2 a3).routineIds = a1.routineIds ∧ (State.regWrite64 a1 a2 a3).pending = a1.pending := by
  simp only [State.regWrite64]
  repeat' split
  all_goals simp
@[simp] theorem State.write4_frame (a1 : State) (a2) (a3) : (State.write4 a1 a2 a3).ident = a1.ident ∧ (State.write4 a1 a2 a3).nv = a1.nv ∧ (State.write4 a1 a2 a3).pending = a1.pending := by
  simp [State.write4]
@[simp] theorem State.refuseWindow_frame (a1 : State) (a2) : (State.refuseWindow a1 a2).ident = a1.ident ∧ (State.refuseWindow a1 a2).nv = a1.nv ∧ (State.refuseWindow a1 a2).top = a1.top ∧ (State.refuseWindow a1 a2).cores = a1.cores ∧ (State.refuseWindow a1 a2).mem = a1.mem ∧ (State.refuseWindow a1 a2).cle = a1.cle ∧ (State.refuseWindow a1 a2).pue0 = a1.pue0 ∧ (State.refuseWindow a1 a2).pue1 = a1.pue1 ∧ (State.refuseWindow a1 a2).cke = a1.cke ∧ (State.refuseWindow a1 a2).pwr = a1.pwr ∧ (State.refuseWindow a1 a2).mss = a1.mss ∧ (State.refuseWindow a1 a2).fresh = a1.fresh ∧ (State.refuseWindow a1 a2).routineIds = a1.routineIds ∧ (State.refuseWindow a1 a2).pending = a1.pending := by
  simp [State.refuseWindow]
@[simp] theorem State.refusePkey_frame (a1 : State) (a2) : (State.refusePkey a1 a2).ident = a1.ident ∧ (State.refusePkey a1 a2).nv = a1.nv ∧ (State.refusePkey a1 a2).top = a1.top ∧ (State.refusePkey a1 a2).cores = a1.cores ∧ (State.refusePkey a1 a2).mem = a1.mem ∧ (State.refusePkey a1 a2).cle = a1.cle ∧ (State.refusePkey a1 a2).pue0 = a1.pue0 ∧ (State.refusePkey a1 a2).pue1 = a1.pue1 ∧ (State.refusePkey a1 a2).cke = a1.cke ∧ (State.refusePkey a1 a2).pwr = a1.pwr ∧ (State.refusePkey a1 a2).mss = a1.mss ∧ (State.refusePkey a1 a2).fresh = a1.fresh ∧ (State.refusePkey a1 a2).routineIds = a1.routineIds ∧ (State.refusePkey a1 a2).pending = a1.pending := by
  simp [State.refusePkey]
@[simp] theorem State.remoteLine_frame (a1 : State) (a2) (a3) : (State.remoteLine a1 a2 a3).ident = a1.ident ∧ (State.remoteLine a1 a2 a3).nv = a1.nv ∧ (State.remoteLine a1 a2 a3).top = a1.top ∧ (State.remoteLine a1 a2 a3).cores = a1.cores ∧ (State.remoteLine a1 a2 a3).cle = a1.cle ∧ (State.remoteLine a1 a2 a3).pue0 = a1.pue0 ∧ (State.remoteLine a1 a2 a3).pue1 = a1.pue1 ∧ (State.remoteLine a1 a2 a3).cke = a1.cke ∧ (State.remoteLine a1 a2 a3).fab = a1.fab ∧ (State.remoteLine a1 a2 a3).mss = a1.mss ∧ (State.remoteLine a1 a2 a3).routineIds = a1.routineIds ∧ (State.remoteLine a1 a2 a3).pending = a1.pending := by
  simp [State.remoteLine]
@[simp] theorem serveWr_frame (a1) (a2 : State) : (serveWr a1 a2).ident = a2.ident ∧ (serveWr a1 a2).nv = a2.nv ∧ (serveWr a1 a2).top = a2.top ∧ (serveWr a1 a2).cle = a2.cle ∧ (serveWr a1 a2).pue0 = a2.pue0 ∧ (serveWr a1 a2).pue1 = a2.pue1 ∧ (serveWr a1 a2).mss = a2.mss ∧ (serveWr a1 a2).routineIds = a2.routineIds ∧ (serveWr a1 a2).pending = a2.pending := by
  simp [serveWr]
@[simp] theorem serveWrPartial_frame (a1) (a2 : State) : (serveWrPartial a1 a2).ident = a2.ident ∧ (serveWrPartial a1 a2).nv = a2.nv ∧ (serveWrPartial a1 a2).top = a2.top ∧ (serveWrPartial a1 a2).cle = a2.cle ∧ (serveWrPartial a1 a2).pue0 = a2.pue0 ∧ (serveWrPartial a1 a2).pue1 = a2.pue1 ∧ (serveWrPartial a1 a2).mss = a2.mss ∧ (serveWrPartial a1 a2).routineIds = a2.routineIds ∧ (serveWrPartial a1 a2).pending = a2.pending := by
  simp [serveWrPartial]
@[simp] theorem serveRd_frame (a1) (a2 : State) : (serveRd a1 a2).ident = a2.ident ∧ (serveRd a1 a2).nv = a2.nv ∧ (serveRd a1 a2).top = a2.top ∧ (serveRd a1 a2).cores = a2.cores ∧ (serveRd a1 a2).cle = a2.cle ∧ (serveRd a1 a2).pue0 = a2.pue0 ∧ (serveRd a1 a2).pue1 = a2.pue1 ∧ (serveRd a1 a2).mss = a2.mss ∧ (serveRd a1 a2).routineIds = a2.routineIds ∧ (serveRd a1 a2).pending = a2.pending := by
  simp [serveRd]
@[simp] theorem serveSignal_frame (a1) (a2 : State) : (serveSignal a1 a2).ident = a2.ident ∧ (serveSignal a1 a2).nv = a2.nv ∧ (serveSignal a1 a2).top = a2.top ∧ (serveSignal a1 a2).mem = a2.mem ∧ (serveSignal a1 a2).cle = a2.cle ∧ (serveSignal a1 a2).pue0 = a2.pue0 ∧ (serveSignal a1 a2).pue1 = a2.pue1 ∧ (serveSignal a1 a2).cke = a2.cke ∧ (serveSignal a1 a2).pwr = a2.pwr ∧ (serveSignal a1 a2).mss = a2.mss ∧ (serveSignal a1 a2).fresh = a2.fresh ∧ (serveSignal a1 a2).routineIds = a2.routineIds ∧ (serveSignal a1 a2).pending = a2.pending := by
  simp only [serveSignal]
  repeat' split
  all_goals simp
@[simp] theorem State.getArrives_frame (a1 : State) (a2) (a3) (a4) (a5) : (State.getArrives a1 a2 a3 a4 a5).ident = a1.ident ∧ (State.getArrives a1 a2 a3 a4 a5).nv = a1.nv ∧ (State.getArrives a1 a2 a3 a4 a5).top = a1.top ∧ (State.getArrives a1 a2 a3 a4 a5).cle = a1.cle ∧ (State.getArrives a1 a2 a3 a4 a5).pue0 = a1.pue0 ∧ (State.getArrives a1 a2 a3 a4 a5).pue1 = a1.pue1 ∧ (State.getArrives a1 a2 a3 a4 a5).mss = a1.mss ∧ (State.getArrives a1 a2 a3 a4 a5).routineIds = a1.routineIds ∧ (State.getArrives a1 a2 a3 a4 a5).pending = a1.pending := by
  simp only [State.getArrives]
  repeat' split
  all_goals simp
@[simp] theorem State.putDone_frame (a1 : State) (a2) : (State.putDone a1 a2).ident = a1.ident ∧ (State.putDone a1 a2).nv = a1.nv ∧ (State.putDone a1 a2).top = a1.top ∧ (State.putDone a1 a2).cle = a1.cle ∧ (State.putDone a1 a2).pue0 = a1.pue0 ∧ (State.putDone a1 a2).pue1 = a1.pue1 ∧ (State.putDone a1 a2).mss = a1.mss ∧ (State.putDone a1 a2).routineIds = a1.routineIds ∧ (State.putDone a1 a2).pending = a1.pending := by
  simp only [State.putDone]
  repeat' split
  all_goals simp
@[simp] theorem State.signalFail_frame (a1 : State) (a2) (a3) : (State.signalFail a1 a2 a3).ident = a1.ident ∧ (State.signalFail a1 a2 a3).nv = a1.nv ∧ (State.signalFail a1 a2 a3).top = a1.top ∧ (State.signalFail a1 a2 a3).mem = a1.mem ∧ (State.signalFail a1 a2 a3).cle = a1.cle ∧ (State.signalFail a1 a2 a3).pue0 = a1.pue0 ∧ (State.signalFail a1 a2 a3).pue1 = a1.pue1 ∧ (State.signalFail a1 a2 a3).cke = a1.cke ∧ (State.signalFail a1 a2 a3).pwr = a1.pwr ∧ (State.signalFail a1 a2 a3).fab = a1.fab ∧ (State.signalFail a1 a2 a3).mss = a1.mss ∧ (State.signalFail a1 a2 a3).fresh = a1.fresh ∧ (State.signalFail a1 a2 a3).routineIds = a1.routineIds ∧ (State.signalFail a1 a2 a3).pending = a1.pending := by
  simp only [State.signalFail]
  repeat' split
  all_goals simp
@[simp] theorem State.callPutFail_frame (a1 : State) (a2) (a3) : (State.callPutFail a1 a2 a3).ident = a1.ident ∧ (State.callPutFail a1 a2 a3).nv = a1.nv ∧ (State.callPutFail a1 a2 a3).top = a1.top ∧ (State.callPutFail a1 a2 a3).mem = a1.mem ∧ (State.callPutFail a1 a2 a3).cle = a1.cle ∧ (State.callPutFail a1 a2 a3).pue0 = a1.pue0 ∧ (State.callPutFail a1 a2 a3).pue1 = a1.pue1 ∧ (State.callPutFail a1 a2 a3).cke = a1.cke ∧ (State.callPutFail a1 a2 a3).pwr = a1.pwr ∧ (State.callPutFail a1 a2 a3).fab = a1.fab ∧ (State.callPutFail a1 a2 a3).mss = a1.mss ∧ (State.callPutFail a1 a2 a3).fresh = a1.fresh ∧ (State.callPutFail a1 a2 a3).routineIds = a1.routineIds ∧ (State.callPutFail a1 a2 a3).pending = a1.pending := by
  simp only [State.callPutFail]
  repeat' split
  all_goals simp
@[simp] theorem State.requestFails_frame (a1 : State) (a2) : (State.requestFails a1 a2).ident = a1.ident ∧ (State.requestFails a1 a2).nv = a1.nv ∧ (State.requestFails a1 a2).top = a1.top ∧ (State.requestFails a1 a2).cle = a1.cle ∧ (State.requestFails a1 a2).pue0 = a1.pue0 ∧ (State.requestFails a1 a2).pue1 = a1.pue1 ∧ (State.requestFails a1 a2).mss = a1.mss ∧ (State.requestFails a1 a2).routineIds = a1.routineIds ∧ (State.requestFails a1 a2).pending = a1.pending := by
  simp only [State.requestFails]
  repeat' split
  all_goals simp
@[simp] theorem State.withFetchWord_frame (a1 : State) (a2) (a3) : (State.withFetchWord a1 a2 a3).ident = a1.ident ∧ (State.withFetchWord a1 a2 a3).nv = a1.nv ∧ (State.withFetchWord a1 a2 a3).top = a1.top ∧ (State.withFetchWord a1 a2 a3).cores = a1.cores ∧ (State.withFetchWord a1 a2 a3).hub = a1.hub ∧ (State.withFetchWord a1 a2 a3).err = a1.err ∧ (State.withFetchWord a1 a2 a3).mem = a1.mem ∧ (State.withFetchWord a1 a2 a3).cle = a1.cle ∧ (State.withFetchWord a1 a2 a3).pue0 = a1.pue0 ∧ (State.withFetchWord a1 a2 a3).pue1 = a1.pue1 ∧ (State.withFetchWord a1 a2 a3).cke = a1.cke ∧ (State.withFetchWord a1 a2 a3).pwr = a1.pwr ∧ (State.withFetchWord a1 a2 a3).fab = a1.fab ∧ (State.withFetchWord a1 a2 a3).pmu = a1.pmu ∧ (State.withFetchWord a1 a2 a3).mss = a1.mss ∧ (State.withFetchWord a1 a2 a3).sent = a1.sent ∧ (State.withFetchWord a1 a2 a3).fresh = a1.fresh ∧ (State.withFetchWord a1 a2 a3).routineIds = a1.routineIds := by
  simp only [State.withFetchWord]
  repeat' split
  all_goals simp
end Sys2Proof.Machine
end

