-- ==== Sys2Proof/Laws/Memory.lean ====
section
/-! SUPPORT. Sparse maps: a write keeps the canonical form, is read back, and leaves every other number alone. -/

namespace Sys2Proof.Machine

variable {α : Type} {d : α}

@[simp] theorem sget_nil (k : Nat) : sget d [] k = d := rfl

theorem sget_sput (m : SMap α) (k : Nat) (x : α) (n : Nat) : sget d (sput m k x) n = if n = k then x else sget d m n := by
  induction m with
  | nil => simp [sput, sget, eq_comm]
  | cons p m ih =>
    obtain ⟨j, v⟩ := p
    unfold sput
    split
    · simp [sget, eq_comm]
    · split
      · subst_vars
        by_cases h : j = n
        · simp [sget, h]
        · simp [sget, h, Ne.symm h]
      · by_cases h : j = n
        · subst h
          simp_all [sget]
        · simp [sget, h, ih]

theorem sget_erase (m : SMap α) (k n : Nat) :
    sget d (m.filter fun p => decide (p.1 ≠ k)) n = if n = k then d else sget d m n := by
  induction m with
  | nil => simp [sget]
  | cons p m ih =>
    obtain ⟨j, v⟩ := p
    by_cases h : j = k
    · subst h
      by_cases hn : n = j
      · simp_all
      · simp_all [sget, Ne.symm hn]
    · by_cases hn : j = n
      · subst hn
        simp [sget, h]
      · simp_all [sget]

/-- A read after a write: the value written at its number, what was there elsewhere. -/
@[simp] theorem sget_sset [DecidableEq α] (m : SMap α) (k : Nat) (x : α) (n : Nat) :
    sget d (sset d m k x) n = if n = k then x else sget d m n := by
  unfold sset
  split
  · subst_vars
    exact sget_erase m k n
  · exact sget_sput m k x n

variable [DecidableEq α]

theorem swf_mono {m : SMap α} {lo lo' : Nat} (h : swf d lo m) (hl : lo' ≤ lo) : swf d lo' m := by
  cases m with
  | nil => rfl
  | cons p m =>
    obtain ⟨j, v⟩ := p
    simp only [swf, Bool.and_eq_true, decide_eq_true_eq] at h ⊢
    exact ⟨⟨hl.trans h.1.1, h.1.2⟩, h.2⟩

theorem sput_swf {m : SMap α} {lo : Nat} (h : swf d lo m) (k : Nat) (x : α) (hk : lo ≤ k) (hx : x ≠ d) :
    swf d lo (sput m k x) := by
  induction m generalizing lo with
  | nil => simp_all [sput, swf]
  | cons p m ih =>
    obtain ⟨j, v⟩ := p
    simp only [swf, Bool.and_eq_true, decide_eq_true_eq] at h
    unfold sput
    split
    · simp only [swf, Bool.and_eq_true, decide_eq_true_eq]
      exact ⟨⟨hk, hx⟩, ⟨by omega, h.1.2⟩, h.2⟩
    · split
      · subst_vars
        simp_all [swf]
      · simp only [swf, Bool.and_eq_true, decide_eq_true_eq]
        exact ⟨h.1, ih h.2 (by omega)⟩

theorem filter_swf {m : SMap α} {lo : Nat} (h : swf d lo m) (f : Nat × α → Bool) : swf d lo (m.filter f) := by
  induction m generalizing lo with
  | nil => rfl
  | cons p m ih =>
    obtain ⟨j, v⟩ := p
    simp only [swf, Bool.and_eq_true, decide_eq_true_eq] at h
    rw [List.filter_cons]
    split
    · simp only [swf, Bool.and_eq_true, decide_eq_true_eq]
      exact ⟨h.1, ih h.2⟩
    · exact swf_mono (ih h.2) (by omega)

/-- Writing keeps the canonical form. -/
theorem sset_swf {m : SMap α} {lo : Nat} (h : swf d lo m) (k : Nat) (x : α) (hk : lo ≤ k) : swf d lo (sset d m k x) := by
  unfold sset
  split
  · exact filter_swf h _
  · exact sput_swf h k x hk ‹_›

end Sys2Proof.Machine
end

