-- ==== Sys2Proof/Laws/Core.lean ====
section
/-! SUPPORT. Reading a core after it has been written, and what counting and CSIG do to the cores. -/

namespace Sys2Proof.Machine

theorem State.core_of_cores {s t : State} (h : t.cores = s.cores) (x : CoreId) : t.core x = s.core x := by
  simp [State.core, h]

theorem State.core_setCore {s : State} (h : s.has64) (c x : CoreId) (k : Core) :
    (s.setCore c k).core x = if x = c then k else s.core x := by
  have hx : x.val < s.cores.length := by rw [show s.cores.length = 64 from h]; exact x.isLt
  simp only [State.core, State.setCore, List.getD_eq_getElem?_getD, List.getElem?_set]
  by_cases hc : x = c
  · subst hc
    simp [hx]
  · have : ¬ c.val = x.val := fun e => hc (Fin.ext e.symm)
    simp [hc, this]

theorem State.setCore_has64 {s : State} (h : s.has64) (c : CoreId) (k : Core) : (s.setCore c k).has64 := by
  simpa [State.has64, State.setCore] using h

theorem State.has64_of_cores {s t : State} (h : s.has64) (e : t.cores = s.cores) : t.has64 := by
  simpa [State.has64, e] using h

theorem State.core_modCore {s : State} (h : s.has64) (c x : CoreId) (f : Core → Core) :
    (s.modCore c f).core x = if x = c then f (s.core c) else s.core x := State.core_setCore h c x _

theorem State.modCore_has64 {s : State} (h : s.has64) (c : CoreId) (f : Core → Core) : (s.modCore c f).has64 :=
  State.setCore_has64 h c _

/-- All but the performance counters of two cores is the same. -/
def SameButPmu (k k' : Core) : Prop := k'.q = k.q ∧ k'.m = k.m ∧ k'.v = k.v ∧ k'.t = k.t

/-- Two states agree on the cores but for the performance counters of one. -/
def CoresButPmu (c : CoreId) (s t : State) : Prop :=
  t.has64 ∧ OtherCores c s t ∧ SameButPmu (s.core c) (t.core c)

theorem CoresButPmu.refl {c : CoreId} {s : State} (h : s.has64) : CoresButPmu c s s :=
  ⟨h, fun _ _ => rfl, rfl, rfl, rfl, rfl⟩

theorem CoresButPmu.trans {c : CoreId} {s t u : State} (h : CoresButPmu c s t) (h' : CoresButPmu c t u) :
    CoresButPmu c s u := by
  obtain ⟨_, o, a, b, e, d⟩ := h
  obtain ⟨l, o', a', b', e', d'⟩ := h'
  exact ⟨l, fun x hx => (o' x hx).trans (o x hx), a'.trans a, b'.trans b, e'.trans e, d'.trans d⟩

theorem CoresButPmu.of_cores {c : CoreId} {s t : State} (h : s.has64) (e : t.cores = s.cores) : CoresButPmu c s t :=
  ⟨State.has64_of_cores h e, fun x _ => State.core_of_cores e x, by
    rw [State.core_of_cores e]
    exact ⟨rfl, rfl, rfl, rfl⟩⟩

theorem CoresButPmu.modCore {s : State} (h : s.has64) (c : CoreId) (f : Core → Core)
    (hf : ∀ k, SameButPmu k (f k)) : CoresButPmu c s (s.modCore c f) := by
  refine ⟨State.modCore_has64 h c f, fun x hx => ?_, ?_⟩
  · rw [State.core_modCore h, if_neg hx]
  · rw [State.core_modCore h, if_pos rfl]
    exact hf _

theorem State.cntCarry_cores (s : State) (sel : Nat) : (s.cntCarry sel).cores = s.cores := by simp

theorem State.bumpCore_butPmu {s : State} (h : s.has64) (c : CoreId) (i n : Nat) (x : Sample) :
    CoresButPmu c s (s.bumpCore c i n x) := by
  unfold State.bumpCore
  dsimp only
  split
  · exact CoresButPmu.modCore h c _ fun k => ⟨rfl, rfl, rfl, rfl⟩
  · split
    · exact CoresButPmu.modCore h c _ fun k => ⟨rfl, rfl, rfl, rfl⟩
    · refine CoresButPmu.trans (t := s.modCore c _) (CoresButPmu.modCore h c _ ?_)
        (CoresButPmu.of_cores (State.modCore_has64 h _ _) (State.cntCarry_cores _ _))
      exact fun k => ⟨rfl, rfl, rfl, rfl⟩

theorem State.countCore_butPmu {s : State} (h : s.has64) (c : CoreId) (ev : Nat) (hit : Nat → Bool) (n : Nat) (x : Sample) :
    CoresButPmu c s (s.countCore c ev hit n x) := by
  unfold State.countCore
  dsimp only
  split
  · exact CoresButPmu.refl h
  · generalize List.range 8 = l
    suffices ∀ t, CoresButPmu c s t → CoresButPmu c s (l.foldl (fun t i =>
        if (s.core c).pmu.ctl.getLsbD (i + 2) && selHits ((s.core c).pmu.sel i) ev hit then t.bumpCore c i n x else t) t) from
      this s (CoresButPmu.refl h)
    induction l with
    | nil => exact fun t ht => ht
    | cons a l ih =>
      intro t ht
      refine ih _ ?_
      dsimp only
      split
      · exact ht.trans (State.bumpCore_butPmu ht.1 c a n x)
      · exact ht

theorem State.countDispatch_butPmu {s : State} (h : s.has64) (c : CoreId) (b : Nat) :
    CoresButPmu c s (s.countDispatch c b) := by
  unfold State.countDispatch
  dsimp only
  refine CoresButPmu.trans ?_ (State.countCore_butPmu ?_ c 1 _ 1 _)
  · split
    · exact CoresButPmu.refl h
    · exact CoresButPmu.modCore h c _ fun k => ⟨rfl, rfl, rfl, rfl⟩
  · split
    · exact h
    · exact State.modCore_has64 h _ _

/-- What CSIG does to the cores: 1 more on the flag it names, nothing else. -/
theorem csigFire_core {s : State} (h : s.has64) (c x : CoreId) (lo : Nat) :
    (csigFire s c lo).core x = if x = c ∧ wCsig lo = true ∧ wCflagHub lo = false then
      { s.core c with q.flags := sset 0 (s.core c).q.flags (wCflagIdx lo) ((s.core c).flag (wCflagIdx lo) + 1) }
      else s.core x := by
  unfold csigFire
  split
  · split
    · rw [State.core_of_cores (s := s) (t := s.addHubFlag _ 1) (by simp)]
      simp_all
    · simp only [State.addCoreFlag, State.core_modCore h]
      simp_all
  · simp_all

theorem csigFire_has64 {s : State} (h : s.has64) (c : CoreId) (lo : Nat) : (csigFire s c lo).has64 := by
  unfold csigFire
  split
  · split
    · exact State.has64_of_cores h (by simp)
    · exact State.modCore_has64 h _ _
  · exact h

end Sys2Proof.Machine
end

