-- ==== Sys2Proof/Laws/Dispatch.lean ====
section
/-! SUPPORT. What dispatching a word does, once for every opcode: `dispatchWith_dispatches` gives the state of a command
that is dispatched, `seqRun_done` that of one that completes as it is dispatched, `engDispatch_queued` that of one that
joins an engine's queue. -/

namespace Sys2Proof.Machine

theorem Core.ready_lo {k : Core} {lo imm : Nat} {d : Disp} (h : k.ready lo imm = some d) :
    d.lo = lo ∧ d.imm = imm ∧ d.eff = effImm k lo imm := by
  unfold Core.ready at h
  repeat' split at h
  all_goals simp_all
  all_goals (subst h; simp)

/-- The core as a dispatch finds it: with its step-entry snapshot taken if one is due (R365). -/
def entered (k : Core) : Core := if k.q.snapDue then takeSnapshot k else k

theorem entered_flags (k : Core) : (entered k).q.flags = k.q.flags ∧ (entered k).q.params = k.q.params
    ∧ (entered k).q.tq = k.q.tq ∧ (entered k).q.replay = k.q.replay ∧ (entered k).q.cmdIndex = k.q.cmdIndex
    ∧ (entered k).q.slots = k.q.slots ∧ (entered k).q.openRec = k.q.openRec ∧ (entered k).q.nextId = k.q.nextId
    ∧ (entered k).m = k.m ∧ (entered k).v = k.v ∧ (entered k).t = k.t ∧ (entered k).pmu = k.pmu
    ∧ (entered k).q.wait = k.q.wait ∧ (entered k).q.fence = k.q.fence ∧ (entered k).q.call = k.q.call := by
  unfold entered
  split <;> simp [takeSnapshot]

theorem dispatchWith_dispatches {s : State} {c : CoreId} {lo imm : Word64} {opc : Nat} {codes stall : Core → Disp → List Nat}
    {d : Disp} (h : Dispatches s c lo imm opc codes stall d) (run : State → Core → Disp → State) :
    ∃ b, dispatchWith s c lo imm opc codes stall run
      = (run (s.setCore c (entered (s.core c))) (entered (s.core c)) d).countDispatch c b := by
  obtain ⟨h1, h2, o, h3, h4, h5, h6⟩ := h
  refine ⟨match o.eng with
    | some .mxu => 0 | some .vce => 1 | some .tmv => 2 | some .hub => 3 | none => 4, ?_⟩
  unfold dispatchWith
  simp only [h1, h2, h3, h4, h5, h6, Bool.false_eq_true, if_false, ne_eq, not_true_eq_false]
  rfl

theorem advance_same (k : Core) : (advance k).q.flags = k.q.flags ∧ (advance k).q.params = k.q.params
    ∧ (advance k).q.tq = k.q.tq ∧ (advance k).q.seq = .dispatching ∧ (advance k).m = k.m ∧ (advance k).v = k.v
    ∧ (advance k).t = k.t ∧ (advance k).pmu = k.pmu ∧ (k.q.replay = none → (advance k).q.cmdIndex = k.q.cmdIndex + 1)
    ∧ (advance k).q.slots = k.q.slots ∧ (advance k).q.openRec = k.q.openRec ∧ (advance k).q.nextId = k.q.nextId
    ∧ (advance k).q.wait = k.q.wait ∧ (advance k).q.fence = k.q.fence ∧ (advance k).q.call = k.q.call := by
  unfold advance
  dsimp only
  split
  · simp_all
  · (repeat' split) <;> simp_all

theorem dispatched_same (k : Core) (d : Disp) : (dispatched k d).q.flags = k.q.flags ∧ (dispatched k d).q.params = k.q.params
    ∧ (dispatched k d).q.tq = k.q.tq ∧ (dispatched k d).q.seq = .dispatching ∧ (dispatched k d).m = k.m
    ∧ (dispatched k d).v = k.v ∧ (dispatched k d).t = k.t ∧ (dispatched k d).pmu = k.pmu
    ∧ (k.q.replay = none → (dispatched k d).q.cmdIndex = k.q.cmdIndex + 1)
    ∧ (dispatched k d).q.openRec = k.q.openRec ∧ (dispatched k d).q.nextId = k.q.nextId
    ∧ (dispatched k d).q.wait = k.q.wait ∧ (dispatched k d).q.fence = k.q.fence ∧ (dispatched k d).q.call = k.q.call := by
  unfold dispatched
  split
  · have := advance_same k
    simp_all
  · have := advance_same (recordCmd k d)
    unfold recordCmd at this ⊢
    split <;> simp_all

/-- CSIG and the count of a dispatch leave every other core as it is, and of their own all but the flag and the
performance counters. -/
theorem csigCount_core {u : State} (hu : u.has64) (c : CoreId) (lo b : Nat) :
    OtherCores c u ((csigFire u c lo).countDispatch c b)
    ∧ (((csigFire u c lo).countDispatch c b).core c).m = (u.core c).m
    ∧ (((csigFire u c lo).countDispatch c b).core c).v = (u.core c).v
    ∧ (((csigFire u c lo).countDispatch c b).core c).t = (u.core c).t
    ∧ (((csigFire u c lo).countDispatch c b).core c).q = { (u.core c).q with
        flags := if wCsig lo = true ∧ wCflagHub lo = false then
          sset 0 (u.core c).q.flags (wCflagIdx lo) ((u.core c).flag (wCflagIdx lo) + 1) else (u.core c).q.flags } := by
  obtain ⟨_, ho, hq, hm, hv, ht⟩ := State.countDispatch_butPmu (csigFire_has64 hu c lo) c b
  refine ⟨fun x hx => ?_, ?_⟩
  · rw [ho x hx, csigFire_core hu]
    simp [hx]
  · rw [hq, hm, hv, ht, csigFire_core hu]
    by_cases h : wCsig lo = true ∧ wCflagHub lo = false
    · simp [h]
    · have h' : ¬(c = c ∧ wCsig lo = true ∧ wCflagHub lo = false) := fun x => h x.2
      rw [if_neg h']
      simp [h]

theorem csigCount_has64 {u : State} (hu : u.has64) (c : CoreId) (lo b : Nat) :
    ((csigFire u c lo).countDispatch c b).has64 :=
  (State.countDispatch_butPmu (csigFire_has64 hu c lo) c b).1

theorem csigCount_flag {u : State} (hu : u.has64) (c : CoreId) (lo b : Nat) (n : Nat) :
    (((csigFire u c lo).countDispatch c b).core c).flag n = (u.core c).flag n
      + (if wCsig lo && !wCflagHub lo && wCflagIdx lo = n then 1 else 0) := by
  have h := (csigCount_core hu c lo b).2.2.2.2
  simp only [Core.flag, h]
  by_cases h1 : wCsig lo = true ∧ wCflagHub lo = false
  · by_cases h2 : n = wCflagIdx lo
    · simp [h1, h2]
    · simp [h1, h2, Ne.symm h2]
  · by_cases h2 : wCsig lo = true
    · simp_all
    · simp_all

end Sys2Proof.Machine
end

