-- ==== Sys2Proof/Laws/Hub.lean ====
section
/-! SUPPORT. What raising an error, counting an event, sending an interrupt or adding to a flag can change in the hub: its
flags, bindings and interrupt bits, and nothing else of it. -/

namespace Sys2Proof.Machine

/-- The hub changed in its flags, its flag bindings and its interrupt bits only. -/
def HubKept (s t : State) : Prop :=
  ∃ fl b p mp mo, t.hub = { s.hub with flags := fl, binds := b, pba := p, modPending := mp, modOpen := mo }

theorem HubKept.refl (s : State) : HubKept s s := ⟨_, _, _, _, _, rfl⟩

theorem HubKept.trans {s t u : State} (h : HubKept s t) (h' : HubKept t u) : HubKept s u := by
  obtain ⟨a, b, c, d, e, h⟩ := h
  obtain ⟨a', b', c', d', e', h'⟩ := h'
  exact ⟨a', b', c', d', e', by rw [h', h]⟩

theorem HubKept.of_hub {s t : State} (h : t.hub = s.hub) : HubKept s t := ⟨_, _, _, _, _, h⟩

theorem HubKept.foldl {α : Type} (l : List α) (f : State → α → State) (hf : ∀ s a, HubKept s (f s a)) (s : State) :
    HubKept s (l.foldl f s) := by
  induction l generalizing s with
  | nil => exact HubKept.refl s
  | cons a l ih => exact (hf s a).trans (ih _)

theorem State.sendMsix_hub (s : State) (v : Nat) : HubKept s (s.sendMsix v) := by
  unfold State.sendMsix State.emit
  split <;> exact ⟨_, _, _, _, _, rfl⟩

theorem State.raiseVec_hub (s : State) (v : Nat) : HubKept s (s.raiseVec v) := by
  unfold State.raiseVec State.sendMsix State.emit
  (repeat' split) <;> exact ⟨_, _, _, _, _, rfl⟩

theorem fireBind_hub (s : State) (n : Nat) : HubKept s (fireBind s n) := by
  unfold fireBind
  dsimp only
  split
  · refine HubKept.trans ?_ (State.raiseVec_hub _ _)
    exact ⟨_, _, _, _, _, rfl⟩
  · exact HubKept.refl s

theorem State.addHubFlag_hub (s : State) (n : Nat) (i : Word32) : HubKept s (s.addHubFlag n i) := by
  unfold State.addHubFlag fireBinds
  refine HubKept.trans ?_ (HubKept.foldl _ _ fireBind_hub _)
  exact ⟨_, _, _, _, _, rfl⟩

theorem State.cntCarry_hub (s : State) (sel : Nat) : HubKept s (s.cntCarry sel) := by
  have h : ∀ (b : Bool), HubKept s (if b = true then { s with pmu.ctl := s.pmu.ctl ||| 1 } else s) := fun b => by
    split
    · exact HubKept.of_hub rfl
    · exact HubKept.refl s
  unfold State.cntCarry
  dsimp only
  split
  · exact (h _).trans (State.addHubFlag_hub _ _ _)
  · exact h _

theorem State.bumpHub_hub (s : State) (i n : Nat) : HubKept s (s.bumpHub i n) := by
  unfold State.bumpHub
  dsimp only
  split
  · exact HubKept.of_hub rfl
  · refine HubKept.trans ?_ (State.cntCarry_hub _ _)
    exact HubKept.of_hub rfl

theorem State.countHub_hub (s : State) (ev : Nat) (hit : Nat → Bool) (n : Nat) : HubKept s (s.countHub ev hit n) := by
  unfold State.countHub
  split
  · exact HubKept.refl s
  · refine HubKept.foldl _ _ (fun t i => ?_) s
    split
    · exact State.bumpHub_hub _ _ _
    · exact HubKept.refl t

theorem State.offer_hub (s : State) (o : Occ) : HubKept s (s.offer o) := by
  unfold State.offer
  split
  · refine HubKept.trans ?_ (State.countHub_hub _ _ _ _)
    exact HubKept.of_hub rfl
  · split <;> exact HubKept.of_hub rfl

theorem State.raise_hub (s : State) (code : Nat) (cls : ErrClass) (i p : Nat) : HubKept s (s.raise code cls i p) :=
  State.offer_hub _ _

theorem State.raiseHalting_hub (s : State) (code : Nat) (cls : ErrClass) (i p : Nat) :
    HubKept s (s.raiseHalting code cls i p) := State.offer_hub _ _

theorem State.countLine_hub (s : State) (a : Nat) (w : Bool) : HubKept s (s.countLine a w) := by
  have h : HubKept s (s.wakeStack a) := by
    unfold State.wakeStack
    split
    · exact HubKept.refl s
    · split <;> exact HubKept.of_hub rfl
  unfold State.countLine
  dsimp only
  split
  · exact h.trans (State.countHub_hub _ _ _ _)
  · exact h.trans (State.countHub_hub _ _ _ _)
  · exact h

end Sys2Proof.Machine
end

