-- ==== Sys2Proof/Laws/Net.lean ====
section
/-! SUPPORT. What sending packets can change in the fabric block: its ports, its inbox, the streams in rotation and its drop
counters. -/

namespace Sys2Proof.Machine

/-- The fabric changed in its ports, its inbox, its streams in rotation and its drop counters only. -/
def FabKept (s t : State) : Prop :=
  ∃ p i q a b c d, t.fab = { s.fab with
    ports := p, inbox := i, streamQ := q, dropRoute := a, dropTtl := b, dropEcrc := c, dropOther := d }

theorem FabKept.refl (s : State) : FabKept s s := ⟨_, _, _, _, _, _, _, rfl⟩

theorem FabKept.trans {s t u : State} (h : FabKept s t) (h' : FabKept t u) : FabKept s u := by
  obtain ⟨a, b, c, d, e, f, g, h⟩ := h
  obtain ⟨a', b', c', d', e', f', g', h'⟩ := h'
  exact ⟨a', b', c', d', e', f', g', by rw [h', h]⟩

theorem FabKept.of_fab {s t : State} (h : t.fab = s.fab) : FabKept s t := ⟨_, _, _, _, _, _, _, h⟩

theorem FabKept.foldl {α : Type} (l : List α) (f : State → α → State) (hf : ∀ s a, FabKept s (f s a)) (s : State) :
    FabKept s (l.foldl f s) := by
  induction l generalizing s with
  | nil => exact FabKept.refl s
  | cons a l ih => exact (hf s a).trans (ih _)

theorem State.setPort_fab (s : State) (p : Nat) (x : Port) : FabKept s (s.setPort p x) := ⟨_, _, _, _, _, _, _, rfl⟩

theorem State.putFlit_fab (s : State) (p ftype seq : Nat) (msg : Option LinkMsg) (body : List Byte) :
    FabKept s (s.putFlit p ftype seq msg body) := ⟨_, _, _, _, _, _, _, rfl⟩

theorem State.freeAt_fab (s : State) (p b units : Nat) : FabKept s (s.freeAt p b units) := by
  unfold State.freeAt
  dsimp only
  split
  · exact (State.setPort_fab _ _ _).trans (State.putFlit_fab _ _ _ _ _ _)
  · exact State.setPort_fab _ _ _

theorem State.freeHeld_fab (s : State) (q : Packet) : FabKept s (s.freeHeld q) := by
  unfold State.freeHeld
  split
  · exact State.freeAt_fab _ _ _ _
  · exact FabKept.refl s

theorem State.countHub_fab (s : State) (c : Nat) (f : Nat → Bool) (n : Nat) : FabKept s (s.countHub c f n) :=
  FabKept.of_fab (by simp)

theorem pumpN_fab (p n : Nat) (s : State) : FabKept s (pumpN p n s) := by
  induction n generalizing s with
  | zero => exact FabKept.refl s
  | succ n ih =>
    unfold pumpN
    dsimp only
    split
    · exact FabKept.refl s
    · refine FabKept.trans ?_ (ih _)
      refine FabKept.trans ?_ (State.freeHeld_fab _ _)
      refine FabKept.trans ?_ (FabKept.foldl _ _ (fun t f => State.putFlit_fab t _ _ _ _ _) _)
      exact (State.setPort_fab s p _).trans (State.countHub_fab _ _ _ _)

theorem State.assign_fab (s : State) (p : Nat) (q : Packet) : FabKept s (s.assign p q) := by
  unfold State.assign State.pump
  exact (State.setPort_fab _ _ _).trans (pumpN_fab _ _ _)

theorem State.drop_fab (s : State) (k : DropKind) (p : Packet) : FabKept s (s.drop k p) := by
  have h : ∀ (u : State) (x : Nat), FabKept u (u.raise 0x0808 .c 0x7F x) := fun u x => FabKept.of_fab (by simp)
  unfold State.drop
  dsimp only
  refine FabKept.trans ?_ (h _ _)
  cases k <;> exact ⟨_, _, _, _, _, _, _, rfl⟩

theorem State.routeOut_fab (s : State) (p : Packet) : FabKept s (s.routeOut p) := by
  unfold State.routeOut
  split
  · exact (State.freeHeld_fab _ _).trans (State.drop_fab _ _ _)
  · exact State.assign_fab _ _ _

theorem State.sendPacket_fab (s : State) (p : Packet) : FabKept s (s.sendPacket p) := by
  unfold State.sendPacket
  dsimp only
  split
  · exact ⟨_, _, _, _, _, _, _, rfl⟩
  · exact State.routeOut_fab _ _

theorem State.streamQ_fab (s : State) (q : List (List Packet)) : FabKept s { s with fab.streamQ := q } :=
  ⟨_, _, _, _, _, _, _, rfl⟩

theorem feedN_fab (n : Nat) (s : State) : FabKept s (feedN n s) := by
  induction n generalizing s with
  | zero => exact FabKept.refl s
  | succ n ih =>
    unfold feedN
    split
    · exact FabKept.refl s
    · refine FabKept.trans ?_ (ih _)
      exact (State.streamQ_fab s _).trans (State.sendPacket_fab _ _)

theorem State.sendAll_fab (s : State) (ps : List Packet) : FabKept s (s.sendAll ps) :=
  (State.streamQ_fab s _).trans (feedN_fab _ _)

end Sys2Proof.Machine
end

