-- ==== Sys2Proof/Laws/Results.lean ====
section
/-! SUPPORT. What each command leaves alone, and that it ends in a next state. -/

set_option maxRecDepth 20000
set_option linter.all false

namespace Sys2Proof.Machine

@[simp] theorem resultOf_next (s t : State) : resultOf s (.next t) = t := rfl
@[simp] theorem resultOf_ite (c : Prop) [Decidable c] (s : State) (a b : Answer) : resultOf s (ite c a b) = ite c (resultOf s a) (resultOf s b) := apply_ite _ _ _ _
@[simp] theorem State.onBar_ident (a1 : State) (a2) (ha2 : ∀ y0, (a2 y0).ident = y0.ident) : (resultOf a1 (State.onBar a1 a2)).ident = a1.ident := by
  simp [State.onBar, ha2]
@[simp] theorem State.onBar_nv (a1 : State) (a2) (ha2 : ∀ y0, (a2 y0).nv = y0.nv) : (resultOf a1 (State.onBar a1 a2)).nv = a1.nv := by
  simp [State.onBar, ha2]
@[simp] theorem State.onBar_top (a1 : State) (a2) (ha2 : ∀ y0, (a2 y0).top = y0.top) : (resultOf a1 (State.onBar a1 a2)).top = a1.top := by
  simp [State.onBar, ha2]
@[simp] theorem State.onBar_cores (a1 : State) (a2) (ha2 : ∀ y0, (a2 y0).cores = y0.cores) : (resultOf a1 (State.onBar a1 a2)).cores = a1.cores := by
  simp [State.onBar, ha2]
@[simp] theorem State.onBar_hub (a1 : State) (a2) (ha2 : ∀ y0, (a2 y0).hub = y0.hub) : (resultOf a1 (State.onBar a1 a2)).hub = a1.hub := by
  simp [State.onBar, ha2]
@[simp] theorem State.onBar_err (a1 : State) (a2) (ha2 : ∀ y0, (a2 y0).err = y0.err) : (resultOf a1 (State.onBar a1 a2)).err = a1.err := by
  simp [State.onBar, ha2]
@[simp] theorem State.onBar_mem (a1 : State) (a2) (ha2 : ∀ y0, (a2 y0).mem = y0.mem) : (resultOf a1 (State.onBar a1 a2)).mem = a1.mem := by
  simp [State.onBar, ha2]
@[simp] theorem State.onBar_cle (a1 : State) (a2) (ha2 : ∀ y0, (a2 y0).cle = y0.cle) : (resultOf a1 (State.onBar a1 a2)).cle = a1.cle := by
  simp [State.onBar, ha2]
@[simp] theorem State.onBar_pue0 (a1 : State) (a2) (ha2 : ∀ y0, (a2 y0).pue0 = y0.pue0) : (resultOf a1 (State.onBar a1 a2)).pue0 = a1.pue0 := by
  simp [State.onBar, ha2]
@[simp] theorem State.onBar_pue1 (a1 : State) (a2) (ha2 : ∀ y0, (a2 y0).pue1 = y0.pue1) : (resultOf a1 (State.onBar a1 a2)).pue1 = a1.pue1 := by
  simp [State.onBar, ha2]
@[simp] theorem State.onBar_cke (a1 : State) (a2) (ha2 : ∀ y0, (a2 y0).cke = y0.cke) : (resultOf a1 (State.onBar a1 a2)).cke = a1.cke := by
  simp [State.onBar, ha2]
@[simp] theorem State.onBar_pwr (a1 : State) (a2) (ha2 : ∀ y0, (a2 y0).pwr = y0.pwr) : (resultOf a1 (State.onBar a1 a2)).pwr = a1.pwr := by
  simp [State.onBar, ha2]
@[simp] theorem State.onBar_fab (a1 : State) (a2) (ha2 : ∀ y0, (a2 y0).fab = y0.fab) : (resultOf a1 (State.onBar a1 a2)).fab = a1.fab := by
  simp [State.onBar, ha2]
@[simp] theorem State.onBar_pmu (a1 : State) (a2) (ha2 : ∀ y0, (a2 y0).pmu = y0.pmu) : (resultOf a1 (State.onBar a1 a2)).pmu = a1.pmu := by
  simp [State.onBar, ha2]
@[simp] theorem State.onBar_mss (a1 : State) (a2) (ha2 : ∀ y0, (a2 y0).mss = y0.mss) : (resultOf a1 (State.onBar a1 a2)).mss = a1.mss := by
  simp [State.onBar, ha2]
@[simp] theorem State.onBar_sent (a1 : State) (a2) (ha2 : ∀ y0, (a2 y0).sent = y0.sent) : (resultOf a1 (State.onBar a1 a2)).sent = a1.sent := by
  simp [State.onBar, ha2]
@[simp] theorem State.onBar_fresh (a1 : State) (a2) (ha2 : ∀ y0, (a2 y0).fresh = y0.fresh) : (resultOf a1 (State.onBar a1 a2)).fresh = a1.fresh := by
  simp [State.onBar, ha2]
@[simp] theorem State.onBar_routineIds (a1 : State) (a2) (ha2 : ∀ y0, (a2 y0).routineIds = y0.routineIds) : (resultOf a1 (State.onBar a1 a2)).routineIds = a1.routineIds := by
  simp [State.onBar, ha2]
@[simp] theorem State.onBar_pending (a1 : State) (a2) (ha2 : ∀ y0, (a2 y0).pending = y0.pending) : (resultOf a1 (State.onBar a1 a2)).pending = a1.pending := by
  simp [State.onBar, ha2]
theorem State.onBar_completes (a1 : State) (a2) : (State.onBar a1 a2) = .next (resultOf a1 (State.onBar a1 a2)) := by
  unfold State.onBar
  try dsimp only
  repeat' split
  all_goals rfl
theorem execMxuLoadw_frame (a1) (a2) (a3) (a4 : State) : (resultOf a4 (execMxuLoadw a1 a2 a3 a4)).ident = a4.ident ∧ (resultOf a4 (execMxuLoadw a1 a2 a3 a4)).nv = a4.nv ∧ (resultOf a4 (execMxuLoadw a1 a2 a3 a4)).top = a4.top ∧ (resultOf a4 (execMxuLoadw a1 a2 a3 a4)).cle = a4.cle ∧ (resultOf a4 (execMxuLoadw a1 a2 a3 a4)).pue0 = a4.pue0 ∧ (resultOf a4 (execMxuLoadw a1 a2 a3 a4)).pue1 = a4.pue1 ∧ (resultOf a4 (execMxuLoadw a1 a2 a3 a4)).fab = a4.fab ∧ (resultOf a4 (execMxuLoadw a1 a2 a3 a4)).mss = a4.mss ∧ (resultOf a4 (execMxuLoadw a1 a2 a3 a4)).routineIds = a4.routineIds ∧ (resultOf a4 (execMxuLoadw a1 a2 a3 a4)).pending = a4.pending := by
  simp [execMxuLoadw]
theorem execMxuLoadw_completes (a1) (a2) (a3) (a4 : State) : (execMxuLoadw a1 a2 a3 a4) = .next (resultOf a4 (execMxuLoadw a1 a2 a3 a4)) := by
  unfold execMxuLoadw
  try dsimp only
  repeat' split
  all_goals rfl
theorem execMxuStream_frame (a1) (a2) (a3) (a4 : State) : (resultOf a4 (execMxuStream a1 a2 a3 a4)).ident = a4.ident ∧ (resultOf a4 (execMxuStream a1 a2 a3 a4)).nv = a4.nv ∧ (resultOf a4 (execMxuStream a1 a2 a3 a4)).top = a4.top ∧ (resultOf a4 (execMxuStream a1 a2 a3 a4)).cle = a4.cle ∧ (resultOf a4 (execMxuStream a1 a2 a3 a4)).pue0 = a4.pue0 ∧ (resultOf a4 (execMxuStream a1 a2 a3 a4)).pue1 = a4.pue1 ∧ (resultOf a4 (execMxuStream a1 a2 a3 a4)).fab = a4.fab ∧ (resultOf a4 (execMxuStream a1 a2 a3 a4)).mss = a4.mss ∧ (resultOf a4 (execMxuStream a1 a2 a3 a4)).routineIds = a4.routineIds ∧ (resultOf a4 (execMxuStream a1 a2 a3 a4)).pending = a4.pending := by
  simp [execMxuStream]
theorem execMxuStream_completes (a1) (a2) (a3) (a4 : State) : (execMxuStream a1 a2 a3 a4) = .next (resultOf a4 (execMxuStream a1 a2 a3 a4)) := by
  unfold execMxuStream
  try dsimp only
  repeat' split
  all_goals rfl
theorem execMxuDrain_frame (a1) (a2) (a3) (a4 : State) : (resultOf a4 (execMxuDrain a1 a2 a3 a4)).ident = a4.ident ∧ (resultOf a4 (execMxuDrain a1 a2 a3 a4)).nv = a4.nv ∧ (resultOf a4 (execMxuDrain a1 a2 a3 a4)).top = a4.top ∧ (resultOf a4 (execMxuDrain a1 a2 a3 a4)).cle = a4.cle ∧ (resultOf a4 (execMxuDrain a1 a2 a3 a4)).pue0 = a4.pue0 ∧ (resultOf a4 (execMxuDrain a1 a2 a3 a4)).pue1 = a4.pue1 ∧ (resultOf a4 (execMxuDrain a1 a2 a3 a4)).fab = a4.fab ∧ (resultOf a4 (execMxuDrain a1 a2 a3 a4)).mss = a4.mss ∧ (resultOf a4 (execMxuDrain a1 a2 a3 a4)).routineIds = a4.routineIds ∧ (resultOf a4 (execMxuDrain a1 a2 a3 a4)).pending = a4.pending := by
  simp [execMxuDrain]
theorem execMxuDrain_completes (a1) (a2) (a3) (a4 : State) : (execMxuDrain a1 a2 a3 a4) = .next (resultOf a4 (execMxuDrain a1 a2 a3 a4)) := by
  unfold execMxuDrain
  try dsimp only
  repeat' split
  all_goals rfl
theorem execMxuMultipass_frame (a1) (a2) (a3) (a4 : State) : (resultOf a4 (execMxuMultipass a1 a2 a3 a4)).ident = a4.ident ∧ (resultOf a4 (execMxuMultipass a1 a2 a3 a4)).nv = a4.nv ∧ (resultOf a4 (execMxuMultipass a1 a2 a3 a4)).top = a4.top ∧ (resultOf a4 (execMxuMultipass a1 a2 a3 a4)).cle = a4.cle ∧ (resultOf a4 (execMxuMultipass a1 a2 a3 a4)).pue0 = a4.pue0 ∧ (resultOf a4 (execMxuMultipass a1 a2 a3 a4)).pue1 = a4.pue1 ∧ (resultOf a4 (execMxuMultipass a1 a2 a3 a4)).fab = a4.fab ∧ (resultOf a4 (execMxuMultipass a1 a2 a3 a4)).mss = a4.mss ∧ (resultOf a4 (execMxuMultipass a1 a2 a3 a4)).routineIds = a4.routineIds ∧ (resultOf a4 (execMxuMultipass a1 a2 a3 a4)).pending = a4.pending := by
  simp [execMxuMultipass]
theorem execMxuMultipass_completes (a1) (a2) (a3) (a4 : State) : (execMxuMultipass a1 a2 a3 a4) = .next (resultOf a4 (execMxuMultipass a1 a2 a3 a4)) := by
  unfold execMxuMultipass
  try dsimp only
  repeat' split
  all_goals rfl
theorem execMxuClear_frame (a1) (a2) (a3) (a4 : State) : (resultOf a4 (execMxuClear a1 a2 a3 a4)).ident = a4.ident ∧ (resultOf a4 (execMxuClear a1 a2 a3 a4)).nv = a4.nv ∧ (resultOf a4 (execMxuClear a1 a2 a3 a4)).top = a4.top ∧ (resultOf a4 (execMxuClear a1 a2 a3 a4)).cle = a4.cle ∧ (resultOf a4 (execMxuClear a1 a2 a3 a4)).pue0 = a4.pue0 ∧ (resultOf a4 (execMxuClear a1 a2 a3 a4)).pue1 = a4.pue1 ∧ (resultOf a4 (execMxuClear a1 a2 a3 a4)).fab = a4.fab ∧ (resultOf a4 (execMxuClear a1 a2 a3 a4)).mss = a4.mss ∧ (resultOf a4 (execMxuClear a1 a2 a3 a4)).routineIds = a4.routineIds ∧ (resultOf a4 (execMxuClear a1 a2 a3 a4)).pending = a4.pending := by
  simp [execMxuClear]
theorem execMxuClear_completes (a1) (a2) (a3) (a4 : State) : (execMxuClear a1 a2 a3 a4) = .next (resultOf a4 (execMxuClear a1 a2 a3 a4)) := by
  unfold execMxuClear
  try dsimp only
  repeat' split
  all_goals rfl
theorem execMxuStart_frame (a1) (a2) (a3 : State) : (resultOf a3 (execMxuStart a1 a2 a3)).ident = a3.ident ∧ (resultOf a3 (execMxuStart a1 a2 a3)).nv = a3.nv ∧ (resultOf a3 (execMxuStart a1 a2 a3)).top = a3.top ∧ (resultOf a3 (execMxuStart a1 a2 a3)).mem = a3.mem ∧ (resultOf a3 (execMxuStart a1 a2 a3)).cle = a3.cle ∧ (resultOf a3 (execMxuStart a1 a2 a3)).pue0 = a3.pue0 ∧ (resultOf a3 (execMxuStart a1 a2 a3)).pue1 = a3.pue1 ∧ (resultOf a3 (execMxuStart a1 a2 a3)).fab = a3.fab ∧ (resultOf a3 (execMxuStart a1 a2 a3)).mss = a3.mss ∧ (resultOf a3 (execMxuStart a1 a2 a3)).fresh = a3.fresh ∧ (resultOf a3 (execMxuStart a1 a2 a3)).routineIds = a3.routineIds ∧ (resultOf a3 (execMxuStart a1 a2 a3)).pending = a3.pending := by
  simp only [execMxuStart]
  repeat' split
  all_goals simp
theorem execMxuStart_completes (a1) (a2) (a3 : State) : (execMxuStart a1 a2 a3) = .next (resultOf a3 (execMxuStart a1 a2 a3)) := by
  unfold execMxuStart
  try dsimp only
  repeat' split
  all_goals rfl
theorem execTreeOutput_frame (a1) (a2) (a3) (a4 : State) : (resultOf a4 (execTreeOutput a1 a2 a3 a4)).ident = a4.ident ∧ (resultOf a4 (execTreeOutput a1 a2 a3 a4)).nv = a4.nv ∧ (resultOf a4 (execTreeOutput a1 a2 a3 a4)).top = a4.top ∧ (resultOf a4 (execTreeOutput a1 a2 a3 a4)).mem = a4.mem ∧ (resultOf a4 (execTreeOutput a1 a2 a3 a4)).cle = a4.cle ∧ (resultOf a4 (execTreeOutput a1 a2 a3 a4)).pue0 = a4.pue0 ∧ (resultOf a4 (execTreeOutput a1 a2 a3 a4)).pue1 = a4.pue1 ∧ (resultOf a4 (execTreeOutput a1 a2 a3 a4)).fab = a4.fab ∧ (resultOf a4 (execTreeOutput a1 a2 a3 a4)).mss = a4.mss ∧ (resultOf a4 (execTreeOutput a1 a2 a3 a4)).fresh = a4.fresh ∧ (resultOf a4 (execTreeOutput a1 a2 a3 a4)).routineIds = a4.routineIds ∧ (resultOf a4 (execTreeOutput a1 a2 a3 a4)).pending = a4.pending := by
  simp only [execTreeOutput]
  repeat' split
  all_goals simp
theorem execTreeOutput_completes (a1) (a2) (a3) (a4 : State) : (execTreeOutput a1 a2 a3 a4) = .next (resultOf a4 (execTreeOutput a1 a2 a3 a4)) := by
  unfold execTreeOutput
  try dsimp only
  repeat' split
  all_goals rfl
theorem execDrainRowRead_frame (a1) (a2) (a3) (a4 : State) : (resultOf a4 (execDrainRowRead a1 a2 a3 a4)).ident = a4.ident ∧ (resultOf a4 (execDrainRowRead a1 a2 a3 a4)).nv = a4.nv ∧ (resultOf a4 (execDrainRowRead a1 a2 a3 a4)).top = a4.top ∧ (resultOf a4 (execDrainRowRead a1 a2 a3 a4)).mem = a4.mem ∧ (resultOf a4 (execDrainRowRead a1 a2 a3 a4)).cle = a4.cle ∧ (resultOf a4 (execDrainRowRead a1 a2 a3 a4)).pue0 = a4.pue0 ∧ (resultOf a4 (execDrainRowRead a1 a2 a3 a4)).pue1 = a4.pue1 ∧ (resultOf a4 (execDrainRowRead a1 a2 a3 a4)).pwr = a4.pwr ∧ (resultOf a4 (execDrainRowRead a1 a2 a3 a4)).fab = a4.fab ∧ (resultOf a4 (execDrainRowRead a1 a2 a3 a4)).mss = a4.mss ∧ (resultOf a4 (execDrainRowRead a1 a2 a3 a4)).fresh = a4.fresh ∧ (resultOf a4 (execDrainRowRead a1 a2 a3 a4)).routineIds = a4.routineIds ∧ (resultOf a4 (execDrainRowRead a1 a2 a3 a4)).pending = a4.pending := by
  simp only [execDrainRowRead]
  repeat' split
  all_goals simp
theorem execDrainRowRead_completes (a1) (a2) (a3) (a4 : State) : (execDrainRowRead a1 a2 a3 a4) = .next (resultOf a4 (execDrainRowRead a1 a2 a3 a4)) := by
  unfold execDrainRowRead
  try dsimp only
  repeat' split
  all_goals rfl
theorem execVceCfg_frame (a1) (a2) (a3) (a4 : State) : (resultOf a4 (execVceCfg a1 a2 a3 a4)).ident = a4.ident ∧ (resultOf a4 (execVceCfg a1 a2 a3 a4)).nv = a4.nv ∧ (resultOf a4 (execVceCfg a1 a2 a3 a4)).top = a4.top ∧ (resultOf a4 (execVceCfg a1 a2 a3 a4)).cle = a4.cle ∧ (resultOf a4 (execVceCfg a1 a2 a3 a4)).pue0 = a4.pue0 ∧ (resultOf a4 (execVceCfg a1 a2 a3 a4)).pue1 = a4.pue1 ∧ (resultOf a4 (execVceCfg a1 a2 a3 a4)).fab = a4.fab ∧ (resultOf a4 (execVceCfg a1 a2 a3 a4)).mss = a4.mss ∧ (resultOf a4 (execVceCfg a1 a2 a3 a4)).routineIds = a4.routineIds ∧ (resultOf a4 (execVceCfg a1 a2 a3 a4)).pending = a4.pending := by
  simp [execVceCfg]
theorem execVceCfg_completes (a1) (a2) (a3) (a4 : State) : (execVceCfg a1 a2 a3 a4) = .next (resultOf a4 (execVceCfg a1 a2 a3 a4)) := by
  unfold execVceCfg
  try dsimp only
  repeat' split
  all_goals rfl
theorem execVceRun_frame (a1) (a2) (a3) (a4 : State) : (resultOf a4 (execVceRun a1 a2 a3 a4)).ident = a4.ident ∧ (resultOf a4 (execVceRun a1 a2 a3 a4)).nv = a4.nv ∧ (resultOf a4 (execVceRun a1 a2 a3 a4)).top = a4.top ∧ (resultOf a4 (execVceRun a1 a2 a3 a4)).cle = a4.cle ∧ (resultOf a4 (execVceRun a1 a2 a3 a4)).pue0 = a4.pue0 ∧ (resultOf a4 (execVceRun a1 a2 a3 a4)).pue1 = a4.pue1 ∧ (resultOf a4 (execVceRun a1 a2 a3 a4)).fab = a4.fab ∧ (resultOf a4 (execVceRun a1 a2 a3 a4)).mss = a4.mss ∧ (resultOf a4 (execVceRun a1 a2 a3 a4)).routineIds = a4.routineIds ∧ (resultOf a4 (execVceRun a1 a2 a3 a4)).pending = a4.pending := by
  simp [execVceRun]
theorem execVceRun_completes (a1) (a2) (a3) (a4 : State) : (execVceRun a1 a2 a3 a4) = .next (resultOf a4 (execVceRun a1 a2 a3 a4)) := by
  unfold execVceRun
  try dsimp only
  repeat' split
  all_goals rfl
theorem execVceTblload_frame (a1) (a2) (a3) (a4 : State) : (resultOf a4 (execVceTblload a1 a2 a3 a4)).ident = a4.ident ∧ (resultOf a4 (execVceTblload a1 a2 a3 a4)).nv = a4.nv ∧ (resultOf a4 (execVceTblload a1 a2 a3 a4)).top = a4.top ∧ (resultOf a4 (execVceTblload a1 a2 a3 a4)).cle = a4.cle ∧ (resultOf a4 (execVceTblload a1 a2 a3 a4)).pue0 = a4.pue0 ∧ (resultOf a4 (execVceTblload a1 a2 a3 a4)).pue1 = a4.pue1 ∧ (resultOf a4 (execVceTblload a1 a2 a3 a4)).fab = a4.fab ∧ (resultOf a4 (execVceTblload a1 a2 a3 a4)).mss = a4.mss ∧ (resultOf a4 (execVceTblload a1 a2 a3 a4)).routineIds = a4.routineIds ∧ (resultOf a4 (execVceTblload a1 a2 a3 a4)).pending = a4.pending := by
  simp [execVceTblload]
theorem execVceTblload_completes (a1) (a2) (a3) (a4 : State) : (execVceTblload a1 a2 a3 a4) = .next (resultOf a4 (execVceTblload a1 a2 a3 a4)) := by
  unfold execVceTblload
  try dsimp only
  repeat' split
  all_goals rfl
theorem execVcePerm_frame (a1) (a2) (a3) (a4 : State) : (resultOf a4 (execVcePerm a1 a2 a3 a4)).ident = a4.ident ∧ (resultOf a4 (execVcePerm a1 a2 a3 a4)).nv = a4.nv ∧ (resultOf a4 (execVcePerm a1 a2 a3 a4)).top = a4.top ∧ (resultOf a4 (execVcePerm a1 a2 a3 a4)).cle = a4.cle ∧ (resultOf a4 (execVcePerm a1 a2 a3 a4)).pue0 = a4.pue0 ∧ (resultOf a4 (execVcePerm a1 a2 a3 a4)).pue1 = a4.pue1 ∧ (resultOf a4 (execVcePerm a1 a2 a3 a4)).fab = a4.fab ∧ (resultOf a4 (execVcePerm a1 a2 a3 a4)).mss = a4.mss ∧ (resultOf a4 (execVcePerm a1 a2 a3 a4)).routineIds = a4.routineIds ∧ (resultOf a4 (execVcePerm a1 a2 a3 a4)).pending = a4.pending := by
  simp [execVcePerm]
theorem execVcePerm_completes (a1) (a2) (a3) (a4 : State) : (execVcePerm a1 a2 a3 a4) = .next (resultOf a4 (execVcePerm a1 a2 a3 a4)) := by
  unfold execVcePerm
  try dsimp only
  repeat' split
  all_goals rfl
theorem execVceReduce_frame (a1) (a2) (a3) (a4 : State) : (resultOf a4 (execVceReduce a1 a2 a3 a4)).ident = a4.ident ∧ (resultOf a4 (execVceReduce a1 a2 a3 a4)).nv = a4.nv ∧ (resultOf a4 (execVceReduce a1 a2 a3 a4)).top = a4.top ∧ (resultOf a4 (execVceReduce a1 a2 a3 a4)).cle = a4.cle ∧ (resultOf a4 (execVceReduce a1 a2 a3 a4)).pue0 = a4.pue0 ∧ (resultOf a4 (execVceReduce a1 a2 a3 a4)).pue1 = a4.pue1 ∧ (resultOf a4 (execVceReduce a1 a2 a3 a4)).fab = a4.fab ∧ (resultOf a4 (execVceReduce a1 a2 a3 a4)).mss = a4.mss ∧ (resultOf a4 (execVceReduce a1 a2 a3 a4)).routineIds = a4.routineIds ∧ (resultOf a4 (execVceReduce a1 a2 a3 a4)).pending = a4.pending := by
  simp [execVceReduce]
theorem execVceReduce_completes (a1) (a2) (a3) (a4 : State) : (execVceReduce a1 a2 a3 a4) = .next (resultOf a4 (execVceReduce a1 a2 a3 a4)) := by
  unfold execVceReduce
  try dsimp only
  repeat' split
  all_goals rfl
theorem execVceScan_frame (a1) (a2) (a3) (a4 : State) : (resultOf a4 (execVceScan a1 a2 a3 a4)).ident = a4.ident ∧ (resultOf a4 (execVceScan a1 a2 a3 a4)).nv = a4.nv ∧ (resultOf a4 (execVceScan a1 a2 a3 a4)).top = a4.top ∧ (resultOf a4 (execVceScan a1 a2 a3 a4)).cle = a4.cle ∧ (resultOf a4 (execVceScan a1 a2 a3 a4)).pue0 = a4.pue0 ∧ (resultOf a4 (execVceScan a1 a2 a3 a4)).pue1 = a4.pue1 ∧ (resultOf a4 (execVceScan a1 a2 a3 a4)).fab = a4.fab ∧ (resultOf a4 (execVceScan a1 a2 a3 a4)).mss = a4.mss ∧ (resultOf a4 (execVceScan a1 a2 a3 a4)).routineIds = a4.routineIds ∧ (resultOf a4 (execVceScan a1 a2 a3 a4)).pending = a4.pending := by
  simp [execVceScan]
theorem execVceScan_completes (a1) (a2) (a3) (a4 : State) : (execVceScan a1 a2 a3 a4) = .next (resultOf a4 (execVceScan a1 a2 a3 a4)) := by
  unfold execVceScan
  try dsimp only
  repeat' split
  all_goals rfl
theorem execVceStart_frame (a1) (a2) (a3 : State) : (resultOf a3 (execVceStart a1 a2 a3)).ident = a3.ident ∧ (resultOf a3 (execVceStart a1 a2 a3)).nv = a3.nv ∧ (resultOf a3 (execVceStart a1 a2 a3)).top = a3.top ∧ (resultOf a3 (execVceStart a1 a2 a3)).mem = a3.mem ∧ (resultOf a3 (execVceStart a1 a2 a3)).cle = a3.cle ∧ (resultOf a3 (execVceStart a1 a2 a3)).pue0 = a3.pue0 ∧ (resultOf a3 (execVceStart a1 a2 a3)).pue1 = a3.pue1 ∧ (resultOf a3 (execVceStart a1 a2 a3)).fab = a3.fab ∧ (resultOf a3 (execVceStart a1 a2 a3)).mss = a3.mss ∧ (resultOf a3 (execVceStart a1 a2 a3)).fresh = a3.fresh ∧ (resultOf a3 (execVceStart a1 a2 a3)).routineIds = a3.routineIds ∧ (resultOf a3 (execVceStart a1 a2 a3)).pending = a3.pending := by
  simp only [execVceStart]
  repeat' split
  all_goals simp
theorem execVceStart_completes (a1) (a2) (a3 : State) : (execVceStart a1 a2 a3) = .next (resultOf a3 (execVceStart a1 a2 a3)) := by
  unfold execVceStart
  try dsimp only
  repeat' split
  all_goals rfl
theorem execNop_frame (a1) (a2) (a3) (a4 : State) : (resultOf a4 (execNop a1 a2 a3 a4)).ident = a4.ident ∧ (resultOf a4 (execNop a1 a2 a3 a4)).nv = a4.nv ∧ (resultOf a4 (execNop a1 a2 a3 a4)).top = a4.top ∧ (resultOf a4 (execNop a1 a2 a3 a4)).cle = a4.cle ∧ (resultOf a4 (execNop a1 a2 a3 a4)).pue0 = a4.pue0 ∧ (resultOf a4 (execNop a1 a2 a3 a4)).pue1 = a4.pue1 ∧ (resultOf a4 (execNop a1 a2 a3 a4)).fab = a4.fab ∧ (resultOf a4 (execNop a1 a2 a3 a4)).mss = a4.mss ∧ (resultOf a4 (execNop a1 a2 a3 a4)).routineIds = a4.routineIds ∧ (resultOf a4 (execNop a1 a2 a3 a4)).pending = a4.pending := by
  simp [execNop]
theorem execNop_completes (a1) (a2) (a3) (a4 : State) : (execNop a1 a2 a3 a4) = .next (resultOf a4 (execNop a1 a2 a3 a4)) := by
  unfold execNop
  try dsimp only
  repeat' split
  all_goals rfl
theorem execTile_frame (a1) (a2) (a3) (a4 : State) : (resultOf a4 (execTile a1 a2 a3 a4)).ident = a4.ident ∧ (resultOf a4 (execTile a1 a2 a3 a4)).nv = a4.nv ∧ (resultOf a4 (execTile a1 a2 a3 a4)).top = a4.top ∧ (resultOf a4 (execTile a1 a2 a3 a4)).cle = a4.cle ∧ (resultOf a4 (execTile a1 a2 a3 a4)).pue0 = a4.pue0 ∧ (resultOf a4 (execTile a1 a2 a3 a4)).pue1 = a4.pue1 ∧ (resultOf a4 (execTile a1 a2 a3 a4)).fab = a4.fab ∧ (resultOf a4 (execTile a1 a2 a3 a4)).mss = a4.mss ∧ (resultOf a4 (execTile a1 a2 a3 a4)).routineIds = a4.routineIds ∧ (resultOf a4 (execTile a1 a2 a3 a4)).pending = a4.pending := by
  simp [execTile]
theorem execTile_completes (a1) (a2) (a3) (a4 : State) : (execTile a1 a2 a3 a4) = .next (resultOf a4 (execTile a1 a2 a3 a4)) := by
  unfold execTile
  try dsimp only
  repeat' split
  all_goals rfl
theorem execDrop_frame (a1) (a2) (a3) (a4 : State) : (resultOf a4 (execDrop a1 a2 a3 a4)).ident = a4.ident ∧ (resultOf a4 (execDrop a1 a2 a3 a4)).nv = a4.nv ∧ (resultOf a4 (execDrop a1 a2 a3 a4)).top = a4.top ∧ (resultOf a4 (execDrop a1 a2 a3 a4)).cle = a4.cle ∧ (resultOf a4 (execDrop a1 a2 a3 a4)).pue0 = a4.pue0 ∧ (resultOf a4 (execDrop a1 a2 a3 a4)).pue1 = a4.pue1 ∧ (resultOf a4 (execDrop a1 a2 a3 a4)).fab = a4.fab ∧ (resultOf a4 (execDrop a1 a2 a3 a4)).mss = a4.mss ∧ (resultOf a4 (execDrop a1 a2 a3 a4)).routineIds = a4.routineIds ∧ (resultOf a4 (execDrop a1 a2 a3 a4)).pending = a4.pending := by
  simp [execDrop]
theorem execDrop_completes (a1) (a2) (a3) (a4 : State) : (execDrop a1 a2 a3 a4) = .next (resultOf a4 (execDrop a1 a2 a3 a4)) := by
  unfold execDrop
  try dsimp only
  repeat' split
  all_goals rfl
theorem execDup_frame (a1) (a2) (a3) (a4 : State) : (resultOf a4 (execDup a1 a2 a3 a4)).ident = a4.ident ∧ (resultOf a4 (execDup a1 a2 a3 a4)).nv = a4.nv ∧ (resultOf a4 (execDup a1 a2 a3 a4)).top = a4.top ∧ (resultOf a4 (execDup a1 a2 a3 a4)).cle = a4.cle ∧ (resultOf a4 (execDup a1 a2 a3 a4)).pue0 = a4.pue0 ∧ (resultOf a4 (execDup a1 a2 a3 a4)).pue1 = a4.pue1 ∧ (resultOf a4 (execDup a1 a2 a3 a4)).fab = a4.fab ∧ (resultOf a4 (execDup a1 a2 a3 a4)).mss = a4.mss ∧ (resultOf a4 (execDup a1 a2 a3 a4)).routineIds = a4.routineIds ∧ (resultOf a4 (execDup a1 a2 a3 a4)).pending = a4.pending := by
  simp [execDup]
theorem execDup_completes (a1) (a2) (a3) (a4 : State) : (execDup a1 a2 a3 a4) = .next (resultOf a4 (execDup a1 a2 a3 a4)) := by
  unfold execDup
  try dsimp only
  repeat' split
  all_goals rfl
theorem execPset_frame (a1) (a2) (a3) (a4 : State) : (resultOf a4 (execPset a1 a2 a3 a4)).ident = a4.ident ∧ (resultOf a4 (execPset a1 a2 a3 a4)).nv = a4.nv ∧ (resultOf a4 (execPset a1 a2 a3 a4)).top = a4.top ∧ (resultOf a4 (execPset a1 a2 a3 a4)).cle = a4.cle ∧ (resultOf a4 (execPset a1 a2 a3 a4)).pue0 = a4.pue0 ∧ (resultOf a4 (execPset a1 a2 a3 a4)).pue1 = a4.pue1 ∧ (resultOf a4 (execPset a1 a2 a3 a4)).fab = a4.fab ∧ (resultOf a4 (execPset a1 a2 a3 a4)).mss = a4.mss ∧ (resultOf a4 (execPset a1 a2 a3 a4)).routineIds = a4.routineIds ∧ (resultOf a4 (execPset a1 a2 a3 a4)).pending = a4.pending := by
  simp [execPset]
theorem execPset_completes (a1) (a2) (a3) (a4 : State) : (execPset a1 a2 a3 a4) = .next (resultOf a4 (execPset a1 a2 a3 a4)) := by
  unfold execPset
  try dsimp only
  repeat' split
  all_goals rfl
theorem execPadd_frame (a1) (a2) (a3) (a4 : State) : (resultOf a4 (execPadd a1 a2 a3 a4)).ident = a4.ident ∧ (resultOf a4 (execPadd a1 a2 a3 a4)).nv = a4.nv ∧ (resultOf a4 (execPadd a1 a2 a3 a4)).top = a4.top ∧ (resultOf a4 (execPadd a1 a2 a3 a4)).cle = a4.cle ∧ (resultOf a4 (execPadd a1 a2 a3 a4)).pue0 = a4.pue0 ∧ (resultOf a4 (execPadd a1 a2 a3 a4)).pue1 = a4.pue1 ∧ (resultOf a4 (execPadd a1 a2 a3 a4)).fab = a4.fab ∧ (resultOf a4 (execPadd a1 a2 a3 a4)).mss = a4.mss ∧ (resultOf a4 (execPadd a1 a2 a3 a4)).routineIds = a4.routineIds ∧ (resultOf a4 (execPadd a1 a2 a3 a4)).pending = a4.pending := by
  simp [execPadd]
theorem execPadd_completes (a1) (a2) (a3) (a4 : State) : (execPadd a1 a2 a3 a4) = .next (resultOf a4 (execPadd a1 a2 a3 a4)) := by
  unfold execPadd
  try dsimp only
  repeat' split
  all_goals rfl
theorem execPcopy_frame (a1) (a2) (a3) (a4 : State) : (resultOf a4 (execPcopy a1 a2 a3 a4)).ident = a4.ident ∧ (resultOf a4 (execPcopy a1 a2 a3 a4)).nv = a4.nv ∧ (resultOf a4 (execPcopy a1 a2 a3 a4)).top = a4.top ∧ (resultOf a4 (execPcopy a1 a2 a3 a4)).cle = a4.cle ∧ (resultOf a4 (execPcopy a1 a2 a3 a4)).pue0 = a4.pue0 ∧ (resultOf a4 (execPcopy a1 a2 a3 a4)).pue1 = a4.pue1 ∧ (resultOf a4 (execPcopy a1 a2 a3 a4)).fab = a4.fab ∧ (resultOf a4 (execPcopy a1 a2 a3 a4)).mss = a4.mss ∧ (resultOf a4 (execPcopy a1 a2 a3 a4)).routineIds = a4.routineIds ∧ (resultOf a4 (execPcopy a1 a2 a3 a4)).pending = a4.pending := by
  simp [execPcopy]
theorem execPcopy_completes (a1) (a2) (a3) (a4 : State) : (execPcopy a1 a2 a3 a4) = .next (resultOf a4 (execPcopy a1 a2 a3 a4)) := by
  unfold execPcopy
  try dsimp only
  repeat' split
  all_goals rfl
theorem execWait_frame (a1) (a2) (a3) (a4 : State) : (resultOf a4 (execWait a1 a2 a3 a4)).ident = a4.ident ∧ (resultOf a4 (execWait a1 a2 a3 a4)).nv = a4.nv ∧ (resultOf a4 (execWait a1 a2 a3 a4)).top = a4.top ∧ (resultOf a4 (execWait a1 a2 a3 a4)).cle = a4.cle ∧ (resultOf a4 (execWait a1 a2 a3 a4)).pue0 = a4.pue0 ∧ (resultOf a4 (execWait a1 a2 a3 a4)).pue1 = a4.pue1 ∧ (resultOf a4 (execWait a1 a2 a3 a4)).fab = a4.fab ∧ (resultOf a4 (execWait a1 a2 a3 a4)).mss = a4.mss ∧ (resultOf a4 (execWait a1 a2 a3 a4)).routineIds = a4.routineIds ∧ (resultOf a4 (execWait a1 a2 a3 a4)).pending = a4.pending := by
  simp [execWait]
theorem execWait_completes (a1) (a2) (a3) (a4 : State) : (execWait a1 a2 a3 a4) = .next (resultOf a4 (execWait a1 a2 a3 a4)) := by
  unfold execWait
  try dsimp only
  repeat' split
  all_goals rfl
theorem execWaitComplete_frame (a1) (a2 : State) : (resultOf a2 (execWaitComplete a1 a2)).ident = a2.ident ∧ (resultOf a2 (execWaitComplete a1 a2)).nv = a2.nv ∧ (resultOf a2 (execWaitComplete a1 a2)).top = a2.top ∧ (resultOf a2 (execWaitComplete a1 a2)).err = a2.err ∧ (resultOf a2 (execWaitComplete a1 a2)).mem = a2.mem ∧ (resultOf a2 (execWaitComplete a1 a2)).cle = a2.cle ∧ (resultOf a2 (execWaitComplete a1 a2)).pue0 = a2.pue0 ∧ (resultOf a2 (execWaitComplete a1 a2)).pue1 = a2.pue1 ∧ (resultOf a2 (execWaitComplete a1 a2)).cke = a2.cke ∧ (resultOf a2 (execWaitComplete a1 a2)).pwr = a2.pwr ∧ (resultOf a2 (execWaitComplete a1 a2)).fab = a2.fab ∧ (resultOf a2 (execWaitComplete a1 a2)).mss = a2.mss ∧ (resultOf a2 (execWaitComplete a1 a2)).fresh = a2.fresh ∧ (resultOf a2 (execWaitComplete a1 a2)).routineIds = a2.routineIds ∧ (resultOf a2 (execWaitComplete a1 a2)).pending = a2.pending := by
  simp only [execWaitComplete]
  repeat' split
  all_goals simp
theorem execWaitComplete_completes (a1) (a2 : State) : (execWaitComplete a1 a2) = .next (resultOf a2 (execWaitComplete a1 a2)) := by
  unfold execWaitComplete
  try dsimp only
  repeat' split
  all_goals rfl
theorem execSignal_frame (a1) (a2) (a3) (a4 : State) : (resultOf a4 (execSignal a1 a2 a3 a4)).ident = a4.ident ∧ (resultOf a4 (execSignal a1 a2 a3 a4)).nv = a4.nv ∧ (resultOf a4 (execSignal a1 a2 a3 a4)).top = a4.top ∧ (resultOf a4 (execSignal a1 a2 a3 a4)).cle = a4.cle ∧ (resultOf a4 (execSignal a1 a2 a3 a4)).pue0 = a4.pue0 ∧ (resultOf a4 (execSignal a1 a2 a3 a4)).pue1 = a4.pue1 ∧ (resultOf a4 (execSignal a1 a2 a3 a4)).fab = a4.fab ∧ (resultOf a4 (execSignal a1 a2 a3 a4)).mss = a4.mss ∧ (resultOf a4 (execSignal a1 a2 a3 a4)).routineIds = a4.routineIds ∧ (resultOf a4 (execSignal a1 a2 a3 a4)).pending = a4.pending := by
  simp [execSignal]
theorem execSignal_completes (a1) (a2) (a3) (a4 : State) : (execSignal a1 a2 a3 a4) = .next (resultOf a4 (execSignal a1 a2 a3 a4)) := by
  unfold execSignal
  try dsimp only
  repeat' split
  all_goals rfl
theorem execFence_frame (a1) (a2) (a3) (a4 : State) : (resultOf a4 (execFence a1 a2 a3 a4)).ident = a4.ident ∧ (resultOf a4 (execFence a1 a2 a3 a4)).nv = a4.nv ∧ (resultOf a4 (execFence a1 a2 a3 a4)).top = a4.top ∧ (resultOf a4 (execFence a1 a2 a3 a4)).cle = a4.cle ∧ (resultOf a4 (execFence a1 a2 a3 a4)).pue0 = a4.pue0 ∧ (resultOf a4 (execFence a1 a2 a3 a4)).pue1 = a4.pue1 ∧ (resultOf a4 (execFence a1 a2 a3 a4)).fab = a4.fab ∧ (resultOf a4 (execFence a1 a2 a3 a4)).mss = a4.mss ∧ (resultOf a4 (execFence a1 a2 a3 a4)).routineIds = a4.routineIds ∧ (resultOf a4 (execFence a1 a2 a3 a4)).pending = a4.pending := by
  simp [execFence]
theorem execFence_completes (a1) (a2) (a3) (a4 : State) : (execFence a1 a2 a3 a4) = .next (resultOf a4 (execFence a1 a2 a3 a4)) := by
  unfold execFence
  try dsimp only
  repeat' split
  all_goals rfl
theorem execRecBegin_frame (a1) (a2) (a3) (a4 : State) : (resultOf a4 (execRecBegin a1 a2 a3 a4)).ident = a4.ident ∧ (resultOf a4 (execRecBegin a1 a2 a3 a4)).nv = a4.nv ∧ (resultOf a4 (execRecBegin a1 a2 a3 a4)).top = a4.top ∧ (resultOf a4 (execRecBegin a1 a2 a3 a4)).cle = a4.cle ∧ (resultOf a4 (execRecBegin a1 a2 a3 a4)).pue0 = a4.pue0 ∧ (resultOf a4 (execRecBegin a1 a2 a3 a4)).pue1 = a4.pue1 ∧ (resultOf a4 (execRecBegin a1 a2 a3 a4)).fab = a4.fab ∧ (resultOf a4 (execRecBegin a1 a2 a3 a4)).mss = a4.mss ∧ (resultOf a4 (execRecBegin a1 a2 a3 a4)).routineIds = a4.routineIds ∧ (resultOf a4 (execRecBegin a1 a2 a3 a4)).pending = a4.pending := by
  simp [execRecBegin]
theorem execRecBegin_completes (a1) (a2) (a3) (a4 : State) : (execRecBegin a1 a2 a3 a4) = .next (resultOf a4 (execRecBegin a1 a2 a3 a4)) := by
  unfold execRecBegin
  try dsimp only
  repeat' split
  all_goals rfl
theorem execRecEnd_frame (a1) (a2) (a3) (a4 : State) : (resultOf a4 (execRecEnd a1 a2 a3 a4)).ident = a4.ident ∧ (resultOf a4 (execRecEnd a1 a2 a3 a4)).nv = a4.nv ∧ (resultOf a4 (execRecEnd a1 a2 a3 a4)).top = a4.top ∧ (resultOf a4 (execRecEnd a1 a2 a3 a4)).cle = a4.cle ∧ (resultOf a4 (execRecEnd a1 a2 a3 a4)).pue0 = a4.pue0 ∧ (resultOf a4 (execRecEnd a1 a2 a3 a4)).pue1 = a4.pue1 ∧ (resultOf a4 (execRecEnd a1 a2 a3 a4)).fab = a4.fab ∧ (resultOf a4 (execRecEnd a1 a2 a3 a4)).mss = a4.mss ∧ (resultOf a4 (execRecEnd a1 a2 a3 a4)).routineIds = a4.routineIds ∧ (resultOf a4 (execRecEnd a1 a2 a3 a4)).pending = a4.pending := by
  simp [execRecEnd]
theorem execRecEnd_completes (a1) (a2) (a3) (a4 : State) : (execRecEnd a1 a2 a3 a4) = .next (resultOf a4 (execRecEnd a1 a2 a3 a4)) := by
  unfold execRecEnd
  try dsimp only
  repeat' split
  all_goals rfl
theorem execReplay_frame (a1) (a2) (a3) (a4 : State) : (resultOf a4 (execReplay a1 a2 a3 a4)).ident = a4.ident ∧ (resultOf a4 (execReplay a1 a2 a3 a4)).nv = a4.nv ∧ (resultOf a4 (execReplay a1 a2 a3 a4)).top = a4.top ∧ (resultOf a4 (execReplay a1 a2 a3 a4)).cle = a4.cle ∧ (resultOf a4 (execReplay a1 a2 a3 a4)).pue0 = a4.pue0 ∧ (resultOf a4 (execReplay a1 a2 a3 a4)).pue1 = a4.pue1 ∧ (resultOf a4 (execReplay a1 a2 a3 a4)).fab = a4.fab ∧ (resultOf a4 (execReplay a1 a2 a3 a4)).mss = a4.mss ∧ (resultOf a4 (execReplay a1 a2 a3 a4)).routineIds = a4.routineIds ∧ (resultOf a4 (execReplay a1 a2 a3 a4)).pending = a4.pending := by
  simp [execReplay]
theorem execReplay_completes (a1) (a2) (a3) (a4 : State) : (execReplay a1 a2 a3 a4) = .next (resultOf a4 (execReplay a1 a2 a3 a4)) := by
  unfold execReplay
  try dsimp only
  repeat' split
  all_goals rfl
theorem execReplayPass_frame (a1) (a2 : State) : (resultOf a2 (execReplayPass a1 a2)).ident = a2.ident ∧ (resultOf a2 (execReplayPass a1 a2)).nv = a2.nv ∧ (resultOf a2 (execReplayPass a1 a2)).top = a2.top ∧ (resultOf a2 (execReplayPass a1 a2)).hub = a2.hub ∧ (resultOf a2 (execReplayPass a1 a2)).err = a2.err ∧ (resultOf a2 (execReplayPass a1 a2)).mem = a2.mem ∧ (resultOf a2 (execReplayPass a1 a2)).cle = a2.cle ∧ (resultOf a2 (execReplayPass a1 a2)).pue0 = a2.pue0 ∧ (resultOf a2 (execReplayPass a1 a2)).pue1 = a2.pue1 ∧ (resultOf a2 (execReplayPass a1 a2)).cke = a2.cke ∧ (resultOf a2 (execReplayPass a1 a2)).pwr = a2.pwr ∧ (resultOf a2 (execReplayPass a1 a2)).fab = a2.fab ∧ (resultOf a2 (execReplayPass a1 a2)).pmu = a2.pmu ∧ (resultOf a2 (execReplayPass a1 a2)).mss = a2.mss ∧ (resultOf a2 (execReplayPass a1 a2)).sent = a2.sent ∧ (resultOf a2 (execReplayPass a1 a2)).fresh = a2.fresh ∧ (resultOf a2 (execReplayPass a1 a2)).routineIds = a2.routineIds ∧ (resultOf a2 (execReplayPass a1 a2)).pending = a2.pending := by
  simp only [execReplayPass]
  repeat' split
  all_goals simp
theorem execReplayPass_completes (a1) (a2 : State) : (execReplayPass a1 a2) = .next (resultOf a2 (execReplayPass a1 a2)) := by
  unfold execReplayPass
  try dsimp only
  repeat' split
  all_goals rfl
theorem execPatch_frame (a1) (a2) (a3) (a4 : State) : (resultOf a4 (execPatch a1 a2 a3 a4)).ident = a4.ident ∧ (resultOf a4 (execPatch a1 a2 a3 a4)).nv = a4.nv ∧ (resultOf a4 (execPatch a1 a2 a3 a4)).top = a4.top ∧ (resultOf a4 (execPatch a1 a2 a3 a4)).cle = a4.cle ∧ (resultOf a4 (execPatch a1 a2 a3 a4)).pue0 = a4.pue0 ∧ (resultOf a4 (execPatch a1 a2 a3 a4)).pue1 = a4.pue1 ∧ (resultOf a4 (execPatch a1 a2 a3 a4)).fab = a4.fab ∧ (resultOf a4 (execPatch a1 a2 a3 a4)).mss = a4.mss ∧ (resultOf a4 (execPatch a1 a2 a3 a4)).routineIds = a4.routineIds ∧ (resultOf a4 (execPatch a1 a2 a3 a4)).pending = a4.pending := by
  simp [execPatch]
theorem execPatch_completes (a1) (a2) (a3) (a4 : State) : (execPatch a1 a2 a3 a4) = .next (resultOf a4 (execPatch a1 a2 a3 a4)) := by
  unfold execPatch
  try dsimp only
  repeat' split
  all_goals rfl
theorem execEndList_frame (a1) (a2) (a3) (a4 : State) : (resultOf a4 (execEndList a1 a2 a3 a4)).ident = a4.ident ∧ (resultOf a4 (execEndList a1 a2 a3 a4)).nv = a4.nv ∧ (resultOf a4 (execEndList a1 a2 a3 a4)).top = a4.top ∧ (resultOf a4 (execEndList a1 a2 a3 a4)).cle = a4.cle ∧ (resultOf a4 (execEndList a1 a2 a3 a4)).pue0 = a4.pue0 ∧ (resultOf a4 (execEndList a1 a2 a3 a4)).pue1 = a4.pue1 ∧ (resultOf a4 (execEndList a1 a2 a3 a4)).fab = a4.fab ∧ (resultOf a4 (execEndList a1 a2 a3 a4)).mss = a4.mss ∧ (resultOf a4 (execEndList a1 a2 a3 a4)).routineIds = a4.routineIds ∧ (resultOf a4 (execEndList a1 a2 a3 a4)).pending = a4.pending := by
  simp [execEndList]
theorem execEndList_completes (a1) (a2) (a3) (a4 : State) : (execEndList a1 a2 a3 a4) = .next (resultOf a4 (execEndList a1 a2 a3 a4)) := by
  unfold execEndList
  try dsimp only
  repeat' split
  all_goals rfl
theorem execQueueDeadlock_frame (a1) (a2 : State) : (resultOf a2 (execQueueDeadlock a1 a2)).ident = a2.ident ∧ (resultOf a2 (execQueueDeadlock a1 a2)).nv = a2.nv ∧ (resultOf a2 (execQueueDeadlock a1 a2)).top = a2.top ∧ (resultOf a2 (execQueueDeadlock a1 a2)).mem = a2.mem ∧ (resultOf a2 (execQueueDeadlock a1 a2)).cle = a2.cle ∧ (resultOf a2 (execQueueDeadlock a1 a2)).pue0 = a2.pue0 ∧ (resultOf a2 (execQueueDeadlock a1 a2)).pue1 = a2.pue1 ∧ (resultOf a2 (execQueueDeadlock a1 a2)).cke = a2.cke ∧ (resultOf a2 (execQueueDeadlock a1 a2)).pwr = a2.pwr ∧ (resultOf a2 (execQueueDeadlock a1 a2)).fab = a2.fab ∧ (resultOf a2 (execQueueDeadlock a1 a2)).mss = a2.mss ∧ (resultOf a2 (execQueueDeadlock a1 a2)).fresh = a2.fresh ∧ (resultOf a2 (execQueueDeadlock a1 a2)).routineIds = a2.routineIds ∧ (resultOf a2 (execQueueDeadlock a1 a2)).pending = a2.pending := by
  simp only [execQueueDeadlock]
  repeat' split
  all_goals simp
theorem execQueueDeadlock_completes (a1) (a2 : State) : (execQueueDeadlock a1 a2) = .next (resultOf a2 (execQueueDeadlock a1 a2)) := by
  unfold execQueueDeadlock
  try dsimp only
  repeat' split
  all_goals rfl
theorem execCall_frame (a1) (a2) (a3) (a4 : State) : (resultOf a4 (execCall a1 a2 a3 a4)).ident = a4.ident ∧ (resultOf a4 (execCall a1 a2 a3 a4)).nv = a4.nv ∧ (resultOf a4 (execCall a1 a2 a3 a4)).top = a4.top ∧ (resultOf a4 (execCall a1 a2 a3 a4)).cle = a4.cle ∧ (resultOf a4 (execCall a1 a2 a3 a4)).pue0 = a4.pue0 ∧ (resultOf a4 (execCall a1 a2 a3 a4)).pue1 = a4.pue1 ∧ (resultOf a4 (execCall a1 a2 a3 a4)).fab = a4.fab ∧ (resultOf a4 (execCall a1 a2 a3 a4)).mss = a4.mss ∧ (resultOf a4 (execCall a1 a2 a3 a4)).routineIds = a4.routineIds ∧ (resultOf a4 (execCall a1 a2 a3 a4)).pending = a4.pending := by
  simp [execCall]
theorem execCall_completes (a1) (a2) (a3) (a4 : State) : (execCall a1 a2 a3 a4) = .next (resultOf a4 (execCall a1 a2 a3 a4)) := by
  unfold execCall
  try dsimp only
  repeat' split
  all_goals rfl
theorem execSoftmax_frame (a1) (a2 : State) : (resultOf a2 (execSoftmax a1 a2)).ident = a2.ident ∧ (resultOf a2 (execSoftmax a1 a2)).nv = a2.nv ∧ (resultOf a2 (execSoftmax a1 a2)).top = a2.top ∧ (resultOf a2 (execSoftmax a1 a2)).hub = a2.hub ∧ (resultOf a2 (execSoftmax a1 a2)).err = a2.err ∧ (resultOf a2 (execSoftmax a1 a2)).mem = a2.mem ∧ (resultOf a2 (execSoftmax a1 a2)).cle = a2.cle ∧ (resultOf a2 (execSoftmax a1 a2)).pue0 = a2.pue0 ∧ (resultOf a2 (execSoftmax a1 a2)).pue1 = a2.pue1 ∧ (resultOf a2 (execSoftmax a1 a2)).pwr = a2.pwr ∧ (resultOf a2 (execSoftmax a1 a2)).fab = a2.fab ∧ (resultOf a2 (execSoftmax a1 a2)).pmu = a2.pmu ∧ (resultOf a2 (execSoftmax a1 a2)).mss = a2.mss ∧ (resultOf a2 (execSoftmax a1 a2)).sent = a2.sent ∧ (resultOf a2 (execSoftmax a1 a2)).routineIds = a2.routineIds ∧ (resultOf a2 (execSoftmax a1 a2)).pending = a2.pending := by
  simp [execSoftmax]
theorem execSoftmax_completes (a1) (a2 : State) : (execSoftmax a1 a2) = .next (resultOf a2 (execSoftmax a1 a2)) := by
  unfold execSoftmax
  try dsimp only
  repeat' split
  all_goals rfl
theorem execLayernorm_frame (a1) (a2 : State) : (resultOf a2 (execLayernorm a1 a2)).ident = a2.ident ∧ (resultOf a2 (execLayernorm a1 a2)).nv = a2.nv ∧ (resultOf a2 (execLayernorm a1 a2)).top = a2.top ∧ (resultOf a2 (execLayernorm a1 a2)).hub = a2.hub ∧ (resultOf a2 (execLayernorm a1 a2)).err = a2.err ∧ (resultOf a2 (execLayernorm a1 a2)).mem = a2.mem ∧ (resultOf a2 (execLayernorm a1 a2)).cle = a2.cle ∧ (resultOf a2 (execLayernorm a1 a2)).pue0 = a2.pue0 ∧ (resultOf a2 (execLayernorm a1 a2)).pue1 = a2.pue1 ∧ (resultOf a2 (execLayernorm a1 a2)).pwr = a2.pwr ∧ (resultOf a2 (execLayernorm a1 a2)).fab = a2.fab ∧ (resultOf a2 (execLayernorm a1 a2)).pmu = a2.pmu ∧ (resultOf a2 (execLayernorm a1 a2)).mss = a2.mss ∧ (resultOf a2 (execLayernorm a1 a2)).sent = a2.sent ∧ (resultOf a2 (execLayernorm a1 a2)).routineIds = a2.routineIds ∧ (resultOf a2 (execLayernorm a1 a2)).pending = a2.pending := by
  simp [execLayernorm]
theorem execLayernorm_completes (a1) (a2 : State) : (execLayernorm a1 a2) = .next (resultOf a2 (execLayernorm a1 a2)) := by
  unfold execLayernorm
  try dsimp only
  repeat' split
  all_goals rfl
theorem execRmsnorm_frame (a1) (a2 : State) : (resultOf a2 (execRmsnorm a1 a2)).ident = a2.ident ∧ (resultOf a2 (execRmsnorm a1 a2)).nv = a2.nv ∧ (resultOf a2 (execRmsnorm a1 a2)).top = a2.top ∧ (resultOf a2 (execRmsnorm a1 a2)).hub = a2.hub ∧ (resultOf a2 (execRmsnorm a1 a2)).err = a2.err ∧ (resultOf a2 (execRmsnorm a1 a2)).mem = a2.mem ∧ (resultOf a2 (execRmsnorm a1 a2)).cle = a2.cle ∧ (resultOf a2 (execRmsnorm a1 a2)).pue0 = a2.pue0 ∧ (resultOf a2 (execRmsnorm a1 a2)).pue1 = a2.pue1 ∧ (resultOf a2 (execRmsnorm a1 a2)).pwr = a2.pwr ∧ (resultOf a2 (execRmsnorm a1 a2)).fab = a2.fab ∧ (resultOf a2 (execRmsnorm a1 a2)).pmu = a2.pmu ∧ (resultOf a2 (execRmsnorm a1 a2)).mss = a2.mss ∧ (resultOf a2 (execRmsnorm a1 a2)).sent = a2.sent ∧ (resultOf a2 (execRmsnorm a1 a2)).routineIds = a2.routineIds ∧ (resultOf a2 (execRmsnorm a1 a2)).pending = a2.pending := by
  simp [execRmsnorm]
theorem execRmsnorm_completes (a1) (a2 : State) : (execRmsnorm a1 a2) = .next (resultOf a2 (execRmsnorm a1 a2)) := by
  unfold execRmsnorm
  try dsimp only
  repeat' split
  all_goals rfl
theorem execLinscan_frame (a1) (a2 : State) : (resultOf a2 (execLinscan a1 a2)).ident = a2.ident ∧ (resultOf a2 (execLinscan a1 a2)).nv = a2.nv ∧ (resultOf a2 (execLinscan a1 a2)).top = a2.top ∧ (resultOf a2 (execLinscan a1 a2)).hub = a2.hub ∧ (resultOf a2 (execLinscan a1 a2)).err = a2.err ∧ (resultOf a2 (execLinscan a1 a2)).mem = a2.mem ∧ (resultOf a2 (execLinscan a1 a2)).cle = a2.cle ∧ (resultOf a2 (execLinscan a1 a2)).pue0 = a2.pue0 ∧ (resultOf a2 (execLinscan a1 a2)).pue1 = a2.pue1 ∧ (resultOf a2 (execLinscan a1 a2)).pwr = a2.pwr ∧ (resultOf a2 (execLinscan a1 a2)).fab = a2.fab ∧ (resultOf a2 (execLinscan a1 a2)).pmu = a2.pmu ∧ (resultOf a2 (execLinscan a1 a2)).mss = a2.mss ∧ (resultOf a2 (execLinscan a1 a2)).sent = a2.sent ∧ (resultOf a2 (execLinscan a1 a2)).routineIds = a2.routineIds ∧ (resultOf a2 (execLinscan a1 a2)).pending = a2.pending := by
  simp [execLinscan]
theorem execLinscan_completes (a1) (a2 : State) : (execLinscan a1 a2) = .next (resultOf a2 (execLinscan a1 a2)) := by
  unfold execLinscan
  try dsimp only
  repeat' split
  all_goals rfl
theorem execTopk_frame (a1) (a2 : State) : (resultOf a2 (execTopk a1 a2)).ident = a2.ident ∧ (resultOf a2 (execTopk a1 a2)).nv = a2.nv ∧ (resultOf a2 (execTopk a1 a2)).top = a2.top ∧ (resultOf a2 (execTopk a1 a2)).hub = a2.hub ∧ (resultOf a2 (execTopk a1 a2)).err = a2.err ∧ (resultOf a2 (execTopk a1 a2)).mem = a2.mem ∧ (resultOf a2 (execTopk a1 a2)).cle = a2.cle ∧ (resultOf a2 (execTopk a1 a2)).pue0 = a2.pue0 ∧ (resultOf a2 (execTopk a1 a2)).pue1 = a2.pue1 ∧ (resultOf a2 (execTopk a1 a2)).pwr = a2.pwr ∧ (resultOf a2 (execTopk a1 a2)).fab = a2.fab ∧ (resultOf a2 (execTopk a1 a2)).pmu = a2.pmu ∧ (resultOf a2 (execTopk a1 a2)).mss = a2.mss ∧ (resultOf a2 (execTopk a1 a2)).sent = a2.sent ∧ (resultOf a2 (execTopk a1 a2)).routineIds = a2.routineIds ∧ (resultOf a2 (execTopk a1 a2)).pending = a2.pending := by
  simp [execTopk]
theorem execTopk_completes (a1) (a2 : State) : (execTopk a1 a2) = .next (resultOf a2 (execTopk a1 a2)) := by
  unfold execTopk
  try dsimp only
  repeat' split
  all_goals rfl
theorem execSample_frame (a1) (a2 : State) : (resultOf a2 (execSample a1 a2)).ident = a2.ident ∧ (resultOf a2 (execSample a1 a2)).nv = a2.nv ∧ (resultOf a2 (execSample a1 a2)).top = a2.top ∧ (resultOf a2 (execSample a1 a2)).hub = a2.hub ∧ (resultOf a2 (execSample a1 a2)).err = a2.err ∧ (resultOf a2 (execSample a1 a2)).mem = a2.mem ∧ (resultOf a2 (execSample a1 a2)).cle = a2.cle ∧ (resultOf a2 (execSample a1 a2)).pue0 = a2.pue0 ∧ (resultOf a2 (execSample a1 a2)).pue1 = a2.pue1 ∧ (resultOf a2 (execSample a1 a2)).pwr = a2.pwr ∧ (resultOf a2 (execSample a1 a2)).fab = a2.fab ∧ (resultOf a2 (execSample a1 a2)).pmu = a2.pmu ∧ (resultOf a2 (execSample a1 a2)).mss = a2.mss ∧ (resultOf a2 (execSample a1 a2)).sent = a2.sent ∧ (resultOf a2 (execSample a1 a2)).routineIds = a2.routineIds ∧ (resultOf a2 (execSample a1 a2)).pending = a2.pending := by
  simp [execSample]
theorem execSample_completes (a1) (a2 : State) : (execSample a1 a2) = .next (resultOf a2 (execSample a1 a2)) := by
  unfold execSample
  try dsimp only
  repeat' split
  all_goals rfl
theorem execXent_frame (a1) (a2 : State) : (resultOf a2 (execXent a1 a2)).ident = a2.ident ∧ (resultOf a2 (execXent a1 a2)).nv = a2.nv ∧ (resultOf a2 (execXent a1 a2)).top = a2.top ∧ (resultOf a2 (execXent a1 a2)).hub = a2.hub ∧ (resultOf a2 (execXent a1 a2)).err = a2.err ∧ (resultOf a2 (execXent a1 a2)).mem = a2.mem ∧ (resultOf a2 (execXent a1 a2)).cle = a2.cle ∧ (resultOf a2 (execXent a1 a2)).pue0 = a2.pue0 ∧ (resultOf a2 (execXent a1 a2)).pue1 = a2.pue1 ∧ (resultOf a2 (execXent a1 a2)).pwr = a2.pwr ∧ (resultOf a2 (execXent a1 a2)).fab = a2.fab ∧ (resultOf a2 (execXent a1 a2)).pmu = a2.pmu ∧ (resultOf a2 (execXent a1 a2)).mss = a2.mss ∧ (resultOf a2 (execXent a1 a2)).sent = a2.sent ∧ (resultOf a2 (execXent a1 a2)).routineIds = a2.routineIds ∧ (resultOf a2 (execXent a1 a2)).pending = a2.pending := by
  simp [execXent]
theorem execXent_completes (a1) (a2 : State) : (execXent a1 a2) = .next (resultOf a2 (execXent a1 a2)) := by
  unfold execXent
  try dsimp only
  repeat' split
  all_goals rfl
theorem execConv1d_frame (a1) (a2 : State) : (resultOf a2 (execConv1d a1 a2)).ident = a2.ident ∧ (resultOf a2 (execConv1d a1 a2)).nv = a2.nv ∧ (resultOf a2 (execConv1d a1 a2)).top = a2.top ∧ (resultOf a2 (execConv1d a1 a2)).hub = a2.hub ∧ (resultOf a2 (execConv1d a1 a2)).err = a2.err ∧ (resultOf a2 (execConv1d a1 a2)).mem = a2.mem ∧ (resultOf a2 (execConv1d a1 a2)).cle = a2.cle ∧ (resultOf a2 (execConv1d a1 a2)).pue0 = a2.pue0 ∧ (resultOf a2 (execConv1d a1 a2)).pue1 = a2.pue1 ∧ (resultOf a2 (execConv1d a1 a2)).pwr = a2.pwr ∧ (resultOf a2 (execConv1d a1 a2)).fab = a2.fab ∧ (resultOf a2 (execConv1d a1 a2)).pmu = a2.pmu ∧ (resultOf a2 (execConv1d a1 a2)).mss = a2.mss ∧ (resultOf a2 (execConv1d a1 a2)).sent = a2.sent ∧ (resultOf a2 (execConv1d a1 a2)).routineIds = a2.routineIds ∧ (resultOf a2 (execConv1d a1 a2)).pending = a2.pending := by
  simp [execConv1d]
theorem execConv1d_completes (a1) (a2 : State) : (execConv1d a1 a2) = .next (resultOf a2 (execConv1d a1 a2)) := by
  unfold execConv1d
  try dsimp only
  repeat' split
  all_goals rfl
theorem execTmvCopy_frame (a1) (a2) (a3) (a4 : State) : (resultOf a4 (execTmvCopy a1 a2 a3 a4)).ident = a4.ident ∧ (resultOf a4 (execTmvCopy a1 a2 a3 a4)).nv = a4.nv ∧ (resultOf a4 (execTmvCopy a1 a2 a3 a4)).top = a4.top ∧ (resultOf a4 (execTmvCopy a1 a2 a3 a4)).cle = a4.cle ∧ (resultOf a4 (execTmvCopy a1 a2 a3 a4)).pue0 = a4.pue0 ∧ (resultOf a4 (execTmvCopy a1 a2 a3 a4)).pue1 = a4.pue1 ∧ (resultOf a4 (execTmvCopy a1 a2 a3 a4)).fab = a4.fab ∧ (resultOf a4 (execTmvCopy a1 a2 a3 a4)).mss = a4.mss ∧ (resultOf a4 (execTmvCopy a1 a2 a3 a4)).routineIds = a4.routineIds ∧ (resultOf a4 (execTmvCopy a1 a2 a3 a4)).pending = a4.pending := by
  simp [execTmvCopy]
theorem execTmvCopy_completes (a1) (a2) (a3) (a4 : State) : (execTmvCopy a1 a2 a3 a4) = .next (resultOf a4 (execTmvCopy a1 a2 a3 a4)) := by
  unfold execTmvCopy
  try dsimp only
  repeat' split
  all_goals rfl
theorem execTmvGather_frame (a1) (a2) (a3) (a4 : State) : (resultOf a4 (execTmvGather a1 a2 a3 a4)).ident = a4.ident ∧ (resultOf a4 (execTmvGather a1 a2 a3 a4)).nv = a4.nv ∧ (resultOf a4 (execTmvGather a1 a2 a3 a4)).top = a4.top ∧ (resultOf a4 (execTmvGather a1 a2 a3 a4)).cle = a4.cle ∧ (resultOf a4 (execTmvGather a1 a2 a3 a4)).pue0 = a4.pue0 ∧ (resultOf a4 (execTmvGather a1 a2 a3 a4)).pue1 = a4.pue1 ∧ (resultOf a4 (execTmvGather a1 a2 a3 a4)).fab = a4.fab ∧ (resultOf a4 (execTmvGather a1 a2 a3 a4)).mss = a4.mss ∧ (resultOf a4 (execTmvGather a1 a2 a3 a4)).routineIds = a4.routineIds ∧ (resultOf a4 (execTmvGather a1 a2 a3 a4)).pending = a4.pending := by
  simp [execTmvGather]
theorem execTmvGather_completes (a1) (a2) (a3) (a4 : State) : (execTmvGather a1 a2 a3 a4) = .next (resultOf a4 (execTmvGather a1 a2 a3 a4)) := by
  unfold execTmvGather
  try dsimp only
  repeat' split
  all_goals rfl
theorem execTmvScatter_frame (a1) (a2) (a3) (a4 : State) : (resultOf a4 (execTmvScatter a1 a2 a3 a4)).ident = a4.ident ∧ (resultOf a4 (execTmvScatter a1 a2 a3 a4)).nv = a4.nv ∧ (resultOf a4 (execTmvScatter a1 a2 a3 a4)).top = a4.top ∧ (resultOf a4 (execTmvScatter a1 a2 a3 a4)).cle = a4.cle ∧ (resultOf a4 (execTmvScatter a1 a2 a3 a4)).pue0 = a4.pue0 ∧ (resultOf a4 (execTmvScatter a1 a2 a3 a4)).pue1 = a4.pue1 ∧ (resultOf a4 (execTmvScatter a1 a2 a3 a4)).fab = a4.fab ∧ (resultOf a4 (execTmvScatter a1 a2 a3 a4)).mss = a4.mss ∧ (resultOf a4 (execTmvScatter a1 a2 a3 a4)).routineIds = a4.routineIds ∧ (resultOf a4 (execTmvScatter a1 a2 a3 a4)).pending = a4.pending := by
  simp [execTmvScatter]
theorem execTmvScatter_completes (a1) (a2) (a3) (a4 : State) : (execTmvScatter a1 a2 a3 a4) = .next (resultOf a4 (execTmvScatter a1 a2 a3 a4)) := by
  unfold execTmvScatter
  try dsimp only
  repeat' split
  all_goals rfl
theorem execTmvRemote_frame (a1) (a2) (a3) (a4 : State) : (resultOf a4 (execTmvRemote a1 a2 a3 a4)).ident = a4.ident ∧ (resultOf a4 (execTmvRemote a1 a2 a3 a4)).nv = a4.nv ∧ (resultOf a4 (execTmvRemote a1 a2 a3 a4)).top = a4.top ∧ (resultOf a4 (execTmvRemote a1 a2 a3 a4)).cle = a4.cle ∧ (resultOf a4 (execTmvRemote a1 a2 a3 a4)).pue0 = a4.pue0 ∧ (resultOf a4 (execTmvRemote a1 a2 a3 a4)).pue1 = a4.pue1 ∧ (resultOf a4 (execTmvRemote a1 a2 a3 a4)).fab = a4.fab ∧ (resultOf a4 (execTmvRemote a1 a2 a3 a4)).mss = a4.mss ∧ (resultOf a4 (execTmvRemote a1 a2 a3 a4)).routineIds = a4.routineIds ∧ (resultOf a4 (execTmvRemote a1 a2 a3 a4)).pending = a4.pending := by
  simp [execTmvRemote]
theorem execTmvRemote_completes (a1) (a2) (a3) (a4 : State) : (execTmvRemote a1 a2 a3 a4) = .next (resultOf a4 (execTmvRemote a1 a2 a3 a4)) := by
  unfold execTmvRemote
  try dsimp only
  repeat' split
  all_goals rfl
theorem execTmvCheckPhase_frame (a1) (a2) (a3 : State) : (resultOf a3 (execTmvCheckPhase a1 a2 a3)).ident = a3.ident ∧ (resultOf a3 (execTmvCheckPhase a1 a2 a3)).nv = a3.nv ∧ (resultOf a3 (execTmvCheckPhase a1 a2 a3)).top = a3.top ∧ (resultOf a3 (execTmvCheckPhase a1 a2 a3)).cle = a3.cle ∧ (resultOf a3 (execTmvCheckPhase a1 a2 a3)).pue0 = a3.pue0 ∧ (resultOf a3 (execTmvCheckPhase a1 a2 a3)).pue1 = a3.pue1 ∧ (resultOf a3 (execTmvCheckPhase a1 a2 a3)).fab = a3.fab ∧ (resultOf a3 (execTmvCheckPhase a1 a2 a3)).mss = a3.mss ∧ (resultOf a3 (execTmvCheckPhase a1 a2 a3)).routineIds = a3.routineIds ∧ (resultOf a3 (execTmvCheckPhase a1 a2 a3)).pending = a3.pending := by
  simp only [execTmvCheckPhase]
  repeat' split
  all_goals simp
theorem execTmvCheckPhase_completes (a1) (a2) (a3 : State) : (execTmvCheckPhase a1 a2 a3) = .next (resultOf a3 (execTmvCheckPhase a1 a2 a3)) := by
  unfold execTmvCheckPhase
  try dsimp only
  repeat' split
  all_goals rfl
theorem execTmvAccessPhase_frame (a1) (a2) (a3) (a4) (a5 : State) : (resultOf a5 (execTmvAccessPhase a1 a2 a3 a4 a5)).ident = a5.ident ∧ (resultOf a5 (execTmvAccessPhase a1 a2 a3 a4 a5)).nv = a5.nv ∧ (resultOf a5 (execTmvAccessPhase a1 a2 a3 a4 a5)).top = a5.top ∧ (resultOf a5 (execTmvAccessPhase a1 a2 a3 a4 a5)).cle = a5.cle ∧ (resultOf a5 (execTmvAccessPhase a1 a2 a3 a4 a5)).pue0 = a5.pue0 ∧ (resultOf a5 (execTmvAccessPhase a1 a2 a3 a4 a5)).pue1 = a5.pue1 ∧ (resultOf a5 (execTmvAccessPhase a1 a2 a3 a4 a5)).mss = a5.mss ∧ (resultOf a5 (execTmvAccessPhase a1 a2 a3 a4 a5)).routineIds = a5.routineIds ∧ (resultOf a5 (execTmvAccessPhase a1 a2 a3 a4 a5)).pending = a5.pending := by
  simp only [execTmvAccessPhase]
  repeat' split
  all_goals simp
theorem execTmvAccessPhase_completes (a1) (a2) (a3) (a4) (a5 : State) : (execTmvAccessPhase a1 a2 a3 a4 a5) = .next (resultOf a5 (execTmvAccessPhase a1 a2 a3 a4 a5)) := by
  unfold execTmvAccessPhase
  try dsimp only
  repeat' split
  all_goals rfl
theorem execRsignal_frame (a1) (a2) (a3) (a4 : State) : (resultOf a4 (execRsignal a1 a2 a3 a4)).ident = a4.ident ∧ (resultOf a4 (execRsignal a1 a2 a3 a4)).nv = a4.nv ∧ (resultOf a4 (execRsignal a1 a2 a3 a4)).top = a4.top ∧ (resultOf a4 (execRsignal a1 a2 a3 a4)).cle = a4.cle ∧ (resultOf a4 (execRsignal a1 a2 a3 a4)).pue0 = a4.pue0 ∧ (resultOf a4 (execRsignal a1 a2 a3 a4)).pue1 = a4.pue1 ∧ (resultOf a4 (execRsignal a1 a2 a3 a4)).fab = a4.fab ∧ (resultOf a4 (execRsignal a1 a2 a3 a4)).mss = a4.mss ∧ (resultOf a4 (execRsignal a1 a2 a3 a4)).routineIds = a4.routineIds ∧ (resultOf a4 (execRsignal a1 a2 a3 a4)).pending = a4.pending := by
  simp [execRsignal]
theorem execRsignal_completes (a1) (a2) (a3) (a4 : State) : (execRsignal a1 a2 a3 a4) = .next (resultOf a4 (execRsignal a1 a2 a3 a4)) := by
  unfold execRsignal
  try dsimp only
  repeat' split
  all_goals rfl
theorem execSignalRelease_frame (a1) (a2 : State) : (resultOf a2 (execSignalRelease a1 a2)).ident = a2.ident ∧ (resultOf a2 (execSignalRelease a1 a2)).nv = a2.nv ∧ (resultOf a2 (execSignalRelease a1 a2)).top = a2.top ∧ (resultOf a2 (execSignalRelease a1 a2)).mem = a2.mem ∧ (resultOf a2 (execSignalRelease a1 a2)).cle = a2.cle ∧ (resultOf a2 (execSignalRelease a1 a2)).pue0 = a2.pue0 ∧ (resultOf a2 (execSignalRelease a1 a2)).pue1 = a2.pue1 ∧ (resultOf a2 (execSignalRelease a1 a2)).cke = a2.cke ∧ (resultOf a2 (execSignalRelease a1 a2)).pwr = a2.pwr ∧ (resultOf a2 (execSignalRelease a1 a2)).mss = a2.mss ∧ (resultOf a2 (execSignalRelease a1 a2)).fresh = a2.fresh ∧ (resultOf a2 (execSignalRelease a1 a2)).routineIds = a2.routineIds ∧ (resultOf a2 (execSignalRelease a1 a2)).pending = a2.pending := by
  simp only [execSignalRelease]
  repeat' split
  all_goals simp
theorem execSignalRelease_completes (a1) (a2 : State) : (execSignalRelease a1 a2) = .next (resultOf a2 (execSignalRelease a1 a2)) := by
  unfold execSignalRelease
  try dsimp only
  repeat' split
  all_goals rfl
theorem execExchStart_frame (a1) (a2 : State) : (resultOf a2 (execExchStart a1 a2)).ident = a2.ident ∧ (resultOf a2 (execExchStart a1 a2)).nv = a2.nv ∧ (resultOf a2 (execExchStart a1 a2)).top = a2.top ∧ (resultOf a2 (execExchStart a1 a2)).pue0 = a2.pue0 ∧ (resultOf a2 (execExchStart a1 a2)).pue1 = a2.pue1 ∧ (resultOf a2 (execExchStart a1 a2)).fab = a2.fab ∧ (resultOf a2 (execExchStart a1 a2)).mss = a2.mss ∧ (resultOf a2 (execExchStart a1 a2)).routineIds = a2.routineIds ∧ (resultOf a2 (execExchStart a1 a2)).pending = a2.pending := by
  simp only [execExchStart]
  repeat' split
  all_goals simp
theorem execExchStart_completes (a1) (a2 : State) : (execExchStart a1 a2) = .next (resultOf a2 (execExchStart a1 a2)) := by
  unfold execExchStart
  try dsimp only
  repeat' split
  all_goals rfl
theorem execCleBucket_frame (a1) (a2) (a3 : State) : (resultOf a3 (execCleBucket a1 a2 a3)).ident = a3.ident ∧ (resultOf a3 (execCleBucket a1 a2 a3)).nv = a3.nv ∧ (resultOf a3 (execCleBucket a1 a2 a3)).top = a3.top ∧ (resultOf a3 (execCleBucket a1 a2 a3)).pue0 = a3.pue0 ∧ (resultOf a3 (execCleBucket a1 a2 a3)).pue1 = a3.pue1 ∧ (resultOf a3 (execCleBucket a1 a2 a3)).mss = a3.mss ∧ (resultOf a3 (execCleBucket a1 a2 a3)).routineIds = a3.routineIds ∧ (resultOf a3 (execCleBucket a1 a2 a3)).pending = a3.pending := by
  unfold execCleBucket
  try dsimp only
  (repeat' split) <;> first | rfl | (simp_all; done) | (have hh := State.takeInbox_frame ‹State.takeInbox _ _ = _›; simp_all; done) | (have hh := State.takeInbox_frame ‹State.takeInbox _ _ = _›; simp [hh]; done) | (have hh := State.takeForward_frame ‹State.takeForward _ = _›; simp_all; done) | (have hh := State.takeForward_frame ‹State.takeForward _ = _›; simp [hh]; done) | (have hh := State.takeType_frame ‹State.takeType _ _ = _›; simp_all; done) | (have hh := State.takeType_frame ‹State.takeType _ _ = _›; simp [hh]; done) | (have hh := State.takeReq_frame ‹State.takeReq _ _ = _›; simp_all; done) | (have hh := State.takeReq_frame ‹State.takeReq _ _ = _›; simp [hh]; done) | (have hh := startHub_frame ‹startHub _ _ _ = _›; simp_all; done) | (have hh := startHub_frame ‹startHub _ _ _ = _›; simp [hh]; done)
theorem execCleBucket_completes (a1) (a2) (a3 : State) : (execCleBucket a1 a2 a3) = .next (resultOf a3 (execCleBucket a1 a2 a3)) := by
  unfold execCleBucket
  try dsimp only
  repeat' split
  all_goals rfl
theorem execPart_frame (a1 : State) : (resultOf a1 (execPart a1)).ident = a1.ident ∧ (resultOf a1 (execPart a1)).nv = a1.nv ∧ (resultOf a1 (execPart a1)).top = a1.top ∧ (resultOf a1 (execPart a1)).cores = a1.cores ∧ (resultOf a1 (execPart a1)).pue0 = a1.pue0 ∧ (resultOf a1 (execPart a1)).pue1 = a1.pue1 ∧ (resultOf a1 (execPart a1)).mss = a1.mss ∧ (resultOf a1 (execPart a1)).routineIds = a1.routineIds ∧ (resultOf a1 (execPart a1)).pending = a1.pending := by
  simp [execPart]
theorem execPart_completes (a1 : State) : (execPart a1) = .next (resultOf a1 (execPart a1)) := by
  unfold execPart
  try dsimp only
  repeat' split
  all_goals rfl
theorem execClose_frame (a1 : State) : (resultOf a1 (execClose a1)).ident = a1.ident ∧ (resultOf a1 (execClose a1)).nv = a1.nv ∧ (resultOf a1 (execClose a1)).top = a1.top ∧ (resultOf a1 (execClose a1)).cores = a1.cores ∧ (resultOf a1 (execClose a1)).pue0 = a1.pue0 ∧ (resultOf a1 (execClose a1)).pue1 = a1.pue1 ∧ (resultOf a1 (execClose a1)).mss = a1.mss ∧ (resultOf a1 (execClose a1)).routineIds = a1.routineIds ∧ (resultOf a1 (execClose a1)).pending = a1.pending := by
  simp [execClose]
theorem execClose_completes (a1 : State) : (execClose a1) = .next (resultOf a1 (execClose a1)) := by
  unfold execClose
  try dsimp only
  repeat' split
  all_goals rfl
theorem execAck_frame (a1 : State) : (resultOf a1 (execAck a1)).ident = a1.ident ∧ (resultOf a1 (execAck a1)).nv = a1.nv ∧ (resultOf a1 (execAck a1)).top = a1.top ∧ (resultOf a1 (execAck a1)).cores = a1.cores ∧ (resultOf a1 (execAck a1)).hub = a1.hub ∧ (resultOf a1 (execAck a1)).err = a1.err ∧ (resultOf a1 (execAck a1)).mem = a1.mem ∧ (resultOf a1 (execAck a1)).pue0 = a1.pue0 ∧ (resultOf a1 (execAck a1)).pue1 = a1.pue1 ∧ (resultOf a1 (execAck a1)).cke = a1.cke ∧ (resultOf a1 (execAck a1)).pwr = a1.pwr ∧ (resultOf a1 (execAck a1)).pmu = a1.pmu ∧ (resultOf a1 (execAck a1)).mss = a1.mss ∧ (resultOf a1 (execAck a1)).fresh = a1.fresh ∧ (resultOf a1 (execAck a1)).routineIds = a1.routineIds ∧ (resultOf a1 (execAck a1)).pending = a1.pending := by
  unfold execAck
  try dsimp only
  (repeat' split) <;> first | rfl | (simp_all; done) | (have hh := State.takeInbox_frame ‹State.takeInbox _ _ = _›; simp_all; done) | (have hh := State.takeInbox_frame ‹State.takeInbox _ _ = _›; simp [hh]; done) | (have hh := State.takeForward_frame ‹State.takeForward _ = _›; simp_all; done) | (have hh := State.takeForward_frame ‹State.takeForward _ = _›; simp [hh]; done) | (have hh := State.takeType_frame ‹State.takeType _ _ = _›; simp_all; done) | (have hh := State.takeType_frame ‹State.takeType _ _ = _›; simp [hh]; done) | (have hh := State.takeReq_frame ‹State.takeReq _ _ = _›; simp_all; done) | (have hh := State.takeReq_frame ‹State.takeReq _ _ = _›; simp [hh]; done) | (have hh := startHub_frame ‹startHub _ _ _ = _›; simp_all; done) | (have hh := startHub_frame ‹startHub _ _ _ = _›; simp [hh]; done) | (have hh := State.takeStream_frame ‹State.takeStream _ _ _ = _›; simp_all; done) | (have hh := State.takeStream_frame ‹State.takeStream _ _ _ = _›; simp [hh]; done)
theorem execAck_completes (a1 : State) : (execAck a1) = .next (resultOf a1 (execAck a1)) := by
  unfold execAck
  try dsimp only
  repeat' split
  all_goals rfl
theorem execRetry_frame (a1 : State) : (resultOf a1 (execRetry a1)).ident = a1.ident ∧ (resultOf a1 (execRetry a1)).nv = a1.nv ∧ (resultOf a1 (execRetry a1)).top = a1.top ∧ (resultOf a1 (execRetry a1)).cores = a1.cores ∧ (resultOf a1 (execRetry a1)).pue0 = a1.pue0 ∧ (resultOf a1 (execRetry a1)).pue1 = a1.pue1 ∧ (resultOf a1 (execRetry a1)).mss = a1.mss ∧ (resultOf a1 (execRetry a1)).routineIds = a1.routineIds ∧ (resultOf a1 (execRetry a1)).pending = a1.pending := by
  unfold execRetry
  try dsimp only
  (repeat' split) <;> first | rfl | (simp_all; done) | (have hh := State.takeInbox_frame ‹State.takeInbox _ _ = _›; simp_all; done) | (have hh := State.takeInbox_frame ‹State.takeInbox _ _ = _›; simp [hh]; done) | (have hh := State.takeForward_frame ‹State.takeForward _ = _›; simp_all; done) | (have hh := State.takeForward_frame ‹State.takeForward _ = _›; simp [hh]; done) | (have hh := State.takeType_frame ‹State.takeType _ _ = _›; simp_all; done) | (have hh := State.takeType_frame ‹State.takeType _ _ = _›; simp [hh]; done) | (have hh := State.takeReq_frame ‹State.takeReq _ _ = _›; simp_all; done) | (have hh := State.takeReq_frame ‹State.takeReq _ _ = _›; simp [hh]; done) | (have hh := startHub_frame ‹startHub _ _ _ = _›; simp_all; done) | (have hh := startHub_frame ‹startHub _ _ _ = _›; simp [hh]; done) | (have hh := State.takeStream_frame ‹State.takeStream _ _ _ = _›; simp_all; done) | (have hh := State.takeStream_frame ‹State.takeStream _ _ _ = _›; simp [hh]; done)
theorem execRetry_completes (a1 : State) : (execRetry a1) = .next (resultOf a1 (execRetry a1)) := by
  unfold execRetry
  try dsimp only
  repeat' split
  all_goals rfl
theorem execFinal_frame (a1 : State) : (resultOf a1 (execFinal a1)).ident = a1.ident ∧ (resultOf a1 (execFinal a1)).nv = a1.nv ∧ (resultOf a1 (execFinal a1)).top = a1.top ∧ (resultOf a1 (execFinal a1)).cores = a1.cores ∧ (resultOf a1 (execFinal a1)).pue0 = a1.pue0 ∧ (resultOf a1 (execFinal a1)).pue1 = a1.pue1 ∧ (resultOf a1 (execFinal a1)).mss = a1.mss ∧ (resultOf a1 (execFinal a1)).routineIds = a1.routineIds ∧ (resultOf a1 (execFinal a1)).pending = a1.pending := by
  simp [execFinal]
theorem execFinal_completes (a1 : State) : (execFinal a1) = .next (resultOf a1 (execFinal a1)) := by
  unfold execFinal
  try dsimp only
  repeat' split
  all_goals rfl
theorem execFinalClose_frame (a1 : State) : (resultOf a1 (execFinalClose a1)).ident = a1.ident ∧ (resultOf a1 (execFinalClose a1)).nv = a1.nv ∧ (resultOf a1 (execFinalClose a1)).top = a1.top ∧ (resultOf a1 (execFinalClose a1)).cores = a1.cores ∧ (resultOf a1 (execFinalClose a1)).pue0 = a1.pue0 ∧ (resultOf a1 (execFinalClose a1)).pue1 = a1.pue1 ∧ (resultOf a1 (execFinalClose a1)).mss = a1.mss ∧ (resultOf a1 (execFinalClose a1)).routineIds = a1.routineIds ∧ (resultOf a1 (execFinalClose a1)).pending = a1.pending := by
  simp [execFinalClose]
theorem execFinalClose_completes (a1 : State) : (execFinalClose a1) = .next (resultOf a1 (execFinalClose a1)) := by
  unfold execFinalClose
  try dsimp only
  repeat' split
  all_goals rfl
theorem execGather_frame (a1 : State) : (resultOf a1 (execGather a1)).ident = a1.ident ∧ (resultOf a1 (execGather a1)).nv = a1.nv ∧ (resultOf a1 (execGather a1)).top = a1.top ∧ (resultOf a1 (execGather a1)).cores = a1.cores ∧ (resultOf a1 (execGather a1)).pue0 = a1.pue0 ∧ (resultOf a1 (execGather a1)).pue1 = a1.pue1 ∧ (resultOf a1 (execGather a1)).cke = a1.cke ∧ (resultOf a1 (execGather a1)).mss = a1.mss ∧ (resultOf a1 (execGather a1)).routineIds = a1.routineIds ∧ (resultOf a1 (execGather a1)).pending = a1.pending := by
  simp [execGather]
theorem execGather_completes (a1 : State) : (execGather a1) = .next (resultOf a1 (execGather a1)) := by
  unfold execGather
  try dsimp only
  repeat' split
  all_goals rfl
theorem execGatherFc_frame (a1 : State) : (resultOf a1 (execGatherFc a1)).ident = a1.ident ∧ (resultOf a1 (execGatherFc a1)).nv = a1.nv ∧ (resultOf a1 (execGatherFc a1)).top = a1.top ∧ (resultOf a1 (execGatherFc a1)).cores = a1.cores ∧ (resultOf a1 (execGatherFc a1)).pue0 = a1.pue0 ∧ (resultOf a1 (execGatherFc a1)).pue1 = a1.pue1 ∧ (resultOf a1 (execGatherFc a1)).cke = a1.cke ∧ (resultOf a1 (execGatherFc a1)).mss = a1.mss ∧ (resultOf a1 (execGatherFc a1)).routineIds = a1.routineIds ∧ (resultOf a1 (execGatherFc a1)).pending = a1.pending := by
  simp [execGatherFc]
theorem execGatherFc_completes (a1 : State) : (execGatherFc a1) = .next (resultOf a1 (execGatherFc a1)) := by
  unfold execGatherFc
  try dsimp only
  repeat' split
  all_goals rfl
theorem execGatherClose_frame (a1 : State) : (resultOf a1 (execGatherClose a1)).ident = a1.ident ∧ (resultOf a1 (execGatherClose a1)).nv = a1.nv ∧ (resultOf a1 (execGatherClose a1)).top = a1.top ∧ (resultOf a1 (execGatherClose a1)).cores = a1.cores ∧ (resultOf a1 (execGatherClose a1)).pue0 = a1.pue0 ∧ (resultOf a1 (execGatherClose a1)).pue1 = a1.pue1 ∧ (resultOf a1 (execGatherClose a1)).mss = a1.mss ∧ (resultOf a1 (execGatherClose a1)).routineIds = a1.routineIds ∧ (resultOf a1 (execGatherClose a1)).pending = a1.pending := by
  simp [execGatherClose]
theorem execGatherClose_completes (a1 : State) : (execGatherClose a1) = .next (resultOf a1 (execGatherClose a1)) := by
  unfold execGatherClose
  try dsimp only
  repeat' split
  all_goals rfl
theorem execHopWaitExpiry_frame (a1) (a2) (a3 : State) : (resultOf a3 (execHopWaitExpiry a1 a2 a3)).ident = a3.ident ∧ (resultOf a3 (execHopWaitExpiry a1 a2 a3)).nv = a3.nv ∧ (resultOf a3 (execHopWaitExpiry a1 a2 a3)).top = a3.top ∧ (resultOf a3 (execHopWaitExpiry a1 a2 a3)).cores = a3.cores ∧ (resultOf a3 (execHopWaitExpiry a1 a2 a3)).hub = a3.hub ∧ (resultOf a3 (execHopWaitExpiry a1 a2 a3)).err = a3.err ∧ (resultOf a3 (execHopWaitExpiry a1 a2 a3)).mem = a3.mem ∧ (resultOf a3 (execHopWaitExpiry a1 a2 a3)).pue0 = a3.pue0 ∧ (resultOf a3 (execHopWaitExpiry a1 a2 a3)).pue1 = a3.pue1 ∧ (resultOf a3 (execHopWaitExpiry a1 a2 a3)).cke = a3.cke ∧ (resultOf a3 (execHopWaitExpiry a1 a2 a3)).pwr = a3.pwr ∧ (resultOf a3 (execHopWaitExpiry a1 a2 a3)).fab = a3.fab ∧ (resultOf a3 (execHopWaitExpiry a1 a2 a3)).pmu = a3.pmu ∧ (resultOf a3 (execHopWaitExpiry a1 a2 a3)).mss = a3.mss ∧ (resultOf a3 (execHopWaitExpiry a1 a2 a3)).sent = a3.sent ∧ (resultOf a3 (execHopWaitExpiry a1 a2 a3)).fresh = a3.fresh ∧ (resultOf a3 (execHopWaitExpiry a1 a2 a3)).routineIds = a3.routineIds ∧ (resultOf a3 (execHopWaitExpiry a1 a2 a3)).pending = a3.pending := by
  simp only [execHopWaitExpiry]
  repeat' split
  all_goals simp
theorem execHopWaitExpiry_completes (a1) (a2) (a3 : State) : (execHopWaitExpiry a1 a2 a3) = .next (resultOf a3 (execHopWaitExpiry a1 a2 a3)) := by
  unfold execHopWaitExpiry
  try dsimp only
  repeat' split
  all_goals rfl
theorem execCleHopSkip_frame (a1) (a2) (a3) (a4 : State) : (resultOf a4 (execCleHopSkip a1 a2 a3 a4)).ident = a4.ident ∧ (resultOf a4 (execCleHopSkip a1 a2 a3 a4)).nv = a4.nv ∧ (resultOf a4 (execCleHopSkip a1 a2 a3 a4)).top = a4.top ∧ (resultOf a4 (execCleHopSkip a1 a2 a3 a4)).cores = a4.cores ∧ (resultOf a4 (execCleHopSkip a1 a2 a3 a4)).mem = a4.mem ∧ (resultOf a4 (execCleHopSkip a1 a2 a3 a4)).pue0 = a4.pue0 ∧ (resultOf a4 (execCleHopSkip a1 a2 a3 a4)).pue1 = a4.pue1 ∧ (resultOf a4 (execCleHopSkip a1 a2 a3 a4)).cke = a4.cke ∧ (resultOf a4 (execCleHopSkip a1 a2 a3 a4)).pwr = a4.pwr ∧ (resultOf a4 (execCleHopSkip a1 a2 a3 a4)).mss = a4.mss ∧ (resultOf a4 (execCleHopSkip a1 a2 a3 a4)).fresh = a4.fresh ∧ (resultOf a4 (execCleHopSkip a1 a2 a3 a4)).routineIds = a4.routineIds ∧ (resultOf a4 (execCleHopSkip a1 a2 a3 a4)).pending = a4.pending := by
  simp only [execCleHopSkip]
  repeat' split
  all_goals simp
theorem execCleHopSkip_completes (a1) (a2) (a3) (a4 : State) : (execCleHopSkip a1 a2 a3 a4) = .next (resultOf a4 (execCleHopSkip a1 a2 a3 a4)) := by
  unfold execCleHopSkip
  try dsimp only
  repeat' split
  all_goals rfl
theorem execCleDeadline_frame (a1) (a2) (a3 : State) : (resultOf a3 (execCleDeadline a1 a2 a3)).ident = a3.ident ∧ (resultOf a3 (execCleDeadline a1 a2 a3)).nv = a3.nv ∧ (resultOf a3 (execCleDeadline a1 a2 a3)).top = a3.top ∧ (resultOf a3 (execCleDeadline a1 a2 a3)).cores = a3.cores ∧ (resultOf a3 (execCleDeadline a1 a2 a3)).pue0 = a3.pue0 ∧ (resultOf a3 (execCleDeadline a1 a2 a3)).pue1 = a3.pue1 ∧ (resultOf a3 (execCleDeadline a1 a2 a3)).mss = a3.mss ∧ (resultOf a3 (execCleDeadline a1 a2 a3)).routineIds = a3.routineIds ∧ (resultOf a3 (execCleDeadline a1 a2 a3)).pending = a3.pending := by
  simp only [execCleDeadline]
  repeat' split
  all_goals simp
theorem execCleDeadline_completes (a1) (a2) (a3 : State) : (execCleDeadline a1 a2 a3) = .next (resultOf a3 (execCleDeadline a1 a2 a3)) := by
  unfold execCleDeadline
  try dsimp only
  repeat' split
  all_goals rfl
theorem execCleSmallreduce_frame (a1) (a2) (a3 : State) : (resultOf a3 (execCleSmallreduce a1 a2 a3)).ident = a3.ident ∧ (resultOf a3 (execCleSmallreduce a1 a2 a3)).nv = a3.nv ∧ (resultOf a3 (execCleSmallreduce a1 a2 a3)).top = a3.top ∧ (resultOf a3 (execCleSmallreduce a1 a2 a3)).pue0 = a3.pue0 ∧ (resultOf a3 (execCleSmallreduce a1 a2 a3)).pue1 = a3.pue1 ∧ (resultOf a3 (execCleSmallreduce a1 a2 a3)).mss = a3.mss ∧ (resultOf a3 (execCleSmallreduce a1 a2 a3)).routineIds = a3.routineIds ∧ (resultOf a3 (execCleSmallreduce a1 a2 a3)).pending = a3.pending := by
  unfold execCleSmallreduce
  try dsimp only
  (repeat' split) <;> first | rfl | (simp_all; done) | (have hh := State.takeInbox_frame ‹State.takeInbox _ _ = _›; simp_all; done) | (have hh := State.takeInbox_frame ‹State.takeInbox _ _ = _›; simp [hh]; done) | (have hh := State.takeForward_frame ‹State.takeForward _ = _›; simp_all; done) | (have hh := State.takeForward_frame ‹State.takeForward _ = _›; simp [hh]; done) | (have hh := State.takeType_frame ‹State.takeType _ _ = _›; simp_all; done) | (have hh := State.takeType_frame ‹State.takeType _ _ = _›; simp [hh]; done) | (have hh := State.takeReq_frame ‹State.takeReq _ _ = _›; simp_all; done) | (have hh := State.takeReq_frame ‹State.takeReq _ _ = _›; simp [hh]; done) | (have hh := startHub_frame ‹startHub _ _ _ = _›; simp_all; done) | (have hh := startHub_frame ‹startHub _ _ _ = _›; simp [hh]; done) | (have hh := State.takeStream_frame ‹State.takeStream _ _ _ = _›; simp_all; done) | (have hh := State.takeStream_frame ‹State.takeStream _ _ _ = _›; simp [hh]; done)
theorem execCleSmallreduce_completes (a1) (a2) (a3 : State) : (execCleSmallreduce a1 a2 a3) = .next (resultOf a3 (execCleSmallreduce a1 a2 a3)) := by
  unfold execCleSmallreduce
  try dsimp only
  repeat' split
  all_goals rfl
theorem execSr_frame (a1) (a2 : State) : (resultOf a2 (execSr a1 a2)).ident = a2.ident ∧ (resultOf a2 (execSr a1 a2)).nv = a2.nv ∧ (resultOf a2 (execSr a1 a2)).top = a2.top ∧ (resultOf a2 (execSr a1 a2)).mem = a2.mem ∧ (resultOf a2 (execSr a1 a2)).pue0 = a2.pue0 ∧ (resultOf a2 (execSr a1 a2)).pue1 = a2.pue1 ∧ (resultOf a2 (execSr a1 a2)).cke = a2.cke ∧ (resultOf a2 (execSr a1 a2)).pwr = a2.pwr ∧ (resultOf a2 (execSr a1 a2)).mss = a2.mss ∧ (resultOf a2 (execSr a1 a2)).routineIds = a2.routineIds ∧ (resultOf a2 (execSr a1 a2)).pending = a2.pending := by
  unfold execSr
  try dsimp only
  (repeat' split) <;> first | rfl | (simp_all; done) | (have hh := State.takeInbox_frame ‹State.takeInbox _ _ = _›; simp_all; done) | (have hh := State.takeInbox_frame ‹State.takeInbox _ _ = _›; simp [hh]; done) | (have hh := State.takeForward_frame ‹State.takeForward _ = _›; simp_all; done) | (have hh := State.takeForward_frame ‹State.takeForward _ = _›; simp [hh]; done) | (have hh := State.takeType_frame ‹State.takeType _ _ = _›; simp_all; done) | (have hh := State.takeType_frame ‹State.takeType _ _ = _›; simp [hh]; done) | (have hh := State.takeReq_frame ‹State.takeReq _ _ = _›; simp_all; done) | (have hh := State.takeReq_frame ‹State.takeReq _ _ = _›; simp [hh]; done) | (have hh := startHub_frame ‹startHub _ _ _ = _›; simp_all; done) | (have hh := startHub_frame ‹startHub _ _ _ = _›; simp [hh]; done) | (have hh := State.takeStream_frame ‹State.takeStream _ _ _ = _›; simp_all; done) | (have hh := State.takeStream_frame ‹State.takeStream _ _ _ = _›; simp [hh]; done)
theorem execSr_completes (a1) (a2 : State) : (execSr a1 a2) = .next (resultOf a2 (execSr a1 a2)) := by
  unfold execSr
  try dsimp only
  repeat' split
  all_goals rfl
theorem execCleSrTimeout_frame (a1) (a2 : State) : (resultOf a2 (execCleSrTimeout a1 a2)).ident = a2.ident ∧ (resultOf a2 (execCleSrTimeout a1 a2)).nv = a2.nv ∧ (resultOf a2 (execCleSrTimeout a1 a2)).top = a2.top ∧ (resultOf a2 (execCleSrTimeout a1 a2)).mem = a2.mem ∧ (resultOf a2 (execCleSrTimeout a1 a2)).pue0 = a2.pue0 ∧ (resultOf a2 (execCleSrTimeout a1 a2)).pue1 = a2.pue1 ∧ (resultOf a2 (execCleSrTimeout a1 a2)).cke = a2.cke ∧ (resultOf a2 (execCleSrTimeout a1 a2)).pwr = a2.pwr ∧ (resultOf a2 (execCleSrTimeout a1 a2)).fab = a2.fab ∧ (resultOf a2 (execCleSrTimeout a1 a2)).mss = a2.mss ∧ (resultOf a2 (execCleSrTimeout a1 a2)).routineIds = a2.routineIds ∧ (resultOf a2 (execCleSrTimeout a1 a2)).pending = a2.pending := by
  simp only [execCleSrTimeout]
  repeat' split
  all_goals simp
theorem execCleSrTimeout_completes (a1) (a2 : State) : (execCleSrTimeout a1 a2) = .next (resultOf a2 (execCleSrTimeout a1 a2)) := by
  unfold execCleSrTimeout
  try dsimp only
  repeat' split
  all_goals rfl
theorem execUpdate_frame (a1) (a2) (a3 : State) : (resultOf a3 (execUpdate a1 a2 a3)).ident = a3.ident ∧ (resultOf a3 (execUpdate a1 a2 a3)).nv = a3.nv ∧ (resultOf a3 (execUpdate a1 a2 a3)).top = a3.top ∧ (resultOf a3 (execUpdate a1 a2 a3)).cle = a3.cle ∧ (resultOf a3 (execUpdate a1 a2 a3)).fab = a3.fab ∧ (resultOf a3 (execUpdate a1 a2 a3)).mss = a3.mss ∧ (resultOf a3 (execUpdate a1 a2 a3)).routineIds = a3.routineIds ∧ (resultOf a3 (execUpdate a1 a2 a3)).pending = a3.pending := by
  simp only [execUpdate]
  repeat' split
  all_goals simp
theorem execUpdate_completes (a1) (a2) (a3 : State) : (execUpdate a1 a2 a3) = .next (resultOf a3 (execUpdate a1 a2 a3)) := by
  unfold execUpdate
  try dsimp only
  repeat' split
  all_goals rfl
theorem execShardFinalsReady_frame (a1) (a2) (a3 : State) : (resultOf a3 (execShardFinalsReady a1 a2 a3)).ident = a3.ident ∧ (resultOf a3 (execShardFinalsReady a1 a2 a3)).nv = a3.nv ∧ (resultOf a3 (execShardFinalsReady a1 a2 a3)).top = a3.top ∧ (resultOf a3 (execShardFinalsReady a1 a2 a3)).cle = a3.cle ∧ (resultOf a3 (execShardFinalsReady a1 a2 a3)).fab = a3.fab ∧ (resultOf a3 (execShardFinalsReady a1 a2 a3)).mss = a3.mss ∧ (resultOf a3 (execShardFinalsReady a1 a2 a3)).routineIds = a3.routineIds ∧ (resultOf a3 (execShardFinalsReady a1 a2 a3)).pending = a3.pending := by
  simp only [execShardFinalsReady]
  repeat' split
  all_goals simp
theorem execShardFinalsReady_completes (a1) (a2) (a3 : State) : (execShardFinalsReady a1 a2 a3) = .next (resultOf a3 (execShardFinalsReady a1 a2 a3)) := by
  unfold execShardFinalsReady
  try dsimp only
  repeat' split
  all_goals rfl
theorem execShardImageComplete_frame (a1) (a2) (a3 : State) : (resultOf a3 (execShardImageComplete a1 a2 a3)).ident = a3.ident ∧ (resultOf a3 (execShardImageComplete a1 a2 a3)).nv = a3.nv ∧ (resultOf a3 (execShardImageComplete a1 a2 a3)).top = a3.top ∧ (resultOf a3 (execShardImageComplete a1 a2 a3)).mss = a3.mss ∧ (resultOf a3 (execShardImageComplete a1 a2 a3)).routineIds = a3.routineIds ∧ (resultOf a3 (execShardImageComplete a1 a2 a3)).pending = a3.pending := by
  simp only [execShardImageComplete]
  repeat' split
  all_goals simp
theorem execShardImageComplete_completes (a1) (a2) (a3 : State) : (execShardImageComplete a1 a2 a3) = .next (resultOf a3 (execShardImageComplete a1 a2 a3)) := by
  unfold execShardImageComplete
  try dsimp only
  repeat' split
  all_goals rfl
theorem execPrecond_frame (a1) (a2) (a3 : State) : (resultOf a3 (execPrecond a1 a2 a3)).ident = a3.ident ∧ (resultOf a3 (execPrecond a1 a2 a3)).nv = a3.nv ∧ (resultOf a3 (execPrecond a1 a2 a3)).top = a3.top ∧ (resultOf a3 (execPrecond a1 a2 a3)).cle = a3.cle ∧ (resultOf a3 (execPrecond a1 a2 a3)).fab = a3.fab ∧ (resultOf a3 (execPrecond a1 a2 a3)).mss = a3.mss ∧ (resultOf a3 (execPrecond a1 a2 a3)).routineIds = a3.routineIds ∧ (resultOf a3 (execPrecond a1 a2 a3)).pending = a3.pending := by
  simp only [execPrecond]
  repeat' split
  all_goals simp
theorem execPrecond_completes (a1) (a2) (a3 : State) : (execPrecond a1 a2 a3) = .next (resultOf a3 (execPrecond a1 a2 a3)) := by
  unfold execPrecond
  try dsimp only
  repeat' split
  all_goals rfl
theorem execAllgather_frame (a1) (a2 : State) : (resultOf a2 (execAllgather a1 a2)).ident = a2.ident ∧ (resultOf a2 (execAllgather a1 a2)).nv = a2.nv ∧ (resultOf a2 (execAllgather a1 a2)).top = a2.top ∧ (resultOf a2 (execAllgather a1 a2)).pue0 = a2.pue0 ∧ (resultOf a2 (execAllgather a1 a2)).pue1 = a2.pue1 ∧ (resultOf a2 (execAllgather a1 a2)).mss = a2.mss ∧ (resultOf a2 (execAllgather a1 a2)).routineIds = a2.routineIds ∧ (resultOf a2 (execAllgather a1 a2)).pending = a2.pending := by
  simp only [execAllgather]
  repeat' split
  all_goals simp
theorem execAllgather_completes (a1) (a2 : State) : (execAllgather a1 a2) = .next (resultOf a2 (execAllgather a1 a2)) := by
  unfold execAllgather
  try dsimp only
  repeat' split
  all_goals rfl
theorem execSnapshot_frame (a1) (a2 : State) : (resultOf a2 (execSnapshot a1 a2)).ident = a2.ident ∧ (resultOf a2 (execSnapshot a1 a2)).nv = a2.nv ∧ (resultOf a2 (execSnapshot a1 a2)).top = a2.top ∧ (resultOf a2 (execSnapshot a1 a2)).cores = a2.cores ∧ (resultOf a2 (execSnapshot a1 a2)).mem = a2.mem ∧ (resultOf a2 (execSnapshot a1 a2)).cle = a2.cle ∧ (resultOf a2 (execSnapshot a1 a2)).pue0 = a2.pue0 ∧ (resultOf a2 (execSnapshot a1 a2)).pue1 = a2.pue1 ∧ (resultOf a2 (execSnapshot a1 a2)).cke = a2.cke ∧ (resultOf a2 (execSnapshot a1 a2)).pwr = a2.pwr ∧ (resultOf a2 (execSnapshot a1 a2)).fab = a2.fab ∧ (resultOf a2 (execSnapshot a1 a2)).mss = a2.mss ∧ (resultOf a2 (execSnapshot a1 a2)).fresh = a2.fresh ∧ (resultOf a2 (execSnapshot a1 a2)).routineIds = a2.routineIds ∧ (resultOf a2 (execSnapshot a1 a2)).pending = a2.pending := by
  simp only [execSnapshot]
  repeat' split
  all_goals simp
theorem execSnapshot_completes (a1) (a2 : State) : (execSnapshot a1 a2) = .next (resultOf a2 (execSnapshot a1 a2)) := by
  unfold execSnapshot
  try dsimp only
  repeat' split
  all_goals rfl
theorem execSnapshotDone_frame (a1 : State) : (resultOf a1 (execSnapshotDone a1)).ident = a1.ident ∧ (resultOf a1 (execSnapshotDone a1)).nv = a1.nv ∧ (resultOf a1 (execSnapshotDone a1)).top = a1.top ∧ (resultOf a1 (execSnapshotDone a1)).cores = a1.cores ∧ (resultOf a1 (execSnapshotDone a1)).cle = a1.cle ∧ (resultOf a1 (execSnapshotDone a1)).pue0 = a1.pue0 ∧ (resultOf a1 (execSnapshotDone a1)).pue1 = a1.pue1 ∧ (resultOf a1 (execSnapshotDone a1)).cke = a1.cke ∧ (resultOf a1 (execSnapshotDone a1)).fab = a1.fab ∧ (resultOf a1 (execSnapshotDone a1)).mss = a1.mss ∧ (resultOf a1 (execSnapshotDone a1)).routineIds = a1.routineIds ∧ (resultOf a1 (execSnapshotDone a1)).pending = a1.pending := by
  simp only [execSnapshotDone]
  repeat' split
  all_goals simp
theorem execSnapshotDone_completes (a1 : State) : (execSnapshotDone a1) = .next (resultOf a1 (execSnapshotDone a1)) := by
  unfold execSnapshotDone
  try dsimp only
  repeat' split
  all_goals rfl
theorem execFreeze_frame (a1) (a2 : State) : (resultOf a2 (execFreeze a1 a2)).ident = a2.ident ∧ (resultOf a2 (execFreeze a1 a2)).nv = a2.nv ∧ (resultOf a2 (execFreeze a1 a2)).top = a2.top ∧ (resultOf a2 (execFreeze a1 a2)).cores = a2.cores ∧ (resultOf a2 (execFreeze a1 a2)).hub = a2.hub ∧ (resultOf a2 (execFreeze a1 a2)).err = a2.err ∧ (resultOf a2 (execFreeze a1 a2)).mem = a2.mem ∧ (resultOf a2 (execFreeze a1 a2)).cle = a2.cle ∧ (resultOf a2 (execFreeze a1 a2)).pue0 = a2.pue0 ∧ (resultOf a2 (execFreeze a1 a2)).pue1 = a2.pue1 ∧ (resultOf a2 (execFreeze a1 a2)).cke = a2.cke ∧ (resultOf a2 (execFreeze a1 a2)).pwr = a2.pwr ∧ (resultOf a2 (execFreeze a1 a2)).fab = a2.fab ∧ (resultOf a2 (execFreeze a1 a2)).mss = a2.mss ∧ (resultOf a2 (execFreeze a1 a2)).sent = a2.sent ∧ (resultOf a2 (execFreeze a1 a2)).fresh = a2.fresh ∧ (resultOf a2 (execFreeze a1 a2)).routineIds = a2.routineIds ∧ (resultOf a2 (execFreeze a1 a2)).pending = a2.pending := by
  simp [execFreeze]
theorem execFreeze_completes (a1) (a2 : State) : (execFreeze a1 a2) = .next (resultOf a2 (execFreeze a1 a2)) := by
  unfold execFreeze
  try dsimp only
  repeat' split
  all_goals rfl
theorem execCounterCarry_frame (a1) (a2) (a3 : State) : (resultOf a3 (execCounterCarry a1 a2 a3)).ident = a3.ident ∧ (resultOf a3 (execCounterCarry a1 a2 a3)).nv = a3.nv ∧ (resultOf a3 (execCounterCarry a1 a2 a3)).top = a3.top ∧ (resultOf a3 (execCounterCarry a1 a2 a3)).err = a3.err ∧ (resultOf a3 (execCounterCarry a1 a2 a3)).mem = a3.mem ∧ (resultOf a3 (execCounterCarry a1 a2 a3)).cle = a3.cle ∧ (resultOf a3 (execCounterCarry a1 a2 a3)).pue0 = a3.pue0 ∧ (resultOf a3 (execCounterCarry a1 a2 a3)).pue1 = a3.pue1 ∧ (resultOf a3 (execCounterCarry a1 a2 a3)).cke = a3.cke ∧ (resultOf a3 (execCounterCarry a1 a2 a3)).pwr = a3.pwr ∧ (resultOf a3 (execCounterCarry a1 a2 a3)).fab = a3.fab ∧ (resultOf a3 (execCounterCarry a1 a2 a3)).mss = a3.mss ∧ (resultOf a3 (execCounterCarry a1 a2 a3)).fresh = a3.fresh ∧ (resultOf a3 (execCounterCarry a1 a2 a3)).routineIds = a3.routineIds ∧ (resultOf a3 (execCounterCarry a1 a2 a3)).pending = a3.pending := by
  simp only [execCounterCarry]
  repeat' split
  all_goals simp
theorem execCounterCarry_completes (a1) (a2) (a3 : State) : (execCounterCarry a1 a2 a3) = .next (resultOf a3 (execCounterCarry a1 a2 a3)) := by
  unfold execCounterCarry
  try dsimp only
  repeat' split
  all_goals rfl
theorem execSkidSample_frame (a1) (a2) (a3 : State) : (resultOf a3 (execSkidSample a1 a2 a3)).ident = a3.ident ∧ (resultOf a3 (execSkidSample a1 a2 a3)).nv = a3.nv ∧ (resultOf a3 (execSkidSample a1 a2 a3)).top = a3.top ∧ (resultOf a3 (execSkidSample a1 a2 a3)).cle = a3.cle ∧ (resultOf a3 (execSkidSample a1 a2 a3)).pue0 = a3.pue0 ∧ (resultOf a3 (execSkidSample a1 a2 a3)).pue1 = a3.pue1 ∧ (resultOf a3 (execSkidSample a1 a2 a3)).cke = a3.cke ∧ (resultOf a3 (execSkidSample a1 a2 a3)).fab = a3.fab ∧ (resultOf a3 (execSkidSample a1 a2 a3)).mss = a3.mss ∧ (resultOf a3 (execSkidSample a1 a2 a3)).routineIds = a3.routineIds ∧ (resultOf a3 (execSkidSample a1 a2 a3)).pending = a3.pending := by
  unfold execSkidSample
  try dsimp only
  (repeat' split) <;> first | rfl | (simp; done) | (have hh0 := State.takeSample_frame ‹State.takeSample _ _ _ = _›; simp [hh0]; done) | (have hh0 := State.takeSample_frame ‹State.takeSample _ _ _ = _›; simp_all; done)
theorem execSkidSample_completes (a1) (a2) (a3 : State) : (execSkidSample a1 a2 a3) = .next (resultOf a3 (execSkidSample a1 a2 a3)) := by
  unfold execSkidSample
  try dsimp only
  repeat' split
  all_goals rfl
theorem execPreciseSample_frame (a1) (a2) (a3 : State) : (resultOf a3 (execPreciseSample a1 a2 a3)).ident = a3.ident ∧ (resultOf a3 (execPreciseSample a1 a2 a3)).nv = a3.nv ∧ (resultOf a3 (execPreciseSample a1 a2 a3)).top = a3.top ∧ (resultOf a3 (execPreciseSample a1 a2 a3)).cle = a3.cle ∧ (resultOf a3 (execPreciseSample a1 a2 a3)).pue0 = a3.pue0 ∧ (resultOf a3 (execPreciseSample a1 a2 a3)).pue1 = a3.pue1 ∧ (resultOf a3 (execPreciseSample a1 a2 a3)).cke = a3.cke ∧ (resultOf a3 (execPreciseSample a1 a2 a3)).fab = a3.fab ∧ (resultOf a3 (execPreciseSample a1 a2 a3)).mss = a3.mss ∧ (resultOf a3 (execPreciseSample a1 a2 a3)).routineIds = a3.routineIds ∧ (resultOf a3 (execPreciseSample a1 a2 a3)).pending = a3.pending := by
  unfold execPreciseSample
  try dsimp only
  (repeat' split) <;> first | rfl | (simp; done) | (have hh0 := State.takeSample_frame ‹State.takeSample _ _ _ = _›; simp [hh0]; done) | (have hh0 := State.takeSample_frame ‹State.takeSample _ _ _ = _›; simp_all; done)
theorem execPreciseSample_completes (a1) (a2) (a3 : State) : (execPreciseSample a1 a2 a3) = .next (resultOf a3 (execPreciseSample a1 a2 a3)) := by
  unfold execPreciseSample
  try dsimp only
  repeat' split
  all_goals rfl
theorem execPmuSampleLost_frame (a1) (a2 : State) : (resultOf a2 (execPmuSampleLost a1 a2)).ident = a2.ident ∧ (resultOf a2 (execPmuSampleLost a1 a2)).nv = a2.nv ∧ (resultOf a2 (execPmuSampleLost a1 a2)).top = a2.top ∧ (resultOf a2 (execPmuSampleLost a1 a2)).mem = a2.mem ∧ (resultOf a2 (execPmuSampleLost a1 a2)).cle = a2.cle ∧ (resultOf a2 (execPmuSampleLost a1 a2)).pue0 = a2.pue0 ∧ (resultOf a2 (execPmuSampleLost a1 a2)).pue1 = a2.pue1 ∧ (resultOf a2 (execPmuSampleLost a1 a2)).cke = a2.cke ∧ (resultOf a2 (execPmuSampleLost a1 a2)).pwr = a2.pwr ∧ (resultOf a2 (execPmuSampleLost a1 a2)).fab = a2.fab ∧ (resultOf a2 (execPmuSampleLost a1 a2)).mss = a2.mss ∧ (resultOf a2 (execPmuSampleLost a1 a2)).fresh = a2.fresh ∧ (resultOf a2 (execPmuSampleLost a1 a2)).routineIds = a2.routineIds ∧ (resultOf a2 (execPmuSampleLost a1 a2)).pending = a2.pending := by
  simp only [execPmuSampleLost]
  repeat' split
  all_goals simp
theorem execPmuSampleLost_completes (a1) (a2 : State) : (execPmuSampleLost a1 a2) = .next (resultOf a2 (execPmuSampleLost a1 a2)) := by
  unfold execPmuSampleLost
  try dsimp only
  repeat' split
  all_goals rfl
theorem execReady_frame (a1 : State) : (resultOf a1 (execReady a1)).ident = a1.ident ∧ (resultOf a1 (execReady a1)).nv = a1.nv ∧ (resultOf a1 (execReady a1)).top = a1.top ∧ (resultOf a1 (execReady a1)).cores = a1.cores ∧ (resultOf a1 (execReady a1)).mem = a1.mem ∧ (resultOf a1 (execReady a1)).cle = a1.cle ∧ (resultOf a1 (execReady a1)).pue0 = a1.pue0 ∧ (resultOf a1 (execReady a1)).pue1 = a1.pue1 ∧ (resultOf a1 (execReady a1)).pwr = a1.pwr ∧ (resultOf a1 (execReady a1)).mss = a1.mss ∧ (resultOf a1 (execReady a1)).fresh = a1.fresh ∧ (resultOf a1 (execReady a1)).routineIds = a1.routineIds ∧ (resultOf a1 (execReady a1)).pending = a1.pending := by
  simp [execReady]
theorem execReady_completes (a1 : State) : (execReady a1) = .next (resultOf a1 (execReady a1)) := by
  unfold execReady
  try dsimp only
  repeat' split
  all_goals rfl
theorem execStageMissing_frame (a1 : State) : (resultOf a1 (execStageMissing a1)).ident = a1.ident ∧ (resultOf a1 (execStageMissing a1)).nv = a1.nv ∧ (resultOf a1 (execStageMissing a1)).top = a1.top ∧ (resultOf a1 (execStageMissing a1)).cores = a1.cores ∧ (resultOf a1 (execStageMissing a1)).hub = a1.hub ∧ (resultOf a1 (execStageMissing a1)).err = a1.err ∧ (resultOf a1 (execStageMissing a1)).mem = a1.mem ∧ (resultOf a1 (execStageMissing a1)).cle = a1.cle ∧ (resultOf a1 (execStageMissing a1)).pue0 = a1.pue0 ∧ (resultOf a1 (execStageMissing a1)).pue1 = a1.pue1 ∧ (resultOf a1 (execStageMissing a1)).pwr = a1.pwr ∧ (resultOf a1 (execStageMissing a1)).fab = a1.fab ∧ (resultOf a1 (execStageMissing a1)).pmu = a1.pmu ∧ (resultOf a1 (execStageMissing a1)).mss = a1.mss ∧ (resultOf a1 (execStageMissing a1)).sent = a1.sent ∧ (resultOf a1 (execStageMissing a1)).fresh = a1.fresh ∧ (resultOf a1 (execStageMissing a1)).routineIds = a1.routineIds ∧ (resultOf a1 (execStageMissing a1)).pending = a1.pending := by
  simp [execStageMissing]
theorem execStageMissing_completes (a1 : State) : (execStageMissing a1) = .next (resultOf a1 (execStageMissing a1)) := by
  unfold execStageMissing
  try dsimp only
  repeat' split
  all_goals rfl
theorem execDigest_frame (a1 : State) : (resultOf a1 (execDigest a1)).ident = a1.ident ∧ (resultOf a1 (execDigest a1)).nv = a1.nv ∧ (resultOf a1 (execDigest a1)).top = a1.top ∧ (resultOf a1 (execDigest a1)).cores = a1.cores ∧ (resultOf a1 (execDigest a1)).hub = a1.hub ∧ (resultOf a1 (execDigest a1)).err = a1.err ∧ (resultOf a1 (execDigest a1)).mem = a1.mem ∧ (resultOf a1 (execDigest a1)).cle = a1.cle ∧ (resultOf a1 (execDigest a1)).pue0 = a1.pue0 ∧ (resultOf a1 (execDigest a1)).pue1 = a1.pue1 ∧ (resultOf a1 (execDigest a1)).pwr = a1.pwr ∧ (resultOf a1 (execDigest a1)).pmu = a1.pmu ∧ (resultOf a1 (execDigest a1)).mss = a1.mss ∧ (resultOf a1 (execDigest a1)).fresh = a1.fresh ∧ (resultOf a1 (execDigest a1)).routineIds = a1.routineIds ∧ (resultOf a1 (execDigest a1)).pending = a1.pending := by
  unfold execDigest
  try dsimp only
  (repeat' split) <;> first | rfl | (simp; done) | (have hh0 := State.takeCke_frame ‹State.takeCke _ _ = _›; simp [hh0]; done) | (have hh0 := State.takeCke_frame ‹State.takeCke _ _ = _›; simp_all; done)
theorem execDigest_completes (a1 : State) : (execDigest a1) = .next (resultOf a1 (execDigest a1)) := by
  unfold execDigest
  try dsimp only
  repeat' split
  all_goals rfl
theorem execDigestTimeout_frame (a1) (a2 : State) : (resultOf a2 (execDigestTimeout a1 a2)).ident = a2.ident ∧ (resultOf a2 (execDigestTimeout a1 a2)).nv = a2.nv ∧ (resultOf a2 (execDigestTimeout a1 a2)).top = a2.top ∧ (resultOf a2 (execDigestTimeout a1 a2)).cores = a2.cores ∧ (resultOf a2 (execDigestTimeout a1 a2)).hub = a2.hub ∧ (resultOf a2 (execDigestTimeout a1 a2)).err = a2.err ∧ (resultOf a2 (execDigestTimeout a1 a2)).mem = a2.mem ∧ (resultOf a2 (execDigestTimeout a1 a2)).cle = a2.cle ∧ (resultOf a2 (execDigestTimeout a1 a2)).pue0 = a2.pue0 ∧ (resultOf a2 (execDigestTimeout a1 a2)).pue1 = a2.pue1 ∧ (resultOf a2 (execDigestTimeout a1 a2)).pwr = a2.pwr ∧ (resultOf a2 (execDigestTimeout a1 a2)).fab = a2.fab ∧ (resultOf a2 (execDigestTimeout a1 a2)).pmu = a2.pmu ∧ (resultOf a2 (execDigestTimeout a1 a2)).mss = a2.mss ∧ (resultOf a2 (execDigestTimeout a1 a2)).sent = a2.sent ∧ (resultOf a2 (execDigestTimeout a1 a2)).fresh = a2.fresh ∧ (resultOf a2 (execDigestTimeout a1 a2)).routineIds = a2.routineIds ∧ (resultOf a2 (execDigestTimeout a1 a2)).pending = a2.pending := by
  simp only [execDigestTimeout]
  repeat' split
  all_goals simp
theorem execDigestTimeout_completes (a1) (a2 : State) : (execDigestTimeout a1 a2) = .next (resultOf a2 (execDigestTimeout a1 a2)) := by
  unfold execDigestTimeout
  try dsimp only
  repeat' split
  all_goals rfl
theorem execProbeTick_frame (a1 : State) : (resultOf a1 (execProbeTick a1)).ident = a1.ident ∧ (resultOf a1 (execProbeTick a1)).nv = a1.nv ∧ (resultOf a1 (execProbeTick a1)).top = a1.top ∧ (resultOf a1 (execProbeTick a1)).cores = a1.cores ∧ (resultOf a1 (execProbeTick a1)).pue0 = a1.pue0 ∧ (resultOf a1 (execProbeTick a1)).pue1 = a1.pue1 ∧ (resultOf a1 (execProbeTick a1)).mss = a1.mss ∧ (resultOf a1 (execProbeTick a1)).routineIds = a1.routineIds ∧ (resultOf a1 (execProbeTick a1)).pending = a1.pending := by
  simp [execProbeTick]
theorem execProbeTick_completes (a1 : State) : (execProbeTick a1) = .next (resultOf a1 (execProbeTick a1)) := by
  unfold execProbeTick
  try dsimp only
  repeat' split
  all_goals simp
theorem execProbe_frame (a1 : State) : (resultOf a1 (execProbe a1)).ident = a1.ident ∧ (resultOf a1 (execProbe a1)).nv = a1.nv ∧ (resultOf a1 (execProbe a1)).top = a1.top ∧ (resultOf a1 (execProbe a1)).cores = a1.cores ∧ (resultOf a1 (execProbe a1)).mem = a1.mem ∧ (resultOf a1 (execProbe a1)).cle = a1.cle ∧ (resultOf a1 (execProbe a1)).pue0 = a1.pue0 ∧ (resultOf a1 (execProbe a1)).pue1 = a1.pue1 ∧ (resultOf a1 (execProbe a1)).cke = a1.cke ∧ (resultOf a1 (execProbe a1)).pwr = a1.pwr ∧ (resultOf a1 (execProbe a1)).mss = a1.mss ∧ (resultOf a1 (execProbe a1)).fresh = a1.fresh ∧ (resultOf a1 (execProbe a1)).routineIds = a1.routineIds ∧ (resultOf a1 (execProbe a1)).pending = a1.pending := by
  unfold execProbe
  try dsimp only
  (repeat' split) <;> first | rfl | (simp; done) | (have hh0 := State.takeCke_frame ‹State.takeCke _ _ = _›; simp [hh0]; done) | (have hh0 := State.takeCke_frame ‹State.takeCke _ _ = _›; simp_all; done)
theorem execProbe_completes (a1 : State) : (execProbe a1) = .next (resultOf a1 (execProbe a1)) := by
  unfold execProbe
  try dsimp only
  repeat' split
  all_goals rfl
theorem execProbeAck_frame (a1 : State) : (resultOf a1 (execProbeAck a1)).ident = a1.ident ∧ (resultOf a1 (execProbeAck a1)).nv = a1.nv ∧ (resultOf a1 (execProbeAck a1)).top = a1.top ∧ (resultOf a1 (execProbeAck a1)).cores = a1.cores ∧ (resultOf a1 (execProbeAck a1)).hub = a1.hub ∧ (resultOf a1 (execProbeAck a1)).err = a1.err ∧ (resultOf a1 (execProbeAck a1)).mem = a1.mem ∧ (resultOf a1 (execProbeAck a1)).cle = a1.cle ∧ (resultOf a1 (execProbeAck a1)).pue0 = a1.pue0 ∧ (resultOf a1 (execProbeAck a1)).pue1 = a1.pue1 ∧ (resultOf a1 (execProbeAck a1)).pwr = a1.pwr ∧ (resultOf a1 (execProbeAck a1)).pmu = a1.pmu ∧ (resultOf a1 (execProbeAck a1)).mss = a1.mss ∧ (resultOf a1 (execProbeAck a1)).fresh = a1.fresh ∧ (resultOf a1 (execProbeAck a1)).routineIds = a1.routineIds ∧ (resultOf a1 (execProbeAck a1)).pending = a1.pending := by
  unfold execProbeAck
  try dsimp only
  (repeat' split) <;> first | rfl | (simp; done) | (have hh0 := State.takeCke_frame ‹State.takeCke _ _ = _›; simp [hh0]; done) | (have hh0 := State.takeCke_frame ‹State.takeCke _ _ = _›; simp_all; done)
theorem execProbeAck_completes (a1 : State) : (execProbeAck a1) = .next (resultOf a1 (execProbeAck a1)) := by
  unfold execProbeAck
  try dsimp only
  repeat' split
  all_goals rfl
theorem execLossNotice_frame (a1 : State) : (resultOf a1 (execLossNotice a1)).ident = a1.ident ∧ (resultOf a1 (execLossNotice a1)).nv = a1.nv ∧ (resultOf a1 (execLossNotice a1)).top = a1.top ∧ (resultOf a1 (execLossNotice a1)).cores = a1.cores ∧ (resultOf a1 (execLossNotice a1)).pue0 = a1.pue0 ∧ (resultOf a1 (execLossNotice a1)).pue1 = a1.pue1 ∧ (resultOf a1 (execLossNotice a1)).mss = a1.mss ∧ (resultOf a1 (execLossNotice a1)).routineIds = a1.routineIds ∧ (resultOf a1 (execLossNotice a1)).pending = a1.pending := by
  unfold execLossNotice
  try dsimp only
  (repeat' split) <;> first | rfl | (simp; done) | (have hh0 := State.takeCke_frame ‹State.takeCke _ _ = _›; simp [hh0]; done) | (have hh0 := State.takeCke_frame ‹State.takeCke _ _ = _›; simp_all; done)
theorem execLossNotice_completes (a1 : State) : (execLossNotice a1) = .next (resultOf a1 (execLossNotice a1)) := by
  unfold execLossNotice
  try dsimp only
  repeat' split
  all_goals rfl
theorem execVote_frame (a1 : State) : (resultOf a1 (execVote a1)).ident = a1.ident ∧ (resultOf a1 (execVote a1)).nv = a1.nv ∧ (resultOf a1 (execVote a1)).top = a1.top ∧ (resultOf a1 (execVote a1)).cores = a1.cores ∧ (resultOf a1 (execVote a1)).mem = a1.mem ∧ (resultOf a1 (execVote a1)).cle = a1.cle ∧ (resultOf a1 (execVote a1)).pue0 = a1.pue0 ∧ (resultOf a1 (execVote a1)).pue1 = a1.pue1 ∧ (resultOf a1 (execVote a1)).pwr = a1.pwr ∧ (resultOf a1 (execVote a1)).mss = a1.mss ∧ (resultOf a1 (execVote a1)).fresh = a1.fresh ∧ (resultOf a1 (execVote a1)).routineIds = a1.routineIds ∧ (resultOf a1 (execVote a1)).pending = a1.pending := by
  unfold execVote
  try dsimp only
  (repeat' split) <;> first | rfl | (simp; done) | (have hh0 := State.takeCke_frame ‹State.takeCke _ _ = _›; simp [hh0]; done) | (have hh0 := State.takeCke_frame ‹State.takeCke _ _ = _›; simp_all; done)
theorem execVote_completes (a1 : State) : (execVote a1) = .next (resultOf a1 (execVote a1)) := by
  unfold execVote
  try dsimp only
  repeat' split
  all_goals rfl
theorem execVoteAck_frame (a1 : State) : (resultOf a1 (execVoteAck a1)).ident = a1.ident ∧ (resultOf a1 (execVoteAck a1)).nv = a1.nv ∧ (resultOf a1 (execVoteAck a1)).top = a1.top ∧ (resultOf a1 (execVoteAck a1)).cores = a1.cores ∧ (resultOf a1 (execVoteAck a1)).hub = a1.hub ∧ (resultOf a1 (execVoteAck a1)).err = a1.err ∧ (resultOf a1 (execVoteAck a1)).mem = a1.mem ∧ (resultOf a1 (execVoteAck a1)).cle = a1.cle ∧ (resultOf a1 (execVoteAck a1)).pue0 = a1.pue0 ∧ (resultOf a1 (execVoteAck a1)).pue1 = a1.pue1 ∧ (resultOf a1 (execVoteAck a1)).pwr = a1.pwr ∧ (resultOf a1 (execVoteAck a1)).pmu = a1.pmu ∧ (resultOf a1 (execVoteAck a1)).mss = a1.mss ∧ (resultOf a1 (execVoteAck a1)).fresh = a1.fresh ∧ (resultOf a1 (execVoteAck a1)).routineIds = a1.routineIds ∧ (resultOf a1 (execVoteAck a1)).pending = a1.pending := by
  unfold execVoteAck
  try dsimp only
  (repeat' split) <;> first | rfl | (simp; done) | (have hh0 := State.takeCke_frame ‹State.takeCke _ _ = _›; simp [hh0]; done) | (have hh0 := State.takeCke_frame ‹State.takeCke _ _ = _›; simp_all; done)
theorem execVoteAck_completes (a1 : State) : (execVoteAck a1) = .next (resultOf a1 (execVoteAck a1)) := by
  unfold execVoteAck
  try dsimp only
  repeat' split
  all_goals rfl
theorem execVoteTimeout_frame (a1 : State) : (resultOf a1 (execVoteTimeout a1)).ident = a1.ident ∧ (resultOf a1 (execVoteTimeout a1)).nv = a1.nv ∧ (resultOf a1 (execVoteTimeout a1)).top = a1.top ∧ (resultOf a1 (execVoteTimeout a1)).cores = a1.cores ∧ (resultOf a1 (execVoteTimeout a1)).mem = a1.mem ∧ (resultOf a1 (execVoteTimeout a1)).cle = a1.cle ∧ (resultOf a1 (execVoteTimeout a1)).pue0 = a1.pue0 ∧ (resultOf a1 (execVoteTimeout a1)).pue1 = a1.pue1 ∧ (resultOf a1 (execVoteTimeout a1)).pwr = a1.pwr ∧ (resultOf a1 (execVoteTimeout a1)).mss = a1.mss ∧ (resultOf a1 (execVoteTimeout a1)).fresh = a1.fresh ∧ (resultOf a1 (execVoteTimeout a1)).routineIds = a1.routineIds ∧ (resultOf a1 (execVoteTimeout a1)).pending = a1.pending := by
  simp [execVoteTimeout]
theorem execVoteTimeout_completes (a1 : State) : (execVoteTimeout a1) = .next (resultOf a1 (execVoteTimeout a1)) := by
  unfold execVoteTimeout
  try dsimp only
  repeat' split
  all_goals rfl
theorem execCkeOrphaned_frame (a1 : State) : (resultOf a1 (execCkeOrphaned a1)).ident = a1.ident ∧ (resultOf a1 (execCkeOrphaned a1)).nv = a1.nv ∧ (resultOf a1 (execCkeOrphaned a1)).top = a1.top ∧ (resultOf a1 (execCkeOrphaned a1)).mem = a1.mem ∧ (resultOf a1 (execCkeOrphaned a1)).cle = a1.cle ∧ (resultOf a1 (execCkeOrphaned a1)).pue0 = a1.pue0 ∧ (resultOf a1 (execCkeOrphaned a1)).pue1 = a1.pue1 ∧ (resultOf a1 (execCkeOrphaned a1)).pwr = a1.pwr ∧ (resultOf a1 (execCkeOrphaned a1)).fab = a1.fab ∧ (resultOf a1 (execCkeOrphaned a1)).mss = a1.mss ∧ (resultOf a1 (execCkeOrphaned a1)).fresh = a1.fresh ∧ (resultOf a1 (execCkeOrphaned a1)).routineIds = a1.routineIds ∧ (resultOf a1 (execCkeOrphaned a1)).pending = a1.pending := by
  simp [execCkeOrphaned]
theorem execCkeOrphaned_completes (a1 : State) : (execCkeOrphaned a1) = .next (resultOf a1 (execCkeOrphaned a1)) := by
  unfold execCkeOrphaned
  try dsimp only
  repeat' split
  all_goals rfl
theorem execDecisionAck_frame (a1 : State) : (resultOf a1 (execDecisionAck a1)).ident = a1.ident ∧ (resultOf a1 (execDecisionAck a1)).nv = a1.nv ∧ (resultOf a1 (execDecisionAck a1)).top = a1.top ∧ (resultOf a1 (execDecisionAck a1)).cores = a1.cores ∧ (resultOf a1 (execDecisionAck a1)).hub = a1.hub ∧ (resultOf a1 (execDecisionAck a1)).err = a1.err ∧ (resultOf a1 (execDecisionAck a1)).mem = a1.mem ∧ (resultOf a1 (execDecisionAck a1)).cle = a1.cle ∧ (resultOf a1 (execDecisionAck a1)).pue0 = a1.pue0 ∧ (resultOf a1 (execDecisionAck a1)).pue1 = a1.pue1 ∧ (resultOf a1 (execDecisionAck a1)).pwr = a1.pwr ∧ (resultOf a1 (execDecisionAck a1)).pmu = a1.pmu ∧ (resultOf a1 (execDecisionAck a1)).mss = a1.mss ∧ (resultOf a1 (execDecisionAck a1)).fresh = a1.fresh ∧ (resultOf a1 (execDecisionAck a1)).routineIds = a1.routineIds ∧ (resultOf a1 (execDecisionAck a1)).pending = a1.pending := by
  unfold execDecisionAck
  try dsimp only
  (repeat' split) <;> first | rfl | (simp; done) | (have hh0 := State.takeCke_frame ‹State.takeCke _ _ = _›; simp [hh0]; done) | (have hh0 := State.takeCke_frame ‹State.takeCke _ _ = _›; simp_all; done)
theorem execDecisionAck_completes (a1 : State) : (execDecisionAck a1) = .next (resultOf a1 (execDecisionAck a1)) := by
  unfold execDecisionAck
  try dsimp only
  repeat' split
  all_goals rfl
theorem execDecisionResend_frame (a1 : State) : (resultOf a1 (execDecisionResend a1)).ident = a1.ident ∧ (resultOf a1 (execDecisionResend a1)).nv = a1.nv ∧ (resultOf a1 (execDecisionResend a1)).top = a1.top ∧ (resultOf a1 (execDecisionResend a1)).cores = a1.cores ∧ (resultOf a1 (execDecisionResend a1)).mem = a1.mem ∧ (resultOf a1 (execDecisionResend a1)).cle = a1.cle ∧ (resultOf a1 (execDecisionResend a1)).pue0 = a1.pue0 ∧ (resultOf a1 (execDecisionResend a1)).pue1 = a1.pue1 ∧ (resultOf a1 (execDecisionResend a1)).cke = a1.cke ∧ (resultOf a1 (execDecisionResend a1)).pwr = a1.pwr ∧ (resultOf a1 (execDecisionResend a1)).mss = a1.mss ∧ (resultOf a1 (execDecisionResend a1)).fresh = a1.fresh ∧ (resultOf a1 (execDecisionResend a1)).routineIds = a1.routineIds ∧ (resultOf a1 (execDecisionResend a1)).pending = a1.pending := by
  simp only [execDecisionResend]
  repeat' split
  all_goals simp
theorem execDecisionResend_completes (a1 : State) : (execDecisionResend a1) = .next (resultOf a1 (execDecisionResend a1)) := by
  unfold execDecisionResend
  try dsimp only
  repeat' split
  all_goals rfl
theorem execCommit_frame (a1 : State) : (resultOf a1 (execCommit a1)).ident = a1.ident ∧ (resultOf a1 (execCommit a1)).nv = a1.nv ∧ (resultOf a1 (execCommit a1)).top = a1.top ∧ (resultOf a1 (execCommit a1)).pue0 = a1.pue0 ∧ (resultOf a1 (execCommit a1)).pue1 = a1.pue1 ∧ (resultOf a1 (execCommit a1)).mss = a1.mss ∧ (resultOf a1 (execCommit a1)).routineIds = a1.routineIds ∧ (resultOf a1 (execCommit a1)).pending = a1.pending := by
  unfold execCommit
  try dsimp only
  (repeat' split) <;> first | (simp; done) | exact ⟨applyDecision_ident _ _ _ (by intros; (try dsimp only); (repeat' split) <;> first | simp), applyDecision_nv _ _ _ (by intros; (try dsimp only); (repeat' split) <;> first | simp), applyDecision_top _ _ _ (by intros; (try dsimp only); (repeat' split) <;> first | simp), applyDecision_pue0 _ _ _ (by intros; (try dsimp only); (repeat' split) <;> first | simp), applyDecision_pue1 _ _ _ (by intros; (try dsimp only); (repeat' split) <;> first | simp), applyDecision_mss _ _ _ (by intros; (try dsimp only); (repeat' split) <;> first | simp), applyDecision_routineIds _ _ _ (by intros; (try dsimp only); (repeat' split) <;> first | simp), applyDecision_pending _ _ _ (by intros; (try dsimp only); (repeat' split) <;> first | simp)⟩
theorem execCommit_completes (a1 : State) : (execCommit a1) = .next (resultOf a1 (execCommit a1)) := by
  unfold execCommit
  try dsimp only
  repeat' split
  all_goals rfl
theorem execAbortStep_frame (a1 : State) : (resultOf a1 (execAbortStep a1)).ident = a1.ident ∧ (resultOf a1 (execAbortStep a1)).nv = a1.nv ∧ (resultOf a1 (execAbortStep a1)).top = a1.top ∧ (resultOf a1 (execAbortStep a1)).pue0 = a1.pue0 ∧ (resultOf a1 (execAbortStep a1)).pue1 = a1.pue1 ∧ (resultOf a1 (execAbortStep a1)).mss = a1.mss ∧ (resultOf a1 (execAbortStep a1)).routineIds = a1.routineIds ∧ (resultOf a1 (execAbortStep a1)).pending = a1.pending := by
  unfold execAbortStep
  try dsimp only
  (repeat' split) <;> first | (simp; done) | exact ⟨applyDecision_ident _ _ _ (by intros; (try dsimp only); (repeat' split) <;> first | simp), applyDecision_nv _ _ _ (by intros; (try dsimp only); (repeat' split) <;> first | simp), applyDecision_top _ _ _ (by intros; (try dsimp only); (repeat' split) <;> first | simp), applyDecision_pue0 _ _ _ (by intros; (try dsimp only); (repeat' split) <;> first | simp), applyDecision_pue1 _ _ _ (by intros; (try dsimp only); (repeat' split) <;> first | simp), applyDecision_mss _ _ _ (by intros; (try dsimp only); (repeat' split) <;> first | simp), applyDecision_routineIds _ _ _ (by intros; (try dsimp only); (repeat' split) <;> first | simp), applyDecision_pending _ _ _ (by intros; (try dsimp only); (repeat' split) <;> first | simp)⟩
theorem execAbortStep_completes (a1 : State) : (execAbortStep a1) = .next (resultOf a1 (execAbortStep a1)) := by
  unfold execAbortStep
  try dsimp only
  repeat' split
  all_goals rfl
theorem execRetryUpdate_frame (a1 : State) : (resultOf a1 (execRetryUpdate a1)).ident = a1.ident ∧ (resultOf a1 (execRetryUpdate a1)).nv = a1.nv ∧ (resultOf a1 (execRetryUpdate a1)).top = a1.top ∧ (resultOf a1 (execRetryUpdate a1)).mss = a1.mss ∧ (resultOf a1 (execRetryUpdate a1)).routineIds = a1.routineIds ∧ (resultOf a1 (execRetryUpdate a1)).pending = a1.pending := by
  unfold execRetryUpdate
  try dsimp only
  (repeat' split) <;> first | (simp; done) | exact ⟨applyDecision_ident _ _ _ (by intros; (try dsimp only); (repeat' split) <;> first | simp), applyDecision_nv _ _ _ (by intros; (try dsimp only); (repeat' split) <;> first | simp), applyDecision_top _ _ _ (by intros; (try dsimp only); (repeat' split) <;> first | simp), applyDecision_mss _ _ _ (by intros; (try dsimp only); (repeat' split) <;> first | simp), applyDecision_routineIds _ _ _ (by intros; (try dsimp only); (repeat' split) <;> first | simp), applyDecision_pending _ _ _ (by intros; (try dsimp only); (repeat' split) <;> first | simp)⟩
theorem execRetryUpdate_completes (a1 : State) : (execRetryUpdate a1) = .next (resultOf a1 (execRetryUpdate a1)) := by
  unfold execRetryUpdate
  try dsimp only
  repeat' split
  all_goals rfl
theorem execHaltAll_frame (a1 : State) : (resultOf a1 (execHaltAll a1)).ident = a1.ident ∧ (resultOf a1 (execHaltAll a1)).nv = a1.nv ∧ (resultOf a1 (execHaltAll a1)).top = a1.top ∧ (resultOf a1 (execHaltAll a1)).mem = a1.mem ∧ (resultOf a1 (execHaltAll a1)).cle = a1.cle ∧ (resultOf a1 (execHaltAll a1)).pue0 = a1.pue0 ∧ (resultOf a1 (execHaltAll a1)).pue1 = a1.pue1 ∧ (resultOf a1 (execHaltAll a1)).pwr = a1.pwr ∧ (resultOf a1 (execHaltAll a1)).mss = a1.mss ∧ (resultOf a1 (execHaltAll a1)).fresh = a1.fresh ∧ (resultOf a1 (execHaltAll a1)).routineIds = a1.routineIds ∧ (resultOf a1 (execHaltAll a1)).pending = a1.pending := by
  unfold execHaltAll
  try dsimp only
  (repeat' split) <;> first | (simp; done) | exact ⟨applyDecision_ident _ _ _ (by intros; (try dsimp only); (repeat' split) <;> first | simp), applyDecision_nv _ _ _ (by intros; (try dsimp only); (repeat' split) <;> first | simp), applyDecision_top _ _ _ (by intros; (try dsimp only); (repeat' split) <;> first | simp), applyDecision_mem _ _ _ (by intros; (try dsimp only); (repeat' split) <;> first | simp), applyDecision_cle _ _ _ (by intros; (try dsimp only); (repeat' split) <;> first | simp), applyDecision_pue0 _ _ _ (by intros; (try dsimp only); (repeat' split) <;> first | simp), applyDecision_pue1 _ _ _ (by intros; (try dsimp only); (repeat' split) <;> first | simp), applyDecision_pwr _ _ _ (by intros; (try dsimp only); (repeat' split) <;> first | simp), applyDecision_mss _ _ _ (by intros; (try dsimp only); (repeat' split) <;> first | simp), applyDecision_fresh _ _ _ (by intros; (try dsimp only); (repeat' split) <;> first | simp), applyDecision_routineIds _ _ _ (by intros; (try dsimp only); (repeat' split) <;> first | simp), applyDecision_pending _ _ _ (by intros; (try dsimp only); (repeat' split) <;> first | simp)⟩
theorem execHaltAll_completes (a1 : State) : (execHaltAll a1) = .next (resultOf a1 (execHaltAll a1)) := by
  unfold execHaltAll
  try dsimp only
  repeat' split
  all_goals rfl
theorem execHostAbort_frame (a1) (a2 : State) : (resultOf a2 (execHostAbort a1 a2)).ident = a2.ident ∧ (resultOf a2 (execHostAbort a1 a2)).nv = a2.nv ∧ (resultOf a2 (execHostAbort a1 a2)).cores = a2.cores ∧ (resultOf a2 (execHostAbort a1 a2)).mem = a2.mem ∧ (resultOf a2 (execHostAbort a1 a2)).cle = a2.cle ∧ (resultOf a2 (execHostAbort a1 a2)).pue0 = a2.pue0 ∧ (resultOf a2 (execHostAbort a1 a2)).pue1 = a2.pue1 ∧ (resultOf a2 (execHostAbort a1 a2)).pwr = a2.pwr ∧ (resultOf a2 (execHostAbort a1 a2)).fab = a2.fab ∧ (resultOf a2 (execHostAbort a1 a2)).mss = a2.mss ∧ (resultOf a2 (execHostAbort a1 a2)).fresh = a2.fresh ∧ (resultOf a2 (execHostAbort a1 a2)).routineIds = a2.routineIds ∧ (resultOf a2 (execHostAbort a1 a2)).pending = a2.pending := by
  simp [execHostAbort]
theorem execHostAbort_completes (a1) (a2 : State) : (execHostAbort a1 a2) = .next (resultOf a2 (execHostAbort a1 a2)) := by
  unfold execHostAbort
  try dsimp only
  repeat' split
  all_goals rfl
theorem execReshard_frame (a1) (a2 : State) : (resultOf a2 (execReshard a1 a2)).ident = a2.ident ∧ (resultOf a2 (execReshard a1 a2)).nv = a2.nv ∧ (resultOf a2 (execReshard a1 a2)).top = a2.top ∧ (resultOf a2 (execReshard a1 a2)).cle = a2.cle ∧ (resultOf a2 (execReshard a1 a2)).pue0 = a2.pue0 ∧ (resultOf a2 (execReshard a1 a2)).pue1 = a2.pue1 ∧ (resultOf a2 (execReshard a1 a2)).mss = a2.mss ∧ (resultOf a2 (execReshard a1 a2)).routineIds = a2.routineIds ∧ (resultOf a2 (execReshard a1 a2)).pending = a2.pending := by
  simp only [execReshard]
  repeat' split
  all_goals simp
theorem execReshard_completes (a1) (a2 : State) : (execReshard a1 a2) = .next (resultOf a2 (execReshard a1 a2)) := by
  unfold execReshard
  try dsimp only
  repeat' split
  all_goals simp
theorem execCkpt_frame (a1) (a2 : State) : (resultOf a2 (execCkpt a1 a2)).ident = a2.ident ∧ (resultOf a2 (execCkpt a1 a2)).nv = a2.nv ∧ (resultOf a2 (execCkpt a1 a2)).top = a2.top ∧ (resultOf a2 (execCkpt a1 a2)).cle = a2.cle ∧ (resultOf a2 (execCkpt a1 a2)).pue0 = a2.pue0 ∧ (resultOf a2 (execCkpt a1 a2)).pue1 = a2.pue1 ∧ (resultOf a2 (execCkpt a1 a2)).mss = a2.mss ∧ (resultOf a2 (execCkpt a1 a2)).routineIds = a2.routineIds ∧ (resultOf a2 (execCkpt a1 a2)).pending = a2.pending := by
  simp only [execCkpt]
  repeat' split
  all_goals simp
theorem execCkpt_completes (a1) (a2 : State) : (execCkpt a1 a2) = .next (resultOf a2 (execCkpt a1 a2)) := by
  unfold execCkpt
  try dsimp only
  repeat' split
  all_goals simp
theorem execRollback_frame (a1 : State) : (resultOf a1 (execRollback a1)).ident = a1.ident ∧ (resultOf a1 (execRollback a1)).nv = a1.nv ∧ (resultOf a1 (execRollback a1)).top = a1.top ∧ (resultOf a1 (execRollback a1)).pue0 = a1.pue0 ∧ (resultOf a1 (execRollback a1)).pue1 = a1.pue1 ∧ (resultOf a1 (execRollback a1)).mss = a1.mss ∧ (resultOf a1 (execRollback a1)).routineIds = a1.routineIds ∧ (resultOf a1 (execRollback a1)).pending = a1.pending := by
  unfold execRollback
  try dsimp only
  (repeat' split) <;> first | (simp; done) | exact ⟨applyDecision_ident _ _ _ (by intros; (try dsimp only); (repeat' split) <;> first | simp), applyDecision_nv _ _ _ (by intros; (try dsimp only); (repeat' split) <;> first | simp), applyDecision_top _ _ _ (by intros; (try dsimp only); (repeat' split) <;> first | simp), applyDecision_pue0 _ _ _ (by intros; (try dsimp only); (repeat' split) <;> first | simp), applyDecision_pue1 _ _ _ (by intros; (try dsimp only); (repeat' split) <;> first | simp), applyDecision_mss _ _ _ (by intros; (try dsimp only); (repeat' split) <;> first | simp), applyDecision_routineIds _ _ _ (by intros; (try dsimp only); (repeat' split) <;> first | simp), applyDecision_pending _ _ _ (by intros; (try dsimp only); (repeat' split) <;> first | simp)⟩
theorem execRollback_completes (a1 : State) : (execRollback a1) = .next (resultOf a1 (execRollback a1)) := by
  unfold execRollback
  try dsimp only
  repeat' split
  all_goals rfl
theorem execScrubRead_frame (a1) (a2) (a3 : State) : (resultOf a3 (execScrubRead a1 a2 a3)).ident = a3.ident ∧ (resultOf a3 (execScrubRead a1 a2 a3)).nv = a3.nv ∧ (resultOf a3 (execScrubRead a1 a2 a3)).top = a3.top ∧ (resultOf a3 (execScrubRead a1 a2 a3)).cores = a3.cores ∧ (resultOf a3 (execScrubRead a1 a2 a3)).cle = a3.cle ∧ (resultOf a3 (execScrubRead a1 a2 a3)).pue0 = a3.pue0 ∧ (resultOf a3 (execScrubRead a1 a2 a3)).pue1 = a3.pue1 ∧ (resultOf a3 (execScrubRead a1 a2 a3)).fab = a3.fab ∧ (resultOf a3 (execScrubRead a1 a2 a3)).mss = a3.mss ∧ (resultOf a3 (execScrubRead a1 a2 a3)).routineIds = a3.routineIds ∧ (resultOf a3 (execScrubRead a1 a2 a3)).pending = a3.pending := by
  simp [execScrubRead]
theorem execScrubRead_completes (a1) (a2) (a3 : State) : (execScrubRead a1 a2 a3) = .next (resultOf a3 (execScrubRead a1 a2 a3)) := by
  unfold execScrubRead
  try dsimp only
  repeat' split
  all_goals rfl
theorem execMemStackFail_frame (a1) (a2) (a3 : State) : (resultOf a3 (execMemStackFail a1 a2 a3)).ident = a3.ident ∧ (resultOf a3 (execMemStackFail a1 a2 a3)).nv = a3.nv ∧ (resultOf a3 (execMemStackFail a1 a2 a3)).cle = a3.cle ∧ (resultOf a3 (execMemStackFail a1 a2 a3)).pwr = a3.pwr ∧ (resultOf a3 (execMemStackFail a1 a2 a3)).fab = a3.fab ∧ (resultOf a3 (execMemStackFail a1 a2 a3)).mss = a3.mss ∧ (resultOf a3 (execMemStackFail a1 a2 a3)).fresh = a3.fresh ∧ (resultOf a3 (execMemStackFail a1 a2 a3)).routineIds = a3.routineIds ∧ (resultOf a3 (execMemStackFail a1 a2 a3)).pending = a3.pending := by
  simp [execMemStackFail]
theorem execMemStackFail_completes (a1) (a2) (a3 : State) : (execMemStackFail a1 a2 a3) = .next (resultOf a3 (execMemStackFail a1 a2 a3)) := by
  unfold execMemStackFail
  try dsimp only
  repeat' split
  all_goals rfl
theorem execT2LinkDown_frame (a1) (a2 : State) : (resultOf a2 (execT2LinkDown a1 a2)).ident = a2.ident ∧ (resultOf a2 (execT2LinkDown a1 a2)).nv = a2.nv ∧ (resultOf a2 (execT2LinkDown a1 a2)).top = a2.top ∧ (resultOf a2 (execT2LinkDown a1 a2)).cores = a2.cores ∧ (resultOf a2 (execT2LinkDown a1 a2)).cle = a2.cle ∧ (resultOf a2 (execT2LinkDown a1 a2)).pue0 = a2.pue0 ∧ (resultOf a2 (execT2LinkDown a1 a2)).pue1 = a2.pue1 ∧ (resultOf a2 (execT2LinkDown a1 a2)).cke = a2.cke ∧ (resultOf a2 (execT2LinkDown a1 a2)).pwr = a2.pwr ∧ (resultOf a2 (execT2LinkDown a1 a2)).fab = a2.fab ∧ (resultOf a2 (execT2LinkDown a1 a2)).mss = a2.mss ∧ (resultOf a2 (execT2LinkDown a1 a2)).fresh = a2.fresh ∧ (resultOf a2 (execT2LinkDown a1 a2)).routineIds = a2.routineIds ∧ (resultOf a2 (execT2LinkDown a1 a2)).pending = a2.pending := by
  simp [execT2LinkDown]
theorem execT2LinkDown_completes (a1) (a2 : State) : (execT2LinkDown a1 a2) = .next (resultOf a2 (execT2LinkDown a1 a2)) := by
  unfold execT2LinkDown
  try dsimp only
  repeat' split
  all_goals rfl
theorem execExpanderFatal_frame (a1) (a2 : State) : (resultOf a2 (execExpanderFatal a1 a2)).ident = a2.ident ∧ (resultOf a2 (execExpanderFatal a1 a2)).nv = a2.nv ∧ (resultOf a2 (execExpanderFatal a1 a2)).top = a2.top ∧ (resultOf a2 (execExpanderFatal a1 a2)).cores = a2.cores ∧ (resultOf a2 (execExpanderFatal a1 a2)).cle = a2.cle ∧ (resultOf a2 (execExpanderFatal a1 a2)).pue0 = a2.pue0 ∧ (resultOf a2 (execExpanderFatal a1 a2)).pue1 = a2.pue1 ∧ (resultOf a2 (execExpanderFatal a1 a2)).cke = a2.cke ∧ (resultOf a2 (execExpanderFatal a1 a2)).pwr = a2.pwr ∧ (resultOf a2 (execExpanderFatal a1 a2)).fab = a2.fab ∧ (resultOf a2 (execExpanderFatal a1 a2)).mss = a2.mss ∧ (resultOf a2 (execExpanderFatal a1 a2)).fresh = a2.fresh ∧ (resultOf a2 (execExpanderFatal a1 a2)).routineIds = a2.routineIds ∧ (resultOf a2 (execExpanderFatal a1 a2)).pending = a2.pending := by
  simp [execExpanderFatal]
theorem execExpanderFatal_completes (a1) (a2 : State) : (execExpanderFatal a1 a2) = .next (resultOf a2 (execExpanderFatal a1 a2)) := by
  unfold execExpanderFatal
  try dsimp only
  repeat' split
  all_goals rfl
theorem execMemInject_frame (a1) (a2) (a3 : State) : (resultOf a3 (execMemInject a1 a2 a3)).ident = a3.ident ∧ (resultOf a3 (execMemInject a1 a2 a3)).nv = a3.nv ∧ (resultOf a3 (execMemInject a1 a2 a3)).top = a3.top ∧ (resultOf a3 (execMemInject a1 a2 a3)).cores = a3.cores ∧ (resultOf a3 (execMemInject a1 a2 a3)).hub = a3.hub ∧ (resultOf a3 (execMemInject a1 a2 a3)).err = a3.err ∧ (resultOf a3 (execMemInject a1 a2 a3)).cle = a3.cle ∧ (resultOf a3 (execMemInject a1 a2 a3)).pue0 = a3.pue0 ∧ (resultOf a3 (execMemInject a1 a2 a3)).pue1 = a3.pue1 ∧ (resultOf a3 (execMemInject a1 a2 a3)).cke = a3.cke ∧ (resultOf a3 (execMemInject a1 a2 a3)).pwr = a3.pwr ∧ (resultOf a3 (execMemInject a1 a2 a3)).fab = a3.fab ∧ (resultOf a3 (execMemInject a1 a2 a3)).pmu = a3.pmu ∧ (resultOf a3 (execMemInject a1 a2 a3)).mss = a3.mss ∧ (resultOf a3 (execMemInject a1 a2 a3)).sent = a3.sent ∧ (resultOf a3 (execMemInject a1 a2 a3)).routineIds = a3.routineIds ∧ (resultOf a3 (execMemInject a1 a2 a3)).pending = a3.pending := by
  simp [execMemInject]
theorem execMemInject_completes (a1) (a2) (a3 : State) : (execMemInject a1 a2 a3) = .next (resultOf a3 (execMemInject a1 a2 a3)) := by
  unfold execMemInject
  try dsimp only
  repeat' split
  all_goals rfl
theorem execCxlMemRead_frame (a1) (a2) (a3) (a4 : State) : (resultOf a4 (execCxlMemRead a1 a2 a3 a4)).ident = a4.ident ∧ (resultOf a4 (execCxlMemRead a1 a2 a3 a4)).nv = a4.nv ∧ (resultOf a4 (execCxlMemRead a1 a2 a3 a4)).top = a4.top ∧ (resultOf a4 (execCxlMemRead a1 a2 a3 a4)).cores = a4.cores ∧ (resultOf a4 (execCxlMemRead a1 a2 a3 a4)).cle = a4.cle ∧ (resultOf a4 (execCxlMemRead a1 a2 a3 a4)).pue0 = a4.pue0 ∧ (resultOf a4 (execCxlMemRead a1 a2 a3 a4)).pue1 = a4.pue1 ∧ (resultOf a4 (execCxlMemRead a1 a2 a3 a4)).fab = a4.fab ∧ (resultOf a4 (execCxlMemRead a1 a2 a3 a4)).mss = a4.mss ∧ (resultOf a4 (execCxlMemRead a1 a2 a3 a4)).routineIds = a4.routineIds ∧ (resultOf a4 (execCxlMemRead a1 a2 a3 a4)).pending = a4.pending := by
  simp [execCxlMemRead]
theorem execCxlMemRead_completes (a1) (a2) (a3) (a4 : State) : (execCxlMemRead a1 a2 a3 a4) = .next (resultOf a4 (execCxlMemRead a1 a2 a3 a4)) := by
  unfold execCxlMemRead
  try dsimp only
  repeat' split
  all_goals rfl
theorem execCxlMemWrite_frame (a1) (a2) (a3) (a4) (a5) (a6 : State) : (resultOf a6 (execCxlMemWrite a1 a2 a3 a4 a5 a6)).ident = a6.ident ∧ (resultOf a6 (execCxlMemWrite a1 a2 a3 a4 a5 a6)).nv = a6.nv ∧ (resultOf a6 (execCxlMemWrite a1 a2 a3 a4 a5 a6)).top = a6.top ∧ (resultOf a6 (execCxlMemWrite a1 a2 a3 a4 a5 a6)).cores = a6.cores ∧ (resultOf a6 (execCxlMemWrite a1 a2 a3 a4 a5 a6)).cle = a6.cle ∧ (resultOf a6 (execCxlMemWrite a1 a2 a3 a4 a5 a6)).pue0 = a6.pue0 ∧ (resultOf a6 (execCxlMemWrite a1 a2 a3 a4 a5 a6)).pue1 = a6.pue1 ∧ (resultOf a6 (execCxlMemWrite a1 a2 a3 a4 a5 a6)).cke = a6.cke ∧ (resultOf a6 (execCxlMemWrite a1 a2 a3 a4 a5 a6)).fab = a6.fab ∧ (resultOf a6 (execCxlMemWrite a1 a2 a3 a4 a5 a6)).mss = a6.mss ∧ (resultOf a6 (execCxlMemWrite a1 a2 a3 a4 a5 a6)).routineIds = a6.routineIds ∧ (resultOf a6 (execCxlMemWrite a1 a2 a3 a4 a5 a6)).pending = a6.pending := by
  simp [execCxlMemWrite]
theorem execCxlMemWrite_completes (a1) (a2) (a3) (a4) (a5) (a6 : State) : (execCxlMemWrite a1 a2 a3 a4 a5 a6) = .next (resultOf a6 (execCxlMemWrite a1 a2 a3 a4 a5 a6)) := by
  unfold execCxlMemWrite
  try dsimp only
  repeat' split
  all_goals rfl
theorem execBisnpResponse_frame (a1) (a2 : State) : (resultOf a2 (execBisnpResponse a1 a2)).ident = a2.ident ∧ (resultOf a2 (execBisnpResponse a1 a2)).nv = a2.nv ∧ (resultOf a2 (execBisnpResponse a1 a2)).top = a2.top ∧ (resultOf a2 (execBisnpResponse a1 a2)).cores = a2.cores ∧ (resultOf a2 (execBisnpResponse a1 a2)).err = a2.err ∧ (resultOf a2 (execBisnpResponse a1 a2)).mem = a2.mem ∧ (resultOf a2 (execBisnpResponse a1 a2)).cle = a2.cle ∧ (resultOf a2 (execBisnpResponse a1 a2)).pue0 = a2.pue0 ∧ (resultOf a2 (execBisnpResponse a1 a2)).pue1 = a2.pue1 ∧ (resultOf a2 (execBisnpResponse a1 a2)).cke = a2.cke ∧ (resultOf a2 (execBisnpResponse a1 a2)).pwr = a2.pwr ∧ (resultOf a2 (execBisnpResponse a1 a2)).fab = a2.fab ∧ (resultOf a2 (execBisnpResponse a1 a2)).pmu = a2.pmu ∧ (resultOf a2 (execBisnpResponse a1 a2)).mss = a2.mss ∧ (resultOf a2 (execBisnpResponse a1 a2)).sent = a2.sent ∧ (resultOf a2 (execBisnpResponse a1 a2)).fresh = a2.fresh ∧ (resultOf a2 (execBisnpResponse a1 a2)).routineIds = a2.routineIds ∧ (resultOf a2 (execBisnpResponse a1 a2)).pending = a2.pending := by
  simp [execBisnpResponse]
theorem execBisnpResponse_completes (a1) (a2 : State) : (execBisnpResponse a1 a2) = .next (resultOf a2 (execBisnpResponse a1 a2)) := by
  unfold execBisnpResponse
  try dsimp only
  repeat' split
  all_goals rfl
theorem execHostBisnpTimeout_frame (a1) (a2 : State) : (resultOf a2 (execHostBisnpTimeout a1 a2)).ident = a2.ident ∧ (resultOf a2 (execHostBisnpTimeout a1 a2)).nv = a2.nv ∧ (resultOf a2 (execHostBisnpTimeout a1 a2)).top = a2.top ∧ (resultOf a2 (execHostBisnpTimeout a1 a2)).cores = a2.cores ∧ (resultOf a2 (execHostBisnpTimeout a1 a2)).mem = a2.mem ∧ (resultOf a2 (execHostBisnpTimeout a1 a2)).cle = a2.cle ∧ (resultOf a2 (execHostBisnpTimeout a1 a2)).pue0 = a2.pue0 ∧ (resultOf a2 (execHostBisnpTimeout a1 a2)).pue1 = a2.pue1 ∧ (resultOf a2 (execHostBisnpTimeout a1 a2)).cke = a2.cke ∧ (resultOf a2 (execHostBisnpTimeout a1 a2)).pwr = a2.pwr ∧ (resultOf a2 (execHostBisnpTimeout a1 a2)).fab = a2.fab ∧ (resultOf a2 (execHostBisnpTimeout a1 a2)).mss = a2.mss ∧ (resultOf a2 (execHostBisnpTimeout a1 a2)).fresh = a2.fresh ∧ (resultOf a2 (execHostBisnpTimeout a1 a2)).routineIds = a2.routineIds ∧ (resultOf a2 (execHostBisnpTimeout a1 a2)).pending = a2.pending := by
  simp [execHostBisnpTimeout]
theorem execHostBisnpTimeout_completes (a1) (a2 : State) : (execHostBisnpTimeout a1 a2) = .next (resultOf a2 (execHostBisnpTimeout a1 a2)) := by
  unfold execHostBisnpTimeout
  try dsimp only
  repeat' split
  all_goals rfl
theorem execHostLineUpdate_frame (a1) (a2) (a3) (a4) (a5 : State) : (resultOf a5 (execHostLineUpdate a1 a2 a3 a4 a5)).ident = a5.ident ∧ (resultOf a5 (execHostLineUpdate a1 a2 a3 a4 a5)).nv = a5.nv ∧ (resultOf a5 (execHostLineUpdate a1 a2 a3 a4 a5)).top = a5.top ∧ (resultOf a5 (execHostLineUpdate a1 a2 a3 a4 a5)).cores = a5.cores ∧ (resultOf a5 (execHostLineUpdate a1 a2 a3 a4 a5)).mem = a5.mem ∧ (resultOf a5 (execHostLineUpdate a1 a2 a3 a4 a5)).cle = a5.cle ∧ (resultOf a5 (execHostLineUpdate a1 a2 a3 a4 a5)).pue0 = a5.pue0 ∧ (resultOf a5 (execHostLineUpdate a1 a2 a3 a4 a5)).pue1 = a5.pue1 ∧ (resultOf a5 (execHostLineUpdate a1 a2 a3 a4 a5)).cke = a5.cke ∧ (resultOf a5 (execHostLineUpdate a1 a2 a3 a4 a5)).pwr = a5.pwr ∧ (resultOf a5 (execHostLineUpdate a1 a2 a3 a4 a5)).fab = a5.fab ∧ (resultOf a5 (execHostLineUpdate a1 a2 a3 a4 a5)).mss = a5.mss ∧ (resultOf a5 (execHostLineUpdate a1 a2 a3 a4 a5)).fresh = a5.fresh ∧ (resultOf a5 (execHostLineUpdate a1 a2 a3 a4 a5)).routineIds = a5.routineIds ∧ (resultOf a5 (execHostLineUpdate a1 a2 a3 a4 a5)).pending = a5.pending := by
  simp [execHostLineUpdate]
theorem execHostLineUpdate_completes (a1) (a2) (a3) (a4) (a5 : State) : (execHostLineUpdate a1 a2 a3 a4 a5) = .next (resultOf a5 (execHostLineUpdate a1 a2 a3 a4 a5)) := by
  unfold execHostLineUpdate
  try dsimp only
  repeat' split
  all_goals rfl
@[simp] theorem onEntry_ident (a1 : State) (a2) (a3) (a4) (a5) (ha5 : ∀ y0 y1, (a5 y0 y1).ident = y0.ident) : (resultOf a1 (onEntry a1 a2 a3 a4 a5)).ident = a1.ident := by
  simp [onEntry, ha5]
@[simp] theorem onEntry_nv (a1 : State) (a2) (a3) (a4) (a5) (ha5 : ∀ y0 y1, (a5 y0 y1).nv = y0.nv) : (resultOf a1 (onEntry a1 a2 a3 a4 a5)).nv = a1.nv := by
  simp [onEntry, ha5]
@[simp] theorem onEntry_top (a1 : State) (a2) (a3) (a4) (a5) (ha5 : ∀ y0 y1, (a5 y0 y1).top = y0.top) : (resultOf a1 (onEntry a1 a2 a3 a4 a5)).top = a1.top := by
  simp [onEntry, ha5]
@[simp] theorem onEntry_cores (a1 : State) (a2) (a3) (a4) (a5) (ha5 : ∀ y0 y1, (a5 y0 y1).cores = y0.cores) : (resultOf a1 (onEntry a1 a2 a3 a4 a5)).cores = a1.cores := by
  simp [onEntry, ha5]
@[simp] theorem onEntry_mem (a1 : State) (a2) (a3) (a4) (a5) (ha5 : ∀ y0 y1, (a5 y0 y1).mem = y0.mem) : (resultOf a1 (onEntry a1 a2 a3 a4 a5)).mem = a1.mem := by
  simp [onEntry, ha5]
@[simp] theorem onEntry_cle (a1 : State) (a2) (a3) (a4) (a5) (ha5 : ∀ y0 y1, (a5 y0 y1).cle = y0.cle) : (resultOf a1 (onEntry a1 a2 a3 a4 a5)).cle = a1.cle := by
  simp [onEntry, ha5]
@[simp] theorem onEntry_pue0 (a1 : State) (a2) (a3) (a4) (a5) (ha5 : ∀ y0 y1, (a5 y0 y1).pue0 = y0.pue0) : (resultOf a1 (onEntry a1 a2 a3 a4 a5)).pue0 = a1.pue0 := by
  simp [onEntry, ha5]
@[simp] theorem onEntry_pue1 (a1 : State) (a2) (a3) (a4) (a5) (ha5 : ∀ y0 y1, (a5 y0 y1).pue1 = y0.pue1) : (resultOf a1 (onEntry a1 a2 a3 a4 a5)).pue1 = a1.pue1 := by
  simp [onEntry, ha5]
@[simp] theorem onEntry_cke (a1 : State) (a2) (a3) (a4) (a5) (ha5 : ∀ y0 y1, (a5 y0 y1).cke = y0.cke) : (resultOf a1 (onEntry a1 a2 a3 a4 a5)).cke = a1.cke := by
  simp [onEntry, ha5]
@[simp] theorem onEntry_pwr (a1 : State) (a2) (a3) (a4) (a5) (ha5 : ∀ y0 y1, (a5 y0 y1).pwr = y0.pwr) : (resultOf a1 (onEntry a1 a2 a3 a4 a5)).pwr = a1.pwr := by
  simp [onEntry, ha5]
@[simp] theorem onEntry_fab (a1 : State) (a2) (a3) (a4) (a5) (ha5 : ∀ y0 y1, (a5 y0 y1).fab = y0.fab) : (resultOf a1 (onEntry a1 a2 a3 a4 a5)).fab = a1.fab := by
  simp [onEntry, ha5]
@[simp] theorem onEntry_mss (a1 : State) (a2) (a3) (a4) (a5) (ha5 : ∀ y0 y1, (a5 y0 y1).mss = y0.mss) : (resultOf a1 (onEntry a1 a2 a3 a4 a5)).mss = a1.mss := by
  simp [onEntry, ha5]
@[simp] theorem onEntry_fresh (a1 : State) (a2) (a3) (a4) (a5) (ha5 : ∀ y0 y1, (a5 y0 y1).fresh = y0.fresh) : (resultOf a1 (onEntry a1 a2 a3 a4 a5)).fresh = a1.fresh := by
  simp [onEntry, ha5]
@[simp] theorem onEntry_routineIds (a1 : State) (a2) (a3) (a4) (a5) (ha5 : ∀ y0 y1, (a5 y0 y1).routineIds = y0.routineIds) : (resultOf a1 (onEntry a1 a2 a3 a4 a5)).routineIds = a1.routineIds := by
  simp [onEntry, ha5]
@[simp] theorem onEntry_pending (a1 : State) (a2) (a3) (a4) (a5) (ha5 : ∀ y0 y1, (a5 y0 y1).pending = y0.pending) : (resultOf a1 (onEntry a1 a2 a3 a4 a5)).pending = a1.pending := by
  simp [onEntry, ha5]
theorem onEntry_completes (a1 : State) (a2) (a3) (a4) (a5) : (onEntry a1 a2 a3 a4 a5) = .next (resultOf a1 (onEntry a1 a2 a3 a4 a5)) := by
  unfold onEntry
  try dsimp only
  repeat' split
  all_goals rfl
theorem execStart_frame (a1) (a2) (a3 : State) : (resultOf a3 (execStart a1 a2 a3)).ident = a3.ident ∧ (resultOf a3 (execStart a1 a2 a3)).nv = a3.nv ∧ (resultOf a3 (execStart a1 a2 a3)).top = a3.top ∧ (resultOf a3 (execStart a1 a2 a3)).cores = a3.cores ∧ (resultOf a3 (execStart a1 a2 a3)).mem = a3.mem ∧ (resultOf a3 (execStart a1 a2 a3)).cle = a3.cle ∧ (resultOf a3 (execStart a1 a2 a3)).pue0 = a3.pue0 ∧ (resultOf a3 (execStart a1 a2 a3)).pue1 = a3.pue1 ∧ (resultOf a3 (execStart a1 a2 a3)).cke = a3.cke ∧ (resultOf a3 (execStart a1 a2 a3)).pwr = a3.pwr ∧ (resultOf a3 (execStart a1 a2 a3)).fab = a3.fab ∧ (resultOf a3 (execStart a1 a2 a3)).mss = a3.mss ∧ (resultOf a3 (execStart a1 a2 a3)).fresh = a3.fresh ∧ (resultOf a3 (execStart a1 a2 a3)).routineIds = a3.routineIds ∧ (resultOf a3 (execStart a1 a2 a3)).pending = a3.pending := by
  simp [execStart]
theorem execStart_completes (a1) (a2) (a3 : State) : (execStart a1 a2 a3) = .next (resultOf a3 (execStart a1 a2 a3)) := by
  unfold execStart
  repeat (first | rfl | split | exact onEntry_completes ..)
theorem execRingNop_frame (a1) (a2) (a3) (a4 : State) : (resultOf a4 (execRingNop a1 a2 a3 a4)).ident = a4.ident ∧ (resultOf a4 (execRingNop a1 a2 a3 a4)).nv = a4.nv ∧ (resultOf a4 (execRingNop a1 a2 a3 a4)).top = a4.top ∧ (resultOf a4 (execRingNop a1 a2 a3 a4)).cores = a4.cores ∧ (resultOf a4 (execRingNop a1 a2 a3 a4)).mem = a4.mem ∧ (resultOf a4 (execRingNop a1 a2 a3 a4)).cle = a4.cle ∧ (resultOf a4 (execRingNop a1 a2 a3 a4)).pue0 = a4.pue0 ∧ (resultOf a4 (execRingNop a1 a2 a3 a4)).pue1 = a4.pue1 ∧ (resultOf a4 (execRingNop a1 a2 a3 a4)).cke = a4.cke ∧ (resultOf a4 (execRingNop a1 a2 a3 a4)).pwr = a4.pwr ∧ (resultOf a4 (execRingNop a1 a2 a3 a4)).fab = a4.fab ∧ (resultOf a4 (execRingNop a1 a2 a3 a4)).mss = a4.mss ∧ (resultOf a4 (execRingNop a1 a2 a3 a4)).fresh = a4.fresh ∧ (resultOf a4 (execRingNop a1 a2 a3 a4)).routineIds = a4.routineIds ∧ (resultOf a4 (execRingNop a1 a2 a3 a4)).pending = a4.pending := by
  simp [execRingNop]
theorem execRingNop_completes (a1) (a2) (a3) (a4 : State) : (execRingNop a1 a2 a3 a4) = .next (resultOf a4 (execRingNop a1 a2 a3 a4)) := by
  unfold execRingNop
  repeat (first | rfl | split | exact onEntry_completes ..)
theorem execJobStart_frame (a1 : State) : (resultOf a1 (execJobStart a1)).ident = a1.ident ∧ (resultOf a1 (execJobStart a1)).nv = a1.nv ∧ (resultOf a1 (execJobStart a1)).top = a1.top ∧ (resultOf a1 (execJobStart a1)).pue0 = a1.pue0 ∧ (resultOf a1 (execJobStart a1)).pue1 = a1.pue1 ∧ (resultOf a1 (execJobStart a1)).fab = a1.fab ∧ (resultOf a1 (execJobStart a1)).mss = a1.mss ∧ (resultOf a1 (execJobStart a1)).routineIds = a1.routineIds ∧ (resultOf a1 (execJobStart a1)).pending = a1.pending := by
  simp only [execJobStart]
  repeat' split
  all_goals simp
theorem execJobStart_completes (a1 : State) : (execJobStart a1) = .next (resultOf a1 (execJobStart a1)) := by
  unfold execJobStart
  try dsimp only
  repeat' split
  all_goals simp
theorem execJobDone_frame (a1 : State) : (resultOf a1 (execJobDone a1)).ident = a1.ident ∧ (resultOf a1 (execJobDone a1)).nv = a1.nv ∧ (resultOf a1 (execJobDone a1)).top = a1.top ∧ (resultOf a1 (execJobDone a1)).cores = a1.cores ∧ (resultOf a1 (execJobDone a1)).pue0 = a1.pue0 ∧ (resultOf a1 (execJobDone a1)).pue1 = a1.pue1 ∧ (resultOf a1 (execJobDone a1)).fab = a1.fab ∧ (resultOf a1 (execJobDone a1)).mss = a1.mss ∧ (resultOf a1 (execJobDone a1)).routineIds = a1.routineIds ∧ (resultOf a1 (execJobDone a1)).pending = a1.pending := by
  simp only [execJobDone]
  repeat' split
  all_goals simp
theorem execJobDone_completes (a1 : State) : (execJobDone a1) = .next (resultOf a1 (execJobDone a1)) := by
  unfold execJobDone
  try dsimp only
  repeat' split
  all_goals rfl
theorem execCommandComplete_frame (a1) (a2) (a3) (a4 : State) : (resultOf a4 (execCommandComplete a1 a2 a3 a4)).ident = a4.ident ∧ (resultOf a4 (execCommandComplete a1 a2 a3 a4)).nv = a4.nv ∧ (resultOf a4 (execCommandComplete a1 a2 a3 a4)).top = a4.top ∧ (resultOf a4 (execCommandComplete a1 a2 a3 a4)).pue0 = a4.pue0 ∧ (resultOf a4 (execCommandComplete a1 a2 a3 a4)).pue1 = a4.pue1 ∧ (resultOf a4 (execCommandComplete a1 a2 a3 a4)).fab = a4.fab ∧ (resultOf a4 (execCommandComplete a1 a2 a3 a4)).mss = a4.mss ∧ (resultOf a4 (execCommandComplete a1 a2 a3 a4)).routineIds = a4.routineIds ∧ (resultOf a4 (execCommandComplete a1 a2 a3 a4)).pending = a4.pending := by
  simp [execCommandComplete]
theorem execCommandComplete_completes (a1) (a2) (a3) (a4 : State) : (execCommandComplete a1 a2 a3 a4) = .next (resultOf a4 (execCommandComplete a1 a2 a3 a4)) := by
  unfold execCommandComplete
  try dsimp only
  repeat' split
  all_goals rfl
theorem execTerminate_frame (a1) (a2) (a3 : State) : (resultOf a3 (execTerminate a1 a2 a3)).ident = a3.ident ∧ (resultOf a3 (execTerminate a1 a2 a3)).nv = a3.nv ∧ (resultOf a3 (execTerminate a1 a2 a3)).top = a3.top ∧ (resultOf a3 (execTerminate a1 a2 a3)).pue0 = a3.pue0 ∧ (resultOf a3 (execTerminate a1 a2 a3)).pue1 = a3.pue1 ∧ (resultOf a3 (execTerminate a1 a2 a3)).fab = a3.fab ∧ (resultOf a3 (execTerminate a1 a2 a3)).mss = a3.mss ∧ (resultOf a3 (execTerminate a1 a2 a3)).routineIds = a3.routineIds ∧ (resultOf a3 (execTerminate a1 a2 a3)).pending = a3.pending := by
  unfold execTerminate
  exact ⟨onEntry_ident _ _ _ _ _ (by intros; (try dsimp only); (repeat' split) <;> first | simp), onEntry_nv _ _ _ _ _ (by intros; (try dsimp only); (repeat' split) <;> first | simp), onEntry_top _ _ _ _ _ (by intros; (try dsimp only); (repeat' split) <;> first | simp), onEntry_pue0 _ _ _ _ _ (by intros; (try dsimp only); (repeat' split) <;> first | simp), onEntry_pue1 _ _ _ _ _ (by intros; (try dsimp only); (repeat' split) <;> first | simp), onEntry_fab _ _ _ _ _ (by intros; (try dsimp only); (repeat' split) <;> first | simp), onEntry_mss _ _ _ _ _ (by intros; (try dsimp only); (repeat' split) <;> first | simp), onEntry_routineIds _ _ _ _ _ (by intros; (try dsimp only); (repeat' split) <;> first | simp), onEntry_pending _ _ _ _ _ (by intros; (try dsimp only); (repeat' split) <;> first | simp)⟩
theorem execTerminate_completes (a1) (a2) (a3 : State) : (execTerminate a1 a2 a3) = .next (resultOf a3 (execTerminate a1 a2 a3)) := by
  unfold execTerminate
  repeat (first | rfl | split | exact onEntry_completes ..)
theorem execJobTermForced_frame (a1 : State) : (resultOf a1 (execJobTermForced a1)).ident = a1.ident ∧ (resultOf a1 (execJobTermForced a1)).nv = a1.nv ∧ (resultOf a1 (execJobTermForced a1)).top = a1.top ∧ (resultOf a1 (execJobTermForced a1)).mss = a1.mss ∧ (resultOf a1 (execJobTermForced a1)).routineIds = a1.routineIds ∧ (resultOf a1 (execJobTermForced a1)).pending = a1.pending := by
  simp [execJobTermForced]
theorem execJobTermForced_completes (a1 : State) : (execJobTermForced a1) = .next (resultOf a1 (execJobTermForced a1)) := by
  unfold execJobTermForced
  try dsimp only
  repeat' split
  all_goals rfl
theorem execSuspend_frame (a1) (a2) (a3 : State) : (resultOf a3 (execSuspend a1 a2 a3)).ident = a3.ident ∧ (resultOf a3 (execSuspend a1 a2 a3)).nv = a3.nv ∧ (resultOf a3 (execSuspend a1 a2 a3)).top = a3.top ∧ (resultOf a3 (execSuspend a1 a2 a3)).mem = a3.mem ∧ (resultOf a3 (execSuspend a1 a2 a3)).cle = a3.cle ∧ (resultOf a3 (execSuspend a1 a2 a3)).pue0 = a3.pue0 ∧ (resultOf a3 (execSuspend a1 a2 a3)).pue1 = a3.pue1 ∧ (resultOf a3 (execSuspend a1 a2 a3)).cke = a3.cke ∧ (resultOf a3 (execSuspend a1 a2 a3)).pwr = a3.pwr ∧ (resultOf a3 (execSuspend a1 a2 a3)).fab = a3.fab ∧ (resultOf a3 (execSuspend a1 a2 a3)).mss = a3.mss ∧ (resultOf a3 (execSuspend a1 a2 a3)).fresh = a3.fresh ∧ (resultOf a3 (execSuspend a1 a2 a3)).routineIds = a3.routineIds ∧ (resultOf a3 (execSuspend a1 a2 a3)).pending = a3.pending := by
  unfold execSuspend
  exact ⟨onEntry_ident _ _ _ _ _ (by intros; (try dsimp only); (repeat' split) <;> first | simp), onEntry_nv _ _ _ _ _ (by intros; (try dsimp only); (repeat' split) <;> first | simp), onEntry_top _ _ _ _ _ (by intros; (try dsimp only); (repeat' split) <;> first | simp), onEntry_mem _ _ _ _ _ (by intros; (try dsimp only); (repeat' split) <;> first | simp), onEntry_cle _ _ _ _ _ (by intros; (try dsimp only); (repeat' split) <;> first | simp), onEntry_pue0 _ _ _ _ _ (by intros; (try dsimp only); (repeat' split) <;> first | simp), onEntry_pue1 _ _ _ _ _ (by intros; (try dsimp only); (repeat' split) <;> first | simp), onEntry_cke _ _ _ _ _ (by intros; (try dsimp only); (repeat' split) <;> first | simp), onEntry_pwr _ _ _ _ _ (by intros; (try dsimp only); (repeat' split) <;> first | simp), onEntry_fab _ _ _ _ _ (by intros; (try dsimp only); (repeat' split) <;> first | simp), onEntry_mss _ _ _ _ _ (by intros; (try dsimp only); (repeat' split) <;> first | simp), onEntry_fresh _ _ _ _ _ (by intros; (try dsimp only); (repeat' split) <;> first | simp), onEntry_routineIds _ _ _ _ _ (by intros; (try dsimp only); (repeat' split) <;> first | simp), onEntry_pending _ _ _ _ _ (by intros; (try dsimp only); (repeat' split) <;> first | simp)⟩
theorem execSuspend_completes (a1) (a2) (a3 : State) : (execSuspend a1 a2 a3) = .next (resultOf a3 (execSuspend a1 a2 a3)) := by
  unfold execSuspend
  repeat (first | rfl | split | exact onEntry_completes ..)
theorem execSuspended_frame (a1 : State) : (resultOf a1 (execSuspended a1)).ident = a1.ident ∧ (resultOf a1 (execSuspended a1)).nv = a1.nv ∧ (resultOf a1 (execSuspended a1)).top = a1.top ∧ (resultOf a1 (execSuspended a1)).cores = a1.cores ∧ (resultOf a1 (execSuspended a1)).cle = a1.cle ∧ (resultOf a1 (execSuspended a1)).fab = a1.fab ∧ (resultOf a1 (execSuspended a1)).mss = a1.mss ∧ (resultOf a1 (execSuspended a1)).routineIds = a1.routineIds ∧ (resultOf a1 (execSuspended a1)).pending = a1.pending := by
  simp only [execSuspended]
  repeat' split
  all_goals simp
theorem execSuspended_completes (a1 : State) : (execSuspended a1) = .next (resultOf a1 (execSuspended a1)) := by
  unfold execSuspended
  try dsimp only
  repeat' split
  all_goals rfl
theorem execResume_frame (a1) (a2) (a3 : State) : (resultOf a3 (execResume a1 a2 a3)).ident = a3.ident ∧ (resultOf a3 (execResume a1 a2 a3)).nv = a3.nv ∧ (resultOf a3 (execResume a1 a2 a3)).top = a3.top ∧ (resultOf a3 (execResume a1 a2 a3)).mss = a3.mss ∧ (resultOf a3 (execResume a1 a2 a3)).routineIds = a3.routineIds ∧ (resultOf a3 (execResume a1 a2 a3)).pending = a3.pending := by
  unfold execResume
  exact ⟨onEntry_ident _ _ _ _ _ (by intros; (try dsimp only); (repeat' split) <;> first | simp), onEntry_nv _ _ _ _ _ (by intros; (try dsimp only); (repeat' split) <;> first | simp), onEntry_top _ _ _ _ _ (by intros; (try dsimp only); (repeat' split) <;> first | simp), onEntry_mss _ _ _ _ _ (by intros; (try dsimp only); (repeat' split) <;> first | simp), onEntry_routineIds _ _ _ _ _ (by intros; (try dsimp only); (repeat' split) <;> first | simp), onEntry_pending _ _ _ _ _ (by intros; (try dsimp only); (repeat' split) <;> first | simp)⟩
theorem execResume_completes (a1) (a2) (a3 : State) : (execResume a1 a2 a3) = .next (resultOf a3 (execResume a1 a2 a3)) := by
  unfold execResume
  repeat (first | rfl | split | exact onEntry_completes ..)
theorem execRingEnable_frame (a1) (a2) (a3 : State) : (resultOf a3 (execRingEnable a1 a2 a3)).ident = a3.ident ∧ (resultOf a3 (execRingEnable a1 a2 a3)).nv = a3.nv ∧ (resultOf a3 (execRingEnable a1 a2 a3)).cores = a3.cores ∧ (resultOf a3 (execRingEnable a1 a2 a3)).mem = a3.mem ∧ (resultOf a3 (execRingEnable a1 a2 a3)).cle = a3.cle ∧ (resultOf a3 (execRingEnable a1 a2 a3)).pue0 = a3.pue0 ∧ (resultOf a3 (execRingEnable a1 a2 a3)).pue1 = a3.pue1 ∧ (resultOf a3 (execRingEnable a1 a2 a3)).cke = a3.cke ∧ (resultOf a3 (execRingEnable a1 a2 a3)).pwr = a3.pwr ∧ (resultOf a3 (execRingEnable a1 a2 a3)).fab = a3.fab ∧ (resultOf a3 (execRingEnable a1 a2 a3)).mss = a3.mss ∧ (resultOf a3 (execRingEnable a1 a2 a3)).fresh = a3.fresh ∧ (resultOf a3 (execRingEnable a1 a2 a3)).routineIds = a3.routineIds ∧ (resultOf a3 (execRingEnable a1 a2 a3)).pending = a3.pending := by
  simp [execRingEnable]
theorem execRingEnable_completes (a1) (a2) (a3 : State) : (execRingEnable a1 a2 a3) = .next (resultOf a3 (execRingEnable a1 a2 a3)) := by
  unfold execRingEnable
  try dsimp only
  repeat' split
  all_goals rfl
theorem execMsixBindArm_frame (a1) (a2) (a3 : State) : (resultOf a3 (execMsixBindArm a1 a2 a3)).ident = a3.ident ∧ (resultOf a3 (execMsixBindArm a1 a2 a3)).nv = a3.nv ∧ (resultOf a3 (execMsixBindArm a1 a2 a3)).top = a3.top ∧ (resultOf a3 (execMsixBindArm a1 a2 a3)).cores = a3.cores ∧ (resultOf a3 (execMsixBindArm a1 a2 a3)).err = a3.err ∧ (resultOf a3 (execMsixBindArm a1 a2 a3)).mem = a3.mem ∧ (resultOf a3 (execMsixBindArm a1 a2 a3)).cle = a3.cle ∧ (resultOf a3 (execMsixBindArm a1 a2 a3)).pue0 = a3.pue0 ∧ (resultOf a3 (execMsixBindArm a1 a2 a3)).pue1 = a3.pue1 ∧ (resultOf a3 (execMsixBindArm a1 a2 a3)).cke = a3.cke ∧ (resultOf a3 (execMsixBindArm a1 a2 a3)).pwr = a3.pwr ∧ (resultOf a3 (execMsixBindArm a1 a2 a3)).fab = a3.fab ∧ (resultOf a3 (execMsixBindArm a1 a2 a3)).pmu = a3.pmu ∧ (resultOf a3 (execMsixBindArm a1 a2 a3)).mss = a3.mss ∧ (resultOf a3 (execMsixBindArm a1 a2 a3)).fresh = a3.fresh ∧ (resultOf a3 (execMsixBindArm a1 a2 a3)).routineIds = a3.routineIds ∧ (resultOf a3 (execMsixBindArm a1 a2 a3)).pending = a3.pending := by
  simp [execMsixBindArm]
theorem execMsixBindArm_completes (a1) (a2) (a3 : State) : (execMsixBindArm a1 a2 a3) = .next (resultOf a3 (execMsixBindArm a1 a2 a3)) := by
  unfold execMsixBindArm
  try dsimp only
  repeat' split
  all_goals rfl
theorem execMsixModExpiry_frame (a1 : State) : (resultOf a1 (execMsixModExpiry a1)).ident = a1.ident ∧ (resultOf a1 (execMsixModExpiry a1)).nv = a1.nv ∧ (resultOf a1 (execMsixModExpiry a1)).top = a1.top ∧ (resultOf a1 (execMsixModExpiry a1)).cores = a1.cores ∧ (resultOf a1 (execMsixModExpiry a1)).err = a1.err ∧ (resultOf a1 (execMsixModExpiry a1)).mem = a1.mem ∧ (resultOf a1 (execMsixModExpiry a1)).cle = a1.cle ∧ (resultOf a1 (execMsixModExpiry a1)).pue0 = a1.pue0 ∧ (resultOf a1 (execMsixModExpiry a1)).pue1 = a1.pue1 ∧ (resultOf a1 (execMsixModExpiry a1)).cke = a1.cke ∧ (resultOf a1 (execMsixModExpiry a1)).pwr = a1.pwr ∧ (resultOf a1 (execMsixModExpiry a1)).fab = a1.fab ∧ (resultOf a1 (execMsixModExpiry a1)).pmu = a1.pmu ∧ (resultOf a1 (execMsixModExpiry a1)).mss = a1.mss ∧ (resultOf a1 (execMsixModExpiry a1)).fresh = a1.fresh ∧ (resultOf a1 (execMsixModExpiry a1)).routineIds = a1.routineIds ∧ (resultOf a1 (execMsixModExpiry a1)).pending = a1.pending := by
  simp [execMsixModExpiry]
theorem execMsixModExpiry_completes (a1 : State) : (execMsixModExpiry a1) = .next (resultOf a1 (execMsixModExpiry a1)) := by
  unfold execMsixModExpiry
  try dsimp only
  repeat' split
  all_goals rfl
theorem execSeqFlagAdd_frame (a1) (a2) (a3) (a4 : State) : (resultOf a4 (execSeqFlagAdd a1 a2 a3 a4)).ident = a4.ident ∧ (resultOf a4 (execSeqFlagAdd a1 a2 a3 a4)).nv = a4.nv ∧ (resultOf a4 (execSeqFlagAdd a1 a2 a3 a4)).top = a4.top ∧ (resultOf a4 (execSeqFlagAdd a1 a2 a3 a4)).hub = a4.hub ∧ (resultOf a4 (execSeqFlagAdd a1 a2 a3 a4)).err = a4.err ∧ (resultOf a4 (execSeqFlagAdd a1 a2 a3 a4)).mem = a4.mem ∧ (resultOf a4 (execSeqFlagAdd a1 a2 a3 a4)).cle = a4.cle ∧ (resultOf a4 (execSeqFlagAdd a1 a2 a3 a4)).pue0 = a4.pue0 ∧ (resultOf a4 (execSeqFlagAdd a1 a2 a3 a4)).pue1 = a4.pue1 ∧ (resultOf a4 (execSeqFlagAdd a1 a2 a3 a4)).cke = a4.cke ∧ (resultOf a4 (execSeqFlagAdd a1 a2 a3 a4)).fab = a4.fab ∧ (resultOf a4 (execSeqFlagAdd a1 a2 a3 a4)).pmu = a4.pmu ∧ (resultOf a4 (execSeqFlagAdd a1 a2 a3 a4)).mss = a4.mss ∧ (resultOf a4 (execSeqFlagAdd a1 a2 a3 a4)).sent = a4.sent ∧ (resultOf a4 (execSeqFlagAdd a1 a2 a3 a4)).fresh = a4.fresh ∧ (resultOf a4 (execSeqFlagAdd a1 a2 a3 a4)).routineIds = a4.routineIds ∧ (resultOf a4 (execSeqFlagAdd a1 a2 a3 a4)).pending = a4.pending := by
  simp [execSeqFlagAdd]
theorem execSeqFlagAdd_completes (a1) (a2) (a3) (a4 : State) : (execSeqFlagAdd a1 a2 a3 a4) = .next (resultOf a4 (execSeqFlagAdd a1 a2 a3 a4)) := by
  unfold execSeqFlagAdd
  try dsimp only
  repeat' split
  all_goals rfl
theorem execHubFlagAdd_frame (a1) (a2) (a3 : State) : (resultOf a3 (execHubFlagAdd a1 a2 a3)).ident = a3.ident ∧ (resultOf a3 (execHubFlagAdd a1 a2 a3)).nv = a3.nv ∧ (resultOf a3 (execHubFlagAdd a1 a2 a3)).top = a3.top ∧ (resultOf a3 (execHubFlagAdd a1 a2 a3)).cores = a3.cores ∧ (resultOf a3 (execHubFlagAdd a1 a2 a3)).mem = a3.mem ∧ (resultOf a3 (execHubFlagAdd a1 a2 a3)).cle = a3.cle ∧ (resultOf a3 (execHubFlagAdd a1 a2 a3)).pue0 = a3.pue0 ∧ (resultOf a3 (execHubFlagAdd a1 a2 a3)).pue1 = a3.pue1 ∧ (resultOf a3 (execHubFlagAdd a1 a2 a3)).cke = a3.cke ∧ (resultOf a3 (execHubFlagAdd a1 a2 a3)).pwr = a3.pwr ∧ (resultOf a3 (execHubFlagAdd a1 a2 a3)).fab = a3.fab ∧ (resultOf a3 (execHubFlagAdd a1 a2 a3)).mss = a3.mss ∧ (resultOf a3 (execHubFlagAdd a1 a2 a3)).fresh = a3.fresh ∧ (resultOf a3 (execHubFlagAdd a1 a2 a3)).routineIds = a3.routineIds ∧ (resultOf a3 (execHubFlagAdd a1 a2 a3)).pending = a3.pending := by
  simp [execHubFlagAdd]
theorem execHubFlagAdd_completes (a1) (a2) (a3 : State) : (execHubFlagAdd a1 a2 a3) = .next (resultOf a3 (execHubFlagAdd a1 a2 a3)) := by
  unfold execHubFlagAdd
  try dsimp only
  repeat' split
  all_goals rfl
theorem execDlkStatusClear_frame (a1) (a2 : State) : (resultOf a2 (execDlkStatusClear a1 a2)).ident = a2.ident ∧ (resultOf a2 (execDlkStatusClear a1 a2)).nv = a2.nv ∧ (resultOf a2 (execDlkStatusClear a1 a2)).top = a2.top ∧ (resultOf a2 (execDlkStatusClear a1 a2)).cores = a2.cores ∧ (resultOf a2 (execDlkStatusClear a1 a2)).err = a2.err ∧ (resultOf a2 (execDlkStatusClear a1 a2)).mem = a2.mem ∧ (resultOf a2 (execDlkStatusClear a1 a2)).cle = a2.cle ∧ (resultOf a2 (execDlkStatusClear a1 a2)).pue0 = a2.pue0 ∧ (resultOf a2 (execDlkStatusClear a1 a2)).pue1 = a2.pue1 ∧ (resultOf a2 (execDlkStatusClear a1 a2)).cke = a2.cke ∧ (resultOf a2 (execDlkStatusClear a1 a2)).pwr = a2.pwr ∧ (resultOf a2 (execDlkStatusClear a1 a2)).fab = a2.fab ∧ (resultOf a2 (execDlkStatusClear a1 a2)).pmu = a2.pmu ∧ (resultOf a2 (execDlkStatusClear a1 a2)).mss = a2.mss ∧ (resultOf a2 (execDlkStatusClear a1 a2)).sent = a2.sent ∧ (resultOf a2 (execDlkStatusClear a1 a2)).fresh = a2.fresh ∧ (resultOf a2 (execDlkStatusClear a1 a2)).routineIds = a2.routineIds ∧ (resultOf a2 (execDlkStatusClear a1 a2)).pending = a2.pending := by
  simp [execDlkStatusClear]
theorem execDlkStatusClear_completes (a1) (a2 : State) : (execDlkStatusClear a1 a2) = .next (resultOf a2 (execDlkStatusClear a1 a2)) := by
  unfold execDlkStatusClear
  try dsimp only
  repeat' split
  all_goals rfl
theorem execMxuInject_frame (a1) (a2) (a3 : State) : (resultOf a3 (execMxuInject a1 a2 a3)).ident = a3.ident ∧ (resultOf a3 (execMxuInject a1 a2 a3)).nv = a3.nv ∧ (resultOf a3 (execMxuInject a1 a2 a3)).top = a3.top ∧ (resultOf a3 (execMxuInject a1 a2 a3)).hub = a3.hub ∧ (resultOf a3 (execMxuInject a1 a2 a3)).err = a3.err ∧ (resultOf a3 (execMxuInject a1 a2 a3)).mem = a3.mem ∧ (resultOf a3 (execMxuInject a1 a2 a3)).cle = a3.cle ∧ (resultOf a3 (execMxuInject a1 a2 a3)).pue0 = a3.pue0 ∧ (resultOf a3 (execMxuInject a1 a2 a3)).pue1 = a3.pue1 ∧ (resultOf a3 (execMxuInject a1 a2 a3)).cke = a3.cke ∧ (resultOf a3 (execMxuInject a1 a2 a3)).fab = a3.fab ∧ (resultOf a3 (execMxuInject a1 a2 a3)).pmu = a3.pmu ∧ (resultOf a3 (execMxuInject a1 a2 a3)).mss = a3.mss ∧ (resultOf a3 (execMxuInject a1 a2 a3)).sent = a3.sent ∧ (resultOf a3 (execMxuInject a1 a2 a3)).fresh = a3.fresh ∧ (resultOf a3 (execMxuInject a1 a2 a3)).routineIds = a3.routineIds ∧ (resultOf a3 (execMxuInject a1 a2 a3)).pending = a3.pending := by
  simp [execMxuInject]
theorem execMxuInject_completes (a1) (a2) (a3 : State) : (execMxuInject a1 a2 a3) = .next (resultOf a3 (execMxuInject a1 a2 a3)) := by
  unfold execMxuInject
  try dsimp only
  repeat' split
  all_goals rfl
theorem execLaserEnable_frame (a1) (a2 : State) : (resultOf a2 (execLaserEnable a1 a2)).ident = a2.ident ∧ (resultOf a2 (execLaserEnable a1 a2)).nv = a2.nv ∧ (resultOf a2 (execLaserEnable a1 a2)).top = a2.top ∧ (resultOf a2 (execLaserEnable a1 a2)).cores = a2.cores ∧ (resultOf a2 (execLaserEnable a1 a2)).mem = a2.mem ∧ (resultOf a2 (execLaserEnable a1 a2)).cle = a2.cle ∧ (resultOf a2 (execLaserEnable a1 a2)).pue0 = a2.pue0 ∧ (resultOf a2 (execLaserEnable a1 a2)).pue1 = a2.pue1 ∧ (resultOf a2 (execLaserEnable a1 a2)).cke = a2.cke ∧ (resultOf a2 (execLaserEnable a1 a2)).pwr = a2.pwr ∧ (resultOf a2 (execLaserEnable a1 a2)).mss = a2.mss ∧ (resultOf a2 (execLaserEnable a1 a2)).fresh = a2.fresh ∧ (resultOf a2 (execLaserEnable a1 a2)).routineIds = a2.routineIds ∧ (resultOf a2 (execLaserEnable a1 a2)).pending = a2.pending := by
  simp [execLaserEnable]
theorem execLaserEnable_completes (a1) (a2 : State) : (execLaserEnable a1 a2) = .next (resultOf a2 (execLaserEnable a1 a2)) := by
  unfold execLaserEnable
  try dsimp only
  repeat' split
  all_goals rfl
theorem execLaserFaultClear_frame (a1) (a2 : State) : (resultOf a2 (execLaserFaultClear a1 a2)).ident = a2.ident ∧ (resultOf a2 (execLaserFaultClear a1 a2)).nv = a2.nv ∧ (resultOf a2 (execLaserFaultClear a1 a2)).top = a2.top ∧ (resultOf a2 (execLaserFaultClear a1 a2)).cores = a2.cores ∧ (resultOf a2 (execLaserFaultClear a1 a2)).mem = a2.mem ∧ (resultOf a2 (execLaserFaultClear a1 a2)).cle = a2.cle ∧ (resultOf a2 (execLaserFaultClear a1 a2)).pue0 = a2.pue0 ∧ (resultOf a2 (execLaserFaultClear a1 a2)).pue1 = a2.pue1 ∧ (resultOf a2 (execLaserFaultClear a1 a2)).cke = a2.cke ∧ (resultOf a2 (execLaserFaultClear a1 a2)).pwr = a2.pwr ∧ (resultOf a2 (execLaserFaultClear a1 a2)).mss = a2.mss ∧ (resultOf a2 (execLaserFaultClear a1 a2)).fresh = a2.fresh ∧ (resultOf a2 (execLaserFaultClear a1 a2)).routineIds = a2.routineIds ∧ (resultOf a2 (execLaserFaultClear a1 a2)).pending = a2.pending := by
  simp [execLaserFaultClear]
theorem execLaserFaultClear_completes (a1) (a2 : State) : (execLaserFaultClear a1 a2) = .next (resultOf a2 (execLaserFaultClear a1 a2)) := by
  unfold execLaserFaultClear
  try dsimp only
  repeat' split
  all_goals rfl
theorem execFabLaserFault_frame (a1) (a2 : State) : (resultOf a2 (execFabLaserFault a1 a2)).ident = a2.ident ∧ (resultOf a2 (execFabLaserFault a1 a2)).nv = a2.nv ∧ (resultOf a2 (execFabLaserFault a1 a2)).top = a2.top ∧ (resultOf a2 (execFabLaserFault a1 a2)).cores = a2.cores ∧ (resultOf a2 (execFabLaserFault a1 a2)).mem = a2.mem ∧ (resultOf a2 (execFabLaserFault a1 a2)).cle = a2.cle ∧ (resultOf a2 (execFabLaserFault a1 a2)).pue0 = a2.pue0 ∧ (resultOf a2 (execFabLaserFault a1 a2)).pue1 = a2.pue1 ∧ (resultOf a2 (execFabLaserFault a1 a2)).cke = a2.cke ∧ (resultOf a2 (execFabLaserFault a1 a2)).pwr = a2.pwr ∧ (resultOf a2 (execFabLaserFault a1 a2)).mss = a2.mss ∧ (resultOf a2 (execFabLaserFault a1 a2)).fresh = a2.fresh ∧ (resultOf a2 (execFabLaserFault a1 a2)).routineIds = a2.routineIds ∧ (resultOf a2 (execFabLaserFault a1 a2)).pending = a2.pending := by
  simp [execFabLaserFault]
theorem execFabLaserFault_completes (a1) (a2 : State) : (execFabLaserFault a1 a2) = .next (resultOf a2 (execFabLaserFault a1 a2)) := by
  unfold execFabLaserFault
  try dsimp only
  repeat' split
  all_goals simp
theorem execFeedPowerCheck_frame (a1) (a2) (a3 : State) : (resultOf a3 (execFeedPowerCheck a1 a2 a3)).ident = a3.ident ∧ (resultOf a3 (execFeedPowerCheck a1 a2 a3)).nv = a3.nv ∧ (resultOf a3 (execFeedPowerCheck a1 a2 a3)).top = a3.top ∧ (resultOf a3 (execFeedPowerCheck a1 a2 a3)).cores = a3.cores ∧ (resultOf a3 (execFeedPowerCheck a1 a2 a3)).mem = a3.mem ∧ (resultOf a3 (execFeedPowerCheck a1 a2 a3)).cle = a3.cle ∧ (resultOf a3 (execFeedPowerCheck a1 a2 a3)).pue0 = a3.pue0 ∧ (resultOf a3 (execFeedPowerCheck a1 a2 a3)).pue1 = a3.pue1 ∧ (resultOf a3 (execFeedPowerCheck a1 a2 a3)).cke = a3.cke ∧ (resultOf a3 (execFeedPowerCheck a1 a2 a3)).pwr = a3.pwr ∧ (resultOf a3 (execFeedPowerCheck a1 a2 a3)).mss = a3.mss ∧ (resultOf a3 (execFeedPowerCheck a1 a2 a3)).fresh = a3.fresh ∧ (resultOf a3 (execFeedPowerCheck a1 a2 a3)).routineIds = a3.routineIds ∧ (resultOf a3 (execFeedPowerCheck a1 a2 a3)).pending = a3.pending := by
  simp [execFeedPowerCheck]
theorem execFeedPowerCheck_completes (a1) (a2) (a3 : State) : (execFeedPowerCheck a1 a2 a3) = .next (resultOf a3 (execFeedPowerCheck a1 a2 a3)) := by
  unfold execFeedPowerCheck
  try dsimp only
  repeat' split
  all_goals simp
theorem execFeedPowerLow_frame (a1) (a2) (a3 : State) : (resultOf a3 (execFeedPowerLow a1 a2 a3)).ident = a3.ident ∧ (resultOf a3 (execFeedPowerLow a1 a2 a3)).nv = a3.nv ∧ (resultOf a3 (execFeedPowerLow a1 a2 a3)).top = a3.top ∧ (resultOf a3 (execFeedPowerLow a1 a2 a3)).cores = a3.cores ∧ (resultOf a3 (execFeedPowerLow a1 a2 a3)).mem = a3.mem ∧ (resultOf a3 (execFeedPowerLow a1 a2 a3)).cle = a3.cle ∧ (resultOf a3 (execFeedPowerLow a1 a2 a3)).pue0 = a3.pue0 ∧ (resultOf a3 (execFeedPowerLow a1 a2 a3)).pue1 = a3.pue1 ∧ (resultOf a3 (execFeedPowerLow a1 a2 a3)).cke = a3.cke ∧ (resultOf a3 (execFeedPowerLow a1 a2 a3)).pwr = a3.pwr ∧ (resultOf a3 (execFeedPowerLow a1 a2 a3)).mss = a3.mss ∧ (resultOf a3 (execFeedPowerLow a1 a2 a3)).fresh = a3.fresh ∧ (resultOf a3 (execFeedPowerLow a1 a2 a3)).routineIds = a3.routineIds ∧ (resultOf a3 (execFeedPowerLow a1 a2 a3)).pending = a3.pending := by
  simp [execFeedPowerLow]
theorem execFeedPowerLow_completes (a1) (a2) (a3 : State) : (execFeedPowerLow a1 a2 a3) = .next (resultOf a3 (execFeedPowerLow a1 a2 a3)) := by
  unfold execFeedPowerLow
  try dsimp only
  repeat' split
  all_goals simp
theorem execLaserPoll_frame (a1) (a2) (a3) (a4 : State) : (resultOf a4 (execLaserPoll a1 a2 a3 a4)).ident = a4.ident ∧ (resultOf a4 (execLaserPoll a1 a2 a3 a4)).nv = a4.nv ∧ (resultOf a4 (execLaserPoll a1 a2 a3 a4)).top = a4.top ∧ (resultOf a4 (execLaserPoll a1 a2 a3 a4)).cores = a4.cores ∧ (resultOf a4 (execLaserPoll a1 a2 a3 a4)).mem = a4.mem ∧ (resultOf a4 (execLaserPoll a1 a2 a3 a4)).cle = a4.cle ∧ (resultOf a4 (execLaserPoll a1 a2 a3 a4)).pue0 = a4.pue0 ∧ (resultOf a4 (execLaserPoll a1 a2 a3 a4)).pue1 = a4.pue1 ∧ (resultOf a4 (execLaserPoll a1 a2 a3 a4)).cke = a4.cke ∧ (resultOf a4 (execLaserPoll a1 a2 a3 a4)).pwr = a4.pwr ∧ (resultOf a4 (execLaserPoll a1 a2 a3 a4)).mss = a4.mss ∧ (resultOf a4 (execLaserPoll a1 a2 a3 a4)).fresh = a4.fresh ∧ (resultOf a4 (execLaserPoll a1 a2 a3 a4)).routineIds = a4.routineIds ∧ (resultOf a4 (execLaserPoll a1 a2 a3 a4)).pending = a4.pending := by
  simp [execLaserPoll]
theorem execLaserPoll_completes (a1) (a2) (a3) (a4 : State) : (execLaserPoll a1 a2 a3 a4) = .next (resultOf a4 (execLaserPoll a1 a2 a3 a4)) := by
  unfold execLaserPoll
  try dsimp only
  repeat' split
  all_goals simp
theorem execFatalHandlingEnd_frame (a1 : State) : (resultOf a1 (execFatalHandlingEnd a1)).ident = a1.ident ∧ (resultOf a1 (execFatalHandlingEnd a1)).nv = a1.nv ∧ (resultOf a1 (execFatalHandlingEnd a1)).top = a1.top ∧ (resultOf a1 (execFatalHandlingEnd a1)).cores = a1.cores ∧ (resultOf a1 (execFatalHandlingEnd a1)).hub = a1.hub ∧ (resultOf a1 (execFatalHandlingEnd a1)).mem = a1.mem ∧ (resultOf a1 (execFatalHandlingEnd a1)).cle = a1.cle ∧ (resultOf a1 (execFatalHandlingEnd a1)).pue0 = a1.pue0 ∧ (resultOf a1 (execFatalHandlingEnd a1)).pue1 = a1.pue1 ∧ (resultOf a1 (execFatalHandlingEnd a1)).cke = a1.cke ∧ (resultOf a1 (execFatalHandlingEnd a1)).pwr = a1.pwr ∧ (resultOf a1 (execFatalHandlingEnd a1)).fab = a1.fab ∧ (resultOf a1 (execFatalHandlingEnd a1)).pmu = a1.pmu ∧ (resultOf a1 (execFatalHandlingEnd a1)).mss = a1.mss ∧ (resultOf a1 (execFatalHandlingEnd a1)).sent = a1.sent ∧ (resultOf a1 (execFatalHandlingEnd a1)).fresh = a1.fresh ∧ (resultOf a1 (execFatalHandlingEnd a1)).routineIds = a1.routineIds ∧ (resultOf a1 (execFatalHandlingEnd a1)).pending = a1.pending := by
  simp [execFatalHandlingEnd]
theorem execFatalHandlingEnd_completes (a1 : State) : (execFatalHandlingEnd a1) = .next (resultOf a1 (execFatalHandlingEnd a1)) := by
  unfold execFatalHandlingEnd
  try dsimp only
  repeat' split
  all_goals rfl
theorem execErrorRecord_frame (a1 : State) : (resultOf a1 (execErrorRecord a1)).ident = a1.ident ∧ (resultOf a1 (execErrorRecord a1)).nv = a1.nv ∧ (resultOf a1 (execErrorRecord a1)).top = a1.top ∧ (resultOf a1 (execErrorRecord a1)).routineIds = a1.routineIds ∧ (resultOf a1 (execErrorRecord a1)).pending = a1.pending := by
  simp only [execErrorRecord]
  repeat' split
  all_goals simp
theorem execErrorRecord_completes (a1 : State) : (execErrorRecord a1) = .next (resultOf a1 (execErrorRecord a1)) := by
  unfold execErrorRecord
  try dsimp only
  repeat' split
  all_goals rfl
theorem execRecordAcknowledge_frame (a1) (a2 : State) : (resultOf a2 (execRecordAcknowledge a1 a2)).ident = a2.ident ∧ (resultOf a2 (execRecordAcknowledge a1 a2)).nv = a2.nv ∧ (resultOf a2 (execRecordAcknowledge a1 a2)).top = a2.top ∧ (resultOf a2 (execRecordAcknowledge a1 a2)).cores = a2.cores ∧ (resultOf a2 (execRecordAcknowledge a1 a2)).hub = a2.hub ∧ (resultOf a2 (execRecordAcknowledge a1 a2)).mem = a2.mem ∧ (resultOf a2 (execRecordAcknowledge a1 a2)).cle = a2.cle ∧ (resultOf a2 (execRecordAcknowledge a1 a2)).pue0 = a2.pue0 ∧ (resultOf a2 (execRecordAcknowledge a1 a2)).pue1 = a2.pue1 ∧ (resultOf a2 (execRecordAcknowledge a1 a2)).cke = a2.cke ∧ (resultOf a2 (execRecordAcknowledge a1 a2)).pwr = a2.pwr ∧ (resultOf a2 (execRecordAcknowledge a1 a2)).fab = a2.fab ∧ (resultOf a2 (execRecordAcknowledge a1 a2)).pmu = a2.pmu ∧ (resultOf a2 (execRecordAcknowledge a1 a2)).mss = a2.mss ∧ (resultOf a2 (execRecordAcknowledge a1 a2)).sent = a2.sent ∧ (resultOf a2 (execRecordAcknowledge a1 a2)).fresh = a2.fresh ∧ (resultOf a2 (execRecordAcknowledge a1 a2)).routineIds = a2.routineIds ∧ (resultOf a2 (execRecordAcknowledge a1 a2)).pending = a2.pending := by
  simp [execRecordAcknowledge]
theorem execRecordAcknowledge_completes (a1) (a2 : State) : (execRecordAcknowledge a1 a2) = .next (resultOf a2 (execRecordAcknowledge a1 a2)) := by
  unfold execRecordAcknowledge
  try dsimp only
  repeat' split
  all_goals rfl
theorem execFatalClear_frame (a1) (a2 : State) : (resultOf a2 (execFatalClear a1 a2)).ident = a2.ident ∧ (resultOf a2 (execFatalClear a1 a2)).nv = a2.nv ∧ (resultOf a2 (execFatalClear a1 a2)).top = a2.top ∧ (resultOf a2 (execFatalClear a1 a2)).cores = a2.cores ∧ (resultOf a2 (execFatalClear a1 a2)).hub = a2.hub ∧ (resultOf a2 (execFatalClear a1 a2)).mem = a2.mem ∧ (resultOf a2 (execFatalClear a1 a2)).cle = a2.cle ∧ (resultOf a2 (execFatalClear a1 a2)).pue0 = a2.pue0 ∧ (resultOf a2 (execFatalClear a1 a2)).pue1 = a2.pue1 ∧ (resultOf a2 (execFatalClear a1 a2)).cke = a2.cke ∧ (resultOf a2 (execFatalClear a1 a2)).pwr = a2.pwr ∧ (resultOf a2 (execFatalClear a1 a2)).fab = a2.fab ∧ (resultOf a2 (execFatalClear a1 a2)).pmu = a2.pmu ∧ (resultOf a2 (execFatalClear a1 a2)).mss = a2.mss ∧ (resultOf a2 (execFatalClear a1 a2)).sent = a2.sent ∧ (resultOf a2 (execFatalClear a1 a2)).fresh = a2.fresh ∧ (resultOf a2 (execFatalClear a1 a2)).routineIds = a2.routineIds ∧ (resultOf a2 (execFatalClear a1 a2)).pending = a2.pending := by
  simp [execFatalClear]
theorem execFatalClear_completes (a1) (a2 : State) : (execFatalClear a1 a2) = .next (resultOf a2 (execFatalClear a1 a2)) := by
  unfold execFatalClear
  try dsimp only
  repeat' split
  all_goals rfl
theorem execErrInject_frame (a1) (a2 : State) : (resultOf a2 (execErrInject a1 a2)).ident = a2.ident ∧ (resultOf a2 (execErrInject a1 a2)).nv = a2.nv ∧ (resultOf a2 (execErrInject a1 a2)).top = a2.top ∧ (resultOf a2 (execErrInject a1 a2)).cores = a2.cores ∧ (resultOf a2 (execErrInject a1 a2)).mem = a2.mem ∧ (resultOf a2 (execErrInject a1 a2)).cle = a2.cle ∧ (resultOf a2 (execErrInject a1 a2)).pue0 = a2.pue0 ∧ (resultOf a2 (execErrInject a1 a2)).pue1 = a2.pue1 ∧ (resultOf a2 (execErrInject a1 a2)).cke = a2.cke ∧ (resultOf a2 (execErrInject a1 a2)).pwr = a2.pwr ∧ (resultOf a2 (execErrInject a1 a2)).fab = a2.fab ∧ (resultOf a2 (execErrInject a1 a2)).mss = a2.mss ∧ (resultOf a2 (execErrInject a1 a2)).fresh = a2.fresh ∧ (resultOf a2 (execErrInject a1 a2)).routineIds = a2.routineIds ∧ (resultOf a2 (execErrInject a1 a2)).pending = a2.pending := by
  simp [execErrInject]
theorem execErrInject_completes (a1) (a2 : State) : (execErrInject a1 a2) = .next (resultOf a2 (execErrInject a1 a2)) := by
  unfold execErrInject
  try dsimp only
  repeat' split
  all_goals rfl
theorem execResetArm_frame (a1) (a2 : State) : (resultOf a2 (execResetArm a1 a2)).ident = a2.ident ∧ (resultOf a2 (execResetArm a1 a2)).nv = a2.nv ∧ (resultOf a2 (execResetArm a1 a2)).pending = a2.pending := by
  simp [execResetArm]
theorem execResetArm_completes (a1) (a2 : State) : (execResetArm a1 a2) = .next (resultOf a2 (execResetArm a1 a2)) := by
  unfold execResetArm
  try dsimp only
  repeat' split
  all_goals rfl
theorem execResetDisarm_frame (a1) (a2 : State) : (resultOf a2 (execResetDisarm a1 a2)).ident = a2.ident ∧ (resultOf a2 (execResetDisarm a1 a2)).nv = a2.nv ∧ (resultOf a2 (execResetDisarm a1 a2)).pending = a2.pending := by
  simp [execResetDisarm]
theorem execResetDisarm_completes (a1) (a2 : State) : (execResetDisarm a1 a2) = .next (resultOf a2 (execResetDisarm a1 a2)) := by
  unfold execResetDisarm
  try dsimp only
  repeat' split
  all_goals rfl
theorem execTopResetArmExpiry_frame (a1 : State) : (resultOf a1 (execTopResetArmExpiry a1)).ident = a1.ident ∧ (resultOf a1 (execTopResetArmExpiry a1)).nv = a1.nv ∧ (resultOf a1 (execTopResetArmExpiry a1)).cores = a1.cores ∧ (resultOf a1 (execTopResetArmExpiry a1)).hub = a1.hub ∧ (resultOf a1 (execTopResetArmExpiry a1)).err = a1.err ∧ (resultOf a1 (execTopResetArmExpiry a1)).mem = a1.mem ∧ (resultOf a1 (execTopResetArmExpiry a1)).cle = a1.cle ∧ (resultOf a1 (execTopResetArmExpiry a1)).pue0 = a1.pue0 ∧ (resultOf a1 (execTopResetArmExpiry a1)).pue1 = a1.pue1 ∧ (resultOf a1 (execTopResetArmExpiry a1)).cke = a1.cke ∧ (resultOf a1 (execTopResetArmExpiry a1)).pwr = a1.pwr ∧ (resultOf a1 (execTopResetArmExpiry a1)).fab = a1.fab ∧ (resultOf a1 (execTopResetArmExpiry a1)).pmu = a1.pmu ∧ (resultOf a1 (execTopResetArmExpiry a1)).mss = a1.mss ∧ (resultOf a1 (execTopResetArmExpiry a1)).sent = a1.sent ∧ (resultOf a1 (execTopResetArmExpiry a1)).fresh = a1.fresh ∧ (resultOf a1 (execTopResetArmExpiry a1)).routineIds = a1.routineIds ∧ (resultOf a1 (execTopResetArmExpiry a1)).pending = a1.pending := by
  simp [execTopResetArmExpiry]
theorem execTopResetArmExpiry_completes (a1 : State) : (execTopResetArmExpiry a1) = .next (resultOf a1 (execTopResetArmExpiry a1)) := by
  unfold execTopResetArmExpiry
  try dsimp only
  repeat' split
  all_goals rfl
theorem execHubPreservingReset_frame (a1) (a2 : State) : (resultOf a2 (execHubPreservingReset a1 a2)).ident = a2.ident ∧ (resultOf a2 (execHubPreservingReset a1 a2)).nv = a2.nv ∧ (resultOf a2 (execHubPreservingReset a1 a2)).pending = a2.pending := by
  simp [execHubPreservingReset]
theorem execHubPreservingReset_completes (a1) (a2 : State) : (execHubPreservingReset a1 a2) = .next (resultOf a2 (execHubPreservingReset a1 a2)) := by
  unfold execHubPreservingReset
  try dsimp only
  repeat' split
  all_goals rfl
theorem execWarmReset_frame (a1) (a2) (a3 : State) : (resultOf a3 (execWarmReset a1 a2 a3)).ident = a3.ident ∧ (resultOf a3 (execWarmReset a1 a2 a3)).nv = a3.nv ∧ (resultOf a3 (execWarmReset a1 a2 a3)).pending = a3.pending := by
  simp only [execWarmReset]
  repeat' split
  all_goals simp
theorem execWarmReset_completes (a1) (a2) (a3 : State) : (execWarmReset a1 a2 a3) = .next (resultOf a3 (execWarmReset a1 a2 a3)) := by
  unfold execWarmReset
  try dsimp only
  repeat' split
  all_goals rfl
theorem execPerstNDeassert_frame (a1) (a2 : State) : (resultOf a2 (execPerstNDeassert a1 a2)).ident = a2.ident ∧ (resultOf a2 (execPerstNDeassert a1 a2)).nv = a2.nv ∧ (resultOf a2 (execPerstNDeassert a1 a2)).top = a2.top ∧ (resultOf a2 (execPerstNDeassert a1 a2)).cores = a2.cores ∧ (resultOf a2 (execPerstNDeassert a1 a2)).err = a2.err ∧ (resultOf a2 (execPerstNDeassert a1 a2)).mem = a2.mem ∧ (resultOf a2 (execPerstNDeassert a1 a2)).cle = a2.cle ∧ (resultOf a2 (execPerstNDeassert a1 a2)).pue0 = a2.pue0 ∧ (resultOf a2 (execPerstNDeassert a1 a2)).pue1 = a2.pue1 ∧ (resultOf a2 (execPerstNDeassert a1 a2)).cke = a2.cke ∧ (resultOf a2 (execPerstNDeassert a1 a2)).pwr = a2.pwr ∧ (resultOf a2 (execPerstNDeassert a1 a2)).fab = a2.fab ∧ (resultOf a2 (execPerstNDeassert a1 a2)).pmu = a2.pmu ∧ (resultOf a2 (execPerstNDeassert a1 a2)).mss = a2.mss ∧ (resultOf a2 (execPerstNDeassert a1 a2)).sent = a2.sent ∧ (resultOf a2 (execPerstNDeassert a1 a2)).fresh = a2.fresh ∧ (resultOf a2 (execPerstNDeassert a1 a2)).routineIds = a2.routineIds ∧ (resultOf a2 (execPerstNDeassert a1 a2)).pending = a2.pending := by
  simp [execPerstNDeassert]
theorem execPerstNDeassert_completes (a1) (a2 : State) : (execPerstNDeassert a1 a2) = .next (resultOf a2 (execPerstNDeassert a1 a2)) := by
  unfold execPerstNDeassert
  try dsimp only
  repeat' split
  all_goals rfl
theorem execHostLinkDown_frame (a1 : State) : (resultOf a1 (execHostLinkDown a1)).ident = a1.ident ∧ (resultOf a1 (execHostLinkDown a1)).nv = a1.nv ∧ (resultOf a1 (execHostLinkDown a1)).top = a1.top ∧ (resultOf a1 (execHostLinkDown a1)).cores = a1.cores ∧ (resultOf a1 (execHostLinkDown a1)).mem = a1.mem ∧ (resultOf a1 (execHostLinkDown a1)).cle = a1.cle ∧ (resultOf a1 (execHostLinkDown a1)).pue0 = a1.pue0 ∧ (resultOf a1 (execHostLinkDown a1)).pue1 = a1.pue1 ∧ (resultOf a1 (execHostLinkDown a1)).cke = a1.cke ∧ (resultOf a1 (execHostLinkDown a1)).pwr = a1.pwr ∧ (resultOf a1 (execHostLinkDown a1)).fab = a1.fab ∧ (resultOf a1 (execHostLinkDown a1)).mss = a1.mss ∧ (resultOf a1 (execHostLinkDown a1)).fresh = a1.fresh ∧ (resultOf a1 (execHostLinkDown a1)).routineIds = a1.routineIds ∧ (resultOf a1 (execHostLinkDown a1)).pending = a1.pending := by
  simp [execHostLinkDown]
theorem execHostLinkDown_completes (a1 : State) : (execHostLinkDown a1) = .next (resultOf a1 (execHostLinkDown a1)) := by
  unfold execHostLinkDown
  try dsimp only
  repeat' split
  all_goals rfl
theorem execHostLinkRetrain_frame (a1 : State) : (resultOf a1 (execHostLinkRetrain a1)).ident = a1.ident ∧ (resultOf a1 (execHostLinkRetrain a1)).nv = a1.nv ∧ (resultOf a1 (execHostLinkRetrain a1)).top = a1.top ∧ (resultOf a1 (execHostLinkRetrain a1)).cores = a1.cores ∧ (resultOf a1 (execHostLinkRetrain a1)).err = a1.err ∧ (resultOf a1 (execHostLinkRetrain a1)).mem = a1.mem ∧ (resultOf a1 (execHostLinkRetrain a1)).cle = a1.cle ∧ (resultOf a1 (execHostLinkRetrain a1)).pue0 = a1.pue0 ∧ (resultOf a1 (execHostLinkRetrain a1)).pue1 = a1.pue1 ∧ (resultOf a1 (execHostLinkRetrain a1)).cke = a1.cke ∧ (resultOf a1 (execHostLinkRetrain a1)).pwr = a1.pwr ∧ (resultOf a1 (execHostLinkRetrain a1)).fab = a1.fab ∧ (resultOf a1 (execHostLinkRetrain a1)).mss = a1.mss ∧ (resultOf a1 (execHostLinkRetrain a1)).fresh = a1.fresh ∧ (resultOf a1 (execHostLinkRetrain a1)).routineIds = a1.routineIds ∧ (resultOf a1 (execHostLinkRetrain a1)).pending = a1.pending := by
  simp [execHostLinkRetrain]
theorem execHostLinkRetrain_completes (a1 : State) : (execHostLinkRetrain a1) = .next (resultOf a1 (execHostLinkRetrain a1)) := by
  unfold execHostLinkRetrain
  try dsimp only
  repeat' split
  all_goals rfl
theorem State.supplyFault_frame (a1 : State) (a2) : (resultOf a1 (State.supplyFault a1 a2)).ident = a1.ident ∧ (resultOf a1 (State.supplyFault a1 a2)).nv = a1.nv ∧ (resultOf a1 (State.supplyFault a1 a2)).sent = a1.sent ∧ (resultOf a1 (State.supplyFault a1 a2)).fresh = a1.fresh ∧ (resultOf a1 (State.supplyFault a1 a2)).pending = a1.pending := by
  simp [State.supplyFault]
theorem State.supplyFault_completes (a1 : State) (a2) : (State.supplyFault a1 a2) = .next (resultOf a1 (State.supplyFault a1 a2)) := by
  unfold State.supplyFault
  try dsimp only
  repeat' split
  all_goals rfl
theorem execPowerEntryStart_frame (a1 : State) : (resultOf a1 (execPowerEntryStart a1)).ident = a1.ident ∧ (resultOf a1 (execPowerEntryStart a1)).nv = a1.nv ∧ (resultOf a1 (execPowerEntryStart a1)).sent = a1.sent ∧ (resultOf a1 (execPowerEntryStart a1)).pending = a1.pending := by
  simp [execPowerEntryStart]
theorem execPowerEntryStart_completes (a1 : State) : (execPowerEntryStart a1) = .next (resultOf a1 (execPowerEntryStart a1)) := by
  unfold execPowerEntryStart
  try dsimp only
  repeat' split
  all_goals rfl
theorem execPwrVinRange_frame (a1) (a2 : State) : (resultOf a2 (execPwrVinRange a1 a2)).ident = a2.ident ∧ (resultOf a2 (execPwrVinRange a1 a2)).nv = a2.nv ∧ (resultOf a2 (execPwrVinRange a1 a2)).top = a2.top ∧ (resultOf a2 (execPwrVinRange a1 a2)).cores = a2.cores ∧ (resultOf a2 (execPwrVinRange a1 a2)).mem = a2.mem ∧ (resultOf a2 (execPwrVinRange a1 a2)).cle = a2.cle ∧ (resultOf a2 (execPwrVinRange a1 a2)).pue0 = a2.pue0 ∧ (resultOf a2 (execPwrVinRange a1 a2)).pue1 = a2.pue1 ∧ (resultOf a2 (execPwrVinRange a1 a2)).cke = a2.cke ∧ (resultOf a2 (execPwrVinRange a1 a2)).mss = a2.mss ∧ (resultOf a2 (execPwrVinRange a1 a2)).fresh = a2.fresh ∧ (resultOf a2 (execPwrVinRange a1 a2)).routineIds = a2.routineIds ∧ (resultOf a2 (execPwrVinRange a1 a2)).pending = a2.pending := by
  simp [execPwrVinRange]
theorem execPwrVinRange_completes (a1) (a2 : State) : (execPwrVinRange a1 a2) = .next (resultOf a2 (execPwrVinRange a1 a2)) := by
  unfold execPwrVinRange
  try dsimp only
  repeat' split
  all_goals simp
theorem execPwrBrownout_frame (a1 : State) : (resultOf a1 (execPwrBrownout a1)).ident = a1.ident ∧ (resultOf a1 (execPwrBrownout a1)).nv = a1.nv ∧ (resultOf a1 (execPwrBrownout a1)).sent = a1.sent ∧ (resultOf a1 (execPwrBrownout a1)).fresh = a1.fresh ∧ (resultOf a1 (execPwrBrownout a1)).pending = a1.pending := by
  unfold execPwrBrownout
  exact State.supplyFault_frame a1 _
theorem execPwrBrownout_completes (a1 : State) : (execPwrBrownout a1) = .next (resultOf a1 (execPwrBrownout a1)) := by
  unfold execPwrBrownout
  repeat (first | rfl | split | exact State.supplyFault_completes ..)
theorem execPwrVinOv_frame (a1 : State) : (resultOf a1 (execPwrVinOv a1)).ident = a1.ident ∧ (resultOf a1 (execPwrVinOv a1)).nv = a1.nv ∧ (resultOf a1 (execPwrVinOv a1)).sent = a1.sent ∧ (resultOf a1 (execPwrVinOv a1)).fresh = a1.fresh ∧ (resultOf a1 (execPwrVinOv a1)).pending = a1.pending := by
  unfold execPwrVinOv
  exact State.supplyFault_frame a1 _
theorem execPwrVinOv_completes (a1 : State) : (execPwrVinOv a1) = .next (resultOf a1 (execPwrVinOv a1)) := by
  unfold execPwrVinOv
  repeat (first | rfl | split | exact State.supplyFault_completes ..)
theorem execPwrOcp_frame (a1 : State) : (resultOf a1 (execPwrOcp a1)).ident = a1.ident ∧ (resultOf a1 (execPwrOcp a1)).nv = a1.nv ∧ (resultOf a1 (execPwrOcp a1)).sent = a1.sent ∧ (resultOf a1 (execPwrOcp a1)).fresh = a1.fresh ∧ (resultOf a1 (execPwrOcp a1)).pending = a1.pending := by
  unfold execPwrOcp
  exact State.supplyFault_frame a1 _
theorem execPwrOcp_completes (a1 : State) : (execPwrOcp a1) = .next (resultOf a1 (execPwrOcp a1)) := by
  unfold execPwrOcp
  repeat (first | rfl | split | exact State.supplyFault_completes ..)
theorem execPwrDieLost_frame (a1) (a2 : State) : (resultOf a2 (execPwrDieLost a1 a2)).ident = a2.ident ∧ (resultOf a2 (execPwrDieLost a1 a2)).nv = a2.nv ∧ (resultOf a2 (execPwrDieLost a1 a2)).cle = a2.cle ∧ (resultOf a2 (execPwrDieLost a1 a2)).fab = a2.fab ∧ (resultOf a2 (execPwrDieLost a1 a2)).mss = a2.mss ∧ (resultOf a2 (execPwrDieLost a1 a2)).fresh = a2.fresh ∧ (resultOf a2 (execPwrDieLost a1 a2)).routineIds = a2.routineIds ∧ (resultOf a2 (execPwrDieLost a1 a2)).pending = a2.pending := by
  simp [execPwrDieLost]
theorem execPwrDieLost_completes (a1) (a2 : State) : (execPwrDieLost a1 a2) = .next (resultOf a2 (execPwrDieLost a1 a2)) := by
  unfold execPwrDieLost
  try dsimp only
  repeat' split
  all_goals rfl
theorem execPwrHubLost_frame (a1 : State) : (resultOf a1 (execPwrHubLost a1)).ident = a1.ident ∧ (resultOf a1 (execPwrHubLost a1)).nv = a1.nv ∧ (resultOf a1 (execPwrHubLost a1)).sent = a1.sent ∧ (resultOf a1 (execPwrHubLost a1)).fresh = a1.fresh ∧ (resultOf a1 (execPwrHubLost a1)).pending = a1.pending := by
  simp [execPwrHubLost]
theorem execPwrHubLost_completes (a1 : State) : (execPwrHubLost a1) = .next (resultOf a1 (execPwrHubLost a1)) := by
  unfold execPwrHubLost
  try dsimp only
  repeat' split
  all_goals rfl
theorem execGrantPeriod_frame (a1) (a2) (a3) (a4) (a5 : State) : (resultOf a5 (execGrantPeriod a1 a2 a3 a4 a5)).ident = a5.ident ∧ (resultOf a5 (execGrantPeriod a1 a2 a3 a4 a5)).nv = a5.nv ∧ (resultOf a5 (execGrantPeriod a1 a2 a3 a4 a5)).top = a5.top ∧ (resultOf a5 (execGrantPeriod a1 a2 a3 a4 a5)).cores = a5.cores ∧ (resultOf a5 (execGrantPeriod a1 a2 a3 a4 a5)).hub = a5.hub ∧ (resultOf a5 (execGrantPeriod a1 a2 a3 a4 a5)).err = a5.err ∧ (resultOf a5 (execGrantPeriod a1 a2 a3 a4 a5)).mem = a5.mem ∧ (resultOf a5 (execGrantPeriod a1 a2 a3 a4 a5)).cle = a5.cle ∧ (resultOf a5 (execGrantPeriod a1 a2 a3 a4 a5)).pue0 = a5.pue0 ∧ (resultOf a5 (execGrantPeriod a1 a2 a3 a4 a5)).pue1 = a5.pue1 ∧ (resultOf a5 (execGrantPeriod a1 a2 a3 a4 a5)).cke = a5.cke ∧ (resultOf a5 (execGrantPeriod a1 a2 a3 a4 a5)).fab = a5.fab ∧ (resultOf a5 (execGrantPeriod a1 a2 a3 a4 a5)).pmu = a5.pmu ∧ (resultOf a5 (execGrantPeriod a1 a2 a3 a4 a5)).mss = a5.mss ∧ (resultOf a5 (execGrantPeriod a1 a2 a3 a4 a5)).sent = a5.sent ∧ (resultOf a5 (execGrantPeriod a1 a2 a3 a4 a5)).fresh = a5.fresh ∧ (resultOf a5 (execGrantPeriod a1 a2 a3 a4 a5)).routineIds = a5.routineIds ∧ (resultOf a5 (execGrantPeriod a1 a2 a3 a4 a5)).pending = a5.pending := by
  simp only [execGrantPeriod]
  repeat' split
  all_goals simp
theorem execGrantPeriod_completes (a1) (a2) (a3) (a4) (a5 : State) : (execGrantPeriod a1 a2 a3 a4 a5) = .next (resultOf a5 (execGrantPeriod a1 a2 a3 a4 a5)) := by
  unfold execGrantPeriod
  try dsimp only
  repeat' split
  all_goals rfl
theorem execYield_frame (a1 : State) : (resultOf a1 (execYield a1)).ident = a1.ident ∧ (resultOf a1 (execYield a1)).nv = a1.nv ∧ (resultOf a1 (execYield a1)).top = a1.top ∧ (resultOf a1 (execYield a1)).cores = a1.cores ∧ (resultOf a1 (execYield a1)).hub = a1.hub ∧ (resultOf a1 (execYield a1)).err = a1.err ∧ (resultOf a1 (execYield a1)).mem = a1.mem ∧ (resultOf a1 (execYield a1)).cle = a1.cle ∧ (resultOf a1 (execYield a1)).pue0 = a1.pue0 ∧ (resultOf a1 (execYield a1)).pue1 = a1.pue1 ∧ (resultOf a1 (execYield a1)).cke = a1.cke ∧ (resultOf a1 (execYield a1)).fab = a1.fab ∧ (resultOf a1 (execYield a1)).pmu = a1.pmu ∧ (resultOf a1 (execYield a1)).mss = a1.mss ∧ (resultOf a1 (execYield a1)).sent = a1.sent ∧ (resultOf a1 (execYield a1)).fresh = a1.fresh ∧ (resultOf a1 (execYield a1)).routineIds = a1.routineIds ∧ (resultOf a1 (execYield a1)).pending = a1.pending := by
  simp only [execYield]
  repeat' split
  all_goals simp
theorem execYield_completes (a1 : State) : (execYield a1) = .next (resultOf a1 (execYield a1)) := by
  unfold execYield
  try dsimp only
  repeat' split
  all_goals rfl
theorem execBallastRelease_frame (a1) (a2) (a3 : State) : (resultOf a3 (execBallastRelease a1 a2 a3)).ident = a3.ident ∧ (resultOf a3 (execBallastRelease a1 a2 a3)).nv = a3.nv ∧ (resultOf a3 (execBallastRelease a1 a2 a3)).top = a3.top ∧ (resultOf a3 (execBallastRelease a1 a2 a3)).cores = a3.cores ∧ (resultOf a3 (execBallastRelease a1 a2 a3)).hub = a3.hub ∧ (resultOf a3 (execBallastRelease a1 a2 a3)).err = a3.err ∧ (resultOf a3 (execBallastRelease a1 a2 a3)).mem = a3.mem ∧ (resultOf a3 (execBallastRelease a1 a2 a3)).cle = a3.cle ∧ (resultOf a3 (execBallastRelease a1 a2 a3)).pue0 = a3.pue0 ∧ (resultOf a3 (execBallastRelease a1 a2 a3)).pue1 = a3.pue1 ∧ (resultOf a3 (execBallastRelease a1 a2 a3)).cke = a3.cke ∧ (resultOf a3 (execBallastRelease a1 a2 a3)).fab = a3.fab ∧ (resultOf a3 (execBallastRelease a1 a2 a3)).pmu = a3.pmu ∧ (resultOf a3 (execBallastRelease a1 a2 a3)).mss = a3.mss ∧ (resultOf a3 (execBallastRelease a1 a2 a3)).sent = a3.sent ∧ (resultOf a3 (execBallastRelease a1 a2 a3)).fresh = a3.fresh ∧ (resultOf a3 (execBallastRelease a1 a2 a3)).routineIds = a3.routineIds ∧ (resultOf a3 (execBallastRelease a1 a2 a3)).pending = a3.pending := by
  simp [execBallastRelease]
theorem execBallastRelease_completes (a1) (a2) (a3 : State) : (execBallastRelease a1 a2 a3) = .next (resultOf a3 (execBallastRelease a1 a2 a3)) := by
  unfold execBallastRelease
  try dsimp only
  repeat' split
  all_goals rfl
theorem execCreditLapse_frame (a1) (a2) (a3 : State) : (resultOf a3 (execCreditLapse a1 a2 a3)).ident = a3.ident ∧ (resultOf a3 (execCreditLapse a1 a2 a3)).nv = a3.nv ∧ (resultOf a3 (execCreditLapse a1 a2 a3)).top = a3.top ∧ (resultOf a3 (execCreditLapse a1 a2 a3)).cores = a3.cores ∧ (resultOf a3 (execCreditLapse a1 a2 a3)).hub = a3.hub ∧ (resultOf a3 (execCreditLapse a1 a2 a3)).err = a3.err ∧ (resultOf a3 (execCreditLapse a1 a2 a3)).mem = a3.mem ∧ (resultOf a3 (execCreditLapse a1 a2 a3)).cle = a3.cle ∧ (resultOf a3 (execCreditLapse a1 a2 a3)).pue0 = a3.pue0 ∧ (resultOf a3 (execCreditLapse a1 a2 a3)).pue1 = a3.pue1 ∧ (resultOf a3 (execCreditLapse a1 a2 a3)).cke = a3.cke ∧ (resultOf a3 (execCreditLapse a1 a2 a3)).fab = a3.fab ∧ (resultOf a3 (execCreditLapse a1 a2 a3)).pmu = a3.pmu ∧ (resultOf a3 (execCreditLapse a1 a2 a3)).mss = a3.mss ∧ (resultOf a3 (execCreditLapse a1 a2 a3)).sent = a3.sent ∧ (resultOf a3 (execCreditLapse a1 a2 a3)).fresh = a3.fresh ∧ (resultOf a3 (execCreditLapse a1 a2 a3)).routineIds = a3.routineIds ∧ (resultOf a3 (execCreditLapse a1 a2 a3)).pending = a3.pending := by
  simp [execCreditLapse]
theorem execCreditLapse_completes (a1) (a2) (a3 : State) : (execCreditLapse a1 a2 a3) = .next (resultOf a3 (execCreditLapse a1 a2 a3)) := by
  unfold execCreditLapse
  try dsimp only
  repeat' split
  all_goals rfl
theorem execPwrThrottle_frame (a1 : State) : (resultOf a1 (execPwrThrottle a1)).ident = a1.ident ∧ (resultOf a1 (execPwrThrottle a1)).nv = a1.nv ∧ (resultOf a1 (execPwrThrottle a1)).top = a1.top ∧ (resultOf a1 (execPwrThrottle a1)).cores = a1.cores ∧ (resultOf a1 (execPwrThrottle a1)).mem = a1.mem ∧ (resultOf a1 (execPwrThrottle a1)).cle = a1.cle ∧ (resultOf a1 (execPwrThrottle a1)).pue0 = a1.pue0 ∧ (resultOf a1 (execPwrThrottle a1)).pue1 = a1.pue1 ∧ (resultOf a1 (execPwrThrottle a1)).cke = a1.cke ∧ (resultOf a1 (execPwrThrottle a1)).fab = a1.fab ∧ (resultOf a1 (execPwrThrottle a1)).mss = a1.mss ∧ (resultOf a1 (execPwrThrottle a1)).fresh = a1.fresh ∧ (resultOf a1 (execPwrThrottle a1)).routineIds = a1.routineIds ∧ (resultOf a1 (execPwrThrottle a1)).pending = a1.pending := by
  simp [execPwrThrottle]
theorem execPwrThrottle_completes (a1 : State) : (execPwrThrottle a1) = .next (resultOf a1 (execPwrThrottle a1)) := by
  unfold execPwrThrottle
  try dsimp only
  repeat' split
  all_goals rfl
theorem execThrottleDown_frame (a1 : State) : (resultOf a1 (execThrottleDown a1)).ident = a1.ident ∧ (resultOf a1 (execThrottleDown a1)).nv = a1.nv ∧ (resultOf a1 (execThrottleDown a1)).top = a1.top ∧ (resultOf a1 (execThrottleDown a1)).cores = a1.cores ∧ (resultOf a1 (execThrottleDown a1)).hub = a1.hub ∧ (resultOf a1 (execThrottleDown a1)).err = a1.err ∧ (resultOf a1 (execThrottleDown a1)).mem = a1.mem ∧ (resultOf a1 (execThrottleDown a1)).cle = a1.cle ∧ (resultOf a1 (execThrottleDown a1)).pue0 = a1.pue0 ∧ (resultOf a1 (execThrottleDown a1)).pue1 = a1.pue1 ∧ (resultOf a1 (execThrottleDown a1)).cke = a1.cke ∧ (resultOf a1 (execThrottleDown a1)).fab = a1.fab ∧ (resultOf a1 (execThrottleDown a1)).pmu = a1.pmu ∧ (resultOf a1 (execThrottleDown a1)).mss = a1.mss ∧ (resultOf a1 (execThrottleDown a1)).sent = a1.sent ∧ (resultOf a1 (execThrottleDown a1)).fresh = a1.fresh ∧ (resultOf a1 (execThrottleDown a1)).routineIds = a1.routineIds ∧ (resultOf a1 (execThrottleDown a1)).pending = a1.pending := by
  simp [execThrottleDown]
theorem execThrottleDown_completes (a1 : State) : (execThrottleDown a1) = .next (resultOf a1 (execThrottleDown a1)) := by
  unfold execThrottleDown
  try dsimp only
  repeat' split
  all_goals rfl
theorem execPwrThermThrottle_frame (a1) (a2 : State) : (resultOf a2 (execPwrThermThrottle a1 a2)).ident = a2.ident ∧ (resultOf a2 (execPwrThermThrottle a1 a2)).nv = a2.nv ∧ (resultOf a2 (execPwrThermThrottle a1 a2)).top = a2.top ∧ (resultOf a2 (execPwrThermThrottle a1 a2)).cores = a2.cores ∧ (resultOf a2 (execPwrThermThrottle a1 a2)).mem = a2.mem ∧ (resultOf a2 (execPwrThermThrottle a1 a2)).cle = a2.cle ∧ (resultOf a2 (execPwrThermThrottle a1 a2)).pue0 = a2.pue0 ∧ (resultOf a2 (execPwrThermThrottle a1 a2)).pue1 = a2.pue1 ∧ (resultOf a2 (execPwrThermThrottle a1 a2)).cke = a2.cke ∧ (resultOf a2 (execPwrThermThrottle a1 a2)).fab = a2.fab ∧ (resultOf a2 (execPwrThermThrottle a1 a2)).mss = a2.mss ∧ (resultOf a2 (execPwrThermThrottle a1 a2)).fresh = a2.fresh ∧ (resultOf a2 (execPwrThermThrottle a1 a2)).routineIds = a2.routineIds ∧ (resultOf a2 (execPwrThermThrottle a1 a2)).pending = a2.pending := by
  simp [execPwrThermThrottle]
theorem execPwrThermThrottle_completes (a1) (a2 : State) : (execPwrThermThrottle a1 a2) = .next (resultOf a2 (execPwrThermThrottle a1 a2)) := by
  unfold execPwrThermThrottle
  try dsimp only
  repeat' split
  all_goals rfl
theorem execThermThrottleDown_frame (a1) (a2 : State) : (resultOf a2 (execThermThrottleDown a1 a2)).ident = a2.ident ∧ (resultOf a2 (execThermThrottleDown a1 a2)).nv = a2.nv ∧ (resultOf a2 (execThermThrottleDown a1 a2)).top = a2.top ∧ (resultOf a2 (execThermThrottleDown a1 a2)).cores = a2.cores ∧ (resultOf a2 (execThermThrottleDown a1 a2)).hub = a2.hub ∧ (resultOf a2 (execThermThrottleDown a1 a2)).err = a2.err ∧ (resultOf a2 (execThermThrottleDown a1 a2)).mem = a2.mem ∧ (resultOf a2 (execThermThrottleDown a1 a2)).cle = a2.cle ∧ (resultOf a2 (execThermThrottleDown a1 a2)).pue0 = a2.pue0 ∧ (resultOf a2 (execThermThrottleDown a1 a2)).pue1 = a2.pue1 ∧ (resultOf a2 (execThermThrottleDown a1 a2)).cke = a2.cke ∧ (resultOf a2 (execThermThrottleDown a1 a2)).fab = a2.fab ∧ (resultOf a2 (execThermThrottleDown a1 a2)).pmu = a2.pmu ∧ (resultOf a2 (execThermThrottleDown a1 a2)).mss = a2.mss ∧ (resultOf a2 (execThermThrottleDown a1 a2)).sent = a2.sent ∧ (resultOf a2 (execThermThrottleDown a1 a2)).fresh = a2.fresh ∧ (resultOf a2 (execThermThrottleDown a1 a2)).routineIds = a2.routineIds ∧ (resultOf a2 (execThermThrottleDown a1 a2)).pending = a2.pending := by
  simp [execThermThrottleDown]
theorem execThermThrottleDown_completes (a1) (a2 : State) : (execThermThrottleDown a1 a2) = .next (resultOf a2 (execThermThrottleDown a1 a2)) := by
  unfold execThermThrottleDown
  try dsimp only
  repeat' split
  all_goals rfl
theorem execPwrTjCrit_frame (a1) (a2 : State) : (resultOf a2 (execPwrTjCrit a1 a2)).ident = a2.ident ∧ (resultOf a2 (execPwrTjCrit a1 a2)).nv = a2.nv ∧ (resultOf a2 (execPwrTjCrit a1 a2)).sent = a2.sent ∧ (resultOf a2 (execPwrTjCrit a1 a2)).fresh = a2.fresh ∧ (resultOf a2 (execPwrTjCrit a1 a2)).pending = a2.pending := by
  simp [execPwrTjCrit]
theorem execPwrTjCrit_completes (a1) (a2 : State) : (execPwrTjCrit a1 a2) = .next (resultOf a2 (execPwrTjCrit a1 a2)) := by
  unfold execPwrTjCrit
  try dsimp only
  repeat' split
  all_goals rfl
theorem execPwrThermtrip_frame (a1 : State) : (resultOf a1 (execPwrThermtrip a1)).ident = a1.ident ∧ (resultOf a1 (execPwrThermtrip a1)).nv = a1.nv ∧ (resultOf a1 (execPwrThermtrip a1)).sent = a1.sent ∧ (resultOf a1 (execPwrThermtrip a1)).fresh = a1.fresh ∧ (resultOf a1 (execPwrThermtrip a1)).pending = a1.pending := by
  simp [execPwrThermtrip]
theorem execPwrThermtrip_completes (a1 : State) : (execPwrThermtrip a1) = .next (resultOf a1 (execPwrThermtrip a1)) := by
  unfold execPwrThermtrip
  try dsimp only
  repeat' split
  all_goals rfl
theorem execPwrLeak_frame (a1 : State) : (resultOf a1 (execPwrLeak a1)).ident = a1.ident ∧ (resultOf a1 (execPwrLeak a1)).nv = a1.nv ∧ (resultOf a1 (execPwrLeak a1)).sent = a1.sent ∧ (resultOf a1 (execPwrLeak a1)).fresh = a1.fresh ∧ (resultOf a1 (execPwrLeak a1)).pending = a1.pending := by
  simp [execPwrLeak]
theorem execPwrLeak_completes (a1 : State) : (execPwrLeak a1) = .next (resultOf a1 (execPwrLeak a1)) := by
  unfold execPwrLeak
  try dsimp only
  repeat' split
  all_goals rfl
theorem execThermtripNDeassert_frame (a1 : State) : (resultOf a1 (execThermtripNDeassert a1)).ident = a1.ident ∧ (resultOf a1 (execThermtripNDeassert a1)).nv = a1.nv ∧ (resultOf a1 (execThermtripNDeassert a1)).top = a1.top ∧ (resultOf a1 (execThermtripNDeassert a1)).cores = a1.cores ∧ (resultOf a1 (execThermtripNDeassert a1)).hub = a1.hub ∧ (resultOf a1 (execThermtripNDeassert a1)).err = a1.err ∧ (resultOf a1 (execThermtripNDeassert a1)).mem = a1.mem ∧ (resultOf a1 (execThermtripNDeassert a1)).cle = a1.cle ∧ (resultOf a1 (execThermtripNDeassert a1)).pue0 = a1.pue0 ∧ (resultOf a1 (execThermtripNDeassert a1)).pue1 = a1.pue1 ∧ (resultOf a1 (execThermtripNDeassert a1)).cke = a1.cke ∧ (resultOf a1 (execThermtripNDeassert a1)).fab = a1.fab ∧ (resultOf a1 (execThermtripNDeassert a1)).pmu = a1.pmu ∧ (resultOf a1 (execThermtripNDeassert a1)).mss = a1.mss ∧ (resultOf a1 (execThermtripNDeassert a1)).sent = a1.sent ∧ (resultOf a1 (execThermtripNDeassert a1)).fresh = a1.fresh ∧ (resultOf a1 (execThermtripNDeassert a1)).routineIds = a1.routineIds ∧ (resultOf a1 (execThermtripNDeassert a1)).pending = a1.pending := by
  simp [execThermtripNDeassert]
theorem execThermtripNDeassert_completes (a1 : State) : (execThermtripNDeassert a1) = .next (resultOf a1 (execThermtripNDeassert a1)) := by
  unfold execThermtripNDeassert
  try dsimp only
  repeat' split
  all_goals rfl
theorem execPwrStageHot_frame (a1) (a2 : State) : (resultOf a2 (execPwrStageHot a1 a2)).ident = a2.ident ∧ (resultOf a2 (execPwrStageHot a1 a2)).nv = a2.nv ∧ (resultOf a2 (execPwrStageHot a1 a2)).top = a2.top ∧ (resultOf a2 (execPwrStageHot a1 a2)).cores = a2.cores ∧ (resultOf a2 (execPwrStageHot a1 a2)).mem = a2.mem ∧ (resultOf a2 (execPwrStageHot a1 a2)).cle = a2.cle ∧ (resultOf a2 (execPwrStageHot a1 a2)).pue0 = a2.pue0 ∧ (resultOf a2 (execPwrStageHot a1 a2)).pue1 = a2.pue1 ∧ (resultOf a2 (execPwrStageHot a1 a2)).cke = a2.cke ∧ (resultOf a2 (execPwrStageHot a1 a2)).fab = a2.fab ∧ (resultOf a2 (execPwrStageHot a1 a2)).mss = a2.mss ∧ (resultOf a2 (execPwrStageHot a1 a2)).fresh = a2.fresh ∧ (resultOf a2 (execPwrStageHot a1 a2)).routineIds = a2.routineIds ∧ (resultOf a2 (execPwrStageHot a1 a2)).pending = a2.pending := by
  simp [execPwrStageHot]
theorem execPwrStageHot_completes (a1) (a2 : State) : (execPwrStageHot a1 a2) = .next (resultOf a2 (execPwrStageHot a1 a2)) := by
  unfold execPwrStageHot
  try dsimp only
  repeat' split
  all_goals rfl
theorem execPwrOeShutdown_frame (a1) (a2 : State) : (resultOf a2 (execPwrOeShutdown a1 a2)).ident = a2.ident ∧ (resultOf a2 (execPwrOeShutdown a1 a2)).nv = a2.nv ∧ (resultOf a2 (execPwrOeShutdown a1 a2)).top = a2.top ∧ (resultOf a2 (execPwrOeShutdown a1 a2)).cores = a2.cores ∧ (resultOf a2 (execPwrOeShutdown a1 a2)).mem = a2.mem ∧ (resultOf a2 (execPwrOeShutdown a1 a2)).cle = a2.cle ∧ (resultOf a2 (execPwrOeShutdown a1 a2)).pue0 = a2.pue0 ∧ (resultOf a2 (execPwrOeShutdown a1 a2)).pue1 = a2.pue1 ∧ (resultOf a2 (execPwrOeShutdown a1 a2)).cke = a2.cke ∧ (resultOf a2 (execPwrOeShutdown a1 a2)).mss = a2.mss ∧ (resultOf a2 (execPwrOeShutdown a1 a2)).fresh = a2.fresh ∧ (resultOf a2 (execPwrOeShutdown a1 a2)).routineIds = a2.routineIds ∧ (resultOf a2 (execPwrOeShutdown a1 a2)).pending = a2.pending := by
  simp [execPwrOeShutdown]
theorem execPwrOeShutdown_completes (a1) (a2 : State) : (execPwrOeShutdown a1 a2) = .next (resultOf a2 (execPwrOeShutdown a1 a2)) := by
  unfold execPwrOeShutdown
  try dsimp only
  repeat' split
  all_goals simp
theorem execOeRelight_frame (a1) (a2 : State) : (resultOf a2 (execOeRelight a1 a2)).ident = a2.ident ∧ (resultOf a2 (execOeRelight a1 a2)).nv = a2.nv ∧ (resultOf a2 (execOeRelight a1 a2)).top = a2.top ∧ (resultOf a2 (execOeRelight a1 a2)).cores = a2.cores ∧ (resultOf a2 (execOeRelight a1 a2)).mem = a2.mem ∧ (resultOf a2 (execOeRelight a1 a2)).cle = a2.cle ∧ (resultOf a2 (execOeRelight a1 a2)).pue0 = a2.pue0 ∧ (resultOf a2 (execOeRelight a1 a2)).pue1 = a2.pue1 ∧ (resultOf a2 (execOeRelight a1 a2)).cke = a2.cke ∧ (resultOf a2 (execOeRelight a1 a2)).mss = a2.mss ∧ (resultOf a2 (execOeRelight a1 a2)).fresh = a2.fresh ∧ (resultOf a2 (execOeRelight a1 a2)).routineIds = a2.routineIds ∧ (resultOf a2 (execOeRelight a1 a2)).pending = a2.pending := by
  simp [execOeRelight]
theorem execOeRelight_completes (a1) (a2 : State) : (execOeRelight a1 a2) = .next (resultOf a2 (execOeRelight a1 a2)) := by
  unfold execOeRelight
  try dsimp only
  repeat' split
  all_goals simp
theorem execCoolantReport_frame (a1) (a2 : State) : (resultOf a2 (execCoolantReport a1 a2)).ident = a2.ident ∧ (resultOf a2 (execCoolantReport a1 a2)).nv = a2.nv ∧ (resultOf a2 (execCoolantReport a1 a2)).top = a2.top ∧ (resultOf a2 (execCoolantReport a1 a2)).cores = a2.cores ∧ (resultOf a2 (execCoolantReport a1 a2)).mem = a2.mem ∧ (resultOf a2 (execCoolantReport a1 a2)).cle = a2.cle ∧ (resultOf a2 (execCoolantReport a1 a2)).pue0 = a2.pue0 ∧ (resultOf a2 (execCoolantReport a1 a2)).pue1 = a2.pue1 ∧ (resultOf a2 (execCoolantReport a1 a2)).cke = a2.cke ∧ (resultOf a2 (execCoolantReport a1 a2)).fab = a2.fab ∧ (resultOf a2 (execCoolantReport a1 a2)).mss = a2.mss ∧ (resultOf a2 (execCoolantReport a1 a2)).fresh = a2.fresh ∧ (resultOf a2 (execCoolantReport a1 a2)).routineIds = a2.routineIds ∧ (resultOf a2 (execCoolantReport a1 a2)).pending = a2.pending := by
  simp [execCoolantReport]
theorem execCoolantReport_completes (a1) (a2 : State) : (execCoolantReport a1 a2) = .next (resultOf a2 (execCoolantReport a1 a2)) := by
  unfold execCoolantReport
  try dsimp only
  repeat' split
  all_goals rfl
theorem execCoolantStale_frame (a1 : State) : (resultOf a1 (execCoolantStale a1)).ident = a1.ident ∧ (resultOf a1 (execCoolantStale a1)).nv = a1.nv ∧ (resultOf a1 (execCoolantStale a1)).top = a1.top ∧ (resultOf a1 (execCoolantStale a1)).cores = a1.cores ∧ (resultOf a1 (execCoolantStale a1)).hub = a1.hub ∧ (resultOf a1 (execCoolantStale a1)).err = a1.err ∧ (resultOf a1 (execCoolantStale a1)).mem = a1.mem ∧ (resultOf a1 (execCoolantStale a1)).cle = a1.cle ∧ (resultOf a1 (execCoolantStale a1)).pue0 = a1.pue0 ∧ (resultOf a1 (execCoolantStale a1)).pue1 = a1.pue1 ∧ (resultOf a1 (execCoolantStale a1)).cke = a1.cke ∧ (resultOf a1 (execCoolantStale a1)).fab = a1.fab ∧ (resultOf a1 (execCoolantStale a1)).pmu = a1.pmu ∧ (resultOf a1 (execCoolantStale a1)).mss = a1.mss ∧ (resultOf a1 (execCoolantStale a1)).sent = a1.sent ∧ (resultOf a1 (execCoolantStale a1)).fresh = a1.fresh ∧ (resultOf a1 (execCoolantStale a1)).routineIds = a1.routineIds ∧ (resultOf a1 (execCoolantStale a1)).pending = a1.pending := by
  simp [execCoolantStale]
theorem execCoolantStale_completes (a1 : State) : (execCoolantStale a1) = .next (resultOf a1 (execCoolantStale a1)) := by
  unfold execCoolantStale
  try dsimp only
  repeat' split
  all_goals rfl
theorem execPkgLimitWrite_frame (a1) (a2 : State) : (resultOf a2 (execPkgLimitWrite a1 a2)).ident = a2.ident ∧ (resultOf a2 (execPkgLimitWrite a1 a2)).nv = a2.nv ∧ (resultOf a2 (execPkgLimitWrite a1 a2)).top = a2.top ∧ (resultOf a2 (execPkgLimitWrite a1 a2)).cores = a2.cores ∧ (resultOf a2 (execPkgLimitWrite a1 a2)).hub = a2.hub ∧ (resultOf a2 (execPkgLimitWrite a1 a2)).err = a2.err ∧ (resultOf a2 (execPkgLimitWrite a1 a2)).mem = a2.mem ∧ (resultOf a2 (execPkgLimitWrite a1 a2)).cle = a2.cle ∧ (resultOf a2 (execPkgLimitWrite a1 a2)).pue0 = a2.pue0 ∧ (resultOf a2 (execPkgLimitWrite a1 a2)).pue1 = a2.pue1 ∧ (resultOf a2 (execPkgLimitWrite a1 a2)).cke = a2.cke ∧ (resultOf a2 (execPkgLimitWrite a1 a2)).fab = a2.fab ∧ (resultOf a2 (execPkgLimitWrite a1 a2)).pmu = a2.pmu ∧ (resultOf a2 (execPkgLimitWrite a1 a2)).mss = a2.mss ∧ (resultOf a2 (execPkgLimitWrite a1 a2)).sent = a2.sent ∧ (resultOf a2 (execPkgLimitWrite a1 a2)).fresh = a2.fresh ∧ (resultOf a2 (execPkgLimitWrite a1 a2)).routineIds = a2.routineIds ∧ (resultOf a2 (execPkgLimitWrite a1 a2)).pending = a2.pending := by
  simp [execPkgLimitWrite]
theorem execPkgLimitWrite_completes (a1) (a2 : State) : (execPkgLimitWrite a1 a2) = .next (resultOf a2 (execPkgLimitWrite a1 a2)) := by
  unfold execPkgLimitWrite
  try dsimp only
  repeat' split
  all_goals rfl
theorem execReplan_frame (a1) (a2) (a3) (a4) (a5 : State) : (resultOf a5 (execReplan a1 a2 a3 a4 a5)).ident = a5.ident ∧ (resultOf a5 (execReplan a1 a2 a3 a4 a5)).nv = a5.nv ∧ (resultOf a5 (execReplan a1 a2 a3 a4 a5)).fresh = a5.fresh ∧ (resultOf a5 (execReplan a1 a2 a3 a4 a5)).pending = a5.pending := by
  simp [execReplan]
theorem execReplan_completes (a1) (a2) (a3) (a4) (a5 : State) : (execReplan a1 a2 a3 a4 a5) = .next (resultOf a5 (execReplan a1 a2 a3 a4 a5)) := by
  unfold execReplan
  try dsimp only
  repeat' split
  all_goals rfl
theorem execAoCompare_frame (a1) (a2 : State) : (resultOf a2 (execAoCompare a1 a2)).ident = a2.ident ∧ (resultOf a2 (execAoCompare a1 a2)).nv = a2.nv ∧ (resultOf a2 (execAoCompare a1 a2)).top = a2.top ∧ (resultOf a2 (execAoCompare a1 a2)).cores = a2.cores ∧ (resultOf a2 (execAoCompare a1 a2)).err = a2.err ∧ (resultOf a2 (execAoCompare a1 a2)).mem = a2.mem ∧ (resultOf a2 (execAoCompare a1 a2)).cle = a2.cle ∧ (resultOf a2 (execAoCompare a1 a2)).pue0 = a2.pue0 ∧ (resultOf a2 (execAoCompare a1 a2)).pue1 = a2.pue1 ∧ (resultOf a2 (execAoCompare a1 a2)).cke = a2.cke ∧ (resultOf a2 (execAoCompare a1 a2)).fab = a2.fab ∧ (resultOf a2 (execAoCompare a1 a2)).pmu = a2.pmu ∧ (resultOf a2 (execAoCompare a1 a2)).routineIds = a2.routineIds ∧ (resultOf a2 (execAoCompare a1 a2)).pending = a2.pending := by
  simp [execAoCompare]
theorem execAoCompare_completes (a1) (a2 : State) : (execAoCompare a1 a2) = .next (resultOf a2 (execAoCompare a1 a2)) := by
  unfold execAoCompare
  try dsimp only
  repeat' split
  all_goals rfl
theorem execAoRcFallback_frame (a1 : State) : (resultOf a1 (execAoRcFallback a1)).ident = a1.ident ∧ (resultOf a1 (execAoRcFallback a1)).nv = a1.nv ∧ (resultOf a1 (execAoRcFallback a1)).top = a1.top ∧ (resultOf a1 (execAoRcFallback a1)).cores = a1.cores ∧ (resultOf a1 (execAoRcFallback a1)).hub = a1.hub ∧ (resultOf a1 (execAoRcFallback a1)).err = a1.err ∧ (resultOf a1 (execAoRcFallback a1)).mem = a1.mem ∧ (resultOf a1 (execAoRcFallback a1)).cle = a1.cle ∧ (resultOf a1 (execAoRcFallback a1)).pue0 = a1.pue0 ∧ (resultOf a1 (execAoRcFallback a1)).pue1 = a1.pue1 ∧ (resultOf a1 (execAoRcFallback a1)).cke = a1.cke ∧ (resultOf a1 (execAoRcFallback a1)).fab = a1.fab ∧ (resultOf a1 (execAoRcFallback a1)).pmu = a1.pmu ∧ (resultOf a1 (execAoRcFallback a1)).mss = a1.mss ∧ (resultOf a1 (execAoRcFallback a1)).sent = a1.sent ∧ (resultOf a1 (execAoRcFallback a1)).fresh = a1.fresh ∧ (resultOf a1 (execAoRcFallback a1)).routineIds = a1.routineIds ∧ (resultOf a1 (execAoRcFallback a1)).pending = a1.pending := by
  simp [execAoRcFallback]
theorem execAoRcFallback_completes (a1 : State) : (execAoRcFallback a1) = .next (resultOf a1 (execAoRcFallback a1)) := by
  unfold execAoRcFallback
  try dsimp only
  repeat' split
  all_goals rfl
theorem execCoreClockStop_frame (a1) (a2 : State) : (resultOf a2 (execCoreClockStop a1 a2)).ident = a2.ident ∧ (resultOf a2 (execCoreClockStop a1 a2)).nv = a2.nv ∧ (resultOf a2 (execCoreClockStop a1 a2)).top = a2.top ∧ (resultOf a2 (execCoreClockStop a1 a2)).cores = a2.cores ∧ (resultOf a2 (execCoreClockStop a1 a2)).hub = a2.hub ∧ (resultOf a2 (execCoreClockStop a1 a2)).err = a2.err ∧ (resultOf a2 (execCoreClockStop a1 a2)).mem = a2.mem ∧ (resultOf a2 (execCoreClockStop a1 a2)).cle = a2.cle ∧ (resultOf a2 (execCoreClockStop a1 a2)).pue0 = a2.pue0 ∧ (resultOf a2 (execCoreClockStop a1 a2)).pue1 = a2.pue1 ∧ (resultOf a2 (execCoreClockStop a1 a2)).cke = a2.cke ∧ (resultOf a2 (execCoreClockStop a1 a2)).fab = a2.fab ∧ (resultOf a2 (execCoreClockStop a1 a2)).pmu = a2.pmu ∧ (resultOf a2 (execCoreClockStop a1 a2)).mss = a2.mss ∧ (resultOf a2 (execCoreClockStop a1 a2)).sent = a2.sent ∧ (resultOf a2 (execCoreClockStop a1 a2)).fresh = a2.fresh ∧ (resultOf a2 (execCoreClockStop a1 a2)).routineIds = a2.routineIds ∧ (resultOf a2 (execCoreClockStop a1 a2)).pending = a2.pending := by
  simp [execCoreClockStop]
theorem execCoreClockStop_completes (a1) (a2 : State) : (execCoreClockStop a1 a2) = .next (resultOf a2 (execCoreClockStop a1 a2)) := by
  unfold execCoreClockStop
  try dsimp only
  repeat' split
  all_goals rfl
theorem execSelfRefresh_frame (a1) (a2) (a3 : State) : (resultOf a3 (execSelfRefresh a1 a2 a3)).ident = a3.ident ∧ (resultOf a3 (execSelfRefresh a1 a2 a3)).nv = a3.nv ∧ (resultOf a3 (execSelfRefresh a1 a2 a3)).top = a3.top ∧ (resultOf a3 (execSelfRefresh a1 a2 a3)).cores = a3.cores ∧ (resultOf a3 (execSelfRefresh a1 a2 a3)).hub = a3.hub ∧ (resultOf a3 (execSelfRefresh a1 a2 a3)).err = a3.err ∧ (resultOf a3 (execSelfRefresh a1 a2 a3)).mem = a3.mem ∧ (resultOf a3 (execSelfRefresh a1 a2 a3)).cle = a3.cle ∧ (resultOf a3 (execSelfRefresh a1 a2 a3)).pue0 = a3.pue0 ∧ (resultOf a3 (execSelfRefresh a1 a2 a3)).pue1 = a3.pue1 ∧ (resultOf a3 (execSelfRefresh a1 a2 a3)).cke = a3.cke ∧ (resultOf a3 (execSelfRefresh a1 a2 a3)).fab = a3.fab ∧ (resultOf a3 (execSelfRefresh a1 a2 a3)).pmu = a3.pmu ∧ (resultOf a3 (execSelfRefresh a1 a2 a3)).mss = a3.mss ∧ (resultOf a3 (execSelfRefresh a1 a2 a3)).sent = a3.sent ∧ (resultOf a3 (execSelfRefresh a1 a2 a3)).fresh = a3.fresh ∧ (resultOf a3 (execSelfRefresh a1 a2 a3)).routineIds = a3.routineIds ∧ (resultOf a3 (execSelfRefresh a1 a2 a3)).pending = a3.pending := by
  simp [execSelfRefresh]
theorem execSelfRefresh_completes (a1) (a2) (a3 : State) : (execSelfRefresh a1 a2 a3) = .next (resultOf a3 (execSelfRefresh a1 a2 a3)) := by
  unfold execSelfRefresh
  try dsimp only
  repeat' split
  all_goals rfl
@[simp] theorem State.mssReq_ident (a1 : State) (a2) (a3) (a4) (ha4 : ∀ y0, (a4 y0).ident = y0.ident) : (resultOf a1 (State.mssReq a1 a2 a3 a4)).ident = a1.ident := by
  simp [State.mssReq, ha4]
@[simp] theorem State.mssReq_nv (a1 : State) (a2) (a3) (a4) (ha4 : ∀ y0, (a4 y0).nv = y0.nv) : (resultOf a1 (State.mssReq a1 a2 a3 a4)).nv = a1.nv := by
  simp [State.mssReq, ha4]
@[simp] theorem State.mssReq_top (a1 : State) (a2) (a3) (a4) (ha4 : ∀ y0, (a4 y0).top = y0.top) : (resultOf a1 (State.mssReq a1 a2 a3 a4)).top = a1.top := by
  simp [State.mssReq, ha4]
@[simp] theorem State.mssReq_cores (a1 : State) (a2) (a3) (a4) (ha4 : ∀ y0, (a4 y0).cores = y0.cores) : (resultOf a1 (State.mssReq a1 a2 a3 a4)).cores = a1.cores := by
  simp [State.mssReq, ha4]
@[simp] theorem State.mssReq_hub (a1 : State) (a2) (a3) (a4) (ha4 : ∀ y0, (a4 y0).hub = y0.hub) : (resultOf a1 (State.mssReq a1 a2 a3 a4)).hub = a1.hub := by
  simp [State.mssReq, ha4]
@[simp] theorem State.mssReq_err (a1 : State) (a2) (a3) (a4) (ha4 : ∀ y0, (a4 y0).err = y0.err) : (resultOf a1 (State.mssReq a1 a2 a3 a4)).err = a1.err := by
  simp [State.mssReq, ha4]
@[simp] theorem State.mssReq_mem (a1 : State) (a2) (a3) (a4) (ha4 : ∀ y0, (a4 y0).mem = y0.mem) : (resultOf a1 (State.mssReq a1 a2 a3 a4)).mem = a1.mem := by
  simp [State.mssReq, ha4]
@[simp] theorem State.mssReq_cle (a1 : State) (a2) (a3) (a4) (ha4 : ∀ y0, (a4 y0).cle = y0.cle) : (resultOf a1 (State.mssReq a1 a2 a3 a4)).cle = a1.cle := by
  simp [State.mssReq, ha4]
@[simp] theorem State.mssReq_pue0 (a1 : State) (a2) (a3) (a4) (ha4 : ∀ y0, (a4 y0).pue0 = y0.pue0) : (resultOf a1 (State.mssReq a1 a2 a3 a4)).pue0 = a1.pue0 := by
  simp [State.mssReq, ha4]
@[simp] theorem State.mssReq_pue1 (a1 : State) (a2) (a3) (a4) (ha4 : ∀ y0, (a4 y0).pue1 = y0.pue1) : (resultOf a1 (State.mssReq a1 a2 a3 a4)).pue1 = a1.pue1 := by
  simp [State.mssReq, ha4]
@[simp] theorem State.mssReq_cke (a1 : State) (a2) (a3) (a4) (ha4 : ∀ y0, (a4 y0).cke = y0.cke) : (resultOf a1 (State.mssReq a1 a2 a3 a4)).cke = a1.cke := by
  simp [State.mssReq, ha4]
@[simp] theorem State.mssReq_pwr (a1 : State) (a2) (a3) (a4) (ha4 : ∀ y0, (a4 y0).pwr = y0.pwr) : (resultOf a1 (State.mssReq a1 a2 a3 a4)).pwr = a1.pwr := by
  simp [State.mssReq, ha4]
@[simp] theorem State.mssReq_fab (a1 : State) (a2) (a3) (a4) (ha4 : ∀ y0, (a4 y0).fab = y0.fab) : (resultOf a1 (State.mssReq a1 a2 a3 a4)).fab = a1.fab := by
  simp [State.mssReq, ha4]
@[simp] theorem State.mssReq_pmu (a1 : State) (a2) (a3) (a4) (ha4 : ∀ y0, (a4 y0).pmu = y0.pmu) : (resultOf a1 (State.mssReq a1 a2 a3 a4)).pmu = a1.pmu := by
  simp [State.mssReq, ha4]
@[simp] theorem State.mssReq_sent (a1 : State) (a2) (a3) (a4) (ha4 : ∀ y0, (a4 y0).sent = y0.sent) : (resultOf a1 (State.mssReq a1 a2 a3 a4)).sent = a1.sent := by
  simp [State.mssReq, ha4]
@[simp] theorem State.mssReq_fresh (a1 : State) (a2) (a3) (a4) (ha4 : ∀ y0, (a4 y0).fresh = y0.fresh) : (resultOf a1 (State.mssReq a1 a2 a3 a4)).fresh = a1.fresh := by
  simp [State.mssReq, ha4]
@[simp] theorem State.mssReq_routineIds (a1 : State) (a2) (a3) (a4) (ha4 : ∀ y0, (a4 y0).routineIds = y0.routineIds) : (resultOf a1 (State.mssReq a1 a2 a3 a4)).routineIds = a1.routineIds := by
  simp [State.mssReq, ha4]
@[simp] theorem State.mssReq_pending (a1 : State) (a2) (a3) (a4) (ha4 : ∀ y0, (a4 y0).pending = y0.pending) : (resultOf a1 (State.mssReq a1 a2 a3 a4)).pending = a1.pending := by
  simp [State.mssReq, ha4]
theorem State.mssReq_completes (a1 : State) (a2) (a3) (a4) : (State.mssReq a1 a2 a3 a4) = .next (resultOf a1 (State.mssReq a1 a2 a3 a4)) := by
  unfold State.mssReq
  try dsimp only
  repeat' split
  all_goals rfl
theorem execBoot_frame (a1) (a2 : State) : (resultOf a2 (execBoot a1 a2)).ident = a2.ident ∧ (resultOf a2 (execBoot a1 a2)).pending = a2.pending := by
  simp only [execBoot]
  repeat' split
  all_goals simp
theorem execBoot_completes (a1) (a2 : State) : (execBoot a1 a2) = .next (resultOf a2 (execBoot a1 a2)) := by
  unfold execBoot
  try dsimp only
  repeat' split
  all_goals rfl
theorem execColdReset_frame (a1) (a2) (a3) (a4) (a5) (a6) (a7 : State) : (resultOf a7 (execColdReset a1 a2 a3 a4 a5 a6 a7)).ident = a7.ident ∧ (resultOf a7 (execColdReset a1 a2 a3 a4 a5 a6 a7)).nv = a7.nv ∧ (resultOf a7 (execColdReset a1 a2 a3 a4 a5 a6 a7)).pending = a7.pending := by
  simp only [execColdReset]
  repeat' split
  all_goals simp
theorem execColdReset_completes (a1) (a2) (a3) (a4) (a5) (a6) (a7 : State) : (execColdReset a1 a2 a3 a4 a5 a6 a7) = .next (resultOf a7 (execColdReset a1 a2 a3 a4 a5 a6 a7)) := by
  unfold execColdReset
  try dsimp only
  repeat' split
  all_goals rfl
theorem execMssWatchdog_frame (a1 : State) : (resultOf a1 (execMssWatchdog a1)).ident = a1.ident ∧ (resultOf a1 (execMssWatchdog a1)).top = a1.top ∧ (resultOf a1 (execMssWatchdog a1)).cores = a1.cores ∧ (resultOf a1 (execMssWatchdog a1)).mem = a1.mem ∧ (resultOf a1 (execMssWatchdog a1)).cle = a1.cle ∧ (resultOf a1 (execMssWatchdog a1)).pue0 = a1.pue0 ∧ (resultOf a1 (execMssWatchdog a1)).pue1 = a1.pue1 ∧ (resultOf a1 (execMssWatchdog a1)).cke = a1.cke ∧ (resultOf a1 (execMssWatchdog a1)).pwr = a1.pwr ∧ (resultOf a1 (execMssWatchdog a1)).fab = a1.fab ∧ (resultOf a1 (execMssWatchdog a1)).fresh = a1.fresh ∧ (resultOf a1 (execMssWatchdog a1)).routineIds = a1.routineIds ∧ (resultOf a1 (execMssWatchdog a1)).pending = a1.pending := by
  simp [execMssWatchdog]
theorem execMssWatchdog_completes (a1 : State) : (execMssWatchdog a1) = .next (resultOf a1 (execMssWatchdog a1)) := by
  unfold execMssWatchdog
  try dsimp only
  repeat' split
  all_goals rfl
theorem execMssRestart_frame (a1) (a2) (a3 : State) : (resultOf a3 (execMssRestart a1 a2 a3)).ident = a3.ident ∧ (resultOf a3 (execMssRestart a1 a2 a3)).pending = a3.pending := by
  unfold execMssRestart
  exact ⟨State.mssReq_ident _ _ _ _ (by intros; (try dsimp only); (repeat' split) <;> first | simp), State.mssReq_pending _ _ _ _ (by intros; (try dsimp only); (repeat' split) <;> first | simp)⟩
theorem execMssRestart_completes (a1) (a2) (a3 : State) : (execMssRestart a1 a2 a3) = .next (resultOf a3 (execMssRestart a1 a2 a3)) := by
  unfold execMssRestart
  try dsimp only
  repeat' split
  all_goals rfl
theorem execInitDone_frame (a1) (a2 : State) : (resultOf a2 (execInitDone a1 a2)).ident = a2.ident ∧ (resultOf a2 (execInitDone a1 a2)).nv = a2.nv ∧ (resultOf a2 (execInitDone a1 a2)).top = a2.top ∧ (resultOf a2 (execInitDone a1 a2)).cores = a2.cores ∧ (resultOf a2 (execInitDone a1 a2)).hub = a2.hub ∧ (resultOf a2 (execInitDone a1 a2)).err = a2.err ∧ (resultOf a2 (execInitDone a1 a2)).cle = a2.cle ∧ (resultOf a2 (execInitDone a1 a2)).pue0 = a2.pue0 ∧ (resultOf a2 (execInitDone a1 a2)).pue1 = a2.pue1 ∧ (resultOf a2 (execInitDone a1 a2)).cke = a2.cke ∧ (resultOf a2 (execInitDone a1 a2)).pwr = a2.pwr ∧ (resultOf a2 (execInitDone a1 a2)).fab = a2.fab ∧ (resultOf a2 (execInitDone a1 a2)).pmu = a2.pmu ∧ (resultOf a2 (execInitDone a1 a2)).sent = a2.sent ∧ (resultOf a2 (execInitDone a1 a2)).fresh = a2.fresh ∧ (resultOf a2 (execInitDone a1 a2)).routineIds = a2.routineIds ∧ (resultOf a2 (execInitDone a1 a2)).pending = a2.pending := by
  simp [execInitDone]
theorem execInitDone_completes (a1) (a2 : State) : (execInitDone a1 a2) = .next (resultOf a2 (execInitDone a1 a2)) := by
  unfold execInitDone
  try dsimp only
  repeat' split
  all_goals rfl
theorem execLogFlush_frame (a1) (a2) (a3 : State) : (resultOf a3 (execLogFlush a1 a2 a3)).ident = a3.ident ∧ (resultOf a3 (execLogFlush a1 a2 a3)).nv = a3.nv ∧ (resultOf a3 (execLogFlush a1 a2 a3)).top = a3.top ∧ (resultOf a3 (execLogFlush a1 a2 a3)).cores = a3.cores ∧ (resultOf a3 (execLogFlush a1 a2 a3)).mem = a3.mem ∧ (resultOf a3 (execLogFlush a1 a2 a3)).cle = a3.cle ∧ (resultOf a3 (execLogFlush a1 a2 a3)).pue0 = a3.pue0 ∧ (resultOf a3 (execLogFlush a1 a2 a3)).pue1 = a3.pue1 ∧ (resultOf a3 (execLogFlush a1 a2 a3)).cke = a3.cke ∧ (resultOf a3 (execLogFlush a1 a2 a3)).pwr = a3.pwr ∧ (resultOf a3 (execLogFlush a1 a2 a3)).fab = a3.fab ∧ (resultOf a3 (execLogFlush a1 a2 a3)).fresh = a3.fresh ∧ (resultOf a3 (execLogFlush a1 a2 a3)).routineIds = a3.routineIds ∧ (resultOf a3 (execLogFlush a1 a2 a3)).pending = a3.pending := by
  simp [execLogFlush]
theorem execLogFlush_completes (a1) (a2) (a3 : State) : (execLogFlush a1 a2 a3) = .next (resultOf a3 (execLogFlush a1 a2 a3)) := by
  unfold execLogFlush
  try dsimp only
  repeat' split
  all_goals rfl
theorem execRequestUpdate_frame (a1) (a2 : State) : (resultOf a2 (execRequestUpdate a1 a2)).ident = a2.ident ∧ (resultOf a2 (execRequestUpdate a1 a2)).nv = a2.nv ∧ (resultOf a2 (execRequestUpdate a1 a2)).top = a2.top ∧ (resultOf a2 (execRequestUpdate a1 a2)).cores = a2.cores ∧ (resultOf a2 (execRequestUpdate a1 a2)).err = a2.err ∧ (resultOf a2 (execRequestUpdate a1 a2)).mem = a2.mem ∧ (resultOf a2 (execRequestUpdate a1 a2)).cle = a2.cle ∧ (resultOf a2 (execRequestUpdate a1 a2)).pue0 = a2.pue0 ∧ (resultOf a2 (execRequestUpdate a1 a2)).pue1 = a2.pue1 ∧ (resultOf a2 (execRequestUpdate a1 a2)).cke = a2.cke ∧ (resultOf a2 (execRequestUpdate a1 a2)).pwr = a2.pwr ∧ (resultOf a2 (execRequestUpdate a1 a2)).fab = a2.fab ∧ (resultOf a2 (execRequestUpdate a1 a2)).pmu = a2.pmu ∧ (resultOf a2 (execRequestUpdate a1 a2)).routineIds = a2.routineIds ∧ (resultOf a2 (execRequestUpdate a1 a2)).pending = a2.pending := by
  unfold execRequestUpdate
  exact ⟨State.mssReq_ident _ _ _ _ (by intros; (try dsimp only); (repeat' split) <;> first | simp), State.mssReq_nv _ _ _ _ (by intros; (try dsimp only); (repeat' split) <;> first | simp), State.mssReq_top _ _ _ _ (by intros; (try dsimp only); (repeat' split) <;> first | simp), State.mssReq_cores _ _ _ _ (by intros; (try dsimp only); (repeat' split) <;> first | simp), State.mssReq_err _ _ _ _ (by intros; (try dsimp only); (repeat' split) <;> first | simp), State.mssReq_mem _ _ _ _ (by intros; (try dsimp only); (repeat' split) <;> first | simp), State.mssReq_cle _ _ _ _ (by intros; (try dsimp only); (repeat' split) <;> first | simp), State.mssReq_pue0 _ _ _ _ (by intros; (try dsimp only); (repeat' split) <;> first | simp), State.mssReq_pue1 _ _ _ _ (by intros; (try dsimp only); (repeat' split) <;> first | simp), State.mssReq_cke _ _ _ _ (by intros; (try dsimp only); (repeat' split) <;> first | simp), State.mssReq_pwr _ _ _ _ (by intros; (try dsimp only); (repeat' split) <;> first | simp), State.mssReq_fab _ _ _ _ (by intros; (try dsimp only); (repeat' split) <;> first | simp), State.mssReq_pmu _ _ _ _ (by intros; (try dsimp only); (repeat' split) <;> first | simp), State.mssReq_routineIds _ _ _ _ (by intros; (try dsimp only); (repeat' split) <;> first | simp), State.mssReq_pending _ _ _ _ (by intros; (try dsimp only); (repeat' split) <;> first | simp)⟩
theorem execRequestUpdate_completes (a1) (a2 : State) : (execRequestUpdate a1 a2) = .next (resultOf a2 (execRequestUpdate a1 a2)) := by
  unfold execRequestUpdate
  try dsimp only
  repeat' split
  all_goals rfl
@[simp] theorem State.onUpdate_ident (a1 : State) (a2) (a3) (a4) (a5) (ha5 : ∀ y0 y1, (a5 y0 y1).ident = y0.ident) : (resultOf a1 (State.onUpdate a1 a2 a3 a4 a5)).ident = a1.ident := by
  unfold State.onUpdate
  apply State.mssReq_ident
  intro t
  repeat' split
  all_goals simp_all
@[simp] theorem State.onUpdate_nv (a1 : State) (a2) (a3) (a4) (a5) (ha5 : ∀ y0 y1, (a5 y0 y1).nv = y0.nv) : (resultOf a1 (State.onUpdate a1 a2 a3 a4 a5)).nv = a1.nv := by
  unfold State.onUpdate
  apply State.mssReq_nv
  intro t
  repeat' split
  all_goals simp_all
@[simp] theorem State.onUpdate_top (a1 : State) (a2) (a3) (a4) (a5) (ha5 : ∀ y0 y1, (a5 y0 y1).top = y0.top) : (resultOf a1 (State.onUpdate a1 a2 a3 a4 a5)).top = a1.top := by
  unfold State.onUpdate
  apply State.mssReq_top
  intro t
  repeat' split
  all_goals simp_all
@[simp] theorem State.onUpdate_cores (a1 : State) (a2) (a3) (a4) (a5) (ha5 : ∀ y0 y1, (a5 y0 y1).cores = y0.cores) : (resultOf a1 (State.onUpdate a1 a2 a3 a4 a5)).cores = a1.cores := by
  unfold State.onUpdate
  apply State.mssReq_cores
  intro t
  repeat' split
  all_goals simp_all
@[simp] theorem State.onUpdate_err (a1 : State) (a2) (a3) (a4) (a5) (ha5 : ∀ y0 y1, (a5 y0 y1).err = y0.err) : (resultOf a1 (State.onUpdate a1 a2 a3 a4 a5)).err = a1.err := by
  unfold State.onUpdate
  apply State.mssReq_err
  intro t
  repeat' split
  all_goals simp_all
@[simp] theorem State.onUpdate_mem (a1 : State) (a2) (a3) (a4) (a5) (ha5 : ∀ y0 y1, (a5 y0 y1).mem = y0.mem) : (resultOf a1 (State.onUpdate a1 a2 a3 a4 a5)).mem = a1.mem := by
  unfold State.onUpdate
  apply State.mssReq_mem
  intro t
  repeat' split
  all_goals simp_all
@[simp] theorem State.onUpdate_cle (a1 : State) (a2) (a3) (a4) (a5) (ha5 : ∀ y0 y1, (a5 y0 y1).cle = y0.cle) : (resultOf a1 (State.onUpdate a1 a2 a3 a4 a5)).cle = a1.cle := by
  unfold State.onUpdate
  apply State.mssReq_cle
  intro t
  repeat' split
  all_goals simp_all
@[simp] theorem State.onUpdate_pue0 (a1 : State) (a2) (a3) (a4) (a5) (ha5 : ∀ y0 y1, (a5 y0 y1).pue0 = y0.pue0) : (resultOf a1 (State.onUpdate a1 a2 a3 a4 a5)).pue0 = a1.pue0 := by
  unfold State.onUpdate
  apply State.mssReq_pue0
  intro t
  repeat' split
  all_goals simp_all
@[simp] theorem State.onUpdate_pue1 (a1 : State) (a2) (a3) (a4) (a5) (ha5 : ∀ y0 y1, (a5 y0 y1).pue1 = y0.pue1) : (resultOf a1 (State.onUpdate a1 a2 a3 a4 a5)).pue1 = a1.pue1 := by
  unfold State.onUpdate
  apply State.mssReq_pue1
  intro t
  repeat' split
  all_goals simp_all
@[simp] theorem State.onUpdate_cke (a1 : State) (a2) (a3) (a4) (a5) (ha5 : ∀ y0 y1, (a5 y0 y1).cke = y0.cke) : (resultOf a1 (State.onUpdate a1 a2 a3 a4 a5)).cke = a1.cke := by
  unfold State.onUpdate
  apply State.mssReq_cke
  intro t
  repeat' split
  all_goals simp_all
@[simp] theorem State.onUpdate_pwr (a1 : State) (a2) (a3) (a4) (a5) (ha5 : ∀ y0 y1, (a5 y0 y1).pwr = y0.pwr) : (resultOf a1 (State.onUpdate a1 a2 a3 a4 a5)).pwr = a1.pwr := by
  unfold State.onUpdate
  apply State.mssReq_pwr
  intro t
  repeat' split
  all_goals simp_all
@[simp] theorem State.onUpdate_fab (a1 : State) (a2) (a3) (a4) (a5) (ha5 : ∀ y0 y1, (a5 y0 y1).fab = y0.fab) : (resultOf a1 (State.onUpdate a1 a2 a3 a4 a5)).fab = a1.fab := by
  unfold State.onUpdate
  apply State.mssReq_fab
  intro t
  repeat' split
  all_goals simp_all
@[simp] theorem State.onUpdate_pmu (a1 : State) (a2) (a3) (a4) (a5) (ha5 : ∀ y0 y1, (a5 y0 y1).pmu = y0.pmu) : (resultOf a1 (State.onUpdate a1 a2 a3 a4 a5)).pmu = a1.pmu := by
  unfold State.onUpdate
  apply State.mssReq_pmu
  intro t
  repeat' split
  all_goals simp_all
@[simp] theorem State.onUpdate_routineIds (a1 : State) (a2) (a3) (a4) (a5) (ha5 : ∀ y0 y1, (a5 y0 y1).routineIds = y0.routineIds) : (resultOf a1 (State.onUpdate a1 a2 a3 a4 a5)).routineIds = a1.routineIds := by
  unfold State.onUpdate
  apply State.mssReq_routineIds
  intro t
  repeat' split
  all_goals simp_all
@[simp] theorem State.onUpdate_pending (a1 : State) (a2) (a3) (a4) (a5) (ha5 : ∀ y0 y1, (a5 y0 y1).pending = y0.pending) : (resultOf a1 (State.onUpdate a1 a2 a3 a4 a5)).pending = a1.pending := by
  unfold State.onUpdate
  apply State.mssReq_pending
  intro t
  repeat' split
  all_goals simp_all
theorem State.onUpdate_completes (a1 : State) (a2) (a3) (a4) (a5) : (State.onUpdate a1 a2 a3 a4 a5) = .next (resultOf a1 (State.onUpdate a1 a2 a3 a4 a5)) := by
  unfold State.onUpdate
  try dsimp only
  repeat' split
  all_goals rfl
theorem execPassComponentTable_frame (a1) (a2) (a3 : State) : (resultOf a3 (execPassComponentTable a1 a2 a3)).ident = a3.ident ∧ (resultOf a3 (execPassComponentTable a1 a2 a3)).nv = a3.nv ∧ (resultOf a3 (execPassComponentTable a1 a2 a3)).top = a3.top ∧ (resultOf a3 (execPassComponentTable a1 a2 a3)).cores = a3.cores ∧ (resultOf a3 (execPassComponentTable a1 a2 a3)).err = a3.err ∧ (resultOf a3 (execPassComponentTable a1 a2 a3)).mem = a3.mem ∧ (resultOf a3 (execPassComponentTable a1 a2 a3)).cle = a3.cle ∧ (resultOf a3 (execPassComponentTable a1 a2 a3)).pue0 = a3.pue0 ∧ (resultOf a3 (execPassComponentTable a1 a2 a3)).pue1 = a3.pue1 ∧ (resultOf a3 (execPassComponentTable a1 a2 a3)).cke = a3.cke ∧ (resultOf a3 (execPassComponentTable a1 a2 a3)).pwr = a3.pwr ∧ (resultOf a3 (execPassComponentTable a1 a2 a3)).fab = a3.fab ∧ (resultOf a3 (execPassComponentTable a1 a2 a3)).pmu = a3.pmu ∧ (resultOf a3 (execPassComponentTable a1 a2 a3)).routineIds = a3.routineIds ∧ (resultOf a3 (execPassComponentTable a1 a2 a3)).pending = a3.pending := by
  unfold execPassComponentTable
  exact ⟨State.onUpdate_ident _ _ _ _ _ (by intros; (try dsimp only); (repeat' split) <;> first | simp), State.onUpdate_nv _ _ _ _ _ (by intros; (try dsimp only); (repeat' split) <;> first | simp), State.onUpdate_top _ _ _ _ _ (by intros; (try dsimp only); (repeat' split) <;> first | simp), State.onUpdate_cores _ _ _ _ _ (by intros; (try dsimp only); (repeat' split) <;> first | simp), State.onUpdate_err _ _ _ _ _ (by intros; (try dsimp only); (repeat' split) <;> first | simp), State.onUpdate_mem _ _ _ _ _ (by intros; (try dsimp only); (repeat' split) <;> first | simp), State.onUpdate_cle _ _ _ _ _ (by intros; (try dsimp only); (repeat' split) <;> first | simp), State.onUpdate_pue0 _ _ _ _ _ (by intros; (try dsimp only); (repeat' split) <;> first | simp), State.onUpdate_pue1 _ _ _ _ _ (by intros; (try dsimp only); (repeat' split) <;> first | simp), State.onUpdate_cke _ _ _ _ _ (by intros; (try dsimp only); (repeat' split) <;> first | simp), State.onUpdate_pwr _ _ _ _ _ (by intros; (try dsimp only); (repeat' split) <;> first | simp), State.onUpdate_fab _ _ _ _ _ (by intros; (try dsimp only); (repeat' split) <;> first | simp), State.onUpdate_pmu _ _ _ _ _ (by intros; (try dsimp only); (repeat' split) <;> first | simp), State.onUpdate_routineIds _ _ _ _ _ (by intros; (try dsimp only); (repeat' split) <;> first | simp), State.onUpdate_pending _ _ _ _ _ (by intros; (try dsimp only); (repeat' split) <;> first | simp)⟩
theorem execPassComponentTable_completes (a1) (a2) (a3 : State) : (execPassComponentTable a1 a2 a3) = .next (resultOf a3 (execPassComponentTable a1 a2 a3)) := by
  unfold execPassComponentTable
  try dsimp only
  repeat' split
  all_goals rfl
theorem execUpdateComponent_frame (a1) (a2 : State) : (resultOf a2 (execUpdateComponent a1 a2)).ident = a2.ident ∧ (resultOf a2 (execUpdateComponent a1 a2)).nv = a2.nv ∧ (resultOf a2 (execUpdateComponent a1 a2)).top = a2.top ∧ (resultOf a2 (execUpdateComponent a1 a2)).cores = a2.cores ∧ (resultOf a2 (execUpdateComponent a1 a2)).err = a2.err ∧ (resultOf a2 (execUpdateComponent a1 a2)).mem = a2.mem ∧ (resultOf a2 (execUpdateComponent a1 a2)).cle = a2.cle ∧ (resultOf a2 (execUpdateComponent a1 a2)).pue0 = a2.pue0 ∧ (resultOf a2 (execUpdateComponent a1 a2)).pue1 = a2.pue1 ∧ (resultOf a2 (execUpdateComponent a1 a2)).cke = a2.cke ∧ (resultOf a2 (execUpdateComponent a1 a2)).pwr = a2.pwr ∧ (resultOf a2 (execUpdateComponent a1 a2)).fab = a2.fab ∧ (resultOf a2 (execUpdateComponent a1 a2)).pmu = a2.pmu ∧ (resultOf a2 (execUpdateComponent a1 a2)).routineIds = a2.routineIds ∧ (resultOf a2 (execUpdateComponent a1 a2)).pending = a2.pending := by
  unfold execUpdateComponent
  exact ⟨State.onUpdate_ident _ _ _ _ _ (by intros; (try dsimp only); (repeat' split) <;> first | simp), State.onUpdate_nv _ _ _ _ _ (by intros; (try dsimp only); (repeat' split) <;> first | simp), State.onUpdate_top _ _ _ _ _ (by intros; (try dsimp only); (repeat' split) <;> first | simp), State.onUpdate_cores _ _ _ _ _ (by intros; (try dsimp only); (repeat' split) <;> first | simp), State.onUpdate_err _ _ _ _ _ (by intros; (try dsimp only); (repeat' split) <;> first | simp), State.onUpdate_mem _ _ _ _ _ (by intros; (try dsimp only); (repeat' split) <;> first | simp), State.onUpdate_cle _ _ _ _ _ (by intros; (try dsimp only); (repeat' split) <;> first | simp), State.onUpdate_pue0 _ _ _ _ _ (by intros; (try dsimp only); (repeat' split) <;> first | simp), State.onUpdate_pue1 _ _ _ _ _ (by intros; (try dsimp only); (repeat' split) <;> first | simp), State.onUpdate_cke _ _ _ _ _ (by intros; (try dsimp only); (repeat' split) <;> first | simp), State.onUpdate_pwr _ _ _ _ _ (by intros; (try dsimp only); (repeat' split) <;> first | simp), State.onUpdate_fab _ _ _ _ _ (by intros; (try dsimp only); (repeat' split) <;> first | simp), State.onUpdate_pmu _ _ _ _ _ (by intros; (try dsimp only); (repeat' split) <;> first | simp), State.onUpdate_routineIds _ _ _ _ _ (by intros; (try dsimp only); (repeat' split) <;> first | simp), State.onUpdate_pending _ _ _ _ _ (by intros; (try dsimp only); (repeat' split) <;> first | simp)⟩
theorem execUpdateComponent_completes (a1) (a2 : State) : (execUpdateComponent a1 a2) = .next (resultOf a2 (execUpdateComponent a1 a2)) := by
  unfold execUpdateComponent
  try dsimp only
  repeat' split
  all_goals rfl
theorem execFirmwareData_frame (a1) (a2) (a3) (a4 : State) : (resultOf a4 (execFirmwareData a1 a2 a3 a4)).ident = a4.ident ∧ (resultOf a4 (execFirmwareData a1 a2 a3 a4)).nv = a4.nv ∧ (resultOf a4 (execFirmwareData a1 a2 a3 a4)).top = a4.top ∧ (resultOf a4 (execFirmwareData a1 a2 a3 a4)).cores = a4.cores ∧ (resultOf a4 (execFirmwareData a1 a2 a3 a4)).err = a4.err ∧ (resultOf a4 (execFirmwareData a1 a2 a3 a4)).mem = a4.mem ∧ (resultOf a4 (execFirmwareData a1 a2 a3 a4)).cle = a4.cle ∧ (resultOf a4 (execFirmwareData a1 a2 a3 a4)).pue0 = a4.pue0 ∧ (resultOf a4 (execFirmwareData a1 a2 a3 a4)).pue1 = a4.pue1 ∧ (resultOf a4 (execFirmwareData a1 a2 a3 a4)).cke = a4.cke ∧ (resultOf a4 (execFirmwareData a1 a2 a3 a4)).pwr = a4.pwr ∧ (resultOf a4 (execFirmwareData a1 a2 a3 a4)).fab = a4.fab ∧ (resultOf a4 (execFirmwareData a1 a2 a3 a4)).pmu = a4.pmu ∧ (resultOf a4 (execFirmwareData a1 a2 a3 a4)).routineIds = a4.routineIds ∧ (resultOf a4 (execFirmwareData a1 a2 a3 a4)).pending = a4.pending := by
  unfold execFirmwareData
  exact ⟨State.onUpdate_ident _ _ _ _ _ (by intros; (try dsimp only); (repeat' split) <;> first | simp), State.onUpdate_nv _ _ _ _ _ (by intros; (try dsimp only); (repeat' split) <;> first | simp), State.onUpdate_top _ _ _ _ _ (by intros; (try dsimp only); (repeat' split) <;> first | simp), State.onUpdate_cores _ _ _ _ _ (by intros; (try dsimp only); (repeat' split) <;> first | simp), State.onUpdate_err _ _ _ _ _ (by intros; (try dsimp only); (repeat' split) <;> first | simp), State.onUpdate_mem _ _ _ _ _ (by intros; (try dsimp only); (repeat' split) <;> first | simp), State.onUpdate_cle _ _ _ _ _ (by intros; (try dsimp only); (repeat' split) <;> first | simp), State.onUpdate_pue0 _ _ _ _ _ (by intros; (try dsimp only); (repeat' split) <;> first | simp), State.onUpdate_pue1 _ _ _ _ _ (by intros; (try dsimp only); (repeat' split) <;> first | simp), State.onUpdate_cke _ _ _ _ _ (by intros; (try dsimp only); (repeat' split) <;> first | simp), State.onUpdate_pwr _ _ _ _ _ (by intros; (try dsimp only); (repeat' split) <;> first | simp), State.onUpdate_fab _ _ _ _ _ (by intros; (try dsimp only); (repeat' split) <;> first | simp), State.onUpdate_pmu _ _ _ _ _ (by intros; (try dsimp only); (repeat' split) <;> first | simp), State.onUpdate_routineIds _ _ _ _ _ (by intros; (try dsimp only); (repeat' split) <;> first | simp), State.onUpdate_pending _ _ _ _ _ (by intros; (try dsimp only); (repeat' split) <;> first | simp)⟩
theorem execFirmwareData_completes (a1) (a2) (a3) (a4 : State) : (execFirmwareData a1 a2 a3 a4) = .next (resultOf a4 (execFirmwareData a1 a2 a3 a4)) := by
  unfold execFirmwareData
  try dsimp only
  repeat' split
  all_goals rfl
theorem execActivateFirmware_frame (a1) (a2) (a3 : State) : (resultOf a3 (execActivateFirmware a1 a2 a3)).ident = a3.ident ∧ (resultOf a3 (execActivateFirmware a1 a2 a3)).nv = a3.nv ∧ (resultOf a3 (execActivateFirmware a1 a2 a3)).top = a3.top ∧ (resultOf a3 (execActivateFirmware a1 a2 a3)).cores = a3.cores ∧ (resultOf a3 (execActivateFirmware a1 a2 a3)).err = a3.err ∧ (resultOf a3 (execActivateFirmware a1 a2 a3)).mem = a3.mem ∧ (resultOf a3 (execActivateFirmware a1 a2 a3)).cle = a3.cle ∧ (resultOf a3 (execActivateFirmware a1 a2 a3)).pue0 = a3.pue0 ∧ (resultOf a3 (execActivateFirmware a1 a2 a3)).pue1 = a3.pue1 ∧ (resultOf a3 (execActivateFirmware a1 a2 a3)).cke = a3.cke ∧ (resultOf a3 (execActivateFirmware a1 a2 a3)).pwr = a3.pwr ∧ (resultOf a3 (execActivateFirmware a1 a2 a3)).fab = a3.fab ∧ (resultOf a3 (execActivateFirmware a1 a2 a3)).pmu = a3.pmu ∧ (resultOf a3 (execActivateFirmware a1 a2 a3)).routineIds = a3.routineIds ∧ (resultOf a3 (execActivateFirmware a1 a2 a3)).pending = a3.pending := by
  unfold execActivateFirmware
  exact ⟨State.onUpdate_ident _ _ _ _ _ (by intros; (try dsimp only); (repeat' split) <;> first | simp), State.onUpdate_nv _ _ _ _ _ (by intros; (try dsimp only); (repeat' split) <;> first | simp), State.onUpdate_top _ _ _ _ _ (by intros; (try dsimp only); (repeat' split) <;> first | simp), State.onUpdate_cores _ _ _ _ _ (by intros; (try dsimp only); (repeat' split) <;> first | simp), State.onUpdate_err _ _ _ _ _ (by intros; (try dsimp only); (repeat' split) <;> first | simp), State.onUpdate_mem _ _ _ _ _ (by intros; (try dsimp only); (repeat' split) <;> first | simp), State.onUpdate_cle _ _ _ _ _ (by intros; (try dsimp only); (repeat' split) <;> first | simp), State.onUpdate_pue0 _ _ _ _ _ (by intros; (try dsimp only); (repeat' split) <;> first | simp), State.onUpdate_pue1 _ _ _ _ _ (by intros; (try dsimp only); (repeat' split) <;> first | simp), State.onUpdate_cke _ _ _ _ _ (by intros; (try dsimp only); (repeat' split) <;> first | simp), State.onUpdate_pwr _ _ _ _ _ (by intros; (try dsimp only); (repeat' split) <;> first | simp), State.onUpdate_fab _ _ _ _ _ (by intros; (try dsimp only); (repeat' split) <;> first | simp), State.onUpdate_pmu _ _ _ _ _ (by intros; (try dsimp only); (repeat' split) <;> first | simp), State.onUpdate_routineIds _ _ _ _ _ (by intros; (try dsimp only); (repeat' split) <;> first | simp), State.onUpdate_pending _ _ _ _ _ (by intros; (try dsimp only); (repeat' split) <;> first | simp)⟩
theorem execActivateFirmware_completes (a1) (a2) (a3 : State) : (execActivateFirmware a1 a2 a3) = .next (resultOf a3 (execActivateFirmware a1 a2 a3)) := by
  unfold execActivateFirmware
  try dsimp only
  repeat' split
  all_goals rfl
theorem execCancelUpdate_frame (a1) (a2 : State) : (resultOf a2 (execCancelUpdate a1 a2)).ident = a2.ident ∧ (resultOf a2 (execCancelUpdate a1 a2)).nv = a2.nv ∧ (resultOf a2 (execCancelUpdate a1 a2)).top = a2.top ∧ (resultOf a2 (execCancelUpdate a1 a2)).cores = a2.cores ∧ (resultOf a2 (execCancelUpdate a1 a2)).err = a2.err ∧ (resultOf a2 (execCancelUpdate a1 a2)).mem = a2.mem ∧ (resultOf a2 (execCancelUpdate a1 a2)).cle = a2.cle ∧ (resultOf a2 (execCancelUpdate a1 a2)).pue0 = a2.pue0 ∧ (resultOf a2 (execCancelUpdate a1 a2)).pue1 = a2.pue1 ∧ (resultOf a2 (execCancelUpdate a1 a2)).cke = a2.cke ∧ (resultOf a2 (execCancelUpdate a1 a2)).pwr = a2.pwr ∧ (resultOf a2 (execCancelUpdate a1 a2)).fab = a2.fab ∧ (resultOf a2 (execCancelUpdate a1 a2)).pmu = a2.pmu ∧ (resultOf a2 (execCancelUpdate a1 a2)).routineIds = a2.routineIds ∧ (resultOf a2 (execCancelUpdate a1 a2)).pending = a2.pending := by
  unfold execCancelUpdate
  exact ⟨State.onUpdate_ident _ _ _ _ _ (by intros; (try dsimp only); (repeat' split) <;> first | simp), State.onUpdate_nv _ _ _ _ _ (by intros; (try dsimp only); (repeat' split) <;> first | simp), State.onUpdate_top _ _ _ _ _ (by intros; (try dsimp only); (repeat' split) <;> first | simp), State.onUpdate_cores _ _ _ _ _ (by intros; (try dsimp only); (repeat' split) <;> first | simp), State.onUpdate_err _ _ _ _ _ (by intros; (try dsimp only); (repeat' split) <;> first | simp), State.onUpdate_mem _ _ _ _ _ (by intros; (try dsimp only); (repeat' split) <;> first | simp), State.onUpdate_cle _ _ _ _ _ (by intros; (try dsimp only); (repeat' split) <;> first | simp), State.onUpdate_pue0 _ _ _ _ _ (by intros; (try dsimp only); (repeat' split) <;> first | simp), State.onUpdate_pue1 _ _ _ _ _ (by intros; (try dsimp only); (repeat' split) <;> first | simp), State.onUpdate_cke _ _ _ _ _ (by intros; (try dsimp only); (repeat' split) <;> first | simp), State.onUpdate_pwr _ _ _ _ _ (by intros; (try dsimp only); (repeat' split) <;> first | simp), State.onUpdate_fab _ _ _ _ _ (by intros; (try dsimp only); (repeat' split) <;> first | simp), State.onUpdate_pmu _ _ _ _ _ (by intros; (try dsimp only); (repeat' split) <;> first | simp), State.onUpdate_routineIds _ _ _ _ _ (by intros; (try dsimp only); (repeat' split) <;> first | simp), State.onUpdate_pending _ _ _ _ _ (by intros; (try dsimp only); (repeat' split) <;> first | simp)⟩
theorem execCancelUpdate_completes (a1) (a2 : State) : (execCancelUpdate a1 a2) = .next (resultOf a2 (execCancelUpdate a1 a2)) := by
  unfold execCancelUpdate
  try dsimp only
  repeat' split
  all_goals rfl
theorem execUpdateLockTimeout_frame (a1 : State) : (resultOf a1 (execUpdateLockTimeout a1)).ident = a1.ident ∧ (resultOf a1 (execUpdateLockTimeout a1)).nv = a1.nv ∧ (resultOf a1 (execUpdateLockTimeout a1)).top = a1.top ∧ (resultOf a1 (execUpdateLockTimeout a1)).cores = a1.cores ∧ (resultOf a1 (execUpdateLockTimeout a1)).hub = a1.hub ∧ (resultOf a1 (execUpdateLockTimeout a1)).err = a1.err ∧ (resultOf a1 (execUpdateLockTimeout a1)).mem = a1.mem ∧ (resultOf a1 (execUpdateLockTimeout a1)).cle = a1.cle ∧ (resultOf a1 (execUpdateLockTimeout a1)).pue0 = a1.pue0 ∧ (resultOf a1 (execUpdateLockTimeout a1)).pue1 = a1.pue1 ∧ (resultOf a1 (execUpdateLockTimeout a1)).cke = a1.cke ∧ (resultOf a1 (execUpdateLockTimeout a1)).pwr = a1.pwr ∧ (resultOf a1 (execUpdateLockTimeout a1)).fab = a1.fab ∧ (resultOf a1 (execUpdateLockTimeout a1)).pmu = a1.pmu ∧ (resultOf a1 (execUpdateLockTimeout a1)).sent = a1.sent ∧ (resultOf a1 (execUpdateLockTimeout a1)).fresh = a1.fresh ∧ (resultOf a1 (execUpdateLockTimeout a1)).routineIds = a1.routineIds ∧ (resultOf a1 (execUpdateLockTimeout a1)).pending = a1.pending := by
  simp [execUpdateLockTimeout]
theorem execUpdateLockTimeout_completes (a1 : State) : (execUpdateLockTimeout a1) = .next (resultOf a1 (execUpdateLockTimeout a1)) := by
  unfold execUpdateLockTimeout
  try dsimp only
  repeat' split
  all_goals rfl
theorem execLogRead_frame (a1) (a2) (a3) (a4) (a5 : State) : (resultOf a5 (execLogRead a1 a2 a3 a4 a5)).ident = a5.ident ∧ (resultOf a5 (execLogRead a1 a2 a3 a4 a5)).nv = a5.nv ∧ (resultOf a5 (execLogRead a1 a2 a3 a4 a5)).top = a5.top ∧ (resultOf a5 (execLogRead a1 a2 a3 a4 a5)).cores = a5.cores ∧ (resultOf a5 (execLogRead a1 a2 a3 a4 a5)).err = a5.err ∧ (resultOf a5 (execLogRead a1 a2 a3 a4 a5)).mem = a5.mem ∧ (resultOf a5 (execLogRead a1 a2 a3 a4 a5)).cle = a5.cle ∧ (resultOf a5 (execLogRead a1 a2 a3 a4 a5)).pue0 = a5.pue0 ∧ (resultOf a5 (execLogRead a1 a2 a3 a4 a5)).pue1 = a5.pue1 ∧ (resultOf a5 (execLogRead a1 a2 a3 a4 a5)).cke = a5.cke ∧ (resultOf a5 (execLogRead a1 a2 a3 a4 a5)).pwr = a5.pwr ∧ (resultOf a5 (execLogRead a1 a2 a3 a4 a5)).fab = a5.fab ∧ (resultOf a5 (execLogRead a1 a2 a3 a4 a5)).pmu = a5.pmu ∧ (resultOf a5 (execLogRead a1 a2 a3 a4 a5)).routineIds = a5.routineIds ∧ (resultOf a5 (execLogRead a1 a2 a3 a4 a5)).pending = a5.pending := by
  simp [execLogRead]
theorem execLogRead_completes (a1) (a2) (a3) (a4) (a5 : State) : (execLogRead a1 a2 a3 a4 a5) = .next (resultOf a5 (execLogRead a1 a2 a3 a4 a5)) := by
  unfold execLogRead
  try dsimp only
  repeat' split
  all_goals rfl
theorem execFwConfirm_frame (a1) (a2) (a3 : State) : (resultOf a3 (execFwConfirm a1 a2 a3)).ident = a3.ident ∧ (resultOf a3 (execFwConfirm a1 a2 a3)).top = a3.top ∧ (resultOf a3 (execFwConfirm a1 a2 a3)).cores = a3.cores ∧ (resultOf a3 (execFwConfirm a1 a2 a3)).err = a3.err ∧ (resultOf a3 (execFwConfirm a1 a2 a3)).mem = a3.mem ∧ (resultOf a3 (execFwConfirm a1 a2 a3)).cle = a3.cle ∧ (resultOf a3 (execFwConfirm a1 a2 a3)).pue0 = a3.pue0 ∧ (resultOf a3 (execFwConfirm a1 a2 a3)).pue1 = a3.pue1 ∧ (resultOf a3 (execFwConfirm a1 a2 a3)).cke = a3.cke ∧ (resultOf a3 (execFwConfirm a1 a2 a3)).pwr = a3.pwr ∧ (resultOf a3 (execFwConfirm a1 a2 a3)).fab = a3.fab ∧ (resultOf a3 (execFwConfirm a1 a2 a3)).pmu = a3.pmu ∧ (resultOf a3 (execFwConfirm a1 a2 a3)).routineIds = a3.routineIds ∧ (resultOf a3 (execFwConfirm a1 a2 a3)).pending = a3.pending := by
  simp [execFwConfirm]
theorem execFwConfirm_completes (a1) (a2) (a3 : State) : (execFwConfirm a1 a2 a3) = .next (resultOf a3 (execFwConfirm a1 a2 a3)) := by
  unfold execFwConfirm
  try dsimp only
  repeat' split
  all_goals rfl
theorem execOwnerKeySet_frame (a1) (a2) (a3 : State) : (resultOf a3 (execOwnerKeySet a1 a2 a3)).ident = a3.ident ∧ (resultOf a3 (execOwnerKeySet a1 a2 a3)).top = a3.top ∧ (resultOf a3 (execOwnerKeySet a1 a2 a3)).cores = a3.cores ∧ (resultOf a3 (execOwnerKeySet a1 a2 a3)).err = a3.err ∧ (resultOf a3 (execOwnerKeySet a1 a2 a3)).mem = a3.mem ∧ (resultOf a3 (execOwnerKeySet a1 a2 a3)).cle = a3.cle ∧ (resultOf a3 (execOwnerKeySet a1 a2 a3)).pue0 = a3.pue0 ∧ (resultOf a3 (execOwnerKeySet a1 a2 a3)).pue1 = a3.pue1 ∧ (resultOf a3 (execOwnerKeySet a1 a2 a3)).cke = a3.cke ∧ (resultOf a3 (execOwnerKeySet a1 a2 a3)).pwr = a3.pwr ∧ (resultOf a3 (execOwnerKeySet a1 a2 a3)).fab = a3.fab ∧ (resultOf a3 (execOwnerKeySet a1 a2 a3)).pmu = a3.pmu ∧ (resultOf a3 (execOwnerKeySet a1 a2 a3)).routineIds = a3.routineIds ∧ (resultOf a3 (execOwnerKeySet a1 a2 a3)).pending = a3.pending := by
  unfold execOwnerKeySet
  exact ⟨State.mssReq_ident _ _ _ _ (by intros; (try dsimp only); (repeat' split) <;> first | simp), State.mssReq_top _ _ _ _ (by intros; (try dsimp only); (repeat' split) <;> first | simp), State.mssReq_cores _ _ _ _ (by intros; (try dsimp only); (repeat' split) <;> first | simp), State.mssReq_err _ _ _ _ (by intros; (try dsimp only); (repeat' split) <;> first | simp), State.mssReq_mem _ _ _ _ (by intros; (try dsimp only); (repeat' split) <;> first | simp), State.mssReq_cle _ _ _ _ (by intros; (try dsimp only); (repeat' split) <;> first | simp), State.mssReq_pue0 _ _ _ _ (by intros; (try dsimp only); (repeat' split) <;> first | simp), State.mssReq_pue1 _ _ _ _ (by intros; (try dsimp only); (repeat' split) <;> first | simp), State.mssReq_cke _ _ _ _ (by intros; (try dsimp only); (repeat' split) <;> first | simp), State.mssReq_pwr _ _ _ _ (by intros; (try dsimp only); (repeat' split) <;> first | simp), State.mssReq_fab _ _ _ _ (by intros; (try dsimp only); (repeat' split) <;> first | simp), State.mssReq_pmu _ _ _ _ (by intros; (try dsimp only); (repeat' split) <;> first | simp), State.mssReq_routineIds _ _ _ _ (by intros; (try dsimp only); (repeat' split) <;> first | simp), State.mssReq_pending _ _ _ _ (by intros; (try dsimp only); (repeat' split) <;> first | simp)⟩
theorem execOwnerKeySet_completes (a1) (a2) (a3 : State) : (execOwnerKeySet a1 a2 a3) = .next (resultOf a3 (execOwnerKeySet a1 a2 a3)) := by
  unfold execOwnerKeySet
  try dsimp only
  repeat' split
  all_goals rfl
theorem execRoutineLoad_frame (a1) (a2) (a3) (a4) (a5) (a6) (a7 : State) : (resultOf a7 (execRoutineLoad a1 a2 a3 a4 a5 a6 a7)).ident = a7.ident ∧ (resultOf a7 (execRoutineLoad a1 a2 a3 a4 a5 a6 a7)).nv = a7.nv ∧ (resultOf a7 (execRoutineLoad a1 a2 a3 a4 a5 a6 a7)).top = a7.top ∧ (resultOf a7 (execRoutineLoad a1 a2 a3 a4 a5 a6 a7)).cores = a7.cores ∧ (resultOf a7 (execRoutineLoad a1 a2 a3 a4 a5 a6 a7)).mem = a7.mem ∧ (resultOf a7 (execRoutineLoad a1 a2 a3 a4 a5 a6 a7)).cle = a7.cle ∧ (resultOf a7 (execRoutineLoad a1 a2 a3 a4 a5 a6 a7)).pue0 = a7.pue0 ∧ (resultOf a7 (execRoutineLoad a1 a2 a3 a4 a5 a6 a7)).pue1 = a7.pue1 ∧ (resultOf a7 (execRoutineLoad a1 a2 a3 a4 a5 a6 a7)).cke = a7.cke ∧ (resultOf a7 (execRoutineLoad a1 a2 a3 a4 a5 a6 a7)).pwr = a7.pwr ∧ (resultOf a7 (execRoutineLoad a1 a2 a3 a4 a5 a6 a7)).fab = a7.fab ∧ (resultOf a7 (execRoutineLoad a1 a2 a3 a4 a5 a6 a7)).pending = a7.pending := by
  simp [execRoutineLoad]
theorem execRoutineLoad_completes (a1) (a2) (a3) (a4) (a5) (a6) (a7 : State) : (execRoutineLoad a1 a2 a3 a4 a5 a6 a7) = .next (resultOf a7 (execRoutineLoad a1 a2 a3 a4 a5 a6 a7)) := by
  unfold execRoutineLoad
  try dsimp only
  repeat' split
  all_goals rfl
theorem execQuiesce_frame (a1) (a2) (a3 : State) : (resultOf a3 (execQuiesce a1 a2 a3)).ident = a3.ident ∧ (resultOf a3 (execQuiesce a1 a2 a3)).nv = a3.nv ∧ (resultOf a3 (execQuiesce a1 a2 a3)).top = a3.top ∧ (resultOf a3 (execQuiesce a1 a2 a3)).cores = a3.cores ∧ (resultOf a3 (execQuiesce a1 a2 a3)).mem = a3.mem ∧ (resultOf a3 (execQuiesce a1 a2 a3)).cle = a3.cle ∧ (resultOf a3 (execQuiesce a1 a2 a3)).pue0 = a3.pue0 ∧ (resultOf a3 (execQuiesce a1 a2 a3)).pue1 = a3.pue1 ∧ (resultOf a3 (execQuiesce a1 a2 a3)).cke = a3.cke ∧ (resultOf a3 (execQuiesce a1 a2 a3)).pwr = a3.pwr ∧ (resultOf a3 (execQuiesce a1 a2 a3)).mss = a3.mss ∧ (resultOf a3 (execQuiesce a1 a2 a3)).fresh = a3.fresh ∧ (resultOf a3 (execQuiesce a1 a2 a3)).routineIds = a3.routineIds ∧ (resultOf a3 (execQuiesce a1 a2 a3)).pending = a3.pending := by
  simp [execQuiesce]
theorem execQuiesce_completes (a1) (a2) (a3 : State) : (execQuiesce a1 a2 a3) = .next (resultOf a3 (execQuiesce a1 a2 a3)) := by
  unfold execQuiesce
  try dsimp only
  repeat' split
  all_goals rfl
theorem execPortDisable_frame (a1) (a2) (a3 : State) : (resultOf a3 (execPortDisable a1 a2 a3)).ident = a3.ident ∧ (resultOf a3 (execPortDisable a1 a2 a3)).nv = a3.nv ∧ (resultOf a3 (execPortDisable a1 a2 a3)).top = a3.top ∧ (resultOf a3 (execPortDisable a1 a2 a3)).cores = a3.cores ∧ (resultOf a3 (execPortDisable a1 a2 a3)).mem = a3.mem ∧ (resultOf a3 (execPortDisable a1 a2 a3)).cle = a3.cle ∧ (resultOf a3 (execPortDisable a1 a2 a3)).pue0 = a3.pue0 ∧ (resultOf a3 (execPortDisable a1 a2 a3)).pue1 = a3.pue1 ∧ (resultOf a3 (execPortDisable a1 a2 a3)).cke = a3.cke ∧ (resultOf a3 (execPortDisable a1 a2 a3)).pwr = a3.pwr ∧ (resultOf a3 (execPortDisable a1 a2 a3)).mss = a3.mss ∧ (resultOf a3 (execPortDisable a1 a2 a3)).fresh = a3.fresh ∧ (resultOf a3 (execPortDisable a1 a2 a3)).routineIds = a3.routineIds ∧ (resultOf a3 (execPortDisable a1 a2 a3)).pending = a3.pending := by
  simp [execPortDisable]
theorem execPortDisable_completes (a1) (a2) (a3 : State) : (execPortDisable a1 a2 a3) = .next (resultOf a3 (execPortDisable a1 a2 a3)) := by
  unfold execPortDisable
  try dsimp only
  repeat' split
  all_goals rfl
theorem execFullTrain_frame (a1) (a2) (a3 : State) : (resultOf a3 (execFullTrain a1 a2 a3)).ident = a3.ident ∧ (resultOf a3 (execFullTrain a1 a2 a3)).nv = a3.nv ∧ (resultOf a3 (execFullTrain a1 a2 a3)).top = a3.top ∧ (resultOf a3 (execFullTrain a1 a2 a3)).cores = a3.cores ∧ (resultOf a3 (execFullTrain a1 a2 a3)).mem = a3.mem ∧ (resultOf a3 (execFullTrain a1 a2 a3)).cle = a3.cle ∧ (resultOf a3 (execFullTrain a1 a2 a3)).pue0 = a3.pue0 ∧ (resultOf a3 (execFullTrain a1 a2 a3)).pue1 = a3.pue1 ∧ (resultOf a3 (execFullTrain a1 a2 a3)).cke = a3.cke ∧ (resultOf a3 (execFullTrain a1 a2 a3)).pwr = a3.pwr ∧ (resultOf a3 (execFullTrain a1 a2 a3)).mss = a3.mss ∧ (resultOf a3 (execFullTrain a1 a2 a3)).fresh = a3.fresh ∧ (resultOf a3 (execFullTrain a1 a2 a3)).routineIds = a3.routineIds ∧ (resultOf a3 (execFullTrain a1 a2 a3)).pending = a3.pending := by
  simp [execFullTrain]
theorem execFullTrain_completes (a1) (a2) (a3 : State) : (execFullTrain a1 a2 a3) = .next (resultOf a3 (execFullTrain a1 a2 a3)) := by
  unfold execFullTrain
  try dsimp only
  repeat' split
  all_goals rfl
theorem execQuiesced_frame (a1) (a2 : State) : (resultOf a2 (execQuiesced a1 a2)).ident = a2.ident ∧ (resultOf a2 (execQuiesced a1 a2)).nv = a2.nv ∧ (resultOf a2 (execQuiesced a1 a2)).top = a2.top ∧ (resultOf a2 (execQuiesced a1 a2)).cores = a2.cores ∧ (resultOf a2 (execQuiesced a1 a2)).mem = a2.mem ∧ (resultOf a2 (execQuiesced a1 a2)).cle = a2.cle ∧ (resultOf a2 (execQuiesced a1 a2)).pue0 = a2.pue0 ∧ (resultOf a2 (execQuiesced a1 a2)).pue1 = a2.pue1 ∧ (resultOf a2 (execQuiesced a1 a2)).cke = a2.cke ∧ (resultOf a2 (execQuiesced a1 a2)).pwr = a2.pwr ∧ (resultOf a2 (execQuiesced a1 a2)).mss = a2.mss ∧ (resultOf a2 (execQuiesced a1 a2)).fresh = a2.fresh ∧ (resultOf a2 (execQuiesced a1 a2)).routineIds = a2.routineIds ∧ (resultOf a2 (execQuiesced a1 a2)).pending = a2.pending := by
  simp [execQuiesced]
theorem execQuiesced_completes (a1) (a2 : State) : (execQuiesced a1 a2) = .next (resultOf a2 (execQuiesced a1 a2)) := by
  unfold execQuiesced
  try dsimp only
  repeat' split
  all_goals rfl
theorem execLossOfLight_frame (a1) (a2 : State) : (resultOf a2 (execLossOfLight a1 a2)).ident = a2.ident ∧ (resultOf a2 (execLossOfLight a1 a2)).nv = a2.nv ∧ (resultOf a2 (execLossOfLight a1 a2)).top = a2.top ∧ (resultOf a2 (execLossOfLight a1 a2)).cores = a2.cores ∧ (resultOf a2 (execLossOfLight a1 a2)).mem = a2.mem ∧ (resultOf a2 (execLossOfLight a1 a2)).cle = a2.cle ∧ (resultOf a2 (execLossOfLight a1 a2)).pue0 = a2.pue0 ∧ (resultOf a2 (execLossOfLight a1 a2)).pue1 = a2.pue1 ∧ (resultOf a2 (execLossOfLight a1 a2)).cke = a2.cke ∧ (resultOf a2 (execLossOfLight a1 a2)).pwr = a2.pwr ∧ (resultOf a2 (execLossOfLight a1 a2)).mss = a2.mss ∧ (resultOf a2 (execLossOfLight a1 a2)).fresh = a2.fresh ∧ (resultOf a2 (execLossOfLight a1 a2)).routineIds = a2.routineIds ∧ (resultOf a2 (execLossOfLight a1 a2)).pending = a2.pending := by
  simp [execLossOfLight]
theorem execLossOfLight_completes (a1) (a2 : State) : (execLossOfLight a1 a2) = .next (resultOf a2 (execLossOfLight a1 a2)) := by
  unfold execLossOfLight
  try dsimp only
  repeat' split
  all_goals rfl
theorem execLightReturn_frame (a1) (a2 : State) : (resultOf a2 (execLightReturn a1 a2)).ident = a2.ident ∧ (resultOf a2 (execLightReturn a1 a2)).nv = a2.nv ∧ (resultOf a2 (execLightReturn a1 a2)).top = a2.top ∧ (resultOf a2 (execLightReturn a1 a2)).cores = a2.cores ∧ (resultOf a2 (execLightReturn a1 a2)).hub = a2.hub ∧ (resultOf a2 (execLightReturn a1 a2)).err = a2.err ∧ (resultOf a2 (execLightReturn a1 a2)).mem = a2.mem ∧ (resultOf a2 (execLightReturn a1 a2)).cle = a2.cle ∧ (resultOf a2 (execLightReturn a1 a2)).pue0 = a2.pue0 ∧ (resultOf a2 (execLightReturn a1 a2)).pue1 = a2.pue1 ∧ (resultOf a2 (execLightReturn a1 a2)).cke = a2.cke ∧ (resultOf a2 (execLightReturn a1 a2)).pwr = a2.pwr ∧ (resultOf a2 (execLightReturn a1 a2)).pmu = a2.pmu ∧ (resultOf a2 (execLightReturn a1 a2)).mss = a2.mss ∧ (resultOf a2 (execLightReturn a1 a2)).sent = a2.sent ∧ (resultOf a2 (execLightReturn a1 a2)).fresh = a2.fresh ∧ (resultOf a2 (execLightReturn a1 a2)).routineIds = a2.routineIds ∧ (resultOf a2 (execLightReturn a1 a2)).pending = a2.pending := by
  simp [execLightReturn]
theorem execLightReturn_completes (a1) (a2 : State) : (execLightReturn a1 a2) = .next (resultOf a2 (execLightReturn a1 a2)) := by
  unfold execLightReturn
  try dsimp only
  repeat' split
  all_goals rfl
theorem execFastTrainFallback_frame (a1) (a2 : State) : (resultOf a2 (execFastTrainFallback a1 a2)).ident = a2.ident ∧ (resultOf a2 (execFastTrainFallback a1 a2)).nv = a2.nv ∧ (resultOf a2 (execFastTrainFallback a1 a2)).top = a2.top ∧ (resultOf a2 (execFastTrainFallback a1 a2)).cores = a2.cores ∧ (resultOf a2 (execFastTrainFallback a1 a2)).hub = a2.hub ∧ (resultOf a2 (execFastTrainFallback a1 a2)).err = a2.err ∧ (resultOf a2 (execFastTrainFallback a1 a2)).mem = a2.mem ∧ (resultOf a2 (execFastTrainFallback a1 a2)).cle = a2.cle ∧ (resultOf a2 (execFastTrainFallback a1 a2)).pue0 = a2.pue0 ∧ (resultOf a2 (execFastTrainFallback a1 a2)).pue1 = a2.pue1 ∧ (resultOf a2 (execFastTrainFallback a1 a2)).cke = a2.cke ∧ (resultOf a2 (execFastTrainFallback a1 a2)).pwr = a2.pwr ∧ (resultOf a2 (execFastTrainFallback a1 a2)).pmu = a2.pmu ∧ (resultOf a2 (execFastTrainFallback a1 a2)).mss = a2.mss ∧ (resultOf a2 (execFastTrainFallback a1 a2)).sent = a2.sent ∧ (resultOf a2 (execFastTrainFallback a1 a2)).fresh = a2.fresh ∧ (resultOf a2 (execFastTrainFallback a1 a2)).routineIds = a2.routineIds ∧ (resultOf a2 (execFastTrainFallback a1 a2)).pending = a2.pending := by
  simp [execFastTrainFallback]
theorem execFastTrainFallback_completes (a1) (a2 : State) : (execFastTrainFallback a1 a2) = .next (resultOf a2 (execFastTrainFallback a1 a2)) := by
  unfold execFastTrainFallback
  try dsimp only
  repeat' split
  all_goals rfl
theorem execTrainingComplete_frame (a1) (a2) (a3 : State) : (resultOf a3 (execTrainingComplete a1 a2 a3)).ident = a3.ident ∧ (resultOf a3 (execTrainingComplete a1 a2 a3)).nv = a3.nv ∧ (resultOf a3 (execTrainingComplete a1 a2 a3)).top = a3.top ∧ (resultOf a3 (execTrainingComplete a1 a2 a3)).cores = a3.cores ∧ (resultOf a3 (execTrainingComplete a1 a2 a3)).hub = a3.hub ∧ (resultOf a3 (execTrainingComplete a1 a2 a3)).err = a3.err ∧ (resultOf a3 (execTrainingComplete a1 a2 a3)).mem = a3.mem ∧ (resultOf a3 (execTrainingComplete a1 a2 a3)).cle = a3.cle ∧ (resultOf a3 (execTrainingComplete a1 a2 a3)).pue0 = a3.pue0 ∧ (resultOf a3 (execTrainingComplete a1 a2 a3)).pue1 = a3.pue1 ∧ (resultOf a3 (execTrainingComplete a1 a2 a3)).cke = a3.cke ∧ (resultOf a3 (execTrainingComplete a1 a2 a3)).pwr = a3.pwr ∧ (resultOf a3 (execTrainingComplete a1 a2 a3)).pmu = a3.pmu ∧ (resultOf a3 (execTrainingComplete a1 a2 a3)).mss = a3.mss ∧ (resultOf a3 (execTrainingComplete a1 a2 a3)).fresh = a3.fresh ∧ (resultOf a3 (execTrainingComplete a1 a2 a3)).routineIds = a3.routineIds ∧ (resultOf a3 (execTrainingComplete a1 a2 a3)).pending = a3.pending := by
  simp [execTrainingComplete]
theorem execTrainingComplete_completes (a1) (a2) (a3 : State) : (execTrainingComplete a1 a2 a3) = .next (resultOf a3 (execTrainingComplete a1 a2 a3)) := by
  unfold execTrainingComplete
  try dsimp only
  repeat' split
  all_goals rfl
theorem execIdentityExchange_frame (a1) (a2) (a3 : State) : (resultOf a3 (execIdentityExchange a1 a2 a3)).ident = a3.ident ∧ (resultOf a3 (execIdentityExchange a1 a2 a3)).nv = a3.nv ∧ (resultOf a3 (execIdentityExchange a1 a2 a3)).top = a3.top ∧ (resultOf a3 (execIdentityExchange a1 a2 a3)).cores = a3.cores ∧ (resultOf a3 (execIdentityExchange a1 a2 a3)).mem = a3.mem ∧ (resultOf a3 (execIdentityExchange a1 a2 a3)).cle = a3.cle ∧ (resultOf a3 (execIdentityExchange a1 a2 a3)).pue0 = a3.pue0 ∧ (resultOf a3 (execIdentityExchange a1 a2 a3)).pue1 = a3.pue1 ∧ (resultOf a3 (execIdentityExchange a1 a2 a3)).cke = a3.cke ∧ (resultOf a3 (execIdentityExchange a1 a2 a3)).pwr = a3.pwr ∧ (resultOf a3 (execIdentityExchange a1 a2 a3)).mss = a3.mss ∧ (resultOf a3 (execIdentityExchange a1 a2 a3)).fresh = a3.fresh ∧ (resultOf a3 (execIdentityExchange a1 a2 a3)).routineIds = a3.routineIds ∧ (resultOf a3 (execIdentityExchange a1 a2 a3)).pending = a3.pending := by
  simp [execIdentityExchange]
theorem execIdentityExchange_completes (a1) (a2) (a3 : State) : (execIdentityExchange a1 a2 a3) = .next (resultOf a3 (execIdentityExchange a1 a2 a3)) := by
  unfold execIdentityExchange
  try dsimp only
  repeat' split
  all_goals rfl
theorem execFabLinkDown_frame (a1) (a2 : State) : (resultOf a2 (execFabLinkDown a1 a2)).ident = a2.ident ∧ (resultOf a2 (execFabLinkDown a1 a2)).nv = a2.nv ∧ (resultOf a2 (execFabLinkDown a1 a2)).top = a2.top ∧ (resultOf a2 (execFabLinkDown a1 a2)).cores = a2.cores ∧ (resultOf a2 (execFabLinkDown a1 a2)).mem = a2.mem ∧ (resultOf a2 (execFabLinkDown a1 a2)).cle = a2.cle ∧ (resultOf a2 (execFabLinkDown a1 a2)).pue0 = a2.pue0 ∧ (resultOf a2 (execFabLinkDown a1 a2)).pue1 = a2.pue1 ∧ (resultOf a2 (execFabLinkDown a1 a2)).cke = a2.cke ∧ (resultOf a2 (execFabLinkDown a1 a2)).pwr = a2.pwr ∧ (resultOf a2 (execFabLinkDown a1 a2)).mss = a2.mss ∧ (resultOf a2 (execFabLinkDown a1 a2)).fresh = a2.fresh ∧ (resultOf a2 (execFabLinkDown a1 a2)).routineIds = a2.routineIds ∧ (resultOf a2 (execFabLinkDown a1 a2)).pending = a2.pending := by
  simp [execFabLinkDown]
theorem execFabLinkDown_completes (a1) (a2 : State) : (execFabLinkDown a1 a2) = .next (resultOf a2 (execFabLinkDown a1 a2)) := by
  unfold execFabLinkDown
  try dsimp only
  repeat' split
  all_goals rfl
theorem execLaneFail_frame (a1) (a2) (a3) (a4 : State) : (resultOf a4 (execLaneFail a1 a2 a3 a4)).ident = a4.ident ∧ (resultOf a4 (execLaneFail a1 a2 a3 a4)).nv = a4.nv ∧ (resultOf a4 (execLaneFail a1 a2 a3 a4)).top = a4.top ∧ (resultOf a4 (execLaneFail a1 a2 a3 a4)).cores = a4.cores ∧ (resultOf a4 (execLaneFail a1 a2 a3 a4)).mem = a4.mem ∧ (resultOf a4 (execLaneFail a1 a2 a3 a4)).cle = a4.cle ∧ (resultOf a4 (execLaneFail a1 a2 a3 a4)).pue0 = a4.pue0 ∧ (resultOf a4 (execLaneFail a1 a2 a3 a4)).pue1 = a4.pue1 ∧ (resultOf a4 (execLaneFail a1 a2 a3 a4)).cke = a4.cke ∧ (resultOf a4 (execLaneFail a1 a2 a3 a4)).pwr = a4.pwr ∧ (resultOf a4 (execLaneFail a1 a2 a3 a4)).mss = a4.mss ∧ (resultOf a4 (execLaneFail a1 a2 a3 a4)).fresh = a4.fresh ∧ (resultOf a4 (execLaneFail a1 a2 a3 a4)).routineIds = a4.routineIds ∧ (resultOf a4 (execLaneFail a1 a2 a3 a4)).pending = a4.pending := by
  simp only [execLaneFail]
  repeat' split
  all_goals simp
theorem execLaneFail_completes (a1) (a2) (a3) (a4 : State) : (execLaneFail a1 a2 a3 a4) = .next (resultOf a4 (execLaneFail a1 a2 a3 a4)) := by
  unfold execLaneFail
  try dsimp only
  repeat' split
  all_goals rfl
theorem execDataFlit_frame (a1) (a2) (a3 : State) : (resultOf a3 (execDataFlit a1 a2 a3)).ident = a3.ident ∧ (resultOf a3 (execDataFlit a1 a2 a3)).nv = a3.nv ∧ (resultOf a3 (execDataFlit a1 a2 a3)).top = a3.top ∧ (resultOf a3 (execDataFlit a1 a2 a3)).cores = a3.cores ∧ (resultOf a3 (execDataFlit a1 a2 a3)).mem = a3.mem ∧ (resultOf a3 (execDataFlit a1 a2 a3)).cle = a3.cle ∧ (resultOf a3 (execDataFlit a1 a2 a3)).pue0 = a3.pue0 ∧ (resultOf a3 (execDataFlit a1 a2 a3)).pue1 = a3.pue1 ∧ (resultOf a3 (execDataFlit a1 a2 a3)).cke = a3.cke ∧ (resultOf a3 (execDataFlit a1 a2 a3)).pwr = a3.pwr ∧ (resultOf a3 (execDataFlit a1 a2 a3)).mss = a3.mss ∧ (resultOf a3 (execDataFlit a1 a2 a3)).fresh = a3.fresh ∧ (resultOf a3 (execDataFlit a1 a2 a3)).routineIds = a3.routineIds ∧ (resultOf a3 (execDataFlit a1 a2 a3)).pending = a3.pending := by
  simp [execDataFlit]
theorem execDataFlit_completes (a1) (a2) (a3 : State) : (execDataFlit a1 a2 a3) = .next (resultOf a3 (execDataFlit a1 a2 a3)) := by
  unfold execDataFlit
  try dsimp only
  repeat' split
  all_goals rfl
theorem execCtrlFlit_frame (a1) (a2) (a3) (a4) (a5 : State) : (resultOf a5 (execCtrlFlit a1 a2 a3 a4 a5)).ident = a5.ident ∧ (resultOf a5 (execCtrlFlit a1 a2 a3 a4 a5)).nv = a5.nv ∧ (resultOf a5 (execCtrlFlit a1 a2 a3 a4 a5)).top = a5.top ∧ (resultOf a5 (execCtrlFlit a1 a2 a3 a4 a5)).cores = a5.cores ∧ (resultOf a5 (execCtrlFlit a1 a2 a3 a4 a5)).mem = a5.mem ∧ (resultOf a5 (execCtrlFlit a1 a2 a3 a4 a5)).cle = a5.cle ∧ (resultOf a5 (execCtrlFlit a1 a2 a3 a4 a5)).pue0 = a5.pue0 ∧ (resultOf a5 (execCtrlFlit a1 a2 a3 a4 a5)).pue1 = a5.pue1 ∧ (resultOf a5 (execCtrlFlit a1 a2 a3 a4 a5)).cke = a5.cke ∧ (resultOf a5 (execCtrlFlit a1 a2 a3 a4 a5)).pwr = a5.pwr ∧ (resultOf a5 (execCtrlFlit a1 a2 a3 a4 a5)).mss = a5.mss ∧ (resultOf a5 (execCtrlFlit a1 a2 a3 a4 a5)).fresh = a5.fresh ∧ (resultOf a5 (execCtrlFlit a1 a2 a3 a4 a5)).routineIds = a5.routineIds ∧ (resultOf a5 (execCtrlFlit a1 a2 a3 a4 a5)).pending = a5.pending := by
  simp [execCtrlFlit]
theorem execCtrlFlit_completes (a1) (a2) (a3) (a4) (a5 : State) : (execCtrlFlit a1 a2 a3 a4 a5) = .next (resultOf a5 (execCtrlFlit a1 a2 a3 a4 a5)) := by
  unfold execCtrlFlit
  try dsimp only
  repeat' split
  all_goals rfl
theorem execFlitNak_frame (a1) (a2) (a3 : State) : (resultOf a3 (execFlitNak a1 a2 a3)).ident = a3.ident ∧ (resultOf a3 (execFlitNak a1 a2 a3)).nv = a3.nv ∧ (resultOf a3 (execFlitNak a1 a2 a3)).top = a3.top ∧ (resultOf a3 (execFlitNak a1 a2 a3)).cores = a3.cores ∧ (resultOf a3 (execFlitNak a1 a2 a3)).mem = a3.mem ∧ (resultOf a3 (execFlitNak a1 a2 a3)).cle = a3.cle ∧ (resultOf a3 (execFlitNak a1 a2 a3)).pue0 = a3.pue0 ∧ (resultOf a3 (execFlitNak a1 a2 a3)).pue1 = a3.pue1 ∧ (resultOf a3 (execFlitNak a1 a2 a3)).cke = a3.cke ∧ (resultOf a3 (execFlitNak a1 a2 a3)).pwr = a3.pwr ∧ (resultOf a3 (execFlitNak a1 a2 a3)).mss = a3.mss ∧ (resultOf a3 (execFlitNak a1 a2 a3)).fresh = a3.fresh ∧ (resultOf a3 (execFlitNak a1 a2 a3)).routineIds = a3.routineIds ∧ (resultOf a3 (execFlitNak a1 a2 a3)).pending = a3.pending := by
  simp [execFlitNak]
theorem execFlitNak_completes (a1) (a2) (a3 : State) : (execFlitNak a1 a2 a3) = .next (resultOf a3 (execFlitNak a1 a2 a3)) := by
  unfold execFlitNak
  try dsimp only
  repeat' split
  all_goals rfl
theorem execSetdasa_frame (a1) (a2) (a3 : State) : (resultOf a3 (execSetdasa a1 a2 a3)).ident = a3.ident ∧ (resultOf a3 (execSetdasa a1 a2 a3)).nv = a3.nv ∧ (resultOf a3 (execSetdasa a1 a2 a3)).top = a3.top ∧ (resultOf a3 (execSetdasa a1 a2 a3)).cores = a3.cores ∧ (resultOf a3 (execSetdasa a1 a2 a3)).hub = a3.hub ∧ (resultOf a3 (execSetdasa a1 a2 a3)).err = a3.err ∧ (resultOf a3 (execSetdasa a1 a2 a3)).mem = a3.mem ∧ (resultOf a3 (execSetdasa a1 a2 a3)).cle = a3.cle ∧ (resultOf a3 (execSetdasa a1 a2 a3)).pue0 = a3.pue0 ∧ (resultOf a3 (execSetdasa a1 a2 a3)).pue1 = a3.pue1 ∧ (resultOf a3 (execSetdasa a1 a2 a3)).cke = a3.cke ∧ (resultOf a3 (execSetdasa a1 a2 a3)).pwr = a3.pwr ∧ (resultOf a3 (execSetdasa a1 a2 a3)).fab = a3.fab ∧ (resultOf a3 (execSetdasa a1 a2 a3)).pmu = a3.pmu ∧ (resultOf a3 (execSetdasa a1 a2 a3)).fresh = a3.fresh ∧ (resultOf a3 (execSetdasa a1 a2 a3)).routineIds = a3.routineIds ∧ (resultOf a3 (execSetdasa a1 a2 a3)).pending = a3.pending := by
  simp [execSetdasa]
theorem execSetdasa_completes (a1) (a2) (a3 : State) : (execSetdasa a1 a2 a3) = .next (resultOf a3 (execSetdasa a1 a2 a3)) := by
  unfold execSetdasa
  try dsimp only
  repeat' split
  all_goals rfl
theorem execEntdaa_frame (a1) (a2 : State) : (resultOf a2 (execEntdaa a1 a2)).ident = a2.ident ∧ (resultOf a2 (execEntdaa a1 a2)).nv = a2.nv ∧ (resultOf a2 (execEntdaa a1 a2)).top = a2.top ∧ (resultOf a2 (execEntdaa a1 a2)).cores = a2.cores ∧ (resultOf a2 (execEntdaa a1 a2)).hub = a2.hub ∧ (resultOf a2 (execEntdaa a1 a2)).err = a2.err ∧ (resultOf a2 (execEntdaa a1 a2)).mem = a2.mem ∧ (resultOf a2 (execEntdaa a1 a2)).cle = a2.cle ∧ (resultOf a2 (execEntdaa a1 a2)).pue0 = a2.pue0 ∧ (resultOf a2 (execEntdaa a1 a2)).pue1 = a2.pue1 ∧ (resultOf a2 (execEntdaa a1 a2)).cke = a2.cke ∧ (resultOf a2 (execEntdaa a1 a2)).pwr = a2.pwr ∧ (resultOf a2 (execEntdaa a1 a2)).fab = a2.fab ∧ (resultOf a2 (execEntdaa a1 a2)).pmu = a2.pmu ∧ (resultOf a2 (execEntdaa a1 a2)).fresh = a2.fresh ∧ (resultOf a2 (execEntdaa a1 a2)).routineIds = a2.routineIds ∧ (resultOf a2 (execEntdaa a1 a2)).pending = a2.pending := by
  simp [execEntdaa]
theorem execEntdaa_completes (a1) (a2 : State) : (execEntdaa a1 a2) = .next (resultOf a2 (execEntdaa a1 a2)) := by
  unfold execEntdaa
  try dsimp only
  repeat' split
  all_goals rfl
theorem execRstdaa_frame (a1 : State) : (resultOf a1 (execRstdaa a1)).ident = a1.ident ∧ (resultOf a1 (execRstdaa a1)).nv = a1.nv ∧ (resultOf a1 (execRstdaa a1)).top = a1.top ∧ (resultOf a1 (execRstdaa a1)).cores = a1.cores ∧ (resultOf a1 (execRstdaa a1)).hub = a1.hub ∧ (resultOf a1 (execRstdaa a1)).err = a1.err ∧ (resultOf a1 (execRstdaa a1)).mem = a1.mem ∧ (resultOf a1 (execRstdaa a1)).cle = a1.cle ∧ (resultOf a1 (execRstdaa a1)).pue0 = a1.pue0 ∧ (resultOf a1 (execRstdaa a1)).pue1 = a1.pue1 ∧ (resultOf a1 (execRstdaa a1)).cke = a1.cke ∧ (resultOf a1 (execRstdaa a1)).pwr = a1.pwr ∧ (resultOf a1 (execRstdaa a1)).fab = a1.fab ∧ (resultOf a1 (execRstdaa a1)).pmu = a1.pmu ∧ (resultOf a1 (execRstdaa a1)).sent = a1.sent ∧ (resultOf a1 (execRstdaa a1)).fresh = a1.fresh ∧ (resultOf a1 (execRstdaa a1)).routineIds = a1.routineIds ∧ (resultOf a1 (execRstdaa a1)).pending = a1.pending := by
  simp [execRstdaa]
theorem execRstdaa_completes (a1 : State) : (execRstdaa a1) = .next (resultOf a1 (execRstdaa a1)) := by
  unfold execRstdaa
  try dsimp only
  repeat' split
  all_goals rfl
theorem execAlertResponse_frame (a1 : State) : (resultOf a1 (execAlertResponse a1)).ident = a1.ident ∧ (resultOf a1 (execAlertResponse a1)).nv = a1.nv ∧ (resultOf a1 (execAlertResponse a1)).top = a1.top ∧ (resultOf a1 (execAlertResponse a1)).cores = a1.cores ∧ (resultOf a1 (execAlertResponse a1)).hub = a1.hub ∧ (resultOf a1 (execAlertResponse a1)).err = a1.err ∧ (resultOf a1 (execAlertResponse a1)).mem = a1.mem ∧ (resultOf a1 (execAlertResponse a1)).cle = a1.cle ∧ (resultOf a1 (execAlertResponse a1)).pue0 = a1.pue0 ∧ (resultOf a1 (execAlertResponse a1)).pue1 = a1.pue1 ∧ (resultOf a1 (execAlertResponse a1)).cke = a1.cke ∧ (resultOf a1 (execAlertResponse a1)).pwr = a1.pwr ∧ (resultOf a1 (execAlertResponse a1)).fab = a1.fab ∧ (resultOf a1 (execAlertResponse a1)).pmu = a1.pmu ∧ (resultOf a1 (execAlertResponse a1)).sent = a1.sent ∧ (resultOf a1 (execAlertResponse a1)).fresh = a1.fresh ∧ (resultOf a1 (execAlertResponse a1)).routineIds = a1.routineIds ∧ (resultOf a1 (execAlertResponse a1)).pending = a1.pending := by
  simp [execAlertResponse]
theorem execAlertResponse_completes (a1 : State) : (execAlertResponse a1) = .next (resultOf a1 (execAlertResponse a1)) := by
  unfold execAlertResponse
  try dsimp only
  repeat' split
  all_goals rfl
theorem execIbiRepeat_frame (a1) (a2 : State) : (resultOf a2 (execIbiRepeat a1 a2)).ident = a2.ident ∧ (resultOf a2 (execIbiRepeat a1 a2)).nv = a2.nv ∧ (resultOf a2 (execIbiRepeat a1 a2)).top = a2.top ∧ (resultOf a2 (execIbiRepeat a1 a2)).cores = a2.cores ∧ (resultOf a2 (execIbiRepeat a1 a2)).hub = a2.hub ∧ (resultOf a2 (execIbiRepeat a1 a2)).err = a2.err ∧ (resultOf a2 (execIbiRepeat a1 a2)).mem = a2.mem ∧ (resultOf a2 (execIbiRepeat a1 a2)).cle = a2.cle ∧ (resultOf a2 (execIbiRepeat a1 a2)).pue0 = a2.pue0 ∧ (resultOf a2 (execIbiRepeat a1 a2)).pue1 = a2.pue1 ∧ (resultOf a2 (execIbiRepeat a1 a2)).cke = a2.cke ∧ (resultOf a2 (execIbiRepeat a1 a2)).pwr = a2.pwr ∧ (resultOf a2 (execIbiRepeat a1 a2)).fab = a2.fab ∧ (resultOf a2 (execIbiRepeat a1 a2)).pmu = a2.pmu ∧ (resultOf a2 (execIbiRepeat a1 a2)).fresh = a2.fresh ∧ (resultOf a2 (execIbiRepeat a1 a2)).routineIds = a2.routineIds ∧ (resultOf a2 (execIbiRepeat a1 a2)).pending = a2.pending := by
  simp [execIbiRepeat]
theorem execIbiRepeat_completes (a1) (a2 : State) : (execIbiRepeat a1 a2) = .next (resultOf a2 (execIbiRepeat a1 a2)) := by
  unfold execIbiRepeat
  try dsimp only
  repeat' split
  all_goals rfl
theorem execSetEndpointId_frame (a1) (a2 : State) : (resultOf a2 (execSetEndpointId a1 a2)).ident = a2.ident ∧ (resultOf a2 (execSetEndpointId a1 a2)).nv = a2.nv ∧ (resultOf a2 (execSetEndpointId a1 a2)).top = a2.top ∧ (resultOf a2 (execSetEndpointId a1 a2)).cores = a2.cores ∧ (resultOf a2 (execSetEndpointId a1 a2)).err = a2.err ∧ (resultOf a2 (execSetEndpointId a1 a2)).mem = a2.mem ∧ (resultOf a2 (execSetEndpointId a1 a2)).cle = a2.cle ∧ (resultOf a2 (execSetEndpointId a1 a2)).pue0 = a2.pue0 ∧ (resultOf a2 (execSetEndpointId a1 a2)).pue1 = a2.pue1 ∧ (resultOf a2 (execSetEndpointId a1 a2)).cke = a2.cke ∧ (resultOf a2 (execSetEndpointId a1 a2)).pwr = a2.pwr ∧ (resultOf a2 (execSetEndpointId a1 a2)).fab = a2.fab ∧ (resultOf a2 (execSetEndpointId a1 a2)).pmu = a2.pmu ∧ (resultOf a2 (execSetEndpointId a1 a2)).routineIds = a2.routineIds ∧ (resultOf a2 (execSetEndpointId a1 a2)).pending = a2.pending := by
  simp [execSetEndpointId]
theorem execSetEndpointId_completes (a1) (a2 : State) : (execSetEndpointId a1 a2) = .next (resultOf a2 (execSetEndpointId a1 a2)) := by
  unfold execSetEndpointId
  try dsimp only
  repeat' split
  all_goals rfl
theorem execGetEndpointId_frame (a1) (a2 : State) : (resultOf a2 (execGetEndpointId a1 a2)).ident = a2.ident ∧ (resultOf a2 (execGetEndpointId a1 a2)).nv = a2.nv ∧ (resultOf a2 (execGetEndpointId a1 a2)).top = a2.top ∧ (resultOf a2 (execGetEndpointId a1 a2)).cores = a2.cores ∧ (resultOf a2 (execGetEndpointId a1 a2)).err = a2.err ∧ (resultOf a2 (execGetEndpointId a1 a2)).mem = a2.mem ∧ (resultOf a2 (execGetEndpointId a1 a2)).cle = a2.cle ∧ (resultOf a2 (execGetEndpointId a1 a2)).pue0 = a2.pue0 ∧ (resultOf a2 (execGetEndpointId a1 a2)).pue1 = a2.pue1 ∧ (resultOf a2 (execGetEndpointId a1 a2)).cke = a2.cke ∧ (resultOf a2 (execGetEndpointId a1 a2)).pwr = a2.pwr ∧ (resultOf a2 (execGetEndpointId a1 a2)).fab = a2.fab ∧ (resultOf a2 (execGetEndpointId a1 a2)).pmu = a2.pmu ∧ (resultOf a2 (execGetEndpointId a1 a2)).routineIds = a2.routineIds ∧ (resultOf a2 (execGetEndpointId a1 a2)).pending = a2.pending := by
  simp [execGetEndpointId]
theorem execGetEndpointId_completes (a1) (a2 : State) : (execGetEndpointId a1 a2) = .next (resultOf a2 (execGetEndpointId a1 a2)) := by
  unfold execGetEndpointId
  try dsimp only
  repeat' split
  all_goals rfl
theorem execGetMctpVersionSupport_frame (a1) (a2 : State) : (resultOf a2 (execGetMctpVersionSupport a1 a2)).ident = a2.ident ∧ (resultOf a2 (execGetMctpVersionSupport a1 a2)).nv = a2.nv ∧ (resultOf a2 (execGetMctpVersionSupport a1 a2)).top = a2.top ∧ (resultOf a2 (execGetMctpVersionSupport a1 a2)).cores = a2.cores ∧ (resultOf a2 (execGetMctpVersionSupport a1 a2)).err = a2.err ∧ (resultOf a2 (execGetMctpVersionSupport a1 a2)).mem = a2.mem ∧ (resultOf a2 (execGetMctpVersionSupport a1 a2)).cle = a2.cle ∧ (resultOf a2 (execGetMctpVersionSupport a1 a2)).pue0 = a2.pue0 ∧ (resultOf a2 (execGetMctpVersionSupport a1 a2)).pue1 = a2.pue1 ∧ (resultOf a2 (execGetMctpVersionSupport a1 a2)).cke = a2.cke ∧ (resultOf a2 (execGetMctpVersionSupport a1 a2)).pwr = a2.pwr ∧ (resultOf a2 (execGetMctpVersionSupport a1 a2)).fab = a2.fab ∧ (resultOf a2 (execGetMctpVersionSupport a1 a2)).pmu = a2.pmu ∧ (resultOf a2 (execGetMctpVersionSupport a1 a2)).routineIds = a2.routineIds ∧ (resultOf a2 (execGetMctpVersionSupport a1 a2)).pending = a2.pending := by
  simp [execGetMctpVersionSupport]
theorem execGetMctpVersionSupport_completes (a1) (a2 : State) : (execGetMctpVersionSupport a1 a2) = .next (resultOf a2 (execGetMctpVersionSupport a1 a2)) := by
  unfold execGetMctpVersionSupport
  try dsimp only
  repeat' split
  all_goals rfl
theorem execGetMessageTypeSupport_frame (a1) (a2 : State) : (resultOf a2 (execGetMessageTypeSupport a1 a2)).ident = a2.ident ∧ (resultOf a2 (execGetMessageTypeSupport a1 a2)).nv = a2.nv ∧ (resultOf a2 (execGetMessageTypeSupport a1 a2)).top = a2.top ∧ (resultOf a2 (execGetMessageTypeSupport a1 a2)).cores = a2.cores ∧ (resultOf a2 (execGetMessageTypeSupport a1 a2)).err = a2.err ∧ (resultOf a2 (execGetMessageTypeSupport a1 a2)).mem = a2.mem ∧ (resultOf a2 (execGetMessageTypeSupport a1 a2)).cle = a2.cle ∧ (resultOf a2 (execGetMessageTypeSupport a1 a2)).pue0 = a2.pue0 ∧ (resultOf a2 (execGetMessageTypeSupport a1 a2)).pue1 = a2.pue1 ∧ (resultOf a2 (execGetMessageTypeSupport a1 a2)).cke = a2.cke ∧ (resultOf a2 (execGetMessageTypeSupport a1 a2)).pwr = a2.pwr ∧ (resultOf a2 (execGetMessageTypeSupport a1 a2)).fab = a2.fab ∧ (resultOf a2 (execGetMessageTypeSupport a1 a2)).pmu = a2.pmu ∧ (resultOf a2 (execGetMessageTypeSupport a1 a2)).routineIds = a2.routineIds ∧ (resultOf a2 (execGetMessageTypeSupport a1 a2)).pending = a2.pending := by
  simp [execGetMessageTypeSupport]
theorem execGetMessageTypeSupport_completes (a1) (a2 : State) : (execGetMessageTypeSupport a1 a2) = .next (resultOf a2 (execGetMessageTypeSupport a1 a2)) := by
  unfold execGetMessageTypeSupport
  try dsimp only
  repeat' split
  all_goals rfl
theorem execPldmBaseRequest_frame (a1) (a2) (a3 : State) : (resultOf a3 (execPldmBaseRequest a1 a2 a3)).ident = a3.ident ∧ (resultOf a3 (execPldmBaseRequest a1 a2 a3)).nv = a3.nv ∧ (resultOf a3 (execPldmBaseRequest a1 a2 a3)).top = a3.top ∧ (resultOf a3 (execPldmBaseRequest a1 a2 a3)).cores = a3.cores ∧ (resultOf a3 (execPldmBaseRequest a1 a2 a3)).err = a3.err ∧ (resultOf a3 (execPldmBaseRequest a1 a2 a3)).mem = a3.mem ∧ (resultOf a3 (execPldmBaseRequest a1 a2 a3)).cle = a3.cle ∧ (resultOf a3 (execPldmBaseRequest a1 a2 a3)).pue0 = a3.pue0 ∧ (resultOf a3 (execPldmBaseRequest a1 a2 a3)).pue1 = a3.pue1 ∧ (resultOf a3 (execPldmBaseRequest a1 a2 a3)).cke = a3.cke ∧ (resultOf a3 (execPldmBaseRequest a1 a2 a3)).pwr = a3.pwr ∧ (resultOf a3 (execPldmBaseRequest a1 a2 a3)).fab = a3.fab ∧ (resultOf a3 (execPldmBaseRequest a1 a2 a3)).pmu = a3.pmu ∧ (resultOf a3 (execPldmBaseRequest a1 a2 a3)).routineIds = a3.routineIds ∧ (resultOf a3 (execPldmBaseRequest a1 a2 a3)).pending = a3.pending := by
  simp [execPldmBaseRequest]
theorem execPldmBaseRequest_completes (a1) (a2) (a3 : State) : (execPldmBaseRequest a1 a2 a3) = .next (resultOf a3 (execPldmBaseRequest a1 a2 a3)) := by
  unfold execPldmBaseRequest
  try dsimp only
  repeat' split
  all_goals rfl
theorem execMailboxSend_frame (a1) (a2 : State) : (resultOf a2 (execMailboxSend a1 a2)).ident = a2.ident ∧ (resultOf a2 (execMailboxSend a1 a2)).nv = a2.nv ∧ (resultOf a2 (execMailboxSend a1 a2)).cores = a2.cores ∧ (resultOf a2 (execMailboxSend a1 a2)).mem = a2.mem ∧ (resultOf a2 (execMailboxSend a1 a2)).cle = a2.cle ∧ (resultOf a2 (execMailboxSend a1 a2)).pue0 = a2.pue0 ∧ (resultOf a2 (execMailboxSend a1 a2)).pue1 = a2.pue1 ∧ (resultOf a2 (execMailboxSend a1 a2)).cke = a2.cke ∧ (resultOf a2 (execMailboxSend a1 a2)).pwr = a2.pwr ∧ (resultOf a2 (execMailboxSend a1 a2)).fab = a2.fab ∧ (resultOf a2 (execMailboxSend a1 a2)).routineIds = a2.routineIds ∧ (resultOf a2 (execMailboxSend a1 a2)).pending = a2.pending := by
  simp [execMailboxSend]
theorem execMailboxSend_completes (a1) (a2 : State) : (execMailboxSend a1 a2) = .next (resultOf a2 (execMailboxSend a1 a2)) := by
  unfold execMailboxSend
  try dsimp only
  repeat' split
  all_goals rfl
theorem execM2hFullClear_frame (a1) (a2 : State) : (resultOf a2 (execM2hFullClear a1 a2)).ident = a2.ident ∧ (resultOf a2 (execM2hFullClear a1 a2)).nv = a2.nv ∧ (resultOf a2 (execM2hFullClear a1 a2)).top = a2.top ∧ (resultOf a2 (execM2hFullClear a1 a2)).cores = a2.cores ∧ (resultOf a2 (execM2hFullClear a1 a2)).err = a2.err ∧ (resultOf a2 (execM2hFullClear a1 a2)).mem = a2.mem ∧ (resultOf a2 (execM2hFullClear a1 a2)).cle = a2.cle ∧ (resultOf a2 (execM2hFullClear a1 a2)).pue0 = a2.pue0 ∧ (resultOf a2 (execM2hFullClear a1 a2)).pue1 = a2.pue1 ∧ (resultOf a2 (execM2hFullClear a1 a2)).cke = a2.cke ∧ (resultOf a2 (execM2hFullClear a1 a2)).pwr = a2.pwr ∧ (resultOf a2 (execM2hFullClear a1 a2)).fab = a2.fab ∧ (resultOf a2 (execM2hFullClear a1 a2)).pmu = a2.pmu ∧ (resultOf a2 (execM2hFullClear a1 a2)).routineIds = a2.routineIds ∧ (resultOf a2 (execM2hFullClear a1 a2)).pending = a2.pending := by
  simp [execM2hFullClear]
theorem execM2hFullClear_completes (a1) (a2 : State) : (execM2hFullClear a1 a2) = .next (resultOf a2 (execM2hFullClear a1 a2)) := by
  unfold execM2hFullClear
  try dsimp only
  repeat' split
  all_goals rfl
theorem execSensorSample_frame (a1) (a2) (a3 : State) : (resultOf a3 (execSensorSample a1 a2 a3)).ident = a3.ident ∧ (resultOf a3 (execSensorSample a1 a2 a3)).nv = a3.nv ∧ (resultOf a3 (execSensorSample a1 a2 a3)).top = a3.top ∧ (resultOf a3 (execSensorSample a1 a2 a3)).cores = a3.cores ∧ (resultOf a3 (execSensorSample a1 a2 a3)).err = a3.err ∧ (resultOf a3 (execSensorSample a1 a2 a3)).mem = a3.mem ∧ (resultOf a3 (execSensorSample a1 a2 a3)).cle = a3.cle ∧ (resultOf a3 (execSensorSample a1 a2 a3)).pue0 = a3.pue0 ∧ (resultOf a3 (execSensorSample a1 a2 a3)).pue1 = a3.pue1 ∧ (resultOf a3 (execSensorSample a1 a2 a3)).cke = a3.cke ∧ (resultOf a3 (execSensorSample a1 a2 a3)).fab = a3.fab ∧ (resultOf a3 (execSensorSample a1 a2 a3)).pmu = a3.pmu ∧ (resultOf a3 (execSensorSample a1 a2 a3)).routineIds = a3.routineIds ∧ (resultOf a3 (execSensorSample a1 a2 a3)).pending = a3.pending := by
  simp [execSensorSample]
theorem execSensorSample_completes (a1) (a2) (a3 : State) : (execSensorSample a1 a2 a3) = .next (resultOf a3 (execSensorSample a1 a2 a3)) := by
  unfold execSensorSample
  try dsimp only
  repeat' split
  all_goals rfl
theorem execGetSensorReading_frame (a1) (a2) (a3 : State) : (resultOf a3 (execGetSensorReading a1 a2 a3)).ident = a3.ident ∧ (resultOf a3 (execGetSensorReading a1 a2 a3)).nv = a3.nv ∧ (resultOf a3 (execGetSensorReading a1 a2 a3)).top = a3.top ∧ (resultOf a3 (execGetSensorReading a1 a2 a3)).cores = a3.cores ∧ (resultOf a3 (execGetSensorReading a1 a2 a3)).err = a3.err ∧ (resultOf a3 (execGetSensorReading a1 a2 a3)).mem = a3.mem ∧ (resultOf a3 (execGetSensorReading a1 a2 a3)).cle = a3.cle ∧ (resultOf a3 (execGetSensorReading a1 a2 a3)).pue0 = a3.pue0 ∧ (resultOf a3 (execGetSensorReading a1 a2 a3)).pue1 = a3.pue1 ∧ (resultOf a3 (execGetSensorReading a1 a2 a3)).cke = a3.cke ∧ (resultOf a3 (execGetSensorReading a1 a2 a3)).pwr = a3.pwr ∧ (resultOf a3 (execGetSensorReading a1 a2 a3)).fab = a3.fab ∧ (resultOf a3 (execGetSensorReading a1 a2 a3)).pmu = a3.pmu ∧ (resultOf a3 (execGetSensorReading a1 a2 a3)).routineIds = a3.routineIds ∧ (resultOf a3 (execGetSensorReading a1 a2 a3)).pending = a3.pending := by
  unfold execGetSensorReading
  exact ⟨State.mssReq_ident _ _ _ _ (by intros; (try dsimp only); (repeat' split) <;> first | simp), State.mssReq_nv _ _ _ _ (by intros; (try dsimp only); (repeat' split) <;> first | simp), State.mssReq_top _ _ _ _ (by intros; (try dsimp only); (repeat' split) <;> first | simp), State.mssReq_cores _ _ _ _ (by intros; (try dsimp only); (repeat' split) <;> first | simp), State.mssReq_err _ _ _ _ (by intros; (try dsimp only); (repeat' split) <;> first | simp), State.mssReq_mem _ _ _ _ (by intros; (try dsimp only); (repeat' split) <;> first | simp), State.mssReq_cle _ _ _ _ (by intros; (try dsimp only); (repeat' split) <;> first | simp), State.mssReq_pue0 _ _ _ _ (by intros; (try dsimp only); (repeat' split) <;> first | simp), State.mssReq_pue1 _ _ _ _ (by intros; (try dsimp only); (repeat' split) <;> first | simp), State.mssReq_cke _ _ _ _ (by intros; (try dsimp only); (repeat' split) <;> first | simp), State.mssReq_pwr _ _ _ _ (by intros; (try dsimp only); (repeat' split) <;> first | simp), State.mssReq_fab _ _ _ _ (by intros; (try dsimp only); (repeat' split) <;> first | simp), State.mssReq_pmu _ _ _ _ (by intros; (try dsimp only); (repeat' split) <;> first | simp), State.mssReq_routineIds _ _ _ _ (by intros; (try dsimp only); (repeat' split) <;> first | simp), State.mssReq_pending _ _ _ _ (by intros; (try dsimp only); (repeat' split) <;> first | simp)⟩
theorem execGetSensorReading_completes (a1) (a2) (a3 : State) : (execGetSensorReading a1 a2 a3) = .next (resultOf a3 (execGetSensorReading a1 a2 a3)) := by
  unfold execGetSensorReading
  try dsimp only
  repeat' split
  all_goals rfl
theorem execGetPdr_frame (a1) (a2) (a3 : State) : (resultOf a3 (execGetPdr a1 a2 a3)).ident = a3.ident ∧ (resultOf a3 (execGetPdr a1 a2 a3)).nv = a3.nv ∧ (resultOf a3 (execGetPdr a1 a2 a3)).top = a3.top ∧ (resultOf a3 (execGetPdr a1 a2 a3)).cores = a3.cores ∧ (resultOf a3 (execGetPdr a1 a2 a3)).err = a3.err ∧ (resultOf a3 (execGetPdr a1 a2 a3)).mem = a3.mem ∧ (resultOf a3 (execGetPdr a1 a2 a3)).cle = a3.cle ∧ (resultOf a3 (execGetPdr a1 a2 a3)).pue0 = a3.pue0 ∧ (resultOf a3 (execGetPdr a1 a2 a3)).pue1 = a3.pue1 ∧ (resultOf a3 (execGetPdr a1 a2 a3)).cke = a3.cke ∧ (resultOf a3 (execGetPdr a1 a2 a3)).pwr = a3.pwr ∧ (resultOf a3 (execGetPdr a1 a2 a3)).fab = a3.fab ∧ (resultOf a3 (execGetPdr a1 a2 a3)).pmu = a3.pmu ∧ (resultOf a3 (execGetPdr a1 a2 a3)).routineIds = a3.routineIds ∧ (resultOf a3 (execGetPdr a1 a2 a3)).pending = a3.pending := by
  simp [execGetPdr]
theorem execGetPdr_completes (a1) (a2) (a3 : State) : (execGetPdr a1 a2 a3) = .next (resultOf a3 (execGetPdr a1 a2 a3)) := by
  unfold execGetPdr
  try dsimp only
  repeat' split
  all_goals rfl
theorem execSetEventReceiver_frame (a1) (a2) (a3 : State) : (resultOf a3 (execSetEventReceiver a1 a2 a3)).ident = a3.ident ∧ (resultOf a3 (execSetEventReceiver a1 a2 a3)).nv = a3.nv ∧ (resultOf a3 (execSetEventReceiver a1 a2 a3)).top = a3.top ∧ (resultOf a3 (execSetEventReceiver a1 a2 a3)).cores = a3.cores ∧ (resultOf a3 (execSetEventReceiver a1 a2 a3)).err = a3.err ∧ (resultOf a3 (execSetEventReceiver a1 a2 a3)).mem = a3.mem ∧ (resultOf a3 (execSetEventReceiver a1 a2 a3)).cle = a3.cle ∧ (resultOf a3 (execSetEventReceiver a1 a2 a3)).pue0 = a3.pue0 ∧ (resultOf a3 (execSetEventReceiver a1 a2 a3)).pue1 = a3.pue1 ∧ (resultOf a3 (execSetEventReceiver a1 a2 a3)).cke = a3.cke ∧ (resultOf a3 (execSetEventReceiver a1 a2 a3)).pwr = a3.pwr ∧ (resultOf a3 (execSetEventReceiver a1 a2 a3)).fab = a3.fab ∧ (resultOf a3 (execSetEventReceiver a1 a2 a3)).pmu = a3.pmu ∧ (resultOf a3 (execSetEventReceiver a1 a2 a3)).routineIds = a3.routineIds ∧ (resultOf a3 (execSetEventReceiver a1 a2 a3)).pending = a3.pending := by
  simp [execSetEventReceiver]
theorem execSetEventReceiver_completes (a1) (a2) (a3 : State) : (execSetEventReceiver a1 a2 a3) = .next (resultOf a3 (execSetEventReceiver a1 a2 a3)) := by
  unfold execSetEventReceiver
  try dsimp only
  repeat' split
  all_goals rfl
theorem execCoolantInletEffecter_frame (a1) (a2) (a3 : State) : (resultOf a3 (execCoolantInletEffecter a1 a2 a3)).ident = a3.ident ∧ (resultOf a3 (execCoolantInletEffecter a1 a2 a3)).nv = a3.nv ∧ (resultOf a3 (execCoolantInletEffecter a1 a2 a3)).top = a3.top ∧ (resultOf a3 (execCoolantInletEffecter a1 a2 a3)).cores = a3.cores ∧ (resultOf a3 (execCoolantInletEffecter a1 a2 a3)).mem = a3.mem ∧ (resultOf a3 (execCoolantInletEffecter a1 a2 a3)).cle = a3.cle ∧ (resultOf a3 (execCoolantInletEffecter a1 a2 a3)).pue0 = a3.pue0 ∧ (resultOf a3 (execCoolantInletEffecter a1 a2 a3)).pue1 = a3.pue1 ∧ (resultOf a3 (execCoolantInletEffecter a1 a2 a3)).cke = a3.cke ∧ (resultOf a3 (execCoolantInletEffecter a1 a2 a3)).fab = a3.fab ∧ (resultOf a3 (execCoolantInletEffecter a1 a2 a3)).routineIds = a3.routineIds ∧ (resultOf a3 (execCoolantInletEffecter a1 a2 a3)).pending = a3.pending := by
  simp [execCoolantInletEffecter]
theorem execCoolantInletEffecter_completes (a1) (a2) (a3 : State) : (execCoolantInletEffecter a1 a2 a3) = .next (resultOf a3 (execCoolantInletEffecter a1 a2 a3)) := by
  unfold execCoolantInletEffecter
  try dsimp only
  repeat' split
  all_goals rfl
theorem execCoolantFlowEffecter_frame (a1) (a2) (a3 : State) : (resultOf a3 (execCoolantFlowEffecter a1 a2 a3)).ident = a3.ident ∧ (resultOf a3 (execCoolantFlowEffecter a1 a2 a3)).nv = a3.nv ∧ (resultOf a3 (execCoolantFlowEffecter a1 a2 a3)).top = a3.top ∧ (resultOf a3 (execCoolantFlowEffecter a1 a2 a3)).cores = a3.cores ∧ (resultOf a3 (execCoolantFlowEffecter a1 a2 a3)).mem = a3.mem ∧ (resultOf a3 (execCoolantFlowEffecter a1 a2 a3)).cle = a3.cle ∧ (resultOf a3 (execCoolantFlowEffecter a1 a2 a3)).pue0 = a3.pue0 ∧ (resultOf a3 (execCoolantFlowEffecter a1 a2 a3)).pue1 = a3.pue1 ∧ (resultOf a3 (execCoolantFlowEffecter a1 a2 a3)).cke = a3.cke ∧ (resultOf a3 (execCoolantFlowEffecter a1 a2 a3)).fab = a3.fab ∧ (resultOf a3 (execCoolantFlowEffecter a1 a2 a3)).routineIds = a3.routineIds ∧ (resultOf a3 (execCoolantFlowEffecter a1 a2 a3)).pending = a3.pending := by
  simp [execCoolantFlowEffecter]
theorem execCoolantFlowEffecter_completes (a1) (a2) (a3 : State) : (execCoolantFlowEffecter a1 a2 a3) = .next (resultOf a3 (execCoolantFlowEffecter a1 a2 a3)) := by
  unfold execCoolantFlowEffecter
  try dsimp only
  repeat' split
  all_goals rfl
theorem execPackageLimitEffecter_frame (a1) (a2) (a3 : State) : (resultOf a3 (execPackageLimitEffecter a1 a2 a3)).ident = a3.ident ∧ (resultOf a3 (execPackageLimitEffecter a1 a2 a3)).nv = a3.nv ∧ (resultOf a3 (execPackageLimitEffecter a1 a2 a3)).top = a3.top ∧ (resultOf a3 (execPackageLimitEffecter a1 a2 a3)).cores = a3.cores ∧ (resultOf a3 (execPackageLimitEffecter a1 a2 a3)).err = a3.err ∧ (resultOf a3 (execPackageLimitEffecter a1 a2 a3)).mem = a3.mem ∧ (resultOf a3 (execPackageLimitEffecter a1 a2 a3)).cle = a3.cle ∧ (resultOf a3 (execPackageLimitEffecter a1 a2 a3)).pue0 = a3.pue0 ∧ (resultOf a3 (execPackageLimitEffecter a1 a2 a3)).pue1 = a3.pue1 ∧ (resultOf a3 (execPackageLimitEffecter a1 a2 a3)).cke = a3.cke ∧ (resultOf a3 (execPackageLimitEffecter a1 a2 a3)).fab = a3.fab ∧ (resultOf a3 (execPackageLimitEffecter a1 a2 a3)).pmu = a3.pmu ∧ (resultOf a3 (execPackageLimitEffecter a1 a2 a3)).routineIds = a3.routineIds ∧ (resultOf a3 (execPackageLimitEffecter a1 a2 a3)).pending = a3.pending := by
  simp [execPackageLimitEffecter]
theorem execPackageLimitEffecter_completes (a1) (a2) (a3 : State) : (execPackageLimitEffecter a1 a2 a3) = .next (resultOf a3 (execPackageLimitEffecter a1 a2 a3)) := by
  unfold execPackageLimitEffecter
  try dsimp only
  repeat' split
  all_goals rfl
theorem execDeviceResetEffecter_frame (a1) (a2 : State) : (resultOf a2 (execDeviceResetEffecter a1 a2)).ident = a2.ident ∧ (resultOf a2 (execDeviceResetEffecter a1 a2)).nv = a2.nv ∧ (resultOf a2 (execDeviceResetEffecter a1 a2)).pending = a2.pending := by
  unfold execDeviceResetEffecter
  exact ⟨State.mssReq_ident _ _ _ _ (by intros; (try dsimp only); (repeat' split) <;> first | simp), State.mssReq_nv _ _ _ _ (by intros; (try dsimp only); (repeat' split) <;> first | simp), State.mssReq_pending _ _ _ _ (by intros; (try dsimp only); (repeat' split) <;> first | simp)⟩
theorem execDeviceResetEffecter_completes (a1) (a2 : State) : (execDeviceResetEffecter a1 a2) = .next (resultOf a2 (execDeviceResetEffecter a1 a2)) := by
  unfold execDeviceResetEffecter
  try dsimp only
  repeat' split
  all_goals rfl
theorem execTestModeHigh_frame (a1) (a2 : State) : (resultOf a2 (execTestModeHigh a1 a2)).ident = a2.ident ∧ (resultOf a2 (execTestModeHigh a1 a2)).nv = a2.nv ∧ (resultOf a2 (execTestModeHigh a1 a2)).sent = a2.sent ∧ (resultOf a2 (execTestModeHigh a1 a2)).fresh = a2.fresh ∧ (resultOf a2 (execTestModeHigh a1 a2)).pending = a2.pending := by
  simp [execTestModeHigh]
theorem execTestModeHigh_completes (a1) (a2 : State) : (execTestModeHigh a1 a2) = .next (resultOf a2 (execTestModeHigh a1 a2)) := by
  unfold execTestModeHigh
  try dsimp only
  repeat' split
  all_goals rfl
theorem execMssHoldNAssert_frame (a1 : State) : (resultOf a1 (execMssHoldNAssert a1)).ident = a1.ident ∧ (resultOf a1 (execMssHoldNAssert a1)).nv = a1.nv ∧ (resultOf a1 (execMssHoldNAssert a1)).sent = a1.sent ∧ (resultOf a1 (execMssHoldNAssert a1)).fresh = a1.fresh ∧ (resultOf a1 (execMssHoldNAssert a1)).pending = a1.pending := by
  simp [execMssHoldNAssert]
theorem execMssHoldNAssert_completes (a1 : State) : (execMssHoldNAssert a1) = .next (resultOf a1 (execMssHoldNAssert a1)) := by
  unfold execMssHoldNAssert
  try dsimp only
  repeat' split
  all_goals rfl
theorem execTapInstruction_frame (a1) (a2 : State) : (resultOf a2 (execTapInstruction a1 a2)).ident = a2.ident ∧ (resultOf a2 (execTapInstruction a1 a2)).nv = a2.nv ∧ (resultOf a2 (execTapInstruction a1 a2)).top = a2.top ∧ (resultOf a2 (execTapInstruction a1 a2)).cores = a2.cores ∧ (resultOf a2 (execTapInstruction a1 a2)).hub = a2.hub ∧ (resultOf a2 (execTapInstruction a1 a2)).err = a2.err ∧ (resultOf a2 (execTapInstruction a1 a2)).mem = a2.mem ∧ (resultOf a2 (execTapInstruction a1 a2)).cle = a2.cle ∧ (resultOf a2 (execTapInstruction a1 a2)).pue0 = a2.pue0 ∧ (resultOf a2 (execTapInstruction a1 a2)).pue1 = a2.pue1 ∧ (resultOf a2 (execTapInstruction a1 a2)).cke = a2.cke ∧ (resultOf a2 (execTapInstruction a1 a2)).pwr = a2.pwr ∧ (resultOf a2 (execTapInstruction a1 a2)).fab = a2.fab ∧ (resultOf a2 (execTapInstruction a1 a2)).pmu = a2.pmu ∧ (resultOf a2 (execTapInstruction a1 a2)).sent = a2.sent ∧ (resultOf a2 (execTapInstruction a1 a2)).fresh = a2.fresh ∧ (resultOf a2 (execTapInstruction a1 a2)).routineIds = a2.routineIds ∧ (resultOf a2 (execTapInstruction a1 a2)).pending = a2.pending := by
  simp [execTapInstruction]
theorem execTapInstruction_completes (a1) (a2 : State) : (execTapInstruction a1 a2) = .next (resultOf a2 (execTapInstruction a1 a2)) := by
  unfold execTapInstruction
  try dsimp only
  repeat' split
  all_goals rfl
theorem execVstbyLoss_frame (a1 : State) : (resultOf a1 (execVstbyLoss a1)).ident = a1.ident ∧ (resultOf a1 (execVstbyLoss a1)).nv = a1.nv ∧ (resultOf a1 (execVstbyLoss a1)).sent = a1.sent ∧ (resultOf a1 (execVstbyLoss a1)).fresh = a1.fresh ∧ (resultOf a1 (execVstbyLoss a1)).pending = a1.pending := by
  simp [execVstbyLoss]
theorem execVstbyLoss_completes (a1 : State) : (execVstbyLoss a1) = .next (resultOf a1 (execVstbyLoss a1)) := by
  unfold execVstbyLoss
  try dsimp only
  repeat' split
  all_goals rfl
@[simp] theorem State.spdmReq_ident (a1 : State) (a2) (a3) (a4) (ha4 : ∀ y0 y1, (a4 y0 y1).ident = y1.ident) : (resultOf a1 (State.spdmReq a1 a2 a3 a4)).ident = a1.ident := by
  unfold State.spdmReq
  apply State.mssReq_ident
  intro t
  split
  · exact ha4 _ _
  · simp
@[simp] theorem State.spdmReq_nv (a1 : State) (a2) (a3) (a4) (ha4 : ∀ y0 y1, (a4 y0 y1).nv = y1.nv) : (resultOf a1 (State.spdmReq a1 a2 a3 a4)).nv = a1.nv := by
  unfold State.spdmReq
  apply State.mssReq_nv
  intro t
  split
  · exact ha4 _ _
  · simp
@[simp] theorem State.spdmReq_top (a1 : State) (a2) (a3) (a4) (ha4 : ∀ y0 y1, (a4 y0 y1).top = y1.top) : (resultOf a1 (State.spdmReq a1 a2 a3 a4)).top = a1.top := by
  unfold State.spdmReq
  apply State.mssReq_top
  intro t
  split
  · exact ha4 _ _
  · simp
@[simp] theorem State.spdmReq_cores (a1 : State) (a2) (a3) (a4) (ha4 : ∀ y0 y1, (a4 y0 y1).cores = y1.cores) : (resultOf a1 (State.spdmReq a1 a2 a3 a4)).cores = a1.cores := by
  unfold State.spdmReq
  apply State.mssReq_cores
  intro t
  split
  · exact ha4 _ _
  · simp
@[simp] theorem State.spdmReq_err (a1 : State) (a2) (a3) (a4) (ha4 : ∀ y0 y1, (a4 y0 y1).err = y1.err) : (resultOf a1 (State.spdmReq a1 a2 a3 a4)).err = a1.err := by
  unfold State.spdmReq
  apply State.mssReq_err
  intro t
  split
  · exact ha4 _ _
  · simp
@[simp] theorem State.spdmReq_mem (a1 : State) (a2) (a3) (a4) (ha4 : ∀ y0 y1, (a4 y0 y1).mem = y1.mem) : (resultOf a1 (State.spdmReq a1 a2 a3 a4)).mem = a1.mem := by
  unfold State.spdmReq
  apply State.mssReq_mem
  intro t
  split
  · exact ha4 _ _
  · simp
@[simp] theorem State.spdmReq_cle (a1 : State) (a2) (a3) (a4) (ha4 : ∀ y0 y1, (a4 y0 y1).cle = y1.cle) : (resultOf a1 (State.spdmReq a1 a2 a3 a4)).cle = a1.cle := by
  unfold State.spdmReq
  apply State.mssReq_cle
  intro t
  split
  · exact ha4 _ _
  · simp
@[simp] theorem State.spdmReq_pue0 (a1 : State) (a2) (a3) (a4) (ha4 : ∀ y0 y1, (a4 y0 y1).pue0 = y1.pue0) : (resultOf a1 (State.spdmReq a1 a2 a3 a4)).pue0 = a1.pue0 := by
  unfold State.spdmReq
  apply State.mssReq_pue0
  intro t
  split
  · exact ha4 _ _
  · simp
@[simp] theorem State.spdmReq_pue1 (a1 : State) (a2) (a3) (a4) (ha4 : ∀ y0 y1, (a4 y0 y1).pue1 = y1.pue1) : (resultOf a1 (State.spdmReq a1 a2 a3 a4)).pue1 = a1.pue1 := by
  unfold State.spdmReq
  apply State.mssReq_pue1
  intro t
  split
  · exact ha4 _ _
  · simp
@[simp] theorem State.spdmReq_cke (a1 : State) (a2) (a3) (a4) (ha4 : ∀ y0 y1, (a4 y0 y1).cke = y1.cke) : (resultOf a1 (State.spdmReq a1 a2 a3 a4)).cke = a1.cke := by
  unfold State.spdmReq
  apply State.mssReq_cke
  intro t
  split
  · exact ha4 _ _
  · simp
@[simp] theorem State.spdmReq_pwr (a1 : State) (a2) (a3) (a4) (ha4 : ∀ y0 y1, (a4 y0 y1).pwr = y1.pwr) : (resultOf a1 (State.spdmReq a1 a2 a3 a4)).pwr = a1.pwr := by
  unfold State.spdmReq
  apply State.mssReq_pwr
  intro t
  split
  · exact ha4 _ _
  · simp
@[simp] theorem State.spdmReq_fab (a1 : State) (a2) (a3) (a4) (ha4 : ∀ y0 y1, (a4 y0 y1).fab = y1.fab) : (resultOf a1 (State.spdmReq a1 a2 a3 a4)).fab = a1.fab := by
  unfold State.spdmReq
  apply State.mssReq_fab
  intro t
  split
  · exact ha4 _ _
  · simp
@[simp] theorem State.spdmReq_pmu (a1 : State) (a2) (a3) (a4) (ha4 : ∀ y0 y1, (a4 y0 y1).pmu = y1.pmu) : (resultOf a1 (State.spdmReq a1 a2 a3 a4)).pmu = a1.pmu := by
  unfold State.spdmReq
  apply State.mssReq_pmu
  intro t
  split
  · exact ha4 _ _
  · simp
@[simp] theorem State.spdmReq_routineIds (a1 : State) (a2) (a3) (a4) (ha4 : ∀ y0 y1, (a4 y0 y1).routineIds = y1.routineIds) : (resultOf a1 (State.spdmReq a1 a2 a3 a4)).routineIds = a1.routineIds := by
  unfold State.spdmReq
  apply State.mssReq_routineIds
  intro t
  split
  · exact ha4 _ _
  · simp
@[simp] theorem State.spdmReq_pending (a1 : State) (a2) (a3) (a4) (ha4 : ∀ y0 y1, (a4 y0 y1).pending = y1.pending) : (resultOf a1 (State.spdmReq a1 a2 a3 a4)).pending = a1.pending := by
  unfold State.spdmReq
  apply State.mssReq_pending
  intro t
  split
  · exact ha4 _ _
  · simp
theorem State.spdmReq_completes (a1 : State) (a2) (a3) (a4) : (State.spdmReq a1 a2 a3 a4) = .next (resultOf a1 (State.spdmReq a1 a2 a3 a4)) := by
  unfold State.spdmReq
  try dsimp only
  repeat' split
  all_goals rfl
theorem execGetVersion_frame (a1) (a2 : State) : (resultOf a2 (execGetVersion a1 a2)).ident = a2.ident ∧ (resultOf a2 (execGetVersion a1 a2)).nv = a2.nv ∧ (resultOf a2 (execGetVersion a1 a2)).top = a2.top ∧ (resultOf a2 (execGetVersion a1 a2)).cores = a2.cores ∧ (resultOf a2 (execGetVersion a1 a2)).err = a2.err ∧ (resultOf a2 (execGetVersion a1 a2)).mem = a2.mem ∧ (resultOf a2 (execGetVersion a1 a2)).cle = a2.cle ∧ (resultOf a2 (execGetVersion a1 a2)).pue0 = a2.pue0 ∧ (resultOf a2 (execGetVersion a1 a2)).pue1 = a2.pue1 ∧ (resultOf a2 (execGetVersion a1 a2)).cke = a2.cke ∧ (resultOf a2 (execGetVersion a1 a2)).pwr = a2.pwr ∧ (resultOf a2 (execGetVersion a1 a2)).fab = a2.fab ∧ (resultOf a2 (execGetVersion a1 a2)).pmu = a2.pmu ∧ (resultOf a2 (execGetVersion a1 a2)).routineIds = a2.routineIds ∧ (resultOf a2 (execGetVersion a1 a2)).pending = a2.pending := by
  simp [execGetVersion]
theorem execGetVersion_completes (a1) (a2 : State) : (execGetVersion a1 a2) = .next (resultOf a2 (execGetVersion a1 a2)) := by
  unfold execGetVersion
  try dsimp only
  repeat' split
  all_goals rfl
theorem execGetCapabilities_frame (a1) (a2 : State) : (resultOf a2 (execGetCapabilities a1 a2)).ident = a2.ident ∧ (resultOf a2 (execGetCapabilities a1 a2)).nv = a2.nv ∧ (resultOf a2 (execGetCapabilities a1 a2)).top = a2.top ∧ (resultOf a2 (execGetCapabilities a1 a2)).cores = a2.cores ∧ (resultOf a2 (execGetCapabilities a1 a2)).err = a2.err ∧ (resultOf a2 (execGetCapabilities a1 a2)).mem = a2.mem ∧ (resultOf a2 (execGetCapabilities a1 a2)).cle = a2.cle ∧ (resultOf a2 (execGetCapabilities a1 a2)).pue0 = a2.pue0 ∧ (resultOf a2 (execGetCapabilities a1 a2)).pue1 = a2.pue1 ∧ (resultOf a2 (execGetCapabilities a1 a2)).cke = a2.cke ∧ (resultOf a2 (execGetCapabilities a1 a2)).pwr = a2.pwr ∧ (resultOf a2 (execGetCapabilities a1 a2)).fab = a2.fab ∧ (resultOf a2 (execGetCapabilities a1 a2)).pmu = a2.pmu ∧ (resultOf a2 (execGetCapabilities a1 a2)).routineIds = a2.routineIds ∧ (resultOf a2 (execGetCapabilities a1 a2)).pending = a2.pending := by
  simp [execGetCapabilities]
theorem execGetCapabilities_completes (a1) (a2 : State) : (execGetCapabilities a1 a2) = .next (resultOf a2 (execGetCapabilities a1 a2)) := by
  unfold execGetCapabilities
  try dsimp only
  repeat' split
  all_goals rfl
theorem execNegotiateAlgorithms_frame (a1) (a2) (a3 : State) : (resultOf a3 (execNegotiateAlgorithms a1 a2 a3)).ident = a3.ident ∧ (resultOf a3 (execNegotiateAlgorithms a1 a2 a3)).nv = a3.nv ∧ (resultOf a3 (execNegotiateAlgorithms a1 a2 a3)).top = a3.top ∧ (resultOf a3 (execNegotiateAlgorithms a1 a2 a3)).cores = a3.cores ∧ (resultOf a3 (execNegotiateAlgorithms a1 a2 a3)).err = a3.err ∧ (resultOf a3 (execNegotiateAlgorithms a1 a2 a3)).mem = a3.mem ∧ (resultOf a3 (execNegotiateAlgorithms a1 a2 a3)).cle = a3.cle ∧ (resultOf a3 (execNegotiateAlgorithms a1 a2 a3)).pue0 = a3.pue0 ∧ (resultOf a3 (execNegotiateAlgorithms a1 a2 a3)).pue1 = a3.pue1 ∧ (resultOf a3 (execNegotiateAlgorithms a1 a2 a3)).cke = a3.cke ∧ (resultOf a3 (execNegotiateAlgorithms a1 a2 a3)).pwr = a3.pwr ∧ (resultOf a3 (execNegotiateAlgorithms a1 a2 a3)).fab = a3.fab ∧ (resultOf a3 (execNegotiateAlgorithms a1 a2 a3)).pmu = a3.pmu ∧ (resultOf a3 (execNegotiateAlgorithms a1 a2 a3)).routineIds = a3.routineIds ∧ (resultOf a3 (execNegotiateAlgorithms a1 a2 a3)).pending = a3.pending := by
  simp [execNegotiateAlgorithms]
theorem execNegotiateAlgorithms_completes (a1) (a2) (a3 : State) : (execNegotiateAlgorithms a1 a2 a3) = .next (resultOf a3 (execNegotiateAlgorithms a1 a2 a3)) := by
  unfold execNegotiateAlgorithms
  try dsimp only
  repeat' split
  all_goals rfl
theorem execGetDigests_frame (a1) (a2 : State) : (resultOf a2 (execGetDigests a1 a2)).ident = a2.ident ∧ (resultOf a2 (execGetDigests a1 a2)).nv = a2.nv ∧ (resultOf a2 (execGetDigests a1 a2)).top = a2.top ∧ (resultOf a2 (execGetDigests a1 a2)).cores = a2.cores ∧ (resultOf a2 (execGetDigests a1 a2)).err = a2.err ∧ (resultOf a2 (execGetDigests a1 a2)).mem = a2.mem ∧ (resultOf a2 (execGetDigests a1 a2)).cle = a2.cle ∧ (resultOf a2 (execGetDigests a1 a2)).pue0 = a2.pue0 ∧ (resultOf a2 (execGetDigests a1 a2)).pue1 = a2.pue1 ∧ (resultOf a2 (execGetDigests a1 a2)).cke = a2.cke ∧ (resultOf a2 (execGetDigests a1 a2)).pwr = a2.pwr ∧ (resultOf a2 (execGetDigests a1 a2)).fab = a2.fab ∧ (resultOf a2 (execGetDigests a1 a2)).pmu = a2.pmu ∧ (resultOf a2 (execGetDigests a1 a2)).routineIds = a2.routineIds ∧ (resultOf a2 (execGetDigests a1 a2)).pending = a2.pending := by
  unfold execGetDigests
  exact ⟨State.spdmReq_ident _ _ _ _ (by intros; (try dsimp only); (repeat' split) <;> first | simp), State.spdmReq_nv _ _ _ _ (by intros; (try dsimp only); (repeat' split) <;> first | simp), State.spdmReq_top _ _ _ _ (by intros; (try dsimp only); (repeat' split) <;> first | simp), State.spdmReq_cores _ _ _ _ (by intros; (try dsimp only); (repeat' split) <;> first | simp), State.spdmReq_err _ _ _ _ (by intros; (try dsimp only); (repeat' split) <;> first | simp), State.spdmReq_mem _ _ _ _ (by intros; (try dsimp only); (repeat' split) <;> first | simp), State.spdmReq_cle _ _ _ _ (by intros; (try dsimp only); (repeat' split) <;> first | simp), State.spdmReq_pue0 _ _ _ _ (by intros; (try dsimp only); (repeat' split) <;> first | simp), State.spdmReq_pue1 _ _ _ _ (by intros; (try dsimp only); (repeat' split) <;> first | simp), State.spdmReq_cke _ _ _ _ (by intros; (try dsimp only); (repeat' split) <;> first | simp), State.spdmReq_pwr _ _ _ _ (by intros; (try dsimp only); (repeat' split) <;> first | simp), State.spdmReq_fab _ _ _ _ (by intros; (try dsimp only); (repeat' split) <;> first | simp), State.spdmReq_pmu _ _ _ _ (by intros; (try dsimp only); (repeat' split) <;> first | simp), State.spdmReq_routineIds _ _ _ _ (by intros; (try dsimp only); (repeat' split) <;> first | simp), State.spdmReq_pending _ _ _ _ (by intros; (try dsimp only); (repeat' split) <;> first | simp)⟩
theorem execGetDigests_completes (a1) (a2 : State) : (execGetDigests a1 a2) = .next (resultOf a2 (execGetDigests a1 a2)) := by
  unfold execGetDigests
  try dsimp only
  repeat' split
  all_goals rfl
theorem execGetCertificate_frame (a1) (a2) (a3) (a4) (a5 : State) : (resultOf a5 (execGetCertificate a1 a2 a3 a4 a5)).ident = a5.ident ∧ (resultOf a5 (execGetCertificate a1 a2 a3 a4 a5)).nv = a5.nv ∧ (resultOf a5 (execGetCertificate a1 a2 a3 a4 a5)).top = a5.top ∧ (resultOf a5 (execGetCertificate a1 a2 a3 a4 a5)).cores = a5.cores ∧ (resultOf a5 (execGetCertificate a1 a2 a3 a4 a5)).err = a5.err ∧ (resultOf a5 (execGetCertificate a1 a2 a3 a4 a5)).mem = a5.mem ∧ (resultOf a5 (execGetCertificate a1 a2 a3 a4 a5)).cle = a5.cle ∧ (resultOf a5 (execGetCertificate a1 a2 a3 a4 a5)).pue0 = a5.pue0 ∧ (resultOf a5 (execGetCertificate a1 a2 a3 a4 a5)).pue1 = a5.pue1 ∧ (resultOf a5 (execGetCertificate a1 a2 a3 a4 a5)).cke = a5.cke ∧ (resultOf a5 (execGetCertificate a1 a2 a3 a4 a5)).pwr = a5.pwr ∧ (resultOf a5 (execGetCertificate a1 a2 a3 a4 a5)).fab = a5.fab ∧ (resultOf a5 (execGetCertificate a1 a2 a3 a4 a5)).pmu = a5.pmu ∧ (resultOf a5 (execGetCertificate a1 a2 a3 a4 a5)).routineIds = a5.routineIds ∧ (resultOf a5 (execGetCertificate a1 a2 a3 a4 a5)).pending = a5.pending := by
  unfold execGetCertificate
  exact ⟨State.spdmReq_ident _ _ _ _ (by intros; (try dsimp only); (repeat' split) <;> first | simp), State.spdmReq_nv _ _ _ _ (by intros; (try dsimp only); (repeat' split) <;> first | simp), State.spdmReq_top _ _ _ _ (by intros; (try dsimp only); (repeat' split) <;> first | simp), State.spdmReq_cores _ _ _ _ (by intros; (try dsimp only); (repeat' split) <;> first | simp), State.spdmReq_err _ _ _ _ (by intros; (try dsimp only); (repeat' split) <;> first | simp), State.spdmReq_mem _ _ _ _ (by intros; (try dsimp only); (repeat' split) <;> first | simp), State.spdmReq_cle _ _ _ _ (by intros; (try dsimp only); (repeat' split) <;> first | simp), State.spdmReq_pue0 _ _ _ _ (by intros; (try dsimp only); (repeat' split) <;> first | simp), State.spdmReq_pue1 _ _ _ _ (by intros; (try dsimp only); (repeat' split) <;> first | simp), State.spdmReq_cke _ _ _ _ (by intros; (try dsimp only); (repeat' split) <;> first | simp), State.spdmReq_pwr _ _ _ _ (by intros; (try dsimp only); (repeat' split) <;> first | simp), State.spdmReq_fab _ _ _ _ (by intros; (try dsimp only); (repeat' split) <;> first | simp), State.spdmReq_pmu _ _ _ _ (by intros; (try dsimp only); (repeat' split) <;> first | simp), State.spdmReq_routineIds _ _ _ _ (by intros; (try dsimp only); (repeat' split) <;> first | simp), State.spdmReq_pending _ _ _ _ (by intros; (try dsimp only); (repeat' split) <;> first | simp)⟩
theorem execGetCertificate_completes (a1) (a2) (a3) (a4) (a5 : State) : (execGetCertificate a1 a2 a3 a4 a5) = .next (resultOf a5 (execGetCertificate a1 a2 a3 a4 a5)) := by
  unfold execGetCertificate
  try dsimp only
  repeat' split
  all_goals rfl
theorem execChallenge_frame (a1) (a2) (a3) (a4) (a5 : State) : (resultOf a5 (execChallenge a1 a2 a3 a4 a5)).ident = a5.ident ∧ (resultOf a5 (execChallenge a1 a2 a3 a4 a5)).top = a5.top ∧ (resultOf a5 (execChallenge a1 a2 a3 a4 a5)).cores = a5.cores ∧ (resultOf a5 (execChallenge a1 a2 a3 a4 a5)).mem = a5.mem ∧ (resultOf a5 (execChallenge a1 a2 a3 a4 a5)).cle = a5.cle ∧ (resultOf a5 (execChallenge a1 a2 a3 a4 a5)).pue0 = a5.pue0 ∧ (resultOf a5 (execChallenge a1 a2 a3 a4 a5)).pue1 = a5.pue1 ∧ (resultOf a5 (execChallenge a1 a2 a3 a4 a5)).cke = a5.cke ∧ (resultOf a5 (execChallenge a1 a2 a3 a4 a5)).pwr = a5.pwr ∧ (resultOf a5 (execChallenge a1 a2 a3 a4 a5)).fab = a5.fab ∧ (resultOf a5 (execChallenge a1 a2 a3 a4 a5)).routineIds = a5.routineIds ∧ (resultOf a5 (execChallenge a1 a2 a3 a4 a5)).pending = a5.pending := by
  unfold execChallenge
  exact ⟨State.spdmReq_ident _ _ _ _ (by intros; (try dsimp only); (repeat' split) <;> first | simp), State.spdmReq_top _ _ _ _ (by intros; (try dsimp only); (repeat' split) <;> first | simp), State.spdmReq_cores _ _ _ _ (by intros; (try dsimp only); (repeat' split) <;> first | simp), State.spdmReq_mem _ _ _ _ (by intros; (try dsimp only); (repeat' split) <;> first | simp), State.spdmReq_cle _ _ _ _ (by intros; (try dsimp only); (repeat' split) <;> first | simp), State.spdmReq_pue0 _ _ _ _ (by intros; (try dsimp only); (repeat' split) <;> first | simp), State.spdmReq_pue1 _ _ _ _ (by intros; (try dsimp only); (repeat' split) <;> first | simp), State.spdmReq_cke _ _ _ _ (by intros; (try dsimp only); (repeat' split) <;> first | simp), State.spdmReq_pwr _ _ _ _ (by intros; (try dsimp only); (repeat' split) <;> first | simp), State.spdmReq_fab _ _ _ _ (by intros; (try dsimp only); (repeat' split) <;> first | simp), State.spdmReq_routineIds _ _ _ _ (by intros; (try dsimp only); (repeat' split) <;> first | simp), State.spdmReq_pending _ _ _ _ (by intros; (try dsimp only); (repeat' split) <;> first | simp)⟩
theorem execChallenge_completes (a1) (a2) (a3) (a4) (a5 : State) : (execChallenge a1 a2 a3 a4 a5) = .next (resultOf a5 (execChallenge a1 a2 a3 a4 a5)) := by
  unfold execChallenge
  try dsimp only
  repeat' split
  all_goals rfl
theorem execGetMeasurements_frame (a1) (a2) (a3) (a4) (a5) (a6 : State) : (resultOf a6 (execGetMeasurements a1 a2 a3 a4 a5 a6)).ident = a6.ident ∧ (resultOf a6 (execGetMeasurements a1 a2 a3 a4 a5 a6)).top = a6.top ∧ (resultOf a6 (execGetMeasurements a1 a2 a3 a4 a5 a6)).cores = a6.cores ∧ (resultOf a6 (execGetMeasurements a1 a2 a3 a4 a5 a6)).mem = a6.mem ∧ (resultOf a6 (execGetMeasurements a1 a2 a3 a4 a5 a6)).cle = a6.cle ∧ (resultOf a6 (execGetMeasurements a1 a2 a3 a4 a5 a6)).pue0 = a6.pue0 ∧ (resultOf a6 (execGetMeasurements a1 a2 a3 a4 a5 a6)).pue1 = a6.pue1 ∧ (resultOf a6 (execGetMeasurements a1 a2 a3 a4 a5 a6)).cke = a6.cke ∧ (resultOf a6 (execGetMeasurements a1 a2 a3 a4 a5 a6)).pwr = a6.pwr ∧ (resultOf a6 (execGetMeasurements a1 a2 a3 a4 a5 a6)).fab = a6.fab ∧ (resultOf a6 (execGetMeasurements a1 a2 a3 a4 a5 a6)).routineIds = a6.routineIds ∧ (resultOf a6 (execGetMeasurements a1 a2 a3 a4 a5 a6)).pending = a6.pending := by
  unfold execGetMeasurements
  exact ⟨State.spdmReq_ident _ _ _ _ (by intros; (try dsimp only); (repeat' split) <;> first | simp), State.spdmReq_top _ _ _ _ (by intros; (try dsimp only); (repeat' split) <;> first | simp), State.spdmReq_cores _ _ _ _ (by intros; (try dsimp only); (repeat' split) <;> first | simp), State.spdmReq_mem _ _ _ _ (by intros; (try dsimp only); (repeat' split) <;> first | simp), State.spdmReq_cle _ _ _ _ (by intros; (try dsimp only); (repeat' split) <;> first | simp), State.spdmReq_pue0 _ _ _ _ (by intros; (try dsimp only); (repeat' split) <;> first | simp), State.spdmReq_pue1 _ _ _ _ (by intros; (try dsimp only); (repeat' split) <;> first | simp), State.spdmReq_cke _ _ _ _ (by intros; (try dsimp only); (repeat' split) <;> first | simp), State.spdmReq_pwr _ _ _ _ (by intros; (try dsimp only); (repeat' split) <;> first | simp), State.spdmReq_fab _ _ _ _ (by intros; (try dsimp only); (repeat' split) <;> first | simp), State.spdmReq_routineIds _ _ _ _ (by intros; (try dsimp only); (repeat' split) <;> first | simp), State.spdmReq_pending _ _ _ _ (by intros; (try dsimp only); (repeat' split) <;> first | simp)⟩
theorem execGetMeasurements_completes (a1) (a2) (a3) (a4) (a5) (a6 : State) : (execGetMeasurements a1 a2 a3 a4 a5 a6) = .next (resultOf a6 (execGetMeasurements a1 a2 a3 a4 a5 a6)) := by
  unfold execGetMeasurements
  try dsimp only
  repeat' split
  all_goals rfl
theorem execRespondIfReady_frame (a1) (a2 : State) : (resultOf a2 (execRespondIfReady a1 a2)).ident = a2.ident ∧ (resultOf a2 (execRespondIfReady a1 a2)).nv = a2.nv ∧ (resultOf a2 (execRespondIfReady a1 a2)).top = a2.top ∧ (resultOf a2 (execRespondIfReady a1 a2)).cores = a2.cores ∧ (resultOf a2 (execRespondIfReady a1 a2)).err = a2.err ∧ (resultOf a2 (execRespondIfReady a1 a2)).mem = a2.mem ∧ (resultOf a2 (execRespondIfReady a1 a2)).cle = a2.cle ∧ (resultOf a2 (execRespondIfReady a1 a2)).pue0 = a2.pue0 ∧ (resultOf a2 (execRespondIfReady a1 a2)).pue1 = a2.pue1 ∧ (resultOf a2 (execRespondIfReady a1 a2)).cke = a2.cke ∧ (resultOf a2 (execRespondIfReady a1 a2)).pwr = a2.pwr ∧ (resultOf a2 (execRespondIfReady a1 a2)).fab = a2.fab ∧ (resultOf a2 (execRespondIfReady a1 a2)).pmu = a2.pmu ∧ (resultOf a2 (execRespondIfReady a1 a2)).routineIds = a2.routineIds ∧ (resultOf a2 (execRespondIfReady a1 a2)).pending = a2.pending := by
  unfold execRespondIfReady
  exact ⟨State.mssReq_ident _ _ _ _ (by intros; (try dsimp only); (repeat' split) <;> first | simp), State.mssReq_nv _ _ _ _ (by intros; (try dsimp only); (repeat' split) <;> first | simp), State.mssReq_top _ _ _ _ (by intros; (try dsimp only); (repeat' split) <;> first | simp), State.mssReq_cores _ _ _ _ (by intros; (try dsimp only); (repeat' split) <;> first | simp), State.mssReq_err _ _ _ _ (by intros; (try dsimp only); (repeat' split) <;> first | simp), State.mssReq_mem _ _ _ _ (by intros; (try dsimp only); (repeat' split) <;> first | simp), State.mssReq_cle _ _ _ _ (by intros; (try dsimp only); (repeat' split) <;> first | simp), State.mssReq_pue0 _ _ _ _ (by intros; (try dsimp only); (repeat' split) <;> first | simp), State.mssReq_pue1 _ _ _ _ (by intros; (try dsimp only); (repeat' split) <;> first | simp), State.mssReq_cke _ _ _ _ (by intros; (try dsimp only); (repeat' split) <;> first | simp), State.mssReq_pwr _ _ _ _ (by intros; (try dsimp only); (repeat' split) <;> first | simp), State.mssReq_fab _ _ _ _ (by intros; (try dsimp only); (repeat' split) <;> first | simp), State.mssReq_pmu _ _ _ _ (by intros; (try dsimp only); (repeat' split) <;> first | simp), State.mssReq_routineIds _ _ _ _ (by intros; (try dsimp only); (repeat' split) <;> first | simp), State.mssReq_pending _ _ _ _ (by intros; (try dsimp only); (repeat' split) <;> first | simp)⟩
theorem execRespondIfReady_completes (a1) (a2 : State) : (execRespondIfReady a1 a2) = .next (resultOf a2 (execRespondIfReady a1 a2)) := by
  unfold execRespondIfReady
  try dsimp only
  repeat' split
  all_goals rfl
theorem execChunkSend_frame (a1) (a2) (a3) (a4 : State) : (resultOf a4 (execChunkSend a1 a2 a3 a4)).ident = a4.ident ∧ (resultOf a4 (execChunkSend a1 a2 a3 a4)).nv = a4.nv ∧ (resultOf a4 (execChunkSend a1 a2 a3 a4)).top = a4.top ∧ (resultOf a4 (execChunkSend a1 a2 a3 a4)).cores = a4.cores ∧ (resultOf a4 (execChunkSend a1 a2 a3 a4)).err = a4.err ∧ (resultOf a4 (execChunkSend a1 a2 a3 a4)).mem = a4.mem ∧ (resultOf a4 (execChunkSend a1 a2 a3 a4)).cle = a4.cle ∧ (resultOf a4 (execChunkSend a1 a2 a3 a4)).pue0 = a4.pue0 ∧ (resultOf a4 (execChunkSend a1 a2 a3 a4)).pue1 = a4.pue1 ∧ (resultOf a4 (execChunkSend a1 a2 a3 a4)).cke = a4.cke ∧ (resultOf a4 (execChunkSend a1 a2 a3 a4)).pwr = a4.pwr ∧ (resultOf a4 (execChunkSend a1 a2 a3 a4)).fab = a4.fab ∧ (resultOf a4 (execChunkSend a1 a2 a3 a4)).pmu = a4.pmu ∧ (resultOf a4 (execChunkSend a1 a2 a3 a4)).routineIds = a4.routineIds ∧ (resultOf a4 (execChunkSend a1 a2 a3 a4)).pending = a4.pending := by
  simp [execChunkSend]
theorem execChunkSend_completes (a1) (a2) (a3) (a4 : State) : (execChunkSend a1 a2 a3 a4) = .next (resultOf a4 (execChunkSend a1 a2 a3 a4)) := by
  unfold execChunkSend
  try dsimp only
  repeat' split
  all_goals rfl
theorem execChunkGet_frame (a1) (a2) (a3 : State) : (resultOf a3 (execChunkGet a1 a2 a3)).ident = a3.ident ∧ (resultOf a3 (execChunkGet a1 a2 a3)).nv = a3.nv ∧ (resultOf a3 (execChunkGet a1 a2 a3)).top = a3.top ∧ (resultOf a3 (execChunkGet a1 a2 a3)).cores = a3.cores ∧ (resultOf a3 (execChunkGet a1 a2 a3)).err = a3.err ∧ (resultOf a3 (execChunkGet a1 a2 a3)).mem = a3.mem ∧ (resultOf a3 (execChunkGet a1 a2 a3)).cle = a3.cle ∧ (resultOf a3 (execChunkGet a1 a2 a3)).pue0 = a3.pue0 ∧ (resultOf a3 (execChunkGet a1 a2 a3)).pue1 = a3.pue1 ∧ (resultOf a3 (execChunkGet a1 a2 a3)).cke = a3.cke ∧ (resultOf a3 (execChunkGet a1 a2 a3)).pwr = a3.pwr ∧ (resultOf a3 (execChunkGet a1 a2 a3)).fab = a3.fab ∧ (resultOf a3 (execChunkGet a1 a2 a3)).pmu = a3.pmu ∧ (resultOf a3 (execChunkGet a1 a2 a3)).routineIds = a3.routineIds ∧ (resultOf a3 (execChunkGet a1 a2 a3)).pending = a3.pending := by
  simp [execChunkGet]
theorem execChunkGet_completes (a1) (a2) (a3 : State) : (execChunkGet a1 a2 a3) = .next (resultOf a3 (execChunkGet a1 a2 a3)) := by
  unfold execChunkGet
  try dsimp only
  repeat' split
  all_goals rfl
theorem execRegisterWrite_frame (a1) (a2) (a3) (a4 : State) : (resultOf a4 (execRegisterWrite a1 a2 a3 a4)).ident = a4.ident ∧ (resultOf a4 (execRegisterWrite a1 a2 a3 a4)).nv = a4.nv ∧ (resultOf a4 (execRegisterWrite a1 a2 a3 a4)).pending = a4.pending := by
  simp [execRegisterWrite]
theorem execRegisterWrite_completes (a1) (a2) (a3) (a4 : State) : (execRegisterWrite a1 a2 a3 a4) = .next (resultOf a4 (execRegisterWrite a1 a2 a3 a4)) := by
  unfold execRegisterWrite
  try dsimp only
  repeat' split
  all_goals rfl
theorem execPacketForward_frame (a1 : State) : (resultOf a1 (execPacketForward a1)).ident = a1.ident ∧ (resultOf a1 (execPacketForward a1)).nv = a1.nv ∧ (resultOf a1 (execPacketForward a1)).top = a1.top ∧ (resultOf a1 (execPacketForward a1)).cores = a1.cores ∧ (resultOf a1 (execPacketForward a1)).mem = a1.mem ∧ (resultOf a1 (execPacketForward a1)).cle = a1.cle ∧ (resultOf a1 (execPacketForward a1)).pue0 = a1.pue0 ∧ (resultOf a1 (execPacketForward a1)).pue1 = a1.pue1 ∧ (resultOf a1 (execPacketForward a1)).cke = a1.cke ∧ (resultOf a1 (execPacketForward a1)).pwr = a1.pwr ∧ (resultOf a1 (execPacketForward a1)).mss = a1.mss ∧ (resultOf a1 (execPacketForward a1)).fresh = a1.fresh ∧ (resultOf a1 (execPacketForward a1)).routineIds = a1.routineIds ∧ (resultOf a1 (execPacketForward a1)).pending = a1.pending := by
  unfold execPacketForward
  try dsimp only
  (repeat' split) <;> first | rfl | (simp_all; done) | (have hh := State.takeInbox_frame ‹State.takeInbox _ _ = _›; simp_all; done) | (have hh := State.takeInbox_frame ‹State.takeInbox _ _ = _›; simp [hh]; done) | (have hh := State.takeForward_frame ‹State.takeForward _ = _›; simp_all; done) | (have hh := State.takeForward_frame ‹State.takeForward _ = _›; simp [hh]; done) | (have hh := State.takeType_frame ‹State.takeType _ _ = _›; simp_all; done) | (have hh := State.takeType_frame ‹State.takeType _ _ = _›; simp [hh]; done) | (have hh := State.takeReq_frame ‹State.takeReq _ _ = _›; simp_all; done) | (have hh := State.takeReq_frame ‹State.takeReq _ _ = _›; simp [hh]; done) | (have hh := startHub_frame ‹startHub _ _ _ = _›; simp_all; done) | (have hh := startHub_frame ‹startHub _ _ _ = _›; simp [hh]; done) | (have hh := State.takeStream_frame ‹State.takeStream _ _ _ = _›; simp_all; done) | (have hh := State.takeStream_frame ‹State.takeStream _ _ _ = _›; simp [hh]; done) | (have hh := precondTile_frame ‹precondTile _ _ _ _ _ _ = _›; simp_all; done) | (have hh := precondTile_frame ‹precondTile _ _ _ _ _ _ = _›; simp [hh]; done) | (have hh := State.takeSample_frame ‹State.takeSample _ _ _ = _›; simp_all; done) | (have hh := State.takeSample_frame ‹State.takeSample _ _ _ = _›; simp [hh]; done) | (have hh := State.takeCke_frame ‹State.takeCke _ _ = _›; simp_all; done) | (have hh := State.takeCke_frame ‹State.takeCke _ _ = _›; simp [hh]; done) | (have hh := State.takeIndex_frame ‹State.takeIndex _ = _›; simp_all; done) | (have hh := State.takeIndex_frame ‹State.takeIndex _ = _›; simp [hh]; done) | (have hh := State.sign_frame ‹State.sign _ _ = _›; simp_all; done) | (have hh := State.sign_frame ‹State.sign _ _ = _›; simp [hh]; done)
theorem execPacketForward_completes (a1 : State) : (execPacketForward a1) = .next (resultOf a1 (execPacketForward a1)) := by
  unfold execPacketForward
  try dsimp only
  repeat' split
  all_goals rfl
@[simp] theorem serveRequest_ident (a1 : State) (a2) (a3) (ha3 : ∀ y0 y1, (a3 y0 y1).ident = y1.ident) : (resultOf a1 (serveRequest a1 a2 a3)).ident = a1.ident := by
  unfold serveRequest
  try dsimp only
  (repeat' split) <;> first | rfl | (simp_all; done) | (have hh := State.takeInbox_frame ‹State.takeInbox _ _ = _›; simp_all; done) | (have hh := State.takeInbox_frame ‹State.takeInbox _ _ = _›; simp [hh]; done) | (have hh := State.takeForward_frame ‹State.takeForward _ = _›; simp_all; done) | (have hh := State.takeForward_frame ‹State.takeForward _ = _›; simp [hh]; done) | (have hh := State.takeType_frame ‹State.takeType _ _ = _›; simp_all; done) | (have hh := State.takeType_frame ‹State.takeType _ _ = _›; simp [hh]; done) | (have hh := State.takeReq_frame ‹State.takeReq _ _ = _›; simp_all; done) | (have hh := State.takeReq_frame ‹State.takeReq _ _ = _›; simp [hh]; done) | (have hh := startHub_frame ‹startHub _ _ _ = _›; simp_all; done) | (have hh := startHub_frame ‹startHub _ _ _ = _›; simp [hh]; done) | (have hh := State.takeStream_frame ‹State.takeStream _ _ _ = _›; simp_all; done) | (have hh := State.takeStream_frame ‹State.takeStream _ _ _ = _›; simp [hh]; done) | (have hh := precondTile_frame ‹precondTile _ _ _ _ _ _ = _›; simp_all; done) | (have hh := precondTile_frame ‹precondTile _ _ _ _ _ _ = _›; simp [hh]; done) | (have hh := State.takeSample_frame ‹State.takeSample _ _ _ = _›; simp_all; done) | (have hh := State.takeSample_frame ‹State.takeSample _ _ _ = _›; simp [hh]; done) | (have hh := State.takeCke_frame ‹State.takeCke _ _ = _›; simp_all; done) | (have hh := State.takeCke_frame ‹State.takeCke _ _ = _›; simp [hh]; done) | (have hh := State.takeIndex_frame ‹State.takeIndex _ = _›; simp_all; done) | (have hh := State.takeIndex_frame ‹State.takeIndex _ = _›; simp [hh]; done) | (have hh := State.sign_frame ‹State.sign _ _ = _›; simp_all; done) | (have hh := State.sign_frame ‹State.sign _ _ = _›; simp [hh]; done)
@[simp] theorem serveRequest_nv (a1 : State) (a2) (a3) (ha3 : ∀ y0 y1, (a3 y0 y1).nv = y1.nv) : (resultOf a1 (serveRequest a1 a2 a3)).nv = a1.nv := by
  unfold serveRequest
  try dsimp only
  (repeat' split) <;> first | rfl | (simp_all; done) | (have hh := State.takeInbox_frame ‹State.takeInbox _ _ = _›; simp_all; done) | (have hh := State.takeInbox_frame ‹State.takeInbox _ _ = _›; simp [hh]; done) | (have hh := State.takeForward_frame ‹State.takeForward _ = _›; simp_all; done) | (have hh := State.takeForward_frame ‹State.takeForward _ = _›; simp [hh]; done) | (have hh := State.takeType_frame ‹State.takeType _ _ = _›; simp_all; done) | (have hh := State.takeType_frame ‹State.takeType _ _ = _›; simp [hh]; done) | (have hh := State.takeReq_frame ‹State.takeReq _ _ = _›; simp_all; done) | (have hh := State.takeReq_frame ‹State.takeReq _ _ = _›; simp [hh]; done) | (have hh := startHub_frame ‹startHub _ _ _ = _›; simp_all; done) | (have hh := startHub_frame ‹startHub _ _ _ = _›; simp [hh]; done) | (have hh := State.takeStream_frame ‹State.takeStream _ _ _ = _›; simp_all; done) | (have hh := State.takeStream_frame ‹State.takeStream _ _ _ = _›; simp [hh]; done) | (have hh := precondTile_frame ‹precondTile _ _ _ _ _ _ = _›; simp_all; done) | (have hh := precondTile_frame ‹precondTile _ _ _ _ _ _ = _›; simp [hh]; done) | (have hh := State.takeSample_frame ‹State.takeSample _ _ _ = _›; simp_all; done) | (have hh := State.takeSample_frame ‹State.takeSample _ _ _ = _›; simp [hh]; done) | (have hh := State.takeCke_frame ‹State.takeCke _ _ = _›; simp_all; done) | (have hh := State.takeCke_frame ‹State.takeCke _ _ = _›; simp [hh]; done) | (have hh := State.takeIndex_frame ‹State.takeIndex _ = _›; simp_all; done) | (have hh := State.takeIndex_frame ‹State.takeIndex _ = _›; simp [hh]; done) | (have hh := State.sign_frame ‹State.sign _ _ = _›; simp_all; done) | (have hh := State.sign_frame ‹State.sign _ _ = _›; simp [hh]; done)
@[simp] theorem serveRequest_top (a1 : State) (a2) (a3) (ha3 : ∀ y0 y1, (a3 y0 y1).top = y1.top) : (resultOf a1 (serveRequest a1 a2 a3)).top = a1.top := by
  unfold serveRequest
  try dsimp only
  (repeat' split) <;> first | rfl | (simp_all; done) | (have hh := State.takeInbox_frame ‹State.takeInbox _ _ = _›; simp_all; done) | (have hh := State.takeInbox_frame ‹State.takeInbox _ _ = _›; simp [hh]; done) | (have hh := State.takeForward_frame ‹State.takeForward _ = _›; simp_all; done) | (have hh := State.takeForward_frame ‹State.takeForward _ = _›; simp [hh]; done) | (have hh := State.takeType_frame ‹State.takeType _ _ = _›; simp_all; done) | (have hh := State.takeType_frame ‹State.takeType _ _ = _›; simp [hh]; done) | (have hh := State.takeReq_frame ‹State.takeReq _ _ = _›; simp_all; done) | (have hh := State.takeReq_frame ‹State.takeReq _ _ = _›; simp [hh]; done) | (have hh := startHub_frame ‹startHub _ _ _ = _›; simp_all; done) | (have hh := startHub_frame ‹startHub _ _ _ = _›; simp [hh]; done) | (have hh := State.takeStream_frame ‹State.takeStream _ _ _ = _›; simp_all; done) | (have hh := State.takeStream_frame ‹State.takeStream _ _ _ = _›; simp [hh]; done) | (have hh := precondTile_frame ‹precondTile _ _ _ _ _ _ = _›; simp_all; done) | (have hh := precondTile_frame ‹precondTile _ _ _ _ _ _ = _›; simp [hh]; done) | (have hh := State.takeSample_frame ‹State.takeSample _ _ _ = _›; simp_all; done) | (have hh := State.takeSample_frame ‹State.takeSample _ _ _ = _›; simp [hh]; done) | (have hh := State.takeCke_frame ‹State.takeCke _ _ = _›; simp_all; done) | (have hh := State.takeCke_frame ‹State.takeCke _ _ = _›; simp [hh]; done) | (have hh := State.takeIndex_frame ‹State.takeIndex _ = _›; simp_all; done) | (have hh := State.takeIndex_frame ‹State.takeIndex _ = _›; simp [hh]; done) | (have hh := State.sign_frame ‹State.sign _ _ = _›; simp_all; done) | (have hh := State.sign_frame ‹State.sign _ _ = _›; simp [hh]; done)
@[simp] theorem serveRequest_cores (a1 : State) (a2) (a3) (ha3 : ∀ y0 y1, (a3 y0 y1).cores = y1.cores) : (resultOf a1 (serveRequest a1 a2 a3)).cores = a1.cores := by
  unfold serveRequest
  try dsimp only
  (repeat' split) <;> first | rfl | (simp_all; done) | (have hh := State.takeInbox_frame ‹State.takeInbox _ _ = _›; simp_all; done) | (have hh := State.takeInbox_frame ‹State.takeInbox _ _ = _›; simp [hh]; done) | (have hh := State.takeForward_frame ‹State.takeForward _ = _›; simp_all; done) | (have hh := State.takeForward_frame ‹State.takeForward _ = _›; simp [hh]; done) | (have hh := State.takeType_frame ‹State.takeType _ _ = _›; simp_all; done) | (have hh := State.takeType_frame ‹State.takeType _ _ = _›; simp [hh]; done) | (have hh := State.takeReq_frame ‹State.takeReq _ _ = _›; simp_all; done) | (have hh := State.takeReq_frame ‹State.takeReq _ _ = _›; simp [hh]; done) | (have hh := startHub_frame ‹startHub _ _ _ = _›; simp_all; done) | (have hh := startHub_frame ‹startHub _ _ _ = _›; simp [hh]; done) | (have hh := State.takeStream_frame ‹State.takeStream _ _ _ = _›; simp_all; done) | (have hh := State.takeStream_frame ‹State.takeStream _ _ _ = _›; simp [hh]; done) | (have hh := precondTile_frame ‹precondTile _ _ _ _ _ _ = _›; simp_all; done) | (have hh := precondTile_frame ‹precondTile _ _ _ _ _ _ = _›; simp [hh]; done) | (have hh := State.takeSample_frame ‹State.takeSample _ _ _ = _›; simp_all; done) | (have hh := State.takeSample_frame ‹State.takeSample _ _ _ = _›; simp [hh]; done) | (have hh := State.takeCke_frame ‹State.takeCke _ _ = _›; simp_all; done) | (have hh := State.takeCke_frame ‹State.takeCke _ _ = _›; simp [hh]; done) | (have hh := State.takeIndex_frame ‹State.takeIndex _ = _›; simp_all; done) | (have hh := State.takeIndex_frame ‹State.takeIndex _ = _›; simp [hh]; done) | (have hh := State.sign_frame ‹State.sign _ _ = _›; simp_all; done) | (have hh := State.sign_frame ‹State.sign _ _ = _›; simp [hh]; done)
@[simp] theorem serveRequest_mem (a1 : State) (a2) (a3) (ha3 : ∀ y0 y1, (a3 y0 y1).mem = y1.mem) : (resultOf a1 (serveRequest a1 a2 a3)).mem = a1.mem := by
  unfold serveRequest
  try dsimp only
  (repeat' split) <;> first | rfl | (simp_all; done) | (have hh := State.takeInbox_frame ‹State.takeInbox _ _ = _›; simp_all; done) | (have hh := State.takeInbox_frame ‹State.takeInbox _ _ = _›; simp [hh]; done) | (have hh := State.takeForward_frame ‹State.takeForward _ = _›; simp_all; done) | (have hh := State.takeForward_frame ‹State.takeForward _ = _›; simp [hh]; done) | (have hh := State.takeType_frame ‹State.takeType _ _ = _›; simp_all; done) | (have hh := State.takeType_frame ‹State.takeType _ _ = _›; simp [hh]; done) | (have hh := State.takeReq_frame ‹State.takeReq _ _ = _›; simp_all; done) | (have hh := State.takeReq_frame ‹State.takeReq _ _ = _›; simp [hh]; done) | (have hh := startHub_frame ‹startHub _ _ _ = _›; simp_all; done) | (have hh := startHub_frame ‹startHub _ _ _ = _›; simp [hh]; done) | (have hh := State.takeStream_frame ‹State.takeStream _ _ _ = _›; simp_all; done) | (have hh := State.takeStream_frame ‹State.takeStream _ _ _ = _›; simp [hh]; done) | (have hh := precondTile_frame ‹precondTile _ _ _ _ _ _ = _›; simp_all; done) | (have hh := precondTile_frame ‹precondTile _ _ _ _ _ _ = _›; simp [hh]; done) | (have hh := State.takeSample_frame ‹State.takeSample _ _ _ = _›; simp_all; done) | (have hh := State.takeSample_frame ‹State.takeSample _ _ _ = _›; simp [hh]; done) | (have hh := State.takeCke_frame ‹State.takeCke _ _ = _›; simp_all; done) | (have hh := State.takeCke_frame ‹State.takeCke _ _ = _›; simp [hh]; done) | (have hh := State.takeIndex_frame ‹State.takeIndex _ = _›; simp_all; done) | (have hh := State.takeIndex_frame ‹State.takeIndex _ = _›; simp [hh]; done) | (have hh := State.sign_frame ‹State.sign _ _ = _›; simp_all; done) | (have hh := State.sign_frame ‹State.sign _ _ = _›; simp [hh]; done)
@[simp] theorem serveRequest_cle (a1 : State) (a2) (a3) (ha3 : ∀ y0 y1, (a3 y0 y1).cle = y1.cle) : (resultOf a1 (serveRequest a1 a2 a3)).cle = a1.cle := by
  unfold serveRequest
  try dsimp only
  (repeat' split) <;> first | rfl | (simp_all; done) | (have hh := State.takeInbox_frame ‹State.takeInbox _ _ = _›; simp_all; done) | (have hh := State.takeInbox_frame ‹State.takeInbox _ _ = _›; simp [hh]; done) | (have hh := State.takeForward_frame ‹State.takeForward _ = _›; simp_all; done) | (have hh := State.takeForward_frame ‹State.takeForward _ = _›; simp [hh]; done) | (have hh := State.takeType_frame ‹State.takeType _ _ = _›; simp_all; done) | (have hh := State.takeType_frame ‹State.takeType _ _ = _›; simp [hh]; done) | (have hh := State.takeReq_frame ‹State.takeReq _ _ = _›; simp_all; done) | (have hh := State.takeReq_frame ‹State.takeReq _ _ = _›; simp [hh]; done) | (have hh := startHub_frame ‹startHub _ _ _ = _›; simp_all; done) | (have hh := startHub_frame ‹startHub _ _ _ = _›; simp [hh]; done) | (have hh := State.takeStream_frame ‹State.takeStream _ _ _ = _›; simp_all; done) | (have hh := State.takeStream_frame ‹State.takeStream _ _ _ = _›; simp [hh]; done) | (have hh := precondTile_frame ‹precondTile _ _ _ _ _ _ = _›; simp_all; done) | (have hh := precondTile_frame ‹precondTile _ _ _ _ _ _ = _›; simp [hh]; done) | (have hh := State.takeSample_frame ‹State.takeSample _ _ _ = _›; simp_all; done) | (have hh := State.takeSample_frame ‹State.takeSample _ _ _ = _›; simp [hh]; done) | (have hh := State.takeCke_frame ‹State.takeCke _ _ = _›; simp_all; done) | (have hh := State.takeCke_frame ‹State.takeCke _ _ = _›; simp [hh]; done) | (have hh := State.takeIndex_frame ‹State.takeIndex _ = _›; simp_all; done) | (have hh := State.takeIndex_frame ‹State.takeIndex _ = _›; simp [hh]; done) | (have hh := State.sign_frame ‹State.sign _ _ = _›; simp_all; done) | (have hh := State.sign_frame ‹State.sign _ _ = _›; simp [hh]; done)
@[simp] theorem serveRequest_pue0 (a1 : State) (a2) (a3) (ha3 : ∀ y0 y1, (a3 y0 y1).pue0 = y1.pue0) : (resultOf a1 (serveRequest a1 a2 a3)).pue0 = a1.pue0 := by
  unfold serveRequest
  try dsimp only
  (repeat' split) <;> first | rfl | (simp_all; done) | (have hh := State.takeInbox_frame ‹State.takeInbox _ _ = _›; simp_all; done) | (have hh := State.takeInbox_frame ‹State.takeInbox _ _ = _›; simp [hh]; done) | (have hh := State.takeForward_frame ‹State.takeForward _ = _›; simp_all; done) | (have hh := State.takeForward_frame ‹State.takeForward _ = _›; simp [hh]; done) | (have hh := State.takeType_frame ‹State.takeType _ _ = _›; simp_all; done) | (have hh := State.takeType_frame ‹State.takeType _ _ = _›; simp [hh]; done) | (have hh := State.takeReq_frame ‹State.takeReq _ _ = _›; simp_all; done) | (have hh := State.takeReq_frame ‹State.takeReq _ _ = _›; simp [hh]; done) | (have hh := startHub_frame ‹startHub _ _ _ = _›; simp_all; done) | (have hh := startHub_frame ‹startHub _ _ _ = _›; simp [hh]; done) | (have hh := State.takeStream_frame ‹State.takeStream _ _ _ = _›; simp_all; done) | (have hh := State.takeStream_frame ‹State.takeStream _ _ _ = _›; simp [hh]; done) | (have hh := precondTile_frame ‹precondTile _ _ _ _ _ _ = _›; simp_all; done) | (have hh := precondTile_frame ‹precondTile _ _ _ _ _ _ = _›; simp [hh]; done) | (have hh := State.takeSample_frame ‹State.takeSample _ _ _ = _›; simp_all; done) | (have hh := State.takeSample_frame ‹State.takeSample _ _ _ = _›; simp [hh]; done) | (have hh := State.takeCke_frame ‹State.takeCke _ _ = _›; simp_all; done) | (have hh := State.takeCke_frame ‹State.takeCke _ _ = _›; simp [hh]; done) | (have hh := State.takeIndex_frame ‹State.takeIndex _ = _›; simp_all; done) | (have hh := State.takeIndex_frame ‹State.takeIndex _ = _›; simp [hh]; done) | (have hh := State.sign_frame ‹State.sign _ _ = _›; simp_all; done) | (have hh := State.sign_frame ‹State.sign _ _ = _›; simp [hh]; done)
@[simp] theorem serveRequest_pue1 (a1 : State) (a2) (a3) (ha3 : ∀ y0 y1, (a3 y0 y1).pue1 = y1.pue1) : (resultOf a1 (serveRequest a1 a2 a3)).pue1 = a1.pue1 := by
  unfold serveRequest
  try dsimp only
  (repeat' split) <;> first | rfl | (simp_all; done) | (have hh := State.takeInbox_frame ‹State.takeInbox _ _ = _›; simp_all; done) | (have hh := State.takeInbox_frame ‹State.takeInbox _ _ = _›; simp [hh]; done) | (have hh := State.takeForward_frame ‹State.takeForward _ = _›; simp_all; done) | (have hh := State.takeForward_frame ‹State.takeForward _ = _›; simp [hh]; done) | (have hh := State.takeType_frame ‹State.takeType _ _ = _›; simp_all; done) | (have hh := State.takeType_frame ‹State.takeType _ _ = _›; simp [hh]; done) | (have hh := State.takeReq_frame ‹State.takeReq _ _ = _›; simp_all; done) | (have hh := State.takeReq_frame ‹State.takeReq _ _ = _›; simp [hh]; done) | (have hh := startHub_frame ‹startHub _ _ _ = _›; simp_all; done) | (have hh := startHub_frame ‹startHub _ _ _ = _›; simp [hh]; done) | (have hh := State.takeStream_frame ‹State.takeStream _ _ _ = _›; simp_all; done) | (have hh := State.takeStream_frame ‹State.takeStream _ _ _ = _›; simp [hh]; done) | (have hh := precondTile_frame ‹precondTile _ _ _ _ _ _ = _›; simp_all; done) | (have hh := precondTile_frame ‹precondTile _ _ _ _ _ _ = _›; simp [hh]; done) | (have hh := State.takeSample_frame ‹State.takeSample _ _ _ = _›; simp_all; done) | (have hh := State.takeSample_frame ‹State.takeSample _ _ _ = _›; simp [hh]; done) | (have hh := State.takeCke_frame ‹State.takeCke _ _ = _›; simp_all; done) | (have hh := State.takeCke_frame ‹State.takeCke _ _ = _›; simp [hh]; done) | (have hh := State.takeIndex_frame ‹State.takeIndex _ = _›; simp_all; done) | (have hh := State.takeIndex_frame ‹State.takeIndex _ = _›; simp [hh]; done) | (have hh := State.sign_frame ‹State.sign _ _ = _›; simp_all; done) | (have hh := State.sign_frame ‹State.sign _ _ = _›; simp [hh]; done)
@[simp] theorem serveRequest_cke (a1 : State) (a2) (a3) (ha3 : ∀ y0 y1, (a3 y0 y1).cke = y1.cke) : (resultOf a1 (serveRequest a1 a2 a3)).cke = a1.cke := by
  unfold serveRequest
  try dsimp only
  (repeat' split) <;> first | rfl | (simp_all; done) | (have hh := State.takeInbox_frame ‹State.takeInbox _ _ = _›; simp_all; done) | (have hh := State.takeInbox_frame ‹State.takeInbox _ _ = _›; simp [hh]; done) | (have hh := State.takeForward_frame ‹State.takeForward _ = _›; simp_all; done) | (have hh := State.takeForward_frame ‹State.takeForward _ = _›; simp [hh]; done) | (have hh := State.takeType_frame ‹State.takeType _ _ = _›; simp_all; done) | (have hh := State.takeType_frame ‹State.takeType _ _ = _›; simp [hh]; done) | (have hh := State.takeReq_frame ‹State.takeReq _ _ = _›; simp_all; done) | (have hh := State.takeReq_frame ‹State.takeReq _ _ = _›; simp [hh]; done) | (have hh := startHub_frame ‹startHub _ _ _ = _›; simp_all; done) | (have hh := startHub_frame ‹startHub _ _ _ = _›; simp [hh]; done) | (have hh := State.takeStream_frame ‹State.takeStream _ _ _ = _›; simp_all; done) | (have hh := State.takeStream_frame ‹State.takeStream _ _ _ = _›; simp [hh]; done) | (have hh := precondTile_frame ‹precondTile _ _ _ _ _ _ = _›; simp_all; done) | (have hh := precondTile_frame ‹precondTile _ _ _ _ _ _ = _›; simp [hh]; done) | (have hh := State.takeSample_frame ‹State.takeSample _ _ _ = _›; simp_all; done) | (have hh := State.takeSample_frame ‹State.takeSample _ _ _ = _›; simp [hh]; done) | (have hh := State.takeCke_frame ‹State.takeCke _ _ = _›; simp_all; done) | (have hh := State.takeCke_frame ‹State.takeCke _ _ = _›; simp [hh]; done) | (have hh := State.takeIndex_frame ‹State.takeIndex _ = _›; simp_all; done) | (have hh := State.takeIndex_frame ‹State.takeIndex _ = _›; simp [hh]; done) | (have hh := State.sign_frame ‹State.sign _ _ = _›; simp_all; done) | (have hh := State.sign_frame ‹State.sign _ _ = _›; simp [hh]; done)
@[simp] theorem serveRequest_pwr (a1 : State) (a2) (a3) (ha3 : ∀ y0 y1, (a3 y0 y1).pwr = y1.pwr) : (resultOf a1 (serveRequest a1 a2 a3)).pwr = a1.pwr := by
  unfold serveRequest
  try dsimp only
  (repeat' split) <;> first | rfl | (simp_all; done) | (have hh := State.takeInbox_frame ‹State.takeInbox _ _ = _›; simp_all; done) | (have hh := State.takeInbox_frame ‹State.takeInbox _ _ = _›; simp [hh]; done) | (have hh := State.takeForward_frame ‹State.takeForward _ = _›; simp_all; done) | (have hh := State.takeForward_frame ‹State.takeForward _ = _›; simp [hh]; done) | (have hh := State.takeType_frame ‹State.takeType _ _ = _›; simp_all; done) | (have hh := State.takeType_frame ‹State.takeType _ _ = _›; simp [hh]; done) | (have hh := State.takeReq_frame ‹State.takeReq _ _ = _›; simp_all; done) | (have hh := State.takeReq_frame ‹State.takeReq _ _ = _›; simp [hh]; done) | (have hh := startHub_frame ‹startHub _ _ _ = _›; simp_all; done) | (have hh := startHub_frame ‹startHub _ _ _ = _›; simp [hh]; done) | (have hh := State.takeStream_frame ‹State.takeStream _ _ _ = _›; simp_all; done) | (have hh := State.takeStream_frame ‹State.takeStream _ _ _ = _›; simp [hh]; done) | (have hh := precondTile_frame ‹precondTile _ _ _ _ _ _ = _›; simp_all; done) | (have hh := precondTile_frame ‹precondTile _ _ _ _ _ _ = _›; simp [hh]; done) | (have hh := State.takeSample_frame ‹State.takeSample _ _ _ = _›; simp_all; done) | (have hh := State.takeSample_frame ‹State.takeSample _ _ _ = _›; simp [hh]; done) | (have hh := State.takeCke_frame ‹State.takeCke _ _ = _›; simp_all; done) | (have hh := State.takeCke_frame ‹State.takeCke _ _ = _›; simp [hh]; done) | (have hh := State.takeIndex_frame ‹State.takeIndex _ = _›; simp_all; done) | (have hh := State.takeIndex_frame ‹State.takeIndex _ = _›; simp [hh]; done) | (have hh := State.sign_frame ‹State.sign _ _ = _›; simp_all; done) | (have hh := State.sign_frame ‹State.sign _ _ = _›; simp [hh]; done)
@[simp] theorem serveRequest_mss (a1 : State) (a2) (a3) (ha3 : ∀ y0 y1, (a3 y0 y1).mss = y1.mss) : (resultOf a1 (serveRequest a1 a2 a3)).mss = a1.mss := by
  unfold serveRequest
  try dsimp only
  (repeat' split) <;> first | rfl | (simp_all; done) | (have hh := State.takeInbox_frame ‹State.takeInbox _ _ = _›; simp_all; done) | (have hh := State.takeInbox_frame ‹State.takeInbox _ _ = _›; simp [hh]; done) | (have hh := State.takeForward_frame ‹State.takeForward _ = _›; simp_all; done) | (have hh := State.takeForward_frame ‹State.takeForward _ = _›; simp [hh]; done) | (have hh := State.takeType_frame ‹State.takeType _ _ = _›; simp_all; done) | (have hh := State.takeType_frame ‹State.takeType _ _ = _›; simp [hh]; done) | (have hh := State.takeReq_frame ‹State.takeReq _ _ = _›; simp_all; done) | (have hh := State.takeReq_frame ‹State.takeReq _ _ = _›; simp [hh]; done) | (have hh := startHub_frame ‹startHub _ _ _ = _›; simp_all; done) | (have hh := startHub_frame ‹startHub _ _ _ = _›; simp [hh]; done) | (have hh := State.takeStream_frame ‹State.takeStream _ _ _ = _›; simp_all; done) | (have hh := State.takeStream_frame ‹State.takeStream _ _ _ = _›; simp [hh]; done) | (have hh := precondTile_frame ‹precondTile _ _ _ _ _ _ = _›; simp_all; done) | (have hh := precondTile_frame ‹precondTile _ _ _ _ _ _ = _›; simp [hh]; done) | (have hh := State.takeSample_frame ‹State.takeSample _ _ _ = _›; simp_all; done) | (have hh := State.takeSample_frame ‹State.takeSample _ _ _ = _›; simp [hh]; done) | (have hh := State.takeCke_frame ‹State.takeCke _ _ = _›; simp_all; done) | (have hh := State.takeCke_frame ‹State.takeCke _ _ = _›; simp [hh]; done) | (have hh := State.takeIndex_frame ‹State.takeIndex _ = _›; simp_all; done) | (have hh := State.takeIndex_frame ‹State.takeIndex _ = _›; simp [hh]; done) | (have hh := State.sign_frame ‹State.sign _ _ = _›; simp_all; done) | (have hh := State.sign_frame ‹State.sign _ _ = _›; simp [hh]; done)
@[simp] theorem serveRequest_fresh (a1 : State) (a2) (a3) (ha3 : ∀ y0 y1, (a3 y0 y1).fresh = y1.fresh) : (resultOf a1 (serveRequest a1 a2 a3)).fresh = a1.fresh := by
  unfold serveRequest
  try dsimp only
  (repeat' split) <;> first | rfl | (simp_all; done) | (have hh := State.takeInbox_frame ‹State.takeInbox _ _ = _›; simp_all; done) | (have hh := State.takeInbox_frame ‹State.takeInbox _ _ = _›; simp [hh]; done) | (have hh := State.takeForward_frame ‹State.takeForward _ = _›; simp_all; done) | (have hh := State.takeForward_frame ‹State.takeForward _ = _›; simp [hh]; done) | (have hh := State.takeType_frame ‹State.takeType _ _ = _›; simp_all; done) | (have hh := State.takeType_frame ‹State.takeType _ _ = _›; simp [hh]; done) | (have hh := State.takeReq_frame ‹State.takeReq _ _ = _›; simp_all; done) | (have hh := State.takeReq_frame ‹State.takeReq _ _ = _›; simp [hh]; done) | (have hh := startHub_frame ‹startHub _ _ _ = _›; simp_all; done) | (have hh := startHub_frame ‹startHub _ _ _ = _›; simp [hh]; done) | (have hh := State.takeStream_frame ‹State.takeStream _ _ _ = _›; simp_all; done) | (have hh := State.takeStream_frame ‹State.takeStream _ _ _ = _›; simp [hh]; done) | (have hh := precondTile_frame ‹precondTile _ _ _ _ _ _ = _›; simp_all; done) | (have hh := precondTile_frame ‹precondTile _ _ _ _ _ _ = _›; simp [hh]; done) | (have hh := State.takeSample_frame ‹State.takeSample _ _ _ = _›; simp_all; done) | (have hh := State.takeSample_frame ‹State.takeSample _ _ _ = _›; simp [hh]; done) | (have hh := State.takeCke_frame ‹State.takeCke _ _ = _›; simp_all; done) | (have hh := State.takeCke_frame ‹State.takeCke _ _ = _›; simp [hh]; done) | (have hh := State.takeIndex_frame ‹State.takeIndex _ = _›; simp_all; done) | (have hh := State.takeIndex_frame ‹State.takeIndex _ = _›; simp [hh]; done) | (have hh := State.sign_frame ‹State.sign _ _ = _›; simp_all; done) | (have hh := State.sign_frame ‹State.sign _ _ = _›; simp [hh]; done)
@[simp] theorem serveRequest_routineIds (a1 : State) (a2) (a3) (ha3 : ∀ y0 y1, (a3 y0 y1).routineIds = y1.routineIds) : (resultOf a1 (serveRequest a1 a2 a3)).routineIds = a1.routineIds := by
  unfold serveRequest
  try dsimp only
  (repeat' split) <;> first | rfl | (simp_all; done) | (have hh := State.takeInbox_frame ‹State.takeInbox _ _ = _›; simp_all; done) | (have hh := State.takeInbox_frame ‹State.takeInbox _ _ = _›; simp [hh]; done) | (have hh := State.takeForward_frame ‹State.takeForward _ = _›; simp_all; done) | (have hh := State.takeForward_frame ‹State.takeForward _ = _›; simp [hh]; done) | (have hh := State.takeType_frame ‹State.takeType _ _ = _›; simp_all; done) | (have hh := State.takeType_frame ‹State.takeType _ _ = _›; simp [hh]; done) | (have hh := State.takeReq_frame ‹State.takeReq _ _ = _›; simp_all; done) | (have hh := State.takeReq_frame ‹State.takeReq _ _ = _›; simp [hh]; done) | (have hh := startHub_frame ‹startHub _ _ _ = _›; simp_all; done) | (have hh := startHub_frame ‹startHub _ _ _ = _›; simp [hh]; done) | (have hh := State.takeStream_frame ‹State.takeStream _ _ _ = _›; simp_all; done) | (have hh := State.takeStream_frame ‹State.takeStream _ _ _ = _›; simp [hh]; done) | (have hh := precondTile_frame ‹precondTile _ _ _ _ _ _ = _›; simp_all; done) | (have hh := precondTile_frame ‹precondTile _ _ _ _ _ _ = _›; simp [hh]; done) | (have hh := State.takeSample_frame ‹State.takeSample _ _ _ = _›; simp_all; done) | (have hh := State.takeSample_frame ‹State.takeSample _ _ _ = _›; simp [hh]; done) | (have hh := State.takeCke_frame ‹State.takeCke _ _ = _›; simp_all; done) | (have hh := State.takeCke_frame ‹State.takeCke _ _ = _›; simp [hh]; done) | (have hh := State.takeIndex_frame ‹State.takeIndex _ = _›; simp_all; done) | (have hh := State.takeIndex_frame ‹State.takeIndex _ = _›; simp [hh]; done) | (have hh := State.sign_frame ‹State.sign _ _ = _›; simp_all; done) | (have hh := State.sign_frame ‹State.sign _ _ = _›; simp [hh]; done)
@[simp] theorem serveRequest_pending (a1 : State) (a2) (a3) (ha3 : ∀ y0 y1, (a3 y0 y1).pending = y1.pending) : (resultOf a1 (serveRequest a1 a2 a3)).pending = a1.pending := by
  unfold serveRequest
  try dsimp only
  (repeat' split) <;> first | rfl | (simp_all; done) | (have hh := State.takeInbox_frame ‹State.takeInbox _ _ = _›; simp_all; done) | (have hh := State.takeInbox_frame ‹State.takeInbox _ _ = _›; simp [hh]; done) | (have hh := State.takeForward_frame ‹State.takeForward _ = _›; simp_all; done) | (have hh := State.takeForward_frame ‹State.takeForward _ = _›; simp [hh]; done) | (have hh := State.takeType_frame ‹State.takeType _ _ = _›; simp_all; done) | (have hh := State.takeType_frame ‹State.takeType _ _ = _›; simp [hh]; done) | (have hh := State.takeReq_frame ‹State.takeReq _ _ = _›; simp_all; done) | (have hh := State.takeReq_frame ‹State.takeReq _ _ = _›; simp [hh]; done) | (have hh := startHub_frame ‹startHub _ _ _ = _›; simp_all; done) | (have hh := startHub_frame ‹startHub _ _ _ = _›; simp [hh]; done) | (have hh := State.takeStream_frame ‹State.takeStream _ _ _ = _›; simp_all; done) | (have hh := State.takeStream_frame ‹State.takeStream _ _ _ = _›; simp [hh]; done) | (have hh := precondTile_frame ‹precondTile _ _ _ _ _ _ = _›; simp_all; done) | (have hh := precondTile_frame ‹precondTile _ _ _ _ _ _ = _›; simp [hh]; done) | (have hh := State.takeSample_frame ‹State.takeSample _ _ _ = _›; simp_all; done) | (have hh := State.takeSample_frame ‹State.takeSample _ _ _ = _›; simp [hh]; done) | (have hh := State.takeCke_frame ‹State.takeCke _ _ = _›; simp_all; done) | (have hh := State.takeCke_frame ‹State.takeCke _ _ = _›; simp [hh]; done) | (have hh := State.takeIndex_frame ‹State.takeIndex _ = _›; simp_all; done) | (have hh := State.takeIndex_frame ‹State.takeIndex _ = _›; simp [hh]; done) | (have hh := State.sign_frame ‹State.sign _ _ = _›; simp_all; done) | (have hh := State.sign_frame ‹State.sign _ _ = _›; simp [hh]; done)
theorem serveRequest_completes (a1 : State) (a2) (a3) : (serveRequest a1 a2 a3) = .next (resultOf a1 (serveRequest a1 a2 a3)) := by
  unfold serveRequest
  try dsimp only
  repeat' split
  all_goals rfl
theorem execWr_frame (a1 : State) : (resultOf a1 (execWr a1)).ident = a1.ident ∧ (resultOf a1 (execWr a1)).nv = a1.nv ∧ (resultOf a1 (execWr a1)).top = a1.top ∧ (resultOf a1 (execWr a1)).cle = a1.cle ∧ (resultOf a1 (execWr a1)).pue0 = a1.pue0 ∧ (resultOf a1 (execWr a1)).pue1 = a1.pue1 ∧ (resultOf a1 (execWr a1)).mss = a1.mss ∧ (resultOf a1 (execWr a1)).routineIds = a1.routineIds ∧ (resultOf a1 (execWr a1)).pending = a1.pending := by
  simp [execWr]
theorem execWr_completes (a1 : State) : (execWr a1) = .next (resultOf a1 (execWr a1)) := by
  unfold execWr
  repeat (first | rfl | split | exact serveRequest_completes ..)
theorem execWrPartial_frame (a1 : State) : (resultOf a1 (execWrPartial a1)).ident = a1.ident ∧ (resultOf a1 (execWrPartial a1)).nv = a1.nv ∧ (resultOf a1 (execWrPartial a1)).top = a1.top ∧ (resultOf a1 (execWrPartial a1)).cle = a1.cle ∧ (resultOf a1 (execWrPartial a1)).pue0 = a1.pue0 ∧ (resultOf a1 (execWrPartial a1)).pue1 = a1.pue1 ∧ (resultOf a1 (execWrPartial a1)).mss = a1.mss ∧ (resultOf a1 (execWrPartial a1)).routineIds = a1.routineIds ∧ (resultOf a1 (execWrPartial a1)).pending = a1.pending := by
  simp [execWrPartial]
theorem execWrPartial_completes (a1 : State) : (execWrPartial a1) = .next (resultOf a1 (execWrPartial a1)) := by
  unfold execWrPartial
  repeat (first | rfl | split | exact serveRequest_completes ..)
theorem execRdReq_frame (a1 : State) : (resultOf a1 (execRdReq a1)).ident = a1.ident ∧ (resultOf a1 (execRdReq a1)).nv = a1.nv ∧ (resultOf a1 (execRdReq a1)).top = a1.top ∧ (resultOf a1 (execRdReq a1)).cores = a1.cores ∧ (resultOf a1 (execRdReq a1)).cle = a1.cle ∧ (resultOf a1 (execRdReq a1)).pue0 = a1.pue0 ∧ (resultOf a1 (execRdReq a1)).pue1 = a1.pue1 ∧ (resultOf a1 (execRdReq a1)).mss = a1.mss ∧ (resultOf a1 (execRdReq a1)).routineIds = a1.routineIds ∧ (resultOf a1 (execRdReq a1)).pending = a1.pending := by
  simp [execRdReq]
theorem execRdReq_completes (a1 : State) : (execRdReq a1) = .next (resultOf a1 (execRdReq a1)) := by
  unfold execRdReq
  repeat (first | rfl | split | exact serveRequest_completes ..)
theorem execSignalPacket_frame (a1 : State) : (resultOf a1 (execSignalPacket a1)).ident = a1.ident ∧ (resultOf a1 (execSignalPacket a1)).nv = a1.nv ∧ (resultOf a1 (execSignalPacket a1)).top = a1.top ∧ (resultOf a1 (execSignalPacket a1)).mem = a1.mem ∧ (resultOf a1 (execSignalPacket a1)).cle = a1.cle ∧ (resultOf a1 (execSignalPacket a1)).pue0 = a1.pue0 ∧ (resultOf a1 (execSignalPacket a1)).pue1 = a1.pue1 ∧ (resultOf a1 (execSignalPacket a1)).cke = a1.cke ∧ (resultOf a1 (execSignalPacket a1)).pwr = a1.pwr ∧ (resultOf a1 (execSignalPacket a1)).mss = a1.mss ∧ (resultOf a1 (execSignalPacket a1)).fresh = a1.fresh ∧ (resultOf a1 (execSignalPacket a1)).routineIds = a1.routineIds ∧ (resultOf a1 (execSignalPacket a1)).pending = a1.pending := by
  simp [execSignalPacket]
theorem execSignalPacket_completes (a1 : State) : (execSignalPacket a1) = .next (resultOf a1 (execSignalPacket a1)) := by
  unfold execSignalPacket
  repeat (first | rfl | split | exact serveRequest_completes ..)
theorem execEcho_frame (a1 : State) : (resultOf a1 (execEcho a1)).ident = a1.ident ∧ (resultOf a1 (execEcho a1)).nv = a1.nv ∧ (resultOf a1 (execEcho a1)).top = a1.top ∧ (resultOf a1 (execEcho a1)).cores = a1.cores ∧ (resultOf a1 (execEcho a1)).mem = a1.mem ∧ (resultOf a1 (execEcho a1)).cle = a1.cle ∧ (resultOf a1 (execEcho a1)).pue0 = a1.pue0 ∧ (resultOf a1 (execEcho a1)).pue1 = a1.pue1 ∧ (resultOf a1 (execEcho a1)).cke = a1.cke ∧ (resultOf a1 (execEcho a1)).pwr = a1.pwr ∧ (resultOf a1 (execEcho a1)).mss = a1.mss ∧ (resultOf a1 (execEcho a1)).fresh = a1.fresh ∧ (resultOf a1 (execEcho a1)).routineIds = a1.routineIds ∧ (resultOf a1 (execEcho a1)).pending = a1.pending := by
  unfold execEcho
  try dsimp only
  (repeat' split) <;> first | rfl | (simp_all; done) | (have hh := State.takeInbox_frame ‹State.takeInbox _ _ = _›; simp_all; done) | (have hh := State.takeInbox_frame ‹State.takeInbox _ _ = _›; simp [hh]; done) | (have hh := State.takeForward_frame ‹State.takeForward _ = _›; simp_all; done) | (have hh := State.takeForward_frame ‹State.takeForward _ = _›; simp [hh]; done) | (have hh := State.takeType_frame ‹State.takeType _ _ = _›; simp_all; done) | (have hh := State.takeType_frame ‹State.takeType _ _ = _›; simp [hh]; done) | (have hh := State.takeReq_frame ‹State.takeReq _ _ = _›; simp_all; done) | (have hh := State.takeReq_frame ‹State.takeReq _ _ = _›; simp [hh]; done) | (have hh := startHub_frame ‹startHub _ _ _ = _›; simp_all; done) | (have hh := startHub_frame ‹startHub _ _ _ = _›; simp [hh]; done) | (have hh := State.takeStream_frame ‹State.takeStream _ _ _ = _›; simp_all; done) | (have hh := State.takeStream_frame ‹State.takeStream _ _ _ = _›; simp [hh]; done) | (have hh := precondTile_frame ‹precondTile _ _ _ _ _ _ = _›; simp_all; done) | (have hh := precondTile_frame ‹precondTile _ _ _ _ _ _ = _›; simp [hh]; done) | (have hh := State.takeSample_frame ‹State.takeSample _ _ _ = _›; simp_all; done) | (have hh := State.takeSample_frame ‹State.takeSample _ _ _ = _›; simp [hh]; done) | (have hh := State.takeCke_frame ‹State.takeCke _ _ = _›; simp_all; done) | (have hh := State.takeCke_frame ‹State.takeCke _ _ = _›; simp [hh]; done) | (have hh := State.takeIndex_frame ‹State.takeIndex _ = _›; simp_all; done) | (have hh := State.takeIndex_frame ‹State.takeIndex _ = _›; simp [hh]; done) | (have hh := State.sign_frame ‹State.sign _ _ = _›; simp_all; done) | (have hh := State.sign_frame ‹State.sign _ _ = _›; simp [hh]; done)
theorem execEcho_completes (a1 : State) : (execEcho a1) = .next (resultOf a1 (execEcho a1)) := by
  unfold execEcho
  try dsimp only
  repeat' split
  all_goals rfl
theorem execEchoReply_frame (a1 : State) : (resultOf a1 (execEchoReply a1)).ident = a1.ident ∧ (resultOf a1 (execEchoReply a1)).nv = a1.nv ∧ (resultOf a1 (execEchoReply a1)).top = a1.top ∧ (resultOf a1 (execEchoReply a1)).cores = a1.cores ∧ (resultOf a1 (execEchoReply a1)).hub = a1.hub ∧ (resultOf a1 (execEchoReply a1)).err = a1.err ∧ (resultOf a1 (execEchoReply a1)).mem = a1.mem ∧ (resultOf a1 (execEchoReply a1)).cle = a1.cle ∧ (resultOf a1 (execEchoReply a1)).pue0 = a1.pue0 ∧ (resultOf a1 (execEchoReply a1)).pue1 = a1.pue1 ∧ (resultOf a1 (execEchoReply a1)).cke = a1.cke ∧ (resultOf a1 (execEchoReply a1)).pwr = a1.pwr ∧ (resultOf a1 (execEchoReply a1)).pmu = a1.pmu ∧ (resultOf a1 (execEchoReply a1)).mss = a1.mss ∧ (resultOf a1 (execEchoReply a1)).fresh = a1.fresh ∧ (resultOf a1 (execEchoReply a1)).routineIds = a1.routineIds ∧ (resultOf a1 (execEchoReply a1)).pending = a1.pending := by
  unfold execEchoReply
  try dsimp only
  (repeat' split) <;> first | rfl | (simp_all; done) | (have hh := State.takeInbox_frame ‹State.takeInbox _ _ = _›; simp_all; done) | (have hh := State.takeInbox_frame ‹State.takeInbox _ _ = _›; simp [hh]; done) | (have hh := State.takeForward_frame ‹State.takeForward _ = _›; simp_all; done) | (have hh := State.takeForward_frame ‹State.takeForward _ = _›; simp [hh]; done) | (have hh := State.takeType_frame ‹State.takeType _ _ = _›; simp_all; done) | (have hh := State.takeType_frame ‹State.takeType _ _ = _›; simp [hh]; done) | (have hh := State.takeReq_frame ‹State.takeReq _ _ = _›; simp_all; done) | (have hh := State.takeReq_frame ‹State.takeReq _ _ = _›; simp [hh]; done) | (have hh := startHub_frame ‹startHub _ _ _ = _›; simp_all; done) | (have hh := startHub_frame ‹startHub _ _ _ = _›; simp [hh]; done) | (have hh := State.takeStream_frame ‹State.takeStream _ _ _ = _›; simp_all; done) | (have hh := State.takeStream_frame ‹State.takeStream _ _ _ = _›; simp [hh]; done) | (have hh := precondTile_frame ‹precondTile _ _ _ _ _ _ = _›; simp_all; done) | (have hh := precondTile_frame ‹precondTile _ _ _ _ _ _ = _›; simp [hh]; done) | (have hh := State.takeSample_frame ‹State.takeSample _ _ _ = _›; simp_all; done) | (have hh := State.takeSample_frame ‹State.takeSample _ _ _ = _›; simp [hh]; done) | (have hh := State.takeCke_frame ‹State.takeCke _ _ = _›; simp_all; done) | (have hh := State.takeCke_frame ‹State.takeCke _ _ = _›; simp [hh]; done) | (have hh := State.takeIndex_frame ‹State.takeIndex _ = _›; simp_all; done) | (have hh := State.takeIndex_frame ‹State.takeIndex _ = _›; simp [hh]; done) | (have hh := State.sign_frame ‹State.sign _ _ = _›; simp_all; done) | (have hh := State.sign_frame ‹State.sign _ _ = _›; simp [hh]; done)
theorem execEchoReply_completes (a1 : State) : (execEchoReply a1) = .next (resultOf a1 (execEchoReply a1)) := by
  unfold execEchoReply
  try dsimp only
  repeat' split
  all_goals rfl
theorem execRdResp_frame (a1 : State) : (resultOf a1 (execRdResp a1)).ident = a1.ident ∧ (resultOf a1 (execRdResp a1)).nv = a1.nv ∧ (resultOf a1 (execRdResp a1)).top = a1.top ∧ (resultOf a1 (execRdResp a1)).pue0 = a1.pue0 ∧ (resultOf a1 (execRdResp a1)).pue1 = a1.pue1 ∧ (resultOf a1 (execRdResp a1)).mss = a1.mss ∧ (resultOf a1 (execRdResp a1)).routineIds = a1.routineIds ∧ (resultOf a1 (execRdResp a1)).pending = a1.pending := by
  unfold execRdResp
  split
  · simp
  · have h1 := State.takeType_frame ‹State.takeType _ _ = some _›
    split
    · simp_all
    · have h2 := State.takeReq_frame ‹State.takeReq _ _ = some _›
      split <;> simp [h1, h2]
theorem execRdResp_completes (a1 : State) : (execRdResp a1) = .next (resultOf a1 (execRdResp a1)) := by
  unfold execRdResp
  try dsimp only
  repeat' split
  all_goals rfl
theorem execWrAck_frame (a1 : State) : (resultOf a1 (execWrAck a1)).ident = a1.ident ∧ (resultOf a1 (execWrAck a1)).nv = a1.nv ∧ (resultOf a1 (execWrAck a1)).top = a1.top ∧ (resultOf a1 (execWrAck a1)).cle = a1.cle ∧ (resultOf a1 (execWrAck a1)).pue0 = a1.pue0 ∧ (resultOf a1 (execWrAck a1)).pue1 = a1.pue1 ∧ (resultOf a1 (execWrAck a1)).mss = a1.mss ∧ (resultOf a1 (execWrAck a1)).routineIds = a1.routineIds ∧ (resultOf a1 (execWrAck a1)).pending = a1.pending := by
  unfold execWrAck
  try dsimp only
  (repeat' split) <;> first | rfl | (simp; done) | (have hh0 := State.takeType_frame ‹State.takeType _ _ = _›; have hh1 := State.takeReq_frame ‹State.takeReq _ _ = _›; simp [hh0, hh1]; done) | (have hh0 := State.takeType_frame ‹State.takeType _ _ = _›; have hh1 := State.takeReq_frame ‹State.takeReq _ _ = _›; simp_all; done) | (have hh0 := State.takeType_frame ‹State.takeType _ _ = _›; simp [hh0]; done) | (have hh1 := State.takeReq_frame ‹State.takeReq _ _ = _›; simp [hh1]; done) | (have hh0 := State.takeType_frame ‹State.takeType _ _ = _›; simp_all; done) | (have hh1 := State.takeReq_frame ‹State.takeReq _ _ = _›; simp_all; done)
theorem execWrAck_completes (a1 : State) : (execWrAck a1) = .next (resultOf a1 (execWrAck a1)) := by
  unfold execWrAck
  try dsimp only
  repeat' split
  all_goals rfl
theorem execSignalAck_frame (a1 : State) : (resultOf a1 (execSignalAck a1)).ident = a1.ident ∧ (resultOf a1 (execSignalAck a1)).nv = a1.nv ∧ (resultOf a1 (execSignalAck a1)).top = a1.top ∧ (resultOf a1 (execSignalAck a1)).hub = a1.hub ∧ (resultOf a1 (execSignalAck a1)).err = a1.err ∧ (resultOf a1 (execSignalAck a1)).mem = a1.mem ∧ (resultOf a1 (execSignalAck a1)).cle = a1.cle ∧ (resultOf a1 (execSignalAck a1)).pue0 = a1.pue0 ∧ (resultOf a1 (execSignalAck a1)).pue1 = a1.pue1 ∧ (resultOf a1 (execSignalAck a1)).cke = a1.cke ∧ (resultOf a1 (execSignalAck a1)).pwr = a1.pwr ∧ (resultOf a1 (execSignalAck a1)).pmu = a1.pmu ∧ (resultOf a1 (execSignalAck a1)).mss = a1.mss ∧ (resultOf a1 (execSignalAck a1)).fresh = a1.fresh ∧ (resultOf a1 (execSignalAck a1)).routineIds = a1.routineIds ∧ (resultOf a1 (execSignalAck a1)).pending = a1.pending := by
  unfold execSignalAck
  try dsimp only
  (repeat' split) <;> first | rfl | (simp; done) | (have hh0 := State.takeType_frame ‹State.takeType _ _ = _›; have hh1 := State.takeReq_frame ‹State.takeReq _ _ = _›; simp [hh0, hh1]; done) | (have hh0 := State.takeType_frame ‹State.takeType _ _ = _›; have hh1 := State.takeReq_frame ‹State.takeReq _ _ = _›; simp_all; done) | (have hh0 := State.takeType_frame ‹State.takeType _ _ = _›; simp [hh0]; done) | (have hh1 := State.takeReq_frame ‹State.takeReq _ _ = _›; simp [hh1]; done) | (have hh0 := State.takeType_frame ‹State.takeType _ _ = _›; simp_all; done) | (have hh1 := State.takeReq_frame ‹State.takeReq _ _ = _›; simp_all; done)
theorem execSignalAck_completes (a1 : State) : (execSignalAck a1) = .next (resultOf a1 (execSignalAck a1)) := by
  unfold execSignalAck
  try dsimp only
  repeat' split
  all_goals rfl
theorem execNak_frame (a1 : State) : (resultOf a1 (execNak a1)).ident = a1.ident ∧ (resultOf a1 (execNak a1)).nv = a1.nv ∧ (resultOf a1 (execNak a1)).top = a1.top ∧ (resultOf a1 (execNak a1)).cle = a1.cle ∧ (resultOf a1 (execNak a1)).pue0 = a1.pue0 ∧ (resultOf a1 (execNak a1)).pue1 = a1.pue1 ∧ (resultOf a1 (execNak a1)).mss = a1.mss ∧ (resultOf a1 (execNak a1)).routineIds = a1.routineIds ∧ (resultOf a1 (execNak a1)).pending = a1.pending := by
  unfold execNak
  split
  · simp
  · have h1 := State.takeType_frame ‹State.takeType _ _ = some _›
    split
    · simp_all
    · have h2 := State.takeReq_frame ‹State.takeReq _ _ = some _›
      (repeat' split) <;> simp [h1, h2]
theorem execNak_completes (a1 : State) : (execNak a1) = .next (resultOf a1 (execNak a1)) := by
  unfold execNak
  try dsimp only
  repeat' split
  all_goals rfl
theorem execE2eTimeout_frame (a1) (a2 : State) : (resultOf a2 (execE2eTimeout a1 a2)).ident = a2.ident ∧ (resultOf a2 (execE2eTimeout a1 a2)).nv = a2.nv ∧ (resultOf a2 (execE2eTimeout a1 a2)).top = a2.top ∧ (resultOf a2 (execE2eTimeout a1 a2)).cle = a2.cle ∧ (resultOf a2 (execE2eTimeout a1 a2)).pue0 = a2.pue0 ∧ (resultOf a2 (execE2eTimeout a1 a2)).pue1 = a2.pue1 ∧ (resultOf a2 (execE2eTimeout a1 a2)).mss = a2.mss ∧ (resultOf a2 (execE2eTimeout a1 a2)).routineIds = a2.routineIds ∧ (resultOf a2 (execE2eTimeout a1 a2)).pending = a2.pending := by
  simp only [execE2eTimeout]
  repeat' split
  all_goals simp
theorem execE2eTimeout_completes (a1) (a2 : State) : (execE2eTimeout a1 a2) = .next (resultOf a2 (execE2eTimeout a1 a2)) := by
  unfold execE2eTimeout
  try dsimp only
  repeat' split
  all_goals rfl
end Sys2Proof.Machine
end

