-- ==== Sys2Proof/Laws/State.lean ====
section
/-! SUPPORT. What the primitive updates of State write, field by field (what they leave is in Laws/Frame.lean), and that
every operation over device memory keeps its canonical form. -/

namespace Sys2Proof.Machine

/-! What each primitive update writes -/

@[simp] theorem State.emit_sent (s : State) (e : Emit) : (s.emit e).sent = s.sent ++ [e] := rfl

@[simp] theorem State.free_fst (s : State) : s.free.1 = Config.freeValue s.fresh := rfl
@[simp] theorem State.free_fresh (s : State) : s.free.2.fresh = s.fresh + 1 := rfl

@[simp] theorem State.setCore_cores (s : State) (c : CoreId) (k : Core) : (s.setCore c k).cores = s.cores.set c.val k := rfl
@[simp] theorem State.modCore_cores (s : State) (c : CoreId) (f : Core → Core) :
    (s.modCore c f).cores = s.cores.set c.val (f (s.core c)) := rfl

@[simp] theorem State.setHealth_health (s : State) (b : Nat) : (s.setHealth b).cke.health = s.cke.health ||| 1 <<< b := rfl
@[simp] theorem State.setHealth_st (s : State) (b : Nat) : (s.setHealth b).cke.st = s.cke.st := rfl
@[simp] theorem State.setHealth_ctl (s : State) (b : Nat) : (s.setHealth b).cke.ctl = s.cke.ctl := rfl
@[simp] theorem State.setHealth_c (s : State) (b : Nat) : (s.setHealth b).cke.c = s.cke.c := rfl
@[simp] theorem State.setHealth_attempt (s : State) (b : Nat) : (s.setHealth b).cke.attempt = s.cke.attempt := rfl
@[simp] theorem State.setHealth_att (s : State) (b : Nat) : (s.setHealth b).cke.att = s.cke.att := rfl

@[simp] theorem State.setPoison_poison (s : State) (a : Nat) (p : Bool) :
    (s.setPoison a p).mem.poison = sset false s.mem.poison (a / 64) p := rfl
@[simp] theorem State.setPoison_bytes (s : State) (a : Nat) (p : Bool) : (s.setPoison a p).mem.bytes = s.mem.bytes := rfl
@[simp] theorem State.setPoison_bad (s : State) (a : Nat) (p : Bool) : (s.setPoison a p).mem.bad = s.mem.bad := rfl
@[simp] theorem State.setPoison_die (s : State) (a : Nat) (p : Bool) (d : Nat) : (s.setPoison a p).mem.die d = s.mem.die d := rfl
@[simp] theorem State.setPoison_t2 (s : State) (a : Nat) (p : Bool) : (s.setPoison a p).mem.t2 = s.mem.t2 := rfl

@[simp] theorem State.setDie_bytes (s : State) (d : Nat) (x : DieMem) : (s.setDie d x).mem.bytes = s.mem.bytes := by
  unfold State.setDie; split <;> rfl
@[simp] theorem State.setDie_poison (s : State) (d : Nat) (x : DieMem) : (s.setDie d x).mem.poison = s.mem.poison := by
  unfold State.setDie; split <;> rfl
@[simp] theorem State.setDie_bad (s : State) (d : Nat) (x : DieMem) : (s.setDie d x).mem.bad = s.mem.bad := by
  unfold State.setDie; split <;> rfl
@[simp] theorem State.setDie_t2 (s : State) (d : Nat) (x : DieMem) : (s.setDie d x).mem.t2 = s.mem.t2 := by
  unfold State.setDie; split <;> rfl
@[simp] theorem State.setDie_zero (s : State) (x : DieMem) : (s.setDie 0 x).mem = { s.mem with die0 := x } := rfl
@[simp] theorem State.setDie_one (s : State) (x : DieMem) : (s.setDie 1 x).mem = { s.mem with die1 := x } := rfl

@[simp] theorem State.setPue_zero (s : State) (x : Pue) : s.setPue 0 x = { s with pue0 := x } := rfl
@[simp] theorem State.setPue_one (s : State) (x : Pue) : s.setPue 1 x = { s with pue1 := x } := rfl

@[simp] theorem State.setPort_ports (s : State) (p : Nat) (x : Port) :
    (s.setPort p x).fab.ports = sset Port.reset s.fab.ports p x := rfl
@[simp] theorem State.setPort_inbox (s : State) (p : Nat) (x : Port) : (s.setPort p x).fab.inbox = s.fab.inbox := rfl
@[simp] theorem State.setPort_reqs (s : State) (p : Nat) (x : Port) : (s.setPort p x).fab.reqs = s.fab.reqs := rfl
@[simp] theorem State.setPort_lasers (s : State) (p : Nat) (x : Port) : (s.setPort p x).fab.lasers = s.fab.lasers := rfl
@[simp] theorem State.setPort_routes (s : State) (p : Nat) (x : Port) : (s.setPort p x).fab.routes = s.fab.routes := rfl

/-- A port after a port is written. -/
@[simp] theorem State.port_setPort (s : State) (p : Nat) (x : Port) (q : Nat) :
    (s.setPort p x).port q = if q = p then x else s.port q := by
  simp [State.port, State.setPort]

/-- A byte is read as memory holds it. -/
theorem State.byteAt_of_bytes {s t : State} (h : t.mem.bytes = s.mem.bytes) (a : Nat) : t.byteAt a = s.byteAt a := by
  simp [State.byteAt, h]

/-! Device memory keeps its canonical form -/

theorem Memory.reset_wf : Memory.reset.wf = true := rfl

theorem Memory.wf_iff {m : Memory} :
    m.wf = true ↔ swf 0 0 m.bytes = true ∧ swf false 0 m.poison = true ∧ swf LineErr.none 0 m.bad = true := by
  simp [Memory.wf, and_assoc]

theorem Memory.wf_of_eq {m n : Memory} (h : m.wf = true) (hb : n.bytes = m.bytes) (hp : n.poison = m.poison)
    (hd : n.bad = m.bad) : n.wf = true := by
  simpa [Memory.wf, hb, hp, hd] using h

/-- An operation that keeps the form keeps it when repeated. -/
theorem State.wf_foldl {α : Type} (l : List α) (f : State → α → State) (hf : ∀ s x, s.mem.wf = true → (f s x).mem.wf = true)
    (s : State) (h : s.mem.wf = true) : (l.foldl f s).mem.wf = true := by
  induction l generalizing s with
  | nil => exact h
  | cons x l ih => exact ih _ (hf s x h)

theorem State.setDie_wf {s : State} (h : s.mem.wf = true) (d : Nat) (x : DieMem) : (s.setDie d x).mem.wf = true :=
  Memory.wf_of_eq h (by simp) (by simp) (by simp)

theorem State.setPoison_wf {s : State} (h : s.mem.wf = true) (a : Nat) (p : Bool) : (s.setPoison a p).mem.wf = true := by
  rw [Memory.wf_iff] at h ⊢
  exact ⟨h.1, sset_swf h.2.1 _ _ (Nat.zero_le _), h.2.2⟩

/-- What is wrong with a stored line is replaced. -/
theorem State.setLineErr_wf {s : State} (h : s.mem.wf = true) (a : Nat) (e : LineErr) : (s.setLineErr a e).mem.wf = true := by
  rw [Memory.wf_iff] at h ⊢
  exact ⟨h.1, h.2.1, sset_swf h.2.2 _ _ (Nat.zero_le _)⟩

theorem State.countLine_wf {s : State} (h : s.mem.wf = true) (a : Nat) (w : Bool) : (s.countLine a w).mem.wf = true := by
  simpa using h

theorem State.noteHole_wf {s : State} (h : s.mem.wf = true) (a agent : Nat) : (s.noteHole a agent).mem.wf = true := by
  simpa [State.noteHole] using h

theorem State.notePoison_wf {s : State} (h : s.mem.wf = true) (a agent : Nat) : (s.notePoison a agent).mem.wf = true := by
  unfold State.notePoison
  refine Memory.wf_of_eq h ?_ ?_ ?_ <;> split <;> split <;> simp

theorem State.noteCe_wf {s : State} (h : s.mem.wf = true) (a agent : Nat) : (s.noteCe a agent).mem.wf = true := by
  unfold State.noteCe
  refine Memory.wf_of_eq h ?_ ?_ ?_ <;> split <;> simp

theorem State.noteUe_wf {s : State} (h : s.mem.wf = true) (code a agent : Nat) : (s.noteUe code a agent).mem.wf = true := by
  unfold State.noteUe
  refine Memory.wf_of_eq h ?_ ?_ ?_ <;> split <;> simp

theorem State.checkLine_wf {s : State} (h : s.mem.wf = true) (code a agent : Nat) : (s.checkLine code a agent).mem.wf = true := by
  unfold State.checkLine
  split
  · exact h
  · exact State.setLineErr_wf (State.noteCe_wf h a agent) _ _
  · exact State.setPoison_wf (State.setLineErr_wf (State.noteUe_wf h code a agent) _ _) a true
  · exact State.setLineErr_wf h a _
  · exact State.setLineErr_wf (State.noteCe_wf h a agent) a _

theorem State.touchLineAs_wf {s : State} (h : s.mem.wf = true) (code a agent : Nat) :
    (s.touchLineAs code a agent).2.mem.wf = true := by
  have hc := State.countLine_wf h a false
  have hk := State.checkLine_wf hc code a agent
  unfold State.touchLineAs
  dsimp only
  split
  · exact State.noteHole_wf hc a agent
  · split
    · exact State.notePoison_wf hc a agent
    · split
      · exact State.notePoison_wf hk a agent
      · exact hk

theorem State.touchLine_wf {s : State} (h : s.mem.wf = true) (a agent : Nat) : (s.touchLine a agent).2.mem.wf = true :=
  State.touchLineAs_wf h _ a agent

theorem State.touchLineQuiet_wf {s : State} (h : s.mem.wf = true) (a agent : Nat) : (s.touchLineQuiet a agent).mem.wf = true := by
  unfold State.touchLineQuiet
  split
  · exact h
  · exact State.checkLine_wf h _ a agent

theorem State.touchRange_wf {s : State} (h : s.mem.wf = true) (a n agent : Nat) : (s.touchRange a n agent).2.mem.wf = true := by
  unfold State.touchRange
  generalize List.range (if n = 0 then 0 else (a % 64 + n + 63) / 64) = l
  suffices ∀ (p : Bool × State), p.2.mem.wf = true → (l.foldl (fun p i =>
      let (b, t) := p.2.touchLine (a / 64 * 64 + 64 * i) agent
      (p.1 || b, t)) p).2.mem.wf = true from this _ h
  induction l with
  | nil => exact fun p hp => hp
  | cons i l ih => exact fun p hp => ih _ (State.touchLine_wf hp _ agent)

theorem State.engineReads_wf {s : State} (h : s.mem.wf = true) (agent : Nat) (rs : List (Nat × Nat)) :
    (s.engineReads agent rs).mem.wf = true :=
  State.wf_foldl _ _ (fun _ _ ht => State.touchLine_wf ht _ agent) s h

theorem State.hitLine_wf {s : State} (h : s.mem.wf = true) (x : LineHit) : (s.hitLine x).mem.wf = true := by
  unfold State.hitLine
  split
  · exact State.setLineErr_wf h _ _
  · dsimp only
    split
    · exact Memory.wf_of_eq (State.setPoison_wf h (64 * x.line) true) rfl rfl rfl
    · exact Memory.wf_of_eq h rfl rfl rfl
  · exact h

theorem State.hitLines_wf {s : State} (h : s.mem.wf = true) (xs : List LineHit) : (s.hitLines xs).mem.wf = true :=
  State.wf_foldl _ _ (fun _ x ht => State.hitLine_wf ht x) s h

theorem State.storeBytes_wf {s : State} (h : s.mem.wf = true) (a : Nat) (bs : List Byte) : (s.storeBytes a bs).mem.wf = true := by
  have hf : ∀ (l : List (Byte × Nat)) (m : SMap Byte), swf 0 0 m = true →
      swf 0 0 (l.foldl (fun m p => sset 0 m (a + p.2) p.1) m) = true := by
    intro l
    induction l with
    | nil => exact fun _ hm => hm
    | cons x l ih => exact fun _ hm => ih _ (sset_swf hm _ _ (Nat.zero_le _))
  rw [Memory.wf_iff] at h ⊢
  exact ⟨hf _ _ h.1, h.2⟩

/-- A whole line is written. -/
theorem State.storeLine_wf {s : State} (h : s.mem.wf = true) (a : Nat) (bs : List Byte) :
    (((s.setPoison a false).setLineErr a LineErr.none).storeBytes a bs).mem.wf = true :=
  State.storeBytes_wf (State.setLineErr_wf (State.setPoison_wf h a false) a _) a bs

theorem State.writePart_wf {s : State} (h : s.mem.wf = true) (agent : Nat) (p : Nat × List Byte) :
    (State.writePart agent s p).mem.wf = true := by
  have hc := State.countLine_wf h p.1 true
  unfold State.writePart
  dsimp only
  split
  · exact State.noteHole_wf hc _ agent
  · split
    · exact State.storeLine_wf hc _ _
    · exact State.storeBytes_wf (State.touchLineQuiet_wf hc _ agent) _ _

theorem State.agentWrite_wf {s : State} (h : s.mem.wf = true) (a agent : Nat) (bs : List Byte) :
    (s.agentWrite a agent bs).mem.wf = true :=
  State.wf_foldl _ _ (fun _ p ht => State.writePart_wf ht agent p) s h

theorem State.agentNum_wf {s : State} (h : s.mem.wf = true) (a agent n x : Nat) : (s.agentNum a agent n x).mem.wf = true :=
  State.agentWrite_wf h a agent _

theorem State.writeMasked_wf {s : State} (h : s.mem.wf = true) (agent a : Nat) (bs : List Byte) (mask : Nat) :
    (s.writeMasked agent a bs mask).mem.wf = true := by
  have hc := State.countLine_wf h a true
  unfold State.writeMasked
  dsimp only
  split
  · exact State.noteHole_wf hc _ agent
  · split
    · exact State.storeLine_wf hc _ _
    · exact State.wf_foldl _ _ (fun _ r ht => State.storeBytes_wf ht r.1 [r.2]) _ (State.touchLineQuiet_wf hc _ agent)

end Sys2Proof.Machine
end

