-- ==== Sys2Proof/WellFormed.lean ====
section
/-! DEFINITION. Which commands are well formed: those whose lists have the lengths, and whose numbers the bounds, that the
spec gives them. Every other operand has the width of its field as its type. -/

namespace Sys2Proof

/-- R136, R159: a word of an 8 MiB operand cache. -/
def eccOk (l : List EccHit) : Bool := l.all fun h => decide (h.word < if h.acc then 2 ^ 19 else 2 ^ 20)

/-- R104, R128, R132: a column of an array: 128 of data, then the two of the checksums. -/
def upsetOk (u : RowUpset) : Bool :=
  u.first.all (fun p => decide (p.1 < 130)) && u.second.all (fun p => decide (p.1 < 130)) && u.ecc.all fun p => decide (p.1 < 130)

/-- R224, R231: a 64 B line of the 52-bit address space, and a mask of its 72 symbols. -/
def hitsOk (l : List LineHit) : Bool := l.all fun h => decide (h.line < 2 ^ 46) && decide (h.syms < 2 ^ 72)

/-- R252: a module reports nine wavelengths. -/
def readingOk : Option LaserReading → Bool
  | none => true
  | some r => decide (r.power.length = 9)

/-- R247, R248, R255, R267: a partner reports eight dedicated counters and, by the fibres of its port, at most one fibre for
each of this port's, and no lane twice. -/
def partnerOk (id : PartnerId) : Bool :=
  decide (id.ded.length = 8) && decide (id.fibres.length = if id.split then 2 else 4) && decide id.fibres.Nodup
    && decide id.lanes.Nodup && decide (id.lanes.length ≤ 32)

/-- R230, R261, R444, R445, R465: a 64-byte line, a 256-byte flit, a message of at most 4,096 bytes, a chunk of at most
4,080 bytes of an image. -/
def Instr.wf : Instr → Bool
  | .mxuStart _ ecc => eccOk ecc
  | .treeOutput _ _ upset => upsetOk upset
  | .drainRowRead _ _ upset => upsetOk upset
  | .vceStart _ ecc => eccOk ecc
  | .tmvCheckPhase _ ecc => eccOk ecc
  | .tmvAccessPhase _ _ ecc hits => eccOk ecc && hitsOk hits
  | .cxlMemRead _ _ hits => hitsOk hits
  | .scrubRead _ hits => hitsOk hits
  | .cxlMemWrite _ data _ _ _ => decide (data.length = 64)
  | .dataFlit _ flit => decide (flit.length = 256)
  | .ctrlFlit _ flit _ _ => decide (flit.length = 256)
  | .identityExchange _ id => partnerOk id
  | .flitNak _ flit => decide (flit.length = 256)
  | .laserPoll _ _ reading => readingOk reading
  | .routineLoad _ _ _ _ _ bytes => decide (bytes.length ≤ 4080)
  | .firmwareData _ bytes _ => decide (bytes.length ≤ 4096)
  | .challenge _ _ nonce _ => decide (nonce.length ≤ 4096)
  | .getMeasurements _ _ _ nonce _ => decide (nonce.length ≤ 4096)
  | .chunkSend _ bytes _ => decide (bytes.length ≤ 4096)
  | .nop .. | .tile .. | .drop .. | .dup .. | .pset .. | .padd .. | .pcopy .. | .wait .. | .waitComplete ..
  | .signal .. | .fence .. | .call .. | .recBegin .. | .recEnd .. | .replay .. | .replayPass .. | .patch ..
  | .endList .. | .mxuLoadw .. | .mxuStream .. | .mxuDrain .. | .mxuMultipass .. | .mxuClear .. | .vceCfg ..
  | .vceRun .. | .vceTblload .. | .vcePerm .. | .vceReduce .. | .vceScan .. | .tmvCopy .. | .tmvGather ..
  | .tmvScatter .. | .tmvRemote .. | .rsignal .. | .signalRelease .. | .cleBucket .. | .cleSmallreduce ..
  | .commandComplete .. | .queueDeadlock .. | .creditLapse .. | .softmax .. | .layernorm .. | .rmsnorm ..
  | .linscan .. | .topk .. | .sample .. | .xent .. | .conv1d .. | .exchStart .. | .allgather .. | .update ..
  | .shardFinalsReady .. | .shardImageComplete .. | .precond .. | .reshard .. | .ckpt .. | .part | .close | .ack
  | .retry | .final | .finalClose | .gather | .gatherFc | .gatherClose | .sr .. | .hopWaitExpiry .. | .cleHopSkip ..
  | .cleDeadline .. | .cleSrTimeout .. | .ready | .stageMissing | .digest | .digestTimeout .. | .probeTick | .probe
  | .probeAck | .lossNotice | .vote | .voteAck | .voteTimeout | .decisionAck | .ckeOrphaned | .commit | .abortStep
  | .retryUpdate | .rollback | .haltAll | .hostAbort .. | .hostLineUpdate .. | .start .. | .jobStart | .jobDone
  | .suspend .. | .suspended | .resume .. | .terminate .. | .jobTermForced | .ringNop .. | .ringEnable ..
  | .bisnpResponse .. | .hostBisnpTimeout .. | .hostLinkDown | .msixBindArm .. | .msixModExpiry
  | .coldReset .. | .warmReset .. | .hubPreservingReset .. | .resetArm .. | .resetDisarm .. | .perstNDeassert ..
  | .initDone .. | .seqFlagAdd .. | .hubFlagAdd .. | .dlkStatusClear .. | .mxuInject .. | .memInject ..
  | .errInject .. | .recordAcknowledge .. | .fatalClear .. | .snapshot .. | .snapshotDone | .freeze ..
  | .skidSample .. | .preciseSample .. | .pmuSampleLost .. | .pkgLimitWrite .. | .coolantReport .. | .coolantStale
  | .laserEnable .. | .laserFaultClear .. | .quiesce .. | .portDisable .. | .fullTrain .. | .mailboxSend ..
  | .m2hFullClear .. | .registerWrite .. | .powerEntryStart | .pwrVinRange .. | .pwrBrownout | .pwrVinOv | .pwrOcp
  | .pwrDieLost .. | .pwrHubLost | .vstbyLoss | .grantPeriod .. | .yield | .ballastRelease .. | .pwrThrottle
  | .throttleDown | .pwrThermThrottle .. | .pwrTjCrit .. | .pwrThermtrip | .pwrLeak | .pwrStageHot ..
  | .pwrOeShutdown .. | .oeRelight .. | .replan .. | .aoCompare .. | .aoRcFallback | .coreClockStop ..
  | .selfRefresh .. | .memStackFail .. | .t2LinkDown .. | .expanderFatal .. | .lossOfLight ..
  | .lightReturn .. | .trainingComplete .. | .fastTrainFallback .. | .fabLinkDown ..
  | .quiesced .. | .laneFail .. | .packetForward | .wr | .wrPartial | .rdReq | .rdResp | .wrAck | .nak
  | .signalPacket | .signalAck | .echo | .echoReply | .e2eTimeout .. | .fabLaserFault .. | .feedPowerCheck ..
  | .feedPowerLow .. | .errorRecord | .fatalHandlingEnd | .boot .. | .mssWatchdog | .sensorSample .. | .logFlush ..
  | .alertResponse | .ibiRepeat .. | .setdasa .. | .entdaa .. | .rstdaa | .setEndpointId .. | .getEndpointId ..
  | .getMctpVersionSupport .. | .getMessageTypeSupport .. | .logRead .. | .fwConfirm .. | .mssRestart ..
  | .ownerKeySet .. | .requestUpdate .. | .passComponentTable .. | .updateComponent .. | .activateFirmware ..
  | .cancelUpdate .. | .updateLockTimeout | .setEventReceiver .. | .getSensorReading .. | .coolantInletEffecter ..
  | .coolantFlowEffecter .. | .packageLimitEffecter .. | .deviceResetEffecter .. | .getVersion ..
  | .getCapabilities .. | .negotiateAlgorithms .. | .getDigests .. | .getCertificate .. | .chunkGet ..
  | .testModeHigh .. | .hostLinkRetrain | .topResetArmExpiry | .thermtripNDeassert | .thermThrottleDown ..
  | .decisionResend | .counterCarry .. | .mssHoldNAssert | .tapInstruction .. | .pldmBaseRequest .. | .getPdr ..
  | .respondIfReady .. => true

end Sys2Proof
end

