-- ==== Sys2Proof/Tests/Slice0.lean ====
section
/-! SUPPORT. Tests: the ill-formed terms WellFormed refuses, a witness for the hypotheses of every statement, and single
steps whose results the spec gives. -/

namespace Sys2Proof.Tests

set_option Elab.async false

open Sys2Proof Sys2Proof.Machine

/-! Ill-formed commands are refused -/

/-- A reading with the given powers. -/
def readingWith (p : List (BitVec 16)) : LaserReading := ⟨0x5A31, 0x0904, 0, 0, p⟩

theorem test_wf_refuses_a_word_beyond_the_cache :
    Instr.wf (.mxuStart 0 [⟨2 ^ 20, false, false⟩]) = false ∧ Instr.wf (.vceStart 0 [⟨2 ^ 20, false, false⟩]) = false ∧
    Instr.wf (.tmvCheckPhase 0 [⟨2 ^ 20, true, false⟩]) = false ∧
    Instr.wf (.tmvAccessPhase 0 0 [⟨2 ^ 20, true, false⟩] []) = false ∧
    Instr.wf (.vceStart 0 [⟨2 ^ 19, false, true⟩]) = false ∧ Instr.wf (.vceStart 0 [⟨2 ^ 19, false, false⟩]) = true := by
  decide +kernel

theorem test_wf_refuses_a_line_or_a_symbol_that_is_not_there :
    Instr.wf (.tmvAccessPhase 0 0 [] [⟨2 ^ 46, 0, true, 0⟩]) = false ∧ Instr.wf (.cxlMemRead 0 false [⟨0, 2 ^ 72, false, 0⟩]) = false ∧
    Instr.wf (.scrubRead 0 [⟨2 ^ 46, 1, false, 0⟩]) = false ∧ Instr.wf (.scrubRead 0 [⟨0, 2 ^ 72 - 1, false, 0⟩]) = true := by
  decide +kernel

/-- What device 9 sends of its port 3. -/
def partner : PartnerId := ⟨true, 9, 0, 3, false, 32, [], none, List.replicate 8 0, 0, [0, 1, 2, 3]⟩

theorem test_wf_refuses_a_partner_with_other_counts :
    Instr.wf (.identityExchange 0 partner) = true ∧
    Instr.wf (.identityExchange 0 { partner with ded := [0] }) = false ∧
    Instr.wf (.identityExchange 0 { partner with fibres := [0, 1] }) = false ∧
    Instr.wf (.identityExchange 0 { partner with fibres := [0, 1, 2, 2] }) = false ∧
    Instr.wf (.identityExchange 0 { partner with lanes := [4, 4] }) = false ∧
    Instr.wf (.identityExchange 0 { partner with lanes := List.ofFn (n := 36) id }) = false := by decide +kernel

theorem test_wf_refuses_a_column_beyond_the_array :
    Instr.wf (.treeOutput 0 0 { RowUpset.none with first := [(130, 1)] }) = false ∧
    Instr.wf (.treeOutput 0 0 { RowUpset.none with second := [(130, 1)] }) = false ∧
    Instr.wf (.drainRowRead 0 0 { RowUpset.none with ecc := [(130, true)] }) = false := by decide +kernel

theorem test_wf_refuses_a_line_of_63_bytes : Instr.wf (.cxlMemWrite 0 (List.replicate 63 0) 0 false false) = false := by
  decide +kernel

theorem test_wf_refuses_a_flit_of_255_bytes :
    Instr.wf (.dataFlit 0 (List.replicate 255 0)) = false ∧ Instr.wf (.ctrlFlit 0 (List.replicate 257 0) none []) = false ∧
    Instr.wf (.flitNak 0 []) = false := by decide +kernel

theorem test_wf_refuses_eight_wavelengths :
    Instr.wf (.laserPoll 0 true (some (readingWith (List.replicate 8 0)))) = false := by decide +kernel

theorem test_wf_refuses_long_messages :
    Instr.wf (.routineLoad .mailbox 0 0 0 0 (List.replicate 4081 0)) = false ∧
    Instr.wf (.firmwareData .mailbox (List.replicate 4097 0) false) = false ∧
    Instr.wf (.challenge .sideband 0 (List.replicate 4097 0) false) = false ∧
    Instr.wf (.getMeasurements .sideband 0 false (List.replicate 4097 0) false) = false ∧
    Instr.wf (.chunkSend .sideband (List.replicate 4097 0) true) = false := by decide +kernel

/-! Words, handles and states to test on -/

/-- A command word of R63: opcode, then (place, value) of its other fields. -/
def word (opc : Nat) (fs : List (Nat × Nat)) : Word64 := BitVec.ofNat 64 (opc + (fs.map fun f => f.2 <<< f.1).sum)

/-- QS0, QS1, QD, QO and QR enabled with a queue number (R63). -/
def qs0 (n : Nat) : List (Nat × Nat) := [(24, n), (54, 1)]
def qs1 (n : Nat) : List (Nat × Nat) := [(30, n), (55, 1)]
def qd (n : Nat) : List (Nat × Nat) := [(36, n), (56, 1)]
def qo (n : Nat) : List (Nat × Nat) := [(42, n), (57, 1)]
def qr (n : Nat) : List (Nat × Nat) := [(48, n), (58, 1)]

/-- A tile handle of R67 in the operand cache: line, format code, rows, columns. -/
def ocTile (line fmt rows cols : Nat) : Nat := line + fmt <<< 20 + (rows - 1) <<< 24 + (cols - 1) <<< 38

/-- A tile handle of R67 in an accumulator array: array, first row, rows, columns. -/
def accTile (arr row rows cols : Nat) : Nat :=
  row + arr <<< 10 + 1 <<< 17 + 11 <<< 20 + (rows - 1) <<< 24 + (cols - 1) <<< 38

/-- A job of core 0. -/
def job0 : Job := ⟨0, 0, 77, 88, false, 0x100000, false, 1, 0, 0, [], none, [], 0, true, none, none, none, 0⟩

/-- Core 0 changed, the rest as after reset. -/
def with0 (f : Core → Core) : State := State.reset.modCore 0 f

/-- Core 0 dispatching, with one arrived handle in each of the tile queues 1, 2, 3. -/
def core0 (a b c : Nat) : State := with0 fun k => { k with
  q.seq := .dispatching, q.tq := [(1, [⟨a, none⟩]), (2, [⟨b, none⟩]), (3, [⟨c, none⟩])] }

/-- A dispatched command: number, opcode, word, immediate and popped handles. -/
def cmd (id opc : Nat) (lo : Word64) (imm : Nat) (a b d : Option Nat) : EngCmd :=
  ⟨id, opc, lo.toNat, imm, 0, 0, 0, 0, a.map (⟨·, none⟩), b.map (⟨·, none⟩), d.map (⟨·, none⟩), [], false, 0, 0, 0, [], []⟩

/-- Dispatches, as a computation. -/
def runsB (s : State) (c : CoreId) (lo imm : Word64) (opc : Nat) (codes stall : Core → Disp → List Nat) : Bool :=
  s.cores.length = 64 && match (s.core c).ready lo.toNat imm.toNat with
    | none => false
    | some d => ((s.core c).q.replay.isSome || s.lineSound (s.core c).fetchAddr) && match opSpec (wOpc d.lo) with
      | none => false
      | some o => o.opc = opc &&
        lowest (commonCodes (s.core c) o d.lo d.imm d.eff
          ++ code? (opc != 0x0D && recOverflow (s.core c)) 0x030C ++ codes (s.core c) d) = none &&
        lowest (code? (tqFull (s.core c) d.lo) 3 ++ stall (s.core c) d) = none

/-- The hypotheses of a statement about a word that its core dispatches. -/
def Runs (s : State) (c : CoreId) (lo imm : Word64) (opc : Nat) (codes stall : Core → Disp → List Nat) : Prop :=
  s.has64 ∧ ∃ d, Dispatches s c lo imm opc codes stall d

theorem runs_of {s : State} {c : CoreId} {lo imm : Word64} {opc : Nat} {codes stall : Core → Disp → List Nat}
    (h : runsB s c lo imm opc codes stall = true) : Runs s c lo imm opc codes stall := by
  unfold runsB at h
  cases hr : (s.core c).ready lo.toNat imm.toNat with
  | none => simp [hr] at h
  | some d =>
    simp only [hr] at h
    cases ho : opSpec (wOpc d.lo) with
    | none => simp [ho] at h
    | some o =>
      simp only [ho, Bool.and_eq_true, decide_eq_true_eq] at h
      exact ⟨h.1, d, hr, by rw [fetchWord, if_pos h.2.1], o, ho, h.2.2.1.1, h.2.2.1.2, h.2.2.2⟩

/-! Witnesses: the sequencer -/

theorem test_witness_TileQueueCommandsComplete :
    Runs (core0 1 2 3) 0 (word 0x00 []) 0 0x00 noCodes noCodes ∧
    Runs (core0 1 2 3) 0 (word 0x01 (qo 4)) 77 0x01 noCodes noCodes ∧
    Runs (core0 1 2 3) 0 (word 0x02 (qs0 1)) 0 0x02 noCodes noCodes ∧
    Runs (core0 1 2 3) 0 (word 0x03 (qs0 1 ++ qo 1 ++ qr 1)) 0 0x03 noCodes noCodes := by
  constructorm* _ ∧ _ <;> exact runs_of (by decide +kernel)

theorem test_witness_ParameterCommandsComplete :
    Runs (core0 1 2 3) 0 (word 0x04 [(24, 255)]) (-1) 0x04 noCodes noCodes ∧
    Runs (core0 1 2 3) 0 (word 0x05 [(24, 0)]) (-1) 0x05 noCodes noCodes ∧
    Runs (core0 1 2 3) 0 (word 0x06 [(24, 7)]) 255 0x06 noCodes noCodes := by
  constructorm* _ ∧ _ <;> exact runs_of (by decide +kernel)

/-- A consuming WAIT for hub flag 70 to reach 3, at command 8. -/
def wait70 : WaitInfo := ⟨70, true, true, 3, 0, 0, 8, 3⟩

/-- Cores 0 and 1 wait for hub flag 70, which stands at `v`. -/
def waitingAt (v : Word32) : State :=
  let wait := fun k : Core => { k with q.seq := .waiting, q.wait := some wait70 }
  { (with0 wait).modCore 1 wait with hub.flags := [(70, v)] }

theorem test_witness_WaitHoldsUntilItsFlagIsReached :
    Runs (core0 1 2 3) 0 (word 0x08 []) (3 + 3 <<< 32) 0x08 waitCodes noCodes ∧
    (∀ v ∈ [2, 3], (waitingAt (BitVec.ofNat 32 v)).has64 ∧ ∀ c ∈ [(0 : CoreId), 1],
      ((waitingAt (BitVec.ofNat 32 v)).core c).q.wait = some wait70 ∧ ((waitingAt (BitVec.ofNat 32 v)).core c).q.seq = .waiting) ∧
    (∀ c ∈ [(0 : CoreId), 1], waitFlag (waitingAt 3) ((waitingAt 3).core c) wait70 = (3 : Word32) + BitVec.ofNat 32 0) ∧
    (waitingAt 3).hubFlag wait70.flag = wait70.target + BitVec.ofNat 32 0 ∧ ¬∃ x : CoreId, x < 0 ∧
      ((waitingAt 3).core x).q.seq = .waiting := by
  refine ⟨runs_of (by decide +kernel), by unfold State.has64; decide +kernel, by decide +kernel, by decide +kernel, ?_⟩
  rintro ⟨x, hx, -⟩
  exact absurd hx (by simp)

theorem test_witness_a_wait_unreached (n : Nat) (hn : n < 2 ^ 31) :
    waitFlag (waitingAt 2) ((waitingAt 2).core 0) wait70 ≠ wait70.target + BitVec.ofNat 32 n := by
  rw [show waitFlag (waitingAt 2) ((waitingAt 2).core 0) wait70 = 2 by decide +kernel]
  intro e
  have := congrArg BitVec.toNat e
  simp [wait70] at this
  omega

theorem test_witness_SignalAddsToOneFlag :
    Runs (core0 1 2 3) 0 (word 0x09 [(12, 1), (13, 7)]) (247 + 1 <<< 32) 0x09 (signalCodes (core0 1 2 3)) noCodes ∧
    Runs (core0 1 2 3) 0 (word 0x09 []) (64 + 1 <<< 10 + 1 <<< 32) 0x09 (signalCodes (core0 1 2 3)) noCodes := by
  constructorm* _ ∧ _ <;> exact runs_of (by decide +kernel)

/-- Core 0 stalled on a FENCE of the VCE, while the VCE runs the command `id`. -/
def fenced (id : Nat) : State := with0 fun k => { k with
  q.seq := .stalled, q.nextId := 9, q.fence := some ⟨2, 8, 0, 0, 10, 2⟩, v.run := [cmd id 0x30 (word 0x30 []) 0 none none none] }

theorem test_witness_FenceWaitsForItsEngines :
    Runs (core0 1 2 3) 0 (word 0x0A []) 2 0x0A noCodes noCodes ∧ (fenced 7).has64 ∧
    ((core0 1 2 3).core 0).incomplete = [] ∧ ((fenced 7).core 0).incomplete.length = 1 ∧
    (completable (fenced 7) 0 .vce 0).isSome = true ∧ (fenced 7).cke.rewinding = false ∧
    (fenced 7).hub.jobState ≠ .terminating ∧ ((fenced 7).core 0).q.fence = some ⟨2, 8, 0, 0, 10, 2⟩ ∧
    ((fenced 7).core 0).q.seq = .stalled := by
  refine ⟨runs_of (by decide +kernel), ?_⟩
  unfold State.has64; decide +kernel

/-- Core 0 dispatching, with slot 5 being recorded. -/
def recording : State := with0 fun k => { k with
  q.seq := .dispatching, q.openRec := some 5, q.slots := [(5, ⟨some [], 0, []⟩)] }

/-- Core 0 dispatching, with one command recorded in slot 5 and its first patch enabled. -/
def recorded : State := with0 fun k => { k with
  q.seq := .dispatching, q.slots := [(5, ⟨some [⟨0, 0, 0⟩], 0, [(0, ⟨true, 9, 2 ^ 32 - 1⟩)]⟩)] }

theorem test_witness_RecordingCommandsComplete :
    Runs recorded 0 (word 0x0C []) 15 0x0C recBeginCodes noCodes ∧ Runs recording 0 (word 0x0D []) 5 0x0D recEndCodes noCodes ∧
    Runs recorded 0 (word 0x0E []) (5 + 3 <<< 4) 0x0E replayCodes noCodes := by
  constructorm* _ ∧ _ <;> exact runs_of (by decide +kernel)

/-- Core 0 in a replay of slot 5, between passes, `r` what the sequencer knows of it. -/
def replaying (r : Replay) : State := recorded.modCore 0 fun k => { k with q.replay := some r }

/-- The hypotheses of the clauses about a replay pass. -/
def PassDue (r : Replay) : Prop :=
  (replaying r).has64 ∧ ((replaying r).core 0).q.replay = some r ∧
  (((replaying r).core 0).q.seq = .dispatching ∨ ((replaying r).core 0).q.seq = .stalled) ∧
  ((replaying r).core 0).q.wait = none ∧ ((replaying r).core 0).q.fence = none ∧ ((replaying r).core 0).q.call = none

theorem test_witness_ReplayPassAppliesPatches :
    Runs recorded 0 (word 0x0F []) (5 + 7 <<< 4 + 255 <<< 8 + 1 <<< 16 + (2 ^ 31) <<< 32) 0x0F noCodes noCodes ∧
    (PassDue ⟨5, 4, 0, 0, false, 0, 0⟩ ∧ PassDue ⟨5, 4, 1, 1, true, 70, 5⟩ ∧ PassDue ⟨5, 4, 1, 0, false, 0, 0⟩) ∧
    (((replaying ⟨5, 4, 1, 1, true, 70, 5⟩).core 0).recd 5).length = 1 ∧
    reached ((replaying ⟨5, 4, 1, 1, true, 70, 5⟩).hubFlag 70) ((5 : Word32) + BitVec.ofNat 32 2) = false :=
  ⟨runs_of (by decide +kernel), by unfold PassDue State.has64; decide +kernel, by decide +kernel, by decide +kernel⟩

theorem test_witness_EndDiscardsHandlesAndSlots : Runs recorded 0 (word 0x10 []) 0 0x10 endCodes noCodes :=
  runs_of (by decide +kernel)

/-! Witnesses: dispatch to the engines -/

/-- Core 0 dispatching, with the given handles, weights of 16 rows and 32 columns of BF16 in array 0's shadow and its rows 0
to 15 written. -/
def mxu0 (a b c : Nat) : State := (core0 a b c).modCore 0 fun k => { k with
  m.wShadow := [(0, ⟨true, 1, 32, 16, []⟩)], m.wrShadow := (List.range 16).map (·, true) }

theorem test_witness_MatrixCommandsJoinTheirQueue :
    Runs (mxu0 (ocTile 0 1 128 128) 0 0) 0 (word 0x20 (qs0 1)) 15 0x20 loadwCodes (fun k _ => engStalls k .mxu 1) ∧
    Runs (mxu0 (ocTile 0 1 16 32) 0 (accTile 0 0 16 16)) 0 (word 0x21 (qs0 1 ++ qd 3)) 0 0x21 streamCodes
      (fun k _ => engStalls k .mxu 2) ∧
    Runs (mxu0 (accTile 0 0 16 16) 0 (ocTile 64 0 16 16)) 0 (word 0x22 (qs0 1 ++ qd 3 ++ qo 4)) 0 0x22 drainCodes
      (fun k d => engStalls k .mxu (drainRegions k d).length) ∧
    Runs (mxu0 (ocTile 0 0 16 32) (ocTile 64 0 4 32) (accTile 0 0 1 16)) 0 (word 0x23 (qs0 1 ++ qs1 2 ++ qd 3)) (100 <<< 4) 0x23
      multipassCodes (fun k d => engStalls k .mxu (mpRegions k d).length) ∧
    Runs (mxu0 0 0 (accTile 3 1023 1 128)) 0 (word 0x24 (qd 3)) 0 0x24 clearCodes (fun k _ => engStalls k .mxu 1) := by
  constructorm* _ ∧ _ <;> exact runs_of (by decide +kernel)

/-- Core 0 dispatching, with the given handles and slot 7 configured. -/
def vce0 (a b c : Nat) : State := (core0 a b c).modCore 0 fun k => { k with v.cfgDispatched := [(7, true)] }

theorem test_witness_VectorCommandsJoinTheirQueue :
    Runs (vce0 0 0 0) 0 (word 0x30 []) (131071 + 7 <<< 17) 0x30 (fun _ _ => []) (fun k _ => engStalls k .vce 1) ∧
    Runs (vce0 (ocTile 0 0 4 16) 0 (ocTile 64 1 4 16)) 0 (word 0x31 (qs0 1 ++ qd 3)) 7 0x31 runCodes
      (fun k d => engStalls k .vce (runRegions k d).length) ∧
    Runs (vce0 (ocTile 0 0 1 1024) 0 0) 0 (word 0x32 (qs0 1)) 4 0x32 tblCodes (fun k _ => engStalls k .vce 1) ∧
    Runs (vce0 (ocTile 0 0 4 16) (ocTile 64 13 2 8) (ocTile 128 0 2 8)) 0 (word 0x33 (qs0 1 ++ qs1 2 ++ qd 3)) 0 0x33 permCodes
      (fun k _ => engStalls k .vce 3) ∧
    Runs (vce0 (ocTile 0 0 4 16) 0 (ocTile 64 0 4 1)) 0 (word 0x34 (qs0 1 ++ qd 3)) 0 0x34 reduceCodes
      (fun k _ => engStalls k .vce 2) ∧
    Runs (vce0 (ocTile 0 0 4 16) 0 (ocTile 64 0 4 16)) 0 (word 0x35 (qs0 1 ++ qd 3)) 0 0x35 scanCodes
      (fun k d => engStalls k .vce (tileRegions k d.lo 1).length) := by
  constructorm* _ ∧ _ <;> exact runs_of (by decide +kernel)

theorem test_witness_MoverCommandsJoinTheirQueue :
    Runs (core0 (ocTile 0 0 4 16) 0 0) 0 (word 0x40 (qs0 1)) (1 <<< 62 + 131069) 0x40 (tmvCodes 0x40)
      (fun k d => engStalls k .tmv (tmvRegions k d).length) ∧
    Runs (core0 0 (ocTile 0 13 1 16) (ocTile 64 0 4 16)) 0 (word 0x41 (qs1 2 ++ qd 3)) (1 <<< 63) 0x41 (tmvCodes 0x41)
      (fun k d => engStalls k .tmv (tmvRegions k d).length) ∧
    Runs (core0 (ocTile 0 0 4 16) (ocTile 64 13 1 16) 0) 0 (word 0x42 (qs0 1 ++ qs1 2)) (1 <<< 62) 0x42 (tmvCodes 0x42)
      (fun k d => engStalls k .tmv (tmvRegions k d).length) ∧
    Runs (core0 0 0 0) 0 (word 0x43 []) (1 <<< 52 + 0x40) 0x43 (tmvCodes 0x43)
      (fun k d => engStalls k .tmv (tmvRegions k d).length) := by
  constructorm* _ ∧ _ <;> exact runs_of (by decide +kernel)

theorem test_witness_HubBoundCommandsJoinTheirQueue :
    Runs (core0 0 0 0) 0 (word 0x50 []) (5 + 255 <<< 22 + 1 <<< 32) 0x50 rsignalCodes (fun k _ => engStalls k .hub 0) ∧
    Runs (core0 (ocTile 0 0 1 32) 0 0) 0 (word 0x51 (qs0 1)) 0 0x51 cleBucketCodes
      (fun k d => engStalls k .hub (tileRegions k d.lo 1).length) ∧
    Runs (core0 (ocTile 0 0 4 16) 0 (ocTile 64 0 4 16)) 0 (word 0x52 (qs0 1 ++ qd 3)) 3 0x52 cleSrCodes
      (fun k d => engStalls k .hub (tileRegions k d.lo 1).length) := by
  constructorm* _ ∧ _ <;> exact runs_of (by decide +kernel)

/-! Witnesses: the engines -/

/-- A credit held by a unit of core 0, of 312.5 W. -/
def credit0 (unit : Nat) : Credit := ⟨⟨0, unit⟩, 40000, 0, false, false, false, none⟩

/-- Core 0 with its MXU's queue, its arrays' weights and accumulators as given, and the credits of its arrays if wanted. -/
def mxuQ (q : List EngCmd) (run : List MxuRun) (credit : Bool) : State :=
  { with0 fun k => { k with
      m.queue := q, m.run := run, m.arr := [(0, ⟨true, 1, 32, 16, [(0, numOne)]⟩)]
      v.run := [cmd 3 0x30 (word 0x30 []) 0 none none none] } with
    pwr.credits := if credit then (List.range 4).map credit0 else [] }

/-- A LOADW of number 5 whose handle comes from command `n`. -/
def loadwFrom (n : Nat) : EngCmd :=
  { cmd 5 0x20 (word 0x20 (qs0 1)) 15 none none none with qs0 := some ⟨ocTile 0 1 16 32, some n⟩ }

def stream5 : EngCmd := cmd 5 0x21 (word 0x21 (qs0 1 ++ qd 3)) 0 (some (ocTile 0 1 16 32)) none (some (accTile 0 0 16 16))
def drain5 (clr : Nat) : EngCmd :=
  cmd 5 0x22 (word 0x22 (qs0 1 ++ qd 3)) (clr <<< 19) (some (accTile 0 0 16 16)) none (some (ocTile 64 0 16 16))
def multi5 : EngCmd := cmd 5 0x23 (word 0x23 (qs0 1 ++ qs1 2 ++ qd 3)) (100 <<< 4) (some (ocTile 0 0 16 32))
  (some (ocTile 64 0 4 32)) (some (accTile 0 0 1 16))
def clear5 : EngCmd := cmd 5 0x24 (word 0x24 (qd 3)) 0 none none (some (accTile 3 1023 1 128))

theorem test_witness_MatrixUnitStartsItsHeadCommand :
    (mxuQ [loadwFrom 3] [] true).has64 ∧ ((mxuQ [loadwFrom 3] [] true).core 0).m.queue = loadwFrom 3 :: [] ∧
    mxuMayStart ((mxuQ [loadwFrom 3] [] true).core 0) (loadwFrom 3) = false ∧
    (∀ e ∈ [loadwFrom 4, clear5, drain5 0], ((mxuQ [e] [] false).core 0).m.queue = e :: [] ∧
      mxuMayStart ((mxuQ [e] [] false).core 0) e = true ∧ isStream e = false ∧ isMulti e = false ∧
      ((mxuQ [e] [] false).core 0).m.run = []) ∧
    (∀ e ∈ [stream5, multi5], mxuMayStart ((mxuQ [e] [] true).core 0) e = true ∧ (isStream e = !isMulti e) ∧
      (∀ a < 4, (mxuQ [e] [] true).creditMarked ⟨0, a⟩ = false ∧ 768 ≤ (mxuQ [e] [] true).creditHeld ⟨0, a⟩) ∧
      streamCredit ((mxuQ [e] [] true).core 0) e ≤ (mxuQ [e] [] true).creditHeld ⟨0, e.array⟩) ∧
    (mxuMayStart ((mxuQ [stream5] [] false).core 0) stream5 = true ∧ isStream stream5 = true ∧
      (mxuQ [stream5] [] false).creditMarked ⟨0, stream5.array⟩ = false ∧
      (mxuQ [stream5] [] false).creditHeld ⟨0, stream5.array⟩ < streamCredit ((mxuQ [stream5] [] false).core 0) stream5) ∧
    (let s := { mxuQ [stream5] [] false with pwr.credits := [{ credit0 0 with marked := true }] }
     mxuMayStart (s.core 0) stream5 = true ∧ s.creditMarked ⟨0, stream5.array⟩ = true) := by
  unfold State.has64; decide +kernel

theorem test_witness_StreamRowsReachTheirAccumulator :
    puntyActive ((mxuQ [] [⟨loadwFrom 4, [0, 0, 0, 0], false⟩] true).core 0) = true ∧
    (let s := mxuQ [] [⟨stream5, [15, 0, 0, 0], false⟩] true
     s.has64 ∧ puntyActive (s.core 0) = false ∧
      (s.core 0).m.run.find? (fun r => enters r && decide (0 < r.left 0)) = some ⟨stream5, [15, 0, 0, 0], false⟩ ∧
      isStream stream5 = true ∧ heldByDrain (s.core 0).m.run ⟨stream5, [15, 0, 0, 0], false⟩ 0 = false ∧
      (s.core 0).m.inj = none ∧ (∃ x ∈ s.pwr.credits, x.who = ⟨0, 0⟩ ∧ x.ballast = false) ∧
      (∀ x ∈ (s.core 0).m.run, x.cmd.opc ≠ 0x24) ∧
      exitAgrees (rowThrough (sget ArrW.none (s.core 0).m.arr 0) ((s.core 0).rowVals stream5.src (wFtz stream5.lo) 15)) = true) := by
  unfold State.has64; decide +kernel

theorem test_witness_DrainReadsRowByRow :
    (let s := mxuQ [] [⟨drain5 1, [15, 0, 0, 0], false⟩] true
     s.has64 ∧ (s.core 0).m.run.find? (fun r => isDrain r.cmd && decide (0 < r.left 0))
        = some ⟨drain5 1, [15, 0, 0, 0], false⟩ ∧ (s.core 0).m.inj = none ∧ (drain5 1).dst.acc = false ∧
      ((s.core 0).m.run.takeWhile fun x => x.cmd.id ≠ (drain5 1).id).any
        (fun x => !isDrain x.cmd && touchesRow x 0 15) = false ∧ ∀ x ∈ (s.core 0).m.run, x.cmd.opc ≠ 0x24) ∧
    (let s := mxuQ [] [⟨{ stream5 with id := 4 }, [0, 0, 0, 0], false⟩, ⟨drain5 0, [0, 0, 0, 0], false⟩] true
     (s.core 0).m.run.find? (fun r => isDrain r.cmd && decide (0 < r.left 0)) = some ⟨drain5 0, [0, 0, 0, 0], false⟩ ∧
      ((s.core 0).m.run.takeWhile fun x => x.cmd.id ≠ (drain5 0).id).any
        (fun x => !isDrain x.cmd && touchesRow x 0 0) = true) := by
  unfold State.has64; decide +kernel

/-- Core 0 with its VCE's queue as given, and its VCE's credit. -/
def vceQ (q : List EngCmd) : State :=
  { with0 fun k => { k with v.queue := q, m.queue := [loadwFrom 2] } with pwr.credits := [credit0 4] }

def cfg6 : EngCmd := cmd 6 0x30 (word 0x30 []) (7 <<< 17) none none none
def run6 (n : Nat) : EngCmd := { cmd 6 0x31 (word 0x31 (qs0 1 ++ qd 3)) 7 none none (some (ocTile 64 1 4 16)) with
  qs0 := some ⟨ocTile 0 0 4 16, some n⟩ }

theorem test_witness_VectorEngineStartsItsHeadCommand :
    ((vceQ [run6 5]).core 0).v.queue = run6 5 :: [] ∧ ((vceQ [run6 5]).core 0).handlesArrived (run6 5) = false ∧
    ∀ e ∈ [cfg6, run6 4], let s := vceQ [e]
      s.has64 ∧ (s.core 0).v.queue = e :: [] ∧ e.opc ≠ 0x0B ∧ (s.core 0).handlesArrived e = true ∧
      (s.core 0).noHazard .vce e = true ∧ rawBlocked (s.core 0) e = false ∧ tblBlocked (s.core 0) e = false ∧
      s.creditMarked ⟨0, 4⟩ = false ∧ vceCredit (s.core 0) e ≤ s.creditHeld ⟨0, 4⟩ ∧
      (s.core 0).ocBadIn 0 (fld e.imm 0 17 * 64) 64 = false := by
  unfold State.has64; decide +kernel

/-- Core 0 with its mover's queue and started commands, and a descriptor's first byte at line 0 of the cache. -/
def tmvQ (q : List EngCmd) (run : List TmvRun) (type : Byte) : State :=
  with0 fun k => { k with t.queue := q, t.run := run, v.oc := if type = 0 then [] else [(0, type)] }

/-- A copy from one tile to another. -/
def copy7 : EngCmd := cmd 7 0x40 (word 0x40 (qs0 1 ++ qd 3)) (3 <<< 62) (some (ocTile 64 0 4 16)) none (some (ocTile 128 0 4 16))

/-- A line of four FP32 elements at a device address. -/
def line4 (a : Nat) : TLine := ⟨a, [4, 1, 1, 1], [0, 64, 64, 64], [0, 0, 0, 0], 0⟩

/-- A started copy of four FP32 elements from 0x1000 to 0x2000. -/
def memCopy : TmvRun := ⟨cmd 7 0x40 (word 0x40 []) 0 none none none,
  ⟨0, false, false, 0, 0, 0, false, .fp32, 0, [4, 1, 1, 1], [0, 0, 0, 0], some (line4 0x1000), some (line4 0x2000), [], [], 0⟩,
  false, [], []⟩

theorem test_witness_MoverChecksItsHeadCommand :
    (tmvQ [copy7] [] 1).has64 ∧ ((tmvQ [copy7] [] 1).core 0).t.queue = copy7 :: [] ∧
    4 ≤ ((tmvQ [copy7] [memCopy, memCopy, memCopy, memCopy] 1).core 0).t.run.length ∧
    ∀ x ∈ [((1 : Byte), true), (0, false)], (let s := tmvQ [copy7] [] x.1
      let bs := (s.core 0).ocRead 0 (fld copy7.imm 0 17 * 64) (descLen copy7.imm)
      let d := fullDesc (s.core 0) copy7 bs []
      (s.core 0).t.run.length < 4 ∧ (s.core 0).handlesArrived copy7 = true ∧ (s.core 0).noHazard .tmv copy7 = true ∧
      earlierWaits (s.core 0).t.run (s.core 0).t.run.length = false ∧ s.headHazard 0 copy7 = false ∧
      tmvDloc copy7.imm = false ∧ (descOf copy7 bs).usesBlocks = false ∧
      (descFaults s copy7 bs [] true d = [] ↔ x.2 = true) ∧ d.usesIdx = false ∧ addrBad s copy7 d = false) := by
  unfold State.has64; decide +kernel

theorem test_witness_MoverAccessesMemory :
    let s := tmvQ [] [memCopy] 0
    let xs := movesOf memCopy.cmd memCopy.desc memCopy.desc.idxpol
    s.has64 ∧ (s.core 0).t.run[(0 : Fin 4).val]? = some memCopy ∧ memCopy.issued = false ∧ memCopy.cmd.opc ≠ 0x43 ∧
    earlierWaits (s.core 0).t.run 1 = false ∧
    writeSnoops s memCopy.cmd memCopy.desc = [] ∧ memCopy.desc.combine = 0 ∧ memCopy.desc.fmt.isBlock = false ∧
    memCopy.desc.fmt ≠ .w48 ∧
    (∀ l ∈ moveLines memCopy.desc (xs.map fun x => x.src), s.populated (64 * l) = true ∧ s.poisoned (64 * l) = false ∧
      s.lineErr (64 * l) = LineErr.none) ∧
    ⟨.mem 0x200C 3, some (.mem 0x100C 3), 3⟩ ∈ xs ∧ inAlias (0x100C + 3) = false ∧ inAlias (0x200C + 3 / 64 * 64) = false ∧
    inAlias (64 * ((0x200C + 3) / 64)) = false ∧ s.populated (64 * ((0x200C + 3) / 64)) = true ∧
    (xs.all fun y => y = ⟨.mem 0x200C 3, some (.mem 0x100C 3), 3⟩ || (match y.dst with
      | .mem b _ => decide (b + 4 ≤ 0x200F)
      | .tile _ _ => true)) = true := by
  unfold State.has64; constructorm* _ ∧ _ <;> decide +kernel

/-- A bucket of 2 blocks, fed by core 0, of this device and device 1. -/
def bucket0 : Bucket := ⟨0x1000, 0x2000, 0x3000, 0x4000, 0x4100, 0x5000, 0x6000, 0x7000, 2, 2, 1, 0, 0, 0, [(0, 1), (1, 0)], 0, 0,
  0, false, [], 0⟩

/-- Core 0 with its hub-bound queue, an open exchange of one bucket, and the small-reduction group 3 of devices 0 and 1. -/
def hubQ (q : List EngCmd) : State :=
  { with0 fun k => { k with t.hubQ := q } with
    cle := { Cle.reset with
      isOpen := true, buckets := [bucket0], srGroup := [(3, 0x40)], srMem := [(24, 0x80000000), (25, 0x80000001)] } }

def signal8 : EngCmd := cmd 8 0x50 (word 0x50 []) (5 + 255 <<< 22 + 1 <<< 32) none none none
def piece8 (off : Nat) : EngCmd := cmd 8 0x51 (word 0x51 (qs0 1)) (off <<< 16) (some (ocTile 0 0 1 32)) none none
def small8 : EngCmd := cmd 8 0x52 (word 0x52 (qs0 1 ++ qd 3)) 3 (some (ocTile 0 0 4 16)) none (some (ocTile 64 0 4 16))

theorem test_witness_HubBoundCommandsAct :
    (∀ e ∈ [signal8, piece8 1, piece8 0, small8], (hubQ [e]).has64 ∧ ((hubQ [e]).core 0).t.hubQ = e :: [] ∧
      ((hubQ [e]).core 0).handlesArrived e = true ∧ ((hubQ [e]).core 0).noHazard .hub e = true ∧
      (hubQ [e]).hub.snoop = [] ∧ (hubQ [e]).hub.bisnp = []) ∧
    (signalBlocked ((hubQ [signal8]).core 0) signal8 = false ∧ (hubQ [signal8]).signalsTo (fld signal8.imm 0 14) < 64 ∧
      (hubQ [signal8]).freeTag 0 = some 0) ∧
    signalBlocked (((hubQ [signal8]).modCore 0 fun k => { k with
      t.queue := [cmd 7 0x43 (word 0x43 []) (1 <<< 52) none none none] }).core 0) signal8 = true ∧
    (hubQ [piece8 0]).cle.buckets[(piece8 0).imm % 65536]? = some bucket0 ∧
    pieceBad (hubQ [piece8 1]) 0 (piece8 1).imm (hTile (piece8 1).qs0) = true ∧
    pieceBad (hubQ [piece8 0]) 0 (piece8 0).imm (hTile (piece8 0).qs0) = false ∧
    fld (piece8 0).imm 16 26 + (hTile (piece8 0).qs0).count / 32 < bucket0.nblk ∧
    srGroupBad (hubQ [small8]) 0 (small8.imm % 16) = false := by
  unfold State.has64; decide +kernel

theorem test_witness_CommandsCompleteAndJobsDeadlock :
    (let s := with0 fun k => { k with v.run := [cmd 4 0x32 (word 0x32 [(12, 1), (13, 9)]) 4 none none none] }
     s.has64 ∧ (completable s 0 .vce 0).isSome = true ∧ s.cke.rewinding = false ∧ s.hub.jobState ≠ .terminating ∧
      (s.core 0).q.fence = none) ∧
    (let s := { waitingAt 2 with hub := { Hub.reset with jobState := .running, job := some job0 } }
     s.has64 ∧ s.hub.job = some job0 ∧ s.hub.waitLimit ≠ 0 ∧ s.hub.dlkArmed = true ∧ s.hub.jobState = .running ∧
      ((dlkSet s job0 1).any fun c => (s.core c).q.seq = .waiting) = true) ∧
    (let s := fun hist => { State.reset with pwr := { Pwr.reset with credits := [credit0 0], releasedHist := hist } }
     ((s []).pwr.credits.find? fun y => y.who = ⟨0, 0⟩) = some (credit0 0) ∧
      (s []).scaled ⟨0, 0⟩ 40000 ≤ (s []).pwr.allow (s []).pwr.releasedHist ∧
      (s [10000000]).pwr.allow (s [10000000]).pwr.releasedHist < (s [10000000]).scaled ⟨0, 0⟩ 40000) := by
  unfold State.has64; decide +kernel

/-- Memory with the listed bytes. -/
def mem (bs : List (Nat × Byte)) : Memory := { Memory.reset with bytes := bs }

/-- A parameter block of 64 bytes: its identifier, version 1, its length 0x21, and the listed bytes. -/
def block (id : Byte) (bs : List (Nat × Byte)) : List Byte :=
  (List.range 64).map fun i => sget 0 ([(0, id), (2, 1), (4, 0x21)] ++ bs) i

/-- A call of a routine, at command 3. -/
def call (id : Nat) (bs : List (Nat × Byte)) : CallInfo := ⟨id, block (BitVec.ofNat 8 id) bs, 3, 0, 0x0B, 0, 0⟩

/-- Core 0 inside a call, with one handle in each of the tile queues 1, 2, 3. -/
def calling (ci : CallInfo) (m : Memory) : State := { (core0 (ocTile 0 0 4 16) (ocTile 64 0 4 16) 0).modCore 0 fun k => { k with
  q.call := some ci, q.seq := .stalled, q.cmdIndex := 4 } with
    mem := m, hub := { Hub.reset with jobState := .running, job := some { job0 with step := 1 } } }

/-- The call of SOFTMAX on queues 1 and 2, into FP32. -/
def softmaxCall : CallInfo := call 1 [(0x10, 1), (0x11, 2), (0x14, 0)]

/-- Core 0 at a CALL whose parameter block has been read, with tiles in its queues 1 and 2. -/
def atCall (pb : List Byte) : State := { (core0 (ocTile 0 0 4 16) (ocTile 64 0 4 16) 0).modCore 0 fun k => { k with
  q.seq := .stalled, q.stall := 8, q.pbRead := some (pb, false) } with routineIds := [0x8000] }

/-- SOFTMAX from queue 1 into queue 9, which is empty. -/
def dryPb : List Byte := block 1 [(0x10, 1), (0x11, 9)]
def updatePb : List Byte := block 0x20 []
def integratorPb : List Byte := block 0 [(1, 0x80)]

/-- The work of routine `n` in the queue of the VCE. -/
def rtWork (n : Nat) : EngCmd :=
  { cmd 6 0x0B (word 0x0B []) 0 none none none with
    routine := n, args := [some (1, ⟨ocTile 0 0 4 16, none⟩), some (2, ⟨ocTile 64 0 4 16, none⟩), none], pb := block 1 [] }

theorem test_witness_CallsRunTheirRoutines :
    (Runs (core0 1 2 3) 0 (word 0x0B []) (1 + 0x40 <<< 16) 0x0B (callCodes (core0 1 2 3)) noCodes ∧
      ((core0 1 2 3).core 0).q.pbRead = none ∧ (core0 1 2 3).lineSound (pbAddr (1 + 0x40 <<< 16)) = true ∧
      (core0 1 2 3).poisoned (pbAddr (1 + 0x40 <<< 16)) = false) ∧
    (Runs (atCall updatePb) 0 (word 0x0B []) (0x20 + 0x40 <<< 16) 0x0B (callCodes (atCall updatePb)) callStalls ∧
      Runs (atCall softmaxCall.pb) 0 (word 0x0B []) (1 + 0x40 <<< 16) 0x0B (callCodes (atCall softmaxCall.pb)) callStalls ∧
      Runs (atCall dryPb) 0 (word 0x0B []) (1 + 0x40 <<< 16) 0x0B (callCodes (atCall dryPb)) callStalls) ∧
    (∀ pb ∈ [updatePb, softmaxCall.pb, dryPb, integratorPb], ((atCall pb).core 0).q.pbRead = some (pb, false) ∧
      (atCall pb).cke.rewinding = false) ∧
    ((romBody 0x20).isSome = true ∧ isTileRoutine 0x20 = false ∧ (romBody 0x8000).isNone = true ∧
      isTileRoutine 0x8000 = false ∧ isTileRoutine 1 = true) ∧
    lowest (rtFaults 1 softmaxCall.pb ((atCall softmaxCall.pb).core 0).q.tq) = none ∧
    lowest (rtFaults 1 dryPb ((atCall dryPb).core 0).q.tq) = some 0x0305 ∧
    (∀ n ∈ [1, 2, 3, 4, 5, 6, 7, 8], (vceQ [rtWork n]).has64 ∧ ((vceQ [rtWork n]).core 0).v.queue = rtWork n :: [] ∧
      (rtWork n).opc = 0x0B ∧ (rtWork n).routine = n ∧ rtMayRun ((vceQ [rtWork n]).core 0) (rtWork n) = true) ∧
    ((vceQ [cfg6]).core 0).v.queue = cfg6 :: [] ∧ cfg6.opc ≠ 0x0B := by
  refine ⟨⟨runs_of (by decide +kernel), by decide +kernel⟩, ?_, by unfold State.has64; decide +kernel⟩
  constructorm* _ ∧ _ <;> exact runs_of (by decide +kernel)

/-- What an integrator's routine takes as its parameter block is free (Config): with a block it takes, its CALL runs. -/
theorem test_witness_an_integrators_call (h : Config.integratorPb 0x8000 integratorPb = true) :
    Runs (atCall integratorPb) 0 (word 0x0B []) (0x8000 + 0x40 <<< 16) 0x0B (callCodes (atCall integratorPb)) callStalls := by
  obtain ⟨h64, d, hd, hf, o, ho, hc, hl, hs⟩ : Runs (atCall integratorPb) 0 (word 0x0B []) (0x8000 + 0x40 <<< 16) 0x0B
    noCodes callStalls := runs_of (by decide +kernel)
  have he : d.eff % 65536 = 0x8000 := by
    have : (((atCall integratorPb).core 0).ready (word 0x0B []).toNat (0x8000 + 0x40 <<< 16 : Word64).toNat).any
      (fun d => d.eff % 65536 = 0x8000) = true := by decide +kernel
    rw [hd] at this
    simpa using this
  have hp : ((atCall integratorPb).core 0).q.pbRead = some (integratorPb, false) := by decide +kernel
  have hi : integratorPbBad 0x8000 integratorPb = false := by
    simp only [integratorPbBad, h, Bool.not_true, Bool.or_false]; decide +kernel
  have hr : (atCall integratorPb).routinePresent 0x8000 = true := by decide +kernel
  have hn : callCodes (atCall integratorPb) ((atCall integratorPb).core 0) d = [] := by
    simp [callCodes, he, hr, hp, hi, code?, show (romBody 0x8000).isNone = true from rfl]
  exact ⟨h64, d, hd, hf, o, ho, hc, by rw [hn]; exact hl, hs⟩

/-! Witnesses: gradient exchange -/

/-- A bucket entry at 0x8000 of one block and a ring of this device alone. -/
def bucketBytes : List (Nat × Byte) := [(0x8048, 1), (0x804C, 1), (0x804E, 1)]

/-- A shard map at 0x8000 with one entry, which this device owns: its descriptor, of one block, at 0x9000. -/
def mapBytes : List (Nat × Byte) :=
  [(0x8000, 1), (0x8004, 1), (0x8018, 1), (0x8048, 128), (0x8053, 0x80), (0x8055, 0x80), (0x8061, 0x90), (0x9070, 1)]

/-- This device, number 0, is member 0 of the job. -/
def member0 (s : State) : State := { s with cke.memberCount := 1, cke.memberAddr := 0xA000 }

/-- EXCH_START of one bucket entry at 0x8000, and ALLGATHER and others of the map at 0x8000. -/
def exchCall : CallInfo := call 0x10 [(0x11, 0x80), (0x18, 1)]
def gatherCall : CallInfo := call 0x11 [(0x11, 0x80)]

theorem test_witness_ExchangeRoutinesOpenAndArm :
    (let a := pbNum exchCall.pb 0x10 8
     let n := pbNum exchCall.pb 0x18 4
     let pol := pbNum exchCall.pb 0x1C 4
     let s := calling exchCall (mem bucketBytes)
     s.has64 ∧ s.callOf 0 0x11 = none ∧ s.callOf 0 0x10 = some exchCall ∧ s.cke.rewinding = false ∧
      (n = 1 ∧ a % 64 = 0 ∧ (s.readBuckets a n).readable a (128 * n) = true ∧ pol = 0 ∧
        (s.readBuckets a n).bucketBad a = false) ∧ s.cle.isOpen = false ∧
      (State.cle { s with cle.isOpen := true }).isOpen = true ∧
      ((calling exchCall Memory.reset).readBuckets a n).bucketBad a = true) ∧
    (let a := pbNum gatherCall.pb 0x10 8
     let s := member0 (calling gatherCall (mem mapBytes))
     let r := s.readsMap 0x80 a
     s.has64 ∧ s.callOf 0 0x10 = none ∧ s.callOf 0 0x11 = some gatherCall ∧ s.cke.rewinding = false ∧ s.hub.snoop = [] ∧
      s.hub.bisnp = [] ∧ pbNum gatherCall.pb 0x18 1 ≤ 1 ∧ r.mapBad a = false ∧ (r.readMap a).kind = 0 ∧ s.cle.imaged = [] ∧
      s.cle.isOpen = false ∧ ((calling gatherCall Memory.reset).readsMap 0x80 a).mapBad a = true) := by
  unfold State.has64; decide +kernel

/-- A packet for this device, number 0. -/
def pkt (ptype src addr aux : Nat) (payload : List Byte) : Packet :=
  ⟨ptype, 0, 0, 0, src, 0, payload.length, 7, 0, 0, addr, aux, payload, none, none⟩

/-- The key of R299 of a shard of bucket 0. -/
def key (exch shard : Nat) : Nat := exch + shard <<< 32

/-- A sealed bucket of three blocks on a ring of devices 0, 1 and 2, the buddy of each the next. -/
def ring3 : Bucket := { bucket0 with nblk := 3, g := 3, ring := [(0, 1), (1, 0), (2, 0)], sealed := true, deadlineUs := 2000 }

/-- A stream of exchange 1 received from a device. -/
def stream (gather : Bool) (shard src : Nat) : Stream :=
  ⟨gather, 1, 0, shard, 0, src, .held, 0, 0, 0, false, false, [], false, 1, [], false, 200, 50, 0, 0⟩

/-- Exchange 1 open on `ring3`, with streams of which those received are accepted, and arrived packets. -/
def exch (xs : List Stream) (ps : List Packet) : State := { State.reset with
  fab := { Fab.reset with inbox := ps.map (1, ·) }
  cle := { Cle.reset with
    isOpen := true, exch := 1, buckets := [ring3], streams := xs
    accepted := xs.map fun x => (x.gather, x.exch, x.bucket, x.shard, x.attempt, x.src)
    armed := some ⟨0, 0, 0, 1, [⟨0, 128, 1, none, none, 0, 1, 0x9000, 0x40000, 0⟩]⟩ } }

/-- The packet taken and how it is judged. -/
def judged (s : State) (gather : Bool) (ty : Nat) : Option (Packet × PktVerdict) :=
  (s.takeStream gather ty).map fun y => (y.1, y.2.judge gather y.1)

theorem test_witness_StreamPacketsObeyTheirRules :
    (exch [] []).hub.snoop = [] ∧ (exch [] []).hub.bisnp = [] ∧
    ∀ x ∈ [(false, 0x10), (false, 0x11), (true, 0x16), (true, 0x17), (true, 0x18)],
      (exch [] []).takeStream x.1 x.2 = none ∧
      (let p := pkt x.2 2 (key 9 0) 0 []
       judged (exch [] [p]) x.1 x.2 = some (p, .discard)) ∧
      (∀ aux ∈ [0, 1], let p := pkt x.2 2 (key 1 0) aux []
       judged (exch [stream x.1 0 1] [p]) x.1 x.2 = some (p, .dup) ∧
        (x.2 = 0x10 ∨ x.2 = 0x16 → firstOfStream p = decide (aux = 0))) ∧
      (let p := pkt x.2 2 (key 2 0) 0 []
       judged (exch [] [p]) x.1 x.2 = some (p, .fresh) ∧ (exch [] [p]).exchSoon p = true) := by decide +kernel

/-- The hypotheses on a packet of an accepted stream of the open exchange. -/
def taken (s : State) (gather : Bool) (ty : Nat) (x : Stream) : Bool :=
  match s.takeStream gather ty with
  | none => false
  | some (p, u) => u.judge gather p = .known && u.streamOf gather p = some x && u.cle.streams.contains x &&
      u.pktBucket p = some ring3

theorem test_witness_StreamPacketsTakeEffect :
    (taken (exch [stream false 0 2] [pkt 0x10 2 (key 1 0) 0 []]) false 0x10 (stream false 0 2) = true ∧
      after ((exch [] []).chain ring3 0) (ring3.pos 0) = none ∧ (stream false 0 2).ended = false) ∧
    (taken (exch [stream false 1 2] [pkt 0x11 2 (key 1 1) 0 []]) false 0x11 (stream false 1 2) = true ∧
      after ((exch [] []).chain ring3 1) (ring3.pos 0) = some 1 ∧ (stream false 1 2).acked = false) ∧
    (taken (exch [stream true 1 1] [pkt 0x16 1 (key 1 1) 0 (List.replicate 64 1)]) true 0x16 (stream true 1 1) = true ∧
      (exch [] []).cle.armed.bind (·.entryOf 0 1) = some ⟨0, 128, 1, none, none, 0, 1, 0x9000, 0x40000, 0⟩ ∧
      (exch [] []).populated 0x4003F = true) ∧
    taken (exch [stream true 1 1] [pkt 0x17 1 (key 1 1) 0 [1, 0]]) true 0x17 (stream true 1 1) = true ∧
    (let x := { stream true 1 1 with gotImg := 128, gotFc := 2 }
     taken (exch [x] [pkt 0x18 1 (key 1 1) 0 []]) true 0x18 x = true) ∧
    ((exch [stream true 1 1] [pkt 0x18 1 (key 1 1) 0 []]).takeStream true 0x18).isNone = true := by decide +kernel

/-- What FINAL and FINAL_CLOSE take. -/
def mayFinal (s : State) (ty : Nat) (p : Packet) : Bool :=
  p.ptype = ty && p.dst = s.fab.devid && !((s.exchSoon p || s.finalsDue p) && !s.fromLost p)

/-- Exchange 1 with the finals of the first block of each shard here. -/
def finalsHere (ps : List Packet) : State :=
  { exch [] ps with cle := { (exch [] ps).cle with finRx := [(0, 0, 0), (0, 1, 1), (0, 2, 2)] } }

theorem test_witness_FinalsReachTheBuddy :
    (∀ ty ∈ [0x14, 0x15],
      ((exch [] []).takeInbox (mayFinal (exch [] []) ty)).isNone = true ∧
      (let p := pkt ty 1 (key 9 1) 0 []
       (((exch [] [p]).takeInbox (mayFinal (exch [] [p]) ty)).any fun y => y.1 = p && !y.2.exchNow p) = true) ∧
      (let p := pkt ty 2 (key 1 2) 0 []
       (((finalsHere [p]).takeInbox (mayFinal (finalsHere [p]) ty)).any fun y => y.1 = p && !y.2.fromLost p &&
         y.2.exchNow p && y.2.pktBucket p = some ring3 && y.2.buddyOf p ring3) = true) ∧
      (let p := pkt ty 2 (key 1 1) 0 []
       (((exch [] [p]).takeInbox (mayFinal (exch [] [p]) ty)).any fun y => y.1 = p && !y.2.fromLost p && y.2.exchNow p &&
         y.2.pktBucket p = some ring3 && !y.2.buddyOf p ring3) = true)) ∧
    (exch [] []).pmu.hubCtl = 0 ∧
    (let p := pkt 0x15 2 (key 1 2) 0 []
     ((exch [] [p]).takeInbox (mayFinal (exch [] [p]) 0x15)).isNone = true) := by decide +kernel

/-- A stream this device sends, its first packet not yet answered. -/
def sending (shard nxt : Nat) : Stream := { stream false shard 2 with nxt := nxt, out := [pkt 0x10 0 (key 1 shard) 0 []] }

theorem test_witness_StreamAnswersAndLimits :
    (exch [] []).takeType 0x12 = none ∧ (exch [] []).takeType 0x13 = none ∧
    (let p := pkt 0x12 1 (key 1 1) 0 []
     let s := exch [sending 1 1] [p]
     ((s.takeType 0x12).any fun y => y.1 = p && !y.2.fromLost p && y.2.cle.streams.find? (fun x => !x.acked && !x.out.isEmpty &&
       cleKey x.exch x.bucket x.shard = p.addr && (s.cle.buckets[x.bucket]?).any fun b => b.dev x.nxt = p.src)
         = some (sending 1 1)) = true) ∧
    (∀ ty ∈ [0x12, 0x13], let p := pkt ty 1 (key 1 1) 0 []
      let s := { exch [] [p] with cke.lost := [(1, true)] }
      ((s.takeType ty).any fun y => y.1 = p && y.2.fromLost p) = true) ∧
    (let p := pkt 0x13 2 (key 9 2) 0 []
     (((exch [] [p]).takeType 0x13).any fun y => y.1 = p && !y.2.exchNow p) = true) ∧
    (let p := pkt 0x13 2 (key 1 2) 0 []
     (((exch [] [p]).takeType 0x13).any fun y => y.1 = p && !y.2.fromLost p && y.2.exchNow p &&
       y.2.pktBucket p = some ring3 && (y.2.chain ring3 2).head? = some (ring3.pos y.2.fab.devid) &&
       p.src = ring3.dev (ring3.ownerPos 2 y.2.isLost) &&
       after (y.2.chain ring3 2) (ring3.pos y.2.fab.devid) = some 1) = true) ∧ ring3.sealed = true ∧
    (exch [] []).cle.buckets[0]? = some ring3 ∧ (stream false 1 2).waitUs ≠ 0 ∧
    (let s := { exch [stream false 1 2] [] with cle.buckets := [{ ring3 with sealed := false }] }
     s.cle.buckets[0]? = some { ring3 with sealed := false } ∧
      (after (s.chain { ring3 with sealed := false } 1) (Bucket.pos { ring3 with sealed := false } s.fab.devid)).isSome = true) ∧
    (∀ x ∈ [(1, 1, none), (2, 1, some 2)], let s := exch [sending x.1 x.2.1] []
     s.cle.streams.find? (fun y => y.gather == false && y.bucket = 0 && y.shard = x.1 && y.exch = s.cle.exch &&
       !y.acked && !y.out.isEmpty) = some (sending x.1 x.2.1) ∧ after (s.chain ring3 x.1) x.2.1 = x.2.2) ∧
    (sending 1 1).timeoutUs ≠ 0 ∧ ring3.deadlineUs ≠ 0 ∧ (exch [] []).cle.isOpen = true ∧
    (exch [] []).cle.closed.contains (0, 0) = false ∧ ring3.len 0 ≠ 0 ∧
    ring3.dev (ring3.ownerPos 0 (exch [] []).isLost) = (exch [] []).fab.devid := by decide +kernel

/-- Core 0 runs the small reduction of group 3, of a tile of 256 bytes, which takes the number 0 of its group. -/
def run3 : SrRun := ⟨0, 8, 3, 0, 256, 100⟩
def reducing (ps : List Packet) : State :=
  { with0 fun k => { k with t.hubRun := [⟨small8, false⟩] } with
    fab := { Fab.reset with inbox := ps.map (1, ·) }
    cle := { Cle.reset with
      srGroup := [(3, 0x40)], srMem := [(24, 0x80000000), (25, 0x80000001)], srRuns := [run3] } }

theorem test_witness_SmallReductionsEnd :
    (reducing []).has64 ∧ (reducing []).takeType 0x19 = none ∧
    (∀ x ∈ [(3, 0, 256, false, true, false), (3, 0, 256, true, true, true), (3, 256, 64, false, true, true),
        (3, 0, 64, false, true, true), (4, 0, 64, false, false, false)],
      let p := pkt 0x19 1 x.1 x.2.1 (List.replicate x.2.2.1 1)
      let pieces := (reducing [p]).cle.srGot ++ [⟨p.addr % 16, fld p.addr 4 16, p.src, p.aux, p.payload, x.2.2.2.1⟩]
      (((reducing [p]).takeType 0x19).any fun y => y.1 = p && !y.2.fromLost p &&
        (y.2.cle.srRuns.find? fun r => r.group = p.addr % 16 && r.count = fld p.addr 4 16)
          = (if x.2.2.2.2.1 then some run3 else none) && srCmd y.2 run3 = some small8) = true ∧
      ((∃ z ∈ pieces, z.group = p.addr % 16 ∧ z.count = fld p.addr 4 16 ∧ (z.differs = true ∨ run3.bytes < z.off + z.data.length ∨
        (z.data.length < 4096 ∧ z.off + z.data.length ≠ run3.bytes))) ↔ (x.2.2.2.2.2 = true ∨ x.1 = 4))) ∧
    (let p := pkt 0x19 1 3 0 []
     let s := { reducing [p] with cke.lost := [(1, true)] }
     ((s.takeType 0x19).any fun y => y.1 = p && y.2.fromLost p) = true) ∧
    srCmd (reducing []) run3 = some small8 ∧ (reducing []).cle.srRuns.find? (fun r => r.group = 3) = some run3 ∧
    run3.timeoutUs ≠ 0 ∧ (reducing []).cle.srRuns.find? (fun r => r.group = 4) = none := by
  unfold State.has64; decide +kernel

/-! Witnesses: parameter update -/

/-- An UPDATE of the map at 0x8000 with the table at 0xB000: one frozen group of rule 0, scaled by 1. -/
def updateCall : CallInfo := call 0x20 [(0x11, 0x80), (0x19, 0xB0)]
def tableBytes : List (Nat × Byte) :=
  [(0xB000, 1), (0xB080, 0x10), (0xB081, 1), (0xB0A2, 0x80), (0xB0A3, 0x3F), (0xB0B4, 1)]

/-- The credit of PUE 0. -/
def pueCredit0 : Credit := ⟨⟨0, 5⟩, 2560, 0, false, false, false, none⟩

/-- Core 0 in the call of UPDATE, with the credit of PUE 0 if wanted. -/
def updating (m : List (Nat × Byte)) (credit : Bool) : State :=
  { member0 (calling updateCall (mem m)) with pwr.credits := if credit then [pueCredit0] else [] }

theorem test_witness_an_update_call_begins :
    (let s := updating (mapBytes ++ tableBytes) true
     s.has64 ∧ s.hub.snoop = [] ∧ s.hub.bisnp = [] ∧ s.cke.rewinding = false ∧ s.dieOfCore 0 = 0 ∧
      s.callOf 0 0x20 = some updateCall ∧ s.callOf 1 0x20 = none ∧ (s.pue 0).call = none ∧ s.pueFree 0 = true ∧ s.pueHeld = false) ∧
    (let s := updating (mapBytes ++ tableBytes) true
     let u := (s.readsMap (pueAgent 0) 0x8000).readsTable 0 0xB000
     let held := (u.readMap 0x8000).ents.filter u.holdsEnt
     let d1 := u.readsDescs (pueAgent 0) held
     let todo := d1.callShards (u.readMap 0x8000) 0
     let d2 := todo.foldl (fun v x => v.readsHeaders 0 x.2) d1
     u.mapBad 0x8000 = false ∧ (u.readMap 0x8000).kind = 0 ∧ u.tableBad 0xB000 = false ∧ held.length = 1 ∧
      (∀ e ∈ held, d2.rangePop e.sdesc 128 = true) ∧ todo.length = 1 ∧
      ∀ x ∈ todo, d2.sdescBad x.1.sdesc = false ∧ d2.shapeBad (u.readTable 0xB000) x.2 = false) ∧
    (let s := updating [] true
     s.callOf 0 0x20 = some updateCall ∧ s.pueFree 0 = true ∧
      ((s.readsMap (pueAgent 0) 0x8000).readsTable 0 0xB000).mapBad 0x8000 = true) ∧
    (State.creditMarked (updating [] true) ⟨0, 5⟩ = false ∧ 2560 ≤ State.creditHeld (updating [] true) ⟨0, 5⟩ ∧
      State.creditHeld (updating [] false) ⟨0, 5⟩ < 2560) := by
  unfold State.has64; decide +kernel

/-- A shard of two blocks with each part in its own place. -/
def shard2 : SDesc := ⟨[0x10000, 0x11000], [0x12000, 0x13000], [0x14000, 0x15000], [0x16000, 0x17000], [0x18000, 0x90000],
  0x1A000, 0x1B000, 0x1C000, 0x1D000, 2, 0, 0, 0x1E000⟩

/-- A group of rule 0. -/
def group (frozen strict dense : Bool) (start : Nat) : Group :=
  ⟨0, frozen, strict, dense, false, 1, start, numZero, numZero, numZero, numZero, numOne, numZero, numZero, 0, 1, []⟩

def table1 (g : Group) : GroupTab := ⟨[g], 0x20000, 0x21000, 0x22000, 0x23000, 0x24000, 0x25000, 0⟩

/-- The map entry of the shard, and a PUE's call on it. -/
def ent0 : MapEnt := ⟨0, 256, 0, none, none, 0, 0, 0x9000, 0x40000, 0⟩
def pueCall (imageDue : Bool) (todo : List (MapEnt × SDesc)) : PueCall :=
  ⟨0, 1, table1 (group true false false 0), todo, [], imageDue, 0, none, [], []⟩

/-- PUE 0 at work. -/
def pueBusy (pc : PueCall) (finals : List ((Nat × Nat) × List Byte)) : State :=
  { calling updateCall Memory.reset with pue0 := { Pue.reset with call := some pc }, cle := { Cle.reset with finals := finals } }

/-- The same while its job is being suspended. -/
def pueAsleep (pc : PueCall) : State :=
  { pueBusy pc [] with hub := { (pueBusy pc []).hub with jobState := .suspending } }

theorem test_witness_UpdateCallsRun :
    (∀ due ∈ [false, true], let pc := pueCall due [(ent0, shard2)]
      let s := pueBusy pc []
      s.has64 ∧ s.hub.snoop = [] ∧ s.hub.bisnp = [] ∧ s.cke.rewinding = false ∧ s.callOf 0 0x20 = some updateCall ∧
      (s.pue 0).call = some pc ∧ pc.core = (0 : CoreId).val ∧ pc.imageDue = due ∧ s.pueHeld = false) ∧
    (let pc := { pueCall false [] with core := 1 }
     ((pueBusy pc []).pue 0).call = some pc ∧ pc.core ≠ (0 : CoreId).val) ∧
    (pueAsleep (pueCall false [])).pueHeld = true ∧
    (let s : State := { updating [] true with pue0 := { Pue.reset with pre := some ⟨1, 1, []⟩ } }
     s.callOf 0 0x20 = some updateCall ∧ (s.pue 0).call = none ∧ s.pueFree 0 = false) := by
  unfold State.has64; decide +kernel

theorem test_witness_UpdateGoesShardByShard :
    State.reset.has64 ∧ (State.reset.pue 0).call = none ∧
    (∀ x ∈ [(false, []), (false, [((0, 0), [])]), (true, [])], let pc := pueCall x.1 [(ent0, shard2)]
      let s := pueBusy pc x.2
      s.has64 ∧ s.hub.snoop = [] ∧ s.hub.bisnp = [] ∧ s.cke.rewinding = false ∧ (s.pue 0).call = some pc ∧ s.pueHeld = false ∧
      s.shardSkipped ent0 = false ∧ s.shardReady ent0 1 = decide (x.2 ≠ []) ∧ (s.pue 0).creditWait = false ∧
      (s.runShard 0 pc shard2 1).fin = .go ∧ (s.runShard 0 pc shard2 1).call.block = 1 ∧
      (s.runShard 0 pc shard2 2).call.block = 2) ∧
    (let pc := pueCall false []
     ((pueBusy pc []).pue 0).call = some pc ∧ pc.todo = []) ∧
    (let e := { ent0 with buddy := some 0 }
     let s := { pueBusy (pueCall false [(e, shard2)]) [] with cke.att.pendingLost := [0] }
     s.shardSkipped e = true) := by
  unfold State.has64; decide +kernel

/-- Two shards, the first of them written. -/
def twoShards : PueCall := pueCall true [(ent0, shard2), ({ ent0 with shard := 1 }, shard2)]

theorem gatherShard_unarmed (s : State) (b j : Nat) (h : s.cle.armed = none) : s.gatherShard b j = s := by
  simp [State.gatherShard, h]

theorem settleDigest_unmapped (s : State) (n : Nat) (h : s.cke.att.map = none) : s.settleDigest n = s := by
  simp [State.settleDigest, h]

theorem finishShard_quiet (s : State) (c : PueCall) (e : MapEnt) (d : SDesc) (h1 : s.cle.armed = none)
    (h2 : s.cke.att.map = none) (h3 : e.buddy = none) :
    (finishShard s 0 c e d).cle.finals = s.cle.finals ∧
    (finishShard s 0 c e d).cke.att.pendingLost = s.cke.att.pendingLost := by
  simp only [finishShard, h3]
  rw [gatherShard_unarmed _ _ _ (by simp [h1]), settleDigest_unmapped _ _ (by simp [h2])]
  constructor <;> simp

theorem test_witness_UpdateGoesOnToTheNextShard :
    let s := pueBusy twoShards []
    (s.pue 0).call = some twoShards ∧ (finishShard s 0 twoShards ent0 shard2).shardSkipped { ent0 with shard := 1 } = false ∧
      (finishShard s 0 twoShards ent0 shard2).shardReady { ent0 with shard := 1 } 1 = false ∧ (s.pue 0).digestEn = true ∧
      s.cle.armed = none ∧ s.populated shard2.digest = true ∧ shard2.digest % 64 = 0 ∧
      (State.pue { s with pue0.digestEn := false } 0).digestEn = false := by
  have hc := finishShard_quiet (pueBusy twoShards []) twoShards ent0 shard2 (by decide +kernel) (by decide +kernel) rfl
  have h1 : (pueBusy twoShards []).cle.finals = [] := rfl
  have h2 : (pueBusy twoShards []).cke.att.pendingLost = [] := by decide +kernel
  refine ⟨rfl, ?_, ?_, by decide +kernel, by decide +kernel, by decide +kernel⟩
  · simp [State.shardSkipped, hc, h2]
  · simp [State.shardReady, hc, h1]

/-- The PUE before block 0 of `shard2`, whose copy 0 is current, with a gradient if wanted. -/
def pueAt (g : Group) (touched : Bool) : PueAcc :=
  ⟨{ State.reset with mem := mem (if touched then [(0x1C001, 1), (0x1D008, 1)] else []) },
    { pueCall false [] with table := table1 g }, .go⟩

theorem test_witness_UpdateWritesTheOtherCopy :
    (∀ x ∈ [(group false false false 2, false), (group true true false 0, true), (group true false false 0, false),
        (group false false false 0, false), (group false false false 0, true)], let a := pueAt x.1 x.2
      let s := (a.st.readHeaders 0 shard2 0).pueReads 0 (shard2.finalRanges 0)
      a.fin = .go ∧ s.blockEntry a.call.table shard2 0 = some (0, 0, x.1) ∧ s.touched shard2 0 = x.2 ∧ x.1.rule ≠ 3) ∧
    (pueAt (group false false false 2) false).call.k < 2 ∧ pl shard2.hdr 1 % 64 = 0 ∧ State.reset.populated 0x11000 = true := by
  decide +kernel

/-- PRECOND of the one tile at 0x9000, of a shard of 512 blocks, every `kk` steps. -/
def precondCall (kk : Byte) : CallInfo := call 0x21 [(0x11, 0x80), (0x18, 1), (0x1C, kk)]
def preconding (kk : Byte) (credit : Bool) (bs : List (Nat × Byte)) : State :=
  { calling (precondCall kk) (mem bs) with pwr.credits := if credit then [pueCredit0] else [] }
def tile1 : List (Nat × Byte) := [(0x8001, 0x90), (0x9071, 2)]

theorem test_witness_PrecondCallsRun :
    (∀ x ∈ [(0, tile1), (3, tile1), (1, tile1), (1, [])], let s := preconding x.1 true x.2
      let ci := precondCall x.1
      let u := s.pueReads 0 [(0x8000, 16 * 1)]
      let ents := (List.range 1).map fun i => (u.numAt (0x8000 + 16 * i) 8, u.numAt (0x8000 + 16 * i + 8) 4)
      let d := u.pueReads 0 (ents.map fun x => (x.1, 128))
      let todo := ents.map fun x => (d.readSDesc x.1, x.2)
      s.has64 ∧ s.hub.snoop = [] ∧ s.hub.bisnp = [] ∧ s.cke.rewinding = false ∧ s.callOf 0 0x21 = some ci ∧
      s.callOf 1 0x21 = none ∧ (s.pue 0).pre = none ∧ s.pueFree 0 = true ∧ s.pueHeld = false ∧
      pbNum ci.pb 0x10 8 = 0x8000 ∧ pbNum ci.pb 0x18 4 = 1 ∧ pbNum ci.pb 0x1C 4 = x.1.toNat ∧
      (x.1 = 3 → s.stepNow.toNat % 3 ≠ 0) ∧ d.readable 0x8000 (16 * 1) = true ∧
      (((∃ x ∈ ents, d.sdescBad x.1 = true) ∨ ∃ x ∈ todo, x.1.nblk < 512 * (x.2 + 1)) ↔ x.2 = [])) ∧
    (∀ r ∈ [PreRun.mk 0 1 [], ⟨1, 1, []⟩], let s : State := { preconding 1 true tile1 with pue0 := { Pue.reset with pre := some r } }
      s.callOf 0 0x21 = some (precondCall 1) ∧ (s.pue 0).pre = some r ∧ s.pueHeld = false) ∧
    (let s : State := { preconding 1 true tile1 with pue0 := { Pue.reset with call := some (pueCall false []) } }
     (s.pue 0).pre = none ∧ s.pueFree 0 = false) := by
  unfold State.has64; decide +kernel

theorem test_witness_PrecondWritesTheInverseRoots :
    (let s := preconding 1 true tile1
     let d := s.readSDesc 0x9000
     let sh := s.readTileHeaders 0 d 0
     sh.curTile d 0 = some 0 ∧ s.cke.table = none ∧ tileAddr d 1 0 % 64 = 0 ∧
      s.populated ((tileAddr d 1 0 + 135168) / 64 * 64) = true ∧
      (precondTile 0 0 (precondCall 1) 1 s (d, 0)).isSome = (sh.curTile d 0).isSome) ∧
    (let d := (preconding 1 true tile1).readSDesc 0x9000
     let s := preconding 1 true (tile1 ++ (List.range 8).flatMap fun i => [(tileAddr d 0 0 + i, 255), (tileAddr d 1 0 + i, 255)])
     ((s.readTileHeaders 0 d 0).curTile d 0 = none ∧ 0 < d.nblk)) ∧
    (∀ todo ∈ [[], [((preconding 1 true tile1).readSDesc 0x9000, 0)]],
      let s : State := { preconding 1 true tile1 with pue0 := { Pue.reset with pre := some ⟨0, 1, todo⟩ } }
      s.has64 ∧ (s.pue 0).pre = some ⟨0, 1, todo⟩) := by
  unfold State.has64
  refine ⟨⟨by decide +kernel, by decide +kernel, by decide +kernel, by decide +kernel, ?_⟩, by decide +kernel, by decide +kernel⟩
  simp only [precondTile, Option.isSome_map]

/-! Witnesses: the commit gate -/

/-- Attempt 0 of step 1 runs on this device, number 0, with the given members. -/
def gate (members : List Nat) (f : Cke → Cke) (ps : List Packet) : State := { State.reset with
  fab := { Fab.reset with inbox := ps.map (1, ·) }
  cle := { Cle.reset with stagedDone := true }
  cke := f { Cke.reset with st := .running, memberCount := members.length, att := { Attempt.reset with
    members := members, exchOpened := true } } }

/-- The hub flag 64, which READY_FLAG names after reset, at 1. -/
def flag64 (s : State) : State := { s with hub.flags := [(64, 1)] }

/-- The packet a step takes of a CKE type, and whether it belongs to the running attempt and comes from a device in use. -/
def takenCke (s : State) (ty : Nat) : Option (Bool × Bool) := (s.takeCke ty).map fun y => (y.2.1, y.2.2.ckeNow y.1)

theorem test_witness_VotesGatherTowardsTheRoot :
    (∀ x ∈ [([0, 1, 2], false), ([5, 0], true)], let s := flag64 (gate x.1 id [])
      s.cke.st = .running ∧ s.cke.rewinding = false ∧ s.flagReady = true ∧ s.stageReady = true ∧ s.digestsIn = true ∧
      s.cke.att.afterRetry = false ∧ s.votesIn = x.2 ∧ s.hub.jobState ≠ .suspended ∧ s.isRoot = !x.2) ∧
    (gate [0, 1] id []).flagReady = false ∧ (gate [0, 1] id []).takeCke 0x21 = none ∧ (gate [0, 1] id []).takeCke 0x22 = none ∧
    (let s := gate [0, 1] id [pkt 0x21 1 1 0 (List.replicate 368 0)]
     takenCke s 0x21 = some (false, true) ∧ s.attemptOpen = true ∧ 1 ∈ s.wards) ∧
    (let s := gate [0, 1] id [pkt 0x21 2 1 0 (List.replicate 368 0)]
     takenCke s 0x21 = some (false, true) ∧ 2 ∉ s.wards) ∧
    (∀ src ∈ [5, 1], let s := gate [5, 0] id [pkt 0x22 src 1 0 []]
      takenCke s 0x22 = some (false, true) ∧ (s.ancestors[s.cke.att.voteTo]? = some src ↔ src = 5)) ∧
    (let s := gate [5, 0] (fun k => { k with st := .voted }) []
     s.cke.st = .voted ∧ s.cke.att.voteAcked = false ∧ s.cke.voteTimeout ≠ 0) := by decide +kernel

/-- The gate's map: entry 0 is owned by device 1 and shadowed here. -/
def gateMap1 : ShardMap := ⟨0, 0, 0, 1, [⟨0, 128, 1, some 0, none, 0, 1, 0x9000, 0x40000, 0⟩]⟩

theorem test_witness_DigestsAndTimeoutsCount :
    (let s := { gate [0, 1] (fun k => { k with att.lossSeen := true }) [] with cle := Cle.reset }
     s.cke.st = .running ∧ s.cke.att.lossSeen = true ∧ s.stageReady = false ∧ s.cke.voteTimeout ≠ 0) ∧
    (gate [0, 1] id []).takeCke 0x20 = none ∧
    (∀ own ∈ [[], List.replicate 40 0, List.replicate 40 1], ∀ src ∈ [1, 2],
      let p := pkt 0x20 src 1 0 (List.replicate 44 0)
      let s := gate [0, 1, 2] (fun k => { k with att.map := some gateMap1, att.digOwn := [(0, own)] }) [p]
      takenCke s 0x20 = some (false, true) ∧
      (s.cke.att.map.bind fun m => m.ents[fld p.addr 24 20]?) = some ⟨0, 128, 1, some 0, none, 0, 1, 0x9000, 0x40000, 0⟩ ∧
      s.cke.att.digRx = [] ∧ sget [] s.cke.att.digOwn 0 = own ∧ s.cke.att.compared = [] ∧ s.compares = true ∧
      s.isLost 1 = false ∧ s.goneNow 1 = false ∧ s.cke.voteTimeout ≠ 0) ∧
    (let s := gate [5, 0] (fun k => { k with st := .voted }) []
     s.cke.st = .voted ∧ s.cke.decTimeout ≠ 0 ∧ (gate [5, 0] id []).cke.st ≠ .voted) := by decide +kernel

theorem test_witness_ProbesFindLostDevices :
    (gate [0, 1] id []).hub.snoop = [] ∧ (gate [0, 1] id []).hub.bisnp = [] ∧
    State.reset.attemptOpen = false ∧
    ((gate [0] id []).attemptOpen = true ∧ (gate [0] id []).cke.st ≠ .ready ∧ (gate [0] id []).probes = []) ∧
    (∀ x ∈ [([], 0), ([2], 0), ([2], 3)], let s := gate [5, 4, 3, 0, 8, 9, 10, 2] (fun k => { k with
        gateCtl := 0x800C40, att.probed := x.1, att.misses := if x.2 = 0 then [] else [(2, x.2)] }) []
      s.attemptOpen = true ∧ s.votesIn = false ∧ s.probes = [2] ∧ s.isRoot = false ∧ 2 ≠ s.rootDev ∧
      (x.2 = 3 ↔ 2 ∈ s.cke.att.probed ∧
        max 1 (fld s.cke.probe.toNat 16 4) ≤ sget 0 s.cke.att.misses 2 + (if 2 ∈ s.cke.att.probed then 1 else 0))) ∧
    (∀ ty ∈ [0x24, 0x25, 0x26], (gate [0] id []).takeCke ty = none ∧
      ((gate [0] id [pkt ty 1 1 0 []]).takeCke ty).map (fun y => y.2.1) = some false ∧
      ((gate [0] (fun k => { k with lost := [(1, true)] }) [pkt ty 1 1 0 []]).takeCke ty).map (fun y => y.2.1) = some true) ∧
    (let s := gate [0, 1, 2] id [pkt 0x26 1 1 0 [2, 0]]
     takenCke s 0x26 = some (false, true) ∧ s.attemptOpen = true ∧ 2 ∉ s.cke.att.pendingLost ∧ s.cke.att.map = none) ∧
    (let s := gate [0, 1, 2] (fun k => { k with att.pendingLost := [2] }) [pkt 0x26 1 1 0 [2, 0]]
     takenCke s 0x26 = some (false, true) ∧ 2 ∈ s.cke.att.pendingLost) ∧
    (State.reset.barOpen = true ∧ State.reset.cke.st = .idle ∧ (gate [0] id []).barOpen = true ∧
      (gate [0] id []).cke.st ≠ .idle) := by decide +kernel

/-- A decision of step 1, attempt 0. -/
def decision (action : Nat) (lost : List Nat) : DecRec := ⟨1, 0, action, true, false, 0, noCkStep, 0, lost, []⟩

/-- The decision a step takes. -/
def takenDec (s : State) (a : Nat) : Option (DecRec × Option Nat) := (s.takeDecision a).1

theorem test_witness_DecisionsAreAppliedOnce :
    (∀ a ∈ [1, 2, 3, 4, 5], takenDec (gate [0] id []) a = none ∧
      takenDec (gate [5, 0] id [pkt 0x23 5 1 0 (decision a []).bytes]) a = some (decision a [], some 5) ∧
      takenDec (gate [5, 0] id [pkt 0x23 5 1 0 (decision a [0]).bytes]) a = some (decision a [0], some 5)) ∧
    (gate [5, 0] id []).fab.devid ∉ (decision 1 []).lost ∧ (gate [5, 0] id []).cke.att.map = none ∧
    (gate [0] id []).takeCke 0x27 = none ∧
    (∀ l ∈ [false, true], ((gate [0, 1] (fun k => { k with lost := [(1, l)] }) [pkt 0x27 1 1 0 []]).takeCke 0x27).map
      (fun y => y.2.1) = some l) ∧
    (gate [0] id []).cke.sentDec = none ∧ (gate [0] id []).cke.resend = [] ∧
    (gate [0, 1] (fun k => { k with sentDec := some (decision 1 []), resend := [1] }) []).cke.sentDec = some (decision 1 []) ∧
    (gate [0] id []).cke.gateCtl.getLsbD 11 = true := by decide +kernel

/-- RESHARD from the map at 0x8000 to itself, and CKPT of that map into HBM, generation 0. -/
def reshardCall : CallInfo := call 0x30 [(0x11, 0x80), (0x19, 0x80)]
def ckptCall : CallInfo := call 0x31 [(0x11, 0x80)]

/-- The map at 0x8000 with its owner another device. -/
def foreignMap : List (Nat × Byte) :=
  [(0x8000, 1), (0x8004, 1), (0x8011, 0x10), (0x8018, 1), (0x8048, 128), (0x8050, 5), (0x8053, 0x80), (0x8055, 0x80), (0x8061, 0x90),
    (0x9070, 1), (0xA000, 5)]

/-- The map at 0x8000 with checkpoints at device 5 and room for a slot. -/
def ckptMap : List (Nat × Byte) :=
  [(0x8000, 1), (0x8004, 1), (0x8011, 0x10), (0x8018, 1), (0x8048, 128), (0x8053, 0x80), (0x8054, 5), (0x8061, 0x90),
    (0x9070, 1), (0xA002, 5)]

/-- The map at 0x8000 again, its one entry with another owner, in memory at 0xC000. -/
def otherMap : List (Nat × Byte) :=
  [(0xC000, 1), (0xC004, 1), (0xC011, 0x10), (0xC018, 1), (0xC048, 128), (0xC053, 0x80), (0xC055, 0x80), (0xC061, 0x90)]

/-- RESHARD from the map at 0x8000, whose shard is device 5's, to that at 0xC000, where it is this device's. -/
def takeOverCall : CallInfo := call 0x30 [(0x11, 0x80), (0x19, 0xC0)]

/-- What a RESHARD from `a` to `b` finds: the state after it has read, whether it is refused, and its moves. -/
def reshardFinds (s : State) (a b share : Nat) : State × Bool × List (Nat × Nat × Nat × Nat × Nat) :=
  let maps := (s.readsMap 0x83 a).readsMap 0x83 b
  let r := if (maps.readMap b).kind = 0 then maps.readsDescs 0x83 (maps.readMap b).ents else maps
  let ma := r.readMap a
  let mb := r.readMap b
  (r, r.mapBad a || r.mapBad b || ma.kind != mb.kind || decide (100 < share) || (ma.kind = 1 && !placeCovered ma.ents mb.ents),
    (if ma.kind = 1 then r.placeMoves ma.ents mb.ents else (r.shardMoves ma.ents mb.ents).map fun (_, x, y, a, n) => (x, a, y, a, n)).filter
      fun (x, _, y, _, _) => !s.isLost x && !s.isLost y)

theorem test_witness_ReshardCalls :
    (let s := member0 (calling reshardCall (mem foreignMap))
     let f := reshardFinds s 0x8000 0x8000 0
     s.has64 ∧ s.hub.snoop = [] ∧ s.hub.bisnp = [] ∧ s.cke.rewinding = false ∧ s.callOf 0 0x31 = none ∧
      s.callOf 0 0x30 = some reshardCall ∧ s.cke.reshard = none ∧ s.cke.arrived = [] ∧
      pbNum reshardCall.pb 0x10 8 = 0x8000 ∧ pbNum reshardCall.pb 0x18 8 = 0x8000 ∧ pbNum reshardCall.pb 0x20 1 = 0 ∧
      f.2.1 = false ∧ f.2.2 = [] ∧ s.owes .reshard = false) ∧
    (let s := { calling takeOverCall (mem (foreignMap ++ otherMap ++ [(0xA002, 0)])) with
        cke.memberCount := 2, cke.memberAddr := 0xA000 }
     let f := reshardFinds s 0x8000 0xC000 0
     s.callOf 0 0x30 = some takeOverCall ∧ pbNum takeOverCall.pb 0x18 8 = 0xC000 ∧ f.2.1 = false ∧ f.2.2 ≠ [] ∧
      (∀ m ∈ f.2.2, m.1 ≠ s.fab.devid) ∧ ∃ m ∈ f.2.2, m.2.2.1 = s.fab.devid) ∧
    (reshardFinds (calling reshardCall Memory.reset) 0x8000 0x8000 0).2.1 = true := by
  unfold State.has64; decide +kernel

/-- What a CKPT of the map at `a` finds: the state after it has read, the entries this device owns, whether it is
refused. -/
def ckptFinds (s : State) (a target : Nat) : State × List MapEnt × Bool :=
  let maps := s.readsMap 0x83 a
  let m := maps.readMap a
  let own := m.ents.filter maps.ownsEnt
  let r := if m.kind = 0 then maps.readsDescs 0x83 own else maps
  (r, own, r.mapBad a || m.kind != 0 || decide (1 < target)
    || own.any (fun e => r.sdescBad e.sdesc || e.ckh.isNone || decide (tier2Base ≤ e.ckaddr) != decide (target = 1))
    || own.zipIdx.any fun x => decide (m.ckBytes < r.slotLen (r.readSDesc x.1.sdesc) (x.2 = 0)))

theorem test_witness_ReshardAndCheckpointCalls :
    (let s := member0 (calling ckptCall (mem foreignMap))
     let f := ckptFinds s 0x8000 0
     s.has64 ∧ s.callOf 0 0x30 = none ∧ s.callOf 0 0x31 = some ckptCall ∧ s.cke.ckpt = none ∧ s.cke.rewinding = false ∧
      pbNum ckptCall.pb 0x10 8 = 0x8000 ∧ pbNum ckptCall.pb 0x18 1 = 0 ∧
      f.2.1 = [] ∧ f.2.2 = false ∧ s.owes .ckpt = false) ∧
    (let s := { calling ckptCall (mem ckptMap) with cke.memberCount := 2, cke.memberAddr := 0xA000 }
     let f := ckptFinds s 0x8000 0
     s.callOf 0 0x31 = some ckptCall ∧ f.2.1 ≠ [] ∧ f.2.2 = false) ∧
    (ckptFinds (calling ckptCall Memory.reset) 0x8000 0).2.2 = true ∧
    (let s := { State.reset with cke := { Cke.reset with reshard := some ⟨0, [], []⟩, ckpt := some ⟨0, 0, 0, [], [], false⟩ } }
     s.cke.reshard.isSome = true ∧ s.cke.ckpt.isSome = true) := by
  unfold State.has64; decide +kernel

/-! Witnesses: rings and jobs -/

/-- Ring `q` enabled with entry 0 not yet read, and the hub as given. -/
def ringed (q : Nat) (f : Hub → Hub) : State := { State.reset with
  hub := f { Hub.reset with rings := [(q, { Ring.reset with en := true, sqTail := 1 })] } }

/-- An entry for job 77, with an aligned ADDR in HBM or none. -/
def entry (addr : Nat) : SqEntry := ⟨1, false, 77, BitVec.ofNat 64 addr, 5, false⟩

/-- Job 77 runs, or is suspended with its image at 0x100000. -/
def ran (st : JobState) (h : Hub) : Hub := { h with jobState := st, job := some job0 }
def asleep : Suspended := ⟨{ job0 with imageAddr := 0x100000 }, [], [], Cle.reset, [], (none, none), (none, none)⟩

theorem test_witness_RingEntriesAreHandled :
    (∀ q < 4, (ringed q id).hub.snoop = [] ∧ (ringed q id).hub.bisnp = [] ∧ State.reset.entryDue q = false ∧
      (ringed q id).entryDue q = true ∧ ((ringed q id).ring q).nops = [] ∧ ((ringed q id).ring q).unanswered = []) ∧
    (∀ op ∈ [1, 2, 3, 4, 5], (ringed 0 id).entryBad op (if op < 4 then entry 0x100000 else entry 0) = false ∧
      (ringed 0 id).entryBad op { entry 0 with jobId := 0 } = true) ∧
    (∀ st ∈ [JobState.running, .halted], ((ringed 3 (ran st)).hub.job = some job0 ∧ job0.jobId = (entry 0).jobId.toNat ∧
      (ringed 3 (ran st)).hub.susp = none ∧ (ringed 3 (ran st)).hub.jobState = st)) ∧
    (ringed 0 (ran .running)).exchangeSealed = false ∧
    State.exchangeSealed { ringed 0 (ran .running) with
      cle := { Cle.reset with isOpen := true, buckets := [{ bucket0 with sealed := true }] } } = true ∧
    ¬(jobIs (ringed 0 id).hub.job (entry 0x100000) = true) ∧
    (let s := ringed 0 fun h => { h with susp := some asleep }
     s.hub.susp = some asleep ∧ asleep.job.jobId = (entry 0x100000).jobId.toNat ∧ s.hub.job = none ∧
      s.hub.resetSince = false ∧ asleep.job.haltCode = none ∧
      asleep.job.imageAddr = (entry 0x100000).addr.toNat) ∧
    (∀ p, (ringed 0 fun h => { h with susp := some asleep, resetSince := true }).hub.susp = some p →
      ¬((ringed 0 fun h => { h with susp := some asleep, resetSince := true }).hub.resetSince = false)) ∧
    ((∃ c ∈ coresOfMask job0.coreMask, (State.core { with0 (fun k => { k with q.call := some softmaxCall }) with
        cores := (with0 (fun k => { k with q.call := some softmaxCall })).cores.map haltCore } c).quiet = false)) ∧
    ((∀ c ∈ coresOfMask job0.coreMask, (State.core { ringed 0 (ran .running) with
        cores := (ringed 0 (ran .running)).cores.map haltCore } c).quiet = true)) := by
  decide +kernel

/-- A START of the descriptor at 0x8000: core 0, its list at the quadword at 0xA000 (0). -/
def descBytes : List (Nat × Byte) := [(0x8000, 1), (0x8008, 1), (0x8010, 1)]
def inited (m : Memory) : Memory := { m with die0 := { m.die0 with initDone := true }, die1 := { m.die1 with initDone := true } }
def starting (bs : List (Nat × Byte)) : State := { State.reset with
  mem := inited (mem bs), hub := { Hub.reset with startQ := [⟨0, 0, 77, 5, true, 0x8000⟩] } }
def jobRuns (st : JobState) (f : Core → Core) : State := { with0 f with hub := ran st Hub.reset }

theorem test_witness_JobsStartAndEnd :
    (∀ bs ∈ [descBytes, []], let s := starting bs
      s.hub.snoop = [] ∧ s.hub.bisnp = [] ∧ s.has64 ∧ s.hub.startQ = [⟨0, 0, 77, 5, true, 0x8000⟩] ∧ s.hub.job = none ∧
      s.hub.waitingCq.length ≤ 64 ∧ s.memReady = true ∧ (s.readDesc 0x8000).descBad 0x8000 = decide (bs = [])) ∧
    (∀ e ∈ [SeqState.ended, .dispatching], let s := jobRuns .running fun k => { k with q.seq := e }
      s.hub.job = some job0 ∧ s.hub.jobState = .running ∧
      ((coresOfMask job0.coreMask).all fun c => (s.core c).quiet && (s.core c).q.seq = .ended) = decide (e = .ended)) ∧
    (jobRuns .running id).cqRoom job0.ring = false ∧
    (let s := ringed 0 (ran .running)
     s.cqRoom job0.ring = true ∧ s.hub.waitingCq = []) ∧
    ((jobRuns .terminating id).hub.job = some job0 ∧ (jobRuns .terminating id).hub.jobState = .terminating) ∧
    (State.reset.hub.jobState ≠ .running ∧ State.reset.hub.jobState ≠ .terminating) := by
  unfold State.has64; decide +kernel

theorem test_witness_SuspendedWritesTheImage :
    State.reset.hub.jobState ≠ .suspending ∧
    (∀ e ∈ [SeqState.haltSched, .dispatching], let s := jobRuns .suspending fun k => { k with q.seq := e }
      s.hub.snoop = [] ∧ s.hub.bisnp = [] ∧ s.hub.job = some job0 ∧ s.hub.jobState = .suspending ∧
      ((∃ c ∈ coresOfMask job0.coreMask, (s.core c).suspended = false) ↔ e = .dispatching) ∧
      ((∀ c ∈ coresOfMask job0.coreMask, (s.core c).suspended = true) ↔ e = .haltSched)) := by
  decide +kernel

/-! Witnesses: the host's side of the hub -/

/-- The decoder committed and both dies ready. -/
def open_ (m : Memory) : State := { State.reset with mem := inited m, hub := { Hub.reset with hdmCommitted := true } }

theorem test_witness_HostAccessesDeviceMemory :
    (State.hub { State.reset with hub := { Hub.reset with linkUp := false } }).linkUp = false ∧
    (State.reset.hub.linkUp = true ∧ State.reset.hub.hdmCommitted = false ∧ State.reset.pmu.hubCtl = 0) ∧
    (∀ p ∈ [false, true], ∀ l ∈ [0, 4], ∀ hits ∈ [[], [LineHit.mk 9 3 false 0]],
      let s := open_ { mem [(256, 7)] with poison := if p then [(4, true)] else [] }
      let u := s.hitLines hits
      s.hub.linkUp = true ∧ s.hub.hdmCommitted = true ∧ s.err.offline = false ∧ s.memReady = true ∧
      (∀ i < 64, s.populated (64 * l + i) = true) ∧ u.populated (64 * l) = true ∧ u.poisoned (64 * l) = (p && l == 4) ∧
      u.lineErr (64 * l) = LineErr.none ∧ s.pmu.hubCtl = 0 ∧ s.hub.snoop.Nodup) := by
  decide +kernel

theorem test_witness_HostEventsChangeTheHub :
    (let s := { State.reset with hub := { Hub.reset with bisnp := [3] } }
     s.hub.bisnp.contains 3 = true ∧ s.hub.bisnp.contains 4 = false) ∧
    (let s := { State.reset with hub := { Hub.reset with linkUp := false } }
     s.hub.linkUp = false ∧ s.barOpen = false ∧
     (s.hub.perstN = true ∧ s.pwr.stagesOn = true ∧ s.pwr.hubLost = false) ∧ s.hub.waitingCq = []) ∧
    (State.reset.hub.linkUp = true ∧ State.reset.barOpen = true ∧ State.reset.hub.modOpen = false) ∧
    (let s := { State.reset with hub := { Hub.reset with modOpen := true } }
     s.hub.modOpen = true ∧ s.hub.modPending = false) ∧
    (State.reset.has64 ∧ State.reset.coreWindow 0 = true ∧ State.reset.coreWindow 63 = true) ∧
    (State.coreWindow { State.reset with ident.grade := .g48 } 63 = false) ∧
    State.reset.pmu.hubCtl = 0 := by
  unfold State.has64; decide +kernel

theorem test_witness_RingLinesAreRead :
    (∀ q < 4, (State.reset.ring q).en = false ∧ State.reset.barOpen = true ∧ State.reset.hub.waitingCq = [] ∧
      ((ringed q id).ring q).en = true ∧ (ringed q id).barOpen = true ∧ (ringed q id).hub.linkUp = true ∧
      (ringed q id).err.offline = false ∧
      ((16 : Word32) - ((ringed q id).ring q).sqHead).toNat ≤ 2 ^ ((ringed q id).ring q).log2n ∧
      2 ^ ((ringed q id).ring q).log2n < ((17 : Word32) - ((ringed q id).ring q).sqHead).toNat) := by
  decide +kernel

/-! Witnesses: resets, errors and memory -/

theorem test_witness_ResetsKeepWhatTheSpecKeeps :
    (let s : State := { State.reset with top.armed := true }
     s.has64 ∧ s.resetOpen = true ∧ s.top.armed = true ∧ s.pmu.hubCtl = (0 : Word32) ∧ s.pwr.stagesOn = true ∧ s.top.coldDue = false) ∧
    (∀ n ∈ [8, 9, 10], let w : Word32 := 1 <<< n
      w.toNat % 256 = 0 ∧ (∀ i ∈ [8, 9, 10], w.getLsbD i = decide (i = n))) ∧
    (∀ b ∈ [(0 : Fin 3), 1], b ≠ 2) ∧ State.reset.pmu.hubCtl = 0 ∧ State.reset.err.fatal0 = none ∧
    State.resetOpen { State.reset with hub.linkUp := false } = false ∧
    (∀ d < 2, (State.reset.mem.die d).initDone = false ∧ (State.reset.mem.die d).offline = false ∧
      ((inited Memory.reset).die d).initDone = true) := by
  unfold State.has64; decide +kernel

/-- An occurrence of a class. -/
def occ (cls : ErrClass) : Occ := ⟨0x0102, cls, 0, 0, 0, 0, 5, false, false, none⟩

/-- The error block with one occurrence queued, its ring holding the records of the classes given, all of unit 7. -/
def errs (o : ErrClass) (log : List ErrClass) : State := { ringed 0 (ran .running) with
  err := { Err.reset with
    queue := [occ o], valid := BitVec.ofNat 32 (2 ^ log.length - 1)
    log := log.zipIdx.map fun x => (x.2, some (newRec { occ x.1 with code := 0x0701 } x.1 x.2)) } }

theorem test_witness_ErrorsBecomeRecords :
    (∀ x ∈ [ErrClass.c, .k, .d, .f], let s := errs x []
      s.hub.snoop = [] ∧ s.hub.bisnp = [] ∧ s.err.queue = [occ x] ∧ s.err.held = [] ∧ s.err.mergeSlot (occ x) = none ∧
      s.err.freeSlot = some 0 ∧ s.err.fatal0 = none ∧ s.err.handling = false ∧ s.err.offline = false ∧
      s.hub.job = some job0) ∧
    Err.mergeSlot { (errs .c []).err with valid := 1, log := [(0, some (newRec (occ .c) .c 0))] } (occ .c) = some 0 ∧
    (let s := errs .c (List.replicate 32 .c)
     s.err.mergeSlot (occ .c) = none ∧ s.err.freeSlot = none ∧ (occ .c).cls.raised ≠ .f ∧
      s.err.displaceSlot (occ .c).cls.raised = some 0) ∧
    (let s := errs .c (List.replicate 32 .d)
     s.err.mergeSlot (occ .c) = none ∧ s.err.freeSlot = none ∧ s.err.displaceSlot (occ .c).cls.raised = none) := by
  decide +kernel

theorem test_witness_ErrorRegistersAct :
    (State.reset.pwr.stagesOn && State.reset.hub.linkUp) = true ∧ State.reset.barOpen = true ∧
    State.barOpen { State.reset with err.offline := true } = false ∧
    State.err { State.reset with err.handling := true } ≠ State.reset.err ∧
    (State.reset.has64 ∧ State.reset.coreWindow 0 = true ∧ State.reset.err.queue.length < 256) ∧
    (∀ d < 2, State.reset.dieDown d = false ∧
      State.dieDown { State.reset with pwr.die0Lost := true, pwr.die1Lost := true } d = true) ∧
    (∀ x ∈ [(RegWrite.all 0x2000001, true), (.low 0x2000001, true), (.high 1, false), (.low 1, false)],
      let v := mergeWrite State.reset.err.injHeld x.1
      (writesLow x.1 = true ∧ v.getLsbD 25 = true ∧ v.toNat % 256 ≠ 0 ↔ x.2 = true)) ∧
    (∀ x ∈ [(RegWrite.all 0x20000000000040, true), (.high 0x200000, true), (.low 64, false)],
      let v := mergeWrite (State.reset.mem.die 0).injHeld x.1
      (writesHigh x.1 = true ∧ v.getLsbD 53 = true ∧ State.reset.place (64 * fld v.toNat 6 46) = .hbm 0 ↔ x.2 = true)) := by
  unfold State.has64; decide +kernel

theorem test_witness_MemoryIsScrubbedAndFails :
    (let s := { State.reset with mem := inited Memory.reset }
     ∀ d < 2, ((s.mem.die d).ctl.getLsbD 0 && (s.mem.die d).initDone && !(s.mem.die d).offline) = true ∧
      ∀ n < 10, s.populated (stackAddr 10 d n 0) = true ∧ s.poisoned (stackAddr 10 d n 0) = false ∧
        (s.lineErr (stackAddr 10 d n 0)).symbols = 0) ∧
    (∀ x ∈ [(7, 3), (31, 5)], let u := { State.reset with mem := inited Memory.reset }.hitLines [⟨stackAddr 10 0 0 0 / 64, x.1, false, 0⟩]
      u.populated (stackAddr 10 0 0 0) = true ∧ u.poisoned (stackAddr 10 0 0 0) = false ∧
        (u.lineErr (stackAddr 10 0 0 0)).symbols = x.2) ∧
    (∀ d < 2, ∀ n < 10, n < State.reset.ident.grade.stacks ∧ (State.reset.mem.die d).offline = false ∧
      State.reset.pwr.stagesOn = true ∧ ((State.reset.mem.die d).initDone = false ∨ 64 ≤ State.reset.recentUe d n)) ∧
    (∀ p < 2, (State.reset.mem.port p).linkUp = false ∧ (State.reset.mem.port p).mapped = false) ∧
    (∀ i ∈ [false, true], let x : T2Port := ⟨true, 8, 5, true, false, 0, 256⟩
      let m := { Memory.reset with t2 := [(0, x), (1, x)], intlv := i }
      (m.port 0).linkUp = true ∧ (m.port 1).mapped = true ∧ m.interleaved = i) := by
  decide +kernel

/-! Witnesses: counters, registers, power -/

/-- The hub's and core 0's monitors. -/
def counting (f : Pmu → Pmu) (g : PmuCore → PmuCore) : State := { with0 (fun k => { k with pmu := g k.pmu }) with pmu := f Pmu.reset }

/-- A waiting sample. -/
def samp (precise : Bool) : Sample := ⟨0, 0, precise, SampCmd.none, 0, 0, 0, 0⟩

theorem test_witness_CountersSnapshotsAndSamples :
    (State.reset.hub.snoop = [] ∧ State.reset.hub.bisnp = [] ∧ State.reset.has64 ∧ State.reset.barOpen = true ∧
      State.reset.pmu.jobTrig = 0 ∧ State.reset.pmu.images = [] ∧ State.reset.pmu.waits = none ∧
      (State.reset.barOpen && (1 : Word32).getLsbD 0) = true) ∧
    State.rangePop State.reset State.reset.pmu.snapAddr.toNat imageLen = true ∧
    decide (0 < (counting (fun p => { p with jobTrig := 1 }) id).pmu.jobTrig) = true ∧
    (let s := counting (fun p => { p with images := [⟨0, false, [1, 2], some 0x8000⟩] }) id
     s.pmu.images ≠ [] ∧ s.pmu.waits = none ∧ s.rangePop 0x8000 2 = true ∧ s.populated 0x8001 = true) ∧
    (let s := counting (fun p => { p with images := [⟨0, false, [], none⟩], waits := some true }) id
     s.pmu.images ≠ [] ∧ s.pmu.waits ≠ none) ∧
    (let s := counting (fun p => { p with ctl := 0, hubCtl := 0xFFFF }) (fun p => { p with ctl := 0x3FF })
     s.frozen = false ∧ (∀ i < 16, s.pmu.hubCtl.getLsbD i = true) ∧ (∀ i < 10, (s.core 0).pmu.ctl.getLsbD i = true) ∧
      (∀ i < 8, sget 0 (s.core 0).pmu.cnt i + 8191 < 2 ^ 48)) ∧
    (2 ^ 48 ≤ sget 0 (counting (fun p => { p with cnt := [(0, 2 ^ 48 - 1)] }) id).pmu.cnt 0 + 1) ∧
    (State.frozen State.reset = false ∨ State.frozen (counting (fun p => { p with ctl := 1 }) id) = true) ∧
    (∀ b ∈ [false, true], let s := counting (fun p => { p with ctl := 0 }) (fun p => { p with waiting := [samp b] })
      let k := s.core 0
      (k.pmu.waiting.find? fun x => x.precise == b) = some (samp b) ∧ (b = true ∨ s.frozen = false) ∧
      k.pmu.waiting = [samp b] ∧ (k.pmu.wptr - k.pmu.rptr).toNat ≠ 2 ^ fld k.pmu.sampCtl.toNat 0 5 ∧
      s.rangePop k.pmu.sampBase.toNat (64 * 2 ^ fld k.pmu.sampCtl.toNat 0 5) = true) ∧
    (let k := (counting id (fun p => { p with wptr := 1024 })).core 0
     k.pmu.sampCtl.getLsbD 5 = false ∧ (k.pmu.wptr - k.pmu.rptr).toNat = 2 ^ fld k.pmu.sampCtl.toNat 0 5) := by
  unfold State.has64; decide +kernel

/-- The management subsystem ready, with what else is wanted. -/
def managed (f : Mss → Mss) : State := { State.reset with mss := f { Mss.reset with st := .ready } }

theorem test_witness_RegisterWritesReachTheirRegisters :
    (State.reset.has64 ∧ State.reset.barOpen = true ∧ State.reset.mss.own = false ∧ State.reset.mss.full = false) ∧
    (managed fun m => { m with own := true }).mss.own = true ∧
    (∀ f ∈ [true, false], let s := managed fun m => { m with full := true, m2hQueue := if f then [⟨.version, .success, [], []⟩] else [] }
      s.mss.full = true ∧ s.mssAwake = true ∧ (s.mss.m2hQueue = [] ↔ f = false)) ∧
    State.fabRunning State.reset = false ∧
    State.fabRunning { State.reset with fab.ports := [(3, { Port.reset with state := 1 })] } = true ∧
    (accessBad 0x100 2 = true ∧ accessBad 0x102 4 = true ∧ accessBad 0x100 4 = false ∧ accessBad 0x100 8 = false) ∧
    (State.reset.coreWindow 0 = true ∧ State.reset.coreWindow 63 = true) ∧
    State.coreWindow { State.reset with pwr.die0Lost := true } 0 = false := by
  unfold State.has64; decide +kernel

/-- The stages off. -/
def offState : State := { State.reset with pwr := { Pwr.reset with stagesOn := false, state := .standby } }

theorem test_witness_PowerFaultsTurnTheStagesOff :
    (State.reset.pwr.stagesOn = true ∧ offState.pwr.stagesOn = false ∧ State.reset.err.fatal0 = none ∧ State.reset.has64) ∧
    (State.err { State.reset with err.fatal0 := some (newRec (occ .f) .f 0) }).fatal0.isSome = true ∧
    (State.reset.pwr.vstbyOk = true ∧ State.reset.pwr.thermTrip = false ∧ State.reset.pwr.leakLatch = false) ∧
    (let s := { managed id with pwr := offState.pwr }
     (!s.pwr.stagesOn && s.pwr.vstbyOk && !s.pwr.thermTrip && !s.pwr.leakLatch && !s.pwr.hubLost && !s.pwr.vinHold &&
      !s.mss.held && !s.mss.testHigh && s.mss.tap ≠ .extest && s.mss.st = .ready) = true) ∧
    (State.reset.pwr.vinLow = false ∧ State.reset.pwr.vinHigh = false) ∧
    (∀ e < 8, bitAt State.reset.pwr.oeDark e = false ∧ (e < State.reset.ident.grade.engines ↔ e < 8)) ∧
    (∀ n < 3, bitAt State.reset.pwr.stageHot n = false) ∧ (∀ d < 2, State.reset.dieDown d = false) := by
  unfold State.has64; decide +kernel

/-- Power after reset with credits, requests and a throttle step. -/
def powered (cs : List Credit) (ws : List CreditReq) (throttle : Nat) (f : Pwr → Pwr) : State := { State.reset with
  pwr := f { Pwr.reset with credits := cs, waiting := ws, throttle := throttle } }

/-- A grant period of 48 V, 40 A and 1000 W in which nothing else was drawn, measured as the statement does. -/
def period0 (s : State) : State := { s with pwr := { s.pwr with
  period := s.pwr.period + 1, pkgLimit := s.pwr.pkgLimitNext, vinMv := 48000, iinMa := 40000, pkgW := 1000, uncredW := 0
  uncred := (0 :: s.pwr.uncred).take 10
  grantedHist := (0 :: s.pwr.grantedHist).take 10, releasedHist := (0 :: s.pwr.releasedHist).take 10 } }

/-- A credit of array 0 of a core, and a request for one of core 1. -/
def held0 (core n : Nat) (marked : Bool) (want : Option (PwrUnit × Nat)) : Credit := ⟨⟨core, 0⟩, n, 0, false, marked, false, want⟩
def asks1 (n period : Nat) : CreditReq := ⟨⟨1, 0⟩, n, period, false⟩

theorem test_witness_ArbiterGrantsAndThrottles :
    (let m := period0 (powered [held0 0 1000000 false none] [asks1 10 0] 0 id)
     m.pwr.budget < m.creditsHeld ∧ ∀ x ∈ m.pwr.credits, x.want = none) ∧
    (let m := period0 (powered [] [asks1 10 0] 8 id)
     m.creditsHeld ≤ m.pwr.budget) ∧
    (let m := period0 (powered [] [asks1 1000000 0] 0 id)
     m.creditsHeld ≤ m.pwr.budget ∧ m.oldestReq = some (asks1 1000000 0) ∧ m.freeBudget < m.scaled ⟨1, 0⟩ 1000000) ∧
    (let s := powered [] [asks1 10 0] 0 fun p => { p with uncred := List.replicate 9 0 }
     let m := period0 s
     m.creditsHeld ≤ m.pwr.budget ∧ s.pwr.step (s.unitDie ⟨1, 0⟩) < 8 ∧ m.scaled ⟨1, 0⟩ 10 ≤ m.freeBudget ∧
      m.scaled ⟨1, 0⟩ 10 ≤ m.pwr.allow m.pwr.grantedHist) ∧
    (let x := held0 0 10 true (some (⟨0, 0⟩, 10))
     let s := powered [x] [asks1 10 0] 0 fun p => { p with uncred := List.replicate 9 0 }
     let m := period0 s
     s.pwr.credits = [x] ∧ x.want = some (⟨0, 0⟩, 10) ∧ x.ballast = false ∧ x.excess = false ∧ s.pwr.waiting = [asks1 10 0] ∧
      (asks1 10 0).who.unit ≠ 6 ∧ (asks1 10 0).who ≠ x.who ∧ m.creditsHeld ≤ m.pwr.budget ∧
      m.scaled ⟨1, 0⟩ 10 ≤ (m.dropCredit x.who).freeBudget ∧ s.pwr.step (s.unitDie ⟨1, 0⟩) < 8) ∧
    (let s := powered [] [asks1 10 3] 0 fun p => { p with period := 3 + p.ageUs }
     s.oldestReq = some (asks1 10 3) ∧ s.pwr.ageUs ≠ 0 ∧ 3 + s.pwr.ageUs ≤ s.pwr.period) ∧
    (let s := powered [] [asks1 10 3] 0 fun p => { p with period := 2 + p.ageUs }
     s.pwr.period < 3 + s.pwr.ageUs) ∧
    (∀ n ∈ [10, 1000000], let x : Credit := { held0 1 n false none with ballast := true }
     let s := powered [x] [] 0 id
     s.pwr.credits.find? (fun x => x.who = (⟨1, 0⟩ : PwrUnit)) = some x ∧
      (s.scaled ⟨1, 0⟩ n ≤ s.pwr.allow s.pwr.releasedHist ↔ n = 10)) ∧
    (State.reset.pwr.inEpisode = false ∧ (powered [] [] 1 fun p => { p with inEpisode := true }).pwr.inEpisode = true) ∧
    (∀ d < 3, (State.reset.pwr.therm d).2 = false) := by
  decide +kernel

theorem test_witness_PlansComparatorsAndClocks :
    (State.reset.pwr.stagesOn = true ∧ State.reset.pwr.vdd 0 ≤ 815 ∧ State.reset.pwr.alarm = false ∧
      offState.pwr.stagesOn = false) ∧
    (let s := powered [] [] 0 fun p => { p with vddUpC1 := 160 }
     815 < s.pwr.vdd 1 ∧ 61 ≤ (s.pwr.plan 1).2) ∧
    (let s := powered [] [] 0 fun p => { p with cmps := [(7, ⟨0, 7⟩)] }
     let x := sget AoCmp.reset s.pwr.cmps 7
     x.ctl.getLsbD 0 = true ∧ x.value.toNat ≤ s.pwr.aoTime.toNat ∧ x.ctl.getLsbD 2 = true ∧ s.hub.linkUp = true ∧
      (sget AoCmp.reset s.pwr.cmps 0).ctl.getLsbD 0 = false) ∧
    (State.reset.clockHeld 0 = false ∧ (jobRuns .running id).clockHeld 0 = true) ∧
    (State.reset.hub.jobState = .none ∧ 9 < State.reset.ident.grade.stacks) := by
  refine ⟨⟨rfl, ?_, rfl, rfl⟩, ⟨?_, by decide +kernel⟩, by decide +kernel, by decide +kernel, by decide +kernel⟩
  · simp only [Pwr.vdd, show (State.reset.pwr.plan 0).1 = 0 from rfl]; omega
  · simp only [Pwr.vdd, show ((powered [] [] 0 fun p => { p with vddUpC1 := 160 }).pwr.plan 1).1 = 160 from rfl]; omega

/-- A laser module that is lit, and the fabric with such modules. -/
def lit : Laser := { Laser.reset with en := true, driven := true, identified := true, faultN := true }
def fabric (f : Fab → Fab) : State := { State.reset with
  fab := f { Fab.reset with en := true, devidValid := true, lasers := List.replicate 4 lit } }

/-- Port 0 as given. -/
def porting (f : Port → Port) : State := fabric fun b => { b with ports := [(0, f Port.reset)] }

theorem test_witness_LightAndPortsFollowTheirStates :
    (State.reset.barOpen = true ∧ State.barOpen { State.reset with err.offline := true } = false) ∧
    (∀ m < 4, ((fabric id).fab.lasers.getD m Laser.reset).driven = true ∧ (State.reset.fab.lasers.getD m Laser.reset).driven = false ∧
      m < State.reset.ident.grade.lasers) ∧
    ((1099 : BitVec 16).toInt < 1100 ∧ (999 : BitVec 16).toInt < 1000 ∧ (0xFFFF : BitVec 16).toInt < 1000) ∧
    (State.reset.pwr.vstbyOk = true ∧ State.reset.mss.held = false) ∧
    (let r : LaserReading := ⟨0x5A31, 0x0904, 0x8005, 40, [1200]⟩
     (State.reset.fab.lasers.getD 3 Laser.reset).assigned = false ∧ r.cls = 0x5A31 ∧ r.grid = 0x0904 ∧ r.fault.toNat % 8 ≠ 0 ∧
     ({ r with fault := 0x8008 } : LaserReading).fault.toNat % 8 = 0) ∧
    (∀ n < 7, let s := porting fun p => { p with state := n, fast := true }
      s.portPresent 0 = true ∧ s.portPresent 1 = false ∧ s.portsHeld = false ∧ s.engineLit 0 = true ∧ (s.port 0).state = n ∧
      (s.port 0).fast = true ∧ (s.port 0).quiesced = false ∧ (s.port 0).en = true) ∧
    State.engineLit State.reset 0 = false ∧
    (∀ e ∈ [false, true], let x := (porting fun p => { p with state := 4, quiesce := true, en := e }).port 0
      x.state = 4 ∧ (x.quiesce = true ∨ x.en = false) ∧ x.queue = [] ∧ x.unacked = [] ∧ x.en = e) := by
  decide +kernel

/-- A flit: TYPE and SEQ, its content and its CRC (R261). -/
def flit (ty seq : Nat) (content : List Byte) : List Byte :=
  let body := (leBytes 2 (ty + seq <<< 3) ++ content ++ List.replicate 250 0).take 252
  body ++ leBytes 4 (crc32c body)

theorem test_witness_LinksCarryFlits :
    (∀ r ∈ [false, true], ∀ w ∈ [0, 9], let s := porting fun p => { p with state := 3, recovering := r, wasDev := w, wasPort := 3 }
      let x := s.port 0
      x.state = 3 ∧ x.recovering = r ∧ s.fab.streamQ = [] ∧ ¬(partner.devid.toNat = s.fab.devid ∨ partner.split ≠ sget false s.fab.split 0 ∨ partner.el9200 = false) ∧
      8 ≤ min (if x.recovering && x.fast && x.width ≠ 0 then x.width else 32) (min (s.usableWidth 0) partner.width.toNat) ∧
      (x.wasDev = partner.devid.toNat ∧ x.wasPort = partner.port.val ↔ w = 9)) ∧
    ({ partner with el9200 := false } : PartnerId).el9200 = false ∧
    min (min 32 (State.usableWidth State.reset 0)) ({ partner with width := 4 } : PartnerId).width.toNat < 8 := by
  decide +kernel

theorem test_witness_lanes :
    (∀ sp ∈ [0, 15], ∀ lane < 36, ∀ st ∈ [2, 4], ∀ th ∈ [0, 10],
      let s := { porting fun p => { p with state := st } with fab.spareFree := [(0, sp)], fab.spareThresh := th }
      ¬(¬(2 ≤ (s.port 0).state ∧ (s.port 0).state ≤ 5) ∨ bitAt (sget 0 s.fab.dead 0) lane = true) ∧
      bitAt (sget 0 s.fab.spareFree 0) (lane / 9) = decide (sp = 15) ∧ lane / 9 ∈ s.fibresOf 0 ∧ s.portPresent 0 = true ∧
      (∀ n ∈ [10, 11], s.fab.spareThresh ≠ 0 ∧ s.fab.spareThresh < n ↔ th = 10 ∧ n = 11)) ∧
    (∀ k ∈ [0, 3], let s := { porting fun p => { p with state := 4 } with fab.unmarked := [(5, k)] }
      (∀ l < 36, (if l = 5 then sget 0 s.fab.unmarked l + 1 else 0) = 4 ↔ k = 3 ∧ l = 5) ∧ s.portPresent 0 = true ∧ (s.port 0).state = 4) := by
  decide +kernel

theorem test_witness_flits :
    (∀ x ∈ [(0, 0), (1, 0), (2, 0), (0, 5)], let fl := flit x.1 x.2 []
      fl.length = 256 ∧ crc32c (fl.take 252) = ofLE (fl.drop 252) ∧ fld (ofLE (fl.take 2)) 0 3 = x.1 ∧
      fld (ofLE (fl.take 2)) 3 13 = x.2) ∧
    ¬((flit 0 0 []).set 7 1).length = 255 ∧ crc32c (((flit 0 0 []).set 7 1).take 252) ≠ ofLE (((flit 0 0 []).set 7 1).drop 252) ∧
    (let x := (porting fun p => { p with state := 4 }).port 0
     x.state = 4 ∧ x.rxGap = none ∧ x.rxNext = 0 ∧ x.queue = []) ∧
    (porting fun p => { p with state := 4, rxGap := some 4 }).port 0 ≠ Port.reset ∧
    (∀ x ∈ [(0, 0, false), (0x4000, 0, true), (0x4000, 7, true)], let fl := flit 1 0 (leBytes 2 x.1)
      let p := (porting fun p => { p with state := 4, nakCount := x.2.1 }).port 0
      let num := ofLE ((fl.drop 2).take 2)
      bitAt num 14 = x.2.2 ∧ (p.nakSeq = num % 8192) ∧ (8 ≤ p.nakCount + 1 ↔ x.2.1 = 7)) := by
  decide +kernel

/-- A packet for this device, with everything open to it in the window at 0x8000. -/
def arrived (p : Packet) (f : Fab → Fab) : State := { calling softmaxCall Memory.reset with
  fab := f { Fab.reset with
    inbox := [(0, p)], rwinBase := [(0, 0x8007)], rwinLimit := [(0, 0x8FC0)] } }
def asked (o : ReqOwner) (tries : Nat) : Request := ⟨{ pkt 0x03 0 0x8000 0 [] with dst := 1, len := 64 }, o, tries⟩

theorem test_witness_PacketsReachTheHub :
    (∀ ty ∈ [0x01, 0x02, 0x03, 0x04, 0x05, 0x06, 0x07, 0x08, 0x30, 0x31],
      let p := pkt ty 1 0x8000 (2 ^ 64 - 1) (List.replicate 64 0)
      let s := arrived p id
      s.hub.snoop = [] ∧ s.hub.bisnp = [] ∧ s.has64 ∧
      (s.fab.inbox.find? fun x => x.2.ptype = ty && x.2.dst = s.fab.devid) = some (0, p) ∧ p.pkey = s.fab.pkey ∧
      p.src ≠ s.fab.devid ∧ s.windowOk p.addr p.len true = true ∧ s.windowOk p.addr p.len false = true ∧ p.len = 64 ∧
      p.payload.length = p.len ∧ (∀ i < 64, s.populated (p.addr + i) = true) ∧ s.lineSound p.addr = true ∧
      (State.fab { s with fab.inbox := [] }).inbox.find? (fun x => x.2.ptype = ty && x.2.dst = s.fab.devid) = none) ∧
    (arrived (pkt 1 1 0x9000 0 (List.replicate 64 0)) id).windowOk 0x9000 64 true = false ∧
    (∀ h ∈ [0, 1], ∀ r ∈ [0, 1], let p := { pkt 1 1 0x8000 0 [] with dst := 5, hops := h }
      let s := arrived p fun f => { f with routes := [(5, BitVec.ofNat 32 r)], ports := [(0, { Port.reset with state := 5 })] }
      (s.fab.inbox.find? fun x => x.2.dst ≠ s.fab.devid) = some (0, p) ∧
      s.routeOf p.dst = (if r = 1 then some (0, false) else none) ∧ (s.port 0).state = 5) ∧
    (∀ x ∈ [(0x4000, 100, true), (0x4000, 10, true), (0, 10, false), (0, 250, false)],
      let p := pkt 7 1 0 (x.1 + x.2.1 <<< 22 + 9 <<< 32) []
      let s := arrived p id
      p.pkey = s.fab.pkey ∧ s.pmu.hubCtl = 0 ∧ (sget [] s.fab.applied p.src).contains p.sseq = false ∧
      bitAt p.aux 14 = x.2.2 ∧ fld p.aux 22 10 = x.2.1 ∧ s.inService (fld p.aux 16 6) = true) ∧
    (∀ ty ∈ [0x04, 0x05, 0x06, 0x08], let p := { pkt ty 1 0x8000 0 (List.replicate 64 0) with tag := 7 }
      (arrived p id).fab.reqs.find? (fun r => r.pkt.tag = p.tag && r.pkt.dst = p.src) = none ∧
      (arrived p fun f => { f with reqs := [asked (.signal 0 8) 0] }).fab.reqs.find?
        (fun r => r.pkt.tag = p.tag && r.pkt.dst = p.src) = some (asked (.signal 0 8) 0)) ∧
    (∀ n ∈ [0, 2], let s := arrived (pkt 4 1 0 0 []) fun f => { f with reqs := [asked (.signal 0 8) n] }
      s.fab.reqs.find? (fun r => r.pkt.tag = (7 : BitVec 18).toNat) = some (asked (.signal 0 8) n) ∧
      (n < s.fab.retriesMax ↔ n = 0)) ∧
    ((with0 fun k => { k with t.hubRun := [⟨signal8, false⟩] }).core (coreNo 0)).t.hubRun.find? (fun y => y.cmd.id = 8)
      = some ⟨signal8, false⟩ ∧
    (let r : TmvRun := { memCopy with todo := [] }
     (with0 fun k => { k with t.run := [r] }).ownerRun 0 7 = some r ∧ r.todo = [] ∧
      ∃ q ∈ [asked (.mover 0 7) 0, { asked (.mover 0 7) 0 with tries := 1 }].erase (asked (.mover 0 7) 0),
        q.owner = (asked (.mover 0 7) 0).owner) := by
  unfold State.has64; decide +kernel

/-! Witnesses: the management subsystem. What hangs on the certificate chain, on a signature that the image must bear or on
the bytes of a signed answer is free (Config), so no state fixes it. -/

/-- The MSS serves both transports. -/
def serving (f : Mss → Mss) : State := managed fun m => f { m with own := true }

/-- An answer kept for later. -/
def lateReply (n : Nat) : Reply := ⟨.challenge, .success, [], List.replicate n 0⟩

theorem test_witness_Served (tr : Transport) (c : ReqClass) : Served (serving id) tr c ∧ ¬Served State.reset tr c := by
  refine ⟨⟨rfl, rfl, fun h => (by cases h), .inl rfl, fun _ => ⟨rfl, rfl⟩⟩, fun h => ?_⟩
  rcases h.2.2.2.1 with h | ⟨h, _⟩ <;> cases h

theorem test_witness_TheManagementSubsystemAnswers :
    (∀ d ∈ [none, some 0x4C], let s := serving fun m => { m with dyn := d, ibi := d.isSome }
      (s.mss.held = false ∧ s.pwr.vstbyOk = true ∧ (s.mss.st = .ready ∨ s.mss.st = .recovery)) ∧ s.mss.dyn = d ∧
      s.mss.ibi = d.isSome ∧ (0x4C : BitVec 7).toNat = 0x4C + s.mss.mgmtAddr) ∧
    (State.reset.mss.st ≠ .ready ∧ State.reset.mss.st ≠ .recovery) ∧
    (∀ l ∈ State.reset.fab.lasers, l.driven = false) ∧
    (let s := serving fun m => { m with sensors := [(7, some 90)], levels := [(7, 1)] }
     s.sensorPresent 7 = true ∧ s.sensorUp 7 = true ∧ sget none s.mss.sensors 7 = some 90 ∧ sget 0 s.mss.levels 7 = 1 ∧
      sget none s.mss.sensors 8 = none ∧ sget 0 s.mss.levels 1 = 0 ∧ sget 0 s.mss.levels 35 = 0 ∧
      State.sensorPresent { s with ident.grade := .g48 } 16 = false ∧ s.sensorUp 38 = false ∧
      (∀ v ∈ [82, 83, 84], s.sensorValue 7 (v : Int) = v)) ∧
    (State.sensorUp { serving id with pwr := offState.pwr } 4 = false ∧ State.sensorUp (fabric id) 38 = true) ∧
    (let s := serving fun m => { m with inletAt := some 0, flowAt := some 0 }
     s.pwr.stagesOn = true ∧ s.mss.inletAt = some 0 ∧ s.mss.flowAt = some 0 ∧ (s.pwr.aoTime - 0).toNat ≤ 327680) := by
  decide +kernel

theorem test_witness_attestation :
    (∀ tr ∈ [Transport.sideband, .mailbox], ∀ y ∈ [Spdm.reset, ⟨true, true, some true, [1], [2, 3], some (lateReply 5)⟩],
      let s := serving fun m => { m with spdmSide := y, spdmMail := y }
      s.mss.spdm tr = y ∧ (y.versioned = true ↔ y.sha3 = some true) ∧ (y.late = none ↔ y.sha3 = none)) ∧
    (lateReply 5).bytes.length ≤ 4096 ∧ 4096 < (lateReply 4097).bytes.length ∧ (List.replicate 5000 (0 : Byte)).length ≤ 4080 * 2 ∧
    (∀ n ∈ [0, 50], let s := serving fun m => { m with signReady := true, signTimes := List.replicate n 0 }
      (50 ≤ (s.mss.signTimes.filter fun t => decide ((s.pwr.aoTime - t).toNat < 32768)).length ↔ n = 50) ∧
      (s.mss.signReady = true ∧ s.mss.exhausted = false ∧ s.mss.stateFail = false) ∧
      (1024 * s.nv.reserved ≤ s.mss.nextIndex + 65 ∧ s.nv.reserved < 2 ^ 30) ∧ s.mss.failA = false ∧ s.mss.certOk = true) ∧
    (let s := { serving fun m => { m with signReady := true } with nv := { Nv.reset with reserved := 1 } }
     ¬(1024 * s.nv.reserved ≤ s.mss.nextIndex + 65)) ∧
    (serving id).mss.signReady = false ∧
    (serving fun m => { m with failA := true, failB := true, certOk := false }).mss.failB = true := by
  decide +kernel

/-- An update of the slot that is not running. -/
def updatingFw (st : UpdateStage) (own : Transport) : State := serving fun m => { m with update := some ⟨own, st, 4⟩ }

theorem test_witness_FirmwareBootsAndUpdates :
    (∀ st ∈ [UpdateStage.requested, .table, .writing, .verified], let s := updatingFw st .sideband
      s.mss.held = false ∧ s.pwr.vstbyOk = true ∧ s.mss.testHigh = false ∧ s.mss.st = .ready ∧ s.mss.update = some ⟨.sideband, st, 4⟩ ∧ s.mss.failB = false ∧ 4 + 1 ≤ 2 ^ 25) ∧
    (updatingFw .writing .mailbox).mss.update ≠ none ∧ (serving id).mss.update = none ∧
    (serving id).nv.slotValid { (serving id).mss.slotB with bytes := ssetList 0xFF [] 4 [1], complete := true } = false ∧
    (serving id).nv.slotValid { FlashSlot.erased with factory := some (0, 0, 0), complete := true } = true ∧
    ((serving id).mss.running = (serving id).mss.active ∧ (serving fun m => { m with running := true }).mss.active = false) ∧
    ((serving id).mss.routineImage = none ∧ (serving fun m => { m with routineImage := some [] }).mss.routineImage ≠ none) ∧
    ((serving id).nv.ownerKey = none ∧ (serving id).routineOk [] = false) ∧
    ((serving id).hub.jobState = .none ∧ (ringed 0 (ran .running)).hub.jobState = .running) ∧
    (∀ x ∈ [(false, false), (true, false), (true, true)], let s := serving fun m => { m with routineXfer := some ⟨8, [1, 2, 3, 4]⟩ }
      (4 = [(1 : Byte), 2, 3, 4].length ∧ [(5 : Byte), 6, 7, 8].length ≤ 4080 ∧ 4 + 4 ≤ 8) ∧
      s.mss.routineXfer.map (fun x => x.bytes) = some [1, 2, 3, 4] ∧ x.1 = (x.1 || x.2)) ∧
    (∀ x ∈ [(none, false), (some (true, 0), false), (some (true, 3), false)], let s := serving fun m => { m with pending := x.1 }
      let good := fun b => s.nv.slotValid (s.mss.slot b)
      (match s.mss.pending with
        | none => [s.mss.active, !s.mss.active]
        | some (b, n) => if n < 3 then [b, !b] else [!b]).find? good = some x.2 ∧
      s.nv.reserved < 2 ^ 30 ∧ s.mss.failA = false) ∧
    (let s := serving fun m => { m with slotA := FlashSlot.erased }
     [s.mss.active, !s.mss.active].find? (fun b => s.nv.slotValid (s.mss.slot b)) = none ∧ s.err.fatal0 = none) ∧
    (State.reset.mss.st ≠ .ready ∧ (serving id).mss.st = .ready ∧ (serving id).mss.held = false ∧
      (serving fun m => { m with held := true }).mss.held = true ∧ (serving id).pwr.stagesOn = true ∧ (serving id).pwr.vstbyOk = true) := by
  constructorm* _ ∧ _ <;> decide +kernel

/-! Witnesses: the queue and the invariant -/

/-- A state with commands waiting. -/
def queued (cs : List Instr) : State := { State.reset with pending := cs }

theorem test_witness_StepRunsTheFrontCommand : (queued [.hostLinkDown, .aoRcFallback]).pending = .hostLinkDown :: [.aoRcFallback] ∧
    State.reset.pending = [] ∧ State.reset.pwr.vstbyOk = true ∧
    (State.pwr { State.reset with pwr.vstbyOk := false }).vstbyOk = false :=
  ⟨rfl, rfl, rfl, rfl⟩

theorem test_witness_EveryStepKeepsTheInvariant : State.reset.Inv ∧
    (∃ t, step (queued [.fwConfirm .sideband false]) = .next t) ∧ (queued [.fwConfirm .sideband false]).Inv ∧
    Nv.ownerKey { Nv.reset with ownerKey := some 1 } ≠ none := by
  refine ⟨?_, ⟨_, rfl⟩, ?_, by decide⟩ <;> (unfold State.Inv State.has64; decide +kernel)

theorem test_a_step_takes_the_front_command :
    (match step (queued [.hostLinkDown, .aoRcFallback]) with
      | .next t => some (t.pending, t.hub.linkUp, t.pwr.rcFallback)
      | .fault _ | .refused _ => none) = some ([.aoRcFallback], false, false) := by decide +kernel

/-! The spec's own worked examples. Each test names the example's place. -/

/-- 02, W48: 1.0 and −2.5. -/
theorem test_spec_w48_codes :
    w48Code numOne = 0x3FE000000000 ∧ w48Code (.fin true 5 (-1)) = 0xC00800000000 := by decide +kernel

/-- 02, BSI16 at E = 0x78: 0.003, −1.0 × 10^−6 and 2^−7, as FP32 holds them. -/
theorem test_spec_bsi16_mantissas :
    bsiMant 0x78 (fp32Val 0x3B449BA6) = (12583, false) ∧ bsiMant 0x78 (fp32Val 0xB58637BD) = (-4, false) ∧
    bsiMant 0x78 (.fin false 1 (-7)) = (32767, true) := by decide +kernel

/-- 02, the split of 1 + 2^−23. -/
theorem test_spec_fp32_split :
    (split3 (.fin false (2 ^ 23 + 1) (-23))).1.eqv numOne = true ∧
    (split3 (.fin false (2 ^ 23 + 1) (-23))).2.1.eqv (.fin false 1 (-23)) = true ∧
    (split3 (.fin false (2 ^ 23 + 1) (-23))).2.2.isZero = true := by decide +kernel

/-- 03, the handle of a BF16 tile, and the TILE command that pushes it to TQ5. -/
theorem test_spec_tile_handle :
    tileOf 0x00003FC07F148000 = ⟨0x8000, false, 1, 1, 128, 256, 0⟩ ∧ word 0x01 (qo 5) = 0x0200140000000001 ∧
    (match exec (.tile 0 0x0200140000000001 0x00003FC07F148000) (core0 1 2 3) with
      | .next t => (sget [] (t.core 0).q.tq 5).map QEntry.handle
      | .fault _ | .refused _ => []) = [0x00003FC07F148000] := by decide +kernel

/-- 08, the stack and the offset of device address 0x80_0001_2A40 on the two grades. -/
theorem test_spec_interleave :
    State.reset.stackOf 0x8000012A40 = 9 ∧ stackAddr 10 1 9 7232 = 0x8000012A40 ∧
    State.stackOf { State.reset with ident.grade := .g48 } 0x8000012A40 = 5 ∧ stackAddr 8 1 5 9280 = 0x8000012A40 := by
  decide +kernel

/-- The blocks of the example of 10: lanes 0 and 1, the rest zero. -/
def twoLanes (a b : Int) : List Int := a :: b :: List.replicate 30 0
def twoVals (a b : Machine.Num) : List Machine.Num := a :: b :: List.replicate 30 numZero
def hop1 : HopOut := hopBlock 0x70 (WBlk.zero 0x70 false) (twoVals (.fin false 3 (-2)) (.fin true 3 (-30))) false false
def hop2 : HopOut := hopBlock 0x70 hop1.blk (twoVals (.fin false 3 (-2)) (.fin false 5 (-30))) false false
def hop3 : HopOut := hopBlock 0x70 hop2.blk (twoVals (.fin false 3 (-2)) (.fin false 12 (-30))) false false
def hop4 : HopOut := hopBlock 0x70 hop3.blk (twoVals (.fin false 1 (-1)) (.fin true 4 (-27))) false false

/-- 10, the ring of four positions: what leaves each hop. -/
theorem test_spec_ring_of_four :
    (hop1.blk.e, hop1.blk.lanes, hop1.ck) = (0x70, twoLanes 805306368 (-3), 805306365) ∧
    (hop2.blk.e, hop2.blk.lanes, hop1.ck + hop2.ck) = (0x70, twoLanes 1610612736 2, 1610612738) ∧
    (hop3.blk.e, hop3.blk.lanes, hop3.ck, hop3.dsa, hop3.nrec) = (0x73, twoLanes 301989888 2, 805306384, 2, 1) ∧
    (hop4.blk.e, hop4.blk.lanes, hop4.ck, hop4.blk.cnt) = (0x73, twoLanes 369098752 (-2), 536870880, 1) := by
  decide +kernel

/-- 10, the owner's identity and the next exponent. -/
theorem test_spec_ring_identity :
    hop1.ck + hop2.ck + hop3.ck + hop4.ck = 2952790002 ∧
    identityHolds { Census.empty with ck := 2952790002, dsa := 2 } [(0x70, hop4.blk)] = true ∧
    identityHolds { Census.empty with ck := 2952790003, dsa := 2 } [(0x70, hop4.blk)] = false ∧
    nextForecast 0 0x70 hop4.blk = 0x75 := by decide +kernel

/-- 06, EXP2 of −3.40625: E_19 × 2^−4, on the seam. 0x3DC12C4D is FP32(0.0943227). -/
theorem test_spec_exp2_on_a_seam : fp32Code (sfNormal .exp2 false false (fp32Val 0xC05A0000)).1 = 0x3DC12C4D := by
  decide +kernel

/-- The ring of the example of 16: SEQ 101 to 132, class C up to 129, and D; SEQ 101 is MEM_CE on die 0. -/
def fullRing (o : Occ) : State := { ringed 0 (ran .running) with
  err := { Err.reset with
    queue := [o], valid := BitVec.allOnes 32, seq := 132
    log := (List.range 32).map fun i => (i, some (newRec { occ (if i < 29 then .c else .d) with
      code := if i = 0 then 0x0701 else 0x0F00 + i, inst := if i = 0 then 0 else 100 } (if i < 29 then .c else .d) (101 + i))) } }
def errRecorded (o : Occ) : State := match exec .errorRecord (fullRing o) with
  | .next t => t
  | .fault _ | .refused _ => State.reset

/-- 16, at 0 µs: MEM_CE on die 0 merges into SEQ 101. -/
theorem test_spec_error_merges :
    (sget none (errRecorded { occ .c with code := 0x0701 }).err.log 0).map (fun r => (r.seq, r.repeats, r.lastCode))
      = some (101, 1, 0x0701) ∧ (errRecorded { occ .c with code := 0x0701 }).sent = [] := by decide +kernel

/-- 16, at 3.0 µs: CSUM_REPLAY of core 7 is raised to class D and displaces SEQ 101. -/
theorem test_spec_error_escalates :
    (sget none (errRecorded { occ .k with code := 0x0404, inst := 7 }).err.log 0).map
      (fun r => (r.seq, r.code, r.cls, r.orig, r.escalated)) = some (133, 0x0404, .d, .k, true) ∧
    (errRecorded { occ .k with code := 0x0404, inst := 7 }).err.ovfFlag = true := by decide +kernel

/-- 16, at 5.0 µs: OC_ECC_UNCORR of core 9 is raised to class F, latched, and starts fatal handling. -/
theorem test_spec_error_becomes_fatal :
    ((errRecorded { occ .d with code := 0x0682, inst := 9 }).err.fatal0).map (fun r => (r.seq, r.code, r.cls)) =
      some (133, 0x0682, .f) ∧ (errRecorded { occ .d with code := 0x0682, inst := 9 }).err.handling = true := by decide +kernel

/-- 15, standby power comes up with R = 3,071 errRecorded. -/
theorem test_spec_boot_reserves_a_block :
    (match exec (.boot (some 0)) { State.reset with nv.reserved := 3071 } with
      | .next t => (t.nv.reserved, t.mss.nextIndex)
      | .fault _ | .refused _ => (0, 0)) = (3072, 3144704) := by decide +kernel

/-- 00, the window of core 30 of a 48-core package begins at 0x0278_0000; core 50 is absent. -/
theorem test_spec_core_window :
    (match exec (.registerWrite 0x02781000 77 8) { State.reset with ident.grade := .g48 } with
      | .next t => (t.core 30).param 0
      | .fault _ | .refused _ => 0) = 77 ∧
    (match exec (.registerWrite 0x02C81000 77 8) { State.reset with ident.grade := .g48 } with
      | .next t => decide (t.cores = State.reset.cores)
      | .fault _ | .refused _ => false) = true := by decide +kernel

/-- 14, every engine peaks at once: the requests of both PUEs and of four arrays and a chain per core, in order. -/
def peak : State := { State.reset with pwr := { Pwr.reset with
  uncred := List.replicate 9 1480
  waiting := [⟨⟨0, 5⟩, 2560, 0, false⟩, ⟨⟨1, 5⟩, 2560, 0, false⟩] ++ (List.range 64).flatMap fun c =>
    [⟨⟨c, 0⟩, 1088, 0, false⟩, ⟨⟨c, 1⟩, 1088, 0, false⟩, ⟨⟨c, 2⟩, 1088, 0, false⟩, ⟨⟨c, 3⟩, 1088, 0, false⟩,
      ⟨⟨c, 4⟩, 1408, 0, false⟩] } }

/-- 14, at 0 µs: both PUEs, cores 0 to 7 and MA0 of core 8 are granted, 408.5 W. -/
theorem test_spec_first_grants :
    (match exec (.grantPeriod 52000 28500 1480 1480) peak with
      | .next t => ((t.pwr.credits.map Credit.size).sum, t.pwr.credits.length, t.pwr.credits.getLast?.map Credit.who)
      | .fault _ | .refused _ => (0, 0, none)) = (52288, 43, some ⟨8, 0⟩) := by decide +kernel

end Sys2Proof.Tests
end

section
/-! SUPPORT. What every command keeps. `State.Sound` is what the shared operations keep of `State.Inv`; each has one lemma, named after
it, and so has each command, so that a command's proof cites those of the operations it is made of. -/

namespace Sys2Proof.Machine
variable {s t : State}

/-- `State.Inv` without the bounds of the fuses and of the reserved indices. -/
structure State.Sound (s : State) : Prop where
  wf : s.mem.wf = true
  cores_length : s.cores.length = 64
  queue_length : s.err.queue.length ≤ 256
  throttle_le : s.pwr.throttle ≤ 8

namespace State.Sound

theorem congr (h : s.Sound) (hm : t.mem = s.mem) (hc : t.cores = s.cores) (he : t.err = s.err) (hp : t.pwr = s.pwr) : t.Sound :=
  ⟨hm ▸ h.wf, hc ▸ h.cores_length, he ▸ h.queue_length, hp ▸ h.throttle_le⟩

/-! A state written out, one part of it new: the other parts that `Sound` speaks of are those of `s`. -/

section update
variable {i : Ident} {n : Nv} {tp : Top} {hu : Hub} {e : Err} {m : Memory} {cl : Cle} {p0 p1 : Pue} {ck : Cke} {p : Pwr}
  {f : Fab} {pm : Pmu} {ms : Mss} {se : List Emit} {fr : Nat} {ro : List Nat} {pe : List Instr} {cs : List Core}

theorem update (h : s.Sound) :
    (State.mk i n tp s.cores hu s.err s.mem cl p0 p1 ck s.pwr f pm ms se fr ro pe).Sound :=
  h.congr rfl rfl rfl rfl

theorem update_mem (h : s.Sound) (hb : m.bytes = s.mem.bytes) (hp : m.poison = s.mem.poison) (hd : m.bad = s.mem.bad) :
    (State.mk i n tp s.cores hu s.err m cl p0 p1 ck s.pwr f pm ms se fr ro pe).Sound :=
  ⟨Memory.wf_of_eq h.wf hb hp hd, h.cores_length, h.queue_length, h.throttle_le⟩

theorem update_queue (h : s.Sound) (hq : e.queue.length ≤ 256) :
    (State.mk i n tp s.cores hu e s.mem cl p0 p1 ck s.pwr f pm ms se fr ro pe).Sound :=
  ⟨h.wf, h.cores_length, hq, h.throttle_le⟩

theorem update_err (h : s.Sound) (hq : e.queue = s.err.queue) :
    (State.mk i n tp s.cores hu e s.mem cl p0 p1 ck s.pwr f pm ms se fr ro pe).Sound :=
  h.update_queue (hq ▸ h.queue_length)

theorem update_throttle (h : s.Sound) (ht : p.throttle ≤ 8) :
    (State.mk i n tp s.cores hu s.err s.mem cl p0 p1 ck p f pm ms se fr ro pe).Sound :=
  ⟨h.wf, h.cores_length, h.queue_length, ht⟩

theorem update_pwr (h : s.Sound) (ht : p.throttle = s.pwr.throttle) :
    (State.mk i n tp s.cores hu s.err s.mem cl p0 p1 ck p f pm ms se fr ro pe).Sound :=
  h.update_throttle (ht ▸ h.throttle_le)

theorem update_cores (h : s.Sound) (hc : cs.length = 64) :
    (State.mk i n tp cs hu s.err s.mem cl p0 p1 ck s.pwr f pm ms se fr ro pe).Sound :=
  ⟨h.wf, hc, h.queue_length, h.throttle_le⟩

end update

theorem bytes_swf (h : s.Sound) : swf 0#8 0 s.mem.bytes = true := by
  obtain ⟨hb, -, -⟩ := Memory.wf_iff.1 h.wf
  exact hb

theorem poison_swf (h : s.Sound) : swf false 0 s.mem.poison = true := by
  obtain ⟨-, hp, -⟩ := Memory.wf_iff.1 h.wf
  exact hp

theorem bad_swf (h : s.Sound) : swf LineErr.none 0 s.mem.bad = true := by
  obtain ⟨-, -, hd⟩ := Memory.wf_iff.1 h.wf
  exact hd

theorem ite {c : Prop} [Decidable c] (hs : s.Sound) (ht : t.Sound) : (if c then s else t).Sound := by
  split
  · exact hs
  · exact ht

theorem of_snd {β : Type} {r : β × State} {b : β} (e : r = (b, t)) (h : r.2.Sound) : t.Sound := by
  subst e
  exact h

theorem next (h : t.Sound) : (resultOf s (.next t)).Sound := h

section foldl
variable {α β : Type} {l : List α}

/-- A fold over an accumulator `σ` in which `get` finds the state. -/
theorem foldl_get {σ : Type} (get : σ → State) {f : σ → α → σ} (hf : ∀ a x, (get a).Sound → (get (f a x)).Sound) {a : σ}
    (h : (get a).Sound) : (get (l.foldl f a)).Sound := by
  induction l generalizing a with
  | nil => exact h
  | cons x l ih => exact ih (hf a x h)

theorem foldl {f : State → α → State} (hf : ∀ t x, t.Sound → (f t x).Sound) (h : s.Sound) : (l.foldl f s).Sound :=
  foldl_get id hf h

theorem foldl_two {f : β × State → α → β × State} {a : β × State} (hf : ∀ a x, a.2.Sound → (f a x).2.Sound) (h : a.2.Sound) :
    (l.foldl f a).2.Sound :=
  foldl_get Prod.snd hf h

theorem foldl_hop {f : HopAcc → α → HopAcc} {a : HopAcc} (hf : ∀ a x, a.st.Sound → (f a x).st.Sound) (h : a.st.Sound) :
    (l.foldl f a).st.Sound :=
  foldl_get HopAcc.st hf h

theorem foldl_pue {f : PueAcc → α → PueAcc} {a : PueAcc} (hf : ∀ a x, a.st.Sound → (f a x).st.Sound) (h : a.st.Sound) :
    (l.foldl f a).st.Sound :=
  foldl_get PueAcc.st hf h

end foldl

end State.Sound

/-! ### What the parts of the state that `Sound` bounds keep -/


theorem Err.record_queue (e : Err) (o : Occ) : (e.record o).1.queue = e.queue := by
  unfold Err.record
  split
  · rfl
  · dsimp only
    split
    · rfl
    · split
      · rfl
      · rfl

theorem Err.latch_queue (e : Err) (r : ErrRec) : (e.latch r).queue = e.queue := by
  unfold Err.latch
  split
  · rfl
  · rfl
  · rfl

theorem Pwr.setTherm_throttle (p : Pwr) (d n : Nat) (ep : Bool) : (p.setTherm d n ep).throttle = p.throttle := by
  unfold Pwr.setTherm
  split
  · rfl
  · split
    · rfl
    · rfl

theorem Pwr.setPlan_throttle (p : Pwr) (d up f : Nat) : (p.setPlan d up f).throttle = p.throttle := by
  unfold Pwr.setPlan
  split
  · rfl
  · split
    · rfl
    · rfl

theorem Err.countClass_queue (e : Err) (cls : ErrClass) : (e.countClass cls).queue = e.queue := by
  cases cls <;> rfl

/-! ### Operations of every unit -/

theorem State.Sound.setCore (h : s.Sound) {c k} : (State.setCore s c k).Sound := by
  unfold State.setCore
  exact .update_cores h ((List.length_set ..).trans h.cores_length)

theorem State.Sound.modCore (h : s.Sound) {c f} : (State.modCore s c f).Sound :=
  .setCore h

theorem State.Sound.free (h : s.Sound) : (State.free s).2.Sound :=
  .update h

theorem State.Sound.emit (h : s.Sound) {e} : (State.emit s e).Sound :=
  .update h

theorem State.Sound.sendMsix (h : s.Sound) {v} : (State.sendMsix s v).Sound :=
  .ite (.update h) (.emit h)

theorem State.Sound.raiseVec (h : s.Sound) {v} : (State.raiseVec s v).Sound :=
  .ite (.ite (.sendMsix h) (.ite (.update h) (.update (.sendMsix h)))) (.sendMsix h)

theorem fireBind_sound (h : s.Sound) {n} : (fireBind s n).Sound :=
  .ite (.raiseVec (.update h)) h

theorem fireBinds_sound (h : s.Sound) : (fireBinds s).Sound :=
  .foldl (fun _ _ ht => fireBind_sound ht) h

theorem State.Sound.addHubFlag (h : s.Sound) {n inc} : (State.addHubFlag s n inc).Sound :=
  fireBinds_sound (.update h)

theorem State.Sound.addCoreFlag (h : s.Sound) {c n inc} : (State.addCoreFlag s c n inc).Sound :=
  .modCore h

theorem State.Sound.cntCarry (h : s.Sound) {sel} : (State.cntCarry s sel).Sound :=
  .ite (.addHubFlag (.ite (.update h) h)) (.ite (.update h) h)

theorem State.Sound.bumpHub (h : s.Sound) {i n} : (State.bumpHub s i n).Sound :=
  .ite (.update h) (.cntCarry (.update (.update h)))

theorem State.Sound.countHub (h : s.Sound) {ev hit n} : (State.countHub s ev hit n).Sound :=
  .ite h (.foldl (fun _ _ ht => .ite (.bumpHub ht) ht) h)

theorem State.Sound.bumpCore (h : s.Sound) {c i n smp} : (State.bumpCore s c i n smp).Sound :=
  .ite (.modCore h) (.ite (.modCore h) (.cntCarry (.modCore h)))

theorem State.Sound.countCore (h : s.Sound) {c ev hit n smp} : (State.countCore s c ev hit n smp).Sound :=
  .ite h (.foldl (fun _ _ ht => .ite (.bumpCore ht) ht) h)

theorem State.Sound.countDispatch (h : s.Sound) {c b} : (State.countDispatch s c b).Sound :=
  .countCore (.ite h (.modCore h))

theorem State.Sound.offer (h : s.Sound) {o} : (State.offer s o).Sound := by
  unfold State.offer
  split
  case isTrue hlt =>
    refine .countHub (.update_queue h ?_)
    rw [Err.enqueue, List.length_append, Err.countClass_queue]
    exact hlt
  case isFalse => exact .ite (.update_err h rfl) (.update_err h rfl)

theorem State.Sound.raise (h : s.Sound) {code cls v payload} : (State.raise s code cls v payload).Sound :=
  .offer h

theorem State.Sound.raiseHalting (h : s.Sound) {code cls v payload} : (State.raiseHalting s code cls v payload).Sound :=
  .offer h

theorem State.Sound.setHealth (h : s.Sound) {bit} : (State.setHealth s bit).Sound :=
  .update h

theorem State.Sound.cfgIgnored (h : s.Sound) {off value size} : (State.cfgIgnored s off value size).Sound :=
  .raise (.update h)

theorem State.Sound.lockedWrite (h : s.Sound) {running writable locked old new off} :
    (State.lockedWrite s running writable locked old new off).2.Sound :=
  .ite (.cfgIgnored h) h

theorem State.Sound.onBar (h : s.Sound) {f} (hf : ∀ y0, y0.Sound → (f y0).Sound) : (resultOf s (State.onBar s f)).Sound :=
  .next (.ite (hf _ h) h)

theorem State.Sound.haltJob (h : s.Sound) {code} : (State.haltJob s code).Sound := by
  unfold State.haltJob
  split
  · exact h
  · extract_lets +onlyGivenNames s1 _
    have h1 : s1.Sound := .update_cores h ((List.length_map ..).trans h.cores_length)
    split
    · exact .update h1
    · exact .update h1
    · exact .update h1
    · exact h1

theorem State.Sound.cmdFault (h : s.Sound) {c code idx pass opc routine pos} :
    (State.cmdFault s c code idx pass opc routine pos).Sound :=
  .haltJob (.modCore (.raiseHalting h))

theorem State.Sound.cmdNote (h : s.Sound) {c code cls e pos} : (State.cmdNote s c code cls e pos).Sound :=
  .raise h

theorem State.Sound.rowNote (h : s.Sound) {c code cls e arr row} : (State.rowNote s c code cls e arr row).Sound :=
  .raise h

theorem State.Sound.setDie (h : s.Sound) {d v} : (State.setDie s d v).Sound := by
  unfold State.setDie
  exact .ite (.update_mem h rfl rfl rfl) (.update_mem h rfl rfl rfl)

theorem State.Sound.setPoison (h : s.Sound) {addr p} : (State.setPoison s addr p).Sound :=
  ⟨State.setPoison_wf h.wf addr p, h.cores_length, h.queue_length, h.throttle_le⟩

theorem State.Sound.noteHole (h : s.Sound) {addr agent} : (State.noteHole s addr agent).Sound :=
  .raise h

theorem State.Sound.notePoison (h : s.Sound) {addr agent} : (State.notePoison s addr agent).Sound := by
  unfold State.notePoison
  extract_lets +onlyGivenNames s1 _ s2
  have h1 : s1.Sound := .raise h
  have h2 : s2.Sound := by
    dsimp only [s2]
    split
    · exact .setDie h1
    · exact .update_mem h1 rfl rfl rfl
    · exact h1
  exact .ite (.setHealth h2) h2

theorem State.Sound.noteCe (h : s.Sound) {addr agent} : (State.noteCe s addr agent).Sound := by
  unfold State.noteCe
  extract_lets +onlyGivenNames s1 n
  split
  · exact .setDie (.raise h)
  · exact .raise h

theorem State.Sound.noteUe (h : s.Sound) {code addr agent} : (State.noteUe s code addr agent).Sound := by
  unfold State.noteUe
  extract_lets +onlyGivenNames s1 n l
  split
  · exact .setDie (.raise h)
  · exact .raise h

theorem State.Sound.wakeStack (h : s.Sound) {addr} : (State.wakeStack s addr).Sound := by
  unfold State.wakeStack
  refine .ite h ?_
  split
  · exact .update_pwr h rfl
  · exact h

theorem State.Sound.countLine (h : s.Sound) {addr write} : (State.countLine s addr write).Sound := by
  unfold State.countLine
  extract_lets +onlyGivenNames s
  split
  · exact .countHub (.wakeStack h)
  · exact .countHub (.wakeStack h)
  · exact .wakeStack h

theorem State.Sound.setLineErr (h : s.Sound) {addr e} : (State.setLineErr s addr e).Sound :=
  ⟨State.setLineErr_wf h.wf addr e, h.cores_length, h.queue_length, h.throttle_le⟩

theorem State.Sound.hitLine (h : s.Sound) {x} : (State.hitLine s x).Sound := by
  unfold State.hitLine
  split
  · exact .setLineErr h
  · exact .update_mem (.ite (.setPoison h) h) rfl rfl rfl
  · exact h

theorem State.Sound.hitLines (h : s.Sound) {hs} : (State.hitLines s hs).Sound :=
  .foldl (fun _ _ ht => .hitLine ht) h

theorem State.Sound.checkLine (h : s.Sound) {ueCode addr agent} : (State.checkLine s ueCode addr agent).Sound := by
  unfold State.checkLine
  split
  · exact h
  · exact .setLineErr (.noteCe h)
  · exact .setPoison (.setLineErr (.noteUe h))
  · exact .update (.setLineErr h)
  · exact .update (.setLineErr (.noteCe h))

theorem State.Sound.touchLineAs (h : s.Sound) {ueCode addr agent} : (State.touchLineAs s ueCode addr agent).2.Sound := by
  unfold State.touchLineAs
  extract_lets +onlyGivenNames s _ _ t _
  split
  · exact .update (.noteHole (.countLine h))
  · split
    · exact .update (.notePoison (.countLine h))
    · split
      · exact .update (.notePoison (.checkLine (.countLine h)))
      · exact .checkLine (.countLine h)

theorem State.Sound.touchLine (h : s.Sound) {addr agent} : (State.touchLine s addr agent).2.Sound :=
  .touchLineAs h

theorem State.Sound.touchLineQuiet (h : s.Sound) {addr agent} : (State.touchLineQuiet s addr agent).Sound :=
  .ite h (.checkLine h)

theorem State.Sound.touchRange (h : s.Sound) {addr n agent} : (State.touchRange s addr n agent).2.Sound :=
  .foldl_two (fun _ _ ht => .touchLine ht) h

theorem State.Sound.engineReads (h : s.Sound) {agent rs} : (State.engineReads s agent rs).Sound :=
  .foldl (fun _ _ ht => .touchLine ht) h

theorem State.Sound.storeBytes (h : s.Sound) {addr bs} : (State.storeBytes s addr bs).Sound :=
  ⟨State.storeBytes_wf h.wf addr bs, h.cores_length, h.queue_length, h.throttle_le⟩

theorem State.Sound.writePart (h : s.Sound) {agent p} : (State.writePart agent s p).Sound :=
  .ite (.noteHole (.countLine h)) (.ite (.storeBytes (.setLineErr (.setPoison (.countLine h))))
    (.storeBytes (.touchLineQuiet (.countLine h))))

theorem State.Sound.agentWrite (h : s.Sound) {addr agent bs} : (State.agentWrite s addr agent bs).Sound :=
  .foldl (fun _ _ ht => .writePart ht) h

theorem State.Sound.writeMasked (h : s.Sound) {agent addr bs mask} : (State.writeMasked s agent addr bs mask).Sound :=
  .ite (.noteHole (.countLine h)) (.ite (.storeBytes (.setLineErr (.setPoison (.countLine h))))
    (.foldl (fun _ _ ht => .storeBytes ht) (.touchLineQuiet (.countLine h))))

theorem State.Sound.agentNum (h : s.Sound) {addr agent n v} : (State.agentNum s addr agent n v).Sound :=
  .agentWrite h

theorem State.Sound.sendBisnp (h : s.Sound) {l} : (State.sendBisnp s l).Sound :=
  .ite h (.emit (.update h))

theorem State.Sound.bisnp (h : s.Sound) {ls} : (State.bisnp s ls).2.Sound :=
  .foldl (fun _ _ ht => .sendBisnp ht) h

theorem State.Sound.afterSnoop (hs : s.Sound) (ht : t.Sound) : (afterSnoop s t).Sound := .ite ht (.bisnp hs)

theorem State.Sound.wakeCore (h : s.Sound) {c} : (State.wakeCore s c).Sound := by
  unfold State.wakeCore
  exact .update_pwr h rfl

theorem State.Sound.setPue (h : s.Sound) {d v} : (State.setPue s d v).Sound :=
  .ite (.update h) (.update h)

theorem State.Sound.loseDie (h : s.Sound) {d code v payload} : (State.loseDie s d code v payload).Sound :=
  .haltJob (.setPue (.foldl (fun _ _ ht => .update ht) (.setHealth (.raiseHalting h))))

/-! ### Counters and samples -/

theorem State.Sound.snapRefuse (h : s.Sound) : (State.snapRefuse s).Sound :=
  .raise (.update h)

theorem State.Sound.startImage (h : s.Sound) : (State.startImage s).Sound := by
  unfold State.startImage
  split
  · exact h
  · exact .ite h (.ite (.raise (.update h)) (.ite (.snapRefuse (.update h)) (.update h)))

theorem State.Sound.startImages (h : s.Sound) : (State.startImages s).Sound :=
  .foldl (fun _ _ ht => .startImage ht) h

theorem State.Sound.snapNow (h : s.Sound) {job} : (State.snapNow s job).Sound :=
  .startImages (.update h)

theorem State.Sound.snapTrigger (h : s.Sound) {job} : (State.snapTrigger s job).Sound :=
  .ite (.snapNow h) (.ite (.update h) (.snapRefuse h))

theorem State.Sound.snapCtlWrite (h : s.Sound) {w} : (State.snapCtlWrite s w).Sound :=
  .ite (.snapTrigger (.update h)) (.update h)

theorem execSnapshot_sound (h : s.Sound) {w} : (resultOf s (execSnapshot w s)).Sound := by
  unfold execSnapshot
  split
  · exact .onBar h (fun _ ht => .snapCtlWrite ht)
  · split
    · exact .next h
    · exact .next (.snapTrigger (.update h))

theorem execSnapshotDone_sound (h : s.Sound) : (resultOf s (execSnapshotDone s)).Sound := by
  unfold execSnapshotDone
  split
  · exact .next h
  · split
    · exact .next (.startImages h)
    · extract_lets +onlyGivenNames _ s1 s2 s3 _
      split
      · exact .next (.afterSnoop h (.snapNow (.update
          (.startImages (.ite (.addHubFlag (.agentWrite (.update h))) (.agentWrite (.update h)))))))
      · exact .next (.afterSnoop h (.startImages (.ite (.addHubFlag (.agentWrite (.update h))) (.agentWrite (.update h)))))

theorem State.Sound.globalCtlWrite (h : s.Sound) {w} : (State.globalCtlWrite s w).Sound :=
  .update h

theorem execFreeze_sound (h : s.Sound) {w} : (resultOf s (execFreeze w s)).Sound :=
  .onBar h (fun _ ht => .globalCtlWrite ht)

theorem execCounterCarry_sound (h : s.Sound) {ctr inc} : (resultOf s (execCounterCarry ctr inc s)).Sound := by
  unfold execCounterCarry
  extract_lets +onlyGivenNames n
  split
  · exact .next h
  · split
    · exact .next (.ite (.bumpHub h) h)
    · split
      · exact .next h
      · exact .next (.modCore h)
    · extract_lets +onlyGivenNames p
      split
      · exact .next h
      · exact .next (.bumpCore h)

theorem State.Sound.latchCounters (h : s.Sound) {step attempt action} : (State.latchCounters s step attempt action).Sound := by
  unfold State.latchCounters
  extract_lets +onlyGivenNames img _ s1 _
  have h1 : s1.Sound := .update_cores h ((List.length_map ..).trans h.cores_length)
  exact .ite h1 (.ite (.raise (.update h1)) (.startImages (.update h1)))

theorem State.Sound.sampleLost (h : s.Sound) {c} : (State.sampleLost s c).Sound :=
  .ite (.modCore h) (.raise (.update (.modCore h)))

theorem State.Sound.writeSample (h : s.Sound) {c bs} : (State.writeSample s c bs).Sound :=
  .ite (.sampleLost h) (.ite (.raise h) (.modCore (.agentWrite h)))

theorem State.Sound.takeSample (h : s.Sound) {c b x} (e : s.takeSample c b = some (x, t)) : t.Sound := by
  simp only [State.takeSample, Option.map_eq_some_iff, Prod.mk.injEq] at e
  obtain ⟨_, -, -, rfl⟩ := e
  exact .modCore h

theorem execSkidSample_sound (h : s.Sound) {core skid} : (resultOf s (execSkidSample core skid s)).Sound := by
  unfold execSkidSample
  split
  · exact .next h
  · split
    · exact .next h
    · next x s1 e =>
      exact .next (.afterSnoop h (.writeSample (.takeSample h e)))

theorem execPreciseSample_sound (h : s.Sound) {core latency} : (resultOf s (execPreciseSample core latency s)).Sound := by
  unfold execPreciseSample
  split
  · exact .next h
  · next x s1 e =>
    exact .next (.afterSnoop h (.writeSample (.takeSample h e)))

theorem execPmuSampleLost_sound (h : s.Sound) {core} : (resultOf s (execPmuSampleLost core s)).Sound := by
  unfold execPmuSampleLost
  extract_lets +onlyGivenNames k _
  split
  · exact .next h
  · exact .next (.sampleLost (.setCore h))

/-! ### Ports and packets -/

theorem State.Sound.setPort (h : s.Sound) {p v} : (State.setPort s p v).Sound :=
  .update h

theorem State.Sound.putFlit (h : s.Sound) {p ftype seq msg body} : (State.putFlit s p ftype seq msg body).Sound :=
  .emit (.setPort h)

theorem State.Sound.putCtrl (h : s.Sound) {p nak msg} : (State.putCtrl s p nak msg).Sound :=
  .putFlit h

theorem State.Sound.freeAt (h : s.Sound) {p b units} : (State.freeAt s p b units).Sound :=
  .ite (.putCtrl (.setPort h)) (.setPort h)

theorem State.Sound.freeHeld (h : s.Sound) {q} : (State.freeHeld s q).Sound := by
  unfold State.freeHeld
  split
  · exact .freeAt h
  · exact h

theorem pumpN_sound {p n : Nat} (h : s.Sound) : (pumpN p n s).Sound := by
  induction n generalizing s with
  | zero => exact h
  | succ n ih =>
    unfold pumpN
    extract_lets +onlyGivenNames x
    split
    · exact h
    · exact ih (.freeHeld (.foldl (fun _ _ ht => .putFlit ht) (.countHub (.setPort h))))

theorem State.Sound.pump (h : s.Sound) {p} : (State.pump s p).Sound :=
  pumpN_sound h

theorem State.Sound.assign (h : s.Sound) {p q} : (State.assign s p q).Sound :=
  .pump (.setPort h)

theorem State.Sound.drop (h : s.Sound) {k p} : (State.drop s k p).Sound := by
  unfold State.drop
  extract_lets +onlyGivenNames _ s1
  have h1 : s1.Sound := by
    dsimp only [s1]
    split <;> exact .update h
  exact .raise h1

theorem State.Sound.routeOut (h : s.Sound) {p} : (State.routeOut s p).Sound := by
  unfold State.routeOut
  split
  · exact .drop (.freeHeld h)
  · exact .assign h

theorem State.Sound.sendPacket (h : s.Sound) {p} : (State.sendPacket s p).Sound :=
  .ite (.update h) (.routeOut h)

theorem State.Sound.respond (h : s.Sound) {req ptype aux payload} : (State.respond s req ptype aux payload).Sound :=
  .sendPacket h

theorem feedN_sound {n : Nat} (h : s.Sound) : (feedN n s).Sound := by
  induction n generalizing s with
  | zero => exact h
  | succ n ih =>
    unfold feedN
    split
    · exact h
    · exact ih (.sendPacket (.update h))

theorem State.Sound.feed (h : s.Sound) : (State.feed s).Sound :=
  feedN_sound h

theorem State.Sound.sendAll (h : s.Sound) {ps} : (State.sendAll s ps).Sound :=
  .feed (.update h)

theorem State.Sound.dropFlow (h : s.Sound) {f} : (State.dropFlow s f).Sound :=
  .update h

theorem State.Sound.takeInbox (h : s.Sound) {f p} (e : s.takeInbox f = some (p, t)) : t.Sound :=
  h.congr (by simp [takeInbox_frame e]) (by simp [takeInbox_frame e]) (by simp [takeInbox_frame e]) (by simp [takeInbox_frame e])

theorem State.Sound.takeForward (h : s.Sound) {p} (e : s.takeForward = some (p, t)) : t.Sound :=
  h.congr (by simp [takeForward_frame e]) (by simp [takeForward_frame e]) (by simp [takeForward_frame e])
    (by simp [takeForward_frame e])

theorem State.Sound.takeType (h : s.Sound) {n p} (e : s.takeType n = some (p, t)) : t.Sound :=
  takeInbox h e

theorem State.Sound.request (h : s.Sound) {p o} : (State.request s p o).Sound :=
  .update (.sendPacket h)

theorem State.Sound.takeReq (h : s.Sound) {p r} (e : s.takeReq p = some (r, t)) : t.Sound :=
  h.congr (by simp [takeReq_frame e]) (by simp [takeReq_frame e]) (by simp [takeReq_frame e]) (by simp [takeReq_frame e])

/-! ### Operands -/

theorem State.Sound.ocEccHit (h : s.Sound) {c e x} : (State.ocEccHit s c e x).Sound :=
  .ite (.setHealth (.cmdNote (.modCore h))) (.cmdNote (.modCore h))

theorem State.Sound.accEccHit (h : s.Sound) {c e x} : (State.accEccHit s c e x).Sound :=
  .ite (.setHealth (.rowNote (.modCore h))) (.rowNote (.modCore h))

theorem State.Sound.ocEcc (h : s.Sound) {c e hits} : (State.ocEcc s c e hits).Sound :=
  .foldl (fun _ _ ht => .ite (.accEccHit ht) (.ocEccHit ht)) h

/-! ### Dispatch -/

theorem csigFire_sound (h : s.Sound) {c lo} : (csigFire s c lo).Sound :=
  .ite (.ite (.addHubFlag h) (.addCoreFlag h)) h

theorem State.Sound.stallOn (h : s.Sound) {c cause} : (State.stallOn s c cause).Sound :=
  .modCore h

theorem fetchWord_sound (h : s.Sound) {c k} : (fetchWord s c k).2.Sound := by
  unfold fetchWord
  split
  · exact h
  · exact .touchLine h

theorem dispatchWith_sound (h : s.Sound) {c lo imm opc codes stall run} (hrun : ∀ t k d, t.Sound → (run t k d).Sound) :
    (dispatchWith s c lo imm opc codes stall run).Sound := by
  unfold dispatchWith
  extract_lets +onlyGivenNames k
  split
  · exact h
  · have hf : (fetchWord s c k).2.Sound := fetchWord_sound h
    refine .ite (.cmdFault hf) ?_
    split
    · exact .cmdFault hf
    · refine .ite hf ?_
      split
      · exact .cmdFault hf
      · split
        · exact .stallOn hf
        · exact .countDispatch (hrun _ _ _ (.setCore hf))

theorem engDispatch_sound (h : s.Sound) {e regions bank ap post c k d} : (engDispatch e regions bank ap post c s k d).Sound := by
  unfold engDispatch
  split
  · exact h
  · exact .setCore h

theorem State.Sound.engFault (h : s.Sound) {c e code pos} : (State.engFault s c e code pos).Sound :=
  .cmdFault (.modCore h)

/-! ### The sequencer -/

theorem seqRun_sound (h : s.Sound) {c f k d} : (seqRun c f s k d).Sound :=
  csigFire_sound (.setCore h)

theorem execNop_sound (h : s.Sound) {core lo imm} : (resultOf s (execNop core lo imm s)).Sound :=
  .next (dispatchWith_sound h (fun _ _ _ ht => seqRun_sound ht))

theorem execTile_sound (h : s.Sound) {core lo imm} : (resultOf s (execTile core lo imm s)).Sound :=
  .next (dispatchWith_sound h (fun _ _ _ ht => seqRun_sound ht))

theorem execDrop_sound (h : s.Sound) {core lo imm} : (resultOf s (execDrop core lo imm s)).Sound :=
  .next (dispatchWith_sound h (fun _ _ _ ht => seqRun_sound ht))

theorem execDup_sound (h : s.Sound) {core lo imm} : (resultOf s (execDup core lo imm s)).Sound :=
  .next (dispatchWith_sound h (fun _ _ _ ht => seqRun_sound ht))

theorem execPset_sound (h : s.Sound) {core lo imm} : (resultOf s (execPset core lo imm s)).Sound :=
  .next (dispatchWith_sound h (fun _ _ _ ht => seqRun_sound ht))

theorem execPadd_sound (h : s.Sound) {core lo imm} : (resultOf s (execPadd core lo imm s)).Sound :=
  .next (dispatchWith_sound h (fun _ _ _ ht => seqRun_sound ht))

theorem execPcopy_sound (h : s.Sound) {core lo imm} : (resultOf s (execPcopy core lo imm s)).Sound :=
  .next (dispatchWith_sound h (fun _ _ _ ht => seqRun_sound ht))

theorem execWait_sound (h : s.Sound) {core lo imm} : (resultOf s (execWait core lo imm s)).Sound :=
  .next (dispatchWith_sound h (fun _ _ _ ht => .setCore ht))

theorem execWaitComplete_sound (h : s.Sound) {core} : (resultOf s (execWaitComplete core s)).Sound := by
  unfold execWaitComplete
  extract_lets +onlyGivenNames k _
  split
  · exact .next h
  · split
    · exact .next (csigFire_sound (.modCore (.ite (.ite (.update h) (.modCore h)) h)))
    · exact .next h

theorem execSignal_sound (h : s.Sound) {core lo imm} : (resultOf s (execSignal core lo imm s)).Sound := by
  unfold execSignal
  exact .next (dispatchWith_sound h (fun _ _ _ ht => csigFire_sound
    (.ite (.addHubFlag (.setCore ht)) (.addCoreFlag (.setCore ht)))))

theorem settleFence_sound (h : s.Sound) {c} : (settleFence s c).Sound := by
  unfold settleFence
  extract_lets +onlyGivenNames k _
  split
  · exact h
  · exact .ite (csigFire_sound (.setCore h)) h

theorem execFence_sound (h : s.Sound) {core lo imm} : (resultOf s (execFence core lo imm s)).Sound :=
  .next (dispatchWith_sound h (fun _ _ _ ht => settleFence_sound (.setCore ht)))

theorem execRecBegin_sound (h : s.Sound) {core lo imm} : (resultOf s (execRecBegin core lo imm s)).Sound :=
  .next (dispatchWith_sound h (fun _ _ _ ht => csigFire_sound (.setCore ht)))

theorem execRecEnd_sound (h : s.Sound) {core lo imm} : (resultOf s (execRecEnd core lo imm s)).Sound :=
  .next (dispatchWith_sound h (fun _ _ _ ht => csigFire_sound (.setCore ht)))

theorem execReplay_sound (h : s.Sound) {core lo imm} : (resultOf s (execReplay core lo imm s)).Sound :=
  .next (dispatchWith_sound h (fun _ _ _ ht => csigFire_sound (.setCore ht)))

theorem execReplayPass_sound (h : s.Sound) {core} : (resultOf s (execReplayPass core s)).Sound := by
  unfold execReplayPass
  extract_lets +onlyGivenNames k
  split
  · exact .next h
  · extract_lets +onlyGivenNames n sl k1 _ k2
    split
    · exact .next h
    · split
      · exact .next h
      · split
        · exact .next (.stallOn h)
        · exact .next (.setCore h)

theorem execPatch_sound (h : s.Sound) {core lo imm} : (resultOf s (execPatch core lo imm s)).Sound :=
  .next (dispatchWith_sound h (fun _ _ _ ht => seqRun_sound ht))

theorem execEndList_sound (h : s.Sound) {core lo imm} : (resultOf s (execEndList core lo imm s)).Sound :=
  .next (dispatchWith_sound h (fun _ _ _ ht => csigFire_sound (.setCore ht)))

theorem execQueueDeadlock_sound (h : s.Sound) {waited} : (resultOf s (execQueueDeadlock waited s)).Sound := by
  unfold execQueueDeadlock
  split
  · exact .next h
  · extract_lets +onlyGivenNames set mask members s1 _
    split
    · exact .next h
    · exact .next (.haltJob (.update (.raiseHalting h)))

/-! ### The step gate -/

theorem State.Sound.readsMap (h : s.Sound) {agent addr} : (State.readsMap s agent addr).Sound :=
  .ite h (.ite (.engineReads (.engineReads h)) (.engineReads h))

theorem State.Sound.readsGate (h : s.Sound) : (State.readsGate s).Sound :=
  .readsMap (.engineReads h)

theorem State.Sound.beginAttempt (h : s.Sound) {attempt retry resent} : (State.beginAttempt s attempt retry resent).Sound :=
  .update (.readsGate (.update (.countHub h)))

theorem State.Sound.settleRewind (h : s.Sound) : (State.settleRewind s).Sound :=
  .ite h (.beginAttempt (.update (.foldl (fun _ _ ht => .modCore ht) h)))

/-! ### Credits -/

theorem State.Sound.askCredit (h : s.Sound) {w size yielded} : (State.askCredit s w size yielded).Sound := by
  unfold State.askCredit
  exact .ite h (.update_pwr h rfl)

theorem State.Sound.addCredit (h : s.Sound) {w size} : (State.addCredit s w size).Sound := by
  unfold State.addCredit
  exact .ite (.update_pwr h rfl) (.update_pwr h rfl)

theorem State.Sound.grant (h : s.Sound) {r} : (State.grant s r).Sound := by
  unfold State.grant
  extract_lets +onlyGivenNames _ s1
  have h1 : s1.Sound := .update_pwr h rfl
  exact .ite (.foldl (fun _ _ ht => .addCredit ht) h1) (.addCredit h1)

theorem grantN_sound {n : Nat} (h : s.Sound) : (grantN n s).Sound := by
  induction n generalizing s with
  | zero => exact h
  | succ n ih =>
    unfold grantN
    split
    · exact h
    · exact .ite (ih (.update_pwr (.grant h) rfl)) h

theorem State.Sound.askAgain (h : s.Sound) {r} : (State.askAgain s r).Sound := by
  unfold State.askAgain
  exact .ite (.ite (.update_pwr h rfl) (.askCredit h)) (.askCredit h)

theorem State.Sound.dropCredit (h : s.Sound) {w} : (State.dropCredit s w).Sound := by
  unfold State.dropCredit
  exact .update_pwr h rfl

theorem State.Sound.askWanted (h : s.Sound) {v} : (State.askWanted s v).Sound := by
  unfold State.askWanted
  split
  · exact .askAgain h
  · exact h

theorem State.Sound.lapse (h : s.Sound) {w} : (State.lapse s w).Sound := by
  unfold State.lapse
  split
  · exact h
  · refine .ite (.askWanted (.dropCredit ?_)) ?_
    · exact .update_pwr h rfl
    · exact .update_pwr h rfl

theorem State.Sound.yieldCredit (h : s.Sound) {w r} : (State.yieldCredit s w r).Sound := by
  unfold State.yieldCredit
  exact .update_pwr h rfl

theorem State.Sound.yieldSwap (h : s.Sound) {x} : (State.yieldSwap s x).Sound := by
  unfold State.yieldSwap
  extract_lets +onlyGivenNames _ t t1
  have ht : t.Sound := by
    refine .dropCredit ?_
    exact .update_pwr h rfl
  have ht1 : t1.Sound := by
    dsimp only [t1]
    split
    · exact .ite (.grant ht) ht
    · exact ht
  exact .askWanted ht1

theorem State.Sound.releases (h : s.Sound) : (State.releases s).Sound :=
  .foldl (fun _ _ ht => .ite ht (.ite (.lapse ht) (.yieldSwap ht))) h

theorem State.Sound.needCredit (h : s.Sound) {w size} : (State.needCredit s w size).2.Sound := by
  unfold State.needCredit
  split
  · exact .yieldCredit h
  · split
    · exact .update_pwr h rfl
    · exact .askCredit h

theorem State.Sound.needMultipass (h : s.Sound) {c} : (State.needMultipass s c).2.Sound := by
  unfold State.needMultipass
  extract_lets +onlyGivenNames units
  split
  · exact .foldl (fun _ _ ht => .ite (.yieldCredit ht) ht) h
  · split
    · exact h
    · exact .askCredit h

/-! ### The matrix unit -/

theorem execMxuLoadw_sound (h : s.Sound) {core lo imm} : (resultOf s (execMxuLoadw core lo imm s)).Sound :=
  .next (dispatchWith_sound h (fun _ _ _ ht => engDispatch_sound ht))

theorem execMxuStream_sound (h : s.Sound) {core lo imm} : (resultOf s (execMxuStream core lo imm s)).Sound :=
  .next (dispatchWith_sound h (fun _ _ _ ht => engDispatch_sound ht))

theorem execMxuDrain_sound (h : s.Sound) {core lo imm} : (resultOf s (execMxuDrain core lo imm s)).Sound :=
  .next (dispatchWith_sound h (fun _ _ _ ht => engDispatch_sound ht))

theorem execMxuMultipass_sound (h : s.Sound) {core lo imm} : (resultOf s (execMxuMultipass core lo imm s)).Sound :=
  .next (dispatchWith_sound h (fun _ _ _ ht => engDispatch_sound ht))

theorem execMxuClear_sound (h : s.Sound) {core lo imm} : (resultOf s (execMxuClear core lo imm s)).Sound :=
  .next (dispatchWith_sound h (fun _ _ _ ht => engDispatch_sound ht))

theorem execMxuStart_sound (h : s.Sound) {core ecc} : (resultOf s (execMxuStart core ecc s)).Sound := by
  unfold execMxuStart
  split
  · exact .next h
  case h_2 e _ _ =>
    have hc : (if isStream e then s.needCredit ⟨core.val, e.array⟩ (streamCredit (s.core core) e)
        else if isMulti e then s.needMultipass core else (true, s)).2.Sound := by
      split
      · exact .needCredit h
      · split
        · exact .needMultipass h
        · exact h
    generalize (if isStream e then s.needCredit ⟨core.val, e.array⟩ (streamCredit (s.core core) e)
        else if isMulti e then s.needMultipass core else (true, s)) = r at hc ⊢
    split
    · exact .next h
    · dsimp only
      split
      · exact .next hc
      · exact .next (.setCore (.ocEcc hc))

theorem State.Sound.countArrayFault (h : s.Sound) {c q} : (State.countArrayFault s c q).Sound :=
  .ite (.raise (.modCore h)) (.modCore h)

theorem State.Sound.accEcc (h : s.Sound) {c e q row es} : (State.accEcc s c e q row es).Sound :=
  .foldl (fun _ _ ht => .ite (.setHealth (.rowNote (.modCore ht))) (.rowNote (.modCore ht))) h

theorem State.Sound.countRows (h : s.Sound) {c q blocks n} : (State.countRows s c q blocks n).Sound :=
  .countCore (.countCore h)

theorem exitCheck_sound (h : s.Sound) {c e q row blocks o u} : (exitCheck s c e q row blocks o u).2.2.Sound := by
  unfold exitCheck
  dsimp only
  split
  · exact .countRows (.setCore h)
  · split
    · exact .countCore (.countRows (.rowNote (.modCore (.countRows (.setCore h)))))
    · exact .setHealth (.rowNote (.countArrayFault (.countCore (.countRows (.rowNote (.modCore (.countRows (.setCore h))))))))

theorem putRow_sound (h : s.Sound) {c e q row o replace neg faulted u} : (putRow s c e q row o replace neg faulted u).Sound :=
  .setCore (.ite (.accEcc h) h)

theorem scratchStep_sound (h : s.Sound) {c e q j n u} : (scratchStep s c e q j n u).Sound :=
  .setCore (.foldl (fun _ _ ht => .accEcc ht) h)

theorem multiStep_sound (h : s.Sound) {c e q pos u} : (multiStep s c e q pos u).Sound := by
  unfold multiStep
  extract_lets +onlyGivenNames mq ps
  split
  · exact h
  · exact .ite (scratchStep_sound (.foldl (fun _ _ ht => putRow_sound ht) (exitCheck_sound h)))
      (.foldl (fun _ _ ht => putRow_sound ht) (exitCheck_sound h))

theorem streamStep_sound (h : s.Sound) {c e q j u} : (streamStep s c e q j u).Sound :=
  putRow_sound (exitCheck_sound h)

theorem rowCredit_sound (h : s.Sound) {c e q} : (rowCredit s c e q).2.Sound := by
  unfold rowCredit
  split
  · exact h
  · exact .needCredit h

theorem execTreeOutput_sound (h : s.Sound) {core arr upset} : (resultOf s (execTreeOutput core arr upset s)).Sound := by
  unfold execTreeOutput
  extract_lets +onlyGivenNames q k
  split
  · exact .next h
  · split
    · exact .next h
    · dsimp only
      split
      · exact .next (rowCredit_sound h)
      · exact .next (.modCore (.ite (streamStep_sound (rowCredit_sound h)) (multiStep_sound (rowCredit_sound h))))

theorem drainRead_sound (h : s.Sound) {c e q row n u} : (drainRead s c e q row n u).2.2.Sound := by
  unfold drainRead
  extract_lets +onlyGivenNames k0
  split
  extract_lets +onlyGivenNames r0 k2
  split
  extract_lets +onlyGivenNames s1 r vals
  have h1 : s1.Sound := .accEcc (.setCore h)
  clear_value s1
  split
  · dsimp only
    exact .modCore h1
  · split
    · exact h1
    · split
      · dsimp only
        exact .countCore (.rowNote (.modCore h1))
      · dsimp only
        exact .setHealth (.rowNote h1)

theorem execDrainRowRead_sound (h : s.Sound) {core arr upset} : (resultOf s (execDrainRowRead core arr upset s)).Sound := by
  unfold execDrainRowRead
  extract_lets +onlyGivenNames q k
  split
  · exact .next h
  · extract_lets +onlyGivenNames e j row n ftz st
    split
    · exact .next h
    · exact .next (.setCore (drainRead_sound h))

/-! ### The vector engine -/

theorem execVceCfg_sound (h : s.Sound) {core lo imm} : (resultOf s (execVceCfg core lo imm s)).Sound :=
  .next (dispatchWith_sound h (fun _ _ _ ht => engDispatch_sound ht))

theorem execVceRun_sound (h : s.Sound) {core lo imm} : (resultOf s (execVceRun core lo imm s)).Sound :=
  .next (dispatchWith_sound h (fun _ _ _ ht => engDispatch_sound ht))

theorem execVceTblload_sound (h : s.Sound) {core lo imm} : (resultOf s (execVceTblload core lo imm s)).Sound :=
  .next (dispatchWith_sound h (fun _ _ _ ht => engDispatch_sound ht))

theorem execVcePerm_sound (h : s.Sound) {core lo imm} : (resultOf s (execVcePerm core lo imm s)).Sound :=
  .next (dispatchWith_sound h (fun _ _ _ ht => engDispatch_sound ht))

theorem execVceReduce_sound (h : s.Sound) {core lo imm} : (resultOf s (execVceReduce core lo imm s)).Sound :=
  .next (dispatchWith_sound h (fun _ _ _ ht => engDispatch_sound ht))

theorem execVceScan_sound (h : s.Sound) {core lo imm} : (resultOf s (execVceScan core lo imm s)).Sound :=
  .next (dispatchWith_sound h (fun _ _ _ ht => engDispatch_sound ht))

theorem vceRunCmd_sound (h : s.Sound) {c e} : (vceRunCmd s c e).Sound := by
  unfold vceRunCmd
  refine .ite (.ite (.engFault h) (.setCore h))
    (.ite ?_ (.ite (.ite (.engFault h) (.setCore h)) (.ite ?_ (.ite (.setCore h) (.setCore h)))))
  · split
    · exact .engFault h
    · exact .ite (.engFault h) (.setCore h)
  · dsimp only
    split
    · exact .setCore h
    · exact .engFault (.setCore h)

theorem State.Sound.countVce (h : s.Sound) {c e} : (State.countVce s c e).Sound :=
  .countCore (.countCore h)

theorem execVceStart_sound (h : s.Sound) {core ecc} : (resultOf s (execVceStart core ecc s)).Sound := by
  unfold execVceStart
  extract_lets +onlyGivenNames k
  split
  · exact .next h
  · split
    · exact .next h
    · split
      · exact .next h
      · dsimp only
        split
        · exact .next (.needCredit h)
        · exact .next (vceRunCmd_sound (.modCore (.countVce (.ocEcc (.needCredit h)))))

/-! ### Routines -/

theorem State.Sound.clobberParams (h : s.Sound) {c} : (State.clobberParams s c).Sound :=
  .update (.modCore h)

theorem State.Sound.finishCall (h : s.Sound) {c} : (State.finishCall s c).Sound := by
  unfold State.finishCall
  split
  · exact h
  · exact .settleRewind (csigFire_sound (.modCore (.clobberParams h)))

theorem rtDispatch_sound (h : s.Sound) {c k d pb} : (rtDispatch s c k d pb).Sound := by
  unfold rtDispatch
  extract_lets +onlyGivenNames id _
  split
  · exact h
  · exact .clobberParams (.setCore h)

theorem callBegin_sound (h : s.Sound) {core k0 d} : (callBegin core s k0 d).Sound := by
  unfold callBegin
  refine .ite ?_ (.ite (.finishCall (.setCore h)) (.setCore h))
  split
  · exact .cmdFault (.setCore h)
  · exact rtDispatch_sound h

theorem readBlock_sound (h : s.Sound) {c lo imm} : (readBlock s c lo imm).Sound := by
  unfold readBlock
  split
  · exact h
  · exact .ite (.modCore (.touchLine h)) h

theorem execCall_sound (h : s.Sound) {core lo imm} : (resultOf s (execCall core lo imm s)).Sound :=
  .next (readBlock_sound (dispatchWith_sound h (fun _ _ _ ht => callBegin_sound ht)))

theorem runRoutine_sound (h : s.Sound) {c id f} : (runRoutine s c id f).Sound := by
  unfold runRoutine
  extract_lets +onlyGivenNames k
  split
  · exact h
  · exact .ite h (.ite (.setHealth (.update (.setCore h))) (.update (.setCore h)))

theorem execSoftmax_sound (h : s.Sound) {core} : (resultOf s (execSoftmax core s)).Sound :=
  .next (runRoutine_sound h)

theorem execLayernorm_sound (h : s.Sound) {core} : (resultOf s (execLayernorm core s)).Sound :=
  .next (runRoutine_sound h)

theorem execRmsnorm_sound (h : s.Sound) {core} : (resultOf s (execRmsnorm core s)).Sound :=
  .next (runRoutine_sound h)

theorem execLinscan_sound (h : s.Sound) {core} : (resultOf s (execLinscan core s)).Sound :=
  .next (runRoutine_sound h)

theorem execTopk_sound (h : s.Sound) {core} : (resultOf s (execTopk core s)).Sound :=
  .next (runRoutine_sound h)

theorem execSample_sound (h : s.Sound) {core} : (resultOf s (execSample core s)).Sound :=
  .next (runRoutine_sound h)

theorem execXent_sound (h : s.Sound) {core} : (resultOf s (execXent core s)).Sound :=
  .next (runRoutine_sound h)

theorem execConv1d_sound (h : s.Sound) {core} : (resultOf s (execConv1d core s)).Sound :=
  .next (runRoutine_sound h)

/-! ### The mover -/

theorem tmvDispatch_sound (h : s.Sound) {opc core lo imm} : (tmvDispatch opc core lo imm s).Sound :=
  dispatchWith_sound h (fun _ _ _ ht => engDispatch_sound ht)

theorem execTmvCopy_sound (h : s.Sound) {core lo imm} : (resultOf s (execTmvCopy core lo imm s)).Sound :=
  .next (tmvDispatch_sound h)

theorem execTmvGather_sound (h : s.Sound) {core lo imm} : (resultOf s (execTmvGather core lo imm s)).Sound :=
  .next (tmvDispatch_sound h)

theorem execTmvScatter_sound (h : s.Sound) {core lo imm} : (resultOf s (execTmvScatter core lo imm s)).Sound :=
  .next (tmvDispatch_sound h)

theorem execTmvRemote_sound (h : s.Sound) {core lo imm} : (resultOf s (execTmvRemote core lo imm s)).Sound :=
  .next (tmvDispatch_sound h)

theorem checkRead_sound (h : s.Sound) {c addr n} : (checkRead s c addr n).2.2.Sound := by
  unfold checkRead
  split
  · exact h
  · exact .touchRange h

theorem State.Sound.poisonMark (h : s.Sound) {c} : (State.poisonMark s c).Sound :=
  .setHealth (.modCore h)

theorem State.Sound.tmvPoison (h : s.Sound) {c e} : (State.tmvPoison s c e).Sound :=
  .engFault (.poisonMark h)

theorem checkIndex_sound (h : s.Sound) {c e d} : (checkIndex s c e d).Sound := by
  unfold checkIndex
  dsimp only
  split
  · exact .engFault (.modCore h)
  · exact .ite (.engFault (.modCore h)) (.modCore (.modCore h))

theorem checkTail_sound (h : s.Sound) {c e bs lst seen extra} : (checkTail s c e bs lst seen extra).Sound := by
  unfold checkTail
  extract_lets +onlyGivenNames d
  split
  · exact .engFault h
  · exact checkIndex_sound h

theorem checkPhase_sound (h : s.Sound) {c e} : (checkPhase s c e).Sound := by
  have stop : ∀ {t : State} {l}, t.Sound → (match lowestAt l with | some (x, p) => t.engFault c e x p | none => t).Sound := by
    intro t l ht
    split
    · exact .engFault ht
    · exact ht
  have hr : (if tmvDloc e.imm then checkRead s c (tmvDaddr e.imm) (descLen e.imm) else
    (s.descBytes c e, false, s)).2.2.Sound := by
    split
    · exact checkRead_sound h
    · exact h
  unfold checkPhase
  refine .ite (stop h) (.ite (stop (.poisonMark hr)) ?_)
  split
  · exact checkTail_sound hr
  · exact .ite (checkTail_sound hr) (.ite (checkTail_sound (.poisonMark (checkRead_sound hr)))
      (checkTail_sound (checkRead_sound hr)))

theorem execTmvCheckPhase_sound (h : s.Sound) {core ecc} : (resultOf s (execTmvCheckPhase core ecc s)).Sound := by
  unfold execTmvCheckPhase
  split
  · exact .next h
  · split
    · exact .next h
    · exact .next (checkPhase_sound (.ocEcc h))

theorem writeLine_sound (h : s.Sound) {c l img} : (writeLine c s l img).Sound :=
  .ite (.modCore h) (.writeMasked h)

theorem State.Sound.countMover (h : s.Sound) {c e ev addr target} : (State.countMover s c e ev addr target).Sound :=
  .countCore h

theorem State.Sound.moverRead (h : s.Sound) {c e l} : (State.moverRead s c e l).Sound :=
  .ite (.countMover h) (.touchLine (.countMover h))

theorem storeMoving_sound (h : s.Sound) {c e m} : (storeMoving s c e m).Sound :=
  .foldl (fun _ _ ht => .setPoison ht) (.foldl (fun _ _ ht => .countMover (writeLine_sound ht)) (.setCore h))

theorem State.Sound.coalesce (h : s.Sound) {c e rep} : (State.coalesce s c e rep).2.Sound := by
  unfold State.coalesce
  split
  · exact .countCore (.modCore (.free h))
  · exact h

theorem localAccess_sound (h : s.Sound) {c e d} : (localAccess s c e d).Sound :=
  .ite (.tmvPoison (.modCore (storeMoving_sound (.foldl (fun _ _ ht => .moverRead ht) (.coalesce h)))))
    (.modCore (storeMoving_sound (.foldl (fun _ _ ht => .moverRead ht) (.coalesce h))))

theorem issueN_sound {c e d} {n : Nat} (h : s.Sound) : (issueN c e d n s).Sound := by
  induction n generalizing s with
  | zero => exact h
  | succ n ih =>
    unfold issueN
    split
    · exact h
    · split
      · exact ih (.modCore (.request (.countMover h)))
      · exact h

theorem issueRemote_sound (h : s.Sound) {c e d} : (issueRemote s c e d).Sound :=
  issueN_sound h

theorem finishGet_sound (h : s.Sound) {c r} : (finishGet s c r).Sound :=
  .ite (.tmvPoison (storeMoving_sound h)) (storeMoving_sound h)

theorem remoteAccess_sound (h : s.Sound) {c e d} : (remoteAccess s c e d).Sound := by
  unfold remoteAccess
  extract_lets +onlyGivenNames xs srcs
  split
  case _ again s0 e0 =>
    have h0 : s0.Sound := .of_snd e0 (.coalesce h)
    extract_lets +onlyGivenNames reads s1 s2 m ls s3 s4
    have h2 : s2.Sound := .foldl (fun _ _ ht => .moverRead ht) h0
    have h4 : s4.Sound := issueRemote_sound (.modCore h2)
    exact .ite (.ite (finishGet_sound (.modCore h0)) (issueRemote_sound (.modCore h0))) (.ite (.tmvPoison h4) h4)

theorem execTmvAccessPhase_sound (h : s.Sound) {core which ecc hits} :
    (resultOf s (execTmvAccessPhase core which ecc hits s)).Sound := by
  unfold execTmvAccessPhase
  extract_lets +onlyGivenNames k
  split
  · exact .next h
  · extract_lets +onlyGivenNames e
    split
    · exact .next (issueRemote_sound h)
    · split
      · exact .next h
      · split
        case _ go s1 e1 =>
          have h1 : s1.Sound := .of_snd e1 (.bisnp h)
          extract_lets +onlyGivenNames s2
          have h2 : s2.Sound := .hitLines (.ocEcc h1)
          split
          · exact .next h1
          · exact .next (.ite (remoteAccess_sound h2) (localAccess_sound h2))

theorem State.Sound.remoteFail (h : s.Sound) {c r} : (State.remoteFail s c r).Sound :=
  .ite (.engFault (.update (storeMoving_sound (.update h)))) (.engFault (.update h))

theorem execRsignal_sound (h : s.Sound) {core lo imm} : (resultOf s (execRsignal core lo imm s)).Sound :=
  .next (dispatchWith_sound h (fun _ _ _ ht => engDispatch_sound ht))

theorem execSignalRelease_sound (h : s.Sound) {core} : (resultOf s (execSignalRelease core s)).Sound := by
  unfold execSignalRelease
  extract_lets +onlyGivenNames k _
  split
  · exact .next h
  · extract_lets +onlyGivenNames _ dev n s1
    split
    · exact .next h
    · split
      · exact .next h
      · exact .next (.request (.update (.setCore h)))

/-! ### The exchange -/

theorem State.Sound.callNote (h : s.Sound) {c ci code cls v pos detail} : (State.callNote s c ci code cls v pos detail).Sound :=
  .raise h

theorem State.Sound.callFaultAt (h : s.Sound) {c ci code v pos detail} : (State.callFaultAt s c ci code v pos detail).Sound :=
  .haltJob (.modCore (.raiseHalting h))

theorem State.Sound.callFault (h : s.Sound) {c ci code v pos} : (State.callFault s c ci code v pos).Sound :=
  .callFaultAt h

theorem State.Sound.cleWrite (h : s.Sound) {addr bs} : (State.cleWrite s addr bs).Sound :=
  .agentWrite h

theorem State.Sound.cleNum (h : s.Sound) {addr n v} : (State.cleNum s addr n v).Sound :=
  .agentNum h

theorem State.Sound.cleReads (h : s.Sound) {rs} : (State.cleReads s rs).Sound :=
  .engineReads h

theorem State.Sound.readBuckets (h : s.Sound) {addr n} : (State.readBuckets s addr n).Sound :=
  .cleReads (.cleReads h)

theorem execExchStart_sound (h : s.Sound) {core} : (resultOf s (execExchStart core s)).Sound := by
  unfold execExchStart
  split
  · exact .next h
  · extract_lets +onlyGivenNames a n pol s _ _ _ s1
    split
    · exact .next (.callFault (.ite (.readBuckets h) h))
    · split
      · exact .next (.finishCall (.callNote (.ite (.readBuckets h) h)))
      · exact .next (.finishCall (.update (.ite (.readBuckets h) h)))

theorem State.Sound.setSmp (h : s.Sound) {b j v} : (State.setSmp s b j v).Sound :=
  .cleNum h

theorem State.Sound.modSmp (h : s.Sound) {b j f} : (State.modSmp s b j f).Sound :=
  .setSmp (.cleReads h)

theorem State.Sound.readAgreed (h : s.Sound) {b blk n} : (State.readAgreed s b blk n).Sound :=
  .cleReads h

theorem State.Sound.setBucket (h : s.Sound) {i b} : (State.setBucket s i b).Sound :=
  .update h

theorem hopStep_sound {a : HopAcc} (h : a.st.Sound) {bi j b x} : (hopStep bi j b a x).st.Sound := by
  unfold hopStep
  extract_lets +onlyGivenNames s blk c hop s1 _ _ s2 s3
  have h1 : s1.Sound := by
    dsimp only [s1]
    split
    · exact .ite h (.cleWrite h)
    · exact h
  exact .ite (.raise (.update (.countHub h1))) (.update (.countHub h1))

theorem State.Sound.hopRun (h : s.Sound) {bi j b xs} : (State.hopRun s bi j b xs).st.Sound := by
  unfold State.hopRun
  split
  · exact .update h
  · exact .foldl_hop (fun _ _ ht => hopStep_sound ht) (.cleReads h)

theorem State.Sound.learnCensus (h : s.Sound) {bi b j c} : (State.learnCensus s bi b j c).Sound :=
  .ite (.ite (.modSmp h) (.cleWrite (.modSmp h))) (.ite (.modSmp h) (.ite (.update h) (.cleWrite (.cleReads (.update h)))))

theorem State.Sound.writeFinal (h : s.Sound) {b blk v nonf} : (State.writeFinal s b blk v nonf).Sound :=
  .cleNum (.cleNum (.cleWrite h))

theorem State.Sound.writeFinals (h : s.Sound) {b j xs nonf} : (State.writeFinals s b j xs nonf).Sound :=
  .foldl (fun _ _ ht => .writeFinal ht) h

theorem State.Sound.setDiv (h : s.Sound) {b j v} : (State.setDiv s b j v).Sound :=
  .modSmp h

theorem State.Sound.finalsHere (h : s.Sound) {bi j census} : (State.finalsHere s bi j census).Sound :=
  .addHubFlag (.update h)

theorem State.Sound.closeShard (h : s.Sound) {bi j b xs c allNonf} : (State.closeShard s bi j b xs c allNonf).Sound := by
  unfold State.closeShard
  extract_lets +onlyGivenNames nonf key s1 s2 s3 s4 s5 _ s6 bud dev wire
  have h3 : s3.Sound := .foldl (fun _ _ ht => .update (.raise ht)) (.setDiv (.countHub (.writeFinals h)))
  have h4 : s4.Sound := .ite (.setHealth h3) h3
  have h6 : s6.Sound := .learnCensus (.finalsHere (.update (.ite (.setHealth h4) h4)))
  exact .ite h6 (.sendAll h6)

theorem State.Sound.closeAlone (h : s.Sound) {bi j b deadline} : (State.closeAlone s bi j b deadline).Sound :=
  .closeShard (.hopRun (.readAgreed h))

theorem State.Sound.originate (h : s.Sound) {bi j attempt b} : (State.originate s bi j attempt b).Sound := by
  unfold State.originate
  extract_lets +onlyGivenNames ch
  split
  · exact h
  · exact .sendAll (.update (.countHub (.hopRun (.readAgreed h))))

theorem State.Sound.sealBucket (h : s.Sound) {bi b} : (State.sealBucket s bi b).Sound :=
  .foldl (fun _ _ ht => .ite (.closeAlone ht) (.ite (.originate ht) ht))
    (.addHubFlag (.update (.setBucket (.readAgreed (.foldl (fun _ _ ht => .modSmp ht) h)))))

theorem addPiece_sound (h : s.Sound) {c e t b} : (addPiece s c e t b).Sound := by
  unfold addPiece
  refine .ite (.setBucket (.cleWrite (.cleReads (.ite h (.cleReads h))))) ?_
  extract_lets +onlyGivenNames s3 s4 b2
  have h4 : s4.Sound := .foldl (fun _ _ ht => .ite (.setSmp ht) ht) (.cleReads (.cleWrite (.cleReads (.ite h (.cleReads h)))))
  exact .ite (.sealBucket (.setBucket h4)) (.setBucket h4)

theorem startHub_sound (h : s.Sound) {c n e0} (e : startHub s c n = some (e0, t)) : t.Sound := by
  simp only [startHub] at e
  split at e
  · contradiction
  · split at e
    · simp only [Option.some.injEq, Prod.mk.injEq] at e
      exact e.2 ▸ .setCore h
    · contradiction

theorem execCleBucket_sound (h : s.Sound) {core phase} : (resultOf s (execCleBucket core phase s)).Sound := by
  unfold execCleBucket
  split
  · exact .next (dispatchWith_sound h (fun _ _ _ ht => engDispatch_sound ht))
  · split
    · exact .next h
    · next e s1 e =>
      extract_lets +onlyGivenNames t
      split
      · exact .next (.engFault (startHub_sound h e))
      · split
        · exact .next (startHub_sound h e)
        · exact .next (.afterSnoop h (.modCore (addPiece_sound (startHub_sound h e))))

theorem State.Sound.takeStream (h : s.Sound) {g n p} (e : s.takeStream g n = some (p, t)) : t.Sound :=
  takeInbox h e

theorem State.Sound.ackStream (h : s.Sound) {p dup} : (State.ackStream s p dup).Sound :=
  .sendPacket h

theorem State.Sound.acceptStream (h : s.Sound) {gather p} : (State.acceptStream s gather p).Sound :=
  .ackStream (.update h)

theorem State.Sound.modStream (h : s.Sound) {gather p f} : (State.modStream s gather p f).Sound :=
  .update h

theorem State.Sound.reapStreams (h : s.Sound) : (State.reapStreams s).Sound :=
  .update h

theorem onStream_sound (h : s.Sound) {gather ptype f} (hf : ∀ y0 y1 y2 y3, y0.Sound → (f y0 y1 y2 y3).Sound) :
    (onStream s gather ptype f).Sound := by
  unfold onStream
  split
  · exact h
  · next p s1 e =>
    split
    · exact .takeStream h e
    · exact .ite (.ackStream (.takeStream h e)) (.takeStream h e)
    · extract_lets +onlyGivenNames s2
      have h2 : s2.Sound := .acceptStream (.takeStream h e)
      refine .ite (.acceptStream h) ?_
      split
      · exact .reapStreams (hf _ _ _ _ h2)
      · exact h2
    · split
      · exact .reapStreams (hf _ _ _ _ (.takeStream h e))
      · exact .takeStream h e

theorem partAt_sound (h : s.Sound) {p b x} : (partAt s p b x).Sound := by
  unfold partAt
  extract_lets +onlyGivenNames bi j s0 me blocks ch hop mode upd
  have h0 : s0.Sound := .readAgreed h
  have hh : hop.st.Sound := by
    dsimp only [hop]
    split
    · exact h0
    · exact .hopRun h0
  split
  · exact .modStream hh
  · exact .sendAll (.modStream (.countHub hh))

theorem execPart_sound (h : s.Sound) : (resultOf s (execPart s)).Sound :=
  .next (.afterSnoop h (onStream_sound h (fun _ _ _ _ ht => partAt_sound ht)))

theorem ownerClose_sound (h : s.Sound) {p b v c} : (ownerClose s p b v c).Sound := by
  unfold ownerClose
  refine .ite (.modStream (.closeShard h)) (.ite ?_ (.modStream (.closeShard (.setHealth (.setHealth (.raise (.update h)))))))
  split
  · exact .sendPacket (.modStream (.raise (.update h)))
  · exact .modStream (.raise (.update h))

theorem closeAt_sound (h : s.Sound) {p b v} : (closeAt s p b v).Sound := by
  unfold closeAt
  extract_lets +onlyGivenNames c0 c
  split
  · exact ownerClose_sound h
  · exact .sendAll (.modStream h)

theorem execClose_sound (h : s.Sound) : (resultOf s (execClose s)).Sound :=
  .next (.afterSnoop h (onStream_sound h (fun _ _ _ _ ht => closeAt_sound ht)))

theorem execAck_sound (h : s.Sound) : (resultOf s (execAck s)).Sound := by
  unfold execAck
  split
  · exact .next h
  · next p s1 e =>
    split
    · exact .next (.takeType h e)
    · extract_lets +onlyGivenNames hit _
      split
      · exact .next (.takeType h e)
      · exact .next (.reapStreams (.update (.takeType h e)))

theorem execRetry_sound (h : s.Sound) : (resultOf s (execRetry s)).Sound := by
  unfold execRetry
  split
  · exact .next h
  · next p s1 e =>
    split
    · exact .next (.takeType h e)
    · split
      · exact .next (.takeType h e)
      · extract_lets +onlyGivenNames j
        split
        · exact .next (.afterSnoop h (.originate (.takeType h e)))
        · exact .next (.takeType h e)

theorem onFinal_sound (h : s.Sound) {ptype f} (hf : ∀ y0 y1 y2, y0.Sound → (f y0 y1 y2).Sound) : (onFinal s ptype f).Sound := by
  unfold onFinal
  split
  · exact h
  · next p s1 e =>
    refine .ite (.takeInbox h e) ?_
    split
    · exact .takeInbox h e
    · exact .ite (hf _ _ _ (.takeInbox h e)) (.takeInbox h e)

theorem finalAt_sound (h : s.Sound) {p b} : (finalAt s p b).Sound :=
  .update (.foldl (fun _ _ ht => .writeFinal ht) (.ite (.readAgreed h) h))

theorem execFinal_sound (h : s.Sound) : (resultOf s (execFinal s)).Sound :=
  .next (.afterSnoop h (onFinal_sound h (fun _ _ _ ht => finalAt_sound ht)))

theorem execFinalClose_sound (h : s.Sound) : (resultOf s (execFinalClose s)).Sound :=
  .next (.afterSnoop h (onFinal_sound h (fun _ _ _ ht => .finalsHere (.setDiv ht))))

theorem State.Sound.settleStaged (h : s.Sound) : (State.settleStaged s).Sound :=
  .ite (.addHubFlag (.update h)) h

theorem State.Sound.markStaged (h : s.Sound) {bi j} : (State.markStaged s bi j).Sound :=
  .settleStaged (.ite h (.update h))

theorem State.Sound.sendGather (h : s.Sound) {bi j img bytes census} : (State.sendGather s bi j img bytes census).Sound := by
  unfold State.sendGather
  split
  · extract_lets +onlyGivenNames key fca sr image fcs s0 s1 _
    have h0 : s0.Sound := by
      dsimp only [s0]
      split
      · exact .cleWrite (.cleReads h)
      · exact .cleReads h
    split
    · exact .markStaged h0
    · exact .sendAll (.update (.markStaged h0))
  · exact h

theorem State.Sound.gatherShard (h : s.Sound) {bi j} : (State.gatherShard s bi j).Sound := by
  unfold State.gatherShard
  split
  · split
    · exact .ite (.sendGather (.cleReads h)) h
    · exact h
  · exact h

theorem forwardGather_sound (h : s.Sound) {p b v last} : (forwardGather s p b v last).Sound := by
  unfold forwardGather
  split
  · exact .modStream h
  · exact .sendAll (.modStream h)

theorem gatherAt_sound (h : s.Sound) {p b v} : (gatherAt s p b v).Sound := by
  unfold gatherAt
  extract_lets +onlyGivenNames t1
  have ht1 : t1.Sound := by
    dsimp only [t1]
    split
    · exact .cleWrite h
    · exact h
  exact forwardGather_sound (.modStream ht1)

theorem execGather_sound (h : s.Sound) : (resultOf s (execGather s)).Sound :=
  .next (.afterSnoop h (onStream_sound h (fun _ _ _ _ ht => gatherAt_sound ht)))

theorem execGatherFc_sound (h : s.Sound) : (resultOf s (execGatherFc s)).Sound :=
  .next (.afterSnoop h (onStream_sound h (fun _ _ _ _ ht => forwardGather_sound (.modStream (.cleWrite ht)))))

theorem execGatherClose_sound (h : s.Sound) : (resultOf s (execGatherClose s)).Sound :=
  .next (.afterSnoop h (onStream_sound h (fun _ _ _ _ ht => .markStaged (.learnCensus (forwardGather_sound ht)))))

theorem execHopWaitExpiry_sound (h : s.Sound) {bucket shard} : (resultOf s (execHopWaitExpiry bucket shard s)).Sound := by
  unfold execHopWaitExpiry
  split
  · exact .next h
  · extract_lets +onlyGivenNames me _
    split
    · exact .next h
    · exact .next (.update h)

theorem State.Sound.dropStream (h : s.Sound) {v} : (State.dropStream s v).Sound := by
  unfold State.dropStream
  split
  · exact .dropFlow h
  · exact h

theorem execCleHopSkip_sound (h : s.Sound) {gather bucket shard} : (resultOf s (execCleHopSkip gather bucket shard s)).Sound := by
  unfold execCleHopSkip
  split
  · split
    · exact .next h
    · extract_lets +onlyGivenNames ch cut _ gone _ _ s1 _
      split
      · split
        · exact .next (.update (.raise (.update (.dropStream h))))
        · exact .next (.update (.dropStream h))
      · exact .next (.sendAll (.update (.raise (.dropStream h))))
  · exact .next h

theorem execCleDeadline_sound (h : s.Sound) {bucket shard} : (resultOf s (execCleDeadline bucket shard s)).Sound := by
  unfold execCleDeadline
  extract_lets +onlyGivenNames bi j
  split
  · exact .next h
  · split
    · exact .next h
    · exact .next (.afterSnoop h (.closeAlone (.update (.raise h))))

theorem State.Sound.closeExchange (h : s.Sound) {flip keep} : (State.closeExchange s flip keep).Sound := by
  unfold State.closeExchange
  refine .ite h ?_
  extract_lets +onlyGivenNames s1 n _ _ s2 s3 _
  have h1 : s1.Sound := .foldl (fun _ _ ht => .foldl (fun _ _ hu => .modSmp hu) ht) h
  have h2 : s2.Sound := .ite h1 (.update (.raise h1))
  exact .update (.ite h2 (.raise h2))

theorem finishSr_sound (h : s.Sound) {r e} : (finishSr s r e).Sound :=
  .update (.setCore h)

theorem settleSrOne_sound (h : s.Sound) {r} : (settleSrOne s r).Sound := by
  unfold settleSrOne
  refine .ite ?_ h
  split
  · exact finishSr_sound h
  · exact .update h

theorem settleSr_sound (h : s.Sound) : (settleSr s).Sound :=
  .foldl (fun _ _ ht => settleSrOne_sound ht) h

theorem State.Sound.scrambleTile (h : s.Sound) {c t} : (State.scrambleTile s c t).Sound :=
  .update (.modCore h)

theorem srFault_sound (h : s.Sound) {c e code} : (srFault s c e code).Sound :=
  .engFault (.scrambleTile (.update h))

theorem execCleSmallreduce_sound (h : s.Sound) {core phase} : (resultOf s (execCleSmallreduce core phase s)).Sound := by
  unfold execCleSmallreduce
  split
  · exact .next (dispatchWith_sound h (fun _ _ _ ht => engDispatch_sound ht))
  · split
    · exact .next h
    · next e s1 e =>
      extract_lets +onlyGivenNames g n bytes _ s2 s3
      split
      · exact .next (srFault_sound (startHub_sound h e))
      · have h3 : s3.Sound := .foldl (fun _ _ ht => .sendAll ht) (.update (startHub_sound h e))
        exact .next (.ite (srFault_sound h3) (settleSr_sound h3))

theorem execSr_sound (h : s.Sound) {differs} : (resultOf s (execSr differs s)).Sound := by
  unfold execSr
  split
  · exact .next h
  · next p s1 e =>
    split
    · exact .next (.takeType h e)
    · extract_lets +onlyGivenNames g n _ s2
      have h2 : s2.Sound := .update (.takeType h e)
      split
      · split
        · split
          · exact .next (srFault_sound h2)
          · exact .next h2
        · exact .next (settleSr_sound h2)
      · exact .next h2

theorem execCleSrTimeout_sound (h : s.Sound) {group} : (resultOf s (execCleSrTimeout group s)).Sound := by
  unfold execCleSrTimeout
  split
  · exact .next h
  · split
    · split
      · exact .next h
      · exact .next (srFault_sound h)
    · exact .next h

/-! ### The update engine -/

theorem State.Sound.pueWrite (h : s.Sound) {die addr bs} : (State.pueWrite s die addr bs).Sound :=
  .agentWrite h

theorem State.Sound.pueNum (h : s.Sound) {die addr n v} : (State.pueNum s die addr n v).Sound :=
  .agentNum h

theorem State.Sound.pueReads (h : s.Sound) {die rs} : (State.pueReads s die rs).Sound :=
  .engineReads h

theorem State.Sound.readHeaders (h : s.Sound) {die d b} : (State.readHeaders s die d b).Sound :=
  .pueReads h

theorem State.Sound.openStatus (h : s.Sound) {die t g k} : (State.openStatus s die t g k).Sound := by
  unfold State.openStatus
  extract_lets +onlyGivenNames a s1
  have h1 : s1.Sound := .pueReads h
  exact .ite h1 (.pueNum (.pueNum (.pueNum (.pueNum h1))))

theorem State.Sound.bump32 (h : s.Sound) {die addr} : (State.bump32 s die addr).Sound :=
  .pueNum h

theorem State.Sound.statusFlag (h : s.Sound) {die t g k bit} : (State.statusFlag s die t g k bit).Sound :=
  .pueNum (.openStatus h)

theorem State.Sound.writeBlock (h : s.Sound) {die d k alt b grp o} : (State.writeBlock s die d k alt b grp o).Sound := by
  unfold State.writeBlock
  extract_lets +onlyGivenNames n s1 s2
  have h2 : s2.Sound := by
    dsimp only [s2]
    split
    · exact .pueWrite (.pueWrite (.pueWrite h))
    · exact .pueWrite (.pueWrite h)
  exact .pueWrite (.pueNum h2)

theorem finishBlock_sound {a : PueAcc} (h : a.st.Sound) {die d seed cur b grp g caught old new} :
    (finishBlock die d a seed cur b grp g caught old new).st.Sound := by
  unfold finishBlock
  extract_lets +onlyGivenNames call k o s1 th s2 sa s3 s4 p s5 s6 sq upd mst
  have h2 : s2.Sound := .openStatus (.countHub (.writeBlock h))
  exact .ite (.setHealth (.statusFlag (.setPue (.ite (.bump32 (.pueNum h2)) (.pueNum h2)))))
    (.setPue (.ite (.bump32 (.pueNum h2)) (.pueNum h2)))

theorem frozenBlock_sound {a : PueAcc} (h : a.st.Sound) {die grp g touched} : (frozenBlock die a grp g touched).st.Sound := by
  unfold frozenBlock
  split
  · exact h
  · split
    · exact h
    · dsimp only
      exact .statusFlag (.setPue (.bump32 (.openStatus h)))

theorem pueBlock_sound {a : PueAcc} (h : a.st.Sound) {die d seed b} : (pueBlock die d seed a b).st.Sound := by
  unfold pueBlock
  extract_lets +onlyGivenNames k s0 touched
  have h0 : s0.Sound := .pueReads (.readHeaders h)
  split
  · exact h0
  · extract_lets +onlyGivenNames touched adamw s
    split
    · exact h0
    · split
      · exact frozenBlock_sound h0
      · split
        · exact h0
        · exact finishBlock_sound (.pueReads h0)

theorem State.Sound.readTileHeaders (h : s.Sound) {die d t} : (State.readTileHeaders s die d t).Sound :=
  .pueReads h

theorem pueTile_sound {a : PueAcc} (h : a.st.Sound) {die d seed t grp g} : (pueTile die d seed a t grp g).st.Sound := by
  unfold pueTile
  extract_lets +onlyGivenNames k b0 s0 cur _
  have h0 : s0.Sound := .readTileHeaders (.pueReads h)
  split
  · exact .pueWrite (.pueWrite (.foldl_pue (fun _ _ ht => finishBlock_sound ht) (.pueReads h0)))
  · exact h0
  · exact h0

theorem pueStep_sound {a : PueAcc} (h : a.st.Sound) {die d seed} : (pueStep die d seed a).st.Sound := by
  unfold pueStep
  split
  · exact h
  · extract_lets +onlyGivenNames b
    split
    case _ x n e =>
      have hx : x.st.Sound := by
        split at e
        · obtain ⟨rfl, -⟩ := Prod.mk.inj e
          exact pueTile_sound h
        · obtain ⟨rfl, -⟩ := Prod.mk.inj e
          exact pueBlock_sound h
      split
      · exact hx
      · exact hx

theorem runBlocks_sound {die d seed} {n : Nat} {a : PueAcc} (h : a.st.Sound) : (runBlocks die d seed n a).st.Sound := by
  induction n generalizing a with
  | zero => exact h
  | succ n ih => exact ih (pueStep_sound h)

theorem State.Sound.writeStepRec (h : s.Sound) {die t k seed} : (State.writeStepRec s die t k seed).Sound :=
  .ite h (.update (.pueWrite (.pueWrite (.pueReads h))))

theorem State.Sound.runShard (h : s.Sound) {die call d limit} : (State.runShard s die call d limit).st.Sound :=
  runBlocks_sound h

theorem State.Sound.flushSums (h : s.Sound) {die c} : (State.flushSums s die c).Sound :=
  .foldl (fun _ _ ht => .pueNum ht) (.foldl (fun _ _ ht => .pueNum ht) h)

theorem stopUpdate_sound (h : s.Sound) {die c e} : (stopUpdate s die c e).Sound := by
  unfold stopUpdate
  extract_lets +onlyGivenNames core _ s1 s2
  split
  · exact .callFaultAt (.lapse (.setPue (.flushSums h)))
  · exact .lapse (.setPue (.flushSums h))

theorem endUpdate_sound (h : s.Sound) {die c} : (endUpdate s die c).Sound :=
  .finishCall (.lapse (.setPue (.flushSums h)))

theorem State.Sound.noteNonfinite (h : s.Sound) {die c shard} : (State.noteNonfinite s die c shard).Sound := by
  unfold State.noteNonfinite
  split
  · exact .raise h
  · exact h

theorem advancePue_sound {die limit} {n : Nat} {c : PueCall} (h : s.Sound) : (advancePue die limit n s c).Sound := by
  induction n generalizing s c with
  | zero => exact .setPue h
  | succ n ih =>
    unfold advancePue
    split
    · exact endUpdate_sound h
    · refine .ite (ih (.update (.setHealth h))) (.ite (.setPue h) ?_)
      extract_lets +onlyGivenNames a
      have ha : a.st.Sound := .runShard h
      exact .ite (stopUpdate_sound ha) (.ite (.setPue ha) (.setPue (.noteNonfinite ha)))

theorem State.Sound.withCredit (h : s.Sound) {die f} (hf : ∀ y0, y0.Sound → (f y0).Sound) : (State.withCredit s die f).Sound :=
  .ite (hf _ h) (.ite (hf _ (.setPue (.needCredit h))) (.needCredit h))

theorem State.Sound.continueUpdate (h : s.Sound) {die limit c} : (State.continueUpdate s die limit c).Sound :=
  .ite h (.withCredit h (fun _ ht => advancePue_sound (.writeStepRec ht)))

theorem State.Sound.readsTable (h : s.Sound) {die addr} : (State.readsTable s die addr).Sound :=
  .ite h (.ite (.pueReads h) (.pueReads (.pueReads (.pueReads h))))

theorem State.Sound.readsDescs (h : s.Sound) {agent es} : (State.readsDescs s agent es).Sound :=
  .engineReads h

theorem State.Sound.readsHeaders (h : s.Sound) {die d} : (State.readsHeaders s die d).Sound :=
  .ite (.pueReads h) h

theorem State.Sound.setFallback (h : s.Sound) {die t v} : (State.setFallback s die t v).Sound :=
  .pueNum (.pueNum (.pueReads h))

theorem State.Sound.takeTable (h : s.Sound) {die t} : (State.takeTable s die t).Sound :=
  .update (.foldl (fun _ _ ht => .setFallback ht) h)

theorem State.Sound.pueRefuse (h : s.Sound) {core ci} : (State.pueRefuse s core ci).Sound :=
  .callFault h

theorem startUpdate_sound (h : s.Sound) {core die ci limit} : (startUpdate core die ci limit s).Sound := by
  unfold startUpdate
  extract_lets +onlyGivenNames ma ta s1
  have h1 : s1.Sound := .readsTable (.readsMap h)
  refine .ite (.pueRefuse h1) ?_
  extract_lets +onlyGivenNames m t s2 todo s3
  have h3 : s3.Sound := .foldl (fun _ _ ht => .readsHeaders ht) (.readsDescs h1)
  exact .ite (.pueRefuse h3) (.continueUpdate (.setPue (.takeTable (.pueReads h3))))

theorem execUpdate_sound (h : s.Sound) {core blocks} : (resultOf s (execUpdate core blocks s)).Sound := by
  unfold execUpdate
  split
  · exact .next h
  · extract_lets +onlyGivenNames die
    split
    · split
      · exact .next (.afterSnoop h (.continueUpdate h))
      · exact .next h
    · split
      · exact .next (.afterSnoop h (startUpdate_sound h))
      · exact .next h

theorem execShardFinalsReady_sound (h : s.Sound) {die blocks} : (resultOf s (execShardFinalsReady die blocks s)).Sound := by
  unfold execShardFinalsReady
  split
  · exact .next h
  · exact .next (.afterSnoop h (.continueUpdate h))

theorem State.Sound.mismatch (h : s.Sound) {ent owner ownerSuspect} : (State.mismatch s ent owner ownerSuspect).Sound :=
  .update (.ite (.setHealth (.setHealth h)) (.setHealth h))

theorem State.Sound.settleDigest (h : s.Sound) {ent} : (State.settleDigest s ent).Sound := by
  unfold State.settleDigest
  extract_lets +onlyGivenNames own _ _
  split
  · exact .ite h (.ite (.update h) (.mismatch h))
  · exact h

theorem finishShard_sound (h : s.Sound) {die c e d} : (finishShard s die c e d).Sound := by
  unfold finishShard
  extract_lets +onlyGivenNames dg en s1 ent _ _ _ s2 s3
  have h3 : s3.Sound := .settleDigest (.gatherShard (.update (.ite (.pueWrite h) h)))
  split
  · exact .ite (.sendPacket h3) h3
  · exact h3

theorem execShardImageComplete_sound (h : s.Sound) {die blocks} : (resultOf s (execShardImageComplete die blocks s)).Sound := by
  unfold execShardImageComplete
  split
  · exact .next h
  · split
    · split
      · exact .next h
      · exact .next (.afterSnoop h (.continueUpdate (.setPue (finishShard_sound h))))
    · exact .next h

theorem precondRoot_sound (h : s.Sound) {die core ci addr pos} : (precondRoot die core ci addr s pos).2.2.2.Sound := by
  unfold precondRoot
  split
  split
  · exact h
  · exact h
  · exact h
  · exact .callNote (.setPue h)
  · exact .callNote (.setPue h)

theorem State.Sound.mark (h : s.Sound) {g f} : (State.mark s g f).Sound :=
  .update h

theorem State.Sound.countFallback (h : s.Sound) {die f g} : (State.countFallback s die f g).Sound := by
  unfold State.countFallback
  split
  · exact .ite (.setFallback h) h
  · exact .mark h

theorem rootTile_sound (h : s.Sound) {die core ci k x cur} : (rootTile die core ci k s x cur).Sound := by
  have hp : ∀ {t : State} {a pos}, t.Sound → (precondRoot die core ci a t pos).2.2.2.Sound := fun ht => precondRoot_sound ht
  unfold rootTile
  generalize precondRoot die core ci = f at hp ⊢
  extract_lets +onlyGivenNames aa s1 l r back s2
  have h1 : s1.Sound := .readHeaders (.pueReads h)
  have h2 : s2.Sound := .pueWrite (.pueWrite (hp (hp h1)))
  clear_value s2
  split
  · exact .countFallback h2
  · exact h2

theorem precondTile_sound (h : s.Sound) {die c ci k x} (e : precondTile die c ci k s x = some t) : t.Sound := by
  simp only [precondTile, Option.map_eq_some_iff] at e
  obtain ⟨_, -, rfl⟩ := e
  exact rootTile_sound (.readTileHeaders h)

theorem preStep_sound (h : s.Sound) {die core ci} : (preStep die core ci s).Sound := by
  unfold preStep
  extract_lets +onlyGivenNames done
  split
  · exact h
  · split
    · exact .finishCall (.lapse (.setPue h))
    · split
      · next t e =>
        exact .setPue (precondTile_sound h e)
      · exact .callFault (.lapse (.setPue h))

theorem runTiles_sound {die core ci} {n : Nat} (h : s.Sound) : (runTiles die core ci n s).Sound := by
  induction n generalizing s with
  | zero => exact h
  | succ n ih => exact ih (preStep_sound h)

theorem State.Sound.continuePrecond (h : s.Sound) {die core ci limit r} : (State.continuePrecond s die core ci limit r).Sound :=
  .ite h (.withCredit h (fun _ ht => runTiles_sound ht))

theorem startPrecond_sound (h : s.Sound) {core die ci limit} : (startPrecond core die ci limit s).Sound := by
  unfold startPrecond
  exact .ite (.pueRefuse h) (.ite (.finishCall h)
    (.ite (.pueRefuse (.pueReads (.pueReads h)))
      (.continuePrecond (.setPue (.foldl (fun _ _ ht => .countFallback ht)
        (.foldl (fun _ _ ht => .readHeaders ht) (.pueReads (.pueReads h))))))))

theorem execPrecond_sound (h : s.Sound) {core tiles} : (resultOf s (execPrecond core tiles s)).Sound := by
  unfold execPrecond
  split
  · exact .next h
  · extract_lets +onlyGivenNames die
    split
    · split
      · exact .next (.afterSnoop h (.continuePrecond h))
      · exact .next h
    · split
      · exact .next (.afterSnoop h (startPrecond_sound h))
      · exact .next h

theorem execAllgather_sound (h : s.Sound) {core} : (resultOf s (execAllgather core s)).Sound := by
  unfold execAllgather
  split
  · exact .next h
  · extract_lets +onlyGivenNames a s _ s1 s2
    split
    · exact .next (.callFault (.readsMap h))
    · split
      · exact .next (.finishCall (.readsMap h))
      · exact .next (.afterSnoop h (.finishCall (.settleStaged (.foldl (fun _ _ ht => .gatherShard ht) (.update (.readsMap h))))))

/-! ### Votes -/

theorem State.Sound.sendCke (h : s.Sound) {ptype dst payload} : (State.sendCke s ptype dst payload).Sound :=
  .sendPacket h

theorem State.Sound.sendCkeAll (h : s.Sound) {ptype dsts payload} : (State.sendCkeAll s ptype dsts payload).Sound :=
  .foldl (fun _ _ ht => .sendCke ht) h

theorem State.Sound.takeCke (h : s.Sound) {n p l} (e : s.takeCke n = some (p, l, t)) : t.Sound := by
  simp only [State.takeCke, Option.map_eq_some_iff, Prod.mk.injEq] at e
  obtain ⟨x, hx, -, -, rfl⟩ := e
  exact .takeType h hx

theorem State.Sound.tryDecide (h : s.Sound) : (State.tryDecide s).Sound :=
  .ite (.update (.ite (.setHealth h) h)) h

theorem State.Sound.sendVote (h : s.Sound) : (State.sendVote s).Sound := by
  unfold State.sendVote
  split
  · exact .sendCke h
  · exact h

theorem State.Sound.tryVote (h : s.Sound) : (State.tryVote s).Sound :=
  .ite h (.ite (.tryDecide h) (.sendVote (.update h)))

theorem execReady_sound (h : s.Sound) : (resultOf s (execReady s)).Sound := by
  unfold execReady
  split
  · exact .next h
  · exact .next (.tryVote (.update (.ite h (.update h))))

theorem execStageMissing_sound (h : s.Sound) : (resultOf s (execStageMissing s)).Sound := by
  unfold execStageMissing
  split
  · exact .next h
  · exact .next (.update (.setHealth h))

theorem execDigest_sound (h : s.Sound) : (resultOf s (execDigest s)).Sound := by
  unfold execDigest
  split
  · exact .next h
  · next p gone s1 e =>
    extract_lets +onlyGivenNames ent _ _
    split
    · exact .next (.takeCke h e)
    · split
      · exact .next (.takeCke h e)
      · exact .next (.settleDigest (.update (.takeCke h e)))

theorem execDigestTimeout_sound (h : s.Sound) {ent} : (resultOf s (execDigestTimeout ent s)).Sound := by
  unfold execDigestTimeout
  split
  · exact .next h
  · split
    · exact .next h
    · exact .next (.mismatch h)

theorem State.Sound.learnLoss (h : s.Sound) {dev} : (State.learnLoss s dev).Sound :=
  .ite h (.foldl (fun _ _ ht => .ite (.gatherShard ht) ht) (.update h))

theorem State.Sound.spreadLoss (h : s.Sound) {dev} : (State.spreadLoss s dev).Sound :=
  .learnLoss (.sendCkeAll h)

theorem State.Sound.declareLost (h : s.Sound) {dev} : (State.declareLost s dev).Sound :=
  .ite (.spreadLoss (.update (.setHealth h))) (.sendCke (.update (.setHealth h)))

theorem State.Sound.probeOne (h : s.Sound) {dev} : (State.probeOne s dev).Sound :=
  .ite (.declareLost h) (.sendCke (.update h))

theorem execProbeTick_sound (h : s.Sound) : (resultOf s (execProbeTick s)).Sound := by
  unfold execProbeTick
  split
  · exact .next h
  · exact .next (.tryVote (.foldl (fun _ _ ht => .probeOne ht) h))

theorem execProbe_sound (h : s.Sound) : (resultOf s (execProbe s)).Sound := by
  unfold execProbe
  split
  · exact .next h
  · next p gone s1 e =>
    exact .next (.ite (.takeCke h e) (.sendPacket (.takeCke h e)))

theorem execProbeAck_sound (h : s.Sound) : (resultOf s (execProbeAck s)).Sound := by
  unfold execProbeAck
  split
  · exact .next h
  · next p gone s1 e =>
    exact .next (.ite (.takeCke h e) (.update (.takeCke h e)))

theorem execLossNotice_sound (h : s.Sound) : (resultOf s (execLossNotice s)).Sound := by
  unfold execLossNotice
  split
  · exact .next h
  · next p gone s1 e =>
    split
    · exact .next (.takeCke h e)
    · exact .next (.afterSnoop h (.tryVote (.spreadLoss (.takeCke h e))))

theorem execVote_sound (h : s.Sound) : (resultOf s (execVote s)).Sound := by
  unfold execVote
  split
  · exact .next h
  · next p gone s1 e =>
    split
    · exact .next (.takeCke h e)
    · exact .next (.tryVote (.sendCke (.update (.takeCke h e))))

theorem execVoteAck_sound (h : s.Sound) : (resultOf s (execVoteAck s)).Sound := by
  unfold execVoteAck
  split
  · exact .next h
  · next p gone s1 e =>
    split
    · exact .next (.takeCke h e)
    · exact .next (.update (.takeCke h e))

theorem execVoteTimeout_sound (h : s.Sound) : (resultOf s (execVoteTimeout s)).Sound := by
  unfold execVoteTimeout
  split
  · exact .next h
  · exact .next (.sendVote (.update h))

theorem execCkeOrphaned_sound (h : s.Sound) : (resultOf s (execCkeOrphaned s)).Sound := by
  unfold execCkeOrphaned
  split
  · exact .next h
  · exact .next (.haltJob (.raiseHalting (.update h)))

/-! ### Decisions -/

theorem State.Sound.takeDecision (h : s.Sound) {action} : (State.takeDecision s action).2.Sound := by
  unfold State.takeDecision
  split
  · split
    · exact .update h
    · exact h
  · split
    · exact h
    · next p s1 e =>
      extract_lets +onlyGivenNames d
      split
      · exact .takeInbox h e
      · split
        · exact .sendCke (.takeInbox h e)
        · split <;> exact .takeInbox h e

theorem State.Sound.addLost (h : s.Sound) {dev} : (State.addLost s dev).Sound :=
  .ite h (.raise (.update h))

theorem State.Sound.gateHalt (h : s.Sound) {code payload st} : (State.gateHalt s code payload st).Sound :=
  .haltJob (.raiseHalting (.update h))

theorem State.Sound.suspendNow (h : s.Sound) : (State.suspendNow s).Sound :=
  .ite (.foldl (fun _ _ ht => .modCore ht) h) h

theorem applyDecision_sound (h : s.Sound) {action f} (hf : ∀ t d, t.Sound → (f t d).Sound) :
    (applyDecision action f s).Sound := by
  unfold applyDecision
  split
  case h_1 e => exact .of_snd e (.takeDecision h)
  case h_2 d src s1 e =>
    have h1 : s1.Sound := .of_snd e (.takeDecision h)
    extract_lets +onlyGivenNames told _ s2 s3 _ s4 ent s5
    have h2 : s2.Sound := .update (.sendCkeAll h1)
    have h3 : s3.Sound := by
      dsimp only [s3]
      split
      · exact .sendCke h2
      · exact h2
    have h4 : s4.Sound := .update h3
    exact .raiseVec (.ite (.gateHalt h4) (hf _ _ h4))

theorem execDecisionAck_sound (h : s.Sound) : (resultOf s (execDecisionAck s)).Sound := by
  unfold execDecisionAck
  split
  · exact .next h
  · next p gone s1 e =>
    exact .next (.ite (.takeCke h e) (.update (.takeCke h e)))

theorem execDecisionResend_sound (h : s.Sound) : (resultOf s (execDecisionResend s)).Sound := by
  unfold execDecisionResend
  split
  · exact .next h
  · exact .next (.foldl (fun _ _ ht => .sendPacket ht) h)

theorem State.Sound.loadSeeds (h : s.Sound) {k} : (State.loadSeeds s k).Sound :=
  .foldl (fun _ _ ht => .modCore ht) h

theorem commitStep_sound (h : s.Sound) {d} : (commitStep s d).Sound := by
  unfold commitStep
  extract_lets +onlyGivenNames k s1 _ s2 stride n s3 s4 _ s5 _ _ s6
  have h1 : s1.Sound := .foldl (fun _ _ ht => .addLost ht) h
  have h2 : s2.Sound := .closeExchange (.update h1)
  have h3 : s3.Sound := .ite (.foldl (fun _ _ ht => .modCore ht) h2) h2
  have h4 : s4.Sound := .latchCounters (.loadSeeds h3)
  have h5 : s5.Sound := .addHubFlag (.update h4)
  clear_value s5
  have h6 : s6.Sound := ⟨h5.wf, (List.length_map ..).trans h5.cores_length, h5.queue_length, h5.throttle_le⟩
  exact .suspendNow (.beginAttempt h6)

theorem execCommit_sound (h : s.Sound) : (resultOf s (execCommit s)).Sound :=
  .next (.afterSnoop h (applyDecision_sound h (fun _ _ ht => commitStep_sound ht)))

theorem undoBlock_sound (h : s.Sound) {die d k b} : (undoBlock die d k s b).Sound := by
  unfold undoBlock
  extract_lets +onlyGivenNames s hit mark s1
  have h1 : s1.Sound := .ite (.pueNum (.ite (.pueNum (.readHeaders h)) (.readHeaders h)))
    (.ite (.pueNum (.readHeaders h)) (.readHeaders h))
  refine .ite (.readHeaders h) ?_
  split
  · exact h1
  · exact .pueWrite (.pueReads h1)

theorem State.Sound.undoStep (h : s.Sound) {k} : (State.undoStep s k).Sound :=
  .foldl (fun _ _ ht => .foldl (fun _ _ hu => undoBlock_sound hu) (.readsDescs ht)) h

theorem abortStep_sound (h : s.Sound) {d} : (abortStep s d).Sound := by
  unfold abortStep
  extract_lets +onlyGivenNames k s1 s2 s3 _ s4 pay _ _ s5
  have h3 : s3.Sound := .addHubFlag (.latchCounters
    (.loadSeeds (.closeExchange (.undoStep (.foldl (fun _ _ ht => .addLost ht) h)))))
  exact .ite (.settleRewind (.foldl (fun _ _ ht => .modCore ht) (.update (.raise (.update h3))))) (.gateHalt (.update h3))

theorem execAbortStep_sound (h : s.Sound) : (resultOf s (execAbortStep s)).Sound :=
  .next (.afterSnoop h (applyDecision_sound h (fun _ _ ht => abortStep_sound ht)))

theorem rerunShard_sound (h : s.Sound) {e} : (rerunShard s e).Sound := by
  unfold rerunShard
  split
  · exact h
  · exact .ite (finishShard_sound (.flushSums (.noteNonfinite (.runShard (.pueReads (.readsDescs h))))))
      (.haltJob (.raiseHalting (.runShard (.pueReads (.readsDescs h)))))

theorem retryStep_sound (h : s.Sound) {d} : (retryStep s d).Sound :=
  .foldl (fun _ _ ht => rerunShard_sound ht)
    (.beginAttempt (.update (.raise (.addHubFlag (.foldl (fun _ _ ht => .addLost ht) h)))))

theorem execRetryUpdate_sound (h : s.Sound) : (resultOf s (execRetryUpdate s)).Sound :=
  .next (.afterSnoop h (applyDecision_sound h (fun _ _ ht => retryStep_sound ht)))

theorem execHaltAll_sound (h : s.Sound) : (resultOf s (execHaltAll s)).Sound :=
  .next (applyDecision_sound h (fun _ _ ht => .gateHalt (.foldl (fun _ _ hu => .addLost hu) ht)))

theorem State.Sound.ckeCtlWrite (h : s.Sound) {w} : (State.ckeCtlWrite s w).Sound := by
  unfold State.ckeCtlWrite
  split
  case _ v s1 e =>
    have h1 : s1.Sound := .of_snd e (.lockedWrite h)
    exact .ite (.setHealth (.update h1)) (.update h1)

theorem execHostAbort_sound (h : s.Sound) {w} : (resultOf s (execHostAbort w s)).Sound :=
  .onBar h (fun _ ht => .ckeCtlWrite ht)

theorem putPiece_sound {p : List (ℕ × ℕ × List Byte) × State} (h : p.2.Sound) {core o v} : (putPiece core o p v).2.Sound := by
  unfold putPiece
  split
  · exact h
  · exact .request h

theorem issuePuts_sound (h : s.Sound) {core o todo} : (issuePuts core o todo s).2.Sound :=
  .foldl_two (fun _ _ ht => putPiece_sound ht) h

theorem State.Sound.settleReshard (h : s.Sound) : (State.settleReshard s).Sound := by
  unfold State.settleReshard
  split
  · exact h
  · exact .ite (.finishCall (.addHubFlag (.update (issuePuts_sound h)))) (.update (issuePuts_sound h))

theorem execReshard_sound (h : s.Sound) {core} : (resultOf s (execReshard core s)).Sound := by
  unfold execReshard
  split
  · exact .next h
  · split
    · exact .next h
    · extract_lets +onlyGivenNames a b share sm s ma mb me moves live out here inn sr s1 r _
      split
      · exact .next (.callFault (.ite (.readsDescs (.readsMap (.readsMap h))) (.readsMap (.readsMap h))))
      · exact .next (.afterSnoop h (.settleReshard
          (.update (.foldl (fun _ _ ht => .agentWrite ht)
            (.engineReads (.ite (.readsDescs (.readsMap (.readsMap h))) (.readsMap (.readsMap h))))))))

theorem State.Sound.readsSlots (h : s.Sound) {es} : (State.readsSlots s es).Sound :=
  .engineReads (.engineReads h)

theorem State.Sound.settleCkpt (h : s.Sound) : (State.settleCkpt s).Sound := by
  unfold State.settleCkpt
  split
  · exact h
  · exact .ite (.update (issuePuts_sound h))
      (.ite (.update (issuePuts_sound (issuePuts_sound h))) (.finishCall (.addHubFlag (.update (issuePuts_sound h)))))

theorem execCkpt_sound (h : s.Sound) {core} : (resultOf s (execCkpt core s)).Sound := by
  unfold execCkpt
  split
  · exact .next h
  · split
    · exact .next h
    · extract_lets +onlyGivenNames a target gen sm m own sd lens s slots r _
      split
      · exact .next (.callFault (.ite (.readsDescs (.readsMap h)) (.readsMap h)))
      · exact .next (.settleCkpt (.update (.readsSlots (.ite (.readsDescs (.readsMap h)) (.readsMap h)))))

theorem State.Sound.restoreFail (h : s.Sound) : (State.restoreFail s).Sound :=
  .gateHalt (.update h)

theorem askSlots_sound {n : Nat} (h : s.Sound) : (askSlots n s).Sound := by
  induction n generalizing s with
  | zero => exact h
  | succ n ih =>
    unfold askSlots
    split
    · exact h
    · split
      · split
        · exact h
        · exact ih (.request (.update h))
      · exact h

theorem restoreSlot_sound (h : s.Sound) {d bs} : (restoreSlot s d bs).Sound := by
  unfold restoreSlot
  extract_lets +onlyGivenNames n mb put has o1 o2 o3 o4 part s1 s2 s3 s4
  have h1 : s1.Sound := .agentWrite (.agentWrite h)
  have h3 : s3.Sound := .ite (.agentWrite (.ite (.agentWrite h1) h1)) (.ite (.agentWrite h1) h1)
  exact .foldl (fun _ _ ht => .agentWrite (.agentWrite ht)) (.ite (.foldl (fun _ _ ht => .agentWrite (.agentWrite ht)) h3) h3)

theorem clearSample_sound (h : s.Sound) {d} : (clearSample s d).Sound :=
  .agentNum (.engineReads h)

theorem restoreStat_sound (h : s.Sound) {bs} : (restoreStat s bs).Sound := by
  unfold restoreStat
  split
  · exact h
  · exact .agentNum (.agentWrite (.agentWrite (.agentWrite h)))

theorem restoreOne_sound (h : s.Sound) {ent bs first} : (restoreOne s ent bs first).Sound := by
  unfold restoreOne
  split
  · exact h
  · extract_lets +onlyGivenNames d n t1
    have ht1 : t1.Sound := clearSample_sound (restoreSlot_sound h)
    exact .ite (restoreStat_sound ht1) ht1

theorem State.Sound.finishRestore (h : s.Sound) {r} : (State.finishRestore s r).Sound := by
  unfold State.finishRestore
  exact .ite (.restoreFail h) (.gateHalt (.update (.addHubFlag (.closeExchange (.foldl (fun _ _ ht => restoreOne_sound ht) h)))))

theorem State.Sound.settleRestore (h : s.Sound) : (State.settleRestore s).Sound := by
  unfold State.settleRestore
  split
  · exact h
  · exact .ite (.finishRestore h) (askSlots_sound h)

theorem State.Sound.restorePiece (h : s.Sound) {slot off bs bad} : (State.restorePiece s slot off bs bad).Sound := by
  unfold State.restorePiece
  split
  · exact h
  · exact .ite (.restoreFail h) (.settleRestore (.update h))

theorem rollbackStep_sound (h : s.Sound) {d} : (rollbackStep s d).Sound := by
  unfold rollbackStep
  extract_lets +onlyGivenNames k s1 _ s2 _
  have h1 : s1.Sound := .latchCounters (.foldl (fun _ _ ht => .addLost ht) h)
  split
  · exact .restoreFail (.update h1)
  · exact .ite (.restoreFail (.update h1)) (.settleRestore (.update (.update h1)))

theorem execRollback_sound (h : s.Sound) : (resultOf s (execRollback s)).Sound :=
  .next (.afterSnoop h (applyDecision_sound h (fun _ _ ht => rollbackStep_sound ht)))

/-! ### Completion -/

theorem commandComplete_sound (h : s.Sound) {core engine which} : (commandComplete core engine which s).Sound := by
  unfold commandComplete
  split
  · exact h
  · exact settleFence_sound (csigFire_sound (.modCore h))

/-! ### Memory -/

theorem scrubLine_sound (h : s.Sound) {ns d v n} : (scrubLine ns d v s n).Sound :=
  .touchLineAs h

theorem execScrubRead_sound (h : s.Sound) {die hits} : (resultOf s (execScrubRead die hits s)).Sound := by
  unfold execScrubRead
  extract_lets +onlyGivenNames s x s1
  split
  · exact .next (.setDie (.foldl (fun _ _ ht => scrubLine_sound ht) (.hitLines h)))
  · exact .next (.hitLines h)

theorem State.Sound.failStack (h : s.Sound) {d n} : (State.failStack s d n).Sound :=
  .loseDie (.setDie h)

theorem execMemStackFail_sound (h : s.Sound) {die stack} : (resultOf s (execMemStackFail die stack s)).Sound := by
  unfold execMemStackFail
  split
  · exact .next (.failStack h)
  · exact .next h

theorem State.Sound.t2Offline (h : s.Sound) {p cause link} : (State.t2Offline s p cause link).Sound := by
  unfold State.t2Offline
  refine .raise ?_
  exact .update_mem h rfl rfl rfl

theorem execT2LinkDown_sound (h : s.Sound) {port} : (resultOf s (execT2LinkDown port s)).Sound := by
  unfold execT2LinkDown
  split
  · exact .next (.t2Offline h)
  · exact .next h

theorem execExpanderFatal_sound (h : s.Sound) {port} : (resultOf s (execExpanderFatal port s)).Sound := by
  unfold execExpanderFatal
  split
  · exact .next (.t2Offline h)
  · exact .next h

theorem State.Sound.memInject (h : s.Sound) {d w} : (State.memInject s d w).Sound :=
  .ite h (.ite (.update (.setLineErr (.setDie h))) (.setDie h))

theorem execMemInject_sound (h : s.Sound) {die w} : (resultOf s (execMemInject die w s)).Sound :=
  .onBar h (fun _ ht => .memInject ht)

theorem State.Sound.answerPoison (h : s.Sound) {line} : (State.answerPoison s line).Sound :=
  .emit h

theorem State.Sound.noteNotReady (h : s.Sound) {addr} : (State.noteNotReady s addr).Sound :=
  .raise h

theorem State.Sound.fillSnoop (h : s.Sound) {line} : (State.fillSnoop s line).Sound := by
  unfold State.fillSnoop
  refine .ite h ?_
  extract_lets +onlyGivenNames s1 _
  have h1 : s1.Sound := by
    dsimp only [s1]
    refine .ite h ?_
    split
    · exact h
    · exact .sendBisnp h
  exact .update h1

theorem execCxlMemRead_sound (h : s.Sound) {line cache hits} : (resultOf s (execCxlMemRead line cache hits s)).Sound := by
  unfold execCxlMemRead
  extract_lets +onlyGivenNames l s s
  split
  · exact .next (.hitLines h)
  · split
    · exact .next (.answerPoison (.countHub (.hitLines h)))
    · split
      · exact .next (.answerPoison (.noteNotReady (.countHub (.hitLines h))))
      · exact .next (.ite (.fillSnoop (.emit (.touchLine (.countHub (.hitLines h)))))
          (.emit (.touchLine (.countHub (.hitLines h)))))

theorem execCxlMemWrite_sound (h : s.Sound) {line data mask poison keep} :
    (resultOf s (execCxlMemWrite line data mask poison keep s)).Sound := by
  unfold execCxlMemWrite
  extract_lets +onlyGivenNames l a s s2 s3 _
  split
  · exact .next h
  · split
    · exact .next (.countHub h)
    · split
      · exact .next (.noteNotReady (.countHub h))
      · have h3 : s3.Sound := .ite (.setPoison (.writeMasked (.countHub h))) (.writeMasked (.countHub h))
        exact .next (.ite h3 (.update h3))

theorem execBisnpResponse_sound (h : s.Sound) {line} : (resultOf s (execBisnpResponse line s)).Sound :=
  .next (.update h)

theorem execHostBisnpTimeout_sound (h : s.Sound) {line} : (resultOf s (execHostBisnpTimeout line s)).Sound := by
  unfold execHostBisnpTimeout
  split
  · exact .next (.raise h)
  · exact .next h

/-! ### Jobs and rings -/

theorem State.Sound.setRing (h : s.Sound) {q r} : (State.setRing s q r).Sound :=
  .update h

theorem State.Sound.writeDeviceLine (h : s.Sound) {q} : (State.writeDeviceLine s q).Sound :=
  .countHub (.emit h)

theorem State.Sound.writeCompletion (h : s.Sound) {v} : (State.writeCompletion s v).Sound := by
  unfold State.writeCompletion
  extract_lets +onlyGivenNames r n bs s1 s2
  have h2 : s2.Sound := .writeDeviceLine (.setRing (.countHub (.emit h)))
  exact .ite (.raiseVec h2) h2

theorem State.Sound.sendCompletion (h : s.Sound) {v} : (State.sendCompletion s v).Sound :=
  .ite (.writeCompletion h) (.update h)

theorem State.Sound.flushCq (h : s.Sound) : (State.flushCq s).Sound :=
  .foldl (fun _ _ ht => .sendCompletion ht) (.update h)

theorem settleNops_sound {q n : Nat} (h : s.Sound) : (settleNops q n s).Sound := by
  induction n generalizing s with
  | zero => exact h
  | succ n ih =>
    unfold settleNops
    extract_lets +onlyGivenNames r
    split
    · exact h
    · exact .ite h (ih (.sendCompletion (.setRing h)))

theorem State.Sound.entryDone (h : s.Sound) {q idx} : (State.entryDone s q idx).Sound :=
  settleNops_sound (.setRing h)

theorem State.Sound.answerEntry (h : s.Sound) {v} : (State.answerEntry s v).Sound :=
  .entryDone (.sendCompletion h)

theorem State.Sound.raiseAnswer (h : s.Sound) {code payload v} : (State.raiseAnswer s code payload v).Sound := by
  unfold State.raiseAnswer
  refine .ite (.offer h) (.answerEntry ?_)
  exact .update_err h rfl

theorem execHostLineUpdate_sound (h : s.Sound) {q sqTail cqHead poisoned} :
    (resultOf s (execHostLineUpdate q sqTail cqHead poisoned s)).Sound := by
  unfold execHostLineUpdate
  extract_lets +onlyGivenNames r s0
  split
  · exact .next h
  · split
    · exact .next (.raise (.countHub h))
    · split
      · exact .next (.raiseVec (.raise (.setRing (.countHub h))))
      · exact .next (.flushCq (.setRing (.countHub h)))

theorem State.Sound.readEntry (h : s.Sound) {q} : (State.readEntry s q).2.Sound := by
  unfold State.readEntry
  extract_lets +onlyGivenNames r n r1 s0
  split
  · exact .writeDeviceLine (.setRing (.countHub h))
  · exact .setRing (.countHub h)

theorem onEntry_sound (h : s.Sound) {q op e f} (hf : ∀ t n, t.Sound → (f t n).Sound) :
    (resultOf s (onEntry s q op e f)).Sound := by
  have hr : (s.readEntry q.val).2.Sound := .readEntry h
  unfold onEntry
  split
  · exact .next h
  · dsimp only
    split
    · exact .next (.raiseAnswer (.ite (.raise hr) hr))
    · exact .next (hf _ _ hr)

theorem State.Sound.refuseState (h : s.Sound) {q idx op e} : (State.refuseState s q idx op e).Sound :=
  .raiseAnswer h

theorem execStart_sound (h : s.Sound) {q e} : (resultOf s (execStart q e s)).Sound :=
  onEntry_sound h (fun _ _ ht => .update ht)

theorem execRingNop_sound (h : s.Sound) {q op e} : (resultOf s (execRingNop q op e s)).Sound := by
  unfold execRingNop
  split
  · exact .next h
  · exact onEntry_sound h (fun _ _ ht => settleNops_sound (.setRing ht))

theorem State.Sound.readDesc (h : s.Sound) {addr} : (State.readDesc s addr).Sound :=
  .ite h (.ite (.engineReads (.engineReads h)) (.engineReads h))

theorem startCore_sound {t : State} (h : t.Sound) {j pb lb c} : (startCore j pb lb t c).Sound := by
  unfold startCore
  exact .modCore h

theorem State.Sound.startGate (h : s.Sound) {j} : (State.startGate s j).Sound :=
  .beginAttempt (.update h)

theorem State.Sound.beginJob (h : s.Sound) {j} : (State.beginJob s j).Sound := by
  unfold State.beginJob
  extract_lets +onlyGivenNames _ _ _ _ s1
  have h1 : s1.Sound := .update_pwr h rfl
  exact .ite (.startGate h1) h1

theorem State.Sound.startJob (h : s.Sound) {e} : (State.startJob s e).Sound :=
  .entryDone (.foldl (fun _ _ ht => startCore_sound ht) (.beginJob h))

theorem execJobStart_sound (h : s.Sound) : (resultOf s (execJobStart s)).Sound := by
  unfold execJobStart
  split
  · exact .next h
  · split
    · exact .next h
    · extract_lets +onlyGivenNames s0 _ s1
      split
      · exact .next (.raiseAnswer (.update (.readDesc h)))
      · exact .next (.startJob (.update (.readDesc h)))

theorem State.Sound.startAnswer (h : s.Sound) {j status code slot} : (State.startAnswer s j status code slot).Sound :=
  .sendCompletion h

theorem State.Sound.lapseJob (h : s.Sound) : (State.lapseJob s).Sound := by
  unfold State.lapseJob
  extract_lets +onlyGivenNames _ t
  have ht : t.Sound := .update_pwr h rfl
  exact .foldl (fun _ _ ht => .ite ht (.lapse ht)) ht

theorem State.Sound.dropJob (h : s.Sound) : (State.dropJob s).Sound :=
  .lapseJob (.ite (.update (.update h)) (.update h))

theorem State.Sound.endTerminated (h : s.Sound) : (State.endTerminated s).Sound := by
  unfold State.endTerminated
  split
  · exact h
  · extract_lets +onlyGivenNames s1 s2
    have h1 : s1.Sound := by
      dsimp only [s1]
      split
      · exact .answerEntry h
      · exact h
    exact .dropJob (.closeExchange (.ite h1 (.startAnswer h1)))

theorem State.Sound.settleTerminate (h : s.Sound) : (State.settleTerminate s).Sound :=
  .ite (.endTerminated h) h

theorem execJobDone_sound (h : s.Sound) : (resultOf s (execJobDone s)).Sound := by
  unfold execJobDone
  split
  · split
    · exact .next (.dropJob (.startAnswer h))
    · exact .next h
  · exact .next (.afterSnoop h (.settleTerminate h))

theorem State.Sound.settleJob (h : s.Sound) : (State.settleJob s).Sound :=
  .settleTerminate (.settleRewind h)

theorem execCommandComplete_sound (h : s.Sound) {core engine which} :
    (resultOf s (execCommandComplete core engine which s)).Sound :=
  .next (.afterSnoop h (.settleJob (commandComplete_sound h)))

theorem execTerminate_sound (h : s.Sound) {q e} : (resultOf s (execTerminate q e s)).Sound := by
  refine onEntry_sound h fun _ _ ht => .ite ?_ ?_
  · split
    · exact .afterSnoop ht (.settleTerminate (.update_cores ht ((List.length_map ..).trans ht.cores_length)))
    · exact ht
  · split
    · exact .ite (.update (.ite (.answerEntry ht) (.startAnswer (.answerEntry ht)))) (.refuseState ht)
    · exact .refuseState ht

theorem State.Sound.stopEngines (h : s.Sound) : (State.stopEngines s).Sound :=
  .update h

theorem State.Sound.resetDies (h : s.Sound) : (State.resetDies s).Sound := by
  unfold State.resetDies
  extract_lets +onlyGivenNames _ _ _ _ t
  have ht : t.Sound := .update_cores (.stopEngines h) ((List.length_map ..).trans h.cores_length)
  exact .lapseJob ht

theorem execJobTermForced_sound (h : s.Sound) : (resultOf s (execJobTermForced s)).Sound := by
  unfold execJobTermForced
  split
  · exact .next h
  · exact .next (.afterSnoop h (.endTerminated (.resetDies (.closeExchange (.raise h)))))

theorem execSuspend_sound (h : s.Sound) {q e} : (resultOf s (execSuspend q e s)).Sound := by
  unfold execSuspend
  refine onEntry_sound h fun _ _ ht => ?_
  refine .ite ?_ (.refuseState ht)
  split
  · exact .ite (.update ht) (.suspendNow (.update ht))
  · exact ht

theorem execSuspended_sound (h : s.Sound) : (resultOf s (execSuspended s)).Sound := by
  unfold execSuspended
  split
  · split
    · exact .next h
    · extract_lets +onlyGivenNames s0 p area _ _ s1
      have h0 : s0.Sound := .cleReads h
      clear_value s0
      have h1 : s1.Sound := .update (.agentWrite h0)
      clear_value s1
      extract_lets +onlyGivenNames s2
      have h2 : s2.Sound := by
        dsimp only [s2]
        split
        · exact .answerEntry h1
        · exact h1
      exact .next (.afterSnoop h (.lapseJob h2))
  · exact .next h

theorem resumeCore_sound (h : s.Sound) {p} : (resumeCore s p).Sound :=
  .modCore h

theorem State.Sound.resumeJob (h : s.Sound) {p} : (State.resumeJob s p).Sound := by
  unfold State.resumeJob
  extract_lets +onlyGivenNames s0 _ _ _ s1 s2 k
  have h0 : s0.Sound := .foldl (fun _ _ ht => .cleNum ht) h
  have h1 : s1.Sound := .update_pwr h0 rfl
  exact .loadSeeds (.foldl (fun _ _ ht => resumeCore_sound ht) h1)

theorem execResume_sound (h : s.Sound) {q e} : (resultOf s (execResume q e s)).Sound := by
  unfold execResume
  refine onEntry_sound h fun _ _ ht => ?_
  split
  · exact .ite (.tryVote (.answerEntry (.resumeJob ht))) (.refuseState ht)
  · exact .refuseState ht

theorem State.Sound.ringCtlWrite (h : s.Sound) {q w} : (State.ringCtlWrite s q w).Sound :=
  .ite (.flushCq (.writeDeviceLine (.setRing (.ite (.cfgIgnored h) h)))) (.setRing (.ite (.cfgIgnored h) h))

theorem execRingEnable_sound (h : s.Sound) {q w} : (resultOf s (execRingEnable q w s)).Sound :=
  .onBar h (fun _ ht => .ringCtlWrite ht)

theorem State.Sound.bindWrite (h : s.Sound) {n w} : (State.bindWrite s n w).Sound :=
  fireBind_sound (.update h)

theorem execMsixBindArm_sound (h : s.Sound) {n w} : (resultOf s (execMsixBindArm n w s)).Sound :=
  .onBar h (fun _ ht => .bindWrite ht)

theorem execMsixModExpiry_sound (h : s.Sound) : (resultOf s (execMsixModExpiry s)).Sound := by
  unfold execMsixModExpiry
  split
  · exact .next h
  · split
    · exact .next (.update (.sendMsix h))
    · exact .next (.update h)

theorem execSeqFlagAdd_sound (h : s.Sound) {core n w} : (resultOf s (execSeqFlagAdd core n w s)).Sound :=
  .onBar h (fun _ ht => .ite (.addCoreFlag (.wakeCore ht)) ht)

theorem State.Sound.hubFlagAddWrite (h : s.Sound) {n w} : (State.hubFlagAddWrite s n w).Sound :=
  .ite (.raise h) (.addHubFlag h)

theorem execHubFlagAdd_sound (h : s.Sound) {n w} : (resultOf s (execHubFlagAdd n w s)).Sound :=
  .onBar h (fun _ ht => .hubFlagAddWrite ht)

theorem State.Sound.dlkClear (h : s.Sound) {w} : (State.dlkClear s w).Sound :=
  .update h

theorem execDlkStatusClear_sound (h : s.Sound) {w} : (resultOf s (execDlkStatusClear w s)).Sound :=
  .onBar h (fun _ ht => .dlkClear ht)

theorem State.Sound.mxuInject (h : s.Sound) {c w} : (State.mxuInject s c w).Sound :=
  .ite h (.modCore h)

theorem execMxuInject_sound (h : s.Sound) {core w} : (resultOf s (execMxuInject core w s)).Sound :=
  .onBar h (fun _ ht => .ite (.mxuInject (.wakeCore ht)) ht)

/-! ### The links' light -/

theorem State.Sound.routesLost (h : s.Sound) {p} : (State.routesLost s p).Sound :=
  .ite h (.raise h)

theorem State.Sound.recover (h : s.Sound) {p} : (State.recover s p).Sound :=
  .setPort h

theorem State.Sound.takeDown (h : s.Sound) {p st quiet} : (State.takeDown s p st quiet).Sound := by
  unfold State.takeDown
  extract_lets +onlyGivenNames x _ s1
  have h1 : s1.Sound := .foldl (fun _ _ ht => .freeHeld ht) (.setPort h)
  exact .ite (.routesLost h1) h1

theorem State.Sound.settlePort (h : s.Sound) {p} : (State.settlePort s p).Sound :=
  .ite (.ite (.setPort h) h) (.ite (.takeDown h)
    (.ite (.takeDown h) (.ite (.ite (.ite (.takeDown h) (.recover h)) (.ite h (.takeDown h))) h)))

theorem State.Sound.settlePorts (h : s.Sound) : (State.settlePorts s).Sound :=
  .foldl (fun _ _ ht => .settlePort ht) h

theorem State.Sound.settleLight (h : s.Sound) : (State.settleLight s).Sound :=
  .settlePorts (.update h)

theorem State.Sound.laserFault (h : s.Sound) {m cause} : (State.laserFault s m cause).Sound :=
  .settleLight (.raise (.update h))

theorem State.Sound.laserCtlWrite (h : s.Sound) {w} : (State.laserCtlWrite s w).Sound :=
  .settleLight (.update h)

theorem execLaserEnable_sound (h : s.Sound) {w} : (resultOf s (execLaserEnable w s)).Sound :=
  .onBar h (fun _ ht => .laserCtlWrite ht)

theorem State.Sound.laserStatusWrite (h : s.Sound) {v} : (State.laserStatusWrite s v).Sound :=
  .settleLight (.update h)

theorem execLaserFaultClear_sound (h : s.Sound) {w} : (resultOf s (execLaserFaultClear w s)).Sound :=
  .onBar h (fun _ ht => .laserStatusWrite ht)

theorem execFabLaserFault_sound (h : s.Sound) {module} : (resultOf s (execFabLaserFault module s)).Sound := by
  unfold execFabLaserFault
  split
  · exact .next (.laserFault (.update h))
  · exact .next h

theorem execFeedPowerCheck_sound (h : s.Sound) {module power} : (resultOf s (execFeedPowerCheck module power s)).Sound := by
  unfold execFeedPowerCheck
  split
  · exact .next (.laserFault h)
  · exact .next h

theorem execFeedPowerLow_sound (h : s.Sound) {module power} : (resultOf s (execFeedPowerLow module power s)).Sound := by
  unfold execFeedPowerLow
  split
  · exact .next (.laserFault h)
  · exact .next h

theorem State.Sound.assignLaser (h : s.Sound) {m} : (State.assignLaser s m).Sound :=
  .ite h (.emit h)

theorem execLaserPoll_sound (h : s.Sound) {module pin reading} : (resultOf s (execLaserPoll module pin reading s)).Sound := by
  unfold execLaserPoll
  extract_lets +onlyGivenNames m was s0 _ s1 l
  split
  · exact .next h
  · split
    · exact .next (.laserFault (.update (.assignLaser h)))
    · split
      · exact .next (.laserFault (.update (.assignLaser h)))
      · exact .next (.settleLight (.update (.assignLaser h)))

/-! ### The log -/

theorem State.Sound.logEntry (h : s.Sound) {ao step code cls source data} :
    (State.logEntry s ao step code cls source data).Sound :=
  .update h

theorem State.Sound.logInfo (h : s.Sound) {code data} : (State.logInfo s code data).Sound :=
  .logEntry h

theorem State.Sound.logReset (h : s.Sound) : (State.logReset s).Sound :=
  .update (.logEntry h)

theorem State.Sound.logError (h : s.Sound) {o} : (State.logError s o).Sound :=
  .ite (.logEntry h) (.ite (.update (.logEntry h)) (.ite (.update h) (.logEntry (.update h))))

theorem State.Sound.nudge (h : s.Sound) : (State.nudge s).Sound :=
  .ite (.emit (.update h)) (.update h)

theorem State.Sound.fillM2h (h : s.Sound) : (State.fillM2h s).Sound := by
  unfold State.fillM2h
  split
  · exact h
  · refine .ite h ?_
    extract_lets +onlyGivenNames _ s1 _
    have h1 : s1.Sound := by
      dsimp only [s1]
      split <;> exact .update h
    exact .raiseVec (.update h1)

theorem State.Sound.mssReply (h : s.Sound) {tr r} : (State.mssReply s tr r).Sound := by
  unfold State.mssReply
  split
  · exact .nudge (.emit h)
  · exact .fillM2h (.emit (.update h))

theorem State.Sound.mssEvent (h : s.Sound) {nums bytes} : (State.mssEvent s nums bytes).Sound := by
  unfold State.mssEvent
  refine .ite h ?_
  split
  · exact .mssReply h
  · exact h

/-! ### Errors -/

theorem State.Sound.scramble (h : s.Sound) {ls} : (State.scramble s ls).Sound :=
  .foldl (fun _ _ ht => .ite ht (.update (.storeBytes (.setLineErr (.setPoison ht))))) h

theorem State.Sound.stopAll (h : s.Sound) : (State.stopAll s).Sound :=
  .settlePorts (.update (.dropJob (.stopEngines (.foldl (fun _ _ ht => .modCore ht) (.scramble h)))))

theorem State.Sound.startFatal (h : s.Sound) {code slot} : (State.startFatal s code slot).Sound := by
  unfold State.startFatal
  extract_lets +onlyGivenNames _ s1 s2
  have h1 : s1.Sound := .update_err h rfl
  have h2 : s2.Sound := by
    dsimp only [s2]
    split
    · exact .ite h1 (.startAnswer h1)
    · exact h1
  exact .stopAll h2

theorem State.Sound.fatalRecord (h : s.Sound) {r slot} : (State.fatalRecord s r slot).Sound := by
  unfold State.fatalRecord
  extract_lets +onlyGivenNames s1
  have h1 : s1.Sound := .update_err h (Err.latch_queue ..)
  exact .ite h1 (.startFatal h1)

theorem execFatalHandlingEnd_sound (h : s.Sound) : (resultOf s (execFatalHandlingEnd s)).Sound := by
  unfold execFatalHandlingEnd
  split
  · exact .next (.update_err h rfl)
  · exact .next h

theorem State.Sound.answerHalt (h : s.Sound) {o slot} : (State.answerHalt s o slot).Sound := by
  unfold State.answerHalt
  split
  · exact .ite (.update (.startAnswer h)) h
  · exact h

theorem State.Sound.answerOcc (h : s.Sound) {o slot} : (State.answerOcc s o slot).Sound := by
  unfold State.answerOcc
  split
  · exact .answerEntry h
  · exact h

theorem State.Sound.notify (h : s.Sound) {r} : (State.notify s r).Sound := by
  unfold State.notify
  extract_lets +onlyGivenNames s1 _
  have h1 : s1.Sound := by
    dsimp only [s1]
    split <;> exact .raiseVec h
  exact .ite (.update h1) h1

theorem State.Sound.acceptHeld (h : s.Sound) : (State.acceptHeld s).Sound := by
  unfold State.acceptHeld
  split
  · exact h
  · refine .ite (.offer ?_) h
    exact .update_err h rfl

theorem State.Sound.recordOcc (h : s.Sound) {o} : (State.recordOcc s o).Sound := by
  unfold State.recordOcc
  split
  case _ e slot rec eq =>
    have hq : e.queue = s.err.queue := by
      rw [← Err.record_queue s.err o, eq]
    extract_lets +onlyGivenNames hub s1 s2
    have h2 : s2.Sound := .answerOcc (.answerHalt (.logError (.update_err h hq)))
    clear_value s2
    split
    · exact h2
    · extract_lets +onlyGivenNames s3 s4
      have h3 : s3.Sound := .ite (.notify h2) h2
      have h4 : s4.Sound := .ite (.mssEvent h3) h3
      exact .ite (.fatalRecord h4) h4

theorem execErrorRecord_sound (h : s.Sound) : (resultOf s (execErrorRecord s)).Sound := by
  unfold execErrorRecord
  split
  · exact .next h
  case h_2 o rest hq =>
    have hl := h.queue_length
    rw [hq, List.length_cons] at hl
    exact .next (.afterSnoop h (.recordOcc (.acceptHeld (.update_queue h (Nat.le_of_succ_le hl)))))

theorem State.Sound.errValidWrite (h : s.Sound) {w} : (State.errValidWrite s w).Sound := by
  unfold State.errValidWrite
  exact .update_err h rfl

theorem execRecordAcknowledge_sound (h : s.Sound) {w} : (resultOf s (execRecordAcknowledge w s)).Sound :=
  .next (.ite (.errValidWrite h) h)

theorem State.Sound.fatalStatusWrite (h : s.Sound) {w} : (State.fatalStatusWrite s w).Sound := by
  unfold State.fatalStatusWrite
  exact .update_err h rfl

theorem execFatalClear_sound (h : s.Sound) {w} : (resultOf s (execFatalClear w s)).Sound :=
  .next (.fatalStatusWrite h)

theorem State.Sound.errInject (h : s.Sound) {w} : (State.errInject s w).Sound := by
  unfold State.errInject
  extract_lets +onlyGivenNames held v _ s1
  have h1 : s1.Sound := .update_err h rfl
  exact .ite (.offer h1) h1

theorem execErrInject_sound (h : s.Sound) {w} : (resultOf s (execErrInject w s)).Sound :=
  .onBar h (fun _ ht => .errInject ht)

/-! ### Resets -/

theorem State.Sound.wiped (_ : s.Sound) : (State.wiped s).Sound := ⟨rfl, rfl, Nat.zero_le 256, Nat.zero_le 8⟩

theorem State.Sound.triggerCold (h : s.Sound) : (State.triggerCold s).Sound :=
  .update (.wiped (.logReset h))

theorem State.Sound.enumerate (h : s.Sound) {intlv e0 e1} : (State.enumerate s intlv e0 e1).Sound := by
  unfold State.enumerate
  exact .update_mem h rfl rfl rfl

theorem State.Sound.stagesOff (h : s.Sound) : (State.stagesOff s).Sound := by
  unfold State.stagesOff
  extract_lets +onlyGivenNames t
  have ht : t.Sound := .wiped h
  exact .update_pwr ht rfl

theorem State.Sound.softReset (h : s.Sound) {last} : (State.softReset s last).Sound := by
  unfold State.softReset
  extract_lets +onlyGivenNames t
  have ht : t.Sound := .stopEngines (.lapseJob h)
  exact ⟨Memory.wf_of_eq ht.wf rfl rfl rfl, (List.length_map ..).trans ht.cores_length, ht.queue_length, ht.throttle_le⟩

theorem State.Sound.warmReset (h : s.Sound) {keepLink hdm} : (State.warmReset s keepLink hdm).Sound :=
  .update (.softReset (.logReset h))

theorem State.Sound.hubReset (h : s.Sound) : (State.hubReset s).Sound := by
  unfold State.hubReset
  extract_lets +onlyGivenNames s1 s2
  have h1 : s1.Sound := by
    dsimp only [s1]
    split
    · exact .ite h (.startAnswer h)
    · exact h
  clear_value s1
  have h2 : s2.Sound := by
    dsimp only [s2]
    split
    · exact .ite h1 (.startAnswer h1)
    · exact h1
  exact .softReset (.logReset h2)

theorem State.Sound.topResetWrite (h : s.Sound) {w hdm} : (State.topResetWrite s w hdm).Sound :=
  .ite (.update h) (.ite (.update h) (.ite h (.ite (.triggerCold h) (.ite (.warmReset h) (.hubReset h)))))

theorem State.Sound.hostReset (h : s.Sound) {w hdm} : (State.hostReset s w hdm).Sound :=
  .ite (.topResetWrite h) h

theorem execResetArm_sound (h : s.Sound) {w} : (resultOf s (execResetArm w s)).Sound :=
  .next (.hostReset h)

theorem execResetDisarm_sound (h : s.Sound) {w} : (resultOf s (execResetDisarm w s)).Sound :=
  .next (.hostReset h)

theorem execTopResetArmExpiry_sound (h : s.Sound) : (resultOf s (execTopResetArmExpiry s)).Sound :=
  .next (.update h)

theorem execHubPreservingReset_sound (h : s.Sound) {w} : (resultOf s (execHubPreservingReset w s)).Sound :=
  .next (.hostReset h)

theorem execWarmReset_sound (h : s.Sound) {trigger hdm} : (resultOf s (execWarmReset trigger hdm s)).Sound := by
  unfold execWarmReset
  split
  · exact .next h
  · split
    · exact .next (.hostReset h)
    · exact .next (.update (.warmReset h))
    · exact .next (.warmReset h)
    · exact .next (.warmReset h)
    · exact .next (.warmReset h)

theorem execPerstNDeassert_sound (h : s.Sound) {hdm} : (resultOf s (execPerstNDeassert hdm s)).Sound :=
  .next (.ite (.update (.update h)) (.update h))

theorem execHostLinkDown_sound (h : s.Sound) : (resultOf s (execHostLinkDown s)).Sound := by
  unfold execHostLinkDown
  split
  · exact .next (.raise (.update h))
  · exact .next h

theorem execHostLinkRetrain_sound (h : s.Sound) : (resultOf s (execHostLinkRetrain s)).Sound := by
  unfold execHostLinkRetrain
  split
  · exact .next (.flushCq (.update h))
  · exact .next h

/-! ### Power -/

theorem State.Sound.latchFatal (h : s.Sound) {code inst} : (State.latchFatal s code inst).Sound := by
  unfold State.latchFatal
  exact .logError (.update_err h (Err.latch_queue _ _))

theorem State.Sound.supplyFault (h : s.Sound) {code} : (resultOf s (State.supplyFault s code)).Sound := by
  unfold State.supplyFault
  split
  · exact .next (.stagesOff (.latchFatal h))
  · exact .next h

theorem execPowerEntryStart_sound (h : s.Sound) : (resultOf s (execPowerEntryStart s)).Sound := by
  unfold execPowerEntryStart
  extract_lets +onlyGivenNames p
  split
  · exact .next h
  · exact .next (.triggerCold (.update_pwr h rfl))

theorem execPwrVinRange_sound (h : s.Sound) {mv} : (resultOf s (execPwrVinRange mv s)).Sound := by
  unfold execPwrVinRange
  extract_lets +onlyGivenNames v low high ok
  split
  · exact .next (.ite (.update_pwr h rfl) h)
  · split
    · exact .next h
    · extract_lets +onlyGivenNames s1
      have h1 : s1.Sound := .ite (.raise h) h
      exact .next (.settleLight (.update_pwr h1 rfl))

theorem execPwrBrownout_sound (h : s.Sound) : (resultOf s (execPwrBrownout s)).Sound :=
  .supplyFault h

theorem execPwrVinOv_sound (h : s.Sound) : (resultOf s (execPwrVinOv s)).Sound :=
  .supplyFault h

theorem execPwrOcp_sound (h : s.Sound) : (resultOf s (execPwrOcp s)).Sound :=
  .supplyFault h

theorem State.Sound.powerDownDie (h : s.Sound) {d} : (State.powerDownDie s d).Sound := by
  unfold State.powerDownDie
  extract_lets +onlyGivenNames mine s1 _ s2 _ s3
  have h1 : s1.Sound := .foldl (fun _ _ ht => .ite (.modCore ht) ht) h
  have h2 : s2.Sound := .setDie h1
  have h3 : s3.Sound := .update_pwr h2 rfl
  exact .loseDie h3

theorem execPwrDieLost_sound (h : s.Sound) {die} : (resultOf s (execPwrDieLost die s)).Sound := by
  unfold execPwrDieLost
  split
  · exact .next (.powerDownDie h)
  · exact .next h

theorem State.Sound.loseHub (h : s.Sound) : (State.loseHub s).Sound :=
  .update_pwr (.stagesOff (.latchFatal h)) rfl

theorem execPwrHubLost_sound (h : s.Sound) : (resultOf s (execPwrHubLost s)).Sound := by
  unfold execPwrHubLost
  split
  · exact .next (.loseHub h)
  · exact .next h

theorem execGrantPeriod_sound (h : s.Sound) {vin iin pkg uncred} : (resultOf s (execGrantPeriod vin iin pkg uncred s)).Sound := by
  unfold execGrantPeriod
  split
  · exact .next h
  · extract_lets +onlyGivenNames p s1 s2
    have h1 : s1.Sound := .update_pwr h rfl
    split
    · exact .next (.releases (.update_pwr h1 rfl))
    · exact .next (grantN_sound (.releases h1))

theorem execYield_sound (h : s.Sound) : (resultOf s (execYield s)).Sound := by
  unfold execYield
  split
  · exact .next h
  · split
    · exact .next h
    · exact .next (.update_pwr h rfl)

theorem execBallastRelease_sound (h : s.Sound) {owner unit} : (resultOf s (execBallastRelease owner unit s)).Sound := by
  unfold execBallastRelease
  extract_lets +onlyGivenNames w
  split
  · exact .next (.lapse h)
  · exact .next h

theorem execCreditLapse_sound (h : s.Sound) {core unit} : (resultOf s (execCreditLapse core unit s)).Sound :=
  .next (.lapse h)

theorem execPwrThrottle_sound (h : s.Sound) : (resultOf s (execPwrThrottle s)).Sound := by
  unfold execPwrThrottle
  split
  · exact .next h
  · extract_lets +onlyGivenNames _ s1
    have h1 : s1.Sound := .update_throttle h (Nat.min_le_left ..)
    exact .next (.ite h1 (.raise h1))

theorem execThrottleDown_sound (h : s.Sound) : (resultOf s (execThrottleDown s)).Sound :=
  .next (.update_throttle h (Nat.sub_le_of_le_add (h.throttle_le.trans (Nat.le_succ 8))))

theorem execPwrThermThrottle_sound (h : s.Sound) {domain} : (resultOf s (execPwrThermThrottle domain s)).Sound := by
  unfold execPwrThermThrottle
  split
  · exact .next h
  · exact .next (.ite (.update_pwr h (Pwr.setTherm_throttle ..)) (.raise (.update_pwr h (Pwr.setTherm_throttle ..))))

theorem execThermThrottleDown_sound (h : s.Sound) {domain} : (resultOf s (execThermThrottleDown domain s)).Sound :=
  .next (.update_pwr h (Pwr.setTherm_throttle ..))

theorem execPwrTjCrit_sound (h : s.Sound) {place} : (resultOf s (execPwrTjCrit place s)).Sound := by
  unfold execPwrTjCrit
  split
  · exact .next (.stagesOff (.latchFatal h))
  · exact .next h

theorem execPwrThermtrip_sound (h : s.Sound) : (resultOf s (execPwrThermtrip s)).Sound := by
  unfold execPwrThermtrip
  split
  · exact .next h
  · exact .next (.update_pwr (.stagesOff (.latchFatal h)) rfl)

theorem execPwrLeak_sound (h : s.Sound) : (resultOf s (execPwrLeak s)).Sound := by
  unfold execPwrLeak
  split
  · exact .next h
  · exact .next (.update_pwr (.stagesOff (.latchFatal h)) rfl)

theorem execThermtripNDeassert_sound (h : s.Sound) : (resultOf s (execThermtripNDeassert s)).Sound := by
  unfold execThermtripNDeassert
  split
  · exact .next h
  · exact .next (.update_pwr h rfl)

theorem execPwrStageHot_sound (h : s.Sound) {stage} : (resultOf s (execPwrStageHot stage s)).Sound := by
  unfold execPwrStageHot
  split
  · exact .next h
  · refine .next (.raise ?_)
    exact .update_pwr h rfl

theorem execPwrOeShutdown_sound (h : s.Sound) {engine} : (resultOf s (execPwrOeShutdown engine s)).Sound := by
  unfold execPwrOeShutdown
  split
  · exact .next h
  · refine .next (.settleLight (.raise ?_))
    exact .update_pwr h rfl

theorem execOeRelight_sound (h : s.Sound) {engine} : (resultOf s (execOeRelight engine s)).Sound := by
  unfold execOeRelight
  exact .next (.settleLight (.update_pwr h rfl))

theorem State.Sound.coolantSet (h : s.Sound) {inlet flow} : (State.coolantSet s inlet flow).Sound := by
  unfold State.coolantSet
  extract_lets +onlyGivenNames _ s1
  have h1 : s1.Sound := .update_pwr h rfl
  exact .ite h1 (.raiseVec (.raise h1))

theorem State.Sound.coolantWrite (h : s.Sound) {w} : (State.coolantWrite s w).Sound :=
  .coolantSet h

theorem execCoolantReport_sound (h : s.Sound) {w} : (resultOf s (execCoolantReport w s)).Sound :=
  .onBar h (fun _ ht => .coolantWrite ht)

theorem execCoolantStale_sound (h : s.Sound) : (resultOf s (execCoolantStale s)).Sound := by
  unfold execCoolantStale
  exact .next (.update_pwr h rfl)

theorem State.Sound.pkgLimitWrite (h : s.Sound) {w} : (State.pkgLimitWrite s w).Sound := by
  unfold State.pkgLimitWrite
  exact .update_pwr h rfl

theorem execPkgLimitWrite_sound (h : s.Sound) {w} : (resultOf s (execPkgLimitWrite w s)).Sound :=
  .onBar h (fun _ ht => .pkgLimitWrite ht)

theorem State.Sound.replanned (h : s.Sound) {d old new} : (State.replanned s d old new).Sound :=
  .raiseVec (.raise h)

theorem replanN_sound {d n : Nat} (h : s.Sound) : (replanN d n s).2.Sound := by
  induction n generalizing s with
  | zero => exact h
  | succ n ih =>
    unfold replanN
    dsimp only
    split
    · exact ih (.replanned (.update_pwr h (Pwr.setPlan_throttle ..)))
    · split
      · exact ih (.replanned (.update_pwr h (Pwr.setPlan_throttle ..)))
      · exact h

theorem execReplan_sound (h : s.Sound) {short0 short1 shortHub outlier} :
    (resultOf s (execReplan short0 short1 shortHub outlier s)).Sound := by
  unfold execReplan
  split
  · exact .next h
  · split
    next bad0 s1 e1 =>
    have h1 : s1.Sound := .of_snd e1 (replanN_sound h)
    split
    next bad1 s2 e2 =>
    have h2 : s2.Sound := .of_snd e2 (replanN_sound h1)
    split
    next badH s3 e3 =>
    have h3 : s3.Sound := .of_snd e3 (replanN_sound h2)
    extract_lets +onlyGivenNames cause pwr s4 s5 s6 s7
    have h4 : s4.Sound := .update_pwr h3 rfl
    have h5 : s5.Sound := .ite (.raiseVec (.raise h4)) h4
    have h6 : s6.Sound := .ite (.powerDownDie h5) h5
    have h7 : s7.Sound := .ite (.powerDownDie h6) h6
    exact .next (.ite (.loseHub h7) h7)

theorem State.Sound.aoTick (h : s.Sound) : (State.aoTick s).Sound := by
  unfold State.aoTick
  exact .ite (.update_pwr h rfl) h

theorem execAoCompare_sound (h : s.Sound) {n} : (resultOf s (execAoCompare n s)).Sound := by
  unfold execAoCompare
  extract_lets +onlyGivenNames x step y _ s1 s2
  have h1 : s1.Sound := .update_pwr h rfl
  have h2 : s2.Sound := .ite (.raiseVec h1) h1
  split
  · exact .next h
  · exact .next (.ite (.mssEvent h2) h2)

theorem execAoRcFallback_sound (h : s.Sound) : (resultOf s (execAoRcFallback s)).Sound := by
  unfold execAoRcFallback
  exact .next (.update_pwr h rfl)

theorem execCoreClockStop_sound (h : s.Sound) {core} : (resultOf s (execCoreClockStop core s)).Sound := by
  unfold execCoreClockStop
  split
  · exact .next h
  · exact .next (.update_pwr h rfl)

theorem execSelfRefresh_sound (h : s.Sound) {die stack} : (resultOf s (execSelfRefresh die stack s)).Sound := by
  unfold execSelfRefresh
  split
  · exact .next (.update_pwr h rfl)
  · exact .next h

/-! ### Firmware -/

theorem State.Sound.mssTake (h : s.Sound) {v} : (State.mssTake s v).Sound := by
  unfold State.mssTake
  split
  · exact h
  · exact .update h

theorem State.Sound.mssReq (h : s.Sound) {tr c f} (hf : ∀ y0, y0.Sound → (f y0).Sound) :
    (resultOf s (State.mssReq s tr c f)).Sound :=
  .next (.ite (hf _ (.mssTake h)) h)

theorem State.Sound.answerReq (h : s.Sound) {tr k code nums bytes} : (State.answerReq s tr k code nums bytes).Sound :=
  .mssReply h

theorem State.Sound.mssRaise (h : s.Sound) {code cls payload} : (State.mssRaise s code cls payload).Sound :=
  .ite (.raise h) (.ite (.update_err (.logError h) (Err.latch_queue _ _)) (.logError h))

theorem State.Sound.refuseLength (h : s.Sound) : (State.refuseLength s).Sound :=
  .ite (.answerReq (.mssTake h)) h

theorem State.Sound.reserveBlock (h : s.Sound) : (State.reserveBlock s).Sound :=
  .ite h (.ite (.mssRaise (.update h)) (.logInfo (.update h)))

theorem State.Sound.freshBlock (h : s.Sound) : (State.freshBlock s).Sound :=
  .ite (.update (.reserveBlock h)) (.update (.reserveBlock h))

theorem State.Sound.takeIndex (h : s.Sound) {i} (e : s.takeIndex = some (i, t)) : t.Sound := by
  simp only [State.takeIndex] at e
  split at e
  · contradiction
  · simp only [Option.some.injEq, Prod.mk.injEq] at e
    exact e.2 ▸ .ite (.reserveBlock (.update h)) (.update h)

theorem trySlot_sound {p : Option Bool × State} (h : p.2.Sound) {skip b} : (trySlot skip p b).2.Sound := by
  unfold trySlot
  split
  · exact h
  · split
    · exact h
    · exact .mssRaise h

theorem State.Sound.selectSlot (h : s.Sound) : (State.selectSlot s).2.Sound := by
  unfold State.selectSlot
  extract_lets +onlyGivenNames m rest
  split
  · exact .foldl_two (fun _ _ ht => trySlot_sound ht) h
  · split
    · exact .foldl_two (fun _ _ ht => trySlot_sound ht) (.mssRaise (.update h))
    · extract_lets +onlyGivenNames rest s1 s2
      split
      · exact .update h
      · exact .foldl_two (fun _ _ ht => trySlot_sound ht)
          (.ite (.mssRaise (.update (.mssRaise (.update h)))) (.mssRaise (.update h)))

theorem State.Sound.promote (h : s.Sound) : (State.promote s).Sound := by
  unfold State.promote
  split
  · exact .ite (.logInfo (.update h)) h
  · exact h

theorem State.Sound.logRaised (h : s.Sound) {s0} : (State.logRaised s0 s).Sound :=
  .foldl (fun _ _ ht => .logError ht) h

theorem State.Sound.bootSlot (h : s.Sound) {s0 b} : (State.bootSlot s s0 b).Sound := by
  unfold State.bootSlot
  extract_lets +onlyGivenNames x _ s2 s3
  have h3 : s3.Sound := .freshBlock (.logInfo (.update h))
  exact .refuseLength (.logRaised (.ite h3 (.promote h3)))

theorem State.Sound.bootRecovery (h : s.Sound) {s0} : (State.bootRecovery s s0).Sound := by
  unfold State.bootRecovery
  extract_lets +onlyGivenNames _ s2
  have h2 : s2.Sound := .latchFatal (.logRaised (.update h))
  exact .ite (.stagesOff h2) h2

theorem State.Sound.bootMss (h : s.Sound) : (State.bootMss s).Sound := by
  unfold State.bootMss
  extract_lets +onlyGivenNames _ s0 r
  split
  · exact .bootSlot (.selectSlot (.update h))
  · exact .bootRecovery (.selectSlot (.update h))

theorem State.Sound.restartMss (h : s.Sound) {trigger} : (State.restartMss s trigger).Sound :=
  .ite (.triggerCold (.bootMss (.logInfo h))) (.bootMss (.logInfo h))

theorem execBoot_sound (h : s.Sound) {strap} : (resultOf s (execBoot strap s)).Sound := by
  unfold execBoot
  split
  · refine .next (.restartMss ?_)
    exact .update_pwr h rfl
  · split
    · exact .next (.restartMss (.update h))
    · exact .next h

theorem State.Sound.streamFails (h : s.Sound) : (State.streamFails s).Sound :=
  .stagesOff (.latchFatal h)

theorem execColdReset_sound (h : s.Sound) {w badHub badRoutines strap e0 e1} :
    (resultOf s (execColdReset w badHub badRoutines strap e0 e1 s)).Sound := by
  unfold execColdReset
  extract_lets +onlyGivenNames s1 _ _ _
  have h1 : s1.Sound := by
    dsimp only [s1]
    split
    · exact .hostReset h
    · exact h
  split
  · split
    · exact .next (.streamFails h1)
    · exact .next (.update (.enumerate h1))
  · exact .next h1

theorem execMssWatchdog_sound (h : s.Sound) : (resultOf s (execMssWatchdog s)).Sound := by
  unfold execMssWatchdog
  split
  · exact .next (.freshBlock (.mssRaise h))
  · exact .next h

theorem execMssRestart_sound (h : s.Sound) {tr force} : (resultOf s (execMssRestart tr force s)).Sound :=
  .mssReq h (fun _ ht => .ite (.answerReq ht) (.restartMss (.answerReq ht)))

theorem State.Sound.zeroDie (h : s.Sound) {d} : (State.zeroDie s d).Sound :=
  ⟨Memory.wf_iff.2 ⟨filter_swf h.bytes_swf _, filter_swf h.poison_swf _, filter_swf h.bad_swf _⟩,
    h.cores_length, h.queue_length, h.throttle_le⟩

theorem execInitDone_sound (h : s.Sound) {die} : (resultOf s (execInitDone die s)).Sound := by
  unfold execInitDone
  extract_lets +onlyGivenNames x s1
  split
  · exact .next h
  · exact .next (.ite (.promote (.setDie (.zeroDie h))) (.setDie (.zeroDie h)))

theorem execLogFlush_sound (h : s.Sound) {aOk bOk} : (resultOf s (execLogFlush aOk bOk s)).Sound := by
  unfold execLogFlush
  split
  · exact .next h
  · exact .next (.update (.ite (.mssRaise (.update h)) (.update h)))

theorem State.Sound.logUpdate (h : s.Sound) {step} : (State.logUpdate s step).Sound :=
  .logInfo h

theorem execRequestUpdate_sound (h : s.Sound) {tr} : (resultOf s (execRequestUpdate tr s)).Sound := by
  unfold execRequestUpdate
  refine .mssReq h fun _ ht => ?_
  split
  · exact .answerReq ht
  · exact .answerReq (.logUpdate (.update ht))

theorem State.Sound.onUpdate (h : s.Sound) {tr k stages f} (hf : ∀ y0 y1, y0.Sound → (f y0 y1).Sound) :
    (resultOf s (State.onUpdate s tr k stages f)).Sound := by
  unfold State.onUpdate
  refine .mssReq h fun _ ht => ?_
  split
  · exact .ite (.answerReq ht) (.ite (hf _ _ ht) (.answerReq ht))
  · exact .answerReq ht

theorem execPassComponentTable_sound (h : s.Sound) {tr cls} : (resultOf s (execPassComponentTable tr cls s)).Sound :=
  .onUpdate h (fun _ _ ht => .ite (.answerReq ht) (.answerReq (.logUpdate (.update ht))))

theorem execUpdateComponent_sound (h : s.Sound) {tr} : (resultOf s (execUpdateComponent tr s)).Sound :=
  .onUpdate h (fun _ _ ht => .answerReq (.logUpdate (.update ht)))

theorem execFirmwareData_sound (h : s.Sound) {tr bytes last} : (resultOf s (execFirmwareData tr bytes last s)).Sound :=
  .onUpdate h (fun _ _ ht => .ite (.answerReq ht) (.ite (.answerReq (.logUpdate (.update ht))) (.answerReq (.update ht))))

theorem State.Sound.releaseUpdate (h : s.Sound) : (State.releaseUpdate s).Sound :=
  .update h

theorem execActivateFirmware_sound (h : s.Sound) {tr selfContained} :
    (resultOf s (execActivateFirmware tr selfContained s)).Sound :=
  .onUpdate h (fun _ _ ht => .ite (.answerReq ht) (.answerReq (.logUpdate (.update ht))))

theorem execCancelUpdate_sound (h : s.Sound) {tr} : (resultOf s (execCancelUpdate tr s)).Sound :=
  .onUpdate h (fun _ _ ht => .answerReq (.logUpdate (.releaseUpdate ht)))

theorem execUpdateLockTimeout_sound (h : s.Sound) : (resultOf s (execUpdateLockTimeout s)).Sound :=
  .next (.ite (.logUpdate (.releaseUpdate h)) h)

theorem execLogRead_sound (h : s.Sound) {tr fatal seq count} : (resultOf s (execLogRead tr fatal seq count s)).Sound :=
  .mssReq h (fun _ ht => .ite (.answerReq ht) (.ite (.answerReq ht) (.answerReq ht)))

theorem execFwConfirm_sound (h : s.Sound) {tr owner} : (resultOf s (execFwConfirm tr owner s)).Sound :=
  .mssReq h (fun _ ht => .ite (.ite (.answerReq ht) (.answerReq (.logInfo (.update ht))))
    (.ite (.answerReq ht) (.answerReq (.logInfo (.update ht)))))

theorem execOwnerKeySet_sound (h : s.Sound) {tr digest} : (resultOf s (execOwnerKeySet tr digest s)).Sound := by
  unfold execOwnerKeySet
  refine .mssReq h fun _ ht => ?_
  split
  · exact .answerReq ht
  · exact .answerReq (.logInfo (.update ht))

theorem State.Sound.routineImageHere (h : s.Sound) {tr img} : (State.routineImageHere s tr img).Sound :=
  .ite (.answerReq (.update h)) (.answerReq (.mssRaise h))

theorem execRoutineLoad_sound (h : s.Sound) {tr first last offset total bytes} :
    (resultOf s (execRoutineLoad tr first last offset total bytes s)).Sound :=
  .mssReq h (fun _ ht => .ite (.answerReq ht)
    (.ite (.answerReq (.raise ht)) (.ite (.answerReq (.update ht))
      (.ite (.routineImageHere (.update ht)) (.answerReq (.update ht))))))

/-! ### Link -/

theorem State.Sound.portCtlWrite (h : s.Sound) {p w} : (State.portCtlWrite s p w).Sound :=
  .ite h (.settlePort (.ite (.putCtrl (.setPort h)) (.setPort h)))

theorem execQuiesce_sound (h : s.Sound) {port w} : (resultOf s (execQuiesce port w s)).Sound :=
  .onBar h (fun _ ht => .portCtlWrite ht)

theorem execPortDisable_sound (h : s.Sound) {port w} : (resultOf s (execPortDisable port w s)).Sound :=
  .onBar h (fun _ ht => .portCtlWrite ht)

theorem execFullTrain_sound (h : s.Sound) {port w} : (resultOf s (execFullTrain port w s)).Sound :=
  .onBar h (fun _ ht => .portCtlWrite ht)

theorem execQuiesced_sound (h : s.Sound) {port} : (resultOf s (execQuiesced port s)).Sound := by
  unfold execQuiesced
  extract_lets +onlyGivenNames x
  split
  · exact .next (.ite (.setPort h) (.takeDown h))
  · exact .next h

theorem execLossOfLight_sound (h : s.Sound) {port} : (resultOf s (execLossOfLight port s)).Sound := by
  unfold execLossOfLight
  extract_lets +onlyGivenNames p x
  split
  · exact .next (.ite (.takeDown h) (.recover h))
  · split
    · exact .next (.setPort h)
    · split
      · exact .next (.setPort h)
      · exact .next h

theorem execLightReturn_sound (h : s.Sound) {port} : (resultOf s (execLightReturn port s)).Sound := by
  unfold execLightReturn
  extract_lets +onlyGivenNames p x
  split
  · exact .next (.setPort h)
  · exact .next h

theorem execFastTrainFallback_sound (h : s.Sound) {port} : (resultOf s (execFastTrainFallback port s)).Sound := by
  unfold execFastTrainFallback
  extract_lets +onlyGivenNames x
  split
  · exact .next (.setPort h)
  · exact .next h

theorem State.Sound.reviveLanes (h : s.Sound) {p} : (State.reviveLanes s p).Sound :=
  .update h

theorem State.Sound.forgetRx (h : s.Sound) {p} : (State.forgetRx s p).Sound :=
  .update h

theorem execTrainingComplete_sound (h : s.Sound) {port ns} : (resultOf s (execTrainingComplete port ns s)).Sound := by
  unfold execTrainingComplete
  extract_lets +onlyGivenNames p x s1 s2 _ y
  split
  · exact .next (.putCtrl (.setPort (.forgetRx (.ite h (.reviveLanes h)))))
  · exact .next h

theorem State.Sound.sendFlits (h : s.Sound) {p fl} : (State.sendFlits s p fl).Sound :=
  .foldl (fun _ _ ht => .putFlit ht) h

theorem State.Sound.activate (h : s.Sound) {p width id} : (State.activate s p width id).Sound :=
  .ite (.feed (.pump (.sendFlits (.setPort h))))
    (.ite (.feed (.raise (.foldl (fun _ _ ht => .freeHeld ht) (.setPort h)))) (.feed (.pump (.setPort h))))

theorem execIdentityExchange_sound (h : s.Sound) {port id} : (resultOf s (execIdentityExchange port id s)).Sound := by
  unfold execIdentityExchange
  extract_lets +onlyGivenNames p x cap w
  split
  · exact .next h
  · split
    · exact .next (.takeDown (.raise h))
    · exact .next (.ite (.takeDown h) (.activate h))

theorem execFabLinkDown_sound (h : s.Sound) {port} : (resultOf s (execFabLinkDown port s)).Sound := by
  unfold execFabLinkDown
  extract_lets +onlyGivenNames p x
  split
  · exact .next (.settlePort (.takeDown (.raise h)))
  · exact .next h

theorem State.Sound.spareLane (h : s.Sound) {e lane} : (State.spareLane s e lane).Sound :=
  .update h

theorem State.Sound.laneFail (h : s.Sound) {e lane} : (State.laneFail s e lane).Sound :=
  .ite h (.ite (.ite (.spareLane h) (.raise (.spareLane (.ite (.putCtrl h) h))))
    (.ite (.takeDown (.raise (.spareLane h))) (.ite (.recover (.putCtrl (.raise (.spareLane h)))) (.raise (.spareLane h)))))

theorem execLaneFail_sound (h : s.Sound) {engine lane symbols} : (resultOf s (execLaneFail engine lane symbols s)).Sound := by
  unfold execLaneFail
  refine .next ?_
  split
  · exact .ite (.laneFail h) h
  · exact .laneFail h

theorem State.Sound.arrive (h : s.Sound) {p q good} : (State.arrive s p q good).Sound :=
  .ite (.freeAt (.drop (.setPort h))) (.ite (.freeAt (.drop (.setPort h)))
    (.ite (.freeAt (.drop (.setPort h))) (.update (.setPort h))))

theorem unpackN_sound {p n : Nat} (h : s.Sound) : (unpackN p n s).Sound := by
  induction n generalizing s with
  | zero => exact h
  | succ n ih =>
    unfold unpackN
    extract_lets +onlyGivenNames x
    split
    · exact h
    · refine .ite (.setPort h) ?_
      split
      · exact h
      · exact ih (.arrive (.setPort h))

theorem State.Sound.acceptFlit (h : s.Sound) {p fl} : (State.acceptFlit s p fl).Sound :=
  .putCtrl (unpackN_sound (.countHub (.setPort h)))

theorem State.Sound.discardFlit (h : s.Sound) {p seq} : (State.discardFlit s p seq).Sound := by
  unfold State.discardFlit
  extract_lets +onlyGivenNames x
  split
  · exact .setPort h
  · exact .ite (.setPort h) (.putCtrl (.setPort h))
  · exact .putCtrl (.setPort h)

theorem State.Sound.countCrc (h : s.Sound) {p} : (State.countCrc s p).Sound :=
  .setPort h

theorem State.Sound.takeNak (h : s.Sound) {p ack} : (State.takeNak s p ack).Sound :=
  .ite (.recover (.setPort h)) (.sendFlits (.countHub (.raise (.setPort (.setPort h)))))

theorem State.Sound.control (h : s.Sound) {p fl spare} : (State.control s p fl spare).Sound := by
  unfold State.control
  extract_lets +onlyGivenNames num x ack un s1 s2 s3
  have h2 : s2.Sound := by
    dsimp only [s2]
    split
    · exact .ite (.raise (.spareLane (.putCtrl (.setPort h)))) (.setPort h)
    · exact .setPort h
  exact .feed (.pump (.ite (.takeNak h2) h2))

theorem State.Sound.receiveFlit (h : s.Sound) {p fl data spare} : (State.receiveFlit s p fl data spare).Sound :=
  .ite h (.ite (.ite (.discardFlit (.countCrc h)) (.countCrc h))
    (.ite (.ite (.acceptFlit h) (.discardFlit h)) (.ite (.control h) (.countCrc h))))

theorem execDataFlit_sound (h : s.Sound) {port flit} : (resultOf s (execDataFlit port flit s)).Sound :=
  .next (.receiveFlit h)

theorem State.Sound.markInterval (h : s.Sound) {p unmarked} : (State.markInterval s p unmarked).Sound :=
  .foldl (fun _ _ ht => .laneFail ht) (.update h)

theorem execCtrlFlit_sound (h : s.Sound) {port flit spare unmarked} :
    (resultOf s (execCtrlFlit port flit spare unmarked s)).Sound :=
  .next (.ite (.markInterval (.receiveFlit h)) (.receiveFlit h))

theorem execFlitNak_sound (h : s.Sound) {port flit} : (resultOf s (execFlitNak port flit s)).Sound :=
  .next (.receiveFlit h)

/-! ### The management subsystem -/

theorem State.Sound.assignAddr (h : s.Sound) {dyn} : (State.assignAddr s dyn).Sound :=
  .ite (.nudge (.update h)) (.update h)

theorem execSetdasa_sound (h : s.Sound) {static dyn} : (resultOf s (execSetdasa static dyn s)).Sound :=
  .next (.ite (.assignAddr h) h)

theorem execEntdaa_sound (h : s.Sound) {dyn} : (resultOf s (execEntdaa dyn s)).Sound :=
  .next (.ite (.assignAddr h) h)

theorem execRstdaa_sound (h : s.Sound) : (resultOf s (execRstdaa s)).Sound :=
  .next (.ite (.update h) h)

theorem execAlertResponse_sound (h : s.Sound) : (resultOf s (execAlertResponse s)).Sound :=
  .next (.ite (.update h) h)

theorem execIbiRepeat_sound (h : s.Sound) {read} : (resultOf s (execIbiRepeat read s)).Sound :=
  .next (.ite (.ite (.update h) (.emit h)) h)

theorem execSetEndpointId_sound (h : s.Sound) {eid} : (resultOf s (execSetEndpointId eid s)).Sound :=
  .mssReq h (fun _ ht => .ite (.answerReq ht) (.answerReq (.update ht)))

theorem execGetEndpointId_sound (h : s.Sound) {tr} : (resultOf s (execGetEndpointId tr s)).Sound :=
  .mssReq h (fun _ ht => .answerReq ht)

theorem execGetMctpVersionSupport_sound (h : s.Sound) {tr} : (resultOf s (execGetMctpVersionSupport tr s)).Sound :=
  .mssReq h (fun _ ht => .answerReq ht)

theorem execGetMessageTypeSupport_sound (h : s.Sound) {tr} : (resultOf s (execGetMessageTypeSupport tr s)).Sound :=
  .mssReq h (fun _ ht => .answerReq ht)

theorem execPldmBaseRequest_sound (h : s.Sound) {tr cmd} : (resultOf s (execPldmBaseRequest tr cmd s)).Sound :=
  .mssReq h (fun _ ht => .answerReq ht)

theorem State.Sound.h2mCtlWrite (h : s.Sound) {w} : (State.h2mCtlWrite s w).Sound :=
  .ite (.cfgIgnored h) (.refuseLength (.update h))

theorem execMailboxSend_sound (h : s.Sound) {w} : (resultOf s (execMailboxSend w s)).Sound :=
  .onBar h (fun _ ht => .h2mCtlWrite ht)

theorem State.Sound.m2hCtlWrite (h : s.Sound) {w} : (State.m2hCtlWrite s w).Sound :=
  .ite (.ite (.fillM2h (.update h)) (.update h)) h

theorem execM2hFullClear_sound (h : s.Sound) {w} : (resultOf s (execM2hFullClear w s)).Sound :=
  .onBar h (fun _ ht => .m2hCtlWrite ht)

theorem State.Sound.crossed (h : s.Sound) {id v level} : (State.crossed s id v level).Sound :=
  .mssEvent (.logInfo h)

theorem State.Sound.sensorShow (h : s.Sound) {id v} : (State.sensorShow s id v).Sound := by
  unfold State.sensorShow
  refine .ite (.update_pwr h ?_) (.ite (.update_pwr h rfl)
    (.ite (.update_pwr h rfl) (.ite (.ite (.update_pwr h rfl) h) (.ite (.update_pwr h rfl) h))))
  dsimp only
  split
  · rfl
  · split
    · rfl
    · rfl

theorem execSensorSample_sound (h : s.Sound) {sensor value} : (resultOf s (execSensorSample sensor value s)).Sound := by
  unfold execSensorSample
  extract_lets +onlyGivenNames id v cur new _ s1
  split
  · exact .next h
  · exact .next (.foldl (fun _ _ ht => .crossed ht) (.sensorShow (.update h)))

theorem execGetSensorReading_sound (h : s.Sound) {tr sensor} : (resultOf s (execGetSensorReading tr sensor s)).Sound := by
  unfold execGetSensorReading
  refine .mssReq h fun _ ht => ?_
  refine .ite (.answerReq ht) (.ite (.answerReq ht) (.ite (.answerReq ht) ?_))
  split <;> exact .answerReq ht

theorem execGetPdr_sound (h : s.Sound) {tr sensor} : (resultOf s (execGetPdr tr sensor s)).Sound :=
  .mssReq h (fun _ ht => .ite (.answerReq ht) (.answerReq ht))

theorem execSetEventReceiver_sound (h : s.Sound) {tr receiver} : (resultOf s (execSetEventReceiver tr receiver s)).Sound :=
  .mssReq h (fun _ ht => .answerReq (.update ht))

theorem State.Sound.coolantFromMss (h : s.Sound) : (State.coolantFromMss s).Sound :=
  .ite (.coolantSet h) h

theorem execCoolantInletEffecter_sound (h : s.Sound) {tr value} : (resultOf s (execCoolantInletEffecter tr value s)).Sound :=
  .mssReq h (fun _ ht => .answerReq (.coolantFromMss (.update ht)))

theorem execCoolantFlowEffecter_sound (h : s.Sound) {tr value} : (resultOf s (execCoolantFlowEffecter tr value s)).Sound :=
  .mssReq h (fun _ ht => .answerReq (.coolantFromMss (.update ht)))

theorem execPackageLimitEffecter_sound (h : s.Sound) {tr w} : (resultOf s (execPackageLimitEffecter tr w s)).Sound :=
  .mssReq h (fun _ ht => .ite (.answerReq (.pkgLimitWrite ht)) (.answerReq ht))

theorem execDeviceResetEffecter_sound (h : s.Sound) {tr} : (resultOf s (execDeviceResetEffecter tr s)).Sound :=
  .mssReq h (fun _ ht => .ite (.triggerCold (.answerReq ht)) (.answerReq ht))

/-! ### Pins -/

theorem State.Sound.dropStages (h : s.Sound) : (State.dropStages s).Sound :=
  .ite (.stagesOff h) h

theorem execTestModeHigh_sound (h : s.Sound) {high} : (resultOf s (execTestModeHigh high s)).Sound :=
  .next (.ite (.dropStages (.update h)) (.update h))

theorem execMssHoldNAssert_sound (h : s.Sound) : (resultOf s (execMssHoldNAssert s)).Sound := by
  unfold execMssHoldNAssert
  split
  · exact .next h
  · exact .next (.update (.dropStages h))

theorem execTapInstruction_sound (h : s.Sound) {i} : (resultOf s (execTapInstruction i s)).Sound := by
  unfold execTapInstruction
  split
  · exact .next h
  · exact .next (.update h)

theorem execVstbyLoss_sound (h : s.Sound) : (resultOf s (execVstbyLoss s)).Sound := by
  unfold execVstbyLoss
  extract_lets +onlyGivenNames t
  have ht : t.Sound := .stagesOff h
  exact .next (.update_pwr ht rfl)

/-! ### Attestation -/

theorem State.Sound.setSpdm (h : s.Sound) {tr v} : (State.setSpdm s tr v).Sound := by
  unfold State.setSpdm
  split <;> exact .update h

theorem State.Sound.spdmAnswer (h : s.Sound) {tr r} : (State.spdmAnswer s tr r).Sound :=
  .ite (.mssReply h) (.mssReply (.setSpdm h))

theorem State.Sound.spdmReq (h : s.Sound) {tr k f} (hf : ∀ y0 y1, y1.Sound → (f y0 y1).Sound) :
    (resultOf s (State.spdmReq s tr k f)).Sound := by
  unfold State.spdmReq
  refine .mssReq h fun _ ht => ?_
  split
  · exact hf _ _ ht
  · exact .answerReq ht

theorem execGetVersion_sound (h : s.Sound) {tr} : (resultOf s (execGetVersion tr s)).Sound :=
  .mssReq h (fun _ ht => .answerReq (.setSpdm ht))

theorem execGetCapabilities_sound (h : s.Sound) {tr} : (resultOf s (execGetCapabilities tr s)).Sound :=
  .mssReq h (fun _ ht => .ite (.answerReq (.setSpdm ht)) (.answerReq ht))

theorem execNegotiateAlgorithms_sound (h : s.Sound) {tr sha3} : (resultOf s (execNegotiateAlgorithms tr sha3 s)).Sound :=
  .mssReq h (fun _ ht => .ite (.answerReq (.setSpdm ht)) (.answerReq ht))

theorem execGetDigests_sound (h : s.Sound) {tr} : (resultOf s (execGetDigests tr s)).Sound :=
  .spdmReq h (fun _ _ ht => .ite (.spdmAnswer ht) (.answerReq ht))

theorem execGetCertificate_sound (h : s.Sound) {tr slot offset length} :
    (resultOf s (execGetCertificate tr slot offset length s)).Sound :=
  .spdmReq h (fun _ _ ht => .ite (.answerReq ht) (.ite (.answerReq ht) (.spdmAnswer ht)))

theorem State.Sound.sign (h : s.Sound) {m b} (e : s.sign m = .ok (b, t)) : t.Sound := by
  simp only [State.sign] at e
  split at e
  · contradiction
  · split at e
    · contradiction
    case h_2 hi =>
      simp only [Except.ok.injEq, Prod.mk.injEq] at e
      exact e.2 ▸ .update (.takeIndex h hi)

theorem State.Sound.signedAnswer (h : s.Sound) {tr k nums body msg late} :
    (State.signedAnswer s tr k nums body msg late).Sound := by
  unfold State.signedAnswer
  split
  · exact .answerReq h
  · next sig t e =>
    exact .ite (.answerReq (.setSpdm (.sign h e))) (.spdmAnswer (.sign h e))

theorem execChallenge_sound (h : s.Sound) {tr slot nonce late} : (resultOf s (execChallenge tr slot nonce late s)).Sound :=
  .spdmReq h (fun _ _ ht => .ite (.answerReq ht) (.signedAnswer ht))

theorem execGetMeasurements_sound (h : s.Sound) {tr index sign nonce late} :
    (resultOf s (execGetMeasurements tr index sign nonce late s)).Sound := by
  refine .spdmReq h fun _ _ ht => ?_
  dsimp only
  split
  · exact .answerReq ht
  · exact .ite (.signedAnswer ht) (.spdmAnswer ht)

theorem execRespondIfReady_sound (h : s.Sound) {tr} : (resultOf s (execRespondIfReady tr s)).Sound := by
  unfold execRespondIfReady
  refine .mssReq h fun _ ht => ?_
  extract_lets +onlyGivenNames x
  split
  · exact .spdmAnswer (.setSpdm ht)
  · exact .answerReq ht

theorem execChunkSend_sound (h : s.Sound) {tr bytes last} : (resultOf s (execChunkSend tr bytes last s)).Sound :=
  .mssReq h (fun _ ht => .ite (.answerReq (.setSpdm ht)) (.answerReq (.setSpdm ht)))

theorem execChunkGet_sound (h : s.Sound) {tr seq} : (resultOf s (execChunkGet tr seq s)).Sound :=
  .mssReq h (fun _ ht => .ite (.answerReq ht) (.answerReq (.ite (.setSpdm ht) ht)))

/-! ### Registers -/

theorem State.Sound.locked64 (h : s.Sound) {running off w f} (hf : ∀ y0, y0.Sound → (f y0).Sound) :
    (State.locked64 s running off w f).Sound :=
  .ite (.cfgIgnored h) (hf _ h)

theorem State.Sound.locked32 (h : s.Sound) {running off w f} (hf : ∀ y0, y0.Sound → (f y0).Sound) :
    (State.locked32 s running off w f).Sound :=
  .ite (.cfgIgnored h) (hf _ h)

theorem State.Sound.msixWrite (h : s.Sound) {k w} : (State.msixWrite s k w).Sound :=
  .ite (.emit (.update (.update h))) (.update h)

theorem State.Sound.writeTop (h : s.Sound) {o w} : (State.writeTop s o w).Sound :=
  .ite (.topResetWrite h) (.ite (.update h) (.ite (.msixWrite h) h))

theorem State.Sound.writeHub (h : s.Sound) {o w} : (State.writeHub s o w).Sound :=
  .ite (.update h) (.ite (.ringCtlWrite h) (.ite (.hubFlagAddWrite h) (.ite (.update h)
    (.ite (.locked32 h (fun _ ht => .update_mem ht rfl rfl rfl)) (.ite (.update_mem h rfl rfl rfl) h)))))

theorem State.Sound.writeHub64 (h : s.Sound) {o w} : (State.writeHub64 s o w).Sound :=
  .ite (.ite (.setRing h) h) (.ite (.locked64 h (fun _ ht => .setRing ht))
    (.ite (.locked64 h (fun _ ht => .setRing ht))
      (.ite (.locked64 h (fun _ ht => .setRing ht)) (.ite (.bindWrite h) (.ite (.dlkClear h) h)))))

theorem State.Sound.writeErr (h : s.Sound) {o w} : (State.writeErr s o w).Sound := by
  unfold State.writeErr
  exact .ite (.errValidWrite h) (.ite (.update_err h rfl) (.ite (.fatalStatusWrite h) h))

theorem State.Sound.writeErr64 (h : s.Sound) {o w} : (State.writeErr64 s o w).Sound := by
  unfold State.writeErr64
  exact .ite (.update_err h rfl) (.ite (.update_err h rfl) (.ite (.errInject h) h))

theorem State.Sound.writePmu (h : s.Sound) {o w} : (State.writePmu s o w).Sound := by
  unfold State.writePmu
  dsimp only
  exact .ite (.globalCtlWrite h) (.ite (.update h) (.ite (.snapCtlWrite h) (.ite (.update h) (.ite (.update h) (.ite (.update h)
    (.ite (.update (.lockedWrite h)) h))))))

theorem State.Sound.writePmu64 (h : s.Sound) {o w} : (State.writePmu64 s o w).Sound :=
  .ite (.update h) (.ite (.update h) (.ite (.update h) (.ite (.update h) h)))

theorem State.Sound.agingCtlWrite (h : s.Sound) {w} : (State.agingCtlWrite s w).Sound := by
  unfold State.agingCtlWrite
  exact .update_pwr h rfl

theorem State.Sound.writePwr (h : s.Sound) {o w} : (State.writePwr s o w).Sound := by
  unfold State.writePwr
  exact .ite (.update_pwr h rfl) (.ite (.pkgLimitWrite h)
    (.ite (.update_pwr h rfl) (.ite (.coolantWrite h)
      (.ite (.agingCtlWrite h) (.ite (.update_pwr h rfl) (.ite (.update_pwr h rfl) h))))))

theorem State.Sound.writePwr64 (h : s.Sound) {o w} : (State.writePwr64 s o w).Sound := by
  unfold State.writePwr64
  exact .ite (.update_pwr h rfl) h

theorem State.Sound.writeMss (h : s.Sound) {o w} : (State.writeMss s o w).Sound :=
  .ite (.h2mCtlWrite h) (.ite (.m2hCtlWrite h) h)

theorem State.Sound.writeMss64 (h : s.Sound) {o w} : (State.writeMss64 s o w).Sound :=
  .ite (.locked64 h (fun _ ht => .update ht)) h

theorem State.Sound.gateCtlWrite (h : s.Sound) {w} : (State.gateCtlWrite s w).Sound :=
  .ite (.update h) (.cfgIgnored (.update h))

theorem State.Sound.writeCke (h : s.Sound) {o w} : (State.writeCke s o w).Sound :=
  .ite (.ckeCtlWrite h) (.ite (.gateCtlWrite h)
    (.ite (.update h) (.ite (.locked32 h (fun _ ht => .update ht))
      (.ite (.update h) (.ite (.update h) (.ite (.update h)
        (.ite (.update h) (.ite (.update h) (.ite (.update h) (.ite (.update h) (.ite (.update h) h)))))))))))

theorem State.Sound.writeCke64 (h : s.Sound) {o w} : (State.writeCke64 s o w).Sound :=
  .ite (.update h) (.ite (.update h) h)

theorem State.Sound.writeFab (h : s.Sound) {o w} : (State.writeFab s o w).Sound :=
  .ite (.settlePorts (.update h)) (.ite (.locked32 h (fun _ ht => .settlePorts (.update ht)))
    (.ite (.locked32 h (fun _ ht => .update ht))
      (.ite (.update h) (.ite (.update h) (.ite (.update h)
        (.ite (.laserCtlWrite h) (.ite (.locked32 h (fun _ ht => .settlePorts (.update ht)))
          (.ite (.portCtlWrite h) (.ite (.update h) h)))))))))

theorem State.Sound.writeFab64 (h : s.Sound) {o w} : (State.writeFab64 s o w).Sound :=
  .ite (.laserStatusWrite h) (.ite (.setPort h) (.ite (.update h) (.ite (.update h) (.ite (.update h) h))))

theorem State.Sound.writeCle (h : s.Sound) {o w} : (State.writeCle s o w).Sound :=
  .ite (.update h) (.ite (.update h) (.ite (.update h)
    (.ite (.update h) (.ite (.update h) (.ite (.update h)
      (.ite (.update h) (.ite (.update h) (.ite (.update h)
        (.ite (.update h) (.ite (.locked32 h (fun _ ht => .update ht)) (.ite (.locked32 h (fun _ ht => .update ht)) h)))))))))))

theorem State.Sound.writeDie (h : s.Sound) {d o w} : (State.writeDie s d o w).Sound :=
  .ite h (.ite (.setDie h) (.ite (.setDie h)
    (.ite (.setDie h) (.ite (.setDie h) (.ite (.locked32 h (fun _ ht => .setPue ht))
      (.ite (.setPue h) (.ite (.setPue h) (.ite (.setPue h) (.ite (.setPue h) (.ite (.setPue h) (.ite (.setPue h) h)))))))))))

theorem State.Sound.writeDie64 (h : s.Sound) {d o w} : (State.writeDie64 s d o w).Sound :=
  .ite h (.ite (.ite (.setDie h) h) (.ite (.memInject h) h))

theorem State.Sound.writeCore (h : s.Sound) {c o w} : (State.writeCore s c o w).Sound := by
  unfold State.writeCore
  extract_lets +onlyGivenNames k off n t
  refine .ite (.addCoreFlag h) (.ite (.locked32 h (fun _ ht => .modCore ht)) (.ite (.mxuInject h)
    (.ite (.locked32 h (fun _ ht => .modCore ht)) (.ite ?_ (.ite (.modCore (.ite (.cfgIgnored h) h)) (.modCore h))))))
  split
  case _ x t e =>
    have ht : t.Sound := .of_snd e (.lockedWrite h)
    exact .modCore ht

theorem State.Sound.writeCore64 (h : s.Sound) {c o w} : (State.writeCore64 s c o w).Sound :=
  .ite (.modCore h) (.ite (.modCore h) (.ite (.modCore h) (.ite (.locked64 h (fun _ ht => .modCore ht)) h)))

theorem State.Sound.regWrite32 (h : s.Sound) {off w} : (State.regWrite32 s off w).Sound := by
  unfold State.regWrite32
  refine .ite (.writeTop h) (.ite (.writeHub h)
    (.ite (.writeErr h) (.ite (.writePmu h) (.ite (.writePwr h)
      (.ite (.writeMss h) (.ite (.writeCke h) (.ite (.writeFab h) (.ite (.writeCle h) (.ite (.writeDie h) ?_)))))))))
  split
  · exact .writeCore (.wakeCore h)
  · exact h

theorem State.Sound.regWrite64 (h : s.Sound) {off w} : (State.regWrite64 s off w).Sound := by
  unfold State.regWrite64
  refine .ite h (.ite (.writeHub64 h) (.ite (.writeErr64 h)
    (.ite (.writePmu64 h) (.ite (.writePwr64 h)
      (.ite (.writeMss64 h) (.ite (.writeCke64 h) (.ite (.writeFab64 h) (.ite h (.ite (.writeDie64 h) ?_)))))))))
  split
  · exact .writeCore64 (.wakeCore h)
  · exact h

theorem State.Sound.write4 (h : s.Sound) {off w} : (State.write4 s off w).Sound :=
  .ite h (.ite (.regWrite64 h) (.ite (.regWrite64 h) (.regWrite32 h)))

theorem execRegisterWrite_sound (h : s.Sound) {off value size} : (resultOf s (execRegisterWrite off value size s)).Sound := by
  unfold execRegisterWrite
  extract_lets +onlyGivenNames o lo hi
  split
  · exact .next h
  · split
    · exact .next (.write4 h)
    · split
      · exact .next (.ite (.ite h (.regWrite64 h)) (.write4 (.write4 h)))
      · split
        · exact .next h
        · exact .next (.raise h)

/-! ### Remote access -/

theorem execPacketForward_sound (h : s.Sound) : (resultOf s (execPacketForward s)).Sound := by
  unfold execPacketForward
  split
  · exact .next h
  · next p s1 e =>
    exact .next (.ite (.drop (.freeHeld (.takeForward h e))) (.routeOut (.takeForward h e)))

theorem State.Sound.refuseWindow (h : s.Sound) {p} : (State.refuseWindow s p).Sound :=
  .respond (.raise h)

theorem State.Sound.refusePkey (h : s.Sound) {p} : (State.refusePkey s p).Sound :=
  .respond h

theorem serveRequest_sound (h : s.Sound) {ptype f} (hf : ∀ y0 y1, y1.Sound → (f y0 y1).Sound) :
    (resultOf s (serveRequest s ptype f)).Sound := by
  unfold serveRequest
  split
  · exact .next h
  · next p s1 e =>
    exact .next (.ite (.refusePkey (.takeType h e)) (.afterSnoop h (hf _ _ (.takeType h e))))

theorem State.Sound.remoteLine (h : s.Sound) {addr bs} : (State.remoteLine s addr bs).Sound :=
  .agentWrite h

theorem serveWr_sound (h : s.Sound) {p} : (serveWr p s).Sound := by
  unfold serveWr
  exact .ite (.refuseWindow h) (.respond (.settleReshard
    (.update (.foldl (fun _ _ ht => .ite (.setPoison (.remoteLine ht)) (.remoteLine ht)) h))))

theorem execWr_sound (h : s.Sound) : (resultOf s (execWr s)).Sound :=
  serveRequest_sound h (fun _ _ ht => serveWr_sound ht)

theorem serveWrPartial_sound (h : s.Sound) {p} : (serveWrPartial p s).Sound :=
  .ite (.refuseWindow h) (.respond (.settleReshard (.update (.writeMasked h))))

theorem execWrPartial_sound (h : s.Sound) : (resultOf s (execWrPartial s)).Sound :=
  serveRequest_sound h (fun _ _ ht => serveWrPartial_sound ht)

theorem serveRd_sound (h : s.Sound) {p} : (serveRd p s).Sound := by
  unfold serveRd
  refine .ite (.refuseWindow h) (.respond ?_)
  exact .foldl_two (a := (0, s)) (fun _ _ ht => .touchLine ht) h

theorem execRdReq_sound (h : s.Sound) : (resultOf s (execRdReq s)).Sound :=
  serveRequest_sound h (fun _ _ ht => serveRd_sound ht)

theorem serveSignal_sound (h : s.Sound) {p} : (serveSignal p s).Sound := by
  unfold serveSignal
  refine .ite (.respond h) ?_
  split
  · exact .respond (.raise h)
  · exact .respond (.ite (.addHubFlag (.update h)) (.addCoreFlag (.update h)))

theorem execSignalPacket_sound (h : s.Sound) : (resultOf s (execSignalPacket s)).Sound :=
  serveRequest_sound h (fun _ _ ht => serveSignal_sound ht)

theorem execEcho_sound (h : s.Sound) : (resultOf s (execEcho s)).Sound := by
  unfold execEcho
  split
  · exact .next h
  · next p s1 e =>
    exact .next (.respond (.takeType h e))

theorem execEchoReply_sound (h : s.Sound) : (resultOf s (execEchoReply s)).Sound := by
  unfold execEchoReply
  split
  · exact .next h
  case h_2 e => exact .next (.takeType h e)

theorem State.Sound.getArrives (h : s.Sound) {c cmd q p} : (State.getArrives s c cmd q p).Sound := by
  unfold State.getArrives
  extract_lets +onlyGivenNames core ls s1
  split
  · exact .modCore h
  · exact .ite (finishGet_sound (.modCore h)) (issueRemote_sound (.modCore h))

theorem execRdResp_sound (h : s.Sound) : (resultOf s (execRdResp s)).Sound := by
  unfold execRdResp
  split
  · exact .next h
  · next p s1 e =>
    split
    · exact .next (.takeType h e)
    · next r s2 e2 =>
      split
      · exact .next (.afterSnoop h (.getArrives (.takeReq (.takeType h e) e2)))
      · exact .next (.afterSnoop h (.restorePiece (.takeReq (.takeType h e) e2)))
      · exact .next (.takeReq (.takeType h e) e2)
      · exact .next (.takeReq (.takeType h e) e2)
      · exact .next (.takeReq (.takeType h e) e2)

theorem State.Sound.putDone (h : s.Sound) {v} : (State.putDone s v).Sound := by
  unfold State.putDone
  split
  · split
    · exact issueRemote_sound h
    · exact h
  · exact .settleReshard h
  · exact .settleCkpt h
  · exact h
  · exact h

theorem execWrAck_sound (h : s.Sound) : (resultOf s (execWrAck s)).Sound := by
  unfold execWrAck
  split
  · exact .next h
  · next p s1 e =>
    split
    · exact .next (.takeType h e)
    · next r s2 e2 =>
      exact .next (.putDone (.takeReq (.takeType h e) e2))

theorem execSignalAck_sound (h : s.Sound) : (resultOf s (execSignalAck s)).Sound := by
  unfold execSignalAck
  split
  · exact .next h
  · next p s1 e =>
    split
    · exact .next (.takeType h e)
    · next r s2 e2 =>
      split
      · exact .next (.modCore (.takeReq (.takeType h e) e2))
      · exact .next (.takeReq (.takeType h e) e2)
      · exact .next (.takeReq (.takeType h e) e2)
      · exact .next (.takeReq (.takeType h e) e2)
      · exact .next (.takeReq (.takeType h e) e2)

theorem State.Sound.signalFail (h : s.Sound) {c cmd} : (State.signalFail s c cmd).Sound := by
  unfold State.signalFail
  extract_lets +onlyGivenNames core
  split
  · exact h
  · exact .haltJob (.modCore (.raiseHalting h))

theorem State.Sound.callPutFail (h : s.Sound) {c id} : (State.callPutFail s c id).Sound := by
  unfold State.callPutFail
  split
  · exact .callFault h
  · exact h

theorem State.Sound.requestFails (h : s.Sound) {v} : (State.requestFails s v).Sound := by
  unfold State.requestFails
  split
  · split
    · exact .remoteFail h
    · exact h
  · exact .signalFail h
  · split
    · exact .callPutFail (.update h)
    · exact h
  · split
    · exact .callPutFail (.update h)
    · exact h
  · exact .ite (.restoreFail h) h

theorem execNak_sound (h : s.Sound) : (resultOf s (execNak s)).Sound := by
  unfold execNak
  split
  · exact .next h
  · next p s1 e =>
    split
    · exact .next (.takeType h e)
    · next r s2 e2 =>
      exact .next (.afterSnoop h (.requestFails (.takeReq (.takeType h e) e2)))

theorem execE2eTimeout_sound (h : s.Sound) {tag} : (resultOf s (execE2eTimeout tag s)).Sound := by
  unfold execE2eTimeout
  split
  · exact .next h
  · split
    · exact .next (.sendPacket (.update h))
    · exact .next (.afterSnoop h (.requestFails (.update h)))

/-! ### Fuses and reserved indices -/

/-- How a command other than the vendor's FW_CONFIRM may change what is burnt or reserved (R461, R463, R467, R469). -/
structure Nv.Follows (a b : Nv) : Prop where
  fwSvn_eq : b.fwSvn = a.fwSvn
  ownerSvn_le : a.ownerSvn ≤ b.ownerSvn
  ownerSvn_bound : a.ownerSvn ≤ 63 → b.ownerSvn ≤ 63
  revoked_eq : b.revoked = a.revoked
  ownerKey_eq : a.ownerKey ≠ none → b.ownerKey = a.ownerKey
  reserved_le : a.reserved ≤ b.reserved
  reserved_bound : a.reserved ≤ 2 ^ 30 → b.reserved ≤ 2 ^ 30

namespace Nv.Follows
variable {a b c : Nv}

theorem refl (a : Nv) : a.Follows a := ⟨rfl, le_rfl, id, rfl, fun _ => rfl, le_rfl, id⟩

theorem of_eq (h : b = a) : a.Follows b := h ▸ refl a

theorem eq_trans (e : b = a) (h : b.Follows c) : a.Follows c := e ▸ h

theorem trans_eq (h : a.Follows b) (e : c = b) : a.Follows c := e ▸ h

/-- One more block of signing indices is reserved while fewer than 2^30 are (R469). -/
theorem reserve (h : a.reserved < 2 ^ 30) : a.Follows { a with reserved := a.reserved + 1 } :=
  ⟨rfl, le_rfl, id, rfl, fun _ => rfl, Nat.le_succ _, fun _ => h⟩

/-- The owner's security version rises to that of the image, within its 63 fuses (R463). -/
theorem raiseOwner (n : Nat) : a.Follows { a with ownerSvn := max a.ownerSvn (min 63 n) } :=
  ⟨rfl, Nat.le_max_left .., fun h => Nat.max_le.2 ⟨h, Nat.min_le_left ..⟩, rfl, fun _ => rfl, le_rfl, id⟩

/-- The owner's key is burnt where there is none (R467). -/
theorem burnKey (h : a.ownerKey = none) (k : Option (BitVec 256)) : a.Follows { a with ownerKey := k } :=
  ⟨rfl, le_rfl, id, rfl, fun hk => absurd h hk, le_rfl, id⟩

end Nv.Follows

theorem State.reserveBlock_nv (s : State) : s.nv.Follows s.reserveBlock.nv := by
  unfold State.reserveBlock
  dsimp only
  split
  · exact .refl _
  · split
    · exact .of_eq (by simp)
    case _ hlt _ => exact (Nv.Follows.reserve (Nat.lt_of_not_le hlt)).trans_eq (by simp)

theorem State.freshBlock_nv (s : State) : s.nv.Follows s.freshBlock.nv := by
  have h : s.freshBlock.nv = s.reserveBlock.nv := by
    unfold State.freshBlock
    dsimp only
    split
    · rfl
    · rfl
  exact s.reserveBlock_nv.trans_eq h

theorem State.takeIndex_nv {i} (e : s.takeIndex = some (i, t)) : s.nv.Follows t.nv := by
  simp only [State.takeIndex] at e
  split at e
  · contradiction
  · obtain ⟨-, rfl⟩ := Prod.mk.inj (Option.some.inj e)
    split
    · exact (State.reserveBlock_nv _).eq_trans (by rfl)
    · exact .refl _

theorem State.sign_nv {m b} (e : s.sign m = .ok (b, t)) : s.nv.Follows t.nv := by
  simp only [State.sign] at e
  split at e
  · contradiction
  · split at e
    · contradiction
    case h_2 hi =>
      obtain ⟨-, rfl⟩ := Prod.mk.inj (Except.ok.inj e)
      exact (State.takeIndex_nv hi).trans_eq rfl

theorem State.signedAnswer_nv {tr k nums body msg late} : s.nv.Follows (s.signedAnswer tr k nums body msg late).nv := by
  unfold State.signedAnswer
  split
  · exact .of_eq (by simp)
  case h_2 sig t e =>
    have ht : s.nv.Follows t.nv := State.sign_nv e
    dsimp only
    split
    · exact ht.trans_eq (by simp)
    · exact ht.trans_eq (by simp)

theorem State.bootSlot_nv {s0 b} : s.nv.Follows (s.bootSlot s0 b).nv := by
  unfold State.bootSlot
  extract_lets +onlyGivenNames x _ s2 s3
  have h3 : s.nv.Follows s3.nv := (State.freshBlock_nv _).eq_trans (by simp [s2])
  clear_value s3
  refine h3.trans_eq ?_
  split
  · simp
  · simp

theorem State.bootMss_nv (s : State) : s.nv.Follows s.bootMss.nv := by
  unfold State.bootMss
  extract_lets +onlyGivenNames _ s0 r
  have hr : r.2.nv = s.nv := by simp [r, s0]
  split
  · exact State.bootSlot_nv.eq_trans hr
  · exact .of_eq (by simp [hr])

theorem State.restartMss_nv {trigger} : s.nv.Follows (s.restartMss trigger).nv := by
  have h : s.nv.Follows (s.logInfo 0x0E86 trigger).bootMss.nv :=
    (State.bootMss_nv _).eq_trans (by simp)
  unfold State.restartMss
  dsimp only
  split
  · exact h.trans_eq (by simp)
  · exact h

theorem State.mssReq_follows {tr c f} (hf : ∀ t : State, t.nv.Follows (f t).nv) : s.nv.Follows (resultOf s (s.mssReq tr c f)).nv := by
  unfold State.mssReq
  rw [resultOf_next]
  split
  · exact (hf _).eq_trans (by simp)
  · exact .refl _

theorem State.spdmReq_follows {tr k f} (hf : ∀ (b : Bool) (t : State), t.nv.Follows (f b t).nv) :
    s.nv.Follows (resultOf s (s.spdmReq tr k f)).nv := by
  refine State.mssReq_follows fun t => ?_
  split
  · exact hf _ _
  · exact .of_eq (by simp)

theorem execBoot_follows {strap} : s.nv.Follows (resultOf s (execBoot strap s)).nv := by
  unfold execBoot
  split
  · exact State.restartMss_nv.eq_trans (by rfl)
  · split
    · exact State.restartMss_nv.eq_trans (by rfl)
    · exact .refl _

theorem execMssWatchdog_follows : s.nv.Follows (resultOf s (execMssWatchdog s)).nv := by
  unfold execMssWatchdog
  split
  · exact (State.freshBlock_nv _).eq_trans (by simp)
  · exact .refl _

theorem execMssRestart_follows {tr force} : s.nv.Follows (resultOf s (execMssRestart tr force s)).nv := by
  refine State.mssReq_follows fun t => ?_
  extract_lets +onlyGivenNames busy
  split
  · exact .of_eq (by simp)
  · exact State.restartMss_nv.eq_trans (by simp)

theorem execOwnerKeySet_follows {tr digest} : s.nv.Follows (resultOf s (execOwnerKeySet tr digest s)).nv := by
  refine State.mssReq_follows fun t => ?_
  split
  · exact .of_eq (by simp)
  case h_2 hk =>
    exact (Nv.Follows.burnKey hk (some digest)).trans_eq (by simp)

theorem execChallenge_follows {tr slot nonce late} : s.nv.Follows (resultOf s (execChallenge tr slot nonce late s)).nv := by
  refine State.spdmReq_follows fun b t => ?_
  dsimp only
  split
  · exact .of_eq (by simp)
  · exact State.signedAnswer_nv

theorem execGetMeasurements_follows {tr index sign nonce late} :
    s.nv.Follows (resultOf s (execGetMeasurements tr index sign nonce late s)).nv := by
  refine State.spdmReq_follows fun b t => ?_
  dsimp only
  split
  · exact .of_eq (by simp)
  · split
    · exact State.signedAnswer_nv
    · exact .of_eq (by simp)

theorem execFwConfirm_owner_follows {tr} : s.nv.Follows (resultOf s (execFwConfirm tr true s)).nv := by
  refine State.mssReq_follows fun t => ?_
  dsimp only
  rw [if_pos rfl]
  split
  · exact .of_eq (by simp)
  · exact (Nv.Follows.raiseOwner t.mss.routineSvn).trans_eq (by simp)

/-- R461, R463: the vendor's FW_CONFIRM burns up to the running image's security version, and only while that image is the
active one. -/
theorem execFwConfirm_vendor_nv {tr} :
    (resultOf s (execFwConfirm tr false s)).nv = s.nv ∨
      s.mss.running = s.mss.active ∧
        (resultOf s (execFwConfirm tr false s)).nv = { s.nv with fwSvn := max s.nv.fwSvn (min 127 s.mss.runSvn) } := by
  have hm : (s.mssTake tr).mss.running = s.mss.running ∧ (s.mssTake tr).mss.active = s.mss.active ∧
      (s.mssTake tr).mss.runSvn = s.mss.runSvn := by
    cases tr <;> exact ⟨rfl, rfl, rfl⟩
  unfold execFwConfirm State.mssReq
  rw [resultOf_next]
  split
  · dsimp only
    rw [if_neg Bool.false_ne_true]
    split
    · exact .inl (by simp)
    case _ heq =>
      rw [not_not] at heq
      simp only [hm] at heq
      exact .inr ⟨heq, by simp [hm]⟩
  · exact .inl rfl

/-! ### Every command -/

/-- What a command other than the vendor's FW_CONFIRM keeps. -/
structure State.Keeps (s t : State) : Prop where
  sound : t.Sound
  ident_eq : t.ident = s.ident
  nv_follows : s.nv.Follows t.nv

theorem State.Keeps.of_frame {P : Prop} (h : t.Sound) (hf : t.ident = s.ident ∧ t.nv = s.nv ∧ P) : s.Keeps t :=
  ⟨h, hf.1, .of_eq hf.2.1⟩

theorem State.Keeps.of_follows {P : Prop} (h : t.Sound) (hn : s.nv.Follows t.nv) (hf : t.ident = s.ident ∧ P) : s.Keeps t :=
  ⟨h, hf.1, hn⟩

/-- Every command but the vendor's FW_CONFIRM, by the two lemmas of each. -/
theorem exec_keeps (h : s.Sound) (i : Instr) (hi : ∀ tr, i ≠ .fwConfirm tr false) : s.Keeps (resultOf s (exec i s)) := by
  cases i with
  | nop => exact .of_frame (execNop_sound h) (execNop_frame ..)
  | tile => exact .of_frame (execTile_sound h) (execTile_frame ..)
  | drop => exact .of_frame (execDrop_sound h) (execDrop_frame ..)
  | dup => exact .of_frame (execDup_sound h) (execDup_frame ..)
  | pset => exact .of_frame (execPset_sound h) (execPset_frame ..)
  | padd => exact .of_frame (execPadd_sound h) (execPadd_frame ..)
  | pcopy => exact .of_frame (execPcopy_sound h) (execPcopy_frame ..)
  | wait => exact .of_frame (execWait_sound h) (execWait_frame ..)
  | waitComplete => exact .of_frame (execWaitComplete_sound h) (execWaitComplete_frame ..)
  | signal => exact .of_frame (execSignal_sound h) (execSignal_frame ..)
  | fence => exact .of_frame (execFence_sound h) (execFence_frame ..)
  | call => exact .of_frame (execCall_sound h) (execCall_frame ..)
  | recBegin => exact .of_frame (execRecBegin_sound h) (execRecBegin_frame ..)
  | recEnd => exact .of_frame (execRecEnd_sound h) (execRecEnd_frame ..)
  | replay => exact .of_frame (execReplay_sound h) (execReplay_frame ..)
  | replayPass => exact .of_frame (execReplayPass_sound h) (execReplayPass_frame ..)
  | patch => exact .of_frame (execPatch_sound h) (execPatch_frame ..)
  | endList => exact .of_frame (execEndList_sound h) (execEndList_frame ..)
  | mxuLoadw => exact .of_frame (execMxuLoadw_sound h) (execMxuLoadw_frame ..)
  | mxuStream => exact .of_frame (execMxuStream_sound h) (execMxuStream_frame ..)
  | mxuDrain => exact .of_frame (execMxuDrain_sound h) (execMxuDrain_frame ..)
  | mxuMultipass => exact .of_frame (execMxuMultipass_sound h) (execMxuMultipass_frame ..)
  | mxuClear => exact .of_frame (execMxuClear_sound h) (execMxuClear_frame ..)
  | mxuStart => exact .of_frame (execMxuStart_sound h) (execMxuStart_frame ..)
  | treeOutput => exact .of_frame (execTreeOutput_sound h) (execTreeOutput_frame ..)
  | drainRowRead => exact .of_frame (execDrainRowRead_sound h) (execDrainRowRead_frame ..)
  | vceCfg => exact .of_frame (execVceCfg_sound h) (execVceCfg_frame ..)
  | vceRun => exact .of_frame (execVceRun_sound h) (execVceRun_frame ..)
  | vceTblload => exact .of_frame (execVceTblload_sound h) (execVceTblload_frame ..)
  | vcePerm => exact .of_frame (execVcePerm_sound h) (execVcePerm_frame ..)
  | vceReduce => exact .of_frame (execVceReduce_sound h) (execVceReduce_frame ..)
  | vceScan => exact .of_frame (execVceScan_sound h) (execVceScan_frame ..)
  | vceStart => exact .of_frame (execVceStart_sound h) (execVceStart_frame ..)
  | tmvCopy => exact .of_frame (execTmvCopy_sound h) (execTmvCopy_frame ..)
  | tmvGather => exact .of_frame (execTmvGather_sound h) (execTmvGather_frame ..)
  | tmvScatter => exact .of_frame (execTmvScatter_sound h) (execTmvScatter_frame ..)
  | tmvRemote => exact .of_frame (execTmvRemote_sound h) (execTmvRemote_frame ..)
  | tmvCheckPhase => exact .of_frame (execTmvCheckPhase_sound h) (execTmvCheckPhase_frame ..)
  | tmvAccessPhase => exact .of_frame (execTmvAccessPhase_sound h) (execTmvAccessPhase_frame ..)
  | rsignal => exact .of_frame (execRsignal_sound h) (execRsignal_frame ..)
  | signalRelease => exact .of_frame (execSignalRelease_sound h) (execSignalRelease_frame ..)
  | cleBucket => exact .of_frame (execCleBucket_sound h) (execCleBucket_frame ..)
  | cleSmallreduce => exact .of_frame (execCleSmallreduce_sound h) (execCleSmallreduce_frame ..)
  | commandComplete => exact .of_frame (execCommandComplete_sound h) (execCommandComplete_frame ..)
  | queueDeadlock => exact .of_frame (execQueueDeadlock_sound h) (execQueueDeadlock_frame ..)
  | creditLapse => exact .of_frame (execCreditLapse_sound h) (execCreditLapse_frame ..)
  | softmax => exact .of_frame (execSoftmax_sound h) (execSoftmax_frame ..)
  | layernorm => exact .of_frame (execLayernorm_sound h) (execLayernorm_frame ..)
  | rmsnorm => exact .of_frame (execRmsnorm_sound h) (execRmsnorm_frame ..)
  | linscan => exact .of_frame (execLinscan_sound h) (execLinscan_frame ..)
  | topk => exact .of_frame (execTopk_sound h) (execTopk_frame ..)
  | sample => exact .of_frame (execSample_sound h) (execSample_frame ..)
  | xent => exact .of_frame (execXent_sound h) (execXent_frame ..)
  | conv1d => exact .of_frame (execConv1d_sound h) (execConv1d_frame ..)
  | exchStart => exact .of_frame (execExchStart_sound h) (execExchStart_frame ..)
  | allgather => exact .of_frame (execAllgather_sound h) (execAllgather_frame ..)
  | update => exact .of_frame (execUpdate_sound h) (execUpdate_frame ..)
  | shardFinalsReady => exact .of_frame (execShardFinalsReady_sound h) (execShardFinalsReady_frame ..)
  | shardImageComplete => exact .of_frame (execShardImageComplete_sound h) (execShardImageComplete_frame ..)
  | precond => exact .of_frame (execPrecond_sound h) (execPrecond_frame ..)
  | reshard => exact .of_frame (execReshard_sound h) (execReshard_frame ..)
  | ckpt => exact .of_frame (execCkpt_sound h) (execCkpt_frame ..)
  | part => exact .of_frame (execPart_sound h) (execPart_frame ..)
  | close => exact .of_frame (execClose_sound h) (execClose_frame ..)
  | ack => exact .of_frame (execAck_sound h) (execAck_frame ..)
  | retry => exact .of_frame (execRetry_sound h) (execRetry_frame ..)
  | final => exact .of_frame (execFinal_sound h) (execFinal_frame ..)
  | finalClose => exact .of_frame (execFinalClose_sound h) (execFinalClose_frame ..)
  | gather => exact .of_frame (execGather_sound h) (execGather_frame ..)
  | gatherFc => exact .of_frame (execGatherFc_sound h) (execGatherFc_frame ..)
  | gatherClose => exact .of_frame (execGatherClose_sound h) (execGatherClose_frame ..)
  | sr => exact .of_frame (execSr_sound h) (execSr_frame ..)
  | hopWaitExpiry => exact .of_frame (execHopWaitExpiry_sound h) (execHopWaitExpiry_frame ..)
  | cleHopSkip => exact .of_frame (execCleHopSkip_sound h) (execCleHopSkip_frame ..)
  | cleDeadline => exact .of_frame (execCleDeadline_sound h) (execCleDeadline_frame ..)
  | cleSrTimeout => exact .of_frame (execCleSrTimeout_sound h) (execCleSrTimeout_frame ..)
  | ready => exact .of_frame (execReady_sound h) (execReady_frame ..)
  | stageMissing => exact .of_frame (execStageMissing_sound h) (execStageMissing_frame ..)
  | digest => exact .of_frame (execDigest_sound h) (execDigest_frame ..)
  | digestTimeout => exact .of_frame (execDigestTimeout_sound h) (execDigestTimeout_frame ..)
  | probeTick => exact .of_frame (execProbeTick_sound h) (execProbeTick_frame ..)
  | probe => exact .of_frame (execProbe_sound h) (execProbe_frame ..)
  | probeAck => exact .of_frame (execProbeAck_sound h) (execProbeAck_frame ..)
  | lossNotice => exact .of_frame (execLossNotice_sound h) (execLossNotice_frame ..)
  | vote => exact .of_frame (execVote_sound h) (execVote_frame ..)
  | voteAck => exact .of_frame (execVoteAck_sound h) (execVoteAck_frame ..)
  | voteTimeout => exact .of_frame (execVoteTimeout_sound h) (execVoteTimeout_frame ..)
  | decisionAck => exact .of_frame (execDecisionAck_sound h) (execDecisionAck_frame ..)
  | ckeOrphaned => exact .of_frame (execCkeOrphaned_sound h) (execCkeOrphaned_frame ..)
  | commit => exact .of_frame (execCommit_sound h) (execCommit_frame ..)
  | abortStep => exact .of_frame (execAbortStep_sound h) (execAbortStep_frame ..)
  | retryUpdate => exact .of_frame (execRetryUpdate_sound h) (execRetryUpdate_frame ..)
  | rollback => exact .of_frame (execRollback_sound h) (execRollback_frame ..)
  | haltAll => exact .of_frame (execHaltAll_sound h) (execHaltAll_frame ..)
  | hostAbort => exact .of_frame (execHostAbort_sound h) (execHostAbort_frame ..)
  | hostLineUpdate => exact .of_frame (execHostLineUpdate_sound h) (execHostLineUpdate_frame ..)
  | start => exact .of_frame (execStart_sound h) (execStart_frame ..)
  | jobStart => exact .of_frame (execJobStart_sound h) (execJobStart_frame ..)
  | jobDone => exact .of_frame (execJobDone_sound h) (execJobDone_frame ..)
  | suspend => exact .of_frame (execSuspend_sound h) (execSuspend_frame ..)
  | suspended => exact .of_frame (execSuspended_sound h) (execSuspended_frame ..)
  | resume => exact .of_frame (execResume_sound h) (execResume_frame ..)
  | terminate => exact .of_frame (execTerminate_sound h) (execTerminate_frame ..)
  | jobTermForced => exact .of_frame (execJobTermForced_sound h) (execJobTermForced_frame ..)
  | ringNop => exact .of_frame (execRingNop_sound h) (execRingNop_frame ..)
  | ringEnable => exact .of_frame (execRingEnable_sound h) (execRingEnable_frame ..)
  | cxlMemRead => exact .of_frame (execCxlMemRead_sound h) (execCxlMemRead_frame ..)
  | cxlMemWrite => exact .of_frame (execCxlMemWrite_sound h) (execCxlMemWrite_frame ..)
  | bisnpResponse => exact .of_frame (execBisnpResponse_sound h) (execBisnpResponse_frame ..)
  | hostBisnpTimeout => exact .of_frame (execHostBisnpTimeout_sound h) (execHostBisnpTimeout_frame ..)
  | hostLinkDown => exact .of_frame (execHostLinkDown_sound h) (execHostLinkDown_frame ..)
  | msixBindArm => exact .of_frame (execMsixBindArm_sound h) (execMsixBindArm_frame ..)
  | msixModExpiry => exact .of_frame (execMsixModExpiry_sound h) (execMsixModExpiry_frame ..)
  | coldReset => exact .of_frame (execColdReset_sound h) (execColdReset_frame ..)
  | warmReset => exact .of_frame (execWarmReset_sound h) (execWarmReset_frame ..)
  | hubPreservingReset => exact .of_frame (execHubPreservingReset_sound h) (execHubPreservingReset_frame ..)
  | resetArm => exact .of_frame (execResetArm_sound h) (execResetArm_frame ..)
  | resetDisarm => exact .of_frame (execResetDisarm_sound h) (execResetDisarm_frame ..)
  | perstNDeassert => exact .of_frame (execPerstNDeassert_sound h) (execPerstNDeassert_frame ..)
  | initDone => exact .of_frame (execInitDone_sound h) (execInitDone_frame ..)
  | seqFlagAdd => exact .of_frame (execSeqFlagAdd_sound h) (execSeqFlagAdd_frame ..)
  | hubFlagAdd => exact .of_frame (execHubFlagAdd_sound h) (execHubFlagAdd_frame ..)
  | dlkStatusClear => exact .of_frame (execDlkStatusClear_sound h) (execDlkStatusClear_frame ..)
  | mxuInject => exact .of_frame (execMxuInject_sound h) (execMxuInject_frame ..)
  | memInject => exact .of_frame (execMemInject_sound h) (execMemInject_frame ..)
  | errInject => exact .of_frame (execErrInject_sound h) (execErrInject_frame ..)
  | recordAcknowledge => exact .of_frame (execRecordAcknowledge_sound h) (execRecordAcknowledge_frame ..)
  | fatalClear => exact .of_frame (execFatalClear_sound h) (execFatalClear_frame ..)
  | snapshot => exact .of_frame (execSnapshot_sound h) (execSnapshot_frame ..)
  | snapshotDone => exact .of_frame (execSnapshotDone_sound h) (execSnapshotDone_frame ..)
  | freeze => exact .of_frame (execFreeze_sound h) (execFreeze_frame ..)
  | skidSample => exact .of_frame (execSkidSample_sound h) (execSkidSample_frame ..)
  | preciseSample => exact .of_frame (execPreciseSample_sound h) (execPreciseSample_frame ..)
  | pmuSampleLost => exact .of_frame (execPmuSampleLost_sound h) (execPmuSampleLost_frame ..)
  | pkgLimitWrite => exact .of_frame (execPkgLimitWrite_sound h) (execPkgLimitWrite_frame ..)
  | coolantReport => exact .of_frame (execCoolantReport_sound h) (execCoolantReport_frame ..)
  | coolantStale => exact .of_frame (execCoolantStale_sound h) (execCoolantStale_frame ..)
  | laserEnable => exact .of_frame (execLaserEnable_sound h) (execLaserEnable_frame ..)
  | laserFaultClear => exact .of_frame (execLaserFaultClear_sound h) (execLaserFaultClear_frame ..)
  | quiesce => exact .of_frame (execQuiesce_sound h) (execQuiesce_frame ..)
  | portDisable => exact .of_frame (execPortDisable_sound h) (execPortDisable_frame ..)
  | fullTrain => exact .of_frame (execFullTrain_sound h) (execFullTrain_frame ..)
  | mailboxSend => exact .of_frame (execMailboxSend_sound h) (execMailboxSend_frame ..)
  | m2hFullClear => exact .of_frame (execM2hFullClear_sound h) (execM2hFullClear_frame ..)
  | registerWrite => exact .of_frame (execRegisterWrite_sound h) (execRegisterWrite_frame ..)
  | powerEntryStart => exact .of_frame (execPowerEntryStart_sound h) (execPowerEntryStart_frame ..)
  | pwrVinRange => exact .of_frame (execPwrVinRange_sound h) (execPwrVinRange_frame ..)
  | pwrBrownout => exact .of_frame (execPwrBrownout_sound h) (execPwrBrownout_frame ..)
  | pwrVinOv => exact .of_frame (execPwrVinOv_sound h) (execPwrVinOv_frame ..)
  | pwrOcp => exact .of_frame (execPwrOcp_sound h) (execPwrOcp_frame ..)
  | pwrDieLost => exact .of_frame (execPwrDieLost_sound h) (execPwrDieLost_frame ..)
  | pwrHubLost => exact .of_frame (execPwrHubLost_sound h) (execPwrHubLost_frame ..)
  | vstbyLoss => exact .of_frame (execVstbyLoss_sound h) (execVstbyLoss_frame ..)
  | grantPeriod => exact .of_frame (execGrantPeriod_sound h) (execGrantPeriod_frame ..)
  | yield => exact .of_frame (execYield_sound h) (execYield_frame ..)
  | ballastRelease => exact .of_frame (execBallastRelease_sound h) (execBallastRelease_frame ..)
  | pwrThrottle => exact .of_frame (execPwrThrottle_sound h) (execPwrThrottle_frame ..)
  | throttleDown => exact .of_frame (execThrottleDown_sound h) (execThrottleDown_frame ..)
  | pwrThermThrottle => exact .of_frame (execPwrThermThrottle_sound h) (execPwrThermThrottle_frame ..)
  | pwrTjCrit => exact .of_frame (execPwrTjCrit_sound h) (execPwrTjCrit_frame ..)
  | pwrThermtrip => exact .of_frame (execPwrThermtrip_sound h) (execPwrThermtrip_frame ..)
  | pwrLeak => exact .of_frame (execPwrLeak_sound h) (execPwrLeak_frame ..)
  | pwrStageHot => exact .of_frame (execPwrStageHot_sound h) (execPwrStageHot_frame ..)
  | pwrOeShutdown => exact .of_frame (execPwrOeShutdown_sound h) (execPwrOeShutdown_frame ..)
  | oeRelight => exact .of_frame (execOeRelight_sound h) (execOeRelight_frame ..)
  | replan => exact .of_frame (execReplan_sound h) (execReplan_frame ..)
  | aoCompare => exact .of_frame (execAoCompare_sound h) (execAoCompare_frame ..)
  | aoRcFallback => exact .of_frame (execAoRcFallback_sound h) (execAoRcFallback_frame ..)
  | coreClockStop => exact .of_frame (execCoreClockStop_sound h) (execCoreClockStop_frame ..)
  | selfRefresh => exact .of_frame (execSelfRefresh_sound h) (execSelfRefresh_frame ..)
  | scrubRead => exact .of_frame (execScrubRead_sound h) (execScrubRead_frame ..)
  | memStackFail => exact .of_frame (execMemStackFail_sound h) (execMemStackFail_frame ..)
  | t2LinkDown => exact .of_frame (execT2LinkDown_sound h) (execT2LinkDown_frame ..)
  | expanderFatal => exact .of_frame (execExpanderFatal_sound h) (execExpanderFatal_frame ..)
  | lossOfLight => exact .of_frame (execLossOfLight_sound h) (execLossOfLight_frame ..)
  | lightReturn => exact .of_frame (execLightReturn_sound h) (execLightReturn_frame ..)
  | trainingComplete => exact .of_frame (execTrainingComplete_sound h) (execTrainingComplete_frame ..)
  | fastTrainFallback => exact .of_frame (execFastTrainFallback_sound h) (execFastTrainFallback_frame ..)
  | identityExchange => exact .of_frame (execIdentityExchange_sound h) (execIdentityExchange_frame ..)
  | fabLinkDown => exact .of_frame (execFabLinkDown_sound h) (execFabLinkDown_frame ..)
  | quiesced => exact .of_frame (execQuiesced_sound h) (execQuiesced_frame ..)
  | laneFail => exact .of_frame (execLaneFail_sound h) (execLaneFail_frame ..)
  | dataFlit => exact .of_frame (execDataFlit_sound h) (execDataFlit_frame ..)
  | ctrlFlit => exact .of_frame (execCtrlFlit_sound h) (execCtrlFlit_frame ..)
  | flitNak => exact .of_frame (execFlitNak_sound h) (execFlitNak_frame ..)
  | packetForward => exact .of_frame (execPacketForward_sound h) (execPacketForward_frame ..)
  | wr => exact .of_frame (execWr_sound h) (execWr_frame ..)
  | wrPartial => exact .of_frame (execWrPartial_sound h) (execWrPartial_frame ..)
  | rdReq => exact .of_frame (execRdReq_sound h) (execRdReq_frame ..)
  | rdResp => exact .of_frame (execRdResp_sound h) (execRdResp_frame ..)
  | wrAck => exact .of_frame (execWrAck_sound h) (execWrAck_frame ..)
  | nak => exact .of_frame (execNak_sound h) (execNak_frame ..)
  | signalPacket => exact .of_frame (execSignalPacket_sound h) (execSignalPacket_frame ..)
  | signalAck => exact .of_frame (execSignalAck_sound h) (execSignalAck_frame ..)
  | echo => exact .of_frame (execEcho_sound h) (execEcho_frame ..)
  | echoReply => exact .of_frame (execEchoReply_sound h) (execEchoReply_frame ..)
  | e2eTimeout => exact .of_frame (execE2eTimeout_sound h) (execE2eTimeout_frame ..)
  | fabLaserFault => exact .of_frame (execFabLaserFault_sound h) (execFabLaserFault_frame ..)
  | feedPowerCheck => exact .of_frame (execFeedPowerCheck_sound h) (execFeedPowerCheck_frame ..)
  | feedPowerLow => exact .of_frame (execFeedPowerLow_sound h) (execFeedPowerLow_frame ..)
  | laserPoll => exact .of_frame (execLaserPoll_sound h) (execLaserPoll_frame ..)
  | errorRecord => exact .of_frame (execErrorRecord_sound h) (execErrorRecord_frame ..)
  | fatalHandlingEnd => exact .of_frame (execFatalHandlingEnd_sound h) (execFatalHandlingEnd_frame ..)
  | boot => exact .of_follows (execBoot_sound h) execBoot_follows (execBoot_frame ..)
  | mssWatchdog => exact .of_follows (execMssWatchdog_sound h) execMssWatchdog_follows (execMssWatchdog_frame ..)
  | sensorSample => exact .of_frame (execSensorSample_sound h) (execSensorSample_frame ..)
  | logFlush => exact .of_frame (execLogFlush_sound h) (execLogFlush_frame ..)
  | alertResponse => exact .of_frame (execAlertResponse_sound h) (execAlertResponse_frame ..)
  | ibiRepeat => exact .of_frame (execIbiRepeat_sound h) (execIbiRepeat_frame ..)
  | setdasa => exact .of_frame (execSetdasa_sound h) (execSetdasa_frame ..)
  | entdaa => exact .of_frame (execEntdaa_sound h) (execEntdaa_frame ..)
  | rstdaa => exact .of_frame (execRstdaa_sound h) (execRstdaa_frame ..)
  | setEndpointId => exact .of_frame (execSetEndpointId_sound h) (execSetEndpointId_frame ..)
  | getEndpointId => exact .of_frame (execGetEndpointId_sound h) (execGetEndpointId_frame ..)
  | getMctpVersionSupport => exact .of_frame (execGetMctpVersionSupport_sound h) (execGetMctpVersionSupport_frame ..)
  | getMessageTypeSupport => exact .of_frame (execGetMessageTypeSupport_sound h) (execGetMessageTypeSupport_frame ..)
  | logRead => exact .of_frame (execLogRead_sound h) (execLogRead_frame ..)
  | fwConfirm tr owner =>
    cases owner with
    | false => exact absurd rfl (hi tr)
    | true => exact .of_follows (execFwConfirm_sound h) execFwConfirm_owner_follows (execFwConfirm_frame ..)
  | mssRestart => exact .of_follows (execMssRestart_sound h) execMssRestart_follows (execMssRestart_frame ..)
  | ownerKeySet => exact .of_follows (execOwnerKeySet_sound h) execOwnerKeySet_follows (execOwnerKeySet_frame ..)
  | routineLoad => exact .of_frame (execRoutineLoad_sound h) (execRoutineLoad_frame ..)
  | requestUpdate => exact .of_frame (execRequestUpdate_sound h) (execRequestUpdate_frame ..)
  | passComponentTable => exact .of_frame (execPassComponentTable_sound h) (execPassComponentTable_frame ..)
  | updateComponent => exact .of_frame (execUpdateComponent_sound h) (execUpdateComponent_frame ..)
  | firmwareData => exact .of_frame (execFirmwareData_sound h) (execFirmwareData_frame ..)
  | activateFirmware => exact .of_frame (execActivateFirmware_sound h) (execActivateFirmware_frame ..)
  | cancelUpdate => exact .of_frame (execCancelUpdate_sound h) (execCancelUpdate_frame ..)
  | updateLockTimeout => exact .of_frame (execUpdateLockTimeout_sound h) (execUpdateLockTimeout_frame ..)
  | setEventReceiver => exact .of_frame (execSetEventReceiver_sound h) (execSetEventReceiver_frame ..)
  | getSensorReading => exact .of_frame (execGetSensorReading_sound h) (execGetSensorReading_frame ..)
  | coolantInletEffecter => exact .of_frame (execCoolantInletEffecter_sound h) (execCoolantInletEffecter_frame ..)
  | coolantFlowEffecter => exact .of_frame (execCoolantFlowEffecter_sound h) (execCoolantFlowEffecter_frame ..)
  | packageLimitEffecter => exact .of_frame (execPackageLimitEffecter_sound h) (execPackageLimitEffecter_frame ..)
  | deviceResetEffecter => exact .of_frame (execDeviceResetEffecter_sound h) (execDeviceResetEffecter_frame ..)
  | getVersion => exact .of_frame (execGetVersion_sound h) (execGetVersion_frame ..)
  | getCapabilities => exact .of_frame (execGetCapabilities_sound h) (execGetCapabilities_frame ..)
  | negotiateAlgorithms => exact .of_frame (execNegotiateAlgorithms_sound h) (execNegotiateAlgorithms_frame ..)
  | getDigests => exact .of_frame (execGetDigests_sound h) (execGetDigests_frame ..)
  | getCertificate => exact .of_frame (execGetCertificate_sound h) (execGetCertificate_frame ..)
  | challenge => exact .of_follows (execChallenge_sound h) execChallenge_follows (execChallenge_frame ..)
  | getMeasurements => exact .of_follows (execGetMeasurements_sound h) execGetMeasurements_follows (execGetMeasurements_frame ..)
  | chunkSend => exact .of_frame (execChunkSend_sound h) (execChunkSend_frame ..)
  | chunkGet => exact .of_frame (execChunkGet_sound h) (execChunkGet_frame ..)
  | testModeHigh => exact .of_frame (execTestModeHigh_sound h) (execTestModeHigh_frame ..)
  | hostLinkRetrain => exact .of_frame (execHostLinkRetrain_sound h) (execHostLinkRetrain_frame ..)
  | topResetArmExpiry => exact .of_frame (execTopResetArmExpiry_sound h) (execTopResetArmExpiry_frame ..)
  | thermtripNDeassert => exact .of_frame (execThermtripNDeassert_sound h) (execThermtripNDeassert_frame ..)
  | thermThrottleDown => exact .of_frame (execThermThrottleDown_sound h) (execThermThrottleDown_frame ..)
  | decisionResend => exact .of_frame (execDecisionResend_sound h) (execDecisionResend_frame ..)
  | counterCarry => exact .of_frame (execCounterCarry_sound h) (execCounterCarry_frame ..)
  | mssHoldNAssert => exact .of_frame (execMssHoldNAssert_sound h) (execMssHoldNAssert_frame ..)
  | tapInstruction => exact .of_frame (execTapInstruction_sound h) (execTapInstruction_frame ..)
  | pldmBaseRequest => exact .of_frame (execPldmBaseRequest_sound h) (execPldmBaseRequest_frame ..)
  | getPdr => exact .of_frame (execGetPdr_sound h) (execGetPdr_frame ..)
  | respondIfReady => exact .of_frame (execRespondIfReady_sound h) (execRespondIfReady_frame ..)

theorem State.Sound.of_inv (h : s.Inv) : s.Sound := by
  obtain ⟨hm, hc, hq, ht, -⟩ := h
  exact ⟨hm, hc, hq, ht⟩

theorem State.aoTick_keeps (h : s.Sound) : s.Keeps s.aoTick := by
  refine ⟨.aoTick h, ?_, .of_eq ?_⟩ <;> unfold State.aoTick <;> split <;> rfl

/-- The commands the obligation names apart: all but the vendor's FW_CONFIRM, or it. -/
theorem eq_fwConfirm_or (i : Instr) : (∃ tr, i = .fwConfirm tr false) ∨ ∀ tr, i ≠ .fwConfirm tr false := by
  by_cases h : ∃ tr, i = .fwConfirm tr false
  · exact .inl h
  · exact .inr fun tr e => h ⟨tr, e⟩

/-- What the obligation says of a step, `P` being when FW_SVN may change. -/
def State.StepKeeps (P : Prop) (s t : State) : Prop :=
  t.Inv ∧ t.ident = s.ident ∧ s.nv.fwSvn ≤ t.nv.fwSvn ∧ s.nv.ownerSvn ≤ t.nv.ownerSvn ∧ s.nv.reserved ≤ t.nv.reserved ∧
    t.nv.revoked = s.nv.revoked ∧ (s.nv.ownerKey ≠ none → t.nv.ownerKey = s.nv.ownerKey) ∧ (t.nv.fwSvn ≠ s.nv.fwSvn → P)

theorem State.Keeps.stepKeeps {P : Prop} (hs : s.Inv) (h : s.Keeps t) : s.StepKeeps P t := by
  obtain ⟨hfw, howner, hbound, hrev, hkey, hres, hresBound⟩ := h.nv_follows
  obtain ⟨-, -, -, -, hfw0, howner0, hres0⟩ := hs
  exact ⟨⟨h.sound.wf, h.sound.cores_length, h.sound.queue_length, h.sound.throttle_le, hfw ▸ hfw0, hbound howner0, hresBound hres0⟩,
    h.ident_eq, hfw.ge, howner, hres, hrev, hkey, fun hne => absurd hfw hne⟩

theorem execFwConfirm_vendor_stepKeeps {tr} {P : Prop} (hs : s.Inv) (hP : s.mss.running = s.mss.active → P) :
    s.StepKeeps P (resultOf s (execFwConfirm tr false s)) := by
  have h := execFwConfirm_sound (tr := tr) (owner := false) (.of_inv hs)
  have hi := (execFwConfirm_frame tr false s).1
  obtain hn | ⟨hact, hn⟩ := execFwConfirm_vendor_nv (s := s) (tr := tr)
  · exact State.Keeps.stepKeeps hs ⟨h, hi, .of_eq hn⟩
  · obtain ⟨-, -, -, -, hfw0, howner0, hres0⟩ := hs
    rw [State.StepKeeps, State.Inv, hn]
    exact ⟨⟨h.wf, h.cores_length, h.queue_length, h.throttle_le, Nat.max_le.2 ⟨hfw0, Nat.min_le_left ..⟩, howner0, hres0⟩,
      hi, Nat.le_max_left .., le_rfl, le_rfl, rfl, fun _ => rfl, fun _ => hP hact⟩

/-- Settles O60: every command but the vendor's FW_CONFIRM keeps `State.Sound` and lets the fuses follow (`exec_keeps`, by the
lemma of each command), and FW_CONFIRM is looked at apart. -/
theorem everyStepKeepsTheInvariant : Obligations.EveryStepKeepsTheInvariant := by
  unfold Obligations.EveryStepKeepsTheInvariant
  intro s t hs hstep
  unfold step at hstep
  split at hstep
  · obtain rfl := Host.Outcome.next.inj hstep
    exact (State.aoTick_keeps (.of_inv hs)).stepKeeps hs
  case h_2 c rest hp =>
    have hs' : State.Inv { s with pending := rest } := hs
    have ht : resultOf { s with pending := rest } (exec c { s with pending := rest }) = t := by
      rw [hstep]
      rfl
    have hk : State.StepKeeps (∃ tr rest, s.pending = .fwConfirm tr false :: rest ∧ s.mss.running = s.mss.active)
        { s with pending := rest } t := by
      rw [← ht]
      obtain ⟨tr, rfl⟩ | hc := eq_fwConfirm_or c
      · exact execFwConfirm_vendor_stepKeeps hs' fun hact => ⟨tr, rest, hp, hact⟩
      · exact (exec_keeps (.of_inv hs') c hc).stepKeeps hs'
    exact hk

end Sys2Proof.Machine
end

section
/-! SUPPORT. Writes of BAR0: what a raised occurrence leaves, the writes with a row of their own, and the registers the obligation
names. -/

namespace Sys2Proof.Machine
variable {s t u : State}

/-! ### Frames -/

theorem SameOutside.refl (ps : List StatePart) (s : State) : SameOutside ps s s := fun p _ => by
  cases p <;> rfl

theorem SameOutside.trans {ps : List StatePart} (h : SameOutside ps s t) (h' : SameOutside ps t u) : SameOutside ps s u := by
  intro p hp
  have h1 := h p hp
  have h2 := h' p hp
  cases p <;> exact h2.trans h1

theorem SameOutside.mono {ps qs : List StatePart} (h : SameOutside ps s t) (hq : ps ⊆ qs) : SameOutside qs s t :=
  fun p hp => h p fun hp' => hp (hq hp')

section update
variable {top : Top} {cores : List Core} {cle : Cle} {pwr : Pwr} {fab : Fab} {mss : Mss}

theorem sameOutside_top : SameOutside [.top] s { s with top := top } := fun p hp => by
  cases p <;> simp_all [StatePart.same]

theorem sameOutside_cores : SameOutside [.cores] s { s with cores := cores } := fun p hp => by
  cases p <;> simp_all [StatePart.same]

theorem sameOutside_cle : SameOutside [.cle] s { s with cle := cle } := fun p hp => by
  cases p <;> simp_all [StatePart.same]

theorem sameOutside_pwr : SameOutside [.pwr] s { s with pwr := pwr } := fun p hp => by
  cases p <;> simp_all [StatePart.same]

theorem sameOutside_fab : SameOutside [.fab] s { s with fab := fab } := fun p hp => by
  cases p <;> simp_all [StatePart.same]

theorem sameOutside_mss : SameOutside [.mss] s { s with mss := mss } := fun p hp => by
  cases p <;> simp_all [StatePart.same]

end update

/-! ### Occurrences raised -/

section raise
variable {code inst payload : Nat} {cls : ErrClass}

theorem State.raise_sameOutside : SameOutside [.hub, .err, .pmu, .sent] s (s.raise code cls inst payload) := fun p hp => by
  cases p <;> simp_all [StatePart.same]

theorem State.raise_raised : Raised s (s.raise code cls inst payload) code cls inst payload := by
  intro hq
  simp [State.raise, State.offer, hq, Err.enqueue, Err.countClass_queue]

end raise

theorem State.raiseVec_sameOutside {v : Nat} : SameOutside [.hub, .sent] s (s.raiseVec v) := fun p hp => by
  cases p <;> simp_all [StatePart.same]

theorem regPayload_zero (off value size : Nat) : regPayload off value size 0 = off + value <<< 32 + size <<< 96 := by
  unfold regPayload
  rw [Nat.zero_shiftLeft, Nat.add_zero]

theorem State.cfgIgnored_top {off value size : Nat} :
    (s.cfgIgnored off value size).top.cfgIgnored = satAdd 32 s.top.cfgIgnored 1 := by
  simp [State.cfgIgnored]

theorem State.cfgIgnored_raised {off value size : Nat} :
    Raised s (s.cfgIgnored off value size) 0x0102 .c 0 (off + value <<< 32 + size <<< 96) := by
  rw [← regPayload_zero]
  exact State.raise_raised (s := { s with top.cfgIgnored := satAdd 32 s.top.cfgIgnored 1 })

theorem State.cfgIgnored_sameOutside {off value size : Nat} :
    SameOutside [.top, .hub, .err, .pmu, .sent] s (s.cfgIgnored off value size) :=
  (sameOutside_top.mono (by simp)).trans (State.raise_sameOutside.mono (by simp))

/-! ### Writes that have a row of their own -/

theorem State.onBar_of_closed (h : s.barOpen = false) (f : State → State) : s.onBar f = .next s := by
  simp [State.onBar, h]

theorem State.onBar_of_open (h : s.barOpen = true) (f : State → State) : s.onBar f = .next (f s) := by
  simp [State.onBar, h]

/-- R420, R439: a coolant report. -/
theorem State.coolantSet_pwr {inlet flow : Nat} :
    (s.coolantSet inlet flow).pwr = { s.pwr with inlet := inlet, flow := flow, stale := false } := by
  unfold State.coolantSet
  dsimp only
  split
  · rfl
  · simp

theorem State.coolantSet_sameOutside {inlet flow : Nat} :
    SameOutside [.hub, .err, .pwr, .pmu, .sent] s (s.coolantSet inlet flow) := by
  have h1 : SameOutside [.hub, .err, .pwr, .pmu, .sent] s { s with pwr.inlet := inlet, pwr.flow := flow, pwr.stale := false } :=
    sameOutside_pwr.mono (by simp)
  unfold State.coolantSet
  dsimp only
  split
  · exact h1
  · exact h1.trans ((State.raise_sameOutside.mono (by simp)).trans (State.raiseVec_sameOutside.mono (by simp)))

/-- R439: a report that changes a coolant cap is recorded. -/
theorem State.coolantSet_err {inlet flow : Nat} {p : Pwr} (hp : p = { s.pwr with inlet := inlet, flow := flow, stale := false }) :
    if p.coolantCap = s.pwr.coolantCap ∧ p.lowCoolantCap = s.pwr.lowCoolantCap then (s.coolantSet inlet flow).err = s.err
    else Raised s (s.coolantSet inlet flow) 0x0D04 .c 0x7F 0 := by
  subst hp
  have hr : Raised s ((State.raise { s with pwr.inlet := inlet, pwr.flow := flow, pwr.stale := false } 0x0D04 .c 0x7F 0).raiseVec 9)
      0x0D04 .c 0x7F 0 := by
    intro hq
    rw [show ∀ x : State, (x.raiseVec 9).err = x.err from fun x => by simp]
    exact State.raise_raised (s := { s with pwr.inlet := inlet, pwr.flow := flow, pwr.stale := false }) hq
  unfold State.coolantSet
  dsimp only
  simp only [Bool.and_eq_true, decide_eq_true_eq]
  split
  case isTrue h => rw [if_pos ⟨h.1.symm, h.2.symm⟩]
  case isFalse h =>
    rw [if_neg fun hc => h ⟨hc.1.symm, hc.2.symm⟩]
    exact hr

/-- R448: a request in the mailbox of a length a message can have is not refused. -/
theorem State.refuseLength_of_not (h : s.mss.own = false ∨ 1 ≤ s.mss.h2mLen ∧ s.mss.h2mLen ≤ 4096) : s.refuseLength = s := by
  unfold State.refuseLength
  obtain hown | ⟨hpos, hle⟩ := h
  · simp [State.mssServes, hown]
  · rw [if_neg]
    simp only [Bool.and_eq_true, Bool.or_eq_true, decide_eq_true_eq, not_and, not_or]
    omega

theorem State.fillM2h_of_nil (h : s.mss.m2hQueue = []) : s.fillM2h = s := by
  simp [State.fillM2h, h]

theorem State.fillM2h_of_cons {r : Reply} {rest : List Reply} (h : s.mss.m2hQueue = r :: rest) (hf : s.mss.full = false) :
    s.fillM2h.mss.full = true ∧ s.fillM2h.mss.m2hQueue = rest ∧ SameOutside [.hub, .mss, .sent, .fresh] s s.fillM2h := by
  simp only [State.fillM2h, h, hf, Bool.false_eq_true, if_false]
  generalize hv : r.vendorBytes = bytes
  cases bytes with
  | none => exact ⟨by simp, by simp, fun p hp => by cases p <;> simp_all [StatePart.same]⟩
  | some bs => exact ⟨by simp, by simp, fun p hp => by cases p <;> simp_all [StatePart.same]⟩

/-! ### Reads -/

theorem State.hostRead_of_bad {off size : Nat} (h : accessBad off size = true) :
    s.hostRead off size = (0xFFFFFFFF, s.raise 0x0C01 .c 0 (regPayload off 0 size 0)) := by
  have h' := h
  simp only [accessBad, Bool.not_eq_true', Bool.or_eq_false_iff] at h'
  simp only [State.hostRead, State.barRead, h, h', if_true, Bool.false_eq_true, if_false]

theorem State.hostRead_sameOutside {off size : Nat} (h : accessBad off size = false) :
    SameOutside [.pwr] s (s.hostRead off size).2 := by
  simp only [State.hostRead, h, Bool.false_eq_true, if_false]
  split
  · exact sameOutside_pwr
  · exact .refl _ s

/-! ### The places of the registers -/

theorem isWide64_param (c : CoreId) (n : Fin 256) : isWide64 (0x2000000 + 0x40000 * c.val + 0x1000 + 8 * n.val) = true := by
  have hc := c.isLt
  have hn := n.isLt
  have hin : inArr ((0x2000000 + 0x40000 * c.val + 0x1000 + 8 * n.val - 0x2000000) % 0x40000) 0x1000 8 256 = true := by
    simp only [inArr, Bool.and_eq_true, decide_eq_true_eq]
    omega
  unfold isWide64
  rw [if_neg (by omega), if_neg (by omega), if_neg (by omega), if_neg (by omega), if_neg (by omega), if_neg (by omega),
    if_neg (by omega), if_neg (by omega), if_neg (by omega), if_neg (by omega), if_pos (by omega)]
  simp [isWide64Core, hin]

/-- The rest of the fabric's window, from its routing table on, holds no 64-bit register. -/
theorem isWide64_routes {off : Nat} (h : 0x80FFFC ≤ off) (h' : off < 0xC00000) : isWide64 off = false := by
  unfold isWide64
  rw [if_neg (by omega), if_neg (by omega), if_neg (by omega), if_neg (by omega), if_neg (by omega), if_neg (by omega),
    if_neg (by omega), if_pos h']
  simp only [inArr, Bool.or_eq_false_iff, Bool.and_eq_false_iff, decide_eq_false_iff_not, List.contains_eq_mem, List.mem_cons,
    List.not_mem_nil, or_false]
  omega

/-- A 4-byte write that meets no 64-bit register reaches a 32-bit one, or a hole (R12, R530). -/
theorem State.write4_of_narrow {off : Nat} {w : Word32} (ho : s.err.offline = false) (h : isWide64 off = false)
    (h' : isWide64 (off - 4) = false) : s.write4 off w = s.regWrite32 off w := by
  simp [State.write4, ho, h, h']

theorem execRegisterWrite_four {off : Word32} {v : Word64} (h : s.barOpen = true) (hlt : off.toNat < 0x4000000)
    (hal : off.toNat % 4 = 0) : exec (.registerWrite off v 4) s = .next (s.write4 off.toNat (v.setWidth 32)) := by
  simp only [State.barOpen, Bool.and_eq_true, Bool.not_eq_true'] at h
  obtain ⟨⟨hs, hl⟩, -⟩ := h
  simp [exec, execRegisterWrite, hs, hl, hal, hlt]

theorem execRegisterWrite_eight {off : Word32} {v : Word64} (h : s.barOpen = true) (hlt : off.toNat < 0x4000000)
    (hal : off.toNat % 8 = 0) (hw : isWide64 off.toNat = true) :
    exec (.registerWrite off v 8) s = .next (s.regWrite64 off.toNat (.all v)) := by
  simp only [State.barOpen, Bool.and_eq_true, Bool.not_eq_true'] at h
  obtain ⟨⟨hs, hl⟩, ho⟩ := h
  simp [exec, execRegisterWrite, hs, hl, hal, hw, ho, hlt]

theorem State.windowCore_param (c : CoreId) {off : Nat} (h : 0x2000000 + 0x40000 * c.val ≤ off)
    (h' : off < 0x2000000 + 0x40000 * (c.val + 1)) : s.windowCore off = if s.coreWindow c.val then some c else none := by
  have hc : (off - 0x2000000) / 0x40000 = c.val := by omega
  have hc' := c.isLt
  unfold State.windowCore
  simp only [hc, hc', dite_true]
  simp [show 0x2000000 ≤ off by omega]

/-! ### One register of each kind -/

/-- R11: a parameter register takes the 64 bits written. -/
theorem State.writeCore64_param (c : CoreId) (n : Fin 256) (v : Word64) :
    s.writeCore64 c (0x1000 + 8 * n.val) (.all v) =
      s.modCore c fun k => { k with q.params := sset 0 k.q.params n.val v } := by
  have hn := n.isLt
  have hin : inArr (0x1000 + 8 * n.val) 0x1000 8 256 = true := by
    simp only [inArr, Bool.and_eq_true, decide_eq_true_eq]
    omega
  simp [State.writeCore64, hin, merged, mergeWrite]

theorem State.regWrite64_param {c : CoreId} {n : Fin 256} {off : Nat} (h : off = 0x2000000 + 0x40000 * c.val + 0x1000 + 8 * n.val)
    (v : Word64) : s.regWrite64 off (.all v) =
      if s.coreWindow c.val then (s.wakeCore c).modCore c fun k => { k with q.params := sset 0 k.q.params n.val v } else s := by
  have hc := c.isLt
  have hn := n.isLt
  have hmod : (off - 0x2000000) % 0x40000 = 0x1000 + 8 * n.val := by omega
  unfold State.regWrite64
  rw [if_neg (by omega), if_neg (by omega), if_neg (by omega), if_neg (by omega), if_neg (by omega), if_neg (by omega),
    if_neg (by omega), if_neg (by omega), if_neg (by omega), if_neg (by omega), State.windowCore_param c (by omega) (by omega), hmod]
  cases s.coreWindow c.val with
  | false => rfl
  | true => exact State.writeCore64_param c n v

/-- What a write of a parameter register does. -/
theorem param_written (hs : s.has64) {c : CoreId} {n : Nat} {v : Word64}
    (ht : t = (s.wakeCore c).modCore c fun k => { k with q.params := sset 0 k.q.params n v }) :
    (∀ m, (t.core c).param m = if m = n then v else (s.core c).param m) ∧
      (t.core c).q.tq = (s.core c).q.tq ∧ (t.core c).q.flags = (s.core c).q.flags ∧ OtherCores c s t ∧
      SameOutside [.cores, .pwr] s t := by
  have hcore : ∀ x, t.core x = if x = c then { s.core c with q.params := sset 0 (s.core c).q.params n v } else s.core x :=
    fun x => ht ▸ State.core_modCore (s := s.wakeCore c) hs c x _
  have hself := (hcore c).trans (if_pos rfl)
  refine ⟨fun m => ?_, ?_, ?_, fun x hx => ?_, ?_⟩
  · simp [hself, Core.param]
  · rw [hself]
  · rw [hself]
  · exact (hcore x).trans (if_neg hx)
  · rw [ht]
    exact (sameOutside_pwr.mono (by simp) : SameOutside _ s (s.wakeCore c)).trans (sameOutside_cores.mono (by simp))

theorem State.regWrite32_fab {off : Nat} {w : Word32} (h : 0x800000 ≤ off) (h' : off < 0xC00000) :
    s.regWrite32 off w = s.writeFab (off - 0x800000) w := by
  unfold State.regWrite32
  rw [if_neg (by omega), if_neg (by omega), if_neg (by omega), if_neg (by omega), if_neg (by omega), if_neg (by omega),
    if_neg (by omega), if_pos h']

/-- R529: the registers of the fabric before its routing table end below 0x10000. -/
theorem State.writeFab_route (n : Fin 16384) (w : Word32) :
    s.writeFab (0x10000 + 4 * n.val) w = { s with fab.routes := sset 0 s.fab.routes n.val (w &&& 0xFFF) } := by
  have hn := n.isLt
  have hg : s.ident.grade.engines ≤ 8 := by cases s.ident.grade <;> decide
  have hsplit : inArr (0x10000 + 4 * n.val) 0x100 4 s.ident.grade.engines = false := by
    simp only [inArr, Bool.and_eq_false_iff, decide_eq_false_iff_not]
    omega
  have hport : inArr (0x10000 + 4 * n.val) 0x200 8 16 = false := by
    simp only [inArr, Bool.and_eq_false_iff, decide_eq_false_iff_not]
    omega
  have hroute : inArr (0x10000 + 4 * n.val) 0x10000 4 16384 = true := by
    simp only [inArr, Bool.and_eq_true, decide_eq_true_eq]
    omega
  have hdiv : (0x10000 + 4 * n.val - 0x10000) / 4 = n.val := by omega
  unfold State.writeFab
  dsimp only
  rw [if_neg (by omega), if_neg (by omega), if_neg (by omega), if_neg (by omega), if_neg (by omega), if_neg (by omega),
    if_neg (by omega), hsplit, hport, hroute, hdiv]
  rfl

theorem State.write4_route {n : Fin 16384} {off : Nat} (ho : s.err.offline = false) (h : off = 0x810000 + 4 * n.val) (w : Word32) :
    s.write4 off w = { s with fab.routes := sset 0 s.fab.routes n.val (w &&& 0xFFF) } := by
  have hn := n.isLt
  rw [State.write4_of_narrow ho (isWide64_routes (by omega) (by omega)) (isWide64_routes (by omega) (by omega)),
    State.regWrite32_fab (by omega) (by omega), show off - 0x800000 = 0x10000 + 4 * n.val by omega, State.writeFab_route]

/-- R291: the live field CLE_DEADLINE_US. -/
theorem State.write4_deadline (ho : s.err.offline = false) (w : Word32) :
    s.write4 0xC00008 w = { s with cle.deadlineUs := w } :=
  State.write4_of_narrow ho (by decide) (by decide)

/-- R280: the field FAB_PKEY is locked while the fabric runs. -/
theorem State.write4_pkey (ho : s.err.offline = false) (w : Word32) :
    s.write4 0x800008 w = s.locked32 s.fabRunning 0x800008 w fun t => { t with fab.pkey := w.toNat % 65536 } :=
  State.write4_of_narrow ho (by decide) (by decide)

theorem State.write4_pkey_of_stopped (ho : s.err.offline = false) (hrun : s.fabRunning = false) (v : Word64) :
    s.write4 0x800008 (v.setWidth 32) = { s with fab.pkey := v.toNat % 65536 } := by
  have hmod : (v.setWidth 32).toNat % 65536 = v.toNat % 65536 := by
    rw [BitVec.toNat_setWidth]
    omega
  rw [State.write4_pkey ho, State.locked32, hrun, if_neg Bool.false_ne_true, hmod]

theorem State.write4_pkey_of_running (ho : s.err.offline = false) (hrun : s.fabRunning = true) (v : Word64) :
    s.write4 0x800008 (v.setWidth 32) = s.cfgIgnored 0x800008 (v.toNat % 2 ^ 32) 4 := by
  rw [State.write4_pkey ho, State.locked32, if_pos hrun, BitVec.toNat_setWidth]

/-! ### The clauses of the obligation -/

section clauses
variable (w : Word32) (s : State)

theorem barWrites_of_closed (h : s.barOpen = false) :
    ∀ i ∈ [Instr.mailboxSend w, .m2hFullClear w, .pkgLimitWrite w, .coolantReport w], exec i s = .next s := by
  intro i hi
  simp only [List.mem_cons, List.not_mem_nil, or_false] at hi
  obtain rfl | rfl | rfl | rfl := hi
  · exact State.onBar_of_closed h fun t => t.h2mCtlWrite w
  · exact State.onBar_of_closed h fun t => t.m2hCtlWrite w
  · exact State.onBar_of_closed h fun t => t.pkgLimitWrite w
  · exact State.onBar_of_closed h fun t => t.coolantWrite w

theorem mailboxSend_of_own (h : s.barOpen = true) (hown : s.mss.own = true) :
    exec (.mailboxSend w) s = .next (s.cfgIgnored 0x500010 w.toNat 4) :=
  (State.onBar_of_open h fun t => t.h2mCtlWrite w).trans (by simp [State.h2mCtlWrite, hown])

theorem mailboxSend_of_free (h : s.barOpen = true) (hown : s.mss.own = false)
    (hlen : w.getLsbD 31 = false ∨ 1 ≤ fld w.toNat 0 13 ∧ fld w.toNat 0 13 ≤ 4096) :
    exec (.mailboxSend w) s = .next { s with mss.h2mLen := fld w.toNat 0 13, mss.own := w.getLsbD 31 } := by
  refine (State.onBar_of_open h fun t => t.h2mCtlWrite w).trans ?_
  simp only [State.h2mCtlWrite, hown, Bool.false_eq_true, if_false]
  exact congrArg _ (State.refuseLength_of_not (s := { s with mss.h2mLen := fld w.toNat 0 13, mss.own := w.getLsbD 31 }) hlen)

theorem m2hFullClear_of_not (h : s.barOpen = true) (hw : w.getLsbD 31 = false ∨ s.mss.full = false) :
    exec (.m2hFullClear w) s = .next s := by
  refine (State.onBar_of_open h fun t => t.m2hCtlWrite w).trans (congrArg _ (if_neg ?_))
  obtain hw | hf := hw
  · simp only [hw, Bool.false_and, Bool.false_eq_true, not_false_iff]
  · simp only [hf, Bool.and_false, Bool.false_eq_true, not_false_iff]

theorem m2hFullClear_of_full (h : s.barOpen = true) (hw : w.getLsbD 31 = true) (hf : s.mss.full = true) :
    exec (.m2hFullClear w) s = .next (if s.mssAwake then State.fillM2h { s with mss.full := false } else { s with mss.full := false }) := by
  refine (State.onBar_of_open h fun t => t.m2hCtlWrite w).trans (congrArg _ (if_pos ?_))
  rw [hw, hf]
  rfl

theorem registerWrite_of_off (off : Word32) (v : Word64) (size : BitVec 8)
    (h : s.pwr.stagesOn = false ∨ s.hub.linkUp = false ∨ 0x4000000 ≤ off.toNat) : exec (.registerWrite off v size) s = .next s := by
  obtain h | h | h := h
  · simp [exec, execRegisterWrite, h]
  · simp [exec, execRegisterWrite, h]
  · simp [exec, execRegisterWrite, h]

theorem registerWrite_of_size (off : Word32) (v : Word64) (size : BitVec 8) (h : s.barOpen = true) (hlt : off.toNat < 0x4000000)
    (h4 : ¬ (size = 4 ∧ off.toNat % 4 = 0)) (h8 : ¬ (size = 8 ∧ off.toNat % 8 = 0)) :
    exec (.registerWrite off v size) s = .next (s.raise 0x0C01 .c 0 (regPayload off.toNat v.toNat size.toNat 0)) := by
  simp only [State.barOpen, Bool.and_eq_true, Bool.not_eq_true'] at h
  obtain ⟨⟨hs, hl⟩, ho⟩ := h
  have hn : ¬ 0x4000000 ≤ off.toNat := Nat.not_le.2 hlt
  simp only [exec, execRegisterWrite, hs, hl, ho, hn, Bool.not_true, Bool.or_self, decide_false, Bool.false_eq_true,
    if_false, Bool.and_eq_true, decide_eq_true_eq, h4, h8]

theorem registerWrite_of_offline (off : Word32) (v : Word64) (h : s.err.offline = true) (hal : off.toNat % 4 = 0)
    (h1 : off.toNat ≠ 0x200) (h2 : off.toNat ≠ 0x200008) (h3 : off.toNat ≠ 0x200020) :
    exec (.registerWrite off v 4) s = .next s := by
  have ho : openOffline off.toNat = false := by simp [openOffline, h1, h2, h3]
  simp [exec, execRegisterWrite, State.write4, h, ho, hal]

end clauses

/-- Settles O49: each clause by the equation of its write. -/
theorem registerWritesReachTheirRegisters : Obligations.RegisterWritesReachTheirRegisters := by
  unfold Obligations.RegisterWritesReachTheirRegisters
  intro w s hs
  refine ⟨barWrites_of_closed w s, ⟨_, rfl, rfl, sameOutside_pwr⟩, fun hb => ⟨?_, ?_, fun hown => ?_, fun hown hlen => ?_,
    m2hFullClear_of_not w s hb, fun hw hf => ⟨fun hq => ?_, fun r rest hq ha => ?_⟩⟩, fun off size => ⟨fun hbad => ?_,
    State.hostRead_sameOutside⟩, fun off v size => ⟨registerWrite_of_off s off v size, fun hb hlt h4 h8 => ?_,
    registerWrite_of_offline s off v⟩, fun hb v => ?_⟩
  case refine_1 => exact ⟨_, State.onBar_of_open hb fun t => t.pkgLimitWrite w, rfl, sameOutside_pwr⟩
  case refine_2 =>
    exact ⟨_, State.onBar_of_open hb fun t => t.coolantWrite w, State.coolantSet_pwr, State.coolantSet_err State.coolantSet_pwr,
      State.coolantSet_sameOutside⟩
  case refine_3 =>
    exact ⟨_, mailboxSend_of_own w s hb hown, State.cfgIgnored_top, State.cfgIgnored_raised, State.cfgIgnored_sameOutside⟩
  case refine_4 => exact ⟨_, mailboxSend_of_free w s hb hown hlen, rfl, sameOutside_mss⟩
  case refine_5 =>
    refine ⟨_, (m2hFullClear_of_full w s hb hw hf).trans (congrArg _ ?_), rfl, sameOutside_mss⟩
    obtain hq | ha := hq
    · rw [State.fillM2h_of_nil (s := { s with mss.full := false }) hq, ite_self]
    · rw [ha, if_neg Bool.false_ne_true]
  case refine_6 =>
    obtain ⟨hfull, hrest, hframe⟩ := State.fillM2h_of_cons (s := { s with mss.full := false }) hq rfl
    refine ⟨_, (m2hFullClear_of_full w s hb hw hf).trans (congrArg _ (if_pos ha)), hfull, hrest, ?_⟩
    exact (sameOutside_mss.mono (by simp)).trans hframe
  case refine_7 =>
    rw [State.hostRead_of_bad hbad]
    refine ⟨rfl, ?_, State.raise_sameOutside⟩
    have hp : regPayload off 0 size 0 = off + size <<< 96 := by rw [regPayload_zero, Nat.zero_shiftLeft, Nat.add_zero]
    exact hp ▸ State.raise_raised
  case refine_8 =>
    exact ⟨_, registerWrite_of_size s off v size hb hlt h4 h8, regPayload_zero .. ▸ State.raise_raised, State.raise_sameOutside⟩
  have ho : s.err.offline = false := by
    simp only [State.barOpen, Bool.and_eq_true, Bool.not_eq_true'] at hb
    exact hb.2
  refine ⟨fun c n off hoff => ?_, fun n off hoff => ?_, ?_, fun hrun => ?_, fun hrun => ?_⟩
  · have hc := c.isLt
    have hn := n.isLt
    have hx : exec (.registerWrite off v 8) s = .next (s.regWrite64 off.toNat (.all v)) :=
      execRegisterWrite_eight hb (by omega) (by omega) (hoff ▸ isWide64_param c n)
    rw [State.regWrite64_param hoff] at hx
    refine ⟨fun hcw => hx.trans (congrArg _ (if_neg (by simp [hcw]))), fun hcw => ⟨_, hx.trans (congrArg _ (if_pos hcw)), ?_⟩⟩
    exact param_written hs rfl
  · have hn := n.isLt
    refine ⟨_, (execRegisterWrite_four hb (by omega) (by omega)).trans (congrArg _ (State.write4_route ho hoff _)), fun m => ?_, rfl,
      sameOutside_fab⟩
    exact sget_sset ..
  · exact ⟨_, (execRegisterWrite_four hb (by decide) (by decide)).trans (congrArg _ (State.write4_deadline ho _)), rfl,
      sameOutside_cle⟩
  · exact ⟨_, (execRegisterWrite_four hb (by decide) (by decide)).trans (congrArg _ (State.write4_pkey_of_stopped ho hrun v)), rfl,
      sameOutside_fab⟩
  · exact ⟨_, (execRegisterWrite_four hb (by decide) (by decide)).trans (congrArg _ (State.write4_pkey_of_running ho hrun v)),
      State.cfgIgnored_top, State.cfgIgnored_raised, State.cfgIgnored_sameOutside⟩

end Sys2Proof.Machine
end

section
/-! SUPPORT. A dispatched word: the core it leaves behind, what it frames, and that no check of it failed. -/

namespace Sys2Proof.Machine
variable {s t u : State} {c : CoreId} {k k' : Core} {d : Disp}

/-! ### Codes -/

theorem lowest_eq_none {l : List Nat} : lowest l = none ↔ l = [] := by
  cases l with
  | nil => simp [lowest]
  | cons a l =>
    simp only [lowest, reduceCtorEq, iff_false]
    split <;> exact Option.some_ne_none _

theorem code?_eq_nil {b : Bool} {n : Nat} : code? b n = [] ↔ b = false := by
  cases b <;> simp [code?]

/-- What `Dispatches` says of the word's common checks and of the opcode's own. -/
theorem Dispatches.checks {lo imm : Word64} {opc : Nat} {codes stall : Core → Disp → List Nat}
    (h : Dispatches s c lo imm opc codes stall d) :
    d.lo = lo.toNat ∧ d.imm = imm.toNat ∧ codes (s.core c) d = [] ∧ (popAll (s.core c).q.tq d.lo).isSome = true ∧
      ∃ o, opSpec (wOpc d.lo) = some o ∧ o.opc = opc ∧ fieldBad o d.lo d.imm d.eff = false := by
  obtain ⟨hready, -, o, ho, hopc, hcodes, -⟩ := h
  obtain ⟨hlo, himm, -⟩ := Core.ready_lo hready
  simp only [lowest_eq_none, commonCodes, List.append_eq_nil_iff, code?_eq_nil, Option.isNone_eq_false_iff] at hcodes
  obtain ⟨⟨⟨⟨⟨⟨⟨-, hfield⟩, hpop⟩, -⟩, -⟩, -⟩, -⟩, hown⟩ := hcodes
  exact ⟨hlo, himm, hown, hpop, o, ho, hopc, hfield⟩

/-- R66: a queue an opcode must use is enabled in a word that passes the checks. -/
theorem wQen_of_fieldBad {o : OpSpec} {lo imm eff i : Nat} (h : fieldBad o lo imm eff = false) (hp : o.pidx = false) (hi : i < 5)
    (hu : o.qs.getD i 0 = 1) : wQen lo i = true := by
  simp only [fieldBad, hp, Bool.or_eq_false_iff, Bool.false_eq_true, if_false] at h
  obtain ⟨⟨-, hqs⟩, -⟩ := h
  have := List.any_eq_false.1 hqs i (List.mem_range.2 hi)
  simp only [hu, Bool.not_eq_true, Bool.or_eq_false_iff] at this
  obtain ⟨⟨-, hen⟩, -⟩ := this
  simpa using hen

/-! ### CSIG on a core -/

/-- R63: a core with 1 added to the core flag that CSIG of the word names. -/
def Core.csig (k : Core) (lo : Nat) : Core :=
  if wCsig lo = true ∧ wCflagHub lo = false then { k with q.flags := sset 0 k.q.flags (wCflagIdx lo) (k.flag (wCflagIdx lo) + 1) }
  else k

theorem Core.csig_flag (k : Core) (lo n : Nat) :
    (k.csig lo).flag n = k.flag n + (if wCsig lo && !wCflagHub lo && wCflagIdx lo = n then 1 else 0) := by
  unfold Core.csig
  by_cases h : wCsig lo = true ∧ wCflagHub lo = false
  · by_cases hn : n = wCflagIdx lo
    · simp [Core.flag, h, hn]
    · simp [Core.flag, h, hn, Ne.symm hn]
  · rw [if_neg h, if_neg (by simpa [Bool.and_eq_true, and_assoc] using fun a b _ => h ⟨a, b⟩)]
    simp

section csig
variable (k : Core) (lo : Nat)

theorem Core.csig_q : (k.csig lo).q = { k.q with flags := (k.csig lo).q.flags } := by
  unfold Core.csig
  split <;> rfl

@[simp] theorem Core.csig_m : (k.csig lo).m = k.m := by
  unfold Core.csig
  split <;> rfl

@[simp] theorem Core.csig_v : (k.csig lo).v = k.v := by
  unfold Core.csig
  split <;> rfl

@[simp] theorem Core.csig_t : (k.csig lo).t = k.t := by
  unfold Core.csig
  split <;> rfl

end csig

theorem csigFire_setCore (hs : s.has64) (lo : Nat) (x : CoreId) :
    (csigFire (s.setCore c k) c lo).core x = if x = c then k.csig lo else s.core x := by
  rw [csigFire_core (State.setCore_has64 hs c k), State.core_setCore hs, State.core_setCore hs, if_pos rfl]
  unfold Core.csig
  by_cases hx : x = c
  · simp only [hx, true_and, if_true]
  · simp only [hx, false_and, if_false]

/-! ### A core put in its place -/

/-- `t` is `s` with core `c` become `k`, but for the performance counters, and with what raising flags and counting does to the
hub. -/
structure Placed (c : CoreId) (k : Core) (s t : State) : Prop where
  has64 : t.has64
  core : SameButPmu k (t.core c)
  others : OtherCores c s t
  frame : SameOutside [.cores, .hub, .pmu, .sent] s t

theorem csigFire_sameOutside {lo : Nat} : SameOutside [.cores, .hub, .pmu, .sent] s (csigFire s c lo) := fun p hp => by
  cases p <;> simp_all [StatePart.same]

theorem State.countDispatch_sameOutside {b : Nat} : SameOutside [.cores, .hub, .pmu, .sent] s (s.countDispatch c b) := fun p hp => by
  cases p <;> simp_all [StatePart.same]

theorem State.setCore_sameOutside : SameOutside [.cores] s (s.setCore c k) := sameOutside_cores

namespace Placed

theorem setCore (hs : s.has64) : Placed c k s (s.setCore c k) where
  has64 := State.setCore_has64 hs c k
  core := by rw [State.core_setCore hs, if_pos rfl]; exact ⟨rfl, rfl, rfl, rfl⟩
  others x hx := by rw [State.core_setCore hs, if_neg hx]
  frame := State.setCore_sameOutside.mono (by simp)

theorem csigFire (hs : s.has64) (lo : Nat) : Placed c (k.csig lo) s (csigFire (s.setCore c k) c lo) where
  has64 := csigFire_has64 (State.setCore_has64 hs c k) c lo
  core := by rw [csigFire_setCore hs, if_pos rfl]; exact ⟨rfl, rfl, rfl, rfl⟩
  others x hx := by rw [csigFire_setCore hs, if_neg hx]
  frame := (State.setCore_sameOutside.mono (by simp)).trans csigFire_sameOutside

theorem trans (h : Placed c k s t) (h' : Placed c k' t u) : Placed c k' s u where
  has64 := h'.has64
  core := h'.core
  others x hx := (h'.others x hx).trans (h.others x hx)
  frame := h.frame.trans h'.frame

theorem countDispatch (h : Placed c k s t) (b : Nat) : Placed c k s (t.countDispatch c b) := by
  obtain ⟨hl, hother, hq, hm, hv, htm⟩ := State.countDispatch_butPmu h.has64 c b
  obtain ⟨hq', hm', hv', ht'⟩ := h.core
  exact ⟨hl, ⟨hq.trans hq', hm.trans hm', hv.trans hv', htm.trans ht'⟩, fun x hx => (hother x hx).trans (h.others x hx),
    h.frame.trans State.countDispatch_sameOutside⟩

theorem q_eq (h : Placed c k s t) : (t.core c).q = k.q := h.core.1
theorem m_eq (h : Placed c k s t) : (t.core c).m = k.m := h.core.2.1
theorem v_eq (h : Placed c k s t) : (t.core c).v = k.v := h.core.2.2.1
theorem t_eq (h : Placed c k s t) : (t.core c).t = k.t := h.core.2.2.2

theorem flag (h : Placed c k s t) (n : Nat) : (t.core c).flag n = k.flag n := by
  rw [Core.flag, h.q_eq, Core.flag]

end Placed

/-! ### Past a command -/

/-- A core keeps its place in the list, its flags and its engines. -/
structure KeepsPlace (k k' : Core) : Prop where
  replay : k'.q.replay = k.q.replay
  cmdIndex : k'.q.cmdIndex = k.q.cmdIndex
  flags : k'.q.flags = k.q.flags
  m : k'.m = k.m
  v : k'.v = k.v
  t : k'.t = k.t

/-- A core has gone on behind a command (R60): it dispatches, one command on in its list, its flags and engines as they were. -/
structure Past (k k' : Core) : Prop where
  seq : k'.q.seq = .dispatching
  cmdIndex : k.q.replay = none → k'.q.cmdIndex = k.q.cmdIndex + 1
  flags : k'.q.flags = k.q.flags
  m : k'.m = k.m
  v : k'.v = k.v
  t : k'.t = k.t

theorem entered_keepsPlace (k : Core) : KeepsPlace k (entered k) := by
  obtain ⟨hf, -, -, hr, hi, -, -, -, hm, hv, ht, -⟩ := entered_flags k
  exact ⟨hr, hi, hf, hm, hv, ht⟩

theorem KeepsPlace.trans {k'' : Core} (h : KeepsPlace k k') (h' : KeepsPlace k' k'') : KeepsPlace k k'' :=
  ⟨h'.replay.trans h.replay, h'.cmdIndex.trans h.cmdIndex, h'.flags.trans h.flags, h'.m.trans h.m, h'.v.trans h.v, h'.t.trans h.t⟩

theorem KeepsPlace.advance (h : KeepsPlace k k') : Past k (advance k') := by
  obtain ⟨hf, -, -, hs, hm, hv, ht, -, hi, -⟩ := advance_same k'
  exact ⟨hs, fun hr => by rw [hi (h.replay.trans hr), h.cmdIndex], hf.trans h.flags, hm.trans h.m, hv.trans h.v, ht.trans h.t⟩

theorem KeepsPlace.dispatched (h : KeepsPlace k k') : Past k (dispatched k' d) := by
  obtain ⟨hf, -, -, hs, hm, hv, ht, -, hi, -⟩ := dispatched_same k' d
  exact ⟨hs, fun hr => by rw [hi (h.replay.trans hr), h.cmdIndex], hf.trans h.flags, hm.trans h.m, hv.trans h.v, ht.trans h.t⟩

/-- R60, R63: a command whose core has gone on behind it, with its CSIG fired, is done. -/
theorem Placed.seqDone {lo : Word64} (h : Placed c (k.csig lo.toNat) s t) (hk : Past (s.core c) k) : SeqDone c lo s t := by
  refine ⟨?_, fun hr => ?_, fun n => ?_, ?_, ?_, ?_, h.others⟩
  · rw [h.q_eq, Core.csig_q]
    exact hk.seq
  · rw [h.q_eq, Core.csig_q]
    exact hk.cmdIndex hr
  · rw [h.flag, Core.csig_flag, Core.flag, hk.flags, Core.flag]
  · rw [h.m_eq, Core.csig_m, hk.m]
  · rw [h.v_eq, Core.csig_v, hk.v]
  · rw [h.t_eq, Core.csig_t, hk.t]

section dispatch
variable {lo imm : Word64} {opc : Nat} {codes stall : Core → Disp → List Nat} {run : State → Core → Disp → State}

/-- A word that is dispatched, when its effect is to put a core in its place. -/
theorem dispatchWith_placed (hs : s.has64) (h : Dispatches s c lo imm opc codes stall d)
    (hrun : (s.setCore c (entered (s.core c))).has64 →
      Placed c k (s.setCore c (entered (s.core c))) (run (s.setCore c (entered (s.core c))) (entered (s.core c)) d)) :
    Placed c k s (dispatchWith s c lo imm opc codes stall run) := by
  obtain ⟨b, hb⟩ := dispatchWith_dispatches h run
  rw [hb]
  exact (Placed.trans (Placed.setCore hs) (hrun (State.setCore_has64 hs _ _))).countDispatch b

/-- R63: a sequencer command that is done as it is dispatched. -/
theorem seqRun_placed {f : Core → Disp → Core} (hs : s.has64) (h : Dispatches s c lo imm opc codes stall d) :
    Placed c ((dispatched (f (entered (s.core c)) d) d).csig lo.toNat) s (dispatchWith s c lo imm opc codes stall (seqRun c f)) :=
  h.checks.1 ▸ dispatchWith_placed hs h fun hu => Placed.csigFire hu d.lo

end dispatch

end Sys2Proof.Machine
end

section
/-! SUPPORT. The sequencer's commands that are done as they are dispatched (03). -/

namespace Sys2Proof.Machine
variable {s t : State} {c : CoreId} {k : Core} {d : Disp}

/-! ### Tile queues and parameters of a core -/

section csig
variable (k : Core) (lo : Nat)

@[simp] theorem Core.csig_tq : (k.csig lo).q.tq = k.q.tq := by rw [Core.csig_q]
@[simp] theorem Core.csig_params : (k.csig lo).q.params = k.q.params := by rw [Core.csig_q]
@[simp] theorem Core.csig_slots : (k.csig lo).q.slots = k.q.slots := by rw [Core.csig_q]
@[simp] theorem Core.csig_openRec : (k.csig lo).q.openRec = k.q.openRec := by rw [Core.csig_q]
@[simp] theorem Core.csig_replay : (k.csig lo).q.replay = k.q.replay := by rw [Core.csig_q]
@[simp] theorem Core.csig_seq : (k.csig lo).q.seq = k.q.seq := by rw [Core.csig_q]
@[simp] theorem Core.csig_fence : (k.csig lo).q.fence = k.q.fence := by rw [Core.csig_q]
@[simp] theorem Core.csig_call : (k.csig lo).q.call = k.q.call := by rw [Core.csig_q]

end csig

@[simp] theorem dispatched_tq : (dispatched k d).q.tq = k.q.tq := (dispatched_same k d).2.2.1
@[simp] theorem dispatched_params : (dispatched k d).q.params = k.q.params := (dispatched_same k d).2.1
@[simp] theorem advance_tq : (advance k).q.tq = k.q.tq := (advance_same k).2.2.1
@[simp] theorem advance_params : (advance k).q.params = k.q.params := (advance_same k).2.1
@[simp] theorem entered_tq : (entered k).q.tq = k.q.tq := (entered_flags k).2.2.1
@[simp] theorem entered_params : (entered k).q.params = k.q.params := (entered_flags k).2.1
@[simp] theorem entered_slots : (entered k).q.slots = k.q.slots := (entered_flags k).2.2.2.2.2.1

theorem sget_pushShadow (tq : SMap (List QEntry)) (q n : Nat) (e : QEntry) :
    sget [] (pushShadow tq q e) n = sget [] tq n ++ (if n = q then [e] else []) := by
  rw [pushShadow, sget_sset]
  split
  case isTrue h => rw [h]
  case isFalse => rw [List.append_nil]

theorem popShadow_of_cons {tq : SMap (List QEntry)} {n : Nat} {e : QEntry} {rest : List QEntry} (h : sget [] tq n = e :: rest) :
    popShadow tq n = some (e, sset [] tq n rest) := by
  rw [popShadow, h]

theorem Core.seqPop_keepsPlace (k : Core) (n : Nat) (e : QEntry) : KeepsPlace k (k.seqPop n e) := by
  unfold Core.seqPop
  split <;> exact ⟨rfl, rfl, rfl, rfl, rfl, rfl⟩

@[simp] theorem Core.seqPop_params (k : Core) (n : Nat) (e : QEntry) : (k.seqPop n e).q.params = k.q.params := by
  unfold Core.seqPop
  split <;> rfl

/-- R69: a word that pops a handle from QS0 finds one there. -/
theorem shadow_qs0_of_popAll {tq : SMap (List QEntry)} {lo : Nat} (h : (popAll tq lo).isSome = true) (hen : wQen lo 0 = true) :
    ∃ e rest, sget [] tq (wQs0 lo) = e :: rest := by
  cases hq : sget [] tq (wQs0 lo) with
  | cons e rest => exact ⟨e, rest, rfl⟩
  | nil => simp [popAll, hen, popShadow, hq] at h

/-- R66: the table of opcodes gives each opcode its own row. -/
theorem opSpec_opc {n : Nat} {o : OpSpec} (h : opSpec n = some o) : o.opc = n := by
  unfold opSpec at h
  split at h <;> cases h <;> rfl

section seqRun
variable {lo imm : Word64} {opc : Nat} {codes stall : Core → Disp → List Nat} {f : Core → Disp → Core}

/-- A sequencer command that leaves its core's place, flags and engines alone is done, and `f` has been applied to the core. -/
theorem seqRun_done (hs : s.has64) (h : Dispatches s c lo imm opc codes stall d)
    (hf : ∀ k, KeepsPlace k (f k d)) :
    ∃ t, dispatchWith s c lo imm opc codes stall (seqRun c f) = t ∧ SeqDone c lo s t ∧
      (t.core c).q.tq = (f (entered (s.core c)) d).q.tq ∧ (t.core c).q.params = (f (entered (s.core c)) d).q.params ∧
      SameOutside [.cores, .hub, .pmu, .sent] s t := by
  have hp := seqRun_placed (f := f) hs h
  refine ⟨_, rfl, hp.seqDone ((entered_keepsPlace _).trans (hf _)).dispatched, ?_, ?_, hp.frame⟩
  · rw [hp.q_eq, Core.csig_tq, dispatched_tq]
  · rw [hp.q_eq, Core.csig_params, dispatched_params]

/-- R66, R69: a word of an opcode that pops QS0 finds a handle there. -/
theorem Dispatches.qs0_shadow {o : OpSpec} (h : Dispatches s c lo imm opc codes stall d) (hw : opSpec opc = some o)
    (hp : o.pidx = false) (hu : o.qs.getD 0 0 = 1) :
    ∃ e rest, (s.core c).shadow (wQs0 lo.toNat) = e :: rest := by
  obtain ⟨hlo, -, -, hpop, o', ho', hopc, hfield⟩ := h.checks
  obtain rfl : o' = o := by
    rw [← hopc, opSpec_opc ho', ho'] at hw
    exact Option.some.inj hw
  exact hlo ▸ shadow_qs0_of_popAll hpop (wQen_of_fieldBad hfield hp (by decide) hu)

end seqRun

theorem Core.shadow_of_tq {k k' : Core} (h : k'.q.tq = k.q.tq) (n : Nat) : k'.shadow n = k.shadow n := by
  rw [Core.shadow, h, Core.shadow]

theorem Core.param_of_params {k k' : Core} (h : k'.q.params = k.q.params) (n : Nat) : k'.param n = k.param n := by
  rw [Core.param, h, Core.param]

theorem Core.param_setParam (k : Core) (m n : Nat) (x : Word64) :
    (k.setParam m x).param n = if n = m then x else k.param n :=
  sget_sset ..

/-- What DROP does to its core. -/
def dropPop (k : Core) (d : Disp) : Core :=
  match popShadow k.q.tq (wQs0 d.lo) with
  | none => k
  | some (e, tq) => { k.seqPop (wQs0 d.lo) e with q.tq := tq }

/-- What DUP does to its core. -/
def dupPop (k : Core) (d : Disp) : Core :=
  match popShadow k.q.tq (wQs0 d.lo) with
  | none => k
  | some (e, tq) =>
    { k.seqPop (wQs0 d.lo) e with q.tq := pushShadow (pushShadow tq (wQo d.lo) ⟨e.handle, none⟩) (wQr d.lo) ⟨e.handle, none⟩ }

section pop
variable {e : QEntry} {rest : List QEntry}

theorem dropPop_of_cons (h : k.shadow (wQs0 d.lo) = e :: rest) :
    dropPop k d = { k.seqPop (wQs0 d.lo) e with q.tq := sset [] k.q.tq (wQs0 d.lo) rest } := by
  rw [dropPop, popShadow_of_cons h]

theorem dupPop_of_cons (h : k.shadow (wQs0 d.lo) = e :: rest) :
    dupPop k d = { k.seqPop (wQs0 d.lo) e with
      q.tq := pushShadow (pushShadow (sset [] k.q.tq (wQs0 d.lo) rest) (wQo d.lo) ⟨e.handle, none⟩) (wQr d.lo) ⟨e.handle, none⟩ } := by
  rw [dupPop, popShadow_of_cons h]

end pop

theorem dropPop_keepsPlace (k : Core) (d : Disp) : KeepsPlace k (dropPop k d) := by
  unfold dropPop
  split
  · exact ⟨rfl, rfl, rfl, rfl, rfl, rfl⟩
  · exact (Core.seqPop_keepsPlace k _ _).trans ⟨rfl, rfl, rfl, rfl, rfl, rfl⟩

theorem dupPop_keepsPlace (k : Core) (d : Disp) : KeepsPlace k (dupPop k d) := by
  unfold dupPop
  split
  · exact ⟨rfl, rfl, rfl, rfl, rfl, rfl⟩
  · exact (Core.seqPop_keepsPlace k _ _).trans ⟨rfl, rfl, rfl, rfl, rfl, rfl⟩

/-- Settles O1: each command is done as it is dispatched, with the pops and pushes of its core's tile queues. -/
theorem tileQueueCommandsComplete : Obligations.TileQueueCommandsComplete := by
  unfold Obligations.TileQueueCommandsComplete
  intro c lo imm s d hs
  refine ⟨fun h => ?nop, fun h => ?tile, fun h => ?drop, fun h => ?dup⟩
  case nop =>
    obtain ⟨t, ht, hdone, htq, hpar, hframe⟩ := seqRun_done (f := fun k _ => k) hs h fun _ => ⟨rfl, rfl, rfl, rfl, rfl, rfl⟩
    exact ⟨t, congrArg _ ht, hdone, hpar.trans entered_params, Core.shadow_of_tq (htq.trans entered_tq), hframe⟩
  case tile =>
    obtain ⟨t, ht, hdone, htq, hpar, hframe⟩ := seqRun_done
      (f := fun k d => { k with q.tq := pushShadow k.q.tq (wQo d.lo) ⟨d.eff, none⟩ }) hs h fun _ => ⟨rfl, rfl, rfl, rfl, rfl, rfl⟩
    refine ⟨t, congrArg _ ht, hdone, hpar.trans entered_params, fun n => ?_, hframe⟩
    rw [Core.shadow, htq, entered_tq, sget_pushShadow, h.checks.1, Core.shadow]
  case drop =>
    obtain ⟨e, rest, hq⟩ := h.qs0_shadow rfl rfl rfl
    obtain ⟨t, ht, hdone, htq, hpar, hframe⟩ := seqRun_done (f := dropPop) hs h fun k => dropPop_keepsPlace k d
    have hq' : (entered (s.core c)).shadow (wQs0 d.lo) = e :: rest := by rw [Core.shadow, entered_tq, h.checks.1]; exact hq
    rw [dropPop_of_cons hq'] at htq hpar
    refine ⟨t, congrArg _ ht, hdone, by simpa using hpar, hq ▸ List.cons_ne_nil e rest, fun n => ?_, hframe⟩
    rw [Core.shadow, htq, sget_sset, entered_tq, h.checks.1]
    split
    case isTrue hn => rw [hn, hq, List.tail_cons]
    case isFalse => rfl
  case dup =>
    obtain ⟨e, rest, hq⟩ := h.qs0_shadow rfl rfl rfl
    obtain ⟨t, ht, hdone, htq, hpar, hframe⟩ := seqRun_done (f := dupPop) hs h fun k => dupPop_keepsPlace k d
    have hq' : (entered (s.core c)).shadow (wQs0 d.lo) = e :: rest := by rw [Core.shadow, entered_tq, h.checks.1]; exact hq
    rw [dupPop_of_cons hq'] at htq hpar
    refine ⟨t, e, rest, congrArg _ ht, hdone, by simpa using hpar, hq, fun n => ?_, hframe⟩
    rw [Core.shadow, htq, sget_pushShadow, sget_pushShadow, sget_sset, entered_tq, h.checks.1]
    rfl

/-- Settles O2: each command writes the one register its word names. -/
theorem parameterCommandsComplete : Obligations.ParameterCommandsComplete := by
  unfold Obligations.ParameterCommandsComplete
  intro c lo imm s d hs
  refine ⟨fun h => ?pset, fun h => ?padd, fun h => ?pcopy⟩
  case pset =>
    obtain ⟨t, ht, hdone, htq, hpar, hframe⟩ := seqRun_done
      (f := fun k d => k.setParam (wPidx d.lo) (BitVec.ofNat 64 d.eff)) hs h fun _ => ⟨rfl, rfl, rfl, rfl, rfl, rfl⟩
    refine ⟨t, congrArg _ ht, hdone, htq.trans entered_tq, fun n => ?_, hframe⟩
    rw [Core.param_of_params hpar, Core.param_setParam, h.checks.1, Core.param_of_params entered_params]
  case padd =>
    obtain ⟨t, ht, hdone, htq, hpar, hframe⟩ := seqRun_done
      (f := fun k d => k.setParam (wPidx d.lo) (k.param (wPidx d.lo) + BitVec.ofNat 64 d.eff)) hs h
      fun _ => ⟨rfl, rfl, rfl, rfl, rfl, rfl⟩
    refine ⟨t, congrArg _ ht, hdone, htq.trans entered_tq, fun n => ?_, hframe⟩
    rw [Core.param_of_params hpar, Core.param_setParam, h.checks.1, Core.param_of_params entered_params,
      Core.param_of_params entered_params]
    split
    case isTrue hn => rw [hn]
    case isFalse => simp
  case pcopy =>
    obtain ⟨t, ht, hdone, htq, hpar, hframe⟩ := seqRun_done
      (f := fun k d => k.setParam (wPidx d.lo) (k.param (d.eff % 256))) hs h fun _ => ⟨rfl, rfl, rfl, rfl, rfl, rfl⟩
    refine ⟨t, congrArg _ ht, hdone, htq.trans entered_tq, fun n => ?_, hframe⟩
    rw [Core.param_of_params hpar, Core.param_setParam, h.checks.1, Core.param_of_params entered_params,
      Core.param_of_params entered_params]

end Sys2Proof.Machine
end

section
/-! SUPPORT. Hub and core flags: what adding to one, CSIG and counting do to each of them. -/

namespace Sys2Proof.Machine
variable {s t u : State} {c x : CoreId} {k k' : Core} {d : Disp}

/-! ### Hub flags -/

theorem State.hubFlag_of_flags (h : t.hub.flags = s.hub.flags) (n : Nat) : t.hubFlag n = s.hubFlag n := by
  rw [State.hubFlag, h, State.hubFlag]

@[simp] theorem State.sendMsix_flags (s : State) (v : Nat) : (s.sendMsix v).hub.flags = s.hub.flags := by
  unfold State.sendMsix State.emit
  split <;> rfl

@[simp] theorem State.raiseVec_flags (s : State) (v : Nat) : (s.raiseVec v).hub.flags = s.hub.flags := by
  unfold State.raiseVec
  (repeat' split) <;> simp

@[simp] theorem fireBind_flags (s : State) (n : Nat) : (fireBind s n).hub.flags = s.hub.flags := by
  unfold fireBind
  dsimp only
  split <;> simp

@[simp] theorem fireBinds_flags (s : State) : (fireBinds s).hub.flags = s.hub.flags := by
  unfold fireBinds
  induction List.range 48 generalizing s with
  | nil => rfl
  | cons n l ih => rw [List.foldl_cons, ih, fireBind_flags]

/-- R80: an addition to a hub flag. -/
theorem State.addHubFlag_hubFlag (s : State) (m n : Nat) (i : Word32) :
    (s.addHubFlag m i).hubFlag n = s.hubFlag n + (if m = n then i else 0) := by
  rw [State.addHubFlag, State.hubFlag_of_flags (fireBinds_flags _), State.hubFlag, sget_sset]
  by_cases h : m = n
  · simp [h]
  · simp [h, Ne.symm h, State.hubFlag]

theorem State.addCoreFlag_hubFlag (s : State) (c : CoreId) (m n : Nat) (i : Word32) :
    (s.addCoreFlag c m i).hubFlag n = s.hubFlag n := State.hubFlag_of_flags rfl n

theorem csigFire_hubFlag (s : State) (c : CoreId) (lo n : Nat) :
    (csigFire s c lo).hubFlag n = s.hubFlag n + (if wCsig lo && wCflagHub lo && wCflagIdx lo = n then 1 else 0) := by
  unfold csigFire
  by_cases h : wCsig lo = true
  · by_cases hh : wCflagHub lo = true
    · simp [h, hh, State.addHubFlag_hubFlag]
    · simp [h, hh, State.addCoreFlag_hubFlag]
  · simp [h]

/-! ### A count adds to the flag of R496 alone -/

/-- The hub flags are as they were but the one that an overflow adds to, which stays the same flag. -/
def FlagsCounted (s t : State) : Prop :=
  (∀ n, n ≠ fld s.pmu.ctl.toNat 6 10 → t.hubFlag n = s.hubFlag n) ∧ fld t.pmu.ctl.toNat 6 10 = fld s.pmu.ctl.toNat 6 10

theorem FlagsCounted.refl (s : State) : FlagsCounted s s := ⟨fun _ _ => rfl, rfl⟩

theorem FlagsCounted.trans (h : FlagsCounted s t) (h' : FlagsCounted t u) : FlagsCounted s u :=
  ⟨fun n hn => (h'.1 n (h.2.symm ▸ hn)).trans (h.1 n hn), h'.2.trans h.2⟩

theorem FlagsCounted.of_hub_pmu (h : t.hub = s.hub) (hp : t.pmu = s.pmu) : FlagsCounted s t :=
  ⟨fun n _ => by rw [State.hubFlag, h, State.hubFlag], by rw [hp]⟩

theorem FlagsCounted.foldl {α : Type} (l : List α) {f : State → α → State} (hf : ∀ t a, FlagsCounted t (f t a)) (s : State) :
    FlagsCounted s (l.foldl f s) := by
  induction l generalizing s with
  | nil => exact .refl s
  | cons a l ih => exact (hf s a).trans (ih _)

/-- R496: the freeze bit is not part of the field that names the flag. -/
theorem fld_freeze (w : Word32) : fld (w ||| 1).toNat 6 10 = fld w.toNat 6 10 := by
  have h : (1 : Nat) >>> 6 = 0 := rfl
  simp [fld, BitVec.toNat_or, Nat.shiftRight_or_distrib, h]

theorem State.addHubFlag_pmuCtl (s : State) (n : Nat) (i : Word32) : (s.addHubFlag n i).pmu.ctl = s.pmu.ctl := by
  have h : (s.pmu.flagAdded n).ctl = s.pmu.ctl := by
    unfold Pmu.flagAdded
    split <;> rfl
  simpa [State.addHubFlag, fireBinds] using h

theorem freezeOn_flags (s : State) (b : Bool) :
    FlagsCounted s (if b = true then { s with pmu.ctl := s.pmu.ctl ||| 1 } else s) := by
  split
  · exact ⟨fun _ _ => rfl, fld_freeze _⟩
  · exact .refl s

theorem State.cntCarry_flags (s : State) (sel : Nat) : FlagsCounted s (s.cntCarry sel) := by
  have h := freezeOn_flags s (bitAt sel 18)
  unfold State.cntCarry
  dsimp only
  split
  · refine h.trans ⟨fun n hn => ?_, by rw [State.addHubFlag_pmuCtl]⟩
    rw [h.2] at hn
    rw [State.addHubFlag_hubFlag, if_neg (Ne.symm hn)]
    simp
  · exact h

theorem State.modCore_flags (s : State) (c : CoreId) (f : Core → Core) : FlagsCounted s (s.modCore c f) := .of_hub_pmu rfl rfl

theorem State.bumpCore_flags (s : State) (c : CoreId) (i n : Nat) (x : Sample) : FlagsCounted s (s.bumpCore c i n x) := by
  unfold State.bumpCore
  dsimp only
  split
  · exact State.modCore_flags s c _
  · split
    · exact State.modCore_flags s c _
    · exact (State.modCore_flags s c _).trans (State.cntCarry_flags _ _)

theorem State.countCore_flags (s : State) (c : CoreId) (ev : Nat) (hit : Nat → Bool) (n : Nat) (x : Sample) :
    FlagsCounted s (s.countCore c ev hit n x) := by
  unfold State.countCore
  dsimp only
  split
  · exact .refl s
  · refine .foldl _ (fun t i => ?_) s
    split
    · exact State.bumpCore_flags t c i n x
    · exact .refl t

theorem State.countDispatch_flags (s : State) (c : CoreId) (b : Nat) : FlagsCounted s (s.countDispatch c b) := by
  unfold State.countDispatch
  dsimp only
  refine FlagsCounted.trans ?_ (State.countCore_flags _ _ _ _ _ _)
  split
  · exact .refl s
  · exact State.modCore_flags s c _

/-! ### Core flags -/

/-- The cores differ in core flags and performance counters alone. -/
def FlagsOnly (s t : State) : Prop :=
  t.has64 ∧ ∀ x, (t.core x).q = { (s.core x).q with flags := (t.core x).q.flags } ∧ (t.core x).m = (s.core x).m ∧
    (t.core x).v = (s.core x).v ∧ (t.core x).t = (s.core x).t

theorem FlagsOnly.trans (h : FlagsOnly s t) (h' : FlagsOnly t u) : FlagsOnly s u := by
  refine ⟨h'.1, fun x => ?_⟩
  obtain ⟨hq, hm, hv, ht⟩ := h.2 x
  obtain ⟨hq', hm', hv', ht'⟩ := h'.2 x
  exact ⟨by rw [hq', hq], hm'.trans hm, hv'.trans hv, ht'.trans ht⟩

theorem FlagsOnly.of_cores (hs : s.has64) (h : t.cores = s.cores) : FlagsOnly s t :=
  ⟨State.has64_of_cores hs h, fun x => by rw [State.core_of_cores h]; exact ⟨rfl, rfl, rfl, rfl⟩⟩

theorem State.addCoreFlag_core (hs : s.has64) (n : Nat) (i : Word32) (x : CoreId) :
    (s.addCoreFlag c n i).core x = if x = c then
      { s.core c with q.flags := sset 0 (s.core c).q.flags n ((s.core c).flag n + i) } else s.core x :=
  State.core_modCore hs c x _

theorem State.addCoreFlag_flagsOnly (hs : s.has64) (n : Nat) (i : Word32) : FlagsOnly s (s.addCoreFlag c n i) := by
  refine ⟨State.modCore_has64 hs _ _, fun x => ?_⟩
  rw [State.addCoreFlag_core hs]
  split
  case isTrue h => exact h ▸ ⟨rfl, rfl, rfl, rfl⟩
  case isFalse => exact ⟨rfl, rfl, rfl, rfl⟩

theorem State.addCoreFlag_flag (hs : s.has64) (m n : Nat) (i : Word32) (x : CoreId) :
    ((s.addCoreFlag c m i).core x).flag n = (s.core x).flag n + (if m = n ∧ x = c then i else 0) := by
  rw [State.addCoreFlag_core hs]
  by_cases hx : x = c
  · by_cases h : m = n
    · simp [Core.flag, hx, h]
    · simp [Core.flag, hx, h, Ne.symm h]
  · simp [hx]

theorem csigFire_flagsOnly (hs : s.has64) (lo : Nat) : FlagsOnly s (csigFire s c lo) := by
  unfold csigFire
  split
  · split
    · exact .of_cores hs (by simp)
    · exact State.addCoreFlag_flagsOnly hs _ _
  · exact .of_cores hs rfl

theorem csigFire_flag (hs : s.has64) (lo n : Nat) (x : CoreId) :
    ((csigFire s c lo).core x).flag n = (s.core x).flag n
      + (if x = c && wCsig lo && !wCflagHub lo && wCflagIdx lo = n then 1 else 0) := by
  unfold csigFire
  by_cases h : wCsig lo = true
  · by_cases hh : wCflagHub lo = true
    · rw [if_pos h, if_pos hh, State.core_of_cores (s := s) (by simp)]
      simp [hh]
    · rw [if_pos h, if_neg hh, State.addCoreFlag_flag hs]
      simp [h, hh, and_comm]
  · simp [h]

theorem State.countDispatch_flagsOnly (hs : s.has64) (b : Nat) : FlagsOnly s (s.countDispatch c b) := by
  obtain ⟨hl, hother, hq, hm, hv, ht⟩ := State.countDispatch_butPmu hs c b
  refine ⟨hl, fun x => ?_⟩
  by_cases hx : x = c
  · rw [hx, hq, hm, hv, ht]
    exact ⟨rfl, rfl, rfl, rfl⟩
  · rw [hother x hx]
    exact ⟨rfl, rfl, rfl, rfl⟩

theorem State.countDispatch_flag (hs : s.has64) (b n : Nat) (x : CoreId) :
    ((s.countDispatch c b).core x).flag n = (s.core x).flag n := by
  obtain ⟨hl, hother, hq, -⟩ := State.countDispatch_butPmu hs c b
  by_cases hx : x = c
  · rw [hx, Core.flag, hq, Core.flag]
  · rw [hother x hx]

end Sys2Proof.Machine
end

section
/-! SUPPORT. WAIT, SIGNAL and END (R72, R79, R80). -/

namespace Sys2Proof.Machine
variable {s t u : State} {c x : CoreId} {k k' : Core} {d : Disp} {w : WaitInfo}

/-! ### WAIT -/

theorem reached_iff {f g : Word32} : reached f g = true ↔ ∃ n : Nat, n < 2 ^ 31 ∧ f = g + BitVec.ofNat 32 n := by
  simp only [reached, Bool.not_eq_true', BitVec.msb_eq_false_iff_two_mul_lt]
  constructor
  · intro h
    refine ⟨(f - g).toNat, by omega, ?_⟩
    rw [BitVec.ofNat_toNat, BitVec.setWidth_eq, BitVec.add_comm, BitVec.sub_add_cancel]
  · rintro ⟨n, hn, rfl⟩
    have hsub : g + BitVec.ofNat 32 n - g = BitVec.ofNat 32 n := by rw [BitVec.add_comm, BitVec.add_sub_cancel]
    rw [hsub, BitVec.toNat_ofNat]
    omega

/-- R79: a lower core's consuming WAIT on the same hub flag is satisfied too. -/
theorem waitBehind_iff : waitBehind s c w = true ↔ w.consume = true ∧ w.hub = true ∧ ∃ x : CoreId, x < c ∧
    (s.core x).q.seq = .waiting ∧ ∃ y n, (s.core x).q.wait = some y ∧ y.consume = true ∧ y.hub = true ∧ y.flag = w.flag ∧
      n < 2 ^ 31 ∧ s.hubFlag w.flag = y.target + BitVec.ofNat 32 n := by
  simp only [waitBehind, Bool.and_eq_true, List.any_eq_true, decide_eq_true_eq, and_assoc, List.mem_finRange, true_and]
  refine and_congr_right fun _ => and_congr_right fun _ => exists_congr fun x => and_congr_right fun _ => and_congr_right fun _ => ?_
  cases hw : (s.core x).q.wait with
  | none => simp
  | some y =>
    simp only [Bool.and_eq_true, decide_eq_true_eq, Option.some.injEq, reached_iff]
    constructor
    · rintro ⟨⟨⟨hc, hh⟩, hf⟩, n, hn, he⟩
      exact ⟨y, n, rfl, hc, hh, hf, hn, hf ▸ he⟩
    · rintro ⟨y', n, rfl, hc, hh, hf, hn, he⟩
      exact ⟨⟨⟨hc, hh⟩, hf⟩, n, hn, hf ▸ he⟩

theorem execWaitComplete_of_held (hw : (s.core c).q.wait = some w)
    (h : reached (waitFlag s (s.core c) w) w.target = false ∨ waitBehind s c w = true) : execWaitComplete c s = .next s := by
  simp only [execWaitComplete, hw]
  refine if_neg fun hc => ?_
  obtain ⟨-, hr, hb⟩ := hc
  rcases h with h | h
  · exact Bool.false_ne_true (h.symm.trans hr)
  · exact Bool.false_ne_true (hb.symm.trans h)

/-- R79: what a consuming WAIT takes from its flag. -/
def waitTaken (s : State) (c : CoreId) (w : WaitInfo) : State :=
  if w.consume then
    (if w.hub then { s with hub.flags := sset 0 s.hub.flags w.flag (s.hubFlag w.flag - w.target) }
     else s.modCore c fun k => { k with q.flags := sset 0 k.q.flags w.flag (k.flag w.flag - w.target) })
  else s

/-- R79, R365: a core behind its WAIT. -/
def waitPast (s : State) (w : WaitInfo) (k : Core) : Core :=
  let k1 := dispatched { k with q.wait := none } ⟨w.idx, w.pass, w.lo, w.imm, w.imm⟩
  if w.hub && w.flag = 0 && s.cke.gateCtl.getLsbD 11 then { k1 with q.snapDue := true } else k1

theorem execWaitComplete_of_reached (hw : (s.core c).q.wait = some w) (hst : (s.core c).q.seq = .waiting)
    (hr : reached (waitFlag s (s.core c) w) w.target = true) (hb : waitBehind s c w = false) :
    execWaitComplete c s = .next (csigFire ((waitTaken s c w).modCore c (waitPast s w)) c w.lo) := by
  simp only [execWaitComplete, hw]
  exact if_pos ⟨hst, hr, hb⟩

theorem waitPast_same (s : State) (w : WaitInfo) (k : Core) :
    (waitPast s w k).q.seq = .dispatching ∧ (waitPast s w k).q.wait = none ∧ (waitPast s w k).q.flags = k.q.flags := by
  have h := dispatched_same { k with q.wait := none } ⟨w.idx, w.pass, w.lo, w.imm, w.imm⟩
  obtain ⟨hf, -, -, hs, -, -, -, -, -, -, -, hw, -⟩ := h
  unfold waitPast
  dsimp only
  split <;> exact ⟨hs, hw, hf⟩

theorem waitTaken_has64 (hs : s.has64) : (waitTaken s c w).has64 := by
  unfold waitTaken
  split
  · split
    · exact hs
    · exact State.modCore_has64 hs _ _
  · exact hs

theorem waitTaken_others (hs : s.has64) : OtherCores c s (waitTaken s c w) := fun x hx => by
  unfold waitTaken
  split
  · split
    · rfl
    · rw [State.core_modCore hs, if_neg hx]
  · rfl

theorem waitTaken_flag (hs : s.has64) (n : Nat) : ((waitTaken s c w).core c).flag n
    = (s.core c).flag n - (if w.consume && !w.hub && w.flag = n then w.target else 0) := by
  unfold waitTaken
  by_cases hc : w.consume = true
  · by_cases hh : w.hub = true
    · simp [hc, hh, State.core, Core.flag]
    · rw [if_pos hc, if_neg hh, State.core_modCore hs, if_pos rfl]
      by_cases hn : w.flag = n
      · simp [Core.flag, hc, hh, hn]
      · simp [Core.flag, hc, hh, hn, Ne.symm hn]
  · simp [hc]

theorem waitTaken_hubFlag (n : Nat) : (waitTaken s c w).hubFlag n
    = s.hubFlag n - (if w.consume && w.hub && w.flag = n then w.target else 0) := by
  unfold waitTaken
  by_cases hc : w.consume = true
  · by_cases hh : w.hub = true
    · by_cases hn : w.flag = n
      · simp [State.hubFlag, hc, hh, hn]
      · simp [State.hubFlag, hc, hh, hn, Ne.symm hn]
    · simp [hh, hc, State.hubFlag]
  · simp [hc]

theorem waitTaken_sameOutside : SameOutside [.cores, .hub, .pmu, .sent] s (waitTaken s c w) := fun p hp => by
  unfold waitTaken
  cases p <;> simp_all [StatePart.same]

/-- R79: a satisfied WAIT takes its target and lets its core go on. -/
theorem waitComplete_completes (hs : s.has64) (hw : (s.core c).q.wait = some w) (hst : (s.core c).q.seq = .waiting)
    (hr : reached (waitFlag s (s.core c) w) w.target = true) (hb : waitBehind s c w = false) :
    ∃ t, exec (.waitComplete c) s = .next t ∧ (t.core c).q.wait = none ∧ (t.core c).q.seq = .dispatching ∧
      (∀ n, (t.core c).flag n = (s.core c).flag n
        - (if w.consume && !w.hub && w.flag = n then w.target else 0)
        + (if wCsig w.lo && !wCflagHub w.lo && wCflagIdx w.lo = n then 1 else 0)) ∧
      (∀ n, t.hubFlag n = s.hubFlag n - (if w.consume && w.hub && w.flag = n then w.target else 0)
        + (if wCsig w.lo && wCflagHub w.lo && wCflagIdx w.lo = n then 1 else 0)) ∧
      OtherCores c s t ∧ SameOutside [.cores, .hub, .pmu, .sent] s t := by
  have h1 : (waitTaken s c w).has64 := waitTaken_has64 hs
  have hcore : ((waitTaken s c w).modCore c (waitPast s w)).core c = waitPast s w ((waitTaken s c w).core c) := by
    rw [State.core_modCore h1, if_pos rfl]
  obtain ⟨hseq, hwait, hflags⟩ := waitPast_same s w ((waitTaken s c w).core c)
  have hq := ((csigFire_flagsOnly (c := c) (State.modCore_has64 h1 c (waitPast s w)) w.lo).2 c).1
  refine ⟨_, execWaitComplete_of_reached hw hst hr hb, ?_, ?_, fun n => ?_, fun n => ?_, fun x hx => ?_, ?_⟩
  · rw [hq, hcore]
    exact hwait
  · rw [hq, hcore]
    exact hseq
  · rw [csigFire_flag (State.modCore_has64 h1 _ _), hcore, Core.flag, hflags, ← Core.flag, waitTaken_flag hs]
    simp
  · rw [csigFire_hubFlag, State.hubFlag_of_flags (s := waitTaken s c w) (t := (waitTaken s c w).modCore c (waitPast s w)) rfl, waitTaken_hubFlag]
  · rw [csigFire_core (State.modCore_has64 h1 _ _), if_neg fun h => hx h.1, State.core_modCore h1, if_neg hx, waitTaken_others hs x hx]
  · exact waitTaken_sameOutside.trans ((State.setCore_sameOutside.mono (by simp)).trans csigFire_sameOutside)

/-- Settles O3: by what `reached` and `waitBehind` mean, the WAIT completes or nothing changes. -/
theorem waitHoldsUntilItsFlagIsReached : Obligations.WaitHoldsUntilItsFlagIsReached := by
  unfold Obligations.WaitHoldsUntilItsFlagIsReached
  intro c lo imm s d w hs
  refine ⟨fun h => ?_, fun hw hst => ⟨⟨fun hl => ?_, fun hr hl => ?_⟩, fun hn => ?_⟩⟩
  · have hp := dispatchWith_placed hs h (run := fun s k d => s.setCore c { k with
      q.seq := .waiting, q.stall := 5
      q.wait := some ⟨fld d.eff 0 10, bitAt d.eff 10, bitAt d.eff 11, BitVec.ofNat 32 (fld d.eff 32 32),
        d.idx, d.pass, d.lo, d.imm⟩ }) fun hu => Placed.setCore hu
    obtain ⟨hf, -, -, -, hi, -⟩ := entered_flags (s.core c)
    refine ⟨_, rfl, ?_, ?_, ?_, ?_, ?_, hp.others, hp.frame⟩ <;> rw [hp.q_eq]
    · exact hf
    · exact hi
  · exact execWaitComplete_of_held hw (.inr (waitBehind_iff.2 hl))
  · exact waitComplete_completes hs hw hst (reached_iff.2 hr) (Bool.eq_false_iff.2 fun hb => hl (waitBehind_iff.1 hb))
  · refine execWaitComplete_of_held hw (.inl (Bool.eq_false_iff.2 fun hr => ?_))
    obtain ⟨n, hlt, he⟩ := reached_iff.1 hr
    exact hn n hlt he

/-! ### SIGNAL -/

/-- R80: what SIGNAL adds. -/
def signalled (s : State) (c : CoreId) (d : Disp) : State :=
  if bitAt d.eff 10 then s.addHubFlag (fld d.eff 0 10) (BitVec.ofNat 32 (fld d.eff 32 32))
  else s.addCoreFlag (if bitAt d.eff 18 then coreNo (fld d.eff 12 6) else c) (fld d.eff 0 10) (BitVec.ofNat 32 (fld d.eff 32 32))

section signalled
variable (s : State) (c : CoreId) (d : Disp)

theorem signalled_flagsOnly (hs : s.has64) : FlagsOnly s (signalled s c d) := by
  unfold signalled
  split
  · exact .of_cores hs (by simp)
  · exact State.addCoreFlag_flagsOnly hs _ _

theorem signalled_flag (hs : s.has64) (x : CoreId) (n : Nat) : ((signalled s c d).core x).flag n = (s.core x).flag n
    + (if !bitAt d.eff 10 && fld d.eff 0 10 = n && x = (if bitAt d.eff 18 then coreNo (fld d.eff 12 6) else c)
        then BitVec.ofNat 32 (fld d.eff 32 32) else 0) := by
  unfold signalled
  by_cases h : bitAt d.eff 10 = true
  · rw [if_pos h, State.core_of_cores (s := s) (by simp)]
    simp [h]
  · rw [if_neg h, State.addCoreFlag_flag hs]
    simp [h]

theorem signalled_hubFlag (n : Nat) : (signalled s c d).hubFlag n = s.hubFlag n
    + (if bitAt d.eff 10 && fld d.eff 0 10 = n then BitVec.ofNat 32 (fld d.eff 32 32) else 0) := by
  unfold signalled
  by_cases h : bitAt d.eff 10 = true
  · rw [if_pos h, State.addHubFlag_hubFlag]
    simp [h]
  · rw [if_neg h, State.addCoreFlag_hubFlag]
    simp [h]

theorem signalled_pmuCtl : (signalled s c d).pmu.ctl = s.pmu.ctl := by
  unfold signalled
  split
  · exact State.addHubFlag_pmuCtl _ _ _
  · rfl

theorem signalled_sameOutside : SameOutside [.cores, .hub, .pmu, .sent] s (signalled s c d) := fun p hp => by
  unfold signalled
  cases p <;> simp_all [StatePart.same]

end signalled

theorem csigFire_pmuCtl (s : State) (c : CoreId) (lo : Nat) : (csigFire s c lo).pmu.ctl = s.pmu.ctl := by
  unfold csigFire
  split
  · split
    · exact State.addHubFlag_pmuCtl _ _ _
    · rfl
  · rfl

theorem exec_signal (c : CoreId) (lo imm : Word64) (s : State) :
    exec (.signal c lo imm) s = .next (dispatchWith s c lo imm 0x09 (signalCodes s) noCodes fun s k d =>
      csigFire (signalled (s.setCore c (dispatched k d)) c d) c d.lo) := rfl

/-- Settles O4: SIGNAL and CSIG each add to one flag, and counting the dispatch to none but that of R496. -/
theorem signalAddsToOneFlag : Obligations.SignalAddsToOneFlag := by
  unfold Obligations.SignalAddsToOneFlag
  intro c lo imm s d hs h
  obtain ⟨b, hb⟩ := dispatchWith_dispatches h fun s k d => csigFire (signalled (s.setCore c (dispatched k d)) c d) c d.lo
  -- the state before the flags are added to: the core behind its SIGNAL
  obtain ⟨v, hv, hflags, hpmu, hb⟩ : ∃ v, Placed c (dispatched (entered (s.core c)) d) s v ∧ v.hub.flags = s.hub.flags ∧
      v.pmu = s.pmu ∧ dispatchWith s c lo imm 0x09 (signalCodes s) noCodes _
        = (csigFire (signalled v c d) c d.lo).countDispatch c b :=
    ⟨_, (Placed.setCore hs).trans (Placed.setCore (State.setCore_has64 hs _ _)), rfl, rfl, hb⟩
  have hpast : Past (s.core c) (dispatched (entered (s.core c)) d) := (entered_keepsPlace _).dispatched
  have hvflag : ∀ x n, (v.core x).flag n = (s.core x).flag n := fun x n => by
    by_cases hx : x = c
    · rw [hx, hv.flag, Core.flag, hpast.flags, Core.flag]
    · rw [hv.others x hx]
  have hvengines : ∀ x, (v.core x).m = (s.core x).m ∧ (v.core x).v = (s.core x).v ∧ (v.core x).t = (s.core x).t := fun x => by
    by_cases hx : x = c
    · rw [hx, hv.m_eq, hv.v_eq, hv.t_eq]
      exact ⟨hpast.m, hpast.v, hpast.t⟩
    · rw [hv.others x hx]
      exact ⟨rfl, rfl, rfl⟩
  have hsig := signalled_flagsOnly v c d hv.has64
  have hcsig := csigFire_flagsOnly (c := c) hsig.1 d.lo
  obtain ⟨-, hall⟩ := hsig.trans (hcsig.trans (State.countDispatch_flagsOnly (c := c) hcsig.1 b))
  refine ⟨_, (exec_signal c lo imm s).trans (congrArg _ hb), ?_, fun x n => ?_, fun n hn => ?_, fun x => ?_, ?_⟩
  · rw [(hall c).1, hv.q_eq]
    exact hpast.seq
  · rw [State.countDispatch_flag hcsig.1, csigFire_flag hsig.1, signalled_flag v c d hv.has64, h.checks.1, hvflag]
  · have hctl : (csigFire (signalled v c d) c d.lo).pmu.ctl = s.pmu.ctl := by rw [csigFire_pmuCtl, signalled_pmuCtl, hpmu]
    rw [(State.countDispatch_flags _ c b).1 n (hctl ▸ hn), csigFire_hubFlag, signalled_hubFlag, h.checks.1,
      State.hubFlag_of_flags hflags]
  · obtain ⟨-, hm, hv, ht⟩ := hall x
    obtain ⟨hm', hv', ht'⟩ := hvengines x
    exact ⟨hm.trans hm', hv.trans hv', ht.trans ht'⟩
  · exact hv.frame.trans ((signalled_sameOutside v c d).trans (csigFire_sameOutside.trans State.countDispatch_sameOutside))

/-! ### END -/

/-- Settles O8: the core END leaves has no handle, no recording and no replay. -/
theorem endDiscardsHandlesAndSlots : Obligations.EndDiscardsHandlesAndSlots := by
  unfold Obligations.EndDiscardsHandlesAndSlots
  intro c lo imm s d hs h
  have hp := dispatchWith_placed hs h (run := fun s k d => csigFire (s.setCore c { k with
      q.seq := .ended, q.stall := 0, q.tq := [], q.drops := [], q.slots := [], q.replay := none }) c d.lo)
    fun hu => Placed.csigFire hu d.lo
  obtain ⟨hf, hpar, -, -, -, -, -, -, hm, hv, ht, -⟩ := entered_flags (s.core c)
  refine ⟨_, rfl, ?_, fun n => ?_, fun n => ?_, ?_, ?_, fun n => ?_, ?_, ?_, ?_, hp.others, hp.frame⟩
  · rw [hp.q_eq, Core.csig_seq]
  · rw [Core.shadow, hp.q_eq, Core.csig_tq, sget_nil]
  · rw [hp.q_eq, Core.csig_slots, sget_nil]
  · rw [hp.q_eq, Core.csig_replay]
  · rw [hp.q_eq, Core.csig_params, hpar]
  · rw [hp.flag, Core.csig_flag, h.checks.1]
    exact congrArg (· + _) (by rw [Core.flag, hf, Core.flag])
  · rw [hp.m_eq, Core.csig_m, hm]
  · rw [hp.v_eq, Core.csig_v, hv]
  · rw [hp.t_eq, Core.csig_t, ht]

end Sys2Proof.Machine
end

section
/-! SUPPORT. FENCE and the completion of engine commands (R62, R63, R82, R162). -/

namespace Sys2Proof.Machine
variable {s t u : State} {c x : CoreId} {k k' : Core} {d : Disp}

/-! ### FENCE -/

/-- R82: a command dispatched before number `before` to an engine of `mask` has not completed. -/
def FenceWaits (k : Core) (mask before : Nat) : Prop :=
  ∃ x ∈ k.incomplete, x.id < before ∧
    ∃ n e, (n, e) ∈ [(0, Engine.mxu), (1, .vce), (2, .tmv), (3, .hub)] ∧ engOfOpc x.opc = some e ∧ bitAt mask n = true

theorem fenceDone_iff {mask before : Nat} : fenceDone k mask before = true ↔ ¬FenceWaits k mask before := by
  simp only [fenceDone, FenceWaits, List.all_eq_true, Bool.or_eq_true, decide_eq_true_eq, Bool.not_eq_true', not_exists, not_and,
    Bool.not_eq_true]
  refine forall_congr' fun x => forall_congr' fun _ => ?_
  rw [← Nat.not_lt, ← imp_iff_not_or]
  refine forall_congr' fun _ => ?_
  cases he : engOfOpc x.opc with
  | none => simp
  | some e => cases e <;> simp [or_imp, forall_and]

theorem incomplete_of_engines (hm : k'.m = k.m) (hv : k'.v = k.v) (ht : k'.t = k.t) : k'.incomplete = k.incomplete := by
  simp only [Core.incomplete, Core.engRun, hm, hv, ht]

theorem fenceDone_of_engines {mask before : Nat} (hm : k'.m = k.m) (hv : k'.v = k.v) (ht : k'.t = k.t) :
    fenceDone k' mask before = fenceDone k mask before := by
  rw [fenceDone, incomplete_of_engines hm hv ht, fenceDone]

/-- R82: a core behind its FENCE. -/
def Core.fencePast (k : Core) (f : FenceInfo) : Core :=
  (dispatched { k with q.fence := none } ⟨f.idx, f.pass, f.lo, f.imm, f.imm⟩).csig f.lo

/-- R82: a core whose FENCE has been settled. -/
def Core.fenced (k : Core) : Core :=
  match k.q.fence with
  | none => k
  | some f => if fenceDone k f.mask f.before && k.q.seq = .stalled then k.fencePast f else k

theorem Core.fenced_of_none (h : k.q.fence = none) : k.fenced = k := by
  simp only [Core.fenced, h]

theorem Core.fenced_of_done {f : FenceInfo} (h : k.q.fence = some f) (hd : fenceDone k f.mask f.before = true)
    (hst : k.q.seq = .stalled) : k.fenced = k.fencePast f := by
  simp [Core.fenced, h, hd, hst]

theorem Core.fenced_of_waits {f : FenceInfo} (h : k.q.fence = some f) (hd : fenceDone k f.mask f.before = false) :
    k.fenced = k := by
  simp [Core.fenced, h, hd]

theorem Core.fenced_engines (k : Core) : k.fenced.m = k.m ∧ k.fenced.v = k.v ∧ k.fenced.t = k.t := by
  unfold Core.fenced
  split
  · exact ⟨rfl, rfl, rfl⟩
  · split
    · obtain ⟨-, -, -, -, hm, hv, ht, -⟩ := dispatched_same { k with q.fence := none } _
      exact ⟨(Core.csig_m _ _).trans hm, (Core.csig_v _ _).trans hv, (Core.csig_t _ _).trans ht⟩
    · exact ⟨rfl, rfl, rfl⟩

theorem settleFence_placed (hs : s.has64) : Placed c (s.core c).fenced s (settleFence s c) := by
  have hself : Placed c (s.core c) s s := ⟨hs, ⟨rfl, rfl, rfl, rfl⟩, fun _ _ => rfl, .refl _ s⟩
  cases hf : (s.core c).q.fence with
  | none => simpa only [settleFence, Core.fenced, hf] using hself
  | some f =>
    simp only [settleFence, Core.fenced, hf]
    split
    · exact Placed.csigFire hs _
    · exact hself

/-- A core put in its place with its CSIG fired, and then its FENCE settled. -/
theorem settleFence_csigFire_placed (hs : s.has64) (lo : Nat) :
    Placed c (k.csig lo).fenced s (settleFence (csigFire (s.setCore c k) c lo) c) := by
  have h := settleFence_placed (c := c) (Placed.csigFire (k := k) (c := c) hs lo).has64
  rw [csigFire_setCore hs, if_pos rfl] at h
  exact (Placed.csigFire hs lo).trans h

theorem settleFence_setCore_placed (hs : s.has64) : Placed c k.fenced s (settleFence (s.setCore c k) c) := by
  have h := settleFence_placed (c := c) (Placed.setCore (k := k) (c := c) hs).has64
  rw [State.core_setCore hs, if_pos rfl] at h
  exact (Placed.setCore hs).trans h

/-- R82: a core that stalls on its FENCE. -/
def fenceStalled (k : Core) (d : Disp) : Core :=
  { k with
    q.seq := .stalled, q.stall := 6
    q.fence := some ⟨fenceMask d.eff, k.q.nextId, d.idx, d.pass, d.lo, d.imm⟩ }

theorem fenceDone_fenceStalled (k : Core) (d : Disp) (mask before : Nat) :
    fenceDone (fenceStalled (entered k) d) mask before = fenceDone k mask before := by
  obtain ⟨-, -, -, -, -, -, -, -, hm, hv, ht, -⟩ := entered_flags k
  exact fenceDone_of_engines hm hv ht

theorem exec_fence (c : CoreId) (lo imm : Word64) (s : State) :
    exec (.fence c lo imm) s = .next (dispatchWith s c lo imm 0x0A noCodes noCodes fun s k d =>
      settleFence (s.setCore c (fenceStalled k d)) c) := rfl

/-- R82: FENCE as it is dispatched. -/
theorem fence_dispatched {lo imm : Word64} (hs : s.has64) (h : Dispatches s c lo imm 0x0A noCodes noCodes d) :
    Placed c (fenceStalled (entered (s.core c)) d).fenced s
      (dispatchWith s c lo imm 0x0A noCodes noCodes fun s k d => settleFence (s.setCore c (fenceStalled k d)) c) :=
  dispatchWith_placed hs h fun hu => settleFence_setCore_placed hu

/-! ### Completion -/

/-- R62, R73, R162: the core once a command of an engine has completed. -/
def Core.completes (k : Core) (e : Engine) (x : EngCmd) : Core := noteLast (swapBank (leaveEngine k e x.id) x) e x

theorem leaveEngine_engRun (k : Core) (e f : Engine) (id : Nat) :
    (leaveEngine k e id).engRun f = if f = e then (k.engRun f).filter (·.id ≠ id) else k.engRun f := by
  cases e <;> cases f <;> simp [leaveEngine, Core.engRun, List.filter_map, Function.comp_def]

theorem leaveEngine_same (k : Core) (e : Engine) (id : Nat) :
    (leaveEngine k e id).q = k.q ∧ (∀ f, (leaveEngine k e id).engQueue f = k.engQueue f) ∧
      (leaveEngine k e id).v.lutActive = k.v.lutActive ∧ (leaveEngine k e id).v.oc = k.v.oc ∧ (leaveEngine k e id).m.acc = k.m.acc := by
  cases e <;> exact ⟨rfl, fun f => by cases f <;> rfl, rfl, rfl, rfl⟩

theorem swapBank_same (k : Core) (x : EngCmd) :
    (swapBank k x).q = k.q ∧ (∀ f, (swapBank k x).engQueue f = k.engQueue f) ∧ (∀ f, (swapBank k x).engRun f = k.engRun f) ∧
      (swapBank k x).v.lutActive = (if x.opc = 0x32 ∧ tblSwaps x.imm = true then x.bank else k.v.lutActive) ∧
      (swapBank k x).v.oc = k.v.oc ∧ (swapBank k x).m.acc = k.m.acc := by
  unfold swapBank
  by_cases h : x.opc = 0x32 ∧ tblSwaps x.imm = true
  · rw [if_pos (by simpa using h), if_pos h]
    exact ⟨rfl, fun f => by cases f <;> rfl, fun f => by cases f <;> rfl, rfl, rfl, rfl⟩
  · rw [if_neg (by simpa using h), if_neg h]
    exact ⟨rfl, fun _ => rfl, fun _ => rfl, rfl, rfl, rfl⟩

section completes
variable (k : Core) (e : Engine) (x : EngCmd)

theorem Core.completes_q : (k.completes e x).q = k.q := (swapBank_same _ x).1.trans (leaveEngine_same k e x.id).1

theorem Core.completes_engRun (f : Engine) :
    (k.completes e x).engRun f = if f = e then (k.engRun f).filter (·.id ≠ x.id) else k.engRun f := by
  rw [← leaveEngine_engRun, ← (swapBank_same (leaveEngine k e x.id) x).2.2.1]
  cases f <;> rfl

theorem Core.completes_engQueue (f : Engine) : (k.completes e x).engQueue f = k.engQueue f := by
  rw [← (leaveEngine_same k e x.id).2.1, ← (swapBank_same (leaveEngine k e x.id) x).2.1]
  cases f <;> rfl

theorem Core.completes_lutActive :
    (k.completes e x).v.lutActive = if x.opc = 0x32 ∧ tblSwaps x.imm = true then x.bank else k.v.lutActive := by
  rw [← (leaveEngine_same k e x.id).2.2.1]
  exact (swapBank_same _ x).2.2.2.1

theorem Core.completes_oc : (k.completes e x).v.oc = k.v.oc :=
  (swapBank_same _ x).2.2.2.2.1.trans (leaveEngine_same k e x.id).2.2.2.1

theorem Core.completes_acc : (k.completes e x).m.acc = k.m.acc :=
  (swapBank_same _ x).2.2.2.2.2.trans (leaveEngine_same k e x.id).2.2.2.2

end completes

theorem engRun_of_engines (hm : k'.m = k.m) (hv : k'.v = k.v) (ht : k'.t = k.t) (e : Engine) : k'.engRun e = k.engRun e := by
  cases e <;> simp only [Core.engRun, hm, hv, ht]

theorem engQueue_of_engines (hm : k'.m = k.m) (hv : k'.v = k.v) (ht : k'.t = k.t) (e : Engine) : k'.engQueue e = k.engQueue e := by
  cases e <;> simp only [Core.engQueue, hm, hv, ht]

/-! ### What waits for the host -/

/-- R385: an event that leaves memory alone waits for no host. -/
theorem afterSnoop_of_mem (h : t.mem = s.mem) : afterSnoop s t = t := by
  have hsame : ∀ l, lineSame s t l = true := fun l => by simp [lineSame, State.byteAt, State.poisoned, h]
  simp [afterSnoop, hsame]

/-- R385: with no line in the host's cache an event waits for no host. -/
theorem afterSnoop_of_nil (hs : s.hub.snoop = []) (hb : s.hub.bisnp = []) : afterSnoop s t = t := by
  simp [afterSnoop, hs, hb]

/-- R398: a job that is neither rewound nor terminated is left alone. -/
theorem State.settleJob_of_not (hr : s.cke.rewinding = false) (hj : s.hub.jobState ≠ .terminating) : s.settleJob = s := by
  simp [State.settleJob, State.settleRewind, hr, State.settleTerminate, hj]

theorem setCore_hub (s : State) (c : CoreId) (k : Core) : HubKept s (s.setCore c k) := .of_hub rfl

theorem csigFire_hub (s : State) (c : CoreId) (lo : Nat) : HubKept s (csigFire s c lo) := by
  unfold csigFire
  split
  · split
    · exact State.addHubFlag_hub _ _ _
    · exact .of_hub rfl
  · exact .refl s

theorem settleFence_hub (s : State) (c : CoreId) : HubKept s (settleFence s c) := by
  unfold settleFence
  dsimp only
  split
  · exact .refl s
  · split
    · exact (setCore_hub _ _ _).trans (csigFire_hub _ _ _)
    · exact .refl s

theorem HubKept.jobState (h : HubKept s t) : t.hub.jobState = s.hub.jobState := by
  obtain ⟨_, _, _, _, _, h⟩ := h
  rw [h]

section commandComplete
variable {eng : Engine} {which : Nat} {x : EngCmd}

/-- R62: COMMAND_COMPLETE: the command leaves its engine, its CSIG fires, a FENCE may be settled. -/
theorem exec_commandComplete (hx : completable s c eng which = some x) (hr : s.cke.rewinding = false)
    (hj : s.hub.jobState ≠ .terminating) :
    exec (.commandComplete c eng which) s
      = .next (settleFence (csigFire (s.setCore c ((s.core c).completes eng x)) c x.lo) c) := by
  have heq : commandComplete c eng which s = settleFence (csigFire (s.setCore c ((s.core c).completes eng x)) c x.lo) c := by
    simp only [commandComplete, hx]
    rfl
  have hub : HubKept s (commandComplete c eng which s) := by
    rw [heq]
    exact (setCore_hub _ _ _).trans ((csigFire_hub _ _ _).trans (settleFence_hub _ _))
  have hsettle : (commandComplete c eng which s).settleJob = commandComplete c eng which s :=
    State.settleJob_of_not (by simpa using hr) (by rw [hub.jobState]; exact hj)
  have hexec : exec (.commandComplete c eng which) s = .next (afterSnoop s (commandComplete c eng which s).settleJob) := rfl
  rw [hexec, hsettle, afterSnoop_of_mem (by simp), heq]

theorem commandComplete_placed (hs : s.has64) :
    Placed c (((s.core c).completes eng x).csig x.lo).fenced s
      (settleFence (csigFire (s.setCore c ((s.core c).completes eng x)) c x.lo) c) :=
  settleFence_csigFire_placed hs x.lo

/-- What COMMAND_COMPLETE leaves of the engines is what the completing core holds. -/
theorem commandComplete_engines (hp : Placed c (((s.core c).completes eng x).csig x.lo).fenced s t) :
    (t.core c).m = ((s.core c).completes eng x).m ∧ (t.core c).v = ((s.core c).completes eng x).v ∧
      (t.core c).t = ((s.core c).completes eng x).t := by
  obtain ⟨hm, hv, ht⟩ := Core.fenced_engines (((s.core c).completes eng x).csig x.lo)
  exact ⟨(hp.m_eq.trans hm).trans (Core.csig_m _ _), (hp.v_eq.trans hv).trans (Core.csig_v _ _),
    (hp.t_eq.trans ht).trans (Core.csig_t _ _)⟩

end commandComplete

/-- R82: what the FENCE of `d` keeps. -/
def fenceInfo (k : Core) (d : Disp) : FenceInfo := ⟨fenceMask d.eff, k.q.nextId, d.idx, d.pass, d.lo, d.imm⟩

theorem fenceStalled_fence (k : Core) (d : Disp) : (fenceStalled (entered k) d).q.fence = some (fenceInfo k d) := by
  obtain ⟨-, -, -, -, -, -, -, hid, -⟩ := entered_flags k
  rw [fenceStalled, hid]
  rfl

/-- R82: with nothing left to wait for, the FENCE is done as it is dispatched. -/
theorem fence_done {lo imm : Word64} (h : Dispatches s c lo imm 0x0A noCodes noCodes d)
    (hn : ¬FenceWaits (s.core c) (fenceMask d.eff) (s.core c).q.nextId)
    (hp : Placed c (fenceStalled (entered (s.core c)) d).fenced s t) : SeqDone c lo s t ∧ (t.core c).q.fence = none := by
  have hd := (fenceDone_fenceStalled (s.core c) d _ _).trans (fenceDone_iff.2 hn)
  rw [Core.fenced_of_done (fenceStalled_fence _ d) hd rfl, Core.fencePast,
    show (fenceInfo (s.core c) d).lo = lo.toNat from h.checks.1] at hp
  obtain ⟨-, -, -, -, -, -, -, -, -, -, -, -, hfence, -⟩ :=
    dispatched_same { fenceStalled (entered (s.core c)) d with q.fence := none } ⟨d.idx, d.pass, lo.toNat, d.imm, d.imm⟩
  have hkeep : KeepsPlace (s.core c) { fenceStalled (entered (s.core c)) d with q.fence := none } :=
    (entered_keepsPlace _).trans ⟨rfl, rfl, rfl, rfl, rfl, rfl⟩
  refine ⟨hp.seqDone hkeep.dispatched, ?_⟩
  rw [hp.q_eq, Core.csig_fence]
  exact hfence

/-- R82: with a command left to wait for, the core stalls on the FENCE. -/
theorem fence_waits (hw : FenceWaits (s.core c) (fenceMask d.eff) (s.core c).q.nextId)
    (hp : Placed c (fenceStalled (entered (s.core c)) d).fenced s t) :
    (t.core c).q.seq = .stalled ∧ (t.core c).q.stall = 6 ∧ (t.core c).q.cmdIndex = (s.core c).q.cmdIndex ∧
      (t.core c).q.fence = some (fenceInfo (s.core c) d) ∧ (t.core c).q.flags = (s.core c).q.flags := by
  have hd := (fenceDone_fenceStalled (s.core c) d (fenceInfo (s.core c) d).mask (fenceInfo (s.core c) d).before).trans
    (Bool.eq_false_iff.2 fun hd => fenceDone_iff.1 hd hw)
  have hq := hp.q_eq
  rw [Core.fenced_of_waits (fenceStalled_fence _ d) hd] at hq
  obtain ⟨hflags, -, -, -, hidx, -⟩ := entered_flags (s.core c)
  refine ⟨by rw [hq]; rfl, by rw [hq]; rfl, by rw [hq]; exact hidx, ?_, by rw [hq]; exact hflags⟩
  rw [hq, fenceStalled_fence]

/-- R82: a completion settles the FENCE that waited for it. -/
theorem commandComplete_fence {eng : Engine} {x : EngCmd} {f : FenceInfo} (hf : (s.core c).q.fence = some f)
    (hst : (s.core c).q.seq = .stalled) (hp : Placed c (((s.core c).completes eng x).csig x.lo).fenced s t) :
    (¬FenceWaits (t.core c) f.mask f.before → (t.core c).q.fence = none ∧ (t.core c).q.seq = .dispatching) ∧
    (FenceWaits (t.core c) f.mask f.before → (t.core c).q.fence = some f ∧ (t.core c).q.seq = .stalled) := by
  obtain ⟨hm, hv, ht⟩ := Core.fenced_engines (((s.core c).completes eng x).csig x.lo)
  have hdone := fenceDone_of_engines (mask := f.mask) (before := f.before) (hp.m_eq.trans hm) (hp.v_eq.trans hv) (hp.t_eq.trans ht)
  have hf' : (((s.core c).completes eng x).csig x.lo).q.fence = some f := by rw [Core.csig_fence, Core.completes_q, hf]
  have hst' : (((s.core c).completes eng x).csig x.lo).q.seq = .stalled := by rw [Core.csig_seq, Core.completes_q, hst]
  constructor
  · intro hn
    rw [hp.q_eq, Core.fenced_of_done hf' (hdone ▸ fenceDone_iff.2 hn) hst', Core.fencePast, Core.csig_fence, Core.csig_seq]
    obtain ⟨-, -, -, hseq, -, -, -, -, -, -, -, -, hfence, -⟩ :=
      dispatched_same { ((s.core c).completes eng x).csig x.lo with q.fence := none } ⟨f.idx, f.pass, f.lo, f.imm, f.imm⟩
    exact ⟨hfence, hseq⟩
  · intro hw
    rw [hp.q_eq, Core.fenced_of_waits hf' (hdone ▸ Bool.eq_false_iff.2 fun hd => fenceDone_iff.1 hd hw)]
    exact ⟨hf', hst'⟩

/-- Settles O5: what is left of the engines' commands decides, at the dispatch and at each completion. -/
theorem fenceWaitsForItsEngines : Obligations.FenceWaitsForItsEngines := by
  unfold Obligations.FenceWaitsForItsEngines
  refine ⟨fun c lo imm s d hs h => ?_, fun c eng which s x f hs hx hr hj hf hst => ?_⟩
  · have hp := fence_dispatched hs h
    refine ⟨_, exec_fence c lo imm s, hp.frame, fun hn => fence_done h hn hp, fun hw => ?_⟩
    obtain ⟨hseq, hstall, hidx, hfence, hflags⟩ := fence_waits hw hp
    exact ⟨hseq, hstall, hidx, hfence, hflags, hp.others⟩
  · have hp := commandComplete_placed (c := c) (eng := eng) (x := x) hs
    obtain ⟨hm, hv, ht⟩ := commandComplete_engines hp
    obtain ⟨hdone, hwaits⟩ := commandComplete_fence hf hst hp
    refine ⟨_, exec_commandComplete hx hr hj, ?_, hdone, hwaits, hp.others, hp.frame⟩
    rw [engRun_of_engines hm hv ht, Core.completes_engRun, if_pos rfl]

end Sys2Proof.Machine
end

section
/-! SUPPORT. Recordings, replay and patches (R85 to R87). -/

namespace Sys2Proof.Machine
variable {s t : State} {c : CoreId} {k k' : Core} {d : Disp}

@[simp] theorem advance_slots : (advance k).q.slots = k.q.slots := by
  obtain ⟨-, -, -, -, -, -, -, -, -, h, -⟩ := advance_same k
  exact h

@[simp] theorem advance_openRec : (advance k).q.openRec = k.q.openRec := by
  obtain ⟨-, -, -, -, -, -, -, -, -, -, h, -⟩ := advance_same k
  exact h

/-! ### Recordings -/

section rec
variable (k : Core) (d : Disp)

/-- R85: what REC_BEGIN does to its core. -/
def recBegun : Core :=
  { k with
    q.slots := sset Slot.empty k.q.slots (d.eff % 16) { sget Slot.empty k.q.slots (d.eff % 16) with recd := some [], passes := 0 }
    q.openRec := some (d.eff % 16) }

/-- R85: what REC_END does to its core. -/
def recEnded : Core := { k with q.openRec := none }

/-- R86: what REPLAY does to its core. -/
def replayAsked (v : Word32) : Core :=
  { advance k with
    q.replaySlot := d.eff % 16
    q.replay := some ⟨d.eff % 16, fld d.eff 4 16 + 1, 0, 0, bitAt d.eff 20, fld d.eff 21 10, v⟩ }

end rec

theorem recBegun_keepsPlace (k : Core) (d : Disp) : KeepsPlace k (recBegun k d) := ⟨rfl, rfl, rfl, rfl, rfl, rfl⟩

theorem replayAsked_past (h : KeepsPlace k k') (d : Disp) (v : Word32) : Past k (replayAsked k' d v) := by
  obtain ⟨hseq, hidx, hflags, hm, hv, ht⟩ := h.advance
  exact ⟨hseq, hidx, hflags, hm, hv, ht⟩

theorem recEnded_keepsPlace (k : Core) : KeepsPlace k (recEnded k) := ⟨rfl, rfl, rfl, rfl, rfl, rfl⟩

section exec
variable (c : CoreId) (lo imm : Word64) (s : State)

theorem exec_recBegin : exec (.recBegin c lo imm) s = .next (dispatchWith s c lo imm 0x0C recBeginCodes noCodes
    fun s k d => csigFire (s.setCore c (advance (recBegun k d))) c d.lo) := rfl

theorem exec_recEnd : exec (.recEnd c lo imm) s = .next (dispatchWith s c lo imm 0x0D recEndCodes noCodes
    fun s k d => csigFire (s.setCore c (advance (recEnded k))) c d.lo) := rfl

theorem exec_replay : exec (.replay c lo imm) s = .next (dispatchWith s c lo imm 0x0E replayCodes noCodes
    fun s k d => csigFire (s.setCore c (replayAsked k d (s.hubFlag (fld d.eff 21 10)))) c d.lo) := rfl

end exec

/-- What a command that is done as it is dispatched keeps of the tile queues and parameters. -/
theorem Placed.tq_params {lo : Word64} (h : Placed c (k.csig lo.toNat) s t) (hk : k.q.tq = (s.core c).q.tq)
    (hk' : k.q.params = (s.core c).q.params) :
    (t.core c).q.tq = (s.core c).q.tq ∧ (t.core c).q.params = (s.core c).q.params := by
  rw [h.q_eq, Core.csig_tq, Core.csig_params]
  exact ⟨hk, hk'⟩

/-- A word that is dispatched, when its effect is to put the core `k` in its place and fire the word's CSIG. -/
theorem dispatchWith_csigFire {lo imm : Word64} {opc : Nat} {codes stall : Core → Disp → List Nat}
    {f : State → Core → Disp → Core} (hs : s.has64) (h : Dispatches s c lo imm opc codes stall d) :
    Placed c ((f (s.setCore c (entered (s.core c))) (entered (s.core c)) d).csig lo.toNat) s
      (dispatchWith s c lo imm opc codes stall fun s k d => csigFire (s.setCore c (f s k d)) c d.lo) :=
  h.checks.1 ▸ dispatchWith_placed hs h fun hu => Placed.csigFire hu d.lo

/-- Settles O6: each command's core, put in its place. -/
theorem recordingCommandsComplete : Obligations.RecordingCommandsComplete := by
  unfold Obligations.RecordingCommandsComplete
  intro c lo imm s d hs
  have hkeep := entered_keepsPlace (s.core c)
  refine ⟨fun h => ?begin_, fun h => ?end_, fun h => ?replay⟩
  case begin_ =>
    have hp := dispatchWith_csigFire hs h (f := fun _ k d => advance (recBegun k d))
    obtain ⟨htq, hpar⟩ := hp.tq_params (advance_tq.trans entered_tq) (advance_params.trans entered_params)
    refine ⟨_, exec_recBegin c lo imm s, hp.seqDone (hkeep.trans (recBegun_keepsPlace _ d)).advance, ?_, fun n => ?_, htq, hpar,
      hp.frame⟩
    · rw [hp.q_eq, Core.csig_openRec, advance_openRec, recBegun]
    · rw [hp.q_eq, Core.csig_slots, advance_slots, recBegun, sget_sset, entered_slots]
      split
      case isTrue hn => rw [hn]
      case isFalse => rfl
  case end_ =>
    have hp := dispatchWith_csigFire hs h (f := fun _ k _ => advance (recEnded k))
    obtain ⟨htq, hpar⟩ := hp.tq_params (advance_tq.trans entered_tq) (advance_params.trans entered_params)
    refine ⟨_, exec_recEnd c lo imm s, hp.seqDone (hkeep.trans (recEnded_keepsPlace _)).advance, ?_, ?_, htq, hpar, hp.frame⟩
    · rw [hp.q_eq, Core.csig_openRec, advance_openRec, recEnded]
    · rw [hp.q_eq, Core.csig_slots, advance_slots]
      exact entered_slots
  case replay =>
    have hp := dispatchWith_csigFire hs h (f := fun s k d => replayAsked k d (s.hubFlag (fld d.eff 21 10)))
    obtain ⟨htq, hpar⟩ := hp.tq_params (advance_tq.trans entered_tq) (advance_params.trans entered_params)
    refine ⟨_, exec_replay c lo imm s, hp.seqDone (replayAsked_past hkeep d _), ?_, ?_, htq, hpar, hp.frame⟩
    · rw [hp.q_eq, Core.csig_replay]
      rfl
    · rw [hp.q_eq, Core.csig_slots]
      exact advance_slots.trans entered_slots

/-! ### Patches -/

/-- R85: the recording of a dispatched word touches no patch, and the recording of the open slot alone. -/
theorem recordCmd_slots (k : Core) (d : Disp) (n : Nat) :
    (sget Slot.empty (recordCmd k d).q.slots n).patches = (sget Slot.empty k.q.slots n).patches ∧
    (k.q.openRec ≠ some n → (sget Slot.empty (recordCmd k d).q.slots n).recd = (sget Slot.empty k.q.slots n).recd) := by
  unfold recordCmd
  cases ho : k.q.openRec with
  | none => exact ⟨rfl, fun _ => rfl⟩
  | some m =>
    dsimp only
    rw [sget_sset]
    by_cases h : n = m
    · rw [if_pos h, h]
      exact ⟨rfl, fun hn => absurd rfl hn⟩
    · rw [if_neg h]
      exact ⟨rfl, fun _ => rfl⟩

theorem dispatched_slots (k : Core) (d : Disp) (n : Nat) :
    (sget Slot.empty (dispatched k d).q.slots n).patches = (sget Slot.empty k.q.slots n).patches ∧
    (k.q.openRec ≠ some n → (sget Slot.empty (dispatched k d).q.slots n).recd = (sget Slot.empty k.q.slots n).recd) := by
  unfold dispatched
  rw [advance_slots]
  split
  · exact ⟨rfl, fun _ => rfl⟩
  · exact recordCmd_slots k d n

/-- R87: what PATCH does to its core. -/
def patched (k : Core) (d : Disp) : Core :=
  { k with q.slots := sset Slot.empty k.q.slots (d.eff % 16) { sget Slot.empty k.q.slots (d.eff % 16) with
      patches := sset PatchEnt.off (sget Slot.empty k.q.slots (d.eff % 16)).patches (fld d.eff 4 3)
        ⟨bitAt d.eff 16, fld d.eff 8 8, fld d.eff 32 32⟩ } }

theorem patched_keepsPlace (k : Core) (d : Disp) : KeepsPlace k (patched k d) := ⟨rfl, rfl, rfl, rfl, rfl, rfl⟩

theorem patched_slots (k : Core) (d : Disp) (n : Nat) :
    (sget Slot.empty (patched k d).q.slots n).patches = (if n = d.eff % 16 then
      sset PatchEnt.off (sget Slot.empty k.q.slots n).patches (fld d.eff 4 3) ⟨bitAt d.eff 16, fld d.eff 8 8, fld d.eff 32 32⟩
      else (sget Slot.empty k.q.slots n).patches) ∧
    (sget Slot.empty (patched k d).q.slots n).recd = (sget Slot.empty k.q.slots n).recd := by
  rw [patched, sget_sset]
  by_cases h : n = d.eff % 16
  · rw [if_pos h, if_pos h, h]
    exact ⟨rfl, rfl⟩
  · rw [if_neg h, if_neg h]
    exact ⟨rfl, rfl⟩

/-- R87: what an enabled entry of a slot adds to a parameter register. -/
def patchDelta (sl : Slot) (n i : Nat) : Int :=
  let p := sget PatchEnt.off sl.patches i
  if p.en ∧ p.pidx = n then sext 32 p.delta else 0

/-- R87: one patch entry applied. -/
def applyPatch (sl : Slot) (k : Core) (i : Nat) : Core :=
  let p := sget PatchEnt.off sl.patches i
  if p.en then k.setParam p.pidx (k.param p.pidx + BitVec.ofInt 64 (sext 32 p.delta)) else k

theorem applyPatch_param (sl : Slot) (k : Core) (i n : Nat) :
    (applyPatch sl k i).param n = k.param n + BitVec.ofInt 64 (patchDelta sl n i) := by
  unfold applyPatch patchDelta
  dsimp only
  by_cases h : (sget PatchEnt.off sl.patches i).en = true
  · rw [if_pos h, Core.param_setParam]
    by_cases hn : (sget PatchEnt.off sl.patches i).pidx = n
    · simp [h, hn]
    · simp [hn, Ne.symm hn]
  · simp [h]

theorem foldl_applyPatch_param (sl : Slot) (l : List Nat) (k : Core) (n : Nat) :
    (l.foldl (applyPatch sl) k).param n = k.param n + BitVec.ofInt 64 (l.map (patchDelta sl n)).sum := by
  induction l generalizing k with
  | nil => simp
  | cons i l ih =>
    rw [List.foldl_cons, ih, applyPatch_param, List.map_cons, List.sum_cons, BitVec.ofInt_add, BitVec.add_assoc]

/-- R87: a core but for its parameter registers. -/
theorem foldl_applyPatch_same (sl : Slot) (l : List Nat) (k : Core) :
    l.foldl (applyPatch sl) k = { k with q.params := (l.foldl (applyPatch sl) k).q.params } := by
  induction l generalizing k with
  | nil => rfl
  | cons i l ih =>
    have h : applyPatch sl k i = { k with q.params := (applyPatch sl k i).q.params } := by
      unfold applyPatch
      dsimp only
      split <;> rfl
    rw [List.foldl_cons, ih, h]

theorem applyPatches_eq (k : Core) (sl : Slot) : applyPatches k sl = (List.range 8).foldl (applyPatch sl) k := rfl

theorem applyPatches_slots (k : Core) (sl : Slot) : (applyPatches k sl).q.slots = k.q.slots := by
  rw [applyPatches_eq, foldl_applyPatch_same]

/-- R86, R87: the core as a replay pass begins. -/
def passBegun (k : Core) (r : Replay) : Core :=
  let n := (k.recd r.slot).length
  let sl := sget Slot.empty k.q.slots r.slot
  let k1 := applyPatches k sl
  { k1 with
    q.slots := sset Slot.empty k1.q.slots r.slot { sl with passes := sl.passes + 1 }
    q.seq := .dispatching, q.stall := 0
    q.replay := if n = 0 ∧ r.count ≤ r.begun + 1 then none else some { r with begun := r.begun + 1, pos := 0 }
    q.replayPass := if n = 0 then (sl.passes + 1) % 2 ^ 20 else k1.q.replayPass }

theorem passBegun_param (k : Core) (r : Replay) (n : Nat) : (passBegun k r).param n
    = k.param n + BitVec.ofInt 64 ((List.range 8).map (patchDelta (sget Slot.empty k.q.slots r.slot) n)).sum := by
  rw [← foldl_applyPatch_param, ← applyPatches_eq]
  rfl

/-- A core that may begin a replay pass: it dispatches or is stalled, with no WAIT, FENCE or CALL pending. -/
def Core.mayPass (k : Core) (r : Replay) : Prop :=
  k.q.replay = some r ∧ (k.q.seq = .dispatching ∨ k.q.seq = .stalled) ∧ k.q.wait = none ∧ k.q.fence = none ∧ k.q.call = none

/-- R86: what REPLAY_PASS does on a core that may begin a pass. -/
theorem exec_replayPass {r : Replay} (h : (s.core c).mayPass r) : exec (.replayPass c) s = .next (
    if r.begun ≠ 0 ∧ r.pos < ((s.core c).recd r.slot).length then s
    else if r.hostsync && !reached (s.hubFlag r.flag) (r.v + BitVec.ofNat 32 (r.begun + 1)) then s.stallOn c 7
    else s.setCore c (passBegun (s.core c) r)) := by
  obtain ⟨hr, hq, hw, hf, hc⟩ := h
  have hq' : (!(decide ((s.core c).q.seq = .dispatching) || decide ((s.core c).q.seq = .stalled)) || (s.core c).q.wait.isSome ||
      (s.core c).q.fence.isSome || (s.core c).q.call.isSome) = false := by
    simpa [hw, hf, hc, or_iff_not_imp_left] using hq
  have hx : exec (.replayPass c) s = execReplayPass c s := rfl
  simp only [hx, execReplayPass, hr, hq', Bool.false_eq_true, if_false]
  split
  · rfl
  · split <;> rfl

theorem exec_patch (c : CoreId) (lo imm : Word64) (s : State) :
    exec (.patch c lo imm) s = .next (dispatchWith s c lo imm 0x0F noCodes noCodes (seqRun c patched)) := rfl

/-- Settles O7: PATCH writes its entry; a pass adds up the entries of its slot, one after the other. -/
theorem replayPassAppliesPatches : Obligations.ReplayPassAppliesPatches := by
  unfold Obligations.ReplayPassAppliesPatches
  refine ⟨fun c lo imm s d hs h => ?patch, fun c s r hs hr hq hw hf hc => ?pass⟩
  case patch =>
    have hp := seqRun_placed (f := patched) hs h
    obtain ⟨-, -, -, -, -, hslots, hopen, -⟩ := entered_flags (s.core c)
    obtain ⟨htq', hpar'⟩ := hp.tq_params (dispatched_tq.trans entered_tq) (dispatched_params.trans entered_params)
    refine ⟨_, exec_patch c lo imm s, hp.seqDone ((entered_keepsPlace _).trans (patched_keepsPlace _ d)).dispatched, fun n => ?_, fun n hn => ?_,
      htq', hpar', hp.frame⟩
    · rw [hp.q_eq, Core.csig_slots, (dispatched_slots _ d n).1, (patched_slots _ d n).1, hslots]
    · rw [hp.q_eq, Core.csig_slots, (dispatched_slots _ d n).2 (hopen ▸ hn), (patched_slots _ d n).2, hslots]
  case pass =>
    have hx := exec_replayPass (c := c) ⟨hr, hq, hw, hf, hc⟩
    refine ⟨fun hb hpos => hx.trans (congrArg _ (if_pos ⟨hb, hpos⟩)), fun hbegin => ⟨fun hsync => ?_, fun hsync hwait => ?_⟩⟩
    all_goals rw [if_neg (by omega)] at hx
    · rw [if_neg (by simpa using hsync)] at hx
      have hcore : (s.setCore c (passBegun (s.core c) r)).core c = passBegun (s.core c) r := by
        rw [State.core_setCore hs, if_pos rfl]
      refine ⟨_, hx, ?_, ?_, fun n => ?_, fun x hxc => ?_, State.setCore_sameOutside⟩
      · rw [hcore]
        rfl
      · rw [hcore, passBegun, applyPatches_slots, sget_sset, if_pos rfl]
      · rw [hcore, passBegun_param]
        rfl
      · rw [State.core_setCore hs, if_neg hxc]
    · rw [if_pos (by simp [hsync, hwait])] at hx
      have hcore : ∀ x, (s.stallOn c 7).core x = _ := fun x => State.core_modCore hs c x _
      refine ⟨_, hx, ?_, ?_, ?_, ?_, fun x hxc => ?_, State.setCore_sameOutside⟩
      · rw [hcore, if_pos rfl]
      · rw [hcore, if_pos rfl]
      · rw [hcore, if_pos rfl]
      · rw [hcore, if_pos rfl]
        exact hr
      · rw [hcore, if_neg hxc]

end Sys2Proof.Machine
end

section
/-! SUPPORT. Dispatch to the engines (R61 to R63, R69): the command an engine's queue receives and what its core keeps. -/

namespace Sys2Proof.Machine
variable {s t : State} {c : CoreId} {k k' : Core} {d : Disp}

/-! ### Marks of dispatched work -/

/-- A core changed in what its engines note of dispatched work alone: shadows of weights, rows, slots and banks. -/
structure MarksOnly (k k' : Core) : Prop where
  q : k'.q = k.q
  queue : ∀ f, k'.engQueue f = k.engQueue f
  run : ∀ f, k'.engRun f = k.engRun f
  oc : k'.v.oc = k.v.oc
  acc : k'.m.acc = k.m.acc

namespace MarksOnly

theorem refl (k : Core) : MarksOnly k k := ⟨rfl, fun _ => rfl, fun _ => rfl, rfl, rfl⟩

theorem trans {k'' : Core} (h : MarksOnly k k') (h' : MarksOnly k' k'') : MarksOnly k k'' :=
  ⟨h'.q.trans h.q, fun f => (h'.queue f).trans (h.queue f), fun f => (h'.run f).trans (h.run f), h'.oc.trans h.oc, h'.acc.trans h.acc⟩

theorem foldl {α : Type} (l : List α) {f : Core → α → Core} (hf : ∀ k a, MarksOnly k (f k a)) (k : Core) :
    MarksOnly k (l.foldl f k) := by
  induction l generalizing k with
  | nil => exact refl k
  | cons a l ih => exact (hf k a).trans (ih _)

theorem of_wShadow (k : Core) (w : SMap ArrW) : MarksOnly k { k with m.wShadow := w } :=
  ⟨rfl, fun f => by cases f <;> rfl, fun f => by cases f <;> rfl, rfl, rfl⟩

theorem of_cfgDispatched (k : Core) (w : SMap Bool) : MarksOnly k { k with v.cfgDispatched := w } :=
  ⟨rfl, fun f => by cases f <;> rfl, fun f => by cases f <;> rfl, rfl, rfl⟩

theorem of_lutNext (k : Core) (b : Bool) : MarksOnly k { k with v.lutNext := b } :=
  ⟨rfl, fun f => by cases f <;> rfl, fun f => by cases f <;> rfl, rfl, rfl⟩

theorem markRows (k : Core) (arr row n : Nat) : MarksOnly k (markRows k arr row n) :=
  ⟨rfl, fun f => by cases f <;> rfl, fun f => by cases f <;> rfl, rfl, rfl⟩

theorem markTile (k : Core) (h : Nat) : MarksOnly k (markTile h k) := by
  unfold Machine.markTile
  dsimp only
  split
  · exact markRows k _ _ _
  · exact refl k

theorem multiMarks (k : Core) (e : EngCmd) : MarksOnly k (multiMarks k e) := by
  unfold Machine.multiMarks
  exact foldl _ (fun k q => foldl _ (fun k r => markRows k _ _ _) k) k

theorem markDst (k : Core) (d : Disp) : MarksOnly k (markDst k d) := by
  unfold Machine.markDst
  split
  · exact refl k
  · split
    · exact markTile k _
    · exact refl k

theorem tmvMark (k : Core) (d : Disp) : MarksOnly k (tmvMark k d) := by
  unfold Machine.tmvMark
  split
  · exact refl k
  · split
    · exact markTile k _
    · exact refl k

end MarksOnly

/-! ### Joining a queue -/

theorem enqueue_same (k : Core) (e : Engine) (x : EngCmd) : (k.enqueue e x).q = k.q ∧ (k.enqueue e x).v.oc = k.v.oc ∧
    (k.enqueue e x).m.acc = k.m.acc ∧ (∀ f, (k.enqueue e x).engRun f = k.engRun f) ∧
    (k.enqueue e x).engQueue e = k.engQueue e ++ [x] ∧ ∀ f, f ≠ e → (k.enqueue e x).engQueue f = k.engQueue f := by
  refine ⟨by cases e <;> rfl, by cases e <;> rfl, by cases e <;> rfl, fun f => by cases e <;> cases f <;> rfl,
    by cases e <;> rfl, fun f hf => ?_⟩
  cases e <;> cases f <;> simp_all [Core.enqueue, Core.engQueue]

/-- R69, R73: the core once the command `x`, which pops `a`, `b` and `q`, is in the queue of its engine. -/
def queued (e : Engine) (k : Core) (d : Disp) (x : EngCmd) (tq : SMap (List QEntry)) : Core :=
  { k with q.tq := shadowAfter tq d.lo x.qs0 x.qs1 x.qd (some k.q.nextId), q.nextId := k.q.nextId + 1 }.enqueue e x

theorem queued_engines (e : Engine) (k : Core) (d : Disp) (x : EngCmd) (tq : SMap (List QEntry)) :
    (queued e k d x tq).v.oc = k.v.oc ∧ (queued e k d x tq).m.acc = k.m.acc ∧
    (∀ f, (queued e k d x tq).engRun f = k.engRun f) ∧ (queued e k d x tq).engQueue e = k.engQueue e ++ [x] ∧
    ∀ f, f ≠ e → (queued e k d x tq).engQueue f = k.engQueue f := by
  obtain ⟨-, hoc, hacc, hrun, hq, hqs⟩ := enqueue_same
    { k with q.tq := shadowAfter tq d.lo x.qs0 x.qs1 x.qd (some k.q.nextId), q.nextId := k.q.nextId + 1 } e x
  refine ⟨hoc, hacc, fun f => (hrun f).trans (by cases f <;> rfl), hq.trans ?_, fun f hf => (hqs f hf).trans (by cases f <;> rfl)⟩
  cases e <;> rfl

theorem queued_q (e : Engine) (k : Core) (d : Disp) (x : EngCmd) (tq : SMap (List QEntry)) : (queued e k d x tq).q = { k.q with
    tq := shadowAfter tq d.lo x.qs0 x.qs1 x.qd (some k.q.nextId), nextId := k.q.nextId + 1 } :=
  (enqueue_same _ e x).1

theorem entered_engQueue (k : Core) (f : Engine) : (entered k).engQueue f = k.engQueue f := by
  obtain ⟨-, -, -, -, -, -, -, -, hm, hv, ht, -⟩ := entered_flags k
  exact engQueue_of_engines hm hv ht f

theorem entered_engRun (k : Core) (f : Engine) : (entered k).engRun f = k.engRun f := by
  obtain ⟨-, -, -, -, -, -, -, -, hm, hv, ht, -⟩ := entered_flags k
  exact engRun_of_engines hm hv ht f

/-- R61 to R63, R69: what a core looks like from outside once a command has joined an engine's queue. -/
theorem Placed.engineQueued {e : Engine} {x : EngCmd} {a b q : Option QEntry} {tq : SMap (List QEntry)} {r : List Region}
    {bk : Bool} {ap : Nat} (hpop : popAll (s.core c).q.tq d.lo = some (a, b, q, tq)) (hx : x = mkCmd (entered (s.core c)) d a b q r bk ap)
    (hk : MarksOnly (queued e (entered (s.core c)) d x tq) k) (h : Placed c (dispatched k d) s t) : EngineQueued c e d x s t := by
  obtain ⟨hflags, hpar, -, hrep, hidx, -, -, hid, hm, hv, ht, -⟩ := entered_flags (s.core c)
  obtain ⟨hflags', hpar', htq', hseq', hm', hv', ht', -, hidx', -, hid', -⟩ := dispatched_same k d
  obtain ⟨hoc, hacc, hrun, hq, hqs⟩ := queued_engines e (entered (s.core c)) d x tq
  have hkq : k.q = _ := hk.q.trans (queued_q e (entered (s.core c)) d x tq)
  have hrun' : ∀ f, (t.core c).engRun f = k.engRun f :=
    engRun_of_engines (h.m_eq.trans hm') (h.v_eq.trans hv') (h.t_eq.trans ht')
  have hqueue' : ∀ f, (t.core c).engQueue f = k.engQueue f :=
    engQueue_of_engines (h.m_eq.trans hm') (h.v_eq.trans hv') (h.t_eq.trans ht')
  refine ⟨?_, ⟨?_, ?_, ?_, ?_, ?_, ?_⟩, ⟨tq, ?_, ?_⟩, fun f hf => ?_, fun f => ?_, ?_, ?_, fun hr => ?_, ?_, ?_, ?_, ?_, h.others⟩
  · rw [hqueue', hk.queue, hq, entered_engQueue]
  · rw [hx]; exact hid
  · rw [hx]; rfl
  · rw [hx]; rfl
  · rw [hx]; rfl
  · rw [hx]; rfl
  · rw [hx]; rfl
  · rw [hx]; exact hpop
  · rw [h.q_eq, htq', hkq, hx]
    rfl
  · rw [hqueue', hk.queue, hqs f hf, entered_engQueue]
  · rw [hrun', hk.run, hrun, entered_engRun]
  · rw [h.q_eq, hid', hkq, hid]
  · rw [h.q_eq, hseq']
  · rw [h.q_eq, hidx' (by rw [hkq]; exact hrep.trans hr), hkq, hidx]
  · rw [h.q_eq, hflags', hkq, hflags]
  · rw [h.q_eq, hpar', hkq, hpar]
  · rw [h.v_eq, hv', hk.oc, hoc, hv]
  · rw [h.m_eq, hm', hk.acc, hacc, hm]

section engDispatch
variable {lo imm : Word64} {opc : Nat} {codes stall : Core → Disp → List Nat} {e : Engine} {regions : Core → Disp → List Region}
  {bank : Core → Disp → Bool} {ap : Core → Disp → Nat} {post : Core → Disp → Core}

/-- R16, R73, R160: the command `x` has joined the queue of its engine with the regions, the bank, the index policy and the table
generation of its dispatch, and `post` has marked its work on the core. -/
structure Joins (c : CoreId) (e : Engine) (d : Disp) (r : List Region) (bk : Bool) (post : Core → Core) (s t : State) (x : EngCmd) :
    Prop where
  queued : EngineQueued c e d x s t
  frame : SameOutside [.cores, .hub, .pmu, .sent] s t
  regions : x.regions = r
  bank : x.bank = bk
  pol : x.pol = (s.core c).t.idxpolReg.toNat
  gen : x.gen = (s.core c).v.lutGen
  marked : ∃ k, k.engQueue e = (s.core c).engQueue e ++ [x] ∧ k.v.lutNext = (s.core c).v.lutNext ∧ (t.core c).m = (post k).m ∧
    (t.core c).v = (post k).v

/-- R61 to R63, R69: a dispatched command of an engine waits in its queue. -/
theorem engDispatch_joins (hs : s.has64) (h : Dispatches s c lo imm opc codes stall d) (hpost : ∀ k, MarksOnly k (post k d)) :
    ∃ t x, dispatchWith s c lo imm opc codes stall (engDispatch e regions bank ap post c) = t ∧
      Joins c e d (regions (entered (s.core c)) d) (bank (entered (s.core c)) d) (fun k => post k d) s t x := by
  obtain ⟨-, -, -, hpop, -⟩ := h.checks
  obtain ⟨⟨a, b, q, tq⟩, hpop⟩ := Option.isSome_iff_exists.1 hpop
  obtain ⟨-, -, htq, -, -, -, -, -, -, hv, ht, -⟩ := entered_flags (s.core c)
  obtain ⟨x, hx⟩ : ∃ x, x = mkCmd (entered (s.core c)) d a b q (regions (entered (s.core c)) d) (bank (entered (s.core c)) d)
    (ap (entered (s.core c)) d) := ⟨_, rfl⟩
  have hp : Placed c (dispatched (post (queued e (entered (s.core c)) d x tq) d) d) s
      (dispatchWith s c lo imm opc codes stall (engDispatch e regions bank ap post c)) :=
    dispatchWith_placed hs h fun hu => by
      simp only [engDispatch, htq, hpop]
      subst hx
      exact Placed.setCore hu
  obtain ⟨-, -, -, hq, -⟩ := queued_engines e (entered (s.core c)) d x tq
  obtain ⟨-, -, -, -, hm', hv', -⟩ := dispatched_same (post (queued e (entered (s.core c)) d x tq) d) d
  have hnext : (queued e (entered (s.core c)) d x tq).v.lutNext = (entered (s.core c)).v.lutNext := by cases e <;> rfl
  refine ⟨_, x, rfl, hp.engineQueued hpop hx (hpost _), hp.frame, by rw [hx]; rfl, by rw [hx]; rfl, by rw [hx, ← ht]; rfl,
    by rw [hx, ← hv]; rfl, queued e (entered (s.core c)) d x tq, hq.trans (by rw [entered_engQueue]), hnext.trans (by rw [hv]),
    hp.m_eq.trans hm', hp.v_eq.trans hv'⟩

end engDispatch

/-! ### The marks of each command -/

section marks
variable (k : Core) (d : Disp)

/-- R104: the weight shadow a LOADW leaves. -/
def loadwMark : Core :=
  match lastCmd k.m.queue with
  | none => k
  | some e =>
    let t := tileOf (hOf e.qs0)
    { k with m.wShadow := (List.range 4).foldl (fun m a =>
        if bitAt d.eff a then sset ArrW.none m a ⟨true, t.fcode, t.cols, t.rows, []⟩ else m) k.m.wShadow }

/-- R124: the rows a STREAM or a CLEAR will have written. -/
def streamMark : Core :=
  match lastCmd k.m.queue with
  | none => k
  | some e => markTile (hOf e.qd) k

/-- R116, R124: the shadows a MULTIPASS leaves. -/
def multipassMark : Core :=
  match lastCmd k.m.queue with
  | none => k
  | some e => { multiMarks k e with m.wShadow := [] }

/-- R161: a swapping load decides which bank later loads find inactive. -/
def tblMark : Core := if tblSwaps d.eff then { k with v.lutNext := !k.v.lutNext } else k

theorem loadwMark_marksOnly : MarksOnly k (loadwMark k d) := by
  unfold loadwMark
  split
  · exact .refl k
  · exact .of_wShadow k _

theorem streamMark_marksOnly : MarksOnly k (streamMark k) := by
  unfold streamMark
  split
  · exact .refl k
  · exact .markTile k _

theorem multipassMark_marksOnly : MarksOnly k (multipassMark k) := by
  unfold multipassMark
  split
  · exact .refl k
  · exact (MarksOnly.multiMarks k _).trans (.of_wShadow _ _)

theorem tblMark_marksOnly : MarksOnly k (tblMark k d) := by
  unfold tblMark
  split
  · exact .of_lutNext k _
  · exact .refl k

theorem multipassMark_wShadow {l : List EngCmd} {x : EngCmd} (h : k.m.queue = l ++ [x]) : (multipassMark k).m.wShadow = [] := by
  rw [multipassMark, lastCmd, h, List.getLast?_concat]

theorem tblMark_lutNext : (tblMark k d).v.lutNext = if tblSwaps d.eff then !k.v.lutNext else k.v.lutNext := by
  unfold tblMark
  split <;> rfl

/-! The regions and banks of a dispatch do not depend on its snapshot (R365). -/

theorem drainRegions_entered : drainRegions (entered k) d = drainRegions k d := by
  unfold entered
  split <;> rfl

theorem tmvRegions_entered : tmvRegions (entered k) d = tmvRegions k d := by
  unfold entered
  split <;> rfl

theorem lutActive_entered : (entered k).v.lutActive = k.v.lutActive := by
  unfold entered
  split <;> rfl

end marks

/-- Settles O9: each command joins the MXU queue. -/
theorem matrixCommandsJoinTheirQueue : Obligations.MatrixCommandsJoinTheirQueue := by
  unfold Obligations.MatrixCommandsJoinTheirQueue
  intro c lo imm s d hs
  refine ⟨fun h => ?loadw, fun h => ?stream, fun h => ?drain, fun h => ?multipass, fun h => ?clear⟩
  case loadw =>
    obtain ⟨t, x, rfl, hx⟩ := engDispatch_joins (e := .mxu) (regions := fun k d => tileRegions k d.lo 1) (bank := fun _ _ => false)
      (ap := fun _ _ => 0) hs h fun k => loadwMark_marksOnly k d
    exact ⟨_, x, rfl, hx.queued, hx.frame⟩
  case stream =>
    obtain ⟨t, x, rfl, hx⟩ := engDispatch_joins (e := .mxu) (regions := fun k d => tileRegions k d.lo 1) (bank := fun _ _ => false)
      (ap := fun _ _ => 0) (post := fun k _ => streamMark k) hs h streamMark_marksOnly
    exact ⟨_, x, rfl, hx.queued, hx.frame⟩
  case drain =>
    obtain ⟨t, x, rfl, hx⟩ := engDispatch_joins (e := .mxu) (regions := drainRegions) (bank := fun _ _ => false)
      (ap := fun _ _ => 0) (post := fun k _ => k) hs h MarksOnly.refl
    exact ⟨_, x, rfl, hx.queued, hx.regions.trans (drainRegions_entered _ d), hx.frame⟩
  case multipass =>
    obtain ⟨t, x, ht, hx⟩ := engDispatch_joins (e := .mxu) (regions := mpRegions) (bank := fun _ _ => false)
      (ap := fun _ _ => 0) (post := fun k _ => multipassMark k) hs h multipassMark_marksOnly
    obtain ⟨k, hq, -, hm, -⟩ := hx.marked
    have hsh : (t.core c).m.wShadow = [] := by rw [hm]; exact multipassMark_wShadow k hq
    exact ⟨t, x, ht ▸ rfl, hx.queued, hsh, hx.frame⟩
  case clear =>
    obtain ⟨t, x, rfl, hx⟩ := engDispatch_joins (e := .mxu) (regions := fun k d => tileRegions k d.lo 1) (bank := fun _ _ => false)
      (ap := fun _ _ => 0) (post := fun k _ => streamMark k) hs h streamMark_marksOnly
    exact ⟨_, x, rfl, hx.queued, hx.frame⟩

/-- Settles O10: each command joins the VCE queue; the bank is that of the dispatch, and a swapping load turns the next one. -/
theorem vectorCommandsJoinTheirQueue : Obligations.VectorCommandsJoinTheirQueue := by
  unfold Obligations.VectorCommandsJoinTheirQueue
  intro c lo imm s d hs
  refine ⟨fun h => ?cfg, fun h => ?run, fun h => ?tblload, fun h => ?perm, fun h => ?reduce, fun h => ?scan⟩
  case cfg =>
    obtain ⟨t, x, rfl, hx⟩ := engDispatch_joins (e := .vce) (regions := fun _ d => [lineRegion (fld d.eff 0 17) 1 false])
      (bank := fun _ _ => false) (ap := fun _ _ => 0)
      (post := fun k d => { k with v.cfgDispatched := sset false k.v.cfgDispatched (fld d.eff 17 3) true }) hs h
      fun k => .of_cfgDispatched k _
    exact ⟨_, x, rfl, hx.queued, hx.frame⟩
  case run =>
    obtain ⟨t, x, rfl, hx⟩ := engDispatch_joins (e := .vce) (regions := runRegions) (bank := fun k _ => k.v.lutActive)
      (ap := fun _ _ => 0) hs h fun k => MarksOnly.markDst k d
    exact ⟨_, x, rfl, hx.queued, hx.bank.trans (lutActive_entered _), hx.gen, hx.frame⟩
  case tblload =>
    obtain ⟨t, x, ht, hx⟩ := engDispatch_joins (e := .vce) (regions := fun k d => tileRegions k d.lo 1) (bank := tblBank)
      (ap := fun _ _ => 0) (post := tblMark) hs h fun k => tblMark_marksOnly k d
    obtain ⟨k, -, hn, -, hv⟩ := hx.marked
    have hnext : (t.core c).v.lutNext = if tblSwaps d.eff then !(s.core c).v.lutNext else (s.core c).v.lutNext := by
      rw [hv, tblMark_lutNext, hn]
    exact ⟨t, x, ht ▸ rfl, hx.queued, hnext, hx.frame⟩
  case perm =>
    obtain ⟨t, x, rfl, hx⟩ := engDispatch_joins (e := .vce) (regions := fun k d => tileRegions k d.lo 1) (bank := fun _ _ => false)
      (ap := fun _ _ => 0) (post := fun k _ => k) hs h MarksOnly.refl
    exact ⟨_, x, rfl, hx.queued, hx.frame⟩
  case reduce =>
    obtain ⟨t, x, rfl, hx⟩ := engDispatch_joins (e := .vce) (regions := fun k d => tileRegions k d.lo 1) (bank := fun _ _ => false)
      (ap := fun _ _ => 0) hs h fun k => MarksOnly.markDst k d
    exact ⟨_, x, rfl, hx.queued, hx.frame⟩
  case scan =>
    obtain ⟨t, x, rfl, hx⟩ := engDispatch_joins (e := .vce) (regions := fun k d => tileRegions k d.lo 1) (bank := fun _ _ => false)
      (ap := fun _ _ => 0) hs h fun k => MarksOnly.markDst k d
    exact ⟨_, x, rfl, hx.queued, hx.frame⟩

/-- R16, R73, R223: the commands of the mover differ in their opcode alone. -/
theorem tmvDispatch_joins {opc : Nat} {lo imm : Word64} (hs : s.has64)
    (h : Dispatches s c lo imm opc (tmvCodes opc) (fun k d => engStalls k .tmv (tmvRegions k d).length) d) :
    ∃ x, EngineQueued c .tmv d x s (tmvDispatch opc c lo imm s) ∧ x.regions = tmvRegions (s.core c) d ∧
      x.pol = (s.core c).t.idxpolReg.toNat ∧ SameOutside [.cores, .hub, .pmu, .sent] s (tmvDispatch opc c lo imm s) := by
  obtain ⟨t, x, rfl, hx⟩ := engDispatch_joins (e := .tmv) (regions := tmvRegions) (bank := fun _ _ => false)
    (ap := tmvAp) hs h fun k => MarksOnly.tmvMark k d
  exact ⟨x, hx.queued, hx.regions.trans (tmvRegions_entered _ d), hx.pol, hx.frame⟩

/-- Settles O11: the four commands are one dispatch of four opcodes. -/
theorem moverCommandsJoinTheirQueue : Obligations.MoverCommandsJoinTheirQueue := by
  unfold Obligations.MoverCommandsJoinTheirQueue
  intro c lo imm s d hs
  refine ⟨fun h => ?_, fun h => ?_, fun h => ?_, fun h => ?_⟩ <;> obtain ⟨x, hx⟩ := tmvDispatch_joins hs h
  · exact ⟨_, x, rfl, hx⟩
  · exact ⟨_, x, rfl, hx⟩
  · exact ⟨_, x, rfl, hx⟩
  · exact ⟨_, x, rfl, hx⟩

/-- Settles O12: the three commands wait at the hub, an RSIGNAL without regions. -/
theorem hubBoundCommandsJoinTheirQueue : Obligations.HubBoundCommandsJoinTheirQueue := by
  unfold Obligations.HubBoundCommandsJoinTheirQueue
  intro c lo imm s d hs
  refine ⟨fun h => ?rsignal, fun h => ?bucket, fun h => ?reduce⟩
  case rsignal =>
    obtain ⟨t, x, rfl, hx⟩ := engDispatch_joins (e := .hub) (regions := fun _ _ => []) (bank := fun _ _ => false)
      (ap := fun _ _ => 0) (post := fun k _ => k) hs h MarksOnly.refl
    exact ⟨_, x, rfl, hx.queued, hx.frame⟩
  case bucket =>
    obtain ⟨t, x, rfl, hx⟩ := engDispatch_joins (e := .hub) (regions := fun k d => tileRegions k d.lo 1) (bank := fun _ _ => false)
      (ap := fun _ _ => 0) (post := fun k _ => k) hs h MarksOnly.refl
    exact ⟨_, x, rfl, hx.queued, hx.frame⟩
  case reduce =>
    obtain ⟨t, x, rfl, hx⟩ := engDispatch_joins (e := .hub) (regions := fun k d => tileRegions k d.lo 1) (bank := fun _ _ => false)
      (ap := fun _ _ => 0) (post := fun k _ => k) hs h MarksOnly.refl
    exact ⟨_, x, rfl, hx.queued, hx.frame⟩

end Sys2Proof.Machine
end

section
/-! SUPPORT. Completion, deadlock and lapse (R62, R84, R417). -/

namespace Sys2Proof.Machine
variable {s t : State} {c : CoreId}

/-! ### Halting every core -/

theorem core_halted (s : State) (c : CoreId) : State.core { s with cores := s.cores.map haltCore } c = haltCore (s.core c) := by
  simp only [State.core, List.getD_eq_getElem?_getD, List.getElem?_map]
  cases s.cores[c.val]? <;> rfl

@[simp] theorem haltCore_flags (k : Core) : (haltCore k).q.flags = k.q.flags := by
  unfold haltCore
  split <;> rfl

/-- R398: a running job that halts stops every core and keeps the rest. -/
theorem State.haltJob_of_running {j : Job} {code : Nat} (hj : s.hub.job = some j) (hr : s.hub.jobState = .running) :
    (s.haltJob code).hub = { s.hub with
      jobState := .halted, job := some { j with haltCode := some (j.haltCode.getD code) } } ∧
    (∀ c, (s.haltJob code).core c = haltCore (s.core c)) ∧ SameOutside [.cores, .hub] s (s.haltJob code) := by
  have h : s.haltJob code = { s with
      cores := s.cores.map haltCore, hub.jobState := .halted, hub.job := some { j with haltCode := some (j.haltCode.getD code) } } := by
    simp only [State.haltJob, hj, hr]
  exact ⟨by rw [h], fun c => by rw [h]; exact core_halted s c, fun p hp => by cases p <;> simp_all [StatePart.same]⟩

theorem HubKept.job (h : HubKept s t) : t.hub.job = s.hub.job := by
  obtain ⟨_, _, _, _, _, h⟩ := h
  rw [h]

/-! ### A lapsing credit -/

theorem State.askAgain_credits (s : State) (r : PwrUnit × Nat) :
    (s.askAgain r).pwr.credits = s.pwr.credits ∧ (s.askAgain r).pwr.releasedHist = s.pwr.releasedHist := by
  simp only [State.askAgain, State.askCredit]
  split_ifs <;> exact ⟨rfl, rfl⟩

theorem State.askWanted_credits (s : State) (x : Credit) : (s.askWanted x).pwr.credits = s.pwr.credits := by
  unfold State.askWanted
  split
  · exact (s.askAgain_credits _).1
  · rfl

theorem State.lapse_sameOutside (s : State) (w : PwrUnit) : SameOutside [.pwr] s (s.lapse w) := fun p hp => by
  cases p <;> simp_all [StatePart.same]

theorem State.lapse_of_allowed {w : PwrUnit} {x : Credit} (hx : s.pwr.credits.find? (fun y => y.who = w) = some x)
    (h : s.scaled w x.size ≤ s.pwr.allow s.pwr.releasedHist) : (s.lapse w).pwr.credits = s.pwr.credits.filter (fun y => y.who ≠ w) := by
  simp only [State.lapse, hx, if_pos h, State.askWanted_credits, State.dropCredit]

theorem State.lapse_of_refused {w : PwrUnit} {x : Credit} (hx : s.pwr.credits.find? (fun y => y.who = w) = some x)
    (h : s.pwr.allow s.pwr.releasedHist < s.scaled w x.size) :
    s.lapse w = { s with pwr.credits := s.pwr.credits.map fun y => if y.who = w then { y with ballast := true } else y } := by
  simp only [State.lapse, hx, if_neg (Nat.not_le.2 h)]

/-! ### The deadlock of a job's cores -/

/-- R84: what QUEUE_DEADLOCK writes once the error is raised. -/
def deadlocked (s : State) (set : List CoreId) : State :=
  let mask := (set.map fun c => 2 ^ c.val).sum
  { s.raiseHalting 0x0201 .d 0 mask with
    hub.dlkStatus := BitVec.ofNat 64 mask
    hub.dlkMember := set.foldl (fun m c => sset 0 m c.val (dlkMember (s.core c))) []
    hub.dlkArmed := false }

theorem exec_queueDeadlock {j : Job} {waited : Word64} (hj : s.hub.job = some j) (hl : s.hub.waitLimit ≠ 0)
    (ha : s.hub.dlkArmed = true) (hr : s.hub.jobState = .running)
    (hw : ((dlkSet s j waited).any fun c => (s.core c).q.seq = .waiting) = true) :
    exec (.queueDeadlock waited) s = .next ((deadlocked s (dlkSet s j waited)).haltJob 0x0201) := by
  have hexec : exec (.queueDeadlock waited) s = execQueueDeadlock waited s := rfl
  rw [hexec]
  simp only [execQueueDeadlock, hj, hl, ha, hr, hw]
  rfl

section deadlocked
variable (s : State) (set : List CoreId)

theorem deadlocked_job : (deadlocked s set).hub.job = s.hub.job ∧ (deadlocked s set).hub.jobState = s.hub.jobState := by
  have h := State.raiseHalting_hub s 0x0201 .d 0 (set.map fun c => 2 ^ c.val).sum
  exact ⟨h.job, h.jobState⟩

theorem deadlocked_core (c : CoreId) : (deadlocked s set).core c = s.core c := by
  simp [State.core, deadlocked]

theorem deadlocked_sameOutside : SameOutside [.hub, .err, .pmu, .sent] s (deadlocked s set) := fun p hp => by
  cases p <;> simp_all [StatePart.same, deadlocked]

end deadlocked

/-- Settles O20: a completion by `Core.completes`, a deadlock by `State.haltJob_of_running`, a lapse by its two cases. -/
theorem commandsCompleteAndJobsDeadlock : Obligations.CommandsCompleteAndJobsDeadlock := by
  unfold Obligations.CommandsCompleteAndJobsDeadlock
  refine ⟨fun c eng which s x hs hx hr hj => ?complete, fun waited s j hs hj hl ha hr hw => ?deadlock, fun c u s x hx => ?lapse⟩
  case complete =>
    have hp := commandComplete_placed (c := c) (eng := eng) (x := x) hs
    obtain ⟨hm, hv, ht⟩ := commandComplete_engines hp
    refine ⟨_, exec_commandComplete hx hr hj, ?_, fun f hf => ?_, fun f => ?_, ?_, fun hn n => ?_, ?_, ?_, hp.others, hp.frame⟩
    · rw [engRun_of_engines hm hv ht, Core.completes_engRun, if_pos rfl]
    · rw [engRun_of_engines hm hv ht, Core.completes_engRun, if_neg hf]
    · rw [engQueue_of_engines hm hv ht, Core.completes_engQueue]
    · rw [hv, Core.completes_lutActive]
    · have hfence : (((s.core c).completes eng x).csig x.lo).q.fence = none := by rw [Core.csig_fence, Core.completes_q, hn]
      rw [hp.flag, Core.fenced_of_none hfence, Core.csig_flag, Core.flag, Core.completes_q, Core.flag]
    · rw [hv, Core.completes_oc]
    · rw [hm, Core.completes_acc]
  case deadlock =>
    obtain ⟨hjob, hstate⟩ := deadlocked_job s (dlkSet s j waited)
    obtain ⟨hhub, hcores, hframe⟩ := State.haltJob_of_running (code := 0x0201) (hjob.trans hj) (hstate.trans hr)
    refine ⟨_, exec_queueDeadlock hj hl ha hr hw, by rw [hhub]; rfl, by rw [hhub]; rfl, by rw [hhub], fun c => ?_, ?_⟩
    · rw [hcores, deadlocked_core]
      exact ⟨rfl, haltCore_flags _⟩
    · exact ((deadlocked_sameOutside s _).mono (by simp)).trans (hframe.mono (by simp))
  case lapse =>
    refine ⟨_, rfl, State.lapse_of_allowed hx, fun h => ?_, State.lapse_sameOutside s _⟩
    rw [State.lapse_of_refused hx h]
    refine ⟨rfl, fun y hy hw => ?_⟩
    obtain ⟨z, -, rfl⟩ := List.mem_map.1 hy
    split_ifs at hw ⊢ with hz
    · rfl
    · exact absurd hw hz

end Sys2Proof.Machine
end

section
/-! SUPPORT. Host events at the hub (R80, R385, R393 to R396, R403, R404). -/

namespace Sys2Proof.Machine
variable {s t u : State} {c : CoreId}

/-! ### Interrupts and bindings -/

/-- R403: an interrupt that is sent or kept pending. -/
theorem State.sendMsix_hub_eq (s : State) (v : Nat) : ∃ p, (s.sendMsix v).hub = { s.hub with pba := p } := by
  unfold State.sendMsix
  split
  · exact ⟨_, rfl⟩
  · exact ⟨s.hub.pba, rfl⟩

theorem State.raiseVec_binds (s : State) (v : Nat) : (s.raiseVec v).hub.binds = s.hub.binds := by
  obtain ⟨p, hp⟩ := s.sendMsix_hub_eq v
  obtain ⟨q, hq⟩ := s.sendMsix_hub_eq 2
  unfold State.raiseVec
  split
  · split
    · rw [hq]
    · split
      · rfl
      · dsimp only
        rw [hq]
  · rw [hp]

/-- R404: a binding whose flag is reached is disarmed as it raises its vector. -/
theorem fireBind_binds (s : State) (n x : Nat) : sget Bind.reset (fireBind s n).hub.binds x =
    if x = n then
      { sget Bind.reset s.hub.binds n with
        arm := (sget Bind.reset s.hub.binds n).arm
          && !reached (s.hubFlag (sget Bind.reset s.hub.binds n).flag) (sget Bind.reset s.hub.binds n).target }
    else sget Bind.reset s.hub.binds x := by
  obtain ⟨b, hb⟩ : ∃ b, b = sget Bind.reset s.hub.binds n := ⟨_, rfl⟩
  unfold fireBind
  simp only [← hb]
  by_cases ha : b.arm = true ∧ reached (s.hubFlag b.flag) b.target = true
  · rw [if_pos (by simpa using ha), State.raiseVec_binds, sget_sset, ha.1, ha.2]
    rfl
  · rw [if_neg (by simpa using ha)]
    by_cases hx : x = n
    · rw [if_pos hx, hx, ← hb]
      cases b with
      | mk f a t => cases a <;> simp_all
    · rw [if_neg hx]

theorem fireBind_sameOutside (s : State) (n : Nat) : SameOutside [.hub, .sent] s (fireBind s n) := fun p hp => by
  cases p <;> simp_all [StatePart.same]

theorem bitAt_eq_testBit (x i : Nat) : bitAt x i = x.testBit i := by
  rw [Nat.testBit, bitAt, Nat.and_comm, Nat.and_one_is_mod]
  rcases Nat.mod_two_eq_zero_or_one (x >>> i) with h | h <;> rw [h] <;> rfl

theorem State.bindWrite_binds (s : State) (n : Nat) (w : RegWrite) (x : Nat) :
    let b := sget Bind.reset s.hub.binds n
    let v := mergeWrite (BitVec.ofNat 64 (b.flag + b2n b.arm <<< 10 + b.target.toNat <<< 32)) w
    sget Bind.reset (s.bindWrite n w).hub.binds x =
      if x = n then ⟨v.toNat % 1024, v.getLsbD 10 && !reached (s.hubFlag (v.toNat % 1024)) (BitVec.ofNat 32 (v.toNat >>> 32)),
        BitVec.ofNat 32 (v.toNat >>> 32)⟩
      else sget Bind.reset s.hub.binds x := by
  intro b v
  have hbit : bitAt v.toNat 10 = v.getLsbD 10 := bitAt_eq_testBit _ _
  rw [State.bindWrite, fireBind_binds]
  by_cases hx : x = n
  · simp only [if_pos hx, sget_sset, if_true, ← hbit]
    rfl
  · simp only [sget_sset, if_neg hx]

/-! ### Completions that had no room -/

/-- R396: what the host and the job see of the hub but its rings is left alone. -/
structure LinkAndJobKept (s t : State) : Prop where
  link : t.hub.linkUp = s.hub.linkUp
  job : t.hub.job = s.hub.job

namespace LinkAndJobKept

theorem trans (h : LinkAndJobKept s t) (h' : LinkAndJobKept t u) : LinkAndJobKept s u :=
  ⟨h'.link.trans h.link, h'.job.trans h.job⟩

theorem of_hubKept (h : HubKept s t) : LinkAndJobKept s t := by
  obtain ⟨_, _, _, _, _, h⟩ := h
  exact ⟨by rw [h], by rw [h]⟩

theorem setRing (s : State) (q : Nat) (r : Ring) : LinkAndJobKept s (s.setRing q r) := ⟨rfl, rfl⟩

theorem writeDeviceLine (s : State) (q : Nat) : LinkAndJobKept s (s.writeDeviceLine q) :=
  .trans (t := s.emit _) ⟨rfl, rfl⟩ (of_hubKept (State.countHub_hub _ _ _ _))

theorem writeCompletion (s : State) (x : Completion) : LinkAndJobKept s (s.writeCompletion x) := by
  have hline : ∀ (e : Emit) (r : Ring),
      LinkAndJobKept s ((((s.emit e).countHub 5 (maskBit 2) 1).setRing x.ring r).writeDeviceLine x.ring) := fun e r =>
    .trans (t := s.emit e) ⟨rfl, rfl⟩
      ((of_hubKept (State.countHub_hub _ _ _ _)).trans ((setRing _ _ _).trans (writeDeviceLine _ _)))
  unfold State.writeCompletion
  dsimp only
  split
  · exact (hline _ _).trans (of_hubKept (State.raiseVec_hub _ _))
  · exact hline _ _

theorem sendCompletion (s : State) (x : Completion) : LinkAndJobKept s (s.sendCompletion x) := by
  unfold State.sendCompletion
  split
  · exact writeCompletion s x
  · exact ⟨rfl, rfl⟩

theorem foldl {α : Type} (l : List α) {f : State → α → State} (hf : ∀ t a, LinkAndJobKept t (f t a)) (s : State) :
    LinkAndJobKept s (l.foldl f s) := by
  induction l generalizing s with
  | nil => exact ⟨rfl, rfl⟩
  | cons a l ih => exact (hf s a).trans (ih _)

theorem flushCq (s : State) : LinkAndJobKept s s.flushCq :=
  .trans (t := { s with hub.waitingCq := [] }) ⟨rfl, rfl⟩ (foldl _ sendCompletion _)

end LinkAndJobKept

theorem State.flushCq_hub_of_nil (h : s.hub.waitingCq = []) : s.flushCq.hub = s.hub := by
  rw [State.flushCq, h]
  exact congrArg (fun l => { s.hub with waitingCq := l }) h.symm

theorem State.flushCq_sameOutside (s : State) : SameOutside [.hub, .pmu, .sent] s s.flushCq := fun p hp => by
  cases p <;> simp_all [StatePart.same]

/-! ### Each host event -/

theorem sameOutside_hub {hub : Hub} : SameOutside [.hub] s { s with hub := hub } := fun p hp => by
  cases p <;> simp_all [StatePart.same]

/-- R391: the link to the host goes down. -/
theorem hostLinkDown_of_up (h : s.hub.linkUp = true) : ∃ t, exec .hostLinkDown s = .next t ∧ t.hub.linkUp = false ∧
    t.hub.rings = s.hub.rings ∧ t.hub.job = s.hub.job ∧ Raised s t 0x0C05 .d 0 0 ∧ SameOutside [.hub, .err, .pmu, .sent] s t := by
  have hexec : exec .hostLinkDown s = .next (State.raise { s with hub.linkUp := false } 0x0C05 .d 0 0) := by
    simp [exec, execHostLinkDown, h]
  obtain ⟨_, _, _, _, _, hub⟩ := State.raise_hub { s with hub.linkUp := false } 0x0C05 .d 0 0
  refine ⟨_, hexec, by rw [hub], by rw [hub], by rw [hub], State.raise_raised (s := { s with hub.linkUp := false }), ?_⟩
  exact (sameOutside_hub.mono (by simp)).trans State.raise_sameOutside

/-- R391, R396: the link trains again, and completions that waited are written. -/
theorem hostLinkRetrain_of_down (h : s.hub.linkUp = false) (hp : s.hub.perstN = true) (hs : s.pwr.stagesOn = true)
    (hl : s.pwr.hubLost = false) : ∃ t, exec .hostLinkRetrain s = .next t ∧ t.hub.linkUp = true ∧ t.hub.job = s.hub.job ∧
      (s.hub.waitingCq = [] → t.hub = { s.hub with linkUp := true }) ∧ SameOutside [.hub, .pmu, .sent] s t := by
  have hexec : exec .hostLinkRetrain s = .next (State.flushCq { s with hub.linkUp := true }) := by
    simp [exec, execHostLinkRetrain, h, hp, hs, hl]
  have hkept := LinkAndJobKept.flushCq { s with hub.linkUp := true }
  refine ⟨_, hexec, hkept.link, hkept.job, State.flushCq_hub_of_nil (s := { s with hub.linkUp := true }), ?_⟩
  exact (sameOutside_hub.mono (by simp)).trans (State.flushCq_sameOutside _)

/-- R403: the moderation window of vector 2 ends; a pending interrupt is sent and opens the next one. -/
theorem msixModExpiry_of_open (h : s.hub.modOpen = true) : ∃ t, exec .msixModExpiry s = .next t ∧ t.hub.modPending = false ∧
    t.hub.modOpen = s.hub.modPending ∧ t.hub.flags = s.hub.flags ∧ (s.hub.modPending = false → t.sent = s.sent) ∧
    SameOutside [.hub, .sent] s t := by
  by_cases hp : s.hub.modPending = true
  · obtain ⟨p, hub⟩ := s.sendMsix_hub_eq 2
    have hexec : exec .msixModExpiry s = .next { s.sendMsix 2 with hub.modPending := false } := by
      simp [exec, execMsixModExpiry, h, hp]
    refine ⟨_, hexec, rfl, ?_, State.sendMsix_flags s 2, fun hn => absurd hp (by simp [hn]), fun q hq => ?_⟩
    · dsimp only
      rw [hub, hp]
      exact h
    · cases q <;> simp_all [StatePart.same]
  · have hpf := Bool.eq_false_iff.2 hp
    have hexec : exec .msixModExpiry s = .next { s with hub.modOpen := false } := by simp [exec, execMsixModExpiry, h, hpf]
    exact ⟨_, hexec, hpf, hpf.symm, rfl, fun _ => rfl, sameOutside_hub.mono (by simp)⟩

/-- R80: SEQ_FLAG_ADD of a core whose window is there. -/
def seqFlagAdded (c : CoreId) (n : Fin 256) (w : Word32) (t : State) : State :=
  if t.coreWindow c.val then (t.wakeCore c).addCoreFlag c n.val w else t

/-- R80: an addition from the host to a core's flag. -/
theorem seqFlagAdd_of_window (hs : s.has64) (hb : s.barOpen = true) {n : Fin 256} {w : Word32} (hw : s.coreWindow c.val = true) :
    ∃ t, exec (.seqFlagAdd c n w) s = .next t ∧ (∀ x, (t.core c).flag x = (s.core c).flag x + if x = n.val then w else 0) ∧
      (t.core c).m = (s.core c).m ∧ (t.core c).v = (s.core c).v ∧ (t.core c).t = (s.core c).t ∧
      (t.core c).q.seq = (s.core c).q.seq ∧ OtherCores c s t ∧ SameOutside [.cores, .pwr] s t := by
  have hexec : exec (.seqFlagAdd c n w) s = .next ((s.wakeCore c).addCoreFlag c n.val w) :=
    (State.onBar_of_open hb (seqFlagAdded c n w)).trans (congrArg _ (if_pos hw))
  have hcore : ∀ x, ((s.wakeCore c).addCoreFlag c n.val w).core x = if x = c then
      { s.core c with q.flags := sset 0 (s.core c).q.flags n.val ((s.core c).flag n.val + w) } else s.core x :=
    State.addCoreFlag_core (s := s.wakeCore c) hs n.val w
  have hself := (hcore c).trans (if_pos rfl)
  refine ⟨_, hexec, fun x => ?_, by rw [hself], by rw [hself], by rw [hself], by rw [hself],
    fun x hx => (hcore x).trans (if_neg hx), ?_⟩
  · rw [State.addCoreFlag_flag (s := s.wakeCore c) hs]
    simp only [and_true, eq_comm]
    rfl
  · exact (sameOutside_pwr.mono (by simp) : SameOutside _ s (s.wakeCore c)).trans (sameOutside_cores.mono (by simp))

/-- R496: with no counter of the hub enabled nothing is counted. -/
theorem State.raise_of_uncounted (h : s.pmu.hubCtl = 0) (code : Nat) (cls : ErrClass) (i p : Nat) :
    (s.raise code cls i p).hub = s.hub ∧ (s.raise code cls i p).pmu = s.pmu := by
  unfold State.raise State.offer
  split
  · simp [State.countHub, h]
  · split <;> exact ⟨rfl, rfl⟩

/-- R80: an addition from the host to a hub flag; those below 64 are not the host's. -/
theorem hubFlagAdd_of_open (hb : s.barOpen = true) (n : Fin 1024) (w : Word32) : ∃ t, exec (.hubFlagAdd n w) s = .next t ∧
    (n.val < 64 → s.pmu.hubCtl = 0 → t.hub = s.hub) ∧
    (n.val < 64 → Raised s t 0x0202 .c 0 (regPayload (0x109000 + 4 * n.val) w.toNat 4 0)) ∧
    (64 ≤ n.val → (∀ x, t.hubFlag x = s.hubFlag x + if x = n.val then w else 0) ∧ t.hub.job = s.hub.job ∧
      t.hub.rings = s.hub.rings ∧ t.err = s.err) ∧
    SameOutside [.hub, .err, .pmu, .sent] s t := by
  have hexec : exec (.hubFlagAdd n w) s = .next (s.hubFlagAddWrite n.val w) :=
    State.onBar_of_open hb fun t => t.hubFlagAddWrite n.val w
  by_cases hn : n.val < 64
  · rw [State.hubFlagAddWrite, if_pos hn] at hexec
    exact ⟨_, hexec, fun _ h => (State.raise_of_uncounted h _ _ _ _).1, fun _ => State.raise_raised,
      fun h => absurd h (Nat.not_le.2 hn), State.raise_sameOutside⟩
  · rw [State.hubFlagAddWrite, if_neg hn] at hexec
    obtain ⟨_, _, _, _, _, hub⟩ := State.addHubFlag_hub s n.val w
    refine ⟨_, hexec, fun h => absurd h hn, fun h => absurd h hn, fun _ => ⟨fun x => ?_, by rw [hub], by rw [hub], by simp⟩, ?_⟩
    · rw [State.addHubFlag_hubFlag]
      simp only [eq_comm]
    · exact fun p hp => by cases p <;> simp_all [StatePart.same]

/-- Settles O42: one lemma per event, and `State.onBar_of_closed` for those of BAR0. -/
theorem hostEventsChangeTheHub : Obligations.HostEventsChangeTheHub := by
  unfold Obligations.HostEventsChangeTheHub
  intro s
  refine ⟨fun l => ⟨_, rfl, rfl, sameOutside_hub⟩, fun l => ⟨fun h => ?noTimeout, fun h => ?timeout⟩, fun h => ?notUp,
    hostLinkDown_of_up, hostLinkRetrain_of_down, fun h => ?noRetrain, fun h q n n' c f w w32 i hi => ?closed,
    fun h n rw => ?bind, fun h => ?modClosed, msixModExpiry_of_open, fun h rw => ?dlk, fun h hs c n w => ⟨fun hw => ?noWindow,
    seqFlagAdd_of_window hs h⟩, fun h n w => hubFlagAdd_of_open h n w⟩
  case noTimeout => simp only [exec, execHostBisnpTimeout, h, Bool.false_eq_true, if_false]
  case timeout =>
    have hexec : exec (.hostBisnpTimeout l) s = .next (s.raise 0x0C04 .f 0 0) := by simp only [exec, execHostBisnpTimeout, h, if_true]
    exact ⟨_, hexec, State.raise_raised, State.raise_sameOutside⟩
  case notUp => simp [exec, execHostLinkDown, h]
  case noRetrain =>
    obtain h | h | h | h := h
    · simp [exec, execHostLinkRetrain, h]
    · simp [exec, execHostLinkRetrain, h]
    · simp [exec, execHostLinkRetrain, h]
    · simp [exec, execHostLinkRetrain, h]
  case closed =>
    simp only [List.mem_cons, List.not_mem_nil, or_false] at hi
    obtain rfl | rfl | rfl | rfl | rfl := hi
    · exact State.onBar_of_closed h fun t => t.bindWrite n.val w
    · exact State.onBar_of_closed h fun t => t.dlkClear w
    · exact State.onBar_of_closed h (seqFlagAdded c f w32)
    · exact State.onBar_of_closed h fun t => t.hubFlagAddWrite n'.val w32
    · exact State.onBar_of_closed h fun t => t.ringCtlWrite q.val w32
  case bind =>
    refine ⟨_, State.onBar_of_open h fun t => t.bindWrite n.val rw, fun x => (State.bindWrite_binds s n.val rw x.val).trans ?_, ?_, ?_⟩
    · simp only [Fin.ext_iff]
    · exact fireBind_flags _ _
    · exact (sameOutside_hub.mono (by simp)).trans (fireBind_sameOutside _ _)
  case modClosed => simp [exec, execMsixModExpiry, h]
  case dlk => exact ⟨_, State.onBar_of_open h fun t => t.dlkClear rw, rfl, sameOutside_hub⟩
  case noWindow => exact (State.onBar_of_open h (seqFlagAdded c n w)).trans (congrArg _ (if_neg (by simp [hw])))

end Sys2Proof.Machine
end

section
/-! SUPPORT. Device memory (R227 to R235): what reading lines leaves of them, and what writing a line stores. -/

namespace Sys2Proof.Machine
variable {s t u : State} {c : CoreId}

/-! ### Where addresses lie -/

/-- R224, R225: nothing that decides where an address lies has changed. -/
structure SamePlaces (s t : State) : Prop where
  ident : t.ident = s.ident
  off0 : t.mem.die0.offline = s.mem.die0.offline
  off1 : t.mem.die1.offline = s.mem.die1.offline
  t2 : t.mem.t2 = s.mem.t2
  intlv : t.mem.intlv = s.mem.intlv

namespace SamePlaces

theorem trans (h : SamePlaces s t) (h' : SamePlaces t u) : SamePlaces s u :=
  ⟨h'.ident.trans h.ident, h'.off0.trans h.off0, h'.off1.trans h.off1, h'.t2.trans h.t2, h'.intlv.trans h.intlv⟩

theorem of_mem (hi : t.ident = s.ident) (h : t.mem = s.mem) : SamePlaces s t := ⟨hi, by rw [h], by rw [h], by rw [h], by rw [h]⟩

theorem place (h : SamePlaces s t) (a : Nat) : t.place a = s.place a := by
  have hport : t.mem.port = s.mem.port := by
    funext p
    rw [Memory.port, h.t2, Memory.port]
  have hil : t.mem.interleaved = s.mem.interleaved := by rw [Memory.interleaved, hport, h.intlv, Memory.interleaved]
  have ht2 : t.mem.t2PortOf = s.mem.t2PortOf := by
    funext off
    rw [Memory.t2PortOf, hport, hil, Memory.t2PortOf]
  have hhbm : t.hbmBytes = s.hbmBytes := by rw [State.hbmBytes, h.ident, State.hbmBytes]
  rw [State.place, h.off0, h.off1, ht2, hhbm, State.place]

theorem populated (h : SamePlaces s t) (a : Nat) : t.populated a = s.populated a := by
  rw [State.populated, h.place, State.populated]

theorem setDie {d : Nat} {x : DieMem} (h : x.offline = (s.mem.die d).offline) : SamePlaces s (s.setDie d x) := by
  unfold State.setDie
  unfold Memory.die at h
  split
  case isTrue hd => exact ⟨rfl, by rw [if_pos hd] at h; exact h, rfl, rfl, rfl⟩
  case isFalse hd => exact ⟨rfl, rfl, by rw [if_neg hd] at h; exact h, rfl, rfl⟩

end SamePlaces

/-! ### Reading -/

/-- R231 to R234: memory after lines were read: no byte has changed, and no line without a stored error was poisoned. -/
structure LinesRead (s t : State) : Prop where
  places : SamePlaces s t
  bytes : t.mem.bytes = s.mem.bytes
  sound : ∀ a, s.lineErr a = LineErr.none → t.lineErr a = LineErr.none ∧ t.poisoned a = s.poisoned a

namespace LinesRead

theorem of_mem (hi : t.ident = s.ident) (h : t.mem = s.mem) : LinesRead s t :=
  ⟨.of_mem hi h, by rw [h], fun a ha => by simpa only [State.lineErr, State.poisoned, h, and_true] using ha⟩

theorem refl (s : State) : LinesRead s s := .of_mem rfl rfl

theorem trans (h : LinesRead s t) (h' : LinesRead t u) : LinesRead s u :=
  ⟨h.places.trans h'.places, h'.bytes.trans h.bytes, fun a ha =>
    have ht := h.sound a ha
    have hu := h'.sound a ht.1
    ⟨hu.1, hu.2.trans ht.2⟩⟩

theorem foldl {α : Type} (l : List α) {f : State → α → State} (hf : ∀ t a, LinesRead t (f t a)) (s : State) :
    LinesRead s (l.foldl f s) := by
  induction l generalizing s with
  | nil => exact refl s
  | cons a l ih => exact (hf s a).trans (ih _)

theorem byteAt (h : LinesRead s t) (a : Nat) : t.byteAt a = s.byteAt a := State.byteAt_of_bytes h.bytes a

theorem setDie {d : Nat} {x : DieMem} (h : x.offline = (s.mem.die d).offline) : LinesRead s (s.setDie d x) :=
  ⟨.setDie h, State.setDie_bytes .., fun a ha => by simpa only [State.lineErr, State.poisoned, State.setDie_bad, State.setDie_poison, and_true] using ha⟩

theorem raise (s : State) (code : Nat) (cls : ErrClass) (i p : Nat) : LinesRead s (s.raise code cls i p) :=
  .of_mem (by simp) (by simp)

theorem notePoison (s : State) (a agent : Nat) : LinesRead s (s.notePoison a agent) := by
  have h1 := raise s 0x0703 .d (s.memInst a) (addrPayload (a / 64 * 64) agent (s.memPlaceNo a))
  have hhealth : ∀ t : State, LinesRead t (if agentSetsHealth agent then t.setHealth 3 else t) := fun t => by
    split
    · exact .of_mem rfl rfl
    · exact refl t
  unfold State.notePoison
  refine trans ?_ (hhealth _)
  split
  · exact h1.trans (setDie rfl)
  · exact h1.trans ⟨⟨rfl, rfl, rfl, rfl, rfl⟩, rfl, fun a ha => ⟨ha, rfl⟩⟩
  · exact h1

theorem noteCe (s : State) (a agent : Nat) : LinesRead s (s.noteCe a agent) := by
  have h1 := raise s 0x0701 .c (s.memInst a) (addrPayload (a / 64 * 64) agent (s.memPlaceNo a))
  unfold State.noteCe
  split
  · exact h1.trans (setDie rfl)
  · exact h1

theorem noteUe (s : State) (code a agent : Nat) : LinesRead s (s.noteUe code a agent) := by
  have h1 := raise s code .d (s.memInst a) (addrPayload (a / 64 * 64) agent (s.memPlaceNo a))
  unfold State.noteUe
  split
  · exact h1.trans (setDie rfl)
  · exact h1

end LinesRead

theorem State.lineErr_setLineErr (s : State) (a : Nat) (e : LineErr) (b : Nat) :
    (s.setLineErr a e).lineErr b = if b / 64 = a / 64 then e else s.lineErr b := by
  rw [State.lineErr, State.setLineErr, sget_sset, State.lineErr]

theorem State.poisoned_setPoison (s : State) (a : Nat) (p : Bool) (b : Nat) :
    (s.setPoison a p).poisoned b = if b / 64 = a / 64 then p else s.poisoned b := by
  rw [State.poisoned, State.setPoison_poison, sget_sset, State.poisoned]

/-- R231: a line without a stored error is clean. -/
theorem State.verdict_none (s : State) : s.verdict LineErr.none = .clean := by
  have h : LineErr.none.symbols = 0 := by decide
  simp only [State.verdict, h, if_true]

theorem State.lineErr_ne_none {a : Nat} (h : s.verdict (s.lineErr a) ≠ .clean) : s.lineErr a ≠ LineErr.none := fun he =>
  h (by rw [he, State.verdict_none])

namespace LinesRead

/-- What is wrong with the line of `a` is replaced; it was in error before. -/
theorem setLineErr {a : Nat} (h : LinesRead s t) (ha : s.lineErr a ≠ LineErr.none) (e : LineErr) :
    LinesRead s (t.setLineErr a e) := by
  refine ⟨h.places.trans ⟨rfl, rfl, rfl, rfl, rfl⟩, h.bytes, fun b hb => ?_⟩
  have hne : b / 64 ≠ a / 64 := fun he => ha (by rw [← hb, State.lineErr, State.lineErr, he])
  rw [State.lineErr_setLineErr, if_neg hne]
  exact h.sound b hb

theorem setPoison {a : Nat} (h : LinesRead s t) (ha : s.lineErr a ≠ LineErr.none) (p : Bool) : LinesRead s (t.setPoison a p) := by
  refine ⟨h.places.trans ⟨rfl, rfl, rfl, rfl, rfl⟩, h.bytes, fun b hb => ?_⟩
  have hne : b / 64 ≠ a / 64 := fun he => ha (by rw [← hb, State.lineErr, State.lineErr, he])
  rw [State.poisoned_setPoison, if_neg hne]
  exact h.sound b hb

theorem checkLine (s : State) (code a agent : Nat) : LinesRead s (s.checkLine code a agent) := by
  unfold State.checkLine
  split
  case h_1 => exact refl s
  case h_2 hv => exact (noteCe s a agent).setLineErr (State.lineErr_ne_none (by simp [hv])) _
  case h_3 hv =>
    have he := State.lineErr_ne_none (s := s) (a := a) (by simp [hv])
    exact ((noteUe s code a agent).setLineErr he _).setPoison he _
  case h_4 hv => exact ((refl s).setLineErr (State.lineErr_ne_none (by simp [hv])) _).trans (of_mem rfl rfl)
  case h_5 hv => exact ((noteCe s a agent).setLineErr (State.lineErr_ne_none (by simp [hv])) _).trans (of_mem rfl rfl)

theorem countLine (s : State) (a : Nat) (w : Bool) : LinesRead s (s.countLine a w) := .of_mem (by simp) (by simp)

theorem touchLineAs (s : State) (code a agent : Nat) : LinesRead s (s.touchLineAs code a agent).2 := by
  have hc := countLine s a false
  have hfresh : ∀ (t : State) (n : Nat), LinesRead t { t with fresh := n } := fun t n => .of_mem rfl rfl
  unfold State.touchLineAs
  dsimp only
  split
  · exact hc.trans ((raise _ _ _ _ _).trans (hfresh _ _))
  · split
    · exact hc.trans ((notePoison _ _ _).trans (hfresh _ _))
    · split
      · exact hc.trans ((checkLine _ _ _ _).trans ((notePoison _ _ _).trans (hfresh _ _)))
      · exact hc.trans (checkLine _ _ _ _)

theorem touchLineQuiet (s : State) (a agent : Nat) : LinesRead s (s.touchLineQuiet a agent) := by
  unfold State.touchLineQuiet
  split
  · exact refl s
  · exact checkLine s _ a agent

theorem engineReads (s : State) (agent : Nat) (rs : List (Nat × Nat)) : LinesRead s (s.engineReads agent rs) :=
  foldl _ (fun t _ => touchLineAs t _ _ _) s

theorem readsMap (s : State) (agent a : Nat) : LinesRead s (s.readsMap agent a) := by
  unfold State.readsMap
  dsimp only
  split
  · exact refl s
  · split
    · exact (engineReads s _ _).trans (engineReads _ _ _)
    · exact engineReads s _ _

theorem beginAttempt (s : State) (attempt : Nat) (retry : Bool) (resent : List (Nat × Nat)) :
    LinesRead s (s.beginAttempt attempt retry resent) := by
  have hc : LinesRead s { s.countHub 0x0C (fun _ => true) 1 with cke.health := 0 } := .of_mem (by simp) (by simp)
  unfold State.beginAttempt State.readsGate
  exact hc.trans (((engineReads _ _ _).trans (readsMap _ _ _)).trans (of_mem rfl rfl))

theorem settleRewind (s : State) : LinesRead s s.settleRewind := by
  unfold State.settleRewind
  dsimp only
  split
  · exact refl s
  · exact .trans (of_mem (by simp) (by simp)) (beginAttempt _ _ _ _)

theorem finishCall (s : State) (c : CoreId) : LinesRead s (s.finishCall c) := by
  unfold State.finishCall
  dsimp only
  split
  · exact refl s
  · exact .trans (of_mem (by simp) (by simp)) (settleRewind _)

theorem settleReshard (s : State) : LinesRead s s.settleReshard := by
  unfold State.settleReshard
  dsimp only
  split
  · exact refl s
  · split
    · exact .trans (of_mem (by simp) (by simp)) (finishCall _ _)
    · exact of_mem (by simp) (by simp)

end LinesRead

/-- R227, R232: a sound line is delivered as it stands. -/
theorem State.touchLine_sound {a agent : Nat} (h : s.lineSound a = true) : (s.touchLine a agent).1 = false := by
  simp only [State.lineSound, Bool.and_eq_true, decide_eq_true_eq, Bool.not_eq_true'] at h
  obtain ⟨⟨hpop, hpois⟩, herr⟩ := h
  have hc := LinesRead.countLine s a false
  obtain ⟨herr', hpois'⟩ := hc.sound a herr
  have hpop' : (s.countLine a false).populated a = true := (hc.places.populated a).trans hpop
  have hcheck : (s.countLine a false).checkLine 0x0702 a agent = s.countLine a false := by
    rw [State.checkLine, herr', State.verdict_none]
  simp only [State.touchLine, State.touchLineAs, hpop', hpois', hpois, hcheck, Bool.not_true, Bool.false_eq_true, if_false]

theorem LinesRead.lineSound (h : LinesRead s t) {a : Nat} (hs : s.lineSound a = true) : t.lineSound a = true := by
  simp only [State.lineSound, Bool.and_eq_true, decide_eq_true_eq, Bool.not_eq_true'] at hs ⊢
  obtain ⟨⟨hpop, hpois⟩, herr⟩ := hs
  obtain ⟨herr', hpois'⟩ := h.sound a herr
  exact ⟨⟨(h.places.populated a).trans hpop, hpois'.trans hpois⟩, herr'⟩

/-- The bytes of a sound line are seen as they are stored. -/
theorem State.seenByte_of_sound {a b : Nat} (h : s.lineSound a = true) (hb : b / 64 = a / 64) (hpop : s.populated b = s.populated a) :
    s.seenByte b = s.byteAt b := by
  simp only [State.lineSound, Bool.and_eq_true, decide_eq_true_eq, Bool.not_eq_true'] at h
  obtain ⟨⟨hpopa, hpois⟩, herr⟩ := h
  have hpois' : s.poisoned b = false := by rw [State.poisoned, hb]; exact hpois
  have herr' : s.lineErr b = LineErr.none := by rw [State.lineErr, hb]; exact herr
  have hlost : s.lost b = false := by
    rw [State.lost, hpop, hpopa, hpois', herr']
    rfl
  rw [State.seenByte, hlost]
  rfl

/-! ### Lines -/

/-- A bound of whole lines separates lines. -/
theorem lt_iff_of_line {a b x : Nat} (hx : x % 64 = 0) (h : b / 64 = a / 64) : b < x ↔ a < x := by omega

theorem sub_line {a b x : Nat} (hx : x % 64 = 0) (h : b / 64 = a / 64) (ha : x ≤ a) : (b - x) / 64 = (a - x) / 64 := by omega

theorem Memory.t2PortOf_line (m : Memory) {a b : Nat} (h : b / 64 = a / 64) : m.t2PortOf b = m.t2PortOf a := by
  have hd : ∀ n, 64 ∣ n * 0x10000000 := fun n => Dvd.dvd.mul_left (by norm_num) n
  have h0 := Nat.mod_eq_zero_of_dvd (hd (m.port 0).capacity)
  have h1 := Nat.mod_eq_zero_of_dvd (Nat.dvd_add (hd (m.port 0).capacity) (hd (m.port 1).capacity))
  have hi : b / 4096 = a / 4096 := by omega
  simp only [Memory.t2PortOf, lt_iff_of_line h0 h, lt_iff_of_line h1 h, hi]

/-- R224: a line lies in one place. -/
theorem State.place_line (s : State) {a b : Nat} (h : b / 64 = a / 64) : s.place b = s.place a := by
  have hb : s.hbmBytes % 64 = 0 := Nat.mod_eq_zero_of_dvd (Dvd.dvd.mul_left (by norm_num) _)
  have ht : tier2Base ≤ b ↔ tier2Base ≤ a := by
    simp only [← Nat.not_lt, lt_iff_of_line (x := tier2Base) (by decide) h]
  unfold State.place
  simp only [lt_iff_of_line (x := die1Base) (by decide) h, lt_iff_of_line (x := 2 * die1Base) (by decide) h, ht,
    lt_iff_of_line (x := tier2Base + 0x40000000000) (by decide) h, lt_iff_of_line hb h]
  split
  · rfl
  case isFalse hd =>
    have hd1 : (b - die1Base < s.hbmBytes) = (a - die1Base < s.hbmBytes) :=
      propext (lt_iff_of_line hb (sub_line (by decide) h (Nat.not_lt.1 hd)))
    simp only [hd1]
    split
    · rfl
    · split
      case isTrue hm => rw [Memory.t2PortOf_line s.mem (sub_line (by decide) h hm.1)]
      case isFalse => rfl

theorem State.populated_line (s : State) {a b : Nat} (h : b / 64 = a / 64) : s.populated b = s.populated a := by
  rw [State.populated, s.place_line h, State.populated]

/-! ### Writing -/

theorem storeBytes_byteAt_from (bs : List Byte) (m : SMap Byte) (a k x : Nat) :
    sget 0 ((bs.zipIdx k).foldl (fun m p => sset 0 m (a + p.2) p.1) m) x =
      if a + k ≤ x ∧ x < a + k + bs.length then bs.getD (x - (a + k)) 0 else sget 0 m x := by
  induction bs generalizing m k with
  | nil =>
    rw [if_neg (by simp only [List.length_nil]; omega)]
    rfl
  | cons b bs ih =>
    rw [List.zipIdx_cons, List.foldl_cons, ih, sget_sset]
    simp only [List.length_cons]
    by_cases hx : x = a + k
    · rw [if_neg (by omega), if_pos hx, if_pos (by omega), show x - (a + k) = 0 by omega]
      rfl
    · by_cases hin : a + (k + 1) ≤ x ∧ x < a + (k + 1) + bs.length
      · rw [if_pos hin, if_pos (by omega), show x - (a + k) = (x - (a + (k + 1))) + 1 by omega]
        rfl
      · rw [if_neg hin, if_neg hx, if_neg (by omega)]

theorem State.storeBytes_byteAt (s : State) (a : Nat) (bs : List Byte) (x : Nat) :
    (s.storeBytes a bs).byteAt x = if a ≤ x ∧ x < a + bs.length then bs.getD (x - a) 0 else s.byteAt x :=
  storeBytes_byteAt_from bs s.mem.bytes a 0 x

theorem State.lineErr_storeBytes (s : State) (a : Nat) (bs : List Byte) (b : Nat) :
    (s.storeBytes a bs).lineErr b = s.lineErr b := rfl

theorem State.poisoned_storeBytes (s : State) (a : Nat) (bs : List Byte) (b : Nat) :
    (s.storeBytes a bs).poisoned b = s.poisoned b := rfl

theorem State.poisoned_setLineErr (s : State) (a : Nat) (e : LineErr) (b : Nat) :
    (s.setLineErr a e).poisoned b = s.poisoned b := rfl

/-- R222, R227, R230, R233: memory after one populated line was written, poisoned or not. -/
structure LineWritten (a : Nat) (bs : List Byte) (p : Bool) (s t : State) : Prop where
  places : SamePlaces s t
  byteAt : ∀ x, t.byteAt x = if a ≤ x ∧ x < a + 64 then bs.getD (x - a) 0 else s.byteAt x
  sound : t.lineErr a = LineErr.none ∧ t.poisoned a = p
  other : ∀ b, b / 64 ≠ a / 64 → t.lineErr b = s.lineErr b ∧ t.poisoned b = s.poisoned b

theorem storeLine_written {a : Nat} {bs : List Byte} (hm : t.mem = s.mem) (hi : t.ident = s.ident) (hbs : bs.length = 64) :
    LineWritten a bs false s (((t.setPoison a false).setLineErr a LineErr.none).storeBytes a bs) := by
  refine ⟨.trans (.of_mem hi hm) ⟨rfl, rfl, rfl, rfl, rfl⟩, fun x => ?_, ⟨?_, ?_⟩, fun b hb => ⟨?_, ?_⟩⟩
  · rw [State.storeBytes_byteAt, hbs]
    exact if_congr Iff.rfl rfl (State.byteAt_of_bytes (congrArg Memory.bytes hm) x)
  · rw [State.lineErr_storeBytes, State.lineErr_setLineErr, if_pos rfl]
  · rw [State.poisoned_storeBytes, State.poisoned_setLineErr, State.poisoned_setPoison, if_pos rfl]
  · rw [State.lineErr_storeBytes, State.lineErr_setLineErr, if_neg hb, State.lineErr, State.setPoison_bad, hm, State.lineErr]
  · rw [State.poisoned_storeBytes, State.poisoned_setLineErr, State.poisoned_setPoison, if_neg hb, State.poisoned, hm, State.poisoned]

/-- R270: one whole line from another agent. -/
theorem State.agentWrite_line {a agent : Nat} {bs : List Byte} (ha : a % 64 = 0) (hp : s.populated a = true) (hbs : bs.length = 64) :
    LineWritten a bs false s (s.agentWrite a agent bs) := by
  have hne : bs.isEmpty = false := by
    rw [List.isEmpty_eq_false_iff]
    exact List.ne_nil_of_length_pos (by omega)
  have htake : bs.take (64 - a % 64) = bs := List.take_of_length_le (by omega)
  have hdrop : bs.drop (64 - a % 64) = [] := List.drop_eq_nil_of_le (by omega)
  have hparts : lineParts bs.length a bs = [(a, bs)] := by
    rw [hbs, lineParts, hne, htake, hdrop]
    rfl
  have hp' : (s.countLine a true).populated a = true := ((LinesRead.countLine s a true).places.populated a).trans hp
  have hwrite : s.agentWrite a agent bs = (((s.countLine a true).setPoison a false).setLineErr a LineErr.none).storeBytes a bs := by
    rw [State.agentWrite, hparts, List.foldl_cons, List.foldl_nil, State.writePart]
    simp only [hp', hbs, if_true, Bool.not_true, Bool.false_eq_true, if_false]
  rw [hwrite]
  exact storeLine_written (by simp) (by simp) hbs

/-- R227, R230: a part of a write stores nothing outside itself. -/
theorem State.writePart_byteAt {agent x : Nat} {p : Nat × List Byte} (hx : x < p.1 ∨ p.1 + p.2.length ≤ x) :
    (State.writePart agent s p).byteAt x = s.byteAt x := by
  have hc := (LinesRead.countLine s p.1 true).byteAt x
  have hstore : ∀ t : State, (t.storeBytes p.1 p.2).byteAt x = t.byteAt x := fun t => by
    rw [State.storeBytes_byteAt, if_neg (by omega)]
  unfold State.writePart
  dsimp only
  split
  · exact ((LinesRead.raise _ _ _ _ _).byteAt x).trans hc
  · split
    · rw [hstore]
      exact hc
    · rw [hstore]
      exact ((LinesRead.touchLineQuiet _ _ _).byteAt x).trans hc

theorem lineParts_byteAt {agent x : Nat} (n a : Nat) (bs : List Byte) (s : State) (hx : x < a ∨ a + bs.length ≤ x) :
    ((lineParts n a bs).foldl (State.writePart agent) s).byteAt x = s.byteAt x := by
  induction n generalizing a bs s with
  | zero => rfl
  | succ n ih =>
    rw [lineParts]
    split
    · rfl
    · rw [List.foldl_cons, ih, State.writePart_byteAt]
      · dsimp only
        rw [List.length_take]
        omega
      · rw [List.length_drop]
        omega

/-- R227, R230: a write stores nothing outside its bytes. -/
theorem State.agentWrite_byteAt {a agent x : Nat} {bs : List Byte} (hx : x < a ∨ a + bs.length ≤ x) :
    (s.agentWrite a agent bs).byteAt x = s.byteAt x := lineParts_byteAt _ a bs s hx

/-- R222: the line just written is marked as poisoned. -/
theorem LineWritten.poison {a : Nat} {bs : List Byte} {p : Bool} (h : LineWritten a bs p s t) :
    LineWritten a bs true s (t.setPoison a true) := by
  refine ⟨h.places.trans ⟨rfl, rfl, rfl, rfl, rfl⟩, h.byteAt, ⟨h.sound.1, ?_⟩, fun b hb => ⟨(h.other b hb).1, ?_⟩⟩
  · rw [State.poisoned_setPoison, if_pos rfl]
  · rw [State.poisoned_setPoison, if_neg hb, (h.other b hb).2]

/-- R222, R270: the `i`-th line of a WR. -/
def wrLine (p : Packet) (t : State) (i : Nat) : State :=
  let a := p.addr + 64 * i
  let u := t.remoteLine a ((p.payload.drop (64 * i)).take 64)
  if bitAt p.aux i && u.populated a then u.setPoison a true else u

theorem wrLine_written {p : Packet} {i : Nat} (ha : p.addr % 64 = 0) (hi : 64 * (i + 1) ≤ p.payload.length)
    (hp : s.populated (p.addr + 64 * i) = true) :
    LineWritten (p.addr + 64 * i) ((p.payload.drop (64 * i)).take 64) (bitAt p.aux i) s (wrLine p s i) := by
  have hlen : ((p.payload.drop (64 * i)).take 64).length = 64 := by
    rw [List.length_take, List.length_drop]
    omega
  have h : LineWritten _ _ false s (s.remoteLine (p.addr + 64 * i) ((p.payload.drop (64 * i)).take 64)) :=
    State.agentWrite_line (agent := 0x84) (by omega) hp hlen
  unfold wrLine
  dsimp only
  rw [h.places.populated, hp, Bool.and_true]
  split
  case isTrue hb => rw [hb]; exact h.poison
  case isFalse hb => rw [Bool.eq_false_iff.2 hb]; exact h

/-- R222, R270: memory after the first `n` lines of a WR were written. -/
structure LinesWritten (p : Packet) (n : Nat) (s t : State) : Prop where
  places : SamePlaces s t
  byteAt : ∀ x, t.byteAt x = if p.addr ≤ x ∧ x < p.addr + 64 * n then p.payload.getD (x - p.addr) 0 else s.byteAt x
  sound : ∀ i < n, t.lineErr (p.addr + 64 * i) = LineErr.none ∧ t.poisoned (p.addr + 64 * i) = bitAt p.aux i

theorem getD_slice {α : Type} (l : List α) {o i n : Nat} (d : α) (h : i < n) : ((l.drop o).take n).getD i d = l.getD (o + i) d := by
  simp only [List.getD_eq_getElem?_getD, List.getElem?_take, if_pos h, List.getElem?_drop]

theorem LinesWritten.step {p : Packet} {n : Nat} (ha : p.addr % 64 = 0) (hn : 64 * (n + 1) ≤ p.payload.length)
    (hp : s.populated (p.addr + 64 * n) = true) (h : LinesWritten p n s t) : LinesWritten p (n + 1) s (wrLine p t n) := by
  have hw := wrLine_written ha hn ((h.places.populated _).trans hp)
  refine ⟨h.places.trans hw.places, fun x => ?_, fun i hi => ?_⟩
  · rw [hw.byteAt, h.byteAt]
    by_cases hx : p.addr + 64 * n ≤ x ∧ x < p.addr + 64 * n + 64
    · rw [if_pos hx, if_pos (by omega), getD_slice _ _ (by omega)]
      congr 1
      omega
    · rw [if_neg hx]
      exact if_congr (by omega) rfl rfl
  · by_cases hin : i = n
    · rw [hin]
      exact hw.sound
    · obtain ⟨he, hpo⟩ := hw.other (p.addr + 64 * i) (by omega)
      obtain ⟨he', hpo'⟩ := h.sound i (by omega)
      exact ⟨he.trans he', hpo.trans hpo'⟩

/-- R270: the whole of a WR whose lines are all populated. -/
theorem wrLines_written {p : Packet} {n : Nat} (ha : p.addr % 64 = 0) (hn : 64 * n ≤ p.payload.length)
    (hp : ∀ i < n, s.populated (p.addr + 64 * i) = true) : LinesWritten p n s ((List.range n).foldl (wrLine p) s) := by
  induction n with
  | zero => exact ⟨.of_mem rfl rfl, fun x => (if_neg (by omega)).symm, fun i hi => absurd hi (Nat.not_lt_zero i)⟩
  | succ n ih =>
    rw [List.range_succ, List.foldl_append]
    exact (ih (by omega) fun i hi => hp i (by omega)).step ha hn (hp n (by omega))

/-- R230: the enabled bytes of a line are stored. -/
theorem maskRuns_byteAt (s : State) (a : Nat) (bs : List Byte) (mask x : Nat) :
    ((maskRuns a bs mask).foldl (fun t r => t.storeBytes r.1 [r.2]) s).byteAt x =
      if a ≤ x ∧ x < a + 64 ∧ bitAt mask (x - a) = true then bs.getD (x - a) 0 else s.byteAt x := by
  unfold maskRuns
  generalize 64 = n
  induction n with
  | zero => rw [if_neg (by omega)]; rfl
  | succ n ih =>
    rw [List.range_succ, List.filterMap_append, List.foldl_append, List.filterMap_cons, List.filterMap_nil]
    by_cases hb : bitAt mask n = true
    · rw [if_pos hb]
      simp only [List.foldl_cons, List.foldl_nil]
      rw [State.storeBytes_byteAt, ih]
      simp only [List.length_singleton]
      by_cases hx : x = a + n
      · rw [if_pos (by omega), hx, Nat.sub_self, Nat.add_sub_cancel_left, if_pos ⟨by omega, by omega, hb⟩]
        rfl
      · rw [if_neg (by omega)]
        exact if_congr (and_congr_right fun _ => and_congr_left fun _ => by omega) rfl rfl
    · rw [if_neg hb]
      simp only [List.foldl_nil]
      rw [ih]
      refine if_congr (and_congr_right fun _ => ⟨fun h => ⟨by omega, h.2⟩, fun h => ⟨?_, h.2⟩⟩) rfl rfl
      by_contra hx
      exact hb (by rw [← h.2]; congr 1; omega)

/-- A mask of 64 bits that are all set. -/
theorem bitAt_of_full {mask i : Nat} (h : mask % 2 ^ 64 = 2 ^ 64 - 1) (hi : i < 64) : bitAt mask i = true := by
  have ht : (mask % 2 ^ 64).testBit i = true := by rw [h, Nat.testBit_two_pow_sub_one, decide_eq_true hi]
  rw [Nat.testBit_mod_two_pow, Bool.and_eq_true] at ht
  rw [bitAt_eq_testBit, ht.2]

/-- R230, R233: a WR_PARTIAL stores the enabled bytes and no other. -/
theorem State.writeMasked_byteAt {agent a : Nat} {bs : List Byte} {mask : Nat} (hp : s.populated a = true) (x : Nat) :
    (s.writeMasked agent a bs mask).byteAt x =
      if a ≤ x ∧ x < a + 64 ∧ bitAt mask (x - a) = true then bs.getD (x - a) 0 else s.byteAt x := by
  have hc := LinesRead.countLine s a true
  unfold State.writeMasked
  dsimp only
  rw [hc.places.populated, hp, Bool.not_true, if_neg Bool.false_ne_true]
  split
  case isTrue hm =>
    rw [State.storeBytes_byteAt, List.length_map, List.length_range]
    by_cases hx : a ≤ x ∧ x < a + 64
    · rw [if_pos hx, if_pos ⟨hx.1, hx.2, bitAt_of_full hm (by omega)⟩]
      simp only [List.getD_eq_getElem?_getD, List.getElem?_map, List.getElem?_range (show x - a < 64 by omega)]
      rfl
    · rw [if_neg hx, if_neg fun h => hx ⟨h.1, h.2.1⟩]
      exact hc.byteAt x
  case isFalse hm =>
    rw [maskRuns_byteAt]
    exact if_congr Iff.rfl rfl ((hc.trans (LinesRead.touchLineQuiet _ _ _)).byteAt x)

/-! ### Lines read for another device -/

/-- R227, R232, R270: the reads of a RD_REQ: the marks of its lines, and the state. -/
def rdLines (p : Packet) (n : Nat) (s : State) : Nat × State :=
  (List.range n).foldl (fun (x : Nat × State) i =>
    let (bad, t) := x.2.touchLine (p.addr + 64 * i) 0x84
    (x.1 + b2n bad <<< i, t)) (0, s)

theorem rdLines_succ (p : Packet) (n : Nat) (s : State) : rdLines p (n + 1) s =
    ((rdLines p n s).1 + b2n ((rdLines p n s).2.touchLine (p.addr + 64 * n) 0x84).1 <<< n,
      ((rdLines p n s).2.touchLine (p.addr + 64 * n) 0x84).2) := by
  rw [rdLines, List.range_succ, List.foldl_append]
  rfl

theorem rdLines_read (p : Packet) (n : Nat) (s : State) : LinesRead s (rdLines p n s).2 := by
  induction n with
  | zero => exact .refl s
  | succ n ih =>
    rw [rdLines_succ]
    exact ih.trans (.touchLineAs _ _ _ _)

theorem rdLines_sound {p : Packet} {n : Nat} (h : ∀ i < n, s.lineSound (p.addr + 64 * i) = true) : (rdLines p n s).1 = 0 := by
  induction n with
  | zero => rfl
  | succ n ih =>
    rw [rdLines_succ]
    dsimp only
    rw [ih fun i hi => h i (by omega), State.touchLine_sound ((rdLines_read p n s).lineSound (h n (by omega)))]
    exact (Nat.zero_add _).trans (Nat.zero_shiftLeft n)

/-- Sound lines are delivered as they are stored. -/
theorem State.bytesAt_of_sound {a n : Nat} (ha : a % 64 = 0) (hn : n % 64 = 0)
    (h : ∀ i < n / 64, s.lineSound (a + 64 * i) = true) : s.bytesAt a n = (List.range n).map fun i => s.byteAt (a + i) := by
  refine List.map_congr_left fun i hi => ?_
  have hi := List.mem_range.1 hi
  have hline : (a + i) / 64 = (a + 64 * (i / 64)) / 64 := by omega
  exact State.seenByte_of_sound (h (i / 64) (by omega)) hline (s.populated_line hline)

end Sys2Proof.Machine
end

section
/-! SUPPORT. Packets (R266 to R276): what taking one from the inbox, dropping one and sending one leaves of the fabric. -/

namespace Sys2Proof.Machine
variable {s t u : State} {c : CoreId} {p q : Packet} {x : Nat × Packet} {ty : Nat}

/-! ### Ports -/

/-- The fabric changed in its ports alone. -/
def PortsOnly (s t : State) : Prop := t.fab = { s.fab with ports := t.fab.ports }

namespace PortsOnly

theorem refl (s : State) : PortsOnly s s := rfl

theorem trans (h : PortsOnly s t) (h' : PortsOnly t u) : PortsOnly s u := by
  unfold PortsOnly at *
  rw [h', h]

theorem of_fab (h : t.fab = s.fab) : PortsOnly s t := by rw [PortsOnly, h]

theorem setPort (s : State) (o : Nat) (y : Port) : PortsOnly s (s.setPort o y) := rfl

theorem putFlit (s : State) (o ft sq : Nat) (msg : Option LinkMsg) (b : List Byte) : PortsOnly s (s.putFlit o ft sq msg b) := rfl

theorem countHub (s : State) (ev : Nat) (hit : Nat → Bool) (n : Nat) : PortsOnly s (s.countHub ev hit n) := of_fab (by simp)

theorem foldl {α : Type} (l : List α) {f : State → α → State} (hf : ∀ t a, PortsOnly t (f t a)) (s : State) :
    PortsOnly s (l.foldl f s) := by
  induction l generalizing s with
  | nil => exact refl s
  | cons a l ih => exact (hf s a).trans (ih _)

theorem freeAt (s : State) (o b n : Nat) : PortsOnly s (s.freeAt o b n) := by
  unfold State.freeAt
  dsimp only
  split
  · exact (setPort s _ _).trans (putFlit _ _ _ _ _ _)
  · exact setPort s _ _

theorem freeHeld (s : State) (p : Packet) : PortsOnly s (s.freeHeld p) := by
  unfold State.freeHeld
  split
  · exact freeAt s _ _ _
  · exact refl s

theorem pumpN (o n : Nat) (s : State) : PortsOnly s (pumpN o n s) := by
  induction n generalizing s with
  | zero => exact refl s
  | succ n ih =>
    unfold Machine.pumpN
    dsimp only
    split
    · exact refl s
    · refine .trans ?_ (ih _)
      refine .trans ?_ (freeHeld _ _)
      refine .trans ?_ (foldl _ (fun t _ => putFlit t _ _ _ _ _) _)
      exact (setPort s o _).trans (countHub _ _ _ _)

theorem assign (s : State) (o : Nat) (p : Packet) : PortsOnly s (s.assign o p) := by
  unfold State.assign State.pump
  exact (setPort s _ _).trans (pumpN _ _ _)

theorem inbox (h : PortsOnly s t) : t.fab.inbox = s.fab.inbox := by rw [h]

end PortsOnly

theorem State.drop_inbox (s : State) (k : DropKind) (p : Packet) : (s.drop k p).fab.inbox = s.fab.inbox := by
  cases k <;> simp [State.drop]

/-- R275: a packet that is sent on takes nothing from the inbox. -/
theorem State.routeOut_inbox (s : State) (p : Packet) : (s.routeOut p).fab.inbox = s.fab.inbox := by
  unfold State.routeOut
  split
  · rw [State.drop_inbox, (PortsOnly.freeHeld s p).inbox]
  · exact (PortsOnly.assign s _ _).inbox

theorem State.sendPacket_inbox (h : p.dst ≠ s.fab.devid) : (s.sendPacket p).fab.inbox = s.fab.inbox := by
  unfold State.sendPacket
  dsimp only
  rw [if_neg h, State.routeOut_inbox]

theorem State.respond_inbox {pt aux : Nat} {pl : List Byte} (h : p.src ≠ s.fab.devid) :
    (s.respond p pt aux pl).fab.inbox = s.fab.inbox := State.sendPacket_inbox h

/-- R275: a port that is not ACTIVE sends no packet. -/
theorem pumpN_of_idle {o n : Nat} (h : (s.port o).state ≠ 4) : pumpN o n s = s := by
  cases n with
  | zero => rfl
  | succ n =>
    have hnone : (s.port o).nextSend = none := by simp [Port.nextSend, Port.maySend, h]
    simp only [pumpN, hnone]

theorem State.assign_of_idle {o : Nat} (h : (s.port o).state ≠ 4) :
    ((s.assign o p).port o).queue = (s.port o).queue ++ [p] := by
  unfold State.assign State.pump
  rw [pumpN_of_idle (by rw [State.port_setPort, if_pos rfl]; exact h), State.port_setPort, if_pos rfl]

/-! ### Counters of the hub that are off -/

/-- R496: with no counter of the hub enabled, nothing reaches the hub and its counters. -/
def Uncounted (s t : State) : Prop := s.pmu.hubCtl = 0 → t.hub = s.hub ∧ t.pmu = s.pmu

namespace Uncounted

theorem of_eq (hh : t.hub = s.hub) (hp : t.pmu = s.pmu) : Uncounted s t := fun _ => ⟨hh, hp⟩

theorem trans (h : Uncounted s t) (h' : Uncounted t u) : Uncounted s u := fun h0 => by
  obtain ⟨hh, hp⟩ := h h0
  obtain ⟨hh', hp'⟩ := h' (hp ▸ h0)
  exact ⟨hh'.trans hh, hp'.trans hp⟩

theorem foldl {α : Type} (l : List α) {f : State → α → State} (hf : ∀ t a, Uncounted t (f t a)) (s : State) :
    Uncounted s (l.foldl f s) := by
  induction l generalizing s with
  | nil => exact of_eq rfl rfl
  | cons a l ih => exact (hf s a).trans (ih _)

theorem countHub (s : State) (ev : Nat) (hit : Nat → Bool) (n : Nat) : Uncounted s (s.countHub ev hit n) := fun h => by
  simp [State.countHub, h]

theorem raise (s : State) (code : Nat) (cls : ErrClass) (i p : Nat) : Uncounted s (s.raise code cls i p) := fun h =>
  State.raise_of_uncounted h code cls i p

theorem putFlit (s : State) (o ft sq : Nat) (msg : Option LinkMsg) (b : List Byte) : Uncounted s (s.putFlit o ft sq msg b) :=
  of_eq rfl rfl

theorem setPort (s : State) (o : Nat) (y : Port) : Uncounted s (s.setPort o y) := of_eq rfl rfl

theorem freeHeld (s : State) (p : Packet) : Uncounted s (s.freeHeld p) := of_eq (by simp) (by simp)

theorem pumpN (o n : Nat) (s : State) : Uncounted s (pumpN o n s) := by
  induction n generalizing s with
  | zero => exact of_eq rfl rfl
  | succ n ih =>
    unfold Machine.pumpN
    dsimp only
    split
    · exact of_eq rfl rfl
    · refine .trans ?_ (ih _)
      refine .trans ?_ (freeHeld _ _)
      refine .trans ?_ (foldl _ (fun t _ => putFlit t _ _ _ _ _) _)
      exact (setPort s o _).trans (countHub _ _ _ _)

theorem drop (s : State) (k : DropKind) (p : Packet) : Uncounted s (s.drop k p) := by
  have h : ∀ (f : Fab) (n : Nat), Uncounted s (State.raise { s with fab := f } 0x0808 .c 0x7F n) := fun f n =>
    .trans (t := { s with fab := f }) (of_eq rfl rfl) (raise _ _ _ _ _)
  cases k <;> exact h _ _

theorem routeOut (s : State) (p : Packet) : Uncounted s (s.routeOut p) := by
  unfold State.routeOut
  split
  · exact (freeHeld s p).trans (drop _ _ _)
  · unfold State.assign State.pump
    exact (setPort s _ _).trans (pumpN _ _ _)

theorem sendPacket (s : State) (p : Packet) : Uncounted s (s.sendPacket p) := by
  unfold State.sendPacket
  dsimp only
  split
  · exact of_eq rfl rfl
  · exact routeOut s _

end Uncounted

/-! ### Occurrences -/

/-- What an occurrence records of the device has not changed. -/
theorem Raised.of_same {code inst payload : Nat} {cls : ErrClass} (h : Raised u t code cls inst payload) (he : u.err = s.err)
    (hp : u.pwr = s.pwr) (hh : u.hub = s.hub) (hc : u.cke = s.cke) : Raised s t code cls inst payload := by
  intro hq
  have h := h (he ▸ hq)
  simpa only [State.stepNow, State.jobIdNow, he, hp, hh, hc] using h

/-- R276: a dropped packet is recorded. -/
theorem State.drop_raised (s : State) (k : DropKind) (p : Packet) :
    Raised s (s.drop k p) 0x0808 .c 0x7F (devPayload p.src 0 0 + p.dst <<< 96 + p.ptype <<< 112) := by
  cases k <;> exact State.raise_raised.of_same (s := s) rfl rfl rfl rfl

theorem State.drop_dropTtl (s : State) (p : Packet) : (s.drop .ttl p).fab.dropTtl = satAdd 16 s.fab.dropTtl 1 := by
  simp [State.drop]

theorem State.drop_dropRoute (s : State) (p : Packet) : (s.drop .routeMiss p).fab.dropRoute = satAdd 16 s.fab.dropRoute 1 := by
  simp [State.drop]

/-! ### The inbox -/

/-- R256, R267: the state after a packet has left the inbox: its receive buffer is freed. -/
def State.taken (s : State) (x : Nat × Packet) : State :=
  if s.fab.ports.isEmpty || x.1 = 0x7F then { s with fab.inbox := s.fab.inbox.erase x }
  else State.freeAt { s with fab.inbox := s.fab.inbox.erase x } x.1 x.2.buf x.2.units

/-- The oldest packet of a type for this device. -/
def State.arrived (s : State) (ty : Nat) : Option (Nat × Packet) :=
  s.fab.inbox.find? fun x => x.2.ptype = ty && x.2.dst = s.fab.devid

theorem State.takeType_of_none (h : s.arrived ty = none) : s.takeType ty = none := by
  rw [State.arrived] at h
  rw [State.takeType, State.takeInbox, h]

theorem State.takeType_of_some (h : s.arrived ty = some x) : s.takeType ty = some (x.2, s.taken x) := by
  rw [State.arrived] at h
  rw [State.takeType, State.takeInbox, h]
  rfl

theorem State.taken_fab (s : State) (x : Nat × Packet) :
    (s.taken x).fab = { s.fab with inbox := s.fab.inbox.erase x, ports := (s.taken x).fab.ports } := by
  unfold State.taken
  split
  · rfl
  · exact PortsOnly.freeAt { s with fab.inbox := s.fab.inbox.erase x } _ _ _

theorem State.taken_sameOutside (s : State) (x : Nat × Packet) : SameOutside [.fab, .sent] s (s.taken x) := by
  unfold State.taken
  split
  · exact sameOutside_fab.mono (by simp)
  · exact fun p hp => by cases p <;> simp_all [StatePart.same]

theorem State.taken_sent (s : State) (x : Nat × Packet) (h : x.1 = 0x7F) : (s.taken x).sent = s.sent := by
  rw [State.taken, if_pos (by simp [h])]

end Sys2Proof.Machine
end

section
/-! SUPPORT. Packets that reach the hub (R81, R216, R269 to R276). -/

namespace Sys2Proof.Machine
variable {s t u : State} {c : CoreId} {p : Packet} {x : Nat × Packet} {ty : Nat}

/-! ### Answers -/

section respond
variable {pt aux : Nat} {pl : List Byte}

theorem State.respond_sameOutside : SameOutside [.hub, .err, .fab, .pmu, .sent] s (s.respond p pt aux pl) := fun q hq => by
  cases q <;> simp_all [StatePart.same]

/-- R267, R269: the answer to another device leaves the inbox as the request left it. -/
theorem State.respond_free (hi : u.fab.inbox = s.fab.inbox.erase x) (hd : u.fab.devid = s.fab.devid) :
    x.2.src ≠ s.fab.devid → (u.respond x.2 pt aux pl).fab.inbox = s.fab.inbox.erase x := fun h =>
  (State.respond_inbox (hd ▸ h)).trans hi

end respond

/-! ### Packets for other devices -/

/-- R256, R275: a packet on its way keeps its receive buffer. -/
def heldPacket (x : Nat × Packet) : Packet := { x.2 with held := if x.1 = 0x7F then none else some (x.1, x.2.buf) }

/-- R276: a packet goes on with one hop less. -/
def sentOn (x : Nat × Packet) : Packet := { heldPacket x with hops := x.2.hops - 1 }

/-- The state once a packet has left the inbox for another device. -/
def State.forwarded (s : State) (x : Nat × Packet) : State := { s with fab.inbox := s.fab.inbox.erase x }

theorem exec_packetForward (h : (s.fab.inbox.find? fun x => x.2.dst ≠ s.fab.devid) = some x) :
    exec .packetForward s = .next (if x.2.hops = 0 then ((s.forwarded x).freeHeld (heldPacket x)).drop .ttl (heldPacket x)
      else (s.forwarded x).routeOut (sentOn x)) := by
  have htake : s.takeForward = some (heldPacket x, s.forwarded x) := by
    rw [State.takeForward, h]
    rfl
  have hexec : exec .packetForward s = execPacketForward s := rfl
  rw [hexec, execPacketForward, htake]
  rfl

theorem State.routeOut_of_none (h : s.routeOf p.dst = none) : s.routeOut p = (s.freeHeld p).drop .routeMiss p := by
  rw [State.routeOut, h]

theorem State.routeOut_of_some {o : Nat} {dl : Bool} (h : s.routeOf p.dst = some (o, dl)) :
    s.routeOut p = s.assign o { p with level := if dl then 1 else p.level } := by
  rw [State.routeOut, h]

theorem State.freeHeld_drop_raised (s : State) (k : DropKind) (p : Packet) :
    Raised s ((s.freeHeld p).drop k p) 0x0808 .c 0x7F (devPayload p.src 0 0 + p.dst <<< 96 + p.ptype <<< 112) :=
  (State.drop_raised _ k p).of_same (by simp) (by simp) (by simp) (by simp)

theorem routeOut_sameOutside (s : State) (p : Packet) : SameOutside [.hub, .err, .fab, .pmu, .sent] s (s.routeOut p) := fun q hq => by
  cases q <;> simp_all [StatePart.same]

theorem freeHeld_drop_sameOutside (s : State) (k : DropKind) (p : Packet) :
    SameOutside [.hub, .err, .fab, .pmu, .sent] s ((s.freeHeld p).drop k p) := fun q hq => by
  cases q <;> simp_all [StatePart.same]

/-- R275, R276: the oldest packet for another device. -/
theorem packetForward_moves (h : (s.fab.inbox.find? fun x => x.2.dst ≠ s.fab.devid) = some x) :
    ∃ t, exec .packetForward s = .next t ∧ t.fab.inbox = s.fab.inbox.erase x ∧
      (x.2.hops = 0 → t.fab.dropTtl = satAdd 16 s.fab.dropTtl 1 ∧
        Raised s t 0x0808 .c 0x7F (devPayload x.2.src 0 0 + x.2.dst <<< 96 + x.2.ptype <<< 112)) ∧
      (x.2.hops ≠ 0 → s.routeOf x.2.dst = none → t.fab.dropRoute = satAdd 16 s.fab.dropRoute 1 ∧
        Raised s t 0x0808 .c 0x7F (devPayload x.2.src 0 0 + x.2.dst <<< 96 + x.2.ptype <<< 112)) ∧
      (∀ o dl, x.2.hops ≠ 0 → s.routeOf x.2.dst = some (o, dl) → (s.port o).state = 5 → (t.port o).queue =
        (s.port o).queue ++ [{ x.2 with
          hops := x.2.hops - 1, level := if dl then 1 else x.2.level
          held := if x.1 = 0x7F then none else some (x.1, x.2.buf) }]) ∧
      SameOutside [.hub, .err, .fab, .pmu, .sent] s t := by
  have hframe : SameOutside [.hub, .err, .fab, .pmu, .sent] s (s.forwarded x) := sameOutside_fab.mono (by simp)
  have hexec := exec_packetForward h
  by_cases hh : x.2.hops = 0
  · rw [if_pos hh] at hexec
    have hports := PortsOnly.freeHeld (s.forwarded x) (heldPacket x)
    refine ⟨_, hexec, ?_, fun _ => ⟨?_, ?_⟩, fun hn => absurd hh hn, fun _ _ hn => absurd hh hn,
      hframe.trans (freeHeld_drop_sameOutside _ _ _)⟩
    · rw [State.drop_inbox, hports]
      rfl
    · rw [State.drop_dropTtl, hports]
      rfl
    · exact (State.freeHeld_drop_raised (s.forwarded x) .ttl (heldPacket x)).of_same rfl rfl rfl rfl
  · rw [if_neg hh] at hexec
    refine ⟨_, hexec, State.routeOut_inbox _ _, fun h0 => absurd h0 hh, fun _ hr => ?_, fun o dl _ hr ho => ?_,
      hframe.trans (routeOut_sameOutside _ _)⟩
    · rw [State.routeOut_of_none (s := s.forwarded x) (p := sentOn x) hr]
      have hports := PortsOnly.freeHeld (s.forwarded x) (sentOn x)
      refine ⟨?_, (State.freeHeld_drop_raised (s.forwarded x) .routeMiss (sentOn x)).of_same rfl rfl rfl rfl⟩
      rw [State.drop_dropRoute, hports]
      rfl
    · rw [State.routeOut_of_some (s := s.forwarded x) (p := sentOn x) hr]
      exact State.assign_of_idle (s := s.forwarded x) fun h4 => absurd (ho.symm.trans h4) (by decide)

/-! ### Requests of other devices -/

theorem serveRequest_of_none {f : Packet → State → State} (h : s.arrived ty = none) : serveRequest s ty f = .next s := by
  rw [serveRequest, State.takeType_of_none h]

theorem State.taken_pkey (s : State) (x : Nat × Packet) : (s.taken x).fab.pkey = s.fab.pkey := by rw [s.taken_fab]

theorem State.taken_inbox (s : State) (x : Nat × Packet) : (s.taken x).fab.inbox = s.fab.inbox.erase x := by rw [s.taken_fab]

theorem State.taken_devid (s : State) (x : Nat × Packet) : (s.taken x).fab.devid = s.fab.devid := by rw [s.taken_fab]

theorem State.taken_windowOk (s : State) (x : Nat × Packet) (a n : Nat) (w : Bool) :
    (s.taken x).windowOk a n w = s.windowOk a n w := by
  rw [State.windowOk, s.taken_fab, State.windowOk]

/-- R271: a request with another partition key is refused. -/
theorem serveRequest_of_pkey {f : Packet → State → State} (h : s.arrived ty = some x) (hk : x.2.pkey ≠ s.fab.pkey) :
    serveRequest s ty f = .next ((s.taken x).respond x.2 0x06 2 []) := by
  rw [serveRequest, State.takeType_of_some h]
  dsimp only
  rw [if_pos (by rwa [s.taken_pkey])]
  rfl

/-- R270: a request with this partition's key is served. -/
theorem serveRequest_of_key {f : Packet → State → State} (hs : s.hub.snoop = []) (hb : s.hub.bisnp = [])
    (h : s.arrived ty = some x) (hk : x.2.pkey = s.fab.pkey) : serveRequest s ty f = .next (f x.2 (s.taken x)) := by
  rw [serveRequest, State.takeType_of_some h]
  dsimp only
  rw [if_neg (by simp [s.taken_pkey, hk]), afterSnoop_of_nil hs hb]

/-- R271: what is left of a request that is refused for its key. -/
theorem refused_pkey {e : Answer} (he : e = .next ((s.taken x).respond x.2 0x06 2 [])) :
    ∃ t u : State, e = .next t ∧ t = u.respond x.2 0x06 2 [] ∧ (x.2.src ≠ s.fab.devid → t.fab.inbox = s.fab.inbox.erase x) ∧
      SameOutside [.fab, .sent] s u ∧ SameOutside [.hub, .err, .fab, .pmu, .sent] s t :=
  ⟨_, s.taken x, he, rfl, State.respond_free (s.taken_inbox x) (s.taken_devid x), s.taken_sameOutside x,
    ((s.taken_sameOutside x).mono (by simp)).trans State.respond_sameOutside⟩

theorem State.taken_raised {code inst payload : Nat} {cls : ErrClass} (h : Raised (s.taken x) t code cls inst payload) :
    Raised s t code cls inst payload := by
  have hsame := s.taken_sameOutside x
  exact h.of_same (hsame .err (by simp)) (hsame .pwr (by simp)) (hsame .hub (by simp)) (hsame .cke (by simp))

/-- R270: what is left of a request outside the windows. -/
theorem refused_window {e : Answer} (he : e = .next ((s.taken x).refuseWindow x.2)) :
    ∃ t u : State, e = .next t ∧ t = u.respond x.2 0x06 1 [] ∧ (x.2.src ≠ s.fab.devid → t.fab.inbox = s.fab.inbox.erase x) ∧
      Raised s u 0x0809 .c 0x7F (devPayload x.2.src 0 0 + x.2.addr <<< 96) ∧ SameOutside [.hub, .err, .fab, .pmu, .sent] s t := by
  have hfab : ∀ (t : State) (n : Nat), (t.raise 0x0809 .c 0x7F n).fab = t.fab := fun t n => by simp
  refine ⟨_, (s.taken x).raise 0x0809 .c 0x7F (devPayload x.2.src 0 0 + x.2.addr <<< 96), he, rfl,
    State.respond_free ?_ ?_, State.taken_raised State.raise_raised, ?_⟩
  · rw [hfab, s.taken_inbox]
  · rw [hfab, s.taken_devid]
  · exact ((s.taken_sameOutside x).mono (by simp)).trans
      ((State.raise_sameOutside.mono (by simp)).trans State.respond_sameOutside)

/-- R270: the lines of a window. -/
theorem State.windowOk_lines {a n : Nat} {w : Bool} (h : s.windowOk a n w = true) : a % 64 = 0 ∧ n % 64 = 0 := by
  simp only [State.windowOk, Bool.and_eq_true, decide_eq_true_eq] at h
  obtain ⟨⟨⟨⟨ha, hn⟩, -⟩, -⟩, -⟩ := h
  exact ⟨ha, hn⟩

end Sys2Proof.Machine
end

section
/-! SUPPORT. Remote writes, reads and signals (R81, R222, R269, R270, R274). -/

namespace Sys2Proof.Machine
variable {s t u : State} {c : CoreId} {p : Packet} {x : Nat × Packet} {ty : Nat}

/-! ### The state a request is served in -/

theorem State.taken_mem (s : State) (x : Nat × Packet) : (s.taken x).mem = s.mem := s.taken_sameOutside x .mem (by simp)

theorem State.taken_linesRead (s : State) (x : Nat × Packet) : LinesRead s (s.taken x) :=
  .of_mem (s.taken_sameOutside x .ident (by simp)) (s.taken_mem x)

theorem State.respond_mem {pt aux : Nat} {pl : List Byte} : (s.respond p pt aux pl).mem = s.mem := State.respond_sameOutside .mem (by simp)

theorem State.poisoned_of_mem (h : t.mem = s.mem) (a : Nat) : t.poisoned a = s.poisoned a := by rw [State.poisoned, h, State.poisoned]

/-! ### Writes -/

/-- R270, R374: the state a WR leaves before it is acknowledged. -/
def wrServed (p : Packet) (s : State) : State :=
  let s1 := (List.range (p.len / 64)).foldl (wrLine p) s
  State.settleReshard { s1 with cke.arrived := s1.cke.arrived ++ [(p.addr, p.addr + p.len)] }

theorem serveWr_of_window (h : s.windowOk p.addr p.len true = true) : serveWr p s = (wrServed p s).respond p 0x05 0 [] := by
  simp only [serveWr, h, Bool.not_true, Bool.false_eq_true, if_false]
  rfl

theorem serveWr_of_refused (h : s.windowOk p.addr p.len true = false) : serveWr p s = s.refuseWindow p := by
  simp only [serveWr, h, Bool.not_false, if_true]

theorem wrServed_read (p : Packet) (s : State) : LinesRead ((List.range (p.len / 64)).foldl (wrLine p) s) (wrServed p s) :=
  .trans (t := { (List.range (p.len / 64)).foldl (wrLine p) s with
    cke.arrived := ((List.range (p.len / 64)).foldl (wrLine p) s).cke.arrived ++ [(p.addr, p.addr + p.len)] })
    (.of_mem rfl rfl) (.settleReshard _)

theorem serveWr_sameOutside (p : Packet) (s : State) :
    SameOutside [.cores, .hub, .err, .mem, .cke, .pwr, .fab, .pmu, .sent, .fresh] s (serveWr p s) := fun q hq => by
  cases q <;> simp_all [StatePart.same]

/-- R222, R270: a WR into populated windows. -/
theorem wr_written (hs : s.hub.snoop = []) (hb : s.hub.bisnp = []) (hx : s.arrived 0x01 = some x) (hk : x.2.pkey = s.fab.pkey)
    (hw : s.windowOk x.2.addr x.2.len true = true) (hl : x.2.payload.length = x.2.len)
    (hp : ∀ a, x.2.addr ≤ a → a < x.2.addr + x.2.len → s.populated a = true) :
    ∃ t u : State, exec .wr s = .next t ∧ t = u.respond x.2 0x05 0 [] ∧ t.mem = u.mem ∧
      (∀ a, a < x.2.addr ∨ x.2.addr + x.2.len ≤ a → t.byteAt a = s.byteAt a) ∧
      (∀ i < x.2.len, t.byteAt (x.2.addr + i) = x.2.payload.getD i 0) ∧
      (∀ i < x.2.len / 64, t.poisoned (x.2.addr + 64 * i) = bitAt x.2.aux i) ∧
      SameOutside [.cores, .hub, .err, .mem, .cke, .pwr, .fab, .pmu, .sent, .fresh] s t := by
  obtain ⟨ha, hn⟩ := State.windowOk_lines hw
  have hread := s.taken_linesRead x
  have hw' := (s.taken_windowOk x x.2.addr x.2.len true).trans hw
  have hexec : exec .wr s = .next (serveWr x.2 (s.taken x)) := serveRequest_of_key hs hb hx hk
  have hwr : LinesWritten x.2 (x.2.len / 64) (s.taken x) ((List.range (x.2.len / 64)).foldl (wrLine x.2) (s.taken x)) :=
    wrLines_written ha (by omega) fun i hi => (hread.places.populated _).trans (hp _ (by omega) (by omega))
  have hset := wrServed_read x.2 (s.taken x)
  have hframe := ((s.taken_sameOutside x).mono (by simp)).trans (serveWr_sameOutside x.2 (s.taken x))
  rw [serveWr_of_window hw'] at hexec hframe
  have hbyte : ∀ a, ((wrServed x.2 (s.taken x)).respond x.2 0x05 0 []).byteAt a =
      if x.2.addr ≤ a ∧ a < x.2.addr + x.2.len then x.2.payload.getD (a - x.2.addr) 0 else s.byteAt a := fun a => by
    rw [State.byteAt_of_bytes (congrArg Memory.bytes State.respond_mem), hset.byteAt, hwr.byteAt, hread.byteAt]
    exact if_congr (by omega) rfl rfl
  refine ⟨_, wrServed x.2 (s.taken x), hexec, rfl, State.respond_mem, fun a ha => ?_, fun i hi => ?_, fun i hi => ?_, hframe⟩
  · rw [hbyte, if_neg (by omega)]
  · rw [hbyte, if_pos (by omega), Nat.add_sub_cancel_left]
  · obtain ⟨he, hpo⟩ := hwr.sound i hi
    rw [State.poisoned_of_mem State.respond_mem, (hset.sound _ he).2, hpo]

/-- R269, R374: the state a WR_PARTIAL leaves before it is acknowledged. -/
def partialServed (p : Packet) (s : State) : State :=
  let s1 := s.writeMasked 0x84 p.addr p.payload p.aux
  State.settleReshard { s1 with
    cke.arrived := s1.cke.arrived ++ ((List.range 64).filter (bitAt p.aux)).map fun i => (p.addr + i, p.addr + i + 1) }

theorem serveWrPartial_of_window (hl : p.len = 64) (h : s.windowOk p.addr 64 true = true) :
    serveWrPartial p s = (partialServed p s).respond p 0x05 0 [] := by
  simp only [serveWrPartial, hl, h, ne_eq, not_true, decide_false, Bool.not_true, Bool.or_self, Bool.false_eq_true, if_false]
  rfl

theorem serveWrPartial_of_refused (h : p.len ≠ 64 ∨ s.windowOk p.addr 64 true = false) : serveWrPartial p s = s.refuseWindow p := by
  obtain h | h := h
  · simp [serveWrPartial, h]
  · simp [serveWrPartial, h]

theorem partialServed_read (p : Packet) (s : State) :
    LinesRead (s.writeMasked 0x84 p.addr p.payload p.aux) (partialServed p s) :=
  .trans (t := { s.writeMasked 0x84 p.addr p.payload p.aux with
    cke.arrived := (s.writeMasked 0x84 p.addr p.payload p.aux).cke.arrived ++
      ((List.range 64).filter (bitAt p.aux)).map fun i => (p.addr + i, p.addr + i + 1) })
    (.of_mem rfl rfl) (.settleReshard _)

theorem serveWrPartial_sameOutside (p : Packet) (s : State) :
    SameOutside [.cores, .hub, .err, .mem, .cke, .pwr, .fab, .pmu, .sent, .fresh] s (serveWrPartial p s) := fun q hq => by
  cases q <;> simp_all [StatePart.same]

/-- R230, R269: a WR_PARTIAL into a populated window. -/
theorem wrPartial_written (hs : s.hub.snoop = []) (hb : s.hub.bisnp = []) (hx : s.arrived 0x02 = some x)
    (hk : x.2.pkey = s.fab.pkey) (hl : x.2.len = 64) (hw : s.windowOk x.2.addr 64 true = true)
    (hp : ∀ i < 64, s.populated (x.2.addr + i) = true) :
    ∃ t u : State, exec .wrPartial s = .next t ∧ t = u.respond x.2 0x05 0 [] ∧ t.mem = u.mem ∧
      (∀ a, a < x.2.addr ∨ x.2.addr + 64 ≤ a → t.byteAt a = s.byteAt a) ∧
      (∀ i < 64, t.byteAt (x.2.addr + i) = if bitAt x.2.aux i then x.2.payload.getD i 0 else s.byteAt (x.2.addr + i)) ∧
      SameOutside [.cores, .hub, .err, .mem, .cke, .pwr, .fab, .pmu, .sent, .fresh] s t := by
  have hread := s.taken_linesRead x
  have hw' := (s.taken_windowOk x x.2.addr 64 true).trans hw
  have hexec : exec .wrPartial s = .next (serveWrPartial x.2 (s.taken x)) := serveRequest_of_key hs hb hx hk
  have hset := partialServed_read x.2 (s.taken x)
  have hpop : (s.taken x).populated x.2.addr = true := (hread.places.populated _).trans (hp 0 (by decide))
  have hframe := ((s.taken_sameOutside x).mono (by simp)).trans (serveWrPartial_sameOutside x.2 (s.taken x))
  rw [serveWrPartial_of_window hl hw'] at hexec hframe
  have hbyte : ∀ a, ((partialServed x.2 (s.taken x)).respond x.2 0x05 0 []).byteAt a =
      if x.2.addr ≤ a ∧ a < x.2.addr + 64 ∧ bitAt x.2.aux (a - x.2.addr) = true then x.2.payload.getD (a - x.2.addr) 0
      else s.byteAt a := fun a => by
    rw [State.byteAt_of_bytes (congrArg Memory.bytes State.respond_mem), hset.byteAt,
      State.writeMasked_byteAt hpop, hread.byteAt]
  refine ⟨_, partialServed x.2 (s.taken x), hexec, rfl, State.respond_mem, fun a ha => ?_, fun i hi => ?_, hframe⟩
  · rw [hbyte, if_neg (by omega)]
  · rw [hbyte, Nat.add_sub_cancel_left]
    exact if_congr (by simp [hi]) rfl rfl

/-! ### Reads -/

theorem serveRd_of_window (h : s.windowOk p.addr p.len false = true) :
    serveRd p s = (rdLines p (p.len / 64) s).2.respond p 0x04 (rdLines p (p.len / 64) s).1
      ((rdLines p (p.len / 64) s).2.bytesAt p.addr p.len) := by
  simp only [serveRd, h, Bool.not_true, Bool.false_eq_true, if_false]
  rfl

theorem serveRd_of_refused (h : s.windowOk p.addr p.len false = false) : serveRd p s = s.refuseWindow p := by
  simp only [serveRd, h, Bool.not_false, if_true]

theorem rdLines_fab (p : Packet) (n : Nat) (s : State) : (rdLines p n s).2.fab = s.fab := by
  induction n with
  | zero => rfl
  | succ n ih =>
    rw [rdLines_succ]
    simpa using ih

theorem serveRd_sameOutside (p : Packet) (s : State) :
    SameOutside [.hub, .err, .mem, .cke, .pwr, .fab, .pmu, .sent, .fresh] s (serveRd p s) := fun q hq => by
  cases q <;> simp_all [StatePart.same]

/-- R227, R232, R270: a RD_REQ inside the windows. -/
theorem rdReq_read (hs : s.hub.snoop = []) (hb : s.hub.bisnp = []) (hx : s.arrived 0x03 = some x) (hk : x.2.pkey = s.fab.pkey)
    (hw : s.windowOk x.2.addr x.2.len false = true) : ∃ (t u : State) (aux : Nat), exec .rdReq s = .next t ∧
      t = u.respond x.2 0x04 aux (u.bytesAt x.2.addr x.2.len) ∧ (∀ a, t.byteAt a = s.byteAt a) ∧
      (x.2.src ≠ s.fab.devid → t.fab.inbox = s.fab.inbox.erase x) ∧
      ((∀ i < x.2.len / 64, s.lineSound (x.2.addr + 64 * i) = true) →
        aux = 0 ∧ u.bytesAt x.2.addr x.2.len = (List.range x.2.len).map fun i => s.byteAt (x.2.addr + i)) ∧
      SameOutside [.hub, .err, .mem, .cke, .pwr, .fab, .pmu, .sent, .fresh] s t := by
  obtain ⟨ha, hn⟩ := State.windowOk_lines hw
  have hread := s.taken_linesRead x
  have hw' := (s.taken_windowOk x x.2.addr x.2.len false).trans hw
  have hexec : exec .rdReq s = .next (serveRd x.2 (s.taken x)) := serveRequest_of_key hs hb hx hk
  have hlines := hread.trans (rdLines_read x.2 (x.2.len / 64) (s.taken x))
  have hframe := ((s.taken_sameOutside x).mono (by simp)).trans (serveRd_sameOutside x.2 (s.taken x))
  rw [serveRd_of_window hw'] at hexec hframe
  refine ⟨_, (rdLines x.2 (x.2.len / 64) (s.taken x)).2, (rdLines x.2 (x.2.len / 64) (s.taken x)).1, hexec, rfl, fun a => ?_,
    State.respond_free ?_ ?_, fun h => ⟨rdLines_sound fun i hi => hread.lineSound (h i hi), ?_⟩, hframe⟩
  · rw [State.byteAt_of_bytes (congrArg Memory.bytes State.respond_mem), hlines.byteAt]
  · rw [rdLines_fab, s.taken_inbox]
  · rw [rdLines_fab, s.taken_devid]
  · rw [State.bytesAt_of_sound ha hn fun i hi => hlines.lineSound (h i hi)]
    exact List.map_congr_left fun i _ => hlines.byteAt _

end Sys2Proof.Machine
end

section
/-! SUPPORT. Remote signals, responses and timeouts (R81, R216, R269, R273, R274). -/

namespace Sys2Proof.Machine
variable {s t u : State} {c : CoreId} {p : Packet} {x : Nat × Packet} {ty : Nat} {r : Request} {o : ReqOwner}

/-! ### Signals -/

/-- R81: is a signal dropped at its target? -/
def signalDropped (s : State) (p : Packet) : Bool :=
  if bitAt p.aux 14 then decide (fld p.aux 22 10 < 64) else !s.inService (fld p.aux 16 6) || decide (248 ≤ fld p.aux 22 10)

theorem State.signalDrop_of_dropped (h : signalDropped s p = true) :
    s.signalDrop p = some (if !bitAt p.aux 14 && !s.inService (fld p.aux 16 6) then 0x0301 else 0x030A,
      if bitAt p.aux 14 then 0x7F else fld p.aux 16 6) := by
  unfold signalDropped at h
  unfold State.signalDrop
  cases hb : bitAt p.aux 14 <;> cases hi : s.inService (fld p.aux 16 6) <;> simp_all

theorem State.signalDrop_of_kept (h : signalDropped s p = false) : s.signalDrop p = none := by
  unfold signalDropped at h
  unfold State.signalDrop
  cases hb : bitAt p.aux 14 <;> cases hi : s.inService (fld p.aux 16 6) <;> simp_all

/-- R274: the sequence numbers of a device whose signals have been applied. -/
def signalSeen (s : State) (p : Packet) : Bool := (sget [] s.fab.applied p.src).contains p.sseq

/-- R274: the sequence number of a signal is kept with the last 64 of its device. -/
def State.sseqNoted (s : State) (p : Packet) : State :=
  { s with fab.applied := sset [] s.fab.applied p.src ((p.sseq :: sget [] s.fab.applied p.src).take 64) }

/-- R81: the state once a signal has been added to its flag. -/
def remoteSignalled (s : State) (p : Packet) : State :=
  if bitAt p.aux 14 then (s.sseqNoted p).addHubFlag (fld p.aux 22 10) (BitVec.ofNat 32 (fld p.aux 32 32))
  else (s.sseqNoted p).addCoreFlag (coreNo (fld p.aux 16 6)) (fld p.aux 22 10) (BitVec.ofNat 32 (fld p.aux 32 32))

theorem serveSignal_of_seen (h : signalSeen s p = true) : serveSignal p s = s.respond p 0x08 0 [] := by
  simp only [serveSignal, signalSeen] at h ⊢
  rw [if_pos h]

theorem serveSignal_of_dropped (h : signalSeen s p = false) (hd : signalDropped s p = true) : serveSignal p s =
    (s.raise (if !bitAt p.aux 14 && !s.inService (fld p.aux 16 6) then 0x0301 else 0x030A) .c
      (if bitAt p.aux 14 then 0x7F else fld p.aux 16 6) 0).respond p 0x08 1 [] := by
  simp only [serveSignal, signalSeen] at h ⊢
  rw [if_neg (by rw [h]; exact Bool.false_ne_true), State.signalDrop_of_dropped hd]

theorem serveSignal_of_kept (h : signalSeen s p = false) (hd : signalDropped s p = false) :
    serveSignal p s = (remoteSignalled s p).respond p 0x08 0 [] := by
  simp only [serveSignal, signalSeen] at h ⊢
  rw [if_neg (by rw [h]; exact Bool.false_ne_true), State.signalDrop_of_kept hd]
  rfl

theorem State.addHubFlag_hubCtl (s : State) (n : Nat) (i : Word32) : (s.addHubFlag n i).pmu.hubCtl = s.pmu.hubCtl := by
  have h : (s.pmu.flagAdded n).hubCtl = s.pmu.hubCtl := by
    unfold Pmu.flagAdded
    split <;> rfl
  simpa [State.addHubFlag, fireBinds] using h

theorem State.sseqNoted_sameOutside (s : State) (p : Packet) : SameOutside [.fab] s (s.sseqNoted p) := sameOutside_fab

theorem remoteSignalled_hubCtl (s : State) (p : Packet) : (remoteSignalled s p).pmu.hubCtl = s.pmu.hubCtl := by
  unfold remoteSignalled
  split
  · exact State.addHubFlag_hubCtl _ _ _
  · rfl

theorem remoteSignalled_hubFlag (s : State) (p : Packet) (n : Nat) : (remoteSignalled s p).hubFlag n = s.hubFlag n +
    (if bitAt p.aux 14 && n = fld p.aux 22 10 then BitVec.ofNat 32 (fld p.aux 32 32) else 0) := by
  have hnoted : (s.sseqNoted p).hubFlag n = s.hubFlag n := rfl
  unfold remoteSignalled
  cases bitAt p.aux 14 with
  | true => simp only [if_true, State.addHubFlag_hubFlag, Bool.true_and, decide_eq_true_eq, eq_comm (a := n), hnoted]
  | false => simp [State.addCoreFlag_hubFlag, hnoted]

theorem remoteSignalled_flag (hs : s.has64) (p : Packet) (k : CoreId) (n : Nat) :
    ((remoteSignalled s p).core k).flag n = (s.core k).flag n +
      (if !bitAt p.aux 14 && k = coreNo (fld p.aux 16 6) && n = fld p.aux 22 10 then BitVec.ofNat 32 (fld p.aux 32 32) else 0) := by
  have hnoted : (s.sseqNoted p).core k = s.core k := rfl
  unfold remoteSignalled
  cases bitAt p.aux 14 with
  | true =>
    rw [if_pos rfl, State.core_of_cores (s := s.sseqNoted p) (by simp), hnoted]
    simp
  | false =>
    rw [if_neg Bool.false_ne_true, State.addCoreFlag_flag (s := s.sseqNoted p) hs, hnoted]
    simp only [Bool.not_false, Bool.true_and, Bool.and_eq_true, decide_eq_true_eq, and_comm, eq_comm (a := n)]

theorem remoteSignalled_sameOutside (s : State) (p : Packet) : SameOutside [.cores, .hub, .fab, .pmu, .sent] s (remoteSignalled s p) := by
  refine ((s.sseqNoted_sameOutside p).mono (by simp)).trans ?_
  unfold remoteSignalled
  split
  · exact fun q hq => by cases q <;> simp_all [StatePart.same]
  · exact sameOutside_cores.mono (by simp)

theorem remoteSignalled_inbox (s : State) (p : Packet) :
    (remoteSignalled s p).fab.inbox = s.fab.inbox ∧ (remoteSignalled s p).fab.devid = s.fab.devid := by
  have hfab : (remoteSignalled s p).fab = (s.sseqNoted p).fab := by
    unfold remoteSignalled
    split
    · simp
    · rfl
  rw [hfab]
  exact ⟨rfl, rfl⟩

theorem State.respond_hubFlag {pt aux : Nat} {pl : List Byte} (h : s.pmu.hubCtl = 0) (n : Nat) :
    (s.respond p pt aux pl).hubFlag n = s.hubFlag n :=
  State.hubFlag_of_flags (congrArg Hub.flags (Uncounted.sendPacket s _ h).1) n

theorem State.respond_core {pt aux : Nat} {pl : List Byte} (k : CoreId) : (s.respond p pt aux pl).core k = s.core k :=
  State.core_of_cores (State.respond_sameOutside .cores (by simp)) k

theorem State.taken_core (s : State) (x : Nat × Packet) (k : CoreId) : (s.taken x).core k = s.core k :=
  State.core_of_cores (s.taken_sameOutside x .cores (by simp)) k

theorem State.taken_hub (s : State) (x : Nat × Packet) : (s.taken x).hub = s.hub := s.taken_sameOutside x .hub (by simp)

theorem State.taken_pmu (s : State) (x : Nat × Packet) : (s.taken x).pmu = s.pmu := s.taken_sameOutside x .pmu (by simp)

theorem State.taken_inService (s : State) (x : Nat × Packet) (n : Nat) : (s.taken x).inService n = s.inService n := by
  have hi : (s.taken x).ident = s.ident := s.taken_sameOutside x .ident (by simp)
  have ht : (s.taken x).top = s.top := s.taken_sameOutside x .top (by simp)
  rw [State.inService, State.present, hi, ht, State.inService, State.present]

theorem signalDropped_taken (s : State) (x : Nat × Packet) (p : Packet) : signalDropped (s.taken x) p = signalDropped s p := by
  rw [signalDropped, s.taken_inService, signalDropped]

theorem signalSeen_taken (s : State) (x : Nat × Packet) (p : Packet) : signalSeen (s.taken x) p = signalSeen s p := by
  rw [signalSeen, s.taken_fab, signalSeen]

/-- R81, R274: a SIGNAL with this partition's key. -/
theorem signalPacket_served (hs : s.hub.snoop = []) (hb : s.hub.bisnp = []) (h64 : s.has64) (hx : s.arrived 0x07 = some x)
    (hk : x.2.pkey = s.fab.pkey) (h0 : s.pmu.hubCtl = 0) : ∃ t u : State, exec .signalPacket s = .next t ∧
      t = u.respond x.2 0x08 (if !signalSeen s x.2 && signalDropped s x.2 then 1 else 0) [] ∧
      (x.2.src ≠ s.fab.devid → t.fab.inbox = s.fab.inbox.erase x) ∧
      (∀ k n, (t.core k).flag n = (s.core k).flag n
        + (if !signalSeen s x.2 && !signalDropped s x.2 && !bitAt x.2.aux 14 && k = coreNo (fld x.2.aux 16 6) && n = fld x.2.aux 22 10
          then BitVec.ofNat 32 (fld x.2.aux 32 32) else 0)) ∧
      (∀ n, t.hubFlag n = s.hubFlag n
        + (if !signalSeen s x.2 && !signalDropped s x.2 && bitAt x.2.aux 14 && n = fld x.2.aux 22 10
          then BitVec.ofNat 32 (fld x.2.aux 32 32) else 0)) ∧
      (signalSeen s x.2 = false → signalDropped s x.2 = true →
        Raised s u (if !bitAt x.2.aux 14 && !s.inService (fld x.2.aux 16 6) then 0x0301 else 0x030A) .c
          (if bitAt x.2.aux 14 then 0x7F else fld x.2.aux 16 6) 0) ∧
      SameOutside [.cores, .hub, .err, .fab, .pmu, .sent] s t := by
  have hexec : exec .signalPacket s = .next (serveSignal x.2 (s.taken x)) := serveRequest_of_key hs hb hx hk
  have hctl : (s.taken x).pmu.hubCtl = 0 := by rw [s.taken_pmu, h0]
  have htaken : SameOutside [.cores, .hub, .err, .fab, .pmu, .sent] s (s.taken x) := (s.taken_sameOutside x).mono (by simp)
  have hflag : ∀ n, (s.taken x).hubFlag n = s.hubFlag n := State.hubFlag_of_flags (congrArg Hub.flags (s.taken_hub x))
  have hresp : ∀ v : State, ∀ aux, SameOutside [.cores, .hub, .err, .fab, .pmu, .sent] v (v.respond x.2 0x08 aux []) := fun v aux =>
    State.respond_sameOutside.mono (by simp)
  cases hseen : signalSeen s x.2 with
  | true =>
    rw [serveSignal_of_seen (by rw [signalSeen_taken, hseen])] at hexec
    refine ⟨_, s.taken x, hexec, rfl, State.respond_free (s.taken_inbox x) (s.taken_devid x), fun k n => ?_, fun n => ?_,
      fun h => absurd h (by simp), htaken.trans (hresp _ _)⟩
    · rw [State.respond_core, s.taken_core]
      simp
    · rw [State.respond_hubFlag hctl, hflag]
      simp
  | false => cases hdrop : signalDropped s x.2 with
    | true =>
      rw [serveSignal_of_dropped (by rw [signalSeen_taken, hseen]) (by rw [signalDropped_taken, hdrop]), s.taken_inService] at hexec
      have hraise := State.raise_of_uncounted hctl
        (if !bitAt x.2.aux 14 && !s.inService (fld x.2.aux 16 6) then 0x0301 else 0x030A) .c
        (if bitAt x.2.aux 14 then 0x7F else fld x.2.aux 16 6) 0
      refine ⟨_, _, hexec, rfl, State.respond_free ?_ ?_, fun k n => ?_, fun n => ?_, fun _ _ => State.taken_raised State.raise_raised,
        htaken.trans ((State.raise_sameOutside.mono (by simp)).trans (hresp _ _))⟩
      · rw [← s.taken_inbox]
        simp
      · rw [← s.taken_devid x]
        simp
      · rw [State.respond_core, State.core_of_cores (s := s.taken x) (by simp), s.taken_core]
        simp
      · rw [State.respond_hubFlag (by rw [hraise.2, hctl]), State.hubFlag_of_flags (congrArg Hub.flags hraise.1), hflag]
        simp
    | false =>
      rw [serveSignal_of_kept (by rw [signalSeen_taken, hseen]) (by rw [signalDropped_taken, hdrop])] at hexec
      obtain ⟨hinbox, hdev⟩ := remoteSignalled_inbox (s.taken x) x.2
      refine ⟨_, _, hexec, rfl, State.respond_free (hinbox.trans (s.taken_inbox x)) (hdev.trans (s.taken_devid x)), fun k n => ?_,
        fun n => ?_, fun _ h => absurd h (by simp), htaken.trans (((remoteSignalled_sameOutside _ _).mono (by simp)).trans (hresp _ _))⟩
      · rw [State.respond_core, remoteSignalled_flag (State.has64_of_cores h64 (s.taken_sameOutside x .cores (by simp))), s.taken_core]
        rfl
      · rw [State.respond_hubFlag (by rw [remoteSignalled_hubCtl, hctl]), remoteSignalled_hubFlag, hflag]
        rfl

end Sys2Proof.Machine
end

section
/-! SUPPORT. Responses to this device's requests and their timeouts (R81, R215, R216, R269, R273). -/

namespace Sys2Proof.Machine
variable {s t u : State} {c : CoreId} {p : Packet} {x : Nat × Packet} {ty n cmd : Nat} {r : Request} {run : TmvRun}

/-! ### The request a response answers -/

/-- R273: the outstanding request a response answers. -/
def State.asked (s : State) (p : Packet) : Option Request := s.fab.reqs.find? fun r => r.pkt.tag = p.tag && r.pkt.dst = p.src

/-- The state once a response has taken its request. -/
def State.answered (s : State) (x : Nat × Packet) (r : Request) : State := { s.taken x with fab.reqs := s.fab.reqs.erase r }

theorem State.taken_reqs (s : State) (x : Nat × Packet) : (s.taken x).fab.reqs = s.fab.reqs := by rw [s.taken_fab]

theorem State.takeReq_of_none (h : s.asked x.2 = none) : (s.taken x).takeReq x.2 = none := by
  rw [State.asked] at h
  rw [State.takeReq, s.taken_reqs, h]

theorem State.takeReq_of_some (h : s.asked x.2 = some r) : (s.taken x).takeReq x.2 = some (r, s.answered x r) := by
  rw [State.asked] at h
  rw [State.takeReq, s.taken_reqs, h]
  rfl

theorem State.answered_sameOutside (s : State) (x : Nat × Packet) (r : Request) : SameOutside [.fab, .sent] s (s.answered x r) :=
  (s.taken_sameOutside x).trans (sameOutside_fab.mono (by simp))

theorem State.answered_core (s : State) (x : Nat × Packet) (r : Request) (k : CoreId) : (s.answered x r).core k = s.core k :=
  State.core_of_cores (s.answered_sameOutside x r .cores (by simp)) k

theorem State.answered_has64 (hs : s.has64) : (s.answered x r).has64 :=
  State.has64_of_cores hs (s.answered_sameOutside x r .cores (by simp))

/-- R273: a response that answers nothing is discarded. -/
theorem response_of_none : ∀ i ∈ [(Instr.rdResp, 0x04), (.wrAck, 0x05), (.nak, 0x06), (.signalAck, 0x08)],
    s.arrived i.2 = some x → s.asked x.2 = none → exec i.1 s = .next (s.taken x) := by
  intro i hi hx h
  have hreq := State.takeReq_of_none h
  simp only [List.mem_cons, List.not_mem_nil, or_false] at hi
  obtain rfl | rfl | rfl | rfl := hi
  · simp only [exec, execRdResp, State.takeType_of_some hx, hreq]
  · simp only [exec, execWrAck, State.takeType_of_some hx, hreq]
  · simp only [exec, execNak, State.takeType_of_some hx, hreq]
  · simp only [exec, execSignalAck, State.takeType_of_some hx, hreq]

/-! ### Signals acknowledged or failed -/

theorem exec_signalAck (hx : s.arrived 0x08 = some x) (hr : s.asked x.2 = some r) (ho : r.owner = .signal n cmd) :
    exec .signalAck s = .next ((s.answered x r).modCore (coreNo n) fun k => hubDone k cmd) := by
  have hexec : exec .signalAck s = execSignalAck s := rfl
  rw [hexec, execSignalAck, State.takeType_of_some hx]
  dsimp only
  rw [State.takeReq_of_some hr]
  dsimp only
  rw [ho]

/-- R81: the RSIGNAL of an acknowledged SIGNAL is complete. -/
theorem signalAck_done (hs : s.has64) (hx : s.arrived 0x08 = some x) (hr : s.asked x.2 = some r) (ho : r.owner = .signal n cmd) :
    ∃ t, exec .signalAck s = .next t ∧ t.fab.reqs = s.fab.reqs.erase r ∧ t.core (coreNo n) = hubDone (s.core (coreNo n)) cmd ∧
      OtherCores (coreNo n) s t ∧ SameOutside [.cores, .fab, .sent] s t := by
  have hcore := fun k => State.core_modCore (State.answered_has64 (x := x) (r := r) hs) (coreNo n) k fun k => hubDone k cmd
  refine ⟨_, exec_signalAck hx hr ho, rfl, ?_, fun k hk => ?_, ?_⟩
  · rw [hcore, if_pos rfl, State.answered_core]
  · rw [hcore, if_neg hk, State.answered_core]
  · exact ((s.answered_sameOutside x r).mono (by simp)).trans (sameOutside_cores.mono (by simp))

theorem haltCore_of_haltFault {k : Core} (h : k.q.seq = .haltFault) : haltCore k = k := by
  simp only [haltCore, h]

/-- A core that a fault has stopped stays as it is when the job halts. -/
theorem State.haltJob_core_of_haltFault {code : Nat} (h : (s.core c).q.seq = .haltFault) : (s.haltJob code).core c = s.core c := by
  have hhalt : State.core { s with cores := s.cores.map haltCore } c = s.core c := by rw [core_halted, haltCore_of_haltFault h]
  unfold State.haltJob
  split
  · rfl
  · dsimp only
    split
    · exact hhalt
    · exact hhalt
    · exact hhalt
    · exact hhalt

theorem State.haltJob_haltFault {code : Nat} (h : (s.core c).q.seq = .haltFault) : ((s.haltJob code).core c).q.seq = .haltFault := by
  rw [State.haltJob_core_of_haltFault h, h]

section signalFail
variable {e : HubRun} (hs : s.has64) (h : ((s.core (coreNo n)).t.hubRun.find? fun y => y.cmd.id = cmd) = some e)

/-- R273: the state of a failed RSIGNAL before its job halts. -/
def signalFailed (s : State) (n cmd : Nat) (x : EngCmd) : State :=
  (s.raiseHalting 0x080A .d 0x7F (cmdPayload x.idx x.pass n x.opc x.routine noPos 0)).modCore (coreNo n) fun k => { k with
    t.hubRun := k.t.hubRun.filter (·.cmd.id ≠ cmd)
    q.seq := .haltFault, q.cmdIndex := x.idx, q.lost := k.q.lost ++ [cmd] }

include h in
theorem State.signalFail_of_some : s.signalFail n cmd = (signalFailed s n cmd e.cmd).haltJob 0x080A := by
  rw [State.signalFail]
  dsimp only
  rw [h]
  rfl

include hs h in
theorem State.signalFail_haltFault : ((s.signalFail n cmd).core (coreNo n)).q.seq = .haltFault := by
  rw [State.signalFail_of_some h]
  refine State.haltJob_haltFault ?_
  rw [signalFailed, State.core_modCore (State.has64_of_cores hs (by simp)), if_pos rfl]

include h in
theorem State.signalFail_halted {j : Job} (hj : s.hub.job = some j) (hr : s.hub.jobState = .running) :
    (s.signalFail n cmd).hub.jobState = .halted := by
  have hub := State.raiseHalting_hub s 0x080A .d 0x7F (cmdPayload e.cmd.idx e.cmd.pass n e.cmd.opc e.cmd.routine noPos 0)
  obtain ⟨hhub, -⟩ := State.haltJob_of_running (s := signalFailed s n cmd e.cmd) (code := 0x080A) (hub.job.trans hj)
    (hub.jobState.trans hr)
  rw [State.signalFail_of_some h, hhub]

end signalFail

theorem State.signalFail_sameOutside (s : State) (n cmd : Nat) :
    SameOutside [.cores, .hub, .err, .pmu, .sent] s (s.signalFail n cmd) := fun q hq => by
  cases q <;> simp_all [StatePart.same]

theorem State.signalFail_fab (s : State) (n cmd : Nat) : (s.signalFail n cmd).fab = s.fab :=
  s.signalFail_sameOutside n cmd .fab (by simp)

/-! ### Movers -/

theorem State.answered_ownerRun (h : s.ownerRun n cmd = some run) : (s.answered x r).ownerRun n cmd = some run := by
  rw [State.ownerRun] at h
  rw [State.ownerRun, s.answered_core, h]

theorem State.ownerRun_id (h : s.ownerRun n cmd = some run) : run.cmd.id = cmd := by
  rw [State.ownerRun] at h
  simpa using List.find?_some h

/-- R219: a mover whose lines have all been asked for sends nothing. -/
theorem issueRemote_of_nil (h : s.ownerRun n cmd = some run) (ht : run.todo = []) : issueRemote s (coreNo n) run.cmd run.desc = s := by
  have hid := State.ownerRun_id h
  rw [State.ownerRun] at h
  rw [issueRemote, hid, h]
  dsimp only [Option.elim_some]
  rw [ht]
  rfl

theorem exec_wrAck (hx : s.arrived 0x05 = some x) (hr : s.asked x.2 = some r) :
    exec .wrAck s = .next ((s.answered x r).putDone r.owner) := by
  have hexec : exec .wrAck s = execWrAck s := rfl
  rw [hexec, execWrAck, State.takeType_of_some hx]
  dsimp only
  rw [State.takeReq_of_some hr]

/-- R215: an acknowledged put of a mover that has sent all its lines. -/
theorem wrAck_done (hx : s.arrived 0x05 = some x) (hr : s.asked x.2 = some r) (ho : r.owner = .mover n cmd)
    (hrun : s.ownerRun n cmd = some run) (ht : run.todo = []) : exec .wrAck s = .next (s.answered x r) := by
  have h := State.answered_ownerRun (x := x) (r := r) hrun
  rw [exec_wrAck hx hr, ho, State.putDone, h]
  exact congrArg _ (issueRemote_of_nil h ht)

/-- R215: a run to which lines of a get were delivered. -/
def gotLines (cmd : Nat) (q p : Packet) (y : TmvRun) : TmvRun :=
  if y.cmd.id = cmd then { y with got := y.got ++ (List.range (q.len / 64)).map fun i =>
    (q.addr / 64 + i, (p.payload.drop (64 * i)).take 64, bitAt p.aux i) } else y

/-- R215: the state once lines of a get have been delivered. -/
def State.delivered (s : State) (n cmd : Nat) (q p : Packet) : State :=
  s.modCore (coreNo n) fun k => { k with t.run := k.t.run.map (gotLines cmd q p) }

theorem gotLines_cmd (cmd : Nat) (q p : Packet) (y : TmvRun) : (gotLines cmd q p y).cmd = y.cmd := by
  unfold gotLines
  split <;> rfl

theorem gotLines_todo (cmd : Nat) (q p : Packet) (y : TmvRun) : (gotLines cmd q p y).todo = y.todo := by
  unfold gotLines
  split <;> rfl

theorem State.delivered_ownerRun {q : Packet} (hs : s.has64) (h : s.ownerRun n cmd = some run) :
    (s.delivered n cmd q p).ownerRun n cmd = some (gotLines cmd q p run) := by
  rw [State.ownerRun] at h
  rw [State.ownerRun, State.delivered, State.core_modCore hs, if_pos rfl, List.find?_map,
    show ((fun r : TmvRun => decide (r.cmd.id = cmd)) ∘ gotLines cmd q p) = fun r => decide (r.cmd.id = cmd) from
      funext fun y => by rw [Function.comp_apply, gotLines_cmd], h]
  rfl

/-- R215: a get whose core still has lines outstanding goes on waiting. -/
theorem State.getArrives_of_owed {q : Packet} (hs : s.has64) (h : s.ownerRun n cmd = some run) (ht : run.todo = [])
    (howe : ∃ y ∈ s.fab.reqs, y.owner = .mover n cmd) : s.getArrives n cmd q p = s.delivered n cmd q p := by
  have hrun := State.delivered_ownerRun (q := q) (p := p) hs h
  have hown : (s.delivered n cmd q p).owes (.mover n cmd) = true := by
    obtain ⟨y, hy, ho⟩ := howe
    exact List.any_eq_true.2 ⟨y, hy, decide_eq_true ho⟩
  have heq : s.getArrives n cmd q p = match (s.delivered n cmd q p).ownerRun n cmd with
      | none => s.delivered n cmd q p
      | some r =>
        if r.todo.isEmpty && !((s.delivered n cmd q p).owes (.mover n cmd)) then finishGet (s.delivered n cmd q p) (coreNo n) r
        else issueRemote (s.delivered n cmd q p) (coreNo n) r.cmd r.desc := rfl
  rw [heq, hrun]
  dsimp only
  rw [hown, Bool.not_true, Bool.and_false, if_neg Bool.false_ne_true]
  exact issueRemote_of_nil hrun ((gotLines_todo ..).trans ht)

theorem exec_rdResp (hs : s.hub.snoop = []) (hb : s.hub.bisnp = []) (hx : s.arrived 0x04 = some x) (hr : s.asked x.2 = some r)
    (ho : r.owner = .mover n cmd) : exec .rdResp s = .next ((s.answered x r).getArrives n cmd r.pkt x.2) := by
  have hexec : exec .rdResp s = execRdResp s := rfl
  rw [hexec, execRdResp, State.takeType_of_some hx]
  dsimp only
  rw [State.takeReq_of_some hr]
  dsimp only
  rw [ho]
  dsimp only
  rw [afterSnoop_of_nil hs hb]

/-- R215: lines of a get that is not complete. -/
theorem rdResp_delivered (h64 : s.has64) (hs : s.hub.snoop = []) (hb : s.hub.bisnp = []) (hx : s.arrived 0x04 = some x)
    (hr : s.asked x.2 = some r) (ho : r.owner = .mover n cmd) (hrun : s.ownerRun n cmd = some run) (ht : run.todo = [])
    (howe : ∃ q ∈ s.fab.reqs.erase r, q.owner = r.owner) : ∃ t, exec .rdResp s = .next t ∧ t.fab.reqs = s.fab.reqs.erase r ∧
      t.mem = s.mem ∧ (t.core (coreNo n)).t.run = (s.core (coreNo n)).t.run.map (gotLines cmd r.pkt x.2) ∧
      OtherCores (coreNo n) s t ∧ SameOutside [.cores, .fab, .sent] s t := by
  have h64' : (s.answered x r).has64 := State.answered_has64 h64
  have hexec := exec_rdResp hs hb hx hr ho
  rw [State.getArrives_of_owed h64' (State.answered_ownerRun hrun) ht (by rw [← ho]; exact howe)] at hexec
  have hcore := fun k => State.core_modCore h64' (coreNo n) k fun k => { k with t.run := k.t.run.map (gotLines cmd r.pkt x.2) }
  have hframe : SameOutside [.cores, .fab, .sent] s ((s.answered x r).delivered n cmd r.pkt x.2) :=
    ((s.answered_sameOutside x r).mono (by simp)).trans (sameOutside_cores.mono (by simp))
  refine ⟨_, hexec, rfl, hframe .mem (by simp), ?_, fun k hk => ?_, hframe⟩
  · rw [State.delivered, hcore, if_pos rfl, State.answered_core]
  · rw [State.delivered, hcore, if_neg hk, State.answered_core]

/-! ### Refusals and timeouts -/

theorem exec_nak (hs : s.hub.snoop = []) (hb : s.hub.bisnp = []) (hx : s.arrived 0x06 = some x) (hr : s.asked x.2 = some r) :
    exec .nak s = .next ((s.answered x r).requestFails r.owner) := by
  have hexec : exec .nak s = execNak s := rfl
  rw [hexec, execNak, State.takeType_of_some hx]
  dsimp only
  rw [State.takeReq_of_some hr]
  dsimp only
  rw [afterSnoop_of_nil hs hb]

/-- R273: the state once another try of a request is counted. -/
def State.tried (s : State) (r : Request) : State :=
  { s with fab.reqs := s.fab.reqs.map fun (q : Request) => if q = r then { q with tries := q.tries + 1 } else q }

/-- R273: the state once a request has failed for good. -/
def State.gaveUp (s : State) (r : Request) : State := { s with fab.reqs := s.fab.reqs.filter fun (q : Request) => q ≠ r }

section timeout
variable {tag : BitVec 18}

theorem exec_e2eTimeout_of_none (h : (s.fab.reqs.find? fun r => r.pkt.tag = tag.toNat) = none) : exec (.e2eTimeout tag) s = .next s := by
  have hexec : exec (.e2eTimeout tag) s = execE2eTimeout tag s := rfl
  rw [hexec, execE2eTimeout, h]

theorem exec_e2eTimeout_of_retry (h : (s.fab.reqs.find? fun r => r.pkt.tag = tag.toNat) = some r) (hr : r.tries < s.fab.retriesMax) :
    exec (.e2eTimeout tag) s = .next ((s.tried r).sendPacket r.pkt) := by
  have hexec : exec (.e2eTimeout tag) s = execE2eTimeout tag s := rfl
  rw [hexec, execE2eTimeout, h]
  dsimp only
  rw [if_pos hr]
  rfl

theorem exec_e2eTimeout_of_last (hs : s.hub.snoop = []) (hb : s.hub.bisnp = [])
    (h : (s.fab.reqs.find? fun r => r.pkt.tag = tag.toNat) = some r) (hr : s.fab.retriesMax ≤ r.tries) :
    exec (.e2eTimeout tag) s = .next ((s.gaveUp r).requestFails r.owner) := by
  have hexec : exec (.e2eTimeout tag) s = execE2eTimeout tag s := rfl
  rw [hexec, execE2eTimeout, h]
  dsimp only
  rw [if_neg (Nat.not_lt.2 hr), afterSnoop_of_nil hs hb]
  rfl

theorem State.sendPacket_sameOutside (s : State) (p : Packet) : SameOutside [.hub, .err, .fab, .pmu, .sent] s (s.sendPacket p) :=
  fun q hq => by cases q <;> simp_all [StatePart.same]

theorem State.sendPacket_reqs (s : State) (p : Packet) : (s.sendPacket p).fab.reqs = s.fab.reqs := by
  obtain ⟨_, _, _, _, _, _, _, h⟩ := s.sendPacket_fab p
  rw [h]

end timeout

end Sys2Proof.Machine
end

section
/-! SUPPORT. Packets that reach the hub: each clause of the statement (R81, R216, R269 to R276). -/

namespace Sys2Proof.Machine
variable {s t u : State} {c : CoreId} {p : Packet} {x : Nat × Packet} {ty : Nat}

/-- Nothing arrived, nothing happens. -/
theorem packet_of_none : ∀ i ∈ [(Instr.wr, 0x01), (.wrPartial, 0x02), (.rdReq, 0x03), (.rdResp, 0x04), (.wrAck, 0x05), (.nak, 0x06),
    (.signalPacket, 0x07), (.signalAck, 0x08), (.echo, 0x30), (.echoReply, 0x31)], s.arrived i.2 = none → exec i.1 s = .next s := by
  intro i hi h
  have htake := State.takeType_of_none h
  simp only [List.mem_cons, List.not_mem_nil, or_false] at hi
  obtain rfl | rfl | rfl | rfl | rfl | rfl | rfl | rfl | rfl | rfl := hi
  · exact serveRequest_of_none h
  · exact serveRequest_of_none h
  · exact serveRequest_of_none h
  · simp only [exec, execRdResp, htake]
  · simp only [exec, execWrAck, htake]
  · simp only [exec, execNak, htake]
  · exact serveRequest_of_none h
  · simp only [exec, execSignalAck, htake]
  · simp only [exec, execEcho, htake]
  · simp only [exec, execEchoReply, htake]

theorem packetForward_of_none (h : (s.fab.inbox.find? fun x => x.2.dst ≠ s.fab.devid) = none) : exec .packetForward s = .next s := by
  have htake : s.takeForward = none := by rw [State.takeForward, h, Option.map_none]
  simp only [exec, execPacketForward, htake]

/-- R271: requests with another partition's key. -/
theorem request_of_pkey : ∀ i ∈ [(Instr.wr, 0x01), (.wrPartial, 0x02), (.rdReq, 0x03), (.signalPacket, 0x07)],
    s.arrived i.2 = some x → x.2.pkey ≠ s.fab.pkey → exec i.1 s = .next ((s.taken x).respond x.2 0x06 2 []) := by
  intro i hi hx hk
  simp only [List.mem_cons, List.not_mem_nil, or_false] at hi
  obtain rfl | rfl | rfl | rfl := hi
  · exact serveRequest_of_pkey hx hk
  · exact serveRequest_of_pkey hx hk
  · exact serveRequest_of_pkey hx hk
  · exact serveRequest_of_pkey hx hk

/-- R270: requests outside the windows. -/
theorem request_of_window (hs : s.hub.snoop = []) (hb : s.hub.bisnp = []) :
    ∀ i ∈ [(Instr.wr, 0x01, true), (.wrPartial, 0x02, true), (.rdReq, 0x03, false)], s.arrived i.2.1 = some x →
      x.2.pkey = s.fab.pkey → s.windowOk x.2.addr x.2.len i.2.2 = false ∨ (i.2.1 = 0x02 ∧ x.2.len ≠ 64) →
      exec i.1 s = .next ((s.taken x).refuseWindow x.2) := by
  intro i hi hx hk hw
  simp only [List.mem_cons, List.not_mem_nil, or_false] at hi
  obtain rfl | rfl | rfl := hi
  · refine (serveRequest_of_key hs hb hx hk).trans (congrArg _ (serveWr_of_refused ?_))
    rw [s.taken_windowOk]
    exact hw.resolve_right fun h => absurd h.1 (by decide)
  · refine (serveRequest_of_key hs hb hx hk).trans (congrArg _ (serveWrPartial_of_refused ?_))
    rw [s.taken_windowOk]
    by_cases hl : x.2.len = 64
    · exact .inr (hl ▸ hw.resolve_right fun h => h.2 hl)
    · exact .inl hl
  · refine (serveRequest_of_key hs hb hx hk).trans (congrArg _ (serveRd_of_refused ?_))
    rw [s.taken_windowOk]
    exact hw.resolve_right fun h => absurd h.1 (by decide)

/-- R269: an ECHO returns. -/
theorem echo_returned (hx : s.arrived 0x30 = some x) : exec .echo s = .next ((s.taken x).respond x.2 0x31 x.2.aux x.2.payload) := by
  simp only [exec, execEcho, State.takeType_of_some hx]

theorem echoReply_discarded (hx : s.arrived 0x31 = some x) : exec .echoReply s = .next (s.taken x) := by
  simp only [exec, execEchoReply, State.takeType_of_some hx]

/-- R216, R273: an RSIGNAL that fails stops its core and its job. -/
theorem requestFails_signal {n cmd : Nat} {e : HubRun} (hu : SameOutside [.fab, .sent] s u) (h64 : s.has64)
    (h : ((s.core (coreNo n)).t.hubRun.find? fun y => y.cmd.id = cmd) = some e) :
    (u.requestFails (.signal n cmd)).fab.reqs = u.fab.reqs ∧ ((u.requestFails (.signal n cmd)).core (coreNo n)).q.seq = .haltFault ∧
      (∀ j, s.hub.job = some j → s.hub.jobState = .running → (u.requestFails (.signal n cmd)).hub.jobState = .halted) ∧
      SameOutside [.cores, .hub, .err, .mem, .cke, .pwr, .fab, .pmu, .sent, .fresh] s (u.requestFails (.signal n cmd)) := by
  have hfails : u.requestFails (.signal n cmd) = u.signalFail n cmd := rfl
  have hcores : u.cores = s.cores := hu .cores (by simp)
  have hhub : u.hub = s.hub := hu .hub (by simp)
  have h64' := State.has64_of_cores h64 hcores
  have h' : ((u.core (coreNo n)).t.hubRun.find? fun y => y.cmd.id = cmd) = some e := by rw [State.core_of_cores hcores, h]
  rw [hfails]
  refine ⟨by rw [State.signalFail_fab], State.signalFail_haltFault h64' h', fun j hj hr =>
    State.signalFail_halted h' (hhub ▸ hj) (hhub ▸ hr), ?_⟩
  exact (hu.mono (by simp)).trans ((u.signalFail_sameOutside n cmd).mono (by simp))

/-- Settles O55: each packet by the lemma of its type. -/
theorem packetsReachTheHub : Obligations.PacketsReachTheHub := by
  unfold Obligations.PacketsReachTheHub
  intro s hs hb h64 got free
  refine ⟨packet_of_none, packetForward_of_none, fun x => packetForward_moves, fun i hi x hx hk => ?pkey,
    fun i hi x hx hk hw => ?window, fun x hx => wr_written hs hb hx, fun x hx hk hl hw _ hp => ?wrPartial,
    fun x hx => rdReq_read hs hb hx, fun x hx => signalPacket_served hs hb h64 hx, fun x hx => ?echo, fun x hx => ?echoReply,
    ?responses, fun tag => ⟨exec_e2eTimeout_of_none, fun r hr => ⟨fun htry => ?retry, fun hlast n cmd run ho hrun => ?last⟩⟩⟩
  case pkey => exact refused_pkey (request_of_pkey i hi hx hk)
  case window => exact refused_window (request_of_window hs hb i hi hx hk hw)
  case wrPartial => exact wrPartial_written hs hb hx hk hl hw hp
  case echo =>
    exact ⟨_, s.taken x, echo_returned hx, rfl, State.respond_free (s.taken_inbox x) (s.taken_devid x), s.taken_sameOutside x,
      ((s.taken_sameOutside x).mono (by simp)).trans State.respond_sameOutside⟩
  case echoReply => exact ⟨_, echoReply_discarded hx, s.taken_inbox x, s.taken_reqs x, s.taken_sameOutside x⟩
  case responses =>
    intro asks
    refine ⟨fun i hi x hx ha => ⟨_, response_of_none i hi hx ha, s.taken_inbox x, s.taken_reqs x, s.taken_sameOutside x⟩,
      fun x r n cmd hx ha ho => signalAck_done h64 hx ha ho, fun x r n cmd run hx ha ho hrun ht => ?_,
      fun x r n cmd run hx ha ho hrun ht howe => rdResp_delivered h64 hs hb hx ha ho hrun ht howe,
      fun x r n cmd run hx ha ho hrun => ?_⟩
    · exact ⟨_, wrAck_done hx ha ho hrun ht, rfl, s.taken_sent x, fun k _ => s.answered_core x r k,
        (s.answered_sameOutside x r).mono (by simp)⟩
    · obtain ⟨hreqs, hfault, hhalt, hframe⟩ := requestFails_signal (s.answered_sameOutside x r) h64 hrun
      exact ⟨_, ho ▸ exec_nak hs hb hx ha, hreqs, hfault, hhalt, hframe⟩
  case retry =>
    exact ⟨_, s.tried r, exec_e2eTimeout_of_retry hr htry, rfl, State.sendPacket_reqs _ _, sameOutside_fab,
      (sameOutside_fab.mono (by simp) : SameOutside _ s (s.tried r)).trans (State.sendPacket_sameOutside _ _)⟩
  case last =>
    obtain ⟨hreqs, hfault, hhalt, hframe⟩ := requestFails_signal (u := s.gaveUp r) (sameOutside_fab.mono (by simp)) h64 hrun
    exact ⟨_, ho ▸ exec_e2eTimeout_of_last hs hb hr hlast, hreqs, hfault, hhalt, hframe⟩

end Sys2Proof.Machine
end

section
/-! SUPPORT. The hub-bound queue at work (R79 to R81, R284 to R287, R296, R306). -/

namespace Sys2Proof.Machine
variable {s t u : State} {c : CoreId} {e : EngCmd} {rest : List EngCmd} {n : Nat}

/-! ### RSIGNAL -/

/-- R81, R274: the SIGNAL packet of an RSIGNAL under a tag. -/
def signalPacket (s : State) (c : CoreId) (e : EngCmd) (n : Nat) : Packet :=
  { mkPacket 0x07 (fld e.imm 0 14) 0 (c.val * 4096 + n) 0 (e.imm % 2 ^ 64) [] with sseq := sget 0 s.fab.sseqNext (fld e.imm 0 14) }

/-- R75: the core once the head of its hub-bound queue has started. -/
def hubStarted (k : Core) (e : EngCmd) (rest : List EngCmd) : Core := { k with t.hubQ := rest, t.hubRun := k.t.hubRun ++ [⟨e, false⟩] }

/-- R81, R274: the state as the SIGNAL packet goes out: its sequence number is taken. -/
def signalReady (s : State) (c : CoreId) (e : EngCmd) (rest : List EngCmd) : State :=
  { s.setCore c (hubStarted (s.core c) e rest) with
    fab.sseqNext := sset 0 s.fab.sseqNext (fld e.imm 0 14) ((sget 0 s.fab.sseqNext (fld e.imm 0 14) + 1) % 65536) }

theorem signalRelease_of_held (hq : (s.core c).t.hubQ = e :: rest)
    (h : signalBlocked (s.core c) e = true ∨ 64 ≤ s.signalsTo (fld e.imm 0 14) ∨ s.freeTag c = none) :
    exec (.signalRelease c) s = .next s := by
  have hexec : exec (.signalRelease c) s = execSignalRelease c s := rfl
  rw [hexec, execSignalRelease]
  dsimp only
  rw [hq]
  dsimp only
  obtain h | h | h := h
  · rw [if_pos (by simp [h])]
  · rw [if_pos (by simp [h])]
  · rw [h, ite_self]

theorem signalRelease_of_free (hq : (s.core c).t.hubQ = e :: rest) (ho : e.opc = 0x50) (hb : signalBlocked (s.core c) e = false)
    (hl : s.signalsTo (fld e.imm 0 14) < 64) (ht : s.freeTag c = some n) :
    exec (.signalRelease c) s = .next ((signalReady s c e rest).request (signalPacket s c e n) (.signal c.val e.id)) := by
  have hexec : exec (.signalRelease c) s = execSignalRelease c s := rfl
  rw [hexec, execSignalRelease]
  dsimp only
  rw [hq]
  dsimp only
  rw [if_neg (by simp [ho, hb, Nat.not_le.2 hl]), ht]
  rfl

theorem State.request_fab (s : State) (p : Packet) (o : ReqOwner) :
    (s.request p o).fab.reqs = s.fab.reqs ++ [⟨p, o, 0⟩] ∧ (s.request p o).fab.sseqNext = s.fab.sseqNext := by
  obtain ⟨_, _, _, _, _, _, _, h⟩ := s.sendPacket_fab p
  rw [State.request]
  dsimp only
  rw [h]
  exact ⟨rfl, rfl⟩

theorem State.request_sameOutside (s : State) (p : Packet) (o : ReqOwner) : SameOutside [.hub, .err, .fab, .pmu, .sent] s (s.request p o) :=
  (State.sendPacket_sameOutside s p).trans (sameOutside_fab.mono (by simp))

theorem State.request_core (s : State) (p : Packet) (o : ReqOwner) (k : CoreId) : (s.request p o).core k = s.core k :=
  State.core_of_cores (s.request_sameOutside p o .cores (by simp)) k

theorem signalReady_core (hs : s.has64) (k : CoreId) :
    (signalReady s c e rest).core k = if k = c then hubStarted (s.core c) e rest else s.core k :=
  State.core_setCore hs c k _

theorem signalReady_sameOutside : SameOutside [.cores, .fab] s (signalReady s c e rest) := fun q hq => by
  cases q <;> simp_all [StatePart.same, signalReady]

/-! ### A hub-bound command starts -/

/-- The state once the head of the hub-bound queue has started. -/
def hubBegun (s : State) (c : CoreId) (e : EngCmd) (rest : List EngCmd) : State := s.setCore c (hubStarted (s.core c) e rest)

theorem startHub_of_held {opc : Nat} (hq : (s.core c).t.hubQ = e :: rest)
    (h : e.opc ≠ opc ∨ (s.core c).handlesArrived e = false ∨ (s.core c).noHazard .hub e = false) : startHub s c opc = none := by
  rw [startHub]
  dsimp only
  rw [hq]
  dsimp only
  obtain h | h | h := h
  · rw [if_neg (by simp [h])]
  · rw [if_neg (by simp [h])]
  · rw [if_neg (by simp [h])]

theorem startHub_of_free {opc : Nat} (hq : (s.core c).t.hubQ = e :: rest) (ho : e.opc = opc)
    (ha : (s.core c).handlesArrived e = true) (hh : (s.core c).noHazard .hub e = true) :
    startHub s c opc = some (e, hubBegun s c e rest) := by
  rw [startHub]
  dsimp only
  rw [hq]
  dsimp only
  rw [if_pos (by simp [ho, ha, hh])]
  rfl

theorem hubBegun_sameOutside : SameOutside [.cores] s (hubBegun s c e rest) := sameOutside_cores

theorem hubBegun_core (hs : s.has64) (k : CoreId) : (hubBegun s c e rest).core k = if k = c then hubStarted (s.core c) e rest else s.core k :=
  State.core_setCore hs c k _

theorem hubBegun_has64 (hs : s.has64) : (hubBegun s c e rest).has64 := State.setCore_has64 hs c _

/-- R62: a core that a command fault stops. -/
theorem State.cmdFault_core (hs : s.has64) (code idx pass opc routine pos : Nat) : (s.cmdFault c code idx pass opc routine pos).core c =
    { s.core c with q.seq := .haltFault, q.stall := 0, q.pbRead := none, q.cmdIndex := idx } := by
  have hcores : (s.raiseHalting code .d c.val (cmdPayload idx pass c.val opc routine pos (stepDetail routine code))).cores = s.cores := by
    simp
  have hcore := State.core_modCore (State.has64_of_cores hs hcores) c c fun k =>
    { k with q.seq := .haltFault, q.stall := 0, q.pbRead := none, q.cmdIndex := idx }
  rw [if_pos rfl, State.core_of_cores hcores] at hcore
  rw [State.cmdFault, State.haltJob_core_of_haltFault (by rw [hcore]), hcore]

theorem State.cmdFault_haltFault (hs : s.has64) (code idx pass opc routine pos : Nat) :
    ((s.cmdFault c code idx pass opc routine pos).core c).q.seq = .haltFault := by
  rw [State.cmdFault_core hs]

theorem State.engFault_haltFault (hs : s.has64) (e : EngCmd) (code pos : Nat) : ((s.engFault c e code pos).core c).q.seq = .haltFault :=
  State.cmdFault_haltFault (State.modCore_has64 hs c _) _ _ _ _ _ _

theorem State.engFault_sameOutside (s : State) (c : CoreId) (e : EngCmd) (code pos : Nat) :
    SameOutside [.cores, .hub, .err, .pmu, .sent] s (s.engFault c e code pos) := fun q hq => by
  cases q <;> simp_all [StatePart.same]

/-! ### A piece of a bucket -/

theorem cleBucket_of_held (hq : (s.core c).t.hubQ = e :: rest)
    (h : e.opc ≠ 0x51 ∨ (s.core c).handlesArrived e = false ∨ (s.core c).noHazard .hub e = false) :
    exec (.cleBucket c .perform) s = .next s := by
  have hexec : exec (.cleBucket c .perform) s = execCleBucket c .perform s := rfl
  rw [hexec, execCleBucket, startHub_of_held hq h]

theorem cleBucket_of_bad (hq : (s.core c).t.hubQ = e :: rest) (ho : e.opc = 0x51) (ha : (s.core c).handlesArrived e = true)
    (hh : (s.core c).noHazard .hub e = true) (hp : pieceBad s c e.imm (hTile e.qs0) = true) :
    exec (.cleBucket c .perform) s = .next ((hubBegun s c e rest).engFault c e 0x0902 noPos) := by
  have hexec : exec (.cleBucket c .perform) s = execCleBucket c .perform s := rfl
  have hp' : pieceBad (hubBegun s c e rest) c e.imm (hTile e.qs0) = true := hp
  rw [hexec, execCleBucket, startHub_of_free hq ho ha hh]
  dsimp only
  rw [hp', if_pos rfl]

theorem cleBucket_of_good {b : Bucket} (hq : (s.core c).t.hubQ = e :: rest) (ho : e.opc = 0x51)
    (ha : (s.core c).handlesArrived e = true) (hh : (s.core c).noHazard .hub e = true)
    (hb : s.cle.buckets[e.imm % 65536]? = some b) (hs : s.hub.snoop = []) (hbi : s.hub.bisnp = [])
    (hp : pieceBad s c e.imm (hTile e.qs0) = false) : exec (.cleBucket c .perform) s =
      .next ((addPiece (hubBegun s c e rest) c e (hTile e.qs0) b).modCore c fun k => hubDone k e.id) := by
  have hexec : exec (.cleBucket c .perform) s = execCleBucket c .perform s := rfl
  have hp' : pieceBad (hubBegun s c e rest) c e.imm (hTile e.qs0) = false := hp
  have hb' : (hubBegun s c e rest).cle.buckets[e.imm % 65536]? = some b := hb
  rw [hexec, execCleBucket, startHub_of_free hq ho ha hh]
  dsimp only
  rw [hp', if_neg Bool.false_ne_true, hb']
  dsimp only
  rw [afterSnoop_of_nil hs hbi]

theorem leBytes_length (n x : Nat) : (leBytes n x).length = n := by
  induction n generalizing x with
  | zero => rfl
  | succ n ih => rw [leBytes, List.length_cons, ih]

/-- The CLE's bytes of a list of 4-byte codes. -/
theorem leBytes_flatMap_length (l : List Nat) : (l.flatMap (leBytes 4)).length = 4 * l.length := by
  simp [List.length_flatMap, leBytes_length, Nat.mul_comm]

/-- R285: the bucket after a piece that does not complete its microstep. -/
def pieceBucket (b : Bucket) (e : EngCmd) (tl : Tile) (nf : List Nat) : Bucket :=
  { b with cursor := fld e.imm 16 26 + tl.count / 32, samples := b.samples + fld e.imm 48 16, nf := nf }

/-- R285: a piece that does not complete its microstep is one write of the CLE after its reads. -/
theorem addPiece_of_partial {tl : Tile} {b : Bucket} (h : fld e.imm 16 26 + tl.count / 32 < b.nblk) :
    ∃ (u : State) (bs : List Byte) (nf : List Nat), LinesRead s u ∧ u.cores = s.cores ∧ u.cle = s.cle ∧ bs.length = 4 * tl.count ∧
      (b.micro + 1 ≠ b.nmicro → nf = b.nf) ∧
      addPiece s c e tl b = (u.cleWrite (b.acc + 128 * fld e.imm 16 26) bs).setBucket (e.imm % 65536) (pieceBucket b e tl nf) := by
  unfold addPiece
  dsimp only
  rw [if_pos h]
  refine ⟨_, _, _, .trans ?_ (.engineReads _ _ _), ?_, ?_, ?_, fun hm => ?_, rfl⟩
  · split
    · exact .refl s
    · exact .engineReads _ _ _
  · split <;> simp
  · split <;> simp
  · rw [leBytes_flatMap_length, List.length_map, List.length_range]
  · exact if_neg hm

/-- R285: a piece that does not complete its microstep: the cursor and the samples advance, and memory changes in the piece's
own elements alone. -/
theorem addPiece_added {tl : Tile} {b : Bucket} (h : fld e.imm 16 26 + tl.count / 32 < b.nblk) :
    (∃ nf, (addPiece s c e tl b).cle.buckets = s.cle.buckets.set (e.imm % 65536) (pieceBucket b e tl nf) ∧
      (b.micro + 1 ≠ b.nmicro → nf = b.nf)) ∧
    (∀ a, (a < b.acc + 128 * fld e.imm 16 26 ∨ b.acc + 128 * fld e.imm 16 26 + 4 * tl.count ≤ a) →
      (addPiece s c e tl b).byteAt a = s.byteAt a) := by
  obtain ⟨u, bs, nf, hread, -, hcle, hlen, hnf, heq⟩ := addPiece_of_partial (s := s) (c := c) h
  rw [heq]
  refine ⟨⟨nf, ?_, hnf⟩, fun a ha => ?_⟩
  · rw [← hcle]
    simp [State.setBucket]
  · have hw : (u.cleWrite (b.acc + 128 * fld e.imm 16 26) bs).byteAt a = u.byteAt a := State.agentWrite_byteAt (hlen ▸ ha)
    exact hw.trans (hread.byteAt a)

theorem addPiece_sameOutside {tl : Tile} {b : Bucket} :
    SameOutside [.hub, .err, .mem, .cle, .cke, .pwr, .fab, .pmu, .sent, .fresh] s (addPiece s c e tl b) := fun q hq => by
  cases q <;> simp_all [StatePart.same]

/-! ### Small reductions -/

theorem cleSmallreduce_of_held (hq : (s.core c).t.hubQ = e :: rest)
    (h : e.opc ≠ 0x52 ∨ (s.core c).handlesArrived e = false ∨ (s.core c).noHazard .hub e = false) :
    exec (.cleSmallreduce c .perform) s = .next s := by
  have hexec : exec (.cleSmallreduce c .perform) s = execCleSmallreduce c .perform s := rfl
  rw [hexec, execCleSmallreduce, startHub_of_held hq h]

/-- R306: what a small reduction that goes out or comes back leaves of the counts and of the buckets. -/
def CountsKept (s t : State) : Prop := t.cle.srCount = s.cle.srCount ∧ t.cle.buckets = s.cle.buckets

namespace CountsKept

theorem trans (h : CountsKept s t) (h' : CountsKept t u) : CountsKept s u := ⟨h'.1.trans h.1, h'.2.trans h.2⟩

theorem of_cle (h : t.cle = s.cle) : CountsKept s t := ⟨by rw [h], by rw [h]⟩

theorem foldl {α : Type} (l : List α) {f : State → α → State} (hf : ∀ t a, CountsKept t (f t a)) (s : State) :
    CountsKept s (l.foldl f s) := by
  induction l generalizing s with
  | nil => exact ⟨rfl, rfl⟩
  | cons a l ih => exact (hf s a).trans (ih _)

theorem settleSrOne (s : State) (r : SrRun) : CountsKept s (settleSrOne s r) := by
  unfold Machine.settleSrOne
  split
  · split
    · exact ⟨rfl, rfl⟩
    · exact ⟨rfl, rfl⟩
  · exact ⟨rfl, rfl⟩

theorem settleSr (s : State) : CountsKept s (settleSr s) := foldl _ settleSrOne s

theorem srFault (s : State) (c : CoreId) (e : EngCmd) (code : Nat) : CountsKept s (srFault s c e code) :=
  .trans (t := { s with cle.srRuns := s.cle.srRuns.filter fun r => !(r.core = c.val && r.cmd = e.id) }) ⟨rfl, rfl⟩
    (.of_cle (by simp [Machine.srFault]))

end CountsKept

/-- R306: the state once a small reduction has taken the next number of its group. -/
def srBegun (s : State) (c : CoreId) (e : EngCmd) : State :=
  let n := sget 0 s.cle.srCount (e.imm % 16)
  { s with
    cle.srCount := sset 0 s.cle.srCount (e.imm % 16) (n + 1)
    cle.srRuns := s.cle.srRuns ++ [⟨c.val, e.id, e.imm % 16, n % 65536, (tileBytes (s.core c) (hTile e.qs0)).length,
      s.cle.srTimeoutUs.toNat⟩] }

theorem srBegun_count (s : State) (c : CoreId) (e : EngCmd) :
    sget 0 (srBegun s c e).cle.srCount (e.imm % 16) = sget 0 s.cle.srCount (e.imm % 16) + 1 := by
  simp [srBegun]

/-- R306: the tile goes to every other member of the group. -/
def srSent (s : State) (c : CoreId) (e : EngCmd) : State :=
  ((s.cle.members (e.imm % 16)).filter (· ≠ s.fab.devid)).foldl (fun t d =>
    t.sendAll ((piecesOf 4096 (tileBytes (s.core c) (hTile e.qs0))).map fun x =>
      mkPacket 0x19 d x.2.length 0 (e.imm % 16 + (sget 0 s.cle.srCount (e.imm % 16) % 65536) <<< 4) x.1 x.2)) (srBegun s c e)

/-- R306, R307: the state after a small reduction of a good group has started. -/
def srPerformed (s : State) (c : CoreId) (e : EngCmd) : State :=
  if s.cle.srDiffers (e.imm % 16) (sget 0 s.cle.srCount (e.imm % 16) % 65536) (tileBytes (s.core c) (hTile e.qs0)).length then
    srFault (srSent s c e) c e 0x090C
  else settleSr (srSent s c e)

theorem cleSmallreduce_of_good (hq : (s.core c).t.hubQ = e :: rest) (ho : e.opc = 0x52) (ha : (s.core c).handlesArrived e = true)
    (hh : (s.core c).noHazard .hub e = true) (hg : srGroupBad s c (e.imm % 16) = false) :
    exec (.cleSmallreduce c .perform) s = .next (srPerformed (hubBegun s c e rest) c e) := by
  have hexec : exec (.cleSmallreduce c .perform) s = execCleSmallreduce c .perform s := rfl
  have hg' : srGroupBad (hubBegun s c e rest) c (e.imm % 16) = false := hg
  rw [hexec, execCleSmallreduce, startHub_of_free hq ho ha hh]
  dsimp only
  rw [hg', if_neg Bool.false_ne_true]
  rfl

theorem srSent_kept (s : State) (c : CoreId) (e : EngCmd) : CountsKept (srBegun s c e) (srSent s c e) :=
  CountsKept.foldl _ (fun _ _ => .of_cle (by simp)) _

theorem srPerformed_kept (s : State) (c : CoreId) (e : EngCmd) : CountsKept (srBegun s c e) (srPerformed s c e) := by
  refine (srSent_kept s c e).trans ?_
  unfold srPerformed
  split
  · exact .srFault _ _ _ _
  · exact .settleSr _

theorem srSent_sameOutside (s : State) (c : CoreId) (e : EngCmd) :
    SameOutside [.hub, .err, .cle, .fab, .pmu, .sent] s (srSent s c e) := fun q hq => by
  cases q <;> simp_all [StatePart.same, srSent, srBegun]

theorem srPerformed_sameOutside (s : State) (c : CoreId) (e : EngCmd) :
    SameOutside [.cores, .hub, .err, .cle, .fab, .pmu, .sent, .fresh] s (srPerformed s c e) := by
  refine ((srSent_sameOutside s c e).mono (by simp)).trans ?_
  unfold srPerformed
  split
  · exact fun q hq => by cases q <;> simp_all [StatePart.same]
  · exact fun q hq => by cases q <;> simp_all [StatePart.same]

/-- Settles O19: the head of the queue is held or starts, and each command acts by its own lemma. -/
theorem hubBoundCommandsAct : Obligations.HubBoundCommandsAct := by
  unfold Obligations.HubBoundCommandsAct
  intro c s e rest hs hq
  refine ⟨fun _ h => signalRelease_of_held hq h, fun n ho hb hl ht => ?release, cleBucket_of_held hq,
    fun b ho ha hh hb hsn hbi => ⟨fun hp => ?bad, fun hp hn => ?good⟩, cleSmallreduce_of_held hq, fun ho ha hh hg => ?reduce⟩
  case release =>
    obtain ⟨hreqs, hseq⟩ := (signalReady s c e rest).request_fab (signalPacket s c e n) (.signal c.val e.id)
    refine ⟨_, signalRelease_of_free hq ho hb hl ht, ?_, ?_, ⟨signalPacket s c e n, hreqs, rfl, rfl, rfl, rfl, rfl⟩, ?_,
      fun k hk => ?_, (signalReady_sameOutside.mono (by simp)).trans ((State.request_sameOutside _ _ _).mono (by simp))⟩
    · rw [State.request_core, signalReady_core hs, if_pos rfl]
      rfl
    · rw [State.request_core, signalReady_core hs, if_pos rfl]
      rfl
    · rw [hseq]
      exact (sget_sset s.fab.sseqNext _ _ _).trans (if_pos rfl)
    · rw [State.request_core, signalReady_core hs, if_neg hk]
  case bad =>
    have hframe : SameOutside [.cores, .hub, .err, .cke, .pmu, .sent] s ((hubBegun s c e rest).engFault c e 0x0902 noPos) :=
      (hubBegun_sameOutside.mono (by simp)).trans ((State.engFault_sameOutside _ _ _ _ _).mono (by simp))
    exact ⟨_, cleBucket_of_bad hq ho ha hh hp, State.engFault_haltFault (hubBegun_has64 hs) e _ _, hframe .cle (by simp),
      hframe .mem (by simp), hframe⟩
  case good =>
    obtain ⟨hbuckets, hbytes⟩ := addPiece_added (s := hubBegun s c e rest) (c := c) (tl := hTile e.qs0) hn
    have hadd := addPiece_sameOutside (s := hubBegun s c e rest) (c := c) (e := e) (tl := hTile e.qs0) (b := b)
    have hcores : (addPiece (hubBegun s c e rest) c e (hTile e.qs0) b).cores = (hubBegun s c e rest).cores := hadd .cores (by simp)
    have hcore := fun k => State.core_modCore (State.has64_of_cores (hubBegun_has64 hs) hcores) c k fun k => hubDone k e.id
    have hself := (hcore c).trans (if_pos rfl)
    rw [State.core_of_cores hcores, hubBegun_core hs, if_pos rfl] at hself
    refine ⟨_, cleBucket_of_good hq ho ha hh hb hsn hbi hp, hbuckets, hbytes, by rw [hself]; rfl, by rw [hself]; rfl, fun k hk => ?_, ?_⟩
    · rw [hcore, if_neg hk, State.core_of_cores hcores, hubBegun_core hs, if_neg hk]
    · exact (hubBegun_sameOutside.mono (by simp)).trans ((hadd.mono (by simp)).trans (sameOutside_cores.mono (by simp)))
  case reduce =>
    obtain ⟨hcount, hbuckets⟩ := srPerformed_kept (hubBegun s c e rest) c e
    refine ⟨_, cleSmallreduce_of_good hq ho ha hh hg, ?_, hbuckets, ?_⟩
    · rw [hcount, srBegun_count]
      rfl
    · exact (hubBegun_sameOutside.mono (by simp)).trans ((srPerformed_sameOutside _ c e).mono (by simp))

end Sys2Proof.Machine
end

section
/-! SUPPORT. The routines of the chain as they start (R71, R75, R154, R173, R189): each writes tiles alone. -/

namespace Sys2Proof.Machine
variable {s t u : State} {c : CoreId} {k k' : Core}

/-! ### Tiles written -/

/-- A core changed in what its tiles hold and in their marks alone. -/
structure TilesOnly (k k' : Core) : Prop where
  q : k'.q = k.q
  t : k'.t = k.t
  mQueue : k'.m.queue = k.m.queue
  vQueue : k'.v.queue = k.v.queue
  vRun : k'.v.run = k.v.run

namespace TilesOnly

theorem refl (k : Core) : TilesOnly k k := ⟨rfl, rfl, rfl, rfl, rfl⟩

theorem trans {k'' : Core} (h : TilesOnly k k') (h' : TilesOnly k' k'') : TilesOnly k k'' :=
  ⟨h'.q.trans h.q, h'.t.trans h.t, h'.mQueue.trans h.mQueue, h'.vQueue.trans h.vQueue, h'.vRun.trans h.vRun⟩

theorem foldl {α : Type} (l : List α) {f : Core → α → Core} (hf : ∀ k a, TilesOnly k (f k a)) (k : Core) :
    TilesOnly k (l.foldl f k) := by
  induction l generalizing k with
  | nil => exact refl k
  | cons a l ih => exact (hf k a).trans (ih _)

theorem ocWrite (k : Core) (m a : Nat) (bs : List Byte) : TilesOnly k (k.ocWrite m a bs) := ⟨rfl, rfl, rfl, rfl, rfl⟩

theorem accWrite (k : Core) (arr row c0 : Nat) (xs : List (BitVec 48)) : TilesOnly k (k.accWrite arr row c0 xs) :=
  ⟨rfl, rfl, rfl, rfl, rfl⟩

theorem writeCodes (k : Core) (tl : Tile) (r c0 : Nat) (cs : List Nat) : TilesOnly k (k.writeCodes tl r c0 cs) := by
  unfold Core.writeCodes
  split
  · exact accWrite k _ _ _ _
  · exact ocWrite k _ _ _

theorem markTile (h : Nat) (k : Core) : TilesOnly k (markTile h k) := by
  unfold Machine.markTile
  dsimp only
  split
  · exact ⟨rfl, rfl, rfl, rfl, rfl⟩
  · exact refl k

theorem storeBlock (k : Core) (tl : Tile) (cv : ConvCtl) (rnd : Nat → Nat) (r b : Nat) (xs : List Num) :
    TilesOnly k (k.storeBlock tl cv rnd r b xs).1 := by
  unfold Core.storeBlock Core.writeBlock
  dsimp only
  split
  · exact (ocWrite k _ _ _).trans (ocWrite _ _ _ _)
  · exact (ocWrite k _ _ _).trans (ocWrite _ _ _ _)

theorem foldl_fst {α β : Type} (l : List α) {f : Core × β → α → Core × β} (hf : ∀ p a, TilesOnly p.1 (f p a).1) (p : Core × β) :
    TilesOnly p.1 (l.foldl f p).1 := by
  induction l generalizing p with
  | nil => exact refl _
  | cons a l ih => exact (hf p a).trans (ih _)

theorem storeRow (k : Core) (tl : Tile) (cv : ConvCtl) (rnd : Nat → Nat) (r : Nat) (xs : List Num) :
    TilesOnly k (k.storeRow tl cv rnd r xs).1 := by
  unfold Core.storeRow
  split
  · refine foldl_fst _ (fun p b => ?_) (k, (0 : Fl))
    exact storeBlock p.1 tl cv rnd r b xs
  · exact writeCodes k _ _ _ _

theorem rtStore (k : Core) (ci : CallInfo) (tl : Tile) (rnd r : Nat) (xs : List Num) : TilesOnly k (rtStore k ci tl rnd r xs).1 :=
  storeRow k _ _ _ _ _

end TilesOnly

/-! ### The routines -/

theorem rtRows_tilesOnly {n : Nat} {f : RtOut → Nat → RtOut} (hf : ∀ o r, TilesOnly o.core (f o r).core) :
    TilesOnly k (rtRows k n f).core := by
  have h : ∀ (l : List Nat) (o : RtOut), TilesOnly o.core (l.foldl f o).core := fun l => by
    induction l with
    | nil => exact fun o => .refl _
    | cons r l ih => exact fun o => (hf o r).trans (ih _)
  exact h _ (RtOut.of k)

section routines
variable (k : Core) (ci : CallInfo) (ts : List (Option Tile))

theorem softmax_tilesOnly : TilesOnly k (softmax k ci ts).core := by
  unfold softmax
  exact rtRows_tilesOnly fun o r => .rtStore _ _ _ _ _ _

theorem normalise_tilesOnly (rms : Bool) : TilesOnly k (normalise rms k ci ts).core := by
  unfold normalise
  exact rtRows_tilesOnly fun o r => .rtStore _ _ _ _ _ _

theorem linscan_tilesOnly : TilesOnly k (linscan k ci ts).core := by
  unfold linscan
  refine rtRows_tilesOnly fun o r => ?_
  dsimp only
  cases ts[2]?.join with
  | none => exact .rtStore _ _ _ _ _ _
  | some tl => exact .trans (.rtStore _ _ _ _ _ _) (.rtStore _ _ _ _ _ _)

theorem topk_tilesOnly : TilesOnly k (topk k ci ts).core := by
  unfold topk
  refine rtRows_tilesOnly fun o r => ?_
  dsimp only
  cases ts[1]?.join with
  | none => cases ts[2]?.join with
    | none => exact .refl _
    | some ti => exact .rtStore _ _ _ _ _ _
  | some tv => cases ts[2]?.join with
    | none => exact .rtStore _ _ _ _ _ _
    | some ti => exact .trans (.rtStore _ _ _ _ _ _) (.rtStore _ _ _ _ _ _)

theorem sample_tilesOnly (fresh : Nat) : TilesOnly k (sample fresh k ci ts).core := by
  unfold sample
  exact rtRows_tilesOnly fun o r => .writeCodes _ _ _ _ _

theorem xent_tilesOnly (fresh : Nat) : TilesOnly k (xent fresh k ci ts).core := by
  unfold xent
  refine rtRows_tilesOnly fun o r => ?_
  dsimp only
  cases ts[2]?.join with
  | none => cases ts[3]?.join with
    | none => exact .refl _
    | some tg => exact .rtStore _ _ _ _ _ _
  | some tl => cases ts[3]?.join with
    | none => exact .rtStore _ _ _ _ _ _
    | some tg => exact .trans (.rtStore _ _ _ _ _ _) (.rtStore _ _ _ _ _ _)

theorem conv1d_tilesOnly : TilesOnly k (conv1d k ci ts).core := by
  unfold conv1d
  refine rtRows_tilesOnly fun o r => ?_
  dsimp only
  cases ts[2]?.join with
  | none => exact .rtStore _ _ _ _ _ _
  | some tl => exact .trans (.rtStore _ _ _ _ _ _) (.rtStore _ _ _ _ _ _)

end routines

/-! ### A routine starts -/

section runRoutine
variable {e : EngCmd} {rest : List EngCmd} {id : Nat} {f : Core → CallInfo → List (Option Tile) → RtOut}

theorem runRoutine_of_held (hq : (s.core c).v.queue = e :: rest)
    (h : e.opc ≠ 0x0B ∨ e.routine ≠ id ∨ rtMayRun (s.core c) e = false) : runRoutine s c id f = s := by
  unfold runRoutine
  dsimp only
  rw [hq]
  exact if_pos (h.imp_right fun h => h.imp_right fun h => by rw [h]; rfl)

/-- What a started routine leaves of its core and of the rest. -/
structure RoutineStarted (c : CoreId) (e : EngCmd) (rest : List EngCmd) (s t : State) : Prop where
  queue : (t.core c).v.queue = rest
  run : (t.core c).v.run = (s.core c).v.run ++ [e]
  flags : (t.core c).q.flags = (s.core c).q.flags
  tq : (t.core c).q.tq = (s.core c).q.tq
  params : (t.core c).q.params = (s.core c).q.params
  mQueue : (t.core c).m.queue = (s.core c).m.queue
  mover : (t.core c).t = (s.core c).t
  others : OtherCores c s t
  frame : SameOutside [.cores, .cke, .fresh] s t

/-- R71: a routine's event does nothing unless the head of the VCE's queue is this routine's work and may run. -/
theorem runRoutine_of_notHead (h : ∀ e rest, (s.core c).v.queue = e :: rest →
    e.opc ≠ 0x0B ∨ e.routine ≠ id ∨ rtMayRun (s.core c) e = false) : runRoutine s c id f = s := by
  cases hq : (s.core c).v.queue with
  | nil =>
    unfold runRoutine
    dsimp only
    rw [hq]
  | cons e rest => exact runRoutine_of_held hq (h e rest hq)

/-- R124, R145: the core a routine leaves, from the core `k` it starts on and `m` with the tiles written and marked. -/
def routineCore (k : Core) (o : RtOut) (m : Core) : Core :=
  { m with
    v.sfuClamps := satAdd 32 k.v.sfuClamps o.clamps
    v.sfuFallbacks := satAdd 32 k.v.sfuFallbacks o.fallbacks }.numFlags o.fl

theorem routineCore_q (k : Core) (o : RtOut) (m : Core) :
    (routineCore k o m).q = { m.q with numStatus := (routineCore k o m).q.numStatus } := rfl

theorem runRoutine_of_free (hf : ∀ k ci ts, TilesOnly k (f k ci ts).core) (hq : (s.core c).v.queue = e :: rest)
    (ho : e.opc = 0x0B) (hr : e.routine = id) (hm : rtMayRun (s.core c) e = true) :
    ∃ (o : RtOut) (m : Core), TilesOnly (vceTake (s.core c) e) m ∧
      runRoutine s c id f = if o.nfLoss
        then State.setHealth { s.setCore c (routineCore (s.core c) o m) with fresh := s.fresh + o.used } 0
        else { s.setCore c (routineCore (s.core c) o m) with fresh := s.fresh + o.used } := by
  unfold runRoutine
  dsimp only
  rw [hq]
  dsimp only
  rw [if_neg (by simp [ho, hr, hm])]
  refine ⟨_, _, (hf _ _ _).trans (TilesOnly.foldl (e.args.zip (rtBack id)) (fun k p => ?_) _), rfl⟩
  split
  · exact .markTile _ k
  · exact .refl k

/-- A state with one core, the counter of free values and perhaps the health word replaced. -/
theorem core_replaced (hs : s.has64) (k : Core) (n : Nat) (b : Bool)
    (ht : t = if b then State.setHealth { s.setCore c k with fresh := n } 0 else { s.setCore c k with fresh := n }) :
    t.core c = k ∧ OtherCores c s t ∧ SameOutside [.cores, .cke, .fresh] s t := by
  have hcores : t.cores = (s.setCore c k).cores := by
    rw [ht]
    cases b <;> rfl
  have hcore : ∀ x, t.core x = if x = c then k else s.core x := fun x => by
    rw [State.core_of_cores hcores, State.core_setCore hs]
  refine ⟨(hcore c).trans (if_pos rfl), fun x hx => (hcore x).trans (if_neg hx), fun p hp => ?_⟩
  rw [ht]
  cases b <;> cases p <;> simp_all [StatePart.same]

/-- R71, R75, R154: the head of the VCE's queue starts if it is this routine's work and nothing holds it. -/
theorem runRoutine_started (hs : s.has64) (hq : (s.core c).v.queue = e :: rest) (ho : e.opc = 0x0B) (hr : e.routine = id)
    (hm : rtMayRun (s.core c) e = true) (hf : ∀ k ci ts, TilesOnly k (f k ci ts).core) :
    RoutineStarted c e rest s (runRoutine s c id f) := by
  obtain ⟨o, m, ⟨hmq, hmt, hmm, hmvq, hmvr⟩, heq⟩ := runRoutine_of_free hf hq ho hr hm
  obtain ⟨hcore, hothers, hframe⟩ := core_replaced hs _ _ _ heq
  have hkq : (routineCore (s.core c) o m).q = { (s.core c).q with numStatus := (routineCore (s.core c) o m).q.numStatus } := by
    rw [routineCore_q, hmq]
    rfl
  refine ⟨?_, ?_, ?_, ?_, ?_, ?_, ?_, hothers, hframe⟩ <;> rw [hcore]
  · exact hmvq.trans (by rw [vceTake, hq]; rfl)
  · exact hmvr
  · rw [hkq]
  · rw [hkq]
  · rw [hkq]
  · exact hmm
  · exact hmt

end runRoutine

end Sys2Proof.Machine
end

section
/-! SUPPORT. CALL and the routines (R62, R88 to R92). -/

namespace Sys2Proof.Machine
variable {s t u : State} {c : CoreId} {k k' : Core} {d : Disp} {lo imm : Word64}

/-! ### The block is read -/

theorem Core.ready_stalled {lo imm cause : Nat} (h : k.ready lo imm = some d) :
    ({ k with q.seq := .stalled, q.stall := cause } : Core).ready lo imm = some d := by
  unfold Core.ready at h ⊢
  split at h
  · exact absurd h (Option.some_ne_none _).symm
  · exact h

/-- R62: a CALL whose block has not been read stalls with PB_FETCH. -/
theorem call_stalls (h : Dispatches s c lo imm 0x0B (callCodes s) noCodes d) (hp : (s.core c).q.pbRead = none)
    (run : State → Core → Disp → State) : dispatchWith s c lo imm 0x0B (callCodes s) callStalls run = s.stallOn c 8 := by
  obtain ⟨hready, hword, o, hspec, hopc, hcodes, hstall⟩ := h
  have hfull : code? (tqFull (s.core c) d.lo) 3 = [] := by
    rw [lowest_eq_none, List.append_eq_nil_iff] at hstall
    exact hstall.1
  have hcause : callStalls (s.core c) d = [8] := by rw [callStalls, hp]
  have hlow : lowest (code? (tqFull (s.core c) d.lo) 3 ++ callStalls (s.core c) d) = some 8 := by
    rw [hfull, hcause]
    rfl
  unfold dispatchWith
  simp only [hready, hword, hspec, hopc, hcodes, hlow, Bool.false_eq_true, if_false, ne_eq, not_true_eq_false]

theorem State.stallOn_core (hs : s.has64) (cause : Nat) (x : CoreId) : (s.stallOn c cause).core x =
    if x = c then { s.core c with q.seq := .stalled, q.stall := cause } else s.core x :=
  State.core_modCore hs c x _

theorem State.touchLine_poisoned {a agent : Nat} (h : s.poisoned a = true) : (s.touchLine a agent).1 = true := by
  have hc : (s.countLine a false).poisoned a = true := by
    rw [State.poisoned, show (s.countLine a false).mem = s.mem by simp]
    exact h
  rw [State.touchLine, State.touchLineAs]
  dsimp only
  rw [hc, if_pos rfl]
  split
  · rfl
  · rfl

theorem State.touchLine_sameOutside (a agent : Nat) :
    SameOutside [.hub, .err, .mem, .cke, .pwr, .pmu, .sent, .fresh] s (s.touchLine a agent).2 := fun p hp => by
  cases p <;> simp_all [StatePart.same]

/-- R89, R232: the block is read by the core that stalls on it. -/
theorem readBlock_stalled (hs : s.has64) (h : (s.core c).ready lo.toNat imm.toNat = some d) (hp : (s.core c).q.pbRead = none) :
    readBlock (s.stallOn c 8) c lo.toNat imm.toNat =
      ((s.stallOn c 8).touchLine (pbAddr d.eff) (c.val + 1)).2.modCore c fun k =>
        { k with q.pbRead := some (s.bytesAt (pbAddr d.eff) 64, ((s.stallOn c 8).touchLine (pbAddr d.eff) (c.val + 1)).1) } := by
  have hcore : (s.stallOn c 8).core c = { s.core c with q.seq := .stalled, q.stall := 8 } := by
    rw [State.stallOn_core hs, if_pos rfl]
  have haw : ({ s.core c with q.seq := .stalled, q.stall := 8 } : Core).awaitsBlock = true := by
    simp [Core.awaitsBlock, hp]
  rw [readBlock, hcore, Core.ready_stalled h]
  dsimp only
  rw [haw, if_pos rfl]
  rfl

/-! ### A call that is dispatched -/

theorem readBlock_of_not (h : (s.core c).q.seq ≠ .stalled) (lo imm : Nat) : readBlock s c lo imm = s := by
  have haw : (s.core c).awaitsBlock = false := by simp [Core.awaitsBlock, h]
  unfold readBlock
  split
  · rfl
  · rw [haw, if_neg Bool.false_ne_true]

theorem exec_call_of_dispatched
    (h : ((dispatchWith s c lo imm 0x0B (callCodes s) callStalls (callBegin c)).core c).q.seq ≠ .stalled) :
    exec (.call c lo imm) s = .next (dispatchWith s c lo imm 0x0B (callCodes s) callStalls (callBegin c)) := by
  have hexec : exec (.call c lo imm) s =
      .next (readBlock (dispatchWith s c lo imm 0x0B (callCodes s) callStalls (callBegin c)) c lo.toNat imm.toNat) := rfl
  rw [hexec, readBlock_of_not h]

/-- R89: the core as the CALL of its parameter block begins. -/
def callTaken (k : Core) (d : Disp) : Core :=
  { k with q.seq := .dispatching, q.stall := 0, q.callId := d.eff % 65536, q.pbRead := none }

/-- R89: the core that runs a routine of the ROM. -/
def callRuns (k : Core) (d : Disp) (pb : List Byte) : Core :=
  { callTaken k d with q.call := some ⟨d.eff % 65536, pb, d.idx, d.pass, d.lo, d.imm, 0⟩ }

theorem entered_pbRead (k : Core) : (entered k).q.pbRead = k.q.pbRead := by
  unfold entered
  split
  · rfl
  · rfl

section begins
variable {pb : List Byte} {b : Bool} (hp : k.q.pbRead = some (pb, b))
include hp

theorem callBegin_runs (hi : (romBody (d.eff % 65536)).isSome = true) (ht : isTileRoutine (d.eff % 65536) = false) :
    callBegin c s k d = s.setCore c (callRuns k d pb) := by
  rw [callBegin, hp]
  dsimp only
  rw [ht, if_neg Bool.false_ne_true, if_neg (by rw [Option.isNone_eq_false_iff.2 hi]; exact Bool.false_ne_true)]
  rfl

theorem callBegin_ends (hi : (romBody (d.eff % 65536)).isNone = true) (ht : isTileRoutine (d.eff % 65536) = false) :
    callBegin c s k d = (s.setCore c (callRuns k d pb)).finishCall c := by
  rw [callBegin, hp]
  dsimp only
  rw [ht, if_neg Bool.false_ne_true, if_pos hi]
  rfl

theorem callBegin_dispatches (ht : isTileRoutine (d.eff % 65536) = true) (hf : lowest (rtFaults (d.eff % 65536) pb k.q.tq) = none) :
    callBegin c s k d = rtDispatch s c (callTaken k d) d pb := by
  rw [callBegin, hp]
  dsimp only
  rw [ht, if_pos rfl, Option.map_some, Option.getD_some, hf]
  rfl

theorem callBegin_refused {code : Nat} (ht : isTileRoutine (d.eff % 65536) = true)
    (hf : lowest (rtFaults (d.eff % 65536) pb k.q.tq) = some code) : callBegin c s k d =
      (s.setCore c (callTaken k d)).cmdFault c code d.idx d.pass (Config.routineOpc (d.eff % 65536) % 256) (d.eff % 65536) noPos := by
  rw [callBegin, hp]
  dsimp only
  rw [ht, if_pos rfl, Option.map_some, Option.getD_some, hf]
  rfl

end begins

/-! ### PARAM values of a call that has ended (R92) -/

/-- R92: a core whose PARAM registers from 240 on hold unspecified values. -/
def clobbered (fresh : Nat) (k : Core) : Core :=
  { k with q.params := ssetList 0 k.q.params 240 ((List.range 16).map fun i => BitVec.ofNat 64 (Config.freeValue (fresh + i))) }

theorem sget_ssetList_of_lt {α : Type} [DecidableEq α] (x : α) (xs : List α) (m : SMap α) {n k : Nat} (h : n < k) :
    sget x (ssetList x m k xs) n = sget x m n := by
  induction xs generalizing m k with
  | nil => rfl
  | cons y ys ih => rw [ssetList, ih _ (by omega), sget_sset, if_neg (by omega)]

theorem clobbered_param (fresh : Nat) (k : Core) {n : Nat} (h : n < 240) : (clobbered fresh k).param n = k.param n :=
  sget_ssetList_of_lt 0 _ _ h

theorem State.modCore_setCore (hs : s.has64) (f : Core → Core) : (s.setCore c k).modCore c f = s.setCore c (f k) := by
  rw [State.modCore, State.core_setCore hs, if_pos rfl, State.setCore, State.setCore, State.setCore, List.set_set]

theorem State.clobberParams_setCore (hs : s.has64) (k : Core) :
    (s.setCore c k).clobberParams c = { s.setCore c (clobbered s.fresh k) with fresh := s.fresh + 16 } := by
  rw [State.clobberParams]
  dsimp only
  rw [State.modCore_setCore hs]
  rfl

theorem State.settleRewind_of_not (h : s.cke.rewinding = false) : s.settleRewind = s := by
  rw [State.settleRewind, h]
  rfl

/-- R92: a call that ends at once, as its core goes on. -/
def callEnded (fresh : Nat) (k : Core) (d : Disp) (pb : List Byte) : Core :=
  dispatched { clobbered fresh (callRuns k d pb) with q.call := none } ⟨d.idx, d.pass, d.lo, d.imm, d.imm⟩

theorem finishCall_callRuns (hs : s.has64) (hr : s.cke.rewinding = false) (pb : List Byte) :
    Placed c ((callEnded s.fresh k d pb).csig d.lo) { s with fresh := s.fresh + 16 } ((s.setCore c (callRuns k d pb)).finishCall c) := by
  have hcore : (s.setCore c (callRuns k d pb)).core c = callRuns k d pb := by rw [State.core_setCore hs, if_pos rfl]
  have hfin : (s.setCore c (callRuns k d pb)).finishCall c = (Machine.csigFire
      (State.setCore { s with fresh := s.fresh + 16 } c (callEnded s.fresh k d pb)) c d.lo).settleRewind := by
    have hmod := State.modCore_setCore (s := { s with fresh := s.fresh + 16 }) (c := c) (k := clobbered s.fresh (callRuns k d pb)) hs
      fun k => dispatched { k with q.call := none } ⟨d.idx, d.pass, d.lo, d.imm, d.imm⟩
    rw [State.finishCall, hcore, State.clobberParams_setCore hs]
    exact congrArg (fun t => (Machine.csigFire t c d.lo).settleRewind) hmod
  have hp := Placed.csigFire (c := c) (k := callEnded s.fresh k d pb) (s := { s with fresh := s.fresh + 16 }) hs d.lo
  rw [hfin, State.settleRewind_of_not]
  · exact hp
  · have hcke : State.cke _ = s.cke := hp.frame .cke (by simp)
    rw [hcke, hr]

/-! ### A routine of the chain that is dispatched -/

/-- R69, R71: the core once a routine's work `x` is in the queue of the VCE. -/
def rtQueued (k : Core) (x : EngCmd) (tq : SMap (List QEntry)) : Core :=
  { k with q.tq := tq, q.nextId := k.q.nextId + 1 }.enqueue .vce x

/-- R69, R71: the work `x` that a CALL of a routine of the chain dispatches. -/
structure RtWork (k : Core) (d : Disp) (pb : List Byte) (x : EngCmd) : Prop where
  opc : x.opc = wOpc d.lo
  routine : x.routine = d.eff % 65536
  pb : x.pb = pb
  lo : x.lo = d.lo
  idx : x.idx = d.idx
  pass : x.pass = d.pass
  id : x.id = k.q.nextId

theorem popSeq_of_unfaulted {id : Nat} {pb : List Byte} {tq : SMap (List QEntry)} (h : lowest (rtFaults id pb tq) = none) :
    ∃ p, popSeq tq (rtQueues id pb) = some p := by
  rw [lowest_eq_none, rtFaults] at h
  cases hp : popSeq tq (rtQueues id pb) with
  | none => exact absurd h (by rw [hp]; exact List.cons_ne_nil _ _)
  | some p => exact ⟨p, rfl⟩

theorem rtDispatch_queues {pb : List Byte} (hs : s.has64) (h : lowest (rtFaults (d.eff % 65536) pb k.q.tq) = none) :
    ∃ x tq, RtWork k d pb x ∧ rtDispatch s c k d pb =
      { s.setCore c (clobbered s.fresh (dispatched (rtQueued k x tq) d)) with fresh := s.fresh + 16 } := by
  obtain ⟨⟨es, tq⟩, hp⟩ := popSeq_of_unfaulted h
  rw [rtDispatch]
  dsimp only
  rw [hp]
  dsimp only
  exact ⟨_, _, ⟨rfl, rfl, rfl, rfl, rfl, rfl, rfl⟩, State.clobberParams_setCore hs _⟩

/-! ### The whole CALL -/

theorem Placed.param (h : Placed c k s t) (n : Nat) : (t.core c).param n = k.param n := by
  rw [Core.param, h.q_eq, Core.param]

/-- A word that is dispatched, when its effect puts a core in its place and uses free values. -/
theorem dispatchWith_placedFresh {opc n : Nat} {codes stall : Core → Disp → List Nat} {run : State → Core → Disp → State}
    (hs : s.has64) (h : Dispatches s c lo imm opc codes stall d)
    (hrun : (s.setCore c (entered (s.core c))).has64 → Placed c k { s.setCore c (entered (s.core c)) with fresh := n }
      (run (s.setCore c (entered (s.core c))) (entered (s.core c)) d)) :
    Placed c k { s with fresh := n } (dispatchWith s c lo imm opc codes stall run) := by
  obtain ⟨b, hb⟩ := dispatchWith_dispatches h run
  rw [hb]
  have hset : Placed c (entered (s.core c)) { s with fresh := n } { s.setCore c (entered (s.core c)) with fresh := n } :=
    Placed.setCore (s := { s with fresh := n }) hs
  exact (hset.trans (hrun (State.setCore_has64 hs _ _))).countDispatch b

theorem fresh_sameOutside {n : Nat} : SameOutside [.fresh] s { s with fresh := n } := fun p hp => by
  cases p <;> simp_all [StatePart.same]

theorem advance_callId (k : Core) : (advance k).q.callId = k.q.callId := by
  unfold advance
  dsimp only
  (repeat' split) <;> rfl

theorem dispatched_callId (k : Core) (d : Disp) : (dispatched k d).q.callId = k.q.callId := by
  rw [dispatched, advance_callId]
  split
  · rfl
  · unfold recordCmd
    (repeat' split) <;> rfl

theorem Core.ready_call {lo imm : Nat} (h : k.ready lo imm = some d) : k.q.call = none := by
  unfold Core.ready at h
  split at h
  · exact absurd h (Option.some_ne_none _).symm
  · split at h
    case isTrue => exact absurd h (Option.some_ne_none _).symm
    case isFalse hb =>
      simp only [Bool.or_eq_true, not_or, Option.not_isSome_iff_eq_none] at hb
      exact hb.2

theorem State.haltJob_has64 (hs : s.has64) (code : Nat) : (s.haltJob code).has64 := by
  have hhalt : State.has64 { s with cores := s.cores.map haltCore } := (List.length_map _).trans hs
  unfold State.haltJob
  split
  · exact hs
  · dsimp only
    split <;> exact hhalt

theorem State.cmdFault_has64 (hs : s.has64) (code idx pass opc routine pos : Nat) : (s.cmdFault c code idx pass opc routine pos).has64 :=
  State.haltJob_has64 (State.modCore_has64 (State.has64_of_cores hs (by simp)) c _) code

section call
variable {pb : List Byte} (hs : s.has64) (hp : (s.core c).q.pbRead = some (pb, false))
  (h : Dispatches s c lo imm 0x0B (callCodes s) callStalls d)
include hs hp h

theorem call_runs (hi : (romBody (d.eff % 65536)).isSome = true) (ht : isTileRoutine (d.eff % 65536) = false) :
    ∃ t, exec (.call c lo imm) s = .next t ∧ Placed c (callRuns (entered (s.core c)) d pb) s t := by
  have hpl : Placed c (callRuns (entered (s.core c)) d pb) s
      (dispatchWith s c lo imm 0x0B (callCodes s) callStalls (callBegin c)) := dispatchWith_placed hs h fun hu => by
    rw [callBegin_runs ((entered_pbRead _).trans hp) hi ht]
    exact Placed.setCore hu
  refine ⟨_, exec_call_of_dispatched ?_, hpl⟩
  rw [hpl.q_eq]
  exact nofun

theorem call_ends (hr : s.cke.rewinding = false) (hi : (romBody (d.eff % 65536)).isNone = true)
    (ht : isTileRoutine (d.eff % 65536) = false) : ∃ t, exec (.call c lo imm) s = .next t ∧
      Placed c ((callEnded s.fresh (entered (s.core c)) d pb).csig lo.toNat) { s with fresh := s.fresh + 16 } t := by
  have hpl : Placed c ((callEnded s.fresh (entered (s.core c)) d pb).csig lo.toNat) { s with fresh := s.fresh + 16 }
      (dispatchWith s c lo imm 0x0B (callCodes s) callStalls (callBegin c)) := dispatchWith_placedFresh hs h fun hu => by
    rw [callBegin_ends ((entered_pbRead _).trans hp) hi ht, ← h.checks.1]
    exact finishCall_callRuns hu hr pb
  refine ⟨_, exec_call_of_dispatched ?_, hpl⟩
  rw [hpl.q_eq, Core.csig_q, callEnded]
  dsimp only
  rw [(dispatched_same _ _).2.2.2.1]
  exact nofun

theorem call_queues (ht : isTileRoutine (d.eff % 65536) = true) (hf : lowest (rtFaults (d.eff % 65536) pb (s.core c).q.tq) = none) :
    ∃ t x tq, exec (.call c lo imm) s = .next t ∧ RtWork (s.core c) d pb x ∧
      Placed c (clobbered s.fresh (dispatched (rtQueued (callTaken (entered (s.core c)) d) x tq) d)) { s with fresh := s.fresh + 16 } t := by
  have hf' : lowest (rtFaults (d.eff % 65536) pb (callTaken (entered (s.core c)) d).q.tq) = none := by
    rw [callTaken, entered_tq]
    exact hf
  obtain ⟨x, tq, hx, heq⟩ := rtDispatch_queues (State.setCore_has64 hs c (entered (s.core c))) (c := c) hf'
  have hpl : Placed c (clobbered s.fresh (dispatched (rtQueued (callTaken (entered (s.core c)) d) x tq) d)) { s with fresh := s.fresh + 16 }
      (dispatchWith s c lo imm 0x0B (callCodes s) callStalls (callBegin c)) := dispatchWith_placedFresh hs h fun hu => by
    rw [callBegin_dispatches ((entered_pbRead _).trans hp) ht hf', heq]
    exact Placed.setCore (s := { s.setCore c (entered (s.core c)) with fresh := s.fresh + 16 }) hu
  have hid : (callTaken (entered (s.core c)) d).q.nextId = (s.core c).q.nextId := (entered_flags (s.core c)).2.2.2.2.2.2.2.1
  refine ⟨_, x, tq, exec_call_of_dispatched ?_, ⟨hx.opc, hx.routine, hx.pb, hx.lo, hx.idx, hx.pass, hx.id.trans hid⟩, hpl⟩
  rw [hpl.q_eq, clobbered]
  dsimp only
  rw [(dispatched_same _ _).2.2.2.1]
  exact nofun

/-- R92: a refused command of a routine stops its core. -/
theorem call_refused {code : Nat} (ht : isTileRoutine (d.eff % 65536) = true)
    (hf : lowest (rtFaults (d.eff % 65536) pb (s.core c).q.tq) = some code) : ∃ t, exec (.call c lo imm) s = .next t ∧
      (t.core c).q.seq = .haltFault ∧ (t.core c).q.cmdIndex = d.idx ∧ (t.core c).v.queue = (s.core c).v.queue ∧
      SameOutside [.cores, .hub, .err, .pmu, .sent] s t := by
  have hf' : lowest (rtFaults (d.eff % 65536) pb (entered (s.core c)).q.tq) = some code := by rw [entered_tq, hf]
  obtain ⟨b, hb⟩ := dispatchWith_dispatches h (callBegin c)
  rw [callBegin_refused ((entered_pbRead _).trans hp) ht hf'] at hb
  have hu := State.setCore_has64 (State.setCore_has64 hs c (entered (s.core c))) c (callTaken (entered (s.core c)) d)
  have hcore := State.cmdFault_core (c := c) hu code d.idx d.pass (Config.routineOpc (d.eff % 65536) % 256) (d.eff % 65536) noPos
  rw [State.core_setCore (State.setCore_has64 hs _ _), if_pos rfl] at hcore
  obtain ⟨-, -, hq, -, hv, -⟩ := State.countDispatch_butPmu (State.cmdFault_has64 (c := c) hu code d.idx d.pass
    (Config.routineOpc (d.eff % 65536) % 256) (d.eff % 65536) noPos) c b
  rw [← hb, hcore] at hq hv
  refine ⟨_, exec_call_of_dispatched (by rw [hq]; exact nofun), by rw [hq], by rw [hq], ?_, ?_⟩
  · rw [hv]
    exact congrArg VceC.queue (entered_keepsPlace _).v
  · rw [hb]
    exact fun p hp => by cases p <;> simp_all [StatePart.same]

end call

/-! ### The obligation -/

/-- R71, R89: the routines of the chain as their events run them. -/
theorem exec_routine (c : CoreId) (s : State) : ∀ p ∈ [(Instr.softmax c, 1), (.layernorm c, 2), (.rmsnorm c, 3), (.linscan c, 4),
    (.topk c, 5), (.sample c, 6), (.xent c, 7), (.conv1d c, 8)], ∃ f, exec p.1 s = .next (runRoutine s c p.2 f) ∧
      ∀ k ci ts, TilesOnly k (f k ci ts).core := by
  intro p hp
  simp only [List.mem_cons, List.not_mem_nil, or_false] at hp
  obtain rfl | rfl | rfl | rfl | rfl | rfl | rfl | rfl := hp
  · exact ⟨softmax, rfl, softmax_tilesOnly⟩
  · exact ⟨normalise false, rfl, fun k ci ts => normalise_tilesOnly k ci ts false⟩
  · exact ⟨normalise true, rfl, fun k ci ts => normalise_tilesOnly k ci ts true⟩
  · exact ⟨linscan, rfl, linscan_tilesOnly⟩
  · exact ⟨topk, rfl, topk_tilesOnly⟩
  · exact ⟨sample s.fresh, rfl, fun k ci ts => sample_tilesOnly k ci ts s.fresh⟩
  · exact ⟨xent s.fresh, rfl, fun k ci ts => xent_tilesOnly k ci ts s.fresh⟩
  · exact ⟨conv1d, rfl, conv1d_tilesOnly⟩

/-- R62, R89: a core that stalls with PB_FETCH and has read its block. -/
def callStalled (k : Core) (pb : List Byte × Bool) : Core := { k with q.seq := .stalled, q.stall := 8, q.pbRead := some pb }

/-- R62, R89: the first event of a CALL. -/
theorem call_reads (hs : s.has64) (h : Dispatches s c lo imm 0x0B (callCodes s) noCodes d) (hp : (s.core c).q.pbRead = none) :
    ∃ t, exec (.call c lo imm) s = .next t ∧
      t.core c = callStalled (s.core c)
        (s.bytesAt (pbAddr d.eff) 64, ((s.stallOn c 8).touchLine (pbAddr d.eff) (c.val + 1)).1) ∧
      OtherCores c s t ∧ SameOutside [.cores, .hub, .err, .mem, .cke, .pwr, .pmu, .sent, .fresh] s t := by
  have hexec : exec (.call c lo imm) s =
      .next (readBlock (dispatchWith s c lo imm 0x0B (callCodes s) callStalls (callBegin c)) c lo.toNat imm.toNat) := rfl
  rw [call_stalls h hp, readBlock_stalled hs h.1 hp] at hexec
  have hcores : ((s.stallOn c 8).touchLine (pbAddr d.eff) (c.val + 1)).2.cores = (s.stallOn c 8).cores := by simp
  have hcore := fun x => State.core_modCore (State.has64_of_cores (State.modCore_has64 hs c _) hcores) c x fun k =>
    { k with q.pbRead := some (s.bytesAt (pbAddr d.eff) 64, ((s.stallOn c 8).touchLine (pbAddr d.eff) (c.val + 1)).1) }
  refine ⟨_, hexec, ?_, fun x hx => ?_, ?_⟩
  · rw [hcore, if_pos rfl, State.core_of_cores hcores, State.stallOn_core hs, if_pos rfl]
    rfl
  · rw [hcore, if_neg hx, State.core_of_cores hcores, State.stallOn_core hs, if_neg hx]
  · have hstall : SameOutside [.cores] s (s.stallOn c 8) := sameOutside_cores
    exact (hstall.mono (by simp)).trans (((State.touchLine_sameOutside _ _).mono (by simp)).trans (sameOutside_cores.mono (by simp)))

/-- Settles O21: the CALL's two events by the block it has read, then each routine's own event as one start of the VCE. -/
theorem callsRunTheirRoutines : Obligations.CallsRunTheirRoutines := by
  unfold Obligations.CallsRunTheirRoutines
  refine ⟨fun c lo imm s d hs => ⟨fun h hp => ?reads, fun pb hp h hr => ⟨fun hi ht => ?runs, fun hi ht => ?ends, fun ht hf => ?queues,
    fun code ht hf => call_refused hs hp h ht hf⟩⟩, fun c s hs p hmem => ⟨fun hq => ?held, fun e rest hq ho hid hm => ?started⟩⟩
  case reads =>
    obtain ⟨t, hexec, hcore, hothers, hframe⟩ := call_reads hs h hp
    have hsound : s.lineSound (pbAddr d.eff) = true → ((s.stallOn c 8).touchLine (pbAddr d.eff) (c.val + 1)).1 = false :=
      fun hl => State.touchLine_sound (s := s.stallOn c 8) hl
    have hpoison : s.poisoned (pbAddr d.eff) = true → ((s.stallOn c 8).touchLine (pbAddr d.eff) (c.val + 1)).1 = true :=
      fun hl => State.touchLine_poisoned (s := s.stallOn c 8) hl
    refine ⟨t, ((s.stallOn c 8).touchLine (pbAddr d.eff) (c.val + 1)).1, hexec, ?_⟩
    rw [hcore]
    exact ⟨rfl, rfl, rfl, hsound, hpoison, rfl, rfl, rfl, rfl, hothers, hframe⟩
  case runs =>
    obtain ⟨t, hexec, hpl⟩ := call_runs hs hp h hi ht
    have hq := hpl.q_eq
    refine ⟨t, hexec, by rw [hq]; rfl, by rw [hq]; rfl, by rw [hq]; rfl, ?_, ?_, hpl.others, hpl.frame⟩
    · exact (congrArg SeqC.params hq).trans entered_params
    · exact (congrArg SeqC.flags hq).trans (entered_keepsPlace _).flags
  case ends =>
    obtain ⟨t, hexec, hpl⟩ := call_ends hs hp h hr hi ht
    obtain ⟨-, hparams, -, -, -, -, -, -, -, -, -, -, -, hcall⟩ := dispatched_same
      { clobbered s.fresh (callRuns (entered (s.core c)) d pb) with q.call := none } ⟨d.idx, d.pass, d.lo, d.imm, d.imm⟩
    have hdone : SeqDone c lo s t := hpl.seqDone (KeepsPlace.dispatched ((entered_keepsPlace _).trans ⟨rfl, rfl, rfl, rfl, rfl, rfl⟩))
    refine ⟨t, hexec, hdone, ?_, ?_, fun n hn => ?_, ?_⟩
    · rw [hpl.q_eq, Core.csig_call]
      exact hcall
    · rw [hpl.q_eq, Core.csig_q]
      exact dispatched_callId _ _
    · rw [hpl.param, Core.param, Core.csig_params]
      exact (congrArg (sget 0 · n) hparams).trans ((clobbered_param _ _ hn).trans (congrArg (sget 0 · n) entered_params))
    · exact (fresh_sameOutside.mono (by simp)).trans (hpl.frame.mono (by simp))
  case queues =>
    obtain ⟨t, x, tq, hexec, hx, hpl⟩ := call_queues hs hp h ht hf
    obtain ⟨o, hspec, hopc, -⟩ := h.checks.2.2.2.2
    obtain ⟨hflags, hparams, -, hseq, -, hv, -, -, -, -, hnext, -, -, hcall⟩ :=
      dispatched_same (rtQueued (callTaken (entered (s.core c)) d) x tq) d
    obtain ⟨-, -, -, -, -, -, -, hnextId, -, -, -, -, -, -, henteredCall⟩ := entered_flags (s.core c)
    have hv' : (t.core c).v = { (s.core c).v with queue := (s.core c).v.queue ++ [x] } := by
      rw [hpl.v_eq]
      exact hv.trans (by rw [rtQueued, callTaken, (entered_keepsPlace _).v]; rfl)
    have hq := hpl.q_eq
    refine ⟨t, x, hexec, by rw [hv'], hx.opc.trans ((opSpec_opc hspec).symm.trans hopc), hx.routine, hx.pb, hx.lo, hx.idx, hx.pass, hx.id,
      ?_, ?_, ?_, fun n hn => ?_, ?_, by rw [hv'], hpl.others, ?_⟩
    · rw [hq]
      exact hnext.trans (congrArg (· + 1) hnextId)
    · rw [hq]
      exact hcall.trans (henteredCall.trans (Core.ready_call h.1))
    · rw [hq]
      exact hseq
    · rw [hpl.param, clobbered_param _ _ hn, Core.param, hparams]
      exact congrArg (sget 0 · n) entered_params
    · rw [hq]
      exact hflags.trans (entered_keepsPlace _).flags
    · exact (fresh_sameOutside.mono (by simp)).trans (hpl.frame.mono (by simp))
  case held =>
    obtain ⟨f, hexec, -⟩ := exec_routine c s p hmem
    rw [hexec]
    rw [runRoutine_of_notHead fun e rest hv => hq e rest hv]
  case started =>
    obtain ⟨f, hexec, hf⟩ := exec_routine c s p hmem
    obtain ⟨hqueue, hrun, hflags, htq, hparams, hmq, hmover, hothers, hframe⟩ := runRoutine_started hs hq ho hid hm hf
    exact ⟨_, hexec, hqueue, hrun, hflags, htq, hparams, hmq, hmover, hothers, hframe⟩

end Sys2Proof.Machine
end

section
/-! SUPPORT. A start of the matrix unit that changes the accumulators: an ECC error found in a word as the command starts. -/

namespace Sys2Proof.Machine

/-- A DRAIN of one row of array 0 into the operand cache, with its handles here. -/
def drainOfRow : EngCmd :=
  ⟨5, 0x22, 0, 0, 0, 0, 0, 0, some ⟨1 <<< 17 + 11 <<< 20, none⟩, none, some ⟨11 <<< 20, none⟩, [], false, 0, 0, 0, [], []⟩

/-- Core 0 with that DRAIN at the head of its MXU queue, the rest as after reset. -/
def drainWaits : State := State.reset.modCore 0 fun k => { k with m.queue := [drainOfRow] }

theorem drainWaits_mayStart : drainWaits.has64 ∧ (drainWaits.core 0).m.queue = [drainOfRow] ∧
    mxuMayStart (drainWaits.core 0) drainOfRow = true ∧ (drainWaits.core 0).m.run = [] ∧ (drainWaits.core 0).m.acc = [] := by
  unfold State.has64
  decide +kernel

/-- R132: a double-bit error in accumulator word 0 makes the word NaN as the command starts. -/
theorem mxuStart_drainWaits_acc :
    ((resultOf drainWaits (exec (.mxuStart 0 [⟨0, true, true⟩]) drainWaits)).core 0).m.acc ≠ [] := by
  decide +kernel

/-- Refutes O13: it says that a start with no CLEAR under way leaves the accumulators as they are, whatever ECC errors the event
brings. A DRAIN that starts with an uncorrectable error in accumulator word 0 (an operand that `Instr.wf` admits) finds that word
NaN (R132), where it was +0. -/
theorem not_matrixUnitStartsItsHeadCommand : ¬ Obligations.MatrixUnitStartsItsHeadCommand := by
  unfold Obligations.MatrixUnitStartsItsHeadCommand
  intro h
  obtain ⟨h64, hqueue, hmay, hrun, hacc⟩ := drainWaits_mayStart
  have hstream : isStream drainOfRow = false := rfl
  have hmulti : isMulti drainOfRow = false := rfl
  obtain ⟨-, hstarts, -⟩ := h 0 [⟨0, true, true⟩] drainWaits drainOfRow [] h64 hqueue
  obtain ⟨t, hexec, -, -, hkept, -⟩ := hstarts hmay (by simp [hstream]) (by simp [hmulti])
  have hnoClear : ¬(drainOfRow.opc = 0x24 ∨ ∃ x ∈ (drainWaits.core 0).m.run, x.cmd.opc = 0x24) := by simp [drainOfRow, hrun]
  obtain ⟨-, hsame⟩ := hkept (.inr (.inr hnoClear))
  refine mxuStart_drainWaits_acc ?_
  rw [hexec]
  exact hsame.trans hacc

end Sys2Proof.Machine
end

section
/-! SUPPORT. One row through a matrix array (R103, R106, R123 to R132): what its check leaves alone, and the accumulator row it
writes. -/

namespace Sys2Proof.Machine
variable {s t u : State} {c : CoreId} {k k' : Core} {r : MxuRun} {up : RowUpset}

/-! ### What a check of a row leaves alone -/

/-- The matrix unit of a core keeps its commands, weights and accumulators, and its sequencer and VCE are as they were. -/
structure RowsKept (k k' : Core) : Prop where
  q : k'.q = k.q
  v : k'.v = k.v
  queue : k'.m.queue = k.m.queue
  run : k'.m.run = k.m.run
  arr : k'.m.arr = k.m.arr
  acc : k'.m.acc = k.m.acc
  accDefault : k'.m.accDefault = k.m.accDefault

/-- A state changed by the check of a row of core `c` (R129 to R132): counters, records and the health word. -/
structure Checked (c : CoreId) (s t : State) : Prop where
  has64 : t.has64
  core : RowsKept (s.core c) (t.core c)
  others : OtherCores c s t
  frame : SameOutside [.cores, .hub, .err, .cke, .pmu, .sent] s t

theorem RowsKept.trans {k'' : Core} (h : RowsKept k k') (h' : RowsKept k' k'') : RowsKept k k'' :=
  ⟨h'.q.trans h.q, h'.v.trans h.v, h'.queue.trans h.queue, h'.run.trans h.run, h'.arr.trans h.arr, h'.acc.trans h.acc,
    h'.accDefault.trans h.accDefault⟩

theorem RowsKept.of_m_q_v (hm : k'.m = k.m) (hq : k'.q = k.q) (hv : k'.v = k.v) : RowsKept k k' :=
  ⟨hq, hv, by rw [hm], by rw [hm], by rw [hm], by rw [hm], by rw [hm]⟩

theorem Core.accRow_of_m (h : k'.m = k.m) (arr row : Nat) : k'.accRow arr row = k.accRow arr row := by
  rw [Core.accRow, h, Core.accRow]

theorem RowsKept.accRow (h : RowsKept k k') (arr row : Nat) : k'.accRow arr row = k.accRow arr row := by
  rw [Core.accRow, h.acc, h.accDefault, Core.accRow]

namespace Checked

theorem trans (h : Checked c s t) (h' : Checked c t u) : Checked c s u where
  has64 := h'.has64
  core := h.core.trans h'.core
  others x hx := (h'.others x hx).trans (h.others x hx)
  frame := h.frame.trans h'.frame

theorem setCore (hs : s.has64) (hk : RowsKept (s.core c) k) : Checked c s (s.setCore c k) where
  has64 := State.setCore_has64 hs c k
  core := by rwa [State.core_setCore hs, if_pos rfl]
  others x hx := by rw [State.core_setCore hs, if_neg hx]
  frame := State.setCore_sameOutside.mono (by simp)

theorem of_cores (hs : s.has64) (hc : t.cores = s.cores) (hf : SameOutside [.hub, .err, .cke, .pmu, .sent] s t) :
    Checked c s t where
  has64 := State.has64_of_cores hs hc
  core := .of_m_q_v (by rw [State.core_of_cores hc]) (by rw [State.core_of_cores hc]) (by rw [State.core_of_cores hc])
  others x _ := State.core_of_cores hc x
  frame := hf.mono (by simp)

theorem modCore (h : Checked c s t) {f : Core → Core} (hf : ∀ k, RowsKept k (f k)) : Checked c s (t.modCore c f) :=
  h.trans (setCore h.has64 (hf _))

theorem rowNote (h : Checked c s t) (code : Nat) (cls : ErrClass) (e : EngCmd) (q row : Nat) :
    Checked c s (t.rowNote c code cls e q row) :=
  h.trans (of_cores h.has64 (State.raise_sameOutside .cores (by simp)) (State.raise_sameOutside.mono (by simp)))

theorem setHealth (h : Checked c s t) (b : Nat) : Checked c s (t.setHealth b) :=
  h.trans (of_cores h.has64 rfl fun p hp => by cases p <;> simp_all [StatePart.same])

theorem countCore (h : Checked c s t) (ev : Nat) (hit : Nat → Bool) (n : Nat) (x : Sample) :
    Checked c s (t.countCore c ev hit n x) := by
  obtain ⟨hl, hother, hq, hm, hv, -⟩ := State.countCore_butPmu h.has64 c ev hit n x
  exact h.trans ⟨hl, .of_m_q_v hm hq hv, hother, fun p hp => by cases p <;> simp_all [StatePart.same]⟩

theorem countRows (h : Checked c s t) (q blocks n : Nat) : Checked c s (t.countRows c q blocks n) :=
  (h.countCore ..).countCore ..

end Checked

/-! ### The row that leaves the adder tree -/

theorem takeInject_of_none (h : k.m.inj = none) (q target n : Nat) (fs : List (Nat × BitVec 48)) :
    takeInject k q target n fs = (fs, k) := by
  rw [takeInject, h]

theorem flipNum_zero (x : Num) : flipNum x 0 = x := if_pos rfl

theorem upsetRow_nil (o : RowOut) : upsetRow o [] = o := by
  have houts : (o.outs.zipIdx.map fun (x, i) => flipNum x (flipAt [] i)) = o.outs :=
    (List.map_congr_left fun x _ => flipNum_zero x.1).trans (List.zipIdx_map_fst 0 o.outs)
  rw [upsetRow, houts]
  rfl

/-- R129: a row that nothing disturbs and that agrees, or is not compared, leaves the tree as it is. -/
theorem exitCheck_of_agrees {e : EngCmd} {q row blocks : Nat} {o : RowOut} (hi : (s.core c).m.inj = none) (hu : up.first = [])
    (ho : exitAgrees o = true) :
    exitCheck s c e q row blocks o up = (o, false, (s.setCore c (s.core c)).countRows c q blocks 1) := by
  rw [exitCheck, takeInject_of_none hi, hu]
  dsimp only
  rw [upsetRow_nil, if_pos (by simp [ho])]

/-- R106, R121: the accumulator row that an undisturbed row's outputs go into. -/
theorem putRow_of_sound {e : EngCmd} {q row : Nat} {o : RowOut} {replace neg : Bool} (hu : up.ecc = []) :
    putRow s c e q row o replace neg false up = s.setCore c
      (((s.core c).setAccRow q row (contribute ((s.core c).accRow q row) o replace neg).1).numFlags
        ((contribute ((s.core c).accRow q row) o replace neg).2 ||| o.fl)) := by
  rw [putRow, hu]
  cases replace <;> rfl

theorem sget_setAccRow (k : Core) (arr row n : Nat) (x : AccRow) : sget k.m.accDefault (k.setAccRow arr row x).m.acc n
    = if n = arr * 1024 + row then x else sget k.m.accDefault k.m.acc n :=
  sget_sset ..

theorem settleClears_of_none (h : ∀ x ∈ k.m.run, x.cmd.opc ≠ 0x24) : settleClears k = k := by
  rw [settleClears, List.filter_eq_nil_iff.2 (by simpa using h)]
  rfl

theorem settleClears_bumpRun {id q : Nat} (h : ∀ x ∈ k.m.run, x.cmd.opc ≠ 0x24) :
    settleClears (bumpRun k id q) = bumpRun k id q := by
  refine settleClears_of_none fun x hx => ?_
  obtain ⟨y, hy, rfl⟩ := List.mem_map.1 hx
  split <;> exact h y hy

theorem rowCredit_of_held {e : EngCmd} {q : Nat} (h : ∃ x ∈ s.pwr.credits, x.who = ⟨c.val, q⟩ ∧ x.ballast = false) :
    rowCredit s c e q = (true, s) :=
  if_pos (by simpa using h)

/-! ### A step of a started command by one row -/

/-- The step of command `id` by one row of array `q` in core `c`: the command has moved on there, accumulator row `row` has become
`x`, and no other row, command, weight, flag or tile queue has changed. -/
structure RowStep (c : CoreId) (q row id : Nat) (x : AccRow) (s t : State) : Prop where
  run : (t.core c).m.run = (bumpRun (s.core c) id q).m.run
  written : (t.core c).accRow q row = x
  rest : ∀ n, n ≠ q * 1024 + row →
    sget (s.core c).m.accDefault (t.core c).m.acc n = sget (s.core c).m.accDefault (s.core c).m.acc n
  queue : (t.core c).m.queue = (s.core c).m.queue
  arr : (t.core c).m.arr = (s.core c).m.arr
  flags : (t.core c).q.flags = (s.core c).q.flags
  tq : (t.core c).q.tq = (s.core c).q.tq
  others : OtherCores c s t
  frame : SameOutside [.cores, .hub, .err, .cke, .pmu, .sent] s t

/-- With no CLEAR under way, a core `k` that differs from the checked one in one accumulator row ends the step of that row. -/
theorem Checked.rowStep {q row id : Nat} {x : AccRow} {f : Fl} (h : Checked c s u) (hq : k.q = (u.core c).q)
    (hm : k.m = { (u.core c).m with acc := k.m.acc })
    (hacc : ∀ n, sget (u.core c).m.accDefault k.m.acc n
      = if n = q * 1024 + row then x else sget (u.core c).m.accDefault (u.core c).m.acc n)
    (hclr : ∀ x ∈ (s.core c).m.run, x.cmd.opc ≠ 0x24) :
    RowStep c q row id x s (u.setCore c (settleClears (bumpRun (k.numFlags f) id q))) := by
  obtain ⟨huq, -, hqueue, hrun, harr, huacc, hdef⟩ := h.core
  have hkrun : k.m.run = (s.core c).m.run := by rw [hm, ← hrun]
  have hcore : (u.setCore c (settleClears (bumpRun (k.numFlags f) id q))).core c = bumpRun (k.numFlags f) id q := by
    rw [State.core_setCore h.has64, if_pos rfl, settleClears_bumpRun (hkrun ▸ hclr)]
  constructor
  case run => rw [hcore, bumpRun, bumpRun, ← hkrun]; rfl
  case written =>
    rw [hcore]
    change sget k.m.accDefault k.m.acc (q * 1024 + row) = x
    rw [hm, hacc, if_pos rfl]
  case rest =>
    intro n hn
    rw [hcore]
    change sget _ k.m.acc n = _
    rw [← hdef, hacc, if_neg hn, huacc]
  case queue => rw [hcore, ← hqueue]; exact (congrArg MxuC.queue hm :)
  case arr => rw [hcore, ← harr]; exact (congrArg MxuC.arr hm :)
  case flags => rw [hcore, ← huq]; exact (congrArg SeqC.flags hq :)
  case tq => rw [hcore, ← huq]; exact (congrArg SeqC.tq hq :)
  case others =>
    intro y hy
    rw [State.core_setCore h.has64, if_neg hy, h.others y hy]
  case frame => exact h.frame.trans (State.setCore_sameOutside.mono (by simp))

/-! ### TREE_OUTPUT -/

/-- R101: no row enters while a punty load is in progress. -/
theorem treeOutput_of_punty (q : Fin 4) (h : puntyActive (s.core c) = true) : exec (.treeOutput c q up) s = .next s := by
  have hexec : exec (.treeOutput c q up) s = execTreeOutput c q up s := rfl
  rw [hexec, execTreeOutput]
  dsimp only
  split
  · rfl
  · rw [if_pos (by simp [h])]

theorem treeOutput_of_stream {q : Fin 4} (hp : puntyActive (s.core c) = false)
    (hr : (s.core c).m.run.find? (fun r => enters r && decide (0 < r.left q.val)) = some r) (hst : isStream r.cmd = true)
    (hh : heldByDrain (s.core c).m.run r q.val = false)
    (hc : ∃ x ∈ s.pwr.credits, x.who = ⟨c.val, q.val⟩ ∧ x.ballast = false) :
    exec (.treeOutput c q up) s = .next ((streamStep s c r.cmd q.val (r.pos.getD q.val 0) up).modCore c fun k =>
      settleClears (bumpRun k r.cmd.id q.val)) := by
  have hexec : exec (.treeOutput c q up) s = execTreeOutput c q up s := rfl
  rw [hexec, execTreeOutput]
  dsimp only
  rw [hr]
  dsimp only
  rw [if_neg (by simp [hp, hh]), rowCredit_of_held hc]
  dsimp only
  rw [if_neg (by simp), if_pos hst]

/-- What an activation row gives at the exit of the adder tree (R106). -/
def streamRow (k : Core) (e : EngCmd) (q j : Nat) : RowOut := rowThrough (sget ArrW.none k.m.arr q) (k.rowVals e.src (wFtz e.lo) j)

/-- R106, R121: the core once the outputs `o` of row `j` of a STREAM stand in their accumulator row. -/
def Core.contributed (k : Core) (e : EngCmd) (q j : Nat) (o : RowOut) : Core :=
  k.setAccRow q (e.dst.accRow + j) (contribute (k.accRow q (e.dst.accRow + j)) o (!bitAt e.imm 0) false).1

/-- R103, R106: the row of a STREAM that nothing disturbs is counted and put into its accumulator row. -/
theorem streamStep_of_undisturbed {e : EngCmd} {q j : Nat} (hs : s.has64) (hi : (s.core c).m.inj = none)
    (ho : exitAgrees (streamRow (s.core c) e q j) = true) :
    ∃ u f, Checked c s u ∧ streamStep s c e q j RowUpset.none
      = u.setCore c (((u.core c).contributed e q j (streamRow (s.core c) e q j)).numFlags f) := by
  have hstep : streamStep s c e q j RowUpset.none
      = putRow ((s.setCore c (s.core c)).countRows c q (sget ArrW.none (s.core c).m.arr q).blocks 1) c e q (e.dst.accRow + j)
        (streamRow (s.core c) e q j) (!bitAt e.imm 0) false false RowUpset.none := by
    rw [streamStep]
    dsimp only
    rw [← streamRow, exitCheck_of_agrees hi rfl ho]
  exact ⟨_, _, Checked.countRows (.setCore hs (.of_m_q_v rfl rfl rfl)) .., hstep.trans (putRow_of_sound rfl)⟩

/-- Settles O14: the row of `streamStep_of_undisturbed` is the one of `Checked.rowStep`. -/
theorem streamRowsReachTheirAccumulator : Obligations.StreamRowsReachTheirAccumulator := by
  unfold Obligations.StreamRowsReachTheirAccumulator
  refine ⟨fun c q u s => treeOutput_of_punty q, fun c q s r hs hp hr hst hh hi hc hclr ho => ?_⟩
  obtain ⟨u, f, hu, hstep⟩ := streamStep_of_undisturbed hs hi ho
  have hexec := treeOutput_of_stream (up := RowUpset.none) hp hr hst hh hc
  rw [hstep, State.modCore_setCore hu.has64] at hexec
  obtain ⟨hrun, hrow, hrest, hqueue, harr, hflags, -, hothers, hframe⟩ := hu.rowStep (id := r.cmd.id) (f := f)
    (k := (u.core c).contributed r.cmd q.val (r.pos.getD q.val 0) (streamRow (s.core c) r.cmd q.val (r.pos.getD q.val 0)))
    rfl rfl (fun n => sget_setAccRow ..) hclr
  rw [hu.core.accRow] at hrow
  refine ⟨_, hexec, hrun, hrow, hrest, hqueue, harr, ?_, hflags, hothers, hframe⟩
  rw [State.core_setCore hu.has64, if_pos rfl, settleClears_bumpRun (hu.core.run ▸ hclr)]
  exact hu.core.v

/-! ### DRAIN_ROW_READ -/

/-- R131: reading a row for a DRAIN, no injection being armed and no word of it in error, changes counters and records alone. -/
theorem drainRead_checked {e : EngCmd} {q row n : Nat} (hs : s.has64) (hi : (s.core c).m.inj = none) (hu : up.ecc = []) :
    Checked c s (drainRead s c e q row n up).2.2 := by
  have h : Checked c s (s.setCore c (s.core c)) := .setCore hs (.of_m_q_v rfl rfl rfl)
  rw [drainRead, takeInject_of_none hi]
  dsimp only
  rw [if_pos List.isEmpty_nil, takeInject_of_none hi, hu]
  dsimp only
  split
  · dsimp only
    refine h.modCore ?_
    exact fun _ => ⟨rfl, rfl, rfl, rfl, rfl, rfl, rfl⟩
  · split
    · exact h
    · split
      · refine ((h.modCore ?_).rowNote ..).countCore ..
        exact fun _ => ⟨rfl, rfl, rfl, rfl, rfl, rfl, rfl⟩
      · exact (h.rowNote ..).setHealth _

/-- A tile of the operand cache written: the matrix unit and the sequencer are left alone. -/
theorem Core.storeRow_m {tl : Tile} (h : tl.acc = false) (k : Core) (cv : ConvCtl) (rnd : Nat → Nat) (j : Nat) (xs : List Num) :
    (k.storeRow tl cv rnd j xs).1.m = k.m := by
  have hblock : ∀ (k : Core) b, (k.storeBlock tl cv rnd j b xs).1.m = k.m := fun k b => by
    unfold Core.storeBlock
    dsimp only
    split <;> rfl
  unfold Core.storeRow
  split
  · generalize List.range ((tl.cols + 31) / 32) = bs
    suffices ∀ p : Core × Fl, p.1.m = k.m → (bs.foldl (fun p b =>
        let (k', f) := p.1.storeBlock tl cv rnd j b xs
        (k', p.2 ||| f)) p).1.m = k.m from this _ rfl
    induction bs with
    | nil => exact fun p hp => hp
    | cons b bs ih => exact fun p hp => ih _ ((hblock p.1 b).trans hp)
  · simp [Core.writeCodes, h, Core.ocWrite]

/-- R123: a DRAIN waits while an earlier-started contribution to its next row is outstanding. -/
def drainEarly (k : Core) (r : MxuRun) (q : Nat) : Bool :=
  (k.m.run.takeWhile fun x => x.cmd.id ≠ r.cmd.id).any
    fun x => !isDrain x.cmd && touchesRow x q (r.cmd.src.accRow + r.pos.getD q 0)

theorem drainRowRead_of_early {q : Fin 4} (hr : (s.core c).m.run.find? (fun r => isDrain r.cmd && decide (0 < r.left q.val)) = some r)
    (he : drainEarly (s.core c) r q.val = true) : exec (.drainRowRead c q up) s = .next s := by
  have hexec : exec (.drainRowRead c q up) s = execDrainRowRead c q up s := rfl
  rw [hexec, execDrainRowRead]
  dsimp only
  rw [hr]
  dsimp only
  exact if_pos he

/-- The core `k` with the row of a DRAIN cleared under CLR. -/
def Core.drained (k : Core) (e : EngCmd) (q j : Nat) : Core :=
  if bitAt e.imm 19 then k.setAccRow q (e.src.accRow + j) AccRow.cleared else k

/-- R123, R125, R126: a row is read, written to the operand cache with its statistics, and cleared under CLR. -/
theorem drainRowRead_of_free {q : Fin 4} (hr : (s.core c).m.run.find? (fun r => isDrain r.cmd && decide (0 < r.left q.val)) = some r)
    (he : drainEarly (s.core c) r q.val = false) (ht : r.cmd.dst.acc = false) :
    ∃ (u : State) (k : Core) (f : Fl), u = (drainRead s c r.cmd q.val (r.cmd.src.accRow + r.pos.getD q.val 0) r.cmd.src.cols up).2.2 ∧
      k.m = (u.core c).m ∧ k.q = (u.core c).q ∧ exec (.drainRowRead c q up) s = .next (u.setCore c
        (settleClears (bumpRun ((k.drained r.cmd q.val (r.pos.getD q.val 0)).numFlags f) r.cmd.id q.val))) := by
  have hexec : exec (.drainRowRead c q up) s = execDrainRowRead c q up s := rfl
  rw [hexec, execDrainRowRead]
  dsimp only
  rw [hr]
  dsimp only
  unfold drainEarly at he
  rw [if_neg (ne_true_of_eq_false he)]
  refine ⟨_, _, _, rfl, ?_, ?_, rfl⟩
  · split
    · exact Core.storeRow_m ht ..
    · exact Core.storeRow_m ht ..
  · split
    · exact (TilesOnly.storeRow ..).q
    · exact (TilesOnly.storeRow ..).q

theorem drained_m (k : Core) (e : EngCmd) (q j : Nat) : (k.drained e q j).m = { k.m with acc := (k.drained e q j).m.acc } := by
  unfold Core.drained
  split <;> rfl

theorem drained_q (k : Core) (e : EngCmd) (q j : Nat) : (k.drained e q j).q = k.q := by
  unfold Core.drained
  split <;> rfl

theorem sget_drained (k : Core) (e : EngCmd) (q j n : Nat) : sget k.m.accDefault (k.drained e q j).m.acc n
    = if n = q * 1024 + (e.src.accRow + j) then (if bitAt e.imm 19 then AccRow.cleared else k.accRow q (e.src.accRow + j))
      else sget k.m.accDefault k.m.acc n := by
  unfold Core.drained
  split
  · exact sget_setAccRow ..
  · split
    case isTrue h => rw [h, Core.accRow]
    · rfl

/-- Settles O15: the row that `drainRowRead_of_free` reads is the one of `Checked.rowStep`. -/
theorem drainReadsRowByRow : Obligations.DrainReadsRowByRow := by
  unfold Obligations.DrainReadsRowByRow
  intro c q up s r hs hr hi ht
  refine ⟨drainRowRead_of_early hr, fun he hecc hclr => ?_⟩
  obtain ⟨u, k, f, hread, hm, hq, hexec⟩ := drainRowRead_of_free (up := up) hr he ht
  have hu : Checked c s u := hread ▸ drainRead_checked hs hi hecc
  obtain ⟨hrun, hrow, hrest, hqueue, harr, hflags, htq, hothers, hframe⟩ := hu.rowStep (id := r.cmd.id) (f := f)
    (k := k.drained r.cmd q.val (r.pos.getD q.val 0)) ((drained_q ..).trans hq) (by rw [drained_m, hm])
    (fun n => by rw [← hm]; exact sget_drained ..) hclr
  rw [Core.accRow_of_m hm, hu.core.accRow] at hrow
  exact ⟨_, hexec, hrun, hrow, hrest, hqueue, harr, hflags, htq, hothers, hframe⟩

end Sys2Proof.Machine
end

section
/-! SUPPORT. The error registers and the registers of injection (R135, R242, R481 to R484, R489). -/

namespace Sys2Proof.Machine
variable {s t : State} {c : CoreId} {w : Word32} {rw : RegWrite}

/-! ### Records acknowledged, the latch cleared -/

theorem fatalStatusWrite_more : (s.fatalStatusWrite w).err.more
    = if (s.fatalStatusWrite w).err.fatal0 = none ∧ (s.fatalStatusWrite w).err.fatal1 = none then 0 else s.err.more := by
  simp only [State.fatalStatusWrite, Bool.and_eq_true, Option.isNone_iff_eq_none]

theorem sameOutside_err {e : Err} : SameOutside [.err] s { s with err := e } := fun p hp => by
  cases p <;> simp_all [StatePart.same]

/-! ### ERR_INJECT -/

theorem bitAt_toNat {n : Nat} (v : BitVec n) (i : Nat) : bitAt v.toNat i = v.getLsbD i := bitAt_eq_testBit ..

/-- R489: the occurrence that a write of ERR_INJECT submits. -/
def injectedOcc (s : State) (v : Nat) : Occ :=
  ⟨v % 65536, ErrClass.ofCode (fld v 16 2), fld v 18 7, s.pwr.aoTime, s.stepNow, s.jobIdNow, 0, true, false, none⟩

/-- R489: does a write that leaves `v` in ERR_INJECT submit an occurrence? -/
def injectArms (rw : RegWrite) (v : Word64) : Prop := writesLow rw = true ∧ v.getLsbD 25 = true ∧ v.toNat % 256 ≠ 0

theorem State.offer_queue (o : Occ) (h : s.err.queue.length < 256) : (s.offer o).err.queue = s.err.queue ++ [o] := by
  simp [State.offer, h, Err.enqueue, Err.countClass_queue]

theorem Err.countClass_injHeld (e : Err) (cls : ErrClass) : (e.countClass cls).injHeld = e.injHeld := by
  cases cls <;> rfl

theorem State.offer_injHeld (o : Occ) : (s.offer o).err.injHeld = s.err.injHeld := by
  unfold State.offer
  split
  · simp [Err.enqueue, Err.countClass_injHeld]
  · split <;> rfl

theorem State.offer_sameOutside (o : Occ) : SameOutside [.hub, .err, .pmu, .sent] s (s.offer o) := fun p hp => by
  cases p <;> simp_all [StatePart.same]

theorem State.errInject_of_arms (h : injectArms rw (mergeWrite s.err.injHeld rw)) :
    s.errInject rw = State.offer { s with err.injHeld := mergeWrite s.err.injHeld rw }
      (injectedOcc s (mergeWrite s.err.injHeld rw).toNat) := by
  obtain ⟨hlow, harm, hcode⟩ := h
  exact if_pos (by simp [hlow, bitAt_toNat, harm, hcode])

theorem State.errInject_of_not (h : ¬injectArms rw (mergeWrite s.err.injHeld rw)) :
    s.errInject rw = { s with err.injHeld := mergeWrite s.err.injHeld rw } :=
  if_neg (by simpa [injectArms, bitAt_toNat, and_assoc] using h)

/-- R489: a write of ERR_INJECT holds what is written, and submits one occurrence if it arms. -/
theorem errInject_of_open (hb : s.barOpen = true) : ∃ t, exec (.errInject rw) s = .next t ∧
    t.err.injHeld = mergeWrite s.err.injHeld rw ∧
    (¬injectArms rw (mergeWrite s.err.injHeld rw) → t = { s with err.injHeld := mergeWrite s.err.injHeld rw }) ∧
    (injectArms rw (mergeWrite s.err.injHeld rw) → s.err.queue.length < 256 →
      t.err.queue = s.err.queue ++ [injectedOcc s (mergeWrite s.err.injHeld rw).toNat]) ∧
    SameOutside [.hub, .err, .pmu, .sent] s t := by
  have hexec : exec (.errInject rw) s = .next (s.errInject rw) := State.onBar_of_open hb fun t => t.errInject rw
  have hheld : SameOutside [.hub, .err, .pmu, .sent] s { s with err.injHeld := mergeWrite s.err.injHeld rw } :=
    sameOutside_err.mono (by simp)
  by_cases h : injectArms rw (mergeWrite s.err.injHeld rw)
  · rw [State.errInject_of_arms h] at hexec
    exact ⟨_, hexec, State.offer_injHeld _, fun hn => absurd h hn, fun _ hq => State.offer_queue _ hq,
      hheld.trans (State.offer_sameOutside _)⟩
  · rw [State.errInject_of_not h] at hexec
    exact ⟨_, hexec, rfl, fun _ => rfl, fun ha => absurd ha h, hheld⟩

/-! ### MXU_INJECT -/

/-- R135: the matrix unit after a write of MXU_INJECT: TARGET 3 is ignored, ARM arms the upset. -/
def MxuC.injected (m : MxuC) (w : Word32) : MxuC :=
  if fld w.toNat 9 2 = 3 then m else { m with
    injHeld := w &&& 0xFFF
    inj := if w.getLsbD 11 then some ⟨w.toNat % 4, fld w.toNat 2 7, fld w.toNat 9 2⟩ else m.inj }

theorem State.core_mxuInject (h : s.has64) (x : CoreId) :
    (s.mxuInject c w).core x = if x = c then { s.core c with m := (s.core c).m.injected w } else s.core x := by
  unfold State.mxuInject MxuC.injected
  dsimp only
  by_cases h3 : fld w.toNat 9 2 = 3
  · rw [if_pos h3, if_pos h3]
    by_cases hx : x = c
    · rw [if_pos hx, hx]
    · rw [if_neg hx]
  · rw [if_neg h3, if_neg h3, State.core_modCore h, bitAt_toNat]

theorem mxuInject_of_window (hs : s.has64) (hb : s.barOpen = true) (hw : s.coreWindow c.val = true) :
    ∃ t, exec (.mxuInject c w) s = .next t ∧ OtherCores c s t ∧ (t.core c).q = (s.core c).q ∧ (t.core c).v = (s.core c).v ∧
      (t.core c).t = (s.core c).t ∧ (t.core c).m = (s.core c).m.injected w ∧ SameOutside [.cores, .pwr] s t := by
  have hexec : exec (.mxuInject c w) s = .next ((s.wakeCore c).mxuInject c w) :=
    (State.onBar_of_open hb _).trans (congrArg _ (if_pos hw))
  have hcore := State.core_mxuInject (s := s.wakeCore c) (c := c) (w := w) hs
  have hself := (hcore c).trans (if_pos rfl)
  refine ⟨_, hexec, fun x hx => (hcore x).trans (if_neg hx), by rw [hself]; rfl, by rw [hself]; rfl, by rw [hself]; rfl,
    by rw [hself]; rfl, fun p hp => ?_⟩
  cases p <;> simp_all [StatePart.same]

theorem mxuInject_of_noWindow (hb : s.barOpen = true) (hw : s.coreWindow c.val = false) :
    exec (.mxuInject c w) s = .next s :=
  (State.onBar_of_open hb _).trans (congrArg _ (if_neg (by simp [hw])))

/-! ### MEM_INJECT -/

theorem pickFree_length (f n : Nat) (xs : List Nat) : (pickFree f n xs).length = n := by
  induction n generalizing xs with
  | zero => rfl
  | succ n ih => simp [pickFree, ih]

/-- The numbers picked are numbers of the list, each as often as it stands there at most. -/
theorem pickFree_subperm (f : Nat) {n : Nat} {xs : List Nat} (h : n ≤ xs.length) : (pickFree f n xs).Subperm xs := by
  induction n generalizing xs with
  | zero => exact List.nil_subperm
  | succ n ih =>
    have hi : Config.freeValue (f + n) % xs.length < xs.length := Nat.mod_lt _ (by omega)
    have hrest := ih (xs := xs.eraseIdx (Config.freeValue (f + n) % xs.length)) (by rw [List.length_eraseIdx_of_lt hi]; omega)
    rw [pickFree, List.getD_eq_getElem _ _ hi]
    exact ((List.subperm_cons _).2 hrest).trans (List.getElem_cons_eraseIdx_perm hi).subperm

theorem pickFree_nodup (f : Nat) {n : Nat} {xs : List Nat} (h : n ≤ xs.length) (hx : xs.Nodup) : (pickFree f n xs).Nodup := by
  obtain ⟨l, hperm, hsub⟩ := pickFree_subperm f h
  exact hperm.nodup_iff.1 (hx.sublist hsub)

theorem State.setDie_die (d : Fin 2) (x : DieMem) :
    (s.setDie d.val x).mem.die d.val = x ∧ (s.setDie d.val x).mem.die (1 - d.val) = s.mem.die (1 - d.val) :=
  match d with
  | 0 | 1 => ⟨rfl, rfl⟩

theorem State.setDie_lineErr (d : Nat) (x : DieMem) (a : Nat) : (s.setDie d x).lineErr a = s.lineErr a := by
  rw [State.lineErr, State.setDie_bad, State.lineErr]

theorem State.setDie_sameOutside (d : Nat) (x : DieMem) : SameOutside [.mem, .fresh] s (s.setDie d x) := fun p hp => by
  cases p <;> simp_all [StatePart.same]

theorem State.setLineErr_fresh_sameOutside (a : Nat) (e : LineErr) (n : Nat) :
    SameOutside [.mem, .fresh] s { s.setLineErr a e with fresh := n } := fun p hp => by
  cases p <;> simp_all [StatePart.same]

/-- The state whose MEM_INJECT of a die holds `v`. -/
def memHeld (s : State) (d : Nat) (v : Word64) : State := s.setDie d { s.mem.die d with injHeld := v }

/-- R242: the number of symbols an injection inverts. -/
def injectCount (v : Word64) : Nat := if v.getLsbD 52 then 6 else 1

/-- R242: the symbols an injection inverts. -/
def injectSyms (s : State) (v : Word64) : List Nat := pickFree s.fresh (injectCount v) (List.range 64)

/-- R242: does a write that leaves `v` in MEM_INJECT damage a stored line of the die? -/
def memHits (s : State) (d : Nat) (rw : RegWrite) (v : Word64) : Prop :=
  writesHigh rw = true ∧ v.getLsbD 53 = true ∧ s.place (64 * fld v.toNat 6 46) = .hbm d

theorem injectSyms_spec (v : Word64) : (injectSyms s v).length = injectCount v ∧ (injectSyms s v).Nodup ∧
    ∀ x ∈ injectSyms s v, x < 64 := by
  have hn : injectCount v ≤ (List.range 64).length := by
    unfold injectCount
    split <;> simp
  exact ⟨pickFree_length .., pickFree_nodup _ hn List.nodup_range, fun x hx => List.mem_range.1 ((pickFree_subperm _ hn).subset hx)⟩

theorem State.memInject_of_down {d : Nat} (h : s.dieDown d = true) : s.memInject d rw = s := if_pos h

theorem State.memInject_of_hit {d : Nat} (h : s.dieDown d = false) (hh : memHits s d rw (mergeWrite (s.mem.die d).injHeld rw)) :
    s.memInject d rw = (let v := mergeWrite (s.mem.die d).injHeld rw
      { (memHeld s d v).setLineErr (64 * fld v.toNat 6 46) ((s.lineErr (64 * fld v.toNat 6 46)).inject (injectSyms s v)) with
        fresh := s.fresh + injectCount v }) := by
  obtain ⟨hw, harm, hp⟩ := hh
  rw [State.memInject, if_neg (by simp [h])]
  dsimp only
  rw [Nat.mul_comm _ 64, if_pos (by simp [hw, harm, hp])]
  rfl

theorem State.memInject_of_not {d : Nat} (h : s.dieDown d = false) (hh : ¬memHits s d rw (mergeWrite (s.mem.die d).injHeld rw)) :
    s.memInject d rw = memHeld s d (mergeWrite (s.mem.die d).injHeld rw) := by
  rw [State.memInject, if_neg (by simp [h])]
  dsimp only
  rw [Nat.mul_comm _ 64, if_neg (by simpa [memHits, and_assoc] using hh)]
  rfl

theorem memHeld_spec (s : State) (d : Fin 2) (v : Word64) :
    (memHeld s d.val v).mem.die d.val = { s.mem.die d.val with injHeld := v } ∧
    (memHeld s d.val v).mem.die (1 - d.val) = s.mem.die (1 - d.val) ∧ (memHeld s d.val v).mem.bytes = s.mem.bytes ∧
    (memHeld s d.val v).mem.poison = s.mem.poison ∧ (∀ a, (memHeld s d.val v).lineErr a = s.lineErr a) ∧
    SameOutside [.mem, .fresh] s (memHeld s d.val v) := by
  obtain ⟨hdie, hother⟩ := s.setDie_die d { s.mem.die d.val with injHeld := v }
  exact ⟨hdie, hother, State.setDie_bytes .., State.setDie_poison .., State.setDie_lineErr _ _, State.setDie_sameOutside _ _⟩

/-- R242: a write of MEM_INJECT holds what is written; armed, it inverts one symbol or six of a stored line of its die. -/
theorem memInject_of_open (d : Fin 2) (hb : s.barOpen = true) :
    (let v := mergeWrite (s.mem.die d.val).injHeld rw
     ∃ t, exec (.memInject d rw) s = .next t ∧ t.mem.bytes = s.mem.bytes ∧ t.mem.poison = s.mem.poison ∧
      (s.dieDown d.val = true → t = s) ∧
      (s.dieDown d.val = false → t.mem.die d.val = { s.mem.die d.val with injHeld := v } ∧
        t.mem.die (1 - d.val) = s.mem.die (1 - d.val) ∧
        (∀ x, x / 64 ≠ fld v.toNat 6 46 → t.lineErr x = s.lineErr x) ∧
        (¬memHits s d.val rw v → t.lineErr (64 * fld v.toNat 6 46) = s.lineErr (64 * fld v.toNat 6 46)) ∧
        (memHits s d.val rw v → t.lineErr (64 * fld v.toNat 6 46)
          = (s.lineErr (64 * fld v.toNat 6 46)).inject (injectSyms s v))) ∧
      SameOutside [.mem, .fresh] s t) := by
  dsimp only
  have hexec : exec (.memInject d rw) s = .next (s.memInject d.val rw) := State.onBar_of_open hb fun t => t.memInject d.val rw
  obtain ⟨hdie, hother, hbytes, hpoison, herr, hframe⟩ := memHeld_spec s d (mergeWrite (s.mem.die d.val).injHeld rw)
  by_cases hdown : s.dieDown d.val = true
  · rw [State.memInject_of_down hdown] at hexec
    exact ⟨s, hexec, rfl, rfl, fun _ => rfl, fun h => by simp [hdown] at h, .refl _ s⟩
  have hup := Bool.eq_false_iff.2 hdown
  by_cases hh : memHits s d.val rw (mergeWrite (s.mem.die d.val).injHeld rw)
  · rw [State.memInject_of_hit hup hh] at hexec
    refine ⟨_, hexec, hbytes, hpoison, fun h => absurd h hdown,
      fun _ => ⟨hdie, hother, fun x hx => ?_, fun hn => absurd hh hn, fun _ => ?_⟩,
      hframe.trans (State.setLineErr_fresh_sameOutside _ _ _)⟩
    · exact (State.lineErr_setLineErr ..).trans ((if_neg (by omega)).trans (herr x))
    · exact (State.lineErr_setLineErr ..).trans (if_pos rfl)
  · rw [State.memInject_of_not hup hh] at hexec
    exact ⟨_, hexec, hbytes, hpoison, fun h => absurd h hdown,
      fun _ => ⟨hdie, hother, fun x _ => herr x, fun _ => herr _, fun h => absurd h hh⟩, hframe⟩

/-- Settles O46: one lemma per register, and `State.onBar_of_closed` while BAR0 is closed. -/
theorem errorRegistersAct : Obligations.ErrorRegistersAct := by
  unfold Obligations.ErrorRegistersAct
  intro w rw s
  refine ⟨fun h => ?_, fun h => ?_, ⟨_, rfl, rfl, fatalStatusWrite_more, sameOutside_err⟩, fun h => ?_, fun h => ?_,
    fun hb c d i hi => ?_, fun hb => ⟨errInject_of_open hb,
      fun c => ⟨mxuInject_of_noWindow hb, fun hw hs => mxuInject_of_window hs hb hw⟩, fun d => ?_⟩⟩
  · exact congrArg _ (if_neg (by simp [h]))
  · exact congrArg _ (if_pos h)
  · exact if_neg (by simp [h])
  · exact if_pos h
  · simp only [List.mem_cons, List.not_mem_nil, or_false] at hi
    obtain rfl | rfl | rfl := hi
    · exact State.onBar_of_closed hb fun t => t.errInject rw
    · exact State.onBar_of_closed hb fun t => if t.coreWindow c.val then (t.wakeCore c).mxuInject c w else t
    · exact State.onBar_of_closed hb fun t => t.memInject d.val rw
  · obtain ⟨t, hexec, hbytes, hpoison, hdown, hup, hframe⟩ := memInject_of_open (rw := rw) d hb
    refine ⟨t, hexec, hbytes, hpoison, hdown, fun h => ?_, hframe⟩
    obtain ⟨hdie, hother, helse, hnot, hhit⟩ := hup h
    obtain ⟨hlen, hnodup, hlt⟩ := injectSyms_spec (s := s) (mergeWrite (s.mem.die d.val).injHeld rw)
    exact ⟨hdie, hother, helse, hnot, fun hh => ⟨_, hlen, hnodup, hlt, hhit hh⟩⟩

end Sys2Proof.Machine
end

section
/-! SUPPORT. The VCE starts the head of its queue (R132, R150, R154 to R156, R159 to R169, R174). -/

namespace Sys2Proof.Machine
variable {s t u : State} {c : CoreId} {k k' : Core} {e : EngCmd} {rest : List EngCmd} {ecc : List EccHit}

/-! ### What a VCE command leaves alone in its core -/

theorem Core.writeCodes_arr (k : Core) (tl : Tile) (r c0 : Nat) (cs : List Nat) : (k.writeCodes tl r c0 cs).m.arr = k.m.arr := by
  unfold Core.writeCodes
  split <;> rfl

theorem Core.storeBlock_arr (k : Core) (tl : Tile) (cv : ConvCtl) (rnd : Nat → Nat) (r b : Nat) (xs : List Num) :
    (k.storeBlock tl cv rnd r b xs).1.m.arr = k.m.arr := by
  unfold Core.storeBlock
  dsimp only
  split <;> rfl

theorem Core.storeRow_arr (k : Core) (tl : Tile) (cv : ConvCtl) (rnd : Nat → Nat) (r : Nat) (xs : List Num) :
    (k.storeRow tl cv rnd r xs).1.m.arr = k.m.arr := by
  unfold Core.storeRow
  split
  · exact List.foldlRecOn (motive := fun p : Core × Fl => p.1.m.arr = k.m.arr) _ _ rfl
      fun p hp b _ => (p.1.storeBlock_arr ..).trans hp
  · exact k.writeCodes_arr ..

/-- A core whose flags, tile queues, weights and VCE commands are as they were: a VCE command writes tiles, statistics, lookup
banks, carries, configuration words and numeric status, and none of these. -/
structure VceKept (k k' : Core) : Prop where
  flags : k'.q.flags = k.q.flags
  tq : k'.q.tq = k.q.tq
  arr : k'.m.arr = k.m.arr
  queue : k'.v.queue = k.v.queue
  run : k'.v.run = k.v.run

namespace VceKept

theorem refl (k : Core) : VceKept k k := ⟨rfl, rfl, rfl, rfl, rfl⟩

theorem trans {k'' : Core} (h : VceKept k k') (h' : VceKept k' k'') : VceKept k k'' :=
  ⟨h'.flags.trans h.flags, h'.tq.trans h.tq, h'.arr.trans h.arr, h'.queue.trans h.queue, h'.run.trans h.run⟩

theorem of_tilesOnly (h : TilesOnly k k') (ha : k'.m.arr = k.m.arr) : VceKept k k' :=
  ⟨congrArg SeqC.flags h.q, congrArg SeqC.tq h.q, ha, h.vQueue, h.vRun⟩

theorem of_rowsKept (h : RowsKept k k') : VceKept k k' :=
  ⟨by rw [h.q], by rw [h.q], h.arr, by rw [h.v], by rw [h.v]⟩

theorem storeRow (h : VceKept k k') (tl : Tile) (cv : ConvCtl) (rnd : Nat → Nat) (r : Nat) (xs : List Num) :
    VceKept k (k'.storeRow tl cv rnd r xs).1 :=
  h.trans (.of_tilesOnly (.storeRow ..) (k'.storeRow_arr ..))

theorem writeCodes (h : VceKept k k') (tl : Tile) (r c0 : Nat) (cs : List Nat) : VceKept k (k'.writeCodes tl r c0 cs) :=
  h.trans (.of_tilesOnly (.writeCodes ..) (k'.writeCodes_arr ..))

theorem numFlags (h : VceKept k k') (f : Fl) : VceKept k (k'.numFlags f) := h.trans ⟨rfl, rfl, rfl, rfl, rfl⟩

theorem permCounted (h : VceKept k k') (n : Nat) (sticky : Word32) :
    VceKept k { k' with v.permOor := n, v.sticky := sticky } := h.trans ⟨rfl, rfl, rfl, rfl, rfl⟩

/-- Folding steps over a core and a tally keeps what each step keeps. -/
theorem foldl_fst {α β : Type} (l : List α) (f : Core × β → α → Core × β) (b : β)
    (hf : ∀ p a, VceKept k p.1 → VceKept k (f p a).1) : VceKept k (l.foldl f (k, b)).1 :=
  List.foldlRecOn (motive := fun p : Core × β => VceKept k p.1) l f (refl k) fun p hp a _ => hf p a hp

end VceKept

/-! ### The commands -/

theorem writeRunRow_kept (h : VceKept k k') (e : EngCmd) (ccw r : Nat) (ls : List Lane) :
    VceKept k (writeRunRow k' e ccw r ls).1 := by
  unfold writeRunRow
  dsimp only
  split
  · exact h.writeCodes ..
  · exact h.storeRow ..

theorem writeRunStats_kept (h : VceKept k k') (e : EngCmd) (ccw r : Nat) (ls : List Lane) :
    VceKept k (writeRunStats k' e ccw r ls).1 := by
  unfold writeRunStats
  dsimp only
  split
  · exact h
  · exact h.trans ⟨rfl, rfl, rfl, rfl, rfl⟩

theorem countLanes_kept (h : VceKept k k') (ls : List Lane) : VceKept k (countLanes k' ls) := h.trans ⟨rfl, rfl, rfl, rfl, rfl⟩

theorem runChain_kept (k : Core) (e : EngCmd) (ccw : Nat) : VceKept k (runChain k e ccw) := by
  unfold runChain
  refine .numFlags (countLanes_kept (.foldl_fst _ _ _ fun p x hp => ?_) _) _
  exact writeRunStats_kept (writeRunRow_kept hp ..) ..

theorem loadTable_kept (k : Core) (e : EngCmd) : VceKept k (loadTable k e) := by
  unfold loadTable
  dsimp only
  split <;> exact ⟨rfl, rfl, rfl, rfl, rfl⟩

theorem permute_kept (k : Core) (e : EngCmd) : VceKept k (permute k e).1 := by
  unfold permute
  refine .numFlags (.permCounted (List.foldlRecOn (motive := VceKept k) _ _ (.refl k) fun x hx p _ => ?_) _ _) _
  exact hx.writeCodes ..

theorem reduce_kept (k : Core) (e : EngCmd) : VceKept k (reduce k e) := by
  unfold reduce
  refine .numFlags (.foldl_fst _ _ _ fun p x hp => ?_) _
  exact hp.storeRow ..

theorem scan_kept (k : Core) (e : EngCmd) : VceKept k (scan k e) := by
  unfold scan
  refine .numFlags (.foldl_fst _ _ _ fun p r hp => ?_) _
  dsimp only
  split
  · exact .trans (hp.storeRow ..) ⟨rfl, rfl, rfl, rfl, rfl⟩
  · exact hp.storeRow ..

/-! ### What becomes of a started command -/

/-- A state with all its cores, core `c` of which is as `VceKept` allows. -/
structure KeptIn (c : CoreId) (s t : State) : Prop where
  has64 : t.has64
  core : VceKept (s.core c) (t.core c)

namespace KeptIn

theorem refl (hs : s.has64) : KeptIn c s s := ⟨hs, .refl _⟩

theorem setCore (h : KeptIn c s t) (hk : VceKept (t.core c) k) : KeptIn c s (t.setCore c k) where
  has64 := State.setCore_has64 h.has64 c k
  core := by
    rw [State.core_setCore h.has64, if_pos rfl]
    exact h.core.trans hk

theorem modCore (h : KeptIn c s t) {f : Core → Core} (hf : ∀ k, VceKept k (f k)) : KeptIn c s (t.modCore c f) := h.setCore (hf _)

theorem of_cores (h : KeptIn c s t) (hc : u.cores = t.cores) : KeptIn c s u where
  has64 := State.has64_of_cores h.has64 hc
  core := by
    rw [State.core_of_cores hc]
    exact h.core

theorem raise (h : KeptIn c s t) (code : Nat) (cls : ErrClass) (i p : Nat) : KeptIn c s (t.raise code cls i p) :=
  h.of_cores (State.raise_sameOutside .cores (by simp))

theorem setHealth (h : KeptIn c s t) (b : Nat) : KeptIn c s (t.setHealth b) := h.of_cores rfl

/-- R159: an ECC error in a word of the operand cache marks the word and is counted. -/
theorem ocEccHit (h : KeptIn c s t) (e : EngCmd) (x : EccHit) : KeptIn c s (t.ocEccHit c e x) := by
  unfold State.ocEccHit State.cmdNote
  split
  · refine ((h.modCore ?_).raise ..).setHealth _
    exact fun _ => ⟨rfl, rfl, rfl, rfl, rfl⟩
  · refine (h.modCore ?_).raise ..
    exact fun _ => ⟨rfl, rfl, rfl, rfl, rfl⟩

/-- R132: an ECC error in an accumulator word makes the word NaN and is counted. -/
theorem accEccHit (h : KeptIn c s t) (e : EngCmd) (x : EccHit) : KeptIn c s (t.accEccHit c e x) := by
  unfold State.accEccHit State.rowNote
  dsimp only
  split
  · refine ((h.modCore ?_).raise ..).setHealth _
    exact fun _ => ⟨rfl, rfl, rfl, rfl, rfl⟩
  · refine (h.modCore ?_).raise ..
    exact fun _ => ⟨rfl, rfl, rfl, rfl, rfl⟩

theorem ocEcc (h : KeptIn c s t) (e : EngCmd) (hits : List EccHit) : KeptIn c s (t.ocEcc c e hits) := by
  unfold State.ocEcc
  refine List.foldlRecOn (motive := KeptIn c s) _ _ h fun u hu x _ => ?_
  split
  · exact hu.accEccHit e x
  · exact hu.ocEccHit e x

end KeptIn

/-- A core that stops with a fault of its command: the command leaves its engine (R174). -/
theorem State.engFault_core (hs : s.has64) (e : EngCmd) (code pos : Nat) :
    ((s.engFault c e code pos).core c).q.seq = .haltFault ∧
    ((s.engFault c e code pos).core c).v.queue = (s.core c).v.queue.filter (·.id ≠ e.id) ∧
    ((s.engFault c e code pos).core c).q.flags = (s.core c).q.flags ∧
    ((s.engFault c e code pos).core c).q.tq = (s.core c).q.tq ∧
    ((s.engFault c e code pos).core c).m.arr = (s.core c).m.arr := by
  unfold State.engFault
  dsimp only
  rw [State.cmdFault_core (State.modCore_has64 hs c _), State.core_modCore hs, if_pos rfl]
  exact ⟨rfl, rfl, rfl, rfl, rfl⟩

/-- A started command has changed its core as `VceKept` allows, and has then perhaps stopped it with a fault. -/
def VceRan (c : CoreId) (e : EngCmd) (s t : State) : Prop :=
  ∃ u, KeptIn c s u ∧ (t = u ∨ ∃ code pos, t = u.engFault c e code pos)

namespace VceRan

theorem setCore (hs : s.has64) (h : VceKept (s.core c) k) : VceRan c e s (s.setCore c k) :=
  ⟨_, (KeptIn.refl hs).setCore h, .inl rfl⟩

theorem engFault (hs : s.has64) (code pos : Nat) : VceRan c e s (s.engFault c e code pos) :=
  ⟨s, .refl hs, .inr ⟨code, pos, rfl⟩⟩

theorem engFault_setCore (hs : s.has64) (h : VceKept (s.core c) k) (code pos : Nat) :
    VceRan c e s ((s.setCore c k).engFault c e code pos) :=
  ⟨_, (KeptIn.refl hs).setCore h, .inr ⟨code, pos, rfl⟩⟩

theorem ite {p : Prop} [Decidable p] {t' : State} (h : VceRan c e s t) (h' : VceRan c e s t') :
    VceRan c e s (if p then t else t') := by
  split
  · exact h
  · exact h'

/-- Either way the flags, the tile queues and the weights stay. -/
theorem kept (h : VceRan c e s t) : (t.core c).q.flags = (s.core c).q.flags ∧ (t.core c).q.tq = (s.core c).q.tq ∧
    (t.core c).m.arr = (s.core c).m.arr := by
  obtain ⟨u, ⟨hu, hk⟩, rfl | ⟨code, pos, rfl⟩⟩ := h
  · exact ⟨hk.flags, hk.tq, hk.arr⟩
  · obtain ⟨-, -, hflags, htq, harr⟩ := State.engFault_core (c := c) hu e code pos
    exact ⟨hflags.trans hk.flags, htq.trans hk.tq, harr.trans hk.arr⟩

theorem runs_or_halts (h : VceRan c e s t) :
    ((t.core c).v.queue = (s.core c).v.queue ∧ (t.core c).v.run = (s.core c).v.run) ∨
      ((t.core c).q.seq = .haltFault ∧ (t.core c).v.queue = (s.core c).v.queue.filter (·.id ≠ e.id)) := by
  obtain ⟨u, ⟨hu, hk⟩, rfl | ⟨code, pos, rfl⟩⟩ := h
  · exact .inl ⟨hk.queue, hk.run⟩
  · obtain ⟨hseq, hqueue, -⟩ := State.engFault_core (c := c) hu e code pos
    exact .inr ⟨hseq, by rw [hqueue, hk.queue]⟩

end VceRan

/-- R156 to R169, R174: each command changes its core by its own operation, and faults by its own check. -/
theorem vceRunCmd_ran (hs : s.has64) (c : CoreId) (e : EngCmd) : VceRan c e s (vceRunCmd s c e) := by
  unfold vceRunCmd
  refine .ite ?cfg (.ite ?run (.ite ?table (.ite ?perm (.ite ?reduce ?scan))))
  case cfg =>
    refine .ite (.engFault hs _ _) (.setCore hs ?_)
    exact ⟨rfl, rfl, rfl, rfl, rfl⟩
  case run =>
    split
    · exact .engFault hs _ _
    · exact .ite (.engFault hs _ _) (.setCore hs (runChain_kept _ _ _))
  case table => exact .ite (.engFault hs _ _) (.setCore hs (loadTable_kept _ _))
  case perm =>
    dsimp only
    split
    · exact .setCore hs (permute_kept _ _)
    · exact .engFault_setCore hs (permute_kept _ _) _ _
  case reduce => exact .setCore hs (reduce_kept _ _)
  case scan => exact .setCore hs (scan_kept _ _)

/-- R150, R174: a VCE_CFG whose line is sound puts its word into its slot. -/
theorem vceRunCmd_cfg (hs : s.has64) (ho : e.opc = 0x30) (hb : (s.core c).ocBadIn 0 (fld e.imm 0 17 * 64) 64 = false) :
    ((vceRunCmd s c e).core c).v.run = (s.core c).v.run ∧
      ((vceRunCmd s c e).core c).v.ccw = sset none (s.core c).v.ccw (fld e.imm 17 3) (some (cfgWord (s.core c) e)) := by
  unfold vceRunCmd
  dsimp only
  rw [if_pos ho, if_neg (ne_true_of_eq_false hb), State.core_setCore hs, if_pos rfl]
  exact ⟨rfl, rfl⟩

theorem Core.ocBadIn_of_ocBad (h : k'.v.ocBad = k.v.ocBad) (m a n : Nat) : k'.ocBadIn m a n = k.ocBadIn m a n := by
  rw [Core.ocBadIn, h, Core.ocBadIn]

theorem cfgWord_of_oc (h : k'.v.oc = k.v.oc) (e : EngCmd) : cfgWord k' e = cfgWord k e := by
  simp only [cfgWord, Core.ocRead, Core.ocByte, h]

/-! ### The start -/

/-- The state in which a VCE command starts: its credit held, the ECC errors of its words taken, its elements counted. -/
def vceReady (s : State) (c : CoreId) (e : EngCmd) (ecc : List EccHit) : State :=
  ((s.needCredit ⟨c.val, 4⟩ (vceCredit (s.core c) e)).2.ocEcc c e ecc).countVce c e

theorem State.needCredit_of_held {w : PwrUnit} {n : Nat} (hm : s.creditMarked w = false) (hn : n ≤ s.creditHeld w) :
    (s.needCredit w n).1 = true := by
  rw [State.needCredit, if_neg (ne_true_of_eq_false hm), if_pos hn]

theorem State.countVce_checked (hs : s.has64) (c : CoreId) (e : EngCmd) : Checked c s (s.countVce c e) :=
  have hself : Checked c s s := ⟨hs, .of_m_q_v rfl rfl rfl, fun _ _ => rfl, .refl _ s⟩
  (hself.countCore ..).countCore ..

theorem vceReady_kept (hs : s.has64) (e : EngCmd) (ecc : List EccHit) : KeptIn c s (vceReady s c e ecc) := by
  have hcredit : KeptIn c s (s.needCredit ⟨c.val, 4⟩ (vceCredit (s.core c) e)).2 := (KeptIn.refl hs).of_cores (by simp)
  obtain ⟨h64, hecc⟩ := hcredit.ocEcc e ecc
  obtain ⟨hall, hrows, -, -⟩ := State.countVce_checked h64 c e
  exact ⟨hall, hecc.trans (.of_rowsKept hrows)⟩

theorem vceReady_v (hs : s.has64) (e : EngCmd) : ((vceReady s c e []).core c).v = (s.core c).v := by
  have hcores : (s.needCredit ⟨c.val, 4⟩ (vceCredit (s.core c) e)).2.cores = s.cores := by simp
  have hv := (State.countVce_checked (State.has64_of_cores hs hcores) c e).core.v
  rwa [State.core_of_cores hcores] at hv

/-- The state in which the VCE has taken its head command. -/
def vceTaken (s : State) (c : CoreId) (e : EngCmd) (ecc : List EccHit) : State :=
  (vceReady s c e ecc).modCore c fun k => vceTake k e

theorem vceTaken_has64 (hs : s.has64) (c : CoreId) (e : EngCmd) (ecc : List EccHit) : (vceTaken s c e ecc).has64 :=
  State.modCore_has64 (vceReady_kept hs e ecc).has64 c _

theorem vceTaken_core (hs : s.has64) (e : EngCmd) (ecc : List EccHit) :
    (vceTaken s c e ecc).core c = vceTake ((vceReady s c e ecc).core c) e :=
  (State.core_modCore (vceReady_kept hs e ecc).has64 c c _).trans (if_pos rfl)

/-- The head command moves from the queue to the running commands. -/
theorem vceTaken_kept (hs : s.has64) (hq : (s.core c).v.queue = e :: rest) (ecc : List EccHit) :
    VceKept { s.core c with v.queue := rest, v.run := (s.core c).v.run ++ [e] } ((vceTaken s c e ecc).core c) := by
  obtain ⟨-, hflags, htq, harr, hqueue, hrun⟩ := vceReady_kept (c := c) hs e ecc
  rw [vceTaken_core hs]
  exact ⟨hflags, htq, harr, by rw [vceTake, hqueue, hq]; rfl, by rw [vceTake, hrun]⟩

theorem vceTaken_v (hs : s.has64) (hq : (s.core c).v.queue = e :: rest) : ((vceTaken s c e []).core c).v =
    { (s.core c).v with queue := rest, run := (s.core c).v.run ++ [e] } := by
  rw [vceTaken_core hs, vceTake, vceReady_v hs, hq]
  rfl

/-- R150: a VCE_CFG that meets no ECC error runs and sets its slot, and no other. -/
theorem vceTaken_cfg (hs : s.has64) (hq : (s.core c).v.queue = e :: rest) (ho : e.opc = 0x30)
    (hb : (s.core c).ocBadIn 0 (fld e.imm 0 17 * 64) 64 = false) :
    ((vceRunCmd (vceTaken s c e []) c e).core c).v.run = (s.core c).v.run ++ [e] ∧
      ∀ n, sget none ((vceRunCmd (vceTaken s c e []) c e).core c).v.ccw n
        = if n = fld e.imm 17 3 then some (cfgWord (s.core c) e) else sget none (s.core c).v.ccw n := by
  have hv := vceTaken_v hs hq
  have hsound : ((vceTaken s c e []).core c).ocBadIn 0 (fld e.imm 0 17 * 64) 64 = false :=
    (Core.ocBadIn_of_ocBad (by rw [hv]) _ _ _).trans hb
  have hword : cfgWord ((vceTaken s c e []).core c) e = cfgWord (s.core c) e := cfgWord_of_oc (by rw [hv]) e
  obtain ⟨hrun, hccw⟩ := vceRunCmd_cfg (vceTaken_has64 hs c e []) ho hsound
  rw [hrun, hccw, hword, hv]
  exact ⟨rfl, fun n => sget_sset (s.core c).v.ccw _ _ n⟩

/-- What holds the head of the VCE's queue (R154, R162), or makes it a routine's work. -/
def VceHeld (k : Core) (e : EngCmd) : Prop :=
  e.opc = 0x0B ∨ k.handlesArrived e = false ∨ k.noHazard .vce e = false ∨ rawBlocked k e = true ∨ tblBlocked k e = true

theorem vceStart_of_held (hq : (s.core c).v.queue = e :: rest) (h : VceHeld (s.core c) e) :
    exec (.vceStart c ecc) s = .next s := by
  have hexec : exec (.vceStart c ecc) s = execVceStart c ecc s := rfl
  rw [hexec, execVceStart]
  dsimp only
  rw [hq]
  dsimp only
  obtain h | h | h | h | h := h
  · rw [if_pos (by simp [h])]
  · rw [if_pos (by simp [h])]
  · rw [if_pos (by simp [h])]
  · rw [if_pos (c := (rawBlocked (s.core c) e || tblBlocked (s.core c) e) = true) (by simp [h]), ite_self]
  · rw [if_pos (c := (rawBlocked (s.core c) e || tblBlocked (s.core c) e) = true) (by simp [h]), ite_self]

/-- R154, R155: a head that nothing holds is taken and run. -/
theorem vceStart_of_free (hq : (s.core c).v.queue = e :: rest) (hfree : ¬VceHeld (s.core c) e)
    (hm : s.creditMarked ⟨c.val, 4⟩ = false) (hn : vceCredit (s.core c) e ≤ s.creditHeld ⟨c.val, 4⟩) :
    exec (.vceStart c ecc) s = .next (vceRunCmd (vceTaken s c e ecc) c e) := by
  have hexec : exec (.vceStart c ecc) s = execVceStart c ecc s := rfl
  simp only [VceHeld, not_or, Bool.not_eq_false, Bool.not_eq_true] at hfree
  obtain ⟨ho, ha, hh, hr, hb⟩ := hfree
  rw [hexec, execVceStart]
  dsimp only
  rw [hq]
  dsimp only
  rw [if_neg (by simp [ho, ha, hh]), if_neg (by simp [hr, hb]), State.needCredit_of_held hm hn]
  rfl

theorem vceStart_sameOutside (hexec : exec (.vceStart c ecc) s = .next t) :
    SameOutside [.cores, .hub, .err, .cke, .pwr, .pmu, .sent] s t := by
  have ht : resultOf s (execVceStart c ecc s) = t := congrArg (resultOf s) hexec
  have hframe := execVceStart_frame c ecc s
  rw [ht] at hframe
  exact fun p hp => by cases p <;> simp_all [StatePart.same]

/-- Settles O16: the head is held, or taken and run by `vceRunCmd_ran`; a VCE_CFG by `vceRunCmd_cfg`. -/
theorem vectorEngineStartsItsHeadCommand : Obligations.VectorEngineStartsItsHeadCommand := by
  unfold Obligations.VectorEngineStartsItsHeadCommand
  refine ⟨fun c ecc s e rest hq h => vceStart_of_held hq h, fun c ecc s e rest hs hq ho ha hh hr hb hm hn => ?_⟩
  have hexec := vceStart_of_free (ecc := ecc) hq (by simp [VceHeld, ho, ha, hh, hr, hb]) hm hn
  have hran := vceRunCmd_ran (vceTaken_has64 hs c e ecc) c e
  obtain ⟨hflags, htq, harr⟩ := hran.kept
  have hends := hran.runs_or_halts
  obtain ⟨hflags', htq', harr', hqueue, hrun⟩ := vceTaken_kept hs hq ecc
  rw [hqueue, hrun] at hends
  refine ⟨_, hexec, hends, fun hcfg hecc hbad => ?_, hflags.trans hflags', htq.trans htq', harr.trans harr',
    vceStart_sameOutside hexec⟩
  subst hecc
  exact vceTaken_cfg hs hq hcfg hbad

end Sys2Proof.Machine
end

section
/-! SUPPORT. The check phase of the mover (R199 to R203, R206, R217, R221, R225): when its head command starts, the fault that stops
it, and the access phase it goes on to. -/

namespace Sys2Proof.Machine
variable {s t u : State} {c : CoreId} {e : EngCmd} {rest : List EngCmd} {d : TDesc} {ecc : List EccHit}

/-! ### A command of a core faults -/

/-- R221, R476: the record of an engine's fault names its command. -/
theorem State.engFault_raised (s : State) (c : CoreId) (e : EngCmd) (code pos : Nat) :
    RaisedHalting s (s.engFault c e code pos) code .d c.val
      (cmdPayload e.idx e.pass c.val e.shownOpc e.routine pos (stepDetail e.routine code)) := by
  intro hroom
  simp [State.engFault, State.cmdFault, State.raiseHalting, State.offer, hroom, Err.enqueue, Err.countClass_queue, State.stepNow,
    State.jobIdNow]

/-- R73: a core whose accumulators and operand cache hold what they held. -/
structure TilesKept (k k' : Core) : Prop where
  acc : k'.m.acc = k.m.acc
  oc : k'.v.oc = k.v.oc

/-- R221: the command that faulted leaves the mover, and the core keeps its tiles. -/
theorem State.engFault_mover (hs : s.has64) (e : EngCmd) (code pos : Nat) :
    ((s.engFault c e code pos).core c).t.queue = (s.core c).t.queue.filter (·.id ≠ e.id) ∧
      TilesKept (s.core c) ((s.engFault c e code pos).core c) := by
  unfold State.engFault
  dsimp only
  rw [State.cmdFault_core (State.modCore_has64 hs c _), State.core_modCore hs, if_pos rfl]
  exact ⟨rfl, rfl, rfl⟩

/-! ### The fault to record -/

/-- R221: where a check has failed there is a lowest fault. -/
theorem lowestAt_of_ne_nil {l : List (Nat × Nat)} (h : l ≠ []) : ∃ code pos, lowestAt l = some (code, pos) := by
  cases l with
  | nil => exact absurd rfl h
  | cons a l =>
    suffices ∃ y, lowestAt (a :: l) = some y by
      obtain ⟨y, hy⟩ := this
      exact ⟨y.1, y.2, hy⟩
    refine List.foldlRecOn (motive := fun m : Option (Nat × Nat) => ∃ y, m = some y) l _ ⟨a, rfl⟩ fun m hm x _ => ?_
    obtain ⟨y, rfl⟩ := hm
    dsimp only
    split
    · exact ⟨x, rfl⟩
    · exact ⟨y, rfl⟩

/-! ### The last part of the checks -/

/-- R209, R211, R225: what the index counters count before the last checks. -/
def idxCounted (s : State) (c : CoreId) (neg oor : Nat) : State :=
  s.modCore c fun k => { k with
    t.idxNeg := satAdd 32 k.t.idxNeg neg
    t.idxOor := satAdd 32 k.t.idxOor oor
    t.sticky := k.t.sticky ||| (if 0 < neg then 1 else 0) ||| (if 0 < oor then 2 else 0) }

/-- R201, R217: the head command goes on to its access phase. -/
def toAccess (s : State) (c : CoreId) (e : EngCmd) (d : TDesc) : State :=
  s.modCore c fun k => { k with
    t.queue := k.t.queue.drop 1
    t.run := k.t.run ++ [⟨e, { d with idxpol := idxPolicy e d }, false, [], []⟩] }

/-- R211, R225: once the indices are counted, the command faults or goes on to its access phase. -/
theorem checkIndex_cases (s : State) (c : CoreId) (e : EngCmd) (d : TDesc) : ∃ neg oor,
    (∃ code pos, checkIndex s c e d = (idxCounted s c neg oor).engFault c e code pos) ∨
      checkIndex s c e d = toAccess (idxCounted s c neg oor) c e d := by
  unfold checkIndex
  dsimp only
  split
  · exact ⟨_, _, .inl ⟨_, _, rfl⟩⟩
  · split
    · exact ⟨_, _, .inl ⟨_, _, rfl⟩⟩
    · exact ⟨_, _, .inr rfl⟩

/-- R206: without an index tile only the addresses are left to check. -/
theorem checkIndex_of_direct (hi : d.usesIdx = false) (ha : addrBad s e d = false) :
    checkIndex s c e d = toAccess (idxCounted s c 0 0) c e d := by
  unfold checkIndex
  simp only [hi, ha, Bool.false_eq_true, if_false]
  rfl

theorem idxCounted_core (hs : s.has64) (neg oor : Nat) (x : CoreId) : (idxCounted s c neg oor).core x = if x = c then
    { s.core c with
      t.idxNeg := satAdd 32 (s.core c).t.idxNeg neg
      t.idxOor := satAdd 32 (s.core c).t.idxOor oor
      t.sticky := (s.core c).t.sticky ||| (if 0 < neg then 1 else 0) ||| (if 0 < oor then 2 else 0) } else s.core x :=
  State.core_modCore hs c x _

theorem idxCounted_has64 (hs : s.has64) (neg oor : Nat) : (idxCounted s c neg oor).has64 := State.modCore_has64 hs c _

theorem toAccess_core (hs : s.has64) (e : EngCmd) (d : TDesc) (x : CoreId) : (toAccess s c e d).core x = if x = c then
    { s.core c with
      t.queue := (s.core c).t.queue.drop 1
      t.run := (s.core c).t.run ++ [⟨e, { d with idxpol := idxPolicy e d }, false, [], []⟩] } else s.core x :=
  State.core_modCore hs c x _

theorem checkIndex_tilesKept (hs : s.has64) (e : EngCmd) (d : TDesc) : TilesKept (s.core c) ((checkIndex s c e d).core c) := by
  obtain ⟨neg, oor, ⟨code, pos, h⟩ | h⟩ := checkIndex_cases s c e d
  · obtain ⟨-, hacc, hoc⟩ := State.engFault_mover (c := c) (idxCounted_has64 (c := c) hs neg oor) e code pos
    rw [idxCounted_core hs, if_pos rfl] at hacc hoc
    rw [h]
    exact ⟨hacc, hoc⟩
  · rw [h, toAccess_core (idxCounted_has64 hs neg oor), if_pos rfl, idxCounted_core hs, if_pos rfl]
    exact ⟨rfl, rfl⟩

/-! ### Every check -/

section checkTail
variable {bs lst : List Byte} {seen : Bool}

theorem checkTail_of_fault {code pos : Nat} (h : lowestAt (descFaults s e bs lst seen (fullDesc (s.core c) e bs lst)) = some (code, pos)) :
    checkTail s c e bs lst seen [] = s.engFault c e code pos := by
  simp only [checkTail, List.append_nil, h]

theorem checkTail_of_none (h : descFaults s e bs lst seen (fullDesc (s.core c) e bs lst) = []) :
    checkTail s c e bs lst seen [] = checkIndex s c e (fullDesc (s.core c) e bs lst) := by
  simp only [checkTail, h]
  rfl

theorem checkTail_tilesKept (hs : s.has64) (c : CoreId) (e : EngCmd) :
    TilesKept (s.core c) ((checkTail s c e bs lst seen []).core c) := by
  by_cases h : descFaults s e bs lst seen (fullDesc (s.core c) e bs lst) = []
  · rw [checkTail_of_none h]
    exact checkIndex_tilesKept hs e _
  · obtain ⟨code, pos, hl⟩ := lowestAt_of_ne_nil h
    rw [checkTail_of_fault hl]
    exact (State.engFault_mover hs e code pos).2

theorem checkTail_sameOutside (s : State) (c : CoreId) (e : EngCmd) :
    SameOutside [.cores, .hub, .err, .cke, .pwr, .pmu, .sent] s (checkTail s c e bs lst seen []) := fun p hp => by
  cases p <;> simp_all [StatePart.same]

end checkTail

/-! ### The start -/

/-- What holds the head of the mover's queue (R61, R71, R75, R217). -/
def TmvHeld (s : State) (c : CoreId) (e : EngCmd) : Prop :=
  4 ≤ (s.core c).t.run.length ∨ (s.core c).handlesArrived e = false ∨ (s.core c).noHazard .tmv e = false ∨
    earlierWaits (s.core c).t.run (s.core c).t.run.length = true ∨ s.headHazard c e = true

theorem tmvHeld_iff : TmvHeld s c e ↔ (!tmvMayStart (s.core c) e || s.headHazard c e) = true := by
  simp only [TmvHeld, tmvMayStart, Bool.or_eq_true, Bool.not_eq_true', Bool.and_eq_false_iff, decide_eq_false_iff_not, not_lt,
    Bool.not_eq_false', or_assoc]

theorem tmvCheckPhase_of_held (hq : (s.core c).t.queue = e :: rest) (h : TmvHeld s c e) :
    exec (.tmvCheckPhase c ecc) s = .next s := by
  have hexec : exec (.tmvCheckPhase c ecc) s = execTmvCheckPhase c ecc s := rfl
  rw [hexec, execTmvCheckPhase, hq]
  dsimp only
  rw [if_pos (tmvHeld_iff.1 h)]

theorem tmvCheckPhase_of_free (hq : (s.core c).t.queue = e :: rest) (h : ¬TmvHeld s c e) :
    exec (.tmvCheckPhase c []) s = .next (checkPhase s c e) := by
  have hexec : exec (.tmvCheckPhase c []) s = execTmvCheckPhase c [] s := rfl
  rw [hexec, execTmvCheckPhase, hq]
  dsimp only
  rw [if_neg (fun hh => h (tmvHeld_iff.2 hh))]
  rfl

/-- R199: a descriptor in the operand cache that names no block list is there to be read. -/
theorem checkPhase_of_cached (hl : tmvDloc e.imm = false)
    (hb : (descOf e ((s.core c).ocRead 0 (fld e.imm 0 17 * 64) (descLen e.imm))).usesBlocks = false) :
    checkPhase s c e = checkTail s c e ((s.core c).ocRead 0 (fld e.imm 0 17 * 64) (descLen e.imm)) [] true [] := by
  simp only [checkPhase, State.descPop, State.descBytes, blockList, hl, hb, Bool.not_false, Bool.true_or, Bool.not_true,
    Bool.false_eq_true, if_false]

/-- Settles O17: the head is held, or its checks are those of `checkTail`: the lowest fault stops its core, and without one it goes on
by `checkIndex_of_direct`. -/
theorem moverChecksItsHeadCommand : Obligations.MoverChecksItsHeadCommand := by
  unfold Obligations.MoverChecksItsHeadCommand
  refine fun c s e rest hs hq => ⟨fun ecc h => tmvCheckPhase_of_held hq h, fun hn ha hh hw hz hl => ?_⟩
  intro bs d faults hb
  have hfree : ¬TmvHeld s c e := by simp [TmvHeld, ha, hh, hw, hz, hn]
  have hexec := tmvCheckPhase_of_free hq hfree
  rw [checkPhase_of_cached hl hb] at hexec
  obtain ⟨hacc, hoc⟩ := checkTail_tilesKept (bs := bs) (lst := []) (seen := true) hs c e
  refine ⟨_, hexec, fun hf => ?_, fun hf hi haddr => ?_, hacc, hoc, checkTail_sameOutside s c e⟩
  · obtain ⟨code, pos, hlow⟩ := lowestAt_of_ne_nil hf
    rw [checkTail_of_fault hlow]
    refine ⟨State.engFault_haltFault hs e _ _, ?_, fun code' pos' h => ?_⟩
    · rw [(State.engFault_mover hs e code pos).1, hq]
      simp
    · obtain ⟨rfl, rfl⟩ : code = code' ∧ pos = pos' := by simpa using hlow.symm.trans h
      exact s.engFault_raised c e code pos
  · have hcore := fun x => toAccess_core (c := c) (idxCounted_has64 (c := c) hs 0 0) e d x
    rw [checkTail_of_none hf, checkIndex_of_direct hi haddr]
    refine ⟨?_, ?_, ?_, fun x hx => ?_⟩
    · rw [hcore, if_pos rfl, idxCounted_core hs, if_pos rfl]
      dsimp only
      rw [hq]
      rfl
    · rw [hcore, if_pos rfl, idxCounted_core hs, if_pos rfl]
    · rw [hcore, if_pos rfl, idxCounted_core hs, if_pos rfl]
    · rw [hcore, if_neg hx, idxCounted_core hs, if_neg hx]

end Sys2Proof.Machine
end

section
/-! SUPPORT. The access phase of the mover (R202 to R210, R217, R222): the bytes its moves gather, the lines it reads, and what it
stores. -/

namespace Sys2Proof.Machine
variable {s t u : State} {c : CoreId} {k : Core} {e : EngCmd} {d : TDesc} {rd : Nat → Byte} {bad : Nat → Bool}

/-! ### Bytes put into a memory image -/

/-- Consecutive bytes put into a memory image from address `a`, as `Moving.put` does. -/
def putBytes (m : SMap (Option Byte)) (a : Nat) (bs : List Byte) : SMap (Option Byte) :=
  bs.zipIdx.foldl (fun x p => sset none x (a + p.2) (some p.1)) m

theorem Moving.put_mem (m : Moving) (a : Nat) (bs : List Byte) : (m.put a bs).mem = putBytes m.mem a bs := rfl

theorem sget_putBytes (m : SMap (Option Byte)) (a : Nat) (bs : List Byte) (n : Nat) : sget none (putBytes m a bs) n =
    if a ≤ n ∧ n < a + bs.length then some (bs.getD (n - a) 0) else sget none m n := by
  induction bs using List.reverseRecOn with
  | nil => exact (if_neg (by simp only [List.length_nil]; omega)).symm
  | append_singleton bs b ih =>
    have hput : putBytes m a (bs ++ [b]) = sset none (putBytes m a bs) (a + bs.length) (some b) := by
      simp [putBytes, List.zipIdx_append]
    rw [hput, sget_sset, ih, List.length_append, List.length_singleton]
    by_cases hn : n = a + bs.length
    · rw [if_pos hn, if_pos (by omega), hn, Nat.add_sub_cancel_left]
      simp [List.getD_eq_getElem?_getD]
    · rw [if_neg hn]
      by_cases hin : a ≤ n ∧ n < a + bs.length
      · rw [if_pos hin, if_pos (by omega), List.getD_append _ _ _ _ (by omega)]
      · rw [if_neg hin, if_neg (by omega)]

theorem sget_putBytes_of_outside {m : SMap (Option Byte)} {a n : Nat} {bs : List Byte} (h : n < a ∨ a + bs.length ≤ n) :
    sget none (putBytes m a bs) n = sget none m n := by
  rw [sget_putBytes, if_neg (by omega)]

theorem mem_sput {α : Type} {m : SMap α} {n : Nat} {x : α} {p : Nat × α} (h : p ∈ sput m n x) : p ∈ m ∨ p.1 = n := by
  induction m with
  | nil => exact .inr (by rw [List.mem_singleton.1 h])
  | cons q m ih =>
    obtain ⟨j, v⟩ := q
    unfold sput at h
    split at h
    · obtain rfl | h := List.mem_cons.1 h
      · exact .inr rfl
      · exact .inl h
    · split at h
      · obtain rfl | h := List.mem_cons.1 h
        · exact .inr rfl
        · exact .inl (List.mem_cons_of_mem _ h)
      · obtain rfl | h := List.mem_cons.1 h
        · exact .inl List.mem_cons_self
        · exact (ih h).imp_left (List.mem_cons_of_mem _)

/-- An entry of a sparse map after a write is one from before it, or the one written. -/
theorem mem_sset {α : Type} [DecidableEq α] {z : α} {m : SMap α} {n : Nat} {x : α} {p : Nat × α} (h : p ∈ sset z m n x) :
    p ∈ m ∨ p.1 = n := by
  unfold sset at h
  split at h
  · exact .inl (List.mem_of_mem_filter h)
  · exact mem_sput h

/-- A number that a sparse map does not list reads as the default. -/
theorem sget_of_not_mem {α : Type} {z : α} {m : SMap α} {n : Nat} (h : ∀ p ∈ m, p.1 ≠ n) : sget z m n = z := by
  induction m with
  | nil => rfl
  | cons q m ih =>
    obtain ⟨j, v⟩ := q
    rw [sget, if_neg (h (j, v) List.mem_cons_self)]
    exact ih fun p hp => h p (List.mem_cons_of_mem _ hp)

/-! ### What one move puts -/

/-- R204: a unit has at most the bytes of its format. -/
theorem readUnit_length (src : Option Loc) : (readUnit e d k rd bad src).1.length ≤ unitBytes d.fmt := by
  cases src with
  | none => exact (leBytes_length _ _).le
  | some l =>
    cases l with
    | tile r c => exact List.length_take_le ..
    | mem a p =>
      by_cases hw : d.fmt = .w48
      · simp [readUnit, hw, unitBytes, Fmt.isBlock, Fmt.isMx, Fmt.elemBits]
      · simp [readUnit, hw]

/-- R203: an element of a scalar format is taken byte by byte. -/
theorem readUnit_mem_getD {a p i : Nat} (hw : d.fmt ≠ .w48) (hi : i < unitBytes d.fmt) :
    (readUnit e d k rd bad (some (.mem a p))).1.length = unitBytes d.fmt ∧
      (readUnit e d k rd bad (some (.mem a p))).1.getD i 0 = rd (a + i) := by
  simp [readUnit, hw, List.getD_eq_getElem?_getD, hi]

theorem moveUnit_mem_of_tile {m : Moving} {x : Move} {r n : Nat} (h : x.dst = .tile r n) :
    (moveUnit e d k rd bad m x).mem = m.mem := by
  unfold moveUnit
  dsimp only
  rw [h]

/-- R203, R204: a move to memory puts its unit, and the plane byte of a block. -/
theorem moveUnit_mem_of_mem {m : Moving} {x : Move} {a p : Nat} (h : x.dst = .mem a p) : (moveUnit e d k rd bad m x).mem =
    if d.fmt.isBlock then putBytes (putBytes m.mem a (readUnit e d k rd bad x.src).1) p [(readUnit e d k rd bad x.src).2.1]
    else putBytes m.mem a (readUnit e d k rd bad x.src).1 := by
  unfold moveUnit
  dsimp only
  rw [h]
  dsimp only
  split <;> rfl

/-- Address `n` is none of those where R202 to R210 put the element or the plane byte of a move. -/
def Misses (d : TDesc) (n : Nat) (x : Move) : Prop :=
  ∀ b q, x.dst = .mem b q → (n < b ∨ b + unitBytes d.fmt ≤ n) ∧ ¬(d.fmt.isBlock = true ∧ n = q)

theorem moveUnit_misses {n : Nat} (m : Moving) {x : Move} (h : Misses d n x) :
    sget none (moveUnit e d k rd bad m x).mem n = sget none m.mem n := by
  cases hx : x.dst with
  | tile r c => rw [moveUnit_mem_of_tile hx]
  | mem a p =>
    obtain ⟨hunit, hplane⟩ := h a p hx
    have hlen := readUnit_length (e := e) (d := d) (k := k) (rd := rd) (bad := bad) x.src
    have hput := sget_putBytes_of_outside (m := m.mem) (a := a) (n := n) (bs := (readUnit e d k rd bad x.src).1) (by omega)
    rw [moveUnit_mem_of_mem hx]
    split
    case isTrue hb =>
      have hne : n ≠ p := fun hp => hplane ⟨hb, hp⟩
      rw [sget_putBytes_of_outside (by simp only [List.length_singleton]; omega), hput]
    case isFalse => exact hput

/-! ### What all moves put -/

theorem foldl_moveUnit_misses {n : Nat} {xs : List Move} (h : ∀ x ∈ xs, Misses d n x) (m : Moving) :
    sget none (xs.foldl (moveUnit e d k rd bad) m).mem n = sget none m.mem n :=
  List.foldlRecOn (motive := fun m' : Moving => sget none m'.mem n = sget none m.mem n) xs _ rfl
    fun m' hm x hx => (moveUnit_misses m' (h x hx)).trans hm

/-- What one move puts at an address stands there in the end when every move either puts the same or misses it. -/
theorem foldl_moveUnit_puts {n : Nat} {v : Option Byte} {xs : List Move}
    (h : ∀ x ∈ xs, Misses d n x ∨ ∀ m, sget none (moveUnit e d k rd bad m x).mem n = v) (m : Moving)
    (hv : sget none m.mem n = v ∨ ∃ x ∈ xs, ¬Misses d n x) : sget none (xs.foldl (moveUnit e d k rd bad) m).mem n = v := by
  induction xs generalizing m with
  | nil => simpa using hv
  | cons x xs ih =>
    rw [List.foldl_cons]
    refine ih (fun y hy => h y (List.mem_cons_of_mem _ hy)) _ ?_
    obtain hx | hx := h x List.mem_cons_self
    · rw [moveUnit_misses m hx]
      refine hv.imp_right fun ⟨y, hy, hn⟩ => ?_
      obtain rfl | hy := List.mem_cons.1 hy
      · exact absurd hx hn
      · exact ⟨y, hy, hn⟩
    · exact .inl (hx m)

/-- R213: the addresses under which a combining scatter gathers are destinations of its moves; nothing is put yet. -/
theorem addContrib_gathers {xs : List Move} (m : Moving) :
    (∀ p ∈ (xs.foldl (addContrib e d k rd bad) ([], m)).1, ∃ x ∈ xs, ∃ q, x.dst = .mem p.1 q) ∧
      (xs.foldl (addContrib e d k rd bad) ([], m)).2.mem = m.mem := by
  refine List.foldlRecOn (motive := fun g : SMap Contribs × Moving =>
    (∀ p ∈ g.1, ∃ x ∈ xs, ∃ q, x.dst = .mem p.1 q) ∧ g.2.mem = m.mem) xs _ ⟨by simp, rfl⟩ fun g hg x hx => ?_
  obtain ⟨hkeys, hmem⟩ := hg
  cases hdst : x.dst with
  | tile r n =>
    have hsame : addContrib e d k rd bad g x = g := by
      unfold addContrib
      dsimp only
      rw [hdst]
    rw [hsame]
    exact ⟨hkeys, hmem⟩
  | mem a q =>
    unfold addContrib
    dsimp only
    rw [hdst]
    dsimp only
    refine ⟨fun p hp => ?_, hmem⟩
    obtain hp | hp := mem_sset hp
    · exact hkeys p hp
    · exact ⟨x, hx, q, hp ▸ hdst⟩

theorem combineElem_length (prior : Nat) (x : Nat × List Num) : (combineElem k e d prior x).1.length = unitBytes d.fmt :=
  leBytes_length _ _

theorem putContrib_of_outside {n : Nat} {m : Moving} {p : Nat × Contribs} (h : n < p.1 ∨ p.1 + unitBytes d.fmt ≤ n) :
    sget none (putContrib e d k rd bad m p).mem n = sget none m.mem n := by
  unfold putContrib
  split
  · rfl
  · exact sget_putBytes_of_outside (by rw [combineElem_length]; exact h)

theorem moveCombine_misses {n : Nat} {xs : List Move} (h : ∀ x ∈ xs, Misses d n x) (m : Moving) :
    sget none (moveCombine e d k rd bad m xs).mem n = sget none m.mem n := by
  obtain ⟨hkeys, hmem⟩ := addContrib_gathers (e := e) (d := d) (k := k) (rd := rd) (bad := bad) (xs := xs) m
  unfold moveCombine
  refine List.foldlRecOn (motive := fun m' : Moving => sget none m'.mem n = sget none m.mem n) _ _ (by rw [hmem])
    fun m' hm p hp => (putContrib_of_outside ?_).trans hm
  obtain ⟨x, hx, q, hdst⟩ := hkeys p hp
  exact (h x hx _ _ hdst).1

/-- R202 to R210: nothing is put where no move of the command puts an element or a plane byte. -/
theorem moveAll_misses {n : Nat} (h : ∀ x ∈ movesOf e d d.idxpol, Misses d n x) : sget none (moveAll k e d rd bad).mem n = none := by
  unfold moveAll
  dsimp only
  split
  · exact foldl_moveUnit_misses h _
  · exact moveCombine_misses h _

/-- R202, R203: an element of a copy of a scalar format that no other element overlaps is put as it was read. -/
theorem moveAll_puts {x : Move} {a p b q i : Nat} (hc : d.combine = 0) (hb : d.fmt.isBlock = false) (hw : d.fmt ≠ .w48)
    (hx : x ∈ movesOf e d d.idxpol) (hsrc : x.src = some (.mem a p)) (hdst : x.dst = .mem b q) (hi : i < unitBytes d.fmt)
    (hother : ∀ y ∈ movesOf e d d.idxpol, y ≠ x → ∀ b' q', y.dst = .mem b' q' → b + i < b' ∨ b' + unitBytes d.fmt ≤ b + i) :
    sget none (moveAll k e d rd bad).mem (b + i) = some (rd (a + i)) := by
  have hputs : ∀ m, sget none (moveUnit e d k rd bad m x).mem (b + i) = some (rd (a + i)) := fun m => by
    obtain ⟨hlen, hget⟩ := readUnit_mem_getD (e := e) (d := d) (k := k) (rd := rd) (bad := bad) (a := a) (p := p) hw hi
    rw [moveUnit_mem_of_mem hdst, hb, if_neg Bool.false_ne_true, sget_putBytes, hsrc, hlen, if_pos (by omega),
      Nat.add_sub_cancel_left, hget]
  have hmisses : ¬Misses d (b + i) x := fun h => by
    have := (h b q hdst).1
    omega
  unfold moveAll
  dsimp only
  rw [if_pos hc]
  refine foldl_moveUnit_puts (fun y hy => ?_) _ (.inr ⟨x, hx, hmisses⟩)
  by_cases hyx : y = x
  · exact .inr (hyx ▸ hputs)
  · exact .inl fun b' q' hy' => ⟨hother y hy hyx b' q' hy', by simp [hb]⟩

/-! ### Lines of an image stored -/

/-- R230: the byte enables of a line image, bit `i` for byte `i`. -/
def enables (img : List (Option Byte)) : Nat := (img.zipIdx.map fun b => if b.1.isSome then 2 ^ b.2 else 0).sum

theorem enables_concat (img : List (Option Byte)) (b : Option Byte) :
    enables (img ++ [b]) = enables img + if b.isSome then 2 ^ img.length else 0 := by
  simp [enables, List.zipIdx_append]

theorem enables_lt (img : List (Option Byte)) : enables img < 2 ^ img.length := by
  induction img using List.reverseRecOn with
  | nil => exact Nat.one_pos
  | append_singleton img b ih =>
    rw [enables_concat, List.length_append, List.length_singleton, Nat.pow_succ']
    split <;> omega

theorem enables_testBit (img : List (Option Byte)) (i : Nat) : (enables img).testBit i = (img.getD i none).isSome := by
  induction img using List.reverseRecOn with
  | nil => simp [enables]
  | append_singleton img b ih =>
    obtain hi | rfl | hi := lt_trichotomy i img.length
    · rw [List.getD_append _ _ _ _ hi, ← ih, enables_concat]
      split
      · rw [Nat.add_comm, Nat.testBit_two_pow_add_gt hi]
      · rfl
    · have hbit : (enables img).testBit img.length = false := Nat.testBit_lt_two_pow (enables_lt img)
      have hget : (img ++ [b]).getD img.length none = b := by simp [List.getD_eq_getElem?_getD]
      rw [hget, enables_concat]
      cases b with
      | none => exact hbit
      | some b => rw [Option.isSome_some, if_pos rfl, Nat.add_comm, Nat.testBit_two_pow_add_eq, hbit, Bool.not_false]
    · have hlen : (img ++ [b]).length ≤ i := by simpa using hi
      rw [List.getD_eq_default _ _ hlen]
      exact Nat.testBit_lt_two_pow ((enables_lt _).trans_le (Nat.pow_le_pow_right (by omega) hlen))

theorem lineImage_getD {m : SMap (Option Byte)} {l i : Nat} (hi : i < 64) : (lineImage m l).getD i none = sget none m (64 * l + i) := by
  simp [lineImage, List.getD_eq_getElem?_getD, hi]

/-- R226, R227: does a byte that a mover writes reach device memory: not in its core's operand cache, and populated? -/
def State.moverStores (s : State) (x : Nat) : Bool := !inAlias (64 * (x / 64)) && s.populated (64 * (x / 64))

/-- The byte of device memory once a memory image has been stored. -/
def storedByte (m : SMap (Option Byte)) (s : State) (x : Nat) : Byte :=
  if s.moverStores x then (sget none m x).getD (s.byteAt x) else s.byteAt x

theorem SamePlaces.moverStores (h : SamePlaces s t) (x : Nat) : t.moverStores x = s.moverStores x := by
  rw [State.moverStores, h.populated, State.moverStores]

/-- R230: a write with byte enables moves no place. -/
theorem State.writeMasked_places (s : State) (agent a : Nat) (bs : List Byte) (mask : Nat) :
    SamePlaces s (s.writeMasked agent a bs mask) := by
  have hc := (LinesRead.countLine s a true).places
  have hstore : ∀ (t : State) (b : Nat) (l : List Byte), SamePlaces t (t.storeBytes b l) := fun _ _ _ => ⟨rfl, rfl, rfl, rfl, rfl⟩
  unfold State.writeMasked
  dsimp only
  split
  · exact hc.trans (LinesRead.raise _ _ _ _ _).places
  · split
    · exact hc.trans ⟨rfl, rfl, rfl, rfl, rfl⟩
    · exact List.foldlRecOn (motive := SamePlaces s) _ _ (hc.trans (LinesRead.touchLineQuiet _ _ _).places)
        fun t ht r _ => ht.trans (hstore t _ _)

theorem State.writeMasked_byteAt_of_hole {agent a : Nat} {bs : List Byte} {mask : Nat} (hp : s.populated a = false) (x : Nat) :
    (s.writeMasked agent a bs mask).byteAt x = s.byteAt x := by
  have hc := LinesRead.countLine s a true
  unfold State.writeMasked
  dsimp only
  rw [hc.places.populated, hp, Bool.not_false, if_pos rfl]
  exact (hc.trans (LinesRead.raise _ _ _ _ _)).byteAt x

/-- R230: of a line of the image in populated memory the bytes that were put are stored. -/
theorem State.writeMasked_lineImage {m : SMap (Option Byte)} {l : Nat} (hp : s.populated (64 * l) = true) (agent x : Nat) :
    (s.writeMasked agent (64 * l) ((lineImage m l).map fun b => b.getD 0) (enables (lineImage m l))).byteAt x =
      if x / 64 = l then (sget none m x).getD (s.byteAt x) else s.byteAt x := by
  rw [State.writeMasked_byteAt hp]
  by_cases hl : x / 64 = l
  · have hi : x - 64 * l < 64 := by omega
    have haddr : 64 * l + (x - 64 * l) = x := by omega
    have hbit : bitAt (enables (lineImage m l)) (x - 64 * l) = (sget none m x).isSome := by
      rw [bitAt_eq_testBit, enables_testBit, lineImage_getD hi, haddr]
    have hbyte : ((lineImage m l).map fun b => b.getD 0).getD (x - 64 * l) 0 = (sget none m x).getD 0 := by
      simp [lineImage, List.getD_eq_getElem?_getD, hi, haddr]
    rw [hbit, hbyte, if_pos hl]
    cases sget none m x with
    | none => simp
    | some b => rw [if_pos ⟨by omega, by omega, rfl⟩]; rfl
  · rw [if_neg (by omega), if_neg hl]

/-- R226, R230: a line of the image is stored byte by byte, where it reaches device memory. -/
theorem writeLine_byteAt (c : CoreId) (s : State) (m : SMap (Option Byte)) (l x : Nat) :
    (writeLine c s l (lineImage m l)).byteAt x = if x / 64 = l then storedByte m s x else s.byteAt x := by
  have hline : x / 64 = l → s.moverStores x = (!inAlias (64 * l) && s.populated (64 * l)) := fun h => by rw [State.moverStores, h]
  have hkept (h : (!inAlias (64 * l) && s.populated (64 * l)) = false) :
      (if x / 64 = l then storedByte m s x else s.byteAt x) = s.byteAt x := by
    split
    case isTrue hl => rw [storedByte, hline hl, h, if_neg Bool.false_ne_true]
    case isFalse => rfl
  unfold writeLine
  split
  case isTrue ha => exact (hkept (by rw [ha]; rfl)).symm
  case isFalse ha =>
    rw [Bool.not_eq_true] at ha
    cases hp : s.populated (64 * l) with
    | false =>
      rw [State.writeMasked_byteAt_of_hole hp]
      exact (hkept (by rw [hp, Bool.and_false])).symm
    | true =>
      refine (State.writeMasked_lineImage hp _ x).trans ?_
      by_cases hl : x / 64 = l
      · rw [if_pos hl, if_pos hl, storedByte, hline hl, ha, hp, Bool.not_false, Bool.and_true, if_pos rfl]
      · rw [if_neg hl, if_neg hl]

theorem writeLine_places (c : CoreId) (s : State) (l : Nat) (img : List (Option Byte)) : SamePlaces s (writeLine c s l img) := by
  unfold writeLine
  split
  · exact .of_mem rfl rfl
  · exact State.writeMasked_places ..

theorem writeLine_has64 (hs : s.has64) (c : CoreId) (l : Nat) (img : List (Option Byte)) : (writeLine c s l img).has64 := by
  unfold writeLine
  split
  · exact State.modCore_has64 hs c _
  · exact State.has64_of_cores hs (by simp)

theorem State.countMover_has64 (hs : s.has64) (c : CoreId) (e : EngCmd) (ev a target : Nat) : (s.countMover c e ev a target).has64 :=
  (State.countCore_butPmu hs c ev _ 1 _).1

/-- Memory once the lines `ls` of an image have been stored. -/
structure ImageStored (m : SMap (Option Byte)) (ls : List Nat) (s t : State) : Prop where
  places : SamePlaces s t
  byteAt : ∀ x, t.byteAt x = if x / 64 ∈ ls then storedByte m s x else s.byteAt x

theorem ImageStored.cons {m : SMap (Option Byte)} {l : Nat} {ls : List Nat} (h : SamePlaces s t)
    (hb : ∀ x, t.byteAt x = if x / 64 = l then storedByte m s x else s.byteAt x) (h' : ImageStored m ls t u) :
    ImageStored m (l :: ls) s u := by
  refine ⟨h.trans h'.places, fun x => ?_⟩
  have hagain : storedByte m t x = storedByte m s x := by
    simp only [storedByte, h.moverStores, hb]
    cases s.moverStores x <;> cases sget none m x <;> simp
  rw [h'.byteAt, hagain, hb]
  by_cases hls : x / 64 ∈ ls
  · rw [if_pos hls, if_pos (List.mem_cons_of_mem _ hls)]
  · rw [if_neg hls]
    exact if_congr (by simp [hls]) rfl rfl

/-- R230: a line stored and counted. -/
def storeLine (c : CoreId) (e : EngCmd) (m : SMap (Option Byte)) (t : State) (l : Nat) : State :=
  (writeLine c t l (lineImage m l)).countMover c e 0x11 (64 * l) (t.lineTarget c (64 * l))

theorem storeLine_has64 (hs : s.has64) (c : CoreId) (e : EngCmd) (m : SMap (Option Byte)) (l : Nat) : (storeLine c e m s l).has64 :=
  State.countMover_has64 (writeLine_has64 hs c l _) c e _ _ _

theorem storeLines_stored (c : CoreId) (e : EngCmd) (m : SMap (Option Byte)) (ls : List Nat) (s : State) :
    ImageStored m ls s (ls.foldl (storeLine c e m) s) := by
  induction ls generalizing s with
  | nil => exact ⟨.of_mem rfl rfl, fun x => rfl⟩
  | cons l ls ih =>
    have hmem : (storeLine c e m s l).mem = (writeLine c s l (lineImage m l)).mem := by simp [storeLine]
    refine .cons ((writeLine_places c s l _).trans (.of_mem (by simp [storeLine]) hmem)) (fun x => ?_) (ih _)
    rw [State.byteAt_of_bytes (congrArg Memory.bytes hmem), writeLine_byteAt]

/-! ### What a transfer stores -/

/-- R222: the lines fed by poison are marked. -/
theorem setPoisons_bytes (ls : List Nat) (s : State) : (ls.foldl (fun t l => t.setPoison (64 * l) true) s).mem.bytes = s.mem.bytes :=
  List.foldlRecOn (motive := fun t : State => t.mem.bytes = s.mem.bytes) ls _ rfl fun _ ht _ _ => ht

/-- R226, R227, R230: a transfer stores each byte it has put, where it reaches device memory. -/
theorem storeMoving_byteAt (s : State) (c : CoreId) (e : EngCmd) (m : Moving) (x : Nat) :
    (storeMoving s c e m).byteAt x = storedByte m.mem s x := by
  have hstored := storeLines_stored c e m.mem (m.mem.map fun p => p.1 / 64).dedup (s.setCore c (m.k.numFlags m.fl))
  have hsame : storedByte m.mem (s.setCore c (m.k.numFlags m.fl)) x = storedByte m.mem s x := rfl
  have hbytes := State.byteAt_of_bytes (setPoisons_bytes (m.fed.dedup.filter fun l => !inAlias (64 * l))
    ((m.mem.map fun p => p.1 / 64).dedup.foldl (storeLine c e m.mem) (s.setCore c (m.k.numFlags m.fl)))) x
  refine hbytes.trans ((hstored.byteAt x).trans ?_)
  split
  case isTrue => exact hsame
  case isFalse hx =>
    have hnone : sget none m.mem x = none := sget_of_not_mem fun p hp hpx => by
      subst hpx
      exact hx (List.mem_dedup.2 (List.mem_map.2 ⟨p, hp, rfl⟩))
    simp only [storedByte, hnone, Option.getD_none, ite_self]
    rfl

theorem storeMoving_has64 (hs : s.has64) (c : CoreId) (e : EngCmd) (m : Moving) : (storeMoving s c e m).has64 := by
  unfold storeMoving
  refine List.foldlRecOn (motive := State.has64) _ _ ?_ fun _ ht _ _ => ht
  exact List.foldlRecOn (motive := State.has64) _ _ (State.setCore_has64 hs c _) fun _ ht l _ => storeLine_has64 ht c e m.mem l

/-! ### What a transfer reads -/

/-- R212, R232: the state once a local transfer has read its lines. -/
def localRead (s : State) (c : CoreId) (e : EngCmd) (d : TDesc) : State :=
  let again := s.coalesce c e (repeatedReads d ((movesOf e d d.idxpol).map fun x => x.src))
  (localReads d (movesOf e d d.idxpol) ++ again.1).foldl (fun t l => t.moverRead c e l) again.2

/-- R203, R207, R222: the moves of a local transfer whose lines have been read. -/
def localMoved (s : State) (c : CoreId) (e : EngCmd) (d : TDesc) : Moving :=
  moveAll (s.core c) e d (s.moverByte c) s.moverBad

/-- R217: the state once what was moved is stored and the command is marked as having made its accesses. -/
def localStored (s : State) (c : CoreId) (e : EngCmd) (d : TDesc) : State :=
  (storeMoving s c e (localMoved s c e d)).modCore c fun k => setIssued k e.id []

theorem localAccess_eq (s : State) (c : CoreId) (e : EngCmd) (d : TDesc) : localAccess s c e d =
    if (localMoved (localRead s c e d) c e d).poison then (localStored (localRead s c e d) c e d).tmvPoison c e
    else localStored (localRead s c e d) c e d := rfl

theorem State.moverRead_lines (s : State) (c : CoreId) (e : EngCmd) (l : Nat) : LinesRead s (s.moverRead c e l) := by
  have hcount : LinesRead s (s.countMover c e 0x10 (64 * l) (s.lineTarget c (64 * l))) := .of_mem (by simp) (by simp)
  unfold State.moverRead
  dsimp only
  split
  · exact hcount
  · exact hcount.trans (.touchLineAs _ _ _ _)

theorem State.moverRead_has64 (hs : s.has64) (c : CoreId) (e : EngCmd) (l : Nat) : (s.moverRead c e l).has64 := by
  have hcount := State.countMover_has64 hs c e 0x10 (64 * l) (s.lineTarget c (64 * l))
  unfold State.moverRead
  dsimp only
  split
  · exact hcount
  · exact State.has64_of_cores hcount (by simp)

theorem State.coalesce_has64 (hs : s.has64) (c : CoreId) (e : EngCmd) (rep : List Nat) : (s.coalesce c e rep).2.has64 := by
  unfold State.coalesce
  split
  · exact (State.countCore_butPmu (State.modCore_has64 (s := s.free.2) hs c _) c _ _ _ _).1
  · exact hs

theorem localRead_lines (s : State) (c : CoreId) (e : EngCmd) (d : TDesc) : LinesRead s (localRead s c e d) :=
  .trans (.of_mem (by simp) (by simp)) (.foldl _ (fun t l => t.moverRead_lines c e l) _)

theorem localRead_has64 (hs : s.has64) (c : CoreId) (e : EngCmd) (d : TDesc) : (localRead s c e d).has64 :=
  List.foldlRecOn (motive := State.has64) _ _ (State.coalesce_has64 hs c e _) fun _ ht l _ => State.moverRead_has64 ht c e l

/-- The line of a source's byte is one of those the command reads. -/
theorem mem_moveLines {locs : List (Option Loc)} {a p i : Nat} (h : some (.mem a p) ∈ locs) (hi : i < unitBytes d.fmt) :
    (a + i) / 64 ∈ moveLines d locs := by
  have hline : (a + i) / 64 = a / 64 + ((a + i) / 64 - a / 64) := by omega
  have hrange : (a + i) / 64 - a / 64 < (a % 64 + unitBytes d.fmt + 63) / 64 := by omega
  unfold moveLines
  rw [List.mem_dedup, List.mem_insertionSort, List.mem_flatten]
  refine ⟨_, List.mem_filterMap.2 ⟨_, h, rfl⟩, List.mem_append_left _ (List.mem_map.2 ⟨_, List.mem_range.2 hrange, hline.symm⟩)⟩

/-- R231, R232: a byte of a sound line of device memory is read as it is stored. -/
theorem LinesRead.moverByte {x : Nat} (h : LinesRead s t) (hs : s.lineSound (64 * (x / 64)) = true) (ha : inAlias x = false) (c : CoreId) :
    t.moverByte c x = s.byteAt x := by
  have hline : x / 64 = 64 * (x / 64) / 64 := by omega
  rw [State.moverByte, ha, if_neg Bool.false_ne_true,
    State.seenByte_of_sound (h.lineSound hs) hline (t.populated_line hline), h.byteAt]

/-! ### A local transfer -/

theorem setIssued_issued {id : Nat} {todo : List (Nat × List (Option Byte) × Bool)} {r : TmvRun} (h : r ∈ (setIssued k id todo).t.run)
    (hid : r.cmd.id = id) : r.issued = true := by
  obtain ⟨x, -, rfl⟩ := List.mem_map.1 h
  by_cases hx : x.cmd.id = id
  · rw [if_pos hx]
  · rw [if_neg hx] at hid
    exact absurd hid hx

theorem State.setHealth_has64 (hs : s.has64) (b : Nat) : (s.setHealth b).has64 := hs

theorem State.poisonMark_has64 (hs : s.has64) (c : CoreId) : (s.poisonMark c).has64 :=
  State.setHealth_has64 (State.modCore_has64 hs c _) 3

theorem State.tmvPoison_haltFault (hs : s.has64) (c : CoreId) (e : EngCmd) : ((s.tmvPoison c e).core c).q.seq = .haltFault := by
  unfold State.tmvPoison
  exact State.engFault_haltFault (State.poisonMark_has64 hs c) e _ _

/-- R217, R222: a local transfer has made its accesses, or has stopped its core over poison. -/
theorem localAccess_ends (hs : s.has64) (c : CoreId) (e : EngCmd) (d : TDesc) : ((localAccess s c e d).core c).q.seq = .haltFault ∨
    ∀ r ∈ ((localAccess s c e d).core c).t.run, r.cmd.id = e.id → r.issued = true := by
  have hstore := storeMoving_has64 (localRead_has64 hs c e d) c e (localMoved (localRead s c e d) c e d)
  rw [localAccess_eq]
  split
  · exact .inl (State.tmvPoison_haltFault (State.modCore_has64 hstore c _) c e)
  · refine .inr fun r hr hid => ?_
    rw [localStored, State.core_modCore hstore, if_pos rfl] at hr
    exact setIssued_issued hr hid

/-- R202 to R210: memory after a local transfer holds what its moves have put. -/
theorem localAccess_byteAt (s : State) (c : CoreId) (e : EngCmd) (d : TDesc) (x : Nat) :
    (localAccess s c e d).byteAt x = storedByte (localMoved (localRead s c e d) c e d).mem (localRead s c e d) x := by
  have hstored : (localStored (localRead s c e d) c e d).byteAt x = _ := storeMoving_byteAt ..
  rw [localAccess_eq]
  split
  · exact (State.byteAt_of_bytes (by simp) x).trans hstored
  · exact hstored

/-- R202 to R210: memory changes only where a move puts an element or a plane byte. -/
theorem localAccess_misses {n : Nat} (h : ∀ x ∈ movesOf e d d.idxpol, Misses d n x) (s : State) (c : CoreId) :
    (localAccess s c e d).byteAt n = s.byteAt n := by
  rw [localAccess_byteAt, storedByte, localMoved, moveAll_misses h, Option.getD_none, ite_self, (localRead_lines s c e d).byteAt]

/-- R202, R203: an element of a scalar format whose destination no other element shares arrives as its source was. -/
theorem localAccess_copies {x : Move} {a p b q i : Nat} (hc : d.combine = 0) (hb : d.fmt.isBlock = false) (hw : d.fmt ≠ .w48)
    (hsound : ∀ l ∈ moveLines d ((movesOf e d d.idxpol).map fun x => x.src), s.lineSound (64 * l) = true)
    (hx : x ∈ movesOf e d d.idxpol) (hsrc : x.src = some (.mem a p)) (hdst : x.dst = .mem b q) (hi : i < unitBytes d.fmt)
    (hother : ∀ y ∈ movesOf e d d.idxpol, y ≠ x → ∀ b' q', y.dst = .mem b' q' → b + i < b' ∨ b' + unitBytes d.fmt ≤ b + i)
    (ha : inAlias (a + i) = false) (hstores : s.moverStores (b + i) = true) (c : CoreId) :
    (localAccess s c e d).byteAt (b + i) = s.byteAt (a + i) := by
  have hread := localRead_lines s c e d
  have hline := hsound _ (mem_moveLines (List.mem_map.2 ⟨x, hx, hsrc⟩) hi)
  rw [localAccess_byteAt, storedByte, hread.places.moverStores, hstores, if_pos rfl, localMoved,
    moveAll_puts hc hb hw hx hsrc hdst hi hother, Option.getD_some, hread.moverByte hline ha]

/-! ### The access phase -/

/-- R217, R385: a local transfer that no earlier command and no snooped line holds up runs. -/
theorem tmvAccessPhase_of_local {which : Fin 4} {r : TmvRun} (hr : (s.core c).t.run[which.val]? = some r) (hi : r.issued = false)
    (ho : r.cmd.opc ≠ 0x43) (hw : earlierWaits (s.core c).t.run (which.val + 1) = false) (hn : writeSnoops s r.cmd r.desc = []) :
    exec (.tmvAccessPhase c which [] []) s = .next (localAccess s c r.cmd r.desc) := by
  have hexec : exec (.tmvAccessPhase c which [] []) s = execTmvAccessPhase c which [] [] s := rfl
  rw [hexec, execTmvAccessPhase]
  dsimp only
  rw [hr]
  dsimp only
  rw [hi, hw, hn, if_neg Bool.false_ne_true, if_neg Bool.false_ne_true, if_neg ho]
  rfl

theorem localAccess_sameOutside (s : State) (c : CoreId) (e : EngCmd) (d : TDesc) :
    SameOutside [.cores, .hub, .err, .mem, .cke, .pwr, .pmu, .sent, .fresh] s (localAccess s c e d) := fun p hp => by
  cases p <;> simp_all [StatePart.same]

/-- Settles O18: the transfer runs (`tmvAccessPhase_of_local`), and `localAccess` ends, copies and leaves memory alone as its lemmas
say. -/
theorem moverAccessesMemory : Obligations.MoverAccessesMemory := by
  unfold Obligations.MoverAccessesMemory
  intro c which s r hs hr hi ho hw hn xs ub
  refine ⟨_, tmvAccessPhase_of_local hr hi ho hw hn, localAccess_ends hs c r.cmd r.desc, ?_, fun n hmiss => localAccess_misses hmiss s c,
    localAccess_sameOutside s c r.cmd r.desc⟩
  intro hc hb hfmt hlines x hx a p b q i hsrc hdst hiu ha _ hal hpop hother
  have hsound : ∀ l ∈ moveLines r.desc (xs.map fun x => x.src), s.lineSound (64 * l) = true := fun l hl => by
    obtain ⟨hp, hpois, herr⟩ := hlines l hl
    simp [State.lineSound, hp, hpois, herr]
  exact localAccess_copies hc hb hfmt hsound hx hsrc hdst hiu hother ha (by simp [State.moverStores, hal, hpop]) c

end Sys2Proof.Machine
end

section
/-! SUPPORT. The host's accesses to device memory (R227, R230, R385 to R389). -/

namespace Sys2Proof.Machine
variable {s t : State} {a agent : Nat}

/-! ### What befalls lines before they are read -/

/-- R231, R242: what befalls stored lines leaves their bytes and the controllers alone. -/
theorem State.hitLine_mem (s : State) (h : LineHit) :
    ∃ p b n, (s.hitLine h).mem = { s.mem with poison := p, bad := b, linkErr := n } := by
  unfold State.hitLine
  split
  · exact ⟨_, _, _, rfl⟩
  · dsimp only
    split
    · exact ⟨_, _, _, rfl⟩
    · exact ⟨_, _, _, rfl⟩
  · exact ⟨_, _, _, rfl⟩

theorem State.hitLines_mem (s : State) (hs : List LineHit) :
    ∃ p b n, (s.hitLines hs).mem = { s.mem with poison := p, bad := b, linkErr := n } := by
  induction hs generalizing s with
  | nil => exact ⟨_, _, _, rfl⟩
  | cons h hs ih =>
    obtain ⟨p, b, n, hmem⟩ := ih (s.hitLine h)
    obtain ⟨_, _, _, hhit⟩ := s.hitLine_mem h
    exact ⟨p, b, n, hmem.trans (by rw [hhit])⟩

theorem State.hitLines_bytes (s : State) (hs : List LineHit) : (s.hitLines hs).mem.bytes = s.mem.bytes := by
  obtain ⟨_, _, _, h⟩ := s.hitLines_mem hs
  rw [h]

theorem State.hitLines_die (s : State) (hs : List LineHit) (d : Nat) : (s.hitLines hs).mem.die d = s.mem.die d := by
  obtain ⟨_, _, _, h⟩ := s.hitLines_mem hs
  rw [h, Memory.die, Memory.die]

theorem State.hitLines_memReady (s : State) (hs : List LineHit) : (s.hitLines hs).memReady = s.memReady := by
  obtain ⟨_, _, _, h⟩ := s.hitLines_mem hs
  rw [State.memReady, h, State.memReady]

/-! ### With no counter of the hub enabled (R496) -/

theorem State.countHub_of_uncounted (h : s.pmu.hubCtl = 0) (ev : Nat) (hit : Nat → Bool) (n : Nat) : s.countHub ev hit n = s := by
  simp [State.countHub, h]

theorem State.raise_sent_of_uncounted (h : s.pmu.hubCtl = 0) (code : Nat) (cls : ErrClass) (i p : Nat) :
    (s.raise code cls i p).sent = s.sent := by
  unfold State.raise State.offer
  split
  · rw [State.countHub_of_uncounted (by exact h)]
  · split <;> rfl

/-- R423: a line read or written wakes its stack, and with nothing counted that is all. -/
theorem State.countLine_of_uncounted (h : s.pmu.hubCtl = 0) (w : Bool) :
    (s.countLine a w).hub = s.hub ∧ (s.countLine a w).sent = s.sent ∧ (s.countLine a w).pmu = s.pmu := by
  have hw : (s.wakeStack a).pmu = s.pmu := by simp
  unfold State.countLine
  dsimp only
  split
  · rw [State.countHub_of_uncounted (by rw [hw, h])]; simp
  · rw [State.countHub_of_uncounted (by rw [hw, h])]; simp
  · simp

/-! ### A line read -/

theorem State.populated_of_mem (hi : t.ident = s.ident) (h : t.mem = s.mem) (a : Nat) : t.populated a = s.populated a :=
  (SamePlaces.of_mem hi h).populated a

theorem State.lineErr_of_mem (h : t.mem = s.mem) (a : Nat) : t.lineErr a = s.lineErr a := by
  rw [State.lineErr, h, State.lineErr]

theorem State.countLine_populated (s : State) (w : Bool) (b : Nat) : (s.countLine a w).populated b = s.populated b :=
  State.populated_of_mem (by simp) (by simp) b

theorem State.countLine_poisoned (s : State) (w : Bool) (b : Nat) : (s.countLine a w).poisoned b = s.poisoned b :=
  State.poisoned_of_mem (by simp) b

theorem State.countLine_lineErr (s : State) (w : Bool) (b : Nat) : (s.countLine a w).lineErr b = s.lineErr b :=
  State.lineErr_of_mem (by simp) b

/-- R227: a hole is read as poisoned. -/
theorem State.touchLine_of_hole (h : s.populated a = false) :
    s.touchLine a agent = (true, { (s.countLine a false).noteHole a agent with fresh := (s.countLine a false).fresh + 1 }) := by
  simp [State.touchLine, State.touchLineAs, State.countLine_populated, h, State.noteHole]

/-- R234: a poisoned line is read as poisoned. -/
theorem State.touchLine_of_poisoned (hp : s.populated a = true) (h : s.poisoned a = true) :
    s.touchLine a agent =
      (true, { (s.countLine a false).notePoison a agent with fresh := (s.countLine a false).fresh + 1 }) := by
  simp [State.touchLine, State.touchLineAs, State.countLine_populated, State.countLine_poisoned, hp, h]

/-- R232: a sound line is delivered, and nothing but the access is noted. -/
theorem State.touchLine_of_sound (h : s.lineSound a = true) : s.touchLine a agent = (false, s.countLine a false) := by
  simp only [State.lineSound, Bool.and_eq_true, decide_eq_true_eq, Bool.not_eq_true'] at h
  obtain ⟨⟨hpop, hpois⟩, herr⟩ := h
  simp [State.touchLine, State.touchLineAs, State.countLine_populated, State.countLine_poisoned, hpop, hpois, State.checkLine,
    State.countLine_lineErr, herr, State.verdict_none]

theorem State.notePoison_sent_of_uncounted (h : s.pmu.hubCtl = 0) : (s.notePoison a agent).sent = s.sent := by
  have hr := State.raise_sent_of_uncounted h 0x0703 .d (s.memInst a) (addrPayload (a / 64 * 64) agent (s.memPlaceNo a))
  unfold State.notePoison
  dsimp only
  split <;> split <;> simp [hr]

/-- R227, R234: a line that gives no data is answered as poisoned, and nothing else is sent. -/
theorem State.touchLine_of_lost (hctl : s.pmu.hubCtl = 0) (h : s.populated a = false ∨ s.poisoned a = true) :
    (s.touchLine a agent).1 = true ∧ (s.touchLine a agent).2.sent = s.sent := by
  obtain ⟨_, hsent, hpmu⟩ := State.countLine_of_uncounted (a := a) hctl false
  have hctl' : (s.countLine a false).pmu.hubCtl = 0 := by rw [hpmu, hctl]
  by_cases hp : s.populated a = true
  · rw [State.touchLine_of_poisoned hp (h.resolve_left (by simp [hp]))]
    exact ⟨rfl, (State.notePoison_sent_of_uncounted hctl').trans hsent⟩
  · rw [State.touchLine_of_hole (Bool.eq_false_iff.2 hp)]
    exact ⟨rfl, (State.raise_sent_of_uncounted hctl' _ _ _ _).trans hsent⟩

/-! ### The snoop filter (R385) -/

theorem State.fillSnoop_contains (s : State) (l : Nat) : (s.fillSnoop l).hub.snoop.contains l = true := by
  unfold State.fillSnoop
  split
  case isTrue h => exact h
  case isFalse => simp

/-! ### The host's read -/

/-- R386, R389: the host reads a line of memory that is ready. -/
def State.hostReads (s : State) (l : Nat) (keep : Bool) : State :=
  let r := s.touchLine (64 * l) 0
  let t := r.2.emit (.memData l (r.2.bytesAt (64 * l) 64) r.1)
  if keep && s.populated (64 * l) then t.fillSnoop l else t

theorem State.hostReads_mem (s : State) (l : Nat) (keep : Bool) : (s.hostReads l keep).mem = (s.touchLine (64 * l) 0).2.mem := by
  unfold State.hostReads
  dsimp only
  split <;> simp

theorem State.hostReads_err (s : State) (l : Nat) (keep : Bool) : (s.hostReads l keep).err = (s.touchLine (64 * l) 0).2.err := by
  unfold State.hostReads
  dsimp only
  split <;> simp

theorem State.hostReads_uncached (s : State) (l : Nat) : s.hostReads l false =
    (s.touchLine (64 * l) 0).2.emit (.memData l ((s.touchLine (64 * l) 0).2.bytesAt (64 * l) 64) (s.touchLine (64 * l) 0).1) := rfl

theorem State.hostReads_cached {l : Nat} (h : s.populated (64 * l) = true) : (s.hostReads l true).hub.snoop.contains l = true := by
  unfold State.hostReads
  dsimp only
  rw [h, Bool.and_self, if_pos rfl]
  exact State.fillSnoop_contains _ _

section read
variable {line : BitVec 39} {keep : Bool} {hits : List LineHit}

theorem execCxlMemRead_of_down (h : s.hub.linkUp = false) : execCxlMemRead line keep hits s = .next (s.hitLines hits) := by
  simp [execCxlMemRead, h]

/-- What befalls lines, and the access counted. -/
def State.beforeRead (s : State) (hits : List LineHit) : State := (s.hitLines hits).countHub 5 (maskBit 0) 1


theorem State.beforeRead_mem (s : State) (hits : List LineHit) : (s.beforeRead hits).mem = (s.hitLines hits).mem := by
  simp [State.beforeRead]

theorem State.beforeRead_of_uncounted (h : s.pmu.hubCtl = 0) : s.beforeRead hits = s.hitLines hits :=
  State.countHub_of_uncounted (by simp [h]) ..

theorem HubKept.hdmCommitted (h : HubKept s t) : t.hub.hdmCommitted = s.hub.hdmCommitted := by
  obtain ⟨_, _, _, _, _, h⟩ := h
  rw [h]

theorem State.beforeRead_hdmCommitted (s : State) (hits : List LineHit) :
    (s.beforeRead hits).hub.hdmCommitted = s.hub.hdmCommitted :=
  (State.countHub_hub _ _ _ _).hdmCommitted.trans (by simp)

theorem State.beforeRead_offline (s : State) (hits : List LineHit) : (s.beforeRead hits).err.offline = s.err.offline := by
  simp [State.beforeRead]

theorem State.beforeRead_memReady (s : State) (hits : List LineHit) : (s.beforeRead hits).memReady = s.memReady := by
  rw [State.memReady, State.beforeRead_mem]
  exact s.hitLines_memReady hits

/-- R386, R484: before the decoder is committed, and while OFFLINE, no data are given. -/
theorem execCxlMemRead_of_closed (hl : s.hub.linkUp = true) (h : s.hub.hdmCommitted = false ∨ s.err.offline = true) :
    execCxlMemRead line keep hits s = .next ((s.beforeRead hits).answerPoison line.toNat) := by
  have hclosed : (!(s.beforeRead hits).hub.hdmCommitted || (s.beforeRead hits).err.offline) = true := by
    rw [State.beforeRead_hdmCommitted, State.beforeRead_offline]
    simpa using h
  rw [execCxlMemRead]
  dsimp only
  rw [if_neg (by simp [hl])]
  exact if_pos hclosed

theorem execCxlMemRead_of_open (hl : s.hub.linkUp = true) (hc : s.hub.hdmCommitted = true) (ho : s.err.offline = false) :
    execCxlMemRead line keep hits s = .next (if s.memReady then (s.beforeRead hits).hostReads line.toNat keep
      else ((s.beforeRead hits).noteNotReady (64 * line.toNat)).answerPoison line.toNat) := by
  have hopen : (!(s.beforeRead hits).hub.hdmCommitted || (s.beforeRead hits).err.offline) = false := by
    rw [State.beforeRead_hdmCommitted, State.beforeRead_offline, hc, ho]
    rfl
  rw [execCxlMemRead, ← State.beforeRead_memReady s hits]
  dsimp only
  rw [if_neg (by simp [hl])]
  refine (if_neg (by rw [Bool.not_eq_true]; exact hopen)).trans ?_
  by_cases hr : (s.beforeRead hits).memReady = true
  · rw [if_pos hr]
    exact if_neg (by rw [Bool.not_eq_true, Bool.not_eq_false']; exact hr)
  · rw [if_neg hr]
    exact if_pos (by rw [Bool.not_eq_true']; exact Bool.eq_false_iff.2 hr)

/-- R389: a read changes no byte. -/
theorem execCxlMemRead_bytes : (resultOf s (execCxlMemRead line keep hits s)).mem.bytes = s.mem.bytes := by
  have hb : (s.beforeRead hits).mem.bytes = s.mem.bytes := by rw [State.beforeRead_mem, State.hitLines_bytes]
  by_cases hl : s.hub.linkUp = true
  · by_cases hc : s.hub.hdmCommitted = false ∨ s.err.offline = true
    · rw [execCxlMemRead_of_closed hl hc, resultOf_next]
      exact hb
    · obtain ⟨hd, ho⟩ := not_or.1 hc
      rw [execCxlMemRead_of_open hl (Bool.not_eq_false _ ▸ hd) (Bool.not_eq_true _ ▸ ho), resultOf_next]
      split
      · rw [State.hostReads_mem]
        exact (LinesRead.touchLineAs _ _ _ _).bytes.trans hb
      · simpa [State.answerPoison, State.noteNotReady] using hb
  · rw [execCxlMemRead_of_down (Bool.eq_false_iff.2 hl), resultOf_next, State.hitLines_bytes]

/-- R232, R385: a sound line is answered as it is stored. -/
theorem State.hostReads_of_sound {l : Nat} (hctl : s.pmu.hubCtl = 0) (h : s.lineSound (64 * l) = true) :
    (s.hostReads l keep).mem = s.mem ∧ (s.hostReads l keep).err = s.err ∧
    (keep = false → (s.hostReads l keep).hub = s.hub ∧
      (s.hostReads l keep).sent = s.sent ++ [.memData l ((List.range 64).map fun i => s.byteAt (64 * l + i)) false]) ∧
    (keep = true → (s.hostReads l keep).hub.snoop.contains l = true) := by
  obtain ⟨hhub, hsent, _⟩ := State.countLine_of_uncounted (a := 64 * l) hctl false
  have hread := LinesRead.countLine s (64 * l) false
  have hbytes : (s.countLine (64 * l) false).bytesAt (64 * l) 64 = (List.range 64).map fun i => s.byteAt (64 * l + i) := by
    rw [State.bytesAt_of_sound (by omega) rfl fun i hi => ?_]
    · simp only [hread.byteAt]
    · rw [show i = 0 by omega]
      exact hread.lineSound h
  refine ⟨?_, ?_, fun hk => ?_, fun hk => ?_⟩
  · rw [State.hostReads_mem, State.touchLine_of_sound h]
    simp
  · rw [State.hostReads_err, State.touchLine_of_sound h]
    simp
  · subst hk
    rw [State.hostReads_uncached, State.touchLine_of_sound h]
    exact ⟨hhub, by rw [State.emit_sent, hsent, hbytes]⟩
  · subst hk
    simp only [State.lineSound, Bool.and_eq_true] at h
    exact State.hostReads_cached h.1.1

/-- R227, R234: a line that gives no data is answered as poisoned. -/
theorem State.hostReads_of_lost {l : Nat} (hctl : s.pmu.hubCtl = 0)
    (h : s.populated (64 * l) = false ∨ s.poisoned (64 * l) = true) :
    ∃ bs, bs.length = 64 ∧ (s.hostReads l false).sent = s.sent ++ [.memData l bs true] := by
  obtain ⟨hbad, hsent⟩ := State.touchLine_of_lost (agent := 0) hctl h
  refine ⟨(s.touchLine (64 * l) 0).2.bytesAt (64 * l) 64, by simp [State.bytesAt], ?_⟩
  rw [State.hostReads_uncached, State.emit_sent, hsent, hbad]

theorem execCxlMemRead_sameOutside : SameOutside [.hub, .err, .mem, .cke, .pwr, .pmu, .sent, .fresh] s
    (resultOf s (execCxlMemRead line keep hits s)) := fun p hp => by
  have hframe := execCxlMemRead_frame line keep hits s
  cases p <;> simp_all [StatePart.same]

/-- R386 to R389: the host's read while the link is up. -/
theorem cxlMemRead_of_up (hl : s.hub.linkUp = true) : ∃ t, exec (.cxlMemRead line keep hits) s = .next t ∧
    (∀ x, t.byteAt x = s.byteAt x) ∧
    ((s.hub.hdmCommitted = false ∨ s.err.offline = true) → s.pmu.hubCtl = 0 →
      t.sent = s.sent ++ [.memData line.toNat (List.replicate 64 0) true] ∧ t.mem = (s.hitLines hits).mem) ∧
    (s.hub.hdmCommitted = true → s.err.offline = false → s.memReady = true → s.pmu.hubCtl = 0 →
      t = (s.hitLines hits).hostReads line.toNat keep) ∧
    SameOutside [.hub, .err, .mem, .cke, .pwr, .pmu, .sent, .fresh] s t := by
  refine ⟨_, execCxlMemRead_completes line keep hits s, State.byteAt_of_bytes execCxlMemRead_bytes, fun h hctl => ?_,
    fun hc ho hr hctl => ?_, execCxlMemRead_sameOutside⟩
  · rw [execCxlMemRead_of_closed hl h, resultOf_next, State.beforeRead_of_uncounted hctl]
    exact ⟨by simp [State.answerPoison], rfl⟩
  · rw [execCxlMemRead_of_open hl hc ho, resultOf_next, if_pos hr, State.beforeRead_of_uncounted hctl]

end read

/-! ### The host's write -/

/-- R230, R233, R389: the host writes a line of memory that is ready. -/
def State.hostWrites (s : State) (l : Nat) (data : List Byte) (mask : Word64) (poison keep : Bool) : State :=
  let t := s.writeMasked 0 (64 * l) data mask.toNat
  let u := if poison && s.populated (64 * l) then t.setPoison (64 * l) true else t
  if keep || !s.populated (64 * l) then u else { u with hub.snoop := u.hub.snoop.erase l }

theorem HubKept.snoop (h : HubKept s t) : t.hub.snoop = s.hub.snoop := by
  obtain ⟨_, _, _, _, _, h⟩ := h
  rw [h]

theorem State.noteCe_hub (s : State) (a agent : Nat) : HubKept s (s.noteCe a agent) := by
  have hr := s.raise_hub 0x0701 .c (s.memInst a) (addrPayload (a / 64 * 64) agent (s.memPlaceNo a))
  unfold State.noteCe
  dsimp only
  split
  · exact hr.trans (.of_hub (by simp))
  · exact hr

theorem State.noteUe_hub (s : State) (code a agent : Nat) : HubKept s (s.noteUe code a agent) := by
  have hr := s.raise_hub code .d (s.memInst a) (addrPayload (a / 64 * 64) agent (s.memPlaceNo a))
  unfold State.noteUe
  dsimp only
  split
  · exact hr.trans (.of_hub (by simp))
  · exact hr

theorem State.checkLine_hub (s : State) (code a agent : Nat) : HubKept s (s.checkLine code a agent) := by
  unfold State.checkLine
  split
  case h_1 => exact .refl s
  case h_2 => exact (s.noteCe_hub a agent).trans (.of_hub rfl)
  case h_3 => exact (s.noteUe_hub code a agent).trans (.of_hub rfl)
  case h_4 => exact .of_hub rfl
  case h_5 => exact (s.noteCe_hub a agent).trans (.of_hub rfl)

theorem State.touchLineQuiet_hub (s : State) (a agent : Nat) : HubKept s (s.touchLineQuiet a agent) := by
  unfold State.touchLineQuiet
  split
  · exact .refl s
  · exact s.checkLine_hub _ a agent

theorem State.writeMasked_hub (s : State) (agent a : Nat) (bs : List Byte) (mask : Nat) :
    HubKept s (s.writeMasked agent a bs mask) := by
  have hc := s.countLine_hub a true
  unfold State.writeMasked
  dsimp only
  split
  · exact hc.trans (State.raise_hub _ _ _ _ _)
  · split
    · exact hc.trans (.of_hub rfl)
    · exact hc.trans ((State.touchLineQuiet_hub _ _ _).trans (.foldl _ (fun (t : State) (r : Nat × Byte) => t.storeBytes r.1 [r.2]) (fun _ _ => .of_hub rfl) _))

/-- R227: a write into a hole is discarded. -/
theorem State.hostWrites_of_hole {l : Nat} {data : List Byte} {mask : Word64} {poison keep : Bool}
    (h : s.populated (64 * l) = false) : (s.hostWrites l data mask poison keep).mem = s.mem := by
  have hw : s.writeMasked 0 (64 * l) data mask.toNat = (s.countLine (64 * l) true).noteHole (64 * l) 0 := by
    rw [State.writeMasked, State.countLine_populated, h]
    rfl
  rw [State.hostWrites, h, hw]
  simp [State.noteHole]

section write
variable {l : Nat} {line : BitVec 39} {data : List Byte} {mask : Word64} {poison keep : Bool}

theorem State.countHub_populated {ev n : Nat} {hit : Nat → Bool} (s : State) (a : Nat) :
    (s.countHub ev hit n).populated a = s.populated a := State.populated_of_mem (by simp) (by simp) a

theorem State.hostWrites_bytes (s : State) (l : Nat) (data : List Byte) (mask : Word64) (poison keep : Bool) :
    (s.hostWrites l data mask poison keep).mem.bytes = (s.writeMasked 0 (64 * l) data mask.toNat).mem.bytes := by
  unfold State.hostWrites
  dsimp only
  split <;> split <;> rfl

/-- R230: the bytes the mask names are stored, and no other. -/
theorem State.hostWrites_byteAt (h : s.populated (64 * l) = true) (x : Nat) :
    (s.hostWrites l data mask poison keep).byteAt x =
      if 64 * l ≤ x ∧ x < 64 * l + 64 ∧ mask.getLsbD (x - 64 * l) = true then data.getD (x - 64 * l) 0 else s.byteAt x := by
  rw [State.byteAt_of_bytes (s.hostWrites_bytes ..), State.writeMasked_byteAt h, bitAt_toNat]

theorem State.hostWrites_outside {x : Nat} (hx : x < 64 * l ∨ 64 * l + 64 ≤ x) :
    (s.hostWrites l data mask poison keep).byteAt x = s.byteAt x := by
  by_cases h : s.populated (64 * l) = true
  · rw [State.hostWrites_byteAt h, if_neg (by omega)]
  · exact State.byteAt_of_bytes (congrArg Memory.bytes (State.hostWrites_of_hole (Bool.eq_false_iff.2 h))) x

/-- R233: a full write leaves the line poisoned exactly if it carries poison. -/
theorem State.hostWrites_poisoned (h : s.populated (64 * l) = true) :
    (s.hostWrites l data (BitVec.allOnes 64) poison keep).poisoned (64 * l) = poison := by
  have hclear : (s.writeMasked 0 (64 * l) data (BitVec.allOnes 64).toNat).poisoned (64 * l) = false := by
    rw [State.writeMasked, State.countLine_populated, h, if_neg (by simp), if_pos (by decide), State.poisoned_storeBytes, State.poisoned_setLineErr,
      State.poisoned_setPoison, if_pos rfl]
  have hset : ∀ t : State, t.poisoned (64 * l) = false →
      (if poison then t.setPoison (64 * l) true else t).poisoned (64 * l) = poison := fun t ht => by
    cases poison
    · exact ht
    · exact (State.poisoned_setPoison ..).trans (if_pos rfl)
  rw [State.hostWrites, h]
  dsimp only
  rw [Bool.and_true]
  split
  · exact hset _ hclear
  · exact hset _ hclear

/-- R385: a host that keeps no copy is taken out of the snoop filter. -/
theorem State.hostWrites_snoop (h : s.populated (64 * l) = true) :
    (s.hostWrites l data mask poison false).hub.snoop = s.hub.snoop.erase l := by
  have hw := (s.writeMasked_hub 0 (64 * l) data mask.toNat).snoop
  rw [State.hostWrites, h, if_neg (by simp), ← hw]
  dsimp only
  split
  · rfl
  · rfl

theorem execCxlMemWrite_of_down (h : s.hub.linkUp = false) : execCxlMemWrite line data mask poison keep s = .next s := by
  simp [execCxlMemWrite, h]

/-- R386, R387, R484: a write that is not accepted changes nothing in memory. -/
theorem execCxlMemWrite_of_closed
    (h : s.hub.hdmCommitted = false ∨ s.err.offline = true ∨ s.memReady = false) :
    (resultOf s (execCxlMemWrite line data mask poison keep s)).mem = s.mem := by
  have hd := (s.countHub_hub 5 (maskBit 1) 1).hdmCommitted
  have hr : (s.countHub 5 (maskBit 1) 1).memReady = s.memReady := by simp [State.memReady]
  unfold execCxlMemWrite
  dsimp only
  split
  case isTrue => rfl
  case isFalse =>
    split
    case isTrue => simp
    case isFalse hopen =>
      have hready : s.memReady = false := by simp_all
      rw [if_pos (by simp [hr, hready])]
      simp [State.noteNotReady]

theorem execCxlMemWrite_of_open (hl : s.hub.linkUp = true) (hc : s.hub.hdmCommitted = true) (ho : s.err.offline = false)
    (hm : s.memReady = true) : execCxlMemWrite line data mask poison keep s =
      .next ((s.countHub 5 (maskBit 1) 1).hostWrites line.toNat data mask poison keep) := by
  have hd := (s.countHub_hub 5 (maskBit 1) 1).hdmCommitted
  have hr : (s.countHub 5 (maskBit 1) 1).memReady = s.memReady := by simp [State.memReady]
  rw [execCxlMemWrite]
  dsimp only
  rw [if_neg (by simp [hl]), if_neg (by simp [hd, hc, ho]), if_neg (by simp [hr, hm])]
  rfl

theorem execCxlMemWrite_sameOutside : SameOutside [.hub, .err, .mem, .pwr, .pmu, .sent, .fresh] s
    (resultOf s (execCxlMemWrite line data mask poison keep s)) := fun p hp => by
  have hframe := execCxlMemWrite_frame line data mask poison keep s
  cases p <;> simp_all [StatePart.same]

/-- R230, R389: a write changes bytes of its line alone. -/
theorem execCxlMemWrite_outside {x : Nat} (hx : x < 64 * line.toNat ∨ 64 * line.toNat + 64 ≤ x) :
    (resultOf s (execCxlMemWrite line data mask poison keep s)).byteAt x = s.byteAt x := by
  by_cases hl : s.hub.linkUp = true
  · by_cases hc : s.hub.hdmCommitted = false ∨ s.err.offline = true ∨ s.memReady = false
    · exact State.byteAt_of_bytes (congrArg Memory.bytes (execCxlMemWrite_of_closed hc)) x
    · obtain ⟨hd, ho, hm⟩ : s.hub.hdmCommitted = true ∧ s.err.offline = false ∧ s.memReady = true := by simpa using hc
      rw [execCxlMemWrite_of_open hl hd ho hm, resultOf_next, State.hostWrites_outside hx]
      exact State.byteAt_of_bytes (by simp) x
  · rw [execCxlMemWrite_of_down (Bool.eq_false_iff.2 hl), resultOf_next]

/-- R227, R386, R387, R484: a write that is not accepted changes nothing in memory. -/
theorem execCxlMemWrite_refused
    (h : s.hub.hdmCommitted = false ∨ s.err.offline = true ∨ s.memReady = false ∨ s.populated (64 * line.toNat) = false) :
    (resultOf s (execCxlMemWrite line data mask poison keep s)).mem = s.mem := by
  by_cases hc : s.hub.hdmCommitted = false ∨ s.err.offline = true ∨ s.memReady = false
  · exact execCxlMemWrite_of_closed hc
  · obtain ⟨hd, ho, hm⟩ : s.hub.hdmCommitted = true ∧ s.err.offline = false ∧ s.memReady = true := by simpa using hc
    have hhole : (s.countHub 5 (maskBit 1) 1).populated (64 * line.toNat) = false := by
      rw [State.countHub_populated]
      simpa [hd, ho, hm] using h
    by_cases hl : s.hub.linkUp = true
    · rw [execCxlMemWrite_of_open hl hd ho hm, resultOf_next, State.hostWrites_of_hole hhole]
      simp
    · rw [execCxlMemWrite_of_down (Bool.eq_false_iff.2 hl), resultOf_next]

/-- R230, R233, R385: an accepted write of a populated line. -/
theorem execCxlMemWrite_accepted (hl : s.hub.linkUp = true) (hc : s.hub.hdmCommitted = true) (ho : s.err.offline = false)
    (hm : s.memReady = true) (hp : s.populated (64 * line.toNat) = true) :
    (∀ i < 64, (resultOf s (execCxlMemWrite line data mask poison keep s)).byteAt (64 * line.toNat + i) =
      if mask.getLsbD i then data.getD i 0 else s.byteAt (64 * line.toNat + i)) ∧
    (mask = BitVec.allOnes 64 → (resultOf s (execCxlMemWrite line data mask poison keep s)).poisoned (64 * line.toNat) = poison) ∧
    (keep = false → (resultOf s (execCxlMemWrite line data mask poison keep s)).hub.snoop = s.hub.snoop.erase line.toNat) := by
  have hp' := (State.countHub_populated (ev := 5) (hit := maskBit 1) (n := 1) s (64 * line.toNat)).trans hp
  rw [execCxlMemWrite_of_open hl hc ho hm, resultOf_next]
  refine ⟨fun i hi => ?_, fun hfull => ?_, fun hk => ?_⟩
  · rw [State.hostWrites_byteAt hp', Nat.add_sub_cancel_left]
    exact if_congr ⟨fun h => h.2.2, fun h => ⟨by omega, by omega, h⟩⟩ rfl (State.byteAt_of_bytes (by simp) _)
  · rw [hfull, State.hostWrites_poisoned hp']
  · rw [hk, State.hostWrites_snoop hp', (State.countHub_hub _ _ _ _).snoop]

end write

/-- Settles O41: the read by `execCxlMemRead_of_open` and `State.hostReads`, the write by `State.hostWrites`. -/
theorem hostAccessesDeviceMemory : Obligations.HostAccessesDeviceMemory := by
  unfold Obligations.HostAccessesDeviceMemory
  intro l b hits data mask poison s
  refine ⟨fun hl => ⟨execCxlMemRead_of_down hl, execCxlMemWrite_of_down hl⟩, fun hl => ⟨?read, ?write⟩⟩
  case read =>
    obtain ⟨t, hexec, hbyte, hclosed, hopen, hframe⟩ := cxlMemRead_of_up (keep := b) (hits := hits) (line := l) hl
    refine ⟨t, hexec, hbyte, hclosed, fun hc ho hm hp hpois herr hctl => ?_, fun hc ho hm hlost hctl hb => ?_, hframe⟩
    · have hsound : (s.hitLines hits).lineSound (64 * l.toNat) = true := by simp [State.lineSound, hp, hpois, herr]
      obtain ⟨hmem, herr', hdrop, hkeep⟩ := State.hostReads_of_sound (keep := b) (by simpa using hctl) hsound
      rw [hopen hc ho hm hctl]
      refine ⟨hmem, herr'.trans (by simp), fun hb => ⟨?_, (hdrop hb).1.trans (by simp)⟩, hkeep⟩
      rw [(hdrop hb).2]
      simp only [State.byteAt_of_bytes (s.hitLines_bytes hits), State.hitLines_frame]
    · obtain ⟨bs, hlen, hsent⟩ := State.hostReads_of_lost (by simpa using hctl) hlost
      refine ⟨bs, hlen, ?_⟩
      rw [hopen hc ho hm hctl, hb, hsent]
      simp
  case write =>
    refine ⟨_, execCxlMemWrite_completes l data mask poison b s, fun x => execCxlMemWrite_outside, execCxlMemWrite_refused,
      fun hc ho hm hpop => ?_, execCxlMemWrite_sameOutside⟩
    obtain ⟨hbytes, hpois, hsnoop⟩ := execCxlMemWrite_accepted (data := data) (mask := mask) (poison := poison) (keep := b)
      hl hc ho hm (hpop 0 (by decide))
    refine ⟨hbytes, hpois, fun hb hnodup => ?_⟩
    rw [hsnoop hb]
    simpa using hnodup.not_mem_erase

end Sys2Proof.Machine
end

section
/-! SUPPORT. Scrubbing, failed stacks and failed tier-2 ports (R231, R232, R235, R238, R240). -/

namespace Sys2Proof.Machine
variable {s t u : State} {a b agent : Nat}

/-! ### What noting an error leaves alone -/

/-- R232, R234: the marks of the lines and the scrubbers' places are as they were. -/
structure OnlyNoted (s t : State) : Prop where
  bad : t.mem.bad = s.mem.bad
  poison : t.mem.poison = s.mem.poison
  scrubT : ∀ d, (t.mem.die d).scrubT = (s.mem.die d).scrubT
  passes : ∀ d, (t.mem.die d).passes = (s.mem.die d).passes

theorem State.die_setDie (s : State) (d : Nat) (x : DieMem) (e : Nat) :
    (s.setDie d x).mem.die e = if (e = 0 ↔ d = 0) then x else s.mem.die e := by
  unfold State.setDie Memory.die
  by_cases hd : d = 0
  · by_cases he : e = 0 <;> simp [hd, he]
  · by_cases he : e = 0 <;> simp [hd, he]

theorem Memory.die_congr {m : Memory} {d e : Nat} (h : e = 0 ↔ d = 0) : m.die e = m.die d := by
  simp only [Memory.die, h]

namespace OnlyNoted

theorem trans (h : OnlyNoted s t) (h' : OnlyNoted t u) : OnlyNoted s u :=
  ⟨h'.bad.trans h.bad, h'.poison.trans h.poison, fun d => (h'.scrubT d).trans (h.scrubT d), fun d => (h'.passes d).trans (h.passes d)⟩

theorem of_mem (h : t.mem = s.mem) : OnlyNoted s t := ⟨by rw [h], by rw [h], fun d => by rw [h], fun d => by rw [h]⟩

theorem setDie {d : Nat} {x : DieMem} (ht : x.scrubT = (s.mem.die d).scrubT) (hp : x.passes = (s.mem.die d).passes) :
    OnlyNoted s (s.setDie d x) := by
  refine ⟨State.setDie_bad .., State.setDie_poison .., fun e => ?_, fun e => ?_⟩
  · rw [State.die_setDie]
    split
    case isTrue he => rw [ht, Memory.die_congr he]
    case isFalse => rfl
  · rw [State.die_setDie]
    split
    case isTrue he => rw [hp, Memory.die_congr he]
    case isFalse => rfl

theorem raise (s : State) (code : Nat) (cls : ErrClass) (i p : Nat) : OnlyNoted s (s.raise code cls i p) := of_mem (by simp)

theorem noteCe (s : State) (a agent : Nat) : OnlyNoted s (s.noteCe a agent) := by
  have h1 := raise s 0x0701 .c (s.memInst a) (addrPayload (a / 64 * 64) agent (s.memPlaceNo a))
  unfold State.noteCe
  split
  · exact h1.trans (setDie rfl rfl)
  · exact h1

theorem noteUe (s : State) (code a agent : Nat) : OnlyNoted s (s.noteUe code a agent) := by
  have h1 := raise s code .d (s.memInst a) (addrPayload (a / 64 * 64) agent (s.memPlaceNo a))
  unfold State.noteUe
  split
  · exact h1.trans (setDie rfl rfl)
  · exact h1

theorem notePoison (s : State) (a agent : Nat) : OnlyNoted s (s.notePoison a agent) := by
  have h1 := raise s 0x0703 .d (s.memInst a) (addrPayload (a / 64 * 64) agent (s.memPlaceNo a))
  have hhealth : ∀ t : State, OnlyNoted t (if agentSetsHealth agent then t.setHealth 3 else t) := fun t => by
    split
    · exact of_mem rfl
    · exact of_mem rfl
  unfold State.notePoison
  refine trans ?_ (hhealth _)
  split
  · exact h1.trans (setDie rfl rfl)
  · exact h1.trans ⟨rfl, rfl, fun _ => rfl, fun _ => rfl⟩
  · exact h1

theorem lineErr (h : OnlyNoted s t) (b : Nat) : t.lineErr b = s.lineErr b := by rw [State.lineErr, h.bad, State.lineErr]

theorem poisoned (h : OnlyNoted s t) (b : Nat) : t.poisoned b = s.poisoned b := by rw [State.poisoned, h.poison, State.poisoned]

end OnlyNoted

/-! ### One line read -/

/-- R232, R235: what reading a line leaves alone: the marks of every other line and the scrubbers' places. -/
structure OtherLinesKept (a : Nat) (s t : State) : Prop where
  lineErr : ∀ b, b / 64 ≠ a / 64 → t.lineErr b = s.lineErr b
  poisoned : ∀ b, b / 64 ≠ a / 64 → t.poisoned b = s.poisoned b
  scrubT : ∀ d, (t.mem.die d).scrubT = (s.mem.die d).scrubT
  passes : ∀ d, (t.mem.die d).passes = (s.mem.die d).passes

namespace OtherLinesKept

theorem trans (h : OtherLinesKept a s t) (h' : OtherLinesKept a t u) : OtherLinesKept a s u :=
  ⟨fun b hb => (h'.lineErr b hb).trans (h.lineErr b hb), fun b hb => (h'.poisoned b hb).trans (h.poisoned b hb),
    fun d => (h'.scrubT d).trans (h.scrubT d), fun d => (h'.passes d).trans (h.passes d)⟩

theorem of_noted (h : OnlyNoted s t) : OtherLinesKept a s t := ⟨fun b _ => h.lineErr b, fun b _ => h.poisoned b, h.scrubT, h.passes⟩

theorem of_mem (h : t.mem = s.mem) : OtherLinesKept a s t := .of_noted (.of_mem h)

theorem setLineErr (s : State) (a : Nat) (e : LineErr) : OtherLinesKept a s (s.setLineErr a e) :=
  ⟨fun b hb => (State.lineErr_setLineErr s a e b).trans (if_neg hb), fun _ _ => rfl, fun _ => rfl, fun _ => rfl⟩

theorem setPoison (s : State) (a : Nat) (p : Bool) : OtherLinesKept a s (s.setPoison a p) :=
  ⟨fun _ _ => rfl, fun b hb => (State.poisoned_setPoison s a p b).trans (if_neg hb), fun _ => rfl, fun _ => rfl⟩

theorem checkLine (s : State) (code a agent : Nat) : OtherLinesKept a s (s.checkLine code a agent) := by
  unfold State.checkLine
  split
  case h_1 => exact of_mem rfl
  case h_2 => exact (of_noted (.noteCe s a agent)).trans (setLineErr ..)
  case h_3 => exact (of_noted (.noteUe s code a agent)).trans ((setLineErr ..).trans (setPoison ..))
  case h_4 => exact (setLineErr s a _).trans (of_mem rfl)
  case h_5 => exact (of_noted (.noteCe s a agent)).trans ((setLineErr ..).trans (of_mem rfl))

theorem touchLineAs (s : State) (code a agent : Nat) : OtherLinesKept a s (s.touchLineAs code a agent).2 := by
  have hc : OtherLinesKept a s (s.countLine a false) := of_mem (by simp)
  have hfresh : ∀ (t : State) (n : Nat), OtherLinesKept a t { t with fresh := n } := fun t n => of_mem rfl
  unfold State.touchLineAs
  dsimp only
  split
  · exact hc.trans ((of_noted (.raise _ _ _ _ _)).trans (hfresh _ _))
  · split
    · exact hc.trans ((of_noted (.notePoison _ _ _)).trans (hfresh _ _))
    · split
      · exact hc.trans ((checkLine _ _ _ _).trans ((of_noted (.notePoison _ _ _)).trans (hfresh _ _)))
      · exact hc.trans (checkLine _ _ _ _)

end OtherLinesKept

/-- R231, R232, R235: what is corrected, and what is poisoned, where a line was read. -/
def LineScrubbed (a : Nat) (s t : State) : Prop :=
  s.populated a = true → s.poisoned a = false →
    ((s.lineErr a).symbols ≤ 3 → (t.lineErr a).symbols = 0 ∧ t.poisoned a = false) ∧
    (3 < (s.lineErr a).symbols → (s.lineErr a).symbols ≤ 5 → t.poisoned a = true)

theorem LineErr.symbols_corrected (b : Bool) : ({ LineErr.none with und := b } : LineErr).symbols = 0 := by
  cases b <;> decide

theorem State.checkLine_scrubs (s : State) (code a agent : Nat) (hp : s.poisoned a = false) :
    ((s.lineErr a).symbols ≤ 3 → ((s.checkLine code a agent).lineErr a).symbols = 0 ∧ (s.checkLine code a agent).poisoned a = false) ∧
    (3 < (s.lineErr a).symbols → (s.lineErr a).symbols ≤ 5 → (s.checkLine code a agent).poisoned a = true) := by
  refine ⟨fun h3 => ?_, fun h3 h5 => ?_⟩
  · by_cases h0 : (s.lineErr a).symbols = 0
    · have hv : s.verdict (s.lineErr a) = .clean := if_pos h0
      rw [State.checkLine, hv]
      exact ⟨h0, hp⟩
    · have hv : s.verdict (s.lineErr a) = .corrected := (if_neg h0).trans (if_pos h3)
      rw [State.checkLine, hv]
      refine ⟨?_, ?_⟩
      · rw [State.lineErr_setLineErr, if_pos rfl, LineErr.symbols_corrected]
      · rw [State.poisoned_setLineErr, (OnlyNoted.noteCe s a agent).poisoned, hp]
  · have hv : s.verdict (s.lineErr a) = .uncorrectable :=
      (if_neg (by omega)).trans ((if_neg (by omega)).trans (if_pos (by simp [h5])))
    rw [State.checkLine, hv]
    exact (State.poisoned_setPoison ..).trans (if_pos rfl)

theorem State.touchLineAs_scrubs (s : State) (code a agent : Nat) : LineScrubbed a s (s.touchLineAs code a agent).2 := by
  intro hpop hpois
  have hcheck := (s.countLine a false).checkLine_scrubs code a agent ((s.countLine_poisoned false a).trans hpois)
  rw [State.countLine_lineErr] at hcheck
  have hnote : ∀ (t : State) (n : Nat), OnlyNoted t { t.notePoison a agent with fresh := n } := fun t n =>
    (OnlyNoted.notePoison t a agent).trans (.of_mem rfl)
  rw [State.touchLineAs]
  dsimp only
  rw [State.countLine_populated, hpop, State.countLine_poisoned, hpois, if_neg (by simp), if_neg (by simp)]
  split
  · rw [(hnote _ _).lineErr, (hnote _ _).poisoned]
    exact hcheck
  · exact hcheck

/-! ### A step of the scrubber -/

/-- R228: lines of different stacks differ. -/
theorem stackAddr_line_ne {ns d x m n : Nat} (h : m ≠ n) : stackAddr ns d m x / 64 ≠ stackAddr ns d n x / 64 := by
  unfold stackAddr die1Base
  rw [Nat.mul_add 512, Nat.mul_add 512]
  omega

/-- R235: memory after the scrubber has read the line of the first `n` stacks. -/
structure LinesScrubbed (ns d x n : Nat) (s t : State) : Prop where
  read : LinesRead s t
  scrubbed : ∀ i < n, LineScrubbed (stackAddr ns d i x) s t
  lineErr : ∀ b, (∀ i < n, b / 64 ≠ stackAddr ns d i x / 64) → t.lineErr b = s.lineErr b
  poisoned : ∀ b, (∀ i < n, b / 64 ≠ stackAddr ns d i x / 64) → t.poisoned b = s.poisoned b
  scrubT : ∀ d, (t.mem.die d).scrubT = (s.mem.die d).scrubT
  passes : ∀ d, (t.mem.die d).passes = (s.mem.die d).passes

theorem LinesScrubbed.step {ns d x n : Nat} (h : LinesScrubbed ns d x n s t) :
    LinesScrubbed ns d x (n + 1) s (scrubLine ns d x t n) := by
  have hline : OtherLinesKept (stackAddr ns d n x) t (scrubLine ns d x t n) := .touchLineAs _ _ _ _
  have hread : LinesRead t (scrubLine ns d x t n) := .touchLineAs _ _ _ _
  have hscrub : LineScrubbed (stackAddr ns d n x) t (scrubLine ns d x t n) := t.touchLineAs_scrubs _ _ _
  have hnext : ∀ i < n, stackAddr ns d n x / 64 ≠ stackAddr ns d i x / 64 := fun i hi => stackAddr_line_ne (by omega)
  refine ⟨h.read.trans hread, fun i hi => ?_, fun b hb => ?_, fun b hb => ?_, fun e => (hline.scrubT e).trans (h.scrubT e),
    fun e => (hline.passes e).trans (h.passes e)⟩
  · by_cases hin : i = n
    · subst hin
      rw [LineScrubbed, ← h.lineErr _ hnext, ← h.poisoned _ hnext, ← h.read.places.populated]
      exact hscrub
    · have hi' := h.scrubbed i (by omega)
      rw [LineScrubbed, hline.lineErr _ (stackAddr_line_ne hin), hline.poisoned _ (stackAddr_line_ne hin)]
      exact hi'
  · rw [hline.lineErr b (hb n (by omega)), h.lineErr b fun i hi => hb i (by omega)]
  · rw [hline.poisoned b (hb n (by omega)), h.poisoned b fun i hi => hb i (by omega)]

theorem scrubLines_scrubbed (ns d x n : Nat) (s : State) : LinesScrubbed ns d x n s ((List.range n).foldl (scrubLine ns d x) s) := by
  induction n with
  | zero =>
    exact ⟨.refl s, fun i hi => absurd hi (Nat.not_lt_zero i), fun _ _ => rfl, fun _ _ => rfl, fun _ => rfl, fun _ => rfl⟩
  | succ n ih =>
    rw [List.range_succ, List.foldl_append]
    exact ih.step

theorem DieMem.scrubNext_scrubT (x : DieMem) : x.scrubNext.scrubT = if x.scrubT + 64 < 0x900000000 then x.scrubT + 64 else 0 := by
  unfold DieMem.scrubNext
  split <;> rfl

theorem DieMem.scrubNext_passes (x : DieMem) :
    x.scrubNext.passes = if x.scrubT + 64 < 0x900000000 then x.passes else satAdd 32 x.passes 1 := by
  unfold DieMem.scrubNext
  split <;> rfl

/-- R235: does the scrubber of a die run? -/
def DieMem.scrubs (x : DieMem) : Bool := x.ctl.getLsbD 0 && x.initDone && !x.offline

/-- R235: the state in which the scrubber of a die has read its next line of every stack. -/
def State.scrubbed (s : State) (d : Nat) : State :=
  (List.range s.ident.grade.stacks).foldl (scrubLine s.ident.grade.stacks d (s.mem.die d).scrubT) s

theorem execScrubRead_of_off {d : Fin 2} {hits : List LineHit} (h : (s.mem.die d.val).scrubs = false) :
    execScrubRead d hits s = .next (s.hitLines hits) := by
  rw [execScrubRead]
  dsimp only
  rw [State.hitLines_die]
  exact if_neg (by rw [Bool.not_eq_true]; exact h)

theorem execScrubRead_of_on {d : Fin 2} {hits : List LineHit} (h : (s.mem.die d.val).scrubs = true) :
    execScrubRead d hits s = .next (((s.hitLines hits).scrubbed d.val).setDie d.val
      (((s.hitLines hits).scrubbed d.val).mem.die d.val).scrubNext) := by
  rw [execScrubRead]
  dsimp only
  rw [State.hitLines_die]
  refine (if_pos h).trans ?_
  rw [State.scrubbed, State.hitLines_die]

theorem execScrubRead_sameOutside {d : Fin 2} {hits : List LineHit} :
    SameOutside [.hub, .err, .mem, .cke, .pwr, .pmu, .sent, .fresh] s (resultOf s (execScrubRead d hits s)) := fun p hp => by
  have hframe := execScrubRead_frame d hits s
  cases p <;> simp_all [StatePart.same]

theorem State.setDie_poisoned (s : State) (d : Nat) (x : DieMem) (a : Nat) : (s.setDie d x).poisoned a = s.poisoned a := by
  rw [State.poisoned, State.setDie_poison, State.poisoned]

/-- R235: a step of a scrubber that runs. -/
theorem scrubRead_of_on {d : Fin 2} {hits : List LineHit} (h : (s.mem.die d.val).scrubs = true) :
    ∃ t, exec (.scrubRead d hits) s = .next t ∧ (∀ a, t.byteAt a = s.byteAt a) ∧
      (t.mem.die d.val).scrubT = (if (s.mem.die d.val).scrubT + 64 < 0x900000000 then (s.mem.die d.val).scrubT + 64 else 0) ∧
      (t.mem.die d.val).passes = (if (s.mem.die d.val).scrubT + 64 < 0x900000000 then (s.mem.die d.val).passes
        else satAdd 32 (s.mem.die d.val).passes 1) ∧
      (∀ n < s.ident.grade.stacks,
        LineScrubbed (stackAddr s.ident.grade.stacks d.val n (s.mem.die d.val).scrubT) (s.hitLines hits) t) ∧
      SameOutside [.hub, .err, .mem, .cke, .pwr, .pmu, .sent, .fresh] s t := by
  have hlines := scrubLines_scrubbed s.ident.grade.stacks d.val (s.mem.die d.val).scrubT s.ident.grade.stacks (s.hitLines hits)
  have hstate : (s.hitLines hits).scrubbed d.val = (List.range s.ident.grade.stacks).foldl
      (scrubLine s.ident.grade.stacks d.val (s.mem.die d.val).scrubT) (s.hitLines hits) := by
    rw [State.scrubbed, State.hitLines_die]
    simp only [State.hitLines_frame]
  rw [← hstate] at hlines
  have hT := (hlines.scrubT d.val).trans (congrArg DieMem.scrubT (s.hitLines_die hits d.val))
  have hP := (hlines.passes d.val).trans (congrArg DieMem.passes (s.hitLines_die hits d.val))
  have hexec := execScrubRead_of_on (hits := hits) h
  have hframe := execScrubRead_sameOutside (s := s) (d := d) (hits := hits)
  rw [hexec, resultOf_next] at hframe
  refine ⟨_, hexec, State.byteAt_of_bytes ?_, ?_, ?_, fun n hn => ?_, hframe⟩
  · rw [State.setDie_bytes, hlines.read.bytes, State.hitLines_bytes]
  · rw [(State.setDie_die d _).1, DieMem.scrubNext_scrubT, hT]
  · rw [(State.setDie_die d _).1, DieMem.scrubNext_passes, hT, hP]
  · rw [LineScrubbed, State.setDie_lineErr, State.setDie_poisoned]
    exact hlines.scrubbed n hn

/-! ### A stack fails -/

theorem getLsbD_cleared (p : Word64) {n c : Nat} (hc : c < 64) :
    (p &&& ~~~((1 : Word64) <<< n)).getLsbD c = (p.getLsbD c && decide (c ≠ n)) := by
  have hbit : (decide (c < n) || !decide (c - n = 0)) = !decide (c = n) := by
    rw [Bool.eq_iff_iff]
    simp only [Bool.or_eq_true, decide_eq_true_eq, Bool.not_eq_true', decide_eq_false_iff_not]
    omega
  simp [hc, hbit]

/-- R533: the cores of a list leave service. -/
def State.coresGone (s : State) (l : List Nat) : State :=
  l.foldl (fun t n => { t with top.present := t.top.present &&& ~~~((1 : Word64) <<< n) }) s

theorem State.coresGone_eq (s : State) (l : List Nat) : ∃ p, s.coresGone l = { s with top.present := p } ∧
    ∀ c < 64, p.getLsbD c = (s.top.present.getLsbD c && decide (c ∉ l)) := by
  induction l generalizing s with
  | nil => exact ⟨_, rfl, fun c _ => by simp⟩
  | cons n l ih =>
    obtain ⟨p, hp, hbit⟩ := ih { s with top.present := s.top.present &&& ~~~((1 : Word64) <<< n) }
    refine ⟨p, hp, fun c hc => ?_⟩
    rw [hbit c hc]
    rw [getLsbD_cleared _ hc, Bool.and_assoc]
    simp [not_or]

/-- R240, R533: the state of a die that has left service, before the job halts. -/
def State.dieLeft (s : State) (d code inst payload : Nat) : State :=
  let t := ((s.raiseHalting code .d inst payload).setHealth 13).coresGone
    ((List.range 64).filter fun n => s.present n && decide (s.dieOfCore n = d))
  t.setPue d { t.pue d with call := none }

theorem State.loseDie_eq (s : State) (d code inst payload : Nat) :
    s.loseDie d code inst payload = (s.dieLeft d code inst payload).haltJob code := rfl

theorem State.pue_setPue (d : Nat) (x : Pue) : (s.setPue d x).pue d = x := by
  unfold State.setPue State.pue
  split <;> rfl

theorem State.pue_haltJob (code d : Nat) : (s.haltJob code).pue d = s.pue d := by
  simp [State.pue]

section loseDie
variable {d code inst payload : Nat}

theorem State.dieLeft_hub (s : State) (d code inst payload : Nat) : HubKept s (s.dieLeft d code inst payload) := by
  obtain ⟨p, hp, _⟩ := State.coresGone_eq ((s.raiseHalting code .d inst payload).setHealth 13)
    ((List.range 64).filter fun n => s.present n && decide (s.dieOfCore n = d))
  rw [State.dieLeft, hp]
  exact (s.raiseHalting_hub code .d inst payload).trans (.of_hub (by simp))

theorem State.loseDie_health (s : State) (d code inst payload : Nat) :
    (s.loseDie d code inst payload).cke.health.getLsbD 13 = true := by
  obtain ⟨p, hp, _⟩ := State.coresGone_eq ((s.raiseHalting code .d inst payload).setHealth 13)
    ((List.range 64).filter fun n => s.present n && decide (s.dieOfCore n = d))
  rw [State.loseDie_eq, State.dieLeft, hp]
  simp

theorem State.loseDie_call (s : State) (d code inst payload : Nat) : ((s.loseDie d code inst payload).pue d).call = none := by
  rw [State.loseDie_eq, State.pue_haltJob, State.dieLeft, State.pue_setPue]

/-- R533: the cores of the die leave service. -/
theorem State.loseDie_present {c : Nat} (hc : c < 64) (h : s.present c = true) :
    (s.loseDie d code inst payload).top.present.getLsbD c = (s.top.present.getLsbD c && s.dieOfCore c ≠ d) := by
  obtain ⟨p, hp, hbit⟩ := State.coresGone_eq ((s.raiseHalting code .d inst payload).setHealth 13)
    ((List.range 64).filter fun n => s.present n && decide (s.dieOfCore n = d))
  have htop : (s.loseDie d code inst payload).top.present = p := by
    rw [State.loseDie_eq, State.dieLeft, hp]
    simp
  rw [htop, hbit c hc]
  simp [hc, h]

/-- R94, R240: the running job halts. -/
theorem State.loseDie_halts {j : Job} (hj : s.hub.job = some j) (hr : s.hub.jobState = .running) :
    (s.loseDie d code inst payload).hub.jobState = .halted := by
  have hub := s.dieLeft_hub d code inst payload
  rw [State.loseDie_eq, (State.haltJob_of_running (hub.job.trans hj) (hub.jobState.trans hr)).1]

end loseDie

/-- R240: does the failure of a stack come about? -/
def State.stackFails (s : State) (d : Fin 2) (n : Fin 10) : Prop :=
  n.val < s.ident.grade.stacks ∧ (s.mem.die d.val).offline = false ∧ s.pwr.stagesOn = true ∧
    ((s.mem.die d.val).initDone = false ∨ 64 ≤ s.recentUe d.val n.val)

/-- R240: a die's controller once a stack of its has failed. -/
def DieMem.stackLost (x : DieMem) (n : Nat) : DieMem := { x with failed := x.failed ||| 1 <<< n, offline := true }

theorem State.failStack_eq (s : State) (d n : Nat) : s.failStack d n =
    (s.setDie d ((s.mem.die d).stackLost n)).loseDie d 0x0705 d (addrPayload 0 0 n) := rfl

theorem execMemStackFail_sameOutside {d : Fin 2} {n : Fin 10} :
    SameOutside [.top, .cores, .hub, .err, .mem, .pue0, .pue1, .cke, .pmu, .sent] s (resultOf s (execMemStackFail d n s)) :=
  fun p hp => by
    have hframe := execMemStackFail_frame d n s
    cases p <;> simp_all [StatePart.same]

theorem memStackFail_of_fails {d : Fin 2} {n : Fin 10} (h : s.stackFails d n) :
    ∃ t, exec (.memStackFail d n) s = .next t ∧ (t.mem.die d.val).offline = true ∧
      (t.mem.die d.val).failed = (s.mem.die d.val).failed ||| 1 <<< n.val ∧ t.mem.die (1 - d.val) = s.mem.die (1 - d.val) ∧
      t.mem.bytes = s.mem.bytes ∧ t.cke.health.getLsbD 13 = true ∧ (t.pue d.val).call = none ∧
      (∀ c : CoreId, s.present c.val = true →
        t.top.present.getLsbD c.val = (s.top.present.getLsbD c.val && s.dieOfCore c.val ≠ d.val)) ∧
      (∀ j, s.hub.job = some j → s.hub.jobState = .running → t.hub.jobState = .halted) ∧
      SameOutside [.top, .cores, .hub, .err, .mem, .pue0, .pue1, .cke, .pmu, .sent] s t := by
  have hexec : execMemStackFail d n s = .next (s.failStack d.val n.val) := if_pos h
  have hframe := execMemStackFail_sameOutside (s := s) (d := d) (n := n)
  rw [hexec, resultOf_next, State.failStack_eq] at hframe
  rw [State.failStack_eq] at hexec
  obtain ⟨hdie, hother⟩ := s.setDie_die d ((s.mem.die d.val).stackLost n.val)
  have hmem : ((s.setDie d.val ((s.mem.die d.val).stackLost n.val)).loseDie d.val 0x0705 d.val (addrPayload 0 0 n.val)).mem =
      (s.setDie d.val ((s.mem.die d.val).stackLost n.val)).mem := by simp
  have htop : (s.setDie d.val ((s.mem.die d.val).stackLost n.val)).top = s.top := by simp
  have hplace : ∀ c, (s.setDie d.val ((s.mem.die d.val).stackLost n.val)).dieOfCore c = s.dieOfCore c := by simp [State.dieOfCore]
  refine ⟨_, hexec, by rw [hmem, hdie]; rfl, by rw [hmem, hdie]; rfl, by rw [hmem, hother], by rw [hmem, State.setDie_bytes],
    State.loseDie_health .., State.loseDie_call .., fun c hc => ?_, fun j hj hr => ?_, hframe⟩
  · rw [State.loseDie_present c.isLt (by simpa [State.present] using hc)]
    rw [hplace, htop]
  · exact State.loseDie_halts (j := j) (by simpa using hj) (by simpa using hr)

/-! ### A tier-2 port fails -/

/-- R240: a port whose memory has gone offline. -/
def T2Port.off (x : T2Port) (cause : Nat) (link : Bool) : T2Port := { x with mapped := false, cause := cause, linkUp := x.linkUp && link }

/-- R238, R240: the ports once one has failed: under INTLV the other is unmapped too. -/
def Memory.portsOff (m : Memory) (p cause : Nat) (link : Bool) : SMap T2Port :=
  let t := sset T2Port.reset m.t2 p ((m.port p).off cause link)
  if m.interleaved then sset T2Port.reset t (1 - p) { sget T2Port.reset t (1 - p) with mapped := false } else t

theorem State.t2Offline_eq (s : State) (p cause : Nat) (link : Bool) : s.t2Offline p cause link =
    State.raise { s with mem.t2 := s.mem.portsOff p cause link } 0x0706 .d (2 + p) (addrPayload 0 0 p) := rfl

theorem Memory.portsOff_self (m : Memory) (p : Fin 2) (cause : Nat) (link : Bool) :
    sget T2Port.reset (m.portsOff p.val cause link) p.val = (m.port p.val).off cause link := by
  have hp : p.val ≠ 1 - p.val := by omega
  unfold Memory.portsOff
  dsimp only
  split
  · rw [sget_sset, if_neg hp, sget_sset, if_pos rfl]
  · rw [sget_sset, if_pos rfl]

theorem Memory.portsOff_other (m : Memory) (p : Fin 2) (cause : Nat) (link : Bool) :
    sget T2Port.reset (m.portsOff p.val cause link) (1 - p.val) =
      if m.interleaved then { m.port (1 - p.val) with mapped := false } else m.port (1 - p.val) := by
  have hp : 1 - p.val ≠ p.val := by omega
  have hself : sget T2Port.reset (sset T2Port.reset m.t2 p.val ((m.port p.val).off cause link)) (1 - p.val) = m.port (1 - p.val) := by
    rw [sget_sset, if_neg hp, Memory.port]
  unfold Memory.portsOff
  dsimp only
  split
  · rw [sget_sset, if_pos rfl, hself]
  · exact hself

theorem sameOutside_mem {m : Memory} : SameOutside [.mem] s { s with mem := m } := fun p hp => by
  cases p <;> simp_all [StatePart.same]

/-- R240: the memory of a port that fails goes offline, and the failure is recorded. -/
theorem State.t2Offline_spec (s : State) (p : Fin 2) (cause : Nat) {link up : Bool} (hup : ((s.mem.port p.val).linkUp && link) = up) :
    (s.t2Offline p.val cause link).mem.bytes = s.mem.bytes ∧
    ((s.t2Offline p.val cause link).mem.port p.val).mapped = false ∧
    ((s.t2Offline p.val cause link).mem.port p.val).cause = cause ∧
    ((s.t2Offline p.val cause link).mem.port p.val).linkUp = up ∧
    (s.mem.interleaved = true → ((s.t2Offline p.val cause link).mem.port (1 - p.val)).mapped = false) ∧
    (s.mem.interleaved = false → (s.t2Offline p.val cause link).mem.port (1 - p.val) = s.mem.port (1 - p.val)) ∧
    Raised s (s.t2Offline p.val cause link) 0x0706 .d (2 + p.val) (addrPayload 0 0 p.val) ∧
    SameOutside [.hub, .err, .mem, .pmu, .sent] s (s.t2Offline p.val cause link) := by
  have hmem : (s.t2Offline p.val cause link).mem = { s.mem with t2 := s.mem.portsOff p.val cause link } := by
    rw [State.t2Offline_eq]
    simp
  have hself : (s.t2Offline p.val cause link).mem.port p.val = (s.mem.port p.val).off cause link := by
    rw [hmem]
    exact s.mem.portsOff_self p cause link
  have hother := s.mem.portsOff_other p cause link
  refine ⟨by rw [hmem], by rw [hself]; rfl, by rw [hself]; rfl, by rw [hself]; exact hup, fun hi => ?_, fun hi => ?_, ?_, ?_⟩
  · rw [if_pos hi] at hother
    rw [hmem, Memory.port, hother]
  · rw [if_neg (by simp [hi])] at hother
    rw [hmem]
    exact hother
  · rw [State.t2Offline_eq]
    exact State.raise_raised.of_same rfl rfl rfl rfl
  · rw [State.t2Offline_eq]
    exact (sameOutside_mem.mono (by simp)).trans (State.raise_sameOutside.mono (by simp))

/-- Settles O47: the scrubber's step by `scrubRead_of_on`, a failed stack by `State.loseDie`, a failed port by
`State.t2Offline_spec`. -/
theorem memoryIsScrubbedAndFails : Obligations.MemoryIsScrubbedAndFails := by
  unfold Obligations.MemoryIsScrubbedAndFails
  intro s
  refine ⟨fun d hits => ⟨execScrubRead_of_off, scrubRead_of_on⟩, fun d n => ⟨fun h => if_neg h, memStackFail_of_fails⟩,
    fun p h => if_neg (by simp [h]), fun p h => if_neg (by simp [h]), fun p x hx hdue => ?ports⟩
  case ports =>
    simp only [List.mem_cons, List.not_mem_nil, or_false] at hx
    obtain rfl | rfl := hx
    · exact ⟨_, if_pos hdue, s.t2Offline_spec p 3 (Bool.and_false _)⟩
    · exact ⟨_, if_pos hdue, s.t2Offline_spec p 4 (Bool.and_true _)⟩

end Sys2Proof.Machine
end

section
/-! SUPPORT. A lane that fails on a port that is not ACTIVE, while a counter of the hub is about to wrap (R259, R404, R491,
R494). -/

namespace Sys2Proof.Machine

/-- Port 0 in ACQUIRE with the spare of every fibre of its engine free. Counter 0 of the hub counts ERR_OCCURRENCES (R494), is one
below its carry and adds its carry to hub flag 1 (R491); the binding 0 waits for that flag to reach 1 (R404), and vector 16 is
not masked. -/
def laneFailWaits : State := { State.reset with
  fab := { Fab.reset with ports := [(0, { Port.reset with state := 2 })], spareFree := [(0, 15)] }
  hub := { Hub.reset with binds := [(0, ⟨1, true, 1⟩)], msixTable := [(16 * 16 + 12, 0)] }
  pmu := { Pmu.reset with ctl := 1 <<< 6, hubCtl := 1, evsel := [(0, 0x8000E)], cnt := [(0, 2 ^ 48 - 1)] } }

theorem laneFailWaits_spares : (laneFailWaits.port 0).state = 2 ∧ bitAt (sget 0 laneFailWaits.fab.dead 0) 0 = false ∧
    bitAt (sget 0 laneFailWaits.fab.spareFree 0) 0 = true ∧ laneFailWaits.sent = [] := by
  decide +kernel

/-- R259, R404: the record of the sparing wraps the counter, its carry fires the binding, and the package sends vector 16. -/
theorem laneFail_laneFailWaits_sent : (resultOf laneFailWaits (exec (.laneFail 0 0 none) laneFailWaits)).sent = [.msix 16] := by
  decide +kernel

/-- Refutes O54: it says that a lane that a spare replaces sends nothing while its port is not ACTIVE. The record of the sparing
(0x0802) counts as an ERR_OCCURRENCE (R494), and where that wraps a counter whose carry reaches a bound flag (R491), the vector
of the binding is sent (R404). -/
theorem not_linksCarryFlits : ¬ Obligations.LinksCarryFlits := by
  unfold Obligations.LinksCarryFlits
  intro h
  obtain ⟨hstate, halive, hspare, hsent⟩ := laneFailWaits_spares
  obtain ⟨-, hlanes, -⟩ := h laneFailWaits
  obtain ⟨-, hfails⟩ := hlanes 0 0 none
  have hup : ¬(¬(2 ≤ (laneFailWaits.port 0).state ∧ (laneFailWaits.port 0).state ≤ 5) ∨
      bitAt (sget 0 laneFailWaits.fab.dead 0) 0 = true) := by simp [hstate, halive]
  obtain ⟨t, hexec, -, -, -, hspared, -⟩ := hfails trivial hup
  obtain ⟨-, -, hidle, -⟩ := hspared hspare (by decide)
  have hnotActive : (laneFailWaits.port 0).state ≠ 4 := by simp [hstate]
  obtain ⟨-, hsame⟩ := hidle hnotActive
  have hmsix := laneFail_laneFailWaits_sent
  rw [hexec, resultOf, hsame, hsent] at hmsix
  cases hmsix

end Sys2Proof.Machine
end

section
/-! SUPPORT. What an event adds to the outputs of the package and to the error queue. -/

namespace Sys2Proof.Machine
variable {s t u : State} {p q : Nat}

/-- Nothing that was sent or reported is taken back, and fatal handling stands as it stood (R482). -/
structure Adds (s t : State) : Prop where
  sent : s.sent <+: t.sent
  queue : s.err.queue <+: t.err.queue
  handling : t.err.handling = s.err.handling
  offline : t.err.offline = s.err.offline

namespace Adds

theorem of_err (hs : s.sent <+: t.sent) (he : t.err = s.err) : Adds s t :=
  ⟨hs, by rw [he], by rw [he], by rw [he]⟩

theorem of_eq (hs : t.sent = s.sent) (he : t.err = s.err) : Adds s t := of_err (by rw [hs]) he

theorem refl (s : State) : Adds s s := of_eq rfl rfl

theorem trans (h : Adds s t) (h' : Adds t u) : Adds s u :=
  ⟨h.sent.trans h'.sent, h.queue.trans h'.queue, h'.handling.trans h.handling, h'.offline.trans h.offline⟩

theorem foldl {α : Type} (l : List α) {f : State → α → State} (hf : ∀ t a, Adds t (f t a)) (s : State) : Adds s (l.foldl f s) := by
  induction l generalizing s with
  | nil => exact refl s
  | cons a l ih => exact (hf s a).trans (ih _)

theorem emit (s : State) (e : Emit) : Adds s (s.emit e) := of_err (List.prefix_append _ _) rfl

theorem sendMsix (s : State) (v : Nat) : Adds s (s.sendMsix v) := by
  unfold State.sendMsix
  split
  · exact of_eq rfl rfl
  · exact emit s _

theorem raiseVec (s : State) (v : Nat) : Adds s (s.raiseVec v) := by
  unfold State.raiseVec
  split
  · split
    · exact sendMsix s 2
    · split
      · exact of_eq rfl rfl
      · exact (sendMsix s 2).trans (of_eq rfl rfl)
  · exact sendMsix s v

theorem fireBind (s : State) (n : Nat) : Adds s (fireBind s n) := by
  unfold Machine.fireBind
  dsimp only
  split
  · refine .trans ?_ (raiseVec _ _)
    exact of_eq rfl rfl
  · exact refl s

theorem addHubFlag (s : State) (n : Nat) (i : Word32) : Adds s (s.addHubFlag n i) := by
  unfold State.addHubFlag fireBinds
  refine .trans ?_ (foldl _ fireBind _)
  exact of_eq rfl rfl

theorem cntCarry (s : State) (sel : Nat) : Adds s (s.cntCarry sel) := by
  have hfreeze : Adds s (if bitAt sel 18 then { s with pmu.ctl := s.pmu.ctl ||| 1 } else s) := by
    split
    · exact of_eq rfl rfl
    · exact refl s
  unfold State.cntCarry
  dsimp only
  split
  · exact hfreeze.trans (addHubFlag _ _ _)
  · exact hfreeze

theorem bumpHub (s : State) (i n : Nat) : Adds s (s.bumpHub i n) := by
  unfold State.bumpHub
  dsimp only
  split
  · exact of_eq rfl rfl
  · refine .trans ?_ (cntCarry _ _)
    exact of_eq rfl rfl

theorem countHub (s : State) (ev : Nat) (hit : Nat → Bool) (n : Nat) : Adds s (s.countHub ev hit n) := by
  unfold State.countHub
  split
  · exact refl s
  · refine foldl _ (fun t i => ?_) s
    split
    · exact bumpHub t i n
    · exact refl t

/-- R473: an occurrence joins the queue behind the others, or is held back or dropped. -/
theorem offer (s : State) (o : Occ) : Adds s (s.offer o) := by
  have hclass : ∀ cls, (s.err.countClass cls).handling = s.err.handling ∧ (s.err.countClass cls).offline = s.err.offline :=
    fun cls => by cases cls <;> exact ⟨rfl, rfl⟩
  obtain ⟨hhandling, hoffline⟩ := hclass o.cls
  unfold State.offer
  split
  · refine .trans (t := { s with err := (s.err.countClass o.cls).enqueue o }) ⟨List.prefix_rfl, ?_, hhandling, hoffline⟩
      (countHub _ _ _ _)
    exact ⟨[o], by rw [Err.enqueue, Err.countClass_queue]⟩
  · split
    · exact ⟨List.prefix_rfl, List.prefix_rfl, rfl, rfl⟩
    · exact ⟨List.prefix_rfl, List.prefix_rfl, rfl, rfl⟩

theorem raise (s : State) (code : Nat) (cls : ErrClass) (i n : Nat) : Adds s (s.raise code cls i n) := offer s _

theorem setPort (s : State) (p : Nat) (x : Port) : Adds s (s.setPort p x) := of_eq rfl rfl

theorem putFlit (s : State) (p ty sq : Nat) (msg : Option LinkMsg) (b : List Byte) : Adds s (s.putFlit p ty sq msg b) :=
  .trans (t := s.setPort p _) (setPort s p _) (emit _ _)

theorem freeAt (s : State) (p b n : Nat) : Adds s (s.freeAt p b n) := by
  unfold State.freeAt
  dsimp only
  split
  · exact (setPort s _ _).trans (putFlit _ _ _ _ _ _)
  · exact setPort s _ _

theorem freeHeld (s : State) (y : Packet) : Adds s (s.freeHeld y) := by
  unfold State.freeHeld
  split
  · exact freeAt s _ _ _
  · exact refl s

theorem routesLost (s : State) (p : Nat) : Adds s (s.routesLost p) := by
  unfold State.routesLost
  dsimp only
  split
  · exact refl s
  · exact raise s _ _ _ _

theorem recover (s : State) (p : Nat) : Adds s (s.recover p) := setPort s p _

theorem takeDown (s : State) (p st : Nat) (quiet : Bool) : Adds s (s.takeDown p st quiet) := by
  have hfree : ∀ x, Adds s ((s.port p).queue.foldl State.freeHeld (s.setPort p x)) := fun x =>
    (setPort s p x).trans (foldl _ freeHeld _)
  unfold State.takeDown
  dsimp only
  split
  · exact (hfree _).trans (routesLost _ _)
  · exact hfree _

end Adds

end Sys2Proof.Machine
end

section
/-! SUPPORT. The ports of a fabric while one of them changes its state (R250, R253, R256, R257, R267, R275). -/

namespace Sys2Proof.Machine
variable {s t u : State} {p q : Nat} {x y z : Port}

/-! ### Ports left alone -/

theorem State.port_of_fab (h : t.fab = s.fab) (q : Nat) : t.port q = s.port q := by rw [State.port, h, State.port]

@[simp] theorem State.port_raise (s : State) (code : Nat) (cls : ErrClass) (i n q : Nat) :
    (s.raise code cls i n).port q = s.port q := State.port_of_fab (by simp) q

/-- R248, R263: a control flit moves its port's rotation of lanes on, and changes no other port. -/
theorem State.port_putCtrl (s : State) (p : Nat) (nak : Bool) (msg : Option LinkMsg) (q : Nat) :
    (s.putCtrl p nak msg).port q =
      if q = p then { s.port p with txUnit := ((s.port p).txUnit + 32) % 96 } else s.port q := State.port_setPort s p _ q

theorem State.putCtrl_sent (s : State) (p : Nat) (nak : Bool) (msg : Option LinkMsg) :
    ∃ ls fl, (s.putCtrl p nak msg).sent = s.sent ++ [Emit.flit p ls msg fl] := ⟨_, _, rfl⟩

theorem OtherPorts.of_eq (h : ∀ q, q ≠ p → t.port q = s.port q) : OtherPorts p s t :=
  ⟨fun q hq => by rw [h q hq], fun _ _ => h⟩

theorem OtherPorts.refl (p : Nat) (s : State) : OtherPorts p s s := .of_eq fun _ _ => rfl

theorem OtherPorts.setPort (s : State) (p : Nat) (x : Port) : OtherPorts p s (s.setPort p x) :=
  .of_eq fun q hq => by rw [State.port_setPort, if_neg hq]

theorem OtherPorts.putCtrl (s : State) (p : Nat) (nak : Bool) (msg : Option LinkMsg) : OtherPorts p s (s.putCtrl p nak msg) :=
  .of_eq fun q hq => by rw [State.port_putCtrl, if_neg hq]

/-- One event at a port after another, if the first brings neither streams nor packets to it. -/
theorem OtherPorts.trans (h : OtherPorts p s t) (h' : OtherPorts p t u) (hs : t.fab.streamQ = s.fab.streamQ)
    (hq : (t.port p).queue ⊆ (s.port p).queue) : OtherPorts p s u := by
  obtain ⟨htraffic, hsame⟩ := h
  obtain ⟨htraffic', hsame'⟩ := h'
  refine ⟨fun q hne => (htraffic' q hne).trans (htraffic q hne), fun hnil hfree q hne => ?_⟩
  exact (hsame' (hs.trans hnil) (fun y hy => hfree y (hq hy)) q hne).trans (hsame hnil hfree q hne)

/-! ### Receive buffers freed -/

/-- A port but for the receive buffers it has freed, and the lanes it has dealt the reports to (R263, R267). -/
def RxFreed (x y : Port) : Prop := ∃ a b c n, y = { x with rxDed := a, rxDedFreed := b, rxPoolFreed := c, txUnit := n }

namespace RxFreed

theorem refl (x : Port) : RxFreed x x := ⟨_, _, _, _, rfl⟩

theorem trans (h : RxFreed x y) (h' : RxFreed y z) : RxFreed x z := by
  obtain ⟨_, _, _, _, rfl⟩ := h
  obtain ⟨_, _, _, _, rfl⟩ := h'
  exact ⟨_, _, _, _, rfl⟩

theorem besidesTraffic (h : RxFreed x y) : y.besidesTraffic = x.besidesTraffic := by
  obtain ⟨_, _, _, _, rfl⟩ := h
  rfl

theorem freeAt (s : State) (o b n q : Nat) : RxFreed (s.port q) ((s.freeAt o b n).port q) := by
  have hfreed : RxFreed (s.port q) ((s.setPort o (freeRx (s.port o) b n)).port q) := by
    rw [State.port_setPort]
    split
    case isTrue h => exact h ▸ ⟨_, _, _, _, rfl⟩
    case isFalse => exact refl _
  unfold State.freeAt
  dsimp only
  split
  · refine hfreed.trans ?_
    rw [State.port_putCtrl]
    split
    case isTrue h => exact h ▸ ⟨_, _, _, _, rfl⟩
    case isFalse => exact refl _
  · exact hfreed

theorem freeHeld (s : State) (y : Packet) (q : Nat) : RxFreed (s.port q) ((s.freeHeld y).port q) := by
  unfold State.freeHeld
  split
  · exact freeAt s _ _ _ q
  · exact refl _

theorem foldl_freeHeld (ys : List Packet) (s : State) (q : Nat) : RxFreed (s.port q) ((ys.foldl State.freeHeld s).port q) := by
  induction ys generalizing s with
  | nil => exact refl _
  | cons y ys ih => exact (freeHeld s y q).trans (ih _)

end RxFreed

/-- R256: packets that hold no receive buffer free none. -/
theorem foldl_freeHeld_of_none {ys : List Packet} (h : ∀ y ∈ ys, y.held = none) (s : State) : ys.foldl State.freeHeld s = s := by
  induction ys with
  | nil => rfl
  | cons y ys ih =>
    have hy : s.freeHeld y = s := by rw [State.freeHeld, h y List.mem_cons_self]
    rw [List.foldl_cons, hy]
    exact ih fun z hz => h z (List.mem_cons_of_mem _ hz)

/-! ### A port taken down -/

/-- R255: a port that has left its link with nothing kept. -/
def Port.down (x : Port) (st : Nat) : Port :=
  { x.discard with state := st, width := 0, recovering := false, rxGap := none, quiesced := false }

/-- R256, R257: the state with a port down and the receive buffers of its packets freed. -/
def State.portDown (s : State) (p st : Nat) : State :=
  (s.port p).queue.foldl State.freeHeld (s.setPort p ((s.port p).down st))

theorem State.port_routesLost (s : State) (p q : Nat) : (s.routesLost p).port q = s.port q := by
  unfold State.routesLost
  dsimp only
  split
  · rfl
  · exact State.port_raise s _ _ _ _ q

/-- R275: taking a port down may report the routes lost with it, and does nothing else to the ports. -/
theorem State.port_takeDown (s : State) (p st : Nat) (quiet : Bool) (q : Nat) :
    (s.takeDown p st quiet).port q = (s.portDown p st).port q := by
  unfold State.takeDown
  dsimp only
  split
  · exact State.port_routesLost _ p q
  · rfl

theorem State.takeDown_port (s : State) (p st : Nat) (quiet : Bool) :
    RxFreed ((s.port p).down st) ((s.takeDown p st quiet).port p) := by
  have h := RxFreed.foldl_freeHeld (s.port p).queue (s.setPort p ((s.port p).down st)) p
  rw [State.port_setPort, if_pos rfl] at h
  rw [State.port_takeDown]
  exact h

theorem State.takeDown_state (s : State) (p st : Nat) (quiet : Bool) : ((s.takeDown p st quiet).port p).state = st := by
  obtain ⟨_, _, _, _, h⟩ := s.takeDown_port p st quiet
  rw [h]
  rfl

theorem OtherPorts.takeDown (s : State) (p st : Nat) (quiet : Bool) : OtherPorts p s (s.takeDown p st quiet) := by
  have hset := OtherPorts.setPort s p ((s.port p).down st)
  refine ⟨fun q hq => ?_, fun _ hfree q hq => ?_⟩
  · rw [State.port_takeDown, ← hset.1 q hq]
    exact (RxFreed.foldl_freeHeld _ _ q).besidesTraffic
  · rw [State.port_takeDown, State.portDown, foldl_freeHeld_of_none hfree, State.port_setPort, if_neg hq]

/-- R257: a port that goes down quietly loses no route, and nothing is reported. -/
theorem State.takeDown_quiet_err (s : State) (p st : Nat) : (s.takeDown p st true).err = s.err := by
  simp [State.takeDown]

/-! ### What taking a port down leaves of the rest -/

theorem PortsOnly.routesLost (s : State) (p : Nat) : PortsOnly s (s.routesLost p) := .of_fab (by simp)

theorem PortsOnly.takeDown (s : State) (p st : Nat) (quiet : Bool) : PortsOnly s (s.takeDown p st quiet) := by
  have hdown : PortsOnly s (s.portDown p st) := (setPort s p _).trans (foldl _ freeHeld _)
  unfold State.takeDown
  dsimp only
  split
  · exact hdown.trans (routesLost _ p)
  · exact hdown

/-! ### A port brought in line -/

/-- R253, R256: a port brought in line stays as it is, goes DARK, recovers, or is DISABLED. -/
theorem State.settlePort_ind {P : State → Prop} (hsame : P s) (hdark : P (s.setPort p { s.port p with state := 1 }))
    (hrecover : P (s.recover p)) (hdown : ∀ quiet, P (s.takeDown p 0 quiet)) : P (s.settlePort p) := by
  unfold State.settlePort
  dsimp only
  split
  · split
    · exact hdark
    · exact hsame
  · split
    · exact hdown false
    · split
      · exact hdown false
      · split
        · split
          · split
            · exact hdown true
            · exact hrecover
          · split
            · exact hsame
            · exact hdown false
        · exact hsame

theorem PortsOnly.settlePort (s : State) (p : Nat) : PortsOnly s (s.settlePort p) :=
  State.settlePort_ind (refl s) (setPort s p _) (setPort s p _) (takeDown s p 0)

theorem PortsOnly.settlePorts (s : State) : PortsOnly s s.settlePorts := foldl _ settlePort s

theorem Adds.settlePort (s : State) (p : Nat) : Adds s (s.settlePort p) :=
  State.settlePort_ind (refl s) (setPort s p _) (recover s p) (takeDown s p 0)

theorem Adds.settlePorts (s : State) : Adds s s.settlePorts := foldl _ settlePort s

theorem OtherPorts.settlePort (s : State) (p : Nat) : OtherPorts p s (s.settlePort p) :=
  State.settlePort_ind (.refl p s) (.setPort s p _) (.setPort s p _) (.takeDown s p 0)

/-- R280: bringing a port in line leaves its register FAB_PORT_CTL_p alone. -/
theorem State.settlePort_ctl (s : State) (p : Nat) : ((s.settlePort p).port p).en = (s.port p).en ∧
    ((s.settlePort p).port p).quiesce = (s.port p).quiesce ∧ ((s.settlePort p).port p).fullTrain = (s.port p).fullTrain := by
  have hset : ∀ x : Port, (s.setPort p x).port p = x := fun x => by rw [State.port_setPort, if_pos rfl]
  refine State.settlePort_ind (P := fun t => (t.port p).en = (s.port p).en ∧ (t.port p).quiesce = (s.port p).quiesce ∧
    (t.port p).fullTrain = (s.port p).fullTrain) ⟨rfl, rfl, rfl⟩ ?_ ?_ fun quiet => ?_
  · rw [hset]
    exact ⟨rfl, rfl, rfl⟩
  · rw [State.recover, hset]
    exact ⟨rfl, rfl, rfl⟩
  · obtain ⟨_, _, _, _, h⟩ := s.takeDown_port p 0 quiet
    rw [h]
    exact ⟨rfl, rfl, rfl⟩

/-- R253: what holds the port DISABLED leaves it nothing else. -/
theorem State.settlePort_of_disabled (h0 : (s.port p).state ≠ 0) (h4 : (s.port p).state ≠ 4) (hen : (s.port p).en = false) :
    s.settlePort p = s.takeDown p 0 false := by
  simp [State.settlePort, h0, h4, hen]

/-- R253: an enabled, lit port that nothing holds stays as it is, once it is not DISABLED. -/
theorem State.settlePort_of_lit (h0 : (s.port p).state ≠ 0) (hheld : s.portsHeld = false) (hpresent : s.portPresent p = true)
    (hen : (s.port p).en = true ∨ (s.port p).state = 4) (hlit : s.engineLit (p / 2) = true) : s.settlePort p = s := by
  obtain hen | h4 := hen
  · simp [State.settlePort, h0, hheld, hpresent, hen, hlit]
  · simp [State.settlePort, h4, hheld, hpresent, hlit]

/-- R253: a DARK port stays DARK where it is enabled, lit and held by nothing, and is DISABLED otherwise. -/
theorem State.settlePort_of_dark (h1 : (s.port p).state = 1) : s.settlePort p =
    if s.portsHeld = false ∧ s.portPresent p = true ∧ (s.port p).en = true ∧ s.engineLit (p / 2) = true then s
    else s.takeDown p 0 false := by
  have h0 : (s.port p).state ≠ 0 := by simp [h1]
  split
  case isTrue h =>
    obtain ⟨hheld, hpresent, hen, hlit⟩ := h
    exact State.settlePort_of_lit h0 hheld hpresent (.inl hen) hlit
  case isFalse h =>
    simp only [not_and_or, Bool.not_eq_false, Bool.not_eq_true] at h
    obtain h | h | h | h := h <;> simp [State.settlePort, h1, h]

end Sys2Proof.Machine
end

section
/-! SUPPORT. The laser modules of the device (R249 to R252). -/

namespace Sys2Proof.Machine
variable {s t u : State} {m : Nat} {f : Nat → Laser → Laser} {g : Laser → Laser}

/-! ### Modules changed -/

/-- Each module has become what `f` makes of it and its number. -/
def LasersMapped (s t : State) (f : Nat → Laser → Laser) : Prop :=
  t.fab.lasers.length = s.fab.lasers.length ∧ ∀ m l, s.fab.lasers[m]? = some l → t.fab.lasers[m]? = some (f m l)

/-- R250: `f` of each module, driven as the conditions of R250 then stand. -/
def Relit (s t : State) (f : Nat → Laser → Laser) : Prop :=
  LasersMapped s t fun m l => { f m l with driven := s.mayLight m (f m l) }

/-- R251: module `m`, then `g` of what it was, has faulted with `cause`. -/
def Faulted (s t : State) (m cause : Nat) (g : Laser → Laser) : Prop :=
  Relit s t (fun n l => if n = m then { g l with fault := true, cause := cause, rearm := true } else l) ∧
  ∃ u, Raised s u 0x0806 .d (16 + m) (devPayload s.fab.devid m 0) ∧ u.err.queue <+: t.err.queue

theorem LasersMapped.of_zipIdx (h : t.fab.lasers = s.fab.lasers.zipIdx.map fun x => f x.2 x.1) : LasersMapped s t f := by
  refine ⟨by rw [h, List.length_map, List.length_zipIdx], fun m l hl => ?_⟩
  simp [h, hl]

theorem LasersMapped.of_modify (h : t.fab.lasers = s.fab.lasers.modify m g) :
    LasersMapped s t fun n l => if n = m then g l else l := by
  refine ⟨by rw [h, List.length_modify], fun n l hl => ?_⟩
  rw [h, List.getElem?_modify, hl]
  simp only [eq_comm (a := m)]
  rfl

theorem LasersMapped.trans {f' : Nat → Laser → Laser} (h : LasersMapped s t f) (h' : LasersMapped t u f') :
    LasersMapped s u fun m l => f' m (f m l) :=
  ⟨h'.1.trans h.1, fun m l hl => h'.2 m _ (h.2 m l hl)⟩

theorem LasersMapped.congr {f' : Nat → Laser → Laser} (h : LasersMapped s t f) (hf : ∀ m l, f m l = f' m l) :
    LasersMapped s t f' :=
  ⟨h.1, fun m l hl => by rw [h.2 m l hl, hf]⟩

/-! ### Light follows its conditions -/

theorem State.settleLight_lasers (s : State) :
    s.settleLight.fab.lasers = s.fab.lasers.zipIdx.map fun x => { x.1 with driven := s.mayLight x.2 x.1 } := by
  have h := PortsOnly.settlePorts
    { s with fab.lasers := s.fab.lasers.zipIdx.map fun x => { x.1 with driven := s.mayLight x.2 x.1 } }
  rw [State.settleLight, h]

theorem LasersMapped.settleLight (s : State) : LasersMapped s s.settleLight fun m l => { l with driven := s.mayLight m l } :=
  .of_zipIdx (f := fun m l => { l with driven := s.mayLight m l }) s.settleLight_lasers

theorem Adds.settleLight (s : State) : Adds s s.settleLight :=
  .trans (t := { s with fab.lasers := s.fab.lasers.zipIdx.map fun x => { x.1 with driven := s.mayLight x.2 x.1 } })
    (of_eq rfl rfl) (settlePorts _)

theorem State.settleLight_sameOutside (s : State) : SameOutside [.hub, .err, .fab, .pmu, .sent] s s.settleLight := fun p hp => by
  cases p <;> simp_all [StatePart.same]

/-- R250: the conditions for light that are not the module's own. -/
theorem State.mayLight_of_sameOutside (h : SameOutside [.hub, .err, .fab, .pmu, .sent] s t) (m : Nat) (l : Laser) :
    t.mayLight m l = s.mayLight m l := by
  have hident : t.ident = s.ident := h .ident (by simp)
  have hpwr : t.pwr = s.pwr := h .pwr (by simp)
  have htop : t.top = s.top := h .top (by simp)
  simp only [State.mayLight, hident, hpwr, htop]

theorem Relit.settleLight (hu : SameOutside [.hub, .err, .fab, .pmu, .sent] s u) (h : LasersMapped s u f) :
    Relit s u.settleLight f := by
  refine (h.trans (.settleLight u)).congr fun m l => ?_
  rw [State.mayLight_of_sameOutside hu]

/-- R251: a module faults from a state in which nothing but the modules and the outputs has changed. -/
theorem Faulted.laserFault {cause : Nat} (hu : SameOutside [.fab, .sent] s u) (hd : u.fab.devid = s.fab.devid)
    (h : LasersMapped s u fun n l => if n = m then g l else l) : Faulted s (u.laserFault m cause) m cause g := by
  obtain ⟨v, hv⟩ : ∃ v : State, v = { u with
      fab.lasers := u.fab.lasers.modify m fun l => { l with fault := true, cause := cause, rearm := true } } := ⟨_, rfl⟩
  obtain ⟨w, hw⟩ : ∃ w, w = v.raise 0x0806 .d (16 + m) (devPayload u.fab.devid m 0) := ⟨_, rfl⟩
  have hfault : u.laserFault m cause = w.settleLight := by rw [hw, hv]; rfl
  have hvs : SameOutside [.fab, .sent] s v := hu.trans (by rw [hv]; exact sameOutside_fab.mono (by simp))
  have hws : SameOutside [.hub, .err, .fab, .pmu, .sent] s w :=
    (hvs.mono (by simp)).trans (by rw [hw]; exact State.raise_sameOutside.mono (by simp))
  have hlasers : w.fab.lasers = u.fab.lasers.modify m fun l => { l with fault := true, cause := cause, rearm := true } := by
    rw [hw, hv]
    simp
  rw [hfault]
  refine ⟨.settleLight hws ((h.trans (.of_modify hlasers)).congr fun n l => ?_), w, ?_, (Adds.settleLight w).queue⟩
  · split <;> rfl
  · rw [hw, hd]
    exact State.raise_raised.of_same (hvs .err (by simp)) (hvs .pwr (by simp)) (hvs .hub (by simp)) (hvs .cke (by simp))

theorem State.laserFault_sameOutside (s : State) (m cause : Nat) :
    SameOutside [.hub, .err, .fab, .pmu, .sent] s (s.laserFault m cause) := fun p hp => by
  cases p <;> simp_all [StatePart.same]

theorem Adds.laserFault (s : State) (m cause : Nat) : Adds s (s.laserFault m cause) := by
  refine .trans ?_ (settleLight _)
  refine .trans ?_ (raise _ _ _ _ _)
  exact of_eq rfl rfl

/-! ### The host's registers -/

/-- R250, R280: LASER_ENABLE while BAR0 is open. -/
theorem execLaserEnable_of_open (hb : s.barOpen = true) (w : Word32) : ∃ t, execLaserEnable w s = .next t ∧
    SameOutside [.hub, .err, .fab, .pmu, .sent] s t ∧
    Relit s t fun m l => { l with en := w.getLsbD m, rearm := l.rearm && !(w.getLsbD m && !l.en && !l.fault) } := by
  refine ⟨_, State.onBar_of_open hb _, ?_, ?_⟩
  · exact (sameOutside_fab.mono (by simp)).trans (State.settleLight_sameOutside _)
  · exact .settleLight (sameOutside_fab.mono (by simp)) (.of_zipIdx rfl)

/-- R251, R280: LASER_FAULT_CLEAR while BAR0 is open. -/
theorem execLaserFaultClear_of_open (hb : s.barOpen = true) (v : RegWrite) : ∃ t, execLaserFaultClear v s = .next t ∧
    SameOutside [.hub, .err, .fab, .pmu, .sent] s t ∧
    Relit s t fun m l => { l with fault := l.fault && !(mergeWrite 0 v).getLsbD (4 + m) } := by
  refine ⟨_, State.onBar_of_open hb _, ?_, ?_⟩
  · exact (sameOutside_fab.mono (by simp)).trans (State.settleLight_sameOutside _)
  · refine .settleLight (sameOutside_fab.mono (by simp)) ((LasersMapped.of_zipIdx
      (f := fun m l => if (mergeWrite 0 v).getLsbD (4 + m) then { l with fault := false } else l) rfl).congr fun m l => ?_)
    cases (mergeWrite 0 v).getLsbD (4 + m) <;> simp

/-! ### Faults -/

/-- R251: LS_FAULT_N of a lit module. -/
theorem execFabLaserFault_of_lit {m : Fin 4} (hon : s.lightOn m.val = true) : ∃ t, execFabLaserFault m s = .next t ∧
    SameOutside [.hub, .err, .fab, .pmu, .sent] s t ∧ Faulted s t m.val 1 fun l => { l with faultN := false } := by
  refine ⟨_, if_pos hon, ?_, ?_⟩
  · exact (sameOutside_fab.mono (by simp)).trans (State.laserFault_sameOutside _ _ _)
  · exact .laserFault (sameOutside_fab.mono (by simp)) rfl (.of_modify rfl)

/-- R251: a module faults with nothing else known of it. -/
theorem Faulted.laserFault_self (s : State) (m cause : Nat) : Faulted s (s.laserFault m cause) m cause id :=
  .laserFault (.refl _ s) rfl ⟨rfl, fun _ l hl => hl.trans (congrArg some (ite_self l).symm)⟩

theorem State.lasers_of_lightOn (h : s.lightOn m = true) : ∃ l, s.fab.lasers[m]? = some l := by
  cases hl : s.fab.lasers[m]? with
  | some l => exact ⟨l, rfl⟩
  | none => simp [State.lightOn, hl, Laser.reset] at h

/-! ### Polling -/

/-- R252: a module has been read, and one without its dynamic address has been given it. -/
def State.laserRead (s : State) (m : Nat) (pin : Bool) (r : Option LaserReading) : State :=
  { s.assignLaser m with fab.lasers := (s.assignLaser m).fab.lasers.modify m fun l => l.polled pin r }

/-- R252: what the device knows of a module after reading it. -/
def State.laserNow (s : State) (m : Nat) (pin : Bool) (r : Option LaserReading) : Laser :=
  (s.fab.lasers.getD m Laser.reset).polled pin r

section poll
variable {pin : Bool} {r : Option LaserReading}

theorem State.assignLaser_fab (s : State) (m : Nat) : (s.assignLaser m).fab = s.fab := by simp

theorem State.laserRead_lasers : (s.laserRead m pin r).fab.lasers = s.fab.lasers.modify m fun l => l.polled pin r := by
  rw [State.laserRead, State.assignLaser_fab]

theorem State.laserRead_sameOutside : SameOutside [.fab, .sent] s (s.laserRead m pin r) := fun p hp => by
  cases p <;> simp_all [StatePart.same, State.laserRead]

/-- R252: SETDASA. -/
theorem State.laserRead_sent (h : (s.fab.lasers.getD m Laser.reset).assigned = false) :
    (s.laserRead m pin r).sent = s.sent ++ [.laserAddress m (0x30 + m)] := by
  simp only [State.laserRead, State.assignLaser, h]
  rfl

/-- What a lit module is read as. -/
theorem State.laserRead_getD (h : s.lightOn m = true) :
    (s.laserRead m pin r).fab.lasers.getD m Laser.reset = s.laserNow m pin r := by
  obtain ⟨l, hl⟩ := State.lasers_of_lightOn h
  simp [State.laserRead_lasers, State.laserNow, hl]

theorem execLaserPoll_of_held {m : Fin 4} (h : s.pwr.vstbyOk = false ∨ s.mss.held = true ∨ s.ident.grade.lasers ≤ m.val) :
    execLaserPoll m pin r s = .next s := if_pos (by simpa [or_assoc] using h)

/-- R251, R252: what follows the reading of a module. -/
def State.laserJudged (s : State) (m : Nat) (pin : Bool) (r : Option LaserReading) : State :=
  if s.lightOn m && !pin then (s.laserRead m pin r).laserFault m 1
  else if s.lightOn m && (s.laserNow m pin r).identified && (s.laserNow m pin r).faultReg % 8 ≠ 0 then
    (s.laserRead m pin r).laserFault m 4
  else (s.laserRead m pin r).settleLight

theorem execLaserPoll_of_served {m : Fin 4} (hv : s.pwr.vstbyOk = true) (hh : s.mss.held = false)
    (hm : m.val < s.ident.grade.lasers) : execLaserPoll m pin r s = .next (s.laserJudged m.val pin r) := by
  unfold execLaserPoll State.laserJudged
  dsimp only
  rw [if_neg (by simp [hv, hh, hm])]
  cases hon : s.lightOn m.val
  · simp only [Bool.false_and, Bool.false_eq_true, if_false]
    rfl
  · rw [← State.laserRead_getD hon, ← apply_ite Host.Outcome.next, ← apply_ite Host.Outcome.next]
    rfl

/-- R251: whatever is done after the reading follows on from it. -/
theorem State.laserJudged_ind {P : State → Prop} (hfault : ∀ cause, P ((s.laserRead m pin r).laserFault m cause))
    (hsettle : P (s.laserRead m pin r).settleLight) : P (s.laserJudged m pin r) := by
  unfold State.laserJudged
  split
  · exact hfault 1
  · split
    · exact hfault 4
    · exact hsettle

theorem State.laserJudged_sameOutside : SameOutside [.hub, .err, .fab, .pmu, .sent] s (s.laserJudged m pin r) :=
  (State.laserRead_sameOutside.mono (by simp)).trans
    (State.laserJudged_ind (State.laserFault_sameOutside _ m) (State.settleLight_sameOutside _))

theorem State.laserJudged_sent (h : (s.fab.lasers.getD m Laser.reset).assigned = false) :
    ∃ b, (s.laserJudged m pin r).sent = s.sent ++ Emit.laserAddress m (0x30 + m) :: b := by
  have hadds : Adds (s.laserRead m pin r) (s.laserJudged m pin r) :=
    State.laserJudged_ind (Adds.laserFault _ m) (Adds.settleLight _)
  obtain ⟨b, hb⟩ := hadds.sent
  rw [State.laserRead_sent h, List.append_assoc] at hb
  exact ⟨b, hb.symm⟩

theorem Faulted.laserRead (cause : Nat) :
    Faulted s ((s.laserRead m pin r).laserFault m cause) m cause fun l => l.polled pin r :=
  .laserFault State.laserRead_sameOutside (by rw [State.laserRead, State.assignLaser_fab])
    (.of_modify State.laserRead_lasers)

/-- R251: LS_FAULT_N of a lit module is seen low. -/
theorem Faulted.of_pin (hon : s.lightOn m = true) : Faulted s (s.laserJudged m false r) m 1 fun l => l.polled false r := by
  rw [State.laserJudged, if_pos (by simp [hon])]
  exact .laserRead 1

/-- R251: a lit module reports a fault bit. -/
theorem Faulted.of_reading (hon : s.lightOn m = true) (hid : (s.laserNow m true r).identified = true)
    (hbits : (s.laserNow m true r).faultReg % 8 ≠ 0) :
    Faulted s (s.laserJudged m true r) m 4 fun l => l.polled true r := by
  rw [State.laserJudged, if_neg (by simp), if_pos (by simp [hon, hid, hbits])]
  exact .laserRead 4

/-- R250, R252: nothing is wrong with a module, or it is dark. -/
theorem Relit.of_reading (h : s.lightOn m = false ∨ (pin = true ∧
      ((s.laserNow m pin r).identified = false ∨ (s.laserNow m pin r).faultReg % 8 = 0))) :
    Relit s (s.laserJudged m pin r) fun n l => if n = m then l.polled pin r else l := by
  have hpin : ¬(s.lightOn m && !pin) = true := by
    obtain h | ⟨h, -⟩ := h <;> simp [h]
  have hbits : ¬(s.lightOn m && (s.laserNow m pin r).identified && decide ((s.laserNow m pin r).faultReg % 8 ≠ 0)) = true := by
    obtain h | ⟨-, h | h⟩ := h <;> simp [h]
  rw [State.laserJudged, if_neg hpin, if_neg hbits]
  exact .settleLight (State.laserRead_sameOutside.mono (by simp)) (.of_modify State.laserRead_lasers)

end poll

end Sys2Proof.Machine
end

section
/-! SUPPORT. The ports' registers and the events on their light (R253, R256, R257, R258, R275). -/

namespace Sys2Proof.Machine
variable {s t u : State} {p q : Nat}

theorem State.setPort_sameOutside (s : State) (p : Nat) (x : Port) : SameOutside [.fab] s (s.setPort p x) := sameOutside_fab

theorem State.putCtrl_sameOutside (s : State) (p : Nat) (nak : Bool) (msg : Option LinkMsg) :
    SameOutside [.fab, .sent] s (s.putCtrl p nak msg) := fun r hr => by
  cases r <;> simp_all [StatePart.same]

theorem State.takeDown_sameOutside (s : State) (p st : Nat) (quiet : Bool) :
    SameOutside [.hub, .err, .fab, .pmu, .sent] s (s.takeDown p st quiet) := fun r hr => by
  cases r <;> simp_all [StatePart.same]

theorem State.settlePort_sameOutside (s : State) (p : Nat) :
    SameOutside [.hub, .err, .fab, .pmu, .sent] s (s.settlePort p) := fun r hr => by
  cases r <;> simp_all [StatePart.same]

/-! ### FAB_PORT_CTL -/

/-- R257, R258, R280: a port whose register FAB_PORT_CTL has been written. -/
def Port.controlled (x : Port) (w : Word32) : Port :=
  { x with
    en := w.getLsbD 0, quiesce := w.getLsbD 1, quiesced := x.quiesced && (w.getLsbD 1 || !w.getLsbD 0)
    fullTrain := x.fullTrain || w.getLsbD 2 }

/-- R257: the register is written, and an ACTIVE port that begins to quiesce has told its partner. -/
def State.portControlled (s : State) (p : Nat) (w : Word32) : State :=
  if (s.port p).state = 4 && !(s.port p).quiesce && w.getLsbD 1 then
    (s.setPort p ((s.port p).controlled w)).putCtrl p false (some .quiesce)
  else s.setPort p ((s.port p).controlled w)

section portCtl
variable {w : Word32}

theorem State.portCtlWrite_of_absent (h : s.portPresent p = false) : s.portCtlWrite p w = s := if_pos (by rw [h]; rfl)

theorem State.portCtlWrite_of_present (h : s.portPresent p = true) :
    s.portCtlWrite p w = (s.portControlled p w).settlePort p := if_neg (by rw [h]; simp)

/-- Telling the partner moves the rotation of lanes on, and that is all it does to a port. -/
theorem State.portControlled_port (s : State) (p : Nat) (w : Word32) :
    ∃ n, (s.portControlled p w).port p = { (s.port p).controlled w with txUnit := n } := by
  unfold State.portControlled
  split
  · exact ⟨_, by rw [State.port_putCtrl, if_pos rfl, State.port_setPort, if_pos rfl]⟩
  · exact ⟨_, by rw [State.port_setPort, if_pos rfl]⟩

theorem State.portControlled_fab (s : State) (p : Nat) (w : Word32) : PortsOnly s (s.portControlled p w) := by
  unfold State.portControlled
  split
  · exact (PortsOnly.setPort s p _).trans (.putFlit _ _ _ _ _ _)
  · exact .setPort s p _

theorem State.portControlled_sameOutside (s : State) (p : Nat) (w : Word32) :
    SameOutside [.fab, .sent] s (s.portControlled p w) := by
  have hset := (State.setPort_sameOutside s p ((s.port p).controlled w)).mono (qs := [.fab, .sent]) (by simp)
  unfold State.portControlled
  split
  · exact hset.trans (State.putCtrl_sameOutside _ _ _ _)
  · exact hset

theorem OtherPorts.portControlled (s : State) (p : Nat) (w : Word32) : OtherPorts p s (s.portControlled p w) := by
  refine .of_eq fun q hq => ?_
  unfold State.portControlled
  split
  · rw [State.port_putCtrl, if_neg hq, State.port_setPort, if_neg hq]
  · rw [State.port_setPort, if_neg hq]

theorem OtherPorts.portCtlWrite (h : s.portPresent p = true) : OtherPorts p s (s.portCtlWrite p w) := by
  obtain ⟨n, hport⟩ := s.portControlled_port p w
  rw [State.portCtlWrite_of_present h]
  refine (OtherPorts.portControlled s p w).trans (.settlePort _ p) (by rw [s.portControlled_fab p w]) ?_
  rw [hport]
  exact List.Subset.refl _

/-- R253: what holds ports DISABLED is not in the ports. -/
theorem State.portsHeld_of_portsOnly (h : PortsOnly s t) (he : t.err = s.err) : t.portsHeld = s.portsHeld := by
  rw [State.portsHeld, h, he, State.portsHeld]

theorem State.portPresent_of_portsOnly (h : PortsOnly s t) (hi : t.ident = s.ident) : t.portPresent p = s.portPresent p := by
  rw [State.portPresent, h, hi, State.portPresent]

theorem State.engineLit_of_portsOnly (h : PortsOnly s t) (hp : t.pwr = s.pwr) (e : Nat) : t.engineLit e = s.engineLit e := by
  rw [State.engineLit, h, hp, State.engineLit]

/-- R257: an ACTIVE port that is lit and not held goes on with what it has queued, and tells its partner that it quiesces. -/
theorem State.portCtlWrite_of_active (hpresent : s.portPresent p = true) (hheld : s.portsHeld = false)
    (hlit : s.engineLit (p / 2) = true) (h4 : (s.port p).state = 4) : s.portCtlWrite p w = s.portControlled p w := by
  obtain ⟨n, hport⟩ := s.portControlled_port p w
  have hfab := s.portControlled_fab p w
  have hpart := s.portControlled_sameOutside p w
  have hstate : ((s.portControlled p w).port p).state = 4 := by rw [hport]; exact h4
  rw [State.portCtlWrite_of_present hpresent, State.settlePort_of_lit (by simp [hstate])]
  · rw [State.portsHeld_of_portsOnly hfab (hpart .err (by simp)), hheld]
  · rw [State.portPresent_of_portsOnly hfab (hpart .ident (by simp)), hpresent]
  · exact .inr hstate
  · rw [State.engineLit_of_portsOnly hfab (hpart .pwr (by simp)), hlit]

theorem State.portControlled_sent (h4 : (s.port p).state = 4) (hq : (s.port p).quiesce = false) (hw : w.getLsbD 1 = true) :
    ∃ ls fl, (s.portControlled p w).sent = s.sent ++ [Emit.flit p ls (some .quiesce) fl] := by
  rw [State.portControlled, if_pos (by simp [h4, hq, hw])]
  exact State.putCtrl_sent (s.setPort p _) p false (some .quiesce)

/-- R253, R257, R258: what a write of FAB_PORT_CTL does to a port that is there. -/
theorem State.portCtlWrite_port (hpresent : s.portPresent p = true) :
    ((s.portCtlWrite p w).port p).en = w.getLsbD 0 ∧ ((s.portCtlWrite p w).port p).quiesce = w.getLsbD 1 ∧
    ((s.portCtlWrite p w).port p).fullTrain = ((s.port p).fullTrain || w.getLsbD 2) ∧
    (s.portsHeld = false → s.engineLit (p / 2) = true → (s.port p).state = 4 → ((s.portCtlWrite p w).port p).state = 4 ∧
      ((s.portCtlWrite p w).port p).queue = (s.port p).queue ∧ ((s.portCtlWrite p w).port p).unacked = (s.port p).unacked ∧
      ((s.port p).quiesce = false → w.getLsbD 1 = true →
        ∃ ls fl, (s.portCtlWrite p w).sent = s.sent ++ [Emit.flit p ls (some .quiesce) fl])) ∧
    ((s.port p).state ≠ 0 → (s.port p).state ≠ 4 → w.getLsbD 0 = false → ((s.portCtlWrite p w).port p).state = 0) := by
  obtain ⟨n, hport⟩ := s.portControlled_port p w
  obtain ⟨hen, hquiesce, hfull⟩ := (s.portControlled p w).settlePort_ctl p
  refine ⟨?_, ?_, ?_, fun hheld hlit h4 => ?_, fun h0 h4 hw => ?_⟩
  · rw [State.portCtlWrite_of_present hpresent, hen, hport]; rfl
  · rw [State.portCtlWrite_of_present hpresent, hquiesce, hport]; rfl
  · rw [State.portCtlWrite_of_present hpresent, hfull, hport]; rfl
  · rw [State.portCtlWrite_of_active hpresent hheld hlit h4, hport]
    exact ⟨h4, rfl, rfl, State.portControlled_sent h4⟩
  · rw [State.portCtlWrite_of_present hpresent, State.settlePort_of_disabled (by rw [hport]; exact h0) (by rw [hport]; exact h4)
      (by rw [hport]; exact hw), State.takeDown_state]

theorem State.portCtlWrite_sameOutside (hpresent : s.portPresent p = true) :
    SameOutside [.hub, .err, .fab, .pmu, .sent] s (s.portCtlWrite p w) := by
  rw [State.portCtlWrite_of_present hpresent]
  exact ((s.portControlled_sameOutside p w).mono (by simp)).trans (State.settlePort_sameOutside _ p)

end portCtl

/-! ### Loss and return of light -/

/-- R256, R257: an ACTIVE port that loses its light. -/
theorem execLossOfLight_of_active {p : Fin 16} (h4 : (s.port p.val).state = 4) :
    execLossOfLight p s = .next (if (s.port p.val).quiesced then s.takeDown p.val 1 true else s.recover p.val) := if_pos h4

/-- R253: a port that trains, or has failed, goes DARK. -/
theorem execLossOfLight_of_training {p : Fin 16}
    (h : (s.port p.val).state = 2 ∨ (s.port p.val).state = 3 ∨ (s.port p.val).state = 6) :
    execLossOfLight p s = .next (s.setPort p.val { s.port p.val with state := 1 }) := by
  obtain h | h | h := h <;> simp [execLossOfLight, h]

theorem execLossOfLight_of_down {p : Fin 16}
    (h : (s.port p.val).state = 0 ∨ (s.port p.val).state = 1 ∨ (s.port p.val).state = 5 ∨ 7 ≤ (s.port p.val).state) :
    execLossOfLight p s = .next s := by
  have h4 : (s.port p.val).state ≠ 4 := by omega
  have h23 : ¬((s.port p.val).state = 2 ∨ (s.port p.val).state = 3) := by omega
  have h6 : (s.port p.val).state ≠ 6 := by omega
  simp [execLossOfLight, h4, h23, h6]

theorem State.recover_port (s : State) (p : Nat) : (s.recover p).port p = { s.port p with
    state := 5, retrains := satAdd 16 (s.port p).retrains 1, recovering := true, wasDev := (s.port p).pDev
    wasPort := (s.port p).pPort, nakCount := 0 } := by
  rw [State.recover, State.port_setPort, if_pos rfl]

/-- R253, R256, R257: LOSS_OF_LIGHT of a port with a link or on its way to one. -/
theorem execLossOfLight_of_up {p : Fin 16} (h : (s.port p.val).state = 2 ∨ (s.port p.val).state = 3 ∨ (s.port p.val).state = 4 ∨
      (s.port p.val).state = 6) : ∃ t, execLossOfLight p s = .next t ∧
    (t.port p.val).state = (if (s.port p.val).state = 4 ∧ (s.port p.val).quiesced = false then 5 else 1) ∧
    ((s.port p.val).state = 4 → (s.port p.val).quiesced = false → (t.port p.val).unacked = (s.port p.val).unacked ∧
      (t.port p.val).queue = (s.port p.val).queue ∧ (t.port p.val).retrains = satAdd 16 (s.port p.val).retrains 1 ∧
      (t.port p.val).wasDev = (s.port p.val).pDev ∧ (t.port p.val).wasPort = (s.port p.val).pPort) ∧
    t.err = s.err ∧ OtherPorts p.val s t ∧ SameOutside [.hub, .err, .fab, .pmu, .sent] s t := by
  by_cases h4 : (s.port p.val).state = 4
  · refine ⟨_, execLossOfLight_of_active h4, ?_⟩
    cases hq : (s.port p.val).quiesced
    · simp only [Bool.false_eq_true, if_false, h4, true_and, if_true, State.recover_port, forall_const]
      exact ⟨rfl, .setPort s p.val _, sameOutside_fab.mono (by simp)⟩
    · simp only [if_true, Bool.true_eq_false, and_false, if_false, State.takeDown_state, IsEmpty.forall_iff, implies_true, true_and]
      exact ⟨State.takeDown_quiet_err s p.val 1, .takeDown s p.val 1 true, State.takeDown_sameOutside s p.val 1 true⟩
  · refine ⟨_, execLossOfLight_of_training (by omega), ?_, fun h4' => absurd h4' h4, rfl, .setPort s p.val _,
      sameOutside_fab.mono (by simp)⟩
    rw [State.port_setPort, if_pos rfl, if_neg (by simp [h4])]

/-- R253, R256, R258: LIGHT_RETURN of a DARK or recovering port whose engine is lit. -/
theorem execLightReturn_of_lit {p : Fin 16} (h : (s.port p.val).state = 1 ∨ (s.port p.val).state = 5)
    (hlit : s.engineLit (p.val / 2) = true) : ∃ t, execLightReturn p s = .next t ∧
    t.port p.val = { s.port p.val with
      state := 2, fast := (s.port p.val).trained && !(s.port p.val).fullTrain, fullTrain := false } ∧
    OtherPorts p.val s t ∧ SameOutside [.fab] s t :=
  ⟨_, if_pos (by simpa [hlit] using h), by rw [State.port_setPort, if_pos rfl], .setPort s p.val _,
    State.setPort_sameOutside s p.val _⟩

theorem execLightReturn_of_dark {p : Fin 16}
    (h : ((s.port p.val).state ≠ 1 ∧ (s.port p.val).state ≠ 5) ∨ s.engineLit (p.val / 2) = false) :
    execLightReturn p s = .next s := if_neg (by obtain ⟨h1, h5⟩ | h := h <;> simp [*])

/-- R258: FAST_TRAIN_FALLBACK of a port that trains fast. -/
theorem execFastTrainFallback_of_fast {p : Fin 16} (h2 : (s.port p.val).state = 2) (hf : (s.port p.val).fast = true) :
    ∃ t, execFastTrainFallback p s = .next t ∧ t.port p.val = { s.port p.val with fast := false } ∧ OtherPorts p.val s t ∧
    SameOutside [.fab] s t :=
  ⟨_, if_pos (by simp [h2, hf]), by rw [State.port_setPort, if_pos rfl], .setPort s p.val _, State.setPort_sameOutside s p.val _⟩

/-! ### The end of a link -/

/-- R253: a DARK port with nothing left on it stays so. -/
theorem State.settlePort_dark (h1 : (s.port p).state = 1) (hqueue : (s.port p).queue = []) (hacked : (s.port p).unacked = [])
    (hcount : (s.port p).discards ≤ 2 ^ 16 - 1) :
    ((s.settlePort p).port p).state = (if s.portsHeld = false ∧ s.portPresent p = true ∧ (s.port p).en = true ∧
      s.engineLit (p / 2) = true then 1 else 0) ∧
    ((s.settlePort p).port p).unacked = [] ∧ ((s.settlePort p).port p).queue = [] ∧
    ((s.settlePort p).port p).discards = (s.port p).discards := by
  rw [State.settlePort_of_dark h1]
  split
  · exact ⟨h1, hacked, hqueue, rfl⟩
  · obtain ⟨_, _, _, _, h⟩ := s.takeDown_port p 0 false
    rw [h]
    refine ⟨rfl, rfl, rfl, ?_⟩
    simp only [Port.down, Port.discard, hqueue, hacked, satAdd, List.length_nil, Nat.add_zero]
    exact min_eq_right hcount

/-- R256: the hold time of a recovering port has expired: its partner is lost, and the port is DARK. -/
def State.linkLost (s : State) (p : Nat) : State :=
  (s.raise 0x0804 .c p (devPayload (s.port p).wasDev p 0)).takeDown p 1 false

theorem State.linkLost_port (s : State) (p : Nat) : RxFreed ((s.port p).down 1) ((s.linkLost p).port p) := by
  have h := (s.raise 0x0804 .c p (devPayload (s.port p).wasDev p 0)).takeDown_port p 1 false
  rw [State.port_raise] at h
  exact h

theorem State.linkLost_raised (s : State) (p : Nat) : ∃ u, Raised s u 0x0804 .c p (devPayload (s.port p).wasDev p 0) ∧
    u.err.queue <+: (s.linkLost p).err.queue :=
  ⟨_, State.raise_raised, (Adds.takeDown _ p 1 false).queue⟩

theorem Adds.linkLost (s : State) (p : Nat) : Adds s (s.linkLost p) := (raise s _ _ _ _).trans (takeDown _ p 1 false)

theorem PortsOnly.linkLost (s : State) (p : Nat) : PortsOnly s (s.linkLost p) :=
  (of_fab (by simp)).trans (takeDown _ p 1 false)

theorem State.linkLost_sameOutside (s : State) (p : Nat) : SameOutside [.hub, .err, .fab, .pmu, .sent] s (s.linkLost p) :=
  (State.raise_sameOutside.mono (by simp)).trans (State.takeDown_sameOutside _ p 1 false)

theorem OtherPorts.linkLost (s : State) (p : Nat) : OtherPorts p s (s.linkLost p) :=
  (OtherPorts.of_eq fun q _ => s.port_raise _ _ _ _ q).trans (.takeDown _ p 1 false) (by simp) (by simp)

/-- R253, R482: what holds the ports is the same once the loss has been reported. -/
theorem State.linkLost_portsHeld (s : State) (p : Nat) : (s.linkLost p).portsHeld = s.portsHeld := by
  rw [State.portsHeld, PortsOnly.linkLost s p, (Adds.linkLost s p).handling, (Adds.linkLost s p).offline, State.portsHeld]

/-- R256, R275: FAB_LINK_DOWN of a recovering port. -/
theorem execFabLinkDown_of_recovery {p : Fin 16} (h5 : (s.port p.val).state = 5) : ∃ t, execFabLinkDown p s = .next t ∧
    (t.port p.val).state = (if s.portsHeld = false ∧ s.portPresent p.val = true ∧ (s.port p.val).en = true ∧
      s.engineLit (p.val / 2) = true then 1 else 0) ∧
    (t.port p.val).unacked = [] ∧ (t.port p.val).queue = [] ∧
    (t.port p.val).discards = satAdd 16 (s.port p.val).discards ((s.port p.val).unacked.length + (s.port p.val).queue.length) ∧
    (∃ u, Raised s u 0x0804 .c p.val (devPayload (s.port p.val).wasDev p.val 0) ∧ u.err.queue <+: t.err.queue) ∧
    OtherPorts p.val s t ∧ SameOutside [.hub, .err, .fab, .pmu, .sent] s t := by
  have hfab := PortsOnly.linkLost s p.val
  have hpart := State.linkLost_sameOutside s p.val
  obtain ⟨_, _, _, _, hport⟩ := s.linkLost_port p.val
  have hsettled := State.settlePort_dark (s := s.linkLost p.val) (p := p.val) (by rw [hport]; rfl) (by rw [hport]; rfl)
    (by rw [hport]; rfl) (by rw [hport]; exact Nat.min_le_left _ _)
  rw [State.linkLost_portsHeld, State.portPresent_of_portsOnly hfab (hpart .ident (by simp)),
    State.engineLit_of_portsOnly hfab (hpart .pwr (by simp)), hport] at hsettled
  obtain ⟨hstate, hacked, hqueue, hdiscards⟩ := hsettled
  obtain ⟨u, hraised, hprefix⟩ := s.linkLost_raised p.val
  refine ⟨_, if_pos h5, hstate, hacked, hqueue, hdiscards, ⟨u, hraised, ?_⟩, ?_, ?_⟩
  · exact hprefix.trans (Adds.settlePort _ p.val).queue
  · refine (OtherPorts.linkLost s p.val).trans (.settlePort _ p.val) (by rw [hfab]) ?_
    rw [hport]
    exact List.nil_subset _
  · exact hpart.trans (State.settlePort_sameOutside _ p.val)

/-- R253, R257: QUIESCED of a port that has sent everything and been acknowledged. -/
theorem execQuiesced_of_done {p : Fin 16} (h : (s.port p.val).state = 4 ∧
      ((s.port p.val).quiesce = true ∨ (s.port p.val).en = false) ∧ (s.port p.val).queue = [] ∧ (s.port p.val).unacked = []) : ∃ t, execQuiesced p s = .next t ∧ OtherPorts p.val s t ∧
    ((s.port p.val).en = true → t.port p.val = { s.port p.val with quiesced := true } ∧ t.err = s.err) ∧
    ((s.port p.val).en = false → (t.port p.val).state = 0) ∧ SameOutside [.hub, .err, .fab, .pmu, .sent] s t := by
  obtain ⟨h4, hquiesce, hqueue, hacked⟩ := h
  refine ⟨_, if_pos (by simpa [h4, hqueue, hacked] using hquiesce), ?_⟩
  by_cases hen : (s.port p.val).en = true
  · rw [if_pos hen]
    refine ⟨.setPort s p.val _, fun _ => ⟨by rw [State.port_setPort, if_pos rfl], rfl⟩, fun h => ?_, sameOutside_fab.mono (by simp)⟩
    exact absurd (hen.symm.trans h) (by decide)
  · rw [if_neg hen]
    exact ⟨.takeDown s p.val 0 false, fun h => absurd h hen, fun _ => State.takeDown_state s p.val 0 false,
      State.takeDown_sameOutside s p.val 0 false⟩

end Sys2Proof.Machine
end

section
/-! SUPPORT. A port that has trained (R245, R253, R254, R255, R258, R259). -/

namespace Sys2Proof.Machine
variable {s t : State} {p q : Nat}

/-! ### Fields of a number -/

/-- A number with a field replaced: what lies above the field, the field, and what lies below it. -/
theorem setFld_eq (x lo n v : Nat) : setFld x lo n v = 2 ^ lo * (2 ^ n * (x / 2 ^ lo / 2 ^ n) + v % 2 ^ n) + x % 2 ^ lo := by
  have hsplit : x = 2 ^ lo * (2 ^ n * (x / 2 ^ lo / 2 ^ n)) + 2 ^ lo * (x / 2 ^ lo % 2 ^ n) + x % 2 ^ lo := by
    rw [← Nat.mul_add, Nat.div_add_mod, Nat.div_add_mod]
  rw [setFld, fld, Nat.shiftRight_eq_div_pow, Nat.shiftLeft_eq, Nat.shiftLeft_eq, Nat.mul_add, Nat.mul_comm _ (2 ^ lo),
    Nat.mul_comm _ (2 ^ lo)]
  omega

theorem fld_testBit (x lo n i : Nat) : (fld x lo n).testBit i = (decide (i < n) && x.testBit (lo + i)) := by
  rw [fld, Nat.testBit_mod_two_pow, Nat.testBit_shiftRight]

theorem setFld_testBit (x lo n v i : Nat) : (setFld x lo n v).testBit i =
    if lo ≤ i ∧ i < lo + n then v.testBit (i - lo) else x.testBit i := by
  rw [setFld_eq, Nat.testBit_two_pow_mul_add _ (Nat.mod_lt _ (Nat.two_pow_pos lo)),
    Nat.testBit_two_pow_mul_add _ (Nat.mod_lt _ (Nat.two_pow_pos n))]
  simp only [Nat.testBit_mod_two_pow, Nat.testBit_div_two_pow]
  by_cases hlo : i < lo
  · rw [if_pos hlo, if_neg (by omega), decide_eq_true hlo, Bool.true_and]
  · rw [if_neg hlo]
    by_cases hn : i - lo < n
    · rw [if_pos hn, if_pos (by omega), decide_eq_true hn, Bool.true_and]
    · rw [if_neg hn, if_neg (by omega)]
      congr 1
      omega

theorem fld_setFld_self (x lo n v : Nat) : fld (setFld x lo n v) lo n = v % 2 ^ n := by
  refine Nat.eq_of_testBit_eq fun i => ?_
  rw [fld_testBit, setFld_testBit, Nat.testBit_mod_two_pow]
  by_cases hi : i < n
  · rw [if_pos (by omega), Nat.add_sub_cancel_left]
  · simp [hi]

theorem fld_setFld_of_disjoint {lo n lo' n' : Nat} (x v : Nat) (h : lo' + n' ≤ lo ∨ lo + n ≤ lo') :
    fld (setFld x lo n v) lo' n' = fld x lo' n' := by
  refine Nat.eq_of_testBit_eq fun i => ?_
  rw [fld_testBit, fld_testBit, setFld_testBit]
  by_cases hi : i < n'
  · rw [if_neg (by omega)]
  · simp [hi]

/-- Fields of one width, set one after the other: those set hold the value. -/
theorem fld_foldl_setFld (k v : Nat) (fs : List Nat) (x f : Nat) : fld (fs.foldl (fun d g => setFld d (k * g) k v) x) (k * f) k =
    if f ∈ fs then v % 2 ^ k else fld x (k * f) k := by
  induction fs generalizing x with
  | nil => rfl
  | cons g fs ih =>
    rw [List.foldl_cons, ih]
    by_cases hf : f ∈ fs
    · rw [if_pos hf, if_pos (List.mem_cons_of_mem g hf)]
    · rw [if_neg hf]
      by_cases hg : f = g
      · rw [if_pos (by simp [hg]), hg, fld_setFld_self]
      · have hapart : k * f + k ≤ k * g ∨ k * g + k ≤ k * f := by
          obtain h | h := Nat.lt_or_gt_of_ne hg
          · exact .inl (Nat.mul_le_mul_left k h)
          · exact .inr (Nat.mul_le_mul_left k h)
        rw [if_neg (by simp [hf, hg]), fld_setFld_of_disjoint x v hapart]

theorem bitAt_eq_fld (x f : Nat) : bitAt x f = (fld x f 1 == 1) := rfl

/-! ### Lanes return to service -/

/-- R245, R259: after a full training no wavelength of the port's fibres is dead, and their spares are free. -/
theorem State.reviveLanes_lanes {f : Nat} (hf : f ∈ s.fibresOf p) :
    fld (sget 0 (s.reviveLanes p).fab.dead (p / 2)) (9 * f) 9 = 0 ∧
    bitAt (sget 0 (s.reviveLanes p).fab.spareFree (p / 2)) f = true := by
  have hspare := fld_foldl_setFld 1 1 (s.fibresOf p) (sget 0 s.fab.spareFree (p / 2)) f
  simp only [Nat.one_mul] at hspare
  constructor
  · rw [State.reviveLanes, sget_sset, if_pos rfl, fld_foldl_setFld 9 0, if_pos hf]
    rfl
  · rw [State.reviveLanes, sget_sset, if_pos rfl, bitAt_eq_fld, hspare, if_pos hf]
    rfl

/-! ### Old receive buffers forgotten -/

/-- Packets that hold a receive buffer of port `p` hold none. -/
def unheld (p : Nat) (ys : List Packet) : List Packet :=
  ys.map fun y => if y.held.any fun h => h.1 = p then { y with held := none } else y

theorem sget_map {α : Type} {d : α} {f : α → α} (hf : f d = d) (m : SMap α) (k : Nat) :
    sget d (m.map fun x => (x.1, f x.2)) k = f (sget d m k) := by
  induction m with
  | nil => exact hf.symm
  | cons x m ih =>
    obtain ⟨j, v⟩ := x
    rw [List.map_cons, sget, sget, ih]
    exact (apply_ite f _ _ _).symm

theorem State.forgetRx_port (s : State) (p q : Nat) :
    (s.forgetRx p).port q = { s.port q with queue := unheld p (s.port q).queue } :=
  sget_map (f := fun x : Port => { x with queue := unheld p x.queue }) rfl s.fab.ports q

theorem State.forgetRx_sameOutside (s : State) (p : Nat) : SameOutside [.fab] s (s.forgetRx p) := sameOutside_fab

theorem State.reviveLanes_sameOutside (s : State) (p : Nat) : SameOutside [.fab] s (s.reviveLanes p) := sameOutside_fab

/-! ### Identity -/

theorem PortsOnly.putCtrl (s : State) (p : Nat) (nak : Bool) (msg : Option LinkMsg) : PortsOnly s (s.putCtrl p nak msg) :=
  putFlit s p _ _ _ _

section lanes
variable (h : PortsOnly s t)
include h

theorem State.fibresOf_of_portsOnly (p : Nat) : t.fibresOf p = s.fibresOf p := by
  rw [State.fibresOf, h, State.fibresOf]

theorem State.fibreMap_of_portsOnly (e f : Nat) : t.fibreMap e f = s.fibreMap e f := by
  have hcarrier : ∀ i, t.carrier e f i = s.carrier e f i := fun i => by rw [State.carrier, h, State.carrier]
  simp only [State.fibreMap, hcarrier]

theorem State.laneMap_of_portsOnly (p w : Nat) : t.laneMap p w = s.laneMap p w := by
  simp only [State.laneMap, State.fibresOf_of_portsOnly h, State.fibreMap_of_portsOnly h]

theorem State.usableWidth_of_portsOnly (p : Nat) : t.usableWidth p = s.usableWidth p := by
  have hsplit : t.fab.split = s.fab.split := by rw [h]
  have hlanes : t.fibreLanes = s.fibreLanes := by
    funext e f
    rw [State.fibreLanes, State.fibreMap_of_portsOnly h, State.fibreLanes]
  rw [State.usableWidth, State.fibresOf_of_portsOnly h, hsplit, hlanes, State.usableWidth]

/-- R254: what a port tells of itself does not hang on the ports. -/
theorem State.identityMsg_of_portsOnly (p : Nat) : s.identityMsg p = .identity s.fab.devid s.fab.pkey p
    (sget false s.fab.split (p / 2)) (t.usableWidth p) ((t.laneMap p (t.usableWidth p)).map Prod.snd) := by
  rw [State.identityMsg, State.laneMap_of_portsOnly h, State.usableWidth_of_portsOnly h]

end lanes

/-! ### Training is complete -/

/-- R245, R258: the lanes of a port that has trained, fully or fast. -/
def State.lanesTrained (s : State) (p : Nat) : State := if (s.port p).fast then s else s.reviveLanes p

/-- R255, R258: the port as its training ends after `ns` nanoseconds. -/
def Port.trainedIn (x : Port) (ns : Word32) : Port :=
  { x.restartRx with state := 3, trained := x.trained || !x.fast, lastTrain := min 65535 (ns.toNat / 32) }

/-- R254, R255: a port that is about to send its identity. -/
def State.portTrained (s : State) (p : Nat) (ns : Word32) : State :=
  ((s.lanesTrained p).forgetRx p).setPort p (Port.trainedIn { s.port p with queue := unheld p (s.port p).queue } ns)

section training
variable {ns : Word32}

theorem State.lanesTrained_port (s : State) (p q : Nat) : (s.lanesTrained p).port q = s.port q := by
  unfold State.lanesTrained
  split <;> rfl

theorem State.lanesTrained_sameOutside (s : State) (p : Nat) : SameOutside [.fab] s (s.lanesTrained p) := by
  unfold State.lanesTrained
  split
  · exact .refl _ s
  · exact s.reviveLanes_sameOutside p

theorem State.portTrained_ids (s : State) (p : Nat) (ns : Word32) : (s.portTrained p ns).fab.devid = s.fab.devid ∧
    (s.portTrained p ns).fab.pkey = s.fab.pkey ∧ (s.portTrained p ns).fab.split = s.fab.split := by
  unfold State.portTrained State.lanesTrained
  split <;> exact ⟨rfl, rfl, rfl⟩

theorem State.portTrained_port (s : State) (p : Nat) (ns : Word32) (q : Nat) : (s.portTrained p ns).port q =
    if q = p then Port.trainedIn { s.port p with queue := unheld p (s.port p).queue } ns
    else { s.port q with queue := unheld p (s.port q).queue } := by
  rw [State.portTrained, State.port_setPort, State.forgetRx_port, State.lanesTrained_port]

theorem State.portTrained_sameOutside (s : State) (p : Nat) (ns : Word32) : SameOutside [.fab] s (s.portTrained p ns) :=
  ((s.lanesTrained_sameOutside p).trans (State.forgetRx_sameOutside _ p)).trans (State.setPort_sameOutside _ p _)

theorem execTrainingComplete_of_acquire {p : Fin 16} (h2 : (s.port p.val).state = 2) : execTrainingComplete p ns s =
    .next ((s.portTrained p.val ns).putCtrl p.val false (some ((s.portTrained p.val ns).identityMsg p.val))) := by
  have hport : (((s.lanesTrained p.val).forgetRx p.val).port p.val) =
      { s.port p.val with queue := unheld p.val (s.port p.val).queue } := by
    rw [State.forgetRx_port, State.lanesTrained_port]
  refine (if_pos h2).trans ?_
  change Host.Outcome.next ((((s.lanesTrained p.val).forgetRx p.val).setPort p.val
    { (((s.lanesTrained p.val).forgetRx p.val).port p.val).restartRx with
      state := 3, trained := (s.port p.val).trained || !(s.port p.val).fast
      lastTrain := min 65535 (ns.toNat / 32) }).putCtrl p.val false
    (some (((s.lanesTrained p.val).forgetRx p.val).identityMsg p.val))) = _
  rw [hport]
  rfl

/-- R253, R254, R258: TRAINING_COMPLETE of a port that acquires. -/
theorem execTrainingComplete_trains {p : Fin 16} (h2 : (s.port p.val).state = 2) : ∃ t, execTrainingComplete p ns s = .next t ∧
    (t.port p.val = { s.port p.val with
        state := 3, trained := (s.port p.val).trained || !(s.port p.val).fast, lastTrain := min 65535 (ns.toNat / 32)
        queue := unheld p.val (s.port p.val).queue
        rxDed := List.replicate 8 0, rxDedFreed := List.replicate 8 0, rxPoolFreed := 0, rxGap := none
        txUnit := ((s.port p.val).txUnit + 32) % 96 } ∧
      ∀ q, q ≠ p.val → t.port q = { s.port q with queue := unheld p.val (s.port q).queue }) ∧
    ((s.port p.val).fast = true → t.fab.dead = s.fab.dead) ∧
    ((s.port p.val).fast = false → ∀ f ∈ s.fibresOf p.val, fld (sget 0 t.fab.dead (p.val / 2)) (9 * f) 9 = 0 ∧
      bitAt (sget 0 t.fab.spareFree (p.val / 2)) f = true) ∧
    (∃ ls fl, t.sent = s.sent ++ [Emit.flit p.val ls (some (.identity s.fab.devid s.fab.pkey p.val
      (sget false s.fab.split (p.val / 2)) (t.usableWidth p.val)
      ((t.laneMap p.val (t.usableWidth p.val)).map Prod.snd))) fl]) ∧
    SameOutside [.fab, .sent] s t := by
  refine ⟨_, execTrainingComplete_of_acquire h2, ⟨?_, fun q hq => ?_⟩, fun hfast => ?_, fun hfull f hf => ?_, ?_, ?_⟩
  · rw [State.port_putCtrl, if_pos rfl, State.portTrained_port, if_pos rfl]
    rfl
  · rw [State.port_putCtrl, if_neg hq, State.portTrained_port, if_neg hq]
  · change (s.lanesTrained p.val).fab.dead = s.fab.dead
    rw [State.lanesTrained, if_pos hfast]
  · change fld (sget 0 (s.lanesTrained p.val).fab.dead (p.val / 2)) (9 * f) 9 = 0 ∧
      bitAt (sget 0 (s.lanesTrained p.val).fab.spareFree (p.val / 2)) f = true
    rw [State.lanesTrained, if_neg (by simp [hfull])]
    exact State.reviveLanes_lanes hf
  · obtain ⟨hdevid, hpkey, hsplit⟩ := s.portTrained_ids p.val ns
    have hsent : (s.portTrained p.val ns).sent = s.sent := s.portTrained_sameOutside p.val ns .sent (by simp)
    rw [← hdevid, ← hpkey, ← hsplit, ← hsent, ← State.identityMsg_of_portsOnly (.putCtrl _ p.val false _)]
    exact State.putCtrl_sent _ p.val false _
  · exact ((s.portTrained_sameOutside p.val ns).mono (by simp)).trans (State.putCtrl_sameOutside _ _ _ _)

end training

end Sys2Proof.Machine
end

section
/-! SUPPORT. Light and ports follow their states: each clause of the statement (R250 to R253, R256 to R258, R275). -/

namespace Sys2Proof.Machine
variable {s : State}

/-- R484: writes of BAR0 while it is closed. -/
theorem exec_light_of_closed (hb : s.barOpen = false) (w : Word32) (v : RegWrite) (p : Fin 16) :
    exec (.laserEnable w) s = .next s ∧ exec (.laserFaultClear v) s = .next s ∧ exec (.quiesce p w) s = .next s ∧
    exec (.portDisable p w) s = .next s ∧ exec (.fullTrain p w) s = .next s := by
  have hport := State.onBar_of_closed hb fun t => t.portCtlWrite p.val w
  exact ⟨State.onBar_of_closed hb fun t => t.laserCtlWrite w,
    State.onBar_of_closed hb fun t => t.laserStatusWrite (mergeWrite 0 v), hport, hport, hport⟩

theorem execFabLaserFault_of_dark {m : Fin 4} (h : s.lightOn m.val = false) : execFabLaserFault m s = .next s :=
  if_neg (by simp [h])

/-- R251: the events that fault a lit module, each with its condition and its cause. -/
theorem exec_laserFaults (m : Fin 4) (power : BitVec 16) : ∀ x ∈ [(Instr.fabLaserFault m, true, 1),
      (.feedPowerCheck m power, decide (power.toInt < 1100), 2), (.feedPowerLow m power, decide (power.toInt < 1000), 3)],
    ((s.lightOn m.val && x.2.1) = false → exec x.1 s = .next s) ∧
    ((s.lightOn m.val && x.2.1) = true → ∃ t, exec x.1 s = .next t ∧ SameOutside [.hub, .err, .fab, .pmu, .sent] s t ∧
      Faulted s t m.val x.2.2 fun l => if x.2.2 = 1 then { l with faultN := false } else l) := by
  intro x hx
  simp only [List.mem_cons, List.not_mem_nil, or_false] at hx
  obtain rfl | rfl | rfl := hx
  · simp only [Bool.and_true, if_true]
    exact ⟨execFabLaserFault_of_dark, execFabLaserFault_of_lit⟩
  · exact ⟨fun h => if_neg (by simp [powerBelow, h]), fun h =>
      ⟨_, if_pos h, State.laserFault_sameOutside s m.val 2, .laserFault_self s m.val 2⟩⟩
  · exact ⟨fun h => if_neg (by simp [powerBelow, h]), fun h =>
      ⟨_, if_pos h, State.laserFault_sameOutside s m.val 3, .laserFault_self s m.val 3⟩⟩

/-- R251, R252: LASER_POLL of a module the MSS serves; `known` is what it makes of what it reads. -/
theorem execLaserPoll_reads {m : Fin 4} {pin : Bool} {r : Option LaserReading} {known : Laser → Laser}
    (hknown : ∀ l, l.polled pin r = known l) (hv : s.pwr.vstbyOk = true) (hh : s.mss.held = false)
    (hm : m.val < s.ident.grade.lasers) : ∃ t, execLaserPoll m pin r s = .next t ∧
    SameOutside [.hub, .err, .fab, .pmu, .sent] s t ∧
    ((s.fab.lasers.getD m.val Laser.reset).assigned = false →
      ∃ b, t.sent = s.sent ++ Emit.laserAddress m.val (0x30 + m.val) :: b) ∧
    (s.lightOn m.val = true → pin = false → Faulted s t m.val 1 known) ∧
    (s.lightOn m.val = true → pin = true → (known (s.fab.lasers.getD m.val Laser.reset)).identified = true →
      (known (s.fab.lasers.getD m.val Laser.reset)).faultReg % 8 ≠ 0 → Faulted s t m.val 4 known) ∧
    (s.lightOn m.val = false ∨ (pin = true ∧ ((known (s.fab.lasers.getD m.val Laser.reset)).identified = false ∨
        (known (s.fab.lasers.getD m.val Laser.reset)).faultReg % 8 = 0)) →
      Relit s t fun n l => if n = m.val then known l else l) := by
  obtain rfl : (fun l => l.polled pin r) = known := funext hknown
  refine ⟨_, execLaserPoll_of_served hv hh hm, State.laserJudged_sameOutside, State.laserJudged_sent, fun hon hpin => ?_,
    fun hon hpin hid hbits => ?_, Relit.of_reading⟩
  · subst hpin
    exact .of_pin hon
  · subst hpin
    exact .of_reading hon hid hbits

/-- R253, R257, R258: the three commands are writes of FAB_PORT_CTL. -/
theorem exec_portCtl (hb : s.barOpen = true) (p : Fin 16) (w : Word32) {i : Instr}
    (hi : i ∈ [Instr.quiesce p w, .portDisable p w, .fullTrain p w]) : exec i s = .next (s.portCtlWrite p.val w) := by
  simp only [List.mem_cons, List.not_mem_nil, or_false] at hi
  obtain rfl | rfl | rfl := hi
  all_goals exact State.onBar_of_open hb fun t => t.portCtlWrite p.val w

theorem exec_portCtl_of_present {p : Fin 16} (h : s.portPresent p.val = true) (w : Word32) {i : Instr}
    (hexec : exec i s = .next (s.portCtlWrite p.val w)) : ∃ t, exec i s = .next t ∧ (t.port p.val).en = w.getLsbD 0 ∧
    (t.port p.val).quiesce = w.getLsbD 1 ∧ (t.port p.val).fullTrain = ((s.port p.val).fullTrain || w.getLsbD 2) ∧
    (s.portsHeld = false → s.engineLit (p.val / 2) = true → (s.port p.val).state = 4 → (t.port p.val).state = 4 ∧
      (t.port p.val).queue = (s.port p.val).queue ∧ (t.port p.val).unacked = (s.port p.val).unacked ∧
      ((s.port p.val).quiesce = false → w.getLsbD 1 = true →
        ∃ ls fl, t.sent = s.sent ++ [Emit.flit p.val ls (some .quiesce) fl])) ∧
    ((s.port p.val).state ≠ 0 → (s.port p.val).state ≠ 4 → w.getLsbD 0 = false → (t.port p.val).state = 0) ∧
    OtherPorts p.val s t ∧ SameOutside [.hub, .err, .fab, .pmu, .sent] s t := by
  obtain ⟨hen, hquiesce, hfull, hactive, hdisabled⟩ := State.portCtlWrite_port (w := w) h
  exact ⟨_, hexec, hen, hquiesce, hfull, hactive, hdisabled, .portCtlWrite h, State.portCtlWrite_sameOutside h⟩

theorem execFastTrainFallback_of_not {p : Fin 16} (h : (s.port p.val).state ≠ 2 ∨ (s.port p.val).fast = false) :
    execFastTrainFallback p s = .next s := if_neg (by obtain h | h := h <;> simp [h])

theorem execQuiesced_of_busy {p : Fin 16} (h : ¬((s.port p.val).state = 4 ∧
      ((s.port p.val).quiesce = true ∨ (s.port p.val).en = false) ∧ (s.port p.val).queue = [] ∧ (s.port p.val).unacked = [])) :
    execQuiesced p s = .next s := if_neg (by simpa [and_assoc] using h)

/-- Settles O53: the modules by `Relit` and `Faulted`, the register FAB_PORT_CTL by `State.portCtlWrite_port`, and each event on a
port by its own lemma. -/
theorem lightAndPortsFollowTheirStates : Obligations.LightAndPortsFollowTheirStates := by
  unfold Obligations.LightAndPortsFollowTheirStates
  intro s
  refine ⟨fun hb w v p => ?closed, fun hb w v => ⟨execLaserEnable_of_open hb w, execLaserFaultClear_of_open hb v⟩,
    fun m power => ⟨exec_laserFaults m power, fun pin r => ⟨execLaserPoll_of_held, execLaserPoll_reads fun l => ?polled⟩⟩,
    fun hb p w i hi => ⟨fun h => ?absent, fun h => exec_portCtl_of_present h w (exec_portCtl hb p w hi)⟩,
    fun p => ⟨execLossOfLight_of_down, execLossOfLight_of_up, execLightReturn_of_dark, execLightReturn_of_lit,
      execFastTrainFallback_of_not, execFastTrainFallback_of_fast,
      fun ns => ⟨fun h => if_neg h, execTrainingComplete_trains⟩, fun h => if_neg h, execFabLinkDown_of_recovery,
      execQuiesced_of_busy, execQuiesced_of_done⟩⟩
  case closed => exact exec_light_of_closed hb w v p
  case polled => cases r <;> simp [Laser.polled]
  case absent => rw [exec_portCtl hb p w hi, State.portCtlWrite_of_absent h]

end Sys2Proof.Machine
end

section
/-! SUPPORT. Streams of the gradient exchange: packets taken from the inbox, and the rules every stream obeys (R299, R300,
R355). -/

namespace Sys2Proof.Machine
variable {s t u : State} {p : Packet}

/-! ### A packet taken from the inbox -/

/-- R256, R267: a packet that leaves the inbox leaves the state of `State.taken`. -/
theorem State.takeInbox_taken {f : Packet → Bool} (h : s.takeInbox f = some (p, u)) : ∃ x, u = s.taken x := by
  unfold State.takeInbox at h
  split at h
  · cases h
  case h_2 x _ =>
    cases h
    exact ⟨x, rfl⟩

theorem State.takeInbox_sameOutside {f : Packet → Bool} (h : s.takeInbox f = some (p, u)) : SameOutside [.fab, .sent] s u := by
  obtain ⟨x, rfl⟩ := State.takeInbox_taken h
  exact s.taken_sameOutside x

/-! ### Whether a packet's exchange is open, or coming -/

theorem State.exchSoon_congr (ho : t.cle.isOpen = s.cle.isOpen) (he : t.cle.exch = s.cle.exch) (hc : t.cke = s.cke) (p : Packet) :
    t.exchSoon p = s.exchSoon p := by
  simp only [State.exchSoon, State.exchNow, ho, he, hc]

/-! ### A stream accepted -/

theorem State.ackStream_sameOutside (s : State) (p : Packet) (dup : Bool) :
    SameOutside [.hub, .err, .fab, .pmu, .sent] s (s.ackStream p dup) := State.sendPacket_sameOutside s _

/-- R299: a stream as it is accepted: held, with the limits in force. -/
def heldStream (s : State) (gather : Bool) (p : Packet) : Stream :=
  ⟨gather, fld p.addr 0 16, fld p.addr 16 16, fld p.addr 32 14, pktAttempt gather p, p.src, .held, 0, 0, 0, false, false, [],
    false, 0, [], false, s.cle.hopWaitUs.toNat, s.cle.hopTimeoutUs.toNat, 0, 0⟩

theorem State.acceptStream_cle (s : State) (gather : Bool) (p : Packet) : (s.acceptStream gather p).cle = { s.cle with
    accepted := s.cle.accepted ++
      [(gather, fld p.addr 0 16, fld p.addr 16 16, fld p.addr 32 14, pktAttempt gather p, p.src)]
    streams := s.cle.streams ++ [heldStream s gather p] } := (State.ackStream_sameOutside _ p false) .cle (by simp)

theorem State.acceptStream_sameOutside (s : State) (gather : Bool) (p : Packet) :
    SameOutside [.hub, .err, .cle, .fab, .pmu, .sent] s (s.acceptStream gather p) :=
  (sameOutside_cle.mono (by simp)).trans ((State.ackStream_sameOutside _ p false).mono (by simp))

/-! ### What becomes of a packet -/

section onStream
variable {g : Bool} {ty : Nat} {f : State → Packet → Bucket → Stream → State} {b : Bucket} {x : Stream}

theorem onStream_of_none (h : s.takeStream g ty = none) : onStream s g ty f = s := by
  rw [onStream, h]

theorem onStream_of_discard (h : s.takeStream g ty = some (p, u)) (hj : u.judge g p = .discard) : onStream s g ty f = u := by
  rw [onStream, h]
  dsimp only
  rw [hj]

theorem onStream_of_dup (h : s.takeStream g ty = some (p, u)) (hj : u.judge g p = .dup) :
    onStream s g ty f = if firstOfStream p then u.ackStream p true else u := by
  rw [onStream, h]
  dsimp only
  rw [hj]

/-- R299: a new stream of an exchange yet to open: its packet stays where it is. -/
theorem onStream_of_soon (h : s.takeStream g ty = some (p, u)) (hj : u.judge g p = .fresh) (hs : s.exchSoon p = true) :
    onStream s g ty f = s.acceptStream g p := by
  have hu := State.takeInbox_sameOutside h
  have hcle : u.cle = s.cle := hu .cle (by simp)
  have hcke : (u.acceptStream g p).cke = s.cke := (State.acceptStream_sameOutside u g p .cke (by simp)).trans (hu .cke (by simp))
  have hsoon : (u.acceptStream g p).exchSoon p = true := by
    rw [State.exchSoon_congr (s := s) ?_ ?_ hcke, hs]
    · rw [State.acceptStream_cle, hcle]
    · rw [State.acceptStream_cle, hcle]
  have hwaits : (u.acceptStream g p).pktWaits g p = true := by rw [State.pktWaits, hsoon, if_pos rfl]
  rw [onStream, h]
  dsimp only
  rw [hj]
  dsimp only
  rw [hwaits, if_pos rfl]

/-- R299: a packet of an accepted stream takes effect. -/
theorem onStream_of_known (h : s.takeStream g ty = some (p, u)) (hj : u.judge g p = .known) (hb : u.pktBucket p = some b)
    (hx : u.streamOf g p = some x) : onStream s g ty f = (f u p b x).reapStreams := by
  rw [onStream, h]
  dsimp only
  rw [hj]
  dsimp only
  rw [hb, hx]

end onStream

/-- Each of the five commands runs its handler under the rules of streams. -/
theorem exec_stream {x : Instr × Bool × Nat} (hx : x ∈ [(Instr.part, false, 0x10), (.close, false, 0x11), (.gather, true, 0x16),
      (.gatherFc, true, 0x17), (.gatherClose, true, 0x18)]) (hs : s.hub.snoop = []) (hb : s.hub.bisnp = []) :
    ∃ f, exec x.1 s = .next (onStream s x.2.1 x.2.2 f) := by
  have hafter : ∀ f, exec x.1 s = .next (afterSnoop s (onStream s x.2.1 x.2.2 f)) →
      ∃ f, exec x.1 s = .next (onStream s x.2.1 x.2.2 f) := fun f h => ⟨f, h.trans (by rw [afterSnoop_of_nil hs hb])⟩
  simp only [List.mem_cons, List.not_mem_nil, or_false] at hx
  obtain rfl | rfl | rfl | rfl | rfl := hx
  · exact hafter _ rfl
  · exact hafter _ rfl
  · exact hafter _ rfl
  · exact hafter _ rfl
  · exact hafter _ rfl

/-- Settles O23: each verdict by the equation of `onStream` for it. -/
theorem streamPacketsObeyTheirRules : Obligations.StreamPacketsObeyTheirRules := by
  unfold Obligations.StreamPacketsObeyTheirRules
  intro s hs hb x hx
  obtain ⟨f, hexec⟩ := exec_stream hx hs hb
  refine ⟨fun h => ?none, fun p u h => ⟨fun hj => ?discard, fun hj => ?dup, fun hj hsoon => ?fresh⟩⟩
  case none => rw [hexec, onStream_of_none h]
  case discard => exact ⟨by rw [hexec, onStream_of_discard h hj], State.takeInbox_sameOutside h⟩
  case dup =>
    have hu := State.takeInbox_sameOutside h
    rw [onStream_of_dup h hj] at hexec
    refine ⟨_, hexec, ?_, fun hf => by rw [hf]; rfl, fun hf => by rw [hf]; rfl, ?_⟩
    · split
      · exact (State.ackStream_sameOutside u p true .cle (by simp)).trans (hu .cle (by simp))
      · exact hu .cle (by simp)
    · split
      · exact (hu.mono (by simp)).trans (State.ackStream_sameOutside u p true)
      · exact hu.mono (by simp)
  case fresh =>
    rw [onStream_of_soon h hj hsoon] at hexec
    exact ⟨_, hexec, by rw [State.acceptStream_cle]; rfl, by rw [State.acceptStream_cle], by rw [State.acceptStream_cle],
      State.acceptStream_sameOutside s _ p⟩

end Sys2Proof.Machine
end

section
/-! SUPPORT. What the CLE writes to memory (R227, R230), and what it keeps of its streams while it reads, adds and writes. -/

namespace Sys2Proof.Machine
variable {s t u : State} {p : Packet} {b : Bucket} {x : Stream}

/-! ### A write of an engine -/

theorem State.writePart_places (agent : Nat) (s : State) (q : Nat × List Byte) : SamePlaces s (State.writePart agent s q) := by
  have hc := (LinesRead.countLine s q.1 true).places
  unfold State.writePart
  dsimp only
  split
  · exact hc.trans (LinesRead.raise _ _ _ _ _).places
  · split
    · exact hc.trans ⟨rfl, rfl, rfl, rfl, rfl⟩
    · exact hc.trans ((LinesRead.touchLineQuiet _ _ _).places.trans ⟨rfl, rfl, rfl, rfl, rfl⟩)

/-- R227, R230: a part of a write is stored in a populated line. -/
theorem State.writePart_byteAt_of_populated {agent a : Nat} {q : Nat × List Byte} (hp : s.populated q.1 = true) (ha : q.1 ≤ a)
    (ha' : a < q.1 + q.2.length) : (State.writePart agent s q).byteAt a = q.2.getD (a - q.1) 0 := by
  have hpop : (s.countLine q.1 true).populated q.1 = true := ((LinesRead.countLine s q.1 true).places.populated q.1).trans hp
  have hstored : ∀ t : State, (t.storeBytes q.1 q.2).byteAt a = q.2.getD (a - q.1) 0 := fun t => by
    rw [State.storeBytes_byteAt, if_pos ⟨ha, ha'⟩]
  unfold State.writePart
  dsimp only
  rw [hpop, Bool.not_true, if_neg Bool.false_ne_true]
  split
  · exact hstored _
  · exact hstored _

theorem lineParts_byteAt_of_populated {agent a : Nat} (n d : Nat) (bs : List Byte) (s : State) (hn : bs.length ≤ n) (ha : d ≤ a)
    (ha' : a < d + bs.length) (hp : s.populated a = true) :
    ((lineParts n d bs).foldl (State.writePart agent) s).byteAt a = bs.getD (a - d) 0 := by
  induction n generalizing d bs s with
  | zero => omega
  | succ n ih =>
    have hne : bs.isEmpty = false := by
      rw [List.isEmpty_eq_false_iff]
      exact List.ne_nil_of_length_pos (by omega)
    rw [lineParts, hne, if_neg Bool.false_ne_true, List.foldl_cons]
    by_cases hl : a < d + (64 - d % 64)
    · have hpd : s.populated d = true := (s.populated_line (by omega)).trans hp
      rw [lineParts_byteAt _ _ _ _ (.inl hl), State.writePart_byteAt_of_populated hpd ha (by rw [List.length_take]; omega)]
      simp only [List.getD_eq_getElem?_getD, List.getElem?_take]
      rw [if_pos (by omega)]
    · rw [ih _ _ _ (by rw [List.length_drop]; omega) (by omega) (by rw [List.length_drop]; omega)
        (((State.writePart_places _ _ _).populated a).trans hp)]
      simp only [List.getD_eq_getElem?_getD, List.getElem?_drop]
      rw [show 64 - d % 64 + (a - (d + (64 - d % 64))) = a - d by omega]

/-- R227, R230: what a write stores where memory is populated. -/
theorem State.agentWrite_byteAt_of_populated {agent a d : Nat} {bs : List Byte} (ha : d ≤ a) (ha' : a < d + bs.length)
    (hp : s.populated a = true) : (s.agentWrite d agent bs).byteAt a = bs.getD (a - d) 0 :=
  lineParts_byteAt_of_populated _ d bs s le_rfl ha ha' hp

theorem State.cleNum_byteAt {d n v a : Nat} (h : a < d ∨ d + n ≤ a) : (s.cleNum d n v).byteAt a = s.byteAt a :=
  State.agentWrite_byteAt (by rwa [leBytes_length])

/-! ### What the reads of an engine leave of the CKE -/

/-- R234: of the CKE the health word alone has changed. -/
def HealthOnly (s t : State) : Prop := t.cke = { s.cke with health := t.cke.health }

namespace HealthOnly

theorem of_cke (h : t.cke = s.cke) : HealthOnly s t := by rw [HealthOnly, h]

theorem trans (h : HealthOnly s t) (h' : HealthOnly t u) : HealthOnly s u := by
  unfold HealthOnly at *
  rw [h', h]

theorem foldl {α : Type} (l : List α) {f : State → α → State} (hf : ∀ t a, HealthOnly t (f t a)) (s : State) :
    HealthOnly s (l.foldl f s) := by
  induction l generalizing s with
  | nil => exact of_cke rfl
  | cons a l ih => exact (hf s a).trans (ih _)

theorem notePoison (s : State) (a agent : Nat) : HealthOnly s (s.notePoison a agent) := by
  have hhealth : ∀ t : State, HealthOnly t (if agentSetsHealth agent then t.setHealth 3 else t) := fun t => by
    split
    · exact rfl
    · exact rfl
  unfold State.notePoison
  refine trans ?_ (hhealth _)
  split
  · exact of_cke (by simp)
  · exact of_cke (by simp)
  · exact of_cke (by simp)

theorem touchLineAs (s : State) (code a agent : Nat) : HealthOnly s (s.touchLineAs code a agent).2 := by
  have hfresh : ∀ (t : State) (n : Nat), HealthOnly t { t with fresh := n } := fun _ _ => rfl
  have hc : HealthOnly s (s.countLine a false) := of_cke (by simp)
  have hk : HealthOnly s ((s.countLine a false).checkLine code a agent) := hc.trans (of_cke (by simp))
  unfold State.touchLineAs
  dsimp only
  split
  · exact hc.trans (.trans (of_cke (by simp [State.noteHole])) (hfresh _ _))
  · split
    · exact hc.trans ((notePoison _ _ _).trans (hfresh _ _))
    · split
      · exact hk.trans ((notePoison _ _ _).trans (hfresh _ _))
      · exact hk

theorem engineReads (s : State) (agent : Nat) (rs : List (Nat × Nat)) : HealthOnly s (s.engineReads agent rs) :=
  foldl _ (fun t _ => touchLineAs t _ _ _) s

theorem isLost (h : HealthOnly s t) : t.isLost = s.isLost := by
  funext d
  rw [State.isLost, h, State.isLost]

theorem chain (h : HealthOnly s t) (b : Bucket) (j : Nat) : t.chain b j = s.chain b j := by
  rw [State.chain, h.isLost, State.chain]

end HealthOnly

/-! ### Streams and closed shards -/

/-- R299: the CLE's streams and its closed shards are as they were. -/
structure StreamsKept (s t : State) : Prop where
  streams : t.cle.streams = s.cle.streams
  closed : t.cle.closed = s.cle.closed

namespace StreamsKept

theorem of_cle (h : t.cle = s.cle) : StreamsKept s t := ⟨by rw [h], by rw [h]⟩

theorem trans (h : StreamsKept s t) (h' : StreamsKept t u) : StreamsKept s u := ⟨h'.streams.trans h.streams, h'.closed.trans h.closed⟩

theorem foldl {α : Type} (l : List α) {f : State → α → State} (hf : ∀ t a, StreamsKept t (f t a)) (s : State) :
    StreamsKept s (l.foldl f s) := by
  induction l generalizing s with
  | nil => exact ⟨rfl, rfl⟩
  | cons a l ih => exact (hf s a).trans (ih _)

/-- R289: of the CLE, this device's part in a block changes counters and sticky bits alone. -/
theorem hopStep (bi j : Nat) (b : Bucket) (a : HopAcc) (y : Nat × WBlk) : StreamsKept a.st (hopStep bi j b a y).st := by
  unfold Machine.hopStep
  dsimp only
  refine ⟨?_, ?_⟩
  · (repeat' split) <;> simp
  · (repeat' split) <;> simp

theorem hopRun (s : State) (bi j : Nat) (b : Bucket) (xs : List (Nat × WBlk)) : StreamsKept s (s.hopRun bi j b xs).st := by
  have hfold : ∀ (l : List (Nat × WBlk)) (a : HopAcc), StreamsKept a.st (l.foldl (Machine.hopStep bi j b) a).st := by
    intro l
    induction l with
    | nil => exact fun a => ⟨rfl, rfl⟩
    | cons y l ih => exact fun a => (hopStep bi j b a y).trans (ih _)
  unfold State.hopRun
  split
  · exact ⟨rfl, rfl⟩
  · exact .trans (of_cle (by simp)) (hfold _ _)

theorem learnCensus (s : State) (bi : Nat) (b : Bucket) (j : Nat) (c : Census) : StreamsKept s (s.learnCensus bi b j c) := by
  unfold State.learnCensus
  dsimp only
  split
  · split
    · exact of_cle (by simp)
    · exact of_cle (by simp)
  · split
    · exact of_cle (by simp)
    · split
      · exact ⟨rfl, rfl⟩
      · exact ⟨by simp, by simp⟩

theorem sendAll (s : State) (ps : List Packet) : StreamsKept s (s.sendAll ps) := of_cle (by simp)

theorem setHealthIf (q : Prop) [Decidable q] (s : State) (n : Nat) : StreamsKept s (if q then s.setHealth n else s) := by
  split
  · exact ⟨rfl, rfl⟩
  · exact ⟨rfl, rfl⟩

theorem closing (h : StreamsKept s t) (x : Nat × Nat) :
    StreamsKept { s with cle.closed := s.cle.closed ++ [x] } { t with cle.closed := t.cle.closed ++ [x] } :=
  ⟨h.streams, congrArg (· ++ [x]) h.closed⟩

/-- R302: a shard is closed: that alone, of the streams and the closed shards. -/
theorem closeShard (s : State) (bi j : Nat) (b : Bucket) (xs : List WBlk) (c : Census) (n : Bool) :
    StreamsKept { s with cle.closed := s.cle.closed ++ [(bi, j)] } (s.closeShard bi j b xs c n) := by
  have hexcl : ∀ (f : Nat → Nat) (t : State), StreamsKept t (c.excl.foldl (fun t p =>
      { t.raise 0x0908 .c 0 (f p) with cle.exclCount := satAdd 32 t.cle.exclCount 1 }) t) := fun _ t =>
    foldl _ (fun t p => ⟨by simp, by simp⟩) t
  have hclose : ∀ (u : State) (l : List Byte), StreamsKept s u → StreamsKept { s with cle.closed := s.cle.closed ++ [(bi, j)] }
      (({ u with cle.closed := u.cle.closed ++ [(bi, j)] }.finalsHere bi j l).learnCensus bi b j c) := fun u l h =>
    (h.closing (bi, j)).trans (.trans ⟨by simp [State.finalsHere], by simp [State.finalsHere]⟩ (learnCensus _ _ _ _ _))
  have hwritten : StreamsKept s (((s.writeFinals b j xs (n || c.overfull)).countHub 9 (maskBit 2) xs.length).setDiv b j c.samples) :=
    of_cle (by simp)
  unfold State.closeShard
  dsimp only
  split
  · exact hclose _ _ (((hwritten.trans (hexcl _ _)).trans (setHealthIf _ _ _)).trans (setHealthIf _ _ _))
  · refine .trans ?_ (sendAll _ _)
    exact hclose _ _ (((hwritten.trans (hexcl _ _)).trans (setHealthIf _ _ _)).trans (setHealthIf _ _ _))

theorem closeAlone (s : State) (bi j : Nat) (b : Bucket) (d : Bool) :
    StreamsKept { s with cle.closed := s.cle.closed ++ [(bi, j)] } (s.closeAlone bi j b d) := by
  have hread : StreamsKept s (s.readAgreed b (b.first j) (b.len j)) := of_cle (by simp)
  have hrun := hread.trans (hopRun _ bi j b ((s.readAgreed b (b.first j) (b.len j)).zeroBlocks b j))
  exact (hrun.closing (bi, j)).trans (closeShard _ _ _ _ _ _ _)

end StreamsKept

end Sys2Proof.Machine
end

section
/-! SUPPORT. What a packet of an accepted stream does (R289, R291, R304, R305). -/

namespace Sys2Proof.Machine
variable {s t u : State} {p : Packet} {b : Bucket} {x y : Stream} {g : Bool} {ty : Nat}

theorem State.streamOf_mem (h : u.streamOf g p = some x) : x ∈ u.cle.streams := List.mem_of_find?_eq_some h

theorem State.streamOf_matches (h : u.streamOf g p = some x) : x.matches g p = true := by
  have hfound := List.find?_some h
  exact hfound

/-- A stream that has not both ended and been answered stays. -/
theorem State.mem_reapStreams (h : y ∈ t.cle.streams) (hy : (y.ended && y.acked) = false) : y ∈ t.reapStreams.cle.streams :=
  List.mem_filter.2 ⟨h, by rw [hy]; rfl⟩

/-- The stream of a packet, once the streams of the packet have been changed. -/
theorem State.streamOf_changed {f : Stream → Stream} (hx : u.streamOf g p = some x)
    (ht : t.cle.streams = u.cle.streams.map fun y => if y.matches g p then f y else y)
    (hy : ((f x).ended && (f x).acked) = false) : f x ∈ t.reapStreams.cle.streams := by
  refine State.mem_reapStreams ?_ hy
  rw [ht]
  exact List.mem_map.2 ⟨x, State.streamOf_mem hx, if_pos (State.streamOf_matches hx)⟩

theorem exec_of_known {i : Instr} {f : State → Packet → Bucket → Stream → State}
    (hexec : exec i s = .next (afterSnoop s (onStream s g ty f))) (hs : s.hub.snoop = []) (hi : s.hub.bisnp = [])
    (h : s.takeStream g ty = some (p, u)) (hj : u.judge g p = .known) (hb : u.pktBucket p = some b)
    (hx : u.streamOf g p = some x) : exec i s = .next (f u p b x).reapStreams := by
  rw [hexec, afterSnoop_of_nil hs hi, onStream_of_known h hj hb hx]

/-! ### PART -/

/-- R293: the blocks of a PART with their numbers within the shard. -/
def partIn (p : Packet) : List (Nat × WBlk) := (partBlocks p).zipIdx.map fun y => (p.aux % 2 ^ 26 + y.2, y.1)

/-- R289, R299: the blocks of a PART as they leave this device. -/
def partOut (u : State) (p : Packet) (b : Bucket) (x : Stream) : List WBlk :=
  if x.mode = .late then (partIn p).map Prod.snd
  else ((u.readAgreed b (b.first x.shard + p.aux % 2 ^ 26) (fld p.aux 26 6)).hopRun x.bucket x.shard b (partIn p)).out

/-- R289: the blocks of a PART kept with those merged before. -/
def partMerged (u : State) (p : Packet) (b : Bucket) (x : Stream) (m : SMap (Option WBlk)) : SMap (Option WBlk) :=
  (((partIn p).map Prod.fst).zip (partOut u p b x)).foldl (fun m q => sset none m q.1 (some q.2)) m

/-- R289, R291: at the acting owner a PART's blocks stay with its stream. -/
theorem partAt_of_owner (ha : after (u.chain b x.shard) (b.pos u.fab.devid) = none) : ∃ f : Stream → Stream,
    (partAt u p b x).cle.streams = u.cle.streams.map (fun y => if y.matches false p then f y else y) ∧
    ∀ y, (f y).shard = y.shard ∧ (f y).src = y.src ∧ (f y).ended = y.ended ∧ (f y).merged = partMerged u p b x y.merged := by
  have hread : HealthOnly u (u.readAgreed b (b.first x.shard + p.aux % 2 ^ 26) (fld p.aux 26 6)) := .engineReads _ _ _
  have hkept : StreamsKept u (u.readAgreed b (b.first x.shard + p.aux % 2 ^ 26) (fld p.aux 26 6)) := .of_cle (by simp)
  have hfab : (u.readAgreed b (b.first x.shard + p.aux % 2 ^ 26) (fld p.aux 26 6)).fab = u.fab := by simp
  unfold partAt partMerged partOut
  dsimp only
  rw [hread.chain, hfab, ha]
  dsimp only
  by_cases hl : x.mode = .late
  · rw [if_pos hl, if_pos hl, if_pos hl]
    exact ⟨_, congrArg (List.map _) hkept.streams, fun y => ⟨rfl, rfl, rfl, rfl⟩⟩
  · rw [if_neg hl, if_neg hl, if_neg hl]
    exact ⟨_, congrArg (List.map _) (hkept.trans (.hopRun _ _ _ _ _)).streams, fun y => ⟨rfl, rfl, rfl, rfl⟩⟩

theorem partAt_sameOutside (u : State) (p : Packet) (b : Bucket) (x : Stream) :
    SameOutside [.hub, .err, .mem, .cle, .cke, .pwr, .fab, .pmu, .sent, .fresh] u (partAt u p b x).reapStreams := fun q hq => by
  cases q <;> simp_all [StatePart.same]

/-! ### CLOSE -/

/-- R294: at a hop the census goes on to the next position, and the stream has ended here. -/
theorem closeAt_of_hop {nx : Nat} (ha : after (u.chain b x.shard) (b.pos u.fab.devid) = some nx) : ∃ f : Stream → Stream,
    (closeAt u p b x).mem = u.mem ∧
    (closeAt u p b x).cle.streams = u.cle.streams.map (fun y => if y.matches false p then f y else y) ∧
    ∀ y, (f y).shard = y.shard ∧ (f y).src = y.src ∧ (f y).acked = y.acked ∧ (f y).ended = true := by
  unfold closeAt
  dsimp only
  rw [ha]
  dsimp only
  exact ⟨_, by simp, (StreamsKept.sendAll _ _).streams, fun y => ⟨rfl, rfl, rfl, rfl⟩⟩

theorem closeAt_sameOutside (u : State) (p : Packet) (b : Bucket) (x : Stream) :
    SameOutside [.hub, .err, .mem, .cle, .cke, .pwr, .fab, .pmu, .sent, .fresh] u (closeAt u p b x).reapStreams := fun q hq => by
  cases q <;> simp_all [StatePart.same]

/-! ### The all-gather -/

/-- R227, R230: what a write of the CLE leaves in memory, every byte of it that lies in populated memory. -/
theorem cleWrite_stored {d : Nat} {bs : List Byte} (hu : SameOutside [.fab, .sent] s u) (ht : t.mem = (u.cleWrite d bs).mem) :
    (∀ i, i < bs.length → (∀ a, a / 64 = (d + i) / 64 → s.populated a = true) → t.byteAt (d + i) = bs.getD i 0) ∧
    (∀ a, (a < d ∨ d + bs.length ≤ a) → t.byteAt a = s.byteAt a) := by
  have hmem : u.mem = s.mem := hu .mem (by simp)
  have hplaces : SamePlaces s u := .of_mem (hu .ident (by simp)) hmem
  have hbytes : ∀ a, t.byteAt a = (u.cleWrite d bs).byteAt a := State.byteAt_of_bytes (congrArg Memory.bytes ht)
  refine ⟨fun i hi hp => ?_, fun a ha => ?_⟩
  · rw [hbytes, State.cleWrite, State.agentWrite_byteAt_of_populated (by omega) (by omega)
      ((hplaces.populated _).trans (hp _ rfl)), Nat.add_sub_cancel_left]
  · rw [hbytes, State.cleWrite, State.agentWrite_byteAt ha, State.byteAt_of_bytes (congrArg Memory.bytes hmem)]

/-- R304: a GATHER stores its bytes at the staging address of its shard. -/
theorem gatherAt_mem {m : ShardMap} {e : MapEnt} (hm : u.cle.armed = some m) (he : m.entryOf x.bucket x.shard = some e) :
    (gatherAt u p b x).reapStreams.mem = (u.cleWrite (u.stageAddr m e + p.aux) p.payload).mem := by
  simp [gatherAt, hm, he]

theorem gatherAt_sameOutside (u : State) (p : Packet) (b : Bucket) (x : Stream) :
    SameOutside [.hub, .err, .mem, .cle, .pwr, .fab, .pmu, .sent, .fresh] u (gatherAt u p b x).reapStreams := fun q hq => by
  cases q <;> simp_all [StatePart.same]

/-- R305: the forecast entries of a GATHER_FC go to the alternate plane, and the packet on. -/
def gatherFcAt (u : State) (p : Packet) (b : Bucket) (x : Stream) : State :=
  forwardGather ((u.cleWrite (u.altPlane b.fc0 b.fc1 + 2 * (b.first x.shard + p.aux)) p.payload).modStream true p fun y =>
    { y with gotFc := y.gotFc + p.payload.length }) p b x false

theorem gatherFcAt_mem (u : State) (p : Packet) (b : Bucket) (x : Stream) : (gatherFcAt u p b x).reapStreams.mem =
    (u.cleWrite (u.altPlane b.fc0 b.fc1 + 2 * (b.first x.shard + p.aux)) p.payload).mem := by
  simp [gatherFcAt]

theorem gatherFcAt_sameOutside (u : State) (p : Packet) (b : Bucket) (x : Stream) :
    SameOutside [.hub, .err, .mem, .cle, .pwr, .fab, .pmu, .sent, .fresh] u (gatherFcAt u p b x).reapStreams := fun q hq => by
  cases q <;> simp_all [StatePart.same, gatherFcAt]

/-- R298, R305: a GATHER_CLOSE stages its shard, and goes on. -/
def gatherCloseAt (u : State) (p : Packet) (b : Bucket) (x : Stream) : State :=
  ((forwardGather u p b x true).learnCensus x.bucket b x.shard (censusOf p.payload)).markStaged x.bucket x.shard

theorem State.settleStaged_staged (s : State) : s.settleStaged.cle.staged = s.cle.staged := by
  unfold State.settleStaged
  dsimp only
  split
  · simp
  · rfl

theorem State.markStaged_staged (s : State) (bi j : Nat) : (s.markStaged bi j).cle.staged.contains (bi, j) = true := by
  rw [State.markStaged, State.settleStaged_staged]
  split
  case isTrue h => exact h
  case isFalse => simp

theorem State.reapStreams_staged (s : State) : s.reapStreams.cle.staged = s.cle.staged := rfl

theorem gatherCloseAt_staged (u : State) (p : Packet) (b : Bucket) (x : Stream) :
    (gatherCloseAt u p b x).reapStreams.cle.staged.contains (x.bucket, x.shard) = true := by
  rw [State.reapStreams_staged, gatherCloseAt, State.markStaged_staged]

theorem gatherCloseAt_sameOutside (u : State) (p : Packet) (b : Bucket) (x : Stream) :
    SameOutside [.hub, .err, .mem, .cle, .cke, .pwr, .fab, .pmu, .sent, .fresh] u (gatherCloseAt u p b x).reapStreams := fun q hq => by
  cases q <;> simp_all [StatePart.same, gatherCloseAt]

/-- Settles O24: a packet of a known stream runs its handler, and each handler acts by its own lemmas. -/
theorem streamPacketsTakeEffect : Obligations.StreamPacketsTakeEffect := by
  unfold Obligations.StreamPacketsTakeEffect
  intro s u p b x hs hi hb _
  refine ⟨fun h hj hx => ?part, fun h hj hx => ?close, fun m e h hj hx hm he => ?gather, fun h hj hx => ?forecast,
    fun h hj hx => ?staged⟩
  case part =>
    refine ⟨_, exec_of_known (f := partAt) rfl hs hi h hj hb hx, fun ha he => ?_,
      ((State.takeInbox_sameOutside h).mono (by simp)).trans (partAt_sameOutside u p b x)⟩
    obtain ⟨f, hstreams, hf⟩ := partAt_of_owner ha
    obtain ⟨hshard, hsrc, hended, hmerged⟩ := hf x
    exact ⟨f x, State.streamOf_changed hx hstreams (by rw [hended, he]; rfl), hshard, hsrc, hmerged⟩
  case close =>
    have hu := State.takeInbox_sameOutside h
    refine ⟨_, exec_of_known (f := closeAt) rfl hs hi h hj hb hx, fun nx ha hack => ?_,
      (hu.mono (by simp)).trans (closeAt_sameOutside u p b x)⟩
    obtain ⟨f, hmem, hstreams, hf⟩ := closeAt_of_hop (p := p) ha
    obtain ⟨hshard, hsrc, hacked, hended⟩ := hf x
    exact ⟨hmem.trans (hu .mem (by simp)), f x, State.streamOf_changed hx hstreams (by rw [hacked, hack, Bool.and_false]), hended,
      hshard, hsrc⟩
  case gather =>
    have hu := State.takeInbox_sameOutside h
    have hstage : u.stageAddr m e = s.stageAddr m e := by rw [State.stageAddr, hu .cke (by simp), State.stageAddr]
    have hmem := gatherAt_mem (p := p) (b := b) hm he
    rw [hstage] at hmem
    obtain ⟨hin, hout⟩ := cleWrite_stored hu hmem
    exact ⟨_, exec_of_known (f := gatherAt) rfl hs hi h hj hb hx, hin, hout, (hu.mono (by simp)).trans (gatherAt_sameOutside u p b x)⟩
  case forecast =>
    have hu := State.takeInbox_sameOutside h
    have hplane : u.altPlane b.fc0 b.fc1 = s.altPlane b.fc0 b.fc1 := by
      rw [State.altPlane, State.slot, hu .cke (by simp), State.altPlane, State.slot]
    have hmem := gatherFcAt_mem u p b x
    rw [hplane] at hmem
    obtain ⟨hin, hout⟩ := cleWrite_stored hu hmem
    exact ⟨_, exec_of_known (f := gatherFcAt) rfl hs hi h hj hb hx, hin, hout,
      (hu.mono (by simp)).trans (gatherFcAt_sameOutside u p b x)⟩
  case staged =>
    exact ⟨_, exec_of_known (f := gatherCloseAt) rfl hs hi h hj hb hx, gatherCloseAt_staged u p b x,
      ((State.takeInbox_sameOutside h).mono (by simp)).trans (gatherCloseAt_sameOutside u p b x)⟩

end Sys2Proof.Machine
end

section
/-! SUPPORT. The finals of a shard at its buddy (R302). -/

namespace Sys2Proof.Machine
variable {s t u : State} {p : Packet} {b : Bucket} {y : WBlk} {ty a : Nat}

/-! ### What a final block writes -/

/-- R282, R293: a block from the wire has 32 final lanes. -/
theorem finBytes_blkOf_length (w c : Nat) (bs : List Byte) : (finBytes (blkOf w c bs)).length = 128 := by
  unfold blkOf
  dsimp only
  split
  · simp [finBytes, leBytes_length, Function.comp_def]
  · simp [finBytes, leBytes_length, Function.comp_def]
  · simp [finBytes, leBytes_length, Function.comp_def]
  · simp [finBytes, leBytes_length, Function.comp_def]

theorem finBytes_partBlocks_length (h : y ∈ partBlocks p) : (finBytes y).length = 128 := by
  simp only [partBlocks, List.mem_map] at h
  obtain ⟨i, -, rfl⟩ := h
  exact finBytes_blkOf_length _ _ _

/-- R282: an address outside the final areas of a block and its next forecast entry. -/
def OutsideFinal (s : State) (b : Bucket) (n a : Nat) : Prop :=
  (a < b.fin + 128 * n ∨ b.fin + 128 * n + 128 ≤ a) ∧ (a < b.finx + 2 * n ∨ b.finx + 2 * n + 2 ≤ a) ∧
    (a < s.altPlane b.fc0 b.fc1 + 2 * n ∨ s.altPlane b.fc0 b.fc1 + 2 * n + 2 ≤ a)

theorem HealthOnly.altPlane (h : HealthOnly s t) (p0 p1 : Nat) : t.altPlane p0 p1 = s.altPlane p0 p1 := by
  rw [State.altPlane, State.slot, h, State.altPlane, State.slot]

theorem OutsideFinal.of_health {n : Nat} (h : OutsideFinal s b n a) (ht : HealthOnly s t) : OutsideFinal t b n a := by
  rwa [OutsideFinal, ht.altPlane]

theorem State.writeFinal_byteAt {blk : Nat} {nonf : Bool} (hy : (finBytes y).length = 128) (h : OutsideFinal s b blk a) :
    (s.writeFinal b blk y nonf).byteAt a = s.byteAt a := by
  obtain ⟨hfin, hfinx, hfc⟩ := h
  unfold State.writeFinal
  dsimp only
  rw [State.cleNum_byteAt hfc, State.cleNum_byteAt hfinx, State.cleWrite, State.agentWrite_byteAt (hy ▸ hfin)]

/-- R302: the finals of blocks from number `k` of a run on. -/
theorem writeFinals_byteAt_from {d : Nat} {nonf : WBlk → Bool} (l : List WBlk) (hl : ∀ y ∈ l, (finBytes y).length = 128) (k : Nat)
    (s : State) (h : ∀ i, i < l.length → OutsideFinal s b (d + (k + i)) a) :
    ((l.zipIdx k).foldl (fun u z => u.writeFinal b (d + z.2) z.1 (nonf z.1)) s).byteAt a = s.byteAt a := by
  induction l generalizing k s with
  | nil => rfl
  | cons y l ih =>
    have hhealth : HealthOnly s (s.writeFinal b (d + k) y (nonf y)) := .of_cke (by simp)
    rw [List.zipIdx_cons, List.foldl_cons, ih (fun z hz => hl z (List.mem_cons_of_mem _ hz))]
    · exact State.writeFinal_byteAt (hl y List.mem_cons_self) (h 0 (by simp))
    · intro i hi
      have hnext := (h (i + 1) (by simpa using hi)).of_health hhealth
      rwa [Nat.add_assoc, Nat.add_comm 1 i]

/-! ### FINAL -/

/-- R295: the state a FINAL packet has written its blocks into: the agreed exponents of blocks in BF16 mode are read. -/
def finalRead (u : State) (p : Packet) (b : Bucket) : State :=
  if (partBlocks p).any fun x => x.e = 0xFF then
    u.readAgreed b (b.first (fld p.addr 32 14) + p.aux % 2 ^ 26) (partBlocks p).length
  else u

theorem finalRead_lines (u : State) (p : Packet) (b : Bucket) : LinesRead u (finalRead u p b) := by
  unfold finalRead
  split
  · exact .engineReads _ _ _
  · exact .refl u

theorem finalRead_health (u : State) (p : Packet) (b : Bucket) : HealthOnly u (finalRead u p b) := by
  unfold finalRead
  split
  · exact .engineReads _ _ _
  · exact .of_cke rfl

/-- R302: what the finals of a packet's blocks change in memory. -/
theorem finalAt_byteAt (h : ∀ k, k < (partBlocks p).length →
    OutsideFinal u b (b.first (fld p.addr 32 14) + p.aux % 2 ^ 26 + k) a) : (finalAt u p b).byteAt a = u.byteAt a := by
  have hout : ∀ k, k < (partBlocks p).length →
      OutsideFinal (finalRead u p b) b (b.first (fld p.addr 32 14) + p.aux % 2 ^ 26 + (0 + k)) a := fun k hk => by
    rw [Nat.zero_add]
    exact (h k hk).of_health (finalRead_health u p b)
  exact (writeFinals_byteAt_from (nonf := fun y => y.e = 0xFF) (partBlocks p) (fun y hy => finBytes_partBlocks_length hy) 0 _ hout).trans
    ((finalRead_lines u p b).byteAt a)

/-- R302: the blocks of a FINAL packet as they are noted. -/
def finalNotes (p : Packet) : List (Nat × Nat × Nat) :=
  (List.range (partBlocks p).length).map fun i => (fld p.addr 16 16, fld p.addr 32 14, p.aux % 2 ^ 26 + i)

theorem finalAt_cle (u : State) (p : Packet) (b : Bucket) :
    (finalAt u p b).cle = { u.cle with finRx := (u.cle.finRx ++ finalNotes p).dedup } := by
  have hfold : ∀ (l : List (WBlk × Nat)) (t : State), (l.foldl (fun v z => v.writeFinal b (b.first (fld p.addr 32 14) +
      p.aux % 2 ^ 26 + z.2) z.1 (z.1.e = 0xFF)) t).cle = t.cle := fun l t =>
    List.foldlRecOn (motive := fun v : State => v.cle = t.cle) l _ rfl fun v hv z _ => by simp [hv]
  have hread : (finalRead u p b).cle = u.cle := by
    unfold finalRead
    split <;> simp
  have hwritten := (hfold (partBlocks p).zipIdx (finalRead u p b)).trans hread
  exact (congrArg (fun c : Cle => { c with finRx := (c.finRx ++ finalNotes p).dedup }) hwritten)

theorem finalAt_finRx {z : Nat × Nat × Nat} (h : z ∈ u.cle.finRx ∨ z ∈ finalNotes p) : z ∈ (finalAt u p b).cle.finRx := by
  rw [finalAt_cle]
  exact List.mem_dedup.2 (List.mem_append.2 h)

theorem finalAt_sameOutside (u : State) (p : Packet) (b : Bucket) :
    SameOutside [.hub, .err, .mem, .cle, .cke, .pwr, .fab, .pmu, .sent, .fresh] u (finalAt u p b) := fun q hq => by
  cases q <;> simp_all [StatePart.same]

/-! ### FINAL_CLOSE -/

/-- R302: a FINAL_CLOSE writes the divisor and keeps the census, and the shard's finals stand here. -/
def finalCloseAt (u : State) (p : Packet) (b : Bucket) : State :=
  (u.setDiv b (fld p.addr 32 14) (censusOf p.payload).samples).finalsHere (fld p.addr 16 16) (fld p.addr 32 14) p.payload

theorem finalCloseAt_cle (u : State) (p : Packet) (b : Bucket) : (finalCloseAt u p b).cle =
    { u.cle with finals := u.cle.finals ++ [((fld p.addr 16 16, fld p.addr 32 14), p.payload)] } := by
  simp [finalCloseAt, State.finalsHere]

theorem State.modSmp_byteAt {j : Nat} {f : Nat → Nat} (h : a < b.smp + 16 * j ∨ b.smp + 16 * j + 16 ≤ a) :
    (s.modSmp b j f).byteAt a = s.byteAt a :=
  (State.cleNum_byteAt h).trans ((LinesRead.engineReads s _ _).byteAt a)

theorem finalCloseAt_byteAt (h : a < b.smp + 16 * fld p.addr 32 14 ∨ b.smp + 16 * fld p.addr 32 14 + 16 ≤ a) :
    (finalCloseAt u p b).byteAt a = u.byteAt a := by
  have hmem : (finalCloseAt u p b).mem = (u.setDiv b (fld p.addr 32 14) (censusOf p.payload).samples).mem := by simp [finalCloseAt]
  rw [State.byteAt_of_bytes (congrArg Memory.bytes hmem), State.setDiv, State.modSmp_byteAt h]

namespace Uncounted

theorem countLine (s : State) (a : Nat) (w : Bool) : Uncounted s (s.countLine a w) := by
  have hw : Uncounted s (s.wakeStack a) := of_eq (by simp) (by simp)
  unfold State.countLine
  dsimp only
  split
  · exact hw.trans (countHub _ _ _ _)
  · exact hw.trans (countHub _ _ _ _)
  · exact hw

theorem setDie (s : State) (d : Nat) (x : DieMem) : Uncounted s (s.setDie d x) := of_eq (by simp) (by simp)

theorem noteCe (s : State) (a agent : Nat) : Uncounted s (s.noteCe a agent) := by
  unfold State.noteCe
  split
  · exact (raise _ _ _ _ _).trans (setDie _ _ _)
  · exact raise _ _ _ _ _

theorem noteUe (s : State) (code a agent : Nat) : Uncounted s (s.noteUe code a agent) := by
  unfold State.noteUe
  split
  · exact (raise _ _ _ _ _).trans (setDie _ _ _)
  · exact raise _ _ _ _ _

theorem notePoison (s : State) (a agent : Nat) : Uncounted s (s.notePoison a agent) := by
  have hhealth : ∀ t : State, Uncounted t (if agentSetsHealth agent then t.setHealth 3 else t) := fun t => by
    split
    · exact of_eq rfl rfl
    · exact of_eq rfl rfl
  unfold State.notePoison
  refine trans ?_ (hhealth _)
  split
  · exact (raise _ _ _ _ _).trans (setDie _ _ _)
  · exact (raise _ _ _ _ _).trans (of_eq rfl rfl)
  · exact raise _ _ _ _ _

theorem checkLine (s : State) (code a agent : Nat) : Uncounted s (s.checkLine code a agent) := by
  unfold State.checkLine
  split
  case h_1 => exact of_eq rfl rfl
  case h_2 => exact (noteCe s a agent).trans (of_eq rfl rfl)
  case h_3 => exact (noteUe s code a agent).trans (of_eq rfl rfl)
  case h_4 => exact of_eq rfl rfl
  case h_5 => exact (noteCe s a agent).trans (of_eq rfl rfl)

theorem touchLineAs (s : State) (code a agent : Nat) : Uncounted s (s.touchLineAs code a agent).2 := by
  have hfresh : ∀ (t : State) (n : Nat), Uncounted t { t with fresh := n } := fun _ _ => of_eq rfl rfl
  have hc := countLine s a false
  have hk := hc.trans (checkLine _ code a agent)
  unfold State.touchLineAs
  dsimp only
  split
  · exact hc.trans ((raise _ _ _ _ _).trans (hfresh _ _))
  · split
    · exact hc.trans ((notePoison _ _ _).trans (hfresh _ _))
    · split
      · exact hk.trans ((notePoison _ _ _).trans (hfresh _ _))
      · exact hk

theorem engineReads (s : State) (agent : Nat) (rs : List (Nat × Nat)) : Uncounted s (s.engineReads agent rs) :=
  foldl _ (fun t _ => touchLineAs t _ _ _) s

theorem writePart (agent : Nat) (s : State) (q : Nat × List Byte) : Uncounted s (State.writePart agent s q) := by
  have hquiet : ∀ t : State, Uncounted t (t.touchLineQuiet q.1 agent) := fun t => by
    unfold State.touchLineQuiet
    split
    · exact of_eq rfl rfl
    · exact checkLine t _ _ _
  have hc := countLine s q.1 true
  unfold State.writePart
  dsimp only
  split
  · exact hc.trans (raise _ _ _ _ _)
  · split
    · exact hc.trans (of_eq rfl rfl)
    · exact hc.trans ((hquiet _).trans (of_eq rfl rfl))

theorem modSmp (s : State) (b : Bucket) (j : Nat) (f : Nat → Nat) : Uncounted s (s.modSmp b j f) :=
  (engineReads s _ _).trans (foldl _ (writePart _) _)

end Uncounted

/-- R302: with no counter of the hub enabled, hub flag 2 counts the shard alone. -/
theorem finalCloseAt_hubFlag (h : u.pmu.hubCtl = 0) : (finalCloseAt u p b).hubFlag 2 = u.hubFlag 2 + 1 := by
  obtain ⟨hhub, -⟩ := Uncounted.modSmp u b (fld p.addr 32 14) (fun y => setFld y 64 64 (censusOf p.payload).samples) h
  rw [finalCloseAt, State.finalsHere, State.addHubFlag_hubFlag, if_pos rfl]
  exact congrArg (· + 1) (State.hubFlag_of_flags (congrArg Hub.flags hhub) 2)

theorem finalCloseAt_sameOutside (u : State) (p : Packet) (b : Bucket) :
    SameOutside [.hub, .err, .mem, .cle, .cke, .pwr, .fab, .pmu, .sent, .fresh] u (finalCloseAt u p b) := fun q hq => by
  cases q <;> simp_all [StatePart.same, finalCloseAt]

/-! ### What becomes of a packet -/

/-- R302: the packets of finals that may be taken. -/
def State.finalMay (s : State) (n : Nat) (p : Packet) : Bool :=
  p.ptype = n && p.dst = s.fab.devid && !((s.exchSoon p || s.finalsDue p) && !s.fromLost p)

section onFinal
variable {f : State → Packet → Bucket → State}

theorem onFinal_of_none (h : s.takeInbox (s.finalMay ty) = none) : onFinal s ty f = s := by
  unfold State.finalMay at h
  rw [onFinal, h]

/-- R302: a packet from a lost device, or of no shard of the open exchange, leaves no trace. -/
theorem onFinal_of_stray (h : s.takeInbox (s.finalMay ty) = some (p, u))
    (hp : u.fromLost p = true ∨ u.exchNow p = false ∨ u.pktBucket p = none) : onFinal s ty f = u := by
  unfold State.finalMay at h
  rw [onFinal, h]
  dsimp only
  obtain hp | hp | hp := hp
  · rw [hp, Bool.true_or, if_pos rfl]
  · rw [hp, Bool.not_false, Bool.or_true, if_pos rfl]
  · rw [hp]
    exact ite_self _

theorem onFinal_of_shard (h : s.takeInbox (s.finalMay ty) = some (p, u)) (hl : u.fromLost p = false) (he : u.exchNow p = true)
    (hb : u.pktBucket p = some b) : onFinal s ty f = if u.buddyOf p b then f u p b else u := by
  unfold State.finalMay at h
  rw [onFinal, h]
  dsimp only
  rw [hl, he, hb]
  exact if_neg (by decide)

theorem exec_final_of_none {i : Instr} (hexec : exec i s = .next (afterSnoop s (onFinal s ty f))) (hs : s.hub.snoop = [])
    (hi : s.hub.bisnp = []) (h : s.takeInbox (s.finalMay ty) = none) : exec i s = .next s := by
  rw [hexec, afterSnoop_of_nil hs hi, onFinal_of_none h]

/-- What becomes of a FINAL or a FINAL_CLOSE, whose effect at the buddy is `f`. -/
theorem exec_final {i : Instr} (hexec : exec i s = .next (afterSnoop s (onFinal s ty f))) (hs : s.hub.snoop = [])
    (hi : s.hub.bisnp = []) (h : s.takeInbox (s.finalMay ty) = some (p, u)) :
    ((u.fromLost p = true ∨ u.exchNow p = false ∨ u.pktBucket p = none) → exec i s = .next u ∧ SameOutside [.fab, .sent] s u) ∧
    ∀ b, u.fromLost p = false → u.exchNow p = true → u.pktBucket p = some b →
      (u.buddyOf p b = false → exec i s = .next u ∧ SameOutside [.fab, .sent] s u) ∧
      (u.buddyOf p b = true → exec i s = .next (f u p b)) := by
  have hu := State.takeInbox_sameOutside h
  rw [afterSnoop_of_nil hs hi] at hexec
  refine ⟨fun hp => ⟨by rw [hexec, onFinal_of_stray h hp], hu⟩, fun b hl he hb => ?_⟩
  rw [onFinal_of_shard h hl he hb] at hexec
  exact ⟨fun hbuddy => ⟨by rw [hexec, hbuddy]; rfl, hu⟩, fun hbuddy => by rw [hexec, hbuddy]; rfl⟩

end onFinal

/-- Settles O25: the packets that leave no trace by `exec_final`, and what a FINAL and a FINAL_CLOSE write at the buddy by
`finalAt` and `finalCloseAt`. -/
theorem finalsReachTheBuddy : Obligations.FinalsReachTheBuddy := by
  unfold Obligations.FinalsReachTheBuddy
  intro s hs hi
  refine ⟨exec_final_of_none (f := finalAt) rfl hs hi, exec_final_of_none (f := finalCloseAt) rfl hs hi,
    fun p u h => ?final, fun p u h => ?finalClose⟩
  case final =>
    obtain ⟨hstray, hshard⟩ := exec_final (i := .final) (f := finalAt) rfl hs hi h
    refine ⟨hstray, fun b hl he hb => ⟨((hshard b hl he hb).1), fun hbuddy => ?_⟩⟩
    have hu := State.takeInbox_sameOutside h
    have hcle : u.cle = s.cle := hu .cle (by simp)
    have hframe := (hu.mono (by simp)).trans (finalAt_sameOutside u p b)
    refine ⟨_, (hshard b hl he hb).2 hbuddy, ?_, fun y hy => ?_, fun k hk => ?_, fun a ha => ?_, hframe⟩
    · rw [finalAt_cle, hcle]
    · exact finalAt_finRx (.inl (by rwa [hcle]))
    · exact finalAt_finRx (.inr (List.mem_map.2 ⟨k, List.mem_range.2 hk, rfl⟩))
    · refine (finalAt_byteAt fun k hk => ?_).trans (State.byteAt_of_bytes (congrArg Memory.bytes (hu .mem (by simp))) a)
      exact OutsideFinal.of_health (ha k hk) (.of_cke (hu .cke (by simp)))
  case finalClose =>
    obtain ⟨hstray, hshard⟩ := exec_final (i := .finalClose) (f := finalCloseAt) rfl hs hi h
    refine ⟨hstray, fun b hl he hb => ⟨((hshard b hl he hb).1), fun hbuddy => ?_⟩⟩
    have hu := State.takeInbox_sameOutside h
    refine ⟨_, (hshard b hl he hb).2 hbuddy, ?_, fun hctl => ?_, fun a ha => ?_,
      (hu.mono (by simp)).trans (finalCloseAt_sameOutside u p b)⟩
    · rw [finalCloseAt_cle, hu .cle (by simp)]
    · rw [finalCloseAt_hubFlag (by rw [hu .pmu (by simp), hctl]), State.hubFlag_of_flags (congrArg Hub.flags (hu .hub (by simp)))]
    · rw [finalCloseAt_byteAt ha, State.byteAt_of_bytes (congrArg Memory.bytes (hu .mem (by simp)))]

end Sys2Proof.Machine
end

section
/-! SUPPORT. The answers and the time limits of streams (R292, R299, R302, R312). -/

namespace Sys2Proof.Machine
variable {s t u : State} {p : Packet} {b : Bucket} {x : Stream} {nx : Nat}

/-! ### ACK -/

/-- R299: the stream an ACK answers. -/
def answers (s : State) (p : Packet) (x : Stream) : Bool :=
  !x.acked && !x.out.isEmpty && cleKey x.exch x.bucket x.shard = p.addr && (s.cle.buckets[x.bucket]?).any fun b => b.dev x.nxt = p.src

theorem exec_ack_of_none (h : s.takeType 0x12 = none) : exec .ack s = .next s := by
  have hexec : exec .ack s = execAck s := rfl
  rw [hexec, execAck, h]

theorem exec_ack_of_lost (h : s.takeType 0x12 = some (p, u)) (hl : u.fromLost p = true) : exec .ack s = .next u := by
  have hexec : exec .ack s = execAck s := rfl
  rw [hexec, execAck, h]
  dsimp only
  rw [hl, if_pos rfl]

/-- R299: the state once a stream has been answered. -/
def State.streamAnswered (u : State) (x : Stream) : State :=
  { u with cle.streams := u.cle.streams.map fun y => if y = x then { y with acked := true } else y }.reapStreams

theorem exec_ack_of_stream (h : s.takeType 0x12 = some (p, u)) (hl : u.fromLost p = false)
    (hx : u.cle.streams.find? (answers s p) = some x) : exec .ack s = .next (u.streamAnswered x) := by
  have hexec : exec .ack s = execAck s := rfl
  rw [hexec, execAck, h]
  dsimp only
  rw [hl, if_neg Bool.false_ne_true]
  unfold answers at hx
  rw [hx]
  rfl

/-! ### RETRY -/

/-- R292: does a RETRY reach the originator of its shard, from its acting owner? -/
def State.mayRetry (u : State) (p : Packet) (b : Bucket) : Prop :=
  b.sealed = true ∧ (u.chain b (fld p.addr 32 14)).head? = some (b.pos u.fab.devid) ∧
    p.src = b.dev (b.ownerPos (fld p.addr 32 14) u.isLost)

theorem exec_retry_of_none (h : s.takeType 0x13 = none) : exec .retry s = .next s := by
  have hexec : exec .retry s = execRetry s := rfl
  rw [hexec, execRetry, h]

theorem exec_retry_of_stray (h : s.takeType 0x13 = some (p, u)) (hp : u.fromLost p = true ∨ u.exchNow p = false) :
    exec .retry s = .next u := by
  have hexec : exec .retry s = execRetry s := rfl
  rw [hexec, execRetry, h]
  dsimp only
  obtain hp | hp := hp
  · rw [hp, Bool.true_or, if_pos rfl]
  · rw [hp, Bool.not_false, Bool.or_true, if_pos rfl]

theorem exec_retry_of_originator (hs : s.hub.snoop = []) (hi : s.hub.bisnp = []) (h : s.takeType 0x13 = some (p, u))
    (hl : u.fromLost p = false) (he : u.exchNow p = true) (hb : u.pktBucket p = some b) (hr : u.mayRetry p b) :
    exec .retry s = .next (u.originate (fld p.addr 16 16) (fld p.addr 32 14) 1 b) := by
  obtain ⟨hsealed, hhead, hsrc⟩ := hr
  have hexec : exec .retry s = execRetry s := rfl
  rw [hexec, execRetry, h]
  dsimp only
  rw [hl, he, hb, if_neg (by decide)]
  dsimp only
  rw [if_pos (by simp [hsealed, hhead, hsrc]), afterSnoop_of_nil hs hi]

/-- R288: a stream that starts here comes behind the others. -/
theorem State.originate_streams {bi j attempt : Nat} (ha : after (u.chain b j) (b.pos u.fab.devid) = some nx) :
    ∃ y, (u.originate bi j attempt b).cle.streams = u.cle.streams ++ [y] ∧ y.attempt = attempt ∧ y.bucket = bi ∧ y.shard = j ∧
      y.nxt = nx ∧ y.gather = false := by
  have hread : StreamsKept u (u.readAgreed b (b.first j) (b.len j)) := .of_cle (by simp)
  have hrun := hread.trans (.hopRun _ bi j b ((u.readAgreed b (b.first j) (b.len j)).zeroBlocks b j))
  unfold State.originate
  dsimp only
  rw [ha]
  exact ⟨_, (StreamsKept.sendAll _ _).streams.trans (congrArg (· ++ [_]) hrun.streams), rfl, rfl, rfl, rfl, rfl⟩

theorem State.originate_sameOutside (u : State) (bi j attempt : Nat) (b : Bucket) :
    SameOutside [.hub, .err, .mem, .cle, .cke, .pwr, .fab, .pmu, .sent, .fresh] u (u.originate bi j attempt b) := fun q hq => by
  cases q <;> simp_all [StatePart.same]

/-! ### HOP_WAIT_EXPIRY -/

section limits
variable {bi : BitVec 16} {j : BitVec 14} (hb : s.cle.buckets[bi.toNat]? = some b)
include hb

theorem exec_hopWaitExpiry_of_not (h : b.sealed = true ∨ (after (s.chain b j.toNat) (b.pos s.fab.devid)).isNone = true) :
    exec (.hopWaitExpiry bi j) s = .next s := by
  have hexec : exec (.hopWaitExpiry bi j) s = execHopWaitExpiry bi j s := rfl
  rw [hexec, execHopWaitExpiry, hb]
  exact if_pos h

theorem exec_hopWaitExpiry_of_held (hs : b.sealed = false) (ha : (after (s.chain b j.toNat) (b.pos s.fab.devid)).isSome = true) :
    ∃ t, exec (.hopWaitExpiry bi j) s = .next t ∧ t.cle.streams = s.cle.streams.map (fun x =>
      if x.gather = false ∧ (x.bucket = bi.toNat ∧ x.shard = j.toNat ∧ x.exch = s.cle.exch) ∧ x.mode = .held ∧ x.waitUs ≠ 0 then
        { x with mode := .late } else x) ∧ SameOutside [.cle] s t := by
  have hexec : exec (.hopWaitExpiry bi j) s = execHopWaitExpiry bi j s := rfl
  have hnone : (after (s.chain b j.toNat) (b.pos s.fab.devid)).isNone = false := by
    rw [← Option.not_isSome, ha]
    rfl
  rw [execHopWaitExpiry, hb] at hexec
  dsimp only at hexec
  rw [if_neg (by simp [hs, hnone])] at hexec
  refine ⟨_, hexec, List.map_congr_left fun x _ => ?_, sameOutside_cle⟩
  simp only [Bool.and_eq_true, Bool.not_eq_true', decide_eq_true_eq]
  exact if_congr (by tauto) rfl rfl

end limits

/-! ### CLE_HOP_SKIP -/

/-- R299: a receiver that has not answered is recorded. -/
def State.skipNoted (s : State) (b : Bucket) (x : Stream) : State :=
  s.raise 0x0906 .c 0 (devPayload (b.dev x.nxt) x.nxt (cleKey x.exch x.bucket x.shard))

/-- R299: a stream goes from its start to the position after the one that has not answered. -/
def State.skippedTo (s : State) (b : Bucket) (x : Stream) (nx : Nat) : State :=
  let s1 := (s.dropStream x).skipNoted b x
  { s1 with
    cle.sticky := s1.cle.sticky ||| 8
    cle.streams := s1.cle.streams.map fun y =>
      if y = x then { y with nxt := nx, out := retarget (b.dev nx) x.out, timeoutUs := s.cle.hopTimeoutUs.toNat } else y
    }.sendAll (retarget (b.dev nx) x.out)

/-- R299: a stream with no position left ends. -/
def State.streamDropped (s : State) (x : Stream) : State := { s.dropStream x with cle.streams := s.cle.streams.erase x }

/-- R299: as `State.streamDropped`; that of an all-gather is recorded. -/
def State.skippedAll (s : State) (g : Bool) (b : Bucket) (x : Stream) : State :=
  if g then { (s.streamDropped x).skipNoted b x with cle.sticky := s.cle.sticky ||| 8 } else s.streamDropped x

theorem State.skippedTo_cle (s : State) (b : Bucket) (x : Stream) (nx : Nat) : (s.skippedTo b x nx).cle = { s.cle with
    sticky := s.cle.sticky ||| 8
    streams := s.cle.streams.map fun y => if y = x then { y with
      nxt := nx, out := retarget (b.dev nx) x.out, timeoutUs := s.cle.hopTimeoutUs.toNat } else y } := by
  simp [State.skippedTo, State.skipNoted]

theorem State.skippedTo_sameOutside (s : State) (b : Bucket) (x : Stream) (nx : Nat) :
    SameOutside [.hub, .err, .cle, .fab, .pmu, .sent] s (s.skippedTo b x nx) := fun q hq => by
  cases q <;> simp_all [StatePart.same, State.skippedTo, State.skipNoted]

theorem State.skippedAll_sameOutside (s : State) (g : Bool) (b : Bucket) (x : Stream) :
    SameOutside [.hub, .err, .cle, .fab, .pmu, .sent] s (s.skippedAll g b x) := fun q hq => by
  cases g <;> cases q <;> simp_all [StatePart.same, State.skippedAll, State.streamDropped, State.skipNoted]

theorem State.dropStream_fab (s : State) (x : Stream) :
    (s.dropStream x).fab = { s.fab with streamQ := (s.dropStream x).fab.streamQ } := by
  unfold State.dropStream
  split
  · rfl
  · rfl

theorem State.skippedAll_streams (s : State) (g : Bool) (b : Bucket) (x : Stream) :
    (s.skippedAll g b x).cle.streams = s.cle.streams.erase x := by
  cases g <;> simp [State.skippedAll, State.streamDropped, State.skipNoted]

theorem State.skippedAll_fab (s : State) (g : Bool) (b : Bucket) (x : Stream) :
    (s.skippedAll g b x).fab = { s.fab with streamQ := (s.skippedAll g b x).fab.streamQ } := by
  have hfab : (s.skippedAll g b x).fab = (s.dropStream x).fab := by
    cases g <;> simp [State.skippedAll, State.streamDropped, State.skipNoted]
  rw [hfab]
  exact s.dropStream_fab x

theorem State.skippedAll_sticky (s : State) (b : Bucket) (x : Stream) : (s.skippedAll false b x).cle.sticky = s.cle.sticky := by
  simp [State.skippedAll, State.streamDropped]

section skip
variable {bi : BitVec 16} {j : BitVec 14} {g : Bool} (hb : s.cle.buckets[bi.toNat]? = some b)
  (hx : s.cle.streams.find? (fun x => x.gather == g && x.bucket = bi.toNat && x.shard = j.toNat &&
    x.exch = s.cle.exch && !x.acked && !x.out.isEmpty) = some x)
include hb hx

theorem exec_cleHopSkip_of_unlimited (h : x.timeoutUs = 0) : exec (.cleHopSkip g bi j) s = .next s := by
  have hexec : exec (.cleHopSkip g bi j) s = execCleHopSkip g bi j s := rfl
  rw [hexec, execCleHopSkip, hb, hx]
  exact if_pos h

theorem exec_cleHopSkip_of_some (h : x.timeoutUs ≠ 0)
    (ha : after (if g then s.gatherChain b x.shard else s.chain b x.shard) x.nxt = some nx) :
    exec (.cleHopSkip g bi j) s = .next (s.skippedTo b x nx) := by
  have hexec : exec (.cleHopSkip g bi j) s = execCleHopSkip g bi j s := rfl
  rw [hexec, execCleHopSkip, hb, hx]
  dsimp only
  rw [if_neg h, ha]
  rfl

theorem exec_cleHopSkip_of_none (h : x.timeoutUs ≠ 0)
    (ha : after (if g then s.gatherChain b x.shard else s.chain b x.shard) x.nxt = none) :
    exec (.cleHopSkip g bi j) s = .next (s.skippedAll g b x) := by
  have hexec : exec (.cleHopSkip g bi j) s = execCleHopSkip g bi j s := rfl
  rw [hexec, execCleHopSkip, hb, hx]
  dsimp only
  rw [if_neg h, ha]
  cases g
  · rfl
  · rfl

theorem exec_cleHopSkip_of_limited (h : x.timeoutUs ≠ 0) : ∃ t, exec (.cleHopSkip g bi j) s = .next t ∧
    (∀ nx, after (if g then s.gatherChain b x.shard else s.chain b x.shard) x.nxt = some nx →
      t.cle.sticky = s.cle.sticky ||| 8 ∧ t.cle.streams = s.cle.streams.map (fun y => if y = x then { y with
        nxt := nx, out := retarget (b.dev nx) x.out, timeoutUs := s.cle.hopTimeoutUs.toNat } else y)) ∧
    (after (if g then s.gatherChain b x.shard else s.chain b x.shard) x.nxt = none → t.cle.streams = s.cle.streams.erase x ∧
      t.fab = { s.fab with streamQ := t.fab.streamQ } ∧ (g = false → t.cle.sticky = s.cle.sticky)) ∧
    SameOutside [.hub, .err, .cle, .fab, .pmu, .sent] s t := by
  cases ha : after (if g then s.gatherChain b x.shard else s.chain b x.shard) x.nxt with
  | none =>
    exact ⟨_, exec_cleHopSkip_of_none hb hx h ha, fun nx hn => (nomatch hn), fun _ => ⟨s.skippedAll_streams g b x,
      s.skippedAll_fab g b x, fun hg => by rw [hg, State.skippedAll_sticky]⟩, s.skippedAll_sameOutside g b x⟩
  | some nx =>
    refine ⟨_, exec_cleHopSkip_of_some hb hx h ha, fun nx' hn => ?_, fun hn => (nomatch hn), s.skippedTo_sameOutside b x nx⟩
    cases hn
    rw [State.skippedTo_cle]
    exact ⟨rfl, rfl⟩

end skip

/-! ### CLE_DEADLINE -/

/-- R299: the CLOSE of a shard has not come in time: the streams of the shard are given up. -/
def State.shardGivenUp (s : State) (bi j : Nat) (b : Bucket) : State :=
  let s1 := s.raise 0x0907 .c 0 (devPayload s.fab.devid (b.pos s.fab.devid) (cleKey s.cle.exch bi j))
  { s1 with cle.streams := s1.cle.streams.filter fun x => x.gather || x.bucket ≠ bi || x.shard ≠ j }

theorem exec_cleDeadline_of_due {bi : BitVec 16} {j : BitVec 14} (hs : s.hub.snoop = []) (hi : s.hub.bisnp = [])
    (hb : s.cle.buckets[bi.toNat]? = some b) (hd : b.deadlineUs ≠ 0) (ho : s.cle.isOpen = true) (hsealed : b.sealed = true)
    (hc : s.cle.closed.contains (bi.toNat, j.toNat) = false) (hl : b.len j.toNat ≠ 0)
    (hw : b.dev (b.ownerPos j.toNat s.isLost) = s.fab.devid) :
    exec (.cleDeadline bi j) s = .next ((s.shardGivenUp bi.toNat j.toNat b).closeAlone bi.toNat j.toNat b true) := by
  have hexec : exec (.cleDeadline bi j) s = execCleDeadline bi j s := rfl
  rw [hexec, execCleDeadline]
  dsimp only
  rw [hb]
  dsimp only
  rw [ho, hsealed, hc, if_neg (by simp [hd, hl, hw]), afterSnoop_of_nil hs hi]
  rfl

theorem State.shardGivenUp_cle (s : State) (bi j : Nat) (b : Bucket) : (s.shardGivenUp bi j b).cle =
    { s.cle with streams := s.cle.streams.filter fun x => x.gather || x.bucket ≠ bi || x.shard ≠ j } := by
  simp [State.shardGivenUp]

theorem shardClosedAlone_sameOutside (s : State) (bi j : Nat) (b : Bucket) :
    SameOutside [.hub, .err, .mem, .cle, .cke, .pwr, .fab, .pmu, .sent, .fresh] s ((s.shardGivenUp bi j b).closeAlone bi j b true) :=
  fun q hq => by cases q <;> simp_all [StatePart.same, State.shardGivenUp]

/-- Settles O26: one lemma per answer and per time limit. -/
theorem streamAnswersAndLimits : Obligations.StreamAnswersAndLimits := by
  unfold Obligations.StreamAnswersAndLimits
  intro s hs hi
  refine ⟨exec_ack_of_none, fun p u h hl => ⟨exec_ack_of_lost h hl, State.takeInbox_sameOutside h⟩, fun p u x h hl hx => ?ack,
    exec_retry_of_none, fun p u h hp => exec_retry_of_stray h hp, fun p u b nx h hl he hb hsealed hhead hsrc ha => ?retry,
    fun bi j b hb => ⟨exec_hopWaitExpiry_of_held hb, exec_hopWaitExpiry_of_not hb, fun g x hx =>
      ⟨exec_cleHopSkip_of_unlimited hb hx, exec_cleHopSkip_of_limited hb hx⟩, fun hd ho hsealed hc hl hw => ?deadline⟩⟩
  case ack =>
    have hu := State.takeInbox_sameOutside h
    refine ⟨_, exec_ack_of_stream h hl hx, ?_, (hu.mono (by simp)).trans (sameOutside_cle.mono (by simp))⟩
    rw [← hu .cle (by simp)]
    rfl
  case retry =>
    obtain ⟨y, hstreams, hattempt, hbucket, hshard, hnxt, hgather⟩ := State.originate_streams (bi := fld p.addr 16 16) (attempt := 1) ha
    have hu := State.takeInbox_sameOutside h
    rw [hu .cle (by simp)] at hstreams
    exact ⟨_, y, exec_retry_of_originator hs hi h hl he hb ⟨hsealed, hhead, hsrc⟩, hstreams, hattempt, hbucket, hshard, hnxt, hgather,
      (hu.mono (by simp)).trans (State.originate_sameOutside _ _ _ _ _)⟩
  case deadline =>
    have hkept := StreamsKept.closeAlone (s.shardGivenUp bi.toNat j.toNat b) bi.toNat j.toNat b true
    refine ⟨_, exec_cleDeadline_of_due hs hi hb hd ho hsealed hc hl hw, hkept.closed.trans ?_, hkept.streams.trans ?_,
      shardClosedAlone_sameOutside s _ _ b⟩
    · rw [State.shardGivenUp_cle]
    · rw [State.shardGivenUp_cle]

end Sys2Proof.Machine
end

section
/-! SUPPORT. Small reductions that go on, or end (R306, R307). -/

namespace Sys2Proof.Machine
variable {s t u : State} {p : Packet} {r : SrRun} {e : EngCmd} {d : Bool}

/-! ### A piece of a member's tile -/

/-- R307: a packet as a piece of a member's tile. -/
def srPiece (p : Packet) (d : Bool) : SrPiece := ⟨p.addr % 16, fld p.addr 4 16, p.src, p.aux, p.payload, d⟩

/-- R307: the state once a piece is kept. -/
def srKept (u : State) (p : Packet) (d : Bool) : State := { u with cle.srGot := u.cle.srGot ++ [srPiece p d] }

/-- R307: do the pieces of a packet's reduction that are here show another shape or format than that of the run? -/
def srMismatch (ps : List SrPiece) (p : Packet) (r : SrRun) : Prop :=
  ∃ z ∈ ps, z.group = p.addr % 16 ∧ z.count = fld p.addr 4 16 ∧
    (z.differs = true ∨ r.bytes < z.off + z.data.length ∨ (z.data.length < 4096 ∧ z.off + z.data.length ≠ r.bytes))

theorem Cle.srDiffers_iff (c : Cle) (p : Packet) (r : SrRun) :
    c.srDiffers (p.addr % 16) (fld p.addr 4 16) r.bytes = true ↔ srMismatch c.srGot p r := by
  simp only [Cle.srDiffers, srMismatch, List.any_eq_true, List.mem_filter, Bool.and_eq_true, Bool.or_eq_true, decide_eq_true_eq,
    and_assoc, or_assoc]

/-- R307: the run of this device that a packet's piece belongs to. -/
def State.srMine (u : State) (p : Packet) : Option SrRun :=
  u.cle.srRuns.find? fun r => r.group = p.addr % 16 && r.count = fld p.addr 4 16

theorem exec_sr_of_none (h : s.takeType 0x19 = none) : exec (.sr d) s = .next s := by
  have hexec : exec (.sr d) s = execSr d s := rfl
  rw [hexec, execSr, h]

theorem exec_sr_of_lost (h : s.takeType 0x19 = some (p, u)) (hl : u.fromLost p = true) : exec (.sr d) s = .next u := by
  have hexec : exec (.sr d) s = execSr d s := rfl
  rw [hexec, execSr, h]
  dsimp only
  rw [hl, if_pos rfl]

section taken
variable (h : s.takeType 0x19 = some (p, u)) (hl : u.fromLost p = false)
include h hl

theorem exec_sr_of_noRun (hm : u.srMine p = none) : exec (.sr d) s = .next (srKept u p d) := by
  have hexec : exec (.sr d) s = execSr d s := rfl
  unfold State.srMine at hm
  rw [hexec, execSr, h]
  dsimp only
  rw [hl, if_neg Bool.false_ne_true, hm]
  rfl

theorem exec_sr_of_mismatch (hm : u.srMine p = some r) (he : srCmd u r = some e) (hbad : srMismatch (srKept u p d).cle.srGot p r) :
    exec (.sr d) s = .next (srFault (srKept u p d) (coreNo r.core) e 0x090C) := by
  have hexec : exec (.sr d) s = execSr d s := rfl
  have hdiffers := ((srKept u p d).cle.srDiffers_iff p r).2 hbad
  have he' : srCmd (srKept u p d) r = some e := he
  unfold State.srMine at hm
  unfold srKept srPiece at *
  rw [hexec, execSr, h]
  dsimp only
  rw [hl, if_neg Bool.false_ne_true, hm]
  dsimp only
  rw [if_pos hdiffers, he']

theorem exec_sr_of_match (hm : u.srMine p = some r) (hgood : ¬srMismatch (srKept u p d).cle.srGot p r) :
    exec (.sr d) s = .next (settleSr (srKept u p d)) := by
  have hexec : exec (.sr d) s = execSr d s := rfl
  have hdiffers := fun hd => hgood (((srKept u p d).cle.srDiffers_iff p r).1 hd)
  unfold State.srMine at hm
  unfold srKept srPiece at *
  rw [hexec, execSr, h]
  dsimp only
  rw [hl, if_neg Bool.false_ne_true, hm]
  dsimp only
  rw [if_neg hdiffers]

end taken

/-! ### A reduction that is over -/

/-- R307: the runs that are left when the one of a core's command is over. -/
def srRunsLeft (s : State) (c : CoreId) (e : EngCmd) : List SrRun := s.cle.srRuns.filter fun y => !(y.core = c.val && y.cmd = e.id)

theorem srFault_srRuns (s : State) (c : CoreId) (e : EngCmd) (code : Nat) : (srFault s c e code).cle.srRuns = srRunsLeft s c e := by
  simp [srFault, srRunsLeft, State.engFault]

theorem State.scrambleTile_has64 (hs : s.has64) (c : CoreId) (tl : Tile) : (s.scrambleTile c tl).has64 := by
  simpa [State.has64, State.scrambleTile] using hs

theorem srFault_haltFault (hs : s.has64) (c : CoreId) (e : EngCmd) (code : Nat) : ((srFault s c e code).core c).q.seq = .haltFault := by
  rw [srFault]
  exact State.engFault_haltFault (State.scrambleTile_has64 (s := { s with cle.srRuns := srRunsLeft s c e }) hs c _) e _ _

theorem srFault_sameOutside (s : State) (c : CoreId) (e : EngCmd) (code : Nat) :
    SameOutside [.cores, .hub, .err, .cle, .pmu, .sent, .fresh] s (srFault s c e code) := fun q hq => by
  cases q <;> simp_all [StatePart.same]

theorem settleSr_sameOutside (s : State) : SameOutside [.cores, .cle] s (settleSr s) := fun q hq => by
  cases q <;> simp_all [StatePart.same]

/-! ### CLE_SR_TIMEOUT -/

section timeout
variable {g : Fin 16}

theorem exec_cleSrTimeout_of_none (h : s.cle.srRuns.find? (fun r => r.group = g.val) = none) : exec (.cleSrTimeout g) s = .next s := by
  have hexec : exec (.cleSrTimeout g) s = execCleSrTimeout g s := rfl
  rw [hexec, execCleSrTimeout, h]

theorem exec_cleSrTimeout_of_run (h : s.cle.srRuns.find? (fun r => r.group = g.val) = some r) (he : srCmd s r = some e) :
    exec (.cleSrTimeout g) s = if r.timeoutUs = 0 then .next s else .next (srFault s (coreNo r.core) e 0x090D) := by
  have hexec : exec (.cleSrTimeout g) s = execCleSrTimeout g s := rfl
  rw [hexec, execCleSrTimeout, h]
  dsimp only
  rw [he]

end timeout

/-- Settles O27: a piece is kept, ends its reduction by `srFault`, or lets it go on by `settleSr`. -/
theorem smallReductionsEnd : Obligations.SmallReductionsEnd := by
  unfold Obligations.SmallReductionsEnd
  intro s hs
  refine ⟨fun d => exec_sr_of_none, fun d p u h => ?piece, fun g r e hr he => ⟨fun h0 => ?unlimited, fun h0 => ?late⟩,
    fun g => exec_cleSrTimeout_of_none⟩
  case piece =>
    have hu : SameOutside [.fab, .sent] s u := State.takeInbox_sameOutside h
    have hcle : u.cle = s.cle := hu .cle (by simp)
    have hgot : (srKept u p d).cle.srGot = s.cle.srGot ++ [srPiece p d] := congrArg (fun c : Cle => c.srGot ++ [srPiece p d]) hcle
    have hkept : SameOutside [.cle, .fab, .sent] s (srKept u p d) := (hu.mono (by simp)).trans (sameOutside_cle.mono (by simp))
    have hs' : (srKept u p d).has64 := State.has64_of_cores hs (hu .cores (by simp))
    refine ⟨exec_sr_of_lost h, fun hl hm => ⟨_, exec_sr_of_noRun h hl hm, ?_, hkept⟩, fun r e hl hm he hbad => ?_,
      fun r hl hm hgood => ?_⟩
    · exact congrArg (fun c : Cle => { c with srGot := c.srGot ++ [srPiece p d] }) hcle
    · refine ⟨_, exec_sr_of_mismatch h hl hm he (by rw [hgot]; exact hbad), srFault_haltFault hs' _ e _, ?_,
        (hkept.mono (by simp)).trans ((srFault_sameOutside _ _ _ _).mono (by simp))⟩
      rw [srFault_srRuns]
      exact congrArg (fun c : Cle => c.srRuns.filter fun y => !(y.core = (coreNo r.core).val && y.cmd = e.id)) hcle
    · have hkeeps : CountsKept u (srKept u p d) := ⟨rfl, rfl⟩
      obtain ⟨hcount, hbuckets⟩ := (CountsKept.of_cle hcle).trans (hkeeps.trans (.settleSr _))
      refine ⟨_, exec_sr_of_match h hl hm (by rw [hgot]; exact hgood), hcount, hbuckets,
        (hkept.mono (by simp)).trans ((settleSr_sameOutside _).mono (by simp))⟩
  case unlimited => rw [exec_cleSrTimeout_of_run hr he, if_pos h0]
  case late =>
    exact ⟨_, (exec_cleSrTimeout_of_run hr he).trans (if_neg h0), srFault_haltFault hs _ e _, srFault_srRuns s _ e _,
      srFault_sameOutside s _ e _⟩

end Sys2Proof.Machine
end

section
/-! SUPPORT. The routines that open an exchange and arm its all-gather (R284, R304, R305), and how a call ends (R89, R94). -/

namespace Sys2Proof.Machine
variable {s t u r : State} {c : CoreId} {ci : CallInfo} {id : Nat}

/-! ### How a call ends -/

theorem State.callOf_call (h : s.callOf c id = some ci) : (s.core c).q.call = some ci := by
  obtain ⟨x, hx, hif⟩ := Option.bind_eq_some_iff.1 h
  split at hif
  · cases hif
    exact hx
  · cases hif

theorem State.callFault_core (hs : s.has64) (ci : CallInfo) (code inst pos : Nat) : (s.callFault c ci code inst pos).core c =
    { s.core c with q.seq := .haltFault, q.cmdIndex := ci.idx, q.call := none } := by
  have hcores : ∀ n, (s.raiseHalting code .d inst n).cores = s.cores := fun n => by simp
  have hcore := fun n => State.core_modCore (State.has64_of_cores hs (hcores n)) c c fun k =>
    { k with q.seq := .haltFault, q.cmdIndex := ci.idx, q.call := none }
  simp only [if_true, State.core_of_cores (hcores _)] at hcore
  rw [State.callFault, State.callFaultAt, State.haltJob_core_of_haltFault (by rw [hcore]), hcore]

/-- R92, R94: what a refused call leaves: its core has stopped at the CALL, and memory and the exchange are as they were. -/
theorem State.callFault_stops (hs : s.has64) (ci : CallInfo) (code inst pos : Nat) :
    ((s.callFault c ci code inst pos).core c).q.call = none ∧ ((s.callFault c ci code inst pos).core c).q.seq = .haltFault ∧
      ((s.callFault c ci code inst pos).core c).q.cmdIndex = ci.idx ∧ (s.callFault c ci code inst pos).cle = s.cle ∧
      (s.callFault c ci code inst pos).mem = s.mem := by
  rw [State.callFault_core hs]
  exact ⟨rfl, rfl, rfl, by simp, by simp⟩

/-- R89, R92: the core of a call that ends: its list goes on behind the CALL, unless it has been halted. -/
def callClosed (fresh : Nat) (k : Core) (ci : CallInfo) : Core :=
  let k1 := dispatched { clobbered fresh k with q.call := none } ⟨ci.idx, ci.pass, ci.lo, ci.imm, ci.imm⟩
  if k.q.seq = .haltSched || k.q.seq = .haltFault then { k1 with q.seq := k.q.seq } else k1

theorem callClosed_call (fresh : Nat) (k : Core) (ci : CallInfo) : (callClosed fresh k ci).q.call = none := by
  obtain ⟨-, -, -, -, -, -, -, -, -, -, -, -, -, hcall⟩ :=
    dispatched_same { clobbered fresh k with q.call := none } ⟨ci.idx, ci.pass, ci.lo, ci.imm, ci.imm⟩
  unfold callClosed
  dsimp only
  split
  · exact hcall
  · exact hcall

theorem State.finishCall_placed (hs : s.has64) (hc : (s.core c).q.call = some ci) (hr : s.cke.rewinding = false) :
    Placed c ((callClosed s.fresh (s.core c) ci).csig ci.lo) { s with fresh := s.fresh + 16 } (s.finishCall c) := by
  have hfin : s.finishCall c = (Machine.csigFire
      (State.setCore { s with fresh := s.fresh + 16 } c (callClosed s.fresh (s.core c) ci)) c ci.lo).settleRewind := by
    have hmod := State.modCore_setCore (s := { s with fresh := s.fresh + 16 }) (c := c) (k := clobbered s.fresh (s.core c)) hs fun k =>
      let k1 := dispatched { k with q.call := none } ⟨ci.idx, ci.pass, ci.lo, ci.imm, ci.imm⟩
      if (s.core c).q.seq = .haltSched || (s.core c).q.seq = .haltFault then { k1 with q.seq := (s.core c).q.seq } else k1
    rw [State.finishCall, hc]
    exact congrArg (fun t => (Machine.csigFire t c ci.lo).settleRewind) hmod
  have hp := Placed.csigFire (c := c) (k := callClosed s.fresh (s.core c) ci) (s := { s with fresh := s.fresh + 16 }) hs ci.lo
  rw [hfin, State.settleRewind_of_not]
  · exact hp
  · have hcke : State.cke _ = s.cke := hp.frame .cke (by simp)
    rw [hcke, hr]

/-- R89: what a call that ends leaves: its core is in no call, and memory and the exchange are as they were. -/
theorem State.finishCall_ends (hs : s.has64) (hc : (s.core c).q.call = some ci) (hr : s.cke.rewinding = false) :
    ((s.finishCall c).core c).q.call = none ∧ (s.finishCall c).cle = s.cle ∧ (s.finishCall c).mem = s.mem := by
  have hp := State.finishCall_placed hs hc hr
  refine ⟨?_, hp.frame .cle (by simp), hp.frame .mem (by simp)⟩
  rw [hp.q_eq, Core.csig_call, callClosed_call]

/-! ### What the reads of an engine leave of the hub -/

theorem State.notePoison_hub (s : State) (a agent : Nat) : HubKept s (s.notePoison a agent) := by
  have hhealth : ∀ t : State, HubKept t (if agentSetsHealth agent then t.setHealth 3 else t) := fun t => by
    split
    · exact .of_hub rfl
    · exact .refl t
  have hr := s.raise_hub 0x0703 .d (s.memInst a) (addrPayload (a / 64 * 64) agent (s.memPlaceNo a))
  unfold State.notePoison
  refine .trans ?_ (hhealth _)
  split
  · exact hr.trans (.of_hub (by simp))
  · exact hr.trans (.of_hub rfl)
  · exact hr

theorem State.touchLineAs_hub (s : State) (code a agent : Nat) : HubKept s (s.touchLineAs code a agent).2 := by
  have hfresh : ∀ (t : State) (n : Nat), HubKept t { t with fresh := n } := fun _ _ => .of_hub rfl
  have hc := s.countLine_hub a false
  have hk := hc.trans (State.checkLine_hub _ code a agent)
  unfold State.touchLineAs
  dsimp only
  split
  · exact hc.trans ((State.raise_hub _ _ _ _ _).trans (hfresh _ _))
  · split
    · exact hc.trans ((State.notePoison_hub _ _ _).trans (hfresh _ _))
    · split
      · exact hk.trans ((State.notePoison_hub _ _ _).trans (hfresh _ _))
      · exact hk

theorem State.engineReads_hub (s : State) (agent : Nat) (rs : List (Nat × Nat)) : HubKept s (s.engineReads agent rs) :=
  .foldl _ _ (fun t _ => t.touchLineAs_hub _ _ _) s

/-- R21, R346: the step is the same while the job is. -/
theorem State.stepNow_of_kept (hh : HubKept s t) (hc : HealthOnly s t) : t.stepNow = s.stepNow := by
  rw [State.stepNow, hh.job, hh.jobState, hc, State.stepNow]

/-! ### EXCH_START -/

/-- R284: the state once the list of a call of EXCH_START has been read. -/
def State.listRead (s : State) (ci : CallInfo) : State :=
  if pbNum ci.pb 0x18 4 ≤ 65536 ∧ pbNum ci.pb 0x10 8 % 64 = 0 then s.readBuckets (pbNum ci.pb 0x10 8) (pbNum ci.pb 0x18 4) else s

/-- R284: is the call refused, its list read? -/
def State.listRefused (r : State) (ci : CallInfo) : Prop :=
  pbNum ci.pb 0x18 4 = 0 ∨ 65536 < pbNum ci.pb 0x18 4 ∨ pbNum ci.pb 0x10 8 % 64 ≠ 0 ∨
    r.readable (pbNum ci.pb 0x10 8) (128 * pbNum ci.pb 0x18 4) = false ∨ pbNum ci.pb 0x1C 4 % 4 = 3 ∨
    fld (pbNum ci.pb 0x1C 4) 2 2 ≠ 0 ∨ pbNum ci.pb 0x1C 4 >>> 8 ≠ 0 ∨
    (List.range (pbNum ci.pb 0x18 4)).any (fun i => r.bucketBad (pbNum ci.pb 0x10 8 + 128 * i)) = true

/-- R284: the exchange of the running step is open. -/
def State.exchOpened (r : State) (ci : CallInfo) : State := { r with
  cle.isOpen := true
  cle.exch := r.stepNow.toNat % 65536
  cle.nfpol := pbNum ci.pb 0x1C 4 % 4
  cle.fcBias := sext 4 (fld (pbNum ci.pb 0x1C 4) 4 4)
  cle.buckets := (List.range (pbNum ci.pb 0x18 4)).map fun i => r.readBucket (pbNum ci.pb 0x10 8 + 128 * i)
  cle.closed := []
  cle.finals := []
  cle.imaged := []
  cle.finRx := []
  cle.staged := []
  cle.armed := none
  cle.stagedDone := false
  cle.late := []
  cle.misses := 0
  cke.att.exchOpened := true }

/-- What the reads of the list keep. -/
structure ListRead (s r : State) : Prop where
  cores : r.cores = s.cores
  cle : r.cle = s.cle
  lines : LinesRead s r
  health : HealthOnly s r
  hub : HubKept s r

theorem State.listRead_kept (s : State) (ci : CallInfo) : ListRead s (s.listRead ci) := by
  unfold State.listRead
  split
  · exact ⟨by simp, by simp, (LinesRead.engineReads _ _ _).trans (.engineReads _ _ _),
      (HealthOnly.engineReads _ _ _).trans (.engineReads _ _ _), (State.engineReads_hub _ _ _).trans (State.engineReads_hub _ _ _)⟩
  · exact ⟨rfl, rfl, .refl s, .of_cke rfl, .refl s⟩

section exchStart
variable (hc : s.callOf c 0x10 = some ci)
include hc

theorem exec_exchStart_of_refused (h : (s.listRead ci).listRefused ci) :
    exec (.exchStart c) s = .next ((s.listRead ci).callFault c ci 0x030F c.val noPos) := by
  have hexec : exec (.exchStart c) s = execExchStart c s := rfl
  unfold State.listRefused at h
  rw [hexec, execExchStart, hc]
  simp only [Bool.not_eq_true']
  exact if_pos h

theorem exec_exchStart_of_open (h : ¬(s.listRead ci).listRefused ci) (ho : (s.listRead ci).cle.isOpen = true) :
    exec (.exchStart c) s =
      .next (((s.listRead ci).callNote c ci 0x0901 .d 0 noPos (stepDetail 0x10 0x0901)).finishCall c) := by
  have hexec : exec (.exchStart c) s = execExchStart c s := rfl
  unfold State.listRefused at h
  rw [hexec, execExchStart, hc]
  simp only [Bool.not_eq_true']
  exact (if_neg h).trans (if_pos ho)

theorem exec_exchStart_of_closed (h : ¬(s.listRead ci).listRefused ci) (ho : (s.listRead ci).cle.isOpen = false) :
    exec (.exchStart c) s = .next (((s.listRead ci).exchOpened ci).finishCall c) := by
  have hexec : exec (.exchStart c) s = execExchStart c s := rfl
  unfold State.listRefused at h
  rw [hexec, execExchStart, hc]
  simp only [Bool.not_eq_true']
  exact (if_neg h).trans (if_neg (by rw [Bool.not_eq_true]; exact ho))

end exchStart

theorem exchStart_sameOutside (hexec : exec (.exchStart c) s = .next t) :
    SameOutside [.cores, .hub, .err, .mem, .cle, .cke, .pwr, .pmu, .sent, .fresh] s t := by
  have ht : resultOf s (execExchStart c s) = t := congrArg (resultOf s) hexec
  have hframe := execExchStart_frame c s
  rw [ht] at hframe
  exact fun p hp => by cases p <;> simp_all [StatePart.same]

namespace ListRead
variable (h : ListRead s r)
include h

theorem has64 (hs : s.has64) : r.has64 := State.has64_of_cores hs h.cores

theorem call (hc : s.callOf c id = some ci) : (r.core c).q.call = some ci := by
  rw [State.core_of_cores h.cores]
  exact State.callOf_call hc

theorem notRewinding (hr : s.cke.rewinding = false) : r.cke.rewinding = false := by
  rw [h.health]
  exact hr

theorem stepNow : r.stepNow = s.stepNow := State.stepNow_of_kept h.hub h.health

end ListRead

theorem exec_exchStart_of_none (h : s.callOf c 0x10 = none) : exec (.exchStart c) s = .next s := by
  have hexec : exec (.exchStart c) s = execExchStart c s := rfl
  rw [hexec, execExchStart, h]

/-- R284: what a call of EXCH_START does once its list has been read. -/
theorem exchStart_called (hs : s.has64) (hc : s.callOf c 0x10 = some ci) (hr : s.cke.rewinding = false) :
    ∃ t, exec (.exchStart c) s = .next t ∧ (t.core c).q.call = none ∧
      ((s.listRead ci).listRefused ci → (t.core c).q.seq = .haltFault ∧ (t.core c).q.cmdIndex = ci.idx ∧ t.cle = s.cle) ∧
      (¬(s.listRead ci).listRefused ci → s.cle.isOpen = true → t.cle = s.cle) ∧
      (¬(s.listRead ci).listRefused ci → s.cle.isOpen = false → t.cle = ((s.listRead ci).exchOpened ci).cle) ∧
      t.mem = (s.listRead ci).mem := by
  have hl := s.listRead_kept ci
  by_cases hbad : (s.listRead ci).listRefused ci
  · obtain ⟨hcall, hseq, hidx, hcle, hmem⟩ := State.callFault_stops (hl.has64 hs) ci 0x030F c.val noPos (c := c)
    exact ⟨_, exec_exchStart_of_refused hc hbad, hcall, fun _ => ⟨hseq, hidx, hcle.trans hl.cle⟩, fun h => absurd hbad h,
      fun h => absurd hbad h, hmem⟩
  · cases ho : s.cle.isOpen with
    | true =>
      have hnote : SameOutside [.hub, .err, .pmu, .sent] (s.listRead ci)
          ((s.listRead ci).callNote c ci 0x0901 .d 0 noPos (stepDetail 0x10 0x0901)) := State.raise_sameOutside
      have hcores := hnote .cores (by simp)
      obtain ⟨hcall, hcle, hmem⟩ := State.finishCall_ends (State.has64_of_cores (hl.has64 hs) hcores)
        (by rw [State.core_of_cores hcores]; exact hl.call hc) (by rw [hnote .cke (by simp)]; exact hl.notRewinding hr)
      exact ⟨_, exec_exchStart_of_open hc hbad (by rw [hl.cle, ho]), hcall, fun h => absurd h hbad,
        fun _ _ => hcle.trans ((hnote .cle (by simp)).trans hl.cle), fun _ h => (nomatch h), hmem.trans (hnote .mem (by simp))⟩
    | false =>
      obtain ⟨hcall, hcle, hmem⟩ := State.finishCall_ends (s := (s.listRead ci).exchOpened ci) (hl.has64 hs) (hl.call hc)
        (hl.notRewinding hr)
      exact ⟨_, exec_exchStart_of_closed hc hbad (by rw [hl.cle, ho]), hcall, fun h => absurd h hbad, fun _ h => (nomatch h),
        fun _ _ => hcle, hmem⟩

/-! ### ALLGATHER -/

/-- R304: is the call of ALLGATHER refused, its map read? -/
def State.gatherRefused (r : State) (ci : CallInfo) : Prop :=
  1 < pbNum ci.pb 0x18 1 ∨ r.mapBad (pbNum ci.pb 0x10 8) = true ∨ (r.readMap (pbNum ci.pb 0x10 8)).kind ≠ 0

/-- R304: the gather is armed. -/
def State.gatherArmed (r : State) (ci : CallInfo) : State := { r with cle.armed := some (r.readMap (pbNum ci.pb 0x10 8)) }

/-- R304: the shards whose image is complete are sent. -/
def State.gathersSent (u : State) : State := (u.cle.imaged.foldl (fun t x => t.gatherShard x.1 x.2) u).settleStaged

theorem State.readsMap_hub (s : State) (agent a : Nat) : HubKept s (s.readsMap agent a) := by
  unfold State.readsMap
  dsimp only
  split
  · exact .refl s
  · split
    · exact (State.engineReads_hub _ _ _).trans (State.engineReads_hub _ _ _)
    · exact State.engineReads_hub _ _ _

theorem State.settleStaged_cke (s : State) : s.settleStaged.cke = s.cke := by simp

namespace HealthOnly

theorem readsMap (s : State) (agent a : Nat) : HealthOnly s (s.readsMap agent a) := by
  unfold State.readsMap
  dsimp only
  split
  · exact of_cke rfl
  · split
    · exact (engineReads _ _ _).trans (engineReads _ _ _)
    · exact engineReads _ _ _

theorem sendGather (s : State) (bi j img n : Nat) (l : List Byte) : HealthOnly s (s.sendGather bi j img n l) := by
  unfold State.sendGather
  split
  case h_1 b m _ _ =>
    refine trans (t := s.cleReads [(img, n), (s.altPlane b.fc0 b.fc1 + 2 * b.first j, 2 * b.len j)]) (engineReads _ _ _) (of_cke ?_)
    dsimp only
    split
    · split <;> simp
    · split <;> simp
  case h_2 => exact of_cke rfl

theorem gatherShard (s : State) (bi j : Nat) : HealthOnly s (s.gatherShard bi j) := by
  unfold State.gatherShard
  split
  case h_1 =>
    split
    · split
      · exact (engineReads _ _ _).trans (sendGather _ _ _ _ _ _)
      · exact of_cke rfl
    · exact of_cke rfl
  case h_2 => exact of_cke rfl

theorem gathersSent (s : State) : HealthOnly s s.gathersSent :=
  (foldl _ (fun t (x : Nat × Nat) => gatherShard t x.1 x.2) _).trans (of_cke (State.settleStaged_cke _))

end HealthOnly

theorem State.gathersSent_cores (s : State) : s.gathersSent.cores = s.cores := by
  have hfold : (s.cle.imaged.foldl (fun t (x : Nat × Nat) => t.gatherShard x.1 x.2) s).cores = s.cores :=
    List.foldlRecOn (motive := fun t : State => t.cores = s.cores) _ _ rfl fun t ht x _ => by simp [ht]
  rw [State.gathersSent, ← hfold]
  simp

theorem State.readsMap_kept (s : State) (agent a : Nat) : ListRead s (s.readsMap agent a) :=
  ⟨by simp, by simp, .readsMap s agent a, .readsMap s agent a, s.readsMap_hub agent a⟩

/-- R304: with no image complete nothing is sent: at most hub flag 3 counts that every shard is staged. -/
theorem State.gathersSent_of_nil (h : s.cle.imaged = []) : s.gathersSent.cle.armed = s.cle.armed ∧ s.gathersSent.mem = s.mem := by
  rw [State.gathersSent, h, List.foldl_nil]
  refine ⟨?_, by simp⟩
  unfold State.settleStaged
  dsimp only
  split
  · simp
  · rfl

section allgather
variable (hc : s.callOf c 0x11 = some ci)
include hc

theorem exec_allgather_of_refused (h : (s.readsMap 0x80 (pbNum ci.pb 0x10 8)).gatherRefused ci) :
    exec (.allgather c) s = .next ((s.readsMap 0x80 (pbNum ci.pb 0x10 8)).callFault c ci 0x030F c.val noPos) := by
  have hexec : exec (.allgather c) s = execAllgather c s := rfl
  unfold State.gatherRefused at h
  rw [hexec, execAllgather, hc]
  exact if_pos h

theorem exec_allgather_of_closed (h : ¬(s.readsMap 0x80 (pbNum ci.pb 0x10 8)).gatherRefused ci) (ho : s.cle.isOpen = false) :
    exec (.allgather c) s = .next ((s.readsMap 0x80 (pbNum ci.pb 0x10 8)).finishCall c) := by
  have hexec : exec (.allgather c) s = execAllgather c s := rfl
  have ho' : (s.readsMap 0x80 (pbNum ci.pb 0x10 8)).cle.isOpen = false := by rw [(s.readsMap_kept _ _).cle, ho]
  unfold State.gatherRefused at h
  rw [hexec, execAllgather, hc]
  exact (if_neg h).trans (if_pos (by rw [ho']; rfl))

theorem exec_allgather_of_open (hs : s.hub.snoop = []) (hi : s.hub.bisnp = [])
    (h : ¬(s.readsMap 0x80 (pbNum ci.pb 0x10 8)).gatherRefused ci) (ho : s.cle.isOpen = true) : exec (.allgather c) s =
      .next (((s.readsMap 0x80 (pbNum ci.pb 0x10 8)).gatherArmed ci).gathersSent.finishCall c) := by
  have hexec : exec (.allgather c) s = execAllgather c s := rfl
  have ho' : (s.readsMap 0x80 (pbNum ci.pb 0x10 8)).cle.isOpen = true := by rw [(s.readsMap_kept _ _).cle, ho]
  unfold State.gatherRefused at h
  rw [hexec, execAllgather, hc]
  dsimp only
  rw [if_neg h, if_neg (by rw [ho']; decide), afterSnoop_of_nil hs hi]
  rfl

end allgather

theorem exec_allgather_of_none (h : s.callOf c 0x11 = none) : exec (.allgather c) s = .next s := by
  have hexec : exec (.allgather c) s = execAllgather c s := rfl
  rw [hexec, execAllgather, h]

theorem allgather_sameOutside (hexec : exec (.allgather c) s = .next t) :
    SameOutside [.cores, .hub, .err, .mem, .cle, .cke, .pwr, .fab, .pmu, .sent, .fresh] s t := by
  have ht : resultOf s (execAllgather c s) = t := congrArg (resultOf s) hexec
  have hframe := execAllgather_frame c s
  rw [ht] at hframe
  exact fun p hp => by cases p <;> simp_all [StatePart.same]

/-- R304: what a call of ALLGATHER does once its map has been read. -/
theorem allgather_called (hs : s.has64) (hc : s.callOf c 0x11 = some ci) (hr : s.cke.rewinding = false) (hsn : s.hub.snoop = [])
    (hbi : s.hub.bisnp = []) (hread : s.readsMap 0x80 (pbNum ci.pb 0x10 8) = r) :
    ∃ t, exec (.allgather c) s = .next t ∧ (t.core c).q.call = none ∧
      (r.gatherRefused ci → (t.core c).q.seq = .haltFault ∧ t.cle = s.cle ∧ t.mem = r.mem) ∧
      (¬r.gatherRefused ci → s.cle.isOpen = false → t.cle = s.cle ∧ t.mem = r.mem) ∧
      (¬r.gatherRefused ci → s.cle.isOpen = true → s.cle.imaged = [] →
        t.cle.armed = some (r.readMap (pbNum ci.pb 0x10 8)) ∧ t.mem = r.mem) := by
  subst hread
  have hl := s.readsMap_kept 0x80 (pbNum ci.pb 0x10 8)
  by_cases hbad : (s.readsMap 0x80 (pbNum ci.pb 0x10 8)).gatherRefused ci
  · obtain ⟨hcall, hseq, -, hcle, hmem⟩ := State.callFault_stops (hl.has64 hs) ci 0x030F c.val noPos (c := c)
    exact ⟨_, exec_allgather_of_refused hc hbad, hcall, fun _ => ⟨hseq, hcle.trans hl.cle, hmem⟩, fun h => absurd hbad h,
      fun h => absurd hbad h⟩
  · cases ho : s.cle.isOpen with
    | false =>
      obtain ⟨hcall, hcle, hmem⟩ := State.finishCall_ends (hl.has64 hs) (hl.call hc) (hl.notRewinding hr)
      exact ⟨_, exec_allgather_of_closed hc hbad ho, hcall, fun h => absurd h hbad, fun _ _ => ⟨hcle.trans hl.cle, hmem⟩,
        fun _ h => (nomatch h)⟩
    | true =>
      have hcores := State.gathersSent_cores ((s.readsMap 0x80 (pbNum ci.pb 0x10 8)).gatherArmed ci)
      have hcke := HealthOnly.gathersSent ((s.readsMap 0x80 (pbNum ci.pb 0x10 8)).gatherArmed ci)
      obtain ⟨hcall, hcle, hmem⟩ := State.finishCall_ends (State.has64_of_cores (hl.has64 hs) hcores)
        (by rw [State.core_of_cores hcores]; exact hl.call hc) (by rw [hcke]; exact hl.notRewinding hr)
      refine ⟨_, exec_allgather_of_open hc hsn hbi hbad ho, hcall, fun h => absurd h hbad, fun _ h => (nomatch h), fun _ _ him => ?_⟩
      obtain ⟨harmed, hkept⟩ := State.gathersSent_of_nil (s := (s.readsMap 0x80 (pbNum ci.pb 0x10 8)).gatherArmed ci)
        ((congrArg (fun x : Cle => x.imaged) hl.cle).trans him)
      exact ⟨(congrArg (fun x : Cle => x.armed) hcle).trans harmed, hmem.trans hkept⟩

/-- Settles O22: each routine with its list or map read (`exchStart_called`, `allgather_called`). -/
theorem exchangeRoutinesOpenAndArm : Obligations.ExchangeRoutinesOpenAndArm := by
  unfold Obligations.ExchangeRoutinesOpenAndArm
  intro c s hs
  refine ⟨exec_exchStart_of_none, fun ci hc hr => ?exch, exec_allgather_of_none, fun ci hc hr hsn hbi => ?gather⟩
  case exch =>
    have hl := s.listRead_kept ci
    obtain ⟨t, hexec, hcall, hrefused, hopen, hclosed, hmem⟩ := exchStart_called hs hc hr
    refine ⟨t, hexec, hcall, hrefused, hopen, fun hgood ho => ?_,
      fun x => (State.byteAt_of_bytes (congrArg Memory.bytes hmem) x).trans (hl.lines.byteAt x), exchStart_sameOutside hexec⟩
    rw [hclosed hgood ho, ← hl.stepNow, ← hl.cle]
    exact ⟨rfl, rfl, rfl, rfl, rfl, rfl, rfl, rfl, rfl⟩
  case gather =>
    obtain ⟨t, hexec, hcall, hrefused, hclosed, harmed⟩ := allgather_called hs hc hr hsn hbi rfl
    exact ⟨t, hexec, hcall, hrefused, hclosed, harmed, (LinesRead.readsMap s _ _).byteAt, allgather_sameOutside hexec⟩

end Sys2Proof.Machine
end

section
/-! SUPPORT. What a PUE writes of memory (R313 to R316, R321 to R323, R334). -/

namespace Sys2Proof.Machine
variable {s t : State} {die : Nat} {d : SDesc} {a : PueAcc} {g : Group} {x : Nat}

/-! ### Where a write of a PUE reaches -/

theorem State.pueWrite_byteAt {b : Nat} {bs : List Byte} (h : ¬(b ≤ x ∧ x < b + bs.length)) :
    (s.pueWrite die b bs).byteAt x = s.byteAt x :=
  State.agentWrite_byteAt (by omega)

theorem State.pueNum_byteAt {b n v : Nat} (h : ¬(b ≤ x ∧ x < b + n)) : (s.pueNum die b n v).byteAt x = s.byteAt x :=
  State.pueWrite_byteAt (by rwa [leBytes_length])

theorem State.agentWrite_places (s : State) (b agent : Nat) (bs : List Byte) : SamePlaces s (s.agentWrite b agent bs) :=
  List.foldlRecOn (motive := SamePlaces s) _ _ ⟨rfl, rfl, rfl, rfl, rfl⟩ fun _ ht q _ => ht.trans (State.writePart_places _ _ q)

theorem State.pueReads_byteAt (s : State) (die : Nat) (rs : List (Nat × Nat)) (x : Nat) : (s.pueReads die rs).byteAt x = s.byteAt x :=
  (LinesRead.engineReads s _ rs).byteAt x

/-! ### The status entry of a group -/

section status
variable {tab : GroupTab} {grp : Nat} (h : ¬(tab.status + 64 * grp ≤ x ∧ x < tab.status + 64 * grp + 64))
include h

theorem State.openStatus_byteAt (k : Nat) : (s.openStatus die tab grp k).byteAt x = s.byteAt x := by
  unfold State.openStatus
  dsimp only
  split
  · exact State.pueReads_byteAt _ _ _ _
  · rw [State.pueNum_byteAt (by omega), State.pueNum_byteAt (by omega), State.pueNum_byteAt (by omega), State.pueNum_byteAt (by omega),
      State.pueReads_byteAt]

theorem State.statusFlag_byteAt (k bit : Nat) : (s.statusFlag die tab grp k bit).byteAt x = s.byteAt x := by
  unfold State.statusFlag
  dsimp only
  rw [State.pueNum_byteAt (by omega), State.openStatus_byteAt h]

theorem State.bump32_byteAt {n : Nat} (hn : n + 4 ≤ 64) : (s.bump32 die (tab.status + 64 * grp + n)).byteAt x = s.byteAt x :=
  State.pueNum_byteAt (by omega)

/-- R334: once a block's copy stands, the rest of its step writes the status entry of its group alone. -/
theorem finishBlock_byteAt (seed : Word64) (cur b : Nat) (caught : Bool) (old new : List PElem) (ht : a.call.table = tab) :
    (finishBlock die d a seed cur b grp g caught old new).st.byteAt x =
      (a.st.writeBlock die d a.call.k (1 - cur) b grp (blockOut d seed a.call.k b (g.rule = 1) new)).byteAt x := by
  subst ht
  have hpue : ∀ (v : State) (p : Pue), (v.setPue die p).byteAt x = v.byteAt x := fun v p =>
    State.byteAt_of_bytes (by simp) x
  have hcount : ∀ (v : State), (v.countHub 0x0B (maskBit die) 32).byteAt x = v.byteAt x := fun v =>
    State.byteAt_of_bytes (by simp) x
  have hcaught : ∀ v : State,
      (if caught then v.bump32 die (a.call.table.status + 64 * grp + 4) else v).byteAt x = v.byteAt x := fun v => by
    split
    · exact State.bump32_byteAt h (by decide)
    · rfl
  have hblocks : ∀ (v : State) (n : Nat), (v.pueNum die (a.call.table.status + 64 * grp) 4 n).byteAt x = v.byteAt x := fun _ _ =>
    State.pueNum_byteAt (by omega)
  have hhealth : ∀ v : State, (v.setHealth 2).byteAt x = v.byteAt x := fun _ => rfl
  have hbad : ∀ (v : State) (bad : Bool),
      (if bad then (v.statusFlag die a.call.table grp a.call.k 1).setHealth 2 else v).byteAt x = v.byteAt x := fun v bad => by
    split
    · exact (hhealth _).trans (State.statusFlag_byteAt h _ _)
    · rfl
  unfold finishBlock
  extract_lets +onlyGivenNames call k o s1 th s2 sa s3 s4 p s5 s6
  calc s6.byteAt x = s5.byteAt x := hbad s5 o.bad
    _ = s4.byteAt x := hpue s4 _
    _ = s3.byteAt x := hcaught s3
    _ = s2.byteAt x := hblocks s2 _
    _ = (s1.countHub 0x0B (maskBit die) 32).byteAt x := State.openStatus_byteAt h _
    _ = s1.byteAt x := hcount s1

end status

/-! ### The two copies of a block -/

/-- R316: the parts of a block's copy are no longer than their places. -/
structure BlockOut.Fits (d : SDesc) (o : BlockOut) : Prop where
  th : o.th.length ≤ 128
  m : o.m.length ≤ momBytes d.momfmt
  v : ∀ y, o.v = some y → y.length ≤ momBytes d.momfmt
  img : o.img.length ≤ imgBytes d.imgfmt

theorem length_flatMap_leBytes {α : Type} (n : Nat) (f : α → Nat) (xs : List α) :
    (xs.flatMap fun y => leBytes n (f y)).length = n * xs.length := by
  simp [List.length_flatMap, leBytes_length, Nat.mul_comm]

theorem mxForm_length (f : Fmt) (rnd : Rnd) (rs : List Nat) (xs : List Num) : (mxForm f rnd rs xs).2.1.length ≤ xs.length := by
  unfold mxForm
  split
  · exact Nat.zero_le _
  · split
    · simp
    · split
      · simp
      · simp

theorem imgStore_length (fmt : Nat) (th : List Num) (h : th.length ≤ 32) : (imgStore fmt th).length ≤ imgBytes fmt := by
  unfold imgStore imgBytes
  split
  · rw [length_flatMap_leBytes]
    omega
  · rw [length_flatMap_leBytes]
    omega

theorem momStore_length (fmt : Nat) (seed : Word64) (k sel b : Nat) (xs : List Num) (h : xs.length ≤ 32) :
    (momStore fmt seed k sel b xs).length ≤ momBytes fmt := by
  unfold momStore momBytes
  split
  · rw [length_flatMap_leBytes]
    omega
  · rw [length_flatMap_leBytes]
    omega
  · rw [length_flatMap_leBytes, List.length_zipIdx]
    omega
  · have hmx := mxForm_length .mxE4m3 .rne [] xs
    rw [List.length_append, length_flatMap_leBytes 1 (fun y => y), leBytes_length, Nat.one_mul]
    exact Nat.succ_le_succ (hmx.trans h)

theorem blockOut_fits (d : SDesc) (seed : Word64) (k b : Nat) (adamw : Bool) {xs : List PElem} (h : xs.length ≤ 32) :
    (blockOut d seed k b adamw xs).Fits d := by
  refine ⟨?_, momStore_length _ _ _ _ _ _ (by simpa using h), fun y hy => ?_, imgStore_length _ _ (by simpa using h)⟩
  · exact imgStore_length 0 _ (by simpa using h)
  · unfold blockOut at hy
    dsimp only at hy
    split at hy
    · cases hy
      exact momStore_length _ _ _ _ _ _ (by simpa using h)
    · cases hy

/-- A place of memory. -/
def InRange (x base n : Nat) : Prop := base ≤ x ∧ x < base + n

theorem State.pueWrite_byteAt_of_le {b n : Nat} {bs : List Byte} (h : ¬InRange x b n) (hn : bs.length ≤ n) :
    (s.pueWrite die b bs).byteAt x = s.byteAt x :=
  State.pueWrite_byteAt fun hx => h ⟨hx.1, by omega⟩

/-- R315: a block's copy and its image, and nothing else, are written. -/
theorem State.writeBlock_byteAt {k alt b grp : Nat} {o : BlockOut} (ho : o.Fits d)
    (hmst : ¬InRange x (pl d.mst alt + 128 * b) 128)
    (hm1 : ¬InRange x (pl d.m1 alt + momBytes d.momfmt * b) (momBytes d.momfmt))
    (hm2 : ¬InRange x (pl d.m2 alt + momBytes d.momfmt * b) (momBytes d.momfmt))
    (hhdr : ¬InRange x (pl d.hdr alt + 16 * b) 16) (himg : ¬InRange x (d.img + imgBytes d.imgfmt * b) (imgBytes d.imgfmt)) :
    (s.writeBlock die d k alt b grp o).byteAt x = s.byteAt x := by
  have hfirst : ∀ v : State, ((v.pueWrite die (pl d.mst alt + 128 * b) o.th).pueWrite die
      (pl d.m1 alt + momBytes d.momfmt * b) o.m).byteAt x = v.byteAt x := fun v => (State.pueWrite_byteAt_of_le hm1 ho.m).trans (State.pueWrite_byteAt_of_le hmst ho.th)
  unfold State.writeBlock
  dsimp only
  rw [State.pueWrite_byteAt_of_le himg ho.img, State.pueNum_byteAt hhdr]
  split
  · next y hy => exact (State.pueWrite_byteAt_of_le hm2 (ho.v y hy)).trans (hfirst s)
  · exact hfirst s

/-- R9: the low bytes of a number. -/
theorem leBytes_getD (n v i : Nat) (h : i < n) : (leBytes n v).getD i 0 = BitVec.ofNat 8 (v >>> (8 * i)) := by
  induction n generalizing v i with
  | zero => omega
  | succ n ih =>
    cases i with
    | zero => rfl
    | succ i =>
      rw [leBytes, List.getD_cons_succ, ih _ _ (by omega), ← Nat.shiftRight_add, show 8 + 8 * i = 8 * (i + 1) by omega]

/-- R313: the low bytes of a header are WSTEP. -/
theorem header_getD (k grp bad i : Nat) (h : i < 8) :
    (leBytes 16 (k + grp <<< 64 + bad <<< 76)).getD i 0 = (leBytes 8 k).getD i 0 := by
  rw [leBytes_getD _ _ _ (by omega), leBytes_getD _ _ _ h]
  refine BitVec.eq_of_toNat_eq ?_
  simp only [BitVec.toNat_ofNat, Nat.shiftRight_eq_div_pow, Nat.shiftLeft_eq]
  have hp : 2 ^ 64 = 2 ^ (8 * i) * (2 ^ 8 * 2 ^ (56 - 8 * i)) := by
    rw [← Nat.pow_add, ← Nat.pow_add]
    congr 1
    omega
  rw [show k + grp * 2 ^ 64 + bad * 2 ^ 76 = k + 2 ^ 64 * (grp + bad * 2 ^ 12) by ring, hp, Nat.mul_assoc,
    Nat.add_mul_div_left _ _ (by positivity), Nat.mul_assoc, Nat.add_mul_mod_self_left]

theorem State.writeBlock_header {k alt b grp i : Nat} {o : BlockOut} (hi : i < 8) (hal : pl d.hdr alt % 64 = 0)
    (hp : s.populated (pl d.hdr alt + 16 * b) = true)
    (himg : ¬InRange (pl d.hdr alt + 16 * b + i) (d.img + imgBytes d.imgfmt * b) (imgBytes d.imgfmt)) (ho : o.Fits d) :
    (s.writeBlock die d k alt b grp o).byteAt (pl d.hdr alt + 16 * b + i) = (leBytes 8 k).getD i 0 := by
  have hplaces : ∀ (v : State) (c : Nat) (bs : List Byte), SamePlaces v (v.pueWrite die c bs) := fun v c bs => v.agentWrite_places _ _ _
  have hstored : ∀ v : State, v.populated (pl d.hdr alt + 16 * b) = true →
      (v.pueNum die (pl d.hdr alt + 16 * b) 16 (k + grp <<< 64 + b2n o.bad <<< 76)).byteAt (pl d.hdr alt + 16 * b + i) =
        (leBytes 8 k).getD i 0 := fun v hv => by
    rw [State.pueNum, State.agentNum, State.agentWrite_byteAt_of_populated (by omega) (by rw [leBytes_length]; omega)
      ((v.populated_line (by omega)).trans hv), Nat.add_sub_cancel_left, header_getD _ _ _ _ hi]
  unfold State.writeBlock
  dsimp only
  rw [State.pueWrite_byteAt_of_le himg ho.img]
  refine hstored _ ?_
  have hfirst := (hplaces s (pl d.mst alt + 128 * b) o.th).trans (hplaces _ (pl d.m1 alt + momBytes d.momfmt * b) o.m)
  split
  · exact ((hfirst.trans (hplaces _ _ _)).populated _).trans hp
  · exact (hfirst.populated _).trans hp

/-! ### One block -/

theorem State.readBlock_length (s : State) (d : SDesc) (i b : Nat) (adamw : Bool) : (s.readBlock d i b adamw).length = 32 := by
  simp [State.readBlock, State.fpBlock]

section block
variable {seed : Word64} {b cur grp : Nat}

/-- What the PUE has read of a block when it judges it. -/
def PueAcc.judged (a : PueAcc) (die : Nat) (d : SDesc) (b : Nat) : State := (a.st.readHeaders die d b).pueReads die (d.finalRanges b)

theorem PueAcc.judged_lines (a : PueAcc) (die : Nat) (d : SDesc) (b : Nat) : LinesRead a.st (a.judged die d b) :=
  (LinesRead.engineReads _ _ _).trans (.engineReads _ _ _)

variable (h : (a.judged die d b).blockEntry a.call.table d b = some (cur, grp, g))
include h

theorem pueBlock_of_early (hk : a.call.k < g.start) : pueBlock die d seed a b = { a with st := a.judged die d b } := by
  unfold PueAcc.judged at h ⊢
  unfold pueBlock
  simp only [h, if_pos hk]

theorem pueBlock_of_frozen (hk : g.start ≤ a.call.k) (hf : g.frozen = true) :
    pueBlock die d seed a b = frozenBlock die { a with st := a.judged die d b } grp g ((a.judged die d b).touched d b) := by
  unfold PueAcc.judged at h ⊢
  unfold pueBlock
  simp only [h, if_neg (Nat.not_lt.2 hk), if_pos hf]

theorem pueBlock_of_idle (hf : g.frozen = false) (ht : (a.judged die d b).touched d b = false)
    (hd : g.dense = false) : pueBlock die d seed a b = { a with st := a.judged die d b } := by
  unfold PueAcc.judged at h ht ⊢
  unfold pueBlock
  simp [h, hf, ht, hd]

/-- R321: a block that is due is written from its new values. -/
theorem pueBlock_of_due (hk : g.start ≤ a.call.k) (hf : g.frozen = false)
    (hd : (a.judged die d b).touched d b = true ∨ g.dense = true)
    (hr : g.rule ≠ 3) : ∃ (rs : List (Nat × Nat)) (caught : Bool) (old new : List PElem), new.length ≤ 32 ∧
      pueBlock die d seed a b = finishBlock die d { a with st := (a.judged die d b).pueReads die rs } seed cur b grp g caught old new := by
  have hdue : ¬((!(a.judged die d b).touched d b && !g.dense || decide (g.rule = 3)) = true) := by
    obtain ht | ht := hd
    · simp [ht, hr]
    · simp [ht, hr]
  unfold PueAcc.judged at h hdue ⊢
  have hlen : ∀ (s : State) (n : Nat) (adamw : Bool) (ys : List Num) (f : PElem × Num → PElem),
      (((s.caughtUp d g n cur b (s.readBlock d cur b adamw)).2.2.zip ys).map f).length ≤ 32 := fun s n adamw ys f => by
    rw [List.length_map, List.length_zip]
    refine (Nat.min_le_left _ _).trans ?_
    unfold State.caughtUp
    dsimp only
    split
    · rw [List.length_map, State.readBlock_length]
    · rw [State.readBlock_length]
  unfold pueBlock
  simp only [h, if_neg (Nat.not_lt.2 hk), if_neg (ne_true_of_eq_false hf), if_neg hdue]
  exact ⟨_, _, _, _, hlen _ _ _ _ _, rfl⟩

end block

/-- R332, R333: a frozen block that no gradient touches is left alone; one that is touched stops a strict group. -/
theorem frozenBlock_of_untouched (die : Nat) (a : PueAcc) (grp : Nat) (g : Group) : frozenBlock die a grp g false = a := rfl

theorem frozenBlock_of_strict (die : Nat) (a : PueAcc) (grp : Nat) (hs : g.strict = true) :
    frozenBlock die a grp g true = { a with fin := .frozenTouch grp } := by
  unfold frozenBlock
  simp [hs]

/-- R315, R321, R334: what a block that is written leaves of memory. -/
theorem finishBlock_stored {seed : Word64} {cur b grp : Nat} {caught : Bool} {old new : List PElem} (hn : new.length ≤ 32)
    (hsa : ¬InRange x (a.call.table.status + 64 * grp) 64)
    (himg : ¬InRange x (d.img + imgBytes d.imgfmt * b) (imgBytes d.imgfmt)) :
    (¬InRange x (pl d.mst (1 - cur) + 128 * b) 128 →
      ¬InRange x (pl d.m1 (1 - cur) + momBytes d.momfmt * b) (momBytes d.momfmt) →
      ¬InRange x (pl d.m2 (1 - cur) + momBytes d.momfmt * b) (momBytes d.momfmt) →
      ¬InRange x (pl d.hdr (1 - cur) + 16 * b) 16 →
        (finishBlock die d a seed cur b grp g caught old new).st.byteAt x = a.st.byteAt x) ∧
    (pl d.hdr (1 - cur) % 64 = 0 → a.st.populated (pl d.hdr (1 - cur) + 16 * b) = true →
      ∀ i, i < 8 → x = pl d.hdr (1 - cur) + 16 * b + i →
        (finishBlock die d a seed cur b grp g caught old new).st.byteAt x = (leBytes 8 a.call.k).getD i 0) := by
  have ho := blockOut_fits d seed a.call.k b (decide (g.rule = 1)) hn
  rw [finishBlock_byteAt hsa _ _ _ _ _ _ rfl]
  refine ⟨fun hmst hm1 hm2 hhdr => State.writeBlock_byteAt ho hmst hm1 hm2 hhdr himg, fun hal hp i hi hx => ?_⟩
  subst hx
  exact State.writeBlock_header hi hal hp himg ho

/-- Settles O30: each case by the equation of `pueBlock` for it; what a written block stores is `finishBlock_stored`. -/
theorem updateWritesTheOtherCopy : Obligations.UpdateWritesTheOtherCopy := by
  unfold Obligations.UpdateWritesTheOtherCopy
  intro die d seed a b cur grp g _ s k sa in_ hdr r hr h
  have hs : a.judged die d b = s := rfl
  clear_value s
  have hr' := hr.symm
  subst hs hr'
  refine ⟨(a.judged_lines die d b).byteAt, pueBlock_of_early h, fun hk hf ht hs => ?strict, fun hk hf ht => ?untouched,
    fun _ => pueBlock_of_idle h, fun hk hf hd hrule => ?due⟩
  case strict =>
    rw [pueBlock_of_frozen h hk hf, ht, frozenBlock_of_strict _ _ _ hs]
    exact ⟨rfl, rfl, rfl⟩
  case untouched => rw [pueBlock_of_frozen h hk hf, ht, frozenBlock_of_untouched]
  case due =>
    obtain ⟨rs, caught, old, new, hn, heq⟩ := pueBlock_of_due (seed := seed) h hk hf hd hrule
    have hlines : LinesRead a.st ((a.judged die d b).pueReads die rs) := (a.judged_lines die d b).trans (.engineReads _ _ _)
    rw [heq]
    refine ⟨rfl, rfl, fun x hmst hm1 hm2 hhdr himg hsa => ?_, fun hal hp i hi himg hsa => ?_⟩
    · obtain ⟨hkept, -⟩ := finishBlock_stored (d := d) (die := die) (a := { a with st := (a.judged die d b).pueReads die rs })
        (g := g) (seed := seed) (caught := caught) (old := old) hn hsa himg
      exact (hkept hmst hm1 hm2 hhdr).trans (hlines.byteAt x)
    · obtain ⟨-, hheader⟩ := finishBlock_stored (d := d) (die := die) (a := { a with st := (a.judged die d b).pueReads die rs })
        (g := g) (seed := seed) (caught := caught) (old := old) hn hsa himg
      exact hheader hal ((hlines.places.populated _).trans hp) i hi rfl

end Sys2Proof.Machine
end

section
/-! SUPPORT. How the calls of a PUE go on: its credit (R342, R415), what its reads and writes leave of the hub, and PRECOND (R338,
R343). -/

namespace Sys2Proof.Machine
variable {s t u : State} {die : Nat} {c : CoreId} {ci : CallInfo} {r : PreRun} {limit : Nat} {f : State → State}

/-! ### The credit of a PUE -/

theorem State.needCredit_fst_iff {w : PwrUnit} {n : Nat} :
    (s.needCredit w n).1 = true ↔ s.creditMarked w = false ∧ n ≤ s.creditHeld w := by
  refine ⟨fun h => ?_, fun ⟨hm, hn⟩ => State.needCredit_of_held hm hn⟩
  unfold State.needCredit at h
  split at h
  · cases h
  · next hm =>
    split at h
    · next hn => exact ⟨eq_false_of_ne_true hm, hn⟩
    · cases h

theorem State.pue_of_parts (h0 : t.pue0 = s.pue0) (h1 : t.pue1 = s.pue1) (die : Nat) : t.pue die = s.pue die := by
  rw [State.pue, h0, h1, State.pue]

/-- R342: a PUE that holds its credit goes on. -/
theorem State.withCredit_of_credit (h : s.pueCredit die) : s.withCredit die f = f (s.pueGranted die) := by
  unfold State.withCredit State.pueGranted
  cases hw : (s.pue die).creditWait with
  | false => rfl
  | true => exact if_pos (State.needCredit_fst_iff.2 (h hw))

/-- R342: a PUE without its credit has asked for it, and nothing else. -/
theorem State.withCredit_of_lack (h : ¬s.pueCredit die) : PueWaits die s (s.withCredit die f) := by
  obtain ⟨hw, hlack⟩ := Classical.not_imp.1 h
  have hnot : (s.needCredit ⟨die, 5⟩ 2560).1 = false := eq_false_of_ne_true fun hg => hlack (State.needCredit_fst_iff.1 hg)
  have heq : s.withCredit die f = (s.needCredit ⟨die, 5⟩ 2560).2 := by
    unfold State.withCredit
    simp [hw, hnot]
  have hpue : (s.needCredit ⟨die, 5⟩ 2560).2.pue die = s.pue die := State.pue_of_parts (by simp) (by simp) die
  rw [heq]
  exact ⟨by rw [hpue, hw], by rw [hpue], by rw [hpue], by simp, by simp, by simp⟩

/-! ### What reads and writes leave of the hub -/

theorem State.writePart_hub (agent : Nat) (s : State) (q : Nat × List Byte) : HubKept s (State.writePart agent s q) := by
  have hc := s.countLine_hub q.1 true
  unfold State.writePart
  dsimp only
  split
  · exact hc.trans (State.raise_hub _ _ _ _ _)
  · split
    · exact hc.trans (.of_hub rfl)
    · exact hc.trans ((State.touchLineQuiet_hub _ _ _).trans (.of_hub rfl))

theorem State.agentWrite_hub (s : State) (a agent : Nat) (bs : List Byte) : HubKept s (s.agentWrite a agent bs) :=
  .foldl _ _ (State.writePart_hub agent) s

theorem State.setFallback_hub (s : State) (die : Nat) (tab : GroupTab) (x : Nat × Nat) : HubKept s (s.setFallback die tab x) :=
  (State.engineReads_hub _ _ _).trans ((State.agentWrite_hub _ _ _ _).trans (State.agentWrite_hub _ _ _ _))

theorem State.countFallback_hub (s : State) (die : Nat) (f : Nat → Nat) (g : Nat) : HubKept s (s.countFallback die f g) := by
  unfold State.countFallback
  split
  · split
    · exact State.setFallback_hub _ _ _ _
    · exact .refl s
  · exact .of_hub rfl

theorem State.pueHeld_of_hub (h : HubKept s t) : t.pueHeld = s.pueHeld := by rw [State.pueHeld, h.jobState, State.pueHeld]

/-! ### What the reads of a call keep -/

/-- What the reads of a PUE keep. -/
structure PueRead (s t : State) : Prop extends ListRead s t where
  pue0 : t.pue0 = s.pue0
  pue1 : t.pue1 = s.pue1

namespace PueRead

theorem refl (s : State) : PueRead s s := ⟨⟨rfl, rfl, .refl s, .of_cke rfl, .refl s⟩, rfl, rfl⟩

theorem trans (h : PueRead s t) (h' : PueRead t u) : PueRead s u :=
  ⟨⟨h'.cores.trans h.cores, h'.cle.trans h.cle, h.lines.trans h'.lines, h.health.trans h'.health, h.hub.trans h'.hub⟩,
    h'.pue0.trans h.pue0, h'.pue1.trans h.pue1⟩

theorem foldl {α : Type} (l : List α) {f : State → α → State} (hf : ∀ t a, PueRead t (f t a)) (s : State) :
    PueRead s (l.foldl f s) :=
  List.foldlRecOn (motive := PueRead s) _ _ (refl s) fun _ ht a _ => ht.trans (hf _ a)

theorem engineReads (s : State) (agent : Nat) (rs : List (Nat × Nat)) : PueRead s (s.engineReads agent rs) :=
  ⟨⟨by simp, by simp, .engineReads s _ _, .engineReads s _ _, s.engineReads_hub _ _⟩, by simp, by simp⟩

theorem pueReads (s : State) (die : Nat) (rs : List (Nat × Nat)) : PueRead s (s.pueReads die rs) := engineReads s _ rs

/-- R320, R344: what a call that is refused leaves. -/
theorem refuse_stops (h : PueRead s t) (hs : s.has64) (ci : CallInfo) :
    ((t.pueRefuse c ci).core c).q.seq = .haltFault ∧ ((t.pueRefuse c ci).core c).q.cmdIndex = ci.idx ∧
      ((t.pueRefuse c ci).core c).q.call = none ∧ (∀ a, (t.pueRefuse c ci).byteAt a = s.byteAt a) ∧
      (t.pueRefuse c ci).pue0 = s.pue0 ∧ (t.pueRefuse c ci).pue1 = s.pue1 := by
  obtain ⟨hcall, hseq, hidx, -, hmem⟩ := State.callFault_stops (h.has64 hs) ci 0x030F c.val noPos (c := c)
  refine ⟨hseq, hidx, hcall, fun a => (State.byteAt_of_bytes (congrArg Memory.bytes hmem) a).trans (h.lines.byteAt a), ?_, ?_⟩
  · rw [← h.pue0]
    simp [State.pueRefuse]
  · rw [← h.pue1]
    simp [State.pueRefuse]

end PueRead

/-! ### PRECOND -/

/-- R343: a call of PRECOND goes on. -/
theorem State.continuePrecond_goesOn (h : s.pueHeld = false) (die : Nat) (c : CoreId) (ci : CallInfo) (limit : Nat) (r : PreRun) :
    PrecondGoesOn die c ci limit s r (s.continuePrecond die c ci limit r) := by
  have heq : s.continuePrecond die c ci limit r = s.withCredit die (runTiles die c ci (min limit (r.todo.length + 1))) :=
    if_neg (by rw [h]; decide)
  rw [heq]
  exact ⟨State.withCredit_of_lack, State.withCredit_of_credit⟩

theorem State.continuePrecond_of_held (h : s.pueHeld = true) : s.continuePrecond die c ci limit r = s := if_pos h

/-- R338: the block list a call of PRECOND has read, the state once it has read the descriptors it names, and its tiles. -/
def State.precondEnts (s : State) (die : Nat) (ci : CallInfo) : List (Nat × Nat) :=
  (List.range (pbNum ci.pb 0x18 4)).map fun i =>
    ((s.pueReads die [(pbNum ci.pb 0x10 8, 16 * pbNum ci.pb 0x18 4)]).numAt (pbNum ci.pb 0x10 8 + 16 * i) 8,
      (s.pueReads die [(pbNum ci.pb 0x10 8, 16 * pbNum ci.pb 0x18 4)]).numAt (pbNum ci.pb 0x10 8 + 16 * i + 8) 4)

def State.precondRead (s : State) (die : Nat) (ci : CallInfo) : State :=
  (s.pueReads die [(pbNum ci.pb 0x10 8, 16 * pbNum ci.pb 0x18 4)]).pueReads die ((s.precondEnts die ci).map fun x => (x.1, 128))

def State.precondTiles (s : State) (die : Nat) (ci : CallInfo) : List (SDesc × Nat) :=
  (s.precondEnts die ci).map fun x => ((s.precondRead die ci).readSDesc x.1, x.2)

/-- R338, R344: is the call refused for its list, a descriptor or a tile? -/
def State.precondRefused (s : State) (die : Nat) (ci : CallInfo) : Prop :=
  (s.precondRead die ci).readable (pbNum ci.pb 0x10 8) (16 * pbNum ci.pb 0x18 4) = false ∨
    (∃ x ∈ s.precondEnts die ci, (s.precondRead die ci).sdescBad x.1 = true) ∨
    ∃ x ∈ s.precondTiles die ci, x.1.nblk < 512 * (x.2 + 1)

theorem State.precondRefused_iff : s.precondRefused die ci ↔
    ((!(s.precondRead die ci).readable (pbNum ci.pb 0x10 8) (16 * pbNum ci.pb 0x18 4)) = true ∨
      ((s.precondEnts die ci).any fun x => (s.precondRead die ci).sdescBad x.1) = true ∨
      ((s.precondTiles die ci).any fun x => decide (x.1.nblk < 512 * (x.2 + 1))) = true) := by
  simp only [State.precondRefused, Bool.not_eq_true', List.any_eq_true, decide_eq_true_eq]

/-- R338: the headers of the tiles' first blocks have been read, and the FALLBACK marks of their groups cleared. -/
def State.precondHeaders (s : State) (die : Nat) (ci : CallInfo) : State :=
  (s.precondTiles die ci).foldl (fun v x => v.readHeaders die x.1 (512 * x.2)) (s.precondRead die ci)

def State.precondCleared (s : State) (die : Nat) (ci : CallInfo) : State :=
  ((s.precondTiles die ci).filterMap (s.precondHeaders die ci).tileGroup).dedup.foldl
    (State.countFallback (die := die) (f := fun _ => 0)) (s.precondHeaders die ci)

/-- R338: is the call's interval out of bounds, or its list not aligned? -/
def precondMisfit (ci : CallInfo) : Prop := pbNum ci.pb 0x1C 4 = 0 ∨ 2 ^ 20 < pbNum ci.pb 0x1C 4 ∨ pbNum ci.pb 0x10 8 % 64 ≠ 0

theorem State.precondRead_read (s : State) (die : Nat) (ci : CallInfo) : PueRead s (s.precondRead die ci) :=
  (PueRead.pueReads _ _ _).trans (.pueReads _ _ _)

theorem State.precondHeaders_read (s : State) (die : Nat) (ci : CallInfo) : PueRead s (s.precondHeaders die ci) :=
  (s.precondRead_read die ci).trans (.foldl _ (fun _ _ => .pueReads _ _ _) _)

theorem State.precondCleared_hub (s : State) (die : Nat) (ci : CallInfo) : HubKept s (s.precondCleared die ci) :=
  (s.precondHeaders_read die ci).hub.trans (.foldl _ _ (fun _ _ => State.countFallback_hub _ _ _ _) _)

theorem State.precondCleared_pue (s : State) (die : Nat) (ci : CallInfo) : (s.precondCleared die ci).pue die = s.pue die := by
  have hread := s.precondHeaders_read die ci
  refine .trans ?_ (State.pue_of_parts hread.pue0 hread.pue1 die)
  exact List.foldlRecOn (motive := fun v : State => v.pue die = (s.precondHeaders die ci).pue die) _ _ rfl fun v hv _ _ =>
    (State.pue_of_parts (by simp) (by simp) die).trans hv

/-- The call as it drives the PUE. -/
def State.precondRun (s : State) (c : CoreId) (die : Nat) (ci : CallInfo) : PreRun := ⟨c.val, s.stepNow.toNat, s.precondTiles die ci⟩

/-- The state in which a call of PRECOND has taken its PUE. -/
def State.precondTaken (s : State) (c : CoreId) (die : Nat) (ci : CallInfo) : State :=
  (s.precondCleared die ci).setPue die { s.pue die with pre := some (s.precondRun c die ci), creditWait := true }

theorem startPrecond_of_misfit (h : precondMisfit ci) : startPrecond c die ci limit s = s.pueRefuse c ci := if_pos h

section fits
variable (h : ¬precondMisfit ci)
include h

theorem startPrecond_of_idle (hk : s.stepNow.toNat % pbNum ci.pb 0x1C 4 ≠ 0) : startPrecond c die ci limit s = s.finishCall c :=
  (if_neg h).trans (if_pos hk)

variable (hk : s.stepNow.toNat % pbNum ci.pb 0x1C 4 = 0)
include hk

theorem startPrecond_of_refused (hr : s.precondRefused die ci) :
    startPrecond c die ci limit s = (s.precondRead die ci).pueRefuse c ci :=
  (if_neg h).trans ((if_neg (not_not.2 hk)).trans (if_pos (State.precondRefused_iff.1 hr)))

theorem startPrecond_of_taken (hr : ¬s.precondRefused die ci) :
    startPrecond c die ci limit s = (s.precondTaken c die ci).continuePrecond die c ci limit (s.precondRun c die ci) := by
  rw [State.precondTaken, ← s.precondCleared_pue]
  exact (if_neg h).trans ((if_neg (not_not.2 hk)).trans (if_neg fun hb => hr (State.precondRefused_iff.2 hb)))

end fits

theorem exec_precond_of_none {tiles : Option Word32} (h : s.callOf c 0x21 = none) : exec (.precond c tiles) s = .next s := by
  have hexec : exec (.precond c tiles) s = execPrecond c tiles s := rfl
  rw [hexec, execPrecond, h]

theorem precond_sameOutside {tiles : Option Word32} (hexec : exec (.precond c tiles) s = .next t) :
    SameOutside [.cores, .hub, .err, .mem, .pue0, .pue1, .cke, .pwr, .pmu, .sent, .fresh] s t := by
  have ht : resultOf s (execPrecond c tiles s) = t := congrArg (resultOf s) hexec
  have hframe := execPrecond_frame c tiles s
  rw [ht] at hframe
  exact fun p hp => by cases p <;> simp_all [StatePart.same]

section precond
variable {tiles : Option Word32} (hc : s.callOf c 0x21 = some ci)
include hc

theorem exec_precond_of_other (hp : (s.pue (s.dieOfCore c.val)).pre = some r) (h : r.core ≠ c.val) :
    exec (.precond c tiles) s = .next s := by
  have hexec : exec (.precond c tiles) s = execPrecond c tiles s := rfl
  simp only [hexec, execPrecond, hc, hp, if_neg h]

theorem exec_precond_of_busy (hp : (s.pue (s.dieOfCore c.val)).pre = none)
    (h : s.pueFree (s.dieOfCore c.val) = false ∨ s.pueHeld = true) : exec (.precond c tiles) s = .next s := by
  have hexec : exec (.precond c tiles) s = execPrecond c tiles s := rfl
  have hnot : ¬((s.pueFree (s.dieOfCore c.val) && !s.pueHeld) = true) := by
    obtain h | h := h
    · simp [h]
    · simp [h]
  simp only [hexec, execPrecond, hc, hp, if_neg hnot]

variable (hs : s.hub.snoop = []) (hi : s.hub.bisnp = [])
include hs hi

theorem exec_precond_of_run (hp : (s.pue (s.dieOfCore c.val)).pre = some r) (h : r.core = c.val) :
    exec (.precond c tiles) s = .next (s.continuePrecond (s.dieOfCore c.val) c ci (stepLimit tiles) r) := by
  have hexec : exec (.precond c tiles) s = execPrecond c tiles s := rfl
  simp only [hexec, execPrecond, hc, hp, if_pos h, afterSnoop_of_nil hs hi]

theorem exec_precond_of_start (hp : (s.pue (s.dieOfCore c.val)).pre = none) (hf : s.pueFree (s.dieOfCore c.val) = true)
    (hh : s.pueHeld = false) :
    exec (.precond c tiles) s = .next (startPrecond c (s.dieOfCore c.val) ci (stepLimit tiles) s) := by
  have hexec : exec (.precond c tiles) s = execPrecond c tiles s := rfl
  have hgo : (s.pueFree (s.dieOfCore c.val) && !s.pueHeld) = true := by simp [hf, hh]
  simp only [hexec, execPrecond, hc, hp, if_pos hgo, afterSnoop_of_nil hs hi]

end precond

/-- R338, R343: what a call of PRECOND comes to as it begins. -/
theorem startPrecond_spec (hs : s.has64) (hr : s.cke.rewinding = false) (hh : s.pueHeld = false) (hc : (s.core c).q.call = some ci)
    (hst : startPrecond c die ci limit s = t) :
    (precondMisfit ci ∨ (s.stepNow.toNat % pbNum ci.pb 0x1C 4 = 0 ∧ s.precondRefused die ci) →
      (t.core c).q.seq = .haltFault ∧ (t.core c).q.call = none ∧ (∀ x, t.byteAt x = s.byteAt x) ∧ t.pue0 = s.pue0 ∧ t.pue1 = s.pue1) ∧
    (¬precondMisfit ci → s.stepNow.toNat % pbNum ci.pb 0x1C 4 ≠ 0 →
      (t.core c).q.call = none ∧ t.mem = s.mem ∧ t.pue0 = s.pue0 ∧ t.pue1 = s.pue1) ∧
    (¬precondMisfit ci → s.stepNow.toNat % pbNum ci.pb 0x1C 4 = 0 → ¬s.precondRefused die ci →
      PrecondGoesOn die c ci limit (s.precondTaken c die ci) (s.precondRun c die ci) t) := by
  subst hst
  refine ⟨fun h => ?refused, fun hm hk => ?idle, fun hm hk hb => ?taken⟩
  case refused =>
    by_cases hm : precondMisfit ci
    · obtain ⟨hseq, -, hrest⟩ := (PueRead.refl s).refuse_stops (c := c) hs ci
      rw [startPrecond_of_misfit hm]
      exact ⟨hseq, hrest⟩
    · obtain ⟨hk, hb⟩ := h.resolve_left hm
      obtain ⟨hseq, -, hrest⟩ := (s.precondRead_read die ci).refuse_stops (c := c) hs ci
      rw [startPrecond_of_refused hm hk hb]
      exact ⟨hseq, hrest⟩
  case idle =>
    obtain ⟨hcall, -, hmem⟩ := State.finishCall_ends hs hc hr
    rw [startPrecond_of_idle hm hk]
    exact ⟨hcall, hmem, by simp, by simp⟩
  case taken =>
    have hub : HubKept s (s.precondTaken c die ci) := (s.precondCleared_hub die ci).trans (.of_hub (by simp [State.precondTaken]))
    rw [startPrecond_of_taken hm hk hb]
    exact State.continuePrecond_goesOn ((State.pueHeld_of_hub hub).trans hh) _ _ _ _ _

/-- Settles O31: a call in progress by `State.continuePrecond_goesOn`, one that begins by `startPrecond_spec`. -/
theorem precondCallsRun : Obligations.PrecondCallsRun := by
  unfold Obligations.PrecondCallsRun
  intro c tiles s hs hsn hbi hr
  refine ⟨exec_precond_of_none, fun ci hc => ⟨fun r hp => ⟨fun h => ?_, fun hcore hh => ?_⟩, exec_precond_of_busy hc,
    fun hp hf hh => ?_⟩⟩
  · by_cases hcore : r.core = c.val
    · rw [exec_precond_of_run hc hsn hbi hp hcore, State.continuePrecond_of_held (h.resolve_left (not_not.2 hcore))]
    · exact exec_precond_of_other hc hp hcore
  · have hexec := exec_precond_of_run (tiles := tiles) hc hsn hbi hp hcore
    exact ⟨_, hexec, State.continuePrecond_goesOn hh _ _ _ _ _, precond_sameOutside hexec⟩
  · have hexec := exec_precond_of_start (tiles := tiles) hc hsn hbi hp hf hh
    obtain ⟨hrefused, hidle, htaken⟩ := startPrecond_spec (limit := stepLimit tiles) (die := s.dieOfCore c.val) hs hr hh
      (State.callOf_call hc) rfl
    exact ⟨_, hexec, hrefused, hidle, htaken, precond_sameOutside hexec⟩

end Sys2Proof.Machine
end

section
/-! SUPPORT. What a PUE at work on a shard leaves of its call and of the CKE (R321, R334, R335), and how an UPDATE call goes on (R321,
R324, R343, R344). -/

namespace Sys2Proof.Machine
variable {s t u w : State} {die limit : Nat} {d : SDesc} {c : PueCall} {a b : PueAcc} {x : MapEnt × SDesc} {rest : List (MapEnt × SDesc)}

/-! ### Of the CKE the health word alone -/

namespace HealthOnly

theorem pueReads (s : State) (die : Nat) (rs : List (Nat × Nat)) : HealthOnly s (s.pueReads die rs) := engineReads s _ rs

theorem pueWrite (s : State) (die a : Nat) (bs : List Byte) : HealthOnly s (s.pueWrite die a bs) := of_cke (by simp)

theorem pueNum (s : State) (die a n v : Nat) : HealthOnly s (s.pueNum die a n v) := pueWrite s die a _

theorem bump32 (s : State) (die a : Nat) : HealthOnly s (s.bump32 die a) := pueNum s die a _ _

theorem openStatus (s : State) (die : Nat) (tab : GroupTab) (g k : Nat) : HealthOnly s (s.openStatus die tab g k) := by
  unfold State.openStatus
  dsimp only
  split
  · exact pueReads _ _ _
  · exact (pueReads _ _ _).trans ((pueNum _ _ _ _ _).trans ((pueNum _ _ _ _ _).trans ((pueNum _ _ _ _ _).trans (pueNum _ _ _ _ _))))

theorem statusFlag (s : State) (die : Nat) (tab : GroupTab) (g k bit : Nat) : HealthOnly s (s.statusFlag die tab g k bit) :=
  (openStatus s die tab g k).trans (pueNum _ _ _ _ _)

theorem setFallback (s : State) (die : Nat) (tab : GroupTab) (x : Nat × Nat) : HealthOnly s (s.setFallback die tab x) :=
  (pueReads s die _).trans ((pueNum _ _ _ _ _).trans (pueNum _ _ _ _ _))

end HealthOnly

/-! ### The blocks of a shard -/

/-- R321: what work on blocks leaves alone: of the call all but its progress and its sums, of the CKE all but the health word. -/
structure PueAcc.Worked (a b : PueAcc) : Prop where
  health : HealthOnly a.st b.st
  call : b.call = { a.call with
    written := b.call.written, block := b.call.block, nonf := b.call.nonf, updSq := b.call.updSq, mstSq := b.call.mstSq }

namespace PueAcc.Worked

theorem of_health (h : HealthOnly a.st s) {e : BlockEnd} : Worked a { a with st := s, fin := e } := ⟨h, rfl⟩

theorem trans {z : PueAcc} (h : Worked a b) (h' : Worked b z) : Worked a z :=
  ⟨h.health.trans h'.health, by rw [h'.call, h.call]⟩

theorem foldl {α : Type} (l : List α) {f : PueAcc → α → PueAcc} (hf : ∀ z y, Worked z (f z y)) (a : PueAcc) :
    Worked a (l.foldl f a) :=
  List.foldlRecOn (motive := Worked a) _ _ (of_health (.of_cke rfl)) fun _ h y _ => h.trans (hf _ y)

theorem finishBlock (die : Nat) (d : SDesc) (a : PueAcc) (seed : Word64) (cur b grp : Nat) (g : Group) (caught : Bool)
    (old new : List PElem) : Worked a (finishBlock die d a seed cur b grp g caught old new) := by
  refine ⟨?_, rfl⟩
  have hcaught : ∀ (v : State) (n : Nat), HealthOnly v (if caught then v.bump32 die n else v) := fun v n => by
    split
    · exact .bump32 _ _ _
    · exact .of_cke rfl
  have hbad : ∀ (v : State) (bad : Bool) (tab : GroupTab) (k : Nat),
      HealthOnly v (if bad then (v.statusFlag die tab grp k 1).setHealth 2 else v) := fun v bad tab k => by
    split
    · exact .trans (.statusFlag v die tab grp k 1) rfl
    · exact .of_cke rfl
  unfold Machine.finishBlock
  extract_lets +onlyGivenNames call k o s1 th s2 sa s3 s4 p s5 s6
  have h1 : HealthOnly a.st s1 := .of_cke (by simp [s1])
  have h2 : HealthOnly s1 s2 := .trans (t := s1.countHub 0x0B (maskBit die) 32) (.of_cke (by simp)) (.openStatus _ _ _ _ _)
  have h3 : HealthOnly s2 s3 := .of_cke (by simp [s3])
  have h4 : HealthOnly s3 s4 := hcaught s3 _
  have h5 : HealthOnly s4 s5 := .of_cke (by simp [s5])
  have h6 : HealthOnly s5 s6 := hbad s5 _ _ _
  exact h1.trans (h2.trans (h3.trans (h4.trans (h5.trans h6))))

theorem frozenBlock (die : Nat) (a : PueAcc) (grp : Nat) (g : Group) (touched : Bool) : Worked a (frozenBlock die a grp g touched) := by
  unfold Machine.frozenBlock
  split
  · exact of_health (.of_cke rfl)
  · split
    · exact of_health (.of_cke rfl)
    · extract_lets +onlyGivenNames call s1 p s2
      have h1 : HealthOnly a.st s1 := .trans (.openStatus _ _ _ _ _) (.bump32 _ _ _)
      have h2 : HealthOnly s1 s2 := .of_cke (by simp [s2])
      exact of_health (h1.trans (h2.trans (.statusFlag _ _ _ _ _ _)))

theorem pueBlock (die : Nat) (d : SDesc) (seed : Word64) (a : PueAcc) (b : Nat) : Worked a (pueBlock die d seed a b) := by
  have h0 : HealthOnly a.st ((a.st.readHeaders die d b).pueReads die (d.finalRanges b)) := .trans (.pueReads _ _ _) (.pueReads _ _ _)
  have hread : ∀ v, HealthOnly a.st v → Worked a { a with st := v } := fun _ h => of_health h
  unfold Machine.pueBlock
  extract_lets +onlyGivenNames k s0
  split
  · exact of_health h0
  · extract_lets +onlyGivenNames touched
    split
    · exact hread _ h0
    · split
      · exact (hread _ h0).trans (frozenBlock _ _ _ _ _)
      · split
        · exact hread _ h0
        · exact (hread _ (h0.trans (.pueReads _ _ _))).trans (finishBlock _ _ _ _ _ _ _ _ _ _ _)

theorem pueTile (die : Nat) (d : SDesc) (seed : Word64) (a : PueAcc) (n grp : Nat) (g : Group) :
    Worked a (pueTile die d seed a n grp g) := by
  have hread : ∀ v, HealthOnly a.st v → Worked a { a with st := v } := fun _ h => of_health h
  unfold Machine.pueTile
  extract_lets +onlyGivenNames k b0 s0
  have h0 : HealthOnly a.st s0 := .trans (.pueReads _ _ _) (.pueReads _ _ _)
  split
  · extract_lets +onlyGivenNames cur ca aa rooted ra s olds caught base gm o new a1 roots s1
    have h1 : Worked { a with st := s } a1 := foldl _ (fun _ _ => finishBlock _ _ _ _ _ _ _ _ _ _ _) _
    exact (hread s (h0.trans (.pueReads _ _ _))).trans (h1.trans (of_health (a := a1) (.trans (.pueWrite _ _ _ _) (.pueWrite s1 _ _ _))))
  · exact ⟨h0, rfl⟩
  · exact of_health h0

theorem moved (h : Worked a b) (n : Nat) : Worked a { b with call := { b.call with block := n } } :=
  ⟨h.health, by rw [h.call]⟩

theorem pueStep (die : Nat) (d : SDesc) (seed : Word64) (a : PueAcc) : Worked a (pueStep die d seed a) := by
  unfold Machine.pueStep
  split
  · exact of_health (.of_cke rfl)
  · extract_lets +onlyGivenNames b
    split
    next y n hy =>
      have h : Worked a y := by
        split at hy
        · obtain ⟨rfl, -⟩ := Prod.mk.inj hy
          exact pueTile _ _ _ _ _ _ _
        · obtain ⟨rfl, -⟩ := Prod.mk.inj hy
          exact pueBlock _ _ _ _ _
      split
      · exact h.moved _
      · exact h

theorem runBlocks (die : Nat) (d : SDesc) (seed : Word64) (n : Nat) (a : PueAcc) : Worked a (runBlocks die d seed n a) := by
  induction n generalizing a with
  | zero => exact of_health (.of_cke rfl)
  | succ n ih => exact (pueStep die d seed a).trans (ih _)

theorem runShard (s : State) (die : Nat) (c : PueCall) (d : SDesc) (limit : Nat) : Worked ⟨s, c, .go⟩ (s.runShard die c d limit) :=
  runBlocks die d _ _ _

end PueAcc.Worked

/-! ### How a call ends or stops -/

theorem State.callFaultAt_core (hs : s.has64) (core : CoreId) (ci : CallInfo) (code inst pos detail : Nat) :
    (s.callFaultAt core ci code inst pos detail).core core =
      { s.core core with q.seq := .haltFault, q.cmdIndex := ci.idx, q.call := none } := by
  have hcores : ∀ n, (s.raiseHalting code .d inst n).cores = s.cores := fun n => by simp
  have hcore := fun n => State.core_modCore (State.has64_of_cores hs (hcores n)) core core fun k =>
    { k with q.seq := .haltFault, q.cmdIndex := ci.idx, q.call := none }
  simp only [if_true, State.core_of_cores (hcores _)] at hcore
  rw [State.callFaultAt, State.haltJob_core_of_haltFault (by rw [hcore]), hcore]

theorem State.finishCall_of_none {core : CoreId} (h : (s.core core).q.call = none) : s.finishCall core = s := by
  rw [State.finishCall, h]

section finish
variable {core : CoreId} (hs : s.has64) (hr : s.cke.rewinding = false)
include hs hr

theorem State.finishCall_call : ((s.finishCall core).core core).q.call = none := by
  cases hc : (s.core core).q.call with
  | none => rw [State.finishCall_of_none hc, hc]
  | some ci =>
    obtain ⟨hcall, -⟩ := State.finishCall_ends hs hc hr
    exact hcall

theorem State.finishCall_cke : (s.finishCall core).cke = s.cke := by
  cases hc : (s.core core).q.call with
  | none => rw [State.finishCall_of_none hc]
  | some ci => exact (State.finishCall_placed hs hc hr).frame .cke (by simp)

/-- R321: what a call that ends leaves. -/
theorem endUpdate_ends (die : Nat) (c : PueCall) : ((endUpdate s die c).pue die).call = none ∧
    ((endUpdate s die c).pue die).finWait = false ∧ ((endUpdate s die c).core (coreNo c.core)).q.call = none ∧
    (endUpdate s die c).cke = s.cke := by
  have hpue : ∀ (v : State) (p : Pue), (((v.setPue die p).lapse ⟨die, 5⟩).finishCall (coreNo c.core)).pue die = p := fun v p =>
    (State.pue_of_parts (by simp) (by simp) die).trans (State.pue_setPue (s := v) die p)
  unfold endUpdate
  dsimp only
  rw [hpue, State.finishCall_call (State.has64_of_cores hs (by simp)) (by simpa using hr),
    State.finishCall_cke (State.has64_of_cores hs (by simp)) (by simpa using hr)]
  exact ⟨rfl, rfl, rfl, by simp⟩

end finish

/-- R344: what a call that stops leaves. -/
theorem stopUpdate_stops (hs : s.has64) (die : Nat) (c : PueCall) (e : BlockEnd) : ((stopUpdate s die c e).pue die).call = none ∧
    ∀ ci, s.callOf (coreNo c.core) 0x20 = some ci → ((stopUpdate s die c e).core (coreNo c.core)).q.seq = .haltFault ∧
      ((stopUpdate s die c e).core (coreNo c.core)).q.cmdIndex = ci.idx := by
  have hpue : ∀ (v : State) (p : Pue), ((v.setPue die p).lapse ⟨die, 5⟩).pue die = p := fun v p =>
    (State.pue_of_parts (by simp) (by simp) die).trans (State.pue_setPue (s := v) die p)
  have hfault : ∀ (v : State) (core : CoreId) (ci : CallInfo) (code inst pos detail : Nat),
      (v.callFaultAt core ci code inst pos detail).pue die = v.pue die := fun v _ _ _ _ _ _ => State.pue_of_parts (by simp) (by simp) die
  unfold stopUpdate
  extract_lets +onlyGivenNames core s0 s1 s2
  have hcores : s2.cores = s.cores := by simp [s2, s1, s0]
  have hcall : s2.callOf core 0x20 = s.callOf core 0x20 := by
    rw [State.callOf, State.core_of_cores hcores, State.callOf]
  have hnone : (s2.pue die).call = none := by rw [hpue]
  split
  · next ci hci =>
    refine ⟨by rw [hfault, hnone], fun ci' hci' => ?_⟩
    rw [State.callFaultAt_core (State.has64_of_cores hs hcores)]
    rw [hcall, hci'] at hci
    cases hci
    exact ⟨rfl, rfl⟩
  · next hci => exact ⟨hnone, fun ci' hci' => absurd (hcall.trans hci') (by rw [hci]; exact nofun)⟩

/-! ### From one shard to the next -/

/-- R321, R355: what UPDATE changes of the CKE: the health word and the marks of the attempt. -/
def GateKept (s t : State) : Prop := t.cke = { s.cke with health := t.cke.health, att := t.cke.att }

namespace GateKept

theorem of_health (h : HealthOnly s t) : GateKept s t := by rw [GateKept, h]

theorem of_cke (h : t.cke = s.cke) : GateKept s t := of_health (.of_cke h)

theorem trans (h : GateKept s t) (h' : GateKept t u) : GateKept s u := by
  unfold GateKept at *
  rw [h', h]

variable (h : GateKept s t)
include h

theorem rewinding : t.cke.rewinding = s.cke.rewinding := by rw [h]
theorem firstUpdate : t.cke.firstUpdate = s.cke.firstUpdate := by rw [h]
theorem table : t.cke.table = s.cke.table := by rw [h]

end GateKept

theorem advancePue_of_nil (h : c.todo = []) (n : Nat) : advancePue die limit (n + 1) s c = endUpdate s die c := by
  rw [advancePue, h]

/-- R355: the state in which a shard has been skipped. -/
def State.updateSkipped (s : State) (x : MapEnt × SDesc) : State := { s.setHealth 6 with
  cke.att.finalLost := s.cke.att.finalLost ++
    [(s.cke.att.map.map fun m => m.ents.findIdx fun y => y.sdesc = x.1.sdesc).getD 0] }

/-- R323, R335: the state in which the non-finite results of a written shard have been reported. -/
def State.shardNoted (s : State) (die : Nat) (c : PueCall) (x : MapEnt × SDesc) (limit : Nat) : State :=
  (s.runShard die c x.2 limit).st.noteNonfinite die (s.runShard die c x.2 limit).call x.1.shard

section shard
variable (h : c.todo = x :: rest) (n : Nat)
include h

theorem advancePue_of_skipped (hk : s.shardSkipped x.1 = true) :
    advancePue die limit (n + 1) s c = advancePue die limit n (s.updateSkipped x) { c with todo := rest } := by
  rw [advancePue, h]
  exact if_pos hk

variable (hk : s.shardSkipped x.1 = false)
include hk

theorem advancePue_of_waiting (hr : s.shardReady x.1 c.k = false) :
    advancePue die limit (n + 1) s c = s.setPue die { s.pue die with call := some c, finWait := true } := by
  rw [advancePue, h]
  exact (if_neg (ne_true_of_eq_false hk)).trans (if_pos (by rw [hr]; rfl))

variable (hr : s.shardReady x.1 c.k = true)
include hr

theorem advancePue_of_fault (hf : (s.runShard die c x.2 limit).fin ≠ .go) : advancePue die limit (n + 1) s c =
    stopUpdate (s.runShard die c x.2 limit).st die (s.runShard die c x.2 limit).call (s.runShard die c x.2 limit).fin := by
  rw [advancePue, h]
  exact (if_neg (ne_true_of_eq_false hk)).trans ((if_neg (by rw [hr]; decide)).trans (if_pos hf))

variable (hf : (s.runShard die c x.2 limit).fin = .go)
include hf

theorem advancePue_of_partial (hb : (s.runShard die c x.2 limit).call.block < x.2.nblk) : advancePue die limit (n + 1) s c =
    (s.runShard die c x.2 limit).st.setPue die { (s.runShard die c x.2 limit).st.pue die with
      call := some (s.runShard die c x.2 limit).call, finWait := false } := by
  rw [advancePue, h]
  exact (if_neg (ne_true_of_eq_false hk)).trans ((if_neg (by rw [hr]; decide)).trans ((if_neg (not_not.2 hf)).trans (if_pos hb)))

theorem advancePue_of_written (hb : x.2.nblk ≤ (s.runShard die c x.2 limit).call.block) : advancePue die limit (n + 1) s c =
    (s.shardNoted die c x limit).setPue die { (s.shardNoted die c x limit).pue die with
      call := some { (s.runShard die c x.2 limit).call with imageDue := true }, finWait := false } := by
  rw [advancePue, h]
  exact (if_neg (ne_true_of_eq_false hk)).trans
    ((if_neg (by rw [hr]; decide)).trans ((if_neg (not_not.2 hf)).trans (if_neg (Nat.not_lt.2 hb))))

end shard

/-- R321: the shards of a call leave the CKE but for the health word and the attempt's marks. -/
theorem advancePue_gate (hs : s.has64) (hr : s.cke.rewinding = false) (n : Nat) (c : PueCall) :
    GateKept s (advancePue die limit n s c) := by
  induction n generalizing s c with
  | zero => exact .of_cke (by simp [advancePue])
  | succ n ih =>
    cases h : c.todo with
    | nil =>
      obtain ⟨-, -, -, hcke⟩ := endUpdate_ends hs hr die c
      rw [advancePue_of_nil h]
      exact .of_cke hcke
    | cons x rest =>
      cases hk : s.shardSkipped x.1 with
      | true =>
        rw [advancePue_of_skipped h n hk]
        exact .trans (t := s.updateSkipped x) rfl (ih (s := s.updateSkipped x) hs hr _)
      | false =>
        have hworked : GateKept s (s.runShard die c x.2 limit).st := .of_health (PueAcc.Worked.runShard s die c x.2 limit).health
        cases hready : s.shardReady x.1 c.k with
        | false =>
          rw [advancePue_of_waiting h n hk hready]
          exact .of_cke (by simp)
        | true =>
          by_cases hf : (s.runShard die c x.2 limit).fin = .go
          · by_cases hb : (s.runShard die c x.2 limit).call.block < x.2.nblk
            · rw [advancePue_of_partial h n hk hready hf hb]
              exact hworked.trans (.of_cke (by simp))
            · rw [advancePue_of_written h n hk hready hf (Nat.not_lt.1 hb)]
              exact hworked.trans (.of_cke (by simp [State.shardNoted]))
          · rw [advancePue_of_fault h n hk hready hf]
            exact hworked.trans (.of_cke (by simp))

/-- R321, R343, R344, R355: what the PUE does with the shards of a call. -/
theorem advancePue_runs (hs : w.has64) (hr : w.cke.rewinding = false) (hd : c.imageDue = false) :
    PueRuns die limit w c (advancePue die limit (c.todo.length + 1) w c) := by
  refine ⟨fun h => ?ends, fun x rest h => ⟨fun hk hl => ?skipped,
    fun hk => ⟨advancePue_of_waiting h _ hk, fun hready => ⟨fun hf => ?fault, fun hf => ?done⟩⟩⟩⟩
  case ends =>
    obtain ⟨hcall, hwait, hcore, -⟩ := endUpdate_ends hs hr die c
    rw [advancePue_of_nil h]
    exact ⟨hcall, hwait, hcore⟩
  case skipped =>
    obtain ⟨hcall, -, hcore, -⟩ := endUpdate_ends (s := w.updateSkipped x) hs hr die { c with todo := rest }
    rw [advancePue_of_skipped h _ hk, h, hl, List.length_singleton, advancePue_of_nil rfl, ← hl]
    exact ⟨hcall, hcore⟩
  case fault =>
    have hcores : (w.runShard die c x.2 limit).st.cores = w.cores := by simp
    have hcore : (w.runShard die c x.2 limit).call.core = c.core := by rw [(PueAcc.Worked.runShard w die c x.2 limit).call]
    obtain ⟨hcall, hstop⟩ := stopUpdate_stops (State.has64_of_cores hs hcores) die (w.runShard die c x.2 limit).call
      (w.runShard die c x.2 limit).fin
    rw [hcore] at hstop
    rw [advancePue_of_fault h _ hk hready hf]
    exact ⟨hcall, fun ci hci => hstop ci (by rw [State.callOf, State.core_of_cores hcores]; exact hci)⟩
  case done =>
    have hcall := (PueAcc.Worked.runShard w die c x.2 limit).call
    by_cases hb : (w.runShard die c x.2 limit).call.block < x.2.nblk
    · rw [advancePue_of_partial h _ hk hready hf hb, State.pue_setPue]
      refine ⟨by simp, rfl, _, rfl, by rw [hcall], rfl, ?_⟩
      rw [decide_eq_false (Nat.not_le.2 hb), hcall, hd]
    · rw [advancePue_of_written h _ hk hready hf (Nat.not_lt.1 hb), State.pue_setPue]
      refine ⟨by simp [State.shardNoted], rfl, _, rfl, by rw [hcall], rfl, ?_⟩
      rw [decide_eq_true (Nat.not_lt.1 hb)]

/-! ### A call in progress -/

/-- R324: the step record has been written, or stands. -/
theorem State.writeStepRec_cke (s : State) (die : Nat) (tab : GroupTab) (k : Nat) (seed : Word64) :
    (s.writeStepRec die tab k seed).cke.firstUpdate = false ∧ (s.writeStepRec die tab k seed).cke.rewinding = s.cke.rewinding ∧
      (s.writeStepRec die tab k seed).cke.table = s.cke.table := by
  unfold State.writeStepRec
  split
  · next hf => exact ⟨by simpa using hf, rfl, rfl⟩
  · extract_lets +onlyGivenNames v cur addr stat s1
    have hread : GateKept s v := .of_health (.pueReads _ _ _)
    have hwritten : GateKept s (s1.pueWrite die stat (v.bytesAt tab.rstatWork tab.rstatLen)) := hread.trans (.of_cke (by simp [s1]))
    exact ⟨rfl, hwritten.rewinding, hwritten.table⟩

theorem State.pueGranted_kept (s : State) (die : Nat) :
    (s.pueGranted die).cke = s.cke ∧ (s.pueGranted die).cores = s.cores ∧ (s.pueGranted die).baseSeed = s.baseSeed := by
  unfold State.pueGranted
  split
  · exact ⟨by simp, by simp, by simp [State.baseSeed]⟩
  · exact ⟨rfl, rfl, rfl⟩

theorem State.continueUpdate_of_still (h : c.imageDue = true ∨ s.pueHeld = true) : s.continueUpdate die limit c = s :=
  if_pos (by simpa using h)

/-- R321, R324, R342: a call of UPDATE goes on, and keeps its group table. -/
theorem State.continueUpdate_goesOn (hs : s.has64) (hr : s.cke.rewinding = false) (hd : c.imageDue = false) (hh : s.pueHeld = false) :
    UpdateGoesOn die limit s c (s.continueUpdate die limit c) ∧ (s.continueUpdate die limit c).cke.table = s.cke.table := by
  have heq : s.continueUpdate die limit c = s.withCredit die fun t =>
      advancePue die limit (c.todo.length + 1) (t.writeStepRec die c.table c.k t.baseSeed) c := if_neg (by simp [hd, hh])
  obtain ⟨hcke, hcores, hseed⟩ := s.pueGranted_kept die
  rw [heq]
  by_cases hcredit : s.pueCredit die
  · obtain ⟨hfirst, hrew, htable⟩ := (s.pueGranted die).writeStepRec_cke die c.table c.k s.baseSeed
    rw [hcke] at hrew htable
    have hs' : ((s.pueGranted die).writeStepRec die c.table c.k s.baseSeed).has64 :=
      State.has64_of_cores hs (.trans (by simp) hcores)
    have hgate := advancePue_gate (die := die) (limit := limit) hs' (hrew.trans hr) (c.todo.length + 1) c
    rw [State.withCredit_of_credit hcredit, hseed]
    exact ⟨⟨fun h => absurd hcredit h, fun _ => ⟨hgate.firstUpdate.trans hfirst, advancePue_runs hs' (hrew.trans hr) hd⟩⟩,
      hgate.table.trans htable⟩
  · have hwaits := State.withCredit_of_lack (f := fun t =>
      advancePue die limit (c.todo.length + 1) (t.writeStepRec die c.table c.k t.baseSeed) c) hcredit
    refine ⟨⟨fun _ => hwaits, fun h => absurd h hcredit⟩, ?_⟩
    obtain ⟨-, -, -, -, -, hkept⟩ := hwaits
    rw [hkept]

end Sys2Proof.Machine
end

section
/-! SUPPORT. The calls of UPDATE (R320, R321, R324, R342, R343). -/

namespace Sys2Proof.Machine
variable {s t : State} {die limit : Nat} {core : CoreId} {ci : CallInfo} {c : PueCall} {blocks : Option Word32}

/-! ### What a call reads -/

namespace PueRead

theorem readsMap (s : State) (agent a : Nat) : PueRead s (s.readsMap agent a) := ⟨s.readsMap_kept agent a, by simp, by simp⟩

theorem readsTable (s : State) (die a : Nat) : PueRead s (s.readsTable die a) := by
  unfold State.readsTable
  split
  · exact refl s
  · extract_lets s1 n s2
    split
    · exact pueReads _ _ _
    · exact (pueReads _ _ _).trans ((pueReads _ _ _).trans (pueReads _ _ _))

theorem readsHeaders (s : State) (die : Nat) (d : SDesc) : PueRead s (s.readsHeaders die d) := by
  unfold State.readsHeaders
  split
  · exact pueReads _ _ _
  · exact refl s

end PueRead

/-- R320: the state once a call has read its map and its group table. -/
def State.updateOpened (s : State) (die : Nat) (ci : CallInfo) : State :=
  (s.readsMap (pueAgent die) (pbNum ci.pb 0x10 8)).readsTable die (pbNum ci.pb 0x18 8)

/-- R320: the entries of the map this device holds, and the state once their descriptors have been read. -/
def State.updateHeld (s : State) (die : Nat) (ci : CallInfo) : List MapEnt :=
  ((s.updateOpened die ci).readMap (pbNum ci.pb 0x10 8)).ents.filter (s.updateOpened die ci).holdsEnt

def State.updateDescs (s : State) (die : Nat) (ci : CallInfo) : State :=
  (s.updateOpened die ci).readsDescs (pueAgent die) (s.updateHeld die ci)

/-- R320: the shards of the call, the state once their headers have been read, and the group table. -/
def State.updateTodo (s : State) (die : Nat) (ci : CallInfo) : List (MapEnt × SDesc) :=
  (s.updateDescs die ci).callShards ((s.updateOpened die ci).readMap (pbNum ci.pb 0x10 8)) die

def State.updateRead (s : State) (die : Nat) (ci : CallInfo) : State :=
  (s.updateTodo die ci).foldl (fun v x => v.readsHeaders die x.2) (s.updateDescs die ci)

def State.updateTable (s : State) (die : Nat) (ci : CallInfo) : GroupTab := (s.updateOpened die ci).readTable (pbNum ci.pb 0x18 8)

/-- R320: is the call refused for its map or its table; for a descriptor or the shape of a shard? -/
def State.updateMisread (s : State) (die : Nat) (ci : CallInfo) : Prop :=
  (s.updateOpened die ci).mapBad (pbNum ci.pb 0x10 8) = true ∨ ((s.updateOpened die ci).readMap (pbNum ci.pb 0x10 8)).kind ≠ 0 ∨
    (s.updateOpened die ci).tableBad (pbNum ci.pb 0x18 8) = true

def State.updateMisshapen (s : State) (die : Nat) (ci : CallInfo) : Prop :=
  (∃ e ∈ s.updateHeld die ci, (s.updateRead die ci).rangePop e.sdesc 128 = false) ∨
    ∃ x ∈ s.updateTodo die ci, (s.updateRead die ci).sdescBad x.1.sdesc = true ∨
      (s.updateRead die ci).shapeBad (s.updateTable die ci) x.2 = true

theorem State.updateOpened_read (s : State) (die : Nat) (ci : CallInfo) : PueRead s (s.updateOpened die ci) :=
  (PueRead.readsMap _ _ _).trans (.readsTable _ _ _)

theorem State.updateRead_read (s : State) (die : Nat) (ci : CallInfo) : PueRead s (s.updateRead die ci) :=
  (s.updateOpened_read die ci).trans ((PueRead.engineReads _ _ _).trans (.foldl _ (fun _ _ => .readsHeaders _ _ _) _))

/-! ### A call takes its group table -/

/-- What a call keeps as it takes its table. -/
theorem State.takeTable_kept (s : State) (die : Nat) (tab : GroupTab) : HubKept s (s.takeTable die tab) ∧
    (s.takeTable die tab).cke.rewinding = s.cke.rewinding ∧ (s.takeTable die tab).cke.table = some tab := by
  have hmarked : ∀ l : List (Nat × Nat), HealthOnly s (l.foldl (fun u x => u.setFallback die tab x) s) := fun l =>
    .foldl l (fun _ _ => .setFallback _ _ _ _) s
  have hgate := GateKept.of_health (hmarked (s.cke.marks.filter fun x => decide (x.1 < tab.groups.length)))
  refine ⟨?_, hgate.rewinding, rfl⟩
  exact .trans (.foldl _ _ (fun _ _ => State.setFallback_hub _ _ _ _) s) (.of_hub rfl)

/-- R320, R334: the state in which the call knows its table, the call, and the state in which it has taken its PUE. -/
def State.updateKnown (s : State) (die : Nat) (ci : CallInfo) : State :=
  ((s.updateRead die ci).pueReads die [((s.updateTable die ci).status, 64 * (s.updateTable die ci).groups.length)]).takeTable die
    (s.updateTable die ci)

def State.updateCall (s : State) (core : CoreId) (die : Nat) (ci : CallInfo) : PueCall :=
  ⟨core.val, s.stepNow.toNat, s.updateTable die ci, s.updateTodo die ci, [], false, 0, none,
    (s.updateKnown die ci).startSums (s.updateTable die ci) s.stepNow.toNat 24,
    (s.updateKnown die ci).startSums (s.updateTable die ci) s.stepNow.toNat 28⟩

def State.updateTaken (s : State) (core : CoreId) (die : Nat) (ci : CallInfo) : State :=
  (s.updateKnown die ci).setPue die { s.pue die with call := some (s.updateCall core die ci), creditWait := true }

theorem State.updateKnown_pue (s : State) (die : Nat) (ci : CallInfo) : (s.updateKnown die ci).pue die = s.pue die := by
  have hread := s.updateRead_read die ci
  exact .trans (State.pue_of_parts (by simp [State.updateKnown]) (by simp [State.updateKnown]) die)
    (State.pue_of_parts hread.pue0 hread.pue1 die)

/-! ### How a call begins -/

theorem State.updateMisread_iff : s.updateMisread die ci ↔
    ((s.updateOpened die ci).mapBad (pbNum ci.pb 0x10 8) || ((s.updateOpened die ci).readMap (pbNum ci.pb 0x10 8)).kind ≠ 0 ||
      (s.updateOpened die ci).tableBad (pbNum ci.pb 0x18 8)) = true := by
  simp only [State.updateMisread, Bool.or_eq_true, decide_eq_true_eq, or_assoc]

theorem State.updateMisshapen_iff : s.updateMisshapen die ci ↔
    ((s.updateHeld die ci).any (fun e => !(s.updateRead die ci).rangePop e.sdesc 128) ||
      (s.updateTodo die ci).any (fun x => (s.updateRead die ci).sdescBad x.1.sdesc) ||
      (s.updateTodo die ci).any (fun x => (s.updateRead die ci).shapeBad (s.updateTable die ci) x.2)) = true := by
  simp only [State.updateMisshapen, Bool.or_eq_true, List.any_eq_true, Bool.not_eq_true', or_assoc, and_or_left, exists_or]

theorem startUpdate_of_misread (h : s.updateMisread die ci) :
    startUpdate core die ci limit s = (s.updateOpened die ci).pueRefuse core ci := if_pos (State.updateMisread_iff.1 h)

section read
variable (h : ¬s.updateMisread die ci)
include h

theorem startUpdate_of_misshapen (hm : s.updateMisshapen die ci) :
    startUpdate core die ci limit s = (s.updateRead die ci).pueRefuse core ci :=
  (if_neg fun hb => h (State.updateMisread_iff.2 hb)).trans (if_pos (State.updateMisshapen_iff.1 hm))

theorem startUpdate_of_taken (hm : ¬s.updateMisshapen die ci) : startUpdate core die ci limit s =
    (s.updateTaken core die ci).continueUpdate die limit (s.updateCall core die ci) := by
  rw [State.updateTaken, State.updateCall, ← s.updateKnown_pue, ← (s.updateRead_read die ci).stepNow]
  exact (if_neg fun hb => h (State.updateMisread_iff.2 hb)).trans (if_neg fun hb => hm (State.updateMisshapen_iff.2 hb))

end read

/-- R320: the call is refused. -/
def State.updateRefused (s : State) (die : Nat) (ci : CallInfo) : Prop :=
  (s.updateOpened die ci).mapBad (pbNum ci.pb 0x10 8) = true ∨ ((s.updateOpened die ci).readMap (pbNum ci.pb 0x10 8)).kind ≠ 0 ∨
    (s.updateOpened die ci).tableBad (pbNum ci.pb 0x18 8) = true ∨ s.updateMisshapen die ci

theorem State.updateRefused_iff : s.updateRefused die ci ↔ s.updateMisread die ci ∨ s.updateMisshapen die ci := by
  simp only [State.updateRefused, State.updateMisread, or_assoc]

/-- R320, R321: what a call of UPDATE comes to as it begins. -/
theorem startUpdate_spec (hs : s.has64) (hr : s.cke.rewinding = false) (hh : s.pueHeld = false)
    (hst : startUpdate core die ci limit s = t) :
    (s.updateRefused die ci → (t.core core).q.seq = .haltFault ∧ (t.core core).q.cmdIndex = ci.idx ∧ (t.core core).q.call = none ∧
      (∀ a, t.byteAt a = s.byteAt a) ∧ t.pue0 = s.pue0 ∧ t.pue1 = s.pue1 ∧ t.cke.table = s.cke.table) ∧
    (¬s.updateRefused die ci → t.cke.table = some (s.updateTable die ci) ∧
      UpdateGoesOn die limit (s.updateTaken core die ci) (s.updateCall core die ci) t) := by
  subst hst
  refine ⟨fun h => ?refused, fun h => ?taken⟩
  case refused =>
    obtain ⟨r, hread, heq⟩ : ∃ r, PueRead s r ∧ startUpdate core die ci limit s = r.pueRefuse core ci := by
      by_cases hb : s.updateMisread die ci
      · exact ⟨_, s.updateOpened_read die ci, startUpdate_of_misread hb⟩
      · exact ⟨_, s.updateRead_read die ci, startUpdate_of_misshapen hb ((State.updateRefused_iff.1 h).resolve_left hb)⟩
    obtain ⟨hseq, hidx, hcall, hbytes, hpue0, hpue1⟩ := hread.refuse_stops (c := core) hs ci
    have hcke : (r.pueRefuse core ci).cke = r.cke := by simp [State.pueRefuse]
    rw [heq]
    exact ⟨hseq, hidx, hcall, hbytes, hpue0, hpue1, (congrArg Cke.table hcke).trans (GateKept.of_health hread.health).table⟩
  case taken =>
    have hm : ¬s.updateMisread die ci := fun hb => h (State.updateRefused_iff.2 (.inl hb))
    have hread := (s.updateRead_read die ci).trans
      (.pueReads _ die [((s.updateTable die ci).status, 64 * (s.updateTable die ci).groups.length)])
    obtain ⟨hub, hrew, htable⟩ := State.takeTable_kept
      ((s.updateRead die ci).pueReads die [((s.updateTable die ci).status, 64 * (s.updateTable die ci).groups.length)]) die
      (s.updateTable die ci)
    have hcores : (s.updateTaken core die ci).cores = s.cores := by
      rw [← hread.cores]
      simp [State.updateTaken, State.updateKnown]
    have hcke : (s.updateTaken core die ci).cke = (s.updateKnown die ci).cke := by simp [State.updateTaken]
    have hheld : (s.updateTaken core die ci).pueHeld = false :=
      (State.pueHeld_of_hub ((hread.hub.trans hub).trans (.of_hub (by simp [State.updateTaken, State.updateKnown])))).trans hh
    obtain ⟨hgoes, hkept⟩ := State.continueUpdate_goesOn (die := die) (limit := limit) (c := s.updateCall core die ci)
      (State.has64_of_cores hs hcores) ((congrArg Cke.rewinding hcke).trans (hrew.trans (hread.notRewinding hr))) rfl hheld
    rw [startUpdate_of_taken hm fun hb => h (State.updateRefused_iff.2 (.inr hb))]
    exact ⟨hkept.trans ((congrArg Cke.table hcke).trans htable), hgoes⟩

/-! ### UPDATE -/

theorem exec_update_of_none (h : s.callOf core 0x20 = none) : exec (.update core blocks) s = .next s := by
  have hexec : exec (.update core blocks) s = execUpdate core blocks s := rfl
  rw [hexec, execUpdate, h]

theorem update_sameOutside (hexec : exec (.update core blocks) s = .next t) :
    SameOutside [.cores, .hub, .err, .mem, .pue0, .pue1, .cke, .pwr, .pmu, .sent, .fresh] s t := by
  have ht : resultOf s (execUpdate core blocks s) = t := congrArg (resultOf s) hexec
  have hframe := execUpdate_frame core blocks s
  rw [ht] at hframe
  exact fun p hp => by cases p <;> simp_all [StatePart.same]

section update
variable (hc : s.callOf core 0x20 = some ci)
include hc

theorem exec_update_of_other (hp : (s.pue (s.dieOfCore core.val)).call = some c) (h : c.core ≠ core.val) :
    exec (.update core blocks) s = .next s := by
  have hexec : exec (.update core blocks) s = execUpdate core blocks s := rfl
  simp only [hexec, execUpdate, hc, hp, if_neg h]

theorem exec_update_of_busy (hp : (s.pue (s.dieOfCore core.val)).call = none)
    (h : s.pueFree (s.dieOfCore core.val) = false ∨ s.pueHeld = true) : exec (.update core blocks) s = .next s := by
  have hexec : exec (.update core blocks) s = execUpdate core blocks s := rfl
  have hnot : ¬((s.pueFree (s.dieOfCore core.val) && !s.pueHeld) = true) := by
    obtain h | h := h
    · simp [h]
    · simp [h]
  simp only [hexec, execUpdate, hc, hp, if_neg hnot]

variable (hs : s.hub.snoop = []) (hi : s.hub.bisnp = [])
include hs hi

theorem exec_update_of_run (hp : (s.pue (s.dieOfCore core.val)).call = some c) (h : c.core = core.val) :
    exec (.update core blocks) s = .next (s.continueUpdate (s.dieOfCore core.val) (stepLimit blocks) c) := by
  have hexec : exec (.update core blocks) s = execUpdate core blocks s := rfl
  simp only [hexec, execUpdate, hc, hp, if_pos h, afterSnoop_of_nil hs hi]

theorem exec_update_of_start (hp : (s.pue (s.dieOfCore core.val)).call = none) (hf : s.pueFree (s.dieOfCore core.val) = true)
    (hh : s.pueHeld = false) :
    exec (.update core blocks) s = .next (startUpdate core (s.dieOfCore core.val) ci (stepLimit blocks) s) := by
  have hexec : exec (.update core blocks) s = execUpdate core blocks s := rfl
  have hgo : (s.pueFree (s.dieOfCore core.val) && !s.pueHeld) = true := by simp [hf, hh]
  simp only [hexec, execUpdate, hc, hp, if_pos hgo, afterSnoop_of_nil hs hi]

end update

/-- Settles O28: a call in progress by `State.continueUpdate_goesOn`, one that begins by `startUpdate_spec`. -/
theorem updateCallsRun : Obligations.UpdateCallsRun := by
  unfold Obligations.UpdateCallsRun
  intro core blocks s hs hsn hbi hr
  refine ⟨exec_update_of_none, fun ci hc => ⟨fun pc hp => ⟨fun h => ?still, fun hcore hd hh => ?goesOn⟩, exec_update_of_busy hc,
    fun hp hf hh => ?begins⟩⟩
  case still =>
    by_cases hcore : pc.core = core.val
    · rw [exec_update_of_run hc hsn hbi hp hcore, State.continueUpdate_of_still (h.resolve_left (not_not.2 hcore))]
    · exact exec_update_of_other hc hp hcore
  case goesOn =>
    have hexec := exec_update_of_run (blocks := blocks) hc hsn hbi hp hcore
    obtain ⟨hgoes, -⟩ := State.continueUpdate_goesOn (die := s.dieOfCore core.val) (limit := stepLimit blocks) hs hr hd hh
    exact ⟨_, hexec, hgoes, update_sameOutside hexec⟩
  case begins =>
    have hexec := exec_update_of_start (blocks := blocks) hc hsn hbi hp hf hh
    obtain ⟨hrefused, htaken⟩ := startUpdate_spec (core := core) (ci := ci) (limit := stepLimit blocks)
      (die := s.dieOfCore core.val) hs hr hh rfl
    exact ⟨_, hexec, hrefused, htaken, update_sameOutside hexec⟩

end Sys2Proof.Machine
end

section
/-! SUPPORT. A written shard is reported (R323, R341, R353), and the PUE goes on to the next (R321, R355). -/

namespace Sys2Proof.Machine
variable {s t : State} {die limit : Nat} {c : PueCall} {e : MapEnt} {d : SDesc} {blocks : Option Word32}

/-! ### What sending leaves of the hub -/

theorem State.putFlit_hub (s : State) (p ty sq : Nat) (msg : Option LinkMsg) (b : List Byte) : HubKept s (s.putFlit p ty sq msg b) :=
  .of_hub (by simp)

theorem State.freeHeld_hub (s : State) (p : Packet) : HubKept s (s.freeHeld p) := .of_hub (by simp)

theorem pumpN_hub (o n : Nat) (s : State) : HubKept s (pumpN o n s) := by
  induction n generalizing s with
  | zero => exact .refl s
  | succ n ih =>
    unfold pumpN
    dsimp only
    split
    · exact .refl s
    · next q _ =>
      refine .trans ?_ (ih _)
      refine .trans ?_ (State.freeHeld_hub _ _)
      refine .trans ?_ (.foldl _ _ (fun t _ => t.putFlit_hub _ _ _ _ _) _)
      exact .trans (t := s.setPort o _) (.of_hub rfl) (State.countHub_hub _ _ _ _)

theorem State.drop_hub (s : State) (k : DropKind) (p : Packet) : HubKept s (s.drop k p) := by
  have h : ∀ (f : Fab) (n : Nat), HubKept s (State.raise { s with fab := f } 0x0808 .c 0x7F n) := fun f n =>
    .trans (t := { s with fab := f }) (.of_hub rfl) (State.raise_hub _ _ _ _ _)
  cases k <;> exact h _ _

theorem State.sendPacket_hub (s : State) (p : Packet) : HubKept s (s.sendPacket p) := by
  unfold State.sendPacket
  dsimp only
  split
  · exact .of_hub rfl
  · unfold State.routeOut
    split
    · exact (State.freeHeld_hub _ _).trans (State.drop_hub _ _ _)
    · exact .trans (t := s.setPort _ _) (.of_hub rfl) (pumpN_hub _ _ _)

theorem feedN_hub (n : Nat) (s : State) : HubKept s (feedN n s) := by
  induction n generalizing s with
  | zero => exact .refl s
  | succ n ih =>
    unfold feedN
    split
    · exact .refl s
    · refine .trans (.trans ?_ (State.sendPacket_hub _ _)) (ih _)
      exact .of_hub rfl

theorem State.sendAll_hub (s : State) (ps : List Packet) : HubKept s (s.sendAll ps) := by
  unfold State.sendAll State.feed
  refine .trans ?_ (feedN_hub _ _)
  exact .of_hub rfl

theorem State.settleStaged_hub (s : State) : HubKept s s.settleStaged := by
  unfold State.settleStaged
  dsimp only
  split
  · refine .trans ?_ (State.addHubFlag_hub _ _ _)
    exact .of_hub rfl
  · exact .refl s

theorem State.markStaged_hub (s : State) (b j : Nat) : HubKept s (s.markStaged b j) := by
  unfold State.markStaged
  split
  · exact State.settleStaged_hub s
  · refine .trans ?_ (State.settleStaged_hub _)
    exact .of_hub rfl

/-! ### The all-gather of a shard -/

/-- R304: what sending the all-gather of a shard leaves: the hub but for flags and interrupts, and the list of complete images. -/
structure Gathered (s t : State) : Prop where
  hub : HubKept s t
  imaged : t.cle.imaged = s.cle.imaged

theorem Gathered.refl (s : State) : Gathered s s := ⟨.refl s, rfl⟩

theorem Gathered.trans {u : State} (h : Gathered s t) (h' : Gathered t u) : Gathered s u :=
  ⟨h.hub.trans h'.hub, h'.imaged.trans h.imaged⟩

theorem State.settleStaged_imaged (s : State) : s.settleStaged.cle.imaged = s.cle.imaged := by
  unfold State.settleStaged
  dsimp only
  split
  · simp
  · rfl

theorem State.markStaged_gathered (s : State) (b j : Nat) : Gathered s (s.markStaged b j) := by
  refine ⟨s.markStaged_hub b j, ?_⟩
  unfold State.markStaged
  rw [State.settleStaged_imaged]
  split
  · rfl
  · rfl

theorem State.sendGather_gathered (s : State) (b j img n : Nat) (l : List Byte) : Gathered s (s.sendGather b j img n l) := by
  unfold State.sendGather
  split
  · extract_lets +onlyGivenNames key fca sr image fcs s0 s1
    have hread : Gathered s sr := ⟨State.engineReads_hub _ _ _, by simp [sr]⟩
    have hwritten : Gathered sr s0 := by
      dsimp only [s0]
      split
      · exact ⟨State.agentWrite_hub _ _ _ _, by simp⟩
      · exact .refl sr
    have hstaged : Gathered s s1 := hread.trans (hwritten.trans (State.markStaged_gathered _ _ _))
    split
    · exact hstaged
    · refine hstaged.trans ⟨.trans ?_ (State.sendAll_hub _ _), by simp⟩
      exact .of_hub rfl
  · exact .refl s

theorem State.gatherShard_gathered (s : State) (b j : Nat) : Gathered s (s.gatherShard b j) := by
  unfold State.gatherShard
  split
  · split
    · split
      · exact .trans ⟨State.engineReads_hub _ _ _, by simp⟩ (State.sendGather_gathered _ _ _ _ _ _)
      · exact .refl s
    · exact .refl s
  · exact .refl s

/-- R304: nothing is sent while the gather is not armed. -/
theorem State.gatherShard_of_unarmed (h : s.cle.armed = none) (b j : Nat) : s.gatherShard b j = s := by
  simp [State.gatherShard, h]

/-! ### A finished shard -/

/-- R341: the state once the digest of a finished shard is written. -/
def State.digestWritten (s : State) (die : Nat) (c : PueCall) (d : SDesc) : State :=
  if (s.pue die).digestEn then s.pueWrite die d.digest (s.shardDigest c d) else s

/-- R323, R353: the state once its image is known to be complete and its digest is this device's own. -/
def State.shardImaged (s : State) (die : Nat) (c : PueCall) (e : MapEnt) (d : SDesc) : State :=
  { s.digestWritten die c d with
    cle.imaged := if (s.digestWritten die c d).cle.imaged.contains (e.bucket, e.shard) then (s.digestWritten die c d).cle.imaged
      else (s.digestWritten die c d).cle.imaged ++ [(e.bucket, e.shard)]
    cke.att.digOwn := if (s.pue die).digestEn then
        sset [] (s.digestWritten die c d).cke.att.digOwn (s.gateEntry e) (s.shardDigest c d)
      else (s.digestWritten die c d).cke.att.digOwn }

/-- R304, R353: the state once its all-gather is sent and its digest compared. -/
def State.shardSettled (s : State) (die : Nat) (c : PueCall) (e : MapEnt) (d : SDesc) : State :=
  ((s.shardImaged die c e d).gatherShard e.bucket e.shard).settleDigest (s.gateEntry e)

/-- R353: behind a settled shard at most its digest is sent. -/
theorem finishShard_eq (s : State) (die : Nat) (c : PueCall) (e : MapEnt) (d : SDesc) :
    finishShard s die c e d = s.shardSettled die c e d ∨ ∃ p, finishShard s die c e d = (s.shardSettled die c e d).sendPacket p := by
  unfold finishShard
  split
  · extract_lets dg en s1 ent s2 s3
    split
    · exact .inr ⟨_, rfl⟩
    · exact .inl rfl
  · exact .inl rfl

theorem State.digestWritten_kept (s : State) (die : Nat) (c : PueCall) (d : SDesc) : HubKept s (s.digestWritten die c d) ∧
    (s.digestWritten die c d).cke = s.cke ∧ (s.digestWritten die c d).cle = s.cle := by
  unfold State.digestWritten
  split
  · exact ⟨State.agentWrite_hub _ _ _ _, by simp, by simp⟩
  · exact ⟨.refl s, rfl, rfl⟩

theorem State.mem_shardImaged (s : State) (die : Nat) (c : PueCall) (e : MapEnt) (d : SDesc) :
    (e.bucket, e.shard) ∈ (s.shardImaged die c e d).cle.imaged := by
  unfold State.shardImaged
  dsimp only
  split
  · next h => simpa using h
  · simp

theorem State.mismatch_gate (s : State) (n owner k : Nat) : GateKept s (s.mismatch n owner k) := by
  unfold State.mismatch
  extract_lets second who s1 s2
  have h2 : GateKept s s2 := by
    dsimp only [s2]
    split
    · exact rfl
    · exact rfl
  exact h2.trans rfl

theorem State.settleDigest_gate (s : State) (n : Nat) : GateKept s (s.settleDigest n) := by
  unfold State.settleDigest
  dsimp only
  split
  · split
    · exact .of_cke rfl
    · split
      · exact rfl
      · exact State.mismatch_gate _ _ _ _
  · exact .of_cke rfl

/-- R323: a finished shard: the hub but for flags and interrupts, and the CKE but for its health word and marks, stand as they
stood, and its image is known to be complete. -/
theorem State.shardSettled_kept (s : State) (die : Nat) (c : PueCall) (e : MapEnt) (d : SDesc) :
    HubKept s (s.shardSettled die c e d) ∧ GateKept s (s.shardSettled die c e d) ∧
      (e.bucket, e.shard) ∈ (s.shardSettled die c e d).cle.imaged := by
  obtain ⟨hub, hcke, -⟩ := s.digestWritten_kept die c d
  have hgather := (s.shardImaged die c e d).gatherShard_gathered e.bucket e.shard
  have hhub : HubKept s (s.shardImaged die c e d) := hub.trans (.of_hub rfl)
  have hgate : GateKept s (s.shardImaged die c e d) := .trans (t := s.digestWritten die c d) (.of_cke hcke) rfl
  refine ⟨hhub.trans (hgather.hub.trans (.of_hub (by simp [State.shardSettled]))), ?_, ?_⟩
  · exact hgate.trans (.trans (.of_health (.gatherShard _ _ _)) (State.settleDigest_gate _ _))
  · have himaged := s.mem_shardImaged die c e d
    rw [← hgather.imaged] at himaged
    simpa [State.shardSettled] using himaged

theorem finishShard_kept (s : State) (die : Nat) (c : PueCall) (e : MapEnt) (d : SDesc) :
    HubKept s (finishShard s die c e d) ∧ GateKept s (finishShard s die c e d) ∧
      (e.bucket, e.shard) ∈ (finishShard s die c e d).cle.imaged := by
  obtain ⟨hub, hgate, himaged⟩ := s.shardSettled_kept die c e d
  obtain heq | ⟨p, heq⟩ := finishShard_eq s die c e d
  · rw [heq]
    exact ⟨hub, hgate, himaged⟩
  · rw [heq]
    exact ⟨hub.trans (State.sendPacket_hub _ _), hgate.trans (.of_cke (by simp)), by simpa using himaged⟩

/-- R323, R341: while the gather is not armed a finished shard writes its digest alone. -/
theorem finishShard_mem (h : s.cle.armed = none) (die : Nat) (c : PueCall) (e : MapEnt) (d : SDesc) :
    (finishShard s die c e d).mem = (s.digestWritten die c d).mem := by
  obtain ⟨-, -, hcle⟩ := s.digestWritten_kept die c d
  have harmed : (s.shardImaged die c e d).cle.armed = none := (congrArg Cle.armed hcle).trans h
  have hsettled : (s.shardSettled die c e d).mem = (s.digestWritten die c d).mem := by
    rw [State.shardSettled, State.gatherShard_of_unarmed harmed]
    simp [State.shardImaged]
  obtain heq | ⟨p, heq⟩ := finishShard_eq s die c e d
  · rw [heq, hsettled]
  · rw [heq, ← hsettled]
    simp

/-- R341: a digest of 32 bytes and a count of 8. -/
theorem State.shardDigest_length (s : State) (c : PueCall) (d : SDesc) : (s.shardDigest c d).length = 40 := by
  simp [State.shardDigest, shake256, sponge, stateBytes, leBytes_length]

theorem State.digestWritten_byteAt {i : Nat} (hen : (s.pue die).digestEn = true) (hd : d.digest % 64 = 0) (hi : i < 40)
    (hp : s.populated d.digest = true) : (s.digestWritten die c d).byteAt (d.digest + i) = (s.shardDigest c d).getD i 0 := by
  rw [State.digestWritten, if_pos hen, State.pueWrite, State.agentWrite_byteAt_of_populated (by omega)
    (by rw [State.shardDigest_length]; omega) ((s.populated_line (by omega)).trans hp), Nat.add_sub_cancel_left]

/-! ### The events of a PUE -/

section event
variable {die : Fin 2}

theorem shardFinalsReady_sameOutside (hexec : exec (.shardFinalsReady die blocks) s = .next t) :
    SameOutside [.cores, .hub, .err, .mem, .pue0, .pue1, .cke, .pwr, .pmu, .sent, .fresh] s t := by
  have ht : resultOf s (execShardFinalsReady die blocks s) = t := congrArg (resultOf s) hexec
  have hframe := execShardFinalsReady_frame die blocks s
  rw [ht] at hframe
  exact fun p hp => by cases p <;> simp_all [StatePart.same]

theorem shardImageComplete_sameOutside (hexec : exec (.shardImageComplete die blocks) s = .next t) :
    SameOutside [.cores, .hub, .err, .mem, .cle, .pue0, .pue1, .cke, .pwr, .fab, .pmu, .sent, .fresh] s t := by
  have ht : resultOf s (execShardImageComplete die blocks s) = t := congrArg (resultOf s) hexec
  have hframe := execShardImageComplete_frame die blocks s
  rw [ht] at hframe
  exact fun p hp => by cases p <;> simp_all [StatePart.same]

theorem exec_shardFinalsReady_of_none (h : (s.pue die.val).call = none) : exec (.shardFinalsReady die blocks) s = .next s := by
  have hexec : exec (.shardFinalsReady die blocks) s = execShardFinalsReady die blocks s := rfl
  rw [hexec, execShardFinalsReady, h]

theorem exec_shardImageComplete_of_none (h : (s.pue die.val).call = none) : exec (.shardImageComplete die blocks) s = .next s := by
  have hexec : exec (.shardImageComplete die blocks) s = execShardImageComplete die blocks s := rfl
  rw [hexec, execShardImageComplete, h]

/-- The call once its first shard has been reported. -/
def PueCall.reported (c : PueCall) : PueCall :=
  { c with todo := c.todo.tail, written := [], imageDue := false, block := 0, nonf := none }

section call
variable (h : (s.pue die.val).call = some c)
include h

theorem exec_shardImageComplete_of_idle (hd : c.imageDue = false ∨ c.todo = []) :
    exec (.shardImageComplete die blocks) s = .next s := by
  have hexec : exec (.shardImageComplete die blocks) s = execShardImageComplete die blocks s := rfl
  rw [hexec, execShardImageComplete, h]
  dsimp only
  split
  · next hdue htodo =>
    obtain hd | hd := hd
    · cases hd.symm.trans hdue
    · cases hd.symm.trans htodo
  · rfl

theorem exec_shardImageComplete_of_held (hh : s.pueHeld = true) : exec (.shardImageComplete die blocks) s = .next s := by
  have hexec : exec (.shardImageComplete die blocks) s = execShardImageComplete die blocks s := rfl
  rw [hexec, execShardImageComplete, h]
  dsimp only
  split
  · exact if_pos hh
  · rfl

variable (hs : s.hub.snoop = []) (hi : s.hub.bisnp = [])
include hs hi

theorem exec_shardFinalsReady_of_call :
    exec (.shardFinalsReady die blocks) s = .next (s.continueUpdate die.val (stepLimit blocks) c) := by
  have hexec : exec (.shardFinalsReady die blocks) s = execShardFinalsReady die blocks s := rfl
  rw [hexec, execShardFinalsReady, h]
  dsimp only
  rw [afterSnoop_of_nil hs hi]

theorem exec_shardImageComplete_of_due {x : MapEnt × SDesc} {rest : List (MapEnt × SDesc)} (hd : c.imageDue = true)
    (ht : c.todo = x :: rest) (hh : s.pueHeld = false) : exec (.shardImageComplete die blocks) s =
      .next (((finishShard s die.val c x.1 x.2).setPue die.val { (finishShard s die.val c x.1 x.2).pue die.val with
        call := some c.reported }).continueUpdate die.val (stepLimit blocks) c.reported) := by
  have hexec : exec (.shardImageComplete die blocks) s = execShardImageComplete die blocks s := rfl
  have hrep : c.reported = { c with todo := rest, written := [], imageDue := false, block := 0, nonf := none } := by
    rw [PueCall.reported, ht, List.tail_cons]
  simp only [hexec, execShardImageComplete, h, hd, ht, hh, hrep, Bool.false_eq_true, if_false, afterSnoop_of_nil hs hi]

end call

end event

/-- Settles O29: a PUE that waits by `State.continueUpdate_goesOn`, the shard reported by `finishShard_kept` and `finishShard_mem`. -/
theorem updateGoesShardByShard : Obligations.UpdateGoesShardByShard := by
  unfold Obligations.UpdateGoesShardByShard
  intro die blocks s hs hsn hbi hr
  refine ⟨fun h => ?still, fun pc hp hh => ⟨fun hd => ?due, fun hd => ?ready, exec_shardImageComplete_of_idle hp,
    fun x rest hd ht => ?reported⟩⟩
  case still =>
    cases hp : (s.pue die.val).call with
    | none => exact ⟨exec_shardFinalsReady_of_none hp, exec_shardImageComplete_of_none hp⟩
    | some pc =>
      have hh : s.pueHeld = true := h.resolve_left (by rw [hp]; exact nofun)
      rw [exec_shardFinalsReady_of_call hp hsn hbi, State.continueUpdate_of_still (.inr hh)]
      exact ⟨rfl, exec_shardImageComplete_of_held hp hh⟩
  case due => rw [exec_shardFinalsReady_of_call hp hsn hbi, State.continueUpdate_of_still (.inl hd)]
  case ready =>
    have hexec := exec_shardFinalsReady_of_call (blocks := blocks) hp hsn hbi
    obtain ⟨hgoes, -⟩ := State.continueUpdate_goesOn (die := die.val) (limit := stepLimit blocks) hs hr hd hh
    exact ⟨_, hexec, hgoes, shardFinalsReady_sameOutside hexec⟩
  case reported =>
    have hexec := exec_shardImageComplete_of_due (blocks := blocks) hp hsn hbi hd ht hh
    obtain ⟨hub, hgate, himaged⟩ := finishShard_kept s die.val pc x.1 x.2
    have hrep : pc.reported = { pc with todo := rest, written := [], imageDue := false, block := 0, nonf := none } := by
      rw [PueCall.reported, ht, List.tail_cons]
    obtain ⟨hgoes, -⟩ := State.continueUpdate_goesOn (die := die.val) (limit := stepLimit blocks) (c := pc.reported)
      (s := (finishShard s die.val pc x.1 x.2).setPue die.val { (finishShard s die.val pc x.1 x.2).pue die.val with
        call := some pc.reported }) (State.has64_of_cores hs (by simp)) (by simpa using hgate.rewinding.trans hr) rfl
      ((State.pueHeld_of_hub (hub.trans (.of_hub (by simp)))).trans hh)
    rw [← hrep]
    refine ⟨himaged, fun hen ha hdig i hi hpop => ?_, fun hen ha => ?_, _, hexec, hgoes, shardImageComplete_sameOutside hexec⟩
    · exact (State.byteAt_of_bytes (congrArg Memory.bytes (finishShard_mem ha _ _ _ _)) _).trans
        (State.digestWritten_byteAt hen hdig hi hpop)
    · exact (finishShard_mem ha _ _ _ _).trans (by rw [State.digestWritten, hen]; rfl)

end Sys2Proof.Machine
end

section
/-! SUPPORT. A call of PRECOND that ends while its job is being rewound (R232, R343, R351, R365). -/

namespace Sys2Proof.Machine

/-- The call of PRECOND on core 0. -/
def rewoundCall : CallInfo := ⟨0x21, [], 0, 0, 0x0B, 0, 0⟩

/-- A gated job on core 0 in step 1. -/
def rewoundJob : Job := ⟨0, 0, 1, 0, false, 0, true, 1, 1, 0, [], none, [], 1, false, none, none, none, 0⟩

/-- The job is being rewound after an ABORT: core 0 has stopped inside its call of PRECOND, whose tiles are all done, and nothing
else is in flight. One symbol of the line that holds the member table is in error. -/
def rewindWaits : State := { State.reset.modCore 0 (fun k => { k with q.call := some rewoundCall, q.seq := .haltSched }) with
  hub := { Hub.reset with jobState := .running, job := some rewoundJob }
  cke := { Cke.reset with rewinding := true, memberCount := 1, memberAddr := 0xA000 }
  pue0 := { Pue.reset with pre := some ⟨0, 1, []⟩ }
  mem := { Memory.reset with bad := [(0xA000 / 64, ⟨0, 1, false, false⟩)] } }

theorem rewindWaits_ends : rewindWaits.has64 ∧ (rewindWaits.pue 0).pre = some ⟨0, 1, []⟩ := by
  unfold State.has64
  decide +kernel

/-- R232, R351: the next attempt begins with the end of the call, and the CKE's read of the member table corrects the line. -/
theorem preStep_rewindWaits_bad :
    (preStep 0 0 rewoundCall rewindWaits).mem.bad = [] ∧ rewindWaits.mem.bad ≠ [] := by
  decide +kernel

/-- Refutes O32: it says that a call whose tiles are all done ends with memory as it was. While the job is being rewound the call
may be the last command in flight: its end begins the next attempt (R365), the CKE reads the member table (R351), and a line
of it with a correctable error is written back corrected (R232). -/
theorem not_precondWritesTheInverseRoots : ¬ Obligations.PrecondWritesTheInverseRoots := by
  unfold Obligations.PrecondWritesTheInverseRoots
  intro h
  obtain ⟨hsteps, -⟩ := h
  obtain ⟨hs, hpre⟩ := rewindWaits_ends
  obtain ⟨hcorrected, herr⟩ := preStep_rewindWaits_bad
  obtain ⟨hends, -⟩ := hsteps 0 0 rewoundCall rewindWaits ⟨0, 1, []⟩ hs (by decide) hpre
  obtain ⟨-, hmem⟩ := hends rfl
  exact herr ((congrArg Memory.bad hmem).symm.trans hcorrected)

end Sys2Proof.Machine
end

section
/-! SUPPORT. Readiness and votes on their way to the root (R352, R356, R357): what a CKE packet leaves as it is taken, and what
voting leaves of the CKE. -/

namespace Sys2Proof.Machine
variable {s t u : State} {p : Packet} {gone : Bool} {ty : Nat}

/-! ### CKE packets -/

theorem sameOutside_cke {k : Cke} : SameOutside [.cke] s { s with cke := k } := fun q hq => by
  cases q <;> simp_all [StatePart.same]

/-- R355: a CKE packet that is taken, of a device in use or of a lost one, leaves the inbox. -/
theorem State.takeCke_taken (h : s.takeCke ty = some (p, gone, u)) : ∃ x, u = s.taken x := by
  obtain ⟨y, hy, heq⟩ := Option.map_eq_some_iff.1 h
  obtain ⟨-, -, rfl⟩ : y.1 = p ∧ s.fromLost y.1 = gone ∧ y.2 = u := by simpa using heq
  exact State.takeInbox_taken (p := y.1) hy

theorem State.takeCke_sameOutside (h : s.takeCke ty = some (p, gone, u)) : SameOutside [.fab, .sent] s u := by
  obtain ⟨x, rfl⟩ := State.takeCke_taken h
  exact s.taken_sameOutside x

theorem State.takeCke_cke (h : s.takeCke ty = some (p, gone, u)) : u.cke = s.cke := State.takeCke_sameOutside h .cke (by simp)

theorem State.sendCke_sameOutside (s : State) (ty dst : Nat) (bs : List Byte) :
    SameOutside [.hub, .err, .fab, .pmu, .sent] s (s.sendCke ty dst bs) := s.sendPacket_sameOutside _

/-! ### Votes -/

theorem State.sendVote_sameOutside (s : State) : SameOutside [.hub, .err, .fab, .pmu, .sent] s s.sendVote := by
  unfold State.sendVote
  split
  · exact State.sendCke_sameOutside _ _ _ _
  · exact .refl _ s

/-- What voting changes of the CKE: its state, its health word, its decision, and where its vote stands. -/
def VoteOnly (s t : State) : Prop := t.cke = { s.cke with
  st := t.cke.st, health := t.cke.health, decided := t.cke.decided
  att.voteTo := t.cke.att.voteTo, att.voteAcked := t.cke.att.voteAcked }

theorem VoteOnly.of_cke (h : t.cke = s.cke) : VoteOnly s t := by rw [VoteOnly, h]

theorem VoteOnly.trans (h : VoteOnly s t) (h' : VoteOnly t u) : VoteOnly s u := by
  unfold VoteOnly at *
  rw [h', h]

namespace VoteOnly
variable (h : VoteOnly s t)
include h

theorem c : t.cke.c = s.cke.c := by rw [h]
theorem attempt : t.cke.attempt = s.cke.attempt := by rw [h]
theorem votes : t.cke.att.votes = s.cke.att.votes := by rw [h]

end VoteOnly

theorem State.tryDecide_voteOnly (s : State) : VoteOnly s s.tryDecide := by
  unfold State.tryDecide
  dsimp only
  split
  · split
    · exact rfl
    · exact rfl
  · exact .of_cke rfl

/-- R356: the state of a device that has just cast its vote. -/
def State.voted (s : State) : State := { s with cke.st := .voted, cke.att.voteTo := 0, cke.att.voteAcked := false }

theorem State.sendVote_cke (s : State) : s.sendVote.cke = s.cke := s.sendVote_sameOutside .cke (by simp)

theorem State.tryVote_voteOnly (s : State) : VoteOnly s s.tryVote := by
  unfold State.tryVote
  split
  · exact .of_cke rfl
  · split
    · exact s.tryDecide_voteOnly
    · exact .trans (t := s.voted) rfl (.of_cke (State.sendVote_cke _))

theorem State.tryVote_sameOutside (s : State) : SameOutside [.hub, .err, .cke, .fab, .pmu, .sent] s s.tryVote := fun q hq => by
  cases q <;> simp_all [StatePart.same]

theorem State.tryVote_of_waiting (h : s.votesIn = false) : s.tryVote = s := by
  rw [State.tryVote, if_pos (by rw [h]; simp)]

/-- R356: a ready device whose wards have voted casts its vote, unless it is the root or its job is suspended. -/
theorem State.tryVote_of_ward (hst : s.cke.st = .ready) (hv : s.votesIn = true) (hj : s.hub.jobState ≠ .suspended)
    (hr : s.isRoot = false) : s.tryVote = s.voted.sendVote := by
  rw [State.tryVote, if_neg (by simp [hst, hv, hj]), if_neg (by simp [hr])]
  rfl

/-! ### READY -/

/-- R352: may the device become ready? -/
def State.readyDue (s : State) : Prop :=
  (s.cke.st = .running ∨ s.cke.st = .retrying) ∧ s.cke.rewinding = false ∧ s.flagReady = true ∧ s.stageReady = true ∧
    s.digestsIn = true

/-- R352, R367: the flag of READY_FLAG starts over below its target, but in a retried attempt. -/
def State.readyTaken (s : State) : State := if s.cke.att.afterRetry then s else
  { s with hub.flags := sset 0 s.hub.flags s.cke.readyFlag (s.hubFlag s.cke.readyFlag - s.cke.readyTarget) }

/-- R352: the state of a device that has just become ready. -/
def State.nowReady (s : State) : State := { s.readyTaken with cke.st := .ready }

theorem exec_ready_of_not (h : ¬s.readyDue) : exec .ready s = .next s := by
  have hexec : exec .ready s = execReady s := rfl
  rw [hexec, execReady, if_pos]
  simpa [State.readyDue, Bool.or_eq_true, or_assoc, imp_iff_not_or, ← Bool.not_eq_true] using h

theorem exec_ready_of_due (h : s.readyDue) : exec .ready s = .next s.nowReady.tryVote := by
  have hexec : exec .ready s = execReady s := rfl
  obtain ⟨hst, hrew, hflag, hstage, hdig⟩ := h
  rw [hexec, execReady, if_neg (by simpa [hrew, hflag, hstage, hdig] using or_iff_not_imp_left.1 hst)]
  rfl

theorem State.readyTaken_sameOutside (s : State) : SameOutside [.hub] s s.readyTaken := by
  unfold State.readyTaken
  split
  · exact .refl _ s
  · exact sameOutside_hub

theorem State.nowReady_sameOutside (s : State) : SameOutside [.hub, .cke] s s.nowReady :=
  (s.readyTaken_sameOutside.mono (by simp)).trans (sameOutside_cke.mono (by simp))

theorem State.nowReady_voteOnly (s : State) : VoteOnly s s.nowReady := by
  unfold State.nowReady State.readyTaken
  split
  · exact rfl
  · exact rfl

/-- Readiness changes neither the wards' votes nor the tree. -/
theorem State.nowReady_tree (s : State) : s.nowReady.votesIn = s.votesIn ∧ s.nowReady.isRoot = s.isRoot ∧
    s.nowReady.hub.jobState = s.hub.jobState := by
  unfold State.nowReady State.readyTaken
  split
  · exact ⟨rfl, rfl, rfl⟩
  · exact ⟨rfl, rfl, rfl⟩

/-- R352: the flag of a device that becomes ready starts over below the target; the other flags stay. -/
theorem State.nowReady_hubFlag (h : s.cke.att.afterRetry = false) (n : Nat) : s.nowReady.hubFlag n =
    if n = s.cke.readyFlag then s.hubFlag s.cke.readyFlag - s.cke.readyTarget else s.hubFlag n := by
  simp [State.nowReady, State.readyTaken, h, State.hubFlag]

/-! ### VOTE -/

/-- R356: is the vote of a packet that has been taken merged? -/
def State.voteFits (u : State) (p : Packet) (gone : Bool) : Prop :=
  gone = false ∧ u.attemptOpen = true ∧ u.ckeNow p = true ∧ p.src ∈ u.wards

/-- R356: the votes with that of a packet in the place of an earlier one of its sender. -/
def State.voteMerged (u : State) (p : Packet) : State :=
  { u with cke.att.votes := (u.cke.att.votes.filter fun v => v.1 ≠ p.src) ++ [(p.src, voteOf p.payload)] }

theorem exec_vote_of_none (h : s.takeCke 0x21 = none) : exec .vote s = .next s := by
  have hexec : exec .vote s = execVote s := rfl
  rw [hexec, execVote, h]

section vote
variable (h : s.takeCke 0x21 = some (p, gone, u))
include h

theorem exec_vote_of_unfit (hf : ¬u.voteFits p gone) : exec .vote s = .next u := by
  have hexec : exec .vote s = execVote s := rfl
  rw [hexec, execVote, h]
  refine if_pos ?_
  simpa [State.voteFits, or_assoc, imp_iff_not_or] using hf

theorem exec_vote_of_fits (hf : u.voteFits p gone) :
    exec .vote s = .next ((u.voteMerged p).sendCke 0x22 p.src []).tryVote := by
  have hexec : exec .vote s = execVote s := rfl
  obtain ⟨hg, ho, hn, hw⟩ := hf
  rw [hexec, execVote, h]
  exact if_neg (by simp [hg, ho, hn, hw])

end vote

theorem State.voteAcknowledged_voteOnly (u : State) (p : Packet) :
    VoteOnly (u.voteMerged p) ((u.voteMerged p).sendCke 0x22 p.src []).tryVote :=
  .trans (.of_cke (State.sendCke_sameOutside _ _ _ _ .cke (by simp))) (State.tryVote_voteOnly _)

theorem State.voteAcknowledged_sameOutside (u : State) (p : Packet) : SameOutside [.hub, .err, .cke, .fab, .pmu, .sent] u
    ((u.voteMerged p).sendCke 0x22 p.src []).tryVote :=
  (sameOutside_cke.mono (by simp)).trans (((State.sendCke_sameOutside _ _ _ _).mono (by simp)).trans (State.tryVote_sameOutside _))

/-! ### VOTE_ACK -/

theorem exec_voteAck_of_none (h : s.takeCke 0x22 = none) : exec .voteAck s = .next s := by
  have hexec : exec .voteAck s = execVoteAck s := rfl
  rw [hexec, execVoteAck, h]

/-- R356: is a packet that has been taken the acknowledgement of the ancestor whose turn it is? -/
def State.ackFits (u : State) (p : Packet) (gone : Bool) : Prop :=
  gone = false ∧ u.ckeNow p = true ∧ u.ancestors[u.cke.att.voteTo]? = some p.src

section voteAck
variable (h : s.takeCke 0x22 = some (p, gone, u))
include h

theorem exec_voteAck_of_unfit (hf : ¬u.ackFits p gone) : exec .voteAck s = .next u := by
  have hexec : exec .voteAck s = execVoteAck s := rfl
  rw [hexec, execVoteAck, h]
  refine if_pos ?_
  simpa [State.ackFits, or_assoc, imp_iff_not_or] using hf

theorem exec_voteAck_of_fits (hf : u.ackFits p gone) : exec .voteAck s = .next { u with cke.att.voteAcked := true } := by
  have hexec : exec .voteAck s = execVoteAck s := rfl
  obtain ⟨hg, hn, ha⟩ := hf
  rw [hexec, execVoteAck, h]
  exact if_neg (by simp [hg, hn, ha])

end voteAck

/-! ### VOTE_TIMEOUT -/

/-- R356: has a vote waited for its acknowledgement for its whole time? -/
def State.voteLate (s : State) : Prop := s.cke.st = .voted ∧ s.cke.att.voteAcked = false ∧ s.cke.voteTimeout ≠ 0

theorem exec_voteTimeout_of_not (h : ¬s.voteLate) : exec .voteTimeout s = .next s := by
  have hexec : exec .voteTimeout s = execVoteTimeout s := rfl
  rw [hexec, execVoteTimeout, if_pos]
  simpa [State.voteLate, or_assoc, imp_iff_not_or] using h

theorem exec_voteTimeout_of_late (h : s.voteLate) : exec .voteTimeout s = .next (State.sendVote { s with
    cke.att.voteTo := if s.cke.att.voteTo + 1 < s.ancestors.length then s.cke.att.voteTo + 1 else s.cke.att.voteTo }) := by
  have hexec : exec .voteTimeout s = execVoteTimeout s := rfl
  obtain ⟨hst, hack, ht⟩ := h
  rw [hexec, execVoteTimeout, if_neg (by simpa [hst, hack] using ht)]

/-- Settles O33: readiness by `exec_ready_of_due`, a vote by `VoteOnly`, the rest by the equation of its event. -/
theorem votesGatherTowardsTheRoot : Obligations.VotesGatherTowardsTheRoot := by
  unfold Obligations.VotesGatherTowardsTheRoot
  intro s
  refine ⟨⟨exec_ready_of_not, fun h => ⟨_, exec_ready_of_due h, ?ready⟩⟩, exec_vote_of_none, fun p gone u h =>
    ⟨fun hf => ⟨exec_vote_of_unfit h hf, State.takeCke_sameOutside h⟩, fun hf => ⟨_, exec_vote_of_fits h hf, ?votes, ?frame⟩⟩,
    exec_voteAck_of_none, fun p gone u h => ⟨exec_voteAck_of_fits h, exec_voteAck_of_unfit h, State.takeCke_sameOutside h⟩,
    exec_voteTimeout_of_not, fun h => ⟨_, exec_voteTimeout_of_late h, State.sendVote_cke _, ?late⟩⟩
  case ready =>
    have hcke : VoteOnly s s.nowReady.tryVote := s.nowReady_voteOnly.trans (State.tryVote_voteOnly _)
    obtain ⟨hvotes, hroot, hjob⟩ := s.nowReady_tree
    refine ⟨hcke.c, hcke.attempt, fun hv => ?_, fun ha hv => ?_, fun hv hj hr => ?_,
      (s.nowReady_sameOutside.mono (by simp)).trans (State.tryVote_sameOutside _)⟩
    · rw [State.tryVote_of_waiting (hvotes.trans hv)]
      rfl
    · rw [State.tryVote_of_waiting (hvotes.trans hv), State.nowReady_hubFlag ha, if_pos rfl]
      exact ⟨rfl, fun n hn => by rw [State.nowReady_hubFlag ha, if_neg hn]⟩
    · rw [State.tryVote_of_ward rfl (hvotes.trans hv) (by rwa [hjob]) (hroot.trans hr), State.sendVote_cke]
      exact ⟨rfl, rfl, rfl⟩
  case votes =>
    rw [(u.voteAcknowledged_voteOnly p).votes, ← State.takeCke_cke h]
    rfl
  case frame => exact ((State.takeCke_sameOutside h).mono (by simp)).trans (u.voteAcknowledged_sameOutside p)
  case late => exact (sameOutside_cke.mono (by simp)).trans ((State.sendVote_sameOutside _).mono (by simp))

end Sys2Proof.Machine
end

section
/-! SUPPORT. What keeps a device from a clean vote (R352, R353, R358): shards unstaged, digests, and a decision that does not
come. -/

namespace Sys2Proof.Machine
variable {s u : State} {p : Packet} {gone : Bool} {e : MapEnt} {n : Nat}

/-! ### STAGE_MISSING -/

/-- R352: are shards still unstaged long after a loss? -/
def State.stageLate (s : State) : Prop :=
  s.cke.st = .running ∧ s.cke.att.lossSeen = true ∧ s.stageReady = false ∧ s.cke.voteTimeout ≠ 0

theorem exec_stageMissing_of_late (h : s.stageLate) :
    exec .stageMissing s = .next { s with cke.health := s.cke.health ||| 128, cke.att.stageMissed := true } := by
  have hexec : exec .stageMissing s = execStageMissing s := rfl
  obtain ⟨hst, hloss, hstage, ht⟩ := h
  rw [hexec, execStageMissing, if_neg (by simpa [hst, hloss, hstage] using ht)]
  rfl

theorem exec_stageMissing_of_not (h : ¬s.stageLate) : exec .stageMissing s = .next s := by
  have hexec : exec .stageMissing s = execStageMissing s := rfl
  rw [hexec, execStageMissing, if_pos]
  simpa [State.stageLate, or_assoc, imp_iff_not_or] using h

/-! ### Digests compared -/

/-- R353, R368: a shard whose digests differ is listed and compared, with the device that is suspected of the fault. -/
theorem State.mismatch_marks (s : State) (n owner k : Nat) : (s.mismatch n owner k).cke.health.getLsbD 9 = true ∧
    (s.mismatch n owner k).cke.health.getLsbD 12 = (s.cke.health.getLsbD 12 || s.cke.att.afterRetry) ∧
    (s.mismatch n owner k).cke.att = { s.cke.att with
      compared := s.cke.att.compared ++ [n]
      mis := s.cke.att.mis ++ [misWord n (if s.suspect < k then owner else s.fab.devid) s.cke.att.afterRetry] } := by
  unfold State.mismatch
  cases h : s.cke.att.afterRetry with
  | true => simp [h]
  | false => simp [h]

theorem State.mismatch_sameOutside (s : State) (n owner k : Nat) : SameOutside [.cke] s (s.mismatch n owner k) := fun q hq => by
  cases q <;> simp_all [StatePart.same]

theorem State.settleDigest_sameOutside (s : State) (n : Nat) : SameOutside [.cke] s (s.settleDigest n) := fun q hq => by
  cases q <;> simp_all [StatePart.same]

/-- R353: is the digest of a shard, both of its owner and of this device known, still to be compared? -/
def State.judges (s : State) (e : MapEnt) (n : Nat) : Prop :=
  sget [] s.cke.att.digOwn n ≠ [] ∧ n ∉ s.cke.att.compared ∧ s.compares = true ∧ s.isLost e.owner = false

/-- R353: the state once a shard is marked as compared. -/
def State.digestCompared (s : State) (n : Nat) : State := { s with cke.att.compared := s.cke.att.compared ++ [n] }

section settle
variable {rx : List Byte} (hent : (s.cke.att.map.bind fun m => m.ents[n]?) = some e) (hrx : s.cke.att.digRx = [(n, rx)])
  (hb : e.buddy = some s.fab.devid)
include hent hrx hb

theorem State.settleDigest_of_unjudged (h : ¬s.judges e n) : s.settleDigest n = s := by
  rw [State.settleDigest, hent, hrx, List.find?_cons_of_pos (by simp)]
  dsimp only
  rw [if_pos]
  simpa [State.judges, hb, or_assoc, imp_iff_not_or] using h

theorem State.settleDigest_of_judged (h : s.judges e n) : s.settleDigest n =
    if sget [] s.cke.att.digOwn n = rx.take 40 then s.digestCompared n else s.mismatch n e.owner (lenum rx 40 4) := by
  obtain ⟨hown, hc, hcmp, hl⟩ := h
  rw [State.settleDigest, hent, hrx, List.find?_cons_of_pos (by simp)]
  dsimp only
  rw [if_neg (by simpa [hb, hc, hcmp, hl] using hown)]
  rfl

end settle

/-! ### DIGEST -/

/-- R353: is a packet that has been taken the digest of an entry this device shadows? -/
def State.digestFits (u : State) (p : Packet) (gone : Bool) (e : MapEnt) : Prop :=
  gone = false ∧ u.ckeNow p = true ∧ e.owner = p.src ∧ e.buddy = some u.fab.devid

/-- R353: the state once the digest of a packet is kept. -/
def State.digestKept (u : State) (p : Packet) : State :=
  { u with cke.att.digRx := u.cke.att.digRx ++ [(fld p.addr 24 20, p.payload)] }

theorem exec_digest_of_none (h : s.takeCke 0x20 = none) : exec .digest s = .next s := by
  have hexec : exec .digest s = execDigest s := rfl
  rw [hexec, execDigest, h]

section digest
variable (h : s.takeCke 0x20 = some (p, gone, u))
include h

theorem exec_digest_of_unfit (hf : ∀ e, (u.cke.att.map.bind fun m => m.ents[fld p.addr 24 20]?) = some e → ¬u.digestFits p gone e) :
    exec .digest s = .next u := by
  have hexec : exec .digest s = execDigest s := rfl
  rw [hexec, execDigest, h]
  dsimp only
  split
  · rfl
  · next e he =>
    refine if_pos ?_
    simpa [State.digestFits, or_assoc, imp_iff_not_or] using hf e he

theorem exec_digest_of_fits (he : (u.cke.att.map.bind fun m => m.ents[fld p.addr 24 20]?) = some e) (hf : u.digestFits p gone e) :
    exec .digest s = .next ((u.digestKept p).settleDigest (fld p.addr 24 20)) := by
  have hexec : exec .digest s = execDigest s := rfl
  obtain ⟨hg, hn, ho, hb⟩ := hf
  rw [hexec, execDigest, h]
  dsimp only
  rw [he]
  exact if_neg (by simp [hg, hn, ho, hb])

end digest

/-! ### DIGEST_TIMEOUT -/

/-- R353: is the digest of an entry this device shadows overdue? -/
def State.digestDue (s : State) (n : Nat) (e : MapEnt) : Prop :=
  s.cke.voteTimeout ≠ 0 ∧ s.compares = true ∧ e.buddy = some s.fab.devid ∧ s.goneNow e.owner = false ∧
    sget [] s.cke.att.digOwn n ≠ [] ∧ n ∉ s.cke.att.compared

section digestTimeout
variable {i : BitVec 20}

theorem exec_digestTimeout_of_not (h : ∀ e, (s.cke.att.map.bind fun m => m.ents[i.toNat]?) = some e → ¬s.digestDue i.toNat e) :
    exec (.digestTimeout i) s = .next s := by
  have hexec : exec (.digestTimeout i) s = execDigestTimeout i s := rfl
  rw [hexec, execDigestTimeout]
  split
  · rfl
  · next e he =>
    refine if_pos ?_
    simpa [State.digestDue, or_assoc, imp_iff_not_or] using h e he

theorem exec_digestTimeout_of_due (he : (s.cke.att.map.bind fun m => m.ents[i.toNat]?) = some e) (h : s.digestDue i.toNat e) :
    exec (.digestTimeout i) s = .next (s.mismatch i.toNat e.owner 0) := by
  have hexec : exec (.digestTimeout i) s = execDigestTimeout i s := rfl
  obtain ⟨ht, hcmp, hb, hgone, hown, hc⟩ := h
  rw [hexec, execDigestTimeout, he]
  exact if_neg (by simpa [hcmp, hb, hgone, hc] using ⟨ht, hown⟩)

end digestTimeout

/-! ### CKE_ORPHANED -/

/-- R358: has a device that has voted waited for its decision for the whole time? -/
def State.leftAlone (s : State) : Prop := s.cke.st = .voted ∧ s.cke.decTimeout ≠ 0

/-- R358: the state of an orphaned device, before its job halts. -/
def State.orphaned (s : State) : State :=
  State.raiseHalting { s with cke.st := .orphaned } 0x0B08 .d 0 (devPayload s.fab.devid 0 0)

theorem exec_ckeOrphaned_of_not (h : ¬s.leftAlone) : exec .ckeOrphaned s = .next s := by
  have hexec : exec .ckeOrphaned s = execCkeOrphaned s := rfl
  rw [hexec, execCkeOrphaned, if_pos]
  simpa [State.leftAlone, imp_iff_not_or] using h

theorem exec_ckeOrphaned_of_left (h : s.leftAlone) : exec .ckeOrphaned s = .next (s.orphaned.haltJob 0x0B08) := by
  have hexec : exec .ckeOrphaned s = execCkeOrphaned s := rfl
  obtain ⟨hst, ht⟩ := h
  rw [hexec, execCkeOrphaned, if_neg (by simpa [hst] using ht)]
  rfl

theorem State.orphaned_hub (s : State) : HubKept s s.orphaned :=
  .trans (t := { s with cke.st := .orphaned }) (.of_hub rfl) (State.raiseHalting_hub _ _ _ _ _)

theorem State.orphaned_sameOutside (s : State) : SameOutside [.cores, .hub, .err, .cke, .pmu, .sent] s (s.orphaned.haltJob 0x0B08) :=
  fun q hq => by cases q <;> simp_all [StatePart.same, State.orphaned]

theorem State.orphaned_halts {j : Job} (hj : s.hub.job = some j) (hr : s.hub.jobState = .running) :
    (s.orphaned.haltJob 0x0B08).hub.jobState = .halted := by
  obtain ⟨hhub, -⟩ := State.haltJob_of_running (code := 0x0B08) (s.orphaned_hub.job.trans hj) (s.orphaned_hub.jobState.trans hr)
  rw [hhub]

/-! ### The obligation -/

/-- A packet taken from the inbox leaves the suspicion of this device as it was (R369). -/
theorem State.suspect_of_taken {t : State} (h : SameOutside [.fab, .sent] s t) : t.suspect = s.suspect := by
  have hcke : t.cke = s.cke := h .cke (by simp)
  have hcores : t.cores = s.cores := h .cores (by simp)
  have herr : t.err = s.err := h .err (by simp)
  have hpwr : t.pwr = s.pwr := h .pwr (by simp)
  rw [State.suspect, State.arrayHot, hcke, hcores, herr, hpwr, State.suspect, State.arrayHot]

theorem State.takeCke_devid {ty : Nat} (h : s.takeCke ty = some (p, gone, u)) : u.fab.devid = s.fab.devid := by
  obtain ⟨x, rfl⟩ := State.takeCke_taken h
  rw [State.taken_fab]

theorem State.digestKept_suspect (h : s.takeCke 0x20 = some (p, gone, u)) : (u.digestKept p).suspect = s.suspect := by
  rw [← State.suspect_of_taken (State.takeCke_sameOutside h)]
  rfl

theorem State.digestKept_devid (h : s.takeCke 0x20 = some (p, gone, u)) : (u.digestKept p).fab.devid = s.fab.devid := by
  rw [← State.takeCke_devid h]
  rfl

section kept
variable (h : s.takeCke 0x20 = some (p, gone, u)) (hrx : s.cke.att.digRx = [])
include h hrx

/-- R353: the CKE as the digest of a packet is kept. -/
theorem State.digestKept_cke : (u.digestKept p).cke = { s.cke with att.digRx := [(fld p.addr 24 20, p.payload)] } := by
  rw [State.digestKept, State.takeCke_cke h, hrx]
  rfl

theorem State.judges_digestKept : (u.digestKept p).judges e n ↔ s.judges e n := by
  simp only [State.judges, State.compares, State.isLost, State.digestKept_cke h hrx]

section entry
variable (he : (s.cke.att.map.bind fun m => m.ents[fld p.addr 24 20]?) = some e) (hb : e.buddy = some s.fab.devid)
include he hb

/-- R353: a digest that is not compared yet is kept. -/
theorem State.digestKept_of_unjudged (hj : ¬s.judges e (fld p.addr 24 20)) :
    (u.digestKept p).settleDigest (fld p.addr 24 20) = u.digestKept p :=
  State.settleDigest_of_unjudged (by rwa [State.digestKept_cke h hrx]) (by rw [State.digestKept_cke h hrx])
    (hb.trans (congrArg some (State.digestKept_devid h).symm)) (mt (State.judges_digestKept h hrx).1 hj)

/-- R353: a digest that is compared marks its shard, which is listed if the digests differ. -/
theorem State.digestKept_of_judged (hj : s.judges e (fld p.addr 24 20)) :
    (u.digestKept p).settleDigest (fld p.addr 24 20) =
      if sget [] s.cke.att.digOwn (fld p.addr 24 20) = p.payload.take 40 then (u.digestKept p).digestCompared (fld p.addr 24 20)
      else (u.digestKept p).mismatch (fld p.addr 24 20) e.owner (lenum p.payload 40 4) := by
  rw [State.settleDigest_of_judged (s := u.digestKept p) (by rwa [State.digestKept_cke h hrx])
    (by rw [State.digestKept_cke h hrx]) (hb.trans (congrArg some (State.digestKept_devid h).symm))
    ((State.judges_digestKept h hrx).2 hj), State.digestKept_cke h hrx]

end entry

/-- R353: what a digest that arrives leaves: it is kept; compared, it marks its shard, and one that differs lists it. -/
theorem State.digestKept_settled (he : (s.cke.att.map.bind fun m => m.ents[fld p.addr 24 20]?) = some e)
    (hb : e.buddy = some s.fab.devid) :
    let n := fld p.addr 24 20
    let t := (u.digestKept p).settleDigest n
    t.cke.att.digRx = [(n, p.payload)] ∧
    (¬s.judges e n → t.cke.att.compared = s.cke.att.compared ∧ t.cke.health = s.cke.health ∧ t.cke.att.mis = s.cke.att.mis) ∧
    (s.judges e n → t.cke.att.compared = s.cke.att.compared ++ [n] ∧
      (sget [] s.cke.att.digOwn n = p.payload.take 40 → t.cke.health = s.cke.health ∧ t.cke.att.mis = s.cke.att.mis) ∧
      (sget [] s.cke.att.digOwn n ≠ p.payload.take 40 → t.cke.health.getLsbD 9 = true ∧ t.cke.att.mis = s.cke.att.mis ++
        [misWord n (if s.suspect < lenum p.payload 40 4 then e.owner else s.fab.devid) s.cke.att.afterRetry])) := by
  extract_lets n t
  have hcke := State.digestKept_cke h hrx
  by_cases hj : s.judges e n
  case neg =>
    have ht : t = u.digestKept p := State.digestKept_of_unjudged h hrx he hb hj
    rw [ht, hcke]
    exact ⟨rfl, fun _ => ⟨rfl, rfl, rfl⟩, fun hj' => absurd hj' hj⟩
  case pos =>
    have ht := State.digestKept_of_judged h hrx he hb hj
    by_cases heq : sget [] s.cke.att.digOwn n = p.payload.take 40
    case pos =>
      have ht' : t.cke = { s.cke with att.digRx := [(n, p.payload)], att.compared := s.cke.att.compared ++ [n] } := by
        dsimp only [t]
        rw [ht, if_pos heq, State.digestCompared, hcke]
      rw [ht']
      exact ⟨rfl, fun hj' => absurd hj hj', fun _ => ⟨rfl, fun _ => ⟨rfl, rfl⟩, absurd heq⟩⟩
    case neg =>
      have ht' : t = (u.digestKept p).mismatch n e.owner (lenum p.payload 40 4) := ht.trans (if_neg heq)
      obtain ⟨hdigest, -, hatt⟩ := (u.digestKept p).mismatch_marks n e.owner (lenum p.payload 40 4)
      rw [hcke, State.digestKept_suspect h, State.digestKept_devid h] at hatt
      rw [ht', hatt]
      exact ⟨rfl, fun hj' => absurd hj hj', fun _ => ⟨rfl, fun heq' => absurd heq' heq, fun _ => ⟨hdigest, rfl⟩⟩⟩

end kept

/-- Settles O34: a digest by `State.digestKept_settled`, one that is overdue by `State.mismatch_marks`, the rest by the equation
of its event. -/
theorem digestsAndTimeoutsCount : Obligations.DigestsAndTimeoutsCount := by
  unfold Obligations.DigestsAndTimeoutsCount
  intro s
  refine ⟨⟨exec_stageMissing_of_late, exec_stageMissing_of_not⟩, exec_digest_of_none, fun p gone u h => ?digest, fun i =>
    ⟨exec_digestTimeout_of_not, fun e he hdue => ?overdue⟩, exec_ckeOrphaned_of_not, fun hl =>
    ⟨_, exec_ckeOrphaned_of_left hl, by simp [State.orphaned], fun j hj hr => State.orphaned_halts hj hr,
      s.orphaned_sameOutside⟩⟩
  case digest =>
    have hfits : ∀ e, u.digestFits p gone e ↔ gone = false ∧ u.ckeNow p = true ∧ e.owner = p.src ∧ e.buddy = some s.fab.devid :=
      fun e => by rw [State.digestFits, State.takeCke_devid h]
    have hent : (u.cke.att.map.bind fun m => m.ents[fld p.addr 24 20]?) = s.cke.att.map.bind fun m => m.ents[fld p.addr 24 20]? := by
      rw [State.takeCke_cke h]
    refine ⟨fun hnot => ⟨exec_digest_of_unfit h fun e he => mt (hfits e).1 (hnot e (hent.symm.trans he)), State.takeCke_sameOutside h⟩,
      fun e he hmine hrx => ⟨_, exec_digest_of_fits h (hent.trans he) ((hfits e).2 hmine), ?_⟩⟩
    obtain ⟨-, -, -, hb⟩ := hmine
    obtain ⟨hkept, hunjudged, hjudged⟩ := State.digestKept_settled h hrx he hb
    exact ⟨hkept, ⟨hunjudged, hjudged⟩, ((State.takeCke_sameOutside h).mono (by simp)).trans ((sameOutside_cke.mono (by simp)).trans
      ((State.settleDigest_sameOutside _ _).mono (by simp)))⟩
  case overdue =>
    obtain ⟨hdigest, hsecond, hatt⟩ := s.mismatch_marks i.toNat e.owner 0
    refine ⟨_, exec_digestTimeout_of_due he hdue, hdigest, hsecond, ?_, ?_, s.mismatch_sameOutside _ _ _⟩
    · rw [hatt]
    · rw [hatt, if_neg (Nat.not_lt_zero _)]

end Sys2Proof.Machine
end

section
/-! SUPPORT. Where the commit gate reads a hole of memory (R224, R227). The spec leaves open what bytes such a read delivers, so the
model draws its next free value (assumption 3): the counter `State.fresh` moves on, which the statements about losses and
decisions count among the parts that stay. -/

namespace Sys2Proof.Machine

/-! ### A loss -/

/-- An address of tier-2 memory, where no expander is mapped: a hole. -/
def unmapped : Nat := 0x100000000000

/-- The one entry of a map: shard 0 of bucket 0, owned by device 1 and shadowed by device 0; its SDESC stands in a hole. -/
def holedEntry : MapEnt := ⟨0, 0, 1, some 0, none, 0, 0, unmapped, 0, 0⟩
def holedMap : ShardMap := ⟨0, 0, 0, 1, [holedEntry]⟩

/-- Its bucket, on a ring of devices 1 and 0. -/
def holedBucket : Bucket :=
  ⟨0x1000, 0x2000, 0x3000, 0x4000, 0x4100, 0x5000, 0x6000, 0x7000, 2, 2, 1, 0, 0, 0, [(1, 1), (0, 0)], 0, 0, 0, false, [], 0⟩

/-- Device 2 tells that device 1 is lost. -/
def lossOfOwner : Packet := { mkPacket 0x26 0 2 0 1 0 [1, 0] with src := 2 }

/-- Device 0 runs attempt 0 of step 1 and learns of the loss of device 1, whose shard it shadows: its image is complete and its
all-gather armed. -/
def ownerLost : State := { State.reset with
  fab := { Fab.reset with inbox := [(0x7F, lossOfOwner)] }
  cle := { Cle.reset with isOpen := true, buckets := [holedBucket], armed := some holedMap, imaged := [(0, 0)] }
  cke := { Cke.reset with st := .running, att := { Attempt.reset with map := some holedMap } } }

theorem ownerLost_takes : ownerLost.takeCke 0x26 = some (lossOfOwner, false, { ownerLost with fab.inbox := [] }) := by
  rfl

/-- R227, R355: the buddy gathers the shard in place of its owner, and reads the SDESC in the hole. -/
theorem lossNotice_ownerLost_fresh : (resultOf ownerLost (exec .lossNotice ownerLost)).fresh = 1 ∧ ownerLost.fresh = 0 := by
  decide +kernel

/-- Refutes O35: its frame of a LOSS_NOTICE keeps the counter of free values. The buddy of the lost device gathers the shard it
shadows (R355); where the shard's SDESC stands in a hole, the read delivers bytes the spec leaves open (R227), and the counter
moves on. -/
theorem not_probesFindLostDevices : ¬ Obligations.ProbesFindLostDevices := by
  unfold Obligations.ProbesFindLostDevices
  intro h
  obtain ⟨-, -, -, -, -, -, -, -, hloss, -⟩ := h ownerLost rfl rfl
  obtain ⟨-, hlearns⟩ := hloss lossOfOwner false _ ownerLost_takes
  obtain ⟨t, hexec, -, -, -, hsame⟩ := hlearns (by decide)
  obtain ⟨hafter, hbefore⟩ := lossNotice_ownerLost_fresh
  have hkept : t.fresh = ownerLost.fresh := hsame .fresh (by decide)
  rw [hexec] at hafter
  exact absurd (hafter.symm.trans (hkept.trans hbefore)) (by decide)

/-! ### A decision -/

/-- The decision to COMMIT step 1 in attempt 0. -/
def commitFirst : DecRec := ⟨1, 0, 1, false, false, 0, 0, 0, [], []⟩

/-- The root has decided to COMMIT; its member table stands in a hole. -/
def commitDecided : State := { State.reset with
  cke := { Cke.reset with st := .ready, decided := some commitFirst, memberCount := 1, memberAddr := BitVec.ofNat 64 unmapped } }

theorem commitDecided_takes : commitDecided.takeDecision 1 = (some (commitFirst, none), { commitDecided with cke.decided := none }) := by
  rfl

/-- R227, R351: the next step's first attempt reads the member table in the hole. -/
theorem commit_commitDecided_fresh : (resultOf commitDecided (exec .commit commitDecided)).fresh = 1 ∧ commitDecided.fresh = 0 := by
  decide +kernel

/-- Refutes O36: its frame of a decision that is applied keeps the counter of free values. COMMIT begins the next attempt, which
reads the member table (R351, R361); where the table stands in a hole, the read delivers bytes the spec leaves open (R227), and
the counter moves on. -/
theorem not_decisionsAreAppliedOnce : ¬ Obligations.DecisionsAreAppliedOnce := by
  unfold Obligations.DecisionsAreAppliedOnce
  intro h
  obtain ⟨hdecisions, -⟩ := h commitDecided rfl rfl
  obtain ⟨-, happlied⟩ := hdecisions (.commit, 1) (by simp)
  obtain ⟨t, hexec, -, -, -, -, -, hsame⟩ := happlied commitFirst none _ commitDecided_takes
  obtain ⟨hafter, hbefore⟩ := commit_commitDecided_fresh
  have hkept : t.fresh = commitDecided.fresh := hsame .fresh (by decide)
  rw [hexec] at hafter
  exact absurd (hafter.symm.trans (hkept.trans hbefore)) (by decide)

end Sys2Proof.Machine
end

section
/-! SUPPORT. What the CKE reads for its calls, how a call of it ends, and the puts it sends (R219, R373, R374, R377). -/

namespace Sys2Proof.Machine
variable {s t u r : State} {c : CoreId} {ci : CallInfo}

/-! ### What the CKE reads -/

/-- What the reads of a call of the CKE keep. -/
structure CkeRead (s r : State) : Prop extends ListRead s r where
  fab : r.fab = s.fab

namespace CkeRead

theorem trans (h : CkeRead s t) (h' : CkeRead t u) : CkeRead s u :=
  ⟨⟨h'.cores.trans h.cores, h'.cle.trans h.cle, h.lines.trans h'.lines, h.health.trans h'.health, h.hub.trans h'.hub⟩,
    h'.fab.trans h.fab⟩

theorem engineReads (s : State) (agent : Nat) (rs : List (Nat × Nat)) : CkeRead s (s.engineReads agent rs) :=
  ⟨⟨by simp, by simp, .engineReads s _ _, .engineReads s _ _, s.engineReads_hub _ _⟩, by simp⟩

theorem readsMap (s : State) (agent a : Nat) : CkeRead s (s.readsMap agent a) := ⟨s.readsMap_kept agent a, by simp⟩

theorem readsDescs (s : State) (agent : Nat) (es : List MapEnt) : CkeRead s (s.readsDescs agent es) := engineReads s _ _

theorem readsSlots (s : State) (es : List MapEnt) : CkeRead s (s.readsSlots es) := (engineReads s _ _).trans (engineReads _ _ _)

/-- R92, R94: what a call leaves that is refused for what it has read. -/
theorem refused (h : CkeRead s r) (hs : s.has64) (ci : CallInfo) :
    ((r.callFault c ci 0x030F c.val noPos).core c).q.seq = .haltFault ∧
      ((r.callFault c ci 0x030F c.val noPos).core c).q.cmdIndex = ci.idx ∧
      ((r.callFault c ci 0x030F c.val noPos).core c).q.call = none ∧ (r.callFault c ci 0x030F c.val noPos).cke = r.cke ∧
      (r.callFault c ci 0x030F c.val noPos).mem = r.mem ∧ (r.callFault c ci 0x030F c.val noPos).fab = s.fab := by
  obtain ⟨hcall, hseq, hidx, -, hmem⟩ := State.callFault_stops (h.has64 hs) ci 0x030F c.val noPos (c := c)
  exact ⟨hseq, hidx, hcall, by simp, hmem, .trans (by simp) h.fab⟩

end CkeRead

/-! ### How a call ends -/

theorem coreNo_val (c : CoreId) : coreNo c.val = c := Fin.ext (Nat.mod_eq_of_lt c.isLt)

theorem State.finishCall_mem (hs : u.has64) (hr : u.cke.rewinding = false) : (u.finishCall c).mem = u.mem := by
  cases hc : (u.core c).q.call with
  | none => rw [State.finishCall_of_none hc]
  | some ci =>
    obtain ⟨-, -, hmem⟩ := State.finishCall_ends hs hc hr
    exact hmem

/-- R89: what a call of the CKE leaves that ends with a hub flag. -/
theorem State.callEnds (hs : u.has64) (hr : u.cke.rewinding = false) (hc : (u.core c).q.call = some ci) (n : Nat) :
    (((u.addHubFlag n 1).finishCall c).core c).q.call = none ∧ ((u.addHubFlag n 1).finishCall c).cke = u.cke ∧
      ((u.addHubFlag n 1).finishCall c).mem = u.mem ∧ ((u.addHubFlag n 1).finishCall c).fab = u.fab := by
  have hcores : (u.addHubFlag n 1).cores = u.cores := by simp
  have hcke : (u.addHubFlag n 1).cke = u.cke := by simp
  have hs' : (u.addHubFlag n 1).has64 := State.has64_of_cores hs hcores
  have hr' : (u.addHubFlag n 1).cke.rewinding = false := by rw [hcke, hr]
  have hc' : ((u.addHubFlag n 1).core c).q.call = some ci := by rw [State.core_of_cores hcores, hc]
  obtain ⟨hcall, -, hmem⟩ := State.finishCall_ends hs' hc' hr'
  exact ⟨hcall, (State.finishCall_cke hs' hr').trans hcke, hmem.trans (by simp), by simp⟩

/-! ### Puts -/

section puts
variable {o : ReqOwner} {acc : List (Nat × Nat × List Byte) × State} {x : Nat × Nat × List Byte}

/-- R219: a put is left over or its request outstanding. -/
theorem putPiece_pends : (putPiece c o acc x).1 ≠ [] ∨ (putPiece c o acc x).2.owes o = true := by
  unfold putPiece
  split
  · exact .inl (by simp)
  · next n _ =>
    obtain ⟨hreqs, -⟩ := acc.2.request_fab (putPacket x.1 (c.val * 4096 + n) x.2.1 x.2.2) o
    exact .inr (by simp [State.owes, hreqs])

/-- R219: while a put has been sent last, something is left over or outstanding. -/
theorem issuePuts_pends {todo : List (Nat × Nat × List Byte)} (h : todo ≠ []) (s : State) :
    (issuePuts c o todo s).1 ≠ [] ∨ (issuePuts c o todo s).2.owes o = true := by
  obtain ⟨ys, y, rfl⟩ := List.eq_nil_or_concat' todo |>.resolve_left h
  rw [issuePuts, List.foldl_concat]
  exact putPiece_pends

end puts

end Sys2Proof.Machine
end

section
/-! SUPPORT. RESHARD (R374 to R376): what a call reads, what refuses it, and the moves this device takes part in. -/

namespace Sys2Proof.Machine
variable {s t u r : State} {c : CoreId} {ci : CallInfo} {a b share : Nat}

/-- R374: the state once a call has read its maps, and for shards their descriptors. -/
def State.bothMaps (s : State) (a b : Nat) : State := (s.readsMap 0x83 a).readsMap 0x83 b

def State.reshardRead (s : State) (a b : Nat) : State :=
  if ((s.bothMaps a b).readMap b).kind = 0 then (s.bothMaps a b).readsDescs 0x83 ((s.bothMaps a b).readMap b).ents else s.bothMaps a b

theorem State.reshardRead_read (s : State) (a b : Nat) : CkeRead s (s.reshardRead a b) := by
  have hmaps : CkeRead s (s.bothMaps a b) := (CkeRead.readsMap _ _ _).trans (.readsMap _ _ _)
  unfold State.reshardRead
  split
  · exact hmaps.trans (.readsDescs _ _ _)
  · exact hmaps

/-- R373 to R375: is a call with these maps and this bandwidth share refused? -/
def State.reshardRefused (r : State) (a b share : Nat) : Bool :=
  r.mapBad a || r.mapBad b || (r.readMap a).kind ≠ (r.readMap b).kind || decide (100 < share)
    || ((r.readMap a).kind = 1 && !placeCovered (r.readMap a).ents (r.readMap b).ents)

theorem State.reshardRefused_iff : r.reshardRefused a b share = true ↔
    r.mapBad a = true ∨ r.mapBad b = true ∨ (r.readMap a).kind ≠ (r.readMap b).kind ∨ 100 < share ∨
      (r.readMap a).kind = 1 ∧ placeCovered (r.readMap a).ents (r.readMap b).ents = false := by
  simp [State.reshardRefused, or_assoc]

/-- R375, R376: the moves from one map to another: SDESC, sender, address there, receiver, address there, length. -/
def State.reshardMoves (r : State) (a b : Nat) : List (Nat × Nat × Nat × Nat × Nat × Nat) :=
  if (r.readMap a).kind = 1 then
    (r.placeMoves (r.readMap a).ents (r.readMap b).ents).map fun (x, xa, y, ya, n) => (0, x, xa, y, ya, n)
  else (r.shardMoves (r.readMap a).ents (r.readMap b).ents).map fun (e, x, y, ad, n) => (e, x, ad, y, ad, n)

/-- R370: the moves between devices in use. -/
def State.liveMoves (r : State) (a b : Nat) : List (Nat × Nat × Nat × Nat × Nat × Nat) :=
  (r.reshardMoves a b).filter fun m => !r.isLost m.2.1 && !r.isLost m.2.2.2.1

/-- R374: the ranges that a device is to receive. -/
def State.dueRanges (r : State) (a b : Nat) : List (Nat × Nat × Nat) :=
  ((r.liveMoves a b).filter fun m => m.2.1 ≠ r.fab.devid && m.2.2.2.1 = r.fab.devid).map fun m =>
    (m.1, m.2.2.2.2.1, m.2.2.2.2.1 + m.2.2.2.2.2)

/-- The moves between devices in use as the obligation names them, without the SDESC. -/
theorem State.liveMoves_snd (r : State) (a b : Nat) : (r.liveMoves a b).map Prod.snd =
    (if (r.readMap a).kind = 1 then r.placeMoves (r.readMap a).ents (r.readMap b).ents
      else (r.shardMoves (r.readMap a).ents (r.readMap b).ents).map fun (_, x, y, a, n) => (x, a, y, a, n)).filter
        fun (x, _, y, _, _) => !r.isLost x && !r.isLost y := by
  have hmoves : (r.reshardMoves a b).map Prod.snd = if (r.readMap a).kind = 1
      then r.placeMoves (r.readMap a).ents (r.readMap b).ents
      else (r.shardMoves (r.readMap a).ents (r.readMap b).ents).map fun (_, x, y, a, n) => (x, a, y, a, n) := by
    unfold State.reshardMoves
    split
    · rw [List.map_map]
      exact List.map_id _
    · rw [List.map_map]
      rfl
  rw [← hmoves, List.filter_map]
  rfl

/-- R374: a device that sends nothing receives the ranges of the moves to it. -/
theorem State.dueRanges_snd (h : ∀ m ∈ (r.liveMoves a b).map Prod.snd, m.1 ≠ r.fab.devid) : (r.dueRanges a b).map Prod.snd =
    (((r.liveMoves a b).map Prod.snd).filter fun m => m.2.2.1 = r.fab.devid).map fun m => (m.2.2.2.1, m.2.2.2.1 + m.2.2.2.2) := by
  have hfilter : (r.liveMoves a b).filter (fun m => m.2.1 ≠ r.fab.devid && m.2.2.2.1 = r.fab.devid) =
      (r.liveMoves a b).filter fun m => m.2.2.2.1 = r.fab.devid :=
    List.filter_congr fun m hm => by simp [h m.2 (List.mem_map_of_mem hm)]
  rw [State.dueRanges, hfilter, List.filter_map, List.map_map, List.map_map]
  rfl

theorem State.dueRanges_eq_nil_iff (h : ∀ m ∈ (r.liveMoves a b).map Prod.snd, m.1 ≠ r.fab.devid) :
    r.dueRanges a b = [] ↔ ∀ m ∈ (r.liveMoves a b).map Prod.snd, m.2.2.1 ≠ r.fab.devid := by
  rw [← List.map_eq_nil_iff (f := Prod.snd), State.dueRanges_snd h, List.map_eq_nil_iff, List.filter_eq_nil_iff]
  simp only [decide_eq_true_eq, ne_eq]

/-! ### How a call begins -/

theorem exec_reshard_of_none (h : s.callOf c 0x30 = none) : exec (.reshard c) s = .next s := by
  have hexec : exec (.reshard c) s = execReshard c s := rfl
  rw [hexec, execReshard, h]

theorem exec_reshard_of_busy (h : s.cke.reshard.isSome = true) : exec (.reshard c) s = .next s := by
  have hexec : exec (.reshard c) s = execReshard c s := rfl
  rw [hexec, execReshard]
  split
  · rfl
  · exact if_pos h

/-- R374: a call that waits for ranges alone. -/
def State.reshardBegun (r : State) (n : Nat) (q : List (Nat × Nat × Nat)) : State := { r with cke.reshard := some ⟨n, [], q⟩ }

/-- R374 to R376: a call that is not refused: its sends and its copies within this device are read, the copies made, and what
is to be sent and received is remembered. -/
def State.reshardGo (r : State) (c : CoreId) (a b : Nat) : State :=
  let out := (r.liveMoves a b).filter fun m => m.2.1 = r.fab.devid && m.2.2.2.1 ≠ r.fab.devid
  let here := (r.liveMoves a b).filter fun m => m.2.1 = r.fab.devid && m.2.2.2.1 = r.fab.devid
  let sr := r.engineReads 0x83 ((out ++ here).map fun m => (m.2.2.1, m.2.2.2.2.2))
  let s1 := here.foldl (fun t m => t.agentWrite m.2.2.2.2.1 0x83 (sr.bytesAt m.2.2.1 m.2.2.2.2.2)) sr
  State.settleReshard { s1 with cke.reshard := some ⟨c.val,
    out.flatMap fun m => putsOf m.2.2.2.1 m.2.2.2.2.1 (sr.bytesAt m.2.2.1 m.2.2.2.2.2), r.dueRanges a b⟩ }

theorem exec_reshard_of_call (hs : s.hub.snoop = []) (hb : s.hub.bisnp = []) (hc : s.callOf c 0x30 = some ci)
    (hn : s.cke.reshard = none) (ha : pbNum ci.pb 0x10 8 = a) (hb' : pbNum ci.pb 0x18 8 = b) : exec (.reshard c) s =
      .next (if (s.reshardRead a b).reshardRefused a b (pbNum ci.pb 0x20 1) then
        (s.reshardRead a b).callFault c ci 0x030F c.val noPos else (s.reshardRead a b).reshardGo c a b) := by
  have hexec : exec (.reshard c) s = execReshard c s := rfl
  subst ha hb'
  rw [hexec, execReshard, hc]
  dsimp only
  rw [if_neg (by simp [hn]), afterSnoop_of_nil hs hb, apply_ite Host.Outcome.next]
  rfl

/-! ### A device that sends nothing -/

section receiver
variable (h : ∀ m ∈ (r.liveMoves a b).map Prod.snd, m.1 ≠ r.fab.devid)
include h

/-- R374: the moves from this device are none. -/
theorem State.liveMoves_from (f : Nat → Bool) : (r.liveMoves a b).filter (fun m => m.2.1 = r.fab.devid && f m.2.2.2.1) = [] :=
  List.filter_eq_nil_iff.2 fun m hm => by simp [h m.2 (List.mem_map_of_mem hm)]

theorem State.reshardGo_of_receiver (c : CoreId) : r.reshardGo c a b =
    (r.reshardBegun c.val (r.dueRanges a b)).settleReshard := by
  have hout := State.liveMoves_from h fun y => y ≠ r.fab.devid
  have hhere := State.liveMoves_from h fun y => y = r.fab.devid
  rw [State.reshardGo, hout, hhere]
  simp [State.engineReads, State.reshardBegun]

end receiver

/-! ### How a call goes on, or ends -/

theorem stillDue_nil (arrived : List (Nat × Nat)) : stillDue [] arrived = [] :=
  List.foldlRecOn (motive := fun d => d = []) _ _ rfl fun _ hd _ _ => by rw [hd, List.flatMap_nil]

/-- R374: a call that has received nothing yet goes on. -/
theorem State.settleReshard_of_due {q : List (Nat × Nat × Nat)} (hq : q ≠ []) (ha : r.cke.arrived = []) (n : Nat) :
    (r.reshardBegun n q).settleReshard = r.reshardBegun n q := by
  unfold State.settleReshard State.reshardBegun
  simp [issuePuts, ha, stillDue, hq]

/-- R374: the state in which a call has ended, but for its core. -/
def State.reshardDone (r : State) : State := { r with cke.reshard := none, cke.arrived := [] }

/-- R374: a call that has nothing to send or to receive, and whose device owes no put, ends. -/
theorem State.settleReshard_of_idle (ho : r.owes .reshard = false) (c : CoreId) :
    (r.reshardBegun c.val []).settleReshard = (r.reshardDone.addHubFlag 18 1).finishCall c := by
  have howes : State.owes { r with cke.reshard := some ⟨c.val, [], []⟩ } .reshard = false := ho
  unfold State.settleReshard State.reshardBegun
  simp [issuePuts, stillDue_nil, howes, coreNo_val, State.reshardDone]

/-- R373 to R376: what a call of RESHARD does once it has read its maps, by the moves between devices in use. -/
theorem reshard_called {moves : List (Nat × Nat × Nat × Nat × Nat)} (hs : s.has64) (hsn : s.hub.snoop = []) (hb : s.hub.bisnp = [])
    (hrew : s.cke.rewinding = false) (hc : s.callOf c 0x30 = some ci) (hn : s.cke.reshard = none) (ha : pbNum ci.pb 0x10 8 = a)
    (hb' : pbNum ci.pb 0x18 8 = b) (hr : s.reshardRead a b = r) (hmoves : (r.liveMoves a b).map Prod.snd = moves) :
    ∃ t, exec (.reshard c) s = .next t ∧
      (r.reshardRefused a b (pbNum ci.pb 0x20 1) = true → (t.core c).q.seq = .haltFault ∧ (t.core c).q.cmdIndex = ci.idx ∧
        (t.core c).q.call = none ∧ t.cke = r.cke ∧ t.mem = r.mem ∧ t.fab = s.fab) ∧
      (r.reshardRefused a b (pbNum ci.pb 0x20 1) = false → (∀ m ∈ moves, m.1 ≠ s.fab.devid ∧ m.2.2.1 ≠ s.fab.devid) →
        s.owes .reshard = false → t.cke.reshard = none ∧ t.cke.arrived = [] ∧ (t.core c).q.call = none ∧ t.mem = r.mem) ∧
      (r.reshardRefused a b (pbNum ci.pb 0x20 1) = false → (∀ m ∈ moves, m.1 ≠ s.fab.devid) →
        (∃ m ∈ moves, m.2.2.1 = s.fab.devid) → s.cke.arrived = [] →
        (t.cke.reshard.map fun q => (q.core, q.todo, q.expect.map Prod.snd)) = some (c.val, [],
          (moves.filter fun m => m.2.2.1 = s.fab.devid).map fun m => (m.2.2.2.1, m.2.2.2.1 + m.2.2.2.2)) ∧
        t.cores = s.cores ∧ t.mem = r.mem ∧ t.fab = s.fab) := by
  have hread := s.reshardRead_read a b
  have hexec := exec_reshard_of_call hsn hb hc hn ha hb'
  have hnil := r.dueRanges_eq_nil_iff (a := a) (b := b)
  have hdue := r.dueRanges_snd (a := a) (b := b)
  rw [hr] at hread hexec
  rw [hmoves, hread.fab] at hnil hdue
  have hgo : (∀ m ∈ moves, m.1 ≠ s.fab.devid) → r.reshardGo c a b = (r.reshardBegun c.val (r.dueRanges a b)).settleReshard :=
    fun h => State.reshardGo_of_receiver (by rwa [hmoves, hread.fab]) c
  refine ⟨_, hexec, fun hbad => ?refused, fun hgood hnone ho => ?idle, fun hgood hfrom hin harr => ?goes⟩
  case refused =>
    rw [if_pos hbad]
    exact hread.refused hs ci
  case idle =>
    have hfrom : ∀ m ∈ moves, m.1 ≠ s.fab.devid := fun m hm => (hnone m hm).1
    have hdone : r.dueRanges a b = [] := (hnil hfrom).2 fun m hm => (hnone m hm).2
    have ho' : r.owes .reshard = false := by rw [State.owes, hread.fab]; exact ho
    rw [if_neg (by simp [hgood]), hgo hfrom, hdone, State.settleReshard_of_idle ho']
    obtain ⟨hcall, hcke, hmem, -⟩ := State.callEnds (u := r.reshardDone) (hread.has64 hs) (hread.notRewinding hrew)
      (hread.call hc) 18
    rw [hcke]
    exact ⟨rfl, rfl, hcall, hmem⟩
  case goes =>
    obtain ⟨m, hm, hto⟩ := hin
    have harr' : r.cke.arrived = [] := by rw [hread.health]; exact harr
    rw [if_neg (by simp [hgood]), hgo hfrom, State.settleReshard_of_due (fun h0 => (hnil hfrom).1 h0 m hm hto) harr', ← hdue hfrom]
    exact ⟨rfl, hread.cores, rfl, hread.fab⟩

theorem reshard_sameOutside (hexec : exec (.reshard c) s = .next t) :
    SameOutside [.cores, .hub, .err, .mem, .cke, .pwr, .fab, .pmu, .sent, .fresh] s t := by
  have ht : resultOf s (execReshard c s) = t := congrArg (resultOf s) hexec
  have hframe := execReshard_frame c s
  rw [ht] at hframe
  exact fun p hp => by cases p <;> simp_all [StatePart.same]

end Sys2Proof.Machine
end

section
/-! SUPPORT. CKPT (R377, R378): what a call reads, what refuses it, and the slots it writes. -/

namespace Sys2Proof.Machine
variable {s t u r : State} {c : CoreId} {ci : CallInfo} {a target gen : Nat}

/-- R377: the map of a call, and the entries of it that this device owns. -/
def State.ckptMap (s : State) (a : Nat) : ShardMap := (s.readsMap 0x83 a).readMap a

def State.ckptEnts (s : State) (a : Nat) : List MapEnt := (s.ckptMap a).ents.filter (s.readsMap 0x83 a).ownsEnt

/-- R377: the state once a call has read its map and its descriptors, and once it has read its slots. -/
def State.ckptRead (s : State) (a : Nat) : State :=
  if (s.ckptMap a).kind = 0 then (s.readsMap 0x83 a).readsDescs 0x83 (s.ckptEnts a) else s.readsMap 0x83 a

def State.ckptFull (s : State) (a : Nat) : State := (s.ckptRead a).readsSlots (s.ckptEnts a)

theorem State.ckptRead_read (s : State) (a : Nat) : CkeRead s (s.ckptRead a) := by
  unfold State.ckptRead
  split
  · exact (CkeRead.readsMap _ _ _).trans (.readsDescs _ _ _)
  · exact .readsMap _ _ _

theorem State.ckptFull_read (s : State) (a : Nat) : CkeRead s (s.ckptFull a) := (s.ckptRead_read a).trans (.readsSlots _ _)

/-- R377: is a call with this map and this target refused? -/
def State.ckptRefused (s : State) (a target : Nat) : Bool :=
  (s.ckptRead a).mapBad a || (s.ckptMap a).kind ≠ 0 || decide (1 < target)
    || (s.ckptEnts a).any (fun e => (s.ckptRead a).sdescBad e.sdesc || e.ckh.isNone
        || (decide (tier2Base ≤ e.ckaddr) != decide (target = 1)))
    || ((s.ckptEnts a).zipIdx.map fun x => (s.ckptRead a).slotLen ((s.ckptRead a).readSDesc x.1.sdesc) (x.2 = 0)).any
        fun n => decide ((s.ckptMap a).ckBytes < n)

theorem State.ckptRefused_iff : s.ckptRefused a target = true ↔
    (s.ckptRead a).mapBad a = true ∨ (s.ckptMap a).kind ≠ 0 ∨ 1 < target ∨
      (∃ e ∈ s.ckptEnts a, (s.ckptRead a).sdescBad e.sdesc = true ∨ e.ckh = none ∨ ¬(tier2Base ≤ e.ckaddr ↔ target = 1)) ∨
      ∃ x ∈ (s.ckptEnts a).zipIdx, (s.ckptMap a).ckBytes < (s.ckptRead a).slotLen ((s.ckptRead a).readSDesc x.1.sdesc) (x.2 = 0) := by
  have hplace : ∀ e : MapEnt, (decide (tier2Base ≤ e.ckaddr) != decide (target = 1)) = true ↔
      ¬(tier2Base ≤ e.ckaddr ↔ target = 1) := fun e => by rw [bne_iff_ne, ne_eq, decide_eq_decide]
  simp only [State.ckptRefused, Bool.or_eq_true, List.any_eq_true, List.any_map, hplace, Option.isNone_iff_eq_none, or_assoc,
    decide_eq_true_eq, Function.comp_apply]

/-- R377: the bytes of an entry's slot as memory stands, not yet complete. -/
def State.ckptSlot (full : State) (step gen : Nat) (x : MapEnt × Nat) : List Byte :=
  full.slotBytes (full.readSDesc x.1.sdesc) step gen false (x.2 = 0)

/-- R377: a call in progress as it begins, for the entries of a map. -/
def State.ckptRun (full : State) (c : CoreId) (m : ShardMap) (own : List MapEnt) (gen : Nat) : CkptRun :=
  let slots := own.zipIdx.map fun x => (x.1, full.ckptSlot full.cke.c gen x)
  ⟨c.val, full.cke.c, gen, slots.flatMap fun x => putsOf (x.1.ckh.getD 0) (m.slotAddr x.1 gen) x.2,
    slots.flatMap fun x => putsOf (x.1.ckh.getD 0) (m.slotAddr x.1 gen) (x.2.take 9 ++ leBytes 1 1 ++ (x.2.drop 10).take 54), false⟩

/-- R377: the state of a call that is not refused. -/
def State.ckptGo (full : State) (c : CoreId) (m : ShardMap) (own : List MapEnt) (gen : Nat) : State :=
  State.settleCkpt { full with cke.ckpt := some (full.ckptRun c m own gen) }

section run
variable {m : ShardMap} {own : List MapEnt}

theorem leBytes_one_one : leBytes 1 1 = [1] := by decide

theorem State.ckptRun_headers (s : State) (c : CoreId) : (s.ckptRun c m own gen).headers = own.zipIdx.flatMap fun x =>
    putsOf (x.1.ckh.getD 0) (m.slotAddr x.1 gen)
      ((s.ckptSlot s.cke.c gen x).take 9 ++ [1] ++ ((s.ckptSlot s.cke.c gen x).drop 10).take 54) := by
  simp only [State.ckptRun, leBytes_one_one, List.flatMap_map]

theorem putsOf_ne_nil {bs : List Byte} (h : bs ≠ []) (dev ad : Nat) : putsOf dev ad bs ≠ [] := by
  rw [putsOf, cutPut, if_neg (by simpa using h)]
  exact List.cons_ne_nil _ _

theorem State.ckptSlot_ne_nil (s : State) (step gen : Nat) (x : MapEnt × Nat) : s.ckptSlot step gen x ≠ [] :=
  List.ne_nil_of_length_pos (by simp [State.ckptSlot, State.slotBytes, leBytes_length])

/-- R377: a device that owns an entry has a slot to write. -/
theorem State.ckptRun_todo (h : own ≠ []) (s : State) (c : CoreId) : (s.ckptRun c m own gen).todo ≠ [] := by
  obtain ⟨e, es, rfl⟩ := List.exists_cons_of_ne_nil h
  exact List.append_ne_nil_of_left_ne_nil (putsOf_ne_nil (s.ckptSlot_ne_nil s.cke.c gen (e, 0)) _ _) _

end run

/-! ### How a call begins -/

theorem exec_ckpt_of_none (h : s.callOf c 0x31 = none) : exec (.ckpt c) s = .next s := by
  have hexec : exec (.ckpt c) s = execCkpt c s := rfl
  rw [hexec, execCkpt, h]

theorem exec_ckpt_of_busy (h : s.cke.ckpt.isSome = true) : exec (.ckpt c) s = .next s := by
  have hexec : exec (.ckpt c) s = execCkpt c s := rfl
  rw [hexec, execCkpt]
  split
  · rfl
  · exact if_pos h

theorem exec_ckpt_of_call (hc : s.callOf c 0x31 = some ci) (hn : s.cke.ckpt = none) (ha : pbNum ci.pb 0x10 8 = a) :
    exec (.ckpt c) s = .next (if s.ckptRefused a (pbNum ci.pb 0x18 1) then (s.ckptRead a).callFault c ci 0x030F c.val noPos
      else (s.ckptFull a).ckptGo c (s.ckptMap a) (s.ckptEnts a) (pbNum ci.pb 0x19 1)) := by
  have hexec : exec (.ckpt c) s = execCkpt c s := rfl
  subst ha
  rw [hexec, execCkpt, hc, apply_ite Host.Outcome.next]
  refine (if_neg (by simp [hn])).trans ?_
  extract_lets a target gen sm m own sd lens full slots cke run
  have hsd : s.ckptRead (pbNum ci.pb 0x10 8) = sd := rfl
  have hown : s.ckptEnts (pbNum ci.pb 0x10 8) = own := rfl
  have hm : s.ckptMap (pbNum ci.pb 0x10 8) = m := rfl
  have hfull : s.ckptFull (pbNum ci.pb 0x10 8) = full := rfl
  rw [State.ckptRefused, hsd, hown, hm, hfull]
  clear_value full sd own m
  rfl

/-! ### How a call goes on, or ends -/

/-- R377: the state in which a generation is this device's newest, but for the core of its call. -/
def State.ckptDone (u : State) (step gen : Nat) : State := { u with cke.ckpt := none, cke.ownGen := some (step, gen) }

theorem State.settleCkpt_of_idle (ho : r.owes .ckpt = false) (c : CoreId) (step gen : Nat) :
    State.settleCkpt { r with cke.ckpt := some ⟨c.val, step, gen, [], [], false⟩ } =
      ((r.ckptDone step gen).addHubFlag 19 1).finishCall c := by
  have howes : State.owes { r with cke.ckpt := some ⟨c.val, step, gen, [], [], false⟩ } .ckpt = false := ho
  unfold State.settleCkpt
  simp [issuePuts, howes, coreNo_val, State.ckptDone]

/-- R377: a call that has puts to send goes on, and its headers wait. -/
theorem State.settleCkpt_of_puts {q : CkptRun} (hc : q.core = c.val) (hp : q.todo ≠ []) (hu : u.cke.ckpt = some q) :
    u.settleCkpt = { (issuePuts c .ckpt q.todo u).2 with cke.ckpt := some { q with todo := (issuePuts c .ckpt q.todo u).1 } } := by
  have hpends : (!(issuePuts c .ckpt q.todo u).1.isEmpty || (issuePuts c .ckpt q.todo u).2.owes .ckpt) = true := by
    simpa using issuePuts_pends (c := c) (o := .ckpt) hp u
  have hcore : coreNo q.core = c := by rw [hc, coreNo_val]
  unfold State.settleCkpt
  rw [hu]
  dsimp only
  rw [hcore, if_pos hpends]

/-- R377: sending puts and ending a call change nothing in this device's memory. -/
theorem State.settleCkpt_mem (hs : u.has64) (hr : u.cke.rewinding = false) : u.settleCkpt.mem = u.mem := by
  unfold State.settleCkpt
  split
  · rfl
  · next q _ =>
    extract_lets core
    split
    next todo v hv =>
    have hsent : (issuePuts core .ckpt q.todo u).2 = v := congrArg Prod.snd hv
    have hmem : v.mem = u.mem := by simp [← hsent]
    have hcores : v.cores = u.cores := by simp [← hsent]
    have hcke : v.cke = u.cke := by simp [← hsent]
    split
    · exact hmem
    · split
      · exact .trans (by simp) hmem
      · refine (State.finishCall_mem (State.has64_of_cores hs ?_) ?_).trans (.trans ?_ hmem)
        · exact .trans (by simp) hcores
        · simpa [hcke] using hr
        · simp

/-- R377, R378: what a call of CKPT does once it has read its map, by the entries this device owns. -/
theorem ckpt_called {full : State} {m : ShardMap} {own : List MapEnt} (hs : s.has64) (hrew : s.cke.rewinding = false)
    (hc : s.callOf c 0x31 = some ci) (hn : s.cke.ckpt = none) (ha : pbNum ci.pb 0x10 8 = a) (ht : pbNum ci.pb 0x18 1 = target)
    (hg : pbNum ci.pb 0x19 1 = gen) (hf : s.ckptFull a = full) (hm : s.ckptMap a = m) (ho : s.ckptEnts a = own) :
    ∃ t, exec (.ckpt c) s = .next t ∧ (∀ x, t.byteAt x = s.byteAt x) ∧
      (s.ckptRefused a target = true → (t.core c).q.seq = .haltFault ∧ (t.core c).q.call = none ∧ t.cke = (s.ckptRead a).cke ∧
        t.fab = s.fab) ∧
      (s.ckptRefused a target = false → own = [] → s.owes .ckpt = false → t.cke.ckpt = none ∧
        t.cke.ownGen = some (s.cke.c, gen) ∧ (t.core c).q.call = none ∧ t.fab = s.fab) ∧
      (s.ckptRefused a target = false → own ≠ [] → t.cores = s.cores ∧ t.cke.ownGen = s.cke.ownGen ∧
        ∃ q, t.cke.ckpt = some q ∧ q.core = c.val ∧ q.c = s.cke.c ∧ q.gen = gen ∧ q.last = false ∧
          q.headers = own.zipIdx.flatMap fun x => putsOf (x.1.ckh.getD 0) (m.slotAddr x.1 gen)
            ((full.ckptSlot s.cke.c gen x).take 9 ++ [1] ++ ((full.ckptSlot s.cke.c gen x).drop 10).take 54)) := by
  have hexec := exec_ckpt_of_call hc hn ha
  have hread := s.ckptRead_read a
  have hfull := s.ckptFull_read a
  rw [hg, ht, hf, hm, ho] at hexec
  rw [hf] at hfull
  have hstep : full.cke.c = s.cke.c := by rw [hfull.health]
  refine ⟨_, hexec, fun x => ?bytes, fun hbad => ?refused, fun hgood hnil ho => ?ends, fun hgood hown => ?goes⟩
  case bytes =>
    split
    · exact (State.byteAt_of_bytes (by simp) x).trans (hread.lines.byteAt x)
    · have hmem : (full.ckptGo c m own gen).mem = full.mem :=
        State.settleCkpt_mem (hfull.has64 hs) (hfull.notRewinding hrew)
      exact (State.byteAt_of_bytes (congrArg Memory.bytes hmem) x).trans (hfull.lines.byteAt x)
  case refused =>
    obtain ⟨hseq, -, hcall, hcke, -, hfab⟩ := hread.refused hs ci (c := c)
    rw [if_pos hbad]
    exact ⟨hseq, hcall, hcke, hfab⟩
  case ends =>
    have ho' : full.owes .ckpt = false := by rw [State.owes, hfull.fab]; exact ho
    have hgo : full.ckptGo c m [] gen = ((full.ckptDone s.cke.c gen).addHubFlag 19 1).finishCall c := by
      rw [← hstep]
      exact State.settleCkpt_of_idle ho' c _ _
    rw [if_neg (by simp [hgood]), hnil, hgo]
    obtain ⟨hcall, hcke, -, hfab⟩ := State.callEnds (u := full.ckptDone s.cke.c gen) (hfull.has64 hs)
      (hfull.notRewinding hrew) (hfull.call hc) 19
    rw [hcke]
    exact ⟨rfl, rfl, hcall, hfab.trans hfull.fab⟩
  case goes =>
    have hgen : full.cke.ownGen = s.cke.ownGen := by rw [hfull.health]
    have hheaders := full.ckptRun_headers c (m := m) (own := own) (gen := gen)
    rw [hstep] at hheaders
    rw [if_neg (by simp [hgood]), State.ckptGo, State.settleCkpt_of_puts rfl (State.ckptRun_todo hown full c) rfl]
    exact ⟨.trans (by simp) hfull.cores, .trans (by simp) hgen, _, rfl, rfl, hstep, rfl, rfl, hheaders⟩

theorem ckpt_sameOutside (hexec : exec (.ckpt c) s = .next t) :
    SameOutside [.cores, .hub, .err, .mem, .cke, .pwr, .fab, .pmu, .sent, .fresh] s t := by
  have ht : resultOf s (execCkpt c s) = t := congrArg (resultOf s) hexec
  have hframe := execCkpt_frame c s
  rw [ht] at hframe
  exact fun p hp => by cases p <;> simp_all [StatePart.same]

/-- Settles O37: a call of RESHARD by `reshard_called`, one of CKPT by `ckpt_called`. -/
theorem reshardAndCheckpointCalls : Obligations.ReshardAndCheckpointCalls := by
  unfold Obligations.ReshardAndCheckpointCalls
  intro c s hs hsn hb hrew
  refine ⟨exec_reshard_of_none, exec_reshard_of_busy, fun ci hc hn => ?reshard, exec_ckpt_of_none, exec_ckpt_of_busy,
    fun ci hc hn => ?ckpt⟩
  case reshard =>
    intro a b maps r ma mb refused moves me
    have hread : CkeRead s r := s.reshardRead_read a b
    have hbad : r.reshardRefused a b (pbNum ci.pb 0x20 1) = true ↔ refused := State.reshardRefused_iff
    have hmoves : (r.liveMoves a b).map Prod.snd = moves := by
      rw [State.liveMoves_snd, hread.health.isLost]
    obtain ⟨t, hexec, hrefused, hidle, hgoes⟩ := reshard_called hs hsn hb hrew hc hn rfl rfl rfl hmoves
    exact ⟨t, hexec, fun h => hrefused (hbad.2 h), fun h => hidle (eq_false_of_ne_true (mt hbad.1 h)),
      fun h => hgoes (eq_false_of_ne_true (mt hbad.1 h)), hread.lines.byteAt, reshard_sameOutside hexec⟩
  case ckpt =>
    intro a target gen maps m own r full slot refused
    have hbad : s.ckptRefused a target = true ↔ refused := State.ckptRefused_iff
    obtain ⟨t, hexec, hbytes, hrefused, hends, hgoes⟩ := ckpt_called hs hrew hc hn rfl rfl rfl rfl rfl rfl
    exact ⟨t, hexec, hbytes, fun h => hrefused (hbad.2 h), fun h => hends (eq_false_of_ne_true (mt hbad.1 h)),
      fun h => hgoes (eq_false_of_ne_true (mt hbad.1 h)), ckpt_sameOutside hexec⟩

end Sys2Proof.Machine
end
